-- ==== Sys2Proof/Word.lean ====
section
/-! DEFINITION. The word of a register (R5) and the byte of a wire format (R7), with their plainest arithmetic. -/

namespace Sys2Proof

/-- A register word: 32 bits, bit 0 the least significant (R5). -/
abbrev Word := BitVec 32

/-- A byte of a wire format; byte 0 of a format is transmitted first (R7). -/
abbrev Byte := BitVec 8

/-- Core cycles in a tick (R4, R15). -/
def cyclesPerTick : Nat := 10000

/-- A core cycle of a tick, 0 to 9,999 (R15). -/
abbrev Cyc := Fin 10000

/-- A saturating sum: `a + b`, and at most `2 ^ w - 1`. -/
def satAdd (w a b : Nat) : Nat := min (a + b) (2 ^ w - 1)

end Sys2Proof
end

