-- ==== Sys2Proof/Data.lean ====
section
/-! DEFINITION. The operand types of the commands: what the world around the device hands to it. -/

namespace Sys2Proof

/-- A lane: 0 to 143 on the line side (R3), 144 and 145 the two Flue lanes (R59). -/
abbrev LaneNo := Fin 146
/-- A port, named by its first lane (R3). -/
abbrev PortNo := Fin 144
/-- A Chimney (R3). -/
abbrev ChimneyNo := Fin 8
/-- A Stove of a Chimney (R9). -/
abbrev StoveNo := Fin 64
/-- An association (R3). -/
abbrev AssocNo := Fin 131072
/-- A vault slot (R3). -/
abbrev SlotNo := Fin 1024
/-- A slice (R3). -/
abbrev SliceNo := Fin 256
/-- A Kindle Exchange link (R228). -/
abbrev LinkNo := Fin 144
/-- A region of sealed memory (R367). -/
abbrev RegionNo := Fin 16
/-- A module cage (R444). -/
abbrev CageNo := Fin 18

/-- Who asks for a warm reset (R48): DEV_RESET.warm with its guard byte, or a tamper halt with halt_reset. -/
inductive WarmCause where
  | register (guard : Byte)
  | tamper
  deriving DecidableEq, Repr

/-- What triggers a host reset (R48, R49). -/
inductive HostCause where
  | flr
  | perst
  | hot
  | register (guard : Byte)
  deriving DecidableEq, Repr

/-- What triggers a cold reset (R37, R48). `rail i` is main rail `i` of R41 falling below its reset threshold. -/
inductive ColdCause where
  | powerUp
  | resetN
  | rail (i : Fin 5)
  deriving DecidableEq, Repr

/-- What starts a vault quench (R37, R40). -/
inductive QuenchCause where
  | register (guard : Byte)
  | button
  | tamper
  deriving DecidableEq, Repr

/-- What the boot ROM finds in one image slot (R55): the public key of its header, the signature, the bytes that are
digested, the version, and the Stove microcode that it carries, with a version of its own (R173). -/
structure SlotImage where
  readable : Bool
  key : List Byte := []
  signature : List Byte := []
  image : List Byte := []
  version : Fin 65536 := 0
  microcode : Fin 65536 := 0
  words : List (BitVec 96) := []
  deriving DecidableEq, Repr

/-- What the device finds as a reset may be released (R44): the main rails that have been above their reset thresholds for
1 ms, bit i for rail i of R41; the reference stable for 100 µs; RESET_N and PERST_N high; VBAT above 2.20 V; and TEST_EN
(R496). -/
structure ReleaseIn where
  rails : BitVec 5 := 31
  refStable : Bool := true
  resetN : Bool := true
  perstN : Bool := true
  vbatOk : Bool := true
  testEn : Bool := false
  deriving DecidableEq, Repr

/-- A symbol on the line (R62): at NRZ rates the bit, 0 or 1; at PAM4 rates the place of its level from −3 upwards. -/
abbrev Sym := Fin 4

/-- Symbols that a lane has received. -/
structure LaneRx where
  lane : LaneNo
  xs : List Sym
  deriving DecidableEq, Repr

/-- What a lane met up to an edge: the symbols received since the lane was last told of any; how many symbols its
transmitter sent in the tick, and the bits that its port gave it for them (R82, R84); and what the eye monitor and the SNR
estimator measured (R81). -/
structure LaneIn where
  lane : LaneNo
  rx : List Sym := []
  sent : Nat := 0
  port : List Bool := []
  /-- On pair lanes: the change that the receiver wants of the partner's taps (R66), coded as in R73. -/
  tap : Fin 4 := 0
  request : Fin 4 := 0
  eyeUpper : Byte := 0
  eyeMid : Byte := 0
  eyeLower : Byte := 0
  eyeWidth : Fin 64 := 0
  snr : Fin 1024 := 0
  deriving DecidableEq, Repr

/-- What the PCS and FEC of an Ethernet port saw in the tick that an edge ends (R90, R91, R96). -/
structure PcsIn where
  port : PortNo
  blockLock : Bool := true
  markerLock : Bool := true
  highBer : Bool := false
  localFault : Bool := false
  remoteFault : Bool := false
  skewNs : Fin 1024 := 0
  cwCorrected : Nat := 0
  cwUncorrectable : Nat := 0
  symCorrected : Nat := 0
  deriving DecidableEq, Repr

/-- What the framer of an OTN port saw in the tick that an edge ends (R109, R111, R112). -/
structure OtnIn where
  port : PortNo
  markersLocked : Bool := true
  flexoLof : Bool := false
  otuAis : Bool := false
  skewNs : Fin 1024 := 0
  deriving DecidableEq, Repr

/-- An Ethernet frame as it reaches the MAC, from destination address through FCS (R93). `age` counts the core cycles
from the first bit of its DA at the pins to the cycle in which its last byte reaches the seal block (R420), `span` those
from its first byte there to its last (R127). -/
structure RxFrame where
  port : PortNo
  bytes : List Byte
  errMark : Bool := false
  age : Fin 65536 := 0
  span : Fin 10000 := 0
  deriving DecidableEq, Repr

/-- An occurrence that the hunt of a logical lane sees at a bit position (R107): bytes 1 to 5 of what would be its FAS,
the LLM and the MFAS. -/
structure LaneOcc where
  lane : Fin 20
  pos : Fin 130560
  fas : BitVec 40 := 0xF6F6F62828
  llm : Byte
  mfas : Byte
  deriving DecidableEq, Repr

/-- The section monitoring overhead of an OTN frame (R105): its trace byte, BIP-8, BEI, BDI and IAE. -/
structure SmOh where
  tti : Byte := 0
  bip : Byte := 0
  bei : Fin 16 := 0
  bdi : Bool := false
  iae : Bool := false
  deriving DecidableEq, Repr

/-- An OTN frame, with its overhead by name (R105, R216, R220). `bip` are the seven ODU BIP-8 fields, PM and TCM1 to
TCM6 (R116); `opuOh` is the OPU overhead of columns 15 and 16, `other` the overhead that passes unchanged; `payload` is the
OPU payload area in transmission order. -/
structure OtnFrame where
  fas : BitVec 48 := 0xF6F6F6282828
  mfas : Byte := 0
  sm : SmOh := {}
  gcc0 : BitVec 16 := 0
  pmTti : Byte := 0
  pmStat : Fin 8 := 1
  bip : List Byte := []
  gcc1 : BitVec 16 := 0
  gcc2 : BitVec 16 := 0
  aps : BitVec 32 := 0
  sealOh : List Byte := []
  other : List Byte := []
  opuOh : List Byte := []
  payload : List Byte := []
  fecSymbols : Nat := 0
  fecUncorrectable : Nat := 0
  deriving DecidableEq, Repr

/-- A message of the officer's token (R437), of the type that the command names: flags.sealed, its sequence number, its
body as sent, with ciphertext and tag where it is sealed, and the four bytes of its CRC. Its length field is its length. -/
structure OfcMsg where
  isSealed : Bool := false
  seq : Fin 4294967296 := 0
  body : List Byte := []
  crc : List Byte := []
  deriving DecidableEq, Repr

/-- What external memory answers to a read (R374, R380): the bytes last written there, other bytes, or poison, which
also stands for no response within a tick. -/
inductive MemAns where
  | asWritten
  | other (bytes : List Byte)
  | poison
  deriving DecidableEq, Repr

/-- What an access to a region meets (R374, R381): the answers to the node reads from the top down, to the data line
and to the tag line (a missing answer is the bytes last written); the nodes that the cache evicts first; and what a
scope that this access poisons holds: queues with spilled frames in it, and handshake contexts. -/
structure LineIn where
  nodes : List MemAns := []
  data : MemAns := .asWritten
  tag : MemAns := .asWritten
  evict : List (Fin 16 × Fin 8 × Nat) := []
  queues : List (Fin 16384) := []
  contexts : List (Fin 512) := []
  deriving DecidableEq, Repr

/-- What reaches the device from outside at an edge: measurements, pins and sensors. -/
structure EdgeIn where
  lanes : List LaneIn := []
  pcs : List PcsIn := []
  otn : List OtnIn := []
  /-- VDD_CORE and VDD_IO both above their release thresholds since the last edge (R37). -/
  railsReleased : Bool := true
  /-- VBAT above 2.20 V (R41, R58). -/
  vbatOk : Bool := true
  /-- PFW_N low (R45). -/
  pfwLow : Bool := false
  /-- PAIR_LOCK held by the partner, as the pin shows it (R399). -/
  peerLock : Bool := false
  /-- Junction temperature in °C (TMP_TEMP), two's complement. -/
  temp : BitVec 8 := 0
  /-- Crystal cycles since the last edge (R432), and the tamper conditions present (R425). -/
  rtc : Nat := 0
  tamper : BitVec 23 := 0
  /-- Mesh pairs faulted and lids open (TMP_MESH, TMP_LID). -/
  mesh : BitVec 8 := 0
  lids : BitVec 4 := 0
  /-- Flue lanes locked (R386), and aligned. -/
  flueLocked : BitVec 2 := 0
  flueAligned : Bool := true
  /-- Core cycles with a piece waiting for staging, and ATS translation requests, of the tick (R361). -/
  stagingWait : Nat := 0
  ats : Nat := 0
  /-- Slices a write of whose event ring failed in the tick (R349). -/
  ringErrors : List (Fin 256) := []
  /-- Core cycles of the tick in which a port node held eligible frames and had no eligible queue (R335). -/
  stalls : Nat := 0
  /-- Checkers (page type, instance, first_src) whose guarded words were written in the tick, and words holding an
  injected error that were written again before any read (R457). -/
  guardWrites : List (Fin 64 × Fin 256 × Fin 1024) := []
  overwrites : List (Fin 64 × Fin 256 × Fin 1024) := []
  deriving DecidableEq, Repr

end Sys2Proof
end

