-- ==== Sys2Proof/Machine/RegMap.lean ====
section
/-! DEFINITION. The register map: the pages of R481 to R485, every register of every page with the access types and
reset values of the spec's register tables (R490, R493), and every field by name.
An offset that no table names is no register: it reads 0 and ignores writes (R485). -/

namespace Sys2Proof

/-- The pages of R483, the slice pages of BAR2 (R484) and the two windows of R481. -/
inductive Page where
  | dev | pwr | flt | evr | pmc | tsu | kvt | kdl | tmp | ofc | flu | cxm | hst | hrt | sch | fwd | asn | mod | chm | stv | lan | prt | otf | sea | lrc | slc | asnw | fwdw
  deriving DecidableEq, Repr

/-- The instances of a page (R483). -/
def pageCount : Page → Nat
  | .chm | .stv | .lrc => 8
  | .lan | .prt | .otf | .sea => 144
  | .slc => 256
  | _ => 1

/-- A register field: its page, byte offset in the page, lowest bit and width (R5). -/
structure Fld where
  page : Page
  off : Nat
  lo : Nat
  w : Nat
  deriving DecidableEq, Repr

/-- The same field of the element `k` of an array register whose elements lie `stride` bytes apart. -/
def Fld.at (f : Fld) (k : Nat) (stride : Nat := 4) : Fld := { f with off := f.off + stride * k }

/-- A register (or `n` of them, `stride` bytes apart): its reset word and the bits of each access type of R490.
Bits of no mask are RO or WO. -/
structure RegDef where
  off : Nat
  n : Nat := 1
  stride : Nat := 4
  reset : Nat := 0
  rw : Nat := 0
  rwt : Nat := 0
  w1c : Nat := 0
  w1s : Nat := 0
  stk : Nat := 0
  emb : Nat := 0
  deriving DecidableEq, Repr

/-- Registers of the DEV page (R1, R32, R488, R57). -/
def regsDev : List RegDef :=
   [{ off := 0x100, reset := 0xA09144 },
    { off := 0x104, reset := 0x2000890 },
    { off := 0x108, reset := 0x800100 },
    { off := 0x10C, reset := 0x100 },
    { off := 0x110 },
    { off := 0x114 },
    { off := 0x118 },
    { off := 0x120, rw := 0x1 },
    { off := 0x124 },
    { off := 0x128, w1c := 0x500 },
    { off := 0x130, reset := 0x11, w1c := 0x100 },
    { off := 0x134, rwt := 0x7 },
    { off := 0x138 },
    { off := 0x13C },
    { off := 0x140, stk := 0x1FF },
    { off := 0x144 },
    { off := 0x148 },
    { off := 0x14C, w1c := 0x80000000 },
    { off := 0x150 },
    { off := 0x160, w1c := 0x80000000 }]

/-- Registers of the PWR page (R58). -/
def regsPwr : List RegDef :=
   [{ off := 0x100 },
    { off := 0x104, reset := 0x1, rw := 0x1 },
    { off := 0x108, stk := 0xFFFF }]

/-- Registers of the FLT page (R478). -/
def regsFlt : List RegDef :=
   [{ off := 0x100 },
    { off := 0x104, w1c := 0x8000 },
    { off := 0x108 },
    { off := 0x10C },
    { off := 0x110 },
    { off := 0x114, w1c := 0x3 },
    { off := 0x118, reset := 0x3, rw := 0x3 }]

/-- Registers of the EVR page (R479). -/
def regsEvr : List RegDef :=
   [{ off := 0x100, rwt := 0x7 },
    { off := 0x104 },
    { off := 0x108 },
    { off := 0x10C },
    { off := 0x110 },
    { off := 0x114 },
    { off := 0x118 },
    { off := 0x11C },
    { off := 0x120 },
    { off := 0x124 },
    { off := 0x128, stk := 0xFFFF },
    { off := 0x12C },
    { off := 0x130, reset := 0xA08, rwt := 0x1FFF },
    { off := 0x134, rwt := 0x1F },
    { off := 0x140, rw := 0xFFFFFFFF },
    { off := 0x144, rw := 0xFFFF },
    { off := 0x148 },
    { off := 0x14C },
    { off := 0x150, w1c := 0x3F },
    { off := 0x154, reset := 0x3F, rw := 0x3F }] ++
   [{ off := 0x200, n := 64, stride := 8, rwt := 0x1FFFF },
    { off := 0x204, n := 64, stride := 8, reset := 0x6A08, rwt := 0xFFFF },
    { off := 0x400, n := 16 }]

/-- Registers of the PMC page (R480). -/
def regsPmc : List RegDef :=
   [{ off := 0x100, rwt := 0x1F },
    { off := 0x104 },
    { off := 0x108 },
    { off := 0x10C, w1c := 0x1F },
    { off := 0x110, reset := 0x1F, rw := 0x1F },
    { off := 0x114 },
    { off := 0x118, rwt := 0x1F },
    { off := 0x11C },
    { off := 0x120, rw := 0x1FFFFFFF },
    { off := 0x124 },
    { off := 0x128 },
    { off := 0x12C }]

/-- Registers of the TSU page (R424). -/
def regsTsu : List RegDef :=
   [{ off := 0x100, rwt := 0x7 },
    { off := 0x104, reset := 0xCCCCCCCD, rwt := 0xFFFFFFFF },
    { off := 0x108, rwt := 0xFFFFFFFF },
    { off := 0x10C },
    { off := 0x110 },
    { off := 0x114 },
    { off := 0x118 },
    { off := 0x11C },
    { off := 0x120 },
    { off := 0x124, rw := 0xFFFFFFFF },
    { off := 0x128, reset := 0x64, rw := 0x7FFFF },
    { off := 0x12C },
    { off := 0x130 },
    { off := 0x134 },
    { off := 0x138 },
    { off := 0x13C, w1c := 0xF },
    { off := 0x140, reset := 0x5, rw := 0xF },
    { off := 0x400, n := 144, rwt := 0x3 }]

/-- Registers of the KVT page (R318). -/
def regsKvt : List RegDef :=
   [{ off := 0x100 },
    { off := 0x104, rw := 0x3F7F },
    { off := 0x108, reset := 0xFFFFFFFF, rw := 0xFFFFFFFF },
    { off := 0x10C, w1c := 0x20 },
    { off := 0x110, rw := 0x3FF },
    { off := 0x114, n := 4 },
    { off := 0x124 },
    { off := 0x128, rw := 0xFFFFFFFF },
    { off := 0x12C, rw := 0xFFFFFFFF },
    { off := 0x130 },
    { off := 0x134, w1c := 0x7F },
    { off := 0x138, reset := 0x7F, rw := 0x7F },
    { off := 0x13C },
    { off := 0x140 },
    { off := 0x144 },
    { off := 0x148 },
    { off := 0x14C },
    { off := 0x150 },
    { off := 0x154, reset := 0x11, rwt := 0x1F },
    { off := 0x200, n := 32 }] ++
   [{ off := 0x280, n := 32 },
    { off := 0x300, n := 32, rw := 0xFFFFFFFF }]

/-- Registers of the KDL page (R264, R289, R290). -/
def regsKdl : List RegDef :=
   [{ off := 0x100, reset := 0x88B50001, rwt := 0xFFFF0001 },
    { off := 0x104, rwt := 0x1F },
    { off := 0x108 },
    { off := 0x10C, w1c := 0x3FF },
    { off := 0x110, reset := 0x3FF, rw := 0x3FF },
    { off := 0x114 },
    { off := 0x120, reset := 0xE80080, rwt := 0x1FFFFFF },
    { off := 0x124, reset := 0x28E201A, rwt := 0x3FF3F3F },
    { off := 0x128, reset := 0x14C0040, rwt := 0x3FFFFFF },
    { off := 0x130, rwt := 0xFFFFFFFF },
    { off := 0x134, rwt := 0xFFFF },
    { off := 0x138, rwt := 0x7F },
    { off := 0x13C, rwt := 0xFFFFFFFF },
    { off := 0x140, rw := 0xFF },
    { off := 0x144, reset := 0x2, rwt := 0xFF03 },
    { off := 0x148 },
    { off := 0x14C },
    { off := 0x150 },
    { off := 0x154, rwt := 0xFFFFFFFF },
    { off := 0x158, rwt := 0xFFFFFFFF }] ++
   [{ off := 0x15C, reset := 0x4D4B444C, rwt := 0xFFFFFFFF },
    { off := 0x160, reset := 0x34C, rwt := 0xFFFF },
    { off := 0x164 },
    { off := 0x180, n := 16 },
    { off := 0x1C0, n := 8, rwt := 0xFFFFFFFF },
    { off := 0x1E0, n := 8, rwt := 0xFFFFFFFF },
    { off := 0x200, n := 64, rwt := 0xFFF },
    { off := 0x300, n := 16, rwt := 0xFFFFFFFF },
    { off := 0x168, reset := 0x40, rwt := 0xFF },
    { off := 0x16C },
    { off := 0x170 },
    { off := 0x174 },
    { off := 0x178 },
    { off := 0x17C },
    { off := 0x340, w1c := 0x1FF },
    { off := 0x344, reset := 0x1FF, rw := 0x1FF },
    { off := 0x348 }]

/-- Registers of the TMP page (R449). -/
def regsTmp : List RegDef :=
   [{ off := 0x100, reset := 0x2, rw := 0x6, w1s := 0x1, emb := 0x7 },
    { off := 0x104 },
    { off := 0x108, emb := 0xFF },
    { off := 0x10C, w1c := 0x7FFFFF },
    { off := 0x110, emb := 0x3F },
    { off := 0x114, reset := 0xCE73, rw := 0xFFFF, emb := 0xFFFF },
    { off := 0x118, reset := 0xFF, rw := 0xFF, emb := 0xFF },
    { off := 0x11C, reset := 0xF, rw := 0xF, emb := 0xF },
    { off := 0x120 },
    { off := 0x124, w1c := 0x7FFFFF },
    { off := 0x128, emb := 0xFFFFFFFF },
    { off := 0x12C, emb := 0xFFFF },
    { off := 0x130, emb := 0xFFFF03FF },
    { off := 0x134, rw := 0x1FF },
    { off := 0x138 },
    { off := 0x13C },
    { off := 0x200, n := 23, rw := 0x3F, emb := 0x3F }]

/-- Registers of the OFC page (R450). -/
def regsOfc : List RegDef :=
   [{ off := 0x100, emb := 0xF0 },
    { off := 0x104, reset := 0x20001, rw := 0x3FF03FF, emb := 0x3FF03FF },
    { off := 0x108, reset := 0x40003, rw := 0x3FF03FF, emb := 0x3FF03FF },
    { off := 0x10C, reset := 0xE100003, rw := 0xFFFF000F, emb := 0xFFFF000F },
    { off := 0x110, emb := 0xFFFFFFFF },
    { off := 0x114, w1c := 0x1F },
    { off := 0x118, reset := 0x1F, rw := 0x1F },
    { off := 0x180, n := 16 }]

/-- Registers of the FLU page (R411). -/
def regsFlu : List RegDef :=
   [{ off := 0x100, reset := 0x180000, rwt := 0x1F3FF1 },
    { off := 0x104 },
    { off := 0x108 },
    { off := 0x10C },
    { off := 0x110 },
    { off := 0x114 },
    { off := 0x118 },
    { off := 0x11C, rwt := 0xF },
    { off := 0x120 },
    { off := 0x124 },
    { off := 0x130, w1c := 0xFFF },
    { off := 0x134, reset := 0xFFF, rw := 0xFFF },
    { off := 0x138 }]

/-- Registers of the CXM page (R384). -/
def regsCxm : List RegDef :=
   [{ off := 0x100 },
    { off := 0x104, rw := 0xF },
    { off := 0x108, rwt := 0x1F07FF03 },
    { off := 0x10C, rwt := 0xFFFFF },
    { off := 0x110 },
    { off := 0x114, w1c := 0x800 },
    { off := 0x118 },
    { off := 0x11C },
    { off := 0x120 },
    { off := 0x124 },
    { off := 0x130, w1c := 0xFF },
    { off := 0x134, reset := 0xFF, rw := 0xFF },
    { off := 0x138 },
    { off := 0x200, n := 64, stride := 8 },
    { off := 0x204, n := 64, stride := 8 }]

/-- Registers of the HST page (R362). -/
def regsHst : List RegDef :=
   [{ off := 0x100 },
    { off := 0x104, rw := 0xFF },
    { off := 0x108, rw := 0xFFFFF },
    { off := 0x10C, rwt := 0x3FFFF },
    { off := 0x110, rwt := 0xFFFF01FF },
    { off := 0x114, rwt := 0x7FF03FF },
    { off := 0x118, rwt := 0x7FF07FF },
    { off := 0x11C },
    { off := 0x120 },
    { off := 0x124 },
    { off := 0x128, rwt := 0xFFFFFFFF },
    { off := 0x12C, rwt := 0xFFFFFFFF },
    { off := 0x130, rwt := 0x1FFFFFF },
    { off := 0x134, rwt := 0xFFFFFFFF },
    { off := 0x138, rwt := 0xFFFFFFFF },
    { off := 0x13C, rwt := 0xFFFFFFFF },
    { off := 0x140, rwt := 0xFFFFFFFF },
    { off := 0x144, rw := 0xFFFFFFFF },
    { off := 0x148, rw := 0xFFFFFFFF },
    { off := 0x14C, rwt := 0x1, w1c := 0x4 }] ++
   [{ off := 0x150, w1c := 0x1F },
    { off := 0x154, reset := 0x1F, rw := 0x1F },
    { off := 0x158 },
    { off := 0x400, n := 64, rw := 0x7FF }]

/-- Registers of the HRT page (R336). -/
def regsHrt : List RegDef :=
   [{ off := 0x100, reset := 0x100000 },
    { off := 0x104, reset := 0x4000, rwt := 0x1FFFFF },
    { off := 0x108 },
    { off := 0x10C, reset := 0x100000, rwt := 0x1FFF1F },
    { off := 0x110 },
    { off := 0x120, rw := 0x3FFF },
    { off := 0x124, rwt := 0x3FFF000F },
    { off := 0x128, rwt := 0x1FFFFF },
    { off := 0x12C, rwt := 0x1FFFFF },
    { off := 0x130, rwt := 0xFFFFFF },
    { off := 0x134, rwt := 0x1FFFFF },
    { off := 0x138, reset := 0xFFFFFF, rwt := 0xFFFFFF },
    { off := 0x13C },
    { off := 0x140 },
    { off := 0x144 },
    { off := 0x148 },
    { off := 0x150, w1c := 0x3F },
    { off := 0x154, reset := 0x3F, rw := 0x3F },
    { off := 0x158 }]

/-- Registers of the SCH page (R337). -/
def regsSch : List RegDef :=
   [{ off := 0x100, rw := 0x3FFF0003 },
    { off := 0x104, rwt := 0x1FFFFF },
    { off := 0x108, reset := 0xFFFFFF, rwt := 0xFFFFFF },
    { off := 0x10C, reset := 0x1000000, rwt := 0xFF0107FF },
    { off := 0x110 },
    { off := 0x114, reset := 0x14, rwt := 0x3F },
    { off := 0x118, w1c := 0x1 }]

/-- Registers of the FWD page (R146). -/
def regsFwd : List RegDef :=
   [{ off := 0x100, reset := 0x12625A0, rwt := 0x1FFFFFF },
    { off := 0x104, w1c := 0x20000 },
    { off := 0x400, n := 144, rwt := 0xFF1DFFFF }]

/-- Registers of the ASN page (R170). -/
def regsAsn : List RegDef :=
   [{ off := 0x100, reset := 0x7D, rwt := 0xFFFF },
    { off := 0x104 },
    { off := 0x108, w1c := 0x3F },
    { off := 0x10C, reset := 0x3F, rw := 0x3F },
    { off := 0x110 },
    { off := 0x120, n := 7 }]

/-- Registers of the MOD page (R451). -/
def regsMod : List RegDef :=
   [{ off := 0x100 },
    { off := 0x104, rw := 0x1F },
    { off := 0x108, reset := 0x1, rwt := 0x3 },
    { off := 0x10C, reset := 0x2, rw := 0x3 },
    { off := 0x110 },
    { off := 0x114, rw := 0xFFFFFFFF },
    { off := 0x118, rw := 0xFFFFFFFF },
    { off := 0x11C },
    { off := 0x120, w1c := 0xF },
    { off := 0x124, reset := 0xF, rw := 0xF },
    { off := 0x128 },
    { off := 0x140, reset := 0x1, rwt := 0x1 },
    { off := 0x200, n := 144, rwt := 0x7 }]

/-- Registers of the CHM page (R202). -/
def regsChm : List RegDef :=
   [{ off := 0x100, reset := 0x7, rwt := 0x1F },
    { off := 0x104, w1c := 0x2000 },
    { off := 0x108 },
    { off := 0x10C },
    { off := 0x110, w1c := 0x3F },
    { off := 0x114, reset := 0x3F, rw := 0x3F },
    { off := 0x118 }]

/-- Registers of the STV page (R203). -/
def regsStv : List RegDef :=
   [{ off := 0x100 },
    { off := 0x104 },
    { off := 0x108 },
    { off := 0x10C },
    { off := 0x110 },
    { off := 0x114 },
    { off := 0x118 },
    { off := 0x11C },
    { off := 0x120 },
    { off := 0x200, n := 16 }]

/-- Registers of the LAN page (R84). -/
def regsLan : List RegDef :=
   [{ off := 0x100, reset := 0x2, rwt := 0xFFF },
    { off := 0x104 },
    { off := 0x108, rwt := 0x7, w1c := 0x10 },
    { off := 0x10C, reset := 0x38333C, rwt := 0x13F3F3F, w1c := 0x10000000 },
    { off := 0x110, reset := 0x11007D, rw := 0x1F0FFF },
    { off := 0x114 },
    { off := 0x118, reset := 0x10, rw := 0xFFFF },
    { off := 0x11C, w1c := 0x800 },
    { off := 0x120, reset := 0x55, rwt := 0xF7 },
    { off := 0x124, w1c := 0x2 },
    { off := 0x128 },
    { off := 0x12C },
    { off := 0x130 },
    { off := 0x134 },
    { off := 0x138 },
    { off := 0x13C },
    { off := 0x140, rwt := 0x7, w1c := 0x8 }]

/-- Registers of the PRT page (R101). -/
def regsPrt : List RegDef :=
   [{ off := 0x100, rwt := 0x1FF },
    { off := 0x104, w1c := 0x8 },
    { off := 0x108, w1c := 0x7F00 },
    { off := 0x10C, reset := 0x7F, rw := 0x7F },
    { off := 0x110, reset := 0x2580, rwt := 0x3FFF },
    { off := 0x114, reset := 0x110, rwt := 0xFFFF },
    { off := 0x118, reset := 0x7D0010, rwt := 0x1FFFFFFF },
    { off := 0x11C }]

/-- Registers of the OTF page (R124). -/
def regsOtf : List RegDef :=
   [{ off := 0x100, reset := 0x510, rwt := 0x7F7 },
    { off := 0x104, w1c := 0x600 },
    { off := 0x108, reset := 0x700, rw := 0x700, w1c := 0x70 },
    { off := 0x10C, reset := 0x17725, rwt := 0x3FFFF },
    { off := 0x110, reset := 0x35, rwt := 0xFF },
    { off := 0x114 },
    { off := 0x118, reset := 0x30, rw := 0x400, rwt := 0x1F7, w1c := 0x200 },
    { off := 0x11C },
    { off := 0x120, rwt := 0xFFFFFFFF },
    { off := 0x124, reset := 0x7D0002, rwt := 0xFFFFFFF },
    { off := 0x128 },
    { off := 0x200, n := 16, rwt := 0xFFFFFFFF },
    { off := 0x240, n := 32 },
    { off := 0x2C0, n := 16, rwt := 0xFFFFFFFF }]

/-- Registers of the SEA page (R227). -/
def regsSea : List RegDef :=
   [{ off := 0x100, reset := 0x1A300000, rwt := 0x7FF3FFFF },
    { off := 0x104 },
    { off := 0x108 },
    { off := 0x10C },
    { off := 0x110, w1c := 0x7F },
    { off := 0x114, reset := 0x7F, rw := 0x7F },
    { off := 0x120, n := 4, rwt := 0xFFFFFFFF }]

/-- Registers of the LRC page (R148). -/
def regsLrc : List RegDef :=
   [{ off := 0x100, rw := 0xFFFFFFFF },
    { off := 0x104 },
    { off := 0x108, w1c := 0x2000 },
    { off := 0x10C, reset := 0x1, rwt := 0x1 }]

/-- Registers of the SLC page (R363). -/
def regsSlc : List RegDef :=
   [{ off := 0x0, w1c := 0x4 },
    { off := 0x100, n := 4, stride := 32, rw := 0xFFFFFFFF },
    { off := 0x104, n := 4, stride := 32, rw := 0xFFFFFFFF },
    { off := 0x108, n := 4, stride := 32, reset := 0x4, rw := 0x1F, rwt := 0x100 },
    { off := 0x10C, n := 4, stride := 32, rw := 0x1FFFF },
    { off := 0x110, n := 4, stride := 32 },
    { off := 0x180, rw := 0xFFFFFFFF },
    { off := 0x184, rw := 0xFFFFFFFF },
    { off := 0x188, reset := 0x10004, rw := 0xFFFF001F, rwt := 0x100 },
    { off := 0x18C, rw := 0x1FFFF },
    { off := 0x1A0, rw := 0xFFFFFFFF },
    { off := 0x1A4, rw := 0xFFFFFFFF },
    { off := 0x1A8, reset := 0x4, rw := 0x1F, rwt := 0x100 },
    { off := 0x1AC, rw := 0x1FFFF },
    { off := 0x1C0, rw := 0x3FFFFFF },
    { off := 0x1C4 },
    { off := 0x1C8 }]

/-- Registers of the ASNW page (R171). -/
def regsAsnw : List RegDef :=
   [{ off := 0x0 },
    { off := 0x4, w1c := 0x10 },
    { off := 0x100, n := 11 },
    { off := 0x12C, rw := 0xFFFFFFFF },
    { off := 0x130, n := 11 },
    { off := 0x15C, n := 41, rw := 0xFFFFFFFF }]

/-- Registers of the FWDW page (R147). -/
def regsFwdw : List RegDef :=
   [{ off := 0x0 },
    { off := 0x4, rw := 0xFFFFFFFF },
    { off := 0x8, rw := 0xFFFFFFF },
    { off := 0xC, rw := 0x3FFFF },
    { off := 0x10, rw := 0x1FFFF },
    { off := 0x14, w1c := 0x200000 },
    { off := 0x18, reset := 0xF600000, rw := 0xFFFFFFF },
    { off := 0x1C, rw := 0x1FFFF }]

/-- The registers of a page. -/
def pageRegs : Page → List RegDef
  | .dev => regsDev
  | .pwr => regsPwr
  | .flt => regsFlt
  | .evr => regsEvr
  | .pmc => regsPmc
  | .tsu => regsTsu
  | .kvt => regsKvt
  | .kdl => regsKdl
  | .tmp => regsTmp
  | .ofc => regsOfc
  | .flu => regsFlu
  | .cxm => regsCxm
  | .hst => regsHst
  | .hrt => regsHrt
  | .sch => regsSch
  | .fwd => regsFwd
  | .asn => regsAsn
  | .mod => regsMod
  | .chm => regsChm
  | .stv => regsStv
  | .lan => regsLan
  | .prt => regsPrt
  | .otf => regsOtf
  | .sea => regsSea
  | .lrc => regsLrc
  | .slc => regsSlc
  | .asnw => regsAsnw
  | .fwdw => regsFwdw

/-- The common header registers of R486 and R477. `PAGE_ID` is computed by `pageIdWord`. -/
def regsHeader : List RegDef :=
   [{ off := 0x000 },
    { off := 0x004, reset := 0x100 },
    { off := 0x008, reset := 0x100 },
    { off := 0x00C, w1c := 0x8000 },
    { off := 0x010 },
    { off := 0x014 },
    { off := 0x040, n := 8, stride := 0x10, rwt := 0x37FF },
    { off := 0x044, n := 8, stride := 0x10, rwt := 0xFFFFFFFF },
    { off := 0x048, n := 8, stride := 0x10 },
    { off := 0x04C, n := 8, stride := 0x10 }]

/-- The page type codes of R483. The slice pages and the two windows carry no page header and no code of the
manual's; 0x40 to 0x42 only tell them apart here. -/
def Page.code : Page → Nat
  | .dev => 0x01 | .pwr => 0x02 | .flt => 0x03 | .evr => 0x04 | .pmc => 0x05 | .tsu => 0x06
  | .kvt => 0x07 | .kdl => 0x08 | .tmp => 0x09 | .ofc => 0x0A | .flu => 0x0B | .cxm => 0x0C
  | .hst => 0x0D | .hrt => 0x0E | .sch => 0x0F | .fwd => 0x10 | .asn => 0x11 | .mod => 0x12
  | .chm => 0x20 | .stv => 0x21 | .lan => 0x22 | .prt => 0x23 | .otf => 0x24 | .sea => 0x25
  | .lrc => 0x26 | .slc => 0x40 | .asnw => 0x41 | .fwdw => 0x42

/-- Whether a page begins with the common header (R484, R485). -/
def Page.hasHeader : Page → Bool
  | .slc | .asnw | .fwdw => false
  | _ => true

/-- Whether a page lies at the device level: one instance, chimney field 0xFF (R483). -/
def Page.isDevice (p : Page) : Bool := p.code ≤ 0x12

/-- The Chimney of instance `i` of a Chimney page. Unit pages are numbered g = 18c + j (R3). -/
def Page.chimneyOf (p : Page) (i : Nat) : Nat :=
  match p with
  | .lan | .prt | .otf | .sea => i / 18
  | _ => i

/-- The BAR0 address of a page (R481 to R483). Instances 144 and 145 of the LAN page are the lanes of the Flue,
whose pages R385 gives no address of their own in this table. -/
def Page.addr (p : Page) (i : Nat) : Nat :=
  let base := 0x01000000 + p.chimneyOf i * 0x00200000
  match p with
  | .chm => base
  | .stv => base + 0x1000
  | .lan => base + 0x10000 + (i % 18) * 0x1000
  | .prt => base + 0x20000 + (i % 18) * 0x1000
  | .otf => base + 0x30000 + (i % 18) * 0x1000
  | .sea => base + 0x40000 + (i % 18) * 0x1000
  | .lrc => base + 0x50000
  | .asnw => 0x02000000
  | .fwdw => 0x02001000
  | .slc => 0x04000000 + i * 0x10000
  | q => 0x1000 * (q.code - 1)

/-- PAGE_ID of an instance of a page (R483, R486). -/
def pageIdWord (p : Page) (i : Nat) : Nat :=
  if p.isDevice then p.code * 2 ^ 24 + 0xFF0000
  else p.code * 2 ^ 24 + p.chimneyOf i * 2 ^ 16 +
    (match p with
     | .lan | .prt | .otf | .sea => i % 18
     | _ => 0)

/-- The reset bitmap of TMP_RESP[s] (R427). -/
def tmpRespReset (s : Nat) : Nat :=
  if s = 0 ∨ s = 6 then 0x07
  else if s = 1 ∨ s = 4 ∨ s = 5 then 0x03
  else if s = 2 ∨ s = 3 ∨ s = 7 ∨ s = 22 then 0x0B
  else if 8 ≤ s ∧ s ≤ 15 then 0x1B
  else if 16 ≤ s ∧ s ≤ 19 ∨ s = 21 then 0x23
  else if s = 20 then 0x13
  else 0

namespace F

/-- DEV_PART [15:0] (R1). -/
def devPartPartCode : Fld := ⟨.dev, 0x100, 0, 16⟩
/-- DEV_PART [23:16] (R1). -/
def devPartStep : Fld := ⟨.dev, 0x100, 16, 8⟩
/-- DEV_PARAM0 [7:0] (R1). -/
def devParam0Lanes : Fld := ⟨.dev, 0x104, 0, 8⟩
/-- DEV_PARAM0 [11:8] (R1). -/
def devParam0Chimneys : Fld := ⟨.dev, 0x104, 8, 4⟩
/-- DEV_PARAM0 [25:16] (R1). -/
def devParam0Stoves : Fld := ⟨.dev, 0x104, 16, 10⟩
/-- DEV_PARAM1 [8:0] (R1). -/
def devParam1HearthMib : Fld := ⟨.dev, 0x108, 0, 9⟩
/-- DEV_PARAM1 [23:16] (R1). -/
def devParam1AssocK : Fld := ⟨.dev, 0x108, 16, 8⟩
/-- DEV_PARAM2 [8:0] (R1). -/
def devParam2Slices : Fld := ⟨.dev, 0x10C, 0, 9⟩
/-- DEV_TICK_LO [31:0] (R32). -/
def devTickLoTickLo : Fld := ⟨.dev, 0x110, 0, 32⟩
/-- DEV_TICK_HI [31:0] (R32). -/
def devTickHiTickHi : Fld := ⟨.dev, 0x114, 0, 32⟩
/-- DEV_CYCLE [13:0] (R32). -/
def devCycleCycle : Fld := ⟨.dev, 0x118, 0, 14⟩
/-- DEV_COMMIT_CTL [0:0] (R32). -/
def devCommitCtlHold : Fld := ⟨.dev, 0x120, 0, 1⟩
/-- DEV_GOP [0:0] (R32). -/
def devGopCommit : Fld := ⟨.dev, 0x124, 0, 1⟩
/-- DEV_GOP [1:1] (R32). -/
def devGopSnapshot : Fld := ⟨.dev, 0x124, 1, 1⟩
/-- DEV_GOP [2:2] (R32). -/
def devGopBarrier : Fld := ⟨.dev, 0x124, 2, 1⟩
/-- DEV_GOP [3:3] (R32). -/
def devGopQuenchAsn : Fld := ⟨.dev, 0x124, 3, 1⟩
/-- DEV_GOP [8:8] (R32). -/
def devGopPair : Fld := ⟨.dev, 0x124, 8, 1⟩
/-- DEV_GOP [31:24] (R32). -/
def devGopGuard : Fld := ⟨.dev, 0x124, 24, 8⟩
/-- DEV_GOP_STAT [3:0] (R32). -/
def devGopStatPending : Fld := ⟨.dev, 0x128, 0, 4⟩
/-- DEV_GOP_STAT [7:4] (R32). -/
def devGopStatDone : Fld := ⟨.dev, 0x128, 4, 4⟩
/-- DEV_GOP_STAT [8:8] (R32). -/
def devGopStatRejected : Fld := ⟨.dev, 0x128, 8, 1⟩
/-- DEV_GOP_STAT [9:9] (R32). -/
def devGopStatPartnerWait : Fld := ⟨.dev, 0x128, 9, 1⟩
/-- DEV_GOP_STAT [10:10] (R32). -/
def devGopStatPartnerFail : Fld := ⟨.dev, 0x128, 10, 1⟩
/-- DEV_GOP_STAT [31:16] (R32). -/
def devGopStatDoneEdge : Fld := ⟨.dev, 0x128, 16, 16⟩
/-- DEV_MODE [3:0] (R57). -/
def devModeMode : Fld := ⟨.dev, 0x130, 0, 4⟩
/-- DEV_MODE [7:4] (R57). -/
def devModePrevMode : Fld := ⟨.dev, 0x130, 4, 4⟩
/-- DEV_MODE [8:8] (R57). -/
def devModeReqRejected : Fld := ⟨.dev, 0x130, 8, 1⟩
/-- DEV_MODE_REQ [2:0] (R57). -/
def devModeReqTarget : Fld := ⟨.dev, 0x134, 0, 3⟩
/-- DEV_RESET [0:0] (R57). -/
def devResetWarm : Fld := ⟨.dev, 0x138, 0, 1⟩
/-- DEV_RESET [1:1] (R57). -/
def devResetHost : Fld := ⟨.dev, 0x138, 1, 1⟩
/-- DEV_RESET [31:24] (R57). -/
def devResetGuard : Fld := ⟨.dev, 0x138, 24, 8⟩
/-- DEV_QUENCH [0:0] (R57). -/
def devQuenchVault : Fld := ⟨.dev, 0x13C, 0, 1⟩
/-- DEV_QUENCH [31:24] (R57). -/
def devQuenchGuard : Fld := ⟨.dev, 0x13C, 24, 8⟩
/-- DEV_RESET_CAUSE [2:0] (R57). -/
def devResetCauseKind : Fld := ⟨.dev, 0x140, 0, 3⟩
/-- DEV_RESET_CAUSE [7:3] (R57). -/
def devResetCauseTrigger : Fld := ⟨.dev, 0x140, 3, 5⟩
/-- DEV_RESET_CAUSE [8:8] (R57). -/
def devResetCauseEmberLost : Fld := ⟨.dev, 0x140, 8, 1⟩
/-- DEV_BOOT [3:0] (R57). -/
def devBootResult : Fld := ⟨.dev, 0x144, 0, 4⟩
/-- DEV_BOOT [31:16] (R57). -/
def devBootVersion : Fld := ⟨.dev, 0x144, 16, 16⟩
/-- DEV_BOOT_CTL [0:0] (R57). -/
def devBootCtlRetry : Fld := ⟨.dev, 0x148, 0, 1⟩
/-- DEV_READY [17:0] (R57). -/
def devReadyDevPages : Fld := ⟨.dev, 0x14C, 0, 18⟩
/-- DEV_READY [31:31] (R57). -/
def devReadyEarlyWrite : Fld := ⟨.dev, 0x14C, 31, 1⟩
/-- DEV_READY_CHM [7:0] (R57). -/
def devReadyChmChimney : Fld := ⟨.dev, 0x150, 0, 8⟩
/-- PWR_STAT [5:0] (R58). -/
def pwrStatRailOk : Fld := ⟨.pwr, 0x100, 0, 6⟩
/-- PWR_STAT [6:6] (R58). -/
def pwrStatNvInhibit : Fld := ⟨.pwr, 0x100, 6, 1⟩
/-- PWR_STAT [7:7] (R58). -/
def pwrStatPfw : Fld := ⟨.pwr, 0x100, 7, 1⟩
/-- PWR_STAT [8:8] (R58). -/
def pwrStatFlushBusy : Fld := ⟨.pwr, 0x100, 8, 1⟩
/-- PWR_PFW_CTL [0:0] (R58). -/
def pwrPfwCtlShed : Fld := ⟨.pwr, 0x104, 0, 1⟩
/-- PWR_EVT [7:0] (R58). -/
def pwrEvtBrownouts : Fld := ⟨.pwr, 0x108, 0, 8⟩
/-- PWR_EVT [15:8] (R58). -/
def pwrEvtPfwEvents : Fld := ⟨.pwr, 0x108, 8, 8⟩
/-- LAN_CTRL [0:0] (R84). -/
def lanCtrlEnable : Fld := ⟨.lan, 0x100, 0, 1⟩
/-- LAN_CTRL [1:1] (R84). -/
def lanCtrlTxSquelch : Fld := ⟨.lan, 0x100, 1, 1⟩
/-- LAN_CTRL [3:2] (R84). -/
def lanCtrlClass : Fld := ⟨.lan, 0x100, 2, 2⟩
/-- LAN_CTRL [4:4] (R84). -/
def lanCtrlTxInvert : Fld := ⟨.lan, 0x100, 4, 1⟩
/-- LAN_CTRL [5:5] (R84). -/
def lanCtrlRxInvert : Fld := ⟨.lan, 0x100, 5, 1⟩
/-- LAN_CTRL [6:6] (R84). -/
def lanCtrlTxPrecode : Fld := ⟨.lan, 0x100, 6, 1⟩
/-- LAN_CTRL [7:7] (R84). -/
def lanCtrlRxPrecode : Fld := ⟨.lan, 0x100, 7, 1⟩
/-- LAN_CTRL [9:8] (R84). -/
def lanCtrlTxSrc : Fld := ⟨.lan, 0x100, 8, 2⟩
/-- LAN_CTRL [11:10] (R84). -/
def lanCtrlFraming : Fld := ⟨.lan, 0x100, 10, 2⟩
/-- LAN_STAT [2:0] (R84). -/
def lanStatRate : Fld := ⟨.lan, 0x104, 0, 3⟩
/-- LAN_STAT [5:3] (R84). -/
def lanStatState : Fld := ⟨.lan, 0x104, 3, 3⟩
/-- LAN_STAT [6:6] (R84). -/
def lanStatLos : Fld := ⟨.lan, 0x104, 6, 1⟩
/-- LAN_STAT [7:7] (R84). -/
def lanStatCdrLock : Fld := ⟨.lan, 0x104, 7, 1⟩
/-- LAN_STAT [8:8] (R84). -/
def lanStatAgreed : Fld := ⟨.lan, 0x104, 8, 1⟩
/-- LAN_STAT [11:9] (R84). -/
def lanStatFailCause : Fld := ⟨.lan, 0x104, 9, 3⟩
/-- LAN_STEP [2:0] (R84). -/
def lanStepTarget : Fld := ⟨.lan, 0x108, 0, 3⟩
/-- LAN_STEP [3:3] (R84). -/
def lanStepCmisAgreed : Fld := ⟨.lan, 0x108, 3, 1⟩
/-- LAN_STEP [4:4] (R84). -/
def lanStepStepRejected : Fld := ⟨.lan, 0x108, 4, 1⟩
/-- LAN_STEP [7:5] (R84). -/
def lanStepRejectCause : Fld := ⟨.lan, 0x108, 5, 3⟩
/-- LAN_FFE [5:0] (R84). -/
def lanFfePre : Fld := ⟨.lan, 0x10C, 0, 6⟩
/-- LAN_FFE [13:8] (R84). -/
def lanFfeMain : Fld := ⟨.lan, 0x10C, 8, 6⟩
/-- LAN_FFE [21:16] (R84). -/
def lanFfePost : Fld := ⟨.lan, 0x10C, 16, 6⟩
/-- LAN_FFE [24:24] (R84). -/
def lanFfeFfeSrc : Fld := ⟨.lan, 0x10C, 24, 1⟩
/-- LAN_FFE [28:28] (R84). -/
def lanFfeFfeRejected : Fld := ⟨.lan, 0x10C, 28, 1⟩
/-- LAN_CHK [11:0] (R84). -/
def lanChkChkTicks : Fld := ⟨.lan, 0x110, 0, 12⟩
/-- LAN_CHK [20:16] (R84). -/
def lanChkPam4Shift : Fld := ⟨.lan, 0x110, 16, 5⟩
/-- LAN_SLIP [0:0] (R84). -/
def lanSlipSlip : Fld := ⟨.lan, 0x114, 0, 1⟩
/-- LAN_SLIP_CFG [15:0] (R84). -/
def lanSlipCfgPeriod : Fld := ⟨.lan, 0x118, 0, 16⟩
/-- LAN_SLIP_STAT [1:0] (R84). -/
def lanSlipStatState : Fld := ⟨.lan, 0x11C, 0, 2⟩
/-- LAN_SLIP_STAT [4:2] (R84). -/
def lanSlipStatGood : Fld := ⟨.lan, 0x11C, 2, 3⟩
/-- LAN_SLIP_STAT [10:5] (R84). -/
def lanSlipStatPosition : Fld := ⟨.lan, 0x11C, 5, 6⟩
/-- LAN_SLIP_STAT [11:11] (R84). -/
def lanSlipStatLost : Fld := ⟨.lan, 0x11C, 11, 1⟩
/-- LAN_PRBS [2:0] (R84). -/
def lanPrbsTxPattern : Fld := ⟨.lan, 0x120, 0, 3⟩
/-- LAN_PRBS [6:4] (R84). -/
def lanPrbsRxPattern : Fld := ⟨.lan, 0x120, 4, 3⟩
/-- LAN_PRBS [7:7] (R84). -/
def lanPrbsRxEnable : Fld := ⟨.lan, 0x120, 7, 1⟩
/-- LAN_PRBS [8:8] (R84). -/
def lanPrbsClear : Fld := ⟨.lan, 0x120, 8, 1⟩
/-- LAN_PRBS_STAT [0:0] (R84). -/
def lanPrbsStatLocked : Fld := ⟨.lan, 0x124, 0, 1⟩
/-- LAN_PRBS_STAT [1:1] (R84). -/
def lanPrbsStatLost : Fld := ⟨.lan, 0x124, 1, 1⟩
/-- LAN_ERR_LO [31:0] (R84). -/
def lanErrLoErrLo : Fld := ⟨.lan, 0x128, 0, 32⟩
/-- LAN_ERR_HI [15:0] (R84). -/
def lanErrHiErrHi : Fld := ⟨.lan, 0x12C, 0, 16⟩
/-- LAN_BITS_LO [31:0] (R84). -/
def lanBitsLoBitsLo : Fld := ⟨.lan, 0x130, 0, 32⟩
/-- LAN_BITS_HI [15:0] (R84). -/
def lanBitsHiBitsHi : Fld := ⟨.lan, 0x134, 0, 16⟩
/-- LAN_EYE [7:0] (R84). -/
def lanEyeEyeUpper : Fld := ⟨.lan, 0x138, 0, 8⟩
/-- LAN_EYE [15:8] (R84). -/
def lanEyeEyeMid : Fld := ⟨.lan, 0x138, 8, 8⟩
/-- LAN_EYE [23:16] (R84). -/
def lanEyeEyeLower : Fld := ⟨.lan, 0x138, 16, 8⟩
/-- LAN_EYE [29:24] (R84). -/
def lanEyeWidth : Fld := ⟨.lan, 0x138, 24, 6⟩
/-- LAN_SNR [9:0] (R84). -/
def lanSnrSnr : Fld := ⟨.lan, 0x13C, 0, 10⟩
/-- LAN_SNR [31:16] (R84). -/
def lanSnrCdrLosses : Fld := ⟨.lan, 0x13C, 16, 16⟩
/-- LAN_LOOP [1:0] (R84). -/
def lanLoopMode : Fld := ⟨.lan, 0x140, 0, 2⟩
/-- LAN_LOOP [2:2] (R84). -/
def lanLoopNeDrive : Fld := ⟨.lan, 0x140, 2, 1⟩
/-- LAN_LOOP [3:3] (R84). -/
def lanLoopLoopRejected : Fld := ⟨.lan, 0x140, 3, 1⟩
/-- PRT_CFG [0:0] (R101). -/
def prtCfgEnable : Fld := ⟨.prt, 0x100, 0, 1⟩
/-- PRT_CFG [1:1] (R101). -/
def prtCfgKind : Fld := ⟨.prt, 0x100, 1, 1⟩
/-- PRT_CFG [3:2] (R101). -/
def prtCfgWidth : Fld := ⟨.prt, 0x100, 2, 2⟩
/-- PRT_CFG [7:4] (R101). -/
def prtCfgPcs : Fld := ⟨.prt, 0x100, 4, 4⟩
/-- PRT_CFG [8:8] (R101). -/
def prtCfgSide : Fld := ⟨.prt, 0x100, 8, 1⟩
/-- PRT_STAT [2:0] (R101). -/
def prtStatState : Fld := ⟨.prt, 0x104, 0, 3⟩
/-- PRT_STAT [3:3] (R101). -/
def prtStatCfgRejected : Fld := ⟨.prt, 0x104, 3, 1⟩
/-- PRT_STAT [6:4] (R101). -/
def prtStatRejectCause : Fld := ⟨.prt, 0x104, 4, 3⟩
/-- PRT_STAT [10:7] (R101). -/
def prtStatReported : Fld := ⟨.prt, 0x104, 7, 4⟩
/-- PRT_DEF [6:0] (R101). -/
def prtDefRaw : Fld := ⟨.prt, 0x108, 0, 7⟩
/-- PRT_DEF [14:8] (R101). -/
def prtDefSticky : Fld := ⟨.prt, 0x108, 8, 7⟩
/-- PRT_DEF_INT [6:0] (R101). -/
def prtDefIntIntEn : Fld := ⟨.prt, 0x10C, 0, 7⟩
/-- PRT_FRAME [13:0] (R101). -/
def prtFrameMaxFrame : Fld := ⟨.prt, 0x110, 0, 14⟩
/-- PRT_DOWN [7:0] (R101). -/
def prtDownFlushTicks : Fld := ⟨.prt, 0x114, 0, 8⟩
/-- PRT_DOWN [15:8] (R101). -/
def prtDownUpTicks : Fld := ⟨.prt, 0x114, 8, 8⟩
/-- PRT_AUTH [15:0] (R101). -/
def prtAuthThresh : Fld := ⟨.prt, 0x118, 0, 16⟩
/-- PRT_AUTH [27:16] (R101). -/
def prtAuthWindow : Fld := ⟨.prt, 0x118, 16, 12⟩
/-- PRT_AUTH [28:28] (R101). -/
def prtAuthAuthDown : Fld := ⟨.prt, 0x118, 28, 1⟩
/-- PRT_SKEW [7:0] (R101). -/
def prtSkewSkewNs : Fld := ⟨.prt, 0x11C, 0, 8⟩
/-- OTF_CFG [2:0] (R124). -/
def otfCfgMode : Fld := ⟨.otf, 0x100, 0, 3⟩
/-- OTF_CFG [5:4] (R124). -/
def otfCfgTimAct : Fld := ⟨.otf, 0x100, 4, 2⟩
/-- OTF_CFG [6:6] (R124). -/
def otfCfgSealLosAis : Fld := ⟨.otf, 0x100, 6, 1⟩
/-- OTF_CFG [7:7] (R124). -/
def otfCfgAuthAis : Fld := ⟨.otf, 0x100, 7, 1⟩
/-- OTF_CFG [9:8] (R124). -/
def otfCfgKdlChan : Fld := ⟨.otf, 0x100, 8, 2⟩
/-- OTF_CFG [10:10] (R124). -/
def otfCfgBdiEn : Fld := ⟨.otf, 0x100, 10, 1⟩
/-- OTF_STAT [1:0] (R124). -/
def otfStatFrame : Fld := ⟨.otf, 0x104, 0, 2⟩
/-- OTF_STAT [3:2] (R124). -/
def otfStatMframe : Fld := ⟨.otf, 0x104, 2, 2⟩
/-- OTF_STAT [8:4] (R124). -/
def otfStatLanesLocked : Fld := ⟨.otf, 0x104, 4, 5⟩
/-- OTF_STAT [9:9] (R124). -/
def otfStatAmbiguous : Fld := ⟨.otf, 0x104, 9, 1⟩
/-- OTF_STAT [10:10] (R124). -/
def otfStatCfgRejected : Fld := ⟨.otf, 0x104, 10, 1⟩
/-- OTF_STAT [11:11] (R124). -/
def otfStatFreeRun : Fld := ⟨.otf, 0x104, 11, 1⟩
/-- OTF_DEF [2:0] (R124). -/
def otfDefRawHi : Fld := ⟨.otf, 0x108, 0, 3⟩
/-- OTF_DEF [6:4] (R124). -/
def otfDefStickyHi : Fld := ⟨.otf, 0x108, 4, 3⟩
/-- OTF_DEF [10:8] (R124). -/
def otfDefIntHi : Fld := ⟨.otf, 0x108, 8, 3⟩
/-- OTF_FRM [3:0] (R124). -/
def otfFrmOofFrames : Fld := ⟨.otf, 0x10C, 0, 4⟩
/-- OTF_FRM [7:4] (R124). -/
def otfFrmIfFrames : Fld := ⟨.otf, 0x10C, 4, 4⟩
/-- OTF_FRM [17:8] (R124). -/
def otfFrmLofTicks : Fld := ⟨.otf, 0x10C, 8, 10⟩
/-- OTF_TTI_CTL [0:0] (R124). -/
def otfTtiCtlCmpSmSapi : Fld := ⟨.otf, 0x110, 0, 1⟩
/-- OTF_TTI_CTL [1:1] (R124). -/
def otfTtiCtlCmpSmDapi : Fld := ⟨.otf, 0x110, 1, 1⟩
/-- OTF_TTI_CTL [2:2] (R124). -/
def otfTtiCtlCmpPmSapi : Fld := ⟨.otf, 0x110, 2, 1⟩
/-- OTF_TTI_CTL [3:3] (R124). -/
def otfTtiCtlCmpPmDapi : Fld := ⟨.otf, 0x110, 3, 1⟩
/-- OTF_TTI_CTL [7:4] (R124). -/
def otfTtiCtlTtiPersist : Fld := ⟨.otf, 0x110, 4, 4⟩
/-- OTF_TTI_STAT [0:0] (R124). -/
def otfTtiStatSmValid : Fld := ⟨.otf, 0x114, 0, 1⟩
/-- OTF_TTI_STAT [1:1] (R124). -/
def otfTtiStatPmValid : Fld := ⟨.otf, 0x114, 1, 1⟩
/-- OTF_TTI_STAT [2:2] (R124). -/
def otfTtiStatSmTim : Fld := ⟨.otf, 0x114, 2, 1⟩
/-- OTF_TTI_STAT [3:3] (R124). -/
def otfTtiStatPmTim : Fld := ⟨.otf, 0x114, 3, 1⟩
/-- OTF_APS_CTL [2:0] (R124). -/
def otfApsCtlLevel : Fld := ⟨.otf, 0x118, 0, 3⟩
/-- OTF_APS_CTL [7:4] (R124). -/
def otfApsCtlPersist : Fld := ⟨.otf, 0x118, 4, 4⟩
/-- OTF_APS_CTL [8:8] (R124). -/
def otfApsCtlTxInsert : Fld := ⟨.otf, 0x118, 8, 1⟩
/-- OTF_APS_CTL [9:9] (R124). -/
def otfApsCtlChanged : Fld := ⟨.otf, 0x118, 9, 1⟩
/-- OTF_APS_CTL [10:10] (R124). -/
def otfApsCtlIntEn : Fld := ⟨.otf, 0x118, 10, 1⟩
/-- OTF_APS_RX [31:0] (R124). -/
def otfApsRxAccepted : Fld := ⟨.otf, 0x11C, 0, 32⟩
/-- OTF_APS_TX [31:0] (R124). -/
def otfApsTxValue : Fld := ⟨.otf, 0x120, 0, 32⟩
/-- OTF_AUTH [15:0] (R124). -/
def otfAuthThresh : Fld := ⟨.otf, 0x124, 0, 16⟩
/-- OTF_AUTH [27:16] (R124). -/
def otfAuthWindow : Fld := ⟨.otf, 0x124, 16, 12⟩
/-- OTF_SKEW [7:0] (R124). -/
def otfSkewSkewNs : Fld := ⟨.otf, 0x128, 0, 8⟩
/-- OTF_TTI_EXP [31:0] (R124). -/
def otfTtiExpExpected : Fld := ⟨.otf, 0x200, 0, 32⟩
/-- OTF_TTI_ACC [31:0] (R124). -/
def otfTtiAccAccepted : Fld := ⟨.otf, 0x240, 0, 32⟩
/-- OTF_TTI_TX [31:0] (R124). -/
def otfTtiTxSmTrace : Fld := ⟨.otf, 0x2C0, 0, 32⟩
/-- FWD_CTL [23:0] (R146). -/
def fwdCtlAgePeriod : Fld := ⟨.fwd, 0x100, 0, 24⟩
/-- FWD_CTL [24:24] (R146). -/
def fwdCtlLearnEn : Fld := ⟨.fwd, 0x100, 24, 1⟩
/-- FWD_STAT [16:0] (R146). -/
def fwdStatEntries : Fld := ⟨.fwd, 0x104, 0, 17⟩
/-- FWD_STAT [17:17] (R146). -/
def fwdStatDomDiscarded : Fld := ⟨.fwd, 0x104, 17, 1⟩
/-- FWD_PMAP [16:0] (R146). -/
def fwdPmapP2pAssoc : Fld := ⟨.fwd, 0x400, 0, 17⟩
/-- FWD_PMAP [19:18] (R146). -/
def fwdPmapMode : Fld := ⟨.fwd, 0x400, 18, 2⟩
/-- FWD_PMAP [20:20] (R146). -/
def fwdPmapVidKey : Fld := ⟨.fwd, 0x400, 20, 1⟩
/-- FWD_PMAP [31:24] (R146). -/
def fwdPmapGroup : Fld := ⟨.fwd, 0x400, 24, 8⟩
/-- FWD_WIN_CMD [3:0] (R147). -/
def fwdWinCmdOp : Fld := ⟨.fwdw, 0x0, 0, 4⟩
/-- FWD_WIN_CMD [4:4] (R147). -/
def fwdWinCmdInclStatic : Fld := ⟨.fwdw, 0x0, 4, 1⟩
/-- FWD_WIN_CMD [15:8] (R147). -/
def fwdWinCmdPort : Fld := ⟨.fwdw, 0x0, 8, 8⟩
/-- FWD_WIN_KEY0 [31:0] (R147). -/
def fwdWinKey0MacLo : Fld := ⟨.fwdw, 0x4, 0, 32⟩
/-- FWD_WIN_KEY1 [15:0] (R147). -/
def fwdWinKey1MacHi : Fld := ⟨.fwdw, 0x8, 0, 16⟩
/-- FWD_WIN_KEY1 [27:16] (R147). -/
def fwdWinKey1Domain : Fld := ⟨.fwdw, 0x8, 16, 12⟩
/-- FWD_WIN_DATA [16:0] (R147). -/
def fwdWinDataAssoc : Fld := ⟨.fwdw, 0xC, 0, 17⟩
/-- FWD_WIN_DATA [17:17] (R147). -/
def fwdWinDataStatic : Fld := ⟨.fwdw, 0xC, 17, 1⟩
/-- FWD_WIN_DATA [21:18] (R147). -/
def fwdWinDataAge : Fld := ⟨.fwdw, 0xC, 18, 4⟩
/-- FWD_WIN_DATA [22:22] (R147). -/
def fwdWinDataHit : Fld := ⟨.fwdw, 0xC, 22, 1⟩
/-- FWD_WIN_DATA [23:23] (R147). -/
def fwdWinDataValid : Fld := ⟨.fwdw, 0xC, 23, 1⟩
/-- FWD_WIN_CURSOR [16:0] (R147). -/
def fwdWinCursorIndex : Fld := ⟨.fwdw, 0x10, 0, 17⟩
/-- FWD_WIN_STAT [0:0] (R147). -/
def fwdWinStatBusy : Fld := ⟨.fwdw, 0x14, 0, 1⟩
/-- FWD_WIN_STAT [3:1] (R147). -/
def fwdWinStatResult : Fld := ⟨.fwdw, 0x14, 1, 3⟩
/-- FWD_WIN_STAT [20:4] (R147). -/
def fwdWinStatCount : Fld := ⟨.fwdw, 0x14, 4, 17⟩
/-- FWD_WIN_STAT [21:21] (R147). -/
def fwdWinStatCmdLost : Fld := ⟨.fwdw, 0x14, 21, 1⟩
/-- FWD_WIN_DOM0 [11:0] (R147). -/
def fwdWinDom0Vid : Fld := ⟨.fwdw, 0x18, 0, 12⟩
/-- FWD_WIN_DOM0 [19:12] (R147). -/
def fwdWinDom0Group : Fld := ⟨.fwdw, 0x18, 12, 8⟩
/-- FWD_WIN_DOM0 [20:20] (R147). -/
def fwdWinDom0Valid : Fld := ⟨.fwdw, 0x18, 20, 1⟩
/-- FWD_WIN_DOM0 [21:21] (R147). -/
def fwdWinDom0Learn : Fld := ⟨.fwdw, 0x18, 21, 1⟩
/-- FWD_WIN_DOM0 [22:22] (R147). -/
def fwdWinDom0UnknownFwd : Fld := ⟨.fwdw, 0x18, 22, 1⟩
/-- FWD_WIN_DOM0 [23:23] (R147). -/
def fwdWinDom0EvictRandom : Fld := ⟨.fwdw, 0x18, 23, 1⟩
/-- FWD_WIN_DOM0 [27:24] (R147). -/
def fwdWinDom0AgeMax : Fld := ⟨.fwdw, 0x18, 24, 4⟩
/-- FWD_WIN_DOM1 [16:0] (R147). -/
def fwdWinDom1GroupAssoc : Fld := ⟨.fwdw, 0x1C, 0, 17⟩
/-- LRC_SEED [31:0] (R148). -/
def lrcSeedSeed : Fld := ⟨.lrc, 0x100, 0, 32⟩
/-- LRC_CMD [0:0] (R148). -/
def lrcCmdRehash : Fld := ⟨.lrc, 0x104, 0, 1⟩
/-- LRC_CMD [1:1] (R148). -/
def lrcCmdFlush : Fld := ⟨.lrc, 0x104, 1, 1⟩
/-- LRC_STAT [12:0] (R148). -/
def lrcStatEntries : Fld := ⟨.lrc, 0x108, 0, 13⟩
/-- LRC_STAT [13:13] (R148). -/
def lrcStatRehashReq : Fld := ⟨.lrc, 0x108, 13, 1⟩
/-- LRC_STAT [14:14] (R148). -/
def lrcStatRehashBusy : Fld := ⟨.lrc, 0x108, 14, 1⟩
/-- LRC_STAT [31:16] (R148). -/
def lrcStatInsertFail : Fld := ⟨.lrc, 0x108, 16, 16⟩
/-- LRC_CTL [0:0] (R148). -/
def lrcCtlEnable : Fld := ⟨.lrc, 0x10C, 0, 1⟩
/-- ASN_CTL [15:0] (R170). -/
def asnCtlDrainTicks : Fld := ⟨.asn, 0x100, 0, 16⟩
/-- ASN_STAT [0:0] (R170). -/
def asnStatQuenchBusy : Fld := ⟨.asn, 0x104, 0, 1⟩
/-- ASN_STAT [1:1] (R170). -/
def asnStatClaimsPending : Fld := ⟨.asn, 0x104, 1, 1⟩
/-- ASN_EVT [0:0] (R170). -/
def asnEvtSoftHit : Fld := ⟨.asn, 0x108, 0, 1⟩
/-- ASN_EVT [1:1] (R170). -/
def asnEvtHardHit : Fld := ⟨.asn, 0x108, 1, 1⟩
/-- ASN_EVT [2:2] (R170). -/
def asnEvtClaimStall : Fld := ⟨.asn, 0x108, 2, 1⟩
/-- ASN_EVT [3:3] (R170). -/
def asnEvtDeadEntered : Fld := ⟨.asn, 0x108, 3, 1⟩
/-- ASN_EVT [4:4] (R170). -/
def asnEvtEdgeRefused : Fld := ⟨.asn, 0x108, 4, 1⟩
/-- ASN_EVT [5:5] (R170). -/
def asnEvtRollAlarm : Fld := ⟨.asn, 0x108, 5, 1⟩
/-- ASN_INT [5:0] (R170). -/
def asnIntIntEn : Fld := ⟨.asn, 0x10C, 0, 6⟩
/-- ASN_LAST [16:0] (R170). -/
def asnLastAssoc : Fld := ⟨.asn, 0x110, 0, 17⟩
/-- ASN_LAST [19:17] (R170). -/
def asnLastBit : Fld := ⟨.asn, 0x110, 17, 3⟩
/-- ASN_STATE_CNT [17:0] (R170). -/
def asnStateCntCount : Fld := ⟨.asn, 0x120, 0, 18⟩
/-- ASN_WIN_CMD [3:0] (R171). -/
def asnWinCmdOp : Fld := ⟨.asnw, 0x0, 0, 4⟩
/-- ASN_WIN_CMD [20:4] (R171). -/
def asnWinCmdAssoc : Fld := ⟨.asnw, 0x0, 4, 17⟩
/-- ASN_WIN_STAT [0:0] (R171). -/
def asnWinStatBusy : Fld := ⟨.asnw, 0x4, 0, 1⟩
/-- ASN_WIN_STAT [3:1] (R171). -/
def asnWinStatResult : Fld := ⟨.asnw, 0x4, 1, 3⟩
/-- ASN_WIN_STAT [4:4] (R171). -/
def asnWinStatCmdLost : Fld := ⟨.asnw, 0x4, 4, 1⟩
/-- ASN_WIN_DATA [31:0] (R171). -/
def asnWinDataImage : Fld := ⟨.asnw, 0x100, 0, 32⟩
/-- CHM_CFG [0:0] (R202). -/
def chmCfgTwin : Fld := ⟨.chm, 0x100, 0, 1⟩
/-- CHM_CFG [4:1] (R202). -/
def chmCfgDummy : Fld := ⟨.chm, 0x100, 1, 4⟩
/-- CHM_STAT [6:0] (R202). -/
def chmStatStovesIn : Fld := ⟨.chm, 0x104, 0, 7⟩
/-- CHM_STAT [12:7] (R202). -/
def chmStatPairsIn : Fld := ⟨.chm, 0x104, 7, 6⟩
/-- CHM_STAT [13:13] (R202). -/
def chmStatCfgRejected : Fld := ⟨.chm, 0x104, 13, 1⟩
/-- CHM_CAP [19:0] (R202). -/
def chmCapUsable : Fld := ⟨.chm, 0x108, 0, 20⟩
/-- CHM_CREDIT [23:0] (R202). -/
def chmCreditMinCredit : Fld := ⟨.chm, 0x10C, 0, 24⟩
/-- CHM_EVT [0:0] (R202). -/
def chmEvtTwinMismatch : Fld := ⟨.chm, 0x110, 0, 1⟩
/-- CHM_EVT [1:1] (R202). -/
def chmEvtOutOfService : Fld := ⟨.chm, 0x110, 1, 1⟩
/-- CHM_EVT [2:2] (R202). -/
def chmEvtCreditRefused : Fld := ⟨.chm, 0x110, 2, 1⟩
/-- CHM_EVT [3:3] (R202). -/
def chmEvtKatFail : Fld := ⟨.chm, 0x110, 3, 1⟩
/-- CHM_EVT [4:4] (R202). -/
def chmEvtEsFail : Fld := ⟨.chm, 0x110, 4, 1⟩
/-- CHM_EVT [5:5] (R202). -/
def chmEvtReseedOverdue : Fld := ⟨.chm, 0x110, 5, 1⟩
/-- CHM_INT [5:0] (R202). -/
def chmIntIntEn : Fld := ⟨.chm, 0x114, 0, 6⟩
/-- CHM_DRBG [15:0] (R202). -/
def chmDrbgReseeds : Fld := ⟨.chm, 0x118, 0, 16⟩
/-- CHM_DRBG [16:16] (R202). -/
def chmDrbgSeeded : Fld := ⟨.chm, 0x118, 16, 1⟩
/-- CHM_DRBG [17:17] (R202). -/
def chmDrbgEsOk : Fld := ⟨.chm, 0x118, 17, 1⟩
/-- STV_SVC0 [31:0] (R203). -/
def stvSvc0InService : Fld := ⟨.stv, 0x100, 0, 32⟩
/-- STV_SVC1 [31:0] (R203). -/
def stvSvc1InService : Fld := ⟨.stv, 0x104, 0, 32⟩
/-- STV_CMD [1:0] (R203). -/
def stvCmdOp : Fld := ⟨.stv, 0x108, 0, 2⟩
/-- STV_CMD [13:8] (R203). -/
def stvCmdStove : Fld := ⟨.stv, 0x108, 8, 6⟩
/-- STV_CMD_STAT [0:0] (R203). -/
def stvCmdStatBusy : Fld := ⟨.stv, 0x10C, 0, 1⟩
/-- STV_CMD_STAT [2:1] (R203). -/
def stvCmdStatResult : Fld := ⟨.stv, 0x10C, 1, 2⟩
/-- STV_CMD_STAT [13:8] (R203). -/
def stvCmdStatStove : Fld := ⟨.stv, 0x10C, 8, 6⟩
/-- STV_KAT0 [31:0] (R203). -/
def stvKat0KatPass : Fld := ⟨.stv, 0x110, 0, 32⟩
/-- STV_KAT1 [31:0] (R203). -/
def stvKat1KatPass : Fld := ⟨.stv, 0x114, 0, 32⟩
/-- STV_UCODE [15:0] (R203). -/
def stvUcodeVersion : Fld := ⟨.stv, 0x118, 0, 16⟩
/-- STV_UCODE [27:16] (R203). -/
def stvUcodeWords : Fld := ⟨.stv, 0x118, 16, 12⟩
/-- STV_MISM [4:0] (R203). -/
def stvMismPair : Fld := ⟨.stv, 0x11C, 0, 5⟩
/-- STV_MISM [5:5] (R203). -/
def stvMismKind : Fld := ⟨.stv, 0x11C, 5, 1⟩
/-- STV_MISM [31:16] (R203). -/
def stvMismTick : Fld := ⟨.stv, 0x11C, 16, 16⟩
/-- STV_MISM_ID [16:0] (R203). -/
def stvMismIdId : Fld := ⟨.stv, 0x120, 0, 17⟩
/-- STV_CAUSE [31:0] (R203). -/
def stvCauseCause : Fld := ⟨.stv, 0x200, 0, 32⟩
/-- SEA_CFG [16:0] (R227). -/
def seaCfgOtnAssoc : Fld := ⟨.sea, 0x100, 0, 17⟩
/-- SEA_CFG [17:17] (R227). -/
def seaCfgOtnAssocValid : Fld := ⟨.sea, 0x100, 17, 1⟩
/-- SEA_CFG [23:20] (R227). -/
def seaCfgCdPersist : Fld := ⟨.sea, 0x100, 20, 4⟩
/-- SEA_CFG [26:24] (R227). -/
def seaCfgSyncGroups : Fld := ⟨.sea, 0x100, 24, 3⟩
/-- SEA_CFG [30:27] (R227). -/
def seaCfgLosGroups : Fld := ⟨.sea, 0x100, 27, 4⟩
/-- SEA_STAT [1:0] (R227). -/
def seaStatSync : Fld := ⟨.sea, 0x104, 0, 2⟩
/-- SEA_STAT [2:2] (R227). -/
def seaStatSealLos : Fld := ⟨.sea, 0x104, 2, 1⟩
/-- SEA_STAT [3:3] (R227). -/
def seaStatRxPhase : Fld := ⟨.sea, 0x104, 3, 1⟩
/-- SEA_STAT [4:4] (R227). -/
def seaStatArmed : Fld := ⟨.sea, 0x104, 4, 1⟩
/-- SEA_STAT [8:5] (R227). -/
def seaStatCdAccepted : Fld := ⟨.sea, 0x104, 5, 4⟩
/-- SEA_STAT [12:9] (R227). -/
def seaStatMismatchRun : Fld := ⟨.sea, 0x104, 9, 4⟩
/-- SEA_RXG_LO [31:0] (R227). -/
def seaRxgLoGroupLo : Fld := ⟨.sea, 0x108, 0, 32⟩
/-- SEA_RXG_HI [15:0] (R227). -/
def seaRxgHiGroupHi : Fld := ⟨.sea, 0x10C, 0, 16⟩
/-- SEA_EVT [0:0] (R227). -/
def seaEvtFormatErr : Fld := ⟨.sea, 0x110, 0, 1⟩
/-- SEA_EVT [1:1] (R227). -/
def seaEvtUnknownSci : Fld := ⟨.sea, 0x110, 1, 1⟩
/-- SEA_EVT [2:2] (R227). -/
def seaEvtSealLosEntered : Fld := ⟨.sea, 0x110, 2, 1⟩
/-- SEA_EVT [3:3] (R227). -/
def seaEvtPhaseAdopted : Fld := ⟨.sea, 0x110, 3, 1⟩
/-- SEA_EVT [4:4] (R227). -/
def seaEvtCdGlitch : Fld := ⟨.sea, 0x110, 4, 1⟩
/-- SEA_EVT [5:5] (R227). -/
def seaEvtVersionErr : Fld := ⟨.sea, 0x110, 5, 1⟩
/-- SEA_EVT [6:6] (R227). -/
def seaEvtNonsealedDrop : Fld := ⟨.sea, 0x110, 6, 1⟩
/-- SEA_INT [6:0] (R227). -/
def seaIntIntEn : Fld := ⟨.sea, 0x114, 0, 7⟩
/-- SEA_BYP [15:0] (R227). -/
def seaBypEthertype : Fld := ⟨.sea, 0x120, 0, 16⟩
/-- SEA_BYP [17:16] (R227). -/
def seaBypAction : Fld := ⟨.sea, 0x120, 16, 2⟩
/-- SEA_BYP [31:18] (R227). -/
def seaBypQueue : Fld := ⟨.sea, 0x120, 18, 14⟩
/-- KDL_CTL [0:0] (R264). -/
def kdlCtlEnable : Fld := ⟨.kdl, 0x100, 0, 1⟩
/-- KDL_CTL [31:16] (R264). -/
def kdlCtlEtype : Fld := ⟨.kdl, 0x100, 16, 16⟩
/-- KDL_STORE [3:0] (R264). -/
def kdlStoreRegion : Fld := ⟨.kdl, 0x104, 0, 4⟩
/-- KDL_STORE [4:4] (R264). -/
def kdlStoreValid : Fld := ⟨.kdl, 0x104, 4, 1⟩
/-- KDL_STAT [9:0] (R264). -/
def kdlStatLive : Fld := ⟨.kdl, 0x108, 0, 10⟩
/-- KDL_STAT [15:10] (R264). -/
def kdlStatCtxDie : Fld := ⟨.kdl, 0x108, 10, 6⟩
/-- KDL_STAT [25:16] (R264). -/
def kdlStatCtxAll : Fld := ⟨.kdl, 0x108, 16, 10⟩
/-- KDL_EVT [0:0] (R264). -/
def kdlEvtSessionLive : Fld := ⟨.kdl, 0x10C, 0, 1⟩
/-- KDL_EVT [1:1] (R264). -/
def kdlEvtAbortSent : Fld := ⟨.kdl, 0x10C, 1, 1⟩
/-- KDL_EVT [2:2] (R264). -/
def kdlEvtAbortRcvd : Fld := ⟨.kdl, 0x10C, 2, 1⟩
/-- KDL_EVT [3:3] (R264). -/
def kdlEvtUntrusted : Fld := ⟨.kdl, 0x10C, 3, 1⟩
/-- KDL_EVT [4:4] (R264). -/
def kdlEvtTraceMismatch : Fld := ⟨.kdl, 0x10C, 4, 1⟩
/-- KDL_EVT [5:5] (R264). -/
def kdlEvtMsgFailed : Fld := ⟨.kdl, 0x10C, 5, 1⟩
/-- KDL_EVT [6:6] (R264). -/
def kdlEvtInstallRefused : Fld := ⟨.kdl, 0x10C, 6, 1⟩
/-- KDL_EVT [7:7] (R264). -/
def kdlEvtLiveRefused : Fld := ⟨.kdl, 0x10C, 7, 1⟩
/-- KDL_EVT [8:8] (R264). -/
def kdlEvtCfgRejected : Fld := ⟨.kdl, 0x10C, 8, 1⟩
/-- KDL_EVT [9:9] (R264). -/
def kdlEvtNoContext : Fld := ⟨.kdl, 0x10C, 9, 1⟩
/-- KDL_INT [9:0] (R264). -/
def kdlIntIntEn : Fld := ⟨.kdl, 0x110, 0, 10⟩
/-- KDL_LAST [7:0] (R264). -/
def kdlLastLink : Fld := ⟨.kdl, 0x114, 0, 8⟩
/-- KDL_LAST [15:8] (R264). -/
def kdlLastReason : Fld := ⟨.kdl, 0x114, 8, 8⟩
/-- KDL_LAST [19:16] (R264). -/
def kdlLastBit : Fld := ⟨.kdl, 0x114, 16, 4⟩
/-- KDL_TMR0 [15:0] (R264). -/
def kdlTmr0RetxTicks : Fld := ⟨.kdl, 0x120, 0, 16⟩
/-- KDL_TMR0 [19:16] (R264). -/
def kdlTmr0RetxTries : Fld := ⟨.kdl, 0x120, 16, 4⟩
/-- KDL_TMR0 [24:20] (R264). -/
def kdlTmr0MsgToLog2 : Fld := ⟨.kdl, 0x120, 20, 5⟩
/-- KDL_TMR1 [5:0] (R264). -/
def kdlTmr1RekeyLog2 : Fld := ⟨.kdl, 0x124, 0, 6⟩
/-- KDL_TMR1 [13:8] (R264). -/
def kdlTmr1ReauthLog2 : Fld := ⟨.kdl, 0x124, 8, 6⟩
/-- KDL_TMR1 [20:16] (R264). -/
def kdlTmr1HoldoffMinLog2 : Fld := ⟨.kdl, 0x124, 16, 5⟩
/-- KDL_TMR1 [25:21] (R264). -/
def kdlTmr1HoldoffMaxLog2 : Fld := ⟨.kdl, 0x124, 21, 5⟩
/-- KDL_TMR2 [15:0] (R264). -/
def kdlTmr2OverlapTicks : Fld := ⟨.kdl, 0x128, 0, 16⟩
/-- KDL_TMR2 [20:16] (R264). -/
def kdlTmr2RollToLog2 : Fld := ⟨.kdl, 0x128, 16, 5⟩
/-- KDL_TMR2 [25:21] (R264). -/
def kdlTmr2KeepaliveLog2 : Fld := ⟨.kdl, 0x128, 21, 5⟩
/-- KDL_SA_LO [31:0] (R264). -/
def kdlSaLoSaLo : Fld := ⟨.kdl, 0x130, 0, 32⟩
/-- KDL_SA_HI [15:0] (R264). -/
def kdlSaHiSaHi : Fld := ⟨.kdl, 0x134, 0, 16⟩
/-- KDL_ENDORSE_CTL [5:0] (R264). -/
def kdlEndorseCtlAnchor : Fld := ⟨.kdl, 0x138, 0, 6⟩
/-- KDL_ENDORSE_CTL [6:6] (R264). -/
def kdlEndorseCtlValid : Fld := ⟨.kdl, 0x138, 6, 1⟩
/-- KDL_ENDORSE_SER [31:0] (R264). -/
def kdlEndorseSerSerial : Fld := ⟨.kdl, 0x13C, 0, 32⟩
/-- KDL_LINK_SEL [7:0] (R264). -/
def kdlLinkSelLink : Fld := ⟨.kdl, 0x140, 0, 8⟩
/-- KDL_LINK_CFG [0:0] (R264). -/
def kdlLinkCfgEnable : Fld := ⟨.kdl, 0x144, 0, 1⟩
/-- KDL_LINK_CFG [1:1] (R264). -/
def kdlLinkCfgStart : Fld := ⟨.kdl, 0x144, 1, 1⟩
/-- KDL_LINK_CFG [15:8] (R264). -/
def kdlLinkCfgPort : Fld := ⟨.kdl, 0x144, 8, 8⟩
/-- KDL_LINK_STAT [2:0] (R264). -/
def kdlLinkStatState : Fld := ⟨.kdl, 0x148, 0, 3⟩
/-- KDL_LINK_STAT [3:3] (R264). -/
def kdlLinkStatInitiator : Fld := ⟨.kdl, 0x148, 3, 1⟩
/-- KDL_LINK_STAT [12:4] (R264). -/
def kdlLinkStatSession : Fld := ⟨.kdl, 0x148, 4, 9⟩
/-- KDL_LINK_STAT [13:13] (R264). -/
def kdlLinkStatParallel : Fld := ⟨.kdl, 0x148, 13, 1⟩
/-- KDL_LINK_STAT [22:14] (R264). -/
def kdlLinkStatParallelSession : Fld := ⟨.kdl, 0x148, 14, 9⟩
/-- KDL_LINK_STAT [30:23] (R264). -/
def kdlLinkStatLastReason : Fld := ⟨.kdl, 0x148, 23, 8⟩
/-- KDL_LINK_STAT [31:31] (R264). -/
def kdlLinkStatNoChannel : Fld := ⟨.kdl, 0x148, 31, 1⟩
/-- KDL_LINK_EPOCH [31:0] (R264). -/
def kdlLinkEpochEpoch : Fld := ⟨.kdl, 0x14C, 0, 32⟩
/-- KDL_LINK_GEN [31:0] (R264). -/
def kdlLinkGenGeneration : Fld := ⟨.kdl, 0x150, 0, 32⟩
/-- KDL_LINK_TRUST_LO [31:0] (R264). -/
def kdlLinkTrustLoTrustLo : Fld := ⟨.kdl, 0x154, 0, 32⟩
/-- KDL_LINK_TRUST_HI [31:0] (R264). -/
def kdlLinkTrustHiTrustHi : Fld := ⟨.kdl, 0x158, 0, 32⟩
/-- KDL_LINK_DA_LO [31:0] (R264). -/
def kdlLinkDaLoDaLo : Fld := ⟨.kdl, 0x15C, 0, 32⟩
/-- KDL_LINK_DA_HI [15:0] (R264). -/
def kdlLinkDaHiDaHi : Fld := ⟨.kdl, 0x160, 0, 16⟩
/-- KDL_LINK_CMD [2:0] (R264). -/
def kdlLinkCmdOp : Fld := ⟨.kdl, 0x164, 0, 3⟩
/-- KDL_LINK_PEER [31:0] (R264). -/
def kdlLinkPeerPeerHash : Fld := ⟨.kdl, 0x180, 0, 32⟩
/-- KDL_LINK_TRACE_TX [31:0] (R264). -/
def kdlLinkTraceTxTraceTx : Fld := ⟨.kdl, 0x1C0, 0, 32⟩
/-- KDL_LINK_TRACE_EXP [31:0] (R264). -/
def kdlLinkTraceExpTraceExp : Fld := ⟨.kdl, 0x1E0, 0, 32⟩
/-- KDL_TRUST [9:0] (R264). -/
def kdlTrustSlot : Fld := ⟨.kdl, 0x200, 0, 10⟩
/-- KDL_TRUST [10:10] (R264). -/
def kdlTrustValid : Fld := ⟨.kdl, 0x200, 10, 1⟩
/-- KDL_TRUST [11:11] (R264). -/
def kdlTrustForm : Fld := ⟨.kdl, 0x200, 11, 1⟩
/-- KDL_ENDORSE_TAG [31:0] (R264). -/
def kdlEndorseTagTag : Fld := ⟨.kdl, 0x300, 0, 32⟩
/-- KDL_LINK_ROLL_CFG [3:0] (R289). -/
def kdlLinkRollCfgFailLimit : Fld := ⟨.kdl, 0x168, 0, 4⟩
/-- KDL_LINK_ROLL_CFG [7:4] (R289). -/
def kdlLinkRollCfgSilenceMult : Fld := ⟨.kdl, 0x168, 4, 4⟩
/-- KDL_LINK_ROLL_CMD [0:0] (R289). -/
def kdlLinkRollCmdRoll : Fld := ⟨.kdl, 0x16C, 0, 1⟩
/-- KDL_LINK_ROLL_STAT [2:0] (R289). -/
def kdlLinkRollStatRoll : Fld := ⟨.kdl, 0x170, 0, 3⟩
/-- KDL_LINK_ROLL_STAT [3:3] (R289). -/
def kdlLinkRollStatProposer : Fld := ⟨.kdl, 0x170, 3, 1⟩
/-- KDL_LINK_ROLL_STAT [7:4] (R289). -/
def kdlLinkRollStatFails : Fld := ⟨.kdl, 0x170, 4, 4⟩
/-- KDL_LINK_ROLL_STAT [8:8] (R289). -/
def kdlLinkRollStatAlarm : Fld := ⟨.kdl, 0x170, 8, 1⟩
/-- KDL_LINK_ROLL_STAT [9:9] (R289). -/
def kdlLinkRollStatPeerSilent : Fld := ⟨.kdl, 0x170, 9, 1⟩
/-- KDL_LINK_ROLL_STAT [10:10] (R289). -/
def kdlLinkRollStatFreshPeer : Fld := ⟨.kdl, 0x170, 10, 1⟩
/-- KDL_LINK_ROLL_STAT [11:11] (R289). -/
def kdlLinkRollStatInstallWait : Fld := ⟨.kdl, 0x170, 11, 1⟩
/-- KDL_LINK_ROLL_STAT [15:12] (R289). -/
def kdlLinkRollStatHoldK : Fld := ⟨.kdl, 0x170, 12, 4⟩
/-- KDL_LINK_ROLL_STAT [31:16] (R289). -/
def kdlLinkRollStatRtt : Fld := ⟨.kdl, 0x170, 16, 16⟩
/-- KDL_LINK_TARGET [31:0] (R289). -/
def kdlLinkTargetTarget : Fld := ⟨.kdl, 0x174, 0, 32⟩
/-- KDL_LINK_CNT0 [15:0] (R289). -/
def kdlLinkCnt0RollsDone : Fld := ⟨.kdl, 0x178, 0, 16⟩
/-- KDL_LINK_CNT0 [31:16] (R289). -/
def kdlLinkCnt0RollFailures : Fld := ⟨.kdl, 0x178, 16, 16⟩
/-- KDL_LINK_CNT1 [15:0] (R289). -/
def kdlLinkCnt1Stale : Fld := ⟨.kdl, 0x17C, 0, 16⟩
/-- KDL_LINK_CNT1 [31:16] (R289). -/
def kdlLinkCnt1Collisions : Fld := ⟨.kdl, 0x17C, 16, 16⟩
/-- KDL_ROLL_EVT [0:0] (R290). -/
def kdlRollEvtRollFailed : Fld := ⟨.kdl, 0x340, 0, 1⟩
/-- KDL_ROLL_EVT [1:1] (R290). -/
def kdlRollEvtAlarm : Fld := ⟨.kdl, 0x340, 1, 1⟩
/-- KDL_ROLL_EVT [2:2] (R290). -/
def kdlRollEvtDoneMissing : Fld := ⟨.kdl, 0x340, 2, 1⟩
/-- KDL_ROLL_EVT [3:3] (R290). -/
def kdlRollEvtCountMismatch : Fld := ⟨.kdl, 0x340, 3, 1⟩
/-- KDL_ROLL_EVT [4:4] (R290). -/
def kdlRollEvtPeerSilent : Fld := ⟨.kdl, 0x340, 4, 1⟩
/-- KDL_ROLL_EVT [5:5] (R290). -/
def kdlRollEvtParallelOpen : Fld := ⟨.kdl, 0x340, 5, 1⟩
/-- KDL_ROLL_EVT [6:6] (R290). -/
def kdlRollEvtFreshPeer : Fld := ⟨.kdl, 0x340, 6, 1⟩
/-- KDL_ROLL_EVT [7:7] (R290). -/
def kdlRollEvtEscalated : Fld := ⟨.kdl, 0x340, 7, 1⟩
/-- KDL_ROLL_EVT [8:8] (R290). -/
def kdlRollEvtCollision : Fld := ⟨.kdl, 0x340, 8, 1⟩
/-- KDL_ROLL_INT [8:0] (R290). -/
def kdlRollIntIntEn : Fld := ⟨.kdl, 0x344, 0, 9⟩
/-- KDL_ROLL_LAST [7:0] (R290). -/
def kdlRollLastLink : Fld := ⟨.kdl, 0x348, 0, 8⟩
/-- KDL_ROLL_LAST [11:8] (R290). -/
def kdlRollLastBit : Fld := ⟨.kdl, 0x348, 8, 4⟩
/-- KDL_ROLL_LAST [31:16] (R290). -/
def kdlRollLastPeerVersions : Fld := ⟨.kdl, 0x348, 16, 16⟩
/-- KVT_CMD [3:0] (R318). -/
def kvtCmdOp : Fld := ⟨.kvt, 0x100, 0, 4⟩
/-- KVT_CMD [17:8] (R318). -/
def kvtCmdSlot : Fld := ⟨.kvt, 0x100, 8, 10⟩
/-- KVT_CMD [27:18] (R318). -/
def kvtCmdAux : Fld := ⟨.kvt, 0x100, 18, 10⟩
/-- KVT_ARG [3:0] (R318). -/
def kvtArgType : Fld := ⟨.kvt, 0x104, 0, 4⟩
/-- KVT_ARG [4:4] (R318). -/
def kvtArgLength : Fld := ⟨.kvt, 0x104, 4, 1⟩
/-- KVT_ARG [5:5] (R318). -/
def kvtArgHostUse : Fld := ⟨.kvt, 0x104, 5, 1⟩
/-- KVT_ARG [6:6] (R318). -/
def kvtArgExpires : Fld := ⟨.kvt, 0x104, 6, 1⟩
/-- KVT_ARG [13:8] (R318). -/
def kvtArgCtxLen : Fld := ⟨.kvt, 0x104, 8, 6⟩
/-- KVT_USES [31:0] (R318). -/
def kvtUsesUses : Fld := ⟨.kvt, 0x108, 0, 32⟩
/-- KVT_STAT [0:0] (R318). -/
def kvtStatBusy : Fld := ⟨.kvt, 0x10C, 0, 1⟩
/-- KVT_STAT [4:1] (R318). -/
def kvtStatResult : Fld := ⟨.kvt, 0x10C, 1, 4⟩
/-- KVT_STAT [5:5] (R318). -/
def kvtStatCmdLost : Fld := ⟨.kvt, 0x10C, 5, 1⟩
/-- KVT_STAT [31:16] (R318). -/
def kvtStatOutLen : Fld := ⟨.kvt, 0x10C, 16, 16⟩
/-- KVT_SEL [9:0] (R318). -/
def kvtSelSlot : Fld := ⟨.kvt, 0x110, 0, 10⟩
/-- KVT_SLOT_ATTR [31:0] (R318). -/
def kvtSlotAttrAttributes : Fld := ⟨.kvt, 0x114, 0, 32⟩
/-- KVT_SLOT_STATE [0:0] (R318). -/
def kvtSlotStateValid : Fld := ⟨.kvt, 0x124, 0, 1⟩
/-- KVT_SLOT_STATE [1:1] (R318). -/
def kvtSlotStateBad : Fld := ⟨.kvt, 0x124, 1, 1⟩
/-- KVT_SLOT_STATE [2:2] (R318). -/
def kvtSlotStateExpired : Fld := ⟨.kvt, 0x124, 2, 1⟩
/-- KVT_SLOT_STATE [10:4] (R318). -/
def kvtSlotStateStock : Fld := ⟨.kvt, 0x124, 4, 7⟩
/-- KVT_DMA_LO [31:0] (R318). -/
def kvtDmaLoAddrLo : Fld := ⟨.kvt, 0x128, 0, 32⟩
/-- KVT_DMA_HI [31:0] (R318). -/
def kvtDmaHiAddrHi : Fld := ⟨.kvt, 0x12C, 0, 32⟩
/-- KVT_DMA_LEN [15:0] (R318). -/
def kvtDmaLenLen : Fld := ⟨.kvt, 0x130, 0, 16⟩
/-- KVT_EVT [0:0] (R318). -/
def kvtEvtBadFound : Fld := ⟨.kvt, 0x134, 0, 1⟩
/-- KVT_EVT [1:1] (R318). -/
def kvtEvtCascade : Fld := ⟨.kvt, 0x134, 1, 1⟩
/-- KVT_EVT [2:2] (R318). -/
def kvtEvtExpired : Fld := ⟨.kvt, 0x134, 2, 1⟩
/-- KVT_EVT [3:3] (R318). -/
def kvtEvtUseRefused : Fld := ⟨.kvt, 0x134, 3, 1⟩
/-- KVT_EVT [4:4] (R318). -/
def kvtEvtEsFail : Fld := ⟨.kvt, 0x134, 4, 1⟩
/-- KVT_EVT [5:5] (R318). -/
def kvtEvtOtpDone : Fld := ⟨.kvt, 0x134, 5, 1⟩
/-- KVT_EVT [6:6] (R318). -/
def kvtEvtCertStale : Fld := ⟨.kvt, 0x134, 6, 1⟩
/-- KVT_INT [6:0] (R318). -/
def kvtIntIntEn : Fld := ⟨.kvt, 0x138, 0, 7⟩
/-- KVT_LAST [9:0] (R318). -/
def kvtLastSlot : Fld := ⟨.kvt, 0x13C, 0, 10⟩
/-- KVT_LAST [12:10] (R318). -/
def kvtLastBit : Fld := ⟨.kvt, 0x13C, 10, 3⟩
/-- KVT_CASC0 [10:0] (R318). -/
def kvtCasc0Slots : Fld := ⟨.kvt, 0x140, 0, 11⟩
/-- KVT_CASC1 [17:0] (R318). -/
def kvtCasc1Assocs : Fld := ⟨.kvt, 0x144, 0, 18⟩
/-- KVT_OTP [7:0] (R318). -/
def kvtOtpRollback : Fld := ⟨.kvt, 0x148, 0, 8⟩
/-- KVT_OTP [8:8] (R318). -/
def kvtOtpProvLock : Fld := ⟨.kvt, 0x148, 8, 1⟩
/-- KVT_OTP [9:9] (R318). -/
def kvtOtpBusy : Fld := ⟨.kvt, 0x148, 9, 1⟩
/-- KVT_OTP_CMD [7:0] (R318). -/
def kvtOtpCmdTarget : Fld := ⟨.kvt, 0x14C, 0, 8⟩
/-- KVT_OTP_CMD [31:24] (R318). -/
def kvtOtpCmdGuard : Fld := ⟨.kvt, 0x14C, 24, 8⟩
/-- KVT_DRBG [15:0] (R318). -/
def kvtDrbgReseeds : Fld := ⟨.kvt, 0x150, 0, 16⟩
/-- KVT_DRBG [16:16] (R318). -/
def kvtDrbgSeeded : Fld := ⟨.kvt, 0x150, 16, 1⟩
/-- KVT_DRBG [17:17] (R318). -/
def kvtDrbgEsOk : Fld := ⟨.kvt, 0x150, 17, 1⟩
/-- KVT_SCRUB [4:0] (R318). -/
def kvtScrubScrubLog2 : Fld := ⟨.kvt, 0x154, 0, 5⟩
/-- KVT_VALID [31:0] (R318). -/
def kvtValidValid : Fld := ⟨.kvt, 0x200, 0, 32⟩
/-- KVT_BAD [31:0] (R318). -/
def kvtBadBad : Fld := ⟨.kvt, 0x280, 0, 32⟩
/-- KVT_DATA [31:0] (R318). -/
def kvtDataData : Fld := ⟨.kvt, 0x300, 0, 32⟩
/-- HRT_POOL [20:0] (R336). -/
def hrtPoolFree : Fld := ⟨.hrt, 0x100, 0, 21⟩
/-- HRT_RESV [20:0] (R336). -/
def hrtResvReserve : Fld := ⟨.hrt, 0x104, 0, 21⟩
/-- HRT_OTN [20:0] (R336). -/
def hrtOtnOtnSetAside : Fld := ⟨.hrt, 0x108, 0, 21⟩
/-- HRT_SPILL [3:0] (R336). -/
def hrtSpillRegion : Fld := ⟨.hrt, 0x10C, 0, 4⟩
/-- HRT_SPILL [4:4] (R336). -/
def hrtSpillValid : Fld := ⟨.hrt, 0x10C, 4, 1⟩
/-- HRT_SPILL [20:8] (R336). -/
def hrtSpillBacklog : Fld := ⟨.hrt, 0x10C, 8, 13⟩
/-- HRT_SPILL_STAT [30:0] (R336). -/
def hrtSpillStatCells : Fld := ⟨.hrt, 0x110, 0, 31⟩
/-- HRT_QSEL [13:0] (R336). -/
def hrtQselQueue : Fld := ⟨.hrt, 0x120, 0, 14⟩
/-- HRT_QCFG [0:0] (R336). -/
def hrtQcfgOtn : Fld := ⟨.hrt, 0x124, 0, 1⟩
/-- HRT_QCFG [1:1] (R336). -/
def hrtQcfgSpillEn : Fld := ⟨.hrt, 0x124, 1, 1⟩
/-- HRT_QCFG [3:2] (R336). -/
def hrtQcfgPolMode : Fld := ⟨.hrt, 0x124, 2, 2⟩
/-- HRT_QCFG [29:16] (R336). -/
def hrtQcfgRxQueue : Fld := ⟨.hrt, 0x124, 16, 14⟩
/-- HRT_QSHARE [20:0] (R336). -/
def hrtQshareShare : Fld := ⟨.hrt, 0x128, 0, 21⟩
/-- HRT_QMARK [20:0] (R336). -/
def hrtQmarkMarkLimit : Fld := ⟨.hrt, 0x12C, 0, 21⟩
/-- HRT_QSPILL [23:0] (R336). -/
def hrtQspillSpillShare : Fld := ⟨.hrt, 0x130, 0, 24⟩
/-- HRT_QPOL_RATE [20:0] (R336). -/
def hrtQpolRateRate : Fld := ⟨.hrt, 0x134, 0, 21⟩
/-- HRT_QPOL_BURST [23:0] (R336). -/
def hrtQpolBurstBurst : Fld := ⟨.hrt, 0x138, 0, 24⟩
/-- HRT_QOCC [20:0] (R336). -/
def hrtQoccOccupancy : Fld := ⟨.hrt, 0x13C, 0, 21⟩
/-- HRT_QSOCC [23:0] (R336). -/
def hrtQsoccSpilled : Fld := ⟨.hrt, 0x140, 0, 24⟩
/-- HRT_QPCRED [24:0] (R336). -/
def hrtQpcredPolCredit : Fld := ⟨.hrt, 0x144, 0, 25⟩
/-- HRT_CMD [0:0] (R336). -/
def hrtCmdFlush : Fld := ⟨.hrt, 0x148, 0, 1⟩
/-- HRT_EVT [0:0] (R336). -/
def hrtEvtPoolLow : Fld := ⟨.hrt, 0x150, 0, 1⟩
/-- HRT_EVT [1:1] (R336). -/
def hrtEvtOtnRefused : Fld := ⟨.hrt, 0x150, 1, 1⟩
/-- HRT_EVT [2:2] (R336). -/
def hrtEvtFlushDone : Fld := ⟨.hrt, 0x150, 2, 1⟩
/-- HRT_EVT [3:3] (R336). -/
def hrtEvtSpillFull : Fld := ⟨.hrt, 0x150, 3, 1⟩
/-- HRT_EVT [4:4] (R336). -/
def hrtEvtUncorrectable : Fld := ⟨.hrt, 0x150, 4, 1⟩
/-- HRT_EVT [5:5] (R336). -/
def hrtEvtCfgRejected : Fld := ⟨.hrt, 0x150, 5, 1⟩
/-- HRT_INT [5:0] (R336). -/
def hrtIntIntEn : Fld := ⟨.hrt, 0x154, 0, 6⟩
/-- HRT_LAST [13:0] (R336). -/
def hrtLastQueue : Fld := ⟨.hrt, 0x158, 0, 14⟩
/-- HRT_LAST [16:14] (R336). -/
def hrtLastBit : Fld := ⟨.hrt, 0x158, 14, 3⟩
/-- SCH_SEL [1:0] (R337). -/
def schSelLevel : Fld := ⟨.sch, 0x100, 0, 2⟩
/-- SCH_SEL [29:16] (R337). -/
def schSelIndex : Fld := ⟨.sch, 0x100, 16, 14⟩
/-- SCH_RATE [20:0] (R337). -/
def schRateRate : Fld := ⟨.sch, 0x104, 0, 21⟩
/-- SCH_BURST [23:0] (R337). -/
def schBurstBurst : Fld := ⟨.sch, 0x108, 0, 24⟩
/-- SCH_TREE [10:0] (R337). -/
def schTreeParent : Fld := ⟨.sch, 0x10C, 0, 11⟩
/-- SCH_TREE [16:16] (R337). -/
def schTreePrio : Fld := ⟨.sch, 0x10C, 16, 1⟩
/-- SCH_TREE [31:24] (R337). -/
def schTreeWeight : Fld := ⟨.sch, 0x10C, 24, 8⟩
/-- SCH_CREDIT [24:0] (R337). -/
def schCreditCredit : Fld := ⟨.sch, 0x110, 0, 25⟩
/-- SCH_CTL [5:0] (R337). -/
def schCtlOvh : Fld := ⟨.sch, 0x114, 0, 6⟩
/-- SCH_STAT [0:0] (R337). -/
def schStatCfgRejected : Fld := ⟨.sch, 0x118, 0, 1⟩
/-- HST_LINK [3:0] (R362). -/
def hstLinkSpeed : Fld := ⟨.hst, 0x100, 0, 4⟩
/-- HST_LINK [8:4] (R362). -/
def hstLinkWidth : Fld := ⟨.hst, 0x100, 4, 5⟩
/-- HST_SSEL [7:0] (R362). -/
def hstSselSlice : Fld := ⟨.hst, 0x104, 0, 8⟩
/-- HST_SPASID [19:0] (R362). -/
def hstSpasidPasid : Fld := ⟨.hst, 0x108, 0, 20⟩
/-- HST_SQUOTA [17:0] (R362). -/
def hstSquotaAssocQuota : Fld := ⟨.hst, 0x10C, 0, 18⟩
/-- HST_SRES [7:0] (R362). -/
def hstSresStoveWeight : Fld := ⟨.hst, 0x110, 0, 8⟩
/-- HST_SRES [8:8] (R362). -/
def hstSresCounterRead : Fld := ⟨.hst, 0x110, 8, 1⟩
/-- HST_SRES [31:16] (R362). -/
def hstSresCellQuota : Fld := ⟨.hst, 0x110, 16, 16⟩
/-- HST_SVAULT [9:0] (R362). -/
def hstSvaultVaultBase : Fld := ⟨.hst, 0x114, 0, 10⟩
/-- HST_SVAULT [26:16] (R362). -/
def hstSvaultVaultCount : Fld := ⟨.hst, 0x114, 16, 11⟩
/-- HST_SVEC [10:0] (R362). -/
def hstSvecCqVec : Fld := ⟨.hst, 0x118, 0, 11⟩
/-- HST_SVEC [26:16] (R362). -/
def hstSvecEqVec : Fld := ⟨.hst, 0x118, 16, 11⟩
/-- HST_SCMD [2:0] (R362). -/
def hstScmdOp : Fld := ⟨.hst, 0x11C, 0, 3⟩
/-- HST_SSTAT [1:0] (R362). -/
def hstSstatState : Fld := ⟨.hst, 0x120, 0, 2⟩
/-- HST_SSTAT [4:2] (R362). -/
def hstSstatResult : Fld := ⟨.hst, 0x120, 2, 3⟩
/-- HST_SSTAT [31:16] (R362). -/
def hstSstatGeneration : Fld := ⟨.hst, 0x120, 16, 16⟩
/-- HST_SOUT [15:0] (R362). -/
def hstSoutCurrent : Fld := ⟨.hst, 0x124, 0, 16⟩
/-- HST_SOUT [31:16] (R362). -/
def hstSoutPrevious : Fld := ⟨.hst, 0x124, 16, 16⟩
/-- HST_DLOG_IOVA_LO [31:0] (R362). -/
def hstDlogIovaLoIovaLo : Fld := ⟨.hst, 0x128, 0, 32⟩
/-- HST_DLOG_IOVA_HI [31:0] (R362). -/
def hstDlogIovaHiIovaHi : Fld := ⟨.hst, 0x12C, 0, 32⟩
/-- HST_DLOG_PAGES [24:0] (R362). -/
def hstDlogPagesPages : Fld := ⟨.hst, 0x130, 0, 25⟩
/-- HST_DLOG_BUF0_LO [31:0] (R362). -/
def hstDlogBuf0LoBuf0 : Fld := ⟨.hst, 0x134, 0, 32⟩
/-- HST_DLOG_BUF0_HI [31:0] (R362). -/
def hstDlogBuf0HiBuf0 : Fld := ⟨.hst, 0x138, 0, 32⟩
/-- HST_DLOG_BUF1_LO [31:0] (R362). -/
def hstDlogBuf1LoBuf1 : Fld := ⟨.hst, 0x13C, 0, 32⟩
/-- HST_DLOG_BUF1_HI [31:0] (R362). -/
def hstDlogBuf1HiBuf1 : Fld := ⟨.hst, 0x140, 0, 32⟩
/-- HST_DLOG_DST_LO [31:0] (R362). -/
def hstDlogDstLoDst : Fld := ⟨.hst, 0x144, 0, 32⟩
/-- HST_DLOG_DST_HI [31:0] (R362). -/
def hstDlogDstHiDst : Fld := ⟨.hst, 0x148, 0, 32⟩
/-- HST_DLOG_CTL [0:0] (R362). -/
def hstDlogCtlDlogEn : Fld := ⟨.hst, 0x14C, 0, 1⟩
/-- HST_DLOG_CTL [1:1] (R362). -/
def hstDlogCtlActive : Fld := ⟨.hst, 0x14C, 1, 1⟩
/-- HST_DLOG_CTL [2:2] (R362). -/
def hstDlogCtlDlogOvf : Fld := ⟨.hst, 0x14C, 2, 1⟩
/-- HST_EVT [0:0] (R362). -/
def hstEvtResetDone : Fld := ⟨.hst, 0x150, 0, 1⟩
/-- HST_EVT [1:1] (R362). -/
def hstEvtResetTimeout : Fld := ⟨.hst, 0x150, 1, 1⟩
/-- HST_EVT [2:2] (R362). -/
def hstEvtCmdRejected : Fld := ⟨.hst, 0x150, 2, 1⟩
/-- HST_EVT [3:3] (R362). -/
def hstEvtDirtyDone : Fld := ⟨.hst, 0x150, 3, 1⟩
/-- HST_EVT [4:4] (R362). -/
def hstEvtRingFault : Fld := ⟨.hst, 0x150, 4, 1⟩
/-- HST_INT [4:0] (R362). -/
def hstIntIntEn : Fld := ⟨.hst, 0x154, 0, 5⟩
/-- HST_LAST [7:0] (R362). -/
def hstLastSlice : Fld := ⟨.hst, 0x158, 0, 8⟩
/-- HST_LAST [10:8] (R362). -/
def hstLastBit : Fld := ⟨.hst, 0x158, 8, 3⟩
/-- HST_VMAP [10:0] (R362). -/
def hstVmapVector : Fld := ⟨.hst, 0x400, 0, 11⟩
/-- SLC_STAT [1:0] (R363). -/
def slcStatState : Fld := ⟨.slc, 0x0, 0, 2⟩
/-- SLC_STAT [2:2] (R363). -/
def slcStatCfgRejected : Fld := ⟨.slc, 0x0, 2, 1⟩
/-- SLC_STAT [31:16] (R363). -/
def slcStatGeneration : Fld := ⟨.slc, 0x0, 16, 16⟩
/-- SLC_SQ_BASE_LO [31:0] (R363). -/
def slcSqBaseLoBase : Fld := ⟨.slc, 0x100, 0, 32⟩
/-- SLC_SQ_BASE_HI [31:0] (R363). -/
def slcSqBaseHiBase : Fld := ⟨.slc, 0x104, 0, 32⟩
/-- SLC_SQ_CFG [4:0] (R363). -/
def slcSqCfgLog2Size : Fld := ⟨.slc, 0x108, 0, 5⟩
/-- SLC_SQ_CFG [8:8] (R363). -/
def slcSqCfgEnable : Fld := ⟨.slc, 0x108, 8, 1⟩
/-- SLC_SQ_TAIL [16:0] (R363). -/
def slcSqTailTail : Fld := ⟨.slc, 0x10C, 0, 17⟩
/-- SLC_SQ_HEAD [16:0] (R363). -/
def slcSqHeadHead : Fld := ⟨.slc, 0x110, 0, 17⟩
/-- SLC_CQ_BASE_LO [31:0] (R363). -/
def slcCqBaseLoBase : Fld := ⟨.slc, 0x180, 0, 32⟩
/-- SLC_CQ_BASE_HI [31:0] (R363). -/
def slcCqBaseHiBase : Fld := ⟨.slc, 0x184, 0, 32⟩
/-- SLC_CQ_CFG [4:0] (R363). -/
def slcCqCfgLog2Size : Fld := ⟨.slc, 0x188, 0, 5⟩
/-- SLC_CQ_CFG [8:8] (R363). -/
def slcCqCfgEnable : Fld := ⟨.slc, 0x188, 8, 1⟩
/-- SLC_CQ_CFG [23:16] (R363). -/
def slcCqCfgCoalCount : Fld := ⟨.slc, 0x188, 16, 8⟩
/-- SLC_CQ_CFG [31:24] (R363). -/
def slcCqCfgCoalTicks : Fld := ⟨.slc, 0x188, 24, 8⟩
/-- SLC_CQ_HEAD [16:0] (R363). -/
def slcCqHeadHead : Fld := ⟨.slc, 0x18C, 0, 17⟩
/-- SLC_EQ_BASE_LO [31:0] (R363). -/
def slcEqBaseLoBase : Fld := ⟨.slc, 0x1A0, 0, 32⟩
/-- SLC_EQ_BASE_HI [31:0] (R363). -/
def slcEqBaseHiBase : Fld := ⟨.slc, 0x1A4, 0, 32⟩
/-- SLC_EQ_CFG [4:0] (R363). -/
def slcEqCfgLog2Size : Fld := ⟨.slc, 0x1A8, 0, 5⟩
/-- SLC_EQ_CFG [8:8] (R363). -/
def slcEqCfgEnable : Fld := ⟨.slc, 0x1A8, 8, 1⟩
/-- SLC_EQ_CFG [23:16] (R363). -/
def slcEqCfgLost : Fld := ⟨.slc, 0x1A8, 16, 8⟩
/-- SLC_EQ_HEAD [16:0] (R363). -/
def slcEqHeadHead : Fld := ⟨.slc, 0x1AC, 0, 17⟩
/-- SLC_CTR_SEL [25:0] (R363). -/
def slcCtrSelOffset : Fld := ⟨.slc, 0x1C0, 0, 26⟩
/-- SLC_CTR_LO [31:0] (R363). -/
def slcCtrLoValueLo : Fld := ⟨.slc, 0x1C4, 0, 32⟩
/-- SLC_CTR_HI [31:0] (R363). -/
def slcCtrHiValueHi : Fld := ⟨.slc, 0x1C8, 0, 32⟩
/-- CXM_LINK [1:0] (R384). -/
def cxmLinkState : Fld := ⟨.cxm, 0x100, 0, 2⟩
/-- CXM_LINK [3:2] (R384). -/
def cxmLinkRate : Fld := ⟨.cxm, 0x100, 2, 2⟩
/-- CXM_LINK [8:4] (R384). -/
def cxmLinkWidth : Fld := ⟨.cxm, 0x100, 4, 5⟩
/-- CXM_LINK [19:10] (R384). -/
def cxmLinkCapacityGib : Fld := ⟨.cxm, 0x100, 10, 10⟩
/-- CXM_RSEL [3:0] (R384). -/
def cxmRselRegion : Fld := ⟨.cxm, 0x104, 0, 4⟩
/-- CXM_RCFG [0:0] (R384). -/
def cxmRcfgEnable : Fld := ⟨.cxm, 0x108, 0, 1⟩
/-- CXM_RCFG [1:1] (R384). -/
def cxmRcfgKind : Fld := ⟨.cxm, 0x108, 1, 1⟩
/-- CXM_RCFG [18:8] (R384). -/
def cxmRcfgSize : Fld := ⟨.cxm, 0x108, 8, 11⟩
/-- CXM_RCFG [28:24] (R384). -/
def cxmRcfgUses : Fld := ⟨.cxm, 0x108, 24, 5⟩
/-- CXM_RBASE [19:0] (R384). -/
def cxmRbaseBaseMib : Fld := ⟨.cxm, 0x10C, 0, 20⟩
/-- CXM_RFOOT [19:0] (R384). -/
def cxmRfootFootMib : Fld := ⟨.cxm, 0x110, 0, 20⟩
/-- CXM_RFOOT [23:20] (R384). -/
def cxmRfootLevels : Fld := ⟨.cxm, 0x110, 20, 4⟩
/-- CXM_RSTAT [1:0] (R384). -/
def cxmRstatState : Fld := ⟨.cxm, 0x114, 0, 2⟩
/-- CXM_RSTAT [2:2] (R384). -/
def cxmRstatSweep : Fld := ⟨.cxm, 0x114, 2, 1⟩
/-- CXM_RSTAT [3:3] (R384). -/
def cxmRstatStall : Fld := ⟨.cxm, 0x114, 3, 1⟩
/-- CXM_RSTAT [10:4] (R384). -/
def cxmRstatEarlyUsed : Fld := ⟨.cxm, 0x114, 4, 7⟩
/-- CXM_RSTAT [11:11] (R384). -/
def cxmRstatCfgRejected : Fld := ⟨.cxm, 0x114, 11, 1⟩
/-- CXM_RSTAT [31:16] (R384). -/
def cxmRstatEpoch : Fld := ⟨.cxm, 0x114, 16, 16⟩
/-- CXM_RSWEEP [28:0] (R384). -/
def cxmRsweepPointer : Fld := ⟨.cxm, 0x118, 0, 29⟩
/-- CXM_RMAXC [27:0] (R384). -/
def cxmRmaxcMaxCounter : Fld := ⟨.cxm, 0x11C, 0, 28⟩
/-- CXM_CMD [1:0] (R384). -/
def cxmCmdOp : Fld := ⟨.cxm, 0x120, 0, 2⟩
/-- CXM_CMD [13:8] (R384). -/
def cxmCmdEntry : Fld := ⟨.cxm, 0x120, 8, 6⟩
/-- CXM_CMD_STAT [0:0] (R384). -/
def cxmCmdStatBusy : Fld := ⟨.cxm, 0x124, 0, 1⟩
/-- CXM_CMD_STAT [2:1] (R384). -/
def cxmCmdStatResult : Fld := ⟨.cxm, 0x124, 1, 2⟩
/-- CXM_EVT [0:0] (R384). -/
def cxmEvtSweepStarted : Fld := ⟨.cxm, 0x130, 0, 1⟩
/-- CXM_EVT [1:1] (R384). -/
def cxmEvtSweepDone : Fld := ⟨.cxm, 0x130, 1, 1⟩
/-- CXM_EVT [2:2] (R384). -/
def cxmEvtEarlyMove : Fld := ⟨.cxm, 0x130, 2, 1⟩
/-- CXM_EVT [3:3] (R384). -/
def cxmEvtStall : Fld := ⟨.cxm, 0x130, 3, 1⟩
/-- CXM_EVT [4:4] (R384). -/
def cxmEvtPoisoned : Fld := ⟨.cxm, 0x130, 4, 1⟩
/-- CXM_EVT [5:5] (R384). -/
def cxmEvtIntegrity : Fld := ⟨.cxm, 0x130, 5, 1⟩
/-- CXM_EVT [6:6] (R384). -/
def cxmEvtLinkDown : Fld := ⟨.cxm, 0x130, 6, 1⟩
/-- CXM_EVT [7:7] (R384). -/
def cxmEvtCorrected : Fld := ⟨.cxm, 0x130, 7, 1⟩
/-- CXM_INT [7:0] (R384). -/
def cxmIntIntEn : Fld := ⟨.cxm, 0x134, 0, 8⟩
/-- CXM_LAST [3:0] (R384). -/
def cxmLastRegion : Fld := ⟨.cxm, 0x138, 0, 4⟩
/-- CXM_LAST [6:4] (R384). -/
def cxmLastBit : Fld := ⟨.cxm, 0x138, 4, 3⟩
/-- CXM_POISON0 [0:0] (R384). -/
def cxmPoison0Valid : Fld := ⟨.cxm, 0x200, 0, 1⟩
/-- CXM_POISON0 [4:1] (R384). -/
def cxmPoison0Region : Fld := ⟨.cxm, 0x200, 1, 4⟩
/-- CXM_POISON0 [6:5] (R384). -/
def cxmPoison0Scope : Fld := ⟨.cxm, 0x200, 5, 2⟩
/-- CXM_POISON0 [9:7] (R384). -/
def cxmPoison0Level : Fld := ⟨.cxm, 0x200, 7, 3⟩
/-- CXM_POISON0 [10:10] (R384). -/
def cxmPoison0IndexHi : Fld := ⟨.cxm, 0x200, 10, 1⟩
/-- CXM_POISON1 [31:0] (R384). -/
def cxmPoison1Index : Fld := ⟨.cxm, 0x204, 0, 32⟩
/-- FLU_CFG [0:0] (R411). -/
def fluCfgEnable : Fld := ⟨.flu, 0x100, 0, 1⟩
/-- FLU_CFG [13:4] (R411). -/
def fluCfgPairSlot : Fld := ⟨.flu, 0x100, 4, 10⟩
/-- FLU_CFG [19:16] (R411). -/
def fluCfgPriority : Fld := ⟨.flu, 0x100, 16, 4⟩
/-- FLU_CFG [20:20] (R411). -/
def fluCfgStEn : Fld := ⟨.flu, 0x100, 20, 1⟩
/-- FLU_STAT [2:0] (R411). -/
def fluStatState : Fld := ⟨.flu, 0x104, 0, 3⟩
/-- FLU_STAT [3:3] (R411). -/
def fluStatSide : Fld := ⟨.flu, 0x104, 3, 1⟩
/-- FLU_STAT [4:4] (R411). -/
def fluStatLockHeld : Fld := ⟨.flu, 0x104, 4, 1⟩
/-- FLU_STAT [5:5] (R411). -/
def fluStatPeerLock : Fld := ⟨.flu, 0x104, 5, 1⟩
/-- FLU_STAT [6:6] (R411). -/
def fluStatPartnerSync : Fld := ⟨.flu, 0x104, 6, 1⟩
/-- FLU_STAT [7:7] (R411). -/
def fluStatMirrorValid : Fld := ⟨.flu, 0x104, 7, 1⟩
/-- FLU_STAT [8:8] (R411). -/
def fluStatRunWait : Fld := ⟨.flu, 0x104, 8, 1⟩
/-- FLU_STAT [10:9] (R411). -/
def fluStatLanesUp : Fld := ⟨.flu, 0x104, 9, 2⟩
/-- FLU_STAT [11:11] (R411). -/
def fluStatSideConflict : Fld := ⟨.flu, 0x104, 11, 1⟩
/-- FLU_STAT [12:12] (R411). -/
def fluStatPairMismatch : Fld := ⟨.flu, 0x104, 12, 1⟩
/-- FLU_CLAIM [15:0] (R411). -/
def fluClaimOwn : Fld := ⟨.flu, 0x108, 0, 16⟩
/-- FLU_CLAIM [31:16] (R411). -/
def fluClaimPeer : Fld := ⟨.flu, 0x108, 16, 16⟩
/-- FLU_CLAIM_AGE [6:0] (R411). -/
def fluClaimAgeAge : Fld := ⟨.flu, 0x10C, 0, 7⟩
/-- FLU_HEALTH [15:0] (R411). -/
def fluHealthOwn : Fld := ⟨.flu, 0x110, 0, 16⟩
/-- FLU_HEALTH [31:16] (R411). -/
def fluHealthPeer : Fld := ⟨.flu, 0x110, 16, 16⟩
/-- FLU_SLIP [1:0] (R411). -/
def fluSlipWaiting : Fld := ⟨.flu, 0x114, 0, 2⟩
/-- FLU_SLIP [15:8] (R411). -/
def fluSlipDrops : Fld := ⟨.flu, 0x114, 8, 8⟩
/-- FLU_SLIP [23:16] (R411). -/
def fluSlipRepeats : Fld := ⟨.flu, 0x114, 16, 8⟩
/-- FLU_BACKLOG [23:0] (R411). -/
def fluBacklogBytes : Fld := ⟨.flu, 0x118, 0, 24⟩
/-- FLU_SEL [3:0] (R411). -/
def fluSelSel : Fld := ⟨.flu, 0x11C, 0, 4⟩
/-- FLU_CMD [1:0] (R411). -/
def fluCmdOp : Fld := ⟨.flu, 0x120, 0, 2⟩
/-- FLU_TKO [15:0] (R411). -/
def fluTkoEdge : Fld := ⟨.flu, 0x124, 0, 16⟩
/-- FLU_TKO [16:16] (R411). -/
def fluTkoWarm : Fld := ⟨.flu, 0x124, 16, 1⟩
/-- FLU_EVT [0:0] (R411). -/
def fluEvtPartnerFailed : Fld := ⟨.flu, 0x130, 0, 1⟩
/-- FLU_EVT [1:1] (R411). -/
def fluEvtTakeoverWarm : Fld := ⟨.flu, 0x130, 1, 1⟩
/-- FLU_EVT [2:2] (R411). -/
def fluEvtTakeoverCold : Fld := ⟨.flu, 0x130, 2, 1⟩
/-- FLU_EVT [3:3] (R411). -/
def fluEvtMirrorStale : Fld := ⟨.flu, 0x130, 3, 1⟩
/-- FLU_EVT [4:4] (R411). -/
def fluEvtFlueLost : Fld := ⟨.flu, 0x130, 4, 1⟩
/-- FLU_EVT [5:5] (R411). -/
def fluEvtSlip : Fld := ⟨.flu, 0x130, 5, 1⟩
/-- FLU_EVT [6:6] (R411). -/
def fluEvtTagFail : Fld := ⟨.flu, 0x130, 6, 1⟩
/-- FLU_EVT [7:7] (R411). -/
def fluEvtPairMismatch : Fld := ⟨.flu, 0x130, 7, 1⟩
/-- FLU_EVT [8:8] (R411). -/
def fluEvtSideConflict : Fld := ⟨.flu, 0x130, 8, 1⟩
/-- FLU_EVT [9:9] (R411). -/
def fluEvtLockConflict : Fld := ⟨.flu, 0x130, 9, 1⟩
/-- FLU_EVT [10:10] (R411). -/
def fluEvtCmdRejected : Fld := ⟨.flu, 0x130, 10, 1⟩
/-- FLU_EVT [11:11] (R411). -/
def fluEvtSynced : Fld := ⟨.flu, 0x130, 11, 1⟩
/-- FLU_INT [11:0] (R411). -/
def fluIntIntEn : Fld := ⟨.flu, 0x134, 0, 12⟩
/-- FLU_ST [15:0] (R411). -/
def fluStKatRuns : Fld := ⟨.flu, 0x138, 0, 16⟩
/-- FLU_ST [31:16] (R411). -/
def fluStKatFails : Fld := ⟨.flu, 0x138, 16, 16⟩
/-- TSU_CTL [0:0] (R424). -/
def tsuCtlPpsOutEn : Fld := ⟨.tsu, 0x100, 0, 1⟩
/-- TSU_CTL [1:1] (R424). -/
def tsuCtlPpsInEn : Fld := ⟨.tsu, 0x100, 1, 1⟩
/-- TSU_CTL [2:2] (R424). -/
def tsuCtlPpsInFall : Fld := ⟨.tsu, 0x100, 2, 1⟩
/-- TSU_INC_LO [31:0] (R424). -/
def tsuIncLoIncFrac : Fld := ⟨.tsu, 0x104, 0, 32⟩
/-- TSU_INC_HI [31:0] (R424). -/
def tsuIncHiIncInt : Fld := ⟨.tsu, 0x108, 0, 32⟩
/-- TSU_STEP [31:0] (R424). -/
def tsuStepStep : Fld := ⟨.tsu, 0x10C, 0, 32⟩
/-- TSU_TIME_NS [31:0] (R424). -/
def tsuTimeNsTimeNs : Fld := ⟨.tsu, 0x110, 0, 32⟩
/-- TSU_TIME_FRAC [31:0] (R424). -/
def tsuTimeFracTimeFrac : Fld := ⟨.tsu, 0x114, 0, 32⟩
/-- TSU_RAW_NS [31:0] (R424). -/
def tsuRawNsRawNs : Fld := ⟨.tsu, 0x118, 0, 32⟩
/-- TSU_EDGE_NS [31:0] (R424). -/
def tsuEdgeNsEdgeNs : Fld := ⟨.tsu, 0x11C, 0, 32⟩
/-- TSU_EDGE_TICK [31:0] (R424). -/
def tsuEdgeTickEdgeTick : Fld := ⟨.tsu, 0x120, 0, 32⟩
/-- TSU_PPS_OUT_NEXT [31:0] (R424). -/
def tsuPpsOutNextNext : Fld := ⟨.tsu, 0x124, 0, 32⟩
/-- TSU_PPS_OUT_W [18:0] (R424). -/
def tsuPpsOutWWidthUs : Fld := ⟨.tsu, 0x128, 0, 19⟩
/-- TSU_PPS_IN_NS [31:0] (R424). -/
def tsuPpsInNsInNs : Fld := ⟨.tsu, 0x12C, 0, 32⟩
/-- TSU_PPS_IN_FRAC [31:0] (R424). -/
def tsuPpsInFracInFrac : Fld := ⟨.tsu, 0x130, 0, 32⟩
/-- TSU_PPS_IN_CNT [15:0] (R424). -/
def tsuPpsInCntCount : Fld := ⟨.tsu, 0x134, 0, 16⟩
/-- TSU_STAT [0:0] (R424). -/
def tsuStatStepPending : Fld := ⟨.tsu, 0x138, 0, 1⟩
/-- TSU_EVT [0:0] (R424). -/
def tsuEvtPpsIn : Fld := ⟨.tsu, 0x13C, 0, 1⟩
/-- TSU_EVT [1:1] (R424). -/
def tsuEvtPpsOut : Fld := ⟨.tsu, 0x13C, 1, 1⟩
/-- TSU_EVT [2:2] (R424). -/
def tsuEvtCfgRejected : Fld := ⟨.tsu, 0x13C, 2, 1⟩
/-- TSU_EVT [3:3] (R424). -/
def tsuEvtCorrSat : Fld := ⟨.tsu, 0x13C, 3, 1⟩
/-- TSU_INT [3:0] (R424). -/
def tsuIntIntEn : Fld := ⟨.tsu, 0x140, 0, 4⟩
/-- TSU_PTP [1:0] (R424). -/
def tsuPtpMode : Fld := ⟨.tsu, 0x400, 0, 2⟩
/-- TMP_CFG [0:0] (R449). -/
def tmpCfgCfgLock : Fld := ⟨.tmp, 0x100, 0, 1⟩
/-- TMP_CFG [1:1] (R449). -/
def tmpCfgDeferHold : Fld := ⟨.tmp, 0x100, 1, 1⟩
/-- TMP_CFG [2:2] (R449). -/
def tmpCfgHaltReset : Fld := ⟨.tmp, 0x100, 2, 1⟩
/-- TMP_STAT [22:0] (R449). -/
def tmpStatActive : Fld := ⟨.tmp, 0x104, 0, 23⟩
/-- TMP_STAT [23:23] (R449). -/
def tmpStatHalted : Fld := ⟨.tmp, 0x104, 23, 1⟩
/-- TMP_FLAGS [7:0] (R449). -/
def tmpFlagsEnv : Fld := ⟨.tmp, 0x108, 0, 8⟩
/-- TMP_EVT [22:0] (R449). -/
def tmpEvtFired : Fld := ⟨.tmp, 0x10C, 0, 23⟩
/-- TMP_DEFER [5:0] (R449). -/
def tmpDeferDeferred : Fld := ⟨.tmp, 0x110, 0, 6⟩
/-- TMP_TEMP [7:0] (R449). -/
def tmpTempHigh : Fld := ⟨.tmp, 0x114, 0, 8⟩
/-- TMP_TEMP [15:8] (R449). -/
def tmpTempLow : Fld := ⟨.tmp, 0x114, 8, 8⟩
/-- TMP_TEMP [23:16] (R449). -/
def tmpTempNow : Fld := ⟨.tmp, 0x114, 16, 8⟩
/-- TMP_MESH [7:0] (R449). -/
def tmpMeshMeshEn : Fld := ⟨.tmp, 0x118, 0, 8⟩
/-- TMP_MESH [15:8] (R449). -/
def tmpMeshMeshFault : Fld := ⟨.tmp, 0x118, 8, 8⟩
/-- TMP_LID [3:0] (R449). -/
def tmpLidLidEn : Fld := ⟨.tmp, 0x11C, 0, 4⟩
/-- TMP_LID [7:4] (R449). -/
def tmpLidLidOpen : Fld := ⟨.tmp, 0x11C, 4, 4⟩
/-- TMP_TEST [4:0] (R449). -/
def tmpTestSource : Fld := ⟨.tmp, 0x120, 0, 5⟩
/-- TMP_TEST [5:5] (R449). -/
def tmpTestStart : Fld := ⟨.tmp, 0x120, 5, 1⟩
/-- TMP_TEST [6:6] (R449). -/
def tmpTestBusy : Fld := ⟨.tmp, 0x120, 6, 1⟩
/-- TMP_TEST_SEEN [22:0] (R449). -/
def tmpTestSeenSeen : Fld := ⟨.tmp, 0x124, 0, 23⟩
/-- TMP_BRTC_S [31:0] (R449). -/
def tmpBrtcSSeconds : Fld := ⟨.tmp, 0x128, 0, 32⟩
/-- TMP_BRTC_SUB [15:0] (R449). -/
def tmpBrtcSubSub : Fld := ⟨.tmp, 0x12C, 0, 16⟩
/-- TMP_LOG_CNT [9:0] (R449). -/
def tmpLogCntEntries : Fld := ⟨.tmp, 0x130, 0, 10⟩
/-- TMP_LOG_CNT [31:16] (R449). -/
def tmpLogCntOverflow : Fld := ⟨.tmp, 0x130, 16, 16⟩
/-- TMP_LOG_SEL [8:0] (R449). -/
def tmpLogSelEntry : Fld := ⟨.tmp, 0x134, 0, 9⟩
/-- TMP_LOG0 [31:0] (R449). -/
def tmpLog0Entry : Fld := ⟨.tmp, 0x138, 0, 32⟩
/-- TMP_LOG1 [31:0] (R449). -/
def tmpLog1Entry : Fld := ⟨.tmp, 0x13C, 0, 32⟩
/-- TMP_RESP [5:0] (R449). -/
def tmpRespResp : Fld := ⟨.tmp, 0x200, 0, 6⟩
/-- OFC_STAT [0:0] (R450). -/
def ofcStatPresent : Fld := ⟨.ofc, 0x100, 0, 1⟩
/-- OFC_STAT [1:1] (R450). -/
def ofcStatSession : Fld := ⟨.ofc, 0x100, 1, 1⟩
/-- OFC_STAT [2:2] (R450). -/
def ofcStatLocked : Fld := ⟨.ofc, 0x100, 2, 1⟩
/-- OFC_STAT [3:3] (R450). -/
def ofcStatEnrol : Fld := ⟨.ofc, 0x100, 3, 1⟩
/-- OFC_STAT [7:4] (R450). -/
def ofcStatFails : Fld := ⟨.ofc, 0x100, 4, 4⟩
/-- OFC_SLOTS0 [9:0] (R450). -/
def ofcSlots0Slot0 : Fld := ⟨.ofc, 0x104, 0, 10⟩
/-- OFC_SLOTS0 [25:16] (R450). -/
def ofcSlots0Slot1 : Fld := ⟨.ofc, 0x104, 16, 10⟩
/-- OFC_SLOTS1 [9:0] (R450). -/
def ofcSlots1Slot2 : Fld := ⟨.ofc, 0x108, 0, 10⟩
/-- OFC_SLOTS1 [25:16] (R450). -/
def ofcSlots1Slot3 : Fld := ⟨.ofc, 0x108, 16, 10⟩
/-- OFC_LIMIT [3:0] (R450). -/
def ofcLimitFailLimit : Fld := ⟨.ofc, 0x10C, 0, 4⟩
/-- OFC_LIMIT [31:16] (R450). -/
def ofcLimitLockS : Fld := ⟨.ofc, 0x10C, 16, 16⟩
/-- OFC_LOCK [31:0] (R450). -/
def ofcLockLockUntil : Fld := ⟨.ofc, 0x110, 0, 32⟩
/-- OFC_EVT [0:0] (R450). -/
def ofcEvtPlugged : Fld := ⟨.ofc, 0x114, 0, 1⟩
/-- OFC_EVT [1:1] (R450). -/
def ofcEvtUnplugged : Fld := ⟨.ofc, 0x114, 1, 1⟩
/-- OFC_EVT [2:2] (R450). -/
def ofcEvtAuthOk : Fld := ⟨.ofc, 0x114, 2, 1⟩
/-- OFC_EVT [3:3] (R450). -/
def ofcEvtAuthFail : Fld := ⟨.ofc, 0x114, 3, 1⟩
/-- OFC_EVT [4:4] (R450). -/
def ofcEvtAck : Fld := ⟨.ofc, 0x114, 4, 1⟩
/-- OFC_INT [4:0] (R450). -/
def ofcIntIntEn : Fld := ⟨.ofc, 0x118, 0, 5⟩
/-- OFC_LAST_ID [31:0] (R450). -/
def ofcLastIdHash : Fld := ⟨.ofc, 0x180, 0, 32⟩
/-- MOD_PRESENT [17:0] (R451). -/
def modPresentPresent : Fld := ⟨.mod, 0x100, 0, 18⟩
/-- MOD_SEL [4:0] (R451). -/
def modSelBus : Fld := ⟨.mod, 0x104, 0, 5⟩
/-- MOD_CFG [1:0] (R451). -/
def modCfgSpeed : Fld := ⟨.mod, 0x108, 0, 2⟩
/-- MOD_CTL [0:0] (R451). -/
def modCtlRst : Fld := ⟨.mod, 0x10C, 0, 1⟩
/-- MOD_CTL [1:1] (R451). -/
def modCtlLpm : Fld := ⟨.mod, 0x10C, 1, 1⟩
/-- MOD_CMD [1:0] (R451). -/
def modCmdOp : Fld := ⟨.mod, 0x110, 0, 2⟩
/-- MOD_CMD [4:2] (R451). -/
def modCmdLen : Fld := ⟨.mod, 0x110, 2, 3⟩
/-- MOD_CMD [15:8] (R451). -/
def modCmdOffset : Fld := ⟨.mod, 0x110, 8, 8⟩
/-- MOD_CMD [23:16] (R451). -/
def modCmdPage : Fld := ⟨.mod, 0x110, 16, 8⟩
/-- MOD_CMD [31:24] (R451). -/
def modCmdBank : Fld := ⟨.mod, 0x110, 24, 8⟩
/-- MOD_DATA_LO [31:0] (R451). -/
def modDataLoData : Fld := ⟨.mod, 0x114, 0, 32⟩
/-- MOD_DATA_HI [31:0] (R451). -/
def modDataHiData : Fld := ⟨.mod, 0x118, 0, 32⟩
/-- MOD_STAT [0:0] (R451). -/
def modStatBusy : Fld := ⟨.mod, 0x11C, 0, 1⟩
/-- MOD_STAT [2:1] (R451). -/
def modStatResult : Fld := ⟨.mod, 0x11C, 1, 2⟩
/-- MOD_STAT [3:3] (R451). -/
def modStatInt : Fld := ⟨.mod, 0x11C, 3, 1⟩
/-- MOD_EVT [0:0] (R451). -/
def modEvtPlug : Fld := ⟨.mod, 0x120, 0, 1⟩
/-- MOD_EVT [1:1] (R451). -/
def modEvtUnplug : Fld := ⟨.mod, 0x120, 1, 1⟩
/-- MOD_EVT [2:2] (R451). -/
def modEvtModuleInt : Fld := ⟨.mod, 0x120, 2, 1⟩
/-- MOD_EVT [3:3] (R451). -/
def modEvtBusErr : Fld := ⟨.mod, 0x120, 3, 1⟩
/-- MOD_INT [3:0] (R451). -/
def modIntIntEn : Fld := ⟨.mod, 0x124, 0, 4⟩
/-- MOD_LAST [4:0] (R451). -/
def modLastBus : Fld := ⟨.mod, 0x128, 0, 5⟩
/-- MOD_LAST [7:5] (R451). -/
def modLastBit : Fld := ⟨.mod, 0x128, 5, 3⟩
/-- MOD_LED_CTL [0:0] (R451). -/
def modLedCtlEnable : Fld := ⟨.mod, 0x140, 0, 1⟩
/-- MOD_LED [1:0] (R451). -/
def modLedOvr : Fld := ⟨.mod, 0x200, 0, 2⟩
/-- MOD_LED [2:2] (R451). -/
def modLedBlink : Fld := ⟨.mod, 0x200, 2, 1⟩
/-- FLT_FIRST [31:0] (R478). -/
def fltFirstPageId : Fld := ⟨.flt, 0x100, 0, 32⟩
/-- FLT_FIRST_SRC [9:0] (R478). -/
def fltFirstSrcSrc : Fld := ⟨.flt, 0x104, 0, 10⟩
/-- FLT_FIRST_SRC [15:15] (R478). -/
def fltFirstSrcValid : Fld := ⟨.flt, 0x104, 15, 1⟩
/-- FLT_FIRST_SRC [16:16] (R478). -/
def fltFirstSrcInjected : Fld := ⟨.flt, 0x104, 16, 1⟩
/-- FLT_FIRST_SRC [31:31] (R478). -/
def fltFirstSrcOvf : Fld := ⟨.flt, 0x104, 31, 1⟩
/-- FLT_SUM_DEV [17:0] (R478). -/
def fltSumDevPages : Fld := ⟨.flt, 0x108, 0, 18⟩
/-- FLT_SUM_CHM [7:0] (R478). -/
def fltSumChmChimneys : Fld := ⟨.flt, 0x10C, 0, 8⟩
/-- FLT_ECC [15:0] (R478). -/
def fltEccCorrected : Fld := ⟨.flt, 0x110, 0, 16⟩
/-- FLT_ECC [31:16] (R478). -/
def fltEccUncorrectable : Fld := ⟨.flt, 0x110, 16, 16⟩
/-- FLT_EVT [0:0] (R478). -/
def fltEvtFault : Fld := ⟨.flt, 0x114, 0, 1⟩
/-- FLT_EVT [1:1] (R478). -/
def fltEvtOverflow : Fld := ⟨.flt, 0x114, 1, 1⟩
/-- FLT_INT [1:0] (R478). -/
def fltIntIntEn : Fld := ⟨.flt, 0x118, 0, 2⟩
/-- EVR_CTL [2:0] (R479). -/
def evrCtlMinSev : Fld := ⟨.evr, 0x100, 0, 3⟩
/-- EVR_CMD [0:0] (R479). -/
def evrCmdFreeze : Fld := ⟨.evr, 0x104, 0, 1⟩
/-- EVR_CMD [1:1] (R479). -/
def evrCmdUnfreeze : Fld := ⟨.evr, 0x104, 1, 1⟩
/-- EVR_CMD [2:2] (R479). -/
def evrCmdFlush : Fld := ⟨.evr, 0x104, 2, 1⟩
/-- EVR_STAT [0:0] (R479). -/
def evrStatFrozen : Fld := ⟨.evr, 0x108, 0, 1⟩
/-- EVR_STAT [1:1] (R479). -/
def evrStatFlushBusy : Fld := ⟨.evr, 0x108, 1, 1⟩
/-- EVR_STAT [5:2] (R479). -/
def evrStatHeld : Fld := ⟨.evr, 0x108, 2, 4⟩
/-- EVR_STAT [13:6] (R479). -/
def evrStatEarlyLost : Fld := ⟨.evr, 0x108, 6, 8⟩
/-- EVR_NEXT_LO [31:0] (R479). -/
def evrNextLoNextSeq : Fld := ⟨.evr, 0x10C, 0, 32⟩
/-- EVR_NEXT_HI [15:0] (R479). -/
def evrNextHiNextSeq : Fld := ⟨.evr, 0x110, 0, 16⟩
/-- EVR_OLDEST_LO [31:0] (R479). -/
def evrOldestLoOldest : Fld := ⟨.evr, 0x114, 0, 32⟩
/-- EVR_OLDEST_HI [15:0] (R479). -/
def evrOldestHiOldest : Fld := ⟨.evr, 0x118, 0, 16⟩
/-- EVR_NV_LO [31:0] (R479). -/
def evrNvLoNvNewest : Fld := ⟨.evr, 0x11C, 0, 32⟩
/-- EVR_NV_HI [15:0] (R479). -/
def evrNvHiNvNewest : Fld := ⟨.evr, 0x120, 0, 16⟩
/-- EVR_LOST [15:0] (R479). -/
def evrLostLostFull : Fld := ⟨.evr, 0x124, 0, 16⟩
/-- EVR_LOST [31:16] (R479). -/
def evrLostLostFrozen : Fld := ⟨.evr, 0x124, 16, 16⟩
/-- EVR_LOST2 [15:0] (R479). -/
def evrLost2NvLost : Fld := ⟨.evr, 0x128, 0, 16⟩
/-- EVR_LOST2 [31:16] (R479). -/
def evrLost2DeepLost : Fld := ⟨.evr, 0x128, 16, 16⟩
/-- EVR_DROP [15:0] (R479). -/
def evrDropRlDrops : Fld := ⟨.evr, 0x12C, 0, 16⟩
/-- EVR_DROP [31:16] (R479). -/
def evrDropFiltered : Fld := ⟨.evr, 0x12C, 16, 16⟩
/-- EVR_RL_DEF [7:0] (R479). -/
def evrRlDefTokens : Fld := ⟨.evr, 0x130, 0, 8⟩
/-- EVR_RL_DEF [12:8] (R479). -/
def evrRlDefPeriodLog2 : Fld := ⟨.evr, 0x130, 8, 5⟩
/-- EVR_DEEP [3:0] (R479). -/
def evrDeepRegion : Fld := ⟨.evr, 0x134, 0, 4⟩
/-- EVR_DEEP [4:4] (R479). -/
def evrDeepValid : Fld := ⟨.evr, 0x134, 4, 1⟩
/-- EVR_RD_SEQ_LO [31:0] (R479). -/
def evrRdSeqLoSeq : Fld := ⟨.evr, 0x140, 0, 32⟩
/-- EVR_RD_SEQ_HI [15:0] (R479). -/
def evrRdSeqHiSeq : Fld := ⟨.evr, 0x144, 0, 16⟩
/-- EVR_RD_CMD [0:0] (R479). -/
def evrRdCmdFetch : Fld := ⟨.evr, 0x148, 0, 1⟩
/-- EVR_RD_STAT [0:0] (R479). -/
def evrRdStatBusy : Fld := ⟨.evr, 0x14C, 0, 1⟩
/-- EVR_RD_STAT [2:1] (R479). -/
def evrRdStatResult : Fld := ⟨.evr, 0x14C, 1, 2⟩
/-- EVR_RD_STAT [4:3] (R479). -/
def evrRdStatWhere : Fld := ⟨.evr, 0x14C, 3, 2⟩
/-- EVR_EVT [0:0] (R479). -/
def evrEvtRingFull : Fld := ⟨.evr, 0x150, 0, 1⟩
/-- EVR_EVT [1:1] (R479). -/
def evrEvtFreezeTimeout : Fld := ⟨.evr, 0x150, 1, 1⟩
/-- EVR_EVT [2:2] (R479). -/
def evrEvtFlushDone : Fld := ⟨.evr, 0x150, 2, 1⟩
/-- EVR_EVT [3:3] (R479). -/
def evrEvtNvCut : Fld := ⟨.evr, 0x150, 3, 1⟩
/-- EVR_EVT [4:4] (R479). -/
def evrEvtDeepPoison : Fld := ⟨.evr, 0x150, 4, 1⟩
/-- EVR_EVT [5:5] (R479). -/
def evrEvtCfgRejected : Fld := ⟨.evr, 0x150, 5, 1⟩
/-- EVR_INT [5:0] (R479). -/
def evrIntIntEn : Fld := ⟨.evr, 0x154, 0, 6⟩
/-- EVR_RL0 [15:0] (R479). -/
def evrRl0Code : Fld := ⟨.evr, 0x200, 0, 16⟩
/-- EVR_RL0 [16:16] (R479). -/
def evrRl0Valid : Fld := ⟨.evr, 0x200, 16, 1⟩
/-- EVR_RL1 [7:0] (R479). -/
def evrRl1Tokens : Fld := ⟨.evr, 0x204, 0, 8⟩
/-- EVR_RL1 [12:8] (R479). -/
def evrRl1PeriodLog2 : Fld := ⟨.evr, 0x204, 8, 5⟩
/-- EVR_RL1 [15:13] (R479). -/
def evrRl1Severity : Fld := ⟨.evr, 0x204, 13, 3⟩
/-- EVR_RD_DATA [31:0] (R479). -/
def evrRdDataRecord : Fld := ⟨.evr, 0x400, 0, 32⟩
/-- PMC_SNAP [4:0] (R480). -/
def pmcSnapPeriodLog2 : Fld := ⟨.pmc, 0x100, 0, 5⟩
/-- PMC_CMD [0:0] (R480). -/
def pmcCmdSnapshot : Fld := ⟨.pmc, 0x104, 0, 1⟩
/-- PMC_CMD [1:1] (R480). -/
def pmcCmdClearAll : Fld := ⟨.pmc, 0x104, 1, 1⟩
/-- PMC_STAT [15:0] (R480). -/
def pmcStatSnapCount : Fld := ⟨.pmc, 0x108, 0, 16⟩
/-- PMC_STAT [31:16] (R480). -/
def pmcStatSnapEdge : Fld := ⟨.pmc, 0x108, 16, 16⟩
/-- PMC_EVT [0:0] (R480). -/
def pmcEvtSaturated : Fld := ⟨.pmc, 0x10C, 0, 1⟩
/-- PMC_EVT [1:1] (R480). -/
def pmcEvtCarryLost : Fld := ⟨.pmc, 0x10C, 1, 1⟩
/-- PMC_EVT [2:2] (R480). -/
def pmcEvtArchSkipped : Fld := ⟨.pmc, 0x10C, 2, 1⟩
/-- PMC_EVT [3:3] (R480). -/
def pmcEvtArchPoison : Fld := ⟨.pmc, 0x10C, 3, 1⟩
/-- PMC_EVT [4:4] (R480). -/
def pmcEvtCfgRejected : Fld := ⟨.pmc, 0x10C, 4, 1⟩
/-- PMC_INT [4:0] (R480). -/
def pmcIntIntEn : Fld := ⟨.pmc, 0x110, 0, 5⟩
/-- PMC_LAST [25:0] (R480). -/
def pmcLastOffset : Fld := ⟨.pmc, 0x114, 0, 26⟩
/-- PMC_LAST [28:26] (R480). -/
def pmcLastBit : Fld := ⟨.pmc, 0x114, 26, 3⟩
/-- PMC_ARCH [3:0] (R480). -/
def pmcArchRegion : Fld := ⟨.pmc, 0x118, 0, 4⟩
/-- PMC_ARCH [4:4] (R480). -/
def pmcArchValid : Fld := ⟨.pmc, 0x118, 4, 1⟩
/-- PMC_ARCH_STAT [15:0] (R480). -/
def pmcArchStatNextBlock : Fld := ⟨.pmc, 0x11C, 0, 16⟩
/-- PMC_ARCH_STAT [31:16] (R480). -/
def pmcArchStatSkipped : Fld := ⟨.pmc, 0x11C, 16, 16⟩
/-- PMC_ARCH_SEL [15:0] (R480). -/
def pmcArchSelBlock : Fld := ⟨.pmc, 0x120, 0, 16⟩
/-- PMC_ARCH_SEL [28:16] (R480). -/
def pmcArchSelWord : Fld := ⟨.pmc, 0x120, 16, 13⟩
/-- PMC_ARCH_LO [31:0] (R480). -/
def pmcArchLoData : Fld := ⟨.pmc, 0x124, 0, 32⟩
/-- PMC_ARCH_HI [31:0] (R480). -/
def pmcArchHiData : Fld := ⟨.pmc, 0x128, 0, 32⟩
/-- PMC_ARCH_RSTAT [0:0] (R480). -/
def pmcArchRstatBusy : Fld := ⟨.pmc, 0x12C, 0, 1⟩
/-- PMC_ARCH_RSTAT [2:1] (R480). -/
def pmcArchRstatResult : Fld := ⟨.pmc, 0x12C, 1, 2⟩
/-- DEV_BADADDR [25:0] (R488). -/
def devBadaddrOffset : Fld := ⟨.dev, 0x160, 0, 26⟩
/-- DEV_BADADDR [26:26] (R488). -/
def devBadaddrWrite : Fld := ⟨.dev, 0x160, 26, 1⟩
/-- DEV_BADADDR [27:27] (R488). -/
def devBadaddrRefused : Fld := ⟨.dev, 0x160, 27, 1⟩
/-- DEV_BADADDR [31:31] (R488). -/
def devBadaddrValid : Fld := ⟨.dev, 0x160, 31, 1⟩

/-! Fields of the common header, by page (R477, R486). -/

/-- PAGE_READY [0:0] (R486). -/
def pageReady (p : Page) : Fld := ⟨p, 0x008, 0, 1⟩
/-- PAGE_READY [1:1] (R486). -/
def pageDegraded (p : Page) : Fld := ⟨p, 0x008, 1, 1⟩
/-- PAGE_READY [15:8] (R486). -/
def pageCause (p : Page) : Fld := ⟨p, 0x008, 8, 8⟩
/-- PAGE_FAULT [9:0] (R477). -/
def pageFirstSrc (p : Page) : Fld := ⟨p, 0x00C, 0, 10⟩
/-- PAGE_FAULT [15:15] (R477). -/
def pageFirstValid (p : Page) : Fld := ⟨p, 0x00C, 15, 1⟩
/-- PAGE_FAULT [16:16] (R477). -/
def pageInjected (p : Page) : Fld := ⟨p, 0x00C, 16, 1⟩
/-- PAGE_FAULT [31:31] (R477). -/
def pageOvf (p : Page) : Fld := ⟨p, 0x00C, 31, 1⟩
/-- CNT_CFG [8:0] of counter i (R477). -/
def cntSelect (p : Page) (i : Nat) : Fld := ⟨p, 0x040 + 0x10 * i, 0, 9⟩
/-- CNT_CFG [9:9] of counter i (R477). -/
def cntChain (p : Page) (i : Nat) : Fld := ⟨p, 0x040 + 0x10 * i, 9, 1⟩
/-- CNT_CFG [10:10] of counter i (R477). -/
def cntOcc (p : Page) (i : Nat) : Fld := ⟨p, 0x040 + 0x10 * i, 10, 1⟩
/-- CNT_CFG [13:12] of counter i (R477). -/
def cntQual (p : Page) (i : Nat) : Fld := ⟨p, 0x040 + 0x10 * i, 12, 2⟩
/-- CNT_THR [31:0] of counter i (R477). -/
def cntThr (p : Page) (i : Nat) : Fld := ⟨p, 0x044 + 0x10 * i, 0, 32⟩

end F

end Sys2Proof
end

