-- ==== Sys2Proof/Machine/Objects.lean ====
section
/-! DEFINITION. The objects that the state holds and that a mirror frame carries to the partner (R390): entries of the
association and forwarding tables, domains, and the sessions and rollovers of links. -/

namespace Sys2Proof.Machine

open Sys2Proof

/-- The states of an association (R152). -/
inductive AState where
  | idle
  | kindling
  | live
  | rolling
  | draining
  | dead
  | quenched
  deriving DecidableEq, Repr

/-- A key phase of an association (R150): its keys and its receive state. -/
structure Phase where
  key : BitVec 256 := 0
  salt : BitVec 96 := 0
  epoch : Nat := 0
  valid : Bool := false
  rxHi : Nat := 0
  rxMap : BitVec 128 := 0
  /-- This side was initiator of the session that installed the key (R207). -/
  initiator : Bool := false
  deriving DecidableEq, Repr

/-- An entry of the association table (R150). `overlapAt` and `drainAt` are the edges whose low 32 bits the fields
overlap_end and drain_end hold. -/
structure Assoc where
  state : AState := .idle
  txPhase : Bool := false
  ph0 : Phase := {}
  ph1 : Phase := {}
  otn : Bool := false
  autoRecover : Bool := false
  confOff : Nat := 0
  vlanClear : Bool := false
  softHit : Bool := false
  rollFail : Nat := 0
  claimPending : Bool := false
  port : Nat := 0
  slice : Nat := 0
  sliceValid : Bool := false
  queue : Nat := 0
  domain : Nat := 0
  domainValid : Bool := false
  slot : Nat := 0
  session : Nat := 0
  peerIndex : Nat := 0
  overlapAt : Option Nat := none
  replayWin : Nat := 64
  nextPn : Nat := 0
  pnMark : Nat := 0
  softLimit : Nat := 2 ^ 62
  sciTx : Nat := 0
  sciRx : Nat := 0
  drainAt : Option Nat := none
  deadCause : Nat := 0
  /-- The edge at which the entry last became DEAD (R153). -/
  deadAt : Nat := 0
  deriving DecidableEq, Repr

/-- An entry of the device forwarding table (R132, R134). -/
structure FwdEnt where
  mac : Nat
  domain : Nat
  assoc : Nat
  isStatic : Bool := false
  age : Nat := 0
  hit : Bool := false
  deriving DecidableEq, Repr

/-- A domain of the domain table (R126, R147). -/
structure Domain where
  vid : Nat := 0
  group : Nat := 0
  valid : Bool := false
  learn : Bool := false
  unknownFwd : Bool := false
  evictRandom : Bool := false
  ageMax : Nat := 0
  groupAssoc : Nat := 0
  deriving DecidableEq, Repr

/-- The states of a session (R254); CLOSED and HOLDOFF are states of a link without one. -/
inductive SesState where
  | offered
  | answered
  | proved
  | confirming
  | live
  deriving DecidableEq, Repr

/-- A lattice operation (R262). -/
inductive LatOp where
  | keygen
  | encaps
  | decaps
  | verify
  | sign
  deriving DecidableEq, Repr

/-- What a session goes on with once its lattice operations have delivered. -/
inductive Goal where
  | sendOffer
  | sendAnswer
  | sendProofI
  | sendProofR
  | sendConfirm
  | rekeyRequest
  | rekeyResponse
  | rekeyAdopt
  deriving DecidableEq, Repr

/-- A session (R254): its role, the messages its keys are derived from (R250), its secrets and its counters. -/
structure Session where
  idx : Nat
  ctx : Nat := 0
  st : SesState
  since : Nat := 0
  initiator : Bool
  id : List Byte := []
  nonce : List Byte := []
  ownEpoch : Nat := 0
  peerEpoch : Nat := 0
  epoch : Nat := 0
  gen : Nat := 0
  seqOut : Nat := 0
  /-- One more than the last sequence accepted from the peer. -/
  seqIn : Nat := 0
  dk : List Byte := []
  ek : List Byte := []
  offer : List Byte := []
  answer : List Byte := []
  proofI : List Byte := []
  proofR : List Byte := []
  ct : List Byte := []
  ki : List Byte := []
  kr : List Byte := []
  secret : List Byte := []
  kc : List Byte := []
  kctl : List Byte := []
  thf : List Byte := []
  /-- The secret of generation g, kept until the first rollover of generation g + 1 has ended (R253). -/
  oldSecret : List Byte := []
  /-- The secret and control key of a pending generation g + 1 at a REKEY responder (R273). -/
  pending : Option (List Byte × List Byte) := none
  rekeyMsg : List Byte := []
  keepOut : Nat := 0
  /-- One more than the last KEEPALIVE count accepted. -/
  keepIn : Nat := 0
  ops : List LatOp := []
  goal : Option Goal := none
  peerConfirmed : Bool := false
  ownConfirmed : Bool := false
  installed : Bool := false
  staged : List Nat := []
  /-- Associations whose keys are being derived (R257), and the edge before which that ends (R251). -/
  toStage : List Nat := []
  stageAt : Option Nat := none
  /-- The own PROOF is wholly acknowledged (R255); the REKEY response accepted (R273); the re-authentication interval
  of this session has fired (R272). -/
  proofAcked : Bool := false
  rekeyResp : List Byte := []
  reauthed : Bool := false
  lastSent : Nat := 0
  lastHeard : Nat := 0
  liveAt : Nat := 0
  rekeyFrom : Nat := 0
  deriving DecidableEq, Repr

/-- The stages of a rollover (R268, R289). -/
inductive RollStage where
  | keying
  | proposed
  | readySent
  | scheduled
  | switched
  | ended
  deriving DecidableEq, Repr

/-- A rollover in progress on a link (R265 to R268). -/
structure Roll where
  stage : RollStage := .keying
  proposer : Bool
  target : Nat
  /-- Keys are derived before this edge and installed at it; the keys whose derivation is not yet counted. -/
  installAt : Option Nat := none
  keys : Nat := 0
  /-- The peer's count of associations, as its ROLL_PROPOSE gave it. -/
  peerCount : Nat := 0
  rolled : List Nat := []
  /-- The edge from which the timeout of R281 counts, or of the local switch. -/
  since : Nat := 0
  switchAt : Option Nat := none
  overlapEnd : Nat := 0
  doneSent : Bool := false
  peerDone : Bool := false
  deriving DecidableEq, Repr

/-! ### Mirror frames (R386 to R391) -/

/-- A mirror record (R390): PAIR_OP, PN_MARK, ASSOC, KEY_SCHED, SESSION, FWD, DOMAIN, QUEUE, NODE and BULK_END. A
record of a reserved type is `unknown`. The words of a queue or node are those of its HRT and SCH registers. -/
inductive MRec where
  | pairOp (bits : Nat)
  | pnMark (a : Nat) (phase : Bool) (epoch : Nat) (mark : Nat)
  | assoc (a : Nat) (e : Assoc)
  | keySched (link : Nat) (epoch : Nat) (remaining : Nat)
  | session (link : Nat) (cur : Option Session) (epoch highMark nextMsgId : Nat) (lastDone : Option Nat) (roll : Option Roll)
  | fwd (i : Nat) (e : Option FwdEnt)
  | domain (d : Nat) (dom : Domain)
  | queue (q : Nat) (ws : List Word)
  | node (n : Nat) (ws : List Word)
  | bulkEnd
  | unknown (type : Nat)
  deriving DecidableEq, Repr

/-- A mirror frame (R387): what its header says and the records it carries, by number. -/
structure MFrame where
  seq : Nat
  ack : Nat := 0
  claim : Nat := 0
  health : Nat := 0
  mode : Nat := 0
  prev : Nat := 0
  lock : Bool := false
  valid : Bool := false
  /-- FLU_SEL.sel and ALARM_N of the lock holder, which are mirrored (R406, R411). -/
  sel : Fin 16 := 0
  alarm : Fin 4 := 0
  records : List (Nat × MRec) := []
  deriving DecidableEq, Repr

/-- A HELLO (R386): the side, claim and pairing nonce, the key check value of the pair slot, and the mode and lock of
its header. -/
structure Hello where
  side : Bool
  claim : Nat := 0
  nonce : List Byte
  kcv : List Byte
  mode : Nat := 2
  lock : Bool := false
  deriving DecidableEq, Repr

/-- An SRAM error found (R452, R453): the page and instance that own the SRAM, the checker as first_src numbers it, and
whether the error is uncorrectable. -/
structure EccErr where
  page : Page
  inst : Fin 256 := 0
  src : Fin 1024 := 0
  double : Bool := false
  deriving DecidableEq, Repr

/-- Where a write lands (R340, R481 to R484): a page of BAR0 and an offset in it, a slice page of BAR2, or BAR4. -/
inductive Target where
  | page (p : Page) (inst : Fin 256) (off : Fin 4096)
  | slice (n : SliceNo) (off : Fin 65536)
  | msix (off : Fin 65536)
  deriving DecidableEq, Repr

end Sys2Proof.Machine
end

