-- ==== Sys2Proof/Syntax.lean ====
section
/-! DEFINITION. The commands of the block: one constructor for each row of spec/opcode_table.json, with what
the world hands over with it: the commands that take operands in the table's order, then those that take none. `cyc` is
the core cycle in which a write or a read lands. -/

namespace Sys2Proof

/-- A command. -/
inductive Instr where
  /-- TICK_EDGE (R19). At cycle 0 of each tick the commit point runs every scheduled action in the fixed order of
  R19. -/
  | tickEdge (e : EdgeIn)
  /-- REGISTER_WRITE (R490). A write to a register without behaviour of its own acts field by field according to
  each field's access type. -/
  | registerWrite (t : Machine.Target) (w : Word) (cyc : Cyc)
  /-- BAD_ACCESS (R488). An unmapped or refused BAR0 access is recorded in DEV_BADADDR; a read returns 0 and a
  write is dropped. -/
  | badAccess (off : BitVec 26) (write : Bool) (refused : Bool)
  /-- TICK_READ (R32). A read of DEV_TICK_LO returns the low tick bits and latches the high half into DEV_TICK_HI.
  -/
  | tickRead (cyc : Cyc)
  /-- HOLD (R21). Writing DEV_COMMIT_CTL.hold = 1 keeps every pending RWT copy pending across edges. -/
  | hold (cyc : Cyc)
  /-- HOLD_RELEASE (R21). Writing hold = 0 without a COMMIT releases held copies as though they had landed in that
  cycle. -/
  | holdRelease (cyc : Cyc)
  /-- COMMIT (R21). A DEV_GOP commit releases every held RWT copy to take effect together at the edge it reaches.
  -/
  | commit (w : Word) (cyc : Cyc)
  /-- GOP_SNAPSHOT (R471). A DEV_GOP snapshot requests a latch of every counter into its shadow at step 1 of the
  edge it reaches. -/
  | gopSnapshot (w : Word) (cyc : Cyc)
  /-- BARRIER (R33). A DEV_GOP barrier request completes at the edge it reaches, once all earlier writes and
  commands have acted. -/
  | barrier (w : Word) (cyc : Cyc)
  /-- QUENCH_ASN (R168). A guarded DEV_GOP request quenches the association table at step 3 of its edge and starts
  the bank sweep. -/
  | quenchAsn (w : Word) (cyc : Cyc)
  /-- MODE_REQ_RUN (R401). A RUN request leaves KINDLING for STANDBY, ACTIVE or SOLO by the claim rules, or waits
  with run_wait set. -/
  | modeReqRun (cyc : Cyc)
  /-- MODE_REQ_OFFICER (R37). A request moves the device from KINDLING to OFFICER at its edge. -/
  | modeReqOfficer (cyc : Cyc)
  /-- MODE_REQ_SELF_TEST (R37). A request enters SELF-TEST from the modes R37 allows. -/
  | modeReqSelfTest (cyc : Cyc)
  /-- MODE_REQ_KINDLING (R37). A request returns the device from SELF-TEST, or from an OFFICER mode entered by
  request, to KINDLING. -/
  | modeReqKindling (cyc : Cyc)
  /-- WARM_RESET (R48). A guarded DEV_RESET.warm, or a tamper halt with halt_reset, starts a warm reset and clears
  the state R48 names. -/
  | warmReset (cause : WarmCause) (cyc : Cyc)
  /-- HOST_RESET (R49). An FLR, PERST_N, hot reset or DEV_RESET.host resets HST, slice and MSI-X state while
  traffic continues. -/
  | hostReset (cause : HostCause) (cyc : Cyc)
  /-- COLD_RESET (R48). RESET_N low, or a main rail below its reset threshold, puts the device in RESET and clears
  the state R48 names. -/
  | coldReset (cause : ColdCause)
  /-- RESET_RELEASE (R44). Reset is released at the latest of the rail, reference, pin and warm-reset conditions,
  and the device enters KINDLING. -/
  | resetRelease (r : ReleaseIn) (esOk side : Bool)
  /-- BOOT_COMPLETE (R55). The boot ROM finishes verifying image slot A or B and writes DEV_BOOT. -/
  | bootComplete (a : SlotImage) (b : SlotImage)
  /-- BOOT_RETRY (R56). DEV_BOOT_CTL.retry reruns firmware verification after a failed boot. -/
  | bootRetry (cyc : Cyc)
  /-- PAGE_READY (R53). A page becomes ready once everything it depends on is ready; TMP applies deferred tamper
  responses first. -/
  | pageReady (p : Page) (i : Fin 256)
  /-- RAIL_BELOW_INHIBIT (R42). VDD_CORE or VDD_IO falls below its NV-write inhibit threshold, so NV writes stop
  and the device enters BROWNOUT. -/
  | railBelowInhibit (flushed : Nat)
  /-- RAILS_UP (R37). Every main rail rises above its reset threshold, and the device goes from COLD-GUARD to
  RESET. -/
  | railsUp (rtc : Nat)
  /-- QUENCH (R40). A vault quench from DEV_QUENCH, the button or a tamper response enters QUENCHING and starts
  zeroing every keyed store. -/
  | quench (cause : QuenchCause) (cyc : Cyc)
  /-- LANE_ENABLE (R67). LAN_CTRL.enable = 1 powers the lane at rate code 0 and starts locking. -/
  | laneEnable (g : LaneNo) (ctl : BitVec 12) (cyc : Cyc)
  /-- LANE_DISABLE (R67). LAN_CTRL.enable = 0 powers the lane down and returns it to rate code 0, applying any
  pending class. -/
  | laneDisable (g : LaneNo) (ctl : BitVec 12) (cyc : Cyc)
  /-- LANE_STEP_UP (R67). A LAN_STEP target one rung up is checked at landing and at its edge, then changes the
  rate. -/
  | laneStepUp (g : LaneNo) (t : Fin 8) (cyc : Cyc)
  /-- LANE_STEP_DOWN (R68). A LAN_STEP target at a lower rung is checked only for rung, loopback and enable, then
  changes the rate. -/
  | laneStepDown (g : LaneNo) (t : Fin 8) (cyc : Cyc)
  /-- CMIS_AGREED (R69). Firmware writes cmis_agreed, which sets LAN_STAT.agreed on a module lane. -/
  | cmisAgreed (g : LaneNo) (cyc : Cyc)
  /-- CDR_LOCK (R70). CDR lock is acquired, and the lane moves from locking to training at the next edge. -/
  | cdrLock (g : LaneNo)
  /-- LOCK_TIMEOUT (R70). The lane is still locking after 4 ticks and fails with cause 1. -/
  | lockTimeout (g : LaneNo)
  /-- TRAINING_DONE (R70). Training ends; checking starts at the next edge with PRBS and its counters cleared. -/
  | trainingDone (g : LaneNo)
  /-- TRAINING_TIMEOUT (R70). Training has not ended after 128 ticks, and the lane fails with cause 2. -/
  | trainingTimeout (g : LaneNo)
  /-- CHECK_DONE (R71). After chk_ticks ticks the pass limit is applied, and the lane becomes ready or fails with
  cause 3 or 5. -/
  | checkDone (g : LaneNo)
  /-- LOS (R70). Loss of signal sets los and fails a lane that is locking, training or checking with cause 4. -/
  | los (g : LaneNo)
  /-- SLIP_FRAME_RECEIVED (R76). A slip frame is taken by the detector, which moves between hunt, candidate and
  locked and gathers training agreement on pair lanes. -/
  | slipFrameReceived (g : LaneNo) (rx : List Sym)
  /-- FFE_COEFF_REQUEST (R66). A partner's coefficient request changes one tap by ±1 at the next edge, or is
  answered as at limit. -/
  | ffeCoeffRequest (g : LaneNo) (tap : Fin 4) (up : Bool)
  /-- FFE_WRITE (R64). A LAN_FFE write is refused as a whole if any tap breaks the limits, otherwise it forms a
  pending copy. -/
  | ffeWrite (g : LaneNo) (w : Word) (cyc : Cyc)
  /-- SLIP (R75). LAN_SLIP.slip moves the word boundary one UI later and returns the detector to hunt. -/
  | slip (g : LaneNo)
  /-- SLIP_PERIOD_WRITE (R73). A LAN_SLIP_CFG write sets the slip-frame period and returns the detector to hunt.
  -/
  | slipPeriodWrite (g : LaneNo) (period : Fin 65536)
  /-- PRBS_CLEAR (R80). LAN_PRBS.clear zeroes the error, bit and CDR-loss counts. -/
  | prbsClear (g : LaneNo) (w : Word) (cyc : Cyc)
  /-- PRBS_LOCK (R80). The checker locks after 64 consecutive error-free bits and starts counting. -/
  | prbsLock (rx : LaneRx)
  /-- PRBS_LOCK_LOSS (R80). 64 errors within 1,024 bits make the checker lose lock, set lost and relock. -/
  | prbsLockLoss (rx : LaneRx)
  /-- LANE_ERR_READ (R80). A read of LAN_ERR_LO latches the high error half and both bit-count halves. -/
  | laneErrRead (g : LaneNo)
  /-- LOOPBACK_NEAR_END (R82). LAN_LOOP mode 1 sets near-end serial loopback unless the lane is in a port or in
  bring-up. -/
  | loopbackNearEnd (g : LaneNo) (ne : Bool) (cyc : Cyc)
  /-- LOOPBACK_FAR_END (R82). LAN_LOOP mode 2 sets far-end parallel loopback unless the lane is in a port or in
  bring-up. -/
  | loopbackFarEnd (g : LaneNo) (ne : Bool) (cyc : Cyc)
  /-- LOOPBACK_OFF (R82). LAN_LOOP mode 0 ends any loopback at its edge. -/
  | loopbackOff (g : LaneNo) (ne : Bool) (cyc : Cyc)
  /-- MODULE_UNPLUG (R445). A module removal squelches the cage's lanes, returns them to code 0 and makes their
  ports report LOS. -/
  | moduleUnplug (b : CageNo)
  /-- MODULE_PLUG (R446). After 125 ticks of stable presence the cage is marked plugged and its module is held in
  reset. -/
  | modulePlug (b : CageNo)
  /-- MODULE_RESET_RELEASE (R446). At P + 2 MOD_RST_N is released, the squelch ends and bus commands are accepted.
  -/
  | moduleResetRelease (b : CageNo)
  /-- MODULE_READ (R447). A MOD_CMD read fetches 1 to 8 CMIS bytes, writing the bank and page first when needed.
  -/
  | moduleRead (len : Fin 8) (off : Byte) (page : Byte) (bank : Byte)
  /-- MODULE_WRITE (R447). A MOD_CMD write stores 1 to 8 CMIS bytes, writing the bank and page first when needed.
  -/
  | moduleWrite (len : Fin 8) (off : Byte) (page : Byte) (bank : Byte)
  /-- MODULE_CMD_DONE (R447). A module bus command completes, or ends with a timeout after 50 ticks. -/
  | moduleCmdDone (b : CageNo) (reply : Option (List Byte))
  /-- MODULE_INTERRUPT (R451). MOD_INT_N falls and module_int is set. -/
  | moduleInterrupt (b : CageNo) (low : Bool)
  /-- PORT_ENABLE (R87). A PRT_CFG write enabling a port is checked in order at landing and at its edge, and the
  port forms. -/
  | portEnable (p : PortNo) (cfg : BitVec 9) (cyc : Cyc)
  /-- PORT_DISABLE (R86). A PRT_CFG write with enable = 0 disables the port, applying any new kind, width, pcs or
  side. -/
  | portDisable (p : PortNo) (cfg : BitVec 9) (cyc : Cyc)
  /-- PORT_UP (R97). After up_ticks edges without a level 1–6 defect, the port is up and its frames are eligible.
  -/
  | portUp (p : PortNo)
  /-- PORT_FLUSH (R97). When the port has been down for flush_ticks edges, every queue of its port node is flushed
  and admission refuses frames bound for it. -/
  | portFlush (p : PortNo)
  /-- AUTH_WINDOW_END (R98). At the end of a tag-failure window, SEAL-AUTH is raised or cleared by the window's
  count. -/
  | authWindowEnd (p : PortNo)
  /-- FRAME_RECEIVED (R93). An Ethernet frame is received and checked by the MAC, then dispatched, classified,
  admitted and sealed or unsealed. -/
  | frameReceived (f : RxFrame) (cyc : Cyc)
  /-- TAG_VERDICT (R181). The Stove work completes, the tag is compared and a frame that passes is written
  eligible to the Hearth. -/
  | tagVerdict (p : PortNo) (id : Nat) (cyc : Cyc)
  /-- FRAME_SEND (R331). The scheduler sends an eligible frame through its queue, service and port nodes and
  charges their shapers. -/
  | frameSend (p : PortNo) (bank : Option (Fin 512)) (cyc : Cyc)
  /-- OTN_CFG_WRITE (R103). An OTF_CFG write changing mode is refused unless the rule for kind and width allows
  it. -/
  | otnCfgWrite (p : PortNo) (w : Word) (cyc : Cyc)
  /-- OTN_FRAME_RECEIVED (R111). An OTN frame is received and checked for FAS, MFAS and its overhead. -/
  | otnFrameReceived (p : PortNo) (f : OtnFrame) (occs : List LaneOcc) (cyc : Cyc)
  /-- LOF_DECLARED (R111). OOF lasting lof_ticks edges raises LOF. -/
  | lofDeclared (p : PortNo)
  /-- LOM_DECLARED (R111). OOM lasting lof_ticks edges raises LOM. -/
  | lomDeclared (p : PortNo)
  /-- OTN_GROUP_RECEIVED (R222). At the end of a received group, seal synchronisation advances and the group is
  held for its verdict. -/
  | otnGroupReceived (p : PortNo)
  /-- OTN_GROUP_VERDICT (R225). When the tag of a group arrives in the next group, the group is released or
  zero-filled. -/
  | otnGroupVerdict (p : PortNo)
  /-- OTN_FRAME_TRANSMIT (R106). An egress OTN port sends a frame on its timing, or ODU-AIS when no released frame
  is ready. -/
  | otnFrameTransmit (p : PortNo) (bank : Option (Fin 512 × Fin 131072)) (cyc : Cyc)
  /-- FWD_SEARCH (R142). SEARCH reads the entry for KEY0/KEY1 into DATA. -/
  | fwdSearch (cyc : Cyc)
  /-- FWD_NEXT (R143). NEXT examines up to 1,024 indices from CURSOR and returns the first valid entry. -/
  | fwdNext (cyc : Cyc)
  /-- FWD_INSERT (R142). INSERT stores a key, replacing an existing one or evicting under R139. -/
  | fwdInsert (cyc : Cyc)
  /-- FWD_DELETE (R142). DELETE removes a key, static or not. -/
  | fwdDelete (cyc : Cyc)
  /-- FLUSH_BY_PORT (R144). FLUSH_BY_PORT removes every entry bound to associations of a cipher port. -/
  | flushByPort (port : Byte) (inclStatic : Bool) (cyc : Cyc)
  /-- DOMAIN_READ (R142). DOMAIN_READ copies a domain as in effect into DOM0 and DOM1. -/
  | domainRead (cyc : Cyc)
  /-- DOMAIN_WRITE (R126). DOMAIN_WRITE is judged for key clashes at landing and acts at its edge. -/
  | domainWrite (cyc : Cyc)
  /-- FWD_UNKNOWN_OP (R142). An unknown forwarding op does nothing and returns refused. -/
  | fwdUnknownOp (cyc : Cyc)
  /-- LRC_REHASH (R137). REHASH loads LRC_SEED and re-places every cache entry, with lookups sent to the table
  meanwhile. -/
  | lrcRehash (c : ChimneyNo) (cyc : Cyc)
  /-- LRC_REHASH_DONE (R137). A rehash completes and rehash_busy clears. -/
  | lrcRehashDone (c : ChimneyNo)
  /-- LRC_FLUSH (R148). LRC_CMD.flush empties the learn cache. -/
  | lrcFlush (c : ChimneyNo) (cyc : Cyc)
  /-- ASN_READ (R166). READ copies an association entry, keys excluded, into ASN_WIN_DATA. -/
  | asnRead (a : AssocNo) (cyc : Cyc)
  /-- WRITE_CFG (R166). WRITE_CFG writes the permitted software fields of an entry at its edge. -/
  | writeCfg (a : AssocNo) (cyc : Cyc)
  /-- START (R154). START moves an IDLE entry to KINDLING when the guards hold and a vault use is granted. -/
  | start (a : AssocNo) (cyc : Cyc)
  /-- STOP (R153). STOP moves an entry to DRAINING and sets drain_end. -/
  | stop (a : AssocNo) (cyc : Cyc)
  /-- KILL (R153). KILL makes an entry DEAD with dead_cause 1. -/
  | kill (a : AssocNo) (cyc : Cyc)
  /-- RESTART (R154). RESTART moves a DEAD entry to KINDLING under the guards of R154 and R309. -/
  | restart (a : AssocNo) (cyc : Cyc)
  /-- RELEASE (R151). RELEASE returns an IDLE, DEAD or QUENCHED entry to its reset condition. -/
  | release (a : AssocNo) (cyc : Cyc)
  /-- ASN_UNKNOWN_OP (R166). An unknown association op does nothing and returns result 5. -/
  | asnUnknownOp (a : AssocNo) (cyc : Cyc)
  /-- DRAIN_END (R153). At the edge named by drain_end, a DRAINING entry becomes IDLE. -/
  | drainEnd (a : AssocNo)
  /-- OVERLAP_END (R159). At overlap_end the old phase is zeroed, and ROLL_DONE is sent. -/
  | overlapEnd (k : LinkNo)
  /-- AUTO_RECOVER (R153). A DEAD entry with auto_recover restarts to KINDLING at the first edge its guards hold.
  -/
  | autoRecover (a : AssocNo)
  /-- KEY_PHASE_SWITCH (R159). At a scheduled edge tx_phase flips, the packet numbers restart and overlap_end is
  set. -/
  | keyPhaseSwitch (k : LinkNo)
  /-- CHM_CFG_WRITE (R198). A CHM_CFG write of twin or dummy is checked at landing and at its edge. -/
  | chmCfgWrite (c : ChimneyNo) (w : Word) (cyc : Cyc)
  /-- STOVE_TEST (R200). STV_CMD test takes a Stove or pair out of service and runs its known-answer test. -/
  | stoveTest (c : ChimneyNo) (k : StoveNo) (cyc : Cyc)
  /-- STOVE_RESTORE (R200). STV_CMD restore tests a failed Stove or pair and returns it to service on a pass. -/
  | stoveRestore (c : ChimneyNo) (k : StoveNo) (cyc : Cyc)
  /-- KAT_DONE (R199). A known-answer test finishes, and the Stove passes or leaves service. -/
  | katDone (c : ChimneyNo) (k : StoveNo) (pass : Bool)
  /-- TWIN_MISMATCH (R196). Twin Stoves disagree: both leave service and the affected work is zeroed or
  redispatched. -/
  | twinMismatch (c : ChimneyNo) (i : Fin 32) (frames : List Nat) (groups : List (PortNo × Fin 3)) (jobs : List (SliceNo × Nat))
  /-- MICROCODE_ERROR (R173). An uncorrectable microcode word takes its Stove out of service and raises a fault.
  -/
  | microcodeError (c : ChimneyNo) (k : StoveNo)
  /-- DRBG_RESEED (R194). A DRBG instance reaches its reseed point and reseeds, or is marked reseed_overdue. -/
  | drbgReseed (i : Fin 9)
  /-- SQ_DOORBELL (R343). A submission-queue tail write makes new descriptors available, or is ignored as out of
  range. -/
  | sqDoorbell (n : SliceNo) (q : Fin 4) (w : Word)
  /-- CQ_DOORBELL (R343). A completion-queue head write frees completion entries. -/
  | cqDoorbell (n : SliceNo) (w : Word)
  /-- EQ_DOORBELL (R343). An event-ring head write frees event entries. -/
  | eqDoorbell (n : SliceNo) (w : Word)
  /-- DESCRIPTOR_FETCH (R345). Once a completion entry can be reserved, the device fetches up to 8 descriptors of
  one queue. -/
  | descriptorFetch (n : SliceNo) (descs : List (List Byte))
  /-- JOB (R346). A JOB descriptor is checked, its key resolved and its job begun. -/
  | job (n : SliceNo) (q : Fin 4) (blob : Option (List Byte)) (cplOk : Bool)
  /-- FENCE (R345). A FENCE completes once every earlier descriptor of its queue has completed. -/
  | fence (n : SliceNo) (q : Fin 4) (cplOk : Bool)
  /-- NOP (R345). A NOP completes at once with OK. -/
  | nop (n : SliceNo) (q : Fin 4) (cplOk : Bool)
  /-- PIECE_DISPATCH (R351). Once staging cells are free, the next piece goes to the slice with the largest
  deficit and the freest Stove. -/
  | pieceDispatch (c : ChimneyNo) (k : StoveNo) (data : Option (List Byte))
  /-- JOB_COMPLETE (R348). The last piece ends, the tag is folded and checked, and a completion is written after
  every destination write. -/
  | jobComplete (n : SliceNo) (id : Nat) (tag : Option (List Byte)) (refused : Option Nat) (cplOk : Bool)
  /-- COALESCE_TIMER (R359). coal_ticks after the oldest waiting completion, an MSI-X message is raised. -/
  | coalesceTimer (n : SliceNo)
  /-- JOB_WAIT_ALARM (R358). A job waiting over 64 ticks for staging or slots writes an event-ring entry. -/
  | jobWaitAlarm (n : SliceNo) (id : Nat)
  /-- BIND (R341). BIND binds an unbound slice to an unused PASID. -/
  | bind (cyc : Cyc)
  /-- SLICE_RESET (R353). RESET steps the slice generation at its edge and discards old-generation work. -/
  | sliceReset (cyc : Cyc)
  /-- SLICE_REMOVE (R353). REMOVE steps the generation and unbinds the slice once old work drains. -/
  | sliceRemove (cyc : Cyc)
  /-- SLICE_RESET_DONE (R353). The previous-generation count reaches 0 and reset_done is reported. -/
  | sliceResetDone (n : SliceNo)
  /-- SLICE_RESET_TIMEOUT (R353). 64 ticks after the step old work remains, so reset_timeout is set and the slice
  is bound all the same. -/
  | sliceResetTimeout (n : SliceNo)
  /-- DIRTY_READ (R357). DIRTY_READ switches the active dirty-log buffer and copies the old one out. -/
  | dirtyRead (cyc : Cyc)
  /-- DIRTY_COPY_DONE (R357). The old log buffer is copied and zeroed, and dirty_done is set. -/
  | dirtyCopyDone (n : SliceNo)
  /-- SLICE_COUNTER_READ (R474). A slice read of SLC_CTR_LO returns a counter shadow if permitted and latches its
  high half. -/
  | sliceCounterRead (n : SliceNo)
  /-- QUEUE_FLUSH (R327). HRT_CMD.flush removes and zeroes every frame of the selected queue after its edge. -/
  | queueFlush (cyc : Cyc)
  /-- SPILL_MOVE (R329). The spill engine moves a verified spilled frame to sealed memory and frees its cells. -/
  | spillMove (q : Fin 16384)
  /-- SPILL_FETCH (R329). While on-die occupancy is below share, spilled frames are fetched back in queue order.
  -/
  | spillFetch (q : Fin 16384)
  /-- FRAGMENT_RECEIVED (R238). A Kindle Exchange data fragment is accepted, discarded as a duplicate, or starts a
  new message. -/
  | fragmentReceived (k : LinkNo) (kind : Byte) (id : Fin 65536) (index : Byte) (count : Byte) (payload : List Byte) (cyc : Cyc)
  /-- ACK_RECEIVED (R237). A Kindle Exchange acknowledgement frees acknowledged fragments of the message being
  sent. -/
  | ackReceived (k : LinkNo) (id : Fin 65536) (base : Byte) (map : Byte) (cyc : Cyc)
  /-- ACK_SEND (R238). At the first edge after fragments are accepted, one acknowledgement is sent for the
  message. -/
  | ackSend (k : LinkNo)
  /-- FRAGMENT_RETRANSMIT (R237). An unacknowledged fragment is resent after its backed-off interval. -/
  | fragmentRetransmit (k : LinkNo) (index : Fin 35)
  /-- FRAGMENT_RETRIES_EXHAUSTED (R237). A fragment sent retx_tries times stays unacknowledged, and the message
  fails. -/
  | fragmentRetriesExhausted (k : LinkNo) (index : Fin 35)
  /-- MESSAGE_TIMEOUT (R237). A message is not acknowledged within 2^msg_to_log2 ticks and fails. -/
  | messageTimeout (k : LinkNo)
  /-- OFFER (R255). A received OFFER is checked and answered, or resolves a collision or opens a parallel session.
  -/
  | offer (k : LinkNo)
  /-- ANSWER (R255). A received ANSWER is checked; the initiator decapsulates, encapsulates, derives s and signs.
  -/
  | answer (k : LinkNo)
  /-- PROOF (R255). A received PROOF is checked for identity and signature, and keys are staged. -/
  | proof (k : LinkNo)
  /-- CONFIRM (R259). A received CONFIRM tag is verified, and phase 0 is installed at the next edge. -/
  | confirm (k : LinkNo)
  /-- ROLL_PROPOSE (R266). A received ROLL_PROPOSE is accepted by the follower, which derives and installs the
  target. -/
  | rollPropose (k : LinkNo)
  /-- ROLL_READY (R269). A received ROLL_READY makes the proposer schedule its switch and acknowledge. -/
  | rollReady (k : LinkNo)
  /-- ROLL_DONE (R268). A received ROLL_DONE completes the rollover once this side's own DONE has been sent. -/
  | rollDone (k : LinkNo)
  /-- REKEY_REQUEST (R273). A received REKEY request is answered with a ciphertext and a pending new generation.
  -/
  | rekeyRequest (k : LinkNo)
  /-- REKEY_RESPONSE (R273). A received REKEY response makes the requester adopt generation g + 1 and propose a
  rollover. -/
  | rekeyResponse (k : LinkNo)
  /-- ABORT (R283). An accepted ABORT ends the session into HOLDOFF and kills the link's associations if LIVE. -/
  | abort (k : LinkNo)
  /-- KEEPALIVE (R280). A received KEEPALIVE is checked for freshness and clears peer_silent. -/
  | keepalive (k : LinkNo)
  /-- LATTICE_OP_DONE (R262). An ML-KEM or ML-DSA operation delivers its result at an edge, and the session
  continues. -/
  | latticeOpDone (link : Option LinkNo) (par : Bool)
  /-- KEY_DERIVE_DONE (R251). Working-key derivation completes, and the keys are installed at step 2 of the next
  edge. -/
  | keyDeriveDone (k : LinkNo)
  /-- PHASE0_INSTALL (R259). Phase 0 is installed on every staged association and the CONFIRM is acknowledged. -/
  | phase0Install (k : LinkNo)
  /-- SESSION_LIVE (R259). At the first edge after its own CONFIRM is wholly acknowledged, the session becomes
  LIVE and its associations go LIVE. -/
  | sessionLive (k : LinkNo)
  /-- STATE_TIMEOUT (R255). A handshake state lasts 2^msg_to_log2 ticks, sends ABORT TIMEOUT and enters HOLDOFF.
  -/
  | stateTimeout (k : LinkNo) (par : Bool)
  /-- HOLDOFF_END (R284). The hold-off expires and the session returns to CLOSED. -/
  | holdoffEnd (k : LinkNo)
  /-- CONTEXT_FREED (R261). A link waiting with start = 1 offers once a handshake context frees. -/
  | contextFreed (k : LinkNo)
  /-- KEEPALIVE_TIMER (R243). A LIVE session that has sent nothing for the KEEPALIVE interval sends a KEEPALIVE.
  -/
  | keepaliveTimer (k : LinkNo)
  /-- PEER_SILENT (R279). No control message for silence_mult intervals sets peer_silent and, with start = 1,
  opens a parallel session. -/
  | peerSilent (k : LinkNo)
  /-- REKEY_TIMER (R272). The rekey interval expires and a REKEY pair followed by a rollover starts. -/
  | rekeyTimer (k : LinkNo)
  /-- REAUTH_TIMER (R272). The re-authentication interval expires and a parallel session opens. -/
  | reauthTimer (k : LinkNo)
  /-- ROLL_TIMEOUT (R281). No READY arrives within the rollover timeout; the failure is counted and the proposal
  resent or escalated. -/
  | rollTimeout (k : LinkNo)
  /-- REKEY_TIMEOUT (R273). No REKEY response arrives within the timeout; a failure is counted and a new request
  sent. -/
  | rekeyTimeout (k : LinkNo)
  /-- DONE_MISSING (R282). The peer's ROLL_DONE is missing after the timeout, so the rollover completes locally
  with done_missing. -/
  | doneMissing (k : LinkNo)
  /-- LINK_ENABLE (R255). A KDL_LINK_CFG write enables a link, which offers if start = 1. -/
  | linkEnable (start : Bool) (port : Byte) (cyc : Cyc)
  /-- LINK_DISABLE (R255). Disabling a link aborts its session with ADMIN, zeroes secrets and kills LIVE
  associations. -/
  | linkDisable (start : Bool) (cyc : Cyc)
  /-- LINK_START (R255). KDL_LINK_CMD START makes a CLOSED link send an OFFER. -/
  | linkStart (cyc : Cyc)
  /-- LINK_ABORT (R255). KDL_LINK_CMD abort sends ABORT ADMIN and closes the session. -/
  | linkAbort (cyc : Cyc)
  /-- LINK_REKEY (R271). KDL_LINK_CMD op 3 runs a REKEY pair and then a rollover. -/
  | linkRekey (cyc : Cyc)
  /-- LINK_REAUTH (R275). KDL_LINK_CMD op 4 opens a parallel session. -/
  | linkReauth (cyc : Cyc)
  /-- CLEAR_HOLDOFF (R284). CLEAR_HOLDOFF ends a hold-off and leaves k unchanged. -/
  | clearHoldoff (cyc : Cyc)
  /-- LINK_ROLL (R271). KDL_LINK_ROLL_CMD.roll proposes a rollover on a LIVE, idle link. -/
  | linkRoll (cyc : Cyc)
  /-- GENERATE (R302). GENERATE draws new key material into an empty slot. -/
  | generate (slot : SlotNo) (cyc : Cyc)
  /-- DERIVE (R305). DERIVE computes a child slot from a derivation-root parent. -/
  | derive (slot : SlotNo) (parent : SlotNo) (cyc : Cyc)
  /-- IMPORT_WRAPPED (R304). IMPORT_WRAPPED unwraps a KWP blob under a KEK into a slot. -/
  | importWrapped (slot : SlotNo) (kek : SlotNo) (cyc : Cyc)
  /-- EXPORT_WRAPPED (R304). EXPORT_WRAPPED wraps an exportable slot under a KEK into KVT_DATA. -/
  | exportWrapped (slot : SlotNo) (kek : SlotNo) (cyc : Cyc)
  /-- DELETE (R303). DELETE invalidates a slot and its descendants at step 3 of its edge. -/
  | delete (slot : SlotNo) (cyc : Cyc)
  /-- ATTEST (R312). ATTEST signs a statement binding a slot's attributes to the device identity. -/
  | attest (slot : SlotNo) (cyc : Cyc)
  /-- READ_CERT (R313). READ_CERT copies the vendor certificate to host memory. -/
  | readCert (cyc : Cyc)
  /-- KCV (R311). KCV writes the key check value of a slot to KVT_DATA. -/
  | kcv (slot : SlotNo) (cyc : Cyc)
  /-- ES_RESTART (R316). ES_RESTART reruns the entropy start-up tests and reseeds all instances on a pass. -/
  | esRestart (pass : Bool) (cyc : Cyc)
  /-- SCRUB (R293). SCRUB checks every slot tag now and marks failing slots BAD. -/
  | scrub (cyc : Cyc)
  /-- IDENTITY_GEN (R313). IDENTITY_GEN draws a new identity seed into slot 0. -/
  | identityGen (slot : SlotNo) (cyc : Cyc)
  /-- IMPORT (R302). IMPORT, on the officer path only, writes plain material into a slot. -/
  | importSlot (slot : SlotNo) (arg : Word) (uses : Word) (data : List Byte) (cyc : Cyc)
  /-- KVT_UNKNOWN_OP (R302). An unknown vault op does nothing and returns result 11. -/
  | kvtUnknownOp (cyc : Cyc)
  /-- USE_RESERVATION (R299). A reservation commit completes, refills the slot's stock and grants waiting uses. -/
  | useReservation (v : SlotNo)
  /-- OTP_ADVANCE (R314). A guarded KVT_OTP_CMD blows rollback bits up to the target count. -/
  | otpAdvance (target : Byte) (guard : Byte) (cyc : Cyc)
  /-- REGION_ENABLE (R368). Enabling a region is checked, draws fresh keys and starts initialisation. -/
  | regionEnable (w : Word) (cyc : Cyc)
  /-- REGION_DISABLE (R370). Disabling a region zeroes its keys, root counters and poison entries. -/
  | regionDisable (w : Word) (cyc : Cyc)
  /-- REGION_READY (R374). The last tree node is initialised and the region is ready. -/
  | regionReady (r : RegionNo)
  /-- SEALED_LINE_READ (R374). A consumer read of a sealed line verifies the tree path and the tag, then decrypts.
  -/
  | sealedLineRead (r : RegionNo) (line : Nat) (inp : LineIn)
  /-- SEALED_LINE_WRITE (R374). A consumer write of a sealed line raises its counter, encrypts, tags and writes
  it. -/
  | sealedLineWrite (r : RegionNo) (line : Nat) (user : Fin 5) (data : List Byte) (inp : LineIn)
  /-- SWEEP_START (R376). A counter reaches the threshold and the region starts a rekey sweep under new keys. -/
  | sweepStart (r : RegionNo)
  /-- SWEEP_DONE (R378). The sweep passes the last group, the old keys are zeroed and sweep_done is set. -/
  | sweepDone (r : RegionNo)
  /-- CXL_LINK_TRAINED (R365). CXL training ends up or failed, and the CXM page becomes ready. -/
  | cxlLinkTrained (up : Bool) (rate : Fin 4) (width : Fin 17) (capacity : Fin 641)
  /-- MEDIA_EVENT_POLL (R366). Every 1,024 ticks firmware reads the expander's event records and counts corrected
  errors. -/
  | mediaEventPoll (corrected : Nat)
  /-- REINIT (R382). REINIT rewrites the nodes of a poisoned scope with zero counters. -/
  | reinit (entry : Fin 64) (cyc : Cyc)
  /-- HELLO (R386). A received Flue HELLO keys the Flue, reports a conflict or mismatch, or reveals a restarted
  partner. -/
  | hello (cyc : Cyc)
  /-- MIRROR_FRAME_VERIFIED (R389). A mirror frame completes and verifies, and its ack acts at once. -/
  | mirrorFrameVerified (sel : Fin 16) (alarm : Fin 4)
  /-- HANDOVER (R404). HANDOVER stops admission and hands service to a synced partner. -/
  | handover (cyc : Cyc)
  /-- RESYNC (R394). RESYNC starts a bulk pass from the lock holder. -/
  | resync (cyc : Cyc)
  /-- CLAIM_FRAME (R400). A valid claim frame on CLAIM_IN updates the peer's claim. -/
  | claimFrame (claim : BitVec 16) (crc : BitVec 4)
  /-- STANDBY_SCRUB (R397). Once per 2^16 ticks in STANDBY, every non-Hearth SRAM word is read and corrected. -/
  | standbyScrub (errs : List Machine.EccErr)
  /-- IDLE_LANE_WINDOW (R397). At the end of each 125-tick window, an idle lane is judged failing or clean. -/
  | idleLaneWindow (g : LaneNo) (errors : Nat)
  /-- INC_WRITE (R413). A TSU_INC_HI write makes both increment halves pending, and they are checked at their
  edge. -/
  | incWrite (hi : Word) (cyc : Cyc)
  /-- TIME_STEP (R414). TSU_STEP adds a signed step to TIME at its edge. -/
  | timeStep (step : Word) (cyc : Cyc)
  /-- TIME_READ (R415). A TSU_TIME_NS read latches the fraction and RAW. -/
  | timeRead (cyc : Cyc)
  /-- EDGE_TIME_READ (R415). A TSU_EDGE_NS read latches the matching edge tick. -/
  | edgeTimeRead (cyc : Cyc)
  /-- PPS_OUT (R417). TIME reaches TSU_PPS_OUT_NEXT, PPS_OUT rises and the next time advances. -/
  | ppsOut (cyc : Cyc)
  /-- PPS_IN (R418). A PPS_IN edge latches TIME and advances the capture count. -/
  | ppsIn (falling : Bool) (ns : Nat) (cyc : Cyc)
  /-- PPS_IN_READ (R418). A TSU_PPS_IN_NS read latches the fraction and the count. -/
  | ppsInRead (cyc : Cyc)
  /-- TAMPER_FIRE (R425). A tamper source's condition is first met and the source fires. -/
  | tamperFire (src : Fin 23) (rtc : Nat)
  /-- TAMPER_TEST (R435). TMP_TEST.start stimulates a monitor with its response suppressed. -/
  | tamperTest (src : Fin 32) (start : Bool)
  /-- TAMPER_TEST_END (R435). The test window ends, and any remaining condition fires for real. -/
  | tamperTestEnd (still : Bool)
  /-- OFFICER_HELLO (R438). A token HELLO is answered with a CHALLENGE, or refused while locked. -/
  | officerHello (m : OfcMsg)
  /-- OFFICER_RESPONSE (R438). A RESPONSE starts signature verification and key agreement. -/
  | officerResponse (m : OfcMsg)
  /-- VAULT (R439). A sealed VAULT message runs a vault command with officer authority. -/
  | vault (m : OfcMsg) (cyc : Cyc)
  /-- CERT_WRITE (R439). CERT_WRITE stores a vendor certificate fragment for slot 0. -/
  | certWrite (m : OfcMsg)
  /-- CERT_READ (R439). CERT_READ returns the vendor certificate in RESULT. -/
  | certRead (m : OfcMsg)
  /-- ACK (R434). ACK clears TMP_DEFER and ends an OFFICER hold. -/
  | ack (m : OfcMsg)
  /-- CLEAR_FLAGS (R430). CLEAR_FLAGS clears the named sticky environmental flags. -/
  | clearFlags (m : OfcMsg)
  /-- NOTE (R431). NOTE appends an officer entry with source 31 to the tamper log. -/
  | note (m : OfcMsg)
  /-- SET_BRTC (R432). SET_BRTC sets the battery-backed clock. -/
  | setBrtc (m : OfcMsg)
  /-- UNLOCK_CFG (R436). UNLOCK_CFG clears cfg_lock. -/
  | unlockCfg (m : OfcMsg)
  /-- END (R438). END closes the officer session. -/
  | endSession (m : OfcMsg)
  /-- ECC_CORRECTED (R452). A single-bit SRAM error is corrected, written back and counted. -/
  | eccCorrected (p : Page) (i : Fin 256) (src : Fin 1024)
  /-- ECC_UNCORRECTABLE (R453). An uncorrectable SRAM error is latched as a page fault and starts an event flush.
  -/
  | eccUncorrectable (p : Page) (i : Fin 256) (src : Fin 1024) (node : Fin 16 × Fin 8 × Nat) (inp : LineIn) (cyc : Cyc)
  /-- FAULT_CLEAR (R454). Writing PAGE_FAULT bit 15 clears the page's fault latch. -/
  | faultClear (p : Page) (i : Fin 256)
  /-- FAULT_INJECT (R457). A guarded PAGE_FINJ write arms a checker to store the next word with inverted check
  bits. -/
  | faultInject (p : Page) (i : Fin 256) (w : Word)
  /-- PMC_SNAPSHOT (R471). PMC_CMD.snapshot requests a counter snapshot at the edge it reaches. -/
  | pmcSnapshot (cyc : Cyc)
  /-- CLEAR_ALL (R472). PMC_CMD.clear_all clears every counter at step 2 of its edge. -/
  | clearAll (cyc : Cyc)
  /-- COUNTER_CLEAR (R472). CNT_CFG.clear or a select change clears one counter at step 2 of its edge. -/
  | counterClear (p : Page) (i : Fin 256) (c : Fin 8) (w : Word) (cyc : Cyc)
  /-- COUNTER_READ (R473). A CNT_VAL_LO read returns the shadow and latches CNT_VAL_HI. -/
  | counterRead (p : Page) (i : Fin 256) (c : Fin 8)
  /-- ARCHIVE_READ (R475). A PMC_ARCH_SEL write reads one word of an archived snapshot block. -/
  | archiveRead (block : Fin 65536) (word : Fin 8192)
  /-- SEA_RXG_READ (R227). A SEA_RXG_LO read returns the predicted group number and latches its high bits. -/
  | seaRxgRead (p : PortNo)
  /-- CDR_LOCK_LOSS (R84). The lane's CDR loses lock, clearing LAN_STAT.cdr_lock and counting a CDR lock loss in
  cdr_losses. -/
  | cdrLockLoss (g : LaneNo)
  /-- LOS_CLEAR (R84). The input rises back above the signal-detect level and LAN_STAT.los clears, so the port's
  LOS defect can clear at the next edge. -/
  | losClear (g : LaneNo)
  /-- PPS_OUT_PULSE_END (R417). TSU_PPS_OUT_W microseconds after PPS_OUT rises, the output falls low. -/
  | ppsOutPulseEnd (cyc : Cyc)
  /-- PAIR_OP_ACK_TIMEOUT (R34). When no acknowledgement of a pair operation arrives 4 ticks after its local edge,
  partner_fail is set and partner_wait clears. -/
  | pairOpAckTimeout
  /-- SELF_TEST_COMPLETE (R37). When the test sequence completes, the device returns from SELF-TEST to KINDLING.
  -/
  | selfTestComplete
  /-- SRAM_ZEROING_DONE (R50). Zeroing of the on-die SRAMs outside the Ember domain completes, and the pages that
  own them may become ready. -/
  | sramZeroingDone
  /-- BROWNOUT_EXIT (R37). After both rails stay above their release thresholds for 16 consecutive ticks, the
  device returns to prev_mode. -/
  | brownoutExit
  /-- COLD_GUARD_ENTRY (R37). VDD_CORE falls below 0.30 V with VBAT held, and the device enters COLD-GUARD. -/
  | coldGuardEntry
  /-- EMBER_LOSS (R48). VBAT falls below 2.20 V while main power is off, and the Ember domain is lost. -/
  | emberLoss
  /-- POWER_FAIL_WARNING (R45). PFW_N asserts, which starts an event flush and, with shed = 1, squelches lanes and
  stops admission by the next edge. -/
  | powerFailWarning
  /-- QUENCH_SWEEP_DONE (R168). The association-table bank sweep completes and quench_busy clears. -/
  | quenchSweepDone
  /-- QUENCH_COMPLETE (R40). At the first edge after the last store is zeroed, the device enters QUENCHED. -/
  | quenchComplete
  /-- AGING_EDGE (R140). On an aging edge every non-static entry is refreshed, or aged and removed at age_max. -/
  | agingEdge
  /-- FWD_CMD_COMPLETE (R142). A running forwarding command completes, acts on the table and writes its results.
  -/
  | fwdCmdComplete
  /-- ENTROPY_HEALTH_FAIL (R194). The entropy source fails a health test and stops; es_fail is set in every
  Chimney. -/
  | entropyHealthFail
  /-- FLUSH_END (R327). A flush finishes zeroing its cells and flush_done is set. -/
  | flushEnd
  /-- VAULT_COMMIT_DONE (R303). A slot commit completes, and the slot becomes usable at step 3 of the next edge.
  -/
  | vaultCommitDone
  /-- SCRUB_TIMER (R293). Every 2^scrub_log2 ticks the vault checks every slot tag. -/
  | scrubTimer
  /-- OTP_DONE (R314). An OTP command finishes and otp_done is set. -/
  | otpDone
  /-- CXL_LINK_DOWN (R380). The CXL link goes down and every enabled region is poisoned whole. -/
  | cxlLinkDown
  /-- REINIT_DONE (R382). The last node of a REINIT is written and the poison entry clears at the next edge. -/
  | reinitDone
  /-- MIRROR_STALE (R394). After 8 consecutive edges without a new frame, the standby's mirror becomes invalid. -/
  | mirrorStale
  /-- PARTNER_SYNC_LOST (R396). After 16 edges without frames or advancing acks, partner_sync drops. -/
  | partnerSyncLost
  /-- HANDOVER_RELEASE (R404). At H + 2 the unit releases PAIR_LOCK and enters STANDBY, losing frames still
  queued. -/
  | handoverRelease
  /-- PARTNER_FAILURE (R405). On the second consecutive edge with PAIR_LOCK released, the standby decides on a
  warm, cold or no takeover. -/
  | partnerFailure
  /-- TAKEOVER (R406). At E the standby takes the lock, jumps packet numbers to the marks and restarts sealing. -/
  | takeover
  /-- TAKEOVER_COMPLETE (R406). At E + 3 the first sealed frames leave and the mode becomes ACTIVE. -/
  | takeoverComplete
  /-- CLAIM_AGE_EXPIRY (R402). No peer claim for 64 ticks turns ACTIVE into SOLO and allows SOLO outcomes. -/
  | claimAgeExpiry
  /-- STANDBY_KAT (R397). Every 32 ticks in STANDBY, each Chimney tests one Stove. -/
  | standbyKat
  /-- TAMPER_WINDOW_END (R428). At the end of a BRTC subsecond window, the union of responses acts in the fixed
  order. -/
  | tamperWindowEnd
  /-- QUENCH_BUTTON (R441). QUENCH_N held low for 3 s fires source 20. -/
  | quenchButton
  /-- TOKEN_PLUG (R437). OFC_DET_N goes low when an officer token is plugged. -/
  | tokenPlug
  /-- TOKEN_UNPLUG (R438). Token removal ends any officer session and zeroes its key. -/
  | tokenUnplug
  /-- OFFICER_VERIFY_DONE (R438). Verification finishes and opens a session, enrols, or counts a failure. -/
  | officerVerifyDone
  /-- OFFICER_RESPONSE_TIMEOUT (R440). No RESPONSE within 2 s of CHALLENGE counts a failed authentication. -/
  | officerResponseTimeout
  /-- OFFICER_SESSION_TIMEOUT (R438). 300 s without a message ends the officer session. -/
  | officerSessionTimeout
  /-- BRTC_READ (R449). A TMP_BRTC_S read latches the subseconds. -/
  | brtcRead
  /-- LED_REFRESH (R442). Every 8 ticks the lock holder shifts the 304-bit LED chain and latches it. -/
  | ledRefresh
  /-- FLT_CLEAR (R455). Writing FLT_FIRST_SRC.valid clears the device-wide first-fault latch. -/
  | fltClear
  /-- FREEZE (R463). FREEZE stops storing records so the ring can be read. -/
  | freeze
  /-- UNFREEZE (R463). UNFREEZE resumes storing and stores the held severity-7 records. -/
  | unfreeze
  /-- FREEZE_TIMEOUT (R463). At the 1,024th edge after a freeze, the ring unfreezes and freeze_timeout is set. -/
  | freezeTimeout
  /-- FLUSH (R464). EVR_CMD.flush starts a copy of unflushed records to the MRAM ring. -/
  | flush
  /-- FLUSH_DONE (R465). A flush to MRAM ends, flush_done is set and any waiting flush starts. -/
  | flushDone
  /-- RECORD_FETCH (R467). EVR_RD fetches a record by sequence number from the volatile ring, MRAM or the deep
  log. -/
  | recordFetch
  /-- PERIODIC_SNAPSHOT (R471). At an edge that is a multiple of 2^period_log2, every counter is latched into its
  shadow and archived. -/
  | periodicSnapshot
  /-- ATTEST_TIMEOUT (R312). An ATTEST statement not finished within 64 ticks ends with result 12 and writes
  nothing. -/
  | attestTimeout
  deriving DecidableEq, Repr

end Sys2Proof
end

