-- ==== Sys2Proof/Decode.lean ====
section
/-! DEFINITION. The command that a word spells. The opcode table gives its rows no bits: a command is an event or an
access, not a word, so no word spells one. -/

namespace Sys2Proof

/-- The command that the `nbits` bits `w` spell by the table: none, since no row of the table gives bits. -/
def decodeTableWord (_nbits _w : Nat) : Option Instr := none

end Sys2Proof
end

