-- ==== Sys2Proof/Config.lean ====
section
/-! DEFINITION. What the manual leaves open (free values) and the cryptographic primitives it names by reference.
Each is an opaque constant: no proof can see a value of it, so a claim is true whatever it is. -/

namespace Sys2Proof

/-- A free value of `w` bits: a value the manual leaves open, or bits of the entropy source (R194). The argument is the
state's counter `fresh`, which advances with every one taken. -/
opaque Config.freeBits (w : Nat) : Nat → BitVec w

/-- AES-256 of one block (FIPS 197), by key and block. -/
opaque Config.aes256 : BitVec 256 → BitVec 128 → BitVec 128

/-- AES-256 decryption of one block. -/
opaque Config.aes256Inv : BitVec 256 → BitVec 128 → BitVec 128

/-- KMAC256 (SP 800-185): key, data, output bits, customization. -/
opaque Config.kmac256 : List Byte → List Byte → Nat → List Byte → List Byte

/-- SHA3-512 (FIPS 202). -/
opaque Config.sha3 : List Byte → List Byte

/-- ML-DSA-87 (FIPS 204): the public key of a seed; a hedged signature by seed, message, context and randomness; the
verification of a signature by public key, message, context and signature. -/
opaque Config.dsaPublic : List Byte → List Byte
opaque Config.dsaSign : List Byte → List Byte → List Byte → List Byte → List Byte
opaque Config.dsaVerify : List Byte → List Byte → List Byte → List Byte → Bool

/-- ML-KEM-1024 (FIPS 203): encapsulation key and decapsulation key of a seed; ciphertext and shared secret by
encapsulation key and randomness; the shared secret by decapsulation key and ciphertext; the input check of an
encapsulation key. -/
opaque Config.kemKeys : List Byte → List Byte × List Byte
opaque Config.kemEncaps : List Byte → List Byte → List Byte × List Byte
opaque Config.kemDecaps : List Byte → List Byte → List Byte
opaque Config.kemKeyOk : List Byte → Bool

/-- The places of the fields of a VAULT message's body, op, slot, aux, arg, uses and data, and of the mask of a
CLEAR_FLAGS message, which the manual leaves open (R439). -/
opaque Config.vaultFields : List Byte → Nat × Nat × Nat × BitVec 32 × BitVec 32 × List Byte
opaque Config.flagsMask : List Byte → BitVec 8

/-- The mix of a scrambled region and its inverse (R375): key, line address and line. -/
opaque Config.mix : BitVec 256 → Nat → List Byte → List Byte
opaque Config.unmix : BitVec 256 → Nat → List Byte → List Byte

/-- Which of two pages that R482 places at one offset an offset names: the one of the lower type code, or the other. -/
opaque Config.lowerPage : Nat → Bool

/-- HST_LINK as link training left it (R362): speed in bits 3 to 0, width in bits 8 to 4. -/
opaque Config.hostLink : BitVec 9

end Sys2Proof
end

