-- ==== Sys2Proof/Machine/Bits.lean ====
section
/-! DEFINITION. Bit fields of a word, byte and word conversions, and sparse maps in one canonical form. -/

namespace Sys2Proof

/-! ### Fields of a word (R5) -/

/-- The field of `w` that begins at bit `lo` and is `n` bits wide. -/
def getF (w : Word) (lo n : Nat) : Nat := (w.toNat >>> lo) % 2 ^ n

/-- `w` with the field at bit `lo`, `n` bits wide, replaced by `v` (modulo `2 ^ n`). -/
def setF (w : Word) (lo n v : Nat) : Word :=
  BitVec.ofNat 32 (w.toNat % 2 ^ lo + (v % 2 ^ n) * 2 ^ lo + (w.toNat >>> (lo + n)) * 2 ^ (lo + n))

/-- `old` with the bits of `mask` taken from `new`. -/
def mergeF (mask old new : Word) : Word := (old &&& ~~~mask) ||| (new &&& mask)

/-- Bit `i` of a number. -/
def bit (n i : Nat) : Bool := n.testBit i

/-- 1 for true, 0 for false: a one-bit field's value. -/
def b2n (b : Bool) : Nat := if b then 1 else 0

/-- `n` with bit `i` set. -/
def setBit (n i : Nat) : Nat := n ||| (1 <<< i)

/-- `n` with bit `i` cleared. -/
def clrBit (n i : Nat) : Nat := if n.testBit i then n - 1 <<< i else n

/-- The two's complement reading of the low `n` bits of `v`. -/
def signed (n v : Nat) : Int :=
  if v % 2 ^ n < 2 ^ (n - 1) then (v % 2 ^ n : Nat) else (v % 2 ^ n : Nat) - (2 ^ n : Nat)

/-- The low `n` bits of an integer, in two's complement. -/
def unsigned (n : Nat) (v : Int) : Nat := (v % (2 ^ n : Nat)).toNat

/-! ### Bytes in network order (R7) -/

/-- The number that bytes in network order spell: the first byte is the most significant. -/
def beNat (bs : List Byte) : Nat := bs.foldl (fun n b => n * 256 + b.toNat) 0

/-- The `n` bytes of `v` in network order. -/
def beBytes : Nat → Nat → List Byte
  | 0, _ => []
  | n + 1, v => BitVec.ofNat 8 (v >>> (8 * n)) :: beBytes n v

/-- The number of little-endian bytes. -/
def leNat : List Byte → Nat
  | [] => 0
  | b :: bs => b.toNat + 256 * leNat bs

/-- The `n` little-endian bytes of `v`. -/
def leBytes : Nat → Nat → List Byte
  | 0, _ => []
  | n + 1, v => BitVec.ofNat 8 v :: leBytes n (v / 256)

/-- `n` bytes of `bs` from position `i`; positions past the end read 0. -/
def slice (bs : List Byte) (i n : Nat) : List Byte :=
  let t := (bs.drop i).take n
  t ++ List.replicate (n - t.length) 0

/-- Byte `i`, 0 past the end. -/
def byteAt (bs : List Byte) (i : Nat) : Nat := (bs.getD i 0).toNat

/-- The big-endian number of the `n` bytes at `i`. -/
def beAt (bs : List Byte) (i n : Nat) : Nat := beNat (slice bs i n)

/-- Bytewise exclusive or, as long as the shorter list. -/
def xorBytes (a b : List Byte) : List Byte := List.zipWith (· ^^^ ·) a b

/-- `bs` with the bytes `new` written over it from position `i`, its length kept. -/
def overwrite (bs : List Byte) (i : Nat) (new : List Byte) : List Byte :=
  (bs.take i ++ new ++ bs.drop (i + new.length)).take bs.length

/-- `bs` cut into pieces of `n` bytes, the last one possibly shorter. The fuel bounds the pieces. -/
def chunksAux (n : Nat) : Nat → List Byte → List (List Byte)
  | 0, _ => []
  | _ + 1, [] => []
  | k + 1, b :: bs => ((b :: bs).take n) :: chunksAux n k ((b :: bs).drop n)

/-- `bs` cut into pieces of `n` bytes, the last one possibly shorter. -/
def chunks (n : Nat) (bs : List Byte) : List (List Byte) := chunksAux n bs.length bs

/-- `bs` padded with zeros to a multiple of `n` bytes. -/
def padTo (n : Nat) (bs : List Byte) : List Byte :=
  bs ++ List.replicate ((n - bs.length % n) % n) 0

/-- `a / b` rounded up. -/
def ceilDiv (a b : Nat) : Nat := (a + b - 1) / b

/-! ### Sparse maps

A sparse map is a list of key and value pairs with its keys strictly rising and no value equal to what an unlisted
key reads as, so equal maps are equal lists. -/

/-- What `k` reads as: its listed value, else `d`. -/
def mget {κ α : Type} [DecidableEq κ] (d : α) : List (κ × α) → κ → α
  | [], _ => d
  | (k', v) :: m, k => if k = k' then v else mget d m k

/-- `m` without `k`. -/
def mdel {κ α : Type} [DecidableEq κ] : List (κ × α) → κ → List (κ × α)
  | [], _ => []
  | (k', v) :: m, k => if k = k' then mdel m k else (k', v) :: mdel m k

/-- `m` with `(k, v)` listed before the first greater key. -/
def mins {κ α : Type} (lt : κ → κ → Bool) : List (κ × α) → κ → α → List (κ × α)
  | [], k, v => [(k, v)]
  | (k', v') :: m, k, v => if lt k k' then (k, v) :: (k', v') :: m else (k', v') :: mins lt m k v

/-- `m` with `k` reading `v`, where an unlisted `k` reads `d`. -/
def mset {κ α : Type} [DecidableEq κ] [DecidableEq α] (lt : κ → κ → Bool) (d : α)
    (m : List (κ × α)) (k : κ) (v : α) : List (κ × α) :=
  if v = d then mdel m k else mins lt (mdel m k) k v

/-- The canonical form: keys strictly rising, and no value equal to what its key reads as unlisted. -/
def mwf {κ α : Type} [DecidableEq α] (lt : κ → κ → Bool) (d : κ → α) : List (κ × α) → Bool
  | [] => true
  | (k, v) :: m => decide (v ≠ d k) && m.all (fun e => lt k e.1) && mwf lt d m

/-- A sparse map from numbers. -/
abbrev NMap (α : Type) := List (Nat × α)

/-- What number `k` reads as in a map whose unlisted keys read `d`. -/
def nget {α : Type} (d : α) (m : NMap α) (k : Nat) : α := mget d m k

/-- The map with `k` reading `v`, in canonical form. -/
def nset {α : Type} [DecidableEq α] (d : α) (m : NMap α) (k : Nat) (v : α) : NMap α :=
  mset Nat.blt d m k v

/-- The map without `k`. -/
def ndel {α : Type} (m : NMap α) (k : Nat) : NMap α := mdel m k

/-- `f` applied for i = 0, 1, …, n − 1 in turn. -/
def forN {σ : Type} (n : Nat) (f : Nat → σ → σ) (s : σ) : σ := (List.range n).foldl (fun s i => f i s) s

/-- `f` applied for each element of a list in turn. -/
def forL {σ α : Type} (l : List α) (f : α → σ → σ) (s : σ) : σ := l.foldl (fun s a => f a s) s

/-- `f s` where `c` holds, else `s`. -/
def onlyIf {σ : Type} (c : Bool) (f : σ → σ) (s : σ) : σ := if c then f s else s

end Sys2Proof
end

