-- ==== Sys2Proof/Machine/Crypto.lean ====
section
/-! DEFINITION. The modes of R180 to R185 over the AES-256 block function, GHASH, the CTR_DRBG of R193, and the CRCs of
the wire formats. -/

namespace Sys2Proof

/-! ### Blocks -/

/-- A 128-bit block. -/
abbrev Block := BitVec 128

/-- The block that up to 16 bytes spell in network order, zero-filled at the end (R185). -/
def blockOf (bs : List Byte) : Block := BitVec.ofNat 128 (beNat (slice bs 0 16))

/-- The 16 bytes of a block in network order. -/
def blockBytes (b : Block) : List Byte := beBytes 16 b.toNat

/-- A 256-bit key from 32 bytes. -/
def keyOfBytes (bs : List Byte) : BitVec 256 := BitVec.ofNat 256 (beNat (slice bs 0 32))

/-- Multiplication in GF(2^128) on the GCM field polynomial (R172, SP 800-38D), bit 0 of the field leftmost. -/
def gfMul (x y : Block) : Block :=
  ((List.range 128).foldl (fun (q : Block × Block) i =>
    (if x.getMsbD i then q.1 ^^^ q.2 else q.1,
     if q.2.getLsbD 0 then (q.2 >>> 1) ^^^ (0xE1 : Block) <<< 120 else q.2 >>> 1)) (0, y)).1

/-- GHASH of bytes from an accumulator: whole blocks, the last one zero-filled. -/
def ghashFrom (h acc : Block) (bs : List Byte) : Block :=
  (chunks 16 bs).foldl (fun a c => gfMul (a ^^^ blockOf c) h) acc

/-- The length block of GCM: two lengths in bytes, told in bits. -/
def lengthBlock (aad ct : Nat) : Block := BitVec.ofNat 128 ((8 * aad % 2 ^ 64) * 2 ^ 64 + 8 * ct % 2 ^ 64)

/-- GHASH over AAD, ciphertext and the length block (R185). -/
def ghash (h : Block) (aad ct : List Byte) : Block :=
  gfMul (ghashFrom h (ghashFrom h 0 aad) ct ^^^ lengthBlock aad.length ct.length) h

/-! ### Modes -/

/-- Bytes exclusive-ored with a key stream whose block `b` is the cipher of `ctr b`; the last block is truncated. -/
def streamXor (key : BitVec 256) (ctr : Nat → Block) (bs : List Byte) : List Byte :=
  ((chunks 16 bs).foldl (fun (q : List Byte × Nat) c =>
    (q.1 ++ xorBytes c (blockBytes (Config.aes256 key (ctr q.2))), q.2 + 1)) ([], 0)).1

/-- The counter block IV ‖ word (R185). -/
def gcmCounter (iv : BitVec 96) (w : Nat) : Block := BitVec.ofNat 128 (iv.toNat * 2 ^ 32 + w % 2 ^ 32)

/-- The data of a GCM operation enciphered, or deciphered: block b under counter b + 2 (R185). -/
def gcmCrypt (key : BitVec 256) (iv : BitVec 96) (bs : List Byte) : List Byte :=
  streamXor key (fun b => gcmCounter iv (b + 2)) bs

/-- The hash key of a key. -/
def hashKey (key : BitVec 256) : Block := Config.aes256 key 0

/-- The GCM tag of AAD and ciphertext (R185). -/
def gcmTag (key : BitVec 256) (iv : BitVec 96) (aad ct : List Byte) : List Byte :=
  blockBytes (Config.aes256 key (gcmCounter iv 1) ^^^ ghash (hashKey key) aad ct)

/-- CTR with a 128-bit counter (R185). -/
def ctrCrypt (key : BitVec 256) (iv : Block) (bs : List Byte) : List Byte :=
  streamXor key (fun b => iv + BitVec.ofNat 128 b) bs

/-- CBC encryption of whole blocks. -/
def cbcEncrypt (key : BitVec 256) (iv : Block) (bs : List Byte) : List Byte :=
  ((chunks 16 bs).foldl (fun (q : List Byte × Block) c =>
    let y := Config.aes256 key (blockOf c ^^^ q.2)
    (q.1 ++ blockBytes y, y)) ([], iv)).1

/-- CBC decryption of whole blocks. -/
def cbcDecrypt (key : BitVec 256) (iv : Block) (bs : List Byte) : List Byte :=
  ((chunks 16 bs).foldl (fun (q : List Byte × Block) c =>
    (q.1 ++ blockBytes (Config.aes256Inv key (blockOf c) ^^^ q.2), blockOf c)) ([], iv)).1

/-- The padding of CBC dir 0: P bytes of value P (R185). -/
def pkcsPad (bs : List Byte) : List Byte :=
  let p := 16 - bs.length % 16
  bs ++ List.replicate p (BitVec.ofNat 8 p)

/-- The plaintext without its padding; none where the padding is not valid (R185). -/
def pkcsUnpad (bs : List Byte) : Option (List Byte) :=
  let p := byteAt bs (bs.length - 1)
  if 1 ≤ p ∧ p ≤ 16 ∧ p ≤ bs.length ∧ (bs.drop (bs.length - p)).all (fun b => b.toNat = p) then
    some (bs.take (bs.length - p))
  else none

/-! ### XTS (R185) -/

/-- The tweak of the next block, T × α, in the byte order of IEEE 1619: byte 0 of a block is its least significant. -/
def nextTweak (t : Block) : Block :=
  let n := leNat (blockBytes t)
  blockOf (leBytes 16 (if n < 2 ^ 127 then 2 * n else (2 * n - 2 ^ 128) ^^^ 0x87))

/-- One block under a tweak, enciphered or deciphered. -/
def tweakBlock (enc : Bool) (key : BitVec 256) (t x : Block) : Block :=
  (if enc then Config.aes256 key (x ^^^ t) else Config.aes256Inv key (x ^^^ t)) ^^^ t

/-- Whole blocks in turn from a tweak: their bytes, and the tweak that follows. -/
def tweakBlocks (enc : Bool) (key : BitVec 256) (t : Block) (bs : List Byte) : List Byte × Block :=
  (chunks 16 bs).foldl (fun (q : List Byte × Block) c =>
    (q.1 ++ blockBytes (tweakBlock enc key q.2 (blockOf c)), nextTweak q.2)) ([], t)

/-- AES-256-XTS of a data unit under the data and tweak keys (R185), with ciphertext stealing where its length is not
a multiple of 16: the last whole block and the piece after it, of which deciphering takes the later tweak first. -/
def xtsCrypt (enc : Bool) (dataKey tweakKey : BitVec 256) (iv : Block) (bs : List Byte) : List Byte :=
  let rest := bs.length % 16
  let whole := bs.length - rest - if rest = 0 then 0 else 16
  let (out, t) := tweakBlocks enc dataKey (Config.aes256 tweakKey iv) (bs.take whole)
  if rest = 0 then out
  else
    let (t1, t2) := if enc then (t, nextTweak t) else (nextTweak t, t)
    let a := blockBytes (tweakBlock enc dataKey t1 (blockOf (slice bs whole 16)))
    let b := blockBytes (tweakBlock enc dataKey t2 (blockOf (bs.drop (whole + 16) ++ a.drop rest)))
    out ++ b ++ a.take rest

/-! ### Key wrap (R185, SP 800-38F) -/

/-- The bytes of 8-byte words. -/
def wordBytes (ws : List (BitVec 64)) : List Byte := ws.flatMap (fun w => beBytes 8 w.toNat)

/-- Bytes as 8-byte words. -/
def bytesWords (bs : List Byte) : List (BitVec 64) := (chunks 8 bs).map (fun c => BitVec.ofNat 64 (beNat c))

/-- The wrapping function: step t, from 1 to 6n, enciphers the running value with the next word in turn. -/
def wrapSteps (key : BitVec 256) (a : BitVec 64) (ws : List (BitVec 64)) : List (BitVec 64) :=
  let (a, ws) := (List.range (6 * ws.length)).foldl (fun (q : BitVec 64 × List (BitVec 64)) t =>
    let b := Config.aes256 key (q.1 ++ q.2.headD 0)
    (b.extractLsb' 64 64 ^^^ BitVec.ofNat 64 (t + 1), q.2.tail ++ [b.extractLsb' 0 64])) (a, ws)
  a :: ws

/-- Its inverse, from step 6n down to 1: the running value and the words. -/
def unwrapSteps (key : BitVec 256) (cs : List (BitVec 64)) : BitVec 64 × List (BitVec 64) :=
  let n := cs.length - 1
  let (a, ws) := (List.range (6 * n)).reverse.foldl (fun (q : BitVec 64 × List (BitVec 64)) t =>
    let b := Config.aes256Inv key ((q.1 ^^^ BitVec.ofNat 64 (t + 1)) ++ q.2.headD 0)
    (b.extractLsb' 64 64, q.2.tail ++ [b.extractLsb' 0 64])) (cs.headD 0, cs.tail.reverse)
  (a, ws.reverse)

/-- KW: the wrap of whole 8-byte words. -/
def kwWrap (key : BitVec 256) (bs : List Byte) : List Byte := wordBytes (wrapSteps key 0xA6A6A6A6A6A6A6A6 (bytesWords bs))

/-- KW: the unwrap; none where the recovered initial value does not match. -/
def kwUnwrap (key : BitVec 256) (bs : List Byte) : Option (List Byte) :=
  let (a, ws) := unwrapSteps key (bytesWords bs)
  if a = 0xA6A6A6A6A6A6A6A6 then some (wordBytes ws) else none

/-- KWP: the wrap of `bs`, zero-filled to a multiple of 8; 8 bytes take a single block. -/
def kwpWrap (key : BitVec 256) (bs : List Byte) : List Byte :=
  let iv : BitVec 64 := (0xA65959A6 : BitVec 32) ++ BitVec.ofNat 32 bs.length
  match bytesWords (padTo 8 bs) with
  | [w] => blockBytes (Config.aes256 key (iv ++ w))
  | ws => wordBytes (wrapSteps key iv ws)

/-- KWP: the unwrap; none where the initial value, the length or the zero fill does not fit. -/
def kwpUnwrap (key : BitVec 256) (bs : List Byte) : Option (List Byte) :=
  let (a, ws) := match bytesWords bs with
    | [x, y] => let b := Config.aes256Inv key (x ++ y); (b.extractLsb' 64 64, [b.extractLsb' 0 64])
    | cs => unwrapSteps key cs
  let n := (a.extractLsb' 0 32).toNat
  let p := wordBytes ws
  if a.extractLsb' 32 32 = 0xA65959A6 ∧ p.length < n + 8 ∧ n ≤ p.length ∧ (p.drop n).all (· = 0) then some (p.take n)
  else none

/-! ### The random bit generator (R193, SP 800-90A) -/

/-- An instance of CTR_DRBG with AES-256 and no derivation function: its key, its counter block, and the requests
served since it was last seeded. -/
structure Drbg where
  key : BitVec 256 := 0
  v : Block := 0
  requests : Nat := 0
  deriving DecidableEq, Repr

/-- The update function on 384 bits. -/
def Drbg.update (d : Drbg) (x : BitVec 384) : Drbg :=
  { d with
    key := (Config.aes256 d.key (d.v + 1) ++ Config.aes256 d.key (d.v + 2)) ^^^ x.extractLsb' 128 256
    v := Config.aes256 d.key (d.v + 3) ^^^ x.extractLsb' 0 128 }

/-- The instance seeded anew with 384 bits (R194). -/
def Drbg.reseed (d : Drbg) (x : BitVec 384) : Drbg := { d.update x with requests := 0 }

/-- What a request of `n` bytes generates. -/
def Drbg.bytes (d : Drbg) (n : Nat) : List Byte :=
  ((List.range (ceilDiv n 16)).flatMap (fun i => blockBytes (Config.aes256 d.key (d.v + BitVec.ofNat 128 (i + 1))))).take n

/-- The instance after a request of `n` bytes. -/
def Drbg.served (d : Drbg) (n : Nat) : Drbg :=
  { ({ d with v := d.v + BitVec.ofNat 128 (ceilDiv n 16) } : Drbg).update 0 with requests := d.requests + 1 }

/-- Whether the instance has served the 2^48 requests after which it stops (R194). -/
def Drbg.spent (d : Drbg) : Bool := decide (2 ^ 48 ≤ d.requests)

/-! ### CRCs -/

/-- A reflected 32-bit CRC of a polynomial over bytes. -/
def crc32r (poly : Word) (bs : List Byte) : Word :=
  ~~~ (bs.foldl (fun c b => (List.range 8).foldl (fun (c : Word) _ =>
    if c.getLsbD 0 then (c >>> 1) ^^^ poly else c >>> 1) (c ^^^ b.zeroExtend 32)) (0xFFFFFFFF : Word))

/-- The FCS of an Ethernet frame: 4 bytes, in the order they are sent (R209). -/
def fcsOf (bs : List Byte) : List Byte := leBytes 4 (crc32r 0xEDB88320 bs).toNat

/-- A frame with its FCS. -/
def withFcs (bs : List Byte) : List Byte := bs ++ fcsOf bs

/-- Whether the last four bytes of a frame are its FCS. -/
def fcsGood (bs : List Byte) : Bool := decide (bs.drop (bs.length - 4) = fcsOf (bs.take (bs.length - 4)))

/-- The odd or even parity of each bit position of bytes: BIP-8 (R116). -/
def bip8 (bs : List Byte) : Byte := bs.foldl (· ^^^ ·) 0
/-- The bits that are set in a byte. -/
def ones (b : Byte) : Nat := ((List.range 8).filter (fun i => b.getLsbD i)).length

end Sys2Proof
end

