-- ==== Sys2Proof/Machine/Symbols.lean ====
section
/-! DEFINITION. What a lane does to bits and symbols (R62, R63, R74, R79, R80): the Gray map, polarity and precoding,
the pattern generator and its checker, the scrambler of slip framing, and the header of a slip frame (R73). -/

namespace Sys2Proof

/-! ### Bits in transmission order (R7) -/

/-- The bits of bytes in transmission order: byte 0 first, and of each byte its most significant bit first (DEDUCED from
network order, log entry 47). -/
def byteBits (bs : List Byte) : List Bool := bs.flatMap (fun b => (List.range 8).map (fun i => b.getMsbD i))

/-- The number that bits spell, the first the most significant. -/
def bitsNat (bs : List Bool) : Nat := bs.foldl (fun n b => 2 * n + b2n b) 0

/-- The bytes of bits in transmission order; bits short of a byte at the end are left. -/
def bitBytes (bs : List Bool) : List Byte :=
  (List.range (bs.length / 8)).map (fun i => BitVec.ofNat 8 (bitsNat ((bs.drop (8 * i)).take 8)))

/-- A CRC of `w` bits, not reflected, over bits in transmission order. -/
def crcBits (w poly init : Nat) (bs : List Bool) : Nat :=
  bs.foldl (fun r b => let r2 := 2 * r % 2 ^ w; if (bit r (w - 1)).xor b then r2 ^^^ poly else r2) init

/-! ### Symbols (R62) -/

/-- The level of a PAM4 symbol, −3 to +3 (R62). -/
def Sym.level (x : Sym) : Int := 2 * (x.val : Int) - 3

/-- The Gray value of a pair of bits, the first the more significant (R62): 00, 01, 11 and 10 from −3 upwards. -/
def grayOf : Bool → Bool → Sym
  | false, false => 0
  | false, true => 1
  | true, true => 2
  | true, false => 3

/-- The pair of bits that a Gray value stands for. -/
def grayBits (x : Sym) : List Bool := [decide (2 ≤ x.val), decide (x.val = 1 ∨ x.val = 2)]

/-- Pairs of bits as symbols; a single bit at the end waits for its second. -/
def graySyms : List Bool → List Sym
  | a :: b :: bs => grayOf a b :: graySyms bs
  | _ => []

/-- The symbols of bits, at a PAM4 rate or at an NRZ rate. -/
def symsOf (pam : Bool) (bs : List Bool) : List Sym :=
  if pam then graySyms bs else bs.map (fun b => if b then 1 else 0)

/-- The bits of symbols. -/
def bitsOf (pam : Bool) (xs : List Sym) : List Bool :=
  if pam then xs.flatMap grayBits else xs.map (fun x => decide (x.val % 2 = 1))

/-- Symbols with the polarity of their direction (R62): inverted, every level or every NRZ bit is negated. -/
def polarity (pam inv : Bool) (xs : List Sym) : List Sym :=
  if !inv then xs else if pam then xs.map (fun x => 3 - x) else xs.map (fun x => if x.val % 2 = 1 then 0 else 1)

/-! ### Precoding (R63) -/

/-- P(n) = (G(n) − P(n−1)) mod 4 over symbols, from the last P; with the new last P. -/
def precode (p : Sym) (gs : List Sym) : List Sym × Sym :=
  gs.foldl (fun (q : List Sym × Sym) g => (q.1 ++ [g - q.2], g - q.2)) ([], p)

/-- G(n) = (P(n) + P(n−1)) mod 4 over received symbols, from the last P; with the new last P. -/
def unprecode (p : Sym) (ps : List Sym) : List Sym × Sym :=
  ps.foldl (fun (q : List Sym × Sym) x => (q.1 ++ [x + q.2], x)) ([], p)

/-! ### Patterns (R79) and the scrambler (R74) -/

/-- The exponents of a pattern's polynomial, the degree first (R79); none for the reserved code. -/
def patternPoly (code : Nat) : Option (List Nat) :=
  match code with
  | 0 => some [7, 6]
  | 1 => some [9, 5]
  | 2 => some [13, 12, 2, 1]
  | 3 => some [15, 14]
  | 4 => some [23, 18]
  | 5 => some [31, 28]
  | 6 => some [31, 28]
  | _ => none

/-- The bit that a polynomial gives after the bits in a register, whose bit i is the one i + 1 bits back. -/
def polyBit (poly : List Nat) (reg : Nat) : Bool := poly.foldl (fun b e => b.xor (bit reg (e - 1))) false

/-- A bit shifted into the register of a polynomial. -/
def polyShift (poly : List Nat) (reg : Nat) (b : Bool) : Nat := (2 * reg + b2n b) % 2 ^ poly.headD 0

/-- `n` bits of a generator: what leaves its last stage, with the register after them. -/
def polyRun (poly : List Nat) (n : Nat) (reg : Nat) : List Bool × Nat :=
  (List.range n).foldl (fun (q : List Bool × Nat) _ =>
    (q.1 ++ [bit q.2 (poly.headD 0 - 1)], polyShift poly q.2 (polyBit poly q.2))) ([], reg)

/-- The polynomial of the scrambler (R74). -/
def scramblerPoly : List Nat := [31, 28]

/-- The state of the scrambler at the first payload bit of a frame (R74). -/
def scramblerSeed (seq : Nat) : Nat := 0x40000000 ||| seq * 256

/-- The payload of frame `seq` scrambled, or descrambled (R74). -/
def scramble (seq : Nat) (payload : List Bool) : List Bool :=
  List.zipWith xor payload (polyRun scramblerPoly payload.length (scramblerSeed seq)).1

/-! ### The checker (R80) -/

/-- The checker of a lane: the bits that its prediction stands on and how many of them it has, the run of bits without an
error, whether it is locked, the ages of the errors among its last 1,024 bits, and its two counters. -/
structure Checker where
  reg : Nat := 0
  have_ : Nat := 0
  run : Nat := 0
  locked : Bool := false
  recent : List Nat := []
  /-- It has lost a lock since this was last asked. -/
  lost : Bool := false
  errors : Nat := 0
  bits : Nat := 0
  deriving DecidableEq, Repr

/-- A checker that starts to look for its lock, its counters as they are. -/
def Checker.restart (c : Checker) : Checker := { errors := c.errors, bits := c.bits }

/-- A bit reaches the checker (R80). Until it is locked it predicts each bit from those received, and 64 predictions in a
row that hold lock it; a run of zeros is no part of any pattern. Locked, it predicts from its own sequence, counts, and
loses lock at 64 errors within 1,024 bits (DESIGN CHOICE, log entry 48). -/
def Checker.step (poly : List Nat) (c : Checker) (b : Bool) : Checker :=
  let want := polyBit poly c.reg
  if c.locked then
    let bad := b != want
    let recent : List Nat := (c.recent.map (· + 1)).filter (· < 1024) ++ (if bad then [0] else [])
    let c := { c with reg := polyShift poly c.reg want, recent := recent, bits := satAdd 48 c.bits 1
                      errors := satAdd 48 c.errors (b2n bad) }
    if 64 ≤ recent.length then { c.restart with lost := true } else c
  else
    let k := poly.headD 0
    let run := if k ≤ c.have_ ∧ b = want ∧ c.reg ≠ 0 then c.run + 1 else 0
    { c with reg := polyShift poly c.reg b, have_ := min k (c.have_ + 1), run := run, locked := decide (64 ≤ run), recent := [] }

/-- Bits that reach a checker of a pattern; under the reserved code there is nothing to check against. -/
def Checker.feed (code : Nat) (c : Checker) (bs : List Bool) : Checker :=
  match patternPoly code with
  | some poly => bs.foldl (fun c b => c.step poly b) c
  | none => c

/-! ### Slip frames (R73) -/

/-- The fields of a slip frame's flags (R73). -/
structure SlipFlags where
  rung : Nat := 0
  checkPass : Bool := false
  tap : Nat := 0
  request : Nat := 0
  reply : Nat := 0
  user : Nat := 0
  deriving DecidableEq, Repr

/-- Bytes 8 and 9 of a slip frame. -/
def SlipFlags.word (f : SlipFlags) : Nat :=
  f.rung % 8 * 2 ^ 13 + b2n f.checkPass * 2 ^ 12 + f.tap % 4 * 2 ^ 10 + f.request % 4 * 2 ^ 8 + f.reply % 4 * 2 ^ 6 + f.user % 64

/-- The flags that bytes 8 and 9 spell. -/
def slipFlags (w : Nat) : SlipFlags :=
  { rung := w / 2 ^ 13 % 8, checkPass := bit w 12, tap := w / 2 ^ 10 % 4, request := w / 2 ^ 8 % 4, reply := w / 2 ^ 6 % 4
    user := w % 64 }

/-- The marker of a slip frame. -/
def slipMarker : List Byte := [0x5C, 0x3A, 0xE9, 0xD1, 0x07, 0xB4]

/-- The CRC-16 of a slip frame, over its bytes 6 to 9. -/
def slipCrc (bs : List Byte) : Nat := crcBits 16 0x1021 0xFFFF (byteBits bs)

/-- The header of a slip frame. -/
def slipHeader (seq : Nat) (f : SlipFlags) : List Byte :=
  let m := beBytes 2 (seq % 65536) ++ beBytes 2 f.word
  slipMarker ++ m ++ beBytes 2 (slipCrc m)

/-- A slip frame as the detector takes it from a word start. -/
structure SlipFrame where
  markerOk : Bool
  crcOk : Bool
  seq : Nat
  flags : SlipFlags
  payload : List Bool
  deriving DecidableEq, Repr

/-- A frame with a right marker and a right CRC (R76). -/
def SlipFrame.good (f : SlipFrame) : Bool := f.markerOk && f.crcOk

/-- The slip frame that bits at a word start spell, its payload descrambled. -/
def slipFrameOf (bs : List Bool) : SlipFrame :=
  let h := bitBytes (bs.take 96)
  let seq := beNat (slice h 6 2)
  { markerOk := decide (h.take 6 = slipMarker), crcOk := decide (beNat (slice h 10 2) = slipCrc (slice h 6 4)), seq := seq
    flags := slipFlags (beNat (slice h 8 2)), payload := scramble seq (bs.drop 96) }

/-- The slip framing of a transmitter: the bit of its frame that comes next, the number and header of that frame, and
the registers of the scrambler and of the test payload. -/
structure SlipTx where
  pos : Nat := 0
  seq : Nat := 0
  hdr : List Bool := []
  scr : Nat := 0
  prbs : Nat := 1
  deriving DecidableEq, Repr

/-- What a transmitter in slip framing takes its payload from: PRBS31 that runs on across frames (R74), or bits that wait,
with zeros between them (R388). -/
structure SlipSrc where
  prbs31 : Bool
  wait : List Bool := []
  /-- Payload bits sent of the 8-byte word under way. -/
  at_ : Nat := 0
  deriving DecidableEq, Repr

/-- The next bit of slip framing with frames of `period` words (R73, R74): a header bit, or a payload bit scrambled. The
flags are those of the frame's first bit. -/
def SlipTx.next (period : Nat) (f : SlipFlags) (q : SlipTx × SlipSrc) : Bool × SlipTx × SlipSrc :=
  let x := if q.1.pos = 0 then { q.1 with hdr := byteBits (slipHeader q.1.seq f), scr := scramblerSeed q.1.seq } else q.1
  let y := if 64 * period ≤ x.pos + 1 then { x with pos := 0, seq := (x.seq + 1) % 65536 } else { x with pos := x.pos + 1 }
  if x.pos < 96 then ((x.hdr[x.pos]?).getD false, y, q.2)
  else
    let scr := polyShift scramblerPoly x.scr (polyBit scramblerPoly x.scr)
    if q.2.prbs31 then
      ((bit x.prbs 30).xor (bit x.scr 30),
       { y with scr := scr, prbs := polyShift scramblerPoly x.prbs (polyBit scramblerPoly x.prbs) }, q.2)
    else ((q.2.wait.headD false).xor (bit x.scr 30), { y with scr := scr },
      { q.2 with wait := q.2.wait.drop 1, at_ := (q.2.at_ + 1) % 64 })

/-- `n` bits of slip framing. -/
def SlipTx.run (period : Nat) (f : SlipFlags) (n : Nat) (x : SlipTx) (src : SlipSrc) : List Bool × SlipTx × SlipSrc :=
  (List.range n).foldl (fun (q : List Bool × SlipTx × SlipSrc) _ =>
    let r := SlipTx.next period f q.2
    (q.1 ++ [r.1], r.2)) ([], x, src)

end Sys2Proof
end

