-- ==== Sys2Proof/Machine/Flue.lean ====
section
/-! DEFINITION. What crosses the Flue as bytes: the entry image of R150, the records of R390, mirror and HELLO frames
(R386, R387), their halves and the receiver that joins them (R388), and the frame of CLAIM_OUT (R400). -/

namespace Sys2Proof.Machine

open Sys2Proof

/-! ### The entry of an association (R150) -/

/-- The code of a state (R152). -/
def AState.code : AState → Nat
  | .idle => 0 | .kindling => 1 | .live => 2 | .rolling => 3 | .draining => 4 | .dead => 5 | .quenched => 6

/-- The state of a code. -/
def AState.ofCode : Nat → AState
  | 1 => .kindling | 2 => .live | 3 => .rolling | 4 => .draining | 5 => .dead | 6 => .quenched | _ => .idle

/-- The low 32 bits of an edge that may be absent. -/
def lowEdge (o : Option Nat) : Nat := o.elim 0 (· % 2 ^ 32)

/-- The 256 bytes of an entry: with its keys and salts, or, as the window reads them, with zeros in their place. -/
def Assoc.entry (e : Assoc) (secret : Bool) : List Byte :=
  let ctl := e.state.code + 8 * b2n e.txPhase + 16 * b2n e.ph0.valid + 32 * b2n e.ph1.valid + 64 * b2n e.otn +
    128 * b2n e.autoRecover + 256 * e.confOff + 1024 * b2n e.vlanClear + 2048 * b2n e.softHit +
    4096 * e.rollFail + 65536 * b2n e.claimPending
  let keys := fun (p : Phase) =>
    if secret then beBytes 32 p.key.toNat ++ beBytes 12 p.salt.toNat else List.replicate 44 (0 : Byte)
  keys e.ph0 ++ leBytes 4 e.ph0.epoch ++ keys e.ph1 ++ leBytes 4 e.ph1.epoch ++ leBytes 4 ctl ++
    leBytes 4 (e.port + 256 * e.slice + 65536 * b2n e.sliceValid) ++
    leBytes 4 (e.queue + 65536 * e.domain + 2 ^ 28 * b2n e.domainValid) ++
    leBytes 4 (e.slot + 65536 * e.session) ++ leBytes 4 e.peerIndex ++ leBytes 4 (lowEdge e.overlapAt) ++
    leBytes 8 e.replayWin ++ leBytes 8 e.nextPn ++ leBytes 8 e.pnMark ++ leBytes 8 e.softLimit ++
    leBytes 8 e.sciTx ++ leBytes 8 e.sciRx ++ leBytes 8 e.ph0.rxHi ++ leBytes 16 e.ph0.rxMap.toNat ++
    leBytes 8 e.ph1.rxHi ++ leBytes 16 e.ph1.rxMap.toNat ++ leBytes 4 (lowEdge e.drainAt) ++ leBytes 4 e.deadCause ++
    List.replicate 32 0

/-- The entry image as READ gives it (R150): keys and salts read 0. -/
def Assoc.image (e : Assoc) : List Byte := e.entry false

/-- A little-endian field of an image. -/
def imgAt (m : List Byte) (o n : Nat) : Nat := leNat (slice m o n)

/-- An entry with the software fields of an image (R150, R166). -/
def Assoc.withImage (e : Assoc) (m : List Byte) : Assoc :=
  let ctl := imgAt m 0x60 4
  let bind := imgAt m 0x64 4
  let route := imgAt m 0x68 4
  { e with
    otn := bit ctl 6, autoRecover := bit ctl 7, confOff := ctl / 256 % 4, vlanClear := bit ctl 10
    port := bind % 256, slice := bind / 256 % 256, sliceValid := bit bind 16
    queue := route % 16384, domain := route / 65536 % 4096, domainValid := bit route 28
    slot := imgAt m 0x6C 4 % 1024, peerIndex := imgAt m 0x70 4
    replayWin := min (imgAt m 0x78 8) (2 ^ 32), softLimit := imgAt m 0x90 8
    sciTx := imgAt m 0x98 8, sciRx := imgAt m 0xA0 8 }

/-- The entry that 256 bytes spell, keys and salts included. Of an edge the entry holds the low 32 bits. -/
def Assoc.ofEntry (m : List Byte) : Assoc :=
  let ctl := imgAt m 0x60 4
  let edge := fun (o : Nat) => if imgAt m o 4 = 0 then none else some (imgAt m o 4)
  let phase := fun (k hi : Nat) (valid : Bool) =>
    ({ key := keyOfBytes (Sys2Proof.slice m k 32), salt := BitVec.ofNat 96 (beAt m (k + 32) 12), epoch := imgAt m (k + 44) 4
       valid := valid, rxHi := imgAt m hi 8, rxMap := BitVec.ofNat 128 (imgAt m (hi + 8) 16) } : Phase)
  let e : Assoc := {
    state := AState.ofCode (ctl % 8), txPhase := bit ctl 3
    ph0 := phase 0 0xA8 (bit ctl 4), ph1 := phase 0x30 0xC0 (bit ctl 5)
    softHit := bit ctl 11, rollFail := ctl / 4096 % 16, claimPending := bit ctl 16
    session := imgAt m 0x6C 4 / 65536 % 512, overlapAt := edge 0x74, drainAt := edge 0xD8
    nextPn := imgAt m 0x80 8, pnMark := imgAt m 0x88 8, deadCause := imgAt m 0xDC 4 % 16 }
  e.withImage m

/-- The edge nearest to `tick` with these low 32 bits. -/
def nearEdge (tick low : Nat) : Nat :=
  let e := tick - tick % 2 ^ 32 + low
  if e + 2 ^ 31 < tick then e + 2 ^ 32 else if tick + 2 ^ 31 < e then e - 2 ^ 32 else e

/-- An entry received at edge `tick`: its edges whole again. -/
def Assoc.received (e : Assoc) (tick : Nat) : Assoc :=
  { e with overlapAt := e.overlapAt.map (nearEdge tick), drainAt := e.drainAt.map (nearEdge tick), deadAt := tick }

/-! ### The words of tables (R147) -/

/-- The words of a domain as the registers DOM0 and DOM1 hold it, and the domain they spell. -/
def Domain.words (d : Domain) : List Word :=
  [BitVec.ofNat 32 (d.vid + 2 ^ 12 * d.group + 2 ^ 20 * b2n d.valid + 2 ^ 21 * b2n d.learn + 2 ^ 22 * b2n d.unknownFwd +
     2 ^ 23 * b2n d.evictRandom + 2 ^ 24 * d.ageMax), BitVec.ofNat 32 d.groupAssoc]
def Domain.ofWords (w0 w1 : Word) : Domain :=
  { vid := getF w0 0 12, group := getF w0 12 8, valid := decide (getF w0 20 1 = 1), learn := decide (getF w0 21 1 = 1)
    unknownFwd := decide (getF w0 22 1 = 1), evictRandom := decide (getF w0 23 1 = 1), ageMax := getF w0 24 4
    groupAssoc := getF w1 0 17 }

/-- The words of a table entry as the registers KEY0, KEY1 and DATA hold it, and the entry they spell. -/
def FwdEnt.words (e : FwdEnt) : List Word :=
  [BitVec.ofNat 32 e.mac, BitVec.ofNat 32 (e.mac / 2 ^ 32 % 2 ^ 16 + 2 ^ 16 * e.domain),
   BitVec.ofNat 32 (e.assoc + 2 ^ 17 * b2n e.isStatic + 2 ^ 18 * e.age + 2 ^ 22 * b2n e.hit + 2 ^ 23)]
def FwdEnt.ofWords (k0 k1 d : Word) : Option FwdEnt :=
  if getF d 23 1 = 1 then
    some { mac := getF k1 0 16 * 2 ^ 32 + k0.toNat, domain := getF k1 16 12, assoc := getF d 0 17
           isStatic := decide (getF d 17 1 = 1), age := getF d 18 4, hit := decide (getF d 22 1 = 1) }
  else none

/-! ### Records (R390; the order of the fields within a body is the model's, log entry 60) -/

/-- The edges of a session told as ages in ticks. -/
def Session.aged (x : Session) (tick : Nat) : Session :=
  { x with since := tick - x.since, lastSent := tick - x.lastSent, lastHeard := tick - x.lastHeard
           liveAt := tick - x.liveAt, rekeyFrom := tick - x.rekeyFrom }

/-- The edges of a rollover told as ticks from now, and told as edges again by the unit that takes them: as for KEY_SCHED,
one tick has passed (R393). -/
def Roll.aged (r : Roll) (tick : Nat) : Roll :=
  { r with since := tick - r.since, switchAt := r.switchAt.map (· - tick), overlapEnd := r.overlapEnd - tick, rolled := [] }
def Roll.received (r : Roll) (tick : Nat) (rolled : List Nat) : Roll :=
  { r with since := tick - r.since, switchAt := r.switchAt.map (fun n => tick + (n - 1))
           overlapEnd := tick + (r.overlapEnd - 1), rolled := rolled }

/-- The code of a stage (R289), and the stage of a code. -/
def RollStage.code : RollStage → Nat
  | .keying => 0 | .proposed => 1 | .readySent => 2 | .scheduled => 3 | .switched => 4 | .ended => 5
def RollStage.ofCode : Nat → RollStage
  | 0 => .keying | 1 => .proposed | 2 => .readySent | 3 => .scheduled | 4 => .switched | _ => .ended

/-- The 512 bytes of a SESSION record: the link and its LIVE session, if it has one. -/
def sessionBody (link : Nat) (cur : Option Session) (epoch high next : Nat) (last : Option Nat) (roll : Option Roll) :
    List Byte :=
  let x : Session := cur.getD { idx := 0, st := .live, initiator := false }
  let r : Roll := roll.getD { proposer := false, target := 0 }
  let flags := b2n cur.isSome + 2 * b2n x.initiator + 4 * b2n x.reauthed + 8 * b2n (!x.oldSecret.isEmpty) +
    16 * b2n x.pending.isSome + 32 * b2n last.isSome + 64 * b2n roll.isSome + 128 * b2n r.proposer +
    256 * b2n r.switchAt.isSome + 512 * b2n r.doneSent + 1024 * b2n r.peerDone + 65536 * r.stage.code
  let be := fun (n : Nat) (vs : List Nat) => vs.flatMap (beBytes n)
  let fix := fun (n : Nat) (bs : List Byte) => slice (bs ++ List.replicate n 0) 0 n
  fix 512 (be 8 [link] ++ be 4 [flags, x.idx, x.ownEpoch, x.peerEpoch, x.epoch, x.gen] ++
    be 8 [x.seqOut, x.seqIn, x.keepOut, x.keepIn, x.since, x.lastSent, x.lastHeard, x.liveAt, x.rekeyFrom] ++
    fix 64 x.id ++ fix 64 x.secret ++ fix 32 x.kctl ++ fix 64 x.oldSecret ++ fix 64 (x.pending.getD ([], [])).1 ++
    fix 32 (x.pending.getD ([], [])).2 ++ be 4 [epoch, high, next, last.getD 0, r.target, r.peerCount] ++
    be 8 [r.since, r.switchAt.getD 0, r.overlapEnd])

/-- The body of a record, and its type. -/
def MRec.code : MRec → Nat
  | .pairOp _ => 1 | .pnMark _ _ _ _ => 2 | .assoc _ _ => 3 | .keySched _ _ _ => 4 | .session _ _ _ _ _ _ _ => 5
  | .fwd _ _ => 6 | .domain _ _ => 7 | .queue _ _ => 8 | .node _ _ => 9 | .bulkEnd => 11 | .unknown t => t
def MRec.body : MRec → List Byte
  | .pairOp b => beBytes 8 b
  | .pnMark a ph ep m => beBytes 4 a ++ beBytes 4 (b2n ph) ++ beBytes 4 ep ++ beBytes 4 0 ++ beBytes 8 m
  | .assoc a e =>
    beBytes 8 (a + 2 ^ 62 * b2n e.ph0.initiator + 2 ^ 63 * b2n e.ph1.initiator) ++ e.entry true
  | .keySched l ep n => beBytes 4 l ++ beBytes 4 ep ++ beBytes 4 n ++ beBytes 4 0
  | .session l c e h n d r => sessionBody l c e h n d r
  | .fwd i e => beBytes 4 i ++ (match e with
    | some e => (e.words).flatMap (fun w => beBytes 4 w.toNat)
    | none => List.replicate 12 0)
  | .domain d x => beBytes 8 d ++ x.words.flatMap (fun w => beBytes 4 w.toNat)
  | .queue q ws => slice (beBytes 4 q ++ ws.flatMap (fun w => beBytes 4 w.toNat) ++ List.replicate 48 0) 0 48
  | .node n ws => slice (beBytes 4 n ++ ws.flatMap (fun w => beBytes 4 w.toNat) ++ List.replicate 16 0) 0 16
  | .bulkEnd | .unknown _ => []

/-- The 32-bit words of bytes. -/
def beWords (bs : List Byte) : List Word := (chunks 4 bs).map (fun c => BitVec.ofNat 32 (beNat c))

/-- The session that a SESSION body spells. -/
def readSession (b : List Byte) : MRec :=
  let n := fun (o : Nat) => beAt b o 4
  let d := fun (o : Nat) => beAt b o 8
  let f := n 8
  let x : Session := {
    idx := n 12, st := .live, initiator := bit f 1, reauthed := bit f 2, ownEpoch := n 16, peerEpoch := n 20
    epoch := n 24, gen := n 28, seqOut := d 32, seqIn := d 40, keepOut := d 48, keepIn := d 56, since := d 64
    lastSent := d 72, lastHeard := d 80, liveAt := d 88, rekeyFrom := d 96, id := slice b 104 64
    secret := slice b 168 64, kctl := slice b 232 32, oldSecret := if bit f 3 then slice b 264 64 else []
    pending := if bit f 4 then some (slice b 328 64, slice b 392 32) else none
    peerConfirmed := true, ownConfirmed := true, installed := true, proofAcked := true }
  let r : Roll := {
    stage := RollStage.ofCode (f / 65536 % 8), proposer := bit f 7, target := n 440, peerCount := n 444, since := d 448
    switchAt := if bit f 8 then some (d 456) else none, overlapEnd := d 464, doneSent := bit f 9, peerDone := bit f 10 }
  .session (d 0) (if bit f 0 then some x else none) (n 424) (n 428) (n 432) (if bit f 5 then some (n 436) else none)
    (if bit f 6 then some r else none)

/-- The record that a type and a body spell. -/
def MRec.read (type : Nat) (b : List Byte) : MRec :=
  match type with
  | 1 => .pairOp (beAt b 0 8)
  | 2 => .pnMark (beAt b 0 4) (decide (beAt b 4 4 % 2 = 1)) (beAt b 8 4) (beAt b 16 8)
  | 3 =>
    let i := beAt b 0 8
    let e := Assoc.ofEntry (slice b 8 256)
    .assoc (i % 2 ^ 17) { e with ph0 := { e.ph0 with initiator := bit i 62 }, ph1 := { e.ph1 with initiator := bit i 63 } }
  | 4 => .keySched (beAt b 0 4) (beAt b 4 4) (beAt b 8 4)
  | 5 => readSession b
  | 6 => .fwd (beAt b 0 4) (match beWords (slice b 4 12) with
    | [k0, k1, d] => FwdEnt.ofWords k0 k1 d
    | _ => none)
  | 7 => .domain (beAt b 0 8) (match beWords (slice b 8 8) with
    | [w0, w1] => Domain.ofWords w0 w1
    | _ => {})
  | 8 => .queue (beAt b 0 4) (beWords (slice b 4 36))
  | 9 => .node (beAt b 0 4) (beWords (slice b 4 12))
  | 11 => .bulkEnd
  | t => .unknown t

/-- The bytes of a record with its header (R390). -/
def MRec.bytes (r : MRec) : Nat := 16 + r.body.length
def MRec.wire (n : Nat) (r : MRec) : List Byte :=
  [BitVec.ofNat 8 r.code, 0] ++ beBytes 2 r.bytes ++ beBytes 4 0 ++ beBytes 8 n ++ r.body

/-- The records that bytes spell, with their numbers; a length below that of the header ends them. -/
def readRecords : Nat → List Byte → List (Nat × MRec)
  | 0, _ => []
  | fuel + 1, bs =>
    let n := beAt bs 2 2
    if bs.length < 16 ∨ n < 16 ∨ bs.length < n then []
    else (beAt bs 8 8, MRec.read (byteAt bs 0) (slice bs 16 (n - 16))) :: readRecords fuel (bs.drop n)

/-! ### Frames (R386, R387) -/

/-- The 32 bytes before the records. -/
def mirrorHeader (side : Bool) (len : Nat) (f : MFrame) : List Byte :=
  beBytes 2 0x4846 ++ [1, BitVec.ofNat 8 (b2n side)] ++ beBytes 8 f.seq ++ beBytes 8 f.ack ++ beBytes 4 len ++
    beBytes 2 f.claim ++ beBytes 2 f.health ++ beBytes 1 f.mode ++ beBytes 1 f.prev ++
    beBytes 1 (b2n f.lock + 2 * b2n f.valid) ++ [0]

/-- The IV of a frame: the side of its sender, zeros and its number. -/
def mirrorIv (side : Bool) (seq : Nat) : BitVec 96 := BitVec.ofNat 96 (b2n side * 2 ^ 88 + seq % 2 ^ 64)

/-- A mirror frame under the pair key. -/
def MFrame.seal (f : MFrame) (key : List Byte) (side : Bool) : List Byte :=
  let k := keyOfBytes key
  let iv := mirrorIv side f.seq
  let plain := f.records.flatMap (fun e => e.2.wire e.1)
  let head := mirrorHeader side (48 + plain.length) f
  let ct := gcmCrypt k iv plain
  head ++ ct ++ gcmTag k iv head ct

/-- What the header of a frame says. -/
def readHeader (bs : List Byte) : MFrame :=
  let st := byteAt bs 30
  { seq := beAt bs 4 8, ack := beAt bs 12 8, claim := beAt bs 24 2, health := beAt bs 26 2, mode := byteAt bs 28
    prev := byteAt bs 29, lock := bit st 0, valid := bit st 1 }

/-- A frame received: its length agrees with its header, and magic and version are right. -/
def isFlueFrame (bs : List Byte) : Bool :=
  decide (48 ≤ bs.length ∧ beAt bs 0 2 = 0x4846 ∧ byteAt bs 2 = 1 ∧ beAt bs 20 4 = bs.length)

/-- A mirror frame opened: none where its tag fails. -/
def openMirror (key : List Byte) (bs : List Byte) : Option MFrame :=
  let k := keyOfBytes key
  let f := readHeader bs
  let iv := mirrorIv (bit (byteAt bs 3) 0) f.seq
  let ct := slice bs 32 (bs.length - 48)
  if gcmTag k iv (bs.take 32) ct = bs.drop (bs.length - 16) then
    some { f with records := readRecords (ct.length / 16) (gcmCrypt k iv ct) }
  else none

/-- A HELLO frame (R386): number 0, no encryption, a tag of zeros, and one HELLO record. -/
def helloFrame (f : MFrame) (side : Bool) (nonce kcv : List Byte) : List Byte :=
  let body := beBytes 1 (b2n side) ++ [0] ++ beBytes 2 f.claim ++ beBytes 4 0 ++ nonce ++ kcv
  mirrorHeader side (64 + body.length) f ++ [10, 0] ++ beBytes 2 (16 + body.length) ++ List.replicate 12 0 ++ body ++
    List.replicate 16 0

/-- The HELLO that a frame carries. -/
def readHello (bs : List Byte) : Hello :=
  let f := readHeader bs
  { side := bit (byteAt bs 48) 0, claim := beAt bs 50 2, nonce := slice bs 56 32, kcv := slice bs 88 32, mode := f.mode
    lock := f.lock }

/-! ### Halves (R388) -/

/-- The marker of a half. -/
def halfMarker : Nat := 0x7E5AA5E7

/-- A half with its header: `h` is 0 or 1, or 2 for a whole frame. -/
def flueHalf (seq h : Nat) (bs : List Byte) : List Byte :=
  let bs := bs ++ List.replicate ((8 - bs.length % 8) % 8) 0
  beBytes 4 halfMarker ++ beBytes 8 seq ++ beBytes 1 h ++ [0] ++ beBytes 2 (bs.length / 8) ++ bs

/-- What each Flue lane carries of a frame; `lanes` has a bit for each lane that is locked. -/
def flueHalves (lanes seq : Nat) (bs : List Byte) : List (Nat × List Byte) :=
  let cut := 8 * ceilDiv bs.length 16
  match lanes with
  | 1 => [(0, flueHalf seq 2 bs)]
  | 2 => [(1, flueHalf seq 2 bs)]
  | 3 => [(0, flueHalf seq 0 (bs.take cut)), (1, flueHalf seq 1 (bs.drop cut))]
  | _ => []

/-- The receiver of a Flue lane: the last bytes of idle, or the bytes of a half under way. -/
structure FlueRx where
  idle : Nat := 0
  half : List Byte := []
  deriving DecidableEq, Repr

/-- A byte reaches the receiver: a marker is looked for in idle only. A half that is complete is handed on. -/
def FlueRx.step (r : FlueRx) (b : Byte) : FlueRx × Option (List Byte) :=
  if r.half.isEmpty then
    let w := (r.idle * 256 + b.toNat) % 2 ^ 32
    if w = halfMarker then ({ half := beBytes 4 halfMarker }, none) else ({ idle := w }, none)
  else
    let h := r.half ++ [b]
    if 16 ≤ h.length ∧ h.length = 16 + 8 * beAt h 14 2 then ({}, some h) else ({ r with half := h }, none)

/-- Bytes reach the receiver: the halves they complete. -/
def FlueRx.feed (r : FlueRx) (bs : List Byte) : FlueRx × List (List Byte) :=
  bs.foldl (fun q b => let n := q.1.step b; (n.1, q.2 ++ n.2.toList)) (r, [])

/-- A half reaches the joiner, which keeps the last few that wait for their other half: the frame that it completes. -/
def joinHalf (waiting : List (List Byte)) (h : List Byte) : List (List Byte) × Option (List Byte) :=
  let seq := fun (x : List Byte) => beAt x 4 8
  let cut := fun (bs : List Byte) => some (bs.take (beAt bs 20 4))
  if byteAt h 12 = 2 then (waiting, cut (h.drop 16))
  else match waiting.find? (fun x => decide (seq x = seq h) && decide (byteAt x 12 + byteAt h 12 = 1)) with
    | some x =>
      let (a, b) := if byteAt h 12 = 0 then (h, x) else (x, h)
      (waiting.filter (fun y => decide (seq y ≠ seq h)), cut (a.drop 16 ++ b.drop 16))
    | none => ((waiting ++ [h]).drop (waiting.length - 3), none)

/-! ### CLAIM_OUT (R400) -/

/-- The CRC-4 of a claim. -/
def claimCrc (claim : Nat) : Nat := crcBits 4 3 0 (byteBits (beBytes 2 claim))

/-- The levels of a claim frame on CLAIM_OUT by half bit times: the sync, then the claim and its CRC in Manchester code, a
1 high first (PRESUMED, log entry 60). -/
def claimLevels (claim : Nat) : List Bool :=
  let bits := byteBits (beBytes 2 claim) ++ (List.range 4).map (fun i => bit (claimCrc claim) (3 - i))
  [true, true, true, false, false, false] ++ bits.flatMap (fun b => [b, !b])

end Sys2Proof.Machine
end

