-- ==== Sys2Proof/Machine/State.lean ====
section
/-! DEFINITION. The state of the device, as plain data: every register, table, store, engine and queue that the spec
gives it, the reasons a command can stop, and the state right after reset. -/

namespace Sys2Proof.Machine

open Sys2Proof

/-! ### Registers -/

/-- A register of the device: its page and offset, the instance of its page and, for a register that acts on a
selected object, the object (R491). -/
structure RegKey where
  page : Page
  off : Nat
  inst : Nat := 0
  obj : Nat := 0
  deriving DecidableEq, Repr

/-- The order of the register map: by page, offset, instance and object. -/
def RegKey.lt (a b : RegKey) : Bool :=
  a.page.code < b.page.code || (a.page.code = b.page.code && (a.off < b.off || (a.off = b.off &&
    (a.inst < b.inst || (a.inst = b.inst && a.obj < b.obj)))))

/-! ### Reporting (R452 to R475) -/

/-- A page counter (R468 to R473): the live count with its flags, the shadow with its flags, and CNT_VAL_HI as the
last read of CNT_VAL_LO latched it. -/
structure Counter where
  /-- For one that counts occupancy (R468), the value of its select so far in a core cycle, and that cycle. -/
  seenAt : Nat := 0
  seen : Nat := 0
  live : Nat := 0
  sat : Bool := false
  carryLost : Bool := false
  shadow : Nat := 0
  shSat : Bool := false
  shCarryLost : Bool := false
  hi : Word := 0
  deriving DecidableEq, Repr

/-- A record of the event recorder (R458). -/
structure Record where
  seq : Nat
  code : Nat
  sev : Nat
  suppressed : Bool := false
  body : List Word := []
  deriving DecidableEq, Repr

/-- A record as raised, before it has a number: the BAR0 address of its page orders it (R460). -/
structure Raised where
  addr : Nat
  code : Nat
  sev : Nat
  body : List Word := []
  /-- The LAST register that the body carries as the cycle leaves it (R459). -/
  last : Option RegKey := none
  deriving DecidableEq, Repr

/-- An amount for the counters of a page that select `sel` (R468), in the cycle being modelled. -/
structure Tally where
  page : Page
  inst : Nat
  sel : Nat
  qual : Nat
  amt : Nat
  deriving DecidableEq, Repr

/-- The fetch of EVR_RD (R467). -/
structure RecFetch where
  result : Nat := 0
  place : Nat := 0
  data : List Byte := []
  deriving DecidableEq, Repr

/-- The counter archive (R475). -/
structure Archive where
  next : Nat := 0
  skipped : Nat := 0
  /-- The block being written: its number, the edge at which it is whole, and its 8-byte words. -/
  writing : Option (Nat × Nat × List (BitVec 64)) := none
  blocks : List (Nat × List (BitVec 64)) := []
  lo : Word := 0
  hi : Word := 0
  result : Nat := 0
  deriving DecidableEq, Repr

/-- Everything the three reporting channels hold: event and last registers, fault latches, counters, the event
recorder and its stores, and the interrupts raised. Reporting never changes anything outside it. -/
structure Report where
  /-- The EVT, LAST and PAGE_FAULT registers; an unlisted one reads 0. -/
  evt : List (RegKey × Word) := []
  ctrs : List (RegKey × Counter) := []
  /-- Carries sent in cycle 9,999 of a tick, which arrive at the next edge (R469). -/
  carries : List (RegKey × Nat) := []
  tally : List Tally := []
  raised : List Raised := []
  irqs : List (Page × Nat) := []
  nextSeq : Nat := 0
  ring : List Record := []
  nv : List Record := []
  /-- The newest sequence number that the running flush copies (R464), and whether another waits. -/
  flushing : Option Nat := none
  flushWait : Bool := false
  frozenAt : Option Nat := none
  hold : List Record := []
  /-- Records held before EVR is ready (R460). -/
  early : List Raised := []
  earlyLost : Nat := 0
  /-- Early records dropped in all: the count by which the numbers advance at readiness (R460). -/
  earlyGap : Nat := 0
  lostFull : Nat := 0
  lostFrozen : Nat := 0
  deepLost : Nat := 0
  rlDrops : Nat := 0
  filtered : Nat := 0
  /-- Tokens left in the bucket of a code; an unlisted code's bucket is full (R461). -/
  buckets : List (Nat × Nat) := []
  /-- Codes with a record dropped since the last one stored (R461). -/
  dropped : List Nat := []
  /-- Stored records not yet written to the deep log (R466), oldest first, and the next line of its ring. -/
  deepQueue : List Record := []
  deepLine : Nat := 0
  /-- The deep log by line (R466). -/
  deepLog : List (Nat × Record) := []
  fetch : RecFetch := {}
  arch : Archive := {}
  /-- Snapshots taken, and the edge of the last one. -/
  snapCount : Nat := 0
  snapEdge : Option Nat := none
  /-- Armed checkers (R457): page, instance, first_src and kind. -/
  armed : List (Page × Nat × Nat × Nat) := []
  /-- Injected errors stored and not yet found: page, instance, first_src and kind. -/
  injected : List (Page × Nat × Nat × Nat) := []
  /-- The pages that latched their first fault in a core cycle, counted over ticks, and that cycle (R454). -/
  latchedAt : Nat × List (Page × Nat) := (0, [])
  /-- The core cycle in which FLT latched, and the BAR0 address of the page that it latched (R455). -/
  fltLatchedAt : Nat × Nat := (0, 0)
  /-- Edges at which an uncorrectable error was found, newest first, at most 64 (R398). -/
  uncorrEdges : List Nat := []
  deriving DecidableEq, Repr

/-! ### Power, modes and resets (R36 to R58) -/

/-- What the mode, reset and supply logic keeps beside its registers. -/
structure Power where
  /-- The mode from which BROWNOUT was entered is DEV_MODE.prev_mode; consecutive ticks above release (R37). -/
  releasedTicks : Nat := 0
  /-- PFW shed in force (R45), or due at the next edge. -/
  shed : Bool := false
  shedDue : Bool := false
  /-- A tamper halt (R429). -/
  halted : Bool := false
  /-- SRAM zeroing done since the last reset (R50). -/
  sramZeroed : Bool := false
  /-- Ember contents lost while main power was off (R48, R51). -/
  emberLost : Bool := false
  /-- The reset in progress is a warm one (R44). -/
  warm : Bool := false
  /-- A vault quench has zeroed every store but the association table (R40). -/
  quenched : Bool := false
  /-- The officer hold of R434 is in force, rather than an OFFICER mode entered by request (R37). -/
  held : Bool := false
  /-- The tick in which a warm reset began (R44). -/
  warmFrom : Nat := 0
  /-- CXL link training has ended, up or failed, since the last reset (R53, R365). -/
  cxlTrained : Bool := false
  /-- The SPI flash pins are in high impedance, for the board to rewrite the flash (R56). -/
  spiReleased : Bool := false
  /-- The public key of the running firmware image (R55). -/
  fwKey : List Byte := []
  /-- Edge at which the association table was quenched; the sweep of its banks ends within 4 ticks (R168). -/
  sweepFrom : Option Nat := none
  deriving DecidableEq, Repr

/-! ### Lanes (R59 to R84) -/

/-- What a lane keeps beside its registers. -/
structure LaneRt where
  /-- The edge at which the lane entered its present state (R70). -/
  since : Nat := 0
  trained : Bool := false
  chkTicks : Nat := 0
  shift : Nat := 0
  lostInCheck : Bool := false
  /-- The checker with its counters (R80). -/
  chk : Checker := {}
  /-- The last precoded symbol sent and received, P(n−1) of R63; the register of the pattern generator (R79); and the slip
  framing of the transmitter (R73). -/
  txP : Sym := 0
  rxP : Sym := 0
  gen : Nat := 1
  slipTx : SlipTx := {}
  /-- On pair lanes: payload bits that wait to leave in slip frames, and the payload bits sent of the word under way
  (R388). -/
  flueTx : List Bool := []
  flueAt : Nat := 0
  /-- On pair lanes: the receiver of halves (R388). -/
  flueRx : FlueRx := {}
  /-- The elastic buffer of the far-end loopback (R82): received words, the bits of a word still arriving, the bits
  that a slip skips, the bits of the word being sent, and the last word sent. -/
  elastic : List (List Bool) := []
  elIn : List Bool := []
  elSkip : Nat := 0
  elOut : List Bool := []
  elLast : List Bool := List.replicate 64 false
  /-- Slips of the word boundary (R75). -/
  slips : Nat := 0
  /-- What the receiver wants of the partner's taps (R66): tap and request as R73 codes them. -/
  wantTap : Fin 4 := 0
  wantReq : Fin 4 := 0
  /-- On pair lanes: the partner reported check_pass at the current rung; training frames in a row that agree (R69). -/
  partnerPass : Bool := false
  agreeRun : Nat := 0
  /-- On pair lanes: this lane's own check has passed and waits for the partner's (R71). -/
  passed : Bool := false
  /-- The FFE taps in effect (R66), apart from the written preset. -/
  pre : Int := -4
  main : Int := 51
  post : Int := -8
  /-- The reply to the last coefficient request (R73): 0 not updated, 1 updated, 2 at limit. -/
  ffeReply : Nat := 0
  expSeq : Nat := 0
  badRun : Nat := 0
  /-- A class change that waits for the lane to stand at code 0 (R61). -/
  classPend : Option Nat := none
  /-- Squelched because its module is absent or in reset (R445, R446). -/
  modSquelch : Bool := false
  deriving DecidableEq, Repr

/-! ### Ports (R85 to R101) -/

/-- What an Ethernet port transmits (R97): frames, or in their place idles or remote fault sequences. -/
inductive PortLine where
  | frames
  | idles
  | remoteFault
  deriving DecidableEq, Repr

/-- What a port keeps beside its registers. -/
structure PortRt where
  /-- The port has been up since it was enabled (R101). -/
  wasUp : Bool := false
  up : Bool := false
  downEdges : Nat := 0
  cleanEdges : Nat := 0
  /-- The flush of the present down period has been made; admission refuses frames for the port until it is up (R97). -/
  flushed : Bool := false
  refusing : Bool := false
  /-- Defects of the PCS at the last edge (R96): until it has started, neither block nor marker lock. -/
  pcsRaw : Nat := 6
  /-- The deficit idle count of the transmit MAC (R92), and what the port transmits (R97). -/
  dic : Nat := 0
  line : PortLine := .remoteFault
  sealAuth : Bool := false
  authCount : Nat := 0
  authFrom : Nat := 0
  deriving DecidableEq, Repr

/-- One candidate position of the hunt on a logical lane (R107). -/
structure HuntCand where
  pos : Nat
  good : Nat
  llm : Nat
  mfas : Nat
  deriving DecidableEq, Repr

/-- A logical lane of an OTL interface (R107, R108): its lock, if any, with the consecutive errored occurrences, and
the candidates of its hunt. -/
structure LogLane where
  lock : Option HuntCand := none
  bad : Nat := 0
  cands : List HuntCand := []
  deriving DecidableEq, Repr

/-- A trail trace being received (R117). -/
structure TraceRx where
  cur : List Byte := []
  last : List Byte := []
  same : Nat := 0
  deriving DecidableEq, Repr

/-- What an OTN port keeps beside its registers. -/
structure OtnRt where
  lanes : List (Nat × LogLane) := []
  markersLocked : Bool := false
  flexoLof : Bool := false
  otuAis : Bool := false
  skewNs : Nat := 0
  fasBad : Nat := 0
  fasGood : Nat := 0
  mfBad : Nat := 0
  mfGood : Nat := 0
  /-- The place of the last frame in the multiframe, and the MFAS of the last frame rebuilt in-frame (R111). -/
  mfas : Nat := 0
  rxMfas : Option Nat := none
  inFrame : Bool := false
  inMf : Bool := false
  /-- The edges at which OOF and OOM began. -/
  oofFrom : Option Nat := none
  oomFrom : Option Nat := none
  lof : Bool := false
  lom : Bool := false
  /-- Frames in a row whose PM STAT disagrees with the maintenance signal shown, and that signal (R112). -/
  statRun : Nat := 0
  maint : Bool := false
  bdiRun : Nat := 0
  bdi : Bool := false
  smTrace : TraceRx := {}
  pmTrace : TraceRx := {}
  apsLast : Nat := 0
  apsRun : Nat := 0
  /-- Transmit side: frames of the multiframe sent, and the SM trace in use since its boundary (R118). -/
  txMfas : Nat := 0
  txTrace : List Byte := []
  txBdi : Bool := false
  /-- BIP-8 of the OPU of the last two frames received, and of the last two sent (R105, R116). -/
  rxOpu : List Byte := []
  txOpu : List Byte := [0, 0]
  /-- The BEI that the port sends: the SM BIP-8 errors of the last frame received (R105). -/
  rxBei : Fin 16 := 0
  deriving DecidableEq, Repr

/-! ### Associations (R149 to R171) -/

/-- The association table: the entries that differ from `base`, which every other entry equals. -/
structure AsnTable where
  base : Assoc := {}
  m : List (Nat × Assoc) := []
  /-- The entry image that a running READ puts into the window when it finishes (R166). -/
  reading : Option (List Byte) := none
  deriving DecidableEq, Repr

/-! ### Classification and learning (R125 to R148) -/

/-- A running forwarding command with its captured operands (R142). -/
structure FwdCmd where
  op : Nat
  mac : Nat := 0
  domain : Nat := 0
  assoc : Nat := 0
  isStatic : Bool := false
  cursor : Nat := 0
  port : Nat := 0
  inclStatic : Bool := false
  dom : Domain := {}
  deriving DecidableEq, Repr

/-- The two levels of the forwarding tables. -/
structure Forwarding where
  tab : List (Nat × Option FwdEnt) := []
  doms : List (Nat × Domain) := []
  seed : Word := 0
  /-- Cache entries by Chimney × 4096 + index: domain, address, association. -/
  cache : List (Nat × Option FwdEnt) := []
  cacheSeed : List (Nat × Word) := []
  /-- The running command, with the result it already holds when it was refused at landing (R126). -/
  cmd : Option FwdCmd := none
  /-- The last edge whose aging was done (R140). -/
  agedAt : Option Nat := none
  /-- The port map, the bypass entries and the PTP modes, and the domain table, as they stood before the last edge: for a
  frame that spans it (R127, R227, R421). -/
  oldRegs : List (RegKey × Word) := []
  oldDoms : List (Nat × Domain) := []
  /-- The states of the associations before the last edge (R157). -/
  oldStates : List (Nat × AState) := []
  /-- The core cycle of the last learn that took a write slot, and the slots taken in it (R133). -/
  writeAt : Nat := 0
  writes : Nat := 0
  deriving DecidableEq, Repr

/-! ### The key vault (R291 to R318) -/

/-- A vault slot (R291, R292). `present` is the opposite of empty; `usable` holds from step 3 of the edge after its
commit (R303). `stock` is the on-die stock of R299. -/
structure Slot where
  present : Bool := false
  usable : Bool := false
  bad : Bool := false
  type : Nat := 0
  imported : Bool := false
  exportable : Bool := false
  expires : Bool := false
  hostUse : Bool := false
  long : Bool := false
  depth : Nat := 0
  parent : Option Nat := none
  uses : Nat := 0
  generation : Nat := 0
  material : List Byte := []
  tag : List Byte := []
  stock : Nat := 0
  deriving DecidableEq, Repr

/-- A vault command with everything it captured as it landed (R302). -/
structure VaultCmd where
  op : Nat
  slot : Nat := 0
  aux : Nat := 0
  officer : Bool := false
  type : Nat := 0
  long : Bool := false
  hostUse : Bool := false
  expires : Bool := false
  exportable : Bool := false
  uses : Nat := 0
  ctxLen : Nat := 0
  data : List Byte := []
  addr : Nat := 0
  /-- The slot image whose commit runs (R295). -/
  image : Option Slot := none
  /-- The slot whose reservation the command waits for (R299). -/
  waits : Option Nat := none
  /-- The edge at which an attestation began to be signed, and its first 208 bytes (R312). -/
  began : Nat := 0
  statement : List Byte := []
  deriving DecidableEq, Repr

/-- The key vault (R291 to R316). -/
structure Vault where
  slots : List (Nat × Slot) := []
  kint : List Byte := []
  cmd : Option VaultCmd := none
  /-- Officer commands that wait for the engine (R302), oldest first. -/
  officerWaits : List VaultCmd := []
  /-- Reservations being committed: slot and uses reserved (R299). -/
  reserving : List (Nat × Nat) := []
  /-- OTP (R314): the rollback count a KVT_OTP_CMD goes to and the edge it began at, and the firmware key hash. -/
  otpRun : Option (Nat × Nat) := none
  fwKeyHash : List Byte := []
  /-- The vendor certificate in MRAM (R313). -/
  cert : List Byte := []
  /-- The expanded identity key is held in the KVT-private SRAM (R313). -/
  expanded : Bool := false
  /-- The device instance of the DRBG (R193, R315), once it is seeded. -/
  drbg : Option Drbg := none
  deriving DecidableEq, Repr

/-- How a use of a slot ends (R299): granted, waiting for a reservation, or refused. -/
inductive Grant where
  | granted
  | waits
  | refused
  deriving DecidableEq, Repr
/-! ### Stoves (R172 to R203) -/

/-- Why a Stove is out of service on its own account (R174, R203); `untested` until its bring-up test has passed. -/
inductive StvOwn where
  | untested
  | ok
  | bringUp
  | command
  | twin
  | ucode
  | underTest
  deriving DecidableEq, Repr

/-- What runs a known-answer test (R199, R200, R397). -/
inductive KatKind where
  | bringUp
  | command
  | standby
  deriving DecidableEq, Repr

/-- What a Chimney keeps beside its registers: its Stoves, the tests that run, and its slot credit (R177). -/
structure ChimRt where
  own : List (Nat × StvOwn) := []
  running : List (Nat × KatKind) := []
  credit : Int := 0
  /-- Lowest credit in the present tick. -/
  minNow : Int := 0
  /-- Slots used in the present tick by line work and by lookaside work (R201). -/
  lineSlots : Nat := 0
  lookSlots : Nat := 0
  /-- The microcode in the store of each Stove (R172, R173), at most 2,048 words. -/
  ucode : List (BitVec 96) := []
  /-- The Stove whose turn comes next in the tests of STANDBY (R397). -/
  nextKat : Nat := 0
  /-- Stove cycles in service of the present tick, up to its cycle `cyclesTo` (R201). -/
  cycles : Nat := 0
  cyclesTo : Nat := 0
  /-- The Chimney's instance of the DRBG (R193), once it is seeded, and the bits that its Stoves have drawn of the
  request under way. -/
  drbg : Option Drbg := none
  drawn : Nat := 0
  /-- The dummy register of each Stove (R191): a block and a key. -/
  dummy : List (Block × BitVec 256) := []
  deriving DecidableEq, Repr

/-! ### The Hearth (R319 to R334) -/

/-- How a frame came into the Hearth (R320). -/
inductive FrameKind where
  | sealed
  | opened
  | bypassed
  deriving DecidableEq, Repr

/-- Where a frame of the Hearth lies (R329). -/
inductive Place where
  | onDie
  | toSpill
  | region
  deriving DecidableEq, Repr

/-- A frame in the Hearth: its output-ready bytes and what its verdict needs (R14, R165). -/
structure HFrame where
  id : Nat
  kind : FrameKind
  queue : Nat
  port : Nat
  assoc : Nat := 0
  phase : Bool := false
  epoch : Nat := 0
  pn : Nat := 0
  bytes : List Byte
  cells : Nat
  /-- The edge from which the frame may be eligible (R22). -/
  readyAt : Nat
  /-- The tag computed over the received ciphertext equals the received ICV (R181). -/
  tagOk : Bool := true
  mismatch : Bool := false
  passed : Bool := false
  place : Place := .onDie
  /-- Received on the cipher side (R129). -/
  cipher : Bool := false
  /-- RAW at ingress, kept with the frame by a port in mode 1 or 2 (R421). -/
  rawIn : Option Nat := none
  deriving DecidableEq, Repr

/-- An OTN frame of a released group, or one that an egress port passes on: as received and as it is to leave. The BIP-8
fields of `frame` hold received BIP-8 XOR BIP-8(OPU as received), for R116. -/
structure OtnItem where
  frame : OtnFrame
  payload : List Byte
  sealOut : List Byte
  /-- The maintenance signal or ODU-AIS passed in place of a sealed frame (R114, R115). -/
  ais : Bool := false
  deriving DecidableEq, Repr

/-- A sealed OTN group in the Hearth (R216 to R225). -/
structure HGroup where
  id : Nat
  queue : Nat
  port : Nat
  assoc : Nat := 0
  opened : Bool
  cells : Nat
  items : List OtnItem := []
  released : Bool := false
  deriving DecidableEq, Repr

/-- A flush whose cells are still being zeroed (R327): the queue that HRT_LAST names, and the cells left. -/
structure Flush where
  queue : Nat
  left : Nat
  deriving DecidableEq, Repr

/-- The Hearth and the scheduler beside their registers. Credits are kept by node: queue q as q, service node n as
16,384 + n, port node p as 32,768 + p. -/
structure Hearth where
  frames : List HFrame := []
  groups : List HGroup := []
  nextId : Nat := 0
  /-- Cells freed and not yet zero, with the edge at which they are (R326), and the flushes that run (R327). -/
  zeroing : List (Nat × Nat) := []
  flushes : List Flush := []
  /-- Cells held by lookaside staging (R350). -/
  staging : Nat := 0
  polCredit : List (Nat × Int) := []
  credit : List (Nat × Int) := []
  deficit : List (Nat × Int) := []
  /-- The child at which each parent's round stands (R333), by parent and priority. -/
  turn : List (Nat × Nat) := []
  /-- Bytes moved to the spill region and fetched back in this tick (R329). -/
  moved : Nat := 0
  fetched : Nat := 0
  deriving DecidableEq, Repr

/-! ### Sealed OTN (R216 to R225) -/

/-- A group being received or held for its verdict: its frames, the number and phase it is deciphered under, and the
tag gathered for it from the next group. -/
structure RxGroup where
  frames : List OtnFrame := []
  num : Nat := 0
  phase : Bool := false
  key : BitVec 256 := 0
  salt : BitVec 96 := 0
  initiator : Bool := false
  assoc : Nat := 0
  /-- What becomes of each frame (R114): 0 normal, 1 ODU-AIS for want of a signal, 2 a maintenance signal passed on, 3 zero
  payload, 4 ODU-AIS by tim_act, seal_los_ais or auth_ais. -/
  acts : List Nat := []
  /-- Received in sync, rather than released as zeros; its association verifies groups on its phase (R152); the group of
  the Hearth that it fills, where it was admitted; hit by a twin mismatch (R196). -/
  deciphered : Bool := false
  verifies : Bool := false
  gid : Option Nat := none
  mismatch : Bool := false
  deriving DecidableEq, Repr

/-- The seal receiver of an OTN cipher-side port, and the group its clear side is sealing (R217 to R224). -/
structure SealRt where
  /-- Number predicted for the current group; the last good number and the run of good groups of the candidate. -/
  pred : Nat := 0
  lastNum : Nat := 0
  goodRun : Nat := 0
  /-- Countdown filter: the last value, the run, and the target group of an armed switch. -/
  cdLast : Nat := 0
  cdRun : Nat := 0
  target : Option Nat := none
  /-- Frames in a row whose phase bit disagrees, and a phase to adopt at the next boundary. -/
  disagree : Nat := 0
  adopt : Option Bool := none
  cur : RxGroup := {}
  held : Option RxGroup := none
  /-- The clear side: the number, keys and phase of the group being sealed, whether it is sealed at all, the group of
  the Hearth it fills, its frames so far, its ciphertext, and the tag bytes of the group before it. -/
  txNum : Nat := 0
  txKey : BitVec 256 := 0
  txSalt : BitVec 96 := 0
  txPhase : Bool := false
  txInit : Bool := false
  txSeals : Bool := false
  /-- The frames of this group are dropped under mode 0 (R125). -/
  txDrop : Bool := false
  txCd : Nat := 0
  txGid : Option Nat := none
  txCount : Nat := 0
  txCipher : List Byte := []
  txTag : List Byte := []
  txAssoc : Nat := 0
  txMismatch : Bool := false
  deriving DecidableEq, Repr

/-! ### Time (R412 to R418) -/

/-- The counters of the TSU page as they stood at cycle 0 of the present tick: nanoseconds with a 32-bit fraction. -/
structure Time where
  time : Nat := 0
  raw : Nat := 0
  edgeNs : Nat := 0
  edgeTick : Nat := 0
  /-- The counters have started: they begin at 0 at the first edge after a reset. -/
  started : Bool := false
  /-- The staged TSU_INC_LO, and the one that a pending TSU_INC_HI takes with it (R413). -/
  stagedLo : Option Word := none
  newLo : Option Word := none
  /-- PPS_OUT is high since this core cycle, counted over ticks. -/
  ppsHigh : Option Nat := none
  /-- The last PPS_IN capture (R418). -/
  inNs : Nat := 0
  inFrac : Nat := 0
  inCnt : Nat := 0
  deriving DecidableEq, Repr


/-! ### The redundant pair (R385 to R411) -/

/-- The mirrored objects as they were last sent (R390): an object is dirty while it differs from what was sent. -/
structure Sent where
  assocs : AsnTable := {}
  fwd : List (Nat × Option FwdEnt) := []
  doms : List (Nat × Domain) := []
  links : List (Nat × MRec) := []
  /-- The HRT registers of queues and the SCH registers of nodes, by object. -/
  regs : List (RegKey × Word) := []
  deriving DecidableEq, Repr

/-- What the pair logic keeps beside its registers. -/
structure Pair where
  /-- The pairing nonce of this entry into hello (R386), the partner's nonces seen, and the pair key. -/
  nonce : List Byte := []
  peerNonces : List (List Byte) := []
  key : List Byte := []
  txSeq : Nat := 0
  /-- Halves that wait for their other half (R388), and frames joined that are not yet judged. -/
  halves : List (List Byte) := []
  joined : List (List Byte) := []
  /-- Complete frames that wait for the edge (R389), and the frame last taken. -/
  waiting : List MFrame := []
  taken : Option MFrame := none
  /-- Edges in a row without a new frame, and edges in a row without an advancing acknowledgement (R394, R396). -/
  missed : Nat := 0
  still : Nat := 0
  /-- The last record acknowledged by the partner, and whether that advanced since the last edge. -/
  acked : Nat := 0
  ackMoved : Bool := false
  /-- Ordered records that wait to be sent; records sent and not acknowledged, by number; the last number used. -/
  records : List MRec := []
  unacked : List (Nat × MRec) := []
  lastRec : Nat := 0
  sent : Sent := {}
  /-- The next object of a running bulk pass (R394), in the order of R391. -/
  bulk : Option Nat := none
  /-- The last record applied from the partner. -/
  applied : Nat := 0
  /-- The partner's last frame or HELLO reported that it holds the lock. -/
  peerLock : Bool := false
  /-- The edge of the last valid peer claim (R400), or of reset release; whether one has arrived since. -/
  claimAt : Nat := 0
  claimSeen : Bool := false
  /-- The edge at which this unit last released PAIR_LOCK (R400). -/
  freedAt : Option Nat := none
  /-- A RUN request waits (R401). -/
  runWait : Bool := false
  /-- The partner held the lock at an earlier edge, and edges in a row at which it read released (R405). -/
  sawLock : Bool := false
  freeEdges : Nat := 0
  /-- E of a takeover that is due, and whether it is warm; the edge of the last one. -/
  takeover : Option (Nat × Bool) := none
  tookAt : Option Nat := none
  /-- The edge H of a handover (R404), and admission stopped for a handover or until E + 1 (R406). -/
  handover : Option Nat := none
  noAdmit : Bool := false
  /-- The pair operations not acknowledged, oldest first (R34): the local edge of each, and the number of its record,
  unless the Flue has been keyed anew since. -/
  ops : List (Nat × Option Nat) := []
  /-- A lock conflict lost: the lock is released at the next edge (R403). -/
  yields : Bool := false
  /-- The switches announced by a KEY_SCHED record: link, target and edge (R393). -/
  scheds : List (Nat × Nat × Nat) := []
  /-- SEL[3:0] and ALARM_N as they stand, bit i of `alarm` for ALARM_N[i] low (R399, R497), and the idle lanes judged
  failing (R397). -/
  sel : Nat := 0
  alarm : Nat := 0
  badLanes : List Nat := []
  deriving DecidableEq, Repr

/-! ### Tamper, officer and chassis (R425 to R451) -/

/-- What the Ember-domain logic of TMP keeps beside its registers. -/
structure Tamper where
  /-- The tamper log (R431), oldest first, and how many of its entries the officer has acknowledged (R442). -/
  log : List (Word × Word) := []
  ackedLog : Nat := 0
  /-- BRTC in subseconds (R432). -/
  brtc : Nat := 0
  /-- The sources fired in the present window (R428), with its stamp and the mode code at firing. -/
  window : List Nat := []
  winAt : Nat := 0
  winMode : Nat := 0
  /-- Sources that fired and are not yet re-armed (R425), with the subseconds for which their condition has been clear. -/
  asserted : List (Nat × Option Nat) := []
  /-- The conditions present (TMP_STAT.active). -/
  active : Nat := 0
  /-- Consecutive samples above TMP_TEMP.high and below TMP_TEMP.low (R425). -/
  hot : Nat := 0
  cold : Nat := 0
  /-- The built-in test that runs, and the edge it began at (R435). -/
  test : Option (Nat × Nat) := none
  /-- A halt that acts at the next edge (R429), and whether a vault quench was in the same union. -/
  haltDue : Option Bool := none
  /-- The line lanes stay squelched until the officer's ACK (R434). -/
  lineHold : Bool := false
  /-- Deferred interrupt and records that act once EVR and HST are ready (R434). -/
  lateIrq : Bool := false
  lateLog : List (Nat × Word × Word) := []
  deriving DecidableEq, Repr

/-- The Officer Port (R437 to R440). -/
structure Officer where
  seqIn : Nat := 0
  seqOut : Nat := 0
  /-- The HELLO's identity block and enrolment signature; the CHALLENGE's nonce, seconds and decapsulation key; the edge
  at which it was sent. -/
  ident : List Byte := []
  enrolSig : List Byte := []
  nonce : List Byte := []
  seconds : Nat := 0
  dk : List Byte := []
  challenged : Option Nat := none
  /-- The RESPONSE's signature and ciphertext while they are verified. -/
  response : Option (List Byte × List Byte) := none
  /-- The session key, and the edge of the last message. -/
  key : List Byte := []
  lastMsg : Nat := 0
  /-- Certificate fragments received so far (R439). -/
  cert : List Byte := []
  deriving DecidableEq, Repr

/-- A module cage (R444 to R447). -/
structure Cage where
  /-- The edge at which MOD_RST_N is released after a plug. -/
  resetUntil : Option Nat := none
  /-- The bank and page last written. -/
  paged : Option (Nat × Nat) := none
  /-- The command that runs: op, bytes, offset, page and bank, and the edge it began at. -/
  cmd : Option (Nat × Nat × Nat × Nat × Nat) := none
  began : Nat := 0
  deriving DecidableEq, Repr
/-! ### The Kindle Exchange (R228 to R290) -/

/-- A fragment of the message being sent (R237): whether it is acknowledged, its sends, the edge after the last one
and the edge of the first. -/
structure TxFrag where
  acked : Bool := false
  sends : Nat := 0
  edge : Nat := 0
  first : Nat := 0
  /-- Bytes of the GCC stream that go before its end (R234). -/
  left : Nat := 0
  deriving DecidableEq, Repr

/-- A message queued for sending: the session it belongs to, and its bytes. -/
structure OutMsg where
  session : Option Nat
  bytes : List Byte
  deriving DecidableEq, Repr

/-- A message being received (R238): the fragments held, by index. -/
structure RxMsg where
  id : Nat
  count : Nat
  parts : List (Nat × List Byte) := []
  deriving DecidableEq, Repr

/-- A link (R228). -/
structure Link where
  cur : Option Session := none
  par : Option Session := none
  holdUntil : Option Nat := none
  holdK : Nat := 0
  lastReason : Nat := 0
  /-- Waiting to offer for want of a context (R261). -/
  waitsCtx : Bool := false
  highMark : Nat := 0
  epoch : Nat := 0
  peerHash : List Byte := []
  /-- Sending: the queue, and the fragments of its first message once it has begun, with its number and first edge. -/
  outQ : List OutMsg := []
  frags : List TxFrag := []
  nextMsgId : Nat := 0
  /-- The first message number has been given: the manual states no first value, so it is a free value (R237). -/
  numbered : Bool := false
  txFrom : Nat := 0
  /-- Receiving. -/
  rx : Option RxMsg := none
  lastDone : Option Nat := none
  ackDue : Option (Nat × Nat × Nat) := none
  ackHold : Option Nat := none
  ackEdge : Nat := 0
  inbox : List (List Byte) := []
  roll : Option Roll := none
  rekeySince : Option Nat := none
  wantRoll : Bool := false
  wantRekey : Bool := false
  fails : Nat := 0
  peerSilent : Bool := false
  freshPeer : Bool := false
  installWait : Bool := false
  rtt : Nat := 0
  rollsDone : Nat := 0
  rollFailures : Nat := 0
  stale : Nat := 0
  collisions : Nat := 0
  /-- Associations made DEAD by a cascade and not staged since (R309). -/
  casc : List Nat := []
  /-- Associations whose working keys wait for their derivation under the current epoch (R258). -/
  toStage : List Nat := []
  stageAt : Option Nat := none
  /-- A rollover completed under R282 before its overlap ended: its ROLL_DONE is still sent at overlap_end (R268). -/
  lateDone : Option (Nat × Nat × Nat) := none
  installAt : Option Nat := none
  /-- The edge at which the parallel session of an OTN port becomes LIVE, 20 ticks after its conditions hold (R221, R276;
  log entry 56). -/
  liveDue : Option Nat := none
  deriving DecidableEq, Repr

/-- Who waits for a lattice unit (R262): the session, current or parallel, of a link, or an attestation (R312). -/
inductive LatUser where
  | session (link : Nat) (par : Bool)
  | attest
  deriving DecidableEq, Repr

/-- The Kindle Exchange engine. -/
structure Kindle where
  links : List (Nat × Link) := []
  lattice : List LatUser := []
  /-- Bytes that wait to leave in the GCC channels of an OTN port, and bytes received from them (R234). -/
  gccTx : List (Nat × List Byte) := []
  gccRx : List (Nat × List Byte) := []
  deriving DecidableEq, Repr

/-! ### Slices (R338 to R363) -/

/-- A descriptor fetched and not begun (R345): its queue, its position and its 64 bytes. -/
structure Desc where
  queue : Nat
  index : Nat
  bytes : List Byte
  deriving DecidableEq, Repr

/-- A job in progress (R346 to R350). -/
structure Job where
  id : Nat
  queue : Nat
  index : Nat
  gen : Nat
  mode : Nat
  dir : Bool
  irq : Bool
  key : List Byte
  epoch : Nat := 0
  iv : List Byte := []
  src : Nat
  dst : Nat
  len : Nat
  aadLen : Nat
  tagAt : Nat
  /-- Pieces dispatched, and those still in a Stove: the edge, Chimney and Stove of each. -/
  issued : Nat := 0
  running : List (Nat × Nat × Nat) := []
  /-- The Chimney of the last piece dispatched. -/
  chim : Nat := 0
  /-- The bytes read so far, AAD first; a read that failed; a twin mismatch (R196). -/
  data : List Byte := []
  readFault : Bool := false
  mismatch : Bool := false
  /-- The edge since which it waits for a dispatch, and whether that has been told (R358). -/
  since : Nat := 0
  told : Bool := false
  deriving DecidableEq, Repr

/-- What a slice keeps beside its registers. -/
structure SliceRt where
  state : Nat := 0
  result : Nat := 0
  gen : Nat := 0
  pasid : Nat := 0
  /-- Work of earlier generations still outstanding, and the edge of the last step (R352, R353). -/
  old : List Job := []
  stepAt : Nat := 0
  /-- A ring write failed: fetching is stopped until a RESET (R349). -/
  ringFault : Bool := false
  fetched : List Desc := []
  jobs : List Job := []
  nextJob : Nat := 0
  /-- The device's ends of the completion queue and the event ring, modulo twice their sizes. -/
  cqTail : Nat := 0
  eqTail : Nat := 0
  /-- The queue whose turn it is to be fetched (R345). -/
  turn : Nat := 0
  /-- Completions that wait for an interrupt, and the edge of the oldest (R359). -/
  waiting : Nat := 0
  waitFrom : Nat := 0
  deficit : Int := 0
  /-- A DIRTY_READ is not done (R357): the old buffer, its destination, and the bytes copied. -/
  copying : Option (Nat × Nat × Nat) := none
  deriving DecidableEq, Repr

/-- The MSI-X table and pending bits of BAR4 (R338, R339): the words that differ from reset, and the vectors pending. -/
structure Msix where
  table : List (Nat × Word) := []
  pend : List Nat := []
  deriving DecidableEq, Repr


/-! ### Sealed memory (R364 to R384) -/

/-- A region of sealed memory. Counters are kept by level and child: counter `c` of level `k` is at `k * 2^40 + c`,
where level 0 counts lines and level h is the root. A line holds its ciphertext and tag as last written. -/
structure Region where
  /-- 0 off, 1 initialising, 2 ready, 3 poisoned whole. -/
  state : Nat := 0
  kEnc : BitVec 256 := 0
  kMac : BitVec 256 := 0
  oldEnc : BitVec 256 := 0
  oldMac : BitVec 256 := 0
  epoch : Nat := 0
  counters : List (Nat × Nat) := []
  /-- Nodes in the node cache: 1 clean, 2 dirty. -/
  cached : List (Nat × Nat) := []
  lines : List (Nat × (List Byte × List Byte)) := []
  /-- A counter has reached the threshold: a sweep is due, or is due after the running one (R376, R378). -/
  due : Bool := false
  sweep : Bool := false
  pointer : Nat := 0
  early : List Nat := []
  /-- Groups with a stalled write (R379). -/
  stalled : List Nat := []
  /-- The cycle of this tick at which writes began to stall; 0 where they did in an earlier one (R383). -/
  stallAt : Nat := 0
  maxc : Nat := 0
  deriving DecidableEq, Repr

/-! ### The schedule of edges (R16, R19) -/

/-- What may be scheduled for an edge. -/
inductive Act where
  /-- A pending RWT copy of a register with the word written (R17, R491). -/
  | copy (k : RegKey) (w : Word)
  /-- The global operations of a DEV_GOP write, in its bit order (R32). -/
  | gop (bits : Nat) (pair : Bool)
  /-- A counter snapshot asked for by PMC_CMD (R471). -/
  | snapshot
  /-- A counter's clear (R472), and PMC_CMD.clear_all. -/
  | cntClear (p : Page) (i : Nat) (c : Nat)
  | clearAll
  /-- A lane leaves locking or training (R70). -/
  | laneTrain (g : Nat)
  | laneCheck (g : Nat)
  /-- One tap of a pair lane changed by a partner's request (R66). -/
  | ffeStep (g : Nat) (tap : Nat) (up : Bool)
  /-- A window command on an association, with the captured entry image (R166). -/
  | asnCmd (op : Nat) (a : Nat) (image : List Byte)
  /-- A START or RESTART that waits for a reservation of uses (R154). -/
  | asnWait (op : Nat) (a : Nat)
  /-- A DOMAIN_WRITE (R126). -/
  | domWrite (d : Nat) (dom : Domain)
  /-- An association's soft limit is announced; its hard limit or another cause makes it DEAD (R153, R163). -/
  | softHit (a : Nat)
  | asnDead (a : Nat) (cause : Nat)
  /-- Every association bound to a cipher port, those of its link, becomes DEAD at step 3 (R281, R283). -/
  | portDead (p : Nat) (cause : Nat)
  /-- A vault slot becomes usable, is deleted, or is invalidated by a failing tag (R303, R306), at step 3. -/
  | slotUsable (v : Nat) (officer : Bool := false)
  | slotDelete (v : Nat)
  | slotInvalid (v : Nat)
  /-- All nine DRBG instances reseed (R316). -/
  | reseedAll
  /-- A Stove test or restore (R200), and the return of Stoves that passed. -/
  | stoveCmd (c : Nat) (k : Nat) (restore : Bool)
  | stoveBack (c : Nat) (ks : List Nat)
  /-- KDL_LINK_CMD and KDL_LINK_ROLL_CMD for a link (R264, R289): op 6 proposes a rollover. -/
  | linkCmd (link : Nat) (op : Nat)
  /-- An association that joins the rollover of its link (R267). -/
  | rollJoin (a : Nat)
  /-- A flush of a queue, after every step of the edge (R327). -/
  | queueFlush (q : Nat)
  /-- A slice command at step 7 (R353, R362). -/
  | sliceCmd (s : Nat) (op : Nat) (pasid : Nat)
  /-- A step of TIME (R414). -/
  | timeStep (ns : Nat)
  /-- A quench of the association table (R168). -/
  | asnQuench
  /-- A FLU_CMD (R404, R394). -/
  | fluCmd (op : Nat)
  deriving DecidableEq, Repr

/-- A scheduled action: the edge it is due at, whether hold keeps it pending (R21), and what it does. -/
structure Sched where
  due : Nat
  held : Bool := false
  act : Act
  deriving DecidableEq, Repr

/-! ### What leaves the device -/

/-- What the device hands to the world around it. -/
inductive Out where
  /-- The words that a read returns to the reader, or Unsupported Request (R487). -/
  | read (ws : List Word)
  | unsupported
  /-- Bytes written to host memory at an address. -/
  | hostWrite (addr : Nat) (bytes : List Byte)
  /-- A 64-bit word of host memory set in some bits (R356), a copy within host memory, and a range
  zeroed (R357). -/
  | hostOr (addr : Nat) (mask : Nat)
  | hostCopy (src dst : Nat) (bytes : Nat)
  | hostZero (addr bytes : Nat)
  /-- An MSI-X message of a vector (R338, R359): its address and data. -/
  | msix (vector : Nat) (addr : Nat) (data : Word)
  /-- A frame sent on an Ethernet port from its preamble on, with the idles that follow it (R92); one ended with an
  invalid FCS is marked (R328). -/
  | frame (port : Nat) (bytes : List Byte) (idles : Nat) (bad : Bool)
  /-- What an Ethernet port transmits from now on (R97). -/
  | portLine (port : Nat) (l : PortLine)
  /-- Symbols that a lane drives on its pins (R62), and the payload of a slip frame handed to its consumer, with the flag
  of a bad frame (R76). -/
  | symbols (lane : Nat) (xs : List Sym)
  | slipPayload (lane : Nat) (bits : List Bool) (bad : Bool)
  /-- An OTN frame sent, or ODU-AIS in its place with the MFAS and the section overhead of the port (R105, R106). -/
  | otn (port : Nat) (frame : OtnFrame)
  | oduAis (port : Nat) (mfas : Byte) (sm : SmOh)
  /-- The levels of CLAIM_OUT by half bit times (R400). -/
  | claim (levels : List Bool)
  /-- A message of the Officer Port (R437). -/
  | officer (bytes : List Byte)
  /-- A transfer on a module bus (R447): whether it writes, its bank, page, offset and bytes. -/
  | cmis (bus : Nat) (write : Bool) (bank page off : Nat) (bytes : List Byte)
  /-- The LED chain refreshed (R442), bit i of the number is bit i of the chain. -/
  | leds (chain : Nat)
  /-- Lines and nodes written to external memory (R374): region, level (0 for a data line, k + 1 for level k), index. -/
  | cxl (region level index : Nat) (bytes : List Byte)
  /-- What a consumer's read of a region returns: 64 bytes, or poison. -/
  | line (region index : Nat) (data : Option (List Byte))
  deriving DecidableEq, Repr

/-! ### The state -/

/-- The state of the device. -/
structure State where
  /-- The commands that wait, first in, first out. -/
  pending : List Instr := []
  /-- The tick number (R4, R32) and the core cycle in which the last command landed. -/
  tick : Nat := 0
  cycle : Nat := 0
  /-- Every register whose word differs from its reset word (R490, R493). -/
  regs : List (RegKey × Word) := []
  /-- What is scheduled for coming edges, in the order it landed. -/
  sched : List Sched := []
  rep : Report := {}
  pwr : Power := {}
  lanes : List (Nat × LaneRt) := []
  ports : List (Nat × PortRt) := []
  otn : List (Nat × OtnRt) := []
  assocs : AsnTable := {}
  fwd : Forwarding := {}
  vault : Vault := {}
  chims : List (Nat × ChimRt) := []
  hearth : Hearth := {}
  kindle : Kindle := {}
  seals : List (Nat × SealRt) := []
  time : Time := {}
  slices : List (Nat × SliceRt) := []
  msix : Msix := {}
  pair : Pair := {}
  tamper : Tamper := {}
  officer : Officer := {}
  cages : List (Nat × Cage) := []
  regions : List (Nat × Region) := []
  /-- The entry that a REINIT rewrites (R382). -/
  reinit : Option Nat := none
  /-- The core cycle, counted over ticks, up to which the association window is busy (R166). -/
  asnBusy : Nat := 0
  /-- How many free values have been used: the model's own counter, no state of the device. -/
  fresh : Nat := 0
  /-- What the device has handed to the world around it, oldest first. -/
  out : List Out := []
  deriving DecidableEq, Repr

/-- Why a command stops the device. -/
inductive Fault where
  /-- Raised by SEALED_LINE_READ and SEALED_LINE_WRITE for a line beyond the data of its region (R371): the address does
  not exist. Safe: nothing runs. -/
  | noSuchLine
  deriving DecidableEq, Repr

/-- Why a command has no meaning. -/
inductive Refusal where
  /-- Raised by `exec` for a command that has no meaning yet. Safe: nothing runs. -/
  | notModelled (mnemonic : String)
  deriving DecidableEq, Repr

/-- The device right after reset. -/
def State.reset : State := {}

end Sys2Proof.Machine
end

