-- ==== Sys2Proof/Machine/Ops.lean ====
section
/-! DEFINITION. The named operations over the register map, the schedule of edges and the free values, which every
command is written with. -/

namespace Sys2Proof.Machine

open Sys2Proof

/-! ### The register map (R490, R493) -/

/-- The register of a page at an offset, if one occupies it. -/
def regDefOf (p : Page) (off : Nat) : Option RegDef :=
  (if p.hasHeader && decide (off < 0x100) then regsHeader else pageRegs p).find?
    (fun d => d.off ≤ off && off < d.off + d.stride * d.n && (off - d.off) % d.stride = 0)

/-- The word a register holds after every reset that clears it (R493). A register whose reset value depends on its
place or on a random source has its own line in `State.reset` or in the reset commands. A Flue lane has framing 1 and
period 4,096 (R385). -/
def resetWord (k : RegKey) : Word :=
  if k.page.hasHeader && k.off = 0 then BitVec.ofNat 32 (pageIdWord k.page k.inst)
  else if k.page = .lan && decide (144 ≤ k.inst) && k.off = 0x100 then 0x402
  else if k.page = .lan && decide (144 ≤ k.inst) && k.off = 0x118 then 4096
  else if k.page = .tmp && decide (k.off ≥ 0x200) then BitVec.ofNat 32 (tmpRespReset ((k.off - 0x200) / 4))
  else match regDefOf k.page k.off with
    | some d => BitVec.ofNat 32 d.reset
    | none => 0

/-- The register word that holds field `f` of instance `i`, for object `o`. -/
def keyOf (f : Fld) (i : Nat := 0) (o : Nat := 0) : RegKey := ⟨f.page, f.off, i, o⟩

/-- The word of a register. -/
def State.word (s : State) (k : RegKey) : Word := mget (resetWord k) s.regs k

/-- The state with a register's word replaced. -/
def State.setWord (s : State) (k : RegKey) (w : Word) : State :=
  { s with regs := mset RegKey.lt (resetWord k) s.regs k w }

/-- The value of a field. -/
def State.rd (s : State) (f : Fld) (i : Nat := 0) (o : Nat := 0) : Nat :=
  getF (s.word (keyOf f i o)) f.lo f.w

/-- The state with a field's value replaced. -/
def State.wr (s : State) (f : Fld) (v : Nat) (i : Nat := 0) (o : Nat := 0) : State :=
  s.setWord (keyOf f i o) (setF (s.word (keyOf f i o)) f.lo f.w v)

/-- Whether a one-bit field is 1. -/
def State.on (s : State) (f : Fld) (i : Nat := 0) (o : Nat := 0) : Bool := s.rd f i o = 1

/-- A field raised by `n`, saturating. -/
def State.bumpReg (s : State) (f : Fld) (n : Nat) (i : Nat := 0) (o : Nat := 0) : State :=
  s.wr f (satAdd f.w (s.rd f i o) n) i o

/-- `n` bytes of an array register of a page, byte i in word i / 4 at bits 8 (i mod 4) on (R124). -/
def State.rdBytes (s : State) (p : Page) (off n : Nat) (i : Nat := 0) : List Byte :=
  (List.range n).map (fun b => BitVec.ofNat 8 ((s.word ⟨p, off + 4 * (b / 4), i, 0⟩).toNat >>> (8 * (b % 4))))

/-- The words that bytes fill, least significant byte first, the last padded with zeros. -/
def leWords (bs : List Byte) : List Word := (chunks 4 bs).map (fun c => BitVec.ofNat 32 (leNat c))

/-- Words written to consecutive registers of a page. -/
def State.wrWords (s : State) (p : Page) (off : Nat) (ws : List Word) (i : Nat := 0) : State :=
  (ws.foldl (fun (q : State × Nat) w => (q.1.setWord ⟨p, q.2, i, 0⟩ w, q.2 + 4)) (s, off)).1

/-! ### Ticks and edges (R4, R16, R19) -/

/-- The edge that a write landing in cycle `cyc` of the present tick reaches (R16). -/
def State.edgeFor (s : State) (cyc : Nat) : Nat := if cyc ≤ 8999 then s.tick + 1 else s.tick + 2

/-- The state in the core cycle in which a command lands. -/
def State.at (s : State) (cyc : Cyc) : State := { s with cycle := cyc.val }

/-- The present core cycle, counted over ticks. -/
def State.now (s : State) : Nat := s.tick * cyclesPerTick + s.cycle

/-- An action scheduled for edge `due`, after those that landed before it. -/
def State.schedule (s : State) (due : Nat) (act : Act) : State :=
  { s with sched := s.sched ++ [{ due := due, held := false, act := act }] }

/-- Whether a scheduled action is the pending copy of register `k`. -/
def Sched.isCopyOf (k : RegKey) (e : Sched) : Bool :=
  match e.act with
  | .copy k' _ => decide (k = k')
  | _ => false

/-- Whether a scheduled action is one that hold stops: a pending copy, or a WRITE_CFG of an association (the example of
R21). -/
def Sched.isCopy (e : Sched) : Bool :=
  match e.act with
  | .copy _ _ => true
  | .asnCmd 2 _ _ => true
  | _ => false

/-- The one pending copy of register `k` (R17, R491): a later write replaces it. While hold is 1 it is held (R21). -/
def State.putCopy (s : State) (k : RegKey) (w : Word) (cyc : Nat) : State :=
  { s with sched := s.sched.filter (fun e => !e.isCopyOf k) ++
      [{ due := s.edgeFor cyc, held := s.on F.devCommitCtlHold, act := .copy k w }] }

/-- The pending word of register `k`, if one waits. -/
def State.copyOf (s : State) (k : RegKey) : Option Word :=
  s.sched.findSome? (fun e => match e.act with
    | .copy k' w => if k = k' then some w else none
    | _ => none)

/-- PAGE_PEND of an instance of a page (R17, R486): its pending copies, a waiting LAN_CTRL.class among them (R61), and in
the FLU page those of the Flue lanes (R385). -/
def State.pagePend (s : State) (p : Page) (i : Nat) : Nat :=
  min 2097151 ((s.sched.filter (fun e => match e.act with
    | .copy k _ => (decide (k.page = p) && decide (k.inst = i)) ||
        (decide (p = .flu ∧ k.page = .lan) && decide (144 ≤ k.inst))
    | _ => false)).length +
    (if p = .lan then b2n (nget {} s.lanes i).classPend.isSome else 0))

/-! ### Free values -/

/-- The next free value of `w` bits: a draw, or a value the manual leaves open. -/
def State.free (s : State) (w : Nat) : BitVec w := Config.freeBits w s.fresh

/-- The state after a free value has been used. -/
def State.burn (s : State) (n : Nat := 1) : State := { s with fresh := s.fresh + n }

/-! ### What leaves the device -/

/-- The state with one more thing sent to the outside. -/
def State.emit (s : State) (o : Out) : State := { s with out := s.out ++ [o] }

/-! ### Modes (R36) -/

/-- The mode code of DEV_MODE.mode. -/
def State.mode (s : State) : Nat := s.rd F.devModeMode

/-- The mode whose rules hold: the mode BROWNOUT was entered from, in BROWNOUT (R39). -/
def State.effMode (s : State) : Nat := if s.mode = 11 then s.rd F.devModePrevMode else s.mode

/-- ACTIVE, SOLO or TAKEOVER, or BROWNOUT entered from one of these (R39, R155). -/
def State.sealing (s : State) : Bool := s.effMode = 4 || s.effMode = 6 || s.effMode = 7

/-- PAIR_LOCK released (R399, R400). -/
def State.freeLock (s : State) : State :=
  if s.on F.fluStatLockHeld then
    { s.wr F.fluStatLockHeld 0 with pair := { s.pair with freedAt := some s.tick } }
  else s

/-- A change of mode: prev_mode takes the mode before it (R57), and a unit that leaves ACTIVE, SOLO and TAKEOVER other
than into BROWNOUT releases PAIR_LOCK (R399). -/
def State.setMode (s : State) (m : Nat) : State :=
  let s := (s.wr F.devModePrevMode s.mode).wr F.devModeMode m
  if s.sealing then s else s.freeLock

/-- The mode that BROWNOUT returns to changes under it (R39), or the mode itself. -/
def State.setEffMode (s : State) (m : Nat) : State :=
  if s.mode = 11 then
    let s := s.wr F.devModePrevMode m
    if s.sealing then s else s.freeLock
  else s.setMode m

/-- Whether a page instance is ready (R52). -/
def State.ready (s : State) (p : Page) (i : Nat := 0) : Bool := s.on (F.pageReady p) i

/-! ### Lanes and ports -/

/-- What lane `g` keeps beside its registers. -/
def State.lane (s : State) (g : Nat) : LaneRt := nget {} s.lanes g
/-- The state with it replaced. -/
def State.setLane (s : State) (g : Nat) (l : LaneRt) : State := { s with lanes := nset {} s.lanes g l }
/-- The state with it changed by `f`. -/
def State.modLane (s : State) (g : Nat) (f : LaneRt → LaneRt) : State := s.setLane g (f (s.lane g))

/-- What port `p` keeps beside its registers. -/
def State.port (s : State) (p : Nat) : PortRt := nget {} s.ports p
/-- The state with it replaced. -/
def State.setPort (s : State) (p : Nat) (r : PortRt) : State := { s with ports := nset {} s.ports p r }
/-- The state with it changed by `f`. -/
def State.modPort (s : State) (p : Nat) (f : PortRt → PortRt) : State := s.setPort p (f (s.port p))

/-- What OTN port `p` keeps beside its registers. -/
def State.otnp (s : State) (p : Nat) : OtnRt := nget {} s.otn p
/-- The state with it replaced. -/
def State.setOtnp (s : State) (p : Nat) (r : OtnRt) : State := { s with otn := nset {} s.otn p r }
/-- The state with it changed by `f`. -/
def State.modOtnp (s : State) (p : Nat) (f : OtnRt → OtnRt) : State := s.setOtnp p (f (s.otnp p))

/-! ### Power (R42) -/

/-- NV writes are inhibited: below the threshold of R42, and in the modes of R36 that inhibit them. -/
def State.nvInhibited (s : State) : Bool :=
  s.on F.pwrStatNvInhibit || decide (s.mode = 0 ∨ s.mode = 1 ∨ s.mode = 9 ∨ s.mode = 10 ∨ s.mode = 11)

/-! ### Vault slots -/

/-- Vault slot `v`. -/
def State.slot (s : State) (v : Nat) : Slot := nget {} s.vault.slots v
/-- The state with it replaced. -/
def State.setSlot (s : State) (v : Nat) (x : Slot) : State :=
  { s with vault := { s.vault with slots := nset {} s.vault.slots v x } }

/-! ### Associations (R150 to R153) -/

/-- A phase with nothing in it: key, salt, validity and receive state zeroed. -/
def Phase.zeroed (p : Phase) : Phase := { p with key := 0, salt := 0, valid := false, rxHi := 0, rxMap := 0, initiator := false }

/-- What entering IDLE, DEAD or QUENCHED leaves of an entry (R153): its keys, salts, valid bits, tx_phase,
overlap_end, numbers and receive state are zero, and claim_pending and soft_hit are clear. -/
def Assoc.wiped (a : Assoc) : Assoc :=
  { a with ph0 := a.ph0.zeroed, ph1 := a.ph1.zeroed, txPhase := false, overlapAt := none, nextPn := 0,
           pnMark := 0, claimPending := false, softHit := false }

/-- Whether a state holds no key (R153). -/
def AState.keyless : AState → Bool
  | .idle | .dead | .quenched => true
  | _ => false

/-- An entry as the table may hold it: with no key material where its state holds none (R153). -/
def Assoc.settled (a : Assoc) : Assoc := if a.state.keyless then a.wiped else a

/-- Entry `a` of the association table. -/
def AsnTable.get (t : AsnTable) (a : Nat) : Assoc := nget t.base t.m a

/-- The one operation that writes an entry. -/
def AsnTable.set (t : AsnTable) (a : Nat) (e : Assoc) : AsnTable :=
  { t with m := nset t.base t.m a e.settled }

/-- Every entry changed by `f`, listed or not. -/
def AsnTable.mapAll (t : AsnTable) (f : Assoc → Assoc) : AsnTable :=
  let b := (f t.base).settled
  { t with
    base := b
    m := (t.m.map (fun e => (e.1, (f e.2).settled))).filter (fun e => decide (e.2 ≠ b)) }

/-- Entry `a`. -/
def State.asn (s : State) (a : Nat) : Assoc := s.assocs.get a
/-- The state with entry `a` replaced. -/
def State.setAsn (s : State) (a : Nat) (e : Assoc) : State := { s with assocs := s.assocs.set a e }
/-- The state with entry `a` changed by `f`. -/
def State.modAsn (s : State) (a : Nat) (f : Assoc → Assoc) : State := s.setAsn a (f (s.asn a))
/-- The entries that differ from the table's base. -/
def State.asnListed (s : State) : List Nat := s.assocs.m.map (·.1)

/-- The transmit phase of an entry. -/
def Assoc.tx (a : Assoc) : Phase := if a.txPhase then a.ph1 else a.ph0
/-- Phase `n` of an entry. -/
def Assoc.ph (a : Assoc) (n : Bool) : Phase := if n then a.ph1 else a.ph0
/-- The entry with phase `n` replaced. -/
def Assoc.setPh (a : Assoc) (n : Bool) (p : Phase) : Assoc := if n then { a with ph1 := p } else { a with ph0 := p }

/-- The hard limit of packet and group numbers (R160). -/
def Assoc.hardLimit (a : Assoc) : Nat := if a.otn then 2 ^ 48 - 2 ^ 24 else 2 ^ 64 - 2 ^ 24
/-- The soft limit that acts (R163): for OTN, above 2^47 it acts as 2^47. -/
def Assoc.softLim (a : Assoc) : Nat := if a.otn then min a.softLimit (2 ^ 47) else a.softLimit
/-- The replay window that acts (R150). -/
def Assoc.win (a : Assoc) : Nat := min a.replayWin (2 ^ 32)

end Sys2Proof.Machine
end

