-- ==== Sys2Proof/Machine/Flags.lean ====
section
/-! DEFINITION. The three reporting channels: events with their interrupts and records, fault latches, and counters
(R452 to R475). An operation on a channel changes `rep` and nothing else; an interrupt
leaves as an MSI-X message or stays pending. -/

namespace Sys2Proof.Machine

open Sys2Proof

/-! ### Event registers -/

/-- A field of an event, LAST or fault register. -/
def State.evt (s : State) (f : Fld) (i : Nat := 0) : Nat := getF (mget 0 s.rep.evt (keyOf f i)) f.lo f.w

/-- The same as a word. -/
def State.evtWord (s : State) (k : RegKey) : Word := mget 0 s.rep.evt k

/-- The state with an event, LAST or fault word replaced. -/
def State.setEvtWord (s : State) (k : RegKey) (w : Word) : State :=
  { s with rep := { s.rep with evt := mset RegKey.lt 0 s.rep.evt k w } }

/-- The state with a field of an event, LAST or fault register replaced. -/
def State.wrEvt (s : State) (f : Fld) (v : Nat) (i : Nat := 0) : State :=
  s.setEvtWord (keyOf f i) (setF (s.evtWord (keyOf f i)) f.lo f.w v)

/-- The default severity of a page's events (R459). -/
def pageSeverity : Page → Nat
  | .flt => 7
  | .tmp => 6
  | .kvt | .kdl | .asn | .flu => 5
  | .cxm | .hrt => 4
  | .evr | .pmc => 2
  | _ => 3

/-- The LAST register beside an event register, where the page has one. -/
def lastOff (f : Fld) : Option Nat :=
  match f.page with
  | .asn => some 0x110
  | .cxm => some 0x138
  | .hrt => some 0x158
  | .hst => some 0x158
  | .kdl => some (if f.off = 0x340 then 0x348 else 0x114)
  | .kvt => some 0x13C
  | .mod => some 0x128
  | .pmc => some 0x114
  | _ => none

/-- A record raised, to be numbered when the cycle is settled. -/
def State.raise (s : State) (r : Raised) : State :=
  { s with rep := { s.rep with raised := s.rep.raised ++ [r] } }

/-- An interrupt of a page instance (R361). -/
def State.irq (s : State) (p : Page) (i : Nat) : State :=
  { s with rep := { s.rep with irqs := s.rep.irqs ++ [(p, i)] } }

/-- The interrupt enable of an event bit: the INT register lies 4 bytes after the EVT register on every page. -/
def State.intOn (s : State) (f : Fld) (i : Nat) : Bool := getF (s.word ⟨f.page, f.off + 4, i, 0⟩) f.lo 1 = 1

/-- Bit `f` of an event register is set: its record is raised (R459), and its interrupt where INT enables it. -/
def State.event (s : State) (f : Fld) (i : Nat := 0) : State :=
  let s := s.wrEvt f 1 i
  let s := s.raise { addr := f.page.addr i, code := f.page.code * 256 + f.lo, sev := pageSeverity f.page,
                     body := [BitVec.ofNat 32 (pageIdWord f.page i), 0], last := (lastOff f).map (fun o => ⟨f.page, o, i, 0⟩) }
  onlyIf (s.intOn f i) (fun s => s.irq f.page i) s

/-- The record of an event whose bit lies in a status register (R459): DEV_GOP_STAT, PRT_DEF, LRC_STAT. -/
def State.raiseBit (s : State) (p : Page) (i b : Nat) : State :=
  s.raise { addr := p.addr i, code := p.code * 256 + b, sev := pageSeverity p,
            body := [BitVec.ofNat 32 (pageIdWord p i), 0] }

/-! ### Counters (R468 to R473) -/

/-- The key of counter `c` of a page instance. -/
def ctrKey (p : Page) (i c : Nat) : RegKey := ⟨p, 0x040 + 0x10 * c, i, 0⟩

/-- Counter `c` of a page instance. -/
def State.ctr (s : State) (p : Page) (i c : Nat) : Counter := mget {} s.rep.ctrs (ctrKey p i c)

/-- The state with it replaced. -/
def State.setCtr (s : State) (p : Page) (i c : Nat) (v : Counter) : State :=
  { s with rep := { s.rep with ctrs := mset RegKey.lt ({} : Counter) s.rep.ctrs (ctrKey p i c) v } }

/-- `n` occurrences of select `sel` of a page in this cycle, to be counted when the cycle is settled (R468). -/
def State.count (s : State) (p : Page) (i sel : Nat) (n : Nat := 1) (qual : Nat := 0) : State :=
  let same := fun (t : Tally) => decide (t.page = p ∧ t.inst = i ∧ t.sel = sel ∧ t.qual = qual)
  let more := s.rep.tally.map (fun t => if same t then { t with amt := t.amt + n } else t)
  if n = 0 then s
  else if s.rep.tally.any same then { s with rep := { s.rep with tally := more } }
  else { s with rep := { s.rep with tally := s.rep.tally ++ [⟨p, i, sel, qual, n⟩] } }

/-- PMC_LAST names a counter, and bit `b` of PMC_EVT is set (R470, R472). Code 0x0500 carries the counter's offset. -/
def State.pmcEvent (s : State) (b : Nat) (p : Page) (i c : Nat) : State :=
  let off := p.addr i + 0x048 + 0x10 * c
  let s := (s.wrEvt F.pmcLastOffset off).wrEvt F.pmcLastBit b
  if b = 0 then
    let s := s.wrEvt F.pmcEvtSaturated 1
    let s := s.raise { addr := Page.pmc.addr 0, code := 0x0500, sev := 2, body := [BitVec.ofNat 32 off] }
    onlyIf (s.intOn F.pmcEvtSaturated 0) (fun s => s.irq .pmc 0) s
  else s.event F.pmcEvtCarryLost

/-- `n` added to counter `c` (R469, R470): a chained counter wraps and carries into the next, in cycle 9,999 at the
coming edge; any other stops at 2^48 − 1. The fuel bounds the chain. -/
def addCtr : Nat → Page → Nat → Nat → Nat → State → State
  | 0, _, _, _, _, s => s
  | fuel + 1, p, i, c, n, s =>
    let k := s.ctr p i c
    let v := k.live + n
    if n = 0 then s
    else if s.on (F.cntChain p c) i && decide (c < 7) then
      let s := s.setCtr p i c { k with live := v % 2 ^ 48 }
      if v < 2 ^ 48 then s
      else if s.cycle = 9999 then
        { s with rep := { s.rep with carries := s.rep.carries ++ [(ctrKey p i (c + 1), v / 2 ^ 48)] } }
      else addCtr fuel p i (c + 1) (v / 2 ^ 48) s
    else if v < 2 ^ 48 - 1 then s.setCtr p i c { k with live := v }
    else
      let s' := s.setCtr p i c { k with live := 2 ^ 48 - 1, sat := true }
      if k.sat then s' else (s'.pmcEvent 0 p i c).count .pmc 0 2

/-- A tally counted by every counter of its page that selects it (R468, R469). One that counts occupancy adds 1 as the
value of its cycle passes CNT_THR. -/
def State.applyTally (t : Tally) (s : State) : State :=
  forN 8 (fun c s =>
    if s.rd (F.cntSelect t.page c) t.inst = t.sel && decide (t.sel ≠ 0)
        && (decide (t.page ≠ .hst) || s.rd (F.cntQual t.page c) t.inst = t.qual)
        && !(decide (c > 0) && s.on (F.cntChain t.page (c - 1)) t.inst) then
      if s.on (F.cntOcc t.page c) t.inst then
        let k := s.ctr t.page t.inst c
        let before := if k.seenAt = s.now then k.seen else 0
        let thr := s.rd (F.cntThr t.page c) t.inst
        let s := s.setCtr t.page t.inst c { k with seenAt := s.now, seen := before + t.amt }
        addCtr 8 t.page t.inst c (b2n (decide (before ≤ thr ∧ thr < before + t.amt))) s
      else addCtr 8 t.page t.inst c t.amt s
    else s) s

/-! ### The event recorder (R458 to R467) -/

/-- The entry of EVR_RL that governs a code: the lowest valid one that names it (R479). -/
def State.rlEntry (s : State) (code : Nat) : Option Nat :=
  (List.range 64).find? (fun i =>
    s.on (F.evrRl0Valid.at i 8) && s.rd (F.evrRl0Code.at i 8) = code)

/-- The bucket size of a code (R461). -/
def State.rlTokens (s : State) (code : Nat) : Nat :=
  match s.rlEntry code with
  | some i => s.rd (F.evrRl1Tokens.at i 8)
  | none => s.rd F.evrRlDefTokens

/-- The refill period of a code in ticks (R461, R479): larger exponents than 24 act as 24. -/
def State.rlPeriod (s : State) (code : Nat) : Nat :=
  2 ^ min 24 (match s.rlEntry code with
    | some i => s.rd (F.evrRl1PeriodLog2.at i 8)
    | none => s.rd F.evrRlDefPeriodLog2)

/-- The severity of a record (R461): its EVR_RL entry's, else its own. -/
def State.rlSeverity (s : State) (r : Raised) : Nat :=
  match s.rlEntry r.code with
  | some i => s.rd (F.evrRl1Severity.at i 8)
  | none => r.sev

/-- The volatile ring with a record stored in it. Its code is no longer marked (R461), and it waits for its line of the
deep log while EVR_DEEP.valid = 1 (R466). -/
def State.stored (s : State) (ring : List Record) (r : Record) : State :=
  let s := s.count .evr 0 2
  let s := { s with rep := { s.rep with ring := ring ++ [r], dropped := s.rep.dropped.filter (· ≠ r.code) } }
  onlyIf (s.on F.evrDeepValid) (fun s => { s with rep := { s.rep with deepQueue := s.rep.deepQueue ++ [r] } }) s

/-- A record on its way into the volatile ring (R462): to a free slot, else over the oldest record of its severity or
lower, else lost. -/
def State.storeRecord (s : State) (r : Record) : State :=
  if s.rep.ring.length < 16384 then s.stored s.rep.ring r
  else match s.rep.ring.find? (fun q => decide (q.sev ≤ r.sev)) with
    | some q => (s.count .evr 0 3).stored (s.rep.ring.filter (fun (x : Record) => decide (x.seq ≠ q.seq))) r
    | none =>
      let s := { s with rep := { s.rep with lostFull := satAdd 16 s.rep.lostFull 1 } }.count .evr 0 4
      let s := s.wrEvt F.evrEvtRingFull 1
      let s := onlyIf (s.intOn F.evrEvtRingFull 0) (fun s => s.irq .evr 0) s
      onlyIf (decide (r.code ≠ 0x0400)) (fun s => s.raise
        { addr := Page.evr.addr 0, code := 0x0400, sev := 2, body := [BitVec.ofNat 32 (pageIdWord .evr 0), 0] }) s

/-- A numbered record passed through the filters of R461 and the freeze of R463, then stored. -/
def State.filterRecord (s : State) (q : Raised) (seq : Nat) : State :=
  let sev := s.rlSeverity q
  let left := nget (s.rlTokens q.code) s.rep.buckets q.code
  if sev < 7 && decide (sev < s.rd F.evrCtlMinSev) then
    { s with rep := { s.rep with filtered := satAdd 16 s.rep.filtered 1 } }.count .evr 0 6
  else if sev < 7 && decide (left = 0) then
    { s with rep := { s.rep with rlDrops := satAdd 16 s.rep.rlDrops 1
                                 dropped := if s.rep.dropped.contains q.code then s.rep.dropped
                                            else s.rep.dropped ++ [q.code] } }.count .evr 0 5
  else
    let r : Record := { seq := seq, code := q.code, sev := sev
                        suppressed := s.rep.dropped.contains q.code, body := q.body }
    let s := { s with rep := { s.rep with
      buckets := nset (s.rlTokens q.code) s.rep.buckets q.code (left - 1) } }
    if s.rep.frozenAt.isSome then
      if sev = 7 && decide (s.rep.hold.length < 8) then
        { s with rep := { s.rep with hold := s.rep.hold ++ [r], dropped := s.rep.dropped.filter (· ≠ q.code) } }
      else { s with rep := { s.rep with lostFrozen := satAdd 16 s.rep.lostFrozen 1 } }.count .evr 0 7
    else s.storeRecord r

/-- A record raised: numbered and filtered, or kept in the hold queue until EVR is ready (R460). -/
def State.record (s : State) (q : Raised) : State :=
  let q := match q.last with
    | some k => { q with body := [BitVec.ofNat 32 (pageIdWord k.page k.inst), s.evtWord k] }
    | none => q
  if s.ready .evr then
    let seq := s.rep.nextSeq
    ({ s with rep := { s.rep with nextSeq := (seq + 1) % 2 ^ 48 } }.count .evr 0 1).filterRecord q seq
  else if s.rep.early.length < 8 then { s with rep := { s.rep with early := s.rep.early ++ [q] } }
  else { s with rep := { s.rep with earlyLost := satAdd 8 s.rep.earlyLost 1, earlyGap := s.rep.earlyGap + 1 } }

/-- Whether record `a` is numbered before record `b` of the same cycle (R460). -/
def Raised.before (a b : Raised) : Bool := a.addr < b.addr || (a.addr = b.addr && a.code < b.code)

/-- The codes of which one is recorded for every fault (R456), saturation (R470) and loss (R459), where any other code is
recorded once for the bit that a cycle sets. -/
def everyTime (code : Nat) : Bool := decide (code = 0x0300 ∨ code = 0x0301 ∨ code = 0x0400 ∨ code = 0x0500)

/-- A record put in its place among those of its cycle that were raised after it; of two for one bit of one page, the
later stands (R459). -/
def insertRaised (r : Raised) : List Raised → List Raised
  | [] => [r]
  | q :: qs =>
    if r.addr = q.addr ∧ r.code = q.code ∧ everyTime q.code = false then q :: qs
    else if q.before r then q :: insertRaised r qs else r :: q :: qs

/-- The bytes of a record (R458). -/
def recordBytes (r : Record) : List Byte :=
  let body := r.body.flatMap (fun w => beBytes 4 w.toNat)
  beBytes 2 (12 + body.length) ++ beBytes 2 r.code ++ beBytes 1 r.sev ++ beBytes 1 (b2n r.suppressed) ++
    beBytes 6 r.seq ++ body

/-- What was raised and counted takes effect: counters first, then records in the order of R460. -/
def State.settleOnce (s : State) : State :=
  let t := s.rep.tally
  let s := forL t State.applyTally { s with rep := { s.rep with tally := [] } }
  let q := s.rep.raised.foldr insertRaised []
  forL q (fun r s => s.record r) { s with rep := { s.rep with raised := [] } }

/-- Everything a cycle raised and counted takes effect, and then what the recorder counted and raised of it (R459,
R476). -/
def State.settle (s : State) : State := s.settleOnce.settleOnce

/-! ### Faults (R453 to R456) and flushes (R464) -/

/-- A flush of the recorder starts, or waits behind the running one (R464). -/
def State.startFlush (s : State) : State :=
  match s.rep.flushing with
  | some _ => { s with rep := { s.rep with flushWait := true } }
  | none =>
    { s with rep := { s.rep with flushing := some ((s.rep.ring.map (·.seq)).foldl max 0) } }

/-- A later fault sets FLT_FIRST_SRC.ovf (R455). -/
def State.fltOverflow (s : State) : State :=
  let s := (s.wrEvt F.fltFirstSrcOvf 1).wrEvt F.fltEvtOverflow 1
  onlyIf (s.intOn F.fltEvtOverflow 0) (fun s => s.irq .flt 0) s

/-- FLT_FIRST and FLT_FIRST_SRC take a page's fault (R455). -/
def State.fltTake (s : State) (p : Page) (i src : Nat) (inj : Bool) : State :=
  let s := (((s.wrEvt F.fltFirstPageId (pageIdWord p i)).wrEvt F.fltFirstSrcSrc src).wrEvt F.fltFirstSrcValid 1).wrEvt
    F.fltFirstSrcInjected (b2n inj)
  { s with rep := { s.rep with fltLatchedAt := (s.now, p.addr i) } }

/-- The FLT page latches a page's first fault (R455), which is evented, recorded and flushed (R456). Of two pages that
fault in one core cycle, the one at the lower address is latched. -/
def State.fltLatch (s : State) (p : Page) (i src : Nat) (inj : Bool) : State :=
  let s := s.count .flt 0 3
  let s := if s.evt F.fltFirstSrcValid = 0 then s.fltTake p i src inj
    else if s.rep.fltLatchedAt.1 = s.now ∧ p.addr i < s.rep.fltLatchedAt.2 then (s.fltTake p i src inj).fltOverflow
    else s.fltOverflow
  let s := s.wrEvt F.fltEvtFault 1
  let s := onlyIf (s.intOn F.fltEvtFault 0) (fun s => s.irq .flt 0) s
  let s := s.raise { addr := Page.flt.addr 0, code := 0x0300, sev := 7
                     body := [BitVec.ofNat 32 (pageIdWord p i), s.evtWord (keyOf (F.pageFirstSrc p) i)] }
  s.startFlush

/-- PAGE_FAULT takes a fault as the page's first (R453). -/
def State.pageTake (s : State) (p : Page) (i src : Nat) (inj : Bool) : State :=
  let s := ((s.wrEvt (F.pageFirstSrc p) src i).wrEvt (F.pageFirstValid p) 1 i).wrEvt (F.pageInjected p) (b2n inj) i
  let before := if s.rep.latchedAt.1 = s.now then s.rep.latchedAt.2 else []
  { s with rep := { s.rep with latchedAt := (s.now, (p, i) :: before) } }

/-- The lower source of two that reach a page in the core cycle of its latch is the one latched (R454). -/
def State.lowerSource (s : State) (p : Page) (i src : Nat) (inj : Bool) : State :=
  if s.rep.latchedAt.1 = s.now ∧ (p, i) ∈ s.rep.latchedAt.2 ∧ src < s.evt (F.pageFirstSrc p) i then
    let s := s.pageTake p i src inj
    onlyIf (decide (s.rep.fltLatchedAt = (s.now, p.addr i)) && decide (s.evt F.fltFirstSrcValid = 1))
      (fun s => s.fltTake p i src inj) s
  else s

/-- A fault of a page reaches its latch (R453): the first is kept, later ones set ovf only. -/
def State.fault (s : State) (p : Page) (i src : Nat) (inj : Bool := false) : State :=
  let s := onlyIf inj (fun s => s.count .flt 0 5) s
  if s.evt (F.pageFirstValid p) i = 0 then (s.pageTake p i src inj).fltLatch p i src inj
  else
    let s := (((s.lowerSource p i src inj).wrEvt (F.pageOvf p) 1 i)).count .flt 0 4
    let s := onlyIf (decide (s.evt F.fltFirstSrcValid = 1)) State.fltOverflow s
    s.raise { addr := Page.flt.addr 0, code := 0x0301, sev := 6
              body := [BitVec.ofNat 32 (pageIdWord p i), s.evtWord (keyOf (F.pageFirstSrc p) i)] }

/-! ### SRAM errors (R452, R453, R457) -/

/-- Whether an error found by checker `src` is one that PAGE_FINJ injected; its trace is then gone. A write and a read
in one tick leave no other trace than the armed checker. -/
def State.takeInjected (s : State) (p : Page) (i src : Nat) (double : Bool) : State × Bool :=
  let e := (p, i, src, if double then 2 else 1)
  if s.rep.injected.contains e then ({ s with rep := { s.rep with injected := s.rep.injected.erase e } }, true)
  else if s.rep.armed.contains e then ({ s with rep := { s.rep with armed := s.rep.armed.erase e } }, true)
  else (s, false)

/-- A single-bit error (R452): corrected and counted; it latches nothing. -/
def State.sramCorrected (s : State) (p : Page) (i src : Nat) : State :=
  let (s, _) := s.takeInjected p i src false
  let s := (s.bumpReg F.fltEccCorrected 1).count .flt 0 1
  match p with
  | .hrt => s.count .hrt 0 12
  | .stv => if 32 ≤ src ∧ src < 96 then s.count .stv i 3 else s
  | _ => s

/-- An uncorrectable error (R452, R453, R398): a fault of the page that owns the SRAM. -/
def State.sramError (s : State) (p : Page) (i src : Nat) : State :=
  let (s, inj) := s.takeInjected p i src true
  let s := (s.bumpReg F.fltEccUncorrectable 1).count .flt 0 2
  let s := { s with rep := { s.rep with uncorrEdges := (s.tick :: s.rep.uncorrEdges).take 64 } }
  s.fault p i src inj

/-! ### Interrupts (R338, R339, R359) -/

/-- What a word of the MSI-X table holds after a reset: every vector is masked, everything else 0. -/
def msixReset (i : Nat) : Word := if i % 4 = 3 then 1 else 0
/-- A word of the table. -/
def State.msixWord (s : State) (i : Nat) : Word := nget (msixReset i) s.msix.table i

/-- The message of a vector sent, with the address and data of its table entry. -/
def State.sendVector (s : State) (v : Nat) : State :=
  s.emit (.msix v ((s.msixWord (4 * v)).toNat + 2 ^ 32 * (s.msixWord (4 * v + 1)).toNat) (s.msixWord (4 * v + 2)))

/-- A vector raised: a masked one is left pending. -/
def State.raiseVector (s : State) (v : Nat) : State :=
  if getF (s.msixWord (4 * v + 3)) 0 1 = 1 then
    if s.msix.pend.contains v then s else { s with msix := { s.msix with pend := s.msix.pend ++ [v] } }
  else s.sendVector v

/-- A word of the table written: a vector left unmasked sends what it has pending. -/
def State.writeMsix (s : State) (i : Nat) (w : Word) : State :=
  let w := if i % 4 = 3 then w &&& 1 else w
  let s := { s with msix := { s.msix with table := nset (msixReset i) s.msix.table i w } }
  let v := i / 4
  if i % 4 = 3 && getF w 0 1 = 0 && s.msix.pend.contains v then
    ({ s with msix := { s.msix with pend := s.msix.pend.filter (· ≠ v) } }).sendVector v
  else s

/-- The page interrupts of a cycle, each on the vector that HST_VMAP gives for its page's type (R359). -/
def State.sendIrqs (s : State) : State :=
  forL s.rep.irqs (fun e s => s.raiseVector (s.rd (F.hstVmapVector.at e.1.code))) { s with rep := { s.rep with irqs := [] } }

/-! ### Outcomes -/

/-- A command's next state, its cycle settled. -/
def done (s : State) : Host.Outcome State Fault Refusal := .next s.settle.sendIrqs

end Sys2Proof.Machine
end

