-- ==== Sys2Proof/Machine/Lanes.lean ====
section
/-! DEFINITION. The 144 lanes and the two Flue lanes (R59 to R84): stepped bring-up, equaliser, slip framing, test
tools and loopback. -/

namespace Sys2Proof.Machine

open Sys2Proof

/-! ### Shared parts -/

/-- A write to a block register of a page that is not ready is ignored and sets DEV_READY.early_write (R52). -/
def State.gate (s : State) (p : Page) (i : Nat) (f : State → State) : State :=
  if s.ready p i then f s else s.wr F.devReadyEarlyWrite 1

/-- The lanes of the Flue are the pair lanes (R59, R66). -/
def isPairLane (g : Nat) : Bool := decide (144 ≤ g)

/-- The page of lane `g` as R52 gates it: the registers of a Flue lane lie in the FLU page (R59). -/
def State.gateLane (s : State) (g : Nat) (f : State → State) : State :=
  if isPairLane g then s.gate .flu 0 f else s.gate .lan g f

/-- The ladder of a lane (R61). The Flue lanes use class 0 and stop at code 3. -/
def ladder (g cls : Nat) : List Nat :=
  if isPairLane g then [0, 1, 3]
  else match cls with
    | 1 => [0, 2]
    | 2 => [0, 2, 4]
    | _ => [0, 1, 3, 5, 6]

/-- The next rung above a rate, if there is one. -/
def nextRung (g cls rate : Nat) : Option Nat := ((ladder g cls).filter (fun r => decide (rate < r))).head?

/-- The PAM4 rate codes (R60). -/
def isPam4 (rate : Nat) : Bool := decide (3 ≤ rate)

/-- The rate code in effect. -/
def State.laneRate (s : State) (g : Nat) : Nat := s.rd F.lanStatRate g
/-- The bring-up state: 0 off, 1 locking, 2 training, 3 checking, 4 ready, 5 failed (R84). -/
def State.laneState (s : State) (g : Nat) : Nat := s.rd F.lanStatState g

/-- The checker of a lane, whose lock LAN_PRBS_STAT shows (R84). -/
def State.setChk (s : State) (g : Nat) (c : Checker) : State :=
  (s.wr F.lanPrbsStatLocked (b2n c.locked) g).modLane g (fun l => { l with chk := c })

/-- Whether the checker of a lane runs (R71, R84). -/
def State.checkerRuns (s : State) (g : Nat) : Bool := s.on F.lanPrbsRxEnable g || decide (s.laneState g = 3)

/-- A checker that does not run holds no lock; it starts again when it next runs. -/
def State.restChk (s : State) (g : Nat) : State :=
  if s.checkerRuns g then s else s.setChk g (s.lane g).chk.restart

/-- Lane `g` enters a bring-up state at the present edge. -/
def State.enterLane (s : State) (g st : Nat) : State :=
  ((s.wr F.lanStatState st g).modLane g (fun l => { l with since := s.tick })).restChk g

/-- The positions of the word boundary: one for each UI of a word (R75). -/
def slipPositions (rate : Nat) : Nat := if isPam4 rate then 32 else 64

/-- LAN_SLIP_STAT.position counts the slips modulo the positions of the rate (R75). -/
def State.showPosition (s : State) (g : Nat) : State :=
  s.wr F.lanSlipStatPosition ((s.lane g).slips % slipPositions (s.laneRate g)) g

/-- At NRZ rates eye_upper and eye_lower read 0 (R81). -/
def State.nrzEye (s : State) (g : Nat) : State :=
  if isPam4 (s.laneRate g) then s else (s.wr F.lanEyeEyeUpper 0 g).wr F.lanEyeEyeLower 0 g

/-- Lane `g` fails with a cause (R70). -/
def State.failLane (s : State) (g cause : Nat) : State :=
  (s.enterLane g 5).wr F.lanStatFailCause cause g

/-- A rate change at the present edge (R67, R70): the lane enters locking at the new rate, its fail cause and its
agreement clear, its CDR and checker hold no lock of the old rate, and precoding starts anew (R63). -/
def State.startRate (s : State) (g rate : Nat) : State :=
  let s := (((s.wr F.lanStatRate rate g).wr F.lanStepTarget rate g).wr F.lanStatFailCause 0 g).wr F.lanStatAgreed 0 g
  let s := (s.wr F.lanStatCdrLock 0 g).setChk g (s.lane g).chk.restart
  let s := ((s.enterLane g 1).showPosition g).nrzEye g
  s.modLane g (fun l =>
    { l with trained := false, passed := false, partnerPass := false, agreeRun := 0, txP := 0, rxP := 0 })

/-- The detector of slip framing returns to hunt (R75, R76). -/
def State.slipHunt (s : State) (g : Nat) : State :=
  ((s.wr F.lanSlipStatState 0 g).wr F.lanSlipStatGood 0 g).modLane g (fun l => { l with badRun := 0 })

/-- Whether a lane belongs to an enabled port (R85, R87). -/
def State.laneInPort (s : State) (g : Nat) : Bool :=
  (List.range 8).any (fun d =>
    decide (d ≤ g % 18) && s.on F.prtCfgEnable (g - d) && decide (d < 2 ^ s.rd F.prtCfgWidth (g - d)) && decide (g < 144))

/-! ### LAN_CTRL -/

/-- A write of LAN_CTRL lands: one pending copy, whose class replaces one that still waits (R61, R491). Class 3 is
stored as 0; a Flue lane keeps class 0 and framing 1 (R385). -/
def State.landLanCtrl (s : State) (g : Nat) (w : Word) (cyc : Nat) : State :=
  let w := if getF w F.lanCtrlClass.lo 2 = 3 ∨ isPairLane g = true then setF w F.lanCtrlClass.lo 2 0 else w
  let w := if isPairLane g then setF w F.lanCtrlFraming.lo 2 1 else w
  (s.modLane g (fun l => { l with classPend := none })).putCopy (keyOf F.lanCtrlEnable g) w cyc

/-- A copy of LAN_CTRL takes effect (R61, R67, R84). Its class waits for `settleClass`. -/
def State.commitLanCtrl (s : State) (g : Nat) (w : Word) : State :=
  let was := s.on F.lanCtrlEnable g
  let frm := s.rd F.lanCtrlFraming g
  let cls := s.rd F.lanCtrlClass g
  let s := s.setWord (keyOf F.lanCtrlEnable g) (setF (w &&& 0xFFF) F.lanCtrlClass.lo 2 cls)
  let s := s.modLane g (fun l => { l with classPend := some (getF w F.lanCtrlClass.lo 2) })
  let s := onlyIf (decide (frm ≠ s.rd F.lanCtrlFraming g)) (fun s => s.slipHunt g) s
  let s := onlyIf (!was && s.on F.lanCtrlEnable g) (fun s => s.startRate g 0) s
  onlyIf (was && !s.on F.lanCtrlEnable g) (fun s => (s.startRate g 0).enterLane g 0) s

/-- A waiting class takes effect at an edge at which the lane stands at code 0 (R61). -/
def State.settleClass (g : Nat) (s : State) : State :=
  match (s.lane g).classPend with
  | some c =>
    if s.laneRate g = 0 ∨ c = s.rd F.lanCtrlClass g then
      (s.wr F.lanCtrlClass c g).modLane g (fun l => { l with classPend := none })
    else s
  | none => s

/-! ### LAN_STEP -/

/-- The first condition that refuses a step to `t`, as reject_cause names it; 0 when none does (R67, R68). -/
def State.stepCause (s : State) (g t : Nat) : Nat :=
  let cls := s.rd F.lanCtrlClass g
  let loop := decide (s.rd F.lanLoopMode g ≠ 0)
  if s.laneRate g < t then
    if nextRung g cls (s.laneRate g) ≠ some t then 1
    else if s.laneState g ≠ 4 then 2
    else if !s.on F.lanStatAgreed g then 3
    else if loop then 4
    else if !s.on F.lanCtrlEnable g then 5
    else if s.on F.lanStatLos g then 6
    else 0
  else
    if !(ladder g cls).contains t then 1
    else if loop then 4
    else if !s.on F.lanCtrlEnable g then 5
    else 0

/-- A step is refused: step_rejected, its cause, and the agreement is gone (R67, R69). On a pair lane the run of agreeing
frames is not started again, so the next agreeing frame holds agreement anew (DESIGN CHOICE, log entry 50). -/
def State.refuseStep (s : State) (g cause : Nat) : State :=
  ((s.wr F.lanStepStepRejected 1 g).wr F.lanStepRejectCause cause g).wr F.lanStatAgreed 0 g

/-- A target written to LAN_STEP lands (R67, R68): the rate in effect asks for nothing; any other target is checked
and forms the pending copy. -/
def State.landStep (s : State) (g t : Nat) (cyc : Nat) : State :=
  if t = s.laneRate g then s
  else match s.stepCause g t with
    | 0 => s.putCopy (keyOf F.lanStepTarget g) (BitVec.ofNat 32 t) cyc
    | c => s.refuseStep g c

/-- A step reaches its edge: checked again, and the rate changes (R67, R68). Whether it is a step up or down is judged by
the rate in effect at that edge, which an unplug or a disable in between may have changed (DESIGN CHOICE, log
entry 50). -/
def State.commitStep (s : State) (g t : Nat) : State :=
  if t = s.laneRate g then s
  else match s.stepCause g t with
    | 0 => s.startRate g t
    | c => s.refuseStep g c

/-! ### Equaliser -/

/-- The limits on the taps (R64). -/
def ffeLegal (pre main post : Int) : Bool :=
  decide (-16 ≤ pre ∧ pre ≤ 7 ∧ 24 ≤ main ∧ main ≤ 63 ∧ -24 ≤ post ∧ post ≤ 7 ∧ pre.natAbs + main + post.natAbs ≤ 63)

/-- The taps a LAN_FFE word names. -/
def ffeTaps (w : Word) : Int × Int × Int := (signed 6 (getF w 0 6), (getF w 8 6 : Int), signed 6 (getF w 16 6))

/-- A LAN_FFE write lands (R64): refused as a whole where a tap breaks a limit, else the pending copy. -/
def State.landFfe (s : State) (g : Nat) (w : Word) (cyc : Nat) : State :=
  let s := onlyIf (bit w.toNat 28) (fun s => s.wr F.lanFfeFfeRejected 0 g) s
  let (a, b, c) := ffeTaps w
  if ffeLegal a b c then s.putCopy (keyOf F.lanFfePre g) w cyc else s.wr F.lanFfeFfeRejected 1 g

/-- A copy of LAN_FFE takes effect: manual taps apply at the edge, trained ones are the next training's preset (R66). -/
def State.commitFfe (s : State) (g : Nat) (w : Word) : State :=
  let k := keyOf F.lanFfePre g
  let s := s.setWord k (mergeF 0x013F3F3F (s.word k) w)
  let (a, b, c) := ffeTaps w
  onlyIf (s.on F.lanFfeFfeSrc g) (fun s => s.modLane g (fun l => { l with pre := a, main := b, post := c })) s

/-- The taps in effect with tap 1 pre, 2 main or 3 post moved one step. -/
def LaneRt.stepTap (l : LaneRt) (tap : Nat) (up : Bool) : LaneRt :=
  let d : Int := if up then 1 else -1
  match tap with
  | 1 => { l with pre := l.pre + d }
  | 2 => { l with main := l.main + d }
  | 3 => { l with post := l.post + d }
  | _ => l

/-- A partner's coefficient request on a pair lane in training whose taps are trained (R66): one step at the next edge,
or the reply "at limit". A frame that asks for nothing leaves the reply "not updated" (DEDUCED, log entry 49). -/
def State.ffeRequest (s : State) (g tap req : Nat) : State :=
  if !isPairLane g || s.on F.lanFfeFfeSrc g || decide (s.laneState g ≠ 2) then s
  else if tap = 0 ∨ (req ≠ 1 ∧ req ≠ 2) then s.modLane g (fun l => { l with ffeReply := 0 })
  else
    let l := (s.lane g).stepTap tap (decide (req = 1))
    if ffeLegal l.pre l.main l.post then s.schedule (s.tick + 1) (.ffeStep g tap (decide (req = 1)))
    else s.modLane g (fun l => { l with ffeReply := 2 })

/-- A scheduled tap step (R66). -/
def State.ffeStep (s : State) (g tap : Nat) (up : Bool) : State :=
  let l := (s.lane g).stepTap tap up
  if ffeLegal l.pre l.main l.post then s.setLane g { l with ffeReply := 1 }
  else s.modLane g (fun l => { l with ffeReply := 2 })

/-! ### Bring-up at an edge (R70, R71) -/

/-- CDR lock takes a lane from locking to training (R70). Training starts from the preset (R66). -/
def State.laneTrain (s : State) (g : Nat) : State :=
  if s.laneState g = 1 ∧ s.on F.lanStatCdrLock g then
    let (a, b, c) := ffeTaps (s.word (keyOf F.lanFfePre g))
    (s.enterLane g 2).modLane g (fun l =>
      { l with trained := false, ffeReply := 0, pre := a, main := b, post := c })
  else s

/-- The end of training takes a lane to checking, with its pattern counters cleared and its limits latched (R71). A checker
that already ran starts again without its lock, and `lost` stays as it is (DESIGN CHOICE, log entry 48). -/
def State.laneCheck (s : State) (g : Nat) : State :=
  if s.laneState g = 2 ∧ (s.lane g).trained then
    ((s.enterLane g 3).setChk g {}).modLane g (fun l =>
      { l with lostInCheck := false, passed := false,
               chkTicks := max 1 (s.rd F.lanChkChkTicks g), shift := max 10 (s.rd F.lanChkPam4Shift g) })
  else s

/-- The pass limit of R71, on the counts as they stand. -/
def State.checkPasses (s : State) (g : Nat) : Bool :=
  let l := s.lane g
  l.chk.locked && !l.lostInCheck &&
    (if isPam4 (s.laneRate g) then decide (l.chk.errors ≤ l.chk.bits / 2 ^ l.shift) else decide (l.chk.errors = 0))

/-- A lane in bring-up at whose edge los reads 1 fails with cause 4 (R70). -/
def State.laneLosEdge (g : Nat) (s : State) : State :=
  if s.on F.lanStatLos g && decide (1 ≤ s.laneState g ∧ s.laneState g ≤ 3) then s.failLane g 4 else s

/-! ### Slip framing (R73 to R76) -/

/-- Whether a frame is bad for a locked detector (R76): a wrong marker, an invalid CRC or an unexpected number. -/
def State.slipBad (s : State) (g : Nat) (f : SlipFrame) : Bool := !f.good || decide (f.seq ≠ (s.lane g).expSeq)

/-- A frame at the position the detector watches (R76). -/
def State.slipDetect (s : State) (g : Nat) (f : SlipFrame) : State :=
  let good := f.good
  let l := s.lane g
  match s.rd F.lanSlipStatState g with
  | 0 =>
    if good then
      ((s.wr F.lanSlipStatState 1 g).wr F.lanSlipStatGood 1 g).modLane g (fun l =>
        { l with expSeq := (f.seq + 1) % 65536, badRun := 0 })
    else s
  | 1 =>
    if good && decide (f.seq = l.expSeq) then
      let n := s.rd F.lanSlipStatGood g + 1
      let s := (s.wr F.lanSlipStatGood n g).modLane g (fun l => { l with expSeq := (f.seq + 1) % 65536 })
      if 4 ≤ n then s.wr F.lanSlipStatState 2 g else s
    else s.slipHunt g
  | _ =>
    let bad := s.slipBad g f
    let s := s.modLane g (fun l =>
      { l with expSeq := (if good then f.seq + 1 else l.expSeq + 1) % 65536,
               badRun := if bad then l.badRun + 1 else 0 })
    let s := onlyIf bad (fun s => s.count .lan g 4) s
    if 4 ≤ (s.lane g).badRun then (s.slipHunt g).wr F.lanSlipStatLost 1 g else s

/-- The training exchange of a pair lane (R66, R69): agreement is held after 4 frames in a row that report the
partner's check passed and propose the rung this lane proposes. -/
def State.trainExchange (s : State) (g : Nat) (f : SlipFrame) : State :=
  if !isPairLane g || !f.good then s.modLane g (fun l => { l with agreeRun := 0 })
  else
    let agree := f.flags.checkPass &&
      decide (nextRung g (s.rd F.lanCtrlClass g) (s.laneRate g) = some f.flags.rung)
    let s := s.modLane g (fun l =>
      { l with partnerPass := f.flags.checkPass, agreeRun := if agree then min 4 (l.agreeRun + 1) else 0 })
    let s := onlyIf (decide ((s.lane g).agreeRun = 4)) (fun s => s.wr F.lanStatAgreed 1 g) s
    s.ffeRequest g f.flags.tap f.flags.request

/-! ### Loopback (R82) -/

/-- Whether a loopback may be set: not while the lane is in an enabled port or in bring-up. -/
def State.loopAllowed (s : State) (g mode : Nat) : Bool :=
  decide (mode = 0) || (decide (mode ≠ 3) && !s.laneInPort g && !decide (1 ≤ s.laneState g ∧ s.laneState g ≤ 3))

/-- A LAN_LOOP write lands (R82). -/
def State.landLoop (s : State) (g mode : Nat) (ne : Bool) (cyc : Nat) : State :=
  if s.loopAllowed g mode then
    s.putCopy (keyOf F.lanLoopMode g) (BitVec.ofNat 32 (mode + 4 * b2n ne)) cyc
  else s.wr F.lanLoopLoopRejected 1 g

/-- A LAN_LOOP copy reaches its edge (R82). A loopback starts with its elastic buffer empty (DESIGN CHOICE, log
entry 47). -/
def State.commitLoop (s : State) (g : Nat) (w : Word) : State :=
  if s.loopAllowed g (getF w 0 2) then
    let s := s.modLane g (fun l => { l with elastic := [], elIn := [], elOut := [], elSkip := 0 })
    (s.wr F.lanLoopMode (getF w 0 2) g).wr F.lanLoopNeDrive (getF w 2 1) g
  else s.wr F.lanLoopLoopRejected 1 g

/-! ### The commands -/

/-- LANE_ENABLE (R67): LAN_CTRL written with enable = 1. -/
def execLaneEnable (g : LaneNo) (ctl : BitVec 12) (cyc : Cyc) (s : State) : Host.Outcome State Fault Refusal :=
  done ((s.at cyc).gateLane g (fun s => s.landLanCtrl g ((ctl ||| 1).zeroExtend 32) cyc))

/-- LANE_DISABLE (R61, R67): LAN_CTRL written with enable = 0. -/
def execLaneDisable (g : LaneNo) (ctl : BitVec 12) (cyc : Cyc) (s : State) : Host.Outcome State Fault Refusal :=
  done ((s.at cyc).gateLane g (fun s => s.landLanCtrl g ((ctl &&& 0xFFE).zeroExtend 32) cyc))

/-- LANE_STEP_UP (R67): a target above the rate in effect. A target that is not above it is LANE_STEP_DOWN's. -/
def execLaneStepUp (g : LaneNo) (t : Fin 8) (cyc : Cyc) (s : State) : Host.Outcome State Fault Refusal :=
  done ((s.at cyc).gateLane g (fun s => onlyIf (decide (s.laneRate g < t.val)) (fun s => s.landStep g t cyc) s))

/-- LANE_STEP_DOWN (R68): a target below the rate in effect. -/
def execLaneStepDown (g : LaneNo) (t : Fin 8) (cyc : Cyc) (s : State) : Host.Outcome State Fault Refusal :=
  done ((s.at cyc).gateLane g (fun s => onlyIf (decide (t.val < s.laneRate g)) (fun s => s.landStep g t cyc) s))

/-- Firmware records agreement on a module lane (R69); ignored on pair lanes. -/
def State.cmisAgreed (s : State) (g : Nat) : State := if isPairLane g then s else s.wr F.lanStatAgreed 1 g

/-- CMIS_AGREED (R69). -/
def execCmisAgreed (g : LaneNo) (cyc : Cyc) (s : State) : Host.Outcome State Fault Refusal :=
  done ((s.at cyc).gateLane g (fun s => s.cmisAgreed g))

/-- The receiver of a lane is powered (R45, R84): the lane is enabled and no shed is in force. -/
def State.hearing (s : State) (g : Nat) : Bool := s.on F.lanCtrlEnable g && !s.pwr.shed

/-- CDR_LOCK (R70): the CDR of a powered receiver locks; a lane in locking trains at the next edge. -/
def execCdrLock (g : LaneNo) (s : State) : Host.Outcome State Fault Refusal :=
  done (onlyIf (s.hearing g) (fun s =>
    let s := s.wr F.lanStatCdrLock 1 g
    onlyIf (decide (s.laneState g = 1)) (fun s => s.schedule (s.tick + 1) (.laneTrain g)) s) s)

/-- LOCK_TIMEOUT (R70): still locking 4 ticks after the rate change. -/
def execLockTimeout (g : LaneNo) (s : State) : Host.Outcome State Fault Refusal :=
  done (onlyIf (decide (s.laneState g = 1 ∧ (s.lane g).since + 4 ≤ s.tick)) (fun s => s.failLane g 1) s)

/-- TRAINING_DONE (R70): training ends; checking starts at the next edge. -/
def execTrainingDone (g : LaneNo) (s : State) : Host.Outcome State Fault Refusal :=
  done (onlyIf (decide (s.laneState g = 2) && !(s.lane g).trained) (fun s =>
    (s.modLane g (fun l => { l with trained := true })).schedule (s.tick + 1) (.laneCheck g)) s)

/-- TRAINING_TIMEOUT (R70): training has not ended 128 ticks after it began. -/
def execTrainingTimeout (g : LaneNo) (s : State) : Host.Outcome State Fault Refusal :=
  done (onlyIf (decide (s.laneState g = 2 ∧ (s.lane g).since + 128 ≤ s.tick)) (fun s => s.failLane g 2) s)

/-- CHECK_DONE (R71): chk_ticks after checking began, the pass limit is applied; a pair lane also needs its partner's
check to have passed. -/
def execCheckDone (g : LaneNo) (s : State) : Host.Outcome State Fault Refusal :=
  done (onlyIf (decide (s.laneState g = 3 ∧ (s.lane g).since + (s.lane g).chkTicks ≤ s.tick)) (fun s =>
    if !s.checkPasses g then s.failLane g 3
    else if isPairLane g && !(s.lane g).partnerPass then s.failLane g 5
    else (s.enterLane g 4).modLane g (fun l => { l with passed := true })) s)

/-- LOS (R70, R84): the input falls below signal detect. A lane in bring-up fails at the next edge. -/
def execLos (g : LaneNo) (s : State) : Host.Outcome State Fault Refusal :=
  done (onlyIf (!s.on F.lanStatLos g) (fun s => (s.wr F.lanStatLos 1 g).count .lan g 3) s)

/-- LOS_CLEAR (R84): the input rises above signal detect. -/
def execLosClear (g : LaneNo) (s : State) : Host.Outcome State Fault Refusal :=
  done (s.wr F.lanStatLos 0 g)

/-- CDR_LOCK_LOSS (R84): the CDR loses lock, which is counted. -/
def execCdrLockLoss (g : LaneNo) (s : State) : Host.Outcome State Fault Refusal :=
  done (onlyIf (s.on F.lanStatCdrLock g) (fun s =>
    ((s.wr F.lanStatCdrLock 0 g).bumpReg F.lanSnrCdrLosses 1 g).count .lan g 2) s)

/-- FFE_COEFF_REQUEST (R66): tap 1 pre, 2 main, 3 post; up for an increment. -/
def execFfeCoeffRequest (g : LaneNo) (tap : Fin 4) (up : Bool) (s : State) : Host.Outcome State Fault Refusal :=
  done (s.ffeRequest g tap (if up then 1 else 2))

/-- FFE_WRITE (R64). -/
def execFfeWrite (g : LaneNo) (w : Word) (cyc : Cyc) (s : State) : Host.Outcome State Fault Refusal :=
  done ((s.at cyc).gateLane g (fun s => s.landFfe g w cyc))

/-- The word boundary moves one UI later, modulo 64 at NRZ and 32 at PAM4 rates (R75). -/
def State.slipOne (s : State) (g : Nat) : State :=
  let ui := if isPam4 (s.laneRate g) then 2 else 1
  let s := s.modLane g (fun l => { l with slips := l.slips + 1, elSkip := l.elSkip + ui })
  (s.showPosition g).slipHunt g

/-- SLIP (R75). -/
def execSlip (g : LaneNo) (s : State) : Host.Outcome State Fault Refusal := done (s.gateLane g (fun s => s.slipOne g))

/-- A LAN_SLIP_CFG write lands (R73, R84, R385): a period below 16 acts as 16, and reads 16 (DESIGN CHOICE, log entry 50);
that of a Flue lane ignores writes. -/
def State.landPeriod (s : State) (g period : Nat) : State :=
  if isPairLane g then s else (s.wr F.lanSlipCfgPeriod (max 16 period) g).slipHunt g

/-- SLIP_PERIOD_WRITE (R73, R84). -/
def execSlipPeriodWrite (g : LaneNo) (period : Fin 65536) (s : State) : Host.Outcome State Fault Refusal :=
  done (s.gateLane g (fun s => s.landPeriod g period))

/-- A LAN_PRBS write lands (R80, R84): clear acts at once; the other fields form the pending copy. -/
def State.landPrbs (s : State) (g : Nat) (w : Word) (cyc : Nat) : State :=
  let s := if getF w 8 1 = 1 then
      (s.modLane g (fun l => { l with chk := { l.chk with errors := 0, bits := 0 } })).wr F.lanSnrCdrLosses 0 g
    else s
  s.putCopy (keyOf F.lanPrbsTxPattern g) (w &&& 0xF7) cyc

/-- A copy of LAN_PRBS takes effect (R84): a checker switched on starts to look for its lock, one switched off holds
none. -/
def State.commitPrbs (s : State) (g : Nat) (w : Word) : State :=
  let was := s.checkerRuns g
  let k := keyOf F.lanPrbsTxPattern g
  let s := s.setWord k (mergeF 0xF7 (s.word k) w)
  if s.checkerRuns g && was then s else s.setChk g (s.lane g).chk.restart

/-- PRBS_CLEAR (R80, R84): a LAN_PRBS write with clear = 1. -/
def execPrbsClear (g : LaneNo) (w : Word) (cyc : Cyc) (s : State) : Host.Outcome State Fault Refusal :=
  done ((s.at cyc).gateLane g (fun s => s.landPrbs g (w ||| 0x100) cyc))

/-- LANE_ERR_READ (R80): LAN_ERR_LO is read, and the three registers after it latch. -/
def execLaneErrRead (g : LaneNo) (s : State) : Host.Outcome State Fault Refusal :=
  let l := (s.lane g).chk
  done (if (if isPairLane g then s.ready .flu else s.ready .lan g) then
    let s := ((s.wr F.lanErrHiErrHi (l.errors / 2 ^ 32) g).wr F.lanBitsLoBitsLo l.bits g).wr
      F.lanBitsHiBitsHi (l.bits / 2 ^ 32) g
    s.emit (.read [BitVec.ofNat 32 l.errors])
  else s.emit (.read [0]))

/-- LOOPBACK_NEAR_END (R82). -/
def execLoopbackNearEnd (g : LaneNo) (ne : Bool) (cyc : Cyc) (s : State) : Host.Outcome State Fault Refusal :=
  done ((s.at cyc).gateLane g (fun s => s.landLoop g 1 ne cyc))

/-- LOOPBACK_FAR_END (R82). -/
def execLoopbackFarEnd (g : LaneNo) (ne : Bool) (cyc : Cyc) (s : State) : Host.Outcome State Fault Refusal :=
  done ((s.at cyc).gateLane g (fun s => s.landLoop g 2 ne cyc))

/-- LOOPBACK_OFF (R82). -/
def execLoopbackOff (g : LaneNo) (ne : Bool) (cyc : Cyc) (s : State) : Host.Outcome State Fault Refusal :=
  done ((s.at cyc).gateLane g (fun s => s.landLoop g 0 ne cyc))

end Sys2Proof.Machine
end

