-- ==== Sys2Proof/Machine/Forwarding.lean ====
section
/-! DEFINITION. Classification and learning (R125 to R148): the device forwarding table, the learn caches, the domain
table, aging, and the commands of the forwarding window. -/

namespace Sys2Proof.Machine

open Sys2Proof

/-! ### CRC-32C (R134) -/

/-- One bit of CRC-32C, reflected. -/
def crc32cBit (c : Word) : Word := if c.getLsbD 0 then (c >>> 1) ^^^ 0x82F63B78 else c >>> 1

/-- CRC-32C over bytes. -/
def crc32c (bs : List Byte) : Word :=
  ~~~ (bs.foldl (fun c b => (List.range 8).foldl (fun c _ => crc32cBit c) (c ^^^ b.zeroExtend 32)) (0xFFFFFFFF : Word))

/-- The string hashed for a key: a 32-bit seed, the domain as 2 bytes, the address (R134). -/
def hashString (seed : Word) (domain mac : Nat) : List Byte :=
  beBytes 4 seed.toNat ++ beBytes 2 domain ++ beBytes 6 mac

/-! ### The device table (R132 to R139) -/

/-- The bucket of a key (R134). -/
def State.fwdBucket (s : State) (domain mac : Nat) : Nat := (crc32c (hashString s.fwd.seed domain mac)).toNat % 16384

/-- Entry `i` of the device table. -/
def State.fwdEnt (s : State) (i : Nat) : Option FwdEnt := nget none s.fwd.tab i

/-- The indices of a key's bucket, lowest way first. -/
def State.fwdWays (s : State) (domain mac : Nat) : List Nat :=
  (List.range 4).map (s.fwdBucket domain mac * 4 + ·)

/-- The index of a key in the device table. -/
def State.fwdFind (s : State) (domain mac : Nat) : Option Nat :=
  (s.fwdWays domain mac).find? (fun i => match s.fwdEnt i with
    | some e => decide (e.domain = domain ∧ e.mac = mac)
    | none => false)

/-- Every cached copy of a key is invalidated in all 8 caches (R135). -/
def State.lrcInvalidate (s : State) (domain mac : Nat) : State :=
  let hit := fun (e : Nat × Option FwdEnt) => match e.2 with
    | some x => decide (x.domain = domain ∧ x.mac = mac)
    | none => false
  let gone := s.fwd.cache.filter hit
  forL gone (fun e s => s.count .lrc (e.1 / 4096) 5)
    { s with fwd := { s.fwd with cache := s.fwd.cache.filter (fun e => !hit e) } }

/-- The state with a table entry replaced. -/
def State.fwdSet (s : State) (i : Nat) (e : Option FwdEnt) : State :=
  { s with fwd := { s.fwd with tab := nset none s.fwd.tab i e } }

/-- A table entry changed in what a lookup sees: its cached copies go first (R135). -/
def State.fwdPut (s : State) (i : Nat) (e : Option FwdEnt) : State :=
  (match s.fwdEnt i with
    | some x => s.lrcInvalidate x.domain x.mac
    | none => s).fwdSet i e

/-- Domain `d` in effect. -/
def State.dom (s : State) (d : Nat) : Domain := nget {} s.fwd.doms d

/-- The way an insert evicts from a full bucket (R139): the oldest non-static entry, the lowest way on a tie, or a
non-static entry drawn from the DRBG; none where all four are static. -/
def State.fwdVictim (s : State) (domain mac : Nat) : Option Nat :=
  let ways := (s.fwdWays domain mac).filterMap (fun i => match s.fwdEnt i with
    | some e => if e.isStatic then none else some (i, e.age)
    | none => none)
  if (s.dom domain).evictRandom then
    (ways[(s.free 32).toNat % max 1 ways.length]?).map (·.1)
  else (ways.foldl (fun (b : Option (Nat × Nat)) w => match b with
    | none => some w
    | some x => if x.2 < w.2 then some w else some x) none).map (·.1)

/-- An entry stored (R139, R142): over its own key (2), in a free way (0), over an evicted entry (7), or not at all
where every way is static (3). -/
def State.fwdInsert (s : State) (e : FwdEnt) : State × Nat :=
  match s.fwdFind e.domain e.mac with
  | some i => (s.fwdPut i (some e), 2)
  | none =>
    match (s.fwdWays e.domain e.mac).find? (fun i => (s.fwdEnt i).isNone) with
    | some i => (s.fwdPut i (some e), 0)
    | none =>
      match s.fwdVictim e.domain e.mac with
      | some i =>
        let rnd := (s.dom e.domain).evictRandom
        (((s.burn (b2n rnd)).fwdPut i (some e)).count .fwd 0 (if rnd then 7 else 6), 7)
      | none => (s.count .fwd 0 8, 3)

/-! ### Learning (R131 to R133, R144) -/

/-- Whether a FLUSH_BY_PORT of association `a`'s cipher port is under way (R144). -/
def State.flushing (s : State) (a : Nat) : Bool :=
  match s.fwd.cmd with
  | some c => decide (c.op = 5 ∧ c.port = (s.asn a).port)
  | none => false

/-- The learns and moves of the present core cycle that have taken a write slot (R133). -/
def State.writesNow (s : State) : Nat := if s.fwd.writeAt = s.now then s.fwd.writes else 0

/-- A learn or move takes one of the 4 write slots of its core cycle, or is dropped (R133); so is one toward an association
of a port that is being flushed (R144). -/
def State.writeSlot (s : State) (b : Nat) (f : State → State) : State :=
  if 4 ≤ s.writesNow || s.flushing b then s.count .fwd 0 4
  else f { s with fwd := { s.fwd with writeAt := s.now, writes := s.writesNow + 1 } }

/-- A source address learned for a frame decrypted on association `a` (R131, R132). `bindTo` is the association that
the entry is bound to: `a` itself, or the one a group association resolves to (R214); none where it resolves to none. -/
def State.learn (s : State) (a : Nat) (bindTo : Option Nat) (sa : Nat) : State :=
  let e := s.asn a
  let d := s.dom e.domain
  match bindTo with
  | none => s.count .fwd 0 5
  | some b =>
    if bit sa 40 || !e.domainValid || !d.valid || !d.learn || !s.on F.fwdCtlLearnEn then s.count .fwd 0 5
    else match s.fwdFind e.domain sa with
      | some i => match s.fwdEnt i with
        | some x =>
          if x.assoc = b then s.fwdSet i (some { x with hit := true })
          else if x.isStatic then s.count .fwd 0 3
          else s.writeSlot b (fun s => (s.fwdPut i (some { x with assoc := b, age := 0, hit := true })).count .fwd 0 2)
        | none => s
      | none =>
        s.writeSlot b (fun s =>
          let (s', r) := s.fwdInsert { mac := sa, domain := e.domain, assoc := b }
          if r = 3 then s' else s'.count .fwd 0 1)

/-! ### The learn caches (R135 to R137) -/

/-- The seed in use in the cache of Chimney `c`. -/
def State.lrcSeed (s : State) (c : Nat) : Word := nget 0 s.fwd.cacheSeed c

/-- The candidate indices of a key in a cache under a seed: the h0 ways, then the h1 ways (R135, R136). -/
def lrcWays (seed : Word) (c domain mac : Nat) : List Nat :=
  let h := (crc32c (hashString seed domain mac)).toNat
  let h0 := h % 1024
  let h1 := h / 2 ^ 16 % 1024
  let ways := fun b => (List.range 4).map (fun w => c * 4096 + b * 4 + w)
  if h0 = h1 then ways h0 else ways h0 ++ ways h1

/-- A lookup in the cache of Chimney `c`. -/
def State.lrcLookup (s : State) (c domain mac : Nat) : Option FwdEnt :=
  (lrcWays (s.lrcSeed c) c domain mac).findSome? (fun i => match nget none s.fwd.cache i with
    | some e => if e.domain = domain ∧ e.mac = mac then some e else none
    | none => none)

/-- Whether the cache of Chimney `c` answers lookups (R137, R148). -/
def State.lrcOn (s : State) (c : Nat) : Bool := s.on F.lrcCtlEnable c && !s.on F.lrcStatRehashBusy c

/-- CACHE_INSERT (R136): the first free candidate way, or an insert failure that asks for a rehash. -/
def State.lrcInsert (s : State) (c : Nat) (e : FwdEnt) : State :=
  match (lrcWays (s.lrcSeed c) c e.domain e.mac).find? (fun i => (nget none s.fwd.cache i).isNone) with
  | some i => { s with fwd := { s.fwd with cache := nset none s.fwd.cache i (some e) } }
  | none =>
    let s := (s.count .lrc c 4).bumpReg F.lrcStatInsertFail 1 c
    if s.on F.lrcStatRehashReq c then s
    else ((s.wr F.lrcStatRehashReq 1 c).raiseBit .lrc c 13).irq .lrc c

/-- The entries of a cache, in index order. -/
def State.lrcEntries (s : State) (c : Nat) : List (Nat × FwdEnt) :=
  s.fwd.cache.filterMap (fun e => if e.1 / 4096 = c then e.2.map (fun x => (e.1, x)) else none)

/-! ### Choosing the association (R125 to R129) -/

/-- The outer VLAN ID of a frame, 0 when it is untagged (R126). -/
def outerVid (bs : List Byte) : Nat :=
  let t := beAt bs 12 2
  if t = 0x8100 ∨ t = 0x88A8 then beAt bs 14 2 % 4096 else 0

/-- The valid domain of a key (R126). -/
def State.domFind (s : State) (group vid : Nat) : Option Nat :=
  (s.fwd.doms.find? (fun e => e.2.valid && decide (e.2.group = group ∧ e.2.vid = vid))).map (·.1)

/-- The configuration that R127 and R227 judge a frame by, in effect when its first byte came: that before the last edge
for one that spans it. -/
def State.atFirst (s : State) (f : RxFrame) : State :=
  if f.span.val ≤ s.cycle then s else { s with regs := s.fwd.oldRegs, fwd := { s.fwd with doms := s.fwd.oldDoms } }

/-- The configuration of R127, R227 and R421 kept as an edge begins. -/
def State.keepTables (s : State) : State :=
  let kept := fun (k : RegKey) => decide (k.page = .fwd) || (decide (k.page = .tsu) && decide (0x400 ≤ k.off)) || (decide (k.page = .sea) && decide (0x120 ≤ k.off ∧ k.off < 0x130))
  { s with fwd := { s.fwd with oldRegs := s.regs.filter (fun e => kept e.1)
                               oldDoms := s.fwd.doms
                               oldStates := s.assocs.m.map (fun e => (e.1, e.2.state)) } }

/-- A frame that came in part before the last edge, with its association then in a state that `p` allows: it was admitted
before that edge and not yet begun at it (R157). -/
def State.cutOff (s : State) (f : RxFrame) (a : Nat) (p : AState → Bool) : Bool :=
  decide (s.cycle < f.span.val) && s.fwd.oldStates.any (fun e => decide (e.1 = a) && p e.2)

/-- A classification: the association chosen, or a drop before admission (R128). `v` holds the port map and the domain
table that the frame is judged by (R127). -/
def State.classify (s v : State) (p : Nat) (bs : List Byte) : State × Option Nat :=
  let drop := (s.count .fwd 0 12, none)
  match v.rd (F.fwdPmapMode.at p) with
  | 1 => (s, some (v.rd (F.fwdPmapP2pAssoc.at p)))
  | 2 =>
    let vid := if v.on (F.fwdPmapVidKey.at p) then outerVid bs else 0
    match v.domFind (v.rd (F.fwdPmapGroup.at p)) vid with
    | none => drop
    | some d =>
      let da := beAt bs 0 6
      let c := p / 18
      let dm := v.dom d
      if bit da 40 then (s.count .fwd 0 11, some dm.groupAssoc)
      else
        let s := if s.lrcOn c then s.count .lrc c 1 else s.count .lrc c 7
        match (if s.lrcOn c then s.lrcLookup c d da else none) with
        | some e => (s.count .lrc c 2, some e.assoc)
        | none =>
          let s := onlyIf (s.lrcOn c) (fun s => s.count .lrc c 3) s
          match (s.fwdFind d da).bind s.fwdEnt with
          | some e => (onlyIf (s.on F.lrcCtlEnable c) (fun s => s.lrcInsert c e) s, some e.assoc)
          | none =>
            if dm.unknownFwd then (s.count .fwd 0 10, some dm.groupAssoc) else (s.count .fwd 0 12, none)
  | _ => drop

/-! ### Aging (R140, R141) -/

/-- One entry at an aging edge (R140). -/
def State.ageEntry (i : Nat) (s : State) : State :=
  match s.fwdEnt i with
  | none => s
  | some e =>
    let m := (s.dom e.domain).ageMax
    if e.isStatic || decide (m = 0) then s
    else if e.hit then s.fwdSet i (some { e with age := 0, hit := false })
    else
      let a := min 15 (e.age + 1)
      if m ≤ a then (s.fwdPut i none).count .fwd 0 9 else s.fwdSet i (some { e with age := a })

/-- Whether the present edge is an aging edge (R140). -/
def State.isAgingEdge (s : State) : Bool := decide (s.tick % max 1 (s.rd F.fwdCtlAgePeriod) = 0)

/-- Aging of every entry, once at an aging edge (R140). -/
def State.ageAll (s : State) : State :=
  if s.isAgingEdge && decide (s.fwd.agedAt ≠ some s.tick) then
    let s := forL (s.fwd.tab.map (·.1)) State.ageEntry s
    { s with fwd := { s.fwd with agedAt := some s.tick } }
  else s

/-- The non-static entries bound to an association that entered IDLE, DEAD or QUENCHED at this edge are removed
(R141). `pre` is the association table before the edge. -/
def State.ageOutDead (pre : AsnTable) (s : State) : State :=
  forL (s.fwd.tab.map (·.1)) (fun i s => match s.fwdEnt i with
    | some e =>
      if !e.isStatic && (s.asn e.assoc).state.keyless && decide ((s.asn e.assoc).state ≠ (pre.get e.assoc).state) then
        (s.fwdPut i none).count .fwd 0 9
      else s
    | none => s) s

/-! ### Domain writes (R126) -/

/-- Whether a domain's key clashes with a valid domain other than `d` of a table. -/
def domClash (m : List (Nat × Domain)) (d : Nat) (x : Domain) : Bool :=
  x.valid && m.any (fun e => decide (e.1 ≠ d) && e.2.valid && decide (e.2.group = x.group ∧ e.2.vid = x.vid))

/-- The domain table once a DOMAIN_WRITE has acted: unchanged where it would give a second valid domain its key. -/
def domAct (m : List (Nat × Domain)) (d : Nat) (x : Domain) : List (Nat × Domain) :=
  if domClash m d x then m else nset {} m d x

/-- The domains as they will stand once every pending DOMAIN_WRITE but one to domain `d` has acted. -/
def State.domsAhead (s : State) (d : Nat) : List (Nat × Domain) :=
  s.sched.foldl (fun m e => match e.act with
    | .domWrite i x => if i = d then m else domAct m i x
    | _ => m) s.fwd.doms

/-- DOMAIN_WRITE_APPLY (R126): a pending domain acts at its edge, or is discarded. -/
def State.applyDomain (s : State) (d : Nat) (x : Domain) : State :=
  let s := onlyIf (domClash s.fwd.doms d x) (fun s => s.wr F.fwdStatDomDiscarded 1) s
  { s with fwd := { s.fwd with doms := domAct s.fwd.doms d x } }

/-! ### The forwarding window (R142, R147) -/

/-- The operands of a command as the window registers hold them (R142). -/
def State.fwdCapture (s : State) (op : Nat) : FwdCmd :=
  { op := op
    mac := s.rd F.fwdWinKey1MacHi * 2 ^ 32 + s.rd F.fwdWinKey0MacLo
    domain := s.rd F.fwdWinKey1Domain
    assoc := s.rd F.fwdWinDataAssoc
    isStatic := s.on F.fwdWinDataStatic
    cursor := s.rd F.fwdWinCursorIndex
    dom := { vid := s.rd F.fwdWinDom0Vid, group := s.rd F.fwdWinDom0Group, valid := s.on F.fwdWinDom0Valid
             learn := s.on F.fwdWinDom0Learn, unknownFwd := s.on F.fwdWinDom0UnknownFwd
             evictRandom := s.on F.fwdWinDom0EvictRandom, ageMax := s.rd F.fwdWinDom0AgeMax
             groupAssoc := s.rd F.fwdWinDom1GroupAssoc } }

/-- The window's result (R147). -/
def State.fwdResult (s : State) (r : Nat) : State := (s.wr F.fwdWinStatBusy 0).wr F.fwdWinStatResult r

/-- A command write lands in the window (R52, R142): ignored while a command runs. -/
def State.fwdLand (s : State) (f : State → State) : State :=
  s.gate .fwd 0 (fun s => if s.on F.fwdWinStatBusy then s.wr F.fwdWinStatCmdLost 1 else f s)

/-- A command starts (R142). -/
def State.fwdStart (s : State) (c : FwdCmd) : State :=
  { s.wr F.fwdWinStatBusy 1 with fwd := { s.fwd with cmd := some c } }

/-- A command that the standby refuses (R393). -/
def State.fwdStartActive (s : State) (c : FwdCmd) : State :=
  if s.effMode = 5 then s.fwdResult 6 else s.fwdStart c

/-- The entry returned by SEARCH or NEXT, in FWD_WIN_DATA. -/
def State.fwdReturn (s : State) (e : Option FwdEnt) : State :=
  match e with
  | some e =>
    ((((s.wr F.fwdWinDataAssoc e.assoc).wr F.fwdWinDataStatic (b2n e.isStatic)).wr F.fwdWinDataAge e.age).wr
      F.fwdWinDataHit (b2n e.hit)).wr F.fwdWinDataValid 1
  | none => s.wr F.fwdWinDataValid 0

/-- NEXT (R142, R143): the first valid entry among the 1,024 indices from the cursor. -/
def State.fwdNextAt (s : State) (cursor : Nat) : State :=
  let idx := (List.range 1024).map (cursor + ·)
  match idx.findSome? (fun i => if i < 65536 then (s.fwdEnt i).map (fun e => (i, e)) else none) with
  | some (i, e) =>
    ((((s.fwdReturn (some e)).wr F.fwdWinKey0MacLo e.mac).wr F.fwdWinKey1MacHi (e.mac / 2 ^ 32)).wr F.fwdWinKey1Domain
      e.domain).wr F.fwdWinCursorIndex (i + 1) |>.fwdResult 0
  | none =>
    let n := min 65536 (cursor + 1024)
    ((s.fwdReturn none).wr F.fwdWinCursorIndex n).fwdResult (if n = 65536 then 4 else 5)

/-- FLUSH_BY_PORT at its completion (R142, R144). -/
def State.fwdFlush (s : State) (port : Nat) (all : Bool) : State :=
  let victims := s.fwd.tab.filterMap (fun e => match e.2 with
    | some x => if decide ((s.asn x.assoc).port = port) && (all || !x.isStatic) then some e.1 else none
    | none => none)
  ((forL victims (fun i s => s.fwdPut i none) s).wr F.fwdWinStatCount victims.length).fwdResult 0

/-- A running command completes (R142). -/
def State.fwdComplete (s : State) (c : FwdCmd) : State :=
  let s := { s with fwd := { s.fwd with cmd := none } }
  match c.op with
  | 1 => match (s.fwdFind c.domain c.mac).bind s.fwdEnt with
    | some e => (s.fwdReturn (some e)).fwdResult 0
    | none => (s.fwdReturn none).fwdResult 1
  | 2 => s.fwdNextAt c.cursor
  | 3 =>
    let (s, r) := s.fwdInsert { mac := c.mac, domain := c.domain, assoc := c.assoc, isStatic := c.isStatic }
    s.fwdResult r
  | 4 => match s.fwdFind c.domain c.mac with
    | some i => (s.fwdPut i none).fwdResult 0
    | none => s.fwdResult 1
  | 5 => s.fwdFlush c.port c.inclStatic
  | 6 =>
    let d := s.dom c.domain
    let s := (((s.wr F.fwdWinDom0Vid d.vid).wr F.fwdWinDom0Group d.group).wr F.fwdWinDom0Valid (b2n d.valid)).wr
      F.fwdWinDom0Learn (b2n d.learn)
    let s := ((s.wr F.fwdWinDom0UnknownFwd (b2n d.unknownFwd)).wr F.fwdWinDom0EvictRandom (b2n d.evictRandom)).wr
      F.fwdWinDom0AgeMax d.ageMax
    (s.wr F.fwdWinDom1GroupAssoc d.groupAssoc).fwdResult 0
  | _ => s.fwdResult 0

/-! ### The commands -/

/-- FWD_SEARCH (R142). -/
def execFwdSearch (cyc : Cyc) (s : State) : Host.Outcome State Fault Refusal :=
  done ((s.at cyc).fwdLand (fun s => s.fwdStart (s.fwdCapture 1)))

/-- FWD_NEXT (R143). -/
def execFwdNext (cyc : Cyc) (s : State) : Host.Outcome State Fault Refusal :=
  done ((s.at cyc).fwdLand (fun s => s.fwdStart (s.fwdCapture 2)))

/-- FWD_INSERT (R142): refused in STANDBY (R393). -/
def execFwdInsert (cyc : Cyc) (s : State) : Host.Outcome State Fault Refusal :=
  done ((s.at cyc).fwdLand (fun s => s.fwdStartActive (s.fwdCapture 3)))

/-- FWD_DELETE (R142): refused in STANDBY (R393). -/
def execFwdDelete (cyc : Cyc) (s : State) : Host.Outcome State Fault Refusal :=
  done ((s.at cyc).fwdLand (fun s => s.fwdStartActive (s.fwdCapture 4)))

/-- FLUSH_BY_PORT (R144): refused in STANDBY (R393). -/
def execFlushByPort (port : Byte) (inclStatic : Bool) (cyc : Cyc) (s : State) : Host.Outcome State Fault Refusal :=
  done ((s.at cyc).fwdLand (fun s =>
    s.fwdStartActive { s.fwdCapture 5 with port := port.toNat, inclStatic := inclStatic }))

/-- DOMAIN_READ (R142). -/
def execDomainRead (cyc : Cyc) (s : State) : Host.Outcome State Fault Refusal :=
  done ((s.at cyc).fwdLand (fun s => s.fwdStart (s.fwdCapture 6)))

/-- DOMAIN_WRITE (R126, R142): judged at landing; it replaces one still pending for its domain and acts at its edge.
Refused in STANDBY (R393). -/
def State.landDomain (s : State) (cyc : Nat) : State :=
  let c := s.fwdCapture 7
  if s.effMode = 5 || domClash (s.domsAhead c.domain) c.domain c.dom then s.fwdResult 6
  else
    let s := { s with sched := s.sched.filter (fun e => match e.act with
      | .domWrite d _ => decide (d ≠ c.domain)
      | _ => true) }
    (s.schedule (s.edgeFor cyc) (.domWrite c.domain c.dom)).fwdStart c

/-- DOMAIN_WRITE (R126, R142). -/
def execDomainWrite (cyc : Cyc) (s : State) : Host.Outcome State Fault Refusal :=
  done ((s.at cyc).fwdLand (fun s => s.landDomain cyc))

/-- FWD_UNKNOWN_OP (R142): codes 0 and 8 to 15 do nothing and return refused. -/
def execFwdUnknownOp (cyc : Cyc) (s : State) : Host.Outcome State Fault Refusal :=
  done ((s.at cyc).fwdLand (fun s => s.fwdResult 6))

/-- FWD_CMD_COMPLETE (R142): the running command acts and returns. -/
def execFwdCmdComplete (s : State) : Host.Outcome State Fault Refusal :=
  done (match s.fwd.cmd with
    | some c => s.fwdComplete c
    | none => s)

/-- AGING_EDGE (R140): the aging of an aging edge, where the edge itself has not done it. -/
def execAgingEdge (s : State) : Host.Outcome State Fault Refusal := done s.ageAll

/-- A rehash begins (R137, R148): LRC_SEED is loaded and the cache answers no lookup until the rehash is done. -/
def State.lrcRehash (s : State) (c : Nat) : State :=
  if s.on F.lrcStatRehashBusy c then s
  else
    let seed := BitVec.ofNat 32 (s.rd F.lrcSeedSeed c)
    { s.wr F.lrcStatRehashBusy 1 c with fwd := { s.fwd with cacheSeed := nset 0 s.fwd.cacheSeed c seed } }

/-- LRC_REHASH (R137, R148). -/
def execLrcRehash (c : ChimneyNo) (cyc : Cyc) (s : State) : Host.Outcome State Fault Refusal :=
  done ((s.at cyc).gate .lrc c (fun s => s.lrcRehash c))

/-- LRC_REHASH_DONE (R137): every entry placed again under the new seed in index order; one that finds no free way is
dropped and counted. -/
def execLrcRehashDone (c : ChimneyNo) (s : State) : Host.Outcome State Fault Refusal :=
  done (if s.on F.lrcStatRehashBusy c then
    let old := s.lrcEntries c
    let s := { s with fwd := { s.fwd with cache := s.fwd.cache.filter (fun e => decide (e.1 / 4096 ≠ c.val)) } }
    let s := forL old (fun e s =>
      match (lrcWays (s.lrcSeed c) c e.2.domain e.2.mac).find? (fun i => (nget none s.fwd.cache i).isNone) with
      | some i => { s with fwd := { s.fwd with cache := nset none s.fwd.cache i (some e.2) } }
      | none => s.count .lrc c 6) s
    (s.wr F.lrcStatRehashBusy 0 c).wr F.lrcStatInsertFail 0 c
  else s)

/-- The cache of Chimney `c` emptied (R148). -/
def State.lrcFlush (s : State) (c : Nat) : State :=
  { s with fwd := { s.fwd with cache := s.fwd.cache.filter (fun e => decide (e.1 / 4096 ≠ c)) } }

/-- LRC_FLUSH (R148). -/
def execLrcFlush (c : ChimneyNo) (cyc : Cyc) (s : State) : Host.Outcome State Fault Refusal :=
  done ((s.at cyc).gate .lrc c (fun s => s.lrcFlush c))

end Sys2Proof.Machine
end

