-- ==== Sys2Proof/Machine/Ports.lean ====
section
/-! DEFINITION. Ports (R85 to R101, R102, R103, R112 to R119): how lanes form a port, the defects of Ethernet and OTN
ports, and the windows that judge tag failures. -/

namespace Sys2Proof.Machine

open Sys2Proof

/-! ### Forming a port -/

/-- The lanes of a port: 1, 2, 4 or 8 (R85, R101). -/
def State.portWidth (s : State) (p : Nat) : Nat := 2 ^ s.rd F.prtCfgWidth p
/-- Whether port `p` is enabled. -/
def State.portOn (s : State) (p : Nat) : Bool := s.on F.prtCfgEnable p
/-- Whether port `p` is an OTN port. -/
def State.portOtn (s : State) (p : Nat) : Bool := s.on F.prtCfgKind p
/-- Whether port `p` faces the cipher side (R88). -/
def State.portCipher (s : State) (p : Nat) : Bool := s.on F.prtCfgSide p

/-- The enabled port that lane `g` belongs to, if any (R85). -/
def State.portOfLane (s : State) (g : Nat) : Option Nat :=
  ((List.range 8).find? (fun d => decide (d ≤ g % 18) && s.portOn (g - d) && decide (d < s.portWidth (g - d)))).map
    (fun d => g - d)

/-- Whether lane `g` is a lane of a port of lower first lane (R85). -/
def State.isMember (s : State) (g : Nat) : Bool :=
  match s.portOfLane g with
  | some p => decide (p ≠ g)
  | none => false

/-- The width and lane rate of an Ethernet PCS code (R89): its lanes and their rate code. -/
def pcsRow : Nat → Option (Nat × Nat)
  | 1 => some (4, 1) | 2 => some (2, 3) | 3 => some (1, 5) | 4 => some (4, 3) | 5 => some (2, 5) | 6 => some (1, 6)
  | 7 => some (8, 3) | 8 => some (4, 5) | 9 => some (2, 6) | 10 => some (8, 5) | 11 => some (4, 6) | 12 => some (8, 6)
  | _ => none

/-- The lane rate of an OTN mode at a width, where a row of R102 has both. -/
def otnRow (mode width : Nat) : Option Nat :=
  match mode, width with
  | 1, 4 => some 2 | 2, 2 => some 4 | 3, 1 => some 5
  | 4, 2 => some 5 | 4, 1 => some 6 | 5, 4 => some 5 | 5, 2 => some 6 | 6, 8 => some 5 | 6, 4 => some 6
  | _, _ => none

/-- The lane class of an OTN mode (R102); none where the mode names no interface (R103). -/
def otnClass : Nat → Option Nat
  | 1 => some 1
  | 2 => some 2
  | 3 | 4 | 5 | 6 => some 0
  | _ => none

/-- The lane rate that port `p` needs (R89, R102). -/
def State.portRate (s : State) (p : Nat) : Option Nat :=
  if s.portOtn p then otnRow (s.rd F.otfCfgMode p) (s.portWidth p)
  else (pcsRow (s.rd F.prtCfgPcs p)).map (·.2)

/-- The lanes `p` to `p + w - 1`. -/
def lanesFrom (p w : Nat) : List Nat := (List.range w).map (p + ·)

/-- The first check that refuses a PRT_CFG write for port `p`, as reject_cause names it; 0 when none does (R86, R87,
R103). `rivals` are the lanes of ports of lower j that the same edge enables. -/
def State.portCause (s : State) (p : Nat) (w : Word) (rivals : List Nat) : Nat :=
  let j := p % 18
  let width := 2 ^ getF w 2 2
  let otn := getF w 1 1 = 1
  let ls := lanesFrom p width
  let clash := ls.any (fun g => rivals.contains g || (match s.portOfLane g with
    | some q => decide (q ≠ p)
    | none => false))
  let mode := s.rd F.otfCfgMode p
  let wrongClass := ls.any (fun g =>
    if otn then (match otnClass mode with
      | some c => decide (s.rd F.lanCtrlClass g ≠ c)
      | none => false)
    else decide (s.rd F.lanCtrlClass g ≠ 0))
  let wrongPcs := if otn then (otnRow mode width).isNone || ls.any (fun g => decide (some (s.laneRate g) ≠ otnRow mode width))
    else (pcsRow (getF w 4 4)).map (·.1) ≠ some width
  let looped := ls.any (fun g => decide (s.rd F.lanLoopMode g ≠ 0))
  let changes := decide (getF w 1 8 ≠ getF (s.word (keyOf F.prtCfgEnable p)) 1 8)
  if getF w 0 1 = 0 then 0
  else if j % width ≠ 0 ∨ 18 < j + width then 1
  else if clash then 2
  else if wrongClass then 3
  else if wrongPcs then 4
  else if looped then 5
  else if s.portOn p && changes then 6
  else 0

/-- A PRT_CFG write is refused: cfg_rejected and its cause (R87). -/
def State.refusePort (s : State) (p cause : Nat) : State :=
  (s.wr F.prtStatCfgRejected 1 p).wr F.prtStatRejectCause cause p

/-- The lanes of ports of lower j in the Chimney that copies due at edge `due` would enable (R87). -/
def State.rivalLanes (s : State) (p due : Nat) : List Nat :=
  s.sched.flatMap (fun e => match e.act with
    | .copy k w =>
      if k.page = .prt ∧ k.off = 0x100 ∧ e.due = due ∧ k.inst < p ∧ k.inst / 18 = p / 18 ∧ getF w 0 1 = 1 then
        lanesFrom k.inst (2 ^ getF w 2 2)
      else []
    | _ => [])

/-- A PRT_CFG write lands (R85 to R87). -/
def State.landPortCfg (s : State) (p : Nat) (w : Word) (cyc : Nat) : State :=
  if s.isMember p then s.refusePort p 2
  else match s.portCause p w (s.rivalLanes p (s.edgeFor cyc)) with
    | 0 => s.putCopy (keyOf F.prtCfgEnable p) (w &&& 0x1FF) cyc
    | c => s.refusePort p c

/-- What the port of `p` reports when it is off: nothing of its last service stays. -/
def State.clearPort (s : State) (p : Nat) : State :=
  let s := (((s.wr F.prtStatState 0 p).wr F.prtStatReported 0 p).wr F.prtDefRaw 0 p).wr F.otfDefRawHi 0 p
  let s := (((s.wr F.otfStatFrame 0 p).wr F.otfStatMframe 0 p).wr F.otfStatLanesLocked 0 p).wr F.otfStatFreeRun 0 p
  let s := (((s.wr F.otfTtiStatSmValid 0 p).wr F.otfTtiStatPmValid 0 p).wr F.otfTtiStatSmTim 0 p).wr F.otfTtiStatPmTim 0 p
  let s := (((s.wr F.seaStatSync 0 p).wr F.seaStatSealLos 0 p).wr F.seaStatArmed 0 p).wr F.seaStatMismatchRun 0 p
  { (s.setPort p {}).setOtnp p {} with seals := nset {} s.seals p {} }

/-- A PRT_CFG copy reaches its edge (R86, R87, R101). A copy with enable = 0 of a page that became a member at this edge
is refused with cause 2 like a write; the first window of R98 starts at the enabling edge (DESIGN CHOICE, log entry 53). -/
def State.commitPortCfg (s : State) (p : Nat) (w : Word) : State :=
  let was := s.portOn p
  let members := fun (s : State) (st : Nat) =>
    forN (s.portWidth p - 1) (fun i s => s.wr F.prtStatState st (p + i + 1)) s
  if s.isMember p then s.refusePort p 2
  else match s.portCause p w [] with
    | 0 =>
      let s := onlyIf (was && decide (getF w 0 1 = 0)) (fun s => members s 0) s
      let s := s.setWord (keyOf F.prtCfgEnable p) (w &&& 0x1FF)
      if getF w 0 1 = 0 then s.clearPort p
      else if was then s
      else
        let s := ((s.clearPort p).wr F.prtStatState 1 p).modPort p (fun r => { r with authFrom := s.tick })
        members s 6
    | c => s.refusePort p c

/-! ### Defects (R96, R112) -/

/-- Whether any lane of port `p` had lost its signal or was not ready at its rate (R96, R112 level 1) in `pre`, the state
at the end of the previous tick. -/
def State.portLos (pre s : State) (p : Nat) : Bool :=
  (lanesFrom p (s.portWidth p)).any (fun g =>
    pre.on F.lanStatLos g || decide (pre.laneState g ≠ 4) || decide (some (pre.laneRate g) ≠ s.portRate p))

/-- The defects of the PCS, levels 2 to 6, as bits (level − 1) (R96). -/
def pcsBits (i : PcsIn) : Nat :=
  2 * b2n (!i.blockLock) + 4 * b2n (!i.markerLock || decide (200 < i.skewNs.val)) + 8 * b2n i.highBer +
    16 * b2n i.localFault + 32 * b2n i.remoteFault

/-- What the PCS of a port saw in the tick that an edge ends (R91, R100). Without marker lock PRT_SKEW reads 0, and it
keeps its value while the port is off (DESIGN CHOICE, log entry 53). -/
def State.pcsMeasure (i : PcsIn) (s : State) : State :=
  let p := i.port.val
  let s := s.modPort p (fun r => { r with pcsRaw := pcsBits i })
  let sk := min 255 i.skewNs.val
  let s := if i.markerLock then s.wr F.prtSkewSkewNs (max sk (s.rd F.prtSkewSkewNs p)) p else s.wr F.prtSkewSkewNs 0 p
  ((s.count .prt p 9 i.cwCorrected).count .prt p 10 i.cwUncorrectable).count .prt p 11 i.symCorrected

/-- Whether an OTN mode is a FlexO interface (R102). -/
def isFlexo (mode : Nat) : Bool := decide (3 ≤ mode ∧ mode ≤ 6)

/-- The 20 logical lanes of an OTL interface are locked and name 20 distinct lanes (R109). -/
def OtnRt.otlAligned (r : OtnRt) : Bool :=
  let named := (List.range 20).map (fun i => ((nget {} r.lanes i).lock.map (fun c => c.llm % 20)))
  named.all (·.isSome) && decide (named.eraseDups.length = 20)

/-- The lanes of an OTN port are aligned (R109): on OTL the logical lanes, on FlexO the alignment markers. -/
def State.otnAligned (s : State) (p : Nat) : Bool :=
  if isFlexo (s.rd F.otfCfgMode p) then (s.otnp p).markersLocked else (s.otnp p).otlAligned

/-- What the framer of an OTN port saw in the tick that an edge ends (R109, R112). OTF_SKEW reads 0 without alignment
(DESIGN CHOICE, log entry 53). On FlexO, LOF is that of the FlexO frame (R111). -/
def State.otnMeasure (i : OtnIn) (s : State) : State :=
  let p := i.port.val
  let sk := min 255 i.skewNs.val
  let s := s.modOtnp p (fun r => { r with markersLocked := i.markersLocked, flexoLof := i.flexoLof
                                          otuAis := i.otuAis, skewNs := i.skewNs.val })
  let s := s.wr F.otfSkewSkewNs (if s.otnAligned p then max sk (s.rd F.otfSkewSkewNs p) else 0) p
  if !isFlexo (s.rd F.otfCfgMode p) then s
  else if i.flexoLof then s.wr F.otfStatFrame 3 p
  else if s.rd F.otfStatFrame p = 3 then
    s.wr F.otfStatFrame (if (s.otnp p).inFrame then 1 else if (s.otnp p).oofFrom.isSome then 2 else 0) p
  else s

/-- LOL (R109): the lanes are not aligned, or the skew is above 200 ns. -/
def State.otnLol (s : State) (p : Nat) : Bool := !s.otnAligned p || decide (200 < (s.otnp p).skewNs)

/-- The defects of an OTN port, bit (level − 1) (R112), with the lanes as the last tick left them. -/
def State.otnRaw (s : State) (p : Nat) (los : Bool) : Nat :=
  let r := s.otnp p
  let flexo := isFlexo (s.rd F.otfCfgMode p)
  b2n los + 2 * b2n (s.otnLol p) + 4 * b2n (if flexo then r.flexoLof else r.lof) + 8 * b2n r.lom +
    16 * b2n (!flexo && r.otuAis) + 32 * b2n r.maint +
    64 * b2n (s.on F.otfTtiStatSmTim p || s.on F.otfTtiStatPmTim p) +
    128 * b2n (s.portCipher p && s.on F.seaStatSealLos p) + 256 * b2n (s.portCipher p && (s.port p).sealAuth) +
    512 * b2n r.bdi

/-- The highest defect of a set: its level, 0 when there is none (R96). -/
def reportedOf (raw : Nat) : Nat :=
  match (List.range 10).find? (fun i => bit raw i) with
  | some i => i + 1
  | none => 0

/-- Whether a reported level makes port `p` down (R97, R113). -/
def State.levelDown (s : State) (p lvl : Nat) : Bool :=
  if s.portOtn p then decide (1 ≤ lvl ∧ lvl ≤ 5)
  else decide (1 ≤ lvl ∧ lvl ≤ 6) || (decide (lvl = 7) && s.on F.prtAuthAuthDown p)

/-- A defect becomes the reported one (R96, R101, R113): its sticky bit, its event and its interrupt. -/
def State.reportDefect (s : State) (p lvl : Nat) : State :=
  if lvl = 0 then s
  else if lvl ≤ 7 then
    let s := s.wr F.prtDefSticky (setBit (s.rd F.prtDefSticky p) (lvl - 1)) p
    let s := s.raiseBit .prt p lvl
    onlyIf (bit (s.rd F.prtDefIntIntEn p) (lvl - 1)) (fun s => s.irq .prt p) s
  else
    let s := s.wr F.otfDefStickyHi (setBit (s.rd F.otfDefStickyHi p) (lvl - 8)) p
    let s := s.raiseBit .prt p lvl
    onlyIf (bit (s.rd F.otfDefIntHi p) (lvl - 8)) (fun s => s.irq .otf p) s

/-- The raw defects of port `p`, and the level reported of them (R96). -/
def State.showDefects (s : State) (p raw : Nat) : State :=
  let lvl := reportedOf raw
  let was := s.rd F.prtStatReported p
  let s := (s.wr F.prtDefRaw (raw % 128) p).wr F.otfDefRawHi (raw / 128) p
  onlyIf (decide (lvl ≠ was)) (fun s => s.reportDefect p lvl) (s.wr F.prtStatReported lvl p)

/-! ### SEAL-AUTH windows (R98) -/

/-- The threshold and the window in effect for port `p`, PRT_AUTH or OTF_AUTH by its kind. -/
def State.authLimits (s : State) (p : Nat) : Nat × Nat :=
  if s.portOtn p then (max 1 (s.rd F.otfAuthThresh p), max 1 (s.rd F.otfAuthWindow p))
  else (max 1 (s.rd F.prtAuthThresh p), max 1 (s.rd F.prtAuthWindow p))

/-- The window in progress ends at the present edge and is judged; the next begins with a count of 0 (R98). -/
def State.judgeAuth (s : State) (p : Nat) : State :=
  let t := (s.authLimits p).1
  s.modPort p (fun r =>
    { r with sealAuth := if t ≤ r.authCount then true else if r.authCount = 0 then false else r.sealAuth
             authCount := 0, authFrom := s.tick })

/-- Whether the window in progress of an enabled cipher-side port ends at the present edge (R98). -/
def State.authOver (s : State) (p : Nat) : Bool :=
  s.portOn p && s.portCipher p && decide ((s.port p).authFrom + (s.authLimits p).2 ≤ s.tick)

/-- The defects present on port `p`, bit (level − 1) (R96, R112), with `los` its level 1. -/
def State.portRaw (s : State) (p : Nat) (los : Bool) : Nat :=
  if s.portOtn p then s.otnRaw p los
  else b2n los + (s.port p).pcsRaw + 64 * b2n (s.portCipher p && (s.port p).sealAuth)

/-- The port has been free of a defect that takes it down for as long as it must (R97, R101; an OTN port one edge, R113):
it is up. -/
def State.raisePort (s : State) (p : Nat) : State :=
  let need := if s.portOtn p then 1 else max 1 (s.rd F.prtDownUpTicks p)
  onlyIf (s.portOn p && !(s.port p).up && decide (need ≤ (s.port p).cleanEdges))
    (fun s => s.modPort p (fun r => { r with up := true, wasUp := true, refusing := false })) s

/-- What an Ethernet port transmits with this level reported (R97): while it is down, or not yet up again, no frames. -/
def portLineOf (up : Bool) (lvl : Nat) : PortLine :=
  if 1 ≤ lvl ∧ lvl ≤ 5 then .remoteFault else if up then .frames else .idles

/-- PRT_STAT.state of an enabled port (R101), and what it transmits, told when it changes (R97). -/
def State.showPort (s : State) (p : Nat) : State :=
  let lvl := s.rd F.prtStatReported p
  let r := s.port p
  let s := s.wr F.prtStatState (if !r.wasUp then (if lvl = 1 then 1 else 2) else if r.up then 3 else 4) p
  let line := portLineOf r.up lvl
  onlyIf (!s.portOtn p && decide (line ≠ r.line))
    (fun s => (s.modPort p (fun r => { r with line := line })).emit (.portLine p line)) s

/-- A port is judged by its reported level at an edge (R97, R101, R113): down, or down no longer; `again` where the edge
has judged it before. -/
def State.judgePort (s : State) (p : Nat) (again : Bool) : State :=
  let lvl := s.rd F.prtStatReported p
  let down := s.levelDown p lvl
  let s := s.modPort p (fun r =>
    if down then { r with up := false, cleanEdges := 0
                          downEdges := if again ∧ 0 < r.downEdges then r.downEdges else r.downEdges + 1 }
    else { r with cleanEdges := if again ∧ 0 < r.cleanEdges then r.cleanEdges else r.cleanEdges + 1
                  downEdges := 0, flushed := false })
  (s.raisePort p).showPort p

/-- PORT_DEFECT_EVAL (R96, R97, R112, R113): port `p` evaluates its defects. `pre` is the state at the end of the
previous tick, from which the lanes are taken; a PCS or framer without its lanes has no lock (R89, R102). A window of R98
that ends here is judged first. -/
def State.portEval (pre : State) (p : Nat) (s : State) : State :=
  if !s.portOn p then s
  else
    let s := onlyIf (s.authOver p) (fun s => s.judgeAuth p) s
    let los := pre.portLos s p
    let s := onlyIf los (fun s => s.modPort p (fun r => { r with pcsRaw := r.pcsRaw ||| 6 })) s
    let s := (s.showDefects p (s.portRaw p los)).judgePort p false
    let lvl := s.rd F.prtStatReported p
    let s := onlyIf (!(s.port p).up) (fun s => s.count .prt p 12) s
    let s := onlyIf (s.portOtn p && decide (lvl = 7)) (fun s => s.count .otf p 14) s
    let s := onlyIf (s.portOtn p && decide (1 ≤ lvl ∧ lvl ≤ 5)) (fun s => s.wr F.otfTtiStatSmValid 0 p) s
    let s := onlyIf (s.portOtn p && decide (1 ≤ lvl ∧ lvl ≤ 6)) (fun s => s.wr F.otfTtiStatPmValid 0 p) s
    onlyIf (s.portOtn p) (fun s => s.modOtnp p (fun o =>
      { o with smTrace := if 1 ≤ lvl ∧ lvl ≤ 5 then {} else o.smTrace
               pmTrace := if 1 ≤ lvl ∧ lvl ≤ 6 then {} else o.pmTrace
               txBdi := s.on F.otfCfgBdiEn p &&
                 (decide (1 ≤ lvl ∧ lvl ≤ 5) || (decide (lvl = 7) && s.on F.otfTtiStatSmTim p)) })) s

/-- Every port evaluates its defects at an edge. -/
def State.portsEval (pre : State) (s : State) : State := forN 144 (State.portEval pre) s

/-- Whether a port holds its associations back from LIVE (R114, R155): TIM reported on the cipher side with tim_act
1, 2 or 3. -/
def State.refusesLive (s : State) (p : Nat) : Bool :=
  s.portOtn p && s.portCipher p && decide (s.rd F.prtStatReported p = 7) && decide (s.rd F.otfCfgTimAct p ≠ 0)

/-! ### SEAL-AUTH shown (R98) -/

/-- SEAL-AUTH raised or cleared shows at the edge that ends the window (R98), and the port is judged by what it then
reports: with auth_down SEAL-AUTH takes it down (R97). -/
def State.authShown (s : State) (p : Nat) : State :=
  (s.showDefects p (s.portRaw p (bit (s.rd F.prtDefRaw p) 0))).judgePort p true

/-- A copy of PRT_AUTH or OTF_AUTH takes effect: a change of window judges the window in progress (R98). -/
def State.commitAuth (s : State) (k : RegKey) (w mask : Word) : State :=
  let was := getF (s.word k) 16 12
  let s := s.setWord k (mergeF mask (s.word k) w)
  onlyIf (decide (was ≠ getF w 16 12) && decide ((k.page = .otf) = (s.portOtn k.inst = true))) (fun s => s.judgeAuth k.inst) s

/-- A tag failure on a cipher-side port (R98, R190). -/
def State.tagFailure (s : State) (p : Nat) : State :=
  (s.modPort p (fun r => { r with authCount := r.authCount + 1 })).count (if s.portOtn p then .otf else .prt) p
    (if s.portOtn p then 11 else 13)

/-! ### The commands -/

/-- PORT_ENABLE (R87): PRT_CFG written with enable = 1. -/
def execPortEnable (p : PortNo) (cfg : BitVec 9) (cyc : Cyc) (s : State) : Host.Outcome State Fault Refusal :=
  done ((s.at cyc).gate .prt p (fun s => s.landPortCfg p ((cfg ||| 1).zeroExtend 32) cyc))

/-- PORT_DISABLE (R86): PRT_CFG written with enable = 0. -/
def execPortDisable (p : PortNo) (cfg : BitVec 9) (cyc : Cyc) (s : State) : Host.Outcome State Fault Refusal :=
  done ((s.at cyc).gate .prt p (fun s => s.landPortCfg p ((cfg &&& 0x1FE).zeroExtend 32) cyc))

/-- PORT_UP (R97, R101, R113): a port that has been free of a defect for long enough is up. -/
def execPortUp (p : PortNo) (s : State) : Host.Outcome State Fault Refusal :=
  done (onlyIf (s.portOn p && !(s.port p).up) (fun s => (s.raisePort p).showPort p) s)

/-- AUTH_WINDOW_END (R98): the window's length has passed on an enabled cipher-side port. -/
def execAuthWindowEnd (p : PortNo) (s : State) : Host.Outcome State Fault Refusal :=
  done (onlyIf (s.authOver p) (fun s => (s.judgeAuth p).authShown p) s)

/-- An OTF_CFG write lands (R103, R124): a change of mode is refused as a whole unless the port is disabled, since no
write of OTF_CFG can set enable to 0 (R86). -/
def State.landOtnCfg (s : State) (p : Nat) (w : Word) (cyc : Nat) : State :=
  if getF w 0 3 ≠ s.rd F.otfCfgMode p ∧ s.portOn p then s.wr F.otfStatCfgRejected 1 p
  else s.putCopy (keyOf F.otfCfgMode p) w cyc

/-- OTN_CFG_WRITE (R103, R124). -/
def execOtnCfgWrite (p : PortNo) (w : Word) (cyc : Cyc) (s : State) : Host.Outcome State Fault Refusal :=
  done ((s.at cyc).gate .otf p (fun s => s.landOtnCfg p w cyc))

/-- A copy of OTF_CFG reaches its edge: the rule of R103 again, against the port as that edge leaves it. -/
def State.commitOtnCfg (s : State) (p : Nat) (w : Word) : State :=
  let k := keyOf F.otfCfgMode p
  if getF w 0 3 ≠ s.rd F.otfCfgMode p ∧ s.portOn p then s.wr F.otfStatCfgRejected 1 p
  else s.setWord k (mergeF 0x7F7 (s.word k) w)

/-- LOF_DECLARED (R111): OOF has lasted lof_ticks edges; on FlexO, LOF is no matter of OOF. -/
def execLofDeclared (p : PortNo) (s : State) : Host.Outcome State Fault Refusal :=
  done (match (s.otnp p).oofFrom with
    | some e => onlyIf (decide (e + max 1 (s.rd F.otfFrmLofTicks p) ≤ s.tick) && !isFlexo (s.rd F.otfCfgMode p)) (fun s =>
        (s.modOtnp p (fun o => { o with lof := true })).wr F.otfStatFrame 3 p) s
    | none => s)

/-- LOM_DECLARED (R111): OOM has lasted lof_ticks edges. -/
def execLomDeclared (p : PortNo) (s : State) : Host.Outcome State Fault Refusal :=
  done (match (s.otnp p).oomFrom with
    | some e => onlyIf (decide (e + max 1 (s.rd F.otfFrmLofTicks p) ≤ s.tick)) (fun s =>
        (s.modOtnp p (fun o => { o with lom := true })).wr F.otfStatMframe 3 p) s
    | none => s)

end Sys2Proof.Machine
end

