-- ==== Sys2Proof/Machine/Rings.lean ====
section
/-! DEFINITION. What a slice writes to host memory: completions, event-ring entries and the dirty log (R348, R349, R356,
R358, R359), all behind the gate of R352. -/

namespace Sys2Proof.Machine

open Sys2Proof

/-- Slice `n`. -/
def State.sliceRt (s : State) (n : Nat) : SliceRt := nget {} s.slices n
/-- The state with it changed by `f`. -/
def State.modSlice (s : State) (n : Nat) (f : SliceRt → SliceRt) : State :=
  { s with slices := nset {} s.slices n (f (s.sliceRt n)) }

/-- An HST event of a slice (R362). -/
def State.hstEvent (s : State) (f : Fld) (n : Nat) : State :=
  ((s.wrEvt F.hstLastSlice n).wrEvt F.hstLastBit f.lo).event f

/-- A pair of registers as one 64-bit number. -/
def State.rd64 (s : State) (lo hi : Fld) (i o : Nat) : Nat := s.rd lo i o + 2 ^ 32 * s.rd hi i o

/-- The size of a ring (R343): 16 to 65,536 entries. -/
def ringSize (log2 : Nat) : Nat := 2 ^ log2

/-- Entries between two ends of a ring, counted modulo twice its size. -/
def ringGap (size ahead behind : Nat) : Nat := (ahead + 2 * size - behind % (2 * size)) % (2 * size)

/-! ### The dirty log (R356) -/

/-- The address of a dirty-log buffer of a slice. -/
def State.dlogBuf (s : State) (n : Nat) (b : Bool) : Nat :=
  if b then s.rd64 F.hstDlogBuf1LoBuf1 F.hstDlogBuf1HiBuf1 0 n else s.rd64 F.hstDlogBuf0LoBuf0 F.hstDlogBuf0HiBuf0 0 n

/-- The page of an address marked, or dlog_ovf set. -/
def State.markPage (s : State) (n addr : Nat) : State :=
  let base := s.rd64 F.hstDlogIovaLoIovaLo F.hstDlogIovaHiIovaHi 0 n
  let page := (addr - base) / 4096
  if base ≤ addr ∧ page < s.rd F.hstDlogPagesPages 0 n then
    (s.count .hst 0 9).emit (.hostOr (s.dlogBuf n (s.on F.hstDlogCtlActive 0 n) + 8 * (page / 64)) (2 ^ (page % 64)))
  else s.wr F.hstDlogCtlDlogOvf 1 0 n

/-! ### Writes through the gate (R352) -/

/-- The bytes of a write reach host memory, and the pages it touches are marked while the log runs. -/
def State.sliceWrite (s : State) (n addr : Nat) (bytes : List Byte) : State :=
  if bytes.isEmpty then s
  else
    let s := s.emit (.hostWrite addr bytes)
    if s.on F.hstDlogCtlDlogEn 0 n then
      let first := addr / 4096
      let last := (addr + bytes.length - 1) / 4096
      forL ((List.range (last + 1 - first)).map (fun i => (first + i) * 4096)) (fun a s => s.markPage n (max a addr)) s
    else s

/-- An entry of the event ring (R358): dropped and counted as lost when the ring is full. -/
def State.ringEvent (s : State) (n code object : Nat) : State :=
  let size := ringSize (s.rd F.slcEqCfgLog2Size n)
  let r := s.sliceRt n
  if !s.on F.slcEqCfgEnable n || r.ringFault then s
  else if size ≤ ringGap size r.eqTail (s.rd F.slcEqHeadHead n) then s.bumpReg F.slcEqCfgLost 1 n
  else
    let entry := leBytes 2 code ++ [0, 0] ++ leBytes 4 object ++ leBytes 4 s.tick ++ leBytes 4 0
    let at_ := s.rd64 F.slcEqBaseLoBase F.slcEqBaseHiBase n 0 + 16 * (r.eqTail % size)
    let s := (s.sliceWrite n at_ entry).modSlice n (fun r => { r with eqTail := (r.eqTail + 1) % (2 * size) })
    s.raiseVector (s.rd F.hstSvecEqVec 0 n)

/-- A write of a slice, and the event-ring entry of an overflow that it sets (R356, R358). -/
def State.gatedWrite (s : State) (n addr : Nat) (bytes : List Byte) : State :=
  let was := s.on F.hstDlogCtlDlogOvf 0 n
  let s := s.sliceWrite n addr bytes
  if s.on F.hstDlogCtlDlogOvf 0 n && !was then s.ringEvent n 3 0 else s

/-- A write of a ring of slice `n` fails (R349): its fetching stops until a RESET. -/
def State.ringFails (n : Nat) (s : State) : State :=
  if (s.sliceRt n).state = 0 then s
  else (s.modSlice n (fun r => { r with ringFault := true })).hstEvent F.hstEvtRingFault n

/-- A completion (R348, R359), with its interrupt at once, by count, or later. `ok` is false where the write fails: then
the ring is faulty and fetching stops (R349). -/
def State.completion (s : State) (n q index status outLen gen epoch : Nat) (irq ok : Bool) : State :=
  let size := ringSize (s.rd F.slcCqCfgLog2Size n)
  let r := s.sliceRt n
  let phase := if r.cqTail < size then 1 else 0
  let entry := leBytes 2 index ++ [BitVec.ofNat 8 (q + 128 * phase), BitVec.ofNat 8 status] ++ leBytes 4 outLen ++
    leBytes 2 gen ++ [0, 0] ++ leBytes 4 epoch
  let at_ := s.rd64 F.slcCqBaseLoBase F.slcCqBaseHiBase n 0 + 16 * (r.cqTail % size)
  if !ok then s.ringFails n
  else
    let s := (s.gatedWrite n at_ entry).modSlice n (fun r =>
      { r with cqTail := (r.cqTail + 1) % (2 * size), waiting := r.waiting + 1
               waitFrom := if r.waiting = 0 then s.tick else r.waitFrom })
    let w := (s.sliceRt n).waiting
    let c := s.rd F.slcCqCfgCoalCount n
    if irq || (decide (c ≠ 0) && decide (c ≤ w)) then
      (s.modSlice n (fun r => { r with waiting := 0 })).raiseVector (s.rd F.hstSvecCqVec 0 n)
    else s

/-- A slice whose association entered DEAD is told (R358, code 1). -/
def State.tellDead (s : State) (a : Nat) (slice : Nat) (valid : Bool) : State :=
  if valid then s.ringEvent slice 1 a else s

/-- The slices whose vault window holds an invalidated slot are told (R358, code 2). -/
def State.tellSlot (s : State) (v : Nat) : State :=
  forL (s.slices.map (·.1)) (fun n s =>
    let b := s.rd F.hstSvaultVaultBase 0 n
    if (s.sliceRt n).state ≠ 0 ∧ b ≤ v ∧ v < b + s.rd F.hstSvaultVaultCount 0 n then s.ringEvent n 2 v else s) s

end Sys2Proof.Machine
end

