-- ==== Sys2Proof/Machine/Stoves.lean ====
section
/-! DEFINITION. Stoves (R172 to R203): their service, the slot credit of a Chimney, known-answer tests, the entropy
source and the DRBG instances. -/

namespace Sys2Proof.Machine

open Sys2Proof

/-! ### Service (R174 to R176) -/

/-- What Chimney `c` keeps beside its registers. -/
def State.chim (s : State) (c : Nat) : ChimRt := nget {} s.chims c
/-- The state with it replaced. -/
def State.setChim (s : State) (c : Nat) (r : ChimRt) : State := { s with chims := nset {} s.chims c r }
/-- The state with it changed by `f`. -/
def State.modChim (s : State) (c : Nat) (f : ChimRt → ChimRt) : State := s.setChim c (f (s.chim c))

/-- The twin of a Stove (R175). -/
def twinOf (k : Nat) : Nat := if k % 2 = 0 then k + 1 else k - 1

/-- What a Stove's own account says. -/
def State.stvOwn (s : State) (c k : Nat) : StvOwn := nget .untested (s.chim c).own k

/-- Twin compare is on (R202). -/
def State.twinOn (s : State) (c : Nat) : Bool := s.on F.chmCfgTwin c

/-- Whether local Stove `k` of Chimney `c` is in service (R174, R175). -/
def State.stvIn (s : State) (c k : Nat) : Bool :=
  decide (s.stvOwn c k = .ok) && (!s.twinOn c || decide (s.stvOwn c (twinOf k) = .ok))

/-- Whether an account is out of service for a cause of its own that lasts: 1 to 4 (R200). -/
def StvOwn.failed : StvOwn → Bool
  | .bringUp | .command | .twin | .ucode => true
  | _ => false

/-- The cause that STV_CAUSE gives for a Stove (R203). -/
def State.stvCause (s : State) (c k : Nat) : Nat :=
  match s.stvOwn c k with
  | .bringUp => 1
  | .command => 2
  | .twin => 3
  | .ucode => 4
  | .underTest => 5
  | .untested => 0
  | .ok => if s.twinOn c && decide (s.stvOwn c (twinOf k) ≠ .ok ∧ s.stvOwn c (twinOf k) ≠ .untested) then 6 else 0

/-- Stoves in service (CHM_STAT.stoves_in). -/
def State.stovesIn (s : State) (c : Nat) : Nat := ((List.range 64).filter (fun k => s.stvIn c k)).length

/-- Pairs with both Stoves in service (CHM_STAT.pairs_in). -/
def State.pairsIn (s : State) (c : Nat) : Nat :=
  ((List.range 32).filter (fun i => s.stvIn c (2 * i) && s.stvIn c (2 * i + 1))).length

/-- U, the usable line capacity in slots per tick (R176). -/
def State.capacity (s : State) (c : Nat) : Nat :=
  (if s.twinOn c then s.pairsIn c else s.stovesIn c) * 10000 * (16 - s.rd F.chmCfgDummy c) / 16

/-- The STV page reports degraded with cause 5 while a Stove has a cause 1 to 4 or the DRBG instance is unseeded
(R195). -/
def State.stvRefresh (s : State) (c : Nat) : State :=
  let d := (List.range 64).any (fun k => (s.stvOwn c k).failed) || !s.on F.chmDrbgSeeded c
  let cause := if d then 5 else if s.ready .stv c then 0 else s.rd (F.pageCause .stv) c
  (s.wr (F.pageDegraded .stv) (b2n d) c).wr (F.pageCause .stv) cause c

/-- The Stove cycles in service are counted up to cycle `n` of the tick (R201). -/
def State.stoveCycles (s : State) (c n : Nat) : State :=
  let live := s.stovesIn c
  s.modChim c (fun r => { r with cycles := r.cycles + live * (n - r.cyclesTo), cyclesTo := max n r.cyclesTo })

/-- The accounts of Stoves replaced; CHM_EVT.out_of_service where one leaves service (R174, R202). -/
def State.stvSet (s : State) (c : Nat) (ks : List Nat) (o : StvOwn) : State :=
  let was := (List.range 64).filter (fun k => s.stvIn c k)
  let s := (s.stoveCycles c s.cycle).modChim c (fun r => { r with own := ks.foldl (fun m k => nset .untested m k o) r.own })
  let s := onlyIf (was.any (fun k => !s.stvIn c k)) (fun s => s.event F.chmEvtOutOfService c) s
  s.stvRefresh c

/-- The Stoves that a command on `k` acts on: the pair while twin compare is on (R200). -/
def State.stvGroup (s : State) (c k : Nat) : List Nat :=
  if s.twinOn c then [k - k % 2, k - k % 2 + 1] else [k]

/-! ### Slot credit (R177) -/

/-- Slots charged to the credit of Chimney `c`, and slots used by line work. -/
def State.chargeSlots (s : State) (c charge used : Nat) : State :=
  s.modChim c (fun r =>
    let v : Int := r.credit - (charge : Nat)
    { r with credit := v, minNow := min r.minNow v, lineSlots := r.lineSlots + used })

/-- Slots that neither line work nor lookaside work has taken in the present tick (R24, R178). -/
def State.slotsLeft (s : State) (c : Nat) : Nat := s.capacity c - (s.chim c).lineSlots - (s.chim c).lookSlots

/-- The end of a tick in Chimney `c`: every cycle of a Stove in service is a dummy slot, line work, lookaside work or
nothing (R191, R201), and the credit is judged. A pair counts the slots it shares on both Stoves. Work that found no
cycle goes on in the next tick. Each Stove cycle drew 9 bits of the Chimney's DRBG (R193). -/
def State.chimEndTick (c : Nat) (s : State) : State :=
  let s := s.stoveCycles c cyclesPerTick
  let r := s.chim c
  let x := if s.twinOn c then 2 else 1
  let dummy := r.cycles * s.rd F.chmCfgDummy c / 16
  let line := min (r.cycles - dummy) (x * r.lineSlots)
  let look := min (r.cycles - dummy - line) (x * r.lookSlots)
  let s := (((s.count .chm c 1 line).count .chm c 2 look).count .chm c 3 dummy).count .chm c 4
    (r.cycles - line - look - dummy)
  let s := onlyIf (decide (r.credit ≤ 0)) (fun s => s.count .chm c 8) s
  s.modChim c (fun r => { r with lineSlots := r.lineSlots - line / x, lookSlots := r.lookSlots - look / x
                                 cycles := 0, cyclesTo := 0, drawn := r.drawn + 9 * r.cycles })

/-- The bytes of a request to a Chimney's DRBG (R194). -/
def chimRequest : Nat := 2 ^ 16

/-- The DRBG instance after the bits its Stoves drew, in requests of 2^19 bits (R194). -/
def ChimRt.serve (r : ChimRt) : ChimRt :=
  let n := r.drawn / (8 * chimRequest)
  { r with drawn := r.drawn % (8 * chimRequest)
           drbg := r.drbg.map (fun d => forN n (fun _ d => if d.spent then d else d.served chimRequest) d) }

/-- The dummy registers of the Stoves drawn anew (R191), by a request of their own. -/
def ChimRt.redraw (r : ChimRt) : ChimRt :=
  match r.drbg with
  | some d =>
    if d.spent then r
    else { r with drbg := some (d.served 3072)
                  dummy := (chunks 48 (d.bytes 3072)).map (fun x => (blockOf x, keyOfBytes (x.drop 16))) }
  | none => r

/-- SLOT_CREDIT_REFILL (R176, R177): step 6 of an edge. The DRBG answers the draws of the tick, and refreshes the dummy
registers (R191, R193). -/
def State.refillSlots (c : Nat) (s : State) : State :=
  let u := s.capacity c
  let s := (((s.wr F.chmStatStovesIn (s.stovesIn c) c).wr F.chmStatPairsIn (s.pairsIn c) c).wr F.chmCapUsable u c)
  let s := s.wr F.chmCreditMinCredit (unsigned 24 (s.chim c).minNow) c
  s.modChim c (fun r =>
    let v := min (r.credit + (u : Nat)) (u : Nat)
    { r.serve.redraw with credit := v, minNow := v })

/-! ### Known-answer tests (R199, R200) -/

/-- The kat_pass bit of a Stove. -/
def katFld (k : Nat) : Fld := ⟨.stv, if k < 32 then 0x110 else 0x114, k % 32, 1⟩

/-- A known-answer test fails (R199): counted, latched and evented. -/
def State.katFailed (s : State) (c k : Nat) : State :=
  (((s.count .stv c 2).fault .stv c (96 + k)).event F.chmEvtKatFail c).wr (katFld k) 0 c

/-- A test started on Stoves. -/
def State.katStart (s : State) (c : Nat) (ks : List Nat) (kind : KatKind) : State :=
  s.modChim c (fun r => { r with running := r.running.filter (fun e => !ks.contains e.1) ++ ks.map (fun k => (k, kind)) })

/-- The DRBG instance of Chimney `c` seeded with 384 bits of the entropy source (R194): a new instance where there was
none. -/
def State.seedChimney (s : State) (c : Nat) : State :=
  let x := s.free 384
  (((s.burn).modChim c (fun r => { r with drbg := some ((r.drbg.getD {}).reseed x) })).wr F.chmDrbgSeeded 1 c).stvRefresh c

/-- Bring-up of the Stoves of Chimney `c` (R195, R199): every Stove is tested at once after the DRBG instance is
seeded; without a seed every test fails. -/
def State.stvBringUp (c : Nat) (s : State) : State :=
  if s.on F.kvtDrbgEsOk then (s.seedChimney c).katStart c (List.range 64) .bringUp
  else
    let s := forL (List.range 64) (fun k s => s.katFailed c k) s
    s.stvSet c (List.range 64) .bringUp

/-- A command written to STV_CMD lands (R200). -/
def State.stvLand (s : State) (c k : Nat) (restore : Bool) (cyc : Nat) : State :=
  s.gate .stv c (fun s =>
    let s := s.wr F.stvCmdStatStove k c
    if s.on F.stvCmdStatBusy c then s.wr F.stvCmdStatResult 2 c
    else
      if restore && !(s.stvGroup c k).any (fun j => (s.stvOwn c j).failed) then s.wr F.stvCmdStatResult 2 c
      else (s.wr F.stvCmdStatBusy 1 c).schedule (s.edgeFor cyc) (.stoveCmd c k restore))

/-- A test or restore acts at its edge, checked again (R200). -/
def State.stvAct (s : State) (c k : Nat) (restore : Bool) : State :=
  let ks := s.stvGroup c k
  if restore && !ks.any (fun j => (s.stvOwn c j).failed) then
    (s.wr F.stvCmdStatBusy 0 c).wr F.stvCmdStatResult 2 c
  else (s.stvSet c ks .underTest).katStart c ks .command

/-- The test on command of a Stove or pair has ended for every Stove of it (R200). -/
def State.katCommandEnd (s : State) (c k : Nat) : State :=
  let ks := s.stvGroup c k
  if (s.chim c).running.any (fun e => decide (e.2 = .command)) then s
  else
    let s := s.wr F.stvCmdStatBusy 0 c
    if ks.all (fun j => decide (s.stvOwn c j = .underTest)) then
      (s.wr F.stvCmdStatResult 0 c).schedule (s.tick + 1) (.stoveBack c ks)
    else (s.wr F.stvCmdStatResult 1 c).stvSet c (ks.filter (fun j => decide (s.stvOwn c j = .underTest))) .ok

/-- KAT_DONE of local Stove `k` (R174, R199, R200). A Stove that went out for another cause while its bring-up test ran
stays out. -/
def State.katDone (s : State) (c k : Nat) (pass : Bool) : State :=
  match (s.chim c).running.find? (fun e => e.1 = k) with
  | none => s
  | some (_, kind) =>
    let s := (s.count .stv c 1).modChim c (fun r => { r with running := r.running.filter (fun e => e.1 ≠ k) })
    let s := if pass then s.wr (katFld k) 1 c else s.katFailed c k
    match kind with
    | .bringUp => if s.stvOwn c k = .untested then s.stvSet c [k] (if pass then .ok else .bringUp) else s
    | .standby =>
      let s := (s.bumpReg F.fluStKatRuns 1).count .flu 0 11
      if pass then s else (s.bumpReg F.fluStKatFails 1).stvSet c [k] .command
    | .command => ((if pass then s else s.stvSet c [k] .command)).katCommandEnd c k

/-- Stoves that passed return to service at the next edge (R200). -/
def State.stvBack (s : State) (c : Nat) (ks : List Nat) : State :=
  s.stvSet c (ks.filter (fun k => decide (s.stvOwn c k = .underTest))) .ok

/-! ### CHM_CFG (R198) -/

/-- Whether a CHM_CFG word is refused: twin = 1 with dummy above 3, or dummy above 8. -/
def chmCfgBad (w : Word) : Bool :=
  decide (8 < getF w 1 4) || (decide (getF w 0 1 = 1) && decide (3 < getF w 1 4))

/-- A CHM_CFG write lands. -/
def State.landChmCfg (s : State) (c : Nat) (w : Word) (cyc : Nat) : State :=
  if chmCfgBad w then s.wr F.chmStatCfgRejected 1 c else s.putCopy (keyOf F.chmCfgTwin c) (w &&& 0x1F) cyc

/-- A CHM_CFG copy reaches its edge (R198): a pair with a Stove out of service is out once twin compare is on. -/
def State.commitChmCfg (s : State) (c : Nat) (w : Word) : State :=
  if chmCfgBad w then s.wr F.chmStatCfgRejected 1 c
  else
    let was := (List.range 64).filter (fun k => s.stvIn c k)
    let s := s.setWord (keyOf F.chmCfgTwin c) (w &&& 0x1F)
    onlyIf (was.any (fun k => !s.stvIn c k)) (fun s => s.event F.chmEvtOutOfService c) s

/-! ### Twin compare (R196) -/

/-- A pair mismatches: both Stoves leave service, and the mismatch is recorded. `work` is the first work found
mismatched: its kind (1 for lookaside) and the association or slice. -/
def State.pairMismatch (s : State) (c i : Nat) (work : Option (Nat × Nat)) : State :=
  let s := (s.stvSet c [2 * i, 2 * i + 1] .twin).count .chm c 6
  let s := (s.fault .stv c i).event F.chmEvtTwinMismatch c
  let s := (s.wr F.stvMismPair i c).wr F.stvMismTick s.tick c
  match work with
  | some (kind, id) => (s.wr F.stvMismKind kind c).wr F.stvMismIdId id c
  | none => s

/-! ### The commands -/

/-- CHM_CFG_WRITE (R198). -/
def execChmCfgWrite (c : ChimneyNo) (w : Word) (cyc : Cyc) (s : State) : Host.Outcome State Fault Refusal :=
  done ((s.at cyc).gate .chm c (fun s => s.landChmCfg c w cyc))

/-- STOVE_TEST (R200). -/
def execStoveTest (c : ChimneyNo) (k : StoveNo) (cyc : Cyc) (s : State) : Host.Outcome State Fault Refusal :=
  done ((s.at cyc).stvLand c k false cyc)

/-- STOVE_RESTORE (R200). -/
def execStoveRestore (c : ChimneyNo) (k : StoveNo) (cyc : Cyc) (s : State) : Host.Outcome State Fault Refusal :=
  done ((s.at cyc).stvLand c k true cyc)

/-- KAT_DONE (R199). -/
def execKatDone (c : ChimneyNo) (k : StoveNo) (pass : Bool) (s : State) : Host.Outcome State Fault Refusal :=
  done (s.katDone c k pass)

/-- MICROCODE_ERROR (R173, R174): an uncorrectable word takes its Stove out of service. -/
def execMicrocodeError (c : ChimneyNo) (k : StoveNo) (s : State) : Host.Outcome State Fault Refusal :=
  done (((s.stvSet c [k.val] .ucode).count .stv c 4).sramError .stv c (32 + k))

/-- ENTROPY_HEALTH_FAIL (R194): the source stops, and every Chimney reports it. -/
def execEntropyHealthFail (s : State) : Host.Outcome State Fault Refusal :=
  done (forN 8 (fun c s => s.event F.chmEvtEsFail c) (s.wr F.kvtDrbgEsOk 0))

/-- The device instance seeded with 384 bits of the entropy source (R194): a new instance where there was none. -/
def State.seedDevice (s : State) : State :=
  let x := s.free 384
  let s := s.burn
  ({ s with vault := { s.vault with drbg := some ((s.vault.drbg.getD {}).reseed x) } }).wr F.kvtDrbgSeeded 1

/-- An instance reseeds, or passes its reseed point unseeded (R194, R202). Instance 8 is the device's. -/
def State.drbgReseed (s : State) (i : Nat) : State :=
  if i < 8 then
    if s.on F.kvtDrbgEsOk then ((s.seedChimney i).bumpReg F.chmDrbgReseeds 1 i).count .chm i 9
    else s.event F.chmEvtReseedOverdue i
  else if s.on F.kvtDrbgEsOk then (s.seedDevice.bumpReg F.kvtDrbgReseeds 1).count .kvt 0 10
  else s

/-- Whether instance `i` is at its reseed point (R194, R315): 2^16 requests for a Chimney, 2^10 for the device. -/
def State.reseedDue (s : State) (i : Nat) : Bool :=
  match if i < 8 then (s.chim i).drbg else s.vault.drbg with
  | some d => decide ((if i < 8 then 2 ^ 16 else 2 ^ 10) ≤ d.requests)
  | none => false

/-- DRBG_RESEED (R194): instance `i` reseeds at its reseed point. -/
def execDrbgReseed (i : Fin 9) (s : State) : Host.Outcome State Fault Refusal :=
  done (onlyIf (s.reseedDue i) (fun s => s.drbgReseed i) s)

end Sys2Proof.Machine
end

