-- ==== Sys2Proof/Machine/Vault.lean ====
section
/-! DEFINITION. The key vault (R291 to R318): slots and their tags, uses and reservations, the command engine, and the
OTP. -/

namespace Sys2Proof.Machine

open Sys2Proof

/-! ### Slots (R292 to R294) -/

/-- The bytes of an ASCII label. -/
def ascii (t : String) : List Byte := t.toList.map (fun c => BitVec.ofNat 8 c.toNat)

/-- kdf(key, label, context, bits) of R247. -/
def kdf (key : List Byte) (label : String) (context : List Byte) (bits : Nat) : List Byte :=
  Config.kmac256 key context bits (ascii label)

/-- The uses value that means unlimited (R292). -/
def usesUnlimited : Nat := 0xFFFFFFFF

/-- The attribute image of a slot, 16 bytes in network order (R292). -/
def Slot.attrs (x : Slot) : List Byte :=
  if !x.present then List.replicate 16 0
  else beBytes 1 x.type ++
    beBytes 1 (b2n x.imported + 2 * b2n x.exportable + 4 * b2n x.expires + 8 * b2n x.hostUse + 16 * b2n x.long + 32 * x.depth) ++
    beBytes 2 (match x.parent with
      | some p => 0x8000 + p
      | none => 0) ++
    beBytes 4 x.uses ++ beBytes 4 x.generation ++ beBytes 4 0

/-- The tag of slot `v` under an integrity key (R293). -/
def Slot.tagFor (x : Slot) (kint : List Byte) (v : Nat) : List Byte :=
  Config.kmac256 kint (beBytes 2 v ++ x.attrs ++ padTo 64 x.material) 128 (ascii "heserok vault")

/-- Whether the tag of slot `v` holds (R293). An empty slot carries none. -/
def State.tagOk (s : State) (v : Nat) : Bool :=
  !(s.slot v).present || decide ((s.slot v).tag = (s.slot v).tagFor s.vault.kint v)

/-- A slot whose uses and stock are both 0 (R300). -/
def Slot.expired (x : Slot) : Bool := x.present && decide (x.uses = 0 ∧ x.stock = 0)

/-- A KVT event naming a slot (R318). -/
def State.kvtEvent (s : State) (f : Fld) (v : Nat) : State :=
  ((s.wrEvt F.kvtLastSlot v).wrEvt F.kvtLastBit f.lo).event f

/-- Slot `v` is found bad (R293, R306): its material is zeroed, and it is invalidated at the next step 3. -/
def State.slotFails (s : State) (v : Nat) : State :=
  let s := s.setSlot v { s.slot v with bad := true, usable := false, material := [], stock := 0 }
  ((s.count .kvt 0 6).kvtEvent F.kvtEvtBadFound v).schedule (s.tick + 1) (.slotInvalid v)

/-- The tag of slot `v` fails (R293, R318). -/
def State.badSlot (s : State) (v : Nat) : State := (s.fault .kvt 0 v).slotFails v

/-- Every tag is checked (R293). -/
def State.scrubSlots (s : State) : State :=
  forL (s.vault.slots.map (·.1)) (fun v s => if s.tagOk v || (s.slot v).bad then s else s.badSlot v) s

/-! ### Uses and reservations (R298 to R300) -/

/-- A reservation of uses begins for slot `v` (R299), unless one runs or none is possible. -/
def State.reserve (s : State) (v : Nat) : State :=
  let x := s.slot v
  let r := min (64 - x.stock) x.uses
  if r = 0 ∨ s.vault.reserving.any (fun e => e.1 = v) then s
  else { s with vault := { s.vault with reserving := s.vault.reserving ++ [(v, r)] } }

/-- One use of slot `v` (R293, R298 to R300). -/
def State.takeUse (s : State) (v : Nat) : State × Grant :=
  let x := s.slot v
  if !x.present || x.bad || !x.usable then (s, .refused)
  else if !s.tagOk v then (s.badSlot v, .refused)
  else if x.uses = usesUnlimited then (s.count .kvt 0 3, .granted)
  else if 0 < x.stock then
    let s := (s.setSlot v { x with stock := x.stock - 1 }).count .kvt 0 3
    let s := onlyIf (decide (x.stock - 1 = 16) && !s.nvInhibited) (fun s => s.reserve v) s
    (onlyIf (s.slot v).expired (fun s => s.kvtEvent F.kvtEvtExpired v) s, .granted)
  else if x.uses = 0 then (s.count .kvt 0 4, .refused)
  else if s.nvInhibited then ((s.count .kvt 0 4).kvtEvent F.kvtEvtUseRefused v, .refused)
  else (s.reserve v, .waits)

/-- Whether slot `v` stands, usable, with material of a type; it may be expired. -/
def State.slotStands (s : State) (v type : Nat) : Bool :=
  let x := s.slot v
  x.present && x.usable && !x.bad && decide (x.type = type)

/-- Whether slot `v` may be used now or after a reservation (R300). -/
def State.slotUsable (s : State) (v type : Nat) : Bool := s.slotStands v type && !(s.slot v).expired

/-! ### The command engine (R302) -/

/-- `n` random bytes from the device instance (R193, R315), one request a draw. Before it is seeded, and after it has
stopped at its last request, what it yields is a free value (log entry 5). -/
def State.draw (s : State) (n : Nat) : State × List Byte :=
  match s.vault.drbg with
  | some d =>
    if d.spent then (s.burn, beBytes n (s.free (8 * n)).toNat)
    else ({ s with vault := { s.vault with drbg := some (d.served n) } }, d.bytes n)
  | none => (s.burn, beBytes n (s.free (8 * n)).toNat)

/-- `n` random bytes from the device instance, drawn with prediction resistance (R315): after 384 fresh bits. -/
def State.drawBytes (s : State) (n : Nat) : State × List Byte :=
  (((s.seedDevice).bumpReg F.kvtDrbgReseeds 1).count .kvt 0 10).draw n

/-- The first eight bytes of a message on the Officer Port whose body has `n` bytes (R437). -/
def officerHeader (type : Nat) (isSealed : Bool) (n seq : Nat) : List Byte :=
  [BitVec.ofNat 8 type, BitVec.ofNat 8 (b2n isSealed)] ++ beBytes 2 (8 + n + 4) ++ beBytes 4 seq

/-- A message of the device on the Officer Port (R437), its CRC-32 last, in the byte order of a frame's FCS. -/
def officerBytes (type seq : Nat) (body : List Byte) : List Byte :=
  withFcs (officerHeader type false body.length seq ++ body)

/-- A message of the device on the Officer Port goes out (R437). -/
def State.officerSend (s : State) (type : Nat) (body : List Byte) : State :=
  let n := s.officer.seqOut
  ({ s with officer := { s.officer with seqOut := n + 1 } }).emit (.officer (officerBytes type n body))

/-- A RESULT (R439): a status and, for some messages, output. -/
def State.officerResult (s : State) (status : Nat) (output : List Byte := []) : State :=
  s.officerSend 4 (BitVec.ofNat 8 status :: output)

/-- A command ends with a result (R302): on the host path in KVT_STAT, on the officer path in RESULT alone. A host
command that reads KVT_DATA leaves it zeroed (R318). -/
def State.vaultEnd (s : State) (c : VaultCmd) (result : Nat) (output : List Byte := []) : State :=
  let s := { s with vault := { s.vault with cmd := none } }
  let s := if c.op = 6 then
      { s with kindle := { s.kindle with lattice := s.kindle.lattice.filter (fun u => decide (u ≠ .attest)) } }
    else s
  let s := if result = 0 then s.count .kvt 0 1 else if result = 1 then s else s.count .kvt 0 2
  if c.officer then (s.wr F.kvtStatBusy 0).officerResult result output
  else
    let s := (s.wr F.kvtStatBusy 0).wr F.kvtStatResult result
    let s := onlyIf (decide (c.op = 2 ∨ c.op = 3 ∨ c.op = 6)) (fun s =>
      s.wrWords .kvt 0x300 (List.replicate 32 0)) s
    if (c.op = 4 ∨ c.op = 8) ∧ result = 0 then
      (s.wr F.kvtStatOutLen output.length).wrWords .kvt 0x300 (leWords output)
    else s

/-- Whether a command writes a slot (R303). -/
def VaultCmd.creates (c : VaultCmd) : Bool := decide (c.op = 1 ∨ c.op = 2 ∨ c.op = 3 ∨ c.op = 11 ∨ c.op = 12)

/-- The authority column of R297: 2 where it refuses. -/
def State.vaultAuthority (s : State) (c : VaultCmd) : Bool :=
  let x := s.slot c.slot
  let type :=
    match c.op with
    | 1 => if c.officer then decide (c.type = 1 ∨ c.type = 4 ∨ c.type = 5) else decide (c.type = 4 ∨ c.type = 5)
    | 12 => c.officer && decide (c.type = 1 ∨ c.type = 3 ∨ c.type = 4 ∨ c.type = 5)
    | 5 => c.officer || !x.present || (decide (x.type = 3 ∨ x.type = 4 ∨ x.type = 5) && !x.bad)
    | 11 => c.officer || !s.on F.kvtOtpProvLock
    | _ => true
  type && (c.officer || !(c.creates && x.bad))

/-- The slot rules of R302: 3 where they refuse. -/
def State.vaultSlotOk (s : State) (c : VaultCmd) : Bool :=
  let x := s.slot c.slot
  let zero := c.slot ≠ 0 ∨ c.op = 11 ∨ c.op = 6 ∨ (c.op = 5 ∧ c.officer) ∨ c.op = 10 ∨ c.op = 7 ∨ c.op = 9
  decide zero &&
    (match c.op with
     | 11 => decide (c.slot = 0) && (!x.present || (x.bad && c.officer))
     | 1 | 2 | 3 | 12 => !x.present || (x.bad && c.officer)
     | 5 => x.present
     | 4 | 8 => x.present && !x.bad && x.usable
     | 6 => decide (c.slot = 0) || (x.present && !x.bad && x.usable)
     | _ => true)

/-- The length a type allows (R296). -/
def lengthOk (type : Nat) (long : Bool) : Bool :=
  match type with
  | 1 | 2 => !long
  | 3 | 4 | 5 => true
  | _ => false

/-- The type and length check of R302: 4 where it refuses. -/
def vaultTypeOk (c : VaultCmd) : Bool :=
  match c.op with
  | 1 => lengthOk c.type c.long && decide (c.uses ≠ 0)
  | 2 => decide (c.type = 4 ∨ c.type = 5) && decide (c.uses ≠ 0) && decide (c.ctxLen ≤ 32)
  | 12 => lengthOk c.type c.long && decide (c.uses ≠ 0) && decide (c.data.length = if c.long then 64 else 32)
  | _ => true

/-- The checks of R302 in their order: the result that refuses, 0 when none does. -/
def State.vaultCheck (s : State) (c : VaultCmd) : Nat :=
  if s.mode = 9 ∨ s.mode = 10 then 13
  else if c.op = 0 ∨ 13 ≤ c.op then 11
  else if !s.vaultAuthority c then 2
  else if !s.vaultSlotOk c then 3
  else if !vaultTypeOk c then 4
  else if c.op = 2 ∧ !s.slotUsable c.aux 4 then 5
  else if (c.op = 3 ∨ c.op = 4) ∧ !s.slotUsable c.aux 1 then 5
  else if c.op = 6 ∧ !s.slotUsable 0 2 then 5
  else if c.op = 4 ∧ !(s.slot c.slot).exportable then 7
  else if c.op = 2 ∧ (s.slot c.aux).depth = 3 then 8
  else if c.creates ∧ s.nvInhibited then 9
  else if (c.op = 1 ∨ c.op = 11) ∧ !s.on F.kvtDrbgEsOk then 10
  else 0

/-- A slot image is committed (R295): the command runs until VAULT_COMMIT_DONE. -/
def State.vaultCommit (s : State) (c : VaultCmd) (x : Slot) : State :=
  { s with vault := { s.vault with cmd := some { c with image := some x, waits := none } } }

/-- The material of a slot at its length. -/
def Slot.key (x : Slot) : List Byte := x.material.take (if x.long then 64 else 32)

/-- The first 32 bytes of a slot's material as an AES key. -/
def Slot.aesKey (x : Slot) : BitVec 256 := BitVec.ofNat 256 (beNat (slice x.material 0 32))

/-- The check value of a slot (R311). -/
def Slot.kcv (x : Slot) : List Byte :=
  slice (Config.kmac256 x.key (ascii "heserok key check") 256 (ascii "heserok kcv")) 0 32

/-- The identity hash of slot 0 (R230). -/
def State.identityHash (s : State) : List Byte := Config.sha3 (Config.dsaPublic (s.slot 0).key)

/-- The first 208 bytes of an attestation statement (R312). -/
def State.statement (s : State) (v : Nat) (nonce : List Byte) (began : Nat) : List Byte :=
  let x := s.slot v
  ascii "HESEROK ATTEST 1" ++ beBytes 2 v ++ beBytes 2 0 ++ beBytes 8 began ++
    beBytes 4 (s.word (keyOf F.devPartPartCode)).toNat ++ slice nonce 0 32 ++ x.attrs ++
    Config.sha3 (x.attrs ++ (if v = 0 then Config.dsaPublic x.key else x.kcv)) ++ s.identityHash

/-- A command whose use is granted goes on (R302). -/
def State.vaultUse (s : State) (c : VaultCmd) : State :=
  let x := s.slot c.slot
  let a := s.slot c.aux
  match c.op with
  | 2 =>
    let n := if c.long then 64 else 32
    s.vaultCommit c { present := true, type := c.type, imported := a.imported, hostUse := c.hostUse
                      expires := c.expires || a.expires, long := c.long, depth := a.depth + 1, parent := some c.aux
                      uses := c.uses, generation := x.generation + 1
                      material := kdf a.key "heserok derive" (beBytes 2 c.slot ++ c.data.take c.ctxLen) (8 * n) }
  | 3 =>
    match kwpUnwrap a.aesKey c.data with
    | none => s.vaultEnd c 6
    | some p =>
      let f := byteAt p 1
      let type := byteAt p 0 % 16
      let long := bit f 4
      let allowed := decide (type = 3 ∨ type = 4 ∨ type = 5) || (c.officer && decide (type = 1))
      if !allowed || !lengthOk type long || decide (p.length ≠ if long then 80 else 48) || decide (beAt p 4 4 = 0) then
        s.vaultEnd c 4
      else
        s.vaultCommit c { present := true, type := type, imported := true, exportable := bit f 1, expires := bit f 2
                          hostUse := bit f 3, long := long, uses := beAt p 4 4, generation := x.generation + 1
                          material := p.drop 16 }
  | 4 =>
    let image := ({ x with uses := if x.uses = usesUnlimited then x.uses else x.uses + x.stock }).attrs
    s.vaultEnd c 0 (kwpWrap a.aesKey (image ++ x.key))
  | _ =>
    let c : VaultCmd := { c with began := s.tick, waits := none }
    { s with vault := { s.vault with cmd := some c }
             kindle := { s.kindle with lattice := s.kindle.lattice ++ [.attest] } }

/-- A command that needs a use takes it, waits for a reservation, or is refused with 5 (R299, R300). -/
def State.vaultTake (s : State) (c : VaultCmd) (v : Nat) : State :=
  match s.takeUse v with
  | (s, .granted) => s.vaultUse c
  | (s, .waits) => { s with vault := { s.vault with cmd := some { c with waits := some v } } }
  | (s, .refused) => s.vaultEnd c 5

/-- Bytes that a command hands over (R302, R439): to the officer in RESULT, or to host memory at its address. A host that
is not ready cannot be written (R49; DEDUCED, log entry 57): result 12. -/
def State.vaultDeliver (s : State) (c : VaultCmd) (bytes : List Byte) : State :=
  if c.officer then s.vaultEnd c 0 bytes
  else if s.ready .hst then ((s.wr F.kvtDmaLenLen bytes.length).emit (.hostWrite c.addr bytes)).vaultEnd c 0
  else s.vaultEnd c 12

/-- A command that passed its checks runs (R302). `pass` is the outcome of the start-up tests of ES_RESTART (R316); that of
the officer's, which no row brings, is a free value. -/
def State.vaultRun (s : State) (c : VaultCmd) (due : Nat) (pass : Bool) : State :=
  let x := s.slot c.slot
  let s := { s.wr F.kvtStatBusy 1 with vault := { s.vault with cmd := some c } }
  match c.op with
  | 1 =>
    let (s, m) := s.drawBytes (if c.long then 64 else 32)
    s.vaultCommit c { present := true, type := c.type, hostUse := c.hostUse, expires := c.expires, long := c.long
                      uses := c.uses, generation := x.generation + 1, material := m }
  | 2 => s.vaultTake c c.aux
  | 3 => s.vaultTake c c.aux
  | 4 => s.vaultTake c c.aux
  | 5 => (s.schedule due (.slotDelete c.slot)).vaultEnd c 1
  | 6 => s.vaultTake c 0
  | 7 => s.vaultDeliver c s.vault.cert
  | 8 => s.vaultEnd c 0 x.kcv
  | 9 =>
    let pass := if c.officer then s.free 1 = 1 else pass = true
    let s := onlyIf c.officer State.burn s
    if pass then ((s.wr F.kvtDrbgEsOk 1).schedule (s.tick + 1) .reseedAll).vaultEnd c 0 else (s.wr F.kvtDrbgEsOk 0).vaultEnd c 10
  | 10 => s.scrubSlots.vaultEnd c 0
  | 11 =>
    let (s, m) := s.drawBytes 32
    s.vaultCommit c { present := true, type := 2, uses := usesUnlimited, generation := x.generation + 1, material := m }
  | _ =>
    s.vaultCommit c { present := true, type := c.type, imported := true, exportable := c.exportable
                      expires := c.expires, hostUse := c.hostUse, long := c.long, uses := c.uses
                      generation := x.generation + 1, material := c.data }

/-- A command is judged and run (R302). A use that an expired slot refuses is counted (R300, R317). -/
def State.vaultStart (s : State) (c : VaultCmd) (due : Nat) (pass : Bool := true) : State :=
  match s.vaultCheck c with
  | 0 => s.vaultRun c due pass
  | 10 => (s.kvtEvent F.kvtEvtEsFail c.slot).vaultEnd c 10
  | 5 => (onlyIf (s.slot (if c.op = 6 then 0 else c.aux)).expired (fun s => s.count .kvt 0 4) s).vaultEnd c 5
  | r => s.vaultEnd c r

/-- A host command as KVT_CMD and the argument registers give it (R302, R318). -/
def State.vaultCapture (s : State) (op slot aux : Nat) : VaultCmd :=
  { op := op, slot := slot, aux := aux, type := s.rd F.kvtArgType, long := s.on F.kvtArgLength
    hostUse := s.on F.kvtArgHostUse, expires := s.on F.kvtArgExpires, uses := s.rd F.kvtUsesUses
    ctxLen := s.rd F.kvtArgCtxLen
    data := (let n := if op = 3 then blobLen s else 128; s.rdBytes .kvt 0x300 n)
    addr := s.rd F.kvtDmaHiAddrHi * 2 ^ 32 + s.rd F.kvtDmaLoAddrLo }
where
  /-- The blob of IMPORT_WRAPPED is 56 or 88 bytes (R304): the longer where any byte past the shorter is set. -/
  blobLen (s : State) : Nat := if (s.rdBytes .kvt 0x338 32).any (· ≠ 0) then 88 else 56

/-- A KVT_CMD write lands (R302): ignored while a command runs. -/
def State.vaultLand (s : State) (c : VaultCmd) (cyc : Nat) (pass : Bool := true) : State :=
  s.gate .kvt 0 (fun s =>
    if s.on F.kvtStatBusy then s.wr F.kvtStatCmdLost 1 else s.vaultStart c (s.edgeFor cyc) pass)

/-- An officer command arrives (R302): it starts when the running command ends. -/
def State.vaultOfficer (s : State) (c : VaultCmd) (cyc : Nat) : State :=
  if s.on F.kvtStatBusy then { s with vault := { s.vault with officerWaits := s.vault.officerWaits ++ [c] } }
  else s.vaultStart c (s.edgeFor cyc)

/-- The officer commands that waited start, one after the other, once the engine is free (R302). -/
def State.vaultNext (s : State) : State :=
  forL s.vault.officerWaits (fun c s =>
    if s.on F.kvtStatBusy then s
    else { s with vault := { s.vault with officerWaits := s.vault.officerWaits.drop 1 } }.vaultStart c (s.edgeFor s.cycle)) s

/-- A commit completes (R295, R303): the image with its tag is in the slot, usable at the next step 3; with NV writes
inhibited the slot keeps its old image. -/
def State.commitDone (s : State) (c : VaultCmd) (x : Slot) : State :=
  if s.nvInhibited then s.vaultEnd c 9
  else
    let x := { x with tag := x.tagFor s.vault.kint c.slot }
    let s := (s.setSlot c.slot x).schedule (s.tick + 1) (.slotUsable c.slot c.officer)
    let s := if c.op = 11 then
        let s := { s with vault := { s.vault with expanded := true } }
        if s.on F.kvtOtpProvLock then
          { s with vault := { s.vault with cert := [] } }.kvtEvent F.kvtEvtCertStale 0
        else s
      else s
    s.vaultEnd c 0

/-! ### Step 3 of an edge (R303, R306, R307) -/

/-- A committed slot becomes usable; one derived from a parent that an earlier change at this step removed is dropped
with result 5 (R303), which on the officer path KVT_STAT does not show (R302). -/
def State.slotBecomes (s : State) (v : Nat) (officer : Bool) : State :=
  let x := s.slot v
  match x.parent with
  | some p =>
    if (s.slot p).present ∧ (s.slot p).usable then s.setSlot v { x with usable := x.present }
    else onlyIf (!officer) (fun s => s.wr F.kvtStatResult 5) (s.setSlot v {})
  | none => s.setSlot v { x with usable := x.present && !x.bad }

/-- The slots of a list and all their descendants, at any depth (R307); depth is at most 3. A child that is not usable yet
is judged when its own change comes up (R303). -/
def State.withDescendants (s : State) (vs : List Nat) : List Nat :=
  forN 4 (fun _ acc => acc ++ (s.vault.slots.filterMap (fun e => match e.2.parent with
    | some p => if acc.contains p && !acc.contains e.1 && (e.2.usable || e.2.bad) then some e.1 else none
    | none => none))) vs

/-- Slot `v` and its descendants leave the vault (R306, R307): the state, and the slots invalidated. A slot whose tag
failed stays BAD in its place. -/
def State.removeSlots (s : State) (v : Nat) : State × List Nat :=
  let vs := s.withDescendants [v]
  let keepBad := (s.slot v).bad
  let s := forL vs (fun u s => if u = v ∧ keepBad then s else s.setSlot u {}) s
  let s := forL vs (fun u s => s.tellSlot u) s
  (onlyIf (vs.contains 0) (fun s => { s with vault := { s.vault with expanded := false } }) s, vs)

/-- A DELETE acts at step 3 (R303): nothing where the slot is empty by then. A BAD slot is emptied. -/
def State.deleteSlot (s : State) (v : Nat) : State × List Nat :=
  if (s.slot v).present then (s.setSlot v { s.slot v with bad := false }).removeSlots v else (s, [])

/-! ### The commands -/

/-- GENERATE (R302). -/
def execGenerate (slot : SlotNo) (cyc : Cyc) (s : State) : Host.Outcome State Fault Refusal :=
  done ((s.at cyc).vaultLand (s.vaultCapture 1 slot 0) cyc)

/-- DERIVE (R305). -/
def execDerive (slot parent : SlotNo) (cyc : Cyc) (s : State) : Host.Outcome State Fault Refusal :=
  done ((s.at cyc).vaultLand (s.vaultCapture 2 slot parent) cyc)

/-- IMPORT_WRAPPED (R304). -/
def execImportWrapped (slot kek : SlotNo) (cyc : Cyc) (s : State) : Host.Outcome State Fault Refusal :=
  done ((s.at cyc).vaultLand (s.vaultCapture 3 slot kek) cyc)

/-- EXPORT_WRAPPED (R304). -/
def execExportWrapped (slot kek : SlotNo) (cyc : Cyc) (s : State) : Host.Outcome State Fault Refusal :=
  done ((s.at cyc).vaultLand (s.vaultCapture 4 slot kek) cyc)

/-- DELETE (R303). -/
def execDelete (slot : SlotNo) (cyc : Cyc) (s : State) : Host.Outcome State Fault Refusal :=
  done ((s.at cyc).vaultLand (s.vaultCapture 5 slot 0) cyc)

/-- ATTEST (R312). -/
def execAttest (slot : SlotNo) (cyc : Cyc) (s : State) : Host.Outcome State Fault Refusal :=
  done ((s.at cyc).vaultLand (s.vaultCapture 6 slot 0) cyc)

/-- READ_CERT (R313). -/
def execReadCert (cyc : Cyc) (s : State) : Host.Outcome State Fault Refusal :=
  done ((s.at cyc).vaultLand (s.vaultCapture 7 1 0) cyc)

/-- KCV (R311). -/
def execKcv (slot : SlotNo) (cyc : Cyc) (s : State) : Host.Outcome State Fault Refusal :=
  done ((s.at cyc).vaultLand (s.vaultCapture 8 slot 0) cyc)

/-- ES_RESTART (R316): `pass` is the outcome of the start-up tests. -/
def execEsRestart (pass : Bool) (cyc : Cyc) (s : State) : Host.Outcome State Fault Refusal :=
  done ((s.at cyc).vaultLand (s.vaultCapture 9 1 0) cyc pass)

/-- SCRUB (R293). -/
def execScrub (cyc : Cyc) (s : State) : Host.Outcome State Fault Refusal :=
  done ((s.at cyc).vaultLand (s.vaultCapture 10 1 0) cyc)

/-- IDENTITY_GEN (R313). -/
def execIdentityGen (slot : SlotNo) (cyc : Cyc) (s : State) : Host.Outcome State Fault Refusal :=
  done ((s.at cyc).vaultLand (s.vaultCapture 11 slot 0) cyc)

/-- IMPORT (R302): while an officer session is open, the officer's plain import, with its argument word, uses and
data; otherwise KVT_CMD with op 12 on the host path, which has no authority for it. -/
def execImport (slot : SlotNo) (arg uses : Word) (data : List Byte) (cyc : Cyc) (s : State) :
    Host.Outcome State Fault Refusal :=
  done (if s.on F.ofcStatSession then
    (s.at cyc).vaultOfficer
      { op := 12, slot := slot, officer := true, type := getF arg 0 4, long := getF arg 4 1 = 1
        hostUse := getF arg 5 1 = 1, expires := getF arg 6 1 = 1, exportable := getF arg 7 1 = 1
        uses := uses.toNat, data := data } cyc
  else (s.at cyc).vaultLand (s.vaultCapture 12 slot 0) cyc)

/-- KVT_UNKNOWN_OP (R302): codes 0 and 13 to 15 do nothing and return 11. -/
def execKvtUnknownOp (cyc : Cyc) (s : State) : Host.Outcome State Fault Refusal :=
  done ((s.at cyc).vaultLand (s.vaultCapture 0 1 0) cyc)

/-- VAULT_COMMIT_DONE (R303). -/
def execVaultCommitDone (s : State) : Host.Outcome State Fault Refusal :=
  done (match s.vault.cmd with
    | some c => match c.image with
      | some x => (s.commitDone c x).vaultNext
      | none => s
    | none => s)

/-- USE_RESERVATION (R292, R299): a reservation is committed, which is a write of the slot, the stock refills, and a vault
command that waited goes on. With NV writes inhibited by then, nothing is committed and the waiting use is refused. -/
def execUseReservation (v : SlotNo) (s : State) : Host.Outcome State Fault Refusal :=
  done (match s.vault.reserving.find? (fun e => e.1 = v.val) with
    | none => s
    | some (_, r) =>
      let s := { s with vault := { s.vault with reserving := s.vault.reserving.filter (fun e => e.1 ≠ v.val) } }
      let x := s.slot v
      let s := if s.nvInhibited then (s.count .kvt 0 4).kvtEvent F.kvtEvtUseRefused v
        else if x.present then
          let x := { x with uses := x.uses - r, stock := x.stock + r, generation := x.generation + 1 }
          (s.setSlot v { x with tag := x.tagFor s.vault.kint v }).count .kvt 0 5
        else s
      match s.vault.cmd with
      | some c =>
        if c.waits = some v.val then
          (if s.nvInhibited then s.vaultEnd c 5 else s.vaultTake { c with waits := none } v).vaultNext
        else s
      | none => s)

/-- SCRUB_TIMER (R293): every 2^scrub_log2 ticks; 0 disables, other values act within 12 to 24. -/
def execScrubTimer (s : State) : Host.Outcome State Fault Refusal :=
  let n := s.rd F.kvtScrubScrubLog2
  done (onlyIf (s.ready .kvt && decide (n ≠ 0) && decide (s.tick % 2 ^ max 12 (min 24 n) = 0))
    (fun s => s.scrubSlots) s)

/-- ATTEST_TIMEOUT (R312): a statement not finished 64 ticks after it began ends with 12 and writes nothing. -/
def execAttestTimeout (s : State) : Host.Outcome State Fault Refusal :=
  done (match s.vault.cmd with
    | some c => if c.op = 6 ∧ c.waits = none ∧ c.began + 64 ≤ s.tick then (s.vaultEnd c 12).vaultNext else s
    | none => s)

/-- The signing of a statement begins at an edge, once a lattice unit is free (R262, R312). -/
def State.attestEdge (s : State) : State :=
  match s.vault.cmd with
  | some c =>
    if c.op = 6 ∧ c.waits = none ∧ c.statement.isEmpty ∧ (s.kindle.lattice.take 4).contains .attest then
      { s with vault := { s.vault with cmd := some { c with statement := s.statement c.slot c.data s.tick } } }
    else s
  | none => s

/-- A finished attestation (R312): statement and signature go to the host. -/
def State.attestDone (s : State) : State :=
  match s.vault.cmd with
  | some c =>
    if c.op = 6 ∧ !c.statement.isEmpty then
      let (s, rnd) := s.draw 32
      let sig := Config.dsaSign (s.slot 0).key c.statement (ascii "heserok attest") rnd
      let out := c.statement ++ sig
      let s := s.count .kvt 0 9
      (s.vaultDeliver c out).vaultNext
    else s
  | none => s

/-- A KVT_OTP_CMD write lands (R314): refused for a wrong guard, a target above the running image's security epoch or
below the count, or inhibited NV writes. -/
def State.landOtp (s : State) (target guard : Nat) : State :=
  if guard ≠ 0x3C ∨ s.rd F.devBootVersion / 256 < target ∨ target < s.rd F.kvtOtpRollback ∨
      s.nvInhibited ∨ s.on F.kvtOtpBusy then s
  else { s.wr F.kvtOtpBusy 1 with vault := { s.vault with otpRun := some (target, s.tick) } }

/-- OTP_ADVANCE (R314). -/
def execOtpAdvance (target guard : Byte) (cyc : Cyc) (s : State) : Host.Outcome State Fault Refusal :=
  done ((s.at cyc).gate .kvt 0 (fun s => s.landOtp target.toNat guard.toNat))

/-- The rollback bits are set as far as 1 ms each allows since the command began (R314): what a power loss or an inhibit
part-way leaves. -/
def State.otpCut (s : State) : State :=
  match s.vault.otpRun with
  | some (n, t0) => s.wr F.kvtOtpRollback (min n (s.rd F.kvtOtpRollback + (s.tick - t0) / 125))
  | none => s

/-- OTP_DONE (R314): the bits are set, 1 ms after the command for each; with NV writes inhibited on the way, those of the
time run. -/
def execOtpDone (s : State) : Host.Outcome State Fault Refusal :=
  done (match s.vault.otpRun with
    | some (n, t0) =>
      if !s.nvInhibited && decide (s.tick < t0 + 125 * (n - s.rd F.kvtOtpRollback)) then s else
      let s := if s.nvInhibited then s.otpCut else s.wr F.kvtOtpRollback n
      ({ s.wr F.kvtOtpBusy 0 with vault := { s.vault with otpRun := none } }).kvtEvent F.kvtEvtOtpDone 0
    | none => s)

end Sys2Proof.Machine
end

