-- ==== Sys2Proof/Machine/Assoc.lean ====
section
/-! DEFINITION. Associations (R149 to R171): states, packet numbers, the replay check, key phases, and the commands of
the association window. -/

namespace Sys2Proof.Machine

open Sys2Proof

/-! ### States and events -/

/-- An ASN event naming an association (R170). -/
def State.asnEvent (s : State) (f : Fld) (a : Nat) : State :=
  ((s.wrEvt F.asnLastAssoc a).wrEvt F.asnLastBit f.lo).event f

/-- Whether a state may become DEAD (R153). -/
def AState.keyed : AState → Bool
  | .kindling | .live | .rolling | .draining => true
  | _ => false

/-- An entry becomes DEAD with a cause (R153), where its state allows it. -/
def State.deadAsn (s : State) (a cause : Nat) : State :=
  if (s.asn a).state.keyed then
    let s := ((s.modAsn a (fun e => { e with state := .dead, deadCause := cause, deadAt := s.tick })).asnEvent F.asnEvtDeadEntered a).count .asn 0 8
    s.tellDead a (s.asn a).slice (s.asn a).sliceValid
  else s

/-- A quench of the table (R168): every entry is QUENCHED, its keys and numbers gone. -/
def State.quenchAsn (s : State) : State :=
  { s.wr F.asnStatQuenchBusy 1 with
    assocs := s.assocs.mapAll (fun e => { e with state := .quenched })
    pwr := { s.pwr with sweepFrom := some s.tick } }

/-- The bank sweep ends (R168): all 256 bytes of every entry are zero, the state alone excepted. -/
def State.sweepDone (s : State) : State :=
  { s.wr F.asnStatQuenchBusy 0 with
    assocs := s.assocs.mapAll (fun e => if e.state = .quenched then { state := .quenched, replayWin := 0, softLimit := 0 } else e)
    pwr := { s.pwr with sweepFrom := none } }

/-! ### Packet numbers (R160 to R163) -/

/-- Whether a claim advances the mark in its own cycle (R161): in SOLO, or with no partner in STANDBY. -/
def State.soloClaims (s : State) : Bool := decide (s.effMode = 6) || !s.on F.fluStatPartnerSync

/-- PN_CLAIM (R161): the next block is claimed: advanced at once without a partner, else sent in the next mirror frame. -/
def State.claim (s : State) (a : Nat) : State :=
  let e := s.asn a
  if e.hardLimit ≤ e.pnMark then s
  else if s.soloClaims then s.setAsn a { e with pnMark := e.pnMark + 2 ^ 24 }
  else
    let s := s.setAsn a { e with claimPending := true }
    { s with pair := { s.pair with records := s.pair.records ++ [.pnMark a e.txPhase e.tx.epoch (e.pnMark + 2 ^ 24)] } }

/-- The soft limit tested (R163): reached for the first time under this key, it is announced at the next edge. -/
def State.softTest (s : State) (a : Nat) : State :=
  let e := s.asn a
  if !e.state.keyless && !e.softHit && e.tx.valid && decide (e.softLim ≤ e.nextPn) then
    (s.setAsn a { e with softHit := true }).schedule (s.tick + 1) (.softHit a)
  else s

/-- PN_ASSIGN (R160, R161, R163): the number assigned, and the entry after it. -/
def State.assignPn (s : State) (a : Nat) : State × Nat :=
  let e := s.asn a
  let n := e.nextPn
  let s := if n + 2 ^ 23 = e.pnMark then s.claim a else s
  let s := (s.modAsn a (fun e => { e with nextPn := n + 1 })).softTest a
  let s := if n + 1 = e.hardLimit then (s.asnEvent F.asnEvtHardHit a).schedule (s.tick + 1) (.asnDead a 3) else s
  (s, n)

/-! ### Replay (R164, R165, R213) -/

/-- Whether a number is discarded as a replay on a phase (R164). -/
def replayed (p : Phase) (w pn : Nat) : Bool :=
  (decide (w ≤ p.rxHi) && decide (pn + w < p.rxHi + 1)) ||
  (decide (pn ≤ p.rxHi) && decide (p.rxHi - pn ≤ 127) && p.rxMap.getLsbD (p.rxHi - pn))

/-- The receive state after a number passed (R165). -/
def Phase.received (p : Phase) (pn : Nat) : Phase :=
  if p.rxHi < pn then { p with rxHi := pn, rxMap := (p.rxMap <<< (pn - p.rxHi)) ||| 1 }
  else if p.rxHi - pn ≤ 127 then { p with rxMap := p.rxMap ||| (1 <<< (p.rxHi - pn)) }
  else p

/-- PN_RECOVERY (R213): the 64-bit number, none where its upper half would reach 2^32. -/
def recoverPn (p : Phase) (win low : Nat) : Option Nat :=
  let w := min win (2 ^ 30)
  let base := if p.rxHi = 0 ∨ p.rxHi + 1 ≤ w then 1 else p.rxHi + 1 - w
  let hi := base / 2 ^ 32 + (if low < base % 2 ^ 32 then 1 else 0)
  if hi < 2 ^ 32 then some (hi * 2 ^ 32 + low) else none

/-! ### Key phases (R158, R159) -/

/-- Whether an install is allowed (R158): its epoch is above both. -/
def Assoc.mayInstall (e : Assoc) (epoch : Nat) : Bool := decide (e.ph0.epoch < epoch ∧ e.ph1.epoch < epoch)

/-- A key installed in the idle phase of a LIVE entry, which then rolls (R153, R158). -/
def State.installIdle (s : State) (a : Nat) (key : BitVec 256) (salt : BitVec 96) (epoch : Nat) : State :=
  let e := s.asn a
  let p : Phase := { key := key, salt := salt, epoch := epoch, valid := true }
  let e := e.setPh (!e.txPhase) p
  s.setAsn a { e with state := if e.state = .live then .rolling else e.state }

/-- Phase 0 installed on a KINDLING entry (R259). -/
def State.installFirst (s : State) (a : Nat) (key : BitVec 256) (salt : BitVec 96) (epoch : Nat) : State :=
  let e := s.asn a
  (s.setAsn a { e with ph0 := { key := key, salt := salt, epoch := epoch, valid := true }, txPhase := false
                       nextPn := if e.otn then 0 else 1, pnMark := 2 ^ 24, softHit := false
                       claimPending := false }).softTest a

/-- KEY_PHASE_SWITCH of one entry at the present edge (R159): only in ROLLING. -/
def State.switchAsn (s : State) (a overlap : Nat) : State :=
  let e := s.asn a
  if e.state = .rolling then
    (s.setAsn a { e with state := .live, txPhase := !e.txPhase, nextPn := if e.otn then 0 else 1, pnMark := 2 ^ 24
                         overlapAt := some (s.tick + overlap), claimPending := false, softHit := false }).softTest a
  else s

/-- A rollover abandoned (R153, R266): the key, salt and epoch of the idle phase are zeroed and tx_phase stays. -/
def State.abandonAsn (s : State) (a : Nat) : State :=
  let e := s.asn a
  if e.state = .rolling then s.setAsn a { (e.setPh (!e.txPhase) {}) with state := .live }
  else s

/-- The old phase ends at overlap_end (R159). -/
def State.overlapAsn (s : State) (a : Nat) : State :=
  let e := s.asn a
  match e.overlapAt with
  | some t =>
    if t ≤ s.tick then s.setAsn a { (e.setPh (!e.txPhase) {}) with overlapAt := none } else s
  | none => s

/-- DRAINING ends at drain_end (R153). -/
def State.drainAsn (s : State) (a : Nat) : State :=
  let e := s.asn a
  match e.drainAt with
  | some t =>
    if e.state = .draining ∧ t ≤ s.tick then s.setAsn a { e with state := .idle, drainAt := none } else s
  | none => s

/-! ### The entry image (R150) -/

/-- Whether a write of an image is refused with 3 (R166, R206): outside IDLE it may change only the fields R166 names;
conf_off 3 is reserved; vlan_clear = 1 with conf_off = 2 is never in effect. -/
def Assoc.imageRefused (e : Assoc) (m : List Byte) : Bool :=
  let n := e.withImage m
  let fixed := { n with queue := e.queue, domain := e.domain, domainValid := e.domainValid, slice := e.slice
                        sliceValid := e.sliceValid, replayWin := e.replayWin, softLimit := e.softLimit
                        autoRecover := e.autoRecover }
  decide (n.confOff = 3) || (n.vlanClear && decide (n.confOff = 2)) || (decide (e.state ≠ .idle) && decide (fixed ≠ e))

/-! ### The window (R166) -/

/-- Whether a state accepts a command (R166). -/
def asnAccepts (op : Nat) (st : AState) : Bool :=
  match op with
  | 1 => true
  | 2 => decide (st ≠ .quenched)
  | 3 => decide (st = .idle)
  | 4 => decide (st = .kindling ∨ st = .live ∨ st = .rolling)
  | 5 => st.keyed
  | 6 => decide (st = .dead)
  | 7 => decide (st = .idle ∨ st = .dead ∨ st = .quenched)
  | _ => false

/-- The result that refuses a command at landing; 1 where it is accepted (R166, R168, R393). -/
def State.asnJudge (s : State) (op a : Nat) (m : List Byte) : Nat :=
  let e := s.asn a
  if op = 0 ∨ 8 ≤ op then 5
  else if s.on F.asnStatQuenchBusy ∧ op ≠ 1 then 4
  else if s.effMode = 5 ∧ op ≠ 1 then 2
  else if !asnAccepts op e.state then 2
  else if op = 2 ∧ e.imageRefused m then 3
  else if op = 1 then 0
  else 1

/-- The entry image that the window holds. -/
def State.asnImage (s : State) : List Byte := s.rdBytes .asnw 0x100 256

/-- The image that a READ under way is to give, replaced. -/
def State.setReading (s : State) (r : Option (List Byte)) : State := { s with assocs := { s.assocs with reading := r } }

/-- A READ that has run for its 64 cycles has written the window's data (R166). -/
def State.asnFinish (s : State) : State :=
  match s.assocs.reading with
  | some m =>
    if s.asnBusy ≤ s.now then (s.wrWords .asnw 0x100 (leWords m)).setReading none else s
  | none => s

/-- A window command lands (R52, R166): READ takes the entry as it stands, and gives it when it finishes; the others are
judged and act at their edge. -/
def State.asnLand (s : State) (op a cyc : Nat) : State :=
  s.gate .asn 0 (fun s =>
    if s.now < s.asnBusy then s.wr F.asnWinStatCmdLost 1
    else
      let s := s.asnFinish
      let m := if op = 2 then s.asnImage else []
      let r := s.asnJudge op a m
      let s := { s.wr F.asnWinStatResult r with asnBusy := s.now + 64 }
      if r = 0 then s.setReading (some (s.asn a).image)
      else if r = 1 then
        { s with sched := s.sched ++
            [{ due := s.edgeFor cyc, held := decide (op = 2) && s.on F.devCommitCtlHold, act := .asnCmd op a m }] }
      else s.count .asn 0 9)

/-- A command refused at its edge (R166). -/
def State.asnRefused (s : State) (a : Nat) : State := (s.asnEvent F.asnEvtEdgeRefused a).count .asn 0 9

/-- The guards of R154 but the use: the port enabled, on the cipher side and of the entry's kind, and the slot valid
and of a type that may parent working keys. -/
def State.startGuards (s : State) (a : Nat) : Bool :=
  let e := s.asn a
  decide (e.port < 144) && s.portOn e.port && s.portCipher e.port && decide (s.portOtn e.port = e.otn) &&
    s.slotStands e.slot 5

/-- A START or RESTART that waits for a reservation: these stand ahead of all that landed later, in landing order. -/
def Sched.isAsnWait (e : Sched) : Bool :=
  match e.act with
  | .asnWait _ _ => true
  | _ => false

/-- START or RESTART at its edge (R154): a use of the traffic root is spent; one that waits for a reservation stays
accepted and is examined ahead of later commands at the next edge. -/
def State.kindleAsn (s : State) (op a : Nat) : State :=
  if !s.startGuards a then s.asnRefused a
  else match s.takeUse (s.asn a).slot with
    | (s, .granted) => s.modAsn a (fun e => { e with state := .kindling, deadCause := 0 })
    | (s, .waits) =>
      let first := s.sched.takeWhile Sched.isAsnWait
      { s with sched := first ++ [{ due := s.tick + 1, held := false, act := .asnWait op a }] ++ s.sched.drop first.length }
    | (s, .refused) => s.asnRefused a

/-- A write that binds one more association to a slice than its quota allows (R342): entries count in any state. -/
def State.overQuota (s : State) (a : Nat) (n : Assoc) : Bool :=
  let e := s.asn a
  let base := s.assocs.base
  let of := fun (x : Assoc) => x.sliceValid && decide (x.slice = n.slice)
  let count := (s.assocs.m.filter (fun x => of x.2)).length + (if of base then 131072 - s.assocs.m.length else 0)
  of n && !of e && decide (s.rd F.hstSquotaAssocQuota 0 n.slice < count + 1)

/-- A command acts at step 2 of its edge, checked again (R153, R166). `wait` holds back a RESTART under R309. -/
def State.asnAct (s : State) (op a : Nat) (m : List Byte) (wait : Bool) : State :=
  let e := s.asn a
  if !asnAccepts op e.state ∨ (s.on F.asnStatQuenchBusy ∧ op ≠ 1) then s.asnRefused a
  else match op with
    | 2 =>
      if e.imageRefused m ∨ s.overQuota a (e.withImage m) then s.asnRefused a else (s.setAsn a (e.withImage m)).softTest a
    | 3 => s.kindleAsn 3 a
    | 4 => s.setAsn a { e with state := .draining, drainAt := some (s.tick + max 1 (s.rd F.asnCtlDrainTicks)) }
    | 5 => s.deadAsn a 1
    | 6 => if wait then (s.asnRefused a).wr F.asnWinStatResult 2 else s.kindleAsn 6 a
    | _ => s.setAsn a {}

/-- An auto_recover restart (R153, R154, R309): at an edge after the one that made the entry DEAD, taken where the guards
hold, left for a later edge where they do not. -/
def State.autoRecover (s : State) (a : Nat) (wait : Bool) : State :=
  let e := s.asn a
  if e.state = .dead ∧ e.autoRecover ∧ s.cycle = 0 ∧ e.deadAt < s.tick ∧ !wait ∧ s.startGuards a ∧ !(s.slot e.slot).expired then
    match s.takeUse e.slot with
    | (s, .granted) => s.modAsn a (fun e => { e with state := .kindling, deadCause := 0 })
    | (s, _) => s
  else s

/-! ### The commands -/

/-- ASN_READ (R166). -/
def execAsnRead (a : AssocNo) (cyc : Cyc) (s : State) : Host.Outcome State Fault Refusal :=
  done ((s.at cyc).asnLand 1 a cyc)
/-- WRITE_CFG (R166). -/
def execWriteCfg (a : AssocNo) (cyc : Cyc) (s : State) : Host.Outcome State Fault Refusal :=
  done ((s.at cyc).asnLand 2 a cyc)
/-- START (R154). -/
def execStart (a : AssocNo) (cyc : Cyc) (s : State) : Host.Outcome State Fault Refusal :=
  done ((s.at cyc).asnLand 3 a cyc)
/-- STOP (R153). -/
def execStop (a : AssocNo) (cyc : Cyc) (s : State) : Host.Outcome State Fault Refusal :=
  done ((s.at cyc).asnLand 4 a cyc)
/-- KILL (R153). -/
def execKill (a : AssocNo) (cyc : Cyc) (s : State) : Host.Outcome State Fault Refusal :=
  done ((s.at cyc).asnLand 5 a cyc)
/-- RESTART (R154). -/
def execRestart (a : AssocNo) (cyc : Cyc) (s : State) : Host.Outcome State Fault Refusal :=
  done ((s.at cyc).asnLand 6 a cyc)
/-- RELEASE (R151). -/
def execRelease (a : AssocNo) (cyc : Cyc) (s : State) : Host.Outcome State Fault Refusal :=
  done ((s.at cyc).asnLand 7 a cyc)
/-- ASN_UNKNOWN_OP (R166): codes 0 and 8 to 15 do nothing and return 5. -/
def execAsnUnknownOp (a : AssocNo) (cyc : Cyc) (s : State) : Host.Outcome State Fault Refusal :=
  done ((s.at cyc).asnLand 0 a cyc)

/-- DRAIN_END (R153): the edge named by drain_end has come. -/
def execDrainEnd (a : AssocNo) (s : State) : Host.Outcome State Fault Refusal := done (s.drainAsn a)

end Sys2Proof.Machine
end

