-- ==== Sys2Proof/Machine/Hearth.lean ====
section
/-! DEFINITION. The Hearth (R319 to R330), admission (R321), and the scheduler (R331 to R334). -/

namespace Sys2Proof.Machine

open Sys2Proof

/-! ### Cells and occupancy (R319, R323, R324) -/

/-- The cells of the pool. -/
def poolCells : Nat := 1048576

/-- The state with the Hearth changed by `f`. -/
def State.modHearth (s : State) (f : Hearth → Hearth) : State := { s with hearth := f s.hearth }

/-- The cells of a stored length (R319). -/
def cellsOf (b : Nat) : Nat := ceilDiv b 256

/-- Whether a frame holds cells on die. -/
def HFrame.here (f : HFrame) : Bool := decide (f.place ≠ .region)

/-- The on-die occupancy of a queue (R323). -/
def State.occupancy (s : State) (q : Nat) : Nat :=
  ((s.hearth.frames.filter (fun f => f.queue = q && f.here)).map (·.cells)).sum +
    ((s.hearth.groups.filter (fun g => g.queue = q)).map (·.cells)).sum

/-- The spilled occupancy of a queue (R329): what it has admitted to spill and not fetched back. -/
def State.spilledOf (s : State) (q : Nat) : Nat :=
  ((s.hearth.frames.filter (fun f => f.queue = q && decide (f.place ≠ .onDie))).map (·.cells)).sum

/-- Cells that wait for a move to the region (R329), and cells held there (R336). -/
def State.spillBacklog (s : State) : Nat :=
  ((s.hearth.frames.filter (fun f => decide (f.place = .toSpill))).map (·.cells)).sum
def State.spillCells (s : State) : Nat :=
  ((s.hearth.frames.filter (fun f => decide (f.place = .region))).map (·.cells)).sum

/-- The queues with otn = 1. -/
def State.otnQueues (s : State) : List Nat :=
  s.regs.filterMap (fun e => if e.1.page = .hrt ∧ e.1.off = 0x124 ∧ getF e.2 0 1 = 1 then some e.1.obj else none)

/-- The total of the shares of OTN queues in effect (R324, R336). -/
def State.otnShares (s : State) : Nat := (s.otnQueues.map (fun q => s.rd F.hrtQshareShare 0 q)).sum

/-- The pool reserve in effect (R336). -/
def State.reserveCells (s : State) : Nat := min poolCells (s.rd F.hrtResvReserve)

/-- Free cells (R324): the one figure of HRT_POOL and of check 5. -/
def State.freeCells (s : State) : Nat :=
  let held := ((s.hearth.frames.filter HFrame.here).map (·.cells)).sum + (s.hearth.groups.map (·.cells)).sum
  let aside := (s.otnQueues.map (fun q => s.rd F.hrtQshareShare 0 q - s.occupancy q)).sum
  let zeroing := (s.hearth.zeroing.map (·.1)).sum + (s.hearth.flushes.map (·.left)).sum
  poolCells - held - aside - zeroing - s.hearth.staging

/-- An HRT event, naming a queue in HRT_LAST (R336). -/
def State.hrtEvent (s : State) (f : Fld) (q : Nat) : State :=
  ((s.wrEvt F.hrtLastQueue q).wrEvt F.hrtLastBit f.lo).event f

/-- Cells freed for another reason than transmission: zero within a tick (R326). -/
def State.zeroCells (s : State) (n : Nat) : State :=
  onlyIf (decide (n ≠ 0)) (fun s => s.modHearth (fun h => { h with zeroing := h.zeroing ++ [(n, s.tick + 1)] })) s

/-- A frame replaced, found by its id; or removed. -/
def State.putFrame (s : State) (f : HFrame) : State :=
  s.modHearth (fun h => { h with frames := h.frames.map (fun x => if x.id = f.id then f else x) })
def State.dropFrame (s : State) (id : Nat) : State :=
  s.modHearth (fun h => { h with frames := h.frames.filter (fun x => decide (x.id ≠ id)) })

/-! ### The tree (R331) -/

/-- The keys of service and port nodes among the credits. -/
def svcKey (n : Nat) : Nat := 16384 + n
def prtKey (p : Nat) : Nat := 32768 + p

/-- The register object of a node: SCH registers are kept per node (R337, R491). -/
def State.queueSvc (s : State) (q : Nat) : Nat := s.rd F.schTreeParent 0 q
def State.svcPort (s : State) (n : Nat) : Nat := s.rd F.schTreeParent 0 (svcKey n)
/-- The port node above a queue: its egress port (R320). -/
def State.queuePort (s : State) (q : Nat) : Nat := s.svcPort (s.queueSvc q)

/-- The rate and burst of a node in bytes per tick and bytes (R332, R337). -/
def State.nodeRate (s : State) (k : Nat) : Nat := min 1600000 (s.rd F.schRateRate 0 k)

/-- The credit of a node. -/
def State.credit (s : State) (k : Nat) : Int := nget 0 s.hearth.credit k

/-- A node is eligible by its credit (R332). -/
def State.creditOk (s : State) (k : Nat) : Bool := decide (s.nodeRate k = 0) || decide (0 ≤ s.credit k)

/-- The credit that a refill leaves (R332). -/
def refilled (credit : Int) (rate burst : Nat) : Int := min (credit + rate) burst

/-- A node charged for a frame (R332): never below −9,600. -/
def State.chargeNode (s : State) (k n : Nat) : State :=
  if s.nodeRate k = 0 then s
  else
    let v := s.credit k - n
    let s := s.modHearth (fun h => { h with credit := nset 0 h.credit k (max (-9600) v) })
    onlyIf (decide (v < -9600)) (fun s => s.count .sch 0 4) s

/-! ### Admission (R321 to R324, R329) -/

/-- Nothing stops admission as a whole: a PFW shed, a halt or a handover (R45, R429, R404). -/
def State.admits (s : State) : Bool := !s.pwr.shed && !s.pwr.halted && !s.pair.noAdmit

/-- Sealed traffic is admitted: in the modes that seal (R36), with nothing that stops it. -/
def State.admitting (s : State) : Bool := s.sealing && s.admits

/-- Bypassed traffic is admitted: in every mode but those with no line traffic at all (R36), with nothing that stops
it. -/
def State.admitsPlain (s : State) : Bool := decide (2 ≤ s.effMode ∧ s.effMode ≤ 7) && s.admits

/-- The policer rate of a queue (R322, R336). -/
def State.polRate (s : State) (q : Nat) : Nat := min 1600000 (s.rd F.hrtQpolRateRate 0 q)

/-- The policer credit of a queue. -/
def State.polCredit (s : State) (q : Nat) : Int := nget 0 s.hearth.polCredit q

/-- Whether a frame conforms to the policer of its queue (R322). -/
def State.conforms (s : State) (q : Nat) : Bool :=
  decide (s.polRate q = 0) || decide (s.rd F.hrtQcfgPolMode 0 q = 0 ∨ s.rd F.hrtQcfgPolMode 0 q = 3) ||
    decide (0 ≤ s.polCredit q)

/-- The policer charged for `n` bytes (R322), within its 25 bits. -/
def State.chargePolicer (s : State) (q n : Nat) : State :=
  if s.polRate q = 0 then s
  else s.modHearth (fun h => { h with polCredit := nset 0 h.polCredit q (max (-16777216) (s.polCredit q - n)) })

/-- Whether a queue may spill (R329). -/
def State.maySpill (s : State) (q : Nat) : Bool :=
  s.on F.hrtSpillValid && s.on F.hrtQcfgSpillEn 0 q && s.on F.schTreePrio 0 q

/-- Whether a queue leads to an enabled port of the same side as ingress port `p`: nothing is forwarded to it (R129; DESIGN
CHOICE, log entry 55, that it is refused before sealing and not counted). -/
def State.sameSide (s : State) (p q : Nat) : Bool :=
  let o := s.queuePort q
  s.portOn o && decide (s.portCipher o = s.portCipher p)

/-- Checks 2 to 5 of R321 for an Ethernet frame of queue `q`: the place it is admitted to, or its refusal, counted. -/
def State.admitQueue (s : State) (q : Nat) : State × Option Place :=
  let ok := s.conforms q
  let mode := s.rd F.hrtQcfgPolMode 0 q
  let occ := s.occupancy q
  let fits := decide (occ < s.rd F.hrtQshareShare 0 q)
  let fifth := fun (s : State) (pl : Place) =>
    if s.reserveCells + 38 ≤ s.freeCells then (s, some pl) else (s.count .hrt 0 6, none)
  if (s.port (s.queuePort q)).refusing then (s.count .prt (s.queuePort q) 14, none)
  else if !ok && decide (mode = 1) then (s.count .hrt 0 3, none)
  else if !ok then
    if !fits then (s.count .hrt 0 2, none)
    else if occ < s.rd F.hrtQmarkMarkLimit 0 q then fifth s .onDie
    else (s.count .hrt 0 5, none)
  else if fits then fifth s .onDie
  else if s.maySpill q then
    if s.spilledOf q < s.rd F.hrtQspillSpillShare 0 q ∧ s.spillBacklog < max 1 (s.rd F.hrtSpillBacklog) then
      fifth s .toSpill
    else ((s.hrtEvent F.hrtEvtSpillFull q).count .hrt 0 2, none)
  else (s.count .hrt 0 2, none)

/-- Check 6 of R321 (R177). -/
def State.creditCheck (s : State) (c : Nat) : State × Bool :=
  if 0 < (s.chim c).credit then (s, true)
  else ((s.count .chm c 5).event F.chmEvtCreditRefused c, false)

/-- Check 7 of R321 (R161, R163) for association `a`. -/
def State.pnCheck (s : State) (a : Nat) : State × Bool :=
  let e := s.asn a
  if e.hardLimit ≤ e.nextPn then (s.count .asn 0 7, false)
  else if e.pnMark ≤ e.nextPn then
    if e.hardLimit ≤ e.pnMark then (s.count .asn 0 7, false)
    else ((s.count .asn 0 6).asnEvent F.asnEvtClaimStall a, false)
  else (s, true)

/-- A frame stored: admitted, a marked one not charged but counted (R322, R335), and a spilled one counted (R329). -/
def State.storeFrame (s : State) (f : HFrame) (polBytes : Nat) : State :=
  let ok := s.conforms f.queue
  let s := ((s.chargePolicer f.queue (if ok then polBytes else 0)).count .hrt 0 1).count .hrt 0 4 (b2n (!ok))
  let s := onlyIf (decide (f.place = .toSpill)) (fun s => s.count .hrt 0 9) s
  s.modHearth (fun h => { h with frames := h.frames ++ [{ f with id := h.nextId }], nextId := h.nextId + 1 })

/-! ### Children that empty (R333) -/

/-- A queue that holds no frame loses its deficit, and so does its service node when no queue under it holds one
(R333). -/
def State.emptied (s : State) (q : Nat) : State :=
  let sv := s.queueSvc q
  let zero := fun (k : Nat) (s : State) => s.modHearth (fun h => { h with deficit := nset 0 h.deficit k 0 })
  let s := onlyIf (!s.hearth.frames.any (fun f => decide (f.queue = q))) (zero q) s
  onlyIf (!s.hearth.frames.any (fun f => decide (s.queueSvc f.queue = sv))) (zero (svcKey sv)) s

/-! ### Flushes (R327) -/

/-- A flush of the queues that `sel` selects: their frames and groups are removed and counted, and their cells wait to
be zeroed. `q` is the queue that HRT_LAST will name. -/
def State.flushQueues (s : State) (sel : Nat → Bool) (q : Nat) : State :=
  let gone := s.hearth.frames.filter (fun f => sel f.queue)
  let groups := s.hearth.groups.filter (fun g => sel g.queue && g.released)
  let cells := ((gone.filter HFrame.here).map (·.cells)).sum + (groups.map (·.cells)).sum
  let s := s.count .hrt 0 8 (gone.length + groups.length)
  let s := s.modHearth (fun h =>
    { h with frames := h.frames.filter (fun f => !sel f.queue)
             groups := h.groups.filter (fun g => !(sel g.queue && g.released))
             flushes := h.flushes ++ [{ queue := q, left := cells }] })
  forL ((gone.map (·.queue)).eraseDups) (fun q s => s.emptied q) s

/-- Flush zeroing of one tick: 960,000 bank words, 60,000 cells, device-wide (R327), and the cells of failing frames,
zero within a tick (R326). What the spill engine may move begins anew (R329). -/
def State.zeroStep (s : State) : State :=
  s.modHearth (fun h =>
    { h with zeroing := h.zeroing.filter (fun e => s.tick < e.2)
             flushes := (h.flushes.foldl (fun (q : List Flush × Nat) f =>
               (q.1 ++ [{ f with left := f.left - q.2 }], q.2 - f.left)) ([], 60000)).1
             moved := 0
             fetched := 0 })

/-! ### Refills (R322, R332) -/

/-- Whether a node belongs to the tree of an OTN port (R334). -/
def State.nodeOtn (s : State) (k : Nat) : Bool :=
  s.portOtn (if k < 16384 then s.queuePort k else if k < 32768 then s.svcPort (k - 16384) else k - 32768)

/-- The nodes or queues whose credit a refill can change: those with a rate register written, and those with a credit
(with rate 0 a refill still caps the credit at the burst, R332). -/
def State.refillKeys (s : State) (pg : Page) (off : Nat) (credits : List (Nat × Int)) : List Nat :=
  (s.regs.filterMap (fun e => if e.1.page = pg ∧ e.1.off = off then some e.1.obj else none) ++
    credits.map (·.1)).eraseDups

/-- SHAPER_REFILL: every shaper and policer credit at step 6. -/
def State.refillNodes (s : State) : State :=
  let s := forL (s.refillKeys .sch 0x104 s.hearth.credit) (fun k s =>
    if s.nodeOtn k then s
    else
      let b : Nat := s.rd F.schBurstBurst 0 k
      let c := s.credit k
      let s := onlyIf (decide ((b : Int) < c + (s.nodeRate k : Int))) (fun s => s.count .sch 0 3) s
      s.modHearth (fun h => { h with credit := nset 0 h.credit k (refilled c (s.nodeRate k) b) })) s
  forL (s.refillKeys .hrt 0x134 s.hearth.polCredit) (fun q s => s.modHearth (fun h =>
    { h with polCredit := nset 0 h.polCredit q (refilled (s.polCredit q) (s.polRate q) (s.rd F.hrtQpolBurstBurst 0 q)) })) s

/-! ### The scheduler (R331 to R333) -/

/-- Whether a frame may leave (R331). -/
def State.frameReady (s : State) (f : HFrame) : Bool :=
  f.passed && decide (f.place ≠ .region) && decide (f.readyAt ≤ s.tick)

/-- The frame at the head of a queue. -/
def State.headOf (s : State) (q : Nat) : Option HFrame := s.hearth.frames.find? (fun f => f.queue = q)

/-- The frame a queue offers: its head, where it and the queue are eligible. -/
def State.offered (s : State) (q : Nat) : Option HFrame :=
  match s.headOf q with
  | some f => if s.frameReady f && s.creditOk q then some f else none
  | none => none

/-- The charge of a frame (R332, R333). -/
def State.chargeOf (s : State) (f : HFrame) : Nat := f.bytes.length + s.rd F.schCtlOvh

/-- A child of a round: its index among its siblings, its credit key and the frame it offers. -/
structure Child where
  idx : Nat
  key : Nat
  frame : HFrame
  deriving DecidableEq, Repr

/-- The quantum of a child (R333, R337). -/
def State.quantum (s : State) (k : Nat) : Nat := max 1 (s.rd F.schTreeWeight 0 k) * 1024

/-- A child's quantum is added to its deficit as the round comes to it (R333). -/
def State.addQuantum (s : State) (k : Nat) : State :=
  s.modHearth (fun h => { h with deficit := nset 0 h.deficit k (nget 0 h.deficit k + (s.quantum k : Int)) })

/-- Deficit round robin (R333): the round goes on from the child it stands at, adding each next child's quantum, until
one has deficit for its frame. The fuel bounds the round. -/
def drrRound : Nat → List Child → State → Option (Child × State)
  | 0, _, _ => none
  | _ + 1, [], _ => none
  | fuel + 1, c :: cs, s =>
    let d := nget 0 s.hearth.deficit c.key
    if (s.chargeOf c.frame : Int) ≤ d then some (c, s)
    else
      let next := (cs ++ [c]).head?
      let s := match next with
        | some n => s.addQuantum n.key
        | none => s
      drrRound fuel (cs ++ [c]) s

/-- The deficit round robin among the children of one priority, from the child whose turn it is, or the next eligible one
(R333; where a round stands and which child comes next is the model's choice, log entry 58). -/
def State.pickChild (s : State) (parent : Nat) (cs : List Child) (prio : Nat) : Option (Child × State) :=
  let l := cs.filter (fun c => s.rd F.schTreePrio 0 c.key = prio)
  let t := nget 0 s.hearth.turn (2 * parent + prio)
  let l := l.filter (fun c => t ≤ c.idx) ++ l.filter (fun c => c.idx < t)
  let s := match l.head? with
    | some c => onlyIf (decide (c.idx ≠ t)) (fun s => s.addQuantum c.key) s
    | none => s
  match drrRound (12 * l.length + 12) l s with
  | some (c, s) => some (c, s.modHearth (fun h => { h with turn := nset 0 h.turn (2 * parent + prio) c.idx }))
  | none => none

/-- The choice among a parent's eligible children (R333): those with prio = 0 before those with prio = 1. -/
def State.choose (s : State) (parent : Nat) (cs : List Child) : Option (Child × State) :=
  if cs.any (fun c => s.rd F.schTreePrio 0 c.key = 0) then s.pickChild parent cs 0 else s.pickChild parent cs 1

/-- A child loses the charge from its deficit (R333). -/
def State.payDeficit (s : State) (key n : Nat) : State :=
  s.modHearth (fun h => { h with deficit := nset 0 h.deficit key (nget 0 h.deficit key - n) })

/-- The frame that leaves next by port node `p`, with the rounds gone on (R331, R333). -/
def State.pickFrame (s : State) (p : Nat) : Option (HFrame × State) :=
  let qs := ((s.hearth.frames.map (·.queue)).eraseDups).filter (fun q => s.queuePort q = p && s.creditOk (svcKey (s.queueSvc q)))
  let svcs := (qs.map (fun q => s.queueSvc q)).eraseDups
  let offers := svcs.filterMap (fun n =>
    let cs := (qs.filter (fun q => s.queueSvc q = n)).filterMap (fun q => (s.offered q).map (fun f => Child.mk q q f))
    match s.choose (svcKey n) cs with
    | some (c, _) => some (Child.mk n (svcKey n) c.frame)
    | none => none)
  if !s.creditOk (prtKey p) then none
  else match s.choose (prtKey p) offers with
    | none => none
    | some (sv, s) =>
      let n := sv.idx
      let cs := (qs.filter (fun q => s.queueSvc q = n)).filterMap (fun q => (s.offered q).map (fun f => Child.mk q q f))
      match s.choose (svcKey n) cs with
      | some (c, s) => some (c.frame, s)
      | none => none

/-- Whether this unit sends on its line side (R36, R399): not in TAKEOVER, which holds its outputs. A halt squelches the
lanes and releases the lock at the next edge; until then frames already admitted leave (R429). -/
def State.driving (s : State) : Bool :=
  (decide (s.effMode = 4) || decide (s.effMode = 6)) && s.on F.fluStatLockHeld && !s.pwr.shed

/-- The port node `p` may send (R97, R331): an enabled Ethernet port that is up. -/
def State.portSends (s : State) (p : Nat) : Bool :=
  s.driving && s.portOn p && !s.portOtn p && (s.port p).up

/-- The idles after a frame of `n` bytes, and the deficit idle count they leave (R92): 12 on average, so that the next
frame begins at a multiple of 8 bytes with a deficit of 0 to 7 (PRESUMED, log entry 53). -/
def gapAfter (deficit n : Nat) : Nat × Nat :=
  let r := (n + 12) % 8
  if deficit + r ≤ 7 then (12 - r, deficit + r) else (20 - r, deficit + r - 8)

/-- The transmit MAC of an Ethernet port sends a frame (R92, R100): the preamble with its SFD, the frame, and the gap. -/
def State.macSend (s : State) (p : Nat) (bs : List Byte) (bad : Bool) : State :=
  let (idles, dic) := gapAfter (s.port p).dic bs.length
  let s := (s.count .prt p 3).count .prt p 4 bs.length
  (s.modPort p (fun r => { r with dic := dic })).emit (.frame p (beBytes 8 0x55555555555555D5 ++ bs) idles bad)

/-- A frame has left by port `p`: its nodes are charged, its cells return, the counts rise. -/
def State.sentFrame (s : State) (f : HFrame) (p : Nat) : State :=
  let n := s.chargeOf f
  let b := f.bytes.length
  let sv := s.queueSvc f.queue
  let s := ((s.chargeNode f.queue n).chargeNode (svcKey sv) n).chargeNode (prtKey p) n
  let s := (((s.dropFrame f.id).payDeficit f.queue n).payDeficit (svcKey sv) n).emptied f.queue
  (s.count .sch 0 1).count .sch 0 2 b

/-! ### The commands of the Hearth -/

/-- HRT_CMD.flush of the selected queue lands (R327, R336): it acts after the edge it reaches. -/
def State.landFlush (s : State) (cyc : Nat) : State := s.schedule (s.edgeFor cyc) (.queueFlush (s.rd F.hrtQselQueue))

/-- QUEUE_FLUSH (R327, R336). -/
def execQueueFlush (cyc : Cyc) (s : State) : Host.Outcome State Fault Refusal :=
  done ((s.at cyc).gate .hrt 0 (fun s => s.landFlush cyc))

/-- PORT_FLUSH (R97, R327): an Ethernet port has been down for flush_ticks edges; one flush is made per down period,
and admission refuses frames bound for the port until it is up. -/
def execPortFlush (p : PortNo) (s : State) : Host.Outcome State Fault Refusal :=
  done (onlyIf (s.portOn p && !s.portOtn p && !(s.port p).flushed &&
      decide (max 1 (s.rd F.prtDownFlushTicks p) ≤ (s.port p).downEdges)) (fun s =>
    let s := s.modPort p (fun r => { r with flushed := true, refusing := true })
    s.flushQueues (fun q => decide (s.queuePort q = p)) 0) s)

/-- FLUSH_END (R327): the oldest flush whose cells are all zero ends. -/
def execFlushEnd (s : State) : Host.Outcome State Fault Refusal :=
  done (match s.hearth.flushes with
    | f :: fs => if f.left = 0 then (s.modHearth (fun h => { h with flushes := fs })).hrtEvent F.hrtEvtFlushDone f.queue else s
    | [] => s)

/-- What the spill engine moves in a tick, each way: 400 Gb/s for 8 µs (R329). -/
def spillBytes : Nat := 400000

/-- SPILL_MOVE (R329): the first verified spilled frame of a queue moves to the region, within 400 Gb/s device-wide; its
on-die cells are read-cleared and return. -/
def execSpillMove (q : Fin 16384) (s : State) : Host.Outcome State Fault Refusal :=
  done (match s.hearth.frames.find? (fun f => f.queue = q.val && decide (f.place = .toSpill)) with
    | some f =>
      let n := s.hearth.moved + f.bytes.length
      if f.passed ∧ n ≤ spillBytes then
        (s.putFrame { f with place := .region }).modHearth (fun h => { h with moved := n })
      else s
    | none => s)

/-- SPILL_FETCH (R329): the first spilled frame of a queue comes back while the queue is below its share, within 400 Gb/s
device-wide. -/
def execSpillFetch (q : Fin 16384) (s : State) : Host.Outcome State Fault Refusal :=
  done (match s.hearth.frames.find? (fun f => f.queue = q.val && decide (f.place = .region)) with
    | some f =>
      let n := s.hearth.fetched + f.bytes.length
      if s.occupancy q < s.rd F.hrtQshareShare 0 q ∧ n ≤ spillBytes then
        ((s.putFrame { f with place := .onDie }).modHearth (fun h => { h with fetched := n })).count .hrt 0 10
      else s
    | none => s)

end Sys2Proof.Machine
end

