-- ==== Sys2Proof/Machine/Time.lean ====
section
/-! DEFINITION. Time (R412 to R418): the counters TIME and RAW, their increment and steps, and the PPS pins. -/

namespace Sys2Proof.Machine

open Sys2Proof

/-- The state with the time changed by `f`. -/
def State.modTime (s : State) (f : Time → Time) : State := { s with time := f s.time }

/-- TSU_INC in effect: nanoseconds per core cycle, 32.32 (R412). -/
def State.timeInc (s : State) : Nat := s.rd F.tsuIncHiIncInt * 2 ^ 32 + s.rd F.tsuIncLoIncFrac

/-- TIME in the present core cycle, with its fraction (R412). -/
def State.timeNow (s : State) : Nat := (s.time.time + s.cycle * s.timeInc) % 2 ^ 64
/-- RAW in the present core cycle, with its fraction. -/
def State.rawNow (s : State) : Nat := (s.time.raw + s.cycle * s.timeInc) % 2 ^ 64
/-- A counter's whole nanoseconds. -/
def nsOf (t : Nat) : Nat := t / 2 ^ 32 % 2 ^ 32
/-- TIME, or RAW, `age` core cycles before the present one, in whole nanoseconds. -/
def State.timeBefore (s : State) (age : Nat) : Nat := nsOf (s.timeNow + 2 ^ 64 - age * s.timeInc % 2 ^ 64)
def State.rawBefore (s : State) (age : Nat) : Nat := nsOf (s.rawNow + 2 ^ 64 - age * s.timeInc % 2 ^ 64)

/-- The counters at an edge, before its configuration: they have counted one tick, or start at 0 (R412). -/
def State.timeTick (s : State) : State :=
  let n := 10000 * s.timeInc
  s.modTime (fun t =>
    if t.started then { t with time := (t.time + n) % 2 ^ 64, raw := (t.raw + n) % 2 ^ 64 }
    else { t with started := true, time := 0, raw := 0 })

/-- A step of TIME at its edge (R414). -/
def State.stepTime (s : State) (ns : Nat) : State :=
  s.modTime (fun t => { t with time := (t.time + ns * 2 ^ 32) % 2 ^ 64 })

/-- The reading of an edge (R415), and PPS_OUT low while it is not enabled (R417). -/
def State.timeEdge (s : State) : State :=
  s.modTime (fun t => { t with edgeNs := nsOf t.time, edgeTick := s.tick % 2 ^ 32
                               ppsHigh := if s.on F.tsuCtlPpsOutEn then t.ppsHigh else none })

/-- A TSU_INC copy reaches its edge (R413): the low half waits for the high half, which brings both into effect or is
refused. -/
def State.commitIncLo (s : State) (w : Word) : State := s.modTime (fun t => { t with newLo := some w })
def State.commitIncHi (s : State) (w : Word) : State :=
  let lo := (s.time.newLo.getD (BitVec.ofNat 32 (s.rd F.tsuIncLoIncFrac))).toNat
  let s := s.modTime (fun t => { t with newLo := none })
  if w.toNat = 0 ∧ 0xCC985F07 ≤ lo ∧ lo ≤ 0xCD013A93 then
    (s.wr F.tsuIncLoIncFrac lo).wr F.tsuIncHiIncInt 0
  else s.event F.tsuEvtCfgRejected

/-- A value advanced by 10^9 until it lies ahead of a time (R417). The fuel bounds the steps: 2^31 holds no more than
three. -/
def ppsAhead : Nat → Nat → Nat → Nat
  | 0, next, _ => next
  | fuel + 1, next, t =>
    if (t + 2 ^ 32 - next) % 2 ^ 32 < 2 ^ 31 then ppsAhead fuel ((next + 1000000000) % 2 ^ 32) t else next

/-- A read of a page: 0 from a page that is not ready, without any effect (R52). -/
def State.gateRead (s : State) (p : Page) (i : Nat) (f : State → State) : State :=
  if s.ready p i then f s else s.emit (.read [0])

/-! ### The commands -/

/-- A TSU_INC_HI write lands (R413): it makes both halves pending. -/
def State.landIncHi (s : State) (hi : Word) (cyc : Nat) : State :=
  let lo := s.time.stagedLo.getD (BitVec.ofNat 32 (s.rd F.tsuIncLoIncFrac))
  (s.putCopy (keyOf F.tsuIncLoIncFrac) lo cyc).putCopy (keyOf F.tsuIncHiIncInt) hi cyc

/-- A TSU_STEP write lands (R414): a later write that reaches the same edge replaces the earlier one. -/
def State.landTimeStep (s : State) (step : Word) (cyc : Nat) : State :=
  let due := s.edgeFor cyc
  let s := { s with sched := s.sched.filter (fun e => match e.act with
    | .timeStep _ => decide (e.due ≠ due)
    | _ => true) }
  s.schedule due (.timeStep step.toNat)

/-- INC_WRITE (R413). -/
def execIncWrite (hi : Word) (cyc : Cyc) (s : State) : Host.Outcome State Fault Refusal :=
  done ((s.at cyc).gate .tsu 0 (fun s => s.landIncHi hi cyc))

/-- TIME_STEP (R414). -/
def execTimeStep (step : Word) (cyc : Cyc) (s : State) : Host.Outcome State Fault Refusal :=
  done ((s.at cyc).gate .tsu 0 (fun s => s.landTimeStep step cyc))

/-- TIME_READ (R415). -/
def execTimeRead (cyc : Cyc) (s : State) : Host.Outcome State Fault Refusal :=
  done ((s.at cyc).gateRead .tsu 0 (fun s =>
    let s := (s.wr F.tsuTimeFracTimeFrac (s.timeNow % 2 ^ 32)).wr F.tsuRawNsRawNs (nsOf s.rawNow)
    s.emit (.read [BitVec.ofNat 32 (nsOf s.timeNow)])))

/-- EDGE_TIME_READ (R415). -/
def execEdgeTimeRead (cyc : Cyc) (s : State) : Host.Outcome State Fault Refusal :=
  done ((s.at cyc).gateRead .tsu 0 (fun s =>
    (s.wr F.tsuEdgeTickEdgeTick s.time.edgeTick).emit (.read [BitVec.ofNat 32 s.time.edgeNs])))

/-- PPS_OUT (R417): TIME has reached TSU_PPS_OUT_NEXT. -/
def execPpsOut (cyc : Cyc) (s : State) : Host.Outcome State Fault Refusal :=
  let s := s.at cyc
  let next := s.rd F.tsuPpsOutNextNext
  let t := nsOf s.timeNow
  done (if s.on F.tsuCtlPpsOutEn && decide ((t + 2 ^ 32 - next) % 2 ^ 32 < 2 ^ 31) then
    let s := (s.modTime (fun q => { q with ppsHigh := some s.now })).wr F.tsuPpsOutNextNext (ppsAhead 5 next t)
    (s.event F.tsuEvtPpsOut).count .tsu 0 8
  else s)

/-- PPS_OUT_PULSE_END (R417): 1,250 core cycles for each microsecond of the width. -/
def execPpsOutPulseEnd (cyc : Cyc) (s : State) : Host.Outcome State Fault Refusal :=
  let s := s.at cyc
  let w := min 500000 (max 1 (s.rd F.tsuPpsOutWWidthUs))
  done (match s.time.ppsHigh with
    | some c => if c + 1250 * w ≤ s.now then s.modTime (fun q => { q with ppsHigh := none }) else s
    | none => s)

/-- PPS_IN (R418): an edge of a pulse `ns` long; pulses shorter than 100 ns are ignored. -/
def execPpsIn (falling : Bool) (ns : Nat) (cyc : Cyc) (s : State) : Host.Outcome State Fault Refusal :=
  let s := s.at cyc
  done (if s.on F.tsuCtlPpsInEn && decide (s.on F.tsuCtlPpsInFall = falling) && decide (100 ≤ ns) then
    let t := s.timeNow
    let s := s.modTime (fun q => { q with inNs := nsOf t, inFrac := t % 2 ^ 32, inCnt := (q.inCnt + 1) % 65536 })
    (s.event F.tsuEvtPpsIn).count .tsu 0 7
  else s)

/-- PPS_IN_READ (R418). -/
def execPpsInRead (cyc : Cyc) (s : State) : Host.Outcome State Fault Refusal :=
  done ((s.at cyc).gateRead .tsu 0 (fun s =>
    ((s.wr F.tsuPpsInFracInFrac s.time.inFrac).wr F.tsuPpsInCntCount s.time.inCnt).emit
      (.read [BitVec.ofNat 32 s.time.inNs])))

end Sys2Proof.Machine
end

