-- ==== Sys2Proof/Machine/Traffic.lean ====
section
/-! DEFINITION. Ethernet frames (R93, R180, R204 to R215, R419 to R421): the MAC checks, dispatch, bypass, sealing and
unsealing, the tag verdict, and sending. -/

namespace Sys2Proof.Machine

open Sys2Proof

/-! ### Frame fields -/

/-- A frame has an outer tag with TPID 0x8100 or 0x88A8 (R126). -/
def isTagged (bs : List Byte) : Bool := decide (beAt bs 12 2 = 0x8100 ∨ beAt bs 12 2 = 0x88A8)

/-- Whether the EtherType at byte 12, or the one after a single outer tag, is `t` (R210, R215). -/
def hasEtherType (bs : List Byte) (t : Nat) : Bool :=
  decide (beAt bs 12 2 = t) || (isTagged bs && decide (beAt bs 16 2 = t))

/-- The EtherType of MACsec (R205). -/
def macsecType : Nat := 0x88E5

/-! ### PTP (R419 to R421) -/

/-- Where the PTP message of a frame begins, if it carries one (R419). -/
def ptpAt (bs : List Byte) : Option Nat :=
  if beAt bs 12 2 = 0x88F7 then some 14
  else if isTagged bs && decide (beAt bs 16 2 = 0x88F7) then some 18
  else none

/-- The messageType of a PTP frame. -/
def ptpType (bs : List Byte) (o : Nat) : Nat := byteAt bs o % 16

/-- Sync and Delay_Req are the corrected messages; Pdelay_Req and Pdelay_Resp pass and are counted (R419). -/
def ptpCorrected (bs : List Byte) : Option Nat :=
  match ptpAt bs with
  | some o => if ptpType bs o ≤ 1 then some o else none
  | none => none
def ptpPdelay (bs : List Byte) : Bool :=
  match ptpAt bs with
  | some o => decide (ptpType bs o = 2 ∨ ptpType bs o = 3)
  | none => false

/-- The PTP mode of port `p` that acts (R421). -/
def State.ptpMode (s : State) (p : Nat) : Nat := if s.rd (F.tsuPtpMode.at p) = 3 then 0 else s.rd (F.tsuPtpMode.at p)

/-- A PTP event message whose contents the device sees is counted (R423). -/
def State.ptpCount (s : State) (mode : Nat) (bs : List Byte) : State :=
  if mode = 0 then s
  else if (ptpCorrected bs).isSome then s.count .tsu 0 1
  else if ptpPdelay bs then s.count .tsu 0 6
  else s

/-- PTP_INGRESS_STAMP of mode 2 (R421): TIME at ingress in bytes 16 to 19 of a corrected message about to be sealed. -/
def State.ptpCarry (s : State) (mode : Nat) (timeIn : Nat) (bs : List Byte) : State × List Byte :=
  match ptpCorrected bs with
  | some o => if mode = 2 then (s.count .tsu 0 3, overwrite bs (o + 16) (beBytes 4 timeIn)) else (s, bs)
  | none => (s, bs)

/-- The correctionField after an addition (R421): at most 0x7FFF_FFFF_FFFF_FFFF. -/
def ptpSum (field : Nat) (ns : Nat) : Nat × Bool :=
  let v := signed 64 field + (ns * 2 ^ 16 : Nat)
  if v < 2 ^ 63 then (unsigned 64 v, false) else (2 ^ 63 - 1, true)

/-- PTP_EGRESS_CORRECT (R421): a corrected message that leaves in the clear by port `p`. -/
def State.ptpCorrect (s : State) (p : Nat) (f : HFrame) : State × List Byte :=
  let bs := f.bytes
  let mode := s.ptpMode p
  match ptpCorrected bs with
  | none => (s, bs)
  | some o =>
    if f.kind = .sealed ∨ mode = 0 then (s, bs)
    else
      let carried := decide (mode = 2) && !s.portCipher p && decide (f.kind = .opened)
      let diff : Option Nat :=
        if carried then some ((nsOf s.timeNow + 2 ^ 32 - beAt bs (o + 16) 4) % 2 ^ 32)
        else f.rawIn.map (fun t => (nsOf s.rawNow + 2 ^ 32 - t) % 2 ^ 32)
      match diff with
      | none => (s, bs)
      | some ns =>
        let (sum, sat) := ptpSum (beAt bs (o + 8) 8) ns
        let bs := overwrite bs (o + 8) (beBytes 8 sum)
        let bs := if carried then overwrite bs (o + 16) (beBytes 4 0) else bs
        let s := s.count .tsu 0 (if carried then 4 else 2)
        let s := onlyIf sat (fun s => (s.count .tsu 0 5).event F.tsuEvtCorrSat) s
        (s, withFcs (bs.take (bs.length - 4)))

/-! ### Sealing (R180, R205 to R208) -/

/-- The SSCI of a direction (R207): 1 from the initiator, 2 from the responder. -/
def ssci (fromInitiator : Bool) : Nat := if fromInitiator then 1 else 2

/-- The IV of a frame (R180, R207). -/
def frameIv (fromInitiator : Bool) (pn : Nat) (salt : BitVec 96) : BitVec 96 :=
  BitVec.ofNat 96 (ssci fromInitiator * 2 ^ 64 + pn % 2 ^ 64) ^^^ salt

/-- The bytes left clear in the secure data (R204). -/
def confBytes (confOff : Nat) : Nat := if confOff = 1 then 30 else if confOff = 2 then 50 else 0

/-- The SecTAG (R205): TCI and AN, SL, PN and SCI. -/
def secTag (an : Bool) (secureLen pn sci : Nat) : List Byte :=
  beBytes 2 macsecType ++ [if an then 0x2D else 0x2C, BitVec.ofNat 8 (if secureLen < 48 then secureLen else 0)] ++
    beBytes 4 pn ++ beBytes 8 sci

/-- A clear frame sealed under a phase (R205, R208). -/
def sealFrame (key : BitVec 256) (iv : BitVec 96) (an vlanClear : Bool) (confOff pn sci : Nat) (bs : List Byte) :
    List Byte :=
  let tag := if vlanClear && isTagged bs then slice bs 12 4 else []
  let secure := (bs.drop (12 + tag.length)).take (bs.length - 16 - tag.length)
  let c := min (confBytes confOff) secure.length
  let aad := bs.take 12 ++ tag ++ secTag an secure.length pn sci ++ secure.take c
  let ct := gcmCrypt key iv (secure.drop c)
  withFcs (aad ++ ct ++ gcmTag key iv aad ct)

/-- The slots a frame takes of its Stove (R208), by the lengths of its AAD and ciphertext. -/
def gcmSlots (aad ct : Nat) : Nat := ceilDiv aad 16 + ceilDiv ct 16 + 1

/-- The charge of a frame of clear length L (R177). -/
def frameCharge (l : Nat) : Nat := ceilDiv l 16 + 2

/-- The slots that a sealed frame of clear length `l` takes (R208). -/
def frameSlots (clearTag : Bool) (confOff l : Nat) : Nat :=
  let t := if clearTag then 4 else 0
  let secure := l - 16 - t
  let c := min (confBytes confOff) secure
  gcmSlots (28 + t + c) (secure - c)

/-- A frame's slots are charged (R177), and one taken beyond the charge is counted (R208, R226). -/
def State.chargeFrame (s : State) (p : Nat) (clearTag : Bool) (confOff l : Nat) : State :=
  let used := frameSlots clearTag confOff l
  (s.chargeSlots (p / 18) (frameCharge l) used).count .sea p 13 (used - frameCharge l)

/-! ### The SecTAG of a received frame (R210 to R213) -/

/-- Where the SecTAG's EtherType stands: byte 12, or byte 16 after a clear tag. -/
def secAt (bs : List Byte) : Nat := if beAt bs 12 2 = macsecType then 12 else 16

/-- The fields of a received SecTAG. -/
structure SecIn where
  clearTag : Bool
  tci : Nat
  sl : Nat
  low : Nat
  sci : Nat
  deriving DecidableEq, Repr

/-- The SecTAG of a frame that R210 handles as sealed. -/
def secIn (bs : List Byte) : SecIn :=
  let o := secAt bs
  { clearTag := decide (o = 16), tci := byteAt bs (o + 2), sl := byteAt bs (o + 3), low := beAt bs (o + 4) 4
    sci := beAt bs (o + 8) 8 }

/-- The secure-data length of a sealed frame (R205). -/
def secureLen (t : SecIn) (bs : List Byte) : Nat := bs.length - (if t.clearTag then 4 else 0) - 48

/-- The format errors of R211 that the frame alone shows. -/
def secFormatBad (t : SecIn) (bs : List Byte) : Bool :=
  let n := secureLen t bs
  bit t.tci 7 || bit t.tci 6 || !bit t.tci 5 || bit t.tci 4 || !bit t.tci 3 || !bit t.tci 2 || bit t.tci 1 ||
    decide (t.sl ≠ if n < 48 then n else 0) || decide (bs.length < 48 + (if t.clearTag then 4 else 0))

/-- The lowest-numbered entry that the table does not list: it equals the base entry. -/
def AsnTable.firstBase (t : AsnTable) : Option Nat :=
  let n := t.m.foldl (fun n e => if e.1 = n then n + 1 else n) 0
  if n < 131072 then some n else none

/-- SCI_LOOKUP (R212): the lowest-numbered entry of kind 0 bound to the port with the frame's SCI, those in reset
condition among them. -/
def State.sciLookup (s : State) (p sci : Nat) : Option Nat :=
  let is := fun (e : Assoc) => decide (e.port = p) && !e.otn && decide (e.sciRx = sci)
  let listed := (s.assocs.m.find? (fun e => is e.2)).map (·.1)
  match listed, if is s.assocs.base then s.assocs.firstBase else none with
  | some a, some b => some (min a b)
  | a, none => a
  | none, b => b

/-- The association that a frame decrypted on `a` is learned against (R214). -/
def State.bindFor (s : State) (a : Nat) : Option Nat :=
  let e := s.asn a
  if e.sciRx % 65536 ≠ 0xFFFF then some a
  else (s.assocs.m.find? (fun x => decide (x.2.port = e.port) && x.2.state.keyed &&
    decide (x.2.sciRx % 65536 ≠ 0xFFFF) && decide (x.2.sciRx / 65536 = e.sciRx / 65536))).map (·.1)

/-- Whether an entry verifies frames of phase `n` (R152): in a keyed state, with the phase valid. -/
def Assoc.verifies (e : Assoc) (n : Bool) : Bool := e.state.keyed && (e.ph n).valid

/-! ### Bypass (R215) -/

/-- The lowest-numbered enabled bypass entry of port `p` that a frame matches, by the entries that `s` holds. -/
def State.bypassFor (s : State) (p : Nat) (bs : List Byte) : Option Nat :=
  (List.range 4).find? (fun i =>
    decide (s.rd (F.seaBypAction.at i) p = 1 ∨ s.rd (F.seaBypAction.at i) p = 2) &&
      hasEtherType bs (s.rd (F.seaBypEthertype.at i) p))

/-- A frame matched by bypass entry `i`: sent unsealed to its queue, or dropped (R215). -/
def State.bypass (s : State) (f : RxFrame) (i : Nat) : State :=
  let p := f.port.val
  if (s.atFirst f).rd (F.seaBypAction.at i) p = 2 then s.count .sea p 5
  else
    let q := (s.atFirst f).rd (F.seaBypQueue.at i) p
    if !s.admitsPlain || s.sameSide p q then s
    else match s.admitQueue q with
      | (s, none) => s
      | (s, some pl) =>
        let mode := (s.atFirst f).ptpMode p
        let s := (s.ptpCount mode f.bytes).count .sea p 4
        s.storeFrame { id := 0, kind := .bypassed, queue := q, port := p, bytes := f.bytes
                       cells := cellsOf f.bytes.length, readyAt := s.tick + 2, passed := true, place := pl
                       cipher := s.portCipher p
                       rawIn := if mode = 0 then none else some (s.rawBefore f.age.val) } f.bytes.length

/-! ### Clear-side frames -/

/-- A clear frame admitted and sealed on association `a` (R160, R180, R205, R320, R321). -/
def State.sealOn (s : State) (f : RxFrame) (a : Nat) : State :=
  let p := f.port.val
  let l := f.bytes.length
  let e := s.asn a
  let seals := fun (x : AState) => decide (x = .live ∨ x = .rolling)
  if !s.admitting || !seals e.state then s.count .asn 0 (if s.cutOff f a seals then 5 else 4)
  else if s.sameSide p e.queue then s
  else match s.admitQueue e.queue with
    | (s, none) => s
    | (s, some pl) => match s.creditCheck (p / 18) with
      | (s, false) => s
      | (s, true) => match s.pnCheck a with
        | (s, false) => s
        | (s, true) =>
          let mode := (s.atFirst f).ptpMode p
          let s := s.ptpCount mode f.bytes
          let (s, bs) := s.ptpCarry mode (s.timeBefore f.age.val) f.bytes
          let ph := e.tx
          let (s, pn) := s.assignPn a
          let sealedBs := sealFrame ph.key (frameIv ph.initiator pn ph.salt) e.txPhase e.vlanClear e.confOff pn e.sciTx bs
          let s := s.chargeFrame p (e.vlanClear && isTagged bs) e.confOff l
          let s := s.count .asn 0 1
          s.storeFrame { id := 0, kind := .sealed, queue := e.queue, port := p, assoc := a, phase := e.txPhase
                         epoch := ph.epoch, pn := pn, bytes := sealedBs, cells := cellsOf (l + 32)
                         readyAt := s.tick + 2, place := pl } l

/-- A frame of a clear-side port: bypass, classification, sealing (R215, R128). -/
def State.clearFrame (s : State) (f : RxFrame) : State :=
  let p := f.port.val
  match (if hasEtherType f.bytes macsecType then none else (s.atFirst f).bypassFor p f.bytes) with
  | some i => s.bypass f i
  | none => match s.classify (s.atFirst f) p f.bytes with
    | (s, some a) => s.sealOn f a
    | (s, none) => s

/-! ### Cipher-side frames -/

/-- A frame that meets the zero/drop rule with nothing stored (R152, R190): counted toward SEAL-AUTH. -/
def State.zeroDrop (s : State) (p : Nat) : State := (s.tagFailure p).count .chm (p / 18) 7

/-- A format error (R211). -/
def State.formatError (s : State) (p : Nat) : State := (s.count .sea p 2).event F.seaEvtFormatErr p

/-- A sealed frame admitted and unsealed on association `a` with number `pn` (R181, R208, R320, R321). -/
def State.openOn (s : State) (f : RxFrame) (t : SecIn) (a pn : Nat) : State :=
  let p := f.port.val
  let e := s.asn a
  let n := bit t.tci 0
  let ph := e.ph n
  let q := s.rd F.hrtQcfgRxQueue 0 e.queue
  let l := f.bytes.length - 32
  if s.sameSide p q then s
  else match s.admitQueue q with
  | (s, none) => s
  | (s, some pl) => match s.creditCheck (p / 18) with
    | (s, false) => s
    | (s, true) =>
      let o := secAt f.bytes + 16
      let secure := (f.bytes.drop o).take (secureLen t f.bytes)
      let c := min (confBytes e.confOff) secure.length
      let aad := f.bytes.take (o + c)
      let ct := secure.drop c
      let iv := frameIv (!ph.initiator) pn ph.salt
      let icv := slice f.bytes (o + secure.length) 16
      let plain := f.bytes.take (o - 16) ++ secure.take c ++ gcmCrypt ph.key iv ct
      let s := s.chargeFrame p t.clearTag e.confOff l
      s.storeFrame { id := 0, kind := .opened, queue := q, port := p, assoc := a, phase := n, epoch := ph.epoch
                     pn := pn, bytes := withFcs plain, cells := cellsOf l, readyAt := s.tick + 2, place := pl
                     cipher := true
                     tagOk := decide (gcmTag ph.key iv aad ct = icv)
                     rawIn := if (s.atFirst f).ptpMode p = 0 then none else some (s.rawBefore f.age.val) } f.bytes.length

/-- A frame handled as sealed (R211 to R213, R164). -/
def State.sealedFrame (s : State) (f : RxFrame) : State :=
  let p := f.port.val
  let t := secIn f.bytes
  let s := s.count .sea p 1
  if secFormatBad t f.bytes then s.formatError p
  else match s.sciLookup p t.sci with
    | none => (s.count .sea p 3).event F.seaEvtUnknownSci p
    | some a =>
      let e := s.asn a
      let n := bit t.tci 0
      if decide (t.clearTag ≠ e.vlanClear) then s.formatError p
      else match recoverPn (e.ph n) e.win t.low with
        | none => (s.formatError p).count .asn 0 10
        | some pn =>
          if pn = 0 ∨ e.hardLimit ≤ pn then (s.formatError p).count .asn 0 10
          else if !s.admitting then s
          else if e.state.keyless && s.cutOff f a (fun x => !x.keyless) then s.count .asn 0 5
          else if !e.verifies n then s.zeroDrop p
          else if replayed (e.ph n) e.win pn then s.count .asn 0 3
          else s.openOn f t a pn

/-- CIPHER_DISPATCH (R210). -/
def State.cipherFrame (s : State) (f : RxFrame) : State :=
  let p := f.port.val
  if hasEtherType f.bytes macsecType then s.sealedFrame f
  else if beAt f.bytes 12 2 = s.rd F.kdlCtlEtype then s.count .sea p 6
  else match (if hasEtherType f.bytes (s.rd F.kdlCtlEtype) then none else (s.atFirst f).bypassFor p f.bytes) with
    | some i => s.bypass f i
    | none => (s.count .sea p 5).event F.seaEvtNonsealedDrop p

/-! ### Receiving and the verdict -/

/-- The longest frame port `p` accepts (R93): the limit acts as 64 below that and as 9,600 above (R101). -/
def State.maxFrame (s : State) (p : Nat) : Nat :=
  min 9600 (max 64 (s.rd F.prtFrameMaxFrame p)) + (if s.portCipher p then 32 else 0)

/-- FRAME_RECEIVED (R93): the MAC's checks, then the side of the port decides. A frame that fails several is counted for
the first in the order of R93's list (DESIGN CHOICE, log entry 53). One that passes is counted as passed on to admission
(R100), but for a frame of the Kindle Exchange, which never reaches it (R233). No frame is received with levels 1 to 4
reported (R97), nor by a receiver shed of its power (R45). -/
def State.receive (s : State) (f : RxFrame) : State :=
  let p := f.port.val
  let n := f.bytes.length
  let lvl := s.rd F.prtStatReported p
  if !s.portOn p || s.portOtn p || s.pwr.shed || decide (1 ≤ lvl ∧ lvl ≤ 4) then s
  else if f.errMark || !fcsGood f.bytes then s.count .prt p 5
  else if n < 64 then s.count .prt p 6
  else if s.maxFrame p < n then s.count .prt p 7
  else if beAt f.bytes 12 2 = 0x8808 then s.count .prt p 8
  else
    let kindle := s.portCipher p && !hasEtherType f.bytes macsecType && decide (beAt f.bytes 12 2 = s.rd F.kdlCtlEtype)
    let s := onlyIf (!kindle) (fun s => (s.count .prt p 1).count .prt p 2 n) s
    if s.portCipher p then s.cipherFrame f else s.clearFrame f

/-- A frame lost at its verdict (R190, R326): its cells are zeroed before they return. -/
def State.loseFrame (s : State) (f : HFrame) : State := ((s.dropFrame f.id).zeroCells f.cells).emptied f.queue

/-- ZERO_ON_FAILURE of a frame: as a failing tag (R190). -/
def State.failFrame (s : State) (f : HFrame) : State := (s.loseFrame f).zeroDrop f.port

/-- The verdict on a frame whose Stove work is complete (R165, R181, R190, R196). -/
def State.verdict (s : State) (f : HFrame) : State :=
  if f.mismatch then s.loseFrame f
  else match f.kind with
    | .opened =>
      let e := s.asn f.assoc
      let ph := e.ph f.phase
      let current := e.verifies f.phase && decide (ph.epoch = f.epoch)
      if !f.tagOk then s.failFrame f
      else if current && replayed ph e.win f.pn then (s.failFrame f).count .asn 0 3
      else
        let s := onlyIf current (fun s => s.setAsn f.assoc (e.setPh f.phase (ph.received f.pn))) s
        let s := ((s.count .asn 0 2).putFrame { f with passed := true }).ptpCount (b2n f.rawIn.isSome) f.bytes
        onlyIf (!e.state.keyless) (fun s => s.learn f.assoc (s.bindFor f.assoc) (beAt f.bytes 6 6)) s
    | _ => s.putFrame { f with passed := true }

/-! ### The commands -/

/-- FRAME_RECEIVED (R93). -/
def execFrameReceived (f : RxFrame) (cyc : Cyc) (s : State) : Host.Outcome State Fault Refusal :=
  done ((s.at cyc).receive f)

/-- TAG_VERDICT (R181) at the seal block of port `p`, of the frame with this id in the Hearth. -/
def execTagVerdict (p : PortNo) (id : Nat) (cyc : Cyc) (s : State) : Host.Outcome State Fault Refusal :=
  let s := s.at cyc
  done (match s.hearth.frames.find? (fun f => decide (f.id = id ∧ f.port = p.val) && !f.passed) with
    | some f => s.verdict f
    | none => s)

/-- FRAME_SEND (R331): the scheduler's next frame of port node `p` leaves. `bank` is the bank of an uncorrectable word
found in the read (R328). A frame whose port has come to stand on the side it was received on is dropped (R129). -/
def execFrameSend (p : PortNo) (bank : Option (Fin 512)) (cyc : Cyc) (s : State) : Host.Outcome State Fault Refusal :=
  let s := s.at cyc
  done (if s.portSends p then
    match s.pickFrame p with
    | none => s
    | some (f, s) =>
      if f.cipher = s.portCipher p then s.loseFrame f
      else
      let (s, bs) := s.ptpCorrect p f
      let s := s.sentFrame f p
      match bank with
      | some b =>
        let s := (s.count .hrt 0 11).hrtEvent F.hrtEvtUncorrectable 0
        (s.sramError .hrt 0 b.val).macSend p bs true
      | none => s.macSend p bs false
  else s)

/-- SEA_RXG_READ (R227): the predicted group number, its high half latched. -/
def execSeaRxgRead (p : PortNo) (s : State) : Host.Outcome State Fault Refusal :=
  let n := (nget {} s.seals p.val).pred
  done (s.gateRead .sea p (fun s =>
    (s.wr F.seaRxgHiGroupHi (n / 2 ^ 32) p).emit (.read [BitVec.ofNat 32 n])))

end Sys2Proof.Machine
end

