-- ==== Sys2Proof/Machine/Kindle.lean ====
section
/-! DEFINITION. The Kindle Exchange: links, carriage, fragments and messages (R228 to R246), the key schedule (R247 to
R253) and the handshake (R254 to R262). -/

namespace Sys2Proof.Machine

open Sys2Proof

/-! ### Links -/

/-- Link `k`. -/
def State.link (s : State) (k : Nat) : Link := nget {} s.kindle.links k
/-- The state with it replaced. -/
def State.setLink (s : State) (k : Nat) (l : Link) : State :=
  { s with kindle := { s.kindle with links := nset {} s.kindle.links k l } }
/-- The state with it changed by `f`. -/
def State.modLink (s : State) (k : Nat) (f : Link → Link) : State := s.setLink k (f (s.link k))

/-- The session of a link: the current or the parallel one. -/
def Link.ses (l : Link) (par : Bool) : Option Session := if par then l.par else l.cur
/-- The link with it replaced. -/
def Link.setSes (l : Link) (par : Bool) (x : Option Session) : Link :=
  if par then { l with par := x } else { l with cur := x }
/-- The state with a session changed by `f`, where there is one. -/
def State.modSes (s : State) (k : Nat) (par : Bool) (f : Session → Session) : State :=
  s.modLink k (fun l => l.setSes par ((l.ses par).map f))

/-- Whether a link is enabled, and its port (R228). -/
def State.linkOn (s : State) (k : Nat) : Bool := s.on F.kdlLinkCfgEnable 0 k
def State.linkPort (s : State) (k : Nat) : Nat := s.rd F.kdlLinkCfgPort 0 k
/-- The enabled link of a port. -/
def State.linkOfPort (s : State) (p : Nat) : Option Nat :=
  (List.range 144).find? (fun k => s.linkOn k && decide (s.linkPort k = p))
/-- The associations of a link (R228). -/
def State.linkAssocs (s : State) (k : Nat) : List Nat :=
  (s.assocs.m.filter (fun e => decide (e.2.port = s.linkPort k))).map (·.1)

/-- The engine sends and accepts (R229, R264). -/
def State.kdlRuns (s : State) : Bool := s.sealing && s.on F.kdlCtlEnable && s.ready .kdl

/-- KDL_LINK_STAT.no_channel (R234). -/
def State.noChannel (s : State) (k : Nat) : Bool :=
  s.portOtn (s.linkPort k) && decide (s.rd F.otfCfgKdlChan (s.linkPort k) = 0)

/-- A KDL event of a link, with the reason that KDL_LAST carries for bits 1 to 5 (R264). -/
def State.kdlEvent (s : State) (f : Fld) (k reason : Nat) : State :=
  (((s.wrEvt F.kdlLastLink k).wrEvt F.kdlLastReason (if 1 ≤ f.lo ∧ f.lo ≤ 5 then reason else 0)).wrEvt
    F.kdlLastBit f.lo).event f

/-- A KDL_ROLL event of a link (R290). -/
def State.rollEvent (s : State) (f : Fld) (k : Nat) : State :=
  ((s.wrEvt F.kdlRollLastLink k).wrEvt F.kdlRollLastBit f.lo).event f

/-- A collision (R274, R285, R286, R289). -/
def State.collide (s : State) (k : Nat) : State :=
  (s.modLink k (fun l => { l with collisions := satAdd 16 l.collisions 1 })).rollEvent F.kdlRollEvtCollision k

/-! ### Timers (R264, R288) -/

/-- A number held between two limits. -/
def clamp (lo hi n : Nat) : Nat := min hi (max lo n)

/-- 2^msg_to_log2, the KEEPALIVE interval, the rollover timeout, and the overlap window. -/
def State.msgTimeout (s : State) : Nat := 2 ^ clamp 8 24 (s.rd F.kdlTmr0MsgToLog2)
def State.keepaliveTicks (s : State) : Nat := 2 ^ clamp 6 20 (s.rd F.kdlTmr2KeepaliveLog2)
def State.rollTimeout (s : State) : Nat := 2 ^ clamp 8 20 (s.rd F.kdlTmr2RollToLog2)
def State.overlapTicks (s : State) : Nat := max 1 (s.rd F.kdlTmr2OverlapTicks)
/-- The sends of a fragment, and the base interval (R237). -/
def State.retxTries (s : State) : Nat := max 1 (s.rd F.kdlTmr0RetxTries)
def State.retxTicks (s : State) : Nat := max 1 (s.rd F.kdlTmr0RetxTicks)
/-- The hold-off of a link that has entered HOLDOFF `k` times before (R284). -/
def State.holdoffTicks (s : State) (k : Nat) : Nat :=
  let lo := clamp 8 24 (s.rd F.kdlTmr1HoldoffMinLog2)
  2 ^ min (lo + k) (max lo (clamp 8 24 (s.rd F.kdlTmr1HoldoffMaxLog2)))

/-! ### Carriage (R233, R234) -/

/-- A byte stream frame of the GCC channels (R234): flag, length, fragment, CRC-32 as the FCS. -/
def gccFrame (frag : List Byte) : List Byte :=
  let body := beBytes 2 frag.length ++ frag
  beBytes 2 0x7E81 ++ body ++ fcsOf body

/-- A fragment as an Ethernet frame of its link (R233): at least 64 bytes long. -/
def State.etherFragment (s : State) (k : Nat) (frag : List Byte) : List Byte :=
  let da := beBytes 2 (s.rd F.kdlLinkDaHiDaHi 0 k) ++ beBytes 4 (s.rd F.kdlLinkDaLoDaLo 0 k)
  let sa := beBytes 2 (s.rd F.kdlSaHiSaHi) ++ beBytes 4 (s.rd F.kdlSaLoSaLo)
  let bs := da ++ sa ++ beBytes 2 (s.rd F.kdlCtlEtype) ++ frag
  withFcs (bs ++ List.replicate (60 - bs.length) 0)

/-- A fragment leaves on its link: as a frame ahead of the queued ones on an Ethernet port that sends frames (R97, R233),
into the GCC stream on an OTN port (R234). -/
def State.sendFragment (s : State) (k : Nat) (frag : List Byte) : State :=
  let p := s.linkPort k
  if s.portOtn p then
    if s.noChannel k then s
    else { s with kindle := { s.kindle with
      gccTx := nset [] s.kindle.gccTx p (nget [] s.kindle.gccTx p ++ gccFrame frag) } }
  else onlyIf (s.portSends p) (fun s => s.macSend p (s.etherFragment k frag) false) s

/-- A data fragment of a message (R236). -/
def dataFragment (id index count : Nat) (payload : List Byte) : List Byte :=
  [0, 0] ++ beBytes 2 id ++ beBytes 1 index ++ beBytes 1 count ++ beBytes 2 payload.length ++ beBytes 8 0 ++ payload

/-- An acknowledgement (R236). -/
def ackFragment (id base map : Nat) : List Byte :=
  [1, 0] ++ beBytes 2 id ++ beBytes 1 base ++ beBytes 1 map ++ beBytes 2 0 ++ beBytes 8 0

/-- An acknowledgement sent (R238): the next one on the link waits for the next edge. -/
def State.sendAck (s : State) (k id base map : Nat) : State :=
  (s.sendFragment k (ackFragment id base map)).modLink k (fun l => { l with ackDue := none, ackEdge := s.tick + 1 })

/-- Whether a link may send now: the engine runs (R229), the link is enabled, has a channel (R234), and is not in HOLDOFF
(R284). -/
def State.linkSends (s : State) (k : Nat) : Bool :=
  s.kdlRuns && s.linkOn k && !s.noChannel k && (s.link k).holdUntil.isNone

/-- The held acknowledgement of a CONFIRM or a ROLL_READY is released (R259, R269): sent, or due once the link may
send. -/
def State.releaseAck (s : State) (k : Nat) : State :=
  match (s.link k).ackHold with
  | some id =>
    if s.linkSends k then (s.modLink k (fun l => { l with ackHold := none })).sendAck k id 1 0
    else s.modLink k (fun l => { l with ackHold := none, ackDue := some (id, 1, 0) })
  | none => s

/-- A message whose acknowledgement was held is discarded without one (R269): a repetition of it is taken afresh. -/
def State.dropAck (s : State) (k : Nat) : State :=
  s.modLink k (fun l => match l.ackHold with
    | some id => { l with ackHold := none, lastDone := some ((id + 65535) % 65536) }
    | none => l)

/-! ### Sending (R237) -/

/-- The first send of an ABORT (R263, R264): counted and told, with its reason. -/
def State.abortLeaves (s : State) (k : Nat) (m : List Byte) : State :=
  ((s.modLink k (fun l => { l with lastReason := byteAt m 32 })).count .kdl 0 10).kdlEvent F.kdlEvtAbortSent k (byteAt m 32)

/-- One fragment sent, or sent again. On an OTN port its send ends when its last byte leaves in the GCC stream. -/
def State.sendIndex (s : State) (k i : Nat) : State :=
  let l := s.link k
  match l.outQ.head?, l.frags[i]? with
  | some m, some f =>
    let s := s.sendFragment k (dataFragment l.nextMsgId i l.frags.length (slice m.bytes (240 * i) (min 240 (m.bytes.length - 240 * i))))
    let s := s.count .kdl 0 (if f.sends = 0 then 3 else 4)
    let p := s.linkPort k
    let f' := { f with sends := f.sends + 1, edge := s.tick + 1, first := if f.sends = 0 then s.tick else f.first
                       left := if s.portOtn p then (nget [] s.kindle.gccTx p).length else 0 }
    let s := s.modLink k (fun l => { l with frags := l.frags.set i f' })
    onlyIf (decide (f.sends = 0 ∧ i = 0) && decide (byteAt m.bytes 0 = 9)) (fun s => s.abortLeaves k m.bytes) s
  | _, _ => s

/-- `n` bytes of the GCC stream have left at tick `t`: the interval of a fragment whose last byte is among them begins at
the next edge (R237). -/
def TxFrag.passed (t n : Nat) (f : TxFrag) : TxFrag :=
  if f.left = 0 then f else if f.left ≤ n then { f with left := 0, edge := t + 1 } else { f with left := f.left - n }

/-- `n` bytes of the GCC stream of port `p` have left, as they stand or under ODU-AIS (R235). -/
def State.gccPassed (s : State) (p n : Nat) : State :=
  match s.linkOfPort p with
  | some k => s.modLink k (fun l => { l with frags := l.frags.map (TxFrag.passed s.tick n) })
  | none => s

/-- A link sends what it may: the next message begins once the last is wholly acknowledged, and at most 8 fragments
are sent and not acknowledged. -/
def State.pump (s : State) (k : Nat) : State :=
  if !s.linkSends k then s
  else
    let l := s.link k
    let s := match l.outQ with
      | m :: _ =>
        if l.frags.isEmpty then
          (s.modLink k (fun l => { l with frags := List.replicate (ceilDiv m.bytes.length 240) {}, txFrom := s.tick })).count .kdl 0 1
        else s
      | [] => s
    forN 35 (fun i s =>
      let l := s.link k
      match l.frags[i]? with
      | some f =>
        let open_ := (l.frags.filter (fun x => decide (0 < x.sends) && !x.acked)).length
        if f.sends = 0 ∧ open_ < 8 then s.sendIndex k i else s
      | none => s) s

/-- A message queued on a link, and sent as far as the link may. -/
def State.queueMsg (s : State) (k : Nat) (ses : Option Nat) (bytes : List Byte) : State :=
  (s.modLink k (fun l => { l with outQ := l.outQ ++ [{ session := ses, bytes := bytes }] })).pump k

/-- The message being sent leaves the queue: acknowledged, failed or withdrawn. -/
def State.endMsg (s : State) (k : Nat) : State :=
  s.modLink k (fun l => { l with outQ := l.outQ.drop 1, nextMsgId := (l.nextMsgId + (if l.frags.isEmpty then 0 else 1)) % 65536
                                 frags := [] })

/-- The messages that `sel` names withdrawn from the queue of a link, one that has begun among them. -/
def State.withdrawAll (s : State) (k : Nat) (sel : OutMsg → Bool) : State :=
  let s := match (s.link k).outQ.head? with
    | some m => if sel m then s.endMsg k else s
    | none => s
  let begun := if (s.link k).frags.isEmpty then 0 else 1
  s.modLink k (fun l => { l with outQ := l.outQ.take begun ++ (l.outQ.drop begun).filter (fun m => !sel m) })

/-- The messages of a session withdrawn. -/
def State.withdraw (s : State) (k idx : Nat) : State := s.withdrawAll k (fun m => decide (m.session = some idx))

/-! ### Messages (R239 to R246) -/

/-- A message of a session: header and body (R239). -/
def Session.message (x : Session) (type epoch : Nat) (tagged : Bool) (body : List Byte) : List Byte :=
  beBytes 1 type ++ [1, if x.initiator then 0 else 1, if tagged then 1 else 0] ++ beBytes 4 (32 + body.length) ++
    slice x.id 0 8 ++ beBytes 4 epoch ++ beBytes 4 x.gen ++ beBytes 4 x.seqOut ++ beBytes 4 0 ++ body

/-- The control tag of a message under a control key (R244). -/
def controlTag (kctl : List Byte) (m : List Byte) : List Byte := Config.kmac256 kctl m 512 (ascii "heserok control")

/-- A message that ends in its control tag (R243, R244): the length counts the tag. -/
def Session.tagged (x : Session) (type epoch : Nat) (body : List Byte) : List Byte :=
  let m := x.message type epoch true (body ++ List.replicate 64 0)
  let m := m.take (m.length - 64)
  m ++ slice (controlTag x.kctl m) 0 64

/-- A session sends a message: its sequence rises, and the KEEPALIVE interval begins again. -/
def State.sessionSends (s : State) (k : Nat) (par : Bool) (build : Session → List Byte) : State :=
  match (s.link k).ses par with
  | some x =>
    let m := build x
    (s.modSes k par (fun x => { x with seqOut := x.seqOut + 1, lastSent := s.tick })).queueMsg k (some x.idx) m
  | none => s

/-- The versions and capabilities the device sends (R240). -/
def ownVersions : Nat := 1
def ownCapabilities : Nat := 7

/-- The identity block of this device (R230). -/
def State.identityBlock (s : State) : List Byte :=
  let pk := Config.dsaPublic (s.slot 0).key
  if s.on F.kdlEndorseCtlValid then
    [2, BitVec.ofNat 8 (s.rd F.kdlEndorseCtlAnchor), 0, 0] ++ beBytes 4 (s.rd F.kdlEndorseSerSerial) ++
      s.rdBytes .kdl 0x300 64 ++ slice pk 0 2592
  else [1, 0, 0, 0] ++ beBytes 4 0 ++ List.replicate 64 0 ++ slice pk 0 2592

/-- The trace string a link sends, and the one it expects (R232). -/
def State.traceOf (s : State) (k off : Nat) : List Byte :=
  (List.range 32).map (fun b => BitVec.ofNat 8 ((s.word ⟨.kdl, off + 4 * (b / 4), 0, k⟩).toNat >>> (8 * (b % 4))))

/-- The body of an OFFER or an ANSWER (R240): the fixed part, then what each adds. -/
def State.helloBody (s : State) (k : Nat) (x : Session) (rest : List Byte) : List Byte :=
  beBytes 2 ownVersions ++ beBytes 2 ownCapabilities ++ beBytes 4 0 ++ x.nonce ++ s.traceOf k 0x1C0 ++
    s.identityHash ++ slice x.ek 0 1568 ++ rest

/-! ### Ending sessions (R255, R283, R284) -/

/-- Contexts in use: sessions in states 1 to 4 (R261). -/
def Session.inHandshake (x : Session) : Bool := decide (x.st ≠ .live)

/-- A session has sent its OFFER or ANSWER; until then R254 shows it CLOSED. -/
def Session.entered (x : Session) : Bool :=
  decide (x.st ≠ .offered ∧ x.st ≠ .answered) || (if x.initiator then !x.offer.isEmpty else !x.answer.isEmpty)
def State.contexts (s : State) : List Nat :=
  s.kindle.links.flatMap (fun e =>
    (match e.2.cur with | some x => if x.inHandshake then [x.ctx] else [] | none => []) ++
    (match e.2.par with | some x => if x.inHandshake then [x.ctx] else [] | none => []))
/-- Session indices in use. -/
def State.sessionIdxs (s : State) : List Nat :=
  s.kindle.links.flatMap (fun e =>
    (match e.2.cur with | some x => [x.idx] | none => []) ++ (match e.2.par with | some x => [x.idx] | none => []))

/-- The lowest number below `n` that a list does not hold. -/
def lowestFree (n : Nat) (l : List Nat) : Option Nat := (List.range n).find? (fun i => !l.contains i)

/-- A free handshake context (R261): of 32, or of 512 with the sealed region. -/
def State.freeContext (s : State) : Option Nat :=
  lowestFree (if s.on F.kdlStoreValid then 512 else 32) s.contexts

/-- The lattice work of a session forgotten (R262). -/
def State.dropLattice (s : State) (k : Nat) (par : Bool) : State :=
  { s with kindle := { s.kindle with lattice := s.kindle.lattice.filter (fun u => decide (u ≠ .session k par)) } }

/-- A session gone: zeroed, with its messages and its lattice work. -/
def State.closeSession (s : State) (k : Nat) (par : Bool) : State :=
  match (s.link k).ses par with
  | some x =>
    let s := ((s.withdraw k x.idx).dropLattice k par).modLink k (fun l => { l.setSes par none with waitsCtx := false })
    if par then s.modLink k (fun l => { l with installAt := none, installWait := false, liveDue := none })
    else s.modLink k (fun l => { l with roll := none, rekeySince := none, wantRoll := false, wantRekey := false
                                        toStage := [], stageAt := none, installAt := none, installWait := false
                                        casc := [], lateDone := none, peerSilent := false })
  | none => s

/-- The body of an ABORT (R243), and the message, tagged where the session has a control key. While the secret of a
generation just adopted is not yet decapsulated, the one before it serves. -/
def Session.abort (x : Session) (reason : Nat) : List Byte :=
  let x := if x.goal = some .rekeyAdopt then { x with gen := x.gen - 1 } else x
  let body := beBytes 1 reason ++ [0] ++ beBytes 2 ownVersions ++ beBytes 4 0
  if x.kctl.isEmpty then x.message 9 x.epoch false (body ++ List.replicate 64 0) else x.tagged 9 x.epoch body

/-- An ABORT of a link (R237, R245, R264): a message like any other, of no session, for the session that it ends is
gone. -/
def State.sendAbort (s : State) (k : Nat) (x : Session) (reason : Nat) : State :=
  let s := onlyIf (decide (reason = 4)) (fun s => s.kdlEvent F.kdlEvtUntrusted k reason) s
  let s := onlyIf (decide (reason = 3)) (fun s => s.kdlEvent F.kdlEvtTraceMismatch k reason) s
  s.queueMsg k none (x.abort reason)

/-- A link enters HOLDOFF, or counts the hold-off of a parallel session (R278, R284). -/
def State.holdoff (s : State) (k : Nat) (par : Bool) : State :=
  s.modLink k (fun l => { l with holdUntil := if par then l.holdUntil else some (s.tick + s.holdoffTicks l.holdK)
                                 holdK := l.holdK + 1 })

/-- A session fails: ABORT with a reason, and then HOLDOFF, in which nothing more is sent (R255, R278, R284). -/
def State.failSession (s : State) (k : Nat) (par : Bool) (reason : Nat) : State :=
  match (s.link k).ses par with
  | some x => ((s.closeSession k par).sendAbort k x reason).holdoff k par
  | none => s

/-- Every association of a link that is in a keyed state at step 3 of edge `due` becomes DEAD there (R156, R281, R283). -/
def State.killLink (s : State) (k cause due : Nat) : State := s.schedule due (.portDead (s.linkPort k) cause)

/-! ### Lattice work (R248, R262) -/

/-- A session begins lattice operations towards a goal. -/
def State.lattice (s : State) (k : Nat) (par : Bool) (ops : List LatOp) (goal : Goal) : State :=
  let s := s.modSes k par (fun x => { x with ops := ops, goal := some goal })
  { s with kindle := { s.kindle with lattice := s.kindle.lattice ++ [.session k par] } }

/-- A session opened on a link with a free context, as initiator or responder (R255, R261). -/
def State.openSession (s : State) (k : Nat) (par initiator : Bool) (ctx : Nat) : State :=
  let idx := (lowestFree 512 s.sessionIdxs).getD 511
  let new := ((s.link k).ses par).isNone
  let (s, nonce) := s.draw 32
  let x : Session := { idx := idx, ctx := ctx, st := if initiator then .offered else .answered, since := s.tick
                       initiator := initiator, nonce := nonce, id := if initiator then nonce.take 8 else [] }
  let s := s.modLink k (fun l => { l.setSes par (some x) with waitsCtx := false })
  onlyIf (par && new) (fun s => (s.modLink k (fun l => { l with freshPeer := false })).rollEvent F.kdlRollEvtParallelOpen k) s

/-- The link offers as soon as it can: a context is free (R261) and the engine may send (R229); else it waits (R255,
R256). -/
def State.tryOffer (s : State) (k : Nat) (par : Bool) : State :=
  if ((s.link k).ses par).isSome || (!par && (s.link k).holdUntil.isSome) || !s.linkOn k then s
  else match s.kdlRuns, s.freeContext with
    | true, some c => (s.openSession k par true c).lattice k par [.keygen] .sendOffer
    | _, _ => s.modLink k (fun l => { l with waitsCtx := true })

/-- The epoch a side proposes (R252). -/
def State.proposal (s : State) (k : Nat) : Nat :=
  1 + (s.linkAssocs k).foldl (fun m a => max m (max (s.asn a).ph0.epoch (s.asn a).ph1.epoch)) (s.link k).highMark

/-! ### Trust (R231) -/

/-- Trust entry `t` as it may vouch for a peer: masked in, valid, of the form, its slot in use as a trust anchor. -/
def State.trustSlot (s : State) (k t form : Nat) : Option Nat :=
  let mask := s.rd F.kdlLinkTrustLoTrustLo 0 k + 2 ^ 32 * s.rd F.kdlLinkTrustHiTrustHi 0 k
  let v := s.rd (F.kdlTrustSlot.at t)
  if bit mask t && s.on (F.kdlTrustValid.at t) && decide (s.rd (F.kdlTrustForm.at t) = form) && s.slotStands v 3 then some v
  else none

/-- The vault slots whose use would accept a peer's identity block, by trust entry (R231). -/
def State.trustFor (s : State) (k : Nat) (block hash : List Byte) : List Nat :=
  match byteAt block 0 with
  | 1 => (List.range 64).filterMap (fun t => (s.trustSlot k t 0).filter (fun v => decide ((s.slot v).material = hash)))
  | 2 => ((s.trustSlot k (byteAt block 1) 1).filter (fun v => decide
      (Config.kmac256 (s.slot v).material (hash ++ slice block 4 4) 512 (ascii "heserok endorse") = slice block 8 64))).toList
  | _ => []

/-- The outcome of a check of a handshake message: it passes, waits for a use of a slot, or fails with a reason. -/
inductive Check where
  | pass
  | wait
  | fail (reason : Nat)
  deriving DecidableEq, Repr

/-- The identity of a peer accepted (R231): one use of a slot that vouches for it, the first that grants one. -/
def State.acceptIdentity (s : State) (k : Nat) (block hash : List Byte) : State × Check :=
  (s.trustFor k block hash).foldl (fun (q : State × Check) v => match q.2 with
    | .fail _ => match q.1.takeUse v with
      | (s, .granted) => (s.modLink k (fun l => { l with peerHash := hash }), .pass)
      | (s, .waits) => (s, .wait)
      | (s, .refused) => (s, .fail 4)
    | _ => q) (s, .fail 4)

/-- The public key of an identity block. -/
def blockKey (block : List Byte) : List Byte := slice block 72 2592

/-- Whether the hash and form of an identity block fit (R230, R231, R246). The hash is R230's, of the public key in the
block (DEDUCED, log entry 19): a hash of the whole block would take in the endorsement, which is made over that hash. -/
def blockOk (block hash : List Byte) : Bool :=
  decide (Config.sha3 (blockKey block) = hash) && decide (byteAt block 0 = 1 ∨ byteAt block 0 = 2)

/-- The length field of a message agrees with its size and the size it must have (R246). -/
def sizeOk (m : List Byte) (n : Nat) : Bool := decide (m.length = n) && decide (beAt m 4 4 = n)

/-- The checks of version, capability, SELF and trace, in the order of R255. -/
def State.helloCheck (s : State) (k : Nat) (m : List Byte) : Check :=
  if !bit (beAt m 32 2) 0 then .fail 2
  else if !bit (beAt m 34 2) (if s.portOtn (s.linkPort k) then 1 else 0) then .fail 12
  else if slice m 104 64 = s.identityHash then .fail 11
  else if slice m 72 32 ≠ s.traceOf k 0x1E0 then .fail 3
  else .pass

/-- An OFFER is well formed (R246). -/
def offerOk (m : List Byte) : Bool :=
  sizeOk m 4400 && Config.kemKeyOk (slice m 168 1568) && blockOk (slice m 1736 2664) (slice m 104 64)

/-- A message of a link discarded and counted (R239, R246, R263). -/
def State.discard (s : State) : State := s.count .kdl 0 9

/-! ### The handshake (R255) -/

/-- The context that an OFFER is answered in: the one that the side keeps which has withdrawn its own (R285), else a free
one. -/
def State.contextFor (s : State) (k : Nat) (par : Bool) : Option Nat :=
  match (s.link k).ses par with
  | some x => some x.ctx
  | none => s.freeContext

/-- An OFFER handled as in the CLOSED row of R255, in the current or the parallel place of the link. -/
def State.takeOffer (s : State) (k : Nat) (par : Bool) (m : List Byte) : State × Bool :=
  let x : Session := { idx := 0, st := .answered, initiator := false, id := slice m 8 8 }
  let refuse := fun (s : State) (r : Nat) => (((s.closeSession k par).sendAbort k x r).holdoff k par, true)
  if !offerOk m then refuse s 7
  else match s.helloCheck k m with
    | .fail r => refuse s r
    | .wait => (s, false)
    | .pass => match s.acceptIdentity k (slice m 1736 2664) (slice m 104 64) with
      | (s, .fail r) => refuse s r
      | (s, .wait) => (s, false)
      | (s, .pass) => match s.contextFor k par with
        | none => refuse ((s.count .kdl 0 15).kdlEvent F.kdlEvtNoContext k 0) 8
        | some c =>
          let s := s.openSession k par false c
          let s := s.modSes k par (fun x => { x with id := slice m 8 8, offer := m, seqIn := beAt m 24 4 + 1, peerEpoch := beAt m 16 4 })
          (s.lattice k par [.keygen, .encaps] .sendAnswer, true)

/-- A side withdraws its own OFFER and zeroes its key pair, and keeps its context (R285). -/
def State.withdrawOffer (s : State) (k : Nat) (par : Bool) (x : Session) : State :=
  ((s.withdraw k x.idx).dropLattice k par).modSes k par (fun x => { x with dk := [], ek := [], offer := [], ops := [], goal := none })

/-- An OFFER processed (R255, R275, R284 to R286): whether it is done with. -/
def State.onOffer (s : State) (k : Nat) (m : List Byte) : State × Bool :=
  let l := s.link k
  let par := match l.cur with
    | some x => decide (x.st = .live)
    | none => false
  let known := fun (x : Session) => decide (slice x.id 0 8 = slice m 8 8)
  if l.holdUntil.isSome then (s.discard, true)
  else match l.ses par with
    | none =>
      match l.cur with
      | some x => if par && known x then (s.discard, true) else s.takeOffer k par m
      | none => s.takeOffer k par m
    | some x =>
      if known x || (match l.cur with | some c => known c | none => false) then (s.discard, true)
      else if !offerOk m then (s.discard, true)
      else if x.st = .offered then
        let own := beNat s.identityHash
        let peer := beNat (slice m 104 64)
        if own = peer then (s.failSession k par 11, true)
        else if peer < own then (s.collide k, true)
        else (s.withdrawOffer k par x).takeOffer k par m
      else ((s.collide k).closeSession k par).takeOffer k par m

/-- An ANSWER processed (R255). -/
def State.onAnswer (s : State) (k : Nat) (par : Bool) (x : Session) (m : List Byte) : State :=
  if x.st ≠ .offered ∨ !x.ops.isEmpty then s.discard
  else if !(sizeOk m 3304 && Config.kemKeyOk (slice m 168 1568)) then s.failSession k par 7
  else match s.helloCheck k m with
    | .fail r => s.failSession k par r
    | _ =>
      let s := s.modSes k par (fun x => { x with answer := m, seqIn := beAt m 24 4 + 1, peerEpoch := beAt m 16 4, epoch := max x.ownEpoch (beAt m 16 4) })
      s.lattice k par [.decaps, .encaps, .sign] .sendProofI

/-- A PROOF processed (R241, R246, R255): whether it is done with. -/
def State.onProof (s : State) (k : Nat) (par : Bool) (x : Session) (m : List Byte) : State × Bool :=
  if !x.ops.isEmpty then (s.discard, true)
  else if x.st = .answered ∧ !x.initiator then
    if !(sizeOk m 6235 && decide (beAt m 32 2 = 1568) && decide (beAt m 34 2 = 0)) then (s.failSession k par 7, true)
    else ((s.modSes k par (fun x => { x with proofI := m, seqIn := beAt m 24 4 + 1 })).lattice k par [.verify, .decaps, .sign] .sendProofR, true)
  else if x.st = .proved ∧ x.initiator then
    let block := slice m 4667 2664
    if !(sizeOk m 7331 && decide (beAt m 32 2 = 0) && decide (beAt m 34 2 = 2664) && blockOk block (slice x.answer 104 64)) then
      (s.failSession k par 7, true)
    else match s.acceptIdentity k block (slice x.answer 104 64) with
      | (s, .fail r) => (s.failSession k par r, true)
      | (s, .wait) => (s, false)
      | (s, .pass) =>
        ((s.modSes k par (fun x => { x with proofR := m, seqIn := beAt m 24 4 + 1 })).lattice k par [.verify] .sendConfirm, true)
  else (s.discard, true)

/-! ### Keys (R250, R251) -/

/-- The working key and salt of an association at an epoch (R251). -/
def workingKey (secret : List Byte) (peerIndex epoch : Nat) : BitVec 256 × BitVec 96 :=
  let out := kdf secret "heserok assoc" (beBytes 4 peerIndex ++ beBytes 4 epoch) 352
  (keyOfBytes out, BitVec.ofNat 96 (beNat (slice out 32 12)))

/-- The session secret derived (R250). -/
def Session.withSecret (x : Session) : Session :=
  let th2 := Config.sha3 (x.offer ++ x.answer ++ x.proofI)
  { x with secret := kdf (x.ki ++ x.kr) "heserok session" th2 512 }

/-- The confirm and control keys derived (R250). -/
def Session.withKeys (x : Session) : Session :=
  let thf := Config.sha3 (x.offer ++ x.answer ++ x.proofI ++ x.proofR)
  { x with thf := thf, kc := kdf x.secret "heserok confirm" thf 256, kctl := kdf x.secret "heserok control" thf 256 }

/-- The tag of a CONFIRM (R250). -/
def Session.confirmTag (x : Session) (fromInitiator : Bool) : List Byte :=
  Config.kmac256 x.kc x.thf 512 (ascii (if fromInitiator then "heserok confirm i" else "heserok confirm r"))

/-- The messages that a PROOF signs (R250). -/
def Session.signedI (x : Session) : List Byte :=
  ascii "heserok proof i" ++ Config.sha3 (x.offer ++ x.answer) ++ slice x.ct 0 1568
def Session.signedR (x : Session) (block : List Byte) : List Byte :=
  ascii "heserok proof r" ++ Config.sha3 (x.offer ++ x.answer ++ x.proofI) ++ block

/-- The context string of the signatures (R249). -/
def kindleContext : List Byte := ascii "heserok kindle"

/-- One staged association (R257): key and salt in phase 0, not usable. -/
def State.stageOne (s : State) (k : Nat) (par : Bool) (a : Nat) : State :=
  match (s.link k).ses par with
  | some x =>
    let e := s.asn a
    let (key, salt) := workingKey x.secret e.peerIndex x.epoch
    if e.state = .kindling then
      (s.setAsn a { e with ph0 := { e.ph0 with key := key, salt := salt, valid := false, initiator := x.initiator } }).modSes k par
        (fun x => { x with staged := if x.staged.contains a then x.staged else x.staged ++ [a] })
    else s
  | none => s

/-- The associations of a link that wait in KINDLING. -/
def State.kindlingOf (s : State) (k : Nat) : List Nat :=
  (s.linkAssocs k).filter (fun a => decide ((s.asn a).state = .kindling))

/-- Ticks that the derivation of `n` keys takes (R251). -/
def deriveTicks (n : Nat) : Nat := max 1 (ceilDiv n 1024)

/-- After s is derived, the keys of every association of the link in KINDLING are derived (R257). -/
def State.beginStaging (s : State) (k : Nat) (par : Bool) : State :=
  let l := s.kindlingOf k
  s.modSes k par (fun x => { x with staged := [], toStage := l, stageAt := some (s.tick + deriveTicks l.length) })

/-- The derived keys of a session are staged (R257). -/
def State.stageKeys (s : State) (k : Nat) (par : Bool) : State :=
  match (s.link k).ses par with
  | some x =>
    let s := forL x.toStage (fun a s => s.stageOne k par a) s
    (s.modSes k par (fun x => { x with toStage := [], stageAt := none })).count .kdl 0 13 x.toStage.length
  | none => s

/-! ### Lattice results (R250, R262) -/

/-- A fresh peer (R277): it proposed epoch 1 while the link had a LIVE session. -/
def State.freshPeer (s : State) (k : Nat) : State :=
  match (s.link k).par with
  | some x =>
    let s := s.closeSession k false
    let s := forL (s.linkAssocs k) (fun a s => match (s.asn a).state with
      | .live | .rolling | .draining => s.deadAsn a 4
      | _ => s) s
    let s := s.modLink k (fun l => { l with cur := some x, par := none, freshPeer := true })
    let s := { s with kindle := { s.kindle with lattice := s.kindle.lattice.map (fun u => if u = LatUser.session k true then LatUser.session k false else u) } }
    s.rollEvent F.kdlRollEvtFreshPeer k
  | none => s

/-- Whether the parallel session of a link now stands as its session: after R277. -/
def State.parNow (s : State) (k : Nat) (par : Bool) : Bool := par && (s.link k).par.isSome

/-- One lattice operation delivers for a session. The answer tells whether it has delivered, rather than waits. -/
def State.latDeliver (s : State) (k : Nat) (par : Bool) (x : Session) (op : LatOp) : State × Bool :=
  match op with
  | .keygen =>
    let (s, seed) := s.draw 64
    let (ek, dk) := Config.kemKeys seed
    (s.modSes k par (fun x => { x with ek := ek, dk := dk }), true)
  | .encaps =>
    let ek := match x.goal with
      | some .sendAnswer => slice x.offer 168 1568
      | some .rekeyResponse => slice x.rekeyMsg 72 1568
      | _ => slice x.answer 168 1568
    let (s, rnd) := s.draw 32
    let (ct, ss) := Config.kemEncaps ek rnd
    (s.modSes k par (fun x => if x.initiator && decide (x.goal = some .sendProofI) then { x with ct := ct, ki := ss }
      else { x with ct := ct, kr := ss }), true)
  | .decaps =>
    let ct := match x.goal with
      | some .sendProofI => slice x.answer 1736 1568
      | some .sendProofR => slice x.proofI 40 1568
      | _ => slice x.rekeyResp 72 1568
    let ss := Config.kemDecaps x.dk ct
    let s := s.modSes k par (fun x => match x.goal with
      | some .sendProofI => { x with kr := ss, dk := [] }
      | some .sendProofR => { x with ki := ss, dk := [] }.withSecret
      | _ => { x with kr := ss, dk := [] })
    (onlyIf (decide (x.goal = some .sendProofR)) (fun s => s.beginStaging k par) s, true)
  | .verify =>
    let ok := match x.goal with
      | some .sendProofR =>
        let x := { x with ct := slice x.proofI 40 1568 }
        Config.dsaVerify (blockKey (slice x.offer 1736 2664)) x.signedI kindleContext (slice x.proofI 1608 4627)
      | _ =>
        let block := slice x.proofR 4667 2664
        Config.dsaVerify (blockKey block) (x.signedR block) kindleContext (slice x.proofR 40 4627)
    if !ok then (s.failSession k par 1, true)
    else if par && decide (x.peerEpoch = 1) then (s.freshPeer k, true)
    else (s, true)
  | .sign =>
    match s.takeUse 0 with
    | (s, .waits) => (s, false)
    | (s, .refused) => (s.failSession k par 9, true)
    | (s, .granted) =>
      let (s, rnd) := s.draw 32
      let block := s.identityBlock
      let msg := if x.initiator then x.signedI else x.signedR block
      let sig := slice (Config.dsaSign (s.slot 0).key msg kindleContext rnd) 0 4627
      let m := fun (x : Session) =>
        if x.initiator then
          x.message 3 x.epoch false (beBytes 2 1568 ++ beBytes 2 0 ++ beBytes 4 0 ++ slice x.ct 0 1568 ++ sig)
        else x.message 3 x.epoch false (beBytes 2 0 ++ beBytes 2 2664 ++ beBytes 4 0 ++ sig ++ block)
      (s.modSes k par (fun x => if x.initiator then { x with proofI := m x } else { x with proofR := m x }), true)

/-- A handshake message queued by a session that has just built it. -/
def State.sendBuilt (s : State) (k : Nat) (par : Bool) (get : Session → List Byte) (st : SesState) : State :=
  (s.modSes k par (fun x => { x with st := st, since := s.tick })).sessionSends k par get

/-- A REKEY message (R243). -/
def Session.rekey (x : Session) (step : Nat) (nonce body : List Byte) : List Byte :=
  x.tagged 8 x.epoch (beBytes 1 step ++ beBytes 7 0 ++ slice nonce 0 32 ++ slice body 0 1568)

/-- The next generation (R253). -/
def Session.nextGen (x : Session) (ss request response : List Byte) : List Byte × List Byte :=
  let thk := Config.sha3 (request ++ response)
  let s' := kdf (x.secret ++ ss) "heserok rekey" thk 512
  (s', kdf s' "heserok control" thk 256)

/-- A requester accepts the response of its REKEY pair (R273): its next messages are of generation g + 1, whose keys its
decapsulation yields. -/
def Session.accepts (x : Session) (resp : List Byte) : Session := { x with gen := x.gen + 1, rekeyResp := resp }

/-- A session adopts generation g + 1 (R253, R273). -/
def Session.adopt (x : Session) (g : List Byte × List Byte) : Session :=
  { x with gen := x.gen + 1, oldSecret := x.secret, secret := g.1, kctl := g.2, pending := none, rekeyMsg := [] }

/-- The goal of a session reached (R255, R273). The last says whether a rollover is to begin. -/
def State.reachGoal (s : State) (k : Nat) (par : Bool) (g : Goal) : State :=
  match g with
  | .sendOffer =>
    let e := s.proposal k
    let block := s.identityBlock
    let s := s.modSes k par (fun x => { x with ownEpoch := e, offer := x.message 1 e false (s.helloBody k x block) })
    s.sendBuilt k par (fun x => x.offer) .offered
  | .sendAnswer =>
    let e := s.proposal k
    let s := s.modSes k par (fun x =>
      { x with ownEpoch := e, epoch := max e x.peerEpoch, answer := x.message 2 e false (s.helloBody k x (slice x.ct 0 1568)) })
    s.sendBuilt k par (fun x => x.answer) .answered
  | .sendProofI => (s.modSes k par (fun x => { x with st := .proved }.withSecret)).sendBuilt k par (fun x => x.proofI) .proved
  | .sendProofR =>
    (s.modSes k par (fun x => x.withKeys)).sendBuilt k par (fun x => x.proofR) .proved
  | .sendConfirm =>
    let s := (s.modSes k par (fun x => x.withKeys)).beginStaging k par
    s.sendBuilt k par (fun x => x.message 4 x.epoch false (slice (x.confirmTag true) 0 64)) .confirming
  | .rekeyRequest =>
    if (s.link k).roll.isSome then
      (s.modSes k par (fun x => { x with dk := [], ek := [] })).modLink k (fun l => { l with wantRekey := true })
    else
    let (s, nonce) := s.draw 32
    let s := s.modSes k par (fun x => { x with rekeyMsg := x.rekey 0 nonce x.ek })
    (s.modLink k (fun l => { l with rekeySince := some s.tick })).sessionSends k par (fun x => x.rekeyMsg)
  | .rekeyResponse =>
    let (s, nonce) := s.draw 32
    let built := fun (x : Session) => x.rekey 1 nonce x.ct
    let s := s.modSes k par (fun x => { x with pending := some (x.nextGen x.kr x.rekeyMsg (built x)) })
    s.sessionSends k par built
  | .rekeyAdopt => s

/-- The own CONFIRM of a responder, once its PROOF is wholly acknowledged (R255). -/
def State.sendConfirmR (s : State) (k : Nat) (par : Bool) : State :=
  s.sendBuilt k par (fun x => x.message 4 x.epoch false (slice (x.confirmTag false) 0 64)) .confirming

/-- A CONFIRM processed (R255, R259): whether it is done with. It waits while the own PROOF is not acknowledged. -/
def State.onConfirm (s : State) (k : Nat) (par : Bool) (x : Session) (m : List Byte) : State × Bool :=
  if x.st = .proved ∧ !x.initiator then (s, false)
  else if x.st ≠ .confirming then (s.discard, true)
  else if !sizeOk m 96 then (s.failSession k par 7, true)
  else if slice m 32 64 ≠ slice (x.confirmTag (!x.initiator)) 0 64 then (s.failSession k par 6, true)
  else
    let s := s.modSes k par (fun x => { x with peerConfirmed := true, seqIn := beAt m 24 4 + 1 })
    (s.modLink k (fun l => { l with installAt := some (s.tick + 1) }), true)

/-! ### Installing phase 0 (R259, R276) -/

/-- The high mark of a link: the largest epoch installed on any of its associations (R252). -/
def State.raiseMark (s : State) (k epoch : Nat) : State := s.modLink k (fun l => { l with highMark := max l.highMark epoch })

/-- An install into phase 0 of one staged association, or its refusal (R158, R259). -/
def State.installStaged (s : State) (k : Nat) (x : Session) (a : Nat) : State :=
  let e := s.asn a
  if e.state ≠ .kindling then s
  else if e.mayInstall x.epoch then
    let key := e.ph0.key
    let salt := e.ph0.salt
    let s := (s.installFirst a key salt x.epoch).raiseMark k x.epoch
    s.modAsn a (fun e => { e with ph0 := { e.ph0 with initiator := x.initiator }, session := x.idx })
  else (s.count .kdl 0 14).kdlEvent F.kdlEvtInstallRefused k 0

/-- An install into the idle phase of one LIVE association (R158, R268, R276); what was left of an overlap there is
over. -/
def State.installIdleOf (s : State) (k : Nat) (x : Session) (epoch a : Nat) : State :=
  let e := s.asn a
  if e.mayInstall epoch then
    let (key, salt) := workingKey x.secret e.peerIndex epoch
    let s := (s.installIdle a key salt epoch).raiseMark k epoch
    s.modAsn a (fun e => { (e.setPh (!e.txPhase) { e.ph (!e.txPhase) with initiator := x.initiator }) with overlapAt := none })
  else (s.count .kdl 0 14).kdlEvent F.kdlEvtInstallRefused k 0

/-- PHASE0_INSTALL (R259, R276): at step 2 of the edge after the peer's CONFIRM verified. The install of a parallel
session waits for a rollover in progress; its CONFIRM's acknowledgement waits with it. -/
def State.phase0Install (s : State) (k : Nat) : State :=
  let l := s.link k
  let par := match l.par with
    | some x => x.peerConfirmed
    | none => false
  match l.installAt, l.ses par with
  | some e, some x =>
    if s.tick < e then s
    else if par && l.roll.isSome then s.modLink k (fun l => { l with installWait := true })
    else
      let s := forL x.staged (fun a s => s.installStaged k x a) s
      let s := if par && !x.installed then
          let live := (s.linkAssocs k).filter (fun a => decide ((s.asn a).state = .live))
          (forL live (fun a s => s.installIdleOf k x x.epoch a) s).count .kdl 0 13 live.length
        else s
      let s := s.modSes k par (fun x => { x with installed := true, staged := [] })
      let s := s.modLink k (fun l => { l with installAt := none, installWait := false
                                              epoch := if par then l.epoch else x.epoch })
      s.releaseAck k
  | _, _ => s

end Sys2Proof.Machine
end

