-- ==== Sys2Proof/Machine/Slices.lean ====
section
/-! DEFINITION. Slices and lookaside work (R340 to R359): rings and doorbells, descriptors and jobs, the modes of R183
to R190, generations, binding, and the dirty log's exchange. -/

namespace Sys2Proof.Machine

open Sys2Proof

/-! ### Rings (R343, R345) -/

/-- A field of submission queue `q`. -/
def sqFld (f : Fld) (q : Nat) : Fld := f.at q 0x20

/-- The size of a submission queue of a slice. -/
def State.sqSize (s : State) (n q : Nat) : Nat := ringSize (s.rd (sqFld F.slcSqCfgLog2Size q) n)

/-- Descriptors of a submission queue that the device has not read. -/
def State.sqAhead (s : State) (n q : Nat) : Nat :=
  ringGap (s.sqSize n q) (s.rd (sqFld F.slcSqTailTail q) n) (s.rd (sqFld F.slcSqHeadHead q) n)

/-- Completion entries that can still be reserved (R345): every descriptor read and not completed holds one. -/
def State.cqFree (s : State) (n : Nat) : Nat :=
  let size := ringSize (s.rd F.slcCqCfgLog2Size n)
  let r := s.sliceRt n
  size - ringGap size r.cqTail (s.rd F.slcCqHeadHead n) - r.fetched.length - r.jobs.length

/-- Whether a slice may read descriptors: bound or resetting, with its completion queue on and no faulty ring. -/
def State.mayFetch (s : State) (n : Nat) : Bool :=
  let r := s.sliceRt n
  decide (r.state = 1 ∨ r.state = 2) && !r.ringFault && s.on F.slcCqCfgEnable n && decide (0 < s.cqFree n)

/-- The queue whose turn it is, of those with descriptors to read (R345). -/
def State.fetchQueue (s : State) (n : Nat) : Option Nat :=
  ((List.range 4).map (fun i => ((s.sliceRt n).turn + i) % 4)).find? (fun q =>
    s.on (sqFld F.slcSqCfgEnable q) n && decide (0 < s.sqAhead n q))

/-! ### Modes (R183 to R188) -/

/-- The IV length of a mode (R184). -/
def ivLen (mode : Nat) : Nat :=
  match mode with
  | 1 | 2 => 12
  | 3 | 4 | 5 => 16
  | _ => 0

/-- Whether a length is below the minimum of R184 or not of the multiple it requires. -/
def lenInvalid (mode : Nat) (dir : Bool) (len : Nat) : Bool :=
  match mode, dir with
  | 4, true => decide (len < 16 ∨ len % 16 ≠ 0)
  | 5, _ => decide (len < 16)
  | 6, false => decide (len < 16 ∨ len % 8 ≠ 0)
  | 6, true => decide (len < 24 ∨ len % 8 ≠ 0)
  | 7, false => decide (len < 1)
  | 7, true => decide (len < 16 ∨ len % 8 ≠ 0)
  | _, _ => false

/-- Whether a length is above the maximum of R184. -/
def lenRange (mode : Nat) (dir : Bool) (aad len : Nat) : Bool :=
  match mode, dir with
  | 1, _ => decide (2 ^ 32 - 1 < aad + len)
  | 4, false => decide (2 ^ 32 - 17 < len)
  | 4, true => decide (2 ^ 32 - 16 < len)
  | 5, _ => decide (2 ^ 24 < len)
  | 6, false | 7, false => decide (65528 < len)
  | 6, true | 7, true => decide (65536 < len)
  | _, _ => decide (2 ^ 32 - 1 < len)

/-- Whether a job may be cut into pieces (R188). -/
def splits (mode : Nat) (dir : Bool) : Bool := decide (mode ≤ 3 ∨ mode = 5 ∨ (mode = 4 ∧ dir = true))

/-- The pieces of a job (R188): a short remainder of XTS joins the piece before it. -/
def Job.pieces (j : Job) : Nat :=
  if !splits j.mode j.dir || decide (j.len ≤ 65536) then 1
  else
    let r := j.len % 65536
    let n := ceilDiv j.len 65536
    if j.mode = 5 ∧ 0 < r ∧ r < 32 ∧ r % 16 ≠ 0 then n - 1 else n

/-- The data bytes that piece `i` of a job reads; the first also reads the AAD. -/
def Job.pieceBytes (j : Job) (i : Nat) : Nat := if i + 1 = j.pieces then j.len - 65536 * i else 65536

/-- The bytes a dispatch of piece `i` reads. -/
def Job.readBytes (j : Job) (i : Nat) : Nat := j.pieceBytes i + if i = 0 then j.aadLen else 0

/-- The slots of piece `i` (R187): what the job has beside its blocks falls to its first or last piece. -/
def Job.pieceSlots (j : Job) (i : Nat) : Nat :=
  let n := j.pieceBytes i
  let last := decide (i + 1 = j.pieces)
  match j.mode with
  | 1 => (if i = 0 then ceilDiv j.aadLen 16 else 0) + ceilDiv n 16 + (if last then 2 else 0)
  | 2 => ceilDiv n 16 + (if last then 2 else 0)
  | 4 => if j.dir then n / 16 else n / 16 + 1
  | 5 => ceilDiv n 16 + (if i = 0 then 1 else 0)
  | 6 => if j.dir then 6 * (n / 8 - 1) else 6 * (n / 8)
  | 7 =>
    let b := if j.dir then n / 8 - 1 else ceilDiv n 8
    if b = 1 then 1 else 6 * b
  | _ => ceilDiv n 16

/-- The Stoves' outcome of a job on the bytes read (R185, R186, R190): its status, the bytes for the destination, the
tag to write, and out_len. -/
def Job.compute (j : Job) (tag : List Byte) : Nat × List Byte × List Byte × Nat :=
  let key := keyOfBytes j.key
  let iv := BitVec.ofNat 96 (beAt j.iv 0 12)
  let ivb := blockOf j.iv
  let aad := j.data.take j.aadLen
  let x := j.data.drop j.aadLen
  let zeros := fun (n : Nat) => List.replicate n (0 : Byte)
  match j.mode, j.dir with
  | 1, false => let ct := gcmCrypt key iv x; (0, ct, gcmTag key iv aad ct, j.len)
  | 1, true => if gcmTag key iv aad x = tag then (0, gcmCrypt key iv x, [], j.len) else (1, zeros j.len, [], 0)
  | 2, false => (0, [], gcmTag key iv x [], 0)
  | 2, true => if gcmTag key iv x [] = tag then (0, [], [], 0) else (1, [], [], 0)
  | 3, _ => (0, ctrCrypt key ivb x, [], j.len)
  | 4, false => let y := cbcEncrypt key ivb (pkcsPad x); (0, y, [], y.length)
  | 4, true =>
    match pkcsUnpad (cbcDecrypt key ivb x) with
    | some y => (0, y, [], y.length)
    | none => (2, zeros j.len, [], 0)
  | 5, d => (0, xtsCrypt (!d) key (keyOfBytes (j.key.drop 32)) ivb x, [], j.len)
  | 6, false => let y := kwWrap key x; (0, y, [], j.len + 8)
  | 6, true =>
    match kwUnwrap key x with
    | some y => (0, y, [], j.len - 8)
    | none => (1, zeros (j.len - 8), [], 0)
  | _, false => let y := kwpWrap key x; (0, y, [], 8 * ceilDiv j.len 8 + 8)
  | _, true =>
    match kwpUnwrap key x with
    | some y => (0, y, [], y.length)
    | none => (1, zeros (j.len - 8), [], 0)

/-- The destination bytes that a mismatched job may have written, to be zeroed (R196). -/
def Job.extent (j : Job) : Nat :=
  match j.mode, j.dir with
  | 2, _ => 0
  | 4, false => 16 * (j.len / 16 + 1)
  | 6, false => j.len + 8
  | 7, false => 8 * ceilDiv j.len 8 + 8
  | 6, true | 7, true => j.len - 8
  | _, _ => j.len

/-- The destination bytes of the pieces dispatched so far. -/
def Job.begun (j : Job) : Nat := if j.issued = j.pieces then j.extent else min j.extent (65536 * j.issued)

/-! ### Descriptors (R344 to R347) -/

/-- The fields of a descriptor (R344). -/
def Desc.opcode (d : Desc) : Nat := byteAt d.bytes 0
def Desc.modeByte (d : Desc) : Nat := byteAt d.bytes 1
def Desc.mode (d : Desc) : Nat := d.modeByte % 16
def Desc.dir (d : Desc) : Bool := bit d.modeByte 4
def Desc.irq (d : Desc) : Bool := bit d.modeByte 5
def Desc.kind (d : Desc) : Nat := byteAt d.bytes 2
def Desc.kek (d : Desc) : Nat := leNat (slice d.bytes 4 2)
def Desc.gen (d : Desc) : Nat := leNat (slice d.bytes 6 2)
def Desc.keyRef (d : Desc) : Nat := leNat (slice d.bytes 8 8)
def Desc.len (d : Desc) : Nat := leNat (slice d.bytes 32 4)
def Desc.aadLen (d : Desc) : Nat := leNat (slice d.bytes 36 4)

/-- BAD_DESC (R346): a reserved opcode or key_kind, or a bit outside the fields that are in use. -/
def Desc.bad (d : Desc) : Bool :=
  match d.opcode with
  | 1 =>
    decide (64 ≤ d.modeByte) ||
      (match d.kind with
       | 1 => decide (d.kek ≠ 0 ∨ 2 ^ 17 ≤ d.keyRef)
       | 2 => decide (d.kek ≠ 0 ∨ 2 ^ 10 ≤ d.keyRef)
       | 3 => decide (2 ^ 10 ≤ d.kek ∨ d.keyRef % 8 ≠ 0)
       | _ => true)
  | 2 | 3 => decide (d.modeByte ≠ 0 ∧ d.modeByte ≠ 32) || (slice d.bytes 2 4).any (· ≠ 0) || (slice d.bytes 8 56).any (· ≠ 0)
  | _ => true

/-- Whether a slot lies in the vault window of a slice (R342). -/
def State.inWindow (s : State) (n v : Nat) : Bool :=
  let b := s.rd F.hstSvaultVaultBase 0 n
  decide (b ≤ v ∧ v < b + s.rd F.hstSvaultVaultCount 0 n ∧ v < 1024)

/-- Whether key bytes suit a mode (R184): 64 with unequal halves for XTS, else 32. -/
def keyFits (mode : Nat) (key : List Byte) : Bool :=
  if mode = 5 then decide (key.length = 64 ∧ key.take 32 ≠ key.drop 32) else decide (key.length = 32)

/-- Whether a slot may be named by a job of a slice (R346), be it expired. -/
def State.slotServes (s : State) (n v type : Nat) : Bool :=
  s.inWindow n v && s.slotStands v type && (s.slot v).hostUse

/-- How the key of a job resolves (R346, R347): the key and its epoch; a status that refuses it; or a wait. -/
inductive KeyAnswer where
  | key (bytes : List Byte) (epoch : Nat)
  | status (code : Nat)
  | waits
  deriving DecidableEq, Repr

/-- The material of an unwrapped inline blob, where its image permits it (R346). -/
def inlineKey (p : List Byte) : Option (List Byte) :=
  let f := byteAt p 1
  let long := bit f 4
  if byteAt p 0 % 16 = 5 ∧ bit f 3 = true ∧ p.length = (if long then 80 else 48) then some (p.drop 16) else none

/-- The key of a descriptor (R346): the unwrap of an inline key takes its use of the KEK here. -/
def State.jobKey (s : State) (n : Nat) (d : Desc) (blob : Option (List Byte)) : State × KeyAnswer :=
  match d.kind with
  | 1 =>
    let a := s.asn d.keyRef
    let ok := a.sliceValid && decide (a.slice = n) && decide (a.state = .live ∨ a.state = .rolling ∨ a.state = .draining) &&
      decide (1 ≤ d.mode ∧ d.mode ≤ 4)
    let k := kdf (beBytes 32 a.tx.key.toNat) "heserok lookaside" (beBytes 4 a.tx.epoch) 256
    (s, if ok then .key (slice k 0 32) a.tx.epoch else .status 6)
  | 2 =>
    let v := d.keyRef
    let ok := s.slotServes n v 5 || (decide (d.mode = 6 ∨ d.mode = 7) && s.slotServes n v 1)
    if ok && (s.slot v).expired then ((s.takeUse v).1, .status 6)
    else (s, if ok && keyFits d.mode (s.slot v).key then .key (s.slot v).key 0 else .status 6)
  | _ =>
    match blob with
    | none => (s, .status 10)
    | some b =>
      if !s.slotServes n d.kek 1 then (s, .status 6)
      else
        match s.takeUse d.kek with
        | (s, .waits) => (s, .waits)
        | (s, .refused) => (s, .status 6)
        | (s, .granted) =>
          match (kwpUnwrap (s.slot d.kek).aesKey b).bind inlineKey with
          | some k => (s, if keyFits d.mode k then .key k 0 else .status 6)
          | none => (s, .status 6)

/-- The checks of R186 that follow the key: 0 where none fails. -/
def Desc.lengthStatus (d : Desc) : Nat :=
  if byteAt d.bytes 3 ≠ ivLen d.mode then 7
  else if d.mode ≠ 1 ∧ d.aadLen ≠ 0 then 8
  else if lenInvalid d.mode d.dir d.len then 3
  else if lenRange d.mode d.dir d.aadLen d.len then 4
  else 0

/-! ### Jobs begun and completed -/

/-- The first descriptor of queue `q` that waits to begin. -/
def State.headDesc (s : State) (n q : Nat) : Option Desc := (s.sliceRt n).fetched.find? (fun d => d.queue = q)

/-- The state without that descriptor. -/
def State.dropDesc (s : State) (n q : Nat) : State :=
  s.modSlice n (fun r => { r with fetched := r.fetched.eraseP (fun d => d.queue = q) })

/-- A job counted as completed, and as failed where its status says so (R361). -/
def State.countJob (s : State) (n status : Nat) : State :=
  let s := (s.count .hst 0 2).count .hst 0 (16 + n) 1 0
  if status = 0 then s else (s.count .hst 0 3).count .hst 0 (16 + n) 1 1

/-- A JOB that is refused before any Stove work completes at once and writes nothing else. -/
def State.refuseJob (s : State) (n : Nat) (d : Desc) (status : Nat) (ok : Bool) : State :=
  ((s.dropDesc n d.queue).countJob n status).completion n d.queue d.index status 0 (s.sliceRt n).gen 0 d.irq ok

/-- A JOB begins (R345, R346): its key is resolved and held by the job. -/
def State.beginJob (s : State) (n : Nat) (d : Desc) (key : List Byte) (epoch : Nat) : State :=
  (s.dropDesc n d.queue).modSlice n (fun r =>
    { r with nextJob := r.nextJob + 1
             jobs := r.jobs ++ [{ id := r.nextJob, queue := d.queue, index := d.index, gen := r.gen, mode := d.mode
                                  dir := d.dir, irq := d.irq, key := key, epoch := epoch
                                  iv := slice d.bytes 40 (ivLen d.mode)
                                  src := leNat (slice d.bytes 16 8), dst := leNat (slice d.bytes 24 8)
                                  len := d.len, aadLen := d.aadLen, tagAt := leNat (slice d.bytes 56 8)
                                  since := s.tick }] })

/-- The JOB at the head of queue `q` is checked (R186, R346) and begun, refused, or left to wait. -/
def State.judgeJob (s : State) (n : Nat) (d : Desc) (blob : Option (List Byte)) (ok : Bool) : State :=
  if d.bad then s.refuseJob n d 12 ok
  else if d.gen ≠ (s.sliceRt n).gen then s.refuseJob n d 13 ok
  else if d.mode = 0 ∨ 8 ≤ d.mode then s.refuseJob n d 5 ok
  else
    match s.jobKey n d blob with
    | (s, .waits) => s
    | (s, .status c) => s.refuseJob n d c ok
    | (s, .key k e) =>
      if d.lengthStatus ≠ 0 then s.refuseJob n d d.lengthStatus ok
      else if s.rd F.hstSresCellQuota 0 n < 32 then s.refuseJob n d 14 ok
      else if d.kind = 2 then
        match s.takeUse d.keyRef with
        | (s, .waits) => s
        | (s, .refused) => s.refuseJob n d 6 ok
        | (s, .granted) => s.beginJob n d k e
      else s.beginJob n d k e

/-- The status of a FENCE or NOP (R346). -/
def State.plainStatus (s : State) (n : Nat) (d : Desc) : Nat :=
  if d.bad then 12 else if d.gen ≠ (s.sliceRt n).gen then 13 else 0

/-- A FENCE or NOP completes. -/
def State.endPlain (s : State) (n : Nat) (d : Desc) (ok : Bool) : State :=
  (s.dropDesc n d.queue).completion n d.queue d.index (s.plainStatus n d) 0 (s.sliceRt n).gen 0 d.irq ok

/-- Whether queue `q` of a slice has a job in progress. -/
def State.queueBusy (s : State) (n q : Nat) : Bool := (s.sliceRt n).jobs.any (fun j => j.queue = q)

/-! ### Dispatch (R350, R351) -/

/-- The cells of the pieces of a slice that run. -/
def SliceRt.cells (r : SliceRt) : Nat := 32 * ((r.jobs ++ r.old).map (fun j => j.running.length)).sum

/-- The job of a slice whose next piece waits: the first with pieces left. -/
def SliceRt.waitingJob (r : SliceRt) : Option Job :=
  r.jobs.find? (fun j => !j.readFault && decide (j.issued < j.pieces))

/-- Whether a slice may have a piece dispatched. -/
def State.mayDispatch (s : State) (n : Nat) : Bool :=
  let r := s.sliceRt n
  r.waitingJob.isSome && decide (0 < s.rd F.hstSresStoveWeight 0 n) &&
    decide (r.cells + 32 ≤ s.rd F.hstSresCellQuota 0 n)

/-- The slice with the largest deficit of a list, the lowest of equals. -/
def State.neediest (s : State) (ns : List Nat) : Option Nat :=
  ns.foldl (fun (b : Option Nat) n => match b with
    | none => some n
    | some m => if (s.sliceRt m).deficit < (s.sliceRt n).deficit then some n else some m) none

/-- A round (R351): the deficit of each slice of a list rises by its weight. -/
def State.deficitRound (s : State) (ns : List Nat) : State :=
  forL ns (fun n s => s.modSlice n (fun r =>
    { r with deficit := r.deficit + (s.rd F.hstSresStoveWeight 0 n * 4096 : Nat) })) s

/-- The next piece of the neediest slice goes to Stove `k` of Chimney `c` with the bytes its read returned; a read that
fails, or returns other than what was asked, is a fault of the job. -/
def State.dispatchPiece (s : State) (c k : Nat) (data : Option (List Byte)) : State :=
  let ns := (s.slices.map (·.1)).filter (fun n => s.mayDispatch n)
  if !s.stvIn c k || decide (s.slotsLeft c = 0) || decide (s.freeCells < s.reserveCells + 32) then s
  else
    let s := match s.neediest ns with
      | some n => if (s.sliceRt n).deficit ≤ 0 then s.deficitRound ns else s
      | none => s
    match s.neediest ns with
    | none => s
    | some n =>
      match (s.sliceRt n).waitingJob with
      | none => s
      | some j =>
        let i := j.issued
        let want := j.readBytes i
        let put := fun (s : State) (j' : Job) => s.modSlice n (fun r =>
          { r with jobs := r.jobs.map (fun x => if x.id = j'.id then j' else x) })
        match data with
        | some bytes =>
          if bytes.length ≠ want then put s { j with readFault := true }
          else
            let slots := j.pieceSlots i
            let s := put s { j with issued := i + 1, data := j.data ++ bytes, since := s.tick, told := false, chim := c
                                    running := j.running ++ [(s.tick, c, k)] }
            let s := s.modSlice n (fun r => { r with deficit := r.deficit - (slots : Nat) })
            let s := s.modHearth (fun h => { h with staging := h.staging + 32 })
            let s := s.modChim c (fun r => { r with lookSlots := r.lookSlots + slots })
            let s := (s.count .stv c 5).count .stv c 6 (b2n (i = 0 && decide (1 < j.pieces)))
            (s.count .hst 0 4 want).count .hst 0 (16 + n) want 2
        | none => put s { j with readFault := true }

/-- The staging of pieces that ended is zeroed and freed (R326, R350). -/
def State.endPieces (s : State) (pieces : Nat) : State :=
  (s.modHearth (fun h => { h with staging := h.staging - 32 * pieces })).zeroCells (32 * pieces)

/-- Pieces dispatched before the present tick have left their Stoves; the write of one of the previous generation fails the
gate and is counted (R352, R353). -/
def State.pieceEnds (s : State) : State :=
  forL (s.slices.map (·.1)) (fun n s =>
    let r := s.sliceRt n
    let ended := fun (e : Nat × Nat × Nat) => decide (e.1 < s.tick)
    let stopped := (r.old.map (fun j => (j.running.filter ended).length)).sum
    let gone := (r.jobs.map (fun j => (j.running.filter ended).length)).sum + stopped
    let keep := fun (j : Job) => { j with running := j.running.filter (fun e => !ended e) }
    if gone = 0 then s
    else ((s.modSlice n (fun r => { r with jobs := r.jobs.map keep, old := r.old.map keep })).endPieces gone).count .hst 0 5 stopped) s

/-! ### Generations (R352 to R355) -/

/-- Nothing of the previous generation is outstanding: a slice that was resetting is bound, one that was removing is
unbound (R353). -/
def State.resetDone (s : State) (n : Nat) : State :=
  let r := s.sliceRt n
  if !r.old.isEmpty || decide (r.state ≠ 2 ∧ r.state ≠ 3) then s
  else (s.modSlice n (fun r => { r with state := if r.state = 3 then 0 else 1, result := 0
                                        pasid := if r.state = 3 then 0 else r.pasid })).hstEvent F.hstEvtResetDone n

/-- Work of the previous generation ends: its writes fail the gate (R352). -/
def State.endOld (s : State) (n : Nat) (sel : Job → Bool) : State :=
  let r := s.sliceRt n
  let gone := r.old.filter sel
  let pieces := (gone.map (fun j => j.running.length)).sum
  let s := s.modSlice n (fun r => { r with old := r.old.filter (fun j => !sel j) })
  ((s.count .hst 0 5 pieces).endPieces pieces).resetDone n

/-- The queues of a slice disabled, with heads and tails 0; base and size kept (R353). -/
def State.stopQueues (s : State) (n : Nat) : State :=
  let s := forN 4 (fun q s => ((s.wr (sqFld F.slcSqCfgEnable q) 0 n).wr (sqFld F.slcSqTailTail q) 0 n).wr
    (sqFld F.slcSqHeadHead q) 0 n) s
  (((s.wr F.slcCqCfgEnable 0 n).wr F.slcEqCfgEnable 0 n).wr F.slcCqHeadHead 0 n).wr F.slcEqHeadHead 0 n

/-- The generation of a slice steps (R353). -/
def State.stepSlice (s : State) (n : Nat) (remove : Bool) : State :=
  let r := s.sliceRt n
  let s := (s.count .hst 0 6 r.fetched.length).stopQueues n
  (s.modSlice n (fun r =>
    { r with gen := (r.gen + 1) % 65536, state := if remove then 3 else 2, old := r.old ++ r.jobs, jobs := []
             fetched := [], stepAt := s.tick, ringFault := false, cqTail := 0, eqTail := 0, turn := 0
             waiting := 0 })).resetDone n

/-- An HST_SCMD is refused (R362). -/
def State.sliceRefuse (s : State) (n result : Nat) : State :=
  (s.modSlice n (fun r => { r with result := result })).hstEvent F.hstEvtCmdRejected n

/-- Whether a PASID is bound to another slice (R341). -/
def State.pasidTaken (s : State) (n pasid : Nat) : Bool :=
  s.slices.any (fun e => decide (e.1 ≠ n ∧ e.2.state ≠ 0 ∧ e.2.pasid = pasid))

/-- The result that refuses a slice command; 0 where none does (R341, R354, R357). -/
def State.sliceCheck (s : State) (n op pasid : Nat) : Nat :=
  let r := s.sliceRt n
  match op with
  | 1 => if r.state ≠ 0 then 2 else if s.pasidTaken n pasid then 3 else 0
  | 2 | 3 => if r.state = 0 then 2 else if !r.old.isEmpty then 4 else 0
  | _ => if r.copying.isSome then 5 else 0

/-- An HST_SCMD lands (R362): refused, or accepted for step 7 of its edge. -/
def State.sliceLand (s : State) (n op : Nat) (cyc : Nat) : State :=
  if op = 0 ∨ 5 ≤ op then s
  else
    let pasid := s.rd F.hstSpasidPasid 0 n
    match s.sliceCheck n op pasid with
    | 0 => (s.modSlice n (fun r => { r with result := 1 })).schedule (s.edgeFor cyc) (.sliceCmd n op pasid)
    | c => s.sliceRefuse n c

/-- The buffers of a slice exchanged (R357). -/
def State.switchLog (s : State) (n : Nat) : State :=
  let b := s.on F.hstDlogCtlActive 0 n
  let c := (s.dlogBuf n b, s.rd64 F.hstDlogDstLoDst F.hstDlogDstHiDst 0 n, s.rd F.hstDlogPagesPages 0 n / 8)
  (s.modSlice n (fun r => { r with copying := some c })).wr F.hstDlogCtlActive (b2n (!b)) 0 n

/-- A slice command at step 7 of its edge, checked again. A second RESET or REMOVE of one edge does not step again. Op 5 is
the step of a host reset, which nothing refuses (R355). -/
def State.sliceAct (s : State) (n op pasid : Nat) : State :=
  let r := s.sliceRt n
  if op = 5 then (if r.state = 0 then s else s.stepSlice n true)
  else if (op = 2 ∨ op = 3) ∧ r.stepAt = s.tick ∧ 0 < s.tick then
    if op = 3 ∧ r.state = 2 then s.modSlice n (fun r => { r with state := 3 })
    else if op = 3 ∧ r.state = 1 then s.modSlice n (fun r => { r with state := 0, pasid := 0 })
    else s
  else
    match s.sliceCheck n op pasid with
    | 0 =>
      match op with
      | 1 => s.modSlice n (fun r => { r with state := 1, pasid := pasid, result := 0 })
      | 2 => s.stepSlice n false
      | 3 => s.stepSlice n true
      | _ => s.switchLog n
    | c => s.sliceRefuse n c

/-! ### Completion of a job (R189, R190, R348, R349) -/

/-- A job ends. `tag` is what the tag read returned, `refused` the bytes written before ATS refused a write of the
destination or tag. -/
def State.endJob (s : State) (n : Nat) (j : Job) (tag : Option (List Byte)) (refused : Option Nat) (ok : Bool) : State :=
  let s := s.modSlice n (fun r => { r with jobs := r.jobs.filter (fun x => decide (x.id ≠ j.id)) })
  let s := s.endPieces j.running.length
  let verifies := j.dir && decide (j.mode = 1 ∨ j.mode = 2)
  let zeros := fun (k : Nat) => List.replicate k (0 : Byte)
  let (status, out, newTag, outLen) :=
    if j.readFault || (verifies && tag.isNone) then (10, zeros j.begun, [], 0)
    else if j.mismatch then (9, zeros j.extent, [], 0)
    else j.compute (slice (tag.getD []) 0 16)
  let (status, out, newTag, outLen) :=
    match refused with
    | some k => if status = 0 then (11, zeros (min k out.length), [], 0) else (status, out.take k, [], outLen)
    | none => (status, out, newTag, outLen)
  let s := s.gatedWrite n j.dst out
  let s := s.gatedWrite n j.tagAt newTag
  let s := onlyIf (decide (0 < j.issued ∧ (status = 1 ∨ status = 2 ∨ status = 9))) (fun s => s.count .stv j.chim 7) s
  (s.countJob n status).completion n j.queue j.index status outLen j.gen j.epoch j.irq ok

/-! ### The commands -/

/-- A tail as it is counted, modulo twice the size; none where it is out of range (R343). -/
def tailOf (size head w : Nat) : Option Nat :=
  let t := w % 2 ^ 17 % (2 * size)
  if ringGap size t head ≤ size then some t else none

/-- A write to a slice page (R484): ignored while the slice is unbound. -/
def State.slicePage (s : State) (n : Nat) (f : State → State) : State :=
  s.gate .hst 0 (fun s => if (s.sliceRt n).state = 0 then s else f s)

/-- SQ_DOORBELL (R343). -/
def State.sqDoorbell (s : State) (n q : Nat) (w : Word) : State :=
  match tailOf (s.sqSize n q) (s.rd (sqFld F.slcSqHeadHead q) n) w.toNat with
  | some t => s.wr (sqFld F.slcSqTailTail q) t n
  | none => s.wr F.slcStatCfgRejected 1 n

/-- SQ_DOORBELL (R343). -/
def execSqDoorbell (n : SliceNo) (q : Fin 4) (w : Word) (s : State) : Host.Outcome State Fault Refusal :=
  done (s.slicePage n (fun s => s.sqDoorbell n q w))

/-- CQ_DOORBELL (R343). -/
def execCqDoorbell (n : SliceNo) (w : Word) (s : State) : Host.Outcome State Fault Refusal :=
  done (s.slicePage n (fun s => s.wr F.slcCqHeadHead w.toNat n))

/-- EQ_DOORBELL (R343). -/
def execEqDoorbell (n : SliceNo) (w : Word) (s : State) : Host.Outcome State Fault Refusal :=
  done (s.slicePage n (fun s => s.wr F.slcEqHeadHead w.toNat n))

/-- DESCRIPTOR_FETCH (R345): `descs` is what the one read returns, 64 bytes each. -/
def execDescriptorFetch (n : SliceNo) (descs : List (List Byte)) (s : State) : Host.Outcome State Fault Refusal :=
  done (if !s.mayFetch n then s
  else match s.fetchQueue n with
    | none => s
    | some q =>
      let k := min (min 8 descs.length) (min (s.sqAhead n q) (s.cqFree n))
      let size := s.sqSize n q
      let head := s.rd (sqFld F.slcSqHeadHead q) n
      let new := (descs.take k).zipIdx.map (fun (e : List Byte × Nat) =>
        ({ queue := q, index := (head + e.2) % size, bytes := slice e.1 0 64 } : Desc))
      let s := s.modSlice n (fun r => { r with fetched := r.fetched ++ new, turn := (q + 1) % 4 })
      (s.wr (sqFld F.slcSqHeadHead q) ((head + k) % (2 * size)) n).count .hst 0 1 k)

/-- JOB (R345, R346): the descriptor at the head of queue `q` of a slice. `blob` is what a read of an inline key
returns, `cplOk` whether a completion written at once succeeds. -/
def execJob (n : SliceNo) (q : Fin 4) (blob : Option (List Byte)) (cplOk : Bool) (s : State) :
    Host.Outcome State Fault Refusal :=
  done (match s.headDesc n q with
    | some d =>
      if d.opcode = 2 ∨ d.opcode = 3 ∨ 64 ≤ (s.sliceRt n).jobs.length then s else s.judgeJob n d blob cplOk
    | none => s)

/-- FENCE (R345). -/
def execFence (n : SliceNo) (q : Fin 4) (cplOk : Bool) (s : State) : Host.Outcome State Fault Refusal :=
  done (match s.headDesc n q with
    | some d => if d.opcode = 2 ∧ s.queueBusy n q = false then s.endPlain n d cplOk else s
    | none => s)

/-- NOP (R345). -/
def execNop (n : SliceNo) (q : Fin 4) (cplOk : Bool) (s : State) : Host.Outcome State Fault Refusal :=
  done (match s.headDesc n q with
    | some d => if d.opcode = 3 then s.endPlain n d cplOk else s
    | none => s)

/-- PIECE_DISPATCH (R350, R351): the freest Stove is named; the slice and the piece are the device's choice. -/
def execPieceDispatch (c : ChimneyNo) (k : StoveNo) (data : Option (List Byte)) (s : State) :
    Host.Outcome State Fault Refusal := done (s.dispatchPiece c k data)

/-- JOB_COMPLETE (R189, R348): a job whose pieces are all dispatched, or whose read failed, ends; one of the previous
generation is only dropped. -/
def execJobComplete (n : SliceNo) (id : Nat) (tag : Option (List Byte)) (refused : Option Nat) (cplOk : Bool)
    (s : State) : Host.Outcome State Fault Refusal :=
  done (match (s.sliceRt n).jobs.find? (fun j => j.id = id) with
    | some j => if j.readFault || decide (j.issued = j.pieces) then s.endJob n j tag refused cplOk else s
    | none => if (s.sliceRt n).old.any (fun j => j.id = id) then s.endOld n (fun j => j.id = id) else s)

/-- COALESCE_TIMER (R359). -/
def execCoalesceTimer (n : SliceNo) (s : State) : Host.Outcome State Fault Refusal :=
  let r := s.sliceRt n
  let t := s.rd F.slcCqCfgCoalTicks n
  done (if 0 < t ∧ 0 < r.waiting ∧ r.waitFrom + t ≤ s.tick then
    (s.modSlice n (fun r => { r with waiting := 0 })).raiseVector (s.rd F.hstSvecCqVec 0 n)
  else s)

/-- JOB_WAIT_ALARM (R358): once for each wait of more than 64 ticks. -/
def execJobWaitAlarm (n : SliceNo) (id : Nat) (s : State) : Host.Outcome State Fault Refusal :=
  done (match (s.sliceRt n).jobs.find? (fun j => j.id = id) with
    | some j =>
      if !j.readFault && decide (j.issued < j.pieces ∧ j.since + 64 < s.tick) && !j.told then
        (s.modSlice n (fun r => { r with jobs := r.jobs.map (fun (x : Job) => if x.id = id then { x with told := true } else x) })).ringEvent
          n 4 (j.index + 65536 * j.queue)
      else s
    | none => s)

/-- A slice command written to HST_SCMD for the slice of HST_SSEL (R362). -/
def State.sliceCommand (s : State) (op : Nat) (cyc : Cyc) : State :=
  (s.at cyc).gate .hst 0 (fun s => s.sliceLand (s.rd F.hstSselSlice) op cyc)

/-- BIND (R341). -/
def execBind (cyc : Cyc) (s : State) : Host.Outcome State Fault Refusal := done (s.sliceCommand 1 cyc)

/-- SLICE_RESET (R353, R354). -/
def execSliceReset (cyc : Cyc) (s : State) : Host.Outcome State Fault Refusal := done (s.sliceCommand 2 cyc)

/-- SLICE_REMOVE (R353, R354). -/
def execSliceRemove (cyc : Cyc) (s : State) : Host.Outcome State Fault Refusal := done (s.sliceCommand 3 cyc)

/-- SLICE_RESET_DONE (R353): the last of the previous generation's work returns. -/
def execSliceResetDone (n : SliceNo) (s : State) : Host.Outcome State Fault Refusal :=
  done (if (s.sliceRt n).old.isEmpty then s else s.endOld n (fun _ => true))

/-- SLICE_RESET_TIMEOUT (R353): the work left keeps its count, and its writes still fail the gate. -/
def execSliceResetTimeout (n : SliceNo) (s : State) : Host.Outcome State Fault Refusal :=
  let r := s.sliceRt n
  done (if (r.state = 2 ∨ r.state = 3) ∧ r.old.isEmpty = false ∧ r.stepAt + 64 ≤ s.tick then
    (s.modSlice n (fun r => { r with state := if r.state = 3 then 0 else 1, result := 0
                                     pasid := if r.state = 3 then 0 else r.pasid })).hstEvent F.hstEvtResetTimeout n
  else s)

/-- DIRTY_READ (R357). -/
def execDirtyRead (cyc : Cyc) (s : State) : Host.Outcome State Fault Refusal := done (s.sliceCommand 4 cyc)

/-- DIRTY_COPY_DONE (R357). -/
def execDirtyCopyDone (n : SliceNo) (s : State) : Host.Outcome State Fault Refusal :=
  done (match (s.sliceRt n).copying with
    | some (src, dst, bytes) =>
      let s := ((s.emit (.hostCopy src dst bytes)).emit (.hostZero src bytes)).modSlice n
        (fun r => { r with copying := none, result := 0 })
      s.hstEvent F.hstEvtDirtyDone n
    | none => s)

end Sys2Proof.Machine
end

