-- ==== Sys2Proof/Machine/Modes.lean ====
section
/-! DEFINITION. Operating modes, resets, the supply monitors, boot and the vault quench (R36 to R57). -/

namespace Sys2Proof.Machine

open Sys2Proof

/-- The state with the mode, reset and supply logic changed by `f`. -/
def State.modPwr (s : State) (f : Power → Power) : State := { s with pwr := f s.pwr }

/-- The state with the tamper logic changed by `f`. -/
def State.modTamper (s : State) (f : Tamper → Tamper) : State := { s with tamper := f s.tamper }

/-- The two words of a tamper log entry (R431). -/
def logEntry (stamp src acted : Nat) (deferred : Bool) (mode : Nat) : Word × Word :=
  (BitVec.ofNat 32 (stamp / 65536),
   BitVec.ofNat 32 (stamp % 65536 + src * 2 ^ 16 + acted * 2 ^ 21 + b2n deferred * 2 ^ 27 + mode * 2 ^ 28))

/-- An entry of the tamper log, or its loss (R431). -/
def State.logTamper (s : State) (e : Word × Word) : State :=
  if s.tamper.log.length < 512 then
    let s := (s.modTamper (fun t => { t with log := t.log ++ [e] })).count .tmp 0 3
    s.wr F.tmpLogCntEntries s.tamper.log.length
  else (s.bumpReg F.tmpLogCntOverflow 1).count .tmp 0 4

/-! ### What a reset leaves (R48, R493) -/

/-- The bits of a register that a cold or warm reset keeps: EMB fields, STK fields through a warm reset, and the OTP
that KVT_OTP shows. -/
def keptMask (k : RegKey) (warm : Bool) : Word :=
  let otp : Nat := if k.page = .kvt ∧ k.off = 0x148 then 0x1FF else 0
  match regDefOf k.page k.off with
  | some d => BitVec.ofNat 32 (d.emb ||| (if warm then d.stk else 0) ||| otp)
  | none => 0

/-- Every listed register's word changed by `f`, in canonical form. -/
def mapRegs (f : RegKey → Word → Word) (m : List (RegKey × Word)) : List (RegKey × Word) :=
  (m.map (fun e => (e.1, f e.1 e.2))).filter (fun e => decide (e.2 ≠ resetWord e.1))

/-- The registers that a reset leaves. -/
def keptRegs (warm : Bool) (m : List (RegKey × Word)) : List (RegKey × Word) :=
  mapRegs (fun k w => mergeF (keptMask k warm) (resetWord k) w) m

/-- A slot that a reset leaves (R301): an expiring one is zeroed; nothing is usable before KVT is ready. -/
def Slot.afterReset (x : Slot) : Slot := if x.expires then {} else { x with usable := false }

/-- The vault that a reset leaves: Ember and OTP contents, and the certificate in MRAM. -/
def Vault.afterReset (v : Vault) : Vault :=
  { slots := (v.slots.map (fun e => (e.1, e.2.afterReset))).filter (fun e => decide (e.2 ≠ {}))
    kint := v.kint, fwKeyHash := v.fwKeyHash, cert := v.cert }

/-- The tamper logic that a reset leaves: what lies in the Ember domain. -/
def Tamper.afterReset (t : Tamper) : Tamper := { t with test := none, haltDue := none, lineHold := false, lateIrq := false, lateLog := [] }

/-- Everything that a cold or warm reset clears (R48): the Ember domain, MRAM and OTP stay, and through a warm reset
the STK fields and the tick number. -/
def State.cleared (s : State) (warm : Bool) : State :=
  { pending := s.pending
    tick := if warm then s.tick else 0
    cycle := if warm then s.cycle else 0
    regs := keptRegs warm s.regs
    rep := { nv := s.rep.nv }
    pwr := { emberLost := s.pwr.emberLost, warm := warm, warmFrom := s.tick }
    vault := s.vault.afterReset
    tamper := s.tamper.afterReset
    pair := { claimAt := if warm then s.tick else 0 }
    fresh := s.fresh
    out := s.out }

/-- DEV_RESET_CAUSE after a reset (R51). -/
def State.setCause (s : State) (kind trigger : Nat) : State :=
  (s.wr F.devResetCauseKind kind).wr F.devResetCauseTrigger trigger

/-- The monitors' bits of PWR_STAT.rail_ok, which track the hardware. -/
def State.setRails (s : State) (v : Nat) : State := s.wr F.pwrStatRailOk v

/-- A loss of the Ember domain shows in DEV_RESET_CAUSE (R48, R51). -/
def State.emberNoted (s : State) : State :=
  if s.pwr.emberLost then
    ((s.wr F.devResetCauseKind 3).wr F.devResetCauseEmberLost 1).modPwr (fun p => { p with emberLost := false })
  else s

/-- A cold reset (R48): the device is in RESET. -/
def State.coldReset (s : State) (trigger : Nat) : State :=
  let rails := s.rd F.pwrStatRailOk
  (((s.otpCut.cleared false).setRails rails).setCause 0 trigger).emberNoted

/-- A warm reset (R48). -/
def State.warmReset (s : State) (trigger : Nat) : State :=
  let rails := s.rd F.pwrStatRailOk
  ((s.otpCut.cleared true).setRails rails).setCause 1 trigger

/-- A host reset (R49, R355): HST, slice and MSI-X state returns to its reset values, and every bound slice steps its
generation at the next edge as a REMOVE does. -/
def State.hostReset (s : State) (trigger : Nat) : State :=
  let host := fun (k : RegKey) => decide (k.page = .hst ∨ k.page = .slc)
  let isHost := fun (e : Sched) => match e.act with
    | .copy k _ => host k
    | .sliceCmd _ _ _ => true
    | _ => false
  let bound := s.slices.filterMap (fun e => if e.2.state ≠ 0 then some e.1 else none)
  let s := { s with
    regs := s.regs.filter (fun e => !host e.1)
    sched := s.sched.filter (fun e => !isHost e)
    msix := {}
    rep := { s.rep with evt := s.rep.evt.filter (fun e => !host e.1), ctrs := s.rep.ctrs.filter (fun e => !host e.1) } }
  let s := forL bound (fun n s => s.schedule (s.tick + 1) (.sliceCmd n 5 0)) s
  ((s.wr (F.pageReady .hst) 0).wr (F.pageCause .hst) 2).setCause 2 trigger

/-! ### Modes (R36 to R40) -/

/-- DEV_BOOT reports a verified image (R57). -/
def State.bootOk (s : State) : Bool := decide (s.rd F.devBootResult = 1 ∨ s.rd F.devBootResult = 2)

/-- In KINDLING, while a deferred response holds for the officer, the device goes on to OFFICER (R37, R434). -/
def State.holdCheck (s : State) : State :=
  if s.mode = 2 ∧ s.ready .tmp = true ∧ s.rd F.tmpDeferDeferred ≠ 0 ∧ s.on F.tmpCfgDeferHold = true then
    (s.setMode 3).modPwr (fun p => { p with held := true })
  else s

/-- Whether a DEV_MODE_REQ target names a change that the table of R37 allows now (R38). -/
def State.modeAllowed (s : State) (target : Nat) : Bool :=
  match target with
  | 1 => decide (s.mode = 2) && s.bootOk && s.ready .kvt && s.ready .tmp
  | 2 => decide (s.mode = 2)
  | 3 => decide (s.mode = 2 ∨ s.mode = 3 ∨ s.mode = 5 ∨ s.mode = 6)
  | 4 => decide (s.mode = 8) || (decide (s.mode = 3) && !s.pwr.held && decide (s.rd F.tmpDeferDeferred = 0))
  | _ => false

/-- The register of mode requests. -/
def modeReqKey : RegKey := keyOf F.devModeReqTarget

/-- A DEV_MODE_REQ write lands (R37, R38). -/
def State.landModeReq (s : State) (target : Nat) (cyc : Nat) : State :=
  if target = 0 then s.putCopy modeReqKey 0 cyc
  else if s.modeAllowed target then s.putCopy modeReqKey (BitVec.ofNat 32 target) cyc
  else s.wr F.devModeReqRejected 1

/-- A mode request through DEV_MODE_REQ. -/
def State.modeRequest (s : State) (target : Nat) (cyc : Cyc) : State :=
  (s.at cyc).gate .dev 0 (fun s => s.landModeReq target cyc)

/-! ### The vault quench (R37, R40, R433) -/

/-- Every key of the vault zeroed (R295): slots, Kint, stocks and the expanded identity key. -/
def State.zeroVault (s : State) : State :=
  { s with vault := { s.vault with slots := [], kint := [], expanded := false, reserving := [] } }

/-- QUENCHING entered (R40): every keyed store but the association table is zeroed, and the table is quenched at step 3
of the first edge. In COLD-GUARD only the vault is zeroed (R433); in RESET nothing happens (R37). -/
def State.quench (s : State) : State :=
  if s.mode = 0 then s.zeroVault
  else if s.mode = 1 then s
  else
    let s := if s.mode = 9 then s else s.setMode 9
    let s := match s.vault.cmd with
      | some c => s.vaultEnd c 13
      | none => s
    let s := forL s.vault.officerWaits (fun c s => s.vaultEnd c 13)
      { s with vault := { s.vault with officerWaits := [] } }
    let s := { s.zeroVault with
      hearth := { nextId := s.hearth.nextId }
      kindle := {}
      seals := []
      regions := []
      reinit := none
      pwr := { s.pwr with quenched := true } }
    let s := forN 16 (fun r s => s.wr F.cxmRcfgEnable 0 0 r) s
    let s := forN 64 (fun e s => s.setWord (keyOf (F.cxmPoison0Valid.at e 8)) 0) s
    (s.wr F.cxmCmdStatBusy 0).schedule (s.tick + 1) .asnQuench

/-! ### The supply monitors (R41, R42, R45, R46) -/

/-- A flush of the event recorder ends after `n` of its records (R46, R464, R465): those it did not write are lost to
MRAM, and a flush that waited starts, unless NV writes are inhibited. -/
def State.endFlush (s : State) (n : Nat) : State :=
  match s.rep.flushing with
  | none => s
  | some top =>
    let newest := (s.rep.nv.map (·.seq)).foldl max 0
    let todo := s.rep.ring.filter (fun r => decide (r.seq ≤ top) && (s.rep.nv.isEmpty || decide (newest < r.seq)))
    let done := todo.take n
    let cut := todo.length - done.length
    let nv := s.rep.nv ++ done
    let next := s.rep.flushWait && !s.nvInhibited
    let s := { s with rep := { s.rep with nv := nv.drop (nv.length - 65536), flushing := none, flushWait := false } }
    let s := (s.count .evr 0 8 done.length).event F.evrEvtFlushDone
    let s := if cut = 0 then s
      else ((s.bumpReg F.evrLost2NvLost cut).count .evr 0 9 cut).event F.evrEvtNvCut
    if next then s.startFlush else s

/-- The modes that BROWNOUT may be entered from (R37). -/
def mayBrownout (m : Nat) : Bool := decide (2 ≤ m ∧ m ≤ 8)

/-- VDD_CORE or VDD_IO below its inhibit threshold (R37, R42): NV writes stop, and BROWNOUT is entered where the table
allows it. `flushed` records of a running flush were whole in MRAM by then. -/
def State.belowInhibit (s : State) (flushed : Nat) : State :=
  let s := (s.wr F.pwrStatNvInhibit 1).modPwr (fun p => { p with releasedTicks := 0 })
  let s := s.endFlush flushed
  if mayBrownout s.mode then (s.setMode 11).bumpReg F.pwrEvtBrownouts 1 else s

/-- What the rails do up to an edge (R37). -/
def State.railsEdge (s : State) (released : Bool) : State :=
  let s := s.modPwr (fun p => { p with releasedTicks := if released then p.releasedTicks + 1 else 0 })
  onlyIf (released && decide (s.mode ≠ 11)) (fun s => s.wr F.pwrStatNvInhibit 0) s

/-! ### Boot (R55, R56) -/

/-- The failure of an image slot as DEV_BOOT codes it; 0 when it verifies (R55, R57): its key against the hash in OTP, the
signature over the digest, with an empty context (DESIGN CHOICE, log entry 52), and the version. -/
def imageFailure (i : SlotImage) (keyHash : List Byte) (rollback : Nat) : Nat :=
  if !i.readable then 6
  else if Config.sha3 i.key ≠ keyHash then 4
  else if !Config.dsaVerify i.key (Config.sha3 i.image) [] i.signature then 3
  else if i.version.val < 256 * rollback then 5
  else 0

/-- A verified image runs: its version, and the microcode of every Stove, whose bring-up test follows (R55, R173,
R199). -/
def State.runImage (s : State) (result : Nat) (i : SlotImage) : State :=
  let s := (s.wr F.devBootResult result).wr F.devBootVersion i.version.val
  let s := s.modPwr (fun p => { p with fwKey := i.key, spiReleased := false })
  forN 8 (fun c s =>
    let s := (s.wr F.stvUcodeVersion i.microcode.val c).wr F.stvUcodeWords i.words.length c
    (s.modChim c (fun r => { r with ucode := i.words })).stvBringUp c) s

/-- The image slot that runs, A before B, with its result code; none where neither verifies (R55). -/
def State.bootChoice (s : State) (a b : SlotImage) : Option (Nat × SlotImage) :=
  let n := s.rd F.kvtOtpRollback
  if imageFailure a s.vault.fwKeyHash n = 0 then some (1, a)
  else if imageFailure b s.vault.fwKeyHash n = 0 then some (2, b)
  else none

/-! ### The commands -/

/-- MODE_REQ_RUN (R37, R401). -/
def execModeReqRun (cyc : Cyc) (s : State) : Host.Outcome State Fault Refusal := done (s.modeRequest 1 cyc)

/-- MODE_REQ_OFFICER (R37). -/
def execModeReqOfficer (cyc : Cyc) (s : State) : Host.Outcome State Fault Refusal := done (s.modeRequest 2 cyc)

/-- MODE_REQ_SELF_TEST (R37). -/
def execModeReqSelfTest (cyc : Cyc) (s : State) : Host.Outcome State Fault Refusal := done (s.modeRequest 3 cyc)

/-- MODE_REQ_KINDLING (R37). -/
def execModeReqKindling (cyc : Cyc) (s : State) : Host.Outcome State Fault Refusal := done (s.modeRequest 4 cyc)

/-- SELF_TEST_COMPLETE (R37). -/
def execSelfTestComplete (s : State) : Host.Outcome State Fault Refusal :=
  done (if s.mode = 8 then (s.setMode 2).holdCheck else s)

/-- WARM_RESET (R48): DEV_RESET with warm = 1 and a guard byte, or the reset of a tamper halt at its edge (R429). -/
def execWarmReset (cause : WarmCause) (cyc : Cyc) (s : State) : Host.Outcome State Fault Refusal :=
  done (match cause with
    | .register guard => (s.at cyc).gate .dev 0 (fun s => if guard = 0x5A then s.warmReset 3 else s)
    | .tamper =>
      if s.tamper.haltDue = some false ∧ s.on F.tmpCfgHaltReset = true ∧ s.mode ≠ 0 ∧ s.mode ≠ 1 then s.warmReset 4 else s)

/-- HOST_RESET (R48, R49): not before reset is released, where PERST_N belongs to the cold reset (R44). -/
def execHostReset (cause : HostCause) (cyc : Cyc) (s : State) : Host.Outcome State Fault Refusal :=
  let s := s.at cyc
  done (if s.mode = 0 ∨ s.mode = 1 then s
  else match cause with
    | .flr => s.hostReset 5
    | .perst => s.hostReset 6
    | .hot => s.hostReset 7
    | .register guard => s.gate .dev 0 (fun s => if guard = 0x5A then s.hostReset 3 else s))

/-- Main power fails during QUENCHING (R40): the vault quench ends on the cell, and the tamper log tells it. Which source
the entry names is not stated, so it is a free value. -/
def State.quenchCut (s : State) : State :=
  if s.mode = 9 then (s.burn).logTamper (logEntry s.tamper.brtc (s.free 5).toNat 16 false 9) else s

/-- COLD_RESET (R37, R48). -/
def execColdReset (cause : ColdCause) (s : State) : Host.Outcome State Fault Refusal :=
  done (if s.mode = 0 then s
  else match cause with
    | .powerUp => s.coldReset 0
    | .resetN => s.coldReset 1
    | .rail i => (s.quenchCut.coldReset 2).wr F.pwrStatRailOk (clrBit (s.rd F.pwrStatRailOk) i.val))

/-- Whether the conditions of R44 for the release of a reset all hold, and TEST_EN does not hold the device in RESET
(R496). -/
def State.mayRelease (s : State) (r : ReleaseIn) : Bool :=
  decide (s.mode = 1 ∧ r.rails = 31) && r.refStable && r.resetN && r.perstN && !r.testEn &&
    (!s.pwr.warm || decide (s.pwr.warmFrom + 125 ≤ s.tick))

/-- RESET_RELEASE (R44): the device enters KINDLING. With `esOk` the entropy source has passed its start-up tests (R194),
and seeds the device's DRBG instance; `side` is the SIDE strap, which is sampled (R496). -/
def execResetRelease (r : ReleaseIn) (esOk side : Bool) (s : State) : Host.Outcome State Fault Refusal :=
  done (if s.mayRelease r then
    let prev := s.rd F.devModePrevMode
    let s := (s.emberNoted).setRails (r.rails.toNat + 32 * b2n r.vbatOk)
    let s := ((s.setMode 2).wr F.devModePrevMode (if prev = 0 then 0 else 1)).wr F.kvtDrbgEsOk (b2n esOk)
    let s := onlyIf esOk State.seedDevice (s.wr F.fluStatSide (b2n side))
    { s with pair := { s.pair with claimAt := s.tick, claimSeen := false } }
  else s)

/-- SRAM_ZEROING_DONE (R50). -/
def execSramZeroingDone (s : State) : Host.Outcome State Fault Refusal :=
  done (if s.mode = 0 then s else s.modPwr (fun p => { p with sramZeroed := true }))

/-- BOOT_COMPLETE (R55 to R57): slot A, else slot B; for a failure, the code of slot B, and the flash pins are let go. -/
def execBootComplete (a b : SlotImage) (s : State) : Host.Outcome State Fault Refusal :=
  done (if s.mode = 0 ∨ s.mode = 1 ∨ s.rd F.devBootResult ≠ 0 then s
  else match s.bootChoice a b with
    | some (result, i) => s.runImage result i
    | none => (s.wr F.devBootResult (imageFailure b s.vault.fwKeyHash (s.rd F.kvtOtpRollback))).modPwr
        (fun p => { p with spiReleased := true }))

/-- DEV_BOOT_CTL.retry (R56, R57): ignored unless the result is 3 to 6. -/
def State.bootRetry (s : State) : State :=
  if 3 ≤ s.rd F.devBootResult ∧ s.rd F.devBootResult ≤ 6 then
    (s.wr F.devBootResult 0).modPwr (fun p => { p with spiReleased := false })
  else s

/-- BOOT_RETRY (R56, R57). -/
def execBootRetry (cyc : Cyc) (s : State) : Host.Outcome State Fault Refusal :=
  done ((s.at cyc).gate .dev 0 State.bootRetry)

/-- RAIL_BELOW_INHIBIT (R37, R42). -/
def execRailBelowInhibit (flushed : Nat) (s : State) : Host.Outcome State Fault Refusal :=
  done (if s.mode = 0 then s else s.belowInhibit flushed)

/-- BROWNOUT_EXIT (R37). -/
def execBrownoutExit (s : State) : Host.Outcome State Fault Refusal :=
  done (if s.mode = 11 ∧ 16 ≤ s.pwr.releasedTicks then
    ((s.wr F.pwrStatNvInhibit 0).setMode (s.rd F.devModePrevMode)).holdCheck
  else s)

/-- COLD_GUARD_ENTRY (R37): main power is off, and the Ember domain runs on the cell. -/
def execColdGuardEntry (s : State) : Host.Outcome State Fault Refusal :=
  done (if s.mode = 1 then (s.setRails 32).setMode 0 else s)

/-- RAILS_UP (R37, R48): main power returns, which is a cold reset; prev_mode reads 0 (R57). `rtc` crystal cycles have
passed on the cell (R432). -/
def execRailsUp (rtc : Nat) (s : State) : Host.Outcome State Fault Refusal :=
  done (if s.mode = 0 then
    let s := { s with tamper := { s.tamper with brtc := (s.tamper.brtc + 2 * rtc) % 2 ^ 48 } }
    ((s.coldReset 0).wr F.devModePrevMode 0).setRails 63
  else s)

/-- The Ember domain loses its supply (R48): its fields, the vault beneath it and the tamper logic are gone. -/
def State.loseEmber (s : State) : State :=
  { s with
    regs := mapRegs (fun k w => mergeF (match regDefOf k.page k.off with
      | some d => BitVec.ofNat 32 d.emb
      | none => 0) w (resetWord k)) s.regs
    vault := { fwKeyHash := s.vault.fwKeyHash, cert := s.vault.cert }
    tamper := {}
    pwr := { s.pwr with emberLost := true } }

/-- Main power is off (R37, R48): in COLD-GUARD, and in a RESET that VDD_CORE has fallen in. -/
def State.powerOff (s : State) : Bool := decide (s.mode = 0) || (decide (s.mode = 1) && !bit (s.rd F.pwrStatRailOk) 0)

/-- EMBER_LOSS (R48): the cell fails while main power is off. -/
def execEmberLoss (s : State) : Host.Outcome State Fault Refusal :=
  done (if s.powerOff then s.loseEmber else s)

/-- POWER_FAIL_WARNING (R45, R58): PFW_N falls. -/
def execPowerFailWarning (s : State) : Host.Outcome State Fault Refusal :=
  done (if s.mode = 0 ∨ s.mode = 1 then s
  else
    let s := ((s.wr F.pwrStatPfw 1).bumpReg F.pwrEvtPfwEvents 1).startFlush
    s.modPwr (fun p => { p with shedDue := p.shedDue || s.on F.pwrPfwCtlShed }))

/-- QUENCH (R37, R40). A quench of the officer's button or of a tamper response acts through the windows of R428; here
its response acts. -/
def execQuench (cause : QuenchCause) (cyc : Cyc) (s : State) : Host.Outcome State Fault Refusal :=
  let s := s.at cyc
  done (match cause with
    | .register guard => s.gate .dev 0 (fun s => if guard = 0xC3 then s.quench else s)
    | _ => s.quench)

/-- QUENCH_SWEEP_DONE (R168). -/
def execQuenchSweepDone (s : State) : Host.Outcome State Fault Refusal :=
  done (if s.pwr.sweepFrom.isSome then s.sweepDone else s)

/-- QUENCH_COMPLETE (R40): the first edge after the last store is zero. -/
def execQuenchComplete (s : State) : Host.Outcome State Fault Refusal :=
  let due := s.sched.any (fun e => decide (e.act = .asnQuench))
  done (if s.mode = 9 ∧ s.pwr.quenched = true ∧ s.pwr.sweepFrom = none ∧ due = false then
    (s.setMode 10).modPwr (fun p => { p with quenched := false })
  else s)

end Sys2Proof.Machine
end

