-- ==== Sys2Proof/Machine/Chassis.lean ====
section
/-! DEFINITION. Tamper sources, responses and evidence (R425 to R436), the Officer Port (R437 to R440), the panel LED
chain (R442) and the module cages (R444 to R447). -/

namespace Sys2Proof.Machine

open Sys2Proof

/-! ### Sources and windows (R425 to R428) -/

/-- Whether a source is armed (R425). -/
def State.srcArmed (s : State) (src : Nat) : Bool :=
  if 8 ≤ src ∧ src ≤ 15 then bit (s.rd F.tmpMeshMeshEn) (src - 8)
  else if 16 ≤ src ∧ src ≤ 19 then bit (s.rd F.tmpLidLidEn) (src - 16)
  else true

/-- Whether a source is watched on the cell (R425, R426). -/
def onCell (src : Nat) : Bool := decide (src = 0 ∨ src = 1 ∨ src = 4 ∨ src = 5 ∨ (8 ≤ src ∧ src ≤ 20))

/-- Whether a source is environmental (R425). -/
def environmental (src : Nat) : Bool := decide (src ≤ 7)

/-- A source's condition is met (R425, R428, R435): it fires into the present window, unless it is not armed, has not
re-armed, or is under test. -/
def State.tamperFire (s : State) (src : Nat) : State :=
  let t := s.tamper
  let s := s.modTamper (fun t => { t with active := setBit t.active src })
  if !s.srcArmed src || (decide (s.mode = 0) && !onCell src) then s
  else if t.test.any (fun e => decide (e.1 = src)) then s.wrEvt F.tmpTestSeenSeen (setBit (s.evt F.tmpTestSeenSeen) src)
  else if t.asserted.any (fun e => decide (e.1 = src)) then
    s.modTamper (fun t => { t with asserted := t.asserted.map (fun e => if e.1 = src then (src, none) else e) })
  else
    let s := (s.count .tmp 0 1).wrEvt F.tmpEvtFired (setBit (s.evt F.tmpEvtFired) src)
    s.modTamper (fun t =>
      { t with asserted := t.asserted ++ [(src, none)]
               winAt := if t.window.isEmpty then t.brtc else t.winAt
               winMode := if t.window.isEmpty then s.mode else t.winMode
               window := t.window ++ [src] })

/-- What the monitors show (R425): the conditions present, those of the temperature after four samples. A source is
re-armed once its condition has been clear for 1 ms, 66 subseconds of BRTC (DEDUCED, log entry 63); `sub` have passed since
the last sight. -/
def State.tamperEdge (s : State) (pins sub : Nat) : State :=
  let now := pins / 4 * 4 + b2n (decide (4 ≤ s.tamper.hot)) + 2 * b2n (decide (4 ≤ s.tamper.cold))
  s.modTamper (fun t =>
    { t with active := now
             asserted := (t.asserted.map (fun e =>
               (e.1, if bit now e.1 then none else some (match e.2 with
                 | some c => c + sub
                 | none => 0)))).filter (fun e =>
                 match e.2 with
                 | some c => decide (c < 66)
                 | none => true) })

/-- A sample of the die temperature on main power, one a tick (R425): four in a row beyond a limit fire its source. -/
def State.tempEdge (s : State) (now : Byte) : State :=
  let high := BitVec.ofNat 8 (s.rd F.tmpTempHigh)
  let low := BitVec.ofNat 8 (s.rd F.tmpTempLow)
  let s := (s.wr F.tmpTempNow now.toNat).modTamper (fun t =>
    { t with hot := if high.slt now then t.hot + 1 else 0, cold := if now.slt low then t.cold + 1 else 0 })
  let s := onlyIf (decide (4 ≤ s.tamper.hot)) (fun s => s.tamperFire 0) s
  onlyIf (decide (4 ≤ s.tamper.cold)) (fun s => s.tamperFire 1) s

/-- The response bitmap of a source (R427): bit 4 of source 20 reads 1. -/
def State.tmpResp (s : State) (src : Nat) : Nat :=
  let r := s.rd (F.tmpRespResp.at src)
  if src = 20 then setBit r 4 else r

/-- The evidence of a source (R430, R431). -/
def State.evidence (s : State) (src : Nat) (e : Word × Word) : State :=
  if environmental src then s.wr F.tmpFlagsEnv (setBit (s.rd F.tmpFlagsEnv) src) else s.logTamper e

/-- The record of a source (R427, R459). -/
def State.tamperRecord (s : State) (src : Nat) (e : Word × Word) : State :=
  s.raise { addr := Page.tmp.addr 0, code := 0x0900 + src, sev := 6, body := [e.1, e.2] }

/-! ### The Officer Port's lock (R440) -/

/-- The state with the Officer Port changed by `f`. -/
def State.modOfc (s : State) (f : Officer → Officer) : State := { s with officer := f s.officer }

/-- The session ends and its key is zeroed (R438). -/
def State.endSession (s : State) : State :=
  (s.wr F.ofcStatSession 0).modOfc (fun o =>
    { o with key := [], cert := [], challenged := none, response := none, dk := [], nonce := [] })

/-- BRTC in whole seconds. -/
def State.seconds (s : State) : Nat := s.tamper.brtc / 65536 % 2 ^ 32

/-- The Officer Port is locked (R440). -/
def State.ofcLocked (s : State) : Bool := decide (s.seconds < s.rd F.ofcLockLockUntil)

/-- The lock officer response (R440): a lock that ends later replaces the one in force. -/
def State.lockOfficer (s : State) : State :=
  let till := (s.seconds + max 1 (s.rd F.ofcLimitLockS)) % 2 ^ 32
  let s := s.endSession
  if s.ofcLocked && decide (till ≤ s.rd F.ofcLockLockUntil) then s else s.wr F.ofcLockLockUntil till

/-! ### Responses (R427 to R429, R433, R434) -/

/-- The responses of a union act in the order of R428, all but the log. -/
def State.respond (s : State) (u : Nat) : State :=
  let s := onlyIf (bit u 4) (fun s => s.quench) s
  let s := onlyIf (bit u 3) (fun s => s.schedule (s.tick + 1) .asnQuench) s
  let s := onlyIf (bit u 2) (fun s => s.modTamper (fun t =>
    { t with haltDue := some (bit u 4 || t.haltDue.getD false) })) s
  let s := onlyIf (bit u 5) (fun s => s.lockOfficer) s
  onlyIf (bit u 1) (fun s => s.irq .tmp 0) s

/-- The end of a window (R428): its union acts once, and its sources leave their evidence in source-number order. On
the cell, only quench vault acts; the rest is deferred (R433). -/
def State.windowEnd (s : State) : State :=
  let t := s.tamper
  let srcs := (List.range 23).filter (fun i => t.window.contains i)
  let u := srcs.foldl (fun u i => u ||| s.tmpResp i) 0
  let cell := decide (s.mode = 0)
  let acted := if cell then u &&& 0x10 else u
  let rest := if cell then u &&& 0x2F else 0
  let entry := fun (i : Nat) => logEntry t.winAt i acted (decide (rest ≠ 0)) t.winMode
  let s := s.modTamper (fun t => { t with window := [] })
  let s := forL srcs (fun i s => s.evidence i (entry i)) s
  if cell then
    let s := onlyIf (bit u 4) (fun s => s.zeroVault) s
    let s := s.wr F.tmpDeferDeferred (s.rd F.tmpDeferDeferred ||| rest)
    onlyIf (bit rest 0) (fun s => s.modTamper (fun t =>
      { t with lateLog := t.lateLog ++ srcs.map (fun i => (i, (entry i).1, (entry i).2)) })) s
  else
    let s := s.respond u
    onlyIf (bit u 0) (fun s => forL srcs (fun i s => s.tamperRecord i (entry i)) s) s

/-- A halt acts at the first edge after its response (R429). -/
def State.haltEdge (s : State) : State :=
  match s.tamper.haltDue with
  | none => s
  | some quench =>
    if s.on F.tmpCfgHaltReset && !quench && decide (s.mode ≠ 0 ∧ s.mode ≠ 1) then s.warmReset 4
    else ((s.modTamper (fun t => { t with haltDue := none })).modPwr (fun p => { p with halted := true })).wr F.tmpStatHalted 1

/-- The deferred union acts as TMP becomes ready (R434): the traffic keys are gone, the halt holds the line lanes, the
officer's lock starts now, and interrupt and log wait. -/
def State.applyDeferred (s : State) : State :=
  let d := s.rd F.tmpDeferDeferred
  let n := ((List.range 6).filter (fun i => bit d i)).length
  let s := s.count .tmp 0 2 n
  let s := onlyIf (bit d 2) (fun s => s.modTamper (fun t => { t with lineHold := true })) s
  let s := onlyIf (bit d 5) (fun s => s.lockOfficer) s
  onlyIf (bit d 1) (fun s => s.modTamper (fun t => { t with lateIrq := true })) s

/-- Deferred interrupt and records act once TMP, EVR and HST are ready (R434). -/
def State.lateResponses (s : State) : State :=
  if s.ready .tmp && s.ready .evr && s.ready .hst then
    let l := s.tamper.lateLog
    let i := s.tamper.lateIrq
    let s := s.modTamper (fun t => { t with lateLog := [], lateIrq := false })
    let s := onlyIf i (fun s => s.irq .tmp 0) s
    forL l (fun e s => s.tamperRecord e.1 e.2) s
  else s

/-! ### The Officer Port (R437 to R440) -/

/-- The bytes of a token's message that its CRC covers (R437). -/
def officerCovered (type : Nat) (m : OfcMsg) : List Byte :=
  officerHeader type m.isSealed m.body.length m.seq.val ++ m.body

/-- A token's message has the CRC-32 of its bytes, and no more than 8,192 of them (R437; the longer ones discarded as
those with a bad CRC are, DESIGN CHOICE, log entry 62). -/
def officerCrcOk (type : Nat) (m : OfcMsg) : Bool :=
  decide (m.crc = fcsOf (officerCovered type m)) && decide (m.body.length ≤ 8180)

/-- A message of the token (R437): one that fails its CRC is discarded and counted; one out of order, or of a sealed type
and not sealed as it should be, is discarded (DESIGN CHOICE, log entry 62); types 0x10 to 0x17 are refused with status 2
outside a session. -/
def State.officerRecv (s : State) (type : Nat) (m : OfcMsg) (f : List Byte → State → State) : State :=
  if !s.ready .ofc || !s.on F.ofcStatPresent then s
  else
    let s := s.count .ofc 0 3
    if !officerCrcOk type m then s.count .ofc 0 4
    else if m.seq.val ≠ s.officer.seqIn then s
    else
      let s := s.modOfc (fun o => { o with seqIn := o.seqIn + 1, lastMsg := s.tick })
      let inside := decide (0x10 ≤ type ∧ type ≤ 0x17)
      if inside && !s.on F.ofcStatSession then s.officerResult 2
      else if inside && decide (type ≠ 0x12) then
        let key := keyOfBytes s.officer.key
        let iv := BitVec.ofNat 96 m.seq.val
        let aad := officerHeader type true m.body.length m.seq.val
        let ct := m.body.take (m.body.length - 16)
        if m.isSealed && decide (16 ≤ m.body.length) &&
            decide (gcmTag key iv aad ct = m.body.drop (m.body.length - 16)) then f (gcmCrypt key iv ct) s
        else s
      else f m.body s

/-- The officer slots (R438). -/
def State.ofcSlots (s : State) : List Nat :=
  [s.rd F.ofcSlots0Slot0, s.rd F.ofcSlots0Slot1, s.rd F.ofcSlots1Slot2, s.rd F.ofcSlots1Slot3]

/-- The named slots that are valid trust anchors, unexpired. -/
def State.ofcValid (s : State) : List Nat := s.ofcSlots.filter (fun v => s.slotUsable v 3)

/-- A failed authentication (R440). -/
def State.authFail (s : State) : State :=
  let n := s.rd F.ofcStatFails + 1
  let s := ((s.count .ofc 0 2).event F.ofcEvtAuthFail).modOfc (fun o => { o with challenged := none, response := none, dk := [] })
  let s := (s.burn).officerSend 4 [s.free 8]
  if max 1 (s.rd F.ofcLimitFailLimit) ≤ n then (s.wr F.ofcStatFails 0).tamperFire 21 else s.wr F.ofcStatFails n

/-- A session opens (R438). -/
def State.authPass (s : State) (hash ct : List Byte) : State :=
  let o := s.officer
  let key := kdf (Config.kemDecaps o.dk ct) "heserok officer" o.nonce 256
  let s := ((s.count .ofc 0 1).event F.ofcEvtAuthOk).wrWords .ofc 0x180 (leWords (slice hash 0 64))
  let s := ((s.wr F.ofcStatFails 0).wr F.ofcStatSession 1).modOfc (fun o =>
    { o with key := slice key 0 32, challenged := none, response := none, dk := [], lastMsg := s.tick })
  s.officerResult 0

/-- The token's identity hash written into the first named slot as a pinned trust anchor (R438): its uses are not
given. -/
def State.enrol (s : State) (hash : List Byte) : State :=
  let v := s.ofcSlots.headD 0
  let x : Slot := { present := true, type := 3, imported := true, long := true, uses := (s.free 32).toNat
                    generation := (s.slot v).generation + 1, material := slice hash 0 64 }
  ((s.burn).setSlot v { x with tag := x.tagFor s.vault.kint v }).schedule (s.tick + 1) (.slotUsable v)

/-- The RESPONSE judged (R438). A use that waits for its reservation leaves it to be judged again. -/
def State.judgeResponse (s : State) : State :=
  match s.officer.response with
  | none => s
  | some (sig, ct) =>
    let o := s.officer
    let pk := slice o.ident 72 2592
    let hash := Config.sha3 pk
    let msg := o.nonce ++ s.identityHash ++ beBytes 4 o.seconds
    if !Config.dsaVerify pk msg (ascii "heserok officer") sig then s.authFail
    else if s.ofcValid.isEmpty then
      if Config.dsaVerify s.pwr.fwKey hash (ascii "heserok officer enrol") o.enrolSig && !s.nvInhibited then
        (s.enrol hash).authPass hash ct
      else s.authFail
    else
      match s.ofcValid.find? (fun v => decide ((s.slot v).key = hash)) with
      | none => s.authFail
      | some v =>
        match s.takeUse v with
        | (s, .granted) => s.authPass hash ct
        | (s, .waits) => s
        | (s, .refused) => s.authFail

/-- A HELLO answered (R438, R440). While the port is locked it is refused, with a status that the manual does not
give. -/
def State.onHello (s : State) (body : List Byte) : State :=
  if s.ofcLocked then (s.burn).officerSend 4 [s.free 8]
  else
    let (s, nonce) := s.draw 32
    let (s, seed) := s.draw 64
    let (ek, dk) := Config.kemKeys seed
    let s := s.modOfc (fun o => { o with ident := body.take 2664, enrolSig := body.drop 2664, nonce := nonce, dk := dk
                                         seconds := s.seconds, challenged := some s.tick, response := none })
    s.officerSend 2 (nonce ++ s.identityHash ++ beBytes 4 s.seconds ++ slice ek 0 1568)

/-! ### Module cages (R444 to R447) -/

/-- Cage `b`. -/
def State.cage (s : State) (b : Nat) : Cage := nget {} s.cages b
/-- The state with it changed by `f`. -/
def State.modCage (s : State) (b : Nat) (f : Cage → Cage) : State := { s with cages := nset {} s.cages b (f (s.cage b)) }

/-- An event of a module bus (R451). -/
def State.modEvent (s : State) (f : Fld) (b : Nat) : State :=
  ((s.wrEvt F.modLastBus b).wrEvt F.modLastBit f.lo).event f

/-- The lanes of a cage. -/
def cageLanes (b : Nat) : List Nat := (List.range 8).map (8 * b + ·)

/-- Whether commands to a cage are accepted (R445, R446). -/
def State.cageReady (s : State) (b : Nat) : Bool := bit (s.rd F.modPresentPresent) b && (s.cage b).resetUntil.isNone

/-- A MOD_CMD write lands (R447, R451). -/
def State.landModCmd (s : State) (op len off page bank : Nat) : State :=
  s.gate .mod 0 (fun s =>
    let b := s.rd F.modSelBus
    if op = 0 ∨ s.on F.modStatBusy 0 b = true then s
    else if op = 3 ∨ s.cageReady b = false then s.wr F.modStatResult 3 0 b
    else
      let paging := decide (0x80 ≤ off) && decide ((s.cage b).paged ≠ some (bank, page))
      let s := onlyIf paging (fun s =>
        (s.emit (.cmis b true bank page 0x7E [BitVec.ofNat 8 bank, BitVec.ofNat 8 page])).modCage b
          (fun c => { c with paged := some (bank, page) })) s
      let data := leBytes 4 (s.rd F.modDataLoData 0 b) ++ leBytes 4 (s.rd F.modDataHiData 0 b)
      let s := s.emit (.cmis b (decide (op = 2)) bank page off (if op = 2 then data.take len else []))
      ((s.count .mod 0 3).wr F.modStatBusy 1 0 b).modCage b
        (fun c => { c with cmd := some (op, len, off, page, bank), began := s.tick }))

/-- A bus command ends with a result (R447, R451). -/
def State.endModCmd (s : State) (b result : Nat) : State :=
  let s := ((s.wr F.modStatBusy 0 0 b).wr F.modStatResult result 0 b).modCage b (fun c => { c with cmd := none })
  onlyIf (decide (result = 1 ∨ result = 2)) (fun s => (s.count .mod 0 4).modEvent F.modEvtBusErr b) s

/-! ### Alarms and the panel (R442, R443, R497) -/

/-- ALARM_N as an edge leaves it: bit 0 major, bit 1 minor (R497). -/
def State.alarms (s : State) : Nat :=
  let dead := s.assocs.base.state = .dead ∧ s.assocs.base.deadCause ≠ 1
  let major := decide (s.evt F.fltFirstSrcValid = 1) || s.on F.tmpStatHalted ||
    s.kindle.links.any (fun e => decide (3 ≤ e.2.fails)) || decide dead ||
    s.assocs.m.any (fun e => decide (e.2.state = .dead ∧ e.2.deadCause ≠ 1))
  let minor := (List.range 144).any (fun p => s.portOn p && decide (s.rd F.prtStatReported p ≠ 0))
  b2n major + 2 * b2n minor

/-- The green and amber lamps of lane `g` (R442). -/
def State.lamps (s : State) (g : Nat) : Nat :=
  let dark := s.on (F.modLedBlink.at g) && decide (s.tick / 2 ^ 15 % 2 = 1)
  let shown :=
    match s.rd (F.modLedOvr.at g) with
    | 1 => 0
    | 2 => 1
    | 3 => 2
    | _ => match s.portOfLane g with
      | none => 0
      | some p => if !(s.port p).up then 2 else if 7 ≤ s.rd F.prtStatReported p then 3 else if s.rd F.prtStatReported p = 0 then 1 else 0
  if dark then 0 else shown

/-- The LED chain (R442). -/
def State.ledChain (s : State) : Nat :=
  let lanes := (List.range 144).foldl (fun n g => n + s.lamps g * 4 ^ g) 0
  let mark := decide (s.rd F.tmpFlagsEnv ≠ 0) || decide (s.tamper.ackedLog < s.tamper.log.length)
  lanes + (s.mode + 16 * b2n mark + 32 * b2n (s.on F.ofcStatSession) + 64 * b2n (bit s.pair.alarm 0) +
    128 * b2n (s.on F.fluStatLockHeld)) * 2 ^ 288

/-! ### The commands: tamper -/

/-- Whether the monitor of a source lies outside the model (R425): the sources 21 and 22 fire inside the device (R440,
R380), and on main power the edges themselves compare the temperature. -/
def State.fromOutside (s : State) (src : Nat) : Bool := decide (src ≠ 21 ∧ src ≠ 22 ∧ (2 ≤ src ∨ s.mode ≤ 1))

/-- TAMPER_FIRE (R425): `rtc` crystal cycles have passed on the cell since the last command in COLD-GUARD. -/
def execTamperFire (src : Fin 23) (rtc : Nat) (s : State) : Host.Outcome State Fault Refusal :=
  let s := s.modTamper (fun t => { t with brtc := (t.brtc + 2 * rtc) % 2 ^ 48 })
  done (if s.fromOutside src then s.tamperFire src else s)

/-- TAMPER_WINDOW_END (R428). -/
def execTamperWindowEnd (s : State) : Host.Outcome State Fault Refusal :=
  done (if s.tamper.window.isEmpty then s else s.windowEnd)

/-- QUENCH_BUTTON (R441): QUENCH_N has been low for 3 s of BRTC. -/
def execQuenchButton (s : State) : Host.Outcome State Fault Refusal := done (s.tamperFire 20)

/-- A TMP_TEST write lands (R435, R449). -/
def State.landTest (s : State) (src : Nat) (start : Bool) : State :=
  if !start || s.on F.tmpTestBusy || decide (23 ≤ src) then s
  else ((s.count .tmp 0 5).wr F.tmpTestBusy 1).modTamper (fun t => { t with test := some (src, s.tick) })

/-- TAMPER_TEST (R435, R449). -/
def execTamperTest (src : Fin 32) (start : Bool) (s : State) : Host.Outcome State Fault Refusal :=
  done (s.gate .tmp 0 (fun s => s.landTest src.val start))

/-- The ticks that a test of a source lasts (R425, R435): its detection time and 1 ms; 4 s for BUTTON. -/
def testTicks (src : Nat) : Nat :=
  if src ≤ 1 then 129
  else if src = 4 ∨ src = 5 then 125125
  else if 8 ≤ src ∧ src ≤ 15 then 138
  else if 16 ≤ src ∧ src ≤ 19 then 250
  else if src = 20 then 500000
  else 126

/-- TAMPER_TEST_END (R435): `still` says that the condition is still present once the stimulus is gone. -/
def execTamperTestEnd (still : Bool) (s : State) : Host.Outcome State Fault Refusal :=
  done (match s.tamper.test with
    | some (src, t) =>
      if s.tick < t + testTicks src then s else
      let s := (s.wr F.tmpTestBusy 0).modTamper (fun t => { t with test := none })
      if still then s.tamperFire src else s
    | none => s)

/-! ### The commands: the Officer Port -/

/-- TOKEN_PLUG (R437, R450). -/
def execTokenPlug (s : State) : Host.Outcome State Fault Refusal :=
  done (((s.wr F.ofcStatPresent 1).modOfc (fun o => { o with seqIn := 0, seqOut := 0 })).event F.ofcEvtPlugged)

/-- TOKEN_UNPLUG (R438). -/
def execTokenUnplug (s : State) : Host.Outcome State Fault Refusal :=
  done ((s.endSession.wr F.ofcStatPresent 0).event F.ofcEvtUnplugged)

/-- OFFICER_HELLO (R438). -/
def execOfficerHello (m : OfcMsg) (s : State) : Host.Outcome State Fault Refusal :=
  done (s.officerRecv 1 m (fun body s => s.onHello body))

/-- OFFICER_RESPONSE (R438): it is verified within 2 ticks. -/
def execOfficerResponse (m : OfcMsg) (s : State) : Host.Outcome State Fault Refusal :=
  done (s.officerRecv 3 m (fun body s =>
    if s.officer.challenged.isSome && s.officer.response.isNone then
      s.modOfc (fun o => { o with response := some (body.take 4627, slice body 4627 1568) })
    else s))

/-- OFFICER_VERIFY_DONE (R438). -/
def execOfficerVerifyDone (s : State) : Host.Outcome State Fault Refusal := done s.judgeResponse

/-- OFFICER_RESPONSE_TIMEOUT (R440): 2 s, 250,000 ticks, after the CHALLENGE. -/
def execOfficerResponseTimeout (s : State) : Host.Outcome State Fault Refusal :=
  done (match s.officer.challenged with
    | some t => if s.officer.response.isNone ∧ t + 250000 ≤ s.tick then s.authFail else s
    | none => s)

/-- OFFICER_SESSION_TIMEOUT (R438): 300 s, 37,500,000 ticks, without a message. -/
def execOfficerSessionTimeout (s : State) : Host.Outcome State Fault Refusal :=
  done (if s.on F.ofcStatSession ∧ s.officer.lastMsg + 37500000 ≤ s.tick then s.endSession else s)

/-- VAULT (R439): a vault command with the officer's authority. -/
def execVault (m : OfcMsg) (cyc : Cyc) (s : State) : Host.Outcome State Fault Refusal :=
  done ((s.at cyc).officerRecv 0x10 m (fun body s =>
    let (op, slot, aux, arg, uses, data) := Config.vaultFields body
    (s.count .ofc 0 5).vaultOfficer
      { op := op % 16, slot := slot % 1024, aux := aux % 1024, officer := true, type := getF arg 0 4
        long := getF arg 4 1 = 1, hostUse := getF arg 5 1 = 1, expires := getF arg 6 1 = 1
        exportable := decide (op % 16 = 12) && decide (getF arg 7 1 = 1), ctxLen := getF arg 8 6
        uses := uses.toNat, data := data.take 128 } cyc))

/-- CERT_WRITE (R313, R439): a fragment of the certificate is stored in MRAM, of at most 16 KiB in all; with NV writes
inhibited it is refused with result 9. -/
def execCertWrite (m : OfcMsg) (s : State) : Host.Outcome State Fault Refusal :=
  done (s.officerRecv 0x11 m (fun body s =>
    if s.nvInhibited then s.officerResult 9
    else if 16384 < s.officer.cert.length + body.length then s.officerResult 4
    else
      let all := s.officer.cert ++ body
      { s.modOfc (fun o => { o with cert := all }) with vault := { s.vault with cert := all } }.officerResult 0))

/-- CERT_READ (R439). -/
def execCertRead (m : OfcMsg) (s : State) : Host.Outcome State Fault Refusal :=
  done (s.officerRecv 0x12 m (fun _ s => s.officerResult 0 s.vault.cert))

/-- ACK (R37, R434): the hold ends. -/
def execAck (m : OfcMsg) (s : State) : Host.Outcome State Fault Refusal :=
  done (s.officerRecv 0x13 m (fun _ s =>
    let s := (s.wr F.tmpDeferDeferred 0).modPwr (fun p => { p with held := false })
    let s := s.modTamper (fun t => { t with lineHold := false, ackedLog := t.log.length })
    let s := if s.mode = 3 then s.setMode 2 else s
    (s.event F.ofcEvtAck).officerResult 0))

/-- CLEAR_FLAGS (R430). -/
def execClearFlags (m : OfcMsg) (s : State) : Host.Outcome State Fault Refusal :=
  done (s.officerRecv 0x14 m (fun body s =>
    (s.wr F.tmpFlagsEnv (s.rd F.tmpFlagsEnv &&& (~~~ Config.flagsMask body).toNat)).officerResult 0))

/-- NOTE (R431). -/
def execNote (m : OfcMsg) (s : State) : Host.Outcome State Fault Refusal :=
  done (s.officerRecv 0x15 m (fun _ s => (s.logTamper (logEntry s.tamper.brtc 31 0 false s.mode)).officerResult 0))

/-- SET_BRTC (R432): seconds, then subseconds. -/
def execSetBrtc (m : OfcMsg) (s : State) : Host.Outcome State Fault Refusal :=
  done (s.officerRecv 0x16 m (fun body s =>
    (s.modTamper (fun t => { t with brtc := beAt body 0 4 * 65536 + beAt body 4 2 })).officerResult 0))

/-- UNLOCK_CFG (R436). -/
def execUnlockCfg (m : OfcMsg) (s : State) : Host.Outcome State Fault Refusal :=
  done (s.officerRecv 0x17 m (fun _ s => (s.wr F.tmpCfgCfgLock 0).officerResult 0))

/-- END (R438). -/
def execEnd (m : OfcMsg) (s : State) : Host.Outcome State Fault Refusal :=
  done (s.officerRecv 0x1F m (fun _ s => s.endSession))

/-- BRTC_READ (R449): a read of TMP_BRTC_S latches the subseconds. -/
def execBrtcRead (s : State) : Host.Outcome State Fault Refusal :=
  done (s.gateRead .tmp 0 (fun s =>
    (s.wr F.tmpBrtcSubSub (s.tamper.brtc % 65536)).emit (.read [BitVec.ofNat 32 s.seconds])))

/-! ### The commands: panel and modules -/

/-- LED_REFRESH (R442, R443): every 8 ticks, by the lock holder or a unit without a peer claim for 64 ticks. -/
def execLedRefresh (s : State) : Host.Outcome State Fault Refusal :=
  done (if s.tick % 8 = 0 ∧ s.on F.modLedCtlEnable = true ∧ 1 < s.mode ∧
      (s.on F.fluStatLockHeld = true ∨ s.pair.claimAt + 64 ≤ s.tick) then
    s.emit (.leds s.ledChain)
  else s)

/-- MODULE_UNPLUG (R72, R445): at the first edge after the removal. A lane that is off stays off (DESIGN CHOICE, log
entry 50); a class that waits for code 0 takes effect (R61). -/
def execModuleUnplug (b : CageNo) (s : State) : Host.Outcome State Fault Refusal :=
  done (
    let s := s.wr F.modPresentPresent (clrBit (s.rd F.modPresentPresent) b.val)
    let s := s.modCage b (fun c => { c with resetUntil := none, paged := none })
    let s := forL (cageLanes b) (fun g s =>
      let s := s.modLane g (fun l => { l with modSquelch := true })
      State.settleClass g (if s.laneState g = 0 then s.wr F.lanStatRate 0 g else s.startRate g 0)) s
    (s.count .mod 0 2).modEvent F.modEvtUnplug b)

/-- MODULE_PLUG (R446): edge P. -/
def execModulePlug (b : CageNo) (s : State) : Host.Outcome State Fault Refusal :=
  done (
    let s := s.wr F.modPresentPresent (setBit (s.rd F.modPresentPresent) b.val)
    let s := s.modCage b (fun c => { c with resetUntil := some (s.tick + 2), paged := none })
    (s.count .mod 0 1).modEvent F.modEvtPlug b)

/-- MODULE_RESET_RELEASE (R446): edge P + 2. -/
def execModuleResetRelease (b : CageNo) (s : State) : Host.Outcome State Fault Refusal :=
  done (match (s.cage b).resetUntil with
    | some t =>
      if t ≤ s.tick then
        forL (cageLanes b) (fun g s => s.modLane g (fun l => { l with modSquelch := false }))
          (s.modCage b (fun c => { c with resetUntil := none }))
      else s
    | none => s)

/-- MODULE_READ (R447). -/
def execModuleRead (len : Fin 8) (off page bank : Byte) (s : State) : Host.Outcome State Fault Refusal :=
  done (s.landModCmd 1 (len.val + 1) off.toNat page.toNat bank.toNat)

/-- MODULE_WRITE (R447). -/
def execModuleWrite (len : Fin 8) (off page bank : Byte) (s : State) : Host.Outcome State Fault Refusal :=
  done (s.landModCmd 2 (len.val + 1) off.toNat page.toNat bank.toNat)

/-- MODULE_CMD_DONE (R447): what the module answers, or no acknowledgement; after 50 ticks, a timeout. -/
def execModuleCmdDone (b : CageNo) (reply : Option (List Byte)) (s : State) : Host.Outcome State Fault Refusal :=
  done (match (s.cage b).cmd with
    | some (op, len, _, _, _) =>
      if (s.cage b).began + 50 < s.tick then s.endModCmd b 2
      else match reply with
        | none => s.endModCmd b 1
        | some bytes =>
          let old := leBytes 4 (s.rd F.modDataLoData 0 b) ++ leBytes 4 (s.rd F.modDataHiData 0 b)
          let new := overwrite old 0 (slice bytes 0 len)
          let s := if op = 1 then (s.wr F.modDataLoData (leNat (slice new 0 4)) 0 b).wr F.modDataHiData (leNat (slice new 4 4)) 0 b else s
          s.endModCmd b 0
    | none => s)

/-- MODULE_INTERRUPT (R451): MOD_INT_N changes. -/
def execModuleInterrupt (b : CageNo) (low : Bool) (s : State) : Host.Outcome State Fault Refusal :=
  done (
    let was := s.on F.modStatInt 0 b
    let s := s.wr F.modStatInt (b2n low) 0 b
    if low && !was then (s.count .mod 0 5).modEvent F.modEvtModuleInt b else s)

end Sys2Proof.Machine
end

