-- ==== Sys2Proof/Machine/Rollover.lean ====
section
/-! DEFINITION. The Kindle Exchange in service: what a link receives (R238, R280), rollovers and REKEY (R265 to R274),
parallel sessions (R275 to R279), failures (R281 to R286), the timers of a link, and its commands. -/

namespace Sys2Proof.Machine

open Sys2Proof

/-! ### Rollovers (R265 to R274) -/

/-- A REKEY pair of the link is in progress (R271, R273). -/
def Link.rekeying (l : Link) : Bool :=
  l.rekeySince.isSome || (match l.cur with
    | some x => decide (x.st = .live) && (x.goal.isSome || x.pending.isSome)
    | none => false)

/-- The current session of the link is LIVE. -/
def Link.live (l : Link) : Bool := match l.cur with
  | some x => decide (x.st = .live)
  | none => false

/-- A LIVE session with no rollover, REKEY pair or parallel session in progress (R271, R289). -/
def Link.quiet (l : Link) : Bool := l.live && l.roll.isNone && !l.rekeying && l.par.isNone

/-- The LIVE associations of a link. -/
def State.liveOf (s : State) (k : Nat) : List Nat := (s.linkAssocs k).filter (fun a => decide ((s.asn a).state = .live))

/-- A rollover proposed by this side (R266, R268): its keys are derived first. -/
def State.startRoll (s : State) (k : Nat) : State :=
  let n := (s.liveOf k).length
  let r : Roll := { stage := .keying, proposer := true, target := s.proposal k, since := s.tick
                    installAt := some (s.tick + deriveTicks n), keys := n }
  s.modLink k (fun l => { l with roll := some r, wantRoll := false })

/-- A REKEY request begun (R273): a fresh key pair first. -/
def State.startRekey (s : State) (k : Nat) : State :=
  (s.modLink k (fun l => { l with wantRekey := false })).lattice k false [.keygen] .rekeyRequest

/-- What waits for a quiet link starts (R271): a rollover first, which may follow a REKEY pair. -/
def State.rollService (s : State) (k : Nat) : State :=
  let l := s.link k
  if !l.quiet || !s.kdlRuns then s
  else if l.wantRoll then s.startRoll k
  else if l.wantRekey then s.startRekey k
  else s

/-- A ROLL_ message of the link's session (R243, R268). -/
def State.sendRoll (s : State) (k type target count : Nat) : State :=
  s.sessionSends k false (fun x => x.tagged type target (beBytes 4 target ++ beBytes 4 count ++ beBytes 8 0))

/-- The count of associations that a peer gave differs from this side's own (R268). -/
def State.countCheck (s : State) (k peer own : Nat) : State :=
  onlyIf (decide (peer ≠ own)) (fun s => s.rollEvent F.kdlRollEvtCountMismatch k) s

/-- The rollover of a link changed by `f`. -/
def State.modRoll (s : State) (k : Nat) (f : Roll → Roll) : State :=
  s.modLink k (fun l => { l with roll := l.roll.map f })

/-- The associations of a link that hold an epoch in the idle phase they are to switch to. -/
def State.rollingTo (s : State) (k epoch : Nat) : List Nat :=
  (s.linkAssocs k).filter (fun a =>
    let e := s.asn a
    decide (e.state = AState.rolling) && decide ((e.ph (!e.txPhase)).epoch = epoch))

/-- The target installed at step 2 of the edge after its derivation (R266 to R268): every LIVE association of the link
takes part, and those that hold the target already. A proposer waits while a REKEY pair is in progress (R271). -/
def State.rollInstall (s : State) (k : Nat) : State :=
  let l := s.link k
  match l.roll, l.cur with
  | some r, some x =>
    if (match r.installAt with | some e => decide (s.tick < e) | none => true) || r.proposer && l.rekeying then s
    else
      let s := forL (s.liveOf k) (fun a s =>
        let e := s.asn a
        let s := s.setAsn a { e.setPh (!e.txPhase) {} with overlapAt := none }
        s.installIdleOf k x r.target a) s
      let rolled := s.rollingTo k r.target
      let s := s.modRoll k (fun r => { r with installAt := none, rolled := rolled, since := s.tick
                                              stage := if r.proposer then .proposed else .readySent })
      if r.proposer then s.sendRoll k 5 r.target rolled.length
      else (s.countCheck k r.peerCount rolled.length).sendRoll k 6 r.target rolled.length
  | _, _ => s

/-- An association that entered LIVE before the local switch joins the rollover (R267). -/
def State.rollJoin (s : State) (a : Nat) : State :=
  match s.linkOfPort (s.asn a).port with
  | some k =>
    let l := s.link k
    match l.roll, l.cur with
    | some r, some x =>
      if (s.asn a).state = .live ∧ (r.stage = .proposed ∨ r.stage = .readySent ∨ r.stage = .scheduled) then
        let s := (s.installIdleOf k x r.target a).count .kdl 0 13
        onlyIf (decide ((s.asn a).state = .rolling)) (fun s => s.modRoll k (fun r => { r with rolled := r.rolled ++ [a] })) s
      else s
    | _, _ => s
  | none => s

/-- A rollover is complete on this side (R268, R282): what waited for it goes on. -/
def State.rollComplete (s : State) (k : Nat) : State :=
  let s := s.modLink k (fun l => { l with
    roll := none, rollsDone := satAdd 16 l.rollsDone 1
    stageAt := if l.toStage.isEmpty then none else some (s.tick + deriveTicks l.toStage.length) })
  s.modSes k false (fun x => if x.oldSecret.isEmpty then x else { x with oldSecret := [], rekeyFrom := s.tick })

/-- The edge of the local switch (R268), 0 before it is scheduled. -/
def Roll.switchDue (r : Roll) : Nat := r.switchAt.getD 0

/-- The local switch (R159, R268, R281) at step 4. -/
def State.rollSwitch (s : State) (k : Nat) : State :=
  match (s.link k).roll with
  | some r =>
    if r.stage = .scheduled ∧ r.switchDue ≤ s.tick then
      let s := forL r.rolled (fun a s => s.switchAsn a s.overlapTicks) s
      let s := forL (s.linkAssocs k) (fun a s => s.modAsn a (fun e => { e with rollFail := 0 })) s
      let s := s.modLink k (fun l => { l with epoch := r.target, fails := 0 })
      s.modRoll k (fun r => { r with stage := .switched, since := s.tick, overlapEnd := s.tick + s.overlapTicks })
    else s
  | none => s

/-- The overlap of a rollover ends (R159, R268): the old phases are zeroed and ROLL_DONE is sent. -/
def State.rollOverlap (s : State) (k : Nat) : State :=
  let s := forL (s.linkAssocs k) (fun a s => s.overlapAsn a) s
  let s := match (s.link k).lateDone with
    | some (e, t, n) => if e ≤ s.tick then (s.modLink k (fun l => { l with lateDone := none })).sendRoll k 7 t n else s
    | none => s
  match (s.link k).roll with
  | some r =>
    if r.stage = .switched ∧ r.overlapEnd ≤ s.tick then
      let s := (s.modRoll k (fun r => { r with stage := .ended, doneSent := true })).sendRoll k 7 r.target r.rolled.length
      if r.peerDone then s.rollComplete k else s
    else s
  | none => s

/-! ### Failures (R281 to R283) -/

/-- A rollover or REKEY failure counted (R273, R281); `as` are the associations taking part. The answer tells whether
the failure escalates. -/
def State.rollFailure (s : State) (k : Nat) (as : List Nat) : State × Bool :=
  let s := s.modLink k (fun l => { l with fails := satAdd 4 l.fails 1, rollFailures := satAdd 16 l.rollFailures 1 })
  let s := forL as (fun a s =>
    let n := satAdd 4 (s.asn a).rollFail 1
    let s := s.modAsn a (fun e => { e with rollFail := n })
    onlyIf (decide (n = 3)) (fun s => s.asnEvent F.asnEvtRollAlarm a) s) s
  let s := s.rollEvent F.kdlRollEvtRollFailed k
  let f := (s.link k).fails
  let s := onlyIf (decide (f = 3)) (fun s => s.rollEvent F.kdlRollEvtAlarm k) s
  let lim := s.rd F.kdlLinkRollCfgFailLimit 0 k
  (s, decide (lim ≠ 0 ∧ lim ≤ f))

/-- The current session of a link ends (R281, R283): its associations die at step 3 of the next edge, a parallel
session ends with it, `tell` sends what is to be sent, and the link enters HOLDOFF. -/
def State.endLive (s : State) (k cause : Nat) (tell : State → State) : State :=
  (tell (((s.killLink k cause (s.tick + 1)).closeSession k true).closeSession k false)).holdoff k false

/-- Escalation (R281). -/
def State.escalate (s : State) (k : Nat) : State :=
  match (s.link k).cur with
  | some x => (s.endLive k 5 (fun s => s.sendAbort k x 10)).rollEvent F.kdlRollEvtEscalated k
  | none => s

/-! ### Installs and LIVE (R155, R258 to R260, R276) -/

/-- Keys whose derivation ends before the next edge are derived (R251, R257): counted, and those of a handshake
staged. -/
def State.deriveLink (s : State) (k : Nat) : State :=
  let due := fun (o : Option Nat) => match o with
    | some e => decide (e ≤ s.tick + 1)
    | none => false
  let ses := fun (par : Bool) (s : State) => match (s.link k).ses par with
    | some x => onlyIf (due x.stageAt) (fun s => s.stageKeys k par) s
    | none => s
  let s := ses true (ses false s)
  match (s.link k).roll with
  | some r => if due r.installAt then (s.modRoll k (fun r => { r with keys := 0 })).count .kdl 0 13 r.keys else s
  | none => s

/-- live_refused (R260): a LIVE session has an installed association that its port keeps in KINDLING. -/
def State.liveHeld (s : State) (k : Nat) : State :=
  onlyIf ((s.link k).live && s.refusesLive (s.linkPort k) &&
      (s.linkAssocs k).any (fun a => decide ((s.asn a).state = .kindling) && (s.asn a).ph0.valid))
    (fun s => s.kdlEvent F.kdlEvtLiveRefused k 0) s

/-- Associations that entered KINDLING under a LIVE session are installed at the link's epoch (R258). -/
def State.liveInstall (s : State) (k : Nat) : State :=
  let l := s.link k
  match l.cur with
  | some x =>
    if l.live && (match l.stageAt with | some e => decide (e ≤ s.tick) | none => false) then
      let s := forL l.toStage (fun a s =>
        if (s.asn a).state = .kindling then
          let (key, salt) := workingKey x.secret (s.asn a).peerIndex l.epoch
          let s := s.modAsn a (fun e => { e with ph0 := { e.ph0 with key := key, salt := salt } })
          (s.installStaged k { x with epoch := l.epoch } a).count .kdl 0 13
        else s) s
      (s.modLink k (fun l => { l with toStage := [], stageAt := none })).liveHeld k
    else s
  | none => s

/-- An association that enters KINDLING after its session has derived s is staged at once (R277, R309), and installed at
step 2 of this edge where that session has installed already. -/
def State.stageLate (s : State) (k : Nat) (par : Bool) (a : Nat) : State :=
  let s := (s.stageOne k par a).count .kdl 0 13
  match (s.link k).ses par with
  | some x => onlyIf x.installed (fun s => s.modLink k (fun l => { l with installAt := some s.tick })) s
  | none => s

/-- An association has entered KINDLING (R258, R267, R277, R309). -/
def State.kindleEntered (s : State) (a : Nat) : State :=
  match s.linkOfPort (s.asn a).port with
  | some k =>
    let l := s.link k
    let derived := fun (o : Option Session) => match o with
      | some x => !x.secret.isEmpty
      | none => false
    if l.casc.contains a && derived l.par then
      (s.stageLate k true a).modLink k (fun l => { l with casc := l.casc.filter (· ≠ a) })
    else if l.live then
      s.modLink k (fun l => { l with toStage := l.toStage ++ [a]
                                     stageAt := if l.roll.isSome then none
                                                else some (s.tick + deriveTicks (l.toStage.length + 1)) })
    else if l.freshPeer && derived l.cur then s.stageLate k false a
    else s
  | none => s

/-- Whether a restart of an association waits under R309. -/
def State.cascWait (s : State) (a : Nat) : Bool :=
  match s.linkOfPort (s.asn a).port with
  | some k =>
    let l := s.link k
    l.casc.contains a && l.live && (match l.par with | some x => x.secret.isEmpty | none => true)
  | none => false

/-- A cascade has made associations DEAD (R309): each link that has one and a LIVE session opens a parallel session. -/
def State.cascaded (s : State) (as : List Nat) : State :=
  forN 144 (fun k s =>
    let mine := as.filter (fun a => decide (s.linkOfPort (s.asn a).port = some k))
    if mine.isEmpty || !(s.link k).live then s
    else (s.modLink k (fun l => { l with casc := l.casc ++ mine })).tryOffer k true) s

/-- The guards of R155 that are not the link's: a sealing mode, and the pages that R54 names for port `p`. -/
def State.pagesLive (s : State) (p : Nat) : Bool :=
  s.sealing && s.ready .kvt && s.ready .stv (p / 18) && s.ready .kdl && s.ready .sea p

/-- KINDLING to LIVE at step 4 (R153, R155). -/
def State.liveStep (s : State) : State :=
  forL s.asnListed (fun a s =>
    let e := s.asn a
    if e.state ≠ .kindling ∨ !e.ph0.valid then s
    else match s.linkOfPort e.port with
      | some k => match (s.link k).cur with
        | some x =>
          if x.st = .live ∧ e.session = x.idx ∧ s.pagesLive e.port ∧ !s.refusesLive e.port then
            let s := s.modAsn a (fun e => { e with state := .live })
            match (s.link k).roll with
            | some r => if r.stage = .proposed ∨ r.stage = .readySent ∨ r.stage = .scheduled then s.schedule (s.tick + 1) (.rollJoin a) else s
            | none => s
          else s
        | none => s
      | none => s) s

/-- A session may become LIVE: its own CONFIRM is wholly acknowledged and the peer's is verified and acted on. -/
def Session.mayLive (x : Session) : Bool := decide (x.st = .confirming) && x.peerConfirmed && x.ownConfirmed && x.installed

/-- A parallel session takes the place of the session it was built beside (R276): the associations that hold its epoch
switch, and their session is this one. -/
def State.replaceSession (s : State) (k : Nat) (x : Session) : State :=
  let s := forL (s.rollingTo k x.epoch) (fun a (s : State) =>
    (s.switchAsn a s.overlapTicks).modAsn a (fun e => { e with session := x.idx })) s
  (s.closeSession k false).modLink k (fun l => { l with cur := some x, par := none, epoch := x.epoch, liveDue := none })

/-- SESSION_LIVE at step 4 of an edge (R259, R276). On an OTN port a parallel session becomes LIVE 20 ticks after the first
edge at which it may, so that the countdown of R221 goes before its switch (DESIGN CHOICE, log entry 56). -/
def State.sessionLive (s : State) (k : Nat) : State :=
  let s := match (s.link k).par with
    | some x =>
      if !x.mayLive then s
      else match (s.link k).liveDue with
        | some e => if e ≤ s.tick then s.replaceSession k x else s
        | none =>
          if s.portOtn (s.linkPort k) then s.modLink k (fun l => { l with liveDue := some (s.tick + 20) })
          else s.replaceSession k x
    | none => s
  match (s.link k).cur with
  | some x =>
    if x.mayLive then
      let s := s.modSes k false (fun x => { x with st := .live, since := s.tick, liveAt := s.tick, rekeyFrom := s.tick
                                                   lastHeard := s.tick, lastSent := s.tick })
      let s := s.modLink k (fun l => { l with holdK := 0 })
      ((s.kdlEvent F.kdlEvtSessionLive k 0).count .kdl 0 12).liveHeld k
    else s
  | none => s

/-- The responder's CONFIRM at the first edge after its PROOF is wholly acknowledged (R255). -/
def State.confirmEdge (s : State) (k : Nat) : State :=
  let go := fun (par : Bool) (s : State) => match (s.link k).ses par with
    | some x =>
      if x.st = .proved ∧ !x.initiator ∧ x.proofAcked then s.sendConfirmR k par else s
    | none => s
  go true (go false s)

/-! ### Receiving (R235 to R238) -/

/-- Whether a link accepts fragments (R45, R229, R235). -/
def State.linkHears (s : State) (k : Nat) : Bool :=
  s.kdlRuns && !s.pwr.shed && s.linkOn k && !s.noChannel k &&
    !decide (1 ≤ s.rd F.prtStatReported (s.linkPort k) ∧ s.rd F.prtStatReported (s.linkPort k) ≤ 6)

/-- The session of a link that a message names: false the current, true the parallel one. -/
def Link.names (l : Link) (m : List Byte) : Option Bool :=
  let is := fun (o : Option Session) => match o with
    | some x => decide (slice x.id 0 8 = slice m 8 8)
    | none => false
  if is l.cur then some false else if is l.par then some true else none

/-- A whole message (R238, R239): discarded, or kept for its command, with its acknowledgement due or held. -/
def State.wholeMsg (s : State) (k id count : Nat) (m : List Byte) : State :=
  let s := (s.count .kdl 0 2).modLink k (fun l => { l with rx := none, lastDone := some id })
  let due := fun (s : State) => s.modLink k (fun l => { l with ackDue := some (id, count, 0), ackEdge := max l.ackEdge (s.tick + 1) })
  let keep := fun (s : State) => s.modLink k (fun l => { l with inbox := l.inbox ++ [m] })
  let type := byteAt m 0
  if type = 0 ∨ 11 ≤ type then due s.discard
  else if type = 1 then due (keep s)
  else if ((s.link k).names m).isNone then
    if type = 6 then s.discard.modLink k (fun l => { l with lastDone := some ((id + 65535) % 65536) }) else due s.discard
  else if type = 4 ∨ type = 6 then (keep s).modLink k (fun l => { l with ackHold := some id })
  else due (keep s)

/-- The lowest fragment not yet received, and the map of the next seven (R236). -/
def RxMsg.base (x : RxMsg) : Nat :=
  ((List.range x.count).find? (fun i => !(x.parts.any (fun e => e.1 = i)))).getD x.count
def RxMsg.held (x : RxMsg) : Nat :=
  (List.range 7).foldl (fun n i => if x.parts.any (fun e => e.1 = x.base + i + 1) then setBit n (i + 1) else n) 0

/-- A data fragment (R238). -/
def State.takeFragment (s : State) (k id index count : Nat) (payload : List Byte) : State :=
  let l := s.link k
  let dup := fun (s : State) (b m : Nat) => (s.count .kdl 0 5).modLink k (fun l =>
    if l.ackHold = some id then l else { l with ackDue := some (id, b, m), ackEdge := max l.ackEdge (s.tick + 1) })
  let d := match l.lastDone with
    | some last => (id + 65536 - last) % 65536
    | none => 1
  if d = 0 ∨ 2 ^ 15 ≤ d then dup s count 0
  else if count = 0 ∨ 35 < count ∨ count ≤ index ∨ payload.isEmpty ∨ 240 < payload.length then s.count .kdl 0 5
  else
    let (s, x) : State × RxMsg := match l.rx with
      | some x => if x.id = id then (s, x) else (s.count .kdl 0 6, { id := id, count := count })
      | none => (s, { id := id, count := count })
    if index < x.base ∨ x.parts.any (fun e => e.1 = index) then
      (dup s x.base x.held).modLink k (fun l => { l with rx := some x })
    else if x.base + 8 ≤ index ∨ x.count ≤ index then (s.count .kdl 0 5).modLink k (fun l => { l with rx := some x })
    else
      let x := { x with parts := x.parts ++ [(index, payload)] }
      if x.base = x.count then
        s.wholeMsg k id x.count ((List.range x.count).flatMap (fun i => nget [] x.parts i))
      else s.modLink k (fun l => { l with rx := some x, ackDue := some (id, x.base, x.held)
                                          ackEdge := max l.ackEdge (s.tick + 1) })

/-! ### Acknowledgements and failures of the message being sent (R237) -/

/-- The message being sent is wholly acknowledged: what waited for that goes on (R255, R259, R268). -/
def State.msgAcked (s : State) (k : Nat) (m : OutMsg) : State :=
  let l := s.link k
  let own := fun (o : Option Session) => match o, m.session with
    | some x, some i => decide (x.idx = i)
    | _, _ => false
  let par := own l.par
  let s := (s.endMsg k)
  let s := if !(par || own l.cur) then s
    else match byteAt m.bytes 0 with
      | 3 => s.modSes k par (fun x => { x with proofAcked := true })
      | 4 => s.modSes k par (fun x => { x with ownConfirmed := true })
      | 6 => s.modRoll k (fun r =>
          if r.stage = .readySent ∧ r.target = beAt m.bytes 32 4 then
            { r with stage := .scheduled, switchAt := some (s.tick + 1 + (if s.portOtn (s.linkPort k) then 20 else 1)) }
          else r)
      | _ => s
  s.pump k

/-- An acknowledgement (R236, R237). -/
def State.takeAck (s : State) (k id base map : Nat) : State :=
  let l := s.link k
  if l.frags.isEmpty ∨ id ≠ l.nextMsgId then s
  else
    let hit := fun (i : Nat) => decide (i < base) || (decide (base < i ∧ i ≤ base + 7) && bit map (i - base))
    let fresh := fun (i : Nat) (f : TxFrag) => hit i && !f.acked && decide (0 < f.sends)
    let news := (l.frags.zipIdx).filter (fun e => fresh e.2 e.1)
    let s := match news.getLast? with
      | some e => s.modLink k (fun l => { l with rtt := min 65535 (s.tick + 1 - e.1.first) })
      | none => s
    let fs := l.frags.zipIdx.map (fun e => if hit e.2 && decide (0 < e.1.sends) then { e.1 with acked := true } else e.1)
    let s := s.modLink k (fun l => { l with frags := fs })
    match (s.link k).outQ with
    | m :: _ => if fs.all (·.acked) then s.msgAcked k m else s.pump k
    | [] => s

/-- A message failed (R237): the session is told. A handshake then fails with TIMEOUT (R255). -/
def State.failMsg (s : State) (k : Nat) : State :=
  let l := s.link k
  match l.outQ with
  | m :: _ =>
    let s := ((s.count .kdl 0 8).kdlEvent F.kdlEvtMsgFailed k 5).endMsg k
    let own := fun (o : Option Session) => match o, m.session with
      | some x, some i => decide (x.idx = i) && x.inHandshake
      | _, _ => false
    let s := if own l.par then s.failSession k true 5 else if own l.cur then s.failSession k false 5 else s
    s.pump k
  | [] => s

/-! ### Control messages (R280) -/

/-- A stale message (R280). -/
def State.staleMsg (s : State) (k : Nat) : State := s.modLink k (fun l => { l with stale := satAdd 16 l.stale 1 })

/-- The checks 1 to 4 of R280 for a control message of `n` bytes: the session it belongs to, with generation g + 1
adopted where the message is its first (R273), or nothing where it is discarded. `untagged` admits an ABORT with no
control tag in states 1 to 4 (R244). -/
def State.controlCheck (s : State) (k : Nat) (m : List Byte) (n : Nat) (untagged : Bool := false) :
    State × Option (Bool × Session) :=
  match (s.link k).names m with
  | none => (s.discard, none)
  | some par => match (s.link k).ses par with
    | none => (s.discard, none)
    | some x =>
      let gen := beAt m 20 4
      let next := match x.pending with
        | some g => if gen = x.gen + 1 then some g else none
        | none => none
      let key := match next with
        | some g => g.2
        | none => x.kctl
      let tagged := bit (byteAt m 3) 0
      if !sizeOk m n then (s.discard, none)
      else if x.st ≠ .live ∧ !par ∧ !untagged then (s.discard, none)
      else if gen ≠ x.gen ∧ next.isNone then (s.staleMsg k, none)
      else if !tagged && !(untagged && x.inHandshake) then (s.discard, none)
      else if tagged && (key.isEmpty || decide (slice (controlTag key (m.take (n - 64))) 0 64 ≠ m.drop (n - 64))) then
        (s.discard, none)
      else if beAt m 24 4 < x.seqIn then (s.staleMsg k, none)
      else (s, some (par, match next with
        | some g => x.adopt g
        | none => x))

/-- A control message accepted (R279, R280). -/
def State.acceptControl (s : State) (k : Nat) (par : Bool) (x : Session) (m : List Byte) : State :=
  let x := { x with seqIn := beAt m 24 4 + 1, lastHeard := s.tick }
  s.modLink k (fun l => { l.setSes par (some x) with peerSilent := false })

/-- This side becomes the follower of a proposal (R266): an idle phase at another epoch is abandoned at once. -/
def State.follow (s : State) (k t peerCount : Nat) : State :=
  let s := forL (s.linkAssocs k) (fun a s =>
    let e := s.asn a
    onlyIf (decide (e.state = AState.rolling) && decide ((e.ph (!e.txPhase)).epoch ≠ t)) (fun s => s.abandonAsn a) s) s
  let n := (s.liveOf k).length
  let r : Roll := { stage := .keying, proposer := false, target := t, since := s.tick, peerCount := peerCount
                    installAt := some (s.tick + deriveTicks n), keys := n }
  s.modLink k (fun l => { l with roll := some r })

/-- A message of type `t` in flight withdrawn (R269, R274): the next message starts at once. -/
def State.withdrawType (s : State) (k t : Nat) : State := (s.withdrawAll k (fun m => decide (byteAt m.bytes 0 = t))).pump k

/-- ROLL_PROPOSE (R266, R268, R274, R280). -/
def State.onPropose (s : State) (k : Nat) (m : List Byte) : State :=
  match s.controlCheck k m 112 with
  | (s, none) => s
  | (s, some (par, x)) =>
    let t := beAt m 32 4
    let n := beAt m 36 4
    let l := s.link k
    if par then s.discard
    else if t ≤ l.epoch then s.staleMsg k
    else
      let s := s.acceptControl k par x m
      match l.roll with
      | none => s.follow k t n
      | some r =>
        if r.proposer then
          if r.stage = .keying ∨ r.stage = .proposed then
            if x.initiator then s.collide k else s.follow k t n
          else s.follow k t n
        else if r.target = t then
          let s := s.modRoll k (fun r => { r with peerCount := n })
          if r.stage = .keying then s else (s.countCheck k n r.rolled.length).sendRoll k 6 t r.rolled.length
        else (s.withdrawType k 6).follow k t n

/-- ROLL_READY (R268, R269): accepted for the held target, it schedules the switch and is acknowledged. -/
def State.onReady (s : State) (k : Nat) (m : List Byte) : State :=
  match s.controlCheck k m 112 with
  | (s, none) => s.dropAck k
  | (s, some (par, x)) =>
    match (s.link k).roll with
    | some r =>
      if par ∨ !r.proposer ∨ r.target ≠ beAt m 32 4 ∨ r.stage = .keying then (s.staleMsg k).dropAck k
      else
        let s := (s.acceptControl k par x m).releaseAck k
        if r.stage = .proposed then
          (s.countCheck k (beAt m 36 4) r.rolled.length).modRoll k (fun r =>
            { r with stage := .scheduled, switchAt := some (s.tick + (if s.portOtn (s.linkPort k) then 20 else 1)) })
        else s
    | none => (s.staleMsg k).dropAck k

/-- ROLL_DONE (R268, R280): one for the epoch switched to is accepted, and counts for the rollover that awaits it. -/
def State.onDone (s : State) (k : Nat) (m : List Byte) : State :=
  match s.controlCheck k m 112 with
  | (s, none) => s
  | (s, some (par, x)) =>
    let l := s.link k
    if par ∨ beAt m 32 4 ≠ l.epoch then s.staleMsg k
    else
      let s := s.acceptControl k par x m
      match l.roll with
      | some r =>
        if r.stage ≠ .switched ∧ r.stage ≠ .ended then s
        else
          let s := (s.countCheck k (beAt m 36 4) r.rolled.length).modRoll k (fun r => { r with peerDone := true })
          if r.doneSent then s.rollComplete k else s
      | none => s

/-- A REKEY request (R273, R274). -/
def State.onRekeyRequest (s : State) (k : Nat) (m : List Byte) : State :=
  match s.controlCheck k m 1704 with
  | (s, none) => s
  | (s, some (par, x)) =>
    if par ∨ byteAt m 32 ≠ 0 ∨ !Config.kemKeyOk (slice m 72 1568) then s.discard
    else
      let s := s.acceptControl k par x m
      let own := (s.link k).rekeySince.isSome || decide (x.goal = some .rekeyRequest)
      if own && x.initiator then s.collide k
      else
        let s := if own then
            let s := (s.withdrawAll k (fun m => decide (byteAt m.bytes 0 = 8))).dropLattice k false
            s.modLink k (fun l => { l with rekeySince := none })
          else s.dropLattice k false
        let s := s.modSes k false (fun x => { x with dk := [], ek := [], rekeyMsg := m, pending := none })
        (s.lattice k false [.encaps] .rekeyResponse).pump k

/-- A REKEY response (R273): the requester adopts generation g + 1, whose keys its decapsulation yields. -/
def State.onRekeyResponse (s : State) (k : Nat) (m : List Byte) : State :=
  match s.controlCheck k m 1704 with
  | (s, none) => s
  | (s, some (par, x)) =>
    if par ∨ byteAt m 32 ≠ 1 then s.discard
    else if (s.link k).rekeySince.isNone ∨ x.goal.isSome then s.staleMsg k
    else
      let s := (s.acceptControl k par x m).modSes k false (fun x => x.accepts m)
      (s.modLink k (fun l => { l with rekeySince := none })).lattice k false [.decaps] .rekeyAdopt

/-- KEEPALIVE (R243, R280). -/
def State.onKeepalive (s : State) (k : Nat) (m : List Byte) : State :=
  match s.controlCheck k m 104 with
  | (s, none) => s
  | (s, some (par, x)) =>
    if beAt m 32 8 < x.keepIn then s.staleMsg k
    else (s.acceptControl k par x m).modSes k par (fun x => { x with keepIn := beAt m 32 8 + 1 })

/-- ABORT (R283). -/
def State.onAbort (s : State) (k : Nat) (m : List Byte) : State :=
  match s.controlCheck k m 104 true with
  | (s, none) => s
  | (s, some (par, x)) =>
    let r := byteAt m 32
    let s := s.modLink k (fun l => { l with lastReason := r })
    let s := (s.count .kdl 0 11).kdlEvent F.kdlEvtAbortRcvd k r
    let s := onlyIf (decide (r = 2) && x.inHandshake) (fun s => s.wrEvt F.kdlRollLastPeerVersions (beAt m 34 2)) s
    if x.st = .live then s.endLive k 4 (fun s => s) else (s.closeSession k par).holdoff k par

/-! ### The inbox -/

/-- The oldest message kept, where it has type `t`, handled by `f` while the engine accepts messages (R229, R264); `f` says
whether it is done with. -/
def State.takeMsg (s : State) (k t : Nat) (f : State → List Byte → State × Bool) : State :=
  match (s.link k).inbox with
  | m :: rest =>
    if byteAt m 0 ≠ t || !s.kdlRuns then s
    else match f (s.modLink k (fun l => { l with inbox := rest })) m with
      | (s, true) => s
      | (s, false) => s.modLink k (fun l => { l with inbox := m :: l.inbox })
  | [] => s

/-- The same for a message of a named session. -/
def State.takeSesMsg (s : State) (k t : Nat) (f : State → Bool → Session → List Byte → State × Bool) : State :=
  s.takeMsg k t (fun s m => match (s.link k).names m with
    | some par => match (s.link k).ses par with
      | some x => f s par x m
      | none => (s.discard, true)
    | none => (s.discard, true))

/-- The same for a control message, which is always done with. -/
def State.takeControl (s : State) (k t : Nat) (f : State → List Byte → State) : State :=
  s.takeMsg k t (fun s m => (f s m, true))

/-! ### Lattice results (R262) -/

/-- The next operation of a user delivers; only the first four users have a unit. -/
def State.latDone (s : State) (u : LatUser) : State :=
  if !(s.kindle.lattice.take 4).contains u then s
  else
    let leave := fun (s : State) (u : LatUser) =>
      { s with kindle := { s.kindle with lattice := s.kindle.lattice.filter (fun v => decide (v ≠ u)) } }
    match u with
    | .attest => s.attestDone
    | .session k par => match (s.link k).ses par with
      | none => leave s u
      | some x => match x.ops with
        | [] => leave s u
        | op :: rest => match s.latDeliver k par x op with
          | (s, false) => s
          | (s, true) =>
            let par := s.parNow k par
            match (s.link k).ses par with
            | none => s
            | some y =>
              if y.idx ≠ x.idx then s
              else
                let s := s.modSes k par (fun x => { x with ops := rest, goal := if rest.isEmpty then none else x.goal })
                match rest, x.goal with
                | [], some g =>
                  let s := leave s (.session k par)
                  if g = .rekeyAdopt then
                    let s := s.modSes k par (fun x =>
                      { x.adopt (x.nextGen x.kr x.rekeyMsg x.rekeyResp) with gen := x.gen, rekeyResp := [] })
                    (s.modLink k (fun l => { l with wantRoll := true })).rollService k
                  else s.reachGoal k par g
                | _, _ => s

/-! ### Opening and closing by command (R255, R264, R275) -/

/-- A link sends its first message under a number that R237 does not state: a free value. -/
def State.firstMsgId (s : State) (k : Nat) : State :=
  if (s.link k).numbered then s
  else s.burn.modLink k (fun l => { l with numbered := true, nextMsgId := (s.free 16).toNat })

/-- A link enabled (R238, R255, R289). A message that had begun keeps its number (R237). -/
def State.linkEnabled (s : State) (k : Nat) : State :=
  let s := (s.firstMsgId k).modLink k (fun l => { l with
    nextMsgId := (l.nextMsgId + (if l.frags.isEmpty then 0 else 1)) % 65536
    rx := none, lastDone := none, ackDue := none, ackHold := none, inbox := [], outQ := [], frags := []
    rollsDone := 0, rollFailures := 0, stale := 0, collisions := 0 })
  onlyIf (s.on F.kdlLinkCfgStart 0 k) (fun s => s.tryOffer k false) s

/-- ABORT ADMIN on every session of a link, which is then CLOSED (R255), from HOLDOFF too. -/
def State.linkAborted (s : State) (k : Nat) : State :=
  let s := s.modLink k (fun l => { l with holdUntil := none })
  let s := match (s.link k).par with
    | some x => onlyIf x.entered (fun (s : State) => s.sendAbort k x 9) (s.closeSession k true)
    | none => s
  match (s.link k).cur with
  | some x => onlyIf x.entered (fun (s : State) => s.sendAbort k x 9) (s.closeSession k false)
  | none => s

/-- A link disabled (R255, R264): with a LIVE session its associations die at step 3 of this edge. -/
def State.linkDisabled (s : State) (k : Nat) : State :=
  let s := onlyIf (s.link k).live (fun s => s.killLink k 4 s.tick) s
  (s.linkAborted k).modLink k (fun l => { l with
    holdUntil := none, waitsCtx := false, outQ := [], frags := [], rx := none, inbox := [], ackDue := none, ackHold := none })

/-- A KDL_LINK_CFG copy reaches its edge: the link's word changes; the port only while the link is disabled, or with
the write that disables it (R228, R86). -/
def State.commitLinkCfg (s : State) (k : Nat) (w : Word) : State :=
  let key := keyOf F.kdlLinkCfgEnable 0 k
  let was := s.linkOn k
  let off := getF w 0 1 = 0
  let rival := (List.range 144).any (fun j => decide (j ≠ k) && s.linkOn j && decide (s.linkPort j = getF w 8 8))
  if !off && (rival || was && decide (getF w 8 8 ≠ s.linkPort k)) then s.kdlEvent F.kdlEvtCfgRejected k 0
  else if was && off then (s.linkDisabled k).setWord key w
  else
    let s := s.setWord key w
    if !was && !off then s.linkEnabled k
    else onlyIf (!off && s.on F.kdlLinkCfgStart 0 k && (s.link k).cur.isNone) (fun s => s.tryOffer k false) s

/-- A KDL_LINK_CFG write lands (R228): refused as a whole where it would enable a link on the port of another enabled
link, or change the port of an enabled one. -/
def State.landLinkCfg (s : State) (k : Nat) (w : Word) (cyc : Nat) : State :=
  let rival := (List.range 144).any (fun j => decide (j ≠ k) && s.linkOn j && decide (s.linkPort j = getF w 8 8))
  if getF w 0 1 = 1 ∧ (rival ∨ s.linkOn k ∧ getF w 8 8 ≠ s.linkPort k) then s.kdlEvent F.kdlEvtCfgRejected k 0
  else s.putCopy (keyOf F.kdlLinkCfgEnable 0 k) (w &&& 0xFF03) cyc

/-- A link that could not offer does so once a context is free and the engine may send (R229, R261). -/
def State.offerWaiting (s : State) (k : Nat) : State :=
  onlyIf (s.link k).waitsCtx (fun s => s.tryOffer k (s.link k).live) s

/-- CLEAR_HOLDOFF, or the end of a hold-off (R255, R256, R284). -/
def State.holdoffOver (s : State) (k : Nat) : State :=
  if (s.link k).holdUntil.isNone then s
  else
    let s := s.modLink k (fun l => { l with holdUntil := none })
    onlyIf (s.on F.kdlLinkCfgStart 0 k) (fun s => s.tryOffer k false) s

/-- What a command does to a link that is LIVE with nothing in progress; refused on any other (the paragraph on
KDL_LINK_CMD op 3 and op 4). -/
def State.ifQuiet (s : State) (k : Nat) (f : State → State) : State :=
  if (s.link k).quiet then f s else s.kdlEvent F.kdlEvtCfgRejected k 0

/-- KDL_LINK_CMD and KDL_LINK_ROLL_CMD act at their edge (R264, R289, R290). -/
def State.linkAct (s : State) (k op : Nat) : State :=
  match op with
  | 1 => onlyIf (s.linkOn k && (s.link k).cur.isNone) (fun s => s.tryOffer k false) s
  | 2 => s.linkAborted k
  | 3 => s.ifQuiet k (fun s => s.startRekey k)
  | 4 => s.ifQuiet k (fun s => s.tryOffer k true)
  | 5 => s.holdoffOver k
  | 6 => s.ifQuiet k (fun s => s.startRoll k)
  | _ => s

/-- A link command lands (R264): it acts on the link selected when it lands. -/
def State.landLinkCmd (s : State) (op cyc : Nat) : State :=
  s.schedule (s.edgeFor cyc) (.linkCmd (s.rd F.kdlLinkSelLink) op)

/-- A soft limit asks for a rollover (R163, R271, R281). -/
def State.softRoll (s : State) (a : Nat) : State :=
  if (s.asn a).state ≠ .live ∧ (s.asn a).state ≠ .rolling then s
  else match s.linkOfPort (s.asn a).port with
    | some k =>
      let l := s.link k
      let waiting := match l.roll with
        | some r => r.proposer && decide (r.stage = .keying ∨ r.stage = .proposed)
        | none => false
      if l.live && !waiting && decide ((s.asn a).state = .live) then
        (s.modLink k (fun l => { l with wantRoll := true })).rollService k
      else s
    | none => s

/-! ### The commands: carriage -/

/-- FRAGMENT_RECEIVED (R236, R238): kinds above 1 are discarded and counted; an acknowledgement has its own command. -/
def execFragmentReceived (k : LinkNo) (kind : Byte) (id : Fin 65536) (index count : Byte) (payload : List Byte)
    (cyc : Cyc) (s : State) : Host.Outcome State Fault Refusal :=
  let s := s.at cyc
  done (if !s.linkHears k then s
    else if kind = 0 then s.takeFragment k id index.toNat count.toNat payload
    else if kind = 1 then s.takeAck k id index.toNat count.toNat
    else s.count .kdl 0 5)

/-- ACK_RECEIVED (R237). -/
def execAckReceived (k : LinkNo) (id : Fin 65536) (base map : Byte) (cyc : Cyc) (s : State) :
    Host.Outcome State Fault Refusal :=
  let s := s.at cyc
  done (if s.linkHears k then s.takeAck k id base.toNat map.toNat else s)

/-- ACK_SEND (R238): at most one for a link in a tick. -/
def execAckSend (k : LinkNo) (s : State) : Host.Outcome State Fault Refusal :=
  let l := s.link k
  done (match l.ackDue with
    | some (id, base, map) => if s.linkSends k && decide (l.ackEdge ≤ s.tick) then s.sendAck k id base map else s
    | none => s)

/-- The edge at which a fragment's present interval ends (R237), and whether it has: one whose last byte still waits in
the GCC stream has not begun. -/
def State.fragDue (s : State) (f : TxFrag) : Nat := f.edge + s.retxTicks * 2 ^ (f.sends - 1)
def State.fragOver (s : State) (f : TxFrag) : Bool := decide (f.left = 0 ∧ s.fragDue f ≤ s.tick)

/-- FRAGMENT_RETRANSMIT (R237). -/
def execFragmentRetransmit (k : LinkNo) (index : Fin 35) (s : State) : Host.Outcome State Fault Refusal :=
  done (match (s.link k).frags[index.val]? with
    | some f =>
      if s.linkSends k && !f.acked && decide (0 < f.sends ∧ f.sends < s.retxTries) && s.fragOver f then
        s.sendIndex k index
      else s
    | none => s)

/-- FRAGMENT_RETRIES_EXHAUSTED (R237). -/
def execFragmentRetriesExhausted (k : LinkNo) (index : Fin 35) (s : State) : Host.Outcome State Fault Refusal :=
  done (match (s.link k).frags[index.val]? with
    | some f => if !f.acked && decide (s.retxTries ≤ f.sends) && s.fragOver f then s.failMsg k else s
    | none => s)

/-- MESSAGE_TIMEOUT (R237). -/
def execMessageTimeout (k : LinkNo) (s : State) : Host.Outcome State Fault Refusal :=
  let l := s.link k
  done (if !l.frags.isEmpty ∧ l.txFrom + s.msgTimeout ≤ s.tick then s.failMsg k else s)

/-! ### The commands: messages -/

/-- OFFER (R255). -/
def execOffer (k : LinkNo) (s : State) : Host.Outcome State Fault Refusal :=
  done (s.takeMsg k 1 (fun s m => s.onOffer k m))
/-- ANSWER (R255). -/
def execAnswer (k : LinkNo) (s : State) : Host.Outcome State Fault Refusal :=
  done (s.takeSesMsg k 2 (fun s par x m => (s.onAnswer k par x m, true)))
/-- PROOF (R255). -/
def execProof (k : LinkNo) (s : State) : Host.Outcome State Fault Refusal :=
  done (s.takeSesMsg k 3 (fun s par x m => s.onProof k par x m))
/-- CONFIRM (R255, R259): one that fails its check is not acknowledged. -/
def execConfirm (k : LinkNo) (s : State) : Host.Outcome State Fault Refusal :=
  done (s.takeSesMsg k 4 (fun s par x m =>
    match s.onConfirm k par x m with
    | (s, false) => (s, false)
    | (s, true) => (match (s.link k).ses par with
      | some y => if y.peerConfirmed then s else s.dropAck k
      | none => s.dropAck k, true)))
/-- ROLL_PROPOSE (R266). -/
def execRollPropose (k : LinkNo) (s : State) : Host.Outcome State Fault Refusal :=
  done (s.takeControl k 5 (fun s m => s.onPropose k m))
/-- ROLL_READY (R269). -/
def execRollReady (k : LinkNo) (s : State) : Host.Outcome State Fault Refusal :=
  done (s.takeControl k 6 (fun s m => s.onReady k m))
/-- ROLL_DONE (R268). -/
def execRollDone (k : LinkNo) (s : State) : Host.Outcome State Fault Refusal :=
  done (s.takeControl k 7 (fun s m => s.onDone k m))
/-- REKEY_REQUEST (R273): the oldest message, where it is a REKEY of step 0 (or of a reserved step, discarded). -/
def execRekeyRequest (k : LinkNo) (s : State) : Host.Outcome State Fault Refusal :=
  done (s.takeMsg k 8 (fun s m => if byteAt m 32 = 1 then (s, false) else (s.onRekeyRequest k m, true)))
/-- REKEY_RESPONSE (R273). -/
def execRekeyResponse (k : LinkNo) (s : State) : Host.Outcome State Fault Refusal :=
  done (s.takeMsg k 8 (fun s m => if byteAt m 32 = 1 then (s.onRekeyResponse k m, true) else (s, false)))
/-- ABORT (R283). -/
def execAbort (k : LinkNo) (s : State) : Host.Outcome State Fault Refusal :=
  done (s.takeControl k 9 (fun s m => s.onAbort k m))
/-- KEEPALIVE (R280). -/
def execKeepalive (k : LinkNo) (s : State) : Host.Outcome State Fault Refusal :=
  done (s.takeControl k 10 (fun s m => s.onKeepalive k m))

/-! ### The commands: the engine's own work -/

/-- LATTICE_OP_DONE (R262): of a session, current or parallel, of a link, or of the running attestation. -/
def execLatticeOpDone (link : Option LinkNo) (par : Bool) (s : State) : Host.Outcome State Fault Refusal :=
  done (s.latDone (match link with
    | some k => .session k.val par
    | none => .attest))

/-- KEY_DERIVE_DONE (R251, R257, R268): keys whose time is up are derived; the installs follow at the next edge. -/
def execKeyDeriveDone (k : LinkNo) (s : State) : Host.Outcome State Fault Refusal := done (s.deriveLink k)

/-- PHASE0_INSTALL (R259). -/
def execPhase0Install (k : LinkNo) (s : State) : Host.Outcome State Fault Refusal := done (s.phase0Install k)

/-- SESSION_LIVE (R259). -/
def execSessionLive (k : LinkNo) (s : State) : Host.Outcome State Fault Refusal :=
  done (onlyIf (decide (s.cycle = 0)) (fun s => (s.sessionLive k).liveStep) s)

/-- KEY_PHASE_SWITCH (R159, R268): the switch of a link whose switch edge has come. -/
def execKeyPhaseSwitch (k : LinkNo) (s : State) : Host.Outcome State Fault Refusal := done (s.rollSwitch k)

/-- OVERLAP_END (R159, R268). -/
def execOverlapEnd (k : LinkNo) (s : State) : Host.Outcome State Fault Refusal := done (s.rollOverlap k)

/-- STATE_TIMEOUT (R255): of the current or the parallel session. -/
def execStateTimeout (k : LinkNo) (par : Bool) (s : State) : Host.Outcome State Fault Refusal :=
  done (match (s.link k).ses par with
    | some x => if x.inHandshake && x.entered && decide (x.since + s.msgTimeout ≤ s.tick) then s.failSession k par 5 else s
    | none => s)

/-- HOLDOFF_END (R284). -/
def execHoldoffEnd (k : LinkNo) (s : State) : Host.Outcome State Fault Refusal :=
  done (match (s.link k).holdUntil with
    | some e => if e ≤ s.tick then s.holdoffOver k else s
    | none => s)

/-- CONTEXT_FREED (R261). -/
def execContextFreed (k : LinkNo) (s : State) : Host.Outcome State Fault Refusal :=
  done (s.offerWaiting k)

/-- KEEPALIVE_TIMER (R243). -/
def execKeepaliveTimer (k : LinkNo) (s : State) : Host.Outcome State Fault Refusal :=
  done (match (s.link k).cur with
    | some x =>
      if x.st = .live ∧ s.kdlRuns ∧ x.goal ≠ some .rekeyAdopt ∧ x.lastSent + s.keepaliveTicks ≤ s.tick then
        (s.sessionSends k false (fun x => x.tagged 10 x.epoch (beBytes 8 x.keepOut))).modSes k false
          (fun x => { x with keepOut := x.keepOut + 1 })
      else s
    | none => s)

/-- PEER_SILENT (R279). -/
def execPeerSilent (k : LinkNo) (s : State) : Host.Outcome State Fault Refusal :=
  let l := s.link k
  let n := max 1 (s.rd F.kdlLinkRollCfgSilenceMult 0 k) * s.keepaliveTicks
  done (match l.cur with
    | some x =>
      if x.st = .live ∧ !l.peerSilent ∧ x.lastHeard + n ≤ s.tick then
        let s := (s.modLink k (fun l => { l with peerSilent := true })).rollEvent F.kdlRollEvtPeerSilent k
        onlyIf (s.on F.kdlLinkCfgStart 0 k) (fun s => s.tryOffer k true) s
      else s
    | none => s)

/-- The interval of a timer of R272 on this side, none where it is disabled. -/
def Session.interval (x : Session) (n lo hi : Nat) : Option Nat :=
  if n = 0 then none else some (2 ^ clamp lo hi n * (if x.initiator then 1 else 2))

/-- REKEY_TIMER (R272). -/
def execRekeyTimer (k : LinkNo) (s : State) : Host.Outcome State Fault Refusal :=
  let l := s.link k
  done (match l.cur with
    | some x => match x.interval (s.rd F.kdlTmr1RekeyLog2) 16 40 with
      | some n =>
        if x.st = .live ∧ !l.rekeying ∧ x.oldSecret.isEmpty ∧ x.rekeyFrom + n ≤ s.tick then
          (s.modLink k (fun l => { l with wantRekey := true })).rollService k
        else s
      | none => s
    | none => s)

/-- REAUTH_TIMER (R272, R275). -/
def execReauthTimer (k : LinkNo) (s : State) : Host.Outcome State Fault Refusal :=
  done (match (s.link k).cur with
    | some x => match x.interval (s.rd F.kdlTmr1ReauthLog2) 20 48 with
      | some n =>
        if x.st = .live ∧ !x.reauthed ∧ x.liveAt + n ≤ s.tick then
          (s.modSes k false (fun x => { x with reauthed := true })).tryOffer k true
        else s
      | none => s
    | none => s)

/-- ROLL_TIMEOUT (R281). -/
def execRollTimeout (k : LinkNo) (s : State) : Host.Outcome State Fault Refusal :=
  done (match (s.link k).roll with
    | some r =>
      if r.proposer ∧ r.stage = .proposed ∧ r.since + s.rollTimeout ≤ s.tick then
        match s.rollFailure k r.rolled with
        | (s, true) => s.escalate k
        | (s, false) => (s.modRoll k (fun r => { r with since := s.tick })).sendRoll k 5 r.target r.rolled.length
      else s
    | none => s)

/-- REKEY_TIMEOUT (R273). -/
def execRekeyTimeout (k : LinkNo) (s : State) : Host.Outcome State Fault Refusal :=
  done (match (s.link k).rekeySince with
    | some e =>
      if e + s.rollTimeout ≤ s.tick then
        match s.rollFailure k [] with
        | (s, true) => s.escalate k
        | (s, false) => ((s.modLink k (fun l => { l with rekeySince := none })).dropLattice k false).startRekey k
      else s
    | none => s)

/-- DONE_MISSING (R282). -/
def execDoneMissing (k : LinkNo) (s : State) : Host.Outcome State Fault Refusal :=
  done (match (s.link k).roll with
    | some r =>
      if (r.stage = .switched ∨ r.stage = .ended) ∧ !r.peerDone ∧ r.switchDue + s.rollTimeout ≤ s.tick then
        let s := s.rollEvent F.kdlRollEvtDoneMissing k
        let s := onlyIf (!r.doneSent) (fun s => s.modLink k (fun l =>
          { l with lateDone := some (r.overlapEnd, r.target, r.rolled.length) })) s
        s.rollComplete k
      else s
    | none => s)

/-! ### The commands: registers -/

/-- LINK_ENABLE (R255): KDL_LINK_CFG of the selected link. -/
def execLinkEnable (start : Bool) (port : Byte) (cyc : Cyc) (s : State) : Host.Outcome State Fault Refusal :=
  done ((s.at cyc).gate .kdl 0 (fun s =>
    s.landLinkCfg (s.rd F.kdlLinkSelLink) (BitVec.ofNat 32 (1 + 2 * b2n start + 256 * port.toNat)) cyc))
/-- LINK_DISABLE (R255). -/
def execLinkDisable (start : Bool) (cyc : Cyc) (s : State) : Host.Outcome State Fault Refusal :=
  done ((s.at cyc).gate .kdl 0 (fun s =>
    let k := s.rd F.kdlLinkSelLink
    s.landLinkCfg k (BitVec.ofNat 32 (2 * b2n start + 256 * s.linkPort k)) cyc))
/-- LINK_START (R255). -/
def execLinkStart (cyc : Cyc) (s : State) : Host.Outcome State Fault Refusal :=
  done ((s.at cyc).gate .kdl 0 (fun s => s.landLinkCmd 1 cyc))
/-- LINK_ABORT (R255). -/
def execLinkAbort (cyc : Cyc) (s : State) : Host.Outcome State Fault Refusal :=
  done ((s.at cyc).gate .kdl 0 (fun s => s.landLinkCmd 2 cyc))
/-- LINK_REKEY (R271). -/
def execLinkRekey (cyc : Cyc) (s : State) : Host.Outcome State Fault Refusal :=
  done ((s.at cyc).gate .kdl 0 (fun s => s.landLinkCmd 3 cyc))
/-- LINK_REAUTH (R275). -/
def execLinkReauth (cyc : Cyc) (s : State) : Host.Outcome State Fault Refusal :=
  done ((s.at cyc).gate .kdl 0 (fun s => s.landLinkCmd 4 cyc))
/-- CLEAR_HOLDOFF (R284). -/
def execClearHoldoff (cyc : Cyc) (s : State) : Host.Outcome State Fault Refusal :=
  done ((s.at cyc).gate .kdl 0 (fun s => s.landLinkCmd 5 cyc))
/-- LINK_ROLL (R271). -/
def execLinkRoll (cyc : Cyc) (s : State) : Host.Outcome State Fault Refusal :=
  done ((s.at cyc).gate .kdl 0 (fun s => s.landLinkCmd 6 cyc))

end Sys2Proof.Machine
end

