-- ==== Sys2Proof/Machine/Sealed.lean ====
section
/-! DEFINITION. Sealed external memory (R364 to R384): regions and their layout, lines and their counter tree, rekey
sweeps, poison, and the CXL link. -/

namespace Sys2Proof.Machine

open Sys2Proof

/-! ### Layout (R371) -/

/-- Data lines of a size in 256 MiB units. -/
def dataLines (size : Nat) : Nat := size * 2 ^ 22
/-- Nodes of level `k` over `n` data lines. -/
def levelNodes (n k : Nat) : Nat := ceilDiv n (16 ^ (k + 1))
/-- h: the least number for which level h − 1 holds at most 256 nodes. -/
def treeHeight (n : Nat) : Nat := ((List.range 9).find? (fun h => decide (1 ≤ h) && decide (levelNodes n (h - 1) ≤ 256))).getD 8
/-- The footprint in MiB of a kind and size (R371, R375). -/
def footMib (kind size : Nat) : Nat :=
  if kind = 1 then 256 * size
  else
    let n := dataLines size
    let nodes := ((List.range (treeHeight n)).map (fun k => levelNodes n k)).sum
    ceilDiv (64 * n + 8 * n + 64 * nodes) (2 ^ 20)

/-! ### Regions (R367 to R370) -/

/-- Region `r`. -/
def State.region (s : State) (r : Nat) : Region := nget {} s.regions r
/-- The state with it changed by `f`. -/
def State.modRegion (s : State) (r : Nat) (f : Region → Region) : State :=
  { s with regions := nset {} s.regions r (f (s.region r)) }
/-- Region `r` is enabled. -/
def State.regionOn (s : State) (r : Nat) : Bool := s.on F.cxmRcfgEnable 0 r
/-- Region `r` is scrambled. -/
def State.scrambled (s : State) (r : Nat) : Bool := s.on F.cxmRcfgKind 0 r
/-- The data lines of region `r`, the height of its tree and its groups. -/
def State.linesOf (s : State) (r : Nat) : Nat := dataLines (s.rd F.cxmRcfgSize 0 r)
def State.heightOf (s : State) (r : Nat) : Nat := treeHeight (s.linesOf r)
def State.groupsOf (s : State) (r : Nat) : Nat := s.linesOf r / 16

/-- A CXM event naming a region (R384). -/
def State.cxmEvent (s : State) (f : Fld) (r : Nat) : State :=
  ((s.wrEvt F.cxmLastRegion r).wrEvt F.cxmLastBit f.lo).event f

/-- A CXM_RCFG or CXM_RBASE write is refused (R367, R368, R370). -/
def State.refuseRegion (s : State) (r : Nat) : State := s.wr F.cxmRstatCfgRejected 1 0 r

/-- Whether a consumer field in effect names region `r` (R369, R370). -/
def State.regionNamed (s : State) (r : Nat) : Bool :=
  (s.on F.hrtSpillValid && decide (s.rd F.hrtSpillRegion = r)) ||
  (s.on F.kdlStoreValid && decide (s.rd F.kdlStoreRegion = r)) ||
  (s.on F.evrDeepValid && decide (s.rd F.evrDeepRegion = r)) ||
  (s.on F.pmcArchValid && decide (s.rd F.pmcArchRegion = r))

/-- Whether a consumer of a uses bit may name region `r` (R369): permitted, of a kind allowed, and ready. -/
def State.regionServes (s : State) (r use : Nat) : Bool :=
  bit (s.rd F.cxmRcfgUses 0 r) use && (decide (use = 4) || !s.scrambled r) && decide ((s.region r).state = 2)

/-- The enabled regions other than `r`. -/
def State.otherRegions (s : State) (r : Nat) : List Nat := (List.range 16).filter (fun q => decide (q ≠ r) && s.regionOn q)

/-- Whether the enable of region `r` with a CXM_RCFG word and a base is refused (R368). -/
def State.enableRefused (s : State) (r : Nat) (w : Word) (base : Nat) : Bool :=
  let kind := getF w 1 1
  let size := getF w 8 11
  let foot := footMib kind size
  let others := s.otherRegions r
  decide (s.rd F.cxmLinkState ≠ 2) || decide (size = 0 ∨ 2048 < size) ||
    decide (1024 * s.rd F.cxmLinkCapacityGib < base + foot) ||
    others.any (fun q =>
      let b := s.rd F.cxmRbaseBaseMib 0 q
      let f := footMib (s.rd F.cxmRcfgKind 0 q) (s.rd F.cxmRcfgSize 0 q)
      decide (base < b + f ∧ b < base + foot)) ||
    decide (2048 < size + (others.map (fun q => s.rd F.cxmRcfgSize 0 q)).sum) ||
    (decide (kind = 1) && decide (getF w 24 5 ≠ 0 ∧ getF w 24 5 ≠ 16))

/-- The bits of CXM_RCFG. -/
def rcfgMask : Word := 0x1F07FF03

/-- Whether a CXM_RCFG word is refused for region `r` (R367, R368, R370). -/
def State.rcfgRefused (s : State) (r : Nat) (w : Word) (base : Nat) : Bool :=
  if getF w 0 1 = 1 then
    if s.regionOn r then decide (w &&& rcfgMask ≠ s.word (keyOf F.cxmRcfgEnable 0 r)) else s.enableRefused r w base
  else s.regionOn r && s.regionNamed r

/-- A CXM_RCFG write lands on region `r`. -/
def State.landRcfg (s : State) (r : Nat) (w : Word) (cyc : Nat) : State :=
  let base := match s.copyOf (keyOf F.cxmRbaseBaseMib 0 r) with
    | some b => getF b 0 20
    | none => s.rd F.cxmRbaseBaseMib 0 r
  if s.rcfgRefused r w base then s.refuseRegion r else s.putCopy (keyOf F.cxmRcfgEnable 0 r) (w &&& rcfgMask) cyc

/-- A CXM_RCFG copy reaches its edge (R367, R368, R370): an enable draws the region's keys; a disable leaves nothing. -/
def State.commitRcfg (s : State) (r : Nat) (w : Word) : State :=
  let was := s.regionOn r
  let k := keyOf F.cxmRcfgEnable 0 r
  if s.rcfgRefused r w (s.rd F.cxmRbaseBaseMib 0 r) then s.refuseRegion r
  else
    let s := s.setWord k (w &&& rcfgMask)
    if getF w 0 1 = 1 then
      if was then s
      else
        let (s, m) := s.draw 64
        s.modRegion r (fun _ => { state := if s.scrambled r then 2 else 1
                                  kEnc := keyOfBytes m, kMac := keyOfBytes (m.drop 32) })
    else if was then
      let s := s.modRegion r (fun _ => {})
      forN 64 (fun e s =>
        if s.on (F.cxmPoison0Valid.at e 8) && decide (s.rd (F.cxmPoison0Region.at e 8) = r) then
          (s.setWord (keyOf (F.cxmPoison0Valid.at e 8)) 0).setWord (keyOf (F.cxmPoison1Index.at e 8)) 0
        else s) s
    else s

/-- A CXM_RBASE write lands, and reaches its edge (R367): only while the region is disabled. -/
def State.landRbase (s : State) (r : Nat) (w : Word) (cyc : Nat) : State :=
  if s.regionOn r then s.refuseRegion r else s.putCopy (keyOf F.cxmRbaseBaseMib 0 r) (w &&& 0xFFFFF) cyc
def State.commitRbase (s : State) (r : Nat) (w : Word) : State :=
  if s.regionOn r then s.refuseRegion r else s.setWord (keyOf F.cxmRbaseBaseMib 0 r) (w &&& 0xFFFFF)

/-! ### Counters and keys (R372, R373, R376) -/

/-- The key of node `j` of level `k`, and of counter `c` of level `k`. -/
def nodeKey (k j : Nat) : Nat := k * 2 ^ 40 + j
/-- Counter `c` of level `k`: level 0 counts lines; counter j of level k + 1 guards node j of level k. -/
def Region.ctr (x : Region) (k c : Nat) : Nat := nget 0 x.counters (nodeKey k c)
/-- The region with that counter replaced. -/
def Region.setCtr (x : Region) (k c v : Nat) : Region := { x with counters := nset 0 x.counters (nodeKey k c) v }

/-- Whether line `i` is under the newest keys (R376). -/
def Region.lineNew (x : Region) (i : Nat) : Bool := !x.sweep || decide (i / 16 < x.pointer) || x.early.contains (i / 16)
/-- Whether node `j` of level `k` is, in a region of `g` groups (R376, R377). -/
def Region.nodeNew (x : Region) (g k j : Nat) : Bool :=
  !x.sweep || (decide (k = 0) && x.early.contains j) || decide (min ((j + 1) * 16 ^ k) g ≤ x.pointer)

/-- The keys K_enc and K_mac of an object, the newest or the old ones. -/
def Region.keys (x : Region) (newest : Bool) : BitVec 256 × BitVec 256 :=
  if newest then (x.kEnc, x.kMac) else (x.oldEnc, x.oldMac)

/-- The nonce of an object (R373): whether it is a node, its region, index and counter. -/
def lineNonce (node : Bool) (r index c : Nat) : BitVec 96 :=
  BitVec.ofNat 96 (((b2n node * 2 ^ 4 + r % 16) * 2 ^ 36 + index % 2 ^ 36) * 2 ^ 55 + (c % 2 ^ 28) * 2 ^ 27)

/-- A line enciphered or deciphered (R373). -/
def lineCrypt (key : BitVec 256) (nonce : BitVec 96) (bs : List Byte) : List Byte :=
  streamXor key (fun b => gcmCounter nonce (b + 1)) bs
/-- The tag of a ciphertext, or the MAC of the counters of a node: the leftmost 64 bits of GMAC (R373). -/
def lineTag (key : BitVec 256) (nonce : BitVec 96) (bs : List Byte) : List Byte := (gcmTag key nonce bs []).take 8

/-- The threshold at which a sweep falls due (R376), and the value at which a counter can rise no more (R379). -/
def sweepThreshold : Nat := 2 ^ 28 - 2 ^ 20
def counterTop : Nat := 2 ^ 28 - 1

/-- A counter has been written as `v` (R376, R378, R384). -/
def Region.written (x : Region) (newest : Bool) (v : Nat) : Region :=
  { x with due := x.due || (newest && decide (v = sweepThreshold))
           maxc := if newest then max x.maxc v else x.maxc }

/-! ### Poison (R380, R381) -/

/-- Whether entry `e` of CXM_POISON covers line `i` of region `r`. -/
def State.entryCovers (s : State) (e r i : Nat) : Bool :=
  let at_ := s.rd (F.cxmPoison1Index.at e 8) + 2 ^ 32 * s.rd (F.cxmPoison0IndexHi.at e 8)
  s.on (F.cxmPoison0Valid.at e 8) && decide (s.rd (F.cxmPoison0Region.at e 8) = r) &&
    (match s.rd (F.cxmPoison0Scope.at e 8) with
     | 0 => decide (at_ = i)
     | 1 => decide (at_ = i / 8)
     | 2 => decide (at_ = i / 16 ^ (s.rd (F.cxmPoison0Level.at e 8) + 1))
     | _ => true)

/-- Whether line `i` of region `r` lies in a poisoned scope. -/
def State.poisoned (s : State) (r i : Nat) : Bool :=
  decide ((s.region r).state = 3) || (List.range 64).any (fun e => s.entryCovers e r i)

/-- A session whose context is lost (R381): ABORT NO_RESOURCE and CLOSED, with no hold-off. -/
def State.abandonContext (s : State) (c : Nat) : State :=
  forL (s.kindle.links.map (·.1)) (fun k s =>
    forL [false, true] (fun par s =>
      match (s.link k).ses par with
      | some x =>
        if x.inHandshake && decide (x.ctx = c) then
          let s := (s.closeSession k par).sendAbort k x 8
          onlyIf (!par && s.on F.kdlLinkCfgStart 0 k) (fun s => s.modLink k (fun l => { l with waitsCtx := true })) s
        else s
      | none => s) s) s

/-- The consumers of a poisoned scope act (R381): queues with spilled frames in it are flushed from cycle 0 of the next
tick, and sessions whose contexts lie in it are abandoned. -/
def State.poisonConsumers (s : State) (r : Nat) (queues contexts : List Nat) : State :=
  let spill := s.on F.hrtSpillValid && decide (s.rd F.hrtSpillRegion = r)
  let store := s.on F.kdlStoreValid && decide (s.rd F.kdlStoreRegion = r)
  let s := onlyIf spill (fun s => forL queues (fun q s =>
    onlyIf (s.hearth.frames.any (fun f => decide (f.queue = q ∧ f.place = .region)))
      (fun s => s.schedule (s.tick + 1) (.queueFlush q)) s) s) s
  onlyIf store (fun s => forL (contexts.filter (fun c => decide (32 ≤ c))) (fun c s => s.abandonContext c) s) s

/-- The whole of region `r` is poisoned, with or without an entry (R380). -/
def State.poisonWhole (s : State) (r : Nat) : State :=
  let s := s.modRegion r (fun x => { x with state := 3 })
  s.poisonConsumers r (s.hearth.frames.map (·.queue)).eraseDups s.contexts

/-- A scope is poisoned (R380): 0 a data line, 1 a tag line, 2 the subtree of a node, 3 the whole region. With all 64
entries in use, the whole region is. -/
def State.poison (s : State) (r scope level index : Nat) (queues contexts : List Nat) : State :=
  let s := (s.count .cxm 0 12).cxmEvent F.cxmEvtPoisoned r
  match (List.range 64).find? (fun e => !s.on (F.cxmPoison0Valid.at e 8)) with
  | none => s.poisonWhole r
  | some e =>
    let s := s.setWord (keyOf (F.cxmPoison0Valid.at e 8))
      (BitVec.ofNat 32 (1 + 2 * r + 32 * scope + 128 * level + 1024 * (index / 2 ^ 32 % 2)))
    let s := s.setWord (keyOf (F.cxmPoison1Index.at e 8)) (BitVec.ofNat 32 index)
    if scope = 3 then s.poisonWhole r else s.poisonConsumers r queues contexts

/-- A tag or node MAC that does not hold (R380): source SEALED_MEM fires, CXM_EVT.integrity is set. -/
def State.integrity (s : State) (r : Nat) : State :=
  ((s.count .cxm 0 13).cxmEvent F.cxmEvtIntegrity r).tamperFire 22

/-! ### The node cache and the tree (R374, R379) -/

/-- Nodes held by the cache, of all regions. -/
def State.cachedNodes (s : State) : Nat := (s.regions.map (fun e => e.2.cached.length)).sum
/-- Dirty nodes that cannot be written back (R379). -/
def State.heldNodes (s : State) : Nat :=
  (s.regions.map (fun e => (e.2.cached.filter (fun n => decide (n.2 = 2) &&
    decide (n.1 / 2 ^ 40 + 1 < s.heightOf e.1) &&
    decide (e.2.ctr (n.1 / 2 ^ 40 + 1) (n.1 % 2 ^ 40) = counterTop))).length)).sum

/-- How the cache holds node `j` of level `k`: 0 not at all, 1 clean, 2 dirty. -/
def Region.cache (x : Region) (k j : Nat) : Nat := nget 0 x.cached (nodeKey k j)
/-- The region with that changed. -/
def Region.setCache (x : Region) (k j v : Nat) : Region := { x with cached := nset 0 x.cached (nodeKey k j) v }

/-- The cache evicts a node (R374): a dirty one is written back, which raises its guarding counter. A node with a child
in the cache stays, and so does one whose guarding counter can rise no more (R379). -/
def State.evict (s : State) (r k j : Nat) : State :=
  let x := s.region r
  let h := s.heightOf r
  let child := decide (0 < k) && (List.range 16).any (fun i => decide (x.cache (k - 1) (16 * j + i) ≠ 0))
  let g := x.ctr (k + 1) j
  if x.cache k j = 0 ∨ child = true then s
  else if x.cache k j = 1 then s.modRegion r (fun x => x.setCache k j 0)
  else if k + 1 < h ∧ g = counterTop then s
  else
    let s := s.modRegion r (fun x =>
      let x := ((x.setCache k j 0).setCtr (k + 1) j (g + 1)).written (x.nodeNew (s.groupsOf r) k j) (g + 1)
      if k + 1 < h then x.setCache (k + 1) (j / 16) 2 else x)
    s.count .cxm 0 7

/-- The counters of node `j` of level `k` as they are stored: 56 bytes (R372). -/
def Region.nodeBody (x : Region) (k j : Nat) : List Byte :=
  leBytes 56 (((List.range 16).map (fun i => x.ctr k (16 * j + i) % 2 ^ 28 * 2 ^ (28 * i))).sum)

/-- The MAC of a node whose counters are `body` (R373). -/
def State.nodeMac (s : State) (r k j : Nat) (body : List Byte) : List Byte :=
  let x := s.region r
  lineTag (x.keys (x.nodeNew (s.groupsOf r) k j)).2 (lineNonce true r (k * 2 ^ 33 + j) (x.ctr (k + 1) j)) body

/-- Nodes read and verified down to the leaf of line `i`, from level `k` − 1 (R374, R380): false where one is poisoned.
Bytes other than those last written are taken where their MAC holds. -/
def State.fetchNodes (r i : Nat) (q : LineIn) : Nat → List MemAns → State → State × Bool
  | 0, _, s => (s, true)
  | k + 1, ans, s =>
    let j := i / 16 ^ (k + 1)
    let s := s.count .cxm 0 6
    let bad := fun (s : State) =>
      s.poison r 2 k j (q.queues.map (·.val)) (q.contexts.map (·.val))
    match ans.headD .asWritten with
    | .poison => (bad s, false)
    | .asWritten => State.fetchNodes r i q k ans.tail (s.modRegion r (fun x => x.setCache k j 1))
    | .other bs =>
      let body := slice bs 0 56
      if slice bs 56 8 = s.nodeMac r k j body then
        let v := leNat body
        let s := s.modRegion r (fun x =>
          (forN 16 (fun c x => x.setCtr k (16 * j + c) (v / 2 ^ (28 * c) % 2 ^ 28)) x).setCache k j 1)
        State.fetchNodes r i q k ans.tail s
      else (bad (s.integrity r), false)

/-- The leaf of line `i` brought into the cache: true where the access goes on, false where it waits for room or met
poison. -/
def State.getLeaf (s : State) (r i : Nat) (q : LineIn) : State × Bool :=
  let s := forL q.evict (fun e s => s.evict e.1 e.2.1 e.2.2) s
  let h := s.heightOf r
  let from_ := ((List.range h).find? (fun k => decide ((s.region r).cache k (i / 16 ^ (k + 1)) ≠ 0))).getD h
  if from_ = 0 then (s.count .cxm 0 5, true)
  else if 32768 < s.cachedNodes + from_ then (s, false)
  else State.fetchNodes r i q from_ q.nodes s

/-! ### Sweeps (R376 to R379) -/

/-- Whether group `g` of region `r` lies in a poisoned subtree. -/
def State.groupPoisoned (s : State) (r g : Nat) : Bool :=
  (List.range 64).any (fun e => decide (2 ≤ s.rd (F.cxmPoison0Scope.at e 8)) && s.entryCovers e r (16 * g))

/-- Line `i` with its ciphertext under the old keys enciphered again under the new ones, its counter then 1. -/
def Region.rekeyLine (x : Region) (r i : Nat) (ct : List Byte) : List Byte × List Byte :=
  let plain := lineCrypt x.oldEnc (lineNonce false r i (x.ctr 0 i)) ct
  let n := lineNonce false r i 1
  let c := lineCrypt x.kEnc n plain
  (c, lineTag x.kMac n c)

/-- The groups of a range pass to the new keys (R376, R377): the counters that guard what passes restart at 0, and a
written line is written again. Groups moved early stay as they are; a poisoned group keeps nothing. -/
def Region.pass (x : Region) (r total : Nat) (lost moves : Nat → Bool) (upTo : Nat) : Region :=
  let lines := x.lines.filterMap (fun e =>
    if moves (e.1 / 16) then (if lost (e.1 / 16) then none else some (e.1, x.rekeyLine r e.1 e.2.1)) else some e)
  let counters := x.counters.filterMap (fun e =>
    let k := e.1 / 2 ^ 40
    let c := e.1 % 2 ^ 40
    if k = 0 then (if moves (c / 16) then (if lost (c / 16) then none else some (e.1, 1)) else some e)
    else if k = 1 then (if moves c then none else some e)
    else
      let last := min ((c + 1) * 16 ^ (k - 1)) total
      if x.pointer < last ∧ last ≤ upTo then none else some e)
  { x with lines := lines, counters := counters
           maxc := if counters.any (fun e => decide (e.1 < 2 ^ 40) && moves (e.1 / 16)) then max x.maxc 1 else x.maxc }

/-- Where a sweep with `budget` groups to move gets to, and the groups it moved: ranges of groups passed at no cost are
jumped. The fuel bounds the ranges. -/
def sweepTo (total : Nat) (free : List (Nat × Nat)) : Nat → Nat → Nat → Nat × Nat
  | 0, g, _ => (g, 0)
  | fuel + 1, g, budget =>
    if total ≤ g then (total, 0)
    else match free.find? (fun e => decide (e.1 ≤ g ∧ g < e.2)) with
      | some e => sweepTo total free fuel (min total e.2) budget
      | none =>
        if budget = 0 then (g, 0)
        else
          let next := free.foldl (fun m e => if g < e.1 ∧ e.1 < m then e.1 else m) total
          let n := min budget (next - g)
          let (g', m) := sweepTo total free fuel (g + n) (budget - n)
          (g', m + n)

/-- The ranges of groups that the sweep of region `r` passes at no cost (R377). -/
def State.freeRanges (s : State) (r : Nat) : List (Nat × Nat) :=
  (s.region r).early.map (fun g => (g, g + 1)) ++
  (List.range 64).filterMap (fun e =>
    if s.on (F.cxmPoison0Valid.at e 8) && decide (s.rd (F.cxmPoison0Region.at e 8) = r) &&
        decide (s.rd (F.cxmPoison0Scope.at e 8) = 2) then
      let span := 16 ^ s.rd (F.cxmPoison0Level.at e 8)
      let j := s.rd (F.cxmPoison1Index.at e 8) + 2 ^ 32 * s.rd (F.cxmPoison0IndexHi.at e 8)
      some (j * span, (j + 1) * span)
    else none)

/-- The end of a tick of region `r` (R377, R379, R383): the cycles with a write stalled are counted, and the sweep has gone
on. -/
def State.sweepTick (r : Nat) (s : State) : State :=
  let x := s.region r
  let s := if x.stalled.isEmpty then s
    else (s.count .cxm 0 10 (10000 - x.stallAt)).modRegion r (fun x => { x with stallAt := 0 })
  if !x.sweep || decide (x.state = 3) then s
  else
    let total := s.groupsOf r
    let move := sweepTo total (s.freeRanges r) 300 x.pointer (if x.stalled.isEmpty then 96 else 384)
    let upTo := move.1
    let moves := fun g => decide (x.pointer ≤ g ∧ g < upTo) && !x.early.contains g
    let lost := fun g => s.groupPoisoned r g
    let s := s.modRegion r (fun x =>
      { x.pass r total lost moves upTo with
        pointer := upTo
        early := x.early.filter (fun g => decide (upTo ≤ g))
        stalled := x.stalled.filter (fun g => decide (upTo ≤ g)) })
    s.count .cxm 0 8 move.2

/-- Group `g` of region `r` moved at once (R379). -/
def State.earlyMove (s : State) (r g : Nat) : State :=
  let s := s.modRegion r (fun x =>
    { x.pass r (s.groupsOf r) (fun _ => false) (fun q => decide (q = g)) x.pointer with early := x.early ++ [g] })
  (s.count .cxm 0 9).cxmEvent F.cxmEvtEarlyMove r

/-- A write of group `g` stalls (R379). -/
def State.stallWrite (s : State) (r g : Nat) : State :=
  (s.modRegion r (fun x =>
    { x with stallAt := if x.stalled.isEmpty then s.cycle else x.stallAt
             stalled := if x.stalled.contains g then x.stalled else x.stalled ++ [g] })).cxmEvent F.cxmEvtStall r

/-- What lets a write of line `i` go on (R379): a saturated line under the old keys has its group moved early; true
where the write may be made now. -/
def State.mayWrite (s : State) (r i : Nat) : State × Bool :=
  let x := s.region r
  let g := i / 16
  let held := decide (x.cache 0 g ≠ 2) && decide (1 < s.heightOf r) && decide (x.ctr 1 g = counterTop)
  if x.ctr 0 i < counterTop then
    if held && decide (4096 ≤ s.heldNodes) then (s.stallWrite r g, false) else (s, true)
  else if x.sweep && !x.lineNew i && decide (x.early.length < 64) then (s.earlyMove r g, true)
  else (s.stallWrite r g, false)

/-! ### Lines (R374, R375) -/

/-- What external memory holds for line `i` of a scrambled region: what was written, else a value the spec leaves open. -/
def State.rawLine (s : State) (r i : Nat) : State × List Byte :=
  match (s.region r).lines.find? (fun e => e.1 = i) with
  | some e => (s, e.2.1)
  | none => (s.burn, beBytes 64 (s.free 512).toNat)

/-- A consumer's read of a scrambled line (R375): nothing is detected. -/
def State.readScrambled (s : State) (r i : Nat) (q : LineIn) : State :=
  let s := s.count .cxm 0 3
  let key := (s.region r).kEnc
  match q.data with
  | .poison => s.emit (.line r i none)
  | .other bs => s.emit (.line r i (some (Config.unmix key i (slice bs 0 64))))
  | .asWritten =>
    let (s, bs) := s.rawLine r i
    s.emit (.line r i (some (Config.unmix key i bs)))

/-- A consumer's read of line `i` of a sealed region whose leaf is at hand (R374, R380). -/
def State.readLine (s : State) (r i : Nat) (q : LineIn) : State :=
  let x := s.region r
  let c := x.ctr 0 i
  let s := s.count .cxm 0 1
  let poison := fun (s : State) (scope index : Nat) =>
    (s.poison r scope 0 index (q.queues.map (·.val)) (q.contexts.map (·.val))).emit (.line r i none)
  if c = 0 then s.emit (.line r i (some (List.replicate 64 0)))
  else
    let held : List Byte × List Byte := nget ([], []) x.lines i
    let n := lineNonce false r i c
    let keys := x.keys (x.lineNew i)
    let ct : List Byte := match q.data with
      | .other bs => slice bs 0 64
      | _ => held.1
    let tag : List Byte := match q.tag with
      | .other bs => slice bs (8 * (i % 8)) 8
      | _ => held.2
    if q.data = .poison then poison s 0 i
    else if q.tag = .poison then poison s 1 (i / 8)
    else if tag ≠ lineTag keys.2 n ct then poison (s.integrity r) 0 i
    else s.emit (.line r i (some (lineCrypt keys.1 n ct)))

/-- Line `i` of a sealed region written (R374): its counter rises, and its leaf is dirty. -/
def State.writeLine (s : State) (r i : Nat) (data : List Byte) : State :=
  let x := s.region r
  let c := x.ctr 0 i + 1
  let n := lineNonce false r i c
  let keys := x.keys (x.lineNew i)
  let ct := lineCrypt keys.1 n (slice data 0 64)
  let tag := lineTag keys.2 n ct
  let s := s.modRegion r (fun x =>
    let x := ((x.setCtr 0 i c).setCache 0 (i / 16) 2).written (x.lineNew i) c
    { x with lines := nset ([], []) x.lines i (ct, tag) })
  (s.count .cxm 0 2).emit (.cxl r 0 i (ct ++ tag))

/-- The oldest record that waits leaves for its line of the deep log (R466). -/
def State.deepNext (s : State) (stored : Bool) : State :=
  match s.rep.deepQueue with
  | [] => s
  | d :: ds =>
    let n := s.linesOf (s.rd F.evrDeepRegion)
    let line := s.rep.deepLine
    let log := s.rep.deepLog.filter (fun e => decide (e.1 ≠ line))
    let s := { s with rep := { s.rep with
      deepQueue := ds
      deepLine := (line + 1) % max 1 n
      deepLog := if stored then log ++ [(line, d)] else log } }
    if stored then s.count .evr 0 10
    else
      let s := { s with rep := { s.rep with deepLost := satAdd 16 s.rep.deepLost 1 } }
      s.event F.evrEvtDeepPoison

/-- The bytes a consumer writes: for the deep log, the record that waits (R466). -/
def State.lineData (s : State) (user : Nat) (data : List Byte) : List Byte :=
  if user = 3 then (match s.rep.deepQueue with
    | d :: _ => recordBytes d
    | [] => data)
  else data

/-- Whether a consumer's write of line `i` is one it makes: permitted, and for the deep log its next line (R369, R466). -/
def State.lineUser (s : State) (r i user : Nat) : Bool :=
  bit (s.rd F.cxmRcfgUses 0 r) user &&
    (decide (user ≠ 3) || (s.on F.evrDeepValid && decide (s.rd F.evrDeepRegion = r) && decide (s.rep.deepLine = i) &&
      !s.rep.deepQueue.isEmpty))

/-! ### The commands -/

/-- REGION_ENABLE (R368): CXM_RCFG written with enable = 1, on the region that CXM_RSEL selects. -/
def execRegionEnable (w : Word) (cyc : Cyc) (s : State) : Host.Outcome State Fault Refusal :=
  done ((s.at cyc).gate .cxm 0 (fun s => s.landRcfg (s.rd F.cxmRselRegion) (w ||| 1) cyc))

/-- REGION_DISABLE (R370): CXM_RCFG written with enable = 0. -/
def execRegionDisable (w : Word) (cyc : Cyc) (s : State) : Host.Outcome State Fault Refusal :=
  done ((s.at cyc).gate .cxm 0 (fun s => s.landRcfg (s.rd F.cxmRselRegion) (w &&& 0xFFFFFFFE) cyc))

/-- REGION_READY (R374): the first edge after the last node is written. -/
def execRegionReady (r : RegionNo) (s : State) : Host.Outcome State Fault Refusal :=
  done (if (s.region r).state = 1 then s.modRegion r (fun x => { x with state := 2 }) else s)

/-- SEALED_LINE_READ (R374, R375): a line beyond the region's data does not exist; a region that is off or initialising
has no consumer. -/
def execSealedLineRead (r : RegionNo) (line : Nat) (inp : LineIn) (s : State) : Host.Outcome State Fault Refusal :=
  if (s.region r).state < 2 then done s
  else if s.linesOf r ≤ line then .fault .noSuchLine
  else if s.scrambled r then done (if s.poisoned r line then s.emit (.line r line none) else s.readScrambled r line inp)
  else if s.poisoned r line then done (s.emit (.line r line none))
  else
    let (s, ok) := s.getLeaf r line inp
    done (if ok then s.readLine r line inp
      else if s.poisoned r line then s.emit (.line r line none) else s)

/-- SEALED_LINE_WRITE (R374, R375, R466): a write by the consumer of uses bit `user`. -/
def execSealedLineWrite (r : RegionNo) (line : Nat) (user : Fin 5) (data : List Byte) (inp : LineIn) (s : State) :
    Host.Outcome State Fault Refusal :=
  let bytes := s.lineData user data
  let after := fun (s : State) (stored : Bool) => onlyIf (decide (user.val = 3)) (fun s => s.deepNext stored) s
  if (s.region r).state < 2 then done s
  else if s.linesOf r ≤ line then .fault .noSuchLine
  else if !s.lineUser r line user then done s
  else if s.poisoned r line then done (after (s.count .cxm 0 14) false)
  else if s.scrambled r then
    let mixed := Config.mix (s.region r).kEnc line (slice bytes 0 64)
    let s := s.modRegion r (fun x => { x with lines := nset ([], []) x.lines line (mixed, []) })
    done ((s.count .cxm 0 4).emit (.cxl r 0 line mixed))
  else
    let (s, ok) := s.getLeaf r line inp
    if !ok then done (if s.poisoned r line then after (s.count .cxm 0 14) false else s)
    else
      let (s, now) := s.mayWrite r line
      done (if now then after (s.writeLine r line bytes) true else s)

/-- SWEEP_START (R376, R378): a counter has reached the threshold, and no sweep runs. -/
def execSweepStart (r : RegionNo) (s : State) : Host.Outcome State Fault Refusal :=
  let x := s.region r
  done (if x.state = 2 ∧ x.due = true ∧ x.sweep = false then
    let (s, m) := s.draw 64
    let s := s.modRegion r (fun x =>
      { x with oldEnc := x.kEnc, oldMac := x.kMac, kEnc := keyOfBytes m, kMac := keyOfBytes (m.drop 32)
               epoch := x.epoch + 1, due := false, sweep := true, pointer := 0, early := [], stalled := [], maxc := 0 })
    s.cxmEvent F.cxmEvtSweepStarted r
  else s)

/-- SWEEP_DONE (R378): the pointer has passed the last group. -/
def execSweepDone (r : RegionNo) (s : State) : Host.Outcome State Fault Refusal :=
  let x := s.region r
  done (if x.sweep = true ∧ s.groupsOf r ≤ x.pointer then
    let s := s.modRegion r (fun x =>
      { x with oldEnc := 0, oldMac := 0, sweep := false, pointer := 0, early := [], stalled := [] })
    s.cxmEvent F.cxmEvtSweepDone r
  else s)

/-- The CXM page is ready, degraded with cause 7 where the link is down (R365, R486). -/
def State.cxmReady (s : State) : State :=
  let up := decide (s.rd F.cxmLinkState = 2)
  ((s.wr (F.pageReady .cxm) 1).wr (F.pageDegraded .cxm) (b2n (!up))).wr (F.pageCause .cxm) (if up then 0 else 7)

/-- CXL_LINK_TRAINED (R364, R365): training has ended, up with a rate code, a width and a mapped capacity in GiB, or
failed. The CXM page is then ready, unless it waits for TMP or for its SRAMs (R50, R53). -/
def execCxlLinkTrained (up : Bool) (rate : Fin 4) (width : Fin 17) (capacity : Fin 641) (s : State) :
    Host.Outcome State Fault Refusal :=
  done (if s.mode = 0 ∨ s.mode = 1 ∨ s.rd F.cxmLinkState = 2 then s
  else
    let s := s.modPwr (fun p => { p with cxlTrained := true })
    let s := (((s.wr F.cxmLinkState (if up then 2 else 0)).wr F.cxmLinkRate (if up then rate.val else 0)).wr
      F.cxmLinkWidth (if up then width.val else 0)).wr F.cxmLinkCapacityGib (if up then capacity.val else 0)
    onlyIf (s.ready .tmp && s.pwr.sramZeroed) State.cxmReady s)

/-- CXL_LINK_DOWN (R380): every enabled region is poisoned whole. -/
def execCxlLinkDown (s : State) : Host.Outcome State Fault Refusal :=
  done (if s.rd F.cxmLinkState = 2 then
    let s := ((s.wr F.cxmLinkState 0).wr F.cxmLinkRate 0).wr F.cxmLinkWidth 0
    let s := (s.wr (F.pageDegraded .cxm) 1).wr (F.pageCause .cxm) 7
    let s := s.cxmEvent F.cxmEvtLinkDown 0
    forN 16 (fun r s => if s.regionOn r && decide ((s.region r).state ≠ 3) then s.poison r 3 0 0 [] [] else s) s
  else s)

/-- MEDIA_EVENT_POLL (R366): every 1,024 ticks, the corrected errors that the expander reports. -/
def execMediaEventPoll (corrected : Nat) (s : State) : Host.Outcome State Fault Refusal :=
  done (if s.tick % 1024 = 0 ∧ s.rd F.cxmLinkState = 2 ∧ corrected ≠ 0 then
    (s.count .cxm 0 11 corrected).cxmEvent F.cxmEvtCorrected 0
  else s)

/-- A CXM_CMD write lands (R382, R384). -/
def State.landCxmCmd (s : State) (op entry : Nat) : State :=
  s.gate .cxm 0 (fun s =>
    if op = 0 then s
    else if s.on F.cxmCmdStatBusy then s.wr F.cxmCmdStatResult 2
    else if 2 ≤ op then s.wr F.cxmCmdStatResult 3
    else if !s.on (F.cxmPoison0Valid.at entry 8) || decide (s.rd (F.cxmPoison0Scope.at entry 8) = 3) then
      s.wr F.cxmCmdStatResult 1
    else { (s.wr F.cxmCmdStatBusy 1).wr F.cxmCmdStatResult 0 with reinit := some entry })

/-- REINIT (R382). -/
def execReinit (entry : Fin 64) (cyc : Cyc) (s : State) : Host.Outcome State Fault Refusal :=
  done ((s.at cyc).landCxmCmd 1 entry)

/-- The scope of an entry rewritten (R382): the counters of its nodes are 0 and its guarding counter has risen. A single
line or tag line is written with zeros, which raises the counters of its lines. -/
def State.reinitScope (s : State) (r scope level index : Nat) : State :=
  let clear := fun (i : Nat) (s : State) =>
    if (s.region r).ctr 0 i = 0 then s else s.writeLine r i (List.replicate 64 0)
  match scope with
  | 0 => clear index s
  | 1 => forN 8 (fun b s => clear (8 * index + b) s) s
  | _ =>
    let under := fun (k c : Nat) => decide (k ≤ level ∧ c / 16 ^ (level + 1 - k) = index)
    s.modRegion r (fun x =>
      let g := x.ctr (level + 1) index + 1
      let x : Region := { x with
        counters := x.counters.filter (fun e => !under (e.1 / 2 ^ 40) (e.1 % 2 ^ 40))
        cached := x.cached.filter (fun e => !under (e.1 / 2 ^ 40 + 1) (e.1 % 2 ^ 40) && decide (e.1 ≠ nodeKey level index))
        lines := x.lines.filter (fun e => !under 0 e.1) }
      let x := (x.setCtr (level + 1) index g).written (x.nodeNew (s.groupsOf r) level index) g
      if level + 1 < s.heightOf r then x.setCache (level + 1) (index / 16) 2 else x)

/-- REINIT_DONE (R382): the first edge after the last node write. -/
def execReinitDone (s : State) : Host.Outcome State Fault Refusal :=
  done (match s.reinit with
    | some e =>
      let r := s.rd (F.cxmPoison0Region.at e 8)
      let index := s.rd (F.cxmPoison1Index.at e 8) + 2 ^ 32 * s.rd (F.cxmPoison0IndexHi.at e 8)
      let s := if s.on (F.cxmPoison0Valid.at e 8) then
          let s := s.reinitScope r (s.rd (F.cxmPoison0Scope.at e 8)) (s.rd (F.cxmPoison0Level.at e 8)) index
          (s.setWord (keyOf (F.cxmPoison0Valid.at e 8)) 0).setWord (keyOf (F.cxmPoison1Index.at e 8)) 0
        else s
      { (s.wr F.cxmCmdStatBusy 0).wr F.cxmCmdStatResult 0 with reinit := none }
    | none => s)

end Sys2Proof.Machine
end

