-- ==== Sys2Proof/Machine/Pair.lean ====
section
/-! DEFINITION. The redundant pair (R385 to R411): the Flue, mirror frames and their records, health and claims, who
drives, handover and takeover; and the global operations, which a pair shares (R31 to R34). -/

namespace Sys2Proof.Machine

open Sys2Proof

/-- The state with the pair logic changed by `f`. -/
def State.modPair (s : State) (f : Pair → Pair) : State := { s with pair := f s.pair }

/-- The Flue is keyed (R386): keyed and syncing, or synced. -/
def State.keyed (s : State) : Bool := decide (s.rd F.fluStatState = 4 ∨ s.rd F.fluStatState = 5)

/-! ### Health and claims (R398 to R400) -/

/-- Lanes of enabled ports that are not ready at their rate (R398). -/
def State.lanesNotReady (s : State) : Nat :=
  ((List.range 144).filter (fun g => (s.portOfLane g).isSome && decide (s.laneState g ≠ 4))).length

/-- The health score (R398). -/
def State.health (s : State) : Nat :=
  let stoves := ((List.range 8).map (fun c => 64 - s.stovesIn c)).sum
  let degraded := (s.regs.filter (fun e => e.1.page.hasHeader && decide (e.1.off = 8) && decide (getF e.2 1 1 = 1))).length
  let errors := (s.rep.uncorrEdges.filter (fun e => decide (s.tick < e + 2 ^ 20))).length
  let temp := signed 8 (s.rd F.tmpTempNow)
  let mirror := decide (s.effMode = 5) && !s.on F.fluStatMirrorValid
  let bad := (s.pair.badLanes.filter (fun g => (s.portOfLane g).isNone)).length
  65535 - (64 * stoves + 256 * s.lanesNotReady + 32 * bad + 1024 * degraded + 512 * errors +
    4096 * b2n (decide (100 < temp)) + 8192 * b2n (decide (s.mode = 11)) + 8192 * b2n mirror)

/-- The claim that this unit sends (R400): 0 for 64 ticks after it released the lock, and in SELF-TEST and OFFICER. -/
def State.ownClaim (s : State) : Nat :=
  let freed : Bool := match s.pair.freedAt with
    | some e => decide (s.tick < e + 64)
    | none => false
  if freed ∨ s.effMode = 3 ∨ s.effMode = 8 then 0
  else s.rd F.fluCfgPriority * 4096 + s.rd F.fluHealthOwn / 256 * 16 + 8 * s.rd F.fluStatSide

/-- A valid claim of the peer arrives, on either path (R400). -/
def State.peerClaim (s : State) (claim : Nat) : State :=
  (s.wr F.fluClaimPeer claim).modPair (fun p => { p with claimAt := s.tick, claimSeen := true })

/-- The peer's claim while it is current: for 4 ticks after it arrived (R400). -/
def State.currentClaim (s : State) : Option Nat :=
  if s.pair.claimSeen && decide (s.tick ≤ s.pair.claimAt + 4) then some (s.rd F.fluClaimPeer) else none

/-- No peer claim for 64 ticks (R400). -/
def State.noPeer (s : State) : Bool := decide (s.pair.claimAt + 64 ≤ s.tick)

/-- PAIR_LOCK taken (R399). -/
def State.takeLock (s : State) : State := s.wr F.fluStatLockHeld 1

/-! ### The mirror and the partner (R394, R396) -/

/-- The mirror becomes invalid (R394). -/
def State.dropMirror (s : State) : State :=
  if s.on F.fluStatMirrorValid then (s.wr F.fluStatMirrorValid 0).event F.fluEvtMirrorStale else s

/-- The mirror becomes valid (R394). -/
def State.raiseMirror (s : State) : State :=
  if s.on F.fluStatMirrorValid then s else (s.wr F.fluStatMirrorValid 1).event F.fluEvtSynced

/-- partner_sync drops (R396): a claim that waits for the partner is made without it (R161). -/
def State.dropSync (s : State) : State :=
  if s.on F.fluStatPartnerSync then
    forL s.asnListed (fun a s => s.modAsn a (fun e =>
      if e.claimPending then { e with pnMark := e.pnMark + 2 ^ 24, claimPending := false } else e))
      (s.wr F.fluStatPartnerSync 0)
  else s

/-- A bulk pass begins (R394): every object is to be sent. -/
def State.startBulk (s : State) : State := s.modPair (fun p => { p with bulk := some 0 })

/-- The two sides have lost step, or a resync is asked for (R391, R394): a standby's mirror is invalid, and the holder
of the lock starts a bulk pass. -/
def State.resync (s : State) : State :=
  let s := if s.effMode = 5 then s.dropMirror else s
  if s.on F.fluStatLockHeld then s.startBulk else s

/-- The FLU page, once ready, is degraded with cause 9 while the Flue is not keyed (R486; DEDUCED, log entry 35). -/
def State.flueDegrade (s : State) : State :=
  if s.ready .flu then (s.wr (F.pageDegraded .flu) (b2n (!s.keyed))).wr (F.pageCause .flu) (if s.keyed then 0 else 9) else s

/-- The Flue enters hello at the present edge (R386): a fresh nonce, and nothing of an earlier keying. -/
def State.enterHello (s : State) : State :=
  let (s, n) := s.draw 32
  let s := s.dropMirror.dropSync
  let s := (((s.wr F.fluStatState 3).wr F.fluSlipDrops 0).wr F.fluSlipRepeats 0).flueDegrade
  s.modPair (fun p => { p with
    nonce := n, key := [], txSeq := 0, waiting := [], taken := none, missed := 0, still := 0, acked := 0, ackMoved := false
    records := [], unacked := [], lastRec := 0, sent := {}, bulk := none, applied := 0, scheds := []
    ops := p.ops.map (fun e => (e.1, none)) })

/-! ### Keying (R386) -/

/-- The pair key of both nonces under the slot's material (R386). -/
def pairKey (material : List Byte) (side : Bool) (own peer : List Byte) : List Byte :=
  kdf material "heserok flue" (if side then peer ++ own else own ++ peer) 256

/-- The Flue is keyed: records are numbered from 1, and the holder of the lock starts a bulk pass (R391, R394). -/
def State.keyFlue (s : State) (slot : Nat) (h : Hello) : State :=
  let side := s.on F.fluStatSide
  let s := (((s.wr F.fluStatState 4).wr F.fluStatSideConflict 0).wr F.fluStatPairMismatch 0).flueDegrade
  let s := s.modPair (fun p => { p with key := pairKey (s.slot slot).key side p.nonce h.nonce, peerNonces := p.peerNonces ++ [h.nonce] })
  if s.on F.fluStatLockHeld then s.startBulk else s

/-- A HELLO is judged by a unit in hello (R386). -/
def State.judgeHello (s : State) (h : Hello) : State :=
  let v := s.rd F.fluCfgPairSlot
  if h.side = s.on F.fluStatSide then
    ((s.wr F.fluStatSideConflict 1).wr F.fluStatState 6).event F.fluEvtSideConflict
  else
    let s := s.wr F.fluStatSideConflict 0
    if !s.slotUsable v 4 then s.wr F.fluStatState 3
    else if h.kcv ≠ (s.slot v).kcv then
      ((s.wr F.fluStatPairMismatch 1).wr F.fluStatState 6).event F.fluEvtPairMismatch
    else
      let s := (s.wr F.fluStatPairMismatch 0).wr F.fluStatState 3
      match s.takeUse v with
      | (s, .granted) => s.keyFlue v h
      | (s, _) => s

/-! ### Acknowledgements (R34, R161, R391) -/

/-- PN_MARK_ADVANCE (R161): an acknowledged mark that names the phase and epoch in use for transmit. -/
def State.markAcked (s : State) (a : Nat) (phase : Bool) (epoch mark : Nat) : State :=
  let e := s.asn a
  if e.claimPending && decide (e.txPhase = phase ∧ e.tx.epoch = epoch ∧ mark = e.pnMark + 2 ^ 24) then
    s.setAsn a { e with pnMark := mark, claimPending := false }
  else s

/-- The ack field of a verified frame acts (R389). -/
def State.ackRecords (s : State) (n : Nat) : State :=
  if n ≤ s.pair.acked ∨ s.pair.lastRec < n then s
  else
    let done_ := s.pair.unacked.filter (fun e => decide (e.1 ≤ n))
    let s := forL done_ (fun e s => match e.2 with
      | .pnMark a ph ep m => s.markAcked a ph ep m
      | _ => s) s
    let s := s.modPair (fun p => { p with
      acked := n, ackMoved := true, unacked := p.unacked.filter (fun e => decide (n < e.1))
      ops := p.ops.filter (fun e => e.2.all (n < ·)) })
    if s.pair.ops.isEmpty then s.wr F.devGopStatPartnerWait 0 else s

/-! ### Taking a frame (R389 to R394) -/

/-- The partner's state as a taken frame reports it (R396, R403). -/
def State.peerReport (s : State) (f : MFrame) : State :=
  let s := (s.wr F.fluHealthPeer f.health).modPair (fun p => { p with peerLock := f.lock })
  let standby := decide (f.mode = 5 ∨ (f.mode = 11 ∧ f.prev = 5))
  let s := if standby && f.valid then s else s.dropSync
  let marked := s.pair.records.any (fun r => decide (r = .bulkEnd)) || s.pair.unacked.any (fun e => decide (e.2 = .bulkEnd))
  let s := if s.on F.fluStatLockHeld && standby && !f.valid && !marked && s.pair.bulk.isNone then s.startBulk else s
  let s := if s.effMode = 5 then ((s.wr F.fluSelSel f.sel.val).modPair (fun p => { p with alarm := f.alarm.val })) else s
  if s.on F.fluStatLockHeld && f.lock then
    let own := s.ownClaim
    let s := s.event F.fluEvtLockConflict
    if own < f.claim ∨ (own = f.claim ∧ s.on F.fluStatSide = false) then s.modPair (fun p => { p with yields := true }) else s
  else s

/-- MIRROR_FRAME_TAKE (R389): the newest complete frame is taken, or the last one again. The records that are new to a
unit that does not hold the lock come with the state (R391). -/
def State.takeFrame (s : State) : State × List (Nat × MRec) :=
  let w := s.pair.waiting
  let s := s.wr F.fluSlipWaiting (min 3 w.length)
  match w.getLast? with
  | none =>
    let s := s.modPair (fun p => { p with missed := p.missed + 1 })
    let s := onlyIf (decide (s.pair.missed = 2)) (fun s => s.event F.fluEvtFlueLost) s
    if s.pair.taken.isSome then (((s.bumpReg F.fluSlipRepeats 1).count .flu 0 4).event F.fluEvtSlip, []) else (s, [])
  | some f =>
    let drops := w.length - 1
    let s := onlyIf (decide (0 < drops)) (fun s => ((s.bumpReg F.fluSlipDrops drops).count .flu 0 3 drops).event F.fluEvtSlip) s
    let s := (s.modPair (fun p => { p with waiting := [], taken := some f, missed := 0 })).count .flu 0 2
    let s := s.peerReport f
    if s.on F.fluStatLockHeld = false then
      let s := match f.records.head? with
        | some (n, _) => if s.pair.applied + 1 < n then s.resync else s
        | none => s
      (s, f.records.filter (fun e => decide (s.pair.applied < e.1)))
    else (s, [])

/-- The global operations that the new records of a frame carry (R34). -/
def pairOps (l : List (Nat × MRec)) : Nat :=
  l.foldl (fun n e => match e.2 with
    | .pairOp b => n ||| (b % 16)
    | _ => n) 0

/-- The HRT registers of a queue and the SCH registers of a node, by offset (R336, R337). -/
def queueOffs : List Nat := [0x124, 0x128, 0x12C, 0x130, 0x134, 0x138]
def nodeOffs : List Nat := [0x104, 0x108, 0x10C]
def queueKeys (q : Nat) : List RegKey :=
  queueOffs.map (fun o => ⟨.hrt, o, 0, q⟩) ++ nodeOffs.map (fun o => ⟨.sch, o, 0, q⟩)
def nodeKeys (k : Nat) : List RegKey := nodeOffs.map (fun o => ⟨.sch, o, 0, k⟩)

/-- Words written to registers in turn. -/
def State.setWords (s : State) (ks : List RegKey) (ws : List Word) : State :=
  forL (ks.zip ws) (fun e s => s.setWord e.1 e.2) s

/-- A record applied at step 2 (R390, R391, R393). A unit that is not in STANDBY takes no mirrored content: it counts the
record as applied, and a pair operation acts (DESIGN CHOICE, log entry 51). -/
def State.applyRecord (e : Nat × MRec) (s : State) : State :=
  let s := (s.modPair (fun p => { p with applied := e.1 })).count .flu 0 8
  if s.effMode ≠ 5 then s
  else match e.2 with
  | .pairOp _ => s
  | .pnMark a ph ep m => s.modAsn a (fun x => if x.txPhase = ph ∧ x.tx.epoch = ep then { x with pnMark := m } else x)
  | .assoc a x => s.setAsn a (x.received s.tick)
  | .keySched k epoch left =>
    let due := s.tick + (left - 1)
    let rolled := (s.linkAssocs k).filter (fun a => decide ((s.asn a).state = .rolling))
    s.modLink k (fun l => { l with roll := some (match l.roll with
      | some r => { r with target := epoch, stage := .scheduled, switchAt := some due }
      | none => { stage := .scheduled, proposer := false, target := epoch, rolled := rolled, switchAt := some due }) })
  | .session k cur epoch high next last roll => s.modLink k (fun l =>
      { l with cur := cur.map (fun x => x.aged s.tick), epoch := epoch, highMark := high, nextMsgId := next, numbered := true
               lastDone := last
               roll := roll.map (fun r => r.received s.tick
                 ((s.linkAssocs k).filter (fun a => decide ((s.asn a).state = .rolling)))) })
  | .fwd i x => s.fwdPut i x
  | .domain d x => { s with fwd := { s.fwd with doms := nset {} s.fwd.doms d x } }
  | .queue q ws => s.setWords (queueKeys q) ws
  | .node n ws => s.setWords (nodeKeys n) ws
  | .bulkEnd => s.raiseMirror
  | .unknown _ => s

/-! ### Building a frame (R387, R390, R391, R394, R395) -/

/-- The SESSION record of a link as it stands: empty where it has no LIVE session. -/
def State.sessionRec (s : State) (k : Nat) : MRec :=
  let l := s.link k
  match l.cur with
  | some x =>
    if x.st = .live then .session k (some (x.aged s.tick)) l.epoch l.highMark l.nextMsgId l.lastDone (l.roll.map (fun r => r.aged s.tick))
    else .session k none l.epoch l.highMark l.nextMsgId l.lastDone none
  | none => .session k none l.epoch l.highMark l.nextMsgId l.lastDone none

/-- A SESSION record without its ages, by which a change is told. -/
def MRec.unaged : MRec → MRec
  | .session k (some x) e h n l r =>
    .session k (some { x with since := 0, lastSent := 0, lastHeard := 0, liveAt := 0, rekeyFrom := 0 }) e h n l
      (r.map (fun r => { r with since := 0, switchAt := r.switchAt.map (fun _ => 0), overlapEnd := 0 }))
  | r => r

/-- The SESSION record of a link that nothing has been sent of. -/
def blankSession (k : Nat) : MRec := .session k none 0 0 0 none none

/-- The record of object `i` in the order of R391: associations, sessions, queues, service and port nodes, table
entries, domains. -/
def State.objectRec (s : State) (i : Nat) : MRec :=
  if i < 131072 then .assoc i (s.asn i)
  else if i < 131216 then s.sessionRec (i - 131072)
  else if i < 147600 then .queue (i - 131216) ((queueKeys (i - 131216)).map s.word)
  else if i < 149648 then .node (svcKey (i - 147600)) ((nodeKeys (svcKey (i - 147600))).map s.word)
  else if i < 149792 then .node (prtKey (i - 149648)) ((nodeKeys (prtKey (i - 149648))).map s.word)
  else if i < 215328 then .fwd (i - 149792) (s.fwdEnt (i - 149792))
  else .domain (i - 215328) (s.dom (i - 215328))

/-- The objects of a bulk pass. -/
def objectCount : Nat := 219424

/-- The first object after those of the class of object `i` (R391). -/
def classEnd (i : Nat) : Nat :=
  if i < 131072 then 131072 else if i < 131216 then 131216 else if i < 149792 then 149792 else objectCount

/-- The number of a node in the order of a bulk pass. -/
def nodeObject (k : Nat) : Nat := if k < 32768 then 147600 + (k - 16384) else 149648 + (k - 32768)

/-- Whether a link stands at a message boundary (R390). -/
def State.atBoundary (s : State) (k : Nat) : Bool := (s.link k).frags.isEmpty

/-- The objects whose content differs from what was last sent, in the order of R391. -/
def State.dirty (s : State) : List Nat :=
  let t := s.pair.sent
  let asns := ((s.assocs.m.map (·.1)) ++ (t.assocs.m.map (·.1))).eraseDups
  let asns := if s.assocs.base = t.assocs.base then asns.filter (fun a => decide (s.assocs.get a ≠ t.assocs.get a)) else []
  let links := (List.range 144).filter (fun k =>
    s.atBoundary k && decide ((s.sessionRec k).unaged ≠ nget (blankSession k) t.links k))
  let mirrored := fun (k : RegKey) => (decide (k.page = .hrt) && queueOffs.contains k.off) || (decide (k.page = .sch) && nodeOffs.contains k.off)
  let keys := ((s.regs.map (·.1)).filter mirrored ++ t.regs.map (·.1)).filter (fun k => decide (s.word k ≠ mget (resetWord k) t.regs k))
  let qs := (keys.map (fun k => if k.obj < 16384 then 131216 + k.obj else nodeObject k.obj)).eraseDups
  let ents := ((s.fwd.tab.map (·.1)) ++ (t.fwd.map (·.1))).eraseDups.filter (fun i => decide (s.fwdEnt i ≠ nget none t.fwd i))
  let doms := ((s.fwd.doms.map (·.1)) ++ (t.doms.map (·.1))).eraseDups.filter (fun d => decide (s.dom d ≠ nget {} t.doms d))
  asns ++ links.map (131072 + ·) ++ qs ++ ents.map (149792 + ·) ++ doms.map (215328 + ·)

/-- What has been sent, with one more record. -/
def Sent.with (t : Sent) (r : MRec) : Sent :=
  let put := fun (ks : List RegKey) (ws : List Word) =>
    (ks.zip ws).foldl (fun m (e : RegKey × Word) => mset RegKey.lt (resetWord e.1) m e.1 e.2) t.regs
  match r with
  | .assoc a e => { t with assocs := t.assocs.set a e }
  | .session k _ _ _ _ _ _ => { t with links := nset (blankSession k) t.links k r.unaged }
  | .fwd i e => { t with fwd := nset none t.fwd i e }
  | .domain d x => { t with doms := nset {} t.doms d x }
  | .queue q ws => { t with regs := put (queueKeys q) ws }
  | .node n ws => { t with regs := put (nodeKeys n) ws }
  | _ => t

/-- The object records that wait, class by class: in each, what changed and what a bulk pass has come to (R391, R394). -/
def State.candidates (s : State) : List (Option Nat × MRec) :=
  let d := s.dirty
  let part := fun (lo hi : Nat) =>
    (d.filter (fun i => decide (lo ≤ i ∧ i < hi))).map (fun i => ((none : Option Nat), s.objectRec i)) ++
    (match s.pair.bulk with
     | some c =>
       let c := max lo c
       if c < hi then ((List.range (min 2000 (hi - c))).map (c + ·)).map (fun i => (some i, s.objectRec i)) else []
     | none => [])
  part 0 131072 ++ part 131072 131216 ++ part 131216 149792 ++ part 149792 objectCount

/-- As many records as fit in a number of bytes. -/
def fitting {α : Type} (size : α → Nat) : Nat → List α → List α
  | _, [] => []
  | room, r :: rs => if size r ≤ room then r :: fitting size (room - size r) rs else []

/-- The switches scheduled and not yet announced become KEY_SCHED records (R390). -/
def State.announce (s : State) : State :=
  forL (s.kindle.links.map (·.1)) (fun k s => match (s.link k).roll with
    | some r => match r.switchAt with
      | some e =>
        if r.stage = .scheduled ∧ !s.pair.scheds.contains (k, r.target, e) then
          s.modPair (fun p => { p with scheds := p.scheds ++ [(k, r.target, e)]
                                       records := p.records ++ [.keySched k r.target (e - s.tick)] })
        else s
      | none => s
    | none => s) s

/-- The records of the frame built at an edge (R391, R395): those not yet acknowledged, then new ones. Only the holder of
the lock sends any (R390). -/
def State.frameRecords (s : State) (room : Nat) : State × List (Nat × MRec) :=
  if !s.on F.fluStatLockHeld then
    (s.modPair (fun p => { p with records := [], unacked := [] }), [])
  else
    let s := s.announce
    let old := fitting (fun (e : Nat × MRec) => e.2.bytes) room s.pair.unacked
    let used := (old.map (fun e => e.2.bytes)).sum
    if old.length < s.pair.unacked.length then (s.count .flu 0 7 old.length, old)
    else
      let room := min 26488 (room - used)
      let ordered := fitting MRec.bytes room s.pair.records
      let room := room - (ordered.map MRec.bytes).sum
      let objects := if ordered.length < s.pair.records.length then [] else
        fitting (fun (e : Option Nat × MRec) => e.2.bytes) room s.candidates
      let fresh := ordered ++ objects.map (·.2)
      let from_ := s.pair.lastRec
      let numbered := (List.range fresh.length).zip fresh |>.map (fun e => (from_ + 1 + e.1, e.2))
      let cursor := objects.foldl (fun c e => match e.1 with
        | some i => some (i + 1)
        | none => c) s.pair.bulk
      let s := s.modPair (fun p => { p with
        records := p.records.drop ordered.length
        unacked := p.unacked ++ numbered
        lastRec := from_ + fresh.length
        sent := { (objects.foldl (fun (t : Sent) e => t.with e.2) p.sent) with }
        bulk := cursor })
      let s := if s.pair.bulk = some objectCount then
          s.modPair (fun p => { p with bulk := none, records := p.records ++ [.bulkEnd] })
        else s
      let s := ((s.count .flu 0 7 old.length).count .flu 0 6 fresh.length).count .flu 0 9 (used + (fresh.map MRec.bytes).sum)
      (s, old ++ numbered)

/-- Bytes of records not yet acknowledged (R411). -/
def State.backlog (s : State) : Nat :=
  (s.pair.unacked.map (fun e => e.2.bytes)).sum + (s.pair.records.map MRec.bytes).sum

/-- The header of a frame that this unit sends (R387). -/
def State.ownHeader (s : State) (seq ack : Nat) : MFrame :=
  { seq := seq, ack := ack, claim := s.ownClaim, health := s.rd F.fluHealthOwn, mode := s.mode
    prev := s.rd F.devModePrevMode, lock := s.on F.fluStatLockHeld, valid := s.on F.fluStatMirrorValid }

/-- A frame's halves wait on the Flue lanes that are locked, from the first payload word after the edge (R388). -/
def State.carryFrame (s : State) (seq : Nat) (bs : List Byte) : State :=
  forL (flueHalves (s.rd F.fluStatLanesUp) seq bs) (fun h s =>
    s.modLane (144 + h.1) (fun l => { l with flueTx := l.flueTx ++ byteBits h.2 })) s

/-- MIRROR_FRAME_SEND (R386, R387): the frame of an edge, a HELLO until the Flue is keyed; with no Flue lane locked, or
the Flue disabled or squelched, it is built and discarded (R45, R399, R429). -/
def State.sendFrame (s : State) : State :=
  let lanes := s.rd F.fluStatLanesUp
  let side := s.on F.fluStatSide
  let carried := s.on F.fluCfgEnable && decide (lanes ≠ 0) && !s.pwr.shed && !s.pwr.halted
  if s.keyed then
    let (s, recs) := s.frameRecords (if lanes = 3 then 106000 - 48 else 53000 - 48)
    let f : MFrame := { s.ownHeader (s.pair.txSeq + 1) s.pair.applied with records := recs }
    let s := (s.modPair (fun p => { p with txSeq := p.txSeq + 1 })).wr F.fluBacklogBytes s.backlog
    if carried then (s.carryFrame f.seq (f.seal s.pair.key side)).count .flu 0 1 else s
  else
    let s := s.wr F.fluBacklogBytes s.backlog
    if carried && decide (s.rd F.fluStatState = 3 ∨ s.rd F.fluStatState = 6) then
      s.carryFrame 0 (helloFrame (s.ownHeader 0 0) side s.pair.nonce (s.slot (s.rd F.fluCfgPairSlot)).kcv)
    else s

/-- CLAIM_OUT (R400): the claim is sent every 3 ticks. -/
def State.claimEdge (s : State) : State := if s.tick % 3 = 0 then s.emit (.claim (claimLevels s.ownClaim)) else s

/-! ### The pair at an edge (R396, R399 to R404) -/

/-- The Flue's own states follow its lanes until it is keyed (R386, R411). -/
def State.flueLanes (s : State) (e : EdgeIn) : State :=
  let locked := e.flueLocked.toNat
  let s := s.wr F.fluStatLanesUp locked
  let st := s.rd F.fluStatState
  if !s.on F.fluCfgEnable then
    if st = 0 then s else ((s.dropMirror.dropSync).wr F.fluStatState 0).flueDegrade
  else if s.keyed then s
  else if locked = 0 then s.wr F.fluStatState 1
  else if !e.flueAligned then s.wr F.fluStatState 2
  else if st = 3 ∨ st = 6 then s
  else s.enterHello

/-- partner_sync as an edge finds it (R396), and SOLO then ACTIVE (R402). -/
def State.syncEdge (s : State) : State :=
  let standby := match s.pair.taken with
    | some f => decide (f.mode = 5 ∨ (f.mode = 11 ∧ f.prev = 5)) && f.valid
    | none => false
  let outstanding := !s.pair.unacked.isEmpty
  let s := s.modPair (fun p => { p with still := if outstanding && !p.ackMoved then p.still + 1 else 0, ackMoved := false })
  let s := if !s.keyed || !standby then s.dropSync
    else if s.pair.missed < 16 ∧ s.pair.still < 16 then s.wr F.fluStatPartnerSync 1
    else s
  let s := if s.keyed then s.wr F.fluStatState (if s.on F.fluStatMirrorValid || s.on F.fluStatPartnerSync then 5 else 4) else s
  if s.effMode = 6 ∧ s.on F.fluStatPartnerSync = true then s.setEffMode 4 else s

/-- The handshakes of a unit that enters STANDBY end: its sessions are those mirrored (R229). -/
def State.dropHandshakes (s : State) : State :=
  forL (s.kindle.links.map (·.1)) (fun k s =>
    let s := s.closeSession k true
    match (s.link k).cur with
    | some x => onlyIf x.inHandshake (fun s => s.closeSession k false) s
    | none => s) s

/-- A unit enters STANDBY (R229, R401, R403, R404). -/
def State.enterStandby (s : State) : State :=
  (s.dropHandshakes.setEffMode 5).modPair (fun p => { p with freeEdges := 0, sawLock := false, takeover := none })

/-- The rule for RUN at an edge (R401). BROWNOUT entered from KINDLING stops neither the wait nor its outcome, which
changes prev_mode (R39). -/
def State.runRule (s : State) : State :=
  let own := s.ownClaim
  let s := (s.modPair (fun p => { p with runWait := false })).wr F.fluStatRunWait 0
  let wait := fun (s : State) => (s.modPair (fun p => { p with runWait := true })).wr F.fluStatRunWait 1
  if s.effMode ≠ 2 then s
  else if s.on F.fluStatPeerLock then s.enterStandby
  else match s.currentClaim with
    | some c =>
      if own < c then s.enterStandby
      else if c < own then (s.setEffMode 4).takeLock
      else wait s
    | none => if s.noPeer then (s.setEffMode 6).takeLock else wait s

/-- What PAIR_LOCK shows at an edge (R399, R405). -/
def State.lockEdge (s : State) (peer : Bool) : State :=
  let s := s.wr F.fluStatPeerLock (b2n peer)
  if s.effMode = 5 then
    s.modPair (fun p => { p with sawLock := p.sawLock || peer, freeEdges := if peer then 0 else p.freeEdges + 1 })
  else s

/-- A lock conflict lost acts at the next edge (R403). -/
def State.yieldEdge (s : State) : State :=
  if s.pair.yields then
    ((s.modPair (fun p => { p with yields := false })).enterStandby).dropMirror
  else s

/-- The hold of the lock is re-armed by the frame of the edge, unless a halt or a shed squelches the Flue (R399). -/
def State.rearmLock (s : State) : State := if s.pwr.halted || s.pwr.shed then s.freeLock else s

/-- What the holder of the lock drives on SEL and ALARM_N (R399, R408); on other units the lines keep their levels. -/
def State.driveLines (s : State) (alarm : Nat) : State :=
  if s.on F.fluStatLockHeld then s.modPair (fun p => { p with sel := s.rd F.fluSelSel, alarm := alarm }) else s

/-- A mirror is invalid from the edge at which its unit leaves STANDBY other than by a takeover (R394). -/
def State.mirrorEdge (s : State) : State :=
  if s.on F.fluStatMirrorValid && s.effMode ≠ 5 && s.effMode ≠ 7 && s.pair.tookAt.isNone then s.dropMirror else s

/-- A FLU_CMD acts at its edge (R394, R404, R411). -/
def State.fluAct (s : State) (op : Nat) : State :=
  match op with
  | 1 =>
    if s.on F.fluStatLockHeld && s.on F.fluStatPartnerSync then
      s.modPair (fun p => { p with handover := some s.tick, noAdmit := true })
    else s.event F.fluEvtCmdRejected
  | 2 => if s.on F.fluStatLockHeld && s.keyed then s.resync else s.event F.fluEvtCmdRejected
  | _ => s.event F.fluEvtCmdRejected

/-- A FLU_CMD write lands. -/
def State.landFluCmd (s : State) (op : Nat) (cyc : Cyc) : State :=
  (s.at cyc).gate .flu 0 (fun s => if op = 0 then s else s.schedule (s.edgeFor cyc) (.fluCmd op))

/-! ### Takeover (R405 to R407) -/

/-- One entry at a warm takeover (R162, R406): it jumps to its mark and claims the next block. -/
def State.jumpAsn (a : Nat) (s : State) : State :=
  let e := s.asn a
  if e.state = .live ∨ e.state = .rolling ∨ e.state = .draining then
    let mark := if e.hardLimit ≤ e.pnMark then e.pnMark else e.pnMark + 2 ^ 24
    let s := (s.setAsn a { e with nextPn := e.pnMark, pnMark := mark, claimPending := false }).softTest a
    if e.hardLimit ≤ e.pnMark then (s.asnEvent F.asnEvtHardHit a).schedule (s.tick + 1) (.asnDead a 3) else s
  else s

/-- One link at a warm takeover (R406): its LIVE session goes on with its numbers raised, and a rollover that had not
switched is proposed again. -/
def State.jumpLink (k : Nat) (s : State) : State :=
  let s := if (s.link k).live then
      (s.modSes k false (fun x => { x with seqOut := x.seqOut + 2 ^ 16, keepOut := x.keepOut + 2 ^ 16 })).modLink k
        (fun l => { l with nextMsgId := (l.nextMsgId + 2 ^ 14) % 2 ^ 16 })
    else s
  let rolling := (s.linkAssocs k).filter (fun a => decide ((s.asn a).state = .rolling))
  let s := forL rolling (fun a s => s.abandonAsn a) s
  let early := match (s.link k).roll with
    | some r => decide (r.stage ≠ .switched ∧ r.stage ≠ .ended)
    | none => false
  let s := if early then s.modLink k (fun l => { l with roll := none }) else s
  let s := if (early || !rolling.isEmpty) && (s.link k).live && (s.link k).roll.isNone then s.startRoll k else s
  if !(s.link k).live && (s.link k).cur.isSome then s.closeSession k false else s

/-- Links with start = 1 and no session offer again (R406, R407). -/
def State.offerAgain (s : State) : State :=
  forN 144 (fun k s => if s.linkOn k && s.on F.kdlLinkCfgStart 0 k && (s.link k).cur.isNone then s.tryOffer k false else s) s

/-- TAKEOVER at E (R406, R407). -/
def State.takeOver (s : State) (e : Nat) (warm : Bool) : State :=
  let s := ((s.setEffMode 7).takeLock).modPair (fun p => { p with takeover := none, tookAt := some e, noAdmit := true })
  let s := (s.wr F.fluTkoEdge (e % 65536)).wr F.fluTkoWarm (b2n warm)
  let s := s.driveLines s.pair.alarm
  if warm then
    let s := s.event F.fluEvtTakeoverWarm
    let s := forL s.asnListed State.jumpAsn s
    (forL (s.kindle.links.map (·.1)) State.jumpLink s).offerAgain
  else
    let s := s.event F.fluEvtTakeoverCold
    let s := forL s.asnListed (fun a s => s.deadAsn a 4) s
    (forL (s.kindle.links.map (·.1)) (fun k s => (s.closeSession k true).closeSession k false) s).offerAgain

/-- Frames of the Hearth that nobody will send (R404): lost, and their cells zeroed. -/
def State.loseHearth (s : State) : State :=
  let cells := ((s.hearth.frames.filter HFrame.here).map (·.cells)).sum + (s.hearth.groups.map (·.cells)).sum
  (s.modHearth (fun h => { h with frames := [], groups := [] })).zeroCells cells

/-! ### The commands: global operations (R21, R31 to R34, R168, R471) -/

/-- A DEV_GOP write lands (R32, R33): refused as a whole where quench_asn lacks its guard. -/
def State.landGop (s : State) (w : Word) (cyc : Cyc) : State :=
  (s.at cyc).gate .dev 0 (fun s =>
    let bits := getF w 0 4
    if bit bits 3 && decide (getF w 24 8 ≠ 0xA5) then (s.wr F.devGopStatRejected 1).raiseBit .dev 0 8
    else if bits = 0 then s
    else
      let due := s.edgeFor cyc
      let s := (s.wr F.devGopStatPending (s.rd F.devGopStatPending ||| bits)).schedule due (.gop bits (getF w 8 1 = 1))
      if bit bits 0 then { s with sched := s.sched.map (fun e => if e.held then { e with held := false, due := due } else e) }
      else s)

/-- DEV_COMMIT_CTL.hold = 1 stops every copy whose edge has not come (R21). Written again while hold is 1 it does nothing:
copies that a COMMIT has released go on to their edge (DESIGN CHOICE, log entry 51). -/
def State.landHold (s : State) : State :=
  if s.on F.devCommitCtlHold then s
  else
    let s := s.wr F.devCommitCtlHold 1
    { s with sched := s.sched.map (fun e => if e.isCopy then { e with held := true } else e) }

/-- hold = 0 releases held copies as though they landed in this cycle (R21). -/
def State.landHoldRelease (s : State) (cyc : Nat) : State :=
  let s := s.wr F.devCommitCtlHold 0
  { s with sched := s.sched.map (fun e => if e.held then { e with held := false, due := s.edgeFor cyc } else e) }

/-- HOLD (R21). -/
def execHold (cyc : Cyc) (s : State) : Host.Outcome State Fault Refusal :=
  done ((s.at cyc).gate .dev 0 State.landHold)

/-- HOLD_RELEASE (R21). -/
def execHoldRelease (cyc : Cyc) (s : State) : Host.Outcome State Fault Refusal :=
  done ((s.at cyc).gate .dev 0 (fun s => s.landHoldRelease cyc))

/-- COMMIT (R21, R32): a DEV_GOP write with commit = 1. -/
def execCommit (w : Word) (cyc : Cyc) (s : State) : Host.Outcome State Fault Refusal := done (s.landGop (w ||| 1) cyc)

/-- GOP_SNAPSHOT (R32, R471): a DEV_GOP write with snapshot = 1. -/
def execGopSnapshot (w : Word) (cyc : Cyc) (s : State) : Host.Outcome State Fault Refusal := done (s.landGop (w ||| 2) cyc)

/-- BARRIER (R33): a DEV_GOP write with barrier = 1. -/
def execBarrier (w : Word) (cyc : Cyc) (s : State) : Host.Outcome State Fault Refusal := done (s.landGop (w ||| 4) cyc)

/-- QUENCH_ASN (R32, R168): a DEV_GOP write with quench_asn = 1. -/
def execQuenchAsn (w : Word) (cyc : Cyc) (s : State) : Host.Outcome State Fault Refusal := done (s.landGop (w ||| 8) cyc)

/-- PAIR_OP_ACK_TIMEOUT (R32, R34): 4 ticks after the local edge of a pair operation that is not acknowledged. partner_wait
stays while another is awaited. -/
def execPairOpAckTimeout (s : State) : Host.Outcome State Fault Refusal :=
  done (match s.pair.ops with
    | e :: rest =>
      if e.1 + 4 ≤ s.tick then
        let s := ((s.wr F.devGopStatPartnerFail 1).raiseBit .dev 0 10).modPair (fun p => { p with ops := rest })
        if rest.isEmpty then s.wr F.devGopStatPartnerWait 0 else s
      else s
    | [] => s)

/-! ### The commands: the Flue -/

/-- Bytes of the payload of a Flue lane reach its receiver (R388). A frame that they complete waits to be judged. -/
def State.flueBytes (s : State) (g : Nat) (bs : List Byte) : State :=
  let r := (s.lane g).flueRx.feed bs
  let s := s.modLane g (fun l => { l with flueRx := r.1 })
  forL r.2 (fun h s =>
    let q := joinHalf s.pair.halves h
    s.modPair (fun p => { p with
      halves := q.1, joined := (p.joined ++ (q.2.filter isFlueFrame).toList).drop (p.joined.length - 7) })) s

/-- Whether a frame received is a HELLO, by its number 0 (R386), or a mirror frame. -/
def isHello (hello : Bool) (f : List Byte) : Bool := decide (beAt f 4 8 = 0) == hello

/-- The oldest frame of a kind among those that wait to be judged. -/
def State.joinedOf (s : State) (hello : Bool) : Option (List Byte) := s.pair.joined.find? (isHello hello)

/-- The state without it. -/
def State.unjoin (s : State) (hello : Bool) : State :=
  s.modPair (fun p => { p with joined := p.joined.eraseP (isHello hello) })

/-- A HELLO received (R386): it carries a claim (R400); after keying, a new nonce means that the partner has restarted. -/
def State.takeHello (s : State) (h : Hello) : State :=
  let s := s.peerClaim h.claim
  if s.keyed then (if s.pair.peerNonces.contains h.nonce then s else s.enterHello) else s.judgeHello h

/-- HELLO (R386): the oldest HELLO frame received. -/
def execHello (cyc : Cyc) (s : State) : Host.Outcome State Fault Refusal :=
  let s := s.at cyc
  done (if s.rd F.fluStatState < 3 then s
  else match s.joinedOf true with
    | some f => (s.unjoin true).takeHello (readHello f)
    | none => s)

/-- A mirror frame has verified (R389, R391, R400). -/
def State.takeMirror (s : State) (f : MFrame) : State :=
  let s := (s.peerClaim f.claim).ackRecords f.ack
  let last := ((s.pair.waiting.getLast?).map (·.seq)).getD ((s.pair.taken.map (·.seq)).getD 0)
  if f.seq ≤ last then s
  else s.modPair (fun p => { p with waiting := (p.waiting ++ [f]).drop (p.waiting.length - 3) })

/-- MIRROR_FRAME_VERIFIED (R387, R389): the tag of the oldest mirror frame received. `sel` and `alarm` are what the mirror
brings of SEL and ALARM_N, for which the frame has no field (log entry 60). -/
def execMirrorFrameVerified (sel : Fin 16) (alarm : Fin 4) (s : State) : Host.Outcome State Fault Refusal :=
  done (if !s.keyed then s
  else match s.joinedOf false with
    | some bs =>
      let s := s.unjoin false
      match openMirror s.pair.key bs with
      | some f => s.takeMirror { f with sel := sel, alarm := alarm }
      | none => (s.count .flu 0 5).event F.fluEvtTagFail
    | none => s)

/-- MIRROR_STALE (R394): the 8th edge in a row without a new frame. -/
def execMirrorStale (s : State) : Host.Outcome State Fault Refusal :=
  done (if 8 ≤ s.pair.missed then s.dropMirror else s)

/-- PARTNER_SYNC_LOST (R396): 16 edges in a row without a new frame, or without an advancing acknowledgement. -/
def execPartnerSyncLost (s : State) : Host.Outcome State Fault Refusal :=
  done (if 16 ≤ s.pair.missed ∨ 16 ≤ s.pair.still then s.dropSync else s)

/-- HANDOVER (R404): FLU_CMD op 1. -/
def execHandover (cyc : Cyc) (s : State) : Host.Outcome State Fault Refusal := done (s.landFluCmd 1 cyc)

/-- HANDOVER_RELEASE (R404): at H + 2 the unit releases the lock and enters STANDBY; frames still queued are lost. -/
def execHandoverRelease (s : State) : Host.Outcome State Fault Refusal :=
  done (match s.pair.handover with
    | some h =>
      if h + 2 ≤ s.tick then
        (((s.modPair (fun p => { p with handover := none, noAdmit := false })).enterStandby).loseHearth).raiseMirror
      else s
    | none => s)

/-- RESYNC (R394): FLU_CMD op 2. -/
def execResync (cyc : Cyc) (s : State) : Host.Outcome State Fault Refusal := done (s.landFluCmd 2 cyc)

/-- PARTNER_FAILURE (R405): a standby that has read the lock released at two edges in a row, where the partner held it,
decides. -/
def execPartnerFailure (s : State) : Host.Outcome State Fault Refusal :=
  let own := s.ownClaim
  let clear := match s.currentClaim with
    | some c => decide (c < own)
    | none => true
  done (if s.effMode = 5 ∧ s.pair.sawLock = true ∧ 2 ≤ s.pair.freeEdges ∧ s.pair.takeover = none then
    let s := s.event F.fluEvtPartnerFailed
    if clear then s.modPair (fun p => { p with takeover := some (s.tick + 1, s.on F.fluStatMirrorValid) }) else s
  else s)

/-- TAKEOVER (R406, R407): edge E has come. -/
def execTakeover (s : State) : Host.Outcome State Fault Refusal :=
  done (match s.pair.takeover with
    | some (e, warm) => if s.effMode = 5 ∧ e ≤ s.tick then s.takeOver e warm else s
    | none => s)

/-- TAKEOVER_COMPLETE (R37, R406): at E + 3 the first sealed frames leave. -/
def execTakeoverComplete (s : State) : Host.Outcome State Fault Refusal :=
  done (match s.pair.tookAt with
    | some e => if s.effMode = 7 ∧ e + 3 ≤ s.tick then s.setEffMode 4 else s
    | none => s)

/-- CLAIM_FRAME (R400): a claim with its CRC-4 on CLAIM_IN; one with a bad CRC is discarded. -/
def execClaimFrame (claim : BitVec 16) (crc : BitVec 4) (s : State) : Host.Outcome State Fault Refusal :=
  done (if crc.toNat = claimCrc claim.toNat then s.peerClaim claim.toNat else s)

/-- CLAIM_AGE_EXPIRY (R402): ACTIVE becomes SOLO at the edge at which no peer claim has arrived for 64 ticks. -/
def execClaimAgeExpiry (s : State) : Host.Outcome State Fault Refusal :=
  done (if s.noPeer && decide (s.effMode = 4) then s.setEffMode 6 else s)

/-! ### The commands: self-test of a standby (R397) -/

/-- Whether the self-test of R397 runs. -/
def State.selfTests (s : State) : Bool := decide (s.effMode = 5) && s.on F.fluCfgStEn

/-- STANDBY_KAT (R397): every 32 ticks each Chimney tests one Stove. -/
def execStandbyKat (s : State) : Host.Outcome State Fault Refusal :=
  done (if s.selfTests && decide (s.tick % 32 = 0) then
    forN 8 (fun c s =>
      let k := (s.chim c).nextKat % 64
      (s.katStart c [k] .standby).modChim c (fun r => { r with nextKat := (k + 1) % 64 })) s
  else s)

/-- IDLE_LANE_WINDOW (R397): a window of 125 ticks on a lane of no enabled port, and the errors that it counted. -/
def execIdleLaneWindow (g : LaneNo) (errors : Nat) (s : State) : Host.Outcome State Fault Refusal :=
  done (if s.selfTests && decide (g.val < 144) && (s.portOfLane g).isNone && decide (s.tick % 125 = 0) then
    s.modPair (fun p =>
      let l := p.badLanes.filter (fun x => decide (x ≠ g.val))
      { p with badLanes := if errors = 0 then l else l.filter (· < g.val) ++ [g.val] ++ l.filter (g.val < ·) })
  else s)

end Sys2Proof.Machine
end

