-- ==== Sys2Proof/Machine/Events.lean ====
section
/-! DEFINITION. SRAM errors and fault latches, fault injection, the event recorder's commands, counter snapshots, clears
and reads, and the counter archive (R452 to R480), with the scrub of a standby (R397). -/

namespace Sys2Proof.Machine

open Sys2Proof

/-- The state with the reporting channels changed by `f`. -/
def State.modRep (s : State) (f : Report → Report) : State := { s with rep := f s.rep }

/-! ### SRAM errors (R397, R452, R453) -/

/-- The pages whose chapters name fault sources (R203, R318, R336, R384, R411); any other reports first_src 0 (R453). -/
def namesSources : Page → Bool
  | .stv | .kvt | .hrt | .cxm | .flu => true
  | _ => false

/-- The consequences of an uncorrectable error for the data concerned, where the owning chapter states them: a Stove
whose microcode it hit (R173), a vault slot, whose tag then cannot hold (R318), root counters and cached nodes (R380), the
record queues (R411). -/
def State.errorConsequence (s : State) (p : Page) (i src : Nat) (node : Fin 16 × Fin 8 × Nat) (q : LineIn) : State :=
  match p with
  | .stv => if 32 ≤ src ∧ src < 96 then (s.stvSet i [src - 32] .ucode).count .stv i 4 else s
  | .kvt => if (s.slot src).present ∧ !(s.slot src).bad then s.slotFails src else s
  | .hrt => (s.count .hrt 0 11).hrtEvent F.hrtEvtUncorrectable 0
  | .cxm =>
    let qs := q.queues.map (·.val)
    let cs := q.contexts.map (·.val)
    if src < 16 then (if s.regionOn src then s.poison src 3 0 0 qs cs else s)
    else if src = 16 ∧ s.regionOn node.1.val = true then s.poison node.1.val 2 node.2.1.val node.2.2 qs cs
    else s
  | .flu => if src = 0 then s.resync else s
  | _ => s

/-- An error found by a checker takes effect. `node` names the cached node it hit, `q` what a poisoned scope holds. -/
def State.eccFound (s : State) (e : EccErr) (node : Fin 16 × Fin 8 × Nat) (q : LineIn) : State :=
  let src := if namesSources e.page then e.src.val else 0
  if e.double then (s.sramError e.page e.inst.val src).errorConsequence e.page e.inst.val src node q
  else s.sramCorrected e.page e.inst.val src

/-! ### Clearing latches and arming checkers (R454, R455, R457) -/

/-- PAGE_FAULT bit 15 written with 1 (R454). -/
def State.clearFault (s : State) (p : Page) (i : Nat) : State := s.setEvtWord (keyOf (F.pageFirstSrc p) i) 0

/-- FLT_FIRST_SRC.valid written with 1 (R478). -/
def State.clearFlt (s : State) : State := (s.setEvtWord (keyOf F.fltFirstPageId) 0).setEvtWord (keyOf F.fltFirstSrcSrc) 0

/-- A PAGE_FINJ write lands (R457). -/
def State.landFinj (s : State) (p : Page) (i : Nat) (w : Word) : State :=
  let kind := getF w 10 2
  if getF w 24 8 ≠ 0x96 ∨ kind = 3 ∨ s.mode = 9 ∨ s.mode = 10 ∨ s.on F.tmpCfgCfgLock = true then s
  else
    let rest := s.rep.armed.filter (fun e => decide (¬ (e.1 = p ∧ e.2.1 = i)))
    s.modRep (fun r => { r with armed := if kind = 0 then rest else rest ++ [(p, i, getF w 0 10, kind)] })

/-- A word guarded by an armed checker is written (R457): the checker is disarmed, and the word holds an error. -/
def State.guardWritten (e : Fin 64 × Fin 256 × Fin 1024) (s : State) : State :=
  let hit := fun (x : Page × Nat × Nat × Nat) => decide (x.1.code = e.1.val ∧ x.2.1 = e.2.1.val ∧ x.2.2.1 = e.2.2.val)
  s.modRep (fun r => { r with armed := r.armed.filter (fun x => !hit x), injected := r.injected ++ r.armed.filter hit })

/-- A word that holds an injected error is written again before it is read (R457). -/
def State.injectedGone (e : Fin 64 × Fin 256 × Fin 1024) (s : State) : State :=
  let hit := fun (x : Page × Nat × Nat × Nat) => decide (x.1.code = e.1.val ∧ x.2.1 = e.2.1.val ∧ x.2.2.1 = e.2.2.val)
  s.modRep (fun r => { r with injected := r.injected.filter (fun x => !hit x) })

/-! ### The event recorder (R460 to R467) -/

/-- The ring thaws (R463): the records held are stored in sequence order. -/
def State.unfreeze (s : State) : State :=
  let held := s.rep.hold
  forL held (fun r s => s.storeRecord r) (s.modRep (fun r => { r with frozenAt := none, hold := [] }))

/-- An EVR_CMD write lands (R463, R464, R479). -/
def State.landEvrCmd (s : State) (w : Word) : State :=
  s.gate .evr 0 (fun s =>
    let s := if getF w 0 1 = 1 ∧ s.rep.frozenAt = none then s.modRep (fun r => { r with frozenAt := some s.tick }) else s
    let s := if getF w 1 1 = 1 ∧ s.rep.frozenAt.isSome then s.unfreeze else s
    if getF w 2 1 = 1 then s.startFlush else s)

/-- EVR becomes ready (R460): the next number follows the highest in MRAM, the records held so far are numbered and pass
the filters, and the number advances past those dropped. -/
def State.evrReady (s : State) : State :=
  let first := if s.rep.nv.isEmpty then 0 else (s.rep.nv.map (·.seq)).foldl max 0 + 1
  let held := s.rep.early
  let s := s.modRep (fun r => { r with nextSeq := first % 2 ^ 48, early := [] })
  let s := forL held (fun q s =>
    let seq := s.rep.nextSeq
    ((s.modRep (fun r => { r with nextSeq := (seq + 1) % 2 ^ 48 })).count .evr 0 1).filterRecord q seq) s
  s.modRep (fun r => { r with nextSeq := (r.nextSeq + r.earlyGap) % 2 ^ 48, earlyGap := 0 })

/-- The buckets refill at edge `n` (R461): those of the codes whose period divides it. -/
def State.refillBuckets (s : State) (n : Nat) : State :=
  s.modRep (fun r => { r with buckets := r.buckets.filter (fun b => decide (n % s.rlPeriod b.1 ≠ 0)) })

/-- EVR_RD (R467): the volatile ring first, then the MRAM ring, then the deep log. -/
def State.fetchRecord (s : State) (seq : Nat) : State :=
  let found := fun (place : Nat) (r : Record) => ({ result := 0, place := place, data := recordBytes r } : RecFetch)
  let f : RecFetch := match s.rep.ring.find? (fun r => decide (r.seq = seq)) with
    | some r => found 0 r
    | none => match s.rep.nv.find? (fun r => decide (r.seq = seq)) with
      | some r => found 1 r
      | none => match s.rep.deepLog.find? (fun e => decide (e.2.seq = seq)) with
        | some e => if s.poisoned (s.rd F.evrDeepRegion) e.1 then { result := 2, place := 2 } else found 2 e.2
        | none => { result := 1 }
  s.modRep (fun r => { r with fetch := f })

/-! ### Counters (R468 to R475) -/

/-- A counter cleared at step 2 (R472). `arrived` are the counters at which a carry arrived at this edge. -/
def State.clearCounter (s : State) (arrived : List RegKey) (p : Page) (i c : Nat) : State :=
  let lost := arrived.contains (ctrKey p i c)
  let s := s.setCtr p i c { s.ctr p i c with live := 0, sat := false, carryLost := lost }
  if lost then (s.pmcEvent 1 p i c).count .pmc 0 3 else s

/-- The page, instance and number of a counter by its key. -/
def ctrIndex (k : RegKey) : Nat := (k.off - 0x040) / 0x10

/-- PMC_CMD.clear_all at step 2 (R472). -/
def State.clearCounters (s : State) (arrived : List RegKey) : State :=
  forL (s.rep.ctrs.map (·.1)) (fun k s => s.clearCounter arrived k.page k.inst (ctrIndex k)) s

/-- A CNT_CFG write lands (R472, R477). -/
def State.landCntCfg (s : State) (p : Page) (i c : Nat) (w : Word) (cyc : Nat) : State :=
  let s := s.putCopy (keyOf (F.cntSelect p c) i) (w &&& 0x37FF) cyc
  if getF w 15 1 = 1 then s.schedule (s.edgeFor cyc) (.cntClear p i c) else s

/-- A CNT_CFG copy is applied (R472): a change of a field clears the counter. -/
def State.commitCntCfg (s : State) (arrived : List RegKey) (k : RegKey) (w : Word) : State :=
  let old := s.word k
  let s := s.setWord k w
  if old = w then s else s.clearCounter arrived k.page k.inst (ctrIndex k)

/-- The carries sent in the last cycle of a tick arrive (R469). They are told as well, for R472. -/
def State.carriesArrive (s : State) : State × List RegKey :=
  let l := s.rep.carries
  let s := s.modRep (fun r => { r with carries := [] })
  (forL l (fun e s => addCtr 8 e.1.page e.1.inst (ctrIndex e.1) e.2 s) s, l.map (·.1))

/-- A PMC event that names no counter. -/
def State.pmcFlag (s : State) (f : Fld) : State := (s.wrEvt F.pmcLastBit f.lo).event f

/-- The pages of BAR0 that carry counters, in ascending address order (R482, R483). -/
def counterPages : List (Page × Nat) :=
  [.dev, .pwr, .flt, .evr, .pmc, .tsu, .kvt, .kdl, .tmp, .ofc, .flu, .cxm, .hst, .hrt, .sch, .fwd, .asn, .mod].map
    (fun p => (p, 0)) ++
  (List.range 8).flatMap (fun c => [(.chm, c), (.stv, c)] ++
    [Page.lan, .prt, .otf, .sea].flatMap (fun p => (List.range 18).map (fun j => (p, 18 * c + j))) ++ [(.lrc, c)])

/-- A shadow as CNT_VAL_LO and CNT_VAL_HI give it. -/
def Counter.shadowWords (k : Counter) : BitVec 64 :=
  BitVec.ofNat 64 (k.shadow + 2 ^ 48 * b2n k.shSat + 2 ^ 49 * b2n k.shCarryLost)

/-- The archive block of a snapshot (R475), up to its last page. -/
def State.archWords (s : State) (n : Nat) : List (BitVec 64) :=
  [BitVec.ofNat 64 s.rep.snapCount, BitVec.ofNat 64 n] ++ List.replicate 6 0 ++
    counterPages.flatMap (fun e => (List.range 8).map (fun c => (s.ctr e.1 e.2 c).shadowWords))

/-- The state with the archive changed by `f`. -/
def State.modArch (s : State) (f : Archive → Archive) : State := s.modRep (fun r => { r with arch := f r.arch })

/-- A snapshot is archived (R475), unless the block before it is still being written. A block takes 1 to 4 ticks. -/
def State.archive (s : State) (n : Nat) : State :=
  let blocks := s.linesOf (s.rd F.pmcArchRegion) / 1024
  if !s.on F.pmcArchValid then s
  else if s.rep.arch.writing.isSome then
    ((s.modArch (fun a => { a with skipped := satAdd 16 a.skipped 1 })).count .pmc 0 5).pmcFlag F.pmcEvtArchSkipped
  else
    let b := s.rep.arch.next
    let due := n + 1 + (s.free 2).toNat
    (s.burn.modArch (fun a =>
      { a with writing := some (b, due, s.archWords n), next := if b + 1 < blocks then b + 1 else 0 }))

/-- The archive at an edge: a block is whole, but for lines in a poisoned scope (R475). -/
def State.archEdge (s : State) : State :=
  match s.rep.arch.writing with
  | some (b, due, ws) =>
    if s.tick < due then s
    else
      let r := s.rd F.pmcArchRegion
      let bad := (List.range 1024).filter (fun l => s.poisoned r (1024 * b + l))
      let old := nget [] s.rep.arch.blocks b
      let new := if bad.isEmpty then ws else
        ws.zipIdx.map (fun (e : BitVec 64 × Nat) => if bad.contains (e.2 / 8) then old.getD e.2 0 else e.1)
      let s := (s.modArch (fun a => { a with writing := none, blocks := nset [] a.blocks b new })).count .pmc 0 4
      if bad.isEmpty then s else s.pmcFlag F.pmcEvtArchPoison
  | none => s

/-- A snapshot at step 1 of edge `n` (R471): several requests of one edge give one. -/
def State.snapshot (s : State) (n : Nat) : State :=
  if s.rep.snapEdge = some n then s
  else
    let latch := fun (k : Counter) => ({ k with shadow := k.live, shSat := k.sat, shCarryLost := k.carryLost } : Counter)
    let s := s.modRep (fun r => { r with
      ctrs := (r.ctrs.map (fun e => (e.1, latch e.2))).filter (fun e => decide (e.2 ≠ {})), snapCount := r.snapCount + 1, snapEdge := some n })
    (s.count .pmc 0 1).archive n

/-- Whether edge `n` takes a periodic snapshot (R471, R480). -/
def State.periodic (s : State) (n : Nat) : Bool :=
  let p := s.rd F.pmcSnapPeriodLog2
  decide (p ≠ 0 ∧ n % 2 ^ min 24 p = 0)

/-- A PMC_CMD write lands (R471, R472, R480). -/
def State.landPmcCmd (s : State) (w : Word) (cyc : Nat) : State :=
  s.gate .pmc 0 (fun s =>
    let s := if getF w 0 1 = 1 then s.schedule (s.edgeFor cyc) .snapshot else s
    if getF w 1 1 = 1 then s.schedule (s.edgeFor cyc) .clearAll else s)

/-- CNT_VAL_HI as a read of CNT_VAL_LO latches it (R473, R477). -/
def Counter.high (k : Counter) : Word :=
  BitVec.ofNat 32 (k.shadow / 2 ^ 32 + 2 ^ 16 * b2n k.shSat + 2 ^ 17 * b2n k.shCarryLost)

/-- A word of the archive is read (R475, R480). -/
def State.archRead (s : State) (block word : Nat) : State :=
  let s := s.setWord (keyOf F.pmcArchSelBlock) (BitVec.ofNat 32 (block + 2 ^ 16 * word))
  match s.rep.arch.blocks.find? (fun e => decide (e.1 = block)) with
  | none => s.modArch (fun a => { a with result := 1 })
  | some e =>
    if s.poisoned (s.rd F.pmcArchRegion) (1024 * block + word / 8) then s.modArch (fun a => { a with result := 2 })
    else
      let v := (e.2.getD word 0).toNat
      s.modArch (fun a => { a with result := 0, lo := BitVec.ofNat 32 v, hi := BitVec.ofNat 32 (v / 2 ^ 32) })

/-! ### The commands -/

/-- ECC_CORRECTED (R452). -/
def execEccCorrected (p : Page) (i : Fin 256) (src : Fin 1024) (s : State) : Host.Outcome State Fault Refusal :=
  done (s.eccFound { page := p, inst := i, src := src, double := false } (0, 0, 0) {})

/-- ECC_UNCORRECTABLE (R453). `node` names the cached node that it hit, where it hit one. -/
def execEccUncorrectable (p : Page) (i : Fin 256) (src : Fin 1024) (node : Fin 16 × Fin 8 × Nat) (inp : LineIn) (cyc : Cyc)
    (s : State) : Host.Outcome State Fault Refusal :=
  done ((s.at cyc).eccFound { page := p, inst := i, src := src, double := true } node inp)

/-- STANDBY_SCRUB (R397): every 2^16 ticks, with the errors that it found. -/
def execStandbyScrub (errs : List EccErr) (s : State) : Host.Outcome State Fault Refusal :=
  done (if s.selfTests && decide (s.tick % 65536 = 0) then
    forL errs (fun e s => onlyIf (!e.double) (fun s => s.count .flu 0 12) (s.eccFound e (0, 0, 0) {})) s
  else s)

/-- FAULT_CLEAR (R454). -/
def execFaultClear (p : Page) (i : Fin 256) (s : State) : Host.Outcome State Fault Refusal := done (s.clearFault p i.val)

/-- FLT_CLEAR (R455, R478). -/
def execFltClear (s : State) : Host.Outcome State Fault Refusal := done (s.gate .flt 0 State.clearFlt)

/-- FAULT_INJECT (R457): a write of PAGE_FINJ. -/
def execFaultInject (p : Page) (i : Fin 256) (w : Word) (s : State) : Host.Outcome State Fault Refusal :=
  done (s.landFinj p i.val w)

/-- FREEZE (R463). -/
def execFreeze (s : State) : Host.Outcome State Fault Refusal := done (s.landEvrCmd 1)

/-- UNFREEZE (R463). -/
def execUnfreeze (s : State) : Host.Outcome State Fault Refusal := done (s.landEvrCmd 2)

/-- FREEZE_TIMEOUT (R463): the 1,024th edge after the freeze. -/
def execFreezeTimeout (s : State) : Host.Outcome State Fault Refusal :=
  done (match s.rep.frozenAt with
    | some e => if e + 1024 ≤ s.tick then s.unfreeze.event F.evrEvtFreezeTimeout else s
    | none => s)

/-- FLUSH (R464). -/
def execFlush (s : State) : Host.Outcome State Fault Refusal := done (s.landEvrCmd 4)

/-- FLUSH_DONE (R465): where NV writes are inhibited, nothing was written. -/
def execFlushDone (s : State) : Host.Outcome State Fault Refusal :=
  done (s.endFlush (if s.nvInhibited then 0 else s.rep.ring.length))

/-- RECORD_FETCH (R467): EVR_RD_CMD.fetch, of the number in EVR_RD_SEQ. -/
def execRecordFetch (s : State) : Host.Outcome State Fault Refusal :=
  done (s.gate .evr 0 (fun s => s.fetchRecord (s.rd F.evrRdSeqLoSeq + 2 ^ 32 * s.rd F.evrRdSeqHiSeq)))

/-- PMC_SNAPSHOT (R471). -/
def execPmcSnapshot (cyc : Cyc) (s : State) : Host.Outcome State Fault Refusal := done ((s.at cyc).landPmcCmd 1 cyc)

/-- PERIODIC_SNAPSHOT (R471): the present edge is one that the period names, and has no snapshot yet. -/
def execPeriodicSnapshot (s : State) : Host.Outcome State Fault Refusal :=
  done (if s.periodic s.tick then s.snapshot s.tick else s)

/-- CLEAR_ALL (R472). -/
def execClearAll (cyc : Cyc) (s : State) : Host.Outcome State Fault Refusal := done ((s.at cyc).landPmcCmd 2 cyc)

/-- COUNTER_CLEAR (R472): a write of the CNT_CFG of counter `c` of a page. -/
def execCounterClear (p : Page) (i : Fin 256) (c : Fin 8) (w : Word) (cyc : Cyc) (s : State) :
    Host.Outcome State Fault Refusal :=
  done ((s.at cyc).landCntCfg p i.val c.val w cyc)

/-- COUNTER_READ (R473). -/
def execCounterRead (p : Page) (i : Fin 256) (c : Fin 8) (s : State) : Host.Outcome State Fault Refusal :=
  let k := s.ctr p i.val c.val
  done ((s.setCtr p i.val c.val { k with hi := k.high }).emit (.read [BitVec.ofNat 32 k.shadow]))

/-- ARCHIVE_READ (R475): a write of PMC_ARCH_SEL. -/
def execArchiveRead (block : Fin 65536) (word : Fin 8192) (s : State) : Host.Outcome State Fault Refusal :=
  done (s.gate .pmc 0 (fun s => s.archRead block.val word.val))

end Sys2Proof.Machine
end

