-- ==== Sys2Proof/Machine/Line.lean ====
section
/-! DEFINITION. What the lanes drive and hear (R62, R63, R71, R73 to R76, R79 to R82, R84): the sources of the
transmitter, the pins, the loopbacks, the checker and the detector of slip framing. -/

namespace Sys2Proof.Machine

open Sys2Proof

/-! ### The elastic buffer of the far-end loopback (R82) -/

/-- Received bits reach the buffer word by word; a whole word that finds it full is dropped. -/
def LaneRt.elasticPush (l : LaneRt) (bs : List Bool) : LaneRt :=
  let all := l.elIn ++ bs
  let kept := all.drop l.elSkip
  let n := kept.length / 64
  let words := (List.range n).map (fun i => (kept.drop (64 * i)).take 64)
  { l with elSkip := l.elSkip - (all.length - kept.length), elIn := kept.drop (64 * n), elastic := (l.elastic ++ words).take 64 }

/-- The next bit that leaves the buffer; the last word is repeated while it is empty. -/
def LaneRt.elasticBit (l : LaneRt) : Bool × LaneRt :=
  match l.elOut with
  | b :: bs => (b, { l with elOut := bs })
  | [] =>
    let w := (l.elastic.head?).getD l.elLast
    (w.headD false, { l with elastic := l.elastic.drop 1, elLast := w, elOut := w.drop 1 })

/-- `n` bits that leave the buffer. -/
def LaneRt.elasticPull (l : LaneRt) (n : Nat) : List Bool × LaneRt :=
  (List.range n).foldl (fun (q : List Bool × LaneRt) _ =>
    let r := q.2.elasticBit
    (q.1 ++ [r.1], r.2)) ([], l)

/-! ### The transmitter -/

/-- The pattern that a lane generates or checks: in checking PRBS31 at NRZ and PRBS13Q at PAM4 rates, whatever the
register says (R71). -/
def State.lanePattern (s : State) (f : Fld) (g : Nat) : Nat :=
  if s.laneState g = 3 then (if isPam4 (s.laneRate g) then 2 else 5) else s.rd f g

/-- What the flags of a lane's slip frames say (R73, R385): those of training and of the Flue on pair lanes. A lane with
no rung above its own proposes its own (DESIGN CHOICE, log entry 49). -/
def State.ownFlags (s : State) (g : Nat) : SlipFlags :=
  if !isPairLane g then {}
  else
    let l := s.lane g
    let train := decide (s.laneState g = 2)
    { rung := (nextRung g (s.rd F.lanCtrlClass g) (s.laneRate g)).getD (s.laneRate g), checkPass := l.passed
      tap := if train then l.wantTap.val else 0, request := if train then l.wantReq.val else 0, reply := l.ffeReply
      user := s.mode % 16 * 4 + 2 * s.rd F.fluStatLockHeld + s.rd F.fluStatSide }

/-- `n` bits of the pattern generator (R79). -/
def State.patternBits (s : State) (g n : Nat) : State × List Bool :=
  match patternPoly (s.lanePattern F.lanPrbsTxPattern g) with
  | none => (s.burn, (List.range n).map (fun i => (s.free n).getLsbD i))
  | some poly =>
    let r := (s.lane g).gen % 2 ^ poly.headD 0
    let q := polyRun poly n (if r = 0 then 1 else r)
    (s.modLane g (fun l => { l with gen := q.2 }), q.1)

/-- `n` bits of slip framing, whose payload is PRBS31 in test framing and the mirror traffic on a pair lane (R74, R388). -/
def State.slipBits (s : State) (g n : Nat) (test : Bool) : State × List Bool :=
  let l := s.lane g
  let r := l.slipTx.run (s.rd F.lanSlipCfgPeriod g) (s.ownFlags g) n { prbs31 := test, wait := l.flueTx, at_ := l.flueAt }
  (s.modLane g (fun l => { l with slipTx := r.2.1, flueTx := r.2.2.wait, flueAt := r.2.2.at_ }), r.1)

/-- The bits that the transmitter of a lane takes for `n` bits on the line (R71, R82, R84): the checking pattern, the
received words of a far-end loopback, or the source that tx_src names; `port` are the bits that its port gives it. What the
reserved source sends is a free value. -/
def State.laneSource (s : State) (g n : Nat) (port : List Bool) : State × List Bool :=
  if s.laneState g = 3 then s.patternBits g n
  else if s.rd F.lanLoopMode g = 2 then
    let r := (s.lane g).elasticPull n
    (s.setLane g r.2, r.1)
  else match s.rd F.lanCtrlTxSrc g with
    | 0 => if isPairLane g then s.slipBits g n false else (s, port.take n)
    | 1 => s.patternBits g n
    | 2 => s.slipBits g n true
    | _ => (s.burn, (List.range n).map (fun i => (s.free n).getLsbD i))

/-- The next `n` symbols of a lane's transmitter (R62, R63). -/
def State.laneSends (s : State) (g n : Nat) (port : List Bool) : State × List Sym :=
  let pam := isPam4 (s.laneRate g)
  let r := s.laneSource g (if pam then 2 * n else n) port
  let s := r.1
  let xs := symsOf pam r.2
  let q := if pam && s.on F.lanCtrlTxPrecode g then precode (s.lane g).txP xs else (xs, (s.lane g).txP)
  (s.modLane g (fun l => { l with txP := q.2 }), polarity pam (s.on F.lanCtrlTxInvert g) q.1)

/-- In KINDLING a unit sends on its line lanes only by its claim (R401). -/
def State.claimDrives (s : State) : Bool :=
  !s.on F.fluStatPeerLock && (match s.currentClaim with
    | some c => decide (c < s.ownClaim)
    | none => s.noPeer)

/-- Whether the mode lets the line lanes drive (R36, R399, R401). -/
def State.lineDrives (s : State) : Bool :=
  (s.effMode = 2 && s.claimDrives) || (s.sealing && s.on F.fluStatLockHeld)

/-- Whether a lane drives its output pins: enabled and not squelched by its own register, a near-end loopback without
ne_drive, its module, a shed, a halt, the officer's hold, or the rules of the pair (R45, R82, R84, R399, R401, R429, R434,
R445). The Flue lanes are under no rule of the pair. -/
def State.lanePins (s : State) (g : Nat) : Bool :=
  s.on F.lanCtrlEnable g && !s.on F.lanCtrlTxSquelch g && !s.pwr.shed && !s.pwr.halted &&
    (decide (s.rd F.lanLoopMode g ≠ 1) || s.on F.lanLoopNeDrive g) &&
    (isPairLane g || (!(s.lane g).modSquelch && !s.tamper.lineHold && s.lineDrives))

/-- Symbols sent appear on the pins that drive. -/
def State.laneEmit (s : State) (g : Nat) (xs : List Sym) : State :=
  if s.lanePins g && !xs.isEmpty then s.emit (.symbols g xs) else s

/-! ### The receiver -/

/-- The bits of received symbols, through polarity, decoder and Gray map (R62, R63); in a far-end loopback they also go
back through the elastic buffer (R82). -/
def State.laneBits (s : State) (g : Nat) (xs : List Sym) : State × List Bool :=
  let pam := isPam4 (s.laneRate g)
  let xs := polarity pam (s.on F.lanCtrlRxInvert g) xs
  let q := if pam && s.on F.lanCtrlRxPrecode g then unprecode (s.lane g).rxP xs else (xs, (s.lane g).rxP)
  let bs := bitsOf pam q.1
  let loop := decide (s.rd F.lanLoopMode g = 2)
  (s.modLane g (fun l =>
    let l := { l with rxP := q.2 }
    if loop then l.elasticPush bs else l), bs)

/-- What a receiver hears in the time of the symbols `xs` (R82): the line, or, in a near-end loopback, what the transmitter
sends in that time. A receiver without power hears nothing. -/
def State.laneHears (s : State) (g : Nat) (xs : List Sym) (port : List Bool) : State × List Bool :=
  if !s.hearing g then (s, [])
  else if s.rd F.lanLoopMode g = 1 then
    let r := s.laneSends g xs.length port
    (r.1.laneEmit g r.2).laneBits g r.2
  else s.laneBits g xs

/-- Bits that reach the checker (R71, R80): it counts them and their errors while it is locked; a lock lost sets `lost`,
and a check does not survive it. -/
def State.feedChecker (s : State) (g : Nat) (bs : List Bool) : State :=
  if !s.checkerRuns g then s
  else
    let old := (s.lane g).chk
    let c := Checker.feed (s.lanePattern F.lanPrbsRxPattern g) { old with errors := 0, bits := 0, lost := false } bs
    let s := (s.setChk g { c with lost := false, errors := satAdd 48 old.errors c.errors, bits := satAdd 48 old.bits c.bits }).count
      .lan g 1 c.errors
    onlyIf c.lost (fun s =>
      let s := s.wr F.lanPrbsStatLost 1 g
      onlyIf (decide (s.laneState g = 3)) (fun s => s.modLane g (fun l => { l with lostInCheck := true })) s) s

/-- Symbols received by a lane reach its checker. -/
def State.laneFeed (s : State) (g : Nat) (xs : List Sym) (port : List Bool) : State :=
  let r := s.laneHears g xs port
  r.1.feedChecker g r.2

/-- A frame of slip framing reaches the detector (R66, R69, R76). The payload of a frame that a locked detector takes goes
to its consumer: on a pair lane the receiver of R388. -/
def State.slipFrame (s : State) (g : Nat) (bs : List Bool) : State :=
  let f := slipFrameOf bs
  let locked := decide (s.rd F.lanSlipStatState g = 2)
  let bad := s.slipBad g f
  let s := (s.slipDetect g f).trainExchange g f
  onlyIf locked (fun s =>
    if isPairLane g then s.flueBytes g (bitBytes f.payload) else s.emit (.slipPayload g f.payload bad)) s

/-! ### The lanes at an edge -/

/-- What a lane received, sent and measured up to the edge that ends the tick (R80 to R83). -/
def State.laneMeasure (i : LaneIn) (s : State) : State :=
  let g := i.lane.val
  let s := s.modLane g (fun l => { l with wantTap := i.tap, wantReq := i.request })
  let s := if s.rd F.lanLoopMode g = 1 then s.laneFeed g (List.replicate i.sent 0) i.port
    else
      let s := s.laneFeed g i.rx i.port
      let r := s.laneSends g i.sent i.port
      r.1.laneEmit g r.2
  let s := ((s.wr F.lanEyeEyeUpper i.eyeUpper.toNat g).wr F.lanEyeEyeMid i.eyeMid.toNat g).wr F.lanEyeEyeLower i.eyeLower.toNat g
  ((s.wr F.lanEyeWidth i.eyeWidth.val g).wr F.lanSnrSnr i.snr.val g).nrzEye g

/-- The lane part of an edge, before configuration takes effect: measurements, losses of signal, ready ticks. -/
def State.laneEdge (e : EdgeIn) (s : State) : State :=
  let s := forL e.lanes State.laneMeasure s
  forN 146 (fun g s =>
    let s := State.laneLosEdge g s
    onlyIf (decide (s.laneState g = 4)) (fun s => s.count .lan g 5) s) s

/-! ### The commands -/

/-- PRBS_LOCK (R80): the symbols that the lane has received, which bring its checker to its lock. -/
def execPrbsLock (rx : LaneRx) (s : State) : Host.Outcome State Fault Refusal := done (s.laneFeed rx.lane rx.xs [])

/-- PRBS_LOCK_LOSS (R71, R80): the symbols that the lane has received, with 64 errors within 1,024 bits. -/
def execPrbsLockLoss (rx : LaneRx) (s : State) : Host.Outcome State Fault Refusal := done (s.laneFeed rx.lane rx.xs [])

/-- SLIP_FRAME_RECEIVED (R76): a slip frame reaches the detector of a lane that selects slip framing. -/
def execSlipFrameReceived (g : LaneNo) (rx : List Sym) (s : State) : Host.Outcome State Fault Refusal :=
  done (onlyIf (decide (s.rd F.lanCtrlFraming g = 1)) (fun s =>
    let r := s.laneHears g rx []
    onlyIf (!r.2.isEmpty) (fun s => s.slipFrame g r.2) r.1) s)

end Sys2Proof.Machine
end

