-- ==== Sys2Proof/Machine/Otn.lean ====
section
/-! DEFINITION. OTN frames (R105 to R121): alignment, overhead and consequent actions; sealed groups and seal
synchronisation (R216 to R225); and what an egress OTN port sends. -/

namespace Sys2Proof.Machine

open Sys2Proof

/-- The seal engine of an OTN port. -/
def State.sealRt (s : State) (p : Nat) : SealRt := nget {} s.seals p
/-- The state with it changed by `f`. -/
def State.modSeal (s : State) (p : Nat) (f : SealRt → SealRt) : State :=
  { s with seals := nset {} s.seals p (f (s.sealRt p)) }

/-- The ODU slices of an OTN mode (R102): n of ODUCn, 1 for ODU4. -/
def oduSlices (mode : Nat) : Nat := match mode with
  | 4 => 2
  | 5 => 4
  | 6 => 8
  | _ => 1

/-- The sealed-area bytes of a frame of port `p`, and the cells and slots of a group (R216, R319, R182). -/
def State.areaBytes (s : State) (p : Nat) : Nat := oduSlices (s.rd F.otfCfgMode p) * 15232
def State.groupCells (s : State) (p : Nat) : Nat := oduSlices (s.rd F.otfCfgMode p) * 952
def State.groupSlots (s : State) (p : Nat) : Nat := 16 * 952 * oduSlices (s.rd F.otfCfgMode p) + 2

/-! ### Alignment (R107, R108) -/

/-- An occurrence seen by the hunt of a logical lane, or by its lock. -/
def State.laneOcc (s : State) (p : Nat) (o : LaneOcc) : State :=
  let r := s.otnp p
  let l := nget {} r.lanes o.lane
  let fasOk := decide (o.fas = 0xF6F6F62828)
  let put := fun (s : State) (l : LogLane) => s.modOtnp p (fun r => { r with lanes := nset {} r.lanes o.lane l })
  match l.lock with
  | some c =>
    if c.pos ≠ o.pos.val then s
    else
      let want := (c.llm + 20) % 240
      let c := { c with llm := want, mfas := (c.mfas + 20) % 256 }
      if fasOk && decide (o.llm.toNat = want) then put s { l with lock := some c, bad := 0 }
      else if max 1 (s.rd F.otfFrmOofFrames p) ≤ l.bad + 1 then put s {}
      else put s { l with lock := some c, bad := l.bad + 1 }
  | none =>
    let others := l.cands.filter (fun c => decide (c.pos ≠ o.pos.val))
    if !fasOk || decide (240 ≤ o.llm.toNat) then put s { l with cands := others }
    else
      let was := l.cands.find? (fun c => decide (c.pos = o.pos.val))
      let good := match was with
        | some c => if o.llm.toNat = (c.llm + 20) % 240 ∧ o.mfas.toNat = (c.mfas + 20) % 256 then c.good + 1 else 1
        | none => 1
      let c : HuntCand := { pos := o.pos, good := good, llm := o.llm.toNat, mfas := o.mfas.toNat }
      if good < 3 then put s { l with cands := others ++ [c] }
      else if others.any (fun q => decide (2 ≤ q.good)) then
        ((put s {}).wr F.otfStatAmbiguous 1 p).count .otf p 4
      else
        let s := put s { lock := some c }
        onlyIf (s.otnAligned p) (fun s => s.wr F.otfSkewSkewNs 0 p) s

/-- OTF_STAT.lanes_locked (R124): 0 on FlexO. -/
def State.countLocked (s : State) (p : Nat) : State :=
  let n := if isFlexo (s.rd F.otfCfgMode p) then 0
    else ((List.range 20).filter (fun i => (nget {} (s.otnp p).lanes i).lock.isSome)).length
  s.wr F.otfStatLanesLocked n p

/-! ### Frame and multiframe state (R111) -/

/-- Whether the FAS of a rebuilt frame is right (R111). On an OTL interface byte 6 is the LLM (R107). -/
def State.fasGood (s : State) (p : Nat) (f : OtnFrame) : Bool :=
  if isFlexo (s.rd F.otfCfgMode p) then decide (f.fas = 0xF6F6F6282828) else decide (f.fas >>> 8 = 0xF6F6F62828)

/-- The port is in-frame, or no longer (R111): without a frame there is no multiframe. -/
def State.leaveMf (s : State) (p : Nat) : State :=
  (s.modOtnp p (fun r => { r with rxMfas := none, mfGood := 0, mfBad := 0, inMf := false, oomFrom := none, lom := false
                                  rxOpu := [], smTrace := {}, pmTrace := {} })).wr F.otfStatMframe 0 p

/-- The FAS of a frame judged: out of frame also from hunt (R111). -/
def State.fasStep (s : State) (p : Nat) (ok : Bool) : State :=
  let r := s.otnp p
  let s := onlyIf (!ok) (fun s => s.count .otf p 2) s
  if ok then
    let s := s.modOtnp p (fun r => { r with fasGood := r.fasGood + 1, fasBad := 0 })
    if !r.inFrame && decide (max 1 (s.rd F.otfFrmIfFrames p) ≤ r.fasGood + 1) then
      (s.modOtnp p (fun r => { r with inFrame := true, oofFrom := none, lof := false })).wr F.otfStatFrame 1 p
    else s
  else
    let s := s.modOtnp p (fun r => { r with fasBad := r.fasBad + 1, fasGood := 0 })
    if r.oofFrom.isNone && decide (max 1 (s.rd F.otfFrmOofFrames p) ≤ r.fasBad + 1) then
      (((s.leaveMf p).modOtnp p (fun r => { r with inFrame := false, oofFrom := some s.tick })).wr F.otfStatFrame 2 p).count .otf p 3
    else s

/-- The MFAS of a frame judged against that of the frame before (R111). -/
def State.mfasStep (s : State) (p mfas : Nat) : State :=
  let r := s.otnp p
  let s := s.modOtnp p (fun r => { r with rxMfas := some mfas })
  match r.rxMfas with
  | none => s
  | some was =>
    if mfas = (was + 1) % 256 then
      let s := s.modOtnp p (fun r => { r with mfGood := r.mfGood + 1, mfBad := 0 })
      if !r.inMf && decide (max 1 (s.rd F.otfFrmIfFrames p) ≤ r.mfGood + 1) then
        (s.modOtnp p (fun r => { r with inMf := true, oomFrom := none, lom := false })).wr F.otfStatMframe 1 p
      else s
    else
      let s := (s.modOtnp p (fun r => { r with mfBad := r.mfBad + 1, mfGood := 0 })).count .otf p 5
      if r.oomFrom.isNone && decide (max 1 (s.rd F.otfFrmOofFrames p) ≤ r.mfBad + 1) then
        (s.modOtnp p (fun r => { r with inMf := false, oomFrom := some s.tick, smTrace := {}, pmTrace := {} })).wr
          F.otfStatMframe 2 p
      else s

/-! ### Overhead (R105, R112, R117 to R121) -/

/-- The acceptance of a trace begins anew (R117, R124). -/
def TraceRx.restart (t : TraceRx) : TraceRx := { t with last := [], same := 0 }

/-- A trace byte received (R117). The answer tells whether the trace has been accepted. A multiframe that is not whole
ends the run of equal ones. -/
def TraceRx.step (t : TraceRx) (i persist : Nat) (b : Byte) : TraceRx × Bool :=
  let t := if t.cur.length = i then t else { t.restart with cur := [] }
  if i ≠ 0 ∧ t.cur.length ≠ i then (t, false)
  else
    let cur := t.cur ++ [b]
    if cur.length = 64 then
      let same := if t.last = cur then t.same + 1 else 1
      ({ cur := [], last := cur, same := same }, decide (persist ≤ same))
    else ({ t with cur := cur }, false)

/-- TIM evaluated (R119). -/
def State.timEval (s : State) (p : Nat) : State :=
  let exp := s.rdBytes .otf 0x200 64 p
  let acc := s.rdBytes .otf 0x240 128 p
  let tim := fun (valid cs cd : Bool) (a e : Nat) => valid &&
    ((cs && decide (slice acc a 16 ≠ slice exp e 16)) || (cd && decide (slice acc (a + 16) 16 ≠ slice exp (e + 16) 16)))
  let sm := tim (s.on F.otfTtiStatSmValid p) (s.on F.otfTtiCtlCmpSmSapi p) (s.on F.otfTtiCtlCmpSmDapi p) 0 0
  let pm := tim (s.on F.otfTtiStatPmValid p) (s.on F.otfTtiCtlCmpPmSapi p) (s.on F.otfTtiCtlCmpPmDapi p) 64 32
  (s.wr F.otfTtiStatSmTim (b2n sm) p).wr F.otfTtiStatPmTim (b2n pm) p

/-- The trace bytes of a frame (R117). -/
def State.traceStep (s : State) (p : Nat) (f : OtnFrame) : State :=
  let i := f.mfas.toNat % 64
  let n := max 2 (s.rd F.otfTtiCtlTtiPersist p)
  let r := s.otnp p
  let (sm, smOk) := r.smTrace.step i n f.sm.tti
  let (pm, pmOk) := r.pmTrace.step i n f.pmTti
  let s := s.modOtnp p (fun r => { r with smTrace := sm, pmTrace := pm })
  let lvl := s.rd F.prtStatReported p
  let s := onlyIf (smOk && !decide (1 ≤ lvl ∧ lvl ≤ 5)) (fun s => (s.wrWords .otf 0x240 (leWords sm.last) p).wr F.otfTtiStatSmValid 1 p) s
  let s := onlyIf (pmOk && !decide (1 ≤ lvl ∧ lvl ≤ 6)) (fun s => (s.wrWords .otf 0x280 (leWords pm.last) p).wr F.otfTtiStatPmValid 1 p) s
  onlyIf (smOk || pmOk) (fun s => s.timEval p) s

/-- PM STAT and SM BDI over frames (R112). -/
def State.statStep (s : State) (p : Nat) (f : OtnFrame) : State :=
  s.modOtnp p (fun r =>
    let m := decide (5 ≤ f.pmStat.val)
    let run := if m = r.maint then 0 else r.statRun + 1
    let bdiRun := if f.sm.bdi = r.bdi then 0 else r.bdiRun + 1
    { r with statRun := if 3 ≤ run then 0 else run, maint := if 3 ≤ run then m else r.maint
             bdiRun := if 5 ≤ bdiRun then 0 else bdiRun, bdi := if 5 ≤ bdiRun then f.sm.bdi else r.bdi })

/-- The section overhead of a frame checked (R105): its BIP-8 against the OPU of the frame two before, where that one came
too; its BEI. A frame with IAE counts no errors (PRESUMED, log entry 54). The frame is returned with its seven ODU BIP-8
fields as received BIP-8 XOR BIP-8(OPU as received), 0 where the OPU is not known (R116). -/
def State.smStep (s : State) (p : Nat) (f : OtnFrame) : State × OtnFrame :=
  let r := s.otnp p
  let known := decide (r.rxOpu.length = 2)
  let covers := r.rxOpu.getD 0 0
  let errs := if known && !f.sm.iae then ones (f.sm.bip ^^^ covers) else 0
  let s := (s.count .otf p 6 errs).count .otf p 7 (if f.sm.bei.val ≤ 8 then f.sm.bei else 0)
  let s := s.modOtnp p (fun r => { r with rxBei := if f.sm.iae then 11 else Fin.ofNat 16 errs
                                          rxOpu := (if known then r.rxOpu.drop 1 else r.rxOpu) ++ [bip8 (f.opuOh ++ f.payload)] })
  (s, { f with bip := f.bip.map (fun b => if known then b ^^^ covers else 0) })

/-- APS_ACCEPT (R120). -/
def State.apsStep (s : State) (p : Nat) (f : OtnFrame) : State :=
  if f.mfas.toNat % 8 ≠ s.rd F.otfApsCtlLevel p then s
  else
    let r := s.otnp p
    let run := if f.aps.toNat = r.apsLast then r.apsRun + 1 else 1
    let s := s.modOtnp p (fun r => { r with apsLast := f.aps.toNat, apsRun := run })
    if max 2 (s.rd F.otfApsCtlPersist p) ≤ run ∧ s.rd F.otfApsRxAccepted p ≠ f.aps.toNat then
      let s := ((s.wr F.otfApsRxAccepted f.aps.toNat p).wr F.otfApsCtlChanged 1 p).count .otf p 13
      onlyIf (s.on F.otfApsCtlIntEn p) (fun s => s.irq .otf p) s
    else s

/-- The bytes of the Kindle channels of a frame (R121). -/
def gccBytes (chan : Nat) (f : OtnFrame) : List Byte :=
  (if chan % 2 = 1 then beBytes 2 f.gcc1.toNat else []) ++ (if 2 ≤ chan then beBytes 2 f.gcc2.toNat else [])

/-- The hunt through received channel bytes (R234): what is left to wait for, and the frames that failed their CRC. A
frame that passes is taken by its own command. The fuel bounds the bytes. -/
def gccHunt : Nat → List Byte → Nat → List Byte × Nat
  | 0, bs, n => (bs, n)
  | _ + 1, [], n => ([], n)
  | _ + 1, [b], n => ([b], n)
  | fuel + 1, a :: b :: rest, n =>
    if a ≠ 0x7E ∨ b ≠ 0x81 then gccHunt fuel (b :: rest) n
    else if rest.length < 2 then (a :: b :: rest, n)
    else
      let len := beAt rest 0 2
      if len < 16 ∨ 256 < len then gccHunt fuel (b :: rest) n
      else if rest.length < len + 6 then (a :: b :: rest, n)
      else if fcsOf (rest.take (2 + len)) = (rest.drop (2 + len)).take 4 then gccHunt fuel (rest.drop (len + 6)) n
      else gccHunt fuel (b :: rest) (n + 1)

/-- GCC bytes received (R121, R234). -/
def State.gccStep (s : State) (p : Nat) (f : OtnFrame) : State :=
  let chan := s.rd F.otfCfgKdlChan p
  if !s.portCipher p || decide (chan = 0) then s
  else
    let bs := nget [] s.kindle.gccRx p ++ gccBytes chan f
    let (left, bad) := gccHunt bs.length bs 0
    { s with kindle := { s.kindle with gccRx := nset [] s.kindle.gccRx p left } }.count .kdl 0 7 bad

/-! ### Groups (R217 to R219) -/

/-- The nonce of a frame of a group (R218). -/
def otnNonce (fromInitiator : Bool) (salt : BitVec 96) (g f : Nat) : BitVec 96 :=
  BitVec.ofNat 96 (ssci fromInitiator * 2 ^ 64 + (g % 2 ^ 48) * 2 ^ 16 + (f % 16) * 2 ^ 12) ^^^ salt

/-- The sealed area of a frame enciphered or deciphered (R218): block b under counter word b + 1. -/
def otnCrypt (key : BitVec 256) (nonce : BitVec 96) (bs : List Byte) : List Byte :=
  streamXor key (fun b => gcmCounter nonce (b + 1)) bs

/-- The tag of a group over its ciphertext (R219). -/
def otnTag (key : BitVec 256) (nonce0 : BitVec 96) (cipher : List Byte) : List Byte :=
  blockBytes (Config.aes256 key (gcmCounter nonce0 0) ^^^ ghash (hashKey key) [] cipher)

/-- What becomes of a frame that port `p` receives, by the reported defect alone (R114), as the groups have it. -/
def State.otnAction (s : State) (p : Nat) : Nat :=
  let lvl := s.rd F.prtStatReported p
  if 1 ≤ lvl ∧ lvl ≤ 5 then 1
  else if lvl = 6 then 2
  else if lvl = 7 then (if s.rd F.otfCfgTimAct p = 1 ∨ s.rd F.otfCfgTimAct p = 3 then 4 else 0)
  else if lvl = 8 then (if s.on F.otfCfgSealLosAis p then 4 else 3)
  else if lvl = 9 then (if s.on F.otfCfgAuthAis p then 4 else 0)
  else 0

/-- Whether a frame carries a maintenance signal (R112 level 6). -/
def carriesMaint (f : OtnFrame) : Bool := decide (5 ≤ f.pmStat.val)

/-- A frame passed on without its data: the maintenance signal it carries (R114), or ODU-AIS. -/
def bareItem (act : Nat) (f : OtnFrame) : OtnItem :=
  if act = 2 ∧ carriesMaint f = true then { frame := f, payload := f.payload, sealOut := f.sealOh }
  else { frame := f, payload := [], sealOut := [], ais := true }

/-- Whether a group of port `p` fits into the share of queue `q` (R323). -/
def State.groupFits (s : State) (p q : Nat) : Bool :=
  s.admitting && !s.sameSide p q && decide (s.occupancy q + s.groupCells p ≤ s.rd F.hrtQshareShare 0 q)

/-- A group that does not fit is refused and counted (R323). -/
def State.refuseGroup (s : State) (q : Nat) : State :=
  onlyIf s.admitting (fun s => (s.hrtEvent F.hrtEvtOtnRefused q).count .hrt 0 7) s

/-- A group admitted to a queue of the Hearth (R321 to R324), with its number there. -/
def State.putGroup (s : State) (p q : Nat) (a : Nat) (opened : Bool) : State × Nat :=
  let id := s.hearth.nextId
  let s := (s.chargePolicer q (16 * s.areaBytes p)).count .hrt 0 1
  (s.modHearth (fun h => { h with nextId := id + 1
                                  groups := h.groups ++ [{ id := id, queue := q, port := p, assoc := a, opened := opened, cells := s.groupCells p }] }),
   id)

/-- A group of the Hearth changed by `f`. -/
def State.modGroup (s : State) (id : Nat) (f : HGroup → HGroup) : State :=
  s.modHearth (fun h => { h with groups := h.groups.map (fun g => if g.id = id then f g else g) })

/-! ### The clear side: sealing (R115, R217, R221) -/

/-- The edge scheduled for the switch of association `a` of link `k`: of its rollover (R268), or of the parallel session
that takes over (R276). -/
def State.switchOf (s : State) (k a : Nat) : Option Nat :=
  let l := s.link k
  match l.roll, l.par, l.liveDue with
  | some r, _, _ => if r.stage = .scheduled ∧ r.rolled.contains a then some r.switchDue else none
  | none, some x, some e => if (s.rollingTo k x.epoch).contains a then some e else none
  | _, _, _ => none

/-- The countdown that a group beginning now carries (R221): groups of 23,360 core cycles to the first one at or after
the switch edge. -/
def State.countdown (s : State) (a : Nat) : Nat :=
  match (s.linkOfPort (s.asn a).port).bind (fun k => s.switchOf k a) with
  | some e =>
    let d := ceilDiv (e * cyclesPerTick - s.now) 23360
    if d ≤ 8 then d else 0
  | none => 0

/-- A group begins on a clear-side port: its association is chosen, admitted and numbered (R125, R217, R321). A group that
its queue refuses takes a number all the same (R323); one refused with all other traffic takes none (R160). -/
def State.beginSeal (s : State) (p act : Nat) : State :=
  let s := s.modSeal p (fun r => { r with txSeals := false, txDrop := false, txGid := none, txCount := 0, txCipher := [], txCd := 0
                                          txMismatch := false })
  if s.rd (F.fwdPmapMode.at p) ≠ 1 then s.modSeal p (fun r => { r with txDrop := true })
  else
    let a := s.rd (F.fwdPmapP2pAssoc.at p)
    let e := s.asn a
    if !decide (e.state = .live ∨ e.state = .rolling) then s.count .asn 0 4
    else if !s.admitting then s
    else
      let fits := s.groupFits p e.queue
      let s := onlyIf (!fits) (fun s => s.refuseGroup e.queue) s
      match s.pnCheck a with
      | (t, false) => if fits then t else s
      | (s, true) =>
        let cd := s.countdown a
        let (s, gid) : State × Option Nat :=
          if fits then let q := s.putGroup p e.queue a false; (q.1, some q.2) else (s, none)
        let (s, n) := s.assignPn a
        let ph := e.tx
        s.modSeal p (fun r => { r with txNum := n, txKey := ph.key, txSalt := ph.salt, txPhase := e.txPhase, txInit := ph.initiator
                                       txSeals := decide (act = 0) && fits, txCd := cd, txGid := gid, txAssoc := a })

/-- The seal bytes of frame `f` of a group (R220). -/
def sealBytes (prevTag : List Byte) (g f cd : Nat) (phase : Bool) : List Byte :=
  [prevTag.getD f 0, BitVec.ofNat 8 ((f % 16) * 8 + (g >>> (3 * f)) % 8),
   BitVec.ofNat 8 (128 * b2n phase + 16 + cd % 16), 0, 0, 0]

/-- The group being sealed goes out, whole or broken off: its frames leave on their timing (R23, R115). Work hit by a twin
mismatch leaves as zeros (R196). -/
def State.closeSeal (s : State) (p : Nat) : State :=
  let r := s.sealRt p
  let s := match r.txGid with
    | some id => onlyIf (decide (0 < r.txCount)) (fun (s : State) => s.modGroup id (fun g => { g with
        released := true
        items := if r.txMismatch then g.items.map (fun (x : OtnItem) => { x with payload := List.replicate x.payload.length 0 })
          else g.items })) s
    | none => s
  s.modSeal p (fun r => { r with txGid := none, txSeals := false, txCount := 16, txTag := [], txCipher := [] })

/-- A frame of a clear-side port (R115, R218, R220), the slots of its blocks charged as they issue (R177). Once a signal
has interrupted a group, the rest of it is passed as ODU-AIS, never in the clear; a break of the multiframe ends the group
where it stands. The tag bytes of a group that follows no sealed one are free values. -/
def State.clearOtn (s : State) (p : Nat) (act : Nat) (f : OtnFrame) (i : Nat) : State :=
  let s := if i = 0 then (if (s.sealRt p).txCount < 16 then s.closeSeal p else s).beginSeal p act else s
  let s := if act = 0 then s else s.modSeal p (fun r => { r with txSeals := false })
  let r := s.sealRt p
  if r.txCount ≠ i then onlyIf (s.rd (F.fwdPmapMode.at p) ≠ 1) (fun s => s.count .fwd 0 12) (if r.txCount < 16 then s.closeSeal p else s)
  else
    let s := onlyIf r.txDrop (fun s => s.count .fwd 0 12) s
    let area := slice f.payload 0 (s.areaBytes p)
    let (s, tag) : State × List Byte := if r.txTag.isEmpty then (s.burn, blockBytes (s.free 128)) else (s, r.txTag)
    let cipher := otnCrypt r.txKey (otnNonce r.txInit r.txSalt r.txNum i) area
    let item : OtnItem :=
      if r.txSeals then { frame := f, payload := cipher, sealOut := sealBytes tag r.txNum i r.txCd r.txPhase } else bareItem act f
    let s := match r.txGid with
      | some id => s.modGroup id (fun g => { g with items := g.items ++ [item] })
      | none => s
    let blocks := s.groupSlots p / 16
    let s := onlyIf r.txSeals (fun s => s.chargeSlots (p / 18) blocks blocks) s
    let s := s.modSeal p (fun r => { r with txTag := tag, txCount := i + 1, txCipher := if r.txSeals then r.txCipher ++ cipher else [] })
    if i ≠ 15 then s
    else
      let r := s.sealRt p
      let s := s.closeSeal p
      if r.txSeals then
        let s := ((s.count .asn 0 1).count .otf p 10).chargeSlots (p / 18) 2 2
        s.modSeal p (fun q => { q with txTag := otnTag r.txKey (otnNonce r.txInit r.txSalt r.txNum 0) r.txCipher })
      else s

/-! ### The cipher side: seal synchronisation (R222 to R224) -/

/-- Whether the receive association of an OTN cipher-side port verifies groups of phase `n` (R152, R222). -/
def State.otnVerifies (s : State) (p : Nat) (n : Bool) : Bool := (s.asn (s.rd F.seaCfgOtnAssoc p)).verifies n

/-- A group begins on a cipher-side port: the phase and number it is deciphered under, and its place in the Hearth. -/
def State.beginOpen (s : State) (p : Nat) : State :=
  let a := s.rd F.seaCfgOtnAssoc p
  let e := s.asn a
  let n := s.on F.seaStatRxPhase p
  let ph := e.ph n
  let q := s.rd F.hrtQcfgRxQueue 0 e.queue
  let fits := s.groupFits p q
  let (s, gid) : State × Option Nat := if fits then let x := s.putGroup p q a true; (x.1, some x.2) else (s.refuseGroup q, none)
  let sync := decide (s.rd F.seaStatSync p = 2)
  s.modSeal p (fun r => { r with cur := { num := r.pred, phase := n, key := ph.key, salt := ph.salt, initiator := ph.initiator
                                          assoc := a, deciphered := sync && fits
                                          verifies := s.on F.seaCfgOtnAssocValid p && s.otnVerifies p n, gid := gid } })

/-- The countdown of a frame (R223): the run, the acceptance, and a switch armed or disarmed. -/
def State.countdownStep (s : State) (p i d : Nat) : State :=
  let r := s.sealRt p
  let need := max 2 (s.rd F.seaCfgCdPersist p)
  let same := if i = 0 then decide (d + 1 = r.cdLast) || decide (d = 0 ∧ r.cdLast = 0) else decide (d = r.cdLast)
  let run := if 9 ≤ d then 0 else if same then r.cdRun + 1 else 1
  let s := onlyIf (!same && decide (d < 9)) (fun s => (s.count .sea p 11).event F.seaEvtCdGlitch p) s
  let s := s.modSeal p (fun r => { r with cdLast := d, cdRun := run })
  if run = need then
    let s := (s.count .sea p 10).wr F.seaStatCdAccepted d p
    if d = 0 then (s.modSeal p (fun r => { r with target := none })).wr F.seaStatArmed 0 p
    else (s.modSeal p (fun r => { r with target := some (r.cur.num + d) })).wr F.seaStatArmed 1 p
  else s

/-- The phase bit of a frame against the phase in use (R224). -/
def State.phaseStep (s : State) (p : Nat) (bit : Bool) : State :=
  let r := s.sealRt p
  if bit = r.cur.phase then s.modSeal p (fun r => { r with disagree := 0 })
  else
    let n := r.disagree + 1
    let s := s.modSeal p (fun r => { r with disagree := n })
    if n = max 2 (s.rd F.seaCfgCdPersist p) then
      (s.modSeal p (fun r => { r with target := none, adopt := some bit })).wr F.seaStatArmed 0 p
    else s

/-- The number byte, state byte and tag byte of a frame (R220). -/
def tagByte (f : OtnFrame) : Byte := f.sealOh.getD 0 0
def numByte (f : OtnFrame) : Nat := byteAt f.sealOh 1
def stateByte (f : OtnFrame) : Nat := byteAt f.sealOh 2

/-- The group number that 16 frames spell (R220). -/
def groupNumber (fs : List OtnFrame) : Nat :=
  (fs.zipIdx.map (fun e => (numByte e.1 % 8) * 2 ^ (3 * e.2))).sum

/-- A whole group with the right version and index in every frame (R222). -/
def groupGood (fs : List OtnFrame) : Bool :=
  decide (fs.length = 16) &&
    fs.all (fun f => decide (stateByte f / 16 % 8 = 1) && decide (numByte f / 8 % 16 = f.mfas.toNat % 16))

/-- The receiver returns to hunt (R222). -/
def State.toHunt (s : State) (p : Nat) : State :=
  let s := ((s.wr F.seaStatSync 0 p).wr F.seaStatMismatchRun 0 p).wr F.seaStatArmed 0 p
  s.modSeal p (fun r => { r with target := none, adopt := none, disagree := 0, cdRun := 0, goodRun := 0 })

/-- Seal synchronisation at a group boundary (R222 to R224). -/
def State.sealSync (s : State) (p : Nat) : State :=
  let r := s.sealRt p
  let fs := r.cur.frames
  let g := groupNumber fs
  let good := groupGood fs
  let lvl := s.rd F.prtStatReported p
  let low := decide (1 ≤ lvl ∧ lvl ≤ 6)
  match s.rd F.seaStatSync p with
  | 0 => if good && !low then (s.wr F.seaStatSync 1 p).modSeal p (fun r => { r with lastNum := g, goodRun := 1 }) else s
  | 1 =>
    if good && !low && decide (g = r.lastNum + 1) then
      let s := s.modSeal p (fun r => { r with lastNum := g, goodRun := r.goodRun + 1 })
      if max 2 (s.rd F.seaCfgSyncGroups p) ≤ r.goodRun + 1 then
        let ph := bit (stateByte (fs.getLastD {})) 7
        (((s.wr F.seaStatSync 2 p).wr F.seaStatRxPhase (b2n ph) p).wr F.seaStatMismatchRun 0 p).modSeal p
          (fun r => { r with pred := g + 1, disagree := 0, cdRun := 0, cdLast := stateByte (fs.getLastD {}) % 16 })
      else s
    else s.toHunt p
  | _ =>
    let ok := good && decide (g = r.cur.num)
    let s := if low then s
      else if ok then s.wr F.seaStatMismatchRun 0 p
      else (s.wr F.seaStatMismatchRun (satAdd 4 (s.rd F.seaStatMismatchRun p) 1) p).count .sea p 9
    if !low && !ok && decide (max 1 (s.rd F.seaCfgLosGroups p) ≤ s.rd F.seaStatMismatchRun p) then
      ((s.toHunt p).count .sea p 8).event F.seaEvtSealLosEntered p
    else
      let next := r.cur.num + 1
      let r := s.sealRt p
      match r.adopt with
      | some ph =>
        let s := ((s.wr F.seaStatRxPhase (b2n ph) p).wr F.seaStatArmed 0 p).modSeal p
          (fun r => { r with pred := 0, target := none, adopt := none, disagree := 0 })
        (s.count .sea p 12).event F.seaEvtPhaseAdopted p
      | none =>
        if r.target = some next then
          ((s.wr F.seaStatRxPhase (1 - s.rd F.seaStatRxPhase p) p).wr F.seaStatArmed 0 p).modSeal p
            (fun r => { r with pred := 0, target := none, disagree := 0 })
        else s.modSeal p (fun r => { r with pred := next })

/-- The frames of a group as they leave the Hearth: `ok` those deciphered, the others with their sealed area as zeros, or
what R114 puts in their place. -/
def State.openItems (s : State) (p : Nat) (h : RxGroup) (ok : Bool) : List OtnItem :=
  let n := s.areaBytes p
  ((h.frames.zip h.acts).zipIdx).map (fun e =>
    let f := e.1.1
    if e.1.2 = 1 ∨ e.1.2 = 2 ∨ e.1.2 = 4 then bareItem e.1.2 f
    else if ok ∧ e.1.2 = 0 then
      { frame := f, payload := otnCrypt h.key (otnNonce (!h.initiator) h.salt h.num e.2) (slice f.payload 0 n), sealOut := [] }
    else { frame := f, payload := List.replicate n 0, sealOut := [] })

/-- A received group is released with the frames it has. -/
def State.releaseOpen (s : State) (p : Nat) (h : RxGroup) (ok : Bool) : State :=
  match h.gid with
  | some id => s.modGroup id (fun g => { g with released := true, items := s.openItems p h ok })
  | none => s

/-- The verdict on the held group, with the tag bytes of the group that has now arrived (R190, R225). A group of an
association that does not verify it fails like one with a wrong tag (R152, R223); a group met by a defect of level 1 to 6 has
no verdict. While otn_assoc_valid = 0 it is released as zeros (R222). -/
def State.groupVerdict (s : State) (p : Nat) : State :=
  let r := s.sealRt p
  match r.held with
  | none => s
  | some h =>
    let s := s.modSeal p (fun r => { r with held := none })
    let area := fun (f : OtnFrame) => slice f.payload 0 (s.areaBytes p)
    let tagOk := decide (otnTag h.key (otnNonce (!h.initiator) h.salt h.num 0) (h.frames.flatMap area) = r.cur.frames.map tagByte)
    let valid := s.on F.seaCfgOtnAssocValid p
    let ok := h.deciphered && h.verifies && !h.mismatch && tagOk && valid
    let judged := h.deciphered && !h.mismatch && valid && h.acts.all (fun a => decide (a ≠ 1 ∧ a ≠ 2))
    let s := if !judged then s else if ok then (s.count .asn 0 2).count .otf p 10 else s.zeroDrop p
    s.releaseOpen p h ok

/-- OTN_GROUP_RECEIVED at the end of a group: the group before it has its verdict, synchronisation advances, and the
group is held for its own (R222, R225). -/
def State.groupReceived (s : State) (p : Nat) : State :=
  let r := s.sealRt p
  if r.cur.frames.length ≠ 16 then s
  else
    let s := s.groupVerdict p
    let s := onlyIf r.cur.deciphered (fun s => (s.count .sea p 7).chargeSlots (p / 18) 2 2) s
    (s.sealSync p).modSeal p (fun q => { q with held := some r.cur, cur := {} })

/-- A group cut short by a break of the multiframe: the tag bytes it brought are not all there for the group before it, its
number counts as wrong, and its frames leave with their sealed area as zeros, with no verdict (DESIGN CHOICE, log entry
54). -/
def State.closeOpen (s : State) (p : Nat) : State :=
  let h := (s.sealRt p).cur
  if h.frames.isEmpty then s
  else ((s.groupVerdict p).sealSync p).releaseOpen p h false |>.modSeal p (fun q => { q with cur := {} })

/-- A frame of a cipher-side port: gathered into its group, the slots of its blocks charged as they issue (R177), its
countdown and phase bit watched while in sync. -/
def State.cipherOtn (s : State) (p : Nat) (act : Nat) (f : OtnFrame) (i : Nat) : State :=
  let s := if (s.sealRt p).cur.frames.length = i then s else s.closeOpen p
  let s := if i = 0 then s.beginOpen p else s
  if (s.sealRt p).cur.frames.length ≠ i then s
  else
    let blocks := s.groupSlots p / 16
    let s := onlyIf (s.sealRt p).cur.deciphered (fun s => s.chargeSlots (p / 18) blocks blocks) s
    let s := s.modSeal p (fun r => { r with cur := { r.cur with frames := r.cur.frames ++ [f], acts := r.cur.acts ++ [act] } })
    let lvl := s.rd F.prtStatReported p
    if decide (1 ≤ lvl ∧ lvl ≤ 6) || decide (s.rd F.seaStatSync p ≠ 2) then s
    else (s.countdownStep p i (stateByte f % 16)).phaseStep p (bit (stateByte f) 7)

/-- Port `p` is disabled: the groups it was filling or holding go out as they stand. -/
def State.leaveOtn (s : State) (p : Nat) : State :=
  if s.portOn p && s.portOtn p then
    if s.portCipher p then (s.closeOpen p).groupVerdict p else s.closeSeal p
  else s

/-! ### A frame received -/

/-- The overhead of a frame rebuilt in-frame (R105, R111, R112, R117 to R121, R227): what it leaves, and the frame with its
BIP-8 fields as R116 needs them. -/
def State.otnOverhead (s : State) (p : Nat) (f : OtnFrame) : State × OtnFrame :=
  let s := ((s.mfasStep p f.mfas.toNat).count .otf p 1).statStep p f
  let s := onlyIf (s.portCipher p && decide (stateByte f / 16 % 8 ≠ 1)) (fun s => s.event F.seaEvtVersionErr p) s
  let (s, f) := s.smStep p f
  (if (s.otnp p).inMf then ((s.traceStep p f).apsStep p f).gccStep p f else s, f)

/-- OTN_FRAME_RECEIVED (R102, R105, R107, R111, R112, R117 to R121). Framing needs every lane at its rate, and frames are
rebuilt only while the lanes are aligned; without a frame, ODU-AIS takes its place. A frame whose multiframe place cannot
be read keeps the running count. A receiver shed of its power receives nothing (R45). -/
def State.otnReceive (s : State) (p : Nat) (f : OtnFrame) (occs : List LaneOcc) : State :=
  if !s.portOn p || !s.portOtn p || s.pwr.shed then s
  else
    let los := State.portLos s s p
    let s := if los then s else (forL occs (fun o s => s.laneOcc p o) s).countLocked p
    let s := onlyIf (!los) (fun s => (s.count .otf p 8 f.fecSymbols).count .otf p 9 f.fecUncorrectable) s
    let blind := los || s.otnLol p
    let s := if blind then s.modOtnp p (fun r => { r with rxOpu := [], rxMfas := none, smTrace := {}, pmTrace := {} })
      else s.fasStep p (s.fasGood p f)
    let (s, f) := if !blind && (s.otnp p).inFrame then s.otnOverhead p f else (s, { f with bip := f.bip.map (fun _ => 0) })
    let r := s.otnp p
    let m := if !blind && r.inFrame && r.inMf then f.mfas.toNat else (r.mfas + 1) % 256
    let s := s.modOtnp p (fun r => { r with mfas := m })
    let act := if blind then 1 else s.otnAction p
    let s := s.groupReceived p
    if s.portCipher p then s.cipherOtn p act { f with mfas := BitVec.ofNat 8 m } (m % 16)
    else s.clearOtn p act { f with mfas := BitVec.ofNat 8 m } (m % 16)

/-! ### A frame sent (R106, R116, R118, R120, R121) -/

/-- The first item of the oldest released group bound for port `p`, taken from the Hearth; a group's cells return with
its last frame. -/
def State.takeItem (s : State) (p : Nat) : Option ((OtnItem × HGroup) × State) :=
  match s.hearth.groups.find? (fun g => s.queuePort g.queue = p) with
  | some g =>
    match g.released, g.items with
    | true, x :: rest =>
      some ((x, g), if rest.isEmpty then s.modHearth (fun h => { h with groups := h.groups.filter (fun y => decide (y.id ≠ g.id)) })
                  else s.modGroup g.id (fun g => { g with items := rest }))
    | _, _ => none
  | none => none

/-- The channel bytes that port `p` sends next (R121, R234): of the fragment stream, idle bytes where it is empty. -/
def State.gccNext (s : State) (p n : Nat) : State × List Byte :=
  let bs := nget [] s.kindle.gccTx p
  ({ s with kindle := { s.kindle with gccTx := nset [] s.kindle.gccTx p (bs.drop n) } }.gccPassed p n,
   bs.take n ++ List.replicate (n - min n bs.length) 0x7E)

/-- The GCC bytes of a frame as port `p` sends them. Where the ingress port terminated a channel, what a clear-side
port sends in it is a free value. -/
def State.gccOut (s : State) (p ingress : Nat) (f : OtnFrame) : State × OtnFrame :=
  let chan := s.rd F.otfCfgKdlChan p
  if s.portCipher p then
    if chan = 0 then (s, f)
    else
      let (s, bs) := s.gccNext p (if chan = 3 then 4 else 2)
      (s, { f with gcc1 := if chan % 2 = 1 then BitVec.ofNat 16 (beAt bs 0 2) else f.gcc1
                   gcc2 := if chan = 2 then BitVec.ofNat 16 (beAt bs 0 2) else if chan = 3 then BitVec.ofNat 16 (beAt bs 2 2) else f.gcc2 })
  else if s.portCipher ingress then
    let c := s.rd F.otfCfgKdlChan ingress
    let s1 := if c % 2 = 1 then s.burn else s
    let s2 := if 2 ≤ c then s1.burn else s1
    (s2, { f with gcc1 := if c % 2 = 1 then s.free 16 else f.gcc1, gcc2 := if 2 ≤ c then s1.free 16 else f.gcc2 })
  else (s, f)

/-- A group's waiting payloads are gone where a bank of the Hearth holds an uncorrectable error (R328). -/
def State.groupLost (s : State) (g : Nat) (bank : Option (Fin 512 × Nat)) : State :=
  match bank with
  | some (b, _) =>
    let s := ((s.count .hrt 0 11).hrtEvent F.hrtEvtUncorrectable 0).sramError .hrt 0 b
    s.modGroup g (fun g => { g with items := g.items.map (fun (y : OtnItem) => { y with payload := List.replicate y.payload.length 0 }) })
  | none => s

/-- The section overhead of the frame of multiframe place `m` that port `p` sends (R105, R114, R118), whose OPU has the
BIP-8 `opu`: a new trace starts at a multiframe boundary. IAE tells that the places do not follow each other (PRESUMED,
log entry 54). -/
def State.smSent (s : State) (p m : Nat) (opu : Byte) : State × SmOh :=
  let r := s.otnp p
  let trace := if m % 64 = 0 ∨ r.txTrace.isEmpty then s.rdBytes .otf 0x2C0 64 p else r.txTrace
  (s.modOtnp p (fun r => { r with txMfas := m, txTrace := trace, txOpu := r.txOpu.drop 1 ++ [opu] }),
   { tti := trace.getD (m % 64) 0, bip := r.txOpu.getD 0 0, bei := r.rxBei, bdi := r.txBdi
     iae := decide (m ≠ (r.txMfas + 1) % 256) })

/-- ODU-AIS sent for a frame (R106, R114): the BIP-8 of its OPU of ones is 0. It replaces the GCC bytes of the frame with
everything else (R235). -/
def State.sendAis (s : State) (p : Nat) : State :=
  let m := ((s.otnp p).txMfas + 1) % 256
  let chan := s.rd F.otfCfgKdlChan p
  let s := onlyIf (s.portCipher p && decide (chan ≠ 0)) (fun s => (s.gccNext p (if chan = 3 then 4 else 2)).1) s
  let (s, sm) := s.smSent p m 0
  (s.count .otf p 12).emit (.oduAis p (BitVec.ofNat 8 m) sm)

/-- The frame that port `p` builds from an item of a group (R105, R106, R116, R118, R120, R121, R220). -/
def State.otnBuild (s : State) (p : Nat) (x : OtnItem) (g : HGroup) (bank : Option (Fin 512 × Nat)) : State :=
  let n := x.payload.length
  let pay := match bank with
    | some (_, o) => x.payload.take o ++ List.replicate (n - min n o) 0
    | none => x.payload
  let s := s.groupLost g.id bank
  let f := x.frame
  let m := f.mfas.toNat
  let covers := (s.otnp p).txOpu.getD 0 0
  let (s, f) := s.gccOut p g.port f
  let aps := if s.on F.otfApsCtlTxInsert p && decide (m % 8 = s.rd F.otfApsCtlLevel p) then
      BitVec.ofNat 32 (s.rd F.otfApsTxValue p) else f.aps
  let (s, sm) := s.smSent p m (bip8 (f.opuOh ++ pay))
  s.emit (.otn p { mfas := f.mfas, sm := sm, pmTti := f.pmTti, pmStat := f.pmStat, bip := f.bip.map (· ^^^ covers)
                   gcc1 := f.gcc1, gcc2 := f.gcc2, aps := aps
                   sealOh := if s.portCipher p then slice x.sealOut 0 6 else List.replicate 6 0
                   other := f.other, opuOh := f.opuOh, payload := pay })

/-- The ingress port whose ODU egress port `p` carries, as classification fixes it (R106, R125): a clear-side port whose
association has a queue of `p`, or a cipher-side port whose receive queue is of `p`. -/
def State.ingressOf (s : State) (p : Nat) : Option Nat :=
  (List.range 144).find? (fun g => s.portOn g && s.portOtn g && decide (s.portCipher g ≠ s.portCipher p) &&
    (if s.portCipher g then
      decide (s.queuePort (s.rd F.hrtQcfgRxQueue 0 (s.asn (s.rd F.seaCfgOtnAssoc g)).queue) = p)
    else decide (s.rd (F.fwdPmapMode.at g) = 1) && decide (s.queuePort (s.asn (s.rd (F.fwdPmapP2pAssoc.at g))).queue = p)))

/-- OTN_FRAME_TRANSMIT (R106, R116, R118, R120, R121, R220): timed from the reference while the ingress port reports a
defect of level 1 to 3. -/
def State.otnSend (s : State) (p : Nat) (bank : Option (Fin 512 × Nat)) : State :=
  let lvl := match s.ingressOf p with
    | some g => s.rd F.prtStatReported g
    | none => 0
  let s := s.wr F.otfStatFreeRun (b2n (decide (1 ≤ lvl ∧ lvl ≤ 3))) p
  match s.takeItem p with
  | none => s.sendAis p
  | some ((x, g), s) => if x.ais then s.sendAis p else s.otnBuild p x g bank

/-- SEAL-LOS of a port (R222): present on an OTN cipher-side port while the receiver is not in sync. -/
def State.sealLosEdge (s : State) (p : Nat) : State :=
  s.wr F.seaStatSealLos (b2n (s.portOn p && s.portOtn p && s.portCipher p && decide (s.rd F.seaStatSync p ≠ 2))) p

/-! ### The commands -/

/-- OTN_FRAME_RECEIVED (R111). -/
def execOtnFrameReceived (p : PortNo) (f : OtnFrame) (occs : List LaneOcc) (cyc : Cyc) (s : State) :
    Host.Outcome State Fault Refusal :=
  done ((s.at cyc).otnReceive p f occs)

/-- OTN_GROUP_RECEIVED (R222). -/
def execOtnGroupReceived (p : PortNo) (s : State) : Host.Outcome State Fault Refusal := done (s.groupReceived p)

/-- OTN_GROUP_VERDICT (R225): once the tag bytes of the next group are in. -/
def execOtnGroupVerdict (p : PortNo) (s : State) : Host.Outcome State Fault Refusal :=
  done (if (s.sealRt p).cur.frames.length = 16 then s.groupVerdict p else s)

/-- OTN_FRAME_TRANSMIT (R106). `bank` names the bank of an uncorrectable word found in the read, and where its zeros
begin (R328). -/
def execOtnFrameTransmit (p : PortNo) (bank : Option (Fin 512 × Fin 131072)) (cyc : Cyc) (s : State) :
    Host.Outcome State Fault Refusal :=
  let s := s.at cyc
  done (if s.driving && s.portOn p && s.portOtn p then s.otnSend p (bank.map (fun e => (e.1, e.2.val))) else s)

end Sys2Proof.Machine
end

