-- ==== Sys2Proof/Machine/Readiness.lean ====
section
/-! DEFINITION. Readiness of the pages (R52 to R54), the restart of dead associations (R153, R309) and twin mismatches
(R196). -/

namespace Sys2Proof.Machine

open Sys2Proof

/-! ### Readiness (R52, R53) -/

/-- Bring-up tests still run in Chimney `c` (R199). -/
def State.bringUpRuns (s : State) (c : Nat) : Bool := (s.chim c).running.any (fun e => decide (e.2 = .bringUp))

/-- What a page depends on is ready (R53), and its SRAMs are zero (R50). TMP comes first, with its deferred responses
applied. -/
def State.mayReady (s : State) (p : Page) (i : Nat) : Bool :=
  if s.mode = 0 ∨ s.mode = 1 ∨ pageCount p ≤ i ∨ s.ready p i = true then false
  else if p = .tmp then true
  else if !s.ready .tmp ∨ !s.pwr.sramZeroed then false
  else match p with
  | .mod => s.ready .dev
  | .stv => s.bootOk && !s.bringUpRuns i
  | .kvt => s.bootOk
  | .ofc => s.ready .kvt
  | .kdl => s.bootOk && s.ready .kvt && s.on F.kvtDrbgSeeded
  | .prt | .otf => s.ready .lan i
  | .sea => s.ready .stv (i / 18) && (s.ready .prt i || s.ready .otf i)
  | .cxm => s.pwr.cxlTrained
  | .slc | .asnw | .fwdw | .tmp => false
  | _ => true

/-- KVT becomes ready (R293, R294, R303, R313, R315): Kint is drawn where it is zero, every tag is checked, and the good
slots are usable. Without entropy a Kint cannot be drawn, and the page stays not ready. -/
def State.kvtReady (s : State) : State :=
  let fresh := s.vault.kint.isEmpty
  if fresh && !s.on F.kvtDrbgEsOk then s.kvtEvent F.kvtEvtEsFail 0
  else
    let s := if fresh then
        let (s, k) := s.drawBytes 32
        forL (s.vault.slots.map (·.1)) (fun v s => s.badSlot v) { s with vault := { s.vault with kint := k } }
      else s.scrubSlots
    let s := forL (s.vault.slots.map (·.1)) (fun v s =>
      let x := s.slot v
      s.setSlot v { x with usable := x.present && !x.bad }) s
    let x := s.slot 0
    let s := { s with vault := { s.vault with expanded := x.present && !x.bad && decide (x.type = 2) } }
    (s.wr (F.pageReady .kvt) 1).wr (F.pageCause .kvt) 0

/-- PAGE_READY of an instance of a page: ready, with no cause to say why not (R486). -/
def State.pageOn (s : State) (p : Page) (i : Nat) : State := (s.wr (F.pageReady p) 1 i).wr (F.pageCause p) 0 i

/-- A page becomes ready. Seeds that R134 and R135 draw at a reset are drawn here. -/
def State.pageUp (s : State) (p : Page) (i : Nat) : State :=
  let s := match p with
    | .tmp => (s.applyDeferred.pageOn p i).holdCheck
    | .kvt => s.kvtReady
    | .evr => (s.pageOn p i).evrReady
    | .stv => (s.pageOn p i).stvRefresh i
    | .fwd =>
      let (s, x) := (s.pageOn p i).draw 4
      let seed := BitVec.ofNat 32 (beNat x)
      { s with fwd := { s.fwd with seed := seed } }
    | .lrc =>
      let (s, x) := (s.pageOn p i).draw 4
      let seed := BitVec.ofNat 32 (beNat x)
      let s := s.setWord (keyOf F.lrcSeedSeed i) seed
      { s with fwd := { s.fwd with cacheSeed := nset 0 s.fwd.cacheSeed i seed } }
    | .flu => (s.pageOn p i).flueDegrade
    | .cxm => s.cxmReady
    | _ => s.pageOn p i
  s.lateResponses

/-- Why a page is not ready (R486). -/
def State.waitCause (s : State) (p : Page) (i : Nat) : Nat :=
  let needsBoot := decide (p = .stv ∨ p = .kvt ∨ p = .kdl)
  if !s.pwr.sramZeroed ∧ p ≠ .tmp then 1
  else if needsBoot ∧ !s.bootOk then 4
  else match p with
  | .lan | .chm => 3
  | .hst => if s.rd (F.pageCause .hst) = 2 then 2 else 6
  | .cxm | .flu => 6
  | .kvt => 8
  | .kdl => if s.ready .kvt && !s.on F.kvtDrbgSeeded then 5 else 2
  | .stv => if s.on F.chmDrbgSeeded i then 0 else 5
  | .mod | .ofc | .prt | .otf | .sea => 2
  | _ => if s.ready .tmp then 0 else 2

/-! ### Twin compare (R196) -/

/-- The groups of a port that a pair may hold: the one being received, the one held for its verdict, the one being
sealed. -/
def SealRt.hit (r : SealRt) (which : Fin 3) : SealRt :=
  match which with
  | 0 => { r with cur := { r.cur with mismatch := true } }
  | 1 => { r with held := r.held.map (fun h => { h with mismatch := true }) }
  | _ => { r with txMismatch := true }

/-- The association or slice of the first mismatched work, as STV_MISM names it (R203): line work before lookaside. -/
def State.mismWork (s : State) (frames : List Nat) (groups : List (PortNo × Fin 3)) (jobs : List (SliceNo × Nat)) :
    Option (Nat × Nat) :=
  match (s.hearth.frames.find? (fun f => frames.contains f.id)).map (·.assoc), groups, jobs with
  | some a, _, _ => some (0, a)
  | none, (p, w) :: _, _ =>
    let r := s.sealRt p
    some (0, match w with
      | 0 => r.cur.assoc
      | 1 => (r.held.map (·.assoc)).getD 0
      | _ => r.txAssoc)
  | none, [], (n, _) :: _ => some (1, n)
  | none, [], [] => none

/-! ### The commands -/

/-- PAGE_READY (R53). -/
def execPageReady (p : Page) (i : Fin 256) (s : State) : Host.Outcome State Fault Refusal :=
  done (if s.mayReady p i.val then s.pageUp p i.val else s)

/-- AUTO_RECOVER (R153, R309): one edge's try for one association; TICK_EDGE tries them all. -/
def State.recoverAsn (a : Nat) (s : State) : State :=
  let t := s.autoRecover a (s.cascWait a)
  if (s.asn a).state = .dead ∧ (t.asn a).state = .kindling then t.kindleEntered a else t

/-- AUTO_RECOVER (R153). -/
def execAutoRecover (a : AssocNo) (s : State) : Host.Outcome State Fault Refusal := done (s.recoverAsn a.val)

/-- TWIN_MISMATCH (R196): pair `i` of Chimney `c` disagrees. `frames`, `groups` and `jobs` have a block in either of its
pipelines at that moment. -/
def execTwinMismatch (c : ChimneyNo) (i : Fin 32) (frames : List Nat) (groups : List (PortNo × Fin 3))
    (jobs : List (SliceNo × Nat)) (s : State) : Host.Outcome State Fault Refusal :=
  done (if s.twinOn c && s.stvIn c (2 * i.val) && s.stvIn c (2 * i.val + 1) then
    let s := s.pairMismatch c i.val (s.mismWork frames groups jobs)
    let s := s.modHearth (fun h => { h with
      frames := h.frames.map (fun f => if frames.contains f.id then { f with mismatch := true } else f) })
    let s := forL groups (fun g s => s.modSeal g.1 (fun r => r.hit g.2)) s
    forL jobs (fun j s => s.modSlice j.1 (fun r => { r with
      jobs := r.jobs.map (fun x => if x.id = j.2 then { x with mismatch := true } else x)
      old := r.old.map (fun x => if x.id = j.2 then { x with mismatch := true } else x) })) s
  else s)

end Sys2Proof.Machine
end

