-- ==== Sys2Proof/Machine/Registers.lean ====
section
/-! DEFINITION. Register writes (R490, R491) of every page, window and slice page (R481 to R485), with the refusals that
the chapters state; and the accesses of R32, R474 and R488. -/

namespace Sys2Proof.Machine

open Sys2Proof

/-! ### Objects (R491) -/

/-- The object that a register of a page acts on: the one its selector names, 0 where the page has none. -/
def State.objOf (s : State) (p : Page) (off : Nat) : Nat :=
  match p with
  | .hrt => if 0x124 ≤ off ∧ off ≤ 0x148 then s.rd F.hrtQselQueue else 0
  | .sch =>
    if 0x104 ≤ off ∧ off ≤ 0x110 then
      match s.rd F.schSelLevel with
      | 1 => svcKey (s.rd F.schSelIndex)
      | 2 => prtKey (s.rd F.schSelIndex)
      | _ => s.rd F.schSelIndex
    else 0
  | .hst => if 0x108 ≤ off ∧ off ≤ 0x14C then s.rd F.hstSselSlice else 0
  | .kdl => if 0x144 ≤ off ∧ off < 0x200 then s.rd F.kdlLinkSelLink else 0
  | .cxm => if 0x108 ≤ off ∧ off ≤ 0x11C then s.rd F.cxmRselRegion else 0
  | .mod => if 0x108 ≤ off ∧ off ≤ 0x11C then s.rd F.modSelBus else 0
  | _ => 0

/-- The key of the register of a page instance at an offset. -/
def State.keyAt (s : State) (p : Page) (i off : Nat) : RegKey := ⟨p, off, i, s.objOf p off⟩

/-! ### Writes field by field (R490) -/

/-- The event registers, whose bits the reporting channels hold. -/
def isEvtReg (p : Page) (off : Nat) : Bool :=
  match p with
  | .asn => decide (off = 0x108)
  | .chm | .sea => decide (off = 0x110)
  | .cxm | .flu => decide (off = 0x130)
  | .evr | .hrt | .hst => decide (off = 0x150)
  | .flt | .ofc => decide (off = 0x114)
  | .kdl => decide (off = 0x10C ∨ off = 0x340)
  | .kvt => decide (off = 0x134)
  | .mod => decide (off = 0x120)
  | .pmc => decide (off = 0x10C)
  | .tmp => decide (off = 0x10C ∨ off = 0x124)
  | .tsu => decide (off = 0x13C)
  | _ => false

/-- What a written word makes of a register at once (R490): RW fields take its bits, W1C bits written with 1 clear, W1S
bits written with 1 are set. -/
def landedWord (d : RegDef) (old w : Word) : Word :=
  (mergeF (BitVec.ofNat 32 d.rw) old w &&& ~~~(w &&& BitVec.ofNat 32 d.w1c)) ||| (w &&& BitVec.ofNat 32 d.w1s)

/-- REGISTER_WRITE (R490, R491) of a register without behaviour of its own: each field acts by its type, and the RWT
fields form one pending copy. -/
def State.writeFields (s : State) (k : RegKey) (w : Word) (cyc : Nat) : State :=
  match regDefOf k.page k.off with
  | none => s
  | some d =>
    let s := if isEvtReg k.page k.off then s.setEvtWord k (landedWord d (s.evtWord k) w)
      else s.setWord k (landedWord d (s.word k) w)
    if d.rwt = 0 then s else s.putCopy k (w &&& BitVec.ofNat 32 d.rwt) cyc

/-- A write of the page at an offset, field by field. -/
def State.writePlain (s : State) (p : Page) (i off : Nat) (w : Word) (cyc : Nat) : State :=
  s.writeFields (s.keyAt p i off) w cyc

/-- The word written last to a register: its pending copy, or the word in effect. -/
def State.newest (s : State) (k : RegKey) : Word := (s.copyOf k).getD (s.word k)

/-! ### The header (R477, R485, R486) -/

/-- A write to the common header: it needs no readiness (R52). -/
def State.writeHeader (s : State) (p : Page) (i off : Nat) (w : Word) (cyc : Nat) : State :=
  if off = 0x00C then onlyIf (getF w 15 1 = 1) (fun s => s.clearFault p i) s
  else if off = 0x010 then s.landFinj p i w
  else if 0x040 ≤ off ∧ off < 0x0C0 ∧ off % 16 = 0 then s.landCntCfg p i ((off - 0x040) / 16) w cyc
  else s.writePlain p i off w cyc

/-! ### The device pages -/

/-- DEV_RESET (R48, R57): a warm reset leaves nothing for a host reset of the same write. -/
def State.writeReset (s : State) (w : Word) : State :=
  if getF w 24 8 ≠ 0x5A then s
  else if getF w 0 1 = 1 then s.warmReset 3
  else onlyIf (getF w 1 1 = 1) (fun s => s.hostReset 3) s

/-- A write to the DEV page (R32, R57, R488). -/
def State.writeDev (s : State) (off : Nat) (w : Word) (cyc : Cyc) : State :=
  match off with
  | 0x120 => if getF w 0 1 = 1 then s.landHold else s.landHoldRelease cyc
  | 0x124 => s.landGop w cyc
  | 0x134 => s.landModeReq (getF w 0 3) cyc
  | 0x138 => s.writeReset w
  | 0x13C => onlyIf (decide (getF w 24 8 = 0xC3) && decide (getF w 0 1 = 1)) State.quench s
  | 0x140 => onlyIf (getF w 8 1 = 1) (fun s => s.wr F.devResetCauseEmberLost 0) s
  | 0x148 => onlyIf (getF w 0 1 = 1) State.bootRetry s
  | 0x160 => onlyIf (getF w 31 1 = 1) (fun s => s.setWord (keyOf F.devBadaddrValid) 0) s
  | _ => s.writePlain .dev 0 off w cyc

/-- A write to the FLT page (R478). -/
def State.writeFlt (s : State) (off : Nat) (w : Word) (cyc : Nat) : State :=
  match off with
  | 0x104 => onlyIf (getF w 15 1 = 1) State.clearFlt s
  | 0x110 => onlyIf (decide (w = 0)) (fun s => s.setWord (keyOf F.fltEccCorrected) 0) s
  | _ => s.writePlain .flt 0 off w cyc

/-- Whether a write that names a region for a consumer is refused (R264, R369): one that is to be in use must serve it, and
but for the counter archive a scrambled one is never named. -/
def State.regionRefused (s : State) (w : Word) (use : Nat) : Bool :=
  let r := getF w 0 4
  (decide (getF w 4 1 = 1) && !s.regionServes r use) || (decide (use ≠ 4) && s.regionOn r && s.scrambled r)

/-- A write to the EVR page (R461 to R467, R479). -/
def State.writeEvr (s : State) (off : Nat) (w : Word) (cyc : Nat) : State :=
  match off with
  | 0x104 => s.landEvrCmd w
  | 0x124 => s.modRep (fun r => { r with lostFull := 0, lostFrozen := 0 })
  | 0x128 => (s.wr F.evrLost2NvLost 0).modRep (fun r => { r with deepLost := 0 })
  | 0x12C => s.modRep (fun r => { r with rlDrops := 0, filtered := 0 })
  | 0x134 => if s.regionRefused w 3 then s.event F.evrEvtCfgRejected else s.writePlain .evr 0 off w cyc
  | 0x148 => onlyIf (getF w 0 1 = 1) (fun s => s.fetchRecord (s.rd F.evrRdSeqLoSeq + 2 ^ 32 * s.rd F.evrRdSeqHiSeq)) s
  | _ => s.writePlain .evr 0 off w cyc

/-- A write to the PMC page (R471, R472, R475, R480). -/
def State.writePmc (s : State) (off : Nat) (w : Word) (cyc : Nat) : State :=
  match off with
  | 0x104 => s.landPmcCmd w cyc
  | 0x118 => if s.regionRefused w 4 then s.pmcFlag F.pmcEvtCfgRejected else s.writePlain .pmc 0 off w cyc
  | 0x120 => s.archRead (getF w 0 16) (getF w 16 13)
  | _ => s.writePlain .pmc 0 off w cyc

/-- A write to the TSU page (R413, R414, R424). -/
def State.writeTsu (s : State) (off : Nat) (w : Word) (cyc : Nat) : State :=
  match off with
  | 0x104 => s.modTime (fun t => { t with stagedLo := some w })
  | 0x108 => s.landIncHi w cyc
  | 0x10C => s.landTimeStep w cyc
  | _ => s.writePlain .tsu 0 off w cyc

/-- A write to the KVT page (R302, R314, R318). The outcome of the start-up tests of ES_RESTART is a free value here. -/
def State.writeKvt (s : State) (off : Nat) (w : Word) (cyc : Nat) : State :=
  match off with
  | 0x100 =>
    let c := s.vaultCapture (getF w 0 4) (getF w 8 10) (getF w 18 10)
    if getF w 0 4 = 9 then s.burn.vaultLand c cyc (s.free 1 = 1) else s.vaultLand c cyc
  | 0x14C => s.landOtp (getF w 0 8) (getF w 24 8)
  | _ => s.writePlain .kvt 0 off w cyc

/-- The EtherTypes that KDL_CTL refuses (R264). -/
def etypeRefused (t : Nat) : Bool := decide (t = 0x88E5 ∨ t = 0x8808 ∨ t = 0x88F7 ∨ t < 0x0600)

/-- A write to the KDL page (R264, R289, R290). -/
def State.writeKdl (s : State) (off : Nat) (w : Word) (cyc : Nat) : State :=
  let k := s.rd F.kdlLinkSelLink
  let refuse := fun (s : State) => s.kdlEvent F.kdlEvtCfgRejected k 0
  match off with
  | 0x100 => if etypeRefused (getF w 16 16) then refuse s else s.writePlain .kdl 0 off w cyc
  | 0x104 => if s.regionRefused w 1 then refuse s else s.writePlain .kdl 0 off w cyc
  | 0x140 => if 143 < getF w 0 8 then refuse s else s.writePlain .kdl 0 off w cyc
  | 0x144 => s.landLinkCfg k w cyc
  | 0x164 => onlyIf (decide (1 ≤ getF w 0 3 ∧ getF w 0 3 ≤ 5)) (fun s => s.landLinkCmd (getF w 0 3) cyc) s
  | 0x16C => onlyIf (getF w 0 1 = 1) (fun s => s.landLinkCmd 6 cyc) s
  | _ => s.writePlain .kdl 0 off w cyc

/-- A write to the TMP page (R435, R436, R449): cfg_lock keeps the configuration as it is, but can still be set. A hold
that defer_hold brings about acts at once (R37). -/
def State.writeTmp (s : State) (off : Nat) (w : Word) (cyc : Nat) : State :=
  let locked := s.on F.tmpCfgCfgLock
  if off = 0x120 then s.landTest (getF w 0 5) (getF w 5 1 = 1)
  else if locked && decide (off = 0x100 ∨ off = 0x114 ∨ off = 0x118 ∨ off = 0x11C ∨ 0x200 ≤ off) then s
  else onlyIf (decide (off = 0x100)) State.holdCheck (s.writePlain .tmp 0 off w cyc)

/-- A write to the OFC page (R436, R450). -/
def State.writeOfc (s : State) (off : Nat) (w : Word) (cyc : Nat) : State :=
  if s.on F.tmpCfgCfgLock && decide (off = 0x104 ∨ off = 0x108 ∨ off = 0x10C) then s
  else s.writePlain .ofc 0 off w cyc

/-- A write to the CXM page (R367, R368, R382, R384). -/
def State.writeCxm (s : State) (off : Nat) (w : Word) (cyc : Nat) : State :=
  let r := s.rd F.cxmRselRegion
  match off with
  | 0x108 => s.landRcfg r w cyc
  | 0x10C => s.landRbase r w cyc
  | 0x120 => s.landCxmCmd (getF w 0 2) (getF w 8 6)
  | _ => s.writePlain .cxm 0 off w cyc

/-- A write to the HST page (R362). -/
def State.writeHst (s : State) (off : Nat) (w : Word) (cyc : Cyc) : State :=
  match off with
  | 0x11C => s.sliceCommand (getF w 0 3) cyc
  | _ => s.writePlain .hst 0 off w cyc

/-- The shares set aside for OTN once every pending copy has taken effect (R324). -/
def State.otnAhead (s : State) : Nat :=
  let copies := s.sched.filterMap (fun e => match e.act with
    | .copy k _ => some k
    | _ => none)
  let qs := (((s.regs.map (·.1)) ++ copies).filterMap (fun k =>
    if k.page = .hrt ∧ k.off = 0x124 then some k.obj else none)).eraseDups
  (qs.map (fun q =>
    if getF (s.newest (keyOf F.hrtQcfgOtn 0 q)) 0 1 = 1 then getF (s.newest (keyOf F.hrtQshareShare 0 q)) 0 21 else 0)).sum

/-- Whether the OTN shares and the reserve that the newest words give exceed the pool (R324). -/
def State.otnOver (s : State) : Bool :=
  decide (poolCells < s.otnAhead + min poolCells (getF (s.newest (keyOf F.hrtResvReserve)) 0 21))

/-- Whether a write of a share lowers that of an OTN queue below its occupancy (R325). -/
def State.shareTooLow (s : State) (q share : Nat) : Bool :=
  s.on F.hrtQcfgOtn 0 q && decide (share < s.rd F.hrtQshareShare 0 q ∧ share < s.occupancy q)

/-- Whether a write of HRT_SPILL is refused (R329, R330). -/
def State.spillRefused (s : State) (w : Word) : Bool :=
  s.regionRefused w 0 ||
    (decide (0 < s.spillCells) && (decide (getF w 0 4 ≠ s.rd F.hrtSpillRegion) || decide (getF w 4 1 < s.rd F.hrtSpillValid)))

/-- A write to the HRT page (R324, R325, R329, R330, R336, R393). -/
def State.writeHrt (s : State) (off : Nat) (w : Word) (cyc : Nat) : State :=
  let q := s.rd F.hrtQselQueue
  let refuse := fun (s : State) => s.hrtEvent F.hrtEvtCfgRejected q
  let t := s.writePlain .hrt 0 off w cyc
  if s.effMode = 5 && decide (0x124 ≤ off ∧ off ≤ 0x138) then refuse s
  else match off with
  | 0x104 => if t.otnOver then refuse s else t
  | 0x10C => if s.spillRefused w then refuse s else t
  | 0x124 => if t.otnOver then refuse s else t
  | 0x128 => if t.otnOver || s.shareTooLow q (getF w 0 21) then refuse s else t
  | 0x148 => onlyIf (getF w 0 1 = 1) (fun s => s.landFlush cyc) s
  | _ => t

/-- The nodes of a level (R331). -/
def levelCount : Nat → Nat
  | 0 => 16384
  | 1 => 2048
  | 2 => 144
  | _ => 0

/-- A write to the SCH page (R331, R337, R393). -/
def State.writeSch (s : State) (off : Nat) (w : Word) (cyc : Nat) : State :=
  let refuse := fun (s : State) => s.wr F.schStatCfgRejected 1
  if s.effMode = 5 && decide (0x104 ≤ off ∧ off ≤ 0x10C) then refuse s
  else match off with
  | 0x100 => if levelCount (getF w 0 2) ≤ getF w 16 14 then refuse s else s.writePlain .sch 0 off w cyc
  | 0x10C =>
    if s.rd F.schSelLevel = 1 ∧ 143 < getF w 0 11 then refuse s else s.writePlain .sch 0 off w cyc
  | _ => s.writePlain .sch 0 off w cyc

/-- A write to the MOD page (R447, R451). -/
def State.writeMod (s : State) (off : Nat) (w : Word) (cyc : Nat) : State :=
  match off with
  | 0x104 => if 17 < getF w 0 5 then s else s.writePlain .mod 0 off w cyc
  | 0x110 => s.landModCmd (getF w 0 2) (getF w 2 3 + 1) (getF w 8 8) (getF w 16 8) (getF w 24 8)
  | _ => s.writePlain .mod 0 off w cyc

/-! ### The Chimney pages -/

/-- A write to a LAN page, or to the registers of a Flue lane (R64, R67 to R69, R73, R75, R80, R82, R84). Of one LAN_STEP
write, cmis_agreed acts before its target is checked (DESIGN CHOICE, log entry 50). -/
def State.writeLan (s : State) (g off : Nat) (w : Word) (cyc : Nat) : State :=
  match off with
  | 0x100 => s.landLanCtrl g w cyc
  | 0x108 =>
    let s := onlyIf (getF w 4 1 = 1) (fun s => s.wr F.lanStepStepRejected 0 g) s
    (onlyIf (getF w 3 1 = 1) (fun s => s.cmisAgreed g) s).landStep g (getF w 0 3) cyc
  | 0x10C => s.landFfe g w cyc
  | 0x114 => onlyIf (getF w 0 1 = 1) (fun s => s.slipOne g) s
  | 0x118 => s.landPeriod g (getF w 0 16)
  | 0x120 => s.landPrbs g w cyc
  | 0x140 =>
    (onlyIf (getF w 3 1 = 1) (fun s => s.wr F.lanLoopLoopRejected 0 g) s).landLoop g (getF w 0 2) (getF w 2 1 = 1) cyc
  | _ => s.writePlain .lan g off w cyc

/-- A write to a PRT page (R87, R101). -/
def State.writePrt (s : State) (p off : Nat) (w : Word) (cyc : Nat) : State :=
  match off with
  | 0x100 => s.landPortCfg p w cyc
  | _ => s.writePlain .prt p off w cyc

/-- A write to an OTF page (R103, R124). -/
def State.writeOtf (s : State) (p off : Nat) (w : Word) (cyc : Nat) : State :=
  match off with
  | 0x100 => s.landOtnCfg p w cyc
  | _ => s.writePlain .otf p off w cyc

/-- A write to a CHM page (R198, R202). -/
def State.writeChm (s : State) (c off : Nat) (w : Word) (cyc : Nat) : State :=
  match off with
  | 0x100 => s.landChmCfg c w cyc
  | _ => s.writePlain .chm c off w cyc

/-- A write to a STV page (R200, R203): op 3 is refused. -/
def State.writeStv (s : State) (c off : Nat) (w : Word) (cyc : Nat) : State :=
  match off with
  | 0x108 =>
    match getF w 0 2 with
    | 1 => s.stvLand c (getF w 8 6) false cyc
    | 2 => s.stvLand c (getF w 8 6) true cyc
    | 3 => (s.wr F.stvCmdStatStove (getF w 8 6) c).wr F.stvCmdStatResult 2 c
    | _ => s
  | _ => s.writePlain .stv c off w cyc

/-- A write to a LRC page (R137, R148). -/
def State.writeLrc (s : State) (c off : Nat) (w : Word) (cyc : Nat) : State :=
  match off with
  | 0x104 =>
    onlyIf (getF w 1 1 = 1) (fun s => s.lrcFlush c) (onlyIf (getF w 0 1 = 1) (fun s => s.lrcRehash c) s)
  | _ => s.writePlain .lrc c off w cyc

/-- A write to the block registers of a page that is ready. The registers of the two Flue lanes lie in the FLU page, 256
bytes each from 0x400 (R385). -/
def State.writeBlock (s : State) (p : Page) (i off : Nat) (w : Word) (cyc : Cyc) : State :=
  match p with
  | .dev => s.writeDev off w cyc
  | .pwr => if off = 0x108 then s.setWord (keyOf F.pwrEvtBrownouts) 0 else s.writePlain .pwr 0 off w cyc
  | .flt => s.writeFlt off w cyc
  | .evr => s.writeEvr off w cyc
  | .pmc => s.writePmc off w cyc
  | .tsu => s.writeTsu off w cyc
  | .kvt => s.writeKvt off w cyc
  | .kdl => s.writeKdl off w cyc
  | .tmp => s.writeTmp off w cyc
  | .ofc => s.writeOfc off w cyc
  | .flu =>
    if 0x400 ≤ off ∧ off < 0x600 then s.writeLan (144 + (off - 0x400) / 0x100) (0x100 + off % 0x100) w cyc
    else if off = 0x120 then s.landFluCmd (getF w 0 2) cyc
    else s.writePlain .flu 0 off w cyc
  | .cxm => s.writeCxm off w cyc
  | .hst => s.writeHst off w cyc
  | .hrt => s.writeHrt off w cyc
  | .sch => s.writeSch off w cyc
  | .mod => s.writeMod off w cyc
  | .chm => s.writeChm i off w cyc
  | .stv => s.writeStv i off w cyc
  | .lan => s.writeLan i off w cyc
  | .prt => s.writePrt i off w cyc
  | .otf => s.writeOtf i off w cyc
  | .lrc => s.writeLrc i off w cyc
  | .fwd | .asn | .sea => s.writePlain p i off w cyc
  | .slc | .asnw | .fwdw => s

/-! ### Windows (R52, R142, R166) -/

/-- A write to the association window (R166, R171). -/
def State.writeAsnWin (s : State) (off : Nat) (w : Word) (cyc : Nat) : State :=
  if off = 0 then s.asnLand (getF w 0 4) (getF w 4 17) cyc
  else s.gate .asn 0 (fun s => s.asnFinish.writePlain .asnw 0 off w cyc)

/-- A write to the forwarding window (R142, R147). -/
def State.writeFwdWin (s : State) (off : Nat) (w : Word) (cyc : Nat) : State :=
  if off ≠ 0 then s.gate .fwd 0 (fun s => s.writePlain .fwdw 0 off w cyc)
  else s.fwdLand (fun s =>
    match getF w 0 4 with
    | 1 => s.fwdStart (s.fwdCapture 1)
    | 2 => s.fwdStart (s.fwdCapture 2)
    | 3 => s.fwdStartActive (s.fwdCapture 3)
    | 4 => s.fwdStartActive (s.fwdCapture 4)
    | 5 => s.fwdStartActive { s.fwdCapture 5 with port := getF w 8 8, inclStatic := getF w 4 1 = 1 }
    | 6 => s.fwdStart (s.fwdCapture 6)
    | 7 => s.landDomain cyc
    | _ => s.fwdResult 6)

/-! ### Slice pages (R343, R363) -/

/-- Whether a ring of a slice is enabled, or is to be at an edge. -/
def State.ringOn (s : State) (n cfg : Nat) : Bool :=
  getF (s.word ⟨.slc, cfg, n, 0⟩) 8 1 = 1 || getF (s.newest ⟨.slc, cfg, n, 0⟩) 8 1 = 1

/-- A write of a ring's base (R343): only while it is disabled. -/
def State.writeRingBase (s : State) (n cfg off : Nat) (w : Word) (cyc : Nat) : State :=
  if s.ringOn n cfg then s else s.writePlain .slc n off w cyc

/-- A write of a ring's configuration (R343): the size changes only through a write that leaves or makes it disabled or
that enables a disabled ring; an enable with a base or a size out of range is refused. -/
def State.writeRingCfg (s : State) (n cfg : Nat) (w : Word) (cyc : Nat) : State :=
  let base := (s.word ⟨.slc, cfg - 8, n, 0⟩).toNat
  let old := s.word ⟨.slc, cfg, n, 0⟩
  if getF w 8 1 = 1 ∧ s.ringOn n cfg = true then s.writePlain .slc n cfg (setF w 0 5 (getF old 0 5)) cyc
  else if getF w 8 1 = 1 ∧ (base % 4096 ≠ 0 ∨ getF w 0 5 < 4 ∨ 16 < getF w 0 5) then s.wr F.slcStatCfgRejected 1 n
  else s.writePlain .slc n cfg w cyc

/-- A write to a slice page that is bound (R343, R363). -/
def State.writeSlice (s : State) (n off : Nat) (w : Word) (cyc : Nat) : State :=
  let q := (off - 0x100) / 0x20
  let r := off % 0x20
  if 0x100 ≤ off ∧ off < 0x180 then
    if r = 0 ∨ r = 4 then s.writeRingBase n (0x108 + 0x20 * q) off w cyc
    else if r = 8 then s.writeRingCfg n off w cyc
    else if r = 0x0C then s.sqDoorbell n q w
    else s
  else match off with
  | 0x180 | 0x184 => s.writeRingBase n 0x188 off w cyc
  | 0x188 => s.writeRingCfg n 0x188 w cyc
  | 0x1A0 | 0x1A4 => s.writeRingBase n 0x1A8 off w cyc
  | 0x1A8 => s.writeRingCfg n 0x1A8 w cyc
  | _ => s.writePlain .slc n off w cyc

/-! ### A write anywhere -/

/-- A word lands at a page, a slice page or BAR4. Block registers of a page that is not ready ignore it (R52). -/
def State.writeTo (s : State) (t : Target) (w : Word) (cyc : Cyc) : State :=
  match t with
  | .page .asnw _ off => s.writeAsnWin off w cyc
  | .page .fwdw _ off => s.writeFwdWin off w cyc
  | .page p i off =>
    if pageCount p ≤ i.val ∨ p = .slc then s
    else if off.val < 0x100 then s.writeHeader p i off w cyc
    else s.gate p i (fun s => s.writeBlock p i off w cyc)
  | .slice n off => s.slicePage n (fun s => s.writeSlice n off w cyc)
  | .msix off => onlyIf (decide (off.val < 0x8000)) (fun s => s.writeMsix (off.val / 4) w) s

/-! ### Addresses (R481 to R483) -/

/-- The pages of a Chimney at page number `n` of its 2 MiB, in the order of their type codes. Where R482 places two
pages at one offset, both are listed. -/
def chimneyPages (c n : Nat) : List (Page × Nat) :=
  let unit := fun (p : Page) (b : Nat) => if b ≤ n ∧ n < b + 18 then [(p, 18 * c + (n - b))] else []
  (if n = 0 then [(.chm, c)] else []) ++ (if n = 1 then [(.stv, c)] else []) ++ unit .lan 0x10 ++ unit .prt 0x20 ++
    unit .otf 0x30 ++ unit .sea 0x40 ++ (if n = 0x50 then [(.lrc, c)] else [])

/-- The page and the offset in it that a BAR0 offset names. -/
def pageAt (a : Nat) : Option (Page × Nat × Nat) :=
  if a < 0x12000 then
    ([Page.dev, .pwr, .flt, .evr, .pmc, .tsu, .kvt, .kdl, .tmp, .ofc, .flu, .cxm, .hst, .hrt, .sch, .fwd, .asn,
      .mod][a / 0x1000]?).map (fun p => (p, 0, a % 0x1000))
  else if 0x1000000 ≤ a ∧ a < 0x2000000 then
    let l := chimneyPages ((a - 0x1000000) / 0x200000) ((a % 0x200000) / 0x1000)
    (if Config.lowerPage a then l.head? else l.getLast?).map (fun e => (e.1, e.2, a % 0x1000))
  else none

/-- The counter whose CNT_VAL_LO a BAR0 offset names (R474, R485). -/
def counterAt (a : Nat) : Option RegKey :=
  match pageAt a with
  | some (p, i, off) =>
    if 0x048 ≤ off ∧ off < 0x0C0 ∧ (off - 0x048) % 16 = 0 then some (ctrKey p i ((off - 0x048) / 16)) else none
  | none => none

/-! ### The commands -/

/-- REGISTER_WRITE (R490). -/
def execRegisterWrite (t : Target) (w : Word) (cyc : Cyc) (s : State) : Host.Outcome State Fault Refusal :=
  done ((s.at cyc).writeTo t w cyc)

/-- BAD_ACCESS (R487, R488): an unmapped access or a refused request. -/
def execBadAccess (off : BitVec 26) (write refused : Bool) (s : State) : Host.Outcome State Fault Refusal :=
  let s := if s.on F.devBadaddrValid then s else
    (((s.wr F.devBadaddrOffset off.toNat).wr F.devBadaddrWrite (b2n write)).wr F.devBadaddrRefused (b2n refused)).wr
      F.devBadaddrValid 1
  done (if write then s else s.emit (if refused then .unsupported else .read [0]))

/-- TICK_READ (R32). -/
def execTickRead (cyc : Cyc) (s : State) : Host.Outcome State Fault Refusal :=
  done ((s.at cyc).gateRead .dev 0 (fun s =>
    (s.wr F.devTickHiTickHi (s.tick / 2 ^ 32)).emit (.read [BitVec.ofNat 32 s.tick])))

/-- SLICE_COUNTER_READ (R363, R474): a read of SLC_CTR_LO. -/
def execSliceCounterRead (n : SliceNo) (s : State) : Host.Outcome State Fault Refusal :=
  done (s.gateRead .hst 0 (fun s =>
    let k : Counter :=
      match counterAt (s.rd F.slcCtrSelOffset n) with
      | some k => if s.on F.hstSresCounterRead 0 n then mget {} s.rep.ctrs k else {}
      | none => {}
    (s.wr F.slcCtrHiValueHi k.high.toNat n).emit (.read [BitVec.ofNat 32 k.shadow])))

end Sys2Proof.Machine
end

