-- ==== Sys2Proof/Machine/Tick.lean ====
section
/-! DEFINITION. The tick edge (R4, R15 to R20, R31 to R34): the eight steps of the commit point in their fixed order, and
what every unit does at the edge around them. -/

namespace Sys2Proof.Machine

open Sys2Proof

/-! ### Schedules -/

/-- Whether a scheduled action comes at edge `n`: its edge has come and hold does not keep it (R16, R21). -/
def Sched.isDue (n : Nat) (e : Sched) : Bool := !e.held && decide (e.due ≤ n)

/-- Every action in turn. -/
def State.acts (l : List Act) (f : Act → State → State) (s : State) : State := forL l f s

/-- The operations that global operations ask for, in the bits of DEV_GOP (R32). -/
def gopBits (l : List Act) : Nat :=
  l.foldl (fun n a => match a with
    | .gop b _ => n ||| b
    | _ => n) 0

/-- Those among them carried to the partner (R34). -/
def gopPairBits (l : List Act) : Nat :=
  l.foldl (fun n a => match a with
    | .gop b true => n ||| b
    | _ => n) 0

/-! ### The end of the tick -/

/-- The counts of a tick, up to its last cycle (R468, R471). -/
def State.flushTally (s : State) : State :=
  forL s.rep.tally State.applyTally { s with rep := { s.rep with tally := [] } }

/-- The tick that the edge ends: what it measured is counted, in its cycle 9,999. -/
def State.endTick (e : EdgeIn) (s : State) : State :=
  let s := forL e.overwrites State.injectedGone (forL e.guardWrites State.guardWritten { s with cycle := 9999 })
  let s := (forN 8 State.chimEndTick s).laneEdge e
  let s := forL e.otn State.otnMeasure (forL e.pcs State.pcsMeasure s)
  let s := onlyIf (decide (26488 < s.backlog)) (fun s => s.count .flu 0 10) s
  let s := forN 16 State.sweepTick (forL (e.ringErrors.map (·.val)) State.ringFails s)
  let s := ((s.count .hst 0 7 e.stagingWait).count .hst 0 8 e.ats).count .sch 0 5 e.stalls
  let s := onlyIf (decide (s.freeCells < s.reserveCells)) (fun s => s.count .hrt 0 13) s
  s.flushTally.flushTally

/-- The tick number (R32): the first edge after a cold reset has number 0. The device time advances (R412). -/
def State.nextTick (s : State) : State :=
  let first := !s.time.started && !s.pwr.warm
  { s.timeTick with tick := if first then 0 else s.tick + 1, cycle := 0 }

/-- What the pins and sensors show at the edge (R37, R45, R425, R432, TMP_TEMP), and what acts on it at once: a halt
(R429), a shed (R45). -/
def State.pinsEdge (e : EdgeIn) (s : State) : State :=
  let s := s.railsEdge e.railsReleased
  let s := s.setRails (s.rd F.pwrStatRailOk % 32 + 32 * b2n e.vbatOk)
  let s := (s.wr F.pwrStatPfw (b2n e.pfwLow)).tempEdge e.temp
  let s := (s.wr F.tmpMeshMeshFault e.mesh.toNat).wr F.tmpLidLidOpen e.lids.toNat
  let s := s.modPwr (fun p => { p with shed := p.shed || p.shedDue, shedDue := false })
  s.haltEdge

/-! ### Step 2: pending copies (R16, R17, R490) -/

/-- A mode request at its edge (R37, R38): checked again. -/
def State.commitModeReq (s : State) (target : Nat) : State :=
  if target = 0 then s
  else if !s.modeAllowed target then s.wr F.devModeReqRejected 1
  else match target with
    | 1 => s.runRule
    | 2 => s.setMode 3
    | 3 => s.setMode 8
    | _ => (s.setMode 2).holdCheck

/-- The RWT fields of a register take the word written (R490). -/
def State.commitPlain (s : State) (k : RegKey) (w : Word) : State :=
  match regDefOf k.page k.off with
  | some d => s.setWord k (mergeF (BitVec.ofNat 32 d.rwt) (s.word k) w)
  | none => s

/-- A change of OTF_TTI_CTL.tti_persist restarts the acceptance of both traces (R124). -/
def State.commitTti (s : State) (k : RegKey) (w : Word) : State :=
  let was := s.rd F.otfTtiCtlTtiPersist k.inst
  let s := s.commitPlain k w
  onlyIf (decide (s.rd F.otfTtiCtlTtiPersist k.inst ≠ was)) (fun s => s.modOtnp k.inst (fun o =>
    { o with smTrace := o.smTrace.restart, pmTrace := o.pmTrace.restart })) s

/-- A change of OTF_APS_CTL.level restarts the persistence of R120 (R124). -/
def State.commitAps (s : State) (k : RegKey) (w : Word) : State :=
  let was := s.rd F.otfApsCtlLevel k.inst
  let s := s.commitPlain k w
  onlyIf (decide (s.rd F.otfApsCtlLevel k.inst ≠ was)) (fun s => s.modOtnp k.inst (fun o => { o with apsRun := 0 })) s

/-- A change of SEA_CFG.cd_persist restarts the runs of R223 and R224 (R227). -/
def State.commitSeaCfg (s : State) (k : RegKey) (w : Word) : State :=
  let was := s.rd F.seaCfgCdPersist k.inst
  let s := s.commitPlain k w
  onlyIf (decide (s.rd F.seaCfgCdPersist k.inst ≠ was)) (fun s => s.modSeal k.inst (fun r =>
    { r with cdRun := 0, disagree := 0 })) s

/-- FLU_CFG (R386, R411): the Flue disabled, or keyed from another slot. -/
def State.commitFluCfg (s : State) (k : RegKey) (w : Word) : State :=
  let was := s.rd F.fluCfgPairSlot
  let s := s.commitPlain k w
  if !s.on F.fluCfgEnable then ((s.dropMirror.dropSync).wr F.fluStatState 0).flueDegrade
  else if s.keyed && decide (was ≠ s.rd F.fluCfgPairSlot) then s.enterHello
  else s

/-- PMC_ARCH (R475): an archive enabled starts at block 0. -/
def State.commitArch (s : State) (k : RegKey) (w : Word) : State :=
  let was := s.on F.pmcArchValid
  let s := s.commitPlain k w
  onlyIf (!was && s.on F.pmcArchValid) (fun s => s.modArch (fun a => { a with next := 0, writing := none, blocks := [] })) s

/-- SLC_EQ_CFG (R363): a ring enabled starts with no lost entry. -/
def State.commitEqCfg (s : State) (k : RegKey) (w : Word) : State :=
  let was := s.on F.slcEqCfgEnable k.inst
  let s := s.commitPlain k w
  onlyIf (!was && s.on F.slcEqCfgEnable k.inst) (fun s => s.wr F.slcEqCfgLost 0 k.inst) s

/-- A pending copy takes effect (R17, R19 step 2). `arrived` are the counters that a carry reached at this edge
(R472). -/
def State.commitCopy (arrived : List RegKey) (k : RegKey) (w : Word) (s : State) : State :=
  if k.page.hasHeader && decide (0x040 ≤ k.off ∧ k.off < 0x0C0 ∧ k.off % 16 = 0) then s.commitCntCfg arrived k w
  else match k.page, k.off with
    | .dev, 0x134 => s.commitModeReq (getF w 0 3)
    | .pmc, 0x118 => s.commitArch k w
    | .tsu, 0x104 => s.commitIncLo w
    | .tsu, 0x108 => s.commitIncHi w
    | .kdl, 0x144 => s.commitLinkCfg k.obj w
    | .flu, 0x100 => s.commitFluCfg k w
    | .cxm, 0x108 => s.commitRcfg k.obj w
    | .cxm, 0x10C => s.commitRbase k.obj w
    | .chm, 0x100 => s.commitChmCfg k.inst w
    | .lan, 0x100 => s.commitLanCtrl k.inst w
    | .lan, 0x108 => s.commitStep k.inst w.toNat
    | .lan, 0x10C => s.commitFfe k.inst w
    | .lan, 0x120 => s.commitPrbs k.inst w
    | .lan, 0x140 => s.commitLoop k.inst w
    | .prt, 0x100 => (onlyIf (getF w 0 1 = 0) (fun s => s.leaveOtn k.inst) s).commitPortCfg k.inst w
    | .prt, 0x118 => s.commitAuth k w 0x1FFFFFFF
    | .otf, 0x124 => s.commitAuth k w 0x0FFFFFFF
    | .otf, 0x100 => s.commitOtnCfg k.inst w
    | .otf, 0x110 => s.commitTti k w
    | .otf, 0x118 => s.commitAps k w
    | .sea, 0x100 => s.commitSeaCfg k w
    | .slc, 0x1A8 => s.commitEqCfg k w
    | _, _ => s.commitPlain k w

/-- Whether an action is the copy of a PRT_CFG. -/
def isPortCfg (a : Act) : Bool :=
  match a with
  | .copy k _ => decide (k.page = .prt ∧ k.off = 0x100)
  | _ => false

/-- The copies of an edge, in the order in which they landed; a class change that waits for code 0 (R61); then the
ports, those of lower number first (R87). -/
def State.commitCopies (arrived : List RegKey) (l : List Act) (s : State) : State :=
  let one := fun (a : Act) (s : State) => match a with
    | .copy k w => s.commitCopy arrived k w
    | _ => s
  let s := s.acts (l.filter (fun a => !isPortCfg a)) one
  let s := forL ((s.lanes.filter (fun e => e.2.classPend.isSome)).map (·.1)) State.settleClass s
  let ports := l.filter isPortCfg
  forN 144 (fun p s => s.acts (ports.filter (fun a => match a with
    | .copy k _ => decide (k.inst = p)
    | _ => false)) one) s

/-! ### Step 2: commands that act there -/

/-- A window command on an association (R153, R166, R309): one that enters KINDLING is staged by its link (R258). -/
def State.windowAct (s : State) (op a : Nat) (m : List Byte) : State :=
  let was := (s.asn a).state
  let s := s.asnAct op a m (s.cascWait a)
  if (s.asn a).state = .kindling ∧ was ≠ .kindling then s.kindleEntered a else s

/-- What a scheduled command does at step 2 of its edge. -/
def State.actStep2 (arrived : List RegKey) (a : Act) (s : State) : State :=
  match a with
  | .cntClear p i c => s.clearCounter arrived p i c
  | .clearAll => s.clearCounters arrived
  | .laneTrain g => s.laneTrain g
  | .laneCheck g => s.laneCheck g
  | .ffeStep g tap up => s.ffeStep g tap up
  | .asnCmd op a m => s.windowAct op a m
  | .asnWait op a => s.windowAct op a []
  | .domWrite d x => s.applyDomain d x
  | .softHit a => (s.asnEvent F.asnEvtSoftHit a).softRoll a
  | .reseedAll => forN 9 (fun i s => s.drbgReseed i) s
  | .stoveCmd c k restore => s.stvAct c k restore
  | .stoveBack c ks => s.stvBack c ks
  | .linkCmd k op => s.linkAct k op
  | .rollJoin a => s.rollJoin a
  | .timeStep ns => s.stepTime ns
  | .fluCmd op => s.fluAct op
  | _ => s

/-- The Kindle Exchange at step 2 of an edge: derivations, then the installs that were waiting for it (R251, R259, R268,
R276). -/
def State.linkStep2 (k : Nat) (s : State) : State :=
  ((((s.confirmEdge k).deriveLink k).phase0Install k).rollInstall k).liveInstall k

/-- Step 2 of R19. -/
def State.step2 (arrived : List RegKey) (l : List Act) (recs : List (Nat × MRec)) (s : State) : State :=
  let s := onlyIf s.pair.runWait State.runRule s
  let s := (s.commitCopies arrived l).acts l (State.actStep2 arrived)
  let s := forL s.asnListed (fun a s => s.drainAsn a) s
  let s := forL s.asnListed State.recoverAsn s
  let s := forL (s.kindle.links.map (·.1)) State.linkStep2 s
  forL recs State.applyRecord s

/-! ### Step 3: invalidation (R303, R306, R307, R309) and quench (R168) -/

/-- The slots that a change of step 3 removes, with the state it leaves. -/
def State.slotStep (a : Act) (q : State × List Nat) : State × List Nat :=
  match a with
  | .slotUsable v officer => (q.1.slotBecomes v officer, q.2)
  | .slotDelete v => let r := q.1.deleteSlot v; (r.1, q.2 ++ r.2)
  | .slotInvalid v => let r := q.1.removeSlots v; (r.1, q.2 ++ r.2)
  | _ => q

/-- The cascade of the slots removed at an edge (R307, R309): the associations under them are DEAD with cause 2. -/
def State.cascade (s : State) (vs : List Nat) : State :=
  let vs := vs.eraseDups
  match vs.getLast? with
  | none => s
  | some v =>
    let hit := s.asnListed.filter (fun a => decide ((s.asn a).slot ∈ vs) && (s.asn a).state.keyed)
    let s := forL hit (fun a s => s.deadAsn a 2) s
    let s := (s.wr F.kvtCasc0Slots vs.length).wr F.kvtCasc1Assocs hit.length
    (((s.count .kvt 0 7).count .kvt 0 8 hit.length).kvtEvent F.kvtEvtCascade v).cascaded hit

/-- Step 3 of R19. -/
def State.step3 (l : List Act) (quench : Bool) (s : State) : State :=
  let r := l.foldl (fun q a => State.slotStep a q) (s, [])
  let s := r.1.cascade r.2
  let s := s.acts l (fun a s => match a with
    | .asnDead a cause => s.deadAsn a cause
    | .portDead p cause => forL s.asnListed (fun a s => onlyIf (decide ((s.asn a).port = p)) (fun s => s.deadAsn a cause) s) s
    | _ => s)
  onlyIf quench State.quenchAsn s

/-! ### Steps 4 to 8 -/

/-- The ports evaluate their defects from the end of the last tick (R96, R112, R119): before step 4,
which asks whether a port refuses LIVE (R114, R260). -/
def State.portsEdge (s pre : State) : State :=
  State.portsEval pre (forN 144 (fun p s =>
    onlyIf (s.portOn p && s.portOtn p) (fun s => s.timEval p) s |>.sealLosEdge p) s)

/-- Step 4 of R19: key-phase switches, the ends of overlaps, and sessions and associations that become LIVE (R153,
R159). -/
def State.step4 (s : State) : State :=
  let ks := s.kindle.links.map (·.1)
  let s := forL ks (fun k s => (s.rollSwitch k).rollOverlap k) s
  let s := forL s.asnListed (fun a s => s.overlapAsn a) s
  (forL ks (fun k s => s.sessionLive k) s).liveStep

/-- Step 5 of R19: aging, and the entries of associations that this edge left without keys (R140, R141). -/
def State.step5 (pre : AsnTable) (s : State) : State := s.ageAll.ageOutDead pre

/-- Step 6 of R19: slot, shaper and policer refills (R176, R177, R333). -/
def State.step6 (s : State) : State := (forN 8 State.refillSlots s).refillNodes

/-- Step 7 of R19: generation steps of slices (R352, R353). -/
def State.step7 (l : List Act) (s : State) : State :=
  s.acts l (fun a s => match a with
    | .sliceCmd n op pasid => s.sliceAct n op pasid
    | _ => s)

/-- Step 8 of R19 (R32, R33, R34): the global operations of the edge are done; those that are to go to the partner are
queued for the frame of this edge. A barrier completes at its edge also while hold keeps copies pending (DESIGN CHOICE, log
entry 51). -/
def State.step8 (ops carried : Nat) (s : State) : State :=
  let waiting := gopBits (s.sched.map (·.act))
  let s := s.wr F.devGopStatPending waiting
  let s := if ops = 0 then s else (s.wr F.devGopStatDone ops).wr F.devGopStatDoneEdge (s.tick % 65536)
  if carried ≠ 0 ∧ (s.effMode = 4 ∨ s.effMode = 7) ∧ s.keyed = true then
    (s.modPair (fun p => { p with records := p.records ++ [.pairOp carried], ops := p.ops ++ [(s.tick, some (p.lastRec + p.records.length + 1))] })).wr
      F.devGopStatPartnerWait 1
  else s

/-! ### What follows the steps -/

/-- Flushes and cells (R326, R327), pieces that end (R348), and the mark of a low pool (R336). -/
def State.cellsEdge (l : List Act) (s : State) : State :=
  let s := s.acts l (fun a s => match a with
    | .queueFlush q => s.flushQueues (fun x => decide (x = q)) q
    | _ => s)
  let s := s.zeroStep.pieceEnds
  onlyIf (decide (s.freeCells < s.reserveCells)) (fun s => s.hrtEvent F.hrtEvtPoolLow 0) s

/-- The pair at the edge (R396 to R409): health, partner_sync, the lock and the lines that it drives, and the frame of
the edge last. -/
def State.pairEdge (s : State) : State :=
  let s := (s.wr F.fluHealthOwn s.health).syncEdge.mirrorEdge
  let s := match s.pair.tookAt with
    | some e => if e < s.tick ∧ s.pair.handover = none then s.modPair (fun p => { p with noAdmit := false }) else s
    | none => s
  (s.rearmLock.driveLines s.alarms).sendFrame.claimEdge

/-- Everything after step 8. -/
def State.afterSteps (s : State) (l : List Act) : State :=
  let s := ((s.cellsEdge l).timeEdge).attestEdge
  let s := forL (s.kindle.links.map (·.1)) (fun k s => (s.rollService k).offerWaiting k |>.pump k) s
  let s := s.archEdge
  (s.refillBuckets s.tick).pairEdge

/-! ### The edge -/

/-- The scheduled acts that are due, taken from the list in the order in which they landed. -/
def State.takeDue (s : State) : State × List Act :=
  ({ s with sched := s.sched.filter (fun x => !x.isDue s.tick) }, (s.sched.filter (Sched.isDue s.tick)).map (·.act))

/-- The steps of R19 at the edge that the tick number names. -/
def State.edgeSteps (s : State) (e : EdgeIn) (pre : State) : State :=
  let (s, arrived) := s.keepTables.carriesArrive
  let s := ((s.flueLanes e).lockEdge e.peerLock).yieldEdge
  let (s, recs) := s.takeFrame
  let theirs := pairOps recs
  let s := onlyIf (bit theirs 0) (fun s =>
    { s with sched := s.sched.map (fun x => if x.held then { x with held := false, due := s.tick } else x) }) s
  let (s, l) := s.takeDue
  let ops := gopBits l ||| theirs
  let s := onlyIf (bit ops 1 || l.contains .snapshot || s.periodic s.tick) (fun s => s.snapshot s.tick) s
  let (s, more) := (s.step2 arrived l recs).takeDue
  let l := l ++ more
  let s := (s.step3 l (bit ops 3 || l.contains .asnQuench)).portsEdge pre
  ((s.step4.step5 pre.assocs).step6.step7 l).step8 ops (gopPairBits l) |>.afterSteps l

/-- The battery-backed clock runs in every mode (R432), by the ticks of 32,768 Hz since the last edge, and with it what
the monitors show (R426). -/
def State.brtcTick (s : State) (e : EdgeIn) : State :=
  (s.modTamper (fun t => { t with brtc := (t.brtc + 2 * e.rtc) % 2 ^ 48 })).tamperEdge e.tamper.toNat (2 * e.rtc)

/-- TICK_EDGE (R19): a cold reset stops the tick tree (R32), in COLD-GUARD and RESET, and only the Ember domain's clock
and monitors run; in a warm reset the tick number goes on (R48) and nothing else happens. A halt that resets the device ends the edge
(R429). -/
def execTickEdge (e : EdgeIn) (s : State) : Host.Outcome State Fault Refusal :=
  let s := s.brtcTick e
  done (if s.mode = 0 then s
  else if s.mode = 1 then (if s.pwr.warm then { s with tick := s.tick + 1, cycle := 0 } else s)
  else
    let s := s.endTick e
    let t := s.nextTick.pinsEdge e
    if t.mode = 1 then t else t.edgeSteps e s)

end Sys2Proof.Machine
end

