-- ==== Sys2Proof/Machine/Dispatch.lean ====
section
/-! DEFINITION. What each command does: one arm for each constructor, each a direct call of its meaning. -/

namespace Sys2Proof.Machine

open Sys2Proof

/-- The effect of a command on everything but the queue of waiting commands. -/
def exec (i : Instr) (s : State) : Host.Outcome State Fault Refusal :=
  match i with
  | .tickEdge e => Sys2Proof.Machine.execTickEdge e s
  | .registerWrite t w cyc => Sys2Proof.Machine.execRegisterWrite t w cyc s
  | .badAccess off write refused => Sys2Proof.Machine.execBadAccess off write refused s
  | .tickRead cyc => Sys2Proof.Machine.execTickRead cyc s
  | .hold cyc => Sys2Proof.Machine.execHold cyc s
  | .holdRelease cyc => Sys2Proof.Machine.execHoldRelease cyc s
  | .commit w cyc => Sys2Proof.Machine.execCommit w cyc s
  | .gopSnapshot w cyc => Sys2Proof.Machine.execGopSnapshot w cyc s
  | .barrier w cyc => Sys2Proof.Machine.execBarrier w cyc s
  | .quenchAsn w cyc => Sys2Proof.Machine.execQuenchAsn w cyc s
  | .modeReqRun cyc => Sys2Proof.Machine.execModeReqRun cyc s
  | .modeReqOfficer cyc => Sys2Proof.Machine.execModeReqOfficer cyc s
  | .modeReqSelfTest cyc => Sys2Proof.Machine.execModeReqSelfTest cyc s
  | .modeReqKindling cyc => Sys2Proof.Machine.execModeReqKindling cyc s
  | .warmReset cause cyc => Sys2Proof.Machine.execWarmReset cause cyc s
  | .hostReset cause cyc => Sys2Proof.Machine.execHostReset cause cyc s
  | .coldReset cause => Sys2Proof.Machine.execColdReset cause s
  | .resetRelease r esOk side => Sys2Proof.Machine.execResetRelease r esOk side s
  | .bootComplete a b => Sys2Proof.Machine.execBootComplete a b s
  | .bootRetry cyc => Sys2Proof.Machine.execBootRetry cyc s
  | .pageReady p inst => Sys2Proof.Machine.execPageReady p inst s
  | .railBelowInhibit flushed => Sys2Proof.Machine.execRailBelowInhibit flushed s
  | .railsUp rtc => Sys2Proof.Machine.execRailsUp rtc s
  | .quench cause cyc => Sys2Proof.Machine.execQuench cause cyc s
  | .laneEnable g ctl cyc => Sys2Proof.Machine.execLaneEnable g ctl cyc s
  | .laneDisable g ctl cyc => Sys2Proof.Machine.execLaneDisable g ctl cyc s
  | .laneStepUp g t cyc => Sys2Proof.Machine.execLaneStepUp g t cyc s
  | .laneStepDown g t cyc => Sys2Proof.Machine.execLaneStepDown g t cyc s
  | .cmisAgreed g cyc => Sys2Proof.Machine.execCmisAgreed g cyc s
  | .cdrLock g => Sys2Proof.Machine.execCdrLock g s
  | .lockTimeout g => Sys2Proof.Machine.execLockTimeout g s
  | .trainingDone g => Sys2Proof.Machine.execTrainingDone g s
  | .trainingTimeout g => Sys2Proof.Machine.execTrainingTimeout g s
  | .checkDone g => Sys2Proof.Machine.execCheckDone g s
  | .los g => Sys2Proof.Machine.execLos g s
  | .slipFrameReceived g rx => Sys2Proof.Machine.execSlipFrameReceived g rx s
  | .ffeCoeffRequest g tap up => Sys2Proof.Machine.execFfeCoeffRequest g tap up s
  | .ffeWrite g w cyc => Sys2Proof.Machine.execFfeWrite g w cyc s
  | .slip g => Sys2Proof.Machine.execSlip g s
  | .slipPeriodWrite g period => Sys2Proof.Machine.execSlipPeriodWrite g period s
  | .prbsClear g w cyc => Sys2Proof.Machine.execPrbsClear g w cyc s
  | .prbsLock rx => Sys2Proof.Machine.execPrbsLock rx s
  | .prbsLockLoss rx => Sys2Proof.Machine.execPrbsLockLoss rx s
  | .laneErrRead g => Sys2Proof.Machine.execLaneErrRead g s
  | .loopbackNearEnd g ne cyc => Sys2Proof.Machine.execLoopbackNearEnd g ne cyc s
  | .loopbackFarEnd g ne cyc => Sys2Proof.Machine.execLoopbackFarEnd g ne cyc s
  | .loopbackOff g ne cyc => Sys2Proof.Machine.execLoopbackOff g ne cyc s
  | .moduleUnplug b => Sys2Proof.Machine.execModuleUnplug b s
  | .modulePlug b => Sys2Proof.Machine.execModulePlug b s
  | .moduleResetRelease b => Sys2Proof.Machine.execModuleResetRelease b s
  | .moduleRead len off page bank => Sys2Proof.Machine.execModuleRead len off page bank s
  | .moduleWrite len off page bank => Sys2Proof.Machine.execModuleWrite len off page bank s
  | .moduleCmdDone b reply => Sys2Proof.Machine.execModuleCmdDone b reply s
  | .moduleInterrupt b low => Sys2Proof.Machine.execModuleInterrupt b low s
  | .portEnable p cfg cyc => Sys2Proof.Machine.execPortEnable p cfg cyc s
  | .portDisable p cfg cyc => Sys2Proof.Machine.execPortDisable p cfg cyc s
  | .portUp p => Sys2Proof.Machine.execPortUp p s
  | .portFlush p => Sys2Proof.Machine.execPortFlush p s
  | .authWindowEnd p => Sys2Proof.Machine.execAuthWindowEnd p s
  | .frameReceived f cyc => Sys2Proof.Machine.execFrameReceived f cyc s
  | .tagVerdict p id cyc => Sys2Proof.Machine.execTagVerdict p id cyc s
  | .frameSend p bank cyc => Sys2Proof.Machine.execFrameSend p bank cyc s
  | .otnCfgWrite p w cyc => Sys2Proof.Machine.execOtnCfgWrite p w cyc s
  | .otnFrameReceived p f occs cyc => Sys2Proof.Machine.execOtnFrameReceived p f occs cyc s
  | .lofDeclared p => Sys2Proof.Machine.execLofDeclared p s
  | .lomDeclared p => Sys2Proof.Machine.execLomDeclared p s
  | .otnGroupReceived p => Sys2Proof.Machine.execOtnGroupReceived p s
  | .otnGroupVerdict p => Sys2Proof.Machine.execOtnGroupVerdict p s
  | .otnFrameTransmit p bank cyc => Sys2Proof.Machine.execOtnFrameTransmit p bank cyc s
  | .fwdSearch cyc => Sys2Proof.Machine.execFwdSearch cyc s
  | .fwdNext cyc => Sys2Proof.Machine.execFwdNext cyc s
  | .fwdInsert cyc => Sys2Proof.Machine.execFwdInsert cyc s
  | .fwdDelete cyc => Sys2Proof.Machine.execFwdDelete cyc s
  | .flushByPort port inclStatic cyc => Sys2Proof.Machine.execFlushByPort port inclStatic cyc s
  | .domainRead cyc => Sys2Proof.Machine.execDomainRead cyc s
  | .domainWrite cyc => Sys2Proof.Machine.execDomainWrite cyc s
  | .fwdUnknownOp cyc => Sys2Proof.Machine.execFwdUnknownOp cyc s
  | .lrcRehash c cyc => Sys2Proof.Machine.execLrcRehash c cyc s
  | .lrcRehashDone c => Sys2Proof.Machine.execLrcRehashDone c s
  | .lrcFlush c cyc => Sys2Proof.Machine.execLrcFlush c cyc s
  | .asnRead a cyc => Sys2Proof.Machine.execAsnRead a cyc s
  | .writeCfg a cyc => Sys2Proof.Machine.execWriteCfg a cyc s
  | .start a cyc => Sys2Proof.Machine.execStart a cyc s
  | .stop a cyc => Sys2Proof.Machine.execStop a cyc s
  | .kill a cyc => Sys2Proof.Machine.execKill a cyc s
  | .restart a cyc => Sys2Proof.Machine.execRestart a cyc s
  | .release a cyc => Sys2Proof.Machine.execRelease a cyc s
  | .asnUnknownOp a cyc => Sys2Proof.Machine.execAsnUnknownOp a cyc s
  | .drainEnd a => Sys2Proof.Machine.execDrainEnd a s
  | .overlapEnd k => Sys2Proof.Machine.execOverlapEnd k s
  | .autoRecover a => Sys2Proof.Machine.execAutoRecover a s
  | .keyPhaseSwitch k => Sys2Proof.Machine.execKeyPhaseSwitch k s
  | .chmCfgWrite c w cyc => Sys2Proof.Machine.execChmCfgWrite c w cyc s
  | .stoveTest c k cyc => Sys2Proof.Machine.execStoveTest c k cyc s
  | .stoveRestore c k cyc => Sys2Proof.Machine.execStoveRestore c k cyc s
  | .katDone c k pass => Sys2Proof.Machine.execKatDone c k pass s
  | .twinMismatch c inst frames groups jobs => Sys2Proof.Machine.execTwinMismatch c inst frames groups jobs s
  | .microcodeError c k => Sys2Proof.Machine.execMicrocodeError c k s
  | .drbgReseed inst => Sys2Proof.Machine.execDrbgReseed inst s
  | .sqDoorbell n q w => Sys2Proof.Machine.execSqDoorbell n q w s
  | .cqDoorbell n w => Sys2Proof.Machine.execCqDoorbell n w s
  | .eqDoorbell n w => Sys2Proof.Machine.execEqDoorbell n w s
  | .descriptorFetch n descs => Sys2Proof.Machine.execDescriptorFetch n descs s
  | .job n q blob cplOk => Sys2Proof.Machine.execJob n q blob cplOk s
  | .fence n q cplOk => Sys2Proof.Machine.execFence n q cplOk s
  | .nop n q cplOk => Sys2Proof.Machine.execNop n q cplOk s
  | .pieceDispatch c k data => Sys2Proof.Machine.execPieceDispatch c k data s
  | .jobComplete n id tag refused cplOk => Sys2Proof.Machine.execJobComplete n id tag refused cplOk s
  | .coalesceTimer n => Sys2Proof.Machine.execCoalesceTimer n s
  | .jobWaitAlarm n id => Sys2Proof.Machine.execJobWaitAlarm n id s
  | .bind cyc => Sys2Proof.Machine.execBind cyc s
  | .sliceReset cyc => Sys2Proof.Machine.execSliceReset cyc s
  | .sliceRemove cyc => Sys2Proof.Machine.execSliceRemove cyc s
  | .sliceResetDone n => Sys2Proof.Machine.execSliceResetDone n s
  | .sliceResetTimeout n => Sys2Proof.Machine.execSliceResetTimeout n s
  | .dirtyRead cyc => Sys2Proof.Machine.execDirtyRead cyc s
  | .dirtyCopyDone n => Sys2Proof.Machine.execDirtyCopyDone n s
  | .sliceCounterRead n => Sys2Proof.Machine.execSliceCounterRead n s
  | .queueFlush cyc => Sys2Proof.Machine.execQueueFlush cyc s
  | .spillMove q => Sys2Proof.Machine.execSpillMove q s
  | .spillFetch q => Sys2Proof.Machine.execSpillFetch q s
  | .fragmentReceived k kind id index count payload cyc => Sys2Proof.Machine.execFragmentReceived k kind id index count payload cyc s
  | .ackReceived k id base map cyc => Sys2Proof.Machine.execAckReceived k id base map cyc s
  | .ackSend k => Sys2Proof.Machine.execAckSend k s
  | .fragmentRetransmit k index => Sys2Proof.Machine.execFragmentRetransmit k index s
  | .fragmentRetriesExhausted k index => Sys2Proof.Machine.execFragmentRetriesExhausted k index s
  | .messageTimeout k => Sys2Proof.Machine.execMessageTimeout k s
  | .offer k => Sys2Proof.Machine.execOffer k s
  | .answer k => Sys2Proof.Machine.execAnswer k s
  | .proof k => Sys2Proof.Machine.execProof k s
  | .confirm k => Sys2Proof.Machine.execConfirm k s
  | .rollPropose k => Sys2Proof.Machine.execRollPropose k s
  | .rollReady k => Sys2Proof.Machine.execRollReady k s
  | .rollDone k => Sys2Proof.Machine.execRollDone k s
  | .rekeyRequest k => Sys2Proof.Machine.execRekeyRequest k s
  | .rekeyResponse k => Sys2Proof.Machine.execRekeyResponse k s
  | .abort k => Sys2Proof.Machine.execAbort k s
  | .keepalive k => Sys2Proof.Machine.execKeepalive k s
  | .latticeOpDone link par => Sys2Proof.Machine.execLatticeOpDone link par s
  | .keyDeriveDone k => Sys2Proof.Machine.execKeyDeriveDone k s
  | .phase0Install k => Sys2Proof.Machine.execPhase0Install k s
  | .sessionLive k => Sys2Proof.Machine.execSessionLive k s
  | .stateTimeout k par => Sys2Proof.Machine.execStateTimeout k par s
  | .holdoffEnd k => Sys2Proof.Machine.execHoldoffEnd k s
  | .contextFreed k => Sys2Proof.Machine.execContextFreed k s
  | .keepaliveTimer k => Sys2Proof.Machine.execKeepaliveTimer k s
  | .peerSilent k => Sys2Proof.Machine.execPeerSilent k s
  | .rekeyTimer k => Sys2Proof.Machine.execRekeyTimer k s
  | .reauthTimer k => Sys2Proof.Machine.execReauthTimer k s
  | .rollTimeout k => Sys2Proof.Machine.execRollTimeout k s
  | .rekeyTimeout k => Sys2Proof.Machine.execRekeyTimeout k s
  | .doneMissing k => Sys2Proof.Machine.execDoneMissing k s
  | .linkEnable start port cyc => Sys2Proof.Machine.execLinkEnable start port cyc s
  | .linkDisable start cyc => Sys2Proof.Machine.execLinkDisable start cyc s
  | .linkStart cyc => Sys2Proof.Machine.execLinkStart cyc s
  | .linkAbort cyc => Sys2Proof.Machine.execLinkAbort cyc s
  | .linkRekey cyc => Sys2Proof.Machine.execLinkRekey cyc s
  | .linkReauth cyc => Sys2Proof.Machine.execLinkReauth cyc s
  | .clearHoldoff cyc => Sys2Proof.Machine.execClearHoldoff cyc s
  | .linkRoll cyc => Sys2Proof.Machine.execLinkRoll cyc s
  | .generate slot cyc => Sys2Proof.Machine.execGenerate slot cyc s
  | .derive slot parent cyc => Sys2Proof.Machine.execDerive slot parent cyc s
  | .importWrapped slot kek cyc => Sys2Proof.Machine.execImportWrapped slot kek cyc s
  | .exportWrapped slot kek cyc => Sys2Proof.Machine.execExportWrapped slot kek cyc s
  | .delete slot cyc => Sys2Proof.Machine.execDelete slot cyc s
  | .attest slot cyc => Sys2Proof.Machine.execAttest slot cyc s
  | .readCert cyc => Sys2Proof.Machine.execReadCert cyc s
  | .kcv slot cyc => Sys2Proof.Machine.execKcv slot cyc s
  | .esRestart pass cyc => Sys2Proof.Machine.execEsRestart pass cyc s
  | .scrub cyc => Sys2Proof.Machine.execScrub cyc s
  | .identityGen slot cyc => Sys2Proof.Machine.execIdentityGen slot cyc s
  | .importSlot slot arg uses data cyc => Sys2Proof.Machine.execImport slot arg uses data cyc s
  | .kvtUnknownOp cyc => Sys2Proof.Machine.execKvtUnknownOp cyc s
  | .useReservation v => Sys2Proof.Machine.execUseReservation v s
  | .otpAdvance target guard cyc => Sys2Proof.Machine.execOtpAdvance target guard cyc s
  | .regionEnable w cyc => Sys2Proof.Machine.execRegionEnable w cyc s
  | .regionDisable w cyc => Sys2Proof.Machine.execRegionDisable w cyc s
  | .regionReady r => Sys2Proof.Machine.execRegionReady r s
  | .sealedLineRead r line inp => Sys2Proof.Machine.execSealedLineRead r line inp s
  | .sealedLineWrite r line user data inp => Sys2Proof.Machine.execSealedLineWrite r line user data inp s
  | .sweepStart r => Sys2Proof.Machine.execSweepStart r s
  | .sweepDone r => Sys2Proof.Machine.execSweepDone r s
  | .cxlLinkTrained up rate width capacity => Sys2Proof.Machine.execCxlLinkTrained up rate width capacity s
  | .mediaEventPoll corrected => Sys2Proof.Machine.execMediaEventPoll corrected s
  | .reinit entry cyc => Sys2Proof.Machine.execReinit entry cyc s
  | .hello cyc => Sys2Proof.Machine.execHello cyc s
  | .mirrorFrameVerified sel alarm => Sys2Proof.Machine.execMirrorFrameVerified sel alarm s
  | .handover cyc => Sys2Proof.Machine.execHandover cyc s
  | .resync cyc => Sys2Proof.Machine.execResync cyc s
  | .claimFrame claim crc => Sys2Proof.Machine.execClaimFrame claim crc s
  | .standbyScrub errs => Sys2Proof.Machine.execStandbyScrub errs s
  | .idleLaneWindow g errors => Sys2Proof.Machine.execIdleLaneWindow g errors s
  | .incWrite hi cyc => Sys2Proof.Machine.execIncWrite hi cyc s
  | .timeStep step cyc => Sys2Proof.Machine.execTimeStep step cyc s
  | .timeRead cyc => Sys2Proof.Machine.execTimeRead cyc s
  | .edgeTimeRead cyc => Sys2Proof.Machine.execEdgeTimeRead cyc s
  | .ppsOut cyc => Sys2Proof.Machine.execPpsOut cyc s
  | .ppsIn falling ns cyc => Sys2Proof.Machine.execPpsIn falling ns cyc s
  | .ppsInRead cyc => Sys2Proof.Machine.execPpsInRead cyc s
  | .tamperFire src rtc => Sys2Proof.Machine.execTamperFire src rtc s
  | .tamperTest src start => Sys2Proof.Machine.execTamperTest src start s
  | .tamperTestEnd still => Sys2Proof.Machine.execTamperTestEnd still s
  | .officerHello m => Sys2Proof.Machine.execOfficerHello m s
  | .officerResponse m => Sys2Proof.Machine.execOfficerResponse m s
  | .vault m cyc => Sys2Proof.Machine.execVault m cyc s
  | .certWrite m => Sys2Proof.Machine.execCertWrite m s
  | .certRead m => Sys2Proof.Machine.execCertRead m s
  | .ack m => Sys2Proof.Machine.execAck m s
  | .clearFlags m => Sys2Proof.Machine.execClearFlags m s
  | .note m => Sys2Proof.Machine.execNote m s
  | .setBrtc m => Sys2Proof.Machine.execSetBrtc m s
  | .unlockCfg m => Sys2Proof.Machine.execUnlockCfg m s
  | .endSession m => Sys2Proof.Machine.execEnd m s
  | .eccCorrected p inst src => Sys2Proof.Machine.execEccCorrected p inst src s
  | .eccUncorrectable p inst src node inp cyc => Sys2Proof.Machine.execEccUncorrectable p inst src node inp cyc s
  | .faultClear p inst => Sys2Proof.Machine.execFaultClear p inst s
  | .faultInject p inst w => Sys2Proof.Machine.execFaultInject p inst w s
  | .pmcSnapshot cyc => Sys2Proof.Machine.execPmcSnapshot cyc s
  | .clearAll cyc => Sys2Proof.Machine.execClearAll cyc s
  | .counterClear p inst c w cyc => Sys2Proof.Machine.execCounterClear p inst c w cyc s
  | .counterRead p inst c => Sys2Proof.Machine.execCounterRead p inst c s
  | .archiveRead block word => Sys2Proof.Machine.execArchiveRead block word s
  | .seaRxgRead p => Sys2Proof.Machine.execSeaRxgRead p s
  | .cdrLockLoss g => Sys2Proof.Machine.execCdrLockLoss g s
  | .losClear g => Sys2Proof.Machine.execLosClear g s
  | .ppsOutPulseEnd cyc => Sys2Proof.Machine.execPpsOutPulseEnd cyc s
  | .pairOpAckTimeout => Sys2Proof.Machine.execPairOpAckTimeout s
  | .selfTestComplete => Sys2Proof.Machine.execSelfTestComplete s
  | .sramZeroingDone => Sys2Proof.Machine.execSramZeroingDone s
  | .brownoutExit => Sys2Proof.Machine.execBrownoutExit s
  | .coldGuardEntry => Sys2Proof.Machine.execColdGuardEntry s
  | .emberLoss => Sys2Proof.Machine.execEmberLoss s
  | .powerFailWarning => Sys2Proof.Machine.execPowerFailWarning s
  | .quenchSweepDone => Sys2Proof.Machine.execQuenchSweepDone s
  | .quenchComplete => Sys2Proof.Machine.execQuenchComplete s
  | .agingEdge => Sys2Proof.Machine.execAgingEdge s
  | .fwdCmdComplete => Sys2Proof.Machine.execFwdCmdComplete s
  | .entropyHealthFail => Sys2Proof.Machine.execEntropyHealthFail s
  | .flushEnd => Sys2Proof.Machine.execFlushEnd s
  | .vaultCommitDone => Sys2Proof.Machine.execVaultCommitDone s
  | .scrubTimer => Sys2Proof.Machine.execScrubTimer s
  | .otpDone => Sys2Proof.Machine.execOtpDone s
  | .cxlLinkDown => Sys2Proof.Machine.execCxlLinkDown s
  | .reinitDone => Sys2Proof.Machine.execReinitDone s
  | .mirrorStale => Sys2Proof.Machine.execMirrorStale s
  | .partnerSyncLost => Sys2Proof.Machine.execPartnerSyncLost s
  | .handoverRelease => Sys2Proof.Machine.execHandoverRelease s
  | .partnerFailure => Sys2Proof.Machine.execPartnerFailure s
  | .takeover => Sys2Proof.Machine.execTakeover s
  | .takeoverComplete => Sys2Proof.Machine.execTakeoverComplete s
  | .claimAgeExpiry => Sys2Proof.Machine.execClaimAgeExpiry s
  | .standbyKat => Sys2Proof.Machine.execStandbyKat s
  | .tamperWindowEnd => Sys2Proof.Machine.execTamperWindowEnd s
  | .quenchButton => Sys2Proof.Machine.execQuenchButton s
  | .tokenPlug => Sys2Proof.Machine.execTokenPlug s
  | .tokenUnplug => Sys2Proof.Machine.execTokenUnplug s
  | .officerVerifyDone => Sys2Proof.Machine.execOfficerVerifyDone s
  | .officerResponseTimeout => Sys2Proof.Machine.execOfficerResponseTimeout s
  | .officerSessionTimeout => Sys2Proof.Machine.execOfficerSessionTimeout s
  | .brtcRead => Sys2Proof.Machine.execBrtcRead s
  | .ledRefresh => Sys2Proof.Machine.execLedRefresh s
  | .fltClear => Sys2Proof.Machine.execFltClear s
  | .freeze => Sys2Proof.Machine.execFreeze s
  | .unfreeze => Sys2Proof.Machine.execUnfreeze s
  | .freezeTimeout => Sys2Proof.Machine.execFreezeTimeout s
  | .flush => Sys2Proof.Machine.execFlush s
  | .flushDone => Sys2Proof.Machine.execFlushDone s
  | .recordFetch => Sys2Proof.Machine.execRecordFetch s
  | .periodicSnapshot => Sys2Proof.Machine.execPeriodicSnapshot s
  | .attestTimeout => Sys2Proof.Machine.execAttestTimeout s

end Sys2Proof.Machine
end

