-- ==== Sys2Proof/WellFormed.lean ====
section
/-! DEFINITION. Which commands can be given at all: those whose operands name something that the spec has. What a
command does is for the machine. -/

namespace Sys2Proof

/-- Whether a write lands in a page that exists (R481 to R484). -/
def targetExists : Machine.Target → Bool
  | .page p i _ => decide (i.val < pageCount p)
  | .slice _ _ => true
  | .msix off => decide (off.val < 0x8000)

/-- A well-formed command: its page instance exists, and its byte strings have the lengths of their formats (R237,
R344, R374, R440, R105). -/
def Instr.wellFormed : Instr → Bool
  | .tickEdge _ => true
  | .registerWrite t _ _ => targetExists t
  | .badAccess _ _ _ => true
  | .tickRead _ => true
  | .hold _ => true
  | .holdRelease _ => true
  | .commit _ _ => true
  | .gopSnapshot _ _ => true
  | .barrier _ _ => true
  | .quenchAsn _ _ => true
  | .modeReqRun _ => true
  | .modeReqOfficer _ => true
  | .modeReqSelfTest _ => true
  | .modeReqKindling _ => true
  | .warmReset _ _ => true
  | .hostReset _ _ => true
  | .coldReset _ => true
  | .resetRelease _ _ _ => true
  | .bootComplete a b => decide (a.words.length ≤ 2048 ∧ b.words.length ≤ 2048)
  | .bootRetry _ => true
  | .pageReady p i => decide (i.val < pageCount p)
  | .railBelowInhibit _ => true
  | .railsUp _ => true
  | .quench _ _ => true
  | .laneEnable _ _ _ => true
  | .laneDisable _ _ _ => true
  | .laneStepUp _ _ _ => true
  | .laneStepDown _ _ _ => true
  | .cmisAgreed _ _ => true
  | .cdrLock _ => true
  | .lockTimeout _ => true
  | .trainingDone _ => true
  | .trainingTimeout _ => true
  | .checkDone _ => true
  | .los _ => true
  | .slipFrameReceived _ _ => true
  | .ffeCoeffRequest _ _ _ => true
  | .ffeWrite _ _ _ => true
  | .slip _ => true
  | .slipPeriodWrite _ _ => true
  | .prbsClear _ _ _ => true
  | .prbsLock _ => true
  | .prbsLockLoss _ => true
  | .laneErrRead _ => true
  | .loopbackNearEnd _ _ _ => true
  | .loopbackFarEnd _ _ _ => true
  | .loopbackOff _ _ _ => true
  | .moduleUnplug _ => true
  | .modulePlug _ => true
  | .moduleResetRelease _ => true
  | .moduleRead _ _ _ _ => true
  | .moduleWrite _ _ _ _ => true
  | .moduleCmdDone _ _ => true
  | .moduleInterrupt _ _ => true
  | .portEnable _ _ _ => true
  | .portDisable _ _ _ => true
  | .portUp _ => true
  | .portFlush _ => true
  | .authWindowEnd _ => true
  | .frameReceived f _ => decide (f.span.val ≤ f.age.val)
  | .tagVerdict _ _ _ => true
  | .frameSend _ _ _ => true
  | .otnCfgWrite _ _ _ => true
  | .otnFrameReceived _ f _ _ => decide (f.bip.length = 7 ∧ f.opuOh.length % 8 = 0)
  | .lofDeclared _ => true
  | .lomDeclared _ => true
  | .otnGroupReceived _ => true
  | .otnGroupVerdict _ => true
  | .otnFrameTransmit _ _ _ => true
  | .fwdSearch _ => true
  | .fwdNext _ => true
  | .fwdInsert _ => true
  | .fwdDelete _ => true
  | .flushByPort _ _ _ => true
  | .domainRead _ => true
  | .domainWrite _ => true
  | .fwdUnknownOp _ => true
  | .lrcRehash _ _ => true
  | .lrcRehashDone _ => true
  | .lrcFlush _ _ => true
  | .asnRead _ _ => true
  | .writeCfg _ _ => true
  | .start _ _ => true
  | .stop _ _ => true
  | .kill _ _ => true
  | .restart _ _ => true
  | .release _ _ => true
  | .asnUnknownOp _ _ => true
  | .drainEnd _ => true
  | .overlapEnd _ => true
  | .autoRecover _ => true
  | .keyPhaseSwitch _ => true
  | .chmCfgWrite _ _ _ => true
  | .stoveTest _ _ _ => true
  | .stoveRestore _ _ _ => true
  | .katDone _ _ _ => true
  | .twinMismatch _ _ _ _ _ => true
  | .microcodeError _ _ => true
  | .drbgReseed _ => true
  | .sqDoorbell _ _ _ => true
  | .cqDoorbell _ _ => true
  | .eqDoorbell _ _ => true
  | .descriptorFetch _ descs => decide (descs.length ≤ 8) && descs.all (fun d => decide (d.length = 64))
  | .job _ _ _ _ => true
  | .fence _ _ _ => true
  | .nop _ _ _ => true
  | .pieceDispatch _ _ _ => true
  | .jobComplete _ _ _ _ _ => true
  | .coalesceTimer _ => true
  | .jobWaitAlarm _ _ => true
  | .bind _ => true
  | .sliceReset _ => true
  | .sliceRemove _ => true
  | .sliceResetDone _ => true
  | .sliceResetTimeout _ => true
  | .dirtyRead _ => true
  | .dirtyCopyDone _ => true
  | .sliceCounterRead _ => true
  | .queueFlush _ => true
  | .spillMove _ => true
  | .spillFetch _ => true
  | .fragmentReceived _ _ _ _ _ payload _ => decide (payload.length ≤ 240)
  | .ackReceived _ _ _ _ _ => true
  | .ackSend _ => true
  | .fragmentRetransmit _ _ => true
  | .fragmentRetriesExhausted _ _ => true
  | .messageTimeout _ => true
  | .offer _ => true
  | .answer _ => true
  | .proof _ => true
  | .confirm _ => true
  | .rollPropose _ => true
  | .rollReady _ => true
  | .rollDone _ => true
  | .rekeyRequest _ => true
  | .rekeyResponse _ => true
  | .abort _ => true
  | .keepalive _ => true
  | .latticeOpDone _ _ => true
  | .keyDeriveDone _ => true
  | .phase0Install _ => true
  | .sessionLive _ => true
  | .stateTimeout _ _ => true
  | .holdoffEnd _ => true
  | .contextFreed _ => true
  | .keepaliveTimer _ => true
  | .peerSilent _ => true
  | .rekeyTimer _ => true
  | .reauthTimer _ => true
  | .rollTimeout _ => true
  | .rekeyTimeout _ => true
  | .doneMissing _ => true
  | .linkEnable _ _ _ => true
  | .linkDisable _ _ => true
  | .linkStart _ => true
  | .linkAbort _ => true
  | .linkRekey _ => true
  | .linkReauth _ => true
  | .clearHoldoff _ => true
  | .linkRoll _ => true
  | .generate _ _ => true
  | .derive _ _ _ => true
  | .importWrapped _ _ _ => true
  | .exportWrapped _ _ _ => true
  | .delete _ _ => true
  | .attest _ _ => true
  | .readCert _ => true
  | .kcv _ _ => true
  | .esRestart _ _ => true
  | .scrub _ => true
  | .identityGen _ _ => true
  | .importSlot _ _ _ data _ => decide (data.length = 32 ∨ data.length = 64)
  | .kvtUnknownOp _ => true
  | .useReservation _ => true
  | .otpAdvance _ _ _ => true
  | .regionEnable _ _ => true
  | .regionDisable _ _ => true
  | .regionReady _ => true
  | .sealedLineRead _ _ _ => true
  | .sealedLineWrite _ _ _ data _ => decide (data.length = 64)
  | .sweepStart _ => true
  | .sweepDone _ => true
  | .cxlLinkTrained _ _ _ _ => true
  | .mediaEventPoll _ => true
  | .reinit _ _ => true
  | .hello _ => true
  | .mirrorFrameVerified _ _ => true
  | .handover _ => true
  | .resync _ => true
  | .claimFrame _ _ => true
  | .standbyScrub errs => errs.all (fun e => decide (e.inst.val < pageCount e.page))
  | .idleLaneWindow _ _ => true
  | .incWrite _ _ => true
  | .timeStep _ _ => true
  | .timeRead _ => true
  | .edgeTimeRead _ => true
  | .ppsOut _ => true
  | .ppsIn _ _ _ => true
  | .ppsInRead _ => true
  | .tamperFire _ _ => true
  | .tamperTest _ _ => true
  | .tamperTestEnd _ => true
  | .officerHello _ => true
  | .officerResponse _ => true
  | .vault _ _ => true
  | .certWrite _ => true
  | .certRead _ => true
  | .ack _ => true
  | .clearFlags _ => true
  | .note _ => true
  | .setBrtc _ => true
  | .unlockCfg _ => true
  | .endSession _ => true
  | .eccCorrected p i _ => decide (i.val < pageCount p)
  | .eccUncorrectable p i _ _ _ _ => decide (i.val < pageCount p)
  | .faultClear p i => decide (i.val < pageCount p)
  | .faultInject p i _ => decide (i.val < pageCount p)
  | .pmcSnapshot _ => true
  | .clearAll _ => true
  | .counterClear p i _ _ _ => decide (i.val < pageCount p)
  | .counterRead p i _ => decide (i.val < pageCount p)
  | .archiveRead _ _ => true
  | .seaRxgRead _ => true
  | .cdrLockLoss _ => true
  | .losClear _ => true
  | .ppsOutPulseEnd _ => true
  | .pairOpAckTimeout => true
  | .selfTestComplete => true
  | .sramZeroingDone => true
  | .brownoutExit => true
  | .coldGuardEntry => true
  | .emberLoss => true
  | .powerFailWarning => true
  | .quenchSweepDone => true
  | .quenchComplete => true
  | .agingEdge => true
  | .fwdCmdComplete => true
  | .entropyHealthFail => true
  | .flushEnd => true
  | .vaultCommitDone => true
  | .scrubTimer => true
  | .otpDone => true
  | .cxlLinkDown => true
  | .reinitDone => true
  | .mirrorStale => true
  | .partnerSyncLost => true
  | .handoverRelease => true
  | .partnerFailure => true
  | .takeover => true
  | .takeoverComplete => true
  | .claimAgeExpiry => true
  | .standbyKat => true
  | .tamperWindowEnd => true
  | .quenchButton => true
  | .tokenPlug => true
  | .tokenUnplug => true
  | .officerVerifyDone => true
  | .officerResponseTimeout => true
  | .officerSessionTimeout => true
  | .brtcRead => true
  | .ledRefresh => true
  | .fltClear => true
  | .freeze => true
  | .unfreeze => true
  | .freezeTimeout => true
  | .flush => true
  | .flushDone => true
  | .recordFetch => true
  | .periodicSnapshot => true
  | .attestTimeout => true

end Sys2Proof
end

