-- ==== Sys2Proof/Safety.lean ====
section
/-! DEFINITION. What a sound state is, and what a command may change, in the terms that claims use: tables in canonical
form, no key material in an association whose state holds none, and the parts of the state one by one. -/

namespace Sys2Proof.Machine

open Sys2Proof

/-- Every entry of an association table is as R153 leaves it: IDLE, DEAD and QUENCHED entries hold no key material,
numbers or receive state. -/
def AsnTable.Settled (t : AsnTable) : Prop := t.base.settled = t.base ∧ ∀ e ∈ t.m, e.2.settled = e.2

/-- The register file in canonical form: keys strictly rising, no word equal to its reset word. -/
def State.regsOk (s : State) : Prop := mwf RegKey.lt resetWord s.regs = true

/-- A sound state. -/
structure State.Inv (s : State) : Prop where
  keys : s.assocs.Settled
  regs : s.regsOk

/-! ### The parts of the state -/

/-- A part of the state: the registers of a page, or one of the other fields of `State`. -/
inductive Part where
  | page (p : Page)
  | tick | cycle | sched | rep | pwr | lanes | ports | otn | assocs | fwd | vault | chims | hearth | kindle | seals | time
  | slices | msix | pair | tamper | officer | cages | regions | reinit | asnBusy | fresh | out
  deriving DecidableEq, Repr

/-- A part of one state is as in another. -/
def Part.same (s t : State) : Part → Prop
  | .page p => ∀ off i o, t.word ⟨p, off, i, o⟩ = s.word ⟨p, off, i, o⟩
  | .tick => t.tick = s.tick
  | .cycle => t.cycle = s.cycle
  | .sched => t.sched = s.sched
  | .rep => t.rep = s.rep
  | .pwr => t.pwr = s.pwr
  | .lanes => t.lanes = s.lanes
  | .ports => t.ports = s.ports
  | .otn => t.otn = s.otn
  | .assocs => t.assocs = s.assocs
  | .fwd => t.fwd = s.fwd
  | .vault => t.vault = s.vault
  | .chims => t.chims = s.chims
  | .hearth => t.hearth = s.hearth
  | .kindle => t.kindle = s.kindle
  | .seals => t.seals = s.seals
  | .time => t.time = s.time
  | .slices => t.slices = s.slices
  | .msix => t.msix = s.msix
  | .pair => t.pair = s.pair
  | .tamper => t.tamper = s.tamper
  | .officer => t.officer = s.officer
  | .cages => t.cages = s.cages
  | .regions => t.regions = s.regions
  | .reinit => t.reinit = s.reinit
  | .asnBusy => t.asnBusy = s.asnBusy
  | .fresh => t.fresh = s.fresh
  | .out => t.out = s.out

/-- A part's bit in a mask of parts. -/
def Part.idx : Part → Nat
  | .tick => 0 | .cycle => 1 | .sched => 2 | .rep => 3 | .pwr => 4 | .lanes => 5 | .ports => 6 | .otn => 7 | .assocs => 8
  | .fwd => 9 | .vault => 10 | .chims => 11 | .hearth => 12 | .kindle => 13 | .seals => 14 | .time => 15 | .slices => 16
  | .msix => 17 | .pair => 18 | .tamper => 19 | .officer => 20 | .cages => 21 | .regions => 22 | .reinit => 23
  | .asnBusy => 24 | .fresh => 25 | .out => 26
  | .page p => 27 + (match p with
    | .dev => 0 | .pwr => 1 | .flt => 2 | .evr => 3 | .pmc => 4 | .tsu => 5 | .kvt => 6 | .kdl => 7 | .tmp => 8 | .ofc => 9
    | .flu => 10 | .cxm => 11 | .hst => 12 | .hrt => 13 | .sch => 14 | .fwd => 15 | .asn => 16 | .mod => 17 | .chm => 18
    | .stv => 19 | .lan => 20 | .prt => 21 | .otf => 22 | .sea => 23 | .lrc => 24 | .slc => 25 | .asnw => 26 | .fwdw => 27)

/-- The mask of a list of parts. -/
def mask : List Part → Nat
  | [] => 0
  | p :: l => 2 ^ p.idx ||| mask l

/-- Every page of the register map. -/
def allPages : List Part :=
  [.page .dev, .page .pwr, .page .flt, .page .evr, .page .pmc, .page .tsu, .page .kvt, .page .kdl, .page .tmp, .page .ofc,
   .page .flu, .page .cxm, .page .hst, .page .hrt, .page .sch, .page .fwd, .page .asn, .page .mod, .page .chm, .page .stv,
   .page .lan, .page .prt, .page .otf, .page .sea, .page .lrc, .page .slc, .page .asnw, .page .fwdw]

/-- What leads from `s` to `t` keeps the queue, a sound state, the log of what left the device and the count of free
values, and changes only parts of the mask `m`. -/
structure Keeps (m : Nat) (s t : State) : Prop where
  frame : ∀ p : Part, m.testBit p.idx = false → p.same s t
  pending : t.pending = s.pending
  keys : s.assocs.Settled → t.assocs.Settled
  regs : s.regsOk → t.regsOk
  fresh : s.fresh ≤ t.fresh
  out : s.out <+: t.out

/-! ### What each command may touch -/

/-- Every part but the pages, the reports, the interrupts, the count of free values and the log of what leaves. -/
def blocks : List Part :=
  [.tick, .cycle, .sched, .pwr, .lanes, .ports, .otn, .assocs, .fwd, .vault, .chims, .hearth, .kindle, .seals, .time,
   .slices, .pair, .tamper, .officer, .cages, .regions, .reinit, .asnBusy]

/-- The parts of the state that a command may change, beside the reports, the pending interrupts and the log of what
leaves the device, which an event of any command may reach (R459, R468, R339). -/
def touches : Instr → List Part
  | .tickEdge .. | .registerWrite .. => blocks ++ .fresh :: allPages
  | .badAccess .. => [.page .dev]
  | .tickRead .. => [.cycle, .page .dev]
  | .hold .. | .holdRelease .. | .commit .. | .gopSnapshot .. | .barrier .. | .quenchAsn .. | .modeReqRun ..
  | .modeReqOfficer .. | .modeReqSelfTest .. | .modeReqKindling .. => [.cycle, .sched, .page .dev]
  | .warmReset .. => blocks ++ allPages
  | .hostReset .. => .cycle :: .sched :: allPages
  | .coldReset .. => blocks ++ allPages
  | .resetRelease .. => [.pwr, .vault, .pair, .fresh, .page .dev, .page .pwr, .page .kvt, .page .flu]
  | .bootComplete .. => [.pwr, .chims, .fresh, .page .dev, .page .chm, .page .stv]
  | .bootRetry .. => [.cycle, .pwr, .page .dev]
  | .pageReady p _ =>
    [.sched, .pwr, .fwd, .vault, .pair, .tamper, .officer, .fresh, .page .dev, .page .kvt, .page .ofc, .page .flu, .page .cxm, .page .stv, .page .lrc, .page p]
  | .railBelowInhibit .. => [.pwr, .pair, .page .dev, .page .pwr, .page .evr, .page .flu]
  | .railsUp .. => blocks ++ allPages
  | .quench .. =>
    [.cycle, .sched, .pwr, .vault, .hearth, .kindle, .seals, .pair, .officer, .regions, .reinit, .page .dev, .page .kvt, .page .flu, .page .cxm]
  | .laneEnable .. | .laneDisable .. => [.cycle, .sched, .lanes, .page .dev]
  | .laneStepUp .. | .laneStepDown .. => [.cycle, .sched, .page .dev, .page .lan]
  | .cmisAgreed .. => [.cycle, .page .dev, .page .lan]
  | .cdrLock .. => [.sched, .page .lan]
  | .lockTimeout .. => [.lanes, .page .lan]
  | .trainingDone .. => [.sched, .lanes]
  | .trainingTimeout .. | .checkDone .. => [.lanes, .page .lan]
  | .los .. => [.page .lan]
  | .slipFrameReceived .. => [.sched, .lanes, .pair, .fresh, .page .lan]
  | .ffeCoeffRequest .. => [.sched, .lanes]
  | .ffeWrite .. => [.cycle, .sched, .page .dev, .page .lan]
  | .slip .. | .slipPeriodWrite .. => [.lanes, .page .dev, .page .lan]
  | .prbsClear .. => [.cycle, .sched, .lanes, .page .dev, .page .lan]
  | .prbsLock .. | .prbsLockLoss .. => [.lanes, .fresh, .page .lan]
  | .laneErrRead .. => [.page .lan]
  | .loopbackNearEnd .. | .loopbackFarEnd .. | .loopbackOff .. => [.cycle, .sched, .page .dev, .page .lan]
  | .moduleUnplug .. => [.lanes, .cages, .page .mod, .page .lan]
  | .modulePlug .. => [.cages, .page .mod]
  | .moduleResetRelease .. => [.lanes, .cages]
  | .moduleRead .. | .moduleWrite .. => [.cages, .page .dev, .page .mod]
  | .moduleCmdDone .. => [.cages, .page .mod]
  | .moduleInterrupt .. => [.page .mod]
  | .portEnable .. | .portDisable .. => [.cycle, .sched, .page .dev, .page .prt]
  | .portUp .. => [.ports, .page .prt]
  | .portFlush .. => [.ports, .hearth]
  | .authWindowEnd .. => [.ports, .page .prt, .page .otf]
  | .frameReceived .. => [.cycle, .sched, .ports, .assocs, .fwd, .chims, .hearth, .pair, .page .lrc]
  | .tagVerdict .. => [.cycle, .ports, .assocs, .fwd, .hearth, .fresh]
  | .frameSend .. => [.cycle, .ports, .hearth, .page .flt]
  | .otnCfgWrite .. => [.cycle, .sched, .page .dev, .page .otf]
  | .otnFrameReceived .. =>
    [.cycle, .sched, .ports, .otn, .assocs, .chims, .hearth, .kindle, .seals, .pair, .fresh, .page .otf, .page .sea]
  | .lofDeclared .. | .lomDeclared .. => [.otn, .page .otf]
  | .otnGroupReceived .. => [.ports, .chims, .hearth, .seals, .page .sea]
  | .otnGroupVerdict .. => [.ports, .hearth, .seals]
  | .otnFrameTransmit .. => [.cycle, .otn, .hearth, .kindle, .fresh, .page .flt, .page .otf]
  | .fwdSearch .. | .fwdNext .. | .fwdInsert .. | .fwdDelete .. | .flushByPort .. | .domainRead .. =>
    [.cycle, .fwd, .page .dev, .page .fwdw]
  | .domainWrite .. => [.cycle, .sched, .fwd, .page .dev, .page .fwdw]
  | .fwdUnknownOp .. => [.cycle, .page .dev, .page .fwdw]
  | .lrcRehash .. => [.cycle, .fwd, .page .dev, .page .lrc]
  | .lrcRehashDone .. => [.fwd, .page .lrc]
  | .lrcFlush .. => [.cycle, .fwd, .page .dev]
  | .asnRead .. | .writeCfg .. | .start .. | .stop .. | .kill .. | .restart .. | .release .. | .asnUnknownOp .. =>
    [.cycle, .sched, .assocs, .asnBusy, .page .dev, .page .asnw]
  | .drainEnd .. => [.assocs]
  | .overlapEnd .. => [.ports, .assocs, .kindle]
  | .autoRecover .. => [.sched, .assocs, .vault, .kindle]
  | .keyPhaseSwitch .. => [.sched, .assocs, .kindle]
  | .chmCfgWrite .. => [.cycle, .sched, .page .dev, .page .chm]
  | .stoveTest .. | .stoveRestore .. => [.cycle, .sched, .page .dev, .page .stv]
  | .katDone .. => [.sched, .chims, .page .flu, .page .stv]
  | .twinMismatch .. => [.chims, .hearth, .seals, .slices, .page .stv]
  | .microcodeError .. => [.chims, .page .flt, .page .stv]
  | .drbgReseed .. => [.vault, .chims, .fresh, .page .kvt, .page .chm, .page .stv]
  | .sqDoorbell .. | .cqDoorbell .. | .eqDoorbell .. => [.page .dev, .page .slc]
  | .descriptorFetch .. => [.slices, .page .slc]
  | .job .. => [.sched, .vault, .slices, .page .hst, .page .slc]
  | .fence .. | .nop .. => [.slices, .page .hst, .page .slc]
  | .pieceDispatch .. => [.chims, .hearth, .slices]
  | .jobComplete .. => [.hearth, .slices, .page .hst, .page .slc]
  | .coalesceTimer .. => [.slices]
  | .jobWaitAlarm .. => [.slices, .page .hst, .page .slc]
  | .bind .. | .sliceReset .. | .sliceRemove .. => [.cycle, .sched, .slices, .page .dev]
  | .sliceResetDone .. => [.hearth, .slices]
  | .sliceResetTimeout .. => [.slices]
  | .dirtyRead .. => [.cycle, .sched, .slices, .page .dev]
  | .dirtyCopyDone .. => [.slices]
  | .sliceCounterRead .. => [.page .slc]
  | .queueFlush .. => [.cycle, .sched, .page .dev]
  | .spillMove .. | .spillFetch .. => [.hearth]
  | .fragmentReceived .. | .ackReceived .. => [.cycle, .ports, .kindle]
  | .ackSend .. | .fragmentRetransmit .. | .fragmentRetriesExhausted .. | .messageTimeout .. => [.ports, .kindle]
  | .offer .. => [.sched, .ports, .vault, .kindle, .fresh]
  | .answer .. => [.ports, .kindle]
  | .proof .. => [.sched, .ports, .vault, .kindle]
  | .confirm .. => [.ports, .kindle]
  | .rollPropose .. => [.ports, .assocs, .kindle]
  | .rollReady .. => [.ports, .kindle]
  | .rollDone .. => [.kindle]
  | .rekeyRequest .. => [.ports, .kindle]
  | .rekeyResponse .. => [.kindle]
  | .abort .. => [.sched, .kindle]
  | .keepalive .. => [.kindle]
  | .latticeOpDone .. =>
    [.sched, .ports, .assocs, .vault, .kindle, .slices, .officer, .fresh, .page .kvt, .page .hst, .page .slc]
  | .keyDeriveDone .. => [.assocs, .kindle]
  | .phase0Install .. => [.sched, .ports, .assocs, .kindle]
  | .sessionLive .. => [.sched, .assocs, .kindle]
  | .stateTimeout .. => [.ports, .kindle]
  | .holdoffEnd .. | .contextFreed .. => [.vault, .kindle, .fresh]
  | .keepaliveTimer .. => [.ports, .kindle]
  | .peerSilent .. => [.vault, .kindle, .fresh]
  | .rekeyTimer .. => [.kindle]
  | .reauthTimer .. => [.vault, .kindle, .fresh]
  | .rollTimeout .. | .rekeyTimeout .. => [.sched, .ports, .assocs, .kindle]
  | .doneMissing .. => [.kindle]
  | .linkEnable .. | .linkDisable .. | .linkStart .. | .linkAbort .. | .linkRekey .. | .linkReauth ..
  | .clearHoldoff .. | .linkRoll .. => [.cycle, .sched, .page .dev]
  | .generate .. | .derive .. | .importWrapped .. | .exportWrapped .. | .delete .. | .attest .. | .readCert ..
  | .kcv .. | .esRestart .. | .scrub .. | .identityGen .. | .importSlot .. | .kvtUnknownOp .. =>
    [.cycle, .sched, .vault, .kindle, .officer, .fresh, .page .dev, .page .kvt]
  | .useReservation .. => [.sched, .vault, .kindle, .officer, .fresh, .page .kvt]
  | .otpAdvance .. => [.cycle, .vault, .page .dev, .page .kvt]
  | .regionEnable .. | .regionDisable .. => [.cycle, .sched, .page .dev, .page .cxm]
  | .regionReady .. => [.regions]
  | .sealedLineRead .. => [.sched, .ports, .kindle, .tamper, .regions, .fresh, .page .cxm]
  | .sealedLineWrite .. => [.sched, .ports, .kindle, .tamper, .regions, .page .cxm]
  | .sweepStart .. => [.vault, .regions, .fresh]
  | .sweepDone .. => [.regions]
  | .cxlLinkTrained .. => [.pwr, .page .cxm]
  | .mediaEventPoll .. => []
  | .reinit .. => [.cycle, .reinit, .page .dev, .page .cxm]
  | .hello .. => [.cycle, .sched, .assocs, .vault, .pair, .fresh, .page .flu]
  | .mirrorFrameVerified .. => [.assocs, .pair, .page .dev, .page .flu]
  | .handover .. | .resync .. => [.cycle, .sched, .page .dev]
  | .claimFrame .. => [.pair, .page .flu]
  | .standbyScrub .. =>
    [.sched, .ports, .vault, .chims, .kindle, .pair, .regions, .page .flt, .page .flu, .page .cxm, .page .stv]
  | .idleLaneWindow .. => [.pair]
  | .incWrite .. | .timeStep .. => [.cycle, .sched, .page .dev]
  | .timeRead .. | .edgeTimeRead .. => [.cycle, .page .tsu]
  | .ppsOut .. => [.cycle, .time, .page .tsu]
  | .ppsIn .. => [.cycle, .time]
  | .ppsInRead .. => [.cycle, .page .tsu]
  | .tamperFire .. => [.tamper]
  | .tamperTest .. => [.tamper, .page .dev, .page .tmp]
  | .tamperTestEnd .. => [.tamper, .page .tmp]
  | .officerHello .. => [.vault, .officer, .fresh]
  | .officerResponse .. => [.officer]
  | .vault .. => [.cycle, .sched, .vault, .kindle, .officer, .fresh, .page .kvt]
  | .certWrite .. => [.vault, .officer]
  | .certRead .. => [.officer]
  | .ack .. => [.pwr, .pair, .tamper, .officer, .page .dev, .page .tmp, .page .flu]
  | .clearFlags .. => [.officer, .page .tmp]
  | .note .. => [.tamper, .officer, .page .tmp]
  | .setBrtc .. => [.tamper, .officer]
  | .unlockCfg .. => [.officer, .page .tmp]
  | .endSession .. => [.officer, .page .ofc]
  | .eccCorrected .. =>
    [.sched, .ports, .vault, .chims, .kindle, .pair, .regions, .page .flt, .page .flu, .page .cxm, .page .stv]
  | .eccUncorrectable .. =>
    [.cycle, .sched, .ports, .vault, .chims, .kindle, .pair, .regions, .page .flt, .page .flu, .page .cxm, .page .stv]
  | .faultClear .. | .faultInject .. => []
  | .pmcSnapshot .. | .clearAll .. => [.cycle, .sched, .page .dev]
  | .counterClear .. => [.cycle, .sched]
  | .counterRead .. => []
  | .archiveRead .. => [.page .dev, .page .pmc]
  | .seaRxgRead .. => [.page .sea]
  | .cdrLockLoss .. | .losClear .. => [.page .lan]
  | .ppsOutPulseEnd .. => [.cycle, .time]
  | .pairOpAckTimeout .. => [.pair, .page .dev]
  | .selfTestComplete .. => [.pwr, .pair, .page .dev, .page .flu]
  | .sramZeroingDone .. => [.pwr]
  | .brownoutExit .. => [.pwr, .pair, .page .dev, .page .pwr, .page .flu]
  | .coldGuardEntry .. => [.pair, .page .dev, .page .pwr, .page .flu]
  | .emberLoss .. => .pwr :: .vault :: .tamper :: allPages
  | .powerFailWarning .. => [.pwr, .page .pwr]
  | .quenchSweepDone .. => [.pwr, .assocs, .page .asn]
  | .quenchComplete .. => [.pwr, .pair, .page .dev, .page .flu]
  | .agingEdge .. => [.fwd]
  | .fwdCmdComplete .. => [.fwd, .fresh, .page .fwdw]
  | .entropyHealthFail .. => [.page .kvt]
  | .flushEnd .. => [.hearth]
  | .vaultCommitDone .. => [.sched, .vault, .kindle, .officer, .fresh, .page .kvt]
  | .scrubTimer .. => [.sched, .vault]
  | .otpDone .. => [.vault, .page .kvt]
  | .cxlLinkDown .. => [.sched, .ports, .kindle, .regions, .page .cxm]
  | .reinitDone .. => [.regions, .reinit, .page .cxm]
  | .mirrorStale .. => [.page .flu]
  | .partnerSyncLost .. => [.assocs, .page .flu]
  | .handoverRelease .. => [.hearth, .kindle, .pair, .page .dev, .page .flu]
  | .partnerFailure .. => [.pair]
  | .takeover .. =>
    [.sched, .assocs, .vault, .kindle, .slices, .pair, .fresh, .page .dev, .page .flu, .page .hst, .page .slc]
  | .takeoverComplete .. | .claimAgeExpiry .. => [.pair, .page .dev, .page .flu]
  | .standbyKat .. => [.chims]
  | .tamperWindowEnd .. =>
    [.sched, .pwr, .vault, .hearth, .kindle, .seals, .pair, .tamper, .officer, .regions, .reinit, .page .dev, .page .kvt, .page .tmp, .page .ofc, .page .flu, .page .cxm]
  | .quenchButton .. => [.tamper]
  | .tokenPlug .. | .tokenUnplug .. => [.officer, .page .ofc]
  | .officerVerifyDone .. => [.sched, .vault, .tamper, .officer, .fresh, .page .ofc]
  | .officerResponseTimeout .. => [.tamper, .officer, .fresh, .page .ofc]
  | .officerSessionTimeout .. => [.officer, .page .ofc]
  | .brtcRead .. => [.page .tmp]
  | .ledRefresh .. => []
  | .fltClear .. | .freeze .. | .unfreeze .. => [.page .dev]
  | .freezeTimeout .. => []
  | .flush .. => [.page .dev]
  | .flushDone .. => [.page .evr]
  | .recordFetch .. => [.page .dev]
  | .periodicSnapshot .. => [.fresh]
  | .attestTimeout .. => [.sched, .vault, .kindle, .officer, .fresh, .page .kvt]

/-! ### What claims say of one command -/

/-- Command `c` runs at `s`: it answers a next state, and `P` holds of it. -/
def Runs (c : Instr) (s : State) (P : State → Prop) : Prop := ∃ t, exec c s = .next t ∧ P t

/-- Every register but those listed reads in `t` as in `s`. -/
def State.regsBut (s t : State) (ks : List RegKey) : Prop := ∀ k : RegKey, k ∉ ks → t.word k = s.word k

/-- In `t`, what `s` has scheduled stands, and the one pending copy of register `k` is `w`, which acts at the edge that a
write in cycle `cyc` reaches and is held while hold is 1 (R16, R17, R21). -/
def State.pends (s t : State) (k : RegKey) (w : Word) (cyc : Cyc) : Prop :=
  t.sched = s.sched.filter (fun e => !e.isCopyOf k) ++
    [{ due := s.edgeFor cyc, held := s.on F.devCommitCtlHold, act := .copy k w }]

/-- In `t`, what `s` has scheduled stands, and `act` is to act after it at the edge that a landing in cycle `cyc`
reaches (R16). -/
def State.plans (s t : State) (act : Act) (cyc : Cyc) : Prop :=
  t.sched = s.sched ++ [{ due := s.edgeFor cyc, held := false, act := act }]

/-- Whether a block register has behaviour of its own when it is written: one whose write asks for something, is checked
and may be refused, or clears a count. Every other register acts field by field (R490). -/
def ownBehaviour (p : Page) (off : Nat) : Bool :=
  match p with
  | .dev => off ∈ [0x120, 0x124, 0x134, 0x138, 0x13C, 0x140, 0x148, 0x160]
  | .pwr => off ∈ [0x108]
  | .flt => off ∈ [0x104, 0x110]
  | .evr => off ∈ [0x104, 0x124, 0x128, 0x12C, 0x134, 0x148]
  | .pmc => off ∈ [0x104, 0x118, 0x120]
  | .tsu => off ∈ [0x104, 0x108, 0x10C]
  | .kvt => off ∈ [0x100, 0x14C]
  | .kdl => off ∈ [0x100, 0x104, 0x140, 0x144, 0x164, 0x16C]
  | .tmp => off ∈ [0x100, 0x120]
  | .cxm => off ∈ [0x108, 0x10C, 0x120]
  | .hst => off ∈ [0x11C]
  | .hrt => off ∈ [0x104, 0x10C, 0x124, 0x128, 0x148]
  | .sch => off ∈ [0x100, 0x10C]
  | .mod => off ∈ [0x104, 0x110]
  | .lan => off ∈ [0x100, 0x108, 0x10C, 0x114, 0x118, 0x120, 0x140]
  | .prt | .otf | .chm => off ∈ [0x100]
  | .stv => off ∈ [0x108]
  | .lrc => off ∈ [0x104]
  | .flu => off = 0x120 || decide (0x400 ≤ off)
  | .ofc | .fwd | .asn | .sea => false
  | .slc | .asnw | .fwdw => true

/-- Whether the page that holds the registers of lane `g` is ready (R52, R59). -/
def State.laneReady (s : State) (g : Nat) : Bool := if isPairLane g then s.ready .flu else s.ready .lan g

/-- What leaves the device between `s` and `t` begins with `o`. -/
def State.sends (s t : State) (o : Out) : Prop := (s.out ++ [o]) <+: t.out

/-- Checks 2 to 5 of R321 let an Ethernet frame of queue `q` into the Hearth, on die. -/
def State.takes (s : State) (q : Nat) : Bool :=
  !(s.port (s.queuePort q)).refusing && s.conforms q && decide (s.occupancy q < s.rd F.hrtQshareShare 0 q) &&
    decide (s.reserveCells + 38 ≤ s.freeCells)

/-- Port `p` passes frame `f` on from its MAC (R93), with no defect of levels 1 to 4 reported (R97). -/
abbrev State.macTakes (s : State) (f : RxFrame) : Prop :=
  s.portOn f.port = true ∧ s.portOtn f.port = false ∧ s.pwr.shed = false ∧ s.rd F.prtStatReported f.port = 0 ∧ f.errMark = false ∧
  fcsGood f.bytes = true ∧ 64 ≤ f.bytes.length ∧ f.bytes.length ≤ s.maxFrame f.port ∧ beAt f.bytes 12 2 ≠ 0x8808

/-- What leaves the device first between `s` and `t`. -/
def State.firstOut (s t : State) : Option Out := t.out[s.out.length]?

/-- An OTN frame that leaves, with its port. -/
def Out.asOtn : Out → Option (Nat × OtnFrame)
  | .otn p f => some (p, f)
  | _ => none

/-- Where the next completion of slice `n` lies, and its 16 bytes (R348). -/
def State.cplAt (s : State) (n : Nat) : Nat :=
  s.rd64 F.slcCqBaseLoBase F.slcCqBaseHiBase n 0 + 16 * ((s.sliceRt n).cqTail % ringSize (s.rd F.slcCqCfgLog2Size n))
def State.cplBytes (s : State) (n q index status outLen gen epoch : Nat) : List Byte :=
  leBytes 2 index ++ [BitVec.ofNat 8 (q + if (s.sliceRt n).cqTail < ringSize (s.rd F.slcCqCfgLog2Size n) then 128 else 0),
    BitVec.ofNat 8 status] ++ leBytes 4 outLen ++ leBytes 2 gen ++ [0, 0] ++ leBytes 4 epoch

/-- The completion queue of slice `n` has moved on by one entry. -/
def State.cplDone (s t : State) (n : Nat) : Prop :=
  (t.sliceRt n).cqTail = ((s.sliceRt n).cqTail + 1) % (2 * ringSize (s.rd F.slcCqCfgLog2Size n)) ∧
  (t.sliceRt n).ringFault = (s.sliceRt n).ringFault

/-- The oldest message of link `k`, `m`, is a control message of `n` bytes that passes the checks of R280 for the current
session, which it leaves as `x` (R273). `rest` are the messages behind it. -/
abbrev State.genuine (s : State) (k : Nat) (m : List Byte) (rest : List (List Byte)) (n : Nat) (x : Session)
    (untagged : Bool := false) : Prop :=
  ((s.modLink k (fun l => { l with inbox := rest })).controlCheck k m n untagged).2 = some (false, x)

/-- A fragment of link `k` as it leaves on an Ethernet port (R92, R233): with its preamble, and the gap after it. -/
def State.onWire (s : State) (k : Nat) (frag : List Byte) : Out :=
  let bs := s.etherFragment k frag
  .frame (s.linkPort k) (List.replicate 7 0x55 ++ [0xD5] ++ bs) (gapAfter (s.port (s.linkPort k)).dic bs.length).1 false

/-- The current session of link `k` has failed with reason `r` (R255, R284): the link holds off without a session, and an
ABORT with the reason has left at once where the link may send and only messages of that session are queued. -/
abbrev State.fails (s t : State) (k r : Nat) : Prop :=
  (t.link k).cur = none ∧ (t.link k).holdUntil = some (s.tick + s.holdoffTicks (s.link k).holdK) ∧
    (s.linkSends k = true → ((s.link k).outQ = [] → (s.link k).frags = []) →
      (s.link k).outQ.all (fun m => (s.link k).cur.any (fun x => decide (m.session = some x.idx))) = true →
      (t.link k).lastReason = r ∧ t.evt F.kdlEvtAbortSent = 1)

/-- The data line and the tag that external memory returns for line `line` of a sealed region: what was last written there,
or what the read meets instead (R374, R380). -/
def State.lineAsRead (u : State) (r line : Nat) (inp : LineIn) : List Byte × List Byte :=
  let held : List Byte × List Byte := nget ([], []) (u.region r).lines line
  ((match inp.data with
    | .other bs => slice bs 0 64
    | _ => held.1),
   (match inp.tag with
    | .other bs => slice bs (8 * (line % 8)) 8
    | _ => held.2))

/-- The Officer Port takes `m` as the token's next message (R437). -/
abbrev State.hears (s : State) (m : OfcMsg) (type : Nat) : Prop :=
  s.ready .ofc = true ∧ s.on F.ofcStatPresent = true ∧ officerCrcOk type m = true ∧ m.seq.val = s.officer.seqIn

/-- The key, IV and AAD under which the token seals a message of a type whose ciphertext has `n` bytes (R437). -/
def State.officerIv (m : OfcMsg) : BitVec 96 := BitVec.ofNat 96 m.seq.val
def State.officerAad (m : OfcMsg) (type n : Nat) : List Byte :=
  [BitVec.ofNat 8 type, 1] ++ beBytes 2 (8 + (n + 16) + 4) ++ beBytes 4 m.seq.val

/-- `m` is a message of `type` sealed under the session key, and `p` is what it carries (R437). -/
def State.carries (s : State) (m : OfcMsg) (type : Nat) (p : List Byte) : Prop :=
  s.hears m type ∧ s.on F.ofcStatSession = true ∧ m.isSealed = true ∧
    ∃ ct, m.body = ct ++ gcmTag (keyOfBytes s.officer.key) (State.officerIv m) (State.officerAad m type ct.length) ct ∧
      p = gcmCrypt (keyOfBytes s.officer.key) (State.officerIv m) ct

/-- The vault command that the body of a VAULT message spells (R302, R439). How its fields lie in the body is uninterpreted. -/
def officerCmd (p : List Byte) : VaultCmd :=
  let f := Config.vaultFields p
  let arg := f.2.2.2.1
  { op := f.1 % 16, slot := f.2.1 % 1024, aux := f.2.2.1 % 1024, officer := true, type := getF arg 0 4
    long := getF arg 4 1 = 1, hostUse := getF arg 5 1 = 1, expires := getF arg 6 1 = 1
    exportable := decide (f.1 % 16 = 12) && decide (getF arg 7 1 = 1), ctxLen := getF arg 8 6
    uses := f.2.2.2.2.1.toNat, data := f.2.2.2.2.2.take 128 }

/-- In `t`, an authentication on the Officer Port has failed (R438, R440): told, counted, and refused with a status that the
manual does not give. At the limit the count restarts and source 21 is met. -/
abbrev State.authFails (s t : State) : Prop :=
  t.evt F.ofcEvtAuthFail = 1 ∧ t.officer.challenged = none ∧ t.officer.response = none ∧ t.officer.dk = [] ∧
    t.rd F.ofcStatSession = s.rd F.ofcStatSession ∧ s.sends t (.officer (officerBytes 4 s.officer.seqOut [s.free 8])) ∧
    if max 1 (s.rd F.ofcLimitFailLimit) ≤ s.rd F.ofcStatFails + 1 then
      t.rd F.ofcStatFails = 0 ∧ t.tamper.active = setBit s.tamper.active 21
    else t.rd F.ofcStatFails = (s.rd F.ofcStatFails + 1) % 256 ∧ t.tamper = s.tamper

/-- In `t`, an officer session has opened on the secret in `ct` (R438). -/
abbrev State.authPasses (s t : State) (ct : List Byte) : Prop :=
  t.rd F.ofcStatSession = 1 ∧ t.rd F.ofcStatFails = 0 ∧ t.evt F.ofcEvtAuthOk = 1 ∧ t.officer.challenged = none ∧
    t.officer.response = none ∧ t.officer.dk = [] ∧ t.officer.lastMsg = s.tick ∧
    t.officer.key = slice (kdf (Config.kemDecaps s.officer.dk ct) "heserok officer" s.officer.nonce 256) 0 32 ∧
    s.sends t (.officer (officerBytes 4 s.officer.seqOut [0]))

/-- In `t`, source `src` has fired into the present window (R425, R428). -/
def State.fired (s t : State) (src : Nat) : Prop :=
  t.tamper.window = s.tamper.window ++ [src] ∧ t.tamper.asserted = s.tamper.asserted ++ [(src, none)] ∧
  t.tamper.active = setBit s.tamper.active src ∧ t.evt F.tmpEvtFired = setBit (s.evt F.tmpEvtFired) src % 2 ^ 23 ∧
  t.tamper.log = s.tamper.log ∧ s.regsBut t []

/-- Source `src` may fire: it is armed and, on the cell, watched there; it is not under test; and it has re-armed since it
last fired (R425, R426, R435). -/
abbrev State.mayFire (s : State) (src : Nat) : Prop :=
  s.srcArmed src = true ∧ (s.mode = 0 → onCell src = true) ∧ (s.tamper.test.all (fun e => decide (e.1 ≠ src))) = true ∧
  s.tamper.asserted.all (fun e => decide (e.1 ≠ src)) = true

/-- A vault command whose slot image `x` is being committed (R295). -/
def VaultCmd.makes (c : VaultCmd) (x : Slot) : VaultCmd := { c with image := some x }

end Sys2Proof.Machine
end

