-- ==== Sys2Proof/Certificates/Slice0/Obligations.lean ====
section
/-! DEFINITION. The statements for the provers, in the order of the specification. Each says in its comment which rules it
formalises. A hypothesis is on the state and the operands alone; what rests on uninterpreted cryptography stands in the
conclusions. -/

open Sys2Proof Sys2Proof.Machine

/-! ### The block as a whole -/

/-- The command at the front of the queue is taken and acts on the state with the rest of the queue. On an empty queue
the block idles, which is the model's choice (log entry 1): the specification's clock is a command of its own. -/
def Obligations.StepTakesTheFront : Prop :=
  (∀ (c : Instr) (s : State), step { s with pending := c :: s.pending } = exec c s) ∧
  (∀ s : State, s.pending = [] → step s = .next s)

/-- The state after reset is sound: the register file is in canonical form, and no entry of the association table
holds keys. -/
def Obligations.ResetIsSound : Prop :=
  State.reset.Inv

/-- R153, and the canonical form of the register file: every step leaves a sound state sound. -/
def Obligations.StepKeepsSound : Prop :=
  ∀ s t : State, s.Inv → step s = .next t → t.Inv

/-- R153, R151, R168: after any step from a sound state, an entry in IDLE, DEAD or QUENCHED holds no key, salt or
valid bit, no numbers and no receive state. -/
def Obligations.KeylessEntriesHoldNothing : Prop :=
  ∀ s t : State, s.Inv → step s = .next t → ∀ a : Nat, ((t.asn a).state = .idle ∨ (t.asn a).state = .dead ∨ (t.asn a).state = .quenched) →
    (t.asn a).ph0.key = 0 ∧ (t.asn a).ph1.key = 0 ∧ (t.asn a).ph0.salt = 0 ∧ (t.asn a).ph1.salt = 0 ∧
    (t.asn a).ph0.valid = false ∧ (t.asn a).ph1.valid = false ∧ (t.asn a).txPhase = false ∧ (t.asn a).nextPn = 0 ∧
    (t.asn a).pnMark = 0 ∧ (t.asn a).claimPending = false ∧ (t.asn a).softHit = false ∧ (t.asn a).overlapAt = none ∧
    (t.asn a).ph0.rxHi = 0 ∧ (t.asn a).ph1.rxHi = 0 ∧ (t.asn a).ph0.rxMap = 0 ∧ (t.asn a).ph1.rxMap = 0

/-- Every command runs: none is refused, and the one fault is that of an access to a line beyond its region's data. A
step takes one command from the queue and adds none; what has left the device is never taken back; the count of free
values never falls. What the rules leave open here is the model's choice: log entries 5 and 44. -/
def Obligations.EveryCommandRuns : Prop :=
  (∀ (c : Instr) (s : State),
    (∃ t, exec c s = .next t) ∨
    (∃ r line user data inp, (c = .sealedLineRead r line inp ∨ c = .sealedLineWrite r line user data inp) ∧
      s.linesOf r ≤ line ∧ exec c s = .fault .noSuchLine)) ∧
  (∀ s t : State, step s = .next t → t.pending = s.pending.tail ∧ s.out <+: t.out ∧ s.fresh ≤ t.fresh)

/-- The frame of every command: a part of the state that `touches` does not list for it is as before, whatever the
operands. Reports, pending interrupts and the log of what leaves may change with any command, for any may raise an
event (R459, R468, R339). What the rules leave open here is the model's choice: log entry 18. -/
def Obligations.FramesHold : Prop :=
  ∀ (c : Instr) (s t : State), exec c s = .next t → ∀ p : Part, p ∉ [Part.rep, .msix, .out] → p ∉ touches c → p.same s t

/-! ### Modes, resets, power and boot (R37 to R57) -/

/-- A mode request that the table of R37 allows now pends for the edge that its write reaches, and writes no register.
-/
def Obligations.ModeRequestsPend : Prop :=
  ∀ (s : State) (cyc : Cyc), s.ready .dev = true →
    (s.mode = 2 → (s.rd F.devBootResult = 1 ∨ s.rd F.devBootResult = 2) → s.ready .kvt = true → s.ready .tmp = true →
      Runs (.modeReqRun cyc) s (fun t => s.pends t (keyOf F.devModeReqTarget) 1 cyc ∧ s.regsBut t [])) ∧
    (s.mode = 2 →
      Runs (.modeReqOfficer cyc) s (fun t => s.pends t (keyOf F.devModeReqTarget) 2 cyc ∧ s.regsBut t [])) ∧
    (s.mode = 2 ∨ s.mode = 3 ∨ s.mode = 5 ∨ s.mode = 6 →
      Runs (.modeReqSelfTest cyc) s (fun t => s.pends t (keyOf F.devModeReqTarget) 3 cyc ∧ s.regsBut t [])) ∧
    (s.mode = 8 ∨ (s.mode = 3 ∧ s.pwr.held = false ∧ s.rd F.tmpDeferDeferred = 0) →
      Runs (.modeReqKindling cyc) s (fun t => s.pends t (keyOf F.devModeReqTarget) 4 cyc ∧ s.regsBut t []))

/-- R38: a request that the table of R37 does not allow from the current mode is refused and sets
DEV_MODE.req_rejected, and so is any request in BROWNOUT, QUENCHING and QUENCHED; SELF-TEST cannot be entered from
ACTIVE or TAKEOVER. -/
def Obligations.ModeRequestsRefused : Prop :=
  ∀ (s : State) (cyc : Cyc) (w : Word), s.ready .dev = true →
    ∀ c ∈ [(Instr.modeReqRun cyc, decide (s.mode = 2 ∧ (s.rd F.devBootResult = 1 ∨ s.rd F.devBootResult = 2) ∧
          s.ready .kvt = true ∧ s.ready .tmp = true)),
        (.modeReqOfficer cyc, decide (s.mode = 2)), (.modeReqSelfTest cyc, decide (s.mode = 2 ∨ s.mode = 3 ∨ s.mode = 5 ∨ s.mode = 6)),
        (.modeReqKindling cyc, decide (s.mode = 8 ∨ (s.mode = 3 ∧ s.pwr.held = false ∧ s.rd F.tmpDeferDeferred = 0))),
        (.registerWrite (.page .dev 0 0x134) w cyc, decide (getF w 0 3 < 5))],
      c.2 = false →
        Runs c.1 s (fun t => t.rd F.devModeReqRejected = 1 ∧ t.mode = s.mode ∧ t.sched = s.sched ∧
          s.regsBut t [keyOf F.devModeReqRejected])

/-- The changes of mode that R37 makes in the cycle of their condition, with prev_mode the mode before (R57). The
image that verifies sets DEV_BOOT and the Stoves' microcode, and a failure has its code (R55, R57); a retry clears a
failure (R56); pages become ready when what they depend on is (R53), and PAGE_READY then shows no cause (R486). What
the rules leave open here is the model's choice: log entries 9, 10, 37 and 52. -/
def Obligations.ModesAndBoot : Prop :=
  (∀ s : State,
    (s.mode = 8 → s.rd F.tmpDeferDeferred = 0 →
      Runs .selfTestComplete s (fun t => t.mode = 2 ∧ t.rd F.devModePrevMode = 8 ∧
        s.regsBut t [keyOf F.devModeMode, keyOf F.fluStatLockHeld])) ∧
    (s.mode = 11 → 16 ≤ s.pwr.releasedTicks → s.rd F.tmpDeferDeferred = 0 →
      Runs .brownoutExit s (fun t => t.mode = s.rd F.devModePrevMode ∧ t.rd F.devModePrevMode = 11 ∧
        t.rd F.pwrStatNvInhibit = 0 ∧
        s.regsBut t [keyOf F.devModeMode, keyOf F.fluStatLockHeld, keyOf F.pwrStatNvInhibit])) ∧
    (s.mode = 9 → s.pwr.quenched = true → s.pwr.sweepFrom = none → (∀ e ∈ s.sched, e.act ≠ .asnQuench) →
      Runs .quenchComplete s (fun t => t.mode = 10 ∧ t.rd F.devModePrevMode = 9 ∧ t.pwr.quenched = false ∧
        s.regsBut t [keyOf F.devModeMode, keyOf F.fluStatLockHeld])) ∧
    (s.mode = 1 → Runs .coldGuardEntry s (fun t => t.mode = 0 ∧ t.rd F.devModePrevMode = 1 ∧ t.rd F.pwrStatRailOk = 32 ∧
        s.regsBut t [keyOf F.devModeMode, keyOf F.fluStatLockHeld, keyOf F.pwrStatRailOk])) ∧
    (∀ flushed : Nat, 2 ≤ s.mode → s.mode ≤ 8 →
      Runs (.railBelowInhibit flushed) s (fun t => t.mode = 11 ∧ t.rd F.devModePrevMode = s.mode ∧
        t.rd F.pwrStatNvInhibit = 1 ∧ t.rd F.pwrEvtBrownouts = min 255 (s.rd F.pwrEvtBrownouts + 1) ∧
        t.pwr.releasedTicks = 0)) ∧
    (∀ (r : ReleaseIn) (esOk side : Bool), s.mode = 1 → r.rails = 31 → r.refStable = true → r.resetN = true → r.perstN = true → r.testEn = false →
      (s.pwr.warm = true → s.pwr.warmFrom + 125 ≤ s.tick) →
      Runs (.resetRelease r esOk side) s (fun t => t.mode = 2 ∧ t.rd F.kvtDrbgEsOk = b2n esOk ∧
        t.rd F.fluStatSide = b2n side ∧ t.rd F.pwrStatRailOk = 31 + 32 * b2n r.vbatOk ∧ t.assocs = s.assocs ∧
        t.tick = s.tick ∧ (∀ k, k.page ≠ .dev → k.page ≠ .kvt → k ≠ keyOf F.fluStatLockHeld → k ≠ keyOf F.fluStatSide →
          k ≠ keyOf F.pwrStatRailOk → t.word k = s.word k)))) ∧
  (∀ s : State,
    (∀ a b : SlotImage, s.mode ≠ 0 → s.mode ≠ 1 → s.rd F.devBootResult = 0 →
      Runs (.bootComplete a b) s (fun t =>
        (∀ n i, s.bootChoice a b = some (n, i) → t.rd F.devBootResult = n ∧ t.rd F.devBootVersion = i.version.val ∧
          ∀ c : ChimneyNo, t.rd F.stvUcodeVersion c = i.microcode.val ∧ t.rd F.stvUcodeWords c = i.words.length % 4096 ∧
            (t.chim c).ucode = i.words) ∧
        (s.bootChoice a b = none →
          t.rd F.devBootResult = imageFailure b s.vault.fwKeyHash (s.rd F.kvtOtpRollback) ∧ t.pwr.spiReleased = true ∧
          s.regsBut t [keyOf F.devBootResult]))) ∧
    (∀ cyc, s.ready .dev = true → 3 ≤ s.rd F.devBootResult → s.rd F.devBootResult ≤ 6 →
      Runs (.bootRetry cyc) s (fun t => t.rd F.devBootResult = 0 ∧ s.regsBut t [keyOf F.devBootResult])) ∧
    (∀ (p : Page) (i : Fin 256), p ∈ [Page.dev, .pwr, .flt, .pmc, .tsu, .hst, .hrt, .sch, .asn, .chm, .lan] →
      s.mode ≠ 0 → s.mode ≠ 1 → i.val < pageCount p → s.ready .tmp = true → s.pwr.sramZeroed = true →
      Runs (.pageReady p i) s (fun t => t.ready p i = true)) ∧
    (s.mode ≠ 0 → Runs .sramZeroingDone s (fun t => t.pwr.sramZeroed = true ∧ s.regsBut t [])) ∧
    (s.mode ≠ 0 → s.mode ≠ 1 →
      Runs .powerFailWarning s (fun t => t.rd F.pwrStatPfw = 1 ∧
        t.rd F.pwrEvtPfwEvents = min 255 (s.rd F.pwrEvtPfwEvents + 1) ∧
        t.pwr.shedDue = (s.pwr.shedDue || s.on F.pwrPfwCtlShed) ∧
        s.regsBut t [keyOf F.pwrStatPfw, keyOf F.pwrEvtPfwEvents])))

/-- What a cold, a warm and a host reset do (R48, R49, R51). Every cold reset leaves each part of the state as it is
right after reset, but for what the Ember domain, MRAM and OTP hold; a warm reset keeps the STK fields and the tick
number as well; a host reset clears the host's registers and the MSI-X table, and has every bound slice step its
generation at the next edge. DEV_RESET_CAUSE tells which. What the rules leave open here is the model's choice: log
entry 20. -/
def Obligations.Resets : Prop :=
  ∀ s : State,
    (∀ cause : ColdCause, s.mode ≠ 0 → s.mode ≠ 9 →
      Runs (.coldReset cause) s (fun t => t.mode = 1 ∧ t.vault = s.vault.afterReset ∧
        t.tamper.log = s.tamper.log ∧ t.tamper.brtc = s.tamper.brtc ∧ t.rep.nv = s.rep.nv ∧
        (∀ p ∈ [Part.tick, .cycle, .sched, .lanes, .ports, .otn, .assocs, .fwd, .chims, .hearth, .kindle, .seals, .time, .slices,
          .msix, .pair, .officer, .cages, .regions, .reinit, .asnBusy], p.same State.reset t) ∧
        t.rd F.devResetCauseTrigger = (match cause with
          | .powerUp => 0
          | .resetN => 1
          | .rail _ => 2) ∧
        t.rd F.devResetCauseKind = (if s.pwr.emberLost then 3 else 0) ∧
        (∀ k d, regDefOf k.page k.off = some d → k ≠ keyOf F.devResetCauseKind → k ≠ keyOf F.pwrStatRailOk →
          (k.page = .kvt → k.off ≠ 0x148) →
          t.word k = mergeF (BitVec.ofNat 32 d.emb) (resetWord k) (s.word k)))) ∧
    (∀ (cause : WarmCause) (cyc : Cyc),
      (cause = .register 0x5A ∧ s.ready .dev = true) ∨
        (cause = .tamper ∧ s.tamper.haltDue = some false ∧ s.on F.tmpCfgHaltReset = true ∧ s.mode ≠ 0 ∧ s.mode ≠ 1) →
      Runs (.warmReset cause cyc) s (fun t => t.mode = 1 ∧ t.tick = s.tick ∧ t.vault = s.vault.afterReset ∧
        t.tamper.log = s.tamper.log ∧ t.tamper.brtc = s.tamper.brtc ∧ t.rep.nv = s.rep.nv ∧
        (∀ p ∈ [Part.sched, .lanes, .ports, .otn, .assocs, .fwd, .chims, .hearth, .kindle, .seals, .time, .slices,
          .msix, .officer, .cages, .regions, .reinit, .asnBusy], p.same State.reset t) ∧
        t.rd F.devResetCauseKind = 1 ∧ t.rd F.devResetCauseTrigger = (if cause = .tamper then 4 else 3) ∧
        (∀ k d, regDefOf k.page k.off = some d → k ≠ keyOf F.devResetCauseKind → k ≠ keyOf F.pwrStatRailOk →
          (k.page = .kvt → k.off ≠ 0x148) →
          t.word k = mergeF (BitVec.ofNat 32 (d.emb ||| d.stk)) (resetWord k) (s.word k)))) ∧
    (∀ (cause : HostCause) (cyc : Cyc), (cause = .flr ∨ cause = .perst ∨ cause = .hot ∨
        (cause = .register 0x5A ∧ s.ready .dev = true)) → s.mode ≠ 0 → s.mode ≠ 1 →
      Runs (.hostReset cause cyc) s (fun t => t.mode = s.mode ∧
        (∀ p ∈ [Part.tick, .lanes, .ports, .otn, .assocs, .fwd, .vault, .chims, .hearth, .kindle, .seals, .time, .slices, .pair,
          .tamper, .officer, .cages, .regions], p.same s t) ∧
        t.msix.table = [] ∧ t.rd F.devResetCauseKind = 2 ∧ t.rd F.devResetCauseTrigger = (match cause with
          | .flr => 5
          | .perst => 6
          | .hot => 7
          | .register _ => 3) ∧ t.ready .hst = false ∧ t.rd (F.pageCause .hst) = 2 ∧
        (∀ k, (k.page = .slc ∨ (k.page = .hst ∧ k ≠ keyOf (F.pageReady .hst))) → t.word k = resetWord k) ∧
        (∀ k, k.page ≠ .slc → k.page ≠ .hst → k ≠ keyOf F.devResetCauseKind → t.word k = s.word k) ∧
        (∀ e ∈ s.slices, e.2.state ≠ 0 → { due := s.tick + 1, held := false, act := .sliceCmd e.1 5 0 } ∈ t.sched)))

/-- Power comes and goes (R37, R40, R48): when main power returns the device is in RESET; when the cell fails while
main power is off, the Ember domain's fields, vault, tamper log and BRTC are gone, while MRAM and OTP stay; when a
main rail fails in the middle of a vault quench, the tamper log records it. R40, R433: a vault quench, whoever starts
it, enters QUENCHING, zeroes the vault's slots, Kint and stocks, the Hearth, the Kindle Exchange state, the seal
blocks and sealed memory, and has the association table quenched at the coming edge; the table's banks are then swept,
and the sweep's end clears quench_busy. In COLD-GUARD the vault alone is zeroed. What the rules leave open here is the
model's choice: log entries 20 and 63. -/
def Obligations.PowerAndQuench : Prop :=
  (∀ s : State,
    (∀ rtc : Nat, s.mode = 0 →
      Runs (.railsUp rtc) s (fun t => t.mode = 1 ∧ t.rd F.devModePrevMode = 0 ∧ t.rd F.pwrStatRailOk = 63 ∧ t.tick = 0 ∧
        t.tamper.brtc = (s.tamper.brtc + 2 * rtc) % 2 ^ 48 ∧ t.vault = s.vault.afterReset ∧
        t.tamper.log = s.tamper.log ∧ t.rep.nv = s.rep.nv)) ∧
    (s.mode = 0 ∨ (s.mode = 1 ∧ bit (s.rd F.pwrStatRailOk) 0 = false) →
      Runs .emberLoss s (fun t => t.vault.slots = [] ∧ t.vault.kint = [] ∧ t.tamper = {} ∧ t.pwr.emberLost = true ∧
        t.vault.cert = s.vault.cert ∧ t.vault.fwKeyHash = s.vault.fwKeyHash ∧ t.rep.nv = s.rep.nv ∧
        (∀ k d, regDefOf k.page k.off = some d →
          t.word k = mergeF (BitVec.ofNat 32 d.emb) (s.word k) (resetWord k)))) ∧
    (∀ i : Fin 5, s.mode = 9 → s.tamper.log.length < 512 →
      Runs (.coldReset (.rail i)) s (fun t => t.mode = 1 ∧ t.rd F.devResetCauseTrigger = 2 ∧
        ∃ src, t.tamper.log = s.tamper.log ++ [logEntry s.tamper.brtc src 16 false 9]))) ∧
  (∀ s : State,
    (∀ cause cyc, (cause = QuenchCause.button ∨ cause = .tamper ∨ (cause = .register 0xC3 ∧ s.ready .dev = true)) →
      (s.mode ≠ 0 → s.mode ≠ 1 →
        Runs (.quench cause cyc) s (fun t => t.mode = 9 ∧ t.vault.slots = [] ∧ t.vault.kint = [] ∧ t.vault.expanded = false ∧
          t.vault.reserving = [] ∧ t.vault.cmd = none ∧ t.vault.officerWaits = [] ∧
          t.hearth.frames = [] ∧ t.kindle = {} ∧ t.seals = [] ∧ t.regions = [] ∧ t.pwr.quenched = true ∧
          { due := s.tick + 1, held := false, act := .asnQuench } ∈ t.sched ∧
          ∀ r : RegionNo, t.rd F.cxmRcfgEnable 0 r = 0)) ∧
      (s.mode = 0 →
        Runs (.quench cause cyc) s (fun t => t.mode = 0 ∧ t.vault.slots = [] ∧ t.vault.kint = [] ∧ t.vault.expanded = false ∧
          t.tamper = s.tamper ∧ s.regsBut t []))) ∧
    (s.pwr.sweepFrom.isSome = true →
      Runs .quenchSweepDone s (fun t => t.pwr.sweepFrom = none ∧ t.rd F.asnStatQuenchBusy = 0)))

/-! ### The tick, registers, reporting (R4, R16 to R34, R452 to R491) -/

/-- TICK_EDGE outside RESET and COLD-GUARD, with no halt due: the tick number advances by one and the new tick starts
at cycle 0 (R4, R32). In a warm reset the number goes on too (R48); in a cold one the tick tree stands (R32). What the
rules leave open here is the model's choice: log entries 20 and 41. -/
def Obligations.TickAdvances : Prop :=
  ∀ (s : State) (e : EdgeIn),
    (s.mode ≠ 0 → s.mode ≠ 1 → s.tamper.haltDue = none → (s.time.started = true ∨ s.pwr.warm = true) →
      Runs (.tickEdge e) s (fun t => t.tick = s.tick + 1 ∧ t.cycle = 0)) ∧
    (s.mode ≠ 0 → s.mode ≠ 1 → s.tamper.haltDue = none → s.time.started = false → s.pwr.warm = false →
      Runs (.tickEdge e) s (fun t => t.tick = 0 ∧ t.cycle = 0)) ∧
    (s.mode = 1 → s.pwr.warm = true → Runs (.tickEdge e) s (fun t => t.tick = s.tick + 1 ∧ t.sched = s.sched ∧ s.regsBut t [])) ∧
    (s.mode = 0 ∨ (s.mode = 1 ∧ s.pwr.warm = false) →
      Runs (.tickEdge e) s (fun t => t.tick = s.tick ∧ t.tamper.brtc = (s.tamper.brtc + 2 * e.rtc) % 2 ^ 48 ∧
        t.sched = s.sched ∧ s.regsBut t []))

/-- R490: a write of a register without behaviour of its own acts bit by bit by the access type of the field: RW bits
take the bit written, W1C bits written with 1 clear, W1S bits written with 1 are set, every other bit stands; and the
RWT bits form the register's pending copy (R17). It holds of a page that is ready, outside STANDBY (R393) and with the
tamper configuration unlocked (R436); the bits of an event register are those that the reporting channels hold. -/
def Obligations.PlainWritesActByField : Prop :=
  ∀ (s : State) (p : Page) (i : Fin 256) (off : Fin 4096) (w : Word) (cyc : Cyc) (d : RegDef),
    ownBehaviour p off = false → i.val < pageCount p → 0x100 ≤ off.val → regDefOf p off.val = some d →
    s.ready p i = true → s.effMode ≠ 5 → s.rd F.tmpCfgCfgLock = 0 →
    (isEvtReg p off.val = false →
      Runs (.registerWrite (.page p i off) w cyc) s (fun t =>
        (∀ b : Fin 32, (t.word (s.keyAt p i off)).getLsbD b =
          if (d.w1s.testBit b && w.getLsbD b) then true
          else if (d.w1c.testBit b && w.getLsbD b) then false
          else if d.rw.testBit b then w.getLsbD b else (s.word (s.keyAt p i off)).getLsbD b) ∧
        s.regsBut t [s.keyAt p i off] ∧
        (d.rwt = 0 → t.sched = s.sched) ∧
        (d.rwt ≠ 0 → s.pends t (s.keyAt p i off) (w &&& BitVec.ofNat 32 d.rwt) cyc))) ∧
    (isEvtReg p off.val = true → s.rep.tally = [] → s.rep.raised = [] →
      Runs (.registerWrite (.page p i off) w cyc) s (fun t =>
        (∀ b : Fin 32, (t.evtWord ⟨p, off, i, 0⟩).getLsbD b =
          if (d.w1s.testBit b && w.getLsbD b) then true
          else if (d.w1c.testBit b && w.getLsbD b) then false
          else if d.rw.testBit b then w.getLsbD b else (s.evtWord ⟨p, off, i, 0⟩).getLsbD b) ∧
        s.regsBut t [] ∧ t.sched = s.sched))

/-- R52: a write to a block register of a page that is not ready is ignored and sets DEV_READY.early_write; and a read
of such a page's block register, here of DEV_TICK_LO, returns 0 and latches nothing. R488: the first bad access is
recorded, later ones change nothing while it stands; a read of no register returns 0, and a refused one is answered as
an unsupported request. Reads that latch: DEV_TICK_LO latches the high half of the tick number (R32); CNT_VAL_LO
returns the shadow and latches its high half with the flags (R473); SLC_CTR_LO returns a shadow where the slice has
permission (R474), else 0. What the rules leave open here is the model's choice: log entries 7 and 22. -/
def Obligations.Accesses : Prop :=
  (∀ (s : State) (p : Page) (i : Fin 256) (off : Fin 4096) (w : Word) (cyc : Cyc),
    p ∉ [Page.asnw, .fwdw, .slc] → i.val < pageCount p → 0x100 ≤ off.val → s.ready p i = false →
    Runs (.registerWrite (.page p i off) w cyc) s (fun t => t.rd F.devReadyEarlyWrite = 1 ∧
      s.regsBut t [keyOf F.devReadyEarlyWrite] ∧ t.sched = s.sched) ∧
    (s.ready .dev = false → Runs (.tickRead cyc) s (fun t => s.sends t (.read [0]) ∧ s.regsBut t []))) ∧
  (∀ (s : State) (off : BitVec 26) (write refused : Bool),
    (s.rd F.devBadaddrValid = 0 →
      Runs (.badAccess off write refused) s (fun t => t.rd F.devBadaddrValid = 1 ∧ t.rd F.devBadaddrOffset = off.toNat ∧
        t.rd F.devBadaddrWrite = b2n write ∧ t.rd F.devBadaddrRefused = b2n refused ∧
        s.regsBut t [keyOf F.devBadaddrValid] ∧
        (write = false → s.sends t (if refused then .unsupported else .read [0])))) ∧
    (s.rd F.devBadaddrValid = 1 → Runs (.badAccess off write refused) s (fun t => s.regsBut t []))) ∧
  (∀ s : State,
    (∀ cyc, s.ready .dev = true →
      Runs (.tickRead cyc) s (fun t => s.sends t (.read [BitVec.ofNat 32 s.tick]) ∧
        t.rd F.devTickHiTickHi = s.tick / 2 ^ 32 % 2 ^ 32 ∧ s.regsBut t [keyOf F.devTickHiTickHi])) ∧
    (∀ (p : Page) (i : Fin 256) (c : Fin 8),
      Runs (.counterRead p i c) s (fun t => s.sends t (.read [BitVec.ofNat 32 (s.ctr p i c).shadow]) ∧
        (∀ p' i' c', (t.ctr p' i' c').shadow = (s.ctr p' i' c').shadow) ∧ s.regsBut t [])) ∧
    (∀ (n : SliceNo) (k : RegKey), s.ready .hst = true → s.rd F.hstSresCounterRead 0 n = 1 →
      counterAt (s.rd F.slcCtrSelOffset n) = some k →
      Runs (.sliceCounterRead n) s (fun t => s.sends t (.read [BitVec.ofNat 32 (mget {} s.rep.ctrs k).shadow]) ∧
        t.rd F.slcCtrHiValueHi n = (mget {} s.rep.ctrs k).high.toNat ∧ s.regsBut t [keyOf F.slcCtrHiValueHi n])) ∧
    (∀ n : SliceNo, s.ready .hst = true → s.rd F.hstSresCounterRead 0 n = 0 →
      Runs (.sliceCounterRead n) s (fun t => s.sends t (.read [0]))))

/-- R21: from the cycle in which hold is written 1 every pending copy is held, and nothing else of the schedule
changes; hold written 0 releases them as though they had landed then; a COMMIT releases them to the edge that it
reaches. R32, R33, R168: the operations of a DEV_GOP write wait for the edge that it reaches and show in
DEV_GOP_STAT.pending; quench_asn without its guard refuses the write as a whole. What the rules leave open here is the
model's choice: log entries 8 and 51. -/
def Obligations.HoldsAndOperations : Prop :=
  (∀ (s : State) (cyc : Cyc), s.ready .dev = true →
    (s.rd F.devCommitCtlHold = 0 →
      Runs (.hold cyc) s (fun t => t.rd F.devCommitCtlHold = 1 ∧ t.sched.map (·.act) = s.sched.map (·.act) ∧
        t.sched.map (·.due) = s.sched.map (·.due) ∧
        (∀ e ∈ t.sched, e.isCopy = true → e.held = true) ∧ (∀ e ∈ s.sched, e.isCopy = false → e ∈ t.sched) ∧
        s.regsBut t [keyOf F.devCommitCtlHold])) ∧
    Runs (.holdRelease cyc) s (fun t => t.rd F.devCommitCtlHold = 0 ∧ t.sched.map (·.act) = s.sched.map (·.act) ∧
      (∀ e ∈ t.sched, e.held = false) ∧ (∀ e ∈ s.sched, e.held = false → e ∈ t.sched) ∧
      (∀ e ∈ s.sched, e.held = true → { e with held := false, due := s.edgeFor cyc } ∈ t.sched) ∧
      s.regsBut t [keyOf F.devCommitCtlHold]) ∧
    (∀ w : Word, getF w 3 1 = 0 ∨ getF w 24 8 = 0xA5 →
      Runs (.commit w cyc) s (fun t => (∀ e ∈ t.sched, e.held = false) ∧
        (∀ e ∈ s.sched, e.held = true → { e with held := false, due := s.edgeFor cyc } ∈ t.sched) ∧
        (∀ e ∈ s.sched, e.held = false → e ∈ t.sched) ∧
        { due := s.edgeFor cyc, act := .gop (getF (w ||| 1) 0 4) (getF w 8 1 = 1) } ∈ t.sched ∧
        t.rd F.devCommitCtlHold = s.rd F.devCommitCtlHold ∧ s.regsBut t [keyOf F.devGopStatPending]))) ∧
  (∀ (s : State) (w : Word) (cyc : Cyc), s.ready .dev = true →
    (∀ c ∈ [(Instr.gopSnapshot w cyc, w ||| 2), (.barrier w cyc, w ||| 4), (.quenchAsn w cyc, w ||| 8)],
      getF w 0 1 = 0 → (getF c.2 3 1 = 0 ∨ getF w 24 8 = 0xA5) →
      Runs c.1 s (fun t => s.plans t (.gop (getF c.2 0 4) (getF w 8 1 = 1)) cyc ∧
        t.rd F.devGopStatPending = s.rd F.devGopStatPending ||| getF c.2 0 4 ∧ s.regsBut t [keyOf F.devGopStatPending])) ∧
    (getF w 24 8 ≠ 0xA5 →
      Runs (.quenchAsn w cyc) s (fun t => t.rd F.devGopStatRejected = 1 ∧ t.sched = s.sched ∧
        s.regsBut t [keyOf F.devGopStatRejected])))

/-- The recorder's commands: FREEZE and UNFREEZE (R463), the freeze's end at the 1,024th edge, FLUSH and FLUSH_DONE
(R464, R465) and EVR_RD (R467). R471, R472: a snapshot or a clear asked for waits for its edge; a snapshot latches
every live count into its shadow once for an edge. R475: PMC_ARCH_SEL reads a word of an archived block. What the
rules leave open here is the model's choice: log entries 24, 25, 43 and 64. -/
def Obligations.RecorderAndCounters : Prop :=
  (∀ s : State,
    (s.ready .evr = true → s.rep.frozenAt = none → Runs .freeze s (fun t => t.rep.frozenAt = some s.tick ∧ s.regsBut t [])) ∧
    (s.ready .evr = true → Runs .unfreeze s (fun t => t.rep.frozenAt = none ∧ s.regsBut t [])) ∧
    (∀ e, s.rep.frozenAt = some e → e + 1024 ≤ s.tick →
      Runs .freezeTimeout s (fun t => t.rep.frozenAt = none ∧ s.regsBut t [])) ∧
    (∀ e, s.rep.frozenAt = some e → s.tick < e + 1024 →
      Runs .freezeTimeout s (fun t => t.rep.frozenAt = some e ∧ s.regsBut t [])) ∧
    (s.ready .evr = true → s.rep.flushing = none →
      Runs .flush s (fun t => ∃ top, t.rep.flushing = some top ∧ ∀ r ∈ s.rep.ring, r.seq ≤ top)) ∧
    (∀ top, s.rep.flushing = some top → s.rep.flushWait = false → s.nvInhibited = false → s.rep.nv = [] →
      s.rep.ring.length ≤ 65536 →
      Runs .flushDone s (fun t => t.rep.flushing = none ∧ t.rep.nv = s.rep.ring.filter (fun r => r.seq ≤ top))) ∧
    (∀ r, s.ready .evr = true →
      s.rep.ring.find? (fun r => decide (r.seq = s.rd F.evrRdSeqLoSeq + 2 ^ 32 * s.rd F.evrRdSeqHiSeq)) = some r →
      Runs .recordFetch s (fun t => t.rep.fetch = { result := 0, place := 0, data := recordBytes r } ∧ s.regsBut t []))) ∧
  (∀ s : State,
    (∀ cyc, s.ready .pmc = true → Runs (.pmcSnapshot cyc) s (fun t => s.plans t .snapshot cyc ∧ s.regsBut t [])) ∧
    (∀ cyc, s.ready .pmc = true → Runs (.clearAll cyc) s (fun t => s.plans t .clearAll cyc ∧ s.regsBut t [])) ∧
    (∀ (p : Page) (i : Fin 256) (c : Fin 8) (w : Word) (cyc : Cyc),
      Runs (.counterClear p i c w cyc) s (fun t => s.regsBut t [] ∧
        t.sched = s.sched.filter (fun e => !e.isCopyOf (keyOf (F.cntSelect p c) i)) ++
          { due := s.edgeFor cyc, held := s.on F.devCommitCtlHold, act := .copy (keyOf (F.cntSelect p c) i) (w &&& 0x37FF) } ::
          (if getF w 15 1 = 1 then [{ due := s.edgeFor cyc, act := .cntClear p i c }] else []))) ∧
    (s.rd F.pmcSnapPeriodLog2 ≠ 0 → s.tick % 2 ^ min 24 (s.rd F.pmcSnapPeriodLog2) = 0 → s.rep.snapEdge ≠ some s.tick →
      Runs .periodicSnapshot s (fun t => t.rep.snapEdge = some s.tick ∧ t.rep.snapCount = s.rep.snapCount + 1 ∧
        s.regsBut t [] ∧ ∀ (p : Page) (i c : Nat), (t.ctr p i c).shadow = (s.ctr p i c).live)) ∧
    (∀ (block : Fin 65536) (word : Fin 8192), s.ready .pmc = true → (∀ e ∈ s.rep.arch.blocks, e.1 ≠ block.val) →
      Runs (.archiveRead block word) s (fun t => t.rep.arch.result = 1 ∧ s.regsBut t [keyOf F.pmcArchSelBlock])) ∧
    (∀ (block : Fin 65536) (word : Fin 8192) (ws : List (BitVec 64)), s.ready .pmc = true →
      s.rep.arch.blocks = [(block.val, ws)] → s.poisoned (s.rd F.pmcArchRegion) (1024 * block + word / 8) = false →
      Runs (.archiveRead block word) s (fun t => t.rep.arch.result = 0 ∧
        t.rep.arch.lo = BitVec.ofNat 32 (ws.getD word 0).toNat ∧
        t.rep.arch.hi = BitVec.ofNat 32 ((ws.getD word 0).toNat / 2 ^ 32) ∧ s.regsBut t [keyOf F.pmcArchSelBlock])))

/-- R452 to R457: a corrected error is counted and latches nothing; an uncorrectable one is the page's first fault;
the latches clear when written; an armed checker waits for its word. What the rules leave open here is the model's
choice: log entry 42. -/
def Obligations.FaultLatches : Prop :=
  ∀ s : State,
    (∀ (p : Page) (i : Fin 256) (src : Fin 1024),
      Runs (.eccCorrected p i src) s (fun t => t.rd F.fltEccCorrected = min 65535 (s.rd F.fltEccCorrected + 1) ∧
        t.evt (F.pageFirstValid p) i = s.evt (F.pageFirstValid p) i ∧ s.regsBut t [keyOf F.fltEccCorrected])) ∧
    (∀ (p : Page) (i : Fin 256) (src : Fin 1024) (node : Fin 16 × Fin 8 × Nat) (inp : LineIn) (cyc : Cyc),
      p ∉ [Page.stv, .kvt, .hrt, .cxm, .flu] → s.evt (F.pageFirstValid p) i = 0 → s.evt F.fltFirstSrcValid = 0 →
      Runs (.eccUncorrectable p i src node inp cyc) s (fun t => t.evt (F.pageFirstValid p) i = 1 ∧
        t.evt (F.pageFirstSrc p) i = 0 ∧ t.evt F.fltFirstSrcValid = 1 ∧
        t.rd F.fltEccUncorrectable = min 65535 (s.rd F.fltEccUncorrectable + 1) ∧
        s.regsBut t [keyOf F.fltEccUncorrectable])) ∧
    (∀ (i : Fin 256) (src : Fin 1024) (node : Fin 16 × Fin 8 × Nat) (inp : LineIn) (cyc : Cyc),
      src.val < 32 → s.evt (F.pageFirstValid .stv) i = 0 →
      Runs (.eccUncorrectable .stv i src node inp cyc) s (fun t => t.evt (F.pageFirstValid .stv) i = 1 ∧
        t.evt (F.pageFirstSrc .stv) i = src.val)) ∧
    (∀ (p : Page) (i : Fin 256),
      Runs (.faultClear p i) s (fun t => t.evtWord (keyOf (F.pageFirstSrc p) i) = 0 ∧ s.regsBut t [])) ∧
    (s.ready .flt = true →
      Runs .fltClear s (fun t => t.evt F.fltFirstSrcValid = 0 ∧ t.evt F.fltFirstPageId = 0 ∧ s.regsBut t [])) ∧
    (∀ (p : Page) (i : Fin 256) (w : Word), getF w 24 8 = 0x96 → (getF w 10 2 = 1 ∨ getF w 10 2 = 2) → s.mode ≠ 9 →
      s.mode ≠ 10 → s.rd F.tmpCfgCfgLock = 0 →
      Runs (.faultInject p i w) s (fun t => (p, i.val, getF w 0 10, getF w 10 2) ∈ t.rep.armed ∧ s.regsBut t []))

/-! ### Lanes, cages and ports (R61 to R101, R444 to R447) -/

/-- LAN_CTRL written with enable 1 or 0 pends for its edge and writes no register (R61, R67): class 3 is stored as 0,
and a class that waited is replaced. A Flue lane keeps class 0 (R61). R67, R68: a step up is accepted as it lands when
every condition of R67 holds, a step down under those of R68, and it then pends for its edge; a write of the rate in
effect asks for nothing. R67, R68: a step that fails a condition does not happen, sets step_rejected with the first
condition that failed in their order, and clears the agreement (R69). R73 to R82: the slip detector, the word
boundary, the PRBS checker and the loopbacks of a lane. What the rules leave open here is the model's choice: log
entries 47, 49 and 50. -/
def Obligations.LaneRequests : Prop :=
  (∀ (s : State) (g : LaneNo) (ctl : BitVec 12) (cyc : Cyc), s.laneReady g = true →
    ∀ c ∈ [(Instr.laneEnable g ctl cyc, 1), (.laneDisable g ctl cyc, 0)],
      Runs c.1 s (fun t => s.regsBut t [] ∧ (t.lane g).classPend = none ∧ (∀ h : LaneNo, h ≠ g → t.lane h = s.lane h) ∧
        (s.sched.filter (fun e => !e.isCopyOf (keyOf F.lanCtrlEnable g))) <+: t.sched ∧
        (t.copyOf (keyOf F.lanCtrlEnable g)).map
            (fun w => (getF w F.lanCtrlEnable.lo 1, getF w F.lanCtrlTxSquelch.lo 1, getF w F.lanCtrlClass.lo 2)) =
          some (c.2, getF (ctl.zeroExtend 32) F.lanCtrlTxSquelch.lo 1,
            if isPairLane g ∨ getF (ctl.zeroExtend 32) F.lanCtrlClass.lo 2 = 3 then 0
            else getF (ctl.zeroExtend 32) F.lanCtrlClass.lo 2))) ∧
  (∀ (s : State) (g : LaneNo) (t : Fin 8) (cyc : Cyc), s.laneReady g = true →
    (s.laneRate g < t.val → nextRung g (s.rd F.lanCtrlClass g) (s.laneRate g) = some t.val → s.laneState g = 4 →
      s.rd F.lanStatAgreed g = 1 → s.rd F.lanLoopMode g = 0 → s.rd F.lanCtrlEnable g = 1 → s.rd F.lanStatLos g = 0 →
      Runs (.laneStepUp g t cyc) s (fun u => s.pends u (keyOf F.lanStepTarget g) (BitVec.ofNat 32 t) cyc ∧ s.regsBut u [])) ∧
    (t.val < s.laneRate g → t.val ∈ ladder g (s.rd F.lanCtrlClass g) → s.rd F.lanLoopMode g = 0 →
      s.rd F.lanCtrlEnable g = 1 →
      Runs (.laneStepDown g t cyc) s (fun u => s.pends u (keyOf F.lanStepTarget g) (BitVec.ofNat 32 t) cyc ∧ s.regsBut u []))) ∧
  (∀ (s : State) (g : LaneNo) (t : Fin 8) (cyc : Cyc), s.laneReady g = true →
    (s.laneRate g < t.val →
      ∀ cause, cause = (if nextRung g (s.rd F.lanCtrlClass g) (s.laneRate g) ≠ some t.val then 1
          else if s.laneState g ≠ 4 then 2 else if s.rd F.lanStatAgreed g ≠ 1 then 3
          else if s.rd F.lanLoopMode g ≠ 0 then 4 else if s.rd F.lanCtrlEnable g ≠ 1 then 5
          else if s.rd F.lanStatLos g = 1 then 6 else 0) → cause ≠ 0 →
        Runs (.laneStepUp g t cyc) s (fun u => u.rd F.lanStepStepRejected g = 1 ∧ u.rd F.lanStepRejectCause g = cause ∧
          u.rd F.lanStatAgreed g = 0 ∧ u.sched = s.sched ∧ u.laneRate g = s.laneRate g ∧
          s.regsBut u [keyOf F.lanStepTarget g, keyOf F.lanStatAgreed g])) ∧
    (t.val < s.laneRate g →
      ∀ cause, cause = (if t.val ∉ ladder g (s.rd F.lanCtrlClass g) then 1
          else if s.rd F.lanLoopMode g ≠ 0 then 4 else if s.rd F.lanCtrlEnable g ≠ 1 then 5 else 0) → cause ≠ 0 →
        Runs (.laneStepDown g t cyc) s (fun u => u.rd F.lanStepStepRejected g = 1 ∧ u.rd F.lanStepRejectCause g = cause ∧
          u.rd F.lanStatAgreed g = 0 ∧ u.sched = s.sched ∧ u.laneRate g = s.laneRate g ∧
          s.regsBut u [keyOf F.lanStepTarget g, keyOf F.lanStatAgreed g]))) ∧
  (∀ (s : State) (g : LaneNo),
    (s.laneReady g = true →
      Runs (.slip g) s (fun t => t.rd F.lanSlipStatPosition g =
          ((s.lane g).slips + 1) % (if 3 ≤ s.laneRate g then 32 else 64) ∧
        t.rd F.lanSlipStatState g = 0 ∧ s.regsBut t [keyOf F.lanSlipStatState g])) ∧
    (∀ period, s.laneReady g = true → g.val < 144 →
      Runs (.slipPeriodWrite g period) s (fun t => t.rd F.lanSlipCfgPeriod g = max 16 period.val ∧
        t.rd F.lanSlipStatState g = 0 ∧ s.regsBut t [keyOf F.lanSlipCfgPeriod g, keyOf F.lanSlipStatState g])) ∧
    (∀ w cyc, s.laneReady g = true →
      Runs (.prbsClear g w cyc) s (fun t => (t.lane g).chk.errors = 0 ∧ (t.lane g).chk.bits = 0 ∧ t.rd F.lanSnrCdrLosses g = 0 ∧
        s.pends t (keyOf F.lanPrbsTxPattern g) ((w ||| 0x100) &&& 0xF7) cyc ∧ s.regsBut t [keyOf F.lanSnrCdrLosses g])) ∧
    (∀ (rx : List Sym) (bs : List Bool) (c : Checker), s.rd F.lanPrbsRxEnable g = 1 ∨ s.laneState g = 3 →
      bs = (s.laneHears g rx []).2 →
      c = Checker.feed (if s.laneState g = 3 then (if 3 ≤ s.laneRate g then 2 else 5) else s.rd F.lanPrbsRxPattern g)
        { (s.lane g).chk with errors := 0, bits := 0, lost := false } bs →
      ∀ cmd ∈ [Instr.prbsLock ⟨g, rx⟩, .prbsLockLoss ⟨g, rx⟩],
        Runs cmd s (fun t => t.rd F.lanPrbsStatLocked g = b2n c.locked ∧
          (t.lane g).chk.errors = min (2 ^ 48 - 1) ((s.lane g).chk.errors + c.errors) ∧
          (t.lane g).chk.bits = min (2 ^ 48 - 1) ((s.lane g).chk.bits + c.bits) ∧
          (c.lost = true → t.rd F.lanPrbsStatLost g = 1 ∧ (s.laneState g = 3 → (t.lane g).lostInCheck = true)) ∧
          (c.lost = false → t.rd F.lanPrbsStatLost g = s.rd F.lanPrbsStatLost g) ∧
          s.regsBut t [keyOf F.lanPrbsStatLocked g])) ∧
    (s.laneReady g = true →
      Runs (.laneErrRead g) s (fun t => s.sends t (.read [BitVec.ofNat 32 (s.lane g).chk.errors]) ∧
        t.rd F.lanErrHiErrHi g = (s.lane g).chk.errors / 2 ^ 32 % 2 ^ 16 ∧
        t.rd F.lanBitsLoBitsLo g = (s.lane g).chk.bits % 2 ^ 32 ∧ t.rd F.lanBitsHiBitsHi g = (s.lane g).chk.bits / 2 ^ 32 % 2 ^ 16 ∧
        s.regsBut t [keyOf F.lanErrHiErrHi g, keyOf F.lanBitsLoBitsLo g, keyOf F.lanBitsHiBitsHi g])) ∧
    (∀ ne cyc, s.laneReady g = true →
      (∀ c ∈ [(Instr.loopbackNearEnd g ne cyc, 1), (.loopbackFarEnd g ne cyc, 2)],
        (s.laneInPort g = false → s.laneState g ∉ [1, 2, 3] →
          Runs c.1 s (fun t => s.pends t (keyOf F.lanLoopMode g) (BitVec.ofNat 32 (c.2 + 4 * b2n ne)) cyc ∧ s.regsBut t [])) ∧
        (s.laneInPort g = true ∨ s.laneState g ∈ [1, 2, 3] →
          Runs c.1 s (fun t => t.rd F.lanLoopLoopRejected g = 1 ∧ t.sched = s.sched ∧
            s.regsBut t [keyOf F.lanLoopLoopRejected g]))) ∧
      Runs (.loopbackOff g ne cyc) s (fun t =>
        s.pends t (keyOf F.lanLoopMode g) (BitVec.ofNat 32 (4 * b2n ne)) cyc ∧ s.regsBut t [])) ∧
    (∀ (rx : List Sym) (bs : List Bool), s.rd F.lanCtrlFraming g = 1 → s.rd F.lanSlipStatState g = 0 → g.val < 144 →
      bs = (s.laneHears g rx []).2 → bs ≠ [] → (slipFrameOf bs).good = true →
      Runs (.slipFrameReceived g rx) s (fun t => t.rd F.lanSlipStatState g = 1 ∧ t.rd F.lanSlipStatGood g = 1 ∧
        (t.lane g).expSeq = ((slipFrameOf bs).seq + 1) % 65536 ∧ s.regsBut t [keyOf F.lanSlipStatState g])) ∧
    (∀ (tap : Fin 4) (up : Bool), isPairLane g = true → s.laneState g = 2 → s.rd F.lanFfeFfeSrc g = 0 → tap ≠ 0 →
      (ffeLegal ((s.lane g).stepTap tap up).pre ((s.lane g).stepTap tap up).main ((s.lane g).stepTap tap up).post = true →
        Runs (.ffeCoeffRequest g tap up) s (fun t => s.regsBut t [] ∧
          t.sched = s.sched ++ [{ due := s.tick + 1, act := .ffeStep g tap up }])) ∧
      (ffeLegal ((s.lane g).stepTap tap up).pre ((s.lane g).stepTap tap up).main ((s.lane g).stepTap tap up).post = false →
        Runs (.ffeCoeffRequest g tap up) s (fun t => s.regsBut t [] ∧ t.sched = s.sched ∧ (t.lane g).ffeReply = 2))))

/-- R64: taps within every limit pend; a LAN_FFE write that breaks any limit is refused as a whole, none of its fields
becomes pending, and ffe_rejected is set. A bit 28 written with 1 clears it first. -/
def Obligations.FfeLimits : Prop :=
  ∀ (s : State) (g : LaneNo) (w : Word) (cyc : Cyc), s.laneReady g = true →
    ∀ pre main post : Int, pre = signed 6 (getF w 0 6) → main = (getF w 8 6 : Int) → post = signed 6 (getF w 16 6) →
      (-16 ≤ pre → pre ≤ 7 → 24 ≤ main → main ≤ 63 → -24 ≤ post → post ≤ 7 → (pre.natAbs : Int) + main + post.natAbs ≤ 63 →
        Runs (.ffeWrite g w cyc) s (fun t => s.pends t (keyOf F.lanFfePre g) w cyc ∧ s.regsBut t [keyOf F.lanFfePre g] ∧
          (getF w 28 1 = 0 → s.regsBut t []))) ∧
      (pre < -16 ∨ 7 < pre ∨ main < 24 ∨ 63 < main ∨ post < -24 ∨ 7 < post ∨ 63 < (pre.natAbs : Int) + main + post.natAbs →
        Runs (.ffeWrite g w cyc) s (fun t => t.rd F.lanFfeFfeRejected g = 1 ∧ t.sched = s.sched ∧
          s.regsBut t [keyOf F.lanFfeFfeRejected g]))

/-- R70, R71, R84: CDR lock, the end of training, the check and the timeouts move a lane through bring-up; LOS and
loss of CDR lock are noted as they happen. What the rules leave open here is the model's choice: log entries 48 and
50. -/
def Obligations.LaneBringUp : Prop :=
  ∀ (s : State) (g : LaneNo),
    (∀ cyc, s.laneReady g = true → g.val < 144 →
      Runs (.cmisAgreed g cyc) s (fun t => t.rd F.lanStatAgreed g = 1 ∧ s.regsBut t [keyOf F.lanStatAgreed g])) ∧
    (s.rd F.lanCtrlEnable g = 1 → s.pwr.shed = false → s.laneState g = 1 →
      Runs (.cdrLock g) s (fun t => t.rd F.lanStatCdrLock g = 1 ∧ s.regsBut t [keyOf F.lanStatCdrLock g] ∧
        t.sched = s.sched ++ [{ due := s.tick + 1, act := .laneTrain g }])) ∧
    (s.laneState g = 1 → (s.lane g).since + 4 ≤ s.tick →
      Runs (.lockTimeout g) s (fun t => t.laneState g = 5 ∧ t.rd F.lanStatFailCause g = 1 ∧
        s.regsBut t [keyOf F.lanStatState g, keyOf F.lanPrbsStatLocked g])) ∧
    (s.laneState g = 2 → (s.lane g).trained = false →
      Runs (.trainingDone g) s (fun t => (t.lane g).trained = true ∧ s.regsBut t [] ∧
        t.sched = s.sched ++ [{ due := s.tick + 1, act := .laneCheck g }])) ∧
    (s.laneState g = 2 → (s.lane g).since + 128 ≤ s.tick →
      Runs (.trainingTimeout g) s (fun t => t.laneState g = 5 ∧ t.rd F.lanStatFailCause g = 2 ∧
        s.regsBut t [keyOf F.lanStatState g, keyOf F.lanPrbsStatLocked g])) ∧
    (s.laneState g = 3 → (s.lane g).since + (s.lane g).chkTicks ≤ s.tick → (s.lane g).chk.locked = true →
      (s.lane g).lostInCheck = false → (isPairLane g = false ∨ (s.lane g).partnerPass = true) →
      (s.laneRate g < 3 → (s.lane g).chk.errors = 0) →
      (3 ≤ s.laneRate g → (s.lane g).chk.errors ≤ (s.lane g).chk.bits / 2 ^ (s.lane g).shift) →
      Runs (.checkDone g) s (fun t => t.laneState g = 4 ∧
        s.regsBut t [keyOf F.lanStatState g, keyOf F.lanPrbsStatLocked g])) ∧
    (s.laneState g = 3 → (s.lane g).since + (s.lane g).chkTicks ≤ s.tick →
      ((s.lane g).chk.locked = false ∨ (s.lane g).lostInCheck = true) →
      Runs (.checkDone g) s (fun t => t.laneState g = 5 ∧ t.rd F.lanStatFailCause g = 3 ∧
        s.regsBut t [keyOf F.lanStatState g, keyOf F.lanPrbsStatLocked g])) ∧
    Runs (.los g) s (fun t => t.rd F.lanStatLos g = 1 ∧ s.regsBut t [keyOf F.lanStatLos g]) ∧
    Runs (.losClear g) s (fun t => t.rd F.lanStatLos g = 0 ∧ s.regsBut t [keyOf F.lanStatLos g]) ∧
    (s.rd F.lanStatCdrLock g = 1 →
      Runs (.cdrLockLoss g) s (fun t => t.rd F.lanStatCdrLock g = 0 ∧
        t.rd F.lanSnrCdrLosses g = min 65535 (s.rd F.lanSnrCdrLosses g + 1) ∧
        s.regsBut t [keyOf F.lanStatCdrLock g, keyOf F.lanSnrCdrLosses g]))

/-- A plug marks the cage and holds its module in reset to P + 2 (R446); an unplug squelches the cage's lanes and
returns them to code 0 (R445); the bus writes bank and page when they differ (R447) and ends its commands with their
result. What the rules leave open here is the model's choice: log entry 26. -/
def Obligations.ModuleCages : Prop :=
  ∀ (s : State) (b : CageNo),
    Runs (.modulePlug b) s (fun t => bit (t.rd F.modPresentPresent) b = true ∧ (t.cage b).resetUntil = some (s.tick + 2) ∧
      (t.cage b).paged = none ∧ t.evt F.modEvtPlug = 1 ∧ s.regsBut t [keyOf F.modPresentPresent] ∧
      ∀ d : CageNo, d ≠ b → t.cage d = s.cage d) ∧
    Runs (.moduleUnplug b) s (fun t => bit (t.rd F.modPresentPresent) b = false ∧ t.evt F.modEvtUnplug = 1 ∧
      ∀ i : Fin 8, t.laneRate (8 * b + i) = 0 ∧ (t.lane (8 * b + i)).modSquelch = true) ∧
    (∀ e, (s.cage b).resetUntil = some e → e ≤ s.tick →
      Runs (.moduleResetRelease b) s (fun t => (t.cage b).resetUntil = none ∧ s.regsBut t [] ∧
        ∀ i : Fin 8, (t.lane (8 * b + i)).modSquelch = false)) ∧
    (∀ low, s.rd F.modStatInt 0 b = 0 →
      Runs (.moduleInterrupt b low) s (fun t => t.rd F.modStatInt 0 b = b2n low ∧ (low = true → t.evt F.modEvtModuleInt = 1) ∧
        s.regsBut t [keyOf F.modStatInt 0 b])) ∧
    (∀ (len : Fin 8) (off page bank : Byte), s.ready .mod = true → s.rd F.modSelBus = b.val → s.rd F.modStatBusy 0 b = 0 →
      bit (s.rd F.modPresentPresent) b = true → (s.cage b).resetUntil = none → (s.cage b).cmd = none →
      Runs (.moduleRead len off page bank) s (fun t => t.rd F.modStatBusy 0 b = 1 ∧ s.regsBut t [keyOf F.modStatBusy 0 b] ∧
        (t.cage b).cmd = some (1, len.val + 1, off.toNat, page.toNat, bank.toNat) ∧
        (s.out ++ (if 0x80 ≤ off.toNat ∧ (s.cage b).paged ≠ some (bank.toNat, page.toNat) then
            [.cmis b true bank.toNat page.toNat 0x7E [BitVec.ofNat 8 bank.toNat, BitVec.ofNat 8 page.toNat]] else []) ++
          [.cmis b false bank.toNat page.toNat off.toNat []]) <+: t.out) ∧
      Runs (.moduleWrite len off page bank) s (fun t => t.rd F.modStatBusy 0 b = 1 ∧ s.regsBut t [keyOf F.modStatBusy 0 b] ∧
        (t.cage b).cmd = some (2, len.val + 1, off.toNat, page.toNat, bank.toNat) ∧
        (s.out ++ (if 0x80 ≤ off.toNat ∧ (s.cage b).paged ≠ some (bank.toNat, page.toNat) then
            [.cmis b true bank.toNat page.toNat 0x7E [BitVec.ofNat 8 bank.toNat, BitVec.ofNat 8 page.toNat]] else []) ++
          [.cmis b true bank.toNat page.toNat off.toNat
            ((leBytes 4 (s.rd F.modDataLoData 0 b) ++ leBytes 4 (s.rd F.modDataHiData 0 b)).take (len.val + 1))]) <+: t.out)) ∧
    (∀ (len : Fin 8) (off page bank : Byte), s.ready .mod = true → s.rd F.modSelBus = b.val → s.rd F.modStatBusy 0 b = 0 →
      (bit (s.rd F.modPresentPresent) b = false ∨ (s.cage b).resetUntil ≠ none) →
      Runs (.moduleRead len off page bank) s (fun t => t.rd F.modStatResult 0 b = 3 ∧ t.cages = s.cages ∧
        s.regsBut t [keyOf F.modStatResult 0 b])) ∧
    (∀ (len off page bank : Nat) (bytes : List Byte), (s.cage b).cmd = some (1, len, off, page, bank) →
      s.tick ≤ (s.cage b).began + 50 → len ≤ 4 →
      Runs (.moduleCmdDone b (some bytes)) s (fun t => t.rd F.modStatBusy 0 b = 0 ∧ t.rd F.modStatResult 0 b = 0 ∧
        (t.cage b).cmd = none ∧ (leBytes 4 (t.rd F.modDataLoData 0 b)).take len = slice bytes 0 len)) ∧
    (∀ cmd reply, (s.cage b).cmd = some cmd → (s.cage b).began + 50 < s.tick →
      Runs (.moduleCmdDone b reply) s (fun t => t.rd F.modStatBusy 0 b = 0 ∧ t.rd F.modStatResult 0 b = 2 ∧
        (t.cage b).cmd = none ∧ t.evt F.modEvtBusErr = 1))

/-- R86, R87, R103: an Ethernet or OTN port of a disabled page that passes the six checks is to form at the edge that
the write reaches (that an OTN port's lanes stand at the listed rate is a reading, log entry 54); a port that is not a
member of another may always be disabled; a write that fails the first check, its lanes, is refused with cause 1. R97,
R98: a port comes up once its edges without a defect that takes it down are enough; a tag-failure window raises
SEAL-AUTH at its threshold and clears it when it saw none. What the rules leave open here is the model's choice: log
entries 26 and 53. -/
def Obligations.Ports : Prop :=
  (∀ (s : State) (p : PortNo) (cfg : BitVec 9) (cyc : Cyc) (w : Word), w = (cfg ||| 1).zeroExtend 32 → s.ready .prt p = true →
    (s.portOn p = false → getF w 1 1 = 0 → p.val % 18 % 2 ^ getF w 2 2 = 0 → p.val % 18 + 2 ^ getF w 2 2 ≤ 18 →
      (∀ i : Fin 8, i.val < 2 ^ getF w 2 2 → s.portOfLane (p + i) = none ∧ s.rd F.lanCtrlClass (p + i) = 0 ∧
        s.rd F.lanLoopMode (p + i) = 0 ∧ p.val + i.val ∉ s.rivalLanes p (s.edgeFor cyc)) →
      (pcsRow (getF w 4 4)).map (·.1) = some (2 ^ getF w 2 2) →
      Runs (.portEnable p cfg cyc) s (fun t => s.pends t (keyOf F.prtCfgEnable p) (w &&& 0x1FF) cyc ∧ s.regsBut t [])) ∧
    (s.portOn p = false → getF w 1 1 = 1 → p.val % 18 % 2 ^ getF w 2 2 = 0 → p.val % 18 + 2 ^ getF w 2 2 ≤ 18 →
      (∀ i : Fin 8, i.val < 2 ^ getF w 2 2 → s.portOfLane (p + i) = none ∧
        some (s.rd F.lanCtrlClass (p + i)) = otnClass (s.rd F.otfCfgMode p) ∧
        s.rd F.lanLoopMode (p + i) = 0 ∧ p.val + i.val ∉ s.rivalLanes p (s.edgeFor cyc)) →
      (∃ r, otnRow (s.rd F.otfCfgMode p) (2 ^ getF w 2 2) = some r ∧ ∀ i : Fin 8, i.val < 2 ^ getF w 2 2 → s.laneRate (p + i) = r) →
      Runs (.portEnable p cfg cyc) s (fun t => s.pends t (keyOf F.prtCfgEnable p) (w &&& 0x1FF) cyc ∧ s.regsBut t [])) ∧
    (s.isMember p = false → (p.val % 18 % 2 ^ getF w 2 2 ≠ 0 ∨ 18 < p.val % 18 + 2 ^ getF w 2 2) →
      Runs (.portEnable p cfg cyc) s (fun t => t.rd F.prtStatCfgRejected p = 1 ∧ t.rd F.prtStatRejectCause p = 1 ∧
        t.sched = s.sched ∧ s.regsBut t [keyOf F.prtStatCfgRejected p])) ∧
    (s.isMember p = false →
      Runs (.portDisable p cfg cyc) s (fun t => s.pends t (keyOf F.prtCfgEnable p) ((cfg &&& 0x1FE).zeroExtend 32) cyc ∧
        s.regsBut t []))) ∧
  (∀ (s : State) (p : PortNo),
    (s.portOn p = true → (s.port p).up = false → s.portOtn p = false →
      max 1 (s.rd F.prtDownUpTicks p) ≤ (s.port p).cleanEdges →
      Runs (.portUp p) s (fun t => (t.port p).up = true ∧ (t.port p).line = portLineOf true (s.rd F.prtStatReported p) ∧ t.rd F.prtStatState p = 3 ∧
        s.regsBut t [keyOf F.prtStatState p])) ∧
    (s.portOn p = true → s.portCipher p = true → (s.port p).authFrom + (s.authLimits p).2 ≤ s.tick →
      Runs (.authWindowEnd p) s (fun t => (t.port p).authCount = 0 ∧ (t.port p).authFrom = s.tick ∧
        ((s.authLimits p).1 ≤ (s.port p).authCount → (t.port p).sealAuth = true) ∧
        ((s.port p).authCount = 0 → (t.port p).sealAuth = false) ∧
        (∀ q : PortNo, q ≠ p → t.port q = s.port q))))

/-! ### Frames (R93, R128, R152 to R165, R205 to R213, R319 to R333) -/

/-- R93: a frame marked in error, with a wrong FCS, below 64 bytes or above the limit is discarded by its MAC; so is
one on a port that is off. Nothing but counts may change. R152, R153, R321: an association that is neither LIVE nor
ROLLING seals nothing, and one at its hard limit assigns no number: the frame is refused, and neither the Hearth nor
the association changes. R210, R211, R212: on a cipher-side port a frame of no sealed, KDL or bypass type is dropped;
one of bad format, or of an SCI that no entry of the port has, reaches no association and no queue. What the rules
leave open here is the model's choice: log entries 21 and 53. -/
def Obligations.FramesDropped : Prop :=
  (∀ (s : State) (f : RxFrame) (cyc : Cyc),
    s.portOn f.port = false ∨ f.errMark = true ∨ fcsGood f.bytes = false ∨ f.bytes.length < 64 ∨
      s.maxFrame f.port < f.bytes.length →
    Runs (.frameReceived f cyc) s (fun t => t.hearth = s.hearth ∧ t.assocs = s.assocs ∧ t.fwd = s.fwd ∧ t.chims = s.chims ∧
      s.regsBut t [])) ∧
  (∀ (s : State) (f : RxFrame) (cyc : Cyc) (v : State), v = (s.at cyc).atFirst f → ∀ a : Nat,
    s.macTakes f → s.portCipher f.port = false → v.bypassFor f.port f.bytes = none →
    v.rd (F.fwdPmapMode.at f.port) = 1 → a = v.rd (F.fwdPmapP2pAssoc.at f.port) →
    ((s.asn a).state ≠ .live ∧ (s.asn a).state ≠ .rolling ∨ s.admitting = false ∨
      (s.asn a).hardLimit ≤ (s.asn a).nextPn) →
    Runs (.frameReceived f cyc) s (fun t => t.hearth = s.hearth ∧ t.assocs = s.assocs ∧ s.regsBut t [])) ∧
  (∀ (s : State) (f : RxFrame) (cyc : Cyc), s.macTakes f → s.portCipher f.port = true →
    (hasEtherType f.bytes macsecType = false → hasEtherType f.bytes (s.rd F.kdlCtlEtype) = false →
      ((s.at cyc).atFirst f).bypassFor f.port f.bytes = none →
      Runs (.frameReceived f cyc) s (fun t => t.hearth = s.hearth ∧ t.assocs = s.assocs ∧
        t.evt F.seaEvtNonsealedDrop f.port = 1 ∧ s.regsBut t [])) ∧
    (hasEtherType f.bytes macsecType = true → secFormatBad (secIn f.bytes) f.bytes = true →
      Runs (.frameReceived f cyc) s (fun t => t.hearth = s.hearth ∧ t.assocs = s.assocs ∧
        t.evt F.seaEvtFormatErr f.port = 1 ∧ s.regsBut t [])) ∧
    (hasEtherType f.bytes macsecType = true → secFormatBad (secIn f.bytes) f.bytes = false →
      s.sciLookup f.port (secIn f.bytes).sci = none →
      Runs (.frameReceived f cyc) s (fun t => t.hearth = s.hearth ∧ t.assocs = s.assocs ∧
        t.evt F.seaEvtUnknownSci f.port = 1 ∧ s.regsBut t [])))

/-- R128, R160, R205, R321: a frame of a clear-side port in point-to-point mode that passes every check takes the next
packet number of its association, is sealed under its transmit phase, and enters the Hearth. The case of a frame whose
PTP contents change is covered by the function that carries them (R421). The tables are those in effect when the
frame's first byte came (R127), and its queue leads to the other side (R129). What the rules leave open here is the
model's choice: log entries 4, 21 and 55. -/
def Obligations.ClearFramesAreSealed : Prop :=
  ∀ (s : State) (f : RxFrame) (cyc : Cyc) (v : State), v = (s.at cyc).atFirst f → ∀ a : Nat,
    s.macTakes f → s.portCipher f.port = false →
    (hasEtherType f.bytes macsecType = true ∨ v.bypassFor f.port f.bytes = none) →
    v.rd (F.fwdPmapMode.at f.port) = 1 → a = v.rd (F.fwdPmapP2pAssoc.at f.port) → s.admitting = true →
    ((s.asn a).state = .live ∨ (s.asn a).state = .rolling) → s.takes (s.asn a).queue = true →
    (s.portOn (s.queuePort (s.asn a).queue) = true → s.portCipher (s.queuePort (s.asn a).queue) = true) →
    0 < (s.chim (f.port / 18)).credit → (s.asn a).nextPn < (s.asn a).pnMark → (s.asn a).nextPn < (s.asn a).hardLimit →
    Runs (.frameReceived f cyc) s (fun t =>
      t.hearth.frames = s.hearth.frames ++
        [{ id := s.hearth.nextId, kind := .sealed, queue := (s.asn a).queue, port := f.port, assoc := a
           phase := (s.asn a).txPhase, epoch := (s.asn a).tx.epoch, pn := (s.asn a).nextPn
           bytes := sealFrame (s.asn a).tx.key (frameIv (s.asn a).tx.initiator (s.asn a).nextPn (s.asn a).tx.salt)
             (s.asn a).txPhase (s.asn a).vlanClear (s.asn a).confOff (s.asn a).nextPn (s.asn a).sciTx
             ((s.at cyc).ptpCarry (v.ptpMode f.port) ((s.at cyc).timeBefore f.age) f.bytes).2
           cells := cellsOf (f.bytes.length + 32), readyAt := s.tick + 2 }] ∧
      (t.asn a).nextPn = (s.asn a).nextPn + 1 ∧ (t.asn a).ph0 = (s.asn a).ph0 ∧ (t.asn a).ph1 = (s.asn a).ph1 ∧
      (∀ b, b ≠ a → t.asn b = s.asn b) ∧ t.fwd = s.fwd ∧ s.regsBut t [])

/-- R208, R211 to R213, R320: a sealed frame of a cipher-side port whose SecTAG names an association that verifies it
enters the Hearth deciphered, with the comparison of its tag; no association changes before the verdict. R165, R181,
R190: a frame whose tag agrees becomes ready to leave and its number enters the receive state of its phase; one whose
tag fails is removed, its cells to be zeroed, and the association stays. What the rules leave open here is the model's
choice: log entries 4, 21 and 55. -/
def Obligations.CipherFramesAreOpened : Prop :=
  (∀ (s : State) (f : RxFrame) (cyc : Cyc) (a pn q : Nat) (ph : Phase),
    s.macTakes f → s.portCipher f.port = true → hasEtherType f.bytes macsecType = true →
    secFormatBad (secIn f.bytes) f.bytes = false → s.sciLookup f.port (secIn f.bytes).sci = some a →
    (secIn f.bytes).clearTag = (s.asn a).vlanClear → ph = (s.asn a).ph (bit (secIn f.bytes).tci 0) →
    recoverPn ph (s.asn a).win (secIn f.bytes).low = some pn → 0 < pn → pn < (s.asn a).hardLimit →
    s.admitting = true → (s.asn a).verifies (bit (secIn f.bytes).tci 0) = true →
    replayed ph (s.asn a).win pn = false → q = s.rd F.hrtQcfgRxQueue 0 (s.asn a).queue → s.takes q = true →
    (s.portOn (s.queuePort q) = true → s.portCipher (s.queuePort q) = false) →
    0 < (s.chim (f.port / 18)).credit →
    Runs (.frameReceived f cyc) s (fun t =>
      t.assocs = s.assocs ∧ s.regsBut t [] ∧ t.fwd = s.fwd ∧
      t.hearth.frames.map (fun x => (x.id, x.kind, x.queue, x.assoc, x.pn, x.passed)) =
        s.hearth.frames.map (fun x => (x.id, x.kind, x.queue, x.assoc, x.pn, x.passed)) ++
          [(s.hearth.nextId, .opened, q, a, pn, false)] ∧
      (t.hearth.frames.getLast?.map (·.bytes)) = some (withFcs (f.bytes.take (secAt f.bytes) ++
        (slice f.bytes (secAt f.bytes + 16) (min (confBytes (s.asn a).confOff) (secureLen (secIn f.bytes) f.bytes))) ++
        gcmCrypt ph.key (frameIv (!ph.initiator) pn ph.salt)
          (((f.bytes.drop (secAt f.bytes + 16)).take (secureLen (secIn f.bytes) f.bytes)).drop
            (min (confBytes (s.asn a).confOff) (secureLen (secIn f.bytes) f.bytes))))))) ∧
  (∀ (s : State) (p : PortNo) (id : Nat) (cyc : Cyc) (f : HFrame),
    s.hearth.frames.find? (fun x => decide (x.id = id ∧ x.port = p.val) && !x.passed) = some f → f.mismatch = false →
    (f.kind = .opened → f.tagOk = true → (s.asn f.assoc).verifies f.phase = true →
      ((s.asn f.assoc).ph f.phase).epoch = f.epoch → replayed ((s.asn f.assoc).ph f.phase) (s.asn f.assoc).win f.pn = false →
      Runs (.tagVerdict p id cyc) s (fun t =>
        t.hearth.frames = s.hearth.frames.map (fun x => if x.id = id then { f with passed := true } else x) ∧
        (t.asn f.assoc).ph f.phase = ((s.asn f.assoc).ph f.phase).received f.pn ∧
        (t.asn f.assoc).ph (!f.phase) = (s.asn f.assoc).ph (!f.phase) ∧
        (∀ b, b ≠ f.assoc → t.asn b = s.asn b) ∧ s.regsBut t [])) ∧
    (f.kind = .opened → f.tagOk = false →
      Runs (.tagVerdict p id cyc) s (fun t =>
        t.hearth.frames = s.hearth.frames.filter (fun x => decide (x.id ≠ id)) ∧ t.assocs = s.assocs ∧ t.fwd = s.fwd ∧
        (f.cells ≠ 0 → t.hearth.zeroing = s.hearth.zeroing ++ [(f.cells, s.tick + 1)]) ∧
        (t.port f.port).authCount = (s.port f.port).authCount + 1)) ∧
    (f.kind ≠ .opened →
      Runs (.tagVerdict p id cyc) s (fun t =>
        t.hearth.frames = s.hearth.frames.map (fun x => if x.id = id then { f with passed := true } else x) ∧
        t.assocs = s.assocs ∧ s.regsBut t [])))

/-- R92, R331, R333: the frame that the scheduler picks for a port leaves, with its preamble and its gap, and returns
its cells; where no frame is picked, or the port may not send, nothing leaves. A frame whose port has come to stand on
the side it was received on is dropped (R129). R97, R327, R329: the flush of a port that has been down long enough
removes every frame bound for it; HRT_CMD.flush waits for its edge; a flush ends when its cells are zero; spilled
frames move to the region and come back. What the rules leave open here is the model's choice: log entries 2, 29, 53
and 58. -/
def Obligations.FramesLeave : Prop :=
  (∀ (s : State) (p : PortNo) (cyc : Cyc),
    (∀ f u bank, s.portSends p = true → (s.at cyc).pickFrame p = some (f, u) → f.cipher ≠ s.portCipher p →
      Runs (.frameSend p bank cyc) s (fun t =>
        t.hearth.frames = s.hearth.frames.filter (fun x => decide (x.id ≠ f.id)) ∧
        t.hearth.groups = s.hearth.groups ∧ t.assocs = s.assocs ∧
        (t.port p).dic = (gapAfter (s.port p).dic f.bytes.length).2 ∧
        ((s.ptpMode p = 0 ∨ f.kind = .sealed) →
          s.sends t (.frame p (List.replicate 7 0x55 ++ [0xD5] ++ f.bytes) (gapAfter (s.port p).dic f.bytes.length).1 bank.isSome)))) ∧
    (∀ f u bank, s.portSends p = true → (s.at cyc).pickFrame p = some (f, u) → f.cipher = s.portCipher p →
      Runs (.frameSend p bank cyc) s (fun t =>
        t.hearth.frames = s.hearth.frames.filter (fun x => decide (x.id ≠ f.id)) ∧ t.assocs = s.assocs ∧
        (f.cells ≠ 0 → (f.cells, s.tick + 1) ∈ t.hearth.zeroing))) ∧
    (∀ bank, s.portSends p = false →
      Runs (.frameSend p bank cyc) s (fun t => t.hearth = s.hearth ∧ s.regsBut t [] ∧ t.assocs = s.assocs))) ∧
  (∀ s : State,
    (∀ p : PortNo, s.portOn p = true → s.portOtn p = false → (s.port p).flushed = false →
      max 1 (s.rd F.prtDownFlushTicks p) ≤ (s.port p).downEdges →
      Runs (.portFlush p) s (fun t => (t.port p).flushed = true ∧ (t.port p).refusing = true ∧
        t.hearth.frames = s.hearth.frames.filter (fun f => decide (s.queuePort f.queue ≠ p)) ∧
        t.hearth.flushes.map (·.left) = s.hearth.flushes.map (·.left) ++
          [((s.hearth.frames.filter (fun f => decide (s.queuePort f.queue = p) && f.here)).map (·.cells)).sum +
          ((s.hearth.groups.filter (fun g => decide (s.queuePort g.queue = p) && g.released)).map (·.cells)).sum] ∧
        s.regsBut t [])) ∧
    (∀ cyc, s.ready .hrt = true →
      Runs (.queueFlush cyc) s (fun t => s.plans t (.queueFlush (s.rd F.hrtQselQueue)) cyc ∧ t.hearth = s.hearth ∧
        s.regsBut t [])) ∧
    (∀ f fs, s.hearth.flushes = f :: fs → f.left = 0 →
      Runs .flushEnd s (fun t => t.hearth = { s.hearth with flushes := fs } ∧ t.evt F.hrtEvtFlushDone = 1 ∧ s.regsBut t [])) ∧
    (∀ f fs, s.hearth.flushes = f :: fs → f.left ≠ 0 →
      Runs .flushEnd s (fun t => t.hearth = s.hearth ∧ s.regsBut t [])) ∧
    (∀ (q : Fin 16384) (f : HFrame),
      s.hearth.frames.find? (fun x => decide (x.queue = q.val) && decide (x.place = .toSpill)) = some f → f.passed = true →
      s.hearth.moved + f.bytes.length ≤ 400000 →
      Runs (.spillMove q) s (fun t => s.regsBut t [] ∧
        t.hearth = { s.hearth with
          frames := s.hearth.frames.map (fun x => if x.id = f.id then { f with place := .region } else x)
          moved := s.hearth.moved + f.bytes.length })) ∧
    (∀ (q : Fin 16384) (f : HFrame),
      s.hearth.frames.find? (fun x => decide (x.queue = q.val) && decide (x.place = .region)) = some f →
      s.occupancy q < s.rd F.hrtQshareShare 0 q → s.hearth.fetched + f.bytes.length ≤ 400000 →
      Runs (.spillFetch q) s (fun t => s.regsBut t [] ∧
        t.hearth = { s.hearth with
          frames := s.hearth.frames.map (fun x => if x.id = f.id then { f with place := .onDie } else x)
          fetched := s.hearth.fetched + f.bytes.length })) ∧
    (∀ p : PortNo, s.ready .sea p = true →
      Runs (.seaRxgRead p) s (fun t => s.sends t (.read [BitVec.ofNat 32 (s.sealRt p).pred]) ∧
        t.rd F.seaRxgHiGroupHi p = (s.sealRt p).pred / 2 ^ 32 % 2 ^ 16 ∧ s.regsBut t [keyOf F.seaRxgHiGroupHi p])))

/-! ### OTN and the forwarding table (R103 to R148, R217 to R225) -/

/-- R103, R111: an OTF_CFG write that keeps the mode, or finds its port disabled, is pending; another is refused as a
whole. OOF and OOM that last lof_ticks edges raise LOF and LOM; the LOF of a FlexO interface is that of its own frame.
R107, R111, R217, R218, R220: a frame with the right FAS of an aligned OTN port in frame and multiframe takes its
place in the group that its multiframe number gives: on the clear side it is enciphered after those before it, on the
cipher side it is gathered as received. What the rules leave open here is the model's choice: log entries 21 and 54. -/
def Obligations.OtnFramesFormGroups : Prop :=
  (∀ (s : State) (p : PortNo),
    (∀ w cyc, s.ready .otf p = true → (getF w 0 3 = s.rd F.otfCfgMode p ∨ s.portOn p = false) →
      Runs (.otnCfgWrite p w cyc) s (fun t => s.pends t (keyOf F.otfCfgMode p) w cyc ∧ s.regsBut t [])) ∧
    (∀ w cyc, s.ready .otf p = true → getF w 0 3 ≠ s.rd F.otfCfgMode p → s.portOn p = true → s.sched = [] →
      Runs (.otnCfgWrite p w cyc) s (fun t => t.rd F.otfStatCfgRejected p = 1 ∧ t.sched = [] ∧
        s.regsBut t [keyOf F.otfStatCfgRejected p])) ∧
    (∀ e, (s.otnp p).oofFrom = some e → e + max 1 (s.rd F.otfFrmLofTicks p) ≤ s.tick →
      isFlexo (s.rd F.otfCfgMode p) = false →
      Runs (.lofDeclared p) s (fun t => (t.otnp p).lof = true ∧ t.rd F.otfStatFrame p = 3 ∧
        s.regsBut t [keyOf F.otfStatFrame p])) ∧
    (∀ e, (s.otnp p).oofFrom = some e → s.tick < e + max 1 (s.rd F.otfFrmLofTicks p) →
      Runs (.lofDeclared p) s (fun t => (t.otnp p).lof = (s.otnp p).lof ∧ s.regsBut t [])) ∧
    (∀ e, (s.otnp p).oomFrom = some e → e + max 1 (s.rd F.otfFrmLofTicks p) ≤ s.tick →
      Runs (.lomDeclared p) s (fun t => (t.otnp p).lom = true ∧ t.rd F.otfStatMframe p = 3 ∧
        s.regsBut t [keyOf F.otfStatMframe p]))) ∧
  (∀ (s : State) (p : PortNo) (f : OtnFrame) (occs : List LaneOcc) (cyc : Cyc) (i was : Nat),
    s.portOn p = true → s.portOtn p = true → s.pwr.shed = false → State.portLos s s p = false →
    ((forL occs (fun o s => s.laneOcc p o) (s.at cyc)).countLocked p).otnLol p = false →
    (s.otnp p).inFrame = true → (s.otnp p).inMf = true → s.fasGood p f = true →
    (s.otnp p).rxMfas = some was → f.mfas.toNat = (was + 1) % 256 →
    i = f.mfas.toNat % 16 → i ≠ 0 → s.rd F.prtStatReported p = 0 → (s.sealRt p).cur.frames.length ≠ 16 →
    (s.portCipher p = false → (s.sealRt p).txCount = i → (s.sealRt p).txSeals = true → (s.sealRt p).txTag ≠ [] → i ≠ 15 →
      Runs (.otnFrameReceived p f occs cyc) s (fun t =>
        (t.otnp p).mfas = f.mfas.toNat ∧ (t.sealRt p).txCount = i + 1 ∧ (t.sealRt p).txTag = (s.sealRt p).txTag ∧
        (t.sealRt p).txCipher = (s.sealRt p).txCipher ++ otnCrypt (s.sealRt p).txKey
          (otnNonce (s.sealRt p).txInit (s.sealRt p).txSalt (s.sealRt p).txNum i) (slice f.payload 0 (s.areaBytes p)) ∧
        t.assocs = s.assocs)) ∧
    (s.portCipher p = true → (s.sealRt p).cur.frames.length = i →
      Runs (.otnFrameReceived p f occs cyc) s (fun t =>
        (t.otnp p).mfas = f.mfas.toNat ∧
        (t.sealRt p).cur.frames.map (fun x => (x.mfas, x.sealOh, x.payload)) =
          (s.sealRt p).cur.frames.map (fun x => (x.mfas, x.sealOh, x.payload)) ++ [(f.mfas, f.sealOh, f.payload)] ∧
        (t.sealRt p).held = (s.sealRt p).held ∧ t.assocs = s.assocs)))

/-- R222, R225: a group of 16 frames is held for its verdict when it is complete, and moves synchronisation on: from
hunt to check where it is good, and in sync to the next number. R190, R219, R225: with the tag bytes of the next
group, a deciphered group of normal frames whose tag agrees is released deciphered, and one whose tag does not is
released as zeros. R105, R106, R114: an OTN port sends the first item of the oldest released group bound for it, and
ODU-AIS where none is there, each with the section overhead of its multiframe place. What the rules leave open here is
the model's choice: log entries 4, 29 and 54. -/
def Obligations.OtnGroups : Prop :=
  (∀ (s : State) (p : PortNo), (s.sealRt p).cur.frames.length = 16 → s.rd F.prtStatReported p = 0 →
    (s.rd F.seaStatSync p = 0 → groupGood (s.sealRt p).cur.frames = true →
      Runs (.otnGroupReceived p) s (fun t => (t.sealRt p).held = some (s.sealRt p).cur ∧ (t.sealRt p).cur = {} ∧
        t.rd F.seaStatSync p = 1 ∧ (t.sealRt p).lastNum = groupNumber (s.sealRt p).cur.frames ∧ (t.sealRt p).goodRun = 1)) ∧
    (s.rd F.seaStatSync p = 2 → groupGood (s.sealRt p).cur.frames = true →
      groupNumber (s.sealRt p).cur.frames = (s.sealRt p).cur.num → (s.sealRt p).adopt = none →
      (s.sealRt p).target ≠ some ((s.sealRt p).cur.num + 1) →
      Runs (.otnGroupReceived p) s (fun t => (t.sealRt p).held = some (s.sealRt p).cur ∧ (t.sealRt p).cur = {} ∧
        t.rd F.seaStatSync p = 2 ∧ t.rd F.seaStatMismatchRun p = 0 ∧ (t.sealRt p).pred = (s.sealRt p).cur.num + 1)) ∧
    (s.rd F.seaStatSync p = 1 → groupGood (s.sealRt p).cur.frames = false →
      Runs (.otnGroupReceived p) s (fun t => (t.sealRt p).held = some (s.sealRt p).cur ∧ t.rd F.seaStatSync p = 0))) ∧
  (∀ (s : State) (p : PortNo) (h : RxGroup) (id : Nat),
    (s.sealRt p).cur.frames.length = 16 → (s.sealRt p).held = some h → h.gid = some id → h.deciphered = true →
    h.mismatch = false → h.verifies = true → s.rd F.seaCfgOtnAssocValid p = 1 → h.acts = List.replicate 16 0 →
    h.frames.length = 16 →
    (otnTag h.key (otnNonce (!h.initiator) h.salt h.num 0) (h.frames.flatMap (fun f => slice f.payload 0 (s.areaBytes p))) =
        (s.sealRt p).cur.frames.map tagByte →
      Runs (.otnGroupVerdict p) s (fun t => (t.sealRt p).held = none ∧ s.regsBut t [] ∧
        ∀ g ∈ t.hearth.groups, g.id = id → g.released = true ∧
          g.items.map (·.payload) = h.frames.zipIdx.map (fun (e : OtnFrame × Nat) =>
            otnCrypt h.key (otnNonce (!h.initiator) h.salt h.num e.2) (slice e.1.payload 0 (s.areaBytes p))))) ∧
    (otnTag h.key (otnNonce (!h.initiator) h.salt h.num 0) (h.frames.flatMap (fun f => slice f.payload 0 (s.areaBytes p))) ≠
        (s.sealRt p).cur.frames.map tagByte →
      Runs (.otnGroupVerdict p) s (fun t => (t.sealRt p).held = none ∧
        (t.port p).authCount = (s.port p).authCount + 1 ∧
        ∀ g ∈ t.hearth.groups, g.id = id → g.released = true ∧
          g.items.map (·.payload) = List.replicate 16 (List.replicate (s.areaBytes p) 0)))) ∧
  (∀ (s : State) (p : PortNo) (cyc : Cyc) (next : Nat), s.driving = true → s.portOn p = true → s.portOtn p = true →
    next = ((s.otnp p).txMfas + 1) % 256 →
    ((∀ g ∈ s.hearth.groups, s.queuePort g.queue ≠ p) → ∀ bank,
      Runs (.otnFrameTransmit p bank cyc) s (fun t => s.sends t (.oduAis p (BitVec.ofNat 8 next) (s.smSent p next 0).2) ∧
        (t.otnp p).txMfas = next ∧ t.hearth = s.hearth ∧ s.regsBut t [keyOf F.otfStatFreeRun p])) ∧
    (∀ (g : HGroup) (x : OtnItem) (rest : List OtnItem),
      s.hearth.groups.find? (fun g => s.queuePort g.queue = p) = some g → g.released = true → g.items = x :: rest →
      (x.ais = true → ∀ bank, Runs (.otnFrameTransmit p bank cyc) s (fun t =>
        s.sends t (.oduAis p (BitVec.ofNat 8 next) (s.smSent p next 0).2) ∧ t.assocs = s.assocs)) ∧
      (x.ais = false →
        Runs (.otnFrameTransmit p none cyc) s (fun t => t.assocs = s.assocs ∧
          ((s.firstOut t).bind Out.asOtn).map (fun e => (e.1, e.2.mfas, e.2.payload, e.2.sm, e.2.sealOh)) =
            some (p.val, x.frame.mfas, x.payload, (s.smSent p x.frame.mfas.toNat (bip8 (x.frame.opuOh ++ x.payload))).2,
              if s.portCipher p = true then slice x.sealOut 0 6 else List.replicate 6 0)))))

/-- R142, R144: a search, walk, insert, delete, flush or domain read of the window captures its operands as they stand
and keeps the window busy until it completes; in STANDBY an insert, delete or flush is refused with result 6 (R393);
an unknown operation does nothing and returns 6. R142: a command of the window that lands while another runs is lost.
R134, R139, R142: a search, insert and delete as they complete: found or not found, stored over the key's own entry or
in a free way, and removed. What the rules leave open here is the model's choice: log entries 2, 27 and 65. -/
def Obligations.WindowCommands : Prop :=
  (∀ (s : State) (cyc : Cyc) (port : Byte) (inclStatic : Bool), s.ready .fwd = true → s.rd F.fwdWinStatBusy = 0 →
    (∀ c ∈ [(Instr.fwdSearch cyc, s.fwdCapture 1), (.fwdNext cyc, s.fwdCapture 2), (.domainRead cyc, s.fwdCapture 6)],
      Runs c.1 s (fun t => t.fwd = { s.fwd with cmd := some c.2 } ∧ t.rd F.fwdWinStatBusy = 1 ∧
        s.regsBut t [keyOf F.fwdWinStatBusy])) ∧
    (s.effMode ≠ 5 →
      ∀ c ∈ [(Instr.fwdInsert cyc, s.fwdCapture 3), (.fwdDelete cyc, s.fwdCapture 4),
        (.flushByPort port inclStatic cyc, { s.fwdCapture 5 with port := port.toNat, inclStatic := inclStatic })],
      Runs c.1 s (fun t => t.fwd = { s.fwd with cmd := some c.2 } ∧ t.rd F.fwdWinStatBusy = 1 ∧
        s.regsBut t [keyOf F.fwdWinStatBusy])) ∧
    (s.effMode = 5 → ∀ c ∈ [Instr.fwdInsert cyc, .fwdDelete cyc, .flushByPort port inclStatic cyc, .domainWrite cyc],
      Runs c s (fun t => t.fwd = s.fwd ∧ t.sched = s.sched ∧ t.rd F.fwdWinStatResult = 6 ∧
        s.regsBut t [keyOf F.fwdWinStatBusy])) ∧
    (s.effMode ≠ 5 → domClash (s.domsAhead (s.fwdCapture 7).domain) (s.fwdCapture 7).domain (s.fwdCapture 7).dom = false →
      s.sched.all (fun e => match e.act with
        | .domWrite d _ => decide (d ≠ (s.fwdCapture 7).domain)
        | _ => true) = true →
      Runs (.domainWrite cyc) s (fun t => t.fwd = { s.fwd with cmd := some (s.fwdCapture 7) } ∧
        s.plans t (.domWrite (s.rd F.fwdWinKey1Domain) (s.fwdCapture 7).dom) cyc ∧ t.rd F.fwdWinStatBusy = 1)) ∧
    Runs (.fwdUnknownOp cyc) s (fun t => t.fwd = s.fwd ∧ t.rd F.fwdWinStatResult = 6 ∧ t.rd F.fwdWinStatBusy = 0 ∧
      s.regsBut t [keyOf F.fwdWinStatBusy])) ∧
  (∀ (s : State) (cyc : Cyc) (port : Byte) (inclStatic : Bool), s.ready .fwd = true → s.rd F.fwdWinStatBusy = 1 →
    ∀ c ∈ [Instr.fwdSearch cyc, .fwdNext cyc, .fwdInsert cyc, .fwdDelete cyc, .flushByPort port inclStatic cyc,
        .domainRead cyc, .domainWrite cyc, .fwdUnknownOp cyc],
      Runs c s (fun t => t.rd F.fwdWinStatCmdLost = 1 ∧ t.fwd = s.fwd ∧ t.sched = s.sched ∧
        s.regsBut t [keyOf F.fwdWinStatCmdLost])) ∧
  (∀ (s : State) (c : FwdCmd), s.fwd.cmd = some c →
    (∀ i e, c.op = 1 → s.fwdFind c.domain c.mac = some i → s.fwdEnt i = some e →
      Runs .fwdCmdComplete s (fun t => t.fwd = { s.fwd with cmd := none } ∧ t.rd F.fwdWinStatBusy = 0 ∧
        t.rd F.fwdWinStatResult = 0 ∧ t.rd F.fwdWinDataAssoc = e.assoc % 2 ^ 17 ∧ t.rd F.fwdWinDataStatic = b2n e.isStatic ∧
        t.rd F.fwdWinDataValid = 1)) ∧
    (c.op = 1 → s.fwdFind c.domain c.mac = none →
      Runs .fwdCmdComplete s (fun t => t.fwd = { s.fwd with cmd := none } ∧ t.rd F.fwdWinStatResult = 1)) ∧
    (∀ i, c.op = 3 → s.fwdFind c.domain c.mac = some i →
      Runs .fwdCmdComplete s (fun t => t.rd F.fwdWinStatResult = 2 ∧ t.rd F.fwdWinStatBusy = 0 ∧ t.fwd.cmd = none ∧
        t.fwdEnt i = some { mac := c.mac, domain := c.domain, assoc := c.assoc, isStatic := c.isStatic } ∧
        ∀ j, j ≠ i → t.fwdEnt j = s.fwdEnt j)) ∧
    (∀ i, c.op = 3 → s.fwdFind c.domain c.mac = none →
      (s.fwdWays c.domain c.mac).find? (fun i => (s.fwdEnt i).isNone) = some i →
      Runs .fwdCmdComplete s (fun t => t.rd F.fwdWinStatResult = 0 ∧ t.fwd.cmd = none ∧
        t.fwdEnt i = some { mac := c.mac, domain := c.domain, assoc := c.assoc, isStatic := c.isStatic } ∧
        ∀ j, j ≠ i → t.fwdEnt j = s.fwdEnt j)) ∧
    (∀ i, c.op = 4 → s.fwdFind c.domain c.mac = some i →
      Runs .fwdCmdComplete s (fun t => t.rd F.fwdWinStatResult = 0 ∧ t.fwdEnt i = none ∧
        ∀ j, j ≠ i → t.fwdEnt j = s.fwdEnt j)) ∧
    (c.op = 5 →
      Runs .fwdCmdComplete s (fun t => t.rd F.fwdWinStatResult = 0 ∧ ∀ e ∈ t.fwd.tab, ∀ x, e.2 = some x →
        (s.asn x.assoc).port = c.port → c.inclStatic = false ∧ x.isStatic = true)))

/-- R137, R148: a rehash of a learn cache loads its seed and silences the cache until it is done, and is ignored while
one runs; at its end every entry of the cache stands where the new seed places it, none is new, and the other caches
are as they were; a flush empties the cache alone. R140: at an aging edge, a multiple of age_period, every entry of
the table is judged once: a static one and one of a domain that does not age stand; one that was hit starts again at
0; one that was not grows older by one, and is removed when it has reached its domain's age_max. At any other edge
nothing ages. What the rules leave open here is the model's choice: log entry 27. -/
def Obligations.LearnedEntries : Prop :=
  (∀ (s : State) (c : ChimneyNo),
    (∀ cyc, s.ready .lrc c = true →
      (s.rd F.lrcStatRehashBusy c = 0 →
        Runs (.lrcRehash c cyc) s (fun t => t.rd F.lrcStatRehashBusy c = 1 ∧ t.lrcOn c = false ∧
          t.lrcSeed c = s.word (keyOf F.lrcSeedSeed c) ∧ (∀ d : ChimneyNo, d ≠ c → t.lrcSeed d = s.lrcSeed d) ∧
          t.fwd.cache = s.fwd.cache ∧ t.fwd.tab = s.fwd.tab ∧ s.regsBut t [keyOf F.lrcStatRehashBusy c])) ∧
      (s.rd F.lrcStatRehashBusy c = 1 → Runs (.lrcRehash c cyc) s (fun t => t.fwd = s.fwd ∧ s.regsBut t [])) ∧
      Runs (.lrcFlush c cyc) s (fun t => t.fwd.cache = s.fwd.cache.filter (fun e => decide (e.1 / 4096 ≠ c.val)) ∧
        t.fwd.tab = s.fwd.tab ∧ s.regsBut t [])) ∧
    (s.rd F.lrcStatRehashBusy c = 1 →
      Runs (.lrcRehashDone c) s (fun t => t.rd F.lrcStatRehashBusy c = 0 ∧ t.rd F.lrcStatInsertFail c = 0 ∧
        (∀ i, i / 4096 ≠ c.val → nget none t.fwd.cache i = nget none s.fwd.cache i) ∧
        (∀ x ∈ t.fwd.cache, x.1 / 4096 = c.val → ∀ e, x.2 = some e →
          x.1 ∈ lrcWays (s.lrcSeed c) c e.domain e.mac ∧ ∃ y ∈ s.fwd.cache, y.2 = some e ∧ y.1 / 4096 = c.val) ∧
        t.fwd.tab = s.fwd.tab ∧ t.lrcSeed c = s.lrcSeed c ∧ s.regsBut t [keyOf F.lrcStatRehashBusy c]))) ∧
  (∀ s : State,
    (s.tick % max 1 (s.rd F.fwdCtlAgePeriod) = 0 → s.fwd.agedAt ≠ some s.tick → (s.fwd.tab.map (·.1)).Nodup →
      Runs .agingEdge s (fun t => t.fwd.agedAt = some s.tick ∧ t.fwd.doms = s.fwd.doms ∧
        (∀ i, s.fwdEnt i = none → t.fwdEnt i = none) ∧
        (∀ i e, s.fwdEnt i = some e → t.fwdEnt i =
          if e.isStatic = true ∨ (s.dom e.domain).ageMax = 0 then some e
          else if e.hit = true then some { e with age := 0, hit := false }
          else if (s.dom e.domain).ageMax ≤ min 15 (e.age + 1) then none
          else some { e with age := min 15 (e.age + 1) }))) ∧
    (s.tick % max 1 (s.rd F.fwdCtlAgePeriod) ≠ 0 ∨ s.fwd.agedAt = some s.tick →
      Runs .agingEdge s (fun t => t.fwd = s.fwd ∧ s.regsBut t [])))

/-! ### Associations (R149 to R168) -/

/-- R150, R166: ASN_READ changes no entry and answers 0; the window is busy for 64 cycles, and at their end its data
is the entry's image with its keys and salts read as 0. R153, R166: a START, STOP, KILL, RESTART or RELEASE that the
entry's state accepts is answered 1 and acts at the edge that it reaches; one that the state does not accept is
answered 2, and an unknown operation 5, with nothing scheduled. A READ that has run its time gives its data then. What
the rules leave open here is the model's choice: log entries 28 and 65. -/
def Obligations.EntryCommands : Prop :=
  (∀ (s : State) (a : AssocNo) (cyc : Cyc), s.ready .asn = true → s.tick * cyclesPerTick + cyc.val ≥ s.asnBusy →
    Runs (.asnRead a cyc) s (fun t => (∀ b, t.asn b = s.asn b) ∧ t.sched = s.sched ∧ t.rd F.asnWinStatResult = 0 ∧
      t.asnBusy = s.tick * cyclesPerTick + cyc.val + 64 ∧
      (∀ i : Fin 8, (s.asn a).image.length = 256 ∧ leNat (slice (s.asn a).image (4 * i) 4) = 0 ∧
        leNat (slice (s.asn a).image (0x30 + 4 * i) 4) = 0) ∧
      (∀ c : Cyc, cyc.val + 64 ≤ c.val → ∀ i : Fin 64,
        ((t.at c).asnFinish.word ⟨.asnw, 0x100 + 4 * i, 0, 0⟩).toNat = leNat (slice (s.asn a).image (4 * i) 4)) ∧
      (s.assocs.reading = none → s.regsBut t [keyOf F.asnWinStatResult]))) ∧
  (∀ (s : State) (a : AssocNo) (cyc : Cyc), s.ready .asn = true → s.tick * cyclesPerTick + cyc.val ≥ s.asnBusy →
    s.rd F.asnStatQuenchBusy = 0 → s.effMode ≠ 5 →
    ∀ ks : List RegKey, ks = keyOf F.asnWinStatResult :: (if s.assocs.reading.isNone then []
      else (List.range 64).map (fun i => ⟨.asnw, 0x100 + 4 * i, 0, 0⟩)) →
    (∀ c ∈ [(Instr.start a cyc, 3, [AState.idle]), (.stop a cyc, 4, [.kindling, .live, .rolling]),
        (.kill a cyc, 5, [.kindling, .live, .rolling, .draining]), (.restart a cyc, 6, [.dead]),
        (.release a cyc, 7, [.idle, .dead, .quenched])],
      ((s.asn a).state ∈ c.2.2 →
        Runs c.1 s (fun t => (∀ b, t.asn b = s.asn b) ∧ t.rd F.asnWinStatResult = 1 ∧ s.plans t (.asnCmd c.2.1 a []) cyc ∧
          s.regsBut t ks)) ∧
      ((s.asn a).state ∉ c.2.2 →
        Runs c.1 s (fun t => (∀ b, t.asn b = s.asn b) ∧ t.rd F.asnWinStatResult = 2 ∧ t.sched = s.sched ∧
          s.regsBut t ks))) ∧
    ((s.asn a).state ≠ .quenched → (s.asn a).imageRefused s.asnImage = false →
      Runs (.writeCfg a cyc) s (fun t => (∀ b, t.asn b = s.asn b) ∧ t.rd F.asnWinStatResult = 1 ∧
        t.sched = s.sched ++ [{ due := s.edgeFor cyc, held := s.on F.devCommitCtlHold, act := .asnCmd 2 a s.asnImage }] ∧
        s.regsBut t ks)) ∧
    ((s.asn a).state ≠ .quenched → (s.asn a).imageRefused s.asnImage = true →
      Runs (.writeCfg a cyc) s (fun t => (∀ b, t.asn b = s.asn b) ∧ t.rd F.asnWinStatResult = 3 ∧ t.sched = s.sched ∧
        s.regsBut t ks)) ∧
    Runs (.asnUnknownOp a cyc) s (fun t => (∀ b, t.asn b = s.asn b) ∧ t.rd F.asnWinStatResult = 5 ∧ t.sched = s.sched ∧
      s.regsBut t ks))

/-- R153, R159: DRAINING ends at its edge in IDLE, keys and numbers gone; a switch flips the transmit phase of a
ROLLING association and starts its numbers again; an auto_recover restart takes a DEAD association to KINDLING. What
the rules leave open here is the model's choice: log entries 2 and 28. -/
def Obligations.EntriesMoveOn : Prop :=
  ∀ s : State,
    (∀ (a : AssocNo) (e : Nat), (s.asn a).state = .draining → (s.asn a).drainAt = some e → e ≤ s.tick →
      Runs (.drainEnd a) s (fun t => (t.asn a).state = .idle ∧ (t.asn a).drainAt = none ∧ (t.asn a).ph0.key = 0 ∧
        (t.asn a).ph1.key = 0 ∧ (t.asn a).ph0.valid = false ∧ (t.asn a).ph1.valid = false ∧ (t.asn a).nextPn = 0 ∧
        (t.asn a).pnMark = 0 ∧ (∀ b, b ≠ a.val → t.asn b = s.asn b) ∧ s.regsBut t [])) ∧
    (∀ (a : AssocNo) (e : Nat), (s.asn a).drainAt = some e → s.tick < e →
      Runs (.drainEnd a) s (fun t => t.assocs = s.assocs ∧ s.regsBut t [])) ∧
    (∀ (k : LinkNo) (r : Roll) (a : Nat), (s.link k).roll = some r → r.stage = .scheduled → r.switchDue ≤ s.tick →
      r.rolled = [a] → (s.asn a).state = .rolling →
      Runs (.keyPhaseSwitch k) s (fun t => (t.asn a).state = .live ∧ (t.asn a).txPhase = !(s.asn a).txPhase ∧
        (t.asn a).nextPn = (if (s.asn a).otn then 0 else 1) ∧ (t.asn a).pnMark = 2 ^ 24 ∧
        (t.asn a).overlapAt = some (s.tick + s.overlapTicks) ∧ (t.asn a).claimPending = false ∧
        (t.asn a).ph0 = (s.asn a).ph0 ∧ (t.asn a).ph1 = (s.asn a).ph1 ∧ (t.link k).epoch = r.target ∧
        (t.link k).roll.map (·.stage) = some .switched)) ∧
    (∀ (k : LinkNo) (r : Roll), (s.link k).roll = some r → (r.stage ≠ .scheduled ∨ s.tick < r.switchDue) →
      Runs (.keyPhaseSwitch k) s (fun t => t.assocs = s.assocs ∧ t.kindle = s.kindle ∧ s.regsBut t [])) ∧
    (∀ (k : LinkNo) (a e : Nat), a ∈ s.linkAssocs k → (s.asn a).overlapAt = some e → e ≤ s.tick →
      Runs (.overlapEnd k) s (fun t => (t.asn a).overlapAt = none ∧ (t.asn a).state = (s.asn a).state ∧
        ((s.asn a).state = .live → (t.asn a).ph (!(s.asn a).txPhase) = {} ∧
          (t.asn a).ph (s.asn a).txPhase = (s.asn a).ph (s.asn a).txPhase))) ∧
    (∀ (a : AssocNo) (u : State), (s.asn a).state = .dead → (s.asn a).autoRecover = true → s.cascWait a = false →
      s.startGuards a = true → s.takeUse (s.asn a).slot = (u, .granted) →
      Runs (.autoRecover a) s (fun t => (t.asn a).state = .kindling ∧ (t.asn a).deadCause = 0 ∧ t.vault = u.vault ∧
        ∀ b, b ≠ a.val → t.asn b = s.asn b)) ∧
    (∀ a : AssocNo, ((s.asn a).state ≠ .dead ∨ (s.asn a).autoRecover = false ∨ s.startGuards a = false) →
      Runs (.autoRecover a) s (fun t => t.assocs = s.assocs ∧ t.vault = s.vault ∧ s.regsBut t []))

/-! ### Stoves and randomness (R169 to R201) -/

/-- R198: a CHM_CFG write with dummy above 8, or above 3 beside twin compare, is refused; any other is pending. R200:
a test of a Stove, and a restore of one out of service for a cause of its own, act at the edge they reach; a restore
of any other is refused. R174, R199, R200: a Stove whose bring-up test passes comes into service; one that fails a
test leaves it. The last test of a command on one Stove ends the command: result 0 and a return at the next edge, or
result 1. R196: a twin mismatch takes both Stoves of its pair out of service, names the pair, and marks the work it
hit. R173: an uncorrectable microcode word takes its Stove out of service. What the rules leave open here is the
model's choice: log entry 12. -/
def Obligations.StovesInService : Prop :=
  (∀ (s : State) (c : ChimneyNo) (cyc : Cyc),
    (∀ w, s.ready .chm c = true → getF w 1 4 ≤ 8 → (getF w 0 1 = 1 → getF w 1 4 ≤ 3) →
      Runs (.chmCfgWrite c w cyc) s (fun t => s.pends t (keyOf F.chmCfgTwin c) (w &&& 0x1F) cyc ∧ s.regsBut t [])) ∧
    (∀ w, s.ready .chm c = true → (8 < getF w 1 4 ∨ getF w 0 1 = 1 ∧ 3 < getF w 1 4) →
      Runs (.chmCfgWrite c w cyc) s (fun t => t.rd F.chmStatCfgRejected c = 1 ∧ t.sched = s.sched ∧
        s.regsBut t [keyOf F.chmStatCfgRejected c])) ∧
    (∀ k : StoveNo, s.ready .stv c = true → s.rd F.stvCmdStatBusy c = 0 →
      Runs (.stoveTest c k cyc) s (fun t => t.rd F.stvCmdStatBusy c = 1 ∧ t.rd F.stvCmdStatStove c = k ∧
        s.plans t (.stoveCmd c k false) cyc ∧ t.chims = s.chims ∧ s.regsBut t [keyOf F.stvCmdStatBusy c]) ∧
      ((s.stvGroup c k).any (fun j => (s.stvOwn c j).failed) = true →
        Runs (.stoveRestore c k cyc) s (fun t => t.rd F.stvCmdStatBusy c = 1 ∧ t.rd F.stvCmdStatStove c = k ∧
          s.plans t (.stoveCmd c k true) cyc ∧ t.chims = s.chims ∧ s.regsBut t [keyOf F.stvCmdStatBusy c])) ∧
      ((s.stvGroup c k).any (fun j => (s.stvOwn c j).failed) = false →
        Runs (.stoveRestore c k cyc) s (fun t => t.rd F.stvCmdStatBusy c = 0 ∧ t.rd F.stvCmdStatResult c = 2 ∧
          t.sched = s.sched ∧ t.chims = s.chims ∧ s.regsBut t [keyOf F.stvCmdStatBusy c]))) ∧
    (∀ k : StoveNo, s.ready .stv c = true → s.rd F.stvCmdStatBusy c = 1 →
      ∀ i ∈ [Instr.stoveTest c k cyc, .stoveRestore c k cyc],
      Runs i s (fun t => t.rd F.stvCmdStatResult c = 2 ∧ t.sched = s.sched ∧ t.chims = s.chims ∧
        s.regsBut t [keyOf F.stvCmdStatBusy c]))) ∧
  (∀ (s : State) (c : ChimneyNo) (k : StoveNo),
    ((s.chim c).running.find? (fun e => e.1 = k.val) = some (k.val, .bringUp) →
      Runs (.katDone c k true) s (fun t => t.stvOwn c k = .ok ∧ t.rd (katFld k) c = 1 ∧
        (∀ j : StoveNo, j ≠ k → t.stvOwn c j = s.stvOwn c j) ∧
        (t.chim c).running = (s.chim c).running.filter (fun e => e.1 ≠ k.val)) ∧
      Runs (.katDone c k false) s (fun t => t.stvOwn c k = .bringUp ∧ t.rd (katFld k) c = 0 ∧ t.evt F.chmEvtKatFail c = 1 ∧
        t.stvIn c k = false ∧ (∀ j : StoveNo, j ≠ k → t.stvOwn c j = s.stvOwn c j))) ∧
    (s.twinOn c = false → (s.chim c).running = [(k.val, .command)] → s.stvOwn c k = .underTest →
      Runs (.katDone c k true) s (fun t => t.rd F.stvCmdStatBusy c = 0 ∧ t.rd F.stvCmdStatResult c = 0 ∧
        t.sched = s.sched ++ [{ due := s.tick + 1, held := false, act := .stoveBack c [k.val] }] ∧ t.stvOwn c k = .underTest) ∧
      Runs (.katDone c k false) s (fun t => t.rd F.stvCmdStatBusy c = 0 ∧ t.rd F.stvCmdStatResult c = 1 ∧
        t.sched = s.sched ∧ t.stvOwn c k = .command)) ∧
    ((s.chim c).running.find? (fun e => e.1 = k.val) = none →
      ∀ pass, Runs (.katDone c k pass) s (fun t => t.chims = s.chims ∧ s.regsBut t []))) ∧
  (∀ (s : State) (c : ChimneyNo),
    (∀ (i : Fin 32) (frames : List Nat), s.twinOn c = true → s.stvIn c (2 * i) = true → s.stvIn c (2 * i + 1) = true →
      Runs (.twinMismatch c i frames [] []) s (fun t => t.stvOwn c (2 * i) = .twin ∧ t.stvOwn c (2 * i + 1) = .twin ∧
        t.rd F.stvMismPair c = i ∧ t.evt F.chmEvtTwinMismatch c = 1 ∧ t.stvIn c (2 * i) = false ∧
        t.hearth.frames = s.hearth.frames.map (fun f => if f.id ∈ frames then { f with mismatch := true } else f))) ∧
    (∀ k : StoveNo, Runs (.microcodeError c k) s (fun t => t.stvOwn c k = .ucode ∧ t.stvIn c k = false ∧
      (∀ j : StoveNo, j ≠ k → t.stvOwn c j = s.stvOwn c j) ∧ t.assocs = s.assocs)))

/-- R194: an instance with entropy reseeds at its reseed point, of 2^16 requests or for the device's of 2^10, and
counts it; without entropy a Chimney reports that it is overdue. Once the source's health test fails, every Chimney
reports it. What the rules leave open here is the model's choice: log entries 5 and 65. -/
def Obligations.RandomnessIsReseeded : Prop :=
  ∀ s : State,
    (∀ (i : Fin 8) (d : Drbg), (s.chim i).drbg = some d → 2 ^ 16 ≤ d.requests →
      (s.rd F.kvtDrbgEsOk = 1 →
        Runs (.drbgReseed (i.castSucc)) s (fun t => t.rd F.chmDrbgSeeded i = 1 ∧ (t.chim i).drbg = some (d.reseed (s.free 384)) ∧
          t.rd F.chmDrbgReseeds i = min 65535 (s.rd F.chmDrbgReseeds i + 1))) ∧
      (s.rd F.kvtDrbgEsOk = 0 →
        Runs (.drbgReseed (i.castSucc)) s (fun t => t.evt F.chmEvtReseedOverdue i = 1 ∧ t.chims = s.chims ∧ s.regsBut t []))) ∧
    (∀ d : Drbg, s.vault.drbg = some d → 2 ^ 10 ≤ d.requests → s.rd F.kvtDrbgEsOk = 1 →
      Runs (.drbgReseed 8) s (fun t => t.rd F.kvtDrbgSeeded = 1 ∧ t.vault.drbg = some (d.reseed (s.free 384)) ∧
        t.rd F.kvtDrbgReseeds = min 65535 (s.rd F.kvtDrbgReseeds + 1) ∧ s.regsBut t [keyOf F.kvtDrbgSeeded])) ∧
    Runs .entropyHealthFail s (fun t => t.rd F.kvtDrbgEsOk = 0 ∧ (∀ i : Fin 8, t.evt F.chmEvtEsFail i = 1) ∧
      s.regsBut t [keyOf F.kvtDrbgEsOk]) ∧
    (s.selfTests = true → s.tick % 32 = 0 →
      Runs .standbyKat s (fun t => s.regsBut t [] ∧ ∀ c : ChimneyNo,
        (t.chim c).nextKat = ((s.chim c).nextKat % 64 + 1) % 64 ∧
        ((s.chim c).nextKat % 64, KatKind.standby) ∈ (t.chim c).running)) ∧
    (s.tick % 32 ≠ 0 → Runs .standbyKat s (fun t => t.chims = s.chims ∧ s.regsBut t []))

/-! ### Slices and lookaside work (R338 to R363) -/

/-- R343: a doorbell of a bound slice moves its queue's end; a tail beyond the ring is refused. R484: an unbound
slice's page ignores writes. R345: up to 8 descriptors of the queue whose turn it is are read, as far as completion
entries can be reserved, and its head moves past them. R345, R348: a NOP, and a FENCE before which no job of its queue
runs, complete with status 0 in the completion queue; a FENCE waits while one does. What the rules leave open here is
the model's choice: log entry 30. -/
def Obligations.SliceQueues : Prop :=
  (∀ (s : State) (n : SliceNo) (w : Word), s.ready .hst = true →
    ((s.sliceRt n).state ≠ 0 →
      (∀ (q : Fin 4) (tl : Nat), tailOf (s.sqSize n q) (s.rd (sqFld F.slcSqHeadHead q) n) w.toNat = some tl →
        Runs (.sqDoorbell n q w) s (fun t => t.rd (sqFld F.slcSqTailTail q) n = tl ∧
          s.regsBut t [keyOf (sqFld F.slcSqTailTail q) n])) ∧
      (∀ q : Fin 4, tailOf (s.sqSize n q) (s.rd (sqFld F.slcSqHeadHead q) n) w.toNat = none →
        Runs (.sqDoorbell n q w) s (fun t => t.rd F.slcStatCfgRejected n = 1 ∧ s.regsBut t [keyOf F.slcStatCfgRejected n])) ∧
      Runs (.cqDoorbell n w) s (fun t => t.rd F.slcCqHeadHead n = w.toNat % 2 ^ 17 ∧ s.regsBut t [keyOf F.slcCqHeadHead n]) ∧
      Runs (.eqDoorbell n w) s (fun t => t.rd F.slcEqHeadHead n = w.toNat % 2 ^ 17 ∧ s.regsBut t [keyOf F.slcEqHeadHead n])) ∧
    ((s.sliceRt n).state = 0 → ∀ q : Fin 4, ∀ c ∈ [Instr.sqDoorbell n q w, .cqDoorbell n w, .eqDoorbell n w],
      Runs c s (fun t => t.slices = s.slices ∧ s.regsBut t []))) ∧
  (∀ (s : State) (n : SliceNo) (descs : List (List Byte)),
    (∀ q k, s.mayFetch n = true → s.fetchQueue n = some q → k = min (min 8 descs.length) (min (s.sqAhead n q) (s.cqFree n)) →
      Runs (.descriptorFetch n descs) s (fun t =>
        (t.sliceRt n).fetched = (s.sliceRt n).fetched ++ (descs.take k).zipIdx.map (fun (e : List Byte × Nat) =>
          ({ queue := q, index := (s.rd (sqFld F.slcSqHeadHead q) n + e.2) % s.sqSize n q, bytes := slice e.1 0 64 } : Desc)) ∧
        (t.sliceRt n).turn = (q + 1) % 4 ∧ (t.sliceRt n).jobs = (s.sliceRt n).jobs ∧
        s.regsBut t [keyOf (sqFld F.slcSqHeadHead q) n])) ∧
    (s.mayFetch n = false → Runs (.descriptorFetch n descs) s (fun t => t.slices = s.slices ∧ s.regsBut t []))) ∧
  (∀ (s : State) (n : SliceNo) (q : Fin 4) (d : Desc), s.headDesc n q = some d → d.bad = false → d.gen = (s.sliceRt n).gen →
    (d.opcode = 3 →
      Runs (.nop n q true) s (fun t => s.cplDone t n ∧ (t.sliceRt n).jobs = (s.sliceRt n).jobs ∧
        s.sends t (.hostWrite (s.cplAt n) (s.cplBytes n d.queue d.index 0 0 (s.sliceRt n).gen 0)) ∧
        (t.sliceRt n).fetched = (s.sliceRt n).fetched.eraseP (fun x => x.queue = d.queue)) ∧
      Runs (.nop n q false) s (fun t => (t.sliceRt n).ringFault = true ∧ (t.sliceRt n).cqTail = (s.sliceRt n).cqTail ∧
        t.evt F.hstEvtRingFault = 1)) ∧
    (d.opcode = 2 → s.queueBusy n q = false →
      Runs (.fence n q true) s (fun t => s.cplDone t n ∧
        s.sends t (.hostWrite (s.cplAt n) (s.cplBytes n d.queue d.index 0 0 (s.sliceRt n).gen 0)) ∧
        (t.sliceRt n).fetched = (s.sliceRt n).fetched.eraseP (fun x => x.queue = d.queue))) ∧
    (d.opcode = 2 → s.queueBusy n q = true → ∀ ok, Runs (.fence n q ok) s (fun t => t.slices = s.slices ∧ s.regsBut t [])))

/-- R184, R186, R346: a JOB whose descriptor is sound, whose key resolves to an association of its slice that holds
keys, and whose lengths its mode allows, begins with that key; one that fails a check completes at once with the
status of the check and begins nothing. What the rules leave open here is the model's choice: log entries 30, 58 and
59. -/
def Obligations.JobsBegin : Prop :=
  ∀ (s : State) (n : SliceNo) (q : Fin 4) (d : Desc) (blob : Option (List Byte)),
    s.headDesc n q = some d → d.opcode ≠ 2 → d.opcode ≠ 3 → (s.sliceRt n).jobs.length < 64 →
    (∀ a, d.bad = false → d.gen = (s.sliceRt n).gen → d.mode ≠ 0 → d.mode ≤ 4 → d.kind = 1 → a = s.asn d.keyRef →
      a.sliceValid = true → a.slice = n → (a.state = .live ∨ a.state = .rolling ∨ a.state = .draining) →
      d.lengthStatus = 0 → 32 ≤ s.rd F.hstSresCellQuota 0 n → ∀ ok,
      Runs (.job n q blob ok) s (fun t => s.regsBut t [] ∧ t.assocs = s.assocs ∧ t.vault = s.vault ∧
        (t.sliceRt n).fetched = (s.sliceRt n).fetched.eraseP (fun x => x.queue = d.queue) ∧
        (t.sliceRt n).nextJob = (s.sliceRt n).nextJob + 1 ∧
        (t.sliceRt n).jobs = (s.sliceRt n).jobs ++ [{ id := (s.sliceRt n).nextJob, queue := d.queue, index := d.index
                                                      gen := d.gen, mode := d.mode, dir := d.dir, irq := d.irq
                                                      key := slice (kdf (beBytes 32 a.tx.key.toNat) "heserok lookaside"
                                                        (beBytes 4 a.tx.epoch) 256) 0 32
                                                      epoch := a.tx.epoch, iv := slice d.bytes 40 (ivLen d.mode)
                                                      src := leNat (slice d.bytes 16 8), dst := leNat (slice d.bytes 24 8)
                                                      len := d.len, aadLen := d.aadLen
                                                      tagAt := leNat (slice d.bytes 56 8), since := s.tick }])) ∧
    (∀ st, (st = 12 ∧ d.bad = true ∨ st = 13 ∧ d.bad = false ∧ d.gen ≠ (s.sliceRt n).gen ∨
        st = 5 ∧ d.bad = false ∧ d.gen = (s.sliceRt n).gen ∧ (d.mode = 0 ∨ 8 ≤ d.mode)) →
      Runs (.job n q blob true) s (fun t => s.cplDone t n ∧ (t.sliceRt n).jobs = (s.sliceRt n).jobs ∧
        s.sends t (.hostWrite (s.cplAt n) (s.cplBytes n d.queue d.index st 0 (s.sliceRt n).gen 0))))

/-- R350, R351: the next piece of the only slice that may dispatch goes to a Stove in service: 32 cells of staging are
taken, and the slice's deficit pays the piece's slots. R185, R189, R190, R348: a job whose pieces are all dispatched
ends as its Stoves computed: the destination is written first; authenticated data whose tag fails is written as zeros.
What the rules leave open here is the model's choice: log entries 4, 30 and 59. -/
def Obligations.JobsRun : Prop :=
  (∀ (s : State) (c : ChimneyNo) (k : StoveNo) (n : Nat) (j : Job) (bytes : List Byte),
    (s.slices.map (·.1)).filter (fun n => s.mayDispatch n) = [n] → (s.sliceRt n).waitingJob = some j → s.stvIn c k = true →
    s.reserveCells + 32 ≤ s.freeCells → 0 < (s.sliceRt n).deficit →
    (bytes.length = j.readBytes j.issued →
      Runs (.pieceDispatch c k (some bytes)) s (fun t => s.regsBut t [] ∧ t.hearth.staging = s.hearth.staging + 32 ∧
        (t.sliceRt n).deficit = (s.sliceRt n).deficit - (j.pieceSlots j.issued : Nat) ∧
        (t.sliceRt n).jobs = (s.sliceRt n).jobs.map (fun x => if x.id = j.id then
          { j with issued := j.issued + 1, data := j.data ++ bytes, since := s.tick, told := false, chim := c
                   running := j.running ++ [(s.tick, c.val, k.val)] } else x))) ∧
    (Runs (.pieceDispatch c k none) s (fun t => s.regsBut t [] ∧ t.hearth.staging = s.hearth.staging ∧
        (t.sliceRt n).jobs = (s.sliceRt n).jobs.map (fun x => if x.id = j.id then { j with readFault := true } else x)))) ∧
  (∀ (s : State) (n : SliceNo) (id : Nat) (j : Job) (tag : List Byte),
    (s.sliceRt n).jobs.find? (fun j => j.id = id) = some j → j.issued = j.pieces → j.readFault = false → j.mismatch = false →
    (∀ st out tg len, j.compute (slice tag 0 16) = (st, out, tg, len) →
      Runs (.jobComplete n id (some tag) none true) s (fun t => s.cplDone t n ∧
        (t.sliceRt n).jobs = (s.sliceRt n).jobs.filter (fun x => decide (x.id ≠ id)) ∧
        (out ≠ [] → s.sends t (.hostWrite j.dst out)) ∧ t.assocs = s.assocs ∧
        t.hearth.staging = s.hearth.staging - 32 * j.running.length)) ∧
    (j.mode = 1 → j.dir = true → 0 < j.len →
      gcmTag (keyOfBytes j.key) (BitVec.ofNat 96 (beAt j.iv 0 12)) (j.data.take j.aadLen) (j.data.drop j.aadLen) ≠ slice tag 0 16 →
      Runs (.jobComplete n id (some tag) none true) s (fun t => s.sends t (.hostWrite j.dst (List.replicate j.len 0)))))

/-- R358, R359: the completions that have waited coal_ticks raise their vector; a job that has waited more than 64
ticks is told once. R341, R353, R354, R357, R362: a BIND, RESET, REMOVE or DIRTY_READ that its checks let pass is
accepted, with result 1, and acts at step 7 of the edge it reaches; another is refused with the check's result and
schedules nothing. R353, R357: the last work of a previous generation returns, or is waited for no longer after 64
ticks: a slice that was resetting is bound, one that was removing is unbound. The copy of an old log buffer ends with
it zeroed. What the rules leave open here is the model's choice: log entry 30. -/
def Obligations.SliceStates : Prop :=
  (∀ (s : State) (n : SliceNo),
    (0 < s.rd F.slcCqCfgCoalTicks n → 0 < (s.sliceRt n).waiting → (s.sliceRt n).waitFrom + s.rd F.slcCqCfgCoalTicks n ≤ s.tick →
      Runs (.coalesceTimer n) s (fun t => (t.sliceRt n).waiting = 0 ∧ s.regsBut t [] ∧
        ((s.rd F.hstSvecCqVec 0 n ∈ t.msix.pend) ∨ s.out.length < t.out.length))) ∧
    ((s.rd F.slcCqCfgCoalTicks n = 0 ∨ (s.sliceRt n).waiting = 0 ∨ s.tick < (s.sliceRt n).waitFrom + s.rd F.slcCqCfgCoalTicks n) →
      Runs (.coalesceTimer n) s (fun t => t.slices = s.slices ∧ s.regsBut t [])) ∧
    (∀ (id : Nat) (j : Job), (s.sliceRt n).jobs.find? (fun j => j.id = id) = some j → j.readFault = false →
      j.issued < j.pieces → j.since + 64 < s.tick → j.told = false →
      Runs (.jobWaitAlarm n id) s (fun t =>
        (t.sliceRt n).jobs = (s.sliceRt n).jobs.map (fun (x : Job) => if x.id = id then { x with told := true } else x)))) ∧
  (∀ (s : State) (cyc : Cyc) (n : Nat), s.ready .hst = true → n = s.rd F.hstSselSlice →
    ∀ c ∈ [(Instr.bind cyc, 1), (.sliceReset cyc, 2), (.sliceRemove cyc, 3), (.dirtyRead cyc, 4)],
      (s.sliceCheck n c.2 (s.rd F.hstSpasidPasid 0 n) = 0 →
        Runs c.1 s (fun t => s.plans t (.sliceCmd n c.2 (s.rd F.hstSpasidPasid 0 n)) cyc ∧ (t.sliceRt n).result = 1 ∧
          (t.sliceRt n).state = (s.sliceRt n).state ∧ (t.sliceRt n).gen = (s.sliceRt n).gen ∧ s.regsBut t [])) ∧
      (∀ r, s.sliceCheck n c.2 (s.rd F.hstSpasidPasid 0 n) = r → r ≠ 0 →
        Runs c.1 s (fun t => t.sched = s.sched ∧ (t.sliceRt n).result = r ∧ (t.sliceRt n).state = (s.sliceRt n).state ∧
          t.evt F.hstEvtCmdRejected = 1 ∧ s.regsBut t []))) ∧
  (∀ (s : State) (n : SliceNo),
    ((s.sliceRt n).old ≠ [] → ((s.sliceRt n).state = 2 ∨ (s.sliceRt n).state = 3) →
      Runs (.sliceResetDone n) s (fun t => (t.sliceRt n).old = [] ∧ (t.sliceRt n).state = (if (s.sliceRt n).state = 3 then 0 else 1) ∧
        (t.sliceRt n).result = 0 ∧ (t.sliceRt n).gen = (s.sliceRt n).gen ∧ t.evt F.hstEvtResetDone = 1) ∧
      ((s.sliceRt n).stepAt + 64 ≤ s.tick →
        Runs (.sliceResetTimeout n) s (fun t => (t.sliceRt n).old = (s.sliceRt n).old ∧
          (t.sliceRt n).state = (if (s.sliceRt n).state = 3 then 0 else 1) ∧ t.evt F.hstEvtResetTimeout = 1 ∧ s.regsBut t [])) ∧
      (s.tick < (s.sliceRt n).stepAt + 64 →
        Runs (.sliceResetTimeout n) s (fun t => t.slices = s.slices ∧ s.regsBut t []))) ∧
    (∀ src dst bytes, (s.sliceRt n).copying = some (src, dst, bytes) →
      Runs (.dirtyCopyDone n) s (fun t => (s.out ++ [.hostCopy src dst bytes, .hostZero src bytes]) <+: t.out ∧
        (t.sliceRt n).copying = none ∧ (t.sliceRt n).result = 0 ∧ t.evt F.hstEvtDirtyDone = 1 ∧ s.regsBut t [])))

/-! ### The Kindle Exchange (R226 to R290) -/

/-- R255, R264, R275, R284: a command of KDL_LINK_CMD acts at the edge it reaches on the link selected when it lands.
R228: a KDL_LINK_CFG write is pending, but one that would enable a link on the port of another enabled link, or move
an enabled one, is refused as a whole. R255, R256, R261, R284: a hold-off that has ended leaves the link free; a link
with start = 1 then offers, as does one that waited for a context, where the engine may send and a context is free.
What the rules leave open here is the model's choice: log entry 38. -/
def Obligations.Links : Prop :=
  (∀ (s : State) (cyc : Cyc) (k : Nat), s.ready .kdl = true → k = s.rd F.kdlLinkSelLink →
    (∀ c ∈ [(Instr.linkStart cyc, 1), (.linkAbort cyc, 2), (.linkRekey cyc, 3), (.linkReauth cyc, 4), (.clearHoldoff cyc, 5),
        (.linkRoll cyc, 6)],
      Runs c.1 s (fun t => s.plans t (.linkCmd k c.2) cyc ∧ t.kindle = s.kindle ∧ s.regsBut t [])) ∧
    (∀ (start : Bool) (port : Byte) (w : Word), w = BitVec.ofNat 32 (1 + 2 * b2n start + 256 * port.toNat) →
      (((List.range 144).any (fun j => decide (j ≠ k) && s.linkOn j && decide (s.linkPort j = port.toNat)) = false ∧
          (s.linkOn k = false ∨ s.linkPort k = port.toNat)) →
        Runs (.linkEnable start port cyc) s (fun t => s.pends t (keyOf F.kdlLinkCfgEnable 0 k) w cyc ∧ t.kindle = s.kindle ∧
          s.regsBut t [])) ∧
      ((s.linkOn k = true ∧ s.linkPort k ≠ port.toNat ∨
          (List.range 144).any (fun j => decide (j ≠ k) && s.linkOn j && decide (s.linkPort j = port.toNat)) = true) →
        Runs (.linkEnable start port cyc) s (fun t => t.sched = s.sched ∧ t.kindle = s.kindle ∧
          t.evt F.kdlEvtCfgRejected = 1 ∧ s.regsBut t []))) ∧
    (∀ start : Bool, Runs (.linkDisable start cyc) s (fun t =>
      s.pends t (keyOf F.kdlLinkCfgEnable 0 k) (BitVec.ofNat 32 (2 * b2n start + 256 * s.linkPort k)) cyc ∧
      t.kindle = s.kindle ∧ s.regsBut t []))) ∧
  (∀ (s : State) (k : LinkNo), (s.link k).cur = none → s.linkOn k = true → s.kdlRuns = true → s.freeContext.isSome = true →
    (∀ e, (s.link k).holdUntil = some e → e ≤ s.tick →
      Runs (.holdoffEnd k) s (fun t => (t.link k).holdUntil = none ∧ s.regsBut t [] ∧
        (s.rd F.kdlLinkCfgStart 0 k = 0 → (t.link k).cur = none) ∧
        (s.rd F.kdlLinkCfgStart 0 k = 1 → (t.link k).cur.map (fun x => (x.st, x.initiator, x.ops, x.goal)) =
          some (.offered, true, [.keygen], some .sendOffer)))) ∧
    ((s.link k).holdUntil = none → (s.link k).waitsCtx = true →
      Runs (.contextFreed k) s (fun t => (t.link k).waitsCtx = false ∧ s.regsBut t [] ∧
        (t.link k).cur.map (fun x => (x.st, x.initiator, x.ops, x.goal)) = some (.offered, true, [.keygen], some .sendOffer))))

/-- R236, R238: the first fragment of a new message begins it, and its acknowledgement is due; a message that is whole
is kept for its handling; a fragment of the message completed last is answered again; a fragment of an unknown kind,
or on a link that does not hear, changes nothing. R236 to R238: an acknowledgement of another message changes nothing;
one that covers the last fragment of the only message ends it, and a CONFIRM so acknowledged is marked in its session.
An acknowledgement that is due leaves at most once a tick; a fragment leaves again when its interval has passed;
neither leaves on a link that may not send (R229, R234, R284). The sends shown are those of a link on an Ethernet port
that sends frames. What the rules leave open here is the model's choice: log entries 38 and 39. -/
def Obligations.Fragments : Prop :=
  (∀ (s : State) (k : LinkNo) (id : Fin 65536) (count : Byte) (pay : List Byte) (cyc : Cyc),
    (s.linkHears k = true → (s.link k).rx = none → (s.link k).lastDone = none → pay ≠ [] → pay.length ≤ 240 →
      (1 < count.toNat → count.toNat ≤ 35 →
        Runs (.fragmentReceived k 0 id 0 count pay cyc) s (fun t =>
          (t.link k).rx = some { id := id, count := count.toNat, parts := [(0, pay)] } ∧
          (t.link k).ackDue = some (id.val, 1, 0) ∧ s.tick < (t.link k).ackEdge ∧ (t.link k).inbox = (s.link k).inbox ∧
          t.assocs = s.assocs ∧ s.regsBut t [])) ∧
      (count = 1 → byteAt pay 0 = 1 →
        Runs (.fragmentReceived k 0 id 0 count pay cyc) s (fun t => (t.link k).rx = none ∧ (t.link k).lastDone = some id.val ∧
          (t.link k).inbox = (s.link k).inbox ++ [pay] ∧ (t.link k).ackDue = some (id.val, 1, 0) ∧ s.regsBut t []))) ∧
    (∀ index : Byte, s.linkHears k = true → (s.link k).lastDone = some id.val → (s.link k).ackHold ≠ some id.val →
      Runs (.fragmentReceived k 0 id index count pay cyc) s (fun t => (t.link k).inbox = (s.link k).inbox ∧
        (t.link k).rx = (s.link k).rx ∧ (t.link k).ackDue = some (id.val, count.toNat, 0) ∧ s.regsBut t [])) ∧
    (∀ kind index : Byte, (s.linkHears k = false ∨ 1 < kind.toNat) →
      Runs (.fragmentReceived k kind id index count pay cyc) s (fun t => t.kindle = s.kindle ∧ s.regsBut t []))) ∧
  (∀ (s : State) (k : LinkNo),
    (∀ (id : Fin 65536) (base map : Byte) (cyc : Cyc), s.linkHears k = true → (s.link k).nextMsgId ≠ id.val →
      Runs (.ackReceived k id base map cyc) s (fun t => t.kindle = s.kindle ∧ s.regsBut t [])) ∧
    (∀ (id : Fin 65536) (map : Byte) (cyc : Cyc) (m : OutMsg) (f : TxFrag) (x : Session),
      s.linkHears k = true → (s.link k).nextMsgId = id.val → (s.link k).outQ = [m] → (s.link k).frags = [f] → 0 < f.sends →
      (s.link k).par = none → (s.link k).cur = some x → m.session = some x.idx → byteAt m.bytes 0 = 4 →
      Runs (.ackReceived k id 1 map cyc) s (fun t => (t.link k).outQ = [] ∧ (t.link k).frags = [] ∧
        (t.link k).nextMsgId = (id.val + 1) % 65536 ∧ (t.link k).cur = some { x with ownConfirmed := true } ∧
        s.regsBut t [])) ∧
    (∀ id base map, (s.link k).ackDue = some (id, base, map) → s.linkSends k = true → s.portSends (s.linkPort k) = true →
      ((s.link k).ackEdge ≤ s.tick →
        Runs (.ackSend k) s (fun t => s.sends t (s.onWire k (ackFragment id base map)) ∧
          (t.link k).ackDue = none ∧ (t.link k).ackEdge = s.tick + 1 ∧ s.regsBut t [])) ∧
      (s.tick < (s.link k).ackEdge → Runs (.ackSend k) s (fun t => t.kindle = s.kindle ∧ s.regsBut t []))) ∧
    (s.linkSends k = false → Runs (.ackSend k) s (fun t => t.kindle = s.kindle ∧ t.out = s.out ∧ s.regsBut t []) ∧
      (∀ i : Fin 35, Runs (.fragmentRetransmit k i) s (fun t => t.kindle = s.kindle ∧ t.out = s.out ∧ s.regsBut t []))) ∧
    (∀ (i : Fin 35) (m : OutMsg) (f : TxFrag), s.linkSends k = true → s.portSends (s.linkPort k) = true →
      (s.link k).outQ.head? = some m → (s.link k).frags[i.val]? = some f → f.acked = false → 0 < f.sends →
      f.sends < s.retxTries → s.fragOver f = true →
      Runs (.fragmentRetransmit k i) s (fun t => s.regsBut t [] ∧
        (t.link k).frags = (s.link k).frags.set i { f with sends := f.sends + 1, edge := s.tick + 1 } ∧
        s.sends t (s.onWire k (dataFragment (s.link k).nextMsgId i (s.link k).frags.length
          (slice m.bytes (240 * i) (min 240 (m.bytes.length - 240 * i))))))))

/-- R237, R255: a fragment whose sends are used up, or a message that has taken too long, fails its message; the
handshake that it belongs to fails with TIMEOUT and its link holds off. So does a handshake that stays in one state
too long. R243, R272, R273, R279, R281, R282: the timers of a LIVE session: a KEEPALIVE is sent; a silent peer is
told; a REKEY is begun; a re-authentication is asked for once; a proposal, or a REKEY, that is not answered fails and
is begun again while the limit of failures is not reached; a ROLL_DONE that never comes completes the rollover. What
the rules leave open here is the model's choice: log entries 2 and 38. -/
def Obligations.KindleTimers : Prop :=
  (∀ (s : State) (k : LinkNo) (x : Session), (s.link k).cur = some x → (s.link k).par = none → x.st ≠ .live →
    (∀ (i : Fin 35) (m : OutMsg) (f : TxFrag), (s.link k).outQ = [m] → m.session = some x.idx →
      (s.link k).frags[i.val]? = some f → f.acked = false → s.retxTries ≤ f.sends → s.fragOver f = true →
      Runs (.fragmentRetriesExhausted k i) s (fun t => s.fails t k 5 ∧ t.evt F.kdlEvtMsgFailed = 1 ∧ t.assocs = s.assocs)) ∧
    (∀ m : OutMsg, (s.link k).outQ = [m] → m.session = some x.idx → (s.link k).frags ≠ [] →
      (s.link k).txFrom + s.msgTimeout ≤ s.tick →
      Runs (.messageTimeout k) s (fun t => s.fails t k 5 ∧ t.evt F.kdlEvtMsgFailed = 1)) ∧
    (x.entered = true → x.since + s.msgTimeout ≤ s.tick →
      Runs (.stateTimeout k false) s (fun t => s.fails t k 5)) ∧
    (s.tick < x.since + s.msgTimeout → Runs (.stateTimeout k false) s (fun t => t.kindle = s.kindle ∧ s.regsBut t []))) ∧
  (∀ (s : State) (k : LinkNo) (x : Session), (s.link k).cur = some x → x.st = .live → s.kdlRuns = true → s.linkOn k = true →
    (x.goal ≠ some .rekeyAdopt → x.lastSent + s.keepaliveTicks ≤ s.tick →
      Runs (.keepaliveTimer k) s (fun t => (t.link k).cur =
        some { x with keepOut := x.keepOut + 1, seqOut := x.seqOut + 1, lastSent := s.tick } ∧
        (t.link k).outQ = (s.link k).outQ ++ [{ session := some x.idx, bytes := x.tagged 10 x.epoch (beBytes 8 x.keepOut) }])) ∧
    (s.rd F.kdlLinkCfgStart 0 k = 0 → (s.link k).peerSilent = false →
      x.lastHeard + max 1 (s.rd F.kdlLinkRollCfgSilenceMult 0 k) * s.keepaliveTicks ≤ s.tick →
      Runs (.peerSilent k) s (fun t => (t.link k).peerSilent = true ∧ t.evt F.kdlRollEvtPeerSilent = 1 ∧ s.regsBut t [] ∧
        (t.link k).cur = some x)) ∧
    (∀ n, x.interval (s.rd F.kdlTmr1RekeyLog2) 16 40 = some n → (s.link k).quiet = true → x.oldSecret = [] →
      x.rekeyFrom + n ≤ s.tick →
      Runs (.rekeyTimer k) s (fun t => (t.link k).wantRekey = false ∧ s.regsBut t [] ∧
        (t.link k).cur = some { x with ops := [.keygen], goal := some .rekeyRequest } ∧
        .session k.val false ∈ t.kindle.lattice)) ∧
    (∀ n, x.interval (s.rd F.kdlTmr1ReauthLog2) 20 48 = some n → x.reauthed = false → x.liveAt + n ≤ s.tick →
      Runs (.reauthTimer k) s (fun t => (t.link k).cur = some { x with reauthed := true } ∧ s.regsBut t [] ∧
        ((s.link k).par = none → (t.link k).par.isSome = true ∨ (t.link k).waitsCtx = true))) ∧
    (∀ r : Roll, (s.link k).roll = some r → r.proposer = true → r.stage = .proposed → r.since + s.rollTimeout ≤ s.tick →
      r.rolled = [] → s.rd F.kdlLinkRollCfgFailLimit 0 k = 0 →
      Runs (.rollTimeout k) s (fun t => (t.link k).roll = some { r with since := s.tick } ∧
        (t.link k).fails = min 15 ((s.link k).fails + 1) ∧ (t.link k).outQ.length = (s.link k).outQ.length + 1 ∧
        t.evt F.kdlRollEvtRollFailed = 1)) ∧
    (∀ e, (s.link k).rekeySince = some e → e + s.rollTimeout ≤ s.tick → s.rd F.kdlLinkRollCfgFailLimit 0 k = 0 →
      Runs (.rekeyTimeout k) s (fun t => (t.link k).rekeySince = none ∧ (t.link k).fails = min 15 ((s.link k).fails + 1) ∧
        (t.link k).cur = some { x with ops := [.keygen], goal := some .rekeyRequest })) ∧
    (∀ r : Roll, (s.link k).roll = some r → (r.stage = .switched ∨ r.stage = .ended) → r.peerDone = false →
      r.switchDue + s.rollTimeout ≤ s.tick →
      Runs (.doneMissing k) s (fun t => (t.link k).roll = none ∧ t.evt F.kdlRollEvtDoneMissing = 1 ∧
        t.assocs = s.assocs ∧ s.regsBut t [])))

/-- R255: the handshake messages of a link whose only session is the current one. An OFFER that is ill formed is
refused with reason 7; one that passes every check opens a session as responder. An ANSWER and a PROOF that are ill
formed fail the session with reason 7, and ones that pass set it to its next lattice operations. A CONFIRM with a
wrong tag fails it with reason 6; the right one has the keys installed at the next edge. Whether a key is well formed
and what a tag is are uninterpreted cryptography, so they stand in the conclusions. R251, R257, R259, R262: a
session's lattice operation delivers; the keys whose time is up are staged; a staged association is installed at the
edge after the peer's CONFIRM, with the session's epoch in phase 0 and its numbers begun; and the session becomes
LIVE, at an edge, once both sides have confirmed and the install is done, its association with it. What the rules
leave open here is the model's choice: log entries 4, 19, 38 and 56. -/
def Obligations.Handshakes : Prop :=
  (∀ (s : State) (k : LinkNo) (m : List Byte) (rest : List (List Byte)), (s.link k).inbox = m :: rest → (s.link k).par = none →
    s.kdlRuns = true →
    (byteAt m 0 = 1 → (s.link k).cur = none → (s.link k).holdUntil = none →
      Runs (.offer k) s (fun t =>
        (offerOk m = false → (t.link k).inbox = rest ∧ s.fails t k 7) ∧
        (∀ r, offerOk m = true → s.helloCheck k m = .fail r → s.fails t k r) ∧
        (∀ u, offerOk m = true → s.helloCheck k m = .pass →
          (s.modLink k (fun l => { l with inbox := rest })).acceptIdentity k (slice m 1736 2664) (slice m 104 64) = (u, .pass) →
          s.freeContext.isSome = true →
          (t.link k).inbox = rest ∧ (t.link k).peerHash = slice m 104 64 ∧
          (t.link k).cur.map (fun x => (x.st, x.initiator, x.offer, x.ops, x.goal)) =
            some (.answered, false, m, [.keygen, .encaps], some .sendAnswer)))) ∧
    (∀ x : Session, (s.link k).cur = some x → slice x.id 0 8 = slice m 8 8 → x.ops = [] →
      (byteAt m 0 = 2 → x.st = .offered →
        Runs (.answer k) s (fun t => (t.link k).inbox = rest ∧ t.assocs = s.assocs ∧
          ((sizeOk m 3304 && Config.kemKeyOk (slice m 168 1568)) = false → s.fails t k 7) ∧
          ((sizeOk m 3304 && Config.kemKeyOk (slice m 168 1568)) = true → s.helloCheck k m = .pass →
            (t.link k).cur = some { x with answer := m, seqIn := beAt m 24 4 + 1, peerEpoch := beAt m 16 4
                                           epoch := max x.ownEpoch (beAt m 16 4), ops := [.decaps, .encaps, .sign]
                                           goal := some .sendProofI }))) ∧
      (byteAt m 0 = 3 → x.st = .answered → x.initiator = false →
        Runs (.proof k) s (fun t => (t.link k).inbox = rest ∧ t.assocs = s.assocs ∧
          (if sizeOk m 6235 = true ∧ beAt m 32 2 = 1568 ∧ beAt m 34 2 = 0 then
            (t.link k).cur = some { x with proofI := m, seqIn := beAt m 24 4 + 1, ops := [.verify, .decaps, .sign]
                                           goal := some .sendProofR }
          else s.fails t k 7))) ∧
      (byteAt m 0 = 4 → x.st = .confirming → sizeOk m 96 = true →
        Runs (.confirm k) s (fun t => (t.link k).inbox = rest ∧ t.assocs = s.assocs ∧
          (if slice m 32 64 = slice (x.confirmTag (!x.initiator)) 0 64 then
            (t.link k).cur = some { x with peerConfirmed := true, seqIn := beAt m 24 4 + 1 } ∧
              (t.link k).installAt = some (s.tick + 1)
          else s.fails t k 6))))) ∧
  (∀ (s : State) (k : LinkNo) (x : Session), (s.link k).cur = some x → (s.link k).par = none →
    (∀ op rest, x.ops = .keygen :: op :: rest → .session k.val false ∈ s.kindle.lattice.take 4 →
      Runs (.latticeOpDone (some k) false) s (fun t => s.regsBut t [] ∧ t.vault.drbg = (s.draw 64).1.vault.drbg ∧
        (t.link k).cur = some { x with ops := op :: rest
                                       ek := (Config.kemKeys (s.draw 64).2).1
                                       dk := (Config.kemKeys (s.draw 64).2).2 })) ∧
    (x.ops = [.keygen] → x.goal = some .sendOffer → .session k.val false ∈ s.kindle.lattice.take 4 →
      Runs (.latticeOpDone (some k) false) s (fun t => s.regsBut t [] ∧ .session k.val false ∉ t.kindle.lattice ∧
        (t.link k).cur.map (fun y => (y.st, y.ops, y.ownEpoch, y.since, y.seqOut)) =
          some (.offered, [], s.proposal k, s.tick, x.seqOut + 1) ∧
        (t.link k).outQ.length = (s.link k).outQ.length + 1)) ∧
    (∀ (a : Nat) (e : Nat), x.toStage = [a] → x.stageAt = some e → e ≤ s.tick + 1 → (s.link k).roll = none →
      (s.asn a).state = .kindling →
      Runs (.keyDeriveDone k) s (fun t => (t.asn a).ph0.key = (workingKey x.secret (s.asn a).peerIndex x.epoch).1 ∧
        (t.asn a).ph0.salt = (workingKey x.secret (s.asn a).peerIndex x.epoch).2 ∧ (t.asn a).ph0.valid = false ∧
        (t.link k).cur.map (fun y => (y.toStage, y.stageAt)) = some ([], none) ∧ s.regsBut t [])) ∧
    (∀ (a : Nat) (e : Nat), (s.link k).installAt = some e → e ≤ s.tick → x.staged = [a] → (s.asn a).state = .kindling →
      (s.asn a).mayInstall x.epoch = true → (s.link k).ackHold = none →
      Runs (.phase0Install k) s (fun t => (t.asn a).ph0.valid = true ∧ (t.asn a).ph0.epoch = x.epoch ∧
        (t.asn a).ph0.key = (s.asn a).ph0.key ∧ (t.asn a).ph0.salt = (s.asn a).ph0.salt ∧ (t.asn a).txPhase = false ∧
        (t.asn a).nextPn = (if (s.asn a).otn then 0 else 1) ∧ (t.asn a).pnMark = 2 ^ 24 ∧ (t.asn a).state = .kindling ∧
        (t.asn a).session = x.idx ∧ (t.link k).installAt = none ∧ (t.link k).epoch = x.epoch ∧
        (t.link k).highMark = max (s.link k).highMark x.epoch ∧
        (t.link k).cur = some { x with installed := true, staged := [] })) ∧
    (s.cycle ≠ 0 → Runs (.sessionLive k) s (fun t => t.kindle = s.kindle ∧ t.assocs = s.assocs ∧ s.regsBut t [])) ∧
    (x.mayLive = true → s.asnListed = [] → s.cycle = 0 →
      Runs (.sessionLive k) s (fun t => (t.link k).holdK = 0 ∧ t.evt F.kdlEvtSessionLive = 1 ∧ s.regsBut t [] ∧
        (t.link k).cur = some { x with st := .live, since := s.tick, liveAt := s.tick, rekeyFrom := s.tick
                                       lastHeard := s.tick, lastSent := s.tick })) ∧
    (∀ a, x.st = .live → s.asnListed = [a] → (s.asn a).state = .kindling → (s.asn a).ph0.valid = true →
      s.linkOfPort (s.asn a).port = some k.val → (s.asn a).session = x.idx → s.pagesLive (s.asn a).port = true →
      s.refusesLive (s.asn a).port = false → s.cycle = 0 →
      Runs (.sessionLive k) s (fun t => t.asn a = { s.asn a with state := .live } ∧ t.kindle = s.kindle ∧ s.regsBut t [])))

/-- R266, R268, R273, R280, R283: the control messages of a link's LIVE session that pass the checks of R280. A
ROLL_PROPOSE of a higher epoch makes this side the follower; a ROLL_READY for the held target schedules the switch one
edge later on Ethernet and 20 on OTN; a ROLL_DONE completes a rollover that has ended here; a REKEY request and its
response set the session to its lattice operation; a KEEPALIVE is counted; an ABORT ends the session. What the rules
leave open here is the model's choice: log entry 38. -/
def Obligations.ControlMessages : Prop :=
  ∀ (s : State) (k : LinkNo) (m : List Byte) (rest : List (List Byte)) (x : Session),
    (s.link k).inbox = m :: rest → x.st = .live → s.kdlRuns = true →
    (byteAt m 0 = 5 → s.genuine k m rest 112 x → (s.link k).epoch < beAt m 32 4 → (s.link k).roll = none →
      Runs (.rollPropose k) s (fun t => (t.link k).inbox = rest ∧
        (t.link k).roll.map (fun r => (r.proposer, r.target, r.stage, r.peerCount)) =
          some (false, beAt m 32 4, .keying, beAt m 36 4) ∧
        (t.link k).cur.map (fun y => (y.seqIn, y.lastHeard)) = some (beAt m 24 4 + 1, s.tick))) ∧
    (∀ r : Roll, byteAt m 0 = 6 → s.genuine k m rest 112 x → (s.link k).roll = some r → r.proposer = true →
      r.target = beAt m 32 4 → r.stage = .proposed →
      Runs (.rollReady k) s (fun t => (t.link k).inbox = rest ∧ (t.link k).ackHold = none ∧
        (t.link k).roll = some { r with stage := .scheduled
                                        switchAt := some (s.tick + if s.portOtn (s.linkPort k) then 20 else 1) } ∧
        t.assocs = s.assocs)) ∧
    (∀ r : Roll, byteAt m 0 = 7 → s.genuine k m rest 112 x → (s.link k).roll = some r → r.stage = .ended → r.doneSent = true →
      beAt m 32 4 = (s.link k).epoch →
      Runs (.rollDone k) s (fun t => (t.link k).inbox = rest ∧ (t.link k).roll = none ∧
        (t.link k).rollsDone = min 65535 ((s.link k).rollsDone + 1) ∧ t.assocs = s.assocs)) ∧
    (byteAt m 0 = 8 → byteAt m 32 = 0 → s.genuine k m rest 1704 x → (s.link k).rekeySince = none → x.goal = none →
      Runs (.rekeyRequest k) s (fun t => (t.link k).inbox = rest ∧ t.assocs = s.assocs ∧
        (Config.kemKeyOk (slice m 72 1568) = true →
          (t.link k).cur.map (fun y => (y.ops, y.goal, y.rekeyMsg, y.pending)) = some ([.encaps], some .rekeyResponse, m, none)) ∧
        (Config.kemKeyOk (slice m 72 1568) = false → (t.link k).cur = (s.link k).cur))) ∧
    (byteAt m 0 = 8 → byteAt m 32 = 1 → s.genuine k m rest 1704 x → (s.link k).rekeySince.isSome = true → x.goal = none →
      Runs (.rekeyResponse k) s (fun t => (t.link k).inbox = rest ∧ t.assocs = s.assocs ∧
        (t.link k).cur.map (fun y => (y.ops, y.goal, y.rekeyResp, y.gen)) = some ([.decaps], some .rekeyAdopt, m, x.gen + 1) ∧
        (t.link k).rekeySince = none)) ∧
    (byteAt m 0 = 10 → s.genuine k m rest 104 x → x.keepIn ≤ beAt m 32 8 →
      Runs (.keepalive k) s (fun t => (t.link k).inbox = rest ∧ t.assocs = s.assocs ∧
        (t.link k).cur = some { x with seqIn := beAt m 24 4 + 1, lastHeard := s.tick, keepIn := beAt m 32 8 + 1 })) ∧
    (byteAt m 0 = 9 → s.genuine k m rest 104 x (untagged := true) →
      Runs (.abort k) s (fun t => (t.link k).cur = none ∧ (t.link k).par = none ∧ (t.link k).lastReason = byteAt m 32 ∧
        (t.link k).holdUntil = some (s.tick + s.holdoffTicks (s.link k).holdK) ∧ t.evt F.kdlEvtAbortRcvd = 1 ∧
        t.assocs = s.assocs))

/-! ### The key vault (R291 to R318) -/

/-- R302: a command is judged by the checks of R302 in their order; one that fails ends at once with the number of the
check and changes no slot. One that lands while another runs is lost. What the rules leave open here is the model's
choice: log entry 31. -/
def Obligations.VaultCommandsRefused : Prop :=
  ∀ (s : State) (v w : SlotNo) (pass : Bool) (cyc : Cyc), s.ready .kvt = true →
    (s.rd F.kvtStatBusy = 0 →
      (∀ c ∈ [(Instr.generate v cyc, s.vaultCapture 1 v 0), (.derive v w cyc, s.vaultCapture 2 v w),
          (.importWrapped v w cyc, s.vaultCapture 3 v w), (.exportWrapped v w cyc, s.vaultCapture 4 v w),
          (.delete v cyc, s.vaultCapture 5 v 0), (.attest v cyc, s.vaultCapture 6 v 0), (.readCert cyc, s.vaultCapture 7 1 0),
          (.kcv v cyc, s.vaultCapture 8 v 0), (.esRestart pass cyc, s.vaultCapture 9 1 0), (.scrub cyc, s.vaultCapture 10 1 0),
          (.identityGen v cyc, s.vaultCapture 11 v 0)],
        s.vaultCheck c.2 ≠ 0 →
        Runs c.1 s (fun t => t.rd F.kvtStatResult = s.vaultCheck c.2 ∧ t.rd F.kvtStatBusy = 0 ∧ t.vault.slots = s.vault.slots ∧
          t.vault.cmd = none ∧ t.sched = s.sched ∧ t.assocs = s.assocs)) ∧
      (s.mode ≠ 9 → s.mode ≠ 10 →
        Runs (.kvtUnknownOp cyc) s (fun t => t.rd F.kvtStatResult = 11 ∧ t.rd F.kvtStatBusy = 0 ∧
          t.vault = { s.vault with cmd := none } ∧ s.regsBut t [keyOf F.kvtStatBusy]))) ∧
    (s.rd F.kvtStatBusy = 1 →
      ∀ c ∈ [Instr.generate v cyc, .derive v w cyc, .importWrapped v w cyc, .exportWrapped v w cyc, .delete v cyc, .attest v cyc,
          .readCert cyc, .kcv v cyc, .esRestart pass cyc, .scrub cyc, .identityGen v cyc, .kvtUnknownOp cyc],
        Runs c s (fun t => t.rd F.kvtStatCmdLost = 1 ∧ t.vault = s.vault ∧ t.sched = s.sched ∧
          s.regsBut t [keyOf F.kvtStatCmdLost]))

/-- R302, R304, R305, R313: the commands that write a slot, once their checks and the use of their parent are passed:
the slot's new image is being committed. GENERATE and IDENTITY_GEN draw their material from the DRBG, reseeded for it
(R315); DERIVE takes it from its parent, IMPORT_WRAPPED from its unwrapped blob, which fails the command where the
blob is not whole or names a type that the host may not import. What the rules leave open here is the model's choice:
log entries 4, 5 and 31. -/
def Obligations.VaultCommandsCommit : Prop :=
  ∀ (s : State) (v w : SlotNo) (cyc : Cyc), s.ready .kvt = true → s.rd F.kvtStatBusy = 0 →
    (∀ c, c = s.vaultCapture 1 v 0 → s.vaultCheck c = 0 →
      Runs (.generate v cyc) s (fun t => t.rd F.kvtStatBusy = 1 ∧ t.vault.slots = s.vault.slots ∧
        t.vault.drbg = (s.drawBytes (if c.long then 64 else 32)).1.vault.drbg ∧ t.vault.cmd = some (c.makes
          { present := true, type := c.type, hostUse := c.hostUse, expires := c.expires, long := c.long, uses := c.uses
            generation := (s.slot v).generation + 1
            material := (s.drawBytes (if c.long then 64 else 32)).2 }))) ∧
    (∀ c, c = s.vaultCapture 11 v 0 → s.vaultCheck c = 0 →
      Runs (.identityGen v cyc) s (fun t => t.rd F.kvtStatBusy = 1 ∧ t.vault.slots = s.vault.slots ∧
        t.vault.drbg = (s.drawBytes 32).1.vault.drbg ∧ t.vault.cmd = some (c.makes
          { present := true, type := 2, uses := usesUnlimited, generation := (s.slot v).generation + 1
            material := (s.drawBytes 32).2 }))) ∧
    (∀ c, c = s.vaultCapture 2 v w → s.vaultCheck c = 0 → (s.takeUse w).2 = .granted →
      Runs (.derive v w cyc) s (fun t => t.rd F.kvtStatBusy = 1 ∧ t.vault.cmd = some (c.makes
        { present := true, type := c.type, imported := (s.slot w).imported, hostUse := c.hostUse
          expires := c.expires || (s.slot w).expires, long := c.long, depth := (s.slot w).depth + 1, parent := some w.val
          uses := c.uses, generation := (s.slot v).generation + 1
          material := kdf (s.slot w).key "heserok derive" (beBytes 2 v ++ c.data.take c.ctxLen)
            (8 * if c.long then 64 else 32) }))) ∧
    (∀ c, c = s.vaultCapture 3 v w → s.vaultCheck c = 0 → (s.takeUse w).2 = .granted →
      Runs (.importWrapped v w cyc) s (fun t =>
        (kwpUnwrap (s.slot w).aesKey c.data = none → t.rd F.kvtStatBusy = 0 ∧ t.rd F.kvtStatResult = 6 ∧
          t.vault.cmd = none) ∧
        (∀ p, kwpUnwrap (s.slot w).aesKey c.data = some p →
          if (byteAt p 0 % 16 = 3 ∨ byteAt p 0 % 16 = 4 ∨ byteAt p 0 % 16 = 5) ∧
              p.length = (if bit (byteAt p 1) 4 then 80 else 48) ∧ beAt p 4 4 ≠ 0 then
            t.rd F.kvtStatBusy = 1 ∧ t.vault.cmd = some (c.makes
              { present := true, type := byteAt p 0 % 16, imported := true, exportable := bit (byteAt p 1) 1
                expires := bit (byteAt p 1) 2, hostUse := bit (byteAt p 1) 3, long := bit (byteAt p 1) 4, uses := beAt p 4 4
                generation := (s.slot v).generation + 1, material := p.drop 16 })
          else t.rd F.kvtStatBusy = 0 ∧ t.rd F.kvtStatResult = 4 ∧ t.vault.cmd = none))) ∧
    (∀ (arg uses : Word) (data : List Byte) (c : VaultCmd), s.rd F.ofcStatSession = 1 →
      c = { op := 12, slot := v, officer := true, type := getF arg 0 4, long := getF arg 4 1 = 1
            hostUse := getF arg 5 1 = 1, expires := getF arg 6 1 = 1, exportable := getF arg 7 1 = 1
            uses := uses.toNat, data := data } →
      s.vaultCheck c = 0 →
      Runs (.importSlot v arg uses data cyc) s (fun t => t.rd F.kvtStatBusy = 1 ∧ t.vault.slots = s.vault.slots ∧
        t.vault.cmd = some (c.makes
          { present := true, type := c.type, imported := true, exportable := c.exportable, expires := c.expires
            hostUse := c.hostUse, long := c.long, uses := c.uses, generation := (s.slot v).generation + 1
            material := data }))) ∧
    (∀ (arg uses : Word) (data : List Byte), s.rd F.ofcStatSession = 0 → s.mode ≠ 9 → s.mode ≠ 10 →
      Runs (.importSlot v arg uses data cyc) s (fun t => t.rd F.kvtStatResult = 2 ∧ t.vault.slots = s.vault.slots ∧
        t.vault.cmd = none))

/-- R303, R304, R311 to R313, R316: the commands that answer at once, or wait for their edge. R295, R299, R303, R312,
R314: a commit puts the image into its slot with its tag, or, with NV writes inhibited, leaves the slot; a reservation
moves uses into the stock; the scrub, OTP and attestation timers. What the rules leave open here is the model's
choice: log entries 2, 31 and 57. -/
def Obligations.VaultCommandsAnswer : Prop :=
  (∀ (s : State) (v w : SlotNo) (cyc : Cyc), s.ready .kvt = true → s.rd F.kvtStatBusy = 0 →
    (s.vaultCheck (s.vaultCapture 5 v 0) = 0 →
      Runs (.delete v cyc) s (fun t => s.plans t (.slotDelete v) cyc ∧ t.rd F.kvtStatResult = 1 ∧ t.rd F.kvtStatBusy = 0 ∧
        t.vault.slots = s.vault.slots ∧ s.regsBut t [keyOf F.kvtStatBusy])) ∧
    (s.vaultCheck (s.vaultCapture 8 v 0) = 0 →
      Runs (.kcv v cyc) s (fun t => t.rd F.kvtStatResult = 0 ∧ t.rd F.kvtStatOutLen = (s.slot v).kcv.length % 65536 ∧
        t.vault.slots = s.vault.slots ∧ t.sched = s.sched)) ∧
    (s.vaultCheck (s.vaultCapture 7 1 0) = 0 →
      Runs (.readCert cyc) s (fun t => t.vault.slots = s.vault.slots ∧ t.rd F.kvtStatBusy = 0 ∧
        if s.ready .hst then t.rd F.kvtStatResult = 0 ∧
          s.sends t (.hostWrite (s.rd F.kvtDmaHiAddrHi * 2 ^ 32 + s.rd F.kvtDmaLoAddrLo) s.vault.cert)
        else t.rd F.kvtStatResult = 12 ∧ t.out = s.out)) ∧
    (s.vaultCheck (s.vaultCapture 4 v w) = 0 → (s.takeUse w).2 = .granted →
      Runs (.exportWrapped v w cyc) s (fun t => t.rd F.kvtStatResult = 0 ∧ t.rd F.kvtStatBusy = 0 ∧ t.vault.cmd = none)) ∧
    (∀ c, c = s.vaultCapture 6 v 0 → s.vaultCheck c = 0 → (s.takeUse 0).2 = .granted →
      Runs (.attest v cyc) s (fun t => t.rd F.kvtStatBusy = 1 ∧ LatUser.attest ∈ t.kindle.lattice ∧
        t.vault.cmd.map (fun x => (x.op, x.slot, x.began, x.waits)) = some (6, v.val, s.tick, none))) ∧
    (s.vaultCheck (s.vaultCapture 9 1 0) = 0 →
      Runs (.esRestart true cyc) s (fun t => t.rd F.kvtDrbgEsOk = 1 ∧ t.rd F.kvtStatResult = 0 ∧
        t.sched = s.sched ++ [{ due := s.tick + 1, held := false, act := .reseedAll }]) ∧
      Runs (.esRestart false cyc) s (fun t => t.rd F.kvtDrbgEsOk = 0 ∧ t.rd F.kvtStatResult = 10 ∧
        t.sched = s.sched)) ∧
    (s.vaultCheck (s.vaultCapture 10 1 0) = 0 →
      Runs (.scrub cyc) s (fun t => t.rd F.kvtStatResult = 0 ∧
        (∀ u, s.tagOk u = true → t.slot u = s.slot u) ∧
        (∀ u, s.tagOk u = false → (t.slot u).bad = true ∧ (t.slot u).key = (if (s.slot u).bad then (s.slot u).key else []))))) ∧
  (∀ s : State,
    (∀ c x, s.vault.cmd = some c → c.image = some x → c.op ≠ 11 → c.officer = false → s.vault.officerWaits = [] →
      (s.nvInhibited = false →
        Runs .vaultCommitDone s (fun t => t.slot c.slot = { x with tag := x.tagFor s.vault.kint c.slot } ∧
          (∀ u, u ≠ c.slot → t.slot u = s.slot u) ∧ t.rd F.kvtStatBusy = 0 ∧ t.rd F.kvtStatResult = 0 ∧
          t.sched = s.sched ++ [{ due := s.tick + 1, held := false, act := .slotUsable c.slot false }] ∧ t.vault.cmd = none)) ∧
      (s.nvInhibited = true →
        Runs .vaultCommitDone s (fun t => t.vault.slots = s.vault.slots ∧ t.rd F.kvtStatBusy = 0 ∧ t.rd F.kvtStatResult = 9 ∧
          t.sched = s.sched ∧ t.vault.cmd = none))) ∧
    (∀ (v : SlotNo) (r : Nat), s.vault.reserving.find? (fun e => e.1 = v.val) = some (v.val, r) → s.nvInhibited = false →
      (s.slot v).present = true → s.vault.cmd = none →
      Runs (.useReservation v) s (fun t => (t.slot v).uses = (s.slot v).uses - r ∧ (t.slot v).stock = (s.slot v).stock + r ∧
        (t.slot v).generation = (s.slot v).generation + 1 ∧
        (t.slot v).material = (s.slot v).material ∧ (∀ u, u ≠ v.val → t.slot u = s.slot u) ∧ t.tagOk v = true ∧
        t.vault.reserving = s.vault.reserving.filter (fun e => e.1 ≠ v.val) ∧ s.regsBut t [])) ∧
    (s.ready .kvt = true → s.rd F.kvtScrubScrubLog2 ≠ 0 → s.tick % 2 ^ max 12 (min 24 (s.rd F.kvtScrubScrubLog2)) = 0 →
      Runs .scrubTimer s (fun t => (∀ u, s.tagOk u = true → t.slot u = s.slot u) ∧
        (∀ u, s.tagOk u = false → (t.slot u).bad = true) ∧ s.regsBut t [])) ∧
    (s.rd F.kvtScrubScrubLog2 = 0 → Runs .scrubTimer s (fun t => t.vault = s.vault ∧ s.regsBut t [])) ∧
    (∀ (target : Byte) (cyc : Cyc), s.ready .kvt = true → s.rd F.kvtOtpRollback ≤ target.toNat →
      target.toNat ≤ s.rd F.devBootVersion / 256 → s.nvInhibited = false → s.rd F.kvtOtpBusy = 0 →
      Runs (.otpAdvance target 0x3C cyc) s (fun t => t.rd F.kvtOtpBusy = 1 ∧ t.vault.otpRun = some (target.toNat, s.tick) ∧
        t.rd F.kvtOtpRollback = s.rd F.kvtOtpRollback ∧ s.regsBut t [keyOf F.kvtOtpBusy])) ∧
    (∀ (target guard : Byte) (cyc : Cyc), s.ready .kvt = true →
      (guard ≠ 0x3C ∨ target.toNat < s.rd F.kvtOtpRollback ∨ s.rd F.devBootVersion / 256 < target.toNat ∨ s.nvInhibited = true ∨
        s.rd F.kvtOtpBusy = 1) →
      Runs (.otpAdvance target guard cyc) s (fun t => t.vault = s.vault ∧ s.regsBut t [])) ∧
    (∀ n t0, s.vault.otpRun = some (n, t0) → s.nvInhibited = false → s.tick < t0 + 125 * (n - s.rd F.kvtOtpRollback) →
      Runs .otpDone s (fun t => t.vault = s.vault ∧ s.regsBut t [])) ∧
    (∀ n t0, s.vault.otpRun = some (n, t0) → n < 256 →
      s.nvInhibited = true ∨ t0 + 125 * (n - s.rd F.kvtOtpRollback) ≤ s.tick →
      Runs .otpDone s (fun t =>
        t.rd F.kvtOtpRollback = (if s.nvInhibited then min n (s.rd F.kvtOtpRollback + (s.tick - t0) / 125) else n) ∧ t.rd F.kvtOtpBusy = 0 ∧ t.vault.otpRun = none ∧
        t.evt F.kvtEvtOtpDone = 1)) ∧
    (∀ c, s.vault.cmd = some c → c.op = 6 → c.waits = none → c.officer = false → s.vault.officerWaits = [] →
      (c.began + 64 ≤ s.tick →
        Runs .attestTimeout s (fun t => t.rd F.kvtStatResult = 12 ∧ t.rd F.kvtStatBusy = 0 ∧ t.vault.cmd = none ∧
          LatUser.attest ∉ t.kindle.lattice ∧ t.vault.slots = s.vault.slots)) ∧
      (s.tick < c.began + 64 → Runs .attestTimeout s (fun t => t.vault = s.vault ∧ s.regsBut t [])) ∧
      (LatUser.attest ∈ s.kindle.lattice.take 4 → c.statement ≠ [] →
        Runs (.latticeOpDone none false) s (fun t => t.rd F.kvtStatBusy = 0 ∧ t.vault.cmd = none ∧
          if s.ready .hst then t.rd F.kvtStatResult = 0 ∧
            s.sends t (.hostWrite c.addr (c.statement ++ Config.dsaSign (s.slot 0).key c.statement (ascii "heserok attest")
              (s.draw 32).2))
          else t.rd F.kvtStatResult = 12 ∧ t.out = s.out))))

/-- R311: the key check value of a slot is KMAC256 over the material of its length, and KCV returns it in KVT_DATA;
slot 0 has none, and KCV on slot 0 returns result 3. -/
def Obligations.KeyCheckValues : Prop :=
  ∀ (s : State) (v : SlotNo) (cyc : Cyc), s.ready .kvt = true → s.rd F.kvtStatBusy = 0 →
    (∀ kcv, kcv = slice (Config.kmac256 ((s.slot v).material.take (if (s.slot v).long then 64 else 32))
        (ascii "heserok key check") 256 (ascii "heserok kcv")) 0 32 → s.vaultCheck (s.vaultCapture 8 v 0) = 0 → v.val ≠ 0 →
      Runs (.kcv v cyc) s (fun t => t.rd F.kvtStatResult = 0 ∧ t.rd F.kvtStatOutLen = kcv.length % 65536 ∧
        (∀ j : Nat, j < 32 → ∀ w, (leWords kcv)[j]? = some w → t.word ⟨.kvt, 0x300 + 4 * j, 0, 0⟩ = w) ∧
        t.vault.slots = s.vault.slots)) ∧
    (s.mode ≠ 9 → s.mode ≠ 10 →
      Runs (.kcv 0 cyc) s (fun t => t.rd F.kvtStatResult = 3 ∧ t.vault.slots = s.vault.slots))

/-! ### Sealed external memory (R364 to R384) -/

/-- R367, R368, R370: an enable or a disable of the selected region is refused as a whole or waits for its edge; an
initialised region becomes ready. R376, R378: with a counter at its threshold a sweep starts: fresh keys are drawn,
the keys in force are the old ones, and the epoch rises. It ends once its pointer has passed the last group, and the
old keys are zeroed. What the rules leave open here is the model's choice: log entry 32. -/
def Obligations.Regions : Prop :=
  (∀ (s : State) (w : Word) (r : RegionNo) (cyc : Cyc),
    (s.ready .cxm = true → ∀ c ∈ [(Instr.regionEnable w cyc, w ||| 1), (.regionDisable w cyc, w &&& 0xFFFFFFFE)],
      ∀ k b, k = s.rd F.cxmRselRegion →
        b = ((s.copyOf (keyOf F.cxmRbaseBaseMib 0 k)).map (fun x => getF x 0 20)).getD (s.rd F.cxmRbaseBaseMib 0 k) →
        (s.rcfgRefused k c.2 b = true →
          Runs c.1 s (fun t => t.rd F.cxmRstatCfgRejected 0 k = 1 ∧ t.sched = s.sched ∧ t.regions = s.regions ∧
            s.regsBut t [keyOf F.cxmRstatCfgRejected 0 k])) ∧
        (s.rcfgRefused k c.2 b = false →
          Runs c.1 s (fun t => s.pends t (keyOf F.cxmRcfgEnable 0 k) (c.2 &&& rcfgMask) cyc ∧ t.regions = s.regions ∧
            s.regsBut t []))) ∧
    ((s.region r).state = 1 →
      Runs (.regionReady r) s (fun t => (t.region r).state = 2 ∧ (∀ q, q ≠ r.val → t.region q = s.region q) ∧ s.regsBut t []))) ∧
  (∀ (s : State) (r : RegionNo),
    ((s.region r).state = 2 → (s.region r).due = true → (s.region r).sweep = false →
      Runs (.sweepStart r) s (fun t => t.evt F.cxmEvtSweepStarted = 1 ∧ (∀ q, q ≠ r.val → t.region q = s.region q) ∧
        t.region r = { s.region r with oldEnc := (s.region r).kEnc, oldMac := (s.region r).kMac, due := false, sweep := true
                                       kEnc := keyOfBytes (s.drawBytes 64).2, kMac := keyOfBytes ((s.drawBytes 64).2.drop 32)
                                       epoch := (s.region r).epoch + 1, pointer := 0, early := [], stalled := [], maxc := 0 })) ∧
    ((s.region r).sweep = true → s.groupsOf r ≤ (s.region r).pointer →
      Runs (.sweepDone r) s (fun t => t.evt F.cxmEvtSweepDone = 1 ∧ (∀ q, q ≠ r.val → t.region q = s.region q) ∧
        t.region r = { s.region r with oldEnc := 0, oldMac := 0, sweep := false, pointer := 0, early := [], stalled := [] })))

/-- R374, R375, R380: a line beneath a poisoned scope reads as poison. A line of a sealed region that was never
written reads as zeros; one whose tag holds is deciphered; one whose tag fails, or that comes poisoned, poisons its
scope. A line of a scrambled region is unmixed, whatever it is. R371, R374: a line beyond the data of a region does
not exist: an access to it is a fault of the model's. A region that is disabled or initialising has no consumer. What
the rules leave open here is the model's choice: log entries 4, 32 and 44. -/
def Obligations.SealedLinesAreRead : Prop :=
  (∀ (s : State) (r : RegionNo) (line : Nat) (inp : LineIn), 2 ≤ (s.region r).state → line < s.linesOf r →
    (s.poisoned r line = true →
      Runs (.sealedLineRead r line inp) s (fun t => s.sends t (.line r line none) ∧ t.regions = s.regions ∧ s.regsBut t [])) ∧
    (s.poisoned r line = false → s.scrambled r = true →
      (inp.data = .poison → Runs (.sealedLineRead r line inp) s (fun t => s.sends t (.line r line none) ∧ t.regions = s.regions)) ∧
      (∀ bs, inp.data = .other bs →
        Runs (.sealedLineRead r line inp) s (fun t => t.regions = s.regions ∧
          s.sends t (.line r line (some (Config.unmix (s.region r).kEnc line (slice bs 0 64)))))) ∧
      (∀ e, inp.data = .asWritten → (s.region r).lines.find? (fun e => e.1 = line) = some e →
        Runs (.sealedLineRead r line inp) s (fun t => t.regions = s.regions ∧
          s.sends t (.line r line (some (Config.unmix (s.region r).kEnc line e.2.1))))) ∧
      (inp.data = .asWritten → (s.region r).lines.find? (fun e => e.1 = line) = none →
        Runs (.sealedLineRead r line inp) s (fun t => t.regions = s.regions ∧ t.fresh = s.fresh + 1 ∧
          s.sends t (.line r line (some (Config.unmix (s.region r).kEnc line (beBytes 64 (s.free 512).toNat))))))) ∧
    (s.poisoned r line = false → s.scrambled r = false → ∀ u, s.getLeaf r line inp = (u, true) → ∀ x c n keys a,
      x = u.region r → c = x.ctr 0 line → n = lineNonce false r line c → keys = x.keys (x.lineNew line) →
      a = u.lineAsRead r line inp →
      (c = 0 → Runs (.sealedLineRead r line inp) s (fun t => u.sends t (.line r line (some (List.replicate 64 0))) ∧
        t.regions = u.regions)) ∧
      (c ≠ 0 → inp.data ≠ .poison → inp.tag ≠ .poison →
        Runs (.sealedLineRead r line inp) s (fun t =>
          (a.2 = lineTag keys.2 n a.1 → u.sends t (.line r line (some (lineCrypt keys.1 n a.1))) ∧ t.regions = u.regions) ∧
          (a.2 ≠ lineTag keys.2 n a.1 → .line r line none ∈ t.out.drop u.out.length ∧ t.evt F.cxmEvtIntegrity = 1 ∧
            t.evt F.cxmEvtPoisoned = 1 ∧ t.poisoned r line = true))) ∧
      (c ≠ 0 → (inp.data = .poison ∨ inp.tag = .poison) →
        Runs (.sealedLineRead r line inp) s (fun t => .line r line none ∈ t.out.drop u.out.length ∧
          t.evt F.cxmEvtPoisoned = 1 ∧ t.poisoned r line = true)))) ∧
  (∀ (s : State) (r : RegionNo) (line : Nat) (user : Fin 5) (data : List Byte) (inp : LineIn),
    ∀ c ∈ [Instr.sealedLineRead r line inp, .sealedLineWrite r line user data inp],
      (2 ≤ (s.region r).state → s.linesOf r ≤ line → exec c s = .fault .noSuchLine) ∧
      ((s.region r).state < 2 → Runs c s (fun t => t.regions = s.regions ∧ s.regsBut t [])))

/-- R374, R375, R380: a write raises the line's counter, enciphers and tags it and leaves its leaf dirty; in a
scrambled region it is mixed. A write beneath a poisoned scope, and one whose consumer its region does not serve,
changes nothing there. What the rules leave open here is the model's choice: log entries 4 and 32. -/
def Obligations.SealedLinesAreWritten : Prop :=
  ∀ (s : State) (r : RegionNo) (line : Nat) (user : Fin 5) (data bytes : List Byte) (inp : LineIn),
    2 ≤ (s.region r).state → line < s.linesOf r → bytes = s.lineData user data →
    (s.lineUser r line user = false ∨ s.poisoned r line = true →
      Runs (.sealedLineWrite r line user data inp) s (fun t => t.regions = s.regions)) ∧
    (s.lineUser r line user = true → s.poisoned r line = false → s.scrambled r = true →
      Runs (.sealedLineWrite r line user data inp) s (fun t =>
        nget ([], []) (t.region r).lines line = (Config.mix (s.region r).kEnc line (slice bytes 0 64), []) ∧
        s.sends t (.cxl r 0 line (Config.mix (s.region r).kEnc line (slice bytes 0 64))) ∧
        (∀ j, j ≠ line → nget ([], []) (t.region r).lines j = nget ([], []) (s.region r).lines j) ∧
        (∀ q, q ≠ r.val → t.region q = s.region q))) ∧
    (s.lineUser r line user = true → s.poisoned r line = false → s.scrambled r = false →
      ∀ u v x c n keys ct tag, s.getLeaf r line inp = (u, true) → u.mayWrite r line = (v, true) →
      x = v.region r → c = x.ctr 0 line + 1 → n = lineNonce false r line c → keys = x.keys (x.lineNew line) →
      ct = lineCrypt keys.1 n (slice bytes 0 64) → tag = lineTag keys.2 n ct →
      Runs (.sealedLineWrite r line user data inp) s (fun t => (t.region r).ctr 0 line = c ∧ (t.region r).cache 0 (line / 16) = 2 ∧
        nget ([], []) (t.region r).lines line = (ct, tag) ∧ v.sends t (.cxl r 0 line (ct ++ tag)) ∧
        (∀ j, j ≠ line → (t.region r).ctr 0 j = x.ctr 0 j ∧ nget ([], []) (t.region r).lines j = nget ([], []) x.lines j)))

/-- R364 to R366, R380, R486: the CXL link comes up or fails, which is when its page is ready, once TMP is and the
memories are zeroed; it goes down, which poisons every enabled region whole; the expander's corrected errors are told.
That the page is ready when training ends is the model's choice (log entry 36). R382: a REINIT names a poisoned scope
smaller than a region, else it is refused; once it is done the scope's counters are 0, so that its lines read as
zeros, its guarding counter has risen, and the entry is clear. What the rules leave open here is the model's choice:
log entry 32. -/
def Obligations.LinkAndPoison : Prop :=
  (∀ (s : State),
    (∀ (rate : Fin 4) (width : Fin 17) (cap : Fin 641), s.mode ≠ 0 → s.mode ≠ 1 → s.rd F.cxmLinkState ≠ 2 →
      Runs (.cxlLinkTrained true rate width cap) s (fun t => t.rd F.cxmLinkState = 2 ∧ t.rd F.cxmLinkRate = rate ∧
        t.rd F.cxmLinkWidth = width ∧ t.rd F.cxmLinkCapacityGib = cap ∧ t.pwr.cxlTrained = true ∧
        t.regions = s.regions ∧
        if s.ready .tmp ∧ s.pwr.sramZeroed then
          t.ready .cxm = true ∧ t.on (F.pageDegraded .cxm) = false ∧ t.rd (F.pageCause .cxm) = 0
        else t.ready .cxm = s.ready .cxm) ∧
      Runs (.cxlLinkTrained false rate width cap) s (fun t => t.rd F.cxmLinkState = 0 ∧ t.rd F.cxmLinkCapacityGib = 0 ∧
        t.pwr.cxlTrained = true ∧ t.regions = s.regions ∧
        if s.ready .tmp ∧ s.pwr.sramZeroed then
          t.ready .cxm = true ∧ t.on (F.pageDegraded .cxm) = true ∧ t.rd (F.pageCause .cxm) = 7
        else t.ready .cxm = s.ready .cxm)) ∧
    (s.rd F.cxmLinkState = 2 →
      Runs .cxlLinkDown s (fun t => t.rd F.cxmLinkState = 0 ∧ t.rd F.cxmLinkRate = 0 ∧ t.rd F.cxmLinkWidth = 0 ∧
        t.on (F.pageDegraded .cxm) = true ∧ t.rd (F.pageCause .cxm) = 7 ∧ t.evt F.cxmEvtLinkDown = 1 ∧
        ∀ r, r < 16 → s.regionOn r = true → (t.region r).state = 3)) ∧
    (∀ n : Nat, s.tick % 1024 = 0 → s.rd F.cxmLinkState = 2 → n ≠ 0 →
      Runs (.mediaEventPoll n) s (fun t => t.evt F.cxmEvtCorrected = 1 ∧ t.regions = s.regions))) ∧
  (∀ (s : State) (e : Fin 64) (cyc : Cyc),
    (s.ready .cxm = true → s.on F.cxmCmdStatBusy = false →
      (s.on (F.cxmPoison0Valid.at e 8) = true → s.rd (F.cxmPoison0Scope.at e 8) ≠ 3 →
        Runs (.reinit e cyc) s (fun t => t.rd F.cxmCmdStatBusy = 1 ∧ t.rd F.cxmCmdStatResult = 0 ∧ t.reinit = some e.val ∧
          t.regions = s.regions ∧ s.regsBut t [keyOf F.cxmCmdStatBusy])) ∧
      (s.on (F.cxmPoison0Valid.at e 8) = false ∨ s.rd (F.cxmPoison0Scope.at e 8) = 3 →
        Runs (.reinit e cyc) s (fun t => t.rd F.cxmCmdStatResult = 1 ∧ t.reinit = s.reinit ∧ t.regions = s.regions ∧
          s.regsBut t [keyOf F.cxmCmdStatBusy]))) ∧
    (∀ r level index, s.reinit = some e.val → s.on (F.cxmPoison0Valid.at e 8) = true →
      r = s.rd (F.cxmPoison0Region.at e 8) → level = s.rd (F.cxmPoison0Level.at e 8) →
      index = s.rd (F.cxmPoison1Index.at e 8) + 2 ^ 32 * s.rd (F.cxmPoison0IndexHi.at e 8) →
      Runs .reinitDone s (fun t => t.reinit = none ∧ t.rd F.cxmCmdStatBusy = 0 ∧ t.rd F.cxmCmdStatResult = 0 ∧
        t.on (F.cxmPoison0Valid.at e 8) = false ∧ (∀ q, q ≠ r → t.region q = s.region q) ∧
        (s.rd (F.cxmPoison0Scope.at e 8) = 2 → (t.region r).ctr (level + 1) index = (s.region r).ctr (level + 1) index + 1 ∧
          ∀ j, j < 2 ^ 40 → j / 16 ^ (level + 1) = index → (t.region r).ctr 0 j = 0) ∧
        (s.rd (F.cxmPoison0Scope.at e 8) = 0 → (s.region r).ctr 0 index ≠ 0 →
          (t.region r).ctr 0 index = (s.region r).ctr 0 index + 1))))

/-! ### The redundant pair (R385 to R411) -/

/-- R386, R400: the oldest HELLO frame received is judged, and it carries a claim. In hello: the same side is a
conflict, another check value a mismatch, and else the Flue is keyed from both nonces. After keying, a nonce not seen
before takes the Flue back to hello. Before alignment, and where no HELLO frame has come, nothing happens. R387, R389,
R391, R400: the oldest mirror frame received is opened under the pair key. One whose tag fails is told and dropped. A
frame that holds waits for the edge unless a newer one does; its claim is the peer's, and its acknowledgement ends the
records it names. Nothing is opened before the Flue is keyed. What the rules leave open here is the model's choice:
log entries 33, 51 and 60. -/
def Obligations.Flue : Prop :=
  (∀ (s : State) (v : Nat) (cyc : Cyc), v = s.rd F.fluCfgPairSlot →
    (s.rd F.fluStatState < 3 ∨ s.joinedOf true = none → Runs (.hello cyc) s (fun t => t.pair = s.pair ∧ s.regsBut t [])) ∧
    (∀ f h, s.joinedOf true = some f → h = readHello f →
      (s.rd F.fluStatState = 3 ∨ s.rd F.fluStatState = 6 →
        (h.side = s.on F.fluStatSide →
          Runs (.hello cyc) s (fun t => t.rd F.fluStatSideConflict = 1 ∧ t.rd F.fluStatState = 6 ∧ t.evt F.fluEvtSideConflict = 1 ∧
            t.rd F.fluClaimPeer = h.claim % 65536 ∧ t.pair.claimAt = s.tick ∧ t.pair.key = s.pair.key ∧
            t.pair.joined = (s.unjoin true).pair.joined)) ∧
        (h.side ≠ s.on F.fluStatSide → s.slotUsable v 4 = true → h.kcv ≠ (s.slot v).kcv →
          Runs (.hello cyc) s (fun t => t.rd F.fluStatPairMismatch = 1 ∧ t.rd F.fluStatState = 6 ∧ t.evt F.fluEvtPairMismatch = 1 ∧
            t.pair.key = s.pair.key ∧ t.vault = s.vault)) ∧
        (h.side ≠ s.on F.fluStatSide → s.slotUsable v 4 = true → h.kcv = (s.slot v).kcv →
          Runs (.hello cyc) s (fun t => (s.takeUse v).2 = .granted →
            t.rd F.fluStatState = 4 ∧ t.pair.key = pairKey (s.slot v).key (s.on F.fluStatSide) s.pair.nonce h.nonce ∧
            (s.on F.fluStatLockHeld = true → t.pair.bulk.isSome = true)))) ∧
      (s.keyed = true →
        (s.pair.peerNonces.contains h.nonce = true →
          Runs (.hello cyc) s (fun t => t.rd F.fluClaimPeer = h.claim % 65536 ∧ s.regsBut t [keyOf F.fluClaimPeer] ∧
            t.pair = { (s.unjoin true).pair with claimAt := s.tick, claimSeen := true })) ∧
        (s.pair.peerNonces.contains h.nonce = false →
          Runs (.hello cyc) s (fun t => t.rd F.fluStatState = 3 ∧ t.rd F.fluStatMirrorValid = 0 ∧ t.rd F.fluStatPartnerSync = 0 ∧
            t.pair.key = [] ∧ t.pair.txSeq = 0 ∧ t.pair.waiting = [] ∧ t.pair.unacked = []))))) ∧
  (∀ (s : State) (sel : Fin 16) (alarm : Fin 4),
    (s.keyed = false ∨ s.joinedOf false = none →
      Runs (.mirrorFrameVerified sel alarm) s (fun t => t.pair = s.pair ∧ s.regsBut t [])) ∧
    (∀ bs, s.keyed = true → s.joinedOf false = some bs →
      (openMirror s.pair.key bs = none →
        Runs (.mirrorFrameVerified sel alarm) s (fun t => t.evt F.fluEvtTagFail = 1 ∧ t.pair = (s.unjoin false).pair ∧
          s.regsBut t [])) ∧
      (∀ f, openMirror s.pair.key bs = some f →
        Runs (.mirrorFrameVerified sel alarm) s (fun t => t.rd F.fluClaimPeer = f.claim % 65536 ∧ t.pair.claimAt = s.tick ∧
          t.pair.taken = s.pair.taken ∧ t.pair.joined = (s.unjoin false).pair.joined ∧
          t.pair.waiting =
            (if ((s.pair.waiting.getLast?).map (·.seq)).getD ((s.pair.taken.map (·.seq)).getD 0) < f.seq then
              (s.pair.waiting ++ [{ f with sel := sel, alarm := alarm }]).drop (s.pair.waiting.length - 3)
            else s.pair.waiting) ∧
          if s.pair.acked < f.ack ∧ f.ack ≤ s.pair.lastRec then
            t.pair.acked = f.ack ∧ t.pair.unacked = s.pair.unacked.filter (fun e => decide (f.ack < e.1))
          else t.pair.acked = s.pair.acked ∧ t.pair.unacked = s.pair.unacked))))

/-- R394, R396, R400, R402: silence of the partner. The 8th edge without a frame invalidates the mirror, the 16th
drops partner_sync, and 64 ticks without a claim turn ACTIVE into SOLO. A claim on CLAIM_IN counts if its CRC holds.
R394, R404: FLU_CMD waits for its edge. At H + 2 a unit that hands over has released the lock, is in STANDBY with a
valid mirror, and has lost the frames still queued. R32, R34: a pair operation not acknowledged for 4 ticks sets
partner_fail, and partner_wait stays while another is awaited. R397: a standby's self-test, while st_en is 1. Every
125 ticks each idle lane passes or fails; every 2^16 ticks the SRAMs are scrubbed, which counts what it corrects. What
the rules leave open here is the model's choice: log entries 2, 33 and 61. -/
def Obligations.PairHealth : Prop :=
  (∀ s : State,
    (8 ≤ s.pair.missed →
      Runs .mirrorStale s (fun t => t.rd F.fluStatMirrorValid = 0 ∧ s.regsBut t [keyOf F.fluStatMirrorValid] ∧ t.pair = s.pair ∧
        (s.on F.fluStatMirrorValid = true → t.evt F.fluEvtMirrorStale = 1))) ∧
    (s.pair.missed < 8 → Runs .mirrorStale s (fun t => t.pair = s.pair ∧ s.regsBut t [])) ∧
    (16 ≤ s.pair.missed ∨ 16 ≤ s.pair.still →
      Runs .partnerSyncLost s (fun t => t.rd F.fluStatPartnerSync = 0 ∧ s.regsBut t [keyOf F.fluStatPartnerSync] ∧
        (s.on F.fluStatPartnerSync = true → ∀ a ∈ s.asnListed, (s.asn a).claimPending = true →
          (t.asn a).pnMark = (s.asn a).pnMark + 2 ^ 24 ∧ (t.asn a).claimPending = false))) ∧
    (s.noPeer = true → s.mode = 4 → Runs .claimAgeExpiry s (fun t => t.mode = 6 ∧ t.rd F.devModePrevMode = 4)) ∧
    (s.noPeer = true → s.mode = 11 → s.rd F.devModePrevMode = 4 →
      Runs .claimAgeExpiry s (fun t => t.mode = 11 ∧ t.rd F.devModePrevMode = 6)) ∧
    (s.noPeer = false ∨ s.effMode ≠ 4 → Runs .claimAgeExpiry s (fun t => t.pair = s.pair ∧ s.regsBut t [])) ∧
    (∀ (c : BitVec 16) (crc : BitVec 4),
      (crc.toNat = claimCrc c.toNat →
        Runs (.claimFrame c crc) s (fun t => t.rd F.fluClaimPeer = c.toNat ∧ s.regsBut t [keyOf F.fluClaimPeer] ∧
          t.pair = { s.pair with claimAt := s.tick, claimSeen := true })) ∧
      (crc.toNat ≠ claimCrc c.toNat →
        Runs (.claimFrame c crc) s (fun t => t.pair = s.pair ∧ s.regsBut t [])))) ∧
  (∀ s : State,
    (∀ cyc, s.ready .flu = true →
      Runs (.handover cyc) s (fun t => s.plans t (.fluCmd 1) cyc ∧ t.pair = s.pair ∧ s.regsBut t []) ∧
      Runs (.resync cyc) s (fun t => s.plans t (.fluCmd 2) cyc ∧ t.pair = s.pair ∧ s.regsBut t [])) ∧
    (∀ h, s.pair.handover = some h → h + 2 ≤ s.tick →
      Runs .handoverRelease s (fun t => t.effMode = 5 ∧ t.rd F.fluStatLockHeld = 0 ∧ t.rd F.fluStatMirrorValid = 1 ∧
        t.hearth.frames = [] ∧ t.hearth.groups = [] ∧ t.pair.handover = none ∧ t.pair.noAdmit = false)) ∧
    (∀ e rest, s.pair.ops = e :: rest →
      (e.1 + 4 ≤ s.tick →
        Runs .pairOpAckTimeout s (fun t => t.rd F.devGopStatPartnerFail = 1 ∧ t.pair.ops = rest ∧
          t.rd F.devGopStatPartnerWait = (if rest = [] then 0 else s.rd F.devGopStatPartnerWait) ∧
          s.regsBut t [keyOf F.devGopStatPartnerFail])) ∧
      (s.tick < e.1 + 4 → Runs .pairOpAckTimeout s (fun t => t.pair = s.pair ∧ s.regsBut t [])))) ∧
  (∀ s : State,
    (s.selfTests = true →
      (∀ (g : LaneNo) (n : Nat), g.val < 144 → s.portOfLane g = none → s.tick % 125 = 0 →
        Runs (.idleLaneWindow g n) s (fun t => s.regsBut t [] ∧ (g.val ∈ t.pair.badLanes ↔ n ≠ 0) ∧
          (∀ l, l ≠ g.val → (l ∈ t.pair.badLanes ↔ l ∈ s.pair.badLanes)))) ∧
      (s.tick % 65536 = 0 →
        Runs (.standbyScrub []) s (fun t => s.regsBut t []) ∧
        ∀ e : EccErr, e.double = false →
          Runs (.standbyScrub [e]) s (fun t => t.rd F.fltEccCorrected = min 65535 (s.rd F.fltEccCorrected + 1) ∧
            s.regsBut t [keyOf F.fltEccCorrected]))) ∧
    (s.selfTests = false → ∀ (g : LaneNo) (n : Nat) (l : List EccErr), ∀ c ∈ [Instr.idleLaneWindow g n, .standbyScrub l],
      Runs c s (fun t => t.pair = s.pair ∧ s.regsBut t [])))

/-- R405 to R407: a standby that has seen its partner's lock released at two edges in a row, and whose claim is not
beaten, takes over at the next edge: it holds the lock, and its mirror tells whether the takeover is warm. Warm, each
live entry goes on from its mark (R162); cold, every keyed entry is DEAD with cause 4: both are said of a unit whose
links are unused. At E + 3 the unit is ACTIVE. What the rules leave open here is the model's choice: log entry 33. -/
def Obligations.Takeovers : Prop :=
  ∀ s : State,
    (s.effMode = 5 → s.pair.sawLock = true → 2 ≤ s.pair.freeEdges → s.pair.takeover = none →
      ((∀ c ∈ s.currentClaim, c < s.ownClaim) →
        Runs .partnerFailure s (fun t => t.evt F.fluEvtPartnerFailed = 1 ∧ s.regsBut t [] ∧
          t.pair = { s.pair with takeover := some (s.tick + 1, s.on F.fluStatMirrorValid) })) ∧
      (∀ c ∈ s.currentClaim, s.ownClaim ≤ c →
        Runs .partnerFailure s (fun t => t.evt F.fluEvtPartnerFailed = 1 ∧ t.pair = s.pair ∧ s.regsBut t []))) ∧
    (∀ e, s.pair.takeover = some (e, true) → s.effMode = 5 → e ≤ s.tick →
      Runs .takeover s (fun t => t.effMode = 7 ∧ t.rd F.fluStatLockHeld = 1 ∧ t.rd F.fluTkoEdge = e % 65536 ∧
        t.rd F.fluTkoWarm = 1 ∧ t.evt F.fluEvtTakeoverWarm = 1 ∧ t.pair.takeover = none ∧ t.pair.tookAt = some e ∧
        (s.kindle.links = [] → (∀ k, k < 144 → s.on F.kdlLinkCfgStart 0 k = false) → s.assocs.m.Pairwise (fun x y => x.1 < y.1) →
          ∀ a ∈ s.asnListed, (s.asn a).state = .live → (t.asn a).nextPn = (s.asn a).pnMark))) ∧
    (∀ e, s.pair.takeover = some (e, false) → s.effMode = 5 → e ≤ s.tick →
      Runs .takeover s (fun t => t.effMode = 7 ∧ t.rd F.fluStatLockHeld = 1 ∧ t.rd F.fluTkoEdge = e % 65536 ∧
        t.rd F.fluTkoWarm = 0 ∧ t.evt F.fluEvtTakeoverCold = 1 ∧ t.pair.takeover = none ∧ t.pair.tookAt = some e ∧
        (s.kindle.links = [] → (∀ k, k < 144 → s.on F.kdlLinkCfgStart 0 k = false) → s.assocs.m.Pairwise (fun x y => x.1 < y.1) →
          ∀ a ∈ s.asnListed, (s.asn a).state.keyed = true → (t.asn a).state = .dead ∧ (t.asn a).deadCause = 4))) ∧
    (∀ e, s.pair.tookAt = some e → s.effMode = 7 → e + 3 ≤ s.tick →
      Runs .takeoverComplete s (fun t => t.effMode = 4 ∧ t.pair = s.pair ∧ t.rd F.fluStatLockHeld = s.rd F.fluStatLockHeld))

/-! ### Time, tamper, the Officer Port and the panel (R412 to R451) -/

/-- R413 to R415: the increment's halves and a step wait for their edge; a read of the time, or of the edge time,
latches what belongs to it. R417: PPS_OUT rises once TIME has reached the next value, which then moves ahead of it,
and falls after its width. R442, R443, R449: the panel's chain goes out every 8 ticks from the unit that holds the
lock, or hears no peer; a read of BRTC latches its subseconds. What the rules leave open here is the model's choice:
log entry 2. -/
def Obligations.TimeIsKept : Prop :=
  (∀ (s : State) (w : Word) (cyc : Cyc), s.ready .tsu = true →
    Runs (.incWrite w cyc) s (fun t => t.time = s.time ∧ s.regsBut t [] ∧
      t.sched = s.sched.filter (fun e => !e.isCopyOf (keyOf F.tsuIncLoIncFrac) && !e.isCopyOf (keyOf F.tsuIncHiIncInt)) ++
        [{ due := s.edgeFor cyc, held := s.on F.devCommitCtlHold
           act := .copy (keyOf F.tsuIncLoIncFrac) (s.time.stagedLo.getD (BitVec.ofNat 32 (s.rd F.tsuIncLoIncFrac))) },
         { due := s.edgeFor cyc, held := s.on F.devCommitCtlHold, act := .copy (keyOf F.tsuIncHiIncInt) w }]) ∧
    Runs (.timeStep w cyc) s (fun t => t.time = s.time ∧ s.regsBut t [] ∧
      (∀ x, { due := s.edgeFor cyc, act := .timeStep x } ∈ t.sched ↔ x = w.toNat)) ∧
    Runs (.timeRead cyc) s (fun t => s.sends t (.read [BitVec.ofNat 32 (nsOf (s.at cyc).timeNow)]) ∧
      t.rd F.tsuTimeFracTimeFrac = (s.at cyc).timeNow % 2 ^ 32 ∧ t.rd F.tsuRawNsRawNs = nsOf (s.at cyc).rawNow ∧
      t.time = s.time ∧ s.regsBut t [keyOf F.tsuTimeFracTimeFrac, keyOf F.tsuRawNsRawNs]) ∧
    Runs (.edgeTimeRead cyc) s (fun t => s.sends t (.read [BitVec.ofNat 32 s.time.edgeNs]) ∧
      t.rd F.tsuEdgeTickEdgeTick = s.time.edgeTick % 2 ^ 32 ∧ t.time = s.time ∧ s.regsBut t [keyOf F.tsuEdgeTickEdgeTick])) ∧
  (∀ (s u : State) (cyc : Cyc), u = s.at cyc →
    (∀ n x, n = s.rd F.tsuPpsOutNextNext → x = nsOf u.timeNow → s.on F.tsuCtlPpsOutEn = true →
      ((x + 2 ^ 32 - n) % 2 ^ 32 < 2 ^ 31 →
        Runs (.ppsOut cyc) s (fun t => t.time = { s.time with ppsHigh := some u.now } ∧ t.evt F.tsuEvtPpsOut = 1 ∧
          t.rd F.tsuPpsOutNextNext = ppsAhead 5 n x % 2 ^ 32 ∧ 2 ^ 31 ≤ (x + 2 ^ 32 - t.rd F.tsuPpsOutNextNext) % 2 ^ 32 ∧
          s.regsBut t [keyOf F.tsuPpsOutNextNext])) ∧
      (2 ^ 31 ≤ (x + 2 ^ 32 - n) % 2 ^ 32 → Runs (.ppsOut cyc) s (fun t => t.time = s.time ∧ s.regsBut t []))) ∧
    (∀ c, s.time.ppsHigh = some c → c + 1250 * min 500000 (max 1 (s.rd F.tsuPpsOutWWidthUs)) ≤ u.now →
      Runs (.ppsOutPulseEnd cyc) s (fun t => t.time = { s.time with ppsHigh := none } ∧ s.regsBut t []))) ∧
  (∀ s : State,
    (s.ready .tmp = true →
      Runs .brtcRead s (fun t => s.sends t (.read [BitVec.ofNat 32 s.seconds]) ∧ t.rd F.tmpBrtcSubSub = s.tamper.brtc % 65536 ∧
        s.regsBut t [keyOf F.tmpBrtcSubSub])) ∧
    (s.tick % 8 = 0 → s.on F.modLedCtlEnable = true → 1 < s.mode →
      (s.on F.fluStatLockHeld = true ∨ s.pair.claimAt + 64 ≤ s.tick) →
      Runs .ledRefresh s (fun t => s.sends t (.leds s.ledChain) ∧ s.regsBut t [])) ∧
    (s.tick % 8 ≠ 0 ∨ s.on F.modLedCtlEnable = false → Runs .ledRefresh s (fun t => (∀ x ∈ t.out.drop s.out.length, ∀ n, x ≠ .leds n) ∧ s.regsBut t [])))

/-- R418: while pps_in_en is 1 the selected edge of PPS_IN latches TIME, advances the count and sets pps_in; a pulse
shorter than 100 ns is ignored; a read of TSU_PPS_IN_NS latches the fraction and the count. A later pulse replaces the
capture. -/
def Obligations.PpsInput : Prop :=
  ∀ (s u : State) (cyc : Cyc), u = s.at cyc →
    (∀ (fall : Bool) (ns : Nat),
      (s.on F.tsuCtlPpsInEn = true → s.on F.tsuCtlPpsInFall = fall → 100 ≤ ns →
        Runs (.ppsIn fall ns cyc) s (fun t => t.evt F.tsuEvtPpsIn = 1 ∧ s.regsBut t [] ∧
          t.time = { s.time with inNs := nsOf u.timeNow, inFrac := u.timeNow % 2 ^ 32, inCnt := (s.time.inCnt + 1) % 65536 })) ∧
      (s.on F.tsuCtlPpsInEn = false ∨ s.on F.tsuCtlPpsInFall ≠ fall ∨ ns < 100 →
        Runs (.ppsIn fall ns cyc) s (fun t => t.time = s.time ∧ s.regsBut t []))) ∧
    (s.ready .tsu = true →
      Runs (.ppsInRead cyc) s (fun t => s.sends t (.read [BitVec.ofNat 32 s.time.inNs]) ∧ t.time = s.time ∧
        t.rd F.tsuPpsInFracInFrac = s.time.inFrac % 2 ^ 32 ∧ t.rd F.tsuPpsInCntCount = s.time.inCnt % 65536 ∧
        s.regsBut t [keyOf F.tsuPpsInFracInFrac, keyOf F.tsuPpsInCntCount]))

/-- R425, R426, R435, R441: a source that may fire does so into its window; one that is not armed, not watched on the
cell, or not re-armed since it last fired leaves only its condition. The sources that fire inside the device are not
fired from outside. A test suppresses its source, and a condition still there when it ends fires for real. R427, R428,
R430, R431: at the end of a window its physical sources are logged with one stamp, in source-number order, its
environmental ones set their flags, and the union of its responses acts once: a quench of the vault, a halt at the
next edge (R429), a lock of the Officer Port. What the rules leave open here is the model's choice: log entries 40 and
63. -/
def Obligations.TamperSources : Prop :=
  (∀ s : State,
    (∀ (src : Fin 23) (rtc : Nat) (brtc : Nat), brtc = (s.tamper.brtc + 2 * rtc) % 2 ^ 48 →
      (s.fromOutside src = true →
        (s.mayFire src → Runs (.tamperFire src rtc) s (fun t => s.fired t src ∧ t.tamper.brtc = brtc)) ∧
        (s.srcArmed src = false ∨ s.mode = 0 ∧ onCell src = false ∨
            s.tamper.test.all (fun e => decide (e.1 ≠ src.val)) = true ∧
            s.tamper.asserted.all (fun e => decide (e.1 ≠ src.val)) = false →
          Runs (.tamperFire src rtc) s (fun t => t.tamper.window = s.tamper.window ∧ t.evt F.tmpEvtFired = s.evt F.tmpEvtFired ∧
            t.tamper.active = setBit s.tamper.active src ∧ t.tamper.brtc = brtc ∧ s.regsBut t []))) ∧
      (s.fromOutside src = false →
        Runs (.tamperFire src rtc) s (fun t => t.tamper = { s.tamper with brtc := brtc } ∧ s.regsBut t []))) ∧
    (∀ src e0, src < 23 → s.fromOutside src = true → s.tamper.test = some (src, e0) → s.srcArmed src = true → s.mode ≠ 0 →
      Runs (.tamperFire (Fin.ofNat 23 src) 0) s (fun t => t.tamper.window = s.tamper.window ∧
        t.evt F.tmpTestSeenSeen = setBit (s.evt F.tmpTestSeenSeen) src % 2 ^ 23 ∧ t.evt F.tmpEvtFired = s.evt F.tmpEvtFired ∧
        s.regsBut t [])) ∧
    (s.mayFire 20 → Runs .quenchButton s (fun t => s.fired t 20 ∧ t.tamper.brtc = s.tamper.brtc)) ∧
    (∀ src : Fin 32, s.ready .tmp = true → src.val < 23 → s.on F.tmpTestBusy = false →
      Runs (.tamperTest src true) s (fun t => t.rd F.tmpTestBusy = 1 ∧ t.tamper = { s.tamper with test := some (src.val, s.tick) } ∧
        s.regsBut t [keyOf F.tmpTestBusy])) ∧
    (∀ e still, s.tamper.test = some e → s.tick < e.2 + testTicks e.1 →
      Runs (.tamperTestEnd still) s (fun t => t.tamper = s.tamper ∧ s.regsBut t [])) ∧
    (∀ e, s.tamper.test = some e → e.2 + testTicks e.1 ≤ s.tick →
      Runs (.tamperTestEnd false) s (fun t => t.rd F.tmpTestBusy = 0 ∧ t.tamper = { s.tamper with test := none } ∧
        s.regsBut t [keyOf F.tmpTestBusy]) ∧
      (s.srcArmed e.1 = true → s.mode ≠ 0 → s.tamper.asserted.all (fun x => decide (x.1 ≠ e.1)) = true →
        Runs (.tamperTestEnd true) s (fun t => t.rd F.tmpTestBusy = 0 ∧ t.tamper.test = none ∧
          t.tamper.window = s.tamper.window ++ [e.1] ∧ t.evt F.tmpEvtFired = setBit (s.evt F.tmpEvtFired) e.1 % 2 ^ 23)))) ∧
  (∀ (s : State) (srcs : List Nat) (u : Nat),
    srcs = (List.range 23).filter (fun i => s.tamper.window.contains i) → u = srcs.foldl (fun u i => u ||| s.tmpResp i) 0 →
    s.tamper.window ≠ [] → s.tamper.log.length + 23 ≤ 512 →
    s.mode ≠ 0 → s.mode ≠ 1 →
      Runs .tamperWindowEnd s (fun t => t.tamper.window = [] ∧
        t.tamper.log = s.tamper.log ++ (srcs.filter (fun i => !environmental i)).map
          (fun i => logEntry s.tamper.winAt i u false s.tamper.winMode) ∧
        (∀ i, i ∈ srcs → environmental i = true → bit (t.rd F.tmpFlagsEnv) i = true) ∧
        (bit u 4 = true → t.mode = 9 ∧ t.vault.slots = []) ∧
        (bit u 4 = false → t.mode = s.mode ∧ t.vault.slots = s.vault.slots) ∧
        (bit u 2 = true → t.tamper.haltDue.isSome = true) ∧ (bit u 2 = false → t.tamper.haltDue = s.tamper.haltDue) ∧
        (bit u 5 = true → t.rd F.ofcStatSession = 0 ∧ t.officer.key = [])))

/-- R433: in COLD-GUARD a vault quench zeroes the vault, Kint and the reservation stocks on the cell, and evidence is
kept; every other response of the union is recorded in TMP_DEFER as deferred, and deferred is set in the log entries. -/
def Obligations.TamperOnTheCell : Prop :=
  ∀ (s : State) (srcs : List Nat) (u : Nat),
    srcs = (List.range 23).filter (fun i => s.tamper.window.contains i) → u = srcs.foldl (fun u i => u ||| s.tmpResp i) 0 →
    s.tamper.window ≠ [] → s.tamper.log.length + 23 ≤ 512 → s.mode = 0 →
      Runs .tamperWindowEnd s (fun t => t.tamper.window = [] ∧ t.mode = 0 ∧ t.tamper.haltDue = s.tamper.haltDue ∧
        t.rd F.tmpDeferDeferred = (s.rd F.tmpDeferDeferred ||| (u &&& 0x2F)) % 64 ∧
        t.tamper.log = s.tamper.log ++ (srcs.filter (fun i => !environmental i)).map
          (fun i => logEntry s.tamper.winAt i (u &&& 0x10) (decide (u &&& 0x2F ≠ 0)) s.tamper.winMode) ∧
        (∀ i, i ∈ srcs → environmental i = true → bit (t.rd F.tmpFlagsEnv) i = true) ∧
        (bit u 4 = true → t.vault.slots = [] ∧ t.vault.kint = [] ∧ t.vault.reserving = []) ∧
        (bit u 4 = false → t.vault = s.vault))

/-- R437, R438, R440: plugging a token restarts the numbers, removing it ends the session; a HELLO is challenged, with
a nonce and a key pair drawn for it, unless the port is locked; a RESPONSE to the CHALLENGE waits to be verified; a
CHALLENGE unanswered for 2 s fails the authentication, and a session without a message for 300 s ends. R438, R440: a
RESPONSE is judged: its signature first; then, with a valid trust anchor among the named slots, the one that holds the
token's identity hash grants a use; with none, the enrolment signature pins the hash in the first named slot. What
passes opens the session, what fails is counted. What the signatures and the KEM yield is uninterpreted. What the
rules leave open here is the model's choice: log entries 4, 5, 40 and 62. -/
def Obligations.OfficerSessions : Prop :=
  (∀ s : State,
    Runs .tokenPlug s (fun t => t.rd F.ofcStatPresent = 1 ∧ t.officer = { s.officer with seqIn := 0, seqOut := 0 } ∧
      t.evt F.ofcEvtPlugged = 1 ∧ s.regsBut t [keyOf F.ofcStatPresent]) ∧
    Runs .tokenUnplug s (fun t => t.rd F.ofcStatPresent = 0 ∧ t.rd F.ofcStatSession = 0 ∧ t.officer.key = [] ∧
      t.officer.challenged = none ∧ t.evt F.ofcEvtUnplugged = 1 ∧ s.regsBut t [keyOf F.ofcStatPresent]) ∧
    (∀ m : OfcMsg,
      (s.hears m 1 → s.ofcLocked = false → ∀ nonce key, nonce = (s.draw 32).2 →
          key = Config.kemKeys ((s.draw 32).1.draw 64).2 →
        Runs (.officerHello m) s (fun t => s.regsBut t [] ∧
          t.officer = { s.officer with seqIn := s.officer.seqIn + 1, seqOut := s.officer.seqOut + 1, lastMsg := s.tick
                                       ident := m.body.take 2664, enrolSig := m.body.drop 2664, seconds := s.seconds
                                       nonce := nonce, dk := key.2, challenged := some s.tick, response := none } ∧
          s.sends t (.officer (officerBytes 2 s.officer.seqOut
            (nonce ++ s.identityHash ++ beBytes 4 s.seconds ++ slice key.1 0 1568))))) ∧
      (s.hears m 1 → s.ofcLocked = true →
        Runs (.officerHello m) s (fun t => t.officer.challenged = s.officer.challenged ∧ t.officer.seqIn = s.officer.seqIn + 1 ∧
          s.sends t (.officer (officerBytes 4 s.officer.seqOut [s.free 8])) ∧ s.regsBut t [])) ∧
      (s.hears m 3 →
        Runs (.officerResponse m) s (fun t => s.regsBut t [] ∧
          t.officer = { s.officer with seqIn := s.officer.seqIn + 1, lastMsg := s.tick
                                       response := if s.officer.challenged.isSome ∧ s.officer.response = none then
                                         some (m.body.take 4627, slice m.body 4627 1568) else s.officer.response }))) ∧
    (∀ e0, s.officer.challenged = some e0 → s.officer.response = none → e0 + 250000 ≤ s.tick →
      Runs .officerResponseTimeout s (fun t => s.authFails t)) ∧
    ((∀ e0, s.officer.challenged = some e0 → s.officer.response.isSome = true ∨ s.tick < e0 + 250000) →
      Runs .officerResponseTimeout s (fun t => t.officer = s.officer ∧ s.regsBut t [])) ∧
    (s.on F.ofcStatSession = true → s.officer.lastMsg + 37500000 ≤ s.tick →
      Runs .officerSessionTimeout s (fun t => t.rd F.ofcStatSession = 0 ∧ t.officer.key = [] ∧
        s.regsBut t [keyOf F.ofcStatSession])) ∧
    (s.on F.ofcStatSession = false ∨ s.tick < s.officer.lastMsg + 37500000 →
      Runs .officerSessionTimeout s (fun t => t.officer = s.officer ∧ s.regsBut t []))) ∧
  (∀ s : State,
    (s.officer.response = none → Runs .officerVerifyDone s (fun t => t.officer = s.officer ∧ s.regsBut t [])) ∧
    (∀ sig ct pk hash ok enrol, s.officer.response = some (sig, ct) → pk = slice s.officer.ident 72 2592 → hash = Config.sha3 pk →
      ok = Config.dsaVerify pk (s.officer.nonce ++ s.identityHash ++ beBytes 4 s.officer.seconds) (ascii "heserok officer") sig →
      enrol = (Config.dsaVerify s.pwr.fwKey hash (ascii "heserok officer enrol") s.officer.enrolSig && !s.nvInhibited) →
      Runs .officerVerifyDone s (fun t =>
        (ok = false → s.authFails t) ∧
        (ok = true → s.ofcValid = [] →
          (enrol = false → s.authFails t) ∧
          (enrol = true → s.authPasses t ct ∧ (t.slot (s.ofcSlots.headD 0)).type = 3 ∧
            (t.slot (s.ofcSlots.headD 0)).material = slice hash 0 64)) ∧
        (ok = true → s.ofcValid ≠ [] →
          (∀ v, s.ofcValid.find? (fun v => decide ((s.slot v).key = hash)) = some v →
            ((s.takeUse v).2 = .granted → s.authPasses t ct) ∧
            ((s.takeUse v).2 = .waits → t.officer = s.officer ∧ s.regsBut t [])) ∧
          (s.ofcValid.find? (fun v => decide ((s.slot v).key = hash)) = none → s.authFails t)))))

/-- R313, R430 to R432, R434, R436, R437, R439: the messages of a session, each answered with its RESULT. Outside a
session they are refused with status 2; a message with a bad CRC or out of order, and one that comes with no token or
before OFC is ready, is discarded. That an out-of-order message is discarded is the model's choice (log entry 62).
What the rules leave open here is the model's choice: log entries 4, 40 and 62. -/
def Obligations.OfficerMessages : Prop :=
  ∀ (s : State) (m : OfcMsg) (p : List Byte) (n : Nat) (cyc : Cyc), n = s.officer.seqOut →
    (s.carries m 0x11 p → s.nvInhibited = false → s.officer.cert.length + p.length ≤ 16384 →
      Runs (.certWrite m) s (fun t => t.officer.cert = s.officer.cert ++ p ∧ t.vault = { s.vault with cert := s.officer.cert ++ p } ∧
        s.sends t (.officer (officerBytes 4 n [0])) ∧ s.regsBut t [])) ∧
    (s.carries m 0x11 p → s.nvInhibited = true →
      Runs (.certWrite m) s (fun t => t.vault = s.vault ∧ s.sends t (.officer (officerBytes 4 n [9])) ∧ s.regsBut t [])) ∧
    (s.carries m 0x11 p → s.nvInhibited = false → 16384 < s.officer.cert.length + p.length →
      Runs (.certWrite m) s (fun t => t.vault = s.vault ∧ s.sends t (.officer (officerBytes 4 n [4])) ∧ s.regsBut t [])) ∧
    (s.hears m 0x12 → s.on F.ofcStatSession = true →
      Runs (.certRead m) s (fun t => t.vault = s.vault ∧ s.sends t (.officer (officerBytes 4 n (0 :: s.vault.cert))) ∧ s.regsBut t [])) ∧
    (s.carries m 0x13 p →
      Runs (.ack m) s (fun t => t.rd F.tmpDeferDeferred = 0 ∧ t.pwr.held = false ∧ t.tamper.lineHold = false ∧
        t.tamper.ackedLog = s.tamper.log.length ∧ t.evt F.ofcEvtAck = 1 ∧ t.mode = (if s.mode = 3 then 2 else s.mode) ∧
        s.sends t (.officer (officerBytes 4 n [0])))) ∧
    (s.carries m 0x14 p →
      Runs (.clearFlags m) s (fun t => t.rd F.tmpFlagsEnv = s.rd F.tmpFlagsEnv &&& (~~~ Config.flagsMask p).toNat ∧
        s.sends t (.officer (officerBytes 4 n [0])) ∧ s.regsBut t [keyOf F.tmpFlagsEnv])) ∧
    (s.carries m 0x15 p → s.tamper.log.length < 512 →
      Runs (.note m) s (fun t => t.tamper.log = s.tamper.log ++ [logEntry s.tamper.brtc 31 0 false s.mode] ∧
        s.sends t (.officer (officerBytes 4 n [0])) ∧ s.regsBut t [keyOf F.tmpLogCntEntries])) ∧
    (s.carries m 0x16 p →
      Runs (.setBrtc m) s (fun t => t.tamper = { s.tamper with brtc := beAt p 0 4 * 65536 + beAt p 4 2 } ∧
        s.sends t (.officer (officerBytes 4 n [0])) ∧ s.regsBut t [])) ∧
    (s.carries m 0x17 p →
      Runs (.unlockCfg m) s (fun t => t.rd F.tmpCfgCfgLock = 0 ∧ s.sends t (.officer (officerBytes 4 n [0])) ∧
        s.regsBut t [keyOf F.tmpCfgCfgLock])) ∧
    (s.hears m 0x1F →
      Runs (.endSession m) s (fun t => t.rd F.ofcStatSession = 0 ∧ t.officer.key = [] ∧ s.regsBut t [keyOf F.ofcStatSession])) ∧
    (s.carries m 0x10 p → s.on F.kvtStatBusy = true →
      Runs (.vault m cyc) s (fun t => t.vault.officerWaits = s.vault.officerWaits ++ [officerCmd p] ∧ t.vault.slots = s.vault.slots ∧ s.regsBut t [])) ∧
    (s.carries m 0x10 p → s.on F.kvtStatBusy = false → ∀ c, c = officerCmd p →
      Runs (.vault m cyc) s (fun t =>
        (s.vaultCheck c ≠ 0 → t.rd F.kvtStatBusy = 0 ∧ t.vault.cmd = none ∧ t.vault.slots = s.vault.slots ∧
          s.sends t (.officer (officerBytes 4 n [BitVec.ofNat 8 (s.vaultCheck c)]))) ∧
        (s.vaultCheck c = 0 → c.op = 8 → t.rd F.kvtStatBusy = 0 ∧ t.vault.cmd = none ∧ t.vault.slots = s.vault.slots ∧
          s.sends t (.officer (officerBytes 4 n (0 :: (s.slot c.slot).kcv)))) ∧
        (s.vaultCheck c = 0 → c.op = 12 → t.rd F.kvtStatBusy = 1 ∧ t.vault.slots = s.vault.slots ∧
          t.vault.cmd = some (c.makes
            { present := true, type := c.type, imported := true, exportable := c.exportable, expires := c.expires
              hostUse := c.hostUse, long := c.long, uses := c.uses, generation := (s.slot c.slot).generation + 1
              material := c.data })))) ∧
    (∀ c ∈ [(Instr.vault m cyc, 0x10), (.certWrite m, 0x11), (.certRead m, 0x12), (.ack m, 0x13), (.clearFlags m, 0x14), (.note m, 0x15),
        (.setBrtc m, 0x16), (.unlockCfg m, 0x17)],
      s.hears m c.2 → s.on F.ofcStatSession = false →
        Runs c.1 s (fun t => s.sends t (.officer (officerBytes 4 n [2])) ∧ t.vault = s.vault ∧ t.tamper = s.tamper ∧
          s.regsBut t [])) ∧
    (∀ c ∈ [(Instr.officerHello m, 1), (.officerResponse m, 3), (.vault m cyc, 0x10), (.certWrite m, 0x11), (.certRead m, 0x12),
        (.ack m, 0x13), (.clearFlags m, 0x14), (.note m, 0x15), (.setBrtc m, 0x16), (.unlockCfg m, 0x17), (.endSession m, 0x1F)],
      (s.ready .ofc = false ∨ s.on F.ofcStatPresent = false ∨ officerCrcOk c.2 m = false ∨ m.seq.val ≠ s.officer.seqIn) →
        Runs c.1 s (fun t => t.officer = s.officer ∧ t.vault = s.vault ∧ t.tamper = s.tamper ∧ s.regsBut t []))
end

