-- ==== Sys2Proof/Laws/State.lean ====
section
/-! SUPPORT. The small laws of the sparse maps, of the register map and of the tables that State holds. -/

namespace Sys2Proof

/-! ### Sparse maps -/

section Maps
variable {κ α : Type} [DecidableEq κ]

theorem mget_mdel_self (d : α) (m : List (κ × α)) (k : κ) : mget d (mdel m k) k = d := by
  induction m with
  | nil => rfl
  | cons e m ih =>
    obtain ⟨k', v⟩ := e
    by_cases h : k = k'
    · simpa [mdel, h] using h ▸ ih
    · simpa [mdel, mget, h] using ih

theorem mget_mdel_ne (d : α) (m : List (κ × α)) {k k' : κ} (hk : k' ≠ k) : mget d (mdel m k) k' = mget d m k' := by
  induction m with
  | nil => rfl
  | cons e m ih =>
    obtain ⟨a, v⟩ := e
    by_cases h : k = a
    · subst h; simpa [mdel, mget, hk] using ih
    · by_cases h' : k' = a
      · simp [mdel, mget, h, h']
      · simpa [mdel, mget, h, h'] using ih

theorem mget_mins_self (lt : κ → κ → Bool) (d : α) (m : List (κ × α)) (k : κ) (v : α) :
    mget d (mins lt (mdel m k) k v) k = v := by
  suffices h : ∀ l : List (κ × α), (∀ e ∈ l, e.1 ≠ k) → mget d (mins lt l k v) k = v by
    refine h _ ?_
    intro e he
    induction m with
    | nil => simp [mdel] at he
    | cons a m ih =>
      obtain ⟨k', w⟩ := a
      by_cases hk : k = k'
      · simp only [mdel, hk, ↓reduceIte] at he; exact ih (by simpa [hk] using he)
      · simp only [mdel, hk, ↓reduceIte, List.mem_cons] at he
        rcases he with rfl | he
        · exact fun h => hk h.symm
        · exact ih he
  intro l hl
  induction l with
  | nil => simp [mins, mget]
  | cons a l ih =>
    obtain ⟨k', w⟩ := a
    have hk : k ≠ k' := fun h => hl (k', w) (by simp) h.symm
    simp only [mins]
    split
    · simp [mget]
    · simp only [mget, hk, ↓reduceIte]; exact ih (fun e he => hl e (by simp [he]))

theorem mget_mins_ne (lt : κ → κ → Bool) (d : α) (m : List (κ × α)) {k k' : κ} (v : α) (hk : k' ≠ k) :
    mget d (mins lt m k v) k' = mget d m k' := by
  induction m with
  | nil => simp [mins, mget, hk]
  | cons a m ih =>
    obtain ⟨a, w⟩ := a
    simp only [mins]
    split
    · simp [mget, hk]
    · simp only [mget, ih]

theorem mem_mdel {m : List (κ × α)} {k : κ} {e : κ × α} (h : e ∈ mdel m k) : e ∈ m ∧ e.1 ≠ k := by
  induction m with
  | nil => simp [mdel] at h
  | cons a m ih =>
    obtain ⟨k', w⟩ := a
    by_cases hk : k = k'
    · simp only [mdel, hk, ↓reduceIte] at h
      exact ⟨by simp [(ih (by simpa [hk] using h)).1], (ih (by simpa [hk] using h)).2⟩
    · simp only [mdel, hk, ↓reduceIte, List.mem_cons] at h
      rcases h with rfl | h
      · exact ⟨by simp, fun h => hk h.symm⟩
      · exact ⟨by simp [(ih h).1], (ih h).2⟩

omit [DecidableEq κ] in
theorem mem_mins {lt : κ → κ → Bool} {m : List (κ × α)} {k : κ} {v : α} {e : κ × α} (h : e ∈ mins lt m k v) :
    e = (k, v) ∨ e ∈ m := by
  induction m with
  | nil => simpa [mins] using h
  | cons a m ih =>
    obtain ⟨k', w⟩ := a
    simp only [mins] at h
    split at h
    · simpa using h
    · simp only [List.mem_cons] at h ⊢
      rcases h with rfl | h
      · exact .inr (.inl rfl)
      · rcases ih h with h | h
        · exact .inl h
        · exact .inr (.inr h)

variable [DecidableEq α]

/-- A read after a write to the same key gives the value written. -/
@[simp] theorem mget_mset_self (lt : κ → κ → Bool) (d : α) (m : List (κ × α)) (k : κ) (v : α) :
    mget d (mset lt d m k v) k = v := by
  unfold mset
  split
  · next h => rw [mget_mdel_self, h]
  · exact mget_mins_self lt d m k v

/-- A write leaves every other key alone. -/
theorem mget_mset_ne (lt : κ → κ → Bool) (d d' : α) (m : List (κ × α)) {k k' : κ} (v : α) (hk : k' ≠ k) :
    mget d' (mset lt d m k v) k' = mget d' m k' := by
  unfold mset
  split
  · exact mget_mdel_ne d' m hk
  · rw [mget_mins_ne lt d' _ v hk, mget_mdel_ne d' m hk]

/-- What a write lists: the new value, or what was listed for another key. -/
theorem mem_mset {lt : κ → κ → Bool} {d : α} {m : List (κ × α)} {k : κ} {v : α} {e : κ × α} (h : e ∈ mset lt d m k v) :
    e = (k, v) ∨ e ∈ m := by
  unfold mset at h
  split at h
  · exact .inr (mem_mdel h).1
  · rcases mem_mins h with h | h
    · exact .inl h
    · exact .inr (mem_mdel h).1

theorem mwf_mdel {lt : κ → κ → Bool} {d : κ → α} {m : List (κ × α)} (k : κ) (h : mwf lt d m = true) :
    mwf lt d (mdel m k) = true := by
  induction m with
  | nil => rfl
  | cons a m ih =>
    obtain ⟨k', w⟩ := a
    simp only [mwf, Bool.and_eq_true, decide_eq_true_eq, List.all_eq_true] at h
    by_cases hk : k = k'
    · simpa [mdel, hk] using hk ▸ ih h.2
    · simp only [mdel, hk, ↓reduceIte, mwf, Bool.and_eq_true, decide_eq_true_eq, List.all_eq_true]
      exact ⟨⟨h.1.1, fun e he => h.1.2 e (mem_mdel he).1⟩, ih h.2⟩

omit [DecidableEq κ] in
theorem mwf_mins {lt : κ → κ → Bool} {d : κ → α} {m : List (κ × α)} {k : κ} {v : α}
    (htrans : ∀ a b c, lt a b = true → lt b c = true → lt a c = true)
    (htotal : ∀ a b, a ≠ b → lt a b = false → lt b a = true) (hv : v ≠ d k) (hm : ∀ e ∈ m, e.1 ≠ k)
    (h : mwf lt d m = true) : mwf lt d (mins lt m k v) = true := by
  induction m with
  | nil => simp [mins, mwf, hv]
  | cons a m ih =>
    obtain ⟨k', w⟩ := a
    have h0 := h
    simp only [mwf, Bool.and_eq_true, decide_eq_true_eq, List.all_eq_true] at h
    simp only [mins]
    split
    · next hlt =>
      simp only [mwf, Bool.and_eq_true, decide_eq_true_eq, List.all_eq_true, List.mem_cons]
      refine ⟨⟨hv, ?_⟩, h⟩
      rintro e (rfl | he)
      · exact hlt
      · exact htrans _ _ _ hlt (h.1.2 e he)
    · next hlt =>
      simp only [mwf, Bool.and_eq_true, decide_eq_true_eq, List.all_eq_true]
      refine ⟨⟨h.1.1, ?_⟩, ih (fun e he => hm e (by simp [he])) h.2⟩
      intro e he
      rcases mem_mins he with rfl | he
      · exact htotal _ _ (fun e => hm (k', w) (by simp) e.symm) (by simpa using hlt)
      · exact h.1.2 e he

/-- A write keeps the canonical form. -/
theorem mwf_mset {lt : κ → κ → Bool} {d : κ → α} {m : List (κ × α)} (k : κ) (v : α)
    (htrans : ∀ a b c, lt a b = true → lt b c = true → lt a c = true)
    (htotal : ∀ a b, a ≠ b → lt a b = false → lt b a = true)
    (h : mwf lt d m = true) : mwf lt d (mset lt (d k) m k v) = true := by
  unfold mset
  split
  · exact mwf_mdel k h
  · next hv => exact mwf_mins htrans htotal hv (fun e he => (mem_mdel he).2) (mwf_mdel k h)

omit [DecidableEq κ] in
/-- A part of a canonical map is canonical. -/
theorem mwf_filter {lt : κ → κ → Bool} {d : κ → α} {m : List (κ × α)} (p : κ × α → Bool) (h : mwf lt d m = true) :
    mwf lt d (m.filter p) = true := by
  induction m with
  | nil => rfl
  | cons a m ih =>
    obtain ⟨k, w⟩ := a
    simp only [mwf, Bool.and_eq_true, decide_eq_true_eq, List.all_eq_true] at h
    by_cases hp : p (k, w)
    · rw [List.filter_cons_of_pos hp]
      simp only [mwf, Bool.and_eq_true, decide_eq_true_eq, List.all_eq_true]
      exact ⟨⟨h.1.1, fun e he => h.1.2 e ((List.mem_filter.mp he).1)⟩, ih h.2⟩
    · rw [List.filter_cons_of_neg hp]; exact ih h.2

end Maps

/-- A read of a table after a write to the same key gives the value written. -/
@[simp] theorem nget_nset_self {α : Type} [DecidableEq α] (d : α) (m : NMap α) (k : Nat) (v : α) :
    nget d (nset d m k v) k = v := mget_mset_self ..

/-- A write to a table leaves every other key alone. -/
theorem nget_nset_ne {α : Type} [DecidableEq α] (d d' : α) (m : NMap α) {k k' : Nat} (v : α) (hk : k' ≠ k) :
    nget d' (nset d m k v) k' = nget d' m k' := mget_mset_ne _ _ _ _ _ hk

/-! ### Fields of a word -/

theorem setF_lt {a v x lo n : Nat} (h : lo + n ≤ 32) (h1 : a < 2 ^ lo) (h2 : v < 2 ^ n) (h3 : x < 2 ^ (32 - (lo + n))) :
    a + v * 2 ^ lo + x * 2 ^ (lo + n) < 2 ^ 32 := by
  have e1 : a + v * 2 ^ lo < 2 ^ (lo + n) := by
    calc a + v * 2 ^ lo < 2 ^ lo + v * 2 ^ lo := Nat.add_lt_add_right h1 _
      _ = (v + 1) * 2 ^ lo := by rw [Nat.add_mul, Nat.one_mul, Nat.add_comm]
      _ ≤ 2 ^ n * 2 ^ lo := Nat.mul_le_mul_right _ h2
      _ = 2 ^ (lo + n) := by rw [Nat.pow_add, Nat.mul_comm]
  calc a + v * 2 ^ lo + x * 2 ^ (lo + n) < 2 ^ (lo + n) + x * 2 ^ (lo + n) := Nat.add_lt_add_right e1 _
    _ = (x + 1) * 2 ^ (lo + n) := by rw [Nat.add_mul, Nat.one_mul, Nat.add_comm]
    _ ≤ 2 ^ (32 - (lo + n)) * 2 ^ (lo + n) := Nat.mul_le_mul_right _ h3
    _ = 2 ^ 32 := by rw [← Nat.pow_add, Nat.sub_add_cancel h]

/-- Bit `i` of a word with a field replaced. -/
theorem setF_testBit (w : Word) {lo n : Nat} (v : Nat) (h : lo + n ≤ 32) (i : Nat) :
    (setF w lo n v).toNat.testBit i = if lo ≤ i ∧ i < lo + n then v.testBit (i - lo) else w.toNat.testBit i := by
  have hw : w.toNat < 2 ^ 32 := w.isLt
  have h1 : w.toNat % 2 ^ lo < 2 ^ lo := Nat.mod_lt _ (Nat.two_pow_pos _)
  have h2 : v % 2 ^ n < 2 ^ n := Nat.mod_lt _ (Nat.two_pow_pos _)
  have h3 : w.toNat >>> (lo + n) < 2 ^ (32 - (lo + n)) := by
    rw [Nat.shiftRight_eq_div_pow]
    refine Nat.div_lt_of_lt_mul ?_
    rw [← Nat.pow_add]; simpa [Nat.add_sub_of_le h] using hw
  have e : w.toNat % 2 ^ lo + v % 2 ^ n * 2 ^ lo + w.toNat >>> (lo + n) * 2 ^ (lo + n)
      = 2 ^ lo * (2 ^ n * (w.toNat >>> (lo + n)) + v % 2 ^ n) + w.toNat % 2 ^ lo := by
    rw [Nat.pow_add, Nat.mul_add, Nat.mul_comm (2 ^ lo) (v % 2 ^ n), Nat.mul_comm _ (2 ^ lo * 2 ^ n), Nat.mul_assoc]
    omega
  have hs : (setF w lo n v).toNat = 2 ^ lo * (2 ^ n * (w.toNat >>> (lo + n)) + v % 2 ^ n) + w.toNat % 2 ^ lo := by
    rw [setF, BitVec.toNat_ofNat, Nat.mod_eq_of_lt (setF_lt h h1 h2 h3), e]
  rw [hs, Nat.testBit_two_pow_mul_add _ h1, Nat.testBit_two_pow_mul_add _ h2]
  by_cases a : i < lo
  · simp [a, Nat.not_le.mpr a]
  · by_cases b : i - lo < n
    · simp [a, b, show lo ≤ i ∧ i < lo + n by omega]
    · simp only [a, b, ↓reduceIte, Nat.testBit_shiftRight, show ¬(lo ≤ i ∧ i < lo + n) by omega]
      congr 1; omega

theorem getF_testBit (w : Word) (lo n i : Nat) :
    (getF w lo n).testBit i = (decide (i < n) && w.toNat.testBit (lo + i)) := by
  simp [getF, Nat.testBit_mod_two_pow, Nat.testBit_shiftRight]

/-- A field reads what was written to it, modulo its width. -/
theorem getF_setF_self (w : Word) {lo n : Nat} (v : Nat) (h : lo + n ≤ 32) : getF (setF w lo n v) lo n = v % 2 ^ n := by
  apply Nat.eq_of_testBit_eq
  intro i
  rw [getF_testBit, setF_testBit w v h, Nat.testBit_mod_two_pow]
  by_cases hi : i < n
  · simp [hi]
  · simp [hi]

/-- A write to a field leaves the other bits of its word alone. -/
theorem getF_setF_apart (w : Word) {lo n lo' n' : Nat} (v : Nat) (h : lo + n ≤ 32) (ha : lo' + n' ≤ lo ∨ lo + n ≤ lo') :
    getF (setF w lo n v) lo' n' = getF w lo' n' := by
  apply Nat.eq_of_testBit_eq
  intro i
  rw [getF_testBit, getF_testBit, setF_testBit w v h]
  by_cases hi : i < n'
  · simp [hi, show ¬(lo ≤ lo' + i ∧ lo' + i < lo + n) by omega]
  · simp [hi]

/-- Two fields share no bit of a register. -/
def Fld.apart (f g : Fld) : Bool :=
  decide (f.page ≠ g.page) || decide (f.off ≠ g.off) || decide (f.lo + f.w ≤ g.lo) || decide (g.lo + g.w ≤ f.lo)

/-- A field lies within its word. -/
def Fld.fits (f : Fld) : Bool := decide (f.lo + f.w ≤ 32)

end Sys2Proof

namespace Sys2Proof.Machine

open Sys2Proof

/-! ### The register map -/

theorem Page.code_inj {a b : Page} (h : a.code = b.code) : a = b := by
  cases a <;> cases b <;> first | rfl | exact absurd h (by decide)

theorem RegKey.lt_trans (a b c : RegKey) (h : RegKey.lt a b = true) (h' : RegKey.lt b c = true) : RegKey.lt a c = true := by
  simp only [RegKey.lt, Bool.or_eq_true, decide_eq_true_eq, Bool.and_eq_true] at *
  omega

theorem RegKey.lt_total (a b : RegKey) (hab : a ≠ b) (h : RegKey.lt a b = false) : RegKey.lt b a = true := by
  cases hc : RegKey.lt b a
  case true => rfl
  refine absurd ?_ hab
  simp only [RegKey.lt, Bool.or_eq_false_iff, Bool.and_eq_false_iff, decide_eq_false_iff_not] at h hc
  have hp : a.page = b.page := Page.code_inj (by omega)
  have ho : a.off = b.off := by omega
  have hi : a.inst = b.inst := by omega
  have hj : a.obj = b.obj := by omega
  cases a; cases b; simp_all

/-! ### Registers and fields -/

/-- A register reads the word written to it. -/
@[simp] theorem State.word_setWord_self (s : State) (k : RegKey) (w : Word) : (s.setWord k w).word k = w :=
  mget_mset_self ..

/-- A write to a register leaves every other register alone. -/
theorem State.word_setWord_ne (s : State) {k k' : RegKey} (w : Word) (h : k' ≠ k) : (s.setWord k w).word k' = s.word k' :=
  mget_mset_ne _ _ _ _ _ h

/-- A field reads what was written to it, modulo its width. -/
theorem State.rd_wr_self (s : State) {f : Fld} (v i o : Nat) (h : f.fits = true) :
    (s.wr f v i o).rd f i o = v % 2 ^ f.w := by
  simp only [State.rd, State.wr, State.word_setWord_self]
  exact getF_setF_self _ _ (by simpa [Fld.fits] using h)

/-- A write to a field leaves a field that shares no bit with it alone. -/
theorem State.rd_wr_apart (s : State) {f g : Fld} (v i o i' o' : Nat) (hf : f.fits = true) (h : Fld.apart f g = true) :
    (s.wr f v i o).rd g i' o' = s.rd g i' o' := by
  by_cases hk : keyOf g i' o' = keyOf f i o
  · simp only [State.rd, State.wr, hk, State.word_setWord_self]
    simp only [keyOf, RegKey.mk.injEq] at hk
    refine getF_setF_apart _ _ (by simpa [Fld.fits] using hf) ?_
    simp [Fld.apart, hk.1, hk.2.1] at h
    omega
  · simp only [State.rd, State.wr, State.word_setWord_ne _ _ hk]

/-- A write to a field leaves the same field of another instance or object alone. -/
theorem State.rd_wr_other (s : State) {f g : Fld} (v i o i' o' : Nat) (h : i' ≠ i ∨ o' ≠ o) :
    (s.wr f v i o).rd g i' o' = s.rd g i' o' := by
  have hk : keyOf g i' o' ≠ keyOf f i o := by
    simp only [keyOf, ne_eq, RegKey.mk.injEq, not_and]
    omega
  simp only [State.rd, State.wr, State.word_setWord_ne _ _ hk]

end Sys2Proof.Machine
end

