-- ==== Sys2Proof/Laws/Keeps.lean ====
section
/-! SUPPORT. What every operation keeps: the rules by which `Keeps` composes, and what the primitive changes of the state
do. -/

namespace Sys2Proof.Machine

open Sys2Proof

/-! ### Composition -/

/-- A mask takes in another. -/
abbrev Covers (m n : Nat) : Prop := m ||| n = m

theorem Covers.testBit {m n : Nat} (h : Covers m n) {i : Nat} (hm : m.testBit i = false) : n.testBit i = false := by
  rw [← h, Nat.testBit_or, Bool.or_eq_false_iff] at hm
  exact hm.2

theorem mask_testBit (l : List Part) {p : Part} (h : p ∈ l) : (mask l).testBit p.idx = true := by
  induction l with
  | nil => cases h
  | cons a l ih =>
    rw [mask, Nat.testBit_or, Bool.or_eq_true]
    rcases List.mem_cons.mp h with rfl | h
    · exact .inl (Nat.testBit_two_pow_self ..)
    · exact .inr (ih h)

theorem Part.idx_inj {p q : Part} (h : p.idx = q.idx) : p = q := by
  cases p with
  | page p => cases q with
    | page q => cases p <;> cases q <;> first | rfl | exact absurd h (by decide)
    | _ => cases p <;> exact absurd h (by decide)
  | _ => cases q with
    | page q => cases q <;> exact absurd h (by decide)
    | _ => first | rfl | exact absurd h (by decide)

theorem mask_testBit_iff (l : List Part) (p : Part) : (mask l).testBit p.idx = true ↔ p ∈ l := by
  refine ⟨fun h => ?_, mask_testBit l⟩
  induction l with
  | nil => simp [mask] at h
  | cons a l ih =>
    rw [mask, Nat.testBit_or, Bool.or_eq_true] at h
    rcases h with h | h
    · rw [Nat.testBit_two_pow, decide_eq_true_eq] at h
      simp [Part.idx_inj h]
    · exact List.mem_cons_of_mem _ (ih h)

theorem mask_testBit_lt (l : List Part) {i : Nat} (h : (mask l).testBit i = true) : ∃ p ∈ l, p.idx = i := by
  induction l with
  | nil => simp [mask] at h
  | cons a l ih =>
    rw [mask, Nat.testBit_or, Bool.or_eq_true] at h
    rcases h with h | h
    · rw [Nat.testBit_two_pow, decide_eq_true_eq] at h
      exact ⟨a, by simp, h⟩
    · obtain ⟨p, hp, e⟩ := ih h
      exact ⟨p, by simp [hp], e⟩

/-- A mask of a longer list takes in that of a shorter one. -/
theorem Covers.of_subset {l L : List Part} (h : ∀ p ∈ l, p ∈ L) : Covers (mask L) (mask l) := by
  apply Nat.eq_of_testBit_eq
  intro i
  rw [Nat.testBit_or]
  cases e : (mask l).testBit i with
  | false => simp
  | true =>
    obtain ⟨p, hp, rfl⟩ := mask_testBit_lt l e
    rw [mask_testBit L (h p hp)]; rfl

theorem Covers.trans {m n k : Nat} (h : Covers m n) (h' : Covers n k) : Covers m k := by
  unfold Covers at *
  rw [← h, Nat.or_assoc, h']

@[simp] theorem mem_allPages (p : Page) : Part.page p ∈ allPages := by cases p <;> decide

theorem Part.same_trans {s t u : State} {p : Part} (h : p.same s t) (h' : p.same t u) : p.same s u := by
  cases p <;> first | exact h'.trans h | exact fun a b c => (h' a b c).trans (h a b c)

theorem Part.same_refl (s : State) (p : Part) : p.same s s := by
  cases p <;> first | rfl | exact fun _ _ _ => rfl

theorem Keeps.refl {m : Nat} (s : State) : Keeps m s s :=
  ⟨fun p _ => Part.same_refl s p, rfl, id, id, Nat.le_refl _, List.prefix_refl _⟩

/-- One more change, of parts that the mask takes in. -/
theorem Keeps.step {m n : Nat} {s t u : State} (h : Keeps n t u) (hc : Covers m n) (h0 : Keeps m s t) : Keeps m s u where
  frame p hp := Part.same_trans (h0.frame p hp) (h.frame p (hc.testBit hp))
  pending := h.pending.trans h0.pending
  keys := h.keys ∘ h0.keys
  regs := h.regs ∘ h0.regs
  fresh := Nat.le_trans h0.fresh h.fresh
  out := h0.out.trans h.out

theorem Keeps.trans {m : Nat} {s t u : State} (h0 : Keeps m s t) (h : Keeps m t u) : Keeps m s u :=
  h.step (Nat.or_self m) h0

theorem Keeps.mono {m n : Nat} {s t : State} (h : Keeps n s t) (hc : Covers m n) : Keeps m s t := h.step hc (Keeps.refl s)

theorem Keeps.ite {m : Nat} {s t u : State} {c : Prop} [Decidable c] (ht : Keeps m s t) (hu : Keeps m s u) :
    Keeps m s (if c then t else u) := by
  split <;> assumption

theorem Keeps.onlyIf {m : Nat} {s t : State} {c : Bool} {f : State → State} (hf : ∀ t, Keeps m t (f t))
    (h : Keeps m s t) : Keeps m s (onlyIf c f t) := by
  unfold Sys2Proof.onlyIf
  split
  · exact h.trans (hf t)
  · exact h

theorem Keeps.foldl {α : Type} {m : Nat} {s : State} {f : State → α → State} (hf : ∀ a t, Keeps m t (f t a)) (l : List α)
    {t : State} (h : Keeps m s t) : Keeps m s (l.foldl f t) := by
  induction l generalizing t with
  | nil => exact h
  | cons a l ih => exact ih (h.trans (hf a t))

theorem Keeps.forL {α : Type} {m : Nat} {s t : State} {l : List α} {f : α → State → State}
    (hf : ∀ a t, Keeps m t (f a t)) (h : Keeps m s t) : Keeps m s (forL l f t) :=
  Keeps.foldl hf l h

theorem Keeps.forN {m : Nat} {s t : State} {n : Nat} {f : Nat → State → State}
    (hf : ∀ a t, Keeps m t (f a t)) (h : Keeps m s t) : Keeps m s (forN n f t) :=
  Keeps.foldl hf _ h

/-- An operation that answers a state and something beside it. -/
def KeepsP {α : Type} (m : Nat) (s : State) (p : State × α) : Prop := Keeps m s p.1

theorem KeepsP.mk {α : Type} {m : Nat} {s t : State} {a : α} (h : Keeps m s t) : KeepsP m s (t, a) := h

theorem KeepsP.step {α : Type} {m n : Nat} {s t : State} {p : State × α} (h : KeepsP n t p) (hc : Covers m n)
    (h0 : Keeps m s t) : KeepsP m s p := Keeps.step h hc h0

theorem KeepsP.ite {α : Type} {m : Nat} {s : State} {p q : State × α} {c : Prop} [Decidable c] (hp : KeepsP m s p)
    (hq : KeepsP m s q) : KeepsP m s (if c then p else q) := by
  split <;> assumption

theorem KeepsP.fst {α : Type} {m : Nat} {s : State} {p : State × α} (h : KeepsP m s p) : Keeps m s p.1 := h

theorem KeepsP.of_eq {α : Type} {m : Nat} {s t : State} {p : State × α} {a : α} (e : p = (t, a)) (h : KeepsP m s p) :
    Keeps m s t := by
  subst e; exact h

theorem KeepsP.foldl {α β : Type} {m : Nat} {s : State} {f : State × α → β → State × α}
    (hf : ∀ b q, KeepsP m q.1 (f q b)) (l : List β) {q : State × α} (h : KeepsP m s q) : KeepsP m s (l.foldl f q) := by
  induction l generalizing q with
  | nil => exact h
  | cons a l ih => exact ih (Keeps.trans h (hf a q))

/-- An operation that answers something and a state, or nothing. -/
def KeepsO {α : Type} (m : Nat) (s : State) (o : Option (α × State)) : Prop := ∀ a t, o = some (a, t) → Keeps m s t

theorem KeepsO.nil {α : Type} {m : Nat} {s : State} : KeepsO (α := α) m s none := by
  intro a t h; cases h

theorem KeepsO.mk {α : Type} {m : Nat} {s t : State} {a : α} (h : Keeps m s t) : KeepsO m s (some (a, t)) := by
  intro a t h'; cases h'; exact h

theorem KeepsO.step {α : Type} {m n : Nat} {s t : State} {p : Option (α × State)} (h : KeepsO n t p) (hc : Covers m n)
    (h0 : Keeps m s t) : KeepsO m s p := fun a u e => (h a u e).step hc h0

theorem KeepsO.ite {α : Type} {m : Nat} {s : State} {p q : Option (α × State)} {c : Prop} [Decidable c] (hp : KeepsO m s p)
    (hq : KeepsO m s q) : KeepsO m s (if c then p else q) := by
  split <;> assumption

theorem KeepsO.elim {α : Type} {m : Nat} {s t : State} {a : α} {o : Option (α × State)} (h : KeepsO m s o)
    (e : o = Option.some (a, t)) : Keeps m s t := h a t e

/-- A command's outcome. -/
def KeepsX (m : Nat) (s : State) (o : Host.Outcome State Fault Refusal) : Prop := ∀ t, o = .next t → Keeps m s t

theorem KeepsX.ite {m : Nat} {s : State} {p q : Host.Outcome State Fault Refusal} {c : Prop} [Decidable c]
    (hp : KeepsX m s p) (hq : KeepsX m s q) : KeepsX m s (if c then p else q) := by
  split <;> assumption

theorem KeepsX.next {m : Nat} {s t : State} (h : Keeps m s t) : KeepsX m s (.next t) := by
  intro t h'; cases h'; exact h

theorem KeepsX.fault {m : Nat} {s : State} {f : Fault} : KeepsX m s (.fault f) := by
  intro t h; cases h

/-! ### The primitive changes -/

/-- A change of neither the registers, the associations, the free values nor the log of what left the device. -/
theorem Keeps.plain {m : Nat} {s t : State} (hp : t.pending = s.pending) (hk : t.assocs = s.assocs) (hr : t.regs = s.regs)
    (hf : t.fresh = s.fresh) (ho : t.out = s.out) (h : ∀ p : Part, m.testBit p.idx = false → p.same s t) : Keeps m s t where
  frame := h
  pending := hp
  keys := fun x => hk ▸ x
  regs := fun x => by unfold State.regsOk at *; rw [hr]; exact x
  fresh := Nat.le_of_eq hf.symm
  out := ho ▸ List.prefix_refl _

/-! ### The fields of the state -/

theorem Keeps.set_asnBusy {s : State} {x0 : Nat} : Keeps (mask [.asnBusy]) s { s with asnBusy := x0 } :=
  Keeps.plain rfl rfl rfl rfl rfl (fun p hp => by
    cases p <;> first | exact absurd hp (by decide) | rfl | exact fun _ _ _ => rfl)

theorem Keeps.set_cages {s : State} {x0 : List (Nat × Cage)} : Keeps (mask [.cages]) s { s with cages := x0 } :=
  Keeps.plain rfl rfl rfl rfl rfl (fun p hp => by
    cases p <;> first | exact absurd hp (by decide) | rfl | exact fun _ _ _ => rfl)

theorem Keeps.set_chims {s : State} {x0 : List (Nat × ChimRt)} : Keeps (mask [.chims]) s { s with chims := x0 } :=
  Keeps.plain rfl rfl rfl rfl rfl (fun p hp => by
    cases p <;> first | exact absurd hp (by decide) | rfl | exact fun _ _ _ => rfl)

theorem Keeps.set_cycle {s : State} {x0 : Nat} : Keeps (mask [.cycle]) s { s with cycle := x0 } :=
  Keeps.plain rfl rfl rfl rfl rfl (fun p hp => by
    cases p <;> first | exact absurd hp (by decide) | rfl | exact fun _ _ _ => rfl)

theorem Keeps.set_fwd {s : State} {x0 : Forwarding} : Keeps (mask [.fwd]) s { s with fwd := x0 } :=
  Keeps.plain rfl rfl rfl rfl rfl (fun p hp => by
    cases p <;> first | exact absurd hp (by decide) | rfl | exact fun _ _ _ => rfl)

theorem Keeps.set_hearth {s : State} {x0 : Hearth} : Keeps (mask [.hearth]) s { s with hearth := x0 } :=
  Keeps.plain rfl rfl rfl rfl rfl (fun p hp => by
    cases p <;> first | exact absurd hp (by decide) | rfl | exact fun _ _ _ => rfl)

theorem Keeps.set_kindle {s : State} {x0 : Kindle} : Keeps (mask [.kindle]) s { s with kindle := x0 } :=
  Keeps.plain rfl rfl rfl rfl rfl (fun p hp => by
    cases p <;> first | exact absurd hp (by decide) | rfl | exact fun _ _ _ => rfl)

theorem Keeps.set_lanes {s : State} {x0 : List (Nat × LaneRt)} : Keeps (mask [.lanes]) s { s with lanes := x0 } :=
  Keeps.plain rfl rfl rfl rfl rfl (fun p hp => by
    cases p <;> first | exact absurd hp (by decide) | rfl | exact fun _ _ _ => rfl)

theorem Keeps.set_msix {s : State} {x0 : Msix} : Keeps (mask [.msix]) s { s with msix := x0 } :=
  Keeps.plain rfl rfl rfl rfl rfl (fun p hp => by
    cases p <;> first | exact absurd hp (by decide) | rfl | exact fun _ _ _ => rfl)

theorem Keeps.set_officer {s : State} {x0 : Officer} : Keeps (mask [.officer]) s { s with officer := x0 } :=
  Keeps.plain rfl rfl rfl rfl rfl (fun p hp => by
    cases p <;> first | exact absurd hp (by decide) | rfl | exact fun _ _ _ => rfl)

theorem Keeps.set_otn {s : State} {x0 : List (Nat × OtnRt)} : Keeps (mask [.otn]) s { s with otn := x0 } :=
  Keeps.plain rfl rfl rfl rfl rfl (fun p hp => by
    cases p <;> first | exact absurd hp (by decide) | rfl | exact fun _ _ _ => rfl)

theorem Keeps.set_pair {s : State} {x0 : Pair} : Keeps (mask [.pair]) s { s with pair := x0 } :=
  Keeps.plain rfl rfl rfl rfl rfl (fun p hp => by
    cases p <;> first | exact absurd hp (by decide) | rfl | exact fun _ _ _ => rfl)

theorem Keeps.set_ports {s : State} {x0 : List (Nat × PortRt)} : Keeps (mask [.ports]) s { s with ports := x0 } :=
  Keeps.plain rfl rfl rfl rfl rfl (fun p hp => by
    cases p <;> first | exact absurd hp (by decide) | rfl | exact fun _ _ _ => rfl)

theorem Keeps.set_pwr {s : State} {x0 : Power} : Keeps (mask [.pwr]) s { s with pwr := x0 } :=
  Keeps.plain rfl rfl rfl rfl rfl (fun p hp => by
    cases p <;> first | exact absurd hp (by decide) | rfl | exact fun _ _ _ => rfl)

theorem Keeps.set_regions {s : State} {x0 : List (Nat × Region)} : Keeps (mask [.regions]) s { s with regions := x0 } :=
  Keeps.plain rfl rfl rfl rfl rfl (fun p hp => by
    cases p <;> first | exact absurd hp (by decide) | rfl | exact fun _ _ _ => rfl)

theorem Keeps.set_reinit {s : State} {x0 : Option Nat} : Keeps (mask [.reinit]) s { s with reinit := x0 } :=
  Keeps.plain rfl rfl rfl rfl rfl (fun p hp => by
    cases p <;> first | exact absurd hp (by decide) | rfl | exact fun _ _ _ => rfl)

theorem Keeps.set_rep {s : State} {x0 : Report} : Keeps (mask [.rep]) s { s with rep := x0 } :=
  Keeps.plain rfl rfl rfl rfl rfl (fun p hp => by
    cases p <;> first | exact absurd hp (by decide) | rfl | exact fun _ _ _ => rfl)

theorem Keeps.set_sched {s : State} {x0 : List Sched} : Keeps (mask [.sched]) s { s with sched := x0 } :=
  Keeps.plain rfl rfl rfl rfl rfl (fun p hp => by
    cases p <;> first | exact absurd hp (by decide) | rfl | exact fun _ _ _ => rfl)

theorem Keeps.set_seals {s : State} {x0 : List (Nat × SealRt)} : Keeps (mask [.seals]) s { s with seals := x0 } :=
  Keeps.plain rfl rfl rfl rfl rfl (fun p hp => by
    cases p <;> first | exact absurd hp (by decide) | rfl | exact fun _ _ _ => rfl)

theorem Keeps.set_slices {s : State} {x0 : List (Nat × SliceRt)} : Keeps (mask [.slices]) s { s with slices := x0 } :=
  Keeps.plain rfl rfl rfl rfl rfl (fun p hp => by
    cases p <;> first | exact absurd hp (by decide) | rfl | exact fun _ _ _ => rfl)

theorem Keeps.set_tamper {s : State} {x0 : Tamper} : Keeps (mask [.tamper]) s { s with tamper := x0 } :=
  Keeps.plain rfl rfl rfl rfl rfl (fun p hp => by
    cases p <;> first | exact absurd hp (by decide) | rfl | exact fun _ _ _ => rfl)

theorem Keeps.set_vault {s : State} {x0 : Vault} : Keeps (mask [.vault]) s { s with vault := x0 } :=
  Keeps.plain rfl rfl rfl rfl rfl (fun p hp => by
    cases p <;> first | exact absurd hp (by decide) | rfl | exact fun _ _ _ => rfl)

theorem Keeps.set_pwr_hearth_kindle_seals_regions_reinit {s : State} {x0 : Power} {x1 : Hearth} {x2 : Kindle} {x3 : List (Nat × SealRt)} {x4 : List (Nat × Region)} {x5 : Option Nat} : Keeps (mask [.pwr, .hearth, .kindle, .seals, .regions, .reinit]) s { s with pwr := x0, hearth := x1, kindle := x2, seals := x3, regions := x4, reinit := x5 } :=
  Keeps.plain rfl rfl rfl rfl rfl (fun p hp => by
    cases p <;> first | exact absurd hp (by decide) | rfl | exact fun _ _ _ => rfl)

theorem Keeps.set_tick_cycle {s : State} {x0 : Nat} {x1 : Nat} : Keeps (mask [.tick, .cycle]) s { s with tick := x0, cycle := x1 } :=
  Keeps.plain rfl rfl rfl rfl rfl (fun p hp => by
    cases p <;> first | exact absurd hp (by decide) | rfl | exact fun _ _ _ => rfl)

theorem Keeps.set_vault_kindle {s : State} {x0 : Vault} {x1 : Kindle} : Keeps (mask [.vault, .kindle]) s { s with vault := x0, kindle := x1 } :=
  Keeps.plain rfl rfl rfl rfl rfl (fun p hp => by
    cases p <;> first | exact absurd hp (by decide) | rfl | exact fun _ _ _ => rfl)

theorem Keeps.set_time {s : State} {x0 : Time} : Keeps (mask [.time]) s { s with time := x0 } :=
  Keeps.plain rfl rfl rfl rfl rfl (fun p hp => by
    cases p <;> first | exact absurd hp (by decide) | rfl | exact fun _ _ _ => rfl)

theorem State.setWord_keeps {s : State} {k : RegKey} {w : Word} : Keeps (mask [.page k.page]) s (s.setWord k w) where
  frame p hp := by
    cases p with
    | page p =>
      intro off i o
      refine s.word_setWord_ne w ?_
      rintro rfl
      simp [mask] at hp
    | _ => rfl
  pending := rfl
  keys := id
  regs := mwf_mset (d := resetWord) k w RegKey.lt_trans RegKey.lt_total
  fresh := Nat.le_refl _
  out := List.prefix_refl _

theorem State.wr_keeps {s : State} {f : Fld} {v i o : Nat} : Keeps (mask [.page f.page]) s (s.wr f v i o) :=
  State.setWord_keeps (k := keyOf f i o)

theorem State.burn_keeps {s : State} {n : Nat} : Keeps (mask [.fresh]) s (s.burn n) where
  frame p hp := by cases p <;> first | exact absurd hp (by decide) | rfl | exact fun _ _ _ => rfl
  pending := rfl
  keys := id
  regs := id
  fresh := Nat.le_add_right ..
  out := List.prefix_refl _

theorem State.emit_keeps {s : State} {o : Out} : Keeps (mask [.out]) s (s.emit o) where
  frame p hp := by cases p <;> first | exact absurd hp (by decide) | rfl | exact fun _ _ _ => rfl
  pending := rfl
  keys := id
  regs := id
  fresh := Nat.le_refl _
  out := List.prefix_append ..

/-! ### Associations (R153) -/

@[simp] theorem Assoc.settled_settled (a : Assoc) : a.settled.settled = a.settled := by
  by_cases h : a.state.keyless = true
  · have e : a.settled = a.wiped := if_pos h
    have e' : a.wiped.settled = a.wiped.wiped := if_pos (c := a.wiped.state.keyless = true) h
    rw [e, e']; rfl
  · have e : a.settled = a := if_neg h
    rw [e, e]

theorem AsnTable.set_settled {t : AsnTable} (h : t.Settled) (a : Nat) (e : Assoc) : (t.set a e).Settled := by
  refine ⟨h.1, fun x hx => ?_⟩
  rcases mem_mset hx with rfl | hx
  · simp
  · exact h.2 x hx

theorem AsnTable.mapAll_settled (t : AsnTable) (f : Assoc → Assoc) : (t.mapAll f).Settled := by
  refine ⟨by simp [mapAll], fun x hx => ?_⟩
  simp only [mapAll, List.mem_filter, List.mem_map] at hx
  obtain ⟨⟨y, -, rfl⟩, -⟩ := hx
  simp

theorem AsnTable.empty_settled : AsnTable.Settled {} := by
  refine ⟨by decide, fun x hx => ?_⟩
  cases hx

theorem State.setAsn_keeps {s : State} {a : Nat} {e : Assoc} : Keeps (mask [.assocs]) s (s.setAsn a e) where
  frame p hp := by cases p <;> first | exact absurd hp (by decide) | rfl | exact fun _ _ _ => rfl
  pending := rfl
  keys := fun h => AsnTable.set_settled h a e
  regs := id
  fresh := Nat.le_refl _
  out := List.prefix_refl _

end Sys2Proof.Machine
end

