-- ==== Sys2Proof/Laws/Ops.lean ====
section
/-! SUPPORT. What the operations of Machine/Ops.lean keep, and the parts of the state that they may change. -/

namespace Sys2Proof.Machine

open Sys2Proof

theorem State.setPort_keeps {s : State} {p : Nat} {r : PortRt} :
    Keeps (mask [.ports]) s (State.setPort s p r) := by
  unfold State.setPort
  refine Keeps.step Keeps.set_ports (by rfl) ?_
  exact Keeps.refl _

theorem State.modPort_keeps {s : State} {p : Nat} {f : PortRt → PortRt} :
    Keeps (mask [.ports]) s (State.modPort s p f) := by
  unfold State.modPort
  refine Keeps.step State.setPort_keeps (by rfl) ?_
  exact Keeps.refl _

theorem State.setSlot_keeps {s : State} {v : Nat} {x : Slot} :
    Keeps (mask [.vault]) s (State.setSlot s v x) := by
  unfold State.setSlot
  refine Keeps.step Keeps.set_vault (by rfl) ?_
  exact Keeps.refl _

theorem State.schedule_keeps {s : State} {due : Nat} {act : Act} :
    Keeps (mask [.sched]) s (State.schedule s due act) := by
  unfold State.schedule
  refine Keeps.step Keeps.set_sched (by rfl) ?_
  exact Keeps.refl _

theorem State.setLane_keeps {s : State} {g : Nat} {l : LaneRt} :
    Keeps (mask [.lanes]) s (State.setLane s g l) := by
  unfold State.setLane
  refine Keeps.step Keeps.set_lanes (by rfl) ?_
  exact Keeps.refl _

theorem State.modLane_keeps {s : State} {g : Nat} {f : LaneRt → LaneRt} :
    Keeps (mask [.lanes]) s (State.modLane s g f) := by
  unfold State.modLane
  refine Keeps.step State.setLane_keeps (by rfl) ?_
  exact Keeps.refl _

theorem State.modAsn_keeps {s : State} {a : Nat} {f : Assoc → Assoc} :
    Keeps (mask [.assocs]) s (State.modAsn s a f) := by
  unfold State.modAsn
  refine Keeps.step State.setAsn_keeps (by rfl) ?_
  exact Keeps.refl _

theorem State.bumpReg_keeps {s : State} {f : Fld} {n : Nat} {i : Nat} {o : Nat} :
    Keeps (mask [.page f.page]) s (State.bumpReg s f n i o) := by
  unfold State.bumpReg
  with_reducible refine Keeps.step State.wr_keeps ?_ ?_
  · exact Covers.of_subset (l := [.page f.page]) (by simp)
  exact Keeps.refl _

theorem State.freeLock_keeps {s : State} :
    Keeps (mask [.pair, .page .flu]) s (State.freeLock s) := by
  unfold State.freeLock
  refine Keeps.ite ?_ ?_
  · extract_lets x1 x2
    have h1 : Keeps (mask [.pair, .page .flu]) s x1 := by
      unfold x1
      refine Keeps.step State.wr_keeps (by rfl) ?_
      exact Keeps.refl _
    clear_value x1
    refine Keeps.step Keeps.set_pair (by rfl) ?_
    assumption
  · exact Keeps.refl _

theorem State.setMode_keeps {s : State} {m1 : Nat} :
    Keeps (mask [.pair, .page .dev, .page .flu]) s (State.setMode s m1) := by
  unfold State.setMode
  extract_lets x1
  have h1 : Keeps (mask [.pair, .page .dev, .page .flu]) s x1 := by
    unfold x1
    refine Keeps.step State.wr_keeps (by rfl) ?_
    refine Keeps.step State.wr_keeps (by rfl) ?_
    exact Keeps.refl _
  clear_value x1
  refine Keeps.ite ?_ ?_
  · assumption
  · refine Keeps.step State.freeLock_keeps (by rfl) ?_
    assumption

theorem State.setEffMode_keeps {s : State} {m1 : Nat} :
    Keeps (mask [.pair, .page .dev, .page .flu]) s (State.setEffMode s m1) := by
  unfold State.setEffMode
  refine Keeps.ite ?_ ?_
  · extract_lets x1
    have h1 : Keeps (mask [.pair, .page .dev, .page .flu]) s x1 := by
      unfold x1
      refine Keeps.step State.wr_keeps (by rfl) ?_
      exact Keeps.refl _
    clear_value x1
    refine Keeps.ite ?_ ?_
    · assumption
    · refine Keeps.step State.freeLock_keeps (by rfl) ?_
      assumption
  · refine Keeps.step State.setMode_keeps (by rfl) ?_
    exact Keeps.refl _

theorem State.setOtnp_keeps {s : State} {p : Nat} {r : OtnRt} :
    Keeps (mask [.otn]) s (State.setOtnp s p r) := by
  unfold State.setOtnp
  refine Keeps.step Keeps.set_otn (by rfl) ?_
  exact Keeps.refl _

theorem State.modOtnp_keeps {s : State} {p : Nat} {f : OtnRt → OtnRt} :
    Keeps (mask [.otn]) s (State.modOtnp s p f) := by
  unfold State.modOtnp
  refine Keeps.step State.setOtnp_keeps (by rfl) ?_
  exact Keeps.refl _

theorem State.at_keeps {s : State} {cyc : Cyc} :
    Keeps (mask [.cycle]) s (State.at s cyc) := by
  unfold State.at
  refine Keeps.step Keeps.set_cycle (by rfl) ?_
  exact Keeps.refl _

theorem State.putCopy_keeps {s : State} {k : RegKey} {w : Word} {cyc : Nat} :
    Keeps (mask [.sched]) s (State.putCopy s k w cyc) := by
  unfold State.putCopy
  refine Keeps.step Keeps.set_sched (by rfl) ?_
  exact Keeps.refl _

theorem State.wrWords_keeps {s : State} {p : Page} {off : Nat} {ws : List Word} {i : Nat} :
    Keeps (mask [.page p]) s (s.wrWords p off ws i) := by
  suffices h : ∀ q : State × Nat, Keeps (mask [.page p]) q.1
      (ws.foldl (fun (q : State × Nat) w => (q.1.setWord ⟨p, q.2, i, 0⟩ w, q.2 + 4)) q).1 from h (s, off)
  induction ws with
  | nil => exact fun q => Keeps.refl _
  | cons w ws ih => exact fun q => Keeps.trans (State.setWord_keeps (k := ⟨p, q.2, i, 0⟩)) (ih (q.1.setWord ⟨p, q.2, i, 0⟩ w, q.2 + 4))

end Sys2Proof.Machine
end

