-- ==== Sys2Proof/Laws/Flags.lean ====
section
/-! SUPPORT. What the operations of Machine/Flags.lean keep, and the parts of the state that they may change. -/

namespace Sys2Proof.Machine

open Sys2Proof

theorem State.setEvtWord_keeps {s : State} {k : RegKey} {w : Word} :
    Keeps (mask [.rep]) s (State.setEvtWord s k w) := by
  unfold State.setEvtWord
  refine Keeps.step Keeps.set_rep (by rfl) ?_
  exact Keeps.refl _

theorem State.wrEvt_keeps {s : State} {f : Fld} {v : Nat} {i : Nat} :
    Keeps (mask [.rep]) s (State.wrEvt s f v i) := by
  unfold State.wrEvt
  refine Keeps.step State.setEvtWord_keeps (by rfl) ?_
  exact Keeps.refl _

theorem State.raise_keeps {s : State} {r : Raised} :
    Keeps (mask [.rep]) s (State.raise s r) := by
  unfold State.raise
  refine Keeps.step Keeps.set_rep (by rfl) ?_
  exact Keeps.refl _

theorem State.irq_keeps {s : State} {p : Page} {i : Nat} :
    Keeps (mask [.rep]) s (State.irq s p i) := by
  unfold State.irq
  refine Keeps.step Keeps.set_rep (by rfl) ?_
  exact Keeps.refl _

theorem State.event_keeps {s : State} {f : Fld} {i : Nat} :
    Keeps (mask [.rep]) s (State.event s f i) := by
  unfold State.event
  extract_lets x1 x2
  have h1 : Keeps (mask [.rep]) s x1 := by
    unfold x1
    refine Keeps.step State.wrEvt_keeps (by rfl) ?_
    exact Keeps.refl _
  have h2 : Keeps (mask [.rep]) s x2 := by
    unfold x2
    refine Keeps.step State.raise_keeps (by rfl) ?_
    assumption
  clear_value x2
  clear_value x1
  refine Keeps.onlyIf ?_ ?_
  · intro u1
    refine Keeps.step State.irq_keeps (by rfl) ?_
    exact Keeps.refl _
  · assumption

theorem State.count_keeps {s : State} {p : Page} {i : Nat} {sel : Nat} {n : Nat} {qual : Nat} :
    Keeps (mask [.rep]) s (State.count s p i sel n qual) := by
  unfold State.count
  extract_lets x1 x2 x3
  refine Keeps.ite ?_ ?_
  · exact Keeps.refl _
  · refine Keeps.ite ?_ ?_
    · refine Keeps.step Keeps.set_rep (by rfl) ?_
      exact Keeps.refl _
    · refine Keeps.step Keeps.set_rep (by rfl) ?_
      exact Keeps.refl _

theorem State.fltTake_keeps {s : State} {p : Page} {i : Nat} {src : Nat} {inj : Bool} :
    Keeps (mask [.rep]) s (State.fltTake s p i src inj) := by
  unfold State.fltTake
  extract_lets x1 x2
  have h1 : Keeps (mask [.rep]) s x1 := by
    unfold x1
    refine Keeps.step State.wrEvt_keeps (by rfl) ?_
    refine Keeps.step State.wrEvt_keeps (by rfl) ?_
    refine Keeps.step State.wrEvt_keeps (by rfl) ?_
    refine Keeps.step State.wrEvt_keeps (by rfl) ?_
    exact Keeps.refl _
  clear_value x1
  refine Keeps.step Keeps.set_rep (by rfl) ?_
  assumption

theorem State.fltOverflow_keeps {s : State} :
    Keeps (mask [.rep]) s (State.fltOverflow s) := by
  unfold State.fltOverflow
  extract_lets x1
  have h1 : Keeps (mask [.rep]) s x1 := by
    unfold x1
    refine Keeps.step State.wrEvt_keeps (by rfl) ?_
    refine Keeps.step State.wrEvt_keeps (by rfl) ?_
    exact Keeps.refl _
  clear_value x1
  refine Keeps.onlyIf ?_ ?_
  · intro u1
    refine Keeps.step State.irq_keeps (by rfl) ?_
    exact Keeps.refl _
  · assumption

theorem State.startFlush_keeps {s : State} :
    Keeps (mask [.rep]) s (State.startFlush s) := by
  unfold State.startFlush
  split
  · refine Keeps.step Keeps.set_rep (by rfl) ?_
    exact Keeps.refl _
  · refine Keeps.step Keeps.set_rep (by rfl) ?_
    exact Keeps.refl _

theorem State.fltLatch_keeps {s : State} {p : Page} {i : Nat} {src : Nat} {inj : Bool} :
    Keeps (mask [.rep]) s (State.fltLatch s p i src inj) := by
  unfold State.fltLatch
  extract_lets x1 x2 x3 x4 x5
  have h1 : Keeps (mask [.rep]) s x1 := by
    unfold x1
    refine Keeps.step State.count_keeps (by rfl) ?_
    exact Keeps.refl _
  have h2 : Keeps (mask [.rep]) s x2 := by
    unfold x2
    refine Keeps.ite ?_ ?_
    · refine Keeps.step State.fltTake_keeps (by rfl) ?_
      assumption
    · refine Keeps.ite ?_ ?_
      · refine Keeps.step State.fltOverflow_keeps (by rfl) ?_
        refine Keeps.step State.fltTake_keeps (by rfl) ?_
        assumption
      · refine Keeps.step State.fltOverflow_keeps (by rfl) ?_
        assumption
  have h3 : Keeps (mask [.rep]) s x3 := by
    unfold x3
    refine Keeps.step State.wrEvt_keeps (by rfl) ?_
    assumption
  have h4 : Keeps (mask [.rep]) s x4 := by
    unfold x4
    refine Keeps.onlyIf ?_ ?_
    · intro u1
      refine Keeps.step State.irq_keeps (by rfl) ?_
      exact Keeps.refl _
    · assumption
  have h5 : Keeps (mask [.rep]) s x5 := by
    unfold x5
    refine Keeps.step State.raise_keeps (by rfl) ?_
    assumption
  clear_value x5
  clear_value x4
  clear_value x3
  clear_value x2
  clear_value x1
  refine Keeps.step State.startFlush_keeps (by rfl) ?_
  assumption

theorem State.pageTake_keeps {s : State} {p : Page} {i : Nat} {src : Nat} {inj : Bool} :
    Keeps (mask [.rep]) s (State.pageTake s p i src inj) := by
  unfold State.pageTake
  extract_lets x1 x2 x3
  have h1 : Keeps (mask [.rep]) s x1 := by
    unfold x1
    refine Keeps.step State.wrEvt_keeps (by rfl) ?_
    refine Keeps.step State.wrEvt_keeps (by rfl) ?_
    refine Keeps.step State.wrEvt_keeps (by rfl) ?_
    exact Keeps.refl _
  clear_value x1
  refine Keeps.step Keeps.set_rep (by rfl) ?_
  assumption

theorem State.lowerSource_keeps {s : State} {p : Page} {i : Nat} {src : Nat} {inj : Bool} :
    Keeps (mask [.rep]) s (State.lowerSource s p i src inj) := by
  unfold State.lowerSource
  refine Keeps.ite ?_ ?_
  · extract_lets x1
    have h1 : Keeps (mask [.rep]) s x1 := by
      unfold x1
      refine Keeps.step State.pageTake_keeps (by rfl) ?_
      exact Keeps.refl _
    clear_value x1
    refine Keeps.onlyIf ?_ ?_
    · intro u1
      refine Keeps.step State.fltTake_keeps (by rfl) ?_
      exact Keeps.refl _
    · assumption
  · exact Keeps.refl _

theorem State.fault_keeps {s : State} {p : Page} {i : Nat} {src : Nat} {inj : optParam Bool false} :
    Keeps (mask [.rep]) s (State.fault s p i src inj) := by
  unfold State.fault
  extract_lets x1 x2 x3
  have h1 : Keeps (mask [.rep]) s x1 := by
    unfold x1
    refine Keeps.onlyIf ?_ ?_
    · intro u1
      refine Keeps.step State.count_keeps (by rfl) ?_
      exact Keeps.refl _
    · exact Keeps.refl _
  have h2 : Keeps (mask [.rep]) s x2 := by
    unfold x2
    refine Keeps.step State.count_keeps (by rfl) ?_
    refine Keeps.step State.wrEvt_keeps (by rfl) ?_
    refine Keeps.step State.lowerSource_keeps (by rfl) ?_
    assumption
  have h3 : Keeps (mask [.rep]) s x3 := by
    unfold x3
    refine Keeps.onlyIf ?_ ?_
    · intro u1
      refine Keeps.step State.fltOverflow_keeps (by rfl) ?_
      exact Keeps.refl _
    · assumption
  clear_value x3
  clear_value x2
  clear_value x1
  refine Keeps.ite ?_ ?_
  · refine Keeps.step State.fltLatch_keeps (by rfl) ?_
    refine Keeps.step State.pageTake_keeps (by rfl) ?_
    assumption
  · refine Keeps.step State.raise_keeps (by rfl) ?_
    assumption

theorem State.setCtr_keeps {s : State} {p : Page} {i : Nat} {c : Nat} {v : Counter} :
    Keeps (mask [.rep]) s (State.setCtr s p i c v) := by
  unfold State.setCtr
  refine Keeps.step Keeps.set_rep (by rfl) ?_
  exact Keeps.refl _

theorem State.pmcEvent_keeps {s : State} {b : Nat} {p : Page} {i : Nat} {c : Nat} :
    Keeps (mask [.rep]) s (State.pmcEvent s b p i c) := by
  unfold State.pmcEvent
  extract_lets x1 x2 x3 x4
  have h1 : Keeps (mask [.rep]) s x2 := by
    unfold x2
    refine Keeps.step State.wrEvt_keeps (by rfl) ?_
    refine Keeps.step State.wrEvt_keeps (by rfl) ?_
    exact Keeps.refl _
  have h2 : Keeps (mask [.rep]) s x3 := by
    unfold x3
    refine Keeps.step State.wrEvt_keeps (by rfl) ?_
    assumption
  have h3 : Keeps (mask [.rep]) s x4 := by
    unfold x4
    refine Keeps.step State.raise_keeps (by rfl) ?_
    assumption
  clear_value x4
  clear_value x3
  clear_value x2
  refine Keeps.ite ?_ ?_
  · refine Keeps.onlyIf ?_ ?_
    · intro u1
      refine Keeps.step State.irq_keeps (by rfl) ?_
      exact Keeps.refl _
    · assumption
  · refine Keeps.step State.event_keeps (by rfl) ?_
    assumption

theorem State.sendVector_keeps {s : State} {v : Nat} :
    Keeps (mask [.out]) s (State.sendVector s v) := by
  unfold State.sendVector
  refine Keeps.step State.emit_keeps (by rfl) ?_
  exact Keeps.refl _

theorem State.raiseVector_keeps {s : State} {v : Nat} :
    Keeps (mask [.msix, .out]) s (State.raiseVector s v) := by
  unfold State.raiseVector
  refine Keeps.ite ?_ ?_
  · refine Keeps.ite ?_ ?_
    · exact Keeps.refl _
    · refine Keeps.step Keeps.set_msix (by rfl) ?_
      exact Keeps.refl _
  · refine Keeps.step State.sendVector_keeps (by rfl) ?_
    exact Keeps.refl _

theorem addCtr_keeps {a0 : Nat} {a1 : Page} {a2 a3 a4 : Nat} {a5 : State} :
    Keeps (mask [.rep]) a5 (addCtr a0 a1 a2 a3 a4 a5) := by
  induction a0 generalizing a3 a4 a5 with
  | zero => exact Keeps.refl _
  | succ fuel ih =>
    unfold addCtr
    extract_lets k v t r z
    have ht : Keeps (mask [.rep]) a5 t := State.setCtr_keeps
    have hz : Keeps (mask [.rep]) a5 z := State.setCtr_keeps
    clear_value k v t z
    refine Keeps.ite (Keeps.refl _) (Keeps.ite (Keeps.ite ht (Keeps.ite ?_ ?_)) (Keeps.ite ?_ (Keeps.ite ?_ ?_)))
    · exact Keeps.step Keeps.set_rep rfl ht
    · exact Keeps.step ih rfl ht
    · exact State.setCtr_keeps
    · exact hz
    · exact Keeps.step State.count_keeps rfl (Keeps.step State.pmcEvent_keeps rfl hz)

theorem State.applyTally_keeps {t : Tally} {s : State} :
    Keeps (mask [.rep]) s (State.applyTally t s) := by
  unfold State.applyTally
  refine Keeps.forN ?_ ?_
  · intro b1 u1
    refine Keeps.ite ?_ ?_
    · refine Keeps.ite ?_ ?_
      · extract_lets x1 x2 x3 x4
        have h1 : Keeps (mask [.rep]) u1 x4 := by
          unfold x4
          refine Keeps.step State.setCtr_keeps (by rfl) ?_
          exact Keeps.refl _
        clear_value x4
        refine Keeps.step addCtr_keeps (by rfl) ?_
        assumption
      · refine Keeps.step addCtr_keeps (by rfl) ?_
        exact Keeps.refl _
    · exact Keeps.refl _
  · exact Keeps.refl _

theorem State.raiseBit_keeps {s : State} {p : Page} {i : Nat} {b : Nat} :
    Keeps (mask [.rep]) s (State.raiseBit s p i b) := by
  unfold State.raiseBit
  refine Keeps.step State.raise_keeps (by rfl) ?_
  exact Keeps.refl _

theorem State.takeInjected_keeps {s : State} {p : Page} {i : Nat} {src : Nat} {double : Bool} :
    KeepsP (mask [.rep]) s (State.takeInjected s p i src double) := by
  unfold State.takeInjected
  extract_lets x1 x2
  refine KeepsP.ite ?_ ?_
  · refine KeepsP.mk ?_
    refine Keeps.step Keeps.set_rep (by rfl) ?_
    exact Keeps.refl _
  · refine KeepsP.ite ?_ ?_
    · refine KeepsP.mk ?_
      refine Keeps.step Keeps.set_rep (by rfl) ?_
      exact Keeps.refl _
    · refine KeepsP.mk ?_
      exact Keeps.refl _

theorem State.sramError_keeps {s : State} {p : Page} {i : Nat} {src : Nat} :
    Keeps (mask [.rep, .page .flt]) s (State.sramError s p i src) := by
  unfold State.sramError
  split
  rename_i x1 y0 e1
  have h1 : Keeps (mask [.rep, .page .flt]) s x1 := KeepsP.of_eq e1 (by
      refine KeepsP.step State.takeInjected_keeps (by rfl) ?_
      exact Keeps.refl _
    )
  clear e1
  extract_lets x2 x3 x4
  have h2 : Keeps (mask [.rep, .page .flt]) s x2 := by
    unfold x2
    refine Keeps.step State.count_keeps (by rfl) ?_
    refine Keeps.step State.bumpReg_keeps (by rfl) ?_
    assumption
  have h3 : Keeps (mask [.rep, .page .flt]) s x4 := by
    unfold x4
    refine Keeps.step Keeps.set_rep (by rfl) ?_
    assumption
  clear_value x4
  clear_value x2
  refine Keeps.step State.fault_keeps (by rfl) ?_
  assumption

theorem State.sramCorrected_keeps {s : State} {p : Page} {i : Nat} {src : Nat} :
    Keeps (mask [.rep, .page .flt]) s (State.sramCorrected s p i src) := by
  unfold State.sramCorrected
  split
  rename_i x1 y0 e1
  have h1 : Keeps (mask [.rep, .page .flt]) s x1 := KeepsP.of_eq e1 (by
      refine KeepsP.step State.takeInjected_keeps (by rfl) ?_
      exact Keeps.refl _
    )
  clear e1
  extract_lets x2
  have h2 : Keeps (mask [.rep, .page .flt]) s x2 := by
    unfold x2
    refine Keeps.step State.count_keeps (by rfl) ?_
    refine Keeps.step State.bumpReg_keeps (by rfl) ?_
    assumption
  clear_value x2
  split
  · refine Keeps.step State.count_keeps (by rfl) ?_
    assumption
  · refine Keeps.ite ?_ ?_
    · refine Keeps.step State.count_keeps (by rfl) ?_
      assumption
    · assumption
  · assumption

theorem State.stored_keeps {s : State} {ring : List Record} {r : Record} :
    Keeps (mask [.rep]) s (State.stored s ring r) := by
  unfold State.stored
  extract_lets x1 x2 x3
  have h1 : Keeps (mask [.rep]) s x1 := by
    unfold x1
    refine Keeps.step State.count_keeps (by rfl) ?_
    exact Keeps.refl _
  have h2 : Keeps (mask [.rep]) s x3 := by
    unfold x3
    refine Keeps.step Keeps.set_rep (by rfl) ?_
    assumption
  clear_value x3
  clear_value x1
  refine Keeps.onlyIf ?_ ?_
  · intro u1
    refine Keeps.step Keeps.set_rep (by rfl) ?_
    exact Keeps.refl _
  · assumption

theorem State.storeRecord_keeps {s : State} {r : Record} :
    Keeps (mask [.rep]) s (State.storeRecord s r) := by
  unfold State.storeRecord
  refine Keeps.ite ?_ ?_
  · refine Keeps.step State.stored_keeps (by rfl) ?_
    exact Keeps.refl _
  · split
    · refine Keeps.step State.stored_keeps (by rfl) ?_
      refine Keeps.step State.count_keeps (by rfl) ?_
      exact Keeps.refl _
    · extract_lets x1 x2 x3 x4
      have h1 : Keeps (mask [.rep]) s x2 := by
        unfold x2
        refine Keeps.step State.count_keeps (by rfl) ?_
        refine Keeps.step Keeps.set_rep (by rfl) ?_
        exact Keeps.refl _
      have h2 : Keeps (mask [.rep]) s x3 := by
        unfold x3
        refine Keeps.step State.wrEvt_keeps (by rfl) ?_
        assumption
      have h3 : Keeps (mask [.rep]) s x4 := by
        unfold x4
        refine Keeps.onlyIf ?_ ?_
        · intro u1
          refine Keeps.step State.irq_keeps (by rfl) ?_
          exact Keeps.refl _
        · assumption
      clear_value x4
      clear_value x3
      clear_value x2
      refine Keeps.onlyIf ?_ ?_
      · intro u1
        refine Keeps.step State.raise_keeps (by rfl) ?_
        exact Keeps.refl _
      · assumption

theorem State.filterRecord_keeps {s : State} {q : Raised} {seq : Nat} :
    Keeps (mask [.rep]) s (State.filterRecord s q seq) := by
  unfold State.filterRecord
  extract_lets x1 x2 x3 x4 x5 x6
  have h1 : Keeps (mask [.rep]) s x5 := by
    unfold x5
    refine Keeps.step Keeps.set_rep (by rfl) ?_
    exact Keeps.refl _
  clear_value x5
  refine Keeps.ite ?_ ?_
  · refine Keeps.step State.count_keeps (by rfl) ?_
    refine Keeps.step Keeps.set_rep (by rfl) ?_
    exact Keeps.refl _
  · refine Keeps.ite ?_ ?_
    · refine Keeps.step State.count_keeps (by rfl) ?_
      refine Keeps.step Keeps.set_rep (by rfl) ?_
      exact Keeps.refl _
    · refine Keeps.ite ?_ ?_
      · refine Keeps.ite ?_ ?_
        · refine Keeps.step Keeps.set_rep (by rfl) ?_
          assumption
        · refine Keeps.step State.count_keeps (by rfl) ?_
          refine Keeps.step Keeps.set_rep (by rfl) ?_
          assumption
      · refine Keeps.step State.storeRecord_keeps (by rfl) ?_
        assumption

theorem State.record_keeps {s : State} {q : Raised} :
    Keeps (mask [.rep]) s (State.record s q) := by
  unfold State.record
  extract_lets x1 x2 x3
  refine Keeps.ite ?_ ?_
  · refine Keeps.step State.filterRecord_keeps (by rfl) ?_
    refine Keeps.step State.count_keeps (by rfl) ?_
    refine Keeps.step Keeps.set_rep (by rfl) ?_
    exact Keeps.refl _
  · refine Keeps.ite ?_ ?_
    · refine Keeps.step Keeps.set_rep (by rfl) ?_
      exact Keeps.refl _
    · refine Keeps.step Keeps.set_rep (by rfl) ?_
      exact Keeps.refl _

theorem State.sendIrqs_keeps {s : State} :
    Keeps (mask [.rep, .msix, .out]) s (State.sendIrqs s) := by
  unfold State.sendIrqs
  refine Keeps.forL ?_ ?_
  · intro b1 u1
    refine Keeps.step State.raiseVector_keeps (by rfl) ?_
    exact Keeps.refl _
  · refine Keeps.step Keeps.set_rep (by rfl) ?_
    exact Keeps.refl _

theorem State.settleOnce_keeps {s : State} :
    Keeps (mask [.rep]) s (State.settleOnce s) := by
  unfold State.settleOnce
  extract_lets x1 x2 x3 x4 x5
  have h1 : Keeps (mask [.rep]) s x3 := by
    unfold x3
    refine Keeps.forL ?_ ?_
    · intro b1 u1
      refine Keeps.step State.applyTally_keeps (by rfl) ?_
      exact Keeps.refl _
    · refine Keeps.step Keeps.set_rep (by rfl) ?_
      exact Keeps.refl _
  clear_value x3
  refine Keeps.forL ?_ ?_
  · intro b1 u1
    refine Keeps.step State.record_keeps (by rfl) ?_
    exact Keeps.refl _
  · refine Keeps.step Keeps.set_rep (by rfl) ?_
    assumption

theorem State.settle_keeps {s : State} :
    Keeps (mask [.rep]) s (State.settle s) := by
  unfold State.settle
  refine Keeps.step State.settleOnce_keeps (by rfl) ?_
  refine Keeps.step State.settleOnce_keeps (by rfl) ?_
  exact Keeps.refl _

theorem State.writeMsix_keeps {s : State} {i : Nat} {w : Word} :
    Keeps (mask [.msix, .out]) s (State.writeMsix s i w) := by
  unfold State.writeMsix
  extract_lets x1 x2 x3 x4 x5
  have h1 : Keeps (mask [.msix, .out]) s x3 := by
    unfold x3
    refine Keeps.step Keeps.set_msix (by rfl) ?_
    exact Keeps.refl _
  clear_value x3
  refine Keeps.ite ?_ ?_
  · refine Keeps.step State.sendVector_keeps (by rfl) ?_
    refine Keeps.step Keeps.set_msix (by rfl) ?_
    assumption
  · assumption

/-- What a command does to the state, its cycle settled. -/
theorem KeepsX.done {m : Nat} {s t : State} (hc : Covers m (mask [.rep, .msix, .out])) (h : Keeps m s t) :
    KeepsX m s (done t) := by
  intro u hu
  cases hu
  exact Keeps.step State.sendIrqs_keeps (hc.trans rfl) (Keeps.step State.settle_keeps (hc.trans rfl) h)

end Sys2Proof.Machine
end

