-- ==== Sys2Proof/Laws/Lanes.lean ====
section
/-! SUPPORT. What the operations of Machine/Lanes.lean keep, and the parts of the state that they may change. -/

namespace Sys2Proof.Machine

open Sys2Proof

theorem State.setChk_keeps {s : State} {g : Nat} {c : Checker} :
    Keeps (mask [.lanes, .page .lan]) s (State.setChk s g c) := by
  unfold State.setChk
  refine Keeps.step State.modLane_keeps (by rfl) ?_
  refine Keeps.step State.wr_keeps (by rfl) ?_
  exact Keeps.refl _

theorem State.restChk_keeps {s : State} {g : Nat} :
    Keeps (mask [.lanes, .page .lan]) s (State.restChk s g) := by
  unfold State.restChk
  refine Keeps.ite ?_ ?_
  · exact Keeps.refl _
  · refine Keeps.step State.setChk_keeps (by rfl) ?_
    exact Keeps.refl _

theorem State.enterLane_keeps {s : State} {g : Nat} {st : Nat} :
    Keeps (mask [.lanes, .page .lan]) s (State.enterLane s g st) := by
  unfold State.enterLane
  refine Keeps.step State.restChk_keeps (by rfl) ?_
  refine Keeps.step State.modLane_keeps (by rfl) ?_
  refine Keeps.step State.wr_keeps (by rfl) ?_
  exact Keeps.refl _

theorem State.laneTrain_keeps {s : State} {g : Nat} :
    Keeps (mask [.lanes, .page .lan]) s (State.laneTrain s g) := by
  unfold State.laneTrain
  refine Keeps.ite ?_ ?_
  · split
    refine Keeps.step State.modLane_keeps (by rfl) ?_
    refine Keeps.step State.enterLane_keeps (by rfl) ?_
    exact Keeps.refl _
  · exact Keeps.refl _

theorem State.laneCheck_keeps {s : State} {g : Nat} :
    Keeps (mask [.lanes, .page .lan]) s (State.laneCheck s g) := by
  unfold State.laneCheck
  refine Keeps.ite ?_ ?_
  · refine Keeps.step State.modLane_keeps (by rfl) ?_
    refine Keeps.step State.setChk_keeps (by rfl) ?_
    refine Keeps.step State.enterLane_keeps (by rfl) ?_
    exact Keeps.refl _
  · exact Keeps.refl _

theorem State.ffeStep_keeps {s : State} {g : Nat} {tap : Nat} {up : Bool} :
    Keeps (mask [.lanes]) s (State.ffeStep s g tap up) := by
  unfold State.ffeStep
  extract_lets x1
  refine Keeps.ite ?_ ?_
  · refine Keeps.step State.setLane_keeps (by rfl) ?_
    exact Keeps.refl _
  · refine Keeps.step State.modLane_keeps (by rfl) ?_
    exact Keeps.refl _

theorem State.gate_keeps {m : Nat} {z : State} {s : State} {p : Page} {i : Nat} {f : State → State} (hc : Covers m
    (mask [.page .dev]))
    (hf : ∀ u, Keeps m u (f u)) (h : Keeps m z s) :
    Keeps m z (State.gate s p i f) := by
  unfold State.gate
  refine Keeps.trans h ?_
  refine Keeps.ite ?_ ?_
  · refine Keeps.step (hf ..) (Nat.or_self _) ?_
    exact Keeps.refl _
  · with_reducible refine Keeps.step State.wr_keeps ?_ ?_
    · exact hc.trans (n := mask [.page .dev]) (rfl)
    exact Keeps.refl _

theorem State.cmisAgreed_keeps {s : State} {g : Nat} :
    Keeps (mask [.page .lan]) s (State.cmisAgreed s g) := by
  unfold State.cmisAgreed
  refine Keeps.ite ?_ ?_
  · exact Keeps.refl _
  · refine Keeps.step State.wr_keeps (by rfl) ?_
    exact Keeps.refl _

theorem State.slipHunt_keeps {s : State} {g : Nat} :
    Keeps (mask [.lanes, .page .lan]) s (State.slipHunt s g) := by
  unfold State.slipHunt
  refine Keeps.step State.modLane_keeps (by rfl) ?_
  refine Keeps.step State.wr_keeps (by rfl) ?_
  refine Keeps.step State.wr_keeps (by rfl) ?_
  exact Keeps.refl _

theorem State.nrzEye_keeps {s : State} {g : Nat} :
    Keeps (mask [.page .lan]) s (State.nrzEye s g) := by
  unfold State.nrzEye
  refine Keeps.ite ?_ ?_
  · exact Keeps.refl _
  · refine Keeps.step State.wr_keeps (by rfl) ?_
    refine Keeps.step State.wr_keeps (by rfl) ?_
    exact Keeps.refl _

theorem State.showPosition_keeps {s : State} {g : Nat} :
    Keeps (mask [.page .lan]) s (State.showPosition s g) := by
  unfold State.showPosition
  refine Keeps.step State.wr_keeps (by rfl) ?_
  exact Keeps.refl _

theorem State.startRate_keeps {s : State} {g : Nat} {rate : Nat} :
    Keeps (mask [.lanes, .page .lan]) s (State.startRate s g rate) := by
  unfold State.startRate
  extract_lets x1 x2 x3
  have h1 : Keeps (mask [.lanes, .page .lan]) s x1 := by
    unfold x1
    refine Keeps.step State.wr_keeps (by rfl) ?_
    refine Keeps.step State.wr_keeps (by rfl) ?_
    refine Keeps.step State.wr_keeps (by rfl) ?_
    refine Keeps.step State.wr_keeps (by rfl) ?_
    exact Keeps.refl _
  have h2 : Keeps (mask [.lanes, .page .lan]) s x2 := by
    unfold x2
    refine Keeps.step State.setChk_keeps (by rfl) ?_
    refine Keeps.step State.wr_keeps (by rfl) ?_
    assumption
  have h3 : Keeps (mask [.lanes, .page .lan]) s x3 := by
    unfold x3
    refine Keeps.step State.nrzEye_keeps (by rfl) ?_
    refine Keeps.step State.showPosition_keeps (by rfl) ?_
    refine Keeps.step State.enterLane_keeps (by rfl) ?_
    assumption
  clear_value x3
  clear_value x2
  clear_value x1
  refine Keeps.step State.modLane_keeps (by rfl) ?_
  assumption

theorem State.commitLanCtrl_keeps {s : State} {g : Nat} {w : Word} :
    Keeps (mask [.lanes, .page .lan]) s (State.commitLanCtrl s g w) := by
  unfold State.commitLanCtrl
  extract_lets x1 x2 x3 x4 x5 x6 x7
  have h1 : Keeps (mask [.lanes, .page .lan]) s x4 := by
    unfold x4
    with_reducible refine Keeps.step State.setWord_keeps ?_ ?_
    · exact Covers.of_subset (l := [.page .lan]) (by simp)
    exact Keeps.refl _
  have h2 : Keeps (mask [.lanes, .page .lan]) s x5 := by
    unfold x5
    refine Keeps.step State.modLane_keeps (by rfl) ?_
    assumption
  have h3 : Keeps (mask [.lanes, .page .lan]) s x6 := by
    unfold x6
    refine Keeps.onlyIf ?_ ?_
    · intro u1
      refine Keeps.step State.slipHunt_keeps (by rfl) ?_
      exact Keeps.refl _
    · assumption
  have h4 : Keeps (mask [.lanes, .page .lan]) s x7 := by
    unfold x7
    refine Keeps.onlyIf ?_ ?_
    · intro u1
      refine Keeps.step State.startRate_keeps (by rfl) ?_
      exact Keeps.refl _
    · assumption
  clear_value x7
  clear_value x6
  clear_value x5
  clear_value x4
  refine Keeps.onlyIf ?_ ?_
  · intro u1
    refine Keeps.step State.enterLane_keeps (by rfl) ?_
    refine Keeps.step State.startRate_keeps (by rfl) ?_
    exact Keeps.refl _
  · assumption

theorem State.refuseStep_keeps {s : State} {g : Nat} {cause : Nat} :
    Keeps (mask [.page .lan]) s (State.refuseStep s g cause) := by
  unfold State.refuseStep
  refine Keeps.step State.wr_keeps (by rfl) ?_
  refine Keeps.step State.wr_keeps (by rfl) ?_
  refine Keeps.step State.wr_keeps (by rfl) ?_
  exact Keeps.refl _

theorem State.commitStep_keeps {s : State} {g : Nat} {t : Nat} :
    Keeps (mask [.lanes, .page .lan]) s (State.commitStep s g t) := by
  unfold State.commitStep
  refine Keeps.ite ?_ ?_
  · exact Keeps.refl _
  · split
    · refine Keeps.step State.startRate_keeps (by rfl) ?_
      exact Keeps.refl _
    · refine Keeps.step State.refuseStep_keeps (by rfl) ?_
      exact Keeps.refl _

theorem State.commitFfe_keeps {s : State} {g : Nat} {w : Word} :
    Keeps (mask [.lanes, .page .lan]) s (State.commitFfe s g w) := by
  unfold State.commitFfe
  extract_lets x1 x2
  have h1 : Keeps (mask [.lanes, .page .lan]) s x2 := by
    unfold x2
    with_reducible refine Keeps.step State.setWord_keeps ?_ ?_
    · exact Covers.of_subset (l := [.page .lan]) (by simp)
    exact Keeps.refl _
  clear_value x2
  split
  refine Keeps.onlyIf ?_ ?_
  · intro u1
    refine Keeps.step State.modLane_keeps (by rfl) ?_
    exact Keeps.refl _
  · assumption

theorem State.commitPrbs_keeps {s : State} {g : Nat} {w : Word} :
    Keeps (mask [.lanes, .page .lan]) s (State.commitPrbs s g w) := by
  unfold State.commitPrbs
  extract_lets x1 x2 x3
  have h1 : Keeps (mask [.lanes, .page .lan]) s x3 := by
    unfold x3
    with_reducible refine Keeps.step State.setWord_keeps ?_ ?_
    · exact Covers.of_subset (l := [.page .lan]) (by simp)
    exact Keeps.refl _
  clear_value x3
  refine Keeps.ite ?_ ?_
  · assumption
  · refine Keeps.step State.setChk_keeps (by rfl) ?_
    assumption

theorem State.commitLoop_keeps {s : State} {g : Nat} {w : Word} :
    Keeps (mask [.lanes, .page .lan]) s (State.commitLoop s g w) := by
  unfold State.commitLoop
  refine Keeps.ite ?_ ?_
  · extract_lets x1
    have h1 : Keeps (mask [.lanes, .page .lan]) s x1 := by
      unfold x1
      refine Keeps.step State.modLane_keeps (by rfl) ?_
      exact Keeps.refl _
    clear_value x1
    refine Keeps.step State.wr_keeps (by rfl) ?_
    refine Keeps.step State.wr_keeps (by rfl) ?_
    assumption
  · refine Keeps.step State.wr_keeps (by rfl) ?_
    exact Keeps.refl _

theorem State.settleClass_keeps {g : Nat} {s : State} :
    Keeps (mask [.lanes, .page .lan]) s (State.settleClass g s) := by
  unfold State.settleClass
  split
  · refine Keeps.ite ?_ ?_
    · refine Keeps.step State.modLane_keeps (by rfl) ?_
      refine Keeps.step State.wr_keeps (by rfl) ?_
      exact Keeps.refl _
    · exact Keeps.refl _
  · exact Keeps.refl _

theorem State.failLane_keeps {s : State} {g : Nat} {cause : Nat} :
    Keeps (mask [.lanes, .page .lan]) s (State.failLane s g cause) := by
  unfold State.failLane
  refine Keeps.step State.wr_keeps (by rfl) ?_
  refine Keeps.step State.enterLane_keeps (by rfl) ?_
  exact Keeps.refl _

theorem State.laneLosEdge_keeps {g : Nat} {s : State} :
    Keeps (mask [.lanes, .page .lan]) s (State.laneLosEdge g s) := by
  unfold State.laneLosEdge
  refine Keeps.ite ?_ ?_
  · refine Keeps.step State.failLane_keeps (by rfl) ?_
    exact Keeps.refl _
  · exact Keeps.refl _

theorem State.ffeRequest_keeps {s : State} {g : Nat} {tap : Nat} {req : Nat} :
    Keeps (mask [.sched, .lanes]) s (State.ffeRequest s g tap req) := by
  unfold State.ffeRequest
  refine Keeps.ite ?_ ?_
  · exact Keeps.refl _
  · refine Keeps.ite ?_ ?_
    · refine Keeps.step State.modLane_keeps (by rfl) ?_
      exact Keeps.refl _
    · extract_lets x1
      refine Keeps.ite ?_ ?_
      · refine Keeps.step State.schedule_keeps (by rfl) ?_
        exact Keeps.refl _
      · refine Keeps.step State.modLane_keeps (by rfl) ?_
        exact Keeps.refl _

theorem State.gateLane_keeps {m : Nat} {z : State} {s : State} {g : Nat} {f : State → State} (hc : Covers m (mask
    [.page .dev]))
    (hf : ∀ u, Keeps m u (f u)) (h : Keeps m z s) :
    Keeps m z (State.gateLane s g f) := by
  unfold State.gateLane
  refine Keeps.trans h ?_
  refine Keeps.ite ?_ ?_
  · refine State.gate_keeps ?_ ?_ ?_
    · exact hc.trans (n := mask [.page .dev]) (rfl)
    · intro u1
      refine Keeps.step (hf ..) (Nat.or_self _) ?_
      exact Keeps.refl _
    · exact Keeps.refl _
  · refine State.gate_keeps ?_ ?_ ?_
    · exact hc.trans (n := mask [.page .dev]) (rfl)
    · intro u1
      refine Keeps.step (hf ..) (Nat.or_self _) ?_
      exact Keeps.refl _
    · exact Keeps.refl _

theorem State.landFfe_keeps {s : State} {g : Nat} {w : Word} {cyc : Nat} :
    Keeps (mask [.sched, .page .lan]) s (State.landFfe s g w cyc) := by
  unfold State.landFfe
  extract_lets x1
  have h1 : Keeps (mask [.sched, .page .lan]) s x1 := by
    unfold x1
    refine Keeps.onlyIf ?_ ?_
    · intro u1
      refine Keeps.step State.wr_keeps (by rfl) ?_
      exact Keeps.refl _
    · exact Keeps.refl _
  clear_value x1
  split
  refine Keeps.ite ?_ ?_
  · refine Keeps.step State.putCopy_keeps (by rfl) ?_
    assumption
  · refine Keeps.step State.wr_keeps (by rfl) ?_
    assumption

theorem State.landLanCtrl_keeps {s : State} {g : Nat} {w : Word} {cyc : Nat} :
    Keeps (mask [.sched, .lanes]) s (State.landLanCtrl s g w cyc) := by
  unfold State.landLanCtrl
  extract_lets x1 x2
  refine Keeps.step State.putCopy_keeps (by rfl) ?_
  refine Keeps.step State.modLane_keeps (by rfl) ?_
  exact Keeps.refl _

theorem State.landLoop_keeps {s : State} {g : Nat} {mode : Nat} {ne : Bool} {cyc : Nat} :
    Keeps (mask [.sched, .page .lan]) s (State.landLoop s g mode ne cyc) := by
  unfold State.landLoop
  refine Keeps.ite ?_ ?_
  · refine Keeps.step State.putCopy_keeps (by rfl) ?_
    exact Keeps.refl _
  · refine Keeps.step State.wr_keeps (by rfl) ?_
    exact Keeps.refl _

theorem State.landPeriod_keeps {s : State} {g : Nat} {period : Nat} :
    Keeps (mask [.lanes, .page .lan]) s (State.landPeriod s g period) := by
  unfold State.landPeriod
  refine Keeps.ite ?_ ?_
  · exact Keeps.refl _
  · refine Keeps.step State.slipHunt_keeps (by rfl) ?_
    refine Keeps.step State.wr_keeps (by rfl) ?_
    exact Keeps.refl _

theorem State.landPrbs_keeps {s : State} {g : Nat} {w : Word} {cyc : Nat} :
    Keeps (mask [.sched, .lanes, .page .lan]) s (State.landPrbs s g w cyc) := by
  unfold State.landPrbs
  extract_lets x1
  have h1 : Keeps (mask [.sched, .lanes, .page .lan]) s x1 := by
    unfold x1
    refine Keeps.ite ?_ ?_
    · refine Keeps.step State.wr_keeps (by rfl) ?_
      refine Keeps.step State.modLane_keeps (by rfl) ?_
      exact Keeps.refl _
    · exact Keeps.refl _
  clear_value x1
  refine Keeps.step State.putCopy_keeps (by rfl) ?_
  assumption

theorem State.landStep_keeps {s : State} {g : Nat} {t : Nat} {cyc : Nat} :
    Keeps (mask [.sched, .page .lan]) s (State.landStep s g t cyc) := by
  unfold State.landStep
  refine Keeps.ite ?_ ?_
  · exact Keeps.refl _
  · split
    · refine Keeps.step State.putCopy_keeps (by rfl) ?_
      exact Keeps.refl _
    · refine Keeps.step State.refuseStep_keeps (by rfl) ?_
      exact Keeps.refl _

theorem State.slipDetect_keeps {s : State} {g : Nat} {f : SlipFrame} :
    Keeps (mask [.rep, .lanes, .page .lan]) s (State.slipDetect s g f) := by
  unfold State.slipDetect
  extract_lets x1 x2 x3 x4 x5 x6 x7
  have h1 : Keeps (mask [.rep, .lanes, .page .lan]) s x4 := by
    unfold x4
    refine Keeps.step State.modLane_keeps (by rfl) ?_
    refine Keeps.step State.wr_keeps (by rfl) ?_
    exact Keeps.refl _
  have h2 : Keeps (mask [.rep, .lanes, .page .lan]) s x6 := by
    unfold x6
    refine Keeps.step State.modLane_keeps (by rfl) ?_
    exact Keeps.refl _
  have h3 : Keeps (mask [.rep, .lanes, .page .lan]) s x7 := by
    unfold x7
    refine Keeps.onlyIf ?_ ?_
    · intro u1
      refine Keeps.step State.count_keeps (by rfl) ?_
      exact Keeps.refl _
    · assumption
  clear_value x7
  clear_value x6
  clear_value x4
  split
  · refine Keeps.ite ?_ ?_
    · refine Keeps.step State.modLane_keeps (by rfl) ?_
      refine Keeps.step State.wr_keeps (by rfl) ?_
      refine Keeps.step State.wr_keeps (by rfl) ?_
      exact Keeps.refl _
    · exact Keeps.refl _
  · refine Keeps.ite ?_ ?_
    · refine Keeps.ite ?_ ?_
      · refine Keeps.step State.wr_keeps (by rfl) ?_
        assumption
      · assumption
    · refine Keeps.step State.slipHunt_keeps (by rfl) ?_
      exact Keeps.refl _
  · refine Keeps.ite ?_ ?_
    · refine Keeps.step State.wr_keeps (by rfl) ?_
      refine Keeps.step State.slipHunt_keeps (by rfl) ?_
      assumption
    · assumption

theorem State.trainExchange_keeps {s : State} {g : Nat} {f : SlipFrame} :
    Keeps (mask [.sched, .lanes, .page .lan]) s (State.trainExchange s g f) := by
  unfold State.trainExchange
  refine Keeps.ite ?_ ?_
  · refine Keeps.step State.modLane_keeps (by rfl) ?_
    exact Keeps.refl _
  · extract_lets x1 x2 x3
    have h1 : Keeps (mask [.sched, .lanes, .page .lan]) s x2 := by
      unfold x2
      refine Keeps.step State.modLane_keeps (by rfl) ?_
      exact Keeps.refl _
    have h2 : Keeps (mask [.sched, .lanes, .page .lan]) s x3 := by
      unfold x3
      refine Keeps.onlyIf ?_ ?_
      · intro u1
        refine Keeps.step State.wr_keeps (by rfl) ?_
        exact Keeps.refl _
      · assumption
    clear_value x3
    clear_value x2
    refine Keeps.step State.ffeRequest_keeps (by rfl) ?_
    assumption

theorem State.slipOne_keeps {s : State} {g : Nat} :
    Keeps (mask [.lanes, .page .lan]) s (State.slipOne s g) := by
  unfold State.slipOne
  extract_lets x1 x2
  have h1 : Keeps (mask [.lanes, .page .lan]) s x2 := by
    unfold x2
    refine Keeps.step State.modLane_keeps (by rfl) ?_
    exact Keeps.refl _
  clear_value x2
  refine Keeps.step State.slipHunt_keeps (by rfl) ?_
  refine Keeps.step State.showPosition_keeps (by rfl) ?_
  assumption

theorem execLaneEnable_keeps {g : LaneNo} {ctl : BitVec 12} {cyc : Cyc} {s : State} :
    KeepsX (mask [.cycle, .sched, .rep, .lanes, .msix, .out, .page .dev]) s (execLaneEnable g ctl cyc s) := by
  unfold execLaneEnable
  refine KeepsX.done (by rfl) ?_
  refine State.gateLane_keeps ?_ ?_ ?_
  · exact rfl
  · intro u1
    refine Keeps.step State.landLanCtrl_keeps (by rfl) ?_
    exact Keeps.refl _
  · refine Keeps.step State.at_keeps (by rfl) ?_
    exact Keeps.refl _

theorem execLaneDisable_keeps {g : LaneNo} {ctl : BitVec 12} {cyc : Cyc} {s : State} :
    KeepsX (mask [.cycle, .sched, .rep, .lanes, .msix, .out, .page .dev]) s (execLaneDisable g ctl cyc s) := by
  unfold execLaneDisable
  refine KeepsX.done (by rfl) ?_
  refine State.gateLane_keeps ?_ ?_ ?_
  · exact rfl
  · intro u1
    refine Keeps.step State.landLanCtrl_keeps (by rfl) ?_
    exact Keeps.refl _
  · refine Keeps.step State.at_keeps (by rfl) ?_
    exact Keeps.refl _

theorem execLaneStepUp_keeps {g : LaneNo} {t : Fin 8} {cyc : Cyc} {s : State} :
    KeepsX (mask [.cycle, .sched, .rep, .msix, .out, .page .dev, .page .lan]) s (execLaneStepUp g t cyc s) := by
  unfold execLaneStepUp
  refine KeepsX.done (by rfl) ?_
  refine State.gateLane_keeps ?_ ?_ ?_
  · exact rfl
  · intro u1
    refine Keeps.onlyIf ?_ ?_
    · intro u2
      refine Keeps.step State.landStep_keeps (by rfl) ?_
      exact Keeps.refl _
    · exact Keeps.refl _
  · refine Keeps.step State.at_keeps (by rfl) ?_
    exact Keeps.refl _

theorem execLaneStepDown_keeps {g : LaneNo} {t : Fin 8} {cyc : Cyc} {s : State} :
    KeepsX (mask [.cycle, .sched, .rep, .msix, .out, .page .dev, .page .lan]) s (execLaneStepDown g t cyc s) := by
  unfold execLaneStepDown
  refine KeepsX.done (by rfl) ?_
  refine State.gateLane_keeps ?_ ?_ ?_
  · exact rfl
  · intro u1
    refine Keeps.onlyIf ?_ ?_
    · intro u2
      refine Keeps.step State.landStep_keeps (by rfl) ?_
      exact Keeps.refl _
    · exact Keeps.refl _
  · refine Keeps.step State.at_keeps (by rfl) ?_
    exact Keeps.refl _

theorem execCmisAgreed_keeps {g : LaneNo} {cyc : Cyc} {s : State} :
    KeepsX (mask [.cycle, .rep, .msix, .out, .page .dev, .page .lan]) s (execCmisAgreed g cyc s) := by
  unfold execCmisAgreed
  refine KeepsX.done (by rfl) ?_
  refine State.gateLane_keeps ?_ ?_ ?_
  · exact rfl
  · intro u1
    refine Keeps.step State.cmisAgreed_keeps (by rfl) ?_
    exact Keeps.refl _
  · refine Keeps.step State.at_keeps (by rfl) ?_
    exact Keeps.refl _

theorem execCdrLock_keeps {g : LaneNo} {s : State} :
    KeepsX (mask [.sched, .rep, .msix, .out, .page .lan]) s (execCdrLock g s) := by
  unfold execCdrLock
  refine KeepsX.done (by rfl) ?_
  refine Keeps.onlyIf ?_ ?_
  · intro u1
    extract_lets x1
    have h1 : Keeps (mask [.sched, .rep, .msix, .out, .page .lan]) u1 x1 := by
      unfold x1
      refine Keeps.step State.wr_keeps (by rfl) ?_
      exact Keeps.refl _
    clear_value x1
    refine Keeps.onlyIf ?_ ?_
    · intro u2
      refine Keeps.step State.schedule_keeps (by rfl) ?_
      exact Keeps.refl _
    · assumption
  · exact Keeps.refl _

theorem execLockTimeout_keeps {g : LaneNo} {s : State} :
    KeepsX (mask [.rep, .lanes, .msix, .out, .page .lan]) s (execLockTimeout g s) := by
  unfold execLockTimeout
  refine KeepsX.done (by rfl) ?_
  refine Keeps.onlyIf ?_ ?_
  · intro u1
    refine Keeps.step State.failLane_keeps (by rfl) ?_
    exact Keeps.refl _
  · exact Keeps.refl _

theorem execTrainingDone_keeps {g : LaneNo} {s : State} :
    KeepsX (mask [.sched, .rep, .lanes, .msix, .out]) s (execTrainingDone g s) := by
  unfold execTrainingDone
  refine KeepsX.done (by rfl) ?_
  refine Keeps.onlyIf ?_ ?_
  · intro u1
    refine Keeps.step State.schedule_keeps (by rfl) ?_
    refine Keeps.step State.modLane_keeps (by rfl) ?_
    exact Keeps.refl _
  · exact Keeps.refl _

theorem execTrainingTimeout_keeps {g : LaneNo} {s : State} :
    KeepsX (mask [.rep, .lanes, .msix, .out, .page .lan]) s (execTrainingTimeout g s) := by
  unfold execTrainingTimeout
  refine KeepsX.done (by rfl) ?_
  refine Keeps.onlyIf ?_ ?_
  · intro u1
    refine Keeps.step State.failLane_keeps (by rfl) ?_
    exact Keeps.refl _
  · exact Keeps.refl _

theorem execCheckDone_keeps {g : LaneNo} {s : State} :
    KeepsX (mask [.rep, .lanes, .msix, .out, .page .lan]) s (execCheckDone g s) := by
  unfold execCheckDone
  refine KeepsX.done (by rfl) ?_
  refine Keeps.onlyIf ?_ ?_
  · intro u1
    refine Keeps.ite ?_ ?_
    · refine Keeps.step State.failLane_keeps (by rfl) ?_
      exact Keeps.refl _
    · refine Keeps.ite ?_ ?_
      · refine Keeps.step State.failLane_keeps (by rfl) ?_
        exact Keeps.refl _
      · refine Keeps.step State.modLane_keeps (by rfl) ?_
        refine Keeps.step State.enterLane_keeps (by rfl) ?_
        exact Keeps.refl _
  · exact Keeps.refl _

theorem execLos_keeps {g : LaneNo} {s : State} :
    KeepsX (mask [.rep, .msix, .out, .page .lan]) s (execLos g s) := by
  unfold execLos
  refine KeepsX.done (by rfl) ?_
  refine Keeps.onlyIf ?_ ?_
  · intro u1
    refine Keeps.step State.count_keeps (by rfl) ?_
    refine Keeps.step State.wr_keeps (by rfl) ?_
    exact Keeps.refl _
  · exact Keeps.refl _

theorem execFfeCoeffRequest_keeps {g : LaneNo} {tap : Fin 4} {up : Bool} {s : State} :
    KeepsX (mask [.sched, .rep, .lanes, .msix, .out]) s (execFfeCoeffRequest g tap up s) := by
  unfold execFfeCoeffRequest
  refine KeepsX.done (by rfl) ?_
  refine Keeps.step State.ffeRequest_keeps (by rfl) ?_
  exact Keeps.refl _

theorem execFfeWrite_keeps {g : LaneNo} {w : Word} {cyc : Cyc} {s : State} :
    KeepsX (mask [.cycle, .sched, .rep, .msix, .out, .page .dev, .page .lan]) s (execFfeWrite g w cyc s) := by
  unfold execFfeWrite
  refine KeepsX.done (by rfl) ?_
  refine State.gateLane_keeps ?_ ?_ ?_
  · exact rfl
  · intro u1
    refine Keeps.step State.landFfe_keeps (by rfl) ?_
    exact Keeps.refl _
  · refine Keeps.step State.at_keeps (by rfl) ?_
    exact Keeps.refl _

theorem execSlip_keeps {g : LaneNo} {s : State} :
    KeepsX (mask [.rep, .lanes, .msix, .out, .page .dev, .page .lan]) s (execSlip g s) := by
  unfold execSlip
  refine KeepsX.done (by rfl) ?_
  refine State.gateLane_keeps ?_ ?_ ?_
  · exact rfl
  · intro u1
    refine Keeps.step State.slipOne_keeps (by rfl) ?_
    exact Keeps.refl _
  · exact Keeps.refl _

theorem execSlipPeriodWrite_keeps {g : LaneNo} {period : Fin 65536} {s : State} :
    KeepsX (mask [.rep, .lanes, .msix, .out, .page .dev, .page .lan]) s (execSlipPeriodWrite g period s) := by
  unfold execSlipPeriodWrite
  refine KeepsX.done (by rfl) ?_
  refine State.gateLane_keeps ?_ ?_ ?_
  · exact rfl
  · intro u1
    refine Keeps.step State.landPeriod_keeps (by rfl) ?_
    exact Keeps.refl _
  · exact Keeps.refl _

theorem execPrbsClear_keeps {g : LaneNo} {w : Word} {cyc : Cyc} {s : State} :
    KeepsX (mask [.cycle, .sched, .rep, .lanes, .msix, .out, .page .dev,
        .page .lan]) s (execPrbsClear g w cyc s) := by
  unfold execPrbsClear
  refine KeepsX.done (by rfl) ?_
  refine State.gateLane_keeps ?_ ?_ ?_
  · exact rfl
  · intro u1
    refine Keeps.step State.landPrbs_keeps (by rfl) ?_
    exact Keeps.refl _
  · refine Keeps.step State.at_keeps (by rfl) ?_
    exact Keeps.refl _

theorem execLaneErrRead_keeps {g : LaneNo} {s : State} :
    KeepsX (mask [.rep, .msix, .out, .page .lan]) s (execLaneErrRead g s) := by
  unfold execLaneErrRead
  extract_lets x1 x2
  have h1 : Keeps (mask [.rep, .msix, .out, .page .lan]) s x2 := by
    unfold x2
    refine Keeps.step State.wr_keeps (by rfl) ?_
    refine Keeps.step State.wr_keeps (by rfl) ?_
    refine Keeps.step State.wr_keeps (by rfl) ?_
    exact Keeps.refl _
  clear_value x2
  refine KeepsX.done (by rfl) ?_
  refine Keeps.ite ?_ ?_
  · refine Keeps.step State.emit_keeps (by rfl) ?_
    assumption
  · refine Keeps.step State.emit_keeps (by rfl) ?_
    exact Keeps.refl _

theorem execLoopbackNearEnd_keeps {g : LaneNo} {ne : Bool} {cyc : Cyc} {s : State} :
    KeepsX (mask [.cycle, .sched, .rep, .msix, .out, .page .dev, .page .lan]) s (execLoopbackNearEnd g ne cyc s) := by
  unfold execLoopbackNearEnd
  refine KeepsX.done (by rfl) ?_
  refine State.gateLane_keeps ?_ ?_ ?_
  · exact rfl
  · intro u1
    refine Keeps.step State.landLoop_keeps (by rfl) ?_
    exact Keeps.refl _
  · refine Keeps.step State.at_keeps (by rfl) ?_
    exact Keeps.refl _

theorem execLoopbackFarEnd_keeps {g : LaneNo} {ne : Bool} {cyc : Cyc} {s : State} :
    KeepsX (mask [.cycle, .sched, .rep, .msix, .out, .page .dev, .page .lan]) s (execLoopbackFarEnd g ne cyc s) := by
  unfold execLoopbackFarEnd
  refine KeepsX.done (by rfl) ?_
  refine State.gateLane_keeps ?_ ?_ ?_
  · exact rfl
  · intro u1
    refine Keeps.step State.landLoop_keeps (by rfl) ?_
    exact Keeps.refl _
  · refine Keeps.step State.at_keeps (by rfl) ?_
    exact Keeps.refl _

theorem execLoopbackOff_keeps {g : LaneNo} {ne : Bool} {cyc : Cyc} {s : State} :
    KeepsX (mask [.cycle, .sched, .rep, .msix, .out, .page .dev, .page .lan]) s (execLoopbackOff g ne cyc s) := by
  unfold execLoopbackOff
  refine KeepsX.done (by rfl) ?_
  refine State.gateLane_keeps ?_ ?_ ?_
  · exact rfl
  · intro u1
    refine Keeps.step State.landLoop_keeps (by rfl) ?_
    exact Keeps.refl _
  · refine Keeps.step State.at_keeps (by rfl) ?_
    exact Keeps.refl _

theorem execCdrLockLoss_keeps {g : LaneNo} {s : State} :
    KeepsX (mask [.rep, .msix, .out, .page .lan]) s (execCdrLockLoss g s) := by
  unfold execCdrLockLoss
  refine KeepsX.done (by rfl) ?_
  refine Keeps.onlyIf ?_ ?_
  · intro u1
    refine Keeps.step State.count_keeps (by rfl) ?_
    refine Keeps.step State.bumpReg_keeps (by rfl) ?_
    refine Keeps.step State.wr_keeps (by rfl) ?_
    exact Keeps.refl _
  · exact Keeps.refl _

theorem execLosClear_keeps {g : LaneNo} {s : State} :
    KeepsX (mask [.rep, .msix, .out, .page .lan]) s (execLosClear g s) := by
  unfold execLosClear
  refine KeepsX.done (by rfl) ?_
  refine Keeps.step State.wr_keeps (by rfl) ?_
  exact Keeps.refl _

end Sys2Proof.Machine
end

