-- ==== Sys2Proof/Laws/Ports.lean ====
section
/-! SUPPORT. What the operations of Machine/Ports.lean keep, and the parts of the state that they may change. -/

namespace Sys2Proof.Machine

open Sys2Proof

theorem State.showPort_keeps {s : State} {p : Nat} :
    Keeps (mask [.ports, .out, .page .prt]) s (State.showPort s p) := by
  unfold State.showPort
  extract_lets x1 x2 x3 x4
  have h1 : Keeps (mask [.ports, .out, .page .prt]) s x3 := by
    unfold x3
    refine Keeps.step State.wr_keeps (by rfl) ?_
    exact Keeps.refl _
  clear_value x3
  refine Keeps.onlyIf ?_ ?_
  · intro u1
    refine Keeps.step State.emit_keeps (by rfl) ?_
    refine Keeps.step State.modPort_keeps (by rfl) ?_
    exact Keeps.refl _
  · assumption

theorem State.raisePort_keeps {s : State} {p : Nat} :
    Keeps (mask [.ports]) s (State.raisePort s p) := by
  unfold State.raisePort
  extract_lets x1
  refine Keeps.onlyIf ?_ ?_
  · intro u1
    refine Keeps.step State.modPort_keeps (by rfl) ?_
    exact Keeps.refl _
  · exact Keeps.refl _

theorem State.judgePort_keeps {s : State} {p : Nat} {again : Bool} :
    Keeps (mask [.ports, .out, .page .prt]) s (State.judgePort s p again) := by
  unfold State.judgePort
  extract_lets x1 x2 x3
  have h1 : Keeps (mask [.ports, .out, .page .prt]) s x3 := by
    unfold x3
    refine Keeps.step State.modPort_keeps (by rfl) ?_
    exact Keeps.refl _
  clear_value x3
  refine Keeps.step State.showPort_keeps (by rfl) ?_
  refine Keeps.step State.raisePort_keeps (by rfl) ?_
  assumption

theorem State.reportDefect_keeps {s : State} {p : Nat} {lvl : Nat} :
    Keeps (mask [.rep, .page .prt, .page .otf]) s (State.reportDefect s p lvl) := by
  unfold State.reportDefect
  refine Keeps.ite ?_ ?_
  · exact Keeps.refl _
  · refine Keeps.ite ?_ ?_
    · extract_lets x1 x2
      have h1 : Keeps (mask [.rep, .page .prt, .page .otf]) s x1 := by
        unfold x1
        refine Keeps.step State.wr_keeps (by rfl) ?_
        exact Keeps.refl _
      have h2 : Keeps (mask [.rep, .page .prt, .page .otf]) s x2 := by
        unfold x2
        refine Keeps.step State.raiseBit_keeps (by rfl) ?_
        assumption
      clear_value x2
      clear_value x1
      refine Keeps.onlyIf ?_ ?_
      · intro u1
        refine Keeps.step State.irq_keeps (by rfl) ?_
        exact Keeps.refl _
      · assumption
    · extract_lets x1 x2
      have h1 : Keeps (mask [.rep, .page .prt, .page .otf]) s x1 := by
        unfold x1
        refine Keeps.step State.wr_keeps (by rfl) ?_
        exact Keeps.refl _
      have h2 : Keeps (mask [.rep, .page .prt, .page .otf]) s x2 := by
        unfold x2
        refine Keeps.step State.raiseBit_keeps (by rfl) ?_
        assumption
      clear_value x2
      clear_value x1
      refine Keeps.onlyIf ?_ ?_
      · intro u1
        refine Keeps.step State.irq_keeps (by rfl) ?_
        exact Keeps.refl _
      · assumption

theorem State.showDefects_keeps {s : State} {p : Nat} {raw : Nat} :
    Keeps (mask [.rep, .page .prt, .page .otf]) s (State.showDefects s p raw) := by
  unfold State.showDefects
  extract_lets x1 x2 x3
  have h1 : Keeps (mask [.rep, .page .prt, .page .otf]) s x3 := by
    unfold x3
    refine Keeps.step State.wr_keeps (by rfl) ?_
    refine Keeps.step State.wr_keeps (by rfl) ?_
    exact Keeps.refl _
  clear_value x3
  refine Keeps.onlyIf ?_ ?_
  · intro u1
    refine Keeps.step State.reportDefect_keeps (by rfl) ?_
    exact Keeps.refl _
  · refine Keeps.step State.wr_keeps (by rfl) ?_
    assumption

theorem State.authShown_keeps {s : State} {p : Nat} :
    Keeps (mask [.rep, .ports, .out, .page .prt, .page .otf]) s (State.authShown s p) := by
  unfold State.authShown
  refine Keeps.step State.judgePort_keeps (by rfl) ?_
  refine Keeps.step State.showDefects_keeps (by rfl) ?_
  exact Keeps.refl _

theorem State.tagFailure_keeps {s : State} {p : Nat} :
    Keeps (mask [.rep, .ports]) s (State.tagFailure s p) := by
  unfold State.tagFailure
  refine Keeps.step State.count_keeps (by rfl) ?_
  refine Keeps.step State.modPort_keeps (by rfl) ?_
  exact Keeps.refl _

theorem State.clearPort_keeps {s : State} {p : Nat} :
    Keeps (mask [.ports, .otn, .seals, .page .prt, .page .otf, .page .sea]) s (State.clearPort s p) := by
  unfold State.clearPort
  extract_lets x1 x2 x3 x4 x5
  have h1 : Keeps (mask [.ports, .otn, .seals, .page .prt, .page .otf, .page .sea]) s x1 := by
    unfold x1
    refine Keeps.step State.wr_keeps (by rfl) ?_
    refine Keeps.step State.wr_keeps (by rfl) ?_
    refine Keeps.step State.wr_keeps (by rfl) ?_
    refine Keeps.step State.wr_keeps (by rfl) ?_
    exact Keeps.refl _
  have h2 : Keeps (mask [.ports, .otn, .seals, .page .prt, .page .otf, .page .sea]) s x2 := by
    unfold x2
    refine Keeps.step State.wr_keeps (by rfl) ?_
    refine Keeps.step State.wr_keeps (by rfl) ?_
    refine Keeps.step State.wr_keeps (by rfl) ?_
    refine Keeps.step State.wr_keeps (by rfl) ?_
    assumption
  have h3 : Keeps (mask [.ports, .otn, .seals, .page .prt, .page .otf, .page .sea]) s x3 := by
    unfold x3
    refine Keeps.step State.wr_keeps (by rfl) ?_
    refine Keeps.step State.wr_keeps (by rfl) ?_
    refine Keeps.step State.wr_keeps (by rfl) ?_
    refine Keeps.step State.wr_keeps (by rfl) ?_
    assumption
  have h4 : Keeps (mask [.ports, .otn, .seals, .page .prt, .page .otf, .page .sea]) s x4 := by
    unfold x4
    refine Keeps.step State.wr_keeps (by rfl) ?_
    refine Keeps.step State.wr_keeps (by rfl) ?_
    refine Keeps.step State.wr_keeps (by rfl) ?_
    refine Keeps.step State.wr_keeps (by rfl) ?_
    assumption
  have h5 : Keeps (mask [.ports, .otn, .seals, .page .prt, .page .otf, .page .sea]) s x5 := by
    unfold x5
    refine Keeps.step State.setOtnp_keeps (by rfl) ?_
    refine Keeps.step State.setPort_keeps (by rfl) ?_
    assumption
  clear_value x5
  clear_value x4
  clear_value x3
  clear_value x2
  clear_value x1
  refine Keeps.step Keeps.set_seals (by rfl) ?_
  assumption

theorem State.judgeAuth_keeps {s : State} {p : Nat} :
    Keeps (mask [.ports]) s (State.judgeAuth s p) := by
  unfold State.judgeAuth
  extract_lets x1
  refine Keeps.step State.modPort_keeps (by rfl) ?_
  exact Keeps.refl _

theorem State.commitAuth_keeps {s : State} {k : RegKey} {w : Word} {mask3 : Word} :
    Keeps (mask [.ports, .page k.page]) s (State.commitAuth s k w mask3) := by
  unfold State.commitAuth
  extract_lets x1 x2
  have h1 : Keeps (mask [.ports, .page k.page]) s x2 := by
    unfold x2
    with_reducible refine Keeps.step State.setWord_keeps ?_ ?_
    · exact Covers.of_subset (l := [.page k.page]) (by simp)
    exact Keeps.refl _
  clear_value x2
  refine Keeps.onlyIf ?_ ?_
  · intro u1
    with_reducible refine Keeps.step State.judgeAuth_keeps ?_ ?_
    · exact Covers.of_subset (l := [.ports]) (by simp)
    exact Keeps.refl _
  · assumption

theorem State.refusePort_keeps {s : State} {p : Nat} {cause : Nat} :
    Keeps (mask [.page .prt]) s (State.refusePort s p cause) := by
  unfold State.refusePort
  refine Keeps.step State.wr_keeps (by rfl) ?_
  refine Keeps.step State.wr_keeps (by rfl) ?_
  exact Keeps.refl _

theorem State.commitPortCfg_keeps {s : State} {p : Nat} {w : Word} :
    Keeps (mask [.ports, .otn, .seals, .page .prt, .page .otf, .page .sea]) s (State.commitPortCfg s p w) := by
  unfold State.commitPortCfg
  extract_lets x1 x2 x3 x4 x5
  have h1 : ∀ u b1, Keeps (mask [.ports, .otn, .seals, .page .prt, .page .otf, .page .sea]) u (x2 u b1) := by
    intro u b1
    unfold x2
    refine Keeps.forN ?_ ?_
    · intro b2 u1
      refine Keeps.step State.wr_keeps (by rfl) ?_
      exact Keeps.refl _
    · exact Keeps.refl _
  have h2 : Keeps (mask [.ports, .otn, .seals, .page .prt, .page .otf, .page .sea]) s x3 := by
    unfold x3
    refine Keeps.onlyIf ?_ ?_
    · intro u1
      refine Keeps.step (h1 ..) (Nat.or_self _) ?_
      exact Keeps.refl _
    · exact Keeps.refl _
  have h3 : Keeps (mask [.ports, .otn, .seals, .page .prt, .page .otf, .page .sea]) s x4 := by
    unfold x4
    with_reducible refine Keeps.step State.setWord_keeps ?_ ?_
    · exact Covers.of_subset (l := [.page .prt]) (by simp)
    assumption
  have h4 : Keeps (mask [.ports, .otn, .seals, .page .prt, .page .otf, .page .sea]) s x5 := by
    unfold x5
    refine Keeps.step State.modPort_keeps (by rfl) ?_
    refine Keeps.step State.wr_keeps (by rfl) ?_
    refine Keeps.step State.clearPort_keeps (by rfl) ?_
    assumption
  clear_value x5
  clear_value x4
  clear_value x3
  clear_value x2
  refine Keeps.ite ?_ ?_
  · refine Keeps.step State.refusePort_keeps (by rfl) ?_
    exact Keeps.refl _
  · split
    · refine Keeps.ite ?_ ?_
      · refine Keeps.step State.clearPort_keeps (by rfl) ?_
        assumption
      · refine Keeps.ite ?_ ?_
        · assumption
        · refine Keeps.step (h1 ..) (Nat.or_self _) ?_
          assumption
    · refine Keeps.step State.refusePort_keeps (by rfl) ?_
      exact Keeps.refl _

theorem State.commitOtnCfg_keeps {s : State} {p : Nat} {w : Word} :
    Keeps (mask [.page .otf]) s (State.commitOtnCfg s p w) := by
  unfold State.commitOtnCfg
  extract_lets x1
  refine Keeps.ite ?_ ?_
  · refine Keeps.step State.wr_keeps (by rfl) ?_
    exact Keeps.refl _
  · with_reducible refine Keeps.step State.setWord_keeps ?_ ?_
    · exact Covers.of_subset (l := [.page .otf]) (by simp)
    exact Keeps.refl _

theorem State.portEval_keeps {pre : State} {p : Nat} {s : State} :
    Keeps (mask [.rep, .ports, .otn, .out, .page .prt, .page .otf]) s (State.portEval pre p s) := by
  unfold State.portEval
  refine Keeps.ite ?_ ?_
  · exact Keeps.refl _
  · extract_lets x1 x2 x3 x4 x5 x6 x7 x8 x9
    have h1 : Keeps (mask [.rep, .ports, .otn, .out, .page .prt, .page .otf]) s x1 := by
      unfold x1
      refine Keeps.onlyIf ?_ ?_
      · intro u1
        refine Keeps.step State.judgeAuth_keeps (by rfl) ?_
        exact Keeps.refl _
      · exact Keeps.refl _
    have h2 : Keeps (mask [.rep, .ports, .otn, .out, .page .prt, .page .otf]) s x3 := by
      unfold x3
      refine Keeps.onlyIf ?_ ?_
      · intro u1
        refine Keeps.step State.modPort_keeps (by rfl) ?_
        exact Keeps.refl _
      · assumption
    have h3 : Keeps (mask [.rep, .ports, .otn, .out, .page .prt, .page .otf]) s x4 := by
      unfold x4
      refine Keeps.step State.judgePort_keeps (by rfl) ?_
      refine Keeps.step State.showDefects_keeps (by rfl) ?_
      assumption
    have h4 : Keeps (mask [.rep, .ports, .otn, .out, .page .prt, .page .otf]) s x6 := by
      unfold x6
      refine Keeps.onlyIf ?_ ?_
      · intro u1
        refine Keeps.step State.count_keeps (by rfl) ?_
        exact Keeps.refl _
      · assumption
    have h5 : Keeps (mask [.rep, .ports, .otn, .out, .page .prt, .page .otf]) s x7 := by
      unfold x7
      refine Keeps.onlyIf ?_ ?_
      · intro u1
        refine Keeps.step State.count_keeps (by rfl) ?_
        exact Keeps.refl _
      · assumption
    have h6 : Keeps (mask [.rep, .ports, .otn, .out, .page .prt, .page .otf]) s x8 := by
      unfold x8
      refine Keeps.onlyIf ?_ ?_
      · intro u1
        refine Keeps.step State.wr_keeps (by rfl) ?_
        exact Keeps.refl _
      · assumption
    have h7 : Keeps (mask [.rep, .ports, .otn, .out, .page .prt, .page .otf]) s x9 := by
      unfold x9
      refine Keeps.onlyIf ?_ ?_
      · intro u1
        refine Keeps.step State.wr_keeps (by rfl) ?_
        exact Keeps.refl _
      · assumption
    clear_value x9
    clear_value x8
    clear_value x7
    clear_value x6
    clear_value x4
    clear_value x3
    clear_value x1
    refine Keeps.onlyIf ?_ ?_
    · intro u1
      refine Keeps.step State.modOtnp_keeps (by rfl) ?_
      exact Keeps.refl _
    · assumption

theorem State.portsEval_keeps {pre : State} {s : State} :
    Keeps (mask [.rep, .ports, .otn, .out, .page .prt, .page .otf]) s (State.portsEval pre s) := by
  unfold State.portsEval
  refine Keeps.forN ?_ ?_
  · intro b1 u1
    refine Keeps.step State.portEval_keeps (by rfl) ?_
    exact Keeps.refl _
  · exact Keeps.refl _

theorem State.otnMeasure_keeps {i : OtnIn} {s : State} :
    Keeps (mask [.otn, .page .otf]) s (State.otnMeasure i s) := by
  unfold State.otnMeasure
  extract_lets x1 x2 x3 x4
  have h1 : Keeps (mask [.otn, .page .otf]) s x3 := by
    unfold x3
    refine Keeps.step State.modOtnp_keeps (by rfl) ?_
    exact Keeps.refl _
  have h2 : Keeps (mask [.otn, .page .otf]) s x4 := by
    unfold x4
    refine Keeps.step State.wr_keeps (by rfl) ?_
    assumption
  clear_value x4
  clear_value x3
  refine Keeps.ite ?_ ?_
  · assumption
  · refine Keeps.ite ?_ ?_
    · refine Keeps.step State.wr_keeps (by rfl) ?_
      assumption
    · refine Keeps.ite ?_ ?_
      · refine Keeps.step State.wr_keeps (by rfl) ?_
        assumption
      · assumption

theorem State.pcsMeasure_keeps {i : PcsIn} {s : State} :
    Keeps (mask [.rep, .ports, .page .prt]) s (State.pcsMeasure i s) := by
  unfold State.pcsMeasure
  extract_lets x1 x2 x3 x4
  have h1 : Keeps (mask [.rep, .ports, .page .prt]) s x2 := by
    unfold x2
    refine Keeps.step State.modPort_keeps (by rfl) ?_
    exact Keeps.refl _
  have h2 : Keeps (mask [.rep, .ports, .page .prt]) s x4 := by
    unfold x4
    refine Keeps.ite ?_ ?_
    · refine Keeps.step State.wr_keeps (by rfl) ?_
      assumption
    · refine Keeps.step State.wr_keeps (by rfl) ?_
      assumption
  clear_value x4
  clear_value x2
  refine Keeps.step State.count_keeps (by rfl) ?_
  refine Keeps.step State.count_keeps (by rfl) ?_
  refine Keeps.step State.count_keeps (by rfl) ?_
  assumption

theorem State.landOtnCfg_keeps {s : State} {p : Nat} {w : Word} {cyc : Nat} :
    Keeps (mask [.sched, .page .otf]) s (State.landOtnCfg s p w cyc) := by
  unfold State.landOtnCfg
  refine Keeps.ite ?_ ?_
  · refine Keeps.step State.wr_keeps (by rfl) ?_
    exact Keeps.refl _
  · refine Keeps.step State.putCopy_keeps (by rfl) ?_
    exact Keeps.refl _

theorem State.landPortCfg_keeps {s : State} {p : Nat} {w : Word} {cyc : Nat} :
    Keeps (mask [.sched, .page .prt]) s (State.landPortCfg s p w cyc) := by
  unfold State.landPortCfg
  refine Keeps.ite ?_ ?_
  · refine Keeps.step State.refusePort_keeps (by rfl) ?_
    exact Keeps.refl _
  · split
    · refine Keeps.step State.putCopy_keeps (by rfl) ?_
      exact Keeps.refl _
    · refine Keeps.step State.refusePort_keeps (by rfl) ?_
      exact Keeps.refl _

theorem execPortEnable_keeps {p : PortNo} {cfg : BitVec 9} {cyc : Cyc} {s : State} :
    KeepsX (mask [.cycle, .sched, .rep, .msix, .out, .page .dev, .page .prt]) s (execPortEnable p cfg cyc s) := by
  unfold execPortEnable
  refine KeepsX.done (by rfl) ?_
  refine State.gate_keeps ?_ ?_ ?_
  · exact rfl
  · intro u1
    refine Keeps.step State.landPortCfg_keeps (by rfl) ?_
    exact Keeps.refl _
  · refine Keeps.step State.at_keeps (by rfl) ?_
    exact Keeps.refl _

theorem execPortDisable_keeps {p : PortNo} {cfg : BitVec 9} {cyc : Cyc} {s : State} :
    KeepsX (mask [.cycle, .sched, .rep, .msix, .out, .page .dev, .page .prt]) s (execPortDisable p cfg cyc s) := by
  unfold execPortDisable
  refine KeepsX.done (by rfl) ?_
  refine State.gate_keeps ?_ ?_ ?_
  · exact rfl
  · intro u1
    refine Keeps.step State.landPortCfg_keeps (by rfl) ?_
    exact Keeps.refl _
  · refine Keeps.step State.at_keeps (by rfl) ?_
    exact Keeps.refl _

theorem execPortUp_keeps {p : PortNo} {s : State} :
    KeepsX (mask [.rep, .ports, .msix, .out, .page .prt]) s (execPortUp p s) := by
  unfold execPortUp
  refine KeepsX.done (by rfl) ?_
  refine Keeps.onlyIf ?_ ?_
  · intro u1
    refine Keeps.step State.showPort_keeps (by rfl) ?_
    refine Keeps.step State.raisePort_keeps (by rfl) ?_
    exact Keeps.refl _
  · exact Keeps.refl _

theorem execAuthWindowEnd_keeps {p : PortNo} {s : State} :
    KeepsX (mask [.rep, .ports, .msix, .out, .page .prt, .page .otf]) s (execAuthWindowEnd p s) := by
  unfold execAuthWindowEnd
  refine KeepsX.done (by rfl) ?_
  refine Keeps.onlyIf ?_ ?_
  · intro u1
    refine Keeps.step State.authShown_keeps (by rfl) ?_
    refine Keeps.step State.judgeAuth_keeps (by rfl) ?_
    exact Keeps.refl _
  · exact Keeps.refl _

theorem execOtnCfgWrite_keeps {p : PortNo} {w : Word} {cyc : Cyc} {s : State} :
    KeepsX (mask [.cycle, .sched, .rep, .msix, .out, .page .dev, .page .otf]) s (execOtnCfgWrite p w cyc s) := by
  unfold execOtnCfgWrite
  refine KeepsX.done (by rfl) ?_
  refine State.gate_keeps ?_ ?_ ?_
  · exact rfl
  · intro u1
    refine Keeps.step State.landOtnCfg_keeps (by rfl) ?_
    exact Keeps.refl _
  · refine Keeps.step State.at_keeps (by rfl) ?_
    exact Keeps.refl _

theorem execLofDeclared_keeps {p : PortNo} {s : State} :
    KeepsX (mask [.rep, .otn, .msix, .out, .page .otf]) s (execLofDeclared p s) := by
  unfold execLofDeclared
  refine KeepsX.done (by rfl) ?_
  split
  · refine Keeps.onlyIf ?_ ?_
    · intro u1
      refine Keeps.step State.wr_keeps (by rfl) ?_
      refine Keeps.step State.modOtnp_keeps (by rfl) ?_
      exact Keeps.refl _
    · exact Keeps.refl _
  · exact Keeps.refl _

theorem execLomDeclared_keeps {p : PortNo} {s : State} :
    KeepsX (mask [.rep, .otn, .msix, .out, .page .otf]) s (execLomDeclared p s) := by
  unfold execLomDeclared
  refine KeepsX.done (by rfl) ?_
  split
  · refine Keeps.onlyIf ?_ ?_
    · intro u1
      refine Keeps.step State.wr_keeps (by rfl) ?_
      refine Keeps.step State.modOtnp_keeps (by rfl) ?_
      exact Keeps.refl _
    · exact Keeps.refl _
  · exact Keeps.refl _

end Sys2Proof.Machine
end

