-- ==== Sys2Proof/Laws/Rings.lean ====
section
/-! SUPPORT. What the operations of Machine/Rings.lean keep, and the parts of the state that they may change. -/

namespace Sys2Proof.Machine

open Sys2Proof

theorem State.modSlice_keeps {s : State} {n : Nat} {f : SliceRt → SliceRt} :
    Keeps (mask [.slices]) s (State.modSlice s n f) := by
  unfold State.modSlice
  refine Keeps.step Keeps.set_slices (by rfl) ?_
  exact Keeps.refl _

theorem State.markPage_keeps {s : State} {n : Nat} {addr : Nat} :
    Keeps (mask [.rep, .out, .page .hst]) s (State.markPage s n addr) := by
  unfold State.markPage
  extract_lets x1 x2
  refine Keeps.ite ?_ ?_
  · refine Keeps.step State.emit_keeps (by rfl) ?_
    refine Keeps.step State.count_keeps (by rfl) ?_
    exact Keeps.refl _
  · refine Keeps.step State.wr_keeps (by rfl) ?_
    exact Keeps.refl _

theorem State.sliceWrite_keeps {s : State} {n : Nat} {addr : Nat} {bytes : List Byte} :
    Keeps (mask [.rep, .out, .page .hst]) s (State.sliceWrite s n addr bytes) := by
  unfold State.sliceWrite
  refine Keeps.ite ?_ ?_
  · exact Keeps.refl _
  · extract_lets x1 x2 x3
    have h1 : Keeps (mask [.rep, .out, .page .hst]) s x1 := by
      unfold x1
      refine Keeps.step State.emit_keeps (by rfl) ?_
      exact Keeps.refl _
    clear_value x1
    refine Keeps.ite ?_ ?_
    · refine Keeps.forL ?_ ?_
      · intro b1 u1
        refine Keeps.step State.markPage_keeps (by rfl) ?_
        exact Keeps.refl _
      · assumption
    · assumption

theorem State.ringEvent_keeps {s : State} {n : Nat} {code : Nat} {object : Nat} :
    Keeps (mask [.rep, .slices, .msix, .out, .page .hst, .page .slc]) s (State.ringEvent s n code object) := by
  unfold State.ringEvent
  extract_lets x1 x2 x3 x4 x5
  have h1 : Keeps (mask [.rep, .slices, .msix, .out, .page .hst, .page .slc]) s x5 := by
    unfold x5
    refine Keeps.step State.modSlice_keeps (by rfl) ?_
    refine Keeps.step State.sliceWrite_keeps (by rfl) ?_
    exact Keeps.refl _
  clear_value x5
  refine Keeps.ite ?_ ?_
  · exact Keeps.refl _
  · refine Keeps.ite ?_ ?_
    · refine Keeps.step State.bumpReg_keeps (by rfl) ?_
      exact Keeps.refl _
    · refine Keeps.step State.raiseVector_keeps (by rfl) ?_
      assumption

theorem State.tellDead_keeps {s : State} {a : Nat} {slice : Nat} {valid : Bool} :
    Keeps (mask [.rep, .slices, .msix, .out, .page .hst, .page .slc]) s (State.tellDead s a slice valid) := by
  unfold State.tellDead
  refine Keeps.ite ?_ ?_
  · refine Keeps.step State.ringEvent_keeps (by rfl) ?_
    exact Keeps.refl _
  · exact Keeps.refl _

theorem State.hstEvent_keeps {s : State} {f : Fld} {n : Nat} :
    Keeps (mask [.rep]) s (State.hstEvent s f n) := by
  unfold State.hstEvent
  refine Keeps.step State.event_keeps (by rfl) ?_
  refine Keeps.step State.wrEvt_keeps (by rfl) ?_
  refine Keeps.step State.wrEvt_keeps (by rfl) ?_
  exact Keeps.refl _

theorem State.ringFails_keeps {n : Nat} {s : State} :
    Keeps (mask [.rep, .slices]) s (State.ringFails n s) := by
  unfold State.ringFails
  refine Keeps.ite ?_ ?_
  · exact Keeps.refl _
  · refine Keeps.step State.hstEvent_keeps (by rfl) ?_
    refine Keeps.step State.modSlice_keeps (by rfl) ?_
    exact Keeps.refl _

theorem State.gatedWrite_keeps {s : State} {n : Nat} {addr : Nat} {bytes : List Byte} :
    Keeps (mask [.rep, .slices, .msix, .out, .page .hst, .page .slc]) s (State.gatedWrite s n addr bytes) := by
  unfold State.gatedWrite
  extract_lets x1 x2
  have h1 : Keeps (mask [.rep, .slices, .msix, .out, .page .hst, .page .slc]) s x2 := by
    unfold x2
    refine Keeps.step State.sliceWrite_keeps (by rfl) ?_
    exact Keeps.refl _
  clear_value x2
  refine Keeps.ite ?_ ?_
  · refine Keeps.step State.ringEvent_keeps (by rfl) ?_
    assumption
  · assumption

theorem State.completion_keeps {s : State} {n : Nat} {q : Nat} {index : Nat} {status : Nat} {outLen : Nat} {gen :
    Nat} {epoch : Nat} {irq : Bool} {ok : Bool} :
    Keeps (mask [.rep, .slices, .msix, .out, .page .hst,
        .page .slc]) s (State.completion s n q index status outLen gen epoch irq ok) := by
  unfold State.completion
  extract_lets x1 x2 x3 x4 x5 x6 x7 x8
  have h1 : Keeps (mask [.rep, .slices, .msix, .out, .page .hst, .page .slc]) s x6 := by
    unfold x6
    refine Keeps.step State.modSlice_keeps (by rfl) ?_
    refine Keeps.step State.gatedWrite_keeps (by rfl) ?_
    exact Keeps.refl _
  clear_value x6
  refine Keeps.ite ?_ ?_
  · refine Keeps.step State.ringFails_keeps (by rfl) ?_
    exact Keeps.refl _
  · refine Keeps.ite ?_ ?_
    · refine Keeps.step State.raiseVector_keeps (by rfl) ?_
      refine Keeps.step State.modSlice_keeps (by rfl) ?_
      assumption
    · assumption

theorem State.tellSlot_keeps {s : State} {v : Nat} :
    Keeps (mask [.rep, .slices, .msix, .out, .page .hst, .page .slc]) s (State.tellSlot s v) := by
  unfold State.tellSlot
  refine Keeps.forL ?_ ?_
  · intro b1 u1
    extract_lets x1
    refine Keeps.ite ?_ ?_
    · refine Keeps.step State.ringEvent_keeps (by rfl) ?_
      exact Keeps.refl _
    · exact Keeps.refl _
  · exact Keeps.refl _

end Sys2Proof.Machine
end

