-- ==== Sys2Proof/Laws/Stoves.lean ====
section
/-! SUPPORT. What the operations of Machine/Stoves.lean keep, and the parts of the state that they may change. -/

namespace Sys2Proof.Machine

open Sys2Proof

theorem State.stvRefresh_keeps {s : State} {c : Nat} :
    Keeps (mask [.page .stv]) s (State.stvRefresh s c) := by
  unfold State.stvRefresh
  extract_lets x1 x2
  refine Keeps.step State.wr_keeps (by rfl) ?_
  refine Keeps.step State.wr_keeps (by rfl) ?_
  exact Keeps.refl _

theorem State.setChim_keeps {s : State} {c : Nat} {r : ChimRt} :
    Keeps (mask [.chims]) s (State.setChim s c r) := by
  unfold State.setChim
  refine Keeps.step Keeps.set_chims (by rfl) ?_
  exact Keeps.refl _

theorem State.modChim_keeps {s : State} {c : Nat} {f : ChimRt → ChimRt} :
    Keeps (mask [.chims]) s (State.modChim s c f) := by
  unfold State.modChim
  refine Keeps.step State.setChim_keeps (by rfl) ?_
  exact Keeps.refl _

theorem State.seedChimney_keeps {s : State} {c : Nat} :
    Keeps (mask [.chims, .fresh, .page .chm, .page .stv]) s (State.seedChimney s c) := by
  unfold State.seedChimney
  extract_lets x1
  refine Keeps.step State.stvRefresh_keeps (by rfl) ?_
  refine Keeps.step State.wr_keeps (by rfl) ?_
  refine Keeps.step State.modChim_keeps (by rfl) ?_
  refine Keeps.step State.burn_keeps (by rfl) ?_
  exact Keeps.refl _

theorem State.seedDevice_keeps {s : State} :
    Keeps (mask [.vault, .fresh, .page .kvt]) s (State.seedDevice s) := by
  unfold State.seedDevice
  extract_lets x1 x2 x3
  have h1 : Keeps (mask [.vault, .fresh, .page .kvt]) s x2 := by
    unfold x2
    refine Keeps.step State.burn_keeps (by rfl) ?_
    exact Keeps.refl _
  clear_value x2
  refine Keeps.step State.wr_keeps (by rfl) ?_
  refine Keeps.step Keeps.set_vault (by rfl) ?_
  assumption

theorem State.drbgReseed_keeps {s : State} {i : Nat} :
    Keeps (mask [.rep, .vault, .chims, .fresh, .page .kvt, .page .chm, .page .stv]) s (State.drbgReseed s i) := by
  unfold State.drbgReseed
  refine Keeps.ite ?_ ?_
  · refine Keeps.ite ?_ ?_
    · refine Keeps.step State.count_keeps (by rfl) ?_
      refine Keeps.step State.bumpReg_keeps (by rfl) ?_
      refine Keeps.step State.seedChimney_keeps (by rfl) ?_
      exact Keeps.refl _
    · refine Keeps.step State.event_keeps (by rfl) ?_
      exact Keeps.refl _
  · refine Keeps.ite ?_ ?_
    · refine Keeps.step State.count_keeps (by rfl) ?_
      refine Keeps.step State.bumpReg_keeps (by rfl) ?_
      refine Keeps.step State.seedDevice_keeps (by rfl) ?_
      exact Keeps.refl _
    · exact Keeps.refl _

theorem State.katStart_keeps {s : State} {c : Nat} {ks : List Nat} {kind : KatKind} :
    Keeps (mask [.chims]) s (State.katStart s c ks kind) := by
  unfold State.katStart
  refine Keeps.step State.modChim_keeps (by rfl) ?_
  exact Keeps.refl _

theorem State.stoveCycles_keeps {s : State} {c : Nat} {n : Nat} :
    Keeps (mask [.chims]) s (State.stoveCycles s c n) := by
  unfold State.stoveCycles
  extract_lets x1
  refine Keeps.step State.modChim_keeps (by rfl) ?_
  exact Keeps.refl _

theorem State.stvSet_keeps {s : State} {c : Nat} {ks : List Nat} {o : StvOwn} :
    Keeps (mask [.rep, .chims, .page .stv]) s (State.stvSet s c ks o) := by
  unfold State.stvSet
  extract_lets x1 x2 x3
  have h1 : Keeps (mask [.rep, .chims, .page .stv]) s x2 := by
    unfold x2
    refine Keeps.step State.modChim_keeps (by rfl) ?_
    refine Keeps.step State.stoveCycles_keeps (by rfl) ?_
    exact Keeps.refl _
  have h2 : Keeps (mask [.rep, .chims, .page .stv]) s x3 := by
    unfold x3
    refine Keeps.onlyIf ?_ ?_
    · intro u1
      refine Keeps.step State.event_keeps (by rfl) ?_
      exact Keeps.refl _
    · assumption
  clear_value x3
  clear_value x2
  refine Keeps.step State.stvRefresh_keeps (by rfl) ?_
  assumption

theorem State.stvAct_keeps {s : State} {c : Nat} {k : Nat} {restore : Bool} :
    Keeps (mask [.rep, .chims, .page .stv]) s (State.stvAct s c k restore) := by
  unfold State.stvAct
  extract_lets x1
  refine Keeps.ite ?_ ?_
  · refine Keeps.step State.wr_keeps (by rfl) ?_
    refine Keeps.step State.wr_keeps (by rfl) ?_
    exact Keeps.refl _
  · refine Keeps.step State.katStart_keeps (by rfl) ?_
    refine Keeps.step State.stvSet_keeps (by rfl) ?_
    exact Keeps.refl _

theorem State.stvBack_keeps {s : State} {c : Nat} {ks : List Nat} :
    Keeps (mask [.rep, .chims, .page .stv]) s (State.stvBack s c ks) := by
  unfold State.stvBack
  refine Keeps.step State.stvSet_keeps (by rfl) ?_
  exact Keeps.refl _

theorem State.chargeSlots_keeps {s : State} {c : Nat} {charge : Nat} {used : Nat} :
    Keeps (mask [.chims]) s (State.chargeSlots s c charge used) := by
  unfold State.chargeSlots
  refine Keeps.step State.modChim_keeps (by rfl) ?_
  exact Keeps.refl _

theorem State.chimEndTick_keeps {c : Nat} {s : State} :
    Keeps (mask [.rep, .chims]) s (State.chimEndTick c s) := by
  unfold State.chimEndTick
  extract_lets x1 x2 x3 x4 x5 x6 x7 x8
  have h1 : Keeps (mask [.rep, .chims]) s x1 := by
    unfold x1
    refine Keeps.step State.stoveCycles_keeps (by rfl) ?_
    exact Keeps.refl _
  have h2 : Keeps (mask [.rep, .chims]) s x7 := by
    unfold x7
    refine Keeps.step State.count_keeps (by rfl) ?_
    refine Keeps.step State.count_keeps (by rfl) ?_
    refine Keeps.step State.count_keeps (by rfl) ?_
    refine Keeps.step State.count_keeps (by rfl) ?_
    assumption
  have h3 : Keeps (mask [.rep, .chims]) s x8 := by
    unfold x8
    refine Keeps.onlyIf ?_ ?_
    · intro u1
      refine Keeps.step State.count_keeps (by rfl) ?_
      exact Keeps.refl _
    · assumption
  clear_value x8
  clear_value x7
  clear_value x1
  refine Keeps.step State.modChim_keeps (by rfl) ?_
  assumption

theorem State.commitChmCfg_keeps {s : State} {c : Nat} {w : Word} :
    Keeps (mask [.rep, .page .chm]) s (State.commitChmCfg s c w) := by
  unfold State.commitChmCfg
  refine Keeps.ite ?_ ?_
  · refine Keeps.step State.wr_keeps (by rfl) ?_
    exact Keeps.refl _
  · extract_lets x1 x2
    have h1 : Keeps (mask [.rep, .page .chm]) s x2 := by
      unfold x2
      with_reducible refine Keeps.step State.setWord_keeps ?_ ?_
      · exact Covers.of_subset (l := [.page .chm]) (by simp)
      exact Keeps.refl _
    clear_value x2
    refine Keeps.onlyIf ?_ ?_
    · intro u1
      refine Keeps.step State.event_keeps (by rfl) ?_
      exact Keeps.refl _
    · assumption

theorem State.refillSlots_keeps {c : Nat} {s : State} :
    Keeps (mask [.chims, .page .chm]) s (State.refillSlots c s) := by
  unfold State.refillSlots
  extract_lets x1 x2 x3
  have h1 : Keeps (mask [.chims, .page .chm]) s x2 := by
    unfold x2
    refine Keeps.step State.wr_keeps (by rfl) ?_
    refine Keeps.step State.wr_keeps (by rfl) ?_
    refine Keeps.step State.wr_keeps (by rfl) ?_
    exact Keeps.refl _
  have h2 : Keeps (mask [.chims, .page .chm]) s x3 := by
    unfold x3
    refine Keeps.step State.wr_keeps (by rfl) ?_
    assumption
  clear_value x3
  clear_value x2
  refine Keeps.step State.modChim_keeps (by rfl) ?_
  assumption

theorem State.katCommandEnd_keeps {s : State} {c : Nat} {k : Nat} :
    Keeps (mask [.sched, .rep, .chims, .page .stv]) s (State.katCommandEnd s c k) := by
  unfold State.katCommandEnd
  extract_lets x1 x2
  have h1 : Keeps (mask [.sched, .rep, .chims, .page .stv]) s x2 := by
    unfold x2
    refine Keeps.step State.wr_keeps (by rfl) ?_
    exact Keeps.refl _
  clear_value x2
  refine Keeps.ite ?_ ?_
  · exact Keeps.refl _
  · refine Keeps.ite ?_ ?_
    · refine Keeps.step State.schedule_keeps (by rfl) ?_
      refine Keeps.step State.wr_keeps (by rfl) ?_
      assumption
    · refine Keeps.step State.stvSet_keeps (by rfl) ?_
      refine Keeps.step State.wr_keeps (by rfl) ?_
      assumption

theorem State.katFailed_keeps {s : State} {c : Nat} {k : Nat} :
    Keeps (mask [.rep, .page .stv]) s (State.katFailed s c k) := by
  unfold State.katFailed
  with_reducible refine Keeps.step State.wr_keeps ?_ ?_
  · exact Covers.of_subset (l := [.page .stv]) (by simp)
  refine Keeps.step State.event_keeps (by rfl) ?_
  refine Keeps.step State.fault_keeps (by rfl) ?_
  refine Keeps.step State.count_keeps (by rfl) ?_
  exact Keeps.refl _

theorem State.katDone_keeps {s : State} {c : Nat} {k : Nat} {pass : Bool} :
    Keeps (mask [.sched, .rep, .chims, .page .flu, .page .stv]) s (State.katDone s c k pass) := by
  unfold State.katDone
  split
  · exact Keeps.refl _
  · extract_lets x1 x2 x3
    have h1 : Keeps (mask [.sched, .rep, .chims, .page .flu, .page .stv]) s x1 := by
      unfold x1
      refine Keeps.step State.modChim_keeps (by rfl) ?_
      refine Keeps.step State.count_keeps (by rfl) ?_
      exact Keeps.refl _
    have h2 : Keeps (mask [.sched, .rep, .chims, .page .flu, .page .stv]) s x2 := by
      unfold x2
      refine Keeps.ite ?_ ?_
      · with_reducible refine Keeps.step State.wr_keeps ?_ ?_
        · exact Covers.of_subset (l := [.page .stv]) (by simp)
        assumption
      · refine Keeps.step State.katFailed_keeps (by rfl) ?_
        assumption
    have h3 : Keeps (mask [.sched, .rep, .chims, .page .flu, .page .stv]) s x3 := by
      unfold x3
      refine Keeps.step State.count_keeps (by rfl) ?_
      refine Keeps.step State.bumpReg_keeps (by rfl) ?_
      assumption
    clear_value x3
    clear_value x2
    clear_value x1
    split
    · refine Keeps.ite ?_ ?_
      · refine Keeps.step State.stvSet_keeps (by rfl) ?_
        assumption
      · assumption
    · refine Keeps.ite ?_ ?_
      · assumption
      · refine Keeps.step State.stvSet_keeps (by rfl) ?_
        refine Keeps.step State.bumpReg_keeps (by rfl) ?_
        assumption
    · refine Keeps.step State.katCommandEnd_keeps (by rfl) ?_
      refine Keeps.ite ?_ ?_
      · assumption
      · refine Keeps.step State.stvSet_keeps (by rfl) ?_
        assumption

theorem State.landChmCfg_keeps {s : State} {c : Nat} {w : Word} {cyc : Nat} :
    Keeps (mask [.sched, .page .chm]) s (State.landChmCfg s c w cyc) := by
  unfold State.landChmCfg
  refine Keeps.ite ?_ ?_
  · refine Keeps.step State.wr_keeps (by rfl) ?_
    exact Keeps.refl _
  · refine Keeps.step State.putCopy_keeps (by rfl) ?_
    exact Keeps.refl _

theorem State.pairMismatch_keeps {s : State} {c : Nat} {i : Nat} {work : Option (Nat × Nat)} :
    Keeps (mask [.rep, .chims, .page .stv]) s (State.pairMismatch s c i work) := by
  unfold State.pairMismatch
  extract_lets x1 x2 x3
  have h1 : Keeps (mask [.rep, .chims, .page .stv]) s x1 := by
    unfold x1
    refine Keeps.step State.count_keeps (by rfl) ?_
    refine Keeps.step State.stvSet_keeps (by rfl) ?_
    exact Keeps.refl _
  have h2 : Keeps (mask [.rep, .chims, .page .stv]) s x2 := by
    unfold x2
    refine Keeps.step State.event_keeps (by rfl) ?_
    refine Keeps.step State.fault_keeps (by rfl) ?_
    assumption
  have h3 : Keeps (mask [.rep, .chims, .page .stv]) s x3 := by
    unfold x3
    refine Keeps.step State.wr_keeps (by rfl) ?_
    refine Keeps.step State.wr_keeps (by rfl) ?_
    assumption
  clear_value x3
  clear_value x2
  clear_value x1
  split
  · refine Keeps.step State.wr_keeps (by rfl) ?_
    refine Keeps.step State.wr_keeps (by rfl) ?_
    assumption
  · assumption

theorem State.stvBringUp_keeps {c : Nat} {s : State} :
    Keeps (mask [.rep, .chims, .fresh, .page .chm, .page .stv]) s (State.stvBringUp c s) := by
  unfold State.stvBringUp
  refine Keeps.ite ?_ ?_
  · refine Keeps.step State.katStart_keeps (by rfl) ?_
    refine Keeps.step State.seedChimney_keeps (by rfl) ?_
    exact Keeps.refl _
  · extract_lets x1
    have h1 : Keeps (mask [.rep, .chims, .fresh, .page .chm, .page .stv]) s x1 := by
      unfold x1
      refine Keeps.forL ?_ ?_
      · intro b1 u1
        refine Keeps.step State.katFailed_keeps (by rfl) ?_
        exact Keeps.refl _
      · exact Keeps.refl _
    clear_value x1
    refine Keeps.step State.stvSet_keeps (by rfl) ?_
    assumption

theorem State.stvLand_keeps {s : State} {c : Nat} {k : Nat} {restore : Bool} {cyc : Nat} :
    Keeps (mask [.sched, .page .dev, .page .stv]) s (State.stvLand s c k restore cyc) := by
  unfold State.stvLand
  refine State.gate_keeps ?_ ?_ ?_
  · exact rfl
  · intro u1
    extract_lets x1
    have h1 : Keeps (mask [.sched, .page .dev, .page .stv]) u1 x1 := by
      unfold x1
      refine Keeps.step State.wr_keeps (by rfl) ?_
      exact Keeps.refl _
    clear_value x1
    refine Keeps.ite ?_ ?_
    · refine Keeps.step State.wr_keeps (by rfl) ?_
      assumption
    · refine Keeps.ite ?_ ?_
      · refine Keeps.step State.wr_keeps (by rfl) ?_
        assumption
      · refine Keeps.step State.schedule_keeps (by rfl) ?_
        refine Keeps.step State.wr_keeps (by rfl) ?_
        assumption
  · exact Keeps.refl _

theorem execChmCfgWrite_keeps {c : ChimneyNo} {w : Word} {cyc : Cyc} {s : State} :
    KeepsX (mask [.cycle, .sched, .rep, .msix, .out, .page .dev, .page .chm]) s (execChmCfgWrite c w cyc s) := by
  unfold execChmCfgWrite
  refine KeepsX.done (by rfl) ?_
  refine State.gate_keeps ?_ ?_ ?_
  · exact rfl
  · intro u1
    refine Keeps.step State.landChmCfg_keeps (by rfl) ?_
    exact Keeps.refl _
  · refine Keeps.step State.at_keeps (by rfl) ?_
    exact Keeps.refl _

theorem execStoveTest_keeps {c : ChimneyNo} {k : StoveNo} {cyc : Cyc} {s : State} :
    KeepsX (mask [.cycle, .sched, .rep, .msix, .out, .page .dev, .page .stv]) s (execStoveTest c k cyc s) := by
  unfold execStoveTest
  refine KeepsX.done (by rfl) ?_
  refine Keeps.step State.stvLand_keeps (by rfl) ?_
  refine Keeps.step State.at_keeps (by rfl) ?_
  exact Keeps.refl _

theorem execStoveRestore_keeps {c : ChimneyNo} {k : StoveNo} {cyc : Cyc} {s : State} :
    KeepsX (mask [.cycle, .sched, .rep, .msix, .out, .page .dev, .page .stv]) s (execStoveRestore c k cyc s) := by
  unfold execStoveRestore
  refine KeepsX.done (by rfl) ?_
  refine Keeps.step State.stvLand_keeps (by rfl) ?_
  refine Keeps.step State.at_keeps (by rfl) ?_
  exact Keeps.refl _

theorem execKatDone_keeps {c : ChimneyNo} {k : StoveNo} {pass : Bool} {s : State} :
    KeepsX (mask [.sched, .rep, .chims, .msix, .out, .page .flu, .page .stv]) s (execKatDone c k pass s) := by
  unfold execKatDone
  refine KeepsX.done (by rfl) ?_
  refine Keeps.step State.katDone_keeps (by rfl) ?_
  exact Keeps.refl _

theorem execMicrocodeError_keeps {c : ChimneyNo} {k : StoveNo} {s : State} :
    KeepsX (mask [.rep, .chims, .msix, .out, .page .flt, .page .stv]) s (execMicrocodeError c k s) := by
  unfold execMicrocodeError
  refine KeepsX.done (by rfl) ?_
  refine Keeps.step State.sramError_keeps (by rfl) ?_
  refine Keeps.step State.count_keeps (by rfl) ?_
  refine Keeps.step State.stvSet_keeps (by rfl) ?_
  exact Keeps.refl _

theorem execDrbgReseed_keeps {i : Fin 9} {s : State} :
    KeepsX (mask [.rep, .vault, .chims, .msix, .fresh, .out, .page .kvt, .page .chm,
        .page .stv]) s (execDrbgReseed i s) := by
  unfold execDrbgReseed
  refine KeepsX.done (by rfl) ?_
  refine Keeps.onlyIf ?_ ?_
  · intro u1
    refine Keeps.step State.drbgReseed_keeps (by rfl) ?_
    exact Keeps.refl _
  · exact Keeps.refl _

theorem execEntropyHealthFail_keeps {s : State} :
    KeepsX (mask [.rep, .msix, .out, .page .kvt]) s (execEntropyHealthFail s) := by
  unfold execEntropyHealthFail
  refine KeepsX.done (by rfl) ?_
  refine Keeps.forN ?_ ?_
  · intro b1 u1
    refine Keeps.step State.event_keeps (by rfl) ?_
    exact Keeps.refl _
  · refine Keeps.step State.wr_keeps (by rfl) ?_
    exact Keeps.refl _

end Sys2Proof.Machine
end

