-- ==== Sys2Proof/Laws/Vault.lean ====
section
/-! SUPPORT. What the operations of Machine/Vault.lean keep, and the parts of the state that they may change. -/

namespace Sys2Proof.Machine

open Sys2Proof

theorem State.kvtEvent_keeps {s : State} {f : Fld} {v : Nat} :
    Keeps (mask [.rep]) s (State.kvtEvent s f v) := by
  unfold State.kvtEvent
  refine Keeps.step State.event_keeps (by rfl) ?_
  refine Keeps.step State.wrEvt_keeps (by rfl) ?_
  refine Keeps.step State.wrEvt_keeps (by rfl) ?_
  exact Keeps.refl _

theorem State.slotFails_keeps {s : State} {v : Nat} :
    Keeps (mask [.sched, .rep, .vault]) s (State.slotFails s v) := by
  unfold State.slotFails
  extract_lets x1 x2
  have h1 : Keeps (mask [.sched, .rep, .vault]) s x2 := by
    unfold x2
    refine Keeps.step State.setSlot_keeps (by rfl) ?_
    exact Keeps.refl _
  clear_value x2
  refine Keeps.step State.schedule_keeps (by rfl) ?_
  refine Keeps.step State.kvtEvent_keeps (by rfl) ?_
  refine Keeps.step State.count_keeps (by rfl) ?_
  assumption

theorem State.badSlot_keeps {s : State} {v : Nat} :
    Keeps (mask [.sched, .rep, .vault]) s (State.badSlot s v) := by
  unfold State.badSlot
  refine Keeps.step State.slotFails_keeps (by rfl) ?_
  refine Keeps.step State.fault_keeps (by rfl) ?_
  exact Keeps.refl _

theorem State.reserve_keeps {s : State} {v : Nat} :
    Keeps (mask [.vault]) s (State.reserve s v) := by
  unfold State.reserve
  extract_lets x1 x2 x3
  refine Keeps.ite ?_ ?_
  · exact Keeps.refl _
  · refine Keeps.step Keeps.set_vault (by rfl) ?_
    exact Keeps.refl _

theorem State.takeUse_keeps {s : State} {v : Nat} :
    KeepsP (mask [.sched, .rep, .vault]) s (State.takeUse s v) := by
  unfold State.takeUse
  extract_lets x1 x2 x3
  have h1 : Keeps (mask [.sched, .rep, .vault]) s x2 := by
    unfold x2
    refine Keeps.step State.count_keeps (by rfl) ?_
    refine Keeps.step State.setSlot_keeps (by rfl) ?_
    exact Keeps.refl _
  have h2 : Keeps (mask [.sched, .rep, .vault]) s x3 := by
    unfold x3
    refine Keeps.onlyIf ?_ ?_
    · intro u1
      refine Keeps.step State.reserve_keeps (by rfl) ?_
      exact Keeps.refl _
    · assumption
  clear_value x3
  clear_value x2
  refine KeepsP.ite ?_ ?_
  · refine KeepsP.mk ?_
    exact Keeps.refl _
  · refine KeepsP.ite ?_ ?_
    · refine KeepsP.mk ?_
      refine Keeps.step State.badSlot_keeps (by rfl) ?_
      exact Keeps.refl _
    · refine KeepsP.ite ?_ ?_
      · refine KeepsP.mk ?_
        refine Keeps.step State.count_keeps (by rfl) ?_
        exact Keeps.refl _
      · refine KeepsP.ite ?_ ?_
        · refine KeepsP.mk ?_
          refine Keeps.onlyIf ?_ ?_
          · intro u1
            refine Keeps.step State.kvtEvent_keeps (by rfl) ?_
            exact Keeps.refl _
          · assumption
        · refine KeepsP.ite ?_ ?_
          · refine KeepsP.mk ?_
            refine Keeps.step State.count_keeps (by rfl) ?_
            exact Keeps.refl _
          · refine KeepsP.ite ?_ ?_
            · refine KeepsP.mk ?_
              refine Keeps.step State.kvtEvent_keeps (by rfl) ?_
              refine Keeps.step State.count_keeps (by rfl) ?_
              exact Keeps.refl _
            · refine KeepsP.mk ?_
              refine Keeps.step State.reserve_keeps (by rfl) ?_
              exact Keeps.refl _

theorem State.draw_keeps {s : State} {n : Nat} :
    KeepsP (mask [.vault, .fresh]) s (State.draw s n) := by
  unfold State.draw
  split
  · refine KeepsP.ite ?_ ?_
    · refine KeepsP.mk ?_
      refine Keeps.step State.burn_keeps (by rfl) ?_
      exact Keeps.refl _
    · refine KeepsP.mk ?_
      refine Keeps.step Keeps.set_vault (by rfl) ?_
      exact Keeps.refl _
  · refine KeepsP.mk ?_
    refine Keeps.step State.burn_keeps (by rfl) ?_
    exact Keeps.refl _

theorem State.attestEdge_keeps {s : State} :
    Keeps (mask [.vault]) s (State.attestEdge s) := by
  unfold State.attestEdge
  split
  · refine Keeps.ite ?_ ?_
    · refine Keeps.step Keeps.set_vault (by rfl) ?_
      exact Keeps.refl _
    · exact Keeps.refl _
  · exact Keeps.refl _

theorem State.drawBytes_keeps {s : State} {n : Nat} :
    KeepsP (mask [.rep, .vault, .fresh, .page .kvt]) s (State.drawBytes s n) := by
  unfold State.drawBytes
  refine KeepsP.step State.draw_keeps (by rfl) ?_
  refine Keeps.step State.count_keeps (by rfl) ?_
  refine Keeps.step State.bumpReg_keeps (by rfl) ?_
  refine Keeps.step State.seedDevice_keeps (by rfl) ?_
  exact Keeps.refl _

theorem State.vaultCommit_keeps {s : State} {c : VaultCmd} {x : Slot} :
    Keeps (mask [.vault]) s (State.vaultCommit s c x) := by
  unfold State.vaultCommit
  refine Keeps.step Keeps.set_vault (by rfl) ?_
  exact Keeps.refl _

theorem State.officerSend_keeps {s : State} {type : Nat} {body : List Byte} :
    Keeps (mask [.officer, .out]) s (State.officerSend s type body) := by
  unfold State.officerSend
  extract_lets x1 x2
  refine Keeps.step State.emit_keeps (by rfl) ?_
  refine Keeps.step Keeps.set_officer (by rfl) ?_
  exact Keeps.refl _

theorem State.officerResult_keeps {s : State} {status : Nat} {output : optParam (List Byte) []} :
    Keeps (mask [.officer, .out]) s (State.officerResult s status output) := by
  unfold State.officerResult
  refine Keeps.step State.officerSend_keeps (by rfl) ?_
  exact Keeps.refl _

theorem State.vaultEnd_keeps {s : State} {c : VaultCmd} {result : Nat} {output : optParam (List Byte) []} :
    Keeps (mask [.rep, .vault, .kindle, .officer, .out, .page .kvt]) s (State.vaultEnd s c result output) := by
  unfold State.vaultEnd
  extract_lets x1 x2 x3 x4 x5 x6 x7
  have h1 : Keeps (mask [.rep, .vault, .kindle, .officer, .out, .page .kvt]) s x2 := by
    unfold x2
    refine Keeps.step Keeps.set_vault (by rfl) ?_
    exact Keeps.refl _
  have h2 : Keeps (mask [.rep, .vault, .kindle, .officer, .out, .page .kvt]) s x4 := by
    unfold x4
    refine Keeps.ite ?_ ?_
    · refine Keeps.step Keeps.set_kindle (by rfl) ?_
      assumption
    · assumption
  have h3 : Keeps (mask [.rep, .vault, .kindle, .officer, .out, .page .kvt]) s x5 := by
    unfold x5
    refine Keeps.ite ?_ ?_
    · refine Keeps.step State.count_keeps (by rfl) ?_
      assumption
    · refine Keeps.ite ?_ ?_
      · assumption
      · refine Keeps.step State.count_keeps (by rfl) ?_
        assumption
  have h4 : Keeps (mask [.rep, .vault, .kindle, .officer, .out, .page .kvt]) s x6 := by
    unfold x6
    refine Keeps.step State.wr_keeps (by rfl) ?_
    refine Keeps.step State.wr_keeps (by rfl) ?_
    assumption
  have h5 : Keeps (mask [.rep, .vault, .kindle, .officer, .out, .page .kvt]) s x7 := by
    unfold x7
    refine Keeps.onlyIf ?_ ?_
    · intro u1
      refine Keeps.step State.wrWords_keeps (by rfl) ?_
      exact Keeps.refl _
    · assumption
  clear_value x7
  clear_value x6
  clear_value x5
  clear_value x4
  clear_value x2
  refine Keeps.ite ?_ ?_
  · refine Keeps.step State.officerResult_keeps (by rfl) ?_
    refine Keeps.step State.wr_keeps (by rfl) ?_
    assumption
  · refine Keeps.ite ?_ ?_
    · refine Keeps.step State.wrWords_keeps (by rfl) ?_
      refine Keeps.step State.wr_keeps (by rfl) ?_
      assumption
    · assumption

theorem State.vaultUse_keeps {s : State} {c : VaultCmd} :
    Keeps (mask [.rep, .vault, .kindle, .officer, .out, .page .kvt]) s (State.vaultUse s c) := by
  unfold State.vaultUse
  extract_lets x1 x2 x3 x4 x5 x6 x7
  split
  · refine Keeps.step State.vaultCommit_keeps (by rfl) ?_
    exact Keeps.refl _
  · split
    · refine Keeps.step State.vaultEnd_keeps (by rfl) ?_
      exact Keeps.refl _
    · extract_lets x8 x9 x10 x11
      refine Keeps.ite ?_ ?_
      · refine Keeps.step State.vaultEnd_keeps (by rfl) ?_
        exact Keeps.refl _
      · refine Keeps.step State.vaultCommit_keeps (by rfl) ?_
        exact Keeps.refl _
  · refine Keeps.step State.vaultEnd_keeps (by rfl) ?_
    exact Keeps.refl _
  · refine Keeps.step Keeps.set_vault_kindle (by rfl) ?_
    exact Keeps.refl _

theorem State.vaultTake_keeps {s : State} {c : VaultCmd} {v : Nat} :
    Keeps (mask [.sched, .rep, .vault, .kindle, .officer, .out, .page .kvt]) s (State.vaultTake s c v) := by
  unfold State.vaultTake
  split
  · rename_i x1 e1
    have h1 : Keeps (mask [.sched, .rep, .vault, .kindle, .officer, .out, .page .kvt]) s x1 := KeepsP.of_eq e1 (by
        refine KeepsP.step State.takeUse_keeps (by rfl) ?_
        exact Keeps.refl _
      )
    clear e1
    refine Keeps.step State.vaultUse_keeps (by rfl) ?_
    assumption
  · rename_i x1 e1
    have h1 : Keeps (mask [.sched, .rep, .vault, .kindle, .officer, .out, .page .kvt]) s x1 := KeepsP.of_eq e1 (by
        refine KeepsP.step State.takeUse_keeps (by rfl) ?_
        exact Keeps.refl _
      )
    clear e1
    refine Keeps.step Keeps.set_vault (by rfl) ?_
    assumption
  · rename_i x1 e1
    have h1 : Keeps (mask [.sched, .rep, .vault, .kindle, .officer, .out, .page .kvt]) s x1 := KeepsP.of_eq e1 (by
        refine KeepsP.step State.takeUse_keeps (by rfl) ?_
        exact Keeps.refl _
      )
    clear e1
    refine Keeps.step State.vaultEnd_keeps (by rfl) ?_
    assumption

theorem State.vaultDeliver_keeps {s : State} {c : VaultCmd} {bytes : List Byte} :
    Keeps (mask [.rep, .vault, .kindle, .officer, .out, .page .kvt]) s (State.vaultDeliver s c bytes) := by
  unfold State.vaultDeliver
  refine Keeps.ite ?_ ?_
  · refine Keeps.step State.vaultEnd_keeps (by rfl) ?_
    exact Keeps.refl _
  · refine Keeps.ite ?_ ?_
    · refine Keeps.step State.vaultEnd_keeps (by rfl) ?_
      refine Keeps.step State.emit_keeps (by rfl) ?_
      refine Keeps.step State.wr_keeps (by rfl) ?_
      exact Keeps.refl _
    · refine Keeps.step State.vaultEnd_keeps (by rfl) ?_
      exact Keeps.refl _

theorem State.scrubSlots_keeps {s : State} :
    Keeps (mask [.sched, .rep, .vault]) s (State.scrubSlots s) := by
  unfold State.scrubSlots
  refine Keeps.forL ?_ ?_
  · intro b1 u1
    refine Keeps.ite ?_ ?_
    · exact Keeps.refl _
    · refine Keeps.step State.badSlot_keeps (by rfl) ?_
      exact Keeps.refl _
  · exact Keeps.refl _

theorem State.vaultRun_keeps {s : State} {c : VaultCmd} {due : Nat} {pass : Bool} :
    Keeps (mask [.sched, .rep, .vault, .kindle, .officer, .fresh, .out,
        .page .kvt]) s (State.vaultRun s c due pass) := by
  unfold State.vaultRun
  extract_lets x1 x2 x3 x4 x5 x6
  have h1 : Keeps (mask [.sched, .rep, .vault, .kindle, .officer, .fresh, .out, .page .kvt]) s x2 := by
    unfold x2
    refine Keeps.step State.wr_keeps (by rfl) ?_
    exact Keeps.refl _
  have h2 : Keeps (mask [.sched, .rep, .vault, .kindle, .officer, .fresh, .out, .page .kvt]) s x4 := by
    unfold x4
    refine Keeps.step Keeps.set_vault (by rfl) ?_
    assumption
  have h3 : Keeps (mask [.sched, .rep, .vault, .kindle, .officer, .fresh, .out, .page .kvt]) s x6 := by
    unfold x6
    refine Keeps.onlyIf ?_ ?_
    · intro u1
      refine Keeps.step State.burn_keeps (by rfl) ?_
      exact Keeps.refl _
    · assumption
  clear_value x6
  clear_value x4
  clear_value x2
  split
  · split
    rename_i x7 y0 e1
    have h4 : Keeps (mask [.sched, .rep, .vault, .kindle, .officer, .fresh, .out,
        .page .kvt]) s x7 := KeepsP.of_eq e1 (by
        refine KeepsP.step State.drawBytes_keeps (by rfl) ?_
        assumption
      )
    clear e1
    refine Keeps.step State.vaultCommit_keeps (by rfl) ?_
    assumption
  · refine Keeps.step State.vaultTake_keeps (by rfl) ?_
    assumption
  · refine Keeps.step State.vaultTake_keeps (by rfl) ?_
    assumption
  · refine Keeps.step State.vaultTake_keeps (by rfl) ?_
    assumption
  · refine Keeps.step State.vaultEnd_keeps (by rfl) ?_
    refine Keeps.step State.schedule_keeps (by rfl) ?_
    assumption
  · refine Keeps.step State.vaultTake_keeps (by rfl) ?_
    assumption
  · refine Keeps.step State.vaultDeliver_keeps (by rfl) ?_
    assumption
  · refine Keeps.step State.vaultEnd_keeps (by rfl) ?_
    assumption
  · refine Keeps.ite ?_ ?_
    · refine Keeps.step State.vaultEnd_keeps (by rfl) ?_
      refine Keeps.step State.schedule_keeps (by rfl) ?_
      refine Keeps.step State.wr_keeps (by rfl) ?_
      assumption
    · refine Keeps.step State.vaultEnd_keeps (by rfl) ?_
      refine Keeps.step State.wr_keeps (by rfl) ?_
      assumption
  · refine Keeps.step State.vaultEnd_keeps (by rfl) ?_
    refine Keeps.step State.scrubSlots_keeps (by rfl) ?_
    assumption
  · split
    rename_i x7 y0 e1
    have h4 : Keeps (mask [.sched, .rep, .vault, .kindle, .officer, .fresh, .out,
        .page .kvt]) s x7 := KeepsP.of_eq e1 (by
        refine KeepsP.step State.drawBytes_keeps (by rfl) ?_
        assumption
      )
    clear e1
    refine Keeps.step State.vaultCommit_keeps (by rfl) ?_
    assumption
  · refine Keeps.step State.vaultCommit_keeps (by rfl) ?_
    assumption

theorem State.vaultStart_keeps {s : State} {c : VaultCmd} {due : Nat} {pass : optParam Bool true} :
    Keeps (mask [.sched, .rep, .vault, .kindle, .officer, .fresh, .out,
        .page .kvt]) s (State.vaultStart s c due pass) := by
  unfold State.vaultStart
  split
  · refine Keeps.step State.vaultRun_keeps (by rfl) ?_
    exact Keeps.refl _
  · refine Keeps.step State.vaultEnd_keeps (by rfl) ?_
    refine Keeps.step State.kvtEvent_keeps (by rfl) ?_
    exact Keeps.refl _
  · refine Keeps.step State.vaultEnd_keeps (by rfl) ?_
    refine Keeps.onlyIf ?_ ?_
    · intro u1
      refine Keeps.step State.count_keeps (by rfl) ?_
      exact Keeps.refl _
    · exact Keeps.refl _
  · refine Keeps.step State.vaultEnd_keeps (by rfl) ?_
    exact Keeps.refl _

theorem State.vaultNext_keeps {s : State} :
    Keeps (mask [.sched, .rep, .vault, .kindle, .officer, .fresh, .out, .page .kvt]) s (State.vaultNext s) := by
  unfold State.vaultNext
  refine Keeps.forL ?_ ?_
  · intro b1 u1
    refine Keeps.ite ?_ ?_
    · exact Keeps.refl _
    · refine Keeps.step State.vaultStart_keeps (by rfl) ?_
      refine Keeps.step Keeps.set_vault (by rfl) ?_
      exact Keeps.refl _
  · exact Keeps.refl _

theorem State.attestDone_keeps {s : State} :
    Keeps (mask [.sched, .rep, .vault, .kindle, .officer, .fresh, .out, .page .kvt]) s (State.attestDone s) := by
  unfold State.attestDone
  split
  · refine Keeps.ite ?_ ?_
    · split
      rename_i x1 y0 e1
      have h1 : Keeps (mask [.sched, .rep, .vault, .kindle, .officer, .fresh, .out,
          .page .kvt]) s x1 := KeepsP.of_eq e1 (by
          refine KeepsP.step State.draw_keeps (by rfl) ?_
          exact Keeps.refl _
        )
      clear e1
      extract_lets x2 x3 x4
      have h2 : Keeps (mask [.sched, .rep, .vault, .kindle, .officer, .fresh, .out, .page .kvt]) s x4 := by
        unfold x4
        refine Keeps.step State.count_keeps (by rfl) ?_
        assumption
      clear_value x4
      refine Keeps.step State.vaultNext_keeps (by rfl) ?_
      refine Keeps.step State.vaultDeliver_keeps (by rfl) ?_
      assumption
    · exact Keeps.refl _
  · exact Keeps.refl _

theorem State.otpCut_keeps {s : State} :
    Keeps (mask [.page .kvt]) s (State.otpCut s) := by
  unfold State.otpCut
  split
  · refine Keeps.step State.wr_keeps (by rfl) ?_
    exact Keeps.refl _
  · exact Keeps.refl _

theorem State.commitDone_keeps {s : State} {c : VaultCmd} {x : Slot} :
    Keeps (mask [.sched, .rep, .vault, .kindle, .officer, .out, .page .kvt]) s (State.commitDone s c x) := by
  unfold State.commitDone
  refine Keeps.ite ?_ ?_
  · refine Keeps.step State.vaultEnd_keeps (by rfl) ?_
    exact Keeps.refl _
  · extract_lets x1 x2 x3 x4 x5 x6
    have h1 : Keeps (mask [.sched, .rep, .vault, .kindle, .officer, .out, .page .kvt]) s x2 := by
      unfold x2
      refine Keeps.step State.schedule_keeps (by rfl) ?_
      refine Keeps.step State.setSlot_keeps (by rfl) ?_
      exact Keeps.refl _
    have h2 : Keeps (mask [.sched, .rep, .vault, .kindle, .officer, .out, .page .kvt]) s x4 := by
      unfold x4
      refine Keeps.step Keeps.set_vault (by rfl) ?_
      assumption
    have h3 : Keeps (mask [.sched, .rep, .vault, .kindle, .officer, .out, .page .kvt]) s x6 := by
      unfold x6
      refine Keeps.ite ?_ ?_
      · refine Keeps.ite ?_ ?_
        · refine Keeps.step State.kvtEvent_keeps (by rfl) ?_
          refine Keeps.step Keeps.set_vault (by rfl) ?_
          assumption
        · assumption
      · assumption
    clear_value x6
    clear_value x4
    clear_value x2
    refine Keeps.step State.vaultEnd_keeps (by rfl) ?_
    assumption

theorem State.removeSlots_keeps {s : State} {v : Nat} :
    KeepsP (mask [.rep, .vault, .slices, .msix, .out, .page .hst, .page .slc]) s (State.removeSlots s v) := by
  unfold State.removeSlots
  extract_lets x1 x2 x3 x4
  have h1 : Keeps (mask [.rep, .vault, .slices, .msix, .out, .page .hst, .page .slc]) s x3 := by
    unfold x3
    refine Keeps.forL ?_ ?_
    · intro b1 u1
      refine Keeps.ite ?_ ?_
      · exact Keeps.refl _
      · refine Keeps.step State.setSlot_keeps (by rfl) ?_
        exact Keeps.refl _
    · exact Keeps.refl _
  have h2 : Keeps (mask [.rep, .vault, .slices, .msix, .out, .page .hst, .page .slc]) s x4 := by
    unfold x4
    refine Keeps.forL ?_ ?_
    · intro b1 u1
      refine Keeps.step State.tellSlot_keeps (by rfl) ?_
      exact Keeps.refl _
    · assumption
  clear_value x4
  clear_value x3
  refine KeepsP.mk ?_
  refine Keeps.onlyIf ?_ ?_
  · intro u1
    refine Keeps.step Keeps.set_vault (by rfl) ?_
    exact Keeps.refl _
  · assumption

theorem State.deleteSlot_keeps {s : State} {v : Nat} :
    KeepsP (mask [.rep, .vault, .slices, .msix, .out, .page .hst, .page .slc]) s (State.deleteSlot s v) := by
  unfold State.deleteSlot
  refine KeepsP.ite ?_ ?_
  · refine KeepsP.step State.removeSlots_keeps (by rfl) ?_
    refine Keeps.step State.setSlot_keeps (by rfl) ?_
    exact Keeps.refl _
  · refine KeepsP.mk ?_
    exact Keeps.refl _

theorem State.slotBecomes_keeps {s : State} {v : Nat} {officer : Bool} :
    Keeps (mask [.vault, .page .kvt]) s (State.slotBecomes s v officer) := by
  unfold State.slotBecomes
  extract_lets x1
  split
  · refine Keeps.ite ?_ ?_
    · refine Keeps.step State.setSlot_keeps (by rfl) ?_
      exact Keeps.refl _
    · refine Keeps.onlyIf ?_ ?_
      · intro u1
        refine Keeps.step State.wr_keeps (by rfl) ?_
        exact Keeps.refl _
      · refine Keeps.step State.setSlot_keeps (by rfl) ?_
        exact Keeps.refl _
  · refine Keeps.step State.setSlot_keeps (by rfl) ?_
    exact Keeps.refl _

theorem State.landOtp_keeps {s : State} {target : Nat} {guard : Nat} :
    Keeps (mask [.vault, .page .kvt]) s (State.landOtp s target guard) := by
  unfold State.landOtp
  refine Keeps.ite ?_ ?_
  · exact Keeps.refl _
  · extract_lets x1 x2
    have h1 : Keeps (mask [.vault, .page .kvt]) s x1 := by
      unfold x1
      refine Keeps.step State.wr_keeps (by rfl) ?_
      exact Keeps.refl _
    clear_value x1
    refine Keeps.step Keeps.set_vault (by rfl) ?_
    assumption

theorem State.vaultLand_keeps {s : State} {c : VaultCmd} {cyc : Nat} {pass : optParam Bool true} :
    Keeps (mask [.sched, .rep, .vault, .kindle, .officer, .fresh, .out, .page .dev,
        .page .kvt]) s (State.vaultLand s c cyc pass) := by
  unfold State.vaultLand
  refine State.gate_keeps ?_ ?_ ?_
  · exact rfl
  · intro u1
    refine Keeps.ite ?_ ?_
    · refine Keeps.step State.wr_keeps (by rfl) ?_
      exact Keeps.refl _
    · refine Keeps.step State.vaultStart_keeps (by rfl) ?_
      exact Keeps.refl _
  · exact Keeps.refl _

theorem State.vaultOfficer_keeps {s : State} {c : VaultCmd} {cyc : Nat} :
    Keeps (mask [.sched, .rep, .vault, .kindle, .officer, .fresh, .out,
        .page .kvt]) s (State.vaultOfficer s c cyc) := by
  unfold State.vaultOfficer
  refine Keeps.ite ?_ ?_
  · refine Keeps.step Keeps.set_vault (by rfl) ?_
    exact Keeps.refl _
  · refine Keeps.step State.vaultStart_keeps (by rfl) ?_
    exact Keeps.refl _

theorem execGenerate_keeps {slot : SlotNo} {cyc : Cyc} {s : State} :
    KeepsX (mask [.cycle, .sched, .rep, .vault, .kindle, .msix, .officer, .fresh, .out, .page .dev,
        .page .kvt]) s (execGenerate slot cyc s) := by
  unfold execGenerate
  refine KeepsX.done (by rfl) ?_
  refine Keeps.step State.vaultLand_keeps (by rfl) ?_
  refine Keeps.step State.at_keeps (by rfl) ?_
  exact Keeps.refl _

theorem execDerive_keeps {slot : SlotNo} {parent : SlotNo} {cyc : Cyc} {s : State} :
    KeepsX (mask [.cycle, .sched, .rep, .vault, .kindle, .msix, .officer, .fresh, .out, .page .dev,
        .page .kvt]) s (execDerive slot parent cyc s) := by
  unfold execDerive
  refine KeepsX.done (by rfl) ?_
  refine Keeps.step State.vaultLand_keeps (by rfl) ?_
  refine Keeps.step State.at_keeps (by rfl) ?_
  exact Keeps.refl _

theorem execImportWrapped_keeps {slot : SlotNo} {kek : SlotNo} {cyc : Cyc} {s : State} :
    KeepsX (mask [.cycle, .sched, .rep, .vault, .kindle, .msix, .officer, .fresh, .out, .page .dev,
        .page .kvt]) s (execImportWrapped slot kek cyc s) := by
  unfold execImportWrapped
  refine KeepsX.done (by rfl) ?_
  refine Keeps.step State.vaultLand_keeps (by rfl) ?_
  refine Keeps.step State.at_keeps (by rfl) ?_
  exact Keeps.refl _

theorem execExportWrapped_keeps {slot : SlotNo} {kek : SlotNo} {cyc : Cyc} {s : State} :
    KeepsX (mask [.cycle, .sched, .rep, .vault, .kindle, .msix, .officer, .fresh, .out, .page .dev,
        .page .kvt]) s (execExportWrapped slot kek cyc s) := by
  unfold execExportWrapped
  refine KeepsX.done (by rfl) ?_
  refine Keeps.step State.vaultLand_keeps (by rfl) ?_
  refine Keeps.step State.at_keeps (by rfl) ?_
  exact Keeps.refl _

theorem execDelete_keeps {slot : SlotNo} {cyc : Cyc} {s : State} :
    KeepsX (mask [.cycle, .sched, .rep, .vault, .kindle, .msix, .officer, .fresh, .out, .page .dev,
        .page .kvt]) s (execDelete slot cyc s) := by
  unfold execDelete
  refine KeepsX.done (by rfl) ?_
  refine Keeps.step State.vaultLand_keeps (by rfl) ?_
  refine Keeps.step State.at_keeps (by rfl) ?_
  exact Keeps.refl _

theorem execAttest_keeps {slot : SlotNo} {cyc : Cyc} {s : State} :
    KeepsX (mask [.cycle, .sched, .rep, .vault, .kindle, .msix, .officer, .fresh, .out, .page .dev,
        .page .kvt]) s (execAttest slot cyc s) := by
  unfold execAttest
  refine KeepsX.done (by rfl) ?_
  refine Keeps.step State.vaultLand_keeps (by rfl) ?_
  refine Keeps.step State.at_keeps (by rfl) ?_
  exact Keeps.refl _

theorem execReadCert_keeps {cyc : Cyc} {s : State} :
    KeepsX (mask [.cycle, .sched, .rep, .vault, .kindle, .msix, .officer, .fresh, .out, .page .dev,
        .page .kvt]) s (execReadCert cyc s) := by
  unfold execReadCert
  refine KeepsX.done (by rfl) ?_
  refine Keeps.step State.vaultLand_keeps (by rfl) ?_
  refine Keeps.step State.at_keeps (by rfl) ?_
  exact Keeps.refl _

theorem execKcv_keeps {slot : SlotNo} {cyc : Cyc} {s : State} :
    KeepsX (mask [.cycle, .sched, .rep, .vault, .kindle, .msix, .officer, .fresh, .out, .page .dev,
        .page .kvt]) s (execKcv slot cyc s) := by
  unfold execKcv
  refine KeepsX.done (by rfl) ?_
  refine Keeps.step State.vaultLand_keeps (by rfl) ?_
  refine Keeps.step State.at_keeps (by rfl) ?_
  exact Keeps.refl _

theorem execEsRestart_keeps {pass : Bool} {cyc : Cyc} {s : State} :
    KeepsX (mask [.cycle, .sched, .rep, .vault, .kindle, .msix, .officer, .fresh, .out, .page .dev,
        .page .kvt]) s (execEsRestart pass cyc s) := by
  unfold execEsRestart
  refine KeepsX.done (by rfl) ?_
  refine Keeps.step State.vaultLand_keeps (by rfl) ?_
  refine Keeps.step State.at_keeps (by rfl) ?_
  exact Keeps.refl _

theorem execScrub_keeps {cyc : Cyc} {s : State} :
    KeepsX (mask [.cycle, .sched, .rep, .vault, .kindle, .msix, .officer, .fresh, .out, .page .dev,
        .page .kvt]) s (execScrub cyc s) := by
  unfold execScrub
  refine KeepsX.done (by rfl) ?_
  refine Keeps.step State.vaultLand_keeps (by rfl) ?_
  refine Keeps.step State.at_keeps (by rfl) ?_
  exact Keeps.refl _

theorem execIdentityGen_keeps {slot : SlotNo} {cyc : Cyc} {s : State} :
    KeepsX (mask [.cycle, .sched, .rep, .vault, .kindle, .msix, .officer, .fresh, .out, .page .dev,
        .page .kvt]) s (execIdentityGen slot cyc s) := by
  unfold execIdentityGen
  refine KeepsX.done (by rfl) ?_
  refine Keeps.step State.vaultLand_keeps (by rfl) ?_
  refine Keeps.step State.at_keeps (by rfl) ?_
  exact Keeps.refl _

theorem execImport_keeps {slot : SlotNo} {arg : Word} {uses : Word} {data : List Byte} {cyc : Cyc} {s : State} :
    KeepsX (mask [.cycle, .sched, .rep, .vault, .kindle, .msix, .officer, .fresh, .out, .page .dev,
        .page .kvt]) s (execImport slot arg uses data cyc s) := by
  unfold execImport
  refine KeepsX.done (by rfl) ?_
  refine Keeps.ite ?_ ?_
  · refine Keeps.step State.vaultOfficer_keeps (by rfl) ?_
    refine Keeps.step State.at_keeps (by rfl) ?_
    exact Keeps.refl _
  · refine Keeps.step State.vaultLand_keeps (by rfl) ?_
    refine Keeps.step State.at_keeps (by rfl) ?_
    exact Keeps.refl _

theorem execKvtUnknownOp_keeps {cyc : Cyc} {s : State} :
    KeepsX (mask [.cycle, .sched, .rep, .vault, .kindle, .msix, .officer, .fresh, .out, .page .dev,
        .page .kvt]) s (execKvtUnknownOp cyc s) := by
  unfold execKvtUnknownOp
  refine KeepsX.done (by rfl) ?_
  refine Keeps.step State.vaultLand_keeps (by rfl) ?_
  refine Keeps.step State.at_keeps (by rfl) ?_
  exact Keeps.refl _

theorem execUseReservation_keeps {v : SlotNo} {s : State} :
    KeepsX (mask [.sched, .rep, .vault, .kindle, .msix, .officer, .fresh, .out,
        .page .kvt]) s (execUseReservation v s) := by
  unfold execUseReservation
  refine KeepsX.done (by rfl) ?_
  split
  · exact Keeps.refl _
  · extract_lets x1 x2 x3 x4 x5
    have h1 : Keeps (mask [.sched, .rep, .vault, .kindle, .msix, .officer, .fresh, .out, .page .kvt]) s x2 := by
      unfold x2
      refine Keeps.step Keeps.set_vault (by rfl) ?_
      exact Keeps.refl _
    have h2 : Keeps (mask [.sched, .rep, .vault, .kindle, .msix, .officer, .fresh, .out, .page .kvt]) s x5 := by
      unfold x5
      refine Keeps.ite ?_ ?_
      · refine Keeps.step State.kvtEvent_keeps (by rfl) ?_
        refine Keeps.step State.count_keeps (by rfl) ?_
        assumption
      · refine Keeps.ite ?_ ?_
        · refine Keeps.step State.count_keeps (by rfl) ?_
          refine Keeps.step State.setSlot_keeps (by rfl) ?_
          assumption
        · assumption
    clear_value x5
    clear_value x2
    split
    · refine Keeps.ite ?_ ?_
      · refine Keeps.step State.vaultNext_keeps (by rfl) ?_
        refine Keeps.ite ?_ ?_
        · refine Keeps.step State.vaultEnd_keeps (by rfl) ?_
          assumption
        · refine Keeps.step State.vaultTake_keeps (by rfl) ?_
          assumption
      · assumption
    · assumption

theorem execOtpAdvance_keeps {target : Byte} {guard : Byte} {cyc : Cyc} {s : State} :
    KeepsX (mask [.cycle, .rep, .vault, .msix, .out, .page .dev,
        .page .kvt]) s (execOtpAdvance target guard cyc s) := by
  unfold execOtpAdvance
  refine KeepsX.done (by rfl) ?_
  refine State.gate_keeps ?_ ?_ ?_
  · exact rfl
  · intro u1
    refine Keeps.step State.landOtp_keeps (by rfl) ?_
    exact Keeps.refl _
  · refine Keeps.step State.at_keeps (by rfl) ?_
    exact Keeps.refl _

theorem execVaultCommitDone_keeps {s : State} :
    KeepsX (mask [.sched, .rep, .vault, .kindle, .msix, .officer, .fresh, .out,
        .page .kvt]) s (execVaultCommitDone s) := by
  unfold execVaultCommitDone
  refine KeepsX.done (by rfl) ?_
  split
  · split
    · refine Keeps.step State.vaultNext_keeps (by rfl) ?_
      refine Keeps.step State.commitDone_keeps (by rfl) ?_
      exact Keeps.refl _
    · exact Keeps.refl _
  · exact Keeps.refl _

theorem execScrubTimer_keeps {s : State} :
    KeepsX (mask [.sched, .rep, .vault, .msix, .out]) s (execScrubTimer s) := by
  unfold execScrubTimer
  extract_lets x1
  refine KeepsX.done (by rfl) ?_
  refine Keeps.onlyIf ?_ ?_
  · intro u1
    refine Keeps.step State.scrubSlots_keeps (by rfl) ?_
    exact Keeps.refl _
  · exact Keeps.refl _

theorem execOtpDone_keeps {s : State} :
    KeepsX (mask [.rep, .vault, .msix, .out, .page .kvt]) s (execOtpDone s) := by
  unfold execOtpDone
  refine KeepsX.done (by rfl) ?_
  split
  · refine Keeps.ite ?_ ?_
    · exact Keeps.refl _
    · extract_lets x1 x2 x3
      have h1 : Keeps (mask [.rep, .vault, .msix, .out, .page .kvt]) s x1 := by
        unfold x1
        refine Keeps.ite ?_ ?_
        · refine Keeps.step State.otpCut_keeps (by rfl) ?_
          exact Keeps.refl _
        · refine Keeps.step State.wr_keeps (by rfl) ?_
          exact Keeps.refl _
      have h2 : Keeps (mask [.rep, .vault, .msix, .out, .page .kvt]) s x2 := by
        unfold x2
        refine Keeps.step State.wr_keeps (by rfl) ?_
        assumption
      clear_value x2
      clear_value x1
      refine Keeps.step State.kvtEvent_keeps (by rfl) ?_
      refine Keeps.step Keeps.set_vault (by rfl) ?_
      assumption
  · exact Keeps.refl _

theorem execAttestTimeout_keeps {s : State} :
    KeepsX (mask [.sched, .rep, .vault, .kindle, .msix, .officer, .fresh, .out,
        .page .kvt]) s (execAttestTimeout s) := by
  unfold execAttestTimeout
  refine KeepsX.done (by rfl) ?_
  split
  · refine Keeps.ite ?_ ?_
    · refine Keeps.step State.vaultNext_keeps (by rfl) ?_
      refine Keeps.step State.vaultEnd_keeps (by rfl) ?_
      exact Keeps.refl _
    · exact Keeps.refl _
  · exact Keeps.refl _

end Sys2Proof.Machine
end

