-- ==== Sys2Proof/Laws/Assoc.lean ====
section
/-! SUPPORT. What the operations of Machine/Assoc.lean keep, and the parts of the state that they may change. -/

namespace Sys2Proof.Machine

open Sys2Proof

theorem State.abandonAsn_keeps {s : State} {a : Nat} :
    Keeps (mask [.assocs]) s (State.abandonAsn s a) := by
  unfold State.abandonAsn
  extract_lets x1 x2
  refine Keeps.ite ?_ ?_
  · refine Keeps.step State.setAsn_keeps (by rfl) ?_
    exact Keeps.refl _
  · exact Keeps.refl _

theorem State.asnEvent_keeps {s : State} {f : Fld} {a : Nat} :
    Keeps (mask [.rep]) s (State.asnEvent s f a) := by
  unfold State.asnEvent
  refine Keeps.step State.event_keeps (by rfl) ?_
  refine Keeps.step State.wrEvt_keeps (by rfl) ?_
  refine Keeps.step State.wrEvt_keeps (by rfl) ?_
  exact Keeps.refl _

theorem State.asnRefused_keeps {s : State} {a : Nat} :
    Keeps (mask [.rep]) s (State.asnRefused s a) := by
  unfold State.asnRefused
  refine Keeps.step State.count_keeps (by rfl) ?_
  refine Keeps.step State.asnEvent_keeps (by rfl) ?_
  exact Keeps.refl _

theorem State.softTest_keeps {s : State} {a : Nat} :
    Keeps (mask [.sched, .assocs]) s (State.softTest s a) := by
  unfold State.softTest
  extract_lets x1
  refine Keeps.ite ?_ ?_
  · refine Keeps.step State.schedule_keeps (by rfl) ?_
    refine Keeps.step State.setAsn_keeps (by rfl) ?_
    exact Keeps.refl _
  · exact Keeps.refl _

theorem State.kindleAsn_keeps {s : State} {op : Nat} {a : Nat} :
    Keeps (mask [.sched, .rep, .assocs, .vault]) s (State.kindleAsn s op a) := by
  unfold State.kindleAsn
  refine Keeps.ite ?_ ?_
  · refine Keeps.step State.asnRefused_keeps (by rfl) ?_
    exact Keeps.refl _
  · split
    · rename_i x1 e1
      have h1 : Keeps (mask [.sched, .rep, .assocs, .vault]) s x1 := KeepsP.of_eq e1 (by
          refine KeepsP.step State.takeUse_keeps (by rfl) ?_
          exact Keeps.refl _
        )
      clear e1
      refine Keeps.step State.modAsn_keeps (by rfl) ?_
      assumption
    · rename_i x1 e1
      have h1 : Keeps (mask [.sched, .rep, .assocs, .vault]) s x1 := KeepsP.of_eq e1 (by
          refine KeepsP.step State.takeUse_keeps (by rfl) ?_
          exact Keeps.refl _
        )
      clear e1
      extract_lets x2
      refine Keeps.step Keeps.set_sched (by rfl) ?_
      assumption
    · rename_i x1 e1
      have h1 : Keeps (mask [.sched, .rep, .assocs, .vault]) s x1 := KeepsP.of_eq e1 (by
          refine KeepsP.step State.takeUse_keeps (by rfl) ?_
          exact Keeps.refl _
        )
      clear e1
      refine Keeps.step State.asnRefused_keeps (by rfl) ?_
      assumption

theorem State.deadAsn_keeps {s : State} {a : Nat} {cause : Nat} :
    Keeps (mask [.rep, .assocs, .slices, .msix, .out, .page .hst, .page .slc]) s (State.deadAsn s a cause) := by
  unfold State.deadAsn
  refine Keeps.ite ?_ ?_
  · extract_lets x1
    have h1 : Keeps (mask [.rep, .assocs, .slices, .msix, .out, .page .hst, .page .slc]) s x1 := by
      unfold x1
      refine Keeps.step State.count_keeps (by rfl) ?_
      refine Keeps.step State.asnEvent_keeps (by rfl) ?_
      refine Keeps.step State.modAsn_keeps (by rfl) ?_
      exact Keeps.refl _
    clear_value x1
    refine Keeps.step State.tellDead_keeps (by rfl) ?_
    assumption
  · exact Keeps.refl _

theorem State.asnAct_keeps {s : State} {op : Nat} {a : Nat} {m3 : List Byte} {wait : Bool} :
    Keeps (mask [.sched, .rep, .assocs, .vault, .slices, .msix, .out, .page .hst, .page .slc,
        .page .asnw]) s (State.asnAct s op a m3 wait) := by
  unfold State.asnAct
  extract_lets x1
  refine Keeps.ite ?_ ?_
  · refine Keeps.step State.asnRefused_keeps (by rfl) ?_
    exact Keeps.refl _
  · split
    · refine Keeps.ite ?_ ?_
      · refine Keeps.step State.asnRefused_keeps (by rfl) ?_
        exact Keeps.refl _
      · refine Keeps.step State.softTest_keeps (by rfl) ?_
        refine Keeps.step State.setAsn_keeps (by rfl) ?_
        exact Keeps.refl _
    · refine Keeps.step State.kindleAsn_keeps (by rfl) ?_
      exact Keeps.refl _
    · refine Keeps.step State.setAsn_keeps (by rfl) ?_
      exact Keeps.refl _
    · refine Keeps.step State.deadAsn_keeps (by rfl) ?_
      exact Keeps.refl _
    · refine Keeps.ite ?_ ?_
      · refine Keeps.step State.wr_keeps (by rfl) ?_
        refine Keeps.step State.asnRefused_keeps (by rfl) ?_
        exact Keeps.refl _
      · refine Keeps.step State.kindleAsn_keeps (by rfl) ?_
        exact Keeps.refl _
    · refine Keeps.step State.setAsn_keeps (by rfl) ?_
      exact Keeps.refl _

theorem State.installIdle_keeps {s : State} {a : Nat} {key : BitVec 256} {salt : BitVec 96} {epoch : Nat} :
    Keeps (mask [.assocs]) s (State.installIdle s a key salt epoch) := by
  unfold State.installIdle
  extract_lets x1 x2 x3
  refine Keeps.step State.setAsn_keeps (by rfl) ?_
  exact Keeps.refl _

theorem State.setReading_keeps {s : State} {r : Option (List Byte)} : Keeps (mask [.assocs]) s (s.setReading r) where
  frame p hp := by cases p <;> first | exact absurd hp (by decide) | rfl | exact fun _ _ _ => rfl
  pending := rfl
  keys := fun h => h
  regs := id
  fresh := Nat.le_refl _
  out := List.prefix_refl _

theorem State.asnFinish_keeps {s : State} :
    Keeps (mask [.assocs, .page .asnw]) s (State.asnFinish s) := by
  unfold State.asnFinish
  split
  · refine Keeps.ite ?_ ?_
    · refine Keeps.step State.setReading_keeps (by rfl) ?_
      refine Keeps.step State.wrWords_keeps (by rfl) ?_
      exact Keeps.refl _
    · exact Keeps.refl _
  · exact Keeps.refl _

theorem State.asnLand_keeps {s : State} {op : Nat} {a : Nat} {cyc : Nat} :
    Keeps (mask [.sched, .rep, .assocs, .asnBusy, .page .dev, .page .asnw]) s (State.asnLand s op a cyc) := by
  unfold State.asnLand
  refine State.gate_keeps ?_ ?_ ?_
  · exact rfl
  · intro u1
    refine Keeps.ite ?_ ?_
    · refine Keeps.step State.wr_keeps (by rfl) ?_
      exact Keeps.refl _
    · extract_lets x1 x2 x3 x4 x5
      have h1 : Keeps (mask [.sched, .rep, .assocs, .asnBusy, .page .dev, .page .asnw]) u1 x1 := by
        unfold x1
        refine Keeps.step State.asnFinish_keeps (by rfl) ?_
        exact Keeps.refl _
      have h2 : Keeps (mask [.sched, .rep, .assocs, .asnBusy, .page .dev, .page .asnw]) u1 x4 := by
        unfold x4
        refine Keeps.step State.wr_keeps (by rfl) ?_
        assumption
      have h3 : Keeps (mask [.sched, .rep, .assocs, .asnBusy, .page .dev, .page .asnw]) u1 x5 := by
        unfold x5
        refine Keeps.step Keeps.set_asnBusy (by rfl) ?_
        assumption
      clear_value x5
      clear_value x4
      clear_value x1
      refine Keeps.ite ?_ ?_
      · refine Keeps.step State.setReading_keeps (by rfl) ?_
        assumption
      · refine Keeps.ite ?_ ?_
        · refine Keeps.step Keeps.set_sched (by rfl) ?_
          assumption
        · refine Keeps.step State.count_keeps (by rfl) ?_
          assumption
  · exact Keeps.refl _

theorem State.claim_keeps {s : State} {a : Nat} :
    Keeps (mask [.assocs, .pair]) s (State.claim s a) := by
  unfold State.claim
  extract_lets x1 x2 x3
  have h1 : Keeps (mask [.assocs, .pair]) s x2 := by
    unfold x2
    refine Keeps.step State.setAsn_keeps (by rfl) ?_
    exact Keeps.refl _
  clear_value x2
  refine Keeps.ite ?_ ?_
  · exact Keeps.refl _
  · refine Keeps.ite ?_ ?_
    · refine Keeps.step State.setAsn_keeps (by rfl) ?_
      exact Keeps.refl _
    · refine Keeps.step Keeps.set_pair (by rfl) ?_
      assumption

theorem State.assignPn_keeps {s : State} {a : Nat} :
    KeepsP (mask [.sched, .rep, .assocs, .pair]) s (State.assignPn s a) := by
  unfold State.assignPn
  extract_lets x1 x2 x3 x4 x5
  have h1 : Keeps (mask [.sched, .rep, .assocs, .pair]) s x3 := by
    unfold x3
    refine Keeps.ite ?_ ?_
    · refine Keeps.step State.claim_keeps (by rfl) ?_
      exact Keeps.refl _
    · exact Keeps.refl _
  have h2 : Keeps (mask [.sched, .rep, .assocs, .pair]) s x4 := by
    unfold x4
    refine Keeps.step State.softTest_keeps (by rfl) ?_
    refine Keeps.step State.modAsn_keeps (by rfl) ?_
    assumption
  have h3 : Keeps (mask [.sched, .rep, .assocs, .pair]) s x5 := by
    unfold x5
    refine Keeps.ite ?_ ?_
    · refine Keeps.step State.schedule_keeps (by rfl) ?_
      refine Keeps.step State.asnEvent_keeps (by rfl) ?_
      assumption
    · assumption
  clear_value x5
  clear_value x4
  clear_value x3
  refine KeepsP.mk ?_
  assumption

theorem State.autoRecover_keeps {s : State} {a : Nat} {wait : Bool} :
    Keeps (mask [.sched, .rep, .assocs, .vault]) s (State.autoRecover s a wait) := by
  unfold State.autoRecover
  extract_lets x1
  refine Keeps.ite ?_ ?_
  · split
    · rename_i x2 e1
      have h1 : Keeps (mask [.sched, .rep, .assocs, .vault]) s x2 := KeepsP.of_eq e1 (by
          refine KeepsP.step State.takeUse_keeps (by rfl) ?_
          exact Keeps.refl _
        )
      clear e1
      refine Keeps.step State.modAsn_keeps (by rfl) ?_
      assumption
    · rename_i x2 y0 y1 e1
      have h1 : Keeps (mask [.sched, .rep, .assocs, .vault]) s x2 := KeepsP.of_eq e1 (by
          refine KeepsP.step State.takeUse_keeps (by rfl) ?_
          exact Keeps.refl _
        )
      clear e1
      assumption
  · exact Keeps.refl _

theorem State.drainAsn_keeps {s : State} {a : Nat} :
    Keeps (mask [.assocs]) s (State.drainAsn s a) := by
  unfold State.drainAsn
  extract_lets x1
  split
  · refine Keeps.ite ?_ ?_
    · refine Keeps.step State.setAsn_keeps (by rfl) ?_
      exact Keeps.refl _
    · exact Keeps.refl _
  · exact Keeps.refl _

theorem State.installFirst_keeps {s : State} {a : Nat} {key : BitVec 256} {salt : BitVec 96} {epoch : Nat} :
    Keeps (mask [.sched, .assocs]) s (State.installFirst s a key salt epoch) := by
  unfold State.installFirst
  extract_lets x1
  refine Keeps.step State.softTest_keeps (by rfl) ?_
  refine Keeps.step State.setAsn_keeps (by rfl) ?_
  exact Keeps.refl _

theorem State.overlapAsn_keeps {s : State} {a : Nat} :
    Keeps (mask [.assocs]) s (State.overlapAsn s a) := by
  unfold State.overlapAsn
  extract_lets x1 x2
  split
  · refine Keeps.ite ?_ ?_
    · refine Keeps.step State.setAsn_keeps (by rfl) ?_
      exact Keeps.refl _
    · exact Keeps.refl _
  · exact Keeps.refl _

theorem State.switchAsn_keeps {s : State} {a : Nat} {overlap : Nat} :
    Keeps (mask [.sched, .assocs]) s (State.switchAsn s a overlap) := by
  unfold State.switchAsn
  extract_lets x1
  refine Keeps.ite ?_ ?_
  · refine Keeps.step State.softTest_keeps (by rfl) ?_
    refine Keeps.step State.setAsn_keeps (by rfl) ?_
    exact Keeps.refl _
  · exact Keeps.refl _

theorem execAsnRead_keeps {a : AssocNo} {cyc : Cyc} {s : State} :
    KeepsX (mask [.cycle, .sched, .rep, .assocs, .msix, .asnBusy, .out, .page .dev,
        .page .asnw]) s (execAsnRead a cyc s) := by
  unfold execAsnRead
  refine KeepsX.done (by rfl) ?_
  refine Keeps.step State.asnLand_keeps (by rfl) ?_
  refine Keeps.step State.at_keeps (by rfl) ?_
  exact Keeps.refl _

theorem execWriteCfg_keeps {a : AssocNo} {cyc : Cyc} {s : State} :
    KeepsX (mask [.cycle, .sched, .rep, .assocs, .msix, .asnBusy, .out, .page .dev,
        .page .asnw]) s (execWriteCfg a cyc s) := by
  unfold execWriteCfg
  refine KeepsX.done (by rfl) ?_
  refine Keeps.step State.asnLand_keeps (by rfl) ?_
  refine Keeps.step State.at_keeps (by rfl) ?_
  exact Keeps.refl _

theorem execStart_keeps {a : AssocNo} {cyc : Cyc} {s : State} :
    KeepsX (mask [.cycle, .sched, .rep, .assocs, .msix, .asnBusy, .out, .page .dev,
        .page .asnw]) s (execStart a cyc s) := by
  unfold execStart
  refine KeepsX.done (by rfl) ?_
  refine Keeps.step State.asnLand_keeps (by rfl) ?_
  refine Keeps.step State.at_keeps (by rfl) ?_
  exact Keeps.refl _

theorem execStop_keeps {a : AssocNo} {cyc : Cyc} {s : State} :
    KeepsX (mask [.cycle, .sched, .rep, .assocs, .msix, .asnBusy, .out, .page .dev,
        .page .asnw]) s (execStop a cyc s) := by
  unfold execStop
  refine KeepsX.done (by rfl) ?_
  refine Keeps.step State.asnLand_keeps (by rfl) ?_
  refine Keeps.step State.at_keeps (by rfl) ?_
  exact Keeps.refl _

theorem execKill_keeps {a : AssocNo} {cyc : Cyc} {s : State} :
    KeepsX (mask [.cycle, .sched, .rep, .assocs, .msix, .asnBusy, .out, .page .dev,
        .page .asnw]) s (execKill a cyc s) := by
  unfold execKill
  refine KeepsX.done (by rfl) ?_
  refine Keeps.step State.asnLand_keeps (by rfl) ?_
  refine Keeps.step State.at_keeps (by rfl) ?_
  exact Keeps.refl _

theorem execRestart_keeps {a : AssocNo} {cyc : Cyc} {s : State} :
    KeepsX (mask [.cycle, .sched, .rep, .assocs, .msix, .asnBusy, .out, .page .dev,
        .page .asnw]) s (execRestart a cyc s) := by
  unfold execRestart
  refine KeepsX.done (by rfl) ?_
  refine Keeps.step State.asnLand_keeps (by rfl) ?_
  refine Keeps.step State.at_keeps (by rfl) ?_
  exact Keeps.refl _

theorem execRelease_keeps {a : AssocNo} {cyc : Cyc} {s : State} :
    KeepsX (mask [.cycle, .sched, .rep, .assocs, .msix, .asnBusy, .out, .page .dev,
        .page .asnw]) s (execRelease a cyc s) := by
  unfold execRelease
  refine KeepsX.done (by rfl) ?_
  refine Keeps.step State.asnLand_keeps (by rfl) ?_
  refine Keeps.step State.at_keeps (by rfl) ?_
  exact Keeps.refl _

theorem execAsnUnknownOp_keeps {a : AssocNo} {cyc : Cyc} {s : State} :
    KeepsX (mask [.cycle, .sched, .rep, .assocs, .msix, .asnBusy, .out, .page .dev,
        .page .asnw]) s (execAsnUnknownOp a cyc s) := by
  unfold execAsnUnknownOp
  refine KeepsX.done (by rfl) ?_
  refine Keeps.step State.asnLand_keeps (by rfl) ?_
  refine Keeps.step State.at_keeps (by rfl) ?_
  exact Keeps.refl _

theorem execDrainEnd_keeps {a : AssocNo} {s : State} :
    KeepsX (mask [.rep, .assocs, .msix, .out]) s (execDrainEnd a s) := by
  unfold execDrainEnd
  refine KeepsX.done (by rfl) ?_
  refine Keeps.step State.drainAsn_keeps (by rfl) ?_
  exact Keeps.refl _

/-- Every entry of the table changed: whatever the change, the table settles it. -/
theorem Keeps.mapAll {s : State} {t : AsnTable} {f : Assoc → Assoc} {x : Power} :
    Keeps (mask [.pwr, .assocs]) s { s with assocs := t.mapAll f, pwr := x } where
  frame p hp := by cases p <;> first | exact absurd hp (by decide) | rfl | exact fun _ _ _ => rfl
  pending := rfl
  keys := fun _ => AsnTable.mapAll_settled _ _
  regs := id
  fresh := Nat.le_refl _
  out := List.prefix_refl _

theorem State.quenchAsn_keeps {s : State} : Keeps (mask [.pwr, .assocs, .page .asn]) s s.quenchAsn :=
  Keeps.step Keeps.mapAll rfl (Keeps.step State.wr_keeps rfl (Keeps.refl _))

theorem State.sweepDone_keeps {s : State} : Keeps (mask [.pwr, .assocs, .page .asn]) s s.sweepDone :=
  Keeps.step Keeps.mapAll rfl (Keeps.step State.wr_keeps rfl (Keeps.refl _))

end Sys2Proof.Machine
end

