-- ==== Sys2Proof/Laws/Forwarding.lean ====
section
/-! SUPPORT. What the operations of Machine/Forwarding.lean keep, and the parts of the state that they may change. -/

namespace Sys2Proof.Machine

open Sys2Proof

theorem State.applyDomain_keeps {s : State} {d : Nat} {x : Domain} :
    Keeps (mask [.fwd, .page .fwd]) s (State.applyDomain s d x) := by
  unfold State.applyDomain
  extract_lets x1 x2
  have h1 : Keeps (mask [.fwd, .page .fwd]) s x1 := by
    unfold x1
    refine Keeps.onlyIf ?_ ?_
    · intro u1
      refine Keeps.step State.wr_keeps (by rfl) ?_
      exact Keeps.refl _
    · exact Keeps.refl _
  clear_value x1
  refine Keeps.step Keeps.set_fwd (by rfl) ?_
  assumption

theorem State.fwdSet_keeps {s : State} {i : Nat} {e : Option FwdEnt} :
    Keeps (mask [.fwd]) s (State.fwdSet s i e) := by
  unfold State.fwdSet
  refine Keeps.step Keeps.set_fwd (by rfl) ?_
  exact Keeps.refl _

theorem State.lrcInvalidate_keeps {s : State} {domain : Nat} {mac : Nat} :
    Keeps (mask [.rep, .fwd]) s (State.lrcInvalidate s domain mac) := by
  unfold State.lrcInvalidate
  extract_lets x1 x2 x3
  refine Keeps.forL ?_ ?_
  · intro b1 u1
    refine Keeps.step State.count_keeps (by rfl) ?_
    exact Keeps.refl _
  · refine Keeps.step Keeps.set_fwd (by rfl) ?_
    exact Keeps.refl _

theorem State.fwdPut_keeps {s : State} {i : Nat} {e : Option FwdEnt} :
    Keeps (mask [.rep, .fwd]) s (State.fwdPut s i e) := by
  unfold State.fwdPut
  refine Keeps.step State.fwdSet_keeps (by rfl) ?_
  split
  · refine Keeps.step State.lrcInvalidate_keeps (by rfl) ?_
    exact Keeps.refl _
  · exact Keeps.refl _

theorem State.ageEntry_keeps {i : Nat} {s : State} :
    Keeps (mask [.rep, .fwd]) s (State.ageEntry i s) := by
  unfold State.ageEntry
  split
  · exact Keeps.refl _
  · extract_lets x1 x2
    refine Keeps.ite ?_ ?_
    · exact Keeps.refl _
    · refine Keeps.ite ?_ ?_
      · refine Keeps.step State.fwdSet_keeps (by rfl) ?_
        exact Keeps.refl _
      · refine Keeps.ite ?_ ?_
        · refine Keeps.step State.count_keeps (by rfl) ?_
          refine Keeps.step State.fwdPut_keeps (by rfl) ?_
          exact Keeps.refl _
        · refine Keeps.step State.fwdSet_keeps (by rfl) ?_
          exact Keeps.refl _

theorem State.ageAll_keeps {s : State} :
    Keeps (mask [.rep, .fwd]) s (State.ageAll s) := by
  unfold State.ageAll
  refine Keeps.ite ?_ ?_
  · extract_lets x1 x2
    have h1 : Keeps (mask [.rep, .fwd]) s x1 := by
      unfold x1
      refine Keeps.forL ?_ ?_
      · intro b1 u1
        refine Keeps.step State.ageEntry_keeps (by rfl) ?_
        exact Keeps.refl _
      · exact Keeps.refl _
    clear_value x1
    refine Keeps.step Keeps.set_fwd (by rfl) ?_
    assumption
  · exact Keeps.refl _

theorem State.ageOutDead_keeps {pre : AsnTable} {s : State} :
    Keeps (mask [.rep, .fwd]) s (State.ageOutDead pre s) := by
  unfold State.ageOutDead
  refine Keeps.forL ?_ ?_
  · intro b1 u1
    split
    · refine Keeps.ite ?_ ?_
      · refine Keeps.step State.count_keeps (by rfl) ?_
        refine Keeps.step State.fwdPut_keeps (by rfl) ?_
        exact Keeps.refl _
      · exact Keeps.refl _
    · exact Keeps.refl _
  · exact Keeps.refl _

theorem State.lrcInsert_keeps {s : State} {c : Nat} {e : FwdEnt} :
    Keeps (mask [.rep, .fwd, .page .lrc]) s (State.lrcInsert s c e) := by
  unfold State.lrcInsert
  split
  · refine Keeps.step Keeps.set_fwd (by rfl) ?_
    exact Keeps.refl _
  · extract_lets x1
    have h1 : Keeps (mask [.rep, .fwd, .page .lrc]) s x1 := by
      unfold x1
      refine Keeps.step State.bumpReg_keeps (by rfl) ?_
      refine Keeps.step State.count_keeps (by rfl) ?_
      exact Keeps.refl _
    clear_value x1
    refine Keeps.ite ?_ ?_
    · assumption
    · refine Keeps.step State.irq_keeps (by rfl) ?_
      refine Keeps.step State.raiseBit_keeps (by rfl) ?_
      refine Keeps.step State.wr_keeps (by rfl) ?_
      assumption

theorem State.classify_keeps {s : State} {v : State} {p : Nat} {bs : List Byte} :
    KeepsP (mask [.rep, .fwd, .page .lrc]) s (State.classify s v p bs) := by
  unfold State.classify
  extract_lets x1 x2 x3 x4 x5 x6
  have h1 : KeepsP (mask [.rep, .fwd, .page .lrc]) s x1 := by
    unfold x1
    refine KeepsP.mk ?_
    refine Keeps.step State.count_keeps (by rfl) ?_
    exact Keeps.refl _
  have h2 : Keeps (mask [.rep, .fwd, .page .lrc]) s x5 := by
    unfold x5
    refine Keeps.ite ?_ ?_
    · refine Keeps.step State.count_keeps (by rfl) ?_
      exact Keeps.refl _
    · refine Keeps.step State.count_keeps (by rfl) ?_
      exact Keeps.refl _
  have h3 : Keeps (mask [.rep, .fwd, .page .lrc]) s x6 := by
    unfold x6
    refine Keeps.onlyIf ?_ ?_
    · intro u1
      refine Keeps.step State.count_keeps (by rfl) ?_
      exact Keeps.refl _
    · assumption
  clear_value x6
  clear_value x5
  clear_value x1
  split
  · refine KeepsP.mk ?_
    exact Keeps.refl _
  · split
    · assumption
    · extract_lets x7
      refine KeepsP.ite ?_ ?_
      · refine KeepsP.mk ?_
        refine Keeps.step State.count_keeps (by rfl) ?_
        exact Keeps.refl _
      · split
        · refine KeepsP.mk ?_
          refine Keeps.step State.count_keeps (by rfl) ?_
          assumption
        · split
          · refine KeepsP.mk ?_
            refine Keeps.onlyIf ?_ ?_
            · intro u1
              refine Keeps.step State.lrcInsert_keeps (by rfl) ?_
              exact Keeps.refl _
            · assumption
          · refine KeepsP.ite ?_ ?_
            · refine KeepsP.mk ?_
              refine Keeps.step State.count_keeps (by rfl) ?_
              assumption
            · refine KeepsP.mk ?_
              refine Keeps.step State.count_keeps (by rfl) ?_
              assumption
  · assumption

theorem State.keepTables_keeps {s : State} :
    Keeps (mask [.fwd]) s (State.keepTables s) := by
  unfold State.keepTables
  extract_lets x1 x2
  refine Keeps.step Keeps.set_fwd (by rfl) ?_
  exact Keeps.refl _

theorem State.fwdResult_keeps {s : State} {r : Nat} :
    Keeps (mask [.page .fwdw]) s (State.fwdResult s r) := by
  unfold State.fwdResult
  refine Keeps.step State.wr_keeps (by rfl) ?_
  refine Keeps.step State.wr_keeps (by rfl) ?_
  exact Keeps.refl _

theorem State.fwdReturn_keeps {s : State} {e : Option FwdEnt} :
    Keeps (mask [.page .fwdw]) s (State.fwdReturn s e) := by
  unfold State.fwdReturn
  split
  · refine Keeps.step State.wr_keeps (by rfl) ?_
    refine Keeps.step State.wr_keeps (by rfl) ?_
    refine Keeps.step State.wr_keeps (by rfl) ?_
    refine Keeps.step State.wr_keeps (by rfl) ?_
    refine Keeps.step State.wr_keeps (by rfl) ?_
    exact Keeps.refl _
  · refine Keeps.step State.wr_keeps (by rfl) ?_
    exact Keeps.refl _

theorem State.fwdNextAt_keeps {s : State} {cursor : Nat} :
    Keeps (mask [.page .fwdw]) s (State.fwdNextAt s cursor) := by
  unfold State.fwdNextAt
  extract_lets x1 x2
  split
  · refine Keeps.step State.fwdResult_keeps (by rfl) ?_
    refine Keeps.step State.wr_keeps (by rfl) ?_
    refine Keeps.step State.wr_keeps (by rfl) ?_
    refine Keeps.step State.wr_keeps (by rfl) ?_
    refine Keeps.step State.wr_keeps (by rfl) ?_
    refine Keeps.step State.fwdReturn_keeps (by rfl) ?_
    exact Keeps.refl _
  · refine Keeps.step State.fwdResult_keeps (by rfl) ?_
    refine Keeps.step State.wr_keeps (by rfl) ?_
    refine Keeps.step State.fwdReturn_keeps (by rfl) ?_
    exact Keeps.refl _

theorem State.fwdInsert_keeps {s : State} {e : FwdEnt} :
    KeepsP (mask [.rep, .fwd, .fresh]) s (State.fwdInsert s e) := by
  unfold State.fwdInsert
  split
  · refine KeepsP.mk ?_
    refine Keeps.step State.fwdPut_keeps (by rfl) ?_
    exact Keeps.refl _
  · split
    · refine KeepsP.mk ?_
      refine Keeps.step State.fwdPut_keeps (by rfl) ?_
      exact Keeps.refl _
    · split
      · extract_lets x1
        refine KeepsP.mk ?_
        refine Keeps.step State.count_keeps (by rfl) ?_
        refine Keeps.step State.fwdPut_keeps (by rfl) ?_
        refine Keeps.step State.burn_keeps (by rfl) ?_
        exact Keeps.refl _
      · refine KeepsP.mk ?_
        refine Keeps.step State.count_keeps (by rfl) ?_
        exact Keeps.refl _

theorem State.fwdFlush_keeps {s : State} {port : Nat} {all : Bool} :
    Keeps (mask [.rep, .fwd, .page .fwdw]) s (State.fwdFlush s port all) := by
  unfold State.fwdFlush
  extract_lets x1
  refine Keeps.step State.fwdResult_keeps (by rfl) ?_
  refine Keeps.step State.wr_keeps (by rfl) ?_
  refine Keeps.forL ?_ ?_
  · intro b1 u1
    refine Keeps.step State.fwdPut_keeps (by rfl) ?_
    exact Keeps.refl _
  · exact Keeps.refl _

theorem State.fwdComplete_keeps {s : State} {c : FwdCmd} :
    Keeps (mask [.rep, .fwd, .fresh, .page .fwdw]) s (State.fwdComplete s c) := by
  unfold State.fwdComplete
  extract_lets x1 x2 x3 x4 x5
  have h1 : Keeps (mask [.rep, .fwd, .fresh, .page .fwdw]) s x2 := by
    unfold x2
    refine Keeps.step Keeps.set_fwd (by rfl) ?_
    exact Keeps.refl _
  have h2 : Keeps (mask [.rep, .fwd, .fresh, .page .fwdw]) s x4 := by
    unfold x4
    refine Keeps.step State.wr_keeps (by rfl) ?_
    refine Keeps.step State.wr_keeps (by rfl) ?_
    refine Keeps.step State.wr_keeps (by rfl) ?_
    refine Keeps.step State.wr_keeps (by rfl) ?_
    assumption
  have h3 : Keeps (mask [.rep, .fwd, .fresh, .page .fwdw]) s x5 := by
    unfold x5
    refine Keeps.step State.wr_keeps (by rfl) ?_
    refine Keeps.step State.wr_keeps (by rfl) ?_
    refine Keeps.step State.wr_keeps (by rfl) ?_
    assumption
  clear_value x5
  clear_value x4
  clear_value x2
  split
  · split
    · refine Keeps.step State.fwdResult_keeps (by rfl) ?_
      refine Keeps.step State.fwdReturn_keeps (by rfl) ?_
      assumption
    · refine Keeps.step State.fwdResult_keeps (by rfl) ?_
      refine Keeps.step State.fwdReturn_keeps (by rfl) ?_
      assumption
  · refine Keeps.step State.fwdNextAt_keeps (by rfl) ?_
    assumption
  · split
    rename_i x6 y0 e1
    have h4 : Keeps (mask [.rep, .fwd, .fresh, .page .fwdw]) s x6 := KeepsP.of_eq e1 (by
        refine KeepsP.step State.fwdInsert_keeps (by rfl) ?_
        assumption
      )
    clear e1
    refine Keeps.step State.fwdResult_keeps (by rfl) ?_
    assumption
  · split
    · refine Keeps.step State.fwdResult_keeps (by rfl) ?_
      refine Keeps.step State.fwdPut_keeps (by rfl) ?_
      assumption
    · refine Keeps.step State.fwdResult_keeps (by rfl) ?_
      assumption
  · refine Keeps.step State.fwdFlush_keeps (by rfl) ?_
    assumption
  · refine Keeps.step State.fwdResult_keeps (by rfl) ?_
    refine Keeps.step State.wr_keeps (by rfl) ?_
    assumption
  · refine Keeps.step State.fwdResult_keeps (by rfl) ?_
    assumption

theorem State.fwdLand_keeps {m : Nat} {z : State} {s : State} {f : State → State} (hc : Covers m (mask [.page .dev,
    .page .fwdw]))
    (hf : ∀ u, Keeps m u (f u)) (h : Keeps m z s) :
    Keeps m z (State.fwdLand s f) := by
  unfold State.fwdLand
  refine Keeps.trans h ?_
  refine State.gate_keeps ?_ ?_ ?_
  · exact hc.trans (n := mask [.page .dev, .page .fwdw]) (rfl)
  · intro u1
    refine Keeps.ite ?_ ?_
    · with_reducible refine Keeps.step State.wr_keeps ?_ ?_
      · exact hc.trans (n := mask [.page .dev, .page .fwdw]) (rfl)
      exact Keeps.refl _
    · refine Keeps.step (hf ..) (Nat.or_self _) ?_
      exact Keeps.refl _
  · exact Keeps.refl _

theorem State.fwdStart_keeps {s : State} {c : FwdCmd} :
    Keeps (mask [.fwd, .page .fwdw]) s (State.fwdStart s c) := by
  unfold State.fwdStart
  extract_lets x1 x2
  have h1 : Keeps (mask [.fwd, .page .fwdw]) s x1 := by
    unfold x1
    refine Keeps.step State.wr_keeps (by rfl) ?_
    exact Keeps.refl _
  clear_value x1
  refine Keeps.step Keeps.set_fwd (by rfl) ?_
  assumption

theorem State.fwdStartActive_keeps {s : State} {c : FwdCmd} :
    Keeps (mask [.fwd, .page .fwdw]) s (State.fwdStartActive s c) := by
  unfold State.fwdStartActive
  refine Keeps.ite ?_ ?_
  · refine Keeps.step State.fwdResult_keeps (by rfl) ?_
    exact Keeps.refl _
  · refine Keeps.step State.fwdStart_keeps (by rfl) ?_
    exact Keeps.refl _

theorem State.landDomain_keeps {s : State} {cyc : Nat} :
    Keeps (mask [.sched, .fwd, .page .fwdw]) s (State.landDomain s cyc) := by
  unfold State.landDomain
  extract_lets x1 x2
  have h1 : Keeps (mask [.sched, .fwd, .page .fwdw]) s x2 := by
    unfold x2
    refine Keeps.step Keeps.set_sched (by rfl) ?_
    exact Keeps.refl _
  clear_value x2
  refine Keeps.ite ?_ ?_
  · refine Keeps.step State.fwdResult_keeps (by rfl) ?_
    exact Keeps.refl _
  · refine Keeps.step State.fwdStart_keeps (by rfl) ?_
    refine Keeps.step State.schedule_keeps (by rfl) ?_
    assumption

theorem State.writeSlot_keeps {m : Nat} {z : State} {s : State} {b : Nat} {f : State → State} (hc : Covers m (mask
    [.rep, .fwd]))
    (hf : ∀ u, Keeps m u (f u)) (h : Keeps m z s) :
    Keeps m z (State.writeSlot s b f) := by
  unfold State.writeSlot
  refine Keeps.trans h ?_
  refine Keeps.ite ?_ ?_
  · with_reducible refine Keeps.step State.count_keeps ?_ ?_
    · exact hc.trans (n := mask [.rep, .fwd]) (rfl)
    exact Keeps.refl _
  · refine Keeps.step (hf ..) (Nat.or_self _) ?_
    with_reducible refine Keeps.step Keeps.set_fwd ?_ ?_
    · exact hc.trans (n := mask [.rep, .fwd]) (rfl)
    exact Keeps.refl _

theorem State.learn_keeps {s : State} {a : Nat} {bindTo : Option Nat} {sa : Nat} :
    Keeps (mask [.rep, .fwd, .fresh]) s (State.learn s a bindTo sa) := by
  unfold State.learn
  extract_lets x1 x2
  split
  · refine Keeps.step State.count_keeps (by rfl) ?_
    exact Keeps.refl _
  · refine Keeps.ite ?_ ?_
    · refine Keeps.step State.count_keeps (by rfl) ?_
      exact Keeps.refl _
    · split
      · split
        · refine Keeps.ite ?_ ?_
          · refine Keeps.step State.fwdSet_keeps (by rfl) ?_
            exact Keeps.refl _
          · refine Keeps.ite ?_ ?_
            · refine Keeps.step State.count_keeps (by rfl) ?_
              exact Keeps.refl _
            · refine State.writeSlot_keeps ?_ ?_ ?_
              · exact rfl
              · intro u1
                refine Keeps.step State.count_keeps (by rfl) ?_
                refine Keeps.step State.fwdPut_keeps (by rfl) ?_
                exact Keeps.refl _
              · exact Keeps.refl _
        · exact Keeps.refl _
      · refine State.writeSlot_keeps ?_ ?_ ?_
        · exact rfl
        · intro u1
          split
          rename_i x3 y0 e1
          have h1 : Keeps (mask [.rep, .fwd, .fresh]) u1 x3 := KeepsP.of_eq e1 (by
              refine KeepsP.step State.fwdInsert_keeps (by rfl) ?_
              exact Keeps.refl _
            )
          clear e1
          refine Keeps.ite ?_ ?_
          · assumption
          · refine Keeps.step State.count_keeps (by rfl) ?_
            assumption
        · exact Keeps.refl _

theorem State.lrcFlush_keeps {s : State} {c : Nat} :
    Keeps (mask [.fwd]) s (State.lrcFlush s c) := by
  unfold State.lrcFlush
  refine Keeps.step Keeps.set_fwd (by rfl) ?_
  exact Keeps.refl _

theorem State.lrcRehash_keeps {s : State} {c : Nat} :
    Keeps (mask [.fwd, .page .lrc]) s (State.lrcRehash s c) := by
  unfold State.lrcRehash
  refine Keeps.ite ?_ ?_
  · exact Keeps.refl _
  · extract_lets x1 x2 x3
    have h1 : Keeps (mask [.fwd, .page .lrc]) s x2 := by
      unfold x2
      refine Keeps.step State.wr_keeps (by rfl) ?_
      exact Keeps.refl _
    clear_value x2
    refine Keeps.step Keeps.set_fwd (by rfl) ?_
    assumption

theorem execFwdSearch_keeps {cyc : Cyc} {s : State} :
    KeepsX (mask [.cycle, .rep, .fwd, .msix, .out, .page .dev, .page .fwdw]) s (execFwdSearch cyc s) := by
  unfold execFwdSearch
  refine KeepsX.done (by rfl) ?_
  refine State.fwdLand_keeps ?_ ?_ ?_
  · exact rfl
  · intro u1
    refine Keeps.step State.fwdStart_keeps (by rfl) ?_
    exact Keeps.refl _
  · refine Keeps.step State.at_keeps (by rfl) ?_
    exact Keeps.refl _

theorem execFwdNext_keeps {cyc : Cyc} {s : State} :
    KeepsX (mask [.cycle, .rep, .fwd, .msix, .out, .page .dev, .page .fwdw]) s (execFwdNext cyc s) := by
  unfold execFwdNext
  refine KeepsX.done (by rfl) ?_
  refine State.fwdLand_keeps ?_ ?_ ?_
  · exact rfl
  · intro u1
    refine Keeps.step State.fwdStart_keeps (by rfl) ?_
    exact Keeps.refl _
  · refine Keeps.step State.at_keeps (by rfl) ?_
    exact Keeps.refl _

theorem execFwdInsert_keeps {cyc : Cyc} {s : State} :
    KeepsX (mask [.cycle, .rep, .fwd, .msix, .out, .page .dev, .page .fwdw]) s (execFwdInsert cyc s) := by
  unfold execFwdInsert
  refine KeepsX.done (by rfl) ?_
  refine State.fwdLand_keeps ?_ ?_ ?_
  · exact rfl
  · intro u1
    refine Keeps.step State.fwdStartActive_keeps (by rfl) ?_
    exact Keeps.refl _
  · refine Keeps.step State.at_keeps (by rfl) ?_
    exact Keeps.refl _

theorem execFwdDelete_keeps {cyc : Cyc} {s : State} :
    KeepsX (mask [.cycle, .rep, .fwd, .msix, .out, .page .dev, .page .fwdw]) s (execFwdDelete cyc s) := by
  unfold execFwdDelete
  refine KeepsX.done (by rfl) ?_
  refine State.fwdLand_keeps ?_ ?_ ?_
  · exact rfl
  · intro u1
    refine Keeps.step State.fwdStartActive_keeps (by rfl) ?_
    exact Keeps.refl _
  · refine Keeps.step State.at_keeps (by rfl) ?_
    exact Keeps.refl _

theorem execFlushByPort_keeps {port : Byte} {inclStatic : Bool} {cyc : Cyc} {s : State} :
    KeepsX (mask [.cycle, .rep, .fwd, .msix, .out, .page .dev,
        .page .fwdw]) s (execFlushByPort port inclStatic cyc s) := by
  unfold execFlushByPort
  refine KeepsX.done (by rfl) ?_
  refine State.fwdLand_keeps ?_ ?_ ?_
  · exact rfl
  · intro u1
    refine Keeps.step State.fwdStartActive_keeps (by rfl) ?_
    exact Keeps.refl _
  · refine Keeps.step State.at_keeps (by rfl) ?_
    exact Keeps.refl _

theorem execDomainRead_keeps {cyc : Cyc} {s : State} :
    KeepsX (mask [.cycle, .rep, .fwd, .msix, .out, .page .dev, .page .fwdw]) s (execDomainRead cyc s) := by
  unfold execDomainRead
  refine KeepsX.done (by rfl) ?_
  refine State.fwdLand_keeps ?_ ?_ ?_
  · exact rfl
  · intro u1
    refine Keeps.step State.fwdStart_keeps (by rfl) ?_
    exact Keeps.refl _
  · refine Keeps.step State.at_keeps (by rfl) ?_
    exact Keeps.refl _

theorem execDomainWrite_keeps {cyc : Cyc} {s : State} :
    KeepsX (mask [.cycle, .sched, .rep, .fwd, .msix, .out, .page .dev, .page .fwdw]) s (execDomainWrite cyc s) := by
  unfold execDomainWrite
  refine KeepsX.done (by rfl) ?_
  refine State.fwdLand_keeps ?_ ?_ ?_
  · exact rfl
  · intro u1
    refine Keeps.step State.landDomain_keeps (by rfl) ?_
    exact Keeps.refl _
  · refine Keeps.step State.at_keeps (by rfl) ?_
    exact Keeps.refl _

theorem execFwdUnknownOp_keeps {cyc : Cyc} {s : State} :
    KeepsX (mask [.cycle, .rep, .msix, .out, .page .dev, .page .fwdw]) s (execFwdUnknownOp cyc s) := by
  unfold execFwdUnknownOp
  refine KeepsX.done (by rfl) ?_
  refine State.fwdLand_keeps ?_ ?_ ?_
  · exact rfl
  · intro u1
    refine Keeps.step State.fwdResult_keeps (by rfl) ?_
    exact Keeps.refl _
  · refine Keeps.step State.at_keeps (by rfl) ?_
    exact Keeps.refl _

theorem execLrcRehash_keeps {c : ChimneyNo} {cyc : Cyc} {s : State} :
    KeepsX (mask [.cycle, .rep, .fwd, .msix, .out, .page .dev, .page .lrc]) s (execLrcRehash c cyc s) := by
  unfold execLrcRehash
  refine KeepsX.done (by rfl) ?_
  refine State.gate_keeps ?_ ?_ ?_
  · exact rfl
  · intro u1
    refine Keeps.step State.lrcRehash_keeps (by rfl) ?_
    exact Keeps.refl _
  · refine Keeps.step State.at_keeps (by rfl) ?_
    exact Keeps.refl _

theorem execLrcRehashDone_keeps {c : ChimneyNo} {s : State} :
    KeepsX (mask [.rep, .fwd, .msix, .out, .page .lrc]) s (execLrcRehashDone c s) := by
  unfold execLrcRehashDone
  refine KeepsX.done (by rfl) ?_
  refine Keeps.ite ?_ ?_
  · extract_lets x1 x2 x3 x4
    have h1 : Keeps (mask [.rep, .fwd, .msix, .out, .page .lrc]) s x3 := by
      unfold x3
      refine Keeps.step Keeps.set_fwd (by rfl) ?_
      exact Keeps.refl _
    have h2 : Keeps (mask [.rep, .fwd, .msix, .out, .page .lrc]) s x4 := by
      unfold x4
      refine Keeps.forL ?_ ?_
      · intro b1 u1
        split
        · refine Keeps.step Keeps.set_fwd (by rfl) ?_
          exact Keeps.refl _
        · refine Keeps.step State.count_keeps (by rfl) ?_
          exact Keeps.refl _
      · assumption
    clear_value x4
    clear_value x3
    refine Keeps.step State.wr_keeps (by rfl) ?_
    refine Keeps.step State.wr_keeps (by rfl) ?_
    assumption
  · exact Keeps.refl _

theorem execLrcFlush_keeps {c : ChimneyNo} {cyc : Cyc} {s : State} :
    KeepsX (mask [.cycle, .rep, .fwd, .msix, .out, .page .dev]) s (execLrcFlush c cyc s) := by
  unfold execLrcFlush
  refine KeepsX.done (by rfl) ?_
  refine State.gate_keeps ?_ ?_ ?_
  · exact rfl
  · intro u1
    refine Keeps.step State.lrcFlush_keeps (by rfl) ?_
    exact Keeps.refl _
  · refine Keeps.step State.at_keeps (by rfl) ?_
    exact Keeps.refl _

theorem execAgingEdge_keeps {s : State} :
    KeepsX (mask [.rep, .fwd, .msix, .out]) s (execAgingEdge s) := by
  unfold execAgingEdge
  refine KeepsX.done (by rfl) ?_
  refine Keeps.step State.ageAll_keeps (by rfl) ?_
  exact Keeps.refl _

theorem execFwdCmdComplete_keeps {s : State} :
    KeepsX (mask [.rep, .fwd, .msix, .fresh, .out, .page .fwdw]) s (execFwdCmdComplete s) := by
  unfold execFwdCmdComplete
  refine KeepsX.done (by rfl) ?_
  split
  · refine Keeps.step State.fwdComplete_keeps (by rfl) ?_
    exact Keeps.refl _
  · exact Keeps.refl _

end Sys2Proof.Machine
end

