-- ==== Sys2Proof/Laws/Hearth.lean ====
section
/-! SUPPORT. What the operations of Machine/Hearth.lean keep, and the parts of the state that they may change. -/

namespace Sys2Proof.Machine

open Sys2Proof

theorem State.macSend_keeps {s : State} {p : Nat} {bs : List Byte} {bad : Bool} :
    Keeps (mask [.rep, .ports, .out]) s (State.macSend s p bs bad) := by
  unfold State.macSend
  split
  extract_lets x1
  have h1 : Keeps (mask [.rep, .ports, .out]) s x1 := by
    unfold x1
    refine Keeps.step State.count_keeps (by rfl) ?_
    refine Keeps.step State.count_keeps (by rfl) ?_
    exact Keeps.refl _
  clear_value x1
  refine Keeps.step State.emit_keeps (by rfl) ?_
  refine Keeps.step State.modPort_keeps (by rfl) ?_
  assumption

theorem State.modHearth_keeps {s : State} {f : Hearth → Hearth} :
    Keeps (mask [.hearth]) s (State.modHearth s f) := by
  unfold State.modHearth
  refine Keeps.step Keeps.set_hearth (by rfl) ?_
  exact Keeps.refl _

theorem State.addQuantum_keeps {s : State} {k : Nat} :
    Keeps (mask [.hearth]) s (State.addQuantum s k) := by
  unfold State.addQuantum
  refine Keeps.step State.modHearth_keeps (by rfl) ?_
  exact Keeps.refl _

theorem State.hrtEvent_keeps {s : State} {f : Fld} {q : Nat} :
    Keeps (mask [.rep]) s (State.hrtEvent s f q) := by
  unfold State.hrtEvent
  refine Keeps.step State.event_keeps (by rfl) ?_
  refine Keeps.step State.wrEvt_keeps (by rfl) ?_
  refine Keeps.step State.wrEvt_keeps (by rfl) ?_
  exact Keeps.refl _

theorem State.admitQueue_keeps {s : State} {q : Nat} :
    KeepsP (mask [.rep]) s (State.admitQueue s q) := by
  unfold State.admitQueue
  extract_lets x1 x2 x3 x4 x5
  have h1 : ∀ u b1, KeepsP (mask [.rep]) u (x5 u b1) := by
    intro u b1
    unfold x5
    refine KeepsP.ite ?_ ?_
    · refine KeepsP.mk ?_
      exact Keeps.refl _
    · refine KeepsP.mk ?_
      refine Keeps.step State.count_keeps (by rfl) ?_
      exact Keeps.refl _
  clear_value x5
  refine KeepsP.ite ?_ ?_
  · refine KeepsP.mk ?_
    refine Keeps.step State.count_keeps (by rfl) ?_
    exact Keeps.refl _
  · refine KeepsP.ite ?_ ?_
    · refine KeepsP.mk ?_
      refine Keeps.step State.count_keeps (by rfl) ?_
      exact Keeps.refl _
    · refine KeepsP.ite ?_ ?_
      · refine KeepsP.ite ?_ ?_
        · refine KeepsP.mk ?_
          refine Keeps.step State.count_keeps (by rfl) ?_
          exact Keeps.refl _
        · refine KeepsP.ite ?_ ?_
          · refine KeepsP.step (h1 ..) (Nat.or_self _) ?_
            exact Keeps.refl _
          · refine KeepsP.mk ?_
            refine Keeps.step State.count_keeps (by rfl) ?_
            exact Keeps.refl _
      · refine KeepsP.ite ?_ ?_
        · refine KeepsP.step (h1 ..) (Nat.or_self _) ?_
          exact Keeps.refl _
        · refine KeepsP.ite ?_ ?_
          · refine KeepsP.ite ?_ ?_
            · refine KeepsP.step (h1 ..) (Nat.or_self _) ?_
              exact Keeps.refl _
            · refine KeepsP.mk ?_
              refine Keeps.step State.count_keeps (by rfl) ?_
              refine Keeps.step State.hrtEvent_keeps (by rfl) ?_
              exact Keeps.refl _
          · refine KeepsP.mk ?_
            refine Keeps.step State.count_keeps (by rfl) ?_
            exact Keeps.refl _

theorem State.emptied_keeps {s : State} {q : Nat} :
    Keeps (mask [.hearth]) s (State.emptied s q) := by
  unfold State.emptied
  extract_lets x1 x2 x3
  have h1 : ∀ b0 u, Keeps (mask [.hearth]) u (x2 b0 u) := by
    intro b0 u
    unfold x2
    refine Keeps.step State.modHearth_keeps (by rfl) ?_
    exact Keeps.refl _
  have h2 : Keeps (mask [.hearth]) s x3 := by
    unfold x3
    refine Keeps.onlyIf ?_ ?_
    · intro u1
      refine Keeps.step (h1 ..) (Nat.or_self _) ?_
      exact Keeps.refl _
    · exact Keeps.refl _
  clear_value x3
  clear_value x2
  refine Keeps.onlyIf ?_ ?_
  · intro u1
    refine Keeps.step (h1 ..) (Nat.or_self _) ?_
    exact Keeps.refl _
  · assumption

theorem State.flushQueues_keeps {s : State} {sel : Nat → Bool} {q : Nat} :
    Keeps (mask [.rep, .hearth]) s (State.flushQueues s sel q) := by
  unfold State.flushQueues
  extract_lets x1 x2 x3 x4 x5
  have h1 : Keeps (mask [.rep, .hearth]) s x4 := by
    unfold x4
    refine Keeps.step State.count_keeps (by rfl) ?_
    exact Keeps.refl _
  have h2 : Keeps (mask [.rep, .hearth]) s x5 := by
    unfold x5
    refine Keeps.step State.modHearth_keeps (by rfl) ?_
    assumption
  clear_value x5
  clear_value x4
  refine Keeps.forL ?_ ?_
  · intro b1 u1
    refine Keeps.step State.emptied_keeps (by rfl) ?_
    exact Keeps.refl _
  · assumption

theorem State.zeroCells_keeps {s : State} {n : Nat} :
    Keeps (mask [.hearth]) s (State.zeroCells s n) := by
  unfold State.zeroCells
  refine Keeps.onlyIf ?_ ?_
  · intro u1
    refine Keeps.step State.modHearth_keeps (by rfl) ?_
    exact Keeps.refl _
  · exact Keeps.refl _

theorem State.zeroStep_keeps {s : State} :
    Keeps (mask [.hearth]) s (State.zeroStep s) := by
  unfold State.zeroStep
  refine Keeps.step State.modHearth_keeps (by rfl) ?_
  exact Keeps.refl _

theorem State.chargePolicer_keeps {s : State} {q : Nat} {n : Nat} :
    Keeps (mask [.hearth]) s (State.chargePolicer s q n) := by
  unfold State.chargePolicer
  refine Keeps.ite ?_ ?_
  · exact Keeps.refl _
  · refine Keeps.step State.modHearth_keeps (by rfl) ?_
    exact Keeps.refl _

theorem State.pnCheck_keeps {s : State} {a : Nat} :
    KeepsP (mask [.rep]) s (State.pnCheck s a) := by
  unfold State.pnCheck
  extract_lets x1
  refine KeepsP.ite ?_ ?_
  · refine KeepsP.mk ?_
    refine Keeps.step State.count_keeps (by rfl) ?_
    exact Keeps.refl _
  · refine KeepsP.ite ?_ ?_
    · refine KeepsP.ite ?_ ?_
      · refine KeepsP.mk ?_
        refine Keeps.step State.count_keeps (by rfl) ?_
        exact Keeps.refl _
      · refine KeepsP.mk ?_
        refine Keeps.step State.asnEvent_keeps (by rfl) ?_
        refine Keeps.step State.count_keeps (by rfl) ?_
        exact Keeps.refl _
    · refine KeepsP.mk ?_
      exact Keeps.refl _

theorem State.storeFrame_keeps {s : State} {f : HFrame} {polBytes : Nat} :
    Keeps (mask [.rep, .hearth]) s (State.storeFrame s f polBytes) := by
  unfold State.storeFrame
  extract_lets x1 x2 x3
  have h1 : Keeps (mask [.rep, .hearth]) s x2 := by
    unfold x2
    refine Keeps.step State.count_keeps (by rfl) ?_
    refine Keeps.step State.count_keeps (by rfl) ?_
    refine Keeps.step State.chargePolicer_keeps (by rfl) ?_
    exact Keeps.refl _
  have h2 : Keeps (mask [.rep, .hearth]) s x3 := by
    unfold x3
    refine Keeps.onlyIf ?_ ?_
    · intro u1
      refine Keeps.step State.count_keeps (by rfl) ?_
      exact Keeps.refl _
    · assumption
  clear_value x3
  clear_value x2
  refine Keeps.step State.modHearth_keeps (by rfl) ?_
  assumption

theorem State.chargeNode_keeps {s : State} {k : Nat} {n : Nat} :
    Keeps (mask [.rep, .hearth]) s (State.chargeNode s k n) := by
  unfold State.chargeNode
  refine Keeps.ite ?_ ?_
  · exact Keeps.refl _
  · extract_lets x1 x2
    have h1 : Keeps (mask [.rep, .hearth]) s x2 := by
      unfold x2
      refine Keeps.step State.modHearth_keeps (by rfl) ?_
      exact Keeps.refl _
    clear_value x2
    refine Keeps.onlyIf ?_ ?_
    · intro u1
      refine Keeps.step State.count_keeps (by rfl) ?_
      exact Keeps.refl _
    · assumption

theorem drrRound_keeps {a0 : Nat} {a1 : List Child} {a2 : State} : KeepsO (mask [.hearth]) a2 (drrRound a0 a1 a2) := by
  induction a0 generalizing a1 a2 with
  | zero => exact KeepsO.nil
  | succ fuel ih =>
    cases a1 with
    | nil => exact KeepsO.nil
    | cons c cs =>
      unfold drrRound
      extract_lets d next t
      have ht : Keeps (mask [.hearth]) a2 t := by
        unfold t
        clear_value next
        split
        · exact State.modHearth_keeps
        · exact Keeps.refl _
      clear_value t
      exact KeepsO.ite (KeepsO.mk (Keeps.refl _)) (KeepsO.step ih rfl ht)

theorem State.pickChild_keeps {s : State} {parent : Nat} {cs : List Child} {prio : Nat} :
    KeepsO (mask [.hearth]) s (State.pickChild s parent cs prio) := by
  unfold State.pickChild
  extract_lets x1 x2 x3 x4
  have h1 : Keeps (mask [.hearth]) s x4 := by
    unfold x4
    split
    · refine Keeps.onlyIf ?_ ?_
      · intro u1
        refine Keeps.step State.addQuantum_keeps (by rfl) ?_
        exact Keeps.refl _
      · exact Keeps.refl _
    · exact Keeps.refl _
  clear_value x4
  split
  · rename_i x5 e1
    have h2 : Keeps (mask [.hearth]) s x5 := KeepsO.elim (e := e1) (by
        refine KeepsO.step drrRound_keeps (by rfl) ?_
        assumption
      )
    clear e1
    refine KeepsO.mk ?_
    refine Keeps.step State.modHearth_keeps (by rfl) ?_
    assumption
  · exact KeepsO.nil

theorem State.choose_keeps {s : State} {parent : Nat} {cs : List Child} :
    KeepsO (mask [.hearth]) s (State.choose s parent cs) := by
  unfold State.choose
  refine KeepsO.ite ?_ ?_
  · refine KeepsO.step State.pickChild_keeps (by rfl) ?_
    exact Keeps.refl _
  · refine KeepsO.step State.pickChild_keeps (by rfl) ?_
    exact Keeps.refl _

theorem State.creditCheck_keeps {s : State} {c : Nat} :
    KeepsP (mask [.rep]) s (State.creditCheck s c) := by
  unfold State.creditCheck
  refine KeepsP.ite ?_ ?_
  · refine KeepsP.mk ?_
    exact Keeps.refl _
  · refine KeepsP.mk ?_
    refine Keeps.step State.event_keeps (by rfl) ?_
    refine Keeps.step State.count_keeps (by rfl) ?_
    exact Keeps.refl _

theorem State.dropFrame_keeps {s : State} {id : Nat} :
    Keeps (mask [.hearth]) s (State.dropFrame s id) := by
  unfold State.dropFrame
  refine Keeps.step State.modHearth_keeps (by rfl) ?_
  exact Keeps.refl _

theorem State.refillNodes_keeps {s : State} :
    Keeps (mask [.rep, .hearth]) s (State.refillNodes s) := by
  unfold State.refillNodes
  extract_lets x1
  have h1 : Keeps (mask [.rep, .hearth]) s x1 := by
    unfold x1
    refine Keeps.forL ?_ ?_
    · intro b1 u1
      refine Keeps.ite ?_ ?_
      · exact Keeps.refl _
      · extract_lets x2 x3 x4
        have h1 : Keeps (mask [.rep, .hearth]) u1 x4 := by
          unfold x4
          refine Keeps.onlyIf ?_ ?_
          · intro u2
            refine Keeps.step State.count_keeps (by rfl) ?_
            exact Keeps.refl _
          · exact Keeps.refl _
        clear_value x4
        refine Keeps.step State.modHearth_keeps (by rfl) ?_
        assumption
    · exact Keeps.refl _
  clear_value x1
  refine Keeps.forL ?_ ?_
  · intro b1 u1
    refine Keeps.step State.modHearth_keeps (by rfl) ?_
    exact Keeps.refl _
  · assumption

theorem State.landFlush_keeps {s : State} {cyc : Nat} :
    Keeps (mask [.sched]) s (State.landFlush s cyc) := by
  unfold State.landFlush
  refine Keeps.step State.schedule_keeps (by rfl) ?_
  exact Keeps.refl _

theorem State.payDeficit_keeps {s : State} {key : Nat} {n : Nat} :
    Keeps (mask [.hearth]) s (State.payDeficit s key n) := by
  unfold State.payDeficit
  refine Keeps.step State.modHearth_keeps (by rfl) ?_
  exact Keeps.refl _

theorem State.pickFrame_keeps {s : State} {p : Nat} :
    KeepsO (mask [.hearth]) s (State.pickFrame s p) := by
  unfold State.pickFrame
  extract_lets x1 x2 x3
  refine KeepsO.ite ?_ ?_
  · exact KeepsO.nil
  · split
    · exact KeepsO.nil
    · rename_i x4 e1
      have h1 : Keeps (mask [.hearth]) s x4 := KeepsO.elim (e := e1) (by
          refine KeepsO.step State.choose_keeps (by rfl) ?_
          exact Keeps.refl _
        )
      clear e1
      extract_lets x5 x6
      split
      · rename_i x7 e1
        have h2 : Keeps (mask [.hearth]) s x7 := KeepsO.elim (e := e1) (by
            refine KeepsO.step State.choose_keeps (by rfl) ?_
            assumption
          )
        clear e1
        refine KeepsO.mk ?_
        assumption
      · exact KeepsO.nil

theorem State.putFrame_keeps {s : State} {f : HFrame} :
    Keeps (mask [.hearth]) s (State.putFrame s f) := by
  unfold State.putFrame
  refine Keeps.step State.modHearth_keeps (by rfl) ?_
  exact Keeps.refl _

theorem State.sentFrame_keeps {s : State} {f : HFrame} {p : Nat} :
    Keeps (mask [.rep, .hearth]) s (State.sentFrame s f p) := by
  unfold State.sentFrame
  extract_lets x1 x2 x3 x4 x5
  have h1 : Keeps (mask [.rep, .hearth]) s x4 := by
    unfold x4
    refine Keeps.step State.chargeNode_keeps (by rfl) ?_
    refine Keeps.step State.chargeNode_keeps (by rfl) ?_
    refine Keeps.step State.chargeNode_keeps (by rfl) ?_
    exact Keeps.refl _
  have h2 : Keeps (mask [.rep, .hearth]) s x5 := by
    unfold x5
    refine Keeps.step State.emptied_keeps (by rfl) ?_
    refine Keeps.step State.payDeficit_keeps (by rfl) ?_
    refine Keeps.step State.payDeficit_keeps (by rfl) ?_
    refine Keeps.step State.dropFrame_keeps (by rfl) ?_
    assumption
  clear_value x5
  clear_value x4
  refine Keeps.step State.count_keeps (by rfl) ?_
  refine Keeps.step State.count_keeps (by rfl) ?_
  assumption

theorem execPortFlush_keeps {p : PortNo} {s : State} :
    KeepsX (mask [.rep, .ports, .hearth, .msix, .out]) s (execPortFlush p s) := by
  unfold execPortFlush
  refine KeepsX.done (by rfl) ?_
  refine Keeps.onlyIf ?_ ?_
  · intro u1
    extract_lets x1
    have h1 : Keeps (mask [.rep, .ports, .hearth, .msix, .out]) u1 x1 := by
      unfold x1
      refine Keeps.step State.modPort_keeps (by rfl) ?_
      exact Keeps.refl _
    clear_value x1
    refine Keeps.step State.flushQueues_keeps (by rfl) ?_
    assumption
  · exact Keeps.refl _

theorem execQueueFlush_keeps {cyc : Cyc} {s : State} :
    KeepsX (mask [.cycle, .sched, .rep, .msix, .out, .page .dev]) s (execQueueFlush cyc s) := by
  unfold execQueueFlush
  refine KeepsX.done (by rfl) ?_
  refine State.gate_keeps ?_ ?_ ?_
  · exact rfl
  · intro u1
    refine Keeps.step State.landFlush_keeps (by rfl) ?_
    exact Keeps.refl _
  · refine Keeps.step State.at_keeps (by rfl) ?_
    exact Keeps.refl _

theorem execSpillMove_keeps {q : Fin 16384} {s : State} :
    KeepsX (mask [.rep, .hearth, .msix, .out]) s (execSpillMove q s) := by
  unfold execSpillMove
  refine KeepsX.done (by rfl) ?_
  split
  · extract_lets x1
    refine Keeps.ite ?_ ?_
    · refine Keeps.step State.modHearth_keeps (by rfl) ?_
      refine Keeps.step State.putFrame_keeps (by rfl) ?_
      exact Keeps.refl _
    · exact Keeps.refl _
  · exact Keeps.refl _

theorem execSpillFetch_keeps {q : Fin 16384} {s : State} :
    KeepsX (mask [.rep, .hearth, .msix, .out]) s (execSpillFetch q s) := by
  unfold execSpillFetch
  refine KeepsX.done (by rfl) ?_
  split
  · extract_lets x1
    refine Keeps.ite ?_ ?_
    · refine Keeps.step State.count_keeps (by rfl) ?_
      refine Keeps.step State.modHearth_keeps (by rfl) ?_
      refine Keeps.step State.putFrame_keeps (by rfl) ?_
      exact Keeps.refl _
    · exact Keeps.refl _
  · exact Keeps.refl _

theorem execFlushEnd_keeps {s : State} :
    KeepsX (mask [.rep, .hearth, .msix, .out]) s (execFlushEnd s) := by
  unfold execFlushEnd
  refine KeepsX.done (by rfl) ?_
  split
  · refine Keeps.ite ?_ ?_
    · refine Keeps.step State.hrtEvent_keeps (by rfl) ?_
      refine Keeps.step State.modHearth_keeps (by rfl) ?_
      exact Keeps.refl _
    · exact Keeps.refl _
  · exact Keeps.refl _

end Sys2Proof.Machine
end

