-- ==== Sys2Proof/Laws/Time.lean ====
section
/-! SUPPORT. What the operations of Machine/Time.lean keep, and the parts of the state that they may change. -/

namespace Sys2Proof.Machine

open Sys2Proof

theorem State.modTime_keeps {s : State} {f : Time → Time} :
    Keeps (mask [.time]) s (State.modTime s f) := by
  unfold State.modTime
  refine Keeps.step Keeps.set_time (by rfl) ?_
  exact Keeps.refl _

theorem State.stepTime_keeps {s : State} {ns : Nat} :
    Keeps (mask [.time]) s (State.stepTime s ns) := by
  unfold State.stepTime
  refine Keeps.step State.modTime_keeps (by rfl) ?_
  exact Keeps.refl _

theorem State.timeEdge_keeps {s : State} :
    Keeps (mask [.time]) s (State.timeEdge s) := by
  unfold State.timeEdge
  refine Keeps.step State.modTime_keeps (by rfl) ?_
  exact Keeps.refl _

theorem State.commitIncLo_keeps {s : State} {w : Word} :
    Keeps (mask [.time]) s (State.commitIncLo s w) := by
  unfold State.commitIncLo
  refine Keeps.step State.modTime_keeps (by rfl) ?_
  exact Keeps.refl _

theorem State.commitIncHi_keeps {s : State} {w : Word} :
    Keeps (mask [.rep, .time, .page .tsu]) s (State.commitIncHi s w) := by
  unfold State.commitIncHi
  extract_lets x1 x2
  have h1 : Keeps (mask [.rep, .time, .page .tsu]) s x2 := by
    unfold x2
    refine Keeps.step State.modTime_keeps (by rfl) ?_
    exact Keeps.refl _
  clear_value x2
  refine Keeps.ite ?_ ?_
  · refine Keeps.step State.wr_keeps (by rfl) ?_
    refine Keeps.step State.wr_keeps (by rfl) ?_
    assumption
  · refine Keeps.step State.event_keeps (by rfl) ?_
    assumption

theorem State.gateRead_keeps {m : Nat} {z : State} {s : State} {p : Page} {i : Nat} {f : State → State} (hc : Covers
    m (mask [.out]))
    (hf : ∀ u, Keeps m u (f u)) (h : Keeps m z s) :
    Keeps m z (State.gateRead s p i f) := by
  unfold State.gateRead
  refine Keeps.trans h ?_
  refine Keeps.ite ?_ ?_
  · refine Keeps.step (hf ..) (Nat.or_self _) ?_
    exact Keeps.refl _
  · with_reducible refine Keeps.step State.emit_keeps ?_ ?_
    · exact hc.trans (n := mask [.out]) (rfl)
    exact Keeps.refl _

theorem State.landIncHi_keeps {s : State} {hi : Word} {cyc : Nat} :
    Keeps (mask [.sched]) s (State.landIncHi s hi cyc) := by
  unfold State.landIncHi
  extract_lets x1
  refine Keeps.step State.putCopy_keeps (by rfl) ?_
  refine Keeps.step State.putCopy_keeps (by rfl) ?_
  exact Keeps.refl _

theorem State.landTimeStep_keeps {s : State} {step : Word} {cyc : Nat} :
    Keeps (mask [.sched]) s (State.landTimeStep s step cyc) := by
  unfold State.landTimeStep
  extract_lets x1 x2
  have h1 : Keeps (mask [.sched]) s x2 := by
    unfold x2
    refine Keeps.step Keeps.set_sched (by rfl) ?_
    exact Keeps.refl _
  clear_value x2
  refine Keeps.step State.schedule_keeps (by rfl) ?_
  assumption

theorem State.timeTick_keeps {s : State} :
    Keeps (mask [.time]) s (State.timeTick s) := by
  unfold State.timeTick
  extract_lets x1
  refine Keeps.step State.modTime_keeps (by rfl) ?_
  exact Keeps.refl _

theorem execIncWrite_keeps {hi : Word} {cyc : Cyc} {s : State} :
    KeepsX (mask [.cycle, .sched, .rep, .msix, .out, .page .dev]) s (execIncWrite hi cyc s) := by
  unfold execIncWrite
  refine KeepsX.done (by rfl) ?_
  refine State.gate_keeps ?_ ?_ ?_
  · exact rfl
  · intro u1
    refine Keeps.step State.landIncHi_keeps (by rfl) ?_
    exact Keeps.refl _
  · refine Keeps.step State.at_keeps (by rfl) ?_
    exact Keeps.refl _

theorem execTimeStep_keeps {step : Word} {cyc : Cyc} {s : State} :
    KeepsX (mask [.cycle, .sched, .rep, .msix, .out, .page .dev]) s (execTimeStep step cyc s) := by
  unfold execTimeStep
  refine KeepsX.done (by rfl) ?_
  refine State.gate_keeps ?_ ?_ ?_
  · exact rfl
  · intro u1
    refine Keeps.step State.landTimeStep_keeps (by rfl) ?_
    exact Keeps.refl _
  · refine Keeps.step State.at_keeps (by rfl) ?_
    exact Keeps.refl _

theorem execTimeRead_keeps {cyc : Cyc} {s : State} :
    KeepsX (mask [.cycle, .rep, .msix, .out, .page .tsu]) s (execTimeRead cyc s) := by
  unfold execTimeRead
  refine KeepsX.done (by rfl) ?_
  refine State.gateRead_keeps ?_ ?_ ?_
  · exact rfl
  · intro u1
    extract_lets x1
    have h1 : Keeps (mask [.cycle, .rep, .msix, .out, .page .tsu]) u1 x1 := by
      unfold x1
      refine Keeps.step State.wr_keeps (by rfl) ?_
      refine Keeps.step State.wr_keeps (by rfl) ?_
      exact Keeps.refl _
    clear_value x1
    refine Keeps.step State.emit_keeps (by rfl) ?_
    assumption
  · refine Keeps.step State.at_keeps (by rfl) ?_
    exact Keeps.refl _

theorem execEdgeTimeRead_keeps {cyc : Cyc} {s : State} :
    KeepsX (mask [.cycle, .rep, .msix, .out, .page .tsu]) s (execEdgeTimeRead cyc s) := by
  unfold execEdgeTimeRead
  refine KeepsX.done (by rfl) ?_
  refine State.gateRead_keeps ?_ ?_ ?_
  · exact rfl
  · intro u1
    refine Keeps.step State.emit_keeps (by rfl) ?_
    refine Keeps.step State.wr_keeps (by rfl) ?_
    exact Keeps.refl _
  · refine Keeps.step State.at_keeps (by rfl) ?_
    exact Keeps.refl _

theorem execPpsOut_keeps {cyc : Cyc} {s : State} :
    KeepsX (mask [.cycle, .rep, .time, .msix, .out, .page .tsu]) s (execPpsOut cyc s) := by
  unfold execPpsOut
  extract_lets x1 x2 x3 x4
  have h1 : Keeps (mask [.cycle, .rep, .time, .msix, .out, .page .tsu]) s x1 := by
    unfold x1
    refine Keeps.step State.at_keeps (by rfl) ?_
    exact Keeps.refl _
  have h2 : Keeps (mask [.cycle, .rep, .time, .msix, .out, .page .tsu]) s x4 := by
    unfold x4
    refine Keeps.step State.wr_keeps (by rfl) ?_
    refine Keeps.step State.modTime_keeps (by rfl) ?_
    assumption
  clear_value x4
  refine KeepsX.done (by rfl) ?_
  refine Keeps.ite ?_ ?_
  · refine Keeps.step State.count_keeps (by rfl) ?_
    refine Keeps.step State.event_keeps (by rfl) ?_
    assumption
  · assumption

theorem execPpsIn_keeps {falling : Bool} {ns : Nat} {cyc : Cyc} {s : State} :
    KeepsX (mask [.cycle, .rep, .time, .msix, .out]) s (execPpsIn falling ns cyc s) := by
  unfold execPpsIn
  extract_lets x1 x2 x3
  have h1 : Keeps (mask [.cycle, .rep, .time, .msix, .out]) s x1 := by
    unfold x1
    refine Keeps.step State.at_keeps (by rfl) ?_
    exact Keeps.refl _
  have h2 : Keeps (mask [.cycle, .rep, .time, .msix, .out]) s x3 := by
    unfold x3
    refine Keeps.step State.modTime_keeps (by rfl) ?_
    assumption
  clear_value x3
  clear_value x1
  refine KeepsX.done (by rfl) ?_
  refine Keeps.ite ?_ ?_
  · refine Keeps.step State.count_keeps (by rfl) ?_
    refine Keeps.step State.event_keeps (by rfl) ?_
    assumption
  · assumption

theorem execPpsInRead_keeps {cyc : Cyc} {s : State} :
    KeepsX (mask [.cycle, .rep, .msix, .out, .page .tsu]) s (execPpsInRead cyc s) := by
  unfold execPpsInRead
  refine KeepsX.done (by rfl) ?_
  refine State.gateRead_keeps ?_ ?_ ?_
  · exact rfl
  · intro u1
    refine Keeps.step State.emit_keeps (by rfl) ?_
    refine Keeps.step State.wr_keeps (by rfl) ?_
    refine Keeps.step State.wr_keeps (by rfl) ?_
    exact Keeps.refl _
  · refine Keeps.step State.at_keeps (by rfl) ?_
    exact Keeps.refl _

theorem execPpsOutPulseEnd_keeps {cyc : Cyc} {s : State} :
    KeepsX (mask [.cycle, .rep, .time, .msix, .out]) s (execPpsOutPulseEnd cyc s) := by
  unfold execPpsOutPulseEnd
  extract_lets x1 x2
  have h1 : Keeps (mask [.cycle, .rep, .time, .msix, .out]) s x1 := by
    unfold x1
    refine Keeps.step State.at_keeps (by rfl) ?_
    exact Keeps.refl _
  clear_value x1
  refine KeepsX.done (by rfl) ?_
  split
  · refine Keeps.ite ?_ ?_
    · refine Keeps.step State.modTime_keeps (by rfl) ?_
      assumption
    · assumption
  · assumption

end Sys2Proof.Machine
end

