-- ==== Sys2Proof/Laws/Traffic.lean ====
section
/-! SUPPORT. What the operations of Machine/Traffic.lean keep, and the parts of the state that they may change. -/

namespace Sys2Proof.Machine

open Sys2Proof

theorem State.ptpCount_keeps {s : State} {mode : Nat} {bs : List Byte} :
    Keeps (mask [.rep]) s (State.ptpCount s mode bs) := by
  unfold State.ptpCount
  refine Keeps.ite ?_ ?_
  · exact Keeps.refl _
  · refine Keeps.ite ?_ ?_
    · refine Keeps.step State.count_keeps (by rfl) ?_
      exact Keeps.refl _
    · refine Keeps.ite ?_ ?_
      · refine Keeps.step State.count_keeps (by rfl) ?_
        exact Keeps.refl _
      · exact Keeps.refl _

theorem State.bypass_keeps {s : State} {f : RxFrame} {i : Nat} :
    Keeps (mask [.rep, .hearth]) s (State.bypass s f i) := by
  unfold State.bypass
  extract_lets x1 x2
  refine Keeps.ite ?_ ?_
  · refine Keeps.step State.count_keeps (by rfl) ?_
    exact Keeps.refl _
  · refine Keeps.ite ?_ ?_
    · exact Keeps.refl _
    · split
      · rename_i x3 e1
        have h1 : Keeps (mask [.rep, .hearth]) s x3 := KeepsP.of_eq e1 (by
            refine KeepsP.step State.admitQueue_keeps (by rfl) ?_
            exact Keeps.refl _
          )
        clear e1
        assumption
      · rename_i x3 y0 e1
        have h1 : Keeps (mask [.rep, .hearth]) s x3 := KeepsP.of_eq e1 (by
            refine KeepsP.step State.admitQueue_keeps (by rfl) ?_
            exact Keeps.refl _
          )
        clear e1
        extract_lets x4 x5
        have h2 : Keeps (mask [.rep, .hearth]) s x5 := by
          unfold x5
          refine Keeps.step State.count_keeps (by rfl) ?_
          refine Keeps.step State.ptpCount_keeps (by rfl) ?_
          assumption
        clear_value x5
        refine Keeps.step State.storeFrame_keeps (by rfl) ?_
        assumption

theorem State.chargeFrame_keeps {s : State} {p : Nat} {clearTag : Bool} {confOff : Nat} {l : Nat} :
    Keeps (mask [.rep, .chims]) s (State.chargeFrame s p clearTag confOff l) := by
  unfold State.chargeFrame
  extract_lets x1
  refine Keeps.step State.count_keeps (by rfl) ?_
  refine Keeps.step State.chargeSlots_keeps (by rfl) ?_
  exact Keeps.refl _

theorem State.formatError_keeps {s : State} {p : Nat} :
    Keeps (mask [.rep]) s (State.formatError s p) := by
  unfold State.formatError
  refine Keeps.step State.event_keeps (by rfl) ?_
  refine Keeps.step State.count_keeps (by rfl) ?_
  exact Keeps.refl _

theorem State.zeroDrop_keeps {s : State} {p : Nat} :
    Keeps (mask [.rep, .ports]) s (State.zeroDrop s p) := by
  unfold State.zeroDrop
  refine Keeps.step State.count_keeps (by rfl) ?_
  refine Keeps.step State.tagFailure_keeps (by rfl) ?_
  exact Keeps.refl _

theorem State.openOn_keeps {s : State} {f : RxFrame} {t : SecIn} {a : Nat} {pn : Nat} :
    Keeps (mask [.rep, .chims, .hearth]) s (State.openOn s f t a pn) := by
  unfold State.openOn
  extract_lets x1 x2 x3 x4 x5 x6 x7 x8 x9 x10 x11 x12 x13 x14
  refine Keeps.ite ?_ ?_
  · exact Keeps.refl _
  · split
    · rename_i x15 e1
      have h1 : Keeps (mask [.rep, .chims, .hearth]) s x15 := KeepsP.of_eq e1 (by
          refine KeepsP.step State.admitQueue_keeps (by rfl) ?_
          exact Keeps.refl _
        )
      clear e1
      assumption
    · rename_i x15 y0 e1
      have h1 : Keeps (mask [.rep, .chims, .hearth]) s x15 := KeepsP.of_eq e1 (by
          refine KeepsP.step State.admitQueue_keeps (by rfl) ?_
          exact Keeps.refl _
        )
      clear e1
      split
      · rename_i x16 e1
        have h2 : Keeps (mask [.rep, .chims, .hearth]) s x16 := KeepsP.of_eq e1 (by
            refine KeepsP.step State.creditCheck_keeps (by rfl) ?_
            assumption
          )
        clear e1
        assumption
      · rename_i x16 e1
        have h2 : Keeps (mask [.rep, .chims, .hearth]) s x16 := KeepsP.of_eq e1 (by
            refine KeepsP.step State.creditCheck_keeps (by rfl) ?_
            assumption
          )
        clear e1
        extract_lets x17
        have h3 : Keeps (mask [.rep, .chims, .hearth]) s x17 := by
          unfold x17
          refine Keeps.step State.chargeFrame_keeps (by rfl) ?_
          assumption
        clear_value x17
        refine Keeps.step State.storeFrame_keeps (by rfl) ?_
        assumption

theorem State.sealedFrame_keeps {s : State} {f : RxFrame} :
    Keeps (mask [.rep, .ports, .chims, .hearth]) s (State.sealedFrame s f) := by
  unfold State.sealedFrame
  extract_lets x1 x2 x3 x4
  have h1 : Keeps (mask [.rep, .ports, .chims, .hearth]) s x3 := by
    unfold x3
    refine Keeps.step State.count_keeps (by rfl) ?_
    exact Keeps.refl _
  clear_value x3
  refine Keeps.ite ?_ ?_
  · refine Keeps.step State.formatError_keeps (by rfl) ?_
    assumption
  · split
    · refine Keeps.step State.event_keeps (by rfl) ?_
      refine Keeps.step State.count_keeps (by rfl) ?_
      assumption
    · extract_lets x5
      refine Keeps.ite ?_ ?_
      · refine Keeps.step State.formatError_keeps (by rfl) ?_
        assumption
      · split
        · refine Keeps.step State.count_keeps (by rfl) ?_
          refine Keeps.step State.formatError_keeps (by rfl) ?_
          assumption
        · refine Keeps.ite ?_ ?_
          · refine Keeps.step State.count_keeps (by rfl) ?_
            refine Keeps.step State.formatError_keeps (by rfl) ?_
            assumption
          · refine Keeps.ite ?_ ?_
            · assumption
            · refine Keeps.ite ?_ ?_
              · refine Keeps.step State.count_keeps (by rfl) ?_
                assumption
              · refine Keeps.ite ?_ ?_
                · refine Keeps.step State.zeroDrop_keeps (by rfl) ?_
                  assumption
                · refine Keeps.ite ?_ ?_
                  · refine Keeps.step State.count_keeps (by rfl) ?_
                    assumption
                  · refine Keeps.step State.openOn_keeps (by rfl) ?_
                    assumption

theorem State.cipherFrame_keeps {s : State} {f : RxFrame} :
    Keeps (mask [.rep, .ports, .chims, .hearth]) s (State.cipherFrame s f) := by
  unfold State.cipherFrame
  extract_lets x1
  refine Keeps.ite ?_ ?_
  · refine Keeps.step State.sealedFrame_keeps (by rfl) ?_
    exact Keeps.refl _
  · refine Keeps.ite ?_ ?_
    · refine Keeps.step State.count_keeps (by rfl) ?_
      exact Keeps.refl _
    · split
      · refine Keeps.step State.bypass_keeps (by rfl) ?_
        exact Keeps.refl _
      · refine Keeps.step State.event_keeps (by rfl) ?_
        refine Keeps.step State.count_keeps (by rfl) ?_
        exact Keeps.refl _

theorem State.ptpCarry_keeps {s : State} {mode : Nat} {timeIn : Nat} {bs : List Byte} :
    KeepsP (mask [.rep]) s (State.ptpCarry s mode timeIn bs) := by
  unfold State.ptpCarry
  split
  · refine KeepsP.ite ?_ ?_
    · refine KeepsP.mk ?_
      refine Keeps.step State.count_keeps (by rfl) ?_
      exact Keeps.refl _
    · refine KeepsP.mk ?_
      exact Keeps.refl _
  · refine KeepsP.mk ?_
    exact Keeps.refl _

theorem State.sealOn_keeps {s : State} {f : RxFrame} {a : Nat} :
    Keeps (mask [.sched, .rep, .assocs, .chims, .hearth, .pair]) s (State.sealOn s f a) := by
  unfold State.sealOn
  extract_lets x1 x2 x3 x4 x5
  refine Keeps.ite ?_ ?_
  · refine Keeps.step State.count_keeps (by rfl) ?_
    exact Keeps.refl _
  · refine Keeps.ite ?_ ?_
    · exact Keeps.refl _
    · split
      · rename_i x6 e1
        have h1 : Keeps (mask [.sched, .rep, .assocs, .chims, .hearth, .pair]) s x6 := KeepsP.of_eq e1 (by
            refine KeepsP.step State.admitQueue_keeps (by rfl) ?_
            exact Keeps.refl _
          )
        clear e1
        assumption
      · rename_i x6 y0 e1
        have h1 : Keeps (mask [.sched, .rep, .assocs, .chims, .hearth, .pair]) s x6 := KeepsP.of_eq e1 (by
            refine KeepsP.step State.admitQueue_keeps (by rfl) ?_
            exact Keeps.refl _
          )
        clear e1
        split
        · rename_i x7 e1
          have h2 : Keeps (mask [.sched, .rep, .assocs, .chims, .hearth, .pair]) s x7 := KeepsP.of_eq e1 (by
              refine KeepsP.step State.creditCheck_keeps (by rfl) ?_
              assumption
            )
          clear e1
          assumption
        · rename_i x7 e1
          have h2 : Keeps (mask [.sched, .rep, .assocs, .chims, .hearth, .pair]) s x7 := KeepsP.of_eq e1 (by
              refine KeepsP.step State.creditCheck_keeps (by rfl) ?_
              assumption
            )
          clear e1
          split
          · rename_i x8 e1
            have h3 : Keeps (mask [.sched, .rep, .assocs, .chims, .hearth, .pair]) s x8 := KeepsP.of_eq e1 (by
                refine KeepsP.step State.pnCheck_keeps (by rfl) ?_
                assumption
              )
            clear e1
            assumption
          · rename_i x8 e1
            have h3 : Keeps (mask [.sched, .rep, .assocs, .chims, .hearth, .pair]) s x8 := KeepsP.of_eq e1 (by
                refine KeepsP.step State.pnCheck_keeps (by rfl) ?_
                assumption
              )
            clear e1
            extract_lets x9 x10
            have h4 : Keeps (mask [.sched, .rep, .assocs, .chims, .hearth, .pair]) s x10 := by
              unfold x10
              refine Keeps.step State.ptpCount_keeps (by rfl) ?_
              assumption
            clear_value x10
            split
            rename_i x11 y0 e1
            have h5 : Keeps (mask [.sched, .rep, .assocs, .chims, .hearth, .pair]) s x11 := KeepsP.of_eq e1 (by
                refine KeepsP.step State.ptpCarry_keeps (by rfl) ?_
                assumption
              )
            clear e1
            split
            rename_i x12 y0 e1
            have h6 : Keeps (mask [.sched, .rep, .assocs, .chims, .hearth, .pair]) s x12 := KeepsP.of_eq e1 (by
                refine KeepsP.step State.assignPn_keeps (by rfl) ?_
                assumption
              )
            clear e1
            extract_lets x13 x14 x15
            have h7 : Keeps (mask [.sched, .rep, .assocs, .chims, .hearth, .pair]) s x14 := by
              unfold x14
              refine Keeps.step State.chargeFrame_keeps (by rfl) ?_
              assumption
            have h8 : Keeps (mask [.sched, .rep, .assocs, .chims, .hearth, .pair]) s x15 := by
              unfold x15
              refine Keeps.step State.count_keeps (by rfl) ?_
              assumption
            clear_value x15
            clear_value x14
            refine Keeps.step State.storeFrame_keeps (by rfl) ?_
            assumption

theorem State.clearFrame_keeps {s : State} {f : RxFrame} :
    Keeps (mask [.sched, .rep, .assocs, .fwd, .chims, .hearth, .pair, .page .lrc]) s (State.clearFrame s f) := by
  unfold State.clearFrame
  extract_lets x1
  split
  · refine Keeps.step State.bypass_keeps (by rfl) ?_
    exact Keeps.refl _
  · split
    · rename_i x2 y0 e1
      have h1 : Keeps (mask [.sched, .rep, .assocs, .fwd, .chims, .hearth, .pair,
          .page .lrc]) s x2 := KeepsP.of_eq e1 (by
          refine KeepsP.step State.classify_keeps (by rfl) ?_
          exact Keeps.refl _
        )
      clear e1
      refine Keeps.step State.sealOn_keeps (by rfl) ?_
      assumption
    · rename_i x2 e1
      have h1 : Keeps (mask [.sched, .rep, .assocs, .fwd, .chims, .hearth, .pair,
          .page .lrc]) s x2 := KeepsP.of_eq e1 (by
          refine KeepsP.step State.classify_keeps (by rfl) ?_
          exact Keeps.refl _
        )
      clear e1
      assumption

theorem State.loseFrame_keeps {s : State} {f : HFrame} :
    Keeps (mask [.hearth]) s (State.loseFrame s f) := by
  unfold State.loseFrame
  refine Keeps.step State.emptied_keeps (by rfl) ?_
  refine Keeps.step State.zeroCells_keeps (by rfl) ?_
  refine Keeps.step State.dropFrame_keeps (by rfl) ?_
  exact Keeps.refl _

theorem State.failFrame_keeps {s : State} {f : HFrame} :
    Keeps (mask [.rep, .ports, .hearth]) s (State.failFrame s f) := by
  unfold State.failFrame
  refine Keeps.step State.zeroDrop_keeps (by rfl) ?_
  refine Keeps.step State.loseFrame_keeps (by rfl) ?_
  exact Keeps.refl _

theorem State.ptpCorrect_keeps {s : State} {p : Nat} {f : HFrame} :
    KeepsP (mask [.rep]) s (State.ptpCorrect s p f) := by
  unfold State.ptpCorrect
  dsimp only
  split
  · exact KeepsP.mk (Keeps.refl _)
  · refine KeepsP.ite (KeepsP.mk (Keeps.refl _)) ?_
    split
    · exact KeepsP.mk (Keeps.refl _)
    · refine KeepsP.mk (Keeps.onlyIf (fun v => ?_) State.count_keeps)
      exact Keeps.step State.event_keeps rfl (Keeps.step State.count_keeps rfl (Keeps.refl _))

theorem State.receive_keeps {s : State} {f : RxFrame} :
    Keeps (mask [.sched, .rep, .ports, .assocs, .fwd, .chims, .hearth, .pair, .page .lrc]) s (State.receive s f) := by
  unfold State.receive
  extract_lets x1 x2 x3 x4 x5
  have h1 : Keeps (mask [.sched, .rep, .ports, .assocs, .fwd, .chims, .hearth, .pair, .page .lrc]) s x5 := by
    unfold x5
    refine Keeps.onlyIf ?_ ?_
    · intro u1
      refine Keeps.step State.count_keeps (by rfl) ?_
      refine Keeps.step State.count_keeps (by rfl) ?_
      exact Keeps.refl _
    · exact Keeps.refl _
  clear_value x5
  refine Keeps.ite ?_ ?_
  · exact Keeps.refl _
  · refine Keeps.ite ?_ ?_
    · refine Keeps.step State.count_keeps (by rfl) ?_
      exact Keeps.refl _
    · refine Keeps.ite ?_ ?_
      · refine Keeps.step State.count_keeps (by rfl) ?_
        exact Keeps.refl _
      · refine Keeps.ite ?_ ?_
        · refine Keeps.step State.count_keeps (by rfl) ?_
          exact Keeps.refl _
        · refine Keeps.ite ?_ ?_
          · refine Keeps.step State.count_keeps (by rfl) ?_
            exact Keeps.refl _
          · refine Keeps.ite ?_ ?_
            · refine Keeps.step State.cipherFrame_keeps (by rfl) ?_
              assumption
            · refine Keeps.step State.clearFrame_keeps (by rfl) ?_
              assumption

theorem State.verdict_keeps {s : State} {f : HFrame} :
    Keeps (mask [.rep, .ports, .assocs, .fwd, .hearth, .fresh]) s (State.verdict s f) := by
  unfold State.verdict
  refine Keeps.ite ?_ ?_
  · refine Keeps.step State.loseFrame_keeps (by rfl) ?_
    exact Keeps.refl _
  · split
    · extract_lets x1 x2 x3 x4 x5
      have h1 : Keeps (mask [.rep, .ports, .assocs, .fwd, .hearth, .fresh]) s x4 := by
        unfold x4
        refine Keeps.onlyIf ?_ ?_
        · intro u1
          refine Keeps.step State.setAsn_keeps (by rfl) ?_
          exact Keeps.refl _
        · exact Keeps.refl _
      have h2 : Keeps (mask [.rep, .ports, .assocs, .fwd, .hearth, .fresh]) s x5 := by
        unfold x5
        refine Keeps.step State.ptpCount_keeps (by rfl) ?_
        refine Keeps.step State.putFrame_keeps (by rfl) ?_
        refine Keeps.step State.count_keeps (by rfl) ?_
        assumption
      clear_value x5
      clear_value x4
      refine Keeps.ite ?_ ?_
      · refine Keeps.step State.failFrame_keeps (by rfl) ?_
        exact Keeps.refl _
      · refine Keeps.ite ?_ ?_
        · refine Keeps.step State.count_keeps (by rfl) ?_
          refine Keeps.step State.failFrame_keeps (by rfl) ?_
          exact Keeps.refl _
        · refine Keeps.onlyIf ?_ ?_
          · intro u1
            refine Keeps.step State.learn_keeps (by rfl) ?_
            exact Keeps.refl _
          · assumption
    · refine Keeps.step State.putFrame_keeps (by rfl) ?_
      exact Keeps.refl _

theorem execFrameReceived_keeps {f : RxFrame} {cyc : Cyc} {s : State} :
    KeepsX (mask [.cycle, .sched, .rep, .ports, .assocs, .fwd, .chims, .hearth, .msix, .pair, .out,
        .page .lrc]) s (execFrameReceived f cyc s) := by
  unfold execFrameReceived
  refine KeepsX.done (by rfl) ?_
  refine Keeps.step State.receive_keeps (by rfl) ?_
  refine Keeps.step State.at_keeps (by rfl) ?_
  exact Keeps.refl _

theorem execTagVerdict_keeps {p : PortNo} {id : Nat} {cyc : Cyc} {s : State} :
    KeepsX (mask [.cycle, .rep, .ports, .assocs, .fwd, .hearth, .msix, .fresh,
        .out]) s (execTagVerdict p id cyc s) := by
  unfold execTagVerdict
  extract_lets x1
  have h1 : Keeps (mask [.cycle, .rep, .ports, .assocs, .fwd, .hearth, .msix, .fresh, .out]) s x1 := by
    unfold x1
    refine Keeps.step State.at_keeps (by rfl) ?_
    exact Keeps.refl _
  clear_value x1
  refine KeepsX.done (by rfl) ?_
  split
  · refine Keeps.step State.verdict_keeps (by rfl) ?_
    assumption
  · assumption

theorem execFrameSend_keeps {p : PortNo} {bank : Option (Fin 512)} {cyc : Cyc} {s : State} :
    KeepsX (mask [.cycle, .rep, .ports, .hearth, .msix, .out, .page .flt]) s (execFrameSend p bank cyc s) := by
  unfold execFrameSend
  extract_lets x1
  have h1 : Keeps (mask [.cycle, .rep, .ports, .hearth, .msix, .out, .page .flt]) s x1 := by
    unfold x1
    refine Keeps.step State.at_keeps (by rfl) ?_
    exact Keeps.refl _
  clear_value x1
  refine KeepsX.done (by rfl) ?_
  refine Keeps.ite ?_ ?_
  · split
    · assumption
    · rename_i x2 e1
      have h2 : Keeps (mask [.cycle, .rep, .ports, .hearth, .msix, .out,
          .page .flt]) s x2 := KeepsO.elim (e := e1) (by
          refine KeepsO.step State.pickFrame_keeps (by rfl) ?_
          assumption
        )
      clear e1
      refine Keeps.ite ?_ ?_
      · refine Keeps.step State.loseFrame_keeps (by rfl) ?_
        assumption
      · split
        rename_i x3 y0 e1
        have h3 : Keeps (mask [.cycle, .rep, .ports, .hearth, .msix, .out, .page .flt]) s x3 := KeepsP.of_eq e1 (by
            refine KeepsP.step State.ptpCorrect_keeps (by rfl) ?_
            assumption
          )
        clear e1
        extract_lets x4 x5
        have h4 : Keeps (mask [.cycle, .rep, .ports, .hearth, .msix, .out, .page .flt]) s x4 := by
          unfold x4
          refine Keeps.step State.sentFrame_keeps (by rfl) ?_
          assumption
        have h5 : Keeps (mask [.cycle, .rep, .ports, .hearth, .msix, .out, .page .flt]) s x5 := by
          unfold x5
          refine Keeps.step State.hrtEvent_keeps (by rfl) ?_
          refine Keeps.step State.count_keeps (by rfl) ?_
          assumption
        clear_value x5
        clear_value x4
        split
        · refine Keeps.step State.macSend_keeps (by rfl) ?_
          refine Keeps.step State.sramError_keeps (by rfl) ?_
          assumption
        · refine Keeps.step State.macSend_keeps (by rfl) ?_
          assumption
  · assumption

theorem execSeaRxgRead_keeps {p : PortNo} {s : State} :
    KeepsX (mask [.rep, .msix, .out, .page .sea]) s (execSeaRxgRead p s) := by
  unfold execSeaRxgRead
  extract_lets x1
  refine KeepsX.done (by rfl) ?_
  refine State.gateRead_keeps ?_ ?_ ?_
  · exact rfl
  · intro u1
    refine Keeps.step State.emit_keeps (by rfl) ?_
    refine Keeps.step State.wr_keeps (by rfl) ?_
    exact Keeps.refl _
  · exact Keeps.refl _

end Sys2Proof.Machine
end

