-- ==== Sys2Proof/Laws/Kindle.lean ====
section
/-! SUPPORT. What the operations of Machine/Kindle.lean keep, and the parts of the state that they may change. -/

namespace Sys2Proof.Machine

open Sys2Proof

theorem State.kdlEvent_keeps {s : State} {f : Fld} {k : Nat} {reason : Nat} :
    Keeps (mask [.rep]) s (State.kdlEvent s f k reason) := by
  unfold State.kdlEvent
  refine Keeps.step State.event_keeps (by rfl) ?_
  refine Keeps.step State.wrEvt_keeps (by rfl) ?_
  refine Keeps.step State.wrEvt_keeps (by rfl) ?_
  refine Keeps.step State.wrEvt_keeps (by rfl) ?_
  exact Keeps.refl _

theorem State.setLink_keeps {s : State} {k : Nat} {l : Link} :
    Keeps (mask [.kindle]) s (State.setLink s k l) := by
  unfold State.setLink
  refine Keeps.step Keeps.set_kindle (by rfl) ?_
  exact Keeps.refl _

theorem State.modLink_keeps {s : State} {k : Nat} {f : Link → Link} :
    Keeps (mask [.kindle]) s (State.modLink s k f) := by
  unfold State.modLink
  refine Keeps.step State.setLink_keeps (by rfl) ?_
  exact Keeps.refl _

theorem State.sendFragment_keeps {s : State} {k : Nat} {frag : List Byte} :
    Keeps (mask [.rep, .ports, .kindle, .out]) s (State.sendFragment s k frag) := by
  unfold State.sendFragment
  extract_lets x1 x2
  refine Keeps.ite ?_ ?_
  · refine Keeps.ite ?_ ?_
    · exact Keeps.refl _
    · refine Keeps.step Keeps.set_kindle (by rfl) ?_
      exact Keeps.refl _
  · refine Keeps.onlyIf ?_ ?_
    · intro u1
      refine Keeps.step State.macSend_keeps (by rfl) ?_
      exact Keeps.refl _
    · exact Keeps.refl _

theorem State.abortLeaves_keeps {s : State} {k : Nat} {m2 : List Byte} :
    Keeps (mask [.rep, .kindle]) s (State.abortLeaves s k m2) := by
  unfold State.abortLeaves
  refine Keeps.step State.kdlEvent_keeps (by rfl) ?_
  refine Keeps.step State.count_keeps (by rfl) ?_
  refine Keeps.step State.modLink_keeps (by rfl) ?_
  exact Keeps.refl _

theorem State.sendIndex_keeps {s : State} {k : Nat} {i : Nat} :
    Keeps (mask [.rep, .ports, .kindle, .out]) s (State.sendIndex s k i) := by
  unfold State.sendIndex
  extract_lets x1
  split
  · extract_lets x2 x3 x4 x5 x6
    have h1 : Keeps (mask [.rep, .ports, .kindle, .out]) s x2 := by
      unfold x2
      refine Keeps.step State.sendFragment_keeps (by rfl) ?_
      exact Keeps.refl _
    have h2 : Keeps (mask [.rep, .ports, .kindle, .out]) s x3 := by
      unfold x3
      refine Keeps.step State.count_keeps (by rfl) ?_
      assumption
    have h3 : Keeps (mask [.rep, .ports, .kindle, .out]) s x6 := by
      unfold x6
      refine Keeps.step State.modLink_keeps (by rfl) ?_
      assumption
    clear_value x6
    clear_value x3
    clear_value x2
    refine Keeps.onlyIf ?_ ?_
    · intro u1
      refine Keeps.step State.abortLeaves_keeps (by rfl) ?_
      exact Keeps.refl _
    · assumption
  · exact Keeps.refl _

theorem State.pump_keeps {s : State} {k : Nat} :
    Keeps (mask [.rep, .ports, .kindle, .out]) s (State.pump s k) := by
  unfold State.pump
  refine Keeps.ite ?_ ?_
  · exact Keeps.refl _
  · extract_lets x1 x2
    have h1 : Keeps (mask [.rep, .ports, .kindle, .out]) s x2 := by
      unfold x2
      split
      · refine Keeps.ite ?_ ?_
        · refine Keeps.step State.count_keeps (by rfl) ?_
          refine Keeps.step State.modLink_keeps (by rfl) ?_
          exact Keeps.refl _
        · exact Keeps.refl _
      · exact Keeps.refl _
    clear_value x2
    refine Keeps.forN ?_ ?_
    · intro b1 u1
      extract_lets x3 x4
      split
      · refine Keeps.ite ?_ ?_
        · refine Keeps.step State.sendIndex_keeps (by rfl) ?_
          exact Keeps.refl _
        · exact Keeps.refl _
      · exact Keeps.refl _
    · assumption

theorem State.queueMsg_keeps {s : State} {k : Nat} {ses : Option Nat} {bytes : List Byte} :
    Keeps (mask [.rep, .ports, .kindle, .out]) s (State.queueMsg s k ses bytes) := by
  unfold State.queueMsg
  refine Keeps.step State.pump_keeps (by rfl) ?_
  refine Keeps.step State.modLink_keeps (by rfl) ?_
  exact Keeps.refl _

theorem State.sendAbort_keeps {s : State} {k : Nat} {x : Session} {reason : Nat} :
    Keeps (mask [.rep, .ports, .kindle, .out]) s (State.sendAbort s k x reason) := by
  unfold State.sendAbort
  extract_lets x1 x2
  have h1 : Keeps (mask [.rep, .ports, .kindle, .out]) s x1 := by
    unfold x1
    refine Keeps.onlyIf ?_ ?_
    · intro u1
      refine Keeps.step State.kdlEvent_keeps (by rfl) ?_
      exact Keeps.refl _
    · exact Keeps.refl _
  have h2 : Keeps (mask [.rep, .ports, .kindle, .out]) s x2 := by
    unfold x2
    refine Keeps.onlyIf ?_ ?_
    · intro u1
      refine Keeps.step State.kdlEvent_keeps (by rfl) ?_
      exact Keeps.refl _
    · assumption
  clear_value x2
  clear_value x1
  refine Keeps.step State.queueMsg_keeps (by rfl) ?_
  assumption

theorem State.dropLattice_keeps {s : State} {k : Nat} {par : Bool} :
    Keeps (mask [.kindle]) s (State.dropLattice s k par) := by
  unfold State.dropLattice
  refine Keeps.step Keeps.set_kindle (by rfl) ?_
  exact Keeps.refl _

theorem State.endMsg_keeps {s : State} {k : Nat} :
    Keeps (mask [.kindle]) s (State.endMsg s k) := by
  unfold State.endMsg
  refine Keeps.step State.modLink_keeps (by rfl) ?_
  exact Keeps.refl _

theorem State.withdrawAll_keeps {s : State} {k : Nat} {sel : OutMsg → Bool} :
    Keeps (mask [.kindle]) s (State.withdrawAll s k sel) := by
  unfold State.withdrawAll
  extract_lets x1 x2
  have h1 : Keeps (mask [.kindle]) s x1 := by
    unfold x1
    split
    · refine Keeps.ite ?_ ?_
      · refine Keeps.step State.endMsg_keeps (by rfl) ?_
        exact Keeps.refl _
      · exact Keeps.refl _
    · exact Keeps.refl _
  clear_value x1
  refine Keeps.step State.modLink_keeps (by rfl) ?_
  assumption

theorem State.withdraw_keeps {s : State} {k : Nat} {idx : Nat} :
    Keeps (mask [.kindle]) s (State.withdraw s k idx) := by
  unfold State.withdraw
  refine Keeps.step State.withdrawAll_keeps (by rfl) ?_
  exact Keeps.refl _

theorem State.closeSession_keeps {s : State} {k : Nat} {par : Bool} :
    Keeps (mask [.kindle]) s (State.closeSession s k par) := by
  unfold State.closeSession
  split
  · extract_lets x1
    have h1 : Keeps (mask [.kindle]) s x1 := by
      unfold x1
      refine Keeps.step State.modLink_keeps (by rfl) ?_
      refine Keeps.step State.dropLattice_keeps (by rfl) ?_
      refine Keeps.step State.withdraw_keeps (by rfl) ?_
      exact Keeps.refl _
    clear_value x1
    refine Keeps.ite ?_ ?_
    · refine Keeps.step State.modLink_keeps (by rfl) ?_
      assumption
    · refine Keeps.step State.modLink_keeps (by rfl) ?_
      assumption
  · exact Keeps.refl _

theorem State.acceptIdentity_keeps {s : State} {k : Nat} {block : List Byte} {hash : List Byte} :
    KeepsP (mask [.sched, .rep, .vault, .kindle]) s (State.acceptIdentity s k block hash) := by
  unfold State.acceptIdentity
  refine KeepsP.foldl ?_ _ ?_
  · intro b1 u1
    split
    · split
      · rename_i x1 e1
        have h1 : Keeps (mask [.sched, .rep, .vault, .kindle]) u1.fst x1 := KeepsP.of_eq e1 (by
            refine KeepsP.step State.takeUse_keeps (by rfl) ?_
            exact Keeps.refl _
          )
        clear e1
        refine KeepsP.mk ?_
        refine Keeps.step State.modLink_keeps (by rfl) ?_
        assumption
      · rename_i x1 e1
        have h1 : Keeps (mask [.sched, .rep, .vault, .kindle]) u1.fst x1 := KeepsP.of_eq e1 (by
            refine KeepsP.step State.takeUse_keeps (by rfl) ?_
            exact Keeps.refl _
          )
        clear e1
        refine KeepsP.mk ?_
        assumption
      · rename_i x1 e1
        have h1 : Keeps (mask [.sched, .rep, .vault, .kindle]) u1.fst x1 := KeepsP.of_eq e1 (by
            refine KeepsP.step State.takeUse_keeps (by rfl) ?_
            exact Keeps.refl _
          )
        clear e1
        refine KeepsP.mk ?_
        assumption
    · exact Keeps.refl _
  · refine KeepsP.mk ?_
    exact Keeps.refl _

theorem State.modSes_keeps {s : State} {k : Nat} {par : Bool} {f : Session → Session} :
    Keeps (mask [.kindle]) s (State.modSes s k par f) := by
  unfold State.modSes
  refine Keeps.step State.modLink_keeps (by rfl) ?_
  exact Keeps.refl _

theorem State.stageOne_keeps {s : State} {k : Nat} {par : Bool} {a : Nat} :
    Keeps (mask [.assocs, .kindle]) s (State.stageOne s k par a) := by
  unfold State.stageOne
  split
  · extract_lets x1 x2
    split
    refine Keeps.ite ?_ ?_
    · refine Keeps.step State.modSes_keeps (by rfl) ?_
      refine Keeps.step State.setAsn_keeps (by rfl) ?_
      exact Keeps.refl _
    · exact Keeps.refl _
  · exact Keeps.refl _

theorem State.lattice_keeps {s : State} {k : Nat} {par : Bool} {ops : List LatOp} {goal : Goal} :
    Keeps (mask [.kindle]) s (State.lattice s k par ops goal) := by
  unfold State.lattice
  extract_lets x1 x2
  have h1 : Keeps (mask [.kindle]) s x1 := by
    unfold x1
    refine Keeps.step State.modSes_keeps (by rfl) ?_
    exact Keeps.refl _
  clear_value x1
  refine Keeps.step Keeps.set_kindle (by rfl) ?_
  assumption

theorem State.rollEvent_keeps {s : State} {f : Fld} {k : Nat} :
    Keeps (mask [.rep]) s (State.rollEvent s f k) := by
  unfold State.rollEvent
  refine Keeps.step State.event_keeps (by rfl) ?_
  refine Keeps.step State.wrEvt_keeps (by rfl) ?_
  refine Keeps.step State.wrEvt_keeps (by rfl) ?_
  exact Keeps.refl _

theorem State.openSession_keeps {s : State} {k : Nat} {par : Bool} {initiator : Bool} {ctx : Nat} :
    Keeps (mask [.rep, .vault, .kindle, .fresh]) s (State.openSession s k par initiator ctx) := by
  unfold State.openSession
  extract_lets x1 x2
  split
  rename_i x3 y0 e1
  have h1 : Keeps (mask [.rep, .vault, .kindle, .fresh]) s x3 := KeepsP.of_eq e1 (by
      refine KeepsP.step State.draw_keeps (by rfl) ?_
      exact Keeps.refl _
    )
  clear e1
  extract_lets x4 x5
  have h2 : Keeps (mask [.rep, .vault, .kindle, .fresh]) s x5 := by
    unfold x5
    refine Keeps.step State.modLink_keeps (by rfl) ?_
    assumption
  clear_value x5
  refine Keeps.onlyIf ?_ ?_
  · intro u1
    refine Keeps.step State.rollEvent_keeps (by rfl) ?_
    refine Keeps.step State.modLink_keeps (by rfl) ?_
    exact Keeps.refl _
  · assumption

theorem State.tryOffer_keeps {s : State} {k : Nat} {par : Bool} :
    Keeps (mask [.rep, .vault, .kindle, .fresh]) s (State.tryOffer s k par) := by
  unfold State.tryOffer
  refine Keeps.ite ?_ ?_
  · exact Keeps.refl _
  · split
    · refine Keeps.step State.lattice_keeps (by rfl) ?_
      refine Keeps.step State.openSession_keeps (by rfl) ?_
      exact Keeps.refl _
    · refine Keeps.step State.modLink_keeps (by rfl) ?_
      exact Keeps.refl _

theorem State.raiseMark_keeps {s : State} {k : Nat} {epoch : Nat} :
    Keeps (mask [.kindle]) s (State.raiseMark s k epoch) := by
  unfold State.raiseMark
  refine Keeps.step State.modLink_keeps (by rfl) ?_
  exact Keeps.refl _

theorem State.installIdleOf_keeps {s : State} {k : Nat} {x : Session} {epoch : Nat} {a : Nat} :
    Keeps (mask [.rep, .assocs, .kindle]) s (State.installIdleOf s k x epoch a) := by
  unfold State.installIdleOf
  extract_lets x1
  refine Keeps.ite ?_ ?_
  · split
    extract_lets x2
    have h1 : Keeps (mask [.rep, .assocs, .kindle]) s x2 := by
      unfold x2
      refine Keeps.step State.raiseMark_keeps (by rfl) ?_
      refine Keeps.step State.installIdle_keeps (by rfl) ?_
      exact Keeps.refl _
    clear_value x2
    refine Keeps.step State.modAsn_keeps (by rfl) ?_
    assumption
  · refine Keeps.step State.kdlEvent_keeps (by rfl) ?_
    refine Keeps.step State.count_keeps (by rfl) ?_
    exact Keeps.refl _

theorem State.beginStaging_keeps {s : State} {k : Nat} {par : Bool} :
    Keeps (mask [.kindle]) s (State.beginStaging s k par) := by
  unfold State.beginStaging
  extract_lets x1
  refine Keeps.step State.modSes_keeps (by rfl) ?_
  exact Keeps.refl _

theorem State.collide_keeps {s : State} {k : Nat} :
    Keeps (mask [.rep, .kindle]) s (State.collide s k) := by
  unfold State.collide
  refine Keeps.step State.rollEvent_keeps (by rfl) ?_
  refine Keeps.step State.modLink_keeps (by rfl) ?_
  exact Keeps.refl _

theorem State.killLink_keeps {s : State} {k : Nat} {cause : Nat} {due : Nat} :
    Keeps (mask [.sched]) s (State.killLink s k cause due) := by
  unfold State.killLink
  refine Keeps.step State.schedule_keeps (by rfl) ?_
  exact Keeps.refl _

theorem State.sessionSends_keeps {s : State} {k : Nat} {par : Bool} {build : Session → List Byte} :
    Keeps (mask [.rep, .ports, .kindle, .out]) s (State.sessionSends s k par build) := by
  unfold State.sessionSends
  split
  · extract_lets x1
    refine Keeps.step State.queueMsg_keeps (by rfl) ?_
    refine Keeps.step State.modSes_keeps (by rfl) ?_
    exact Keeps.refl _
  · exact Keeps.refl _

theorem State.sendBuilt_keeps {s : State} {k : Nat} {par : Bool} {get : Session → List Byte} {st : SesState} :
    Keeps (mask [.rep, .ports, .kindle, .out]) s (State.sendBuilt s k par get st) := by
  unfold State.sendBuilt
  refine Keeps.step State.sessionSends_keeps (by rfl) ?_
  refine Keeps.step State.modSes_keeps (by rfl) ?_
  exact Keeps.refl _

theorem State.sendConfirmR_keeps {s : State} {k : Nat} {par : Bool} :
    Keeps (mask [.rep, .ports, .kindle, .out]) s (State.sendConfirmR s k par) := by
  unfold State.sendConfirmR
  refine Keeps.step State.sendBuilt_keeps (by rfl) ?_
  exact Keeps.refl _

theorem State.discard_keeps {s : State} :
    Keeps (mask [.rep]) s (State.discard s) := by
  unfold State.discard
  refine Keeps.step State.count_keeps (by rfl) ?_
  exact Keeps.refl _

theorem State.stageKeys_keeps {s : State} {k : Nat} {par : Bool} :
    Keeps (mask [.rep, .assocs, .kindle]) s (State.stageKeys s k par) := by
  unfold State.stageKeys
  split
  · extract_lets x1
    have h1 : Keeps (mask [.rep, .assocs, .kindle]) s x1 := by
      unfold x1
      refine Keeps.forL ?_ ?_
      · intro b1 u1
        refine Keeps.step State.stageOne_keeps (by rfl) ?_
        exact Keeps.refl _
      · exact Keeps.refl _
    clear_value x1
    refine Keeps.step State.count_keeps (by rfl) ?_
    refine Keeps.step State.modSes_keeps (by rfl) ?_
    assumption
  · exact Keeps.refl _

theorem State.dropAck_keeps {s : State} {k : Nat} :
    Keeps (mask [.kindle]) s (State.dropAck s k) := by
  unfold State.dropAck
  refine Keeps.step State.modLink_keeps (by rfl) ?_
  exact Keeps.refl _

theorem State.installStaged_keeps {s : State} {k : Nat} {x : Session} {a : Nat} :
    Keeps (mask [.sched, .rep, .assocs, .kindle]) s (State.installStaged s k x a) := by
  unfold State.installStaged
  extract_lets x1 x2 x3 x4
  have h1 : Keeps (mask [.sched, .rep, .assocs, .kindle]) s x4 := by
    unfold x4
    refine Keeps.step State.raiseMark_keeps (by rfl) ?_
    refine Keeps.step State.installFirst_keeps (by rfl) ?_
    exact Keeps.refl _
  clear_value x4
  refine Keeps.ite ?_ ?_
  · exact Keeps.refl _
  · refine Keeps.ite ?_ ?_
    · refine Keeps.step State.modAsn_keeps (by rfl) ?_
      assumption
    · refine Keeps.step State.kdlEvent_keeps (by rfl) ?_
      refine Keeps.step State.count_keeps (by rfl) ?_
      exact Keeps.refl _

theorem State.sendAck_keeps {s : State} {k : Nat} {id : Nat} {base : Nat} {map : Nat} :
    Keeps (mask [.rep, .ports, .kindle, .out]) s (State.sendAck s k id base map) := by
  unfold State.sendAck
  refine Keeps.step State.modLink_keeps (by rfl) ?_
  refine Keeps.step State.sendFragment_keeps (by rfl) ?_
  exact Keeps.refl _

theorem State.releaseAck_keeps {s : State} {k : Nat} :
    Keeps (mask [.rep, .ports, .kindle, .out]) s (State.releaseAck s k) := by
  unfold State.releaseAck
  split
  · refine Keeps.ite ?_ ?_
    · refine Keeps.step State.sendAck_keeps (by rfl) ?_
      refine Keeps.step State.modLink_keeps (by rfl) ?_
      exact Keeps.refl _
    · refine Keeps.step State.modLink_keeps (by rfl) ?_
      exact Keeps.refl _
  · exact Keeps.refl _

theorem State.phase0Install_keeps {s : State} {k : Nat} :
    Keeps (mask [.sched, .rep, .ports, .assocs, .kindle, .out]) s (State.phase0Install s k) := by
  unfold State.phase0Install
  extract_lets x1 x2
  split
  · refine Keeps.ite ?_ ?_
    · exact Keeps.refl _
    · refine Keeps.ite ?_ ?_
      · refine Keeps.step State.modLink_keeps (by rfl) ?_
        exact Keeps.refl _
      · extract_lets x3 x4 x5 x6 x7
        have h1 : Keeps (mask [.sched, .rep, .ports, .assocs, .kindle, .out]) s x3 := by
          unfold x3
          refine Keeps.forL ?_ ?_
          · intro b1 u1
            refine Keeps.step State.installStaged_keeps (by rfl) ?_
            exact Keeps.refl _
          · exact Keeps.refl _
        have h2 : Keeps (mask [.sched, .rep, .ports, .assocs, .kindle, .out]) s x5 := by
          unfold x5
          refine Keeps.ite ?_ ?_
          · refine Keeps.step State.count_keeps (by rfl) ?_
            refine Keeps.forL ?_ ?_
            · intro b1 u1
              refine Keeps.step State.installIdleOf_keeps (by rfl) ?_
              exact Keeps.refl _
            · assumption
          · assumption
        have h3 : Keeps (mask [.sched, .rep, .ports, .assocs, .kindle, .out]) s x6 := by
          unfold x6
          refine Keeps.step State.modSes_keeps (by rfl) ?_
          assumption
        have h4 : Keeps (mask [.sched, .rep, .ports, .assocs, .kindle, .out]) s x7 := by
          unfold x7
          refine Keeps.step State.modLink_keeps (by rfl) ?_
          assumption
        clear_value x7
        clear_value x6
        clear_value x5
        clear_value x3
        refine Keeps.step State.releaseAck_keeps (by rfl) ?_
        assumption
  · exact Keeps.refl _

theorem State.holdoff_keeps {s : State} {k : Nat} {par : Bool} :
    Keeps (mask [.kindle]) s (State.holdoff s k par) := by
  unfold State.holdoff
  refine Keeps.step State.modLink_keeps (by rfl) ?_
  exact Keeps.refl _

theorem State.failSession_keeps {s : State} {k : Nat} {par : Bool} {reason : Nat} :
    Keeps (mask [.rep, .ports, .kindle, .out]) s (State.failSession s k par reason) := by
  unfold State.failSession
  split
  · refine Keeps.step State.holdoff_keeps (by rfl) ?_
    refine Keeps.step State.sendAbort_keeps (by rfl) ?_
    refine Keeps.step State.closeSession_keeps (by rfl) ?_
    exact Keeps.refl _
  · exact Keeps.refl _

theorem State.freshPeer_keeps {s : State} {k : Nat} :
    Keeps (mask [.rep, .assocs, .kindle, .slices, .msix, .out, .page .hst, .page .slc]) s (State.freshPeer s k) := by
  unfold State.freshPeer
  split
  · extract_lets x1 x2 x3 x4 x5
    have h1 : Keeps (mask [.rep, .assocs, .kindle, .slices, .msix, .out, .page .hst, .page .slc]) s x1 := by
      unfold x1
      refine Keeps.step State.closeSession_keeps (by rfl) ?_
      exact Keeps.refl _
    have h2 : Keeps (mask [.rep, .assocs, .kindle, .slices, .msix, .out, .page .hst, .page .slc]) s x2 := by
      unfold x2
      refine Keeps.forL ?_ ?_
      · intro b1 u1
        split
        · refine Keeps.step State.deadAsn_keeps (by rfl) ?_
          exact Keeps.refl _
        · refine Keeps.step State.deadAsn_keeps (by rfl) ?_
          exact Keeps.refl _
        · refine Keeps.step State.deadAsn_keeps (by rfl) ?_
          exact Keeps.refl _
        · exact Keeps.refl _
      · assumption
    have h3 : Keeps (mask [.rep, .assocs, .kindle, .slices, .msix, .out, .page .hst, .page .slc]) s x3 := by
      unfold x3
      refine Keeps.step State.modLink_keeps (by rfl) ?_
      assumption
    have h4 : Keeps (mask [.rep, .assocs, .kindle, .slices, .msix, .out, .page .hst, .page .slc]) s x5 := by
      unfold x5
      refine Keeps.step Keeps.set_kindle (by rfl) ?_
      assumption
    clear_value x5
    clear_value x3
    clear_value x2
    clear_value x1
    refine Keeps.step State.rollEvent_keeps (by rfl) ?_
    assumption
  · exact Keeps.refl _

theorem State.gccPassed_keeps {s : State} {p : Nat} {n : Nat} :
    Keeps (mask [.kindle]) s (State.gccPassed s p n) := by
  unfold State.gccPassed
  split
  · refine Keeps.step State.modLink_keeps (by rfl) ?_
    exact Keeps.refl _
  · exact Keeps.refl _

theorem State.latDeliver_keeps {s : State} {k : Nat} {par : Bool} {x : Session} {op : LatOp} :
    KeepsP (mask [.sched, .rep, .ports, .assocs, .vault, .kindle, .slices, .msix, .fresh, .out, .page .hst,
        .page .slc]) s (State.latDeliver s k par x op) := by
  unfold State.latDeliver
  split
  · split
    rename_i x1 y0 e1
    have h1 : Keeps (mask
  [.sched, .rep, .ports, .assocs, .vault, .kindle, .slices, .msix, .fresh, .out,
    .page .hst, .page .slc]) s x1 := KeepsP.of_eq e1 (by
        refine KeepsP.step State.draw_keeps (by rfl) ?_
        exact Keeps.refl _
      )
    clear e1
    split
    refine KeepsP.mk ?_
    refine Keeps.step State.modSes_keeps (by rfl) ?_
    assumption
  · extract_lets x1
    split
    rename_i x2 y0 e1
    have h1 : Keeps (mask
  [.sched, .rep, .ports, .assocs, .vault, .kindle, .slices, .msix, .fresh, .out,
    .page .hst, .page .slc]) s x2 := KeepsP.of_eq e1 (by
        refine KeepsP.step State.draw_keeps (by rfl) ?_
        exact Keeps.refl _
      )
    clear e1
    split
    refine KeepsP.mk ?_
    refine Keeps.step State.modSes_keeps (by rfl) ?_
    assumption
  · extract_lets x1 x2 x3
    have h1 : Keeps (mask
  [.sched, .rep, .ports, .assocs, .vault, .kindle, .slices, .msix, .fresh, .out,
    .page .hst, .page .slc]) s x3 := by
      unfold x3
      refine Keeps.step State.modSes_keeps (by rfl) ?_
      exact Keeps.refl _
    clear_value x3
    refine KeepsP.mk ?_
    refine Keeps.onlyIf ?_ ?_
    · intro u1
      refine Keeps.step State.beginStaging_keeps (by rfl) ?_
      exact Keeps.refl _
    · assumption
  · extract_lets x1 x2 x3
    refine KeepsP.ite ?_ ?_
    · refine KeepsP.mk ?_
      refine Keeps.step State.failSession_keeps (by rfl) ?_
      exact Keeps.refl _
    · refine KeepsP.ite ?_ ?_
      · refine KeepsP.mk ?_
        refine Keeps.step State.freshPeer_keeps (by rfl) ?_
        exact Keeps.refl _
      · refine KeepsP.mk ?_
        exact Keeps.refl _
  · split
    · rename_i x1 e1
      have h1 : Keeps (mask
  [.sched, .rep, .ports, .assocs, .vault, .kindle, .slices, .msix, .fresh, .out,
    .page .hst, .page .slc]) s x1 := KeepsP.of_eq e1 (by
          refine KeepsP.step State.takeUse_keeps (by rfl) ?_
          exact Keeps.refl _
        )
      clear e1
      refine KeepsP.mk ?_
      assumption
    · rename_i x1 e1
      have h1 : Keeps (mask
  [.sched, .rep, .ports, .assocs, .vault, .kindle, .slices, .msix, .fresh, .out,
    .page .hst, .page .slc]) s x1 := KeepsP.of_eq e1 (by
          refine KeepsP.step State.takeUse_keeps (by rfl) ?_
          exact Keeps.refl _
        )
      clear e1
      refine KeepsP.mk ?_
      refine Keeps.step State.failSession_keeps (by rfl) ?_
      assumption
    · rename_i x1 e1
      have h1 : Keeps (mask
  [.sched, .rep, .ports, .assocs, .vault, .kindle, .slices, .msix, .fresh, .out,
    .page .hst, .page .slc]) s x1 := KeepsP.of_eq e1 (by
          refine KeepsP.step State.takeUse_keeps (by rfl) ?_
          exact Keeps.refl _
        )
      clear e1
      split
      rename_i x2 y0 e1
      have h2 : Keeps (mask
  [.sched, .rep, .ports, .assocs, .vault, .kindle, .slices, .msix, .fresh, .out,
    .page .hst, .page .slc]) s x2 := KeepsP.of_eq e1 (by
          refine KeepsP.step State.draw_keeps (by rfl) ?_
          assumption
        )
      clear e1
      extract_lets x3 x4 x5 x6
      refine KeepsP.mk ?_
      refine Keeps.step State.modSes_keeps (by rfl) ?_
      assumption

theorem State.reachGoal_keeps {s : State} {k : Nat} {par : Bool} {g : Goal} :
    Keeps (mask [.rep, .ports, .vault, .kindle, .fresh, .out]) s (State.reachGoal s k par g) := by
  unfold State.reachGoal
  split
  · extract_lets x1 x2 x3
    have h1 : Keeps (mask [.rep, .ports, .vault, .kindle, .fresh, .out]) s x3 := by
      unfold x3
      refine Keeps.step State.modSes_keeps (by rfl) ?_
      exact Keeps.refl _
    clear_value x3
    refine Keeps.step State.sendBuilt_keeps (by rfl) ?_
    assumption
  · extract_lets x1 x2
    have h1 : Keeps (mask [.rep, .ports, .vault, .kindle, .fresh, .out]) s x2 := by
      unfold x2
      refine Keeps.step State.modSes_keeps (by rfl) ?_
      exact Keeps.refl _
    clear_value x2
    refine Keeps.step State.sendBuilt_keeps (by rfl) ?_
    assumption
  · refine Keeps.step State.sendBuilt_keeps (by rfl) ?_
    refine Keeps.step State.modSes_keeps (by rfl) ?_
    exact Keeps.refl _
  · refine Keeps.step State.sendBuilt_keeps (by rfl) ?_
    refine Keeps.step State.modSes_keeps (by rfl) ?_
    exact Keeps.refl _
  · extract_lets x1
    have h1 : Keeps (mask [.rep, .ports, .vault, .kindle, .fresh, .out]) s x1 := by
      unfold x1
      refine Keeps.step State.beginStaging_keeps (by rfl) ?_
      refine Keeps.step State.modSes_keeps (by rfl) ?_
      exact Keeps.refl _
    clear_value x1
    refine Keeps.step State.sendBuilt_keeps (by rfl) ?_
    assumption
  · refine Keeps.ite ?_ ?_
    · refine Keeps.step State.modLink_keeps (by rfl) ?_
      refine Keeps.step State.modSes_keeps (by rfl) ?_
      exact Keeps.refl _
    · split
      rename_i x1 y0 e1
      have h1 : Keeps (mask [.rep, .ports, .vault, .kindle, .fresh, .out]) s x1 := KeepsP.of_eq e1 (by
          refine KeepsP.step State.draw_keeps (by rfl) ?_
          exact Keeps.refl _
        )
      clear e1
      extract_lets x2
      have h2 : Keeps (mask [.rep, .ports, .vault, .kindle, .fresh, .out]) s x2 := by
        unfold x2
        refine Keeps.step State.modSes_keeps (by rfl) ?_
        assumption
      clear_value x2
      refine Keeps.step State.sessionSends_keeps (by rfl) ?_
      refine Keeps.step State.modLink_keeps (by rfl) ?_
      assumption
  · split
    rename_i x1 y0 e1
    have h1 : Keeps (mask [.rep, .ports, .vault, .kindle, .fresh, .out]) s x1 := KeepsP.of_eq e1 (by
        refine KeepsP.step State.draw_keeps (by rfl) ?_
        exact Keeps.refl _
      )
    clear e1
    extract_lets x2 x3
    have h2 : Keeps (mask [.rep, .ports, .vault, .kindle, .fresh, .out]) s x3 := by
      unfold x3
      refine Keeps.step State.modSes_keeps (by rfl) ?_
      assumption
    clear_value x3
    refine Keeps.step State.sessionSends_keeps (by rfl) ?_
    assumption
  · exact Keeps.refl _

theorem State.onAnswer_keeps {s : State} {k : Nat} {par : Bool} {x : Session} {m4 : List Byte} :
    Keeps (mask [.rep, .ports, .kindle, .out]) s (State.onAnswer s k par x m4) := by
  unfold State.onAnswer
  refine Keeps.ite ?_ ?_
  · refine Keeps.step State.discard_keeps (by rfl) ?_
    exact Keeps.refl _
  · refine Keeps.ite ?_ ?_
    · refine Keeps.step State.failSession_keeps (by rfl) ?_
      exact Keeps.refl _
    · split
      · refine Keeps.step State.failSession_keeps (by rfl) ?_
        exact Keeps.refl _
      · extract_lets x1
        have h1 : Keeps (mask [.rep, .ports, .kindle, .out]) s x1 := by
          unfold x1
          refine Keeps.step State.modSes_keeps (by rfl) ?_
          exact Keeps.refl _
        clear_value x1
        refine Keeps.step State.lattice_keeps (by rfl) ?_
        assumption

theorem State.onConfirm_keeps {s : State} {k : Nat} {par : Bool} {x : Session} {m4 : List Byte} :
    KeepsP (mask [.rep, .ports, .kindle, .out]) s (State.onConfirm s k par x m4) := by
  unfold State.onConfirm
  refine KeepsP.ite ?_ ?_
  · refine KeepsP.mk ?_
    exact Keeps.refl _
  · refine KeepsP.ite ?_ ?_
    · refine KeepsP.mk ?_
      refine Keeps.step State.discard_keeps (by rfl) ?_
      exact Keeps.refl _
    · refine KeepsP.ite ?_ ?_
      · refine KeepsP.mk ?_
        refine Keeps.step State.failSession_keeps (by rfl) ?_
        exact Keeps.refl _
      · refine KeepsP.ite ?_ ?_
        · refine KeepsP.mk ?_
          refine Keeps.step State.failSession_keeps (by rfl) ?_
          exact Keeps.refl _
        · extract_lets x1
          have h1 : Keeps (mask [.rep, .ports, .kindle, .out]) s x1 := by
            unfold x1
            refine Keeps.step State.modSes_keeps (by rfl) ?_
            exact Keeps.refl _
          clear_value x1
          refine KeepsP.mk ?_
          refine Keeps.step State.modLink_keeps (by rfl) ?_
          assumption

theorem State.takeOffer_keeps {s : State} {k : Nat} {par : Bool} {m3 : List Byte} :
    KeepsP (mask [.sched, .rep, .ports, .vault, .kindle, .fresh, .out]) s (State.takeOffer s k par m3) := by
  unfold State.takeOffer
  extract_lets x1 x2
  have h1 : ∀ u b1, KeepsP (mask [.sched, .rep, .ports, .vault, .kindle, .fresh, .out]) u (x2 u b1) := by
    intro u b1
    unfold x2
    refine KeepsP.mk ?_
    refine Keeps.step State.holdoff_keeps (by rfl) ?_
    refine Keeps.step State.sendAbort_keeps (by rfl) ?_
    refine Keeps.step State.closeSession_keeps (by rfl) ?_
    exact Keeps.refl _
  clear_value x2
  refine KeepsP.ite ?_ ?_
  · refine KeepsP.step (h1 ..) (Nat.or_self _) ?_
    exact Keeps.refl _
  · split
    · refine KeepsP.step (h1 ..) (Nat.or_self _) ?_
      exact Keeps.refl _
    · refine KeepsP.mk ?_
      exact Keeps.refl _
    · split
      · rename_i x3 y0 e1
        have h2 : Keeps (mask [.sched, .rep, .ports, .vault, .kindle, .fresh, .out]) s x3 := KeepsP.of_eq e1 (by
            refine KeepsP.step State.acceptIdentity_keeps (by rfl) ?_
            exact Keeps.refl _
          )
        clear e1
        refine KeepsP.step (h1 ..) (Nat.or_self _) ?_
        assumption
      · rename_i x3 e1
        have h2 : Keeps (mask [.sched, .rep, .ports, .vault, .kindle, .fresh, .out]) s x3 := KeepsP.of_eq e1 (by
            refine KeepsP.step State.acceptIdentity_keeps (by rfl) ?_
            exact Keeps.refl _
          )
        clear e1
        refine KeepsP.mk ?_
        assumption
      · rename_i x3 e1
        have h2 : Keeps (mask [.sched, .rep, .ports, .vault, .kindle, .fresh, .out]) s x3 := KeepsP.of_eq e1 (by
            refine KeepsP.step State.acceptIdentity_keeps (by rfl) ?_
            exact Keeps.refl _
          )
        clear e1
        split
        · refine KeepsP.step (h1 ..) (Nat.or_self _) ?_
          refine Keeps.step State.kdlEvent_keeps (by rfl) ?_
          refine Keeps.step State.count_keeps (by rfl) ?_
          assumption
        · extract_lets x4 x5
          have h3 : Keeps (mask [.sched, .rep, .ports, .vault, .kindle, .fresh, .out]) s x4 := by
            unfold x4
            refine Keeps.step State.openSession_keeps (by rfl) ?_
            assumption
          have h4 : Keeps (mask [.sched, .rep, .ports, .vault, .kindle, .fresh, .out]) s x5 := by
            unfold x5
            refine Keeps.step State.modSes_keeps (by rfl) ?_
            assumption
          clear_value x5
          clear_value x4
          refine KeepsP.mk ?_
          refine Keeps.step State.lattice_keeps (by rfl) ?_
          assumption

theorem State.withdrawOffer_keeps {s : State} {k : Nat} {par : Bool} {x : Session} :
    Keeps (mask [.kindle]) s (State.withdrawOffer s k par x) := by
  unfold State.withdrawOffer
  refine Keeps.step State.modSes_keeps (by rfl) ?_
  refine Keeps.step State.dropLattice_keeps (by rfl) ?_
  refine Keeps.step State.withdraw_keeps (by rfl) ?_
  exact Keeps.refl _

theorem State.onOffer_keeps {s : State} {k : Nat} {m2 : List Byte} :
    KeepsP (mask [.sched, .rep, .ports, .vault, .kindle, .fresh, .out]) s (State.onOffer s k m2) := by
  unfold State.onOffer
  extract_lets x1 x2 x3 x4 x5
  refine KeepsP.ite ?_ ?_
  · refine KeepsP.mk ?_
    refine Keeps.step State.discard_keeps (by rfl) ?_
    exact Keeps.refl _
  · split
    · split
      · refine KeepsP.ite ?_ ?_
        · refine KeepsP.mk ?_
          refine Keeps.step State.discard_keeps (by rfl) ?_
          exact Keeps.refl _
        · refine KeepsP.step State.takeOffer_keeps (by rfl) ?_
          exact Keeps.refl _
      · refine KeepsP.step State.takeOffer_keeps (by rfl) ?_
        exact Keeps.refl _
    · refine KeepsP.ite ?_ ?_
      · refine KeepsP.mk ?_
        refine Keeps.step State.discard_keeps (by rfl) ?_
        exact Keeps.refl _
      · refine KeepsP.ite ?_ ?_
        · refine KeepsP.mk ?_
          refine Keeps.step State.discard_keeps (by rfl) ?_
          exact Keeps.refl _
        · refine KeepsP.ite ?_ ?_
          · refine KeepsP.ite ?_ ?_
            · refine KeepsP.mk ?_
              refine Keeps.step State.failSession_keeps (by rfl) ?_
              exact Keeps.refl _
            · refine KeepsP.ite ?_ ?_
              · refine KeepsP.mk ?_
                refine Keeps.step State.collide_keeps (by rfl) ?_
                exact Keeps.refl _
              · refine KeepsP.step State.takeOffer_keeps (by rfl) ?_
                refine Keeps.step State.withdrawOffer_keeps (by rfl) ?_
                exact Keeps.refl _
          · refine KeepsP.step State.takeOffer_keeps (by rfl) ?_
            refine Keeps.step State.closeSession_keeps (by rfl) ?_
            refine Keeps.step State.collide_keeps (by rfl) ?_
            exact Keeps.refl _

theorem State.onProof_keeps {s : State} {k : Nat} {par : Bool} {x : Session} {m4 : List Byte} :
    KeepsP (mask [.sched, .rep, .ports, .vault, .kindle, .out]) s (State.onProof s k par x m4) := by
  unfold State.onProof
  refine KeepsP.ite ?_ ?_
  · refine KeepsP.mk ?_
    refine Keeps.step State.discard_keeps (by rfl) ?_
    exact Keeps.refl _
  · refine KeepsP.ite ?_ ?_
    · refine KeepsP.ite ?_ ?_
      · refine KeepsP.mk ?_
        refine Keeps.step State.failSession_keeps (by rfl) ?_
        exact Keeps.refl _
      · refine KeepsP.mk ?_
        refine Keeps.step State.lattice_keeps (by rfl) ?_
        refine Keeps.step State.modSes_keeps (by rfl) ?_
        exact Keeps.refl _
    · refine KeepsP.ite ?_ ?_
      · extract_lets x1
        refine KeepsP.ite ?_ ?_
        · refine KeepsP.mk ?_
          refine Keeps.step State.failSession_keeps (by rfl) ?_
          exact Keeps.refl _
        · split
          · rename_i x2 y0 e1
            have h1 : Keeps (mask [.sched, .rep, .ports, .vault, .kindle, .out]) s x2 := KeepsP.of_eq e1 (by
                refine KeepsP.step State.acceptIdentity_keeps (by rfl) ?_
                exact Keeps.refl _
              )
            clear e1
            refine KeepsP.mk ?_
            refine Keeps.step State.failSession_keeps (by rfl) ?_
            assumption
          · rename_i x2 e1
            have h1 : Keeps (mask [.sched, .rep, .ports, .vault, .kindle, .out]) s x2 := KeepsP.of_eq e1 (by
                refine KeepsP.step State.acceptIdentity_keeps (by rfl) ?_
                exact Keeps.refl _
              )
            clear e1
            refine KeepsP.mk ?_
            assumption
          · rename_i x2 e1
            have h1 : Keeps (mask [.sched, .rep, .ports, .vault, .kindle, .out]) s x2 := KeepsP.of_eq e1 (by
                refine KeepsP.step State.acceptIdentity_keeps (by rfl) ?_
                exact Keeps.refl _
              )
            clear e1
            refine KeepsP.mk ?_
            refine Keeps.step State.lattice_keeps (by rfl) ?_
            refine Keeps.step State.modSes_keeps (by rfl) ?_
            assumption
      · refine KeepsP.mk ?_
        refine Keeps.step State.discard_keeps (by rfl) ?_
        exact Keeps.refl _

end Sys2Proof.Machine
end

