-- ==== Sys2Proof/Laws/Slices.lean ====
section
/-! SUPPORT. What the operations of Machine/Slices.lean keep, and the parts of the state that they may change. -/

namespace Sys2Proof.Machine

open Sys2Proof

theorem State.endPieces_keeps {s : State} {pieces : Nat} :
    Keeps (mask [.hearth]) s (State.endPieces s pieces) := by
  unfold State.endPieces
  refine Keeps.step State.zeroCells_keeps (by rfl) ?_
  refine Keeps.step State.modHearth_keeps (by rfl) ?_
  exact Keeps.refl _

theorem State.pieceEnds_keeps {s : State} :
    Keeps (mask [.rep, .hearth, .slices]) s (State.pieceEnds s) := by
  unfold State.pieceEnds
  refine Keeps.forL ?_ ?_
  · intro b1 u1
    extract_lets x1 x2 x3 x4 x5
    refine Keeps.ite ?_ ?_
    · exact Keeps.refl _
    · refine Keeps.step State.count_keeps (by rfl) ?_
      refine Keeps.step State.endPieces_keeps (by rfl) ?_
      refine Keeps.step State.modSlice_keeps (by rfl) ?_
      exact Keeps.refl _
  · exact Keeps.refl _

theorem State.dropDesc_keeps {s : State} {n : Nat} {q : Nat} :
    Keeps (mask [.slices]) s (State.dropDesc s n q) := by
  unfold State.dropDesc
  refine Keeps.step State.modSlice_keeps (by rfl) ?_
  exact Keeps.refl _

theorem State.beginJob_keeps {s : State} {n : Nat} {d : Desc} {key : List Byte} {epoch : Nat} :
    Keeps (mask [.slices]) s (State.beginJob s n d key epoch) := by
  unfold State.beginJob
  refine Keeps.step State.modSlice_keeps (by rfl) ?_
  refine Keeps.step State.dropDesc_keeps (by rfl) ?_
  exact Keeps.refl _

theorem State.countJob_keeps {s : State} {n : Nat} {status : Nat} :
    Keeps (mask [.rep]) s (State.countJob s n status) := by
  unfold State.countJob
  extract_lets x1
  have h1 : Keeps (mask [.rep]) s x1 := by
    unfold x1
    refine Keeps.step State.count_keeps (by rfl) ?_
    refine Keeps.step State.count_keeps (by rfl) ?_
    exact Keeps.refl _
  clear_value x1
  refine Keeps.ite ?_ ?_
  · assumption
  · refine Keeps.step State.count_keeps (by rfl) ?_
    refine Keeps.step State.count_keeps (by rfl) ?_
    assumption

theorem State.deficitRound_keeps {s : State} {ns : List Nat} :
    Keeps (mask [.slices]) s (State.deficitRound s ns) := by
  unfold State.deficitRound
  refine Keeps.forL ?_ ?_
  · intro b1 u1
    refine Keeps.step State.modSlice_keeps (by rfl) ?_
    exact Keeps.refl _
  · exact Keeps.refl _

theorem State.dispatchPiece_keeps {s : State} {c : Nat} {k : Nat} {data : Option (List Byte)} :
    Keeps (mask [.rep, .chims, .hearth, .slices]) s (State.dispatchPiece s c k data) := by
  unfold State.dispatchPiece
  extract_lets x1 x2
  have h1 : Keeps (mask [.rep, .chims, .hearth, .slices]) s x2 := by
    unfold x2
    split
    · refine Keeps.ite ?_ ?_
      · refine Keeps.step State.deficitRound_keeps (by rfl) ?_
        exact Keeps.refl _
      · exact Keeps.refl _
    · exact Keeps.refl _
  clear_value x2
  refine Keeps.ite ?_ ?_
  · exact Keeps.refl _
  · split
    · assumption
    · split
      · assumption
      · extract_lets x3 x4 x5 x6
        have h2 : ∀ u b1, Keeps (mask [.rep, .chims, .hearth, .slices]) u (x5 u b1) := by
          intro u b1
          unfold x5
          refine Keeps.step State.modSlice_keeps (by rfl) ?_
          exact Keeps.refl _
        clear_value x5
        split
        · refine Keeps.ite ?_ ?_
          · refine Keeps.step (h2 ..) (Nat.or_self _) ?_
            assumption
          · extract_lets x7 x8 x9 x10 x11
            have h3 : Keeps (mask [.rep, .chims, .hearth, .slices]) s x7 := by
              unfold x7
              refine Keeps.step (h2 ..) (Nat.or_self _) ?_
              assumption
            have h4 : Keeps (mask [.rep, .chims, .hearth, .slices]) s x8 := by
              unfold x8
              refine Keeps.step State.modSlice_keeps (by rfl) ?_
              assumption
            have h5 : Keeps (mask [.rep, .chims, .hearth, .slices]) s x9 := by
              unfold x9
              refine Keeps.step State.modHearth_keeps (by rfl) ?_
              assumption
            have h6 : Keeps (mask [.rep, .chims, .hearth, .slices]) s x10 := by
              unfold x10
              refine Keeps.step State.modChim_keeps (by rfl) ?_
              assumption
            have h7 : Keeps (mask [.rep, .chims, .hearth, .slices]) s x11 := by
              unfold x11
              refine Keeps.step State.count_keeps (by rfl) ?_
              refine Keeps.step State.count_keeps (by rfl) ?_
              assumption
            clear_value x11
            clear_value x10
            clear_value x9
            clear_value x8
            clear_value x7
            refine Keeps.step State.count_keeps (by rfl) ?_
            refine Keeps.step State.count_keeps (by rfl) ?_
            assumption
        · refine Keeps.step (h2 ..) (Nat.or_self _) ?_
          assumption

theorem State.stopQueues_keeps {s : State} {n : Nat} :
    Keeps (mask [.page .slc]) s (State.stopQueues s n) := by
  unfold State.stopQueues
  extract_lets x1
  have h1 : Keeps (mask [.page .slc]) s x1 := by
    unfold x1
    refine Keeps.forN ?_ ?_
    · intro b1 u1
      with_reducible refine Keeps.step State.wr_keeps ?_ ?_
      · exact Covers.of_subset (l := [.page .slc]) (by simp)
      with_reducible refine Keeps.step State.wr_keeps ?_ ?_
      · exact Covers.of_subset (l := [.page .slc]) (by simp)
      with_reducible refine Keeps.step State.wr_keeps ?_ ?_
      · exact Covers.of_subset (l := [.page .slc]) (by simp)
      exact Keeps.refl _
    · exact Keeps.refl _
  clear_value x1
  refine Keeps.step State.wr_keeps (by rfl) ?_
  refine Keeps.step State.wr_keeps (by rfl) ?_
  refine Keeps.step State.wr_keeps (by rfl) ?_
  refine Keeps.step State.wr_keeps (by rfl) ?_
  assumption

theorem State.resetDone_keeps {s : State} {n : Nat} :
    Keeps (mask [.rep, .slices]) s (State.resetDone s n) := by
  unfold State.resetDone
  extract_lets x1
  refine Keeps.ite ?_ ?_
  · exact Keeps.refl _
  · refine Keeps.step State.hstEvent_keeps (by rfl) ?_
    refine Keeps.step State.modSlice_keeps (by rfl) ?_
    exact Keeps.refl _

theorem State.stepSlice_keeps {s : State} {n : Nat} {remove : Bool} :
    Keeps (mask [.rep, .slices, .page .slc]) s (State.stepSlice s n remove) := by
  unfold State.stepSlice
  extract_lets x1 x2
  have h1 : Keeps (mask [.rep, .slices, .page .slc]) s x2 := by
    unfold x2
    refine Keeps.step State.stopQueues_keeps (by rfl) ?_
    refine Keeps.step State.count_keeps (by rfl) ?_
    exact Keeps.refl _
  clear_value x2
  refine Keeps.step State.resetDone_keeps (by rfl) ?_
  refine Keeps.step State.modSlice_keeps (by rfl) ?_
  assumption

theorem State.switchLog_keeps {s : State} {n : Nat} :
    Keeps (mask [.slices, .page .hst]) s (State.switchLog s n) := by
  unfold State.switchLog
  extract_lets x1 x2
  refine Keeps.step State.wr_keeps (by rfl) ?_
  refine Keeps.step State.modSlice_keeps (by rfl) ?_
  exact Keeps.refl _

theorem State.sliceRefuse_keeps {s : State} {n : Nat} {result : Nat} :
    Keeps (mask [.rep, .slices]) s (State.sliceRefuse s n result) := by
  unfold State.sliceRefuse
  refine Keeps.step State.hstEvent_keeps (by rfl) ?_
  refine Keeps.step State.modSlice_keeps (by rfl) ?_
  exact Keeps.refl _

theorem State.sliceAct_keeps {s : State} {n : Nat} {op : Nat} {pasid : Nat} :
    Keeps (mask [.rep, .slices, .page .hst, .page .slc]) s (State.sliceAct s n op pasid) := by
  unfold State.sliceAct
  extract_lets x1
  refine Keeps.ite ?_ ?_
  · refine Keeps.ite ?_ ?_
    · exact Keeps.refl _
    · refine Keeps.step State.stepSlice_keeps (by rfl) ?_
      exact Keeps.refl _
  · refine Keeps.ite ?_ ?_
    · refine Keeps.ite ?_ ?_
      · refine Keeps.step State.modSlice_keeps (by rfl) ?_
        exact Keeps.refl _
      · refine Keeps.ite ?_ ?_
        · refine Keeps.step State.modSlice_keeps (by rfl) ?_
          exact Keeps.refl _
        · exact Keeps.refl _
    · split
      · split
        · refine Keeps.step State.modSlice_keeps (by rfl) ?_
          exact Keeps.refl _
        · refine Keeps.step State.stepSlice_keeps (by rfl) ?_
          exact Keeps.refl _
        · refine Keeps.step State.stepSlice_keeps (by rfl) ?_
          exact Keeps.refl _
        · refine Keeps.step State.switchLog_keeps (by rfl) ?_
          exact Keeps.refl _
      · refine Keeps.step State.sliceRefuse_keeps (by rfl) ?_
        exact Keeps.refl _

theorem State.endJob_keeps {s : State} {n : Nat} {j : Job} {tag : Option (List Byte)} {refused : Option Nat} {ok :
    Bool} :
    Keeps (mask [.rep, .hearth, .slices, .msix, .out, .page .hst,
        .page .slc]) s (State.endJob s n j tag refused ok) := by
  unfold State.endJob
  extract_lets x1 x2 x3 x4
  have h1 : Keeps (mask [.rep, .hearth, .slices, .msix, .out, .page .hst, .page .slc]) s x1 := by
    unfold x1
    refine Keeps.step State.modSlice_keeps (by rfl) ?_
    exact Keeps.refl _
  have h2 : Keeps (mask [.rep, .hearth, .slices, .msix, .out, .page .hst, .page .slc]) s x2 := by
    unfold x2
    refine Keeps.step State.endPieces_keeps (by rfl) ?_
    assumption
  clear_value x2
  clear_value x1
  split
  split
  extract_lets x5 x6 x7
  have h3 : Keeps (mask [.rep, .hearth, .slices, .msix, .out, .page .hst, .page .slc]) s x5 := by
    unfold x5
    refine Keeps.step State.gatedWrite_keeps (by rfl) ?_
    assumption
  have h4 : Keeps (mask [.rep, .hearth, .slices, .msix, .out, .page .hst, .page .slc]) s x6 := by
    unfold x6
    refine Keeps.step State.gatedWrite_keeps (by rfl) ?_
    assumption
  have h5 : Keeps (mask [.rep, .hearth, .slices, .msix, .out, .page .hst, .page .slc]) s x7 := by
    unfold x7
    refine Keeps.onlyIf ?_ ?_
    · intro u1
      refine Keeps.step State.count_keeps (by rfl) ?_
      exact Keeps.refl _
    · assumption
  clear_value x7
  clear_value x6
  clear_value x5
  refine Keeps.step State.completion_keeps (by rfl) ?_
  refine Keeps.step State.countJob_keeps (by rfl) ?_
  assumption

theorem State.endOld_keeps {s : State} {n : Nat} {sel : Job → Bool} :
    Keeps (mask [.rep, .hearth, .slices]) s (State.endOld s n sel) := by
  unfold State.endOld
  extract_lets x1 x2 x3 x4
  have h1 : Keeps (mask [.rep, .hearth, .slices]) s x4 := by
    unfold x4
    refine Keeps.step State.modSlice_keeps (by rfl) ?_
    exact Keeps.refl _
  clear_value x4
  refine Keeps.step State.resetDone_keeps (by rfl) ?_
  refine Keeps.step State.endPieces_keeps (by rfl) ?_
  refine Keeps.step State.count_keeps (by rfl) ?_
  assumption

theorem State.endPlain_keeps {s : State} {n : Nat} {d : Desc} {ok : Bool} :
    Keeps (mask [.rep, .slices, .msix, .out, .page .hst, .page .slc]) s (State.endPlain s n d ok) := by
  unfold State.endPlain
  refine Keeps.step State.completion_keeps (by rfl) ?_
  refine Keeps.step State.dropDesc_keeps (by rfl) ?_
  exact Keeps.refl _

theorem State.jobKey_keeps {s : State} {n : Nat} {d : Desc} {blob : Option (List Byte)} :
    KeepsP (mask [.sched, .rep, .vault]) s (State.jobKey s n d blob) := by
  unfold State.jobKey
  split
  · extract_lets x1 x2 x3
    refine KeepsP.mk ?_
    exact Keeps.refl _
  · extract_lets x1 x2
    refine KeepsP.ite ?_ ?_
    · refine KeepsP.mk ?_
      refine KeepsP.fst ?_
      refine KeepsP.step State.takeUse_keeps (by rfl) ?_
      exact Keeps.refl _
    · refine KeepsP.mk ?_
      exact Keeps.refl _
  · split
    · refine KeepsP.mk ?_
      exact Keeps.refl _
    · refine KeepsP.ite ?_ ?_
      · refine KeepsP.mk ?_
        exact Keeps.refl _
      · split
        · rename_i x1 e1
          have h1 : Keeps (mask [.sched, .rep, .vault]) s x1 := KeepsP.of_eq e1 (by
              refine KeepsP.step State.takeUse_keeps (by rfl) ?_
              exact Keeps.refl _
            )
          clear e1
          refine KeepsP.mk ?_
          assumption
        · rename_i x1 e1
          have h1 : Keeps (mask [.sched, .rep, .vault]) s x1 := KeepsP.of_eq e1 (by
              refine KeepsP.step State.takeUse_keeps (by rfl) ?_
              exact Keeps.refl _
            )
          clear e1
          refine KeepsP.mk ?_
          assumption
        · rename_i x1 e1
          have h1 : Keeps (mask [.sched, .rep, .vault]) s x1 := KeepsP.of_eq e1 (by
              refine KeepsP.step State.takeUse_keeps (by rfl) ?_
              exact Keeps.refl _
            )
          clear e1
          split
          · refine KeepsP.mk ?_
            assumption
          · refine KeepsP.mk ?_
            assumption

theorem State.refuseJob_keeps {s : State} {n : Nat} {d : Desc} {status : Nat} {ok : Bool} :
    Keeps (mask [.rep, .slices, .msix, .out, .page .hst, .page .slc]) s (State.refuseJob s n d status ok) := by
  unfold State.refuseJob
  refine Keeps.step State.completion_keeps (by rfl) ?_
  refine Keeps.step State.countJob_keeps (by rfl) ?_
  refine Keeps.step State.dropDesc_keeps (by rfl) ?_
  exact Keeps.refl _

theorem State.judgeJob_keeps {s : State} {n : Nat} {d : Desc} {blob : Option (List Byte)} {ok : Bool} :
    Keeps (mask [.sched, .rep, .vault, .slices, .msix, .out, .page .hst,
        .page .slc]) s (State.judgeJob s n d blob ok) := by
  unfold State.judgeJob
  refine Keeps.ite ?_ ?_
  · refine Keeps.step State.refuseJob_keeps (by rfl) ?_
    exact Keeps.refl _
  · refine Keeps.ite ?_ ?_
    · refine Keeps.step State.refuseJob_keeps (by rfl) ?_
      exact Keeps.refl _
    · refine Keeps.ite ?_ ?_
      · refine Keeps.step State.refuseJob_keeps (by rfl) ?_
        exact Keeps.refl _
      · split
        · rename_i x1 e1
          have h1 : Keeps (mask [.sched, .rep, .vault, .slices, .msix, .out, .page .hst,
              .page .slc]) s x1 := KeepsP.of_eq e1 (by
              refine KeepsP.step State.jobKey_keeps (by rfl) ?_
              exact Keeps.refl _
            )
          clear e1
          assumption
        · rename_i x1 y0 e1
          have h1 : Keeps (mask [.sched, .rep, .vault, .slices, .msix, .out, .page .hst,
              .page .slc]) s x1 := KeepsP.of_eq e1 (by
              refine KeepsP.step State.jobKey_keeps (by rfl) ?_
              exact Keeps.refl _
            )
          clear e1
          refine Keeps.step State.refuseJob_keeps (by rfl) ?_
          assumption
        · rename_i x1 y0 y1 e1
          have h1 : Keeps (mask [.sched, .rep, .vault, .slices, .msix, .out, .page .hst,
              .page .slc]) s x1 := KeepsP.of_eq e1 (by
              refine KeepsP.step State.jobKey_keeps (by rfl) ?_
              exact Keeps.refl _
            )
          clear e1
          refine Keeps.ite ?_ ?_
          · refine Keeps.step State.refuseJob_keeps (by rfl) ?_
            assumption
          · refine Keeps.ite ?_ ?_
            · refine Keeps.step State.refuseJob_keeps (by rfl) ?_
              assumption
            · refine Keeps.ite ?_ ?_
              · split
                · rename_i x2 e1
                  have h2 : Keeps (mask [.sched, .rep, .vault, .slices, .msix, .out, .page .hst,
                      .page .slc]) s x2 := KeepsP.of_eq e1 (by
                      refine KeepsP.step State.takeUse_keeps (by rfl) ?_
                      assumption
                    )
                  clear e1
                  assumption
                · rename_i x2 e1
                  have h2 : Keeps (mask [.sched, .rep, .vault, .slices, .msix, .out, .page .hst,
                      .page .slc]) s x2 := KeepsP.of_eq e1 (by
                      refine KeepsP.step State.takeUse_keeps (by rfl) ?_
                      assumption
                    )
                  clear e1
                  refine Keeps.step State.refuseJob_keeps (by rfl) ?_
                  assumption
                · rename_i x2 e1
                  have h2 : Keeps (mask [.sched, .rep, .vault, .slices, .msix, .out, .page .hst,
                      .page .slc]) s x2 := KeepsP.of_eq e1 (by
                      refine KeepsP.step State.takeUse_keeps (by rfl) ?_
                      assumption
                    )
                  clear e1
                  refine Keeps.step State.beginJob_keeps (by rfl) ?_
                  assumption
              · refine Keeps.step State.beginJob_keeps (by rfl) ?_
                assumption

theorem State.sliceLand_keeps {s : State} {n : Nat} {op : Nat} {cyc : Nat} :
    Keeps (mask [.sched, .rep, .slices]) s (State.sliceLand s n op cyc) := by
  unfold State.sliceLand
  refine Keeps.ite ?_ ?_
  · exact Keeps.refl _
  · extract_lets x1
    split
    · refine Keeps.step State.schedule_keeps (by rfl) ?_
      refine Keeps.step State.modSlice_keeps (by rfl) ?_
      exact Keeps.refl _
    · refine Keeps.step State.sliceRefuse_keeps (by rfl) ?_
      exact Keeps.refl _

theorem State.sliceCommand_keeps {s : State} {op : Nat} {cyc : Cyc} :
    Keeps (mask [.cycle, .sched, .rep, .slices, .page .dev]) s (State.sliceCommand s op cyc) := by
  unfold State.sliceCommand
  refine State.gate_keeps ?_ ?_ ?_
  · exact rfl
  · intro u1
    refine Keeps.step State.sliceLand_keeps (by rfl) ?_
    exact Keeps.refl _
  · refine Keeps.step State.at_keeps (by rfl) ?_
    exact Keeps.refl _

theorem State.slicePage_keeps {m : Nat} {z : State} {s : State} {n : Nat} {f : State → State} (hc : Covers m (mask
    [.page .dev]))
    (hf : ∀ u, Keeps m u (f u)) (h : Keeps m z s) :
    Keeps m z (State.slicePage s n f) := by
  unfold State.slicePage
  refine Keeps.trans h ?_
  refine State.gate_keeps ?_ ?_ ?_
  · exact hc.trans (n := mask [.page .dev]) (rfl)
  · intro u1
    refine Keeps.ite ?_ ?_
    · exact Keeps.refl _
    · refine Keeps.step (hf ..) (Nat.or_self _) ?_
      exact Keeps.refl _
  · exact Keeps.refl _

theorem State.sqDoorbell_keeps {s : State} {n : Nat} {q : Nat} {w : Word} :
    Keeps (mask [.page .slc]) s (State.sqDoorbell s n q w) := by
  unfold State.sqDoorbell
  split
  · with_reducible refine Keeps.step State.wr_keeps ?_ ?_
    · exact Covers.of_subset (l := [.page .slc]) (by simp)
    exact Keeps.refl _
  · refine Keeps.step State.wr_keeps (by rfl) ?_
    exact Keeps.refl _

theorem execSqDoorbell_keeps {n : SliceNo} {q : Fin 4} {w : Word} {s : State} :
    KeepsX (mask [.rep, .msix, .out, .page .dev, .page .slc]) s (execSqDoorbell n q w s) := by
  unfold execSqDoorbell
  refine KeepsX.done (by rfl) ?_
  refine State.slicePage_keeps ?_ ?_ ?_
  · exact rfl
  · intro u1
    refine Keeps.step State.sqDoorbell_keeps (by rfl) ?_
    exact Keeps.refl _
  · exact Keeps.refl _

theorem execCqDoorbell_keeps {n : SliceNo} {w : Word} {s : State} :
    KeepsX (mask [.rep, .msix, .out, .page .dev, .page .slc]) s (execCqDoorbell n w s) := by
  unfold execCqDoorbell
  refine KeepsX.done (by rfl) ?_
  refine State.slicePage_keeps ?_ ?_ ?_
  · exact rfl
  · intro u1
    refine Keeps.step State.wr_keeps (by rfl) ?_
    exact Keeps.refl _
  · exact Keeps.refl _

theorem execEqDoorbell_keeps {n : SliceNo} {w : Word} {s : State} :
    KeepsX (mask [.rep, .msix, .out, .page .dev, .page .slc]) s (execEqDoorbell n w s) := by
  unfold execEqDoorbell
  refine KeepsX.done (by rfl) ?_
  refine State.slicePage_keeps ?_ ?_ ?_
  · exact rfl
  · intro u1
    refine Keeps.step State.wr_keeps (by rfl) ?_
    exact Keeps.refl _
  · exact Keeps.refl _

theorem execDescriptorFetch_keeps {n : SliceNo} {descs : List (List Byte)} {s : State} :
    KeepsX (mask [.rep, .slices, .msix, .out, .page .slc]) s (execDescriptorFetch n descs s) := by
  unfold execDescriptorFetch
  refine KeepsX.done (by rfl) ?_
  refine Keeps.ite ?_ ?_
  · exact Keeps.refl _
  · split
    · exact Keeps.refl _
    · extract_lets x1 x2 x3 x4 x5
      have h1 : Keeps (mask [.rep, .slices, .msix, .out, .page .slc]) s x5 := by
        unfold x5
        refine Keeps.step State.modSlice_keeps (by rfl) ?_
        exact Keeps.refl _
      clear_value x5
      refine Keeps.step State.count_keeps (by rfl) ?_
      with_reducible refine Keeps.step State.wr_keeps ?_ ?_
      · exact Covers.of_subset (l := [.page .slc]) (by simp)
      assumption

theorem execJob_keeps {n : SliceNo} {q : Fin 4} {blob : Option (List Byte)} {cplOk : Bool} {s : State} :
    KeepsX (mask [.sched, .rep, .vault, .slices, .msix, .out, .page .hst,
        .page .slc]) s (execJob n q blob cplOk s) := by
  unfold execJob
  refine KeepsX.done (by rfl) ?_
  split
  · refine Keeps.ite ?_ ?_
    · exact Keeps.refl _
    · refine Keeps.step State.judgeJob_keeps (by rfl) ?_
      exact Keeps.refl _
  · exact Keeps.refl _

theorem execFence_keeps {n : SliceNo} {q : Fin 4} {cplOk : Bool} {s : State} :
    KeepsX (mask [.rep, .slices, .msix, .out, .page .hst, .page .slc]) s (execFence n q cplOk s) := by
  unfold execFence
  refine KeepsX.done (by rfl) ?_
  split
  · refine Keeps.ite ?_ ?_
    · refine Keeps.step State.endPlain_keeps (by rfl) ?_
      exact Keeps.refl _
    · exact Keeps.refl _
  · exact Keeps.refl _

theorem execNop_keeps {n : SliceNo} {q : Fin 4} {cplOk : Bool} {s : State} :
    KeepsX (mask [.rep, .slices, .msix, .out, .page .hst, .page .slc]) s (execNop n q cplOk s) := by
  unfold execNop
  refine KeepsX.done (by rfl) ?_
  split
  · refine Keeps.ite ?_ ?_
    · refine Keeps.step State.endPlain_keeps (by rfl) ?_
      exact Keeps.refl _
    · exact Keeps.refl _
  · exact Keeps.refl _

theorem execPieceDispatch_keeps {c : ChimneyNo} {k : StoveNo} {data : Option (List Byte)} {s : State} :
    KeepsX (mask [.rep, .chims, .hearth, .slices, .msix, .out]) s (execPieceDispatch c k data s) := by
  unfold execPieceDispatch
  refine KeepsX.done (by rfl) ?_
  refine Keeps.step State.dispatchPiece_keeps (by rfl) ?_
  exact Keeps.refl _

theorem execJobComplete_keeps {n : SliceNo} {id : Nat} {tag : Option (List Byte)} {refused : Option Nat} {cplOk :
    Bool} {s : State} :
    KeepsX (mask [.rep, .hearth, .slices, .msix, .out, .page .hst,
        .page .slc]) s (execJobComplete n id tag refused cplOk s) := by
  unfold execJobComplete
  refine KeepsX.done (by rfl) ?_
  split
  · refine Keeps.ite ?_ ?_
    · refine Keeps.step State.endJob_keeps (by rfl) ?_
      exact Keeps.refl _
    · exact Keeps.refl _
  · refine Keeps.ite ?_ ?_
    · refine Keeps.step State.endOld_keeps (by rfl) ?_
      exact Keeps.refl _
    · exact Keeps.refl _

theorem execCoalesceTimer_keeps {n : SliceNo} {s : State} :
    KeepsX (mask [.rep, .slices, .msix, .out]) s (execCoalesceTimer n s) := by
  unfold execCoalesceTimer
  extract_lets x1 x2
  refine KeepsX.done (by rfl) ?_
  refine Keeps.ite ?_ ?_
  · refine Keeps.step State.raiseVector_keeps (by rfl) ?_
    refine Keeps.step State.modSlice_keeps (by rfl) ?_
    exact Keeps.refl _
  · exact Keeps.refl _

theorem execJobWaitAlarm_keeps {n : SliceNo} {id : Nat} {s : State} :
    KeepsX (mask [.rep, .slices, .msix, .out, .page .hst, .page .slc]) s (execJobWaitAlarm n id s) := by
  unfold execJobWaitAlarm
  refine KeepsX.done (by rfl) ?_
  split
  · refine Keeps.ite ?_ ?_
    · refine Keeps.step State.ringEvent_keeps (by rfl) ?_
      refine Keeps.step State.modSlice_keeps (by rfl) ?_
      exact Keeps.refl _
    · exact Keeps.refl _
  · exact Keeps.refl _

theorem execBind_keeps {cyc : Cyc} {s : State} :
    KeepsX (mask [.cycle, .sched, .rep, .slices, .msix, .out, .page .dev]) s (execBind cyc s) := by
  unfold execBind
  refine KeepsX.done (by rfl) ?_
  refine Keeps.step State.sliceCommand_keeps (by rfl) ?_
  exact Keeps.refl _

theorem execSliceReset_keeps {cyc : Cyc} {s : State} :
    KeepsX (mask [.cycle, .sched, .rep, .slices, .msix, .out, .page .dev]) s (execSliceReset cyc s) := by
  unfold execSliceReset
  refine KeepsX.done (by rfl) ?_
  refine Keeps.step State.sliceCommand_keeps (by rfl) ?_
  exact Keeps.refl _

theorem execSliceRemove_keeps {cyc : Cyc} {s : State} :
    KeepsX (mask [.cycle, .sched, .rep, .slices, .msix, .out, .page .dev]) s (execSliceRemove cyc s) := by
  unfold execSliceRemove
  refine KeepsX.done (by rfl) ?_
  refine Keeps.step State.sliceCommand_keeps (by rfl) ?_
  exact Keeps.refl _

theorem execSliceResetDone_keeps {n : SliceNo} {s : State} :
    KeepsX (mask [.rep, .hearth, .slices, .msix, .out]) s (execSliceResetDone n s) := by
  unfold execSliceResetDone
  refine KeepsX.done (by rfl) ?_
  refine Keeps.ite ?_ ?_
  · exact Keeps.refl _
  · refine Keeps.step State.endOld_keeps (by rfl) ?_
    exact Keeps.refl _

theorem execSliceResetTimeout_keeps {n : SliceNo} {s : State} :
    KeepsX (mask [.rep, .slices, .msix, .out]) s (execSliceResetTimeout n s) := by
  unfold execSliceResetTimeout
  extract_lets x1
  refine KeepsX.done (by rfl) ?_
  refine Keeps.ite ?_ ?_
  · refine Keeps.step State.hstEvent_keeps (by rfl) ?_
    refine Keeps.step State.modSlice_keeps (by rfl) ?_
    exact Keeps.refl _
  · exact Keeps.refl _

theorem execDirtyRead_keeps {cyc : Cyc} {s : State} :
    KeepsX (mask [.cycle, .sched, .rep, .slices, .msix, .out, .page .dev]) s (execDirtyRead cyc s) := by
  unfold execDirtyRead
  refine KeepsX.done (by rfl) ?_
  refine Keeps.step State.sliceCommand_keeps (by rfl) ?_
  exact Keeps.refl _

theorem execDirtyCopyDone_keeps {n : SliceNo} {s : State} :
    KeepsX (mask [.rep, .slices, .msix, .out]) s (execDirtyCopyDone n s) := by
  unfold execDirtyCopyDone
  refine KeepsX.done (by rfl) ?_
  split
  · extract_lets x1
    have h1 : Keeps (mask [.rep, .slices, .msix, .out]) s x1 := by
      unfold x1
      refine Keeps.step State.modSlice_keeps (by rfl) ?_
      refine Keeps.step State.emit_keeps (by rfl) ?_
      refine Keeps.step State.emit_keeps (by rfl) ?_
      exact Keeps.refl _
    clear_value x1
    refine Keeps.step State.hstEvent_keeps (by rfl) ?_
    assumption
  · exact Keeps.refl _

end Sys2Proof.Machine
end

