-- ==== Sys2Proof/Laws/Modes.lean ====
section
/-! SUPPORT. What the operations of Machine/Modes.lean keep, and the parts of the state that they may change. -/

namespace Sys2Proof.Machine

open Sys2Proof

theorem State.modTamper_keeps {s : State} {f : Tamper → Tamper} :
    Keeps (mask [.tamper]) s (State.modTamper s f) := by
  unfold State.modTamper
  refine Keeps.step Keeps.set_tamper (by rfl) ?_
  exact Keeps.refl _

theorem State.modPwr_keeps {s : State} {f : Power → Power} :
    Keeps (mask [.pwr]) s (State.modPwr s f) := by
  unfold State.modPwr
  refine Keeps.step Keeps.set_pwr (by rfl) ?_
  exact Keeps.refl _

theorem State.endFlush_keeps {s : State} {n : Nat} :
    Keeps (mask [.rep, .page .evr]) s (State.endFlush s n) := by
  unfold State.endFlush
  split
  · exact Keeps.refl _
  · extract_lets x1 x2 x3 x4 x5 x6 x7 x8 x9 x10
    have h1 : Keeps (mask [.rep, .page .evr]) s x8 := by
      unfold x8
      refine Keeps.step Keeps.set_rep (by rfl) ?_
      exact Keeps.refl _
    have h2 : Keeps (mask [.rep, .page .evr]) s x9 := by
      unfold x9
      refine Keeps.step State.event_keeps (by rfl) ?_
      refine Keeps.step State.count_keeps (by rfl) ?_
      assumption
    have h3 : Keeps (mask [.rep, .page .evr]) s x10 := by
      unfold x10
      refine Keeps.ite ?_ ?_
      · assumption
      · refine Keeps.step State.event_keeps (by rfl) ?_
        refine Keeps.step State.count_keeps (by rfl) ?_
        refine Keeps.step State.bumpReg_keeps (by rfl) ?_
        assumption
    clear_value x10
    clear_value x9
    clear_value x8
    refine Keeps.ite ?_ ?_
    · refine Keeps.step State.startFlush_keeps (by rfl) ?_
      assumption
    · assumption

theorem State.belowInhibit_keeps {s : State} {flushed : Nat} :
    Keeps (mask [.rep, .pwr, .pair, .page .dev, .page .pwr, .page .evr,
        .page .flu]) s (State.belowInhibit s flushed) := by
  unfold State.belowInhibit
  extract_lets x1 x2
  have h1 : Keeps (mask [.rep, .pwr, .pair, .page .dev, .page .pwr, .page .evr, .page .flu]) s x1 := by
    unfold x1
    refine Keeps.step State.modPwr_keeps (by rfl) ?_
    refine Keeps.step State.wr_keeps (by rfl) ?_
    exact Keeps.refl _
  have h2 : Keeps (mask [.rep, .pwr, .pair, .page .dev, .page .pwr, .page .evr, .page .flu]) s x2 := by
    unfold x2
    refine Keeps.step State.endFlush_keeps (by rfl) ?_
    assumption
  clear_value x2
  clear_value x1
  refine Keeps.ite ?_ ?_
  · refine Keeps.step State.bumpReg_keeps (by rfl) ?_
    refine Keeps.step State.setMode_keeps (by rfl) ?_
    assumption
  · assumption

theorem State.bootRetry_keeps {s : State} :
    Keeps (mask [.pwr, .page .dev]) s (State.bootRetry s) := by
  unfold State.bootRetry
  refine Keeps.ite ?_ ?_
  · refine Keeps.step State.modPwr_keeps (by rfl) ?_
    refine Keeps.step State.wr_keeps (by rfl) ?_
    exact Keeps.refl _
  · exact Keeps.refl _

theorem State.emberNoted_keeps {s : State} :
    Keeps (mask [.pwr, .page .dev]) s (State.emberNoted s) := by
  unfold State.emberNoted
  refine Keeps.ite ?_ ?_
  · refine Keeps.step State.modPwr_keeps (by rfl) ?_
    refine Keeps.step State.wr_keeps (by rfl) ?_
    refine Keeps.step State.wr_keeps (by rfl) ?_
    exact Keeps.refl _
  · exact Keeps.refl _

theorem State.setCause_keeps {s : State} {kind : Nat} {trigger : Nat} :
    Keeps (mask [.page .dev]) s (State.setCause s kind trigger) := by
  unfold State.setCause
  refine Keeps.step State.wr_keeps (by rfl) ?_
  refine Keeps.step State.wr_keeps (by rfl) ?_
  exact Keeps.refl _

theorem State.setRails_keeps {s : State} {v : Nat} :
    Keeps (mask [.page .pwr]) s (State.setRails s v) := by
  unfold State.setRails
  refine Keeps.step State.wr_keeps (by rfl) ?_
  exact Keeps.refl _

theorem mapRegs_regsOk {f : RegKey → Word → Word} {m : List (RegKey × Word)} (h : mwf RegKey.lt resetWord m = true) :
    mwf RegKey.lt resetWord (mapRegs f m) = true := by
  unfold mapRegs
  induction m with
  | nil => rfl
  | cons e m ih =>
    obtain ⟨k, w⟩ := e
    simp only [mwf, Bool.and_eq_true, decide_eq_true_eq, List.all_eq_true] at h
    rw [List.map_cons]
    by_cases hw : f k w = resetWord k
    · rw [List.filter_cons_of_neg (by simpa using hw)]
      exact ih h.2
    · rw [List.filter_cons_of_pos (by simpa using hw)]
      simp only [mwf, Bool.and_eq_true, decide_eq_true_eq, List.all_eq_true]
      refine ⟨⟨hw, fun e he => ?_⟩, ih h.2⟩
      obtain ⟨y, hy, rfl⟩ := List.mem_map.mp (List.mem_filter.mp he).1
      exact h.1.2 y hy

set_option maxRecDepth 4096 in
theorem State.cleared_keeps {s : State} {warm : Bool} :
    Keeps (mask ([.tick, .cycle, .sched, .rep, .pwr, .lanes, .ports, .otn, .assocs, .fwd, .vault, .chims, .hearth, .kindle,
      .seals, .time, .slices, .msix, .pair, .tamper, .officer, .cages, .regions, .reinit, .asnBusy] ++ allPages)) s
      (s.cleared warm) where
  frame p hp := by cases p with
    | page p => cases p <;> exact absurd hp (by decide)
    | _ => first | exact absurd hp (by decide) | rfl
  pending := rfl
  keys := fun _ => AsnTable.empty_settled
  regs := fun h => by
    unfold State.regsOk State.cleared keptRegs
    dsimp only
    exact mapRegs_regsOk h
  fresh := Nat.le_refl _
  out := List.prefix_refl _

set_option maxRecDepth 4096 in
theorem State.coldReset_keeps {s : State} {trigger : Nat} :
    Keeps (mask ([.tick, .cycle, .sched, .rep, .pwr, .lanes, .ports, .otn, .assocs, .fwd, .vault, .chims, .hearth,
        .kindle, .seals, .time, .slices, .msix, .pair, .tamper, .officer, .cages, .regions, .reinit,
        .asnBusy] ++ allPages)) s (State.coldReset s trigger) := by
  unfold State.coldReset
  extract_lets x1
  refine Keeps.step State.emberNoted_keeps (by rfl) ?_
  refine Keeps.step State.setCause_keeps (by rfl) ?_
  refine Keeps.step State.setRails_keeps (by rfl) ?_
  refine Keeps.step State.cleared_keeps (by rfl) ?_
  refine Keeps.step State.otpCut_keeps (by rfl) ?_
  exact Keeps.refl _

theorem State.holdCheck_keeps {s : State} :
    Keeps (mask [.pwr, .pair, .page .dev, .page .flu]) s (State.holdCheck s) := by
  unfold State.holdCheck
  refine Keeps.ite ?_ ?_
  · refine Keeps.step State.modPwr_keeps (by rfl) ?_
    refine Keeps.step State.setMode_keeps (by rfl) ?_
    exact Keeps.refl _
  · exact Keeps.refl _

theorem State.logTamper_keeps {s : State} {e : Word × Word} :
    Keeps (mask [.rep, .tamper, .page .tmp]) s (State.logTamper s e) := by
  unfold State.logTamper
  refine Keeps.ite ?_ ?_
  · extract_lets x1
    have h1 : Keeps (mask [.rep, .tamper, .page .tmp]) s x1 := by
      unfold x1
      refine Keeps.step State.count_keeps (by rfl) ?_
      refine Keeps.step State.modTamper_keeps (by rfl) ?_
      exact Keeps.refl _
    clear_value x1
    refine Keeps.step State.wr_keeps (by rfl) ?_
    assumption
  · refine Keeps.step State.count_keeps (by rfl) ?_
    refine Keeps.step State.bumpReg_keeps (by rfl) ?_
    exact Keeps.refl _

set_option maxRecDepth 4096 in
theorem State.warmReset_keeps {s : State} {trigger : Nat} :
    Keeps (mask ([.tick, .cycle, .sched, .rep, .pwr, .lanes, .ports, .otn, .assocs, .fwd, .vault, .chims, .hearth,
        .kindle, .seals, .time, .slices, .msix, .pair, .tamper, .officer, .cages, .regions, .reinit,
        .asnBusy] ++ allPages)) s (State.warmReset s trigger) := by
  unfold State.warmReset
  extract_lets x1
  refine Keeps.step State.setCause_keeps (by rfl) ?_
  refine Keeps.step State.setRails_keeps (by rfl) ?_
  refine Keeps.step State.cleared_keeps (by rfl) ?_
  refine Keeps.step State.otpCut_keeps (by rfl) ?_
  exact Keeps.refl _

theorem State.landModeReq_keeps {s : State} {target : Nat} {cyc : Nat} :
    Keeps (mask [.sched, .page .dev]) s (State.landModeReq s target cyc) := by
  unfold State.landModeReq
  refine Keeps.ite ?_ ?_
  · refine Keeps.step State.putCopy_keeps (by rfl) ?_
    exact Keeps.refl _
  · refine Keeps.ite ?_ ?_
    · refine Keeps.step State.putCopy_keeps (by rfl) ?_
      exact Keeps.refl _
    · refine Keeps.step State.wr_keeps (by rfl) ?_
      exact Keeps.refl _

theorem State.modeRequest_keeps {s : State} {target : Nat} {cyc : Cyc} :
    Keeps (mask [.cycle, .sched, .page .dev]) s (State.modeRequest s target cyc) := by
  unfold State.modeRequest
  refine State.gate_keeps ?_ ?_ ?_
  · exact rfl
  · intro u1
    refine Keeps.step State.landModeReq_keeps (by rfl) ?_
    exact Keeps.refl _
  · refine Keeps.step State.at_keeps (by rfl) ?_
    exact Keeps.refl _

theorem State.railsEdge_keeps {s : State} {released : Bool} :
    Keeps (mask [.pwr, .page .pwr]) s (State.railsEdge s released) := by
  unfold State.railsEdge
  extract_lets x1
  have h1 : Keeps (mask [.pwr, .page .pwr]) s x1 := by
    unfold x1
    refine Keeps.step State.modPwr_keeps (by rfl) ?_
    exact Keeps.refl _
  clear_value x1
  refine Keeps.onlyIf ?_ ?_
  · intro u1
    refine Keeps.step State.wr_keeps (by rfl) ?_
    exact Keeps.refl _
  · assumption

theorem State.zeroVault_keeps {s : State} :
    Keeps (mask [.vault]) s (State.zeroVault s) := by
  unfold State.zeroVault
  refine Keeps.step Keeps.set_vault (by rfl) ?_
  exact Keeps.refl _

theorem State.quench_keeps {s : State} :
    Keeps (mask [.sched, .rep, .pwr, .vault, .hearth, .kindle, .seals, .pair, .officer, .regions, .reinit, .out,
        .page .dev, .page .kvt, .page .flu, .page .cxm]) s (State.quench s) := by
  unfold State.quench
  refine Keeps.ite ?_ ?_
  · refine Keeps.step State.zeroVault_keeps (by rfl) ?_
    exact Keeps.refl _
  · refine Keeps.ite ?_ ?_
    · exact Keeps.refl _
    · extract_lets x1 x2 x3 x4 x5 x6 x7 x8 x9
      have h1 : Keeps (mask
  [.sched, .rep, .pwr, .vault, .hearth, .kindle, .seals, .pair, .officer,
    Part.regions, .reinit, .out, .page .dev, .page .kvt, .page .flu, .page .cxm]) s x1 := by
        unfold x1
        refine Keeps.ite ?_ ?_
        · exact Keeps.refl _
        · refine Keeps.step State.setMode_keeps (by rfl) ?_
          exact Keeps.refl _
      have h2 : Keeps (mask
  [.sched, .rep, .pwr, .vault, .hearth, .kindle, .seals, .pair, .officer,
    Part.regions, .reinit, .out, .page .dev, .page .kvt, .page .flu, .page .cxm]) s x2 := by
        unfold x2
        split
        · refine Keeps.step State.vaultEnd_keeps (by rfl) ?_
          assumption
        · assumption
      have h3 : Keeps (mask
  [.sched, .rep, .pwr, .vault, .hearth, .kindle, .seals, .pair, .officer,
    Part.regions, .reinit, .out, .page .dev, .page .kvt, .page .flu, .page .cxm]) s x4 := by
        unfold x4
        refine Keeps.forL ?_ ?_
        · intro b1 u1
          refine Keeps.step State.vaultEnd_keeps (by rfl) ?_
          exact Keeps.refl _
        · refine Keeps.step Keeps.set_vault (by rfl) ?_
          assumption
      have h4 : Keeps (mask
  [.sched, .rep, .pwr, .vault, .hearth, .kindle, .seals, .pair, .officer,
    Part.regions, .reinit, .out, .page .dev, .page .kvt, .page .flu, .page .cxm]) s x5 := by
        unfold x5
        refine Keeps.step State.zeroVault_keeps (by rfl) ?_
        assumption
      have h5 : Keeps (mask
  [.sched, .rep, .pwr, .vault, .hearth, .kindle, .seals, .pair, .officer,
    Part.regions, .reinit, .out, .page .dev, .page .kvt, .page .flu, .page .cxm]) s x7 := by
        unfold x7
        refine Keeps.step Keeps.set_pwr_hearth_kindle_seals_regions_reinit (by rfl) ?_
        assumption
      have h6 : Keeps (mask
  [.sched, .rep, .pwr, .vault, .hearth, .kindle, .seals, .pair, .officer,
    Part.regions, .reinit, .out, .page .dev, .page .kvt, .page .flu, .page .cxm]) s x8 := by
        unfold x8
        refine Keeps.forN ?_ ?_
        · intro b1 u1
          refine Keeps.step State.wr_keeps (by rfl) ?_
          exact Keeps.refl _
        · assumption
      have h7 : Keeps (mask
  [.sched, .rep, .pwr, .vault, .hearth, .kindle, .seals, .pair, .officer,
    Part.regions, .reinit, .out, .page .dev, .page .kvt, .page .flu, .page .cxm]) s x9 := by
        unfold x9
        refine Keeps.forN ?_ ?_
        · intro b1 u1
          with_reducible refine Keeps.step State.setWord_keeps ?_ ?_
          · exact Covers.of_subset (l := [.page .cxm]) (by simp)
          exact Keeps.refl _
        · assumption
      clear_value x9
      clear_value x8
      clear_value x7
      clear_value x5
      clear_value x4
      clear_value x2
      clear_value x1
      refine Keeps.step State.schedule_keeps (by rfl) ?_
      refine Keeps.step State.wr_keeps (by rfl) ?_
      assumption

theorem State.quenchCut_keeps {s : State} :
    Keeps (mask [.rep, .tamper, .fresh, .page .tmp]) s (State.quenchCut s) := by
  unfold State.quenchCut
  refine Keeps.ite ?_ ?_
  · refine Keeps.step State.logTamper_keeps (by rfl) ?_
    refine Keeps.step State.burn_keeps (by rfl) ?_
    exact Keeps.refl _
  · exact Keeps.refl _

theorem State.runImage_keeps {s : State} {result : Nat} {i : SlotImage} :
    Keeps (mask [.rep, .pwr, .chims, .fresh, .page .dev, .page .chm, .page .stv]) s (State.runImage s result i) := by
  unfold State.runImage
  extract_lets x1 x2
  have h1 : Keeps (mask [.rep, .pwr, .chims, .fresh, .page .dev, .page .chm, .page .stv]) s x1 := by
    unfold x1
    refine Keeps.step State.wr_keeps (by rfl) ?_
    refine Keeps.step State.wr_keeps (by rfl) ?_
    exact Keeps.refl _
  have h2 : Keeps (mask [.rep, .pwr, .chims, .fresh, .page .dev, .page .chm, .page .stv]) s x2 := by
    unfold x2
    refine Keeps.step State.modPwr_keeps (by rfl) ?_
    assumption
  clear_value x2
  clear_value x1
  refine Keeps.forN ?_ ?_
  · intro b1 u1
    extract_lets x3
    have h3 : Keeps (mask [.rep, .pwr, .chims, .fresh, .page .dev, .page .chm, .page .stv]) u1 x3 := by
      unfold x3
      refine Keeps.step State.wr_keeps (by rfl) ?_
      refine Keeps.step State.wr_keeps (by rfl) ?_
      exact Keeps.refl _
    clear_value x3
    refine Keeps.step State.stvBringUp_keeps (by rfl) ?_
    refine Keeps.step State.modChim_keeps (by rfl) ?_
    assumption
  · assumption

theorem execModeReqRun_keeps {cyc : Cyc} {s : State} :
    KeepsX (mask [.cycle, .sched, .rep, .msix, .out, .page .dev]) s (execModeReqRun cyc s) := by
  unfold execModeReqRun
  refine KeepsX.done (by rfl) ?_
  refine Keeps.step State.modeRequest_keeps (by rfl) ?_
  exact Keeps.refl _

theorem execModeReqOfficer_keeps {cyc : Cyc} {s : State} :
    KeepsX (mask [.cycle, .sched, .rep, .msix, .out, .page .dev]) s (execModeReqOfficer cyc s) := by
  unfold execModeReqOfficer
  refine KeepsX.done (by rfl) ?_
  refine Keeps.step State.modeRequest_keeps (by rfl) ?_
  exact Keeps.refl _

theorem execModeReqSelfTest_keeps {cyc : Cyc} {s : State} :
    KeepsX (mask [.cycle, .sched, .rep, .msix, .out, .page .dev]) s (execModeReqSelfTest cyc s) := by
  unfold execModeReqSelfTest
  refine KeepsX.done (by rfl) ?_
  refine Keeps.step State.modeRequest_keeps (by rfl) ?_
  exact Keeps.refl _

theorem execModeReqKindling_keeps {cyc : Cyc} {s : State} :
    KeepsX (mask [.cycle, .sched, .rep, .msix, .out, .page .dev]) s (execModeReqKindling cyc s) := by
  unfold execModeReqKindling
  refine KeepsX.done (by rfl) ?_
  refine Keeps.step State.modeRequest_keeps (by rfl) ?_
  exact Keeps.refl _

set_option maxRecDepth 4096 in
theorem execWarmReset_keeps {cause : WarmCause} {cyc : Cyc} {s : State} :
    KeepsX (mask ([.tick, .cycle, .sched, .rep, .pwr, .lanes, .ports, .otn, .assocs, .fwd, .vault, .chims, .hearth,
        .kindle, .seals, .time, .slices, .msix, .pair, .tamper, .officer, .cages, .regions, .reinit, .asnBusy,
        .out] ++ allPages)) s (execWarmReset cause cyc s) := by
  unfold execWarmReset
  refine KeepsX.done (by rfl) ?_
  split
  · refine State.gate_keeps ?_ ?_ ?_
    · exact rfl
    · intro u1
      refine Keeps.ite ?_ ?_
      · refine Keeps.step State.warmReset_keeps (by rfl) ?_
        exact Keeps.refl _
      · exact Keeps.refl _
    · refine Keeps.step State.at_keeps (by rfl) ?_
      exact Keeps.refl _
  · refine Keeps.ite ?_ ?_
    · refine Keeps.step State.warmReset_keeps (by rfl) ?_
      exact Keeps.refl _
    · exact Keeps.refl _

set_option maxRecDepth 4096 in
theorem State.clearHost_keeps {s : State} {p : RegKey × Word → Bool} {x : List Sched} {y : Msix} {z : Report} :
    Keeps (mask ([.sched, .rep, .msix] ++ allPages)) s
      { s with regs := s.regs.filter p, sched := x, msix := y, rep := z } where
  frame p hp := by cases p with
    | page p => cases p <;> exact absurd hp (by decide)
    | _ => first | exact absurd hp (by decide) | rfl
  pending := rfl
  keys := id
  regs := mwf_filter _
  fresh := Nat.le_refl _
  out := List.prefix_refl _

set_option maxRecDepth 4096 in
theorem State.hostReset_keeps {s : State} {trigger : Nat} :
    Keeps (mask ([.sched, .rep, .msix] ++ allPages)) s (s.hostReset trigger) := by
  unfold State.hostReset
  extract_lets host isHost bound r t u
  have ht : Keeps (mask ([.sched, .rep, .msix] ++ allPages)) s t := State.clearHost_keeps
  have hu : Keeps (mask ([.sched, .rep, .msix] ++ allPages)) s u := by
    refine Keeps.forL ?_ ht
    intro a v
    exact Keeps.step State.schedule_keeps rfl (Keeps.refl _)
  clear_value t u
  exact Keeps.step State.setCause_keeps rfl (Keeps.step State.wr_keeps rfl (Keeps.step State.wr_keeps rfl hu))

set_option maxRecDepth 4096 in
theorem execHostReset_keeps {cause : HostCause} {cyc : Cyc} {s : State} :
    KeepsX (mask ([.cycle, .sched, .rep, .msix, .out] ++ allPages)) s (execHostReset cause cyc s) := by
  unfold execHostReset
  extract_lets x1
  have h1 : Keeps (mask ([.cycle, .sched, .rep, .msix, .out] ++ allPages)) s x1 := by
    unfold x1
    refine Keeps.step State.at_keeps (by rfl) ?_
    exact Keeps.refl _
  clear_value x1
  refine KeepsX.done (by rfl) ?_
  refine Keeps.ite ?_ ?_
  · assumption
  · split
    · refine Keeps.step State.hostReset_keeps (by rfl) ?_
      assumption
    · refine Keeps.step State.hostReset_keeps (by rfl) ?_
      assumption
    · refine Keeps.step State.hostReset_keeps (by rfl) ?_
      assumption
    · refine State.gate_keeps ?_ ?_ ?_
      · exact rfl
      · intro u1
        refine Keeps.ite ?_ ?_
        · refine Keeps.step State.hostReset_keeps (by rfl) ?_
          exact Keeps.refl _
        · exact Keeps.refl _
      · assumption

set_option maxRecDepth 4096 in
theorem execColdReset_keeps {cause : ColdCause} {s : State} :
    KeepsX (mask ([.tick, .cycle, .sched, .rep, .pwr, .lanes, .ports, .otn, .assocs, .fwd, .vault, .chims, .hearth,
        .kindle, .seals, .time, .slices, .msix, .pair, .tamper, .officer, .cages, .regions, .reinit, .asnBusy,
        .fresh, .out] ++ allPages)) s (execColdReset cause s) := by
  unfold execColdReset
  refine KeepsX.done (by rfl) ?_
  refine Keeps.ite ?_ ?_
  · exact Keeps.refl _
  · split
    · refine Keeps.step State.coldReset_keeps (by rfl) ?_
      exact Keeps.refl _
    · refine Keeps.step State.coldReset_keeps (by rfl) ?_
      exact Keeps.refl _
    · refine Keeps.step State.wr_keeps (by rfl) ?_
      refine Keeps.step State.coldReset_keeps (by rfl) ?_
      refine Keeps.step State.quenchCut_keeps (by rfl) ?_
      exact Keeps.refl _

theorem execResetRelease_keeps {r : ReleaseIn} {esOk : Bool} {side : Bool} {s : State} :
    KeepsX (mask [.rep, .pwr, .vault, .msix, .pair, .fresh, .out, .page .dev, .page .pwr, .page .kvt,
        .page .flu]) s (execResetRelease r esOk side s) := by
  unfold execResetRelease
  refine KeepsX.done (by rfl) ?_
  refine Keeps.ite ?_ ?_
  · extract_lets x1 x2 x3 x4 x5
    have h1 : Keeps (mask
  [.rep, .pwr, .vault, .msix, .pair, .fresh, .out, .page .dev, .page .pwr,
    .page .kvt, .page .flu]) s x2 := by
      unfold x2
      refine Keeps.step State.setRails_keeps (by rfl) ?_
      refine Keeps.step State.emberNoted_keeps (by rfl) ?_
      exact Keeps.refl _
    have h2 : Keeps (mask
  [.rep, .pwr, .vault, .msix, .pair, .fresh, .out, .page .dev, .page .pwr,
    .page .kvt, .page .flu]) s x3 := by
      unfold x3
      refine Keeps.step State.wr_keeps (by rfl) ?_
      refine Keeps.step State.wr_keeps (by rfl) ?_
      refine Keeps.step State.setMode_keeps (by rfl) ?_
      assumption
    have h3 : Keeps (mask
  [.rep, .pwr, .vault, .msix, .pair, .fresh, .out, .page .dev, .page .pwr,
    .page .kvt, .page .flu]) s x4 := by
      unfold x4
      refine Keeps.onlyIf ?_ ?_
      · intro u1
        refine Keeps.step State.seedDevice_keeps (by rfl) ?_
        exact Keeps.refl _
      · refine Keeps.step State.wr_keeps (by rfl) ?_
        assumption
    clear_value x4
    clear_value x3
    clear_value x2
    refine Keeps.step Keeps.set_pair (by rfl) ?_
    assumption
  · exact Keeps.refl _

theorem execBootComplete_keeps {a : SlotImage} {b : SlotImage} {s : State} :
    KeepsX (mask [.rep, .pwr, .chims, .msix, .fresh, .out, .page .dev, .page .chm,
        .page .stv]) s (execBootComplete a b s) := by
  unfold execBootComplete
  refine KeepsX.done (by rfl) ?_
  refine Keeps.ite ?_ ?_
  · exact Keeps.refl _
  · split
    · refine Keeps.step State.runImage_keeps (by rfl) ?_
      exact Keeps.refl _
    · refine Keeps.step State.modPwr_keeps (by rfl) ?_
      refine Keeps.step State.wr_keeps (by rfl) ?_
      exact Keeps.refl _

theorem execBootRetry_keeps {cyc : Cyc} {s : State} :
    KeepsX (mask [.cycle, .rep, .pwr, .msix, .out, .page .dev]) s (execBootRetry cyc s) := by
  unfold execBootRetry
  refine KeepsX.done (by rfl) ?_
  refine State.gate_keeps ?_ ?_ ?_
  · exact rfl
  · intro u1
    refine Keeps.step State.bootRetry_keeps (by rfl) ?_
    exact Keeps.refl _
  · refine Keeps.step State.at_keeps (by rfl) ?_
    exact Keeps.refl _

theorem execRailBelowInhibit_keeps {flushed : Nat} {s : State} :
    KeepsX (mask [.rep, .pwr, .msix, .pair, .out, .page .dev, .page .pwr, .page .evr,
        .page .flu]) s (execRailBelowInhibit flushed s) := by
  unfold execRailBelowInhibit
  refine KeepsX.done (by rfl) ?_
  refine Keeps.ite ?_ ?_
  · exact Keeps.refl _
  · refine Keeps.step State.belowInhibit_keeps (by rfl) ?_
    exact Keeps.refl _

set_option maxRecDepth 4096 in
theorem execRailsUp_keeps {rtc : Nat} {s : State} :
    KeepsX (mask ([.tick, .cycle, .sched, .rep, .pwr, .lanes, .ports, .otn, .assocs, .fwd, .vault, .chims, .hearth,
        .kindle, .seals, .time, .slices, .msix, .pair, .tamper, .officer, .cages, .regions, .reinit, .asnBusy,
        .out] ++ allPages)) s (execRailsUp rtc s) := by
  unfold execRailsUp
  refine KeepsX.done (by rfl) ?_
  refine Keeps.ite ?_ ?_
  · extract_lets x1 x2
    have h1 : Keeps (mask
  ([.tick, .cycle, .sched, .rep, .pwr, .lanes, .ports, .otn, .assocs, .fwd,
      Part.vault, .chims, .hearth, .kindle, .seals, .time, .slices, .msix, .pair,
      Part.tamper, .officer, .cages, .regions, .reinit, .asnBusy, .out] ++
    allPages)) s x2 := by
      unfold x2
      refine Keeps.step Keeps.set_tamper (by rfl) ?_
      exact Keeps.refl _
    clear_value x2
    refine Keeps.step State.setRails_keeps (by rfl) ?_
    refine Keeps.step State.wr_keeps (by rfl) ?_
    refine Keeps.step State.coldReset_keeps (by rfl) ?_
    assumption
  · exact Keeps.refl _

theorem execQuench_keeps {cause : QuenchCause} {cyc : Cyc} {s : State} :
    KeepsX (mask [.cycle, .sched, .rep, .pwr, .vault, .hearth, .kindle, .seals, .msix, .pair, .officer, .regions,
        .reinit, .out, .page .dev, .page .kvt, .page .flu, .page .cxm]) s (execQuench cause cyc s) := by
  unfold execQuench
  extract_lets x1
  have h1 : Keeps (mask
  [.cycle, .sched, .rep, .pwr, .vault, .hearth, .kindle, .seals, .msix, .pair,
    Part.officer, .regions, .reinit, .out, .page .dev, .page .kvt, .page .flu,
    .page .cxm]) s x1 := by
    unfold x1
    refine Keeps.step State.at_keeps (by rfl) ?_
    exact Keeps.refl _
  clear_value x1
  refine KeepsX.done (by rfl) ?_
  split
  · refine State.gate_keeps ?_ ?_ ?_
    · exact rfl
    · intro u1
      refine Keeps.ite ?_ ?_
      · refine Keeps.step State.quench_keeps (by rfl) ?_
        exact Keeps.refl _
      · exact Keeps.refl _
    · assumption
  · refine Keeps.step State.quench_keeps (by rfl) ?_
    assumption

theorem execSelfTestComplete_keeps {s : State} :
    KeepsX (mask [.rep, .pwr, .msix, .pair, .out, .page .dev, .page .flu]) s (execSelfTestComplete s) := by
  unfold execSelfTestComplete
  refine KeepsX.done (by rfl) ?_
  refine Keeps.ite ?_ ?_
  · refine Keeps.step State.holdCheck_keeps (by rfl) ?_
    refine Keeps.step State.setMode_keeps (by rfl) ?_
    exact Keeps.refl _
  · exact Keeps.refl _

theorem execSramZeroingDone_keeps {s : State} :
    KeepsX (mask [.rep, .pwr, .msix, .out]) s (execSramZeroingDone s) := by
  unfold execSramZeroingDone
  refine KeepsX.done (by rfl) ?_
  refine Keeps.ite ?_ ?_
  · exact Keeps.refl _
  · refine Keeps.step State.modPwr_keeps (by rfl) ?_
    exact Keeps.refl _

theorem execBrownoutExit_keeps {s : State} :
    KeepsX (mask [.rep, .pwr, .msix, .pair, .out, .page .dev, .page .pwr, .page .flu]) s (execBrownoutExit s) := by
  unfold execBrownoutExit
  refine KeepsX.done (by rfl) ?_
  refine Keeps.ite ?_ ?_
  · refine Keeps.step State.holdCheck_keeps (by rfl) ?_
    refine Keeps.step State.setMode_keeps (by rfl) ?_
    refine Keeps.step State.wr_keeps (by rfl) ?_
    exact Keeps.refl _
  · exact Keeps.refl _

theorem execColdGuardEntry_keeps {s : State} :
    KeepsX (mask [.rep, .msix, .pair, .out, .page .dev, .page .pwr, .page .flu]) s (execColdGuardEntry s) := by
  unfold execColdGuardEntry
  refine KeepsX.done (by rfl) ?_
  refine Keeps.ite ?_ ?_
  · refine Keeps.step State.setMode_keeps (by rfl) ?_
    refine Keeps.step State.setRails_keeps (by rfl) ?_
    exact Keeps.refl _
  · exact Keeps.refl _

set_option maxRecDepth 4096 in
theorem State.loseEmber_keeps {s : State} : Keeps (mask ([.pwr, .vault, .tamper] ++ allPages)) s s.loseEmber where
  frame p hp := by cases p with
    | page p => cases p <;> exact absurd hp (by decide)
    | _ => first | exact absurd hp (by decide) | rfl
  pending := rfl
  keys := id
  regs := fun h => by
    unfold State.regsOk State.loseEmber
    dsimp only
    exact mapRegs_regsOk h
  fresh := Nat.le_refl _
  out := List.prefix_refl _

set_option maxRecDepth 4096 in
theorem execEmberLoss_keeps {s : State} :
    KeepsX (mask ([.rep, .pwr, .vault, .msix, .tamper, .out] ++ allPages)) s (execEmberLoss s) := by
  unfold execEmberLoss
  refine KeepsX.done (by rfl) ?_
  refine Keeps.ite ?_ ?_
  · refine Keeps.step State.loseEmber_keeps (by rfl) ?_
    exact Keeps.refl _
  · exact Keeps.refl _

theorem execPowerFailWarning_keeps {s : State} :
    KeepsX (mask [.rep, .pwr, .msix, .out, .page .pwr]) s (execPowerFailWarning s) := by
  unfold execPowerFailWarning
  refine KeepsX.done (by rfl) ?_
  refine Keeps.ite ?_ ?_
  · exact Keeps.refl _
  · extract_lets x1
    have h1 : Keeps (mask [.rep, .pwr, .msix, .out, .page .pwr]) s x1 := by
      unfold x1
      refine Keeps.step State.startFlush_keeps (by rfl) ?_
      refine Keeps.step State.bumpReg_keeps (by rfl) ?_
      refine Keeps.step State.wr_keeps (by rfl) ?_
      exact Keeps.refl _
    clear_value x1
    refine Keeps.step State.modPwr_keeps (by rfl) ?_
    assumption

theorem execQuenchSweepDone_keeps {s : State} :
    KeepsX (mask [.rep, .pwr, .assocs, .msix, .out, .page .asn]) s (execQuenchSweepDone s) := by
  unfold execQuenchSweepDone
  refine KeepsX.done (by rfl) ?_
  refine Keeps.ite ?_ ?_
  · refine Keeps.step State.sweepDone_keeps (by rfl) ?_
    exact Keeps.refl _
  · exact Keeps.refl _

theorem execQuenchComplete_keeps {s : State} :
    KeepsX (mask [.rep, .pwr, .msix, .pair, .out, .page .dev, .page .flu]) s (execQuenchComplete s) := by
  unfold execQuenchComplete
  extract_lets x1
  refine KeepsX.done (by rfl) ?_
  refine Keeps.ite ?_ ?_
  · refine Keeps.step State.modPwr_keeps (by rfl) ?_
    refine Keeps.step State.setMode_keeps (by rfl) ?_
    exact Keeps.refl _
  · exact Keeps.refl _

end Sys2Proof.Machine
end

