-- ==== Sys2Proof/Laws/Chassis.lean ====
section
/-! SUPPORT. What the operations of Machine/Chassis.lean keep, and the parts of the state that they may change. -/

namespace Sys2Proof.Machine

open Sys2Proof

theorem State.modOfc_keeps {s : State} {f : Officer → Officer} :
    Keeps (mask [.officer]) s (State.modOfc s f) := by
  unfold State.modOfc
  refine Keeps.step Keeps.set_officer (by rfl) ?_
  exact Keeps.refl _

theorem State.endSession_keeps {s : State} :
    Keeps (mask [.officer, .page .ofc]) s (State.endSession s) := by
  unfold State.endSession
  refine Keeps.step State.modOfc_keeps (by rfl) ?_
  refine Keeps.step State.wr_keeps (by rfl) ?_
  exact Keeps.refl _

theorem State.lockOfficer_keeps {s : State} :
    Keeps (mask [.officer, .page .ofc]) s (State.lockOfficer s) := by
  unfold State.lockOfficer
  extract_lets x1 x2
  have h1 : Keeps (mask [.officer, .page .ofc]) s x2 := by
    unfold x2
    refine Keeps.step State.endSession_keeps (by rfl) ?_
    exact Keeps.refl _
  clear_value x2
  refine Keeps.ite ?_ ?_
  · assumption
  · refine Keeps.step State.wr_keeps (by rfl) ?_
    assumption

theorem State.applyDeferred_keeps {s : State} :
    Keeps (mask [.rep, .tamper, .officer, .page .ofc]) s (State.applyDeferred s) := by
  unfold State.applyDeferred
  extract_lets x1 x2 x3 x4 x5
  have h1 : Keeps (mask [.rep, .tamper, .officer, .page .ofc]) s x3 := by
    unfold x3
    refine Keeps.step State.count_keeps (by rfl) ?_
    exact Keeps.refl _
  have h2 : Keeps (mask [.rep, .tamper, .officer, .page .ofc]) s x4 := by
    unfold x4
    refine Keeps.onlyIf ?_ ?_
    · intro u1
      refine Keeps.step State.modTamper_keeps (by rfl) ?_
      exact Keeps.refl _
    · assumption
  have h3 : Keeps (mask [.rep, .tamper, .officer, .page .ofc]) s x5 := by
    unfold x5
    refine Keeps.onlyIf ?_ ?_
    · intro u1
      refine Keeps.step State.lockOfficer_keeps (by rfl) ?_
      exact Keeps.refl _
    · assumption
  clear_value x5
  clear_value x4
  clear_value x3
  refine Keeps.onlyIf ?_ ?_
  · intro u1
    refine Keeps.step State.modTamper_keeps (by rfl) ?_
    exact Keeps.refl _
  · assumption

theorem State.tamperFire_keeps {s : State} {src : Nat} :
    Keeps (mask [.rep, .tamper]) s (State.tamperFire s src) := by
  unfold State.tamperFire
  extract_lets x1 x2 x3
  have h1 : Keeps (mask [.rep, .tamper]) s x2 := by
    unfold x2
    refine Keeps.step State.modTamper_keeps (by rfl) ?_
    exact Keeps.refl _
  have h2 : Keeps (mask [.rep, .tamper]) s x3 := by
    unfold x3
    refine Keeps.step State.wrEvt_keeps (by rfl) ?_
    refine Keeps.step State.count_keeps (by rfl) ?_
    assumption
  clear_value x3
  clear_value x2
  refine Keeps.ite ?_ ?_
  · assumption
  · refine Keeps.ite ?_ ?_
    · refine Keeps.step State.wrEvt_keeps (by rfl) ?_
      assumption
    · refine Keeps.ite ?_ ?_
      · refine Keeps.step State.modTamper_keeps (by rfl) ?_
        assumption
      · refine Keeps.step State.modTamper_keeps (by rfl) ?_
        assumption

theorem State.authFail_keeps {s : State} :
    Keeps (mask [.rep, .tamper, .officer, .fresh, .out, .page .ofc]) s (State.authFail s) := by
  unfold State.authFail
  extract_lets x1 x2 x3
  have h1 : Keeps (mask [.rep, .tamper, .officer, .fresh, .out, .page .ofc]) s x2 := by
    unfold x2
    refine Keeps.step State.modOfc_keeps (by rfl) ?_
    refine Keeps.step State.event_keeps (by rfl) ?_
    refine Keeps.step State.count_keeps (by rfl) ?_
    exact Keeps.refl _
  have h2 : Keeps (mask [.rep, .tamper, .officer, .fresh, .out, .page .ofc]) s x3 := by
    unfold x3
    refine Keeps.step State.officerSend_keeps (by rfl) ?_
    refine Keeps.step State.burn_keeps (by rfl) ?_
    assumption
  clear_value x3
  clear_value x2
  refine Keeps.ite ?_ ?_
  · refine Keeps.step State.tamperFire_keeps (by rfl) ?_
    refine Keeps.step State.wr_keeps (by rfl) ?_
    assumption
  · refine Keeps.step State.wr_keeps (by rfl) ?_
    assumption

theorem State.authPass_keeps {s : State} {hash : List Byte} {ct : List Byte} :
    Keeps (mask [.rep, .officer, .out, .page .ofc]) s (State.authPass s hash ct) := by
  unfold State.authPass
  extract_lets x1 x2 x3 x4
  have h1 : Keeps (mask [.rep, .officer, .out, .page .ofc]) s x3 := by
    unfold x3
    refine Keeps.step State.wrWords_keeps (by rfl) ?_
    refine Keeps.step State.event_keeps (by rfl) ?_
    refine Keeps.step State.count_keeps (by rfl) ?_
    exact Keeps.refl _
  have h2 : Keeps (mask [.rep, .officer, .out, .page .ofc]) s x4 := by
    unfold x4
    refine Keeps.step State.modOfc_keeps (by rfl) ?_
    refine Keeps.step State.wr_keeps (by rfl) ?_
    refine Keeps.step State.wr_keeps (by rfl) ?_
    assumption
  clear_value x4
  clear_value x3
  refine Keeps.step State.officerResult_keeps (by rfl) ?_
  assumption

theorem State.tamperEdge_keeps {s : State} {pins : Nat} {sub : Nat} :
    Keeps (mask [.tamper]) s (State.tamperEdge s pins sub) := by
  unfold State.tamperEdge
  extract_lets x1
  refine Keeps.step State.modTamper_keeps (by rfl) ?_
  exact Keeps.refl _

theorem State.modCage_keeps {s : State} {b : Nat} {f : Cage → Cage} :
    Keeps (mask [.cages]) s (State.modCage s b f) := by
  unfold State.modCage
  refine Keeps.step Keeps.set_cages (by rfl) ?_
  exact Keeps.refl _

theorem State.modEvent_keeps {s : State} {f : Fld} {b : Nat} :
    Keeps (mask [.rep]) s (State.modEvent s f b) := by
  unfold State.modEvent
  refine Keeps.step State.event_keeps (by rfl) ?_
  refine Keeps.step State.wrEvt_keeps (by rfl) ?_
  refine Keeps.step State.wrEvt_keeps (by rfl) ?_
  exact Keeps.refl _

theorem State.endModCmd_keeps {s : State} {b : Nat} {result : Nat} :
    Keeps (mask [.rep, .cages, .page .mod]) s (State.endModCmd s b result) := by
  unfold State.endModCmd
  extract_lets x1
  have h1 : Keeps (mask [.rep, .cages, .page .mod]) s x1 := by
    unfold x1
    refine Keeps.step State.modCage_keeps (by rfl) ?_
    refine Keeps.step State.wr_keeps (by rfl) ?_
    refine Keeps.step State.wr_keeps (by rfl) ?_
    exact Keeps.refl _
  clear_value x1
  refine Keeps.onlyIf ?_ ?_
  · intro u1
    refine Keeps.step State.modEvent_keeps (by rfl) ?_
    refine Keeps.step State.count_keeps (by rfl) ?_
    exact Keeps.refl _
  · assumption

theorem State.enrol_keeps {s : State} {hash : List Byte} :
    Keeps (mask [.sched, .vault, .fresh]) s (State.enrol s hash) := by
  unfold State.enrol
  extract_lets x1 x2
  refine Keeps.step State.schedule_keeps (by rfl) ?_
  refine Keeps.step State.setSlot_keeps (by rfl) ?_
  refine Keeps.step State.burn_keeps (by rfl) ?_
  exact Keeps.refl _

theorem State.evidence_keeps {s : State} {src : Nat} {e : Word × Word} :
    Keeps (mask [.rep, .tamper, .page .tmp]) s (State.evidence s src e) := by
  unfold State.evidence
  refine Keeps.ite ?_ ?_
  · refine Keeps.step State.wr_keeps (by rfl) ?_
    exact Keeps.refl _
  · refine Keeps.step State.logTamper_keeps (by rfl) ?_
    exact Keeps.refl _

set_option maxRecDepth 4096 in
theorem State.haltEdge_keeps {s : State} :
    Keeps (mask ([.tick, .cycle, .sched, .rep, .pwr, .lanes, .ports, .otn, .assocs, .fwd, .vault, .chims, .hearth,
        .kindle, .seals, .time, .slices, .msix, .pair, .tamper, .officer, .cages, .regions, .reinit,
        .asnBusy] ++ allPages)) s (State.haltEdge s) := by
  unfold State.haltEdge
  split
  · exact Keeps.refl _
  · refine Keeps.ite ?_ ?_
    · refine Keeps.step State.warmReset_keeps (by rfl) ?_
      exact Keeps.refl _
    · refine Keeps.step State.wr_keeps (by rfl) ?_
      refine Keeps.step State.modPwr_keeps (by rfl) ?_
      refine Keeps.step State.modTamper_keeps (by rfl) ?_
      exact Keeps.refl _

theorem State.judgeResponse_keeps {s : State} :
    Keeps (mask [.sched, .rep, .vault, .tamper, .officer, .fresh, .out, .page .ofc]) s (State.judgeResponse s) := by
  unfold State.judgeResponse
  split
  · exact Keeps.refl _
  · extract_lets x1 x2 x3 x4
    refine Keeps.ite ?_ ?_
    · refine Keeps.step State.authFail_keeps (by rfl) ?_
      exact Keeps.refl _
    · refine Keeps.ite ?_ ?_
      · refine Keeps.ite ?_ ?_
        · refine Keeps.step State.authPass_keeps (by rfl) ?_
          refine Keeps.step State.enrol_keeps (by rfl) ?_
          exact Keeps.refl _
        · refine Keeps.step State.authFail_keeps (by rfl) ?_
          exact Keeps.refl _
      · split
        · refine Keeps.step State.authFail_keeps (by rfl) ?_
          exact Keeps.refl _
        · split
          · rename_i x5 e1
            have h1 : Keeps (mask [.sched, .rep, .vault, .tamper, .officer, .fresh, .out,
                .page .ofc]) s x5 := KeepsP.of_eq e1 (by
                refine KeepsP.step State.takeUse_keeps (by rfl) ?_
                exact Keeps.refl _
              )
            clear e1
            refine Keeps.step State.authPass_keeps (by rfl) ?_
            assumption
          · rename_i x5 e1
            have h1 : Keeps (mask [.sched, .rep, .vault, .tamper, .officer, .fresh, .out,
                .page .ofc]) s x5 := KeepsP.of_eq e1 (by
                refine KeepsP.step State.takeUse_keeps (by rfl) ?_
                exact Keeps.refl _
              )
            clear e1
            assumption
          · rename_i x5 e1
            have h1 : Keeps (mask [.sched, .rep, .vault, .tamper, .officer, .fresh, .out,
                .page .ofc]) s x5 := KeepsP.of_eq e1 (by
                refine KeepsP.step State.takeUse_keeps (by rfl) ?_
                exact Keeps.refl _
              )
            clear e1
            refine Keeps.step State.authFail_keeps (by rfl) ?_
            assumption

theorem State.landModCmd_keeps {s : State} {op : Nat} {len : Nat} {off : Nat} {page : Nat} {bank : Nat} :
    Keeps (mask [.rep, .cages, .out, .page .dev, .page .mod]) s (State.landModCmd s op len off page bank) := by
  unfold State.landModCmd
  refine State.gate_keeps ?_ ?_ ?_
  · exact rfl
  · intro u1
    extract_lets x1 x2 x3 x4 x5
    have h1 : Keeps (mask [.rep, .cages, .out, .page .dev, .page .mod]) u1 x3 := by
      unfold x3
      refine Keeps.onlyIf ?_ ?_
      · intro u2
        refine Keeps.step State.modCage_keeps (by rfl) ?_
        refine Keeps.step State.emit_keeps (by rfl) ?_
        exact Keeps.refl _
      · exact Keeps.refl _
    have h2 : Keeps (mask [.rep, .cages, .out, .page .dev, .page .mod]) u1 x5 := by
      unfold x5
      refine Keeps.step State.emit_keeps (by rfl) ?_
      assumption
    clear_value x5
    clear_value x3
    refine Keeps.ite ?_ ?_
    · exact Keeps.refl _
    · refine Keeps.ite ?_ ?_
      · refine Keeps.step State.wr_keeps (by rfl) ?_
        exact Keeps.refl _
      · refine Keeps.step State.modCage_keeps (by rfl) ?_
        refine Keeps.step State.wr_keeps (by rfl) ?_
        refine Keeps.step State.count_keeps (by rfl) ?_
        assumption
  · exact Keeps.refl _

theorem State.landTest_keeps {s : State} {src : Nat} {start : Bool} :
    Keeps (mask [.rep, .tamper, .page .tmp]) s (State.landTest s src start) := by
  unfold State.landTest
  refine Keeps.ite ?_ ?_
  · exact Keeps.refl _
  · refine Keeps.step State.modTamper_keeps (by rfl) ?_
    refine Keeps.step State.wr_keeps (by rfl) ?_
    refine Keeps.step State.count_keeps (by rfl) ?_
    exact Keeps.refl _

theorem State.tamperRecord_keeps {s : State} {src : Nat} {e : Word × Word} :
    Keeps (mask [.rep]) s (State.tamperRecord s src e) := by
  unfold State.tamperRecord
  refine Keeps.step State.raise_keeps (by rfl) ?_
  exact Keeps.refl _

theorem State.lateResponses_keeps {s : State} :
    Keeps (mask [.rep, .tamper]) s (State.lateResponses s) := by
  unfold State.lateResponses
  refine Keeps.ite ?_ ?_
  · extract_lets x1 x2 x3 x4
    have h1 : Keeps (mask [.rep, .tamper]) s x3 := by
      unfold x3
      refine Keeps.step State.modTamper_keeps (by rfl) ?_
      exact Keeps.refl _
    have h2 : Keeps (mask [.rep, .tamper]) s x4 := by
      unfold x4
      refine Keeps.onlyIf ?_ ?_
      · intro u1
        refine Keeps.step State.irq_keeps (by rfl) ?_
        exact Keeps.refl _
      · assumption
    clear_value x4
    clear_value x3
    refine Keeps.forL ?_ ?_
    · intro b1 u1
      refine Keeps.step State.tamperRecord_keeps (by rfl) ?_
      exact Keeps.refl _
    · assumption
  · exact Keeps.refl _

theorem State.officerRecv_keeps {m : Nat} {z : State} {s : State} {type : Nat} {m2 : OfcMsg} {f : List Byte → State →
    State} (hc : Covers m (mask [.rep, .officer, .out]))
    (hf : ∀ b0 u, Keeps m u (f b0 u)) (h : Keeps m z s) :
    Keeps m z (State.officerRecv s type m2 f) := by
  unfold State.officerRecv
  refine Keeps.trans h ?_
  refine Keeps.ite ?_ ?_
  · exact Keeps.refl _
  · extract_lets x1 x2 x3 x4 x5 x6 x7
    have h1 : Keeps (m) s x1 := by
      unfold x1
      with_reducible refine Keeps.step State.count_keeps ?_ ?_
      · exact hc.trans (n := mask [.rep, .officer, .out]) (rfl)
      exact Keeps.refl _
    have h2 : Keeps (m) s x2 := by
      unfold x2
      with_reducible refine Keeps.step State.modOfc_keeps ?_ ?_
      · exact hc.trans (n := mask [.rep, .officer, .out]) (rfl)
      assumption
    clear_value x2
    clear_value x1
    refine Keeps.ite ?_ ?_
    · with_reducible refine Keeps.step State.count_keeps ?_ ?_
      · exact hc.trans (n := mask [.rep, .officer, .out]) (rfl)
      assumption
    · refine Keeps.ite ?_ ?_
      · assumption
      · refine Keeps.ite ?_ ?_
        · with_reducible refine Keeps.step State.officerResult_keeps ?_ ?_
          · exact hc.trans (n := mask [.rep, .officer, .out]) (rfl)
          assumption
        · refine Keeps.ite ?_ ?_
          · refine Keeps.ite ?_ ?_
            · refine Keeps.step (hf ..) (Nat.or_self _) ?_
              assumption
            · assumption
          · refine Keeps.step (hf ..) (Nat.or_self _) ?_
            assumption

theorem State.onHello_keeps {s : State} {body : List Byte} :
    Keeps (mask [.vault, .officer, .fresh, .out]) s (State.onHello s body) := by
  unfold State.onHello
  refine Keeps.ite ?_ ?_
  · refine Keeps.step State.officerSend_keeps (by rfl) ?_
    refine Keeps.step State.burn_keeps (by rfl) ?_
    exact Keeps.refl _
  · split
    rename_i x1 y0 e1
    have h1 : Keeps (mask [.vault, .officer, .fresh, .out]) s x1 := KeepsP.of_eq e1 (by
        refine KeepsP.step State.draw_keeps (by rfl) ?_
        exact Keeps.refl _
      )
    clear e1
    split
    rename_i x2 y0 e1
    have h2 : Keeps (mask [.vault, .officer, .fresh, .out]) s x2 := KeepsP.of_eq e1 (by
        refine KeepsP.step State.draw_keeps (by rfl) ?_
        assumption
      )
    clear e1
    split
    extract_lets x3
    have h3 : Keeps (mask [.vault, .officer, .fresh, .out]) s x3 := by
      unfold x3
      refine Keeps.step State.modOfc_keeps (by rfl) ?_
      assumption
    clear_value x3
    refine Keeps.step State.officerSend_keeps (by rfl) ?_
    assumption

theorem State.tempEdge_keeps {s : State} {now : Byte} :
    Keeps (mask [.rep, .tamper, .page .tmp]) s (State.tempEdge s now) := by
  unfold State.tempEdge
  extract_lets x1 x2 x3 x4
  have h1 : Keeps (mask [.rep, .tamper, .page .tmp]) s x3 := by
    unfold x3
    refine Keeps.step State.modTamper_keeps (by rfl) ?_
    refine Keeps.step State.wr_keeps (by rfl) ?_
    exact Keeps.refl _
  have h2 : Keeps (mask [.rep, .tamper, .page .tmp]) s x4 := by
    unfold x4
    refine Keeps.onlyIf ?_ ?_
    · intro u1
      refine Keeps.step State.tamperFire_keeps (by rfl) ?_
      exact Keeps.refl _
    · assumption
  clear_value x4
  clear_value x3
  refine Keeps.onlyIf ?_ ?_
  · intro u1
    refine Keeps.step State.tamperFire_keeps (by rfl) ?_
    exact Keeps.refl _
  · assumption

set_option maxRecDepth 4096 in
theorem State.respond_keeps {s : State} {u : Nat} :
    Keeps (mask [.sched, .rep, .pwr, .vault, .hearth, .kindle, .seals, .pair, .tamper, .officer, .regions, .reinit,
        .out, .page .dev, .page .kvt, .page .ofc, .page .flu, .page .cxm]) s (State.respond s u) := by
  unfold State.respond
  extract_lets x1 x2 x3 x4
  have h1 : Keeps (mask
  [.sched, .rep, .pwr, .vault, .hearth, .kindle, .seals, .pair, .tamper,
    Part.officer, .regions, .reinit, .out, .page .dev, .page .kvt, .page .ofc,
    .page .flu, .page .cxm]) s x1 := by
    unfold x1
    refine Keeps.onlyIf ?_ ?_
    · intro u1
      refine Keeps.step State.quench_keeps (by rfl) ?_
      exact Keeps.refl _
    · exact Keeps.refl _
  have h2 : Keeps (mask
  [.sched, .rep, .pwr, .vault, .hearth, .kindle, .seals, .pair, .tamper,
    Part.officer, .regions, .reinit, .out, .page .dev, .page .kvt, .page .ofc,
    .page .flu, .page .cxm]) s x2 := by
    unfold x2
    refine Keeps.onlyIf ?_ ?_
    · intro u1
      refine Keeps.step State.schedule_keeps (by rfl) ?_
      exact Keeps.refl _
    · assumption
  have h3 : Keeps (mask
  [.sched, .rep, .pwr, .vault, .hearth, .kindle, .seals, .pair, .tamper,
    Part.officer, .regions, .reinit, .out, .page .dev, .page .kvt, .page .ofc,
    .page .flu, .page .cxm]) s x3 := by
    unfold x3
    refine Keeps.onlyIf ?_ ?_
    · intro u1
      refine Keeps.step State.modTamper_keeps (by rfl) ?_
      exact Keeps.refl _
    · assumption
  have h4 : Keeps (mask
  [.sched, .rep, .pwr, .vault, .hearth, .kindle, .seals, .pair, .tamper,
    Part.officer, .regions, .reinit, .out, .page .dev, .page .kvt, .page .ofc,
    .page .flu, .page .cxm]) s x4 := by
    unfold x4
    refine Keeps.onlyIf ?_ ?_
    · intro u1
      refine Keeps.step State.lockOfficer_keeps (by rfl) ?_
      exact Keeps.refl _
    · assumption
  clear_value x4
  clear_value x3
  clear_value x2
  clear_value x1
  refine Keeps.onlyIf ?_ ?_
  · intro u1
    refine Keeps.step State.irq_keeps (by rfl) ?_
    exact Keeps.refl _
  · assumption

set_option maxRecDepth 4096 in
theorem State.windowEnd_keeps {s : State} :
    Keeps (mask [.sched, .rep, .pwr, .vault, .hearth, .kindle, .seals, .pair, .tamper, .officer, .regions, .reinit,
        .out, .page .dev, .page .kvt, .page .tmp, .page .ofc, .page .flu, .page .cxm]) s (State.windowEnd s) := by
  unfold State.windowEnd
  extract_lets x1 x2 x3 x4 x5 x6 x7 x8 x9 x10 x11 x12
  have h1 : Keeps (mask
  [.sched, .rep, .pwr, .vault, .hearth, .kindle, .seals, .pair, .tamper,
    Part.officer, .regions, .reinit, .out, .page .dev, .page .kvt, .page .tmp,
    .page .ofc, .page .flu, .page .cxm]) s x8 := by
    unfold x8
    refine Keeps.step State.modTamper_keeps (by rfl) ?_
    exact Keeps.refl _
  have h2 : Keeps (mask
  [.sched, .rep, .pwr, .vault, .hearth, .kindle, .seals, .pair, .tamper,
    Part.officer, .regions, .reinit, .out, .page .dev, .page .kvt, .page .tmp,
    .page .ofc, .page .flu, .page .cxm]) s x9 := by
    unfold x9
    refine Keeps.forL ?_ ?_
    · intro b1 u1
      refine Keeps.step State.evidence_keeps (by rfl) ?_
      exact Keeps.refl _
    · assumption
  have h3 : Keeps (mask
  [.sched, .rep, .pwr, .vault, .hearth, .kindle, .seals, .pair, .tamper,
    Part.officer, .regions, .reinit, .out, .page .dev, .page .kvt, .page .tmp,
    .page .ofc, .page .flu, .page .cxm]) s x10 := by
    unfold x10
    refine Keeps.onlyIf ?_ ?_
    · intro u1
      refine Keeps.step State.zeroVault_keeps (by rfl) ?_
      exact Keeps.refl _
    · assumption
  have h4 : Keeps (mask
  [.sched, .rep, .pwr, .vault, .hearth, .kindle, .seals, .pair, .tamper,
    Part.officer, .regions, .reinit, .out, .page .dev, .page .kvt, .page .tmp,
    .page .ofc, .page .flu, .page .cxm]) s x11 := by
    unfold x11
    refine Keeps.step State.wr_keeps (by rfl) ?_
    assumption
  have h5 : Keeps (mask
  [.sched, .rep, .pwr, .vault, .hearth, .kindle, .seals, .pair, .tamper,
    Part.officer, .regions, .reinit, .out, .page .dev, .page .kvt, .page .tmp,
    .page .ofc, .page .flu, .page .cxm]) s x12 := by
    unfold x12
    refine Keeps.step State.respond_keeps (by rfl) ?_
    assumption
  clear_value x12
  clear_value x11
  clear_value x10
  clear_value x9
  clear_value x8
  refine Keeps.ite ?_ ?_
  · refine Keeps.onlyIf ?_ ?_
    · intro u1
      refine Keeps.step State.modTamper_keeps (by rfl) ?_
      exact Keeps.refl _
    · assumption
  · refine Keeps.onlyIf ?_ ?_
    · intro u1
      refine Keeps.forL ?_ ?_
      · intro b1 u2
        refine Keeps.step State.tamperRecord_keeps (by rfl) ?_
        exact Keeps.refl _
      · exact Keeps.refl _
    · assumption

theorem execModuleUnplug_keeps {b : CageNo} {s : State} :
    KeepsX (mask [.rep, .lanes, .msix, .cages, .out, .page .mod, .page .lan]) s (execModuleUnplug b s) := by
  unfold execModuleUnplug
  refine KeepsX.done (by rfl) ?_
  extract_lets x1 x2 x3
  have h1 : Keeps (mask [.rep, .lanes, .msix, .cages, .out, .page .mod, .page .lan]) s x1 := by
    unfold x1
    refine Keeps.step State.wr_keeps (by rfl) ?_
    exact Keeps.refl _
  have h2 : Keeps (mask [.rep, .lanes, .msix, .cages, .out, .page .mod, .page .lan]) s x2 := by
    unfold x2
    refine Keeps.step State.modCage_keeps (by rfl) ?_
    assumption
  have h3 : Keeps (mask [.rep, .lanes, .msix, .cages, .out, .page .mod, .page .lan]) s x3 := by
    unfold x3
    refine Keeps.forL ?_ ?_
    · intro b1 u1
      extract_lets x4
      have h3 : Keeps (mask [.rep, .lanes, .msix, .cages, .out, .page .mod, .page .lan]) u1 x4 := by
        unfold x4
        refine Keeps.step State.modLane_keeps (by rfl) ?_
        exact Keeps.refl _
      refine Keeps.step State.settleClass_keeps (by rfl) ?_
      refine Keeps.ite ?_ ?_
      · refine Keeps.step State.wr_keeps (by rfl) ?_
        assumption
      · refine Keeps.step State.startRate_keeps (by rfl) ?_
        assumption
    · assumption
  clear_value x3
  clear_value x2
  clear_value x1
  refine Keeps.step State.modEvent_keeps (by rfl) ?_
  refine Keeps.step State.count_keeps (by rfl) ?_
  assumption

theorem execModulePlug_keeps {b : CageNo} {s : State} :
    KeepsX (mask [.rep, .msix, .cages, .out, .page .mod]) s (execModulePlug b s) := by
  unfold execModulePlug
  refine KeepsX.done (by rfl) ?_
  extract_lets x1 x2
  have h1 : Keeps (mask [.rep, .msix, .cages, .out, .page .mod]) s x1 := by
    unfold x1
    refine Keeps.step State.wr_keeps (by rfl) ?_
    exact Keeps.refl _
  have h2 : Keeps (mask [.rep, .msix, .cages, .out, .page .mod]) s x2 := by
    unfold x2
    refine Keeps.step State.modCage_keeps (by rfl) ?_
    assumption
  clear_value x2
  clear_value x1
  refine Keeps.step State.modEvent_keeps (by rfl) ?_
  refine Keeps.step State.count_keeps (by rfl) ?_
  assumption

theorem execModuleResetRelease_keeps {b : CageNo} {s : State} :
    KeepsX (mask [.rep, .lanes, .msix, .cages, .out]) s (execModuleResetRelease b s) := by
  unfold execModuleResetRelease
  refine KeepsX.done (by rfl) ?_
  split
  · refine Keeps.ite ?_ ?_
    · refine Keeps.forL ?_ ?_
      · intro b1 u1
        refine Keeps.step State.modLane_keeps (by rfl) ?_
        exact Keeps.refl _
      · refine Keeps.step State.modCage_keeps (by rfl) ?_
        exact Keeps.refl _
    · exact Keeps.refl _
  · exact Keeps.refl _

theorem execModuleRead_keeps {len : Fin 8} {off : Byte} {page : Byte} {bank : Byte} {s : State} :
    KeepsX (mask [.rep, .msix, .cages, .out, .page .dev, .page .mod]) s (execModuleRead len off page bank s) := by
  unfold execModuleRead
  refine KeepsX.done (by rfl) ?_
  refine Keeps.step State.landModCmd_keeps (by rfl) ?_
  exact Keeps.refl _

theorem execModuleWrite_keeps {len : Fin 8} {off : Byte} {page : Byte} {bank : Byte} {s : State} :
    KeepsX (mask [.rep, .msix, .cages, .out, .page .dev, .page .mod]) s (execModuleWrite len off page bank s) := by
  unfold execModuleWrite
  refine KeepsX.done (by rfl) ?_
  refine Keeps.step State.landModCmd_keeps (by rfl) ?_
  exact Keeps.refl _

theorem execModuleCmdDone_keeps {b : CageNo} {reply : Option (List Byte)} {s : State} :
    KeepsX (mask [.rep, .msix, .cages, .out, .page .mod]) s (execModuleCmdDone b reply s) := by
  unfold execModuleCmdDone
  refine KeepsX.done (by rfl) ?_
  split
  · refine Keeps.ite ?_ ?_
    · refine Keeps.step State.endModCmd_keeps (by rfl) ?_
      exact Keeps.refl _
    · split
      · refine Keeps.step State.endModCmd_keeps (by rfl) ?_
        exact Keeps.refl _
      · extract_lets x1 x2 x3
        have h1 : Keeps (mask [.rep, .msix, .cages, .out, .page .mod]) s x3 := by
          unfold x3
          refine Keeps.ite ?_ ?_
          · refine Keeps.step State.wr_keeps (by rfl) ?_
            refine Keeps.step State.wr_keeps (by rfl) ?_
            exact Keeps.refl _
          · exact Keeps.refl _
        clear_value x3
        refine Keeps.step State.endModCmd_keeps (by rfl) ?_
        assumption
  · exact Keeps.refl _

theorem execModuleInterrupt_keeps {b : CageNo} {low : Bool} {s : State} :
    KeepsX (mask [.rep, .msix, .out, .page .mod]) s (execModuleInterrupt b low s) := by
  unfold execModuleInterrupt
  refine KeepsX.done (by rfl) ?_
  extract_lets x1 x2
  have h1 : Keeps (mask [.rep, .msix, .out, .page .mod]) s x2 := by
    unfold x2
    refine Keeps.step State.wr_keeps (by rfl) ?_
    exact Keeps.refl _
  clear_value x2
  refine Keeps.ite ?_ ?_
  · refine Keeps.step State.modEvent_keeps (by rfl) ?_
    refine Keeps.step State.count_keeps (by rfl) ?_
    assumption
  · assumption

theorem execTamperFire_keeps {src : Fin 23} {rtc : Nat} {s : State} :
    KeepsX (mask [.rep, .msix, .tamper, .out]) s (execTamperFire src rtc s) := by
  unfold execTamperFire
  extract_lets x1
  have h1 : Keeps (mask [.rep, .msix, .tamper, .out]) s x1 := by
    unfold x1
    refine Keeps.step State.modTamper_keeps (by rfl) ?_
    exact Keeps.refl _
  clear_value x1
  refine KeepsX.done (by rfl) ?_
  refine Keeps.ite ?_ ?_
  · refine Keeps.step State.tamperFire_keeps (by rfl) ?_
    assumption
  · assumption

theorem execTamperTest_keeps {src : Fin 32} {start : Bool} {s : State} :
    KeepsX (mask [.rep, .msix, .tamper, .out, .page .dev, .page .tmp]) s (execTamperTest src start s) := by
  unfold execTamperTest
  refine KeepsX.done (by rfl) ?_
  refine State.gate_keeps ?_ ?_ ?_
  · exact rfl
  · intro u1
    refine Keeps.step State.landTest_keeps (by rfl) ?_
    exact Keeps.refl _
  · exact Keeps.refl _

theorem execTamperTestEnd_keeps {still : Bool} {s : State} :
    KeepsX (mask [.rep, .msix, .tamper, .out, .page .tmp]) s (execTamperTestEnd still s) := by
  unfold execTamperTestEnd
  refine KeepsX.done (by rfl) ?_
  split
  · refine Keeps.ite ?_ ?_
    · exact Keeps.refl _
    · extract_lets x1
      have h1 : Keeps (mask [.rep, .msix, .tamper, .out, .page .tmp]) s x1 := by
        unfold x1
        refine Keeps.step State.modTamper_keeps (by rfl) ?_
        refine Keeps.step State.wr_keeps (by rfl) ?_
        exact Keeps.refl _
      clear_value x1
      refine Keeps.ite ?_ ?_
      · refine Keeps.step State.tamperFire_keeps (by rfl) ?_
        assumption
      · assumption
  · exact Keeps.refl _

theorem execOfficerHello_keeps {m0 : OfcMsg} {s : State} :
    KeepsX (mask [.rep, .vault, .msix, .officer, .fresh, .out]) s (execOfficerHello m0 s) := by
  unfold execOfficerHello
  refine KeepsX.done (by rfl) ?_
  refine State.officerRecv_keeps ?_ ?_ ?_
  · exact rfl
  · intro b1 u1
    refine Keeps.step State.onHello_keeps (by rfl) ?_
    exact Keeps.refl _
  · exact Keeps.refl _

theorem execOfficerResponse_keeps {m0 : OfcMsg} {s : State} :
    KeepsX (mask [.rep, .msix, .officer, .out]) s (execOfficerResponse m0 s) := by
  unfold execOfficerResponse
  refine KeepsX.done (by rfl) ?_
  refine State.officerRecv_keeps ?_ ?_ ?_
  · exact rfl
  · intro b1 u1
    refine Keeps.ite ?_ ?_
    · refine Keeps.step State.modOfc_keeps (by rfl) ?_
      exact Keeps.refl _
    · exact Keeps.refl _
  · exact Keeps.refl _

theorem execVault_keeps {m0 : OfcMsg} {cyc : Cyc} {s : State} :
    KeepsX (mask [.cycle, .sched, .rep, .vault, .kindle, .msix, .officer, .fresh, .out,
        .page .kvt]) s (execVault m0 cyc s) := by
  unfold execVault
  refine KeepsX.done (by rfl) ?_
  refine State.officerRecv_keeps ?_ ?_ ?_
  · exact rfl
  · intro b1 u1
    split
    refine Keeps.step State.vaultOfficer_keeps (by rfl) ?_
    refine Keeps.step State.count_keeps (by rfl) ?_
    exact Keeps.refl _
  · refine Keeps.step State.at_keeps (by rfl) ?_
    exact Keeps.refl _

theorem execCertWrite_keeps {m0 : OfcMsg} {s : State} :
    KeepsX (mask [.rep, .vault, .msix, .officer, .out]) s (execCertWrite m0 s) := by
  unfold execCertWrite
  refine KeepsX.done (by rfl) ?_
  refine State.officerRecv_keeps ?_ ?_ ?_
  · exact rfl
  · intro b1 u1
    refine Keeps.ite ?_ ?_
    · refine Keeps.step State.officerResult_keeps (by rfl) ?_
      exact Keeps.refl _
    · refine Keeps.ite ?_ ?_
      · refine Keeps.step State.officerResult_keeps (by rfl) ?_
        exact Keeps.refl _
      · extract_lets x1 x2 x3
        have h1 : Keeps (mask [.rep, .vault, .msix, .officer, .out]) u1 x2 := by
          unfold x2
          refine Keeps.step State.modOfc_keeps (by rfl) ?_
          exact Keeps.refl _
        clear_value x2
        refine Keeps.step State.officerResult_keeps (by rfl) ?_
        refine Keeps.step Keeps.set_vault (by rfl) ?_
        assumption
  · exact Keeps.refl _

theorem execCertRead_keeps {m0 : OfcMsg} {s : State} :
    KeepsX (mask [.rep, .msix, .officer, .out]) s (execCertRead m0 s) := by
  unfold execCertRead
  refine KeepsX.done (by rfl) ?_
  refine State.officerRecv_keeps ?_ ?_ ?_
  · exact rfl
  · intro b1 u1
    refine Keeps.step State.officerResult_keeps (by rfl) ?_
    exact Keeps.refl _
  · exact Keeps.refl _

theorem execAck_keeps {m0 : OfcMsg} {s : State} :
    KeepsX (mask [.rep, .pwr, .msix, .pair, .tamper, .officer, .out, .page .dev, .page .tmp,
        .page .flu]) s (execAck m0 s) := by
  unfold execAck
  refine KeepsX.done (by rfl) ?_
  refine State.officerRecv_keeps ?_ ?_ ?_
  · exact rfl
  · intro b1 u1
    extract_lets x1 x2 x3
    have h1 : Keeps (mask
  [.rep, .pwr, .msix, .pair, .tamper, .officer, .out, .page .dev,
    .page .tmp, .page .flu]) u1 x1 := by
      unfold x1
      refine Keeps.step State.modPwr_keeps (by rfl) ?_
      refine Keeps.step State.wr_keeps (by rfl) ?_
      exact Keeps.refl _
    have h2 : Keeps (mask
  [.rep, .pwr, .msix, .pair, .tamper, .officer, .out, .page .dev,
    .page .tmp, .page .flu]) u1 x2 := by
      unfold x2
      refine Keeps.step State.modTamper_keeps (by rfl) ?_
      assumption
    have h3 : Keeps (mask
  [.rep, .pwr, .msix, .pair, .tamper, .officer, .out, .page .dev,
    .page .tmp, .page .flu]) u1 x3 := by
      unfold x3
      refine Keeps.ite ?_ ?_
      · refine Keeps.step State.setMode_keeps (by rfl) ?_
        assumption
      · assumption
    clear_value x3
    clear_value x2
    clear_value x1
    refine Keeps.step State.officerResult_keeps (by rfl) ?_
    refine Keeps.step State.event_keeps (by rfl) ?_
    assumption
  · exact Keeps.refl _

theorem execClearFlags_keeps {m0 : OfcMsg} {s : State} :
    KeepsX (mask [.rep, .msix, .officer, .out, .page .tmp]) s (execClearFlags m0 s) := by
  unfold execClearFlags
  refine KeepsX.done (by rfl) ?_
  refine State.officerRecv_keeps ?_ ?_ ?_
  · exact rfl
  · intro b1 u1
    refine Keeps.step State.officerResult_keeps (by rfl) ?_
    refine Keeps.step State.wr_keeps (by rfl) ?_
    exact Keeps.refl _
  · exact Keeps.refl _

theorem execNote_keeps {m0 : OfcMsg} {s : State} :
    KeepsX (mask [.rep, .msix, .tamper, .officer, .out, .page .tmp]) s (execNote m0 s) := by
  unfold execNote
  refine KeepsX.done (by rfl) ?_
  refine State.officerRecv_keeps ?_ ?_ ?_
  · exact rfl
  · intro b1 u1
    refine Keeps.step State.officerResult_keeps (by rfl) ?_
    refine Keeps.step State.logTamper_keeps (by rfl) ?_
    exact Keeps.refl _
  · exact Keeps.refl _

theorem execSetBrtc_keeps {m0 : OfcMsg} {s : State} :
    KeepsX (mask [.rep, .msix, .tamper, .officer, .out]) s (execSetBrtc m0 s) := by
  unfold execSetBrtc
  refine KeepsX.done (by rfl) ?_
  refine State.officerRecv_keeps ?_ ?_ ?_
  · exact rfl
  · intro b1 u1
    refine Keeps.step State.officerResult_keeps (by rfl) ?_
    refine Keeps.step State.modTamper_keeps (by rfl) ?_
    exact Keeps.refl _
  · exact Keeps.refl _

theorem execUnlockCfg_keeps {m0 : OfcMsg} {s : State} :
    KeepsX (mask [.rep, .msix, .officer, .out, .page .tmp]) s (execUnlockCfg m0 s) := by
  unfold execUnlockCfg
  refine KeepsX.done (by rfl) ?_
  refine State.officerRecv_keeps ?_ ?_ ?_
  · exact rfl
  · intro b1 u1
    refine Keeps.step State.officerResult_keeps (by rfl) ?_
    refine Keeps.step State.wr_keeps (by rfl) ?_
    exact Keeps.refl _
  · exact Keeps.refl _

theorem execEnd_keeps {m0 : OfcMsg} {s : State} :
    KeepsX (mask [.rep, .msix, .officer, .out, .page .ofc]) s (execEnd m0 s) := by
  unfold execEnd
  refine KeepsX.done (by rfl) ?_
  refine State.officerRecv_keeps ?_ ?_ ?_
  · exact rfl
  · intro b1 u1
    refine Keeps.step State.endSession_keeps (by rfl) ?_
    exact Keeps.refl _
  · exact Keeps.refl _

set_option maxRecDepth 4096 in
theorem execTamperWindowEnd_keeps {s : State} :
    KeepsX (mask [.sched, .rep, .pwr, .vault, .hearth, .kindle, .seals, .msix, .pair, .tamper, .officer, .regions,
        .reinit, .out, .page .dev, .page .kvt, .page .tmp, .page .ofc, .page .flu,
        .page .cxm]) s (execTamperWindowEnd s) := by
  unfold execTamperWindowEnd
  refine KeepsX.done (by rfl) ?_
  refine Keeps.ite ?_ ?_
  · exact Keeps.refl _
  · refine Keeps.step State.windowEnd_keeps (by rfl) ?_
    exact Keeps.refl _

theorem execQuenchButton_keeps {s : State} :
    KeepsX (mask [.rep, .msix, .tamper, .out]) s (execQuenchButton s) := by
  unfold execQuenchButton
  refine KeepsX.done (by rfl) ?_
  refine Keeps.step State.tamperFire_keeps (by rfl) ?_
  exact Keeps.refl _

theorem execTokenPlug_keeps {s : State} :
    KeepsX (mask [.rep, .msix, .officer, .out, .page .ofc]) s (execTokenPlug s) := by
  unfold execTokenPlug
  refine KeepsX.done (by rfl) ?_
  refine Keeps.step State.event_keeps (by rfl) ?_
  refine Keeps.step State.modOfc_keeps (by rfl) ?_
  refine Keeps.step State.wr_keeps (by rfl) ?_
  exact Keeps.refl _

theorem execTokenUnplug_keeps {s : State} :
    KeepsX (mask [.rep, .msix, .officer, .out, .page .ofc]) s (execTokenUnplug s) := by
  unfold execTokenUnplug
  refine KeepsX.done (by rfl) ?_
  refine Keeps.step State.event_keeps (by rfl) ?_
  refine Keeps.step State.wr_keeps (by rfl) ?_
  refine Keeps.step State.endSession_keeps (by rfl) ?_
  exact Keeps.refl _

theorem execOfficerVerifyDone_keeps {s : State} :
    KeepsX (mask [.sched, .rep, .vault, .msix, .tamper, .officer, .fresh, .out,
        .page .ofc]) s (execOfficerVerifyDone s) := by
  unfold execOfficerVerifyDone
  refine KeepsX.done (by rfl) ?_
  refine Keeps.step State.judgeResponse_keeps (by rfl) ?_
  exact Keeps.refl _

theorem execOfficerResponseTimeout_keeps {s : State} :
    KeepsX (mask [.rep, .msix, .tamper, .officer, .fresh, .out, .page .ofc]) s (execOfficerResponseTimeout s) := by
  unfold execOfficerResponseTimeout
  refine KeepsX.done (by rfl) ?_
  split
  · refine Keeps.ite ?_ ?_
    · refine Keeps.step State.authFail_keeps (by rfl) ?_
      exact Keeps.refl _
    · exact Keeps.refl _
  · exact Keeps.refl _

theorem execOfficerSessionTimeout_keeps {s : State} :
    KeepsX (mask [.rep, .msix, .officer, .out, .page .ofc]) s (execOfficerSessionTimeout s) := by
  unfold execOfficerSessionTimeout
  refine KeepsX.done (by rfl) ?_
  refine Keeps.ite ?_ ?_
  · refine Keeps.step State.endSession_keeps (by rfl) ?_
    exact Keeps.refl _
  · exact Keeps.refl _

theorem execBrtcRead_keeps {s : State} :
    KeepsX (mask [.rep, .msix, .out, .page .tmp]) s (execBrtcRead s) := by
  unfold execBrtcRead
  refine KeepsX.done (by rfl) ?_
  refine State.gateRead_keeps ?_ ?_ ?_
  · exact rfl
  · intro u1
    refine Keeps.step State.emit_keeps (by rfl) ?_
    refine Keeps.step State.wr_keeps (by rfl) ?_
    exact Keeps.refl _
  · exact Keeps.refl _

theorem execLedRefresh_keeps {s : State} :
    KeepsX (mask [.rep, .msix, .out]) s (execLedRefresh s) := by
  unfold execLedRefresh
  refine KeepsX.done (by rfl) ?_
  refine Keeps.ite ?_ ?_
  · refine Keeps.step State.emit_keeps (by rfl) ?_
    exact Keeps.refl _
  · exact Keeps.refl _

end Sys2Proof.Machine
end

