-- ==== Sys2Proof/Laws/Rollover.lean ====
section
/-! SUPPORT. What the operations of Machine/Rollover.lean keep, and the parts of the state that they may change. -/

namespace Sys2Proof.Machine

open Sys2Proof

theorem State.acceptControl_keeps {s : State} {k : Nat} {par : Bool} {x : Session} {m4 : List Byte} :
    Keeps (mask [.kindle]) s (State.acceptControl s k par x m4) := by
  unfold State.acceptControl
  extract_lets x1
  refine Keeps.step State.modLink_keeps (by rfl) ?_
  exact Keeps.refl _

theorem State.stageLate_keeps {s : State} {k : Nat} {par : Bool} {a : Nat} :
    Keeps (mask [.rep, .assocs, .kindle]) s (State.stageLate s k par a) := by
  unfold State.stageLate
  extract_lets x1
  have h1 : Keeps (mask [.rep, .assocs, .kindle]) s x1 := by
    unfold x1
    refine Keeps.step State.count_keeps (by rfl) ?_
    refine Keeps.step State.stageOne_keeps (by rfl) ?_
    exact Keeps.refl _
  clear_value x1
  split
  · refine Keeps.onlyIf ?_ ?_
    · intro u1
      refine Keeps.step State.modLink_keeps (by rfl) ?_
      exact Keeps.refl _
    · assumption
  · assumption

theorem State.kindleEntered_keeps {s : State} {a : Nat} :
    Keeps (mask [.rep, .assocs, .kindle]) s (State.kindleEntered s a) := by
  unfold State.kindleEntered
  split
  · extract_lets x1 x2
    refine Keeps.ite ?_ ?_
    · refine Keeps.step State.modLink_keeps (by rfl) ?_
      refine Keeps.step State.stageLate_keeps (by rfl) ?_
      exact Keeps.refl _
    · refine Keeps.ite ?_ ?_
      · refine Keeps.step State.modLink_keeps (by rfl) ?_
        exact Keeps.refl _
      · refine Keeps.ite ?_ ?_
        · refine Keeps.step State.stageLate_keeps (by rfl) ?_
          exact Keeps.refl _
        · exact Keeps.refl _
  · exact Keeps.refl _

theorem State.startRoll_keeps {s : State} {k : Nat} :
    Keeps (mask [.kindle]) s (State.startRoll s k) := by
  unfold State.startRoll
  extract_lets x1 x2
  refine Keeps.step State.modLink_keeps (by rfl) ?_
  exact Keeps.refl _

theorem State.startRekey_keeps {s : State} {k : Nat} :
    Keeps (mask [.kindle]) s (State.startRekey s k) := by
  unfold State.startRekey
  refine Keeps.step State.lattice_keeps (by rfl) ?_
  refine Keeps.step State.modLink_keeps (by rfl) ?_
  exact Keeps.refl _

theorem State.rollService_keeps {s : State} {k : Nat} :
    Keeps (mask [.kindle]) s (State.rollService s k) := by
  unfold State.rollService
  extract_lets x1
  refine Keeps.ite ?_ ?_
  · exact Keeps.refl _
  · refine Keeps.ite ?_ ?_
    · refine Keeps.step State.startRoll_keeps (by rfl) ?_
      exact Keeps.refl _
    · refine Keeps.ite ?_ ?_
      · refine Keeps.step State.startRekey_keeps (by rfl) ?_
        exact Keeps.refl _
      · exact Keeps.refl _

theorem State.softRoll_keeps {s : State} {a : Nat} :
    Keeps (mask [.kindle]) s (State.softRoll s a) := by
  unfold State.softRoll
  refine Keeps.ite ?_ ?_
  · exact Keeps.refl _
  · split
    · extract_lets x1 x2
      refine Keeps.ite ?_ ?_
      · refine Keeps.step State.rollService_keeps (by rfl) ?_
        refine Keeps.step State.modLink_keeps (by rfl) ?_
        exact Keeps.refl _
      · exact Keeps.refl _
    · exact Keeps.refl _

theorem State.linkAborted_keeps {s : State} {k : Nat} :
    Keeps (mask [.rep, .ports, .kindle, .out]) s (State.linkAborted s k) := by
  unfold State.linkAborted
  extract_lets x1 x2
  have h1 : Keeps (mask [.rep, .ports, .kindle, .out]) s x1 := by
    unfold x1
    refine Keeps.step State.modLink_keeps (by rfl) ?_
    exact Keeps.refl _
  have h2 : Keeps (mask [.rep, .ports, .kindle, .out]) s x2 := by
    unfold x2
    split
    · refine Keeps.onlyIf ?_ ?_
      · intro u1
        refine Keeps.step State.sendAbort_keeps (by rfl) ?_
        exact Keeps.refl _
      · refine Keeps.step State.closeSession_keeps (by rfl) ?_
        assumption
    · assumption
  clear_value x2
  clear_value x1
  split
  · refine Keeps.onlyIf ?_ ?_
    · intro u1
      refine Keeps.step State.sendAbort_keeps (by rfl) ?_
      exact Keeps.refl _
    · refine Keeps.step State.closeSession_keeps (by rfl) ?_
      assumption
  · assumption

theorem State.ifQuiet_keeps {m : Nat} {z : State} {s : State} {k : Nat} {f : State → State} (hc : Covers m (mask
    [.rep]))
    (hf : ∀ u, Keeps m u (f u)) (h : Keeps m z s) :
    Keeps m z (State.ifQuiet s k f) := by
  unfold State.ifQuiet
  refine Keeps.trans h ?_
  refine Keeps.ite ?_ ?_
  · refine Keeps.step (hf ..) (Nat.or_self _) ?_
    exact Keeps.refl _
  · with_reducible refine Keeps.step State.kdlEvent_keeps ?_ ?_
    · exact hc.trans (n := mask [.rep]) (rfl)
    exact Keeps.refl _

theorem State.holdoffOver_keeps {s : State} {k : Nat} :
    Keeps (mask [.rep, .vault, .kindle, .fresh]) s (State.holdoffOver s k) := by
  unfold State.holdoffOver
  refine Keeps.ite ?_ ?_
  · exact Keeps.refl _
  · extract_lets x1
    have h1 : Keeps (mask [.rep, .vault, .kindle, .fresh]) s x1 := by
      unfold x1
      refine Keeps.step State.modLink_keeps (by rfl) ?_
      exact Keeps.refl _
    clear_value x1
    refine Keeps.onlyIf ?_ ?_
    · intro u1
      refine Keeps.step State.tryOffer_keeps (by rfl) ?_
      exact Keeps.refl _
    · assumption

theorem State.linkAct_keeps {s : State} {k : Nat} {op : Nat} :
    Keeps (mask [.rep, .ports, .vault, .kindle, .fresh, .out]) s (State.linkAct s k op) := by
  unfold State.linkAct
  split
  · refine Keeps.onlyIf ?_ ?_
    · intro u1
      refine Keeps.step State.tryOffer_keeps (by rfl) ?_
      exact Keeps.refl _
    · exact Keeps.refl _
  · refine Keeps.step State.linkAborted_keeps (by rfl) ?_
    exact Keeps.refl _
  · refine State.ifQuiet_keeps ?_ ?_ ?_
    · exact rfl
    · intro u1
      refine Keeps.step State.startRekey_keeps (by rfl) ?_
      exact Keeps.refl _
    · exact Keeps.refl _
  · refine State.ifQuiet_keeps ?_ ?_ ?_
    · exact rfl
    · intro u1
      refine Keeps.step State.tryOffer_keeps (by rfl) ?_
      exact Keeps.refl _
    · exact Keeps.refl _
  · refine Keeps.step State.holdoffOver_keeps (by rfl) ?_
    exact Keeps.refl _
  · refine State.ifQuiet_keeps ?_ ?_ ?_
    · exact rfl
    · intro u1
      refine Keeps.step State.startRoll_keeps (by rfl) ?_
      exact Keeps.refl _
    · exact Keeps.refl _
  · exact Keeps.refl _

theorem State.modRoll_keeps {s : State} {k : Nat} {f : Roll → Roll} :
    Keeps (mask [.kindle]) s (State.modRoll s k f) := by
  unfold State.modRoll
  refine Keeps.step State.modLink_keeps (by rfl) ?_
  exact Keeps.refl _

theorem State.rollJoin_keeps {s : State} {a : Nat} :
    Keeps (mask [.rep, .assocs, .kindle]) s (State.rollJoin s a) := by
  unfold State.rollJoin
  split
  · extract_lets x1
    split
    · refine Keeps.ite ?_ ?_
      · extract_lets x2
        have h1 : Keeps (mask [.rep, .assocs, .kindle]) s x2 := by
          unfold x2
          refine Keeps.step State.count_keeps (by rfl) ?_
          refine Keeps.step State.installIdleOf_keeps (by rfl) ?_
          exact Keeps.refl _
        clear_value x2
        refine Keeps.onlyIf ?_ ?_
        · intro u1
          refine Keeps.step State.modRoll_keeps (by rfl) ?_
          exact Keeps.refl _
        · assumption
      · exact Keeps.refl _
    · exact Keeps.refl _
  · exact Keeps.refl _

theorem State.offerWaiting_keeps {s : State} {k : Nat} :
    Keeps (mask [.rep, .vault, .kindle, .fresh]) s (State.offerWaiting s k) := by
  unfold State.offerWaiting
  refine Keeps.onlyIf ?_ ?_
  · intro u1
    refine Keeps.step State.tryOffer_keeps (by rfl) ?_
    exact Keeps.refl _
  · exact Keeps.refl _

theorem State.cascaded_keeps {s : State} {as : List Nat} :
    Keeps (mask [.rep, .vault, .kindle, .fresh]) s (State.cascaded s as) := by
  unfold State.cascaded
  refine Keeps.forN ?_ ?_
  · intro b1 u1
    extract_lets x1
    refine Keeps.ite ?_ ?_
    · exact Keeps.refl _
    · refine Keeps.step State.tryOffer_keeps (by rfl) ?_
      refine Keeps.step State.modLink_keeps (by rfl) ?_
      exact Keeps.refl _
  · exact Keeps.refl _

theorem State.linkDisabled_keeps {s : State} {k : Nat} :
    Keeps (mask [.sched, .rep, .ports, .kindle, .out]) s (State.linkDisabled s k) := by
  unfold State.linkDisabled
  extract_lets x1
  have h1 : Keeps (mask [.sched, .rep, .ports, .kindle, .out]) s x1 := by
    unfold x1
    refine Keeps.onlyIf ?_ ?_
    · intro u1
      refine Keeps.step State.killLink_keeps (by rfl) ?_
      exact Keeps.refl _
    · exact Keeps.refl _
  clear_value x1
  refine Keeps.step State.modLink_keeps (by rfl) ?_
  refine Keeps.step State.linkAborted_keeps (by rfl) ?_
  assumption

theorem State.firstMsgId_keeps {s : State} {k : Nat} :
    Keeps (mask [.kindle, .fresh]) s (State.firstMsgId s k) := by
  unfold State.firstMsgId
  refine Keeps.ite ?_ ?_
  · exact Keeps.refl _
  · refine Keeps.step State.modLink_keeps (by rfl) ?_
    refine Keeps.step State.burn_keeps (by rfl) ?_
    exact Keeps.refl _

theorem State.linkEnabled_keeps {s : State} {k : Nat} :
    Keeps (mask [.rep, .vault, .kindle, .fresh]) s (State.linkEnabled s k) := by
  unfold State.linkEnabled
  extract_lets x1
  have h1 : Keeps (mask [.rep, .vault, .kindle, .fresh]) s x1 := by
    unfold x1
    refine Keeps.step State.modLink_keeps (by rfl) ?_
    refine Keeps.step State.firstMsgId_keeps (by rfl) ?_
    exact Keeps.refl _
  clear_value x1
  refine Keeps.onlyIf ?_ ?_
  · intro u1
    refine Keeps.step State.tryOffer_keeps (by rfl) ?_
    exact Keeps.refl _
  · assumption

theorem State.commitLinkCfg_keeps {s : State} {k : Nat} {w : Word} :
    Keeps (mask [.sched, .rep, .ports, .vault, .kindle, .fresh, .out, .page .kdl]) s (State.commitLinkCfg s k w) := by
  unfold State.commitLinkCfg
  extract_lets x1 x2 x3 x4 x5
  have h1 : Keeps (mask [.sched, .rep, .ports, .vault, .kindle, .fresh, .out, .page .kdl]) s x5 := by
    unfold x5
    with_reducible refine Keeps.step State.setWord_keeps ?_ ?_
    · exact Covers.of_subset (l := [.page .kdl]) (by simp)
    exact Keeps.refl _
  clear_value x5
  refine Keeps.ite ?_ ?_
  · refine Keeps.step State.kdlEvent_keeps (by rfl) ?_
    exact Keeps.refl _
  · refine Keeps.ite ?_ ?_
    · with_reducible refine Keeps.step State.setWord_keeps ?_ ?_
      · exact Covers.of_subset (l := [.page .kdl]) (by simp)
      refine Keeps.step State.linkDisabled_keeps (by rfl) ?_
      exact Keeps.refl _
    · refine Keeps.ite ?_ ?_
      · refine Keeps.step State.linkEnabled_keeps (by rfl) ?_
        assumption
      · refine Keeps.onlyIf ?_ ?_
        · intro u1
          refine Keeps.step State.tryOffer_keeps (by rfl) ?_
          exact Keeps.refl _
        · assumption

theorem State.confirmEdge_keeps {s : State} {k : Nat} :
    Keeps (mask [.rep, .ports, .kindle, .out]) s (State.confirmEdge s k) := by
  unfold State.confirmEdge
  extract_lets x1
  have h1 : ∀ b0 u, Keeps (mask [.rep, .ports, .kindle, .out]) u (x1 b0 u) := by
    intro b0 u
    unfold x1
    split
    · refine Keeps.ite ?_ ?_
      · refine Keeps.step State.sendConfirmR_keeps (by rfl) ?_
        exact Keeps.refl _
      · exact Keeps.refl _
    · exact Keeps.refl _
  clear_value x1
  refine Keeps.step (h1 ..) (Nat.or_self _) ?_
  refine Keeps.step (h1 ..) (Nat.or_self _) ?_
  exact Keeps.refl _

theorem State.staleMsg_keeps {s : State} {k : Nat} :
    Keeps (mask [.kindle]) s (State.staleMsg s k) := by
  unfold State.staleMsg
  refine Keeps.step State.modLink_keeps (by rfl) ?_
  exact Keeps.refl _

theorem State.controlCheck_keeps {s : State} {k : Nat} {m2 : List Byte} {n : Nat} {untagged : optParam Bool false} :
    KeepsP (mask [.rep, .kindle]) s (State.controlCheck s k m2 n untagged) := by
  unfold State.controlCheck
  split
  · refine KeepsP.mk ?_
    refine Keeps.step State.discard_keeps (by rfl) ?_
    exact Keeps.refl _
  · split
    · refine KeepsP.mk ?_
      refine Keeps.step State.discard_keeps (by rfl) ?_
      exact Keeps.refl _
    · extract_lets x1 x2 x3 x4
      refine KeepsP.ite ?_ ?_
      · refine KeepsP.mk ?_
        refine Keeps.step State.discard_keeps (by rfl) ?_
        exact Keeps.refl _
      · refine KeepsP.ite ?_ ?_
        · refine KeepsP.mk ?_
          refine Keeps.step State.discard_keeps (by rfl) ?_
          exact Keeps.refl _
        · refine KeepsP.ite ?_ ?_
          · refine KeepsP.mk ?_
            refine Keeps.step State.staleMsg_keeps (by rfl) ?_
            exact Keeps.refl _
          · refine KeepsP.ite ?_ ?_
            · refine KeepsP.mk ?_
              refine Keeps.step State.discard_keeps (by rfl) ?_
              exact Keeps.refl _
            · refine KeepsP.ite ?_ ?_
              · refine KeepsP.mk ?_
                refine Keeps.step State.discard_keeps (by rfl) ?_
                exact Keeps.refl _
              · refine KeepsP.ite ?_ ?_
                · refine KeepsP.mk ?_
                  refine Keeps.step State.staleMsg_keeps (by rfl) ?_
                  exact Keeps.refl _
                · refine KeepsP.mk ?_
                  exact Keeps.refl _

theorem State.countCheck_keeps {s : State} {k : Nat} {peer : Nat} {own : Nat} :
    Keeps (mask [.rep]) s (State.countCheck s k peer own) := by
  unfold State.countCheck
  refine Keeps.onlyIf ?_ ?_
  · intro u1
    refine Keeps.step State.rollEvent_keeps (by rfl) ?_
    exact Keeps.refl _
  · exact Keeps.refl _

theorem State.deriveLink_keeps {s : State} {k : Nat} :
    Keeps (mask [.rep, .assocs, .kindle]) s (State.deriveLink s k) := by
  unfold State.deriveLink
  extract_lets x1 x2 x3
  have h1 : ∀ b0 u, Keeps (mask [.rep, .assocs, .kindle]) u (x2 b0 u) := by
    intro b0 u
    unfold x2
    split
    · refine Keeps.onlyIf ?_ ?_
      · intro u1
        refine Keeps.step State.stageKeys_keeps (by rfl) ?_
        exact Keeps.refl _
      · exact Keeps.refl _
    · exact Keeps.refl _
  have h2 : Keeps (mask [.rep, .assocs, .kindle]) s x3 := by
    unfold x3
    refine Keeps.step (h1 ..) (Nat.or_self _) ?_
    refine Keeps.step (h1 ..) (Nat.or_self _) ?_
    exact Keeps.refl _
  clear_value x3
  clear_value x2
  split
  · refine Keeps.ite ?_ ?_
    · refine Keeps.step State.count_keeps (by rfl) ?_
      refine Keeps.step State.modRoll_keeps (by rfl) ?_
      assumption
    · assumption
  · assumption

theorem State.liveHeld_keeps {s : State} {k : Nat} :
    Keeps (mask [.rep]) s (State.liveHeld s k) := by
  unfold State.liveHeld
  refine Keeps.onlyIf ?_ ?_
  · intro u1
    refine Keeps.step State.kdlEvent_keeps (by rfl) ?_
    exact Keeps.refl _
  · exact Keeps.refl _

theorem State.liveInstall_keeps {s : State} {k : Nat} :
    Keeps (mask [.sched, .rep, .assocs, .kindle]) s (State.liveInstall s k) := by
  unfold State.liveInstall
  extract_lets x1
  split
  · refine Keeps.ite ?_ ?_
    · extract_lets x2
      have h1 : Keeps (mask [.sched, .rep, .assocs, .kindle]) s x2 := by
        unfold x2
        refine Keeps.forL ?_ ?_
        · intro b1 u1
          refine Keeps.ite ?_ ?_
          · split
            extract_lets x3
            have h1 : Keeps (mask [.sched, .rep, .assocs, .kindle]) u1 x3 := by
              unfold x3
              refine Keeps.step State.modAsn_keeps (by rfl) ?_
              exact Keeps.refl _
            clear_value x3
            refine Keeps.step State.count_keeps (by rfl) ?_
            refine Keeps.step State.installStaged_keeps (by rfl) ?_
            assumption
          · exact Keeps.refl _
        · exact Keeps.refl _
      clear_value x2
      refine Keeps.step State.liveHeld_keeps (by rfl) ?_
      refine Keeps.step State.modLink_keeps (by rfl) ?_
      assumption
    · exact Keeps.refl _
  · exact Keeps.refl _

theorem State.sendRoll_keeps {s : State} {k : Nat} {type : Nat} {target : Nat} {count : Nat} :
    Keeps (mask [.rep, .ports, .kindle, .out]) s (State.sendRoll s k type target count) := by
  unfold State.sendRoll
  refine Keeps.step State.sessionSends_keeps (by rfl) ?_
  exact Keeps.refl _

theorem State.rollInstall_keeps {s : State} {k : Nat} :
    Keeps (mask [.rep, .ports, .assocs, .kindle, .out]) s (State.rollInstall s k) := by
  unfold State.rollInstall
  extract_lets x1
  split
  · refine Keeps.ite ?_ ?_
    · exact Keeps.refl _
    · extract_lets x2 x3 x4
      have h1 : Keeps (mask [.rep, .ports, .assocs, .kindle, .out]) s x2 := by
        unfold x2
        refine Keeps.forL ?_ ?_
        · intro b1 u1
          extract_lets x5 x6 x7
          have h1 : Keeps (mask [.rep, .ports, .assocs, .kindle, .out]) u1 x7 := by
            unfold x7
            refine Keeps.step State.setAsn_keeps (by rfl) ?_
            exact Keeps.refl _
          clear_value x7
          refine Keeps.step State.installIdleOf_keeps (by rfl) ?_
          assumption
        · exact Keeps.refl _
      have h2 : Keeps (mask [.rep, .ports, .assocs, .kindle, .out]) s x4 := by
        unfold x4
        refine Keeps.step State.modRoll_keeps (by rfl) ?_
        assumption
      clear_value x4
      clear_value x2
      refine Keeps.ite ?_ ?_
      · refine Keeps.step State.sendRoll_keeps (by rfl) ?_
        assumption
      · refine Keeps.step State.sendRoll_keeps (by rfl) ?_
        refine Keeps.step State.countCheck_keeps (by rfl) ?_
        assumption
  · exact Keeps.refl _

theorem State.rollComplete_keeps {s : State} {k : Nat} :
    Keeps (mask [.kindle]) s (State.rollComplete s k) := by
  unfold State.rollComplete
  extract_lets x1
  have h1 : Keeps (mask [.kindle]) s x1 := by
    unfold x1
    refine Keeps.step State.modLink_keeps (by rfl) ?_
    exact Keeps.refl _
  clear_value x1
  refine Keeps.step State.modSes_keeps (by rfl) ?_
  assumption

theorem State.rollOverlap_keeps {s : State} {k : Nat} :
    Keeps (mask [.rep, .ports, .assocs, .kindle, .out]) s (State.rollOverlap s k) := by
  unfold State.rollOverlap
  extract_lets x1 x2
  have h1 : Keeps (mask [.rep, .ports, .assocs, .kindle, .out]) s x1 := by
    unfold x1
    refine Keeps.forL ?_ ?_
    · intro b1 u1
      refine Keeps.step State.overlapAsn_keeps (by rfl) ?_
      exact Keeps.refl _
    · exact Keeps.refl _
  have h2 : Keeps (mask [.rep, .ports, .assocs, .kindle, .out]) s x2 := by
    unfold x2
    split
    · refine Keeps.ite ?_ ?_
      · refine Keeps.step State.sendRoll_keeps (by rfl) ?_
        refine Keeps.step State.modLink_keeps (by rfl) ?_
        assumption
      · assumption
    · assumption
  clear_value x2
  clear_value x1
  split
  · refine Keeps.ite ?_ ?_
    · extract_lets x3
      have h3 : Keeps (mask [.rep, .ports, .assocs, .kindle, .out]) s x3 := by
        unfold x3
        refine Keeps.step State.sendRoll_keeps (by rfl) ?_
        refine Keeps.step State.modRoll_keeps (by rfl) ?_
        assumption
      clear_value x3
      refine Keeps.ite ?_ ?_
      · refine Keeps.step State.rollComplete_keeps (by rfl) ?_
        assumption
      · assumption
    · assumption
  · assumption

theorem State.rollSwitch_keeps {s : State} {k : Nat} :
    Keeps (mask [.sched, .assocs, .kindle]) s (State.rollSwitch s k) := by
  unfold State.rollSwitch
  split
  · refine Keeps.ite ?_ ?_
    · extract_lets x1 x2 x3
      have h1 : Keeps (mask [.sched, .assocs, .kindle]) s x1 := by
        unfold x1
        refine Keeps.forL ?_ ?_
        · intro b1 u1
          refine Keeps.step State.switchAsn_keeps (by rfl) ?_
          exact Keeps.refl _
        · exact Keeps.refl _
      have h2 : Keeps (mask [.sched, .assocs, .kindle]) s x2 := by
        unfold x2
        refine Keeps.forL ?_ ?_
        · intro b1 u1
          refine Keeps.step State.modAsn_keeps (by rfl) ?_
          exact Keeps.refl _
        · assumption
      have h3 : Keeps (mask [.sched, .assocs, .kindle]) s x3 := by
        unfold x3
        refine Keeps.step State.modLink_keeps (by rfl) ?_
        assumption
      clear_value x3
      clear_value x2
      clear_value x1
      refine Keeps.step State.modRoll_keeps (by rfl) ?_
      assumption
    · exact Keeps.refl _
  · exact Keeps.refl _

theorem State.liveStep_keeps {s : State} :
    Keeps (mask [.sched, .assocs]) s (State.liveStep s) := by
  unfold State.liveStep
  refine Keeps.forL ?_ ?_
  · intro b1 u1
    extract_lets x1 x2
    have h1 : Keeps (mask [.sched, .assocs]) u1 x2 := by
      unfold x2
      refine Keeps.step State.modAsn_keeps (by rfl) ?_
      exact Keeps.refl _
    clear_value x2
    refine Keeps.ite ?_ ?_
    · exact Keeps.refl _
    · split
      · split
        · refine Keeps.ite ?_ ?_
          · split
            · refine Keeps.ite ?_ ?_
              · refine Keeps.step State.schedule_keeps (by rfl) ?_
                assumption
              · assumption
            · assumption
          · exact Keeps.refl _
        · exact Keeps.refl _
      · exact Keeps.refl _
  · exact Keeps.refl _

theorem State.replaceSession_keeps {s : State} {k : Nat} {x : Session} :
    Keeps (mask [.sched, .assocs, .kindle]) s (State.replaceSession s k x) := by
  unfold State.replaceSession
  extract_lets x1
  have h1 : Keeps (mask [.sched, .assocs, .kindle]) s x1 := by
    unfold x1
    refine Keeps.forL ?_ ?_
    · intro b1 u1
      refine Keeps.step State.modAsn_keeps (by rfl) ?_
      refine Keeps.step State.switchAsn_keeps (by rfl) ?_
      exact Keeps.refl _
    · exact Keeps.refl _
  clear_value x1
  refine Keeps.step State.modLink_keeps (by rfl) ?_
  refine Keeps.step State.closeSession_keeps (by rfl) ?_
  assumption

theorem State.sessionLive_keeps {s : State} {k : Nat} :
    Keeps (mask [.sched, .rep, .assocs, .kindle]) s (State.sessionLive s k) := by
  unfold State.sessionLive
  extract_lets x1 x2 x3
  have h1 : Keeps (mask [.sched, .rep, .assocs, .kindle]) s x1 := by
    unfold x1
    split
    · refine Keeps.ite ?_ ?_
      · exact Keeps.refl _
      · split
        · refine Keeps.ite ?_ ?_
          · refine Keeps.step State.replaceSession_keeps (by rfl) ?_
            exact Keeps.refl _
          · exact Keeps.refl _
        · refine Keeps.ite ?_ ?_
          · refine Keeps.step State.modLink_keeps (by rfl) ?_
            exact Keeps.refl _
          · refine Keeps.step State.replaceSession_keeps (by rfl) ?_
            exact Keeps.refl _
    · exact Keeps.refl _
  have h2 : Keeps (mask [.sched, .rep, .assocs, .kindle]) s x2 := by
    unfold x2
    refine Keeps.step State.modSes_keeps (by rfl) ?_
    assumption
  have h3 : Keeps (mask [.sched, .rep, .assocs, .kindle]) s x3 := by
    unfold x3
    refine Keeps.step State.modLink_keeps (by rfl) ?_
    assumption
  clear_value x3
  clear_value x2
  clear_value x1
  split
  · refine Keeps.ite ?_ ?_
    · refine Keeps.step State.liveHeld_keeps (by rfl) ?_
      refine Keeps.step State.count_keeps (by rfl) ?_
      refine Keeps.step State.kdlEvent_keeps (by rfl) ?_
      assumption
    · assumption
  · assumption

theorem State.endLive_keeps {m : Nat} {z : State} {s : State} {k : Nat} {cause : Nat} {tell : State → State} (hc :
    Covers m (mask [.sched, .kindle]))
    (htell : ∀ u, Keeps m u (tell u)) (h : Keeps m z s) :
    Keeps m z (State.endLive s k cause tell) := by
  unfold State.endLive
  refine Keeps.trans h ?_
  with_reducible refine Keeps.step State.holdoff_keeps ?_ ?_
  · exact hc.trans (n := mask [.sched, .kindle]) (rfl)
  refine Keeps.step (htell ..) (Nat.or_self _) ?_
  with_reducible refine Keeps.step State.closeSession_keeps ?_ ?_
  · exact hc.trans (n := mask [.sched, .kindle]) (rfl)
  with_reducible refine Keeps.step State.closeSession_keeps ?_ ?_
  · exact hc.trans (n := mask [.sched, .kindle]) (rfl)
  with_reducible refine Keeps.step State.killLink_keeps ?_ ?_
  · exact hc.trans (n := mask [.sched, .kindle]) (rfl)
  exact Keeps.refl _

theorem State.escalate_keeps {s : State} {k : Nat} :
    Keeps (mask [.sched, .rep, .ports, .kindle, .out]) s (State.escalate s k) := by
  unfold State.escalate
  split
  · refine Keeps.step State.rollEvent_keeps (by rfl) ?_
    refine State.endLive_keeps ?_ ?_ ?_
    · exact rfl
    · intro u1
      refine Keeps.step State.sendAbort_keeps (by rfl) ?_
      exact Keeps.refl _
    · exact Keeps.refl _
  · exact Keeps.refl _

theorem State.failMsg_keeps {s : State} {k : Nat} :
    Keeps (mask [.rep, .ports, .kindle, .out]) s (State.failMsg s k) := by
  unfold State.failMsg
  extract_lets x1 x2
  have h1 : Keeps (mask [.rep, .ports, .kindle, .out]) s x2 := by
    unfold x2
    refine Keeps.step State.endMsg_keeps (by rfl) ?_
    refine Keeps.step State.kdlEvent_keeps (by rfl) ?_
    refine Keeps.step State.count_keeps (by rfl) ?_
    exact Keeps.refl _
  clear_value x2
  split
  · extract_lets x3 x4
    have h2 : Keeps (mask [.rep, .ports, .kindle, .out]) s x4 := by
      unfold x4
      refine Keeps.ite ?_ ?_
      · refine Keeps.step State.failSession_keeps (by rfl) ?_
        assumption
      · refine Keeps.ite ?_ ?_
        · refine Keeps.step State.failSession_keeps (by rfl) ?_
          assumption
        · assumption
    clear_value x4
    refine Keeps.step State.pump_keeps (by rfl) ?_
    assumption
  · exact Keeps.refl _

theorem State.follow_keeps {s : State} {k : Nat} {t : Nat} {peerCount : Nat} :
    Keeps (mask [.assocs, .kindle]) s (State.follow s k t peerCount) := by
  unfold State.follow
  extract_lets x1 x2 x3
  have h1 : Keeps (mask [.assocs, .kindle]) s x1 := by
    unfold x1
    refine Keeps.forL ?_ ?_
    · intro b1 u1
      extract_lets x4
      refine Keeps.onlyIf ?_ ?_
      · intro u2
        refine Keeps.step State.abandonAsn_keeps (by rfl) ?_
        exact Keeps.refl _
      · exact Keeps.refl _
    · exact Keeps.refl _
  clear_value x1
  refine Keeps.step State.modLink_keeps (by rfl) ?_
  assumption

theorem State.landLinkCfg_keeps {s : State} {k : Nat} {w : Word} {cyc : Nat} :
    Keeps (mask [.sched, .rep]) s (State.landLinkCfg s k w cyc) := by
  unfold State.landLinkCfg
  extract_lets x1
  refine Keeps.ite ?_ ?_
  · refine Keeps.step State.kdlEvent_keeps (by rfl) ?_
    exact Keeps.refl _
  · refine Keeps.step State.putCopy_keeps (by rfl) ?_
    exact Keeps.refl _

theorem State.landLinkCmd_keeps {s : State} {op : Nat} {cyc : Nat} :
    Keeps (mask [.sched]) s (State.landLinkCmd s op cyc) := by
  unfold State.landLinkCmd
  refine Keeps.step State.schedule_keeps (by rfl) ?_
  exact Keeps.refl _

theorem State.latDone_keeps {s : State} {u : LatUser} :
    Keeps (mask [.sched, .rep, .ports, .assocs, .vault, .kindle, .slices, .msix, .officer, .fresh, .out, .page .kvt,
        .page .hst, .page .slc]) s (State.latDone s u) := by
  unfold State.latDone
  refine Keeps.ite ?_ ?_
  · exact Keeps.refl _
  · extract_lets x1
    have h1 : ∀ u b1, Keeps (mask
  [.sched, .rep, .ports, .assocs, .vault, .kindle, .slices, .msix, .officer,
    Part.fresh, .out, .page .kvt, .page .hst, .page .slc]) u (x1 u b1) := by
      intro u b1
      unfold x1
      refine Keeps.step Keeps.set_kindle (by rfl) ?_
      exact Keeps.refl _
    clear_value x1
    split
    · refine Keeps.step State.attestDone_keeps (by rfl) ?_
      exact Keeps.refl _
    · split
      · refine Keeps.step (h1 ..) (Nat.or_self _) ?_
        exact Keeps.refl _
      · split
        · refine Keeps.step (h1 ..) (Nat.or_self _) ?_
          exact Keeps.refl _
        · split
          · rename_i x2 e1
            have h2 : Keeps (mask
  [.sched, .rep, .ports, .assocs, .vault, .kindle, .slices, .msix, .officer,
    Part.fresh, .out, .page .kvt, .page .hst, .page .slc]) s x2 := KeepsP.of_eq e1 (by
                refine KeepsP.step State.latDeliver_keeps (by rfl) ?_
                exact Keeps.refl _
              )
            clear e1
            assumption
          · rename_i x2 e1
            have h2 : Keeps (mask
  [.sched, .rep, .ports, .assocs, .vault, .kindle, .slices, .msix, .officer,
    Part.fresh, .out, .page .kvt, .page .hst, .page .slc]) s x2 := KeepsP.of_eq e1 (by
                refine KeepsP.step State.latDeliver_keeps (by rfl) ?_
                exact Keeps.refl _
              )
            clear e1
            extract_lets x3 x4 x5 x6
            have h3 : Keeps (mask
  [.sched, .rep, .ports, .assocs, .vault, .kindle, .slices, .msix, .officer,
    Part.fresh, .out, .page .kvt, .page .hst, .page .slc]) s x4 := by
              unfold x4
              refine Keeps.step State.modSes_keeps (by rfl) ?_
              assumption
            have h4 : Keeps (mask
  [.sched, .rep, .ports, .assocs, .vault, .kindle, .slices, .msix, .officer,
    Part.fresh, .out, .page .kvt, .page .hst, .page .slc]) s x5 := by
              unfold x5
              refine Keeps.step (h1 ..) (Nat.or_self _) ?_
              assumption
            have h5 : Keeps (mask
  [.sched, .rep, .ports, .assocs, .vault, .kindle, .slices, .msix, .officer,
    Part.fresh, .out, .page .kvt, .page .hst, .page .slc]) s x6 := by
              unfold x6
              refine Keeps.step State.modSes_keeps (by rfl) ?_
              assumption
            clear_value x6
            clear_value x5
            clear_value x4
            split
            · assumption
            · refine Keeps.ite ?_ ?_
              · assumption
              · split
                · refine Keeps.ite ?_ ?_
                  · refine Keeps.step State.rollService_keeps (by rfl) ?_
                    refine Keeps.step State.modLink_keeps (by rfl) ?_
                    assumption
                  · refine Keeps.step State.reachGoal_keeps (by rfl) ?_
                    assumption
                · assumption

theorem State.msgAcked_keeps {s : State} {k : Nat} {m2 : OutMsg} :
    Keeps (mask [.rep, .ports, .kindle, .out]) s (State.msgAcked s k m2) := by
  unfold State.msgAcked
  extract_lets x1 x2 x3 x4 x5
  have h1 : Keeps (mask [.rep, .ports, .kindle, .out]) s x4 := by
    unfold x4
    refine Keeps.step State.endMsg_keeps (by rfl) ?_
    exact Keeps.refl _
  have h2 : Keeps (mask [.rep, .ports, .kindle, .out]) s x5 := by
    unfold x5
    refine Keeps.ite ?_ ?_
    · assumption
    · split
      · refine Keeps.step State.modSes_keeps (by rfl) ?_
        assumption
      · refine Keeps.step State.modSes_keeps (by rfl) ?_
        assumption
      · refine Keeps.step State.modRoll_keeps (by rfl) ?_
        assumption
      · assumption
  clear_value x5
  clear_value x4
  refine Keeps.step State.pump_keeps (by rfl) ?_
  assumption

theorem State.onAbort_keeps {s : State} {k : Nat} {m2 : List Byte} :
    Keeps (mask [.sched, .rep, .kindle]) s (State.onAbort s k m2) := by
  unfold State.onAbort
  split
  · rename_i x1 e1
    have h1 : Keeps (mask [.sched, .rep, .kindle]) s x1 := KeepsP.of_eq e1 (by
        refine KeepsP.step State.controlCheck_keeps (by rfl) ?_
        exact Keeps.refl _
      )
    clear e1
    assumption
  · rename_i x1 y0 y1 e1
    have h1 : Keeps (mask [.sched, .rep, .kindle]) s x1 := KeepsP.of_eq e1 (by
        refine KeepsP.step State.controlCheck_keeps (by rfl) ?_
        exact Keeps.refl _
      )
    clear e1
    extract_lets x2 x3 x4 x5
    have h2 : Keeps (mask [.sched, .rep, .kindle]) s x3 := by
      unfold x3
      refine Keeps.step State.modLink_keeps (by rfl) ?_
      assumption
    have h3 : Keeps (mask [.sched, .rep, .kindle]) s x4 := by
      unfold x4
      refine Keeps.step State.kdlEvent_keeps (by rfl) ?_
      refine Keeps.step State.count_keeps (by rfl) ?_
      assumption
    have h4 : Keeps (mask [.sched, .rep, .kindle]) s x5 := by
      unfold x5
      refine Keeps.onlyIf ?_ ?_
      · intro u1
        refine Keeps.step State.wrEvt_keeps (by rfl) ?_
        exact Keeps.refl _
      · assumption
    clear_value x5
    clear_value x4
    clear_value x3
    refine Keeps.ite ?_ ?_
    · refine State.endLive_keeps ?_ ?_ ?_
      · exact rfl
      · intro u1
        exact Keeps.refl _
      · assumption
    · refine Keeps.step State.holdoff_keeps (by rfl) ?_
      refine Keeps.step State.closeSession_keeps (by rfl) ?_
      assumption

theorem State.onDone_keeps {s : State} {k : Nat} {m2 : List Byte} :
    Keeps (mask [.rep, .kindle]) s (State.onDone s k m2) := by
  unfold State.onDone
  split
  · rename_i x1 e1
    have h1 : Keeps (mask [.rep, .kindle]) s x1 := KeepsP.of_eq e1 (by
        refine KeepsP.step State.controlCheck_keeps (by rfl) ?_
        exact Keeps.refl _
      )
    clear e1
    assumption
  · rename_i x1 y0 y1 e1
    have h1 : Keeps (mask [.rep, .kindle]) s x1 := KeepsP.of_eq e1 (by
        refine KeepsP.step State.controlCheck_keeps (by rfl) ?_
        exact Keeps.refl _
      )
    clear e1
    extract_lets x2 x3
    have h2 : Keeps (mask [.rep, .kindle]) s x3 := by
      unfold x3
      refine Keeps.step State.acceptControl_keeps (by rfl) ?_
      assumption
    clear_value x3
    refine Keeps.ite ?_ ?_
    · refine Keeps.step State.staleMsg_keeps (by rfl) ?_
      assumption
    · split
      · refine Keeps.ite ?_ ?_
        · assumption
        · extract_lets x4
          have h3 : Keeps (mask [.rep, .kindle]) s x4 := by
            unfold x4
            refine Keeps.step State.modRoll_keeps (by rfl) ?_
            refine Keeps.step State.countCheck_keeps (by rfl) ?_
            assumption
          clear_value x4
          refine Keeps.ite ?_ ?_
          · refine Keeps.step State.rollComplete_keeps (by rfl) ?_
            assumption
          · assumption
      · assumption

theorem State.onKeepalive_keeps {s : State} {k : Nat} {m2 : List Byte} :
    Keeps (mask [.rep, .kindle]) s (State.onKeepalive s k m2) := by
  unfold State.onKeepalive
  split
  · rename_i x1 e1
    have h1 : Keeps (mask [.rep, .kindle]) s x1 := KeepsP.of_eq e1 (by
        refine KeepsP.step State.controlCheck_keeps (by rfl) ?_
        exact Keeps.refl _
      )
    clear e1
    assumption
  · rename_i x1 y0 y1 e1
    have h1 : Keeps (mask [.rep, .kindle]) s x1 := KeepsP.of_eq e1 (by
        refine KeepsP.step State.controlCheck_keeps (by rfl) ?_
        exact Keeps.refl _
      )
    clear e1
    refine Keeps.ite ?_ ?_
    · refine Keeps.step State.staleMsg_keeps (by rfl) ?_
      assumption
    · refine Keeps.step State.modSes_keeps (by rfl) ?_
      refine Keeps.step State.acceptControl_keeps (by rfl) ?_
      assumption

theorem State.withdrawType_keeps {s : State} {k : Nat} {t : Nat} :
    Keeps (mask [.rep, .ports, .kindle, .out]) s (State.withdrawType s k t) := by
  unfold State.withdrawType
  refine Keeps.step State.pump_keeps (by rfl) ?_
  refine Keeps.step State.withdrawAll_keeps (by rfl) ?_
  exact Keeps.refl _

theorem State.onPropose_keeps {s : State} {k : Nat} {m2 : List Byte} :
    Keeps (mask [.rep, .ports, .assocs, .kindle, .out]) s (State.onPropose s k m2) := by
  unfold State.onPropose
  split
  · rename_i x1 e1
    have h1 : Keeps (mask [.rep, .ports, .assocs, .kindle, .out]) s x1 := KeepsP.of_eq e1 (by
        refine KeepsP.step State.controlCheck_keeps (by rfl) ?_
        exact Keeps.refl _
      )
    clear e1
    assumption
  · rename_i x1 y0 y1 e1
    have h1 : Keeps (mask [.rep, .ports, .assocs, .kindle, .out]) s x1 := KeepsP.of_eq e1 (by
        refine KeepsP.step State.controlCheck_keeps (by rfl) ?_
        exact Keeps.refl _
      )
    clear e1
    extract_lets x2 x3 x4 x5 x6
    have h2 : Keeps (mask [.rep, .ports, .assocs, .kindle, .out]) s x5 := by
      unfold x5
      refine Keeps.step State.acceptControl_keeps (by rfl) ?_
      assumption
    have h3 : Keeps (mask [.rep, .ports, .assocs, .kindle, .out]) s x6 := by
      unfold x6
      refine Keeps.step State.modRoll_keeps (by rfl) ?_
      assumption
    clear_value x6
    clear_value x5
    refine Keeps.ite ?_ ?_
    · refine Keeps.step State.discard_keeps (by rfl) ?_
      assumption
    · refine Keeps.ite ?_ ?_
      · refine Keeps.step State.staleMsg_keeps (by rfl) ?_
        assumption
      · split
        · refine Keeps.step State.follow_keeps (by rfl) ?_
          assumption
        · refine Keeps.ite ?_ ?_
          · refine Keeps.ite ?_ ?_
            · refine Keeps.ite ?_ ?_
              · refine Keeps.step State.collide_keeps (by rfl) ?_
                assumption
              · refine Keeps.step State.follow_keeps (by rfl) ?_
                assumption
            · refine Keeps.step State.follow_keeps (by rfl) ?_
              assumption
          · refine Keeps.ite ?_ ?_
            · refine Keeps.ite ?_ ?_
              · assumption
              · refine Keeps.step State.sendRoll_keeps (by rfl) ?_
                refine Keeps.step State.countCheck_keeps (by rfl) ?_
                assumption
            · refine Keeps.step State.follow_keeps (by rfl) ?_
              refine Keeps.step State.withdrawType_keeps (by rfl) ?_
              assumption

theorem State.onReady_keeps {s : State} {k : Nat} {m2 : List Byte} :
    Keeps (mask [.rep, .ports, .kindle, .out]) s (State.onReady s k m2) := by
  unfold State.onReady
  split
  · rename_i x1 e1
    have h1 : Keeps (mask [.rep, .ports, .kindle, .out]) s x1 := KeepsP.of_eq e1 (by
        refine KeepsP.step State.controlCheck_keeps (by rfl) ?_
        exact Keeps.refl _
      )
    clear e1
    refine Keeps.step State.dropAck_keeps (by rfl) ?_
    assumption
  · rename_i x1 y0 y1 e1
    have h1 : Keeps (mask [.rep, .ports, .kindle, .out]) s x1 := KeepsP.of_eq e1 (by
        refine KeepsP.step State.controlCheck_keeps (by rfl) ?_
        exact Keeps.refl _
      )
    clear e1
    split
    · refine Keeps.ite ?_ ?_
      · refine Keeps.step State.dropAck_keeps (by rfl) ?_
        refine Keeps.step State.staleMsg_keeps (by rfl) ?_
        assumption
      · extract_lets x2
        have h2 : Keeps (mask [.rep, .ports, .kindle, .out]) s x2 := by
          unfold x2
          refine Keeps.step State.releaseAck_keeps (by rfl) ?_
          refine Keeps.step State.acceptControl_keeps (by rfl) ?_
          assumption
        clear_value x2
        refine Keeps.ite ?_ ?_
        · refine Keeps.step State.modRoll_keeps (by rfl) ?_
          refine Keeps.step State.countCheck_keeps (by rfl) ?_
          assumption
        · assumption
    · refine Keeps.step State.dropAck_keeps (by rfl) ?_
      refine Keeps.step State.staleMsg_keeps (by rfl) ?_
      assumption

theorem State.onRekeyRequest_keeps {s : State} {k : Nat} {m2 : List Byte} :
    Keeps (mask [.rep, .ports, .kindle, .out]) s (State.onRekeyRequest s k m2) := by
  unfold State.onRekeyRequest
  split
  · rename_i x1 e1
    have h1 : Keeps (mask [.rep, .ports, .kindle, .out]) s x1 := KeepsP.of_eq e1 (by
        refine KeepsP.step State.controlCheck_keeps (by rfl) ?_
        exact Keeps.refl _
      )
    clear e1
    assumption
  · rename_i x1 y0 y1 e1
    have h1 : Keeps (mask [.rep, .ports, .kindle, .out]) s x1 := KeepsP.of_eq e1 (by
        refine KeepsP.step State.controlCheck_keeps (by rfl) ?_
        exact Keeps.refl _
      )
    clear e1
    refine Keeps.ite ?_ ?_
    · refine Keeps.step State.discard_keeps (by rfl) ?_
      assumption
    · extract_lets x2 x3 x4 x5 x6
      have h2 : Keeps (mask [.rep, .ports, .kindle, .out]) s x2 := by
        unfold x2
        refine Keeps.step State.acceptControl_keeps (by rfl) ?_
        assumption
      have h3 : Keeps (mask [.rep, .ports, .kindle, .out]) s x4 := by
        unfold x4
        refine Keeps.step State.dropLattice_keeps (by rfl) ?_
        refine Keeps.step State.withdrawAll_keeps (by rfl) ?_
        assumption
      have h4 : Keeps (mask [.rep, .ports, .kindle, .out]) s x5 := by
        unfold x5
        refine Keeps.ite ?_ ?_
        · refine Keeps.step State.modLink_keeps (by rfl) ?_
          assumption
        · refine Keeps.step State.dropLattice_keeps (by rfl) ?_
          assumption
      have h5 : Keeps (mask [.rep, .ports, .kindle, .out]) s x6 := by
        unfold x6
        refine Keeps.step State.modSes_keeps (by rfl) ?_
        assumption
      clear_value x6
      clear_value x5
      clear_value x4
      clear_value x2
      refine Keeps.ite ?_ ?_
      · refine Keeps.step State.collide_keeps (by rfl) ?_
        assumption
      · refine Keeps.step State.pump_keeps (by rfl) ?_
        refine Keeps.step State.lattice_keeps (by rfl) ?_
        assumption

theorem State.onRekeyResponse_keeps {s : State} {k : Nat} {m2 : List Byte} :
    Keeps (mask [.rep, .kindle]) s (State.onRekeyResponse s k m2) := by
  unfold State.onRekeyResponse
  split
  · rename_i x1 e1
    have h1 : Keeps (mask [.rep, .kindle]) s x1 := KeepsP.of_eq e1 (by
        refine KeepsP.step State.controlCheck_keeps (by rfl) ?_
        exact Keeps.refl _
      )
    clear e1
    assumption
  · rename_i x1 y0 y1 e1
    have h1 : Keeps (mask [.rep, .kindle]) s x1 := KeepsP.of_eq e1 (by
        refine KeepsP.step State.controlCheck_keeps (by rfl) ?_
        exact Keeps.refl _
      )
    clear e1
    refine Keeps.ite ?_ ?_
    · refine Keeps.step State.discard_keeps (by rfl) ?_
      assumption
    · refine Keeps.ite ?_ ?_
      · refine Keeps.step State.staleMsg_keeps (by rfl) ?_
        assumption
      · extract_lets x2
        have h2 : Keeps (mask [.rep, .kindle]) s x2 := by
          unfold x2
          refine Keeps.step State.modSes_keeps (by rfl) ?_
          refine Keeps.step State.acceptControl_keeps (by rfl) ?_
          assumption
        clear_value x2
        refine Keeps.step State.lattice_keeps (by rfl) ?_
        refine Keeps.step State.modLink_keeps (by rfl) ?_
        assumption

theorem State.rollFailure_keeps {s : State} {k : Nat} {as : List Nat} :
    KeepsP (mask [.rep, .assocs, .kindle]) s (State.rollFailure s k as) := by
  unfold State.rollFailure
  extract_lets x1 x2 x3 x4 x5 x6
  have h1 : Keeps (mask [.rep, .assocs, .kindle]) s x1 := by
    unfold x1
    refine Keeps.step State.modLink_keeps (by rfl) ?_
    exact Keeps.refl _
  have h2 : Keeps (mask [.rep, .assocs, .kindle]) s x2 := by
    unfold x2
    refine Keeps.forL ?_ ?_
    · intro b1 u1
      extract_lets x7 x8
      have h2 : Keeps (mask [.rep, .assocs, .kindle]) u1 x8 := by
        unfold x8
        refine Keeps.step State.modAsn_keeps (by rfl) ?_
        exact Keeps.refl _
      clear_value x8
      refine Keeps.onlyIf ?_ ?_
      · intro u2
        refine Keeps.step State.asnEvent_keeps (by rfl) ?_
        exact Keeps.refl _
      · assumption
    · assumption
  have h3 : Keeps (mask [.rep, .assocs, .kindle]) s x3 := by
    unfold x3
    refine Keeps.step State.rollEvent_keeps (by rfl) ?_
    assumption
  have h4 : Keeps (mask [.rep, .assocs, .kindle]) s x5 := by
    unfold x5
    refine Keeps.onlyIf ?_ ?_
    · intro u1
      refine Keeps.step State.rollEvent_keeps (by rfl) ?_
      exact Keeps.refl _
    · assumption
  clear_value x5
  clear_value x3
  clear_value x2
  clear_value x1
  refine KeepsP.mk ?_
  assumption

theorem State.takeAck_keeps {s : State} {k : Nat} {id : Nat} {base : Nat} {map : Nat} :
    Keeps (mask [.rep, .ports, .kindle, .out]) s (State.takeAck s k id base map) := by
  unfold State.takeAck
  extract_lets x1 x2 x3 x4 x5 x6 x7
  have h1 : Keeps (mask [.rep, .ports, .kindle, .out]) s x5 := by
    unfold x5
    split
    · refine Keeps.step State.modLink_keeps (by rfl) ?_
      exact Keeps.refl _
    · exact Keeps.refl _
  have h2 : Keeps (mask [.rep, .ports, .kindle, .out]) s x7 := by
    unfold x7
    refine Keeps.step State.modLink_keeps (by rfl) ?_
    assumption
  clear_value x7
  clear_value x5
  refine Keeps.ite ?_ ?_
  · exact Keeps.refl _
  · split
    · refine Keeps.ite ?_ ?_
      · refine Keeps.step State.msgAcked_keeps (by rfl) ?_
        assumption
      · refine Keeps.step State.pump_keeps (by rfl) ?_
        assumption
    · assumption

theorem State.takeMsg_keeps {m : Nat} {z : State} {s : State} {k : Nat} {t : Nat} {f : State → List Byte → State ×
    Bool} (hc : Covers m (mask [.kindle]))
    (hf : ∀ u b1, KeepsP m u (f u b1)) (h : Keeps m z s) :
    Keeps m z (State.takeMsg s k t f) := by
  unfold State.takeMsg
  refine Keeps.trans h ?_
  split
  · refine Keeps.ite ?_ ?_
    · exact Keeps.refl _
    · split
      · rename_i x1 e1
        have h1 : Keeps (m) s x1 := KeepsP.of_eq e1 (by
            refine KeepsP.step (hf ..) (Nat.or_self _) ?_
            with_reducible refine Keeps.step State.modLink_keeps ?_ ?_
            · exact hc.trans (n := mask [.kindle]) (rfl)
            exact Keeps.refl _
          )
        clear e1
        assumption
      · rename_i x1 e1
        have h1 : Keeps (m) s x1 := KeepsP.of_eq e1 (by
            refine KeepsP.step (hf ..) (Nat.or_self _) ?_
            with_reducible refine Keeps.step State.modLink_keeps ?_ ?_
            · exact hc.trans (n := mask [.kindle]) (rfl)
            exact Keeps.refl _
          )
        clear e1
        with_reducible refine Keeps.step State.modLink_keeps ?_ ?_
        · exact hc.trans (n := mask [.kindle]) (rfl)
        assumption
  · exact Keeps.refl _

theorem State.takeControl_keeps {m : Nat} {z : State} {s : State} {k : Nat} {t : Nat} {f : State → List Byte → State}
    (hc : Covers m (mask [.kindle]))
    (hf : ∀ u b1, Keeps m u (f u b1)) (h : Keeps m z s) :
    Keeps m z (State.takeControl s k t f) := by
  unfold State.takeControl
  refine Keeps.trans h ?_
  refine State.takeMsg_keeps ?_ ?_ ?_
  · exact hc.trans (n := mask [.kindle]) (rfl)
  · intro u1 b2
    refine KeepsP.mk ?_
    refine Keeps.step (hf ..) (Nat.or_self _) ?_
    exact Keeps.refl _
  · exact Keeps.refl _

theorem State.wholeMsg_keeps {s : State} {k : Nat} {id : Nat} {count : Nat} {m4 : List Byte} :
    Keeps (mask [.rep, .kindle]) s (State.wholeMsg s k id count m4) := by
  unfold State.wholeMsg
  extract_lets x1 x2 x3 x4
  have h1 : Keeps (mask [.rep, .kindle]) s x1 := by
    unfold x1
    refine Keeps.step State.modLink_keeps (by rfl) ?_
    refine Keeps.step State.count_keeps (by rfl) ?_
    exact Keeps.refl _
  have h2 : ∀ u, Keeps (mask [.rep, .kindle]) u (x2 u) := by
    intro u
    unfold x2
    refine Keeps.step State.modLink_keeps (by rfl) ?_
    exact Keeps.refl _
  have h3 : ∀ u, Keeps (mask [.rep, .kindle]) u (x3 u) := by
    intro u
    unfold x3
    refine Keeps.step State.modLink_keeps (by rfl) ?_
    exact Keeps.refl _
  clear_value x3
  clear_value x2
  clear_value x1
  refine Keeps.ite ?_ ?_
  · refine Keeps.step (h2 ..) (Nat.or_self _) ?_
    refine Keeps.step State.discard_keeps (by rfl) ?_
    assumption
  · refine Keeps.ite ?_ ?_
    · refine Keeps.step (h2 ..) (Nat.or_self _) ?_
      refine Keeps.step (h3 ..) (Nat.or_self _) ?_
      assumption
    · refine Keeps.ite ?_ ?_
      · refine Keeps.ite ?_ ?_
        · refine Keeps.step State.modLink_keeps (by rfl) ?_
          refine Keeps.step State.discard_keeps (by rfl) ?_
          assumption
        · refine Keeps.step (h2 ..) (Nat.or_self _) ?_
          refine Keeps.step State.discard_keeps (by rfl) ?_
          assumption
      · refine Keeps.ite ?_ ?_
        · refine Keeps.step State.modLink_keeps (by rfl) ?_
          refine Keeps.step (h3 ..) (Nat.or_self _) ?_
          assumption
        · refine Keeps.step (h2 ..) (Nat.or_self _) ?_
          refine Keeps.step (h3 ..) (Nat.or_self _) ?_
          assumption

theorem State.takeFragment_keeps {s : State} {k : Nat} {id : Nat} {index : Nat} {count : Nat} {payload : List Byte} :
    Keeps (mask [.rep, .kindle]) s (State.takeFragment s k id index count payload) := by
  unfold State.takeFragment
  extract_lets x1 x2 x3
  have h1 : ∀ u b1 b2, Keeps (mask [.rep, .kindle]) u (x2 u b1 b2) := by
    intro u b1 b2
    unfold x2
    refine Keeps.step State.modLink_keeps (by rfl) ?_
    refine Keeps.step State.count_keeps (by rfl) ?_
    exact Keeps.refl _
  clear_value x2
  refine Keeps.ite ?_ ?_
  · refine Keeps.step (h1 ..) (Nat.or_self _) ?_
    exact Keeps.refl _
  · refine Keeps.ite ?_ ?_
    · refine Keeps.step State.count_keeps (by rfl) ?_
      exact Keeps.refl _
    · split
      rename_i x4 y0 e1
      have h2 : Keeps (mask [.rep, .kindle]) s x4 := KeepsP.of_eq e1 (by
          split
          · refine KeepsP.ite ?_ ?_
            · refine KeepsP.mk ?_
              exact Keeps.refl _
            · refine KeepsP.mk ?_
              refine Keeps.step State.count_keeps (by rfl) ?_
              exact Keeps.refl _
          · refine KeepsP.mk ?_
            exact Keeps.refl _
        )
      clear e1
      refine Keeps.ite ?_ ?_
      · refine Keeps.step State.modLink_keeps (by rfl) ?_
        refine Keeps.step (h1 ..) (Nat.or_self _) ?_
        assumption
      · refine Keeps.ite ?_ ?_
        · refine Keeps.step State.modLink_keeps (by rfl) ?_
          refine Keeps.step State.count_keeps (by rfl) ?_
          assumption
        · extract_lets x5
          refine Keeps.ite ?_ ?_
          · refine Keeps.step State.wholeMsg_keeps (by rfl) ?_
            assumption
          · refine Keeps.step State.modLink_keeps (by rfl) ?_
            assumption

theorem State.takeSesMsg_keeps {m : Nat} {z : State} {s : State} {k : Nat} {t : Nat} {f : State → Bool → Session →
    List Byte → State × Bool} (hc : Covers m (mask [.rep, .kindle]))
    (hf : ∀ u b1 b2 b3, KeepsP m u (f u b1 b2 b3)) (h : Keeps m z s) :
    Keeps m z (State.takeSesMsg s k t f) := by
  unfold State.takeSesMsg
  refine Keeps.trans h ?_
  refine State.takeMsg_keeps ?_ ?_ ?_
  · exact hc.trans (n := mask [.rep, .kindle]) (rfl)
  · intro u1 b2
    split
    · split
      · refine KeepsP.step (hf ..) (Nat.or_self _) ?_
        exact Keeps.refl _
      · refine KeepsP.mk ?_
        with_reducible refine Keeps.step State.discard_keeps ?_ ?_
        · exact hc.trans (n := mask [.rep, .kindle]) (rfl)
        exact Keeps.refl _
    · refine KeepsP.mk ?_
      with_reducible refine Keeps.step State.discard_keeps ?_ ?_
      · exact hc.trans (n := mask [.rep, .kindle]) (rfl)
      exact Keeps.refl _
  · exact Keeps.refl _

theorem execOverlapEnd_keeps {k : LinkNo} {s : State} :
    KeepsX (mask [.rep, .ports, .assocs, .kindle, .msix, .out]) s (execOverlapEnd k s) := by
  unfold execOverlapEnd
  refine KeepsX.done (by rfl) ?_
  refine Keeps.step State.rollOverlap_keeps (by rfl) ?_
  exact Keeps.refl _

theorem execKeyPhaseSwitch_keeps {k : LinkNo} {s : State} :
    KeepsX (mask [.sched, .rep, .assocs, .kindle, .msix, .out]) s (execKeyPhaseSwitch k s) := by
  unfold execKeyPhaseSwitch
  refine KeepsX.done (by rfl) ?_
  refine Keeps.step State.rollSwitch_keeps (by rfl) ?_
  exact Keeps.refl _

theorem execFragmentReceived_keeps {k : LinkNo} {kind : Byte} {id : Fin 65536} {index : Byte} {count : Byte} {payload
    : List Byte} {cyc : Cyc} {s : State} :
    KeepsX (mask [.cycle, .rep, .ports, .kindle, .msix,
        .out]) s (execFragmentReceived k kind id index count payload cyc s) := by
  unfold execFragmentReceived
  extract_lets x1
  have h1 : Keeps (mask [.cycle, .rep, .ports, .kindle, .msix, .out]) s x1 := by
    unfold x1
    refine Keeps.step State.at_keeps (by rfl) ?_
    exact Keeps.refl _
  clear_value x1
  refine KeepsX.done (by rfl) ?_
  refine Keeps.ite ?_ ?_
  · assumption
  · refine Keeps.ite ?_ ?_
    · refine Keeps.step State.takeFragment_keeps (by rfl) ?_
      assumption
    · refine Keeps.ite ?_ ?_
      · refine Keeps.step State.takeAck_keeps (by rfl) ?_
        assumption
      · refine Keeps.step State.count_keeps (by rfl) ?_
        assumption

theorem execAckReceived_keeps {k : LinkNo} {id : Fin 65536} {base : Byte} {map : Byte} {cyc : Cyc} {s : State} :
    KeepsX (mask [.cycle, .rep, .ports, .kindle, .msix, .out]) s (execAckReceived k id base map cyc s) := by
  unfold execAckReceived
  extract_lets x1
  have h1 : Keeps (mask [.cycle, .rep, .ports, .kindle, .msix, .out]) s x1 := by
    unfold x1
    refine Keeps.step State.at_keeps (by rfl) ?_
    exact Keeps.refl _
  clear_value x1
  refine KeepsX.done (by rfl) ?_
  refine Keeps.ite ?_ ?_
  · refine Keeps.step State.takeAck_keeps (by rfl) ?_
    assumption
  · assumption

theorem execAckSend_keeps {k : LinkNo} {s : State} :
    KeepsX (mask [.rep, .ports, .kindle, .msix, .out]) s (execAckSend k s) := by
  unfold execAckSend
  extract_lets x1
  refine KeepsX.done (by rfl) ?_
  split
  · refine Keeps.ite ?_ ?_
    · refine Keeps.step State.sendAck_keeps (by rfl) ?_
      exact Keeps.refl _
    · exact Keeps.refl _
  · exact Keeps.refl _

theorem execFragmentRetransmit_keeps {k : LinkNo} {index : Fin 35} {s : State} :
    KeepsX (mask [.rep, .ports, .kindle, .msix, .out]) s (execFragmentRetransmit k index s) := by
  unfold execFragmentRetransmit
  refine KeepsX.done (by rfl) ?_
  split
  · refine Keeps.ite ?_ ?_
    · refine Keeps.step State.sendIndex_keeps (by rfl) ?_
      exact Keeps.refl _
    · exact Keeps.refl _
  · exact Keeps.refl _

theorem execFragmentRetriesExhausted_keeps {k : LinkNo} {index : Fin 35} {s : State} :
    KeepsX (mask [.rep, .ports, .kindle, .msix, .out]) s (execFragmentRetriesExhausted k index s) := by
  unfold execFragmentRetriesExhausted
  refine KeepsX.done (by rfl) ?_
  split
  · refine Keeps.ite ?_ ?_
    · refine Keeps.step State.failMsg_keeps (by rfl) ?_
      exact Keeps.refl _
    · exact Keeps.refl _
  · exact Keeps.refl _

theorem execMessageTimeout_keeps {k : LinkNo} {s : State} :
    KeepsX (mask [.rep, .ports, .kindle, .msix, .out]) s (execMessageTimeout k s) := by
  unfold execMessageTimeout
  extract_lets x1
  refine KeepsX.done (by rfl) ?_
  refine Keeps.ite ?_ ?_
  · refine Keeps.step State.failMsg_keeps (by rfl) ?_
    exact Keeps.refl _
  · exact Keeps.refl _

theorem execOffer_keeps {k : LinkNo} {s : State} :
    KeepsX (mask [.sched, .rep, .ports, .vault, .kindle, .msix, .fresh, .out]) s (execOffer k s) := by
  unfold execOffer
  refine KeepsX.done (by rfl) ?_
  refine State.takeMsg_keeps ?_ ?_ ?_
  · exact rfl
  · intro u1 b2
    refine KeepsP.step State.onOffer_keeps (by rfl) ?_
    exact Keeps.refl _
  · exact Keeps.refl _

theorem execAnswer_keeps {k : LinkNo} {s : State} :
    KeepsX (mask [.rep, .ports, .kindle, .msix, .out]) s (execAnswer k s) := by
  unfold execAnswer
  refine KeepsX.done (by rfl) ?_
  refine State.takeSesMsg_keeps ?_ ?_ ?_
  · exact rfl
  · intro u1 b2 b3 b4
    refine KeepsP.mk ?_
    refine Keeps.step State.onAnswer_keeps (by rfl) ?_
    exact Keeps.refl _
  · exact Keeps.refl _

theorem execProof_keeps {k : LinkNo} {s : State} :
    KeepsX (mask [.sched, .rep, .ports, .vault, .kindle, .msix, .out]) s (execProof k s) := by
  unfold execProof
  refine KeepsX.done (by rfl) ?_
  refine State.takeSesMsg_keeps ?_ ?_ ?_
  · exact rfl
  · intro u1 b2 b3 b4
    refine KeepsP.step State.onProof_keeps (by rfl) ?_
    exact Keeps.refl _
  · exact Keeps.refl _

theorem execConfirm_keeps {k : LinkNo} {s : State} :
    KeepsX (mask [.rep, .ports, .kindle, .msix, .out]) s (execConfirm k s) := by
  unfold execConfirm
  refine KeepsX.done (by rfl) ?_
  refine State.takeSesMsg_keeps ?_ ?_ ?_
  · exact rfl
  · intro u1 b2 b3 b4
    split
    · rename_i x1 e1
      have h1 : Keeps (mask [.rep, .ports, .kindle, .msix, .out]) u1 x1 := KeepsP.of_eq e1 (by
          refine KeepsP.step State.onConfirm_keeps (by rfl) ?_
          exact Keeps.refl _
        )
      clear e1
      refine KeepsP.mk ?_
      assumption
    · rename_i x1 e1
      have h1 : Keeps (mask [.rep, .ports, .kindle, .msix, .out]) u1 x1 := KeepsP.of_eq e1 (by
          refine KeepsP.step State.onConfirm_keeps (by rfl) ?_
          exact Keeps.refl _
        )
      clear e1
      refine KeepsP.mk ?_
      split
      · refine Keeps.ite ?_ ?_
        · assumption
        · refine Keeps.step State.dropAck_keeps (by rfl) ?_
          assumption
      · refine Keeps.step State.dropAck_keeps (by rfl) ?_
        assumption
  · exact Keeps.refl _

theorem execRollPropose_keeps {k : LinkNo} {s : State} :
    KeepsX (mask [.rep, .ports, .assocs, .kindle, .msix, .out]) s (execRollPropose k s) := by
  unfold execRollPropose
  refine KeepsX.done (by rfl) ?_
  refine State.takeControl_keeps ?_ ?_ ?_
  · exact rfl
  · intro u1 b2
    refine Keeps.step State.onPropose_keeps (by rfl) ?_
    exact Keeps.refl _
  · exact Keeps.refl _

theorem execRollReady_keeps {k : LinkNo} {s : State} :
    KeepsX (mask [.rep, .ports, .kindle, .msix, .out]) s (execRollReady k s) := by
  unfold execRollReady
  refine KeepsX.done (by rfl) ?_
  refine State.takeControl_keeps ?_ ?_ ?_
  · exact rfl
  · intro u1 b2
    refine Keeps.step State.onReady_keeps (by rfl) ?_
    exact Keeps.refl _
  · exact Keeps.refl _

theorem execRollDone_keeps {k : LinkNo} {s : State} :
    KeepsX (mask [.rep, .kindle, .msix, .out]) s (execRollDone k s) := by
  unfold execRollDone
  refine KeepsX.done (by rfl) ?_
  refine State.takeControl_keeps ?_ ?_ ?_
  · exact rfl
  · intro u1 b2
    refine Keeps.step State.onDone_keeps (by rfl) ?_
    exact Keeps.refl _
  · exact Keeps.refl _

theorem execRekeyRequest_keeps {k : LinkNo} {s : State} :
    KeepsX (mask [.rep, .ports, .kindle, .msix, .out]) s (execRekeyRequest k s) := by
  unfold execRekeyRequest
  refine KeepsX.done (by rfl) ?_
  refine State.takeMsg_keeps ?_ ?_ ?_
  · exact rfl
  · intro u1 b2
    refine KeepsP.ite ?_ ?_
    · refine KeepsP.mk ?_
      exact Keeps.refl _
    · refine KeepsP.mk ?_
      refine Keeps.step State.onRekeyRequest_keeps (by rfl) ?_
      exact Keeps.refl _
  · exact Keeps.refl _

theorem execRekeyResponse_keeps {k : LinkNo} {s : State} :
    KeepsX (mask [.rep, .kindle, .msix, .out]) s (execRekeyResponse k s) := by
  unfold execRekeyResponse
  refine KeepsX.done (by rfl) ?_
  refine State.takeMsg_keeps ?_ ?_ ?_
  · exact rfl
  · intro u1 b2
    refine KeepsP.ite ?_ ?_
    · refine KeepsP.mk ?_
      refine Keeps.step State.onRekeyResponse_keeps (by rfl) ?_
      exact Keeps.refl _
    · refine KeepsP.mk ?_
      exact Keeps.refl _
  · exact Keeps.refl _

theorem execAbort_keeps {k : LinkNo} {s : State} :
    KeepsX (mask [.sched, .rep, .kindle, .msix, .out]) s (execAbort k s) := by
  unfold execAbort
  refine KeepsX.done (by rfl) ?_
  refine State.takeControl_keeps ?_ ?_ ?_
  · exact rfl
  · intro u1 b2
    refine Keeps.step State.onAbort_keeps (by rfl) ?_
    exact Keeps.refl _
  · exact Keeps.refl _

theorem execKeepalive_keeps {k : LinkNo} {s : State} :
    KeepsX (mask [.rep, .kindle, .msix, .out]) s (execKeepalive k s) := by
  unfold execKeepalive
  refine KeepsX.done (by rfl) ?_
  refine State.takeControl_keeps ?_ ?_ ?_
  · exact rfl
  · intro u1 b2
    refine Keeps.step State.onKeepalive_keeps (by rfl) ?_
    exact Keeps.refl _
  · exact Keeps.refl _

theorem execLatticeOpDone_keeps {link : Option LinkNo} {par : Bool} {s : State} :
    KeepsX (mask [.sched, .rep, .ports, .assocs, .vault, .kindle, .slices, .msix, .officer, .fresh, .out, .page .kvt,
        .page .hst, .page .slc]) s (execLatticeOpDone link par s) := by
  unfold execLatticeOpDone
  refine KeepsX.done (by rfl) ?_
  refine Keeps.step State.latDone_keeps (by rfl) ?_
  exact Keeps.refl _

theorem execKeyDeriveDone_keeps {k : LinkNo} {s : State} :
    KeepsX (mask [.rep, .assocs, .kindle, .msix, .out]) s (execKeyDeriveDone k s) := by
  unfold execKeyDeriveDone
  refine KeepsX.done (by rfl) ?_
  refine Keeps.step State.deriveLink_keeps (by rfl) ?_
  exact Keeps.refl _

theorem execPhase0Install_keeps {k : LinkNo} {s : State} :
    KeepsX (mask [.sched, .rep, .ports, .assocs, .kindle, .msix, .out]) s (execPhase0Install k s) := by
  unfold execPhase0Install
  refine KeepsX.done (by rfl) ?_
  refine Keeps.step State.phase0Install_keeps (by rfl) ?_
  exact Keeps.refl _

theorem execSessionLive_keeps {k : LinkNo} {s : State} :
    KeepsX (mask [.sched, .rep, .assocs, .kindle, .msix, .out]) s (execSessionLive k s) := by
  unfold execSessionLive
  refine KeepsX.done (by rfl) ?_
  refine Keeps.onlyIf ?_ ?_
  · intro u1
    refine Keeps.step State.liveStep_keeps (by rfl) ?_
    refine Keeps.step State.sessionLive_keeps (by rfl) ?_
    exact Keeps.refl _
  · exact Keeps.refl _

theorem execStateTimeout_keeps {k : LinkNo} {par : Bool} {s : State} :
    KeepsX (mask [.rep, .ports, .kindle, .msix, .out]) s (execStateTimeout k par s) := by
  unfold execStateTimeout
  refine KeepsX.done (by rfl) ?_
  split
  · refine Keeps.ite ?_ ?_
    · refine Keeps.step State.failSession_keeps (by rfl) ?_
      exact Keeps.refl _
    · exact Keeps.refl _
  · exact Keeps.refl _

theorem execHoldoffEnd_keeps {k : LinkNo} {s : State} :
    KeepsX (mask [.rep, .vault, .kindle, .msix, .fresh, .out]) s (execHoldoffEnd k s) := by
  unfold execHoldoffEnd
  refine KeepsX.done (by rfl) ?_
  split
  · refine Keeps.ite ?_ ?_
    · refine Keeps.step State.holdoffOver_keeps (by rfl) ?_
      exact Keeps.refl _
    · exact Keeps.refl _
  · exact Keeps.refl _

theorem execContextFreed_keeps {k : LinkNo} {s : State} :
    KeepsX (mask [.rep, .vault, .kindle, .msix, .fresh, .out]) s (execContextFreed k s) := by
  unfold execContextFreed
  refine KeepsX.done (by rfl) ?_
  refine Keeps.step State.offerWaiting_keeps (by rfl) ?_
  exact Keeps.refl _

theorem execKeepaliveTimer_keeps {k : LinkNo} {s : State} :
    KeepsX (mask [.rep, .ports, .kindle, .msix, .out]) s (execKeepaliveTimer k s) := by
  unfold execKeepaliveTimer
  refine KeepsX.done (by rfl) ?_
  split
  · refine Keeps.ite ?_ ?_
    · refine Keeps.step State.modSes_keeps (by rfl) ?_
      refine Keeps.step State.sessionSends_keeps (by rfl) ?_
      exact Keeps.refl _
    · exact Keeps.refl _
  · exact Keeps.refl _

theorem execPeerSilent_keeps {k : LinkNo} {s : State} :
    KeepsX (mask [.rep, .vault, .kindle, .msix, .fresh, .out]) s (execPeerSilent k s) := by
  unfold execPeerSilent
  extract_lets x1 x2 x3
  have h1 : Keeps (mask [.rep, .vault, .kindle, .msix, .fresh, .out]) s x3 := by
    unfold x3
    refine Keeps.step State.rollEvent_keeps (by rfl) ?_
    refine Keeps.step State.modLink_keeps (by rfl) ?_
    exact Keeps.refl _
  clear_value x3
  refine KeepsX.done (by rfl) ?_
  split
  · refine Keeps.ite ?_ ?_
    · refine Keeps.onlyIf ?_ ?_
      · intro u1
        refine Keeps.step State.tryOffer_keeps (by rfl) ?_
        exact Keeps.refl _
      · assumption
    · exact Keeps.refl _
  · exact Keeps.refl _

theorem execRekeyTimer_keeps {k : LinkNo} {s : State} :
    KeepsX (mask [.rep, .kindle, .msix, .out]) s (execRekeyTimer k s) := by
  unfold execRekeyTimer
  extract_lets x1
  refine KeepsX.done (by rfl) ?_
  split
  · split
    · refine Keeps.ite ?_ ?_
      · refine Keeps.step State.rollService_keeps (by rfl) ?_
        refine Keeps.step State.modLink_keeps (by rfl) ?_
        exact Keeps.refl _
      · exact Keeps.refl _
    · exact Keeps.refl _
  · exact Keeps.refl _

theorem execReauthTimer_keeps {k : LinkNo} {s : State} :
    KeepsX (mask [.rep, .vault, .kindle, .msix, .fresh, .out]) s (execReauthTimer k s) := by
  unfold execReauthTimer
  refine KeepsX.done (by rfl) ?_
  split
  · split
    · refine Keeps.ite ?_ ?_
      · refine Keeps.step State.tryOffer_keeps (by rfl) ?_
        refine Keeps.step State.modSes_keeps (by rfl) ?_
        exact Keeps.refl _
      · exact Keeps.refl _
    · exact Keeps.refl _
  · exact Keeps.refl _

theorem execRollTimeout_keeps {k : LinkNo} {s : State} :
    KeepsX (mask [.sched, .rep, .ports, .assocs, .kindle, .msix, .out]) s (execRollTimeout k s) := by
  unfold execRollTimeout
  refine KeepsX.done (by rfl) ?_
  split
  · refine Keeps.ite ?_ ?_
    · split
      · rename_i x1 e1
        have h1 : Keeps (mask [.sched, .rep, .ports, .assocs, .kindle, .msix, .out]) s x1 := KeepsP.of_eq e1 (by
            refine KeepsP.step State.rollFailure_keeps (by rfl) ?_
            exact Keeps.refl _
          )
        clear e1
        refine Keeps.step State.escalate_keeps (by rfl) ?_
        assumption
      · rename_i x1 e1
        have h1 : Keeps (mask [.sched, .rep, .ports, .assocs, .kindle, .msix, .out]) s x1 := KeepsP.of_eq e1 (by
            refine KeepsP.step State.rollFailure_keeps (by rfl) ?_
            exact Keeps.refl _
          )
        clear e1
        refine Keeps.step State.sendRoll_keeps (by rfl) ?_
        refine Keeps.step State.modRoll_keeps (by rfl) ?_
        assumption
    · exact Keeps.refl _
  · exact Keeps.refl _

theorem execRekeyTimeout_keeps {k : LinkNo} {s : State} :
    KeepsX (mask [.sched, .rep, .ports, .assocs, .kindle, .msix, .out]) s (execRekeyTimeout k s) := by
  unfold execRekeyTimeout
  refine KeepsX.done (by rfl) ?_
  split
  · refine Keeps.ite ?_ ?_
    · split
      · rename_i x1 e1
        have h1 : Keeps (mask [.sched, .rep, .ports, .assocs, .kindle, .msix, .out]) s x1 := KeepsP.of_eq e1 (by
            refine KeepsP.step State.rollFailure_keeps (by rfl) ?_
            exact Keeps.refl _
          )
        clear e1
        refine Keeps.step State.escalate_keeps (by rfl) ?_
        assumption
      · rename_i x1 e1
        have h1 : Keeps (mask [.sched, .rep, .ports, .assocs, .kindle, .msix, .out]) s x1 := KeepsP.of_eq e1 (by
            refine KeepsP.step State.rollFailure_keeps (by rfl) ?_
            exact Keeps.refl _
          )
        clear e1
        refine Keeps.step State.startRekey_keeps (by rfl) ?_
        refine Keeps.step State.dropLattice_keeps (by rfl) ?_
        refine Keeps.step State.modLink_keeps (by rfl) ?_
        assumption
    · exact Keeps.refl _
  · exact Keeps.refl _

theorem execDoneMissing_keeps {k : LinkNo} {s : State} :
    KeepsX (mask [.rep, .kindle, .msix, .out]) s (execDoneMissing k s) := by
  unfold execDoneMissing
  refine KeepsX.done (by rfl) ?_
  split
  · refine Keeps.ite ?_ ?_
    · extract_lets x1 x2
      have h1 : Keeps (mask [.rep, .kindle, .msix, .out]) s x1 := by
        unfold x1
        refine Keeps.step State.rollEvent_keeps (by rfl) ?_
        exact Keeps.refl _
      have h2 : Keeps (mask [.rep, .kindle, .msix, .out]) s x2 := by
        unfold x2
        refine Keeps.onlyIf ?_ ?_
        · intro u1
          refine Keeps.step State.modLink_keeps (by rfl) ?_
          exact Keeps.refl _
        · assumption
      clear_value x2
      clear_value x1
      refine Keeps.step State.rollComplete_keeps (by rfl) ?_
      assumption
    · exact Keeps.refl _
  · exact Keeps.refl _

theorem execLinkEnable_keeps {start : Bool} {port : Byte} {cyc : Cyc} {s : State} :
    KeepsX (mask [.cycle, .sched, .rep, .msix, .out, .page .dev]) s (execLinkEnable start port cyc s) := by
  unfold execLinkEnable
  refine KeepsX.done (by rfl) ?_
  refine State.gate_keeps ?_ ?_ ?_
  · exact rfl
  · intro u1
    refine Keeps.step State.landLinkCfg_keeps (by rfl) ?_
    exact Keeps.refl _
  · refine Keeps.step State.at_keeps (by rfl) ?_
    exact Keeps.refl _

theorem execLinkDisable_keeps {start : Bool} {cyc : Cyc} {s : State} :
    KeepsX (mask [.cycle, .sched, .rep, .msix, .out, .page .dev]) s (execLinkDisable start cyc s) := by
  unfold execLinkDisable
  refine KeepsX.done (by rfl) ?_
  refine State.gate_keeps ?_ ?_ ?_
  · exact rfl
  · intro u1
    extract_lets x1
    refine Keeps.step State.landLinkCfg_keeps (by rfl) ?_
    exact Keeps.refl _
  · refine Keeps.step State.at_keeps (by rfl) ?_
    exact Keeps.refl _

theorem execLinkStart_keeps {cyc : Cyc} {s : State} :
    KeepsX (mask [.cycle, .sched, .rep, .msix, .out, .page .dev]) s (execLinkStart cyc s) := by
  unfold execLinkStart
  refine KeepsX.done (by rfl) ?_
  refine State.gate_keeps ?_ ?_ ?_
  · exact rfl
  · intro u1
    refine Keeps.step State.landLinkCmd_keeps (by rfl) ?_
    exact Keeps.refl _
  · refine Keeps.step State.at_keeps (by rfl) ?_
    exact Keeps.refl _

theorem execLinkAbort_keeps {cyc : Cyc} {s : State} :
    KeepsX (mask [.cycle, .sched, .rep, .msix, .out, .page .dev]) s (execLinkAbort cyc s) := by
  unfold execLinkAbort
  refine KeepsX.done (by rfl) ?_
  refine State.gate_keeps ?_ ?_ ?_
  · exact rfl
  · intro u1
    refine Keeps.step State.landLinkCmd_keeps (by rfl) ?_
    exact Keeps.refl _
  · refine Keeps.step State.at_keeps (by rfl) ?_
    exact Keeps.refl _

theorem execLinkRekey_keeps {cyc : Cyc} {s : State} :
    KeepsX (mask [.cycle, .sched, .rep, .msix, .out, .page .dev]) s (execLinkRekey cyc s) := by
  unfold execLinkRekey
  refine KeepsX.done (by rfl) ?_
  refine State.gate_keeps ?_ ?_ ?_
  · exact rfl
  · intro u1
    refine Keeps.step State.landLinkCmd_keeps (by rfl) ?_
    exact Keeps.refl _
  · refine Keeps.step State.at_keeps (by rfl) ?_
    exact Keeps.refl _

theorem execLinkReauth_keeps {cyc : Cyc} {s : State} :
    KeepsX (mask [.cycle, .sched, .rep, .msix, .out, .page .dev]) s (execLinkReauth cyc s) := by
  unfold execLinkReauth
  refine KeepsX.done (by rfl) ?_
  refine State.gate_keeps ?_ ?_ ?_
  · exact rfl
  · intro u1
    refine Keeps.step State.landLinkCmd_keeps (by rfl) ?_
    exact Keeps.refl _
  · refine Keeps.step State.at_keeps (by rfl) ?_
    exact Keeps.refl _

theorem execClearHoldoff_keeps {cyc : Cyc} {s : State} :
    KeepsX (mask [.cycle, .sched, .rep, .msix, .out, .page .dev]) s (execClearHoldoff cyc s) := by
  unfold execClearHoldoff
  refine KeepsX.done (by rfl) ?_
  refine State.gate_keeps ?_ ?_ ?_
  · exact rfl
  · intro u1
    refine Keeps.step State.landLinkCmd_keeps (by rfl) ?_
    exact Keeps.refl _
  · refine Keeps.step State.at_keeps (by rfl) ?_
    exact Keeps.refl _

theorem execLinkRoll_keeps {cyc : Cyc} {s : State} :
    KeepsX (mask [.cycle, .sched, .rep, .msix, .out, .page .dev]) s (execLinkRoll cyc s) := by
  unfold execLinkRoll
  refine KeepsX.done (by rfl) ?_
  refine State.gate_keeps ?_ ?_ ?_
  · exact rfl
  · intro u1
    refine Keeps.step State.landLinkCmd_keeps (by rfl) ?_
    exact Keeps.refl _
  · refine Keeps.step State.at_keeps (by rfl) ?_
    exact Keeps.refl _

end Sys2Proof.Machine
end

