-- ==== Sys2Proof/Laws/Sealed.lean ====
section
/-! SUPPORT. What the operations of Machine/Sealed.lean keep, and the parts of the state that they may change. -/

namespace Sys2Proof.Machine

open Sys2Proof

theorem State.abandonContext_keeps {s : State} {c : Nat} :
    Keeps (mask [.rep, .ports, .kindle, .out]) s (State.abandonContext s c) := by
  unfold State.abandonContext
  refine Keeps.forL ?_ ?_
  · intro b1 u1
    refine Keeps.forL ?_ ?_
    · intro b2 u2
      split
      · refine Keeps.ite ?_ ?_
        · extract_lets x1
          have h1 : Keeps (mask [.rep, .ports, .kindle, .out]) u2 x1 := by
            unfold x1
            refine Keeps.step State.sendAbort_keeps (by rfl) ?_
            refine Keeps.step State.closeSession_keeps (by rfl) ?_
            exact Keeps.refl _
          clear_value x1
          refine Keeps.onlyIf ?_ ?_
          · intro u3
            refine Keeps.step State.modLink_keeps (by rfl) ?_
            exact Keeps.refl _
          · assumption
        · exact Keeps.refl _
      · exact Keeps.refl _
    · exact Keeps.refl _
  · exact Keeps.refl _

theorem State.refuseRegion_keeps {s : State} {r : Nat} :
    Keeps (mask [.page .cxm]) s (State.refuseRegion s r) := by
  unfold State.refuseRegion
  refine Keeps.step State.wr_keeps (by rfl) ?_
  exact Keeps.refl _

theorem State.modRegion_keeps {s : State} {r : Nat} {f : Region → Region} :
    Keeps (mask [.regions]) s (State.modRegion s r f) := by
  unfold State.modRegion
  refine Keeps.step Keeps.set_regions (by rfl) ?_
  exact Keeps.refl _

theorem State.commitRcfg_keeps {s : State} {r : Nat} {w : Word} :
    Keeps (mask [.vault, .regions, .fresh, .page .cxm]) s (State.commitRcfg s r w) := by
  unfold State.commitRcfg
  extract_lets x1 x2 x3 x4
  have h1 : Keeps (mask [.vault, .regions, .fresh, .page .cxm]) s x3 := by
    unfold x3
    with_reducible refine Keeps.step State.setWord_keeps ?_ ?_
    · exact Covers.of_subset (l := [.page .cxm]) (by simp)
    exact Keeps.refl _
  have h2 : Keeps (mask [.vault, .regions, .fresh, .page .cxm]) s x4 := by
    unfold x4
    refine Keeps.step State.modRegion_keeps (by rfl) ?_
    assumption
  clear_value x4
  clear_value x3
  refine Keeps.ite ?_ ?_
  · refine Keeps.step State.refuseRegion_keeps (by rfl) ?_
    exact Keeps.refl _
  · refine Keeps.ite ?_ ?_
    · refine Keeps.ite ?_ ?_
      · assumption
      · split
        rename_i x5 y0 e1
        have h3 : Keeps (mask [.vault, .regions, .fresh, .page .cxm]) s x5 := KeepsP.of_eq e1 (by
            refine KeepsP.step State.draw_keeps (by rfl) ?_
            assumption
          )
        clear e1
        refine Keeps.step State.modRegion_keeps (by rfl) ?_
        assumption
    · refine Keeps.ite ?_ ?_
      · refine Keeps.forN ?_ ?_
        · intro b1 u1
          refine Keeps.ite ?_ ?_
          · with_reducible refine Keeps.step State.setWord_keeps ?_ ?_
            · exact Covers.of_subset (l := [.page .cxm]) (by simp)
            with_reducible refine Keeps.step State.setWord_keeps ?_ ?_
            · exact Covers.of_subset (l := [.page .cxm]) (by simp)
            exact Keeps.refl _
          · exact Keeps.refl _
        · assumption
      · assumption

theorem State.commitRbase_keeps {s : State} {r : Nat} {w : Word} :
    Keeps (mask [.page .cxm]) s (State.commitRbase s r w) := by
  unfold State.commitRbase
  refine Keeps.ite ?_ ?_
  · refine Keeps.step State.refuseRegion_keeps (by rfl) ?_
    exact Keeps.refl _
  · with_reducible refine Keeps.step State.setWord_keeps ?_ ?_
    · exact Covers.of_subset (l := [.page .cxm]) (by simp)
    exact Keeps.refl _

theorem State.cxmEvent_keeps {s : State} {f : Fld} {r : Nat} :
    Keeps (mask [.rep]) s (State.cxmEvent s f r) := by
  unfold State.cxmEvent
  refine Keeps.step State.event_keeps (by rfl) ?_
  refine Keeps.step State.wrEvt_keeps (by rfl) ?_
  refine Keeps.step State.wrEvt_keeps (by rfl) ?_
  exact Keeps.refl _

theorem State.cxmReady_keeps {s : State} :
    Keeps (mask [.page .cxm]) s (State.cxmReady s) := by
  unfold State.cxmReady
  extract_lets x1
  refine Keeps.step State.wr_keeps (by rfl) ?_
  refine Keeps.step State.wr_keeps (by rfl) ?_
  refine Keeps.step State.wr_keeps (by rfl) ?_
  exact Keeps.refl _

theorem State.deepNext_keeps {s : State} {stored : Bool} :
    Keeps (mask [.rep]) s (State.deepNext s stored) := by
  unfold State.deepNext
  split
  · exact Keeps.refl _
  · extract_lets x1 x2 x3 x4 x5 x6 x7
    have h1 : Keeps (mask [.rep]) s x5 := by
      unfold x5
      refine Keeps.step Keeps.set_rep (by rfl) ?_
      exact Keeps.refl _
    have h2 : Keeps (mask [.rep]) s x7 := by
      unfold x7
      refine Keeps.step Keeps.set_rep (by rfl) ?_
      assumption
    clear_value x7
    clear_value x5
    refine Keeps.ite ?_ ?_
    · refine Keeps.step State.count_keeps (by rfl) ?_
      assumption
    · refine Keeps.step State.event_keeps (by rfl) ?_
      assumption

theorem State.earlyMove_keeps {s : State} {r : Nat} {g : Nat} :
    Keeps (mask [.rep, .regions]) s (State.earlyMove s r g) := by
  unfold State.earlyMove
  extract_lets x1
  have h1 : Keeps (mask [.rep, .regions]) s x1 := by
    unfold x1
    refine Keeps.step State.modRegion_keeps (by rfl) ?_
    exact Keeps.refl _
  clear_value x1
  refine Keeps.step State.cxmEvent_keeps (by rfl) ?_
  refine Keeps.step State.count_keeps (by rfl) ?_
  assumption

theorem State.poisonConsumers_keeps {s : State} {r : Nat} {queues : List Nat} {contexts : List Nat} :
    Keeps (mask [.sched, .rep, .ports, .kindle, .out]) s (State.poisonConsumers s r queues contexts) := by
  unfold State.poisonConsumers
  extract_lets x1 x2 x3
  have h1 : Keeps (mask [.sched, .rep, .ports, .kindle, .out]) s x3 := by
    unfold x3
    refine Keeps.onlyIf ?_ ?_
    · intro u1
      refine Keeps.forL ?_ ?_
      · intro b1 u2
        refine Keeps.onlyIf ?_ ?_
        · intro u3
          refine Keeps.step State.schedule_keeps (by rfl) ?_
          exact Keeps.refl _
        · exact Keeps.refl _
      · exact Keeps.refl _
    · exact Keeps.refl _
  clear_value x3
  refine Keeps.onlyIf ?_ ?_
  · intro u1
    refine Keeps.forL ?_ ?_
    · intro b1 u2
      refine Keeps.step State.abandonContext_keeps (by rfl) ?_
      exact Keeps.refl _
    · exact Keeps.refl _
  · assumption

theorem State.poisonWhole_keeps {s : State} {r : Nat} :
    Keeps (mask [.sched, .rep, .ports, .kindle, .regions, .out]) s (State.poisonWhole s r) := by
  unfold State.poisonWhole
  extract_lets x1
  have h1 : Keeps (mask [.sched, .rep, .ports, .kindle, .regions, .out]) s x1 := by
    unfold x1
    refine Keeps.step State.modRegion_keeps (by rfl) ?_
    exact Keeps.refl _
  clear_value x1
  refine Keeps.step State.poisonConsumers_keeps (by rfl) ?_
  assumption

theorem State.poison_keeps {s : State} {r : Nat} {scope : Nat} {level : Nat} {index : Nat} {queues : List Nat}
    {contexts : List Nat} :
    Keeps (mask [.sched, .rep, .ports, .kindle, .regions, .out,
        .page .cxm]) s (State.poison s r scope level index queues contexts) := by
  unfold State.poison
  extract_lets x1
  have h1 : Keeps (mask [.sched, .rep, .ports, .kindle, .regions, .out, .page .cxm]) s x1 := by
    unfold x1
    refine Keeps.step State.cxmEvent_keeps (by rfl) ?_
    refine Keeps.step State.count_keeps (by rfl) ?_
    exact Keeps.refl _
  clear_value x1
  split
  · refine Keeps.step State.poisonWhole_keeps (by rfl) ?_
    assumption
  · extract_lets x2 x3
    have h2 : Keeps (mask [.sched, .rep, .ports, .kindle, .regions, .out, .page .cxm]) s x2 := by
      unfold x2
      with_reducible refine Keeps.step State.setWord_keeps ?_ ?_
      · exact Covers.of_subset (l := [.page .cxm]) (by simp)
      assumption
    have h3 : Keeps (mask [.sched, .rep, .ports, .kindle, .regions, .out, .page .cxm]) s x3 := by
      unfold x3
      with_reducible refine Keeps.step State.setWord_keeps ?_ ?_
      · exact Covers.of_subset (l := [.page .cxm]) (by simp)
      assumption
    clear_value x3
    clear_value x2
    refine Keeps.ite ?_ ?_
    · refine Keeps.step State.poisonWhole_keeps (by rfl) ?_
      assumption
    · refine Keeps.step State.poisonConsumers_keeps (by rfl) ?_
      assumption

theorem State.sweepTick_keeps {r : Nat} {s : State} :
    Keeps (mask [.rep, .regions]) s (State.sweepTick r s) := by
  unfold State.sweepTick
  extract_lets x1 x2 x3 x4 x5 x6 x7 x8
  have h1 : Keeps (mask [.rep, .regions]) s x2 := by
    unfold x2
    refine Keeps.ite ?_ ?_
    · exact Keeps.refl _
    · refine Keeps.step State.modRegion_keeps (by rfl) ?_
      refine Keeps.step State.count_keeps (by rfl) ?_
      exact Keeps.refl _
  have h2 : Keeps (mask [.rep, .regions]) s x8 := by
    unfold x8
    refine Keeps.step State.modRegion_keeps (by rfl) ?_
    assumption
  clear_value x8
  clear_value x2
  refine Keeps.ite ?_ ?_
  · assumption
  · refine Keeps.step State.count_keeps (by rfl) ?_
    assumption

theorem State.evict_keeps {s : State} {r : Nat} {k : Nat} {j : Nat} :
    Keeps (mask [.rep, .regions]) s (State.evict s r k j) := by
  unfold State.evict
  extract_lets x1 x2 x3 x4 x5
  have h1 : Keeps (mask [.rep, .regions]) s x5 := by
    unfold x5
    refine Keeps.step State.modRegion_keeps (by rfl) ?_
    exact Keeps.refl _
  clear_value x5
  refine Keeps.ite ?_ ?_
  · exact Keeps.refl _
  · refine Keeps.ite ?_ ?_
    · refine Keeps.step State.modRegion_keeps (by rfl) ?_
      exact Keeps.refl _
    · refine Keeps.ite ?_ ?_
      · exact Keeps.refl _
      · refine Keeps.step State.count_keeps (by rfl) ?_
        assumption

theorem State.integrity_keeps {s : State} {r : Nat} :
    Keeps (mask [.rep, .tamper]) s (State.integrity s r) := by
  unfold State.integrity
  refine Keeps.step State.tamperFire_keeps (by rfl) ?_
  refine Keeps.step State.cxmEvent_keeps (by rfl) ?_
  refine Keeps.step State.count_keeps (by rfl) ?_
  exact Keeps.refl _

theorem State.fetchNodes_keeps {a0 a1 : Nat} {a2 : LineIn} {a3 : Nat} {a4 : List MemAns} {a5 : State} :
    KeepsP (mask [.sched, .rep, .ports, .kindle, .regions, .tamper, .out, .page .cxm]) a5 (State.fetchNodes a0 a1 a2 a3 a4 a5) := by
  induction a3 generalizing a4 a5 with
  | zero => exact KeepsP.mk (Keeps.refl _)
  | succ k ih =>
    unfold State.fetchNodes
    extract_lets j t bad
    have ht : Keeps (mask [.sched, .rep, .ports, .kindle, .regions, .tamper, .out, .page .cxm]) a5 t :=
      Keeps.step State.count_keeps rfl (Keeps.refl _)
    have hb : ∀ u, Keeps (mask [.sched, .rep, .ports, .kindle, .regions, .tamper, .out, .page .cxm]) u (bad u) := fun u =>
      Keeps.step State.poison_keeps rfl (Keeps.refl _)
    clear_value t bad
    split
    · exact KeepsP.mk (ht.trans (hb _))
    · exact KeepsP.step ih rfl (Keeps.step State.modRegion_keeps rfl ht)
    · refine KeepsP.ite ?_ ?_
      · exact KeepsP.step ih rfl (Keeps.step State.modRegion_keeps rfl ht)
      · exact KeepsP.mk (Keeps.trans (Keeps.step State.integrity_keeps rfl ht) (hb _))

theorem State.getLeaf_keeps {s : State} {r : Nat} {i : Nat} {q : LineIn} :
    KeepsP (mask [.sched, .rep, .ports, .kindle, .tamper, .regions, .out, .page .cxm]) s (State.getLeaf s r i q) := by
  unfold State.getLeaf
  extract_lets x1 x2 x3
  have h1 : Keeps (mask [.sched, .rep, .ports, .kindle, .tamper, .regions, .out, .page .cxm]) s x1 := by
    unfold x1
    refine Keeps.forL ?_ ?_
    · intro b1 u1
      refine Keeps.step State.evict_keeps (by rfl) ?_
      exact Keeps.refl _
    · exact Keeps.refl _
  clear_value x1
  refine KeepsP.ite ?_ ?_
  · refine KeepsP.mk ?_
    refine Keeps.step State.count_keeps (by rfl) ?_
    assumption
  · refine KeepsP.ite ?_ ?_
    · refine KeepsP.mk ?_
      assumption
    · refine KeepsP.step State.fetchNodes_keeps (by rfl) ?_
      assumption

theorem State.landCxmCmd_keeps {s : State} {op : Nat} {entry : Nat} :
    Keeps (mask [.reinit, .page .dev, .page .cxm]) s (State.landCxmCmd s op entry) := by
  unfold State.landCxmCmd
  refine State.gate_keeps ?_ ?_ ?_
  · exact rfl
  · intro u1
    refine Keeps.ite ?_ ?_
    · exact Keeps.refl _
    · refine Keeps.ite ?_ ?_
      · refine Keeps.step State.wr_keeps (by rfl) ?_
        exact Keeps.refl _
      · refine Keeps.ite ?_ ?_
        · refine Keeps.step State.wr_keeps (by rfl) ?_
          exact Keeps.refl _
        · refine Keeps.ite ?_ ?_
          · refine Keeps.step State.wr_keeps (by rfl) ?_
            exact Keeps.refl _
          · extract_lets x1
            have h1 : Keeps (mask [.reinit, .page .dev, .page .cxm]) u1 x1 := by
              unfold x1
              refine Keeps.step State.wr_keeps (by rfl) ?_
              refine Keeps.step State.wr_keeps (by rfl) ?_
              exact Keeps.refl _
            clear_value x1
            refine Keeps.step Keeps.set_reinit (by rfl) ?_
            assumption
  · exact Keeps.refl _

theorem State.landRbase_keeps {s : State} {r : Nat} {w : Word} {cyc : Nat} :
    Keeps (mask [.sched, .page .cxm]) s (State.landRbase s r w cyc) := by
  unfold State.landRbase
  refine Keeps.ite ?_ ?_
  · refine Keeps.step State.refuseRegion_keeps (by rfl) ?_
    exact Keeps.refl _
  · refine Keeps.step State.putCopy_keeps (by rfl) ?_
    exact Keeps.refl _

theorem State.landRcfg_keeps {s : State} {r : Nat} {w : Word} {cyc : Nat} :
    Keeps (mask [.sched, .page .cxm]) s (State.landRcfg s r w cyc) := by
  unfold State.landRcfg
  extract_lets x1
  refine Keeps.ite ?_ ?_
  · refine Keeps.step State.refuseRegion_keeps (by rfl) ?_
    exact Keeps.refl _
  · refine Keeps.step State.putCopy_keeps (by rfl) ?_
    exact Keeps.refl _

theorem State.stallWrite_keeps {s : State} {r : Nat} {g : Nat} :
    Keeps (mask [.rep, .regions]) s (State.stallWrite s r g) := by
  unfold State.stallWrite
  refine Keeps.step State.cxmEvent_keeps (by rfl) ?_
  refine Keeps.step State.modRegion_keeps (by rfl) ?_
  exact Keeps.refl _

theorem State.mayWrite_keeps {s : State} {r : Nat} {i : Nat} :
    KeepsP (mask [.rep, .regions]) s (State.mayWrite s r i) := by
  unfold State.mayWrite
  extract_lets x1 x2 x3
  refine KeepsP.ite ?_ ?_
  · refine KeepsP.ite ?_ ?_
    · refine KeepsP.mk ?_
      refine Keeps.step State.stallWrite_keeps (by rfl) ?_
      exact Keeps.refl _
    · refine KeepsP.mk ?_
      exact Keeps.refl _
  · refine KeepsP.ite ?_ ?_
    · refine KeepsP.mk ?_
      refine Keeps.step State.earlyMove_keeps (by rfl) ?_
      exact Keeps.refl _
    · refine KeepsP.mk ?_
      refine Keeps.step State.stallWrite_keeps (by rfl) ?_
      exact Keeps.refl _

theorem State.rawLine_keeps {s : State} {r : Nat} {i : Nat} :
    KeepsP (mask [.fresh]) s (State.rawLine s r i) := by
  unfold State.rawLine
  split
  · refine KeepsP.mk ?_
    exact Keeps.refl _
  · refine KeepsP.mk ?_
    refine Keeps.step State.burn_keeps (by rfl) ?_
    exact Keeps.refl _

theorem State.readLine_keeps {s : State} {r : Nat} {i : Nat} {q : LineIn} :
    Keeps (mask [.sched, .rep, .ports, .kindle, .tamper, .regions, .out, .page .cxm]) s (State.readLine s r i q) := by
  unfold State.readLine
  extract_lets x1 x2 x3 x4 x5 x6 x7 x8 x9
  have h1 : Keeps (mask [.sched, .rep, .ports, .kindle, .tamper, .regions, .out, .page .cxm]) s x3 := by
    unfold x3
    refine Keeps.step State.count_keeps (by rfl) ?_
    exact Keeps.refl _
  have h2 : ∀ u b1 b2, Keeps (mask [.sched, .rep, .ports, .kindle, .tamper, .regions, .out,
      .page .cxm]) u (x4 u b1 b2) := by
    intro u b1 b2
    unfold x4
    refine Keeps.step State.emit_keeps (by rfl) ?_
    refine Keeps.step State.poison_keeps (by rfl) ?_
    exact Keeps.refl _
  clear_value x4
  clear_value x3
  refine Keeps.ite ?_ ?_
  · refine Keeps.step State.emit_keeps (by rfl) ?_
    assumption
  · refine Keeps.ite ?_ ?_
    · refine Keeps.step (h2 ..) (Nat.or_self _) ?_
      assumption
    · refine Keeps.ite ?_ ?_
      · refine Keeps.step (h2 ..) (Nat.or_self _) ?_
        assumption
      · refine Keeps.ite ?_ ?_
        · refine Keeps.step (h2 ..) (Nat.or_self _) ?_
          refine Keeps.step State.integrity_keeps (by rfl) ?_
          assumption
        · refine Keeps.step State.emit_keeps (by rfl) ?_
          assumption

theorem State.readScrambled_keeps {s : State} {r : Nat} {i : Nat} {q : LineIn} :
    Keeps (mask [.rep, .fresh, .out]) s (State.readScrambled s r i q) := by
  unfold State.readScrambled
  extract_lets x1 x2
  have h1 : Keeps (mask [.rep, .fresh, .out]) s x1 := by
    unfold x1
    refine Keeps.step State.count_keeps (by rfl) ?_
    exact Keeps.refl _
  clear_value x1
  split
  · refine Keeps.step State.emit_keeps (by rfl) ?_
    assumption
  · refine Keeps.step State.emit_keeps (by rfl) ?_
    assumption
  · split
    rename_i x3 y0 e1
    have h2 : Keeps (mask [.rep, .fresh, .out]) s x3 := KeepsP.of_eq e1 (by
        refine KeepsP.step State.rawLine_keeps (by rfl) ?_
        assumption
      )
    clear e1
    refine Keeps.step State.emit_keeps (by rfl) ?_
    assumption

theorem State.writeLine_keeps {s : State} {r : Nat} {i : Nat} {data : List Byte} :
    Keeps (mask [.rep, .regions, .out]) s (State.writeLine s r i data) := by
  unfold State.writeLine
  extract_lets x1 x2 x3 x4 x5 x6 x7
  have h1 : Keeps (mask [.rep, .regions, .out]) s x7 := by
    unfold x7
    refine Keeps.step State.modRegion_keeps (by rfl) ?_
    exact Keeps.refl _
  clear_value x7
  refine Keeps.step State.emit_keeps (by rfl) ?_
  refine Keeps.step State.count_keeps (by rfl) ?_
  assumption

theorem State.reinitScope_keeps {s : State} {r : Nat} {scope : Nat} {level : Nat} {index : Nat} :
    Keeps (mask [.rep, .regions, .out]) s (State.reinitScope s r scope level index) := by
  unfold State.reinitScope
  extract_lets x1 x2
  have h1 : ∀ b0 u, Keeps (mask [.rep, .regions, .out]) u (x1 b0 u) := by
    intro b0 u
    unfold x1
    refine Keeps.ite ?_ ?_
    · exact Keeps.refl _
    · refine Keeps.step State.writeLine_keeps (by rfl) ?_
      exact Keeps.refl _
  clear_value x1
  split
  · refine Keeps.step (h1 ..) (Nat.or_self _) ?_
    exact Keeps.refl _
  · refine Keeps.forN ?_ ?_
    · intro b1 u1
      refine Keeps.step (h1 ..) (Nat.or_self _) ?_
      exact Keeps.refl _
    · exact Keeps.refl _
  · refine Keeps.step State.modRegion_keeps (by rfl) ?_
    exact Keeps.refl _

theorem execRegionEnable_keeps {w : Word} {cyc : Cyc} {s : State} :
    KeepsX (mask [.cycle, .sched, .rep, .msix, .out, .page .dev, .page .cxm]) s (execRegionEnable w cyc s) := by
  unfold execRegionEnable
  refine KeepsX.done (by rfl) ?_
  refine State.gate_keeps ?_ ?_ ?_
  · exact rfl
  · intro u1
    refine Keeps.step State.landRcfg_keeps (by rfl) ?_
    exact Keeps.refl _
  · refine Keeps.step State.at_keeps (by rfl) ?_
    exact Keeps.refl _

theorem execRegionDisable_keeps {w : Word} {cyc : Cyc} {s : State} :
    KeepsX (mask [.cycle, .sched, .rep, .msix, .out, .page .dev, .page .cxm]) s (execRegionDisable w cyc s) := by
  unfold execRegionDisable
  refine KeepsX.done (by rfl) ?_
  refine State.gate_keeps ?_ ?_ ?_
  · exact rfl
  · intro u1
    refine Keeps.step State.landRcfg_keeps (by rfl) ?_
    exact Keeps.refl _
  · refine Keeps.step State.at_keeps (by rfl) ?_
    exact Keeps.refl _

theorem execRegionReady_keeps {r : RegionNo} {s : State} :
    KeepsX (mask [.rep, .msix, .regions, .out]) s (execRegionReady r s) := by
  unfold execRegionReady
  refine KeepsX.done (by rfl) ?_
  refine Keeps.ite ?_ ?_
  · refine Keeps.step State.modRegion_keeps (by rfl) ?_
    exact Keeps.refl _
  · exact Keeps.refl _

theorem execSealedLineRead_keeps {r : RegionNo} {line : Nat} {inp : LineIn} {s : State} :
    KeepsX (mask [.sched, .rep, .ports, .kindle, .msix, .tamper, .regions, .fresh, .out,
        .page .cxm]) s (execSealedLineRead r line inp s) := by
  unfold execSealedLineRead
  refine KeepsX.ite ?_ ?_
  · refine KeepsX.done (by rfl) ?_
    exact Keeps.refl _
  · refine KeepsX.ite ?_ ?_
    · exact KeepsX.fault
    · refine KeepsX.ite ?_ ?_
      · refine KeepsX.done (by rfl) ?_
        refine Keeps.ite ?_ ?_
        · refine Keeps.step State.emit_keeps (by rfl) ?_
          exact Keeps.refl _
        · refine Keeps.step State.readScrambled_keeps (by rfl) ?_
          exact Keeps.refl _
      · refine KeepsX.ite ?_ ?_
        · refine KeepsX.done (by rfl) ?_
          refine Keeps.step State.emit_keeps (by rfl) ?_
          exact Keeps.refl _
        · split
          rename_i x1 y0 e1
          have h1 : Keeps (mask
  [.sched, .rep, .ports, .kindle, .msix, .tamper, .regions, .fresh, .out,
    .page .cxm]) s x1 := KeepsP.of_eq e1 (by
              refine KeepsP.step State.getLeaf_keeps (by rfl) ?_
              exact Keeps.refl _
            )
          clear e1
          refine KeepsX.done (by rfl) ?_
          refine Keeps.ite ?_ ?_
          · refine Keeps.step State.readLine_keeps (by rfl) ?_
            assumption
          · refine Keeps.ite ?_ ?_
            · refine Keeps.step State.emit_keeps (by rfl) ?_
              assumption
            · assumption

theorem execSealedLineWrite_keeps {r : RegionNo} {line : Nat} {user : Fin 5} {data : List Byte} {inp : LineIn} {s :
    State} :
    KeepsX (mask [.sched, .rep, .ports, .kindle, .msix, .tamper, .regions, .out,
        .page .cxm]) s (execSealedLineWrite r line user data inp s) := by
  unfold execSealedLineWrite
  extract_lets x1 x2 x3 x4
  have h1 : ∀ u b1, Keeps (mask [.sched, .rep, .ports, .kindle, .msix, .tamper, .regions, .out,
      .page .cxm]) u (x2 u b1) := by
    intro u b1
    unfold x2
    refine Keeps.onlyIf ?_ ?_
    · intro u1
      refine Keeps.step State.deepNext_keeps (by rfl) ?_
      exact Keeps.refl _
    · exact Keeps.refl _
  have h2 : Keeps (mask [.sched, .rep, .ports, .kindle, .msix, .tamper, .regions, .out, .page .cxm]) s x4 := by
    unfold x4
    refine Keeps.step State.modRegion_keeps (by rfl) ?_
    exact Keeps.refl _
  clear_value x4
  clear_value x2
  refine KeepsX.ite ?_ ?_
  · refine KeepsX.done (by rfl) ?_
    exact Keeps.refl _
  · refine KeepsX.ite ?_ ?_
    · exact KeepsX.fault
    · refine KeepsX.ite ?_ ?_
      · refine KeepsX.done (by rfl) ?_
        exact Keeps.refl _
      · refine KeepsX.ite ?_ ?_
        · refine KeepsX.done (by rfl) ?_
          refine Keeps.step (h1 ..) (Nat.or_self _) ?_
          refine Keeps.step State.count_keeps (by rfl) ?_
          exact Keeps.refl _
        · refine KeepsX.ite ?_ ?_
          · refine KeepsX.done (by rfl) ?_
            refine Keeps.step State.emit_keeps (by rfl) ?_
            refine Keeps.step State.count_keeps (by rfl) ?_
            assumption
          · split
            rename_i x5 y0 e1
            have h3 : Keeps (mask [.sched, .rep, .ports, .kindle, .msix, .tamper, .regions, .out,
                .page .cxm]) s x5 := KeepsP.of_eq e1 (by
                refine KeepsP.step State.getLeaf_keeps (by rfl) ?_
                exact Keeps.refl _
              )
            clear e1
            refine KeepsX.ite ?_ ?_
            · refine KeepsX.done (by rfl) ?_
              refine Keeps.ite ?_ ?_
              · refine Keeps.step (h1 ..) (Nat.or_self _) ?_
                refine Keeps.step State.count_keeps (by rfl) ?_
                assumption
              · assumption
            · split
              rename_i x6 y0 e1
              have h4 : Keeps (mask [.sched, .rep, .ports, .kindle, .msix, .tamper, .regions, .out,
                  .page .cxm]) s x6 := KeepsP.of_eq e1 (by
                  refine KeepsP.step State.mayWrite_keeps (by rfl) ?_
                  assumption
                )
              clear e1
              refine KeepsX.done (by rfl) ?_
              refine Keeps.ite ?_ ?_
              · refine Keeps.step (h1 ..) (Nat.or_self _) ?_
                refine Keeps.step State.writeLine_keeps (by rfl) ?_
                assumption
              · assumption

theorem execSweepStart_keeps {r : RegionNo} {s : State} :
    KeepsX (mask [.rep, .vault, .msix, .regions, .fresh, .out]) s (execSweepStart r s) := by
  unfold execSweepStart
  extract_lets x1
  refine KeepsX.done (by rfl) ?_
  refine Keeps.ite ?_ ?_
  · split
    rename_i x2 y0 e1
    have h1 : Keeps (mask [.rep, .vault, .msix, .regions, .fresh, .out]) s x2 := KeepsP.of_eq e1 (by
        refine KeepsP.step State.draw_keeps (by rfl) ?_
        exact Keeps.refl _
      )
    clear e1
    extract_lets x3
    have h2 : Keeps (mask [.rep, .vault, .msix, .regions, .fresh, .out]) s x3 := by
      unfold x3
      refine Keeps.step State.modRegion_keeps (by rfl) ?_
      assumption
    clear_value x3
    refine Keeps.step State.cxmEvent_keeps (by rfl) ?_
    assumption
  · exact Keeps.refl _

theorem execSweepDone_keeps {r : RegionNo} {s : State} :
    KeepsX (mask [.rep, .msix, .regions, .out]) s (execSweepDone r s) := by
  unfold execSweepDone
  extract_lets x1 x2
  have h1 : Keeps (mask [.rep, .msix, .regions, .out]) s x2 := by
    unfold x2
    refine Keeps.step State.modRegion_keeps (by rfl) ?_
    exact Keeps.refl _
  clear_value x2
  refine KeepsX.done (by rfl) ?_
  refine Keeps.ite ?_ ?_
  · refine Keeps.step State.cxmEvent_keeps (by rfl) ?_
    assumption
  · exact Keeps.refl _

theorem execCxlLinkTrained_keeps {up : Bool} {rate : Fin 4} {width : Fin 17} {capacity : Fin 641} {s : State} :
    KeepsX (mask [.rep, .pwr, .msix, .out, .page .cxm]) s (execCxlLinkTrained up rate width capacity s) := by
  unfold execCxlLinkTrained
  refine KeepsX.done (by rfl) ?_
  refine Keeps.ite ?_ ?_
  · exact Keeps.refl _
  · extract_lets x1 x2
    have h1 : Keeps (mask [.rep, .pwr, .msix, .out, .page .cxm]) s x1 := by
      unfold x1
      refine Keeps.step State.modPwr_keeps (by rfl) ?_
      exact Keeps.refl _
    have h2 : Keeps (mask [.rep, .pwr, .msix, .out, .page .cxm]) s x2 := by
      unfold x2
      refine Keeps.step State.wr_keeps (by rfl) ?_
      refine Keeps.step State.wr_keeps (by rfl) ?_
      refine Keeps.step State.wr_keeps (by rfl) ?_
      refine Keeps.step State.wr_keeps (by rfl) ?_
      assumption
    clear_value x2
    clear_value x1
    refine Keeps.onlyIf ?_ ?_
    · intro u1
      refine Keeps.step State.cxmReady_keeps (by rfl) ?_
      exact Keeps.refl _
    · assumption

theorem execMediaEventPoll_keeps {corrected : Nat} {s : State} :
    KeepsX (mask [.rep, .msix, .out]) s (execMediaEventPoll corrected s) := by
  unfold execMediaEventPoll
  refine KeepsX.done (by rfl) ?_
  refine Keeps.ite ?_ ?_
  · refine Keeps.step State.cxmEvent_keeps (by rfl) ?_
    refine Keeps.step State.count_keeps (by rfl) ?_
    exact Keeps.refl _
  · exact Keeps.refl _

theorem execReinit_keeps {entry : Fin 64} {cyc : Cyc} {s : State} :
    KeepsX (mask [.cycle, .rep, .msix, .reinit, .out, .page .dev, .page .cxm]) s (execReinit entry cyc s) := by
  unfold execReinit
  refine KeepsX.done (by rfl) ?_
  refine Keeps.step State.landCxmCmd_keeps (by rfl) ?_
  refine Keeps.step State.at_keeps (by rfl) ?_
  exact Keeps.refl _

theorem execCxlLinkDown_keeps {s : State} :
    KeepsX (mask [.sched, .rep, .ports, .kindle, .msix, .regions, .out, .page .cxm]) s (execCxlLinkDown s) := by
  unfold execCxlLinkDown
  refine KeepsX.done (by rfl) ?_
  refine Keeps.ite ?_ ?_
  · extract_lets x1 x2 x3
    have h1 : Keeps (mask [.sched, .rep, .ports, .kindle, .msix, .regions, .out, .page .cxm]) s x1 := by
      unfold x1
      refine Keeps.step State.wr_keeps (by rfl) ?_
      refine Keeps.step State.wr_keeps (by rfl) ?_
      refine Keeps.step State.wr_keeps (by rfl) ?_
      exact Keeps.refl _
    have h2 : Keeps (mask [.sched, .rep, .ports, .kindle, .msix, .regions, .out, .page .cxm]) s x2 := by
      unfold x2
      refine Keeps.step State.wr_keeps (by rfl) ?_
      refine Keeps.step State.wr_keeps (by rfl) ?_
      assumption
    have h3 : Keeps (mask [.sched, .rep, .ports, .kindle, .msix, .regions, .out, .page .cxm]) s x3 := by
      unfold x3
      refine Keeps.step State.cxmEvent_keeps (by rfl) ?_
      assumption
    clear_value x3
    clear_value x2
    clear_value x1
    refine Keeps.forN ?_ ?_
    · intro b1 u1
      refine Keeps.ite ?_ ?_
      · refine Keeps.step State.poison_keeps (by rfl) ?_
        exact Keeps.refl _
      · exact Keeps.refl _
    · assumption
  · exact Keeps.refl _

theorem execReinitDone_keeps {s : State} :
    KeepsX (mask [.rep, .msix, .regions, .reinit, .out, .page .cxm]) s (execReinitDone s) := by
  unfold execReinitDone
  refine KeepsX.done (by rfl) ?_
  split
  · extract_lets x1 x2 x3 x4 x5
    have h1 : Keeps (mask [.rep, .msix, .regions, .reinit, .out, .page .cxm]) s x3 := by
      unfold x3
      refine Keeps.step State.reinitScope_keeps (by rfl) ?_
      exact Keeps.refl _
    have h2 : Keeps (mask [.rep, .msix, .regions, .reinit, .out, .page .cxm]) s x4 := by
      unfold x4
      refine Keeps.ite ?_ ?_
      · with_reducible refine Keeps.step State.setWord_keeps ?_ ?_
        · exact Covers.of_subset (l := [.page .cxm]) (by simp)
        with_reducible refine Keeps.step State.setWord_keeps ?_ ?_
        · exact Covers.of_subset (l := [.page .cxm]) (by simp)
        assumption
      · exact Keeps.refl _
    have h3 : Keeps (mask [.rep, .msix, .regions, .reinit, .out, .page .cxm]) s x5 := by
      unfold x5
      refine Keeps.step State.wr_keeps (by rfl) ?_
      refine Keeps.step State.wr_keeps (by rfl) ?_
      assumption
    clear_value x5
    clear_value x4
    clear_value x3
    refine Keeps.step Keeps.set_reinit (by rfl) ?_
    assumption
  · exact Keeps.refl _

end Sys2Proof.Machine
end

