-- ==== Sys2Proof/Laws/Pair.lean ====
section
/-! SUPPORT. What the operations of Machine/Pair.lean keep, and the parts of the state that they may change. -/

namespace Sys2Proof.Machine

open Sys2Proof

theorem State.markAcked_keeps {s : State} {a : Nat} {phase : Bool} {epoch : Nat} {mark : Nat} :
    Keeps (mask [.assocs]) s (State.markAcked s a phase epoch mark) := by
  unfold State.markAcked
  extract_lets x1
  refine Keeps.ite ?_ ?_
  · refine Keeps.step State.setAsn_keeps (by rfl) ?_
    exact Keeps.refl _
  · exact Keeps.refl _

theorem State.modPair_keeps {s : State} {f : Pair → Pair} :
    Keeps (mask [.pair]) s (State.modPair s f) := by
  unfold State.modPair
  refine Keeps.step Keeps.set_pair (by rfl) ?_
  exact Keeps.refl _

theorem State.ackRecords_keeps {s : State} {n : Nat} :
    Keeps (mask [.assocs, .pair, .page .dev]) s (State.ackRecords s n) := by
  unfold State.ackRecords
  refine Keeps.ite ?_ ?_
  · exact Keeps.refl _
  · extract_lets x1 x2 x3
    have h1 : Keeps (mask [.assocs, .pair, .page .dev]) s x2 := by
      unfold x2
      refine Keeps.forL ?_ ?_
      · intro b1 u1
        split
        · refine Keeps.step State.markAcked_keeps (by rfl) ?_
          exact Keeps.refl _
        · exact Keeps.refl _
      · exact Keeps.refl _
    have h2 : Keeps (mask [.assocs, .pair, .page .dev]) s x3 := by
      unfold x3
      refine Keeps.step State.modPair_keeps (by rfl) ?_
      assumption
    clear_value x3
    clear_value x2
    refine Keeps.ite ?_ ?_
    · refine Keeps.step State.wr_keeps (by rfl) ?_
      assumption
    · assumption

theorem State.dropMirror_keeps {s : State} :
    Keeps (mask [.rep, .page .flu]) s (State.dropMirror s) := by
  unfold State.dropMirror
  refine Keeps.ite ?_ ?_
  · refine Keeps.step State.event_keeps (by rfl) ?_
    refine Keeps.step State.wr_keeps (by rfl) ?_
    exact Keeps.refl _
  · exact Keeps.refl _

theorem State.startBulk_keeps {s : State} :
    Keeps (mask [.pair]) s (State.startBulk s) := by
  unfold State.startBulk
  refine Keeps.step State.modPair_keeps (by rfl) ?_
  exact Keeps.refl _

theorem State.resync_keeps {s : State} :
    Keeps (mask [.rep, .pair, .page .flu]) s (State.resync s) := by
  unfold State.resync
  extract_lets x1
  have h1 : Keeps (mask [.rep, .pair, .page .flu]) s x1 := by
    unfold x1
    refine Keeps.ite ?_ ?_
    · refine Keeps.step State.dropMirror_keeps (by rfl) ?_
      exact Keeps.refl _
    · exact Keeps.refl _
  clear_value x1
  refine Keeps.ite ?_ ?_
  · refine Keeps.step State.startBulk_keeps (by rfl) ?_
    assumption
  · assumption

theorem State.fluAct_keeps {s : State} {op : Nat} :
    Keeps (mask [.rep, .pair, .page .flu]) s (State.fluAct s op) := by
  unfold State.fluAct
  split
  · refine Keeps.ite ?_ ?_
    · refine Keeps.step State.modPair_keeps (by rfl) ?_
      exact Keeps.refl _
    · refine Keeps.step State.event_keeps (by rfl) ?_
      exact Keeps.refl _
  · refine Keeps.ite ?_ ?_
    · refine Keeps.step State.resync_keeps (by rfl) ?_
      exact Keeps.refl _
    · refine Keeps.step State.event_keeps (by rfl) ?_
      exact Keeps.refl _
  · refine Keeps.step State.event_keeps (by rfl) ?_
    exact Keeps.refl _

theorem State.mirrorEdge_keeps {s : State} :
    Keeps (mask [.rep, .page .flu]) s (State.mirrorEdge s) := by
  unfold State.mirrorEdge
  refine Keeps.ite ?_ ?_
  · refine Keeps.step State.dropMirror_keeps (by rfl) ?_
    exact Keeps.refl _
  · exact Keeps.refl _

theorem State.dropSync_keeps {s : State} :
    Keeps (mask [.assocs, .page .flu]) s (State.dropSync s) := by
  unfold State.dropSync
  refine Keeps.ite ?_ ?_
  · refine Keeps.forL ?_ ?_
    · intro b1 u1
      refine Keeps.step State.modAsn_keeps (by rfl) ?_
      exact Keeps.refl _
    · refine Keeps.step State.wr_keeps (by rfl) ?_
      exact Keeps.refl _
  · exact Keeps.refl _

theorem State.syncEdge_keeps {s : State} :
    Keeps (mask [.assocs, .pair, .page .dev, .page .flu]) s (State.syncEdge s) := by
  unfold State.syncEdge
  extract_lets x1 x2 x3 x4 x5
  have h1 : Keeps (mask [.assocs, .pair, .page .dev, .page .flu]) s x3 := by
    unfold x3
    refine Keeps.step State.modPair_keeps (by rfl) ?_
    exact Keeps.refl _
  have h2 : Keeps (mask [.assocs, .pair, .page .dev, .page .flu]) s x4 := by
    unfold x4
    refine Keeps.ite ?_ ?_
    · refine Keeps.step State.dropSync_keeps (by rfl) ?_
      assumption
    · refine Keeps.ite ?_ ?_
      · refine Keeps.step State.wr_keeps (by rfl) ?_
        assumption
      · assumption
  have h3 : Keeps (mask [.assocs, .pair, .page .dev, .page .flu]) s x5 := by
    unfold x5
    refine Keeps.ite ?_ ?_
    · refine Keeps.step State.wr_keeps (by rfl) ?_
      assumption
    · assumption
  clear_value x5
  clear_value x4
  clear_value x3
  refine Keeps.ite ?_ ?_
  · refine Keeps.step State.setEffMode_keeps (by rfl) ?_
    assumption
  · assumption

theorem State.claimEdge_keeps {s : State} :
    Keeps (mask [.out]) s (State.claimEdge s) := by
  unfold State.claimEdge
  refine Keeps.ite ?_ ?_
  · refine Keeps.step State.emit_keeps (by rfl) ?_
    exact Keeps.refl _
  · exact Keeps.refl _

theorem State.announce_keeps {s : State} :
    Keeps (mask [.pair]) s (State.announce s) := by
  unfold State.announce
  refine Keeps.forL ?_ ?_
  · intro b1 u1
    split
    · split
      · refine Keeps.ite ?_ ?_
        · refine Keeps.step State.modPair_keeps (by rfl) ?_
          exact Keeps.refl _
        · exact Keeps.refl _
      · exact Keeps.refl _
    · exact Keeps.refl _
  · exact Keeps.refl _

theorem State.frameRecords_keeps {s : State} {room : Nat} :
    KeepsP (mask [.rep, .pair]) s (State.frameRecords s room) := by
  unfold State.frameRecords
  refine KeepsP.ite ?_ ?_
  · refine KeepsP.mk ?_
    refine Keeps.step State.modPair_keeps (by rfl) ?_
    exact Keeps.refl _
  · extract_lets x1 x2 x3 x4 x5 x6 x7 x8 x9 x10 x11 x12 x13 x14
    have h1 : Keeps (mask [.rep, .pair]) s x1 := by
      unfold x1
      refine Keeps.step State.announce_keeps (by rfl) ?_
      exact Keeps.refl _
    have h2 : Keeps (mask [.rep, .pair]) s x12 := by
      unfold x12
      refine Keeps.step State.modPair_keeps (by rfl) ?_
      assumption
    have h3 : Keeps (mask [.rep, .pair]) s x13 := by
      unfold x13
      refine Keeps.ite ?_ ?_
      · refine Keeps.step State.modPair_keeps (by rfl) ?_
        assumption
      · assumption
    have h4 : Keeps (mask [.rep, .pair]) s x14 := by
      unfold x14
      refine Keeps.step State.count_keeps (by rfl) ?_
      refine Keeps.step State.count_keeps (by rfl) ?_
      refine Keeps.step State.count_keeps (by rfl) ?_
      assumption
    clear_value x14
    clear_value x13
    clear_value x12
    clear_value x1
    refine KeepsP.ite ?_ ?_
    · refine KeepsP.mk ?_
      refine Keeps.step State.count_keeps (by rfl) ?_
      assumption
    · refine KeepsP.mk ?_
      assumption

theorem State.carryFrame_keeps {s : State} {seq : Nat} {bs : List Byte} :
    Keeps (mask [.lanes]) s (State.carryFrame s seq bs) := by
  unfold State.carryFrame
  refine Keeps.forL ?_ ?_
  · intro b1 u1
    refine Keeps.step State.modLane_keeps (by rfl) ?_
    exact Keeps.refl _
  · exact Keeps.refl _

theorem State.sendFrame_keeps {s : State} :
    Keeps (mask [.rep, .lanes, .pair, .page .flu]) s (State.sendFrame s) := by
  unfold State.sendFrame
  extract_lets x1 x2 x3 x4
  have h1 : Keeps (mask [.rep, .lanes, .pair, .page .flu]) s x4 := by
    unfold x4
    refine Keeps.step State.wr_keeps (by rfl) ?_
    exact Keeps.refl _
  clear_value x4
  refine Keeps.ite ?_ ?_
  · split
    rename_i x5 y0 e1
    have h2 : Keeps (mask [.rep, .lanes, .pair, .page .flu]) s x5 := KeepsP.of_eq e1 (by
        refine KeepsP.step State.frameRecords_keeps (by rfl) ?_
        exact Keeps.refl _
      )
    clear e1
    extract_lets x6 x7 x8
    have h3 : Keeps (mask [.rep, .lanes, .pair, .page .flu]) s x8 := by
      unfold x8
      refine Keeps.step State.wr_keeps (by rfl) ?_
      refine Keeps.step State.modPair_keeps (by rfl) ?_
      assumption
    clear_value x8
    refine Keeps.ite ?_ ?_
    · refine Keeps.step State.count_keeps (by rfl) ?_
      refine Keeps.step State.carryFrame_keeps (by rfl) ?_
      assumption
    · assumption
  · refine Keeps.ite ?_ ?_
    · refine Keeps.step State.carryFrame_keeps (by rfl) ?_
      assumption
    · assumption

theorem State.driveLines_keeps {s : State} {alarm : Nat} :
    Keeps (mask [.pair]) s (State.driveLines s alarm) := by
  unfold State.driveLines
  refine Keeps.ite ?_ ?_
  · refine Keeps.step State.modPair_keeps (by rfl) ?_
    exact Keeps.refl _
  · exact Keeps.refl _

theorem State.rearmLock_keeps {s : State} :
    Keeps (mask [.pair, .page .flu]) s (State.rearmLock s) := by
  unfold State.rearmLock
  refine Keeps.ite ?_ ?_
  · refine Keeps.step State.freeLock_keeps (by rfl) ?_
    exact Keeps.refl _
  · exact Keeps.refl _

set_option maxRecDepth 4096 in
theorem State.setWords_keeps {s : State} {ks : List RegKey} {ws : List Word} :
    Keeps (mask ([] ++ allPages)) s (State.setWords s ks ws) := by
  unfold State.setWords
  refine Keeps.forL ?_ ?_
  · intro b1 u1
    with_reducible refine Keeps.step State.setWord_keeps ?_ ?_
    · exact Covers.of_subset (l := [.page b1.fst.page]) (by simp)
    exact Keeps.refl _
  · exact Keeps.refl _

theorem State.raiseMirror_keeps {s : State} :
    Keeps (mask [.rep, .page .flu]) s (State.raiseMirror s) := by
  unfold State.raiseMirror
  refine Keeps.ite ?_ ?_
  · exact Keeps.refl _
  · refine Keeps.step State.event_keeps (by rfl) ?_
    refine Keeps.step State.wr_keeps (by rfl) ?_
    exact Keeps.refl _

set_option maxRecDepth 4096 in
theorem State.applyRecord_keeps {e : Nat × MRec} {s : State} :
    Keeps (mask ([.rep, .assocs, .fwd, .kindle, .pair] ++ allPages)) s (State.applyRecord e s) := by
  unfold State.applyRecord
  extract_lets x1 x2
  have h1 : Keeps (mask ([.rep, .assocs, .fwd, .kindle, .pair] ++ allPages)) s x1 := by
    unfold x1
    refine Keeps.step State.count_keeps (by rfl) ?_
    refine Keeps.step State.modPair_keeps (by rfl) ?_
    exact Keeps.refl _
  clear_value x1
  refine Keeps.ite ?_ ?_
  · assumption
  · split
    · assumption
    · refine Keeps.step State.modAsn_keeps (by rfl) ?_
      assumption
    · refine Keeps.step State.setAsn_keeps (by rfl) ?_
      assumption
    · extract_lets x3 x4
      refine Keeps.step State.modLink_keeps (by rfl) ?_
      assumption
    · refine Keeps.step State.modLink_keeps (by rfl) ?_
      assumption
    · refine Keeps.step State.fwdPut_keeps (by rfl) ?_
      assumption
    · refine Keeps.step Keeps.set_fwd (by rfl) ?_
      assumption
    · refine Keeps.step State.setWords_keeps (by rfl) ?_
      assumption
    · refine Keeps.step State.setWords_keeps (by rfl) ?_
      assumption
    · refine Keeps.step State.raiseMirror_keeps (by rfl) ?_
      assumption
    · assumption

theorem State.dropHandshakes_keeps {s : State} :
    Keeps (mask [.kindle]) s (State.dropHandshakes s) := by
  unfold State.dropHandshakes
  refine Keeps.forL ?_ ?_
  · intro b1 u1
    extract_lets x1
    have h1 : Keeps (mask [.kindle]) u1 x1 := by
      unfold x1
      refine Keeps.step State.closeSession_keeps (by rfl) ?_
      exact Keeps.refl _
    clear_value x1
    split
    · refine Keeps.onlyIf ?_ ?_
      · intro u2
        refine Keeps.step State.closeSession_keeps (by rfl) ?_
        exact Keeps.refl _
      · assumption
    · assumption
  · exact Keeps.refl _

theorem State.enterStandby_keeps {s : State} :
    Keeps (mask [.kindle, .pair, .page .dev, .page .flu]) s (State.enterStandby s) := by
  unfold State.enterStandby
  refine Keeps.step State.modPair_keeps (by rfl) ?_
  refine Keeps.step State.setEffMode_keeps (by rfl) ?_
  refine Keeps.step State.dropHandshakes_keeps (by rfl) ?_
  exact Keeps.refl _

theorem State.takeLock_keeps {s : State} :
    Keeps (mask [.page .flu]) s (State.takeLock s) := by
  unfold State.takeLock
  refine Keeps.step State.wr_keeps (by rfl) ?_
  exact Keeps.refl _

theorem State.runRule_keeps {s : State} :
    Keeps (mask [.kindle, .pair, .page .dev, .page .flu]) s (State.runRule s) := by
  unfold State.runRule
  extract_lets x1 x2 x3
  have h1 : Keeps (mask [.kindle, .pair, .page .dev, .page .flu]) s x2 := by
    unfold x2
    refine Keeps.step State.wr_keeps (by rfl) ?_
    refine Keeps.step State.modPair_keeps (by rfl) ?_
    exact Keeps.refl _
  have h2 : ∀ u, Keeps (mask [.kindle, .pair, .page .dev, .page .flu]) u (x3 u) := by
    intro u
    unfold x3
    refine Keeps.step State.wr_keeps (by rfl) ?_
    refine Keeps.step State.modPair_keeps (by rfl) ?_
    exact Keeps.refl _
  clear_value x3
  clear_value x2
  refine Keeps.ite ?_ ?_
  · assumption
  · refine Keeps.ite ?_ ?_
    · refine Keeps.step State.enterStandby_keeps (by rfl) ?_
      assumption
    · split
      · refine Keeps.ite ?_ ?_
        · refine Keeps.step State.enterStandby_keeps (by rfl) ?_
          assumption
        · refine Keeps.ite ?_ ?_
          · refine Keeps.step State.takeLock_keeps (by rfl) ?_
            refine Keeps.step State.setEffMode_keeps (by rfl) ?_
            assumption
          · refine Keeps.step (h2 ..) (Nat.or_self _) ?_
            assumption
      · refine Keeps.ite ?_ ?_
        · refine Keeps.step State.takeLock_keeps (by rfl) ?_
          refine Keeps.step State.setEffMode_keeps (by rfl) ?_
          assumption
        · refine Keeps.step (h2 ..) (Nat.or_self _) ?_
          assumption

theorem State.flueDegrade_keeps {s : State} :
    Keeps (mask [.page .flu]) s (State.flueDegrade s) := by
  unfold State.flueDegrade
  refine Keeps.ite ?_ ?_
  · refine Keeps.step State.wr_keeps (by rfl) ?_
    refine Keeps.step State.wr_keeps (by rfl) ?_
    exact Keeps.refl _
  · exact Keeps.refl _

theorem State.enterHello_keeps {s : State} :
    Keeps (mask [.rep, .assocs, .vault, .pair, .fresh, .page .flu]) s (State.enterHello s) := by
  unfold State.enterHello
  split
  rename_i x1 y0 e1
  have h1 : Keeps (mask [.rep, .assocs, .vault, .pair, .fresh, .page .flu]) s x1 := KeepsP.of_eq e1 (by
      refine KeepsP.step State.draw_keeps (by rfl) ?_
      exact Keeps.refl _
    )
  clear e1
  extract_lets x2 x3
  have h2 : Keeps (mask [.rep, .assocs, .vault, .pair, .fresh, .page .flu]) s x2 := by
    unfold x2
    refine Keeps.step State.dropSync_keeps (by rfl) ?_
    refine Keeps.step State.dropMirror_keeps (by rfl) ?_
    assumption
  have h3 : Keeps (mask [.rep, .assocs, .vault, .pair, .fresh, .page .flu]) s x3 := by
    unfold x3
    refine Keeps.step State.flueDegrade_keeps (by rfl) ?_
    refine Keeps.step State.wr_keeps (by rfl) ?_
    refine Keeps.step State.wr_keeps (by rfl) ?_
    refine Keeps.step State.wr_keeps (by rfl) ?_
    assumption
  clear_value x3
  clear_value x2
  refine Keeps.step State.modPair_keeps (by rfl) ?_
  assumption

theorem State.yieldEdge_keeps {s : State} :
    Keeps (mask [.rep, .kindle, .pair, .page .dev, .page .flu]) s (State.yieldEdge s) := by
  unfold State.yieldEdge
  refine Keeps.ite ?_ ?_
  · refine Keeps.step State.dropMirror_keeps (by rfl) ?_
    refine Keeps.step State.enterStandby_keeps (by rfl) ?_
    refine Keeps.step State.modPair_keeps (by rfl) ?_
    exact Keeps.refl _
  · exact Keeps.refl _

theorem State.lockEdge_keeps {s : State} {peer : Bool} :
    Keeps (mask [.pair, .page .flu]) s (State.lockEdge s peer) := by
  unfold State.lockEdge
  extract_lets x1
  have h1 : Keeps (mask [.pair, .page .flu]) s x1 := by
    unfold x1
    refine Keeps.step State.wr_keeps (by rfl) ?_
    exact Keeps.refl _
  clear_value x1
  refine Keeps.ite ?_ ?_
  · refine Keeps.step State.modPair_keeps (by rfl) ?_
    assumption
  · assumption

theorem State.flueLanes_keeps {s : State} {e : EdgeIn} :
    Keeps (mask [.rep, .assocs, .vault, .pair, .fresh, .page .flu]) s (State.flueLanes s e) := by
  unfold State.flueLanes
  extract_lets x1 x2 x3
  have h1 : Keeps (mask [.rep, .assocs, .vault, .pair, .fresh, .page .flu]) s x2 := by
    unfold x2
    refine Keeps.step State.wr_keeps (by rfl) ?_
    exact Keeps.refl _
  clear_value x2
  refine Keeps.ite ?_ ?_
  · refine Keeps.ite ?_ ?_
    · assumption
    · refine Keeps.step State.flueDegrade_keeps (by rfl) ?_
      refine Keeps.step State.wr_keeps (by rfl) ?_
      refine Keeps.step State.dropSync_keeps (by rfl) ?_
      refine Keeps.step State.dropMirror_keeps (by rfl) ?_
      assumption
  · refine Keeps.ite ?_ ?_
    · assumption
    · refine Keeps.ite ?_ ?_
      · refine Keeps.step State.wr_keeps (by rfl) ?_
        assumption
      · refine Keeps.ite ?_ ?_
        · refine Keeps.step State.wr_keeps (by rfl) ?_
          assumption
        · refine Keeps.ite ?_ ?_
          · assumption
          · refine Keeps.step State.enterHello_keeps (by rfl) ?_
            assumption

theorem State.peerReport_keeps {s : State} {f : MFrame} :
    Keeps (mask [.rep, .assocs, .pair, .page .flu]) s (State.peerReport s f) := by
  unfold State.peerReport
  extract_lets x1 x2 x3 x4 x5 x6 x7 x8
  have h1 : Keeps (mask [.rep, .assocs, .pair, .page .flu]) s x1 := by
    unfold x1
    refine Keeps.step State.modPair_keeps (by rfl) ?_
    refine Keeps.step State.wr_keeps (by rfl) ?_
    exact Keeps.refl _
  have h2 : Keeps (mask [.rep, .assocs, .pair, .page .flu]) s x3 := by
    unfold x3
    refine Keeps.ite ?_ ?_
    · assumption
    · refine Keeps.step State.dropSync_keeps (by rfl) ?_
      assumption
  have h3 : Keeps (mask [.rep, .assocs, .pair, .page .flu]) s x5 := by
    unfold x5
    refine Keeps.ite ?_ ?_
    · refine Keeps.step State.startBulk_keeps (by rfl) ?_
      assumption
    · assumption
  have h4 : Keeps (mask [.rep, .assocs, .pair, .page .flu]) s x6 := by
    unfold x6
    refine Keeps.ite ?_ ?_
    · refine Keeps.step State.modPair_keeps (by rfl) ?_
      refine Keeps.step State.wr_keeps (by rfl) ?_
      assumption
    · assumption
  have h5 : Keeps (mask [.rep, .assocs, .pair, .page .flu]) s x8 := by
    unfold x8
    refine Keeps.step State.event_keeps (by rfl) ?_
    assumption
  clear_value x8
  clear_value x6
  clear_value x5
  clear_value x3
  clear_value x1
  refine Keeps.ite ?_ ?_
  · refine Keeps.ite ?_ ?_
    · refine Keeps.step State.modPair_keeps (by rfl) ?_
      assumption
    · assumption
  · assumption

theorem State.takeFrame_keeps {s : State} :
    KeepsP (mask [.rep, .assocs, .pair, .page .flu]) s (State.takeFrame s) := by
  unfold State.takeFrame
  extract_lets x1 x2 x3 x4 x5 x6
  have h1 : Keeps (mask [.rep, .assocs, .pair, .page .flu]) s x2 := by
    unfold x2
    refine Keeps.step State.wr_keeps (by rfl) ?_
    exact Keeps.refl _
  have h2 : Keeps (mask [.rep, .assocs, .pair, .page .flu]) s x3 := by
    unfold x3
    refine Keeps.step State.modPair_keeps (by rfl) ?_
    assumption
  have h3 : Keeps (mask [.rep, .assocs, .pair, .page .flu]) s x4 := by
    unfold x4
    refine Keeps.onlyIf ?_ ?_
    · intro u1
      refine Keeps.step State.event_keeps (by rfl) ?_
      exact Keeps.refl _
    · assumption
  have h4 : Keeps (mask [.rep, .assocs, .pair, .page .flu]) s x6 := by
    unfold x6
    refine Keeps.onlyIf ?_ ?_
    · intro u1
      refine Keeps.step State.event_keeps (by rfl) ?_
      refine Keeps.step State.count_keeps (by rfl) ?_
      refine Keeps.step State.bumpReg_keeps (by rfl) ?_
      exact Keeps.refl _
    · assumption
  clear_value x6
  clear_value x4
  clear_value x3
  clear_value x2
  split
  · refine KeepsP.ite ?_ ?_
    · refine KeepsP.mk ?_
      refine Keeps.step State.event_keeps (by rfl) ?_
      refine Keeps.step State.count_keeps (by rfl) ?_
      refine Keeps.step State.bumpReg_keeps (by rfl) ?_
      assumption
    · refine KeepsP.mk ?_
      assumption
  · extract_lets x7 x8 x9
    have h5 : Keeps (mask [.rep, .assocs, .pair, .page .flu]) s x7 := by
      unfold x7
      refine Keeps.step State.count_keeps (by rfl) ?_
      refine Keeps.step State.modPair_keeps (by rfl) ?_
      assumption
    have h6 : Keeps (mask [.rep, .assocs, .pair, .page .flu]) s x8 := by
      unfold x8
      refine Keeps.step State.peerReport_keeps (by rfl) ?_
      assumption
    have h7 : Keeps (mask [.rep, .assocs, .pair, .page .flu]) s x9 := by
      unfold x9
      split
      · refine Keeps.ite ?_ ?_
        · refine Keeps.step State.resync_keeps (by rfl) ?_
          assumption
        · assumption
      · assumption
    clear_value x9
    clear_value x8
    clear_value x7
    refine KeepsP.ite ?_ ?_
    · refine KeepsP.mk ?_
      assumption
    · refine KeepsP.mk ?_
      assumption

theorem State.flueBytes_keeps {s : State} {g : Nat} {bs : List Byte} :
    Keeps (mask [.lanes, .pair]) s (State.flueBytes s g bs) := by
  unfold State.flueBytes
  extract_lets x1 x2
  have h1 : Keeps (mask [.lanes, .pair]) s x2 := by
    unfold x2
    refine Keeps.step State.modLane_keeps (by rfl) ?_
    exact Keeps.refl _
  clear_value x2
  refine Keeps.forL ?_ ?_
  · intro b1 u1
    extract_lets x3
    refine Keeps.step State.modPair_keeps (by rfl) ?_
    exact Keeps.refl _
  · assumption

theorem State.keyFlue_keeps {s : State} {slot : Nat} {h2 : Hello} :
    Keeps (mask [.pair, .page .flu]) s (State.keyFlue s slot h2) := by
  unfold State.keyFlue
  extract_lets x1 x2 x3
  have h1 : Keeps (mask [.pair, .page .flu]) s x2 := by
    unfold x2
    refine Keeps.step State.flueDegrade_keeps (by rfl) ?_
    refine Keeps.step State.wr_keeps (by rfl) ?_
    refine Keeps.step State.wr_keeps (by rfl) ?_
    refine Keeps.step State.wr_keeps (by rfl) ?_
    exact Keeps.refl _
  have h3 : Keeps (mask [.pair, .page .flu]) s x3 := by
    unfold x3
    refine Keeps.step State.modPair_keeps (by rfl) ?_
    assumption
  clear_value x3
  clear_value x2
  refine Keeps.ite ?_ ?_
  · refine Keeps.step State.startBulk_keeps (by rfl) ?_
    assumption
  · assumption

theorem State.judgeHello_keeps {s : State} {h1 : Hello} :
    Keeps (mask [.sched, .rep, .vault, .pair, .page .flu]) s (State.judgeHello s h1) := by
  unfold State.judgeHello
  extract_lets x1 x2 x3
  have h2 : Keeps (mask [.sched, .rep, .vault, .pair, .page .flu]) s x2 := by
    unfold x2
    refine Keeps.step State.wr_keeps (by rfl) ?_
    exact Keeps.refl _
  have h3 : Keeps (mask [.sched, .rep, .vault, .pair, .page .flu]) s x3 := by
    unfold x3
    refine Keeps.step State.wr_keeps (by rfl) ?_
    refine Keeps.step State.wr_keeps (by rfl) ?_
    assumption
  clear_value x3
  clear_value x2
  refine Keeps.ite ?_ ?_
  · refine Keeps.step State.event_keeps (by rfl) ?_
    refine Keeps.step State.wr_keeps (by rfl) ?_
    refine Keeps.step State.wr_keeps (by rfl) ?_
    exact Keeps.refl _
  · refine Keeps.ite ?_ ?_
    · refine Keeps.step State.wr_keeps (by rfl) ?_
      assumption
    · refine Keeps.ite ?_ ?_
      · refine Keeps.step State.event_keeps (by rfl) ?_
        refine Keeps.step State.wr_keeps (by rfl) ?_
        refine Keeps.step State.wr_keeps (by rfl) ?_
        assumption
      · split
        · rename_i x4 e1
          have h4 : Keeps (mask [.sched, .rep, .vault, .pair, .page .flu]) s x4 := KeepsP.of_eq e1 (by
              refine KeepsP.step State.takeUse_keeps (by rfl) ?_
              assumption
            )
          clear e1
          refine Keeps.step State.keyFlue_keeps (by rfl) ?_
          assumption
        · rename_i x4 y0 y1 e1
          have h4 : Keeps (mask [.sched, .rep, .vault, .pair, .page .flu]) s x4 := KeepsP.of_eq e1 (by
              refine KeepsP.step State.takeUse_keeps (by rfl) ?_
              assumption
            )
          clear e1
          assumption

theorem State.jumpAsn_keeps {a : Nat} {s : State} :
    Keeps (mask [.sched, .rep, .assocs]) s (State.jumpAsn a s) := by
  unfold State.jumpAsn
  extract_lets x1 x2 x3
  have h1 : Keeps (mask [.sched, .rep, .assocs]) s x3 := by
    unfold x3
    refine Keeps.step State.softTest_keeps (by rfl) ?_
    refine Keeps.step State.setAsn_keeps (by rfl) ?_
    exact Keeps.refl _
  clear_value x3
  refine Keeps.ite ?_ ?_
  · refine Keeps.ite ?_ ?_
    · refine Keeps.step State.schedule_keeps (by rfl) ?_
      refine Keeps.step State.asnEvent_keeps (by rfl) ?_
      assumption
    · assumption
  · exact Keeps.refl _

theorem State.jumpLink_keeps {k : Nat} {s : State} :
    Keeps (mask [.assocs, .kindle]) s (State.jumpLink k s) := by
  unfold State.jumpLink
  extract_lets x1 x2 x3 x4 x5 x6
  have h1 : Keeps (mask [.assocs, .kindle]) s x1 := by
    unfold x1
    refine Keeps.ite ?_ ?_
    · refine Keeps.step State.modLink_keeps (by rfl) ?_
      refine Keeps.step State.modSes_keeps (by rfl) ?_
      exact Keeps.refl _
    · exact Keeps.refl _
  have h2 : Keeps (mask [.assocs, .kindle]) s x3 := by
    unfold x3
    refine Keeps.forL ?_ ?_
    · intro b1 u1
      refine Keeps.step State.abandonAsn_keeps (by rfl) ?_
      exact Keeps.refl _
    · assumption
  have h3 : Keeps (mask [.assocs, .kindle]) s x5 := by
    unfold x5
    refine Keeps.ite ?_ ?_
    · refine Keeps.step State.modLink_keeps (by rfl) ?_
      assumption
    · assumption
  have h4 : Keeps (mask [.assocs, .kindle]) s x6 := by
    unfold x6
    refine Keeps.ite ?_ ?_
    · refine Keeps.step State.startRoll_keeps (by rfl) ?_
      assumption
    · assumption
  clear_value x6
  clear_value x5
  clear_value x3
  clear_value x1
  refine Keeps.ite ?_ ?_
  · refine Keeps.step State.closeSession_keeps (by rfl) ?_
    assumption
  · assumption

theorem State.landFluCmd_keeps {s : State} {op : Nat} {cyc : Cyc} :
    Keeps (mask [.cycle, .sched, .page .dev]) s (State.landFluCmd s op cyc) := by
  unfold State.landFluCmd
  refine State.gate_keeps ?_ ?_ ?_
  · exact rfl
  · intro u1
    refine Keeps.ite ?_ ?_
    · exact Keeps.refl _
    · refine Keeps.step State.schedule_keeps (by rfl) ?_
      exact Keeps.refl _
  · refine Keeps.step State.at_keeps (by rfl) ?_
    exact Keeps.refl _

theorem State.landGop_keeps {s : State} {w : Word} {cyc : Cyc} :
    Keeps (mask [.cycle, .sched, .rep, .page .dev]) s (State.landGop s w cyc) := by
  unfold State.landGop
  refine State.gate_keeps ?_ ?_ ?_
  · exact rfl
  · intro u1
    extract_lets x1 x2 x3
    have h1 : Keeps (mask [.cycle, .sched, .rep, .page .dev]) u1 x3 := by
      unfold x3
      refine Keeps.step State.schedule_keeps (by rfl) ?_
      refine Keeps.step State.wr_keeps (by rfl) ?_
      exact Keeps.refl _
    clear_value x3
    refine Keeps.ite ?_ ?_
    · refine Keeps.step State.raiseBit_keeps (by rfl) ?_
      refine Keeps.step State.wr_keeps (by rfl) ?_
      exact Keeps.refl _
    · refine Keeps.ite ?_ ?_
      · exact Keeps.refl _
      · refine Keeps.ite ?_ ?_
        · refine Keeps.step Keeps.set_sched (by rfl) ?_
          assumption
        · assumption
  · refine Keeps.step State.at_keeps (by rfl) ?_
    exact Keeps.refl _

theorem State.landHold_keeps {s : State} :
    Keeps (mask [.sched, .page .dev]) s (State.landHold s) := by
  unfold State.landHold
  refine Keeps.ite ?_ ?_
  · exact Keeps.refl _
  · extract_lets x1
    have h1 : Keeps (mask [.sched, .page .dev]) s x1 := by
      unfold x1
      refine Keeps.step State.wr_keeps (by rfl) ?_
      exact Keeps.refl _
    clear_value x1
    refine Keeps.step Keeps.set_sched (by rfl) ?_
    assumption

theorem State.landHoldRelease_keeps {s : State} {cyc : Nat} :
    Keeps (mask [.sched, .page .dev]) s (State.landHoldRelease s cyc) := by
  unfold State.landHoldRelease
  extract_lets x1
  have h1 : Keeps (mask [.sched, .page .dev]) s x1 := by
    unfold x1
    refine Keeps.step State.wr_keeps (by rfl) ?_
    exact Keeps.refl _
  clear_value x1
  refine Keeps.step Keeps.set_sched (by rfl) ?_
  assumption

theorem State.loseHearth_keeps {s : State} :
    Keeps (mask [.hearth]) s (State.loseHearth s) := by
  unfold State.loseHearth
  extract_lets x1
  refine Keeps.step State.zeroCells_keeps (by rfl) ?_
  refine Keeps.step State.modHearth_keeps (by rfl) ?_
  exact Keeps.refl _

theorem State.offerAgain_keeps {s : State} :
    Keeps (mask [.rep, .vault, .kindle, .fresh]) s (State.offerAgain s) := by
  unfold State.offerAgain
  refine Keeps.forN ?_ ?_
  · intro b1 u1
    refine Keeps.ite ?_ ?_
    · refine Keeps.step State.tryOffer_keeps (by rfl) ?_
      exact Keeps.refl _
    · exact Keeps.refl _
  · exact Keeps.refl _

theorem State.peerClaim_keeps {s : State} {claim : Nat} :
    Keeps (mask [.pair, .page .flu]) s (State.peerClaim s claim) := by
  unfold State.peerClaim
  refine Keeps.step State.modPair_keeps (by rfl) ?_
  refine Keeps.step State.wr_keeps (by rfl) ?_
  exact Keeps.refl _

theorem State.takeHello_keeps {s : State} {h1 : Hello} :
    Keeps (mask [.sched, .rep, .assocs, .vault, .pair, .fresh, .page .flu]) s (State.takeHello s h1) := by
  unfold State.takeHello
  extract_lets x1
  have h2 : Keeps (mask [.sched, .rep, .assocs, .vault, .pair, .fresh, .page .flu]) s x1 := by
    unfold x1
    refine Keeps.step State.peerClaim_keeps (by rfl) ?_
    exact Keeps.refl _
  clear_value x1
  refine Keeps.ite ?_ ?_
  · refine Keeps.ite ?_ ?_
    · assumption
    · refine Keeps.step State.enterHello_keeps (by rfl) ?_
      assumption
  · refine Keeps.step State.judgeHello_keeps (by rfl) ?_
    assumption

theorem State.takeMirror_keeps {s : State} {f : MFrame} :
    Keeps (mask [.assocs, .pair, .page .dev, .page .flu]) s (State.takeMirror s f) := by
  unfold State.takeMirror
  extract_lets x1 x2
  have h1 : Keeps (mask [.assocs, .pair, .page .dev, .page .flu]) s x1 := by
    unfold x1
    refine Keeps.step State.ackRecords_keeps (by rfl) ?_
    refine Keeps.step State.peerClaim_keeps (by rfl) ?_
    exact Keeps.refl _
  clear_value x1
  refine Keeps.ite ?_ ?_
  · assumption
  · refine Keeps.step State.modPair_keeps (by rfl) ?_
    assumption

theorem State.takeOver_keeps {s : State} {e : Nat} {warm : Bool} :
    Keeps (mask [.sched, .rep, .assocs, .vault, .kindle, .slices, .msix, .pair, .fresh, .out, .page .dev, .page .flu,
        .page .hst, .page .slc]) s (State.takeOver s e warm) := by
  unfold State.takeOver
  extract_lets x1 x2 x3 x4 x5 x6 x7
  have h1 : Keeps (mask
  [.sched, .rep, .assocs, .vault, .kindle, .slices, .msix, .pair, .fresh, .out,
    .page .dev, .page .flu, .page .hst, .page .slc]) s x1 := by
    unfold x1
    refine Keeps.step State.modPair_keeps (by rfl) ?_
    refine Keeps.step State.takeLock_keeps (by rfl) ?_
    refine Keeps.step State.setEffMode_keeps (by rfl) ?_
    exact Keeps.refl _
  have h2 : Keeps (mask
  [.sched, .rep, .assocs, .vault, .kindle, .slices, .msix, .pair, .fresh, .out,
    .page .dev, .page .flu, .page .hst, .page .slc]) s x2 := by
    unfold x2
    refine Keeps.step State.wr_keeps (by rfl) ?_
    refine Keeps.step State.wr_keeps (by rfl) ?_
    assumption
  have h3 : Keeps (mask
  [.sched, .rep, .assocs, .vault, .kindle, .slices, .msix, .pair, .fresh, .out,
    .page .dev, .page .flu, .page .hst, .page .slc]) s x3 := by
    unfold x3
    refine Keeps.step State.driveLines_keeps (by rfl) ?_
    assumption
  have h4 : Keeps (mask
  [.sched, .rep, .assocs, .vault, .kindle, .slices, .msix, .pair, .fresh, .out,
    .page .dev, .page .flu, .page .hst, .page .slc]) s x4 := by
    unfold x4
    refine Keeps.step State.event_keeps (by rfl) ?_
    assumption
  have h5 : Keeps (mask
  [.sched, .rep, .assocs, .vault, .kindle, .slices, .msix, .pair, .fresh, .out,
    .page .dev, .page .flu, .page .hst, .page .slc]) s x5 := by
    unfold x5
    refine Keeps.forL ?_ ?_
    · intro b1 u1
      refine Keeps.step State.jumpAsn_keeps (by rfl) ?_
      exact Keeps.refl _
    · assumption
  have h6 : Keeps (mask
  [.sched, .rep, .assocs, .vault, .kindle, .slices, .msix, .pair, .fresh, .out,
    .page .dev, .page .flu, .page .hst, .page .slc]) s x6 := by
    unfold x6
    refine Keeps.step State.event_keeps (by rfl) ?_
    assumption
  have h7 : Keeps (mask
  [.sched, .rep, .assocs, .vault, .kindle, .slices, .msix, .pair, .fresh, .out,
    .page .dev, .page .flu, .page .hst, .page .slc]) s x7 := by
    unfold x7
    refine Keeps.forL ?_ ?_
    · intro b1 u1
      refine Keeps.step State.deadAsn_keeps (by rfl) ?_
      exact Keeps.refl _
    · assumption
  clear_value x7
  clear_value x6
  clear_value x5
  clear_value x4
  clear_value x3
  clear_value x2
  clear_value x1
  refine Keeps.ite ?_ ?_
  · refine Keeps.step State.offerAgain_keeps (by rfl) ?_
    refine Keeps.forL ?_ ?_
    · intro b1 u1
      refine Keeps.step State.jumpLink_keeps (by rfl) ?_
      exact Keeps.refl _
    · assumption
  · refine Keeps.step State.offerAgain_keeps (by rfl) ?_
    refine Keeps.forL ?_ ?_
    · intro b1 u1
      refine Keeps.step State.closeSession_keeps (by rfl) ?_
      refine Keeps.step State.closeSession_keeps (by rfl) ?_
      exact Keeps.refl _
    · assumption

theorem State.unjoin_keeps {s : State} {hello : Bool} :
    Keeps (mask [.pair]) s (State.unjoin s hello) := by
  unfold State.unjoin
  refine Keeps.step State.modPair_keeps (by rfl) ?_
  exact Keeps.refl _

theorem execHold_keeps {cyc : Cyc} {s : State} :
    KeepsX (mask [.cycle, .sched, .rep, .msix, .out, .page .dev]) s (execHold cyc s) := by
  unfold execHold
  refine KeepsX.done (by rfl) ?_
  refine State.gate_keeps ?_ ?_ ?_
  · exact rfl
  · intro u1
    refine Keeps.step State.landHold_keeps (by rfl) ?_
    exact Keeps.refl _
  · refine Keeps.step State.at_keeps (by rfl) ?_
    exact Keeps.refl _

theorem execHoldRelease_keeps {cyc : Cyc} {s : State} :
    KeepsX (mask [.cycle, .sched, .rep, .msix, .out, .page .dev]) s (execHoldRelease cyc s) := by
  unfold execHoldRelease
  refine KeepsX.done (by rfl) ?_
  refine State.gate_keeps ?_ ?_ ?_
  · exact rfl
  · intro u1
    refine Keeps.step State.landHoldRelease_keeps (by rfl) ?_
    exact Keeps.refl _
  · refine Keeps.step State.at_keeps (by rfl) ?_
    exact Keeps.refl _

theorem execCommit_keeps {w : Word} {cyc : Cyc} {s : State} :
    KeepsX (mask [.cycle, .sched, .rep, .msix, .out, .page .dev]) s (execCommit w cyc s) := by
  unfold execCommit
  refine KeepsX.done (by rfl) ?_
  refine Keeps.step State.landGop_keeps (by rfl) ?_
  exact Keeps.refl _

theorem execGopSnapshot_keeps {w : Word} {cyc : Cyc} {s : State} :
    KeepsX (mask [.cycle, .sched, .rep, .msix, .out, .page .dev]) s (execGopSnapshot w cyc s) := by
  unfold execGopSnapshot
  refine KeepsX.done (by rfl) ?_
  refine Keeps.step State.landGop_keeps (by rfl) ?_
  exact Keeps.refl _

theorem execBarrier_keeps {w : Word} {cyc : Cyc} {s : State} :
    KeepsX (mask [.cycle, .sched, .rep, .msix, .out, .page .dev]) s (execBarrier w cyc s) := by
  unfold execBarrier
  refine KeepsX.done (by rfl) ?_
  refine Keeps.step State.landGop_keeps (by rfl) ?_
  exact Keeps.refl _

theorem execQuenchAsn_keeps {w : Word} {cyc : Cyc} {s : State} :
    KeepsX (mask [.cycle, .sched, .rep, .msix, .out, .page .dev]) s (execQuenchAsn w cyc s) := by
  unfold execQuenchAsn
  refine KeepsX.done (by rfl) ?_
  refine Keeps.step State.landGop_keeps (by rfl) ?_
  exact Keeps.refl _

theorem execHello_keeps {cyc : Cyc} {s : State} :
    KeepsX (mask [.cycle, .sched, .rep, .assocs, .vault, .msix, .pair, .fresh, .out,
        .page .flu]) s (execHello cyc s) := by
  unfold execHello
  extract_lets x1
  have h1 : Keeps (mask
  [.cycle, .sched, .rep, .assocs, .vault, .msix, .pair, .fresh, .out,
    .page .flu]) s x1 := by
    unfold x1
    refine Keeps.step State.at_keeps (by rfl) ?_
    exact Keeps.refl _
  clear_value x1
  refine KeepsX.done (by rfl) ?_
  refine Keeps.ite ?_ ?_
  · assumption
  · split
    · refine Keeps.step State.takeHello_keeps (by rfl) ?_
      refine Keeps.step State.unjoin_keeps (by rfl) ?_
      assumption
    · assumption

theorem execMirrorFrameVerified_keeps {sel : Fin 16} {alarm : Fin 4} {s : State} :
    KeepsX (mask [.rep, .assocs, .msix, .pair, .out, .page .dev,
        .page .flu]) s (execMirrorFrameVerified sel alarm s) := by
  unfold execMirrorFrameVerified
  refine KeepsX.done (by rfl) ?_
  refine Keeps.ite ?_ ?_
  · exact Keeps.refl _
  · split
    · extract_lets x1
      have h1 : Keeps (mask [.rep, .assocs, .msix, .pair, .out, .page .dev, .page .flu]) s x1 := by
        unfold x1
        refine Keeps.step State.unjoin_keeps (by rfl) ?_
        exact Keeps.refl _
      clear_value x1
      split
      · refine Keeps.step State.takeMirror_keeps (by rfl) ?_
        assumption
      · refine Keeps.step State.event_keeps (by rfl) ?_
        refine Keeps.step State.count_keeps (by rfl) ?_
        assumption
    · exact Keeps.refl _

theorem execHandover_keeps {cyc : Cyc} {s : State} :
    KeepsX (mask [.cycle, .sched, .rep, .msix, .out, .page .dev]) s (execHandover cyc s) := by
  unfold execHandover
  refine KeepsX.done (by rfl) ?_
  refine Keeps.step State.landFluCmd_keeps (by rfl) ?_
  exact Keeps.refl _

theorem execResync_keeps {cyc : Cyc} {s : State} :
    KeepsX (mask [.cycle, .sched, .rep, .msix, .out, .page .dev]) s (execResync cyc s) := by
  unfold execResync
  refine KeepsX.done (by rfl) ?_
  refine Keeps.step State.landFluCmd_keeps (by rfl) ?_
  exact Keeps.refl _

theorem execClaimFrame_keeps {claim : BitVec 16} {crc : BitVec 4} {s : State} :
    KeepsX (mask [.rep, .msix, .pair, .out, .page .flu]) s (execClaimFrame claim crc s) := by
  unfold execClaimFrame
  refine KeepsX.done (by rfl) ?_
  refine Keeps.ite ?_ ?_
  · refine Keeps.step State.peerClaim_keeps (by rfl) ?_
    exact Keeps.refl _
  · exact Keeps.refl _

theorem execIdleLaneWindow_keeps {g : LaneNo} {errors : Nat} {s : State} :
    KeepsX (mask [.rep, .msix, .pair, .out]) s (execIdleLaneWindow g errors s) := by
  unfold execIdleLaneWindow
  refine KeepsX.done (by rfl) ?_
  refine Keeps.ite ?_ ?_
  · refine Keeps.step State.modPair_keeps (by rfl) ?_
    exact Keeps.refl _
  · exact Keeps.refl _

theorem execPairOpAckTimeout_keeps {s : State} :
    KeepsX (mask [.rep, .msix, .pair, .out, .page .dev]) s (execPairOpAckTimeout s) := by
  unfold execPairOpAckTimeout
  refine KeepsX.done (by rfl) ?_
  split
  · refine Keeps.ite ?_ ?_
    · extract_lets x1
      have h1 : Keeps (mask [.rep, .msix, .pair, .out, .page .dev]) s x1 := by
        unfold x1
        refine Keeps.step State.modPair_keeps (by rfl) ?_
        refine Keeps.step State.raiseBit_keeps (by rfl) ?_
        refine Keeps.step State.wr_keeps (by rfl) ?_
        exact Keeps.refl _
      clear_value x1
      refine Keeps.ite ?_ ?_
      · refine Keeps.step State.wr_keeps (by rfl) ?_
        assumption
      · assumption
    · exact Keeps.refl _
  · exact Keeps.refl _

theorem execMirrorStale_keeps {s : State} :
    KeepsX (mask [.rep, .msix, .out, .page .flu]) s (execMirrorStale s) := by
  unfold execMirrorStale
  refine KeepsX.done (by rfl) ?_
  refine Keeps.ite ?_ ?_
  · refine Keeps.step State.dropMirror_keeps (by rfl) ?_
    exact Keeps.refl _
  · exact Keeps.refl _

theorem execPartnerSyncLost_keeps {s : State} :
    KeepsX (mask [.rep, .assocs, .msix, .out, .page .flu]) s (execPartnerSyncLost s) := by
  unfold execPartnerSyncLost
  refine KeepsX.done (by rfl) ?_
  refine Keeps.ite ?_ ?_
  · refine Keeps.step State.dropSync_keeps (by rfl) ?_
    exact Keeps.refl _
  · exact Keeps.refl _

theorem execHandoverRelease_keeps {s : State} :
    KeepsX (mask [.rep, .hearth, .kindle, .msix, .pair, .out, .page .dev, .page .flu]) s (execHandoverRelease s) := by
  unfold execHandoverRelease
  refine KeepsX.done (by rfl) ?_
  split
  · refine Keeps.ite ?_ ?_
    · refine Keeps.step State.raiseMirror_keeps (by rfl) ?_
      refine Keeps.step State.loseHearth_keeps (by rfl) ?_
      refine Keeps.step State.enterStandby_keeps (by rfl) ?_
      refine Keeps.step State.modPair_keeps (by rfl) ?_
      exact Keeps.refl _
    · exact Keeps.refl _
  · exact Keeps.refl _

theorem execPartnerFailure_keeps {s : State} :
    KeepsX (mask [.rep, .msix, .pair, .out]) s (execPartnerFailure s) := by
  unfold execPartnerFailure
  extract_lets x1 x2 x3
  have h1 : Keeps (mask [.rep, .msix, .pair, .out]) s x3 := by
    unfold x3
    refine Keeps.step State.event_keeps (by rfl) ?_
    exact Keeps.refl _
  clear_value x3
  refine KeepsX.done (by rfl) ?_
  refine Keeps.ite ?_ ?_
  · refine Keeps.ite ?_ ?_
    · refine Keeps.step State.modPair_keeps (by rfl) ?_
      assumption
    · assumption
  · exact Keeps.refl _

theorem execTakeover_keeps {s : State} :
    KeepsX (mask [.sched, .rep, .assocs, .vault, .kindle, .slices, .msix, .pair, .fresh, .out, .page .dev,
        .page .flu, .page .hst, .page .slc]) s (execTakeover s) := by
  unfold execTakeover
  refine KeepsX.done (by rfl) ?_
  split
  · refine Keeps.ite ?_ ?_
    · refine Keeps.step State.takeOver_keeps (by rfl) ?_
      exact Keeps.refl _
    · exact Keeps.refl _
  · exact Keeps.refl _

theorem execTakeoverComplete_keeps {s : State} :
    KeepsX (mask [.rep, .msix, .pair, .out, .page .dev, .page .flu]) s (execTakeoverComplete s) := by
  unfold execTakeoverComplete
  refine KeepsX.done (by rfl) ?_
  split
  · refine Keeps.ite ?_ ?_
    · refine Keeps.step State.setEffMode_keeps (by rfl) ?_
      exact Keeps.refl _
    · exact Keeps.refl _
  · exact Keeps.refl _

theorem execClaimAgeExpiry_keeps {s : State} :
    KeepsX (mask [.rep, .msix, .pair, .out, .page .dev, .page .flu]) s (execClaimAgeExpiry s) := by
  unfold execClaimAgeExpiry
  refine KeepsX.done (by rfl) ?_
  refine Keeps.ite ?_ ?_
  · refine Keeps.step State.setEffMode_keeps (by rfl) ?_
    exact Keeps.refl _
  · exact Keeps.refl _

theorem execStandbyKat_keeps {s : State} :
    KeepsX (mask [.rep, .chims, .msix, .out]) s (execStandbyKat s) := by
  unfold execStandbyKat
  refine KeepsX.done (by rfl) ?_
  refine Keeps.ite ?_ ?_
  · refine Keeps.forN ?_ ?_
    · intro b1 u1
      extract_lets x1
      refine Keeps.step State.modChim_keeps (by rfl) ?_
      refine Keeps.step State.katStart_keeps (by rfl) ?_
      exact Keeps.refl _
    · exact Keeps.refl _
  · exact Keeps.refl _

end Sys2Proof.Machine
end

