-- ==== Sys2Proof/Laws/Events.lean ====
section
/-! SUPPORT. What the operations of Machine/Events.lean keep, and the parts of the state that they may change. -/

namespace Sys2Proof.Machine

open Sys2Proof

theorem State.clearCounter_keeps {s : State} {arrived : List RegKey} {p : Page} {i : Nat} {c : Nat} :
    Keeps (mask [.rep]) s (State.clearCounter s arrived p i c) := by
  unfold State.clearCounter
  extract_lets x1 x2 x3
  have h1 : Keeps (mask [.rep]) s x3 := by
    unfold x3
    refine Keeps.step State.setCtr_keeps (by rfl) ?_
    exact Keeps.refl _
  clear_value x3
  refine Keeps.ite ?_ ?_
  · refine Keeps.step State.count_keeps (by rfl) ?_
    refine Keeps.step State.pmcEvent_keeps (by rfl) ?_
    assumption
  · assumption

theorem State.clearCounters_keeps {s : State} {arrived : List RegKey} :
    Keeps (mask [.rep]) s (State.clearCounters s arrived) := by
  unfold State.clearCounters
  refine Keeps.forL ?_ ?_
  · intro b1 u1
    refine Keeps.step State.clearCounter_keeps (by rfl) ?_
    exact Keeps.refl _
  · exact Keeps.refl _

theorem State.modRep_keeps {s : State} {f : Report → Report} :
    Keeps (mask [.rep]) s (State.modRep s f) := by
  unfold State.modRep
  refine Keeps.step Keeps.set_rep (by rfl) ?_
  exact Keeps.refl _

theorem State.modArch_keeps {s : State} {f : Archive → Archive} :
    Keeps (mask [.rep]) s (State.modArch s f) := by
  unfold State.modArch
  refine Keeps.step State.modRep_keeps (by rfl) ?_
  exact Keeps.refl _

theorem State.pmcFlag_keeps {s : State} {f : Fld} :
    Keeps (mask [.rep]) s (State.pmcFlag s f) := by
  unfold State.pmcFlag
  refine Keeps.step State.event_keeps (by rfl) ?_
  refine Keeps.step State.wrEvt_keeps (by rfl) ?_
  exact Keeps.refl _

theorem State.archEdge_keeps {s : State} :
    Keeps (mask [.rep]) s (State.archEdge s) := by
  unfold State.archEdge
  split
  · refine Keeps.ite ?_ ?_
    · exact Keeps.refl _
    · extract_lets x1 x2 x3 x4 x5
      have h1 : Keeps (mask [.rep]) s x5 := by
        unfold x5
        refine Keeps.step State.count_keeps (by rfl) ?_
        refine Keeps.step State.modArch_keeps (by rfl) ?_
        exact Keeps.refl _
      clear_value x5
      refine Keeps.ite ?_ ?_
      · assumption
      · refine Keeps.step State.pmcFlag_keeps (by rfl) ?_
        assumption
  · exact Keeps.refl _

theorem State.refillBuckets_keeps {s : State} {n : Nat} :
    Keeps (mask [.rep]) s (State.refillBuckets s n) := by
  unfold State.refillBuckets
  refine Keeps.step State.modRep_keeps (by rfl) ?_
  exact Keeps.refl _

theorem State.archRead_keeps {s : State} {block : Nat} {word : Nat} :
    Keeps (mask [.rep, .page .pmc]) s (State.archRead s block word) := by
  unfold State.archRead
  extract_lets x1
  have h1 : Keeps (mask [.rep, .page .pmc]) s x1 := by
    unfold x1
    refine Keeps.step State.setWord_keeps (by rfl) ?_
    exact Keeps.refl _
  clear_value x1
  split
  · refine Keeps.step State.modArch_keeps (by rfl) ?_
    assumption
  · refine Keeps.ite ?_ ?_
    · refine Keeps.step State.modArch_keeps (by rfl) ?_
      assumption
    · extract_lets x2
      refine Keeps.step State.modArch_keeps (by rfl) ?_
      assumption

theorem State.archive_keeps {s : State} {n : Nat} :
    Keeps (mask [.rep, .fresh]) s (State.archive s n) := by
  unfold State.archive
  extract_lets x1 x2 x3
  refine Keeps.ite ?_ ?_
  · exact Keeps.refl _
  · refine Keeps.ite ?_ ?_
    · refine Keeps.step State.pmcFlag_keeps (by rfl) ?_
      refine Keeps.step State.count_keeps (by rfl) ?_
      refine Keeps.step State.modArch_keeps (by rfl) ?_
      exact Keeps.refl _
    · refine Keeps.step State.modArch_keeps (by rfl) ?_
      refine Keeps.step State.burn_keeps (by rfl) ?_
      exact Keeps.refl _

theorem State.carriesArrive_keeps {s : State} :
    KeepsP (mask [.rep]) s (State.carriesArrive s) := by
  unfold State.carriesArrive
  extract_lets x1 x2
  have h1 : Keeps (mask [.rep]) s x2 := by
    unfold x2
    refine Keeps.step State.modRep_keeps (by rfl) ?_
    exact Keeps.refl _
  clear_value x2
  refine KeepsP.mk ?_
  refine Keeps.forL ?_ ?_
  · intro b1 u1
    refine Keeps.step addCtr_keeps (by rfl) ?_
    exact Keeps.refl _
  · assumption

theorem State.clearFault_keeps {s : State} {p : Page} {i : Nat} :
    Keeps (mask [.rep]) s (State.clearFault s p i) := by
  unfold State.clearFault
  refine Keeps.step State.setEvtWord_keeps (by rfl) ?_
  exact Keeps.refl _

theorem State.clearFlt_keeps {s : State} :
    Keeps (mask [.rep]) s (State.clearFlt s) := by
  unfold State.clearFlt
  refine Keeps.step State.setEvtWord_keeps (by rfl) ?_
  refine Keeps.step State.setEvtWord_keeps (by rfl) ?_
  exact Keeps.refl _

theorem State.commitCntCfg_keeps {s : State} {arrived : List RegKey} {k : RegKey} {w : Word} :
    Keeps (mask [.rep, .page k.page]) s (State.commitCntCfg s arrived k w) := by
  unfold State.commitCntCfg
  extract_lets x1 x2
  have h1 : Keeps (mask [.rep, .page k.page]) s x2 := by
    unfold x2
    with_reducible refine Keeps.step State.setWord_keeps ?_ ?_
    · exact Covers.of_subset (l := [.page k.page]) (by simp)
    exact Keeps.refl _
  clear_value x2
  refine Keeps.ite ?_ ?_
  · assumption
  · with_reducible refine Keeps.step State.clearCounter_keeps ?_ ?_
    · exact Covers.of_subset (l := [.rep]) (by simp)
    assumption

theorem State.errorConsequence_keeps {s : State} {p : Page} {i : Nat} {src : Nat} {node : Fin 16 × Fin 8 × Nat} {q :
    LineIn} :
    Keeps (mask [.sched, .rep, .ports, .vault, .chims, .kindle, .pair, .regions, .out, .page .flu, .page .cxm,
        .page .stv]) s (State.errorConsequence s p i src node q) := by
  unfold State.errorConsequence
  split
  · refine Keeps.ite ?_ ?_
    · refine Keeps.step State.count_keeps (by rfl) ?_
      refine Keeps.step State.stvSet_keeps (by rfl) ?_
      exact Keeps.refl _
    · exact Keeps.refl _
  · refine Keeps.ite ?_ ?_
    · refine Keeps.step State.slotFails_keeps (by rfl) ?_
      exact Keeps.refl _
    · exact Keeps.refl _
  · refine Keeps.step State.hrtEvent_keeps (by rfl) ?_
    refine Keeps.step State.count_keeps (by rfl) ?_
    exact Keeps.refl _
  · extract_lets x1 x2
    refine Keeps.ite ?_ ?_
    · refine Keeps.ite ?_ ?_
      · refine Keeps.step State.poison_keeps (by rfl) ?_
        exact Keeps.refl _
      · exact Keeps.refl _
    · refine Keeps.ite ?_ ?_
      · refine Keeps.step State.poison_keeps (by rfl) ?_
        exact Keeps.refl _
      · exact Keeps.refl _
  · refine Keeps.ite ?_ ?_
    · refine Keeps.step State.resync_keeps (by rfl) ?_
      exact Keeps.refl _
    · exact Keeps.refl _
  · exact Keeps.refl _

theorem State.eccFound_keeps {s : State} {e : EccErr} {node : Fin 16 × Fin 8 × Nat} {q : LineIn} :
    Keeps (mask [.sched, .rep, .ports, .vault, .chims, .kindle, .pair, .regions, .out, .page .flt, .page .flu,
        .page .cxm, .page .stv]) s (State.eccFound s e node q) := by
  unfold State.eccFound
  extract_lets x1
  refine Keeps.ite ?_ ?_
  · refine Keeps.step State.errorConsequence_keeps (by rfl) ?_
    refine Keeps.step State.sramError_keeps (by rfl) ?_
    exact Keeps.refl _
  · refine Keeps.step State.sramCorrected_keeps (by rfl) ?_
    exact Keeps.refl _

theorem State.snapshot_keeps {s : State} {n : Nat} :
    Keeps (mask [.rep, .fresh]) s (State.snapshot s n) := by
  unfold State.snapshot
  refine Keeps.ite ?_ ?_
  · exact Keeps.refl _
  · extract_lets x1 x2
    have h1 : Keeps (mask [.rep, .fresh]) s x2 := by
      unfold x2
      refine Keeps.step State.modRep_keeps (by rfl) ?_
      exact Keeps.refl _
    clear_value x2
    refine Keeps.step State.archive_keeps (by rfl) ?_
    refine Keeps.step State.count_keeps (by rfl) ?_
    assumption

theorem State.injectedGone_keeps {e : Fin 64 × Fin 256 × Fin 1024} {s : State} :
    Keeps (mask [.rep]) s (State.injectedGone e s) := by
  unfold State.injectedGone
  extract_lets x1
  refine Keeps.step State.modRep_keeps (by rfl) ?_
  exact Keeps.refl _

theorem State.guardWritten_keeps {e : Fin 64 × Fin 256 × Fin 1024} {s : State} :
    Keeps (mask [.rep]) s (State.guardWritten e s) := by
  unfold State.guardWritten
  extract_lets x1
  refine Keeps.step State.modRep_keeps (by rfl) ?_
  exact Keeps.refl _

theorem State.evrReady_keeps {s : State} :
    Keeps (mask [.rep]) s (State.evrReady s) := by
  unfold State.evrReady
  extract_lets x1 x2 x3 x4
  have h1 : Keeps (mask [.rep]) s x3 := by
    unfold x3
    refine Keeps.step State.modRep_keeps (by rfl) ?_
    exact Keeps.refl _
  have h2 : Keeps (mask [.rep]) s x4 := by
    unfold x4
    refine Keeps.forL ?_ ?_
    · intro b1 u1
      extract_lets x5
      refine Keeps.step State.filterRecord_keeps (by rfl) ?_
      refine Keeps.step State.count_keeps (by rfl) ?_
      refine Keeps.step State.modRep_keeps (by rfl) ?_
      exact Keeps.refl _
    · assumption
  clear_value x4
  clear_value x3
  refine Keeps.step State.modRep_keeps (by rfl) ?_
  assumption

theorem State.fetchRecord_keeps {s : State} {seq : Nat} :
    Keeps (mask [.rep]) s (State.fetchRecord s seq) := by
  unfold State.fetchRecord
  extract_lets x1 x2
  refine Keeps.step State.modRep_keeps (by rfl) ?_
  exact Keeps.refl _

theorem State.landCntCfg_keeps {s : State} {p : Page} {i : Nat} {c : Nat} {w : Word} {cyc : Nat} :
    Keeps (mask [.sched]) s (State.landCntCfg s p i c w cyc) := by
  unfold State.landCntCfg
  extract_lets x1
  have h1 : Keeps (mask [.sched]) s x1 := by
    unfold x1
    refine Keeps.step State.putCopy_keeps (by rfl) ?_
    exact Keeps.refl _
  clear_value x1
  refine Keeps.ite ?_ ?_
  · refine Keeps.step State.schedule_keeps (by rfl) ?_
    assumption
  · assumption

theorem State.unfreeze_keeps {s : State} :
    Keeps (mask [.rep]) s (State.unfreeze s) := by
  unfold State.unfreeze
  extract_lets x1
  refine Keeps.forL ?_ ?_
  · intro b1 u1
    refine Keeps.step State.storeRecord_keeps (by rfl) ?_
    exact Keeps.refl _
  · refine Keeps.step State.modRep_keeps (by rfl) ?_
    exact Keeps.refl _

theorem State.landEvrCmd_keeps {s : State} {w : Word} :
    Keeps (mask [.rep, .page .dev]) s (State.landEvrCmd s w) := by
  unfold State.landEvrCmd
  refine State.gate_keeps ?_ ?_ ?_
  · exact rfl
  · intro u1
    extract_lets x1 x2
    have h1 : Keeps (mask [.rep, .page .dev]) u1 x1 := by
      unfold x1
      refine Keeps.ite ?_ ?_
      · refine Keeps.step State.modRep_keeps (by rfl) ?_
        exact Keeps.refl _
      · exact Keeps.refl _
    have h2 : Keeps (mask [.rep, .page .dev]) u1 x2 := by
      unfold x2
      refine Keeps.ite ?_ ?_
      · refine Keeps.step State.unfreeze_keeps (by rfl) ?_
        assumption
      · assumption
    clear_value x2
    clear_value x1
    refine Keeps.ite ?_ ?_
    · refine Keeps.step State.startFlush_keeps (by rfl) ?_
      assumption
    · assumption
  · exact Keeps.refl _

theorem State.landFinj_keeps {s : State} {p : Page} {i : Nat} {w : Word} :
    Keeps (mask [.rep]) s (State.landFinj s p i w) := by
  unfold State.landFinj
  extract_lets x1 x2
  refine Keeps.ite ?_ ?_
  · exact Keeps.refl _
  · refine Keeps.step State.modRep_keeps (by rfl) ?_
    exact Keeps.refl _

theorem State.landPmcCmd_keeps {s : State} {w : Word} {cyc : Nat} :
    Keeps (mask [.sched, .page .dev]) s (State.landPmcCmd s w cyc) := by
  unfold State.landPmcCmd
  refine State.gate_keeps ?_ ?_ ?_
  · exact rfl
  · intro u1
    extract_lets x1
    have h1 : Keeps (mask [.sched, .page .dev]) u1 x1 := by
      unfold x1
      refine Keeps.ite ?_ ?_
      · refine Keeps.step State.schedule_keeps (by rfl) ?_
        exact Keeps.refl _
      · exact Keeps.refl _
    clear_value x1
    refine Keeps.ite ?_ ?_
    · refine Keeps.step State.schedule_keeps (by rfl) ?_
      assumption
    · assumption
  · exact Keeps.refl _

theorem execStandbyScrub_keeps {errs : List EccErr} {s : State} :
    KeepsX (mask [.sched, .rep, .ports, .vault, .chims, .kindle, .msix, .pair, .regions, .out, .page .flt,
        .page .flu, .page .cxm, .page .stv]) s (execStandbyScrub errs s) := by
  unfold execStandbyScrub
  refine KeepsX.done (by rfl) ?_
  refine Keeps.ite ?_ ?_
  · refine Keeps.forL ?_ ?_
    · intro b1 u1
      refine Keeps.onlyIf ?_ ?_
      · intro u2
        refine Keeps.step State.count_keeps (by rfl) ?_
        exact Keeps.refl _
      · refine Keeps.step State.eccFound_keeps (by rfl) ?_
        exact Keeps.refl _
    · exact Keeps.refl _
  · exact Keeps.refl _

theorem execEccCorrected_keeps {p : Page} {i : Fin 256} {src : Fin 1024} {s : State} :
    KeepsX (mask [.sched, .rep, .ports, .vault, .chims, .kindle, .msix, .pair, .regions, .out, .page .flt,
        .page .flu, .page .cxm, .page .stv]) s (execEccCorrected p i src s) := by
  unfold execEccCorrected
  refine KeepsX.done (by rfl) ?_
  refine Keeps.step State.eccFound_keeps (by rfl) ?_
  exact Keeps.refl _

theorem execEccUncorrectable_keeps {p : Page} {i : Fin 256} {src : Fin 1024} {node : Fin 16 × Fin 8 × Nat} {inp :
    LineIn} {cyc : Cyc} {s : State} :
    KeepsX (mask [.cycle, .sched, .rep, .ports, .vault, .chims, .kindle, .msix, .pair, .regions, .out, .page .flt,
        .page .flu, .page .cxm, .page .stv]) s (execEccUncorrectable p i src node inp cyc s) := by
  unfold execEccUncorrectable
  refine KeepsX.done (by rfl) ?_
  refine Keeps.step State.eccFound_keeps (by rfl) ?_
  refine Keeps.step State.at_keeps (by rfl) ?_
  exact Keeps.refl _

theorem execFaultClear_keeps {p : Page} {i : Fin 256} {s : State} :
    KeepsX (mask [.rep, .msix, .out]) s (execFaultClear p i s) := by
  unfold execFaultClear
  refine KeepsX.done (by rfl) ?_
  refine Keeps.step State.clearFault_keeps (by rfl) ?_
  exact Keeps.refl _

theorem execFaultInject_keeps {p : Page} {i : Fin 256} {w : Word} {s : State} :
    KeepsX (mask [.rep, .msix, .out]) s (execFaultInject p i w s) := by
  unfold execFaultInject
  refine KeepsX.done (by rfl) ?_
  refine Keeps.step State.landFinj_keeps (by rfl) ?_
  exact Keeps.refl _

theorem execPmcSnapshot_keeps {cyc : Cyc} {s : State} :
    KeepsX (mask [.cycle, .sched, .rep, .msix, .out, .page .dev]) s (execPmcSnapshot cyc s) := by
  unfold execPmcSnapshot
  refine KeepsX.done (by rfl) ?_
  refine Keeps.step State.landPmcCmd_keeps (by rfl) ?_
  refine Keeps.step State.at_keeps (by rfl) ?_
  exact Keeps.refl _

theorem execClearAll_keeps {cyc : Cyc} {s : State} :
    KeepsX (mask [.cycle, .sched, .rep, .msix, .out, .page .dev]) s (execClearAll cyc s) := by
  unfold execClearAll
  refine KeepsX.done (by rfl) ?_
  refine Keeps.step State.landPmcCmd_keeps (by rfl) ?_
  refine Keeps.step State.at_keeps (by rfl) ?_
  exact Keeps.refl _

theorem execCounterClear_keeps {p : Page} {i : Fin 256} {c : Fin 8} {w : Word} {cyc : Cyc} {s : State} :
    KeepsX (mask [.cycle, .sched, .rep, .msix, .out]) s (execCounterClear p i c w cyc s) := by
  unfold execCounterClear
  refine KeepsX.done (by rfl) ?_
  refine Keeps.step State.landCntCfg_keeps (by rfl) ?_
  refine Keeps.step State.at_keeps (by rfl) ?_
  exact Keeps.refl _

theorem execCounterRead_keeps {p : Page} {i : Fin 256} {c : Fin 8} {s : State} :
    KeepsX (mask [.rep, .msix, .out]) s (execCounterRead p i c s) := by
  unfold execCounterRead
  extract_lets x1
  refine KeepsX.done (by rfl) ?_
  refine Keeps.step State.emit_keeps (by rfl) ?_
  refine Keeps.step State.setCtr_keeps (by rfl) ?_
  exact Keeps.refl _

theorem execArchiveRead_keeps {block : Fin 65536} {word : Fin 8192} {s : State} :
    KeepsX (mask [.rep, .msix, .out, .page .dev, .page .pmc]) s (execArchiveRead block word s) := by
  unfold execArchiveRead
  refine KeepsX.done (by rfl) ?_
  refine State.gate_keeps ?_ ?_ ?_
  · exact rfl
  · intro u1
    refine Keeps.step State.archRead_keeps (by rfl) ?_
    exact Keeps.refl _
  · exact Keeps.refl _

theorem execFltClear_keeps {s : State} :
    KeepsX (mask [.rep, .msix, .out, .page .dev]) s (execFltClear s) := by
  unfold execFltClear
  refine KeepsX.done (by rfl) ?_
  refine State.gate_keeps ?_ ?_ ?_
  · exact rfl
  · intro u1
    refine Keeps.step State.clearFlt_keeps (by rfl) ?_
    exact Keeps.refl _
  · exact Keeps.refl _

theorem execFreeze_keeps {s : State} :
    KeepsX (mask [.rep, .msix, .out, .page .dev]) s (execFreeze s) := by
  unfold execFreeze
  refine KeepsX.done (by rfl) ?_
  refine Keeps.step State.landEvrCmd_keeps (by rfl) ?_
  exact Keeps.refl _

theorem execUnfreeze_keeps {s : State} :
    KeepsX (mask [.rep, .msix, .out, .page .dev]) s (execUnfreeze s) := by
  unfold execUnfreeze
  refine KeepsX.done (by rfl) ?_
  refine Keeps.step State.landEvrCmd_keeps (by rfl) ?_
  exact Keeps.refl _

theorem execFreezeTimeout_keeps {s : State} :
    KeepsX (mask [.rep, .msix, .out]) s (execFreezeTimeout s) := by
  unfold execFreezeTimeout
  refine KeepsX.done (by rfl) ?_
  split
  · refine Keeps.ite ?_ ?_
    · refine Keeps.step State.event_keeps (by rfl) ?_
      refine Keeps.step State.unfreeze_keeps (by rfl) ?_
      exact Keeps.refl _
    · exact Keeps.refl _
  · exact Keeps.refl _

theorem execFlush_keeps {s : State} :
    KeepsX (mask [.rep, .msix, .out, .page .dev]) s (execFlush s) := by
  unfold execFlush
  refine KeepsX.done (by rfl) ?_
  refine Keeps.step State.landEvrCmd_keeps (by rfl) ?_
  exact Keeps.refl _

theorem execFlushDone_keeps {s : State} :
    KeepsX (mask [.rep, .msix, .out, .page .evr]) s (execFlushDone s) := by
  unfold execFlushDone
  refine KeepsX.done (by rfl) ?_
  refine Keeps.step State.endFlush_keeps (by rfl) ?_
  exact Keeps.refl _

theorem execRecordFetch_keeps {s : State} :
    KeepsX (mask [.rep, .msix, .out, .page .dev]) s (execRecordFetch s) := by
  unfold execRecordFetch
  refine KeepsX.done (by rfl) ?_
  refine State.gate_keeps ?_ ?_ ?_
  · exact rfl
  · intro u1
    refine Keeps.step State.fetchRecord_keeps (by rfl) ?_
    exact Keeps.refl _
  · exact Keeps.refl _

theorem execPeriodicSnapshot_keeps {s : State} :
    KeepsX (mask [.rep, .msix, .fresh, .out]) s (execPeriodicSnapshot s) := by
  unfold execPeriodicSnapshot
  refine KeepsX.done (by rfl) ?_
  refine Keeps.ite ?_ ?_
  · refine Keeps.step State.snapshot_keeps (by rfl) ?_
    exact Keeps.refl _
  · exact Keeps.refl _

end Sys2Proof.Machine
end

