-- ==== Sys2Proof/Laws/Fields.lean ====
section
/-! SUPPORT. One lemma per field per update: what each named update leaves as it was. -/

namespace Sys2Proof.Machine

open Sys2Proof

variable (s : State)

/-! ### setWord -/

@[simp] theorem State.setWord_pending (k : RegKey) (w : Word) : (s.setWord k w).pending = s.pending := rfl
@[simp] theorem State.setWord_tick (k : RegKey) (w : Word) : (s.setWord k w).tick = s.tick := rfl
@[simp] theorem State.setWord_cycle (k : RegKey) (w : Word) : (s.setWord k w).cycle = s.cycle := rfl
@[simp] theorem State.setWord_sched (k : RegKey) (w : Word) : (s.setWord k w).sched = s.sched := rfl
@[simp] theorem State.setWord_rep (k : RegKey) (w : Word) : (s.setWord k w).rep = s.rep := rfl
@[simp] theorem State.setWord_pwr (k : RegKey) (w : Word) : (s.setWord k w).pwr = s.pwr := rfl
@[simp] theorem State.setWord_lanes (k : RegKey) (w : Word) : (s.setWord k w).lanes = s.lanes := rfl
@[simp] theorem State.setWord_ports (k : RegKey) (w : Word) : (s.setWord k w).ports = s.ports := rfl
@[simp] theorem State.setWord_otn (k : RegKey) (w : Word) : (s.setWord k w).otn = s.otn := rfl
@[simp] theorem State.setWord_assocs (k : RegKey) (w : Word) : (s.setWord k w).assocs = s.assocs := rfl
@[simp] theorem State.setWord_fwd (k : RegKey) (w : Word) : (s.setWord k w).fwd = s.fwd := rfl
@[simp] theorem State.setWord_vault (k : RegKey) (w : Word) : (s.setWord k w).vault = s.vault := rfl
@[simp] theorem State.setWord_chims (k : RegKey) (w : Word) : (s.setWord k w).chims = s.chims := rfl
@[simp] theorem State.setWord_hearth (k : RegKey) (w : Word) : (s.setWord k w).hearth = s.hearth := rfl
@[simp] theorem State.setWord_kindle (k : RegKey) (w : Word) : (s.setWord k w).kindle = s.kindle := rfl
@[simp] theorem State.setWord_seals (k : RegKey) (w : Word) : (s.setWord k w).seals = s.seals := rfl
@[simp] theorem State.setWord_time (k : RegKey) (w : Word) : (s.setWord k w).time = s.time := rfl
@[simp] theorem State.setWord_slices (k : RegKey) (w : Word) : (s.setWord k w).slices = s.slices := rfl
@[simp] theorem State.setWord_msix (k : RegKey) (w : Word) : (s.setWord k w).msix = s.msix := rfl
@[simp] theorem State.setWord_pair (k : RegKey) (w : Word) : (s.setWord k w).pair = s.pair := rfl
@[simp] theorem State.setWord_tamper (k : RegKey) (w : Word) : (s.setWord k w).tamper = s.tamper := rfl
@[simp] theorem State.setWord_officer (k : RegKey) (w : Word) : (s.setWord k w).officer = s.officer := rfl
@[simp] theorem State.setWord_cages (k : RegKey) (w : Word) : (s.setWord k w).cages = s.cages := rfl
@[simp] theorem State.setWord_regions (k : RegKey) (w : Word) : (s.setWord k w).regions = s.regions := rfl
@[simp] theorem State.setWord_reinit (k : RegKey) (w : Word) : (s.setWord k w).reinit = s.reinit := rfl
@[simp] theorem State.setWord_asnBusy (k : RegKey) (w : Word) : (s.setWord k w).asnBusy = s.asnBusy := rfl
@[simp] theorem State.setWord_fresh (k : RegKey) (w : Word) : (s.setWord k w).fresh = s.fresh := rfl
@[simp] theorem State.setWord_out (k : RegKey) (w : Word) : (s.setWord k w).out = s.out := rfl
@[simp] theorem State.setWord_evtWord (k : RegKey) (w : Word) (key : RegKey) : (s.setWord k w).evtWord key = s.evtWord key := by
  simp only [State.evtWord, State.setWord_rep]
@[simp] theorem State.setWord_evt (k : RegKey) (w : Word) (fld : Fld) (inst : Nat) : (s.setWord k w).evt fld inst = s.evt fld inst := by
  simp only [State.evt, State.setWord_rep]
@[simp] theorem State.setWord_lane (k : RegKey) (w : Word) (at_ : Nat) : (s.setWord k w).lane at_ = s.lane at_ := by
  simp only [State.lane, State.setWord_lanes]
@[simp] theorem State.setWord_port (k : RegKey) (w : Word) (at_ : Nat) : (s.setWord k w).port at_ = s.port at_ := by
  simp only [State.port, State.setWord_ports]
@[simp] theorem State.setWord_otnp (k : RegKey) (w : Word) (at_ : Nat) : (s.setWord k w).otnp at_ = s.otnp at_ := by
  simp only [State.otnp, State.setWord_otn]
@[simp] theorem State.setWord_slot (k : RegKey) (w : Word) (at_ : Nat) : (s.setWord k w).slot at_ = s.slot at_ := by
  simp only [State.slot, State.setWord_vault]
@[simp] theorem State.setWord_asn (k : RegKey) (w : Word) (at_ : Nat) : (s.setWord k w).asn at_ = s.asn at_ := by
  simp only [State.asn, State.setWord_assocs]
@[simp] theorem State.setWord_link (k : RegKey) (w : Word) (at_ : Nat) : (s.setWord k w).link at_ = s.link at_ := by
  simp only [State.link, State.setWord_kindle]
@[simp] theorem State.setWord_chim (k : RegKey) (w : Word) (at_ : Nat) : (s.setWord k w).chim at_ = s.chim at_ := by
  simp only [State.chim, State.setWord_chims]
@[simp] theorem State.setWord_sealRt (k : RegKey) (w : Word) (at_ : Nat) : (s.setWord k w).sealRt at_ = s.sealRt at_ := by
  simp only [State.sealRt, State.setWord_seals]
@[simp] theorem State.setWord_sliceRt (k : RegKey) (w : Word) (at_ : Nat) : (s.setWord k w).sliceRt at_ = s.sliceRt at_ := by
  simp only [State.sliceRt, State.setWord_slices]
@[simp] theorem State.setWord_region (k : RegKey) (w : Word) (at_ : Nat) : (s.setWord k w).region at_ = s.region at_ := by
  simp only [State.region, State.setWord_regions]
@[simp] theorem State.setWord_cage (k : RegKey) (w : Word) (at_ : Nat) : (s.setWord k w).cage at_ = s.cage at_ := by
  simp only [State.cage, State.setWord_cages]

/-! ### wr -/

@[simp] theorem State.wr_pending (f : Fld) (v i o : Nat) : (s.wr f v i o).pending = s.pending := rfl
@[simp] theorem State.wr_tick (f : Fld) (v i o : Nat) : (s.wr f v i o).tick = s.tick := rfl
@[simp] theorem State.wr_cycle (f : Fld) (v i o : Nat) : (s.wr f v i o).cycle = s.cycle := rfl
@[simp] theorem State.wr_sched (f : Fld) (v i o : Nat) : (s.wr f v i o).sched = s.sched := rfl
@[simp] theorem State.wr_rep (f : Fld) (v i o : Nat) : (s.wr f v i o).rep = s.rep := rfl
@[simp] theorem State.wr_pwr (f : Fld) (v i o : Nat) : (s.wr f v i o).pwr = s.pwr := rfl
@[simp] theorem State.wr_lanes (f : Fld) (v i o : Nat) : (s.wr f v i o).lanes = s.lanes := rfl
@[simp] theorem State.wr_ports (f : Fld) (v i o : Nat) : (s.wr f v i o).ports = s.ports := rfl
@[simp] theorem State.wr_otn (f : Fld) (v i o : Nat) : (s.wr f v i o).otn = s.otn := rfl
@[simp] theorem State.wr_assocs (f : Fld) (v i o : Nat) : (s.wr f v i o).assocs = s.assocs := rfl
@[simp] theorem State.wr_fwd (f : Fld) (v i o : Nat) : (s.wr f v i o).fwd = s.fwd := rfl
@[simp] theorem State.wr_vault (f : Fld) (v i o : Nat) : (s.wr f v i o).vault = s.vault := rfl
@[simp] theorem State.wr_chims (f : Fld) (v i o : Nat) : (s.wr f v i o).chims = s.chims := rfl
@[simp] theorem State.wr_hearth (f : Fld) (v i o : Nat) : (s.wr f v i o).hearth = s.hearth := rfl
@[simp] theorem State.wr_kindle (f : Fld) (v i o : Nat) : (s.wr f v i o).kindle = s.kindle := rfl
@[simp] theorem State.wr_seals (f : Fld) (v i o : Nat) : (s.wr f v i o).seals = s.seals := rfl
@[simp] theorem State.wr_time (f : Fld) (v i o : Nat) : (s.wr f v i o).time = s.time := rfl
@[simp] theorem State.wr_slices (f : Fld) (v i o : Nat) : (s.wr f v i o).slices = s.slices := rfl
@[simp] theorem State.wr_msix (f : Fld) (v i o : Nat) : (s.wr f v i o).msix = s.msix := rfl
@[simp] theorem State.wr_pair (f : Fld) (v i o : Nat) : (s.wr f v i o).pair = s.pair := rfl
@[simp] theorem State.wr_tamper (f : Fld) (v i o : Nat) : (s.wr f v i o).tamper = s.tamper := rfl
@[simp] theorem State.wr_officer (f : Fld) (v i o : Nat) : (s.wr f v i o).officer = s.officer := rfl
@[simp] theorem State.wr_cages (f : Fld) (v i o : Nat) : (s.wr f v i o).cages = s.cages := rfl
@[simp] theorem State.wr_regions (f : Fld) (v i o : Nat) : (s.wr f v i o).regions = s.regions := rfl
@[simp] theorem State.wr_reinit (f : Fld) (v i o : Nat) : (s.wr f v i o).reinit = s.reinit := rfl
@[simp] theorem State.wr_asnBusy (f : Fld) (v i o : Nat) : (s.wr f v i o).asnBusy = s.asnBusy := rfl
@[simp] theorem State.wr_fresh (f : Fld) (v i o : Nat) : (s.wr f v i o).fresh = s.fresh := rfl
@[simp] theorem State.wr_out (f : Fld) (v i o : Nat) : (s.wr f v i o).out = s.out := rfl
@[simp] theorem State.wr_evtWord (f : Fld) (v i o : Nat) (key : RegKey) : (s.wr f v i o).evtWord key = s.evtWord key := by
  simp only [State.evtWord, State.wr_rep]
@[simp] theorem State.wr_evt (f : Fld) (v i o : Nat) (fld : Fld) (inst : Nat) : (s.wr f v i o).evt fld inst = s.evt fld inst := by
  simp only [State.evt, State.wr_rep]
@[simp] theorem State.wr_lane (f : Fld) (v i o : Nat) (at_ : Nat) : (s.wr f v i o).lane at_ = s.lane at_ := by
  simp only [State.lane, State.wr_lanes]
@[simp] theorem State.wr_port (f : Fld) (v i o : Nat) (at_ : Nat) : (s.wr f v i o).port at_ = s.port at_ := by
  simp only [State.port, State.wr_ports]
@[simp] theorem State.wr_otnp (f : Fld) (v i o : Nat) (at_ : Nat) : (s.wr f v i o).otnp at_ = s.otnp at_ := by
  simp only [State.otnp, State.wr_otn]
@[simp] theorem State.wr_slot (f : Fld) (v i o : Nat) (at_ : Nat) : (s.wr f v i o).slot at_ = s.slot at_ := by
  simp only [State.slot, State.wr_vault]
@[simp] theorem State.wr_asn (f : Fld) (v i o : Nat) (at_ : Nat) : (s.wr f v i o).asn at_ = s.asn at_ := by
  simp only [State.asn, State.wr_assocs]
@[simp] theorem State.wr_link (f : Fld) (v i o : Nat) (at_ : Nat) : (s.wr f v i o).link at_ = s.link at_ := by
  simp only [State.link, State.wr_kindle]
@[simp] theorem State.wr_chim (f : Fld) (v i o : Nat) (at_ : Nat) : (s.wr f v i o).chim at_ = s.chim at_ := by
  simp only [State.chim, State.wr_chims]
@[simp] theorem State.wr_sealRt (f : Fld) (v i o : Nat) (at_ : Nat) : (s.wr f v i o).sealRt at_ = s.sealRt at_ := by
  simp only [State.sealRt, State.wr_seals]
@[simp] theorem State.wr_sliceRt (f : Fld) (v i o : Nat) (at_ : Nat) : (s.wr f v i o).sliceRt at_ = s.sliceRt at_ := by
  simp only [State.sliceRt, State.wr_slices]
@[simp] theorem State.wr_region (f : Fld) (v i o : Nat) (at_ : Nat) : (s.wr f v i o).region at_ = s.region at_ := by
  simp only [State.region, State.wr_regions]
@[simp] theorem State.wr_cage (f : Fld) (v i o : Nat) (at_ : Nat) : (s.wr f v i o).cage at_ = s.cage at_ := by
  simp only [State.cage, State.wr_cages]

/-! ### bumpReg -/

@[simp] theorem State.bumpReg_pending (f : Fld) (n i o : Nat) : (s.bumpReg f n i o).pending = s.pending := rfl
@[simp] theorem State.bumpReg_tick (f : Fld) (n i o : Nat) : (s.bumpReg f n i o).tick = s.tick := rfl
@[simp] theorem State.bumpReg_cycle (f : Fld) (n i o : Nat) : (s.bumpReg f n i o).cycle = s.cycle := rfl
@[simp] theorem State.bumpReg_sched (f : Fld) (n i o : Nat) : (s.bumpReg f n i o).sched = s.sched := rfl
@[simp] theorem State.bumpReg_rep (f : Fld) (n i o : Nat) : (s.bumpReg f n i o).rep = s.rep := rfl
@[simp] theorem State.bumpReg_pwr (f : Fld) (n i o : Nat) : (s.bumpReg f n i o).pwr = s.pwr := rfl
@[simp] theorem State.bumpReg_lanes (f : Fld) (n i o : Nat) : (s.bumpReg f n i o).lanes = s.lanes := rfl
@[simp] theorem State.bumpReg_ports (f : Fld) (n i o : Nat) : (s.bumpReg f n i o).ports = s.ports := rfl
@[simp] theorem State.bumpReg_otn (f : Fld) (n i o : Nat) : (s.bumpReg f n i o).otn = s.otn := rfl
@[simp] theorem State.bumpReg_assocs (f : Fld) (n i o : Nat) : (s.bumpReg f n i o).assocs = s.assocs := rfl
@[simp] theorem State.bumpReg_fwd (f : Fld) (n i o : Nat) : (s.bumpReg f n i o).fwd = s.fwd := rfl
@[simp] theorem State.bumpReg_vault (f : Fld) (n i o : Nat) : (s.bumpReg f n i o).vault = s.vault := rfl
@[simp] theorem State.bumpReg_chims (f : Fld) (n i o : Nat) : (s.bumpReg f n i o).chims = s.chims := rfl
@[simp] theorem State.bumpReg_hearth (f : Fld) (n i o : Nat) : (s.bumpReg f n i o).hearth = s.hearth := rfl
@[simp] theorem State.bumpReg_kindle (f : Fld) (n i o : Nat) : (s.bumpReg f n i o).kindle = s.kindle := rfl
@[simp] theorem State.bumpReg_seals (f : Fld) (n i o : Nat) : (s.bumpReg f n i o).seals = s.seals := rfl
@[simp] theorem State.bumpReg_time (f : Fld) (n i o : Nat) : (s.bumpReg f n i o).time = s.time := rfl
@[simp] theorem State.bumpReg_slices (f : Fld) (n i o : Nat) : (s.bumpReg f n i o).slices = s.slices := rfl
@[simp] theorem State.bumpReg_msix (f : Fld) (n i o : Nat) : (s.bumpReg f n i o).msix = s.msix := rfl
@[simp] theorem State.bumpReg_pair (f : Fld) (n i o : Nat) : (s.bumpReg f n i o).pair = s.pair := rfl
@[simp] theorem State.bumpReg_tamper (f : Fld) (n i o : Nat) : (s.bumpReg f n i o).tamper = s.tamper := rfl
@[simp] theorem State.bumpReg_officer (f : Fld) (n i o : Nat) : (s.bumpReg f n i o).officer = s.officer := rfl
@[simp] theorem State.bumpReg_cages (f : Fld) (n i o : Nat) : (s.bumpReg f n i o).cages = s.cages := rfl
@[simp] theorem State.bumpReg_regions (f : Fld) (n i o : Nat) : (s.bumpReg f n i o).regions = s.regions := rfl
@[simp] theorem State.bumpReg_reinit (f : Fld) (n i o : Nat) : (s.bumpReg f n i o).reinit = s.reinit := rfl
@[simp] theorem State.bumpReg_asnBusy (f : Fld) (n i o : Nat) : (s.bumpReg f n i o).asnBusy = s.asnBusy := rfl
@[simp] theorem State.bumpReg_fresh (f : Fld) (n i o : Nat) : (s.bumpReg f n i o).fresh = s.fresh := rfl
@[simp] theorem State.bumpReg_out (f : Fld) (n i o : Nat) : (s.bumpReg f n i o).out = s.out := rfl
@[simp] theorem State.bumpReg_evtWord (f : Fld) (n i o : Nat) (key : RegKey) : (s.bumpReg f n i o).evtWord key = s.evtWord key := by
  simp only [State.evtWord, State.bumpReg_rep]
@[simp] theorem State.bumpReg_evt (f : Fld) (n i o : Nat) (fld : Fld) (inst : Nat) : (s.bumpReg f n i o).evt fld inst = s.evt fld inst := by
  simp only [State.evt, State.bumpReg_rep]
@[simp] theorem State.bumpReg_lane (f : Fld) (n i o : Nat) (at_ : Nat) : (s.bumpReg f n i o).lane at_ = s.lane at_ := by
  simp only [State.lane, State.bumpReg_lanes]
@[simp] theorem State.bumpReg_port (f : Fld) (n i o : Nat) (at_ : Nat) : (s.bumpReg f n i o).port at_ = s.port at_ := by
  simp only [State.port, State.bumpReg_ports]
@[simp] theorem State.bumpReg_otnp (f : Fld) (n i o : Nat) (at_ : Nat) : (s.bumpReg f n i o).otnp at_ = s.otnp at_ := by
  simp only [State.otnp, State.bumpReg_otn]
@[simp] theorem State.bumpReg_slot (f : Fld) (n i o : Nat) (at_ : Nat) : (s.bumpReg f n i o).slot at_ = s.slot at_ := by
  simp only [State.slot, State.bumpReg_vault]
@[simp] theorem State.bumpReg_asn (f : Fld) (n i o : Nat) (at_ : Nat) : (s.bumpReg f n i o).asn at_ = s.asn at_ := by
  simp only [State.asn, State.bumpReg_assocs]
@[simp] theorem State.bumpReg_link (f : Fld) (n i o : Nat) (at_ : Nat) : (s.bumpReg f n i o).link at_ = s.link at_ := by
  simp only [State.link, State.bumpReg_kindle]
@[simp] theorem State.bumpReg_chim (f : Fld) (n i o : Nat) (at_ : Nat) : (s.bumpReg f n i o).chim at_ = s.chim at_ := by
  simp only [State.chim, State.bumpReg_chims]
@[simp] theorem State.bumpReg_sealRt (f : Fld) (n i o : Nat) (at_ : Nat) : (s.bumpReg f n i o).sealRt at_ = s.sealRt at_ := by
  simp only [State.sealRt, State.bumpReg_seals]
@[simp] theorem State.bumpReg_sliceRt (f : Fld) (n i o : Nat) (at_ : Nat) : (s.bumpReg f n i o).sliceRt at_ = s.sliceRt at_ := by
  simp only [State.sliceRt, State.bumpReg_slices]
@[simp] theorem State.bumpReg_region (f : Fld) (n i o : Nat) (at_ : Nat) : (s.bumpReg f n i o).region at_ = s.region at_ := by
  simp only [State.region, State.bumpReg_regions]
@[simp] theorem State.bumpReg_cage (f : Fld) (n i o : Nat) (at_ : Nat) : (s.bumpReg f n i o).cage at_ = s.cage at_ := by
  simp only [State.cage, State.bumpReg_cages]

/-! ### at -/

@[simp] theorem State.at_pending (cyc : Cyc) : (s.at cyc).pending = s.pending := rfl
@[simp] theorem State.at_tick (cyc : Cyc) : (s.at cyc).tick = s.tick := rfl
@[simp] theorem State.at_regs (cyc : Cyc) : (s.at cyc).regs = s.regs := rfl
@[simp] theorem State.at_sched (cyc : Cyc) : (s.at cyc).sched = s.sched := rfl
@[simp] theorem State.at_rep (cyc : Cyc) : (s.at cyc).rep = s.rep := rfl
@[simp] theorem State.at_pwr (cyc : Cyc) : (s.at cyc).pwr = s.pwr := rfl
@[simp] theorem State.at_lanes (cyc : Cyc) : (s.at cyc).lanes = s.lanes := rfl
@[simp] theorem State.at_ports (cyc : Cyc) : (s.at cyc).ports = s.ports := rfl
@[simp] theorem State.at_otn (cyc : Cyc) : (s.at cyc).otn = s.otn := rfl
@[simp] theorem State.at_assocs (cyc : Cyc) : (s.at cyc).assocs = s.assocs := rfl
@[simp] theorem State.at_fwd (cyc : Cyc) : (s.at cyc).fwd = s.fwd := rfl
@[simp] theorem State.at_vault (cyc : Cyc) : (s.at cyc).vault = s.vault := rfl
@[simp] theorem State.at_chims (cyc : Cyc) : (s.at cyc).chims = s.chims := rfl
@[simp] theorem State.at_hearth (cyc : Cyc) : (s.at cyc).hearth = s.hearth := rfl
@[simp] theorem State.at_kindle (cyc : Cyc) : (s.at cyc).kindle = s.kindle := rfl
@[simp] theorem State.at_seals (cyc : Cyc) : (s.at cyc).seals = s.seals := rfl
@[simp] theorem State.at_time (cyc : Cyc) : (s.at cyc).time = s.time := rfl
@[simp] theorem State.at_slices (cyc : Cyc) : (s.at cyc).slices = s.slices := rfl
@[simp] theorem State.at_msix (cyc : Cyc) : (s.at cyc).msix = s.msix := rfl
@[simp] theorem State.at_pair (cyc : Cyc) : (s.at cyc).pair = s.pair := rfl
@[simp] theorem State.at_tamper (cyc : Cyc) : (s.at cyc).tamper = s.tamper := rfl
@[simp] theorem State.at_officer (cyc : Cyc) : (s.at cyc).officer = s.officer := rfl
@[simp] theorem State.at_cages (cyc : Cyc) : (s.at cyc).cages = s.cages := rfl
@[simp] theorem State.at_regions (cyc : Cyc) : (s.at cyc).regions = s.regions := rfl
@[simp] theorem State.at_reinit (cyc : Cyc) : (s.at cyc).reinit = s.reinit := rfl
@[simp] theorem State.at_asnBusy (cyc : Cyc) : (s.at cyc).asnBusy = s.asnBusy := rfl
@[simp] theorem State.at_fresh (cyc : Cyc) : (s.at cyc).fresh = s.fresh := rfl
@[simp] theorem State.at_out (cyc : Cyc) : (s.at cyc).out = s.out := rfl
@[simp] theorem State.at_word (cyc : Cyc) (key : RegKey) : (s.at cyc).word key = s.word key :=
  congrArg (fun m => mget (resetWord key) m key) (State.at_regs s cyc)
@[simp] theorem State.at_rd (cyc : Cyc) (fld : Fld) (inst obj : Nat) : (s.at cyc).rd fld inst obj = s.rd fld inst obj := by
  simp [State.rd]
@[simp] theorem State.at_on (cyc : Cyc) (fld : Fld) (inst obj : Nat) : (s.at cyc).on fld inst obj = s.on fld inst obj := by
  simp [State.on]
@[simp] theorem State.at_ready (cyc : Cyc) (pg : Page) (inst : Nat) : (s.at cyc).ready pg inst = s.ready pg inst := by
  simp [State.ready]
@[simp] theorem State.at_mode (cyc : Cyc) : (s.at cyc).mode = s.mode := by
  simp [State.mode]
@[simp] theorem State.at_evtWord (cyc : Cyc) (key : RegKey) : (s.at cyc).evtWord key = s.evtWord key := by
  simp only [State.evtWord, State.at_rep]
@[simp] theorem State.at_evt (cyc : Cyc) (fld : Fld) (inst : Nat) : (s.at cyc).evt fld inst = s.evt fld inst := by
  simp only [State.evt, State.at_rep]
@[simp] theorem State.at_lane (cyc : Cyc) (at_ : Nat) : (s.at cyc).lane at_ = s.lane at_ := by
  simp only [State.lane, State.at_lanes]
@[simp] theorem State.at_port (cyc : Cyc) (at_ : Nat) : (s.at cyc).port at_ = s.port at_ := by
  simp only [State.port, State.at_ports]
@[simp] theorem State.at_otnp (cyc : Cyc) (at_ : Nat) : (s.at cyc).otnp at_ = s.otnp at_ := by
  simp only [State.otnp, State.at_otn]
@[simp] theorem State.at_slot (cyc : Cyc) (at_ : Nat) : (s.at cyc).slot at_ = s.slot at_ := by
  simp only [State.slot, State.at_vault]
@[simp] theorem State.at_asn (cyc : Cyc) (at_ : Nat) : (s.at cyc).asn at_ = s.asn at_ := by
  simp only [State.asn, State.at_assocs]
@[simp] theorem State.at_link (cyc : Cyc) (at_ : Nat) : (s.at cyc).link at_ = s.link at_ := by
  simp only [State.link, State.at_kindle]
@[simp] theorem State.at_chim (cyc : Cyc) (at_ : Nat) : (s.at cyc).chim at_ = s.chim at_ := by
  simp only [State.chim, State.at_chims]
@[simp] theorem State.at_sealRt (cyc : Cyc) (at_ : Nat) : (s.at cyc).sealRt at_ = s.sealRt at_ := by
  simp only [State.sealRt, State.at_seals]
@[simp] theorem State.at_sliceRt (cyc : Cyc) (at_ : Nat) : (s.at cyc).sliceRt at_ = s.sliceRt at_ := by
  simp only [State.sliceRt, State.at_slices]
@[simp] theorem State.at_region (cyc : Cyc) (at_ : Nat) : (s.at cyc).region at_ = s.region at_ := by
  simp only [State.region, State.at_regions]
@[simp] theorem State.at_cage (cyc : Cyc) (at_ : Nat) : (s.at cyc).cage at_ = s.cage at_ := by
  simp only [State.cage, State.at_cages]

/-! ### schedule -/

@[simp] theorem State.schedule_pending (due : Nat) (act : Act) : (s.schedule due act).pending = s.pending := rfl
@[simp] theorem State.schedule_tick (due : Nat) (act : Act) : (s.schedule due act).tick = s.tick := rfl
@[simp] theorem State.schedule_cycle (due : Nat) (act : Act) : (s.schedule due act).cycle = s.cycle := rfl
@[simp] theorem State.schedule_regs (due : Nat) (act : Act) : (s.schedule due act).regs = s.regs := rfl
@[simp] theorem State.schedule_rep (due : Nat) (act : Act) : (s.schedule due act).rep = s.rep := rfl
@[simp] theorem State.schedule_pwr (due : Nat) (act : Act) : (s.schedule due act).pwr = s.pwr := rfl
@[simp] theorem State.schedule_lanes (due : Nat) (act : Act) : (s.schedule due act).lanes = s.lanes := rfl
@[simp] theorem State.schedule_ports (due : Nat) (act : Act) : (s.schedule due act).ports = s.ports := rfl
@[simp] theorem State.schedule_otn (due : Nat) (act : Act) : (s.schedule due act).otn = s.otn := rfl
@[simp] theorem State.schedule_assocs (due : Nat) (act : Act) : (s.schedule due act).assocs = s.assocs := rfl
@[simp] theorem State.schedule_fwd (due : Nat) (act : Act) : (s.schedule due act).fwd = s.fwd := rfl
@[simp] theorem State.schedule_vault (due : Nat) (act : Act) : (s.schedule due act).vault = s.vault := rfl
@[simp] theorem State.schedule_chims (due : Nat) (act : Act) : (s.schedule due act).chims = s.chims := rfl
@[simp] theorem State.schedule_hearth (due : Nat) (act : Act) : (s.schedule due act).hearth = s.hearth := rfl
@[simp] theorem State.schedule_kindle (due : Nat) (act : Act) : (s.schedule due act).kindle = s.kindle := rfl
@[simp] theorem State.schedule_seals (due : Nat) (act : Act) : (s.schedule due act).seals = s.seals := rfl
@[simp] theorem State.schedule_time (due : Nat) (act : Act) : (s.schedule due act).time = s.time := rfl
@[simp] theorem State.schedule_slices (due : Nat) (act : Act) : (s.schedule due act).slices = s.slices := rfl
@[simp] theorem State.schedule_msix (due : Nat) (act : Act) : (s.schedule due act).msix = s.msix := rfl
@[simp] theorem State.schedule_pair (due : Nat) (act : Act) : (s.schedule due act).pair = s.pair := rfl
@[simp] theorem State.schedule_tamper (due : Nat) (act : Act) : (s.schedule due act).tamper = s.tamper := rfl
@[simp] theorem State.schedule_officer (due : Nat) (act : Act) : (s.schedule due act).officer = s.officer := rfl
@[simp] theorem State.schedule_cages (due : Nat) (act : Act) : (s.schedule due act).cages = s.cages := rfl
@[simp] theorem State.schedule_regions (due : Nat) (act : Act) : (s.schedule due act).regions = s.regions := rfl
@[simp] theorem State.schedule_reinit (due : Nat) (act : Act) : (s.schedule due act).reinit = s.reinit := rfl
@[simp] theorem State.schedule_asnBusy (due : Nat) (act : Act) : (s.schedule due act).asnBusy = s.asnBusy := rfl
@[simp] theorem State.schedule_fresh (due : Nat) (act : Act) : (s.schedule due act).fresh = s.fresh := rfl
@[simp] theorem State.schedule_out (due : Nat) (act : Act) : (s.schedule due act).out = s.out := rfl
@[simp] theorem State.schedule_word (due : Nat) (act : Act) (key : RegKey) : (s.schedule due act).word key = s.word key :=
  congrArg (fun m => mget (resetWord key) m key) (State.schedule_regs s due act)
@[simp] theorem State.schedule_rd (due : Nat) (act : Act) (fld : Fld) (inst obj : Nat) : (s.schedule due act).rd fld inst obj = s.rd fld inst obj := by
  simp [State.rd]
@[simp] theorem State.schedule_on (due : Nat) (act : Act) (fld : Fld) (inst obj : Nat) : (s.schedule due act).on fld inst obj = s.on fld inst obj := by
  simp [State.on]
@[simp] theorem State.schedule_ready (due : Nat) (act : Act) (pg : Page) (inst : Nat) : (s.schedule due act).ready pg inst = s.ready pg inst := by
  simp [State.ready]
@[simp] theorem State.schedule_mode (due : Nat) (act : Act) : (s.schedule due act).mode = s.mode := by
  simp [State.mode]
@[simp] theorem State.schedule_evtWord (due : Nat) (act : Act) (key : RegKey) : (s.schedule due act).evtWord key = s.evtWord key := by
  simp only [State.evtWord, State.schedule_rep]
@[simp] theorem State.schedule_evt (due : Nat) (act : Act) (fld : Fld) (inst : Nat) : (s.schedule due act).evt fld inst = s.evt fld inst := by
  simp only [State.evt, State.schedule_rep]
@[simp] theorem State.schedule_lane (due : Nat) (act : Act) (at_ : Nat) : (s.schedule due act).lane at_ = s.lane at_ := by
  simp only [State.lane, State.schedule_lanes]
@[simp] theorem State.schedule_port (due : Nat) (act : Act) (at_ : Nat) : (s.schedule due act).port at_ = s.port at_ := by
  simp only [State.port, State.schedule_ports]
@[simp] theorem State.schedule_otnp (due : Nat) (act : Act) (at_ : Nat) : (s.schedule due act).otnp at_ = s.otnp at_ := by
  simp only [State.otnp, State.schedule_otn]
@[simp] theorem State.schedule_slot (due : Nat) (act : Act) (at_ : Nat) : (s.schedule due act).slot at_ = s.slot at_ := by
  simp only [State.slot, State.schedule_vault]
@[simp] theorem State.schedule_asn (due : Nat) (act : Act) (at_ : Nat) : (s.schedule due act).asn at_ = s.asn at_ := by
  simp only [State.asn, State.schedule_assocs]
@[simp] theorem State.schedule_link (due : Nat) (act : Act) (at_ : Nat) : (s.schedule due act).link at_ = s.link at_ := by
  simp only [State.link, State.schedule_kindle]
@[simp] theorem State.schedule_chim (due : Nat) (act : Act) (at_ : Nat) : (s.schedule due act).chim at_ = s.chim at_ := by
  simp only [State.chim, State.schedule_chims]
@[simp] theorem State.schedule_sealRt (due : Nat) (act : Act) (at_ : Nat) : (s.schedule due act).sealRt at_ = s.sealRt at_ := by
  simp only [State.sealRt, State.schedule_seals]
@[simp] theorem State.schedule_sliceRt (due : Nat) (act : Act) (at_ : Nat) : (s.schedule due act).sliceRt at_ = s.sliceRt at_ := by
  simp only [State.sliceRt, State.schedule_slices]
@[simp] theorem State.schedule_region (due : Nat) (act : Act) (at_ : Nat) : (s.schedule due act).region at_ = s.region at_ := by
  simp only [State.region, State.schedule_regions]
@[simp] theorem State.schedule_cage (due : Nat) (act : Act) (at_ : Nat) : (s.schedule due act).cage at_ = s.cage at_ := by
  simp only [State.cage, State.schedule_cages]

/-! ### putCopy -/

@[simp] theorem State.putCopy_pending (k : RegKey) (w : Word) (cyc : Nat) : (s.putCopy k w cyc).pending = s.pending := rfl
@[simp] theorem State.putCopy_tick (k : RegKey) (w : Word) (cyc : Nat) : (s.putCopy k w cyc).tick = s.tick := rfl
@[simp] theorem State.putCopy_cycle (k : RegKey) (w : Word) (cyc : Nat) : (s.putCopy k w cyc).cycle = s.cycle := rfl
@[simp] theorem State.putCopy_regs (k : RegKey) (w : Word) (cyc : Nat) : (s.putCopy k w cyc).regs = s.regs := rfl
@[simp] theorem State.putCopy_rep (k : RegKey) (w : Word) (cyc : Nat) : (s.putCopy k w cyc).rep = s.rep := rfl
@[simp] theorem State.putCopy_pwr (k : RegKey) (w : Word) (cyc : Nat) : (s.putCopy k w cyc).pwr = s.pwr := rfl
@[simp] theorem State.putCopy_lanes (k : RegKey) (w : Word) (cyc : Nat) : (s.putCopy k w cyc).lanes = s.lanes := rfl
@[simp] theorem State.putCopy_ports (k : RegKey) (w : Word) (cyc : Nat) : (s.putCopy k w cyc).ports = s.ports := rfl
@[simp] theorem State.putCopy_otn (k : RegKey) (w : Word) (cyc : Nat) : (s.putCopy k w cyc).otn = s.otn := rfl
@[simp] theorem State.putCopy_assocs (k : RegKey) (w : Word) (cyc : Nat) : (s.putCopy k w cyc).assocs = s.assocs := rfl
@[simp] theorem State.putCopy_fwd (k : RegKey) (w : Word) (cyc : Nat) : (s.putCopy k w cyc).fwd = s.fwd := rfl
@[simp] theorem State.putCopy_vault (k : RegKey) (w : Word) (cyc : Nat) : (s.putCopy k w cyc).vault = s.vault := rfl
@[simp] theorem State.putCopy_chims (k : RegKey) (w : Word) (cyc : Nat) : (s.putCopy k w cyc).chims = s.chims := rfl
@[simp] theorem State.putCopy_hearth (k : RegKey) (w : Word) (cyc : Nat) : (s.putCopy k w cyc).hearth = s.hearth := rfl
@[simp] theorem State.putCopy_kindle (k : RegKey) (w : Word) (cyc : Nat) : (s.putCopy k w cyc).kindle = s.kindle := rfl
@[simp] theorem State.putCopy_seals (k : RegKey) (w : Word) (cyc : Nat) : (s.putCopy k w cyc).seals = s.seals := rfl
@[simp] theorem State.putCopy_time (k : RegKey) (w : Word) (cyc : Nat) : (s.putCopy k w cyc).time = s.time := rfl
@[simp] theorem State.putCopy_slices (k : RegKey) (w : Word) (cyc : Nat) : (s.putCopy k w cyc).slices = s.slices := rfl
@[simp] theorem State.putCopy_msix (k : RegKey) (w : Word) (cyc : Nat) : (s.putCopy k w cyc).msix = s.msix := rfl
@[simp] theorem State.putCopy_pair (k : RegKey) (w : Word) (cyc : Nat) : (s.putCopy k w cyc).pair = s.pair := rfl
@[simp] theorem State.putCopy_tamper (k : RegKey) (w : Word) (cyc : Nat) : (s.putCopy k w cyc).tamper = s.tamper := rfl
@[simp] theorem State.putCopy_officer (k : RegKey) (w : Word) (cyc : Nat) : (s.putCopy k w cyc).officer = s.officer := rfl
@[simp] theorem State.putCopy_cages (k : RegKey) (w : Word) (cyc : Nat) : (s.putCopy k w cyc).cages = s.cages := rfl
@[simp] theorem State.putCopy_regions (k : RegKey) (w : Word) (cyc : Nat) : (s.putCopy k w cyc).regions = s.regions := rfl
@[simp] theorem State.putCopy_reinit (k : RegKey) (w : Word) (cyc : Nat) : (s.putCopy k w cyc).reinit = s.reinit := rfl
@[simp] theorem State.putCopy_asnBusy (k : RegKey) (w : Word) (cyc : Nat) : (s.putCopy k w cyc).asnBusy = s.asnBusy := rfl
@[simp] theorem State.putCopy_fresh (k : RegKey) (w : Word) (cyc : Nat) : (s.putCopy k w cyc).fresh = s.fresh := rfl
@[simp] theorem State.putCopy_out (k : RegKey) (w : Word) (cyc : Nat) : (s.putCopy k w cyc).out = s.out := rfl
@[simp] theorem State.putCopy_word (k : RegKey) (w : Word) (cyc : Nat) (key : RegKey) : (s.putCopy k w cyc).word key = s.word key :=
  congrArg (fun m => mget (resetWord key) m key) (State.putCopy_regs s k w cyc)
@[simp] theorem State.putCopy_rd (k : RegKey) (w : Word) (cyc : Nat) (fld : Fld) (inst obj : Nat) : (s.putCopy k w cyc).rd fld inst obj = s.rd fld inst obj := by
  simp [State.rd]
@[simp] theorem State.putCopy_on (k : RegKey) (w : Word) (cyc : Nat) (fld : Fld) (inst obj : Nat) : (s.putCopy k w cyc).on fld inst obj = s.on fld inst obj := by
  simp [State.on]
@[simp] theorem State.putCopy_ready (k : RegKey) (w : Word) (cyc : Nat) (pg : Page) (inst : Nat) : (s.putCopy k w cyc).ready pg inst = s.ready pg inst := by
  simp [State.ready]
@[simp] theorem State.putCopy_mode (k : RegKey) (w : Word) (cyc : Nat) : (s.putCopy k w cyc).mode = s.mode := by
  simp [State.mode]
@[simp] theorem State.putCopy_evtWord (k : RegKey) (w : Word) (cyc : Nat) (key : RegKey) : (s.putCopy k w cyc).evtWord key = s.evtWord key := by
  simp only [State.evtWord, State.putCopy_rep]
@[simp] theorem State.putCopy_evt (k : RegKey) (w : Word) (cyc : Nat) (fld : Fld) (inst : Nat) : (s.putCopy k w cyc).evt fld inst = s.evt fld inst := by
  simp only [State.evt, State.putCopy_rep]
@[simp] theorem State.putCopy_lane (k : RegKey) (w : Word) (cyc : Nat) (at_ : Nat) : (s.putCopy k w cyc).lane at_ = s.lane at_ := by
  simp only [State.lane, State.putCopy_lanes]
@[simp] theorem State.putCopy_port (k : RegKey) (w : Word) (cyc : Nat) (at_ : Nat) : (s.putCopy k w cyc).port at_ = s.port at_ := by
  simp only [State.port, State.putCopy_ports]
@[simp] theorem State.putCopy_otnp (k : RegKey) (w : Word) (cyc : Nat) (at_ : Nat) : (s.putCopy k w cyc).otnp at_ = s.otnp at_ := by
  simp only [State.otnp, State.putCopy_otn]
@[simp] theorem State.putCopy_slot (k : RegKey) (w : Word) (cyc : Nat) (at_ : Nat) : (s.putCopy k w cyc).slot at_ = s.slot at_ := by
  simp only [State.slot, State.putCopy_vault]
@[simp] theorem State.putCopy_asn (k : RegKey) (w : Word) (cyc : Nat) (at_ : Nat) : (s.putCopy k w cyc).asn at_ = s.asn at_ := by
  simp only [State.asn, State.putCopy_assocs]
@[simp] theorem State.putCopy_link (k : RegKey) (w : Word) (cyc : Nat) (at_ : Nat) : (s.putCopy k w cyc).link at_ = s.link at_ := by
  simp only [State.link, State.putCopy_kindle]
@[simp] theorem State.putCopy_chim (k : RegKey) (w : Word) (cyc : Nat) (at_ : Nat) : (s.putCopy k w cyc).chim at_ = s.chim at_ := by
  simp only [State.chim, State.putCopy_chims]
@[simp] theorem State.putCopy_sealRt (k : RegKey) (w : Word) (cyc : Nat) (at_ : Nat) : (s.putCopy k w cyc).sealRt at_ = s.sealRt at_ := by
  simp only [State.sealRt, State.putCopy_seals]
@[simp] theorem State.putCopy_sliceRt (k : RegKey) (w : Word) (cyc : Nat) (at_ : Nat) : (s.putCopy k w cyc).sliceRt at_ = s.sliceRt at_ := by
  simp only [State.sliceRt, State.putCopy_slices]
@[simp] theorem State.putCopy_region (k : RegKey) (w : Word) (cyc : Nat) (at_ : Nat) : (s.putCopy k w cyc).region at_ = s.region at_ := by
  simp only [State.region, State.putCopy_regions]
@[simp] theorem State.putCopy_cage (k : RegKey) (w : Word) (cyc : Nat) (at_ : Nat) : (s.putCopy k w cyc).cage at_ = s.cage at_ := by
  simp only [State.cage, State.putCopy_cages]

/-! ### burn -/

@[simp] theorem State.burn_pending (n : Nat) : (s.burn n).pending = s.pending := rfl
@[simp] theorem State.burn_tick (n : Nat) : (s.burn n).tick = s.tick := rfl
@[simp] theorem State.burn_cycle (n : Nat) : (s.burn n).cycle = s.cycle := rfl
@[simp] theorem State.burn_regs (n : Nat) : (s.burn n).regs = s.regs := rfl
@[simp] theorem State.burn_sched (n : Nat) : (s.burn n).sched = s.sched := rfl
@[simp] theorem State.burn_rep (n : Nat) : (s.burn n).rep = s.rep := rfl
@[simp] theorem State.burn_pwr (n : Nat) : (s.burn n).pwr = s.pwr := rfl
@[simp] theorem State.burn_lanes (n : Nat) : (s.burn n).lanes = s.lanes := rfl
@[simp] theorem State.burn_ports (n : Nat) : (s.burn n).ports = s.ports := rfl
@[simp] theorem State.burn_otn (n : Nat) : (s.burn n).otn = s.otn := rfl
@[simp] theorem State.burn_assocs (n : Nat) : (s.burn n).assocs = s.assocs := rfl
@[simp] theorem State.burn_fwd (n : Nat) : (s.burn n).fwd = s.fwd := rfl
@[simp] theorem State.burn_vault (n : Nat) : (s.burn n).vault = s.vault := rfl
@[simp] theorem State.burn_chims (n : Nat) : (s.burn n).chims = s.chims := rfl
@[simp] theorem State.burn_hearth (n : Nat) : (s.burn n).hearth = s.hearth := rfl
@[simp] theorem State.burn_kindle (n : Nat) : (s.burn n).kindle = s.kindle := rfl
@[simp] theorem State.burn_seals (n : Nat) : (s.burn n).seals = s.seals := rfl
@[simp] theorem State.burn_time (n : Nat) : (s.burn n).time = s.time := rfl
@[simp] theorem State.burn_slices (n : Nat) : (s.burn n).slices = s.slices := rfl
@[simp] theorem State.burn_msix (n : Nat) : (s.burn n).msix = s.msix := rfl
@[simp] theorem State.burn_pair (n : Nat) : (s.burn n).pair = s.pair := rfl
@[simp] theorem State.burn_tamper (n : Nat) : (s.burn n).tamper = s.tamper := rfl
@[simp] theorem State.burn_officer (n : Nat) : (s.burn n).officer = s.officer := rfl
@[simp] theorem State.burn_cages (n : Nat) : (s.burn n).cages = s.cages := rfl
@[simp] theorem State.burn_regions (n : Nat) : (s.burn n).regions = s.regions := rfl
@[simp] theorem State.burn_reinit (n : Nat) : (s.burn n).reinit = s.reinit := rfl
@[simp] theorem State.burn_asnBusy (n : Nat) : (s.burn n).asnBusy = s.asnBusy := rfl
@[simp] theorem State.burn_out (n : Nat) : (s.burn n).out = s.out := rfl
@[simp] theorem State.burn_word (n : Nat) (key : RegKey) : (s.burn n).word key = s.word key :=
  congrArg (fun m => mget (resetWord key) m key) (State.burn_regs s n)
@[simp] theorem State.burn_rd (n : Nat) (fld : Fld) (inst obj : Nat) : (s.burn n).rd fld inst obj = s.rd fld inst obj := by
  simp [State.rd]
@[simp] theorem State.burn_on (n : Nat) (fld : Fld) (inst obj : Nat) : (s.burn n).on fld inst obj = s.on fld inst obj := by
  simp [State.on]
@[simp] theorem State.burn_ready (n : Nat) (pg : Page) (inst : Nat) : (s.burn n).ready pg inst = s.ready pg inst := by
  simp [State.ready]
@[simp] theorem State.burn_mode (n : Nat) : (s.burn n).mode = s.mode := by
  simp [State.mode]
@[simp] theorem State.burn_evtWord (n : Nat) (key : RegKey) : (s.burn n).evtWord key = s.evtWord key := by
  simp only [State.evtWord, State.burn_rep]
@[simp] theorem State.burn_evt (n : Nat) (fld : Fld) (inst : Nat) : (s.burn n).evt fld inst = s.evt fld inst := by
  simp only [State.evt, State.burn_rep]
@[simp] theorem State.burn_lane (n : Nat) (at_ : Nat) : (s.burn n).lane at_ = s.lane at_ := by
  simp only [State.lane, State.burn_lanes]
@[simp] theorem State.burn_port (n : Nat) (at_ : Nat) : (s.burn n).port at_ = s.port at_ := by
  simp only [State.port, State.burn_ports]
@[simp] theorem State.burn_otnp (n : Nat) (at_ : Nat) : (s.burn n).otnp at_ = s.otnp at_ := by
  simp only [State.otnp, State.burn_otn]
@[simp] theorem State.burn_slot (n : Nat) (at_ : Nat) : (s.burn n).slot at_ = s.slot at_ := by
  simp only [State.slot, State.burn_vault]
@[simp] theorem State.burn_asn (n : Nat) (at_ : Nat) : (s.burn n).asn at_ = s.asn at_ := by
  simp only [State.asn, State.burn_assocs]
@[simp] theorem State.burn_link (n : Nat) (at_ : Nat) : (s.burn n).link at_ = s.link at_ := by
  simp only [State.link, State.burn_kindle]
@[simp] theorem State.burn_chim (n : Nat) (at_ : Nat) : (s.burn n).chim at_ = s.chim at_ := by
  simp only [State.chim, State.burn_chims]
@[simp] theorem State.burn_sealRt (n : Nat) (at_ : Nat) : (s.burn n).sealRt at_ = s.sealRt at_ := by
  simp only [State.sealRt, State.burn_seals]
@[simp] theorem State.burn_sliceRt (n : Nat) (at_ : Nat) : (s.burn n).sliceRt at_ = s.sliceRt at_ := by
  simp only [State.sliceRt, State.burn_slices]
@[simp] theorem State.burn_region (n : Nat) (at_ : Nat) : (s.burn n).region at_ = s.region at_ := by
  simp only [State.region, State.burn_regions]
@[simp] theorem State.burn_cage (n : Nat) (at_ : Nat) : (s.burn n).cage at_ = s.cage at_ := by
  simp only [State.cage, State.burn_cages]

/-! ### emit -/

@[simp] theorem State.emit_pending (o : Out) : (s.emit o).pending = s.pending := rfl
@[simp] theorem State.emit_tick (o : Out) : (s.emit o).tick = s.tick := rfl
@[simp] theorem State.emit_cycle (o : Out) : (s.emit o).cycle = s.cycle := rfl
@[simp] theorem State.emit_regs (o : Out) : (s.emit o).regs = s.regs := rfl
@[simp] theorem State.emit_sched (o : Out) : (s.emit o).sched = s.sched := rfl
@[simp] theorem State.emit_rep (o : Out) : (s.emit o).rep = s.rep := rfl
@[simp] theorem State.emit_pwr (o : Out) : (s.emit o).pwr = s.pwr := rfl
@[simp] theorem State.emit_lanes (o : Out) : (s.emit o).lanes = s.lanes := rfl
@[simp] theorem State.emit_ports (o : Out) : (s.emit o).ports = s.ports := rfl
@[simp] theorem State.emit_otn (o : Out) : (s.emit o).otn = s.otn := rfl
@[simp] theorem State.emit_assocs (o : Out) : (s.emit o).assocs = s.assocs := rfl
@[simp] theorem State.emit_fwd (o : Out) : (s.emit o).fwd = s.fwd := rfl
@[simp] theorem State.emit_vault (o : Out) : (s.emit o).vault = s.vault := rfl
@[simp] theorem State.emit_chims (o : Out) : (s.emit o).chims = s.chims := rfl
@[simp] theorem State.emit_hearth (o : Out) : (s.emit o).hearth = s.hearth := rfl
@[simp] theorem State.emit_kindle (o : Out) : (s.emit o).kindle = s.kindle := rfl
@[simp] theorem State.emit_seals (o : Out) : (s.emit o).seals = s.seals := rfl
@[simp] theorem State.emit_time (o : Out) : (s.emit o).time = s.time := rfl
@[simp] theorem State.emit_slices (o : Out) : (s.emit o).slices = s.slices := rfl
@[simp] theorem State.emit_msix (o : Out) : (s.emit o).msix = s.msix := rfl
@[simp] theorem State.emit_pair (o : Out) : (s.emit o).pair = s.pair := rfl
@[simp] theorem State.emit_tamper (o : Out) : (s.emit o).tamper = s.tamper := rfl
@[simp] theorem State.emit_officer (o : Out) : (s.emit o).officer = s.officer := rfl
@[simp] theorem State.emit_cages (o : Out) : (s.emit o).cages = s.cages := rfl
@[simp] theorem State.emit_regions (o : Out) : (s.emit o).regions = s.regions := rfl
@[simp] theorem State.emit_reinit (o : Out) : (s.emit o).reinit = s.reinit := rfl
@[simp] theorem State.emit_asnBusy (o : Out) : (s.emit o).asnBusy = s.asnBusy := rfl
@[simp] theorem State.emit_fresh (o : Out) : (s.emit o).fresh = s.fresh := rfl
@[simp] theorem State.emit_word (o : Out) (key : RegKey) : (s.emit o).word key = s.word key :=
  congrArg (fun m => mget (resetWord key) m key) (State.emit_regs s o)
@[simp] theorem State.emit_rd (o : Out) (fld : Fld) (inst obj : Nat) : (s.emit o).rd fld inst obj = s.rd fld inst obj := by
  simp [State.rd]
@[simp] theorem State.emit_on (o : Out) (fld : Fld) (inst obj : Nat) : (s.emit o).on fld inst obj = s.on fld inst obj := by
  simp [State.on]
@[simp] theorem State.emit_ready (o : Out) (pg : Page) (inst : Nat) : (s.emit o).ready pg inst = s.ready pg inst := by
  simp [State.ready]
@[simp] theorem State.emit_mode (o : Out) : (s.emit o).mode = s.mode := by
  simp [State.mode]
@[simp] theorem State.emit_evtWord (o : Out) (key : RegKey) : (s.emit o).evtWord key = s.evtWord key := by
  simp only [State.evtWord, State.emit_rep]
@[simp] theorem State.emit_evt (o : Out) (fld : Fld) (inst : Nat) : (s.emit o).evt fld inst = s.evt fld inst := by
  simp only [State.evt, State.emit_rep]
@[simp] theorem State.emit_lane (o : Out) (at_ : Nat) : (s.emit o).lane at_ = s.lane at_ := by
  simp only [State.lane, State.emit_lanes]
@[simp] theorem State.emit_port (o : Out) (at_ : Nat) : (s.emit o).port at_ = s.port at_ := by
  simp only [State.port, State.emit_ports]
@[simp] theorem State.emit_otnp (o : Out) (at_ : Nat) : (s.emit o).otnp at_ = s.otnp at_ := by
  simp only [State.otnp, State.emit_otn]
@[simp] theorem State.emit_slot (o : Out) (at_ : Nat) : (s.emit o).slot at_ = s.slot at_ := by
  simp only [State.slot, State.emit_vault]
@[simp] theorem State.emit_asn (o : Out) (at_ : Nat) : (s.emit o).asn at_ = s.asn at_ := by
  simp only [State.asn, State.emit_assocs]
@[simp] theorem State.emit_link (o : Out) (at_ : Nat) : (s.emit o).link at_ = s.link at_ := by
  simp only [State.link, State.emit_kindle]
@[simp] theorem State.emit_chim (o : Out) (at_ : Nat) : (s.emit o).chim at_ = s.chim at_ := by
  simp only [State.chim, State.emit_chims]
@[simp] theorem State.emit_sealRt (o : Out) (at_ : Nat) : (s.emit o).sealRt at_ = s.sealRt at_ := by
  simp only [State.sealRt, State.emit_seals]
@[simp] theorem State.emit_sliceRt (o : Out) (at_ : Nat) : (s.emit o).sliceRt at_ = s.sliceRt at_ := by
  simp only [State.sliceRt, State.emit_slices]
@[simp] theorem State.emit_region (o : Out) (at_ : Nat) : (s.emit o).region at_ = s.region at_ := by
  simp only [State.region, State.emit_regions]
@[simp] theorem State.emit_cage (o : Out) (at_ : Nat) : (s.emit o).cage at_ = s.cage at_ := by
  simp only [State.cage, State.emit_cages]

/-! ### setLane -/

@[simp] theorem State.setLane_pending (g : Nat) (l : LaneRt) : (s.setLane g l).pending = s.pending := rfl
@[simp] theorem State.setLane_tick (g : Nat) (l : LaneRt) : (s.setLane g l).tick = s.tick := rfl
@[simp] theorem State.setLane_cycle (g : Nat) (l : LaneRt) : (s.setLane g l).cycle = s.cycle := rfl
@[simp] theorem State.setLane_regs (g : Nat) (l : LaneRt) : (s.setLane g l).regs = s.regs := rfl
@[simp] theorem State.setLane_sched (g : Nat) (l : LaneRt) : (s.setLane g l).sched = s.sched := rfl
@[simp] theorem State.setLane_rep (g : Nat) (l : LaneRt) : (s.setLane g l).rep = s.rep := rfl
@[simp] theorem State.setLane_pwr (g : Nat) (l : LaneRt) : (s.setLane g l).pwr = s.pwr := rfl
@[simp] theorem State.setLane_ports (g : Nat) (l : LaneRt) : (s.setLane g l).ports = s.ports := rfl
@[simp] theorem State.setLane_otn (g : Nat) (l : LaneRt) : (s.setLane g l).otn = s.otn := rfl
@[simp] theorem State.setLane_assocs (g : Nat) (l : LaneRt) : (s.setLane g l).assocs = s.assocs := rfl
@[simp] theorem State.setLane_fwd (g : Nat) (l : LaneRt) : (s.setLane g l).fwd = s.fwd := rfl
@[simp] theorem State.setLane_vault (g : Nat) (l : LaneRt) : (s.setLane g l).vault = s.vault := rfl
@[simp] theorem State.setLane_chims (g : Nat) (l : LaneRt) : (s.setLane g l).chims = s.chims := rfl
@[simp] theorem State.setLane_hearth (g : Nat) (l : LaneRt) : (s.setLane g l).hearth = s.hearth := rfl
@[simp] theorem State.setLane_kindle (g : Nat) (l : LaneRt) : (s.setLane g l).kindle = s.kindle := rfl
@[simp] theorem State.setLane_seals (g : Nat) (l : LaneRt) : (s.setLane g l).seals = s.seals := rfl
@[simp] theorem State.setLane_time (g : Nat) (l : LaneRt) : (s.setLane g l).time = s.time := rfl
@[simp] theorem State.setLane_slices (g : Nat) (l : LaneRt) : (s.setLane g l).slices = s.slices := rfl
@[simp] theorem State.setLane_msix (g : Nat) (l : LaneRt) : (s.setLane g l).msix = s.msix := rfl
@[simp] theorem State.setLane_pair (g : Nat) (l : LaneRt) : (s.setLane g l).pair = s.pair := rfl
@[simp] theorem State.setLane_tamper (g : Nat) (l : LaneRt) : (s.setLane g l).tamper = s.tamper := rfl
@[simp] theorem State.setLane_officer (g : Nat) (l : LaneRt) : (s.setLane g l).officer = s.officer := rfl
@[simp] theorem State.setLane_cages (g : Nat) (l : LaneRt) : (s.setLane g l).cages = s.cages := rfl
@[simp] theorem State.setLane_regions (g : Nat) (l : LaneRt) : (s.setLane g l).regions = s.regions := rfl
@[simp] theorem State.setLane_reinit (g : Nat) (l : LaneRt) : (s.setLane g l).reinit = s.reinit := rfl
@[simp] theorem State.setLane_asnBusy (g : Nat) (l : LaneRt) : (s.setLane g l).asnBusy = s.asnBusy := rfl
@[simp] theorem State.setLane_fresh (g : Nat) (l : LaneRt) : (s.setLane g l).fresh = s.fresh := rfl
@[simp] theorem State.setLane_out (g : Nat) (l : LaneRt) : (s.setLane g l).out = s.out := rfl
@[simp] theorem State.setLane_word (g : Nat) (l : LaneRt) (key : RegKey) : (s.setLane g l).word key = s.word key :=
  congrArg (fun m => mget (resetWord key) m key) (State.setLane_regs s g l)
@[simp] theorem State.setLane_rd (g : Nat) (l : LaneRt) (fld : Fld) (inst obj : Nat) : (s.setLane g l).rd fld inst obj = s.rd fld inst obj := by
  simp [State.rd]
@[simp] theorem State.setLane_on (g : Nat) (l : LaneRt) (fld : Fld) (inst obj : Nat) : (s.setLane g l).on fld inst obj = s.on fld inst obj := by
  simp [State.on]
@[simp] theorem State.setLane_ready (g : Nat) (l : LaneRt) (pg : Page) (inst : Nat) : (s.setLane g l).ready pg inst = s.ready pg inst := by
  simp [State.ready]
@[simp] theorem State.setLane_mode (g : Nat) (l : LaneRt) : (s.setLane g l).mode = s.mode := by
  simp [State.mode]
@[simp] theorem State.setLane_evtWord (g : Nat) (l : LaneRt) (key : RegKey) : (s.setLane g l).evtWord key = s.evtWord key := by
  simp only [State.evtWord, State.setLane_rep]
@[simp] theorem State.setLane_evt (g : Nat) (l : LaneRt) (fld : Fld) (inst : Nat) : (s.setLane g l).evt fld inst = s.evt fld inst := by
  simp only [State.evt, State.setLane_rep]
@[simp] theorem State.setLane_port (g : Nat) (l : LaneRt) (at_ : Nat) : (s.setLane g l).port at_ = s.port at_ := by
  simp only [State.port, State.setLane_ports]
@[simp] theorem State.setLane_otnp (g : Nat) (l : LaneRt) (at_ : Nat) : (s.setLane g l).otnp at_ = s.otnp at_ := by
  simp only [State.otnp, State.setLane_otn]
@[simp] theorem State.setLane_slot (g : Nat) (l : LaneRt) (at_ : Nat) : (s.setLane g l).slot at_ = s.slot at_ := by
  simp only [State.slot, State.setLane_vault]
@[simp] theorem State.setLane_asn (g : Nat) (l : LaneRt) (at_ : Nat) : (s.setLane g l).asn at_ = s.asn at_ := by
  simp only [State.asn, State.setLane_assocs]
@[simp] theorem State.setLane_link (g : Nat) (l : LaneRt) (at_ : Nat) : (s.setLane g l).link at_ = s.link at_ := by
  simp only [State.link, State.setLane_kindle]
@[simp] theorem State.setLane_chim (g : Nat) (l : LaneRt) (at_ : Nat) : (s.setLane g l).chim at_ = s.chim at_ := by
  simp only [State.chim, State.setLane_chims]
@[simp] theorem State.setLane_sealRt (g : Nat) (l : LaneRt) (at_ : Nat) : (s.setLane g l).sealRt at_ = s.sealRt at_ := by
  simp only [State.sealRt, State.setLane_seals]
@[simp] theorem State.setLane_sliceRt (g : Nat) (l : LaneRt) (at_ : Nat) : (s.setLane g l).sliceRt at_ = s.sliceRt at_ := by
  simp only [State.sliceRt, State.setLane_slices]
@[simp] theorem State.setLane_region (g : Nat) (l : LaneRt) (at_ : Nat) : (s.setLane g l).region at_ = s.region at_ := by
  simp only [State.region, State.setLane_regions]
@[simp] theorem State.setLane_cage (g : Nat) (l : LaneRt) (at_ : Nat) : (s.setLane g l).cage at_ = s.cage at_ := by
  simp only [State.cage, State.setLane_cages]

/-! ### modLane -/

@[simp] theorem State.modLane_pending (g : Nat) (f : LaneRt → LaneRt) : (s.modLane g f).pending = s.pending := rfl
@[simp] theorem State.modLane_tick (g : Nat) (f : LaneRt → LaneRt) : (s.modLane g f).tick = s.tick := rfl
@[simp] theorem State.modLane_cycle (g : Nat) (f : LaneRt → LaneRt) : (s.modLane g f).cycle = s.cycle := rfl
@[simp] theorem State.modLane_regs (g : Nat) (f : LaneRt → LaneRt) : (s.modLane g f).regs = s.regs := rfl
@[simp] theorem State.modLane_sched (g : Nat) (f : LaneRt → LaneRt) : (s.modLane g f).sched = s.sched := rfl
@[simp] theorem State.modLane_rep (g : Nat) (f : LaneRt → LaneRt) : (s.modLane g f).rep = s.rep := rfl
@[simp] theorem State.modLane_pwr (g : Nat) (f : LaneRt → LaneRt) : (s.modLane g f).pwr = s.pwr := rfl
@[simp] theorem State.modLane_ports (g : Nat) (f : LaneRt → LaneRt) : (s.modLane g f).ports = s.ports := rfl
@[simp] theorem State.modLane_otn (g : Nat) (f : LaneRt → LaneRt) : (s.modLane g f).otn = s.otn := rfl
@[simp] theorem State.modLane_assocs (g : Nat) (f : LaneRt → LaneRt) : (s.modLane g f).assocs = s.assocs := rfl
@[simp] theorem State.modLane_fwd (g : Nat) (f : LaneRt → LaneRt) : (s.modLane g f).fwd = s.fwd := rfl
@[simp] theorem State.modLane_vault (g : Nat) (f : LaneRt → LaneRt) : (s.modLane g f).vault = s.vault := rfl
@[simp] theorem State.modLane_chims (g : Nat) (f : LaneRt → LaneRt) : (s.modLane g f).chims = s.chims := rfl
@[simp] theorem State.modLane_hearth (g : Nat) (f : LaneRt → LaneRt) : (s.modLane g f).hearth = s.hearth := rfl
@[simp] theorem State.modLane_kindle (g : Nat) (f : LaneRt → LaneRt) : (s.modLane g f).kindle = s.kindle := rfl
@[simp] theorem State.modLane_seals (g : Nat) (f : LaneRt → LaneRt) : (s.modLane g f).seals = s.seals := rfl
@[simp] theorem State.modLane_time (g : Nat) (f : LaneRt → LaneRt) : (s.modLane g f).time = s.time := rfl
@[simp] theorem State.modLane_slices (g : Nat) (f : LaneRt → LaneRt) : (s.modLane g f).slices = s.slices := rfl
@[simp] theorem State.modLane_msix (g : Nat) (f : LaneRt → LaneRt) : (s.modLane g f).msix = s.msix := rfl
@[simp] theorem State.modLane_pair (g : Nat) (f : LaneRt → LaneRt) : (s.modLane g f).pair = s.pair := rfl
@[simp] theorem State.modLane_tamper (g : Nat) (f : LaneRt → LaneRt) : (s.modLane g f).tamper = s.tamper := rfl
@[simp] theorem State.modLane_officer (g : Nat) (f : LaneRt → LaneRt) : (s.modLane g f).officer = s.officer := rfl
@[simp] theorem State.modLane_cages (g : Nat) (f : LaneRt → LaneRt) : (s.modLane g f).cages = s.cages := rfl
@[simp] theorem State.modLane_regions (g : Nat) (f : LaneRt → LaneRt) : (s.modLane g f).regions = s.regions := rfl
@[simp] theorem State.modLane_reinit (g : Nat) (f : LaneRt → LaneRt) : (s.modLane g f).reinit = s.reinit := rfl
@[simp] theorem State.modLane_asnBusy (g : Nat) (f : LaneRt → LaneRt) : (s.modLane g f).asnBusy = s.asnBusy := rfl
@[simp] theorem State.modLane_fresh (g : Nat) (f : LaneRt → LaneRt) : (s.modLane g f).fresh = s.fresh := rfl
@[simp] theorem State.modLane_out (g : Nat) (f : LaneRt → LaneRt) : (s.modLane g f).out = s.out := rfl
@[simp] theorem State.modLane_word (g : Nat) (f : LaneRt → LaneRt) (key : RegKey) : (s.modLane g f).word key = s.word key :=
  congrArg (fun m => mget (resetWord key) m key) (State.modLane_regs s g f)
@[simp] theorem State.modLane_rd (g : Nat) (f : LaneRt → LaneRt) (fld : Fld) (inst obj : Nat) : (s.modLane g f).rd fld inst obj = s.rd fld inst obj := by
  simp [State.rd]
@[simp] theorem State.modLane_on (g : Nat) (f : LaneRt → LaneRt) (fld : Fld) (inst obj : Nat) : (s.modLane g f).on fld inst obj = s.on fld inst obj := by
  simp [State.on]
@[simp] theorem State.modLane_ready (g : Nat) (f : LaneRt → LaneRt) (pg : Page) (inst : Nat) : (s.modLane g f).ready pg inst = s.ready pg inst := by
  simp [State.ready]
@[simp] theorem State.modLane_mode (g : Nat) (f : LaneRt → LaneRt) : (s.modLane g f).mode = s.mode := by
  simp [State.mode]
@[simp] theorem State.modLane_evtWord (g : Nat) (f : LaneRt → LaneRt) (key : RegKey) : (s.modLane g f).evtWord key = s.evtWord key := by
  simp only [State.evtWord, State.modLane_rep]
@[simp] theorem State.modLane_evt (g : Nat) (f : LaneRt → LaneRt) (fld : Fld) (inst : Nat) : (s.modLane g f).evt fld inst = s.evt fld inst := by
  simp only [State.evt, State.modLane_rep]
@[simp] theorem State.modLane_port (g : Nat) (f : LaneRt → LaneRt) (at_ : Nat) : (s.modLane g f).port at_ = s.port at_ := by
  simp only [State.port, State.modLane_ports]
@[simp] theorem State.modLane_otnp (g : Nat) (f : LaneRt → LaneRt) (at_ : Nat) : (s.modLane g f).otnp at_ = s.otnp at_ := by
  simp only [State.otnp, State.modLane_otn]
@[simp] theorem State.modLane_slot (g : Nat) (f : LaneRt → LaneRt) (at_ : Nat) : (s.modLane g f).slot at_ = s.slot at_ := by
  simp only [State.slot, State.modLane_vault]
@[simp] theorem State.modLane_asn (g : Nat) (f : LaneRt → LaneRt) (at_ : Nat) : (s.modLane g f).asn at_ = s.asn at_ := by
  simp only [State.asn, State.modLane_assocs]
@[simp] theorem State.modLane_link (g : Nat) (f : LaneRt → LaneRt) (at_ : Nat) : (s.modLane g f).link at_ = s.link at_ := by
  simp only [State.link, State.modLane_kindle]
@[simp] theorem State.modLane_chim (g : Nat) (f : LaneRt → LaneRt) (at_ : Nat) : (s.modLane g f).chim at_ = s.chim at_ := by
  simp only [State.chim, State.modLane_chims]
@[simp] theorem State.modLane_sealRt (g : Nat) (f : LaneRt → LaneRt) (at_ : Nat) : (s.modLane g f).sealRt at_ = s.sealRt at_ := by
  simp only [State.sealRt, State.modLane_seals]
@[simp] theorem State.modLane_sliceRt (g : Nat) (f : LaneRt → LaneRt) (at_ : Nat) : (s.modLane g f).sliceRt at_ = s.sliceRt at_ := by
  simp only [State.sliceRt, State.modLane_slices]
@[simp] theorem State.modLane_region (g : Nat) (f : LaneRt → LaneRt) (at_ : Nat) : (s.modLane g f).region at_ = s.region at_ := by
  simp only [State.region, State.modLane_regions]
@[simp] theorem State.modLane_cage (g : Nat) (f : LaneRt → LaneRt) (at_ : Nat) : (s.modLane g f).cage at_ = s.cage at_ := by
  simp only [State.cage, State.modLane_cages]

/-! ### setPort -/

@[simp] theorem State.setPort_pending (p : Nat) (r : PortRt) : (s.setPort p r).pending = s.pending := rfl
@[simp] theorem State.setPort_tick (p : Nat) (r : PortRt) : (s.setPort p r).tick = s.tick := rfl
@[simp] theorem State.setPort_cycle (p : Nat) (r : PortRt) : (s.setPort p r).cycle = s.cycle := rfl
@[simp] theorem State.setPort_regs (p : Nat) (r : PortRt) : (s.setPort p r).regs = s.regs := rfl
@[simp] theorem State.setPort_sched (p : Nat) (r : PortRt) : (s.setPort p r).sched = s.sched := rfl
@[simp] theorem State.setPort_rep (p : Nat) (r : PortRt) : (s.setPort p r).rep = s.rep := rfl
@[simp] theorem State.setPort_pwr (p : Nat) (r : PortRt) : (s.setPort p r).pwr = s.pwr := rfl
@[simp] theorem State.setPort_lanes (p : Nat) (r : PortRt) : (s.setPort p r).lanes = s.lanes := rfl
@[simp] theorem State.setPort_otn (p : Nat) (r : PortRt) : (s.setPort p r).otn = s.otn := rfl
@[simp] theorem State.setPort_assocs (p : Nat) (r : PortRt) : (s.setPort p r).assocs = s.assocs := rfl
@[simp] theorem State.setPort_fwd (p : Nat) (r : PortRt) : (s.setPort p r).fwd = s.fwd := rfl
@[simp] theorem State.setPort_vault (p : Nat) (r : PortRt) : (s.setPort p r).vault = s.vault := rfl
@[simp] theorem State.setPort_chims (p : Nat) (r : PortRt) : (s.setPort p r).chims = s.chims := rfl
@[simp] theorem State.setPort_hearth (p : Nat) (r : PortRt) : (s.setPort p r).hearth = s.hearth := rfl
@[simp] theorem State.setPort_kindle (p : Nat) (r : PortRt) : (s.setPort p r).kindle = s.kindle := rfl
@[simp] theorem State.setPort_seals (p : Nat) (r : PortRt) : (s.setPort p r).seals = s.seals := rfl
@[simp] theorem State.setPort_time (p : Nat) (r : PortRt) : (s.setPort p r).time = s.time := rfl
@[simp] theorem State.setPort_slices (p : Nat) (r : PortRt) : (s.setPort p r).slices = s.slices := rfl
@[simp] theorem State.setPort_msix (p : Nat) (r : PortRt) : (s.setPort p r).msix = s.msix := rfl
@[simp] theorem State.setPort_pair (p : Nat) (r : PortRt) : (s.setPort p r).pair = s.pair := rfl
@[simp] theorem State.setPort_tamper (p : Nat) (r : PortRt) : (s.setPort p r).tamper = s.tamper := rfl
@[simp] theorem State.setPort_officer (p : Nat) (r : PortRt) : (s.setPort p r).officer = s.officer := rfl
@[simp] theorem State.setPort_cages (p : Nat) (r : PortRt) : (s.setPort p r).cages = s.cages := rfl
@[simp] theorem State.setPort_regions (p : Nat) (r : PortRt) : (s.setPort p r).regions = s.regions := rfl
@[simp] theorem State.setPort_reinit (p : Nat) (r : PortRt) : (s.setPort p r).reinit = s.reinit := rfl
@[simp] theorem State.setPort_asnBusy (p : Nat) (r : PortRt) : (s.setPort p r).asnBusy = s.asnBusy := rfl
@[simp] theorem State.setPort_fresh (p : Nat) (r : PortRt) : (s.setPort p r).fresh = s.fresh := rfl
@[simp] theorem State.setPort_out (p : Nat) (r : PortRt) : (s.setPort p r).out = s.out := rfl
@[simp] theorem State.setPort_word (p : Nat) (r : PortRt) (key : RegKey) : (s.setPort p r).word key = s.word key :=
  congrArg (fun m => mget (resetWord key) m key) (State.setPort_regs s p r)
@[simp] theorem State.setPort_rd (p : Nat) (r : PortRt) (fld : Fld) (inst obj : Nat) : (s.setPort p r).rd fld inst obj = s.rd fld inst obj := by
  simp [State.rd]
@[simp] theorem State.setPort_on (p : Nat) (r : PortRt) (fld : Fld) (inst obj : Nat) : (s.setPort p r).on fld inst obj = s.on fld inst obj := by
  simp [State.on]
@[simp] theorem State.setPort_ready (p : Nat) (r : PortRt) (pg : Page) (inst : Nat) : (s.setPort p r).ready pg inst = s.ready pg inst := by
  simp [State.ready]
@[simp] theorem State.setPort_mode (p : Nat) (r : PortRt) : (s.setPort p r).mode = s.mode := by
  simp [State.mode]
@[simp] theorem State.setPort_evtWord (p : Nat) (r : PortRt) (key : RegKey) : (s.setPort p r).evtWord key = s.evtWord key := by
  simp only [State.evtWord, State.setPort_rep]
@[simp] theorem State.setPort_evt (p : Nat) (r : PortRt) (fld : Fld) (inst : Nat) : (s.setPort p r).evt fld inst = s.evt fld inst := by
  simp only [State.evt, State.setPort_rep]
@[simp] theorem State.setPort_lane (p : Nat) (r : PortRt) (at_ : Nat) : (s.setPort p r).lane at_ = s.lane at_ := by
  simp only [State.lane, State.setPort_lanes]
@[simp] theorem State.setPort_otnp (p : Nat) (r : PortRt) (at_ : Nat) : (s.setPort p r).otnp at_ = s.otnp at_ := by
  simp only [State.otnp, State.setPort_otn]
@[simp] theorem State.setPort_slot (p : Nat) (r : PortRt) (at_ : Nat) : (s.setPort p r).slot at_ = s.slot at_ := by
  simp only [State.slot, State.setPort_vault]
@[simp] theorem State.setPort_asn (p : Nat) (r : PortRt) (at_ : Nat) : (s.setPort p r).asn at_ = s.asn at_ := by
  simp only [State.asn, State.setPort_assocs]
@[simp] theorem State.setPort_link (p : Nat) (r : PortRt) (at_ : Nat) : (s.setPort p r).link at_ = s.link at_ := by
  simp only [State.link, State.setPort_kindle]
@[simp] theorem State.setPort_chim (p : Nat) (r : PortRt) (at_ : Nat) : (s.setPort p r).chim at_ = s.chim at_ := by
  simp only [State.chim, State.setPort_chims]
@[simp] theorem State.setPort_sealRt (p : Nat) (r : PortRt) (at_ : Nat) : (s.setPort p r).sealRt at_ = s.sealRt at_ := by
  simp only [State.sealRt, State.setPort_seals]
@[simp] theorem State.setPort_sliceRt (p : Nat) (r : PortRt) (at_ : Nat) : (s.setPort p r).sliceRt at_ = s.sliceRt at_ := by
  simp only [State.sliceRt, State.setPort_slices]
@[simp] theorem State.setPort_region (p : Nat) (r : PortRt) (at_ : Nat) : (s.setPort p r).region at_ = s.region at_ := by
  simp only [State.region, State.setPort_regions]
@[simp] theorem State.setPort_cage (p : Nat) (r : PortRt) (at_ : Nat) : (s.setPort p r).cage at_ = s.cage at_ := by
  simp only [State.cage, State.setPort_cages]

/-! ### modPort -/

@[simp] theorem State.modPort_pending (p : Nat) (f : PortRt → PortRt) : (s.modPort p f).pending = s.pending := rfl
@[simp] theorem State.modPort_tick (p : Nat) (f : PortRt → PortRt) : (s.modPort p f).tick = s.tick := rfl
@[simp] theorem State.modPort_cycle (p : Nat) (f : PortRt → PortRt) : (s.modPort p f).cycle = s.cycle := rfl
@[simp] theorem State.modPort_regs (p : Nat) (f : PortRt → PortRt) : (s.modPort p f).regs = s.regs := rfl
@[simp] theorem State.modPort_sched (p : Nat) (f : PortRt → PortRt) : (s.modPort p f).sched = s.sched := rfl
@[simp] theorem State.modPort_rep (p : Nat) (f : PortRt → PortRt) : (s.modPort p f).rep = s.rep := rfl
@[simp] theorem State.modPort_pwr (p : Nat) (f : PortRt → PortRt) : (s.modPort p f).pwr = s.pwr := rfl
@[simp] theorem State.modPort_lanes (p : Nat) (f : PortRt → PortRt) : (s.modPort p f).lanes = s.lanes := rfl
@[simp] theorem State.modPort_otn (p : Nat) (f : PortRt → PortRt) : (s.modPort p f).otn = s.otn := rfl
@[simp] theorem State.modPort_assocs (p : Nat) (f : PortRt → PortRt) : (s.modPort p f).assocs = s.assocs := rfl
@[simp] theorem State.modPort_fwd (p : Nat) (f : PortRt → PortRt) : (s.modPort p f).fwd = s.fwd := rfl
@[simp] theorem State.modPort_vault (p : Nat) (f : PortRt → PortRt) : (s.modPort p f).vault = s.vault := rfl
@[simp] theorem State.modPort_chims (p : Nat) (f : PortRt → PortRt) : (s.modPort p f).chims = s.chims := rfl
@[simp] theorem State.modPort_hearth (p : Nat) (f : PortRt → PortRt) : (s.modPort p f).hearth = s.hearth := rfl
@[simp] theorem State.modPort_kindle (p : Nat) (f : PortRt → PortRt) : (s.modPort p f).kindle = s.kindle := rfl
@[simp] theorem State.modPort_seals (p : Nat) (f : PortRt → PortRt) : (s.modPort p f).seals = s.seals := rfl
@[simp] theorem State.modPort_time (p : Nat) (f : PortRt → PortRt) : (s.modPort p f).time = s.time := rfl
@[simp] theorem State.modPort_slices (p : Nat) (f : PortRt → PortRt) : (s.modPort p f).slices = s.slices := rfl
@[simp] theorem State.modPort_msix (p : Nat) (f : PortRt → PortRt) : (s.modPort p f).msix = s.msix := rfl
@[simp] theorem State.modPort_pair (p : Nat) (f : PortRt → PortRt) : (s.modPort p f).pair = s.pair := rfl
@[simp] theorem State.modPort_tamper (p : Nat) (f : PortRt → PortRt) : (s.modPort p f).tamper = s.tamper := rfl
@[simp] theorem State.modPort_officer (p : Nat) (f : PortRt → PortRt) : (s.modPort p f).officer = s.officer := rfl
@[simp] theorem State.modPort_cages (p : Nat) (f : PortRt → PortRt) : (s.modPort p f).cages = s.cages := rfl
@[simp] theorem State.modPort_regions (p : Nat) (f : PortRt → PortRt) : (s.modPort p f).regions = s.regions := rfl
@[simp] theorem State.modPort_reinit (p : Nat) (f : PortRt → PortRt) : (s.modPort p f).reinit = s.reinit := rfl
@[simp] theorem State.modPort_asnBusy (p : Nat) (f : PortRt → PortRt) : (s.modPort p f).asnBusy = s.asnBusy := rfl
@[simp] theorem State.modPort_fresh (p : Nat) (f : PortRt → PortRt) : (s.modPort p f).fresh = s.fresh := rfl
@[simp] theorem State.modPort_out (p : Nat) (f : PortRt → PortRt) : (s.modPort p f).out = s.out := rfl
@[simp] theorem State.modPort_word (p : Nat) (f : PortRt → PortRt) (key : RegKey) : (s.modPort p f).word key = s.word key :=
  congrArg (fun m => mget (resetWord key) m key) (State.modPort_regs s p f)
@[simp] theorem State.modPort_rd (p : Nat) (f : PortRt → PortRt) (fld : Fld) (inst obj : Nat) : (s.modPort p f).rd fld inst obj = s.rd fld inst obj := by
  simp [State.rd]
@[simp] theorem State.modPort_on (p : Nat) (f : PortRt → PortRt) (fld : Fld) (inst obj : Nat) : (s.modPort p f).on fld inst obj = s.on fld inst obj := by
  simp [State.on]
@[simp] theorem State.modPort_ready (p : Nat) (f : PortRt → PortRt) (pg : Page) (inst : Nat) : (s.modPort p f).ready pg inst = s.ready pg inst := by
  simp [State.ready]
@[simp] theorem State.modPort_mode (p : Nat) (f : PortRt → PortRt) : (s.modPort p f).mode = s.mode := by
  simp [State.mode]
@[simp] theorem State.modPort_evtWord (p : Nat) (f : PortRt → PortRt) (key : RegKey) : (s.modPort p f).evtWord key = s.evtWord key := by
  simp only [State.evtWord, State.modPort_rep]
@[simp] theorem State.modPort_evt (p : Nat) (f : PortRt → PortRt) (fld : Fld) (inst : Nat) : (s.modPort p f).evt fld inst = s.evt fld inst := by
  simp only [State.evt, State.modPort_rep]
@[simp] theorem State.modPort_lane (p : Nat) (f : PortRt → PortRt) (at_ : Nat) : (s.modPort p f).lane at_ = s.lane at_ := by
  simp only [State.lane, State.modPort_lanes]
@[simp] theorem State.modPort_otnp (p : Nat) (f : PortRt → PortRt) (at_ : Nat) : (s.modPort p f).otnp at_ = s.otnp at_ := by
  simp only [State.otnp, State.modPort_otn]
@[simp] theorem State.modPort_slot (p : Nat) (f : PortRt → PortRt) (at_ : Nat) : (s.modPort p f).slot at_ = s.slot at_ := by
  simp only [State.slot, State.modPort_vault]
@[simp] theorem State.modPort_asn (p : Nat) (f : PortRt → PortRt) (at_ : Nat) : (s.modPort p f).asn at_ = s.asn at_ := by
  simp only [State.asn, State.modPort_assocs]
@[simp] theorem State.modPort_link (p : Nat) (f : PortRt → PortRt) (at_ : Nat) : (s.modPort p f).link at_ = s.link at_ := by
  simp only [State.link, State.modPort_kindle]
@[simp] theorem State.modPort_chim (p : Nat) (f : PortRt → PortRt) (at_ : Nat) : (s.modPort p f).chim at_ = s.chim at_ := by
  simp only [State.chim, State.modPort_chims]
@[simp] theorem State.modPort_sealRt (p : Nat) (f : PortRt → PortRt) (at_ : Nat) : (s.modPort p f).sealRt at_ = s.sealRt at_ := by
  simp only [State.sealRt, State.modPort_seals]
@[simp] theorem State.modPort_sliceRt (p : Nat) (f : PortRt → PortRt) (at_ : Nat) : (s.modPort p f).sliceRt at_ = s.sliceRt at_ := by
  simp only [State.sliceRt, State.modPort_slices]
@[simp] theorem State.modPort_region (p : Nat) (f : PortRt → PortRt) (at_ : Nat) : (s.modPort p f).region at_ = s.region at_ := by
  simp only [State.region, State.modPort_regions]
@[simp] theorem State.modPort_cage (p : Nat) (f : PortRt → PortRt) (at_ : Nat) : (s.modPort p f).cage at_ = s.cage at_ := by
  simp only [State.cage, State.modPort_cages]

/-! ### setOtnp -/

@[simp] theorem State.setOtnp_pending (p : Nat) (r : OtnRt) : (s.setOtnp p r).pending = s.pending := rfl
@[simp] theorem State.setOtnp_tick (p : Nat) (r : OtnRt) : (s.setOtnp p r).tick = s.tick := rfl
@[simp] theorem State.setOtnp_cycle (p : Nat) (r : OtnRt) : (s.setOtnp p r).cycle = s.cycle := rfl
@[simp] theorem State.setOtnp_regs (p : Nat) (r : OtnRt) : (s.setOtnp p r).regs = s.regs := rfl
@[simp] theorem State.setOtnp_sched (p : Nat) (r : OtnRt) : (s.setOtnp p r).sched = s.sched := rfl
@[simp] theorem State.setOtnp_rep (p : Nat) (r : OtnRt) : (s.setOtnp p r).rep = s.rep := rfl
@[simp] theorem State.setOtnp_pwr (p : Nat) (r : OtnRt) : (s.setOtnp p r).pwr = s.pwr := rfl
@[simp] theorem State.setOtnp_lanes (p : Nat) (r : OtnRt) : (s.setOtnp p r).lanes = s.lanes := rfl
@[simp] theorem State.setOtnp_ports (p : Nat) (r : OtnRt) : (s.setOtnp p r).ports = s.ports := rfl
@[simp] theorem State.setOtnp_assocs (p : Nat) (r : OtnRt) : (s.setOtnp p r).assocs = s.assocs := rfl
@[simp] theorem State.setOtnp_fwd (p : Nat) (r : OtnRt) : (s.setOtnp p r).fwd = s.fwd := rfl
@[simp] theorem State.setOtnp_vault (p : Nat) (r : OtnRt) : (s.setOtnp p r).vault = s.vault := rfl
@[simp] theorem State.setOtnp_chims (p : Nat) (r : OtnRt) : (s.setOtnp p r).chims = s.chims := rfl
@[simp] theorem State.setOtnp_hearth (p : Nat) (r : OtnRt) : (s.setOtnp p r).hearth = s.hearth := rfl
@[simp] theorem State.setOtnp_kindle (p : Nat) (r : OtnRt) : (s.setOtnp p r).kindle = s.kindle := rfl
@[simp] theorem State.setOtnp_seals (p : Nat) (r : OtnRt) : (s.setOtnp p r).seals = s.seals := rfl
@[simp] theorem State.setOtnp_time (p : Nat) (r : OtnRt) : (s.setOtnp p r).time = s.time := rfl
@[simp] theorem State.setOtnp_slices (p : Nat) (r : OtnRt) : (s.setOtnp p r).slices = s.slices := rfl
@[simp] theorem State.setOtnp_msix (p : Nat) (r : OtnRt) : (s.setOtnp p r).msix = s.msix := rfl
@[simp] theorem State.setOtnp_pair (p : Nat) (r : OtnRt) : (s.setOtnp p r).pair = s.pair := rfl
@[simp] theorem State.setOtnp_tamper (p : Nat) (r : OtnRt) : (s.setOtnp p r).tamper = s.tamper := rfl
@[simp] theorem State.setOtnp_officer (p : Nat) (r : OtnRt) : (s.setOtnp p r).officer = s.officer := rfl
@[simp] theorem State.setOtnp_cages (p : Nat) (r : OtnRt) : (s.setOtnp p r).cages = s.cages := rfl
@[simp] theorem State.setOtnp_regions (p : Nat) (r : OtnRt) : (s.setOtnp p r).regions = s.regions := rfl
@[simp] theorem State.setOtnp_reinit (p : Nat) (r : OtnRt) : (s.setOtnp p r).reinit = s.reinit := rfl
@[simp] theorem State.setOtnp_asnBusy (p : Nat) (r : OtnRt) : (s.setOtnp p r).asnBusy = s.asnBusy := rfl
@[simp] theorem State.setOtnp_fresh (p : Nat) (r : OtnRt) : (s.setOtnp p r).fresh = s.fresh := rfl
@[simp] theorem State.setOtnp_out (p : Nat) (r : OtnRt) : (s.setOtnp p r).out = s.out := rfl
@[simp] theorem State.setOtnp_word (p : Nat) (r : OtnRt) (key : RegKey) : (s.setOtnp p r).word key = s.word key :=
  congrArg (fun m => mget (resetWord key) m key) (State.setOtnp_regs s p r)
@[simp] theorem State.setOtnp_rd (p : Nat) (r : OtnRt) (fld : Fld) (inst obj : Nat) : (s.setOtnp p r).rd fld inst obj = s.rd fld inst obj := by
  simp [State.rd]
@[simp] theorem State.setOtnp_on (p : Nat) (r : OtnRt) (fld : Fld) (inst obj : Nat) : (s.setOtnp p r).on fld inst obj = s.on fld inst obj := by
  simp [State.on]
@[simp] theorem State.setOtnp_ready (p : Nat) (r : OtnRt) (pg : Page) (inst : Nat) : (s.setOtnp p r).ready pg inst = s.ready pg inst := by
  simp [State.ready]
@[simp] theorem State.setOtnp_mode (p : Nat) (r : OtnRt) : (s.setOtnp p r).mode = s.mode := by
  simp [State.mode]
@[simp] theorem State.setOtnp_evtWord (p : Nat) (r : OtnRt) (key : RegKey) : (s.setOtnp p r).evtWord key = s.evtWord key := by
  simp only [State.evtWord, State.setOtnp_rep]
@[simp] theorem State.setOtnp_evt (p : Nat) (r : OtnRt) (fld : Fld) (inst : Nat) : (s.setOtnp p r).evt fld inst = s.evt fld inst := by
  simp only [State.evt, State.setOtnp_rep]
@[simp] theorem State.setOtnp_lane (p : Nat) (r : OtnRt) (at_ : Nat) : (s.setOtnp p r).lane at_ = s.lane at_ := by
  simp only [State.lane, State.setOtnp_lanes]
@[simp] theorem State.setOtnp_port (p : Nat) (r : OtnRt) (at_ : Nat) : (s.setOtnp p r).port at_ = s.port at_ := by
  simp only [State.port, State.setOtnp_ports]
@[simp] theorem State.setOtnp_slot (p : Nat) (r : OtnRt) (at_ : Nat) : (s.setOtnp p r).slot at_ = s.slot at_ := by
  simp only [State.slot, State.setOtnp_vault]
@[simp] theorem State.setOtnp_asn (p : Nat) (r : OtnRt) (at_ : Nat) : (s.setOtnp p r).asn at_ = s.asn at_ := by
  simp only [State.asn, State.setOtnp_assocs]
@[simp] theorem State.setOtnp_link (p : Nat) (r : OtnRt) (at_ : Nat) : (s.setOtnp p r).link at_ = s.link at_ := by
  simp only [State.link, State.setOtnp_kindle]
@[simp] theorem State.setOtnp_chim (p : Nat) (r : OtnRt) (at_ : Nat) : (s.setOtnp p r).chim at_ = s.chim at_ := by
  simp only [State.chim, State.setOtnp_chims]
@[simp] theorem State.setOtnp_sealRt (p : Nat) (r : OtnRt) (at_ : Nat) : (s.setOtnp p r).sealRt at_ = s.sealRt at_ := by
  simp only [State.sealRt, State.setOtnp_seals]
@[simp] theorem State.setOtnp_sliceRt (p : Nat) (r : OtnRt) (at_ : Nat) : (s.setOtnp p r).sliceRt at_ = s.sliceRt at_ := by
  simp only [State.sliceRt, State.setOtnp_slices]
@[simp] theorem State.setOtnp_region (p : Nat) (r : OtnRt) (at_ : Nat) : (s.setOtnp p r).region at_ = s.region at_ := by
  simp only [State.region, State.setOtnp_regions]
@[simp] theorem State.setOtnp_cage (p : Nat) (r : OtnRt) (at_ : Nat) : (s.setOtnp p r).cage at_ = s.cage at_ := by
  simp only [State.cage, State.setOtnp_cages]

/-! ### modOtnp -/

@[simp] theorem State.modOtnp_pending (p : Nat) (f : OtnRt → OtnRt) : (s.modOtnp p f).pending = s.pending := rfl
@[simp] theorem State.modOtnp_tick (p : Nat) (f : OtnRt → OtnRt) : (s.modOtnp p f).tick = s.tick := rfl
@[simp] theorem State.modOtnp_cycle (p : Nat) (f : OtnRt → OtnRt) : (s.modOtnp p f).cycle = s.cycle := rfl
@[simp] theorem State.modOtnp_regs (p : Nat) (f : OtnRt → OtnRt) : (s.modOtnp p f).regs = s.regs := rfl
@[simp] theorem State.modOtnp_sched (p : Nat) (f : OtnRt → OtnRt) : (s.modOtnp p f).sched = s.sched := rfl
@[simp] theorem State.modOtnp_rep (p : Nat) (f : OtnRt → OtnRt) : (s.modOtnp p f).rep = s.rep := rfl
@[simp] theorem State.modOtnp_pwr (p : Nat) (f : OtnRt → OtnRt) : (s.modOtnp p f).pwr = s.pwr := rfl
@[simp] theorem State.modOtnp_lanes (p : Nat) (f : OtnRt → OtnRt) : (s.modOtnp p f).lanes = s.lanes := rfl
@[simp] theorem State.modOtnp_ports (p : Nat) (f : OtnRt → OtnRt) : (s.modOtnp p f).ports = s.ports := rfl
@[simp] theorem State.modOtnp_assocs (p : Nat) (f : OtnRt → OtnRt) : (s.modOtnp p f).assocs = s.assocs := rfl
@[simp] theorem State.modOtnp_fwd (p : Nat) (f : OtnRt → OtnRt) : (s.modOtnp p f).fwd = s.fwd := rfl
@[simp] theorem State.modOtnp_vault (p : Nat) (f : OtnRt → OtnRt) : (s.modOtnp p f).vault = s.vault := rfl
@[simp] theorem State.modOtnp_chims (p : Nat) (f : OtnRt → OtnRt) : (s.modOtnp p f).chims = s.chims := rfl
@[simp] theorem State.modOtnp_hearth (p : Nat) (f : OtnRt → OtnRt) : (s.modOtnp p f).hearth = s.hearth := rfl
@[simp] theorem State.modOtnp_kindle (p : Nat) (f : OtnRt → OtnRt) : (s.modOtnp p f).kindle = s.kindle := rfl
@[simp] theorem State.modOtnp_seals (p : Nat) (f : OtnRt → OtnRt) : (s.modOtnp p f).seals = s.seals := rfl
@[simp] theorem State.modOtnp_time (p : Nat) (f : OtnRt → OtnRt) : (s.modOtnp p f).time = s.time := rfl
@[simp] theorem State.modOtnp_slices (p : Nat) (f : OtnRt → OtnRt) : (s.modOtnp p f).slices = s.slices := rfl
@[simp] theorem State.modOtnp_msix (p : Nat) (f : OtnRt → OtnRt) : (s.modOtnp p f).msix = s.msix := rfl
@[simp] theorem State.modOtnp_pair (p : Nat) (f : OtnRt → OtnRt) : (s.modOtnp p f).pair = s.pair := rfl
@[simp] theorem State.modOtnp_tamper (p : Nat) (f : OtnRt → OtnRt) : (s.modOtnp p f).tamper = s.tamper := rfl
@[simp] theorem State.modOtnp_officer (p : Nat) (f : OtnRt → OtnRt) : (s.modOtnp p f).officer = s.officer := rfl
@[simp] theorem State.modOtnp_cages (p : Nat) (f : OtnRt → OtnRt) : (s.modOtnp p f).cages = s.cages := rfl
@[simp] theorem State.modOtnp_regions (p : Nat) (f : OtnRt → OtnRt) : (s.modOtnp p f).regions = s.regions := rfl
@[simp] theorem State.modOtnp_reinit (p : Nat) (f : OtnRt → OtnRt) : (s.modOtnp p f).reinit = s.reinit := rfl
@[simp] theorem State.modOtnp_asnBusy (p : Nat) (f : OtnRt → OtnRt) : (s.modOtnp p f).asnBusy = s.asnBusy := rfl
@[simp] theorem State.modOtnp_fresh (p : Nat) (f : OtnRt → OtnRt) : (s.modOtnp p f).fresh = s.fresh := rfl
@[simp] theorem State.modOtnp_out (p : Nat) (f : OtnRt → OtnRt) : (s.modOtnp p f).out = s.out := rfl
@[simp] theorem State.modOtnp_word (p : Nat) (f : OtnRt → OtnRt) (key : RegKey) : (s.modOtnp p f).word key = s.word key :=
  congrArg (fun m => mget (resetWord key) m key) (State.modOtnp_regs s p f)
@[simp] theorem State.modOtnp_rd (p : Nat) (f : OtnRt → OtnRt) (fld : Fld) (inst obj : Nat) : (s.modOtnp p f).rd fld inst obj = s.rd fld inst obj := by
  simp [State.rd]
@[simp] theorem State.modOtnp_on (p : Nat) (f : OtnRt → OtnRt) (fld : Fld) (inst obj : Nat) : (s.modOtnp p f).on fld inst obj = s.on fld inst obj := by
  simp [State.on]
@[simp] theorem State.modOtnp_ready (p : Nat) (f : OtnRt → OtnRt) (pg : Page) (inst : Nat) : (s.modOtnp p f).ready pg inst = s.ready pg inst := by
  simp [State.ready]
@[simp] theorem State.modOtnp_mode (p : Nat) (f : OtnRt → OtnRt) : (s.modOtnp p f).mode = s.mode := by
  simp [State.mode]
@[simp] theorem State.modOtnp_evtWord (p : Nat) (f : OtnRt → OtnRt) (key : RegKey) : (s.modOtnp p f).evtWord key = s.evtWord key := by
  simp only [State.evtWord, State.modOtnp_rep]
@[simp] theorem State.modOtnp_evt (p : Nat) (f : OtnRt → OtnRt) (fld : Fld) (inst : Nat) : (s.modOtnp p f).evt fld inst = s.evt fld inst := by
  simp only [State.evt, State.modOtnp_rep]
@[simp] theorem State.modOtnp_lane (p : Nat) (f : OtnRt → OtnRt) (at_ : Nat) : (s.modOtnp p f).lane at_ = s.lane at_ := by
  simp only [State.lane, State.modOtnp_lanes]
@[simp] theorem State.modOtnp_port (p : Nat) (f : OtnRt → OtnRt) (at_ : Nat) : (s.modOtnp p f).port at_ = s.port at_ := by
  simp only [State.port, State.modOtnp_ports]
@[simp] theorem State.modOtnp_slot (p : Nat) (f : OtnRt → OtnRt) (at_ : Nat) : (s.modOtnp p f).slot at_ = s.slot at_ := by
  simp only [State.slot, State.modOtnp_vault]
@[simp] theorem State.modOtnp_asn (p : Nat) (f : OtnRt → OtnRt) (at_ : Nat) : (s.modOtnp p f).asn at_ = s.asn at_ := by
  simp only [State.asn, State.modOtnp_assocs]
@[simp] theorem State.modOtnp_link (p : Nat) (f : OtnRt → OtnRt) (at_ : Nat) : (s.modOtnp p f).link at_ = s.link at_ := by
  simp only [State.link, State.modOtnp_kindle]
@[simp] theorem State.modOtnp_chim (p : Nat) (f : OtnRt → OtnRt) (at_ : Nat) : (s.modOtnp p f).chim at_ = s.chim at_ := by
  simp only [State.chim, State.modOtnp_chims]
@[simp] theorem State.modOtnp_sealRt (p : Nat) (f : OtnRt → OtnRt) (at_ : Nat) : (s.modOtnp p f).sealRt at_ = s.sealRt at_ := by
  simp only [State.sealRt, State.modOtnp_seals]
@[simp] theorem State.modOtnp_sliceRt (p : Nat) (f : OtnRt → OtnRt) (at_ : Nat) : (s.modOtnp p f).sliceRt at_ = s.sliceRt at_ := by
  simp only [State.sliceRt, State.modOtnp_slices]
@[simp] theorem State.modOtnp_region (p : Nat) (f : OtnRt → OtnRt) (at_ : Nat) : (s.modOtnp p f).region at_ = s.region at_ := by
  simp only [State.region, State.modOtnp_regions]
@[simp] theorem State.modOtnp_cage (p : Nat) (f : OtnRt → OtnRt) (at_ : Nat) : (s.modOtnp p f).cage at_ = s.cage at_ := by
  simp only [State.cage, State.modOtnp_cages]

/-! ### setSlot -/

@[simp] theorem State.setSlot_pending (v : Nat) (x : Slot) : (s.setSlot v x).pending = s.pending := rfl
@[simp] theorem State.setSlot_tick (v : Nat) (x : Slot) : (s.setSlot v x).tick = s.tick := rfl
@[simp] theorem State.setSlot_cycle (v : Nat) (x : Slot) : (s.setSlot v x).cycle = s.cycle := rfl
@[simp] theorem State.setSlot_regs (v : Nat) (x : Slot) : (s.setSlot v x).regs = s.regs := rfl
@[simp] theorem State.setSlot_sched (v : Nat) (x : Slot) : (s.setSlot v x).sched = s.sched := rfl
@[simp] theorem State.setSlot_rep (v : Nat) (x : Slot) : (s.setSlot v x).rep = s.rep := rfl
@[simp] theorem State.setSlot_pwr (v : Nat) (x : Slot) : (s.setSlot v x).pwr = s.pwr := rfl
@[simp] theorem State.setSlot_lanes (v : Nat) (x : Slot) : (s.setSlot v x).lanes = s.lanes := rfl
@[simp] theorem State.setSlot_ports (v : Nat) (x : Slot) : (s.setSlot v x).ports = s.ports := rfl
@[simp] theorem State.setSlot_otn (v : Nat) (x : Slot) : (s.setSlot v x).otn = s.otn := rfl
@[simp] theorem State.setSlot_assocs (v : Nat) (x : Slot) : (s.setSlot v x).assocs = s.assocs := rfl
@[simp] theorem State.setSlot_fwd (v : Nat) (x : Slot) : (s.setSlot v x).fwd = s.fwd := rfl
@[simp] theorem State.setSlot_chims (v : Nat) (x : Slot) : (s.setSlot v x).chims = s.chims := rfl
@[simp] theorem State.setSlot_hearth (v : Nat) (x : Slot) : (s.setSlot v x).hearth = s.hearth := rfl
@[simp] theorem State.setSlot_kindle (v : Nat) (x : Slot) : (s.setSlot v x).kindle = s.kindle := rfl
@[simp] theorem State.setSlot_seals (v : Nat) (x : Slot) : (s.setSlot v x).seals = s.seals := rfl
@[simp] theorem State.setSlot_time (v : Nat) (x : Slot) : (s.setSlot v x).time = s.time := rfl
@[simp] theorem State.setSlot_slices (v : Nat) (x : Slot) : (s.setSlot v x).slices = s.slices := rfl
@[simp] theorem State.setSlot_msix (v : Nat) (x : Slot) : (s.setSlot v x).msix = s.msix := rfl
@[simp] theorem State.setSlot_pair (v : Nat) (x : Slot) : (s.setSlot v x).pair = s.pair := rfl
@[simp] theorem State.setSlot_tamper (v : Nat) (x : Slot) : (s.setSlot v x).tamper = s.tamper := rfl
@[simp] theorem State.setSlot_officer (v : Nat) (x : Slot) : (s.setSlot v x).officer = s.officer := rfl
@[simp] theorem State.setSlot_cages (v : Nat) (x : Slot) : (s.setSlot v x).cages = s.cages := rfl
@[simp] theorem State.setSlot_regions (v : Nat) (x : Slot) : (s.setSlot v x).regions = s.regions := rfl
@[simp] theorem State.setSlot_reinit (v : Nat) (x : Slot) : (s.setSlot v x).reinit = s.reinit := rfl
@[simp] theorem State.setSlot_asnBusy (v : Nat) (x : Slot) : (s.setSlot v x).asnBusy = s.asnBusy := rfl
@[simp] theorem State.setSlot_fresh (v : Nat) (x : Slot) : (s.setSlot v x).fresh = s.fresh := rfl
@[simp] theorem State.setSlot_out (v : Nat) (x : Slot) : (s.setSlot v x).out = s.out := rfl
@[simp] theorem State.setSlot_word (v : Nat) (x : Slot) (key : RegKey) : (s.setSlot v x).word key = s.word key :=
  congrArg (fun m => mget (resetWord key) m key) (State.setSlot_regs s v x)
@[simp] theorem State.setSlot_rd (v : Nat) (x : Slot) (fld : Fld) (inst obj : Nat) : (s.setSlot v x).rd fld inst obj = s.rd fld inst obj := by
  simp [State.rd]
@[simp] theorem State.setSlot_on (v : Nat) (x : Slot) (fld : Fld) (inst obj : Nat) : (s.setSlot v x).on fld inst obj = s.on fld inst obj := by
  simp [State.on]
@[simp] theorem State.setSlot_ready (v : Nat) (x : Slot) (pg : Page) (inst : Nat) : (s.setSlot v x).ready pg inst = s.ready pg inst := by
  simp [State.ready]
@[simp] theorem State.setSlot_mode (v : Nat) (x : Slot) : (s.setSlot v x).mode = s.mode := by
  simp [State.mode]
@[simp] theorem State.setSlot_evtWord (v : Nat) (x : Slot) (key : RegKey) : (s.setSlot v x).evtWord key = s.evtWord key := by
  simp only [State.evtWord, State.setSlot_rep]
@[simp] theorem State.setSlot_evt (v : Nat) (x : Slot) (fld : Fld) (inst : Nat) : (s.setSlot v x).evt fld inst = s.evt fld inst := by
  simp only [State.evt, State.setSlot_rep]
@[simp] theorem State.setSlot_lane (v : Nat) (x : Slot) (at_ : Nat) : (s.setSlot v x).lane at_ = s.lane at_ := by
  simp only [State.lane, State.setSlot_lanes]
@[simp] theorem State.setSlot_port (v : Nat) (x : Slot) (at_ : Nat) : (s.setSlot v x).port at_ = s.port at_ := by
  simp only [State.port, State.setSlot_ports]
@[simp] theorem State.setSlot_otnp (v : Nat) (x : Slot) (at_ : Nat) : (s.setSlot v x).otnp at_ = s.otnp at_ := by
  simp only [State.otnp, State.setSlot_otn]
@[simp] theorem State.setSlot_asn (v : Nat) (x : Slot) (at_ : Nat) : (s.setSlot v x).asn at_ = s.asn at_ := by
  simp only [State.asn, State.setSlot_assocs]
@[simp] theorem State.setSlot_link (v : Nat) (x : Slot) (at_ : Nat) : (s.setSlot v x).link at_ = s.link at_ := by
  simp only [State.link, State.setSlot_kindle]
@[simp] theorem State.setSlot_chim (v : Nat) (x : Slot) (at_ : Nat) : (s.setSlot v x).chim at_ = s.chim at_ := by
  simp only [State.chim, State.setSlot_chims]
@[simp] theorem State.setSlot_sealRt (v : Nat) (x : Slot) (at_ : Nat) : (s.setSlot v x).sealRt at_ = s.sealRt at_ := by
  simp only [State.sealRt, State.setSlot_seals]
@[simp] theorem State.setSlot_sliceRt (v : Nat) (x : Slot) (at_ : Nat) : (s.setSlot v x).sliceRt at_ = s.sliceRt at_ := by
  simp only [State.sliceRt, State.setSlot_slices]
@[simp] theorem State.setSlot_region (v : Nat) (x : Slot) (at_ : Nat) : (s.setSlot v x).region at_ = s.region at_ := by
  simp only [State.region, State.setSlot_regions]
@[simp] theorem State.setSlot_cage (v : Nat) (x : Slot) (at_ : Nat) : (s.setSlot v x).cage at_ = s.cage at_ := by
  simp only [State.cage, State.setSlot_cages]

/-! ### setAsn -/

@[simp] theorem State.setAsn_pending (a : Nat) (e : Assoc) : (s.setAsn a e).pending = s.pending := rfl
@[simp] theorem State.setAsn_tick (a : Nat) (e : Assoc) : (s.setAsn a e).tick = s.tick := rfl
@[simp] theorem State.setAsn_cycle (a : Nat) (e : Assoc) : (s.setAsn a e).cycle = s.cycle := rfl
@[simp] theorem State.setAsn_regs (a : Nat) (e : Assoc) : (s.setAsn a e).regs = s.regs := rfl
@[simp] theorem State.setAsn_sched (a : Nat) (e : Assoc) : (s.setAsn a e).sched = s.sched := rfl
@[simp] theorem State.setAsn_rep (a : Nat) (e : Assoc) : (s.setAsn a e).rep = s.rep := rfl
@[simp] theorem State.setAsn_pwr (a : Nat) (e : Assoc) : (s.setAsn a e).pwr = s.pwr := rfl
@[simp] theorem State.setAsn_lanes (a : Nat) (e : Assoc) : (s.setAsn a e).lanes = s.lanes := rfl
@[simp] theorem State.setAsn_ports (a : Nat) (e : Assoc) : (s.setAsn a e).ports = s.ports := rfl
@[simp] theorem State.setAsn_otn (a : Nat) (e : Assoc) : (s.setAsn a e).otn = s.otn := rfl
@[simp] theorem State.setAsn_fwd (a : Nat) (e : Assoc) : (s.setAsn a e).fwd = s.fwd := rfl
@[simp] theorem State.setAsn_vault (a : Nat) (e : Assoc) : (s.setAsn a e).vault = s.vault := rfl
@[simp] theorem State.setAsn_chims (a : Nat) (e : Assoc) : (s.setAsn a e).chims = s.chims := rfl
@[simp] theorem State.setAsn_hearth (a : Nat) (e : Assoc) : (s.setAsn a e).hearth = s.hearth := rfl
@[simp] theorem State.setAsn_kindle (a : Nat) (e : Assoc) : (s.setAsn a e).kindle = s.kindle := rfl
@[simp] theorem State.setAsn_seals (a : Nat) (e : Assoc) : (s.setAsn a e).seals = s.seals := rfl
@[simp] theorem State.setAsn_time (a : Nat) (e : Assoc) : (s.setAsn a e).time = s.time := rfl
@[simp] theorem State.setAsn_slices (a : Nat) (e : Assoc) : (s.setAsn a e).slices = s.slices := rfl
@[simp] theorem State.setAsn_msix (a : Nat) (e : Assoc) : (s.setAsn a e).msix = s.msix := rfl
@[simp] theorem State.setAsn_pair (a : Nat) (e : Assoc) : (s.setAsn a e).pair = s.pair := rfl
@[simp] theorem State.setAsn_tamper (a : Nat) (e : Assoc) : (s.setAsn a e).tamper = s.tamper := rfl
@[simp] theorem State.setAsn_officer (a : Nat) (e : Assoc) : (s.setAsn a e).officer = s.officer := rfl
@[simp] theorem State.setAsn_cages (a : Nat) (e : Assoc) : (s.setAsn a e).cages = s.cages := rfl
@[simp] theorem State.setAsn_regions (a : Nat) (e : Assoc) : (s.setAsn a e).regions = s.regions := rfl
@[simp] theorem State.setAsn_reinit (a : Nat) (e : Assoc) : (s.setAsn a e).reinit = s.reinit := rfl
@[simp] theorem State.setAsn_asnBusy (a : Nat) (e : Assoc) : (s.setAsn a e).asnBusy = s.asnBusy := rfl
@[simp] theorem State.setAsn_fresh (a : Nat) (e : Assoc) : (s.setAsn a e).fresh = s.fresh := rfl
@[simp] theorem State.setAsn_out (a : Nat) (e : Assoc) : (s.setAsn a e).out = s.out := rfl
@[simp] theorem State.setAsn_word (a : Nat) (e : Assoc) (key : RegKey) : (s.setAsn a e).word key = s.word key :=
  congrArg (fun m => mget (resetWord key) m key) (State.setAsn_regs s a e)
@[simp] theorem State.setAsn_rd (a : Nat) (e : Assoc) (fld : Fld) (inst obj : Nat) : (s.setAsn a e).rd fld inst obj = s.rd fld inst obj := by
  simp [State.rd]
@[simp] theorem State.setAsn_on (a : Nat) (e : Assoc) (fld : Fld) (inst obj : Nat) : (s.setAsn a e).on fld inst obj = s.on fld inst obj := by
  simp [State.on]
@[simp] theorem State.setAsn_ready (a : Nat) (e : Assoc) (pg : Page) (inst : Nat) : (s.setAsn a e).ready pg inst = s.ready pg inst := by
  simp [State.ready]
@[simp] theorem State.setAsn_mode (a : Nat) (e : Assoc) : (s.setAsn a e).mode = s.mode := by
  simp [State.mode]
@[simp] theorem State.setAsn_evtWord (a : Nat) (e : Assoc) (key : RegKey) : (s.setAsn a e).evtWord key = s.evtWord key := by
  simp only [State.evtWord, State.setAsn_rep]
@[simp] theorem State.setAsn_evt (a : Nat) (e : Assoc) (fld : Fld) (inst : Nat) : (s.setAsn a e).evt fld inst = s.evt fld inst := by
  simp only [State.evt, State.setAsn_rep]
@[simp] theorem State.setAsn_lane (a : Nat) (e : Assoc) (at_ : Nat) : (s.setAsn a e).lane at_ = s.lane at_ := by
  simp only [State.lane, State.setAsn_lanes]
@[simp] theorem State.setAsn_port (a : Nat) (e : Assoc) (at_ : Nat) : (s.setAsn a e).port at_ = s.port at_ := by
  simp only [State.port, State.setAsn_ports]
@[simp] theorem State.setAsn_otnp (a : Nat) (e : Assoc) (at_ : Nat) : (s.setAsn a e).otnp at_ = s.otnp at_ := by
  simp only [State.otnp, State.setAsn_otn]
@[simp] theorem State.setAsn_slot (a : Nat) (e : Assoc) (at_ : Nat) : (s.setAsn a e).slot at_ = s.slot at_ := by
  simp only [State.slot, State.setAsn_vault]
@[simp] theorem State.setAsn_link (a : Nat) (e : Assoc) (at_ : Nat) : (s.setAsn a e).link at_ = s.link at_ := by
  simp only [State.link, State.setAsn_kindle]
@[simp] theorem State.setAsn_chim (a : Nat) (e : Assoc) (at_ : Nat) : (s.setAsn a e).chim at_ = s.chim at_ := by
  simp only [State.chim, State.setAsn_chims]
@[simp] theorem State.setAsn_sealRt (a : Nat) (e : Assoc) (at_ : Nat) : (s.setAsn a e).sealRt at_ = s.sealRt at_ := by
  simp only [State.sealRt, State.setAsn_seals]
@[simp] theorem State.setAsn_sliceRt (a : Nat) (e : Assoc) (at_ : Nat) : (s.setAsn a e).sliceRt at_ = s.sliceRt at_ := by
  simp only [State.sliceRt, State.setAsn_slices]
@[simp] theorem State.setAsn_region (a : Nat) (e : Assoc) (at_ : Nat) : (s.setAsn a e).region at_ = s.region at_ := by
  simp only [State.region, State.setAsn_regions]
@[simp] theorem State.setAsn_cage (a : Nat) (e : Assoc) (at_ : Nat) : (s.setAsn a e).cage at_ = s.cage at_ := by
  simp only [State.cage, State.setAsn_cages]

/-! ### modAsn -/

@[simp] theorem State.modAsn_pending (a : Nat) (f : Assoc → Assoc) : (s.modAsn a f).pending = s.pending := rfl
@[simp] theorem State.modAsn_tick (a : Nat) (f : Assoc → Assoc) : (s.modAsn a f).tick = s.tick := rfl
@[simp] theorem State.modAsn_cycle (a : Nat) (f : Assoc → Assoc) : (s.modAsn a f).cycle = s.cycle := rfl
@[simp] theorem State.modAsn_regs (a : Nat) (f : Assoc → Assoc) : (s.modAsn a f).regs = s.regs := rfl
@[simp] theorem State.modAsn_sched (a : Nat) (f : Assoc → Assoc) : (s.modAsn a f).sched = s.sched := rfl
@[simp] theorem State.modAsn_rep (a : Nat) (f : Assoc → Assoc) : (s.modAsn a f).rep = s.rep := rfl
@[simp] theorem State.modAsn_pwr (a : Nat) (f : Assoc → Assoc) : (s.modAsn a f).pwr = s.pwr := rfl
@[simp] theorem State.modAsn_lanes (a : Nat) (f : Assoc → Assoc) : (s.modAsn a f).lanes = s.lanes := rfl
@[simp] theorem State.modAsn_ports (a : Nat) (f : Assoc → Assoc) : (s.modAsn a f).ports = s.ports := rfl
@[simp] theorem State.modAsn_otn (a : Nat) (f : Assoc → Assoc) : (s.modAsn a f).otn = s.otn := rfl
@[simp] theorem State.modAsn_fwd (a : Nat) (f : Assoc → Assoc) : (s.modAsn a f).fwd = s.fwd := rfl
@[simp] theorem State.modAsn_vault (a : Nat) (f : Assoc → Assoc) : (s.modAsn a f).vault = s.vault := rfl
@[simp] theorem State.modAsn_chims (a : Nat) (f : Assoc → Assoc) : (s.modAsn a f).chims = s.chims := rfl
@[simp] theorem State.modAsn_hearth (a : Nat) (f : Assoc → Assoc) : (s.modAsn a f).hearth = s.hearth := rfl
@[simp] theorem State.modAsn_kindle (a : Nat) (f : Assoc → Assoc) : (s.modAsn a f).kindle = s.kindle := rfl
@[simp] theorem State.modAsn_seals (a : Nat) (f : Assoc → Assoc) : (s.modAsn a f).seals = s.seals := rfl
@[simp] theorem State.modAsn_time (a : Nat) (f : Assoc → Assoc) : (s.modAsn a f).time = s.time := rfl
@[simp] theorem State.modAsn_slices (a : Nat) (f : Assoc → Assoc) : (s.modAsn a f).slices = s.slices := rfl
@[simp] theorem State.modAsn_msix (a : Nat) (f : Assoc → Assoc) : (s.modAsn a f).msix = s.msix := rfl
@[simp] theorem State.modAsn_pair (a : Nat) (f : Assoc → Assoc) : (s.modAsn a f).pair = s.pair := rfl
@[simp] theorem State.modAsn_tamper (a : Nat) (f : Assoc → Assoc) : (s.modAsn a f).tamper = s.tamper := rfl
@[simp] theorem State.modAsn_officer (a : Nat) (f : Assoc → Assoc) : (s.modAsn a f).officer = s.officer := rfl
@[simp] theorem State.modAsn_cages (a : Nat) (f : Assoc → Assoc) : (s.modAsn a f).cages = s.cages := rfl
@[simp] theorem State.modAsn_regions (a : Nat) (f : Assoc → Assoc) : (s.modAsn a f).regions = s.regions := rfl
@[simp] theorem State.modAsn_reinit (a : Nat) (f : Assoc → Assoc) : (s.modAsn a f).reinit = s.reinit := rfl
@[simp] theorem State.modAsn_asnBusy (a : Nat) (f : Assoc → Assoc) : (s.modAsn a f).asnBusy = s.asnBusy := rfl
@[simp] theorem State.modAsn_fresh (a : Nat) (f : Assoc → Assoc) : (s.modAsn a f).fresh = s.fresh := rfl
@[simp] theorem State.modAsn_out (a : Nat) (f : Assoc → Assoc) : (s.modAsn a f).out = s.out := rfl
@[simp] theorem State.modAsn_word (a : Nat) (f : Assoc → Assoc) (key : RegKey) : (s.modAsn a f).word key = s.word key :=
  congrArg (fun m => mget (resetWord key) m key) (State.modAsn_regs s a f)
@[simp] theorem State.modAsn_rd (a : Nat) (f : Assoc → Assoc) (fld : Fld) (inst obj : Nat) : (s.modAsn a f).rd fld inst obj = s.rd fld inst obj := by
  simp [State.rd]
@[simp] theorem State.modAsn_on (a : Nat) (f : Assoc → Assoc) (fld : Fld) (inst obj : Nat) : (s.modAsn a f).on fld inst obj = s.on fld inst obj := by
  simp [State.on]
@[simp] theorem State.modAsn_ready (a : Nat) (f : Assoc → Assoc) (pg : Page) (inst : Nat) : (s.modAsn a f).ready pg inst = s.ready pg inst := by
  simp [State.ready]
@[simp] theorem State.modAsn_mode (a : Nat) (f : Assoc → Assoc) : (s.modAsn a f).mode = s.mode := by
  simp [State.mode]
@[simp] theorem State.modAsn_evtWord (a : Nat) (f : Assoc → Assoc) (key : RegKey) : (s.modAsn a f).evtWord key = s.evtWord key := by
  simp only [State.evtWord, State.modAsn_rep]
@[simp] theorem State.modAsn_evt (a : Nat) (f : Assoc → Assoc) (fld : Fld) (inst : Nat) : (s.modAsn a f).evt fld inst = s.evt fld inst := by
  simp only [State.evt, State.modAsn_rep]
@[simp] theorem State.modAsn_lane (a : Nat) (f : Assoc → Assoc) (at_ : Nat) : (s.modAsn a f).lane at_ = s.lane at_ := by
  simp only [State.lane, State.modAsn_lanes]
@[simp] theorem State.modAsn_port (a : Nat) (f : Assoc → Assoc) (at_ : Nat) : (s.modAsn a f).port at_ = s.port at_ := by
  simp only [State.port, State.modAsn_ports]
@[simp] theorem State.modAsn_otnp (a : Nat) (f : Assoc → Assoc) (at_ : Nat) : (s.modAsn a f).otnp at_ = s.otnp at_ := by
  simp only [State.otnp, State.modAsn_otn]
@[simp] theorem State.modAsn_slot (a : Nat) (f : Assoc → Assoc) (at_ : Nat) : (s.modAsn a f).slot at_ = s.slot at_ := by
  simp only [State.slot, State.modAsn_vault]
@[simp] theorem State.modAsn_link (a : Nat) (f : Assoc → Assoc) (at_ : Nat) : (s.modAsn a f).link at_ = s.link at_ := by
  simp only [State.link, State.modAsn_kindle]
@[simp] theorem State.modAsn_chim (a : Nat) (f : Assoc → Assoc) (at_ : Nat) : (s.modAsn a f).chim at_ = s.chim at_ := by
  simp only [State.chim, State.modAsn_chims]
@[simp] theorem State.modAsn_sealRt (a : Nat) (f : Assoc → Assoc) (at_ : Nat) : (s.modAsn a f).sealRt at_ = s.sealRt at_ := by
  simp only [State.sealRt, State.modAsn_seals]
@[simp] theorem State.modAsn_sliceRt (a : Nat) (f : Assoc → Assoc) (at_ : Nat) : (s.modAsn a f).sliceRt at_ = s.sliceRt at_ := by
  simp only [State.sliceRt, State.modAsn_slices]
@[simp] theorem State.modAsn_region (a : Nat) (f : Assoc → Assoc) (at_ : Nat) : (s.modAsn a f).region at_ = s.region at_ := by
  simp only [State.region, State.modAsn_regions]
@[simp] theorem State.modAsn_cage (a : Nat) (f : Assoc → Assoc) (at_ : Nat) : (s.modAsn a f).cage at_ = s.cage at_ := by
  simp only [State.cage, State.modAsn_cages]

/-! ### setEvtWord -/

@[simp] theorem State.setEvtWord_pending (k : RegKey) (w : Word) : (s.setEvtWord k w).pending = s.pending := rfl
@[simp] theorem State.setEvtWord_tick (k : RegKey) (w : Word) : (s.setEvtWord k w).tick = s.tick := rfl
@[simp] theorem State.setEvtWord_cycle (k : RegKey) (w : Word) : (s.setEvtWord k w).cycle = s.cycle := rfl
@[simp] theorem State.setEvtWord_regs (k : RegKey) (w : Word) : (s.setEvtWord k w).regs = s.regs := rfl
@[simp] theorem State.setEvtWord_sched (k : RegKey) (w : Word) : (s.setEvtWord k w).sched = s.sched := rfl
@[simp] theorem State.setEvtWord_pwr (k : RegKey) (w : Word) : (s.setEvtWord k w).pwr = s.pwr := rfl
@[simp] theorem State.setEvtWord_lanes (k : RegKey) (w : Word) : (s.setEvtWord k w).lanes = s.lanes := rfl
@[simp] theorem State.setEvtWord_ports (k : RegKey) (w : Word) : (s.setEvtWord k w).ports = s.ports := rfl
@[simp] theorem State.setEvtWord_otn (k : RegKey) (w : Word) : (s.setEvtWord k w).otn = s.otn := rfl
@[simp] theorem State.setEvtWord_assocs (k : RegKey) (w : Word) : (s.setEvtWord k w).assocs = s.assocs := rfl
@[simp] theorem State.setEvtWord_fwd (k : RegKey) (w : Word) : (s.setEvtWord k w).fwd = s.fwd := rfl
@[simp] theorem State.setEvtWord_vault (k : RegKey) (w : Word) : (s.setEvtWord k w).vault = s.vault := rfl
@[simp] theorem State.setEvtWord_chims (k : RegKey) (w : Word) : (s.setEvtWord k w).chims = s.chims := rfl
@[simp] theorem State.setEvtWord_hearth (k : RegKey) (w : Word) : (s.setEvtWord k w).hearth = s.hearth := rfl
@[simp] theorem State.setEvtWord_kindle (k : RegKey) (w : Word) : (s.setEvtWord k w).kindle = s.kindle := rfl
@[simp] theorem State.setEvtWord_seals (k : RegKey) (w : Word) : (s.setEvtWord k w).seals = s.seals := rfl
@[simp] theorem State.setEvtWord_time (k : RegKey) (w : Word) : (s.setEvtWord k w).time = s.time := rfl
@[simp] theorem State.setEvtWord_slices (k : RegKey) (w : Word) : (s.setEvtWord k w).slices = s.slices := rfl
@[simp] theorem State.setEvtWord_msix (k : RegKey) (w : Word) : (s.setEvtWord k w).msix = s.msix := rfl
@[simp] theorem State.setEvtWord_pair (k : RegKey) (w : Word) : (s.setEvtWord k w).pair = s.pair := rfl
@[simp] theorem State.setEvtWord_tamper (k : RegKey) (w : Word) : (s.setEvtWord k w).tamper = s.tamper := rfl
@[simp] theorem State.setEvtWord_officer (k : RegKey) (w : Word) : (s.setEvtWord k w).officer = s.officer := rfl
@[simp] theorem State.setEvtWord_cages (k : RegKey) (w : Word) : (s.setEvtWord k w).cages = s.cages := rfl
@[simp] theorem State.setEvtWord_regions (k : RegKey) (w : Word) : (s.setEvtWord k w).regions = s.regions := rfl
@[simp] theorem State.setEvtWord_reinit (k : RegKey) (w : Word) : (s.setEvtWord k w).reinit = s.reinit := rfl
@[simp] theorem State.setEvtWord_asnBusy (k : RegKey) (w : Word) : (s.setEvtWord k w).asnBusy = s.asnBusy := rfl
@[simp] theorem State.setEvtWord_fresh (k : RegKey) (w : Word) : (s.setEvtWord k w).fresh = s.fresh := rfl
@[simp] theorem State.setEvtWord_out (k : RegKey) (w : Word) : (s.setEvtWord k w).out = s.out := rfl
@[simp] theorem State.setEvtWord_word (k : RegKey) (w : Word) (key : RegKey) : (s.setEvtWord k w).word key = s.word key :=
  congrArg (fun m => mget (resetWord key) m key) (State.setEvtWord_regs s k w)
@[simp] theorem State.setEvtWord_rd (k : RegKey) (w : Word) (fld : Fld) (inst obj : Nat) : (s.setEvtWord k w).rd fld inst obj = s.rd fld inst obj := by
  simp [State.rd]
@[simp] theorem State.setEvtWord_on (k : RegKey) (w : Word) (fld : Fld) (inst obj : Nat) : (s.setEvtWord k w).on fld inst obj = s.on fld inst obj := by
  simp [State.on]
@[simp] theorem State.setEvtWord_ready (k : RegKey) (w : Word) (pg : Page) (inst : Nat) : (s.setEvtWord k w).ready pg inst = s.ready pg inst := by
  simp [State.ready]
@[simp] theorem State.setEvtWord_mode (k : RegKey) (w : Word) : (s.setEvtWord k w).mode = s.mode := by
  simp [State.mode]
@[simp] theorem State.setEvtWord_lane (k : RegKey) (w : Word) (at_ : Nat) : (s.setEvtWord k w).lane at_ = s.lane at_ := by
  simp only [State.lane, State.setEvtWord_lanes]
@[simp] theorem State.setEvtWord_port (k : RegKey) (w : Word) (at_ : Nat) : (s.setEvtWord k w).port at_ = s.port at_ := by
  simp only [State.port, State.setEvtWord_ports]
@[simp] theorem State.setEvtWord_otnp (k : RegKey) (w : Word) (at_ : Nat) : (s.setEvtWord k w).otnp at_ = s.otnp at_ := by
  simp only [State.otnp, State.setEvtWord_otn]
@[simp] theorem State.setEvtWord_slot (k : RegKey) (w : Word) (at_ : Nat) : (s.setEvtWord k w).slot at_ = s.slot at_ := by
  simp only [State.slot, State.setEvtWord_vault]
@[simp] theorem State.setEvtWord_asn (k : RegKey) (w : Word) (at_ : Nat) : (s.setEvtWord k w).asn at_ = s.asn at_ := by
  simp only [State.asn, State.setEvtWord_assocs]
@[simp] theorem State.setEvtWord_link (k : RegKey) (w : Word) (at_ : Nat) : (s.setEvtWord k w).link at_ = s.link at_ := by
  simp only [State.link, State.setEvtWord_kindle]
@[simp] theorem State.setEvtWord_chim (k : RegKey) (w : Word) (at_ : Nat) : (s.setEvtWord k w).chim at_ = s.chim at_ := by
  simp only [State.chim, State.setEvtWord_chims]
@[simp] theorem State.setEvtWord_sealRt (k : RegKey) (w : Word) (at_ : Nat) : (s.setEvtWord k w).sealRt at_ = s.sealRt at_ := by
  simp only [State.sealRt, State.setEvtWord_seals]
@[simp] theorem State.setEvtWord_sliceRt (k : RegKey) (w : Word) (at_ : Nat) : (s.setEvtWord k w).sliceRt at_ = s.sliceRt at_ := by
  simp only [State.sliceRt, State.setEvtWord_slices]
@[simp] theorem State.setEvtWord_region (k : RegKey) (w : Word) (at_ : Nat) : (s.setEvtWord k w).region at_ = s.region at_ := by
  simp only [State.region, State.setEvtWord_regions]
@[simp] theorem State.setEvtWord_cage (k : RegKey) (w : Word) (at_ : Nat) : (s.setEvtWord k w).cage at_ = s.cage at_ := by
  simp only [State.cage, State.setEvtWord_cages]

/-! ### wrEvt -/

@[simp] theorem State.wrEvt_pending (f : Fld) (v i : Nat) : (s.wrEvt f v i).pending = s.pending := rfl
@[simp] theorem State.wrEvt_tick (f : Fld) (v i : Nat) : (s.wrEvt f v i).tick = s.tick := rfl
@[simp] theorem State.wrEvt_cycle (f : Fld) (v i : Nat) : (s.wrEvt f v i).cycle = s.cycle := rfl
@[simp] theorem State.wrEvt_regs (f : Fld) (v i : Nat) : (s.wrEvt f v i).regs = s.regs := rfl
@[simp] theorem State.wrEvt_sched (f : Fld) (v i : Nat) : (s.wrEvt f v i).sched = s.sched := rfl
@[simp] theorem State.wrEvt_pwr (f : Fld) (v i : Nat) : (s.wrEvt f v i).pwr = s.pwr := rfl
@[simp] theorem State.wrEvt_lanes (f : Fld) (v i : Nat) : (s.wrEvt f v i).lanes = s.lanes := rfl
@[simp] theorem State.wrEvt_ports (f : Fld) (v i : Nat) : (s.wrEvt f v i).ports = s.ports := rfl
@[simp] theorem State.wrEvt_otn (f : Fld) (v i : Nat) : (s.wrEvt f v i).otn = s.otn := rfl
@[simp] theorem State.wrEvt_assocs (f : Fld) (v i : Nat) : (s.wrEvt f v i).assocs = s.assocs := rfl
@[simp] theorem State.wrEvt_fwd (f : Fld) (v i : Nat) : (s.wrEvt f v i).fwd = s.fwd := rfl
@[simp] theorem State.wrEvt_vault (f : Fld) (v i : Nat) : (s.wrEvt f v i).vault = s.vault := rfl
@[simp] theorem State.wrEvt_chims (f : Fld) (v i : Nat) : (s.wrEvt f v i).chims = s.chims := rfl
@[simp] theorem State.wrEvt_hearth (f : Fld) (v i : Nat) : (s.wrEvt f v i).hearth = s.hearth := rfl
@[simp] theorem State.wrEvt_kindle (f : Fld) (v i : Nat) : (s.wrEvt f v i).kindle = s.kindle := rfl
@[simp] theorem State.wrEvt_seals (f : Fld) (v i : Nat) : (s.wrEvt f v i).seals = s.seals := rfl
@[simp] theorem State.wrEvt_time (f : Fld) (v i : Nat) : (s.wrEvt f v i).time = s.time := rfl
@[simp] theorem State.wrEvt_slices (f : Fld) (v i : Nat) : (s.wrEvt f v i).slices = s.slices := rfl
@[simp] theorem State.wrEvt_msix (f : Fld) (v i : Nat) : (s.wrEvt f v i).msix = s.msix := rfl
@[simp] theorem State.wrEvt_pair (f : Fld) (v i : Nat) : (s.wrEvt f v i).pair = s.pair := rfl
@[simp] theorem State.wrEvt_tamper (f : Fld) (v i : Nat) : (s.wrEvt f v i).tamper = s.tamper := rfl
@[simp] theorem State.wrEvt_officer (f : Fld) (v i : Nat) : (s.wrEvt f v i).officer = s.officer := rfl
@[simp] theorem State.wrEvt_cages (f : Fld) (v i : Nat) : (s.wrEvt f v i).cages = s.cages := rfl
@[simp] theorem State.wrEvt_regions (f : Fld) (v i : Nat) : (s.wrEvt f v i).regions = s.regions := rfl
@[simp] theorem State.wrEvt_reinit (f : Fld) (v i : Nat) : (s.wrEvt f v i).reinit = s.reinit := rfl
@[simp] theorem State.wrEvt_asnBusy (f : Fld) (v i : Nat) : (s.wrEvt f v i).asnBusy = s.asnBusy := rfl
@[simp] theorem State.wrEvt_fresh (f : Fld) (v i : Nat) : (s.wrEvt f v i).fresh = s.fresh := rfl
@[simp] theorem State.wrEvt_out (f : Fld) (v i : Nat) : (s.wrEvt f v i).out = s.out := rfl
@[simp] theorem State.wrEvt_word (f : Fld) (v i : Nat) (key : RegKey) : (s.wrEvt f v i).word key = s.word key :=
  congrArg (fun m => mget (resetWord key) m key) (State.wrEvt_regs s f v i)
@[simp] theorem State.wrEvt_rd (f : Fld) (v i : Nat) (fld : Fld) (inst obj : Nat) : (s.wrEvt f v i).rd fld inst obj = s.rd fld inst obj := by
  simp [State.rd]
@[simp] theorem State.wrEvt_on (f : Fld) (v i : Nat) (fld : Fld) (inst obj : Nat) : (s.wrEvt f v i).on fld inst obj = s.on fld inst obj := by
  simp [State.on]
@[simp] theorem State.wrEvt_ready (f : Fld) (v i : Nat) (pg : Page) (inst : Nat) : (s.wrEvt f v i).ready pg inst = s.ready pg inst := by
  simp [State.ready]
@[simp] theorem State.wrEvt_mode (f : Fld) (v i : Nat) : (s.wrEvt f v i).mode = s.mode := by
  simp [State.mode]
@[simp] theorem State.wrEvt_lane (f : Fld) (v i : Nat) (at_ : Nat) : (s.wrEvt f v i).lane at_ = s.lane at_ := by
  simp only [State.lane, State.wrEvt_lanes]
@[simp] theorem State.wrEvt_port (f : Fld) (v i : Nat) (at_ : Nat) : (s.wrEvt f v i).port at_ = s.port at_ := by
  simp only [State.port, State.wrEvt_ports]
@[simp] theorem State.wrEvt_otnp (f : Fld) (v i : Nat) (at_ : Nat) : (s.wrEvt f v i).otnp at_ = s.otnp at_ := by
  simp only [State.otnp, State.wrEvt_otn]
@[simp] theorem State.wrEvt_slot (f : Fld) (v i : Nat) (at_ : Nat) : (s.wrEvt f v i).slot at_ = s.slot at_ := by
  simp only [State.slot, State.wrEvt_vault]
@[simp] theorem State.wrEvt_asn (f : Fld) (v i : Nat) (at_ : Nat) : (s.wrEvt f v i).asn at_ = s.asn at_ := by
  simp only [State.asn, State.wrEvt_assocs]
@[simp] theorem State.wrEvt_link (f : Fld) (v i : Nat) (at_ : Nat) : (s.wrEvt f v i).link at_ = s.link at_ := by
  simp only [State.link, State.wrEvt_kindle]
@[simp] theorem State.wrEvt_chim (f : Fld) (v i : Nat) (at_ : Nat) : (s.wrEvt f v i).chim at_ = s.chim at_ := by
  simp only [State.chim, State.wrEvt_chims]
@[simp] theorem State.wrEvt_sealRt (f : Fld) (v i : Nat) (at_ : Nat) : (s.wrEvt f v i).sealRt at_ = s.sealRt at_ := by
  simp only [State.sealRt, State.wrEvt_seals]
@[simp] theorem State.wrEvt_sliceRt (f : Fld) (v i : Nat) (at_ : Nat) : (s.wrEvt f v i).sliceRt at_ = s.sliceRt at_ := by
  simp only [State.sliceRt, State.wrEvt_slices]
@[simp] theorem State.wrEvt_region (f : Fld) (v i : Nat) (at_ : Nat) : (s.wrEvt f v i).region at_ = s.region at_ := by
  simp only [State.region, State.wrEvt_regions]
@[simp] theorem State.wrEvt_cage (f : Fld) (v i : Nat) (at_ : Nat) : (s.wrEvt f v i).cage at_ = s.cage at_ := by
  simp only [State.cage, State.wrEvt_cages]

/-! ### raise -/

@[simp] theorem State.raise_pending (r : Raised) : (s.raise r).pending = s.pending := rfl
@[simp] theorem State.raise_tick (r : Raised) : (s.raise r).tick = s.tick := rfl
@[simp] theorem State.raise_cycle (r : Raised) : (s.raise r).cycle = s.cycle := rfl
@[simp] theorem State.raise_regs (r : Raised) : (s.raise r).regs = s.regs := rfl
@[simp] theorem State.raise_sched (r : Raised) : (s.raise r).sched = s.sched := rfl
@[simp] theorem State.raise_pwr (r : Raised) : (s.raise r).pwr = s.pwr := rfl
@[simp] theorem State.raise_lanes (r : Raised) : (s.raise r).lanes = s.lanes := rfl
@[simp] theorem State.raise_ports (r : Raised) : (s.raise r).ports = s.ports := rfl
@[simp] theorem State.raise_otn (r : Raised) : (s.raise r).otn = s.otn := rfl
@[simp] theorem State.raise_assocs (r : Raised) : (s.raise r).assocs = s.assocs := rfl
@[simp] theorem State.raise_fwd (r : Raised) : (s.raise r).fwd = s.fwd := rfl
@[simp] theorem State.raise_vault (r : Raised) : (s.raise r).vault = s.vault := rfl
@[simp] theorem State.raise_chims (r : Raised) : (s.raise r).chims = s.chims := rfl
@[simp] theorem State.raise_hearth (r : Raised) : (s.raise r).hearth = s.hearth := rfl
@[simp] theorem State.raise_kindle (r : Raised) : (s.raise r).kindle = s.kindle := rfl
@[simp] theorem State.raise_seals (r : Raised) : (s.raise r).seals = s.seals := rfl
@[simp] theorem State.raise_time (r : Raised) : (s.raise r).time = s.time := rfl
@[simp] theorem State.raise_slices (r : Raised) : (s.raise r).slices = s.slices := rfl
@[simp] theorem State.raise_msix (r : Raised) : (s.raise r).msix = s.msix := rfl
@[simp] theorem State.raise_pair (r : Raised) : (s.raise r).pair = s.pair := rfl
@[simp] theorem State.raise_tamper (r : Raised) : (s.raise r).tamper = s.tamper := rfl
@[simp] theorem State.raise_officer (r : Raised) : (s.raise r).officer = s.officer := rfl
@[simp] theorem State.raise_cages (r : Raised) : (s.raise r).cages = s.cages := rfl
@[simp] theorem State.raise_regions (r : Raised) : (s.raise r).regions = s.regions := rfl
@[simp] theorem State.raise_reinit (r : Raised) : (s.raise r).reinit = s.reinit := rfl
@[simp] theorem State.raise_asnBusy (r : Raised) : (s.raise r).asnBusy = s.asnBusy := rfl
@[simp] theorem State.raise_fresh (r : Raised) : (s.raise r).fresh = s.fresh := rfl
@[simp] theorem State.raise_out (r : Raised) : (s.raise r).out = s.out := rfl
@[simp] theorem State.raise_word (r : Raised) (key : RegKey) : (s.raise r).word key = s.word key :=
  congrArg (fun m => mget (resetWord key) m key) (State.raise_regs s r)
@[simp] theorem State.raise_rd (r : Raised) (fld : Fld) (inst obj : Nat) : (s.raise r).rd fld inst obj = s.rd fld inst obj := by
  simp [State.rd]
@[simp] theorem State.raise_on (r : Raised) (fld : Fld) (inst obj : Nat) : (s.raise r).on fld inst obj = s.on fld inst obj := by
  simp [State.on]
@[simp] theorem State.raise_ready (r : Raised) (pg : Page) (inst : Nat) : (s.raise r).ready pg inst = s.ready pg inst := by
  simp [State.ready]
@[simp] theorem State.raise_mode (r : Raised) : (s.raise r).mode = s.mode := by
  simp [State.mode]
@[simp] theorem State.raise_lane (r : Raised) (at_ : Nat) : (s.raise r).lane at_ = s.lane at_ := by
  simp only [State.lane, State.raise_lanes]
@[simp] theorem State.raise_port (r : Raised) (at_ : Nat) : (s.raise r).port at_ = s.port at_ := by
  simp only [State.port, State.raise_ports]
@[simp] theorem State.raise_otnp (r : Raised) (at_ : Nat) : (s.raise r).otnp at_ = s.otnp at_ := by
  simp only [State.otnp, State.raise_otn]
@[simp] theorem State.raise_slot (r : Raised) (at_ : Nat) : (s.raise r).slot at_ = s.slot at_ := by
  simp only [State.slot, State.raise_vault]
@[simp] theorem State.raise_asn (r : Raised) (at_ : Nat) : (s.raise r).asn at_ = s.asn at_ := by
  simp only [State.asn, State.raise_assocs]
@[simp] theorem State.raise_link (r : Raised) (at_ : Nat) : (s.raise r).link at_ = s.link at_ := by
  simp only [State.link, State.raise_kindle]
@[simp] theorem State.raise_chim (r : Raised) (at_ : Nat) : (s.raise r).chim at_ = s.chim at_ := by
  simp only [State.chim, State.raise_chims]
@[simp] theorem State.raise_sealRt (r : Raised) (at_ : Nat) : (s.raise r).sealRt at_ = s.sealRt at_ := by
  simp only [State.sealRt, State.raise_seals]
@[simp] theorem State.raise_sliceRt (r : Raised) (at_ : Nat) : (s.raise r).sliceRt at_ = s.sliceRt at_ := by
  simp only [State.sliceRt, State.raise_slices]
@[simp] theorem State.raise_region (r : Raised) (at_ : Nat) : (s.raise r).region at_ = s.region at_ := by
  simp only [State.region, State.raise_regions]
@[simp] theorem State.raise_cage (r : Raised) (at_ : Nat) : (s.raise r).cage at_ = s.cage at_ := by
  simp only [State.cage, State.raise_cages]

/-! ### irq -/

@[simp] theorem State.irq_pending (p : Page) (i : Nat) : (s.irq p i).pending = s.pending := rfl
@[simp] theorem State.irq_tick (p : Page) (i : Nat) : (s.irq p i).tick = s.tick := rfl
@[simp] theorem State.irq_cycle (p : Page) (i : Nat) : (s.irq p i).cycle = s.cycle := rfl
@[simp] theorem State.irq_regs (p : Page) (i : Nat) : (s.irq p i).regs = s.regs := rfl
@[simp] theorem State.irq_sched (p : Page) (i : Nat) : (s.irq p i).sched = s.sched := rfl
@[simp] theorem State.irq_pwr (p : Page) (i : Nat) : (s.irq p i).pwr = s.pwr := rfl
@[simp] theorem State.irq_lanes (p : Page) (i : Nat) : (s.irq p i).lanes = s.lanes := rfl
@[simp] theorem State.irq_ports (p : Page) (i : Nat) : (s.irq p i).ports = s.ports := rfl
@[simp] theorem State.irq_otn (p : Page) (i : Nat) : (s.irq p i).otn = s.otn := rfl
@[simp] theorem State.irq_assocs (p : Page) (i : Nat) : (s.irq p i).assocs = s.assocs := rfl
@[simp] theorem State.irq_fwd (p : Page) (i : Nat) : (s.irq p i).fwd = s.fwd := rfl
@[simp] theorem State.irq_vault (p : Page) (i : Nat) : (s.irq p i).vault = s.vault := rfl
@[simp] theorem State.irq_chims (p : Page) (i : Nat) : (s.irq p i).chims = s.chims := rfl
@[simp] theorem State.irq_hearth (p : Page) (i : Nat) : (s.irq p i).hearth = s.hearth := rfl
@[simp] theorem State.irq_kindle (p : Page) (i : Nat) : (s.irq p i).kindle = s.kindle := rfl
@[simp] theorem State.irq_seals (p : Page) (i : Nat) : (s.irq p i).seals = s.seals := rfl
@[simp] theorem State.irq_time (p : Page) (i : Nat) : (s.irq p i).time = s.time := rfl
@[simp] theorem State.irq_slices (p : Page) (i : Nat) : (s.irq p i).slices = s.slices := rfl
@[simp] theorem State.irq_msix (p : Page) (i : Nat) : (s.irq p i).msix = s.msix := rfl
@[simp] theorem State.irq_pair (p : Page) (i : Nat) : (s.irq p i).pair = s.pair := rfl
@[simp] theorem State.irq_tamper (p : Page) (i : Nat) : (s.irq p i).tamper = s.tamper := rfl
@[simp] theorem State.irq_officer (p : Page) (i : Nat) : (s.irq p i).officer = s.officer := rfl
@[simp] theorem State.irq_cages (p : Page) (i : Nat) : (s.irq p i).cages = s.cages := rfl
@[simp] theorem State.irq_regions (p : Page) (i : Nat) : (s.irq p i).regions = s.regions := rfl
@[simp] theorem State.irq_reinit (p : Page) (i : Nat) : (s.irq p i).reinit = s.reinit := rfl
@[simp] theorem State.irq_asnBusy (p : Page) (i : Nat) : (s.irq p i).asnBusy = s.asnBusy := rfl
@[simp] theorem State.irq_fresh (p : Page) (i : Nat) : (s.irq p i).fresh = s.fresh := rfl
@[simp] theorem State.irq_out (p : Page) (i : Nat) : (s.irq p i).out = s.out := rfl
@[simp] theorem State.irq_word (p : Page) (i : Nat) (key : RegKey) : (s.irq p i).word key = s.word key :=
  congrArg (fun m => mget (resetWord key) m key) (State.irq_regs s p i)
@[simp] theorem State.irq_rd (p : Page) (i : Nat) (fld : Fld) (inst obj : Nat) : (s.irq p i).rd fld inst obj = s.rd fld inst obj := by
  simp [State.rd]
@[simp] theorem State.irq_on (p : Page) (i : Nat) (fld : Fld) (inst obj : Nat) : (s.irq p i).on fld inst obj = s.on fld inst obj := by
  simp [State.on]
@[simp] theorem State.irq_ready (p : Page) (i : Nat) (pg : Page) (inst : Nat) : (s.irq p i).ready pg inst = s.ready pg inst := by
  simp [State.ready]
@[simp] theorem State.irq_mode (p : Page) (i : Nat) : (s.irq p i).mode = s.mode := by
  simp [State.mode]
@[simp] theorem State.irq_lane (p : Page) (i : Nat) (at_ : Nat) : (s.irq p i).lane at_ = s.lane at_ := by
  simp only [State.lane, State.irq_lanes]
@[simp] theorem State.irq_port (p : Page) (i : Nat) (at_ : Nat) : (s.irq p i).port at_ = s.port at_ := by
  simp only [State.port, State.irq_ports]
@[simp] theorem State.irq_otnp (p : Page) (i : Nat) (at_ : Nat) : (s.irq p i).otnp at_ = s.otnp at_ := by
  simp only [State.otnp, State.irq_otn]
@[simp] theorem State.irq_slot (p : Page) (i : Nat) (at_ : Nat) : (s.irq p i).slot at_ = s.slot at_ := by
  simp only [State.slot, State.irq_vault]
@[simp] theorem State.irq_asn (p : Page) (i : Nat) (at_ : Nat) : (s.irq p i).asn at_ = s.asn at_ := by
  simp only [State.asn, State.irq_assocs]
@[simp] theorem State.irq_link (p : Page) (i : Nat) (at_ : Nat) : (s.irq p i).link at_ = s.link at_ := by
  simp only [State.link, State.irq_kindle]
@[simp] theorem State.irq_chim (p : Page) (i : Nat) (at_ : Nat) : (s.irq p i).chim at_ = s.chim at_ := by
  simp only [State.chim, State.irq_chims]
@[simp] theorem State.irq_sealRt (p : Page) (i : Nat) (at_ : Nat) : (s.irq p i).sealRt at_ = s.sealRt at_ := by
  simp only [State.sealRt, State.irq_seals]
@[simp] theorem State.irq_sliceRt (p : Page) (i : Nat) (at_ : Nat) : (s.irq p i).sliceRt at_ = s.sliceRt at_ := by
  simp only [State.sliceRt, State.irq_slices]
@[simp] theorem State.irq_region (p : Page) (i : Nat) (at_ : Nat) : (s.irq p i).region at_ = s.region at_ := by
  simp only [State.region, State.irq_regions]
@[simp] theorem State.irq_cage (p : Page) (i : Nat) (at_ : Nat) : (s.irq p i).cage at_ = s.cage at_ := by
  simp only [State.cage, State.irq_cages]

/-! ### event -/

@[simp] theorem State.event_pending (f : Fld) (i : Nat) : (s.event f i).pending = s.pending := by
  unfold State.event onlyIf
  simp only
  split <;> rfl
@[simp] theorem State.event_tick (f : Fld) (i : Nat) : (s.event f i).tick = s.tick := by
  unfold State.event onlyIf
  simp only
  split <;> rfl
@[simp] theorem State.event_cycle (f : Fld) (i : Nat) : (s.event f i).cycle = s.cycle := by
  unfold State.event onlyIf
  simp only
  split <;> rfl
@[simp] theorem State.event_regs (f : Fld) (i : Nat) : (s.event f i).regs = s.regs := by
  unfold State.event onlyIf
  simp only
  split <;> rfl
@[simp] theorem State.event_sched (f : Fld) (i : Nat) : (s.event f i).sched = s.sched := by
  unfold State.event onlyIf
  simp only
  split <;> rfl
@[simp] theorem State.event_pwr (f : Fld) (i : Nat) : (s.event f i).pwr = s.pwr := by
  unfold State.event onlyIf
  simp only
  split <;> rfl
@[simp] theorem State.event_lanes (f : Fld) (i : Nat) : (s.event f i).lanes = s.lanes := by
  unfold State.event onlyIf
  simp only
  split <;> rfl
@[simp] theorem State.event_ports (f : Fld) (i : Nat) : (s.event f i).ports = s.ports := by
  unfold State.event onlyIf
  simp only
  split <;> rfl
@[simp] theorem State.event_otn (f : Fld) (i : Nat) : (s.event f i).otn = s.otn := by
  unfold State.event onlyIf
  simp only
  split <;> rfl
@[simp] theorem State.event_assocs (f : Fld) (i : Nat) : (s.event f i).assocs = s.assocs := by
  unfold State.event onlyIf
  simp only
  split <;> rfl
@[simp] theorem State.event_fwd (f : Fld) (i : Nat) : (s.event f i).fwd = s.fwd := by
  unfold State.event onlyIf
  simp only
  split <;> rfl
@[simp] theorem State.event_vault (f : Fld) (i : Nat) : (s.event f i).vault = s.vault := by
  unfold State.event onlyIf
  simp only
  split <;> rfl
@[simp] theorem State.event_chims (f : Fld) (i : Nat) : (s.event f i).chims = s.chims := by
  unfold State.event onlyIf
  simp only
  split <;> rfl
@[simp] theorem State.event_hearth (f : Fld) (i : Nat) : (s.event f i).hearth = s.hearth := by
  unfold State.event onlyIf
  simp only
  split <;> rfl
@[simp] theorem State.event_kindle (f : Fld) (i : Nat) : (s.event f i).kindle = s.kindle := by
  unfold State.event onlyIf
  simp only
  split <;> rfl
@[simp] theorem State.event_seals (f : Fld) (i : Nat) : (s.event f i).seals = s.seals := by
  unfold State.event onlyIf
  simp only
  split <;> rfl
@[simp] theorem State.event_time (f : Fld) (i : Nat) : (s.event f i).time = s.time := by
  unfold State.event onlyIf
  simp only
  split <;> rfl
@[simp] theorem State.event_slices (f : Fld) (i : Nat) : (s.event f i).slices = s.slices := by
  unfold State.event onlyIf
  simp only
  split <;> rfl
@[simp] theorem State.event_msix (f : Fld) (i : Nat) : (s.event f i).msix = s.msix := by
  unfold State.event onlyIf
  simp only
  split <;> rfl
@[simp] theorem State.event_pair (f : Fld) (i : Nat) : (s.event f i).pair = s.pair := by
  unfold State.event onlyIf
  simp only
  split <;> rfl
@[simp] theorem State.event_tamper (f : Fld) (i : Nat) : (s.event f i).tamper = s.tamper := by
  unfold State.event onlyIf
  simp only
  split <;> rfl
@[simp] theorem State.event_officer (f : Fld) (i : Nat) : (s.event f i).officer = s.officer := by
  unfold State.event onlyIf
  simp only
  split <;> rfl
@[simp] theorem State.event_cages (f : Fld) (i : Nat) : (s.event f i).cages = s.cages := by
  unfold State.event onlyIf
  simp only
  split <;> rfl
@[simp] theorem State.event_regions (f : Fld) (i : Nat) : (s.event f i).regions = s.regions := by
  unfold State.event onlyIf
  simp only
  split <;> rfl
@[simp] theorem State.event_reinit (f : Fld) (i : Nat) : (s.event f i).reinit = s.reinit := by
  unfold State.event onlyIf
  simp only
  split <;> rfl
@[simp] theorem State.event_asnBusy (f : Fld) (i : Nat) : (s.event f i).asnBusy = s.asnBusy := by
  unfold State.event onlyIf
  simp only
  split <;> rfl
@[simp] theorem State.event_fresh (f : Fld) (i : Nat) : (s.event f i).fresh = s.fresh := by
  unfold State.event onlyIf
  simp only
  split <;> rfl
@[simp] theorem State.event_out (f : Fld) (i : Nat) : (s.event f i).out = s.out := by
  unfold State.event onlyIf
  simp only
  split <;> rfl
@[simp] theorem State.event_word (f : Fld) (i : Nat) (key : RegKey) : (s.event f i).word key = s.word key :=
  congrArg (fun m => mget (resetWord key) m key) (State.event_regs s f i)
@[simp] theorem State.event_rd (f : Fld) (i : Nat) (fld : Fld) (inst obj : Nat) : (s.event f i).rd fld inst obj = s.rd fld inst obj := by
  simp [State.rd]
@[simp] theorem State.event_on (f : Fld) (i : Nat) (fld : Fld) (inst obj : Nat) : (s.event f i).on fld inst obj = s.on fld inst obj := by
  simp [State.on]
@[simp] theorem State.event_ready (f : Fld) (i : Nat) (pg : Page) (inst : Nat) : (s.event f i).ready pg inst = s.ready pg inst := by
  simp [State.ready]
@[simp] theorem State.event_mode (f : Fld) (i : Nat) : (s.event f i).mode = s.mode := by
  simp [State.mode]
@[simp] theorem State.event_lane (f : Fld) (i : Nat) (at_ : Nat) : (s.event f i).lane at_ = s.lane at_ := by
  simp only [State.lane, State.event_lanes]
@[simp] theorem State.event_port (f : Fld) (i : Nat) (at_ : Nat) : (s.event f i).port at_ = s.port at_ := by
  simp only [State.port, State.event_ports]
@[simp] theorem State.event_otnp (f : Fld) (i : Nat) (at_ : Nat) : (s.event f i).otnp at_ = s.otnp at_ := by
  simp only [State.otnp, State.event_otn]
@[simp] theorem State.event_slot (f : Fld) (i : Nat) (at_ : Nat) : (s.event f i).slot at_ = s.slot at_ := by
  simp only [State.slot, State.event_vault]
@[simp] theorem State.event_asn (f : Fld) (i : Nat) (at_ : Nat) : (s.event f i).asn at_ = s.asn at_ := by
  simp only [State.asn, State.event_assocs]
@[simp] theorem State.event_link (f : Fld) (i : Nat) (at_ : Nat) : (s.event f i).link at_ = s.link at_ := by
  simp only [State.link, State.event_kindle]
@[simp] theorem State.event_chim (f : Fld) (i : Nat) (at_ : Nat) : (s.event f i).chim at_ = s.chim at_ := by
  simp only [State.chim, State.event_chims]
@[simp] theorem State.event_sealRt (f : Fld) (i : Nat) (at_ : Nat) : (s.event f i).sealRt at_ = s.sealRt at_ := by
  simp only [State.sealRt, State.event_seals]
@[simp] theorem State.event_sliceRt (f : Fld) (i : Nat) (at_ : Nat) : (s.event f i).sliceRt at_ = s.sliceRt at_ := by
  simp only [State.sliceRt, State.event_slices]
@[simp] theorem State.event_region (f : Fld) (i : Nat) (at_ : Nat) : (s.event f i).region at_ = s.region at_ := by
  simp only [State.region, State.event_regions]
@[simp] theorem State.event_cage (f : Fld) (i : Nat) (at_ : Nat) : (s.event f i).cage at_ = s.cage at_ := by
  simp only [State.cage, State.event_cages]

/-! ### raiseBit -/

@[simp] theorem State.raiseBit_pending (p : Page) (i b : Nat) : (s.raiseBit p i b).pending = s.pending := rfl
@[simp] theorem State.raiseBit_tick (p : Page) (i b : Nat) : (s.raiseBit p i b).tick = s.tick := rfl
@[simp] theorem State.raiseBit_cycle (p : Page) (i b : Nat) : (s.raiseBit p i b).cycle = s.cycle := rfl
@[simp] theorem State.raiseBit_regs (p : Page) (i b : Nat) : (s.raiseBit p i b).regs = s.regs := rfl
@[simp] theorem State.raiseBit_sched (p : Page) (i b : Nat) : (s.raiseBit p i b).sched = s.sched := rfl
@[simp] theorem State.raiseBit_pwr (p : Page) (i b : Nat) : (s.raiseBit p i b).pwr = s.pwr := rfl
@[simp] theorem State.raiseBit_lanes (p : Page) (i b : Nat) : (s.raiseBit p i b).lanes = s.lanes := rfl
@[simp] theorem State.raiseBit_ports (p : Page) (i b : Nat) : (s.raiseBit p i b).ports = s.ports := rfl
@[simp] theorem State.raiseBit_otn (p : Page) (i b : Nat) : (s.raiseBit p i b).otn = s.otn := rfl
@[simp] theorem State.raiseBit_assocs (p : Page) (i b : Nat) : (s.raiseBit p i b).assocs = s.assocs := rfl
@[simp] theorem State.raiseBit_fwd (p : Page) (i b : Nat) : (s.raiseBit p i b).fwd = s.fwd := rfl
@[simp] theorem State.raiseBit_vault (p : Page) (i b : Nat) : (s.raiseBit p i b).vault = s.vault := rfl
@[simp] theorem State.raiseBit_chims (p : Page) (i b : Nat) : (s.raiseBit p i b).chims = s.chims := rfl
@[simp] theorem State.raiseBit_hearth (p : Page) (i b : Nat) : (s.raiseBit p i b).hearth = s.hearth := rfl
@[simp] theorem State.raiseBit_kindle (p : Page) (i b : Nat) : (s.raiseBit p i b).kindle = s.kindle := rfl
@[simp] theorem State.raiseBit_seals (p : Page) (i b : Nat) : (s.raiseBit p i b).seals = s.seals := rfl
@[simp] theorem State.raiseBit_time (p : Page) (i b : Nat) : (s.raiseBit p i b).time = s.time := rfl
@[simp] theorem State.raiseBit_slices (p : Page) (i b : Nat) : (s.raiseBit p i b).slices = s.slices := rfl
@[simp] theorem State.raiseBit_msix (p : Page) (i b : Nat) : (s.raiseBit p i b).msix = s.msix := rfl
@[simp] theorem State.raiseBit_pair (p : Page) (i b : Nat) : (s.raiseBit p i b).pair = s.pair := rfl
@[simp] theorem State.raiseBit_tamper (p : Page) (i b : Nat) : (s.raiseBit p i b).tamper = s.tamper := rfl
@[simp] theorem State.raiseBit_officer (p : Page) (i b : Nat) : (s.raiseBit p i b).officer = s.officer := rfl
@[simp] theorem State.raiseBit_cages (p : Page) (i b : Nat) : (s.raiseBit p i b).cages = s.cages := rfl
@[simp] theorem State.raiseBit_regions (p : Page) (i b : Nat) : (s.raiseBit p i b).regions = s.regions := rfl
@[simp] theorem State.raiseBit_reinit (p : Page) (i b : Nat) : (s.raiseBit p i b).reinit = s.reinit := rfl
@[simp] theorem State.raiseBit_asnBusy (p : Page) (i b : Nat) : (s.raiseBit p i b).asnBusy = s.asnBusy := rfl
@[simp] theorem State.raiseBit_fresh (p : Page) (i b : Nat) : (s.raiseBit p i b).fresh = s.fresh := rfl
@[simp] theorem State.raiseBit_out (p : Page) (i b : Nat) : (s.raiseBit p i b).out = s.out := rfl
@[simp] theorem State.raiseBit_word (p : Page) (i b : Nat) (key : RegKey) : (s.raiseBit p i b).word key = s.word key :=
  congrArg (fun m => mget (resetWord key) m key) (State.raiseBit_regs s p i b)
@[simp] theorem State.raiseBit_rd (p : Page) (i b : Nat) (fld : Fld) (inst obj : Nat) : (s.raiseBit p i b).rd fld inst obj = s.rd fld inst obj := by
  simp [State.rd]
@[simp] theorem State.raiseBit_on (p : Page) (i b : Nat) (fld : Fld) (inst obj : Nat) : (s.raiseBit p i b).on fld inst obj = s.on fld inst obj := by
  simp [State.on]
@[simp] theorem State.raiseBit_ready (p : Page) (i b : Nat) (pg : Page) (inst : Nat) : (s.raiseBit p i b).ready pg inst = s.ready pg inst := by
  simp [State.ready]
@[simp] theorem State.raiseBit_mode (p : Page) (i b : Nat) : (s.raiseBit p i b).mode = s.mode := by
  simp [State.mode]
@[simp] theorem State.raiseBit_lane (p : Page) (i b : Nat) (at_ : Nat) : (s.raiseBit p i b).lane at_ = s.lane at_ := by
  simp only [State.lane, State.raiseBit_lanes]
@[simp] theorem State.raiseBit_port (p : Page) (i b : Nat) (at_ : Nat) : (s.raiseBit p i b).port at_ = s.port at_ := by
  simp only [State.port, State.raiseBit_ports]
@[simp] theorem State.raiseBit_otnp (p : Page) (i b : Nat) (at_ : Nat) : (s.raiseBit p i b).otnp at_ = s.otnp at_ := by
  simp only [State.otnp, State.raiseBit_otn]
@[simp] theorem State.raiseBit_slot (p : Page) (i b : Nat) (at_ : Nat) : (s.raiseBit p i b).slot at_ = s.slot at_ := by
  simp only [State.slot, State.raiseBit_vault]
@[simp] theorem State.raiseBit_asn (p : Page) (i b : Nat) (at_ : Nat) : (s.raiseBit p i b).asn at_ = s.asn at_ := by
  simp only [State.asn, State.raiseBit_assocs]
@[simp] theorem State.raiseBit_link (p : Page) (i b : Nat) (at_ : Nat) : (s.raiseBit p i b).link at_ = s.link at_ := by
  simp only [State.link, State.raiseBit_kindle]
@[simp] theorem State.raiseBit_chim (p : Page) (i b : Nat) (at_ : Nat) : (s.raiseBit p i b).chim at_ = s.chim at_ := by
  simp only [State.chim, State.raiseBit_chims]
@[simp] theorem State.raiseBit_sealRt (p : Page) (i b : Nat) (at_ : Nat) : (s.raiseBit p i b).sealRt at_ = s.sealRt at_ := by
  simp only [State.sealRt, State.raiseBit_seals]
@[simp] theorem State.raiseBit_sliceRt (p : Page) (i b : Nat) (at_ : Nat) : (s.raiseBit p i b).sliceRt at_ = s.sliceRt at_ := by
  simp only [State.sliceRt, State.raiseBit_slices]
@[simp] theorem State.raiseBit_region (p : Page) (i b : Nat) (at_ : Nat) : (s.raiseBit p i b).region at_ = s.region at_ := by
  simp only [State.region, State.raiseBit_regions]
@[simp] theorem State.raiseBit_cage (p : Page) (i b : Nat) (at_ : Nat) : (s.raiseBit p i b).cage at_ = s.cage at_ := by
  simp only [State.cage, State.raiseBit_cages]

/-! ### count -/

@[simp] theorem State.count_pending (p : Page) (i sel n qual : Nat) : (s.count p i sel n qual).pending = s.pending := by
  unfold State.count
  simp only
  split <;> (try split) <;> rfl
@[simp] theorem State.count_tick (p : Page) (i sel n qual : Nat) : (s.count p i sel n qual).tick = s.tick := by
  unfold State.count
  simp only
  split <;> (try split) <;> rfl
@[simp] theorem State.count_cycle (p : Page) (i sel n qual : Nat) : (s.count p i sel n qual).cycle = s.cycle := by
  unfold State.count
  simp only
  split <;> (try split) <;> rfl
@[simp] theorem State.count_regs (p : Page) (i sel n qual : Nat) : (s.count p i sel n qual).regs = s.regs := by
  unfold State.count
  simp only
  split <;> (try split) <;> rfl
@[simp] theorem State.count_sched (p : Page) (i sel n qual : Nat) : (s.count p i sel n qual).sched = s.sched := by
  unfold State.count
  simp only
  split <;> (try split) <;> rfl
@[simp] theorem State.count_pwr (p : Page) (i sel n qual : Nat) : (s.count p i sel n qual).pwr = s.pwr := by
  unfold State.count
  simp only
  split <;> (try split) <;> rfl
@[simp] theorem State.count_lanes (p : Page) (i sel n qual : Nat) : (s.count p i sel n qual).lanes = s.lanes := by
  unfold State.count
  simp only
  split <;> (try split) <;> rfl
@[simp] theorem State.count_ports (p : Page) (i sel n qual : Nat) : (s.count p i sel n qual).ports = s.ports := by
  unfold State.count
  simp only
  split <;> (try split) <;> rfl
@[simp] theorem State.count_otn (p : Page) (i sel n qual : Nat) : (s.count p i sel n qual).otn = s.otn := by
  unfold State.count
  simp only
  split <;> (try split) <;> rfl
@[simp] theorem State.count_assocs (p : Page) (i sel n qual : Nat) : (s.count p i sel n qual).assocs = s.assocs := by
  unfold State.count
  simp only
  split <;> (try split) <;> rfl
@[simp] theorem State.count_fwd (p : Page) (i sel n qual : Nat) : (s.count p i sel n qual).fwd = s.fwd := by
  unfold State.count
  simp only
  split <;> (try split) <;> rfl
@[simp] theorem State.count_vault (p : Page) (i sel n qual : Nat) : (s.count p i sel n qual).vault = s.vault := by
  unfold State.count
  simp only
  split <;> (try split) <;> rfl
@[simp] theorem State.count_chims (p : Page) (i sel n qual : Nat) : (s.count p i sel n qual).chims = s.chims := by
  unfold State.count
  simp only
  split <;> (try split) <;> rfl
@[simp] theorem State.count_hearth (p : Page) (i sel n qual : Nat) : (s.count p i sel n qual).hearth = s.hearth := by
  unfold State.count
  simp only
  split <;> (try split) <;> rfl
@[simp] theorem State.count_kindle (p : Page) (i sel n qual : Nat) : (s.count p i sel n qual).kindle = s.kindle := by
  unfold State.count
  simp only
  split <;> (try split) <;> rfl
@[simp] theorem State.count_seals (p : Page) (i sel n qual : Nat) : (s.count p i sel n qual).seals = s.seals := by
  unfold State.count
  simp only
  split <;> (try split) <;> rfl
@[simp] theorem State.count_time (p : Page) (i sel n qual : Nat) : (s.count p i sel n qual).time = s.time := by
  unfold State.count
  simp only
  split <;> (try split) <;> rfl
@[simp] theorem State.count_slices (p : Page) (i sel n qual : Nat) : (s.count p i sel n qual).slices = s.slices := by
  unfold State.count
  simp only
  split <;> (try split) <;> rfl
@[simp] theorem State.count_msix (p : Page) (i sel n qual : Nat) : (s.count p i sel n qual).msix = s.msix := by
  unfold State.count
  simp only
  split <;> (try split) <;> rfl
@[simp] theorem State.count_pair (p : Page) (i sel n qual : Nat) : (s.count p i sel n qual).pair = s.pair := by
  unfold State.count
  simp only
  split <;> (try split) <;> rfl
@[simp] theorem State.count_tamper (p : Page) (i sel n qual : Nat) : (s.count p i sel n qual).tamper = s.tamper := by
  unfold State.count
  simp only
  split <;> (try split) <;> rfl
@[simp] theorem State.count_officer (p : Page) (i sel n qual : Nat) : (s.count p i sel n qual).officer = s.officer := by
  unfold State.count
  simp only
  split <;> (try split) <;> rfl
@[simp] theorem State.count_cages (p : Page) (i sel n qual : Nat) : (s.count p i sel n qual).cages = s.cages := by
  unfold State.count
  simp only
  split <;> (try split) <;> rfl
@[simp] theorem State.count_regions (p : Page) (i sel n qual : Nat) : (s.count p i sel n qual).regions = s.regions := by
  unfold State.count
  simp only
  split <;> (try split) <;> rfl
@[simp] theorem State.count_reinit (p : Page) (i sel n qual : Nat) : (s.count p i sel n qual).reinit = s.reinit := by
  unfold State.count
  simp only
  split <;> (try split) <;> rfl
@[simp] theorem State.count_asnBusy (p : Page) (i sel n qual : Nat) : (s.count p i sel n qual).asnBusy = s.asnBusy := by
  unfold State.count
  simp only
  split <;> (try split) <;> rfl
@[simp] theorem State.count_fresh (p : Page) (i sel n qual : Nat) : (s.count p i sel n qual).fresh = s.fresh := by
  unfold State.count
  simp only
  split <;> (try split) <;> rfl
@[simp] theorem State.count_out (p : Page) (i sel n qual : Nat) : (s.count p i sel n qual).out = s.out := by
  unfold State.count
  simp only
  split <;> (try split) <;> rfl
@[simp] theorem State.count_word (p : Page) (i sel n qual : Nat) (key : RegKey) : (s.count p i sel n qual).word key = s.word key :=
  congrArg (fun m => mget (resetWord key) m key) (State.count_regs s p i sel n qual)
@[simp] theorem State.count_rd (p : Page) (i sel n qual : Nat) (fld : Fld) (inst obj : Nat) : (s.count p i sel n qual).rd fld inst obj = s.rd fld inst obj := by
  simp [State.rd]
@[simp] theorem State.count_on (p : Page) (i sel n qual : Nat) (fld : Fld) (inst obj : Nat) : (s.count p i sel n qual).on fld inst obj = s.on fld inst obj := by
  simp [State.on]
@[simp] theorem State.count_ready (p : Page) (i sel n qual : Nat) (pg : Page) (inst : Nat) : (s.count p i sel n qual).ready pg inst = s.ready pg inst := by
  simp [State.ready]
@[simp] theorem State.count_mode (p : Page) (i sel n qual : Nat) : (s.count p i sel n qual).mode = s.mode := by
  simp [State.mode]
@[simp] theorem State.count_lane (p : Page) (i sel n qual : Nat) (at_ : Nat) : (s.count p i sel n qual).lane at_ = s.lane at_ := by
  simp only [State.lane, State.count_lanes]
@[simp] theorem State.count_port (p : Page) (i sel n qual : Nat) (at_ : Nat) : (s.count p i sel n qual).port at_ = s.port at_ := by
  simp only [State.port, State.count_ports]
@[simp] theorem State.count_otnp (p : Page) (i sel n qual : Nat) (at_ : Nat) : (s.count p i sel n qual).otnp at_ = s.otnp at_ := by
  simp only [State.otnp, State.count_otn]
@[simp] theorem State.count_slot (p : Page) (i sel n qual : Nat) (at_ : Nat) : (s.count p i sel n qual).slot at_ = s.slot at_ := by
  simp only [State.slot, State.count_vault]
@[simp] theorem State.count_asn (p : Page) (i sel n qual : Nat) (at_ : Nat) : (s.count p i sel n qual).asn at_ = s.asn at_ := by
  simp only [State.asn, State.count_assocs]
@[simp] theorem State.count_link (p : Page) (i sel n qual : Nat) (at_ : Nat) : (s.count p i sel n qual).link at_ = s.link at_ := by
  simp only [State.link, State.count_kindle]
@[simp] theorem State.count_chim (p : Page) (i sel n qual : Nat) (at_ : Nat) : (s.count p i sel n qual).chim at_ = s.chim at_ := by
  simp only [State.chim, State.count_chims]
@[simp] theorem State.count_sealRt (p : Page) (i sel n qual : Nat) (at_ : Nat) : (s.count p i sel n qual).sealRt at_ = s.sealRt at_ := by
  simp only [State.sealRt, State.count_seals]
@[simp] theorem State.count_sliceRt (p : Page) (i sel n qual : Nat) (at_ : Nat) : (s.count p i sel n qual).sliceRt at_ = s.sliceRt at_ := by
  simp only [State.sliceRt, State.count_slices]
@[simp] theorem State.count_region (p : Page) (i sel n qual : Nat) (at_ : Nat) : (s.count p i sel n qual).region at_ = s.region at_ := by
  simp only [State.region, State.count_regions]
@[simp] theorem State.count_cage (p : Page) (i sel n qual : Nat) (at_ : Nat) : (s.count p i sel n qual).cage at_ = s.cage at_ := by
  simp only [State.cage, State.count_cages]

/-! ### setCtr -/

@[simp] theorem State.setCtr_pending (p : Page) (i c : Nat) (v : Counter) : (s.setCtr p i c v).pending = s.pending := rfl
@[simp] theorem State.setCtr_tick (p : Page) (i c : Nat) (v : Counter) : (s.setCtr p i c v).tick = s.tick := rfl
@[simp] theorem State.setCtr_cycle (p : Page) (i c : Nat) (v : Counter) : (s.setCtr p i c v).cycle = s.cycle := rfl
@[simp] theorem State.setCtr_regs (p : Page) (i c : Nat) (v : Counter) : (s.setCtr p i c v).regs = s.regs := rfl
@[simp] theorem State.setCtr_sched (p : Page) (i c : Nat) (v : Counter) : (s.setCtr p i c v).sched = s.sched := rfl
@[simp] theorem State.setCtr_pwr (p : Page) (i c : Nat) (v : Counter) : (s.setCtr p i c v).pwr = s.pwr := rfl
@[simp] theorem State.setCtr_lanes (p : Page) (i c : Nat) (v : Counter) : (s.setCtr p i c v).lanes = s.lanes := rfl
@[simp] theorem State.setCtr_ports (p : Page) (i c : Nat) (v : Counter) : (s.setCtr p i c v).ports = s.ports := rfl
@[simp] theorem State.setCtr_otn (p : Page) (i c : Nat) (v : Counter) : (s.setCtr p i c v).otn = s.otn := rfl
@[simp] theorem State.setCtr_assocs (p : Page) (i c : Nat) (v : Counter) : (s.setCtr p i c v).assocs = s.assocs := rfl
@[simp] theorem State.setCtr_fwd (p : Page) (i c : Nat) (v : Counter) : (s.setCtr p i c v).fwd = s.fwd := rfl
@[simp] theorem State.setCtr_vault (p : Page) (i c : Nat) (v : Counter) : (s.setCtr p i c v).vault = s.vault := rfl
@[simp] theorem State.setCtr_chims (p : Page) (i c : Nat) (v : Counter) : (s.setCtr p i c v).chims = s.chims := rfl
@[simp] theorem State.setCtr_hearth (p : Page) (i c : Nat) (v : Counter) : (s.setCtr p i c v).hearth = s.hearth := rfl
@[simp] theorem State.setCtr_kindle (p : Page) (i c : Nat) (v : Counter) : (s.setCtr p i c v).kindle = s.kindle := rfl
@[simp] theorem State.setCtr_seals (p : Page) (i c : Nat) (v : Counter) : (s.setCtr p i c v).seals = s.seals := rfl
@[simp] theorem State.setCtr_time (p : Page) (i c : Nat) (v : Counter) : (s.setCtr p i c v).time = s.time := rfl
@[simp] theorem State.setCtr_slices (p : Page) (i c : Nat) (v : Counter) : (s.setCtr p i c v).slices = s.slices := rfl
@[simp] theorem State.setCtr_msix (p : Page) (i c : Nat) (v : Counter) : (s.setCtr p i c v).msix = s.msix := rfl
@[simp] theorem State.setCtr_pair (p : Page) (i c : Nat) (v : Counter) : (s.setCtr p i c v).pair = s.pair := rfl
@[simp] theorem State.setCtr_tamper (p : Page) (i c : Nat) (v : Counter) : (s.setCtr p i c v).tamper = s.tamper := rfl
@[simp] theorem State.setCtr_officer (p : Page) (i c : Nat) (v : Counter) : (s.setCtr p i c v).officer = s.officer := rfl
@[simp] theorem State.setCtr_cages (p : Page) (i c : Nat) (v : Counter) : (s.setCtr p i c v).cages = s.cages := rfl
@[simp] theorem State.setCtr_regions (p : Page) (i c : Nat) (v : Counter) : (s.setCtr p i c v).regions = s.regions := rfl
@[simp] theorem State.setCtr_reinit (p : Page) (i c : Nat) (v : Counter) : (s.setCtr p i c v).reinit = s.reinit := rfl
@[simp] theorem State.setCtr_asnBusy (p : Page) (i c : Nat) (v : Counter) : (s.setCtr p i c v).asnBusy = s.asnBusy := rfl
@[simp] theorem State.setCtr_fresh (p : Page) (i c : Nat) (v : Counter) : (s.setCtr p i c v).fresh = s.fresh := rfl
@[simp] theorem State.setCtr_out (p : Page) (i c : Nat) (v : Counter) : (s.setCtr p i c v).out = s.out := rfl
@[simp] theorem State.setCtr_word (p : Page) (i c : Nat) (v : Counter) (key : RegKey) : (s.setCtr p i c v).word key = s.word key :=
  congrArg (fun m => mget (resetWord key) m key) (State.setCtr_regs s p i c v)
@[simp] theorem State.setCtr_rd (p : Page) (i c : Nat) (v : Counter) (fld : Fld) (inst obj : Nat) : (s.setCtr p i c v).rd fld inst obj = s.rd fld inst obj := by
  simp [State.rd]
@[simp] theorem State.setCtr_on (p : Page) (i c : Nat) (v : Counter) (fld : Fld) (inst obj : Nat) : (s.setCtr p i c v).on fld inst obj = s.on fld inst obj := by
  simp [State.on]
@[simp] theorem State.setCtr_ready (p : Page) (i c : Nat) (v : Counter) (pg : Page) (inst : Nat) : (s.setCtr p i c v).ready pg inst = s.ready pg inst := by
  simp [State.ready]
@[simp] theorem State.setCtr_mode (p : Page) (i c : Nat) (v : Counter) : (s.setCtr p i c v).mode = s.mode := by
  simp [State.mode]
@[simp] theorem State.setCtr_lane (p : Page) (i c : Nat) (v : Counter) (at_ : Nat) : (s.setCtr p i c v).lane at_ = s.lane at_ := by
  simp only [State.lane, State.setCtr_lanes]
@[simp] theorem State.setCtr_port (p : Page) (i c : Nat) (v : Counter) (at_ : Nat) : (s.setCtr p i c v).port at_ = s.port at_ := by
  simp only [State.port, State.setCtr_ports]
@[simp] theorem State.setCtr_otnp (p : Page) (i c : Nat) (v : Counter) (at_ : Nat) : (s.setCtr p i c v).otnp at_ = s.otnp at_ := by
  simp only [State.otnp, State.setCtr_otn]
@[simp] theorem State.setCtr_slot (p : Page) (i c : Nat) (v : Counter) (at_ : Nat) : (s.setCtr p i c v).slot at_ = s.slot at_ := by
  simp only [State.slot, State.setCtr_vault]
@[simp] theorem State.setCtr_asn (p : Page) (i c : Nat) (v : Counter) (at_ : Nat) : (s.setCtr p i c v).asn at_ = s.asn at_ := by
  simp only [State.asn, State.setCtr_assocs]
@[simp] theorem State.setCtr_link (p : Page) (i c : Nat) (v : Counter) (at_ : Nat) : (s.setCtr p i c v).link at_ = s.link at_ := by
  simp only [State.link, State.setCtr_kindle]
@[simp] theorem State.setCtr_chim (p : Page) (i c : Nat) (v : Counter) (at_ : Nat) : (s.setCtr p i c v).chim at_ = s.chim at_ := by
  simp only [State.chim, State.setCtr_chims]
@[simp] theorem State.setCtr_sealRt (p : Page) (i c : Nat) (v : Counter) (at_ : Nat) : (s.setCtr p i c v).sealRt at_ = s.sealRt at_ := by
  simp only [State.sealRt, State.setCtr_seals]
@[simp] theorem State.setCtr_sliceRt (p : Page) (i c : Nat) (v : Counter) (at_ : Nat) : (s.setCtr p i c v).sliceRt at_ = s.sliceRt at_ := by
  simp only [State.sliceRt, State.setCtr_slices]
@[simp] theorem State.setCtr_region (p : Page) (i c : Nat) (v : Counter) (at_ : Nat) : (s.setCtr p i c v).region at_ = s.region at_ := by
  simp only [State.region, State.setCtr_regions]
@[simp] theorem State.setCtr_cage (p : Page) (i c : Nat) (v : Counter) (at_ : Nat) : (s.setCtr p i c v).cage at_ = s.cage at_ := by
  simp only [State.cage, State.setCtr_cages]

/-! ### modRep -/

@[simp] theorem State.modRep_pending (f : Report → Report) : (s.modRep f).pending = s.pending := rfl
@[simp] theorem State.modRep_tick (f : Report → Report) : (s.modRep f).tick = s.tick := rfl
@[simp] theorem State.modRep_cycle (f : Report → Report) : (s.modRep f).cycle = s.cycle := rfl
@[simp] theorem State.modRep_regs (f : Report → Report) : (s.modRep f).regs = s.regs := rfl
@[simp] theorem State.modRep_sched (f : Report → Report) : (s.modRep f).sched = s.sched := rfl
@[simp] theorem State.modRep_pwr (f : Report → Report) : (s.modRep f).pwr = s.pwr := rfl
@[simp] theorem State.modRep_lanes (f : Report → Report) : (s.modRep f).lanes = s.lanes := rfl
@[simp] theorem State.modRep_ports (f : Report → Report) : (s.modRep f).ports = s.ports := rfl
@[simp] theorem State.modRep_otn (f : Report → Report) : (s.modRep f).otn = s.otn := rfl
@[simp] theorem State.modRep_assocs (f : Report → Report) : (s.modRep f).assocs = s.assocs := rfl
@[simp] theorem State.modRep_fwd (f : Report → Report) : (s.modRep f).fwd = s.fwd := rfl
@[simp] theorem State.modRep_vault (f : Report → Report) : (s.modRep f).vault = s.vault := rfl
@[simp] theorem State.modRep_chims (f : Report → Report) : (s.modRep f).chims = s.chims := rfl
@[simp] theorem State.modRep_hearth (f : Report → Report) : (s.modRep f).hearth = s.hearth := rfl
@[simp] theorem State.modRep_kindle (f : Report → Report) : (s.modRep f).kindle = s.kindle := rfl
@[simp] theorem State.modRep_seals (f : Report → Report) : (s.modRep f).seals = s.seals := rfl
@[simp] theorem State.modRep_time (f : Report → Report) : (s.modRep f).time = s.time := rfl
@[simp] theorem State.modRep_slices (f : Report → Report) : (s.modRep f).slices = s.slices := rfl
@[simp] theorem State.modRep_msix (f : Report → Report) : (s.modRep f).msix = s.msix := rfl
@[simp] theorem State.modRep_pair (f : Report → Report) : (s.modRep f).pair = s.pair := rfl
@[simp] theorem State.modRep_tamper (f : Report → Report) : (s.modRep f).tamper = s.tamper := rfl
@[simp] theorem State.modRep_officer (f : Report → Report) : (s.modRep f).officer = s.officer := rfl
@[simp] theorem State.modRep_cages (f : Report → Report) : (s.modRep f).cages = s.cages := rfl
@[simp] theorem State.modRep_regions (f : Report → Report) : (s.modRep f).regions = s.regions := rfl
@[simp] theorem State.modRep_reinit (f : Report → Report) : (s.modRep f).reinit = s.reinit := rfl
@[simp] theorem State.modRep_asnBusy (f : Report → Report) : (s.modRep f).asnBusy = s.asnBusy := rfl
@[simp] theorem State.modRep_fresh (f : Report → Report) : (s.modRep f).fresh = s.fresh := rfl
@[simp] theorem State.modRep_out (f : Report → Report) : (s.modRep f).out = s.out := rfl
@[simp] theorem State.modRep_word (f : Report → Report) (key : RegKey) : (s.modRep f).word key = s.word key :=
  congrArg (fun m => mget (resetWord key) m key) (State.modRep_regs s f)
@[simp] theorem State.modRep_rd (f : Report → Report) (fld : Fld) (inst obj : Nat) : (s.modRep f).rd fld inst obj = s.rd fld inst obj := by
  simp [State.rd]
@[simp] theorem State.modRep_on (f : Report → Report) (fld : Fld) (inst obj : Nat) : (s.modRep f).on fld inst obj = s.on fld inst obj := by
  simp [State.on]
@[simp] theorem State.modRep_ready (f : Report → Report) (pg : Page) (inst : Nat) : (s.modRep f).ready pg inst = s.ready pg inst := by
  simp [State.ready]
@[simp] theorem State.modRep_mode (f : Report → Report) : (s.modRep f).mode = s.mode := by
  simp [State.mode]
@[simp] theorem State.modRep_lane (f : Report → Report) (at_ : Nat) : (s.modRep f).lane at_ = s.lane at_ := by
  simp only [State.lane, State.modRep_lanes]
@[simp] theorem State.modRep_port (f : Report → Report) (at_ : Nat) : (s.modRep f).port at_ = s.port at_ := by
  simp only [State.port, State.modRep_ports]
@[simp] theorem State.modRep_otnp (f : Report → Report) (at_ : Nat) : (s.modRep f).otnp at_ = s.otnp at_ := by
  simp only [State.otnp, State.modRep_otn]
@[simp] theorem State.modRep_slot (f : Report → Report) (at_ : Nat) : (s.modRep f).slot at_ = s.slot at_ := by
  simp only [State.slot, State.modRep_vault]
@[simp] theorem State.modRep_asn (f : Report → Report) (at_ : Nat) : (s.modRep f).asn at_ = s.asn at_ := by
  simp only [State.asn, State.modRep_assocs]
@[simp] theorem State.modRep_link (f : Report → Report) (at_ : Nat) : (s.modRep f).link at_ = s.link at_ := by
  simp only [State.link, State.modRep_kindle]
@[simp] theorem State.modRep_chim (f : Report → Report) (at_ : Nat) : (s.modRep f).chim at_ = s.chim at_ := by
  simp only [State.chim, State.modRep_chims]
@[simp] theorem State.modRep_sealRt (f : Report → Report) (at_ : Nat) : (s.modRep f).sealRt at_ = s.sealRt at_ := by
  simp only [State.sealRt, State.modRep_seals]
@[simp] theorem State.modRep_sliceRt (f : Report → Report) (at_ : Nat) : (s.modRep f).sliceRt at_ = s.sliceRt at_ := by
  simp only [State.sliceRt, State.modRep_slices]
@[simp] theorem State.modRep_region (f : Report → Report) (at_ : Nat) : (s.modRep f).region at_ = s.region at_ := by
  simp only [State.region, State.modRep_regions]
@[simp] theorem State.modRep_cage (f : Report → Report) (at_ : Nat) : (s.modRep f).cage at_ = s.cage at_ := by
  simp only [State.cage, State.modRep_cages]

/-! ### modTamper -/

@[simp] theorem State.modTamper_pending (f : Tamper → Tamper) : (s.modTamper f).pending = s.pending := rfl
@[simp] theorem State.modTamper_tick (f : Tamper → Tamper) : (s.modTamper f).tick = s.tick := rfl
@[simp] theorem State.modTamper_cycle (f : Tamper → Tamper) : (s.modTamper f).cycle = s.cycle := rfl
@[simp] theorem State.modTamper_regs (f : Tamper → Tamper) : (s.modTamper f).regs = s.regs := rfl
@[simp] theorem State.modTamper_sched (f : Tamper → Tamper) : (s.modTamper f).sched = s.sched := rfl
@[simp] theorem State.modTamper_rep (f : Tamper → Tamper) : (s.modTamper f).rep = s.rep := rfl
@[simp] theorem State.modTamper_pwr (f : Tamper → Tamper) : (s.modTamper f).pwr = s.pwr := rfl
@[simp] theorem State.modTamper_lanes (f : Tamper → Tamper) : (s.modTamper f).lanes = s.lanes := rfl
@[simp] theorem State.modTamper_ports (f : Tamper → Tamper) : (s.modTamper f).ports = s.ports := rfl
@[simp] theorem State.modTamper_otn (f : Tamper → Tamper) : (s.modTamper f).otn = s.otn := rfl
@[simp] theorem State.modTamper_assocs (f : Tamper → Tamper) : (s.modTamper f).assocs = s.assocs := rfl
@[simp] theorem State.modTamper_fwd (f : Tamper → Tamper) : (s.modTamper f).fwd = s.fwd := rfl
@[simp] theorem State.modTamper_vault (f : Tamper → Tamper) : (s.modTamper f).vault = s.vault := rfl
@[simp] theorem State.modTamper_chims (f : Tamper → Tamper) : (s.modTamper f).chims = s.chims := rfl
@[simp] theorem State.modTamper_hearth (f : Tamper → Tamper) : (s.modTamper f).hearth = s.hearth := rfl
@[simp] theorem State.modTamper_kindle (f : Tamper → Tamper) : (s.modTamper f).kindle = s.kindle := rfl
@[simp] theorem State.modTamper_seals (f : Tamper → Tamper) : (s.modTamper f).seals = s.seals := rfl
@[simp] theorem State.modTamper_time (f : Tamper → Tamper) : (s.modTamper f).time = s.time := rfl
@[simp] theorem State.modTamper_slices (f : Tamper → Tamper) : (s.modTamper f).slices = s.slices := rfl
@[simp] theorem State.modTamper_msix (f : Tamper → Tamper) : (s.modTamper f).msix = s.msix := rfl
@[simp] theorem State.modTamper_pair (f : Tamper → Tamper) : (s.modTamper f).pair = s.pair := rfl
@[simp] theorem State.modTamper_officer (f : Tamper → Tamper) : (s.modTamper f).officer = s.officer := rfl
@[simp] theorem State.modTamper_cages (f : Tamper → Tamper) : (s.modTamper f).cages = s.cages := rfl
@[simp] theorem State.modTamper_regions (f : Tamper → Tamper) : (s.modTamper f).regions = s.regions := rfl
@[simp] theorem State.modTamper_reinit (f : Tamper → Tamper) : (s.modTamper f).reinit = s.reinit := rfl
@[simp] theorem State.modTamper_asnBusy (f : Tamper → Tamper) : (s.modTamper f).asnBusy = s.asnBusy := rfl
@[simp] theorem State.modTamper_fresh (f : Tamper → Tamper) : (s.modTamper f).fresh = s.fresh := rfl
@[simp] theorem State.modTamper_out (f : Tamper → Tamper) : (s.modTamper f).out = s.out := rfl
@[simp] theorem State.modTamper_word (f : Tamper → Tamper) (key : RegKey) : (s.modTamper f).word key = s.word key :=
  congrArg (fun m => mget (resetWord key) m key) (State.modTamper_regs s f)
@[simp] theorem State.modTamper_rd (f : Tamper → Tamper) (fld : Fld) (inst obj : Nat) : (s.modTamper f).rd fld inst obj = s.rd fld inst obj := by
  simp [State.rd]
@[simp] theorem State.modTamper_on (f : Tamper → Tamper) (fld : Fld) (inst obj : Nat) : (s.modTamper f).on fld inst obj = s.on fld inst obj := by
  simp [State.on]
@[simp] theorem State.modTamper_ready (f : Tamper → Tamper) (pg : Page) (inst : Nat) : (s.modTamper f).ready pg inst = s.ready pg inst := by
  simp [State.ready]
@[simp] theorem State.modTamper_mode (f : Tamper → Tamper) : (s.modTamper f).mode = s.mode := by
  simp [State.mode]
@[simp] theorem State.modTamper_evtWord (f : Tamper → Tamper) (key : RegKey) : (s.modTamper f).evtWord key = s.evtWord key := by
  simp only [State.evtWord, State.modTamper_rep]
@[simp] theorem State.modTamper_evt (f : Tamper → Tamper) (fld : Fld) (inst : Nat) : (s.modTamper f).evt fld inst = s.evt fld inst := by
  simp only [State.evt, State.modTamper_rep]
@[simp] theorem State.modTamper_lane (f : Tamper → Tamper) (at_ : Nat) : (s.modTamper f).lane at_ = s.lane at_ := by
  simp only [State.lane, State.modTamper_lanes]
@[simp] theorem State.modTamper_port (f : Tamper → Tamper) (at_ : Nat) : (s.modTamper f).port at_ = s.port at_ := by
  simp only [State.port, State.modTamper_ports]
@[simp] theorem State.modTamper_otnp (f : Tamper → Tamper) (at_ : Nat) : (s.modTamper f).otnp at_ = s.otnp at_ := by
  simp only [State.otnp, State.modTamper_otn]
@[simp] theorem State.modTamper_slot (f : Tamper → Tamper) (at_ : Nat) : (s.modTamper f).slot at_ = s.slot at_ := by
  simp only [State.slot, State.modTamper_vault]
@[simp] theorem State.modTamper_asn (f : Tamper → Tamper) (at_ : Nat) : (s.modTamper f).asn at_ = s.asn at_ := by
  simp only [State.asn, State.modTamper_assocs]
@[simp] theorem State.modTamper_link (f : Tamper → Tamper) (at_ : Nat) : (s.modTamper f).link at_ = s.link at_ := by
  simp only [State.link, State.modTamper_kindle]
@[simp] theorem State.modTamper_chim (f : Tamper → Tamper) (at_ : Nat) : (s.modTamper f).chim at_ = s.chim at_ := by
  simp only [State.chim, State.modTamper_chims]
@[simp] theorem State.modTamper_sealRt (f : Tamper → Tamper) (at_ : Nat) : (s.modTamper f).sealRt at_ = s.sealRt at_ := by
  simp only [State.sealRt, State.modTamper_seals]
@[simp] theorem State.modTamper_sliceRt (f : Tamper → Tamper) (at_ : Nat) : (s.modTamper f).sliceRt at_ = s.sliceRt at_ := by
  simp only [State.sliceRt, State.modTamper_slices]
@[simp] theorem State.modTamper_region (f : Tamper → Tamper) (at_ : Nat) : (s.modTamper f).region at_ = s.region at_ := by
  simp only [State.region, State.modTamper_regions]
@[simp] theorem State.modTamper_cage (f : Tamper → Tamper) (at_ : Nat) : (s.modTamper f).cage at_ = s.cage at_ := by
  simp only [State.cage, State.modTamper_cages]

/-! ### modOfc -/

@[simp] theorem State.modOfc_pending (f : Officer → Officer) : (s.modOfc f).pending = s.pending := rfl
@[simp] theorem State.modOfc_tick (f : Officer → Officer) : (s.modOfc f).tick = s.tick := rfl
@[simp] theorem State.modOfc_cycle (f : Officer → Officer) : (s.modOfc f).cycle = s.cycle := rfl
@[simp] theorem State.modOfc_regs (f : Officer → Officer) : (s.modOfc f).regs = s.regs := rfl
@[simp] theorem State.modOfc_sched (f : Officer → Officer) : (s.modOfc f).sched = s.sched := rfl
@[simp] theorem State.modOfc_rep (f : Officer → Officer) : (s.modOfc f).rep = s.rep := rfl
@[simp] theorem State.modOfc_pwr (f : Officer → Officer) : (s.modOfc f).pwr = s.pwr := rfl
@[simp] theorem State.modOfc_lanes (f : Officer → Officer) : (s.modOfc f).lanes = s.lanes := rfl
@[simp] theorem State.modOfc_ports (f : Officer → Officer) : (s.modOfc f).ports = s.ports := rfl
@[simp] theorem State.modOfc_otn (f : Officer → Officer) : (s.modOfc f).otn = s.otn := rfl
@[simp] theorem State.modOfc_assocs (f : Officer → Officer) : (s.modOfc f).assocs = s.assocs := rfl
@[simp] theorem State.modOfc_fwd (f : Officer → Officer) : (s.modOfc f).fwd = s.fwd := rfl
@[simp] theorem State.modOfc_vault (f : Officer → Officer) : (s.modOfc f).vault = s.vault := rfl
@[simp] theorem State.modOfc_chims (f : Officer → Officer) : (s.modOfc f).chims = s.chims := rfl
@[simp] theorem State.modOfc_hearth (f : Officer → Officer) : (s.modOfc f).hearth = s.hearth := rfl
@[simp] theorem State.modOfc_kindle (f : Officer → Officer) : (s.modOfc f).kindle = s.kindle := rfl
@[simp] theorem State.modOfc_seals (f : Officer → Officer) : (s.modOfc f).seals = s.seals := rfl
@[simp] theorem State.modOfc_time (f : Officer → Officer) : (s.modOfc f).time = s.time := rfl
@[simp] theorem State.modOfc_slices (f : Officer → Officer) : (s.modOfc f).slices = s.slices := rfl
@[simp] theorem State.modOfc_msix (f : Officer → Officer) : (s.modOfc f).msix = s.msix := rfl
@[simp] theorem State.modOfc_pair (f : Officer → Officer) : (s.modOfc f).pair = s.pair := rfl
@[simp] theorem State.modOfc_tamper (f : Officer → Officer) : (s.modOfc f).tamper = s.tamper := rfl
@[simp] theorem State.modOfc_cages (f : Officer → Officer) : (s.modOfc f).cages = s.cages := rfl
@[simp] theorem State.modOfc_regions (f : Officer → Officer) : (s.modOfc f).regions = s.regions := rfl
@[simp] theorem State.modOfc_reinit (f : Officer → Officer) : (s.modOfc f).reinit = s.reinit := rfl
@[simp] theorem State.modOfc_asnBusy (f : Officer → Officer) : (s.modOfc f).asnBusy = s.asnBusy := rfl
@[simp] theorem State.modOfc_fresh (f : Officer → Officer) : (s.modOfc f).fresh = s.fresh := rfl
@[simp] theorem State.modOfc_out (f : Officer → Officer) : (s.modOfc f).out = s.out := rfl
@[simp] theorem State.modOfc_word (f : Officer → Officer) (key : RegKey) : (s.modOfc f).word key = s.word key :=
  congrArg (fun m => mget (resetWord key) m key) (State.modOfc_regs s f)
@[simp] theorem State.modOfc_rd (f : Officer → Officer) (fld : Fld) (inst obj : Nat) : (s.modOfc f).rd fld inst obj = s.rd fld inst obj := by
  simp [State.rd]
@[simp] theorem State.modOfc_on (f : Officer → Officer) (fld : Fld) (inst obj : Nat) : (s.modOfc f).on fld inst obj = s.on fld inst obj := by
  simp [State.on]
@[simp] theorem State.modOfc_ready (f : Officer → Officer) (pg : Page) (inst : Nat) : (s.modOfc f).ready pg inst = s.ready pg inst := by
  simp [State.ready]
@[simp] theorem State.modOfc_mode (f : Officer → Officer) : (s.modOfc f).mode = s.mode := by
  simp [State.mode]
@[simp] theorem State.modOfc_evtWord (f : Officer → Officer) (key : RegKey) : (s.modOfc f).evtWord key = s.evtWord key := by
  simp only [State.evtWord, State.modOfc_rep]
@[simp] theorem State.modOfc_evt (f : Officer → Officer) (fld : Fld) (inst : Nat) : (s.modOfc f).evt fld inst = s.evt fld inst := by
  simp only [State.evt, State.modOfc_rep]
@[simp] theorem State.modOfc_lane (f : Officer → Officer) (at_ : Nat) : (s.modOfc f).lane at_ = s.lane at_ := by
  simp only [State.lane, State.modOfc_lanes]
@[simp] theorem State.modOfc_port (f : Officer → Officer) (at_ : Nat) : (s.modOfc f).port at_ = s.port at_ := by
  simp only [State.port, State.modOfc_ports]
@[simp] theorem State.modOfc_otnp (f : Officer → Officer) (at_ : Nat) : (s.modOfc f).otnp at_ = s.otnp at_ := by
  simp only [State.otnp, State.modOfc_otn]
@[simp] theorem State.modOfc_slot (f : Officer → Officer) (at_ : Nat) : (s.modOfc f).slot at_ = s.slot at_ := by
  simp only [State.slot, State.modOfc_vault]
@[simp] theorem State.modOfc_asn (f : Officer → Officer) (at_ : Nat) : (s.modOfc f).asn at_ = s.asn at_ := by
  simp only [State.asn, State.modOfc_assocs]
@[simp] theorem State.modOfc_link (f : Officer → Officer) (at_ : Nat) : (s.modOfc f).link at_ = s.link at_ := by
  simp only [State.link, State.modOfc_kindle]
@[simp] theorem State.modOfc_chim (f : Officer → Officer) (at_ : Nat) : (s.modOfc f).chim at_ = s.chim at_ := by
  simp only [State.chim, State.modOfc_chims]
@[simp] theorem State.modOfc_sealRt (f : Officer → Officer) (at_ : Nat) : (s.modOfc f).sealRt at_ = s.sealRt at_ := by
  simp only [State.sealRt, State.modOfc_seals]
@[simp] theorem State.modOfc_sliceRt (f : Officer → Officer) (at_ : Nat) : (s.modOfc f).sliceRt at_ = s.sliceRt at_ := by
  simp only [State.sliceRt, State.modOfc_slices]
@[simp] theorem State.modOfc_region (f : Officer → Officer) (at_ : Nat) : (s.modOfc f).region at_ = s.region at_ := by
  simp only [State.region, State.modOfc_regions]
@[simp] theorem State.modOfc_cage (f : Officer → Officer) (at_ : Nat) : (s.modOfc f).cage at_ = s.cage at_ := by
  simp only [State.cage, State.modOfc_cages]

/-! ### modCage -/

@[simp] theorem State.modCage_pending (b : Nat) (f : Cage → Cage) : (s.modCage b f).pending = s.pending := rfl
@[simp] theorem State.modCage_tick (b : Nat) (f : Cage → Cage) : (s.modCage b f).tick = s.tick := rfl
@[simp] theorem State.modCage_cycle (b : Nat) (f : Cage → Cage) : (s.modCage b f).cycle = s.cycle := rfl
@[simp] theorem State.modCage_regs (b : Nat) (f : Cage → Cage) : (s.modCage b f).regs = s.regs := rfl
@[simp] theorem State.modCage_sched (b : Nat) (f : Cage → Cage) : (s.modCage b f).sched = s.sched := rfl
@[simp] theorem State.modCage_rep (b : Nat) (f : Cage → Cage) : (s.modCage b f).rep = s.rep := rfl
@[simp] theorem State.modCage_pwr (b : Nat) (f : Cage → Cage) : (s.modCage b f).pwr = s.pwr := rfl
@[simp] theorem State.modCage_lanes (b : Nat) (f : Cage → Cage) : (s.modCage b f).lanes = s.lanes := rfl
@[simp] theorem State.modCage_ports (b : Nat) (f : Cage → Cage) : (s.modCage b f).ports = s.ports := rfl
@[simp] theorem State.modCage_otn (b : Nat) (f : Cage → Cage) : (s.modCage b f).otn = s.otn := rfl
@[simp] theorem State.modCage_assocs (b : Nat) (f : Cage → Cage) : (s.modCage b f).assocs = s.assocs := rfl
@[simp] theorem State.modCage_fwd (b : Nat) (f : Cage → Cage) : (s.modCage b f).fwd = s.fwd := rfl
@[simp] theorem State.modCage_vault (b : Nat) (f : Cage → Cage) : (s.modCage b f).vault = s.vault := rfl
@[simp] theorem State.modCage_chims (b : Nat) (f : Cage → Cage) : (s.modCage b f).chims = s.chims := rfl
@[simp] theorem State.modCage_hearth (b : Nat) (f : Cage → Cage) : (s.modCage b f).hearth = s.hearth := rfl
@[simp] theorem State.modCage_kindle (b : Nat) (f : Cage → Cage) : (s.modCage b f).kindle = s.kindle := rfl
@[simp] theorem State.modCage_seals (b : Nat) (f : Cage → Cage) : (s.modCage b f).seals = s.seals := rfl
@[simp] theorem State.modCage_time (b : Nat) (f : Cage → Cage) : (s.modCage b f).time = s.time := rfl
@[simp] theorem State.modCage_slices (b : Nat) (f : Cage → Cage) : (s.modCage b f).slices = s.slices := rfl
@[simp] theorem State.modCage_msix (b : Nat) (f : Cage → Cage) : (s.modCage b f).msix = s.msix := rfl
@[simp] theorem State.modCage_pair (b : Nat) (f : Cage → Cage) : (s.modCage b f).pair = s.pair := rfl
@[simp] theorem State.modCage_tamper (b : Nat) (f : Cage → Cage) : (s.modCage b f).tamper = s.tamper := rfl
@[simp] theorem State.modCage_officer (b : Nat) (f : Cage → Cage) : (s.modCage b f).officer = s.officer := rfl
@[simp] theorem State.modCage_regions (b : Nat) (f : Cage → Cage) : (s.modCage b f).regions = s.regions := rfl
@[simp] theorem State.modCage_reinit (b : Nat) (f : Cage → Cage) : (s.modCage b f).reinit = s.reinit := rfl
@[simp] theorem State.modCage_asnBusy (b : Nat) (f : Cage → Cage) : (s.modCage b f).asnBusy = s.asnBusy := rfl
@[simp] theorem State.modCage_fresh (b : Nat) (f : Cage → Cage) : (s.modCage b f).fresh = s.fresh := rfl
@[simp] theorem State.modCage_out (b : Nat) (f : Cage → Cage) : (s.modCage b f).out = s.out := rfl
@[simp] theorem State.modCage_word (b : Nat) (f : Cage → Cage) (key : RegKey) : (s.modCage b f).word key = s.word key :=
  congrArg (fun m => mget (resetWord key) m key) (State.modCage_regs s b f)
@[simp] theorem State.modCage_rd (b : Nat) (f : Cage → Cage) (fld : Fld) (inst obj : Nat) : (s.modCage b f).rd fld inst obj = s.rd fld inst obj := by
  simp [State.rd]
@[simp] theorem State.modCage_on (b : Nat) (f : Cage → Cage) (fld : Fld) (inst obj : Nat) : (s.modCage b f).on fld inst obj = s.on fld inst obj := by
  simp [State.on]
@[simp] theorem State.modCage_ready (b : Nat) (f : Cage → Cage) (pg : Page) (inst : Nat) : (s.modCage b f).ready pg inst = s.ready pg inst := by
  simp [State.ready]
@[simp] theorem State.modCage_mode (b : Nat) (f : Cage → Cage) : (s.modCage b f).mode = s.mode := by
  simp [State.mode]
@[simp] theorem State.modCage_evtWord (b : Nat) (f : Cage → Cage) (key : RegKey) : (s.modCage b f).evtWord key = s.evtWord key := by
  simp only [State.evtWord, State.modCage_rep]
@[simp] theorem State.modCage_evt (b : Nat) (f : Cage → Cage) (fld : Fld) (inst : Nat) : (s.modCage b f).evt fld inst = s.evt fld inst := by
  simp only [State.evt, State.modCage_rep]
@[simp] theorem State.modCage_lane (b : Nat) (f : Cage → Cage) (at_ : Nat) : (s.modCage b f).lane at_ = s.lane at_ := by
  simp only [State.lane, State.modCage_lanes]
@[simp] theorem State.modCage_port (b : Nat) (f : Cage → Cage) (at_ : Nat) : (s.modCage b f).port at_ = s.port at_ := by
  simp only [State.port, State.modCage_ports]
@[simp] theorem State.modCage_otnp (b : Nat) (f : Cage → Cage) (at_ : Nat) : (s.modCage b f).otnp at_ = s.otnp at_ := by
  simp only [State.otnp, State.modCage_otn]
@[simp] theorem State.modCage_slot (b : Nat) (f : Cage → Cage) (at_ : Nat) : (s.modCage b f).slot at_ = s.slot at_ := by
  simp only [State.slot, State.modCage_vault]
@[simp] theorem State.modCage_asn (b : Nat) (f : Cage → Cage) (at_ : Nat) : (s.modCage b f).asn at_ = s.asn at_ := by
  simp only [State.asn, State.modCage_assocs]
@[simp] theorem State.modCage_link (b : Nat) (f : Cage → Cage) (at_ : Nat) : (s.modCage b f).link at_ = s.link at_ := by
  simp only [State.link, State.modCage_kindle]
@[simp] theorem State.modCage_chim (b : Nat) (f : Cage → Cage) (at_ : Nat) : (s.modCage b f).chim at_ = s.chim at_ := by
  simp only [State.chim, State.modCage_chims]
@[simp] theorem State.modCage_sealRt (b : Nat) (f : Cage → Cage) (at_ : Nat) : (s.modCage b f).sealRt at_ = s.sealRt at_ := by
  simp only [State.sealRt, State.modCage_seals]
@[simp] theorem State.modCage_sliceRt (b : Nat) (f : Cage → Cage) (at_ : Nat) : (s.modCage b f).sliceRt at_ = s.sliceRt at_ := by
  simp only [State.sliceRt, State.modCage_slices]
@[simp] theorem State.modCage_region (b : Nat) (f : Cage → Cage) (at_ : Nat) : (s.modCage b f).region at_ = s.region at_ := by
  simp only [State.region, State.modCage_regions]

/-! ### modHearth -/

@[simp] theorem State.modHearth_pending (f : Hearth → Hearth) : (s.modHearth f).pending = s.pending := rfl
@[simp] theorem State.modHearth_tick (f : Hearth → Hearth) : (s.modHearth f).tick = s.tick := rfl
@[simp] theorem State.modHearth_cycle (f : Hearth → Hearth) : (s.modHearth f).cycle = s.cycle := rfl
@[simp] theorem State.modHearth_regs (f : Hearth → Hearth) : (s.modHearth f).regs = s.regs := rfl
@[simp] theorem State.modHearth_sched (f : Hearth → Hearth) : (s.modHearth f).sched = s.sched := rfl
@[simp] theorem State.modHearth_rep (f : Hearth → Hearth) : (s.modHearth f).rep = s.rep := rfl
@[simp] theorem State.modHearth_pwr (f : Hearth → Hearth) : (s.modHearth f).pwr = s.pwr := rfl
@[simp] theorem State.modHearth_lanes (f : Hearth → Hearth) : (s.modHearth f).lanes = s.lanes := rfl
@[simp] theorem State.modHearth_ports (f : Hearth → Hearth) : (s.modHearth f).ports = s.ports := rfl
@[simp] theorem State.modHearth_otn (f : Hearth → Hearth) : (s.modHearth f).otn = s.otn := rfl
@[simp] theorem State.modHearth_assocs (f : Hearth → Hearth) : (s.modHearth f).assocs = s.assocs := rfl
@[simp] theorem State.modHearth_fwd (f : Hearth → Hearth) : (s.modHearth f).fwd = s.fwd := rfl
@[simp] theorem State.modHearth_vault (f : Hearth → Hearth) : (s.modHearth f).vault = s.vault := rfl
@[simp] theorem State.modHearth_chims (f : Hearth → Hearth) : (s.modHearth f).chims = s.chims := rfl
@[simp] theorem State.modHearth_kindle (f : Hearth → Hearth) : (s.modHearth f).kindle = s.kindle := rfl
@[simp] theorem State.modHearth_seals (f : Hearth → Hearth) : (s.modHearth f).seals = s.seals := rfl
@[simp] theorem State.modHearth_time (f : Hearth → Hearth) : (s.modHearth f).time = s.time := rfl
@[simp] theorem State.modHearth_slices (f : Hearth → Hearth) : (s.modHearth f).slices = s.slices := rfl
@[simp] theorem State.modHearth_msix (f : Hearth → Hearth) : (s.modHearth f).msix = s.msix := rfl
@[simp] theorem State.modHearth_pair (f : Hearth → Hearth) : (s.modHearth f).pair = s.pair := rfl
@[simp] theorem State.modHearth_tamper (f : Hearth → Hearth) : (s.modHearth f).tamper = s.tamper := rfl
@[simp] theorem State.modHearth_officer (f : Hearth → Hearth) : (s.modHearth f).officer = s.officer := rfl
@[simp] theorem State.modHearth_cages (f : Hearth → Hearth) : (s.modHearth f).cages = s.cages := rfl
@[simp] theorem State.modHearth_regions (f : Hearth → Hearth) : (s.modHearth f).regions = s.regions := rfl
@[simp] theorem State.modHearth_reinit (f : Hearth → Hearth) : (s.modHearth f).reinit = s.reinit := rfl
@[simp] theorem State.modHearth_asnBusy (f : Hearth → Hearth) : (s.modHearth f).asnBusy = s.asnBusy := rfl
@[simp] theorem State.modHearth_fresh (f : Hearth → Hearth) : (s.modHearth f).fresh = s.fresh := rfl
@[simp] theorem State.modHearth_out (f : Hearth → Hearth) : (s.modHearth f).out = s.out := rfl
@[simp] theorem State.modHearth_word (f : Hearth → Hearth) (key : RegKey) : (s.modHearth f).word key = s.word key :=
  congrArg (fun m => mget (resetWord key) m key) (State.modHearth_regs s f)
@[simp] theorem State.modHearth_rd (f : Hearth → Hearth) (fld : Fld) (inst obj : Nat) : (s.modHearth f).rd fld inst obj = s.rd fld inst obj := by
  simp [State.rd]
@[simp] theorem State.modHearth_on (f : Hearth → Hearth) (fld : Fld) (inst obj : Nat) : (s.modHearth f).on fld inst obj = s.on fld inst obj := by
  simp [State.on]
@[simp] theorem State.modHearth_ready (f : Hearth → Hearth) (pg : Page) (inst : Nat) : (s.modHearth f).ready pg inst = s.ready pg inst := by
  simp [State.ready]
@[simp] theorem State.modHearth_mode (f : Hearth → Hearth) : (s.modHearth f).mode = s.mode := by
  simp [State.mode]
@[simp] theorem State.modHearth_evtWord (f : Hearth → Hearth) (key : RegKey) : (s.modHearth f).evtWord key = s.evtWord key := by
  simp only [State.evtWord, State.modHearth_rep]
@[simp] theorem State.modHearth_evt (f : Hearth → Hearth) (fld : Fld) (inst : Nat) : (s.modHearth f).evt fld inst = s.evt fld inst := by
  simp only [State.evt, State.modHearth_rep]
@[simp] theorem State.modHearth_lane (f : Hearth → Hearth) (at_ : Nat) : (s.modHearth f).lane at_ = s.lane at_ := by
  simp only [State.lane, State.modHearth_lanes]
@[simp] theorem State.modHearth_port (f : Hearth → Hearth) (at_ : Nat) : (s.modHearth f).port at_ = s.port at_ := by
  simp only [State.port, State.modHearth_ports]
@[simp] theorem State.modHearth_otnp (f : Hearth → Hearth) (at_ : Nat) : (s.modHearth f).otnp at_ = s.otnp at_ := by
  simp only [State.otnp, State.modHearth_otn]
@[simp] theorem State.modHearth_slot (f : Hearth → Hearth) (at_ : Nat) : (s.modHearth f).slot at_ = s.slot at_ := by
  simp only [State.slot, State.modHearth_vault]
@[simp] theorem State.modHearth_asn (f : Hearth → Hearth) (at_ : Nat) : (s.modHearth f).asn at_ = s.asn at_ := by
  simp only [State.asn, State.modHearth_assocs]
@[simp] theorem State.modHearth_link (f : Hearth → Hearth) (at_ : Nat) : (s.modHearth f).link at_ = s.link at_ := by
  simp only [State.link, State.modHearth_kindle]
@[simp] theorem State.modHearth_chim (f : Hearth → Hearth) (at_ : Nat) : (s.modHearth f).chim at_ = s.chim at_ := by
  simp only [State.chim, State.modHearth_chims]
@[simp] theorem State.modHearth_sealRt (f : Hearth → Hearth) (at_ : Nat) : (s.modHearth f).sealRt at_ = s.sealRt at_ := by
  simp only [State.sealRt, State.modHearth_seals]
@[simp] theorem State.modHearth_sliceRt (f : Hearth → Hearth) (at_ : Nat) : (s.modHearth f).sliceRt at_ = s.sliceRt at_ := by
  simp only [State.sliceRt, State.modHearth_slices]
@[simp] theorem State.modHearth_region (f : Hearth → Hearth) (at_ : Nat) : (s.modHearth f).region at_ = s.region at_ := by
  simp only [State.region, State.modHearth_regions]
@[simp] theorem State.modHearth_cage (f : Hearth → Hearth) (at_ : Nat) : (s.modHearth f).cage at_ = s.cage at_ := by
  simp only [State.cage, State.modHearth_cages]

/-! ### setLink -/

@[simp] theorem State.setLink_pending (k : Nat) (l : Link) : (s.setLink k l).pending = s.pending := rfl
@[simp] theorem State.setLink_tick (k : Nat) (l : Link) : (s.setLink k l).tick = s.tick := rfl
@[simp] theorem State.setLink_cycle (k : Nat) (l : Link) : (s.setLink k l).cycle = s.cycle := rfl
@[simp] theorem State.setLink_regs (k : Nat) (l : Link) : (s.setLink k l).regs = s.regs := rfl
@[simp] theorem State.setLink_sched (k : Nat) (l : Link) : (s.setLink k l).sched = s.sched := rfl
@[simp] theorem State.setLink_rep (k : Nat) (l : Link) : (s.setLink k l).rep = s.rep := rfl
@[simp] theorem State.setLink_pwr (k : Nat) (l : Link) : (s.setLink k l).pwr = s.pwr := rfl
@[simp] theorem State.setLink_lanes (k : Nat) (l : Link) : (s.setLink k l).lanes = s.lanes := rfl
@[simp] theorem State.setLink_ports (k : Nat) (l : Link) : (s.setLink k l).ports = s.ports := rfl
@[simp] theorem State.setLink_otn (k : Nat) (l : Link) : (s.setLink k l).otn = s.otn := rfl
@[simp] theorem State.setLink_assocs (k : Nat) (l : Link) : (s.setLink k l).assocs = s.assocs := rfl
@[simp] theorem State.setLink_fwd (k : Nat) (l : Link) : (s.setLink k l).fwd = s.fwd := rfl
@[simp] theorem State.setLink_vault (k : Nat) (l : Link) : (s.setLink k l).vault = s.vault := rfl
@[simp] theorem State.setLink_chims (k : Nat) (l : Link) : (s.setLink k l).chims = s.chims := rfl
@[simp] theorem State.setLink_hearth (k : Nat) (l : Link) : (s.setLink k l).hearth = s.hearth := rfl
@[simp] theorem State.setLink_seals (k : Nat) (l : Link) : (s.setLink k l).seals = s.seals := rfl
@[simp] theorem State.setLink_time (k : Nat) (l : Link) : (s.setLink k l).time = s.time := rfl
@[simp] theorem State.setLink_slices (k : Nat) (l : Link) : (s.setLink k l).slices = s.slices := rfl
@[simp] theorem State.setLink_msix (k : Nat) (l : Link) : (s.setLink k l).msix = s.msix := rfl
@[simp] theorem State.setLink_pair (k : Nat) (l : Link) : (s.setLink k l).pair = s.pair := rfl
@[simp] theorem State.setLink_tamper (k : Nat) (l : Link) : (s.setLink k l).tamper = s.tamper := rfl
@[simp] theorem State.setLink_officer (k : Nat) (l : Link) : (s.setLink k l).officer = s.officer := rfl
@[simp] theorem State.setLink_cages (k : Nat) (l : Link) : (s.setLink k l).cages = s.cages := rfl
@[simp] theorem State.setLink_regions (k : Nat) (l : Link) : (s.setLink k l).regions = s.regions := rfl
@[simp] theorem State.setLink_reinit (k : Nat) (l : Link) : (s.setLink k l).reinit = s.reinit := rfl
@[simp] theorem State.setLink_asnBusy (k : Nat) (l : Link) : (s.setLink k l).asnBusy = s.asnBusy := rfl
@[simp] theorem State.setLink_fresh (k : Nat) (l : Link) : (s.setLink k l).fresh = s.fresh := rfl
@[simp] theorem State.setLink_out (k : Nat) (l : Link) : (s.setLink k l).out = s.out := rfl
@[simp] theorem State.setLink_word (k : Nat) (l : Link) (key : RegKey) : (s.setLink k l).word key = s.word key :=
  congrArg (fun m => mget (resetWord key) m key) (State.setLink_regs s k l)
@[simp] theorem State.setLink_rd (k : Nat) (l : Link) (fld : Fld) (inst obj : Nat) : (s.setLink k l).rd fld inst obj = s.rd fld inst obj := by
  simp [State.rd]
@[simp] theorem State.setLink_on (k : Nat) (l : Link) (fld : Fld) (inst obj : Nat) : (s.setLink k l).on fld inst obj = s.on fld inst obj := by
  simp [State.on]
@[simp] theorem State.setLink_ready (k : Nat) (l : Link) (pg : Page) (inst : Nat) : (s.setLink k l).ready pg inst = s.ready pg inst := by
  simp [State.ready]
@[simp] theorem State.setLink_mode (k : Nat) (l : Link) : (s.setLink k l).mode = s.mode := by
  simp [State.mode]
@[simp] theorem State.setLink_evtWord (k : Nat) (l : Link) (key : RegKey) : (s.setLink k l).evtWord key = s.evtWord key := by
  simp only [State.evtWord, State.setLink_rep]
@[simp] theorem State.setLink_evt (k : Nat) (l : Link) (fld : Fld) (inst : Nat) : (s.setLink k l).evt fld inst = s.evt fld inst := by
  simp only [State.evt, State.setLink_rep]
@[simp] theorem State.setLink_lane (k : Nat) (l : Link) (at_ : Nat) : (s.setLink k l).lane at_ = s.lane at_ := by
  simp only [State.lane, State.setLink_lanes]
@[simp] theorem State.setLink_port (k : Nat) (l : Link) (at_ : Nat) : (s.setLink k l).port at_ = s.port at_ := by
  simp only [State.port, State.setLink_ports]
@[simp] theorem State.setLink_otnp (k : Nat) (l : Link) (at_ : Nat) : (s.setLink k l).otnp at_ = s.otnp at_ := by
  simp only [State.otnp, State.setLink_otn]
@[simp] theorem State.setLink_slot (k : Nat) (l : Link) (at_ : Nat) : (s.setLink k l).slot at_ = s.slot at_ := by
  simp only [State.slot, State.setLink_vault]
@[simp] theorem State.setLink_asn (k : Nat) (l : Link) (at_ : Nat) : (s.setLink k l).asn at_ = s.asn at_ := by
  simp only [State.asn, State.setLink_assocs]
@[simp] theorem State.setLink_chim (k : Nat) (l : Link) (at_ : Nat) : (s.setLink k l).chim at_ = s.chim at_ := by
  simp only [State.chim, State.setLink_chims]
@[simp] theorem State.setLink_sealRt (k : Nat) (l : Link) (at_ : Nat) : (s.setLink k l).sealRt at_ = s.sealRt at_ := by
  simp only [State.sealRt, State.setLink_seals]
@[simp] theorem State.setLink_sliceRt (k : Nat) (l : Link) (at_ : Nat) : (s.setLink k l).sliceRt at_ = s.sliceRt at_ := by
  simp only [State.sliceRt, State.setLink_slices]
@[simp] theorem State.setLink_region (k : Nat) (l : Link) (at_ : Nat) : (s.setLink k l).region at_ = s.region at_ := by
  simp only [State.region, State.setLink_regions]
@[simp] theorem State.setLink_cage (k : Nat) (l : Link) (at_ : Nat) : (s.setLink k l).cage at_ = s.cage at_ := by
  simp only [State.cage, State.setLink_cages]

/-! ### modLink -/

@[simp] theorem State.modLink_pending (k : Nat) (f : Link → Link) : (s.modLink k f).pending = s.pending := rfl
@[simp] theorem State.modLink_tick (k : Nat) (f : Link → Link) : (s.modLink k f).tick = s.tick := rfl
@[simp] theorem State.modLink_cycle (k : Nat) (f : Link → Link) : (s.modLink k f).cycle = s.cycle := rfl
@[simp] theorem State.modLink_regs (k : Nat) (f : Link → Link) : (s.modLink k f).regs = s.regs := rfl
@[simp] theorem State.modLink_sched (k : Nat) (f : Link → Link) : (s.modLink k f).sched = s.sched := rfl
@[simp] theorem State.modLink_rep (k : Nat) (f : Link → Link) : (s.modLink k f).rep = s.rep := rfl
@[simp] theorem State.modLink_pwr (k : Nat) (f : Link → Link) : (s.modLink k f).pwr = s.pwr := rfl
@[simp] theorem State.modLink_lanes (k : Nat) (f : Link → Link) : (s.modLink k f).lanes = s.lanes := rfl
@[simp] theorem State.modLink_ports (k : Nat) (f : Link → Link) : (s.modLink k f).ports = s.ports := rfl
@[simp] theorem State.modLink_otn (k : Nat) (f : Link → Link) : (s.modLink k f).otn = s.otn := rfl
@[simp] theorem State.modLink_assocs (k : Nat) (f : Link → Link) : (s.modLink k f).assocs = s.assocs := rfl
@[simp] theorem State.modLink_fwd (k : Nat) (f : Link → Link) : (s.modLink k f).fwd = s.fwd := rfl
@[simp] theorem State.modLink_vault (k : Nat) (f : Link → Link) : (s.modLink k f).vault = s.vault := rfl
@[simp] theorem State.modLink_chims (k : Nat) (f : Link → Link) : (s.modLink k f).chims = s.chims := rfl
@[simp] theorem State.modLink_hearth (k : Nat) (f : Link → Link) : (s.modLink k f).hearth = s.hearth := rfl
@[simp] theorem State.modLink_seals (k : Nat) (f : Link → Link) : (s.modLink k f).seals = s.seals := rfl
@[simp] theorem State.modLink_time (k : Nat) (f : Link → Link) : (s.modLink k f).time = s.time := rfl
@[simp] theorem State.modLink_slices (k : Nat) (f : Link → Link) : (s.modLink k f).slices = s.slices := rfl
@[simp] theorem State.modLink_msix (k : Nat) (f : Link → Link) : (s.modLink k f).msix = s.msix := rfl
@[simp] theorem State.modLink_pair (k : Nat) (f : Link → Link) : (s.modLink k f).pair = s.pair := rfl
@[simp] theorem State.modLink_tamper (k : Nat) (f : Link → Link) : (s.modLink k f).tamper = s.tamper := rfl
@[simp] theorem State.modLink_officer (k : Nat) (f : Link → Link) : (s.modLink k f).officer = s.officer := rfl
@[simp] theorem State.modLink_cages (k : Nat) (f : Link → Link) : (s.modLink k f).cages = s.cages := rfl
@[simp] theorem State.modLink_regions (k : Nat) (f : Link → Link) : (s.modLink k f).regions = s.regions := rfl
@[simp] theorem State.modLink_reinit (k : Nat) (f : Link → Link) : (s.modLink k f).reinit = s.reinit := rfl
@[simp] theorem State.modLink_asnBusy (k : Nat) (f : Link → Link) : (s.modLink k f).asnBusy = s.asnBusy := rfl
@[simp] theorem State.modLink_fresh (k : Nat) (f : Link → Link) : (s.modLink k f).fresh = s.fresh := rfl
@[simp] theorem State.modLink_out (k : Nat) (f : Link → Link) : (s.modLink k f).out = s.out := rfl
@[simp] theorem State.modLink_word (k : Nat) (f : Link → Link) (key : RegKey) : (s.modLink k f).word key = s.word key :=
  congrArg (fun m => mget (resetWord key) m key) (State.modLink_regs s k f)
@[simp] theorem State.modLink_rd (k : Nat) (f : Link → Link) (fld : Fld) (inst obj : Nat) : (s.modLink k f).rd fld inst obj = s.rd fld inst obj := by
  simp [State.rd]
@[simp] theorem State.modLink_on (k : Nat) (f : Link → Link) (fld : Fld) (inst obj : Nat) : (s.modLink k f).on fld inst obj = s.on fld inst obj := by
  simp [State.on]
@[simp] theorem State.modLink_ready (k : Nat) (f : Link → Link) (pg : Page) (inst : Nat) : (s.modLink k f).ready pg inst = s.ready pg inst := by
  simp [State.ready]
@[simp] theorem State.modLink_mode (k : Nat) (f : Link → Link) : (s.modLink k f).mode = s.mode := by
  simp [State.mode]
@[simp] theorem State.modLink_evtWord (k : Nat) (f : Link → Link) (key : RegKey) : (s.modLink k f).evtWord key = s.evtWord key := by
  simp only [State.evtWord, State.modLink_rep]
@[simp] theorem State.modLink_evt (k : Nat) (f : Link → Link) (fld : Fld) (inst : Nat) : (s.modLink k f).evt fld inst = s.evt fld inst := by
  simp only [State.evt, State.modLink_rep]
@[simp] theorem State.modLink_lane (k : Nat) (f : Link → Link) (at_ : Nat) : (s.modLink k f).lane at_ = s.lane at_ := by
  simp only [State.lane, State.modLink_lanes]
@[simp] theorem State.modLink_port (k : Nat) (f : Link → Link) (at_ : Nat) : (s.modLink k f).port at_ = s.port at_ := by
  simp only [State.port, State.modLink_ports]
@[simp] theorem State.modLink_otnp (k : Nat) (f : Link → Link) (at_ : Nat) : (s.modLink k f).otnp at_ = s.otnp at_ := by
  simp only [State.otnp, State.modLink_otn]
@[simp] theorem State.modLink_slot (k : Nat) (f : Link → Link) (at_ : Nat) : (s.modLink k f).slot at_ = s.slot at_ := by
  simp only [State.slot, State.modLink_vault]
@[simp] theorem State.modLink_asn (k : Nat) (f : Link → Link) (at_ : Nat) : (s.modLink k f).asn at_ = s.asn at_ := by
  simp only [State.asn, State.modLink_assocs]
@[simp] theorem State.modLink_chim (k : Nat) (f : Link → Link) (at_ : Nat) : (s.modLink k f).chim at_ = s.chim at_ := by
  simp only [State.chim, State.modLink_chims]
@[simp] theorem State.modLink_sealRt (k : Nat) (f : Link → Link) (at_ : Nat) : (s.modLink k f).sealRt at_ = s.sealRt at_ := by
  simp only [State.sealRt, State.modLink_seals]
@[simp] theorem State.modLink_sliceRt (k : Nat) (f : Link → Link) (at_ : Nat) : (s.modLink k f).sliceRt at_ = s.sliceRt at_ := by
  simp only [State.sliceRt, State.modLink_slices]
@[simp] theorem State.modLink_region (k : Nat) (f : Link → Link) (at_ : Nat) : (s.modLink k f).region at_ = s.region at_ := by
  simp only [State.region, State.modLink_regions]
@[simp] theorem State.modLink_cage (k : Nat) (f : Link → Link) (at_ : Nat) : (s.modLink k f).cage at_ = s.cage at_ := by
  simp only [State.cage, State.modLink_cages]

/-! ### modPwr -/

@[simp] theorem State.modPwr_pending (f : Power → Power) : (s.modPwr f).pending = s.pending := rfl
@[simp] theorem State.modPwr_tick (f : Power → Power) : (s.modPwr f).tick = s.tick := rfl
@[simp] theorem State.modPwr_cycle (f : Power → Power) : (s.modPwr f).cycle = s.cycle := rfl
@[simp] theorem State.modPwr_regs (f : Power → Power) : (s.modPwr f).regs = s.regs := rfl
@[simp] theorem State.modPwr_sched (f : Power → Power) : (s.modPwr f).sched = s.sched := rfl
@[simp] theorem State.modPwr_rep (f : Power → Power) : (s.modPwr f).rep = s.rep := rfl
@[simp] theorem State.modPwr_lanes (f : Power → Power) : (s.modPwr f).lanes = s.lanes := rfl
@[simp] theorem State.modPwr_ports (f : Power → Power) : (s.modPwr f).ports = s.ports := rfl
@[simp] theorem State.modPwr_otn (f : Power → Power) : (s.modPwr f).otn = s.otn := rfl
@[simp] theorem State.modPwr_assocs (f : Power → Power) : (s.modPwr f).assocs = s.assocs := rfl
@[simp] theorem State.modPwr_fwd (f : Power → Power) : (s.modPwr f).fwd = s.fwd := rfl
@[simp] theorem State.modPwr_vault (f : Power → Power) : (s.modPwr f).vault = s.vault := rfl
@[simp] theorem State.modPwr_chims (f : Power → Power) : (s.modPwr f).chims = s.chims := rfl
@[simp] theorem State.modPwr_hearth (f : Power → Power) : (s.modPwr f).hearth = s.hearth := rfl
@[simp] theorem State.modPwr_kindle (f : Power → Power) : (s.modPwr f).kindle = s.kindle := rfl
@[simp] theorem State.modPwr_seals (f : Power → Power) : (s.modPwr f).seals = s.seals := rfl
@[simp] theorem State.modPwr_time (f : Power → Power) : (s.modPwr f).time = s.time := rfl
@[simp] theorem State.modPwr_slices (f : Power → Power) : (s.modPwr f).slices = s.slices := rfl
@[simp] theorem State.modPwr_msix (f : Power → Power) : (s.modPwr f).msix = s.msix := rfl
@[simp] theorem State.modPwr_pair (f : Power → Power) : (s.modPwr f).pair = s.pair := rfl
@[simp] theorem State.modPwr_tamper (f : Power → Power) : (s.modPwr f).tamper = s.tamper := rfl
@[simp] theorem State.modPwr_officer (f : Power → Power) : (s.modPwr f).officer = s.officer := rfl
@[simp] theorem State.modPwr_cages (f : Power → Power) : (s.modPwr f).cages = s.cages := rfl
@[simp] theorem State.modPwr_regions (f : Power → Power) : (s.modPwr f).regions = s.regions := rfl
@[simp] theorem State.modPwr_reinit (f : Power → Power) : (s.modPwr f).reinit = s.reinit := rfl
@[simp] theorem State.modPwr_asnBusy (f : Power → Power) : (s.modPwr f).asnBusy = s.asnBusy := rfl
@[simp] theorem State.modPwr_fresh (f : Power → Power) : (s.modPwr f).fresh = s.fresh := rfl
@[simp] theorem State.modPwr_out (f : Power → Power) : (s.modPwr f).out = s.out := rfl
@[simp] theorem State.modPwr_word (f : Power → Power) (key : RegKey) : (s.modPwr f).word key = s.word key :=
  congrArg (fun m => mget (resetWord key) m key) (State.modPwr_regs s f)
@[simp] theorem State.modPwr_rd (f : Power → Power) (fld : Fld) (inst obj : Nat) : (s.modPwr f).rd fld inst obj = s.rd fld inst obj := by
  simp [State.rd]
@[simp] theorem State.modPwr_on (f : Power → Power) (fld : Fld) (inst obj : Nat) : (s.modPwr f).on fld inst obj = s.on fld inst obj := by
  simp [State.on]
@[simp] theorem State.modPwr_ready (f : Power → Power) (pg : Page) (inst : Nat) : (s.modPwr f).ready pg inst = s.ready pg inst := by
  simp [State.ready]
@[simp] theorem State.modPwr_mode (f : Power → Power) : (s.modPwr f).mode = s.mode := by
  simp [State.mode]
@[simp] theorem State.modPwr_evtWord (f : Power → Power) (key : RegKey) : (s.modPwr f).evtWord key = s.evtWord key := by
  simp only [State.evtWord, State.modPwr_rep]
@[simp] theorem State.modPwr_evt (f : Power → Power) (fld : Fld) (inst : Nat) : (s.modPwr f).evt fld inst = s.evt fld inst := by
  simp only [State.evt, State.modPwr_rep]
@[simp] theorem State.modPwr_lane (f : Power → Power) (at_ : Nat) : (s.modPwr f).lane at_ = s.lane at_ := by
  simp only [State.lane, State.modPwr_lanes]
@[simp] theorem State.modPwr_port (f : Power → Power) (at_ : Nat) : (s.modPwr f).port at_ = s.port at_ := by
  simp only [State.port, State.modPwr_ports]
@[simp] theorem State.modPwr_otnp (f : Power → Power) (at_ : Nat) : (s.modPwr f).otnp at_ = s.otnp at_ := by
  simp only [State.otnp, State.modPwr_otn]
@[simp] theorem State.modPwr_slot (f : Power → Power) (at_ : Nat) : (s.modPwr f).slot at_ = s.slot at_ := by
  simp only [State.slot, State.modPwr_vault]
@[simp] theorem State.modPwr_asn (f : Power → Power) (at_ : Nat) : (s.modPwr f).asn at_ = s.asn at_ := by
  simp only [State.asn, State.modPwr_assocs]
@[simp] theorem State.modPwr_link (f : Power → Power) (at_ : Nat) : (s.modPwr f).link at_ = s.link at_ := by
  simp only [State.link, State.modPwr_kindle]
@[simp] theorem State.modPwr_chim (f : Power → Power) (at_ : Nat) : (s.modPwr f).chim at_ = s.chim at_ := by
  simp only [State.chim, State.modPwr_chims]
@[simp] theorem State.modPwr_sealRt (f : Power → Power) (at_ : Nat) : (s.modPwr f).sealRt at_ = s.sealRt at_ := by
  simp only [State.sealRt, State.modPwr_seals]
@[simp] theorem State.modPwr_sliceRt (f : Power → Power) (at_ : Nat) : (s.modPwr f).sliceRt at_ = s.sliceRt at_ := by
  simp only [State.sliceRt, State.modPwr_slices]
@[simp] theorem State.modPwr_region (f : Power → Power) (at_ : Nat) : (s.modPwr f).region at_ = s.region at_ := by
  simp only [State.region, State.modPwr_regions]
@[simp] theorem State.modPwr_cage (f : Power → Power) (at_ : Nat) : (s.modPwr f).cage at_ = s.cage at_ := by
  simp only [State.cage, State.modPwr_cages]

/-! ### modPair -/

@[simp] theorem State.modPair_pending (f : Pair → Pair) : (s.modPair f).pending = s.pending := rfl
@[simp] theorem State.modPair_tick (f : Pair → Pair) : (s.modPair f).tick = s.tick := rfl
@[simp] theorem State.modPair_cycle (f : Pair → Pair) : (s.modPair f).cycle = s.cycle := rfl
@[simp] theorem State.modPair_regs (f : Pair → Pair) : (s.modPair f).regs = s.regs := rfl
@[simp] theorem State.modPair_sched (f : Pair → Pair) : (s.modPair f).sched = s.sched := rfl
@[simp] theorem State.modPair_rep (f : Pair → Pair) : (s.modPair f).rep = s.rep := rfl
@[simp] theorem State.modPair_pwr (f : Pair → Pair) : (s.modPair f).pwr = s.pwr := rfl
@[simp] theorem State.modPair_lanes (f : Pair → Pair) : (s.modPair f).lanes = s.lanes := rfl
@[simp] theorem State.modPair_ports (f : Pair → Pair) : (s.modPair f).ports = s.ports := rfl
@[simp] theorem State.modPair_otn (f : Pair → Pair) : (s.modPair f).otn = s.otn := rfl
@[simp] theorem State.modPair_assocs (f : Pair → Pair) : (s.modPair f).assocs = s.assocs := rfl
@[simp] theorem State.modPair_fwd (f : Pair → Pair) : (s.modPair f).fwd = s.fwd := rfl
@[simp] theorem State.modPair_vault (f : Pair → Pair) : (s.modPair f).vault = s.vault := rfl
@[simp] theorem State.modPair_chims (f : Pair → Pair) : (s.modPair f).chims = s.chims := rfl
@[simp] theorem State.modPair_hearth (f : Pair → Pair) : (s.modPair f).hearth = s.hearth := rfl
@[simp] theorem State.modPair_kindle (f : Pair → Pair) : (s.modPair f).kindle = s.kindle := rfl
@[simp] theorem State.modPair_seals (f : Pair → Pair) : (s.modPair f).seals = s.seals := rfl
@[simp] theorem State.modPair_time (f : Pair → Pair) : (s.modPair f).time = s.time := rfl
@[simp] theorem State.modPair_slices (f : Pair → Pair) : (s.modPair f).slices = s.slices := rfl
@[simp] theorem State.modPair_msix (f : Pair → Pair) : (s.modPair f).msix = s.msix := rfl
@[simp] theorem State.modPair_tamper (f : Pair → Pair) : (s.modPair f).tamper = s.tamper := rfl
@[simp] theorem State.modPair_officer (f : Pair → Pair) : (s.modPair f).officer = s.officer := rfl
@[simp] theorem State.modPair_cages (f : Pair → Pair) : (s.modPair f).cages = s.cages := rfl
@[simp] theorem State.modPair_regions (f : Pair → Pair) : (s.modPair f).regions = s.regions := rfl
@[simp] theorem State.modPair_reinit (f : Pair → Pair) : (s.modPair f).reinit = s.reinit := rfl
@[simp] theorem State.modPair_asnBusy (f : Pair → Pair) : (s.modPair f).asnBusy = s.asnBusy := rfl
@[simp] theorem State.modPair_fresh (f : Pair → Pair) : (s.modPair f).fresh = s.fresh := rfl
@[simp] theorem State.modPair_out (f : Pair → Pair) : (s.modPair f).out = s.out := rfl
@[simp] theorem State.modPair_word (f : Pair → Pair) (key : RegKey) : (s.modPair f).word key = s.word key :=
  congrArg (fun m => mget (resetWord key) m key) (State.modPair_regs s f)
@[simp] theorem State.modPair_rd (f : Pair → Pair) (fld : Fld) (inst obj : Nat) : (s.modPair f).rd fld inst obj = s.rd fld inst obj := by
  simp [State.rd]
@[simp] theorem State.modPair_on (f : Pair → Pair) (fld : Fld) (inst obj : Nat) : (s.modPair f).on fld inst obj = s.on fld inst obj := by
  simp [State.on]
@[simp] theorem State.modPair_ready (f : Pair → Pair) (pg : Page) (inst : Nat) : (s.modPair f).ready pg inst = s.ready pg inst := by
  simp [State.ready]
@[simp] theorem State.modPair_mode (f : Pair → Pair) : (s.modPair f).mode = s.mode := by
  simp [State.mode]
@[simp] theorem State.modPair_evtWord (f : Pair → Pair) (key : RegKey) : (s.modPair f).evtWord key = s.evtWord key := by
  simp only [State.evtWord, State.modPair_rep]
@[simp] theorem State.modPair_evt (f : Pair → Pair) (fld : Fld) (inst : Nat) : (s.modPair f).evt fld inst = s.evt fld inst := by
  simp only [State.evt, State.modPair_rep]
@[simp] theorem State.modPair_lane (f : Pair → Pair) (at_ : Nat) : (s.modPair f).lane at_ = s.lane at_ := by
  simp only [State.lane, State.modPair_lanes]
@[simp] theorem State.modPair_port (f : Pair → Pair) (at_ : Nat) : (s.modPair f).port at_ = s.port at_ := by
  simp only [State.port, State.modPair_ports]
@[simp] theorem State.modPair_otnp (f : Pair → Pair) (at_ : Nat) : (s.modPair f).otnp at_ = s.otnp at_ := by
  simp only [State.otnp, State.modPair_otn]
@[simp] theorem State.modPair_slot (f : Pair → Pair) (at_ : Nat) : (s.modPair f).slot at_ = s.slot at_ := by
  simp only [State.slot, State.modPair_vault]
@[simp] theorem State.modPair_asn (f : Pair → Pair) (at_ : Nat) : (s.modPair f).asn at_ = s.asn at_ := by
  simp only [State.asn, State.modPair_assocs]
@[simp] theorem State.modPair_link (f : Pair → Pair) (at_ : Nat) : (s.modPair f).link at_ = s.link at_ := by
  simp only [State.link, State.modPair_kindle]
@[simp] theorem State.modPair_chim (f : Pair → Pair) (at_ : Nat) : (s.modPair f).chim at_ = s.chim at_ := by
  simp only [State.chim, State.modPair_chims]
@[simp] theorem State.modPair_sealRt (f : Pair → Pair) (at_ : Nat) : (s.modPair f).sealRt at_ = s.sealRt at_ := by
  simp only [State.sealRt, State.modPair_seals]
@[simp] theorem State.modPair_sliceRt (f : Pair → Pair) (at_ : Nat) : (s.modPair f).sliceRt at_ = s.sliceRt at_ := by
  simp only [State.sliceRt, State.modPair_slices]
@[simp] theorem State.modPair_region (f : Pair → Pair) (at_ : Nat) : (s.modPair f).region at_ = s.region at_ := by
  simp only [State.region, State.modPair_regions]
@[simp] theorem State.modPair_cage (f : Pair → Pair) (at_ : Nat) : (s.modPair f).cage at_ = s.cage at_ := by
  simp only [State.cage, State.modPair_cages]

/-! ### modSeal -/

@[simp] theorem State.modSeal_pending (p : Nat) (f : SealRt → SealRt) : (s.modSeal p f).pending = s.pending := rfl
@[simp] theorem State.modSeal_tick (p : Nat) (f : SealRt → SealRt) : (s.modSeal p f).tick = s.tick := rfl
@[simp] theorem State.modSeal_cycle (p : Nat) (f : SealRt → SealRt) : (s.modSeal p f).cycle = s.cycle := rfl
@[simp] theorem State.modSeal_regs (p : Nat) (f : SealRt → SealRt) : (s.modSeal p f).regs = s.regs := rfl
@[simp] theorem State.modSeal_sched (p : Nat) (f : SealRt → SealRt) : (s.modSeal p f).sched = s.sched := rfl
@[simp] theorem State.modSeal_rep (p : Nat) (f : SealRt → SealRt) : (s.modSeal p f).rep = s.rep := rfl
@[simp] theorem State.modSeal_pwr (p : Nat) (f : SealRt → SealRt) : (s.modSeal p f).pwr = s.pwr := rfl
@[simp] theorem State.modSeal_lanes (p : Nat) (f : SealRt → SealRt) : (s.modSeal p f).lanes = s.lanes := rfl
@[simp] theorem State.modSeal_ports (p : Nat) (f : SealRt → SealRt) : (s.modSeal p f).ports = s.ports := rfl
@[simp] theorem State.modSeal_otn (p : Nat) (f : SealRt → SealRt) : (s.modSeal p f).otn = s.otn := rfl
@[simp] theorem State.modSeal_assocs (p : Nat) (f : SealRt → SealRt) : (s.modSeal p f).assocs = s.assocs := rfl
@[simp] theorem State.modSeal_fwd (p : Nat) (f : SealRt → SealRt) : (s.modSeal p f).fwd = s.fwd := rfl
@[simp] theorem State.modSeal_vault (p : Nat) (f : SealRt → SealRt) : (s.modSeal p f).vault = s.vault := rfl
@[simp] theorem State.modSeal_chims (p : Nat) (f : SealRt → SealRt) : (s.modSeal p f).chims = s.chims := rfl
@[simp] theorem State.modSeal_hearth (p : Nat) (f : SealRt → SealRt) : (s.modSeal p f).hearth = s.hearth := rfl
@[simp] theorem State.modSeal_kindle (p : Nat) (f : SealRt → SealRt) : (s.modSeal p f).kindle = s.kindle := rfl
@[simp] theorem State.modSeal_time (p : Nat) (f : SealRt → SealRt) : (s.modSeal p f).time = s.time := rfl
@[simp] theorem State.modSeal_slices (p : Nat) (f : SealRt → SealRt) : (s.modSeal p f).slices = s.slices := rfl
@[simp] theorem State.modSeal_msix (p : Nat) (f : SealRt → SealRt) : (s.modSeal p f).msix = s.msix := rfl
@[simp] theorem State.modSeal_pair (p : Nat) (f : SealRt → SealRt) : (s.modSeal p f).pair = s.pair := rfl
@[simp] theorem State.modSeal_tamper (p : Nat) (f : SealRt → SealRt) : (s.modSeal p f).tamper = s.tamper := rfl
@[simp] theorem State.modSeal_officer (p : Nat) (f : SealRt → SealRt) : (s.modSeal p f).officer = s.officer := rfl
@[simp] theorem State.modSeal_cages (p : Nat) (f : SealRt → SealRt) : (s.modSeal p f).cages = s.cages := rfl
@[simp] theorem State.modSeal_regions (p : Nat) (f : SealRt → SealRt) : (s.modSeal p f).regions = s.regions := rfl
@[simp] theorem State.modSeal_reinit (p : Nat) (f : SealRt → SealRt) : (s.modSeal p f).reinit = s.reinit := rfl
@[simp] theorem State.modSeal_asnBusy (p : Nat) (f : SealRt → SealRt) : (s.modSeal p f).asnBusy = s.asnBusy := rfl
@[simp] theorem State.modSeal_fresh (p : Nat) (f : SealRt → SealRt) : (s.modSeal p f).fresh = s.fresh := rfl
@[simp] theorem State.modSeal_out (p : Nat) (f : SealRt → SealRt) : (s.modSeal p f).out = s.out := rfl
@[simp] theorem State.modSeal_word (p : Nat) (f : SealRt → SealRt) (key : RegKey) : (s.modSeal p f).word key = s.word key :=
  congrArg (fun m => mget (resetWord key) m key) (State.modSeal_regs s p f)
@[simp] theorem State.modSeal_rd (p : Nat) (f : SealRt → SealRt) (fld : Fld) (inst obj : Nat) : (s.modSeal p f).rd fld inst obj = s.rd fld inst obj := by
  simp [State.rd]
@[simp] theorem State.modSeal_on (p : Nat) (f : SealRt → SealRt) (fld : Fld) (inst obj : Nat) : (s.modSeal p f).on fld inst obj = s.on fld inst obj := by
  simp [State.on]
@[simp] theorem State.modSeal_ready (p : Nat) (f : SealRt → SealRt) (pg : Page) (inst : Nat) : (s.modSeal p f).ready pg inst = s.ready pg inst := by
  simp [State.ready]
@[simp] theorem State.modSeal_mode (p : Nat) (f : SealRt → SealRt) : (s.modSeal p f).mode = s.mode := by
  simp [State.mode]
@[simp] theorem State.modSeal_evtWord (p : Nat) (f : SealRt → SealRt) (key : RegKey) : (s.modSeal p f).evtWord key = s.evtWord key := by
  simp only [State.evtWord, State.modSeal_rep]
@[simp] theorem State.modSeal_evt (p : Nat) (f : SealRt → SealRt) (fld : Fld) (inst : Nat) : (s.modSeal p f).evt fld inst = s.evt fld inst := by
  simp only [State.evt, State.modSeal_rep]
@[simp] theorem State.modSeal_lane (p : Nat) (f : SealRt → SealRt) (at_ : Nat) : (s.modSeal p f).lane at_ = s.lane at_ := by
  simp only [State.lane, State.modSeal_lanes]
@[simp] theorem State.modSeal_port (p : Nat) (f : SealRt → SealRt) (at_ : Nat) : (s.modSeal p f).port at_ = s.port at_ := by
  simp only [State.port, State.modSeal_ports]
@[simp] theorem State.modSeal_otnp (p : Nat) (f : SealRt → SealRt) (at_ : Nat) : (s.modSeal p f).otnp at_ = s.otnp at_ := by
  simp only [State.otnp, State.modSeal_otn]
@[simp] theorem State.modSeal_slot (p : Nat) (f : SealRt → SealRt) (at_ : Nat) : (s.modSeal p f).slot at_ = s.slot at_ := by
  simp only [State.slot, State.modSeal_vault]
@[simp] theorem State.modSeal_asn (p : Nat) (f : SealRt → SealRt) (at_ : Nat) : (s.modSeal p f).asn at_ = s.asn at_ := by
  simp only [State.asn, State.modSeal_assocs]
@[simp] theorem State.modSeal_link (p : Nat) (f : SealRt → SealRt) (at_ : Nat) : (s.modSeal p f).link at_ = s.link at_ := by
  simp only [State.link, State.modSeal_kindle]
@[simp] theorem State.modSeal_chim (p : Nat) (f : SealRt → SealRt) (at_ : Nat) : (s.modSeal p f).chim at_ = s.chim at_ := by
  simp only [State.chim, State.modSeal_chims]
@[simp] theorem State.modSeal_sliceRt (p : Nat) (f : SealRt → SealRt) (at_ : Nat) : (s.modSeal p f).sliceRt at_ = s.sliceRt at_ := by
  simp only [State.sliceRt, State.modSeal_slices]
@[simp] theorem State.modSeal_region (p : Nat) (f : SealRt → SealRt) (at_ : Nat) : (s.modSeal p f).region at_ = s.region at_ := by
  simp only [State.region, State.modSeal_regions]
@[simp] theorem State.modSeal_cage (p : Nat) (f : SealRt → SealRt) (at_ : Nat) : (s.modSeal p f).cage at_ = s.cage at_ := by
  simp only [State.cage, State.modSeal_cages]

/-! ### modSlice -/

@[simp] theorem State.modSlice_pending (n : Nat) (f : SliceRt → SliceRt) : (s.modSlice n f).pending = s.pending := rfl
@[simp] theorem State.modSlice_tick (n : Nat) (f : SliceRt → SliceRt) : (s.modSlice n f).tick = s.tick := rfl
@[simp] theorem State.modSlice_cycle (n : Nat) (f : SliceRt → SliceRt) : (s.modSlice n f).cycle = s.cycle := rfl
@[simp] theorem State.modSlice_regs (n : Nat) (f : SliceRt → SliceRt) : (s.modSlice n f).regs = s.regs := rfl
@[simp] theorem State.modSlice_sched (n : Nat) (f : SliceRt → SliceRt) : (s.modSlice n f).sched = s.sched := rfl
@[simp] theorem State.modSlice_rep (n : Nat) (f : SliceRt → SliceRt) : (s.modSlice n f).rep = s.rep := rfl
@[simp] theorem State.modSlice_pwr (n : Nat) (f : SliceRt → SliceRt) : (s.modSlice n f).pwr = s.pwr := rfl
@[simp] theorem State.modSlice_lanes (n : Nat) (f : SliceRt → SliceRt) : (s.modSlice n f).lanes = s.lanes := rfl
@[simp] theorem State.modSlice_ports (n : Nat) (f : SliceRt → SliceRt) : (s.modSlice n f).ports = s.ports := rfl
@[simp] theorem State.modSlice_otn (n : Nat) (f : SliceRt → SliceRt) : (s.modSlice n f).otn = s.otn := rfl
@[simp] theorem State.modSlice_assocs (n : Nat) (f : SliceRt → SliceRt) : (s.modSlice n f).assocs = s.assocs := rfl
@[simp] theorem State.modSlice_fwd (n : Nat) (f : SliceRt → SliceRt) : (s.modSlice n f).fwd = s.fwd := rfl
@[simp] theorem State.modSlice_vault (n : Nat) (f : SliceRt → SliceRt) : (s.modSlice n f).vault = s.vault := rfl
@[simp] theorem State.modSlice_chims (n : Nat) (f : SliceRt → SliceRt) : (s.modSlice n f).chims = s.chims := rfl
@[simp] theorem State.modSlice_hearth (n : Nat) (f : SliceRt → SliceRt) : (s.modSlice n f).hearth = s.hearth := rfl
@[simp] theorem State.modSlice_kindle (n : Nat) (f : SliceRt → SliceRt) : (s.modSlice n f).kindle = s.kindle := rfl
@[simp] theorem State.modSlice_seals (n : Nat) (f : SliceRt → SliceRt) : (s.modSlice n f).seals = s.seals := rfl
@[simp] theorem State.modSlice_time (n : Nat) (f : SliceRt → SliceRt) : (s.modSlice n f).time = s.time := rfl
@[simp] theorem State.modSlice_msix (n : Nat) (f : SliceRt → SliceRt) : (s.modSlice n f).msix = s.msix := rfl
@[simp] theorem State.modSlice_pair (n : Nat) (f : SliceRt → SliceRt) : (s.modSlice n f).pair = s.pair := rfl
@[simp] theorem State.modSlice_tamper (n : Nat) (f : SliceRt → SliceRt) : (s.modSlice n f).tamper = s.tamper := rfl
@[simp] theorem State.modSlice_officer (n : Nat) (f : SliceRt → SliceRt) : (s.modSlice n f).officer = s.officer := rfl
@[simp] theorem State.modSlice_cages (n : Nat) (f : SliceRt → SliceRt) : (s.modSlice n f).cages = s.cages := rfl
@[simp] theorem State.modSlice_regions (n : Nat) (f : SliceRt → SliceRt) : (s.modSlice n f).regions = s.regions := rfl
@[simp] theorem State.modSlice_reinit (n : Nat) (f : SliceRt → SliceRt) : (s.modSlice n f).reinit = s.reinit := rfl
@[simp] theorem State.modSlice_asnBusy (n : Nat) (f : SliceRt → SliceRt) : (s.modSlice n f).asnBusy = s.asnBusy := rfl
@[simp] theorem State.modSlice_fresh (n : Nat) (f : SliceRt → SliceRt) : (s.modSlice n f).fresh = s.fresh := rfl
@[simp] theorem State.modSlice_out (n : Nat) (f : SliceRt → SliceRt) : (s.modSlice n f).out = s.out := rfl
@[simp] theorem State.modSlice_word (n : Nat) (f : SliceRt → SliceRt) (key : RegKey) : (s.modSlice n f).word key = s.word key :=
  congrArg (fun m => mget (resetWord key) m key) (State.modSlice_regs s n f)
@[simp] theorem State.modSlice_rd (n : Nat) (f : SliceRt → SliceRt) (fld : Fld) (inst obj : Nat) : (s.modSlice n f).rd fld inst obj = s.rd fld inst obj := by
  simp [State.rd]
@[simp] theorem State.modSlice_on (n : Nat) (f : SliceRt → SliceRt) (fld : Fld) (inst obj : Nat) : (s.modSlice n f).on fld inst obj = s.on fld inst obj := by
  simp [State.on]
@[simp] theorem State.modSlice_ready (n : Nat) (f : SliceRt → SliceRt) (pg : Page) (inst : Nat) : (s.modSlice n f).ready pg inst = s.ready pg inst := by
  simp [State.ready]
@[simp] theorem State.modSlice_mode (n : Nat) (f : SliceRt → SliceRt) : (s.modSlice n f).mode = s.mode := by
  simp [State.mode]
@[simp] theorem State.modSlice_evtWord (n : Nat) (f : SliceRt → SliceRt) (key : RegKey) : (s.modSlice n f).evtWord key = s.evtWord key := by
  simp only [State.evtWord, State.modSlice_rep]
@[simp] theorem State.modSlice_evt (n : Nat) (f : SliceRt → SliceRt) (fld : Fld) (inst : Nat) : (s.modSlice n f).evt fld inst = s.evt fld inst := by
  simp only [State.evt, State.modSlice_rep]
@[simp] theorem State.modSlice_lane (n : Nat) (f : SliceRt → SliceRt) (at_ : Nat) : (s.modSlice n f).lane at_ = s.lane at_ := by
  simp only [State.lane, State.modSlice_lanes]
@[simp] theorem State.modSlice_port (n : Nat) (f : SliceRt → SliceRt) (at_ : Nat) : (s.modSlice n f).port at_ = s.port at_ := by
  simp only [State.port, State.modSlice_ports]
@[simp] theorem State.modSlice_otnp (n : Nat) (f : SliceRt → SliceRt) (at_ : Nat) : (s.modSlice n f).otnp at_ = s.otnp at_ := by
  simp only [State.otnp, State.modSlice_otn]
@[simp] theorem State.modSlice_slot (n : Nat) (f : SliceRt → SliceRt) (at_ : Nat) : (s.modSlice n f).slot at_ = s.slot at_ := by
  simp only [State.slot, State.modSlice_vault]
@[simp] theorem State.modSlice_asn (n : Nat) (f : SliceRt → SliceRt) (at_ : Nat) : (s.modSlice n f).asn at_ = s.asn at_ := by
  simp only [State.asn, State.modSlice_assocs]
@[simp] theorem State.modSlice_link (n : Nat) (f : SliceRt → SliceRt) (at_ : Nat) : (s.modSlice n f).link at_ = s.link at_ := by
  simp only [State.link, State.modSlice_kindle]
@[simp] theorem State.modSlice_chim (n : Nat) (f : SliceRt → SliceRt) (at_ : Nat) : (s.modSlice n f).chim at_ = s.chim at_ := by
  simp only [State.chim, State.modSlice_chims]
@[simp] theorem State.modSlice_sealRt (n : Nat) (f : SliceRt → SliceRt) (at_ : Nat) : (s.modSlice n f).sealRt at_ = s.sealRt at_ := by
  simp only [State.sealRt, State.modSlice_seals]
@[simp] theorem State.modSlice_region (n : Nat) (f : SliceRt → SliceRt) (at_ : Nat) : (s.modSlice n f).region at_ = s.region at_ := by
  simp only [State.region, State.modSlice_regions]
@[simp] theorem State.modSlice_cage (n : Nat) (f : SliceRt → SliceRt) (at_ : Nat) : (s.modSlice n f).cage at_ = s.cage at_ := by
  simp only [State.cage, State.modSlice_cages]

/-! ### modRegion -/

@[simp] theorem State.modRegion_pending (r : Nat) (f : Region → Region) : (s.modRegion r f).pending = s.pending := rfl
@[simp] theorem State.modRegion_tick (r : Nat) (f : Region → Region) : (s.modRegion r f).tick = s.tick := rfl
@[simp] theorem State.modRegion_cycle (r : Nat) (f : Region → Region) : (s.modRegion r f).cycle = s.cycle := rfl
@[simp] theorem State.modRegion_regs (r : Nat) (f : Region → Region) : (s.modRegion r f).regs = s.regs := rfl
@[simp] theorem State.modRegion_sched (r : Nat) (f : Region → Region) : (s.modRegion r f).sched = s.sched := rfl
@[simp] theorem State.modRegion_rep (r : Nat) (f : Region → Region) : (s.modRegion r f).rep = s.rep := rfl
@[simp] theorem State.modRegion_pwr (r : Nat) (f : Region → Region) : (s.modRegion r f).pwr = s.pwr := rfl
@[simp] theorem State.modRegion_lanes (r : Nat) (f : Region → Region) : (s.modRegion r f).lanes = s.lanes := rfl
@[simp] theorem State.modRegion_ports (r : Nat) (f : Region → Region) : (s.modRegion r f).ports = s.ports := rfl
@[simp] theorem State.modRegion_otn (r : Nat) (f : Region → Region) : (s.modRegion r f).otn = s.otn := rfl
@[simp] theorem State.modRegion_assocs (r : Nat) (f : Region → Region) : (s.modRegion r f).assocs = s.assocs := rfl
@[simp] theorem State.modRegion_fwd (r : Nat) (f : Region → Region) : (s.modRegion r f).fwd = s.fwd := rfl
@[simp] theorem State.modRegion_vault (r : Nat) (f : Region → Region) : (s.modRegion r f).vault = s.vault := rfl
@[simp] theorem State.modRegion_chims (r : Nat) (f : Region → Region) : (s.modRegion r f).chims = s.chims := rfl
@[simp] theorem State.modRegion_hearth (r : Nat) (f : Region → Region) : (s.modRegion r f).hearth = s.hearth := rfl
@[simp] theorem State.modRegion_kindle (r : Nat) (f : Region → Region) : (s.modRegion r f).kindle = s.kindle := rfl
@[simp] theorem State.modRegion_seals (r : Nat) (f : Region → Region) : (s.modRegion r f).seals = s.seals := rfl
@[simp] theorem State.modRegion_time (r : Nat) (f : Region → Region) : (s.modRegion r f).time = s.time := rfl
@[simp] theorem State.modRegion_slices (r : Nat) (f : Region → Region) : (s.modRegion r f).slices = s.slices := rfl
@[simp] theorem State.modRegion_msix (r : Nat) (f : Region → Region) : (s.modRegion r f).msix = s.msix := rfl
@[simp] theorem State.modRegion_pair (r : Nat) (f : Region → Region) : (s.modRegion r f).pair = s.pair := rfl
@[simp] theorem State.modRegion_tamper (r : Nat) (f : Region → Region) : (s.modRegion r f).tamper = s.tamper := rfl
@[simp] theorem State.modRegion_officer (r : Nat) (f : Region → Region) : (s.modRegion r f).officer = s.officer := rfl
@[simp] theorem State.modRegion_cages (r : Nat) (f : Region → Region) : (s.modRegion r f).cages = s.cages := rfl
@[simp] theorem State.modRegion_reinit (r : Nat) (f : Region → Region) : (s.modRegion r f).reinit = s.reinit := rfl
@[simp] theorem State.modRegion_asnBusy (r : Nat) (f : Region → Region) : (s.modRegion r f).asnBusy = s.asnBusy := rfl
@[simp] theorem State.modRegion_fresh (r : Nat) (f : Region → Region) : (s.modRegion r f).fresh = s.fresh := rfl
@[simp] theorem State.modRegion_out (r : Nat) (f : Region → Region) : (s.modRegion r f).out = s.out := rfl
@[simp] theorem State.modRegion_word (r : Nat) (f : Region → Region) (key : RegKey) : (s.modRegion r f).word key = s.word key :=
  congrArg (fun m => mget (resetWord key) m key) (State.modRegion_regs s r f)
@[simp] theorem State.modRegion_rd (r : Nat) (f : Region → Region) (fld : Fld) (inst obj : Nat) : (s.modRegion r f).rd fld inst obj = s.rd fld inst obj := by
  simp [State.rd]
@[simp] theorem State.modRegion_on (r : Nat) (f : Region → Region) (fld : Fld) (inst obj : Nat) : (s.modRegion r f).on fld inst obj = s.on fld inst obj := by
  simp [State.on]
@[simp] theorem State.modRegion_ready (r : Nat) (f : Region → Region) (pg : Page) (inst : Nat) : (s.modRegion r f).ready pg inst = s.ready pg inst := by
  simp [State.ready]
@[simp] theorem State.modRegion_mode (r : Nat) (f : Region → Region) : (s.modRegion r f).mode = s.mode := by
  simp [State.mode]
@[simp] theorem State.modRegion_evtWord (r : Nat) (f : Region → Region) (key : RegKey) : (s.modRegion r f).evtWord key = s.evtWord key := by
  simp only [State.evtWord, State.modRegion_rep]
@[simp] theorem State.modRegion_evt (r : Nat) (f : Region → Region) (fld : Fld) (inst : Nat) : (s.modRegion r f).evt fld inst = s.evt fld inst := by
  simp only [State.evt, State.modRegion_rep]
@[simp] theorem State.modRegion_lane (r : Nat) (f : Region → Region) (at_ : Nat) : (s.modRegion r f).lane at_ = s.lane at_ := by
  simp only [State.lane, State.modRegion_lanes]
@[simp] theorem State.modRegion_port (r : Nat) (f : Region → Region) (at_ : Nat) : (s.modRegion r f).port at_ = s.port at_ := by
  simp only [State.port, State.modRegion_ports]
@[simp] theorem State.modRegion_otnp (r : Nat) (f : Region → Region) (at_ : Nat) : (s.modRegion r f).otnp at_ = s.otnp at_ := by
  simp only [State.otnp, State.modRegion_otn]
@[simp] theorem State.modRegion_slot (r : Nat) (f : Region → Region) (at_ : Nat) : (s.modRegion r f).slot at_ = s.slot at_ := by
  simp only [State.slot, State.modRegion_vault]
@[simp] theorem State.modRegion_asn (r : Nat) (f : Region → Region) (at_ : Nat) : (s.modRegion r f).asn at_ = s.asn at_ := by
  simp only [State.asn, State.modRegion_assocs]
@[simp] theorem State.modRegion_link (r : Nat) (f : Region → Region) (at_ : Nat) : (s.modRegion r f).link at_ = s.link at_ := by
  simp only [State.link, State.modRegion_kindle]
@[simp] theorem State.modRegion_chim (r : Nat) (f : Region → Region) (at_ : Nat) : (s.modRegion r f).chim at_ = s.chim at_ := by
  simp only [State.chim, State.modRegion_chims]
@[simp] theorem State.modRegion_sealRt (r : Nat) (f : Region → Region) (at_ : Nat) : (s.modRegion r f).sealRt at_ = s.sealRt at_ := by
  simp only [State.sealRt, State.modRegion_seals]
@[simp] theorem State.modRegion_sliceRt (r : Nat) (f : Region → Region) (at_ : Nat) : (s.modRegion r f).sliceRt at_ = s.sliceRt at_ := by
  simp only [State.sliceRt, State.modRegion_slices]
@[simp] theorem State.modRegion_cage (r : Nat) (f : Region → Region) (at_ : Nat) : (s.modRegion r f).cage at_ = s.cage at_ := by
  simp only [State.cage, State.modRegion_cages]

/-! ### setChim -/

@[simp] theorem State.setChim_pending (c : Nat) (r : ChimRt) : (s.setChim c r).pending = s.pending := rfl
@[simp] theorem State.setChim_tick (c : Nat) (r : ChimRt) : (s.setChim c r).tick = s.tick := rfl
@[simp] theorem State.setChim_cycle (c : Nat) (r : ChimRt) : (s.setChim c r).cycle = s.cycle := rfl
@[simp] theorem State.setChim_regs (c : Nat) (r : ChimRt) : (s.setChim c r).regs = s.regs := rfl
@[simp] theorem State.setChim_sched (c : Nat) (r : ChimRt) : (s.setChim c r).sched = s.sched := rfl
@[simp] theorem State.setChim_rep (c : Nat) (r : ChimRt) : (s.setChim c r).rep = s.rep := rfl
@[simp] theorem State.setChim_pwr (c : Nat) (r : ChimRt) : (s.setChim c r).pwr = s.pwr := rfl
@[simp] theorem State.setChim_lanes (c : Nat) (r : ChimRt) : (s.setChim c r).lanes = s.lanes := rfl
@[simp] theorem State.setChim_ports (c : Nat) (r : ChimRt) : (s.setChim c r).ports = s.ports := rfl
@[simp] theorem State.setChim_otn (c : Nat) (r : ChimRt) : (s.setChim c r).otn = s.otn := rfl
@[simp] theorem State.setChim_assocs (c : Nat) (r : ChimRt) : (s.setChim c r).assocs = s.assocs := rfl
@[simp] theorem State.setChim_fwd (c : Nat) (r : ChimRt) : (s.setChim c r).fwd = s.fwd := rfl
@[simp] theorem State.setChim_vault (c : Nat) (r : ChimRt) : (s.setChim c r).vault = s.vault := rfl
@[simp] theorem State.setChim_hearth (c : Nat) (r : ChimRt) : (s.setChim c r).hearth = s.hearth := rfl
@[simp] theorem State.setChim_kindle (c : Nat) (r : ChimRt) : (s.setChim c r).kindle = s.kindle := rfl
@[simp] theorem State.setChim_seals (c : Nat) (r : ChimRt) : (s.setChim c r).seals = s.seals := rfl
@[simp] theorem State.setChim_time (c : Nat) (r : ChimRt) : (s.setChim c r).time = s.time := rfl
@[simp] theorem State.setChim_slices (c : Nat) (r : ChimRt) : (s.setChim c r).slices = s.slices := rfl
@[simp] theorem State.setChim_msix (c : Nat) (r : ChimRt) : (s.setChim c r).msix = s.msix := rfl
@[simp] theorem State.setChim_pair (c : Nat) (r : ChimRt) : (s.setChim c r).pair = s.pair := rfl
@[simp] theorem State.setChim_tamper (c : Nat) (r : ChimRt) : (s.setChim c r).tamper = s.tamper := rfl
@[simp] theorem State.setChim_officer (c : Nat) (r : ChimRt) : (s.setChim c r).officer = s.officer := rfl
@[simp] theorem State.setChim_cages (c : Nat) (r : ChimRt) : (s.setChim c r).cages = s.cages := rfl
@[simp] theorem State.setChim_regions (c : Nat) (r : ChimRt) : (s.setChim c r).regions = s.regions := rfl
@[simp] theorem State.setChim_reinit (c : Nat) (r : ChimRt) : (s.setChim c r).reinit = s.reinit := rfl
@[simp] theorem State.setChim_asnBusy (c : Nat) (r : ChimRt) : (s.setChim c r).asnBusy = s.asnBusy := rfl
@[simp] theorem State.setChim_fresh (c : Nat) (r : ChimRt) : (s.setChim c r).fresh = s.fresh := rfl
@[simp] theorem State.setChim_out (c : Nat) (r : ChimRt) : (s.setChim c r).out = s.out := rfl
@[simp] theorem State.setChim_word (c : Nat) (r : ChimRt) (key : RegKey) : (s.setChim c r).word key = s.word key :=
  congrArg (fun m => mget (resetWord key) m key) (State.setChim_regs s c r)
@[simp] theorem State.setChim_rd (c : Nat) (r : ChimRt) (fld : Fld) (inst obj : Nat) : (s.setChim c r).rd fld inst obj = s.rd fld inst obj := by
  simp [State.rd]
@[simp] theorem State.setChim_on (c : Nat) (r : ChimRt) (fld : Fld) (inst obj : Nat) : (s.setChim c r).on fld inst obj = s.on fld inst obj := by
  simp [State.on]
@[simp] theorem State.setChim_ready (c : Nat) (r : ChimRt) (pg : Page) (inst : Nat) : (s.setChim c r).ready pg inst = s.ready pg inst := by
  simp [State.ready]
@[simp] theorem State.setChim_mode (c : Nat) (r : ChimRt) : (s.setChim c r).mode = s.mode := by
  simp [State.mode]
@[simp] theorem State.setChim_evtWord (c : Nat) (r : ChimRt) (key : RegKey) : (s.setChim c r).evtWord key = s.evtWord key := by
  simp only [State.evtWord, State.setChim_rep]
@[simp] theorem State.setChim_evt (c : Nat) (r : ChimRt) (fld : Fld) (inst : Nat) : (s.setChim c r).evt fld inst = s.evt fld inst := by
  simp only [State.evt, State.setChim_rep]
@[simp] theorem State.setChim_lane (c : Nat) (r : ChimRt) (at_ : Nat) : (s.setChim c r).lane at_ = s.lane at_ := by
  simp only [State.lane, State.setChim_lanes]
@[simp] theorem State.setChim_port (c : Nat) (r : ChimRt) (at_ : Nat) : (s.setChim c r).port at_ = s.port at_ := by
  simp only [State.port, State.setChim_ports]
@[simp] theorem State.setChim_otnp (c : Nat) (r : ChimRt) (at_ : Nat) : (s.setChim c r).otnp at_ = s.otnp at_ := by
  simp only [State.otnp, State.setChim_otn]
@[simp] theorem State.setChim_slot (c : Nat) (r : ChimRt) (at_ : Nat) : (s.setChim c r).slot at_ = s.slot at_ := by
  simp only [State.slot, State.setChim_vault]
@[simp] theorem State.setChim_asn (c : Nat) (r : ChimRt) (at_ : Nat) : (s.setChim c r).asn at_ = s.asn at_ := by
  simp only [State.asn, State.setChim_assocs]
@[simp] theorem State.setChim_link (c : Nat) (r : ChimRt) (at_ : Nat) : (s.setChim c r).link at_ = s.link at_ := by
  simp only [State.link, State.setChim_kindle]
@[simp] theorem State.setChim_sealRt (c : Nat) (r : ChimRt) (at_ : Nat) : (s.setChim c r).sealRt at_ = s.sealRt at_ := by
  simp only [State.sealRt, State.setChim_seals]
@[simp] theorem State.setChim_sliceRt (c : Nat) (r : ChimRt) (at_ : Nat) : (s.setChim c r).sliceRt at_ = s.sliceRt at_ := by
  simp only [State.sliceRt, State.setChim_slices]
@[simp] theorem State.setChim_region (c : Nat) (r : ChimRt) (at_ : Nat) : (s.setChim c r).region at_ = s.region at_ := by
  simp only [State.region, State.setChim_regions]
@[simp] theorem State.setChim_cage (c : Nat) (r : ChimRt) (at_ : Nat) : (s.setChim c r).cage at_ = s.cage at_ := by
  simp only [State.cage, State.setChim_cages]

/-! ### modChim -/

@[simp] theorem State.modChim_pending (c : Nat) (f : ChimRt → ChimRt) : (s.modChim c f).pending = s.pending := rfl
@[simp] theorem State.modChim_tick (c : Nat) (f : ChimRt → ChimRt) : (s.modChim c f).tick = s.tick := rfl
@[simp] theorem State.modChim_cycle (c : Nat) (f : ChimRt → ChimRt) : (s.modChim c f).cycle = s.cycle := rfl
@[simp] theorem State.modChim_regs (c : Nat) (f : ChimRt → ChimRt) : (s.modChim c f).regs = s.regs := rfl
@[simp] theorem State.modChim_sched (c : Nat) (f : ChimRt → ChimRt) : (s.modChim c f).sched = s.sched := rfl
@[simp] theorem State.modChim_rep (c : Nat) (f : ChimRt → ChimRt) : (s.modChim c f).rep = s.rep := rfl
@[simp] theorem State.modChim_pwr (c : Nat) (f : ChimRt → ChimRt) : (s.modChim c f).pwr = s.pwr := rfl
@[simp] theorem State.modChim_lanes (c : Nat) (f : ChimRt → ChimRt) : (s.modChim c f).lanes = s.lanes := rfl
@[simp] theorem State.modChim_ports (c : Nat) (f : ChimRt → ChimRt) : (s.modChim c f).ports = s.ports := rfl
@[simp] theorem State.modChim_otn (c : Nat) (f : ChimRt → ChimRt) : (s.modChim c f).otn = s.otn := rfl
@[simp] theorem State.modChim_assocs (c : Nat) (f : ChimRt → ChimRt) : (s.modChim c f).assocs = s.assocs := rfl
@[simp] theorem State.modChim_fwd (c : Nat) (f : ChimRt → ChimRt) : (s.modChim c f).fwd = s.fwd := rfl
@[simp] theorem State.modChim_vault (c : Nat) (f : ChimRt → ChimRt) : (s.modChim c f).vault = s.vault := rfl
@[simp] theorem State.modChim_hearth (c : Nat) (f : ChimRt → ChimRt) : (s.modChim c f).hearth = s.hearth := rfl
@[simp] theorem State.modChim_kindle (c : Nat) (f : ChimRt → ChimRt) : (s.modChim c f).kindle = s.kindle := rfl
@[simp] theorem State.modChim_seals (c : Nat) (f : ChimRt → ChimRt) : (s.modChim c f).seals = s.seals := rfl
@[simp] theorem State.modChim_time (c : Nat) (f : ChimRt → ChimRt) : (s.modChim c f).time = s.time := rfl
@[simp] theorem State.modChim_slices (c : Nat) (f : ChimRt → ChimRt) : (s.modChim c f).slices = s.slices := rfl
@[simp] theorem State.modChim_msix (c : Nat) (f : ChimRt → ChimRt) : (s.modChim c f).msix = s.msix := rfl
@[simp] theorem State.modChim_pair (c : Nat) (f : ChimRt → ChimRt) : (s.modChim c f).pair = s.pair := rfl
@[simp] theorem State.modChim_tamper (c : Nat) (f : ChimRt → ChimRt) : (s.modChim c f).tamper = s.tamper := rfl
@[simp] theorem State.modChim_officer (c : Nat) (f : ChimRt → ChimRt) : (s.modChim c f).officer = s.officer := rfl
@[simp] theorem State.modChim_cages (c : Nat) (f : ChimRt → ChimRt) : (s.modChim c f).cages = s.cages := rfl
@[simp] theorem State.modChim_regions (c : Nat) (f : ChimRt → ChimRt) : (s.modChim c f).regions = s.regions := rfl
@[simp] theorem State.modChim_reinit (c : Nat) (f : ChimRt → ChimRt) : (s.modChim c f).reinit = s.reinit := rfl
@[simp] theorem State.modChim_asnBusy (c : Nat) (f : ChimRt → ChimRt) : (s.modChim c f).asnBusy = s.asnBusy := rfl
@[simp] theorem State.modChim_fresh (c : Nat) (f : ChimRt → ChimRt) : (s.modChim c f).fresh = s.fresh := rfl
@[simp] theorem State.modChim_out (c : Nat) (f : ChimRt → ChimRt) : (s.modChim c f).out = s.out := rfl
@[simp] theorem State.modChim_word (c : Nat) (f : ChimRt → ChimRt) (key : RegKey) : (s.modChim c f).word key = s.word key :=
  congrArg (fun m => mget (resetWord key) m key) (State.modChim_regs s c f)
@[simp] theorem State.modChim_rd (c : Nat) (f : ChimRt → ChimRt) (fld : Fld) (inst obj : Nat) : (s.modChim c f).rd fld inst obj = s.rd fld inst obj := by
  simp [State.rd]
@[simp] theorem State.modChim_on (c : Nat) (f : ChimRt → ChimRt) (fld : Fld) (inst obj : Nat) : (s.modChim c f).on fld inst obj = s.on fld inst obj := by
  simp [State.on]
@[simp] theorem State.modChim_ready (c : Nat) (f : ChimRt → ChimRt) (pg : Page) (inst : Nat) : (s.modChim c f).ready pg inst = s.ready pg inst := by
  simp [State.ready]
@[simp] theorem State.modChim_mode (c : Nat) (f : ChimRt → ChimRt) : (s.modChim c f).mode = s.mode := by
  simp [State.mode]
@[simp] theorem State.modChim_evtWord (c : Nat) (f : ChimRt → ChimRt) (key : RegKey) : (s.modChim c f).evtWord key = s.evtWord key := by
  simp only [State.evtWord, State.modChim_rep]
@[simp] theorem State.modChim_evt (c : Nat) (f : ChimRt → ChimRt) (fld : Fld) (inst : Nat) : (s.modChim c f).evt fld inst = s.evt fld inst := by
  simp only [State.evt, State.modChim_rep]
@[simp] theorem State.modChim_lane (c : Nat) (f : ChimRt → ChimRt) (at_ : Nat) : (s.modChim c f).lane at_ = s.lane at_ := by
  simp only [State.lane, State.modChim_lanes]
@[simp] theorem State.modChim_port (c : Nat) (f : ChimRt → ChimRt) (at_ : Nat) : (s.modChim c f).port at_ = s.port at_ := by
  simp only [State.port, State.modChim_ports]
@[simp] theorem State.modChim_otnp (c : Nat) (f : ChimRt → ChimRt) (at_ : Nat) : (s.modChim c f).otnp at_ = s.otnp at_ := by
  simp only [State.otnp, State.modChim_otn]
@[simp] theorem State.modChim_slot (c : Nat) (f : ChimRt → ChimRt) (at_ : Nat) : (s.modChim c f).slot at_ = s.slot at_ := by
  simp only [State.slot, State.modChim_vault]
@[simp] theorem State.modChim_asn (c : Nat) (f : ChimRt → ChimRt) (at_ : Nat) : (s.modChim c f).asn at_ = s.asn at_ := by
  simp only [State.asn, State.modChim_assocs]
@[simp] theorem State.modChim_link (c : Nat) (f : ChimRt → ChimRt) (at_ : Nat) : (s.modChim c f).link at_ = s.link at_ := by
  simp only [State.link, State.modChim_kindle]
@[simp] theorem State.modChim_sealRt (c : Nat) (f : ChimRt → ChimRt) (at_ : Nat) : (s.modChim c f).sealRt at_ = s.sealRt at_ := by
  simp only [State.sealRt, State.modChim_seals]
@[simp] theorem State.modChim_sliceRt (c : Nat) (f : ChimRt → ChimRt) (at_ : Nat) : (s.modChim c f).sliceRt at_ = s.sliceRt at_ := by
  simp only [State.sliceRt, State.modChim_slices]
@[simp] theorem State.modChim_region (c : Nat) (f : ChimRt → ChimRt) (at_ : Nat) : (s.modChim c f).region at_ = s.region at_ := by
  simp only [State.region, State.modChim_regions]
@[simp] theorem State.modChim_cage (c : Nat) (f : ChimRt → ChimRt) (at_ : Nat) : (s.modChim c f).cage at_ = s.cage at_ := by
  simp only [State.cage, State.modChim_cages]

/-! ### freeLock -/

@[simp] theorem State.freeLock_pending  : (s.freeLock ).pending = s.pending := by
  unfold State.freeLock
  split <;> rfl
@[simp] theorem State.freeLock_tick  : (s.freeLock ).tick = s.tick := by
  unfold State.freeLock
  split <;> rfl
@[simp] theorem State.freeLock_cycle  : (s.freeLock ).cycle = s.cycle := by
  unfold State.freeLock
  split <;> rfl
@[simp] theorem State.freeLock_sched  : (s.freeLock ).sched = s.sched := by
  unfold State.freeLock
  split <;> rfl
@[simp] theorem State.freeLock_rep  : (s.freeLock ).rep = s.rep := by
  unfold State.freeLock
  split <;> rfl
@[simp] theorem State.freeLock_pwr  : (s.freeLock ).pwr = s.pwr := by
  unfold State.freeLock
  split <;> rfl
@[simp] theorem State.freeLock_lanes  : (s.freeLock ).lanes = s.lanes := by
  unfold State.freeLock
  split <;> rfl
@[simp] theorem State.freeLock_ports  : (s.freeLock ).ports = s.ports := by
  unfold State.freeLock
  split <;> rfl
@[simp] theorem State.freeLock_otn  : (s.freeLock ).otn = s.otn := by
  unfold State.freeLock
  split <;> rfl
@[simp] theorem State.freeLock_assocs  : (s.freeLock ).assocs = s.assocs := by
  unfold State.freeLock
  split <;> rfl
@[simp] theorem State.freeLock_fwd  : (s.freeLock ).fwd = s.fwd := by
  unfold State.freeLock
  split <;> rfl
@[simp] theorem State.freeLock_vault  : (s.freeLock ).vault = s.vault := by
  unfold State.freeLock
  split <;> rfl
@[simp] theorem State.freeLock_chims  : (s.freeLock ).chims = s.chims := by
  unfold State.freeLock
  split <;> rfl
@[simp] theorem State.freeLock_hearth  : (s.freeLock ).hearth = s.hearth := by
  unfold State.freeLock
  split <;> rfl
@[simp] theorem State.freeLock_kindle  : (s.freeLock ).kindle = s.kindle := by
  unfold State.freeLock
  split <;> rfl
@[simp] theorem State.freeLock_seals  : (s.freeLock ).seals = s.seals := by
  unfold State.freeLock
  split <;> rfl
@[simp] theorem State.freeLock_time  : (s.freeLock ).time = s.time := by
  unfold State.freeLock
  split <;> rfl
@[simp] theorem State.freeLock_slices  : (s.freeLock ).slices = s.slices := by
  unfold State.freeLock
  split <;> rfl
@[simp] theorem State.freeLock_msix  : (s.freeLock ).msix = s.msix := by
  unfold State.freeLock
  split <;> rfl
@[simp] theorem State.freeLock_tamper  : (s.freeLock ).tamper = s.tamper := by
  unfold State.freeLock
  split <;> rfl
@[simp] theorem State.freeLock_officer  : (s.freeLock ).officer = s.officer := by
  unfold State.freeLock
  split <;> rfl
@[simp] theorem State.freeLock_cages  : (s.freeLock ).cages = s.cages := by
  unfold State.freeLock
  split <;> rfl
@[simp] theorem State.freeLock_regions  : (s.freeLock ).regions = s.regions := by
  unfold State.freeLock
  split <;> rfl
@[simp] theorem State.freeLock_reinit  : (s.freeLock ).reinit = s.reinit := by
  unfold State.freeLock
  split <;> rfl
@[simp] theorem State.freeLock_asnBusy  : (s.freeLock ).asnBusy = s.asnBusy := by
  unfold State.freeLock
  split <;> rfl
@[simp] theorem State.freeLock_fresh  : (s.freeLock ).fresh = s.fresh := by
  unfold State.freeLock
  split <;> rfl
@[simp] theorem State.freeLock_out  : (s.freeLock ).out = s.out := by
  unfold State.freeLock
  split <;> rfl
@[simp] theorem State.freeLock_evtWord  (key : RegKey) : (s.freeLock ).evtWord key = s.evtWord key := by
  simp only [State.evtWord, State.freeLock_rep]
@[simp] theorem State.freeLock_evt  (fld : Fld) (inst : Nat) : (s.freeLock ).evt fld inst = s.evt fld inst := by
  simp only [State.evt, State.freeLock_rep]
@[simp] theorem State.freeLock_lane  (at_ : Nat) : (s.freeLock ).lane at_ = s.lane at_ := by
  simp only [State.lane, State.freeLock_lanes]
@[simp] theorem State.freeLock_port  (at_ : Nat) : (s.freeLock ).port at_ = s.port at_ := by
  simp only [State.port, State.freeLock_ports]
@[simp] theorem State.freeLock_otnp  (at_ : Nat) : (s.freeLock ).otnp at_ = s.otnp at_ := by
  simp only [State.otnp, State.freeLock_otn]
@[simp] theorem State.freeLock_slot  (at_ : Nat) : (s.freeLock ).slot at_ = s.slot at_ := by
  simp only [State.slot, State.freeLock_vault]
@[simp] theorem State.freeLock_asn  (at_ : Nat) : (s.freeLock ).asn at_ = s.asn at_ := by
  simp only [State.asn, State.freeLock_assocs]
@[simp] theorem State.freeLock_link  (at_ : Nat) : (s.freeLock ).link at_ = s.link at_ := by
  simp only [State.link, State.freeLock_kindle]
@[simp] theorem State.freeLock_chim  (at_ : Nat) : (s.freeLock ).chim at_ = s.chim at_ := by
  simp only [State.chim, State.freeLock_chims]
@[simp] theorem State.freeLock_sealRt  (at_ : Nat) : (s.freeLock ).sealRt at_ = s.sealRt at_ := by
  simp only [State.sealRt, State.freeLock_seals]
@[simp] theorem State.freeLock_sliceRt  (at_ : Nat) : (s.freeLock ).sliceRt at_ = s.sliceRt at_ := by
  simp only [State.sliceRt, State.freeLock_slices]
@[simp] theorem State.freeLock_region  (at_ : Nat) : (s.freeLock ).region at_ = s.region at_ := by
  simp only [State.region, State.freeLock_regions]
@[simp] theorem State.freeLock_cage  (at_ : Nat) : (s.freeLock ).cage at_ = s.cage at_ := by
  simp only [State.cage, State.freeLock_cages]

/-! ### setMode -/

@[simp] theorem State.setMode_pending (m : Nat) : (s.setMode m).pending = s.pending := by
  unfold State.setMode
  simp only
  split <;> simp
@[simp] theorem State.setMode_tick (m : Nat) : (s.setMode m).tick = s.tick := by
  unfold State.setMode
  simp only
  split <;> simp
@[simp] theorem State.setMode_cycle (m : Nat) : (s.setMode m).cycle = s.cycle := by
  unfold State.setMode
  simp only
  split <;> simp
@[simp] theorem State.setMode_sched (m : Nat) : (s.setMode m).sched = s.sched := by
  unfold State.setMode
  simp only
  split <;> simp
@[simp] theorem State.setMode_rep (m : Nat) : (s.setMode m).rep = s.rep := by
  unfold State.setMode
  simp only
  split <;> simp
@[simp] theorem State.setMode_pwr (m : Nat) : (s.setMode m).pwr = s.pwr := by
  unfold State.setMode
  simp only
  split <;> simp
@[simp] theorem State.setMode_lanes (m : Nat) : (s.setMode m).lanes = s.lanes := by
  unfold State.setMode
  simp only
  split <;> simp
@[simp] theorem State.setMode_ports (m : Nat) : (s.setMode m).ports = s.ports := by
  unfold State.setMode
  simp only
  split <;> simp
@[simp] theorem State.setMode_otn (m : Nat) : (s.setMode m).otn = s.otn := by
  unfold State.setMode
  simp only
  split <;> simp
@[simp] theorem State.setMode_assocs (m : Nat) : (s.setMode m).assocs = s.assocs := by
  unfold State.setMode
  simp only
  split <;> simp
@[simp] theorem State.setMode_fwd (m : Nat) : (s.setMode m).fwd = s.fwd := by
  unfold State.setMode
  simp only
  split <;> simp
@[simp] theorem State.setMode_vault (m : Nat) : (s.setMode m).vault = s.vault := by
  unfold State.setMode
  simp only
  split <;> simp
@[simp] theorem State.setMode_chims (m : Nat) : (s.setMode m).chims = s.chims := by
  unfold State.setMode
  simp only
  split <;> simp
@[simp] theorem State.setMode_hearth (m : Nat) : (s.setMode m).hearth = s.hearth := by
  unfold State.setMode
  simp only
  split <;> simp
@[simp] theorem State.setMode_kindle (m : Nat) : (s.setMode m).kindle = s.kindle := by
  unfold State.setMode
  simp only
  split <;> simp
@[simp] theorem State.setMode_seals (m : Nat) : (s.setMode m).seals = s.seals := by
  unfold State.setMode
  simp only
  split <;> simp
@[simp] theorem State.setMode_time (m : Nat) : (s.setMode m).time = s.time := by
  unfold State.setMode
  simp only
  split <;> simp
@[simp] theorem State.setMode_slices (m : Nat) : (s.setMode m).slices = s.slices := by
  unfold State.setMode
  simp only
  split <;> simp
@[simp] theorem State.setMode_msix (m : Nat) : (s.setMode m).msix = s.msix := by
  unfold State.setMode
  simp only
  split <;> simp
@[simp] theorem State.setMode_tamper (m : Nat) : (s.setMode m).tamper = s.tamper := by
  unfold State.setMode
  simp only
  split <;> simp
@[simp] theorem State.setMode_officer (m : Nat) : (s.setMode m).officer = s.officer := by
  unfold State.setMode
  simp only
  split <;> simp
@[simp] theorem State.setMode_cages (m : Nat) : (s.setMode m).cages = s.cages := by
  unfold State.setMode
  simp only
  split <;> simp
@[simp] theorem State.setMode_regions (m : Nat) : (s.setMode m).regions = s.regions := by
  unfold State.setMode
  simp only
  split <;> simp
@[simp] theorem State.setMode_reinit (m : Nat) : (s.setMode m).reinit = s.reinit := by
  unfold State.setMode
  simp only
  split <;> simp
@[simp] theorem State.setMode_asnBusy (m : Nat) : (s.setMode m).asnBusy = s.asnBusy := by
  unfold State.setMode
  simp only
  split <;> simp
@[simp] theorem State.setMode_fresh (m : Nat) : (s.setMode m).fresh = s.fresh := by
  unfold State.setMode
  simp only
  split <;> simp
@[simp] theorem State.setMode_out (m : Nat) : (s.setMode m).out = s.out := by
  unfold State.setMode
  simp only
  split <;> simp
@[simp] theorem State.setMode_evtWord (m : Nat) (key : RegKey) : (s.setMode m).evtWord key = s.evtWord key := by
  simp only [State.evtWord, State.setMode_rep]
@[simp] theorem State.setMode_evt (m : Nat) (fld : Fld) (inst : Nat) : (s.setMode m).evt fld inst = s.evt fld inst := by
  simp only [State.evt, State.setMode_rep]
@[simp] theorem State.setMode_lane (m : Nat) (at_ : Nat) : (s.setMode m).lane at_ = s.lane at_ := by
  simp only [State.lane, State.setMode_lanes]
@[simp] theorem State.setMode_port (m : Nat) (at_ : Nat) : (s.setMode m).port at_ = s.port at_ := by
  simp only [State.port, State.setMode_ports]
@[simp] theorem State.setMode_otnp (m : Nat) (at_ : Nat) : (s.setMode m).otnp at_ = s.otnp at_ := by
  simp only [State.otnp, State.setMode_otn]
@[simp] theorem State.setMode_slot (m : Nat) (at_ : Nat) : (s.setMode m).slot at_ = s.slot at_ := by
  simp only [State.slot, State.setMode_vault]
@[simp] theorem State.setMode_asn (m : Nat) (at_ : Nat) : (s.setMode m).asn at_ = s.asn at_ := by
  simp only [State.asn, State.setMode_assocs]
@[simp] theorem State.setMode_link (m : Nat) (at_ : Nat) : (s.setMode m).link at_ = s.link at_ := by
  simp only [State.link, State.setMode_kindle]
@[simp] theorem State.setMode_chim (m : Nat) (at_ : Nat) : (s.setMode m).chim at_ = s.chim at_ := by
  simp only [State.chim, State.setMode_chims]
@[simp] theorem State.setMode_sealRt (m : Nat) (at_ : Nat) : (s.setMode m).sealRt at_ = s.sealRt at_ := by
  simp only [State.sealRt, State.setMode_seals]
@[simp] theorem State.setMode_sliceRt (m : Nat) (at_ : Nat) : (s.setMode m).sliceRt at_ = s.sliceRt at_ := by
  simp only [State.sliceRt, State.setMode_slices]
@[simp] theorem State.setMode_region (m : Nat) (at_ : Nat) : (s.setMode m).region at_ = s.region at_ := by
  simp only [State.region, State.setMode_regions]
@[simp] theorem State.setMode_cage (m : Nat) (at_ : Nat) : (s.setMode m).cage at_ = s.cage at_ := by
  simp only [State.cage, State.setMode_cages]

/-! ### modTime -/

@[simp] theorem State.modTime_pending (f : Time → Time) : (s.modTime f).pending = s.pending := rfl
@[simp] theorem State.modTime_tick (f : Time → Time) : (s.modTime f).tick = s.tick := rfl
@[simp] theorem State.modTime_cycle (f : Time → Time) : (s.modTime f).cycle = s.cycle := rfl
@[simp] theorem State.modTime_regs (f : Time → Time) : (s.modTime f).regs = s.regs := rfl
@[simp] theorem State.modTime_sched (f : Time → Time) : (s.modTime f).sched = s.sched := rfl
@[simp] theorem State.modTime_rep (f : Time → Time) : (s.modTime f).rep = s.rep := rfl
@[simp] theorem State.modTime_pwr (f : Time → Time) : (s.modTime f).pwr = s.pwr := rfl
@[simp] theorem State.modTime_lanes (f : Time → Time) : (s.modTime f).lanes = s.lanes := rfl
@[simp] theorem State.modTime_ports (f : Time → Time) : (s.modTime f).ports = s.ports := rfl
@[simp] theorem State.modTime_otn (f : Time → Time) : (s.modTime f).otn = s.otn := rfl
@[simp] theorem State.modTime_assocs (f : Time → Time) : (s.modTime f).assocs = s.assocs := rfl
@[simp] theorem State.modTime_fwd (f : Time → Time) : (s.modTime f).fwd = s.fwd := rfl
@[simp] theorem State.modTime_vault (f : Time → Time) : (s.modTime f).vault = s.vault := rfl
@[simp] theorem State.modTime_chims (f : Time → Time) : (s.modTime f).chims = s.chims := rfl
@[simp] theorem State.modTime_hearth (f : Time → Time) : (s.modTime f).hearth = s.hearth := rfl
@[simp] theorem State.modTime_kindle (f : Time → Time) : (s.modTime f).kindle = s.kindle := rfl
@[simp] theorem State.modTime_seals (f : Time → Time) : (s.modTime f).seals = s.seals := rfl
@[simp] theorem State.modTime_slices (f : Time → Time) : (s.modTime f).slices = s.slices := rfl
@[simp] theorem State.modTime_msix (f : Time → Time) : (s.modTime f).msix = s.msix := rfl
@[simp] theorem State.modTime_pair (f : Time → Time) : (s.modTime f).pair = s.pair := rfl
@[simp] theorem State.modTime_tamper (f : Time → Time) : (s.modTime f).tamper = s.tamper := rfl
@[simp] theorem State.modTime_officer (f : Time → Time) : (s.modTime f).officer = s.officer := rfl
@[simp] theorem State.modTime_cages (f : Time → Time) : (s.modTime f).cages = s.cages := rfl
@[simp] theorem State.modTime_regions (f : Time → Time) : (s.modTime f).regions = s.regions := rfl
@[simp] theorem State.modTime_reinit (f : Time → Time) : (s.modTime f).reinit = s.reinit := rfl
@[simp] theorem State.modTime_asnBusy (f : Time → Time) : (s.modTime f).asnBusy = s.asnBusy := rfl
@[simp] theorem State.modTime_fresh (f : Time → Time) : (s.modTime f).fresh = s.fresh := rfl
@[simp] theorem State.modTime_out (f : Time → Time) : (s.modTime f).out = s.out := rfl
@[simp] theorem State.modTime_word (f : Time → Time) (key : RegKey) : (s.modTime f).word key = s.word key :=
  congrArg (fun m => mget (resetWord key) m key) (State.modTime_regs s f)
@[simp] theorem State.modTime_rd (f : Time → Time) (fld : Fld) (inst obj : Nat) : (s.modTime f).rd fld inst obj = s.rd fld inst obj := by
  simp [State.rd]
@[simp] theorem State.modTime_on (f : Time → Time) (fld : Fld) (inst obj : Nat) : (s.modTime f).on fld inst obj = s.on fld inst obj := by
  simp [State.on]
@[simp] theorem State.modTime_ready (f : Time → Time) (pg : Page) (inst : Nat) : (s.modTime f).ready pg inst = s.ready pg inst := by
  simp [State.ready]
@[simp] theorem State.modTime_mode (f : Time → Time) : (s.modTime f).mode = s.mode := by
  simp [State.mode]
@[simp] theorem State.modTime_evtWord (f : Time → Time) (key : RegKey) : (s.modTime f).evtWord key = s.evtWord key := by
  simp only [State.evtWord, State.modTime_rep]
@[simp] theorem State.modTime_evt (f : Time → Time) (fld : Fld) (inst : Nat) : (s.modTime f).evt fld inst = s.evt fld inst := by
  simp only [State.evt, State.modTime_rep]
@[simp] theorem State.modTime_lane (f : Time → Time) (at_ : Nat) : (s.modTime f).lane at_ = s.lane at_ := by
  simp only [State.lane, State.modTime_lanes]
@[simp] theorem State.modTime_port (f : Time → Time) (at_ : Nat) : (s.modTime f).port at_ = s.port at_ := by
  simp only [State.port, State.modTime_ports]
@[simp] theorem State.modTime_otnp (f : Time → Time) (at_ : Nat) : (s.modTime f).otnp at_ = s.otnp at_ := by
  simp only [State.otnp, State.modTime_otn]
@[simp] theorem State.modTime_slot (f : Time → Time) (at_ : Nat) : (s.modTime f).slot at_ = s.slot at_ := by
  simp only [State.slot, State.modTime_vault]
@[simp] theorem State.modTime_asn (f : Time → Time) (at_ : Nat) : (s.modTime f).asn at_ = s.asn at_ := by
  simp only [State.asn, State.modTime_assocs]
@[simp] theorem State.modTime_link (f : Time → Time) (at_ : Nat) : (s.modTime f).link at_ = s.link at_ := by
  simp only [State.link, State.modTime_kindle]
@[simp] theorem State.modTime_chim (f : Time → Time) (at_ : Nat) : (s.modTime f).chim at_ = s.chim at_ := by
  simp only [State.chim, State.modTime_chims]
@[simp] theorem State.modTime_sealRt (f : Time → Time) (at_ : Nat) : (s.modTime f).sealRt at_ = s.sealRt at_ := by
  simp only [State.sealRt, State.modTime_seals]
@[simp] theorem State.modTime_sliceRt (f : Time → Time) (at_ : Nat) : (s.modTime f).sliceRt at_ = s.sliceRt at_ := by
  simp only [State.sliceRt, State.modTime_slices]
@[simp] theorem State.modTime_region (f : Time → Time) (at_ : Nat) : (s.modTime f).region at_ = s.region at_ := by
  simp only [State.region, State.modTime_regions]
@[simp] theorem State.modTime_cage (f : Time → Time) (at_ : Nat) : (s.modTime f).cage at_ = s.cage at_ := by
  simp only [State.cage, State.modTime_cages]

/-! ### What each update changes -/

@[simp] theorem State.at_cycle (c : Cyc) : (s.at c).cycle = c.val := rfl
@[simp] theorem State.at_edgeFor (c : Cyc) (n : Nat) : (s.at c).edgeFor n = s.edgeFor n := rfl
@[simp] theorem State.schedule_sched (due : Nat) (act : Act) :
    (s.schedule due act).sched = s.sched ++ [{ due := due, act := act }] := rfl
@[simp] theorem State.putCopy_sched (k : RegKey) (w : Word) (cyc : Nat) :
    (s.putCopy k w cyc).sched = s.sched.filter (fun e => !e.isCopyOf k) ++
      [{ due := s.edgeFor cyc, held := s.on F.devCommitCtlHold, act := .copy k w }] := rfl
@[simp] theorem State.burn_fresh (n : Nat) : (s.burn n).fresh = s.fresh + n := rfl
@[simp] theorem State.emit_out (o : Out) : (s.emit o).out = s.out ++ [o] := rfl
@[simp] theorem State.modRep_rep (f : Report → Report) : (s.modRep f).rep = f s.rep := rfl
@[simp] theorem State.modTamper_tamper (f : Tamper → Tamper) : (s.modTamper f).tamper = f s.tamper := rfl
@[simp] theorem State.modOfc_officer (f : Officer → Officer) : (s.modOfc f).officer = f s.officer := rfl
@[simp] theorem State.modHearth_hearth (f : Hearth → Hearth) : (s.modHearth f).hearth = f s.hearth := rfl
@[simp] theorem State.modPwr_pwr (f : Power → Power) : (s.modPwr f).pwr = f s.pwr := rfl
@[simp] theorem State.modPair_pair (f : Pair → Pair) : (s.modPair f).pair = f s.pair := rfl
@[simp] theorem State.modTime_time (f : Time → Time) : (s.modTime f).time = f s.time := rfl

/-! ### The tables: what was written reads back, every other entry as before -/

@[simp] theorem State.setLane_lane_self (g : Nat) (l : LaneRt) : (s.setLane g l).lane g = l := nget_nset_self ..
theorem State.setLane_lane_ne {g h : Nat} (l : LaneRt) (hn : h ≠ g) : (s.setLane g l).lane h = s.lane h := nget_nset_ne _ _ _ _ hn
@[simp] theorem State.modLane_lane_self (g : Nat) (f : LaneRt → LaneRt) : (s.modLane g f).lane g = f (s.lane g) := nget_nset_self ..
theorem State.modLane_lane_ne {g h : Nat} (f : LaneRt → LaneRt) (hn : h ≠ g) : (s.modLane g f).lane h = s.lane h := nget_nset_ne _ _ _ _ hn
@[simp] theorem State.setPort_port_self (p : Nat) (r : PortRt) : (s.setPort p r).port p = r := nget_nset_self ..
@[simp] theorem State.modPort_port_self (p : Nat) (f : PortRt → PortRt) : (s.modPort p f).port p = f (s.port p) := nget_nset_self ..
theorem State.modPort_port_ne {p q : Nat} (f : PortRt → PortRt) (hn : q ≠ p) : (s.modPort p f).port q = s.port q := nget_nset_ne _ _ _ _ hn
@[simp] theorem State.setOtnp_otnp_self (p : Nat) (r : OtnRt) : (s.setOtnp p r).otnp p = r := nget_nset_self ..
@[simp] theorem State.modOtnp_otnp_self (p : Nat) (f : OtnRt → OtnRt) : (s.modOtnp p f).otnp p = f (s.otnp p) := nget_nset_self ..
theorem State.modOtnp_otnp_ne {p q : Nat} (f : OtnRt → OtnRt) (hn : q ≠ p) : (s.modOtnp p f).otnp q = s.otnp q := nget_nset_ne _ _ _ _ hn
@[simp] theorem State.setSlot_slot_self (v : Nat) (x : Slot) : (s.setSlot v x).slot v = x := nget_nset_self ..
theorem State.setSlot_slot_ne {v u : Nat} (x : Slot) (hn : u ≠ v) : (s.setSlot v x).slot u = s.slot u := nget_nset_ne _ _ _ _ hn
@[simp] theorem State.setAsn_asn_self (a : Nat) (e : Assoc) : (s.setAsn a e).asn a = e.settled := nget_nset_self ..
theorem State.setAsn_asn_ne {a b : Nat} (e : Assoc) (hn : b ≠ a) : (s.setAsn a e).asn b = s.asn b := nget_nset_ne _ _ _ _ hn
@[simp] theorem State.modAsn_asn_self (a : Nat) (f : Assoc → Assoc) : (s.modAsn a f).asn a = (f (s.asn a)).settled := nget_nset_self ..
theorem State.modAsn_asn_ne {a b : Nat} (f : Assoc → Assoc) (hn : b ≠ a) : (s.modAsn a f).asn b = s.asn b := nget_nset_ne _ _ _ _ hn
@[simp] theorem State.setLink_link_self (k : Nat) (l : Link) : (s.setLink k l).link k = l := nget_nset_self ..
theorem State.setLink_link_ne {k j : Nat} (l : Link) (hn : j ≠ k) : (s.setLink k l).link j = s.link j := nget_nset_ne _ _ _ _ hn
@[simp] theorem State.modLink_link_self (k : Nat) (f : Link → Link) : (s.modLink k f).link k = f (s.link k) := nget_nset_self ..
theorem State.modLink_link_ne {k j : Nat} (f : Link → Link) (hn : j ≠ k) : (s.modLink k f).link j = s.link j := nget_nset_ne _ _ _ _ hn
@[simp] theorem State.setChim_chim_self (c : Nat) (r : ChimRt) : (s.setChim c r).chim c = r := nget_nset_self ..
@[simp] theorem State.modChim_chim_self (c : Nat) (f : ChimRt → ChimRt) : (s.modChim c f).chim c = f (s.chim c) := nget_nset_self ..
theorem State.modChim_chim_ne {c d : Nat} (f : ChimRt → ChimRt) (hn : d ≠ c) : (s.modChim c f).chim d = s.chim d := nget_nset_ne _ _ _ _ hn
@[simp] theorem State.modSeal_sealRt_self (p : Nat) (f : SealRt → SealRt) : (s.modSeal p f).sealRt p = f (s.sealRt p) := nget_nset_self ..
theorem State.modSeal_sealRt_ne {p q : Nat} (f : SealRt → SealRt) (hn : q ≠ p) : (s.modSeal p f).sealRt q = s.sealRt q := nget_nset_ne _ _ _ _ hn
@[simp] theorem State.modSlice_sliceRt_self (n : Nat) (f : SliceRt → SliceRt) : (s.modSlice n f).sliceRt n = f (s.sliceRt n) := nget_nset_self ..
theorem State.modSlice_sliceRt_ne {n m : Nat} (f : SliceRt → SliceRt) (hn : m ≠ n) : (s.modSlice n f).sliceRt m = s.sliceRt m := nget_nset_ne _ _ _ _ hn
@[simp] theorem State.modRegion_region_self (r : Nat) (f : Region → Region) : (s.modRegion r f).region r = f (s.region r) := nget_nset_self ..
theorem State.modRegion_region_ne {r q : Nat} (f : Region → Region) (hn : q ≠ r) : (s.modRegion r f).region q = s.region q := nget_nset_ne _ _ _ _ hn
@[simp] theorem State.modCage_cage_self (b : Nat) (f : Cage → Cage) : (s.modCage b f).cage b = f (s.cage b) := nget_nset_self ..
theorem State.modCage_cage_ne {b d : Nat} (f : Cage → Cage) (hn : d ≠ b) : (s.modCage b f).cage d = s.cage d := nget_nset_ne _ _ _ _ hn

/-! ### Registers -/

theorem State.wr_word_ne {f : Fld} (v : Nat) {i o : Nat} {k : RegKey} (h : k ≠ keyOf f i o) : (s.wr f v i o).word k = s.word k :=
  State.word_setWord_ne _ _ h
theorem State.on_wr_self {f : Fld} (v i o : Nat) (h : f.fits = true) (hw : f.w = 1) : (s.wr f v i o).on f i o = decide (v % 2 = 1) := by
  simp [State.on, State.rd_wr_self, h, hw]
theorem State.on_wr_apart {f g : Fld} (v i o i' o' : Nat) (hf : f.fits = true) (h : Fld.apart f g = true) :
    (s.wr f v i o).on g i' o' = s.on g i' o' := by simp [State.on, State.rd_wr_apart, hf, h]

/-! ### Registers that stand -/

theorem State.regsBut_refl (ks : List RegKey) : s.regsBut s ks := fun _ _ => rfl
theorem State.regsBut_trans {s t u : State} {ks : List RegKey} (h : s.regsBut t ks) (h' : t.regsBut u ks) : s.regsBut u ks :=
  fun k hk => (h' k hk).trans (h k hk)
theorem State.regsBut_setWord {s t : State} {ks : List RegKey} {k : RegKey} (w : Word) (h : s.regsBut t ks) (hk : k ∈ ks) :
    s.regsBut (t.setWord k w) ks :=
  fun j hj => (State.word_setWord_ne _ _ (by rintro rfl; exact hj hk)).trans (h j hj)
theorem State.regsBut_wr {s t : State} {ks : List RegKey} {f : Fld} (v : Nat) {i o : Nat} (h : s.regsBut t ks)
    (hk : keyOf f i o ∈ ks) : s.regsBut (t.wr f v i o) ks := State.regsBut_setWord _ h hk
theorem State.regsBut_of_word {s t u : State} {ks : List RegKey} (h : ∀ k, u.word k = t.word k) (h' : s.regsBut t ks) :
    s.regsBut u ks := fun k hk => (h k).trans (h' k hk)

end Sys2Proof.Machine
end

