-- ==== Sys2Proof/Laws/Line.lean ====
section
/-! SUPPORT. What the operations of Machine/Line.lean keep, and the parts of the state that they may change. -/

namespace Sys2Proof.Machine

open Sys2Proof

theorem State.patternBits_keeps {s : State} {g : Nat} {n : Nat} :
    KeepsP (mask [.lanes, .fresh]) s (State.patternBits s g n) := by
  unfold State.patternBits
  split
  · refine KeepsP.mk ?_
    refine Keeps.step State.burn_keeps (by rfl) ?_
    exact Keeps.refl _
  · extract_lets x1 x2
    refine KeepsP.mk ?_
    refine Keeps.step State.modLane_keeps (by rfl) ?_
    exact Keeps.refl _

theorem State.slipBits_keeps {s : State} {g : Nat} {n : Nat} {test : Bool} :
    KeepsP (mask [.lanes]) s (State.slipBits s g n test) := by
  unfold State.slipBits
  extract_lets x1 x2
  refine KeepsP.mk ?_
  refine Keeps.step State.modLane_keeps (by rfl) ?_
  exact Keeps.refl _

theorem State.laneSource_keeps {s : State} {g : Nat} {n : Nat} {port : List Bool} :
    KeepsP (mask [.lanes, .fresh]) s (State.laneSource s g n port) := by
  unfold State.laneSource
  refine KeepsP.ite ?_ ?_
  · refine KeepsP.step State.patternBits_keeps (by rfl) ?_
    exact Keeps.refl _
  · refine KeepsP.ite ?_ ?_
    · extract_lets x1
      refine KeepsP.mk ?_
      refine Keeps.step State.setLane_keeps (by rfl) ?_
      exact Keeps.refl _
    · split
      · refine KeepsP.ite ?_ ?_
        · refine KeepsP.step State.slipBits_keeps (by rfl) ?_
          exact Keeps.refl _
        · refine KeepsP.mk ?_
          exact Keeps.refl _
      · refine KeepsP.step State.patternBits_keeps (by rfl) ?_
        exact Keeps.refl _
      · refine KeepsP.step State.slipBits_keeps (by rfl) ?_
        exact Keeps.refl _
      · refine KeepsP.mk ?_
        refine Keeps.step State.burn_keeps (by rfl) ?_
        exact Keeps.refl _

theorem State.laneSends_keeps {s : State} {g : Nat} {n : Nat} {port : List Bool} :
    KeepsP (mask [.lanes, .fresh]) s (State.laneSends s g n port) := by
  unfold State.laneSends
  extract_lets x1 x2 x3 x4 x5
  have h1 : KeepsP (mask [.lanes, .fresh]) s x2 := by
    unfold x2
    refine KeepsP.step State.laneSource_keeps (by rfl) ?_
    exact Keeps.refl _
  have h2 : Keeps (mask [.lanes, .fresh]) s x3 := by
    unfold x3
    refine KeepsP.fst ?_
    assumption
  clear_value x3
  clear_value x2
  refine KeepsP.mk ?_
  refine Keeps.step State.modLane_keeps (by rfl) ?_
  assumption

theorem State.laneBits_keeps {s : State} {g : Nat} {xs : List Sym} :
    KeepsP (mask [.lanes]) s (State.laneBits s g xs) := by
  unfold State.laneBits
  extract_lets x1 x2 x3 x4 x5
  refine KeepsP.mk ?_
  refine Keeps.step State.modLane_keeps (by rfl) ?_
  exact Keeps.refl _

theorem State.laneEmit_keeps {s : State} {g : Nat} {xs : List Sym} :
    Keeps (mask [.out]) s (State.laneEmit s g xs) := by
  unfold State.laneEmit
  refine Keeps.ite ?_ ?_
  · refine Keeps.step State.emit_keeps (by rfl) ?_
    exact Keeps.refl _
  · exact Keeps.refl _

theorem State.laneHears_keeps {s : State} {g : Nat} {xs : List Sym} {port : List Bool} :
    KeepsP (mask [.lanes, .fresh, .out]) s (State.laneHears s g xs port) := by
  unfold State.laneHears
  refine KeepsP.ite ?_ ?_
  · refine KeepsP.mk ?_
    exact Keeps.refl _
  · refine KeepsP.ite ?_ ?_
    · extract_lets x1
      have h1 : KeepsP (mask [.lanes, .fresh, .out]) s x1 := by
        unfold x1
        refine KeepsP.step State.laneSends_keeps (by rfl) ?_
        exact Keeps.refl _
      clear_value x1
      refine KeepsP.step State.laneBits_keeps (by rfl) ?_
      refine Keeps.step State.laneEmit_keeps (by rfl) ?_
      refine KeepsP.fst ?_
      assumption
    · refine KeepsP.step State.laneBits_keeps (by rfl) ?_
      exact Keeps.refl _

theorem State.feedChecker_keeps {s : State} {g : Nat} {bs : List Bool} :
    Keeps (mask [.rep, .lanes, .page .lan]) s (State.feedChecker s g bs) := by
  unfold State.feedChecker
  refine Keeps.ite ?_ ?_
  · exact Keeps.refl _
  · extract_lets x1 x2 x3
    have h1 : Keeps (mask [.rep, .lanes, .page .lan]) s x3 := by
      unfold x3
      refine Keeps.step State.count_keeps (by rfl) ?_
      refine Keeps.step State.setChk_keeps (by rfl) ?_
      exact Keeps.refl _
    clear_value x3
    refine Keeps.onlyIf ?_ ?_
    · intro u1
      extract_lets x4
      have h2 : Keeps (mask [.rep, .lanes, .page .lan]) u1 x4 := by
        unfold x4
        refine Keeps.step State.wr_keeps (by rfl) ?_
        exact Keeps.refl _
      clear_value x4
      refine Keeps.onlyIf ?_ ?_
      · intro u2
        refine Keeps.step State.modLane_keeps (by rfl) ?_
        exact Keeps.refl _
      · assumption
    · assumption

theorem State.laneFeed_keeps {s : State} {g : Nat} {xs : List Sym} {port : List Bool} :
    Keeps (mask [.rep, .lanes, .fresh, .out, .page .lan]) s (State.laneFeed s g xs port) := by
  unfold State.laneFeed
  extract_lets x1
  have h1 : KeepsP (mask [.rep, .lanes, .fresh, .out, .page .lan]) s x1 := by
    unfold x1
    refine KeepsP.step State.laneHears_keeps (by rfl) ?_
    exact Keeps.refl _
  clear_value x1
  refine Keeps.step State.feedChecker_keeps (by rfl) ?_
  refine KeepsP.fst ?_
  assumption

theorem State.laneMeasure_keeps {i : LaneIn} {s : State} :
    Keeps (mask [.rep, .lanes, .fresh, .out, .page .lan]) s (State.laneMeasure i s) := by
  unfold State.laneMeasure
  extract_lets x1 x2 x3 x4 x5 x6
  have h1 : Keeps (mask [.rep, .lanes, .fresh, .out, .page .lan]) s x2 := by
    unfold x2
    refine Keeps.step State.modLane_keeps (by rfl) ?_
    exact Keeps.refl _
  have h2 : Keeps (mask [.rep, .lanes, .fresh, .out, .page .lan]) s x3 := by
    unfold x3
    refine Keeps.step State.laneFeed_keeps (by rfl) ?_
    assumption
  have h3 : KeepsP (mask [.rep, .lanes, .fresh, .out, .page .lan]) s x4 := by
    unfold x4
    refine KeepsP.step State.laneSends_keeps (by rfl) ?_
    assumption
  have h4 : Keeps (mask [.rep, .lanes, .fresh, .out, .page .lan]) s x5 := by
    unfold x5
    refine Keeps.ite ?_ ?_
    · refine Keeps.step State.laneFeed_keeps (by rfl) ?_
      assumption
    · refine Keeps.step State.laneEmit_keeps (by rfl) ?_
      refine KeepsP.fst ?_
      assumption
  have h5 : Keeps (mask [.rep, .lanes, .fresh, .out, .page .lan]) s x6 := by
    unfold x6
    refine Keeps.step State.wr_keeps (by rfl) ?_
    refine Keeps.step State.wr_keeps (by rfl) ?_
    refine Keeps.step State.wr_keeps (by rfl) ?_
    assumption
  clear_value x6
  clear_value x5
  clear_value x4
  clear_value x3
  clear_value x2
  refine Keeps.step State.nrzEye_keeps (by rfl) ?_
  refine Keeps.step State.wr_keeps (by rfl) ?_
  refine Keeps.step State.wr_keeps (by rfl) ?_
  assumption

theorem State.laneEdge_keeps {e : EdgeIn} {s : State} :
    Keeps (mask [.rep, .lanes, .fresh, .out, .page .lan]) s (State.laneEdge e s) := by
  unfold State.laneEdge
  extract_lets x1
  have h1 : Keeps (mask [.rep, .lanes, .fresh, .out, .page .lan]) s x1 := by
    unfold x1
    refine Keeps.forL ?_ ?_
    · intro b1 u1
      refine Keeps.step State.laneMeasure_keeps (by rfl) ?_
      exact Keeps.refl _
    · exact Keeps.refl _
  clear_value x1
  refine Keeps.forN ?_ ?_
  · intro b1 u1
    extract_lets x2
    have h2 : Keeps (mask [.rep, .lanes, .fresh, .out, .page .lan]) u1 x2 := by
      unfold x2
      refine Keeps.step State.laneLosEdge_keeps (by rfl) ?_
      exact Keeps.refl _
    clear_value x2
    refine Keeps.onlyIf ?_ ?_
    · intro u2
      refine Keeps.step State.count_keeps (by rfl) ?_
      exact Keeps.refl _
    · assumption
  · assumption

theorem State.slipFrame_keeps {s : State} {g : Nat} {bs : List Bool} :
    Keeps (mask [.sched, .rep, .lanes, .pair, .out, .page .lan]) s (State.slipFrame s g bs) := by
  unfold State.slipFrame
  extract_lets x1 x2 x3 x4
  have h1 : Keeps (mask [.sched, .rep, .lanes, .pair, .out, .page .lan]) s x4 := by
    unfold x4
    refine Keeps.step State.trainExchange_keeps (by rfl) ?_
    refine Keeps.step State.slipDetect_keeps (by rfl) ?_
    exact Keeps.refl _
  clear_value x4
  refine Keeps.onlyIf ?_ ?_
  · intro u1
    refine Keeps.ite ?_ ?_
    · refine Keeps.step State.flueBytes_keeps (by rfl) ?_
      exact Keeps.refl _
    · refine Keeps.step State.emit_keeps (by rfl) ?_
      exact Keeps.refl _
  · assumption

theorem execSlipFrameReceived_keeps {g : LaneNo} {rx : List Sym} {s : State} :
    KeepsX (mask [.sched, .rep, .lanes, .msix, .pair, .fresh, .out,
        .page .lan]) s (execSlipFrameReceived g rx s) := by
  unfold execSlipFrameReceived
  refine KeepsX.done (by rfl) ?_
  refine Keeps.onlyIf ?_ ?_
  · intro u1
    extract_lets x1
    have h1 : KeepsP (mask [.sched, .rep, .lanes, .msix, .pair, .fresh, .out, .page .lan]) u1 x1 := by
      unfold x1
      refine KeepsP.step State.laneHears_keeps (by rfl) ?_
      exact Keeps.refl _
    clear_value x1
    refine Keeps.onlyIf ?_ ?_
    · intro u2
      refine Keeps.step State.slipFrame_keeps (by rfl) ?_
      exact Keeps.refl _
    · refine KeepsP.fst ?_
      assumption
  · exact Keeps.refl _

theorem execPrbsLock_keeps {rx : LaneRx} {s : State} :
    KeepsX (mask [.rep, .lanes, .msix, .fresh, .out, .page .lan]) s (execPrbsLock rx s) := by
  unfold execPrbsLock
  refine KeepsX.done (by rfl) ?_
  refine Keeps.step State.laneFeed_keeps (by rfl) ?_
  exact Keeps.refl _

theorem execPrbsLockLoss_keeps {rx : LaneRx} {s : State} :
    KeepsX (mask [.rep, .lanes, .msix, .fresh, .out, .page .lan]) s (execPrbsLockLoss rx s) := by
  unfold execPrbsLockLoss
  refine KeepsX.done (by rfl) ?_
  refine Keeps.step State.laneFeed_keeps (by rfl) ?_
  exact Keeps.refl _

end Sys2Proof.Machine
end

