-- ==== Sys2Proof/Laws/Otn.lean ====
section
/-! SUPPORT. What the operations of Machine/Otn.lean keep, and the parts of the state that they may change. -/

namespace Sys2Proof.Machine

open Sys2Proof

theorem State.apsStep_keeps {s : State} {p : Nat} {f : OtnFrame} :
    Keeps (mask [.rep, .otn, .page .otf]) s (State.apsStep s p f) := by
  unfold State.apsStep
  refine Keeps.ite ?_ ?_
  · exact Keeps.refl _
  · extract_lets x1 x2 x3 x4
    have h1 : Keeps (mask [.rep, .otn, .page .otf]) s x3 := by
      unfold x3
      refine Keeps.step State.modOtnp_keeps (by rfl) ?_
      exact Keeps.refl _
    have h2 : Keeps (mask [.rep, .otn, .page .otf]) s x4 := by
      unfold x4
      refine Keeps.step State.count_keeps (by rfl) ?_
      refine Keeps.step State.wr_keeps (by rfl) ?_
      refine Keeps.step State.wr_keeps (by rfl) ?_
      assumption
    clear_value x4
    clear_value x3
    refine Keeps.ite ?_ ?_
    · refine Keeps.onlyIf ?_ ?_
      · intro u1
        refine Keeps.step State.irq_keeps (by rfl) ?_
        exact Keeps.refl _
      · assumption
    · assumption

theorem State.putGroup_keeps {s : State} {p : Nat} {q : Nat} {a : Nat} {opened : Bool} :
    KeepsP (mask [.rep, .hearth]) s (State.putGroup s p q a opened) := by
  unfold State.putGroup
  extract_lets x1 x2
  have h1 : Keeps (mask [.rep, .hearth]) s x2 := by
    unfold x2
    refine Keeps.step State.count_keeps (by rfl) ?_
    refine Keeps.step State.chargePolicer_keeps (by rfl) ?_
    exact Keeps.refl _
  clear_value x2
  refine KeepsP.mk ?_
  refine Keeps.step State.modHearth_keeps (by rfl) ?_
  assumption

theorem State.refuseGroup_keeps {s : State} {q : Nat} :
    Keeps (mask [.rep]) s (State.refuseGroup s q) := by
  unfold State.refuseGroup
  refine Keeps.onlyIf ?_ ?_
  · intro u1
    refine Keeps.step State.count_keeps (by rfl) ?_
    refine Keeps.step State.hrtEvent_keeps (by rfl) ?_
    exact Keeps.refl _
  · exact Keeps.refl _

theorem State.modSeal_keeps {s : State} {p : Nat} {f : SealRt → SealRt} :
    Keeps (mask [.seals]) s (State.modSeal s p f) := by
  unfold State.modSeal
  refine Keeps.step Keeps.set_seals (by rfl) ?_
  exact Keeps.refl _

theorem State.beginOpen_keeps {s : State} {p : Nat} :
    Keeps (mask [.rep, .hearth, .seals]) s (State.beginOpen s p) := by
  unfold State.beginOpen
  extract_lets x1 x2 x3 x4 x5 x6 x7
  have h1 : KeepsP (mask [.rep, .hearth, .seals]) s x7 := by
    unfold x7
    refine KeepsP.step State.putGroup_keeps (by rfl) ?_
    exact Keeps.refl _
  clear_value x7
  split
  rename_i x8 y0 e1
  have h2 : Keeps (mask [.rep, .hearth, .seals]) s x8 := KeepsP.of_eq e1 (by
      refine KeepsP.ite ?_ ?_
      · refine KeepsP.mk ?_
        refine KeepsP.fst ?_
        assumption
      · refine KeepsP.mk ?_
        refine Keeps.step State.refuseGroup_keeps (by rfl) ?_
        exact Keeps.refl _
    )
  clear e1
  extract_lets x9
  refine Keeps.step State.modSeal_keeps (by rfl) ?_
  assumption

theorem State.beginSeal_keeps {s : State} {p : Nat} {act : Nat} :
    Keeps (mask [.sched, .rep, .assocs, .hearth, .seals, .pair]) s (State.beginSeal s p act) := by
  unfold State.beginSeal
  extract_lets x1 x2 x3 x4 x5 x6
  have h1 : Keeps (mask [.sched, .rep, .assocs, .hearth, .seals, .pair]) s x1 := by
    unfold x1
    refine Keeps.step State.modSeal_keeps (by rfl) ?_
    exact Keeps.refl _
  have h2 : Keeps (mask [.sched, .rep, .assocs, .hearth, .seals, .pair]) s x5 := by
    unfold x5
    refine Keeps.onlyIf ?_ ?_
    · intro u1
      refine Keeps.step State.refuseGroup_keeps (by rfl) ?_
      exact Keeps.refl _
    · assumption
  clear_value x5
  clear_value x1
  refine Keeps.ite ?_ ?_
  · refine Keeps.step State.modSeal_keeps (by rfl) ?_
    assumption
  · refine Keeps.ite ?_ ?_
    · refine Keeps.step State.count_keeps (by rfl) ?_
      assumption
    · refine Keeps.ite ?_ ?_
      · assumption
      · split
        · rename_i x7 e1
          have h3 : Keeps (mask [.sched, .rep, .assocs, .hearth, .seals, .pair]) s x7 := KeepsP.of_eq e1 (by
              refine KeepsP.step State.pnCheck_keeps (by rfl) ?_
              assumption
            )
          clear e1
          refine Keeps.ite ?_ ?_
          · assumption
          · assumption
        · rename_i x7 e1
          have h3 : Keeps (mask [.sched, .rep, .assocs, .hearth, .seals, .pair]) s x7 := KeepsP.of_eq e1 (by
              refine KeepsP.step State.pnCheck_keeps (by rfl) ?_
              assumption
            )
          clear e1
          extract_lets x8 x9
          have h4 : KeepsP (mask [.sched, .rep, .assocs, .hearth, .seals, .pair]) s x9 := by
            unfold x9
            refine KeepsP.step State.putGroup_keeps (by rfl) ?_
            assumption
          clear_value x9
          split
          rename_i x10 y0 e1
          have h5 : Keeps (mask [.sched, .rep, .assocs, .hearth, .seals, .pair]) s x10 := KeepsP.of_eq e1 (by
              refine KeepsP.ite ?_ ?_
              · refine KeepsP.mk ?_
                refine KeepsP.fst ?_
                assumption
              · refine KeepsP.mk ?_
                assumption
            )
          clear e1
          split
          rename_i x11 y0 e1
          have h6 : Keeps (mask [.sched, .rep, .assocs, .hearth, .seals, .pair]) s x11 := KeepsP.of_eq e1 (by
              refine KeepsP.step State.assignPn_keeps (by rfl) ?_
              assumption
            )
          clear e1
          refine Keeps.step State.modSeal_keeps (by rfl) ?_
          assumption

theorem State.modGroup_keeps {s : State} {id : Nat} {f : HGroup → HGroup} :
    Keeps (mask [.hearth]) s (State.modGroup s id f) := by
  unfold State.modGroup
  refine Keeps.step State.modHearth_keeps (by rfl) ?_
  exact Keeps.refl _

theorem State.releaseOpen_keeps {s : State} {p : Nat} {h2 : RxGroup} {ok : Bool} :
    Keeps (mask [.hearth]) s (State.releaseOpen s p h2 ok) := by
  unfold State.releaseOpen
  split
  · refine Keeps.step State.modGroup_keeps (by rfl) ?_
    exact Keeps.refl _
  · exact Keeps.refl _

theorem State.toHunt_keeps {s : State} {p : Nat} :
    Keeps (mask [.seals, .page .sea]) s (State.toHunt s p) := by
  unfold State.toHunt
  extract_lets x1
  have h1 : Keeps (mask [.seals, .page .sea]) s x1 := by
    unfold x1
    refine Keeps.step State.wr_keeps (by rfl) ?_
    refine Keeps.step State.wr_keeps (by rfl) ?_
    refine Keeps.step State.wr_keeps (by rfl) ?_
    exact Keeps.refl _
  clear_value x1
  refine Keeps.step State.modSeal_keeps (by rfl) ?_
  assumption

theorem State.sealSync_keeps {s : State} {p : Nat} :
    Keeps (mask [.rep, .seals, .page .sea]) s (State.sealSync s p) := by
  unfold State.sealSync
  extract_lets x1 x2 x3 x4 x5 x6 x7 x8 x9 x10 x11 x12
  have h1 : Keeps (mask [.rep, .seals, .page .sea]) s x7 := by
    unfold x7
    refine Keeps.step State.modSeal_keeps (by rfl) ?_
    exact Keeps.refl _
  have h2 : Keeps (mask [.rep, .seals, .page .sea]) s x10 := by
    unfold x10
    refine Keeps.ite ?_ ?_
    · exact Keeps.refl _
    · refine Keeps.ite ?_ ?_
      · refine Keeps.step State.wr_keeps (by rfl) ?_
        exact Keeps.refl _
      · refine Keeps.step State.count_keeps (by rfl) ?_
        refine Keeps.step State.wr_keeps (by rfl) ?_
        exact Keeps.refl _
  clear_value x10
  clear_value x7
  split
  · refine Keeps.ite ?_ ?_
    · refine Keeps.step State.modSeal_keeps (by rfl) ?_
      refine Keeps.step State.wr_keeps (by rfl) ?_
      exact Keeps.refl _
    · exact Keeps.refl _
  · refine Keeps.ite ?_ ?_
    · refine Keeps.ite ?_ ?_
      · refine Keeps.step State.modSeal_keeps (by rfl) ?_
        refine Keeps.step State.wr_keeps (by rfl) ?_
        refine Keeps.step State.wr_keeps (by rfl) ?_
        refine Keeps.step State.wr_keeps (by rfl) ?_
        assumption
      · assumption
    · refine Keeps.step State.toHunt_keeps (by rfl) ?_
      exact Keeps.refl _
  · refine Keeps.ite ?_ ?_
    · refine Keeps.step State.event_keeps (by rfl) ?_
      refine Keeps.step State.count_keeps (by rfl) ?_
      refine Keeps.step State.toHunt_keeps (by rfl) ?_
      assumption
    · split
      · extract_lets x13
        have h3 : Keeps (mask [.rep, .seals, .page .sea]) s x13 := by
          unfold x13
          refine Keeps.step State.modSeal_keeps (by rfl) ?_
          refine Keeps.step State.wr_keeps (by rfl) ?_
          refine Keeps.step State.wr_keeps (by rfl) ?_
          assumption
        clear_value x13
        refine Keeps.step State.event_keeps (by rfl) ?_
        refine Keeps.step State.count_keeps (by rfl) ?_
        assumption
      · refine Keeps.ite ?_ ?_
        · refine Keeps.step State.modSeal_keeps (by rfl) ?_
          refine Keeps.step State.wr_keeps (by rfl) ?_
          refine Keeps.step State.wr_keeps (by rfl) ?_
          assumption
        · refine Keeps.step State.modSeal_keeps (by rfl) ?_
          assumption

theorem State.groupVerdict_keeps {s : State} {p : Nat} :
    Keeps (mask [.rep, .ports, .hearth, .seals]) s (State.groupVerdict s p) := by
  unfold State.groupVerdict
  extract_lets x1 x2 x3 x4
  have h1 : Keeps (mask [.rep, .ports, .hearth, .seals]) s x2 := by
    unfold x2
    refine Keeps.step State.modSeal_keeps (by rfl) ?_
    exact Keeps.refl _
  clear_value x2
  split
  · exact Keeps.refl _
  · extract_lets x5 x6 x7 x8
    have h2 : Keeps (mask [.rep, .ports, .hearth, .seals]) s x8 := by
      unfold x8
      refine Keeps.ite ?_ ?_
      · assumption
      · refine Keeps.ite ?_ ?_
        · refine Keeps.step State.count_keeps (by rfl) ?_
          refine Keeps.step State.count_keeps (by rfl) ?_
          assumption
        · refine Keeps.step State.zeroDrop_keeps (by rfl) ?_
          assumption
    clear_value x8
    refine Keeps.step State.releaseOpen_keeps (by rfl) ?_
    assumption

theorem State.closeOpen_keeps {s : State} {p : Nat} :
    Keeps (mask [.rep, .ports, .hearth, .seals, .page .sea]) s (State.closeOpen s p) := by
  unfold State.closeOpen
  extract_lets x1
  refine Keeps.ite ?_ ?_
  · exact Keeps.refl _
  · refine Keeps.step State.modSeal_keeps (by rfl) ?_
    refine Keeps.step State.releaseOpen_keeps (by rfl) ?_
    refine Keeps.step State.sealSync_keeps (by rfl) ?_
    refine Keeps.step State.groupVerdict_keeps (by rfl) ?_
    exact Keeps.refl _

theorem State.phaseStep_keeps {s : State} {p : Nat} {bit : Bool} :
    Keeps (mask [.seals, .page .sea]) s (State.phaseStep s p bit) := by
  unfold State.phaseStep
  extract_lets x1 x2 x3
  have h1 : Keeps (mask [.seals, .page .sea]) s x3 := by
    unfold x3
    refine Keeps.step State.modSeal_keeps (by rfl) ?_
    exact Keeps.refl _
  clear_value x3
  refine Keeps.ite ?_ ?_
  · refine Keeps.step State.modSeal_keeps (by rfl) ?_
    exact Keeps.refl _
  · refine Keeps.ite ?_ ?_
    · refine Keeps.step State.wr_keeps (by rfl) ?_
      refine Keeps.step State.modSeal_keeps (by rfl) ?_
      assumption
    · assumption

theorem State.countdownStep_keeps {s : State} {p : Nat} {i : Nat} {d : Nat} :
    Keeps (mask [.rep, .seals, .page .sea]) s (State.countdownStep s p i d) := by
  unfold State.countdownStep
  extract_lets x1 x2 x3 x4 x5 x6 x7
  have h1 : Keeps (mask [.rep, .seals, .page .sea]) s x5 := by
    unfold x5
    refine Keeps.onlyIf ?_ ?_
    · intro u1
      refine Keeps.step State.event_keeps (by rfl) ?_
      refine Keeps.step State.count_keeps (by rfl) ?_
      exact Keeps.refl _
    · exact Keeps.refl _
  have h2 : Keeps (mask [.rep, .seals, .page .sea]) s x6 := by
    unfold x6
    refine Keeps.step State.modSeal_keeps (by rfl) ?_
    assumption
  have h3 : Keeps (mask [.rep, .seals, .page .sea]) s x7 := by
    unfold x7
    refine Keeps.step State.wr_keeps (by rfl) ?_
    refine Keeps.step State.count_keeps (by rfl) ?_
    assumption
  clear_value x7
  clear_value x6
  clear_value x5
  refine Keeps.ite ?_ ?_
  · refine Keeps.ite ?_ ?_
    · refine Keeps.step State.wr_keeps (by rfl) ?_
      refine Keeps.step State.modSeal_keeps (by rfl) ?_
      assumption
    · refine Keeps.step State.wr_keeps (by rfl) ?_
      refine Keeps.step State.modSeal_keeps (by rfl) ?_
      assumption
  · assumption

theorem State.cipherOtn_keeps {s : State} {p : Nat} {act : Nat} {f : OtnFrame} {i : Nat} :
    Keeps (mask [.rep, .ports, .chims, .hearth, .seals, .page .sea]) s (State.cipherOtn s p act f i) := by
  unfold State.cipherOtn
  extract_lets x1 x2 x3 x4 x5 x6
  have h1 : Keeps (mask [.rep, .ports, .chims, .hearth, .seals, .page .sea]) s x1 := by
    unfold x1
    refine Keeps.ite ?_ ?_
    · exact Keeps.refl _
    · refine Keeps.step State.closeOpen_keeps (by rfl) ?_
      exact Keeps.refl _
  have h2 : Keeps (mask [.rep, .ports, .chims, .hearth, .seals, .page .sea]) s x2 := by
    unfold x2
    refine Keeps.ite ?_ ?_
    · refine Keeps.step State.beginOpen_keeps (by rfl) ?_
      assumption
    · assumption
  have h3 : Keeps (mask [.rep, .ports, .chims, .hearth, .seals, .page .sea]) s x4 := by
    unfold x4
    refine Keeps.onlyIf ?_ ?_
    · intro u1
      refine Keeps.step State.chargeSlots_keeps (by rfl) ?_
      exact Keeps.refl _
    · assumption
  have h4 : Keeps (mask [.rep, .ports, .chims, .hearth, .seals, .page .sea]) s x5 := by
    unfold x5
    refine Keeps.step State.modSeal_keeps (by rfl) ?_
    assumption
  clear_value x5
  clear_value x4
  clear_value x2
  clear_value x1
  refine Keeps.ite ?_ ?_
  · assumption
  · refine Keeps.ite ?_ ?_
    · assumption
    · refine Keeps.step State.phaseStep_keeps (by rfl) ?_
      refine Keeps.step State.countdownStep_keeps (by rfl) ?_
      assumption

theorem State.closeSeal_keeps {s : State} {p : Nat} :
    Keeps (mask [.hearth, .seals]) s (State.closeSeal s p) := by
  unfold State.closeSeal
  extract_lets x1 x2
  have h1 : Keeps (mask [.hearth, .seals]) s x2 := by
    unfold x2
    split
    · refine Keeps.onlyIf ?_ ?_
      · intro u1
        refine Keeps.step State.modGroup_keeps (by rfl) ?_
        exact Keeps.refl _
      · exact Keeps.refl _
    · exact Keeps.refl _
  clear_value x2
  refine Keeps.step State.modSeal_keeps (by rfl) ?_
  assumption

theorem State.clearOtn_keeps {s : State} {p : Nat} {act : Nat} {f : OtnFrame} {i : Nat} :
    Keeps (mask [.sched, .rep, .assocs, .chims, .hearth, .seals, .pair, .fresh]) s (State.clearOtn s p act f i) := by
  unfold State.clearOtn
  extract_lets x1 x2 x3 x4 x5 x6
  have h1 : Keeps (mask [.sched, .rep, .assocs, .chims, .hearth, .seals, .pair, .fresh]) s x1 := by
    unfold x1
    refine Keeps.ite ?_ ?_
    · refine Keeps.step State.beginSeal_keeps (by rfl) ?_
      refine Keeps.ite ?_ ?_
      · refine Keeps.step State.closeSeal_keeps (by rfl) ?_
        exact Keeps.refl _
      · exact Keeps.refl _
    · exact Keeps.refl _
  have h2 : Keeps (mask [.sched, .rep, .assocs, .chims, .hearth, .seals, .pair, .fresh]) s x2 := by
    unfold x2
    refine Keeps.ite ?_ ?_
    · assumption
    · refine Keeps.step State.modSeal_keeps (by rfl) ?_
      assumption
  have h3 : Keeps (mask [.sched, .rep, .assocs, .chims, .hearth, .seals, .pair, .fresh]) s x4 := by
    unfold x4
    refine Keeps.onlyIf ?_ ?_
    · intro u1
      refine Keeps.step State.count_keeps (by rfl) ?_
      exact Keeps.refl _
    · assumption
  clear_value x4
  clear_value x2
  clear_value x1
  refine Keeps.ite ?_ ?_
  · refine Keeps.onlyIf ?_ ?_
    · intro u1
      refine Keeps.step State.count_keeps (by rfl) ?_
      exact Keeps.refl _
    · refine Keeps.ite ?_ ?_
      · refine Keeps.step State.closeSeal_keeps (by rfl) ?_
        assumption
      · assumption
  · split
    rename_i x7 y0 e1
    have h4 : Keeps (mask [.sched, .rep, .assocs, .chims, .hearth, .seals, .pair, .fresh]) s x7 := KeepsP.of_eq e1 (by
        refine KeepsP.ite ?_ ?_
        · refine KeepsP.mk ?_
          refine Keeps.step State.burn_keeps (by rfl) ?_
          assumption
        · refine KeepsP.mk ?_
          assumption
      )
    clear e1
    extract_lets x8 x9 x10 x11 x12 x13 x14 x15
    have h5 : Keeps (mask [.sched, .rep, .assocs, .chims, .hearth, .seals, .pair, .fresh]) s x9 := by
      unfold x9
      split
      · refine Keeps.step State.modGroup_keeps (by rfl) ?_
        assumption
      · assumption
    have h6 : Keeps (mask [.sched, .rep, .assocs, .chims, .hearth, .seals, .pair, .fresh]) s x11 := by
      unfold x11
      refine Keeps.onlyIf ?_ ?_
      · intro u1
        refine Keeps.step State.chargeSlots_keeps (by rfl) ?_
        exact Keeps.refl _
      · assumption
    have h7 : Keeps (mask [.sched, .rep, .assocs, .chims, .hearth, .seals, .pair, .fresh]) s x12 := by
      unfold x12
      refine Keeps.step State.modSeal_keeps (by rfl) ?_
      assumption
    have h8 : Keeps (mask [.sched, .rep, .assocs, .chims, .hearth, .seals, .pair, .fresh]) s x14 := by
      unfold x14
      refine Keeps.step State.closeSeal_keeps (by rfl) ?_
      assumption
    have h9 : Keeps (mask [.sched, .rep, .assocs, .chims, .hearth, .seals, .pair, .fresh]) s x15 := by
      unfold x15
      refine Keeps.step State.chargeSlots_keeps (by rfl) ?_
      refine Keeps.step State.count_keeps (by rfl) ?_
      refine Keeps.step State.count_keeps (by rfl) ?_
      assumption
    clear_value x15
    clear_value x14
    clear_value x12
    clear_value x11
    clear_value x9
    refine Keeps.ite ?_ ?_
    · assumption
    · refine Keeps.ite ?_ ?_
      · refine Keeps.step State.modSeal_keeps (by rfl) ?_
        assumption
      · assumption

theorem State.leaveOtn_keeps {s : State} {p : Nat} :
    Keeps (mask [.rep, .ports, .hearth, .seals, .page .sea]) s (State.leaveOtn s p) := by
  unfold State.leaveOtn
  refine Keeps.ite ?_ ?_
  · refine Keeps.ite ?_ ?_
    · refine Keeps.step State.groupVerdict_keeps (by rfl) ?_
      refine Keeps.step State.closeOpen_keeps (by rfl) ?_
      exact Keeps.refl _
    · refine Keeps.step State.closeSeal_keeps (by rfl) ?_
      exact Keeps.refl _
  · exact Keeps.refl _

theorem State.countLocked_keeps {s : State} {p : Nat} :
    Keeps (mask [.page .otf]) s (State.countLocked s p) := by
  unfold State.countLocked
  extract_lets x1
  refine Keeps.step State.wr_keeps (by rfl) ?_
  exact Keeps.refl _

theorem State.sealLosEdge_keeps {s : State} {p : Nat} :
    Keeps (mask [.page .sea]) s (State.sealLosEdge s p) := by
  unfold State.sealLosEdge
  refine Keeps.step State.wr_keeps (by rfl) ?_
  exact Keeps.refl _

theorem State.timEval_keeps {s : State} {p : Nat} :
    Keeps (mask [.page .otf]) s (State.timEval s p) := by
  unfold State.timEval
  extract_lets x1 x2 x3 x4 x5
  refine Keeps.step State.wr_keeps (by rfl) ?_
  refine Keeps.step State.wr_keeps (by rfl) ?_
  exact Keeps.refl _

theorem State.leaveMf_keeps {s : State} {p : Nat} :
    Keeps (mask [.otn, .page .otf]) s (State.leaveMf s p) := by
  unfold State.leaveMf
  refine Keeps.step State.wr_keeps (by rfl) ?_
  refine Keeps.step State.modOtnp_keeps (by rfl) ?_
  exact Keeps.refl _

theorem State.fasStep_keeps {s : State} {p : Nat} {ok : Bool} :
    Keeps (mask [.rep, .otn, .page .otf]) s (State.fasStep s p ok) := by
  unfold State.fasStep
  extract_lets x1 x2 x3 x4
  have h1 : Keeps (mask [.rep, .otn, .page .otf]) s x2 := by
    unfold x2
    refine Keeps.onlyIf ?_ ?_
    · intro u1
      refine Keeps.step State.count_keeps (by rfl) ?_
      exact Keeps.refl _
    · exact Keeps.refl _
  have h2 : Keeps (mask [.rep, .otn, .page .otf]) s x3 := by
    unfold x3
    refine Keeps.step State.modOtnp_keeps (by rfl) ?_
    assumption
  have h3 : Keeps (mask [.rep, .otn, .page .otf]) s x4 := by
    unfold x4
    refine Keeps.step State.modOtnp_keeps (by rfl) ?_
    assumption
  clear_value x4
  clear_value x3
  clear_value x2
  refine Keeps.ite ?_ ?_
  · refine Keeps.ite ?_ ?_
    · refine Keeps.step State.wr_keeps (by rfl) ?_
      refine Keeps.step State.modOtnp_keeps (by rfl) ?_
      assumption
    · assumption
  · refine Keeps.ite ?_ ?_
    · refine Keeps.step State.count_keeps (by rfl) ?_
      refine Keeps.step State.wr_keeps (by rfl) ?_
      refine Keeps.step State.modOtnp_keeps (by rfl) ?_
      refine Keeps.step State.leaveMf_keeps (by rfl) ?_
      assumption
    · assumption

theorem State.gccNext_keeps {s : State} {p : Nat} {n : Nat} :
    KeepsP (mask [.kindle]) s (State.gccNext s p n) := by
  unfold State.gccNext
  extract_lets x1 x2
  refine KeepsP.mk ?_
  refine Keeps.step State.gccPassed_keeps (by rfl) ?_
  refine Keeps.step Keeps.set_kindle (by rfl) ?_
  exact Keeps.refl _

theorem State.gccOut_keeps {s : State} {p : Nat} {ingress : Nat} {f : OtnFrame} :
    KeepsP (mask [.kindle, .fresh]) s (State.gccOut s p ingress f) := by
  unfold State.gccOut
  extract_lets x1 x2 x3 x4
  have h1 : Keeps (mask [.kindle, .fresh]) s x3 := by
    unfold x3
    refine Keeps.ite ?_ ?_
    · refine Keeps.step State.burn_keeps (by rfl) ?_
      exact Keeps.refl _
    · exact Keeps.refl _
  have h2 : Keeps (mask [.kindle, .fresh]) s x4 := by
    unfold x4
    refine Keeps.ite ?_ ?_
    · refine Keeps.step State.burn_keeps (by rfl) ?_
      assumption
    · assumption
  clear_value x4
  clear_value x3
  refine KeepsP.ite ?_ ?_
  · refine KeepsP.ite ?_ ?_
    · refine KeepsP.mk ?_
      exact Keeps.refl _
    · split
      rename_i x5 y0 e1
      have h3 : Keeps (mask [.kindle, .fresh]) s x5 := KeepsP.of_eq e1 (by
          refine KeepsP.step State.gccNext_keeps (by rfl) ?_
          exact Keeps.refl _
        )
      clear e1
      refine KeepsP.mk ?_
      assumption
  · refine KeepsP.ite ?_ ?_
    · refine KeepsP.mk ?_
      assumption
    · refine KeepsP.mk ?_
      exact Keeps.refl _

theorem State.gccStep_keeps {s : State} {p : Nat} {f : OtnFrame} :
    Keeps (mask [.rep, .kindle]) s (State.gccStep s p f) := by
  unfold State.gccStep
  extract_lets x1 x2 x3
  refine Keeps.ite ?_ ?_
  · exact Keeps.refl _
  · split
    refine Keeps.step State.count_keeps (by rfl) ?_
    refine Keeps.step Keeps.set_kindle (by rfl) ?_
    exact Keeps.refl _

theorem State.groupLost_keeps {s : State} {g : Nat} {bank : Option (Fin 512 × Nat)} :
    Keeps (mask [.rep, .hearth, .page .flt]) s (State.groupLost s g bank) := by
  unfold State.groupLost
  split
  · extract_lets x1
    have h1 : Keeps (mask [.rep, .hearth, .page .flt]) s x1 := by
      unfold x1
      refine Keeps.step State.sramError_keeps (by rfl) ?_
      refine Keeps.step State.hrtEvent_keeps (by rfl) ?_
      refine Keeps.step State.count_keeps (by rfl) ?_
      exact Keeps.refl _
    clear_value x1
    refine Keeps.step State.modGroup_keeps (by rfl) ?_
    assumption
  · exact Keeps.refl _

theorem State.groupReceived_keeps {s : State} {p : Nat} :
    Keeps (mask [.rep, .ports, .chims, .hearth, .seals, .page .sea]) s (State.groupReceived s p) := by
  unfold State.groupReceived
  extract_lets x1 x2 x3
  have h1 : Keeps (mask [.rep, .ports, .chims, .hearth, .seals, .page .sea]) s x2 := by
    unfold x2
    refine Keeps.step State.groupVerdict_keeps (by rfl) ?_
    exact Keeps.refl _
  have h2 : Keeps (mask [.rep, .ports, .chims, .hearth, .seals, .page .sea]) s x3 := by
    unfold x3
    refine Keeps.onlyIf ?_ ?_
    · intro u1
      refine Keeps.step State.chargeSlots_keeps (by rfl) ?_
      refine Keeps.step State.count_keeps (by rfl) ?_
      exact Keeps.refl _
    · assumption
  clear_value x3
  clear_value x2
  refine Keeps.ite ?_ ?_
  · exact Keeps.refl _
  · refine Keeps.step State.modSeal_keeps (by rfl) ?_
    refine Keeps.step State.sealSync_keeps (by rfl) ?_
    assumption

theorem State.laneOcc_keeps {s : State} {p : Nat} {o : LaneOcc} :
    Keeps (mask [.rep, .otn, .page .otf]) s (State.laneOcc s p o) := by
  unfold State.laneOcc
  extract_lets x1 x2 x3 x4 x5 x6 x7 x8 x9
  have h1 : ∀ u b1, Keeps (mask [.rep, .otn, .page .otf]) u (x4 u b1) := by
    intro u b1
    unfold x4
    refine Keeps.step State.modOtnp_keeps (by rfl) ?_
    exact Keeps.refl _
  have h2 : Keeps (mask [.rep, .otn, .page .otf]) s x9 := by
    unfold x9
    refine Keeps.step (h1 ..) (Nat.or_self _) ?_
    exact Keeps.refl _
  clear_value x9
  clear_value x4
  split
  · refine Keeps.ite ?_ ?_
    · exact Keeps.refl _
    · extract_lets x10 x11
      refine Keeps.ite ?_ ?_
      · refine Keeps.step (h1 ..) (Nat.or_self _) ?_
        exact Keeps.refl _
      · refine Keeps.ite ?_ ?_
        · refine Keeps.step (h1 ..) (Nat.or_self _) ?_
          exact Keeps.refl _
        · refine Keeps.step (h1 ..) (Nat.or_self _) ?_
          exact Keeps.refl _
  · refine Keeps.ite ?_ ?_
    · refine Keeps.step (h1 ..) (Nat.or_self _) ?_
      exact Keeps.refl _
    · refine Keeps.ite ?_ ?_
      · refine Keeps.step (h1 ..) (Nat.or_self _) ?_
        exact Keeps.refl _
      · refine Keeps.ite ?_ ?_
        · refine Keeps.step State.count_keeps (by rfl) ?_
          refine Keeps.step State.wr_keeps (by rfl) ?_
          refine Keeps.step (h1 ..) (Nat.or_self _) ?_
          exact Keeps.refl _
        · refine Keeps.onlyIf ?_ ?_
          · intro u1
            refine Keeps.step State.wr_keeps (by rfl) ?_
            exact Keeps.refl _
          · assumption

theorem State.mfasStep_keeps {s : State} {p : Nat} {mfas : Nat} :
    Keeps (mask [.rep, .otn, .page .otf]) s (State.mfasStep s p mfas) := by
  unfold State.mfasStep
  extract_lets x1 x2 x3 x4
  have h1 : Keeps (mask [.rep, .otn, .page .otf]) s x2 := by
    unfold x2
    refine Keeps.step State.modOtnp_keeps (by rfl) ?_
    exact Keeps.refl _
  have h2 : Keeps (mask [.rep, .otn, .page .otf]) s x3 := by
    unfold x3
    refine Keeps.step State.modOtnp_keeps (by rfl) ?_
    assumption
  have h3 : Keeps (mask [.rep, .otn, .page .otf]) s x4 := by
    unfold x4
    refine Keeps.step State.count_keeps (by rfl) ?_
    refine Keeps.step State.modOtnp_keeps (by rfl) ?_
    assumption
  clear_value x4
  clear_value x3
  clear_value x2
  split
  · assumption
  · refine Keeps.ite ?_ ?_
    · refine Keeps.ite ?_ ?_
      · refine Keeps.step State.wr_keeps (by rfl) ?_
        refine Keeps.step State.modOtnp_keeps (by rfl) ?_
        assumption
      · assumption
    · refine Keeps.ite ?_ ?_
      · refine Keeps.step State.wr_keeps (by rfl) ?_
        refine Keeps.step State.modOtnp_keeps (by rfl) ?_
        assumption
      · assumption

theorem State.smSent_keeps {s : State} {p : Nat} {m2 : Nat} {opu : Byte} :
    KeepsP (mask [.otn]) s (State.smSent s p m2 opu) := by
  unfold State.smSent
  extract_lets x1 x2
  refine KeepsP.mk ?_
  refine Keeps.step State.modOtnp_keeps (by rfl) ?_
  exact Keeps.refl _

theorem State.otnBuild_keeps {s : State} {p : Nat} {x : OtnItem} {g : HGroup} {bank : Option (Fin 512 × Nat)} :
    Keeps (mask [.rep, .otn, .hearth, .kindle, .fresh, .out, .page .flt]) s (State.otnBuild s p x g bank) := by
  unfold State.otnBuild
  extract_lets x1 x2 x3 x4 x5 x6
  have h1 : Keeps (mask [.rep, .otn, .hearth, .kindle, .fresh, .out, .page .flt]) s x3 := by
    unfold x3
    refine Keeps.step State.groupLost_keeps (by rfl) ?_
    exact Keeps.refl _
  clear_value x3
  split
  rename_i x7 y0 e1
  have h2 : Keeps (mask [.rep, .otn, .hearth, .kindle, .fresh, .out, .page .flt]) s x7 := KeepsP.of_eq e1 (by
      refine KeepsP.step State.gccOut_keeps (by rfl) ?_
      assumption
    )
  clear e1
  extract_lets x8
  split
  rename_i x9 y0 e1
  have h3 : Keeps (mask [.rep, .otn, .hearth, .kindle, .fresh, .out, .page .flt]) s x9 := KeepsP.of_eq e1 (by
      refine KeepsP.step State.smSent_keeps (by rfl) ?_
      assumption
    )
  clear e1
  refine Keeps.step State.emit_keeps (by rfl) ?_
  assumption

theorem State.statStep_keeps {s : State} {p : Nat} {f : OtnFrame} :
    Keeps (mask [.otn]) s (State.statStep s p f) := by
  unfold State.statStep
  refine Keeps.step State.modOtnp_keeps (by rfl) ?_
  exact Keeps.refl _

theorem State.smStep_keeps {s : State} {p : Nat} {f : OtnFrame} :
    KeepsP (mask [.rep, .otn]) s (State.smStep s p f) := by
  unfold State.smStep
  extract_lets x1 x2 x3 x4 x5 x6
  have h1 : Keeps (mask [.rep, .otn]) s x5 := by
    unfold x5
    refine Keeps.step State.count_keeps (by rfl) ?_
    refine Keeps.step State.count_keeps (by rfl) ?_
    exact Keeps.refl _
  have h2 : Keeps (mask [.rep, .otn]) s x6 := by
    unfold x6
    refine Keeps.step State.modOtnp_keeps (by rfl) ?_
    assumption
  clear_value x6
  clear_value x5
  refine KeepsP.mk ?_
  assumption

theorem State.traceStep_keeps {s : State} {p : Nat} {f : OtnFrame} :
    Keeps (mask [.otn, .page .otf]) s (State.traceStep s p f) := by
  unfold State.traceStep
  extract_lets x1 x2 x3
  split
  split
  extract_lets x4 x5 x6 x7
  have h1 : Keeps (mask [.otn, .page .otf]) s x4 := by
    unfold x4
    refine Keeps.step State.modOtnp_keeps (by rfl) ?_
    exact Keeps.refl _
  have h2 : Keeps (mask [.otn, .page .otf]) s x6 := by
    unfold x6
    refine Keeps.onlyIf ?_ ?_
    · intro u1
      refine Keeps.step State.wr_keeps (by rfl) ?_
      refine Keeps.step State.wrWords_keeps (by rfl) ?_
      exact Keeps.refl _
    · assumption
  have h3 : Keeps (mask [.otn, .page .otf]) s x7 := by
    unfold x7
    refine Keeps.onlyIf ?_ ?_
    · intro u1
      refine Keeps.step State.wr_keeps (by rfl) ?_
      refine Keeps.step State.wrWords_keeps (by rfl) ?_
      exact Keeps.refl _
    · assumption
  clear_value x7
  clear_value x6
  clear_value x4
  refine Keeps.onlyIf ?_ ?_
  · intro u1
    refine Keeps.step State.timEval_keeps (by rfl) ?_
    exact Keeps.refl _
  · assumption

theorem State.otnOverhead_keeps {s : State} {p : Nat} {f : OtnFrame} :
    KeepsP (mask [.rep, .otn, .kindle, .page .otf]) s (State.otnOverhead s p f) := by
  unfold State.otnOverhead
  extract_lets x1 x2
  have h1 : Keeps (mask [.rep, .otn, .kindle, .page .otf]) s x1 := by
    unfold x1
    refine Keeps.step State.statStep_keeps (by rfl) ?_
    refine Keeps.step State.count_keeps (by rfl) ?_
    refine Keeps.step State.mfasStep_keeps (by rfl) ?_
    exact Keeps.refl _
  have h2 : Keeps (mask [.rep, .otn, .kindle, .page .otf]) s x2 := by
    unfold x2
    refine Keeps.onlyIf ?_ ?_
    · intro u1
      refine Keeps.step State.event_keeps (by rfl) ?_
      exact Keeps.refl _
    · assumption
  clear_value x2
  clear_value x1
  split
  rename_i x3 y0 e1
  have h3 : Keeps (mask [.rep, .otn, .kindle, .page .otf]) s x3 := KeepsP.of_eq e1 (by
      refine KeepsP.step State.smStep_keeps (by rfl) ?_
      assumption
    )
  clear e1
  refine KeepsP.mk ?_
  refine Keeps.ite ?_ ?_
  · refine Keeps.step State.gccStep_keeps (by rfl) ?_
    refine Keeps.step State.apsStep_keeps (by rfl) ?_
    refine Keeps.step State.traceStep_keeps (by rfl) ?_
    assumption
  · assumption

theorem State.otnReceive_keeps {s : State} {p : Nat} {f : OtnFrame} {occs : List LaneOcc} :
    Keeps (mask [.sched, .rep, .ports, .otn, .assocs, .chims, .hearth, .kindle, .seals, .pair, .fresh, .page .otf,
        .page .sea]) s (State.otnReceive s p f occs) := by
  unfold State.otnReceive
  refine Keeps.ite ?_ ?_
  · exact Keeps.refl _
  · extract_lets x1 x2 x3 x4 x5
    have h1 : Keeps (mask
  [.sched, .rep, .ports, .otn, .assocs, .chims, .hearth, .kindle, .seals, .pair,
    Part.fresh, .page .otf, .page .sea]) s x2 := by
      unfold x2
      refine Keeps.ite ?_ ?_
      · exact Keeps.refl _
      · refine Keeps.step State.countLocked_keeps (by rfl) ?_
        refine Keeps.forL ?_ ?_
        · intro b1 u1
          refine Keeps.step State.laneOcc_keeps (by rfl) ?_
          exact Keeps.refl _
        · exact Keeps.refl _
    have h2 : Keeps (mask
  [.sched, .rep, .ports, .otn, .assocs, .chims, .hearth, .kindle, .seals, .pair,
    Part.fresh, .page .otf, .page .sea]) s x3 := by
      unfold x3
      refine Keeps.onlyIf ?_ ?_
      · intro u1
        refine Keeps.step State.count_keeps (by rfl) ?_
        refine Keeps.step State.count_keeps (by rfl) ?_
        exact Keeps.refl _
      · assumption
    have h3 : Keeps (mask
  [.sched, .rep, .ports, .otn, .assocs, .chims, .hearth, .kindle, .seals, .pair,
    Part.fresh, .page .otf, .page .sea]) s x5 := by
      unfold x5
      refine Keeps.ite ?_ ?_
      · refine Keeps.step State.modOtnp_keeps (by rfl) ?_
        assumption
      · refine Keeps.step State.fasStep_keeps (by rfl) ?_
        assumption
    clear_value x5
    clear_value x3
    clear_value x2
    split
    rename_i x6 y0 e1
    have h4 : Keeps (mask
  [.sched, .rep, .ports, .otn, .assocs, .chims, .hearth, .kindle, .seals, .pair,
    Part.fresh, .page .otf, .page .sea]) s x6 := KeepsP.of_eq e1 (by
        refine KeepsP.ite ?_ ?_
        · refine KeepsP.step State.otnOverhead_keeps (by rfl) ?_
          assumption
        · refine KeepsP.mk ?_
          assumption
      )
    clear e1
    extract_lets x7 x8 x9 x10 x11
    have h5 : Keeps (mask
  [.sched, .rep, .ports, .otn, .assocs, .chims, .hearth, .kindle, .seals, .pair,
    Part.fresh, .page .otf, .page .sea]) s x9 := by
      unfold x9
      refine Keeps.step State.modOtnp_keeps (by rfl) ?_
      assumption
    have h6 : Keeps (mask
  [.sched, .rep, .ports, .otn, .assocs, .chims, .hearth, .kindle, .seals, .pair,
    Part.fresh, .page .otf, .page .sea]) s x11 := by
      unfold x11
      refine Keeps.step State.groupReceived_keeps (by rfl) ?_
      assumption
    clear_value x11
    clear_value x9
    refine Keeps.ite ?_ ?_
    · refine Keeps.step State.cipherOtn_keeps (by rfl) ?_
      assumption
    · refine Keeps.step State.clearOtn_keeps (by rfl) ?_
      assumption

theorem State.takeItem_keeps {s : State} {p : Nat} :
    KeepsO (mask [.hearth]) s (State.takeItem s p) := by
  unfold State.takeItem
  split
  · split
    · refine KeepsO.mk ?_
      refine Keeps.ite ?_ ?_
      · refine Keeps.step State.modHearth_keeps (by rfl) ?_
        exact Keeps.refl _
      · refine Keeps.step State.modGroup_keeps (by rfl) ?_
        exact Keeps.refl _
    · exact KeepsO.nil
  · exact KeepsO.nil

theorem State.sendAis_keeps {s : State} {p : Nat} :
    Keeps (mask [.rep, .otn, .kindle, .out]) s (State.sendAis s p) := by
  unfold State.sendAis
  extract_lets x1 x2 x3
  have h1 : Keeps (mask [.rep, .otn, .kindle, .out]) s x3 := by
    unfold x3
    refine Keeps.onlyIf ?_ ?_
    · intro u1
      refine KeepsP.fst ?_
      refine KeepsP.step State.gccNext_keeps (by rfl) ?_
      exact Keeps.refl _
    · exact Keeps.refl _
  clear_value x3
  split
  rename_i x4 y0 e1
  have h2 : Keeps (mask [.rep, .otn, .kindle, .out]) s x4 := KeepsP.of_eq e1 (by
      refine KeepsP.step State.smSent_keeps (by rfl) ?_
      assumption
    )
  clear e1
  refine Keeps.step State.emit_keeps (by rfl) ?_
  refine Keeps.step State.count_keeps (by rfl) ?_
  assumption

theorem State.otnSend_keeps {s : State} {p : Nat} {bank : Option (Fin 512 × Nat)} :
    Keeps (mask [.rep, .otn, .hearth, .kindle, .fresh, .out, .page .flt, .page .otf]) s (State.otnSend s p bank) := by
  unfold State.otnSend
  extract_lets x1 x2
  have h1 : Keeps (mask [.rep, .otn, .hearth, .kindle, .fresh, .out, .page .flt, .page .otf]) s x2 := by
    unfold x2
    refine Keeps.step State.wr_keeps (by rfl) ?_
    exact Keeps.refl _
  clear_value x2
  split
  · refine Keeps.step State.sendAis_keeps (by rfl) ?_
    assumption
  · rename_i x3 e1
    have h2 : Keeps (mask [.rep, .otn, .hearth, .kindle, .fresh, .out, .page .flt,
        .page .otf]) s x3 := KeepsO.elim (e := e1) (by
        refine KeepsO.step State.takeItem_keeps (by rfl) ?_
        assumption
      )
    clear e1
    refine Keeps.ite ?_ ?_
    · refine Keeps.step State.sendAis_keeps (by rfl) ?_
      assumption
    · refine Keeps.step State.otnBuild_keeps (by rfl) ?_
      assumption

theorem execOtnFrameReceived_keeps {p : PortNo} {f : OtnFrame} {occs : List LaneOcc} {cyc : Cyc} {s : State} :
    KeepsX (mask [.cycle, .sched, .rep, .ports, .otn, .assocs, .chims, .hearth, .kindle, .seals, .msix, .pair,
        .fresh, .out, .page .otf, .page .sea]) s (execOtnFrameReceived p f occs cyc s) := by
  unfold execOtnFrameReceived
  refine KeepsX.done (by rfl) ?_
  refine Keeps.step State.otnReceive_keeps (by rfl) ?_
  refine Keeps.step State.at_keeps (by rfl) ?_
  exact Keeps.refl _

theorem execOtnGroupReceived_keeps {p : PortNo} {s : State} :
    KeepsX (mask [.rep, .ports, .chims, .hearth, .seals, .msix, .out, .page .sea]) s (execOtnGroupReceived p s) := by
  unfold execOtnGroupReceived
  refine KeepsX.done (by rfl) ?_
  refine Keeps.step State.groupReceived_keeps (by rfl) ?_
  exact Keeps.refl _

theorem execOtnGroupVerdict_keeps {p : PortNo} {s : State} :
    KeepsX (mask [.rep, .ports, .hearth, .seals, .msix, .out]) s (execOtnGroupVerdict p s) := by
  unfold execOtnGroupVerdict
  refine KeepsX.done (by rfl) ?_
  refine Keeps.ite ?_ ?_
  · refine Keeps.step State.groupVerdict_keeps (by rfl) ?_
    exact Keeps.refl _
  · exact Keeps.refl _

theorem execOtnFrameTransmit_keeps {p : PortNo} {bank : Option (Fin 512 × Fin 131072)} {cyc : Cyc} {s : State} :
    KeepsX (mask [.cycle, .rep, .otn, .hearth, .kindle, .msix, .fresh, .out, .page .flt,
        .page .otf]) s (execOtnFrameTransmit p bank cyc s) := by
  unfold execOtnFrameTransmit
  extract_lets x1
  have h1 : Keeps (mask
  [.cycle, .rep, .otn, .hearth, .kindle, .msix, .fresh, .out, .page .flt,
    .page .otf]) s x1 := by
    unfold x1
    refine Keeps.step State.at_keeps (by rfl) ?_
    exact Keeps.refl _
  clear_value x1
  refine KeepsX.done (by rfl) ?_
  refine Keeps.ite ?_ ?_
  · refine Keeps.step State.otnSend_keeps (by rfl) ?_
    assumption
  · assumption

end Sys2Proof.Machine
end

