-- ==== Sys2Proof/Laws/Readiness.lean ====
section
/-! SUPPORT. What the operations of Machine/Readiness.lean keep, and the parts of the state that they may change. -/

namespace Sys2Proof.Machine

open Sys2Proof

theorem State.recoverAsn_keeps {a : Nat} {s : State} :
    Keeps (mask [.sched, .rep, .assocs, .vault, .kindle]) s (State.recoverAsn a s) := by
  unfold State.recoverAsn
  extract_lets x1
  have h1 : Keeps (mask [.sched, .rep, .assocs, .vault, .kindle]) s x1 := by
    unfold x1
    refine Keeps.step State.autoRecover_keeps (by rfl) ?_
    exact Keeps.refl _
  clear_value x1
  refine Keeps.ite ?_ ?_
  · refine Keeps.step State.kindleEntered_keeps (by rfl) ?_
    assumption
  · assumption

theorem State.kvtReady_keeps {s : State} :
    Keeps (mask [.sched, .rep, .vault, .fresh, .page .kvt]) s (State.kvtReady s) := by
  unfold State.kvtReady
  extract_lets x1 x2 x3 x4 x5 x6
  have h1 : Keeps (mask [.sched, .rep, .vault, .fresh, .page .kvt]) s x2 := by
    unfold x2
    refine Keeps.ite ?_ ?_
    · split
      rename_i x7 y0 e1
      have h1 : Keeps (mask [.sched, .rep, .vault, .fresh, .page .kvt]) s x7 := KeepsP.of_eq e1 (by
          refine KeepsP.step State.drawBytes_keeps (by rfl) ?_
          exact Keeps.refl _
        )
      clear e1
      refine Keeps.forL ?_ ?_
      · intro b1 u1
        refine Keeps.step State.badSlot_keeps (by rfl) ?_
        exact Keeps.refl _
      · refine Keeps.step Keeps.set_vault (by rfl) ?_
        assumption
    · refine Keeps.step State.scrubSlots_keeps (by rfl) ?_
      exact Keeps.refl _
  have h2 : Keeps (mask [.sched, .rep, .vault, .fresh, .page .kvt]) s x3 := by
    unfold x3
    refine Keeps.forL ?_ ?_
    · intro b1 u1
      extract_lets x7
      refine Keeps.step State.setSlot_keeps (by rfl) ?_
      exact Keeps.refl _
    · assumption
  have h3 : Keeps (mask [.sched, .rep, .vault, .fresh, .page .kvt]) s x6 := by
    unfold x6
    refine Keeps.step Keeps.set_vault (by rfl) ?_
    assumption
  clear_value x6
  clear_value x3
  clear_value x2
  refine Keeps.ite ?_ ?_
  · refine Keeps.step State.kvtEvent_keeps (by rfl) ?_
    exact Keeps.refl _
  · refine Keeps.step State.wr_keeps (by rfl) ?_
    refine Keeps.step State.wr_keeps (by rfl) ?_
    assumption

theorem State.pageOn_keeps {s : State} {p : Page} {i : Nat} :
    Keeps (mask [.page p]) s (State.pageOn s p i) := by
  unfold State.pageOn
  with_reducible refine Keeps.step State.wr_keeps ?_ ?_
  · exact Covers.of_subset (l := [.page p]) (by simp)
  with_reducible refine Keeps.step State.wr_keeps ?_ ?_
  · exact Covers.of_subset (l := [.page p]) (by simp)
  exact Keeps.refl _

set_option maxRecDepth 4096 in
theorem State.pageUp_keeps {s : State} {p : Page} {i : Nat} :
    Keeps (mask [.sched, .rep, .pwr, .fwd, .vault, .pair, .tamper, .officer, .fresh, .page .dev, .page .kvt, .page .ofc, .page .flu, .page .cxm,
      .page .stv, .page .lrc, .page p]) s (State.pageUp s p i) := by
  have on : ∀ u : State, Keeps (mask [.page p]) u (u.pageOn p i) := fun u => State.pageOn_keeps
  have cov : ∀ l : List Part, (∀ q ∈ l, q ∈ ([.sched, .rep, .pwr, .fwd, .vault, .pair, .tamper, .officer, .fresh, .page .dev,
      .page .kvt, .page .ofc, .page .flu, .page .cxm, .page .stv, .page .lrc, .page p] : List Part)) → Covers _ (mask l) :=
    fun l h => Covers.of_subset h
  unfold State.pageUp
  dsimp only
  refine Keeps.step State.lateResponses_keeps (cov _ (by simp)) ?_
  split
  · exact Keeps.step State.holdCheck_keeps (cov _ (by simp)) (Keeps.step (on _) (cov _ (by simp))
      (Keeps.step State.applyDeferred_keeps (cov _ (by simp)) (Keeps.refl _)))
  · exact Keeps.step State.kvtReady_keeps (cov _ (by simp)) (Keeps.refl _)
  · exact Keeps.step State.evrReady_keeps (cov _ (by simp)) (Keeps.step (on _) (cov _ (by simp)) (Keeps.refl _))
  · exact Keeps.step State.stvRefresh_keeps (cov _ (by simp)) (Keeps.step (on _) (cov _ (by simp)) (Keeps.refl _))
  · exact Keeps.step Keeps.set_fwd (cov _ (by simp)) (Keeps.step (KeepsP.fst State.draw_keeps) (cov _ (by simp))
      (Keeps.step (on _) (cov _ (by simp)) (Keeps.refl _)))
  · exact Keeps.step Keeps.set_fwd (cov _ (by simp)) (Keeps.step (State.setWord_keeps (k := keyOf F.lrcSeedSeed i))
      (cov _ (by simp [keyOf, F.lrcSeedSeed])) (Keeps.step (KeepsP.fst State.draw_keeps) (cov _ (by simp))
      (Keeps.step (on _) (cov _ (by simp)) (Keeps.refl _))))
  · exact Keeps.step State.flueDegrade_keeps (cov _ (by simp)) (Keeps.step (on _) (cov _ (by simp)) (Keeps.refl _))
  · exact Keeps.step State.cxmReady_keeps (cov _ (by simp)) (Keeps.refl _)
  · exact Keeps.step (on _) (cov _ (by simp)) (Keeps.refl _)

set_option maxRecDepth 4096 in
theorem execPageReady_keeps {p : Page} {i : Fin 256} {s : State} :
    KeepsX (mask [.sched, .rep, .pwr, .fwd, .vault, .msix, .pair, .tamper, .officer, .fresh, .out, .page .dev,
        .page .kvt, .page .ofc, .page .flu, .page .cxm, .page .stv, .page .lrc,
        .page p]) s (execPageReady p i s) := by
  unfold execPageReady
  refine KeepsX.done ?_ ?_
  · exact Covers.of_subset (l := [.rep, .msix, .out]) (by simp)
  refine Keeps.ite ?_ ?_
  · with_reducible refine Keeps.step State.pageUp_keeps ?_ ?_
    · exact Covers.of_subset (l := [.sched, .rep, .pwr, .fwd, .vault, .pair, .tamper, .officer, .fresh, .page .dev,
        .page .kvt, .page .ofc, .page .flu, .page .cxm, .page .stv, .page .lrc, .page p]) (by simp)
    exact Keeps.refl _
  · exact Keeps.refl _

theorem execAutoRecover_keeps {a : AssocNo} {s : State} :
    KeepsX (mask [.sched, .rep, .assocs, .vault, .kindle, .msix, .out]) s (execAutoRecover a s) := by
  unfold execAutoRecover
  refine KeepsX.done (by rfl) ?_
  refine Keeps.step State.recoverAsn_keeps (by rfl) ?_
  exact Keeps.refl _

theorem execTwinMismatch_keeps {c : ChimneyNo} {i : Fin 32} {frames : List Nat} {groups : List (PortNo × Fin 3)}
    {jobs : List (SliceNo × Nat)} {s : State} :
    KeepsX (mask [.rep, .chims, .hearth, .seals, .slices, .msix, .out,
        .page .stv]) s (execTwinMismatch c i frames groups jobs s) := by
  unfold execTwinMismatch
  refine KeepsX.done (by rfl) ?_
  refine Keeps.ite ?_ ?_
  · extract_lets x1 x2 x3
    have h1 : Keeps (mask [.rep, .chims, .hearth, .seals, .slices, .msix, .out, .page .stv]) s x1 := by
      unfold x1
      refine Keeps.step State.pairMismatch_keeps (by rfl) ?_
      exact Keeps.refl _
    have h2 : Keeps (mask [.rep, .chims, .hearth, .seals, .slices, .msix, .out, .page .stv]) s x2 := by
      unfold x2
      refine Keeps.step State.modHearth_keeps (by rfl) ?_
      assumption
    have h3 : Keeps (mask [.rep, .chims, .hearth, .seals, .slices, .msix, .out, .page .stv]) s x3 := by
      unfold x3
      refine Keeps.forL ?_ ?_
      · intro b1 u1
        refine Keeps.step State.modSeal_keeps (by rfl) ?_
        exact Keeps.refl _
      · assumption
    clear_value x3
    clear_value x2
    clear_value x1
    refine Keeps.forL ?_ ?_
    · intro b1 u1
      refine Keeps.step State.modSlice_keeps (by rfl) ?_
      exact Keeps.refl _
    · assumption
  · exact Keeps.refl _

end Sys2Proof.Machine
end

