-- ==== Sys2Proof/Laws/Registers.lean ====
section
/-! SUPPORT. What the operations of Machine/Registers.lean keep, and the parts of the state that they may change. -/

namespace Sys2Proof.Machine

open Sys2Proof

theorem State.writeFields_keeps {s : State} {k : RegKey} {w : Word} {cyc : Nat} :
    Keeps (mask [.sched, .rep, .page k.page]) s (State.writeFields s k w cyc) := by
  unfold State.writeFields
  split
  · exact Keeps.refl _
  · extract_lets x1
    have h1 : Keeps (mask [.sched, .rep, .page k.page]) s x1 := by
      unfold x1
      refine Keeps.ite ?_ ?_
      · with_reducible refine Keeps.step State.setEvtWord_keeps ?_ ?_
        · exact Covers.of_subset (l := [.rep]) (by simp)
        exact Keeps.refl _
      · with_reducible refine Keeps.step State.setWord_keeps ?_ ?_
        · exact Covers.of_subset (l := [.page k.page]) (by simp)
        exact Keeps.refl _
    clear_value x1
    refine Keeps.ite ?_ ?_
    · assumption
    · with_reducible refine Keeps.step State.putCopy_keeps ?_ ?_
      · exact Covers.of_subset (l := [.sched]) (by simp)
      assumption

theorem State.writePlain_keeps {s : State} {p : Page} {i : Nat} {off : Nat} {w : Word} {cyc : Nat} :
    Keeps (mask [.sched, .rep, .page p]) s (State.writePlain s p i off w cyc) := by
  unfold State.writePlain
  with_reducible refine Keeps.step State.writeFields_keeps ?_ ?_
  · exact Covers.of_subset (l := [.sched, .rep, .page p]) (by simp)
  exact Keeps.refl _

theorem State.writeAsnWin_keeps {s : State} {off : Nat} {w : Word} {cyc : Nat} :
    Keeps (mask [.sched, .rep, .assocs, .asnBusy, .page .dev, .page .asnw]) s (State.writeAsnWin s off w cyc) := by
  unfold State.writeAsnWin
  refine Keeps.ite ?_ ?_
  · refine Keeps.step State.asnLand_keeps (by rfl) ?_
    exact Keeps.refl _
  · refine State.gate_keeps ?_ ?_ ?_
    · exact rfl
    · intro u1
      refine Keeps.step State.writePlain_keeps (by rfl) ?_
      refine Keeps.step State.asnFinish_keeps (by rfl) ?_
      exact Keeps.refl _
    · exact Keeps.refl _

set_option maxRecDepth 4096 in
theorem State.writeReset_keeps {s : State} {w : Word} :
    Keeps (mask ([.tick, .cycle, .sched, .rep, .pwr, .lanes, .ports, .otn, .assocs, .fwd, .vault, .chims, .hearth,
        .kindle, .seals, .time, .slices, .msix, .pair, .tamper, .officer, .cages, .regions, .reinit,
        .asnBusy] ++ allPages)) s (State.writeReset s w) := by
  unfold State.writeReset
  refine Keeps.ite ?_ ?_
  · exact Keeps.refl _
  · refine Keeps.ite ?_ ?_
    · refine Keeps.step State.warmReset_keeps (by rfl) ?_
      exact Keeps.refl _
    · refine Keeps.onlyIf ?_ ?_
      · intro u1
        refine Keeps.step State.hostReset_keeps (by rfl) ?_
        exact Keeps.refl _
      · exact Keeps.refl _

set_option maxRecDepth 4096 in
theorem State.writeDev_keeps {s : State} {off : Nat} {w : Word} {cyc : Cyc} :
    Keeps (mask ([.tick, .cycle, .sched, .rep, .pwr, .lanes, .ports, .otn, .assocs, .fwd, .vault, .chims, .hearth,
        .kindle, .seals, .time, .slices, .msix, .pair, .tamper, .officer, .cages, .regions, .reinit, .asnBusy,
        .out] ++ allPages)) s (State.writeDev s off w cyc) := by
  unfold State.writeDev
  split
  · refine Keeps.ite ?_ ?_
    · refine Keeps.step State.landHold_keeps (by rfl) ?_
      exact Keeps.refl _
    · refine Keeps.step State.landHoldRelease_keeps (by rfl) ?_
      exact Keeps.refl _
  · refine Keeps.step State.landGop_keeps (by rfl) ?_
    exact Keeps.refl _
  · refine Keeps.step State.landModeReq_keeps (by rfl) ?_
    exact Keeps.refl _
  · refine Keeps.step State.writeReset_keeps (by rfl) ?_
    exact Keeps.refl _
  · refine Keeps.onlyIf ?_ ?_
    · intro u1
      refine Keeps.step State.quench_keeps (by rfl) ?_
      exact Keeps.refl _
    · exact Keeps.refl _
  · refine Keeps.onlyIf ?_ ?_
    · intro u1
      refine Keeps.step State.wr_keeps (by rfl) ?_
      exact Keeps.refl _
    · exact Keeps.refl _
  · refine Keeps.onlyIf ?_ ?_
    · intro u1
      refine Keeps.step State.bootRetry_keeps (by rfl) ?_
      exact Keeps.refl _
    · exact Keeps.refl _
  · refine Keeps.onlyIf ?_ ?_
    · intro u1
      refine Keeps.step State.setWord_keeps (by rfl) ?_
      exact Keeps.refl _
    · exact Keeps.refl _
  · refine Keeps.step State.writePlain_keeps (by rfl) ?_
    exact Keeps.refl _

theorem State.writeFlt_keeps {s : State} {off : Nat} {w : Word} {cyc : Nat} :
    Keeps (mask [.sched, .rep, .page .flt]) s (State.writeFlt s off w cyc) := by
  unfold State.writeFlt
  split
  · refine Keeps.onlyIf ?_ ?_
    · intro u1
      refine Keeps.step State.clearFlt_keeps (by rfl) ?_
      exact Keeps.refl _
    · exact Keeps.refl _
  · refine Keeps.onlyIf ?_ ?_
    · intro u1
      refine Keeps.step State.setWord_keeps (by rfl) ?_
      exact Keeps.refl _
    · exact Keeps.refl _
  · refine Keeps.step State.writePlain_keeps (by rfl) ?_
    exact Keeps.refl _

theorem State.writeEvr_keeps {s : State} {off : Nat} {w : Word} {cyc : Nat} :
    Keeps (mask [.sched, .rep, .page .dev, .page .evr]) s (State.writeEvr s off w cyc) := by
  unfold State.writeEvr
  split
  · refine Keeps.step State.landEvrCmd_keeps (by rfl) ?_
    exact Keeps.refl _
  · refine Keeps.step State.modRep_keeps (by rfl) ?_
    exact Keeps.refl _
  · refine Keeps.step State.modRep_keeps (by rfl) ?_
    refine Keeps.step State.wr_keeps (by rfl) ?_
    exact Keeps.refl _
  · refine Keeps.step State.modRep_keeps (by rfl) ?_
    exact Keeps.refl _
  · refine Keeps.ite ?_ ?_
    · refine Keeps.step State.event_keeps (by rfl) ?_
      exact Keeps.refl _
    · refine Keeps.step State.writePlain_keeps (by rfl) ?_
      exact Keeps.refl _
  · refine Keeps.onlyIf ?_ ?_
    · intro u1
      refine Keeps.step State.fetchRecord_keeps (by rfl) ?_
      exact Keeps.refl _
    · exact Keeps.refl _
  · refine Keeps.step State.writePlain_keeps (by rfl) ?_
    exact Keeps.refl _

theorem State.writePmc_keeps {s : State} {off : Nat} {w : Word} {cyc : Nat} :
    Keeps (mask [.sched, .rep, .page .dev, .page .pmc]) s (State.writePmc s off w cyc) := by
  unfold State.writePmc
  split
  · refine Keeps.step State.landPmcCmd_keeps (by rfl) ?_
    exact Keeps.refl _
  · refine Keeps.ite ?_ ?_
    · refine Keeps.step State.pmcFlag_keeps (by rfl) ?_
      exact Keeps.refl _
    · refine Keeps.step State.writePlain_keeps (by rfl) ?_
      exact Keeps.refl _
  · refine Keeps.step State.archRead_keeps (by rfl) ?_
    exact Keeps.refl _
  · refine Keeps.step State.writePlain_keeps (by rfl) ?_
    exact Keeps.refl _

theorem State.writeTsu_keeps {s : State} {off : Nat} {w : Word} {cyc : Nat} :
    Keeps (mask [.sched, .rep, .time, .page .tsu]) s (State.writeTsu s off w cyc) := by
  unfold State.writeTsu
  split
  · refine Keeps.step State.modTime_keeps (by rfl) ?_
    exact Keeps.refl _
  · refine Keeps.step State.landIncHi_keeps (by rfl) ?_
    exact Keeps.refl _
  · refine Keeps.step State.landTimeStep_keeps (by rfl) ?_
    exact Keeps.refl _
  · refine Keeps.step State.writePlain_keeps (by rfl) ?_
    exact Keeps.refl _

theorem State.writeKvt_keeps {s : State} {off : Nat} {w : Word} {cyc : Nat} :
    Keeps (mask [.sched, .rep, .vault, .kindle, .officer, .fresh, .out, .page .dev,
        .page .kvt]) s (State.writeKvt s off w cyc) := by
  unfold State.writeKvt
  split
  · extract_lets x1
    refine Keeps.ite ?_ ?_
    · refine Keeps.step State.vaultLand_keeps (by rfl) ?_
      refine Keeps.step State.burn_keeps (by rfl) ?_
      exact Keeps.refl _
    · refine Keeps.step State.vaultLand_keeps (by rfl) ?_
      exact Keeps.refl _
  · refine Keeps.step State.landOtp_keeps (by rfl) ?_
    exact Keeps.refl _
  · refine Keeps.step State.writePlain_keeps (by rfl) ?_
    exact Keeps.refl _

theorem State.writeKdl_keeps {s : State} {off : Nat} {w : Word} {cyc : Nat} :
    Keeps (mask [.sched, .rep, .page .kdl]) s (State.writeKdl s off w cyc) := by
  unfold State.writeKdl
  extract_lets x1 x2
  have h1 : ∀ u, Keeps (mask [.sched, .rep, .page .kdl]) u (x2 u) := by
    intro u
    unfold x2
    refine Keeps.step State.kdlEvent_keeps (by rfl) ?_
    exact Keeps.refl _
  clear_value x2
  split
  · refine Keeps.ite ?_ ?_
    · refine Keeps.step (h1 ..) (Nat.or_self _) ?_
      exact Keeps.refl _
    · refine Keeps.step State.writePlain_keeps (by rfl) ?_
      exact Keeps.refl _
  · refine Keeps.ite ?_ ?_
    · refine Keeps.step (h1 ..) (Nat.or_self _) ?_
      exact Keeps.refl _
    · refine Keeps.step State.writePlain_keeps (by rfl) ?_
      exact Keeps.refl _
  · refine Keeps.ite ?_ ?_
    · refine Keeps.step (h1 ..) (Nat.or_self _) ?_
      exact Keeps.refl _
    · refine Keeps.step State.writePlain_keeps (by rfl) ?_
      exact Keeps.refl _
  · refine Keeps.step State.landLinkCfg_keeps (by rfl) ?_
    exact Keeps.refl _
  · refine Keeps.onlyIf ?_ ?_
    · intro u1
      refine Keeps.step State.landLinkCmd_keeps (by rfl) ?_
      exact Keeps.refl _
    · exact Keeps.refl _
  · refine Keeps.onlyIf ?_ ?_
    · intro u1
      refine Keeps.step State.landLinkCmd_keeps (by rfl) ?_
      exact Keeps.refl _
    · exact Keeps.refl _
  · refine Keeps.step State.writePlain_keeps (by rfl) ?_
    exact Keeps.refl _

theorem State.writeTmp_keeps {s : State} {off : Nat} {w : Word} {cyc : Nat} :
    Keeps (mask [.sched, .rep, .pwr, .pair, .tamper, .page .dev, .page .tmp,
        .page .flu]) s (State.writeTmp s off w cyc) := by
  unfold State.writeTmp
  extract_lets x1
  refine Keeps.ite ?_ ?_
  · refine Keeps.step State.landTest_keeps (by rfl) ?_
    exact Keeps.refl _
  · refine Keeps.ite ?_ ?_
    · exact Keeps.refl _
    · refine Keeps.onlyIf ?_ ?_
      · intro u1
        refine Keeps.step State.holdCheck_keeps (by rfl) ?_
        exact Keeps.refl _
      · refine Keeps.step State.writePlain_keeps (by rfl) ?_
        exact Keeps.refl _

theorem State.writeOfc_keeps {s : State} {off : Nat} {w : Word} {cyc : Nat} :
    Keeps (mask [.sched, .rep, .page .ofc]) s (State.writeOfc s off w cyc) := by
  unfold State.writeOfc
  refine Keeps.ite ?_ ?_
  · exact Keeps.refl _
  · refine Keeps.step State.writePlain_keeps (by rfl) ?_
    exact Keeps.refl _

theorem State.writeLan_keeps {s : State} {g : Nat} {off : Nat} {w : Word} {cyc : Nat} :
    Keeps (mask [.sched, .rep, .lanes, .page .lan]) s (State.writeLan s g off w cyc) := by
  unfold State.writeLan
  split
  · refine Keeps.step State.landLanCtrl_keeps (by rfl) ?_
    exact Keeps.refl _
  · extract_lets x1
    have h1 : Keeps (mask [.sched, .rep, .lanes, .page .lan]) s x1 := by
      unfold x1
      refine Keeps.onlyIf ?_ ?_
      · intro u1
        refine Keeps.step State.wr_keeps (by rfl) ?_
        exact Keeps.refl _
      · exact Keeps.refl _
    clear_value x1
    refine Keeps.step State.landStep_keeps (by rfl) ?_
    refine Keeps.onlyIf ?_ ?_
    · intro u1
      refine Keeps.step State.cmisAgreed_keeps (by rfl) ?_
      exact Keeps.refl _
    · assumption
  · refine Keeps.step State.landFfe_keeps (by rfl) ?_
    exact Keeps.refl _
  · refine Keeps.onlyIf ?_ ?_
    · intro u1
      refine Keeps.step State.slipOne_keeps (by rfl) ?_
      exact Keeps.refl _
    · exact Keeps.refl _
  · refine Keeps.step State.landPeriod_keeps (by rfl) ?_
    exact Keeps.refl _
  · refine Keeps.step State.landPrbs_keeps (by rfl) ?_
    exact Keeps.refl _
  · refine Keeps.step State.landLoop_keeps (by rfl) ?_
    refine Keeps.onlyIf ?_ ?_
    · intro u1
      refine Keeps.step State.wr_keeps (by rfl) ?_
      exact Keeps.refl _
    · exact Keeps.refl _
  · refine Keeps.step State.writePlain_keeps (by rfl) ?_
    exact Keeps.refl _

theorem State.writeCxm_keeps {s : State} {off : Nat} {w : Word} {cyc : Nat} :
    Keeps (mask [.sched, .rep, .reinit, .page .dev, .page .cxm]) s (State.writeCxm s off w cyc) := by
  unfold State.writeCxm
  extract_lets x1
  split
  · refine Keeps.step State.landRcfg_keeps (by rfl) ?_
    exact Keeps.refl _
  · refine Keeps.step State.landRbase_keeps (by rfl) ?_
    exact Keeps.refl _
  · refine Keeps.step State.landCxmCmd_keeps (by rfl) ?_
    exact Keeps.refl _
  · refine Keeps.step State.writePlain_keeps (by rfl) ?_
    exact Keeps.refl _

theorem State.writeHst_keeps {s : State} {off : Nat} {w : Word} {cyc : Cyc} :
    Keeps (mask [.cycle, .sched, .rep, .slices, .page .dev, .page .hst]) s (State.writeHst s off w cyc) := by
  unfold State.writeHst
  split
  · refine Keeps.step State.sliceCommand_keeps (by rfl) ?_
    exact Keeps.refl _
  · refine Keeps.step State.writePlain_keeps (by rfl) ?_
    exact Keeps.refl _

theorem State.writeHrt_keeps {s : State} {off : Nat} {w : Word} {cyc : Nat} :
    Keeps (mask [.sched, .rep, .page .hrt]) s (State.writeHrt s off w cyc) := by
  unfold State.writeHrt
  extract_lets x1 x2 x3
  have h1 : ∀ u, Keeps (mask [.sched, .rep, .page .hrt]) u (x2 u) := by
    intro u
    unfold x2
    refine Keeps.step State.hrtEvent_keeps (by rfl) ?_
    exact Keeps.refl _
  have h2 : Keeps (mask [.sched, .rep, .page .hrt]) s x3 := by
    unfold x3
    refine Keeps.step State.writePlain_keeps (by rfl) ?_
    exact Keeps.refl _
  clear_value x3
  clear_value x2
  refine Keeps.ite ?_ ?_
  · refine Keeps.step (h1 ..) (Nat.or_self _) ?_
    exact Keeps.refl _
  · split
    · refine Keeps.ite ?_ ?_
      · refine Keeps.step (h1 ..) (Nat.or_self _) ?_
        exact Keeps.refl _
      · assumption
    · refine Keeps.ite ?_ ?_
      · refine Keeps.step (h1 ..) (Nat.or_self _) ?_
        exact Keeps.refl _
      · assumption
    · refine Keeps.ite ?_ ?_
      · refine Keeps.step (h1 ..) (Nat.or_self _) ?_
        exact Keeps.refl _
      · assumption
    · refine Keeps.ite ?_ ?_
      · refine Keeps.step (h1 ..) (Nat.or_self _) ?_
        exact Keeps.refl _
      · assumption
    · refine Keeps.onlyIf ?_ ?_
      · intro u1
        refine Keeps.step State.landFlush_keeps (by rfl) ?_
        exact Keeps.refl _
      · exact Keeps.refl _
    · assumption

theorem State.writeSch_keeps {s : State} {off : Nat} {w : Word} {cyc : Nat} :
    Keeps (mask [.sched, .rep, .page .sch]) s (State.writeSch s off w cyc) := by
  unfold State.writeSch
  extract_lets x1
  have h1 : ∀ u, Keeps (mask [.sched, .rep, .page .sch]) u (x1 u) := by
    intro u
    unfold x1
    refine Keeps.step State.wr_keeps (by rfl) ?_
    exact Keeps.refl _
  clear_value x1
  refine Keeps.ite ?_ ?_
  · refine Keeps.step (h1 ..) (Nat.or_self _) ?_
    exact Keeps.refl _
  · split
    · refine Keeps.ite ?_ ?_
      · refine Keeps.step (h1 ..) (Nat.or_self _) ?_
        exact Keeps.refl _
      · refine Keeps.step State.writePlain_keeps (by rfl) ?_
        exact Keeps.refl _
    · refine Keeps.ite ?_ ?_
      · refine Keeps.step (h1 ..) (Nat.or_self _) ?_
        exact Keeps.refl _
      · refine Keeps.step State.writePlain_keeps (by rfl) ?_
        exact Keeps.refl _
    · refine Keeps.step State.writePlain_keeps (by rfl) ?_
      exact Keeps.refl _

theorem State.writeMod_keeps {s : State} {off : Nat} {w : Word} {cyc : Nat} :
    Keeps (mask [.sched, .rep, .cages, .out, .page .dev, .page .mod]) s (State.writeMod s off w cyc) := by
  unfold State.writeMod
  split
  · refine Keeps.ite ?_ ?_
    · exact Keeps.refl _
    · refine Keeps.step State.writePlain_keeps (by rfl) ?_
      exact Keeps.refl _
  · refine Keeps.step State.landModCmd_keeps (by rfl) ?_
    exact Keeps.refl _
  · refine Keeps.step State.writePlain_keeps (by rfl) ?_
    exact Keeps.refl _

theorem State.writeChm_keeps {s : State} {c : Nat} {off : Nat} {w : Word} {cyc : Nat} :
    Keeps (mask [.sched, .rep, .page .chm]) s (State.writeChm s c off w cyc) := by
  unfold State.writeChm
  split
  · refine Keeps.step State.landChmCfg_keeps (by rfl) ?_
    exact Keeps.refl _
  · refine Keeps.step State.writePlain_keeps (by rfl) ?_
    exact Keeps.refl _

theorem State.writeStv_keeps {s : State} {c : Nat} {off : Nat} {w : Word} {cyc : Nat} :
    Keeps (mask [.sched, .rep, .page .dev, .page .stv]) s (State.writeStv s c off w cyc) := by
  unfold State.writeStv
  split
  · split
    · refine Keeps.step State.stvLand_keeps (by rfl) ?_
      exact Keeps.refl _
    · refine Keeps.step State.stvLand_keeps (by rfl) ?_
      exact Keeps.refl _
    · refine Keeps.step State.wr_keeps (by rfl) ?_
      refine Keeps.step State.wr_keeps (by rfl) ?_
      exact Keeps.refl _
    · exact Keeps.refl _
  · refine Keeps.step State.writePlain_keeps (by rfl) ?_
    exact Keeps.refl _

theorem State.writePrt_keeps {s : State} {p : Nat} {off : Nat} {w : Word} {cyc : Nat} :
    Keeps (mask [.sched, .rep, .page .prt]) s (State.writePrt s p off w cyc) := by
  unfold State.writePrt
  split
  · refine Keeps.step State.landPortCfg_keeps (by rfl) ?_
    exact Keeps.refl _
  · refine Keeps.step State.writePlain_keeps (by rfl) ?_
    exact Keeps.refl _

theorem State.writeOtf_keeps {s : State} {p : Nat} {off : Nat} {w : Word} {cyc : Nat} :
    Keeps (mask [.sched, .rep, .page .otf]) s (State.writeOtf s p off w cyc) := by
  unfold State.writeOtf
  split
  · refine Keeps.step State.landOtnCfg_keeps (by rfl) ?_
    exact Keeps.refl _
  · refine Keeps.step State.writePlain_keeps (by rfl) ?_
    exact Keeps.refl _

theorem State.writeLrc_keeps {s : State} {c : Nat} {off : Nat} {w : Word} {cyc : Nat} :
    Keeps (mask [.sched, .rep, .fwd, .page .lrc]) s (State.writeLrc s c off w cyc) := by
  unfold State.writeLrc
  split
  · refine Keeps.onlyIf ?_ ?_
    · intro u1
      refine Keeps.step State.lrcFlush_keeps (by rfl) ?_
      exact Keeps.refl _
    · refine Keeps.onlyIf ?_ ?_
      · intro u1
        refine Keeps.step State.lrcRehash_keeps (by rfl) ?_
        exact Keeps.refl _
      · exact Keeps.refl _
  · refine Keeps.step State.writePlain_keeps (by rfl) ?_
    exact Keeps.refl _

set_option maxRecDepth 4096 in
theorem State.writeBlock_keeps {s : State} {p : Page} {i : Nat} {off : Nat} {w : Word} {cyc : Cyc} :
    Keeps (mask ([.tick, .cycle, .sched, .rep, .pwr, .lanes, .ports, .otn, .assocs, .fwd, .vault, .chims, .hearth,
        .kindle, .seals, .time, .slices, .msix, .pair, .tamper, .officer, .cages, .regions, .reinit, .asnBusy,
        .fresh, .out] ++ allPages)) s (State.writeBlock s p i off w cyc) := by
  unfold State.writeBlock
  split
  · refine Keeps.step State.writeDev_keeps (by rfl) ?_
    exact Keeps.refl _
  · refine Keeps.ite ?_ ?_
    · refine Keeps.step State.setWord_keeps (by rfl) ?_
      exact Keeps.refl _
    · refine Keeps.step State.writePlain_keeps (by rfl) ?_
      exact Keeps.refl _
  · refine Keeps.step State.writeFlt_keeps (by rfl) ?_
    exact Keeps.refl _
  · refine Keeps.step State.writeEvr_keeps (by rfl) ?_
    exact Keeps.refl _
  · refine Keeps.step State.writePmc_keeps (by rfl) ?_
    exact Keeps.refl _
  · refine Keeps.step State.writeTsu_keeps (by rfl) ?_
    exact Keeps.refl _
  · refine Keeps.step State.writeKvt_keeps (by rfl) ?_
    exact Keeps.refl _
  · refine Keeps.step State.writeKdl_keeps (by rfl) ?_
    exact Keeps.refl _
  · refine Keeps.step State.writeTmp_keeps (by rfl) ?_
    exact Keeps.refl _
  · refine Keeps.step State.writeOfc_keeps (by rfl) ?_
    exact Keeps.refl _
  · refine Keeps.ite ?_ ?_
    · refine Keeps.step State.writeLan_keeps (by rfl) ?_
      exact Keeps.refl _
    · refine Keeps.ite ?_ ?_
      · refine Keeps.step State.landFluCmd_keeps (by rfl) ?_
        exact Keeps.refl _
      · refine Keeps.step State.writePlain_keeps (by rfl) ?_
        exact Keeps.refl _
  · refine Keeps.step State.writeCxm_keeps (by rfl) ?_
    exact Keeps.refl _
  · refine Keeps.step State.writeHst_keeps (by rfl) ?_
    exact Keeps.refl _
  · refine Keeps.step State.writeHrt_keeps (by rfl) ?_
    exact Keeps.refl _
  · refine Keeps.step State.writeSch_keeps (by rfl) ?_
    exact Keeps.refl _
  · refine Keeps.step State.writeMod_keeps (by rfl) ?_
    exact Keeps.refl _
  · refine Keeps.step State.writeChm_keeps (by rfl) ?_
    exact Keeps.refl _
  · refine Keeps.step State.writeStv_keeps (by rfl) ?_
    exact Keeps.refl _
  · refine Keeps.step State.writeLan_keeps (by rfl) ?_
    exact Keeps.refl _
  · refine Keeps.step State.writePrt_keeps (by rfl) ?_
    exact Keeps.refl _
  · refine Keeps.step State.writeOtf_keeps (by rfl) ?_
    exact Keeps.refl _
  · refine Keeps.step State.writeLrc_keeps (by rfl) ?_
    exact Keeps.refl _
  · refine Keeps.step State.writePlain_keeps (by rfl) ?_
    exact Keeps.refl _
  · refine Keeps.step State.writePlain_keeps (by rfl) ?_
    exact Keeps.refl _
  · refine Keeps.step State.writePlain_keeps (by rfl) ?_
    exact Keeps.refl _
  · exact Keeps.refl _
  · exact Keeps.refl _
  · exact Keeps.refl _

theorem State.writeFwdWin_keeps {s : State} {off : Nat} {w : Word} {cyc : Nat} :
    Keeps (mask [.sched, .rep, .fwd, .page .dev, .page .fwdw]) s (State.writeFwdWin s off w cyc) := by
  unfold State.writeFwdWin
  refine Keeps.ite ?_ ?_
  · refine State.gate_keeps ?_ ?_ ?_
    · exact rfl
    · intro u1
      refine Keeps.step State.writePlain_keeps (by rfl) ?_
      exact Keeps.refl _
    · exact Keeps.refl _
  · refine State.fwdLand_keeps ?_ ?_ ?_
    · exact rfl
    · intro u1
      split
      · refine Keeps.step State.fwdStart_keeps (by rfl) ?_
        exact Keeps.refl _
      · refine Keeps.step State.fwdStart_keeps (by rfl) ?_
        exact Keeps.refl _
      · refine Keeps.step State.fwdStartActive_keeps (by rfl) ?_
        exact Keeps.refl _
      · refine Keeps.step State.fwdStartActive_keeps (by rfl) ?_
        exact Keeps.refl _
      · refine Keeps.step State.fwdStartActive_keeps (by rfl) ?_
        exact Keeps.refl _
      · refine Keeps.step State.fwdStart_keeps (by rfl) ?_
        exact Keeps.refl _
      · refine Keeps.step State.landDomain_keeps (by rfl) ?_
        exact Keeps.refl _
      · refine Keeps.step State.fwdResult_keeps (by rfl) ?_
        exact Keeps.refl _
    · exact Keeps.refl _

theorem State.writeHeader_keeps {s : State} {p : Page} {i : Nat} {off : Nat} {w : Word} {cyc : Nat} :
    Keeps (mask [.sched, .rep, .page p]) s (State.writeHeader s p i off w cyc) := by
  unfold State.writeHeader
  refine Keeps.ite ?_ ?_
  · refine Keeps.onlyIf ?_ ?_
    · intro u1
      with_reducible refine Keeps.step State.clearFault_keeps ?_ ?_
      · exact Covers.of_subset (l := [.rep]) (by simp)
      exact Keeps.refl _
    · exact Keeps.refl _
  · refine Keeps.ite ?_ ?_
    · with_reducible refine Keeps.step State.landFinj_keeps ?_ ?_
      · exact Covers.of_subset (l := [.rep]) (by simp)
      exact Keeps.refl _
    · refine Keeps.ite ?_ ?_
      · with_reducible refine Keeps.step State.landCntCfg_keeps ?_ ?_
        · exact Covers.of_subset (l := [.sched]) (by simp)
        exact Keeps.refl _
      · with_reducible refine Keeps.step State.writePlain_keeps ?_ ?_
        · exact Covers.of_subset (l := [.sched, .rep, .page p]) (by simp)
        exact Keeps.refl _

theorem State.writeRingBase_keeps {s : State} {n : Nat} {cfg : Nat} {off : Nat} {w : Word} {cyc : Nat} :
    Keeps (mask [.sched, .rep, .page .slc]) s (State.writeRingBase s n cfg off w cyc) := by
  unfold State.writeRingBase
  refine Keeps.ite ?_ ?_
  · exact Keeps.refl _
  · refine Keeps.step State.writePlain_keeps (by rfl) ?_
    exact Keeps.refl _

theorem State.writeRingCfg_keeps {s : State} {n : Nat} {cfg : Nat} {w : Word} {cyc : Nat} :
    Keeps (mask [.sched, .rep, .page .slc]) s (State.writeRingCfg s n cfg w cyc) := by
  unfold State.writeRingCfg
  extract_lets x1 x2
  refine Keeps.ite ?_ ?_
  · refine Keeps.step State.writePlain_keeps (by rfl) ?_
    exact Keeps.refl _
  · refine Keeps.ite ?_ ?_
    · refine Keeps.step State.wr_keeps (by rfl) ?_
      exact Keeps.refl _
    · refine Keeps.step State.writePlain_keeps (by rfl) ?_
      exact Keeps.refl _

theorem State.writeSlice_keeps {s : State} {n : Nat} {off : Nat} {w : Word} {cyc : Nat} :
    Keeps (mask [.sched, .rep, .page .slc]) s (State.writeSlice s n off w cyc) := by
  unfold State.writeSlice
  extract_lets x1 x2
  refine Keeps.ite ?_ ?_
  · refine Keeps.ite ?_ ?_
    · refine Keeps.step State.writeRingBase_keeps (by rfl) ?_
      exact Keeps.refl _
    · refine Keeps.ite ?_ ?_
      · refine Keeps.step State.writeRingCfg_keeps (by rfl) ?_
        exact Keeps.refl _
      · refine Keeps.ite ?_ ?_
        · refine Keeps.step State.sqDoorbell_keeps (by rfl) ?_
          exact Keeps.refl _
        · exact Keeps.refl _
  · split
    · refine Keeps.step State.writeRingBase_keeps (by rfl) ?_
      exact Keeps.refl _
    · refine Keeps.step State.writeRingBase_keeps (by rfl) ?_
      exact Keeps.refl _
    · refine Keeps.step State.writeRingCfg_keeps (by rfl) ?_
      exact Keeps.refl _
    · refine Keeps.step State.writeRingBase_keeps (by rfl) ?_
      exact Keeps.refl _
    · refine Keeps.step State.writeRingBase_keeps (by rfl) ?_
      exact Keeps.refl _
    · refine Keeps.step State.writeRingCfg_keeps (by rfl) ?_
      exact Keeps.refl _
    · refine Keeps.step State.writePlain_keeps (by rfl) ?_
      exact Keeps.refl _

set_option maxRecDepth 4096 in
theorem State.writeTo_keeps {s : State} {t : Target} {w : Word} {cyc : Cyc} :
    Keeps (mask ([.tick, .cycle, .sched, .rep, .pwr, .lanes, .ports, .otn, .assocs, .fwd, .vault, .chims, .hearth,
        .kindle, .seals, .time, .slices, .msix, .pair, .tamper, .officer, .cages, .regions, .reinit, .asnBusy,
        .fresh, .out] ++ allPages)) s (State.writeTo s t w cyc) := by
  unfold State.writeTo
  split
  · refine Keeps.step State.writeAsnWin_keeps (by rfl) ?_
    exact Keeps.refl _
  · refine Keeps.step State.writeFwdWin_keeps (by rfl) ?_
    exact Keeps.refl _
  · refine Keeps.ite ?_ ?_
    · exact Keeps.refl _
    · refine Keeps.ite ?_ ?_
      · with_reducible refine Keeps.step State.writeHeader_keeps ?_ ?_
        · exact Covers.of_subset (by simp)
        exact Keeps.refl _
      · refine State.gate_keeps ?_ ?_ ?_
        · exact rfl
        · intro u1
          refine Keeps.step State.writeBlock_keeps (by rfl) ?_
          exact Keeps.refl _
        · exact Keeps.refl _
  · refine State.slicePage_keeps ?_ ?_ ?_
    · exact rfl
    · intro u1
      refine Keeps.step State.writeSlice_keeps (by rfl) ?_
      exact Keeps.refl _
    · exact Keeps.refl _
  · refine Keeps.onlyIf ?_ ?_
    · intro u1
      refine Keeps.step State.writeMsix_keeps (by rfl) ?_
      exact Keeps.refl _
    · exact Keeps.refl _

set_option maxRecDepth 4096 in
theorem execRegisterWrite_keeps {t : Target} {w : Word} {cyc : Cyc} {s : State} :
    KeepsX (mask ([.tick, .cycle, .sched, .rep, .pwr, .lanes, .ports, .otn, .assocs, .fwd, .vault, .chims, .hearth,
        .kindle, .seals, .time, .slices, .msix, .pair, .tamper, .officer, .cages, .regions, .reinit, .asnBusy,
        .fresh, .out] ++ allPages)) s (execRegisterWrite t w cyc s) := by
  unfold execRegisterWrite
  refine KeepsX.done (by rfl) ?_
  refine Keeps.step State.writeTo_keeps (by rfl) ?_
  refine Keeps.step State.at_keeps (by rfl) ?_
  exact Keeps.refl _

theorem execBadAccess_keeps {off : BitVec 26} {write : Bool} {refused : Bool} {s : State} :
    KeepsX (mask [.rep, .msix, .out, .page .dev]) s (execBadAccess off write refused s) := by
  unfold execBadAccess
  extract_lets x1
  have h1 : Keeps (mask [.rep, .msix, .out, .page .dev]) s x1 := by
    unfold x1
    refine Keeps.ite ?_ ?_
    · exact Keeps.refl _
    · refine Keeps.step State.wr_keeps (by rfl) ?_
      refine Keeps.step State.wr_keeps (by rfl) ?_
      refine Keeps.step State.wr_keeps (by rfl) ?_
      refine Keeps.step State.wr_keeps (by rfl) ?_
      exact Keeps.refl _
  clear_value x1
  refine KeepsX.done (by rfl) ?_
  refine Keeps.ite ?_ ?_
  · assumption
  · refine Keeps.step State.emit_keeps (by rfl) ?_
    assumption

theorem execTickRead_keeps {cyc : Cyc} {s : State} :
    KeepsX (mask [.cycle, .rep, .msix, .out, .page .dev]) s (execTickRead cyc s) := by
  unfold execTickRead
  refine KeepsX.done (by rfl) ?_
  refine State.gateRead_keeps ?_ ?_ ?_
  · exact rfl
  · intro u1
    refine Keeps.step State.emit_keeps (by rfl) ?_
    refine Keeps.step State.wr_keeps (by rfl) ?_
    exact Keeps.refl _
  · refine Keeps.step State.at_keeps (by rfl) ?_
    exact Keeps.refl _

theorem execSliceCounterRead_keeps {n : SliceNo} {s : State} :
    KeepsX (mask [.rep, .msix, .out, .page .slc]) s (execSliceCounterRead n s) := by
  unfold execSliceCounterRead
  refine KeepsX.done (by rfl) ?_
  refine State.gateRead_keeps ?_ ?_ ?_
  · exact rfl
  · intro u1
    extract_lets x1
    refine Keeps.step State.emit_keeps (by rfl) ?_
    refine Keeps.step State.wr_keeps (by rfl) ?_
    exact Keeps.refl _
  · exact Keeps.refl _

end Sys2Proof.Machine
end

