-- ==== Sys2Proof/Laws/Settle.lean ====
section
/-! SUPPORT. What the end of a command does: `done` settles the cycle's events and counts and sends its interrupts, and
leaves everything but the reporting channels, the pending vectors and the log of what left the device as it was. -/

namespace Sys2Proof.Machine

open Sys2Proof

/-- What `done` answers. -/
def State.closed (u : State) : State := u.settle.sendIrqs

theorem done_eq (u : State) : done u = .next u.closed := rfl

theorem State.closed_keeps (u : State) : Keeps (mask [.rep, .msix, .out]) u u.closed := by
  have h := KeepsX.done (m := mask [.rep, .msix, .out]) (s := u) (t := u) (by decide) (Keeps.refl u)
  exact h _ rfl

theorem State.closed_same (u : State) {p : Part} (h : (mask [.rep, .msix, .out]).testBit p.idx = false) :
    p.same u u.closed := u.closed_keeps.frame p h

@[simp] theorem State.closed_pending (u : State) : u.closed.pending = u.pending := u.closed_keeps.pending
@[simp] theorem State.closed_tick (u : State) : u.closed.tick = u.tick := u.closed_same (p := .tick) (by decide)
@[simp] theorem State.closed_cycle (u : State) : u.closed.cycle = u.cycle := u.closed_same (p := .cycle) (by decide)
@[simp] theorem State.closed_sched (u : State) : u.closed.sched = u.sched := u.closed_same (p := .sched) (by decide)
@[simp] theorem State.closed_pwr (u : State) : u.closed.pwr = u.pwr := u.closed_same (p := .pwr) (by decide)
@[simp] theorem State.closed_lanes (u : State) : u.closed.lanes = u.lanes := u.closed_same (p := .lanes) (by decide)
@[simp] theorem State.closed_ports (u : State) : u.closed.ports = u.ports := u.closed_same (p := .ports) (by decide)
@[simp] theorem State.closed_otn (u : State) : u.closed.otn = u.otn := u.closed_same (p := .otn) (by decide)
@[simp] theorem State.closed_assocs (u : State) : u.closed.assocs = u.assocs := u.closed_same (p := .assocs) (by decide)
@[simp] theorem State.closed_fwd (u : State) : u.closed.fwd = u.fwd := u.closed_same (p := .fwd) (by decide)
@[simp] theorem State.closed_vault (u : State) : u.closed.vault = u.vault := u.closed_same (p := .vault) (by decide)
@[simp] theorem State.closed_chims (u : State) : u.closed.chims = u.chims := u.closed_same (p := .chims) (by decide)
@[simp] theorem State.closed_hearth (u : State) : u.closed.hearth = u.hearth := u.closed_same (p := .hearth) (by decide)
@[simp] theorem State.closed_kindle (u : State) : u.closed.kindle = u.kindle := u.closed_same (p := .kindle) (by decide)
@[simp] theorem State.closed_seals (u : State) : u.closed.seals = u.seals := u.closed_same (p := .seals) (by decide)
@[simp] theorem State.closed_time (u : State) : u.closed.time = u.time := u.closed_same (p := .time) (by decide)
@[simp] theorem State.closed_slices (u : State) : u.closed.slices = u.slices := u.closed_same (p := .slices) (by decide)
@[simp] theorem State.closed_pair (u : State) : u.closed.pair = u.pair := u.closed_same (p := .pair) (by decide)
@[simp] theorem State.closed_tamper (u : State) : u.closed.tamper = u.tamper := u.closed_same (p := .tamper) (by decide)
@[simp] theorem State.closed_officer (u : State) : u.closed.officer = u.officer := u.closed_same (p := .officer) (by decide)
@[simp] theorem State.closed_cages (u : State) : u.closed.cages = u.cages := u.closed_same (p := .cages) (by decide)
@[simp] theorem State.closed_regions (u : State) : u.closed.regions = u.regions := u.closed_same (p := .regions) (by decide)
@[simp] theorem State.closed_reinit (u : State) : u.closed.reinit = u.reinit := u.closed_same (p := .reinit) (by decide)
@[simp] theorem State.closed_asnBusy (u : State) : u.closed.asnBusy = u.asnBusy := u.closed_same (p := .asnBusy) (by decide)
@[simp] theorem State.closed_fresh (u : State) : u.closed.fresh = u.fresh := u.closed_same (p := .fresh) (by decide)
@[simp] theorem State.closed_word (u : State) (k : RegKey) : u.closed.word k = u.word k := by
  obtain ⟨p, off, i, o⟩ := k
  exact u.closed_same (p := .page p) (by cases p <;> decide) off i o
@[simp] theorem State.closed_rd (u : State) (f : Fld) (i o : Nat) : u.closed.rd f i o = u.rd f i o := by simp [State.rd]
@[simp] theorem State.closed_on (u : State) (f : Fld) (i o : Nat) : u.closed.on f i o = u.on f i o := by simp [State.on]
@[simp] theorem State.closed_ready (u : State) (p : Page) (i : Nat) : u.closed.ready p i = u.ready p i := by simp [State.ready]
@[simp] theorem State.closed_mode (u : State) : u.closed.mode = u.mode := by simp [State.mode]
@[simp] theorem State.closed_lane (u : State) (n : Nat) : u.closed.lane n = u.lane n := by simp only [State.lane, State.closed_lanes]
@[simp] theorem State.closed_port (u : State) (n : Nat) : u.closed.port n = u.port n := by simp only [State.port, State.closed_ports]
@[simp] theorem State.closed_otnp (u : State) (n : Nat) : u.closed.otnp n = u.otnp n := by simp only [State.otnp, State.closed_otn]
@[simp] theorem State.closed_slot (u : State) (n : Nat) : u.closed.slot n = u.slot n := by simp only [State.slot, State.closed_vault]
@[simp] theorem State.closed_asn (u : State) (n : Nat) : u.closed.asn n = u.asn n := by simp only [State.asn, State.closed_assocs]
@[simp] theorem State.closed_link (u : State) (n : Nat) : u.closed.link n = u.link n := by simp only [State.link, State.closed_kindle]
@[simp] theorem State.closed_chim (u : State) (n : Nat) : u.closed.chim n = u.chim n := by simp only [State.chim, State.closed_chims]
@[simp] theorem State.closed_sealRt (u : State) (n : Nat) : u.closed.sealRt n = u.sealRt n := by simp only [State.sealRt, State.closed_seals]
@[simp] theorem State.closed_sliceRt (u : State) (n : Nat) : u.closed.sliceRt n = u.sliceRt n := by simp only [State.sliceRt, State.closed_slices]
@[simp] theorem State.closed_region (u : State) (n : Nat) : u.closed.region n = u.region n := by simp only [State.region, State.closed_regions]
@[simp] theorem State.closed_cage (u : State) (n : Nat) : u.closed.cage n = u.cage n := by simp only [State.cage, State.closed_cages]
theorem State.closed_out (u : State) : u.out <+: u.closed.out := u.closed_keeps.out

/-! ### What settling leaves of the reporting channels -/

/-- The event words that settling may write: EVR_EVT, PMC_EVT and PMC_LAST. -/
def settledWords : List RegKey := [keyOf F.evrEvtRingFull, keyOf F.pmcEvtSaturated, keyOf F.pmcLastOffset, keyOf F.pmcLastBit]

/-- Every other event word, the shadows of the counters, the freeze, the flushes, the MRAM ring, the fetch, the archive, the
snapshots and the checkers are the same. -/
structure SameRep (s t : State) : Prop where
  words : ∀ k : RegKey, k ∉ settledWords → t.evtWord k = s.evtWord k
  shadow : ∀ p i c, (t.ctr p i c).shadow = (s.ctr p i c).shadow
  frozenAt : t.rep.frozenAt = s.rep.frozenAt
  flushing : t.rep.flushing = s.rep.flushing
  nv : t.rep.nv = s.rep.nv
  fetch : t.rep.fetch = s.rep.fetch
  arch : t.rep.arch = s.rep.arch
  snapCount : t.rep.snapCount = s.rep.snapCount
  snapEdge : t.rep.snapEdge = s.rep.snapEdge
  armed : t.rep.armed = s.rep.armed
  injected : t.rep.injected = s.rep.injected

theorem SameRep.refl (s : State) : SameRep s s := ⟨fun _ _ => rfl, fun _ _ _ => rfl, rfl, rfl, rfl, rfl, rfl, rfl, rfl, rfl, rfl⟩

theorem SameRep.trans {s t u : State} (h : SameRep s t) (h' : SameRep t u) : SameRep s u :=
  ⟨fun k hk => (h'.words k hk).trans (h.words k hk), fun p i c => (h'.shadow p i c).trans (h.shadow p i c),
   h'.frozenAt.trans h.frozenAt, h'.flushing.trans h.flushing, h'.nv.trans h.nv, h'.fetch.trans h.fetch,
   h'.arch.trans h.arch, h'.snapCount.trans h.snapCount, h'.snapEdge.trans h.snapEdge, h'.armed.trans h.armed,
   h'.injected.trans h.injected⟩

theorem SameRep.step {s t u : State} (h' : SameRep t u) (h : SameRep s t) : SameRep s u := h.trans h'

/-- A change of the report that leaves all of it. -/
theorem SameRep.of_rep {s t : State} (h : t.rep.evt = s.rep.evt := by rfl) (hc : t.rep.ctrs = s.rep.ctrs := by rfl)
    (h1 : t.rep.frozenAt = s.rep.frozenAt := by rfl) (h2 : t.rep.flushing = s.rep.flushing := by rfl)
    (h3 : t.rep.nv = s.rep.nv := by rfl) (h4 : t.rep.fetch = s.rep.fetch := by rfl) (h5 : t.rep.arch = s.rep.arch := by rfl)
    (h6 : t.rep.snapCount = s.rep.snapCount := by rfl) (h7 : t.rep.snapEdge = s.rep.snapEdge := by rfl)
    (h8 : t.rep.armed = s.rep.armed := by rfl) (h9 : t.rep.injected = s.rep.injected := by rfl) : SameRep s t :=
  ⟨fun _ _ => by simp [State.evtWord, h], fun _ _ _ => by simp [State.ctr, hc], h1, h2, h3, h4, h5, h6, h7, h8, h9⟩

theorem SameRep.wrEvt {s : State} {f : Fld} (v i : Nat) (h : keyOf f i ∈ settledWords) : SameRep s (s.wrEvt f v i) := by
  refine ⟨fun k hk => ?_, fun _ _ _ => rfl, rfl, rfl, rfl, rfl, rfl, rfl, rfl, rfl, rfl⟩
  have hk : k ≠ keyOf f i := by
    intro e
    exact hk (e ▸ h)
  exact mget_mset_ne _ _ _ _ _ hk

theorem SameRep.setCtr {s : State} (p : Page) (i c : Nat) (v : Counter) (h : v.shadow = (s.ctr p i c).shadow) :
    SameRep s (s.setCtr p i c v) := by
  refine ⟨fun _ _ => rfl, fun p' i' c' => ?_, rfl, rfl, rfl, rfl, rfl, rfl, rfl, rfl, rfl⟩
  by_cases hk : ctrKey p' i' c' = ctrKey p i c
  · simp only [State.ctr, State.setCtr, hk, mget_mset_self] at *
    exact h
  · exact congrArg Counter.shadow (mget_mset_ne _ _ _ _ _ hk)

theorem SameRep.count (s : State) (p : Page) (i sel n qual : Nat) : SameRep s (s.count p i sel n qual) := by
  unfold State.count
  simp only
  split
  · exact .refl s
  · split <;> exact .of_rep

theorem SameRep.ite {s t u : State} {c : Prop} [Decidable c] (ht : SameRep s t) (hu : SameRep s u) :
    SameRep s (if c then t else u) := by split <;> assumption

theorem SameRep.onlyIf {s : State} {c : Bool} {f : State → State} (h : SameRep s (f s)) : SameRep s (onlyIf c f s) :=
  .ite h (.refl s)

theorem SameRep.raise (s : State) (r : Raised) : SameRep s (s.raise r) := .of_rep
theorem SameRep.irq (s : State) (p : Page) (i : Nat) : SameRep s (s.irq p i) := .of_rep

theorem SameRep.event {s : State} {f : Fld} (i : Nat) (h : keyOf f i ∈ settledWords) : SameRep s (s.event f i) := by
  unfold State.event
  simp only
  exact (SameRep.wrEvt 1 i h).trans ((SameRep.raise ..).trans (.onlyIf (.irq ..)))

theorem SameRep.pmcEvent (s : State) (b : Nat) (p : Page) (i c : Nat) : SameRep s (s.pmcEvent b p i c) := by
  unfold State.pmcEvent
  simp only
  have h1 := SameRep.wrEvt (s := s) (f := F.pmcLastOffset) (p.addr i + 0x048 + 0x10 * c) 0 (by decide)
  have h2 := h1.trans (SameRep.wrEvt (f := F.pmcLastBit) b 0 (by decide))
  refine h2.trans (.ite ?_ (SameRep.event 0 (by decide)))
  exact (SameRep.wrEvt (f := F.pmcEvtSaturated) 1 0 (by decide)).trans ((SameRep.raise ..).trans (.onlyIf (.irq ..)))

theorem SameRep.addCtr (fuel : Nat) : ∀ (p : Page) (i c n : Nat) (s : State), SameRep s (addCtr fuel p i c n s) := by
  induction fuel with
  | zero => intro p i c n s; exact .refl s
  | succ fuel ih =>
    intro p i c n s
    unfold Machine.addCtr
    simp only
    refine .ite (.refl s) (.ite (.ite (.setCtr _ _ _ _ rfl) (.ite ?_ ?_)) (.ite (.setCtr _ _ _ _ rfl) (.ite (.setCtr _ _ _ _ rfl) ?_)))
    · exact SameRep.trans (SameRep.setCtr p i c { s.ctr p i c with live := ((s.ctr p i c).live + n) % 2 ^ 48 } rfl) .of_rep
    · exact SameRep.step (ih ..) (.setCtr _ _ _ _ rfl)
    · exact SameRep.step (SameRep.count ..) (SameRep.step (SameRep.pmcEvent ..) (.setCtr _ _ _ _ rfl))

theorem SameRep.foldl {α : Type} {f : State → α → State} (h : ∀ s a, SameRep s (f s a)) (l : List α) :
    ∀ s, SameRep s (l.foldl f s) := by
  induction l with
  | nil => exact .refl
  | cons a l ih => exact fun s => (h s a).trans (ih _)

theorem SameRep.applyTally (t : Tally) (s : State) : SameRep s (s.applyTally t) := by
  unfold State.applyTally forN
  refine SameRep.foldl (fun s c => .ite (.ite ?_ (.addCtr ..)) (.refl s)) _ s
  exact SameRep.step (SameRep.addCtr ..) (.setCtr _ _ _ _ rfl)

theorem SameRep.stored (s : State) (ring : List Record) (r : Record) : SameRep s (s.stored ring r) := by
  unfold State.stored
  have h := SameRep.count s .evr 0 2 1 0
  generalize s.count .evr 0 2 1 0 = u at h
  refine h.trans ?_
  dsimp only [Sys2Proof.onlyIf]
  split <;> exact .of_rep

theorem SameRep.storeRecord (s : State) (r : Record) : SameRep s (s.storeRecord r) := by
  unfold State.storeRecord
  simp only
  refine .ite (.stored ..) ?_
  · split
    · exact SameRep.step (SameRep.stored ..) (SameRep.count ..)
    · refine SameRep.step (SameRep.onlyIf (.raise ..)) (SameRep.step (SameRep.onlyIf (.irq ..)) ?_)
      exact SameRep.step (SameRep.wrEvt 1 0 (by decide)) (SameRep.step (SameRep.count ..) .of_rep)

theorem SameRep.filterRecord (s : State) (q : Raised) (n : Nat) : SameRep s (s.filterRecord q n) := by
  unfold State.filterRecord
  simp only
  refine .ite ?_ (.ite ?_ (.ite (.ite ?_ ?_) ?_))
  · exact SameRep.step (SameRep.count ..) .of_rep
  · exact SameRep.step (SameRep.count ..) .of_rep
  · exact .of_rep
  · exact SameRep.step (SameRep.count ..) .of_rep
  · exact SameRep.step (SameRep.storeRecord ..) .of_rep

theorem SameRep.record (s : State) (q : Raised) : SameRep s (s.record q) := by
  unfold State.record
  simp only
  refine .ite ?_ (.ite .of_rep .of_rep)
  exact SameRep.step (SameRep.filterRecord ..) (SameRep.step (SameRep.count ..) .of_rep)

theorem SameRep.settleOnce (s : State) : SameRep s s.settleOnce := by
  unfold State.settleOnce forL
  simp only
  refine SameRep.trans (t := forL s.rep.tally State.applyTally { s with rep := { s.rep with tally := [] } }) ?_ ?_
  · exact SameRep.step (SameRep.foldl (fun s a => .applyTally a s) _ _) .of_rep
  · exact SameRep.step (SameRep.foldl (fun s a => .record s a) _ _) .of_rep

theorem SameRep.settle (s : State) : SameRep s s.settle := (SameRep.settleOnce s).trans (.settleOnce _)

theorem SameRep.sendIrqs (s : State) : SameRep s s.sendIrqs := by
  unfold State.sendIrqs forL
  refine SameRep.step (SameRep.foldl (fun s a => ?_) _ _) .of_rep
  unfold State.raiseVector
  exact .ite (.ite (.refl s) .of_rep) .of_rep

theorem State.closed_rep (u : State) : SameRep u u.closed := (SameRep.settle u).trans (.sendIrqs _)

theorem State.closed_evtWord (u : State) {k : RegKey} (h : k ∉ settledWords) : u.closed.evtWord k = u.evtWord k :=
  u.closed_rep.words k h

/-- An event register's field reads after a command what it read when the command's effect was whole. -/
theorem State.closed_evt (u : State) (f : Fld) (i : Nat) (h : keyOf f i ∉ settledWords) : u.closed.evt f i = u.evt f i := by
  show getF (u.closed.evtWord (keyOf f i)) f.lo f.w = getF (u.evtWord (keyOf f i)) f.lo f.w
  rw [State.closed_evtWord u h]

theorem State.wrEvt_evt_self (s : State) {f : Fld} (v i : Nat) (h : f.fits = true) : (s.wrEvt f v i).evt f i = v % 2 ^ f.w := by
  simp only [State.evt, State.wrEvt, State.setEvtWord, mget_mset_self]
  exact getF_setF_self _ _ (by simpa [Fld.fits] using h)

/-- The bit of an event is 1 once it has happened. -/
theorem State.event_evt_self (s : State) {f : Fld} (i : Nat) (h : f.fits = true) (hw : f.w = 1) : (s.event f i).evt f i = 1 := by
  have e : (s.event f i).rep.evt = (s.wrEvt f 1 i).rep.evt := by
    unfold State.event onlyIf
    simp only
    split <;> rfl
  have := s.wrEvt_evt_self 1 i h
  simp only [State.evt, e, hw] at this ⊢
  simpa using this

end Sys2Proof.Machine
end

