-- ==== Sys2Proof/Laws/Tick.lean ====
section
/-! SUPPORT. What the operations of Machine/Tick.lean keep, and the parts of the state that they may change. -/

namespace Sys2Proof.Machine

open Sys2Proof

theorem State.windowAct_keeps {s : State} {op : Nat} {a : Nat} {m3 : List Byte} :
    Keeps (mask [.sched, .rep, .assocs, .vault, .kindle, .slices, .msix, .out, .page .hst, .page .slc,
        .page .asnw]) s (State.windowAct s op a m3) := by
  unfold State.windowAct
  extract_lets x1 x2
  have h1 : Keeps (mask
  [.sched, .rep, .assocs, .vault, .kindle, .slices, .msix, .out, .page .hst,
    .page .slc, .page .asnw]) s x2 := by
    unfold x2
    refine Keeps.step State.asnAct_keeps (by rfl) ?_
    exact Keeps.refl _
  clear_value x2
  refine Keeps.ite ?_ ?_
  · refine Keeps.step State.kindleEntered_keeps (by rfl) ?_
    assumption
  · assumption

set_option maxRecDepth 4096 in
theorem State.actStep2_keeps {arrived : List RegKey} {a : Act} {s : State} :
    Keeps (mask [.sched, .rep, .lanes, .ports, .assocs, .fwd, .vault, .chims, .kindle, .time, .slices, .msix, .pair,
        .fresh, .out, .page .kvt, .page .flu, .page .hst, .page .fwd, .page .chm, .page .stv, .page .lan, .page .slc,
        .page .asnw]) s (State.actStep2 arrived a s) := by
  unfold State.actStep2
  split
  · refine Keeps.step State.clearCounter_keeps (by rfl) ?_
    exact Keeps.refl _
  · refine Keeps.step State.clearCounters_keeps (by rfl) ?_
    exact Keeps.refl _
  · refine Keeps.step State.laneTrain_keeps (by rfl) ?_
    exact Keeps.refl _
  · refine Keeps.step State.laneCheck_keeps (by rfl) ?_
    exact Keeps.refl _
  · refine Keeps.step State.ffeStep_keeps (by rfl) ?_
    exact Keeps.refl _
  · refine Keeps.step State.windowAct_keeps (by rfl) ?_
    exact Keeps.refl _
  · refine Keeps.step State.windowAct_keeps (by rfl) ?_
    exact Keeps.refl _
  · refine Keeps.step State.applyDomain_keeps (by rfl) ?_
    exact Keeps.refl _
  · refine Keeps.step State.softRoll_keeps (by rfl) ?_
    refine Keeps.step State.asnEvent_keeps (by rfl) ?_
    exact Keeps.refl _
  · refine Keeps.forN ?_ ?_
    · intro b1 u1
      refine Keeps.step State.drbgReseed_keeps (by rfl) ?_
      exact Keeps.refl _
    · exact Keeps.refl _
  · refine Keeps.step State.stvAct_keeps (by rfl) ?_
    exact Keeps.refl _
  · refine Keeps.step State.stvBack_keeps (by rfl) ?_
    exact Keeps.refl _
  · refine Keeps.step State.linkAct_keeps (by rfl) ?_
    exact Keeps.refl _
  · refine Keeps.step State.rollJoin_keeps (by rfl) ?_
    exact Keeps.refl _
  · refine Keeps.step State.stepTime_keeps (by rfl) ?_
    exact Keeps.refl _
  · refine Keeps.step State.fluAct_keeps (by rfl) ?_
    exact Keeps.refl _
  · exact Keeps.refl _

theorem State.acts_keeps {m : Nat} {z : State} {l : List Act} {f : Act → State → State} {s : State} (hc : Covers m
    (mask []))
    (hf : ∀ b0 u, Keeps m u (f b0 u)) (h : Keeps m z s) :
    Keeps m z (State.acts l f s) := by
  unfold State.acts
  refine Keeps.trans h ?_
  refine Keeps.forL ?_ ?_
  · intro b1 u1
    refine Keeps.step (hf ..) (Nat.or_self _) ?_
    exact Keeps.refl _
  · exact Keeps.refl _

theorem State.cellsEdge_keeps {l : List Act} {s : State} :
    Keeps (mask [.rep, .hearth, .slices]) s (State.cellsEdge l s) := by
  unfold State.cellsEdge
  extract_lets x1 x2
  have h1 : Keeps (mask [.rep, .hearth, .slices]) s x1 := by
    unfold x1
    refine State.acts_keeps ?_ ?_ ?_
    · exact rfl
    · intro b1 u1
      split
      · refine Keeps.step State.flushQueues_keeps (by rfl) ?_
        exact Keeps.refl _
      · exact Keeps.refl _
    · exact Keeps.refl _
  have h2 : Keeps (mask [.rep, .hearth, .slices]) s x2 := by
    unfold x2
    refine Keeps.step State.pieceEnds_keeps (by rfl) ?_
    refine Keeps.step State.zeroStep_keeps (by rfl) ?_
    assumption
  clear_value x2
  clear_value x1
  refine Keeps.onlyIf ?_ ?_
  · intro u1
    refine Keeps.step State.hrtEvent_keeps (by rfl) ?_
    exact Keeps.refl _
  · assumption

theorem State.pairEdge_keeps {s : State} :
    Keeps (mask [.rep, .lanes, .assocs, .pair, .out, .page .dev, .page .flu]) s (State.pairEdge s) := by
  unfold State.pairEdge
  extract_lets x1 x2
  have h1 : Keeps (mask [.rep, .lanes, .assocs, .pair, .out, .page .dev, .page .flu]) s x1 := by
    unfold x1
    refine Keeps.step State.mirrorEdge_keeps (by rfl) ?_
    refine Keeps.step State.syncEdge_keeps (by rfl) ?_
    refine Keeps.step State.wr_keeps (by rfl) ?_
    exact Keeps.refl _
  have h2 : Keeps (mask [.rep, .lanes, .assocs, .pair, .out, .page .dev, .page .flu]) s x2 := by
    unfold x2
    split
    · refine Keeps.ite ?_ ?_
      · refine Keeps.step State.modPair_keeps (by rfl) ?_
        assumption
      · assumption
    · assumption
  clear_value x2
  clear_value x1
  refine Keeps.step State.claimEdge_keeps (by rfl) ?_
  refine Keeps.step State.sendFrame_keeps (by rfl) ?_
  refine Keeps.step State.driveLines_keeps (by rfl) ?_
  refine Keeps.step State.rearmLock_keeps (by rfl) ?_
  assumption

theorem State.afterSteps_keeps {s : State} {l : List Act} :
    Keeps (mask [.rep, .lanes, .ports, .assocs, .vault, .hearth, .kindle, .time, .slices, .pair, .fresh, .out,
        .page .dev, .page .flu]) s (State.afterSteps s l) := by
  unfold State.afterSteps
  extract_lets x1 x2 x3
  have h1 : Keeps (mask
  [.rep, .lanes, .ports, .assocs, .vault, .hearth, .kindle, .time, .slices,
    Part.pair, .fresh, .out, .page .dev, .page .flu]) s x1 := by
    unfold x1
    refine Keeps.step State.attestEdge_keeps (by rfl) ?_
    refine Keeps.step State.timeEdge_keeps (by rfl) ?_
    refine Keeps.step State.cellsEdge_keeps (by rfl) ?_
    exact Keeps.refl _
  have h2 : Keeps (mask
  [.rep, .lanes, .ports, .assocs, .vault, .hearth, .kindle, .time, .slices,
    Part.pair, .fresh, .out, .page .dev, .page .flu]) s x2 := by
    unfold x2
    refine Keeps.forL ?_ ?_
    · intro b1 u1
      refine Keeps.step State.pump_keeps (by rfl) ?_
      refine Keeps.step State.offerWaiting_keeps (by rfl) ?_
      refine Keeps.step State.rollService_keeps (by rfl) ?_
      exact Keeps.refl _
    · assumption
  have h3 : Keeps (mask
  [.rep, .lanes, .ports, .assocs, .vault, .hearth, .kindle, .time, .slices,
    Part.pair, .fresh, .out, .page .dev, .page .flu]) s x3 := by
    unfold x3
    refine Keeps.step State.archEdge_keeps (by rfl) ?_
    assumption
  clear_value x3
  clear_value x2
  clear_value x1
  refine Keeps.step State.pairEdge_keeps (by rfl) ?_
  refine Keeps.step State.refillBuckets_keeps (by rfl) ?_
  assumption

theorem State.brtcTick_keeps {s : State} {e : EdgeIn} :
    Keeps (mask [.tamper]) s (State.brtcTick s e) := by
  unfold State.brtcTick
  refine Keeps.step State.tamperEdge_keeps (by rfl) ?_
  refine Keeps.step State.modTamper_keeps (by rfl) ?_
  exact Keeps.refl _

theorem State.cascade_keeps {s : State} {vs : List Nat} :
    Keeps (mask [.rep, .assocs, .vault, .kindle, .slices, .msix, .fresh, .out, .page .kvt, .page .hst,
        .page .slc]) s (State.cascade s vs) := by
  unfold State.cascade
  extract_lets x1 x2 x3 x4
  have h1 : Keeps (mask
  [.rep, .assocs, .vault, .kindle, .slices, .msix, .fresh, .out, .page .kvt,
    .page .hst, .page .slc]) s x3 := by
    unfold x3
    refine Keeps.forL ?_ ?_
    · intro b1 u1
      refine Keeps.step State.deadAsn_keeps (by rfl) ?_
      exact Keeps.refl _
    · exact Keeps.refl _
  have h2 : Keeps (mask
  [.rep, .assocs, .vault, .kindle, .slices, .msix, .fresh, .out, .page .kvt,
    .page .hst, .page .slc]) s x4 := by
    unfold x4
    refine Keeps.step State.wr_keeps (by rfl) ?_
    refine Keeps.step State.wr_keeps (by rfl) ?_
    assumption
  clear_value x4
  clear_value x3
  split
  · exact Keeps.refl _
  · refine Keeps.step State.cascaded_keeps (by rfl) ?_
    refine Keeps.step State.kvtEvent_keeps (by rfl) ?_
    refine Keeps.step State.count_keeps (by rfl) ?_
    refine Keeps.step State.count_keeps (by rfl) ?_
    assumption

theorem State.commitPlain_keeps {s : State} {k : RegKey} {w : Word} :
    Keeps (mask [.page k.page]) s (State.commitPlain s k w) := by
  unfold State.commitPlain
  split
  · with_reducible refine Keeps.step State.setWord_keeps ?_ ?_
    · exact Covers.of_subset (l := [.page k.page]) (by simp)
    exact Keeps.refl _
  · exact Keeps.refl _

theorem State.commitAps_keeps {s : State} {k : RegKey} {w : Word} :
    Keeps (mask [.otn, .page k.page]) s (State.commitAps s k w) := by
  unfold State.commitAps
  extract_lets x1 x2
  have h1 : Keeps (mask [.otn, .page k.page]) s x2 := by
    unfold x2
    with_reducible refine Keeps.step State.commitPlain_keeps ?_ ?_
    · exact Covers.of_subset (l := [.page k.page]) (by simp)
    exact Keeps.refl _
  clear_value x2
  refine Keeps.onlyIf ?_ ?_
  · intro u1
    with_reducible refine Keeps.step State.modOtnp_keeps ?_ ?_
    · exact Covers.of_subset (l := [.otn]) (by simp)
    exact Keeps.refl _
  · assumption

theorem State.commitArch_keeps {s : State} {k : RegKey} {w : Word} :
    Keeps (mask [.rep, .page k.page]) s (State.commitArch s k w) := by
  unfold State.commitArch
  extract_lets x1 x2
  have h1 : Keeps (mask [.rep, .page k.page]) s x2 := by
    unfold x2
    with_reducible refine Keeps.step State.commitPlain_keeps ?_ ?_
    · exact Covers.of_subset (l := [.page k.page]) (by simp)
    exact Keeps.refl _
  clear_value x2
  refine Keeps.onlyIf ?_ ?_
  · intro u1
    with_reducible refine Keeps.step State.modArch_keeps ?_ ?_
    · exact Covers.of_subset (l := [.rep]) (by simp)
    exact Keeps.refl _
  · assumption

theorem State.commitModeReq_keeps {s : State} {target : Nat} :
    Keeps (mask [.pwr, .kindle, .pair, .page .dev, .page .flu]) s (State.commitModeReq s target) := by
  unfold State.commitModeReq
  refine Keeps.ite ?_ ?_
  · exact Keeps.refl _
  · refine Keeps.ite ?_ ?_
    · refine Keeps.step State.wr_keeps (by rfl) ?_
      exact Keeps.refl _
    · split
      · refine Keeps.step State.runRule_keeps (by rfl) ?_
        exact Keeps.refl _
      · refine Keeps.step State.setMode_keeps (by rfl) ?_
        exact Keeps.refl _
      · refine Keeps.step State.setMode_keeps (by rfl) ?_
        exact Keeps.refl _
      · refine Keeps.step State.holdCheck_keeps (by rfl) ?_
        refine Keeps.step State.setMode_keeps (by rfl) ?_
        exact Keeps.refl _

theorem State.commitFluCfg_keeps {s : State} {k : RegKey} {w : Word} :
    Keeps (mask [.rep, .assocs, .vault, .pair, .fresh, .page .flu, .page k.page]) s (State.commitFluCfg s k w) := by
  unfold State.commitFluCfg
  extract_lets x1 x2
  have h1 : Keeps (mask [.rep, .assocs, .vault, .pair, .fresh, .page .flu, .page k.page]) s x2 := by
    unfold x2
    with_reducible refine Keeps.step State.commitPlain_keeps ?_ ?_
    · exact Covers.of_subset (l := [.page k.page]) (by simp)
    exact Keeps.refl _
  clear_value x2
  refine Keeps.ite ?_ ?_
  · with_reducible refine Keeps.step State.flueDegrade_keeps ?_ ?_
    · exact Covers.of_subset (l := [.page .flu]) (by simp)
    with_reducible refine Keeps.step State.wr_keeps ?_ ?_
    · exact Covers.of_subset (l := [.page .flu]) (by simp)
    with_reducible refine Keeps.step State.dropSync_keeps ?_ ?_
    · exact Covers.of_subset (l := [.assocs, .page .flu]) (by simp)
    with_reducible refine Keeps.step State.dropMirror_keeps ?_ ?_
    · exact Covers.of_subset (l := [.rep, .page .flu]) (by simp)
    assumption
  · refine Keeps.ite ?_ ?_
    · with_reducible refine Keeps.step State.enterHello_keeps ?_ ?_
      · exact Covers.of_subset (l := [.rep, .assocs, .vault, .pair, .fresh, .page .flu]) (by simp)
      assumption
    · assumption

theorem State.commitTti_keeps {s : State} {k : RegKey} {w : Word} :
    Keeps (mask [.otn, .page k.page]) s (State.commitTti s k w) := by
  unfold State.commitTti
  extract_lets x1 x2
  have h1 : Keeps (mask [.otn, .page k.page]) s x2 := by
    unfold x2
    with_reducible refine Keeps.step State.commitPlain_keeps ?_ ?_
    · exact Covers.of_subset (l := [.page k.page]) (by simp)
    exact Keeps.refl _
  clear_value x2
  refine Keeps.onlyIf ?_ ?_
  · intro u1
    with_reducible refine Keeps.step State.modOtnp_keeps ?_ ?_
    · exact Covers.of_subset (l := [.otn]) (by simp)
    exact Keeps.refl _
  · assumption

theorem State.commitSeaCfg_keeps {s : State} {k : RegKey} {w : Word} :
    Keeps (mask [.seals, .page k.page]) s (State.commitSeaCfg s k w) := by
  unfold State.commitSeaCfg
  extract_lets x1 x2
  have h1 : Keeps (mask [.seals, .page k.page]) s x2 := by
    unfold x2
    with_reducible refine Keeps.step State.commitPlain_keeps ?_ ?_
    · exact Covers.of_subset (l := [.page k.page]) (by simp)
    exact Keeps.refl _
  clear_value x2
  refine Keeps.onlyIf ?_ ?_
  · intro u1
    with_reducible refine Keeps.step State.modSeal_keeps ?_ ?_
    · exact Covers.of_subset (l := [.seals]) (by simp)
    exact Keeps.refl _
  · assumption

theorem State.commitEqCfg_keeps {s : State} {k : RegKey} {w : Word} :
    Keeps (mask [.page .slc, .page k.page]) s (State.commitEqCfg s k w) := by
  unfold State.commitEqCfg
  extract_lets x1 x2
  have h1 : Keeps (mask [.page .slc, .page k.page]) s x2 := by
    unfold x2
    with_reducible refine Keeps.step State.commitPlain_keeps ?_ ?_
    · exact Covers.of_subset (l := [.page k.page]) (by simp)
    exact Keeps.refl _
  clear_value x2
  refine Keeps.onlyIf ?_ ?_
  · intro u1
    with_reducible refine Keeps.step State.wr_keeps ?_ ?_
    · exact Covers.of_subset (l := [.page .slc]) (by simp)
    exact Keeps.refl _
  · assumption

set_option maxRecDepth 4096 in
theorem State.commitCopy_keeps {arrived : List RegKey} {k : RegKey} {w : Word} {s : State} :
    Keeps (mask [.sched, .rep, .pwr, .lanes, .ports, .otn, .assocs, .vault, .hearth, .kindle, .seals, .time, .pair,
        .regions, .fresh, .out, .page .dev, .page .tsu, .page .kdl, .page .flu, .page .cxm, .page .chm, .page .lan,
        .page .prt, .page .otf, .page .sea, .page .slc, .page k.page]) s (State.commitCopy arrived k w s) := by
  unfold State.commitCopy
  refine Keeps.ite ?_ ?_
  · with_reducible refine Keeps.step State.commitCntCfg_keeps ?_ ?_
    · exact Covers.of_subset (l := [.rep, .page k.page]) (by simp)
    exact Keeps.refl _
  · split
    · with_reducible refine Keeps.step State.commitModeReq_keeps ?_ ?_
      · exact Covers.of_subset (l := [.pwr, .kindle, .pair, .page .dev, .page .flu]) (by simp)
      exact Keeps.refl _
    · with_reducible refine Keeps.step State.commitArch_keeps ?_ ?_
      · exact Covers.of_subset (l := [.rep, .page k.page]) (by simp)
      exact Keeps.refl _
    · with_reducible refine Keeps.step State.commitIncLo_keeps ?_ ?_
      · exact Covers.of_subset (l := [.time]) (by simp)
      exact Keeps.refl _
    · with_reducible refine Keeps.step State.commitIncHi_keeps ?_ ?_
      · exact Covers.of_subset (l := [.rep, .time, .page .tsu]) (by simp)
      exact Keeps.refl _
    · with_reducible refine Keeps.step State.commitLinkCfg_keeps ?_ ?_
      · exact Covers.of_subset (l := [.sched, .rep, .ports, .vault, .kindle, .fresh, .out, .page .kdl]) (by simp)
      exact Keeps.refl _
    · with_reducible refine Keeps.step State.commitFluCfg_keeps ?_ ?_
      · exact Covers.of_subset (l := [.rep, .assocs, .vault, .pair, .fresh, .page .flu, .page k.page]) (by simp)
      exact Keeps.refl _
    · with_reducible refine Keeps.step State.commitRcfg_keeps ?_ ?_
      · exact Covers.of_subset (l := [.vault, .regions, .fresh, .page .cxm]) (by simp)
      exact Keeps.refl _
    · with_reducible refine Keeps.step State.commitRbase_keeps ?_ ?_
      · exact Covers.of_subset (l := [.page .cxm]) (by simp)
      exact Keeps.refl _
    · with_reducible refine Keeps.step State.commitChmCfg_keeps ?_ ?_
      · exact Covers.of_subset (l := [.rep, .page .chm]) (by simp)
      exact Keeps.refl _
    · with_reducible refine Keeps.step State.commitLanCtrl_keeps ?_ ?_
      · exact Covers.of_subset (l := [.lanes, .page .lan]) (by simp)
      exact Keeps.refl _
    · with_reducible refine Keeps.step State.commitStep_keeps ?_ ?_
      · exact Covers.of_subset (l := [.lanes, .page .lan]) (by simp)
      exact Keeps.refl _
    · with_reducible refine Keeps.step State.commitFfe_keeps ?_ ?_
      · exact Covers.of_subset (l := [.lanes, .page .lan]) (by simp)
      exact Keeps.refl _
    · with_reducible refine Keeps.step State.commitPrbs_keeps ?_ ?_
      · exact Covers.of_subset (l := [.lanes, .page .lan]) (by simp)
      exact Keeps.refl _
    · with_reducible refine Keeps.step State.commitLoop_keeps ?_ ?_
      · exact Covers.of_subset (l := [.lanes, .page .lan]) (by simp)
      exact Keeps.refl _
    · with_reducible refine Keeps.step State.commitPortCfg_keeps ?_ ?_
      · exact Covers.of_subset (l := [.ports, .otn, .seals, .page .prt, .page .otf, .page .sea]) (by simp)
      refine Keeps.onlyIf ?_ ?_
      · intro u1
        with_reducible refine Keeps.step State.leaveOtn_keeps ?_ ?_
        · exact Covers.of_subset (l := [.rep, .ports, .hearth, .seals, .page .sea]) (by simp)
        exact Keeps.refl _
      · exact Keeps.refl _
    · with_reducible refine Keeps.step State.commitAuth_keeps ?_ ?_
      · exact Covers.of_subset (l := [.ports, .page k.page]) (by simp)
      exact Keeps.refl _
    · with_reducible refine Keeps.step State.commitAuth_keeps ?_ ?_
      · exact Covers.of_subset (l := [.ports, .page k.page]) (by simp)
      exact Keeps.refl _
    · with_reducible refine Keeps.step State.commitOtnCfg_keeps ?_ ?_
      · exact Covers.of_subset (l := [.page .otf]) (by simp)
      exact Keeps.refl _
    · with_reducible refine Keeps.step State.commitTti_keeps ?_ ?_
      · exact Covers.of_subset (l := [.otn, .page k.page]) (by simp)
      exact Keeps.refl _
    · with_reducible refine Keeps.step State.commitAps_keeps ?_ ?_
      · exact Covers.of_subset (l := [.otn, .page k.page]) (by simp)
      exact Keeps.refl _
    · with_reducible refine Keeps.step State.commitSeaCfg_keeps ?_ ?_
      · exact Covers.of_subset (l := [.seals, .page k.page]) (by simp)
      exact Keeps.refl _
    · with_reducible refine Keeps.step State.commitEqCfg_keeps ?_ ?_
      · exact Covers.of_subset (l := [.page .slc, .page k.page]) (by simp)
      exact Keeps.refl _
    · with_reducible refine Keeps.step State.commitPlain_keeps ?_ ?_
      · exact Covers.of_subset (l := [.page k.page]) (by simp)
      exact Keeps.refl _

set_option maxRecDepth 4096 in
theorem State.commitCopies_keeps {arrived : List RegKey} {l : List Act} {s : State} :
    Keeps (mask ([.sched, .rep, .pwr, .lanes, .ports, .otn, .assocs, .vault, .hearth, .kindle, .seals, .time, .pair,
        .regions, .fresh, .out] ++ allPages)) s (State.commitCopies arrived l s) := by
  unfold State.commitCopies
  extract_lets x1 x2 x3 x4
  have h1 : ∀ b0 u, Keeps (mask
  ([.sched, .rep, .pwr, .lanes, .ports, .otn, .assocs, .vault, .hearth, .kindle,
      Part.seals, .time, .pair, .regions, .fresh, .out] ++
    allPages)) u (x1 b0 u) := by
    intro b0 u
    unfold x1
    split
    · with_reducible refine Keeps.step State.commitCopy_keeps ?_ ?_
      · exact Covers.of_subset (by simp)
      exact Keeps.refl _
    · exact Keeps.refl _
  have h2 : Keeps (mask
  ([.sched, .rep, .pwr, .lanes, .ports, .otn, .assocs, .vault, .hearth, .kindle,
      Part.seals, .time, .pair, .regions, .fresh, .out] ++
    allPages)) s x2 := by
    unfold x2
    refine State.acts_keeps ?_ ?_ ?_
    · exact rfl
    · intro b1 u1
      refine Keeps.step (h1 ..) (Nat.or_self _) ?_
      exact Keeps.refl _
    · exact Keeps.refl _
  have h3 : Keeps (mask
  ([.sched, .rep, .pwr, .lanes, .ports, .otn, .assocs, .vault, .hearth, .kindle,
      Part.seals, .time, .pair, .regions, .fresh, .out] ++
    allPages)) s x3 := by
    unfold x3
    refine Keeps.forL ?_ ?_
    · intro b1 u1
      refine Keeps.step State.settleClass_keeps (by rfl) ?_
      exact Keeps.refl _
    · assumption
  clear_value x3
  clear_value x2
  clear_value x1
  refine Keeps.forN ?_ ?_
  · intro b1 u1
    refine State.acts_keeps ?_ ?_ ?_
    · exact rfl
    · intro b2 u2
      refine Keeps.step (h1 ..) (Nat.or_self _) ?_
      exact Keeps.refl _
    · exact Keeps.refl _
  · assumption

theorem State.takeDue_keeps {s : State} :
    KeepsP (mask [.sched]) s (State.takeDue s) := by
  unfold State.takeDue
  refine KeepsP.mk ?_
  refine Keeps.step Keeps.set_sched (by rfl) ?_
  exact Keeps.refl _

theorem State.linkStep2_keeps {k : Nat} {s : State} :
    Keeps (mask [.sched, .rep, .ports, .assocs, .kindle, .out]) s (State.linkStep2 k s) := by
  unfold State.linkStep2
  refine Keeps.step State.liveInstall_keeps (by rfl) ?_
  refine Keeps.step State.rollInstall_keeps (by rfl) ?_
  refine Keeps.step State.phase0Install_keeps (by rfl) ?_
  refine Keeps.step State.deriveLink_keeps (by rfl) ?_
  refine Keeps.step State.confirmEdge_keeps (by rfl) ?_
  exact Keeps.refl _

set_option maxRecDepth 4096 in
theorem State.step2_keeps {arrived : List RegKey} {l : List Act} {recs : List (Nat × MRec)} {s : State} :
    Keeps (mask ([.sched, .rep, .pwr, .lanes, .ports, .otn, .assocs, .fwd, .vault, .chims, .hearth, .kindle, .seals,
        .time, .slices, .msix, .pair, .regions, .fresh, .out] ++ allPages)) s (State.step2 arrived l recs s) := by
  unfold State.step2
  extract_lets x1 x2 x3 x4 x5
  have h1 : Keeps (mask
  ([.sched, .rep, .pwr, .lanes, .ports, .otn, .assocs, .fwd, .vault, .chims,
      Part.hearth, .kindle, .seals, .time, .slices, .msix, .pair, .regions, .fresh,
      Part.out] ++
    allPages)) s x1 := by
    unfold x1
    refine Keeps.onlyIf ?_ ?_
    · intro u1
      refine Keeps.step State.runRule_keeps (by rfl) ?_
      exact Keeps.refl _
    · exact Keeps.refl _
  have h2 : Keeps (mask
  ([.sched, .rep, .pwr, .lanes, .ports, .otn, .assocs, .fwd, .vault, .chims,
      Part.hearth, .kindle, .seals, .time, .slices, .msix, .pair, .regions, .fresh,
      Part.out] ++
    allPages)) s x2 := by
    unfold x2
    refine State.acts_keeps ?_ ?_ ?_
    · exact rfl
    · intro b1 u1
      refine Keeps.step State.actStep2_keeps (by rfl) ?_
      exact Keeps.refl _
    · refine Keeps.step State.commitCopies_keeps (by rfl) ?_
      assumption
  have h3 : Keeps (mask
  ([.sched, .rep, .pwr, .lanes, .ports, .otn, .assocs, .fwd, .vault, .chims,
      Part.hearth, .kindle, .seals, .time, .slices, .msix, .pair, .regions, .fresh,
      Part.out] ++
    allPages)) s x3 := by
    unfold x3
    refine Keeps.forL ?_ ?_
    · intro b1 u1
      refine Keeps.step State.drainAsn_keeps (by rfl) ?_
      exact Keeps.refl _
    · assumption
  have h4 : Keeps (mask
  ([.sched, .rep, .pwr, .lanes, .ports, .otn, .assocs, .fwd, .vault, .chims,
      Part.hearth, .kindle, .seals, .time, .slices, .msix, .pair, .regions, .fresh,
      Part.out] ++
    allPages)) s x4 := by
    unfold x4
    refine Keeps.forL ?_ ?_
    · intro b1 u1
      refine Keeps.step State.recoverAsn_keeps (by rfl) ?_
      exact Keeps.refl _
    · assumption
  have h5 : Keeps (mask
  ([.sched, .rep, .pwr, .lanes, .ports, .otn, .assocs, .fwd, .vault, .chims,
      Part.hearth, .kindle, .seals, .time, .slices, .msix, .pair, .regions, .fresh,
      Part.out] ++
    allPages)) s x5 := by
    unfold x5
    refine Keeps.forL ?_ ?_
    · intro b1 u1
      refine Keeps.step State.linkStep2_keeps (by rfl) ?_
      exact Keeps.refl _
    · assumption
  clear_value x5
  clear_value x4
  clear_value x3
  clear_value x2
  clear_value x1
  refine Keeps.forL ?_ ?_
  · intro b1 u1
    refine Keeps.step State.applyRecord_keeps (by rfl) ?_
    exact Keeps.refl _
  · assumption

theorem State.portsEdge_keeps {s : State} {pre : State} :
    Keeps (mask [.rep, .ports, .otn, .out, .page .prt, .page .otf, .page .sea]) s (State.portsEdge s pre) := by
  unfold State.portsEdge
  refine Keeps.step State.portsEval_keeps (by rfl) ?_
  refine Keeps.forN ?_ ?_
  · intro b1 u1
    refine Keeps.step State.sealLosEdge_keeps (by rfl) ?_
    refine Keeps.onlyIf ?_ ?_
    · intro u2
      refine Keeps.step State.timEval_keeps (by rfl) ?_
      exact Keeps.refl _
    · exact Keeps.refl _
  · exact Keeps.refl _

theorem State.slotStep_keeps {a : Act} {q : State × List Nat} :
    KeepsP (mask [.rep, .vault, .slices, .msix, .out, .page .kvt, .page .hst,
        .page .slc]) q.1 (State.slotStep a q) := by
  unfold State.slotStep
  split
  · refine KeepsP.mk ?_
    refine Keeps.step State.slotBecomes_keeps (by rfl) ?_
    exact Keeps.refl _
  · extract_lets x1
    have h1 : KeepsP (mask
  [.rep, .vault, .slices, .msix, .out, .page .kvt, .page .hst, .page .slc]) q.fst x1 := by
      unfold x1
      refine KeepsP.step State.deleteSlot_keeps (by rfl) ?_
      exact Keeps.refl _
    clear_value x1
    refine KeepsP.mk ?_
    refine KeepsP.fst ?_
    assumption
  · extract_lets x1
    have h1 : KeepsP (mask
  [.rep, .vault, .slices, .msix, .out, .page .kvt, .page .hst, .page .slc]) q.fst x1 := by
      unfold x1
      refine KeepsP.step State.removeSlots_keeps (by rfl) ?_
      exact Keeps.refl _
    clear_value x1
    refine KeepsP.mk ?_
    refine KeepsP.fst ?_
    assumption
  · exact Keeps.refl _

theorem State.step3_keeps {l : List Act} {quench : Bool} {s : State} :
    Keeps (mask [.rep, .pwr, .assocs, .vault, .kindle, .slices, .msix, .fresh, .out, .page .kvt, .page .hst,
        .page .asn, .page .slc]) s (State.step3 l quench s) := by
  unfold State.step3
  extract_lets x1 x2 x3
  have h1 : KeepsP (mask
  [.rep, .pwr, .assocs, .vault, .kindle, .slices, .msix, .fresh, .out,
    .page .kvt, .page .hst, .page .asn, .page .slc]) s x1 := by
    unfold x1
    refine KeepsP.foldl ?_ _ ?_
    · intro b1 u1
      refine KeepsP.step State.slotStep_keeps (by rfl) ?_
      exact Keeps.refl _
    · refine KeepsP.mk ?_
      exact Keeps.refl _
  have h2 : Keeps (mask
  [.rep, .pwr, .assocs, .vault, .kindle, .slices, .msix, .fresh, .out,
    .page .kvt, .page .hst, .page .asn, .page .slc]) s x2 := by
    unfold x2
    refine Keeps.step State.cascade_keeps (by rfl) ?_
    refine KeepsP.fst ?_
    assumption
  have h3 : Keeps (mask
  [.rep, .pwr, .assocs, .vault, .kindle, .slices, .msix, .fresh, .out,
    .page .kvt, .page .hst, .page .asn, .page .slc]) s x3 := by
    unfold x3
    refine State.acts_keeps ?_ ?_ ?_
    · exact rfl
    · intro b1 u1
      split
      · refine Keeps.step State.deadAsn_keeps (by rfl) ?_
        exact Keeps.refl _
      · refine Keeps.forL ?_ ?_
        · intro b1 u2
          refine Keeps.onlyIf ?_ ?_
          · intro u3
            refine Keeps.step State.deadAsn_keeps (by rfl) ?_
            exact Keeps.refl _
          · exact Keeps.refl _
        · exact Keeps.refl _
      · exact Keeps.refl _
    · assumption
  clear_value x3
  clear_value x2
  clear_value x1
  refine Keeps.onlyIf ?_ ?_
  · intro u1
    refine Keeps.step State.quenchAsn_keeps (by rfl) ?_
    exact Keeps.refl _
  · assumption

theorem State.step8_keeps {ops : Nat} {carried : Nat} {s : State} :
    Keeps (mask [.pair, .page .dev]) s (State.step8 ops carried s) := by
  unfold State.step8
  extract_lets x1 x2 x3
  have h1 : Keeps (mask [.pair, .page .dev]) s x2 := by
    unfold x2
    refine Keeps.step State.wr_keeps (by rfl) ?_
    exact Keeps.refl _
  have h2 : Keeps (mask [.pair, .page .dev]) s x3 := by
    unfold x3
    refine Keeps.ite ?_ ?_
    · assumption
    · refine Keeps.step State.wr_keeps (by rfl) ?_
      refine Keeps.step State.wr_keeps (by rfl) ?_
      assumption
  clear_value x3
  clear_value x2
  refine Keeps.ite ?_ ?_
  · refine Keeps.step State.wr_keeps (by rfl) ?_
    refine Keeps.step State.modPair_keeps (by rfl) ?_
    assumption
  · assumption

theorem State.step7_keeps {l : List Act} {s : State} :
    Keeps (mask [.rep, .slices, .page .hst, .page .slc]) s (State.step7 l s) := by
  unfold State.step7
  refine State.acts_keeps ?_ ?_ ?_
  · exact rfl
  · intro b1 u1
    split
    · refine Keeps.step State.sliceAct_keeps (by rfl) ?_
      exact Keeps.refl _
    · exact Keeps.refl _
  · exact Keeps.refl _

theorem State.step6_keeps {s : State} :
    Keeps (mask [.rep, .chims, .hearth, .page .chm]) s (State.step6 s) := by
  unfold State.step6
  refine Keeps.step State.refillNodes_keeps (by rfl) ?_
  refine Keeps.forN ?_ ?_
  · intro b1 u1
    refine Keeps.step State.refillSlots_keeps (by rfl) ?_
    exact Keeps.refl _
  · exact Keeps.refl _

theorem State.step5_keeps {pre : AsnTable} {s : State} :
    Keeps (mask [.rep, .fwd]) s (State.step5 pre s) := by
  unfold State.step5
  refine Keeps.step State.ageOutDead_keeps (by rfl) ?_
  refine Keeps.step State.ageAll_keeps (by rfl) ?_
  exact Keeps.refl _

theorem State.step4_keeps {s : State} :
    Keeps (mask [.sched, .rep, .ports, .assocs, .kindle, .out]) s (State.step4 s) := by
  unfold State.step4
  extract_lets x1 x2 x3
  have h1 : Keeps (mask [.sched, .rep, .ports, .assocs, .kindle, .out]) s x2 := by
    unfold x2
    refine Keeps.forL ?_ ?_
    · intro b1 u1
      refine Keeps.step State.rollOverlap_keeps (by rfl) ?_
      refine Keeps.step State.rollSwitch_keeps (by rfl) ?_
      exact Keeps.refl _
    · exact Keeps.refl _
  have h2 : Keeps (mask [.sched, .rep, .ports, .assocs, .kindle, .out]) s x3 := by
    unfold x3
    refine Keeps.forL ?_ ?_
    · intro b1 u1
      refine Keeps.step State.overlapAsn_keeps (by rfl) ?_
      exact Keeps.refl _
    · assumption
  clear_value x3
  clear_value x2
  refine Keeps.step State.liveStep_keeps (by rfl) ?_
  refine Keeps.forL ?_ ?_
  · intro b1 u1
    refine Keeps.step State.sessionLive_keeps (by rfl) ?_
    exact Keeps.refl _
  · assumption

set_option maxRecDepth 4096 in
theorem State.edgeSteps_keeps {s : State} {e : EdgeIn} {pre : State} :
    Keeps (mask ([.sched, .rep, .pwr, .lanes, .ports, .otn, .assocs, .fwd, .vault, .chims, .hearth, .kindle, .seals,
        .time, .slices, .msix, .pair, .regions, .fresh, .out] ++ allPages)) s (State.edgeSteps s e pre) := by
  unfold State.edgeSteps
  split
  rename_i x1 y0 e1
  have h1 : Keeps (mask
  ([.sched, .rep, .pwr, .lanes, .ports, .otn, .assocs, .fwd, .vault, .chims,
      Part.hearth, .kindle, .seals, .time, .slices, .msix, .pair, .regions, .fresh,
      Part.out] ++
    allPages)) s x1 := KeepsP.of_eq e1 (by
      refine KeepsP.step State.carriesArrive_keeps (by rfl) ?_
      refine Keeps.step State.keepTables_keeps (by rfl) ?_
      exact Keeps.refl _
    )
  clear e1
  extract_lets x2
  have h2 : Keeps (mask
  ([.sched, .rep, .pwr, .lanes, .ports, .otn, .assocs, .fwd, .vault, .chims,
      Part.hearth, .kindle, .seals, .time, .slices, .msix, .pair, .regions, .fresh,
      Part.out] ++
    allPages)) s x2 := by
    unfold x2
    refine Keeps.step State.yieldEdge_keeps (by rfl) ?_
    refine Keeps.step State.lockEdge_keeps (by rfl) ?_
    refine Keeps.step State.flueLanes_keeps (by rfl) ?_
    assumption
  clear_value x2
  split
  rename_i x3 y0 e1
  have h3 : Keeps (mask
  ([.sched, .rep, .pwr, .lanes, .ports, .otn, .assocs, .fwd, .vault, .chims,
      Part.hearth, .kindle, .seals, .time, .slices, .msix, .pair, .regions, .fresh,
      Part.out] ++
    allPages)) s x3 := KeepsP.of_eq e1 (by
      refine KeepsP.step State.takeFrame_keeps (by rfl) ?_
      assumption
    )
  clear e1
  extract_lets x4 x5
  have h4 : Keeps (mask
  ([.sched, .rep, .pwr, .lanes, .ports, .otn, .assocs, .fwd, .vault, .chims,
      Part.hearth, .kindle, .seals, .time, .slices, .msix, .pair, .regions, .fresh,
      Part.out] ++
    allPages)) s x5 := by
    unfold x5
    refine Keeps.onlyIf ?_ ?_
    · intro u1
      refine Keeps.step Keeps.set_sched (by rfl) ?_
      exact Keeps.refl _
    · assumption
  clear_value x5
  split
  rename_i x6 y0 e1
  have h5 : Keeps (mask
  ([.sched, .rep, .pwr, .lanes, .ports, .otn, .assocs, .fwd, .vault, .chims,
      Part.hearth, .kindle, .seals, .time, .slices, .msix, .pair, .regions, .fresh,
      Part.out] ++
    allPages)) s x6 := KeepsP.of_eq e1 (by
      refine KeepsP.step State.takeDue_keeps (by rfl) ?_
      assumption
    )
  clear e1
  extract_lets x7 x8
  have h6 : Keeps (mask
  ([.sched, .rep, .pwr, .lanes, .ports, .otn, .assocs, .fwd, .vault, .chims,
      Part.hearth, .kindle, .seals, .time, .slices, .msix, .pair, .regions, .fresh,
      Part.out] ++
    allPages)) s x8 := by
    unfold x8
    refine Keeps.onlyIf ?_ ?_
    · intro u1
      refine Keeps.step State.snapshot_keeps (by rfl) ?_
      exact Keeps.refl _
    · assumption
  clear_value x8
  split
  rename_i x9 y0 e1
  have h7 : Keeps (mask
  ([.sched, .rep, .pwr, .lanes, .ports, .otn, .assocs, .fwd, .vault, .chims,
      Part.hearth, .kindle, .seals, .time, .slices, .msix, .pair, .regions, .fresh,
      Part.out] ++
    allPages)) s x9 := KeepsP.of_eq e1 (by
      refine KeepsP.step State.takeDue_keeps (by rfl) ?_
      refine Keeps.step State.step2_keeps (by rfl) ?_
      assumption
    )
  clear e1
  extract_lets x10 x11
  have h8 : Keeps (mask
  ([.sched, .rep, .pwr, .lanes, .ports, .otn, .assocs, .fwd, .vault, .chims,
      Part.hearth, .kindle, .seals, .time, .slices, .msix, .pair, .regions, .fresh,
      Part.out] ++
    allPages)) s x11 := by
    unfold x11
    refine Keeps.step State.portsEdge_keeps (by rfl) ?_
    refine Keeps.step State.step3_keeps (by rfl) ?_
    assumption
  clear_value x11
  refine Keeps.step State.afterSteps_keeps (by rfl) ?_
  refine Keeps.step State.step8_keeps (by rfl) ?_
  refine Keeps.step State.step7_keeps (by rfl) ?_
  refine Keeps.step State.step6_keeps (by rfl) ?_
  refine Keeps.step State.step5_keeps (by rfl) ?_
  refine Keeps.step State.step4_keeps (by rfl) ?_
  assumption

theorem State.flushTally_keeps {s : State} :
    Keeps (mask [.rep]) s (State.flushTally s) := by
  unfold State.flushTally
  refine Keeps.forL ?_ ?_
  · intro b1 u1
    refine Keeps.step State.applyTally_keeps (by rfl) ?_
    exact Keeps.refl _
  · refine Keeps.step Keeps.set_rep (by rfl) ?_
    exact Keeps.refl _

theorem State.endTick_keeps {e : EdgeIn} {s : State} :
    Keeps (mask [.cycle, .rep, .lanes, .ports, .otn, .chims, .slices, .regions, .fresh, .out, .page .lan, .page .prt,
        .page .otf]) s (State.endTick e s) := by
  unfold State.endTick
  extract_lets x1 x2 x3 x4 x5 x6 x7
  have h1 : Keeps (mask
  [.cycle, .rep, .lanes, .ports, .otn, .chims, .slices, .regions, .fresh, .out,
    .page .lan, .page .prt, .page .otf]) s x1 := by
    unfold x1
    refine Keeps.forL ?_ ?_
    · intro b1 u1
      refine Keeps.step State.injectedGone_keeps (by rfl) ?_
      exact Keeps.refl _
    · refine Keeps.forL ?_ ?_
      · intro b1 u1
        refine Keeps.step State.guardWritten_keeps (by rfl) ?_
        exact Keeps.refl _
      · refine Keeps.step Keeps.set_cycle (by rfl) ?_
        exact Keeps.refl _
  have h2 : Keeps (mask
  [.cycle, .rep, .lanes, .ports, .otn, .chims, .slices, .regions, .fresh, .out,
    .page .lan, .page .prt, .page .otf]) s x2 := by
    unfold x2
    refine Keeps.step State.laneEdge_keeps (by rfl) ?_
    refine Keeps.forN ?_ ?_
    · intro b1 u1
      refine Keeps.step State.chimEndTick_keeps (by rfl) ?_
      exact Keeps.refl _
    · assumption
  have h3 : Keeps (mask
  [.cycle, .rep, .lanes, .ports, .otn, .chims, .slices, .regions, .fresh, .out,
    .page .lan, .page .prt, .page .otf]) s x3 := by
    unfold x3
    refine Keeps.forL ?_ ?_
    · intro b1 u1
      refine Keeps.step State.otnMeasure_keeps (by rfl) ?_
      exact Keeps.refl _
    · refine Keeps.forL ?_ ?_
      · intro b1 u1
        refine Keeps.step State.pcsMeasure_keeps (by rfl) ?_
        exact Keeps.refl _
      · assumption
  have h4 : Keeps (mask
  [.cycle, .rep, .lanes, .ports, .otn, .chims, .slices, .regions, .fresh, .out,
    .page .lan, .page .prt, .page .otf]) s x4 := by
    unfold x4
    refine Keeps.onlyIf ?_ ?_
    · intro u1
      refine Keeps.step State.count_keeps (by rfl) ?_
      exact Keeps.refl _
    · assumption
  have h5 : Keeps (mask
  [.cycle, .rep, .lanes, .ports, .otn, .chims, .slices, .regions, .fresh, .out,
    .page .lan, .page .prt, .page .otf]) s x5 := by
    unfold x5
    refine Keeps.forN ?_ ?_
    · intro b1 u1
      refine Keeps.step State.sweepTick_keeps (by rfl) ?_
      exact Keeps.refl _
    · refine Keeps.forL ?_ ?_
      · intro b1 u1
        refine Keeps.step State.ringFails_keeps (by rfl) ?_
        exact Keeps.refl _
      · assumption
  have h6 : Keeps (mask
  [.cycle, .rep, .lanes, .ports, .otn, .chims, .slices, .regions, .fresh, .out,
    .page .lan, .page .prt, .page .otf]) s x6 := by
    unfold x6
    refine Keeps.step State.count_keeps (by rfl) ?_
    refine Keeps.step State.count_keeps (by rfl) ?_
    refine Keeps.step State.count_keeps (by rfl) ?_
    assumption
  have h7 : Keeps (mask
  [.cycle, .rep, .lanes, .ports, .otn, .chims, .slices, .regions, .fresh, .out,
    .page .lan, .page .prt, .page .otf]) s x7 := by
    unfold x7
    refine Keeps.onlyIf ?_ ?_
    · intro u1
      refine Keeps.step State.count_keeps (by rfl) ?_
      exact Keeps.refl _
    · assumption
  clear_value x7
  clear_value x6
  clear_value x5
  clear_value x4
  clear_value x3
  clear_value x2
  clear_value x1
  refine Keeps.step State.flushTally_keeps (by rfl) ?_
  refine Keeps.step State.flushTally_keeps (by rfl) ?_
  assumption

theorem State.nextTick_keeps {s : State} :
    Keeps (mask [.tick, .cycle, .time]) s (State.nextTick s) := by
  unfold State.nextTick
  extract_lets x1 x2
  have h1 : Keeps (mask [.tick, .cycle, .time]) s x2 := by
    unfold x2
    refine Keeps.step State.timeTick_keeps (by rfl) ?_
    exact Keeps.refl _
  clear_value x2
  refine Keeps.step Keeps.set_tick_cycle (by rfl) ?_
  assumption

set_option maxRecDepth 4096 in
theorem State.pinsEdge_keeps {e : EdgeIn} {s : State} :
    Keeps (mask ([.tick, .cycle, .sched, .rep, .pwr, .lanes, .ports, .otn, .assocs, .fwd, .vault, .chims, .hearth,
        .kindle, .seals, .time, .slices, .msix, .pair, .tamper, .officer, .cages, .regions, .reinit,
        .asnBusy] ++ allPages)) s (State.pinsEdge e s) := by
  unfold State.pinsEdge
  extract_lets x1 x2 x3 x4 x5
  have h1 : Keeps (mask
  ([.tick, .cycle, .sched, .rep, .pwr, .lanes, .ports, .otn, .assocs, .fwd,
      Part.vault, .chims, .hearth, .kindle, .seals, .time, .slices, .msix, .pair,
      Part.tamper, .officer, .cages, .regions, .reinit, .asnBusy] ++
    allPages)) s x1 := by
    unfold x1
    refine Keeps.step State.railsEdge_keeps (by rfl) ?_
    exact Keeps.refl _
  have h2 : Keeps (mask
  ([.tick, .cycle, .sched, .rep, .pwr, .lanes, .ports, .otn, .assocs, .fwd,
      Part.vault, .chims, .hearth, .kindle, .seals, .time, .slices, .msix, .pair,
      Part.tamper, .officer, .cages, .regions, .reinit, .asnBusy] ++
    allPages)) s x2 := by
    unfold x2
    refine Keeps.step State.setRails_keeps (by rfl) ?_
    assumption
  have h3 : Keeps (mask
  ([.tick, .cycle, .sched, .rep, .pwr, .lanes, .ports, .otn, .assocs, .fwd,
      Part.vault, .chims, .hearth, .kindle, .seals, .time, .slices, .msix, .pair,
      Part.tamper, .officer, .cages, .regions, .reinit, .asnBusy] ++
    allPages)) s x3 := by
    unfold x3
    refine Keeps.step State.tempEdge_keeps (by rfl) ?_
    refine Keeps.step State.wr_keeps (by rfl) ?_
    assumption
  have h4 : Keeps (mask
  ([.tick, .cycle, .sched, .rep, .pwr, .lanes, .ports, .otn, .assocs, .fwd,
      Part.vault, .chims, .hearth, .kindle, .seals, .time, .slices, .msix, .pair,
      Part.tamper, .officer, .cages, .regions, .reinit, .asnBusy] ++
    allPages)) s x4 := by
    unfold x4
    refine Keeps.step State.wr_keeps (by rfl) ?_
    refine Keeps.step State.wr_keeps (by rfl) ?_
    assumption
  have h5 : Keeps (mask
  ([.tick, .cycle, .sched, .rep, .pwr, .lanes, .ports, .otn, .assocs, .fwd,
      Part.vault, .chims, .hearth, .kindle, .seals, .time, .slices, .msix, .pair,
      Part.tamper, .officer, .cages, .regions, .reinit, .asnBusy] ++
    allPages)) s x5 := by
    unfold x5
    refine Keeps.step State.modPwr_keeps (by rfl) ?_
    assumption
  clear_value x5
  clear_value x4
  clear_value x3
  clear_value x2
  clear_value x1
  refine Keeps.step State.haltEdge_keeps (by rfl) ?_
  assumption

set_option maxRecDepth 4096 in
theorem execTickEdge_keeps {e : EdgeIn} {s : State} :
    KeepsX (mask ([.tick, .cycle, .sched, .rep, .pwr, .lanes, .ports, .otn, .assocs, .fwd, .vault, .chims, .hearth,
        .kindle, .seals, .time, .slices, .msix, .pair, .tamper, .officer, .cages, .regions, .reinit, .asnBusy,
        .fresh, .out] ++ allPages)) s (execTickEdge e s) := by
  unfold execTickEdge
  extract_lets x1 x2 x3
  have h1 : Keeps (mask
  ([.tick, .cycle, .sched, .rep, .pwr, .lanes, .ports, .otn, .assocs, .fwd,
      Part.vault, .chims, .hearth, .kindle, .seals, .time, .slices, .msix, .pair,
      Part.tamper, .officer, .cages, .regions, .reinit, .asnBusy, .fresh, .out] ++
    allPages)) s x1 := by
    unfold x1
    refine Keeps.step State.brtcTick_keeps (by rfl) ?_
    exact Keeps.refl _
  have h2 : Keeps (mask
  ([.tick, .cycle, .sched, .rep, .pwr, .lanes, .ports, .otn, .assocs, .fwd,
      Part.vault, .chims, .hearth, .kindle, .seals, .time, .slices, .msix, .pair,
      Part.tamper, .officer, .cages, .regions, .reinit, .asnBusy, .fresh, .out] ++
    allPages)) s x2 := by
    unfold x2
    refine Keeps.step State.endTick_keeps (by rfl) ?_
    assumption
  have h3 : Keeps (mask
  ([.tick, .cycle, .sched, .rep, .pwr, .lanes, .ports, .otn, .assocs, .fwd,
      Part.vault, .chims, .hearth, .kindle, .seals, .time, .slices, .msix, .pair,
      Part.tamper, .officer, .cages, .regions, .reinit, .asnBusy, .fresh, .out] ++
    allPages)) s x3 := by
    unfold x3
    refine Keeps.step State.pinsEdge_keeps (by rfl) ?_
    refine Keeps.step State.nextTick_keeps (by rfl) ?_
    assumption
  clear_value x3
  clear_value x2
  clear_value x1
  refine KeepsX.done (by rfl) ?_
  refine Keeps.ite ?_ ?_
  · assumption
  · refine Keeps.ite ?_ ?_
    · refine Keeps.ite ?_ ?_
      · refine Keeps.step Keeps.set_tick_cycle (by rfl) ?_
        assumption
      · assumption
    · refine Keeps.ite ?_ ?_
      · assumption
      · refine Keeps.step State.edgeSteps_keeps (by rfl) ?_
        assumption

end Sys2Proof.Machine
end

