-- ==== Sys2Proof/Machine/Views.lean ====
section
/-! DEFINITION. What a read of a register returns (R5, R6, R17, R52, R485, R490): the word in effect, with the fields that
the device derives from the rest of its state. The reads that latch another register have commands of their own, but for
those of EVR, which `State.afterRead` gives. -/

namespace Sys2Proof.Machine

open Sys2Proof

/-! ### Words of bits and bytes -/

/-- The word whose bit `b` is 1 where `f b` holds. -/
def bitsWord (f : Nat → Bool) : Word := BitVec.ofNat 32 ((List.range 32).foldl (fun n b => n + (b2n (f b)) * 2 ^ b) 0)

/-- The word of the four bytes `f 0` to `f 3`, least significant first (R124). -/
def bytesWord (f : Nat → Nat) : Word := BitVec.ofNat 32 (f 0 + 256 * f 1 + 65536 * f 2 + 2 ^ 24 * f 3)

/-- Word `i` of a byte string, byte 0 at bits 7 to 0, zero past its end. -/
def wordOf (bs : List Byte) (i : Nat) : Word := bytesWord (fun j => byteAt bs (4 * i + j))

/-- The low and the high word of a number. -/
def loWord (n : Nat) : Word := BitVec.ofNat 32 n
def hiWord (n : Nat) : Word := BitVec.ofNat 32 (n / 2 ^ 32)

/-- `w` with the field at `lo`, `n` bits wide, showing `v`. -/
def showing (w : Word) (lo n v : Nat) : Word := setF w lo n v

/-! ### The header (R477, R486) -/

/-- The pages of Chimney `c`. -/
def pagesOfChimney (c : Nat) : List (Page × Nat) :=
  [(.chm, c), (.stv, c), (.lrc, c)] ++
    (List.range 18).flatMap (fun j => [(Page.lan, 18 * c + j), (.prt, 18 * c + j), (.otf, 18 * c + j), (.sea, 18 * c + j)])

/-- The device page of a type code. -/
def devicePageOf (code : Nat) : Option Page :=
  [Page.dev, .pwr, .flt, .evr, .pmc, .tsu, .kvt, .kdl, .tmp, .ofc, .flu, .cxm, .hst, .hrt, .sch, .fwd, .asn, .mod].find?
    (fun p => decide (p.code = code))

/-- A read of the common header. -/
def State.readHeader (s : State) (p : Page) (i off : Nat) : Word :=
  if off = 0x008 then
    if s.ready p i then s.word ⟨p, off, i, 0⟩ else showing (s.word ⟨p, off, i, 0⟩) 8 8 (s.waitCause p i)
  else if off = 0x00C then s.evtWord ⟨p, off, i, 0⟩
  else if off = 0x010 then loWord (2 ^ 12 * b2n (s.rep.armed.any (fun e => decide (e.1 = p ∧ e.2.1 = i))))
  else if off = 0x014 then
    let n := s.pagePend p i
    loWord (n + 2 ^ 31 * b2n (s.on F.devCommitCtlHold && decide (0 < n)))
  else if 0x040 ≤ off ∧ off < 0x0C0 then
    let k := s.ctr p i ((off - 0x040) / 16)
    match off % 16 with
    | 0 => s.word ⟨p, off, i, 0⟩ ||| loWord (2 ^ 16 * b2n k.sat + 2 ^ 17 * b2n k.carryLost)
    | 8 => loWord k.shadow
    | 12 => k.hi
    | _ => s.word ⟨p, off, i, 0⟩
  else s.word ⟨p, off, i, 0⟩

/-! ### Device pages -/

/-- The pages DEV, PWR and FLT (R32, R57, R58, R478). -/
def State.readControl (s : State) (p : Page) (off : Nat) (w : Word) : Word :=
  match p, off with
  | .dev, 0x110 => loWord s.tick
  | .dev, 0x118 => loWord s.cycle
  | .dev, 0x14C => w ||| bitsWord (fun b => match devicePageOf (b + 1) with
      | some q => s.ready q
      | none => false)
  | .dev, 0x150 => bitsWord (fun c => decide (c < 8) && (pagesOfChimney c).all (fun q => s.ready q.1 q.2))
  | .pwr, 0x100 => showing w 8 1 (b2n s.rep.flushing.isSome)
  | .flt, 0x108 => bitsWord (fun b => match devicePageOf (b + 1) with
      | some q => decide (s.evt (F.pageFirstValid q) = 1)
      | none => false)
  | .flt, 0x10C => bitsWord (fun c => decide (c < 8) &&
      (pagesOfChimney c).any (fun q => decide (s.evt (F.pageFirstValid q.1) q.2 = 1)))
  | _, _ => w

/-- The numbers of the oldest record in the volatile ring and of the newest in MRAM (R479). -/
def Report.oldest (r : Report) : Nat := ((r.ring.map (·.seq)).head?).getD 0
def Report.newest (r : Report) : Nat := (r.nv.map (·.seq)).foldl max 0

/-- The pages EVR and PMC (R479, R480). -/
def State.readReport (s : State) (p : Page) (off : Nat) (w : Word) : Word :=
  let r := s.rep
  match p, off with
  | .evr, 0x108 => loWord (b2n r.frozenAt.isSome + 2 * b2n r.flushing.isSome + 4 * (r.hold.length + r.early.length) + 64 * r.earlyLost)
  | .evr, 0x10C => loWord r.nextSeq
  | .evr, 0x114 => loWord r.oldest
  | .evr, 0x11C => loWord r.newest
  | .evr, 0x124 => loWord (r.lostFull + 65536 * r.lostFrozen)
  | .evr, 0x128 => showing w 16 16 r.deepLost
  | .evr, 0x12C => loWord (r.rlDrops + 65536 * r.filtered)
  | .evr, 0x14C => loWord (2 * r.fetch.result + 8 * r.fetch.place)
  | .pmc, 0x108 => loWord (r.snapCount % 65536 + 65536 * (r.snapEdge.getD 0 % 65536))
  | .pmc, 0x11C => loWord (r.arch.next % 65536 + 65536 * min 65535 r.arch.skipped)
  | .pmc, 0x124 => r.arch.lo
  | .pmc, 0x128 => r.arch.hi
  | .pmc, 0x12C => loWord (2 * r.arch.result)
  | _, _ => if p = .evr ∧ 0x400 ≤ off ∧ off < 0x440 then wordOf r.fetch.data ((off - 0x400) / 4) else w

/-- The page TSU (R424). -/
def State.readTime (s : State) (off : Nat) (w : Word) : Word :=
  match off with
  | 0x110 => loWord (nsOf s.timeNow)
  | 0x11C => loWord s.time.edgeNs
  | 0x12C => loWord s.time.inNs
  | 0x138 => loWord (b2n (s.sched.any (fun e => match e.act with
      | .timeStep _ => true
      | _ => false)))
  | _ => w

/-- The page KVT (R318). -/
def State.readVault (s : State) (off : Nat) (w : Word) : Word :=
  let x := s.slot (s.rd F.kvtSelSlot)
  let valid := fun (x : Slot) => x.present && !x.bad && x.usable
  if 0x114 ≤ off ∧ off < 0x124 then wordOf x.attrs ((off - 0x114) / 4)
  else if off = 0x124 then loWord (b2n (valid x) + 2 * b2n x.bad + 4 * b2n x.expired + 16 * x.stock)
  else if 0x200 ≤ off ∧ off < 0x280 then bitsWord (fun b => valid (s.slot (8 * (off - 0x200) + b)))
  else if 0x280 ≤ off ∧ off < 0x300 then bitsWord (fun b => (s.slot (8 * (off - 0x280) + b)).bad)
  else w

/-- The code of a session's state (R254). -/
def SesState.code : SesState → Nat
  | .offered => 1
  | .answered => 2
  | .proved => 3
  | .confirming => 4
  | .live => 5

/-- The registers of a link (R264, R289). -/
def State.readLink (s : State) (k off : Nat) (w : Word) : Word :=
  let l := s.link k
  match off with
  | 0x148 =>
    let state := match l.cur with
      | some x => if x.entered then x.st.code else 0
      | none => if l.holdUntil.isSome then 6 else 0
    let cur := (l.cur.map (fun x => (x.initiator, x.idx))).getD (false, 0)
    loWord (state + 8 * b2n cur.1 + 16 * cur.2 + 2 ^ 13 * b2n l.par.isSome +
      2 ^ 14 * (l.par.map (·.idx)).getD 0 + 2 ^ 23 * (l.lastReason % 256) + 2 ^ 31 * b2n (s.noChannel k))
  | 0x14C => loWord l.epoch
  | 0x150 => loWord ((l.cur.map (·.gen)).getD 0)
  | 0x170 => loWord ((l.roll.map (·.stage.code)).getD 0 + 8 * b2n ((l.roll.map (·.proposer)).getD false) + 16 * min 15 l.fails +
      256 * b2n (decide (3 ≤ l.fails)) + 512 * b2n l.peerSilent + 1024 * b2n l.freshPeer + 2048 * b2n l.installWait +
      4096 * min 15 l.holdK + 65536 * min 65535 l.rtt)
  | 0x174 => loWord ((l.roll.map (·.target)).getD 0)
  | 0x178 => loWord (min 65535 l.rollsDone + 65536 * min 65535 l.rollFailures)
  | 0x17C => loWord (min 65535 l.stale + 65536 * min 65535 l.collisions)
  | _ => if 0x180 ≤ off ∧ off < 0x1C0 then wordOf l.peerHash ((off - 0x180) / 4) else w

/-- The page KDL (R264). -/
def State.readKindle (s : State) (off : Nat) (w : Word) : Word :=
  if off = 0x108 then
    let live := (s.kindle.links.filter (fun e => e.2.live)).length
    loWord (live % 1024 + 1024 * (s.contexts.filter (· < 32)).length + 65536 * s.contexts.length)
  else s.readLink (s.rd F.kdlLinkSelLink) off w

/-- The pages TMP and OFC (R449, R450). -/
def State.readOfficer (s : State) (p : Page) (off : Nat) (w : Word) : Word :=
  let e := s.tamper.log.getD (s.rd F.tmpLogSelEntry) (0, 0)
  match p, off with
  | .tmp, 0x104 => showing w 0 23 s.tamper.active
  | .tmp, 0x128 => loWord s.seconds
  | .tmp, 0x138 => e.1
  | .tmp, 0x13C => e.2
  | .ofc, 0x100 => showing (showing w 2 1 (b2n s.ofcLocked)) 3 1 (b2n s.ofcValid.isEmpty)
  | _, _ => w

/-- The pages FLU and CXM (R384, R411). -/
def State.readOutside (s : State) (p : Page) (off : Nat) (w : Word) : Word :=
  let n := s.rd F.cxmRselRegion
  let x := s.region n
  match p, off with
  | .flu, 0x108 => showing w 0 16 s.ownClaim
  | .flu, 0x10C => loWord (min 127 (s.tick - s.pair.claimAt))
  | .cxm, 0x110 =>
    let c := s.newest (keyOf F.cxmRcfgEnable 0 n)
    let kind := getF c F.cxmRcfgKind.lo F.cxmRcfgKind.w
    let size := getF c F.cxmRcfgSize.lo F.cxmRcfgSize.w
    loWord (footMib kind size + 2 ^ 20 * (if kind = 1 then 0 else treeHeight (dataLines size)))
  | .cxm, 0x114 => (w &&& 0x800) ||| loWord (x.state + 4 * b2n x.sweep + 8 * b2n (!x.stalled.isEmpty) + 16 * x.early.length +
      65536 * (x.epoch % 65536))
  | .cxm, 0x118 => loWord x.pointer
  | .cxm, 0x11C => loWord x.maxc
  | _, _ => w

/-- The pages HST, HRT and SCH (R336, R337, R362). -/
def State.readTraffic (s : State) (p : Page) (off : Nat) (w : Word) : Word :=
  let q := s.rd F.hrtQselQueue
  let r := s.sliceRt (s.rd F.hstSselSlice)
  match p, off with
  | .hst, 0x100 => Config.hostLink.setWidth 32
  | .hst, 0x120 => loWord (r.state + 4 * r.result + 65536 * (r.gen % 65536))
  | .hst, 0x124 => loWord (min 65535 r.jobs.length + 65536 * min 65535 r.old.length)
  | .hrt, 0x100 => loWord s.freeCells
  | .hrt, 0x108 => loWord s.otnShares
  | .hrt, 0x110 => loWord s.spillCells
  | .hrt, 0x13C => loWord (s.occupancy q)
  | .hrt, 0x140 => loWord (s.spilledOf q)
  | .hrt, 0x144 => loWord (unsigned 25 (s.polCredit q))
  | .sch, 0x110 => loWord (unsigned 25 (s.credit (s.objOf .sch 0x110)))
  | _, _ => w

/-- The pages FWD and ASN, and the association window (R147, R148, R171). -/
def State.readTables (s : State) (p : Page) (off : Nat) (w : Word) : Word :=
  let t := s.assocs
  let count := fun (n : Nat) => (t.m.filter (fun e => decide (e.2.state.code = n))).length +
    (if t.base.state.code = n then 131072 - t.m.length else 0)
  match p, off with
  | .fwd, 0x104 => showing w 0 17 (s.fwd.tab.filter (fun e => e.2.isSome)).length
  | .asn, 0x104 => showing w 1 1 (b2n (t.m.any (fun e => e.2.claimPending)))
  | .asnw, 0x004 => showing w 0 1 (b2n (decide (s.now < s.asnBusy)))
  | .asnw, _ => match t.reading with
    | some m => if 0x100 ≤ off ∧ s.asnBusy ≤ s.now then (leWords m).getD ((off - 0x100) / 4) 0 else w
    | none => w
  | _, _ => if p = .asn ∧ 0x120 ≤ off ∧ off < 0x13C then loWord (count ((off - 0x120) / 4)) else w

/-- The Chimney pages (R124, R148, R202, R203). -/
def State.readChimney (s : State) (p : Page) (i off : Nat) (w : Word) : Word :=
  match p, off with
  | .lan, 0x10C =>
    let l := s.lane i
    (w &&& 0xFFC0C0C0) ||| loWord (unsigned 6 l.pre + 2 ^ 8 * unsigned 6 l.main + 2 ^ 16 * unsigned 6 l.post)
  | .lan, 0x128 => loWord (s.lane i).chk.errors
  | .sea, 0x108 => loWord (s.sealRt i).pred
  | .lrc, 0x108 => showing w 0 13 (s.lrcEntries i).length
  | .chm, 0x118 => showing w 17 1 (s.rd F.kvtDrbgEsOk)
  | .stv, 0x100 => bitsWord (fun b => s.stvIn i b)
  | .stv, 0x104 => bitsWord (fun b => s.stvIn i (32 + b))
  | _, _ => if p = .stv ∧ 0x200 ≤ off ∧ off < 0x240 then bytesWord (fun j => s.stvCause i (off - 0x200 + j)) else w

/-! ### A read anywhere -/

/-- The LAST registers, the first-fault registers of FLT and TMP_TEST_SEEN, which the reporting channels hold too. -/
def isLastReg (p : Page) (off : Nat) : Bool :=
  match p with
  | .asn => decide (off = 0x110)
  | .cxm => decide (off = 0x138)
  | .flt => decide (off = 0x100 ∨ off = 0x104)
  | .hrt | .hst => decide (off = 0x158)
  | .kdl => decide (off = 0x114 ∨ off = 0x348)
  | .kvt => decide (off = 0x13C)
  | .mod => decide (off = 0x128)
  | .pmc => decide (off = 0x114)
  | _ => false

/-- A block register of a page that is ready. -/
def State.readBlock (s : State) (p : Page) (i off : Nat) : Word :=
  let k := s.keyAt p i off
  let w := if isEvtReg p off || isLastReg p off then s.evtWord k else s.word k
  match p with
  | .dev | .pwr | .flt => s.readControl p off w
  | .evr | .pmc => s.readReport p off w
  | .tsu => s.readTime off w
  | .kvt => s.readVault off w
  | .kdl => s.readKindle off w
  | .tmp | .ofc => s.readOfficer p off w
  | .flu =>
    if 0x400 ≤ off ∧ off < 0x600 then
      s.readChimney .lan (144 + (off - 0x400) / 0x100) (0x100 + off % 0x100)
        (s.word ⟨.lan, 0x100 + off % 0x100, 144 + (off - 0x400) / 0x100, 0⟩)
    else s.readOutside .flu off w
  | .cxm => s.readOutside .cxm off w
  | .hst | .hrt | .sch => s.readTraffic p off w
  | .fwd | .asn | .asnw => s.readTables p off w
  | .chm | .stv | .lan | .prt | .otf | .sea | .lrc => s.readChimney p i off w
  | .mod | .fwdw | .slc => w

/-- A slice page (R340, R363, R484): its state and generation, and a counter through SLC_CTR. It reads alike while the slice
is unbound. -/
def State.readSlice (s : State) (n off : Nat) : Word :=
  let r := s.sliceRt n
  let w := s.word ⟨.slc, off, n, 0⟩
  if 0x1000 ≤ off then 0
  else if off = 0 then (w &&& 4) ||| loWord (r.state + 65536 * (r.gen % 65536))
  else w

/-- What a read returns: 0 from a block register of a page that is not ready (R52) and from an offset that no register
occupies (R485). The header reads at all times. -/
def State.readAt (s : State) (t : Target) : Word :=
  match t with
  | .page .asnw _ off => if s.ready .asn then s.readBlock .asnw 0 off.val else 0
  | .page .fwdw _ off => if s.ready .fwd then s.readBlock .fwdw 0 off.val else 0
  | .page p i off =>
    if pageCount p ≤ i.val ∨ p = .slc then 0
    else if off.val < 0x100 then s.readHeader p i off.val
    else if s.ready p i then s.readBlock p i off.val else 0
  | .slice n off => if s.ready .hst then s.readSlice n off.val else 0
  | .msix off =>
    if off.val < 0x8000 then s.msixWord (off.val / 4)
    else if off.val < 0x8100 then bitsWord (fun b => s.msix.pend.contains (8 * (off.val / 4 * 4 - 0x8000) + b))
    else 0

/-- The state that a read leaves, where the read has no command of its own: of a LO register of EVR, which latches the
high half beside it (R479). -/
def State.afterRead (s : State) (t : Target) : State :=
  let latch := fun (off n : Nat) => s.setWord ⟨.evr, off, 0, 0⟩ (hiWord n)
  match t with
  | .page .evr _ off =>
    if !s.ready .evr then s
    else match off.val with
      | 0x10C => latch 0x110 s.rep.nextSeq
      | 0x114 => latch 0x118 s.rep.oldest
      | 0x11C => latch 0x120 s.rep.newest
      | _ => s
  | _ => s

/-! ### Output pins (R494 to R496) -/

/-- What an output pin shows. -/
inductive Pin where
  | hiZ
  | low
  | high
  deriving DecidableEq, Repr

/-- An IO output that the device drives, but in RESET and with main power off (R495). -/
def State.ioPin (s : State) (level : Bool) : Pin := if s.mode ≤ 1 then .hiZ else if level then .high else .low

/-- An output that only the holder of PAIR_LOCK drives (R399). -/
def State.holderPin (s : State) (level : Bool) : Pin := if s.on F.fluStatLockHeld then s.ioPin level else .hiZ

/-- SEL[i] and ALARM_N[i] (R399, R497), PAIR_LOCK (R399), PPS_OUT (R417), MOD_RST_N[b] and MOD_LPM[b] (R446, R451). -/
def State.selPin (s : State) (i : Nat) : Pin := s.holderPin (bit s.pair.sel i)
def State.alarmPin (s : State) (i : Nat) : Pin := s.holderPin (!bit s.pair.alarm i)
def State.lockPin (s : State) : Pin := if s.on F.fluStatLockHeld then s.ioPin false else .hiZ
def State.ppsPin (s : State) : Pin := s.ioPin s.time.ppsHigh.isSome
def State.modRstPin (s : State) (b : Nat) : Pin := s.ioPin (!(s.on F.modCtlRst 0 b || (s.cage b).resetUntil.isSome))
def State.modLpmPin (s : State) (b : Nat) : Pin := s.ioPin (s.on F.modCtlLpm 0 b)

/-- CX_PERST_N (R494, R495): low in RESET and until firmware starts CXL training, which is when it runs (DEDUCED, log
entry 63). -/
def State.cxPerstPin (s : State) : Pin :=
  if s.mode = 0 then .hiZ else if s.mode = 1 then .low else s.ioPin s.bootOk

/-- Whether the SPI flash pins are in high impedance (R56, R495). -/
def State.spiFree (s : State) : Bool := decide (s.mode ≤ 1) || s.pwr.spiReleased

/-- What the test access port answers to IDCODE (R496). -/
def idCode : Word := 0x09144A1F

end Sys2Proof.Machine
end

