-- ==== Sys2Proof/Tests/Slice0.lean ====
section
/-! SUPPORT. Tests: ill-formed commands that the well-formedness check refuses, single commands against the words of the
specification, and for every statement with hypotheses a state and operands that meet them all together. -/

namespace Sys2Proof.Tests

open Sys2Proof Sys2Proof.Machine

set_option Elab.async false

/-! ### Well-formedness: each check refuses an ill-formed command -/

/-- R483: the page has 144 instances. -/
theorem test_no_lane_page_144 : Instr.wellFormed (.pageReady .prt 144) = false := by decide
theorem test_lane_page_143 : Instr.wellFormed (.pageReady .prt 143) = true := by decide
theorem test_write_to_no_page : Instr.wellFormed (.registerWrite (.page .dev 1 0) 0 0) = false := by decide
theorem test_write_past_msix : Instr.wellFormed (.registerWrite (.msix 0x8000) 0 0) = false := by decide
/-- R105, R116: seven BIP-8 bytes. -/
theorem test_six_bips : Instr.wellFormed (.otnFrameReceived 0 { bip := [1, 2, 3, 4, 5, 6] } [] 0) = false := by decide
/-- R344: descriptors of 64 bytes, at most 8 in a fetch. -/
theorem test_short_descriptor : Instr.wellFormed (.descriptorFetch 0 [[1]]) = false := by decide
theorem test_nine_descriptors :
    Instr.wellFormed (.descriptorFetch 0 (List.replicate 9 (List.replicate 64 0))) = false := by decide
/-- R440: 32 or 64 bytes of key material. -/
theorem test_short_material : Instr.wellFormed (.importSlot 1 0 0 (List.replicate 31 0) 0) = false := by decide
/-- R374: a line has 64 bytes. -/
theorem test_short_line : Instr.wellFormed (.sealedLineWrite 0 0 0 [1] {}) = false := by decide
/-- R237: at most 240 bytes of payload. -/
theorem test_long_fragment :
    Instr.wellFormed (.fragmentReceived 0 0 0 0 0 (List.replicate 241 0) 0) = false := by decide +kernel
theorem test_scrub_of_no_page :
    Instr.wellFormed (.standbyScrub [{ page := .stv, inst := 8 }]) = false := by decide
theorem test_ecc_of_no_page : Instr.wellFormed (.faultClear .chm 8) = false := by decide

/-- No row of the opcode table gives bits, so no word spells a command. -/
theorem test_no_word_spells : decodeTableWord 32 0x12345678 = none := by decide

/-! ### Single commands -/

/-- A state after reset with some fields written: field, value, instance, object. -/
def W (l : List (Fld × Nat × Nat × Nat)) : State :=
  l.foldl (fun s e => s.wr e.1 e.2.1 e.2.2.1 e.2.2.2) State.reset

/-- The next state of a command, or the state itself. -/
def after (c : Instr) (s : State) : State :=
  match exec c s with
  | .next t => t
  | _ => s

/-- R32: a read of the low tick word latches the high word. -/
theorem test_tick_read_latches_high :
    (after (.tickRead 5) { W [(F.pageReady .dev, 1, 0, 0)] with tick := 0x500000007 }).rd F.devTickHiTickHi = 5 := by
  decide +kernel
/-- R44: reset is released into KINDLING. -/
theorem test_release_enters_kindling : (after (.resetRelease {} true false) (W [(F.devModeMode, 1, 0, 0)])).mode = 2 := by
  decide +kernel
/-- R37: a RUN request pends for the next edge, or for the one after it when it lands in the last 1,000 cycles. -/
theorem test_request_lands_late :
    ((after (.modeReqOfficer 9000) (W [(F.devModeMode, 2, 0, 0), (F.pageReady .dev, 1, 0, 0)])).sched.map (·.due)) = [2] := by
  decide +kernel
/-- R16: a write in cycle 8,999 still reaches the next edge. -/
theorem test_request_lands_in_time :
    ((after (.modeReqOfficer 8999) (W [(F.devModeMode, 2, 0, 0), (F.pageReady .dev, 1, 0, 0)])).sched.map (·.due)) = [1] := by
  decide +kernel
/-- R488: an unmapped access is recorded. -/
theorem test_bad_access_recorded : (after (.badAccess 0x1234 true false) State.reset).rd F.devBadaddrWrite = 1 := by
  decide +kernel
/-- R42: rails below the inhibit threshold put the device in BROWNOUT and keep the mode it left. -/
theorem test_brownout_keeps_mode : (after (.railBelowInhibit 0) (W [(F.devModeMode, 4, 0, 0)])).rd F.devModePrevMode = 4 := by
  decide +kernel

/-! ### Bits and bytes -/

/-- R62: the four pairs of bits and their levels. -/
theorem test_gray_levels :
    (graySyms [false, false, false, true, true, true, true, false]).map Sym.level = [-3, -1, 1, 3] := by decide
/-- R63, by hand: 1 − 0, 2 − 1, 3 − 1 and 0 − 2 modulo 4. -/
theorem test_precoder : (precode 0 [1, 2, 3, 0]).1 = [1, 1, 2, 2] := by decide
theorem test_precoder_undone : (unprecode 0 [1, 1, 2, 2]).1 = [1, 2, 3, 0] := by decide
/-- R79: x^7 + x^6 + 1 is primitive, so its sequence has period 127. -/
theorem test_prbs7_period : (polyRun [7, 6] 127 1).2 = 1 := by decide +kernel
/-- The check value of CRC-32, 0xCBF43926 for the digits 1 to 9, in the byte order of an FCS. -/
theorem test_crc32 : fcsOf (ascii "123456789") = [0x26, 0x39, 0xF4, 0xCB] := by decide +kernel

/-- A sound state of more than its reset values, with a command waiting. -/
def sound : State := { W [(F.devModeMode, 4, 0, 0), (F.pageReady .dev, 1, 0, 0)] with pending := [.ledRefresh] }
theorem sound_inv : sound.Inv := ⟨⟨by decide +kernel, by decide +kernel⟩, by unfold State.regsOk; decide +kernel⟩

/-- A sound state steps, and is sound after it. -/
theorem wit_sound (A : Obligations.StepKeepsSound) : ∃ t, step sound = .next t ∧ t.Inv :=
  ⟨_, rfl, A sound _ sound_inv rfl⟩
theorem wit_keyless (A : Obligations.KeylessEntriesHoldNothing) :
    ∃ t, step sound = .next t ∧ (t.asn 3).ph0.key = 0 :=
  ⟨_, rfl, (A sound _ sound_inv rfl 3 (.inl (by decide +kernel))).1⟩
theorem wit_front (A : Obligations.StepTakesTheFront) : step State.reset = .next State.reset := A.2 _ rfl
theorem wit_runs (A : Obligations.EveryCommandRuns) : ∃ t, step sound = .next t ∧ t.pending = [] :=
  ⟨_, rfl, (A.2 sound _ rfl).1⟩
theorem wit_frames (A : Obligations.FramesHold) : ∃ t, exec .ledRefresh sound = .next t ∧ t.tick = sound.tick :=
  ⟨_, rfl, A .ledRefresh sound _ rfl .tick (by decide) (by decide)⟩

/-- A command completes in a state. -/
def Completes (c : Instr) (s : State) : Prop := ∃ t, exec c s = .next t
theorem Runs.completes {c : Instr} {s : State} {P : State → Prop} (h : Runs c s P) : Completes c s :=
  ⟨h.choose, h.choose_spec.1⟩

/-! ### What holds whatever the uninterpreted cryptography is -/

theorem fcs_good (bs : List Byte) : fcsGood (withFcs bs) = true := by
  have h : (withFcs bs).length - 4 = bs.length := by simp [withFcs, fcsOf, leBytes]
  rw [fcsGood, h, withFcs, List.drop_left, List.take_left, decide_eq_true_eq]
/-- A frame with a right FCS is taken where the other conditions of R93 hold. -/
theorem takes {s : State} {p : PortNo} {bs : List Byte} {a : Fin 65536}
    (h : s.portOn p = true ∧ s.portOtn p = false ∧ s.pwr.shed = false ∧ s.rd F.prtStatReported p = 0 ∧
      64 ≤ (withFcs bs).length ∧ (withFcs bs).length ≤ s.maxFrame p ∧ beAt (withFcs bs) 12 2 ≠ 0x8808) :
    s.macTakes { port := p, bytes := withFcs bs, age := a } :=
  ⟨h.1, h.2.1, h.2.2.1, h.2.2.2.1, rfl, fcs_good bs, h.2.2.2.2.1, h.2.2.2.2.2.1, h.2.2.2.2.2.2⟩

theorem byte_moves : ∀ b : Byte, b ≠ b + 1 := by decide +kernel
theorem list_moves : ∀ l : List Byte, l ≠ [] → l ≠ l.map (· + 1)
  | [], h, _ => h rfl
  | b :: _, _, e => byte_moves b (List.cons.inj e).1
theorem slice_all (l : List Byte) (n : Nat) (h : l.length = n) : slice l 0 n = l := by
  subst h; simp [slice]
theorem slice_length (l : List Byte) (i n : Nat) : (slice l i n).length = n := by
  simp only [slice, List.length_append, List.length_replicate]
  have : (List.take n (List.drop i l)).length ≤ n := List.length_take_le _ _
  omega

/-- A slot whose tag is genuine gives a use (R298, R300). -/
theorem granted {s : State} {v : Nat} (h : (s.slot v).present = true ∧ (s.slot v).bad = false ∧
    (s.slot v).usable = true ∧ (s.slot v).uses = usesUnlimited)
    (ht : (s.slot v).tag = (s.slot v).tagFor s.vault.kint v) : (s.takeUse v).2 = .granted := by
  simp [State.takeUse, State.tagOk, h.1, h.2.1, h.2.2.1, h.2.2.2, ht]

/-- The first of the Flue frames that wait is the oldest of its kind. -/
theorem joined_first {s : State} {b : Bool} {f : List Byte} {l : List (List Byte)} (h : s.pair.joined = f :: l)
    (hf : isHello b f = true) : s.joinedOf b = some f := by simp [State.joinedOf, h, hf]

theorem size_ok (pre t : List Byte) (n : Nat) (ht : t.length = 64)
    (h : pre.length + 64 = n ∧ 8 ≤ pre.length ∧ beAt pre 4 4 = n) : sizeOk (pre ++ t) n = true := by
  have e : slice (pre ++ t) 4 4 = slice pre 4 4 := by
    have : List.take 4 (List.drop 4 (pre ++ t)) = List.take 4 (List.drop 4 pre) := by
      rw [List.drop_append_of_le_length (by omega), List.take_append_of_le_length (by simp; omega)]
    simp [slice, this]
  simp [sizeOk, beAt, e, ht, h.1]
  simpa [beAt] using h.2.2

/-- A control message of the current session, with the tag that its key gives, passes the checks of R280. -/
theorem genuine_of {s : State} {k : Nat} {pre : List Byte} {rest : List (List Byte)} {n : Nat} {x : Session} {u : Bool}
    (h4 : pre.length + 64 = n ∧ 8 ≤ pre.length ∧ beAt pre 4 4 = n)
    (h1 : let l := (s.modLink k (fun l => { l with inbox := rest })).link k
      let m := pre ++ slice (controlTag x.kctl pre) 0 64
      l.names m = some false ∧ l.cur = some x ∧ x.pending = none ∧ x.st = .live ∧ beAt m 20 4 = x.gen ∧
      bit (byteAt m 3) 0 = true ∧ x.kctl.isEmpty = false ∧ ¬ beAt m 24 4 < x.seqIn) :
    s.genuine k (pre ++ slice (controlTag x.kctl pre) 0 64) rest n x u := by
  obtain ⟨a, b, c, d, e, f, g, i⟩ := h1
  have hs := size_ok pre (slice (controlTag x.kctl pre) 0 64) n (slice_length _ _ _) h4
  have hn : n - 64 = pre.length := by omega
  cases x
  cases c
  dsimp only at d e f g i
  subst d
  simp only [State.genuine, State.controlCheck, a, Link.ses, b, hs, hn, List.take_left, List.drop_left]
  simp [e, f, g, i]

/-! ### The statements have something to say

Each theorem below takes a statement and applies it at a concrete state and concrete operands, which the theorem
names: every hypothesis is met there, all of them together, and the command then completes. -/

namespace W01

def dev : List (Fld × Nat × Nat × Nat) := [(F.pageReady .dev, 1, 0, 0)]
def wRun : Machine.State := W [(F.pageReady .dev, 1, 0, 0), (F.devModeMode, 2, 0, 0), (F.devBootResult, 1, 0, 0), (F.pageReady .kvt, 1, 0, 0), (F.pageReady .tmp, 1, 0, 0)]
def wOfc : Machine.State := W [(F.pageReady .dev, 1, 0, 0), (F.devModeMode, 3, 0, 0)]
def wM (m : Nat) : Machine.State := W [(F.devModeMode, m, 0, 0), (F.pageReady .dev, 1, 0, 0)]
theorem wit_run (A : Obligations.ModeRequestsPend) : Completes (.modeReqRun 5) wRun :=
  Runs.completes ((A wRun 5 (by decide +kernel)).1 (by decide +kernel) (by decide +kernel) (by decide +kernel) (by decide +kernel))
theorem wit_officer (A : Obligations.ModeRequestsPend) : Completes (.modeReqOfficer 9000) wRun :=
  Runs.completes ((A wRun 9000 (by decide +kernel)).2.1 (by decide +kernel))
theorem wit_selftest (A : Obligations.ModeRequestsPend) : Completes (.modeReqSelfTest 8999) wRun :=
  Runs.completes ((A wRun 8999 (by decide +kernel)).2.2.1 (by decide +kernel))
theorem wit_kindling (A : Obligations.ModeRequestsPend) : Completes (.modeReqKindling 8999) wOfc :=
  Runs.completes ((A wOfc 8999 (by decide +kernel)).2.2.2 (by decide +kernel))
theorem wit_ref_run (A : Obligations.ModeRequestsRefused) : Completes ((Instr.modeReqRun 3, decide (wOfc.mode = 2 ∧ (wOfc.rd F.devBootResult = 1 ∨ wOfc.rd F.devBootResult = 2) ∧ wOfc.ready Page.kvt = true ∧ wOfc.ready Page.tmp = true)).fst) wOfc :=
  Runs.completes (A wOfc 3 0 (by decide +kernel) _ (List.Mem.head _) (by decide +kernel))
theorem wit_ref_bad (A : Obligations.ModeRequestsRefused) : Completes ((Instr.registerWrite (Target.page Page.dev 0 308) 7 3, decide (getF 7 0 3 < 5)).fst) wRun :=
  Runs.completes (A wRun 3 7 (by decide +kernel) _ (List.Mem.tail _ (List.Mem.tail _ (List.Mem.tail _ (List.Mem.tail _ (List.Mem.head _))))) (by decide +kernel))
theorem wit_ref_kin (A : Obligations.ModeRequestsRefused) : Completes ((Instr.modeReqKindling 3, decide (wRun.mode = 8 ∨ wRun.mode = 3 ∧ wRun.pwr.held = false ∧ wRun.rd F.tmpDeferDeferred = 0)).fst) wRun :=
  Runs.completes (A wRun 3 0 (by decide +kernel) _ (List.Mem.tail _ (List.Mem.tail _ (List.Mem.tail _ (List.Mem.head _)))) (by decide +kernel))
theorem wit_st (A : Obligations.ModesAndBoot) : Completes (.selfTestComplete) (wM 8) :=
  Runs.completes ((A.1 (wM 8)).1 (by decide +kernel) (by decide +kernel))
def wBr : Machine.State := { W [(F.devModeMode, 11, 0, 0), (F.devModePrevMode, 4, 0, 0), (F.pwrStatNvInhibit, 1, 0, 0)] with pwr := { releasedTicks := 16 } }
theorem wit_br (A : Obligations.ModesAndBoot) : Completes (.brownoutExit) wBr :=
  Runs.completes ((A.1 wBr).2.1 (by decide +kernel) (by decide +kernel) (by decide +kernel))
def wQ : Machine.State := { W [(F.devModeMode, 9, 0, 0)] with pwr := { quenched := true } }
theorem wit_qc (A : Obligations.ModesAndBoot) : Completes (.quenchComplete) wQ :=
  Runs.completes ((A.1 wQ).2.2.1 (by decide +kernel) (by decide +kernel) (by decide +kernel) (by decide +kernel))
theorem wit_cge (A : Obligations.ModesAndBoot) : Completes (.coldGuardEntry) State.reset :=
  Runs.completes ((A.1 Machine.State.reset).2.2.2.1 (by decide +kernel))
theorem wit_rbi (A : Obligations.ModesAndBoot) : Completes (.railBelowInhibit 7) (wM 4) :=
  Runs.completes ((A.1 (wM 4)).2.2.2.2.1 7 (by decide +kernel) (by decide +kernel))
theorem wit_rr (A : Obligations.ModesAndBoot) : Completes (.resetRelease { } true true) State.reset := by
  refine Runs.completes ((A.1 Machine.State.reset).2.2.2.2.2 {} true true ?_ ?_ ?_ ?_ ?_ ?_ ?_) <;> decide +kernel
def wBusy (m : Nat) : Machine.State := { wM m with tick := 77, sched := [{ due := 78, act := .snapshot }], slices := [(3, { state := 1 })], hearth := { nextId := 3 }, kindle := { links := [(1, { epoch := 3 })] }, assocs := { m := [(5, { state := .live })] }, vault := { slots := [(1, { present := true, expires := true }), (2, { present := true, type := 1 })], kint := [1] }, msix := { table := [(3, 0)] }, seals := [(1, {})], regions := [(1, { state := 2 })] }
theorem wit_cold (A : Obligations.Resets) : Completes (.coldReset ColdCause.resetN) (wBusy 4) :=
  Runs.completes ((A (wBusy 4)).1 .resetN (by decide +kernel) (by decide +kernel))
theorem wit_warm (A : Obligations.Resets) : Completes (.warmReset (WarmCause.register 90) 4) (wBusy 4) :=
  Runs.completes ((A (wBusy 4)).2.1 (.register 0x5A) 4 (by decide +kernel))
def x01n1 := { (wBusy 4).wr F.tmpCfgHaltReset 1 with tamper := { haltDue := some false } }
theorem wit_warmT (A : Obligations.Resets) : Completes (.warmReset WarmCause.tamper 4) x01n1 :=
  Runs.completes ((A x01n1).2.1 .tamper 4 (by decide +kernel))
theorem wit_host (A : Obligations.Resets) : Completes (.hostReset HostCause.flr 4) (((wBusy 4).wr F.slcCtrHiValueHi 5 3).wr (F.pageReady Page.hst) 1) :=
  Runs.completes ((A (((wBusy 4).wr F.slcCtrHiValueHi 5 3).wr (F.pageReady .hst) 1)).2.2 .flr 4 (by decide +kernel) (by decide +kernel) (by decide +kernel))
theorem wit_hostR (A : Obligations.Resets) : Completes (.hostReset (HostCause.register 90) 4) (((wBusy 4).wr F.slcCtrHiValueHi 5 3).wr (F.pageReady Page.hst) 1) :=
  Runs.completes ((A (((wBusy 4).wr F.slcCtrHiValueHi 5 3).wr (F.pageReady .hst) 1)).2.2 (.register 0x5A) 4 (by decide +kernel) (by decide +kernel) (by decide +kernel))
theorem wit_ru (A : Obligations.PowerAndQuench) : Completes (.railsUp 4) (wBusy 0) :=
  Runs.completes ((A.1 (wBusy 0)).1 4 (by decide +kernel))
theorem wit_el (A : Obligations.PowerAndQuench) : Completes (.emberLoss) (wBusy 0) :=
  Runs.completes ((A.1 (wBusy 0)).2.1 (by decide +kernel))
theorem wit_qcut (A : Obligations.PowerAndQuench) : Completes (.coldReset (ColdCause.rail 3)) (wBusy 9) :=
  Runs.completes ((A.1 (wBusy 9)).2.2 3 (by decide +kernel) (by decide +kernel))
theorem wit_q1 (A : Obligations.PowerAndQuench) : Completes (.quench QuenchCause.button 5) ((wBusy 4).wr F.cxmRcfgEnable 1 0 3) :=
  Runs.completes (((A.2 ((wBusy 4).wr F.cxmRcfgEnable 1 0 3)).1 .button 5 (by decide +kernel)).1 (by decide +kernel) (by decide +kernel))
theorem wit_q2 (A : Obligations.PowerAndQuench) : Completes (.quench (QuenchCause.register 195) 5) (wBusy 11) :=
  Runs.completes (((A.2 (wBusy 11)).1 (.register 0xC3) 5 (by decide +kernel)).1 (by decide +kernel) (by decide +kernel))
theorem wit_q3 (A : Obligations.PowerAndQuench) : Completes (.quench QuenchCause.tamper 5) (wBusy 0) :=
  Runs.completes (((A.2 (wBusy 0)).1 .tamper 5 (by decide +kernel)).2 (by decide +kernel))
def x01n2 := { wBusy 9 with pwr := { sweepFrom := some 3 } }
theorem wit_sw (A : Obligations.PowerAndQuench) : Completes (.quenchSweepDone) x01n2 :=
  Runs.completes ((A.2 x01n2).2 (by decide +kernel))
theorem wit_bc (A : Obligations.ModesAndBoot) : Completes (.bootComplete { readable := false, version := 300 } { readable := false, version := 300 }) (wBusy 2) :=
  Runs.completes ((A.2 (wBusy 2)).1 { readable := false, version := 300 } { readable := false, version := 300 } (by decide +kernel) (by decide +kernel) (by decide +kernel))
theorem wit_brt (A : Obligations.ModesAndBoot) : Completes (.bootRetry 6) ((wBusy 2).wr F.devBootResult 3) :=
  Runs.completes ((A.2 ((wBusy 2).wr F.devBootResult 3)).2.1 6 (by decide +kernel) (by decide +kernel) (by decide +kernel))
def x01n3 := ({(wBusy 2).wr (F.pageReady .tmp) 1 with pwr := { sramZeroed := true }})
theorem wit_pr (A : Obligations.ModesAndBoot) : Completes (.pageReady Page.lan 143) x01n3 := by
  refine Runs.completes ((A.2 x01n3).2.2.1 .lan 143 ?_ ?_ ?_ ?_ ?_ ?_) <;> decide +kernel
def x01n4 := ({(wBusy 2).wr (F.pageReady .tmp) 1 with pwr := { sramZeroed := true }})
theorem wit_pr_2 (A : Obligations.ModesAndBoot) : Completes (.pageReady Page.hst 0) x01n4 := by
  refine Runs.completes ((A.2 x01n4).2.2.1 .hst 0 ?_ ?_ ?_ ?_ ?_ ?_) <;> decide +kernel
theorem wit_sz (A : Obligations.ModesAndBoot) : Completes (.sramZeroingDone) (wBusy 1) :=
  Runs.completes ((A.2 (wBusy 1)).2.2.2.1 (by decide +kernel))
theorem wit_pfw (A : Obligations.ModesAndBoot) : Completes (.powerFailWarning) (wBusy 5) :=
  Runs.completes ((A.2 (wBusy 5)).2.2.2.2 (by decide +kernel) (by decide +kernel))

end W01

namespace W02

def wM (m : Nat) : Machine.State := W [(F.devModeMode, m, 0, 0), (F.pageReady .dev, 1, 0, 0)]
def wT : Machine.State := { wM 2 with tick := 70, time := { started := true }, sched := [{ due := 71, act := .snapshot }] }
def wE : EdgeIn := { tamper := 0, temp := 25, rtc := 3 }
theorem wit_t1 (A : Obligations.TickAdvances) : Completes (.tickEdge wE) wT :=
  Runs.completes ((A wT wE).1 (by decide +kernel) (by decide +kernel) (by decide +kernel) (by decide +kernel))
theorem wit_t2 (A : Obligations.TickAdvances) : Completes (.tickEdge wE) (wM 4) :=
  Runs.completes ((A (wM 4) wE).2.1 (by decide +kernel) (by decide +kernel) (by decide +kernel) (by decide +kernel) (by decide +kernel))
def x02n1 := { W [] with pwr := { warm := true } }
theorem wit_t3 (A : Obligations.TickAdvances) : Completes (.tickEdge wE) x02n1 :=
  Runs.completes ((A x02n1 wE).2.2.1 (by decide +kernel) (by decide +kernel))
theorem wit_t4 (A : Obligations.TickAdvances) : Completes (.tickEdge wE) (W []) :=
  Runs.completes ((A (W []) wE).2.2.2 (by decide +kernel))
def pg (p : Page) (i : Nat) : Machine.State := W [(F.pageReady p, 1, i, 0), (F.devModeMode, 2, 0, 0)]
theorem wit_w_tsu (A : Obligations.PlainWritesActByField) : Completes (.registerWrite (Target.page Page.tsu 0 292) 3735928559 9000) (pg Page.tsu 0) := by
  refine Runs.completes ((A (pg .tsu 0) .tsu 0 0x124 0xDEADBEEF 9000 _ ?_ ?_ ?_ rfl ?_ ?_ ?_).1 ?_) <;> decide +kernel
theorem wit_w_prt (A : Obligations.PlainWritesActByField) : Completes (.registerWrite (Target.page Page.prt 143 280) 3735928559 9000) (pg Page.prt 143) := by
  refine Runs.completes ((A (pg .prt 143) .prt 143 0x118 0xDEADBEEF 9000 _ ?_ ?_ ?_ rfl ?_ ?_ ?_).1 ?_) <;> decide +kernel
theorem wit_w_kdl (A : Obligations.PlainWritesActByField) : Completes (.registerWrite (Target.page Page.kdl 0 336) 3735928559 8999) ((pg Page.kdl 0).wr F.kdlLinkSelLink 7) := by
  refine Runs.completes ((A ((pg .kdl 0).wr F.kdlLinkSelLink 7) .kdl 0 0x150 0xDEADBEEF 8999 _ ?_ ?_ ?_ rfl ?_ ?_ ?_).1 ?_) <;> decide +kernel
theorem wit_w_asnevt (A : Obligations.PlainWritesActByField) : Completes (.registerWrite (Target.page Page.asn 0 264) 5 8999) ((pg Page.asn 0).setEvtWord (keyOf F.asnEvtSoftHit) 4294967295) := by
  refine Runs.completes ((A ((pg .asn 0).setEvtWord (keyOf F.asnEvtSoftHit) 0xFFFFFFFF) .asn 0 0x108 0x5 8999 _ ?_ ?_ ?_ rfl ?_ ?_ ?_).2 ?_ ?_ ?_) <;> decide +kernel
theorem wit_nr (A : Obligations.Accesses) : Completes (.registerWrite (Target.page Page.kvt 0 256) 7 8) (wM 2) :=
  Runs.completes ((A.1 (wM 2) .kvt 0 0x100 7 8 (by decide +kernel) (by decide +kernel) (by decide +kernel) (by decide +kernel)).1)
theorem wit_nr_2 (A : Obligations.Accesses) : Completes (.tickRead 8) (W []) :=
  Runs.completes ((A.1 (W []) .lan 143 0x100 7 8 (by decide +kernel) (by decide +kernel) (by decide +kernel) (by decide +kernel)).2 (by decide +kernel))
theorem wit_ba (A : Obligations.Accesses) : Completes (.badAccess 67108863 false false) (wM 2) :=
  Runs.completes ((A.2.1 (wM 2) 0x3FFFFFF false false).1 (by decide +kernel))
theorem wit_ba_2 (A : Obligations.Accesses) : Completes (.badAccess 67108863 true true) (wM 2) :=
  Runs.completes ((A.2.1 (wM 2) 0x3FFFFFF true true).1 (by decide +kernel))
theorem wit_ba2 (A : Obligations.Accesses) : Completes (.badAccess 67108863 true true) ((wM 2).wr F.devBadaddrValid 1) :=
  Runs.completes ((A.2.1 ((wM 2).wr F.devBadaddrValid 1) 0x3FFFFFF true true).2 (by decide +kernel))
def x02n2 := { wM 2 with tick := 2^40 + 5 }
theorem wit_tr (A : Obligations.Accesses) : Completes (.tickRead 7) x02n2 :=
  Runs.completes ((A.2.2 x02n2).1 7 (by decide +kernel))
def x02n3 := ((wM 2).setCtr .dev 0 3 { live := 4, shadow := 2^47 + 9 })
theorem wit_cr (A : Obligations.Accesses) : Completes (.counterRead Page.dev 0 3) x02n3 :=
  Runs.completes ((A.2.2 x02n3).2.1 .dev 0 3)
def x02n4 := (((W [(F.pageReady .hst, 1, 0, 0), (F.hstSresCounterRead, 1, 0, 5), (F.slcCtrSelOffset, 0x78, 5, 0)]).setCtr .dev 0 3 { live := 4, shadow := 2^47 + 9 }))
theorem wit_scr (A : Obligations.Accesses) : Completes (.sliceCounterRead 5) x02n4 :=
  Runs.completes ((A.2.2 x02n4).2.2.1 5 (ctrKey .dev 0 3) (by decide +kernel) (by decide +kernel) (by decide +kernel))
def x02n5 := (((W [(F.pageReady .hst, 1, 0, 0), (F.slcCtrSelOffset, 0x78, 5, 0)]).setCtr .dev 0 3 { live := 4, shadow := 2^47 + 9 }))
theorem wit_scr0 (A : Obligations.Accesses) : Completes (.sliceCounterRead 5) x02n5 :=
  Runs.completes ((A.2.2 x02n5).2.2.2 5 (by decide +kernel) (by decide +kernel))
def hS (h : Nat) : Machine.State := { (wM 2).wr F.devCommitCtlHold h with tick := 9, sched := [{ due := 10, act := .copy (keyOf F.tsuCtlPpsOutEn) 1, held := h = 1 }, { due := 11, act := .snapshot }, { due := 10, act := .asnCmd 2 7 [], held := h = 1 }] }
theorem wit_hold (A : Obligations.HoldsAndOperations) : Completes (.hold 100) (hS 0) :=
  Runs.completes ((A.1 (hS 0) 100 (by decide +kernel)).1 (by decide +kernel))
theorem wit_holdr (A : Obligations.HoldsAndOperations) : Completes (.holdRelease 9100) (hS 1) :=
  Runs.completes ((A.1 (hS 1) 9100 (by decide +kernel)).2.1)
theorem wit_commit (A : Obligations.HoldsAndOperations) : Completes (.commit 260 9100) (hS 1) :=
  Runs.completes ((A.1 (hS 1) 9100 (by decide +kernel)).2.2 0x104 (by decide +kernel))
theorem wit_gs (A : Obligations.HoldsAndOperations) : Completes (.gopSnapshot 256 8999) (hS 0) :=
  Runs.completes ((A.2 (hS 0) 0x100 8999 (by decide +kernel)).1 (Instr.gopSnapshot 0x100 8999, 0x102) (List.Mem.head _) (by decide +kernel) (by decide +kernel))
theorem wit_gq (A : Obligations.HoldsAndOperations) : Completes (.quenchAsn 2768240896 8999) (hS 0) :=
  Runs.completes ((A.2 (hS 0) 0xA5000100 8999 (by decide +kernel)).1 (Instr.quenchAsn 0xA5000100 8999, 0xA5000108) (List.Mem.tail _ (List.Mem.tail _ (List.Mem.head _))) (by decide +kernel) (by decide +kernel))
theorem wit_gq_2 (A : Obligations.HoldsAndOperations) : Completes (.quenchAsn 2751463680 8999) (hS 0) :=
  Runs.completes ((A.2 (hS 0) 0xA4000100 8999 (by decide +kernel)).2 (by decide +kernel))
def ev : Machine.State := { pg .evr 0 with tick := 2000, rep := { ring := [{ seq := 4, code := 5, sev := 6 }, { seq := 5, code := 5, sev := 6 }], hold := [] } }
theorem wit_fr (A : Obligations.RecorderAndCounters) : Completes (.freeze) ev :=
  Runs.completes ((A.1 ev).1 (by decide +kernel) (by decide +kernel))
def x02n6 := { ev with rep := { ev.rep with frozenAt := some 7, hold := [{ seq := 9, code := 5, sev := 7 }] } }
theorem wit_uf (A : Obligations.RecorderAndCounters) : Completes (.unfreeze) x02n6 :=
  Runs.completes ((A.1 x02n6).2.1 (by decide +kernel))
def x02n7 := { ev with rep := { ev.rep with frozenAt := some 976, hold := [{ seq := 9, code := 5, sev := 7 }] } }
theorem wit_ft (A : Obligations.RecorderAndCounters) : Completes (.freezeTimeout) x02n7 :=
  Runs.completes ((A.1 x02n7).2.2.1 976 (by decide +kernel) (by decide +kernel))
def x02n8 := { ev with rep := { ev.rep with frozenAt := some 977, hold := [{ seq := 9, code := 5, sev := 7 }] } }
theorem wit_ft_2 (A : Obligations.RecorderAndCounters) : Completes (.freezeTimeout) x02n8 :=
  Runs.completes ((A.1 x02n8).2.2.2.1 977 (by decide +kernel) (by decide +kernel))
def x02n9 := { ev with rep := { ev.rep with flushing := some 4 } }
theorem wit_fd (A : Obligations.RecorderAndCounters) : Completes (.flushDone) x02n9 :=
  Runs.completes ((A.1 x02n9).2.2.2.2.2.1 4 (by decide +kernel) (by decide +kernel) (by decide +kernel) (by decide +kernel) (by decide +kernel))
theorem wit_rf (A : Obligations.RecorderAndCounters) : Completes (.recordFetch) (ev.wr F.evrRdSeqLoSeq 5) :=
  Runs.completes ((A.1 (ev.wr F.evrRdSeqLoSeq 5)).2.2.2.2.2.2 { seq := 5, code := 5, sev := 6 } (by decide +kernel) (by decide +kernel))
theorem wit_ps (A : Obligations.RecorderAndCounters) : Completes (.pmcSnapshot 9999) (pg Page.pmc 0) :=
  Runs.completes ((A.2 (pg .pmc 0)).1 9999 (by decide +kernel))
theorem wit_ca (A : Obligations.RecorderAndCounters) : Completes (.clearAll 9999) (pg Page.pmc 0) :=
  Runs.completes ((A.2 (pg .pmc 0)).2.1 9999 (by decide +kernel))
theorem wit_cc (A : Obligations.RecorderAndCounters) : Completes (.counterClear Page.prt 143 7 32773 9999) (pg Page.pmc 0) :=
  Runs.completes ((A.2 (pg .pmc 0)).2.2.1 .prt 143 7 0x8005 9999)
def x02n10 := { ((pg .pmc 0).wr F.pmcSnapPeriodLog2 3).setCtr .prt 5 2 { live := 77, shadow := 5 } with tick := 16 }
theorem wit_per (A : Obligations.RecorderAndCounters) : Completes (.periodicSnapshot) x02n10 :=
  Runs.completes ((A.2 x02n10).2.2.2.1 (by decide +kernel) (by decide +kernel) (by decide +kernel))
theorem wit_ar (A : Obligations.RecorderAndCounters) : Completes (.archiveRead 5 8191) (pg Page.pmc 0) :=
  Runs.completes ((A.2 (pg .pmc 0)).2.2.2.2.1 5 8191 (by decide +kernel) (by decide +kernel))
def x02n11 := { pg .pmc 0 with rep := { arch := { blocks := [(5, [7, 0x123456789ABCDEF0])] } } }
theorem wit_ar2 (A : Obligations.RecorderAndCounters) : Completes (.archiveRead 5 1) x02n11 :=
  Runs.completes ((A.2 x02n11).2.2.2.2.2 5 1 _ (by decide +kernel) rfl (by decide +kernel))
theorem wit_ec (A : Obligations.FaultLatches) : Completes (.eccCorrected Page.hrt 0 5) (wM 2) :=
  Runs.completes ((A (wM 2)).1 .hrt 0 5)
theorem wit_eu (A : Obligations.FaultLatches) : Completes (.eccUncorrectable Page.dev 0 5 (0, 0, 0) { } 7) (wM 2) :=
  Runs.completes ((A (wM 2)).2.1 .dev 0 5 (0,0,0) {} 7 (by decide +kernel) (by decide +kernel) (by decide +kernel))
theorem wit_eu_2 (A : Obligations.FaultLatches) : Completes (.eccUncorrectable Page.evr 0 5 (0, 0, 0) { } 7) (wM 2) :=
  Runs.completes ((A (wM 2)).2.1 .evr 0 5 (0,0,0) {} 7 (by decide +kernel) (by decide +kernel) (by decide +kernel))
theorem wit_eu2 (A : Obligations.FaultLatches) : Completes (.eccUncorrectable Page.stv 7 31 (0, 0, 0) { } 7) (wM 2) :=
  Runs.completes ((A (wM 2)).2.2.1 7 31 (0,0,0) {} 7 (by decide +kernel) (by decide +kernel))
theorem wit_fc (A : Obligations.FaultLatches) : Completes (.faultClear Page.evr 0) ((wM 2).wrEvt (F.pageFirstValid Page.evr) 1) :=
  Runs.completes ((A ((wM 2).wrEvt (F.pageFirstValid .evr) 1)).2.2.2.1 .evr 0)
theorem wit_fltc (A : Obligations.FaultLatches) : Completes (.fltClear) ((pg Page.flt 0).wrEvt F.fltFirstSrcValid 1) :=
  Runs.completes ((A ((pg .flt 0).wrEvt F.fltFirstSrcValid 1)).2.2.2.2.1 (by decide +kernel))
theorem wit_fi (A : Obligations.FaultLatches) : Completes (.faultInject Page.sea 3 2516584455) (wM 2) :=
  Runs.completes ((A (wM 2)).2.2.2.2.2 .sea 3 0x96000807 (by decide +kernel) (by decide +kernel) (by decide +kernel) (by decide +kernel) (by decide +kernel))

end W02

namespace W03

def lR : List (Fld × Nat × Nat × Nat) := [(F.pageReady .lan, 1, 143, 0), (F.pageReady .flu, 1, 0, 0)]
def cp : Machine.State := { W lR with tick := 1000, sched := [{ due := 3, act := .copy (keyOf F.lanCtrlEnable 143) 4 }, { due := 3, act := .copy (keyOf F.lanCtrlEnable 145) 4 }, { due := 5, act := .snapshot }] }
theorem wit_le (A : Obligations.LaneRequests) : Completes (.laneEnable 143 4095 8999) cp :=
  Runs.completes (A.1 cp 143 0xFFF 8999 (by decide +kernel) _ (List.Mem.head _))
theorem wit_le_2 (A : Obligations.LaneRequests) : Completes (.laneEnable 143 2039 8999) cp :=
  Runs.completes (A.1 cp 143 0x7F7 8999 (by decide +kernel) _ (List.Mem.head _))
theorem wit_le_3 (A : Obligations.LaneRequests) : Completes (.laneEnable 145 2039 8999) cp :=
  Runs.completes (A.1 cp 145 0x7F7 8999 (by decide +kernel) _ (List.Mem.head _))
theorem wit_ld (A : Obligations.LaneRequests) : Completes (.laneDisable 145 2039 8999) cp :=
  Runs.completes (A.1 cp 145 0x7F7 8999 (by decide +kernel) _ (List.Mem.tail _ (List.Mem.head _)))
def up (st ag lo en los : Nat) : Machine.State := { W (lR ++ [(F.lanStatRate, 3, 143, 0), (F.lanStatState, st, 143, 0), (F.lanStatAgreed, ag, 143, 0), (F.lanLoopMode, lo, 143, 0), (F.lanCtrlEnable, en, 143, 0), (F.lanStatLos, los, 143, 0)]) with tick := 4 }
theorem wit_up (A : Obligations.LaneRequests) : Completes (.laneStepUp 143 5 9999) (up 4 1 0 1 0) := by
  refine Runs.completes ((A.2.1 (up 4 1 0 1 0) 143 5 9999 ?_).1 ?_ ?_ ?_ ?_ ?_ ?_ ?_) <;> decide +kernel
theorem wit_down (A : Obligations.LaneRequests) : Completes (.laneStepDown 143 0 9999) (up 1 0 0 1 1) :=
  Runs.completes ((A.2.1 (up 1 0 0 1 1) 143 0 9999 (by decide +kernel)).2 (by decide +kernel) (by decide +kernel) (by decide +kernel) (by decide +kernel))
theorem wit_up1 (A : Obligations.LaneRequests) : Completes (.laneStepUp 143 6 9999) (up 4 1 0 1 0) :=
  Runs.completes ((A.2.2.1 (up 4 1 0 1 0) 143 6 9999 (by decide +kernel)).1 (by decide +kernel) 1 (by decide +kernel) (by decide +kernel))
theorem wit_up2 (A : Obligations.LaneRequests) : Completes (.laneStepUp 143 5 9999) (up 3 1 0 1 0) :=
  Runs.completes ((A.2.2.1 (up 3 1 0 1 0) 143 5 9999 (by decide +kernel)).1 (by decide +kernel) 2 (by decide +kernel) (by decide +kernel))
theorem wit_up3 (A : Obligations.LaneRequests) : Completes (.laneStepUp 143 5 9999) (up 4 0 0 1 0) :=
  Runs.completes ((A.2.2.1 (up 4 0 0 1 0) 143 5 9999 (by decide +kernel)).1 (by decide +kernel) 3 (by decide +kernel) (by decide +kernel))
theorem wit_up4 (A : Obligations.LaneRequests) : Completes (.laneStepUp 143 5 9999) (up 4 1 2 1 0) :=
  Runs.completes ((A.2.2.1 (up 4 1 2 1 0) 143 5 9999 (by decide +kernel)).1 (by decide +kernel) 4 (by decide +kernel) (by decide +kernel))
theorem wit_up5 (A : Obligations.LaneRequests) : Completes (.laneStepUp 143 5 9999) (up 4 1 0 0 0) :=
  Runs.completes ((A.2.2.1 (up 4 1 0 0 0) 143 5 9999 (by decide +kernel)).1 (by decide +kernel) 5 (by decide +kernel) (by decide +kernel))
theorem wit_up6 (A : Obligations.LaneRequests) : Completes (.laneStepUp 143 5 9999) (up 4 1 0 1 1) :=
  Runs.completes ((A.2.2.1 (up 4 1 0 1 1) 143 5 9999 (by decide +kernel)).1 (by decide +kernel) 6 (by decide +kernel) (by decide +kernel))
theorem wit_dn1 (A : Obligations.LaneRequests) : Completes (.laneStepDown 143 2 9999) (up 4 1 0 1 1) :=
  Runs.completes ((A.2.2.1 (up 4 1 0 1 1) 143 2 9999 (by decide +kernel)).2 (by decide +kernel) 1 (by decide +kernel) (by decide +kernel))
theorem wit_dn4 (A : Obligations.LaneRequests) : Completes (.laneStepDown 143 1 9999) (up 4 1 1 1 1) :=
  Runs.completes ((A.2.2.1 (up 4 1 1 1 1) 143 1 9999 (by decide +kernel)).2 (by decide +kernel) 4 (by decide +kernel) (by decide +kernel))
theorem wit_dn5 (A : Obligations.LaneRequests) : Completes (.laneStepDown 143 1 9999) (up 4 1 0 0 1) :=
  Runs.completes ((A.2.2.1 (up 4 1 0 0 1) 143 1 9999 (by decide +kernel)).2 (by decide +kernel) 5 (by decide +kernel) (by decide +kernel))
theorem wit_ffe (A : Obligations.FfeLimits) : Completes (.ffeWrite 143 467207 9999) (up 4 1 0 0 1) := by
  refine Runs.completes ((A (up 4 1 0 0 1) 143 0x00072107 9999 ?_ _ _ _ rfl rfl rfl).1 ?_ ?_ ?_ ?_ ?_ ?_ ?_) <;> decide +kernel
theorem wit_ffe28 (A : Obligations.FfeLimits) : Completes (.ffeWrite 143 268902663 9999) (up 4 1 0 0 1) := by
  refine Runs.completes ((A (up 4 1 0 0 1) 143 0x10072107 9999 ?_ _ _ _ rfl rfl rfl).1 ?_ ?_ ?_ ?_ ?_ ?_ ?_) <;> decide +kernel
theorem wit_ffe_2 (A : Obligations.FfeLimits) : Completes (.ffeWrite 143 536839 9999) (up 4 1 0 0 1) :=
  Runs.completes ((A (up 4 1 0 0 1) 143 0x00083107 9999 (by decide +kernel) _ _ _ rfl rfl rfl).2 (by decide +kernel))
theorem wit_ffe_3 (A : Obligations.FfeLimits) : Completes (.ffeWrite 143 2570800 9999) (up 4 1 0 0 1) :=
  Runs.completes ((A (up 4 1 0 0 1) 143 0x00273A30 9999 (by decide +kernel) _ _ _ rfl rfl rfl).2 (by decide +kernel))
theorem wit_cmis (A : Obligations.LaneBringUp) : Completes (.cmisAgreed 143 7) cp :=
  Runs.completes ((A cp 143).1 7 (by decide +kernel) (by decide +kernel))
def ls (st : Nat) : Machine.State := { (up st 0 0 1 0).wr F.lanPrbsStatLocked 1 143 with tick := 200, lanes := [(143, { since := 72, chkTicks := 125, chk := { locked := true, bits := 2^20, errors := 8 }, shift := 17 })] }
theorem wit_cdr (A : Obligations.LaneBringUp) : Completes (.cdrLock 143) (ls 1) :=
  Runs.completes ((A (ls 1) 143).2.1 (by decide +kernel) (by decide +kernel) (by decide +kernel))
theorem wit_lto (A : Obligations.LaneBringUp) : Completes (.lockTimeout 143) (ls 1) :=
  Runs.completes ((A (ls 1) 143).2.2.1 (by decide +kernel) (by decide +kernel))
theorem wit_tdone (A : Obligations.LaneBringUp) : Completes (.trainingDone 143) (ls 2) :=
  Runs.completes ((A (ls 2) 143).2.2.2.1 (by decide +kernel) (by decide +kernel))
theorem wit_tto (A : Obligations.LaneBringUp) : Completes (.trainingTimeout 143) (ls 2) :=
  Runs.completes ((A (ls 2) 143).2.2.2.2.1 (by decide +kernel) (by decide +kernel))
theorem wit_chk (A : Obligations.LaneBringUp) : Completes (.checkDone 143) (ls 3) := by
  refine Runs.completes ((A (ls 3) 143).2.2.2.2.2.1 ?_ ?_ ?_ ?_ ?_ ?_ ?_) <;> decide +kernel
def x03n1 := { ls 3 with lanes := [(143, { since := 72, chkTicks := 125 })] }
theorem wit_chk3 (A : Obligations.LaneBringUp) : Completes (.checkDone 143) x03n1 :=
  Runs.completes ((A x03n1 143).2.2.2.2.2.2.1 (by decide +kernel) (by decide +kernel) (by decide +kernel))
theorem wit_los (A : Obligations.LaneBringUp) : Completes (.los 143) (ls 3) :=
  Runs.completes ((A (ls 3) 143).2.2.2.2.2.2.2.1)
theorem wit_losc (A : Obligations.LaneBringUp) : Completes (.losClear 143) (up 4 1 0 0 1) :=
  Runs.completes ((A (up 4 1 0 0 1) 143).2.2.2.2.2.2.2.2.1)
theorem wit_cll (A : Obligations.LaneBringUp) : Completes (.cdrLockLoss 143) ((up 4 1 0 0 1).wr F.lanStatCdrLock 1 143) :=
  Runs.completes ((A ((up 4 1 0 0 1).wr F.lanStatCdrLock 1 143) 143).2.2.2.2.2.2.2.2.2 (by decide +kernel))
theorem wit_slip (A : Obligations.LaneRequests) : Completes (.slip 143) ((up 4 1 0 0 1).wr F.lanSlipStatPosition 31 143) :=
  Runs.completes ((A.2.2.2 ((up 4 1 0 0 1).wr F.lanSlipStatPosition 31 143) 143).1 (by decide +kernel))
theorem wit_per (A : Obligations.LaneRequests) : Completes (.slipPeriodWrite 143 15) (up 4 1 0 0 1) :=
  Runs.completes ((A.2.2.2 (up 4 1 0 0 1) 143).2.1 15 (by decide +kernel) (by decide +kernel))
theorem wit_pc (A : Obligations.LaneRequests) : Completes (.prbsClear 143 65535 9000) (ls 4) :=
  Runs.completes ((A.2.2.2 (ls 4) 143).2.2.1 0xFFFF 9000 (by decide +kernel))
def prbsBits : List Sym := ((polyRun [31, 28] 120 5).1).map (fun b => if b then 1 else 0)
def pl0 : Machine.State := { W (lR ++ [(F.lanCtrlEnable, 1, 143, 0), (F.lanPrbsRxEnable, 1, 143, 0), (F.lanPrbsRxPattern, 5, 143, 0)]) with tick := 4 }
theorem wit_pl (A : Obligations.LaneRequests) : Completes (.prbsLock { lane := 143, xs := prbsBits }) pl0 :=
  Runs.completes ((A.2.2.2 pl0 143).2.2.2.1 prbsBits _ _ (by decide +kernel) rfl rfl _ (List.Mem.head _))
def x03n2 := { pl0 with lanes := [(143, { chk := { reg := 1, have_ := 31, locked := true } })] }
theorem wit_pll (A : Obligations.LaneRequests) : Completes (.prbsLockLoss { lane := 143, xs := prbsBits ++ List.replicate 200 1 }) x03n2 :=
  Runs.completes ((A.2.2.2 x03n2 143).2.2.2.1 (prbsBits ++ List.replicate 200 1) _ _ (by decide +kernel) rfl rfl _ (List.Mem.tail _ (List.Mem.head _)))
def x03n3 := { ls 3 with lanes := [(143, { chk := { errors := 2^40 + 7, bits := 2^47 + 2^33 + 5 } })] }
theorem wit_ler (A : Obligations.LaneRequests) : Completes (.laneErrRead 143) x03n3 :=
  Runs.completes ((A.2.2.2 x03n3 143).2.2.2.2.1 (by decide +kernel))
theorem wit_lb1 (A : Obligations.LaneRequests) : Completes (.loopbackNearEnd 143 true 9000) (ls 4) :=
  Runs.completes (((A.2.2.2 (ls 4) 143).2.2.2.2.2.1 true 9000 (by decide +kernel)).1 _ (List.Mem.head _) |>.1 (by decide +kernel) (by decide +kernel))
theorem wit_lb2 (A : Obligations.LaneRequests) : Completes (.loopbackFarEnd 143 true 9000) (ls 3) :=
  Runs.completes (((A.2.2.2 (ls 3) 143).2.2.2.2.2.1 true 9000 (by decide +kernel)).1 _ (List.Mem.tail _ (List.Mem.head _)) |>.2 (by decide +kernel))
theorem wit_lb0 (A : Obligations.LaneRequests) : Completes (.loopbackOff 143 true 9000) (ls 3) :=
  Runs.completes (((A.2.2.2 (ls 3) 143).2.2.2.2.2.1 true 9000 (by decide +kernel)).2)
def sfBits : List Sym := (byteBits (slipHeader 65535 { rung := 3, checkPass := true }) ++ List.replicate 40 true).map (fun b => if b then 1 else 0)
theorem wit_sf (A : Obligations.LaneRequests) : Completes (.slipFrameReceived 143 sfBits) ((W (lR ++ [(F.lanCtrlEnable, 1, 143, 0)])).wr F.lanCtrlFraming 1 143) :=
  Runs.completes ((A.2.2.2 ((W (lR ++ [(F.lanCtrlEnable, 1, 143, 0)])).wr F.lanCtrlFraming 1 143) 143).2.2.2.2.2.2.1 sfBits _ (by decide +kernel) (by decide +kernel) (by decide +kernel) rfl (by decide +kernel) (by decide +kernel))
def ft : Machine.State := (W lR).wr F.lanStatState 2 145
theorem wit_fr (A : Obligations.LaneRequests) : Completes (.ffeCoeffRequest 145 1 true) ft :=
  Runs.completes (((A.2.2.2 ft 145).2.2.2.2.2.2.2 1 true (by decide +kernel) (by decide +kernel) (by decide +kernel) (by decide +kernel)).1 (by decide +kernel))
def x03n4 := { ft with lanes := [(145, { pre := -16 })] }
theorem wit_fr_2 (A : Obligations.LaneRequests) : Completes (.ffeCoeffRequest 145 1 false) x03n4 :=
  Runs.completes (((A.2.2.2 x03n4 145).2.2.2.2.2.2.2 1 false (by decide +kernel) (by decide +kernel) (by decide +kernel) (by decide +kernel)).2 (by decide +kernel))

end W03

namespace W04

def cg : Machine.State := { W [(F.pageReady .mod, 1, 0, 0), (F.modSelBus, 17, 0, 0), (F.modDataLoData, 0x11223344, 0, 17), (F.lanStatRate, 3, 137, 0), (F.lanStatState, 4, 137, 0)] with tick := 99 }
theorem wit_plug (A : Obligations.ModuleCages) : Completes (.modulePlug 17) cg :=
  Runs.completes ((A cg 17).1)
theorem wit_unplug (A : Obligations.ModuleCages) : Completes (.moduleUnplug 17) (cg.wr F.modPresentPresent 262143) :=
  Runs.completes ((A (cg.wr F.modPresentPresent 0x3FFFF) 17).2.1)
def x04n1 := { cg with cages := [(17, { resetUntil := some 99 })], lanes := [(137, { modSquelch := true })] }
theorem wit_rel (A : Obligations.ModuleCages) : Completes (.moduleResetRelease 17) x04n1 :=
  Runs.completes ((A x04n1 17).2.2.1 99 (by decide +kernel) (by decide +kernel))
theorem wit_int (A : Obligations.ModuleCages) : Completes (.moduleInterrupt 17 true) cg :=
  Runs.completes ((A cg 17).2.2.2.1 true (by decide +kernel))
theorem wit_rw (A : Obligations.ModuleCages) : Completes (.moduleRead 7 128 3 2) (cg.wr F.modPresentPresent 262143) := by
  refine Runs.completes (((A (cg.wr F.modPresentPresent 0x3FFFF) 17).2.2.2.2.1 7 0x80 3 2 ?_ ?_ ?_ ?_ ?_ ?_).1) <;> decide +kernel
theorem wit_rw2 (A : Obligations.ModuleCages) : Completes (.moduleWrite 2 127 3 2) (cg.wr F.modPresentPresent 262143) := by
  refine Runs.completes (((A (cg.wr F.modPresentPresent 0x3FFFF) 17).2.2.2.2.1 2 0x7F 3 2 ?_ ?_ ?_ ?_ ?_ ?_).2) <;> decide +kernel
theorem wit_rw3 (A : Obligations.ModuleCages) : Completes (.moduleRead 2 127 3 2) cg :=
  Runs.completes (((A (cg) 17).2.2.2.2.2.1 2 0x7F 3 2 (by decide +kernel) (by decide +kernel) (by decide +kernel) (by decide +kernel)))
def x04n2 := { cg with cages := [(17, { cmd := some (1, 3, 5, 6, 7), began := 49 })] }
theorem wit_done (A : Obligations.ModuleCages) : Completes (.moduleCmdDone 17 (some [1, 2, 3, 4, 5])) x04n2 :=
  Runs.completes (((A x04n2 17).2.2.2.2.2.2.1 3 5 6 7 [1, 2, 3, 4, 5] (by decide +kernel) (by decide +kernel) (by decide +kernel)))
def x04n3 := { cg with cages := [(17, { cmd := some (1, 3, 5, 6, 7), began := 48 })] }
theorem wit_done2 (A : Obligations.ModuleCages) : Completes (.moduleCmdDone 17 none) x04n3 :=
  Runs.completes (((A x04n3 17).2.2.2.2.2.2.2 (1, 3, 5, 6, 7) none (by decide +kernel) (by decide +kernel)))
def pr : Machine.State := W [(F.pageReady .prt, 1, 134, 0), (F.pageReady .prt, 1, 143, 0), (F.prtCfgEnable, 1, 130, 0), (F.prtCfgWidth, 1, 130, 0)]
theorem wit_pe (A : Obligations.Ports) : Completes (.portEnable 134 136 8999) pr := by
  refine Runs.completes ((A.1 pr 134 0x088 8999 _ rfl ?_).1 ?_ ?_ ?_ ?_ ?_ ?_) <;> decide +kernel
theorem wit_pe_otn (A : Obligations.Ports) : Completes (.portEnable 134 2 8999) ((pr.wr F.otfCfgMode 3 134).wr F.lanStatRate 5 134) := by
  refine Runs.completes ((A.1 ((pr.wr F.otfCfgMode 3 134).wr F.lanStatRate 5 134) 134 0x002 8999 _ rfl ?_).2.1 ?_ ?_ ?_ ?_ ?_ ⟨_, rfl, ?_⟩) <;> decide +kernel
theorem wit_pe1 (A : Obligations.Ports) : Completes (.portEnable 143 4 8999) pr :=
  Runs.completes ((A.1 pr 143 0x004 8999 _ rfl (by decide +kernel)).2.2.1 (by decide +kernel) (by decide +kernel))
theorem wit_pd (A : Obligations.Ports) : Completes (.portDisable 143 511 8999) pr :=
  Runs.completes ((A.1 pr 143 0x1FF 8999 _ rfl (by decide +kernel)).2.2.2 (by decide +kernel))
def x04n4 := { W [(F.prtCfgEnable, 1, 143, 0), (F.prtDownUpTicks, 9, 143, 0)] with ports := [(143, { cleanEdges := 9, flushed := true })] }
theorem wit_pup (A : Obligations.Ports) : Completes (.portUp 143) x04n4 :=
  Runs.completes ((A.2 x04n4 143).1 (by decide +kernel) (by decide +kernel) (by decide +kernel) (by decide +kernel))
def x04n5 := { W [(F.prtCfgEnable, 1, 143, 0), (F.prtCfgSide, 1, 143, 0), (F.prtAuthWindow, 9, 143, 0), (F.prtAuthThresh, 3, 143, 0)] with tick := 10, ports := [(143, { authCount := 3, authFrom := 1 }), (4, { up := true })] }
theorem wit_awe (A : Obligations.Ports) : Completes (.authWindowEnd 143) x04n5 :=
  Runs.completes ((A.2 x04n5 143).2 (by decide +kernel) (by decide +kernel) (by decide +kernel))
def x04n6 := { W [(F.prtCfgEnable, 1, 143, 0), (F.prtCfgSide, 1, 143, 0), (F.prtAuthWindow, 9, 143, 0), (F.prtAuthThresh, 3, 143, 0)] with tick := 10, ports := [(143, { sealAuth := true, authFrom := 1 }), (4, { up := true })] }
theorem wit_awe_2 (A : Obligations.Ports) : Completes (.authWindowEnd 143) x04n6 :=
  Runs.completes ((A.2 x04n6 143).2 (by decide +kernel) (by decide +kernel) (by decide +kernel))

end W04

namespace W05

def pay (n : Nat) : List Byte := withFcs (List.replicate 12 0x22 ++ [0x08, 0x00] ++ List.replicate n 0x33)
def base : Machine.State := W [(F.devModeMode, 4, 0, 0), (F.prtCfgEnable, 1, 5, 0), (F.prtFrameMaxFrame, 9000, 5, 0), (F.fwdPmapMode.at 5, 1, 0, 0), (F.fwdPmapP2pAssoc.at 5, 77, 0, 0), (F.hrtQshareShare, 100, 0, 9), (F.hrtQcfgRxQueue, 12, 0, 9), (F.hrtQshareShare, 100, 0, 12), (F.fluStatLockHeld, 1, 0, 0), (F.schTreeParent, 3, 0, 12), (F.schTreeParent, 6, 0, svcKey 3), (F.schTreeParent, 4, 0, 9), (F.schTreeParent, 6, 0, svcKey 4), (F.schTreeParent, 5, 0, svcKey 0)]
def ent : Assoc := { state := .live, queue := 9, port := 5, sciTx := 0x112233445566 * 65536 + 1, sciRx := 0x112233445566 * 65536 + 2, nextPn := 5, pnMark := 2 ^ 24, ph0 := { key := 7, salt := 9, valid := true, epoch := 3 }, domainValid := true }
def sd : Machine.State := { base.setAsn 77 ent with chims := [(0, { credit := 50 })] }
def fr (bs : List Byte) : RxFrame := { port := 5, bytes := bs }
theorem wit_mac (A : Obligations.FramesDropped) : Completes (.frameReceived (fr (pay 20)) 77) sd :=
  Runs.completes ((A.1 sd (fr (pay 20)) 77) (by decide +kernel))
theorem wit_seal (A : Obligations.ClearFramesAreSealed) : Completes (.frameReceived (fr (pay 60)) 77) sd := by
  refine Runs.completes ((A sd (fr (pay 60)) 77 _ rfl 77 (takes ?_) ?_ ?_ ?_ ?_ ?_ ?_ ?_ ?_ ?_ ?_ ?_)) <;> decide +kernel
def x05n1 := (sd.setAsn 77 { ent with nextPn := 2 ^ 24 - 2 ^ 23})
theorem wit_seal2 (A : Obligations.ClearFramesAreSealed) : Completes (.frameReceived (fr (pay 60)) 77) x05n1 := by
  refine Runs.completes ((A x05n1 (fr (pay 60)) 77 _ rfl 77 (takes ?_) ?_ ?_ ?_ ?_ ?_ ?_ ?_ ?_ ?_ ?_ ?_)) <;> decide +kernel
def x05n2 := (sd.setAsn 77 { ent with nextPn := 2 ^ 64 - 2 ^ 24})
theorem wit_not (A : Obligations.FramesDropped) : Completes (.frameReceived (fr (pay 60)) 77) x05n2 := by
  refine Runs.completes ((A.2.1 x05n2 (fr (pay 60)) 77 _ rfl 77 (takes ?_) ?_ ?_ ?_ ?_ ?_)) <;> decide +kernel
def x05n3 := (sd.setAsn 77 { ent with state := .draining})
theorem wit_not_2 (A : Obligations.FramesDropped) : Completes (.frameReceived (fr (pay 60)) 77) x05n3 := by
  refine Runs.completes ((A.2.1 x05n3 (fr (pay 60)) 77 _ rfl 77 (takes ?_) ?_ ?_ ?_ ?_ ?_)) <;> decide +kernel
def sc : Machine.State := sd.wr F.prtCfgSide 1 5
def sealedBytes : List Byte := withFcs (List.replicate 12 0x22 ++ secTag false 62 5 (0x112233445566 * 65536 + 2) ++ List.replicate 78 0x44)
theorem wit_open (A : Obligations.CipherFramesAreOpened) : Completes (.frameReceived (fr sealedBytes) 77) sc := by
  refine Runs.completes ((A.1 sc (fr sealedBytes) 77 77 5 12 _ (takes ?_) ?_ ?_ ?_ ?_ ?_ rfl ?_ ?_ ?_ ?_ ?_ ?_ ?_ ?_ ?_ ?_)) <;> decide +kernel
theorem wit_drop1 (A : Obligations.FramesDropped) : Completes (.frameReceived (fr (pay 60)) 77) (sc.wr F.kdlCtlEtype 34997) :=
  Runs.completes ((A.2.2 (sc.wr F.kdlCtlEtype 0x88B5) (fr (pay 60)) 77 (takes (by decide +kernel)) (by decide +kernel)).1 (by decide +kernel) (by decide +kernel) (by decide +kernel))
theorem wit_drop2 (A : Obligations.FramesDropped) : Completes (.frameReceived (fr (withFcs (List.take 90 sealedBytes))) 77) (sc.wr F.kdlCtlEtype 34997) :=
  Runs.completes ((A.2.2 (sc.wr F.kdlCtlEtype 0x88B5) (fr (withFcs (sealedBytes.take 90))) 77 (takes (by decide +kernel)) (by decide +kernel)).2.1 (by decide +kernel) (by decide +kernel))
def x05n4 := (sc.setAsn 77 {})
theorem wit_drop3 (A : Obligations.FramesDropped) : Completes (.frameReceived (fr sealedBytes) 77) x05n4 :=
  Runs.completes ((A.2.2 x05n4 (fr sealedBytes) 77 (takes (by decide +kernel)) (by decide +kernel)).2.2 (by decide +kernel) (by decide +kernel) (by decide +kernel))
def hf : HFrame := { id := 4, kind := .opened, queue := 12, port := 5, assoc := 77, epoch := 3, pn := 6, bytes := pay 60, cells := 1, readyAt := 1 }
def sh (f : HFrame) : Machine.State := { sc with hearth := { frames := [{ hf with id := 1, passed := true }, f], nextId := 5 } }
theorem wit_tv1 (A : Obligations.CipherFramesAreOpened) : Completes (.tagVerdict 5 4 5) (sh hf) := by
  refine Runs.completes ((A.2 (sh hf) 5 4 5 hf rfl ?_).1 ?_ ?_ ?_ ?_ ?_) <;> decide +kernel
def x05n5 := (sh { hf with tagOk := false })
def x05n6 := { hf with tagOk := false }
theorem wit_tv2 (A : Obligations.CipherFramesAreOpened) : Completes (.tagVerdict 5 4 5) x05n5 :=
  Runs.completes ((A.2 x05n5 5 4 5 x05n6 rfl (by decide +kernel)).2.1 (by decide +kernel) (by decide +kernel))
def x05n7 := (sh { hf with kind := .sealed })
def x05n8 := { hf with kind := .sealed }
theorem wit_tv3 (A : Obligations.CipherFramesAreOpened) : Completes (.tagVerdict 5 4 5) x05n7 :=
  Runs.completes ((A.2 x05n7 5 4 5 x05n8 rfl (by decide +kernel)).2.2 (by decide +kernel))
def su : Machine.State := { sh { hf with passed := true, queue := 0 } with tick := 2, ports := [(5, { up := true })] }
def pick : HFrame × Machine.State := match (su.at 5).pickFrame 5 with | some x => x | none => (hf, su)
theorem pick_is : ((su.at 5).pickFrame ((5 : PortNo) : Nat)).isSome = true := by decide +kernel
theorem pick_eq : (su.at 5).pickFrame ((5 : PortNo) : Nat) = some (pick.1, pick.2) := by
  have h := pick_is
  unfold pick
  cases e : (su.at 5).pickFrame ((5 : PortNo) : Nat) with
  | none => rw [e] at h; cases h
  | some x =>
    have e' : (su.at 5).pickFrame 5 = some x := e
    rw [e']
def pickd : HFrame × Machine.State := match ((su.wr F.prtCfgSide 0 5).at 5).pickFrame 5 with | some x => x | none => (hf, su)
theorem pickd_is : (((su.wr F.prtCfgSide 0 5).at 5).pickFrame ((5 : PortNo) : Nat)).isSome = true := by decide +kernel
theorem pickd_eq : ((su.wr F.prtCfgSide 0 5).at 5).pickFrame ((5 : PortNo) : Nat) = some (pickd.1, pickd.2) := by
  have h := pickd_is
  unfold pickd
  cases e : ((su.wr F.prtCfgSide 0 5).at 5).pickFrame ((5 : PortNo) : Nat) with
  | none => rw [e] at h; cases h
  | some x =>
    have e' : ((su.wr F.prtCfgSide 0 5).at 5).pickFrame 5 = some x := e
    rw [e']
theorem wit_fs (A : Obligations.FramesLeave) : Completes (.frameSend 5 none 5) su :=
  Runs.completes ((A.1 su 5 5).1 pick.1 pick.2 none (by decide +kernel) pick_eq (by decide +kernel))
theorem wit_fsb (A : Obligations.FramesLeave) : Completes (.frameSend 5 (some 7) 5) su :=
  Runs.completes ((A.1 su 5 5).1 pick.1 pick.2 (some 7) (by decide +kernel) pick_eq (by decide +kernel))
theorem wit_fsd (A : Obligations.FramesLeave) : Completes (.frameSend 5 (some 7) 5) (su.wr F.prtCfgSide 0 5) :=
  Runs.completes ((A.1 (su.wr F.prtCfgSide 0 5) 5 5).2.1 pickd.1 pickd.2 (some 7) (by decide +kernel) pickd_eq (by decide +kernel))
theorem wit_fs0 (A : Obligations.FramesLeave) : Completes (.frameSend 6 none 5) su :=
  Runs.completes ((A.1 su 6 5).2.2 none (by decide +kernel))
def x05n9 := { su with hearth.groups := [{ id := 3, queue := 12, port := 4, opened := true, cells := 952, released := true }] , ports := [(5, { downEdges := 90000 })] }
theorem wit_pf (A : Obligations.FramesLeave) : Completes (.portFlush 5) x05n9 :=
  Runs.completes ((A.2 x05n9).1 5 (by decide +kernel) (by decide +kernel) (by decide +kernel) (by decide +kernel))
theorem wit_qf (A : Obligations.FramesLeave) : Completes (.queueFlush 7) (su.wr (F.pageReady Page.hrt) 1) :=
  Runs.completes ((A.2 (su.wr (F.pageReady .hrt) 1)).2.1 7 (by decide +kernel))
def x05n10 := { su with hearth.flushes := [⟨3, 0⟩, ⟨4, 2⟩] }
theorem wit_fe (A : Obligations.FramesLeave) : Completes (.flushEnd) x05n10 :=
  Runs.completes ((A.2 x05n10).2.2.1 ⟨3, 0⟩ [⟨4, 2⟩] (by decide +kernel) (by decide +kernel))
def x05n11 := { su with hearth.flushes := [⟨3, 1⟩, ⟨4, 2⟩] }
theorem wit_fe_2 (A : Obligations.FramesLeave) : Completes (.flushEnd) x05n11 :=
  Runs.completes ((A.2 x05n11).2.2.2.1 ⟨3, 1⟩ [⟨4, 2⟩] (by decide +kernel) (by decide +kernel))
def x05n12 := (sh { hf with place := .toSpill, passed := true })
theorem wit_sm (A : Obligations.FramesLeave) : Completes (.spillMove 12) x05n12 :=
  Runs.completes ((A.2 x05n12).2.2.2.2.1 12 { hf with place := .toSpill, passed := true } rfl (by decide +kernel) (by decide +kernel))
def x05n13 := (sh { hf with place := .region, passed := true })
theorem wit_sf (A : Obligations.FramesLeave) : Completes (.spillFetch 12) x05n13 :=
  Runs.completes ((A.2 x05n13).2.2.2.2.2.1 12 { hf with place := .region, passed := true } rfl (by decide +kernel) (by decide +kernel))
def x05n14 := { su.wr (F.pageReady .sea) 1 5 with seals := [(5, { pred := 0x123456789ABC })] }
theorem wit_rxg (A : Obligations.FramesLeave) : Completes (.seaRxgRead 5) x05n14 :=
  Runs.completes ((A.2 x05n14).2.2.2.2.2.2 5 (by decide +kernel))

end W05

namespace W06

def op : Machine.State := { W [(F.pageReady .otf, 1, 6, 0), (F.prtCfgEnable, 1, 6, 0), (F.prtCfgKind, 1, 6, 0), (F.lanStatRate, 6, 6, 0), (F.lanStatState, 4, 6, 0), (F.otfCfgMode, 4, 6, 0), (F.devModeMode, 4, 0, 0), (F.fluStatLockHeld, 1, 0, 0), (F.schTreeParent, 6, 0, svcKey 0)] with tick := 50000, otn := [(6, { oofFrom := some 7, txMfas := 2, oomFrom := some 8, markersLocked := true, inFrame := true, inMf := true, mfas := 0x24, rxMfas := some 0x24 })], lanes := [(6, {})] }
theorem wit_ocw (A : Obligations.OtnFramesFormGroups) : Completes (.otnCfgWrite 6 20 8999) op :=
  Runs.completes ((A.1 op 6).1 0x14 8999 (by decide +kernel) (by decide +kernel))
theorem wit_ocw_2 (A : Obligations.OtnFramesFormGroups) : Completes (.otnCfgWrite 6 17 8999) (op.wr F.prtCfgEnable 0 6) :=
  Runs.completes ((A.1 (op.wr F.prtCfgEnable 0 6) 6).1 0x11 8999 (by decide +kernel) (by decide +kernel))
theorem wit_ocw_3 (A : Obligations.OtnFramesFormGroups) : Completes (.otnCfgWrite 6 21 8999) op :=
  Runs.completes ((A.1 op 6).2.1 0x15 8999 (by decide +kernel) (by decide +kernel) (by decide +kernel) (by decide +kernel))
theorem wit_lof (A : Obligations.OtnFramesFormGroups) : Completes (.lofDeclared 6) (op.wr F.otfCfgMode 1 6) :=
  Runs.completes ((A.1 (op.wr F.otfCfgMode 1 6) 6).2.2.1 7 (by decide +kernel) (by decide +kernel) (by decide +kernel))
def x06n1 := { op with tick := 8 }
theorem wit_lof_2 (A : Obligations.OtnFramesFormGroups) : Completes (.lofDeclared 6) x06n1 :=
  Runs.completes ((A.1 x06n1 6).2.2.2.1 7 (by decide +kernel) (by decide +kernel))
theorem wit_lom (A : Obligations.OtnFramesFormGroups) : Completes (.lomDeclared 6) op :=
  Runs.completes ((A.1 op 6).2.2.2.2 8 (by decide +kernel) (by decide +kernel))
def of1 : OtnFrame := { mfas := 0x25, payload := [1, 2, 3, 4, 5], sealOh := [9, 8, 0x11, 0, 0, 0] }
def x06n2 := { op with seals := [(6, { txCount := 5, txSeals := true, txTag := [1], txKey := 8, txCipher := [4] })] }
theorem wit_clear (A : Obligations.OtnFramesFormGroups) : Completes (.otnFrameReceived 6 of1 [{ lane := 3, pos := 4, llm := 3, mfas := 4 }] 7) x06n2 := by
  refine Runs.completes ((A.2 x06n2 6 of1 [⟨3, 4, 0xF6F6F62828, 3, 4⟩] 7 5 0x24 ?_ ?_ ?_ ?_ ?_ ?_ ?_ ?_ ?_ ?_ ?_ ?_ ?_ ?_).1 ?_ ?_ ?_ ?_ ?_) <;> decide +kernel
def x06n3 := { (op.wr F.prtCfgSide 1 6 |>.wr F.seaStatSync 2 6) with seals := [(6, { cur := { frames := List.replicate 5 {}, num := 9, acts := List.replicate 5 0 } })] }
theorem wit_ciph (A : Obligations.OtnFramesFormGroups) : Completes (.otnFrameReceived 6 of1 [] 7) x06n3 := by
  refine Runs.completes ((A.2 x06n3 6 of1 [] 7 5 0x24 ?_ ?_ ?_ ?_ ?_ ?_ ?_ ?_ ?_ ?_ ?_ ?_ ?_ ?_).2 ?_ ?_) <;> decide +kernel
def gf (g : Nat) : List OtnFrame := (List.range 16).map (fun i => { mfas := BitVec.ofNat 8 (0x20 + i), sealOh := sealBytes (List.replicate 16 7) g i 0 true, payload := [1, BitVec.ofNat 8 i] })
def og (sync : Nat) (g num : Nat) : Machine.State := { op.wr F.seaStatSync sync 6 with seals := [(6, { cur := { frames := gf g, num := num }, lastNum := 7, goodRun := 2 })] }
theorem wit_g0 (A : Obligations.OtnGroups) : Completes (.otnGroupReceived 6) (og 0 77 0) :=
  Runs.completes ((A.1 (og 0 77 0) 6 (by decide +kernel) (by decide +kernel)).1 (by decide +kernel) (by decide +kernel))
theorem wit_g2 (A : Obligations.OtnGroups) : Completes (.otnGroupReceived 6) (og 2 77 77) := by
  refine Runs.completes ((A.1 (og 2 77 77) 6 ?_ ?_).2.1 ?_ ?_ ?_ ?_ ?_) <;> decide +kernel
def x06n4 := { og 1 77 77 with seals := [(6, { cur := { frames := List.replicate 16 {} } })] }
theorem wit_g1 (A : Obligations.OtnGroups) : Completes (.otnGroupReceived 6) x06n4 :=
  Runs.completes ((A.1 x06n4 6 (by decide +kernel) (by decide +kernel)).2.2 (by decide +kernel) (by decide +kernel))
def held : RxGroup := { frames := gf 5, num := 5, key := 3, deciphered := true, verifies := true, gid := some 4, acts := List.replicate 16 0 }
def area : List Byte := held.frames.flatMap (fun f => slice f.payload 0 30464)
def tg : List Byte := otnTag 3 (otnNonce (!false) 0 5 0) area
def ov (good : Bool) : Machine.State := { op.wr F.seaCfgOtnAssocValid 1 6 with seals := [(6, { held := some held, cur := { frames := tg.map (fun b => { sealOh := [if good then b else b + 1] }) } })], hearth := { groups := [{ id := 4, queue := 3, port := 6, opened := true, cells := 7 }] } }
theorem ov_area (g : Bool) : (ov g).areaBytes ((6 : PortNo) : Nat) = 30464 := by cases g <;> decide +kernel
theorem ov_cur (g : Bool) : ((ov g).sealRt ((6 : PortNo) : Nat)).cur.frames =
    tg.map (fun b => { sealOh := [if g then b else b + 1] }) := rfl
theorem tags_held (l : List Byte) : (l.map (fun b => ({ sealOh := [b] } : OtnFrame))).map tagByte = l := by
  simp [Function.comp_def, tagByte]
theorem tags_moved (l : List Byte) (h : l ≠ []) :
    l ≠ (l.map (fun b => ({ sealOh := [b + 1] } : OtnFrame))).map tagByte := by
  simpa [Function.comp_def, tagByte] using list_moves l h
theorem wit_v1 (A : Obligations.OtnGroups) : Completes (.otnGroupVerdict 6) (ov true) := by
  refine Runs.completes ((A.2.1 (ov true) 6 held 4 ?_ ?_ ?_ ?_ ?_ ?_ ?_ ?_ ?_).1 (by rw [ov_area, ov_cur]; exact (tags_held tg).symm)) <;> decide +kernel
theorem wit_v2 (A : Obligations.OtnGroups) : Completes (.otnGroupVerdict 6) (ov false) := by
  refine Runs.completes ((A.2.1 (ov false) 6 held 4 ?_ ?_ ?_ ?_ ?_ ?_ ?_ ?_ ?_).2 (by rw [ov_area, ov_cur]; exact tags_moved tg (List.cons_ne_nil _ _))) <;> decide +kernel
theorem wit_s0 (A : Obligations.OtnGroups) : Completes (.otnFrameTransmit 6 none 6) op :=
  Runs.completes ((A.2.2 op 6 6 3 (by decide +kernel) (by decide +kernel) (by decide +kernel) (by decide +kernel)).1 (by decide +kernel) none)
def it : OtnItem := { frame := of1, payload := [7, 7, 7], sealOut := [1,2,3,4,5,6,7] }
def gr (x : OtnItem) : HGroup := { id := 4, queue := 0, port := 9, opened := true, cells := 7, released := true, items := [x, x] }
def x06n5 := { op with hearth := { groups := [gr { it with ais := true }] } }
theorem wit_s1 (A : Obligations.OtnGroups) : Completes (.otnFrameTransmit 6 (some (3, 4)) 6) x06n5 := by
  refine Runs.completes (((A.2.2 x06n5 6 6 3 ?_ ?_ ?_ ?_).2 (gr { it with ais := true }) { it with ais := true } [{ it with ais := true }] ?_ ?_ ?_).1 ?_ (some (3, 4))) <;> decide +kernel
def x06n6 := { op with hearth := { groups := [gr it] } }
theorem wit_s2 (A : Obligations.OtnGroups) : Completes (.otnFrameTransmit 6 none 6) x06n6 := by
  refine Runs.completes (((A.2.2 x06n6 6 6 3 ?_ ?_ ?_ ?_).2 (gr it) it [it] ?_ ?_ ?_).2 ?_) <;> decide +kernel
def x06n7 := { op.wr F.prtCfgSide 1 6 with hearth := { groups := [gr it] } }
theorem wit_s2_2 (A : Obligations.OtnGroups) : Completes (.otnFrameTransmit 6 none 6) x06n7 := by
  refine Runs.completes (((A.2.2 x06n7 6 6 3 ?_ ?_ ?_ ?_).2 (gr it) it [it] ?_ ?_ ?_).2 ?_) <;> decide +kernel
def fw : Machine.State := { W [(F.pageReady .fwd, 1, 0, 0), (F.pageReady .lrc, 1, 3, 0), (F.fwdWinKey0MacLo, 0x12345678, 0, 0), (F.fwdWinKey1Domain, 5, 0, 0), (F.fwdWinDom0Valid, 1, 0, 0), (F.fwdWinDataAssoc, 99, 0, 0), (F.devModeMode, 4, 0, 0), (F.lrcSeedSeed, 0xABCD, 3, 0), (F.lrcCtlEnable, 1, 3, 0)] with sched := [⟨1, false, .domWrite 6 {}⟩] }
theorem wit_w1 (A : Obligations.WindowCommands) : Completes ((Instr.fwdNext 7, fw.fwdCapture 2).fst) fw :=
  Runs.completes ((A.1 fw 7 3 true (by decide +kernel) (by decide +kernel)).1 (.fwdNext 7, fw.fwdCapture 2) (by decide +kernel))
theorem wit_w2 (A : Obligations.WindowCommands) : Completes ((Instr.fwdInsert 7, fw.fwdCapture 3).fst) fw :=
  Runs.completes ((A.1 fw 7 3 true (by decide +kernel) (by decide +kernel)).2.1 (by decide +kernel) (.fwdInsert 7, fw.fwdCapture 3) (by decide +kernel))
theorem wit_w3 (A : Obligations.WindowCommands) : Completes (.domainWrite 7) (fw.wr F.devModeMode 5) :=
  Runs.completes ((A.1 (fw.wr F.devModeMode 5) 7 3 true (by decide +kernel) (by decide +kernel)).2.2.1 (by decide +kernel) (.domainWrite 7) (by decide +kernel))
theorem wit_w4 (A : Obligations.WindowCommands) : Completes (.domainWrite 7) fw :=
  Runs.completes ((A.1 fw 7 3 true (by decide +kernel) (by decide +kernel)).2.2.2.1 (by decide +kernel) (by decide +kernel) (by decide +kernel))
theorem wit_w5 (A : Obligations.WindowCommands) : Completes (.fwdUnknownOp 7) fw :=
  Runs.completes ((A.1 fw 7 3 true (by decide +kernel) (by decide +kernel)).2.2.2.2)
theorem wit_wl (A : Obligations.WindowCommands) : Completes (.fwdDelete 7) (fw.wr F.fwdWinStatBusy 1) :=
  Runs.completes (A.2.1 (fw.wr F.fwdWinStatBusy 1) 7 3 true (by decide +kernel) (by decide +kernel) (.fwdDelete 7) (by decide +kernel))
def fe : FwdEnt := { mac := 0x12345678, domain := 5, assoc := 77 }
def bk : Nat := fw.fwdBucket 5 0x12345678 * 4
def fc (op : Nat) : FwdCmd := { op := op, mac := 0x12345678, domain := 5, assoc := 88 }
def fs (op : Nat) (tab : List (Nat × Option FwdEnt)) : Machine.State := { fw with fwd := { cmd := some (fc op), tab := tab, doms := [(5, { ageMax := 3 })] } }
def x06n8 := (fs 1 [(bk, some { fe with mac := 1 }), (bk + 1, some fe)])
theorem wit_c1 (A : Obligations.WindowCommands) : Completes (.fwdCmdComplete) x06n8 :=
  Runs.completes ((A.2.2 x06n8 (fc 1) (by decide +kernel)).1 (bk + 1) fe (by decide +kernel) (by decide +kernel) (by decide +kernel))
def x06n9 := (fs 1 [(bk, some { fe with mac := 1 })])
theorem wit_c1n (A : Obligations.WindowCommands) : Completes (.fwdCmdComplete) x06n9 :=
  Runs.completes ((A.2.2 x06n9 (fc 1) (by decide +kernel)).2.1 (by decide +kernel) (by decide +kernel))
def x06n10 := (fs 3 [(bk, some { fe with mac := 1 }), (bk + 1, some fe)])
theorem wit_c3 (A : Obligations.WindowCommands) : Completes (.fwdCmdComplete) x06n10 :=
  Runs.completes ((A.2.2 x06n10 (fc 3) (by decide +kernel)).2.2.1 (bk + 1) (by decide +kernel) (by decide +kernel))
def x06n11 := (fs 3 [(bk, some { fe with mac := 1 })])
theorem wit_c3n (A : Obligations.WindowCommands) : Completes (.fwdCmdComplete) x06n11 :=
  Runs.completes ((A.2.2 x06n11 (fc 3) (by decide +kernel)).2.2.2.1 (bk + 1) (by decide +kernel) (by decide +kernel) (by decide +kernel))
def x06n12 := (fs 4 [(bk, some { fe with mac := 1 }), (bk + 1, some fe)])
theorem wit_c4 (A : Obligations.WindowCommands) : Completes (.fwdCmdComplete) x06n12 :=
  Runs.completes ((A.2.2 x06n12 (fc 4) (by decide +kernel)).2.2.2.2.1 (bk + 1) (by decide +kernel) (by decide +kernel))
def x06n13 := { (fs 5 [(3, some { fe with isStatic := true }), (4, some fe)]) with fwd.cmd := some { fc 5 with port := 0 } }
def x06n14 := ({ fc 5 with port := 0 })
theorem wit_c5 (A : Obligations.WindowCommands) : Completes (.fwdCmdComplete) x06n13 :=
  Runs.completes ((A.2.2 x06n13 x06n14 (by decide +kernel)).2.2.2.2.2 (by decide +kernel))
theorem wit_lr (A : Obligations.LearnedEntries) : Completes (.lrcRehash 3 7) fw :=
  Runs.completes (((A.1 fw 3).1 7 (by decide +kernel)).1 (by decide +kernel))
theorem wit_lr2 (A : Obligations.LearnedEntries) : Completes (.lrcRehash 3 7) (fw.wr F.lrcStatRehashBusy 1 3) :=
  Runs.completes (((A.1 (fw.wr F.lrcStatRehashBusy 1 3) 3).1 7 (by decide +kernel)).2.1 (by decide +kernel))
def x06n15 := { fw with fwd := { cache := [(4096*3+7, some fe), (5, some fe)] } }
theorem wit_lf (A : Obligations.LearnedEntries) : Completes (.lrcFlush 3 8) x06n15 :=
  Runs.completes (((A.1 x06n15 3).1 8 (by decide +kernel)).2.2)
def x06n16 := { (fw.wr F.lrcStatRehashBusy 1 3) with fwd := { cache := [(4096*3+7, some fe), (5, some fe)] } }
theorem wit_ld (A : Obligations.LearnedEntries) : Completes (.lrcRehashDone 3) x06n16 :=
  Runs.completes ((A.1 x06n16 3).2 (by decide +kernel))
def x06n17 := (fs 1 [(4, some { fe with hit := true, age := 2 }), (5, some { fe with age := 1 }), (6, some { fe with age := 2 }), (7, some { fe with age := 2, isStatic := true })])
theorem wit_a1 (A : Obligations.LearnedEntries) : Completes (.agingEdge) x06n17 :=
  Runs.completes ((A.2 x06n17).1 (by decide +kernel) (by decide +kernel) (by decide +kernel))
def x06n18 := { fs 1 [(4, some { fe with age := 2 })] with tick := 1 }
theorem wit_a4 (A : Obligations.LearnedEntries) : Completes (.agingEdge) x06n18 :=
  Runs.completes ((A.2 x06n18).2 (by decide +kernel))

end W06

namespace W07

def ent : Assoc := { state := .live, queue := 9, port := 5, sciTx := 0x112233445566 * 65536 + 1, nextPn := 5, pnMark := 2 ^ 24, ph0 := { key := 7, salt := 9, valid := true, epoch := 3 }, domainValid := true, slot := 3, autoRecover := true }
def as (e : Assoc) : Machine.State := { (W [(F.pageReady .asn, 1, 0, 0), (F.devModeMode, 4, 0, 0), (F.prtCfgEnable, 1, 5, 0), (F.prtCfgSide, 1, 5, 0), (F.kdlLinkCfgEnable, 1, 0, 2), (F.kdlLinkCfgPort, 5, 0, 2)]).setAsn 77 e with tick := 100, asnBusy := 1000050 }
theorem wit_read (A : Obligations.EntryCommands) : Completes (.asnRead 77 50) (as ent) :=
  Runs.completes ((A.1 (as ent) 77 50 (by decide +kernel) (by decide +kernel)))
theorem wit_cmd (A : Obligations.EntryCommands) : Completes ((Instr.stop 77 8999, 4, [AState.kindling, AState.live, AState.rolling]).fst) (as ent) := by
  refine Runs.completes (((A.2 (as ent) 77 8999 ?_ ?_ ?_ ?_ _ rfl).1 (Instr.stop 77 8999, 4, [AState.kindling, .live, .rolling]) ?_).1 ?_) <;> decide +kernel
theorem wit_cmd_2 (A : Obligations.EntryCommands) : Completes ((Instr.kill 77 8999, 5, [AState.kindling, AState.live, AState.rolling, AState.draining]).fst) (as ent) := by
  refine Runs.completes (((A.2 (as ent) 77 8999 ?_ ?_ ?_ ?_ _ rfl).1 (Instr.kill 77 8999, 5, [AState.kindling, .live, .rolling, .draining]) ?_).1 ?_) <;> decide +kernel
theorem wit_cmd_3 (A : Obligations.EntryCommands) : Completes ((Instr.start 77 8999, 3, [AState.idle]).fst) (as ent) := by
  refine Runs.completes (((A.2 (as ent) 77 8999 ?_ ?_ ?_ ?_ _ rfl).1 (Instr.start 77 8999, 3, [AState.idle]) ?_).2 ?_) <;> decide +kernel
def x07n1 := (as {})
theorem wit_cmd_4 (A : Obligations.EntryCommands) : Completes ((Instr.start 77 8999, 3, [AState.idle]).fst) x07n1 := by
  refine Runs.completes (((A.2 x07n1 77 8999 ?_ ?_ ?_ ?_ _ rfl).1 (Instr.start 77 8999, 3, [AState.idle]) ?_).1 ?_) <;> decide +kernel
def x07n2 := (as {})
theorem wit_cmd_5 (A : Obligations.EntryCommands) : Completes ((Instr.release 77 8999, 7, [AState.idle, AState.dead, AState.quenched]).fst) x07n2 := by
  refine Runs.completes (((A.2 x07n2 77 8999 ?_ ?_ ?_ ?_ _ rfl).1 (Instr.release 77 8999, 7, [AState.idle, .dead, .quenched]) ?_).1 ?_) <;> decide +kernel
def x07n3 := (as { state := .dead })
theorem wit_cmd_6 (A : Obligations.EntryCommands) : Completes ((Instr.restart 77 8999, 6, [AState.dead]).fst) x07n3 := by
  refine Runs.completes (((A.2 x07n3 77 8999 ?_ ?_ ?_ ?_ _ rfl).1 (Instr.restart 77 8999, 6, [AState.dead]) ?_).1 ?_) <;> decide +kernel
def x07n4 := ((as {}).wr F.devCommitCtlHold 1)
theorem wit_wr (A : Obligations.EntryCommands) : Completes (.writeCfg 77 9000) x07n4 := by
  refine Runs.completes ((A.2 x07n4 77 9000 ?_ ?_ ?_ ?_ _ rfl).2.1 ?_ ?_) <;> decide +kernel
def x07n5 := ((as {}).setWord ⟨.asnw, 0x160, 0, 0⟩ 0x300)
theorem wit_wr_2 (A : Obligations.EntryCommands) : Completes (.writeCfg 77 9000) x07n5 := by
  refine Runs.completes ((A.2 x07n5 77 9000 ?_ ?_ ?_ ?_ _ rfl).2.2.1 ?_ ?_) <;> decide +kernel
def x07n6 := ((as {}).setWord ⟨.asnw, 0x160, 0, 0⟩ 0x300)
theorem wit_unk (A : Obligations.EntryCommands) : Completes (.asnUnknownOp 77 9000) x07n6 :=
  Runs.completes ((A.2 x07n6 77 9000 (by decide +kernel) (by decide +kernel) (by decide +kernel) (by decide +kernel) _ rfl).2.2.2)
def x07n7 := (as { ent with state := .draining, drainAt := some 100 })
theorem wit_drain (A : Obligations.EntriesMoveOn) : Completes (.drainEnd 77) x07n7 :=
  Runs.completes ((A x07n7).1 77 100 (by decide +kernel) (by decide +kernel) (by decide +kernel))
def x07n8 := (as { ent with state := .draining, drainAt := some 101 })
theorem wit_drain_2 (A : Obligations.EntriesMoveOn) : Completes (.drainEnd 77) x07n8 :=
  Runs.completes ((A x07n8).2.1 77 101 (by decide +kernel) (by decide +kernel))
def ses : Session := { st := .live, idx := 4, initiator := true }
def ro : Roll := { stage := .scheduled, proposer := true, target := 9, rolled := [77], switchAt := some 100 }
def ax : Machine.State := { as { ent with state := .rolling, claimPending := true, overlapAt := some 100 } with kindle := { links := [(2, { cur := some ses, roll := some ro })] } }
theorem wit_sw (A : Obligations.EntriesMoveOn) : Completes (.keyPhaseSwitch 2) ax :=
  Runs.completes ((A ax).2.2.1 2 ro 77 (by decide +kernel) (by decide +kernel) (by decide +kernel) (by decide +kernel) (by decide +kernel))
def x07n9 := { ax with tick := 99 }
theorem wit_sw_2 (A : Obligations.EntriesMoveOn) : Completes (.keyPhaseSwitch 2) x07n9 :=
  Runs.completes ((A x07n9).2.2.2.1 2 ro (by decide +kernel) (by decide +kernel))
def x07n10 := { ax with assocs := (as { ent with overlapAt := some 100 }).assocs }
theorem wit_ov (A : Obligations.EntriesMoveOn) : Completes (.overlapEnd 2) x07n10 :=
  Runs.completes ((A x07n10).2.2.2.2.1 2 77 100 (by decide +kernel) (by decide +kernel) (by decide +kernel))
def sl : Slot := { present := true, usable := true, type := 5, uses := usesUnlimited }
def ar : Machine.State := let s : Machine.State := { as { ent with state := .dead } with vault := { slots := [(3, sl)] } }; s.setSlot 3 { sl with tag := sl.tagFor s.vault.kint 3 }
theorem wit_ar (A : Obligations.EntriesMoveOn) : Completes (.autoRecover 77) ar :=
  Runs.completes ((A ar).2.2.2.2.2.1 77 (ar.takeUse 3).1 (by decide +kernel) (by decide +kernel) (by decide +kernel) (by decide +kernel) (Prod.ext rfl (by exact granted (by decide +kernel) rfl)))
theorem wit_ar_2 (A : Obligations.EntriesMoveOn) : Completes (.autoRecover 77) (as ent) :=
  Runs.completes ((A (as ent)).2.2.2.2.2.2 77 (by decide +kernel))

end W07

namespace W08

def sv : Machine.State := W [(F.pageReady .chm, 1, 3, 0), (F.pageReady .stv, 1, 3, 0), (F.stvCmdStatResult, 1, 3, 0)]
theorem wit_cw (A : Obligations.StovesInService) : Completes (.chmCfgWrite 3 4294967280 8999) sv :=
  Runs.completes ((A.1 sv 3 8999).1 0xFFFFFFF0 (by decide +kernel) (by decide +kernel) (by decide +kernel))
theorem wit_cw_2 (A : Obligations.StovesInService) : Completes (.chmCfgWrite 3 4294967273 8999) sv :=
  Runs.completes ((A.1 sv 3 8999).2.1 0xFFFFFFE9 (by decide +kernel) (by decide +kernel))
theorem wit_st (A : Obligations.StovesInService) : Completes (.stoveTest 3 63 8999) sv :=
  Runs.completes (((A.1 sv 3 8999).2.2.1 63 (by decide +kernel) (by decide +kernel)).1)
def x08n1 := { sv with chims := [(3, { own := [(63, .twin)] })] }
theorem wit_sr (A : Obligations.StovesInService) : Completes (.stoveRestore 3 63 8999) x08n1 :=
  Runs.completes (((A.1 x08n1 3 8999).2.2.1 63 (by decide +kernel) (by decide +kernel)).2.1 (by decide +kernel))
def x08n2 := { sv with chims := [(3, { own := [(63, .ok)] })] }
theorem wit_sr_2 (A : Obligations.StovesInService) : Completes (.stoveRestore 3 63 8999) x08n2 :=
  Runs.completes (((A.1 x08n2 3 8999).2.2.1 63 (by decide +kernel) (by decide +kernel)).2.2 (by decide +kernel))
theorem wit_sr_3 (A : Obligations.StovesInService) : Completes (.stoveTest 3 63 8999) (sv.wr F.stvCmdStatBusy 1 3) :=
  Runs.completes (((A.1 (sv.wr F.stvCmdStatBusy 1 3) 3 8999).2.2.2 63 (by decide +kernel) (by decide +kernel)) (.stoveTest 3 63 8999) (by decide +kernel))
theorem wit_sr_4 (A : Obligations.StovesInService) : Completes (.stoveRestore 3 63 8999) (sv.wr F.stvCmdStatBusy 1 3) :=
  Runs.completes (((A.1 (sv.wr F.stvCmdStatBusy 1 3) 3 8999).2.2.2 63 (by decide +kernel) (by decide +kernel)) (.stoveRestore 3 63 8999) (by decide +kernel))
def x08n3 := { sv with chims := [(3, { running := [(62, .bringUp), (63, .bringUp)] })] }
theorem wit_k1 (A : Obligations.StovesInService) : Completes (.katDone 3 63 true) x08n3 :=
  Runs.completes (((A.2.1 x08n3 3 63).1 (by decide +kernel)).1)
def x08n4 := { sv.wr (katFld 63) 1 3 with chims := [(3, { own := [(62, .ok)], running := [(62, .bringUp), (63, .bringUp)] })] }
theorem wit_k2 (A : Obligations.StovesInService) : Completes (.katDone 3 63 false) x08n4 :=
  Runs.completes (((A.2.1 x08n4 3 63).1 (by decide +kernel)).2)
def x08n5 := { sv.wr F.chmCfgTwin 0 3 with chims := [(3, { own := [(63, .underTest)], running := [(63, .command)] })] }
theorem wit_k3 (A : Obligations.StovesInService) : Completes (.katDone 3 63 true) x08n5 :=
  Runs.completes (((A.2.1 x08n5 3 63).2.1 (by decide +kernel) (by decide +kernel) (by decide +kernel)).1)
def x08n6 := { sv.wr F.chmCfgTwin 0 3 with chims := [(3, { own := [(63, .underTest)], running := [(63, .command)] })] }
theorem wit_k4 (A : Obligations.StovesInService) : Completes (.katDone 3 63 false) x08n6 :=
  Runs.completes (((A.2.1 x08n6 3 63).2.1 (by decide +kernel) (by decide +kernel) (by decide +kernel)).2)
theorem wit_k5 (A : Obligations.StovesInService) : Completes (.katDone 3 63 true) sv :=
  Runs.completes ((A.2.1 sv 3 63).2.2 (by decide +kernel) true)
def f1 : HFrame := { id := 4, kind := .sealed, queue := 1, port := 1, bytes := [], cells := 1, readyAt := 1 }
def x08n7 := { sv.wr F.chmCfgTwin 1 3 with chims := [(3, { own := [(62, .ok), (63, .ok)] })], hearth := { frames := [f1, { f1 with id := 5 }] } }
theorem wit_tm (A : Obligations.StovesInService) : Completes (.twinMismatch 3 31 [5] [] []) x08n7 :=
  Runs.completes ((A.2.2 x08n7 3).1 31 [5] (by decide +kernel) (by decide +kernel) (by decide +kernel))
def x08n8 := { sv with chims := [(3, { own := [(62, .ok), (63, .ok)] })] }
theorem wit_mc (A : Obligations.StovesInService) : Completes (.microcodeError 3 63) x08n8 :=
  Runs.completes ((A.2.2 x08n8 3).2 63)
def dg : Machine.State := { sv with chims := [(7, { drbg := some { requests := 65536 } })], vault := { drbg := some { requests := 1024 } } }
theorem wit_dr (A : Obligations.RandomnessIsReseeded) : Completes (.drbgReseed (Fin.castSucc 7)) (dg.wr F.kvtDrbgEsOk 1) :=
  Runs.completes (((A (dg.wr F.kvtDrbgEsOk 1)).1 7 _ rfl (by decide +kernel)).1 (by decide +kernel))
theorem wit_dr2 (A : Obligations.RandomnessIsReseeded) : Completes (.drbgReseed (Fin.castSucc 7)) ((dg.wr F.kvtDrbgEsOk 1).wr F.chmDrbgReseeds 65535 7) :=
  Runs.completes (((A ((dg.wr F.kvtDrbgEsOk 1).wr F.chmDrbgReseeds 65535 7)).1 7 _ rfl (by decide +kernel)).1 (by decide +kernel))
theorem wit_dr3 (A : Obligations.RandomnessIsReseeded) : Completes (.drbgReseed (Fin.castSucc 7)) (dg.wr F.kvtDrbgEsOk 0) :=
  Runs.completes (((A (dg.wr F.kvtDrbgEsOk 0)).1 7 _ rfl (by decide +kernel)).2 (by decide +kernel))
theorem wit_dr4 (A : Obligations.RandomnessIsReseeded) : Completes (.drbgReseed 8) (dg.wr F.kvtDrbgEsOk 1) :=
  Runs.completes ((A (dg.wr F.kvtDrbgEsOk 1)).2.1 _ rfl (by decide +kernel) (by decide +kernel))
theorem wit_eh (A : Obligations.RandomnessIsReseeded) : Completes (.entropyHealthFail) (sv.wr F.kvtDrbgEsOk 1) :=
  Runs.completes ((A (sv.wr F.kvtDrbgEsOk 1)).2.2.1)
theorem wit_sk (A : Obligations.RandomnessIsReseeded) : Completes (.standbyKat) (W [(F.devModeMode, 5, 0, 0), (F.fluStKatRuns, 7, 0, 0), (F.chmDrbgSeeded, 1, 3, 0)]) :=
  Runs.completes ((A (W [(F.devModeMode, 5, 0, 0), (F.fluStKatRuns, 7, 0, 0), (F.chmDrbgSeeded, 1, 3, 0)])).2.2.2.1 (by decide +kernel) (by decide +kernel))
def x08n9 := { sv with tick := 31 }
theorem wit_sk_2 (A : Obligations.RandomnessIsReseeded) : Completes (.standbyKat) x08n9 :=
  Runs.completes ((A x08n9).2.2.2.2 (by decide +kernel))

end W08

namespace W09

def hs : Machine.State := { W [(F.pageReady .hst, 1, 0, 0), (sqFld F.slcSqCfgLog2Size 2, 5, 255, 0), (sqFld F.slcSqCfgEnable 2, 1, 255, 0), (F.slcCqCfgEnable, 1, 255, 0), (F.slcCqCfgLog2Size, 4, 255, 0), (sqFld F.slcSqTailTail 2, 3, 255, 0), (sqFld F.slcSqHeadHead 2, 63, 255, 0), (F.hstSselSlice, 255, 0, 0), (F.hstSresCellQuota, 64, 0, 255), (F.hstSresStoveWeight, 2, 0, 255), (F.hstSvecCqVec, 7, 0, 255)] with tick := 1000, slices := [(255, { state := 1, gen := 9, cqTail := 15 })] }
theorem wit_sq (A : Obligations.SliceQueues) : Completes (.sqDoorbell 255 2 4294836243) hs :=
  Runs.completes (((A.1 hs 255 0xFFFE0013 (by decide +kernel)).1 (by decide +kernel)).1 2 19 (by decide +kernel))
theorem wit_sq_2 (A : Obligations.SliceQueues) : Completes (.sqDoorbell 255 2 40) hs :=
  Runs.completes (((A.1 hs 255 40 (by decide +kernel)).1 (by decide +kernel)).2.1 2 (by decide +kernel))
theorem wit_cq (A : Obligations.SliceQueues) : Completes (.cqDoorbell 255 4294836243) hs :=
  Runs.completes (((A.1 hs 255 0xFFFE0013 (by decide +kernel)).1 (by decide +kernel)).2.2.1)
theorem wit_eq (A : Obligations.SliceQueues) : Completes (.eqDoorbell 255 4294836243) hs :=
  Runs.completes (((A.1 hs 255 0xFFFE0013 (by decide +kernel)).1 (by decide +kernel)).2.2.2)
def x09n1 := { hs with slices := [] }
theorem wit_sq0 (A : Obligations.SliceQueues) : Completes (.eqDoorbell 255 4294836243) x09n1 :=
  Runs.completes ((A.1 x09n1 255 0xFFFE0013 (by decide +kernel)).2 (by decide +kernel) 3 (.eqDoorbell 255 0xFFFE0013) (by decide +kernel))
def db (op mode kind : Nat) (gen key len : Nat) (iv : Nat) : List Byte := [BitVec.ofNat 8 op, BitVec.ofNat 8 mode, BitVec.ofNat 8 kind, BitVec.ofNat 8 iv, 0, 0] ++ leBytes 2 gen ++ leBytes 8 key ++ leBytes 8 0x1000 ++ leBytes 8 0x2000 ++ leBytes 4 len ++ leBytes 4 0 ++ List.replicate 16 7 ++ leBytes 8 0x3000
theorem wit_df (A : Obligations.SliceQueues) : Completes (.descriptorFetch 255 [db 3 0 0 9 0 0 0, db 2 0 0 9 0 0 0]) hs :=
  Runs.completes ((A.2.1 hs 255 [db 3 0 0 9 0 0 0, db 2 0 0 9 0 0 0]).1 2 1 (by decide +kernel) (by decide +kernel) (by decide +kernel))
def x09n2 := { hs with slices := [] }
theorem wit_df_2 (A : Obligations.SliceQueues) : Completes (.descriptorFetch 255 [db 3 0 0 9 0 0 0, db 2 0 0 9 0 0 0]) x09n2 :=
  Runs.completes ((A.2.1 x09n2 255 [db 3 0 0 9 0 0 0, db 2 0 0 9 0 0 0]).2 (by decide +kernel))
def z (op : Nat) (g : Nat) : List Byte := [BitVec.ofNat 8 op, 32, 0, 0, 0, 0] ++ leBytes 2 g ++ List.replicate 56 0
def dd (b : List Byte) : Desc := { queue := 2, index := 5, bytes := b }
def wd (b : List Byte) : Machine.State := { hs with slices := [(255, { state := 1, gen := 9, cqTail := 15, fetched := [{ dd b with queue := 1 }, dd b, dd b] })] }
theorem wit_nop (A : Obligations.SliceQueues) : Completes (.nop 255 2 true) (wd (z 3 9)) :=
  Runs.completes (((A.2.2 (wd (z 3 9)) 255 2 (dd (z 3 9)) (by decide +kernel) (by decide +kernel) (by decide +kernel)).1 (by decide +kernel)).1)
theorem wit_nop_2 (A : Obligations.SliceQueues) : Completes (.nop 255 2 false) (wd (z 3 9)) :=
  Runs.completes (((A.2.2 (wd (z 3 9)) 255 2 (dd (z 3 9)) (by decide +kernel) (by decide +kernel) (by decide +kernel)).1 (by decide +kernel)).2)
theorem wit_fence (A : Obligations.SliceQueues) : Completes (.fence 255 2 true) (wd (z 2 9)) :=
  Runs.completes ((A.2.2 (wd (z 2 9)) 255 2 (dd (z 2 9)) (by decide +kernel) (by decide +kernel) (by decide +kernel)).2.1 (by decide +kernel) (by decide +kernel))
def jb : Job := { id := 4, queue := 2, index := 1, gen := 9, mode := 3, dir := false, irq := true, key := List.replicate 32 3, iv := List.replicate 16 1, src := 0x1000, dst := 0x2000, len := 20, aadLen := 0, tagAt := 0 }
def x09n3 := { (wd (z 2 9)) with slices := [(255, { state := 1, gen := 9, fetched := [dd (z 2 9)], jobs := [jb] })] }
theorem wit_fence_2 (A : Obligations.SliceQueues) : Completes (.fence 255 2 true) x09n3 :=
  Runs.completes ((A.2.2 x09n3 255 2 (dd (z 2 9)) (by decide +kernel) (by decide +kernel) (by decide +kernel)).2.2 (by decide +kernel) (by decide +kernel) true)
def ent : Assoc := { state := .draining, slice := 255, sliceValid := true, ph0 := { key := 7, salt := 9, valid := true, epoch := 3 }}
def jd : List Byte := db 1 3 1 9 77 20 16
theorem wit_job (A : Obligations.JobsBegin) : Completes (.job 255 2 none true) ((wd jd).setAsn 77 ent) := by
  refine Runs.completes ((A ((wd jd).setAsn 77 ent) 255 2 (dd jd) none ?_ ?_ ?_ ?_).1 _ ?_ ?_ ?_ ?_ ?_ rfl ?_ ?_ ?_ ?_ ?_ true) <;> decide +kernel
theorem wit_job12 (A : Obligations.JobsBegin) : Completes (.job 255 2 none true) (wd (db 1 64 1 9 77 20 16)) :=
  Runs.completes ((A (wd (db 1 64 1 9 77 20 16)) 255 2 (dd (db 1 64 1 9 77 20 16)) none (by decide +kernel) (by decide +kernel) (by decide +kernel) (by decide +kernel)).2 12 (by decide +kernel))
theorem wit_job13 (A : Obligations.JobsBegin) : Completes (.job 255 2 none true) (wd (db 1 3 1 8 77 20 16)) :=
  Runs.completes ((A (wd (db 1 3 1 8 77 20 16)) 255 2 (dd (db 1 3 1 8 77 20 16)) none (by decide +kernel) (by decide +kernel) (by decide +kernel) (by decide +kernel)).2 13 (by decide +kernel))
theorem wit_job5 (A : Obligations.JobsBegin) : Completes (.job 255 2 none true) (wd (db 1 8 1 9 77 20 16)) :=
  Runs.completes ((A (wd (db 1 8 1 9 77 20 16)) 255 2 (dd (db 1 8 1 9 77 20 16)) none (by decide +kernel) (by decide +kernel) (by decide +kernel) (by decide +kernel)).2 5 (by decide +kernel))
def pd : Machine.State := { hs with slices := [(255, { state := 1, gen := 9, jobs := [jb, { jb with id := 5 }], deficit := 4 })], chims := [(3, { own := [(63, .ok), (62, .ok)] })] }
theorem wit_pd (A : Obligations.JobsRun) : Completes (.pieceDispatch 3 63 (some (List.replicate 20 1))) pd := by
  refine Runs.completes ((A.1 pd 3 63 255 jb (List.replicate 20 1) ?_ ?_ ?_ ?_ ?_).1 ?_) <;> decide +kernel
theorem wit_pd_2 (A : Obligations.JobsRun) : Completes (.pieceDispatch 3 63 none) pd :=
  Runs.completes ((A.1 pd 3 63 255 jb (List.replicate 20 1) (by decide +kernel) (by decide +kernel) (by decide +kernel) (by decide +kernel) (by decide +kernel)).2)
def jdn (j : Job) : Machine.State := { hs with slices := [(255, { state := 1, gen := 9, jobs := [{ j with issued := 1, running := [(1,1,1)], data := List.replicate 20 1 }, { jb with id := 5 }], deficit := 4 })], hearth := { staging := 64 } }
def jx : Job := { jb with issued := 1, running := [(1,1,1)], data := List.replicate 20 1 }
theorem wit_jc (A : Obligations.JobsRun) : Completes (.jobComplete 255 4 (some []) none true) (jdn jb) :=
  Runs.completes ((A.2 (jdn jb) 255 4 jx [] (by decide +kernel) (by decide +kernel) (by decide +kernel) (by decide +kernel)).1 _ _ _ _ rfl)
def bt : List Byte := (gcmTag (keyOfBytes jx.key) (BitVec.ofNat 96 (beAt jx.iv 0 12)) (jx.data.take jx.aadLen) (jx.data.drop jx.aadLen)).map (· + 1)
theorem bt_bad : gcmTag (keyOfBytes jx.key) (BitVec.ofNat 96 (beAt jx.iv 0 12)) (jx.data.take jx.aadLen)
    (jx.data.drop jx.aadLen) ≠ slice bt 0 16 := by
  rw [slice_all bt 16 rfl]
  exact list_moves _ (List.cons_ne_nil _ _)
def x09n4 := (jdn { jb with mode := 1, dir := true })
def x09n5 := { jx with mode := 1, dir := true }
theorem wit_jc_2 (A : Obligations.JobsRun) : Completes (.jobComplete 255 4 (some bt) none true) x09n4 := by
  refine Runs.completes ((A.2 x09n4 255 4 x09n5 bt ?_ ?_ ?_ ?_).2 ?_ ?_ ?_ bt_bad) <;> decide +kernel
def x09n6 := { hs.wr F.slcCqCfgCoalTicks 3 255 with slices := [(255, { state := 1, waiting := 2, waitFrom := 997 })] }
theorem wit_ct (A : Obligations.SliceStates) : Completes (.coalesceTimer 255) x09n6 :=
  Runs.completes ((A.1 x09n6 255).1 (by decide +kernel) (by decide +kernel) (by decide +kernel))
def x09n7 := { hs.wr F.slcCqCfgCoalTicks 3 255 with slices := [(255, { state := 1, waiting := 2, waitFrom := 998 })] }
theorem wit_ct_2 (A : Obligations.SliceStates) : Completes (.coalesceTimer 255) x09n7 :=
  Runs.completes ((A.1 x09n7 255).2.1 (by decide +kernel))
theorem wit_jw (A : Obligations.SliceStates) : Completes (.jobWaitAlarm 255 4) pd :=
  Runs.completes ((A.1 pd 255).2.2 4 jb (by decide +kernel) (by decide +kernel) (by decide +kernel) (by decide +kernel) (by decide +kernel))
def x09n8 := { hs with slices := [] }
theorem wit_bind (A : Obligations.SliceStates) : Completes (.bind 8999) x09n8 :=
  Runs.completes ((A.2.1 x09n8 8999 255 (by decide +kernel) (by decide +kernel) (.bind 8999, 1) (by decide +kernel)).1 (by decide +kernel))
theorem wit_bind_2 (A : Obligations.SliceStates) : Completes (.bind 8999) hs :=
  Runs.completes ((A.2.1 hs 8999 255 (by decide +kernel) (by decide +kernel) (.bind 8999, 1) (by decide +kernel)).2 2 (by decide +kernel) (by decide +kernel))
theorem wit_reset (A : Obligations.SliceStates) : Completes (.sliceReset 8999) hs :=
  Runs.completes ((A.2.1 hs 8999 255 (by decide +kernel) (by decide +kernel) (.sliceReset 8999, 2) (by decide +kernel)).1 (by decide +kernel))
theorem wit_remove (A : Obligations.SliceStates) : Completes (.sliceRemove 8999) hs :=
  Runs.completes ((A.2.1 hs 8999 255 (by decide +kernel) (by decide +kernel) (.sliceRemove 8999, 3) (by decide +kernel)).1 (by decide +kernel))
theorem wit_dirty (A : Obligations.SliceStates) : Completes (.dirtyRead 8999) hs :=
  Runs.completes ((A.2.1 hs 8999 255 (by decide +kernel) (by decide +kernel) (.dirtyRead 8999, 4) (by decide +kernel)).1 (by decide +kernel))
def so : Machine.State := { hs with slices := [(255, { state := 3, gen := 9, old := [jb], stepAt := 936, copying := some (1, 2, 3) })], hearth := { staging := 64 } }
theorem wit_rd (A : Obligations.SliceStates) : Completes (.sliceResetDone 255) so :=
  Runs.completes (((A.2.2 so 255).1 (by decide +kernel) (by decide +kernel)).1)
theorem wit_rt (A : Obligations.SliceStates) : Completes (.sliceResetTimeout 255) so :=
  Runs.completes (((A.2.2 so 255).1 (by decide +kernel) (by decide +kernel)).2.1 (by decide +kernel))
def x09n9 := { so with tick := 999 }
theorem wit_rt_2 (A : Obligations.SliceStates) : Completes (.sliceResetTimeout 255) x09n9 :=
  Runs.completes (((A.2.2 x09n9 255).1 (by decide +kernel) (by decide +kernel)).2.2 (by decide +kernel))
theorem wit_dc (A : Obligations.SliceStates) : Completes (.dirtyCopyDone 255) so :=
  Runs.completes ((A.2.2 so 255).2 1 2 3 (by decide +kernel))

end W09

namespace W10

def kb : Machine.State := { W [(F.pageReady .kdl, 1, 0, 0), (F.kdlLinkSelLink, 2, 0, 0), (F.kdlLinkCfgEnable, 1, 0, 2), (F.kdlLinkCfgPort, 5, 0, 2), (F.devModeMode, 4, 0, 0), (F.kdlCtlEnable, 1, 0, 0), (F.prtCfgEnable, 1, 5, 0), (F.prtCfgSide, 1, 5, 0)] with tick := 2 ^ 50 }
theorem wit_ls (A : Obligations.Links) : Completes (.linkReauth 8999) kb :=
  Runs.completes (((A.1 kb 8999 2 (by decide +kernel) (by decide +kernel)).1 (.linkReauth 8999, 4) (by decide +kernel)))
theorem wit_le (A : Obligations.Links) : Completes (.linkEnable true 5 8999) kb :=
  Runs.completes (((A.1 kb 8999 2 (by decide +kernel) (by decide +kernel)).2.1 true 5 _ rfl).1 (by decide +kernel))
theorem wit_le_2 (A : Obligations.Links) : Completes (.linkEnable true 6 8999) kb :=
  Runs.completes (((A.1 kb 8999 2 (by decide +kernel) (by decide +kernel)).2.1 true 6 _ rfl).2 (by decide +kernel))
theorem wit_ld (A : Obligations.Links) : Completes (.linkDisable false 8999) kb :=
  Runs.completes ((A.1 kb 8999 2 (by decide +kernel) (by decide +kernel)).2.2 false)
def up (s : Machine.State) : Machine.State := (s.wr F.fluStatLockHeld 1).modPort 5 (fun r => { r with up := true })
def ses : Session := { st := .live, idx := 4, initiator := true, kctl := [1], id := [1,2,3,4,5,6,7,8] }
def kl (l : Link) : Machine.State := { kb with kindle := { links := [(2, l)], lattice := [.session 2 false] } }
def x10n1 := (kl {})
theorem wit_fr (A : Obligations.Fragments) : Completes (.fragmentReceived 2 0 7 0 35 [1, 2] 9) x10n1 := by
  refine Runs.completes (((A.1 x10n1 2 7 35 [1, 2] 9).1 ?_ ?_ ?_ ?_ ?_).1 ?_ ?_) <;> decide +kernel
def x10n2 := (kl {})
theorem wit_fr_2 (A : Obligations.Fragments) : Completes (.fragmentReceived 2 0 7 0 1 [1, 2] 9) x10n2 := by
  refine Runs.completes (((A.1 x10n2 2 7 1 [1, 2] 9).1 ?_ ?_ ?_ ?_ ?_).2 ?_ ?_) <;> decide +kernel
def x10n3 := (kl { lastDone := some 7 })
theorem wit_fr_3 (A : Obligations.Fragments) : Completes (.fragmentReceived 2 0 7 3 1 [1, 2] 9) x10n3 :=
  Runs.completes (((A.1 x10n3 2 7 1 [1, 2] 9).2.1 3 (by decide +kernel) (by decide +kernel) (by decide +kernel)))
def x10n4 := (kl { lastDone := some 7 })
theorem wit_fr_4 (A : Obligations.Fragments) : Completes (.fragmentReceived 2 2 7 3 1 [1, 2] 9) x10n4 :=
  Runs.completes (((A.1 x10n4 2 7 1 [1, 2] 9).2.2 2 3 (by decide +kernel)))
def x10n5 := (kl { nextMsgId := 7 })
theorem wit_ak (A : Obligations.Fragments) : Completes (.ackReceived 2 8 3 3 3) x10n5 :=
  Runs.completes (((A.2 x10n5 2).1 8 3 3 3 (by decide +kernel) (by decide +kernel)))
def om : OutMsg := { session := some 4, bytes := [4, 1, 1] }
def x10n6 := (kl { nextMsgId := 65535, outQ := [om], frags := [{ sends := 1 }], cur := some ses })
theorem wit_ak_2 (A : Obligations.Fragments) : Completes (.ackReceived 2 65535 1 0 3) x10n6 := by
  refine Runs.completes (((A.2 x10n6 2).2.1 65535 0 3 om { sends := 1 } ses ?_ ?_ ?_ ?_ ?_ ?_ ?_ ?_ ?_)) <;> decide +kernel
def x10n7 := (up (kl { ackDue := some (1, 2, 3), ackEdge := 2 ^ 50 }))
theorem wit_as (A : Obligations.Fragments) : Completes (.ackSend 2) x10n7 :=
  Runs.completes (((A.2 x10n7 2).2.2.1 1 2 3 (by decide +kernel) (by decide +kernel) (by decide +kernel)).1 (by decide +kernel))
def x10n8 := (up (kl { ackDue := some (1, 2, 3), ackEdge := 2 ^ 50 + 1 }))
theorem wit_as_2 (A : Obligations.Fragments) : Completes (.ackSend 2) x10n8 :=
  Runs.completes (((A.2 x10n8 2).2.2.1 1 2 3 (by decide +kernel) (by decide +kernel) (by decide +kernel)).2 (by decide +kernel))
def x10n9 := (kl { ackDue := some (1, 2, 3), holdUntil := some 1 })
theorem wit_as0 (A : Obligations.Fragments) : Completes (.ackSend 2) x10n9 :=
  Runs.completes (((A.2 x10n9 2).2.2.2.1 (by decide +kernel)).1)
def x10n10 := (kl { outQ := [om], frags := [{ sends := 1 }], holdUntil := some 1 })
theorem wit_rt0 (A : Obligations.Fragments) : Completes (.fragmentRetransmit 2 0) x10n10 :=
  Runs.completes (((A.2 x10n10 2).2.2.2.1 (by decide +kernel)).2 0)
def x10n11 := (up (kl { outQ := [om], frags := [{ sends := 1 }] }))
theorem wit_rt (A : Obligations.Fragments) : Completes (.fragmentRetransmit 2 0) x10n11 := by
  refine Runs.completes (((A.2 x10n11 2).2.2.2.2 0 om { sends := 1 } ?_ ?_ ?_ ?_ ?_ ?_ ?_ ?_)) <;> decide +kernel
def hs : Session := { ses with st := .offered, offer := [1], kctl := [] }
def x10n12 := (kl { outQ := [om], frags := [{ sends := 20 }], cur := some hs, holdK := 3 })
theorem wit_fe (A : Obligations.KindleTimers) : Completes (.fragmentRetriesExhausted 2 0) x10n12 := by
  refine Runs.completes (((A.1 x10n12 2 hs ?_ ?_ ?_).1 0 om { sends := 20 } ?_ ?_ ?_ ?_ ?_ ?_)) <;> decide +kernel
def x10n13 := (kl { outQ := [om], frags := [{ sends := 100 }], cur := some hs, holdK := 3 })
theorem wit_mt (A : Obligations.KindleTimers) : Completes (.messageTimeout 2) x10n13 := by
  refine Runs.completes (((A.1 x10n13 2 hs ?_ ?_ ?_).2.1 om ?_ ?_ ?_ ?_)) <;> decide +kernel
def x10n14 := (kl { outQ := [om], frags := [{ sends := 100 }], cur := some hs, holdK := 3 })
theorem wit_st (A : Obligations.KindleTimers) : Completes (.stateTimeout 2 false) x10n14 :=
  Runs.completes (((A.1 x10n14 2 hs (by decide +kernel) (by decide +kernel) (by decide +kernel)).2.2.1 (by decide +kernel) (by decide +kernel)))
def x10n15 := (kl { outQ := [om], cur := some { hs with since := 2 ^ 50 } })
def x10n16 := { hs with since := 2 ^ 50 }
theorem wit_st_2 (A : Obligations.KindleTimers) : Completes (.stateTimeout 2 false) x10n15 :=
  Runs.completes (((A.1 x10n15 2 x10n16 (by decide +kernel) (by decide +kernel) (by decide +kernel)).2.2.2 (by decide +kernel)))
-- messages
def hdr (ty : Nat) (n : Nat) (tag : Nat) : List Byte := [BitVec.ofNat 8 ty, 1, 1, BitVec.ofNat 8 tag] ++ beBytes 4 n ++ [1,2,3,4,5,6,7,8] ++ List.replicate 16 0
def x10n17 := (kl { inbox := [hdr 1 32 0, [3]] })
theorem wit_offer (A : Obligations.Handshakes) : Completes (.offer 2) x10n17 := by
  refine Runs.completes ((A.1 x10n17 2 (hdr 1 32 0) [[3]] ?_ ?_ ?_).1 ?_ ?_ ?_) <;> decide +kernel
def x10n18 := (kl { inbox := [hdr 2 32 0, [3]], cur := some hs })
theorem wit_answer_bad (A : Obligations.Handshakes) : Completes (.answer 2) x10n18 := by
  refine Runs.completes ((((A.1 x10n18 2 (hdr 2 32 0) [[3]] ?_ ?_ ?_).2 hs ?_ ?_ ?_).1 ?_ ?_)) <;> decide +kernel
def pm : List Byte := hdr 3 6235 0 ++ beBytes 2 1568 ++ List.replicate 6201 0
def x10n19 := (kl { inbox := [pm, [3]], cur := some { hs with st := .answered, initiator := false } })
theorem wit_proof (A : Obligations.Handshakes) : Completes (.proof 2) x10n19 := by
  refine Runs.completes ((((A.1 x10n19 2 pm [[3]] rfl ?_ ?_).2 { hs with st := .answered, initiator := false } ?_ ?_ ?_).2.1 ?_ ?_ ?_)) <;> decide +kernel
def x10n20 := (kl { inbox := [pm ++ [1], [3]], cur := some { hs with st := .answered, initiator := false } })
theorem wit_proof_bad (A : Obligations.Handshakes) : Completes (.proof 2) x10n20 := by
  refine Runs.completes ((((A.1 x10n20 2 (pm ++ [1]) [[3]] rfl ?_ ?_).2 { hs with st := .answered, initiator := false } ?_ ?_ ?_).2.1 ?_ ?_ ?_)) <;> decide +kernel
def cs : Session := { hs with st := .confirming }
def cm : List Byte := hdr 4 96 0 ++ slice (cs.confirmTag (!cs.initiator)) 0 64
theorem cm_bad_size : sizeOk (cm.set 95 7) 96 = true := by
  have : cm.set 95 7 = hdr 4 96 0 ++ (slice (cs.confirmTag (!cs.initiator)) 0 64).set 63 7 :=
    List.set_append_right _ _ (by decide)
  rw [this]
  exact size_ok _ _ _ (by rw [List.length_set]; exact slice_length _ _ _) (by decide +kernel)
def x10n21 := (kl { inbox := [cm, [3]], cur := some cs })
theorem wit_confirm (A : Obligations.Handshakes) : Completes (.confirm 2) x10n21 := by
  refine Runs.completes ((((A.1 x10n21 2 cm [[3]] rfl ?_ ?_).2 cs ?_ ?_ ?_).2.2 ?_ ?_ (size_ok _ _ _ (slice_length _ _ _) ?_))) <;> decide +kernel
def x10n22 := (kl { inbox := [cm.set 95 7, [3]], cur := some cs })
theorem wit_confirm_bad (A : Obligations.Handshakes) : Completes (.confirm 2) x10n22 := by
  refine Runs.completes ((((A.1 x10n22 2 (cm.set 95 7) [[3]] rfl ?_ ?_).2 cs ?_ ?_ ?_).2.2 ?_ ?_ cm_bad_size)) <;> decide +kernel
def ct (pre : List Byte) : List Byte := pre ++ slice (controlTag [1] pre) 0 64
def km (ty : Nat) (body : List Byte) : List Byte := ct (hdr ty (32 + body.length + 64) 1 ++ body)
theorem km_genuine {s : State} {k ty : Nat} {body : List Byte} {rest : List (List Byte)} {n : Nat} {u : Bool}
    (h4 : (hdr ty (32 + body.length + 64) 1 ++ body).length + 64 = n ∧
      8 ≤ (hdr ty (32 + body.length + 64) 1 ++ body).length ∧ beAt (hdr ty (32 + body.length + 64) 1 ++ body) 4 4 = n)
    (h1 : let l := (s.modLink k (fun l => { l with inbox := rest })).link k
      let m := km ty body
      l.names m = some false ∧ l.cur = some ses ∧ ses.pending = none ∧ ses.st = .live ∧ beAt m 20 4 = ses.gen ∧
      bit (byteAt m 3) 0 = true ∧ ses.kctl.isEmpty = false ∧ ¬ beAt m 24 4 < ses.seqIn) :
    s.genuine k (km ty body) rest n ses u := genuine_of (x := ses) h4 h1
def z (n : Nat) : List Byte := List.replicate n 0
def r0 : Roll := { stage := .proposed, proposer := true, target := 9, rolled := [], switchAt := some 100 }
def kk (m : List Byte) (l : Link) : Machine.State := kl { l with inbox := [m, [3]], cur := some ses }
def x10n23 := (kk (km 5 (beBytes 4 9 ++ beBytes 4 3 ++ z 8)) {})
theorem wit_propose (A : Obligations.ControlMessages) : Completes (.rollPropose 2) x10n23 := by
  refine Runs.completes ((A x10n23 2 (km 5 (beBytes 4 9 ++ beBytes 4 3 ++ z 8)) [[3]] ses rfl ?_ ?_).1 ?_ (km_genuine ?_ ?_) ?_ ?_) <;> decide +kernel
def x10n24 := (kk (km 6 (beBytes 4 9 ++ beBytes 4 3 ++ z 8)) { roll := some r0, ackHold := some 3 })
theorem wit_ready (A : Obligations.ControlMessages) : Completes (.rollReady 2) x10n24 := by
  refine Runs.completes ((A x10n24 2 (km 6 (beBytes 4 9 ++ beBytes 4 3 ++ z 8)) [[3]] ses rfl ?_ ?_).2.1 r0 ?_ (km_genuine ?_ ?_) ?_ ?_ ?_ ?_) <;> decide +kernel
def x10n25 := (kk (km 7 (beBytes 4 9 ++ beBytes 4 3 ++ z 8)) { roll := some { r0 with stage := .ended, doneSent := true }, epoch := 9, rollsDone := 65535 })
theorem wit_done (A : Obligations.ControlMessages) : Completes (.rollDone 2) x10n25 := by
  refine Runs.completes ((A x10n25 2 (km 7 (beBytes 4 9 ++ beBytes 4 3 ++ z 8)) [[3]] ses rfl ?_ ?_).2.2.1 { r0 with stage := .ended, doneSent := true } ?_ (km_genuine ?_ ?_) ?_ ?_ ?_ ?_) <;> decide +kernel
def x10n26 := (kk (km 8 (z 1608)) {})
theorem wit_rkreq (A : Obligations.ControlMessages) : Completes (.rekeyRequest 2) x10n26 := by
  refine Runs.completes ((A x10n26 2 (km 8 (z 1608)) [[3]] ses rfl ?_ ?_).2.2.2.1 ?_ ?_ (km_genuine ?_ ?_) ?_ ?_) <;> decide +kernel
def x10n27 := (kk (km 8 ([1] ++ z 1607)) { rekeySince := some 3 })
theorem wit_rkresp (A : Obligations.ControlMessages) : Completes (.rekeyResponse 2) x10n27 := by
  refine Runs.completes ((A x10n27 2 (km 8 ([1] ++ z 1607)) [[3]] ses rfl ?_ ?_).2.2.2.2.1 ?_ ?_ (km_genuine ?_ ?_) ?_ ?_) <;> decide +kernel
def x10n28 := (kk (km 10 (z 8)) {})
theorem wit_keep (A : Obligations.ControlMessages) : Completes (.keepalive 2) x10n28 := by
  refine Runs.completes ((A x10n28 2 (km 10 (z 8)) [[3]] ses rfl ?_ ?_).2.2.2.2.2.1 ?_ (km_genuine ?_ ?_) ?_) <;> decide +kernel
def x10n29 := (kk (km 9 ([7] ++ z 7)) {})
theorem wit_abort (A : Obligations.ControlMessages) : Completes (.abort 2) x10n29 :=
  Runs.completes ((A x10n29 2 (km 9 ([7] ++ z 7)) [[3]] ses rfl (by decide +kernel) (by decide +kernel)).2.2.2.2.2.2 (by decide +kernel) (km_genuine (by decide +kernel) (by decide +kernel)))
-- comes up
def kx (x : Session) (l : Link) : Machine.State := kl { l with cur := some x }
def x10n30 := (kx { hs with ops := [.keygen, .encaps] } {})
def x10n31 := { hs with ops := [.keygen, .encaps] }
theorem wit_lat (A : Obligations.Handshakes) : Completes (.latticeOpDone (some 2) false) x10n30 :=
  Runs.completes ((A.2 x10n30 2 x10n31 (by decide +kernel) (by decide +kernel)).1 .encaps [] (by decide +kernel) (by decide +kernel))
def x10n32 := (kx { hs with ops := [.keygen], goal := some .sendOffer } {})
def x10n33 := { hs with ops := [.keygen], goal := some .sendOffer }
theorem wit_lat2 (A : Obligations.Handshakes) : Completes (.latticeOpDone (some 2) false) x10n32 :=
  Runs.completes ((A.2 x10n32 2 x10n33 (by decide +kernel) (by decide +kernel)).2.1 (by decide +kernel) (by decide +kernel) (by decide +kernel))
def ka (e : Assoc) (x : Session) (l : Link) : Machine.State := (kx x l).setAsn 77 { e with port := 5 }
def x10n34 := (ka { state := .kindling } { hs with toStage := [77], stageAt := some 4 } {})
def x10n35 := { hs with toStage := [77], stageAt := some 4 }
theorem wit_kd (A : Obligations.Handshakes) : Completes (.keyDeriveDone 2) x10n34 := by
  refine Runs.completes ((A.2 x10n34 2 x10n35 ?_ ?_).2.2.1 77 4 ?_ ?_ ?_ ?_ ?_) <;> decide +kernel
def x10n36 := (ka { state := .kindling, ph0 := { key := 5, salt := 7 } } { hs with staged := [77], epoch := 4 } { installAt := some 3 })
def x10n37 := { hs with staged := [77], epoch := 4 }
theorem wit_pi (A : Obligations.Handshakes) : Completes (.phase0Install 2) x10n36 := by
  refine Runs.completes ((A.2 x10n36 2 x10n37 ?_ ?_).2.2.2.1 77 3 ?_ ?_ ?_ ?_ ?_ ?_) <;> decide +kernel
def x10n38 := { kx cs {} with cycle := 7 }
theorem wit_sl0 (A : Obligations.Handshakes) : Completes (.sessionLive 2) x10n38 :=
  Runs.completes ((A.2 x10n38 2 cs (by decide +kernel) (by decide +kernel)).2.2.2.2.1 (by decide +kernel))
def x10n39 := (kx { cs with peerConfirmed := true, ownConfirmed := true, installed := true } {})
def x10n40 := { cs with peerConfirmed := true, ownConfirmed := true, installed := true }
theorem wit_sl (A : Obligations.Handshakes) : Completes (.sessionLive 2) x10n39 :=
  Runs.completes ((A.2 x10n39 2 x10n40 (by decide +kernel) (by decide +kernel)).2.2.2.2.2.1 (by decide +kernel) (by decide +kernel) (by decide +kernel))
def ok1 : Machine.State := (((ka { state := .kindling, session := 4, ph0 := { key := 5, salt := 7, valid := true } } ses {}).wr (F.pageReady .kvt) 1).wr (F.pageReady .stv) 1).wr (F.pageReady .sea) 1 5
theorem wit_sl2 (A : Obligations.Handshakes) : Completes (.sessionLive 2) ok1 := by
  refine Runs.completes ((A.2 ok1 2 ses ?_ ?_).2.2.2.2.2.2 77 ?_ ?_ ?_ ?_ ?_ ?_ ?_ ?_ ?_) <;> decide +kernel
def x10n41 := (kl { holdUntil := some 7 })
theorem wit_ho (A : Obligations.Links) : Completes (.holdoffEnd 2) x10n41 := by
  refine Runs.completes ((A.2 x10n41 2 ?_ ?_ ?_ ?_).1 7 ?_ ?_) <;> decide +kernel
def x10n42 := ((kl { holdUntil := some 7 }).wr F.kdlLinkCfgStart 1 0 2)
theorem wit_ho1 (A : Obligations.Links) : Completes (.holdoffEnd 2) x10n42 := by
  refine Runs.completes ((A.2 x10n42 2 ?_ ?_ ?_ ?_).1 7 ?_ ?_) <;> decide +kernel
def x10n43 := (kl { waitsCtx := true })
theorem wit_cf (A : Obligations.Links) : Completes (.contextFreed 2) x10n43 := by
  refine Runs.completes ((A.2 x10n43 2 ?_ ?_ ?_ ?_).2 ?_ ?_) <;> decide +kernel
def x10n44 := (kx ses {})
theorem wit_kt (A : Obligations.KindleTimers) : Completes (.keepaliveTimer 2) x10n44 := by
  refine Runs.completes ((A.2 x10n44 2 ses ?_ ?_ ?_ ?_).1 ?_ ?_) <;> decide +kernel
def x10n45 := ((kx ses {}).wr F.kdlLinkCfgStart 0 0 2)
theorem wit_ps (A : Obligations.KindleTimers) : Completes (.peerSilent 2) x10n45 := by
  refine Runs.completes ((A.2 x10n45 2 ses ?_ ?_ ?_ ?_).2.1 ?_ ?_ ?_) <;> decide +kernel
def wl : Machine.State := ((kx ses {}).wr F.kdlTmr1RekeyLog2 16).wr F.kdlTmr1ReauthLog2 20
theorem wit_rk (A : Obligations.KindleTimers) : Completes (.rekeyTimer 2) wl := by
  refine Runs.completes ((A.2 wl 2 ses ?_ ?_ ?_ ?_).2.2.1 65536 ?_ ?_ ?_ ?_) <;> decide +kernel
theorem wit_ra (A : Obligations.KindleTimers) : Completes (.reauthTimer 2) wl := by
  refine Runs.completes ((A.2 wl 2 ses ?_ ?_ ?_ ?_).2.2.2.1 (2 ^ 20) ?_ ?_ ?_) <;> decide +kernel
def x10n46 := ((kx ses { roll := some r0, fails := 15 }).wr F.kdlLinkRollCfgFailLimit 0 0 2)
theorem wit_rt_2 (A : Obligations.KindleTimers) : Completes (.rollTimeout 2) x10n46 := by
  refine Runs.completes ((A.2 x10n46 2 ses ?_ ?_ ?_ ?_).2.2.2.2.1 r0 ?_ ?_ ?_ ?_ ?_ ?_) <;> decide +kernel
def x10n47 := ((kx ses { rekeySince := some 8, fails := 15 }).wr F.kdlLinkRollCfgFailLimit 0 0 2)
theorem wit_rkt (A : Obligations.KindleTimers) : Completes (.rekeyTimeout 2) x10n47 := by
  refine Runs.completes ((A.2 x10n47 2 ses ?_ ?_ ?_ ?_).2.2.2.2.2.1 8 ?_ ?_ ?_) <;> decide +kernel
def x10n48 := (kx ses { roll := some { r0 with stage := .ended } })
theorem wit_dm (A : Obligations.KindleTimers) : Completes (.doneMissing 2) x10n48 := by
  refine Runs.completes ((A.2 x10n48 2 ses ?_ ?_ ?_ ?_).2.2.2.2.2.2 { r0 with stage := .ended } ?_ ?_ ?_ ?_) <;> decide +kernel

end W10

namespace W11

def sl (ty : Nat) : Slot := { present := true, usable := true, type := ty, uses := usesUnlimited, exportable := true, material := List.replicate 32 5 }
def tag (kint : List Byte) (v : Nat) (x : Slot) : Slot := { x with tag := x.tagFor kint v }
def vs : Machine.State := { W [(F.pageReady .kvt, 1, 0, 0), (F.devModeMode, 4, 0, 0), (F.kvtArgType, 5, 0, 0), (F.kvtUsesUses, 7, 0, 0), (F.kvtDrbgEsOk, 1, 0, 0), (F.kvtArgCtxLen, 5, 0, 0), (F.kvtScrubScrubLog2, 12, 0, 0), (F.devBootVersion, 0x500, 0, 0)] with tick := 4096, vault := { slots := [(0, tag [] 0 (sl 2)), (3, tag [] 3 (sl 4)), (4, tag [] 4 (sl 1)), (6, tag [] 6 (sl 5))] } }
theorem wit_ref (A : Obligations.VaultCommandsRefused) : Completes ((Instr.generate 3 8999, vs.vaultCapture 1 3 0).fst) vs :=
  Runs.completes (((A vs 3 4 true 8999 (by decide +kernel)).1 (by decide +kernel)).1 (.generate 3 8999, vs.vaultCapture 1 3 0) (by decide +kernel) (by decide +kernel))
theorem wit_ref_2 (A : Obligations.VaultCommandsRefused) : Completes ((Instr.derive 3 4 8999, vs.vaultCapture 2 3 4).fst) vs :=
  Runs.completes (((A vs 3 4 true 8999 (by decide +kernel)).1 (by decide +kernel)).1 (.derive 3 4 8999, vs.vaultCapture 2 3 4) (by decide +kernel) (by decide +kernel))
theorem wit_ref_3 (A : Obligations.VaultCommandsRefused) : Completes ((Instr.attest 3 8999, (vs.wr F.devModeMode 9).vaultCapture 6 3 0).fst) (vs.wr F.devModeMode 9) :=
  Runs.completes (((A (vs.wr F.devModeMode 9) 3 4 true 8999 (by decide +kernel)).1 (by decide +kernel)).1 (.attest 3 8999, (vs.wr F.devModeMode 9).vaultCapture 6 3 0) (by decide +kernel) (by decide +kernel))
theorem wit_unk (A : Obligations.VaultCommandsRefused) : Completes (.kvtUnknownOp 8999) vs :=
  Runs.completes (((A vs 3 4 true 8999 (by decide +kernel)).1 (by decide +kernel)).2 (by decide +kernel) (by decide +kernel))
theorem wit_lost (A : Obligations.VaultCommandsRefused) : Completes (.scrub 8999) (vs.wr F.kvtStatBusy 1) :=
  Runs.completes (((A (vs.wr F.kvtStatBusy 1) 3 4 true 8999 (by decide +kernel)).2 (by decide +kernel)) (.scrub 8999) (by decide +kernel))
theorem wit_gen (A : Obligations.VaultCommandsCommit) : Completes (.generate 9 8999) vs :=
  Runs.completes ((A vs 9 4 8999 (by decide +kernel) (by decide +kernel)).1 _ rfl (by decide +kernel))
def x11n1 := { vs with vault := {} }
theorem wit_idg (A : Obligations.VaultCommandsCommit) : Completes (.identityGen 0 8999) x11n1 :=
  Runs.completes ((A x11n1 0 4 8999 (by decide +kernel) (by decide +kernel)).2.1 _ rfl (by decide +kernel))
theorem wit_der (A : Obligations.VaultCommandsCommit) : Completes (.derive 9 3 8999) vs :=
  Runs.completes ((A vs 9 3 8999 (by decide +kernel) (by decide +kernel)).2.2.1 _ rfl (by decide +kernel) (by exact granted (by decide +kernel) rfl))
theorem wit_imp (A : Obligations.VaultCommandsCommit) : Completes (.importWrapped 9 4 8999) vs :=
  Runs.completes ((A vs 9 4 8999 (by decide +kernel) (by decide +kernel)).2.2.2.1 _ rfl (by decide +kernel) (by exact granted (by decide +kernel) rfl))
--#eval (vs.vaultCheck (vs.vaultCapture 3 9 4), (vs.takeUse 4).2, Config.kwpUnwrap (vs.slot 4).aesKey (vs.vaultCapture 3 9 4).data)
theorem wit_ims (A : Obligations.VaultCommandsCommit) : Completes (.importSlot 9 35 9 (List.replicate 32 1) 8999) (vs.wr F.ofcStatSession 1) :=
  Runs.completes ((A (vs.wr F.ofcStatSession 1) 9 4 8999 (by decide +kernel) (by decide +kernel)).2.2.2.2.1 0x23 9 (List.replicate 32 1) _ (by decide +kernel) rfl (by decide +kernel))
theorem wit_ims_2 (A : Obligations.VaultCommandsCommit) : Completes (.importSlot 9 35 9 (List.replicate 32 1) 8999) vs :=
  Runs.completes ((A vs 9 4 8999 (by decide +kernel) (by decide +kernel)).2.2.2.2.2 0x23 9 (List.replicate 32 1) (by decide +kernel) (by decide +kernel) (by decide +kernel))
theorem wit_del (A : Obligations.VaultCommandsAnswer) : Completes (.delete 3 8999) vs :=
  Runs.completes ((A.1 vs 3 4 8999 (by decide +kernel) (by decide +kernel)).1 (by decide +kernel))
theorem wit_kcv (A : Obligations.VaultCommandsAnswer) : Completes (.kcv 3 8999) vs :=
  Runs.completes ((A.1 vs 3 4 8999 (by decide +kernel) (by decide +kernel)).2.1 (by decide +kernel))
theorem wit_crt (A : Obligations.VaultCommandsAnswer) : Completes (.readCert 8999) vs :=
  Runs.completes ((A.1 vs 3 4 8999 (by decide +kernel) (by decide +kernel)).2.2.1 (by decide +kernel))
theorem wit_exp (A : Obligations.VaultCommandsAnswer) : Completes (.exportWrapped 3 4 8999) vs :=
  Runs.completes ((A.1 vs 3 4 8999 (by decide +kernel) (by decide +kernel)).2.2.2.1 (by decide +kernel) (by exact granted (by decide +kernel) rfl))
theorem wit_att (A : Obligations.VaultCommandsAnswer) : Completes (.attest 3 8999) vs :=
  Runs.completes ((A.1 vs 3 4 8999 (by decide +kernel) (by decide +kernel)).2.2.2.2.1 _ rfl (by decide +kernel) (by exact granted (by decide +kernel) rfl))
theorem wit_esr (A : Obligations.VaultCommandsAnswer) : Completes (.esRestart true 8999) vs :=
  Runs.completes (((A.1 vs 3 4 8999 (by decide +kernel) (by decide +kernel)).2.2.2.2.2.1 (by decide +kernel)).1)
theorem wit_esr_2 (A : Obligations.VaultCommandsAnswer) : Completes (.esRestart false 8999) vs :=
  Runs.completes (((A.1 vs 3 4 8999 (by decide +kernel) (by decide +kernel)).2.2.2.2.2.1 (by decide +kernel)).2)
def vb : Machine.State := { vs with vault.slots := [(3, sl 5), (4, { sl 5 with bad := true }), (6, tag [] 6 (sl 5))] }
theorem wit_scrub (A : Obligations.VaultCommandsAnswer) : Completes (.scrub 8999) vb :=
  Runs.completes (((A.1 vb 3 4 8999 (by decide +kernel) (by decide +kernel)).2.2.2.2.2.2 (by decide +kernel)))
def vc : Machine.State := { vs.wr F.kvtStatBusy 1 with vault.cmd := some { op := 1, slot := 9, image := some (sl 5) } }
theorem wit_cd (A : Obligations.VaultCommandsAnswer) : Completes (.vaultCommitDone) vc := by
  refine Runs.completes (((A.2 vc).1 { op := 1, slot := 9, image := some (sl 5) } (sl 5) ?_ ?_ ?_ ?_ ?_).1 ?_) <;> decide +kernel
theorem wit_cd_2 (A : Obligations.VaultCommandsAnswer) : Completes (.vaultCommitDone) (vc.wr F.pwrStatNvInhibit 1) := by
  refine Runs.completes (((A.2 (vc.wr F.pwrStatNvInhibit 1)).1 { op := 1, slot := 9, image := some (sl 5) } (sl 5) ?_ ?_ ?_ ?_ ?_).2 ?_) <;> decide +kernel
def x11n2 := { vs with vault := { reserving := [(3, 60), (4, 5)], slots := [(3, { sl 5 with uses := 100, stock := 4 })] } }
theorem wit_ur (A : Obligations.VaultCommandsAnswer) : Completes (.useReservation 3) x11n2 :=
  Runs.completes (((A.2 x11n2).2.1 3 60 (by decide +kernel) (by decide +kernel) (by decide +kernel) (by decide +kernel)))
theorem wit_st (A : Obligations.VaultCommandsAnswer) : Completes (.scrubTimer) vb :=
  Runs.completes ((A.2 vb).2.2.1 (by decide +kernel) (by decide +kernel) (by decide +kernel))
theorem wit_st0 (A : Obligations.VaultCommandsAnswer) : Completes (.scrubTimer) (vb.wr F.kvtScrubScrubLog2 0) :=
  Runs.completes ((A.2 (vb.wr F.kvtScrubScrubLog2 0)).2.2.2.1 (by decide +kernel))
theorem wit_otp (A : Obligations.VaultCommandsAnswer) : Completes (.otpAdvance 5 60 7) vs :=
  Runs.completes ((A.2 vs).2.2.2.2.1 5 7 (by decide +kernel) (by decide +kernel) (by decide +kernel) (by decide +kernel) (by decide +kernel))
theorem wit_otp_2 (A : Obligations.VaultCommandsAnswer) : Completes (.otpAdvance 6 60 7) vs :=
  Runs.completes ((A.2 vs).2.2.2.2.2.1 6 0x3C 7 (by decide +kernel) (by decide +kernel))
def x11n3 := { vs.wr F.kvtOtpBusy 1 with vault.otpRun := some (5, 4000) }
theorem wit_od0 (A : Obligations.VaultCommandsAnswer) : Completes (.otpDone) x11n3 :=
  Runs.completes ((A.2 x11n3).2.2.2.2.2.2.1 5 4000 (by decide +kernel) (by decide +kernel) (by decide +kernel))
def x11n4 := { vs.wr F.kvtOtpBusy 1 with vault.otpRun := some (5, 9) }
theorem wit_od (A : Obligations.VaultCommandsAnswer) : Completes (.otpDone) x11n4 :=
  Runs.completes ((A.2 x11n4).2.2.2.2.2.2.2.1 5 9 (by decide +kernel) (by decide +kernel) (by decide +kernel))
def va : Machine.State := { vs.wr F.kvtStatBusy 1 with vault.cmd := some { op := 6, slot := 3, began := 4032 }, kindle.lattice := [.attest] }
theorem wit_at (A : Obligations.VaultCommandsAnswer) : Completes (.attestTimeout) va := by
  refine Runs.completes (((A.2 va).2.2.2.2.2.2.2.2 { op := 6, slot := 3, began := 4032 } ?_ ?_ ?_ ?_ ?_).1 ?_) <;> decide +kernel
def x11n5 := { va with tick := 4095 }
theorem wit_at_2 (A : Obligations.VaultCommandsAnswer) : Completes (.attestTimeout) x11n5 := by
  refine Runs.completes (((A.2 x11n5).2.2.2.2.2.2.2.2 { op := 6, slot := 3, began := 4032 } ?_ ?_ ?_ ?_ ?_).2.1 ?_) <;> decide +kernel
def vaa : Machine.State := { va with vault.cmd := some { op := 6, slot := 3, began := 4032, statement := [1, 2] } }
theorem wit_at_3 (A : Obligations.VaultCommandsAnswer) : Completes (.latticeOpDone none false) vaa := by
  refine Runs.completes (((A.2 vaa).2.2.2.2.2.2.2.2 { op := 6, slot := 3, began := 4032, statement := [1, 2] } ?_ ?_ ?_ ?_ ?_).2.2 ?_ ?_) <;> decide +kernel
theorem wit_at_4 (A : Obligations.VaultCommandsAnswer) : Completes (.latticeOpDone none false) (vaa.wr (F.pageReady Page.hst) 1) := by
  refine Runs.completes (((A.2 (vaa.wr (F.pageReady .hst) 1)).2.2.2.2.2.2.2.2 { op := 6, slot := 3, began := 4032, statement := [1, 2] } ?_ ?_ ?_ ?_ ?_).2.2 ?_ ?_) <;> decide +kernel
theorem wit_crtr (A : Obligations.VaultCommandsAnswer) : Completes (.readCert 8999) (vs.wr (F.pageReady Page.hst) 1) :=
  Runs.completes ((A.1 (vs.wr (F.pageReady .hst) 1) 3 4 8999 (by decide +kernel) (by decide +kernel)).2.2.1 (by decide +kernel))
theorem wit_kcv_2 (A : Obligations.KeyCheckValues) : Completes (.kcv 3 8999) vs :=
  Runs.completes ((A vs 3 8999 (by decide +kernel) (by decide +kernel)).1 _ rfl (by decide +kernel) (by decide +kernel))
theorem wit_kcv0 (A : Obligations.KeyCheckValues) : Completes (.kcv 0 8999) vs :=
  Runs.completes ((A vs 3 8999 (by decide +kernel) (by decide +kernel)).2 (by decide +kernel) (by decide +kernel))

end W11

namespace W12

def x0 : Machine.State := W [(F.pageReady .cxm, 1, 0, 0), (F.cxmRselRegion, 3, 0, 0), (F.cxmLinkState, 2, 0, 0), (F.cxmLinkCapacityGib, 640, 0, 0), (F.cxmRcfgSize, 1, 0, 3), (F.cxmRcfgUses, 1, 0, 3)]
theorem wit_en (A : Obligations.Regions) : Completes (.regionEnable 256 9) x0 :=
  Runs.completes (((A.1 x0 0x100 3 9).1 (by decide +kernel) (.regionEnable 0x100 9, 0x101) (by decide +kernel) _ _ rfl rfl).2 (by decide +kernel))
theorem wit_enref (A : Obligations.Regions) : Completes (.regionEnable 0 9) x0 :=
  Runs.completes (((A.1 x0 0x000 3 9).1 (by decide +kernel) (.regionEnable 0x000 9, 0x001) (by decide +kernel) _ _ rfl rfl).1 (by decide +kernel))
theorem wit_dis (A : Obligations.Regions) : Completes (.regionDisable 257 9) (x0.wr F.cxmRcfgEnable 1 0 3) :=
  Runs.completes (((A.1 (x0.wr F.cxmRcfgEnable 1 0 3) 0x101 3 9).1 (by decide +kernel) (.regionDisable 0x101 9, 0x100) (by decide +kernel) _ _ rfl rfl).2 (by decide +kernel))
def x12n1 := (x0.modRegion 3 (fun x => { x with state := 1 }))
theorem wit_rdy (A : Obligations.Regions) : Completes (.regionReady 3) x12n1 :=
  Runs.completes ((A.1 x12n1 0x101 3 9).2 (by decide +kernel))
def r1 : Region := { state := 2, cached := [(nodeKey 0 0, 1)], counters := [(1, 1)] }
def xs : Machine.State := (x0.wr F.cxmRcfgEnable 1 0 3).modRegion 3 (fun _ => r1)
def xt : Machine.State := (x0.wr F.cxmRcfgEnable 1 0 3).modRegion 3 (fun _ => { r1 with lines := [(1, (List.replicate 64 7, lineTag 0 (lineNonce false 3 1 1) (List.replicate 64 7)))] })
def xk : Machine.State := (xs.wr F.cxmRcfgKind 1 0 3)
def xk2 : Machine.State := xk.modRegion 3 (fun x => { x with lines := [(1, (List.replicate 64 7, []))] })
def xp : Machine.State := xs.modRegion 3 (fun x => { x with state := 3 })
theorem wit_rp (A : Obligations.SealedLinesAreRead) : Completes (.sealedLineRead 3 1 { }) xp :=
  Runs.completes ((A.1 xp 3 1 {} (by decide +kernel) (by decide +kernel)).1 (by decide +kernel))
theorem wit_rs1 (A : Obligations.SealedLinesAreRead) : Completes (.sealedLineRead 3 1 { data := MemAns.poison }) xk :=
  Runs.completes (((A.1 xk 3 1 { data := .poison } (by decide +kernel) (by decide +kernel)).2.1 (by decide +kernel) (by decide +kernel)).1 (by decide +kernel))
theorem wit_rs2 (A : Obligations.SealedLinesAreRead) : Completes (.sealedLineRead 3 1 { data := MemAns.other [1] }) xk :=
  Runs.completes (((A.1 xk 3 1 { data := .other [1] } (by decide +kernel) (by decide +kernel)).2.1 (by decide +kernel) (by decide +kernel)).2.1 [1] (by decide +kernel))
theorem wit_rs3 (A : Obligations.SealedLinesAreRead) : Completes (.sealedLineRead 3 1 { }) xk2 := by
  refine Runs.completes (((A.1 xk2 3 1 {} ?_ ?_).2.1 ?_ ?_).2.2.1 (1, (List.replicate 64 7, [])) ?_ ?_) <;> decide +kernel
theorem wit_rs4 (A : Obligations.SealedLinesAreRead) : Completes (.sealedLineRead 3 1 { }) xk := by
  refine Runs.completes (((A.1 xk 3 1 {} ?_ ?_).2.1 ?_ ?_).2.2.2 ?_ ?_) <;> decide +kernel
theorem wit_rz (A : Obligations.SealedLinesAreRead) : Completes (.sealedLineRead 3 2 { }) xs := by
  refine Runs.completes (((A.1 xs 3 2 {} ?_ ?_).2.2 ?_ ?_ ((xs.getLeaf 3 2 {}).1) ?_ _ _ _ _ _ rfl rfl rfl rfl rfl).1 ?_) <;> decide +kernel
theorem wit_rgood (A : Obligations.SealedLinesAreRead) : Completes (.sealedLineRead 3 1 { }) xt := by
  refine Runs.completes (((A.1 xt 3 1 {} ?_ ?_).2.2 ?_ ?_ ((xt.getLeaf 3 1 {}).1) (Prod.ext rfl ?_) _ _ _ _ _ rfl rfl rfl rfl rfl).2.1 ?_ ?_ ?_) <;> decide +kernel
theorem wit_rbad (A : Obligations.SealedLinesAreRead) : Completes (.sealedLineRead 3 1 { }) xs := by
  refine Runs.completes (((A.1 xs 3 1 {} ?_ ?_).2.2 ?_ ?_ ((xs.getLeaf 3 1 {}).1) ?_ _ _ _ _ _ rfl rfl rfl rfl rfl).2.1 ?_ ?_ ?_) <;> decide +kernel
theorem wit_rpo (A : Obligations.SealedLinesAreRead) : Completes (.sealedLineRead 3 1 { data := MemAns.poison }) xs := by
  refine Runs.completes (((A.1 xs 3 1 { data := .poison } ?_ ?_).2.2 ?_ ?_ ((xs.getLeaf 3 1 {}).1) ?_ _ _ _ _ _ rfl rfl rfl rfl rfl).2.2 ?_ ?_) <;> decide +kernel
theorem wit_rpo_2 (A : Obligations.SealedLinesAreRead) : Completes (.sealedLineRead 3 1 { tag := MemAns.poison }) xs := by
  refine Runs.completes (((A.1 xs 3 1 { tag := .poison } ?_ ?_).2.2 ?_ ?_ ((xs.getLeaf 3 1 {}).1) ?_ _ _ _ _ _ rfl rfl rfl rfl rfl).2.2 ?_ ?_) <;> decide +kernel
theorem wit_wn (A : Obligations.SealedLinesAreWritten) : Completes (.sealedLineWrite 3 1 4 [1] { }) xs :=
  Runs.completes ((A xs 3 1 4 [1] [1] {} (by decide +kernel) (by decide +kernel) (by decide +kernel)).1 (by decide +kernel))
theorem wit_wp (A : Obligations.SealedLinesAreWritten) : Completes (.sealedLineWrite 3 1 0 [1] { }) xp :=
  Runs.completes ((A xp 3 1 0 [1] [1] {} (by decide +kernel) (by decide +kernel) (by decide +kernel)).1 (by decide +kernel))
theorem wit_ws (A : Obligations.SealedLinesAreWritten) : Completes (.sealedLineWrite 3 1 0 [1] { }) xk2 := by
  refine Runs.completes ((A xk2 3 1 0 [1] [1] {} ?_ ?_ ?_).2.1 ?_ ?_ ?_) <;> decide +kernel
theorem wit_w (A : Obligations.SealedLinesAreWritten) : Completes (.sealedLineWrite 3 1 0 [1] { }) xs := by
  refine Runs.completes ((A xs 3 1 0 [1] [1] {} ?_ ?_ ?_).2.2 ?_ ?_ ?_ ((xs.getLeaf 3 1 {}).1) (((xs.getLeaf 3 1 {}).1).mayWrite 3 1).1 _ _ _ _ _ _ ?_ ?_ rfl rfl rfl rfl rfl rfl) <;> decide +kernel
theorem wit_w_2 (A : Obligations.SealedLinesAreWritten) : Completes (.sealedLineWrite 3 17 0 [1] { }) xs := by
  refine Runs.completes ((A xs 3 17 0 [1] [1] {} ?_ ?_ ?_).2.2 ?_ ?_ ?_ ((xs.getLeaf 3 17 {}).1) (((xs.getLeaf 3 17 {}).1).mayWrite 3 17).1 _ _ _ _ _ _ ?_ ?_ rfl rfl rfl rfl rfl rfl) <;> decide +kernel
theorem wit_nsl (A : Obligations.SealedLinesAreRead) :
    exec (Instr.sealedLineRead 3 (2 ^ 22) { }) xs = Host.Outcome.fault Fault.noSuchLine :=
  (A.2 xs 3 (2^22) 0 [1] {} (.sealedLineRead 3 (2^22) {}) (by decide +kernel)).1 (by decide +kernel) (by decide +kernel)
theorem wit_nsl_2 (A : Obligations.SealedLinesAreRead) :
    exec (Instr.sealedLineWrite 3 (2 ^ 22) 0 [1] { }) xs = Host.Outcome.fault Fault.noSuchLine :=
  (A.2 xs 3 (2^22) 0 [1] {} (.sealedLineWrite 3 (2^22) 0 [1] {}) (by decide +kernel)).1 (by decide +kernel) (by decide +kernel)
theorem wit_nsl_3 (A : Obligations.SealedLinesAreRead) : Completes (.sealedLineWrite 2 (2 ^ 22) 0 [1] { }) xs :=
  Runs.completes ((A.2 xs 2 (2^22) 0 [1] {} (.sealedLineWrite 2 (2^22) 0 [1] {}) (by decide +kernel)).2 (by decide +kernel))
def x12n2 := (xs.modRegion 3 (fun x => { x with due := true }))
theorem wit_sw (A : Obligations.Regions) : Completes (.sweepStart 3) x12n2 :=
  Runs.completes ((A.2 x12n2 3).1 (by decide +kernel) (by decide +kernel) (by decide +kernel))
def xsd : Machine.State := (xs.modRegion 3 (fun x => { x with sweep := true, pointer := 262144 }))
theorem wit_sd (A : Obligations.Regions) : Completes (.sweepDone 3) xsd :=
  Runs.completes ((A.2 xsd 3).2 (by decide +kernel) (by decide +kernel))
def cx : Machine.State := { W [(F.devModeMode, 4, 0, 0)] with pwr.sramZeroed := true }
theorem wit_up (A : Obligations.LinkAndPoison) : Completes (.cxlLinkTrained true 2 16 640) cx :=
  Runs.completes (((A.1 cx).1 2 16 640 (by decide +kernel) (by decide +kernel) (by decide +kernel)).1)
theorem wit_up_2 (A : Obligations.LinkAndPoison) : Completes (.cxlLinkTrained false 2 16 640) cx :=
  Runs.completes (((A.1 cx).1 2 16 640 (by decide +kernel) (by decide +kernel) (by decide +kernel)).2)
theorem wit_up2 (A : Obligations.LinkAndPoison) : Completes (.cxlLinkTrained true 2 16 640) (cx.wr (F.pageReady Page.tmp) 1) :=
  Runs.completes (((A.1 (cx.wr (F.pageReady .tmp) 1)).1 2 16 640 (by decide +kernel) (by decide +kernel) (by decide +kernel)).1)
theorem wit_up2_2 (A : Obligations.LinkAndPoison) : Completes (.cxlLinkTrained false 2 16 640) (cx.wr (F.pageReady Page.tmp) 1) :=
  Runs.completes (((A.1 (cx.wr (F.pageReady .tmp) 1)).1 2 16 640 (by decide +kernel) (by decide +kernel) (by decide +kernel)).2)
theorem wit_down (A : Obligations.LinkAndPoison) : Completes (.cxlLinkDown) xs :=
  Runs.completes ((A.1 xs).2.1 (by decide +kernel))
theorem wit_med (A : Obligations.LinkAndPoison) : Completes (.mediaEventPoll 5) xs :=
  Runs.completes ((A.1 xs).2.2 5 (by decide +kernel) (by decide +kernel) (by decide +kernel))
def xq : Machine.State := xs.poison 3 2 0 0 [] []
theorem wit_re (A : Obligations.LinkAndPoison) : Completes (.reinit 0 9) xq :=
  Runs.completes (((A.2 xq 0 9).1 (by decide +kernel) (by decide +kernel)).1 (by decide +kernel) (by decide +kernel))
theorem wit_re_2 (A : Obligations.LinkAndPoison) : Completes (.reinit 0 9) xs :=
  Runs.completes (((A.2 xs 0 9).1 (by decide +kernel) (by decide +kernel)).2 (by decide +kernel))
def x12n3 := { xq.wr F.cxmCmdStatBusy 1 with reinit := some 0 }
theorem wit_red (A : Obligations.LinkAndPoison) : Completes (.reinitDone) x12n3 :=
  Runs.completes ((A.2 x12n3 0 9).2 _ _ _ (by decide +kernel) (by decide +kernel) rfl rfl rfl)
def x12n4 := { (xs.poison 3 0 0 1 [] []).wr F.cxmCmdStatBusy 1 with reinit := some 0 }
theorem wit_red_2 (A : Obligations.LinkAndPoison) : Completes (.reinitDone) x12n4 :=
  Runs.completes ((A.2 x12n4 0 9).2 _ _ _ (by decide +kernel) (by decide +kernel) rfl rfl rfl)

end W12

namespace W13

def pk : Slot := { present := true, usable := true, type := 4, uses := usesUnlimited, material := List.replicate 32 5 }
def pkt : Slot := { pk with tag := pk.tagFor [] 9 }
def h0 : Machine.State := { W [(F.pageReady .flu, 1, 0, 0), (F.devModeMode, 4, 0, 0), (F.fluStatState, 3, 0, 0), (F.fluCfgPairSlot, 9, 0, 0), (F.fluStatLockHeld, 1, 0, 0), (F.fluCfgEnable, 1, 0, 0)] with tick := 1000, vault := { slots := [(9, pkt)] } }
def he : Hello := { side := true, claim := 0x8F08, nonce := List.replicate 32 9, kcv := (h0.slot 9).kcv, mode := 5 }
def hf (h : Hello) (f : MFrame) : List Byte := helloFrame { f with claim := h.claim, mode := h.mode } h.side h.nonce h.kcv
def mf : MFrame := { seq := 7, ack := 4, claim := 0x8F08, health := 65535, mode := 5, prev := 2, lock := false, valid := true }
def hh (s : Machine.State) (h : Hello) : Machine.State := s.modPair (fun p => { p with joined := [hf h { mf with seq := 0 }, mf.seal [1] true] })
theorem wit_low (A : Obligations.Flue) : Completes (.hello 77) (hh (h0.wr F.fluStatState 2) he) :=
  Runs.completes ((A.1 (hh (h0.wr F.fluStatState 2) he) 9 77 (by decide +kernel)).1 (by decide +kernel))
theorem wit_none (A : Obligations.Flue) : Completes (.hello 77) h0 :=
  Runs.completes ((A.1 h0 9 77 (by decide +kernel)).1 (by decide +kernel))
def x13n1 := (hh h0 { he with side := false })
theorem wit_side (A : Obligations.Flue) : Completes (.hello 77) x13n1 :=
  Runs.completes (((A.1 x13n1 9 77 (by decide +kernel)).2 (hf { he with side := false } { mf with seq := 0 }) _ (joined_first rfl (by decide +kernel)) rfl).1 (by decide +kernel) |>.1 (by decide +kernel))
def nf : List Byte := ((List.replicate 88 0).set 48 1 : List Byte) ++ (h0.slot 9).kcv.map (· + 1)
theorem nf_moves {s : State} (e : s.vault = h0.vault) : (readHello nf).kcv ≠ (s.slot 9).kcv := by
  have hk : (h0.slot 9).kcv.length = 32 := slice_length _ _ _
  have hl : ((h0.slot 9).kcv.map (· + 1)).length = 32 := by rw [List.length_map, hk]
  have h : (readHello nf).kcv = (h0.slot 9).kcv.map (· + 1) := slice_all _ 32 hl
  have es : s.slot 9 = h0.slot 9 := by rw [State.slot, State.slot, e]
  rw [h, es]
  exact Ne.symm (list_moves _ (fun z => by rw [z] at hk; cases hk))
def x13n2 := (h0.modPair (fun p => { p with joined := [nf] }))
theorem wit_mism (A : Obligations.Flue) : Completes (.hello 77) x13n2 :=
  Runs.completes ((((A.1 x13n2 9 77 (by decide +kernel)).2 nf _ (joined_first rfl (by decide +kernel)) rfl).1 (by decide +kernel)).2.1 (by decide +kernel) (by decide +kernel) (nf_moves rfl))
def kf : List Byte := ((List.replicate 88 0).set 48 1 : List Byte) ++ (h0.slot 9).kcv
theorem kcv_length : (h0.slot 9).kcv.length = 32 := slice_length _ _ _
theorem kf_same {s : State} (e : s.vault = h0.vault) : (readHello kf).kcv = (s.slot 9).kcv := by
  have h : (readHello kf).kcv = (h0.slot 9).kcv := slice_all _ 32 kcv_length
  rw [h, State.slot, State.slot, e]
def x13n3 := (h0.modPair (fun p => { p with joined := [kf] }))
theorem wit_key (A : Obligations.Flue) : Completes (.hello 77) x13n3 :=
  Runs.completes ((((A.1 x13n3 9 77 (by decide +kernel)).2 kf _ (joined_first rfl (by decide +kernel)) rfl).1 (by decide +kernel)).2.2 (by decide +kernel) (by decide +kernel) (kf_same rfl))
def hk : Machine.State := { h0.wr F.fluStatState 4 with pair := { peerNonces := [he.nonce], key := [1], lastRec := 9, unacked := [(3, .bulkEnd), (5, .bulkEnd)] } }
theorem wit_again (A : Obligations.Flue) : Completes (.hello 77) (hh hk he) :=
  Runs.completes ((((A.1 (hh hk he) 9 77 (by decide +kernel)).2 (hf he { mf with seq := 0 }) _ (joined_first rfl (by decide +kernel)) rfl).2 (by decide +kernel)).1 (by decide +kernel))
def x13n4 := (hh ((hk.wr F.fluStatMirrorValid 1).wr F.fluStatPartnerSync 1) { he with nonce := List.replicate 32 1 })
theorem wit_restart (A : Obligations.Flue) : Completes (.hello 77) x13n4 :=
  Runs.completes ((((A.1 x13n4 9 77 (by decide +kernel)).2 (hf { he with nonce := List.replicate 32 1 } { mf with seq := 0 }) _ (joined_first rfl (by decide +kernel)) rfl).2 (by decide +kernel)).2 (by decide +kernel))
def wire (f : MFrame) : List Byte := f.seal [1] true
def bad : List Byte := (wire mf).take 32 ++ ((wire mf).drop 32).map (· + 1)
def mfHead : List Byte := mirrorHeader true 48 mf
def mfTag : List Byte := gcmTag (keyOfBytes [1]) (mirrorIv true 7) mfHead []
theorem wire_is : wire mf = mfHead ++ mfTag := rfl
theorem tag_length : mfTag.length = 16 := rfl
theorem head_length : mfHead.length = 32 := rfl
theorem beAt_left (a t : List Byte) (i n : Nat) (h : i + n ≤ a.length) : beAt (a ++ t) i n = beAt a i n := by
  have e : ((a ++ t).drop i).take n = (a.drop i).take n := by
    rw [List.drop_append_of_le_length (by omega), List.take_append_of_le_length (by simp; omega)]
  simp only [beAt, slice, e]
theorem byteAt_left (a t : List Byte) (i : Nat) (h : i < a.length) : byteAt (a ++ t) i = byteAt a i := by
  simp [byteAt, List.getElem?_append_left h]
theorem header_left (t : List Byte) : readHeader (mfHead ++ t) = mf := by
  have b := fun i n (h : i + n ≤ 32) => beAt_left mfHead t i n (by rw [head_length]; exact h)
  have c := fun i (h : i < 32) => byteAt_left mfHead t i (by rw [head_length]; exact h)
  rw [readHeader, b 4 8 (by decide), b 12 8 (by decide), b 24 2 (by decide), b 26 2 (by decide),
    c 28 (by decide), c 29 (by decide), c 30 (by decide)]
  decide +kernel
theorem opens_if (t : List Byte) (h : t.length = 16) :
    openMirror [1] (mfHead ++ t) = if mfTag = t then some mf else none := by
  have hl : (mfHead ++ t).length = 48 := by rw [List.length_append, head_length, h]
  have ht : (mfHead ++ t).take 32 = mfHead := List.take_left' head_length
  have hd : (mfHead ++ t).drop 32 = t := List.drop_left' head_length
  have hr : readHeader (mfHead ++ t) = mf := header_left t
  have hs : bit (byteAt (mfHead ++ t) 3) 0 = true := by
    rw [byteAt_left _ _ _ (by rw [head_length]; decide)]; decide +kernel
  have hc : slice (mfHead ++ t) 32 0 = [] := by simp [slice]
  simp only [openMirror, hl, hr, hs, ht, Nat.reduceSub, hc, hd]
  rfl
theorem wire_opens : openMirror [1] (wire mf) = some mf := by
  rw [wire_is, opens_if _ tag_length, if_pos rfl]
theorem bad_is : bad = mfHead ++ mfTag.map (· + 1) := rfl
theorem bad_fails : openMirror [1] bad = none := by
  rw [bad_is, opens_if _ (by rw [List.length_map, tag_length]),
    if_neg (list_moves _ (fun e => nomatch e ▸ tag_length))]
def x13n5 := (hk.modPair (fun p => { p with joined := [bad] }))
theorem wit_tag (A : Obligations.Flue) : Completes (.mirrorFrameVerified 3 1) x13n5 :=
  Runs.completes ((((A.2 x13n5 3 1).2 bad (by decide +kernel) (joined_first rfl (by decide +kernel))).1 bad_fails))
def x13n6 := (hk.modPair (fun p => { p with joined := [wire mf] }))
theorem wit_new (A : Obligations.Flue) : Completes (.mirrorFrameVerified 3 1) x13n6 :=
  Runs.completes ((((A.2 x13n6 3 1).2 (wire mf) (by decide +kernel) (joined_first rfl (by decide +kernel))).2 mf wire_opens))
def x13n7 := (hk.modPair (fun p => { p with joined := [wire mf], waiting := [mf] }))
theorem wit_old (A : Obligations.Flue) : Completes (.mirrorFrameVerified 3 1) x13n7 :=
  Runs.completes ((((A.2 x13n7 3 1).2 (wire mf) (by decide +kernel) (joined_first rfl (by decide +kernel))).2 mf wire_opens))
def x13n8 := (hk.modPair (fun p => { p with joined := [wire mf], acked := 4 }))
theorem wit_oldack (A : Obligations.Flue) : Completes (.mirrorFrameVerified 3 1) x13n8 :=
  Runs.completes ((((A.2 x13n8 3 1).2 (wire mf) (by decide +kernel) (joined_first rfl (by decide +kernel))).2 mf wire_opens))
theorem wit_nok (A : Obligations.Flue) : Completes (.mirrorFrameVerified 3 1) h0 :=
  Runs.completes ((A.2 h0 3 1).1 (by decide +kernel))
def sl : Machine.State := { ((h0.wr F.fluStatMirrorValid 1).wr F.fluStatPartnerSync 1).setAsn 77 { state := .live, claimPending := true, pnMark := 2 ^ 24, nextPn := 5 } with pair := { missed := 16 } }
theorem wit_stale (A : Obligations.PairHealth) : Completes (.mirrorStale) sl :=
  Runs.completes ((A.1 sl).1 (by decide +kernel))
theorem wit_stale0 (A : Obligations.PairHealth) : Completes (.mirrorStale) h0 :=
  Runs.completes ((A.1 h0).2.1 (by decide +kernel))
theorem wit_sync (A : Obligations.PairHealth) : Completes (.partnerSyncLost) sl :=
  Runs.completes ((A.1 sl).2.2.1 (by decide +kernel))
theorem wit_age (A : Obligations.PairHealth) : Completes (.claimAgeExpiry) h0 :=
  Runs.completes ((A.1 h0).2.2.2.1 (by decide +kernel) (by decide +kernel))
theorem wit_age_2 (A : Obligations.PairHealth) : Completes (.claimAgeExpiry) ((h0.wr F.devModeMode 11).wr F.devModePrevMode 4) :=
  Runs.completes ((A.1 ((h0.wr F.devModeMode 11).wr F.devModePrevMode 4)).2.2.2.2.1 (by decide +kernel) (by decide +kernel) (by decide +kernel))
def x13n9 := { h0 with pair := { claimAt := 999 } }
theorem wit_age_3 (A : Obligations.PairHealth) : Completes (.claimAgeExpiry) x13n9 :=
  Runs.completes ((A.1 x13n9).2.2.2.2.2.1 (by decide +kernel))
theorem wit_claim (A : Obligations.PairHealth) : Completes (.claimFrame 4656 (BitVec.ofNat 4 (claimCrc 4656))) h0 :=
  Runs.completes (((A.1 h0).2.2.2.2.2.2 0x1230 (BitVec.ofNat 4 (claimCrc 0x1230))).1 (by decide +kernel))
theorem wit_claim_2 (A : Obligations.PairHealth) : Completes (.claimFrame 4656 (BitVec.ofNat 4 (claimCrc 4656) ^^^ 2)) h0 :=
  Runs.completes (((A.1 h0).2.2.2.2.2.2 0x1230 (BitVec.ofNat 4 (claimCrc 0x1230) ^^^ 2)).2 (by decide +kernel))
theorem wit_ho (A : Obligations.PairHealth) : Completes (.handover 9999) h0 :=
  Runs.completes (((A.2.1 h0).1 9999 (by decide +kernel)).1)
theorem wit_rs (A : Obligations.PairHealth) : Completes (.resync 9998) h0 :=
  Runs.completes (((A.2.1 h0).1 9998 (by decide +kernel)).2)
def x13n10 := { h0 with pair := { handover := some 998, noAdmit := true } }
theorem wit_hr (A : Obligations.PairHealth) : Completes (.handoverRelease) x13n10 :=
  Runs.completes ((A.2.1 x13n10).2.1 998 (by decide +kernel) (by decide +kernel))
def x13n11 := { h0.wr F.devModeMode 11 with pair := { handover := some 998, noAdmit := true } }
theorem wit_hr_2 (A : Obligations.PairHealth) : Completes (.handoverRelease) x13n11 :=
  Runs.completes ((A.2.1 x13n11).2.1 998 (by decide +kernel) (by decide +kernel))
def x13n12 := { h0 with pair := { ops := [(996, some 3), (999, none)] } }
theorem wit_po (A : Obligations.PairHealth) : Completes (.pairOpAckTimeout) x13n12 :=
  Runs.completes (((A.2.1 x13n12).2.2 (996, some 3) [(999, none)] (by decide +kernel)).1 (by decide +kernel))
def x13n13 := { h0 with pair := { ops := [(996, some 3)] } }
theorem wit_po_2 (A : Obligations.PairHealth) : Completes (.pairOpAckTimeout) x13n13 :=
  Runs.completes (((A.2.1 x13n13).2.2 (996, some 3) [] (by decide +kernel)).1 (by decide +kernel))
def x13n14 := { h0 with pair := { ops := [(997, some 3)] } }
theorem wit_po_3 (A : Obligations.PairHealth) : Completes (.pairOpAckTimeout) x13n14 :=
  Runs.completes (((A.2.1 x13n14).2.2 (997, some 3) [] (by decide +kernel)).2 (by decide +kernel))
def sb : Machine.State := { (((h0.wr F.devModeMode 5).wr F.fluStatLockHeld 0).wr F.fluStatMirrorValid 1).setAsn 77 { state := .live, claimPending := true, pnMark := 2 ^ 24, nextPn := 5 } with pair := { sawLock := true, freeEdges := 2 } }
theorem wit_pf (A : Obligations.Takeovers) : Completes (.partnerFailure) sb :=
  Runs.completes (((A sb).1 (by decide +kernel) (by decide +kernel) (by decide +kernel) (by decide +kernel)).1 (by decide +kernel))
def x13n15 := { sb.wr F.fluClaimPeer 65535 with pair := { sawLock := true, freeEdges := 2, claimSeen := true, claimAt := 999 } }
theorem wit_pf_2 (A : Obligations.Takeovers) : Completes (.partnerFailure) x13n15 := by
  refine Runs.completes (((A x13n15).1 ?_ ?_ ?_ ?_).2 65535 ?_ ?_) <;> decide +kernel
def x13n16 := { sb with pair.takeover := some (1000, true) }
theorem wit_to (A : Obligations.Takeovers) : Completes (.takeover) x13n16 :=
  Runs.completes ((A x13n16).2.1 1000 (by decide +kernel) (by decide +kernel) (by decide +kernel))
def x13n17 := { sb with pair.takeover := some (1000, false) }
theorem wit_toc (A : Obligations.Takeovers) : Completes (.takeover) x13n17 :=
  Runs.completes ((A x13n17).2.2.1 1000 (by decide +kernel) (by decide +kernel) (by decide +kernel))
def x13n18 := { h0.wr F.devModeMode 7 with pair.tookAt := some 997 }
theorem wit_tc (A : Obligations.Takeovers) : Completes (.takeoverComplete) x13n18 :=
  Runs.completes ((A x13n18).2.2.2 997 (by decide +kernel) (by decide +kernel) (by decide +kernel))
def st : Machine.State := { (h0.wr F.devModeMode 5).wr F.fluCfgStEn 1 with tick := 65536 * 125 }
theorem wit_idle (A : Obligations.PairHealth) : Completes (.idleLaneWindow 3 5) st :=
  Runs.completes (((A.2.2 st).1 (by decide +kernel)).1 3 5 (by decide +kernel) (by decide +kernel) (by decide +kernel))
def x13n19 := { st with pair.badLanes := [1, 3, 9] }
theorem wit_idle_2 (A : Obligations.PairHealth) : Completes (.idleLaneWindow 3 0) x13n19 :=
  Runs.completes (((A.2.2 x13n19).1 (by decide +kernel)).1 3 0 (by decide +kernel) (by decide +kernel) (by decide +kernel))
theorem wit_scrub (A : Obligations.PairHealth) : Completes (.standbyScrub []) st :=
  Runs.completes ((((A.2.2 st).1 (by decide +kernel)).2 (by decide +kernel)).1)
theorem wit_scrub_2 (A : Obligations.PairHealth) : Completes (.standbyScrub [{ page := Page.hrt, src := 3 }]) st :=
  Runs.completes ((((A.2.2 st).1 (by decide +kernel)).2 (by decide +kernel)).2 { page := .hrt, inst := 0, src := 3, double := false } (by decide +kernel))
theorem wit_noscrub (A : Obligations.PairHealth) : Completes (.standbyScrub []) h0 :=
  Runs.completes ((A.2.2 h0).2 (by decide +kernel) 3 4 [] (.standbyScrub []) (by decide +kernel))

end W13

namespace W14

def t0 : Machine.State := { W [(F.pageReady .tsu, 1, 0, 0), (F.pageReady .tmp, 1, 0, 0), (F.pageReady .ofc, 1, 0, 0), (F.devModeMode, 4, 0, 0), (F.tsuCtlPpsOutEn, 1, 0, 0), (F.tsuCtlPpsInEn, 1, 0, 0), (F.tsuPpsOutWWidthUs, 1, 0, 0), (F.ofcStatPresent, 1, 0, 0), (F.modLedCtlEnable, 1, 0, 0), (F.tmpMeshMeshEn, 255, 0, 0)] with tick := 1000, time := { time := 5 * 10 ^ 9 * 2 ^ 32 + 77, raw := 99, stagedLo := some 0xCCCCCCCE, edgeNs := 8, edgeTick := 999, started := true, inNs := 55, inFrac := 66, inCnt := 65535 } }
theorem wit_inc (A : Obligations.TimeIsKept) : Completes (.incWrite 0 9) t0 :=
  Runs.completes ((A.1 t0 0 9 (by decide +kernel)).1)
theorem wit_read (A : Obligations.TimeIsKept) : Completes (.timeRead 9) t0 :=
  Runs.completes ((A.1 t0 0 9 (by decide +kernel)).2.2.1)
theorem wit_eread (A : Obligations.TimeIsKept) : Completes (.edgeTimeRead 9) t0 :=
  Runs.completes ((A.1 t0 0 9 (by decide +kernel)).2.2.2)
theorem wit_pps (A : Obligations.TimeIsKept) : Completes (.ppsOut 9) t0 :=
  Runs.completes (((A.2.1 t0 (t0.at 9) 9 rfl).1 _ _ rfl rfl (by decide +kernel)).1 (by decide +kernel))
theorem wit_pps2 (A : Obligations.TimeIsKept) : Completes (.ppsOut 9) (t0.wr F.tsuPpsOutNextNext (5 * 10 ^ 9)) :=
  Runs.completes (((A.2.1 (t0.wr F.tsuPpsOutNextNext (5 * 10^9)) ((t0.wr F.tsuPpsOutNextNext (5 * 10^9)).at 9) 9 rfl).1 _ _ rfl rfl (by decide +kernel)).1 (by decide +kernel))
theorem wit_pps0 (A : Obligations.TimeIsKept) : Completes (.ppsOut 9) (t0.wr F.tsuPpsOutNextNext (5 * 10 ^ 9 + 99)) :=
  Runs.completes (((A.2.1 (t0.wr F.tsuPpsOutNextNext (5 * 10^9 + 99)) ((t0.wr F.tsuPpsOutNextNext (5 * 10^9+99)).at 9) 9 rfl).1 _ _ rfl rfl (by decide +kernel)).2 (by decide +kernel))
def t1 : Machine.State := { t0 with time.ppsHigh := some 5 }
theorem wit_ppe (A : Obligations.TimeIsKept) : Completes (.ppsOutPulseEnd 9) t1 :=
  Runs.completes ((A.2.1 t1 (t1.at 9) 9 rfl).2 5 (by decide +kernel) (by decide +kernel))
theorem wit_in (A : Obligations.PpsInput) : Completes (.ppsIn false 100 9) t0 :=
  Runs.completes (((A t0 (t0.at 9) 9 rfl).1 false 100).1 (by decide +kernel) (by decide +kernel) (by decide +kernel))
theorem wit_in_2 (A : Obligations.PpsInput) : Completes (.ppsIn false 99 9) t0 :=
  Runs.completes (((A t0 (t0.at 9) 9 rfl).1 false 99).2 (by decide +kernel))
theorem wit_inr (A : Obligations.PpsInput) : Completes (.ppsInRead 9) t0 :=
  Runs.completes ((A t0 (t0.at 9) 9 rfl).2 (by decide +kernel))
theorem wit_tf (A : Obligations.TamperSources) : Completes (.tamperFire 2 55) t0 :=
  Runs.completes (((A.1 t0).1 2 55 _ rfl).1 (by decide +kernel) |>.1 (by decide +kernel))
theorem wit_tf_2 (A : Obligations.TamperSources) : Completes (.tamperFire 0 55) (t0.wr F.devModeMode 0) :=
  Runs.completes (((A.1 (t0.wr F.devModeMode 0)).1 0 55 _ rfl).1 (by decide +kernel) |>.1 (by decide +kernel))
theorem wit_tf_3 (A : Obligations.TamperSources) : Completes (.tamperFire 8 55) t0 :=
  Runs.completes (((A.1 t0).1 8 55 _ rfl).1 (by decide +kernel) |>.1 (by decide +kernel))
theorem wit_tf_4 (A : Obligations.TamperSources) : Completes (.tamperFire 20 55) (t0.wr F.devModeMode 0) :=
  Runs.completes (((A.1 (t0.wr F.devModeMode 0)).1 20 55 _ rfl).1 (by decide +kernel) |>.1 (by decide +kernel))
theorem wit_tfn (A : Obligations.TamperSources) : Completes (.tamperFire 16 3) (t0.wr F.tmpLidLidEn 0) :=
  Runs.completes (((A.1 (t0.wr F.tmpLidLidEn 0)).1 16 3 _ rfl).1 (by decide +kernel) |>.2 (by decide +kernel))
theorem wit_tfn_2 (A : Obligations.TamperSources) : Completes (.tamperFire 2 3) (t0.wr F.devModeMode 0) :=
  Runs.completes (((A.1 (t0.wr F.devModeMode 0)).1 2 3 _ rfl).1 (by decide +kernel) |>.2 (by decide +kernel))
def x14n1 := { t0 with tamper.asserted := [(4, none), (8, some 9)] }
theorem wit_tfn_3 (A : Obligations.TamperSources) : Completes (.tamperFire 8 3) x14n1 :=
  Runs.completes (((A.1 x14n1).1 8 3 _ rfl).1 (by decide +kernel) |>.2 (by decide +kernel))
theorem wit_tfi (A : Obligations.TamperSources) : Completes (.tamperFire 22 55) t0 :=
  Runs.completes (((A.1 t0).1 22 55 _ rfl).2 (by decide +kernel))
theorem wit_tfi_2 (A : Obligations.TamperSources) : Completes (.tamperFire 0 55) t0 :=
  Runs.completes (((A.1 t0).1 0 55 _ rfl).2 (by decide +kernel))
def x14n2 := { t0 with tamper.test := some (8, 3) }
theorem wit_tft (A : Obligations.TamperSources) : Completes (.tamperFire (Fin.ofNat 23 8) 0) x14n2 :=
  Runs.completes ((A.1 x14n2).2.1 8 3 (by decide +kernel) (by decide +kernel) (by decide +kernel) (by decide +kernel) (by decide +kernel))
theorem wit_qb (A : Obligations.TamperSources) : Completes (.quenchButton) t0 :=
  Runs.completes ((A.1 t0).2.2.1 (by decide +kernel))
theorem wit_tt (A : Obligations.TamperSources) : Completes (.tamperTest 9 true) t0 :=
  Runs.completes ((A.1 t0).2.2.2.1 9 (by decide +kernel) (by decide +kernel) (by decide +kernel))
def x14n3 := { t0.wr F.tmpTestBusy 1 with tamper.test := some (8, 3), tick := 140 }
theorem wit_te0 (A : Obligations.TamperSources) : Completes (.tamperTestEnd true) x14n3 :=
  Runs.completes ((A.1 x14n3).2.2.2.2.1 (8, 3) true (by decide +kernel) (by decide +kernel))
def x14n4 := { t0.wr F.tmpTestBusy 1 with tamper.test := some (8, 3), tick := 141 }
theorem wit_te (A : Obligations.TamperSources) : Completes (.tamperTestEnd false) x14n4 :=
  Runs.completes (((A.1 x14n4).2.2.2.2.2 (8, 3) (by decide +kernel) (by decide +kernel)).1)
def x14n5 := { t0.wr F.tmpTestBusy 1 with tamper.test := some (8, 3), tick := 141 }
theorem wit_te_2 (A : Obligations.TamperSources) : Completes (.tamperTestEnd true) x14n5 :=
  Runs.completes (((A.1 x14n5).2.2.2.2.2 (8, 3) (by decide +kernel) (by decide +kernel)).2 (by decide +kernel) (by decide +kernel) (by decide +kernel))
def tw (l : List Nat) : Machine.State := { t0.wr F.ofcStatSession 1 with tamper.window := l, tamper.winAt := 77, tamper.winMode := 4, officer.key := [1], vault.slots := [(3, {})] }
theorem wit_tw (A : Obligations.TamperSources) : Completes (.tamperWindowEnd) (tw [20, 3, 16]) :=
  Runs.completes (A.2 (tw [20, 3, 16]) _ _ rfl rfl (by decide +kernel) (by decide +kernel) (by decide +kernel) (by decide +kernel))
theorem wit_tw_2 (A : Obligations.TamperSources) : Completes (.tamperWindowEnd) (tw [16, 0]) :=
  Runs.completes (A.2 (tw [16, 0]) _ _ rfl rfl (by decide +kernel) (by decide +kernel) (by decide +kernel) (by decide +kernel))
theorem wit_tw_3 (A : Obligations.TamperSources) : Completes (.tamperWindowEnd) (tw [9]) :=
  Runs.completes (A.2 (tw [9]) _ _ rfl rfl (by decide +kernel) (by decide +kernel) (by decide +kernel) (by decide +kernel))
theorem wit_twc (A : Obligations.TamperOnTheCell) : Completes (.tamperWindowEnd) ((tw [9, 20]).wr F.devModeMode 0) :=
  Runs.completes (A ((tw [9, 20]).wr F.devModeMode 0) _ _ rfl rfl (by decide +kernel) (by decide +kernel) (by decide +kernel))
theorem wit_twc_2 (A : Obligations.TamperOnTheCell) : Completes (.tamperWindowEnd) ((tw [16]).wr F.devModeMode 0) :=
  Runs.completes (A ((tw [16]).wr F.devModeMode 0) _ _ rfl rfl (by decide +kernel) (by decide +kernel) (by decide +kernel))
def crcd (ty : Nat) (m : OfcMsg) : OfcMsg := { m with crc := fcsOf (officerCovered ty m) }
def m00 : OfcMsg := { seq := 0, body := [7, 8, 9] }
def m0 : OfcMsg := crcd 1 m00
def m3 : OfcMsg := crcd 3 m00
theorem wit_plug (A : Obligations.OfficerSessions) : Completes (.tokenPlug) t0 :=
  Runs.completes ((A.1 t0).1)
theorem wit_unplug (A : Obligations.OfficerSessions) : Completes (.tokenUnplug) (tw []) :=
  Runs.completes ((A.1 (tw [])).2.1)
theorem wit_oh (A : Obligations.OfficerSessions) : Completes (.officerHello m0) t0 :=
  Runs.completes (((A.1 t0).2.2.1 m0).1 (by decide +kernel) (by decide +kernel) _ _ rfl rfl)
theorem wit_ohl (A : Obligations.OfficerSessions) : Completes (.officerHello m0) (t0.wr F.ofcLockLockUntil 9) :=
  Runs.completes (((A.1 (t0.wr F.ofcLockLockUntil 9)).2.2.1 m0).2.1 (by decide +kernel) (by decide +kernel))
def x14n6 := { t0 with officer.challenged := some 999 }
theorem wit_or (A : Obligations.OfficerSessions) : Completes (.officerResponse m3) x14n6 :=
  Runs.completes (((A.1 x14n6).2.2.1 m3).2.2 (by decide +kernel))
theorem wit_or0 (A : Obligations.OfficerSessions) : Completes (.officerResponse m3) t0 :=
  Runs.completes (((A.1 t0).2.2.1 m3).2.2 (by decide +kernel))
def tv : Machine.State := { t0.wr F.ofcSlots0Slot0 3 with officer.challenged := some 999, officer.response := some ([1], [2]) }
theorem wit_ov (A : Obligations.OfficerSessions) : Completes (.officerVerifyDone) tv :=
  Runs.completes ((A.2 tv).2 [1] [2] _ _ _ _ (by decide +kernel) rfl rfl rfl rfl)
theorem wit_ov_2 (A : Obligations.OfficerSessions) : Completes (.officerVerifyDone) (tv.wr F.ofcStatFails 200) :=
  Runs.completes ((A.2 (tv.wr F.ofcStatFails 200)).2 [1] [2] _ _ _ _ (by decide +kernel) rfl rfl rfl rfl)
theorem wit_ovn (A : Obligations.OfficerSessions) : Completes (.officerVerifyDone) t0 :=
  Runs.completes ((A.2 t0).1 (by decide +kernel))
def x14n7 := { t0 with tick := 250999, officer.challenged := some 999 }
theorem wit_ort (A : Obligations.OfficerSessions) : Completes (.officerResponseTimeout) x14n7 :=
  Runs.completes ((A.1 x14n7).2.2.2.1 999 (by decide +kernel) (by decide +kernel) (by decide +kernel))
def x14n8 := { t0 with tick := 250998, officer.challenged := some 999 }
theorem wit_ort_2 (A : Obligations.OfficerSessions) : Completes (.officerResponseTimeout) x14n8 :=
  Runs.completes ((A.1 x14n8).2.2.2.2.1 (by decide +kernel))
def x14n9 := { tw [] with tick := 37500000 }
theorem wit_ost (A : Obligations.OfficerSessions) : Completes (.officerSessionTimeout) x14n9 :=
  Runs.completes ((A.1 x14n9).2.2.2.2.2.1 (by decide +kernel) (by decide +kernel))
def x14n10 := { tw [] with tick := 37499999 }
theorem wit_ost0 (A : Obligations.OfficerSessions) : Completes (.officerSessionTimeout) x14n10 :=
  Runs.completes ((A.1 x14n10).2.2.2.2.2.2 (by decide +kernel))
def mk (ty : Nat) (ct : List Byte) : OfcMsg := crcd ty { isSealed := true, seq := 0, body := ct ++ gcmTag (keyOfBytes [1]) (Machine.State.officerIv {}) (Machine.State.officerAad {} ty ct.length) ct }
theorem mkc (s : Machine.State) (ty : Nat) (ct : List Byte) (h1 : s.ready .ofc = true) (h2 : s.on F.ofcStatPresent = true) (h3 : s.officer.seqIn = 0) (h4 : s.on F.ofcStatSession = true) (h5 : s.officer.key = [1]) (h6 : ct.length ≤ 8164 := by decide) : s.carries (mk ty ct) ty (gcmCrypt (keyOfBytes [1]) (Machine.State.officerIv {}) ct) := ⟨⟨h1, h2, by simp only [officerCrcOk, mk, crcd, officerCovered, List.length_append, decide_true, Bool.true_and, decide_eq_true_eq]; exact Nat.add_le_add_right h6 16, h3.symm⟩, h4, rfl, ct, by rw [h5]; rfl, by rw [h5]; rfl⟩
theorem wit_cw (A : Obligations.OfficerMessages) : Completes (.certWrite (mk 17 [1, 2])) (tw []) := by
  refine Runs.completes ((A (tw []) (mk 0x11 [1,2]) _ 0 9 rfl).1 (mkc _ _ _ ?_ ?_ ?_ ?_ ?_) ?_ ?_) <;> decide +kernel
def ti : Machine.State := (tw []).wr F.pwrStatNvInhibit 1
theorem wit_cwi (A : Obligations.OfficerMessages) : Completes (.certWrite (mk 17 [1, 2])) ti := by
  refine Runs.completes ((A ti (mk 0x11 [1,2]) _ 0 9 rfl).2.1 (mkc _ _ _ ?_ ?_ ?_ ?_ ?_) ?_) <;> decide +kernel
def tcl : Machine.State := { tw [] with officer.cert := List.replicate 16384 1, officer.key := [1] }
theorem wit_cwl (A : Obligations.OfficerMessages) : Completes (.certWrite (mk 17 [1, 2])) tcl := by
  refine Runs.completes ((A tcl (mk 0x11 [1,2]) _ 0 9 rfl).2.2.1 (mkc _ _ _ ?_ ?_ ?_ ?_ ?_) ?_ ?_) <;> decide +kernel
def x14n11 := { tw [] with vault.cert := [4, 5] }
theorem wit_cr (A : Obligations.OfficerMessages) : Completes (.certRead (crcd 18 m00)) x14n11 :=
  Runs.completes ((A x14n11 (crcd 0x12 m00) [] 0 9 rfl).2.2.2.1 (by decide +kernel) (by decide +kernel))
def ta : Machine.State := { ((tw []).wr F.devModeMode 3).wr F.tmpDeferDeferred 7 with pwr.held := true, tamper.lineHold := true }
theorem wit_ack (A : Obligations.OfficerMessages) : Completes (.ack (mk 19 [])) ta :=
  Runs.completes ((A ta (mk 0x13 []) _ 0 9 rfl).2.2.2.2.1 (mkc _ _ _ (by decide +kernel) (by decide +kernel) (by decide +kernel) (by decide +kernel) (by decide +kernel)))
theorem wit_clf (A : Obligations.OfficerMessages) : Completes (.clearFlags (mk 20 [1])) (ta.wr F.tmpFlagsEnv 255) :=
  Runs.completes ((A (ta.wr F.tmpFlagsEnv 255) (mk 0x14 [1]) _ 0 9 rfl).2.2.2.2.2.1 (mkc _ _ _ (by decide +kernel) (by decide +kernel) (by decide +kernel) (by decide +kernel) (by decide +kernel)))
theorem wit_note (A : Obligations.OfficerMessages) : Completes (.note (mk 21 [1])) ta := by
  refine Runs.completes ((A ta (mk 0x15 [1]) _ 0 9 rfl).2.2.2.2.2.2.1 (mkc _ _ _ ?_ ?_ ?_ ?_ ?_) ?_) <;> decide +kernel
theorem wit_brtc (A : Obligations.OfficerMessages) : Completes (.setBrtc (mk 22 [1, 2, 3, 4, 5, 6])) ta :=
  Runs.completes ((A ta (mk 0x16 [1,2,3,4,5,6]) _ 0 9 rfl).2.2.2.2.2.2.2.1 (mkc _ _ _ (by decide +kernel) (by decide +kernel) (by decide +kernel) (by decide +kernel) (by decide +kernel)))
theorem wit_unl (A : Obligations.OfficerMessages) : Completes (.unlockCfg (mk 23 [])) (ta.wr F.tmpCfgCfgLock 1) :=
  Runs.completes ((A (ta.wr F.tmpCfgCfgLock 1) (mk 0x17 []) _ 0 9 rfl).2.2.2.2.2.2.2.2.1 (mkc _ _ _ (by decide +kernel) (by decide +kernel) (by decide +kernel) (by decide +kernel) (by decide +kernel)))
theorem wit_end (A : Obligations.OfficerMessages) : Completes (.endSession (crcd 31 m00)) ta :=
  Runs.completes ((A ta (crcd 0x1F m00) [] 0 9 rfl).2.2.2.2.2.2.2.2.2.1 (by decide +kernel))
theorem wit_vlt (A : Obligations.OfficerMessages) : Completes (.vault (mk 16 [1]) 9) (ta.wr F.kvtStatBusy 1) := by
  refine Runs.completes ((A (ta.wr F.kvtStatBusy 1) (mk 0x10 [1]) _ 0 9 rfl).2.2.2.2.2.2.2.2.2.2.1 (mkc _ _ _ ?_ ?_ ?_ ?_ ?_) ?_) <;> decide +kernel
theorem wit_vlt2 (A : Obligations.OfficerMessages) : Completes (.vault (mk 16 [1]) 9) (ta.wr F.devModeMode 9) := by
  refine Runs.completes ((A (ta.wr F.devModeMode 9) (mk 0x10 [1]) _ 0 9 rfl).2.2.2.2.2.2.2.2.2.2.2.1 (mkc _ _ _ ?_ ?_ ?_ ?_ ?_) ?_ _ rfl) <;> decide +kernel
theorem wit_no (A : Obligations.OfficerMessages) : Completes (.vault (crcd 16 m00) 9) t0 :=
  Runs.completes ((A t0 (crcd 0x10 m00) [] 0 9 rfl).2.2.2.2.2.2.2.2.2.2.2.2.1 (.vault (crcd 0x10 m00) 9, 0x10) (by decide +kernel) (by decide +kernel) (by decide +kernel))
theorem wit_no_2 (A : Obligations.OfficerMessages) : Completes (.certRead (crcd 18 m00)) t0 :=
  Runs.completes ((A t0 (crcd 0x12 m00) [] 0 9 rfl).2.2.2.2.2.2.2.2.2.2.2.2.1 (.certRead (crcd 0x12 m00), 0x12) (by decide +kernel) (by decide +kernel) (by decide +kernel))
theorem wit_crc (A : Obligations.OfficerMessages) : Completes (.note m00) ta :=
  Runs.completes ((A ta m00 [] 0 9 rfl).2.2.2.2.2.2.2.2.2.2.2.2.2 (.note m00, 0x15) (by decide +kernel) (by decide +kernel))
def x14n12 := { t0 with tamper.brtc := 0x1234567 }
theorem wit_brtc_2 (A : Obligations.TimeIsKept) : Completes (.brtcRead) x14n12 :=
  Runs.completes ((A.2.2 x14n12).1 (by decide +kernel))
theorem wit_led (A : Obligations.TimeIsKept) : Completes (.ledRefresh) t0 :=
  Runs.completes ((A.2.2 t0).2.1 (by decide +kernel) (by decide +kernel) (by decide +kernel) (by decide +kernel))

end W14

end Sys2Proof.Tests
end

section
/-! SUPPORT. The tick number and the cycle at a tick edge (R4, R32, R48): what the parts of TICK_EDGE leave of them, of a
halt that is due and of the scheduled acts. -/

namespace Sys2Proof.Machine

open Sys2Proof

variable (s : State) (e : EdgeIn)

/-! ### The battery-backed clock touches the tamper logic alone -/

@[simp] theorem State.brtcTick_word (k : RegKey) : (s.brtcTick e).word k = s.word k := rfl
@[simp] theorem State.brtcTick_mode : (s.brtcTick e).mode = s.mode := rfl
@[simp] theorem State.brtcTick_tick : (s.brtcTick e).tick = s.tick := rfl
@[simp] theorem State.brtcTick_sched : (s.brtcTick e).sched = s.sched := rfl
@[simp] theorem State.brtcTick_time : (s.brtcTick e).time = s.time := rfl
@[simp] theorem State.brtcTick_pwr : (s.brtcTick e).pwr = s.pwr := rfl
@[simp] theorem State.brtcTick_haltDue : (s.brtcTick e).tamper.haltDue = s.tamper.haltDue := rfl
@[simp] theorem State.brtcTick_brtc :
    (s.brtcTick e).tamper.brtc = (s.tamper.brtc + 2 * e.rtc) % 2 ^ 48 := rfl

/-! ### The end of the tick, and the next tick number -/

@[simp] theorem State.endTick_tick : (s.endTick e).tick = s.tick := State.endTick_keeps.frame .tick (by decide)
@[simp] theorem State.endTick_time : (s.endTick e).time = s.time := State.endTick_keeps.frame .time (by decide)
@[simp] theorem State.endTick_pwr : (s.endTick e).pwr = s.pwr := State.endTick_keeps.frame .pwr (by decide)
@[simp] theorem State.endTick_tamper : (s.endTick e).tamper = s.tamper :=
  State.endTick_keeps.frame .tamper (by decide)

@[simp] theorem State.nextTick_tick :
    s.nextTick.tick = if !s.time.started && !s.pwr.warm then 0 else s.tick + 1 := rfl
@[simp] theorem State.nextTick_cycle : s.nextTick.cycle = 0 := rfl
@[simp] theorem State.nextTick_tamper : s.nextTick.tamper = s.tamper := rfl

/-! ### The pins: without a halt due, none comes of them -/

variable {s} {e}

theorem State.modTamper_haltDue {f : Tamper → Tamper} (h : ∀ t, (f t).haltDue = t.haltDue) :
    (s.modTamper f).tamper.haltDue = s.tamper.haltDue := h _

theorem onlyIf_haltDue {c : Bool} {f : State → State} (h : ∀ s, (f s).tamper.haltDue = s.tamper.haltDue) :
    (onlyIf c f s).tamper.haltDue = s.tamper.haltDue := by
  unfold onlyIf
  split
  · exact h s
  · rfl

/-- A source that fires goes into a window; a halt falls due as a window ends (R428, R429). -/
theorem State.tamperFire_haltDue (src : Nat) : (s.tamperFire src).tamper.haltDue = s.tamper.haltDue := by
  unfold State.tamperFire
  extract_lets t seen counted
  have hseen : seen.tamper.haltDue = s.tamper.haltDue := State.modTamper_haltDue (fun _ => rfl)
  have hcounted : counted.tamper.haltDue = s.tamper.haltDue := by
    unfold counted
    rw [State.wrEvt_tamper, State.count_tamper, hseen]
  clear_value counted seen
  split
  · exact hseen
  split
  · rw [State.wrEvt_tamper, hseen]
  split
  · exact (State.modTamper_haltDue (fun _ => rfl)).trans hseen
  · exact (State.modTamper_haltDue (fun _ => rfl)).trans hcounted

@[simp] theorem State.tempEdge_haltDue (now : Byte) : (s.tempEdge now).tamper.haltDue = s.tamper.haltDue := by
  unfold State.tempEdge
  extract_lets high low sampled hot
  have hsampled : sampled.tamper.haltDue = s.tamper.haltDue := by
    unfold sampled
    rw [State.modTamper_tamper, State.wr_tamper]
  have hhot : hot.tamper.haltDue = s.tamper.haltDue :=
    (onlyIf_haltDue (fun _ => State.tamperFire_haltDue 0)).trans hsampled
  clear_value hot sampled
  exact (onlyIf_haltDue (fun _ => State.tamperFire_haltDue 1)).trans hhot

@[simp] theorem State.railsEdge_tamper (released : Bool) : (s.railsEdge released).tamper = s.tamper :=
  State.railsEdge_keeps.frame .tamper (by decide)

@[simp] theorem State.setRails_tamper (v : Nat) : (s.setRails v).tamper = s.tamper := rfl

theorem State.haltEdge_of_none (h : s.tamper.haltDue = none) : s.haltEdge = s := by
  simp [State.haltEdge, h]

/-- With no halt due the pins reset nothing, so the tick number and the cycle are among what they leave (R429). -/
theorem State.pinsEdge_keeps_of_no_halt (h : s.tamper.haltDue = none) :
    Keeps (mask [.rep, .pwr, .tamper, .page .pwr, .page .tmp]) s (s.pinsEdge e) := by
  unfold State.pinsEdge
  extract_lets rails vbat sampled mesh shed
  have hsampled : sampled.tamper.haltDue = none := by
    unfold sampled vbat rails
    rw [State.tempEdge_haltDue, State.wr_tamper, State.setRails_tamper, State.railsEdge_tamper, h]
  have hshed : shed.tamper.haltDue = none := by
    unfold shed mesh
    rw [State.modPwr_tamper, State.wr_tamper, State.wr_tamper, hsampled]
  rw [State.haltEdge_of_none hshed]
  refine Keeps.step State.modPwr_keeps (by rfl) ?_
  refine Keeps.step State.wr_keeps (by rfl) ?_
  refine Keeps.step State.wr_keeps (by rfl) ?_
  refine Keeps.step State.tempEdge_keeps (by rfl) ?_
  refine Keeps.step State.wr_keeps (by rfl) ?_
  refine Keeps.step State.setRails_keeps (by rfl) ?_
  exact State.railsEdge_keeps.mono (by rfl)

theorem State.pinsEdge_tick (h : s.tamper.haltDue = none) : (s.pinsEdge e).tick = s.tick :=
  (State.pinsEdge_keeps_of_no_halt h).frame .tick (by decide)
theorem State.pinsEdge_cycle (h : s.tamper.haltDue = none) : (s.pinsEdge e).cycle = s.cycle :=
  (State.pinsEdge_keeps_of_no_halt h).frame .cycle (by decide)

@[simp] theorem State.edgeSteps_tick (pre : State) : (s.edgeSteps e pre).tick = s.tick :=
  State.edgeSteps_keeps.frame .tick (by decide)
@[simp] theorem State.edgeSteps_cycle (pre : State) : (s.edgeSteps e pre).cycle = s.cycle :=
  State.edgeSteps_keeps.frame .cycle (by decide)

/-! ### TICK_EDGE by mode -/

/-- Main power off, or a cold reset: the tick tree stands (R32). -/
theorem execTickEdge_of_stopped (h : s.mode = 0 ∨ (s.mode = 1 ∧ s.pwr.warm = false)) :
    execTickEdge e s = .next (s.brtcTick e).closed := by
  rcases h with h | ⟨h, hw⟩
  · simp [execTickEdge, done_eq, h]
  · simp [execTickEdge, done_eq, h, hw]

/-- A warm reset: the tick number goes on, and nothing else happens (R48). -/
theorem execTickEdge_of_warm (h : s.mode = 1) (hw : s.pwr.warm = true) :
    execTickEdge e s = .next { s.brtcTick e with tick := s.tick + 1, cycle := 0 : State }.closed := by
  simp [execTickEdge, done_eq, h, hw]

/-- Every other mode, with no halt due: the edge starts its tick at cycle 0, under the number of `State.nextTick`. -/
theorem execTickEdge_of_running (h0 : s.mode ≠ 0) (h1 : s.mode ≠ 1) (hh : s.tamper.haltDue = none) :
    ∃ t, execTickEdge e s = .next t ∧
      t.tick = (if !s.time.started && !s.pwr.warm then 0 else s.tick + 1) ∧ t.cycle = 0 := by
  have hn : ((s.brtcTick e).endTick e).nextTick.tamper.haltDue = none := by simpa using hh
  simp only [execTickEdge, State.brtcTick_mode, h0, h1, if_false, done_eq]
  refine ⟨_, rfl, ?_⟩
  split <;> simp [State.pinsEdge_tick hn, State.pinsEdge_cycle hn]

end Sys2Proof.Machine
end

section
/-! PROOF. The statement on the tick number. -/

namespace Sys2Proof.Machine

/-- Settles O12: by the mode in which the edge finds the device. -/
theorem tickAdvances : Obligations.TickAdvances := by
  unfold Obligations.TickAdvances
  intro s e
  refine ⟨fun h0 h1 hh hr => ?_, fun h0 h1 hh hs hw => ?_, fun h hw => ?_, fun h => ?_⟩
  · obtain ⟨t, ht, htick, hcycle⟩ := execTickEdge_of_running (e := e) h0 h1 hh
    refine ⟨t, ht, ?_, hcycle⟩
    rcases hr with hr | hr <;> simp [htick, hr]
  · obtain ⟨t, ht, htick, hcycle⟩ := execTickEdge_of_running (e := e) h0 h1 hh
    exact ⟨t, ht, by simp [htick, hs, hw], hcycle⟩
  · exact ⟨_, execTickEdge_of_warm h hw, State.closed_tick _, State.closed_sched _, fun k _ => State.closed_word _ k⟩
  · refine ⟨_, execTickEdge_of_stopped h, ?_⟩
    simp [State.regsBut]

end Sys2Proof.Machine
end

section
/-! SUPPORT. Holding, releasing and the operations of DEV_GOP (R21, R32, R33, R168): what each does to one scheduled act,
what it does to the schedule and the registers, and which of its cases a DEV_GOP word meets. -/

namespace Sys2Proof.Machine

open Sys2Proof

variable {s : State} {w v : Word} {cyc : Cyc}

/-! ### Fields of a word with further bits set -/

/-- A field of a disjunction of words is the disjunction of their fields. -/
theorem getF_or (w v : Word) (lo n : Nat) : getF (w ||| v) lo n = getF w lo n ||| getF v lo n := by
  simp only [getF, BitVec.toNat_or, Nat.shiftRight_or_distrib, Nat.or_mod_two_pow]

/-- Bits set outside a field do not show in it. -/
theorem getF_or_of_zero {lo n : Nat} (h : getF v lo n = 0) : getF (w ||| v) lo n = getF w lo n := by
  rw [getF_or, h, Nat.or_zero]

theorem getF_lt_two_pow (w : Word) (lo n : Nat) : getF w lo n < 2 ^ n := Nat.mod_lt _ (Nat.two_pow_pos n)

/-- A one-bit field is its bit. -/
theorem bit_getF {lo n i : Nat} (h : i < n) : bit (getF w lo n) i = decide (getF w (lo + i) 1 = 1) := by
  have hbit : getF w (lo + i) 1 = (w.toNat.testBit (lo + i)).toNat := by
    rw [Nat.toNat_testBit, getF, Nat.shiftRight_eq_div_pow, Nat.pow_one]
  rw [bit, getF_testBit, hbit]
  simp [h]

/-! ### One scheduled act, stopped or released -/

/-- What writing hold = 1 does to one scheduled act: a pending copy is held (R21). -/
def Sched.stopped (e : Sched) : Sched := if e.isCopy then { e with held := true } else e

/-- What a release to edge `due` does to one scheduled act: a held one is free, and due then (R21). -/
def Sched.releasedTo (due : Nat) (e : Sched) : Sched := if e.held then { e with held := false, due := due } else e

@[simp] theorem Sched.stopped_act (e : Sched) : e.stopped.act = e.act := by unfold Sched.stopped; split <;> rfl
@[simp] theorem Sched.stopped_due (e : Sched) : e.stopped.due = e.due := by unfold Sched.stopped; split <;> rfl
@[simp] theorem Sched.stopped_isCopy (e : Sched) : e.stopped.isCopy = e.isCopy := by
  simp only [Sched.isCopy, Sched.stopped_act]
theorem Sched.stopped_held {e : Sched} (h : e.isCopy = true) : e.stopped.held = true := by simp [Sched.stopped, h]
theorem Sched.stopped_of_not_copy {e : Sched} (h : e.isCopy = false) : e.stopped = e := by simp [Sched.stopped, h]

@[simp] theorem Sched.releasedTo_act (due : Nat) (e : Sched) : (e.releasedTo due).act = e.act := by
  unfold Sched.releasedTo; split <;> rfl
@[simp] theorem Sched.releasedTo_held (due : Nat) (e : Sched) : (e.releasedTo due).held = false := by
  unfold Sched.releasedTo
  split
  · rfl
  · next h => exact eq_false_of_ne_true h
theorem Sched.releasedTo_of_held {due : Nat} {e : Sched} (h : e.held = true) :
    e.releasedTo due = { e with held := false, due := due } := by simp [Sched.releasedTo, h]
theorem Sched.releasedTo_of_free {due : Nat} {e : Sched} (h : e.held = false) : e.releasedTo due = e := by
  simp [Sched.releasedTo, h]

/-! ### The registers that one field's write and the end of a command leave -/

/-- A command that lands and writes one field leaves every other register. -/
theorem State.at_wr_regsBut (s : State) (cyc : Cyc) (f : Fld) (x : Nat) : s.regsBut ((s.at cyc).wr f x) [keyOf f] :=
  State.regsBut_wr x (State.regsBut_of_word (s.at_word cyc) (State.regsBut_refl s _)) (List.mem_singleton_self _)

theorem State.closed_regsBut {u : State} {ks : List RegKey} (h : s.regsBut u ks) : s.regsBut u.closed ks :=
  State.regsBut_of_word u.closed_word h

/-! ### The whole schedule, stopped or released -/

/-- Every pending copy held. -/
def State.stopAll (s : State) : State := { s with sched := s.sched.map Sched.stopped }

/-- Every held act released to edge `due`. -/
def State.releaseAll (s : State) (due : Nat) : State := { s with sched := s.sched.map (Sched.releasedTo due) }

@[simp] theorem State.stopAll_sched : s.stopAll.sched = s.sched.map Sched.stopped := rfl
@[simp] theorem State.stopAll_word (k : RegKey) : s.stopAll.word k = s.word k := rfl
@[simp] theorem State.stopAll_rd (f : Fld) (i o : Nat) : s.stopAll.rd f i o = s.rd f i o := rfl
@[simp] theorem State.releaseAll_sched (due : Nat) :
    (s.releaseAll due).sched = s.sched.map (Sched.releasedTo due) := rfl
@[simp] theorem State.releaseAll_word (due : Nat) (k : RegKey) : (s.releaseAll due).word k = s.word k := rfl
@[simp] theorem State.releaseAll_rd (due : Nat) (f : Fld) (i o : Nat) : (s.releaseAll due).rd f i o = s.rd f i o := rfl

theorem State.stopAll_holds_copies : ∀ e ∈ s.stopAll.sched, e.isCopy = true → e.held = true := by
  intro e he hcopy
  obtain ⟨d, -, rfl⟩ := List.mem_map.mp he
  exact Sched.stopped_held (Sched.stopped_isCopy d ▸ hcopy)

theorem State.mem_stopAll_of_not_copy {e : Sched} (he : e ∈ s.sched) (h : e.isCopy = false) : e ∈ s.stopAll.sched :=
  List.mem_map.mpr ⟨e, he, Sched.stopped_of_not_copy h⟩

theorem State.releaseAll_holds_none (due : Nat) : ∀ e ∈ (s.releaseAll due).sched, e.held = false := by
  intro e he
  obtain ⟨d, -, rfl⟩ := List.mem_map.mp he
  exact Sched.releasedTo_held due d

theorem State.mem_releaseAll_of_held {due : Nat} {e : Sched} (he : e ∈ s.sched) (h : e.held = true) :
    { e with held := false, due := due } ∈ (s.releaseAll due).sched :=
  List.mem_map.mpr ⟨e, he, Sched.releasedTo_of_held h⟩

theorem State.mem_releaseAll_of_free {due : Nat} {e : Sched} (he : e ∈ s.sched) (h : e.held = false) :
    e ∈ (s.releaseAll due).sched :=
  List.mem_map.mpr ⟨e, he, Sched.releasedTo_of_free h⟩

/-! ### Writes of hold -/

theorem State.landHold_of_free (h : s.rd F.devCommitCtlHold = 0) : s.landHold = (s.wr F.devCommitCtlHold 1).stopAll := by
  have hoff : s.on F.devCommitCtlHold = false := by simp [State.on, h]
  rw [State.landHold, if_neg (by simp [hoff])]
  rfl

theorem State.landHoldRelease_eq (s : State) (cyc : Nat) :
    s.landHoldRelease cyc = (s.wr F.devCommitCtlHold 0).releaseAll (s.edgeFor cyc) := rfl

/-! ### A write of DEV_GOP -/

/-- The operations `bits` of a DEV_GOP write wait for the edge that it reaches (R32). -/
def State.askGop (s : State) (bits : Nat) (both : Bool) (cyc : Nat) : State :=
  (s.wr F.devGopStatPending (s.rd F.devGopStatPending ||| bits)).schedule (s.edgeFor cyc) (.gop bits both)

@[simp] theorem State.askGop_sched (bits : Nat) (both : Bool) (cyc : Nat) :
    (s.askGop bits both cyc).sched = s.sched ++ [{ due := s.edgeFor cyc, act := .gop bits both }] := rfl

theorem State.at_askGop_regsBut (s : State) (cyc : Cyc) (bits : Nat) (both : Bool) :
    s.regsBut ((s.at cyc).askGop bits both cyc) [keyOf F.devGopStatPending] :=
  State.regsBut_of_word (State.schedule_word _ _ _) (s.at_wr_regsBut cyc _ _)

/-- DEV_GOP_STAT.pending has a bit for each operation, so no bit of the field is lost. -/
theorem State.askGop_pending {bits : Nat} (both : Bool) (cyc : Nat) (h : bits < 16) :
    (s.askGop bits both cyc).rd F.devGopStatPending = s.rd F.devGopStatPending ||| bits := by
  rw [State.askGop, State.schedule_rd, State.rd_wr_self s _ 0 0 (by decide)]
  exact Nat.mod_eq_of_lt (Nat.or_lt_two_pow (n := 4) (getF_lt_two_pow ..) h)

theorem State.gate_of_ready {p : Page} {i : Nat} {f : State → State} (h : s.ready p i = true) : s.gate p i f = f s :=
  if_pos h

/-- A DEV_GOP word passes its check: it asks for no quench_asn, or carries the guard of one (R32). -/
def GopGuarded (w : Word) : Prop := getF w 3 1 = 0 ∨ getF w 24 8 = 0xA5

/-- A quench_asn without its guard refuses the whole write (R32). -/
theorem State.landGop_of_unguarded (hr : s.ready .dev = true) (h : ¬ GopGuarded w) :
    s.landGop w cyc = ((s.at cyc).wr F.devGopStatRejected 1).raiseBit .dev 0 8 := by
  obtain ⟨hq, hg⟩ := not_or.mp h
  have hlt := getF_lt_two_pow w 3 1
  have hquench : getF w 3 1 = 1 := by omega
  rw [State.landGop, State.gate_of_ready (by simpa using hr)]
  simp [bit_getF, hquench, hg]

/-- A DEV_GOP write that asks for an operation and passes its check: a commit among them releases what is held (R21). -/
theorem State.landGop_of_guarded (hr : s.ready .dev = true) (h : GopGuarded w) (h0 : getF w 0 4 ≠ 0) :
    s.landGop w cyc = if getF w 0 1 = 1 then
      ((s.at cyc).askGop (getF w 0 4) (getF w 8 1 = 1) cyc).releaseAll (s.edgeFor cyc)
      else (s.at cyc).askGop (getF w 0 4) (getF w 8 1 = 1) cyc := by
  have hpass : (bit (getF w 0 4) 3 && decide (getF w 24 8 ≠ 0xA5)) = false := by
    rcases h with h | h <;> simp [bit_getF, h]
  have hcommit : bit (getF w 0 4) 0 = decide (getF w 0 1 = 1) := bit_getF (by decide)
  rw [State.landGop, State.gate_of_ready (by simpa using hr)]
  simp only [hpass, hcommit, h0, decide_eq_true_eq, if_false, Bool.false_eq_true]
  rfl

end Sys2Proof.Machine
end

section
/-! PROOF. The statement on holds and on the global operations. -/

namespace Sys2Proof.Machine

open Sys2Proof

variable {s : State} {w v : Word} {cyc : Cyc}

/-- HOLD while hold is 0 (R21). -/
theorem execHold_of_free (hr : s.ready .dev = true) (h : s.rd F.devCommitCtlHold = 0) :
    execHold cyc s = .next (((s.at cyc).wr F.devCommitCtlHold 1).stopAll).closed := by
  rw [execHold, done_eq, State.gate_of_ready (by simpa using hr), State.landHold_of_free (by simpa using h)]

/-- HOLD_RELEASE (R21). -/
theorem execHoldRelease_of_ready (hr : s.ready .dev = true) :
    execHoldRelease cyc s = .next (((s.at cyc).wr F.devCommitCtlHold 0).releaseAll (s.edgeFor cyc)).closed := by
  rw [execHoldRelease, done_eq, State.gate_of_ready (by simpa using hr), State.landHoldRelease_eq, State.at_edgeFor]

/-- COMMIT whose other operations pass their check: the operations wait for the edge, and what is held goes there too
(R21, R32). -/
theorem execCommit_of_guarded (hr : s.ready .dev = true) (h : GopGuarded w) :
    execCommit w cyc s = .next
      (((s.at cyc).askGop (getF (w ||| 1) 0 4) (getF w 8 1 = 1) cyc).releaseAll (s.edgeFor cyc)).closed := by
  have hguard : GopGuarded (w ||| 1) := by
    rwa [GopGuarded, getF_or_of_zero (by decide), getF_or_of_zero (by decide)]
  have hcommit : getF (w ||| 1) 0 1 = 1 := by
    have hlt : getF (w ||| 1) 0 1 < 2 ^ 1 := getF_lt_two_pow ..
    have hor : getF (w ||| 1) 0 1 = getF w 0 1 ||| 1 := getF_or ..
    have hge : 1 ≤ getF w 0 1 ||| 1 := Nat.right_le_or
    omega
  have hsome : getF (w ||| 1) 0 4 ≠ 0 := by
    rw [getF_or]
    exact fun e => absurd (Nat.or_eq_zero_iff.mp e).2 (by decide)
  rw [execCommit, done_eq, State.landGop_of_guarded hr hguard hsome, if_pos hcommit,
    getF_or_of_zero (v := 1) (lo := 8) (by decide)]

/-- The operations of a DEV_GOP word `w ||| v` that commits nothing wait for their edge and show as pending, where `v` has
bits among those of the operations alone (R32, R33). -/
theorem landGop_plans (hr : s.ready .dev = true) (hw : getF w 0 1 = 0) (hc : getF v 0 1 = 0) (hv : getF v 0 4 ≠ 0)
    (hboth : getF v 8 1 = 0) (hkey : getF v 24 8 = 0) (h : getF (w ||| v) 3 1 = 0 ∨ getF w 24 8 = 0xA5) :
    ∃ t, done (s.landGop (w ||| v) cyc) = .next t ∧ s.plans t (.gop (getF (w ||| v) 0 4) (getF w 8 1 = 1)) cyc ∧
      t.rd F.devGopStatPending = s.rd F.devGopStatPending ||| getF (w ||| v) 0 4 ∧
      s.regsBut t [keyOf F.devGopStatPending] := by
  have hguard : GopGuarded (w ||| v) := by rwa [GopGuarded, getF_or_of_zero hkey]
  have hsome : getF (w ||| v) 0 4 ≠ 0 := by
    rw [getF_or]
    exact fun e => hv (Nat.or_eq_zero_iff.mp e).2
  have hcommit : ¬ getF (w ||| v) 0 1 = 1 := by
    rw [getF_or_of_zero hc, hw]
    decide
  rw [State.landGop_of_guarded hr hguard hsome, if_neg hcommit, getF_or_of_zero hboth, done_eq]
  refine ⟨_, rfl, State.closed_sched _, ?_, State.closed_regsBut (s.at_askGop_regsBut cyc _ _)⟩
  rw [State.closed_rd, State.askGop_pending _ _ (getF_lt_two_pow _ 0 4), State.at_rd]

/-- QUENCH_ASN without its guard (R32). -/
theorem execQuenchAsn_of_unguarded (hr : s.ready .dev = true) (h : getF w 24 8 ≠ 0xA5) :
    execQuenchAsn w cyc s = .next (((s.at cyc).wr F.devGopStatRejected 1).raiseBit .dev 0 8).closed := by
  have hquench : getF (w ||| 8) 3 1 ≠ 0 := by
    rw [getF_or]
    exact fun e => absurd (Nat.or_eq_zero_iff.mp e).2 (by decide)
  have hunguarded : ¬ GopGuarded (w ||| 8) := by
    rw [GopGuarded, getF_or_of_zero (lo := 24) (by decide)]
    exact not_or.mpr ⟨hquench, h⟩
  rw [execQuenchAsn, done_eq, State.landGop_of_unguarded hr hunguarded]

/-- Settles O15: each write by what it does to the schedule, a DEV_GOP write by whether it passes its check and whether it
commits. -/
theorem holdsAndOperations : Obligations.HoldsAndOperations := by
  unfold Obligations.HoldsAndOperations
  refine ⟨fun s cyc hr => ⟨fun hfree => ?hold, ?release, fun w hw => ?commit⟩,
    fun s w cyc hr => ⟨fun c hc h0 hg => ?plain, fun hg => ?refused⟩⟩
  case hold =>
    refine ⟨_, execHold_of_free hr hfree, ?_⟩
    simp only [State.closed_sched, State.closed_rd, State.stopAll_rd]
    refine ⟨State.rd_wr_self _ 1 0 0 (by decide), ?_, ?_, State.stopAll_holds_copies, ?_, ?_⟩
    · simp
    · simp
    · exact fun e he hcopy => State.mem_stopAll_of_not_copy he hcopy
    · exact State.closed_regsBut (State.regsBut_of_word State.stopAll_word (s.at_wr_regsBut cyc _ _))
  case release =>
    refine ⟨_, execHoldRelease_of_ready hr, ?_⟩
    simp only [State.closed_sched, State.closed_rd, State.releaseAll_rd]
    refine ⟨State.rd_wr_self _ 0 0 0 (by decide), ?_, State.releaseAll_holds_none _, ?_, ?_, ?_⟩
    · simp
    · exact fun e he hfree => State.mem_releaseAll_of_free he hfree
    · exact fun e he hheld => State.mem_releaseAll_of_held he hheld
    · exact State.closed_regsBut (State.regsBut_of_word (State.releaseAll_word _) (s.at_wr_regsBut cyc _ _))
  case commit =>
    refine ⟨_, execCommit_of_guarded hr hw, ?_⟩
    simp only [State.closed_sched, State.closed_rd, State.releaseAll_rd]
    refine ⟨State.releaseAll_holds_none _, ?_, ?_, ?_, ?_, ?_⟩
    · exact fun e he hheld => State.mem_releaseAll_of_held (List.mem_append_left _ he) hheld
    · exact fun e he hfree => State.mem_releaseAll_of_free (List.mem_append_left _ he) hfree
    · exact State.mem_releaseAll_of_free (List.mem_append_right _ (List.mem_singleton_self _)) rfl
    · rw [State.askGop, State.schedule_rd, State.rd_wr_apart _ _ 0 0 0 0 (by decide) (by decide), State.at_rd]
    · exact State.closed_regsBut (State.regsBut_of_word (State.releaseAll_word _) (s.at_askGop_regsBut cyc _ _))
  case plain =>
    simp only [List.mem_cons, List.not_mem_nil, or_false] at hc
    rcases hc with rfl | rfl | rfl <;>
      exact landGop_plans hr h0 (by decide) (by decide) (by decide) (by decide) hg
  case refused =>
    refine ⟨_, execQuenchAsn_of_unguarded hr hg, ?_, ?_, ?_⟩
    · rw [State.closed_rd, State.raiseBit_rd]
      exact State.rd_wr_self _ 1 0 0 (by decide)
    · simp
    · exact State.closed_regsBut (State.regsBut_of_word (State.raiseBit_word _ _ _ _) (s.at_wr_regsBut cyc _ _))

end Sys2Proof.Machine
end

section
/-! SUPPORT. Mode requests (R37, R38, R57): which targets the table of R37 allows, and what a request that it allows and one
that it does not allow leave. -/

namespace Sys2Proof.Machine

open Sys2Proof

variable {s : State} {cyc : Cyc} {target : Nat}

/-! ### The table of R37 for requests -/

theorem State.modeAllowed_run : s.modeAllowed 1 =
    decide (s.mode = 2 ∧ (s.rd F.devBootResult = 1 ∨ s.rd F.devBootResult = 2) ∧ s.ready .kvt = true ∧
      s.ready .tmp = true) := by
  simp [State.modeAllowed, State.bootOk, Bool.and_assoc]

theorem State.modeAllowed_officer : s.modeAllowed 2 = decide (s.mode = 2) := rfl

theorem State.modeAllowed_selfTest : s.modeAllowed 3 = decide (s.mode = 2 ∨ s.mode = 3 ∨ s.mode = 5 ∨ s.mode = 6) := rfl

theorem State.modeAllowed_kindling : s.modeAllowed 4 =
    decide (s.mode = 8 ∨ (s.mode = 3 ∧ s.pwr.held = false ∧ s.rd F.tmpDeferDeferred = 0)) := by
  simp [State.modeAllowed, Bool.and_assoc]

/-- The targets 5 to 7 are reserved (R57). -/
theorem State.modeAllowed_reserved (h : 5 ≤ target) : s.modeAllowed target = false := by
  unfold State.modeAllowed
  split
  case h_5 => rfl
  all_goals omega

/-! ### What a request leaves -/

theorem State.modeRequest_of_allowed (hr : s.ready .dev = true) (h : s.modeAllowed target = true) :
    s.modeRequest target cyc = (s.at cyc).putCopy modeReqKey (BitVec.ofNat 32 target) cyc := by
  have h0 : target ≠ 0 := by
    rintro rfl
    cases h
  have hat : (s.at cyc).modeAllowed target = true := h
  rw [State.modeRequest, State.gate_of_ready (by simpa using hr), State.landModeReq, if_neg h0, if_pos hat]

theorem State.modeRequest_of_refused (hr : s.ready .dev = true) (h0 : target ≠ 0) (h : s.modeAllowed target = false) :
    s.modeRequest target cyc = (s.at cyc).wr F.devModeReqRejected 1 := by
  have hat : ¬ (s.at cyc).modeAllowed target = true := Bool.eq_false_iff.mp h
  rw [State.modeRequest, State.gate_of_ready (by simpa using hr), State.landModeReq, if_neg h0, if_neg hat]

/-- An allowed request pends for the edge that its write reaches, and writes no register (R37). -/
theorem modeRequest_pends (hr : s.ready .dev = true) (h : s.modeAllowed target = true) :
    ∃ t, done (s.modeRequest target cyc) = .next t ∧
      s.pends t (keyOf F.devModeReqTarget) (BitVec.ofNat 32 target) cyc ∧ s.regsBut t [] := by
  rw [State.modeRequest_of_allowed hr h, done_eq]
  refine ⟨_, rfl, ?_, State.closed_regsBut fun k _ => by simp⟩
  rw [State.pends, State.closed_sched, State.putCopy_sched, State.at_sched, State.at_edgeFor, State.at_on]
  rfl

/-- A refused request sets DEV_MODE.req_rejected and changes nothing else (R38). -/
theorem modeRequest_refused (hr : s.ready .dev = true) (h0 : target ≠ 0) (h : s.modeAllowed target = false) :
    ∃ t, done (s.modeRequest target cyc) = .next t ∧ t.rd F.devModeReqRejected = 1 ∧ t.mode = s.mode ∧
      t.sched = s.sched ∧ s.regsBut t [keyOf F.devModeReqRejected] := by
  rw [State.modeRequest_of_refused hr h0 h, done_eq]
  refine ⟨_, rfl, ?_, ?_, by simp, State.closed_regsBut (s.at_wr_regsBut cyc _ _)⟩
  · rw [State.closed_rd, State.rd_wr_self _ 1 0 0 (by decide)]
    rfl
  · rw [State.closed_mode, State.mode, State.rd_wr_apart _ _ 0 0 0 0 (by decide) (by decide), State.at_rd, State.mode]

/-- A write of DEV_MODE_REQ is a request of the target that it names (R57). -/
theorem execRegisterWrite_devModeReq (w : Word) :
    execRegisterWrite (.page .dev 0 0x134) w cyc s = done (s.modeRequest (getF w 0 3) cyc) := rfl

end Sys2Proof.Machine
end

section
/-! PROOF. The statements on mode requests. -/

namespace Sys2Proof.Machine

open Sys2Proof

/-- Settles O7: each request by its row of the table of R37. -/
theorem modeRequestsPend : Obligations.ModeRequestsPend := by
  unfold Obligations.ModeRequestsPend
  refine fun s cyc hr => ⟨fun hm hb hk ht => ?run, fun hm => ?officer, fun hm => ?selfTest, fun hm => ?kindling⟩
  case run => exact modeRequest_pends hr (by simp [State.modeAllowed_run, hm, hb, hk, ht])
  case officer => exact modeRequest_pends hr (by simp [State.modeAllowed_officer, hm])
  case selfTest => exact modeRequest_pends hr (by simpa [State.modeAllowed_selfTest] using hm)
  case kindling => exact modeRequest_pends hr (by simpa [State.modeAllowed_kindling] using hm)

/-- Settles O8: a request of each target by its row of the table of R37, and a write that names a reserved target. -/
theorem modeRequestsRefused : Obligations.ModeRequestsRefused := by
  unfold Obligations.ModeRequestsRefused
  intro s cyc w hr c hc h
  simp only [List.mem_cons, List.not_mem_nil, or_false] at hc
  rcases hc with rfl | rfl | rfl | rfl | rfl
  · exact modeRequest_refused hr (by decide) (State.modeAllowed_run.trans h)
  · exact modeRequest_refused hr (by decide) (State.modeAllowed_officer.trans h)
  · exact modeRequest_refused hr (by decide) (State.modeAllowed_selfTest.trans h)
  · exact modeRequest_refused hr (by decide) (State.modeAllowed_kindling.trans h)
  · have hlarge : 5 ≤ getF w 0 3 := by simpa using h
    have hrun := modeRequest_refused (cyc := cyc) hr (by omega) (State.modeAllowed_reserved hlarge)
    rwa [← execRegisterWrite_devModeReq] at hrun

end Sys2Proof.Machine
end

section
/-! SUPPORT. What a field reads after writes to its register, and what has been sent as a command ends. -/

namespace Sys2Proof.Machine

open Sys2Proof

variable {s t : State} {ks : List RegKey}

theorem State.rd_wr_of_lt {f : Fld} {v : Nat} (i o : Nat) (h : f.fits = true) (hv : v < 2 ^ f.w) :
    (s.wr f v i o).rd f i o = v := by
  rw [State.rd_wr_self s v i o h, Nat.mod_eq_of_lt hv]

/-- A one-bit field reads the flag written to it. -/
theorem State.rd_wr_flag {f : Fld} (b : Bool) (i o : Nat) (h : f.fits = true) (hw : f.w = 1) :
    (s.wr f (b2n b) i o).rd f i o = b2n b :=
  State.rd_wr_of_lt i o h (by cases b <;> simp [b2n, hw])

/-- What is sent last before a command ends is sent. -/
theorem State.sends_emit (o : Out) (h : t.out = s.out) : s.sends (t.emit o).closed o := by
  rw [State.sends, ← h]
  exact State.closed_out (t.emit o)

theorem State.emit_regsBut (o : Out) (h : s.regsBut t ks) : s.regsBut (t.emit o) ks :=
  State.regsBut_of_word (State.emit_word t o) h

end Sys2Proof.Machine
end

section
/-! SUPPORT. Accesses (R32, R52, R473, R474, R488): writes that are not taken, bad accesses, and reads that latch. -/

namespace Sys2Proof.Machine

open Sys2Proof

variable {s : State} {cyc : Cyc}

/-! ### Pages that are not ready (R52) -/

theorem State.gate_of_not_ready {p : Page} {i : Nat} {f : State → State} (h : s.ready p i = false) :
    s.gate p i f = s.wr F.devReadyEarlyWrite 1 := if_neg (Bool.eq_false_iff.mp h)

theorem State.gateRead_of_ready {p : Page} {i : Nat} {f : State → State} (h : s.ready p i = true) :
    s.gateRead p i f = f s := if_pos h

theorem State.gateRead_of_not_ready {p : Page} {i : Nat} {f : State → State} (h : s.ready p i = false) :
    s.gateRead p i f = s.emit (.read [0]) := if_neg (Bool.eq_false_iff.mp h)

/-- A write to a page that is no window, by where it lands. -/
theorem State.writeTo_page {p : Page} {i : Fin 256} {off : Fin 4096} (w : Word) (hasnw : p ≠ .asnw) (hfwdw : p ≠ .fwdw) :
    s.writeTo (.page p i off) w cyc = if pageCount p ≤ i.val ∨ p = .slc then s
      else if off.val < 0x100 then s.writeHeader p i off w cyc
      else s.gate p i (fun s => s.writeBlock p i off w cyc) := by
  cases p
  case asnw => exact absurd rfl hasnw
  case fwdw => exact absurd rfl hfwdw
  all_goals rfl

/-- A write to a block register of a page that is not ready (R52). -/
theorem execRegisterWrite_of_not_ready {p : Page} {i : Fin 256} {off : Fin 4096} (w : Word)
    (hp : p ∉ [Page.asnw, .fwdw, .slc]) (hi : i.val < pageCount p) (hoff : 0x100 ≤ off.val) (h : s.ready p i = false) :
    execRegisterWrite (.page p i off) w cyc s = .next ((s.at cyc).wr F.devReadyEarlyWrite 1).closed := by
  simp only [List.mem_cons, List.not_mem_nil, or_false, not_or] at hp
  obtain ⟨hasnw, hfwdw, hslc⟩ := hp
  rw [execRegisterWrite, done_eq, State.writeTo_page w hasnw hfwdw, if_neg (by simp [hslc, hi]), if_neg (by omega),
    State.gate_of_not_ready (by simpa using h)]

/-! ### Bad accesses (R488) -/

/-- DEV_BADADDR with a bad access recorded. -/
def State.noteBad (s : State) (off : BitVec 26) (write refused : Bool) : State :=
  (((s.wr F.devBadaddrOffset off.toNat).wr F.devBadaddrWrite (b2n write)).wr F.devBadaddrRefused (b2n refused)).wr
    F.devBadaddrValid 1

section
variable (off : BitVec 26) (write refused : Bool)

theorem State.noteBad_out : (s.noteBad off write refused).out = s.out :=
  (State.wr_out ..).trans ((State.wr_out ..).trans ((State.wr_out ..).trans (State.wr_out ..)))

theorem State.noteBad_valid : (s.noteBad off write refused).rd F.devBadaddrValid = 1 :=
  State.rd_wr_of_lt 0 0 (by decide) (by decide)

theorem State.noteBad_refused : (s.noteBad off write refused).rd F.devBadaddrRefused = b2n refused := by
  rw [State.noteBad, State.rd_wr_apart _ _ 0 0 0 0 (by decide) (by decide), State.rd_wr_flag _ 0 0 (by decide) rfl]

theorem State.noteBad_write : (s.noteBad off write refused).rd F.devBadaddrWrite = b2n write := by
  rw [State.noteBad, State.rd_wr_apart _ _ 0 0 0 0 (by decide) (by decide),
    State.rd_wr_apart _ _ 0 0 0 0 (by decide) (by decide), State.rd_wr_flag _ 0 0 (by decide) rfl]

theorem State.noteBad_offset : (s.noteBad off write refused).rd F.devBadaddrOffset = off.toNat := by
  rw [State.noteBad, State.rd_wr_apart _ _ 0 0 0 0 (by decide) (by decide),
    State.rd_wr_apart _ _ 0 0 0 0 (by decide) (by decide), State.rd_wr_apart _ _ 0 0 0 0 (by decide) (by decide),
    State.rd_wr_of_lt 0 0 (by decide) (by simpa [F.devBadaddrOffset] using off.isLt)]

theorem State.noteBad_regsBut : s.regsBut (s.noteBad off write refused) [keyOf F.devBadaddrValid] := by
  have hkey : keyOf F.devBadaddrValid ∈ [keyOf F.devBadaddrValid] := List.mem_singleton_self _
  exact State.regsBut_wr _ (State.regsBut_wr _ (State.regsBut_wr _ (State.regsBut_wr _ (State.regsBut_refl _ _) hkey)
    hkey) hkey) hkey

/-- What a bad access is answered: a read that is not refused reads 0. -/
def State.answerBad (s : State) (write refused : Bool) : State :=
  if write then s else s.emit (if refused then .unsupported else .read [0])

theorem State.answerBad_read : s.answerBad false refused = s.emit (if refused then .unsupported else .read [0]) := rfl

theorem State.answerBad_word (k : RegKey) : (s.answerBad write refused).word k = s.word k := by
  unfold State.answerBad
  split <;> simp

theorem State.answerBad_rd (f : Fld) (i o : Nat) : (s.answerBad write refused).rd f i o = s.rd f i o :=
  congrArg (getF · f.lo f.w) (s.answerBad_word write refused _)

/-- The first bad access is recorded. -/
theorem execBadAccess_of_first (h : s.rd F.devBadaddrValid = 0) :
    execBadAccess off write refused s = .next ((s.noteBad off write refused).answerBad write refused).closed := by
  have hon : ¬ s.on F.devBadaddrValid = true := by simp [State.on, h]
  unfold execBadAccess
  rw [if_neg hon, done_eq]
  rfl

/-- A later one is only answered. -/
theorem execBadAccess_of_later (h : s.rd F.devBadaddrValid = 1) :
    execBadAccess off write refused s = .next (s.answerBad write refused).closed := by
  have hon : s.on F.devBadaddrValid = true := by simp [State.on, h]
  unfold execBadAccess
  rw [if_pos hon, done_eq]
  rfl

end

/-! ### Reads that latch -/

/-- DEV_TICK_LO of a page that is ready (R32). -/
theorem execTickRead_of_ready (h : s.ready .dev = true) : execTickRead cyc s = .next
    (((s.at cyc).wr F.devTickHiTickHi (s.tick / 2 ^ 32)).emit (.read [BitVec.ofNat 32 s.tick])).closed := by
  rw [execTickRead, done_eq, State.gateRead_of_ready (by simpa using h)]
  rfl

theorem execTickRead_of_not_ready (h : s.ready .dev = false) :
    execTickRead cyc s = .next ((s.at cyc).emit (.read [0])).closed := by
  rw [execTickRead, done_eq, State.gateRead_of_not_ready (by simpa using h)]

/-- A read of CNT_VAL_LO changes no shadow (R473). -/
theorem execCounterRead_shadow {p : Page} {i : Fin 256} {c : Fin 8} {t : State} (h : execCounterRead p i c s = .next t)
    (p' : Page) (i' c' : Nat) : (t.ctr p' i' c').shadow = (s.ctr p' i' c').shadow := by
  cases h
  have hset : SameRep s (s.setCtr p i c { s.ctr p i c with hi := (s.ctr p i c).high }) := SameRep.setCtr p i c _ rfl
  exact ((State.closed_rep _).shadow p' i' c').trans (hset.shadow p' i' c')

/-- The counter that a read of SLC_CTR_LO finds: the one selected, where the slice has permission (R474). -/
def State.sliceCounter (s : State) (n : SliceNo) : Counter :=
  match counterAt (s.rd F.slcCtrSelOffset n) with
  | some k => if s.on F.hstSresCounterRead 0 n then mget {} s.rep.ctrs k else {}
  | none => {}

theorem State.sliceCounter_of_granted {n : SliceNo} {k : RegKey} (h : s.rd F.hstSresCounterRead 0 n = 1)
    (hk : counterAt (s.rd F.slcCtrSelOffset n) = some k) : s.sliceCounter n = mget {} s.rep.ctrs k := by
  simp [State.sliceCounter, hk, State.on, h]

theorem State.sliceCounter_of_denied {n : SliceNo} (h : s.rd F.hstSresCounterRead 0 n = 0) : s.sliceCounter n = {} := by
  unfold State.sliceCounter
  split <;> simp [State.on, h]

/-- SLC_CTR_LO where HST is ready (R474). -/
theorem execSliceCounterRead_of_ready {n : SliceNo} (h : s.ready .hst = true) :
    execSliceCounterRead n s = .next ((s.wr F.slcCtrHiValueHi (s.sliceCounter n).high.toNat n).emit
      (.read [BitVec.ofNat 32 (s.sliceCounter n).shadow])).closed := by
  rw [execSliceCounterRead, done_eq, State.gateRead_of_ready h]
  rfl

end Sys2Proof.Machine
end

section
/-! PROOF. The statement on accesses. -/

namespace Sys2Proof.Machine

open Sys2Proof

/-- Settles O14: writes by the gate of their page, bad accesses by whether one stands, and each read that latches. -/
theorem accesses : Obligations.Accesses := by
  unfold Obligations.Accesses
  refine ⟨fun s p i off w cyc hp hi hoff hnr => ⟨?early, fun hdev => ?unready⟩,
    fun s off write refused => ⟨fun hfirst => ?first, fun hlater => ?later⟩,
    fun s => ⟨fun cyc hr => ?tick, fun p i c => ?counter, fun n k hr hon hk => ?slice, fun n hr hoff => ?denied⟩⟩
  case early =>
    refine ⟨_, execRegisterWrite_of_not_ready w hp hi hoff hnr, ?_, ?_, by simp⟩
    · rw [State.closed_rd]
      exact State.rd_wr_of_lt 0 0 (by decide) (by decide)
    · exact State.closed_regsBut (s.at_wr_regsBut cyc _ _)
  case unready =>
    refine ⟨_, execTickRead_of_not_ready hdev, State.sends_emit _ (State.at_out _ _), ?_⟩
    exact State.closed_regsBut (State.emit_regsBut _ fun k _ => State.at_word _ _ k)
  case first =>
    refine ⟨_, execBadAccess_of_first off write refused hfirst, ?_⟩
    simp only [State.closed_rd, State.answerBad_rd]
    refine ⟨State.noteBad_valid .., State.noteBad_offset .., State.noteBad_write .., State.noteBad_refused .., ?_, ?_⟩
    · exact State.closed_regsBut (State.regsBut_of_word (State.answerBad_word _ _) (State.noteBad_regsBut off write refused))
    · rintro rfl
      rw [State.answerBad_read]
      exact State.sends_emit _ (State.noteBad_out ..)
  case later =>
    refine ⟨_, execBadAccess_of_later off write refused hlater, ?_⟩
    exact State.closed_regsBut fun k _ => State.answerBad_word _ _ k
  case tick =>
    refine ⟨_, execTickRead_of_ready hr, State.sends_emit _ (by simp), ?_, ?_⟩
    · rw [State.closed_rd, State.emit_rd]
      exact State.rd_wr_self _ _ 0 0 (by decide)
    · exact State.closed_regsBut (State.emit_regsBut _ (s.at_wr_regsBut cyc _ _))
  case counter =>
    refine ⟨_, rfl, State.sends_emit _ (State.setCtr_out ..), fun p' i' c' => execCounterRead_shadow rfl p' i' c', ?_⟩
    exact State.closed_regsBut (State.emit_regsBut _ fun k _ => State.setCtr_word ..)
  case slice =>
    have hcounter := State.sliceCounter_of_granted hon hk
    refine ⟨_, execSliceCounterRead_of_ready hr, ?_⟩
    rw [hcounter]
    refine ⟨State.sends_emit _ (State.wr_out ..), ?_, ?_⟩
    · rw [State.closed_rd, State.emit_rd]
      exact State.rd_wr_of_lt n 0 (by decide) (by simpa [F.slcCtrHiValueHi] using BitVec.isLt _)
    · exact State.closed_regsBut (State.emit_regsBut _
        (State.regsBut_wr _ (State.regsBut_refl _ _) (List.mem_singleton_self _)))
  case denied =>
    refine ⟨_, execSliceCounterRead_of_ready hr, ?_⟩
    rw [State.sliceCounter_of_denied hoff]
    exact State.sends_emit _ (State.wr_out ..)

end Sys2Proof.Machine
end

section
/-! SUPPORT. Changes of mode and of the supply (R36 to R42, R44, R45, R57): what each operation on the mode, the supply flags and
the release of a reset writes, and what it leaves. -/

namespace Sys2Proof.Machine

open Sys2Proof

variable {s t : State} {l : List Part} {ks : List RegKey}

/-! ### Registers of pages that a change does not touch -/

theorem Keeps.word (h : Keeps (mask l) s t) {k : RegKey} (hk : Part.page k.page ∉ l) : t.word k = s.word k :=
  h.frame (.page k.page) (Bool.eq_false_iff.mpr fun e => hk ((mask_testBit_iff l _).mp e)) k.off k.inst k.obj

theorem Keeps.rd (h : Keeps (mask l) s t) (f : Fld) (i o : Nat) (hf : Part.page f.page ∉ l) : t.rd f i o = s.rd f i o :=
  congrArg (getF · f.lo f.w) (h.word (k := keyOf f i o) hf)

theorem Keeps.ready (h : Keeps (mask l) s t) (p : Page) (i : Nat) (hp : Part.page p ∉ l) : t.ready p i = s.ready p i := by
  simp only [State.ready, State.on, h.rd (F.pageReady p) i 0 hp]

/-- A field raised by `n`, saturating. -/
theorem State.rd_bumpReg_self {f : Fld} (n i o : Nat) (h : f.fits = true) :
    (s.bumpReg f n i o).rd f i o = satAdd f.w (s.rd f i o) n := by
  refine State.rd_wr_of_lt i o h ?_
  have hpos := Nat.two_pow_pos f.w
  unfold satAdd
  omega

theorem State.regsBut_bumpReg {f : Fld} (n : Nat) {i o : Nat} (h : s.regsBut t ks) (hk : keyOf f i o ∈ ks) :
    s.regsBut (t.bumpReg f n i o) ks := State.regsBut_wr _ h hk

/-! ### A change of mode (R57, R399) -/

theorem State.mode_lt (s : State) : s.mode < 2 ^ 4 := getF_lt_two_pow ..

/-- DEV_MODE with the mode changed, before PAIR_LOCK is looked at. -/
def State.modeWritten (s : State) (m : Nat) : State := (s.wr F.devModePrevMode s.mode).wr F.devModeMode m

/-- What a change of mode writes: DEV_MODE, and FLU_STAT where PAIR_LOCK is released. -/
theorem State.setMode_keeps_written (m : Nat) : Keeps (mask [.pair, .page .flu]) (s.modeWritten m) (s.setMode m) :=
  Keeps.ite (Keeps.refl _) State.freeLock_keeps

theorem State.setMode_mode {m : Nat} (h : m < 16) : (s.setMode m).mode = m := by
  rw [State.mode, (State.setMode_keeps_written m).rd _ 0 0 (by decide)]
  exact State.rd_wr_of_lt 0 0 (by decide) h

theorem State.setMode_prevMode (m : Nat) : (s.setMode m).rd F.devModePrevMode = s.mode := by
  rw [(State.setMode_keeps_written m).rd _ 0 0 (by decide), State.modeWritten,
    State.rd_wr_apart _ _ 0 0 0 0 (by decide) (by decide), State.rd_wr_of_lt 0 0 (by decide) s.mode_lt]

theorem State.freeLock_regsBut : s.regsBut s.freeLock [keyOf F.fluStatLockHeld] := by
  unfold State.freeLock
  split
  · have hwr : s.regsBut (s.wr F.fluStatLockHeld 0) [keyOf F.fluStatLockHeld] :=
      State.regsBut_wr _ (State.regsBut_refl _ _) (List.mem_singleton_self _)
    exact State.regsBut_of_word (fun _ => rfl) hwr
  · exact State.regsBut_refl _ _

theorem State.regsBut_mono {ks ks' : List RegKey} (h : s.regsBut t ks) (hs : ks ⊆ ks') : s.regsBut t ks' :=
  fun k hk => h k fun e => hk (hs e)

theorem State.regsBut_setMode (m : Nat) (h : s.regsBut t ks) (hmode : keyOf F.devModeMode ∈ ks)
    (hlock : keyOf F.fluStatLockHeld ∈ ks) : s.regsBut (t.setMode m) ks := by
  have hwritten : s.regsBut (t.modeWritten m) ks := State.regsBut_wr _ (State.regsBut_wr _ h hmode) hmode
  have hfree : s.regsBut (t.modeWritten m).freeLock ks :=
    State.regsBut_trans hwritten (State.regsBut_mono State.freeLock_regsBut (by simpa using hlock))
  show s.regsBut (if (t.modeWritten m).sealing then t.modeWritten m else (t.modeWritten m).freeLock) ks
  split <;> assumption

/-- With nothing deferred no hold comes of it (R434). -/
theorem State.holdCheck_of_none (h : s.rd F.tmpDeferDeferred = 0) : s.holdCheck = s :=
  if_neg (by simp [h])

/-! ### Rails below their inhibit threshold (R42) -/

theorem mayBrownout_of_le (h : 2 ≤ s.mode) (h' : s.mode ≤ 8) : mayBrownout s.mode = true := by simp [mayBrownout, h, h']

/-- The state in which BROWNOUT is entered: NV writes are inhibited, and a running flush has ended (R42, R465). -/
def State.inhibited (s : State) (flushed : Nat) : State :=
  ((s.wr F.pwrStatNvInhibit 1).modPwr (fun p => { p with releasedTicks := 0 })).endFlush flushed

theorem State.inhibited_keeps (flushed : Nat) :
    Keeps (mask [.rep, .pwr, .page .pwr, .page .evr]) s (s.inhibited flushed) :=
  ((State.wr_keeps.mono (by rfl)).trans (State.modPwr_keeps.mono (by rfl))).trans (State.endFlush_keeps.mono (by rfl))

/-- Of the PWR page, the flush leaves everything. -/
theorem State.inhibited_rd (flushed : Nat) {f : Fld} (hf : f.page = .pwr) :
    (s.inhibited flushed).rd f = (s.wr F.pwrStatNvInhibit 1).rd f := by
  rw [State.inhibited, State.endFlush_keeps.rd f 0 0 (by rw [hf]; decide), State.modPwr_rd]

theorem State.inhibited_mode (flushed : Nat) : (s.inhibited flushed).mode = s.mode :=
  (State.inhibited_keeps flushed).rd _ 0 0 (by decide)

theorem State.inhibited_pwr (flushed : Nat) : (s.inhibited flushed).pwr = { s.pwr with releasedTicks := 0 } :=
  State.endFlush_keeps.frame .pwr (by decide)

theorem State.belowInhibit_of_may (flushed : Nat) (h : mayBrownout s.mode = true) :
    s.belowInhibit flushed = ((s.inhibited flushed).setMode 11).bumpReg F.pwrEvtBrownouts 1 :=
  if_pos (by rwa [← State.inhibited_mode flushed] at h)

end Sys2Proof.Machine
end

section
/-! SUPPORT. The commands that change the mode in the cycle of their condition (R37, R44). -/

namespace Sys2Proof.Machine

open Sys2Proof

variable {s : State}

theorem State.setMode_deferred (m : Nat) : (s.setMode m).rd F.tmpDeferDeferred = s.rd F.tmpDeferDeferred :=
  State.setMode_keeps.rd _ 0 0 (by decide)

theorem execSelfTestComplete_of_selfTest (hm : s.mode = 8) (hd : s.rd F.tmpDeferDeferred = 0) :
    execSelfTestComplete s = .next (s.setMode 2).closed := by
  rw [execSelfTestComplete, if_pos hm, State.holdCheck_of_none (by rwa [State.setMode_deferred]), done_eq]

theorem execBrownoutExit_of_released (hm : s.mode = 11) (hr : 16 ≤ s.pwr.releasedTicks)
    (hd : s.rd F.tmpDeferDeferred = 0) :
    execBrownoutExit s = .next ((s.wr F.pwrStatNvInhibit 0).setMode (s.rd F.devModePrevMode)).closed := by
  have hd' : ((s.wr F.pwrStatNvInhibit 0).setMode (s.rd F.devModePrevMode)).rd F.tmpDeferDeferred = 0 := by
    rw [State.setMode_deferred, State.rd_wr_apart _ _ 0 0 0 0 (by decide) (by decide), hd]
  rw [execBrownoutExit, if_pos ⟨hm, hr⟩, State.holdCheck_of_none hd', done_eq]

theorem execQuenchComplete_of_empty (hm : s.mode = 9) (hq : s.pwr.quenched = true) (hs : s.pwr.sweepFrom = none)
    (hdue : ∀ e ∈ s.sched, e.act ≠ .asnQuench) :
    execQuenchComplete s = .next ((s.setMode 10).modPwr (fun p => { p with quenched := false })).closed := by
  have hnone : (s.sched.any (fun e => decide (e.act = .asnQuench))) = false := by simpa using hdue
  unfold execQuenchComplete
  rw [hnone, done_eq, if_pos ⟨hm, hq, hs, rfl⟩]

theorem execColdGuardEntry_of_reset (hm : s.mode = 1) :
    execColdGuardEntry s = .next ((s.setRails 32).setMode 0).closed := by
  rw [execColdGuardEntry, if_pos hm, done_eq]

theorem execRailBelowInhibit_of_may (flushed : Nat) (h2 : 2 ≤ s.mode) (h8 : s.mode ≤ 8) :
    execRailBelowInhibit flushed s =
      .next (((s.inhibited flushed).setMode 11).bumpReg F.pwrEvtBrownouts 1).closed := by
  rw [execRailBelowInhibit, if_neg (by omega), State.belowInhibit_of_may flushed (mayBrownout_of_le h2 h8), done_eq]

/-! ### The release of a reset (R44) -/

theorem State.mayRelease_of {r : ReleaseIn} (hm : s.mode = 1) (hrails : r.rails = 31) (href : r.refStable = true)
    (hreset : r.resetN = true) (hperst : r.perstN = true) (htest : r.testEn = false)
    (hwarm : s.pwr.warm = true → s.pwr.warmFrom + 125 ≤ s.tick) : s.mayRelease r = true := by
  cases hw : s.pwr.warm <;> simp_all [State.mayRelease]

/-- The registers and the seeded DRBG as the release of a reset leaves them, with `rails` as the monitors' bits. -/
def State.released (s : State) (rails : Nat) (esOk side : Bool) : State :=
  let prev := s.rd F.devModePrevMode
  let s := s.emberNoted.setRails rails
  let s := ((s.setMode 2).wr F.devModePrevMode (if prev = 0 then 0 else 1)).wr F.kvtDrbgEsOk (b2n esOk)
  onlyIf esOk State.seedDevice (s.wr F.fluStatSide (b2n side))

theorem execResetRelease_of_may {r : ReleaseIn} (esOk side : Bool) (h : s.mayRelease r = true) :
    ∃ p : Pair, execResetRelease r esOk side s =
      .next { s.released (r.rails.toNat + 32 * b2n r.vbatOk) esOk side with pair := p : State }.closed := by
  rw [execResetRelease, if_pos h, done_eq]
  exact ⟨_, rfl⟩

section
variable (rails : Nat) (esOk side : Bool)

/-- What the seeding of the DRBG leaves of the release. -/
theorem State.released_keeps : Keeps (mask [.vault, .fresh, .page .kvt])
    (((((s.emberNoted.setRails rails).setMode 2).wr F.devModePrevMode (if s.rd F.devModePrevMode = 0 then 0 else 1)).wr
      F.kvtDrbgEsOk (b2n esOk)).wr F.fluStatSide (b2n side)) (s.released rails esOk side) :=
  Keeps.onlyIf (fun _ => State.seedDevice_keeps) (Keeps.refl _)

theorem State.released_mode : (s.released rails esOk side).mode = 2 := by
  rw [State.mode, (State.released_keeps rails esOk side).rd _ 0 0 (by decide),
    State.rd_wr_apart _ _ 0 0 0 0 (by decide) (by decide), State.rd_wr_apart _ _ 0 0 0 0 (by decide) (by decide),
    State.rd_wr_apart _ _ 0 0 0 0 (by decide) (by decide)]
  exact State.setMode_mode (by decide)

theorem State.released_side : (s.released rails esOk side).rd F.fluStatSide = b2n side := by
  rw [(State.released_keeps rails esOk side).rd _ 0 0 (by decide), State.rd_wr_flag _ 0 0 (by decide) rfl]

theorem State.released_rails (h : rails < 64) : (s.released rails esOk side).rd F.pwrStatRailOk = rails := by
  rw [(State.released_keeps rails esOk side).rd _ 0 0 (by decide),
    State.rd_wr_apart _ _ 0 0 0 0 (by decide) (by decide), State.rd_wr_apart _ _ 0 0 0 0 (by decide) (by decide),
    State.rd_wr_apart _ _ 0 0 0 0 (by decide) (by decide), State.setMode_keeps.rd _ 0 0 (by decide)]
  exact State.rd_wr_of_lt 0 0 (by decide) h

theorem State.seedDevice_esOk : s.seedDevice.rd F.kvtDrbgEsOk = s.rd F.kvtDrbgEsOk :=
  State.rd_wr_apart _ _ 0 0 0 0 (by decide) (by decide)

theorem State.released_esOk : (s.released rails esOk side).rd F.kvtDrbgEsOk = b2n esOk := by
  have hseed : ∀ u : State, (onlyIf esOk State.seedDevice u).rd F.kvtDrbgEsOk = u.rd F.kvtDrbgEsOk := by
    intro u
    unfold onlyIf
    split
    · exact State.seedDevice_esOk
    · rfl
  rw [State.released, hseed, State.rd_wr_apart _ _ 0 0 0 0 (by decide) (by decide),
    State.rd_wr_flag _ 0 0 (by decide) rfl]

/-- Outside DEV and KVT the release writes PAIR_LOCK, the SIDE strap and the monitors' bits. -/
theorem State.released_word {k : RegKey} (hdev : k.page ≠ .dev) (hkvt : k.page ≠ .kvt)
    (hlock : k ≠ keyOf F.fluStatLockHeld) (hside : k ≠ keyOf F.fluStatSide) (hrails : k ≠ keyOf F.pwrStatRailOk) :
    (s.released rails esOk side).word k = s.word k := by
  have hmode : k ∉ [keyOf F.devModeMode, keyOf F.fluStatLockHeld] := by
    simp only [List.mem_cons, List.not_mem_nil, or_false, not_or]
    exact ⟨fun e => hdev (e ▸ rfl), hlock⟩
  have hset : ∀ u : State, (u.setMode 2).word k = u.word k := fun u =>
    State.regsBut_setMode 2 (u.regsBut_refl _) (by simp) (by simp) k hmode
  have hdevKey : k ≠ keyOf F.devModePrevMode := fun e => hdev (e ▸ rfl)
  have hkvtKey : k ≠ keyOf F.kvtDrbgEsOk := fun e => hkvt (e ▸ rfl)
  rw [(State.released_keeps rails esOk side).word (by simpa using hkvt), State.wr_word_ne _ _ hside,
    State.wr_word_ne _ _ hkvtKey, State.wr_word_ne _ _ hdevKey, hset, State.setRails, State.wr_word_ne _ _ hrails]
  exact State.emberNoted_keeps.word (by simpa using hdev)

end

end Sys2Proof.Machine
end

section
/-! SUPPORT. Boot and readiness (R45, R50, R53, R55, R56, R173): what a verified image loads, and how the bring-up of the Stoves
leaves it. -/

namespace Sys2Proof.Machine

open Sys2Proof

variable {s t : State}

/-! ### What is done for each of `n` things in turn -/

theorem forN_succ {σ : Type} (n : Nat) (f : Nat → σ → σ) (x : σ) : forN (n + 1) f x = f n (forN n f x) := by
  simp [forN, List.range_succ]

/-- What each round brings about for its own thing, and no other round undoes, holds of every thing at the end. -/
theorem forN_each {σ : Type} {f : Nat → σ → σ} {P : Nat → σ → Prop} (hset : ∀ c x, P c (f c x))
    (hkeep : ∀ c d x, d ≠ c → P d x → P d (f c x)) (n : Nat) (x : σ) : ∀ c < n, P c (forN n f x) := by
  induction n with
  | zero => exact fun c hc => absurd hc (Nat.not_lt_zero c)
  | succ n ih =>
    intro c hc
    rw [forN_succ]
    rcases Nat.lt_succ_iff_lt_or_eq.mp hc with h | rfl
    · exact hkeep n c _ (Nat.ne_of_lt h) (ih c h)
    · exact hset _ _

/-! ### The microcode stands through the bring-up of the Stoves (R173, R199) -/

/-- STV_UCODE and the microcode of every Chimney are the same. -/
structure SameCode (s t : State) : Prop where
  word : ∀ i o, t.word ⟨.stv, 0x118, i, o⟩ = s.word ⟨.stv, 0x118, i, o⟩
  ucode : ∀ d, (t.chim d).ucode = (s.chim d).ucode

theorem SameCode.refl (s : State) : SameCode s s := ⟨fun _ _ => rfl, fun _ => rfl⟩

theorem SameCode.trans {u : State} (h : SameCode s t) (h' : SameCode t u) : SameCode s u :=
  ⟨fun i o => (h'.word i o).trans (h.word i o), fun d => (h'.ucode d).trans (h.ucode d)⟩

/-- One more change. -/
theorem SameCode.step {u : State} (h' : SameCode t u) (h : SameCode s t) : SameCode s u := h.trans h'

theorem SameCode.of_keeps {l : List Part} (h : Keeps (mask l) s t) (hstv : Part.page .stv ∉ l) (hchims : Part.chims ∉ l) :
    SameCode s t := by
  have hc : t.chims = s.chims := h.frame .chims (Bool.eq_false_iff.mpr fun e => hchims ((mask_testBit_iff l _).mp e))
  exact ⟨fun i o => h.word hstv, fun d => by rw [State.chim, State.chim, hc]⟩

theorem SameCode.wr {f : Fld} (v i o : Nat) (h : (f.page, f.off) ≠ (.stv, 0x118)) : SameCode s (s.wr f v i o) :=
  ⟨fun _ _ => State.wr_word_ne s v (fun e => h (congrArg (fun k => (k.page, k.off)) e).symm), fun _ => by simp⟩

theorem SameCode.modChim (c : Nat) {f : ChimRt → ChimRt} (h : ∀ r, (f r).ucode = r.ucode) : SameCode s (s.modChim c f) := by
  refine ⟨fun _ _ => State.modChim_word .., fun d => ?_⟩
  by_cases hd : d = c
  · rw [hd, State.modChim_chim_self, h]
  · rw [State.modChim_chim_ne s f hd]

theorem SameCode.forL {α : Type} {f : α → State → State} (h : ∀ a s, SameCode s (f a s)) (l : List α) :
    ∀ s, SameCode s (forL l f s) := by
  induction l with
  | nil => exact .refl
  | cons a l ih => exact fun s => (h a s).trans (ih (f a s))

theorem SameCode.stvRefresh (c : Nat) : SameCode s (s.stvRefresh c) :=
  (SameCode.wr _ c 0 (by decide)).trans (.wr _ c 0 (by decide))

theorem SameCode.seedChimney (c : Nat) : SameCode s (s.seedChimney c) := by
  have hburn : SameCode s (s.burn 1) := .of_keeps State.burn_keeps (by decide) (by decide)
  unfold State.seedChimney
  exact .step (.stvRefresh c) (.step (.wr 1 c 0 (by decide)) (.step (.modChim c fun _ => rfl) hburn))

theorem SameCode.katFailed (c k : Nat) : SameCode s (s.katFailed c k) := by
  have hcount : SameCode s (s.count .stv c 2) := .of_keeps State.count_keeps (by decide) (by decide)
  have hfault : ∀ u : State, SameCode u (u.fault .stv c (96 + k)) := fun u =>
    .of_keeps State.fault_keeps (by decide) (by decide)
  have hevent : ∀ u : State, SameCode u (u.event F.chmEvtKatFail c) := fun u =>
    .of_keeps State.event_keeps (by decide) (by decide)
  have hoff : ((katFld k).page, (katFld k).off) ≠ (.stv, 0x118) := by
    unfold katFld
    split <;> simp
  unfold State.katFailed
  exact .step (.wr 0 c 0 hoff) (.step (hevent _) (.step (hfault _) hcount))

theorem SameCode.stvSet (c : Nat) (ks : List Nat) (own : StvOwn) : SameCode s (s.stvSet c ks own) := by
  have hevent : ∀ (b : Bool) (u : State), SameCode u (onlyIf b (fun s => s.event F.chmEvtOutOfService c) u) := fun b u =>
    .of_keeps (Keeps.onlyIf (fun _ => State.event_keeps) (Keeps.refl _)) (by decide) (by decide)
  have hcycles : SameCode s (s.stoveCycles c s.cycle) := by
    unfold State.stoveCycles
    exact .modChim c fun _ => rfl
  unfold State.stvSet
  exact .step (.stvRefresh c) (.step (hevent _ _) (.step (.modChim c fun _ => rfl) hcycles))

theorem SameCode.stvBringUp (c : Nat) : SameCode s (s.stvBringUp c) := by
  unfold State.stvBringUp
  split
  · exact (SameCode.seedChimney c).trans (.modChim c fun _ => rfl)
  · exact (SameCode.forL (fun k _ => .katFailed c k) _ _).trans (.stvSet c _ _)

/-! ### What a verified image loads (R55, R173) -/

/-- The microcode of image `i` loaded into Chimney `c`, and its Stoves brought up. -/
def State.loadStove (i : SlotImage) (c : Nat) (s : State) : State :=
  (((s.wr F.stvUcodeVersion i.microcode.val c).wr F.stvUcodeWords i.words.length c).modChim c
    (fun r => { r with ucode := i.words })).stvBringUp c

/-- Chimney `c` holds the microcode of image `i`. -/
def State.holdsCode (i : SlotImage) (c : Nat) (s : State) : Prop :=
  s.rd F.stvUcodeVersion c = i.microcode.val ∧ s.rd F.stvUcodeWords c = i.words.length % 4096 ∧ (s.chim c).ucode = i.words

theorem SameCode.holdsCode {i : SlotImage} {c : Nat} (h : SameCode s t) (hs : s.holdsCode i c) : t.holdsCode i c := by
  obtain ⟨hversion, hwords, hcode⟩ := hs
  exact ⟨(congrArg (getF · 0 16) (h.word c 0)).trans hversion, (congrArg (getF · 16 12) (h.word c 0)).trans hwords,
    (h.ucode c).trans hcode⟩

theorem State.loadStove_holds (i : SlotImage) (c : Nat) (s : State) : (s.loadStove i c).holdsCode i c := by
  refine (SameCode.stvBringUp c).holdsCode ⟨?_, ?_, ?_⟩
  · rw [State.modChim_rd, State.rd_wr_apart _ _ c 0 c 0 (by decide) (by decide)]
    exact State.rd_wr_of_lt c 0 (by decide) i.microcode.isLt
  · rw [State.modChim_rd]
    exact State.rd_wr_self _ _ c 0 (by decide)
  · rw [State.modChim_chim_self]

/-- Loading another Chimney leaves what Chimney `d` holds. -/
theorem State.loadStove_keeps_code (i : SlotImage) {c d : Nat} (s : State) (hd : d ≠ c) (h : s.holdsCode i d) :
    (s.loadStove i c).holdsCode i d := by
  obtain ⟨hversion, hwords, hcode⟩ := h
  refine (SameCode.stvBringUp c).holdsCode ⟨?_, ?_, ?_⟩
  · rw [State.modChim_rd, State.rd_wr_other _ _ c 0 d 0 (.inl hd), State.rd_wr_other _ _ c 0 d 0 (.inl hd), hversion]
  · rw [State.modChim_rd, State.rd_wr_other _ _ c 0 d 0 (.inl hd), State.rd_wr_other _ _ c 0 d 0 (.inl hd), hwords]
  · rw [State.modChim_chim_ne _ _ hd, State.wr_chim, State.wr_chim, hcode]

/-- DEV_BOOT as a verified image leaves it, before the Stoves are loaded. -/
def State.imageChosen (s : State) (result : Nat) (i : SlotImage) : State :=
  ((s.wr F.devBootResult result).wr F.devBootVersion i.version.val).modPwr
    (fun p => { p with fwKey := i.key, spiReleased := false })

theorem State.runImage_eq (result : Nat) (i : SlotImage) :
    s.runImage result i = forN 8 (State.loadStove i) (s.imageChosen result i) := rfl

theorem State.runImage_holds (result : Nat) (i : SlotImage) (c : ChimneyNo) : (s.runImage result i).holdsCode i c :=
  forN_each (P := State.holdsCode i) (State.loadStove_holds i) (fun _ _ s => State.loadStove_keeps_code i s) 8 _ c c.isLt

/-- Loading the Stoves leaves the DEV page. -/
theorem State.runImage_keeps_dev (result : Nat) (i : SlotImage) :
    Keeps (mask [.rep, .chims, .fresh, .page .chm, .page .stv]) (s.imageChosen result i) (s.runImage result i) := by
  refine Keeps.forN (fun c u => ?_) (Keeps.refl _)
  refine Keeps.step State.stvBringUp_keeps (by rfl) (Keeps.step State.modChim_keeps (by rfl) ?_)
  exact Keeps.step State.wr_keeps (by rfl) (State.wr_keeps.mono (by rfl))

theorem State.runImage_result {result : Nat} (i : SlotImage) (h : result < 16) :
    (s.runImage result i).rd F.devBootResult = result := by
  rw [(State.runImage_keeps_dev result i).rd _ 0 0 (by decide), State.imageChosen, State.modPwr_rd,
    State.rd_wr_apart _ _ 0 0 0 0 (by decide) (by decide), State.rd_wr_of_lt 0 0 (by decide) h]

theorem State.runImage_version (result : Nat) (i : SlotImage) :
    (s.runImage result i).rd F.devBootVersion = i.version.val := by
  rw [(State.runImage_keeps_dev result i).rd _ 0 0 (by decide), State.imageChosen, State.modPwr_rd]
  exact State.rd_wr_of_lt 0 0 (by decide) i.version.isLt

/-- The result code is that of a slot (R57). -/
theorem State.bootChoice_lt {a b i : SlotImage} {n : Nat} (h : s.bootChoice a b = some (n, i)) : n < 16 := by
  unfold State.bootChoice at h
  simp only at h
  split at h
  · cases h
    decide
  split at h
  · cases h
    decide
  · cases h

theorem imageFailure_lt (i : SlotImage) (keyHash : List Byte) (rollback : Nat) : imageFailure i keyHash rollback < 16 := by
  unfold imageFailure
  split
  · decide
  split
  · decide
  split
  · decide
  split <;> decide

/-! ### The commands -/

theorem execBootComplete_of_image {a b i : SlotImage} {n : Nat} (h0 : s.mode ≠ 0) (h1 : s.mode ≠ 1)
    (hr : s.rd F.devBootResult = 0) (h : s.bootChoice a b = some (n, i)) :
    execBootComplete a b s = .next (s.runImage n i).closed := by
  rw [execBootComplete, if_neg (by simp [h0, h1, hr]), done_eq, h]

theorem execBootComplete_of_none {a b : SlotImage} (h0 : s.mode ≠ 0) (h1 : s.mode ≠ 1)
    (hr : s.rd F.devBootResult = 0) (h : s.bootChoice a b = none) :
    execBootComplete a b s = .next ((s.wr F.devBootResult (imageFailure b s.vault.fwKeyHash (s.rd F.kvtOtpRollback))).modPwr
      (fun p => { p with spiReleased := true })).closed := by
  rw [execBootComplete, if_neg (by simp [h0, h1, hr]), done_eq, h]

theorem execBootRetry_of_failed {cyc : Cyc} (hr : s.ready .dev = true) (h3 : 3 ≤ s.rd F.devBootResult)
    (h6 : s.rd F.devBootResult ≤ 6) :
    execBootRetry cyc s =
      .next (((s.at cyc).wr F.devBootResult 0).modPwr (fun p => { p with spiReleased := false })).closed := by
  rw [execBootRetry, done_eq, State.gate_of_ready (by simpa using hr), State.bootRetry, if_pos (by simp [h3, h6])]

theorem execSramZeroingDone_of_powered (h0 : s.mode ≠ 0) :
    execSramZeroingDone s = .next (s.modPwr (fun p => { p with sramZeroed := true })).closed := by
  rw [execSramZeroingDone, if_neg h0, done_eq]

/-- The pages that depend on nothing but TMP and the zeroed SRAMs, and draw nothing as they become ready (R53). -/
def plainPages : List Page := [.dev, .pwr, .flt, .pmc, .tsu, .hst, .hrt, .sch, .asn, .chm, .lan]

theorem State.mayReady_of_plain {p : Page} {i : Nat} (hp : p ∈ plainPages) (h0 : s.mode ≠ 0) (h1 : s.mode ≠ 1)
    (hi : i < pageCount p) (htmp : s.ready .tmp = true) (hz : s.pwr.sramZeroed = true) (hn : s.ready p i = false) :
    s.mayReady p i = true := by
  have hnot : p ≠ .tmp := by
    rintro rfl
    exact absurd hp (by decide)
  unfold State.mayReady
  rw [if_neg (by simp [h0, h1, hn, hi]), if_neg hnot, if_neg (by simp [htmp, hz])]
  simp only [plainPages, List.mem_cons, List.not_mem_nil, or_false] at hp
  rcases hp with rfl | rfl | rfl | rfl | rfl | rfl | rfl | rfl | rfl | rfl | rfl <;> rfl

theorem State.pageUp_of_plain {p : Page} (i : Nat) (hp : p ∈ plainPages) :
    s.pageUp p i = (s.pageOn p i).lateResponses := by
  simp only [plainPages, List.mem_cons, List.not_mem_nil, or_false] at hp
  rcases hp with rfl | rfl | rfl | rfl | rfl | rfl | rfl | rfl | rfl | rfl | rfl <;> rfl

theorem State.pageOn_ready (p : Page) (i : Nat) : (s.pageOn p i).ready p i = true := by
  have hread : (s.pageOn p i).rd (F.pageReady p) i = 1 := by
    rw [State.pageOn, State.rd_wr_apart _ _ i 0 i 0 (by rfl) (by simp [Fld.apart, F.pageCause, F.pageReady]),
      State.rd_wr_of_lt i 0 (by rfl) (by simp [F.pageReady])]
  simp [State.ready, State.on, hread]

/-- PAGE_READY of a page that depends on nothing else leaves it ready, as it was or as it becomes (R53). -/
theorem execPageReady_ready {p : Page} {i : Fin 256} (hp : p ∈ plainPages) (h0 : s.mode ≠ 0) (h1 : s.mode ≠ 1)
    (hi : i.val < pageCount p) (htmp : s.ready .tmp = true) (hz : s.pwr.sramZeroed = true) :
    ∃ t, execPageReady p i s = .next t ∧ t.ready p i = true := by
  have hup : (s.pageUp p i).ready p i = true := by
    have hpages : Part.page p ∉ [Part.rep, Part.tamper] := by simp
    rw [State.pageUp_of_plain i hp, State.lateResponses_keeps.ready p i hpages, State.pageOn_ready]
  cases hn : s.ready p i
  case true =>
    have hstays : s.mayReady p i = false := by
      unfold State.mayReady
      exact if_pos (by simp [hn])
    exact ⟨_, by rw [execPageReady, if_neg (by simp [hstays]), done_eq], by rw [State.closed_ready, hn]⟩
  case false =>
    exact ⟨_, by rw [execPageReady, if_pos (State.mayReady_of_plain hp h0 h1 hi htmp hz hn), done_eq],
      by rw [State.closed_ready, hup]⟩

/-- The registers that a power-fail warning writes (R45, R58). -/
def State.warned (s : State) : State := (s.wr F.pwrStatPfw 1).bumpReg F.pwrEvtPfwEvents 1

theorem State.startFlush_word (k : RegKey) : s.startFlush.word k = s.word k :=
  State.startFlush_keeps.word (l := [.rep]) (by simp)

theorem State.startFlush_rd (f : Fld) (i o : Nat) : s.startFlush.rd f i o = s.rd f i o :=
  State.startFlush_keeps.rd (l := [.rep]) f i o (by simp)

theorem State.startFlush_pwr : s.startFlush.pwr = s.pwr := State.startFlush_keeps.frame .pwr (by decide)

theorem State.warned_shed : s.warned.on F.pwrPfwCtlShed = s.on F.pwrPfwCtlShed := by
  rw [State.warned, State.bumpReg, State.on_wr_apart _ _ 0 0 0 0 (by decide) (by decide),
    State.on_wr_apart _ _ 0 0 0 0 (by decide) (by decide)]

theorem execPowerFailWarning_of_powered (h0 : s.mode ≠ 0) (h1 : s.mode ≠ 1) : execPowerFailWarning s =
    .next (s.warned.startFlush.modPwr
      (fun p => { p with shedDue := p.shedDue || s.on F.pwrPfwCtlShed })).closed := by
  have hshed : s.warned.startFlush.on F.pwrPfwCtlShed = s.on F.pwrPfwCtlShed := by
    rw [State.on, State.startFlush_rd]
    exact State.warned_shed
  rw [execPowerFailWarning, if_neg (by simp [h0, h1]), done_eq, ← hshed]
  rfl

end Sys2Proof.Machine
end

section
/-! PROOF. The statement on changes of mode, boot and readiness. -/

namespace Sys2Proof.Machine

open Sys2Proof

/-- Settles O9: each change of mode by the state that its command leaves, boot by the image that verifies, and readiness by
what the page depends on. -/
theorem modesAndBoot : Obligations.ModesAndBoot := by
  unfold Obligations.ModesAndBoot
  refine ⟨fun s => ⟨fun hm hd => ?selfTest, fun hm hr hd => ?brownoutExit, fun hm hq hs hdue => ?quenchComplete,
      fun hm => ?coldGuard, fun flushed h2 h8 => ?inhibit,
      fun r esOk side hm hrails href hreset hperst htest hwarm => ?release⟩,
    fun s => ⟨fun a b h0 h1 hr => ?boot, fun cyc hr h3 h6 => ?retry,
      fun p i hp h0 h1 hi htmp hz => execPageReady_ready hp h0 h1 hi htmp hz, fun h0 => ?zeroing, fun h0 h1 => ?warning⟩⟩
  case selfTest =>
    refine ⟨_, execSelfTestComplete_of_selfTest hm hd, ?_, ?_, ?_⟩
    · rw [State.closed_mode, State.setMode_mode (by decide)]
    · rw [State.closed_rd, State.setMode_prevMode, hm]
    · exact State.closed_regsBut (State.regsBut_setMode 2 (State.regsBut_refl _ _) (by simp) (by simp))
  case brownoutExit =>
    refine ⟨_, execBrownoutExit_of_released hm hr hd, ?_, ?_, ?_, ?_⟩
    · rw [State.closed_mode, State.setMode_mode (getF_lt_two_pow ..)]
    · rw [State.closed_rd, State.setMode_prevMode, State.mode, State.rd_wr_apart _ _ 0 0 0 0 (by decide) (by decide)]
      exact hm
    · rw [State.closed_rd, State.setMode_keeps.rd _ 0 0 (by decide)]
      exact State.rd_wr_of_lt 0 0 (by decide) (by decide)
    · refine State.closed_regsBut (State.regsBut_setMode _ ?_ (by simp) (by simp))
      exact State.regsBut_wr _ (State.regsBut_refl _ _) (by simp)
  case quenchComplete =>
    refine ⟨_, execQuenchComplete_of_empty hm hq hs hdue, ?_, ?_, ?_, ?_⟩
    · rw [State.closed_mode, State.modPwr_mode, State.setMode_mode (by decide)]
    · rw [State.closed_rd, State.modPwr_rd, State.setMode_prevMode, hm]
    · rw [State.closed_pwr, State.modPwr_pwr]
    · refine State.closed_regsBut (State.regsBut_of_word (State.modPwr_word _ _) ?_)
      exact State.regsBut_setMode 10 (State.regsBut_refl _ _) (by simp) (by simp)
  case coldGuard =>
    have hrails : s.regsBut (s.setRails 32) [keyOf F.devModeMode, keyOf F.fluStatLockHeld, keyOf F.pwrStatRailOk] :=
      State.regsBut_wr _ (State.regsBut_refl _ _) (by simp)
    refine ⟨_, execColdGuardEntry_of_reset hm, ?_, ?_, ?_, ?_⟩
    · rw [State.closed_mode, State.setMode_mode (by decide)]
    · rw [State.closed_rd, State.setMode_prevMode, State.mode, State.setRails,
        State.rd_wr_apart _ _ 0 0 0 0 (by decide) (by decide)]
      exact hm
    · rw [State.closed_rd, State.setMode_keeps.rd _ 0 0 (by decide)]
      exact State.rd_wr_of_lt 0 0 (by decide) (by decide)
    · exact State.closed_regsBut (State.regsBut_setMode 0 hrails (by simp) (by simp))
  case inhibit =>
    refine ⟨_, execRailBelowInhibit_of_may flushed h2 h8, ?_, ?_, ?_, ?_, ?_⟩
    · rw [State.closed_mode, State.mode, State.bumpReg_keeps.rd _ 0 0 (by decide)]
      exact State.setMode_mode (by decide)
    · rw [State.closed_rd, State.bumpReg_keeps.rd _ 0 0 (by decide), State.setMode_prevMode, State.inhibited_mode]
    · rw [State.closed_rd, State.bumpReg, State.rd_wr_apart _ _ 0 0 0 0 (by decide) (by decide),
        State.setMode_keeps.rd _ 0 0 (by decide), State.inhibited_rd flushed rfl]
      exact State.rd_wr_of_lt 0 0 (by decide) (by decide)
    · rw [State.closed_rd, State.rd_bumpReg_self 1 0 0 (by decide), State.setMode_keeps.rd _ 0 0 (by decide),
        State.inhibited_rd flushed rfl, State.rd_wr_apart _ _ 0 0 0 0 (by decide) (by decide)]
      exact Nat.min_comm _ _
    · rw [State.closed_pwr, State.bumpReg_pwr, State.setMode_pwr, State.inhibited_pwr]
  case release =>
    have hmay := State.mayRelease_of hm hrails href hreset hperst htest hwarm
    obtain ⟨p, hrun⟩ := execResetRelease_of_may esOk side hmay
    have hvalue : r.rails.toNat + 32 * b2n r.vbatOk = 31 + 32 * b2n r.vbatOk := by rw [hrails]; rfl
    rw [hvalue] at hrun
    have hframe := execResetRelease_keeps _ hrun
    refine ⟨_, hrun, ?_, ?_, ?_, ?_, ?_, ?_, ?_⟩
    · rw [State.closed_mode]
      exact State.released_mode _ esOk side
    · rw [State.closed_rd]
      exact State.released_esOk _ esOk side
    · rw [State.closed_rd]
      exact State.released_side _ esOk side
    · rw [State.closed_rd]
      exact State.released_rails _ esOk side (by cases r.vbatOk <;> decide)
    · exact hframe.frame .assocs (by decide)
    · exact hframe.frame .tick (by decide)
    · intro k hdev hkvt hlock hside hrailKey
      rw [State.closed_word]
      exact State.released_word _ esOk side hdev hkvt hlock hside hrailKey
  case boot =>
    cases hchoice : s.bootChoice a b with
    | some found =>
      obtain ⟨n, i⟩ := found
      refine ⟨_, execBootComplete_of_image h0 h1 hr hchoice, ?_, fun hnone => by cases hnone⟩
      rintro _ _ ⟨⟩
      refine ⟨?_, ?_, fun c => ?_⟩
      · rw [State.closed_rd, State.runImage_result i (State.bootChoice_lt hchoice)]
      · rw [State.closed_rd, State.runImage_version]
      · rw [State.closed_rd, State.closed_rd, State.closed_chim]
        exact State.runImage_holds n i c
    | none =>
      refine ⟨_, execBootComplete_of_none h0 h1 hr hchoice, fun _ _ hsome => (by cases hsome), fun _ => ⟨?_, ?_, ?_⟩⟩
      · rw [State.closed_rd, State.modPwr_rd]
        exact State.rd_wr_of_lt 0 0 (by decide) (imageFailure_lt ..)
      · rw [State.closed_pwr, State.modPwr_pwr]
      · refine State.closed_regsBut (State.regsBut_of_word (State.modPwr_word _ _) ?_)
        exact State.regsBut_wr _ (State.regsBut_refl _ _) (List.mem_singleton_self _)
  case retry =>
    refine ⟨_, execBootRetry_of_failed hr h3 h6, ?_, ?_⟩
    · rw [State.closed_rd, State.modPwr_rd]
      exact State.rd_wr_of_lt 0 0 (by decide) (by decide)
    · exact State.closed_regsBut (State.regsBut_of_word (State.modPwr_word _ _) (s.at_wr_regsBut cyc _ _))
  case zeroing =>
    refine ⟨_, execSramZeroingDone_of_powered h0, ?_, ?_⟩
    · rw [State.closed_pwr, State.modPwr_pwr]
    · exact State.closed_regsBut fun k _ => State.modPwr_word ..
  case warning =>
    refine ⟨_, execPowerFailWarning_of_powered h0 h1, ?_, ?_, ?_, ?_⟩
    · rw [State.closed_rd, State.modPwr_rd, State.startFlush_rd, State.warned, State.bumpReg,
        State.rd_wr_apart _ _ 0 0 0 0 (by decide) (by decide)]
      exact State.rd_wr_of_lt 0 0 (by decide) (by decide)
    · rw [State.closed_rd, State.modPwr_rd, State.startFlush_rd, State.warned,
        State.rd_bumpReg_self 1 0 0 (by decide), State.rd_wr_apart _ _ 0 0 0 0 (by decide) (by decide)]
      exact Nat.min_comm _ _
    · rw [State.closed_pwr, State.modPwr_pwr, State.startFlush_pwr]
      rfl
    · refine State.closed_regsBut (State.regsBut_of_word (State.modPwr_word _ _) ?_)
      refine State.regsBut_of_word State.startFlush_word (State.regsBut_bumpReg 1 ?_ (by simp))
      exact State.regsBut_wr _ (State.regsBut_refl _ _) (by simp)

end Sys2Proof.Machine
end

section
/-! SUPPORT. The register file through a reset and through a loss of the Ember domain (R48): what they keep of each register
of a sound state, whose file lists a register once, and a file that lists one twice. -/

namespace Sys2Proof.Machine

open Sys2Proof

variable {s : State} {k : RegKey}

/-! ### A register file in canonical form -/

theorem RegKey.ne_of_lt {a b : RegKey} (h : RegKey.lt a b = true) : a ≠ b := by
  rintro rfl
  simp [RegKey.lt] at h

theorem mget_of_unlisted {κ α : Type} [DecidableEq κ] {d : α} {m : List (κ × α)} {k : κ} (h : ∀ e ∈ m, k ≠ e.1) :
    mget d m k = d := by
  induction m with
  | nil => rfl
  | cons e m ih =>
    obtain ⟨hk, hm⟩ := List.forall_mem_cons.mp h
    rw [mget, if_neg hk, ih hm]

/-- A change of every listed word that leaves the reset words is one of every register. -/
theorem mget_mapRegs {f : RegKey → Word → Word} {m : List (RegKey × Word)} (h : mwf RegKey.lt resetWord m = true)
    (hf : f k (resetWord k) = resetWord k) : mget (resetWord k) (mapRegs f m) k = f k (mget (resetWord k) m k) := by
  induction m with
  | nil => exact hf.symm
  | cons e m ih =>
    obtain ⟨k', w⟩ := e
    simp only [mwf, Bool.and_eq_true, decide_eq_true_eq, List.all_eq_true] at h
    obtain ⟨⟨-, hrest⟩, hm⟩ := h
    have hcons : mapRegs f ((k', w) :: m) = if f k' w ≠ resetWord k' then (k', f k' w) :: mapRegs f m else mapRegs f m := by
      simp [mapRegs, List.filter_cons]
    rw [hcons, mget]
    by_cases hk : k = k'
    · subst hk
      have hunlisted : mget (resetWord k) m k = resetWord k :=
        mget_of_unlisted fun e he => RegKey.ne_of_lt (hrest e he)
      rw [if_pos rfl]
      split
      · rw [mget, if_pos rfl]
      · next hreset => rw [ih hm, hunlisted, hf, Decidable.not_not.mp hreset]
    · rw [if_neg hk]
      split
      · rw [mget, if_neg hk, ih hm]
      · exact ih hm

/-! ### What resets and a loss of the Ember domain keep of a sound state's registers -/

theorem mergeF_self (m w : Word) : mergeF m w w = w := by
  ext i
  simp only [mergeF, BitVec.getElem_or, BitVec.getElem_and, BitVec.getElem_not]
  cases w[i] <;> cases m[i] <;> rfl

theorem State.cleared_word (h : s.regsOk) (warm : Bool) (k : RegKey) :
    (s.cleared warm).word k = mergeF (keptMask k warm) (resetWord k) (s.word k) :=
  mget_mapRegs (f := fun k w => mergeF (keptMask k warm) (resetWord k) w) h (mergeF_self _ _)

/-- The bits of a register that the Ember domain holds. -/
def emberMask (k : RegKey) : Word :=
  match regDefOf k.page k.off with
  | some d => BitVec.ofNat 32 d.emb
  | none => 0

theorem State.loseEmber_word (h : s.regsOk) (k : RegKey) :
    s.loseEmber.word k = mergeF (emberMask k) (s.word k) (resetWord k) :=
  mget_mapRegs (f := fun k w => mergeF (emberMask k) w (resetWord k)) h (mergeF_self _ _)

/-- Outside KVT_OTP a reset keeps the EMB fields, and a warm one the STK fields as well. -/
theorem keptMask_of_def {d : RegDef} (hd : regDefOf k.page k.off = some d) (hotp : k.page = .kvt → k.off ≠ 0x148)
    (warm : Bool) : keptMask k warm = BitVec.ofNat 32 (d.emb ||| (if warm then d.stk else 0)) := by
  have hno : ¬ (k.page = .kvt ∧ k.off = 0x148) := fun e => hotp e.1 e.2
  simp [keptMask, hd, hno]

/-- What an OTP command that a reset cuts short leaves is in KVT_OTP alone. -/
theorem State.otpCut_word (hotp : k.page = .kvt → k.off ≠ 0x148) : s.otpCut.word k = s.word k := by
  unfold State.otpCut
  split
  · exact State.wr_word_ne _ _ fun e => hotp (e ▸ rfl) (e ▸ rfl)
  · rfl

theorem State.emberNoted_word (hcause : k ≠ keyOf F.devResetCauseKind) : s.emberNoted.word k = s.word k := by
  unfold State.emberNoted
  split
  · rw [State.modPwr_word, State.wr_word_ne _ _ (show k ≠ keyOf F.devResetCauseEmberLost from hcause),
      State.wr_word_ne _ _ hcause]
  · rfl

theorem State.setCause_word (kind trigger : Nat) (hcause : k ≠ keyOf F.devResetCauseKind) :
    (s.setCause kind trigger).word k = s.word k := by
  rw [State.setCause, State.wr_word_ne _ _ (show k ≠ keyOf F.devResetCauseTrigger from hcause),
    State.wr_word_ne _ _ hcause]

section
variable {d : RegDef} (h : s.regsOk) (hd : regDefOf k.page k.off = some d) (hcause : k ≠ keyOf F.devResetCauseKind)
  (hrails : k ≠ keyOf F.pwrStatRailOk) (hotp : k.page = .kvt → k.off ≠ 0x148)
include h hd hcause hrails hotp

/-- Beside DEV_RESET_CAUSE, PWR_STAT and KVT_OTP, a cold reset of a sound state leaves the EMB fields alone (R48). -/
theorem State.coldReset_word (trigger : Nat) :
    (s.coldReset trigger).word k = mergeF (BitVec.ofNat 32 d.emb) (resetWord k) (s.word k) := by
  rw [State.coldReset, State.emberNoted_word hcause, State.setCause_word _ _ hcause, State.setRails,
    State.wr_word_ne _ _ hrails, State.cleared_word (State.otpCut_keeps.regs h), State.otpCut_word hotp,
    keptMask_of_def hd hotp]
  simp

/-- A warm reset of a sound state leaves the STK fields as well (R48). -/
theorem State.warmReset_word (trigger : Nat) :
    (s.warmReset trigger).word k = mergeF (BitVec.ofNat 32 (d.emb ||| d.stk)) (resetWord k) (s.word k) := by
  rw [State.warmReset, State.setCause_word _ _ hcause, State.setRails, State.wr_word_ne _ _ hrails,
    State.cleared_word (State.otpCut_keeps.regs h), State.otpCut_word hotp, keptMask_of_def hd hotp]
  simp

end

/-! ### A register file that lists a register twice -/

/-- A state in RESET whose register file lists TMP_FLAGS first with its reset word and then with bits 0, which the Ember
domain holds, and 8, which it does not. -/
def flagsTwice : State := { regs := [(keyOf F.tmpFlagsEnv, 0), (keyOf F.tmpFlagsEnv, 0x101)] }

theorem flagsTwice_not_regsOk : ¬ flagsTwice.regsOk := by
  unfold State.regsOk
  decide

theorem flagsTwice_flags : flagsTwice.word (keyOf F.tmpFlagsEnv) = 0 := by decide

theorem flagsTwice_coldReset_flags : (flagsTwice.coldReset 0).word (keyOf F.tmpFlagsEnv) = 1 := by decide +kernel

theorem flagsTwice_loseEmber_flags : flagsTwice.loseEmber.word (keyOf F.tmpFlagsEnv) = 0x100 := by decide +kernel

end Sys2Proof.Machine
end

section
/-! PROOF. The statements on resets and on power: both fail on a register file that lists a register
twice. -/

namespace Sys2Proof.Machine

open Sys2Proof

variable {s : State}

theorem execColdReset_powerUp (h0 : s.mode ≠ 0) : execColdReset .powerUp s = .next (s.coldReset 0).closed := by
  rw [execColdReset, if_neg h0, done_eq]

theorem execEmberLoss_of_off (h : s.powerOff = true) : execEmberLoss s = .next s.loseEmber.closed := by
  rw [execEmberLoss, if_pos h, done_eq]

/-- Refutes O10 in a state that is not sound: `flagsTwice` lists TMP_FLAGS twice and reads its reset word 0. A power-up keeps
the EMB bits of both entries and drops the first, which now holds the reset word, so the second comes to light and TMP_FLAGS
reads 1. Of a sound state the clause on registers holds: `State.coldReset_word` and `State.warmReset_word`. -/
theorem not_resets : ¬ Obligations.Resets := by
  unfold Obligations.Resets
  intro h
  have hmode : flagsTwice.mode = 1 := by decide +kernel
  obtain ⟨hcold, -, -⟩ := h flagsTwice
  obtain ⟨t, ht, -, -, -, -, -, -, -, -, hregs⟩ := hcold .powerUp (by omega) (by omega)
  have hclaim := hregs (keyOf F.tmpFlagsEnv) { off := 0x108, emb := 0xFF } (by decide) (by decide) (by decide)
    (fun e => by cases e)
  cases (execColdReset_powerUp (by omega)).symm.trans ht
  rw [State.closed_word, flagsTwice_coldReset_flags, flagsTwice_flags] at hclaim
  exact absurd hclaim (by decide)

/-- Refutes O11 in the same state: as the cell fails, bit 8 of TMP_FLAGS, which lies outside the Ember domain, comes to
light. Of a sound state the clause on registers holds: `State.loseEmber_word`. -/
theorem not_powerAndQuench : ¬ Obligations.PowerAndQuench := by
  unfold Obligations.PowerAndQuench
  rintro ⟨h, -⟩
  have hoff : flagsTwice.powerOff = true := by decide +kernel
  obtain ⟨-, hember, -⟩ := h flagsTwice
  obtain ⟨t, ht, -, -, -, -, -, -, -, hregs⟩ := hember (by simpa [State.powerOff] using hoff)
  have hclaim := hregs (keyOf F.tmpFlagsEnv) { off := 0x108, emb := 0xFF } (by decide)
  cases (execEmberLoss_of_off hoff).symm.trans ht
  rw [State.closed_word, flagsTwice_loseEmber_flags, flagsTwice_flags] at hclaim
  exact absurd hclaim (by decide)

end Sys2Proof.Machine
end

section
/-! SUPPORT. What the commands of the lanes share: fields of a register word, the pending copy of a register (R17), and the page,
the rate and the state of a lane (R59, R60, R70). -/

namespace Sys2Proof.Machine

open Sys2Proof

variable {s u : State} {ks : List RegKey} {w v : Word} {lo n : Nat} {g : Nat} {cyc : Cyc}

/-! ### Fields of a word with bits set or masked -/

theorem getF_and (w v : Word) (lo n : Nat) : getF (w &&& v) lo n = getF w lo n &&& getF v lo n := by
  simp only [getF, BitVec.toNat_and, Nat.shiftRight_and_distrib, Nat.and_mod_two_pow]

/-- A mask that is all ones over a field leaves it. -/
theorem getF_and_of_ones (h : getF v lo n = 2 ^ n - 1) : getF (w &&& v) lo n = getF w lo n := by
  rw [getF_and, h, Nat.and_two_pow_sub_one_eq_mod, Nat.mod_eq_of_lt (getF_lt_two_pow ..)]

/-- A bit that is set reads 1. -/
theorem getF_or_of_one (h : getF v lo 1 = 1) : getF (w ||| v) lo 1 = 1 := by
  have hlt : getF w lo 1 < 2 ^ 1 := getF_lt_two_pow ..
  have hge : 1 ≤ getF w lo 1 ||| 1 := Nat.right_le_or
  have hor : getF w lo 1 ||| 1 < 2 ^ 1 := Nat.or_lt_two_pow hlt (by decide)
  rw [getF_or, h]
  omega

theorem bit_toNat (w : Word) (i : Nat) : bit w.toNat i = decide (getF w i 1 = 1) := by
  have hbit : getF w i 1 = (w.toNat.testBit i).toNat := by
    rw [Nat.toNat_testBit, getF, Nat.shiftRight_eq_div_pow, Nat.pow_one]
  simp [bit, hbit]

/-! ### A command's outcome, and the pending copy of a register -/

theorem onlyIf_of_true {σ : Type} {c : Bool} {f : σ → σ} {x : σ} (h : c = true) : onlyIf c f x = f x := if_pos h

theorem onlyIf_of_false {σ : Type} {c : Bool} {f : σ → σ} {x : σ} (h : c = false) : onlyIf c f x = x :=
  if_neg (by simp [h])

theorem runs_of_done {c : Instr} {P : State → Prop} (h : exec c s = done u) (hP : P u.closed) : Runs c s P :=
  ⟨_, h, hP⟩

theorem State.copyOf_putCopy (k : RegKey) (w : Word) (cyc : Nat) : (s.putCopy k w cyc).copyOf k = some w := by
  rw [State.copyOf, State.putCopy_sched, List.findSome?_append, List.findSome?_eq_none_iff.mpr ?others]
  · simp
  case others =>
    intro e he
    have hother : e.isCopyOf k = false := by simpa using (List.mem_filter.mp he).2
    unfold Sched.isCopyOf at hother
    split <;> simp_all

/-- The pending copy of a register after operations that leave the schedule, the tick and hold (R17, R21). -/
theorem State.pends_putCopy {k : RegKey} (hsched : u.sched = s.sched) (htick : u.tick = s.tick)
    (hhold : u.on F.devCommitCtlHold = s.on F.devCommitCtlHold) : s.pends (u.putCopy k w cyc).closed k w cyc := by
  rw [State.pends, State.closed_sched, State.putCopy_sched, hsched, hhold, State.edgeFor, htick]
  rfl

theorem State.putCopy_regsBut {k : RegKey} {cyc : Nat} (h : s.regsBut u ks) : s.regsBut (u.putCopy k w cyc) ks :=
  State.regsBut_of_word (State.putCopy_word _ _ _ _) h

theorem State.at_regsBut (s : State) (cyc : Cyc) (ks : List RegKey) : s.regsBut (s.at cyc) ks :=
  State.regsBut_of_word (s.at_word cyc) (State.regsBut_refl s ks)

/-! ### The page of a lane, its rate and its state -/

theorem State.gateLane_of_ready {g : LaneNo} {f : State → State} (h : s.laneReady g = true) : s.gateLane g f = f s := by
  unfold State.laneReady at h
  unfold State.gateLane
  split
  · next hp => exact State.gate_of_ready (by simpa [hp] using h)
  · next hp => exact State.gate_of_ready (by simpa [hp] using h)

theorem State.at_laneReady (cyc : Cyc) {g : LaneNo} (h : s.laneReady g = true) : (s.at cyc).laneReady g = true := h

theorem isPairLane_of_lt (h : g < 144) : isPairLane g = false := decide_eq_false (by omega)

@[simp] theorem State.at_laneRate (cyc : Cyc) (g : Nat) : (s.at cyc).laneRate g = s.laneRate g := rfl
@[simp] theorem State.modLane_laneRate (h : Nat) (f : LaneRt → LaneRt) (g : Nat) :
    (s.modLane h f).laneRate g = s.laneRate g := rfl
@[simp] theorem State.modLane_laneState (h : Nat) (f : LaneRt → LaneRt) (g : Nat) :
    (s.modLane h f).laneState g = s.laneState g := rfl
@[simp] theorem State.closed_laneRate (u : State) (g : Nat) : u.closed.laneRate g = u.laneRate g := State.closed_rd ..
@[simp] theorem State.closed_laneState (u : State) (g : Nat) : u.closed.laneState g = u.laneState g := State.closed_rd ..

/-- The rate and the state of a lane stand as a field that shares no bit with theirs is written. -/
theorem State.wr_laneRate {f : Fld} (x i o : Nat) (hf : f.fits = true) (h : Fld.apart f F.lanStatRate = true) :
    (s.wr f x i o).laneRate g = s.laneRate g := State.rd_wr_apart s x i o g 0 hf h
theorem State.wr_laneState {f : Fld} (x i o : Nat) (hf : f.fits = true) (h : Fld.apart f F.lanStatState = true) :
    (s.wr f x i o).laneState g = s.laneState g := State.rd_wr_apart s x i o g 0 hf h

end Sys2Proof.Machine
end

section
/-! SUPPORT. The writes of a lane's registers as they land: LAN_CTRL, steps of the rate, taps, loopbacks, slips, patterns and the
read of the counts (R61, R64, R66 to R69, R73, R75, R80, R82). -/

namespace Sys2Proof.Machine

open Sys2Proof

variable {s : State} {w : Word} {lo g t : Nat} {cyc : Cyc}

/-! ### LAN_CTRL (R61, R67) -/

/-- The word that a LAN_CTRL write leaves pending (R61, R385). -/
def landedCtrl (g : Nat) (w : Word) : Word :=
  let w := if getF w F.lanCtrlClass.lo 2 = 3 ∨ isPairLane g = true then setF w F.lanCtrlClass.lo 2 0 else w
  if isPairLane g then setF w F.lanCtrlFraming.lo 2 1 else w

theorem State.landLanCtrl_eq (s : State) (g : Nat) (w : Word) (cyc : Nat) : s.landLanCtrl g w cyc =
    (s.modLane g (fun l => { l with classPend := none })).putCopy (keyOf F.lanCtrlEnable g) (landedCtrl g w) cyc := rfl

/-- The fields below the class stand as they were written. -/
theorem getF_landedCtrl_of_lt_class (h : lo < 2) : getF (landedCtrl g w) lo 1 = getF w lo 1 := by
  unfold landedCtrl
  dsimp only [F.lanCtrlClass, F.lanCtrlFraming]
  by_cases hp : isPairLane g = true <;> by_cases h3 : getF w 2 2 = 3 <;>
    simp (disch := omega) [hp, h3, getF_setF_apart]

/-- Class 3 is stored as 0, and a Flue lane keeps class 0 (R61). -/
theorem getF_landedCtrl_class : getF (landedCtrl g w) 2 2 =
    if isPairLane g = true ∨ getF w 2 2 = 3 then 0 else getF w 2 2 := by
  have hzero : getF (setF w 2 2 0) 2 2 = 0 := getF_setF_self w 0 (by decide)
  unfold landedCtrl
  dsimp only [F.lanCtrlClass, F.lanCtrlFraming]
  by_cases hp : isPairLane g = true
  · simp (disch := omega) [hp, getF_setF_apart, hzero]
  · by_cases h3 : getF w 2 2 = 3 <;> simp [hp, h3, hzero]

/-- LAN_CTRL as a write of it lands, with a word that differs from `ctl` in its enable alone: one pending copy with the fields
of the word, and no class that waits. -/
theorem landLanCtrl_pends {g : LaneNo} {ctl : Word} {en : Nat} (hen : getF w 0 1 = en) (hsq : getF w 1 1 = getF ctl 1 1)
    (hcl : getF w 2 2 = getF ctl 2 2) :
    let t := ((s.at cyc).landLanCtrl g w cyc).closed
    s.regsBut t [] ∧ (t.lane g).classPend = none ∧ (∀ h : LaneNo, h ≠ g → t.lane h = s.lane h) ∧
      (s.sched.filter (fun e => !e.isCopyOf (keyOf F.lanCtrlEnable g))) <+: t.sched ∧
      (t.copyOf (keyOf F.lanCtrlEnable g)).map (fun w => (getF w 0 1, getF w 1 1, getF w 2 2)) =
        some (en, getF ctl 1 1, if isPairLane g = true ∨ getF ctl 2 2 = 3 then 0 else getF ctl 2 2) := by
  rw [State.landLanCtrl_eq]
  refine ⟨State.closed_regsBut (State.putCopy_regsBut (s.at_regsBut cyc _)), ?_, fun h hne => ?_, ?_, ?_⟩
  · simp
  · have hlane : h.val ≠ g.val := fun e => hne (Fin.ext e)
    rw [State.closed_lane, State.putCopy_lane, State.modLane_lane_ne _ _ hlane, State.at_lane]
  · simp
  · rw [State.copyOf, State.closed_sched, ← State.copyOf, State.copyOf_putCopy, Option.map_some,
      getF_landedCtrl_of_lt_class (by decide), getF_landedCtrl_of_lt_class (by decide), getF_landedCtrl_class,
      hen, hsq, hcl]

/-! ### The fields that LANE_ENABLE and LANE_DISABLE write (R61, R67) -/

theorem enabled_zeroExtend (ctl : BitVec 12) : (ctl ||| 1).zeroExtend 32 = ctl.zeroExtend 32 ||| (1 : Word) :=
  BitVec.setWidth_or

theorem disabled_zeroExtend (ctl : BitVec 12) : (ctl &&& 0xFFE).zeroExtend 32 = ctl.zeroExtend 32 &&& (0xFFE : Word) :=
  BitVec.setWidth_and

/-- LAN_CTRL with enable cleared. -/
theorem getF_disabled (w : Word) : getF (w &&& 0xFFE) 0 1 = 0 := by
  rw [getF_and, show getF (0xFFE : Word) 0 1 = 0 from rfl, Nat.and_zero]

theorem execLaneEnable_of_ready {g : LaneNo} {ctl : BitVec 12} (hr : s.laneReady g = true) : execLaneEnable g ctl cyc s =
    done ((s.at cyc).landLanCtrl g ((ctl ||| 1).zeroExtend 32) cyc) :=
  congrArg done (State.gateLane_of_ready (State.at_laneReady cyc hr))

theorem execLaneDisable_of_ready {g : LaneNo} {ctl : BitVec 12} (hr : s.laneReady g = true) : execLaneDisable g ctl cyc s =
    done ((s.at cyc).landLanCtrl g ((ctl &&& 0xFFE).zeroExtend 32) cyc) :=
  congrArg done (State.gateLane_of_ready (State.at_laneReady cyc hr))

/-! ### LAN_STEP (R67 to R69) -/

/-- The conditions of a step up, in their order (R67). -/
theorem State.stepCause_of_up (h : s.laneRate g < t) : s.stepCause g t =
    if nextRung g (s.rd F.lanCtrlClass g) (s.laneRate g) ≠ some t then 1
    else if s.laneState g ≠ 4 then 2 else if s.rd F.lanStatAgreed g ≠ 1 then 3
    else if s.rd F.lanLoopMode g ≠ 0 then 4 else if s.rd F.lanCtrlEnable g ≠ 1 then 5
    else if s.rd F.lanStatLos g = 1 then 6 else 0 := by
  simp [State.stepCause, State.on, h]

/-- The conditions of a step down, in their order (R68). -/
theorem State.stepCause_of_down (h : t < s.laneRate g) : s.stepCause g t =
    if t ∉ ladder g (s.rd F.lanCtrlClass g) then 1
    else if s.rd F.lanLoopMode g ≠ 0 then 4 else if s.rd F.lanCtrlEnable g ≠ 1 then 5 else 0 := by
  simp [State.stepCause, State.on, Nat.not_lt.mpr (Nat.le_of_lt h)]

/-- A cause fits LAN_STEP.reject_cause. -/
theorem State.stepCause_lt (s : State) (g t : Nat) : s.stepCause g t < 8 := by
  unfold State.stepCause
  dsimp only
  repeat' split
  all_goals decide

theorem State.at_stepCause (s : State) (cyc : Cyc) (g t : Nat) : (s.at cyc).stepCause g t = s.stepCause g t := rfl

/-- A step that meets its conditions pends for its edge, and writes no register. -/
theorem landStep_pends (hne : t ≠ s.laneRate g) (hc : s.stepCause g t = 0) :
    let u := ((s.at cyc).landStep g t cyc).closed
    s.pends u (keyOf F.lanStepTarget g) (BitVec.ofNat 32 t) cyc ∧ s.regsBut u [] := by
  rw [State.landStep, State.at_laneRate, if_neg hne, State.at_stepCause, hc]
  exact ⟨State.pends_putCopy rfl rfl rfl, State.closed_regsBut (State.putCopy_regsBut (s.at_regsBut cyc _))⟩

/-- A step that fails a condition does not happen: it shows its cause, and the agreement is gone. -/
theorem landStep_refused (hne : t ≠ s.laneRate g) (hc : s.stepCause g t ≠ 0) :
    let u := ((s.at cyc).landStep g t cyc).closed
    u.rd F.lanStepStepRejected g = 1 ∧ u.rd F.lanStepRejectCause g = s.stepCause g t ∧ u.rd F.lanStatAgreed g = 0 ∧
      u.sched = s.sched ∧ u.laneRate g = s.laneRate g ∧
      s.regsBut u [keyOf F.lanStepTarget g, keyOf F.lanStatAgreed g] := by
  have hland : (s.at cyc).landStep g t cyc = (s.at cyc).refuseStep g (s.stepCause g t) := by
    rw [State.landStep, State.at_laneRate, if_neg hne, State.at_stepCause]
    split
    · next h0 => exact absurd h0 hc
    · rfl
  rw [hland]
  simp only [State.closed_rd, State.closed_sched, State.closed_laneRate]
  unfold State.refuseStep
  refine ⟨?_, ?_, ?_, rfl, ?_, ?_⟩
  · rw [State.rd_wr_apart _ _ _ _ _ _ (by decide) (by decide), State.rd_wr_apart _ _ _ _ _ _ (by decide) (by decide),
      State.rd_wr_of_lt _ _ (by decide) (by decide)]
  · rw [State.rd_wr_apart _ _ _ _ _ _ (by decide) (by decide), State.rd_wr_of_lt _ _ (by decide) (s.stepCause_lt g t)]
  · rw [State.rd_wr_of_lt _ _ (by decide) (by decide)]
  · simp (disch := decide) only [State.wr_laneRate, State.at_laneRate]
  · refine State.closed_regsBut (State.regsBut_wr _ (State.regsBut_wr _ (State.regsBut_wr _ (s.at_regsBut cyc _) ?_) ?_) ?_)
    · exact List.mem_cons_self
    · exact List.mem_cons_self
    · exact List.mem_cons_of_mem _ List.mem_cons_self

theorem execLaneStepUp_of_lt {g : LaneNo} {t : Fin 8} {cyc : Cyc} (hr : s.laneReady g = true) (h : s.laneRate g < t.val) :
    execLaneStepUp g t cyc s = done ((s.at cyc).landStep g t cyc) :=
  congrArg done ((State.gateLane_of_ready (State.at_laneReady cyc hr)).trans (onlyIf_of_true (decide_eq_true h)))

theorem execLaneStepDown_of_lt {g : LaneNo} {t : Fin 8} {cyc : Cyc} (hr : s.laneReady g = true) (h : t.val < s.laneRate g) :
    execLaneStepDown g t cyc s = done ((s.at cyc).landStep g t cyc) :=
  congrArg done ((State.gateLane_of_ready (State.at_laneReady cyc hr)).trans (onlyIf_of_true (decide_eq_true h)))

/-! ### LAN_FFE (R64, R66) -/

/-- A LAN_FFE write after bit 28 has acted: written with 1 it clears ffe_rejected first. -/
def State.ffeCleared (s : State) (g : Nat) (w : Word) : State :=
  onlyIf (bit w.toNat 28) (fun s => s.wr F.lanFfeFfeRejected 0 g) s

theorem State.landFfe_eq (s : State) (g : Nat) (w : Word) (cyc : Nat) : s.landFfe g w cyc =
    if ffeLegal (ffeTaps w).1 (ffeTaps w).2.1 (ffeTaps w).2.2 then (s.ffeCleared g w).putCopy (keyOf F.lanFfePre g) w cyc
    else (s.ffeCleared g w).wr F.lanFfeFfeRejected 1 g := rfl

theorem State.ffeCleared_of_zero (h : getF w 28 1 = 0) : s.ffeCleared g w = s := by
  simp [State.ffeCleared, onlyIf, bit_toNat, h]

theorem State.ffeCleared_keeps : Keeps (mask [.page .lan]) s (s.ffeCleared g w) :=
  Keeps.onlyIf (fun _ => State.wr_keeps (f := F.lanFfeFfeRejected)) (Keeps.refl s)

theorem State.ffeCleared_sched : (s.ffeCleared g w).sched = s.sched := State.ffeCleared_keeps.frame .sched (by decide)

theorem State.ffeCleared_tick : (s.ffeCleared g w).tick = s.tick := State.ffeCleared_keeps.frame .tick (by decide)

theorem State.ffeCleared_hold : (s.ffeCleared g w).on F.devCommitCtlHold = s.on F.devCommitCtlHold := by
  rw [State.on, State.ffeCleared_keeps.rd _ _ _ (by decide), State.on]

theorem State.ffeCleared_regsBut : s.regsBut (s.ffeCleared g w) [keyOf F.lanFfeFfeRejected g] := by
  unfold State.ffeCleared onlyIf
  split
  · exact State.regsBut_wr _ (State.regsBut_refl _ _) List.mem_cons_self
  · exact State.regsBut_refl _ _

theorem ffeLegal_iff {pre main post : Int} : ffeLegal pre main post = true ↔ -16 ≤ pre ∧ pre ≤ 7 ∧ 24 ≤ main ∧ main ≤ 63 ∧
    -24 ≤ post ∧ post ≤ 7 ∧ (pre.natAbs : Int) + main + post.natAbs ≤ 63 := decide_eq_true_iff

/-- A LAN_FFE write whose taps keep every limit pends (R64). -/
theorem landFfe_pends {w : Word} {cyc : Cyc} (h : ffeLegal (ffeTaps w).1 (ffeTaps w).2.1 (ffeTaps w).2.2 = true) :
    let t := ((s.at cyc).landFfe g w cyc).closed
    s.pends t (keyOf F.lanFfePre g) w cyc ∧ s.regsBut t [keyOf F.lanFfePre g] ∧ (getF w 28 1 = 0 → s.regsBut t []) := by
  rw [State.landFfe_eq, if_pos h]
  refine ⟨State.pends_putCopy State.ffeCleared_sched State.ffeCleared_tick State.ffeCleared_hold, ?_, fun h0 => ?_⟩
  · exact State.closed_regsBut (State.putCopy_regsBut (State.regsBut_trans (s.at_regsBut cyc _) State.ffeCleared_regsBut))
  · rw [State.ffeCleared_of_zero h0]
    exact State.closed_regsBut (State.putCopy_regsBut (s.at_regsBut cyc _))

/-- A LAN_FFE write that breaks a limit is refused as a whole (R64). -/
theorem landFfe_refused {w : Word} {cyc : Cyc} (h : ¬ ffeLegal (ffeTaps w).1 (ffeTaps w).2.1 (ffeTaps w).2.2 = true) :
    let t := ((s.at cyc).landFfe g w cyc).closed
    t.rd F.lanFfeFfeRejected g = 1 ∧ t.sched = s.sched ∧ s.regsBut t [keyOf F.lanFfeFfeRejected g] := by
  rw [State.landFfe_eq, if_neg h]
  refine ⟨?_, ?_, ?_⟩
  · rw [State.closed_rd, State.rd_wr_of_lt _ _ (by decide) (by decide)]
  · rw [State.closed_sched, State.wr_sched, State.ffeCleared_sched, State.at_sched]
  · exact State.closed_regsBut (State.regsBut_wr _ (State.regsBut_trans (s.at_regsBut cyc _) State.ffeCleared_regsBut)
      List.mem_cons_self)

/-- A partner's request for one step of a tap of a lane in training (R66): the step is to come, or the reply is "at limit". -/
theorem State.ffeRequest_of_training {tap : Nat} {up : Bool} (hp : isPairLane g = true) (hst : s.laneState g = 2)
    (hsrc : s.rd F.lanFfeFfeSrc g = 0) (htap : tap ≠ 0) : s.ffeRequest g tap (if up then 1 else 2) =
      if ffeLegal ((s.lane g).stepTap tap up).pre ((s.lane g).stepTap tap up).main ((s.lane g).stepTap tap up).post then
        s.schedule (s.tick + 1) (.ffeStep g tap up)
      else s.modLane g (fun l => { l with ffeReply := 2 }) := by
  have hup : decide ((if up = true then 1 else 2) = 1) = up := by cases up <;> rfl
  have hreq : ¬ (tap = 0 ∨ ((if up = true then 1 else 2) ≠ 1 ∧ (if up = true then 1 else 2) ≠ 2)) := by
    cases up <;> simp [htap]
  unfold State.ffeRequest
  rw [if_neg (by simp [hp, hst, State.on, hsrc]), if_neg hreq]
  simp only [hup]

/-! ### LAN_LOOP (R82) -/

/-- A loopback of the serial or of the parallel side may be set outside a port and outside bring-up. -/
theorem State.loopAllowed_iff {mode : Nat} (h : mode = 1 ∨ mode = 2) :
    s.loopAllowed g mode = true ↔ s.laneInPort g = false ∧ s.laneState g ∉ [1, 2, 3] := by
  have h0 : mode ≠ 0 := by omega
  have h3 : mode ≠ 3 := by omega
  simp only [State.loopAllowed, h0, h3, decide_false, Bool.false_or, ne_eq, not_false_eq_true, decide_true, Bool.true_and,
    Bool.and_eq_true, Bool.not_eq_true', decide_eq_false_iff_not, List.mem_cons, List.not_mem_nil, or_false]
  refine and_congr_right fun _ => ?_
  omega

theorem State.at_loopAllowed (s : State) (cyc : Cyc) (g mode : Nat) : (s.at cyc).loopAllowed g mode = s.loopAllowed g mode := rfl

theorem landLoop_pends {mode : Nat} {ne : Bool} (h : s.loopAllowed g mode = true) :
    let u := ((s.at cyc).landLoop g mode ne cyc).closed
    s.pends u (keyOf F.lanLoopMode g) (BitVec.ofNat 32 (mode + 4 * b2n ne)) cyc ∧ s.regsBut u [] := by
  rw [State.landLoop, State.at_loopAllowed, if_pos h]
  exact ⟨State.pends_putCopy rfl rfl rfl, State.closed_regsBut (State.putCopy_regsBut (s.at_regsBut cyc _))⟩

theorem landLoop_refused {mode : Nat} {ne : Bool} (h : ¬ s.loopAllowed g mode = true) :
    let u := ((s.at cyc).landLoop g mode ne cyc).closed
    u.rd F.lanLoopLoopRejected g = 1 ∧ u.sched = s.sched ∧ s.regsBut u [keyOf F.lanLoopLoopRejected g] := by
  rw [State.landLoop, State.at_loopAllowed, if_neg h]
  refine ⟨?_, by simp, State.closed_regsBut (State.regsBut_wr _ (s.at_regsBut cyc _) List.mem_cons_self)⟩
  rw [State.closed_rd, State.rd_wr_of_lt _ _ (by decide) (by decide)]

/-- LOOPBACK_NEAR_END asks for mode 1 and LOOPBACK_FAR_END for mode 2. -/
theorem loopback_exec {g : LaneNo} {ne : Bool} {cyc : Cyc} {c : Instr × Nat} (hr : s.laneReady g = true)
    (hc : c ∈ [(Instr.loopbackNearEnd g ne cyc, 1), (.loopbackFarEnd g ne cyc, 2)]) :
    exec c.1 s = done ((s.at cyc).landLoop g c.2 ne cyc) ∧ (c.2 = 1 ∨ c.2 = 2) := by
  have hgate : ∀ mode : Nat, (s.at cyc).gateLane g (fun s => s.landLoop g mode ne cyc) = (s.at cyc).landLoop g mode ne cyc :=
    fun _ => State.gateLane_of_ready (State.at_laneReady cyc hr)
  simp only [List.mem_cons, List.not_mem_nil, or_false] at hc
  rcases hc with rfl | rfl
  · exact ⟨congrArg done (hgate 1), .inl rfl⟩
  · exact ⟨congrArg done (hgate 2), .inr rfl⟩

/-! ### Slip framing (R73, R75, R76) -/

theorem State.slipHunt_rd_state (s : State) (g : Nat) : (s.slipHunt g).rd F.lanSlipStatState g = 0 := by
  rw [State.slipHunt, State.modLane_rd, State.rd_wr_apart _ _ _ _ _ _ (by decide) (by decide),
    State.rd_wr_of_lt _ _ (by decide) (by decide)]

/-- The detector back in hunt leaves every field but its state and its run. -/
theorem State.slipHunt_rd {f : Fld} (i o : Nat) (hs : Fld.apart F.lanSlipStatState f = true)
    (hg : Fld.apart F.lanSlipStatGood f = true) : (s.slipHunt g).rd f i o = s.rd f i o := by
  rw [State.slipHunt, State.modLane_rd, State.rd_wr_apart _ _ _ _ _ _ (by decide) hg,
    State.rd_wr_apart _ _ _ _ _ _ (by decide) hs]

theorem State.regsBut_slipHunt {u : State} {ks : List RegKey} (h : s.regsBut u ks) (hk : keyOf F.lanSlipStatState g ∈ ks) :
    s.regsBut (u.slipHunt g) ks :=
  State.regsBut_of_word (State.modLane_word _ _ _) (State.regsBut_wr _ (State.regsBut_wr _ h hk) hk)

/-- A slip moves the boundary one position on, modulo the positions of the rate (R75). -/
theorem State.slipOne_position (s : State) (g : Nat) : (s.slipOne g).rd F.lanSlipStatPosition g =
    ((s.lane g).slips + 1) % slipPositions (s.laneRate g) := by
  have hlt : ∀ x : Nat, x % slipPositions (s.laneRate g) < 2 ^ F.lanSlipStatPosition.w := fun x => by
    refine Nat.lt_of_lt_of_le (Nat.mod_lt x ?_) ?_ <;> unfold slipPositions <;> split <;> decide
  rw [State.slipOne, State.slipHunt_rd _ _ (by decide) (by decide), State.showPosition, State.modLane_lane_self,
    State.modLane_laneRate, State.rd_wr_of_lt _ _ (by decide) (hlt _)]

theorem State.slipOne_regsBut (s : State) (g : Nat) : s.regsBut (s.slipOne g) [keyOf F.lanSlipStatState g] := by
  refine State.regsBut_slipHunt (State.regsBut_wr _ ?_ List.mem_cons_self) List.mem_cons_self
  exact State.regsBut_of_word (State.modLane_word _ _ _) (State.regsBut_refl _ _)

/-- A slip: the position, and the detector in hunt. -/
theorem slipOne_shows (s : State) (g : Nat) :
    let t := (s.slipOne g).closed
    t.rd F.lanSlipStatPosition g = ((s.lane g).slips + 1) % (if 3 ≤ s.laneRate g then 32 else 64) ∧
      t.rd F.lanSlipStatState g = 0 ∧ s.regsBut t [keyOf F.lanSlipStatState g] := by
  refine ⟨?_, ?_, State.closed_regsBut (s.slipOne_regsBut g)⟩
  · rw [State.closed_rd, State.slipOne_position, slipPositions, isPam4]
    simp only [decide_eq_true_eq]
  · rw [State.closed_rd, State.slipOne, State.slipHunt_rd_state]

/-- A period written to a line lane: at least 16, and the detector in hunt. -/
theorem landPeriod_shows {period : Nat} (hg : g < 144) (h : period < 65536) :
    let t := (s.landPeriod g period).closed
    t.rd F.lanSlipCfgPeriod g = max 16 period ∧ t.rd F.lanSlipStatState g = 0 ∧
      s.regsBut t [keyOf F.lanSlipCfgPeriod g, keyOf F.lanSlipStatState g] := by
  have hlt : max 16 period < 2 ^ F.lanSlipCfgPeriod.w := Nat.max_lt.mpr ⟨by decide, h⟩
  rw [State.landPeriod, isPairLane_of_lt hg, if_neg Bool.false_ne_true]
  refine ⟨?_, ?_, ?_⟩
  · rw [State.closed_rd, State.slipHunt_rd _ _ (by decide) (by decide), State.rd_wr_of_lt _ _ (by decide) hlt]
  · rw [State.closed_rd, State.slipHunt_rd_state]
  · exact State.closed_regsBut (State.regsBut_slipHunt (State.regsBut_wr _ (State.regsBut_refl _ _) List.mem_cons_self)
      (List.mem_cons_of_mem _ List.mem_cons_self))

/-- Line lane `g` with a frame of number `n` as its candidate (R76). -/
def State.candidate (s : State) (g n : Nat) : State :=
  (((s.wr F.lanSlipStatState 1 g).wr F.lanSlipStatGood 1 g).modLane g (fun l =>
    { l with expSeq := (n + 1) % 65536, badRun := 0 })).modLane g (fun l => { l with agreeRun := 0 })

/-- A good frame that reaches the detector of a line lane in hunt is the candidate (R76). -/
theorem State.slipFrame_of_hunt {bs : List Bool} (hst : s.rd F.lanSlipStatState g = 0) (hg : g < 144)
    (hgood : (slipFrameOf bs).good = true) : s.slipFrame g bs = s.candidate g (slipFrameOf bs).seq := by
  simp [State.slipFrame, State.slipDetect, State.trainExchange, State.candidate, hst, hgood, isPairLane_of_lt hg, onlyIf]

/-- The candidate shows in LAN_SLIP_STAT, and its successor is expected. -/
theorem candidate_shows (s : State) (g n : Nat) :
    let t := (s.candidate g n).closed
    t.rd F.lanSlipStatState g = 1 ∧ t.rd F.lanSlipStatGood g = 1 ∧ (t.lane g).expSeq = (n + 1) % 65536 ∧
      s.regsBut t [keyOf F.lanSlipStatState g] := by
  simp only [State.closed_rd, State.closed_lane]
  unfold State.candidate
  refine ⟨?_, ?_, by simp, State.closed_regsBut ?_⟩
  · rw [State.modLane_rd, State.modLane_rd, State.rd_wr_apart _ _ _ _ _ _ (by decide) (by decide),
      State.rd_wr_of_lt _ _ (by decide) (by decide)]
  · rw [State.modLane_rd, State.modLane_rd, State.rd_wr_of_lt _ _ (by decide) (by decide)]
  · refine State.regsBut_of_word (State.modLane_word _ _ _) (State.regsBut_of_word (State.modLane_word _ _ _) ?_)
    exact State.regsBut_wr _ (State.regsBut_wr _ (State.regsBut_refl _ _) List.mem_cons_self) List.mem_cons_self

/-! ### The counts of the checker (R80, R84) -/

/-- The registers that a read of LAN_ERR_LO latches. -/
def State.latchCounts (s : State) (g : Nat) : State :=
  ((s.wr F.lanErrHiErrHi ((s.lane g).chk.errors / 2 ^ 32) g).wr F.lanBitsLoBitsLo (s.lane g).chk.bits g).wr
    F.lanBitsHiBitsHi ((s.lane g).chk.bits / 2 ^ 32) g

theorem execLaneErrRead_of_ready {g : LaneNo} (h : s.laneReady g = true) : execLaneErrRead g s =
    done ((s.latchCounts g).emit (.read [BitVec.ofNat 32 (s.lane g).chk.errors])) := congrArg done (if_pos h)

/-- A read of LAN_ERR_LO: one error count and one bit count together. -/
theorem latchCounts_shows (s : State) (g : Nat) (o : Out) :
    let t := ((s.latchCounts g).emit o).closed
    s.sends t o ∧ t.rd F.lanErrHiErrHi g = (s.lane g).chk.errors / 2 ^ 32 % 2 ^ 16 ∧
      t.rd F.lanBitsLoBitsLo g = (s.lane g).chk.bits % 2 ^ 32 ∧
      t.rd F.lanBitsHiBitsHi g = (s.lane g).chk.bits / 2 ^ 32 % 2 ^ 16 ∧
      s.regsBut t [keyOf F.lanErrHiErrHi g, keyOf F.lanBitsLoBitsLo g, keyOf F.lanBitsHiBitsHi g] := by
  simp only [State.closed_rd, State.emit_rd]
  unfold State.latchCounts
  refine ⟨State.sends_emit o (by rw [State.wr_out, State.wr_out, State.wr_out]), ?_, ?_, State.rd_wr_self _ _ _ _ (by decide), ?_⟩
  · rw [State.rd_wr_apart _ _ _ _ _ _ (by decide) (by decide), State.rd_wr_apart _ _ _ _ _ _ (by decide) (by decide)]
    exact State.rd_wr_self _ _ _ _ (by decide)
  · rw [State.rd_wr_apart _ _ _ _ _ _ (by decide) (by decide)]
    exact State.rd_wr_self _ _ _ _ (by decide)
  · refine State.closed_regsBut (State.emit_regsBut _ (State.regsBut_wr _ (State.regsBut_wr _ (State.regsBut_wr _
      (State.regsBut_refl _ _) ?_) ?_) ?_)) <;> simp

/-- The error, bit and CDR-loss counts cleared. -/
def State.clearCounts (s : State) (g : Nat) : State :=
  (s.modLane g (fun l => { l with chk := { l.chk with errors := 0, bits := 0 } })).wr F.lanSnrCdrLosses 0 g

theorem State.landPrbs_of_clear {w : Word} {cyc : Nat} (h : getF w 8 1 = 1) :
    s.landPrbs g w cyc = (s.clearCounts g).putCopy (keyOf F.lanPrbsTxPattern g) (w &&& 0xF7) cyc := by
  rw [State.landPrbs, if_pos h]
  rfl

theorem State.clearCounts_hold : (s.clearCounts g).on F.devCommitCtlHold = s.on F.devCommitCtlHold := by
  rw [State.clearCounts, State.on_wr_apart _ _ _ _ _ _ (by decide) (by decide), State.modLane_on]

/-- A LAN_PRBS write with clear: the counts are 0 at once, and the other fields pend. -/
theorem landPrbs_clears {w : Word} {cyc : Cyc} (h : getF w 8 1 = 1) :
    let t := ((s.at cyc).landPrbs g w cyc).closed
    (t.lane g).chk.errors = 0 ∧ (t.lane g).chk.bits = 0 ∧ t.rd F.lanSnrCdrLosses g = 0 ∧
      s.pends t (keyOf F.lanPrbsTxPattern g) (w &&& 0xF7) cyc ∧ s.regsBut t [keyOf F.lanSnrCdrLosses g] := by
  have hlane : ((s.at cyc).clearCounts g).lane g =
      { s.lane g with chk := { (s.lane g).chk with errors := 0, bits := 0 } } := by
    rw [State.clearCounts, State.wr_lane, State.modLane_lane_self, State.at_lane]
  rw [State.landPrbs_of_clear h]
  simp only [State.closed_rd, State.closed_lane, State.putCopy_rd, State.putCopy_lane, hlane, true_and]
  refine ⟨State.rd_wr_of_lt _ _ (by decide) (by decide), State.pends_putCopy rfl rfl State.clearCounts_hold, ?_⟩
  refine State.closed_regsBut (State.putCopy_regsBut (State.regsBut_wr _ ?_ List.mem_cons_self))
  exact State.regsBut_of_word (State.modLane_word _ _ _) (s.at_regsBut cyc _)

end Sys2Proof.Machine
end

section
/-! SUPPORT. What a receiver hears and what its checker makes of it (R71, R80, R82), and the bring-up states of a lane (R70,
R71). -/

namespace Sys2Proof.Machine

open Sys2Proof

variable {s : State} {g : Nat}

/-! ### Hearing leaves the registers and the checkers -/

theorem LaneRt.elasticBit_chk (l : LaneRt) : l.elasticBit.2.chk = l.chk := by
  unfold LaneRt.elasticBit
  split <;> rfl

theorem LaneRt.elasticPull_chk (l : LaneRt) (n : Nat) : (l.elasticPull n).2.chk = l.chk := by
  unfold LaneRt.elasticPull
  refine List.foldlRecOn (List.range n) _ (motive := fun q : List Bool × LaneRt => q.2.chk = l.chk) rfl
    fun q hq _ _ => ?_
  exact (LaneRt.elasticBit_chk q.2).trans hq

/-- A change of a lane that leaves its checker. -/
theorem State.modLane_chk {f : LaneRt → LaneRt} (hf : ∀ l, (f l).chk = l.chk) : ((s.modLane g f).lane g).chk = (s.lane g).chk := by
  rw [State.modLane_lane_self, hf]

theorem State.patternBits_chk (s : State) (g n : Nat) : ((s.patternBits g n).1.lane g).chk = (s.lane g).chk := by
  unfold State.patternBits
  split
  · rw [State.burn_lane]
  · exact State.modLane_chk fun _ => rfl

theorem State.slipBits_chk (s : State) (g n : Nat) (test : Bool) : ((s.slipBits g n test).1.lane g).chk = (s.lane g).chk :=
  State.modLane_chk fun _ => rfl

theorem State.laneSource_chk (s : State) (g n : Nat) (port : List Bool) :
    ((s.laneSource g n port).1.lane g).chk = (s.lane g).chk := by
  unfold State.laneSource
  split
  · exact s.patternBits_chk g n
  · split
    · rw [State.setLane_lane_self, LaneRt.elasticPull_chk]
    · split
      · split
        · exact s.slipBits_chk g n false
        · rfl
      · exact s.patternBits_chk g n
      · exact s.slipBits_chk g n true
      · rw [State.burn_lane]

theorem State.laneSends_chk (s : State) (g n : Nat) (port : List Bool) :
    ((s.laneSends g n port).1.lane g).chk = (s.lane g).chk := by
  unfold State.laneSends
  dsimp only
  rw [State.modLane_lane_self]
  exact s.laneSource_chk g _ port

theorem State.laneBits_chk (s : State) (g : Nat) (xs : List Sym) : ((s.laneBits g xs).1.lane g).chk = (s.lane g).chk := by
  unfold State.laneBits
  cases decide (s.rd F.lanLoopMode g = 2) <;> exact State.modLane_chk fun _ => rfl

theorem State.laneEmit_lane (s : State) (g : Nat) (xs : List Sym) (h : Nat) : (s.laneEmit g xs).lane h = s.lane h := by
  unfold State.laneEmit
  split <;> rfl

theorem State.laneHears_chk (s : State) (g : Nat) (xs : List Sym) (port : List Bool) :
    ((s.laneHears g xs port).1.lane g).chk = (s.lane g).chk := by
  unfold State.laneHears
  split
  · rfl
  · split
    · rw [State.laneBits_chk, State.laneEmit_lane, State.laneSends_chk]
    · exact s.laneBits_chk g xs

theorem State.laneHears_word (s : State) (g : Nat) (xs : List Sym) (port : List Bool) (k : RegKey) :
    (s.laneHears g xs port).1.word k = s.word k :=
  (KeepsP.fst State.laneHears_keeps).word (l := [.lanes, .fresh, .out]) (by simp)

theorem State.laneHears_rd (s : State) (g : Nat) (xs : List Sym) (port : List Bool) (f : Fld) (i o : Nat) :
    (s.laneHears g xs port).1.rd f i o = s.rd f i o :=
  congrArg (getF · f.lo f.w) (s.laneHears_word g xs port _)

/-- A good slip frame that a line lane in hunt hears is its candidate (R76). -/
theorem execSlipFrameReceived_of_hunt {g : LaneNo} {rx : List Sym} {bs : List Bool} (hfr : s.rd F.lanCtrlFraming g = 1)
    (hst : s.rd F.lanSlipStatState g = 0) (hg : g.val < 144) (hbs : bs = (s.laneHears g rx []).2) (hne : bs ≠ [])
    (hgood : (slipFrameOf bs).good = true) :
    execSlipFrameReceived g rx s = done ((s.laneHears g rx []).1.candidate g (slipFrameOf bs).seq) := by
  subst hbs
  refine congrArg done ((onlyIf_of_true (decide_eq_true hfr)).trans ((onlyIf_of_true ?_).trans ?_))
  · simpa using hne
  · exact State.slipFrame_of_hunt ((s.laneHears_rd g rx [] ..).trans hst) hg hgood

/-! ### The checker (R71, R80) -/

theorem satAdd_eq_min (w a b : Nat) : satAdd w a b = min (2 ^ w - 1) (a + b) := Nat.min_comm ..

/-- What the bits make of the checker of lane `g`, counted from zero. -/
def State.fedChecker (s : State) (g : Nat) (bs : List Bool) : Checker :=
  Checker.feed (s.lanePattern F.lanPrbsRxPattern g) { (s.lane g).chk with errors := 0, bits := 0, lost := false } bs

/-- The checker `c` in place, its counts added to those of the lane. -/
def State.takeChecker (s : State) (g : Nat) (c : Checker) : State :=
  (s.setChk g { c with lost := false, errors := satAdd 48 (s.lane g).chk.errors c.errors
                       bits := satAdd 48 (s.lane g).chk.bits c.bits }).count .lan g 1 c.errors

/-- A lost lock is noted, and a check does not survive it. -/
def State.noteLost (s : State) (g : Nat) : State :=
  onlyIf (decide ((s.wr F.lanPrbsStatLost 1 g).laneState g = 3))
    (fun s => s.modLane g (fun l => { l with lostInCheck := true })) (s.wr F.lanPrbsStatLost 1 g)

theorem State.feedChecker_of_runs {bs : List Bool} (h : s.checkerRuns g = true) : s.feedChecker g bs =
    onlyIf (s.fedChecker g bs).lost (fun s => s.noteLost g) (s.takeChecker g (s.fedChecker g bs)) :=
  if_neg (by simp [h])

theorem State.lanePattern_eq (s : State) (f : Fld) (g : Nat) : s.lanePattern f g =
    if s.laneState g = 3 then (if 3 ≤ s.laneRate g then 2 else 5) else s.rd f g := by
  simp [State.lanePattern, isPam4]

theorem State.setChk_rd_locked (s : State) (g : Nat) (c : Checker) : (s.setChk g c).rd F.lanPrbsStatLocked g = b2n c.locked := by
  rw [State.setChk, State.modLane_rd, State.rd_wr_flag _ _ _ (by decide) (by decide)]

theorem State.setChk_rd {f : Fld} (c : Checker) (i o : Nat) (h : Fld.apart F.lanPrbsStatLocked f = true) :
    (s.setChk g c).rd f i o = s.rd f i o := by
  rw [State.setChk, State.modLane_rd, State.rd_wr_apart _ _ _ _ _ _ (by decide) h]

theorem State.setChk_chk (s : State) (g : Nat) (c : Checker) : ((s.setChk g c).lane g).chk = c := by
  rw [State.setChk, State.modLane_lane_self]

theorem State.regsBut_setChk {u : State} {ks : List RegKey} (c : Checker) (h : s.regsBut u ks)
    (hk : keyOf F.lanPrbsStatLocked g ∈ ks) : s.regsBut (u.setChk g c) ks :=
  State.regsBut_of_word (State.modLane_word _ _ _) (State.regsBut_wr _ h hk)

theorem State.takeChecker_rd_locked (c : Checker) : (s.takeChecker g c).rd F.lanPrbsStatLocked g = b2n c.locked := by
  rw [State.takeChecker, State.count_rd, State.setChk_rd_locked]

theorem State.takeChecker_rd {f : Fld} (c : Checker) (i o : Nat) (h : Fld.apart F.lanPrbsStatLocked f = true) :
    (s.takeChecker g c).rd f i o = s.rd f i o := by
  rw [State.takeChecker, State.count_rd, State.setChk_rd _ _ _ h]

theorem State.takeChecker_errors (c : Checker) :
    ((s.takeChecker g c).lane g).chk.errors = satAdd 48 (s.lane g).chk.errors c.errors := by
  rw [State.takeChecker, State.count_lane, State.setChk_chk]

theorem State.takeChecker_bits (c : Checker) :
    ((s.takeChecker g c).lane g).chk.bits = satAdd 48 (s.lane g).chk.bits c.bits := by
  rw [State.takeChecker, State.count_lane, State.setChk_chk]

theorem State.takeChecker_regsBut (c : Checker) : s.regsBut (s.takeChecker g c) [keyOf F.lanPrbsStatLocked g] :=
  State.regsBut_of_word (State.count_word _ _ _ _ _ _) (State.regsBut_setChk _ (State.regsBut_refl _ _) List.mem_cons_self)

theorem State.noteLost_word (k : RegKey) : (s.noteLost g).word k = (s.wr F.lanPrbsStatLost 1 g).word k := by
  unfold State.noteLost onlyIf
  split
  · rw [State.modLane_word]
  · rfl

theorem State.noteLost_rd (f : Fld) (i o : Nat) : (s.noteLost g).rd f i o = (s.wr F.lanPrbsStatLost 1 g).rd f i o :=
  congrArg (getF · f.lo f.w) (State.noteLost_word _)

theorem State.noteLost_chk : ((s.noteLost g).lane g).chk = (s.lane g).chk := by
  unfold State.noteLost onlyIf
  split
  · rw [State.modLane_lane_self, State.wr_lane]
  · rw [State.wr_lane]

theorem State.noteLost_lostInCheck (h : s.laneState g = 3) : ((s.noteLost g).lane g).lostInCheck = true := by
  have hst : (s.wr F.lanPrbsStatLost 1 g).laneState g = 3 := by
    rw [State.wr_laneState _ _ _ (by decide) (by decide), h]
  unfold State.noteLost onlyIf
  rw [if_pos (decide_eq_true hst), State.modLane_lane_self]

/-- Symbols that reach a running checker: what it makes of them shows in LAN_PRBS_STAT and in its two counts. -/
theorem feedChecker_counts {bs : List Bool} {c : Checker} (h : s.checkerRuns g = true) (hc : c = s.fedChecker g bs) :
    let t := s.feedChecker g bs
    t.rd F.lanPrbsStatLocked g = b2n c.locked ∧
      (t.lane g).chk.errors = satAdd 48 (s.lane g).chk.errors c.errors ∧
      (t.lane g).chk.bits = satAdd 48 (s.lane g).chk.bits c.bits ∧
      (c.lost = true → t.rd F.lanPrbsStatLost g = 1 ∧ (s.laneState g = 3 → (t.lane g).lostInCheck = true)) ∧
      (c.lost = false → t.rd F.lanPrbsStatLost g = s.rd F.lanPrbsStatLost g) ∧
      s.regsBut t [keyOf F.lanPrbsStatLocked g] := by
  rw [State.feedChecker_of_runs h, ← hc]
  have htook := s.takeChecker_regsBut (g := g) c
  cases hlost : c.lost with
  | false =>
    rw [onlyIf_of_false rfl]
    refine ⟨State.takeChecker_rd_locked c, State.takeChecker_errors c, State.takeChecker_bits c, nofun, fun _ => ?_, htook⟩
    exact State.takeChecker_rd c g 0 (by decide)
  | true =>
    rw [onlyIf_of_true rfl]
    refine ⟨?_, ?_, ?_, fun _ => ⟨?_, fun hst => ?_⟩, nofun, ?_⟩
    · rw [State.noteLost_rd, State.rd_wr_apart _ _ _ _ _ _ (by decide) (by decide), State.takeChecker_rd_locked]
    · exact (congrArg Checker.errors State.noteLost_chk).trans (State.takeChecker_errors c)
    · exact (congrArg Checker.bits State.noteLost_chk).trans (State.takeChecker_bits c)
    · exact (State.noteLost_rd _ _ _).trans (State.rd_wr_of_lt _ _ (by decide) (by decide))
    · exact State.noteLost_lostInCheck ((State.takeChecker_rd c g 0 (by decide)).trans hst)
    · exact State.regsBut_of_word State.noteLost_word (State.regsBut_wr _ htook List.mem_cons_self)

theorem State.checkerRuns_of (h : s.rd F.lanPrbsRxEnable g = 1 ∨ s.laneState g = 3) : s.checkerRuns g = true := by
  rcases h with h | h <;> simp [State.checkerRuns, State.on, h]

/-- What a running checker makes of what its lane hears (R71, R80). -/
theorem laneFeed_counts {rx : List Sym} {c : Checker} (h : s.rd F.lanPrbsRxEnable g = 1 ∨ s.laneState g = 3)
    (hc : c = Checker.feed (s.lanePattern F.lanPrbsRxPattern g) { (s.lane g).chk with errors := 0, bits := 0, lost := false }
      (s.laneHears g rx []).2) :
    let t := (s.laneFeed g rx []).closed
    t.rd F.lanPrbsStatLocked g = b2n c.locked ∧
      (t.lane g).chk.errors = min (2 ^ 48 - 1) ((s.lane g).chk.errors + c.errors) ∧
      (t.lane g).chk.bits = min (2 ^ 48 - 1) ((s.lane g).chk.bits + c.bits) ∧
      (c.lost = true → t.rd F.lanPrbsStatLost g = 1 ∧ (s.laneState g = 3 → (t.lane g).lostInCheck = true)) ∧
      (c.lost = false → t.rd F.lanPrbsStatLost g = s.rd F.lanPrbsStatLost g) ∧
      s.regsBut t [keyOf F.lanPrbsStatLocked g] := by
  have hrd := s.laneHears_rd g rx []
  have hchk := s.laneHears_chk g rx []
  have hstate : (s.laneHears g rx []).1.laneState g = s.laneState g := hrd ..
  have hrate : (s.laneHears g rx []).1.laneRate g = s.laneRate g := hrd ..
  have hruns : (s.laneHears g rx []).1.checkerRuns g = true := State.checkerRuns_of (by rwa [hrd, hstate])
  have hfed : c = (s.laneHears g rx []).1.fedChecker g (s.laneHears g rx []).2 := by
    rw [hc, State.fedChecker, hchk, State.lanePattern_eq, State.lanePattern_eq, hstate, hrate, hrd]
  obtain ⟨hlocked, herrors, hbits, hlost, hkept, hregs⟩ := feedChecker_counts hruns hfed
  simp only [State.closed_rd, State.closed_lane]
  rw [hchk, satAdd_eq_min] at herrors hbits
  refine ⟨hlocked, herrors, hbits, fun h => ⟨(hlost h).1, fun hst => (hlost h).2 (hstate.trans hst)⟩,
    fun h => (hkept h).trans (hrd ..), State.closed_regsBut ?_⟩
  exact State.regsBut_trans (State.regsBut_of_word (s.laneHears_word g rx []) (State.regsBut_refl _ _)) hregs

/-! ### Bring-up (R70, R71) -/

theorem State.restChk_rd {f : Fld} (i o : Nat) (h : Fld.apart F.lanPrbsStatLocked f = true) :
    (s.restChk g).rd f i o = s.rd f i o := by
  unfold State.restChk
  split
  · rfl
  · exact State.setChk_rd _ i o h

/-- A lane in a bring-up state that it enters: LAN_STAT shows the state. -/
theorem State.enterLane_laneState {st : Nat} (h : st < 8) : (s.enterLane g st).laneState g = st := by
  rw [State.enterLane, State.laneState, State.restChk_rd _ _ (by decide), State.modLane_rd,
    State.rd_wr_of_lt _ _ (by decide) h]

theorem State.enterLane_regsBut (s : State) (g st : Nat) :
    s.regsBut (s.enterLane g st) [keyOf F.lanStatState g, keyOf F.lanPrbsStatLocked g] := by
  have hst : s.regsBut ((s.wr F.lanStatState st g).modLane g (fun l => { l with since := s.tick }))
      [keyOf F.lanStatState g, keyOf F.lanPrbsStatLocked g] :=
    State.regsBut_of_word (State.modLane_word _ _ _) (State.regsBut_wr _ (State.regsBut_refl _ _) List.mem_cons_self)
  unfold State.enterLane State.restChk
  split
  · exact hst
  · exact State.regsBut_setChk _ hst (List.mem_cons_of_mem _ List.mem_cons_self)

/-- A lane that fails shows its cause (R70). -/
theorem failLane_shows {cause : Nat} (h : cause < 8) :
    let t := (s.failLane g cause).closed
    t.laneState g = 5 ∧ t.rd F.lanStatFailCause g = cause ∧
      s.regsBut t [keyOf F.lanStatState g, keyOf F.lanPrbsStatLocked g] := by
  simp only [State.closed_laneState, State.closed_rd]
  unfold State.failLane
  refine ⟨?_, State.rd_wr_of_lt _ _ (by decide) h,
    State.closed_regsBut (State.regsBut_wr _ (s.enterLane_regsBut g 5) List.mem_cons_self)⟩
  rw [State.wr_laneState _ _ _ (by decide) (by decide), State.enterLane_laneState (by decide)]

/-- The limit of R71 at NRZ and at PAM4 rates, of a check that kept its lock. -/
theorem State.checkPasses_of_limit (hlock : (s.lane g).chk.locked = true) (hlost : (s.lane g).lostInCheck = false)
    (hnrz : s.laneRate g < 3 → (s.lane g).chk.errors = 0)
    (hpam : 3 ≤ s.laneRate g → (s.lane g).chk.errors ≤ (s.lane g).chk.bits / 2 ^ (s.lane g).shift) :
    s.checkPasses g = true := by
  unfold State.checkPasses isPam4
  by_cases hr : 3 ≤ s.laneRate g
  · simp [hlock, hlost, hr, hpam hr]
  · simp [hlock, hlost, hr, hnrz (Nat.not_le.mp hr)]

theorem State.checkPasses_of_lost (h : (s.lane g).chk.locked = false ∨ (s.lane g).lostInCheck = true) :
    s.checkPasses g = false := by
  unfold State.checkPasses
  rcases h with h | h <;> simp [h]

end Sys2Proof.Machine
end

section
/-! PROOF. The statements on the limits of the taps and on the bring-up of a lane. -/

namespace Sys2Proof.Machine

open Sys2Proof

/-- Settles O19: the write is accepted where the limits of R64 hold of its taps, and refused where one of them does not. -/
theorem ffeLimits : Obligations.FfeLimits := by
  unfold Obligations.FfeLimits
  intro s g w cyc hr pre main post hpre hmain hpost
  have hexec : exec (.ffeWrite g w cyc) s = done ((s.at cyc).landFfe g w cyc) :=
    congrArg done (State.gateLane_of_ready (State.at_laneReady cyc hr))
  subst hpre hmain hpost
  refine ⟨fun h1 h2 h3 h4 h5 h6 h7 => ?accepted, fun hbroken => ?refused⟩
  case accepted => exact runs_of_done hexec (landFfe_pends (ffeLegal_iff.mpr ⟨h1, h2, h3, h4, h5, h6, h7⟩))
  case refused =>
    refine runs_of_done hexec (landFfe_refused fun hlegal => ?_)
    have hlimits := ffeLegal_iff.mp hlegal
    dsimp only [ffeTaps] at hlimits
    omega

/-- Settles O20: each row by the state in which it finds the lane. -/
theorem laneBringUp : Obligations.LaneBringUp := by
  unfold Obligations.LaneBringUp
  refine fun s g => ⟨fun cyc hr hg => ?agreed, fun hen hshed hst => ?cdrLock, fun hst hdue => ?lockTimeout,
    fun hst htr => ?trained, fun hst hdue => ?trainingTimeout,
    fun hst hdue hlock hlost hpartner hnrz hpam => ?passes, fun hst hdue hlost => ?fails, ?los, ?losClear,
    fun hlock => ?cdrLockLoss⟩
  case agreed =>
    have hexec : exec (.cmisAgreed g cyc) s = done ((s.at cyc).wr F.lanStatAgreed 1 g) := by
      refine congrArg done ((State.gateLane_of_ready (State.at_laneReady cyc hr)).trans (if_neg ?_))
      simp [isPairLane_of_lt hg]
    refine runs_of_done hexec ⟨?_, State.closed_regsBut (State.regsBut_wr _ (s.at_regsBut cyc _) List.mem_cons_self)⟩
    rw [State.closed_rd, State.rd_wr_of_lt _ _ (by decide) (by decide)]
  case cdrLock =>
    have hheard : s.hearing g = true := by simp [State.hearing, State.on, hen, hshed]
    have hlocking : (s.wr F.lanStatCdrLock 1 g).laneState g = 1 := by
      rw [State.wr_laneState _ _ _ (by decide) (by decide), hst]
    have hexec : exec (.cdrLock g) s = done ((s.wr F.lanStatCdrLock 1 g).schedule (s.tick + 1) (.laneTrain g)) :=
      congrArg done ((onlyIf_of_true hheard).trans (onlyIf_of_true (decide_eq_true hlocking)))
    refine runs_of_done hexec ⟨?_, ?_, ?_⟩
    · rw [State.closed_rd, State.schedule_rd, State.rd_wr_of_lt _ _ (by decide) (by decide)]
    · exact State.closed_regsBut (State.regsBut_of_word (State.schedule_word _ _ _)
        (State.regsBut_wr _ (State.regsBut_refl _ _) List.mem_cons_self))
    · rw [State.closed_sched, State.schedule_sched, State.wr_sched]
  case lockTimeout =>
    exact runs_of_done (congrArg done (onlyIf_of_true (decide_eq_true ⟨hst, hdue⟩))) (failLane_shows (by decide))
  case trained =>
    have hexec : exec (.trainingDone g) s =
        done ((s.modLane g (fun l => { l with trained := true })).schedule (s.tick + 1) (.laneCheck g)) :=
      congrArg done (onlyIf_of_true (by simp [hst, htr]))
    refine runs_of_done hexec ⟨by simp, State.closed_regsBut fun k _ => by simp, by simp⟩
  case trainingTimeout =>
    exact runs_of_done (congrArg done (onlyIf_of_true (decide_eq_true ⟨hst, hdue⟩))) (failLane_shows (by decide))
  case passes =>
    have hpass : s.checkPasses g = true := State.checkPasses_of_limit hlock hlost hnrz hpam
    have hexec : exec (.checkDone g) s = done ((s.enterLane g 4).modLane g (fun l => { l with passed := true })) := by
      refine congrArg done ((onlyIf_of_true (decide_eq_true ⟨hst, hdue⟩)).trans ?_)
      rw [if_neg (by simp [hpass]), if_neg (by rcases hpartner with h | h <;> simp [h])]
    refine runs_of_done hexec ⟨?_, ?_⟩
    · rw [State.closed_laneState, State.modLane_laneState, State.enterLane_laneState (by decide)]
    · exact State.closed_regsBut (State.regsBut_of_word (State.modLane_word _ _ _) (s.enterLane_regsBut g 4))
  case fails =>
    have hexec : exec (.checkDone g) s = done (s.failLane g 3) := by
      refine congrArg done ((onlyIf_of_true (decide_eq_true ⟨hst, hdue⟩)).trans (if_pos ?_))
      rw [State.checkPasses_of_lost hlost, Bool.not_false]
    exact runs_of_done hexec (failLane_shows (by decide))
  case los =>
    by_cases hlos : s.rd F.lanStatLos g = 1
    · have hexec : exec (.los g) s = done s := congrArg done (onlyIf_of_false (by simp [State.on, hlos]))
      exact runs_of_done hexec ⟨by rw [State.closed_rd, hlos], State.closed_regsBut (State.regsBut_refl _ _)⟩
    · have hexec : exec (.los g) s = done ((s.wr F.lanStatLos 1 g).count .lan g 3) :=
        congrArg done (onlyIf_of_true (by simp [State.on, hlos]))
      refine runs_of_done hexec ⟨?_, State.closed_regsBut (State.regsBut_of_word (State.count_word _ _ _ _ _ _)
        (State.regsBut_wr _ (State.regsBut_refl _ _) List.mem_cons_self))⟩
      rw [State.closed_rd, State.count_rd, State.rd_wr_of_lt _ _ (by decide) (by decide)]
  case losClear =>
    refine runs_of_done rfl ⟨?_, State.closed_regsBut (State.regsBut_wr _ (State.regsBut_refl _ _) List.mem_cons_self)⟩
    rw [State.closed_rd, State.rd_wr_of_lt _ _ (by decide) (by decide)]
  case cdrLockLoss =>
    have hexec : exec (.cdrLockLoss g) s =
        done (((s.wr F.lanStatCdrLock 0 g).bumpReg F.lanSnrCdrLosses 1 g).count .lan g 2) :=
      congrArg done (onlyIf_of_true (decide_eq_true hlock))
    refine runs_of_done hexec ⟨?_, ?_, ?_⟩
    · rw [State.closed_rd, State.count_rd, State.bumpReg, State.rd_wr_apart _ _ _ _ _ _ (by decide) (by decide),
        State.rd_wr_of_lt _ _ (by decide) (by decide)]
    · rw [State.closed_rd, State.count_rd, State.rd_bumpReg_self _ _ _ (by decide),
        State.rd_wr_apart _ _ _ _ _ _ (by decide) (by decide), satAdd_eq_min]
      rfl
    · exact State.closed_regsBut (State.regsBut_of_word (State.count_word _ _ _ _ _ _)
        (State.regsBut_bumpReg _ (State.regsBut_wr _ (State.regsBut_refl _ _) List.mem_cons_self)
          (List.mem_cons_of_mem _ List.mem_cons_self)))

end Sys2Proof.Machine
end

section
/-! PROOF. The statement on what is asked of a lane, and on its detector, checker and loopbacks. -/

namespace Sys2Proof.Machine

open Sys2Proof

/-- Settles O18: LAN_CTRL by the fields of the word it leaves pending, a step by its first failing condition, and the detector,
the checker, the loopbacks and the taps by the operation that each command's write or symbols reach. -/
theorem laneRequests : Obligations.LaneRequests := by
  unfold Obligations.LaneRequests
  refine ⟨fun s g ctl cyc hr c hc => ?ctrl, fun s g t cyc hr => ⟨fun hlt hnext hst hag hloop hen hlos => ?up,
      fun hlt hrung hloop hen => ?down⟩, fun s g t cyc hr => ⟨fun hlt cause hcause h0 => ?upRefused,
      fun hlt cause hcause h0 => ?downRefused⟩, fun s g => ⟨fun hr => ?slip, fun period hr hg => ?period,
      fun w cyc hr => ?clear, fun rx bs c hruns hbs hc cmd hcmd => ?feed, fun hr => ?errRead,
      fun ne cyc hr => ⟨fun c hc => ⟨fun hport hst => ?loop, fun hbusy => ?loopRefused⟩, ?loopOff⟩,
      fun rx bs hfr hst hg hbs hne hgood => ?slipFrame,
      fun tap up hpair hst hsrc htap => ⟨fun hlegal => ?tapStep, fun hlegal => ?tapLimit⟩⟩⟩
  case ctrl =>
    simp only [List.mem_cons, List.not_mem_nil, or_false] at hc
    rcases hc with rfl | rfl
    · refine runs_of_done (execLaneEnable_of_ready hr) (landLanCtrl_pends ?_ ?_ ?_) <;> rw [enabled_zeroExtend]
      · exact getF_or_of_one rfl
      · exact getF_or_of_zero rfl
      · exact getF_or_of_zero rfl
    · refine runs_of_done (execLaneDisable_of_ready hr) (landLanCtrl_pends ?_ ?_ ?_) <;> rw [disabled_zeroExtend]
      · exact getF_disabled _
      · exact getF_and_of_ones rfl
      · exact getF_and_of_ones rfl
  case up =>
    refine runs_of_done (execLaneStepUp_of_lt hr hlt) (landStep_pends (Nat.ne_of_gt hlt) ?_)
    rw [State.stepCause_of_up hlt]
    simp [hnext, hst, hag, hloop, hen, hlos]
  case down =>
    refine runs_of_done (execLaneStepDown_of_lt hr hlt) (landStep_pends (Nat.ne_of_lt hlt) ?_)
    rw [State.stepCause_of_down hlt]
    simp [hrung, hloop, hen]
  case upRefused =>
    have hstep := hcause.trans (State.stepCause_of_up hlt).symm
    subst hstep
    exact runs_of_done (execLaneStepUp_of_lt hr hlt) (landStep_refused (Nat.ne_of_gt hlt) h0)
  case downRefused =>
    have hstep := hcause.trans (State.stepCause_of_down hlt).symm
    subst hstep
    exact runs_of_done (execLaneStepDown_of_lt hr hlt) (landStep_refused (Nat.ne_of_lt hlt) h0)
  case slip =>
    have hexec : exec (.slip g) s = done (s.slipOne g) := congrArg done (State.gateLane_of_ready hr)
    exact runs_of_done hexec (slipOne_shows s g)
  case period =>
    have hexec : exec (.slipPeriodWrite g period) s = done (s.landPeriod g period) :=
      congrArg done (State.gateLane_of_ready hr)
    exact runs_of_done hexec (landPeriod_shows hg period.isLt)
  case clear =>
    have hexec : exec (.prbsClear g w cyc) s = done ((s.at cyc).landPrbs g (w ||| 0x100) cyc) :=
      congrArg done (State.gateLane_of_ready (State.at_laneReady cyc hr))
    exact runs_of_done hexec (landPrbs_clears (getF_or_of_one rfl))
  case feed =>
    have hexec : exec cmd s = done (s.laneFeed g rx []) := by
      simp only [List.mem_cons, List.not_mem_nil, or_false] at hcmd
      rcases hcmd with rfl | rfl <;> rfl
    exact runs_of_done hexec (laneFeed_counts hruns (by rw [hc, hbs, State.lanePattern_eq]))
  case errRead => exact runs_of_done (execLaneErrRead_of_ready hr) (latchCounts_shows s g _)
  case loop =>
    obtain ⟨hexec, hmode⟩ := loopback_exec hr hc
    exact runs_of_done hexec (landLoop_pends ((State.loopAllowed_iff hmode).mpr ⟨hport, hst⟩))
  case loopRefused =>
    obtain ⟨hexec, hmode⟩ := loopback_exec hr hc
    refine runs_of_done hexec (landLoop_refused fun hallowed => ?_)
    obtain ⟨hport, hst⟩ := (State.loopAllowed_iff hmode).mp hallowed
    rcases hbusy with hin | hup
    · exact Bool.false_ne_true (hport.symm.trans hin)
    · exact hst hup
  case loopOff =>
    have hexec : exec (.loopbackOff g ne cyc) s = done ((s.at cyc).landLoop g 0 ne cyc) :=
      congrArg done (State.gateLane_of_ready (State.at_laneReady cyc hr))
    have hpends := landLoop_pends (s := s) (g := g) (cyc := cyc) (mode := 0) (ne := ne) rfl
    rw [Nat.zero_add] at hpends
    exact runs_of_done hexec hpends
  case slipFrame =>
    have hhears : s.regsBut (s.laneHears g rx []).1 [keyOf F.lanSlipStatState g] :=
      State.regsBut_of_word (s.laneHears_word g rx []) (State.regsBut_refl _ _)
    obtain ⟨hstate, hnum, hseq, hregs⟩ := candidate_shows (s.laneHears g rx []).1 g (slipFrameOf bs).seq
    exact runs_of_done (execSlipFrameReceived_of_hunt hfr hst hg hbs hne hgood)
      ⟨hstate, hnum, hseq, State.regsBut_trans hhears hregs⟩
  case tapStep =>
    have hexec : exec (.ffeCoeffRequest g tap up) s = done (s.schedule (s.tick + 1) (.ffeStep g tap up)) :=
      congrArg done ((State.ffeRequest_of_training hpair hst hsrc (Fin.val_ne_of_ne htap)).trans (if_pos hlegal))
    exact runs_of_done hexec ⟨State.closed_regsBut (State.regsBut_of_word (State.schedule_word _ _ _) (State.regsBut_refl _ _)),
      by rw [State.closed_sched, State.schedule_sched]⟩
  case tapLimit =>
    have hexec : exec (.ffeCoeffRequest g tap up) s = done (s.modLane g (fun l => { l with ffeReply := 2 })) :=
      congrArg done ((State.ffeRequest_of_training hpair hst hsrc (Fin.val_ne_of_ne htap)).trans (if_neg (by simp [hlegal])))
    refine runs_of_done hexec ⟨State.closed_regsBut (State.regsBut_of_word (State.modLane_word _ _ _) (State.regsBut_refl _ _)),
      ?_, ?_⟩
    · rw [State.closed_sched, State.modLane_sched]
    · rw [State.closed_lane, State.modLane_lane_self]

end Sys2Proof.Machine
end

section
/-! SUPPORT. Writes of PRT_CFG (R86, R87, R103): which of the six checks a word meets, and what a write that passes them and
one that is refused leave. -/

namespace Sys2Proof.Machine

open Sys2Proof

variable {s : State} {p : Nat} {w : Word} {rivals : List Nat} {cyc : Cyc}

/-! ### The lanes of a port to be formed -/

/-- Nothing holds of any of the `n` lanes from `p` on that holds of none of them. -/
theorem lanesFrom_any_eq_false {n : Nat} {f : Nat → Bool} (h : ∀ i < n, f (p + i) = false) :
    (lanesFrom p n).any f = false := by
  simpa [lanesFrom] using h

/-- The lanes of a port, 8 at most, by their place in it. -/
theorem forall_lt_width {P : Nat → Prop} (h : ∀ i : Fin 8, i.val < 2 ^ getF w 2 2 → P i.val) :
    ∀ i < 2 ^ getF w 2 2, P i := by
  intro i hi
  have hwidth : 2 ^ getF w 2 2 ≤ 2 ^ 3 := Nat.pow_le_pow_right (by decide) (Nat.lt_succ_iff.mp (getF_lt_two_pow w 2 2))
  exact h ⟨i, Nat.lt_of_lt_of_le hi hwidth⟩ hi

/-- The lanes that a word names lie together in the Chimney of port `p`, the first at a multiple of the width: check 1 of
R87. -/
def LanesFit (p : Nat) (w : Word) : Prop := p % 18 % 2 ^ getF w 2 2 = 0 ∧ p % 18 + 2 ^ getF w 2 2 ≤ 18

/-- A lane is in no port and no loopback, and no port of lower j is to take it: checks 2 and 5 of R87. -/
def State.laneFree (s : State) (rivals : List Nat) (g : Nat) : Prop :=
  s.portOfLane g = none ∧ s.rd F.lanLoopMode g = 0 ∧ g ∉ rivals

/-! ### The checks -/

/-- Disabling a port meets no check (R86). -/
theorem State.portCause_of_disable (hen : getF w 0 1 = 0) : s.portCause p w rivals = 0 := if_pos hen

theorem State.portCause_of_unfit (hen : getF w 0 1 = 1) (h : ¬ LanesFit p w) : s.portCause p w rivals = 1 := by
  have hlanes : p % 18 % 2 ^ getF w 2 2 ≠ 0 ∨ 18 < p % 18 + 2 ^ getF w 2 2 := by
    unfold LanesFit at h
    omega
  simp [State.portCause, hen, hlanes]

/-- Checks 2 to 5 hold of the lanes of a port to be formed (R87, R103): they are free, of the class that the port's kind
asks for, and of a width and a rate that a row of R89 or R102 has. -/
structure State.Forms (s : State) (p : Nat) (w : Word) (rivals : List Nat) : Prop where
  free : ∀ i < 2 ^ getF w 2 2, s.laneFree rivals (p + i)
  ethernet : getF w 1 1 ≠ 1 → (pcsRow (getF w 4 4)).map (·.1) = some (2 ^ getF w 2 2) ∧
    ∀ i < 2 ^ getF w 2 2, s.rd F.lanCtrlClass (p + i) = 0
  otn : getF w 1 1 = 1 → ∃ r, otnRow (s.rd F.otfCfgMode p) (2 ^ getF w 2 2) = some r ∧
    ∀ i < 2 ^ getF w 2 2, s.laneRate (p + i) = r ∧ otnClass (s.rd F.otfCfgMode p) = some (s.rd F.lanCtrlClass (p + i))

/-- A disabled port whose lanes fit and form it passes the six checks. -/
theorem State.portCause_of_forms (hoff : s.portOn p = false) (hfit : LanesFit p w) (h : s.Forms p w rivals) :
    s.portCause p w rivals = 0 := by
  obtain ⟨hmul, hend⟩ := hfit
  obtain ⟨hfree, heth, hotn⟩ := h
  unfold State.portCause
  extract_lets j width otn ls clash mode wrongClass wrongPcs looped changes
  have hclash : clash = false := lanesFrom_any_eq_false fun i hi => by
    obtain ⟨hport, -, hrival⟩ := hfree i hi
    simp [hport, hrival]
  have hlooped : looped = false := lanesFrom_any_eq_false fun i hi => by
    obtain ⟨-, hloop, -⟩ := hfree i hi
    simp [hloop]
  have hkinds : wrongClass = false ∧ wrongPcs = false := by
    by_cases hkind : getF w 1 1 = 1
    · obtain ⟨r, hrow, hlanes⟩ := hotn hkind
      have hrates : ls.any (fun g => decide (some (s.laneRate g) ≠ otnRow mode width)) = false :=
        lanesFrom_any_eq_false fun i hi => by simp [mode, width, hrow, (hlanes i hi).1]
      refine ⟨lanesFrom_any_eq_false fun i hi => by simp [otn, mode, hkind, (hlanes i hi).2], ?_⟩
      rw [show wrongPcs = _ from if_pos hkind, hrates, show otnRow mode width = some r from hrow]
      rfl
    · obtain ⟨hpcs, hclass⟩ := heth hkind
      exact ⟨lanesFrom_any_eq_false fun i hi => by simp [otn, hkind, hclass i hi],
        by simp [wrongPcs, otn, hkind, hpcs, width]⟩
  obtain ⟨hclass, hpcs⟩ := hkinds
  simp [hclash, hlooped, hclass, hpcs, hoff, j, width, hmul, Nat.not_lt.mpr hend]

theorem State.isMember_of_free (h : s.laneFree rivals p) : s.isMember p = false := by
  obtain ⟨hport, -, -⟩ := h
  simp [State.isMember, hport]

/-! ### What the write leaves -/

@[simp] theorem State.at_isMember (cyc : Cyc) (p : Nat) : (s.at cyc).isMember p = s.isMember p := rfl
@[simp] theorem State.at_portCause (cyc : Cyc) (p : Nat) (w : Word) (rivals : List Nat) :
    (s.at cyc).portCause p w rivals = s.portCause p w rivals := rfl
@[simp] theorem State.at_rivalLanes (cyc : Cyc) (p due : Nat) : (s.at cyc).rivalLanes p due = s.rivalLanes p due := rfl

/-- A write that passes the checks pends for the edge that it reaches, and writes no register (R86, R87). -/
theorem landPortCfg_pends (hm : s.isMember p = false) (hc : s.portCause p w (s.rivalLanes p (s.edgeFor cyc)) = 0) :
    s.pends ((s.at cyc).landPortCfg p w cyc).closed (keyOf F.prtCfgEnable p) (w &&& 0x1FF) cyc ∧
      s.regsBut ((s.at cyc).landPortCfg p w cyc).closed [] := by
  have hland : (s.at cyc).landPortCfg p w cyc = (s.at cyc).putCopy (keyOf F.prtCfgEnable p) (w &&& 0x1FF) cyc := by
    simp [State.landPortCfg, hm, hc]
  rw [hland]
  exact ⟨State.pends_putCopy rfl rfl rfl, State.closed_regsBut (State.putCopy_regsBut (s.at_regsBut cyc _))⟩

/-- A write that fails a check is refused as a whole, with the cause of the check (R87). -/
theorem landPortCfg_refused {c : Nat} (hm : s.isMember p = false)
    (hc : s.portCause p w (s.rivalLanes p (s.edgeFor cyc)) = c) (h0 : c ≠ 0) (hlt : c < 8) :
    ((s.at cyc).landPortCfg p w cyc).closed.rd F.prtStatCfgRejected p = 1 ∧
      ((s.at cyc).landPortCfg p w cyc).closed.rd F.prtStatRejectCause p = c ∧
      ((s.at cyc).landPortCfg p w cyc).closed.sched = s.sched ∧
      s.regsBut ((s.at cyc).landPortCfg p w cyc).closed [keyOf F.prtStatCfgRejected p] := by
  have hland : (s.at cyc).landPortCfg p w cyc = (s.at cyc).refusePort p c := by
    simp only [State.landPortCfg, State.at_isMember, hm, State.at_portCause, State.at_rivalLanes, State.at_edgeFor, hc]
    cases c
    case zero => exact absurd rfl h0
    case succ => rfl
  rw [hland, State.refusePort]
  refine ⟨?_, ?_, ?_, ?_⟩
  · rw [State.closed_rd, State.rd_wr_apart _ _ _ _ _ _ (by decide) (by decide), State.rd_wr_of_lt _ _ (by decide) (by decide)]
  · rw [State.closed_rd, State.rd_wr_of_lt _ _ (by decide) hlt]
  · simp
  · exact State.closed_regsBut (State.regsBut_wr _ (State.regsBut_wr _ (s.at_regsBut cyc _) List.mem_cons_self)
      List.mem_cons_self)

/-- The fields of PRT_CFG that a write of enable = 1 carries, and those of one of enable = 0 (R86, R87). -/
theorem portEnable_enable (cfg : BitVec 9) : getF ((cfg ||| 1).zeroExtend 32) 0 1 = 1 := by
  rw [show (cfg ||| 1).zeroExtend 32 = cfg.zeroExtend 32 ||| (1 : Word) from BitVec.setWidth_or]
  exact getF_or_of_one rfl

theorem portDisable_enable (cfg : BitVec 9) : getF ((cfg &&& 0x1FE).zeroExtend 32) 0 1 = 0 := by
  rw [show (cfg &&& 0x1FE).zeroExtend 32 = cfg.zeroExtend 32 &&& (0x1FE : Word) from BitVec.setWidth_and, getF_and]
  exact Nat.and_zero _

theorem portDisable_fits (cfg : BitVec 9) :
    (cfg &&& 0x1FE).zeroExtend 32 &&& (0x1FF : Word) = (cfg &&& 0x1FE).zeroExtend 32 := by
  rw [show (cfg &&& 0x1FE).zeroExtend 32 = cfg.zeroExtend 32 &&& (0x1FE : Word) from BitVec.setWidth_and,
    BitVec.and_assoc]
  rfl

theorem execPortEnable_of_ready {p : PortNo} {cfg : BitVec 9} (hr : s.ready .prt p = true) :
    execPortEnable p cfg cyc s = done ((s.at cyc).landPortCfg p ((cfg ||| 1).zeroExtend 32) cyc) :=
  congrArg done (State.gate_of_ready (by simpa using hr))

theorem execPortDisable_of_ready {p : PortNo} {cfg : BitVec 9} (hr : s.ready .prt p = true) :
    execPortDisable p cfg cyc s = done ((s.at cyc).landPortCfg p ((cfg &&& 0x1FE).zeroExtend 32) cyc) :=
  congrArg done (State.gate_of_ready (by simpa using hr))

end Sys2Proof.Machine
end

section
/-! SUPPORT. A port that comes up, and what judging a port leaves of its tag-failure window (R97, R98). -/

namespace Sys2Proof.Machine

open Sys2Proof

variable {s t u : State} {p q : Nat}

/-! ### Coming up (R97, R101) -/

/-- What a port keeps once it is up. -/
def PortRt.risen (r : PortRt) : PortRt := { r with up := true, wasUp := true, refusing := false }

/-- An Ethernet port whose edges without a defect that takes it down are enough comes up. -/
theorem State.raisePort_of_clean (hon : s.portOn p = true) (hdown : (s.port p).up = false) (heth : s.portOtn p = false)
    (hclean : max 1 (s.rd F.prtDownUpTicks p) ≤ (s.port p).cleanEdges) :
    s.raisePort p = s.modPort p PortRt.risen := by
  have hready : (s.portOn p && !(s.port p).up &&
      decide ((if s.portOtn p then 1 else max 1 (s.rd F.prtDownUpTicks p)) ≤ (s.port p).cleanEdges)) = true := by
    rw [hon, hdown, heth]
    exact decide_eq_true hclean
  exact onlyIf_of_true (f := fun u : State => u.modPort p PortRt.risen) hready

theorem State.wr_portOtn {f : Fld} (x i o : Nat) (hf : f.fits = true) (h : Fld.apart f F.prtCfgKind = true) :
    (s.wr f x i o).portOtn p = s.portOtn p := State.on_wr_apart s x i o p 0 hf h

/-- PRT_STAT.state of an enabled port with level `lvl` reported (R101). -/
def PortRt.shown (r : PortRt) (lvl : Nat) : Nat := if !r.wasUp then (if lvl = 1 then 1 else 2) else if r.up then 3 else 4

theorem PortRt.shown_lt (r : PortRt) (lvl : Nat) : r.shown lvl < 8 := by
  unfold PortRt.shown
  repeat' split
  all_goals decide

/-- What the port transmits by its state and the level reported (R97). -/
def State.lineShown (s : State) (p : Nat) : PortLine := portLineOf (s.port p).up (s.rd F.prtStatReported p)

/-- PRT_STAT.state shown. -/
def State.stateShown (s : State) (p : Nat) : State := s.wr F.prtStatState ((s.port p).shown (s.rd F.prtStatReported p)) p

/-- What a port transmits changed, and told. -/
def State.putLine (s : State) (p : Nat) (l : PortLine) : State :=
  (s.modPort p (fun r => { r with line := l })).emit (.portLine p l)

theorem State.showPort_eq : s.showPort p =
    onlyIf (!(s.stateShown p).portOtn p && decide (s.lineShown p ≠ (s.port p).line)) (fun s' => s'.putLine p (s.lineShown p))
      (s.stateShown p) := rfl

theorem State.stateShown_portOtn : (s.stateShown p).portOtn p = s.portOtn p :=
  State.wr_portOtn _ _ _ (by decide) (by decide)

theorem State.putLine_word (l : PortLine) (k : RegKey) : (s.putLine p l).word k = s.word k := rfl

theorem State.showPort_word (k : RegKey) : (s.showPort p).word k = (s.stateShown p).word k := by
  rw [State.showPort_eq]
  unfold onlyIf
  split
  · exact State.putLine_word _ k
  · rfl

theorem State.showPort_state : (s.showPort p).rd F.prtStatState p = (s.port p).shown (s.rd F.prtStatReported p) := by
  rw [State.rd, State.showPort_word]
  exact State.rd_wr_of_lt _ _ (by decide) (PortRt.shown_lt ..)

theorem State.showPort_regsBut : s.regsBut (s.showPort p) [keyOf F.prtStatState p] :=
  State.regsBut_of_word State.showPort_word (State.regsBut_wr _ (State.regsBut_refl _ _) List.mem_cons_self)

/-- An Ethernet port transmits what it shows (R97). -/
theorem State.showPort_port (heth : s.portOtn p = false) :
    (s.showPort p).port p = { s.port p with line := s.lineShown p } := by
  rw [State.showPort_eq, State.stateShown_portOtn, heth]
  by_cases hline : s.lineShown p = (s.port p).line
  · rw [onlyIf_of_false (by simp [hline]), hline]
    exact State.wr_port ..
  · rw [onlyIf_of_true (by simp [hline]), State.putLine, State.emit_port, State.modPort_port_self, State.stateShown,
      State.wr_port]

/-! ### What judging a port leaves of its window (R98) -/

/-- The window of port `p` in progress, what it has raised, and every other port are as before. -/
structure SameWindow (p : Nat) (s t : State) : Prop where
  sealAuth : (t.port p).sealAuth = (s.port p).sealAuth
  authCount : (t.port p).authCount = (s.port p).authCount
  authFrom : (t.port p).authFrom = (s.port p).authFrom
  others : ∀ q, q ≠ p → t.port q = s.port q

theorem SameWindow.trans (h : SameWindow p s t) (h' : SameWindow p t u) : SameWindow p s u :=
  ⟨h'.sealAuth.trans h.sealAuth, h'.authCount.trans h.authCount, h'.authFrom.trans h.authFrom,
    fun q hq => (h'.others q hq).trans (h.others q hq)⟩

/-- An operation that leaves every port. -/
theorem SameWindow.of_ports (h : t.ports = s.ports) : SameWindow p s t := by
  have hport (q : Nat) : t.port q = s.port q := congrArg (fun m => nget ({} : PortRt) m q) h
  exact ⟨by rw [hport], by rw [hport], by rw [hport], fun q _ => hport q⟩

theorem SameWindow.modPort {f : PortRt → PortRt} (hauth : ∀ r, (f r).sealAuth = r.sealAuth)
    (hcount : ∀ r, (f r).authCount = r.authCount) (hfrom : ∀ r, (f r).authFrom = r.authFrom) :
    SameWindow p s (s.modPort p f) := by
  refine ⟨?_, ?_, ?_, fun q hq => State.modPort_port_ne s f hq⟩ <;> rw [State.modPort_port_self]
  · exact hauth _
  · exact hcount _
  · exact hfrom _

theorem SameWindow.onlyIf {c : Bool} {f : State → State} (h : SameWindow p s (f s)) :
    SameWindow p s (onlyIf c f s) := by
  unfold Sys2Proof.onlyIf
  split
  · exact h
  · exact .of_ports rfl

theorem SameWindow.raisePort : SameWindow p s (s.raisePort p) :=
  SameWindow.onlyIf (f := fun s => s.modPort p PortRt.risen) (.modPort (fun _ => rfl) (fun _ => rfl) (fun _ => rfl))

theorem SameWindow.putLine (l : PortLine) : SameWindow p s (s.putLine p l) :=
  (SameWindow.modPort (f := fun r => { r with line := l }) (fun _ => rfl) (fun _ => rfl) (fun _ => rfl)).trans
    (.of_ports (State.emit_ports ..))

theorem SameWindow.showPort : SameWindow p s (s.showPort p) := by
  rw [State.showPort_eq]
  exact (SameWindow.of_ports (State.wr_ports ..)).trans (.onlyIf (.putLine _))

theorem SameWindow.judgePort {again : Bool} : SameWindow p s (s.judgePort p again) := by
  unfold State.judgePort
  refine (SameWindow.modPort ?_ ?_ ?_).trans (SameWindow.raisePort.trans .showPort)
  all_goals
    intro r
    split <;> rfl

/-- A window that is judged shows, and stays as it was judged (R98). -/
theorem SameWindow.authShown : SameWindow p s (s.authShown p) :=
  (SameWindow.of_ports (State.showDefects_keeps.frame .ports (by decide))).trans .judgePort

end Sys2Proof.Machine
end

section
/-! PROOF. The statement on the configuration of ports, on their coming up and on the tag-failure window. -/

namespace Sys2Proof.Machine

open Sys2Proof

/-- Settles O22: a write of PRT_CFG by the first check that it meets, a port that comes up and a window that ends by what they
make of the port. -/
theorem ports : Obligations.Ports := by
  unfold Obligations.Ports
  refine ⟨fun s p cfg cyc w hw hr => ⟨fun hoff hkind hmul hend hlanes hpcs => ?ethernet,
    fun hoff hkind hmul hend hlanes hrow => ?otn, fun hm hunfit => ?refused, fun hm => ?disabled⟩,
    fun s p => ⟨fun hon hdown heth hclean => ?up, fun hon hcipher hover => ?window⟩⟩
  case ethernet =>
    have hforms : s.Forms p w (s.rivalLanes p (s.edgeFor cyc)) :=
      { free := forall_lt_width fun i hi => by
          obtain ⟨hport, -, hloop, hrival⟩ := hlanes i hi
          exact ⟨hport, hloop, hrival⟩
        ethernet := fun _ => ⟨hpcs, forall_lt_width fun i hi => by
          obtain ⟨-, hclass, -⟩ := hlanes i hi
          exact hclass⟩
        otn := fun h => absurd (hkind.symm.trans h) (by decide) }
    have hm : s.isMember p = false := State.isMember_of_free (hforms.free 0 (Nat.two_pow_pos _))
    subst hw
    exact runs_of_done (execPortEnable_of_ready hr)
      (landPortCfg_pends hm (State.portCause_of_forms hoff ⟨hmul, hend⟩ hforms))
  case otn =>
    obtain ⟨r, hrow, hrate⟩ := hrow
    have hforms : s.Forms p w (s.rivalLanes p (s.edgeFor cyc)) :=
      { free := forall_lt_width fun i hi => by
          obtain ⟨hport, -, hloop, hrival⟩ := hlanes i hi
          exact ⟨hport, hloop, hrival⟩
        ethernet := fun h => absurd hkind h
        otn := fun _ => ⟨r, hrow, forall_lt_width fun i hi => by
          obtain ⟨-, hclass, -⟩ := hlanes i hi
          exact ⟨hrate i hi, hclass.symm⟩⟩ }
    have hm : s.isMember p = false := State.isMember_of_free (hforms.free 0 (Nat.two_pow_pos _))
    subst hw
    exact runs_of_done (execPortEnable_of_ready hr)
      (landPortCfg_pends hm (State.portCause_of_forms hoff ⟨hmul, hend⟩ hforms))
  case refused =>
    have hfit : ¬ LanesFit p w := by
      unfold LanesFit
      omega
    subst hw
    exact runs_of_done (execPortEnable_of_ready hr)
      (landPortCfg_refused hm (State.portCause_of_unfit (portEnable_enable cfg) hfit) (by decide) (by decide))
  case disabled =>
    have hpends := landPortCfg_pends (cyc := cyc) hm (State.portCause_of_disable (portDisable_enable cfg))
    rw [portDisable_fits] at hpends
    exact runs_of_done (execPortDisable_of_ready hr) hpends
  case up =>
    have hexec : exec (.portUp p) s = done ((s.modPort p PortRt.risen).showPort p) := by
      rw [← State.raisePort_of_clean hon hdown heth hclean]
      exact congrArg done (onlyIf_of_true (by simp [hon, hdown]))
    have hkind : (s.modPort p PortRt.risen).portOtn p = false := heth
    have hline : (s.modPort p PortRt.risen).lineShown p = portLineOf true (s.rd F.prtStatReported p) := by
      rw [State.lineShown, State.modPort_port_self, State.modPort_rd]
      rfl
    refine runs_of_done hexec ⟨?_, ?_, ?_, ?_⟩
    · rw [State.closed_port, State.showPort_port hkind, State.modPort_port_self]
      rfl
    · rw [State.closed_port, State.showPort_port hkind]
      exact hline
    · rw [State.closed_rd, State.showPort_state, State.modPort_port_self]
      rfl
    · exact State.closed_regsBut (State.regsBut_trans (State.regsBut_of_word (State.modPort_word _ _ _)
        (State.regsBut_refl _ _)) State.showPort_regsBut)
  case window =>
    have hauth : s.authOver p = true := by simp [State.authOver, hon, hcipher, hover]
    have hexec : exec (.authWindowEnd p) s = done ((s.judgeAuth p).authShown p) := congrArg done (onlyIf_of_true hauth)
    obtain ⟨hsealed, hcount, hfrom, hothers⟩ := SameWindow.authShown (s := s.judgeAuth p) (p := p)
    refine runs_of_done hexec ⟨?_, ?_, fun hreached => ?_, fun hnone => ?_, fun q hq => ?_⟩ <;> rw [State.closed_port]
    · rw [hcount, State.judgeAuth, State.modPort_port_self]
    · rw [hfrom, State.judgeAuth, State.modPort_port_self]
    · rw [hsealed, State.judgeAuth, State.modPort_port_self]
      exact if_pos hreached
    · have hbelow : ¬ (s.authLimits p).1 ≤ (s.port p).authCount := by
        unfold State.authLimits
        split <;> simp [hnone]
      rw [hsealed, State.judgeAuth, State.modPort_port_self]
      exact (if_neg hbelow).trans (if_pos hnone)
    · rw [hothers q (Fin.val_ne_of_ne hq), State.judgeAuth, State.modPort_port_ne s _ (Fin.val_ne_of_ne hq)]

end Sys2Proof.Machine
end

section
/-! SUPPORT. Frames that are dropped on their way in (R93, R152, R153, R210 to R212, R321): of the state, each drop changes the
reporting channels alone. -/

namespace Sys2Proof.Machine

open Sys2Proof

variable {s u : State} {f : RxFrame} {cyc : Cyc} {a : Nat}

/-! ### Operations that change the reporting channels alone -/

theorem Keeps.rd_of_rep (h : Keeps (mask [.rep]) s u) (f : Fld) (i o : Nat) : u.rd f i o = s.rd f i o :=
  h.rd f i o (by simp)

theorem Keeps.count (s : State) (p : Page) (i sel n : Nat) : Keeps (mask [.rep]) s (s.count p i sel n) := State.count_keeps

/-- A command that lands and changes the reporting channels alone leaves every table and every register. -/
theorem Keeps.closed_of_rep (h : Keeps (mask [.rep]) (s.at cyc) u) :
    u.closed.hearth = s.hearth ∧ u.closed.assocs = s.assocs ∧ u.closed.fwd = s.fwd ∧ u.closed.chims = s.chims ∧
      s.regsBut u.closed [] := by
  refine ⟨?_, ?_, ?_, ?_, State.closed_regsBut fun k _ => ?_⟩
  · exact (State.closed_hearth u).trans (h.frame .hearth (by decide))
  · exact (State.closed_assocs u).trans (h.frame .assocs (by decide))
  · exact (State.closed_fwd u).trans (h.frame .fwd (by decide))
  · exact (State.closed_chims u).trans (h.frame .chims (by decide))
  · exact (h.word (by simp)).trans (State.at_word s cyc k)

/-- The tables by which a frame is judged do not depend on the reporting channels (R127). -/
theorem Keeps.atFirst_rd (h : Keeps (mask [.rep]) s u) (fld : Fld) (i o : Nat) :
    (u.atFirst f).rd fld i o = (s.atFirst f).rd fld i o := by
  have hcycle : u.cycle = s.cycle := h.frame .cycle (by decide)
  have hfwd : u.fwd = s.fwd := h.frame .fwd (by decide)
  unfold State.atFirst
  rw [hcycle]
  split
  · exact h.rd_of_rep fld i o
  · simp only [State.rd, State.word, hfwd]

theorem Keeps.atFirst_bypassFor (h : Keeps (mask [.rep]) s u) (p : Nat) (bs : List Byte) :
    (u.atFirst f).bypassFor p bs = (s.atFirst f).bypassFor p bs := by
  simp only [State.bypassFor, h.atFirst_rd]

theorem Keeps.admitting (h : Keeps (mask [.rep]) s u) : u.admitting = s.admitting := by
  have hpwr : u.pwr = s.pwr := h.frame .pwr (by decide)
  have hpair : u.pair = s.pair := h.frame .pair (by decide)
  have hmode : u.effMode = s.effMode := by
    have hnow : u.mode = s.mode := h.rd_of_rep ..
    rw [State.effMode, hnow, h.rd_of_rep]
    rfl
  simp only [State.admitting, State.sealing, State.admits, hmode, hpwr, hpair]

theorem Keeps.asn (h : Keeps (mask [.rep]) s u) (a : Nat) : u.asn a = s.asn a :=
  congrArg (fun t : AsnTable => t.get a) (h.frame .assocs (by decide))

theorem Keeps.sciLookup (h : Keeps (mask [.rep]) s u) (p sci : Nat) : u.sciLookup p sci = s.sciLookup p sci := by
  have hassocs : u.assocs = s.assocs := h.frame .assocs (by decide)
  simp only [State.sciLookup, hassocs]

/-! ### The MAC (R93, R97, R233) -/

/-- A frame of a port that is off, one marked in error or with a wrong FCS, and one too short or too long is discarded (R93). -/
theorem State.receive_of_bad (h : s.portOn f.port = false ∨ f.errMark = true ∨ fcsGood f.bytes = false ∨
    f.bytes.length < 64 ∨ s.maxFrame f.port < f.bytes.length) : Keeps (mask [.rep]) s (s.receive f) := by
  unfold State.receive
  extract_lets p n lvl kindle counted
  split
  · exact Keeps.refl _
  next hon =>
  split
  · exact Keeps.count ..
  next hmark =>
  split
  · exact Keeps.count ..
  next hshort =>
  split
  · exact Keeps.count ..
  next hlong =>
  rcases h with h | h | h | h | h
  · exact absurd (show _ = true by simp [p, h]) hon
  · exact absurd (show _ = true by simp [h]) hmark
  · exact absurd (show _ = true by simp [h]) hmark
  · exact absurd h hshort
  · exact absurd h hlong

/-- A frame that its MAC passes on, counted where it goes to admission (R100, R233). -/
def State.passedOn (s : State) (f : RxFrame) : State :=
  onlyIf (!(s.portCipher f.port && !hasEtherType f.bytes macsecType && decide (beAt f.bytes 12 2 = s.rd F.kdlCtlEtype)))
    (fun s => (s.count .prt f.port 1).count .prt f.port 2 f.bytes.length) s

theorem State.passedOn_keeps : Keeps (mask [.rep]) s (s.passedOn f) :=
  Keeps.onlyIf (fun _ => (Keeps.count ..).trans (Keeps.count ..)) (Keeps.refl _)

theorem State.passedOn_portCipher (p : Nat) : (s.passedOn f).portCipher p = s.portCipher p := by
  simp only [State.portCipher, State.on, State.passedOn_keeps.rd_of_rep]

/-- The side of the port decides what becomes of a frame that its MAC passes on (R93). -/
theorem State.receive_of_takes (h : s.macTakes f) :
    s.receive f = if s.portCipher f.port then (s.passedOn f).cipherFrame f else (s.passedOn f).clearFrame f := by
  obtain ⟨hon, hotn, hshed, hlvl, hmark, hfcs, hshort, hlong, hpause⟩ := h
  rw [← State.passedOn_portCipher (f := f)]
  unfold State.receive
  extract_lets p n lvl kindle counted
  rw [if_neg (by simp [p, lvl, hon, hotn, hshed, hlvl]), if_neg (by simp [hmark, hfcs]), if_neg (Nat.not_lt.mpr hshort),
    if_neg (Nat.not_lt.mpr hlong), if_neg hpause]
  rfl

theorem execFrameReceived_of_cipher (htakes : s.macTakes f) (hside : s.portCipher f.port = true) :
    execFrameReceived f cyc s = done (((s.at cyc).passedOn f).cipherFrame f) :=
  congrArg done ((State.receive_of_takes (s := s.at cyc) htakes).trans (if_pos hside))

theorem execFrameReceived_of_clear (htakes : s.macTakes f) (hside : s.portCipher f.port = false) :
    execFrameReceived f cyc s = done (((s.at cyc).passedOn f).clearFrame f) :=
  congrArg done ((State.receive_of_takes (s := s.at cyc) htakes).trans (if_neg (Bool.eq_false_iff.mp hside)))

/-! ### Clear-side frames (R128, R152, R153, R321) -/

/-- A frame of a port in point-to-point mode that no bypass entry matches goes to its port's association (R128). -/
theorem State.clearFrame_of_pointToPoint (hbyp : (s.atFirst f).bypassFor f.port f.bytes = none)
    (hmode : (s.atFirst f).rd (F.fwdPmapMode.at f.port) = 1) :
    s.clearFrame f = s.sealOn f ((s.atFirst f).rd (F.fwdPmapP2pAssoc.at f.port)) := by
  have hclass : s.classify (s.atFirst f) f.port f.bytes =
      (s, some ((s.atFirst f).rd (F.fwdPmapP2pAssoc.at f.port))) := by
    unfold State.classify
    rw [hmode]
    rfl
  unfold State.clearFrame
  dsimp only
  rw [hbyp, ite_self, hclass]

/-- Nothing is sealed on an association that is neither LIVE nor ROLLING, nor while admission is stopped (R152), and one at
its hard limit assigns no number (R153, R321). -/
theorem State.sealOn_of_refused (h : (s.asn a).state ≠ .live ∧ (s.asn a).state ≠ .rolling ∨ s.admitting = false ∨
    (s.asn a).hardLimit ≤ (s.asn a).nextPn) : Keeps (mask [.rep]) s (s.sealOn f a) := by
  unfold State.sealOn
  extract_lets p l e seals
  split
  · exact Keeps.count ..
  next hseals =>
  have hlimit : (s.asn a).hardLimit ≤ (s.asn a).nextPn := by
    rcases h with ⟨hlive, hrolling⟩ | hstop | hlimit
    · exact absurd (show _ = true by simp [seals, e, hlive, hrolling]) hseals
    · exact absurd (show _ = true by simp [hstop]) hseals
    · exact hlimit
  split
  · exact Keeps.refl _
  split
  next u hadmit => exact KeepsP.of_eq hadmit State.admitQueue_keeps
  next u pl hadmit =>
  have hu : Keeps (mask [.rep]) s u := KeepsP.of_eq hadmit State.admitQueue_keeps
  split
  next v hcredit => exact hu.trans (KeepsP.of_eq hcredit State.creditCheck_keeps)
  next v hcredit =>
  have hv : Keeps (mask [.rep]) s v := hu.trans (KeepsP.of_eq hcredit State.creditCheck_keeps)
  have hrefused : v.pnCheck a = (v.count .asn 0 7, false) := by
    rw [State.pnCheck, hv.asn, if_pos hlimit]
  rw [hrefused]
  exact hv.trans (Keeps.count ..)

/-! ### Cipher-side frames (R210 to R212) -/

variable {f : RxFrame}

/-- A frame of no sealed, KDL or bypass type (R210). -/
theorem State.cipherFrame_of_plain (hsec : hasEtherType f.bytes macsecType = false)
    (hkdl : hasEtherType f.bytes (s.rd F.kdlCtlEtype) = false) (hbyp : (s.atFirst f).bypassFor f.port f.bytes = none) :
    s.cipherFrame f = (s.count .sea f.port 5).event F.seaEvtNonsealedDrop f.port := by
  have htype : ¬ beAt f.bytes 12 2 = s.rd F.kdlCtlEtype := fun h => by simp [hasEtherType, h] at hkdl
  unfold State.cipherFrame
  dsimp only
  rw [if_neg (by simp [hsec]), if_neg htype, hbyp, ite_self]

theorem State.cipherFrame_of_sealed (hsec : hasEtherType f.bytes macsecType = true) :
    s.cipherFrame f = s.sealedFrame f := if_pos hsec

/-- A sealed frame of bad format (R211). -/
theorem State.sealedFrame_of_bad (h : secFormatBad (secIn f.bytes) f.bytes = true) :
    s.sealedFrame f = (s.count .sea f.port 1).formatError f.port := if_pos h

/-- A sealed frame of an SCI that no entry of the port has (R212). -/
theorem State.sealedFrame_of_unknown (hgood : secFormatBad (secIn f.bytes) f.bytes = false)
    (h : s.sciLookup f.port (secIn f.bytes).sci = none) :
    s.sealedFrame f = ((s.count .sea f.port 1).count .sea f.port 3).event F.seaEvtUnknownSci f.port := by
  have hlookup : (s.count .sea f.port 1).sciLookup f.port (secIn f.bytes).sci = none :=
    ((Keeps.count ..).sciLookup _ _).trans h
  unfold State.sealedFrame
  dsimp only
  rw [if_neg (by simp [hgood]), hlookup]

end Sys2Proof.Machine
end

section
/-! PROOF. The statement on frames that are dropped. -/

namespace Sys2Proof.Machine

open Sys2Proof

variable {s u : State} {f : RxFrame} {cyc : Cyc}

theorem settledWords_page : ∀ k ∈ settledWords, k.page ≠ .sea := by decide

/-- A drop with an event of the seal block: told, and no more. -/
theorem frameReceived_tells {fld : Fld} (hexec : exec (.frameReceived f cyc) s = done (u.event fld f.port))
    (hu : Keeps (mask [.rep]) (s.at cyc) u) (hfits : fld.fits = true) (hbit : fld.w = 1) (hpage : fld.page = .sea) :
    Runs (.frameReceived f cyc) s (fun t => t.hearth = s.hearth ∧ t.assocs = s.assocs ∧ t.evt fld f.port = 1 ∧
      s.regsBut t []) := by
  obtain ⟨hhearth, hassocs, -, -, hregs⟩ := Keeps.closed_of_rep (hu.trans State.event_keeps)
  refine runs_of_done hexec ⟨hhearth, hassocs, ?_, hregs⟩
  rw [State.closed_evt _ _ _ fun h => settledWords_page _ h hpage, State.event_evt_self _ _ hfits hbit]

/-- Settles O23: each drop by the check that the frame fails, which leaves all but the reporting channels. -/
theorem framesDropped : Obligations.FramesDropped := by
  unfold Obligations.FramesDropped
  refine ⟨fun s f cyc hbad => ?mac, fun s f cyc v hv a htakes hside hbyp hmode ha hrefused => ?clear,
    fun s f cyc htakes hside => ?cipher⟩
  case mac => exact runs_of_done rfl (State.receive_of_bad (s := s.at cyc) hbad).closed_of_rep
  case clear =>
    have hpassed : Keeps (mask [.rep]) (s.at cyc) ((s.at cyc).passedOn f) := State.passedOn_keeps
    subst hv ha
    rw [← hpassed.atFirst_rd] at hmode hrefused
    rw [← hpassed.atFirst_bypassFor] at hbyp
    have hexec := execFrameReceived_of_clear (cyc := cyc) htakes hside
    rw [State.clearFrame_of_pointToPoint hbyp hmode] at hexec
    have hkeeps := hpassed.trans (State.sealOn_of_refused (f := f) (by rwa [hpassed.asn, hpassed.admitting]))
    obtain ⟨hhearth, hassocs, -, -, hregs⟩ := hkeeps.closed_of_rep
    exact runs_of_done hexec ⟨hhearth, hassocs, hregs⟩
  case cipher =>
    have hpassed : Keeps (mask [.rep]) (s.at cyc) ((s.at cyc).passedOn f) := State.passedOn_keeps
    have hexec := execFrameReceived_of_cipher (cyc := cyc) htakes hside
    refine ⟨fun hsec hkdl hbyp => ?plain, fun hsec hbad => ?format, fun hsec hgood hsci => ?unknown⟩
    case plain =>
      rw [State.cipherFrame_of_plain hsec (by rwa [hpassed.rd_of_rep]) (by rwa [hpassed.atFirst_bypassFor])] at hexec
      exact frameReceived_tells hexec (hpassed.trans (Keeps.count ..)) (by decide) rfl rfl
    case format =>
      rw [State.cipherFrame_of_sealed hsec, State.sealedFrame_of_bad hbad] at hexec
      exact frameReceived_tells hexec (hpassed.trans ((Keeps.count ..).trans (Keeps.count ..))) (by decide) rfl rfl
    case unknown =>
      rw [State.cipherFrame_of_sealed hsec, State.sealedFrame_of_unknown hgood (by rwa [hpassed.sciLookup])] at hexec
      exact frameReceived_tells hexec (hpassed.trans ((Keeps.count ..).trans (Keeps.count ..))) (by decide) rfl rfl

end Sys2Proof.Machine
end

section
/-! SUPPORT. What the operations of the scheduler and of the flushes leave of the frames, groups and cells that the Hearth holds
(R326, R327, R331 to R333). -/

namespace Sys2Proof.Machine

open Sys2Proof

variable {s t u : State}

/-! ### What the Hearth holds -/

/-- The frames, the groups, the cells to be zeroed and the flushes of the Hearth are as before: of the Hearth, only credits,
deficits, rounds and counts may have changed. -/
structure SameHeld (s t : State) : Prop where
  frames : t.hearth.frames = s.hearth.frames
  groups : t.hearth.groups = s.hearth.groups
  zeroing : t.hearth.zeroing = s.hearth.zeroing
  flushes : t.hearth.flushes = s.hearth.flushes

theorem SameHeld.refl (s : State) : SameHeld s s := ⟨rfl, rfl, rfl, rfl⟩

theorem SameHeld.trans (h : SameHeld s t) (h' : SameHeld t u) : SameHeld s u :=
  ⟨h'.frames.trans h.frames, h'.groups.trans h.groups, h'.zeroing.trans h.zeroing, h'.flushes.trans h.flushes⟩

theorem SameHeld.of_hearth (h : t.hearth = s.hearth) : SameHeld s t := ⟨by rw [h], by rw [h], by rw [h], by rw [h]⟩

theorem SameHeld.count (s : State) (p : Page) (i sel n : Nat) : SameHeld s (s.count p i sel n) :=
  .of_hearth (State.count_hearth ..)

theorem SameHeld.onlyIf {c : Bool} {f : State → State} (h : SameHeld s (f s)) : SameHeld s (onlyIf c f s) := by
  unfold Sys2Proof.onlyIf
  split
  · exact h
  · exact .refl s

theorem SameHeld.forL {α : Type} {f : α → State → State} (h : ∀ a s, SameHeld s (f a s)) (l : List α) :
    ∀ s, SameHeld s (forL l f s) := by
  induction l with
  | nil => exact .refl
  | cons a l ih => exact fun s => (h a s).trans (ih _)

/-! ### Credits and deficits -/

theorem SameHeld.payDeficit (s : State) (k n : Nat) : SameHeld s (s.payDeficit k n) := ⟨rfl, rfl, rfl, rfl⟩

theorem SameHeld.addQuantum (s : State) (k : Nat) : SameHeld s (s.addQuantum k) := ⟨rfl, rfl, rfl, rfl⟩

theorem SameHeld.chargeNode (s : State) (k n : Nat) : SameHeld s (s.chargeNode k n) := by
  unfold State.chargeNode
  split
  · exact .refl s
  · exact SameHeld.trans (t := s.modHearth _) ⟨rfl, rfl, rfl, rfl⟩ (.onlyIf (.count ..))

theorem SameHeld.emptied (s : State) (q : Nat) : SameHeld s (s.emptied q) := by
  have hzero (k : Nat) (u : State) : SameHeld u (u.modHearth (fun h => { h with deficit := nset 0 h.deficit k 0 })) :=
    ⟨rfl, rfl, rfl, rfl⟩
  unfold State.emptied
  extract_lets sv zero first
  have hfirst : SameHeld s first := .onlyIf (hzero _ _)
  exact hfirst.trans (.onlyIf (hzero _ _))

/-! ### The scheduler's pick (R331, R333) -/

theorem SameHeld.drrRound {fuel : Nat} {cs : List Child} {c : Child} (h : drrRound fuel cs s = some (c, t)) :
    SameHeld s t := by
  induction fuel generalizing cs s with
  | zero => cases h
  | succ fuel ih =>
    cases cs with
    | nil => cases h
    | cons d ds =>
      unfold Machine.drrRound at h
      extract_lets deficit next u at h
      have hu : SameHeld s u := by
        unfold u
        clear_value next
        split
        · exact .addQuantum ..
        · exact .refl _
      split at h
      · cases h
        exact .refl _
      · exact hu.trans (ih h)

theorem SameHeld.pickChild {parent prio : Nat} {cs : List Child} {c : Child} (h : s.pickChild parent cs prio = some (c, t)) :
    SameHeld s t := by
  unfold State.pickChild at h
  extract_lets l turn l' u at h
  have hu : SameHeld s u := by
    unfold u
    split
    · exact .onlyIf (.addQuantum ..)
    · exact .refl s
  split at h
  next d v hround =>
    cases h
    exact (hu.trans (.drrRound hround)).trans ⟨rfl, rfl, rfl, rfl⟩
  next => cases h

theorem SameHeld.choose {parent : Nat} {cs : List Child} {c : Child} (h : s.choose parent cs = some (c, t)) :
    SameHeld s t := by
  unfold State.choose at h
  split at h <;> exact .pickChild h

/-- Picking a frame moves the rounds on and removes nothing. -/
theorem SameHeld.pickFrame {p : Nat} {f : HFrame} (h : s.pickFrame p = some (f, t)) : SameHeld s t := by
  unfold State.pickFrame at h
  extract_lets qs svcs offers at h
  split at h
  · cases h
  split at h
  · cases h
  next sv u hport =>
  extract_lets n cs at h
  split at h
  next c v hsvc =>
    cases h
    exact (SameHeld.choose hport).trans (.choose hsvc)
  next => cases h

/-! ### A frame that leaves, a frame that is lost -/

theorem State.dropFrame_frames (id : Nat) :
    (s.dropFrame id).hearth.frames = s.hearth.frames.filter (fun x => decide (x.id ≠ id)) := rfl

theorem State.dropFrame_groups (id : Nat) : (s.dropFrame id).hearth.groups = s.hearth.groups := rfl

/-- A frame that has left is removed, and no group is. -/
theorem State.sentFrame_held (f : HFrame) (p : Nat) :
    (s.sentFrame f p).hearth.frames = s.hearth.frames.filter (fun x => decide (x.id ≠ f.id)) ∧
      (s.sentFrame f p).hearth.groups = s.hearth.groups := by
  unfold State.sentFrame
  extract_lets n b sv charged removed
  have hcharged : SameHeld s charged := ((SameHeld.chargeNode ..).trans (.chargeNode ..)).trans (.chargeNode ..)
  have hremoved : SameHeld (charged.dropFrame f.id) removed :=
    ((SameHeld.payDeficit ..).trans (.payDeficit ..)).trans (.emptied ..)
  have hall : SameHeld (charged.dropFrame f.id) ((removed.count .sch 0 1).count .sch 0 2 b) :=
    hremoved.trans ((SameHeld.count ..).trans (.count ..))
  clear_value charged removed
  exact ⟨by rw [hall.frames, State.dropFrame_frames, hcharged.frames],
    by rw [hall.groups, State.dropFrame_groups, hcharged.groups]⟩

theorem State.zeroCells_frames (n : Nat) : (s.zeroCells n).hearth.frames = s.hearth.frames := by
  unfold State.zeroCells onlyIf
  split <;> rfl

theorem State.zeroCells_zeroing {n : Nat} (h : n ≠ 0) :
    (s.zeroCells n).hearth.zeroing = s.hearth.zeroing ++ [(n, s.tick + 1)] := by
  rw [State.zeroCells, onlyIf_of_true (decide_eq_true h)]
  rfl

/-- A lost frame is removed (R190). -/
theorem State.loseFrame_frames (f : HFrame) :
    (s.loseFrame f).hearth.frames = s.hearth.frames.filter (fun x => decide (x.id ≠ f.id)) := by
  rw [State.loseFrame, (SameHeld.emptied ..).frames, State.zeroCells_frames, State.dropFrame_frames]

/-- The cells of a lost frame are to be zeroed within a tick (R326). -/
theorem State.mem_loseFrame_zeroing {f : HFrame} (h : f.cells ≠ 0) :
    (f.cells, s.tick + 1) ∈ (s.loseFrame f).hearth.zeroing := by
  rw [State.loseFrame, (SameHeld.emptied ..).zeroing, State.zeroCells_zeroing h]
  exact List.mem_append_right _ (List.mem_singleton_self _)

/-! ### Flushes (R327) -/

/-- A flush removes the frames of its queues, and its cells are those that they and the released groups held on die. -/
theorem State.flushQueues_held (sel : Nat → Bool) (q : Nat) :
    (s.flushQueues sel q).hearth.frames = s.hearth.frames.filter (fun f => !sel f.queue) ∧
      (s.flushQueues sel q).hearth.flushes = s.hearth.flushes ++ [{ queue := q, left :=
        (((s.hearth.frames.filter (fun f => sel f.queue)).filter HFrame.here).map (·.cells)).sum +
          ((s.hearth.groups.filter (fun g => sel g.queue && g.released)).map (·.cells)).sum }] := by
  unfold State.flushQueues
  extract_lets gone groups cells counted flushed
  have hcounted : SameHeld s counted := .count ..
  have hemptied := SameHeld.forL (f := fun q s => State.emptied s q) (fun q s => .emptied s q) (gone.map (·.queue)).eraseDups flushed
  have hframes : flushed.hearth.frames = counted.hearth.frames.filter (fun f => !sel f.queue) := rfl
  have hflushes : flushed.hearth.flushes = counted.hearth.flushes ++ [{ queue := q, left := cells }] := rfl
  exact ⟨by rw [hemptied.frames, hframes, hcounted.frames], by rw [hemptied.flushes, hflushes, hcounted.flushes]⟩

end Sys2Proof.Machine
end

section
/-! SUPPORT. A frame that leaves (R92, R328, R331, R421), and the commands of the flushes, the spill engine and the group counter. -/

namespace Sys2Proof.Machine

open Sys2Proof

variable {s u : State} {f : HFrame} {p : Nat}

/-! ### Bytes -/

theorem overwrite_length (bs : List Byte) (i : Nat) (new : List Byte) : (overwrite bs i new).length = bs.length := by
  simp only [overwrite, List.length_take, List.length_append, List.length_drop]
  omega

theorem leBytes_length (n v : Nat) : (leBytes n v).length = n := by
  induction n generalizing v with
  | zero => rfl
  | succ n ih => exact congrArg (· + 1) (ih _)

/-- A frame whose FCS is computed anew keeps its length. -/
theorem withFcs_take_length {bs : List Byte} (h : 4 ≤ bs.length) : (withFcs (bs.take (bs.length - 4))).length = bs.length := by
  simp only [withFcs, fcsOf, List.length_append, List.length_take, leBytes_length]
  omega

theorem beNat_replicate_zero (n : Nat) : beNat (List.replicate n 0) = 0 := by
  unfold beNat
  induction n with
  | zero => rfl
  | succ n ih => exact ih

/-- Past the end of a frame there is nothing but zero. -/
theorem beAt_of_length_le {bs : List Byte} {i : Nat} (n : Nat) (h : bs.length ≤ i) : beAt bs i n = 0 := by
  rw [beAt, slice, List.drop_eq_nil_of_le h, List.take_nil]
  exact beNat_replicate_zero n

/-! ### The correction of a PTP message (R421) -/

/-- A frame that carries a PTP message holds an EtherType. -/
theorem lt_length_of_ptpCorrected {bs : List Byte} (h : ptpCorrected bs ≠ none) : 12 < bs.length := by
  refine Nat.lt_of_not_le fun hshort => h ?_
  have hat : ptpAt bs = none := by simp [ptpAt, isTagged, beAt_of_length_le 2 hshort]
  rw [ptpCorrected, hat]

theorem State.ptpCorrect_bytes_of_idle (h : s.ptpMode p = 0 ∨ f.kind = .sealed) : (s.ptpCorrect p f).2 = f.bytes := by
  unfold State.ptpCorrect
  extract_lets bs mode
  split
  · rfl
  · rw [if_pos h.symm]

/-- The correction of a PTP message changes no frame's length. -/
theorem State.ptpCorrect_length : (s.ptpCorrect p f).2.length = f.bytes.length := by
  unfold State.ptpCorrect
  dsimp only
  split
  · rfl
  next o hptp =>
  split
  · rfl
  split
  · rfl
  have hlong : 12 < f.bytes.length := lt_length_of_ptpCorrected (by simp [hptp])
  rw [withFcs_take_length] <;> split <;> simp only [overwrite_length] <;> omega

/-! ### Sending (R92, R328, R331) -/

/-- The events of an uncorrectable word found as a frame is read (R328). -/
def State.noteBank (s : State) : Option (Fin 512) → State
  | some b => ((s.count .hrt 0 11).hrtEvent F.hrtEvtUncorrectable 0).sramError .hrt 0 b.val
  | none => s

theorem State.noteBank_keeps (bank : Option (Fin 512)) : Keeps (mask [.rep, .page .flt]) s (s.noteBank bank) := by
  cases bank with
  | none => exact Keeps.refl _
  | some b =>
    exact (((Keeps.count ..).trans State.hrtEvent_keeps).mono (by rfl)).trans State.sramError_keeps

/-- The frame that is picked leaves, unless its port stands on the side it was received on (R129, R331). -/
theorem execFrameSend_of_pick {p : PortNo} {bank : Option (Fin 512)} {cyc : Cyc} (hsends : s.portSends p = true)
    (hpick : (s.at cyc).pickFrame p = some (f, u)) (hside : f.cipher ≠ u.portCipher p) :
    execFrameSend p bank cyc s =
      done ((((u.ptpCorrect p f).1.sentFrame f p).noteBank bank).macSend p (u.ptpCorrect p f).2 bank.isSome) := by
  have hat : (s.at cyc).portSends p = true := hsends
  unfold execFrameSend
  dsimp only
  rw [if_pos hat, hpick]
  dsimp only
  rw [if_neg hside]
  cases bank <;> rfl

theorem execFrameSend_of_same_side {p : PortNo} {bank : Option (Fin 512)} {cyc : Cyc} (hsends : s.portSends p = true)
    (hpick : (s.at cyc).pickFrame p = some (f, u)) (hside : f.cipher = u.portCipher p) :
    execFrameSend p bank cyc s = done (u.loseFrame f) := by
  have hat : (s.at cyc).portSends p = true := hsends
  unfold execFrameSend
  dsimp only
  rw [if_pos hat, hpick]
  dsimp only
  rw [if_pos hside]

theorem execFrameSend_of_silent {p : PortNo} {bank : Option (Fin 512)} {cyc : Cyc} (hsends : s.portSends p = false) :
    execFrameSend p bank cyc s = done (s.at cyc) := by
  have hat : ¬ (s.at cyc).portSends p = true := Bool.eq_false_iff.mp hsends
  unfold execFrameSend
  dsimp only
  rw [if_neg hat]

/-- The MAC sends the frame after its preamble, and the deficit idle count is that of its gap (R92). -/
theorem State.macSend_sends (bs : List Byte) (bad : Bool) (hout : u.out = s.out) (hdic : (u.port p).dic = (s.port p).dic) :
    s.sends (u.macSend p bs bad).closed
        (.frame p (List.replicate 7 0x55 ++ [0xD5] ++ bs) (gapAfter (s.port p).dic bs.length).1 bad) ∧
      ((u.macSend p bs bad).closed.port p).dic = (gapAfter (s.port p).dic bs.length).2 := by
  have hpreamble : beBytes 8 0x55555555555555D5 = List.replicate 7 0x55 ++ [0xD5] := by decide
  unfold State.macSend
  dsimp only
  rw [hpreamble, hdic]
  refine ⟨State.sends_emit _ ?_, ?_⟩
  · simp [hout]
  · rw [State.closed_port, State.emit_port, State.modPort_port_self]

theorem State.macSend_hearth (bs : List Byte) (bad : Bool) : (u.macSend p bs bad).hearth = u.hearth :=
  State.macSend_keeps.frame .hearth (by decide)

/-! ### Flushes, the spill engine and the group counter (R97, R227, R327, R329) -/

/-- A command that changes the Hearth and the reporting channels writes no register. -/
theorem Keeps.regsBut_of_hearth (h : Keeps (mask [.rep, .hearth]) s u) : s.regsBut u [] := fun k _ => h.word (by simp)

theorem execPortFlush_of_down {p : PortNo} (hon : s.portOn p = true) (heth : s.portOtn p = false)
    (hnew : (s.port p).flushed = false) (hdown : max 1 (s.rd F.prtDownFlushTicks p) ≤ (s.port p).downEdges) :
    execPortFlush p s = done ((s.modPort p (fun r => { r with flushed := true, refusing := true })).flushQueues
      (fun q => decide (s.queuePort q = p)) 0) :=
  congrArg done (onlyIf_of_true (by
    rw [hon, heth, hnew]
    exact decide_eq_true hdown))

theorem execFlushEnd_of_done {h : Flush} {fs : List Flush} (hfirst : s.hearth.flushes = h :: fs) (hleft : h.left = 0) :
    execFlushEnd s = done ((s.modHearth (fun h => { h with flushes := fs })).hrtEvent F.hrtEvtFlushDone h.queue) := by
  rw [execFlushEnd, hfirst]
  exact congrArg done (if_pos hleft)

theorem execFlushEnd_of_left {h : Flush} {fs : List Flush} (hfirst : s.hearth.flushes = h :: fs) (hleft : h.left ≠ 0) :
    execFlushEnd s = done s := by
  rw [execFlushEnd, hfirst]
  exact congrArg done (if_neg hleft)

theorem execSpillMove_of_found {q : Fin 16384}
    (hfound : s.hearth.frames.find? (fun x => decide (x.queue = q.val) && decide (x.place = .toSpill)) = some f)
    (hroom : f.passed = true ∧ s.hearth.moved + f.bytes.length ≤ 400000) :
    execSpillMove q s = done ((s.putFrame { f with place := .region }).modHearth
      (fun h => { h with moved := s.hearth.moved + f.bytes.length })) := by
  rw [execSpillMove, hfound]
  exact congrArg done (if_pos hroom)

theorem execSpillFetch_of_found {q : Fin 16384}
    (hfound : s.hearth.frames.find? (fun x => decide (x.queue = q.val) && decide (x.place = .region)) = some f)
    (hroom : s.occupancy q < s.rd F.hrtQshareShare 0 q ∧ s.hearth.fetched + f.bytes.length ≤ 400000) :
    execSpillFetch q s = done (((s.putFrame { f with place := .onDie }).modHearth
      (fun h => { h with fetched := s.hearth.fetched + f.bytes.length })).count .hrt 0 10) := by
  rw [execSpillFetch, hfound]
  exact congrArg done (if_pos hroom)

theorem execSeaRxgRead_of_ready {p : PortNo} (h : s.ready .sea p = true) :
    execSeaRxgRead p s = done ((s.wr F.seaRxgHiGroupHi ((s.sealRt p).pred / 2 ^ 32) p).emit
      (.read [BitVec.ofNat 32 (s.sealRt p).pred])) :=
  congrArg done (State.gateRead_of_ready h)

end Sys2Proof.Machine
end

section
/-! PROOF. The statement on frames that leave. -/

namespace Sys2Proof.Machine

open Sys2Proof

variable {s u : State} {f : HFrame} {p : PortNo} {cyc : Cyc}

/-- The frame that the scheduler picks for a port leaves. -/
theorem frameSend_leaves (bank : Option (Fin 512)) (hsends : s.portSends p = true)
    (hpick : (s.at cyc).pickFrame p = some (f, u)) (hside : f.cipher ≠ s.portCipher p) :
    Runs (.frameSend p bank cyc) s (fun t =>
      t.hearth.frames = s.hearth.frames.filter (fun x => decide (x.id ≠ f.id)) ∧
      t.hearth.groups = s.hearth.groups ∧ t.assocs = s.assocs ∧
      (t.port p).dic = (gapAfter (s.port p).dic f.bytes.length).2 ∧
      ((s.ptpMode p = 0 ∨ f.kind = .sealed) →
        s.sends t (.frame p (List.replicate 7 0x55 ++ [0xD5] ++ f.bytes) (gapAfter (s.port p).dic f.bytes.length).1
          bank.isSome))) := by
  have hpicked : Keeps (mask [.hearth]) (s.at cyc) u := State.pickFrame_keeps.elim hpick
  have hmode : u.ptpMode p = s.ptpMode p := by simp [State.ptpMode, hpicked.rd]
  have hcipher : u.portCipher p = s.portCipher p := by simp [State.portCipher, State.on, hpicked.rd]
  have hcorrected : Keeps (mask [.rep]) u (u.ptpCorrect p f).1 := State.ptpCorrect_keeps
  obtain ⟨hframes, hgroups⟩ := State.sentFrame_held (s := (u.ptpCorrect p f).1) f p
  have hsent : Keeps (mask [.rep, .hearth]) u ((u.ptpCorrect p f).1.sentFrame f p) :=
    (hcorrected.mono (by rfl)).trans State.sentFrame_keeps
  have hnoted := State.noteBank_keeps (s := (u.ptpCorrect p f).1.sentFrame f p) bank
  refine runs_of_done (execFrameSend_of_pick hsends hpick (hcipher ▸ hside)) ?_
  generalize (u.ptpCorrect p f).1.sentFrame f p = w at hframes hgroups hsent hnoted ⊢
  generalize w.noteBank bank = v at hnoted ⊢
  have hheld : SameHeld s u := (SameHeld.of_hearth (s.at_hearth cyc)).trans (.pickFrame hpick)
  have hhearth : (v.macSend p (u.ptpCorrect p f).2 bank.isSome).closed.hearth = w.hearth := by
    rw [State.closed_hearth, State.macSend_hearth]
    exact hnoted.frame .hearth (by decide)
  have hkept : Keeps (mask [.rep, .hearth, .page .flt]) (s.at cyc) v :=
    ((hpicked.mono (by rfl)).trans (hsent.mono (by rfl))).trans (hnoted.mono (by rfl))
  have hout : v.out = s.out := hkept.frame .out (by decide)
  have hports : v.ports = s.ports := hkept.frame .ports (by decide)
  have hassocs : v.assocs = s.assocs := hkept.frame .assocs (by decide)
  have hmac : (v.macSend p (u.ptpCorrect p f).2 bank.isSome).assocs = v.assocs := State.macSend_keeps.frame .assocs (by decide)
  obtain ⟨hsend, hdic⟩ := State.macSend_sends (s := s) (p := p) (u.ptpCorrect p f).2 bank.isSome hout
    (by rw [State.port, hports]; rfl)
  rw [State.ptpCorrect_length] at hdic
  refine ⟨?_, ?_, ?_, hdic, fun hidle => ?_⟩
  · rw [hhearth, hframes, hcorrected.frame .hearth (by decide), hheld.frames]
  · rw [hhearth, hgroups, hcorrected.frame .hearth (by decide), hheld.groups]
  · rw [State.closed_assocs, hmac, hassocs]
  · rw [State.ptpCorrect_bytes_of_idle (hmode.symm ▸ hidle)] at hsend ⊢
    exact hsend

/-- The frame that is picked is dropped where its port has come to stand on the side it was received on (R129). -/
theorem frameSend_drops (bank : Option (Fin 512)) (hsends : s.portSends p = true)
    (hpick : (s.at cyc).pickFrame p = some (f, u)) (hside : f.cipher = s.portCipher p) :
    Runs (.frameSend p bank cyc) s (fun t =>
      t.hearth.frames = s.hearth.frames.filter (fun x => decide (x.id ≠ f.id)) ∧ t.assocs = s.assocs ∧
      (f.cells ≠ 0 → (f.cells, s.tick + 1) ∈ t.hearth.zeroing)) := by
  have hpicked : Keeps (mask [.hearth]) (s.at cyc) u := State.pickFrame_keeps.elim hpick
  have hcipher : u.portCipher p = s.portCipher p := by simp [State.portCipher, State.on, hpicked.rd]
  have hheld : SameHeld s u := (SameHeld.of_hearth (s.at_hearth cyc)).trans (.pickFrame hpick)
  have hassocs : u.assocs = s.assocs := hpicked.frame .assocs (by decide)
  have htick : u.tick = s.tick := hpicked.frame .tick (by decide)
  refine runs_of_done (execFrameSend_of_same_side hsends hpick (hside.trans hcipher.symm)) ⟨?_, ?_, fun hcells => ?_⟩
  · rw [State.closed_hearth, State.loseFrame_frames, hheld.frames]
  · rw [State.closed_assocs, ← hassocs]
    exact State.loseFrame_keeps.frame .assocs (by decide)
  · rw [State.closed_hearth, ← htick]
    exact State.mem_loseFrame_zeroing hcells

/-- The flush of a port that has been down long enough. -/
theorem portFlush_flushes (hon : s.portOn p = true) (heth : s.portOtn p = false) (hnew : (s.port p).flushed = false)
    (hdown : max 1 (s.rd F.prtDownFlushTicks p) ≤ (s.port p).downEdges) :
    Runs (.portFlush p) s (fun t => (t.port p).flushed = true ∧ (t.port p).refusing = true ∧
      t.hearth.frames = s.hearth.frames.filter (fun f => decide (s.queuePort f.queue ≠ p)) ∧
      t.hearth.flushes.map (·.left) = s.hearth.flushes.map (·.left) ++
        [((s.hearth.frames.filter (fun f => decide (s.queuePort f.queue = p) && f.here)).map (·.cells)).sum +
        ((s.hearth.groups.filter (fun g => decide (s.queuePort g.queue = p) && g.released)).map (·.cells)).sum] ∧
      s.regsBut t []) := by
  have hkeeps (u : State) (sel : Nat → Bool) : Keeps (mask [.rep, .hearth]) u (u.flushQueues sel 0) := State.flushQueues_keeps
  refine runs_of_done (execPortFlush_of_down hon heth hnew hdown) ?_
  generalize hmarked : s.modPort p (fun r => { r with flushed := true, refusing := true }) = u
  have hhearth : u.hearth = s.hearth := hmarked ▸ rfl
  have hport : u.port p = { s.port p with flushed := true, refusing := true } := hmarked ▸ State.modPort_port_self ..
  have hregs : s.regsBut u [] := hmarked ▸ State.regsBut_of_word (State.modPort_word _ _ _) (State.regsBut_refl _ _)
  obtain ⟨hframes, hflushes⟩ := State.flushQueues_held (s := u) (fun q => decide (s.queuePort q = p)) 0
  have hmarks : ((u.flushQueues (fun q => decide (s.queuePort q = p)) 0).closed.port p) =
      { s.port p with flushed := true, refusing := true } := by
    rw [State.closed_port, ← hport]
    exact congrArg (fun l => nget {} l p.val) ((hkeeps u _).frame .ports (by decide))
  refine ⟨by rw [hmarks], by rw [hmarks], ?_, ?_, State.closed_regsBut
    (State.regsBut_trans hregs (hkeeps u _).regsBut_of_hearth)⟩
  · rw [State.closed_hearth, hframes, hhearth]
    simp
  · rw [State.closed_hearth, hflushes, hhearth, List.map_append, List.filter_filter]
    simp only [List.map_cons, List.map_nil, Bool.and_comm]

/-- Settles O26: each command by what the Hearth holds after it. -/
theorem framesLeave : Obligations.FramesLeave := by
  unfold Obligations.FramesLeave
  refine ⟨fun s p cyc => ⟨?leaves, ?drops, ?silent⟩, fun s => ⟨?portFlush, ?queueFlush, ?flushDone, ?flushLeft, ?move, ?fetch,
    ?group⟩⟩
  case leaves => exact fun f u bank => frameSend_leaves bank
  case drops => exact fun f u bank => frameSend_drops bank
  case silent =>
    exact fun bank hsends => runs_of_done (execFrameSend_of_silent hsends)
      ⟨State.closed_hearth _, State.closed_regsBut (s.at_regsBut cyc []), State.closed_assocs _⟩
  case portFlush => exact fun p => portFlush_flushes
  case queueFlush =>
    intro cyc hready
    have hexec : exec (.queueFlush cyc) s = done ((s.at cyc).landFlush cyc) :=
      congrArg done (State.gate_of_ready (s := s.at cyc) hready)
    exact runs_of_done hexec ⟨State.closed_sched _, State.closed_hearth _,
      State.closed_regsBut (State.regsBut_of_word (State.schedule_word _ _ _) (s.at_regsBut cyc []))⟩
  case flushDone =>
    intro h fs hfirst hleft
    have hevent (u : State) : Keeps (mask [.rep]) u (u.hrtEvent F.hrtEvtFlushDone h.queue) := State.hrtEvent_keeps
    refine runs_of_done (execFlushEnd_of_done hfirst hleft) ⟨?_, ?_, State.closed_regsBut fun k _ => ?_⟩
    · rw [State.closed_hearth]
      exact (hevent _).frame .hearth (by decide)
    · rw [State.closed_evt _ _ _ (by decide)]
      exact State.event_evt_self _ _ (by decide) rfl
    · exact (hevent _).word (by simp)
  case flushLeft =>
    exact fun h fs hfirst hleft => runs_of_done (execFlushEnd_of_left hfirst hleft)
      ⟨State.closed_hearth _, State.closed_regsBut (State.regsBut_refl _ _)⟩
  case move =>
    intro q f hfound hpassed hroom
    exact runs_of_done (execSpillMove_of_found hfound ⟨hpassed, hroom⟩)
      ⟨State.closed_regsBut fun _ _ => rfl, State.closed_hearth _⟩
  case fetch =>
    intro q f hfound hshare hroom
    exact runs_of_done (execSpillFetch_of_found hfound ⟨hshare, hroom⟩)
      ⟨State.closed_regsBut fun _ _ => State.count_word .., by
        rw [State.closed_hearth, State.count_hearth]
        rfl⟩
  case group =>
    intro p hready
    refine runs_of_done (execSeaRxgRead_of_ready hready) ⟨State.sends_emit _ (State.wr_out ..), ?_, ?_⟩
    · rw [State.closed_rd, State.emit_rd, State.rd_wr_self s _ _ _ (by decide)]
      rfl
    · exact State.closed_regsBut (State.emit_regsBut _ (State.regsBut_wr _ (State.regsBut_refl _ _) (List.mem_singleton_self _)))

end Sys2Proof.Machine
end

section
/-! SUPPORT. An OTN frame on its way in (R105, R107, R111, R112, R117 to R121): what an aligned port in frame and multiframe keeps
as it takes the overhead of one more frame. -/

namespace Sys2Proof.Machine

open Sys2Proof

variable {s t u : State} {p : Nat} {f : OtnFrame}

/-! ### The place of a port in its multiframe -/

/-- Port `p` is in the same OTN mode, in or out of frame and multiframe, and at the same place of the multiframe, as before, and
of the state only the reporting channels, the OTN ports, the Kindle channels and the OTF page may have changed. -/
structure SamePlace (p : Nat) (s t : State) : Prop where
  keeps : Keeps (mask [.rep, .otn, .kindle, .page .otf]) s t
  mode : t.rd F.otfCfgMode p = s.rd F.otfCfgMode p
  inFrame : (t.otnp p).inFrame = (s.otnp p).inFrame
  inMf : (t.otnp p).inMf = (s.otnp p).inMf
  rxMfas : (t.otnp p).rxMfas = (s.otnp p).rxMfas

theorem SamePlace.refl (s : State) : SamePlace p s s := ⟨Keeps.refl s, rfl, rfl, rfl, rfl⟩

theorem SamePlace.trans (h : SamePlace p s t) (h' : SamePlace p t u) : SamePlace p s u :=
  ⟨h.keeps.trans h'.keeps, h'.mode.trans h.mode, h'.inFrame.trans h.inFrame, h'.inMf.trans h.inMf, h'.rxMfas.trans h.rxMfas⟩

/-- An operation that leaves the OTN ports and the mode. -/
theorem SamePlace.of_otn (hkeeps : Keeps (mask [.rep, .otn, .kindle, .page .otf]) s t) (hotn : t.otn = s.otn)
    (hmode : t.rd F.otfCfgMode p = s.rd F.otfCfgMode p) : SamePlace p s t := by
  have hport : t.otnp p = s.otnp p := congrArg (fun m => nget ({} : OtnRt) m p) hotn
  exact ⟨hkeeps, hmode, by rw [hport], by rw [hport], by rw [hport]⟩

/-- An operation on the reporting channels or the Kindle channels alone. -/
theorem SamePlace.of_channels (h : Keeps (mask [.rep, .kindle]) s t) : SamePlace p s t :=
  .of_otn (h.mono (by rfl)) (h.frame .otn (by decide)) (h.rd _ _ _ (by decide))

theorem SamePlace.count (s : State) (pg : Page) (i sel n : Nat) : SamePlace p s (s.count pg i sel n) :=
  .of_channels (State.count_keeps.mono (by rfl))

theorem SamePlace.modOtnp {g : OtnRt → OtnRt} (hframe : ∀ r, (g r).inFrame = r.inFrame) (hmf : ∀ r, (g r).inMf = r.inMf)
    (hmfas : ∀ r, (g r).rxMfas = r.rxMfas) : SamePlace p s (s.modOtnp p g) := by
  refine ⟨State.modOtnp_keeps.mono (by rfl), State.modOtnp_rd .., ?_, ?_, ?_⟩ <;> rw [State.modOtnp_otnp_self]
  · exact hframe _
  · exact hmf _
  · exact hmfas _

/-- A write of a field of the OTF page outside OTF_CFG.mode. -/
theorem SamePlace.wr {fld : Fld} (v i : Nat) (hpage : fld.page = .otf := by rfl) (hfits : fld.fits = true := by decide)
    (hapart : Fld.apart fld F.otfCfgMode = true := by decide) : SamePlace p s (s.wr fld v i) :=
  .of_otn (State.wr_keeps.mono (by rw [hpage]; rfl)) (State.wr_otn ..) (State.rd_wr_apart _ _ _ _ _ _ hfits hapart)

theorem SamePlace.onlyIf {c : Bool} {g : State → State} (h : ∀ s, SamePlace p s (g s)) (s : State) :
    SamePlace p s (onlyIf c g s) := by
  unfold Sys2Proof.onlyIf
  split
  · exact h s
  · exact .refl s

theorem SamePlace.ite {c : Prop} [Decidable c] (ht : SamePlace p s t) (hu : SamePlace p s u) :
    SamePlace p s (if c then t else u) := by
  split <;> assumption

theorem SamePlace.forL {α : Type} {g : α → State → State} (h : ∀ a s, SamePlace p s (g a s)) (l : List α) :
    ∀ s, SamePlace p s (forL l g s) := by
  induction l with
  | nil => exact .refl
  | cons a l ih => exact fun s => (h a s).trans (ih _)

/-! ### Words written in a row -/

/-- Words written from `off` on leave every register below `off`. -/
theorem State.wrWords_word_of_lt {pg : Page} {off i : Nat} {ws : List Word} {k : RegKey} (h : k.off < off) :
    (s.wrWords pg off ws i).word k = s.word k := by
  induction ws generalizing s off with
  | nil => rfl
  | cons w ws ih =>
    have hnext : (s.wrWords pg off (w :: ws) i).word k = (s.setWord ⟨pg, off, i, 0⟩ w).word k :=
      ih (s := s.setWord ⟨pg, off, i, 0⟩ w) (Nat.lt_add_right 4 h)
    rw [hnext, State.word_setWord_ne _ _ (by rintro rfl; exact Nat.lt_irrefl _ h)]

theorem SamePlace.wrWords {off : Nat} (ws : List Word) (i : Nat) (h : F.otfCfgMode.off < off) :
    SamePlace p s (s.wrWords .otf off ws i) :=
  .of_otn (State.wrWords_keeps.mono (by rfl)) (State.wrWords_keeps.frame .otn (by decide))
    (congrArg (getF · _ _) (State.wrWords_word_of_lt (k := keyOf F.otfCfgMode p) h))

/-! ### Alignment (R107, R108) -/

/-- The hunt and the lock of the logical lanes. -/
theorem SamePlace.laneOcc (s : State) (o : LaneOcc) : SamePlace p s (s.laneOcc p o) := by
  have hput (u : State) (l : LogLane) :
      SamePlace p u (u.modOtnp p (fun r => { r with lanes := nset {} r.lanes o.lane l })) :=
    .modOtnp (fun _ => rfl) (fun _ => rfl) (fun _ => rfl)
  unfold State.laneOcc
  extract_lets r l fasOk put others was good cand locked
  split
  · extract_lets want next
    exact .ite (.refl s) (.ite (hput ..) (.ite (hput ..) (hput ..)))
  · exact .ite (hput ..) (.ite (hput ..) (.ite (((hput ..).trans (.wr ..)).trans (.count ..))
      ((hput ..).trans (.onlyIf (fun _ => .wr ..) _))))

theorem SamePlace.countLocked (s : State) : SamePlace p s (s.countLocked p) := .wr ..

/-- A right FAS leaves a port in frame there (R111). -/
theorem SamePlace.fasStep (h : (s.otnp p).inFrame = true) : SamePlace p s (s.fasStep p true) := by
  unfold State.fasStep
  extract_lets r counted good
  have hstays : ¬ (!r.inFrame && decide (max 1 (good.rd F.otfFrmIfFrames p) ≤ r.fasGood + 1)) = true := by simp [r, h]
  rw [if_pos rfl, if_neg hstays]
  exact .modOtnp (fun _ => rfl) (fun _ => rfl) (fun _ => rfl)

/-! ### The overhead -/

/-- The MFAS of the frame that port `p` has received last. -/
def State.heard (s : State) (p m : Nat) : State := s.modOtnp p (fun r => { r with rxMfas := some m })

/-- An MFAS that follows the one before leaves a port in multiframe there (R111). -/
theorem SamePlace.mfasStep {was m : Nat} (hmf : (s.otnp p).inMf = true) (hwas : (s.otnp p).rxMfas = some was)
    (hnext : m = (was + 1) % 256) : SamePlace p (s.heard p m) (s.mfasStep p m) := by
  unfold State.mfasStep
  extract_lets r heard good bad
  have hstays : ¬ (!r.inMf && decide (max 1 (good.rd F.otfFrmIfFrames p) ≤ r.mfGood + 1)) = true := by simp [r, hmf]
  simp only [r, hwas]
  rw [if_pos hnext, if_neg hstays]
  exact .modOtnp (fun _ => rfl) (fun _ => rfl) (fun _ => rfl)

theorem SamePlace.statStep (s : State) (f : OtnFrame) : SamePlace p s (s.statStep p f) :=
  .modOtnp (fun _ => rfl) (fun _ => rfl) (fun _ => rfl)

theorem SamePlace.smStep (s : State) (f : OtnFrame) : SamePlace p s (s.smStep p f).1 := by
  have hread (u : State) (bei : Fin 16) (opu : List Byte) :
      SamePlace p u (u.modOtnp p (fun r => { r with rxBei := bei, rxOpu := opu })) :=
    .modOtnp (fun _ => rfl) (fun _ => rfl) (fun _ => rfl)
  exact ((SamePlace.count ..).trans (.count ..)).trans (hread ..)

theorem SamePlace.timEval (s : State) : SamePlace p s (s.timEval p) := (SamePlace.wr ..).trans (.wr ..)

theorem SamePlace.traceStep (s : State) (f : OtnFrame) : SamePlace p s (s.traceStep p f) := by
  unfold State.traceStep
  extract_lets i n r
  split
  next sm smOk _ =>
  split
  next pm pmOk _ =>
  extract_lets traced lvl smDone pmDone
  have htraced : SamePlace p s traced := .modOtnp (fun _ => rfl) (fun _ => rfl) (fun _ => rfl)
  have hsm : SamePlace p traced smDone := .onlyIf (fun _ => (SamePlace.wrWords _ _ (by decide)).trans (.wr ..)) _
  have hpm : SamePlace p smDone pmDone := .onlyIf (fun _ => (SamePlace.wrWords _ _ (by decide)).trans (.wr ..)) _
  exact ((htraced.trans hsm).trans hpm).trans (.onlyIf .timEval _)

theorem SamePlace.apsStep (s : State) (f : OtnFrame) : SamePlace p s (s.apsStep p f) := by
  unfold State.apsStep
  extract_lets r run seen accepted
  have hseen : SamePlace p s seen := .modOtnp (fun _ => rfl) (fun _ => rfl) (fun _ => rfl)
  have haccepted : SamePlace p seen accepted := ((SamePlace.wr ..).trans (.wr ..)).trans (.count ..)
  exact .ite (.refl s) (.ite ((hseen.trans haccepted).trans
    (.onlyIf (fun _ => .of_channels (State.irq_keeps.mono (by rfl))) _)) hseen)

theorem SamePlace.gccStep (s : State) (f : OtnFrame) : SamePlace p s (s.gccStep p f) := .of_channels State.gccStep_keeps

/-- The overhead of a frame that follows the one before leaves a port in multiframe there. -/
theorem SamePlace.otnOverhead {was : Nat} (hmf : (s.otnp p).inMf = true) (hwas : (s.otnp p).rxMfas = some was)
    (hnext : f.mfas.toNat = (was + 1) % 256) : SamePlace p (s.heard p f.mfas.toNat) (s.otnOverhead p f).1 := by
  unfold State.otnOverhead
  extract_lets judged told
  have hjudged : SamePlace p (s.heard p f.mfas.toNat) judged :=
    ((SamePlace.mfasStep hmf hwas hnext).trans (.count ..)).trans (.statStep ..)
  have htold : SamePlace p judged told := .onlyIf (fun _ => .of_channels (State.event_keeps.mono (by rfl))) _
  have hsm := (hjudged.trans htold).trans (.smStep told f)
  exact .ite (((hsm.trans (.traceStep ..)).trans (.apsStep ..)).trans (.gccStep ..)) hsm

/-- Of a frame, reading its overhead changes the BIP-8 fields alone (R116). -/
theorem State.otnOverhead_frame : ∃ bip, (s.otnOverhead p f).2 = { f with bip := bip } := ⟨_, rfl⟩

end Sys2Proof.Machine
end

section
/-! SUPPORT. A frame that an aligned OTN port in frame and multiframe takes into its group (R107, R111, R217, R218, R220). -/

namespace Sys2Proof.Machine

open Sys2Proof

variable {s : State} {p : Nat} {f : OtnFrame} {occs : List LaneOcc}

/-! ### The place of the frame -/

/-- The logical lanes of OTN port `p` hunted, and those in lock counted (R107). -/
def State.hunted (s : State) (p : Nat) (occs : List LaneOcc) : State := (forL occs (fun o s => s.laneOcc p o) s).countLocked p

/-- A frame with the right FAS rebuilt on port `p`, before its overhead is read (R111). -/
def State.framed (s : State) (p : Nat) (f : OtnFrame) (occs : List LaneOcc) : State :=
  (((s.hunted p occs).count .otf p 8 f.fecSymbols).count .otf p 9 f.fecUncorrectable).fasStep p true

/-- An aligned OTN port without a defect, in frame and multiframe, takes a frame with the right FAS whose MFAS follows the one
before, and no whole group waits there to be received. -/
structure State.TakesFrame (s : State) (p : Nat) (f : OtnFrame) (occs : List LaneOcc) : Prop where
  on : s.portOn p = true
  otn : s.portOtn p = true
  powered : s.pwr.shed = false
  signal : State.portLos s s p = false
  aligned : (s.hunted p occs).otnLol p = false
  inFrame : (s.otnp p).inFrame = true
  inMf : (s.otnp p).inMf = true
  fas : s.fasGood p f = true
  follows : ∃ was, (s.otnp p).rxMfas = some was ∧ f.mfas.toNat = (was + 1) % 256
  clean : s.rd F.prtStatReported p = 0
  unfilled : (s.sealRt p).cur.frames.length ≠ 16

theorem State.hunted_place : SamePlace p s (s.hunted p occs) :=
  (SamePlace.forL (fun o s => .laneOcc s o) occs s).trans (.countLocked _)

theorem State.framed_place (h : (s.otnp p).inFrame = true) : SamePlace p s (s.framed p f occs) := by
  have hcounted : SamePlace p s (((s.hunted p occs).count .otf p 8 f.fecSymbols).count .otf p 9 f.fecUncorrectable) :=
    (State.hunted_place.trans (.count ..)).trans (.count ..)
  exact hcounted.trans (.fasStep (hcounted.inFrame.trans h))

/-- The same with the overhead of the frame read (R105, R111, R112). -/
def State.overheard (s : State) (p : Nat) (f : OtnFrame) (occs : List LaneOcc) : State := ((s.framed p f occs).otnOverhead p f).1

/-- The state as the frame goes to its group: its overhead read, its place of the multiframe kept. -/
def State.placed (s : State) (p : Nat) (f : OtnFrame) (occs : List LaneOcc) : State :=
  (s.overheard p f occs).modOtnp p (fun r => { r with mfas := f.mfas.toNat })

theorem State.placed_mfas : ((s.placed p f occs).otnp p).mfas = f.mfas.toNat := by
  rw [State.placed, State.modOtnp_otnp_self]

theorem State.count_otnLol (pg : Page) (j sel n : Nat) : (s.count pg j sel n).otnLol p = s.otnLol p := by
  simp only [State.otnLol, State.otnAligned, State.count_rd, State.count_otnp]

theorem State.count_fasGood (pg : Page) (j sel n : Nat) : (s.count pg j sel n).fasGood p f = s.fasGood p f := by
  simp only [State.fasGood, State.count_rd]

theorem State.hunted_fasGood : (s.hunted p occs).fasGood p f = s.fasGood p f := by
  simp only [State.fasGood, State.hunted_place.mode]

theorem State.otnAction_of_clean (hclean : s.rd F.prtStatReported p = 0) : s.otnAction p = 0 := by
  simp [State.otnAction, hclean]

theorem State.groupReceived_of_open (hopen : (s.sealRt p).cur.frames.length ≠ 16) : s.groupReceived p = s := if_pos hopen

section
variable (h : s.TakesFrame p f occs)
include h

theorem State.TakesFrame.framed : SamePlace p s (s.framed p f occs) := State.framed_place h.inFrame

/-- The overhead of the frame leaves the port in frame and multiframe, in its mode. -/
theorem State.TakesFrame.overhead : Keeps (mask [.rep, .otn, .kindle, .page .otf]) s (s.overheard p f occs) ∧
    (s.overheard p f occs).rd F.otfCfgMode p = s.rd F.otfCfgMode p ∧
    ((s.overheard p f occs).otnp p).inFrame = true ∧ ((s.overheard p f occs).otnp p).inMf = true := by
  obtain ⟨was, hwas, hnext⟩ := h.follows
  have hplace : SamePlace p ((s.framed p f occs).heard p f.mfas.toNat) (s.overheard p f occs) :=
    SamePlace.otnOverhead (h.framed.inMf.trans h.inMf) (h.framed.rxMfas.trans hwas) hnext
  have hheard : Keeps (mask [.rep, .otn, .kindle, .page .otf]) (s.framed p f occs) ((s.framed p f occs).heard p f.mfas.toNat) :=
    State.modOtnp_keeps.mono (by rfl)
  refine ⟨(h.framed.keeps.trans hheard).trans hplace.keeps, ?_, ?_, ?_⟩
  · rw [hplace.mode, State.heard, State.modOtnp_rd, h.framed.mode]
  · rw [hplace.inFrame, State.heard, State.modOtnp_otnp_self]
    exact h.framed.inFrame.trans h.inFrame
  · rw [hplace.inMf, State.heard, State.modOtnp_otnp_self]
    exact h.framed.inMf.trans h.inMf

theorem State.TakesFrame.placed_keeps : Keeps (mask [.rep, .otn, .kindle, .page .otf]) s (s.placed p f occs) := by
  obtain ⟨hkeeps, -⟩ := h.overhead
  exact hkeeps.trans (State.modOtnp_keeps.mono (by rfl))

theorem State.TakesFrame.placed_areaBytes : (s.placed p f occs).areaBytes p = s.areaBytes p := by
  obtain ⟨-, hmode, -⟩ := h.overhead
  rw [State.areaBytes, State.placed, State.modOtnp_rd, hmode, State.areaBytes]

theorem State.TakesFrame.placed_sealRt : (s.placed p f occs).sealRt p = s.sealRt p :=
  congrArg (fun m => nget ({} : SealRt) m p) (h.placed_keeps.frame .seals (by decide))

theorem State.TakesFrame.placed_portCipher : (s.placed p f occs).portCipher p = s.portCipher p := by
  simp only [State.portCipher, State.on, h.placed_keeps.rd F.prtCfgSide _ _ (by decide)]

theorem State.TakesFrame.placed_otnAction : (s.placed p f occs).otnAction p = 0 :=
  State.otnAction_of_clean ((h.placed_keeps.rd _ _ _ (by decide)).trans h.clean)

theorem State.TakesFrame.placed_groupReceived : (s.placed p f occs).groupReceived p = s.placed p f occs :=
  State.groupReceived_of_open (by rw [h.placed_sealRt]; exact h.unfilled)

/-- The frame goes to the group of its side as a normal one, with its own MFAS (R107, R114). -/
theorem State.TakesFrame.otnReceive : ∃ bip, s.otnReceive p f occs =
    if s.portCipher p then (s.placed p f occs).cipherOtn p 0 { f with bip := bip } (f.mfas.toNat % 16)
    else (s.placed p f occs).clearOtn p 0 { f with bip := bip } (f.mfas.toNat % 16) := by
  obtain ⟨hkeeps, -, hframe, hmf⟩ := h.overhead
  obtain ⟨bip, hread⟩ := State.otnOverhead_frame (s := s.framed p f occs) (p := p) (f := f)
  have htaken : ¬ (!s.portOn p || !s.portOtn p || s.pwr.shed) = true := by simp [h.on, h.otn, h.powered]
  unfold State.otnReceive
  rw [if_neg htaken]
  extract_lets los found counted blind judged
  have hlos : los = false := h.signal
  have hfound : found = s.hunted p occs := if_neg (by simp [hlos])
  have hcounted : counted = ((s.hunted p occs).count .otf p 8 f.fecSymbols).count .otf p 9 f.fecUncorrectable := by
    rw [← hfound]
    exact onlyIf_of_true (by simp [hlos])
  have hblind : blind = false := by
    simp only [blind, hlos, hcounted, State.count_otnLol, h.aligned, Bool.or_self]
  have hjudged : judged = s.framed p f occs := by
    simp only [judged, hblind, hcounted, State.count_fasGood, State.hunted_fasGood, h.fas]
    rfl
  have hin : ((s.framed p f occs).otnp p).inFrame = true := h.framed.inFrame.trans h.inFrame
  rw [hjudged, hblind, if_pos (by simp [hin])]
  have hpair : (s.framed p f occs).otnOverhead p f = (s.overheard p f occs, { f with bip := bip }) := Prod.ext rfl hread
  rw [hpair]
  dsimp -zeta only
  extract_lets r place kept act received
  have hplace : place = f.mfas.toNat := if_pos (by simp [r, hframe, hmf])
  have hkept : kept = s.placed p f occs := by
    simp only [kept, hplace]
    rfl
  have hact : act = 0 := by
    rw [← h.placed_otnAction, ← hkept]
    rfl
  have hreceived : received = s.placed p f occs := by
    rw [← h.placed_groupReceived, ← hkept]
  refine ⟨bip, ?_⟩
  rw [hreceived, h.placed_portCipher, hact, hplace, BitVec.ofNat_toNat, BitVec.setWidth_eq]

end

end Sys2Proof.Machine
end

section
/-! SUPPORT. What a frame in the middle of a group adds to it: ciphertext on the clear side (R217, R218, R220), the frame as
received on the cipher side (R107, R222). -/

namespace Sys2Proof.Machine

open Sys2Proof

variable {s t u : State} {p i : Nat} {f : OtnFrame}

/-! ### The clear side -/

/-- What the seal engine keeps once frame `i` of the group in progress is enciphered as `cipher`. -/
def SealRt.sealed (r : SealRt) (i : Nat) (cipher : List Byte) : SealRt :=
  { r with txCount := i + 1, txCipher := r.txCipher ++ cipher }

/-- A normal frame in the middle of a group that is being sealed is enciphered after those before it. -/
theorem State.clearOtn_of_middle (h0 : i ≠ 0) (h15 : i ≠ 15) (hcount : (s.sealRt p).txCount = i)
    (hseals : (s.sealRt p).txSeals = true) (htag : (s.sealRt p).txTag ≠ []) :
    (s.clearOtn p 0 f i).sealRt p = (s.sealRt p).sealed i (otnCrypt (s.sealRt p).txKey
        (otnNonce (s.sealRt p).txInit (s.sealRt p).txSalt (s.sealRt p).txNum i) (slice f.payload 0 (s.areaBytes p))) ∧
      Keeps (mask [.rep, .chims, .hearth, .seals]) s (s.clearOtn p 0 f i) := by
  have htagged : (s.sealRt p).txTag.isEmpty = false := by simpa using htag
  unfold State.clearOtn
  extract_lets begun normal r dropped area cipher
  have hnormal : normal = s := (if_pos rfl).trans (if_neg h0)
  have hr : r = s.sealRt p := by rw [← hnormal]
  have hdropped : Keeps (mask [.rep]) s dropped := by
    rw [← hnormal]
    exact Keeps.onlyIf (fun _ => Keeps.count ..) (Keeps.refl _)
  rw [if_neg (by simp [hr, hcount]), if_neg (by simp [hr, htagged])]
  dsimp -zeta only
  extract_lets item put blocks charged grown
  rw [if_pos h15]
  have hput : Keeps (mask [.rep, .hearth]) s put := by
    unfold put
    split
    · exact (hdropped.mono (by rfl)).trans (State.modGroup_keeps.mono (by rfl))
    · exact hdropped.mono (by rfl)
  have hcharged : Keeps (mask [.rep, .chims, .hearth]) s charged :=
    Keeps.onlyIf (fun _ => State.chargeSlots_keeps.mono (by rfl)) (hput.mono (by rfl))
  have hseal : charged.sealRt p = s.sealRt p :=
    congrArg (fun m => nget ({} : SealRt) m p) (hcharged.frame .seals (by decide))
  have harea : area = slice f.payload 0 (s.areaBytes p) := by
    simp only [area, State.areaBytes, hdropped.rd_of_rep]
  refine ⟨?_, (hcharged.mono (by rfl)).trans (State.modSeal_keeps.mono (by rfl))⟩
  simp only [grown, State.modSeal_sealRt_self, hseal, hseals, SealRt.sealed, cipher, harea, hr, if_true]

/-! ### The cipher side: what synchronisation leaves of the groups -/

/-- The group that cipher-side port `p` gathers, and the one held for its verdict, are as before. -/
structure SameGroups (p : Nat) (s t : State) : Prop where
  cur : (t.sealRt p).cur = (s.sealRt p).cur
  held : (t.sealRt p).held = (s.sealRt p).held

theorem SameGroups.refl (s : State) : SameGroups p s s := ⟨rfl, rfl⟩

theorem SameGroups.trans (h : SameGroups p s t) (h' : SameGroups p t u) : SameGroups p s u :=
  ⟨h'.cur.trans h.cur, h'.held.trans h.held⟩

/-- An operation that leaves the seal engines. -/
theorem SameGroups.of_seals (h : t.seals = s.seals) : SameGroups p s t := by
  have hseal : t.sealRt p = s.sealRt p := congrArg (fun m => nget ({} : SealRt) m p) h
  exact ⟨by rw [hseal], by rw [hseal]⟩

theorem SameGroups.modSeal {g : SealRt → SealRt} (hcur : ∀ r, (g r).cur = r.cur) (hheld : ∀ r, (g r).held = r.held) :
    SameGroups p s (s.modSeal p g) := by
  refine ⟨?_, ?_⟩ <;> rw [State.modSeal_sealRt_self]
  · exact hcur _
  · exact hheld _

theorem SameGroups.wr (fld : Fld) (v j : Nat) : SameGroups p s (s.wr fld v j) := .of_seals (State.wr_seals ..)

theorem SameGroups.modSeal_wr {g : SealRt → SealRt} {fld : Fld} {v j : Nat} (hcur : ∀ r, (g r).cur = r.cur)
    (hheld : ∀ r, (g r).held = r.held) : SameGroups p s ((s.modSeal p g).wr fld v j) :=
  (SameGroups.modSeal hcur hheld).trans (.wr ..)

theorem SameGroups.ite {c : Prop} [Decidable c] (ht : SameGroups p s t) (hu : SameGroups p s u) :
    SameGroups p s (if c then t else u) := by
  split <;> assumption

theorem SameGroups.onlyIf {c : Bool} {g : State → State} (h : SameGroups p s (g s)) : SameGroups p s (onlyIf c g s) := by
  unfold Sys2Proof.onlyIf
  split
  · exact h
  · exact .refl s

theorem SameGroups.chargeSlots (s : State) (c n m : Nat) : SameGroups p s (s.chargeSlots c n m) :=
  .of_seals (State.chargeSlots_keeps.frame .seals (by decide))

/-- The countdown (R223). -/
theorem SameGroups.countdownStep (s : State) (d : Nat) : SameGroups p s (s.countdownStep p i d) := by
  unfold State.countdownStep
  extract_lets r need same run glitch filtered accepted
  have hglitch : SameGroups p s glitch :=
    .onlyIf ((SameGroups.of_seals (State.count_seals ..)).trans (.of_seals (State.event_keeps.frame .seals (by decide))))
  have hfiltered : SameGroups p s filtered := hglitch.trans (.modSeal (fun _ => rfl) (fun _ => rfl))
  have haccepted : SameGroups p s accepted :=
    (hfiltered.trans (.of_seals (State.count_seals ..))).trans (.wr ..)
  exact .ite (.ite (haccepted.trans (.modSeal_wr (fun _ => rfl) (fun _ => rfl)))
    (haccepted.trans (.modSeal_wr (fun _ => rfl) (fun _ => rfl)))) hfiltered

/-- The phase bit (R224). -/
theorem SameGroups.phaseStep (s : State) (b : Bool) : SameGroups p s (s.phaseStep p b) := by
  unfold State.phaseStep
  extract_lets r n counted
  have hcounted : SameGroups p s counted := .modSeal (fun _ => rfl) (fun _ => rfl)
  exact .ite (.modSeal (fun _ => rfl) (fun _ => rfl))
    (.ite (hcounted.trans (.modSeal_wr (fun _ => rfl) (fun _ => rfl))) hcounted)

/-- A normal frame in the middle of a group is gathered as received, and no group has its verdict by it. -/
theorem State.cipherOtn_of_middle (h0 : i ≠ 0) (hcount : (s.sealRt p).cur.frames.length = i) :
    ((s.cipherOtn p 0 f i).sealRt p).cur.frames = (s.sealRt p).cur.frames ++ [f] ∧
      ((s.cipherOtn p 0 f i).sealRt p).held = (s.sealRt p).held := by
  unfold State.cipherOtn
  extract_lets whole begun blocks charged gathered lvl
  have hbegun : begun = s := (if_neg h0).trans (if_pos hcount)
  have hcharged : SameGroups p s charged := by
    rw [← hbegun]
    exact .onlyIf (.chargeSlots ..)
  have hgathered : (gathered.sealRt p).cur.frames = (s.sealRt p).cur.frames ++ [f] ∧
      (gathered.sealRt p).held = (s.sealRt p).held := by
    simp only [gathered, State.modSeal_sealRt_self, hcharged.cur, hcharged.held, and_self]
  have hwatched : SameGroups p gathered
      (if (decide (1 ≤ lvl ∧ lvl ≤ 6) || decide (gathered.rd F.seaStatSync p ≠ 2)) = true then gathered
      else (gathered.countdownStep p i (stateByte f % 16)).phaseStep p (bit (stateByte f) 7)) :=
    .ite (.refl _) ((SameGroups.countdownStep ..).trans (.phaseStep ..))
  rw [if_neg (by rw [hbegun]; simp [hcount]), hwatched.cur, hwatched.held]
  exact hgathered

end Sys2Proof.Machine
end

section
/-! SUPPORT. OTF_CFG, and OOF and OOM that have lasted (R103, R111). -/

namespace Sys2Proof.Machine

open Sys2Proof

variable {s : State} {p : PortNo} {w : Word} {cyc : Cyc}

theorem execOtnCfgWrite_of_ready (hr : s.ready .otf p = true) :
    execOtnCfgWrite p w cyc s = done ((s.at cyc).landOtnCfg p w cyc) :=
  congrArg done (State.gate_of_ready (by simpa using hr))

@[simp] theorem State.at_portOn (p : Nat) : (s.at cyc).portOn p = s.portOn p := rfl

/-- A write of OTF_CFG that keeps the mode, or finds its port disabled, is taken (R103). -/
theorem State.landOtnCfg_of_allowed (h : getF w 0 3 = s.rd F.otfCfgMode p ∨ s.portOn p = false) :
    (s.at cyc).landOtnCfg p w cyc = (s.at cyc).putCopy (keyOf F.otfCfgMode p) w cyc := by
  refine if_neg ?_
  rintro ⟨hmode, hon⟩
  rcases h with h | h
  · exact hmode (by simpa using h)
  · simp [h] at hon

theorem State.landOtnCfg_of_refused (hmode : getF w 0 3 ≠ s.rd F.otfCfgMode p) (hon : s.portOn p = true) :
    (s.at cyc).landOtnCfg p w cyc = (s.at cyc).wr F.otfStatCfgRejected 1 p := if_pos (by simp [hmode, hon])

/-- A lasting OOF or OOM of port `p` declared: `g` of what the port keeps, and code 3 in its field of OTF_STAT (R111). -/
def State.declared (s : State) (p : Nat) (g : OtnRt → OtnRt) (fld : Fld) : State := (s.modOtnp p g).wr fld 3 p

theorem State.declared_shows {p : Nat} (g : OtnRt → OtnRt) {fld : Fld} (hfits : fld.fits = true) (hw : fld.w = 2) :
    (s.declared p g fld).closed.otnp p = g (s.otnp p) ∧ (s.declared p g fld).closed.rd fld p = 3 ∧
      s.regsBut (s.declared p g fld).closed [keyOf fld p] := by
  refine ⟨?_, ?_, State.closed_regsBut (State.regsBut_wr _ ?_ List.mem_cons_self)⟩
  · rw [State.closed_otnp, State.declared, State.wr_otnp, State.modOtnp_otnp_self]
  · rw [State.closed_rd, State.declared, State.rd_wr_of_lt _ _ hfits (by simp [hw])]
  · exact State.regsBut_of_word (s.modOtnp_word p g) (State.regsBut_refl _ _)

theorem execLofDeclared_of_oof {e : Nat} (h : (s.otnp p).oofFrom = some e) :
    execLofDeclared p s = done (onlyIf (decide (e + max 1 (s.rd F.otfFrmLofTicks p) ≤ s.tick) &&
      !isFlexo (s.rd F.otfCfgMode p)) (fun s => s.declared p (fun o => { o with lof := true }) F.otfStatFrame) s) := by
  unfold execLofDeclared
  rw [h]
  rfl

theorem execLomDeclared_of_oom {e : Nat} (h : (s.otnp p).oomFrom = some e) :
    execLomDeclared p s = done (onlyIf (decide (e + max 1 (s.rd F.otfFrmLofTicks p) ≤ s.tick))
      (fun s => s.declared p (fun o => { o with lom := true }) F.otfStatMframe) s) := by
  unfold execLomDeclared
  rw [h]
  rfl

end Sys2Proof.Machine
end

section
/-! PROOF. The statement on the configuration of OTN ports, on LOF and LOM, and on the frames of a group. -/

namespace Sys2Proof.Machine

open Sys2Proof

variable {s : State} {p : PortNo} {f : OtnFrame} {occs : List LaneOcc} {cyc : Cyc}

/-- A frame that its port takes goes to the group of the port's side. -/
theorem execOtnFrameReceived_of_takes (h : (s.at cyc).TakesFrame p f occs) : ∃ bip, execOtnFrameReceived p f occs cyc s =
    done (if s.portCipher p then ((s.at cyc).placed p f occs).cipherOtn p 0 { f with bip := bip } (f.mfas.toNat % 16)
      else ((s.at cyc).placed p f occs).clearOtn p 0 { f with bip := bip } (f.mfas.toNat % 16)) := by
  obtain ⟨bip, hreceive⟩ := h.otnReceive
  exact ⟨bip, congrArg done hreceive⟩

/-- Settles O27: writes of OTF_CFG by whether the mode may change, LOF and LOM by whether OOF and OOM have lasted, and a frame
by the side of its port, whose group it continues. -/
theorem otnFramesFormGroups : Obligations.OtnFramesFormGroups := by
  unfold Obligations.OtnFramesFormGroups
  refine ⟨fun s p => ⟨fun w cyc hr hallowed => ?taken, fun w cyc hr hmode hon hsched => ?refused,
      fun e hoof hlasted hotl => ?lof, fun e hoof hshort => ?notYet, fun e hoom hlasted => ?lom⟩,
    fun s p f occs cyc i was hon hotn hshed hlos haligned hframe hmf hfas hwas hnext hi h0 hclean hopen => ?frame⟩
  case taken =>
    refine runs_of_done (execOtnCfgWrite_of_ready hr) ?_
    rw [State.landOtnCfg_of_allowed hallowed]
    exact ⟨State.pends_putCopy rfl rfl rfl, State.closed_regsBut (State.putCopy_regsBut (s.at_regsBut cyc _))⟩
  case refused =>
    refine runs_of_done (execOtnCfgWrite_of_ready hr) ?_
    rw [State.landOtnCfg_of_refused hmode hon]
    refine ⟨?_, ?_, State.closed_regsBut (State.regsBut_wr _ (s.at_regsBut cyc _) List.mem_cons_self)⟩
    · rw [State.closed_rd, State.rd_wr_of_lt _ _ (by decide) (by decide)]
    · rw [State.closed_sched, State.wr_sched, State.at_sched, hsched]
  case lof =>
    refine runs_of_done (execLofDeclared_of_oof hoof) ?_
    rw [onlyIf_of_true (by simp [hlasted, hotl])]
    obtain ⟨hport, hshown, hregs⟩ := State.declared_shows (s := s) (p := p) (fun o => { o with lof := true })
      (fld := F.otfStatFrame) (by decide) rfl
    exact ⟨by rw [hport], hshown, hregs⟩
  case notYet =>
    refine runs_of_done (execLofDeclared_of_oof hoof) ?_
    rw [onlyIf_of_false (by simp [Nat.not_le.mpr hshort])]
    exact ⟨by rw [State.closed_otnp], State.closed_regsBut (State.regsBut_refl _ _)⟩
  case lom =>
    refine runs_of_done (execLomDeclared_of_oom hoom) ?_
    rw [onlyIf_of_true (by simp [hlasted])]
    obtain ⟨hport, hshown, hregs⟩ := State.declared_shows (s := s) (p := p) (fun o => { o with lom := true })
      (fld := F.otfStatMframe) (by decide) rfl
    exact ⟨by rw [hport], hshown, hregs⟩
  case frame =>
    have htakes : (s.at cyc).TakesFrame p f occs :=
      ⟨hon, hotn, hshed, hlos, haligned, hframe, hmf, hfas, ⟨was, hwas, hnext⟩, hclean, hopen⟩
    have hsealRt : ((s.at cyc).placed p f occs).sealRt p = s.sealRt p := htakes.placed_sealRt
    have hassocs : ((s.at cyc).placed p f occs).assocs = s.assocs := htakes.placed_keeps.frame .assocs (by decide)
    have hplace (u : State) (hotn : u.otn = ((s.at cyc).placed p f occs).otn) : (u.closed.otnp p).mfas = f.mfas.toNat := by
      rw [State.closed_otnp, State.otnp, hotn]
      exact State.placed_mfas
    obtain ⟨bip, hexec⟩ := execOtnFrameReceived_of_takes htakes
    rw [← hi] at hexec
    refine ⟨fun hside hcount hseals htag h15 => ?clear, fun hside hcount => ?cipher⟩
    case clear =>
      rw [hside, if_neg Bool.false_ne_true] at hexec
      rw [← hsealRt] at hcount hseals htag
      obtain ⟨hgrown, hkeeps⟩ := State.clearOtn_of_middle (f := { f with bip := bip }) h0 h15 hcount hseals htag
      rw [hsealRt, htakes.placed_areaBytes] at hgrown
      refine runs_of_done hexec ⟨hplace _ (hkeeps.frame .otn (by decide)), ?_, ?_, ?_, ?_⟩
      · rw [State.closed_sealRt, hgrown]
        rfl
      · rw [State.closed_sealRt, hgrown]
        rfl
      · rw [State.closed_sealRt, hgrown]
        rfl
      · exact (State.closed_assocs _).trans ((hkeeps.frame .assocs (by decide)).trans hassocs)
    case cipher =>
      rw [hside, if_pos rfl] at hexec
      rw [← hsealRt] at hcount
      obtain ⟨hframes, hheld⟩ := State.cipherOtn_of_middle (f := { f with bip := bip }) h0 hcount
      have hkeeps := State.cipherOtn_keeps (s := (s.at cyc).placed p f occs) (p := p) (act := 0)
        (f := { f with bip := bip }) (i := i)
      rw [hsealRt] at hframes hheld
      refine runs_of_done hexec ⟨hplace _ (hkeeps.frame .otn (by decide)), ?_, ?_, ?_⟩
      · rw [State.closed_sealRt, hframes, List.map_append]
        rfl
      · rw [State.closed_sealRt, hheld]
      · exact (State.closed_assocs _).trans ((hkeeps.frame .assocs (by decide)).trans hassocs)

end Sys2Proof.Machine
end

section
/-! SUPPORT. A clear frame that passes every check (R128, R160, R161, R163, R205, R321): the checks, the number that its
association assigns, and the frame that enters the Hearth. -/

namespace Sys2Proof.Machine

open Sys2Proof

variable {s t u : State} {f : RxFrame} {a p n m : Nat}

/-! ### Choosing the association (R128, R215) -/

/-- A frame of a port in point-to-point mode that no bypass entry may take goes to its port's association (R128). -/
theorem State.clearFrame_of_unmatched
    (hbyp : hasEtherType f.bytes macsecType = true ∨ (s.atFirst f).bypassFor f.port f.bytes = none)
    (hmode : (s.atFirst f).rd (F.fwdPmapMode.at f.port) = 1) :
    s.clearFrame f = s.sealOn f ((s.atFirst f).rd (F.fwdPmapP2pAssoc.at f.port)) := by
  rcases hbyp with hsec | hbyp
  · have hclass : s.classify (s.atFirst f) f.port f.bytes =
        (s, some ((s.atFirst f).rd (F.fwdPmapP2pAssoc.at f.port))) := by
      unfold State.classify
      rw [hmode]
      rfl
    unfold State.clearFrame
    dsimp only
    rw [if_pos hsec, hclass]
  · exact State.clearFrame_of_pointToPoint hbyp hmode

/-! ### Checks 2 to 7 of R321 -/

theorem State.admitQueue_of_takes {q : Nat} (h : s.takes q = true) : s.admitQueue q = (s, some .onDie) := by
  simp only [State.takes, Bool.and_eq_true, Bool.not_eq_true', decide_eq_true_eq] at h
  obtain ⟨⟨⟨hport, hconforms⟩, hfits⟩, hfree⟩ := h
  simp [State.admitQueue, hport, hconforms, hfits, hfree]

theorem State.creditCheck_of_credit {c : Nat} (h : 0 < (s.chim c).credit) : s.creditCheck c = (s, true) := if_pos h

theorem State.pnCheck_of_claimed (hclaimed : (s.asn a).nextPn < (s.asn a).pnMark)
    (hlimit : (s.asn a).nextPn < (s.asn a).hardLimit) : s.pnCheck a = (s, true) := by
  unfold State.pnCheck
  dsimp only
  rw [if_neg (Nat.not_le.mpr hlimit), if_neg (Nat.not_le.mpr hclaimed)]

/-- A clear frame of port `p` passes every check on association `a` (R152, R129, R321). -/
structure State.SealsOn (s : State) (p a : Nat) : Prop where
  admitting : s.admitting = true
  state : (s.asn a).state = .live ∨ (s.asn a).state = .rolling
  side : s.sameSide p (s.asn a).queue = false
  takes : s.takes (s.asn a).queue = true
  credit : 0 < (s.chim (p / 18)).credit
  claimed : (s.asn a).nextPn < (s.asn a).pnMark
  limit : (s.asn a).nextPn < (s.asn a).hardLimit

/-- The association of a frame that passes every check holds keys (R153). -/
theorem State.SealsOn.keyed (h : s.SealsOn p a) : (s.asn a).state.keyless = false := by
  rcases h.state with hlive | hrolling
  · rw [hlive]
    rfl
  · rw [hrolling]
    rfl

/-- A queue of a clear-side port leads to the other side unless its own port is off (R129). -/
theorem State.sameSide_of_clear {q : Nat} (hside : s.portCipher p = false)
    (h : s.portOn (s.queuePort q) = true → s.portCipher (s.queuePort q) = true) : s.sameSide p q = false := by
  rw [State.sameSide, hside, Bool.and_eq_false_iff, decide_eq_false_iff_not]
  cases hon : s.portOn (s.queuePort q) with
  | false => exact .inl rfl
  | true => exact .inr (by simp [h hon])

/-- Checks 2 to 5 of R321 look at the registers, the ports and the Hearth. -/
theorem State.takes_congr (hregs : u.regs = s.regs) (hports : u.ports = s.ports) (hhearth : u.hearth = s.hearth) (q : Nat) :
    u.takes q = s.takes q := by
  have htakes (x : State) :
      x.takes q = ({ ({} : State) with regs := x.regs, ports := x.ports, hearth := x.hearth } : State).takes q := rfl
  rw [htakes u, htakes s, hregs, hports, hhearth]

theorem State.passedOn_regs : (s.passedOn f).regs = s.regs := by
  unfold State.passedOn onlyIf
  split
  · rw [State.count_regs, State.count_regs]
  · rfl

/-- The checks do not depend on what the MAC counts. -/
theorem State.SealsOn.passedOn (h : s.SealsOn p a) : (s.passedOn f).SealsOn p a := by
  have hkeeps : Keeps (mask [.rep]) s (s.passedOn f) := State.passedOn_keeps
  have hchim : (s.passedOn f).chim (p / 18) = s.chim (p / 18) :=
    congrArg (fun m => nget ({} : ChimRt) m (p / 18)) (hkeeps.frame .chims (by decide))
  have hside (q : Nat) : (s.passedOn f).sameSide p q = s.sameSide p q := by
    have hqueue : (s.passedOn f).queuePort q = s.queuePort q := by
      simp only [State.queuePort, State.svcPort, State.queueSvc, hkeeps.rd_of_rep]
    have hon : (s.passedOn f).portOn (s.queuePort q) = s.portOn (s.queuePort q) := by
      simp only [State.portOn, State.on, hkeeps.rd_of_rep]
    rw [State.sameSide, hqueue, hon, State.passedOn_portCipher, State.passedOn_portCipher]
    rfl
  have htakes (q : Nat) : (s.passedOn f).takes q = s.takes q :=
    State.takes_congr State.passedOn_regs (hkeeps.frame .ports (by decide)) (hkeeps.frame .hearth (by decide)) q
  exact
    { admitting := by rw [hkeeps.admitting, h.admitting]
      state := by simpa only [hkeeps.asn] using h.state
      side := by rw [hside, hkeeps.asn, h.side]
      takes := by rw [htakes, hkeeps.asn, h.takes]
      credit := by simpa only [hchim] using h.credit
      claimed := by simpa only [hkeeps.asn] using h.claimed
      limit := by simpa only [hkeeps.asn] using h.limit }

/-! ### The number assigned (R160, R161, R163) -/

/-- From `s` to `t`, entry `a` has come to the next number `n`; its state and its keys, and every other entry, are as before. -/
structure Numbered (a n : Nat) (s t : State) : Prop where
  nextPn : (t.asn a).nextPn = n
  state : (t.asn a).state = (s.asn a).state
  ph0 : (t.asn a).ph0 = (s.asn a).ph0
  ph1 : (t.asn a).ph1 = (s.asn a).ph1
  others : ∀ b, b ≠ a → t.asn b = s.asn b

theorem Numbered.of_assocs (h : t.assocs = s.assocs) (hn : (s.asn a).nextPn = n) : Numbered a n s t := by
  have hasn (b : Nat) : t.asn b = s.asn b := congrArg (fun m : AsnTable => m.get b) h
  exact ⟨by rw [hasn, hn], by rw [hasn], by rw [hasn], by rw [hasn], fun b _ => hasn b⟩

theorem Numbered.refl (hn : (s.asn a).nextPn = n) : Numbered a n s s := .of_assocs rfl hn

theorem Numbered.trans (h : Numbered a n s t) (h' : Numbered a m t u) : Numbered a m s u :=
  ⟨h'.nextPn, h'.state.trans h.state, h'.ph0.trans h.ph0, h'.ph1.trans h.ph1,
    fun b hb => (h'.others b hb).trans (h.others b hb)⟩

/-- An operation that leaves the associations. -/
theorem Numbered.next (h : Numbered a n s t) (hassocs : u.assocs = t.assocs) : Numbered a n s u :=
  h.trans (.of_assocs hassocs h.nextPn)

/-- A write of an entry that holds keys (R153). -/
theorem Numbered.setAsn {e : Assoc} (hkeyed : (s.asn a).state.keyless = false) (hstate : e.state = (s.asn a).state)
    (hph0 : e.ph0 = (s.asn a).ph0) (hph1 : e.ph1 = (s.asn a).ph1) : Numbered a e.nextPn s (s.setAsn a e) := by
  have hsettled : e.settled = e := by rw [Assoc.settled, hstate, if_neg (by simp [hkeyed])]
  refine ⟨?_, ?_, ?_, ?_, fun b hb => State.setAsn_asn_ne s e hb⟩ <;> rw [State.setAsn_asn_self, hsettled] <;> assumption

theorem Numbered.claim (hkeyed : (s.asn a).state.keyless = false) : Numbered a (s.asn a).nextPn s (s.claim a) := by
  unfold State.claim
  dsimp only
  split
  · exact .refl rfl
  split
  · exact Numbered.setAsn (e := { s.asn a with pnMark := (s.asn a).pnMark + 2 ^ 24 }) hkeyed rfl rfl rfl
  · exact (Numbered.setAsn (e := { s.asn a with claimPending := true }) hkeyed rfl rfl rfl).next rfl

theorem Numbered.softTest (hkeyed : (s.asn a).state.keyless = false) : Numbered a (s.asn a).nextPn s (s.softTest a) := by
  unfold State.softTest
  dsimp only
  split
  · exact (Numbered.setAsn (e := { s.asn a with softHit := true }) hkeyed rfl rfl rfl).next rfl
  · exact .refl rfl

/-- The claim that half a block before the mark asks for (R161). -/
def State.claimed (s : State) (a : Nat) : State :=
  if (s.asn a).nextPn + 2 ^ 23 = (s.asn a).pnMark then s.claim a else s

/-- Number `n` of entry `a` assigned, and the limits tested (R160, R163). -/
def State.passNumber (s : State) (a n limit : Nat) : State :=
  let s := (s.modAsn a (fun e => { e with nextPn := n + 1 })).softTest a
  if n + 1 = limit then (s.asnEvent F.asnEvtHardHit a).schedule (s.tick + 1) (.asnDead a 3) else s

theorem State.assignPn_eq (s : State) (a : Nat) :
    s.assignPn a = ((s.claimed a).passNumber a (s.asn a).nextPn (s.asn a).hardLimit, (s.asn a).nextPn) := by
  simp only [State.assignPn, State.claimed, State.passNumber]

theorem Numbered.claimed (hkeyed : (s.asn a).state.keyless = false) : Numbered a (s.asn a).nextPn s (s.claimed a) := by
  unfold State.claimed
  split
  · exact .claim hkeyed
  · exact .refl rfl

theorem Numbered.passNumber (limit : Nat) (hkeyed : (s.asn a).state.keyless = false) :
    Numbered a (n + 1) s (s.passNumber a n limit) := by
  have hstepped : Numbered a (n + 1) s (s.modAsn a (fun e => { e with nextPn := n + 1 })) :=
    Numbered.setAsn (e := { s.asn a with nextPn := n + 1 }) hkeyed rfl rfl rfl
  have hsoft := Numbered.softTest (by rw [hstepped.state, hkeyed])
  rw [hstepped.nextPn] at hsoft
  have htested := hstepped.trans hsoft
  unfold State.passNumber
  dsimp only
  split
  · exact htested.next ((State.schedule_assocs ..).trans (State.asnEvent_keeps.frame .assocs (by decide)))
  · exact htested

/-- A number once assigned is not assigned again (R160). -/
theorem Numbered.assignPn (hkeyed : (s.asn a).state.keyless = false) :
    Numbered a ((s.asn a).nextPn + 1) s (s.assignPn a).1 := by
  have hclaimed := Numbered.claimed hkeyed
  rw [State.assignPn_eq]
  exact hclaimed.trans (.passNumber _ (by rw [hclaimed.state, hkeyed]))

/-! ### The sealed frame (R205, R208, R320, R421) -/

/-- Clear frame `f` with what R421 does to its bytes. -/
def State.stamped (s : State) (f : RxFrame) : State × List Byte :=
  let mode := (s.atFirst f).ptpMode f.port
  let counted := s.ptpCount mode f.bytes
  counted.ptpCarry mode (counted.timeBefore f.age) f.bytes

/-- Clear frame `f` numbered and its slots charged on association `a` (R160, R177). -/
def State.charged (s : State) (f : RxFrame) (a : Nat) : State :=
  (((s.stamped f).1.assignPn a).1.chargeFrame f.port ((s.asn a).vlanClear && isTagged (s.stamped f).2) (s.asn a).confOff
    f.bytes.length).count .asn 0 1

/-- Clear frame `f` with the bytes `bs`, sealed on association `a` with entry `e` under number `pn`. -/
def sealedAs (f : RxFrame) (a : Nat) (e : Assoc) (pn : Nat) (bs : List Byte) (tick : Nat) : HFrame :=
  { id := 0, kind := .sealed, queue := e.queue, port := f.port, assoc := a, phase := e.txPhase, epoch := e.tx.epoch, pn := pn
    bytes := sealFrame e.tx.key (frameIv e.tx.initiator pn e.tx.salt) e.txPhase e.vlanClear e.confOff pn e.sciTx bs
    cells := cellsOf (f.bytes.length + 32), readyAt := tick + 2 }

/-- Clear frame `f` sealed under the next number of association `a`. -/
def State.sealedOf (s : State) (f : RxFrame) (a : Nat) : HFrame :=
  sealedAs f a (s.asn a) (s.asn a).nextPn (s.stamped f).2 s.tick

theorem State.stamped_keeps : Keeps (mask [.rep]) s (s.stamped f).1 := State.ptpCount_keeps.trans State.ptpCarry_keeps.fst

theorem State.charged_keeps_numbered : Keeps (mask [.rep, .chims]) ((s.stamped f).1.assignPn a).1 (s.charged f a) :=
  State.chargeFrame_keeps.trans (State.count_keeps.mono (by rfl))

theorem State.charged_keeps : Keeps (mask [.sched, .rep, .assocs, .chims, .pair]) s (s.charged f a) :=
  ((State.stamped_keeps.mono (by rfl)).trans (State.assignPn_keeps.fst.mono (by rfl))).trans
    (State.charged_keeps_numbered.mono (by rfl))

theorem Numbered.charged (hkeyed : (s.asn a).state.keyless = false) :
    Numbered a ((s.asn a).nextPn + 1) s (s.charged f a) := by
  have hstamped : Keeps (mask [.rep]) s (s.stamped f).1 := State.stamped_keeps
  have hnumbered := Numbered.assignPn (s := (s.stamped f).1) (a := a) (by rw [hstamped.asn, hkeyed])
  rw [hstamped.asn] at hnumbered
  exact ((Numbered.of_assocs (hstamped.frame .assocs (by decide)) rfl).trans hnumbered).next
    (State.charged_keeps_numbered.frame .assocs (by decide))

/-- A frame that passes every check is numbered, charged and stored sealed. -/
theorem State.sealOn_of_seals (h : s.SealsOn f.port a) :
    s.sealOn f a = (s.charged f a).storeFrame (s.sealedOf f a) f.bytes.length := by
  have hseals : ¬ (!s.admitting || !decide ((s.asn a).state = .live ∨ (s.asn a).state = .rolling)) = true := by
    simp [h.admitting, h.state]
  have htick : (s.charged f a).tick = s.tick := State.charged_keeps.frame .tick (by decide)
  have hpn : ((s.stamped f).1.assignPn a).2 = (s.asn a).nextPn := by
    rw [State.assignPn_eq, (State.stamped_keeps (f := f)).asn]
  rw [State.sealedOf, ← hpn, ← htick]
  unfold State.sealOn
  dsimp only
  rw [if_neg hseals, if_neg (by simp [h.side]), State.admitQueue_of_takes h.takes]
  dsimp only
  rw [State.creditCheck_of_credit h.credit]
  dsimp only
  rw [State.pnCheck_of_claimed h.claimed h.limit]
  rfl

/-! ### What sealing says of the state before the MAC -/

theorem State.ptpCarry_bytes (s t : State) (mode time : Nat) (bs : List Byte) :
    (s.ptpCarry mode time bs).2 = (t.ptpCarry mode time bs).2 := by
  unfold State.ptpCarry
  split
  · split <;> rfl
  · rfl

theorem Keeps.timeBefore (h : Keeps (mask [.rep]) s u) (age : Nat) : u.timeBefore age = s.timeBefore age := by
  have htime : u.time = s.time := h.frame .time (by decide)
  have hcycle : u.cycle = s.cycle := h.frame .cycle (by decide)
  simp only [State.timeBefore, State.timeNow, State.timeInc, h.rd_of_rep, htime, hcycle]

theorem State.stamped_bytes : (s.stamped f).2 =
    (s.ptpCarry ((s.atFirst f).ptpMode f.port) (s.timeBefore f.age) f.bytes).2 := by
  unfold State.stamped
  dsimp only
  rw [State.ptpCarry_bytes _ s, Keeps.timeBefore State.ptpCount_keeps]

/-- The sealed frame does not depend on the reporting channels. -/
theorem Keeps.sealedOf (h : Keeps (mask [.rep]) s u) (f : RxFrame) (a : Nat) : u.sealedOf f a = s.sealedOf f a := by
  have htick : u.tick = s.tick := h.frame .tick (by decide)
  have hmode : (u.atFirst f).ptpMode f.port = (s.atFirst f).ptpMode f.port := by
    simp only [State.ptpMode, h.atFirst_rd]
  simp only [State.sealedOf, State.stamped_bytes, h.asn, htick, hmode, h.timeBefore, State.ptpCarry_bytes u s]

/-- A frame stored goes behind those that the Hearth holds, under the Hearth's next number (R320). -/
theorem State.storeFrame_frames (x : HFrame) (bytes : Nat) :
    (s.storeFrame x bytes).hearth.frames = s.hearth.frames ++ [{ x with id := s.hearth.nextId }] := by
  have hcharged (q n : Nat) : (s.chargePolicer q n).hearth.frames = s.hearth.frames ∧
      (s.chargePolicer q n).hearth.nextId = s.hearth.nextId := by
    unfold State.chargePolicer
    split <;> exact ⟨rfl, rfl⟩
  have hspilled (c : Bool) (t : State) : (onlyIf c (fun s => s.count .hrt 0 9) t).hearth = t.hearth := by
    unfold onlyIf
    split
    · exact State.count_hearth ..
    · rfl
  simp only [State.storeFrame, State.modHearth_hearth, hspilled, State.count_hearth, hcharged]

end Sys2Proof.Machine
end

section
/-! PROOF. The statement on clear frames that are sealed. -/

namespace Sys2Proof.Machine

open Sys2Proof

/-- Settles O24: the frame passes the MAC and every check of R321, so that its association numbers it and it is stored sealed. -/
theorem clearFramesAreSealed : Obligations.ClearFramesAreSealed := by
  unfold Obligations.ClearFramesAreSealed
  intro s f cyc v hv a htakes hside hbyp hmode ha hadmit hstate hqueue hother hcredit hclaimed hlimit
  have hpassed : Keeps (mask [.rep]) (s.at cyc) ((s.at cyc).passedOn f) := State.passedOn_keeps
  have hseals : (s.at cyc).SealsOn f.port a :=
    ⟨hadmit, hstate, State.sameSide_of_clear hside hother, hqueue, hcredit, hclaimed, hlimit⟩
  have hseals := hseals.passedOn (f := f)
  have hexec := execFrameReceived_of_clear (cyc := cyc) htakes hside
  generalize (s.at cyc).passedOn f = u at hpassed hseals hexec
  rw [hv, ← hpassed.atFirst_bypassFor] at hbyp
  rw [hv, ← hpassed.atFirst_rd] at hmode ha
  rw [State.clearFrame_of_unmatched hbyp hmode, ← ha, State.sealOn_of_seals hseals, hpassed.sealedOf] at hexec
  have hcharged : Keeps (mask [.sched, .rep, .assocs, .chims, .pair]) (s.at cyc) (u.charged f a) :=
    (hpassed.mono (by rfl)).trans State.charged_keeps
  have hstored : Keeps (mask [.rep, .hearth]) (u.charged f a)
      ((u.charged f a).storeFrame ((s.at cyc).sealedOf f a) f.bytes.length) := State.storeFrame_keeps
  have hall : Keeps (mask [.sched, .rep, .assocs, .chims, .hearth, .pair]) (s.at cyc)
      ((u.charged f a).storeFrame ((s.at cyc).sealedOf f a) f.bytes.length) :=
    (hcharged.mono (by rfl)).trans (hstored.mono (by rfl))
  have hnumbered := Numbered.charged (f := f) hseals.keyed
  rw [hpassed.asn] at hnumbered
  obtain ⟨hnext, -, hph0, hph1, hothers⟩ := ((Numbered.of_assocs (hpassed.frame .assocs (by decide)) rfl).trans
    hnumbered).next ((State.closed_assocs _).trans (hstored.frame .assocs (by decide)))
  refine runs_of_done hexec ⟨?_, hnext, hph0, hph1, hothers, ?_, State.closed_regsBut fun k _ => ?_⟩
  · have hhearth : (u.charged f a).hearth = s.hearth := hcharged.frame .hearth (by decide)
    rw [State.closed_hearth, State.storeFrame_frames, hhearth, State.sealedOf, State.stamped_bytes, hv]
    rfl
  · exact (State.closed_fwd _).trans (hall.frame .fwd (by decide))
  · exact (hall.word (by simp)).trans (State.at_word s cyc k)

end Sys2Proof.Machine
end

section
/-! SUPPORT. The forwarding window (R142, R144, R147): the commands that land in it, and what they do to the table as they
complete. -/

namespace Sys2Proof.Machine

open Sys2Proof

variable {s : State} {cyc : Cyc} {c : Instr} {g : State → State} {k : FwdCmd} {e : FwdEnt} {x : Option FwdEnt} {i r : Nat}

/-! ### Commands that land (R52, R142, R393) -/

theorem State.fwdLand_of_free (hr : s.ready .fwd = true) (hbusy : s.rd F.fwdWinStatBusy = 0) : s.fwdLand g = g s := by
  have hfree : ¬ s.on F.fwdWinStatBusy = true := by simp [State.on, hbusy]
  rw [State.fwdLand, State.gate_of_ready hr, if_neg hfree]

theorem State.fwdLand_of_busy (hr : s.ready .fwd = true) (hbusy : s.rd F.fwdWinStatBusy = 1) :
    s.fwdLand g = s.wr F.fwdWinStatCmdLost 1 := by
  have hon : s.on F.fwdWinStatBusy = true := by simp [State.on, hbusy]
  rw [State.fwdLand, State.gate_of_ready hr, if_pos hon]

theorem State.fwdStartActive_of_active (h : s.effMode ≠ 5) : s.fwdStartActive k = s.fwdStart k := if_neg h

theorem State.fwdStartActive_of_standby (h : s.effMode = 5) : s.fwdStartActive k = s.fwdResult 6 := if_pos h

theorem State.landDomain_of_standby (n : Nat) (h : s.effMode = 5) : s.landDomain n = s.fwdResult 6 := by
  unfold State.landDomain
  dsimp only
  rw [if_pos (by simp [h])]

/-- A scheduled act is no DOMAIN_WRITE to domain `d`. -/
def Sched.sparesDomain (d : Nat) (e : Sched) : Bool :=
  match e.act with
  | .domWrite d' _ => decide (d' ≠ d)
  | _ => true

/-- A DOMAIN_WRITE whose key no other domain will have, with none pending for its domain, waits for its edge (R126). -/
theorem State.landDomain_of_clear (n : Nat) (hmode : s.effMode ≠ 5)
    (hclash : domClash (s.domsAhead (s.fwdCapture 7).domain) (s.fwdCapture 7).domain (s.fwdCapture 7).dom = false)
    (hnone : s.sched.all (Sched.sparesDomain (s.fwdCapture 7).domain) = true) :
    s.landDomain n = (s.schedule (s.edgeFor n)
      (.domWrite (s.fwdCapture 7).domain (s.fwdCapture 7).dom)).fwdStart (s.fwdCapture 7) := by
  have hsched : s.sched.filter (Sched.sparesDomain (s.fwdCapture 7).domain) = s.sched :=
    List.filter_eq_self.mpr (List.all_eq_true.mp hnone)
  have hland : s.landDomain n = if s.effMode = 5 || domClash (s.domsAhead (s.fwdCapture 7).domain)
        (s.fwdCapture 7).domain (s.fwdCapture 7).dom then s.fwdResult 6
      else (({ s with sched := s.sched.filter (Sched.sparesDomain (s.fwdCapture 7).domain) } : State).schedule (s.edgeFor n)
        (.domWrite (s.fwdCapture 7).domain (s.fwdCapture 7).dom)).fwdStart (s.fwdCapture 7) := rfl
  rw [hland, if_neg (by simp [hmode, hclash]), hsched]

/-- The commands of the window, each given its operands. -/
def windowInstrs (cyc : Cyc) (port : Byte) (inclStatic : Bool) : List Instr :=
  [.fwdSearch cyc, .fwdNext cyc, .fwdInsert cyc, .fwdDelete cyc, .flushByPort port inclStatic cyc, .domainRead cyc,
    .domainWrite cyc, .fwdUnknownOp cyc]

/-- Every command of the window lands in it. -/
theorem exec_windowInstr {port : Byte} {inclStatic : Bool} (hc : c ∈ windowInstrs cyc port inclStatic) :
    ∃ g, exec c s = done ((s.at cyc).fwdLand g) := by
  simp only [windowInstrs, List.mem_cons, List.not_mem_nil, or_false] at hc
  rcases hc with rfl | rfl | rfl | rfl | rfl | rfl | rfl | rfl <;> exact ⟨_, rfl⟩

/-- A command lands while another runs (R142). -/
theorem window_lost (hr : s.ready .fwd = true) (hbusy : s.rd F.fwdWinStatBusy = 1)
    (hexec : exec c s = done ((s.at cyc).fwdLand g)) :
    Runs c s (fun t => t.rd F.fwdWinStatCmdLost = 1 ∧ t.fwd = s.fwd ∧ t.sched = s.sched ∧
      s.regsBut t [keyOf F.fwdWinStatCmdLost]) := by
  rw [State.fwdLand_of_busy (s := s.at cyc) hr hbusy] at hexec
  refine runs_of_done hexec ⟨?_, by simp, by simp, State.closed_regsBut (s.at_wr_regsBut cyc _ _)⟩
  rw [State.closed_rd, State.rd_wr_of_lt 0 0 (by decide) (by decide)]

@[simp] theorem State.fwdStart_fwd : (s.fwdStart k).fwd = { s.fwd with cmd := some k } := rfl
@[simp] theorem State.fwdStart_sched : (s.fwdStart k).sched = s.sched := rfl

theorem State.fwdStart_word (key : RegKey) : (s.fwdStart k).word key = (s.wr F.fwdWinStatBusy 1).word key := rfl

theorem State.fwdStart_busy : (s.fwdStart k).rd F.fwdWinStatBusy = 1 := by
  rw [State.rd, State.fwdStart_word]
  exact State.rd_wr_of_lt 0 0 (by decide) (by decide)

/-- A command starts, with its operands captured (R142). -/
theorem window_starts (hr : s.ready .fwd = true) (hbusy : s.rd F.fwdWinStatBusy = 0)
    (hexec : exec c s = done ((s.at cyc).fwdLand g)) (hg : g (s.at cyc) = (s.at cyc).fwdStart k) :
    Runs c s (fun t => t.fwd = { s.fwd with cmd := some k } ∧ t.rd F.fwdWinStatBusy = 1 ∧
      s.regsBut t [keyOf F.fwdWinStatBusy]) := by
  rw [State.fwdLand_of_free (s := s.at cyc) hr hbusy, hg] at hexec
  refine runs_of_done hexec ⟨?_, ?_, State.closed_regsBut (State.regsBut_of_word State.fwdStart_word (s.at_wr_regsBut cyc _ _))⟩
  · rw [State.closed_fwd, State.fwdStart_fwd, State.at_fwd]
  · rw [State.closed_rd, State.fwdStart_busy]

/-! ### The window's result (R147) -/

theorem State.fwdResult_result (h : r < 8) : (s.fwdResult r).rd F.fwdWinStatResult = r :=
  State.rd_wr_of_lt 0 0 (by decide) h

theorem State.fwdResult_busy : (s.fwdResult r).rd F.fwdWinStatBusy = 0 := by
  rw [State.fwdResult, State.rd_wr_apart _ _ _ _ _ _ (by decide) (by decide), State.rd_wr_of_lt 0 0 (by decide) (by decide)]

@[simp] theorem State.fwdResult_fwd : (s.fwdResult r).fwd = s.fwd := rfl
@[simp] theorem State.fwdResult_sched : (s.fwdResult r).sched = s.sched := rfl

theorem State.fwdResult_rd {f : Fld} (hbusy : Fld.apart F.fwdWinStatBusy f = true)
    (hresult : Fld.apart F.fwdWinStatResult f = true) : (s.fwdResult r).rd f = s.rd f := by
  rw [State.fwdResult, State.rd_wr_apart _ _ _ _ _ _ (by decide) hresult, State.rd_wr_apart _ _ _ _ _ _ (by decide) hbusy]

theorem State.fwdResult_regsBut : s.regsBut (s.fwdResult r) [keyOf F.fwdWinStatBusy] :=
  State.regsBut_wr _ (State.regsBut_wr _ (State.regsBut_refl s _) List.mem_cons_self) List.mem_cons_self

/-- A command is refused as it lands: nothing but the window's result changes (R126, R142, R393). -/
theorem window_refuses (hr : s.ready .fwd = true) (hbusy : s.rd F.fwdWinStatBusy = 0)
    (hexec : exec c s = done ((s.at cyc).fwdLand g)) (hg : g (s.at cyc) = (s.at cyc).fwdResult 6) :
    Runs c s (fun t => t.fwd = s.fwd ∧ t.sched = s.sched ∧ t.rd F.fwdWinStatResult = 6 ∧ t.rd F.fwdWinStatBusy = 0 ∧
      s.regsBut t [keyOf F.fwdWinStatBusy]) := by
  rw [State.fwdLand_of_free (s := s.at cyc) hr hbusy, hg] at hexec
  refine runs_of_done hexec ⟨by simp, by simp, ?_, ?_, ?_⟩
  · rw [State.closed_rd, State.fwdResult_result (by decide)]
  · rw [State.closed_rd, State.fwdResult_busy]
  · exact State.closed_regsBut (State.regsBut_trans (s.at_regsBut cyc _) State.fwdResult_regsBut)

/-! ### The entry returned (R142, R147) -/

@[simp] theorem State.fwdReturn_fwd : (s.fwdReturn x).fwd = s.fwd := State.fwdReturn_keeps.frame .fwd (by decide)

theorem State.fwdReturn_shows : (s.fwdReturn (some e)).rd F.fwdWinDataAssoc = e.assoc % 2 ^ 17 ∧
    (s.fwdReturn (some e)).rd F.fwdWinDataStatic = b2n e.isStatic ∧ (s.fwdReturn (some e)).rd F.fwdWinDataValid = 1 := by
  unfold State.fwdReturn
  dsimp only
  refine ⟨?_, ?_, State.rd_wr_of_lt 0 0 (by decide) (by decide)⟩
  · iterate 4 rw [State.rd_wr_apart _ _ _ _ _ _ (by decide) (by decide)]
    exact State.rd_wr_self _ _ _ _ (by decide)
  · iterate 3 rw [State.rd_wr_apart _ _ _ _ _ _ (by decide) (by decide)]
    exact State.rd_wr_flag _ _ _ (by decide) rfl

/-! ### Entries of the table (R134, R135, R139) -/

theorem forL_fwd {α : Type} {f : α → State → State} (h : ∀ a s, (f a s).fwd = s.fwd) (l : List α) :
    ∀ s, (forL l f s).fwd = s.fwd := by
  induction l with
  | nil => exact fun _ => rfl
  | cons a l ih => exact fun s => (ih (f a s)).trans (h a s)

/-- Invalidating the cached copies of a key changes the caches alone (R135). -/
theorem State.lrcInvalidate_fwd (domain mac : Nat) :
    ∃ cache, (s.lrcInvalidate domain mac).fwd = { s.fwd with cache := cache } :=
  ⟨_, forL_fwd (fun _ _ => State.count_fwd ..) _ _⟩

/-- An entry replaced: beside it, only the caches change. -/
theorem State.fwdPut_fwd (i : Nat) (x : Option FwdEnt) :
    ∃ cache, (s.fwdPut i x).fwd = { s.fwd with tab := nset none s.fwd.tab i x, cache := cache } := by
  unfold State.fwdPut
  split
  next e _ =>
    obtain ⟨cache, hcache⟩ := s.lrcInvalidate_fwd e.domain e.mac
    exact ⟨cache, by rw [State.fwdSet, hcache]⟩
  next => exact ⟨s.fwd.cache, rfl⟩

theorem State.fwdPut_tab : (s.fwdPut i x).fwd.tab = nset none s.fwd.tab i x := by
  obtain ⟨cache, hfwd⟩ := s.fwdPut_fwd i x
  rw [hfwd]

theorem State.fwdPut_cmd : (s.fwdPut i x).fwd.cmd = s.fwd.cmd := by
  obtain ⟨cache, hfwd⟩ := s.fwdPut_fwd i x
  rw [hfwd]

theorem State.fwdPut_doms : (s.fwdPut i x).fwd.doms = s.fwd.doms := by
  obtain ⟨cache, hfwd⟩ := s.fwdPut_fwd i x
  rw [hfwd]

theorem State.fwdPut_ent_self : (s.fwdPut i x).fwdEnt i = x := by
  rw [State.fwdEnt, State.fwdPut_tab, nget_nset_self]

theorem State.fwdPut_ent_ne {j : Nat} (hj : j ≠ i) : (s.fwdPut i x).fwdEnt j = s.fwdEnt j := by
  rw [State.fwdEnt, State.fwdPut_tab, nget_nset_ne _ _ _ _ hj]
  rfl

theorem State.fwdInsert_of_found (h : s.fwdFind e.domain e.mac = some i) : s.fwdInsert e = (s.fwdPut i (some e), 2) := by
  rw [State.fwdInsert, h]

theorem State.fwdInsert_of_free (habsent : s.fwdFind e.domain e.mac = none)
    (hfree : (s.fwdWays e.domain e.mac).find? (fun i => (s.fwdEnt i).isNone) = some i) :
    s.fwdInsert e = (s.fwdPut i (some e), 0) := by
  rw [State.fwdInsert, habsent]
  dsimp only
  rw [hfree]

/-! ### Commands that complete (R142) -/

/-- The state with the running command taken. -/
def State.cmdTaken (s : State) : State := { s with fwd := { s.fwd with cmd := none } }

@[simp] theorem State.cmdTaken_fwd : s.cmdTaken.fwd = { s.fwd with cmd := none } := rfl
@[simp] theorem State.cmdTaken_fwdEnt (i : Nat) : s.cmdTaken.fwdEnt i = s.fwdEnt i := rfl

@[simp] theorem State.cmdTaken_fwdWays (domain mac : Nat) : s.cmdTaken.fwdWays domain mac = s.fwdWays domain mac := by
  simp only [State.fwdWays, State.fwdBucket, State.cmdTaken_fwd]

@[simp] theorem State.cmdTaken_fwdFind (domain mac : Nat) : s.cmdTaken.fwdFind domain mac = s.fwdFind domain mac := by
  simp only [State.fwdFind, State.cmdTaken_fwdWays, State.cmdTaken_fwdEnt]

/-- The entry that an insert stores. -/
def FwdCmd.entry (k : FwdCmd) : FwdEnt := { mac := k.mac, domain := k.domain, assoc := k.assoc, isStatic := k.isStatic }

theorem exec_fwdCmdComplete (h : s.fwd.cmd = some k) : exec .fwdCmdComplete s = done (s.fwdComplete k) := by
  show execFwdCmdComplete s = _
  rw [execFwdCmdComplete, h]

theorem State.fwdComplete_of_found (hop : k.op = 1) (hfound : s.fwdFind k.domain k.mac = some i)
    (hent : s.fwdEnt i = some e) : s.fwdComplete k = (s.cmdTaken.fwdReturn (some e)).fwdResult 0 := by
  have hlookup : (s.cmdTaken.fwdFind k.domain k.mac).bind s.cmdTaken.fwdEnt = some e := by
    rw [State.cmdTaken_fwdFind, hfound, Option.bind_some, State.cmdTaken_fwdEnt, hent]
  simp only [State.fwdComplete, hop]
  split
  next e' hsome =>
    cases hsome.symm.trans hlookup
    rfl
  next hnone => cases hnone.symm.trans hlookup

theorem State.fwdComplete_of_absent (hop : k.op = 1) (habsent : s.fwdFind k.domain k.mac = none) :
    s.fwdComplete k = (s.cmdTaken.fwdReturn none).fwdResult 1 := by
  have hlookup : (s.cmdTaken.fwdFind k.domain k.mac).bind s.cmdTaken.fwdEnt = none := by
    rw [State.cmdTaken_fwdFind, habsent, Option.bind_none]
  simp only [State.fwdComplete, hop]
  split
  next e hsome => cases hsome.symm.trans hlookup
  next => rfl

theorem State.fwdComplete_of_insert (hop : k.op = 3) :
    s.fwdComplete k = (s.cmdTaken.fwdInsert k.entry).1.fwdResult (s.cmdTaken.fwdInsert k.entry).2 := by
  simp only [State.fwdComplete, hop]
  rfl

theorem State.fwdComplete_of_insert_over (hop : k.op = 3) (hfound : s.fwdFind k.domain k.mac = some i) :
    s.fwdComplete k = (s.cmdTaken.fwdPut i (some k.entry)).fwdResult 2 := by
  have hfind : s.cmdTaken.fwdFind k.entry.domain k.entry.mac = some i := by rw [State.cmdTaken_fwdFind, ← hfound, FwdCmd.entry]
  rw [State.fwdComplete_of_insert hop, State.fwdInsert_of_found hfind]

theorem State.fwdComplete_of_insert_free (hop : k.op = 3) (habsent : s.fwdFind k.domain k.mac = none)
    (hfree : (s.fwdWays k.domain k.mac).find? (fun i => (s.fwdEnt i).isNone) = some i) :
    s.fwdComplete k = (s.cmdTaken.fwdPut i (some k.entry)).fwdResult 0 := by
  have hfind : s.cmdTaken.fwdFind k.entry.domain k.entry.mac = none := by rw [State.cmdTaken_fwdFind, ← habsent, FwdCmd.entry]
  have hfirst : (s.cmdTaken.fwdWays k.entry.domain k.entry.mac).find? (fun i => (s.cmdTaken.fwdEnt i).isNone) = some i := by
    rw [State.cmdTaken_fwdWays, ← hfree, FwdCmd.entry]
    simp only [State.cmdTaken_fwdEnt]
  rw [State.fwdComplete_of_insert hop, State.fwdInsert_of_free hfind hfirst]

theorem State.fwdComplete_of_delete (hop : k.op = 4) (hfound : s.fwdFind k.domain k.mac = some i) :
    s.fwdComplete k = (s.cmdTaken.fwdPut i none).fwdResult 0 := by
  rw [← State.cmdTaken_fwdFind] at hfound
  simp only [State.fwdComplete, hop]
  split
  next j hsome =>
    cases hsome.symm.trans hfound
    rfl
  next hnone => cases hnone.symm.trans hfound

theorem State.fwdComplete_of_flush (hop : k.op = 5) : s.fwdComplete k = s.cmdTaken.fwdFlush k.port k.inclStatic := by
  simp only [State.fwdComplete, hop]
  rfl

/-- A search that finds its key returns the entry and its result, and changes nothing of the table. -/
theorem search_completes (hcmd : s.fwd.cmd = some k) (hop : k.op = 1) (hfound : s.fwdFind k.domain k.mac = some i)
    (hent : s.fwdEnt i = some e) : Runs .fwdCmdComplete s (fun t => t.fwd = { s.fwd with cmd := none } ∧
      t.rd F.fwdWinStatBusy = 0 ∧ t.rd F.fwdWinStatResult = 0 ∧ t.rd F.fwdWinDataAssoc = e.assoc % 2 ^ 17 ∧
      t.rd F.fwdWinDataStatic = b2n e.isStatic ∧ t.rd F.fwdWinDataValid = 1) := by
  have hexec := (exec_fwdCmdComplete hcmd).trans (congrArg done (State.fwdComplete_of_found hop hfound hent))
  obtain ⟨hassoc, hstatic, hvalid⟩ := State.fwdReturn_shows (s := s.cmdTaken) (e := e)
  refine runs_of_done hexec ⟨?_, ?_, ?_, ?_, ?_, ?_⟩
  · rw [State.closed_fwd, State.fwdResult_fwd, State.fwdReturn_fwd, State.cmdTaken_fwd]
  · rw [State.closed_rd, State.fwdResult_busy]
  · rw [State.closed_rd, State.fwdResult_result (by decide)]
  · rw [State.closed_rd, State.fwdResult_rd (by decide) (by decide), hassoc]
  · rw [State.closed_rd, State.fwdResult_rd (by decide) (by decide), hstatic]
  · rw [State.closed_rd, State.fwdResult_rd (by decide) (by decide), hvalid]

/-- An insert or a delete that completes with result `r`, entry `i` of the table then being `x`. -/
theorem entry_completes (hcmd : s.fwd.cmd = some k) (hdone : s.fwdComplete k = (s.cmdTaken.fwdPut i x).fwdResult r)
    (hr : r < 8) : Runs .fwdCmdComplete s (fun t => t.rd F.fwdWinStatResult = r ∧ t.rd F.fwdWinStatBusy = 0 ∧
      t.fwd.cmd = none ∧ t.fwdEnt i = x ∧ ∀ j, j ≠ i → t.fwdEnt j = s.fwdEnt j) := by
  have hexec : exec .fwdCmdComplete s = done ((s.cmdTaken.fwdPut i x).fwdResult r) := by
    rw [exec_fwdCmdComplete hcmd, hdone]
  have hent (j : Nat) : (((s.cmdTaken.fwdPut i x).fwdResult r).closed).fwdEnt j = (s.cmdTaken.fwdPut i x).fwdEnt j := by
    rw [State.fwdEnt, State.closed_fwd]
    rfl
  refine runs_of_done hexec ⟨?_, ?_, ?_, ?_, fun j hj => ?_⟩
  · rw [State.closed_rd, State.fwdResult_result hr]
  · rw [State.closed_rd, State.fwdResult_busy]
  · rw [State.closed_fwd, State.fwdResult_fwd, State.fwdPut_cmd]
    rfl
  · rw [hent, State.fwdPut_ent_self]
  · rw [hent, State.fwdPut_ent_ne hj]
    rfl

/-! ### FLUSH_BY_PORT (R144) -/

theorem mem_nset_default {α : Type} [DecidableEq α] {d : α} {m : NMap α} {i : Nat} {y : Nat × α}
    (h : y ∈ nset d m i d) : y ∈ m ∧ y.1 ≠ i := by
  rw [nset, mset, if_pos rfl] at h
  exact mem_mdel h

/-- What the table lists once entries `l` have been removed. -/
theorem mem_tab_of_removed (l : List Nat) : ∀ (s : State) (y : Nat × Option FwdEnt),
    y ∈ (forL l (fun i s => s.fwdPut i none) s).fwd.tab → y ∈ s.fwd.tab ∧ y.1 ∉ l := by
  induction l with
  | nil => exact fun s y hy => ⟨hy, List.not_mem_nil⟩
  | cons i l ih =>
    intro s y hy
    obtain ⟨htab, hl⟩ := ih (s.fwdPut i none) y hy
    rw [State.fwdPut_tab] at htab
    obtain ⟨hmem, hne⟩ := mem_nset_default htab
    exact ⟨hmem, List.not_mem_cons_of_ne_of_not_mem hne hl⟩

/-- A flush leaves no entry of its port but, where it spares them, static ones (R144). -/
theorem State.fwdFlush_tab {port : Nat} {all : Bool} {y : Nat × Option FwdEnt} (hy : y ∈ (s.fwdFlush port all).fwd.tab)
    (he : y.2 = some e) (hport : (s.asn e.assoc).port = port) : all = false ∧ e.isStatic = true := by
  unfold State.fwdFlush at hy
  extract_lets victims at hy
  rw [State.fwdResult_fwd, State.wr_fwd] at hy
  obtain ⟨hmem, hspared⟩ := mem_tab_of_removed victims s y hy
  have hvictim : ¬ (all || !e.isStatic) = true := by
    intro hall
    refine hspared (List.mem_filterMap.mpr ⟨y, hmem, ?_⟩)
    simp [he, hport, hall]
  simpa using hvictim

end Sys2Proof.Machine
end

section
/-! PROOF. The statement on the commands of the forwarding window. -/

namespace Sys2Proof.Machine

open Sys2Proof

/-- Settles O29: each command by whether the window is free and the mode takes it, and each that completes by what it finds in
the table. -/
theorem windowCommands : Obligations.WindowCommands := by
  unfold Obligations.WindowCommands
  refine ⟨fun s cyc port inclStatic hr hbusy => ⟨fun c hc => ?start, fun hmode c hc => ?active, fun hmode c hc => ?standby,
      fun hmode hclash hnone => ?domain, ?unknown⟩,
    fun s cyc port inclStatic hr hbusy c hc => ?lost,
    fun s k hcmd => ⟨fun i e hop hfound hent => ?found, fun hop habsent => ?absent, fun i hop hfound => ?replaced,
      fun i hop habsent hfree => ?free, fun i hop hfound => ?delete, fun hop => ?flush⟩⟩
  case start =>
    simp only [List.mem_cons, List.not_mem_nil, or_false] at hc
    rcases hc with rfl | rfl | rfl <;> exact window_starts hr hbusy rfl rfl
  case active =>
    have hstart (k : FwdCmd) : (s.at cyc).fwdStartActive k = (s.at cyc).fwdStart k := State.fwdStartActive_of_active hmode
    simp only [List.mem_cons, List.not_mem_nil, or_false] at hc
    rcases hc with rfl | rfl | rfl <;> exact window_starts hr hbusy rfl (hstart _)
  case standby =>
    have hrefuse (k : FwdCmd) : (s.at cyc).fwdStartActive k = (s.at cyc).fwdResult 6 := State.fwdStartActive_of_standby hmode
    have hrefused : Runs c s (fun t => t.fwd = s.fwd ∧ t.sched = s.sched ∧ t.rd F.fwdWinStatResult = 6 ∧
        t.rd F.fwdWinStatBusy = 0 ∧ s.regsBut t [keyOf F.fwdWinStatBusy]) := by
      simp only [List.mem_cons, List.not_mem_nil, or_false] at hc
      rcases hc with rfl | rfl | rfl | rfl
      · exact window_refuses hr hbusy rfl (hrefuse _)
      · exact window_refuses hr hbusy rfl (hrefuse _)
      · exact window_refuses hr hbusy rfl (hrefuse _)
      · exact window_refuses hr hbusy rfl (State.landDomain_of_standby (s := s.at cyc) cyc hmode)
    obtain ⟨t, hexec, hfwd, hsched, hresult, -, hregs⟩ := hrefused
    exact ⟨t, hexec, hfwd, hsched, hresult, hregs⟩
  case domain =>
    have hland := State.landDomain_of_clear (s := s.at cyc) cyc hmode hclash hnone
    have hexec : exec (.domainWrite cyc) s = done (((s.at cyc).schedule (s.edgeFor cyc)
        (.domWrite (s.fwdCapture 7).domain (s.fwdCapture 7).dom)).fwdStart (s.fwdCapture 7)) :=
      congrArg done ((State.fwdLand_of_free (s := s.at cyc) hr hbusy).trans hland)
    refine runs_of_done hexec ⟨?_, ?_, ?_⟩
    · rw [State.closed_fwd, State.fwdStart_fwd, State.schedule_fwd, State.at_fwd]
    · rw [State.plans, State.closed_sched, State.fwdStart_sched, State.schedule_sched, State.at_sched]
      rfl
    · rw [State.closed_rd, State.fwdStart_busy]
  case unknown =>
    obtain ⟨t, hexec, hfwd, -, hrest⟩ := window_refuses (c := .fwdUnknownOp cyc) hr hbusy rfl rfl
    exact ⟨t, hexec, hfwd, hrest⟩
  case lost =>
    obtain ⟨g, hexec⟩ := exec_windowInstr (s := s) hc
    exact window_lost hr hbusy hexec
  case found => exact search_completes hcmd hop hfound hent
  case absent =>
    have hexec := (exec_fwdCmdComplete hcmd).trans (congrArg done (State.fwdComplete_of_absent hop habsent))
    refine runs_of_done hexec ⟨?_, ?_⟩
    · rw [State.closed_fwd, State.fwdResult_fwd, State.fwdReturn_fwd, State.cmdTaken_fwd]
    · rw [State.closed_rd, State.fwdResult_result (by decide)]
  case replaced => exact entry_completes hcmd (State.fwdComplete_of_insert_over hop hfound) (by decide)
  case free =>
    obtain ⟨t, hexec, hresult, -, hrest⟩ :=
      entry_completes hcmd (State.fwdComplete_of_insert_free hop habsent hfree) (by decide)
    exact ⟨t, hexec, hresult, hrest⟩
  case delete =>
    obtain ⟨t, hexec, hresult, -, -, hrest⟩ :=
      entry_completes hcmd (State.fwdComplete_of_delete hop hfound) (by decide)
    exact ⟨t, hexec, hresult, hrest⟩
  case flush =>
    have hexec := (exec_fwdCmdComplete hcmd).trans (congrArg done (State.fwdComplete_of_flush hop))
    refine runs_of_done hexec ⟨?_, fun y hy e he hport => ?_⟩
    · rw [State.closed_rd]
      exact State.fwdResult_result (by decide)
    · rw [State.closed_fwd] at hy
      exact State.fwdFlush_tab (s := s.cmdTaken) hy he hport

end Sys2Proof.Machine
end

section
/-! SUPPORT. The learn caches (R135 to R137, R148): the start of a rehash, a flush, and where the end of a rehash puts each entry. -/

namespace Sys2Proof.Machine

open Sys2Proof

variable {s t u : State} {c : ChimneyNo} {cyc : Cyc}

/-! ### The start of a rehash, and a flush (R137, R148) -/

/-- A field that fills its register reads the register's word. -/
theorem ofNat_getF_word (w : Word) : BitVec.ofNat 32 (getF w 0 32) = w := by
  rw [getF, Nat.shiftRight_zero, Nat.mod_eq_of_lt w.isLt, BitVec.ofNat_toNat, BitVec.setWidth_eq]

theorem State.lrcRehash_of_busy (h : s.rd F.lrcStatRehashBusy c = 1) : s.lrcRehash c = s := if_pos (by simp [State.on, h])

/-- The cache of Chimney `c` loaded with LRC_SEED, its rehash under way (R137). -/
def State.rehashing (s : State) (c : Nat) : State :=
  { s.wr F.lrcStatRehashBusy 1 c with
    fwd := { s.fwd with cacheSeed := nset 0 s.fwd.cacheSeed c (s.word (keyOf F.lrcSeedSeed c)) } }

theorem State.rehashing_fwd (c : Nat) : (s.rehashing c).fwd =
    { s.fwd with cacheSeed := nset 0 s.fwd.cacheSeed c (s.word (keyOf F.lrcSeedSeed c)) } := rfl

theorem State.rehashing_word (c : Nat) (k : RegKey) :
    (s.rehashing c).word k = (s.wr F.lrcStatRehashBusy 1 c).word k := by
  have hregs : (s.rehashing c).regs = (s.wr F.lrcStatRehashBusy 1 c).regs := by simp only [State.rehashing]
  rw [State.word, hregs, State.word]

theorem State.rehashing_busy (c : Nat) : (s.rehashing c).rd F.lrcStatRehashBusy c = 1 := by
  rw [State.rd, State.rehashing_word]
  exact State.rd_wr_of_lt c 0 (by decide) (by decide)

theorem State.rehashing_regsBut (c : Nat) : s.regsBut (s.rehashing c) [keyOf F.lrcStatRehashBusy c] :=
  State.regsBut_of_word (State.rehashing_word c) (State.regsBut_wr _ (State.regsBut_refl s _) List.mem_cons_self)

theorem State.lrcRehash_of_idle (h : s.rd F.lrcStatRehashBusy c = 0) : s.lrcRehash c = s.rehashing c := by
  have hidle : ¬ s.on F.lrcStatRehashBusy c = true := by simp [State.on, h]
  have hseed : BitVec.ofNat 32 (s.rd F.lrcSeedSeed c) = s.word (keyOf F.lrcSeedSeed c) := ofNat_getF_word _
  unfold State.lrcRehash
  dsimp only
  rw [if_neg hidle, hseed]
  rfl

theorem execLrcRehash_of_ready (h : s.ready .lrc c = true) : execLrcRehash c cyc s = done ((s.at cyc).lrcRehash c) :=
  congrArg done (State.gate_of_ready (s := s.at cyc) h)

theorem execLrcFlush_of_ready (h : s.ready .lrc c = true) : execLrcFlush c cyc s = done ((s.at cyc).lrcFlush c) :=
  congrArg done (State.gate_of_ready (s := s.at cyc) h)

/-! ### The end of a rehash (R137) -/

/-- The candidate indices of a key in a cache lie in that cache. -/
theorem div_of_mem_lrcWays {seed : Word} {c domain mac i : Nat} (h : i ∈ lrcWays seed c domain mac) : i / 4096 = c := by
  have hways (b : Nat) (hb : b < 1024) (hi : i ∈ (List.range 4).map (fun w => c * 4096 + b * 4 + w)) : i / 4096 = c := by
    obtain ⟨w, hw, rfl⟩ := List.mem_map.mp hi
    have hlt : w < 4 := List.mem_range.mp hw
    omega
  have hmod (n : Nat) : n % 1024 < 1024 := Nat.mod_lt _ (by decide)
  unfold lrcWays at h
  dsimp only at h
  split at h
  · exact hways _ (hmod _) h
  · rcases List.mem_append.mp h with h | h
    · exact hways _ (hmod _) h
    · exact hways _ (hmod _) h

/-- An entry of the cache of Chimney `c` placed again under the seed in use, in its first free way; one that finds none is
counted (R137). -/
def State.lrcPlace (c : Nat) (y : Nat × FwdEnt) (s : State) : State :=
  match (lrcWays (s.lrcSeed c) c y.2.domain y.2.mac).find? (fun i => (nget none s.fwd.cache i).isNone) with
  | some i => { s with fwd := { s.fwd with cache := nset none s.fwd.cache i (some y.2) } }
  | none => s.count .lrc c 6

theorem execLrcRehashDone_of_busy (h : s.rd F.lrcStatRehashBusy c = 1) : execLrcRehashDone c s =
    done (((forL (s.lrcEntries c) (State.lrcPlace c) (s.lrcFlush c)).wr F.lrcStatRehashBusy 0 c).wr
      F.lrcStatInsertFail 0 c) := by
  unfold execLrcRehashDone
  rw [if_pos (by simp [State.on, h])]
  rfl

theorem State.lrcPlace_keeps {c : Nat} {y : Nat × FwdEnt} : Keeps (mask [.rep, .fwd]) s (s.lrcPlace c y) := by
  unfold State.lrcPlace
  split
  · exact Keeps.set_fwd.mono (by rfl)
  · exact State.count_keeps.mono (by rfl)

/-- Placing an entry changes one of its own ways, or no cache at all. -/
theorem State.lrcPlace_fwd (c : Nat) (y : Nat × FwdEnt) (s : State) : (s.lrcPlace c y).fwd = s.fwd ∨
    ∃ i ∈ lrcWays (s.lrcSeed c) c y.2.domain y.2.mac,
      (s.lrcPlace c y).fwd = { s.fwd with cache := nset none s.fwd.cache i (some y.2) } := by
  unfold State.lrcPlace
  split
  next i hfound => exact .inr ⟨i, List.mem_of_find?_eq_some hfound, rfl⟩
  next => exact .inl (State.count_fwd ..)

/-- From `s` to `t`, of the tables only the cache of Chimney `c` has changed, and each entry that it has come to list is one of
`l`, in a way that the seed gives it. -/
structure Replaced (c : Nat) (l : List FwdEnt) (s t : State) : Prop where
  fwd : t.fwd = { s.fwd with cache := t.fwd.cache }
  elsewhere : ∀ i, i / 4096 ≠ c → nget none t.fwd.cache i = nget none s.fwd.cache i
  placed : ∀ x ∈ t.fwd.cache, x.1 / 4096 = c → ∀ e, x.2 = some e →
    x ∈ s.fwd.cache ∨ x.1 ∈ lrcWays (s.lrcSeed c) c e.domain e.mac ∧ e ∈ l

section
variable {c : Nat} {l : List FwdEnt} {y : Nat × FwdEnt}

theorem Replaced.lrcSeed (h : Replaced c l s t) (d : Nat) : t.lrcSeed d = s.lrcSeed d := by
  rw [State.lrcSeed, h.fwd]
  rfl

theorem Replaced.of_fwd (h : t.fwd = s.fwd) : Replaced c l s t := by
  refine ⟨by rw [h], fun i _ => by rw [h], fun x hx _ e _ => .inl ?_⟩
  rwa [← h]

theorem Replaced.trans (h : Replaced c l s t) (h' : Replaced c l t u) : Replaced c l s u := by
  refine ⟨?_, fun i hi => (h'.elsewhere i hi).trans (h.elsewhere i hi), fun x hx hxc e he => ?_⟩
  · rw [h'.fwd, h.fwd]
  · rcases h'.placed x hx hxc e he with ht | hplaced
    · exact h.placed x ht hxc e he
    · rw [h.lrcSeed] at hplaced
      exact .inr hplaced

theorem Replaced.lrcPlace (hy : y.2 ∈ l) : Replaced c l s (s.lrcPlace c y) := by
  rcases s.lrcPlace_fwd c y with hsame | ⟨i, hi, hfwd⟩
  · exact .of_fwd hsame
  refine ⟨by rw [hfwd], fun j hj => ?_, fun x hx _ e he => ?_⟩
  · have hne : j ≠ i := by
      rintro rfl
      exact hj (div_of_mem_lrcWays hi)
    rw [hfwd]
    exact nget_nset_ne none none s.fwd.cache (some y.2) hne
  · rw [hfwd] at hx
    dsimp only [nset] at hx
    rcases mem_mset hx with rfl | hold
    · cases he
      exact .inr ⟨hi, hy⟩
    · exact .inl hold

theorem Replaced.forL_lrcPlace (ys : List (Nat × FwdEnt)) (hys : ∀ y ∈ ys, y.2 ∈ l) :
    ∀ s, Replaced c l s (forL ys (State.lrcPlace c) s) := by
  induction ys with
  | nil => exact fun s => .of_fwd rfl
  | cons y ys ih =>
    exact fun s => (Replaced.lrcPlace (hys y List.mem_cons_self)).trans
      (ih (fun z hz => hys z (List.mem_cons_of_mem y hz)) (s.lrcPlace c y))

/-- The entries of a cache, as the tables list them. -/
theorem mem_lrcEntries (h : y ∈ s.lrcEntries c) : (y.1, some y.2) ∈ s.fwd.cache ∧ y.1 / 4096 = c := by
  obtain ⟨z, hz, hzy⟩ := List.mem_filterMap.mp h
  split at hzy
  next hc =>
    obtain ⟨e, he, rfl⟩ := Option.map_eq_some_iff.mp hzy
    exact ⟨by rwa [← he], hc⟩
  next => cases hzy

end

/-- A map without some other keys reads as before. -/
theorem nget_filter {α : Type} {d : α} {m : NMap α} {p : Nat → Bool} {i : Nat} (hi : p i = true) :
    nget d (m.filter (fun e => p e.1)) i = nget d m i := by
  induction m with
  | nil => rfl
  | cons e m ih =>
    obtain ⟨j, v⟩ := e
    by_cases hj : p j = true
    · rw [List.filter_cons_of_pos (p := fun e : Nat × α => p e.1) hj]
      exact congrArg (fun x => if i = j then v else x) ih
    · have hne : i ≠ j := by
        rintro rfl
        exact hj hi
      rw [List.filter_cons_of_neg (p := fun e : Nat × α => p e.1) hj, ih]
      exact (if_neg hne).symm

/-- A flush leaves every other cache (R148). -/
theorem State.lrcFlush_nget {c i : Nat} (h : i / 4096 ≠ c) :
    nget none (s.lrcFlush c).fwd.cache i = nget none s.fwd.cache i :=
  nget_filter (p := fun j => decide (j / 4096 ≠ c)) (decide_eq_true h)

/-- A flush leaves no entry of its cache (R148). -/
theorem State.div_of_mem_lrcFlush {c : Nat} {x : Nat × Option FwdEnt} (h : x ∈ (s.lrcFlush c).fwd.cache) :
    x.1 / 4096 ≠ c := of_decide_eq_true (List.mem_filter.mp h).2

/-- The end of a rehash: every entry of the cache was there before, and stands where the seed in use places it (R137). -/
theorem rehash_completes (h : s.rd F.lrcStatRehashBusy c = 1) :
    Runs (.lrcRehashDone c) s (fun t => t.rd F.lrcStatRehashBusy c = 0 ∧ t.rd F.lrcStatInsertFail c = 0 ∧
      (∀ i, i / 4096 ≠ c.val → nget none t.fwd.cache i = nget none s.fwd.cache i) ∧
      (∀ x ∈ t.fwd.cache, x.1 / 4096 = c.val → ∀ e, x.2 = some e →
        x.1 ∈ lrcWays (s.lrcSeed c) c e.domain e.mac ∧ ∃ y ∈ s.fwd.cache, y.2 = some e ∧ y.1 / 4096 = c.val) ∧
      t.fwd.tab = s.fwd.tab ∧ t.lrcSeed c = s.lrcSeed c ∧ s.regsBut t [keyOf F.lrcStatRehashBusy c]) := by
  have hreplaced : Replaced c ((s.lrcEntries c).map (·.2)) (s.lrcFlush c)
      (forL (s.lrcEntries c) (State.lrcPlace c) (s.lrcFlush c)) :=
    Replaced.forL_lrcPlace _ (fun y hy => List.mem_map_of_mem hy) _
  have hkeeps : Keeps (mask [.rep, .fwd]) s (forL (s.lrcEntries c) (State.lrcPlace c) (s.lrcFlush c)) :=
    Keeps.forL (fun _ _ => State.lrcPlace_keeps) (State.lrcFlush_keeps.mono (by rfl))
  have hexec := execLrcRehashDone_of_busy h
  generalize forL (s.lrcEntries c) (State.lrcPlace c) (s.lrcFlush c) = u at hreplaced hkeeps hexec
  have hfwd : ((u.wr F.lrcStatRehashBusy 0 c).wr F.lrcStatInsertFail 0 c).closed.fwd = u.fwd := by
    rw [State.closed_fwd, State.wr_fwd, State.wr_fwd]
  refine runs_of_done hexec ⟨?_, ?_, fun i hi => ?_, fun x hx hxc e he => ?_, ?_, ?_, ?_⟩
  · rw [State.closed_rd, State.rd_wr_apart _ _ _ _ _ _ (by decide) (by decide), State.rd_wr_of_lt _ _ (by decide) (by decide)]
  · rw [State.closed_rd, State.rd_wr_of_lt _ _ (by decide) (by decide)]
  · rw [hfwd, hreplaced.elsewhere i hi, State.lrcFlush_nget hi]
  · rw [hfwd] at hx
    rcases hreplaced.placed x hx hxc e he with hflushed | ⟨hway, hold⟩
    · exact absurd hxc (State.div_of_mem_lrcFlush hflushed)
    · obtain ⟨y, hy, rfl⟩ := List.mem_map.mp hold
      obtain ⟨hlisted, hyc⟩ := mem_lrcEntries hy
      exact ⟨hway, _, hlisted, rfl, hyc⟩
  · rw [hfwd, hreplaced.fwd]
    rfl
  · rw [State.lrcSeed, hfwd]
    exact hreplaced.lrcSeed c
  · exact State.closed_regsBut (State.regsBut_wr _ (State.regsBut_wr _ (fun k _ => hkeeps.word (by simp))
      List.mem_cons_self) List.mem_cons_self)

end Sys2Proof.Machine
end

section
/-! SUPPORT. The aging of the table (R140): what an aging edge makes of each entry. -/

namespace Sys2Proof.Machine

open Sys2Proof

variable {s : State} {e : FwdEnt} {i : Nat}

/-- What an aging edge makes of an entry (R140). -/
def State.aged (s : State) (e : FwdEnt) : Option FwdEnt :=
  if e.isStatic = true ∨ (s.dom e.domain).ageMax = 0 then some e
  else if e.hit = true then some { e with age := 0, hit := false }
  else if (s.dom e.domain).ageMax ≤ min 15 (e.age + 1) then none
  else some { e with age := min 15 (e.age + 1) }

theorem State.aged_congr {t : State} (h : t.fwd.doms = s.fwd.doms) : t.aged = s.aged := by
  have hdom : t.dom = s.dom := funext fun d => congrArg (fun m => nget ({} : Domain) m d) h
  unfold State.aged
  rw [hdom]

@[simp] theorem State.fwdSet_ent_self (x : Option FwdEnt) : (s.fwdSet i x).fwdEnt i = x := nget_nset_self ..

theorem State.fwdSet_ent_ne {j : Nat} (x : Option FwdEnt) (hj : j ≠ i) : (s.fwdSet i x).fwdEnt j = s.fwdEnt j :=
  nget_nset_ne _ _ _ _ hj

theorem State.count_fwdEnt (p : Page) (inst sel n j : Nat) : (s.count p inst sel n).fwdEnt j = s.fwdEnt j := by
  rw [State.fwdEnt, State.count_fwd]
  rfl

/-- Aging entry `i` judges it alone (R140). -/
structure JudgedAlone (i : Nat) (s t : State) : Prop where
  doms : t.fwd.doms = s.fwd.doms
  judged : t.fwdEnt i = (s.fwdEnt i).bind s.aged
  others : ∀ j, j ≠ i → t.fwdEnt j = s.fwdEnt j

theorem State.ageEntry_judges (i : Nat) (s : State) : JudgedAlone i s (s.ageEntry i) := by
  unfold State.ageEntry
  split
  next habsent => exact ⟨rfl, by rw [habsent]; rfl, fun _ _ => rfl⟩
  next e hent =>
    have hjudged : (s.fwdEnt i).bind s.aged = s.aged e := by rw [hent, Option.bind_some]
    dsimp only
    split
    next hspared =>
      refine ⟨rfl, ?_, fun _ _ => rfl⟩
      rw [hjudged, State.aged, if_pos (by simpa using hspared), hent]
    next hspared =>
    split
    next hhit =>
      refine ⟨rfl, ?_, fun j hj => State.fwdSet_ent_ne _ hj⟩
      rw [hjudged, State.aged, if_neg (by simpa using hspared), if_pos hhit, State.fwdSet_ent_self]
    next hhit =>
    split
    next hold =>
      refine ⟨?_, ?_, fun j hj => ?_⟩
      · rw [State.count_fwd, State.fwdPut_doms]
      · rw [hjudged, State.aged, if_neg (by simpa using hspared), if_neg hhit, if_pos hold, State.count_fwdEnt,
          State.fwdPut_ent_self]
      · rw [State.count_fwdEnt, State.fwdPut_ent_ne hj]
    next hold =>
      refine ⟨rfl, ?_, fun j hj => State.fwdSet_ent_ne _ hj⟩
      rw [hjudged, State.aged, if_neg (by simpa using hspared), if_neg hhit, if_neg hold, State.fwdSet_ent_self]

/-- Each entry of a list without repetition is judged once, by the domains as they stand; every other is left (R140). -/
structure Judged (l : List Nat) (s t : State) : Prop where
  doms : t.fwd.doms = s.fwd.doms
  judged : ∀ i ∈ l, t.fwdEnt i = (s.fwdEnt i).bind s.aged
  others : ∀ i, i ∉ l → t.fwdEnt i = s.fwdEnt i

theorem Judged.forL_ageEntry {l : List Nat} (hl : l.Nodup) : ∀ s, Judged l s (forL l State.ageEntry s) := by
  induction l with
  | nil => exact fun s => ⟨rfl, fun i hi => absurd hi List.not_mem_nil, fun _ _ => rfl⟩
  | cons a l ih =>
    intro s
    obtain ⟨ha, hl⟩ := List.nodup_cons.mp hl
    have hfirst := s.ageEntry_judges a
    have hrest := ih hl (s.ageEntry a)
    refine ⟨hrest.doms.trans hfirst.doms, fun i hi => ?_, fun i hi => ?_⟩
    · rcases List.mem_cons.mp hi with rfl | hi
      · exact (hrest.others i ha).trans hfirst.judged
      · have hne : i ≠ a := fun h => ha (h ▸ hi)
        exact (hrest.judged i hi).trans (by rw [hfirst.others i hne, State.aged_congr hfirst.doms])
    · obtain ⟨hne, hi⟩ := List.ne_and_not_mem_of_not_mem_cons hi
      exact (hrest.others i hi).trans (hfirst.others i hne)

/-- An entry that the table does not list is free. -/
theorem State.fwdEnt_of_unlisted (h : i ∉ s.fwd.tab.map (·.1)) : s.fwdEnt i = none :=
  mget_of_unlisted fun _ hy hi => h (hi ▸ List.mem_map_of_mem hy)

/-- At an aging edge that has not been done, every entry of the table is judged once (R140). -/
theorem State.ageAll_judges (hedge : s.tick % max 1 (s.rd F.fwdCtlAgePeriod) = 0) (hnew : s.fwd.agedAt ≠ some s.tick)
    (hnodup : (s.fwd.tab.map (·.1)).Nodup) :
    s.ageAll.fwd.agedAt = some s.tick ∧ Judged (s.fwd.tab.map (·.1)) s s.ageAll := by
  have hjudged := Judged.forL_ageEntry hnodup s
  have htick : (forL (s.fwd.tab.map (·.1)) State.ageEntry s).tick = s.tick :=
    (Keeps.forL (fun _ _ => State.ageEntry_keeps) (Keeps.refl s)).frame .tick (by decide)
  unfold State.ageAll
  rw [if_pos (by simp [State.isAgingEdge, hedge, hnew])]
  dsimp only
  generalize forL (s.fwd.tab.map (·.1)) State.ageEntry s = u at hjudged htick
  exact ⟨congrArg some htick, hjudged.doms, hjudged.judged, hjudged.others⟩

theorem State.ageAll_of_idle (h : s.tick % max 1 (s.rd F.fwdCtlAgePeriod) ≠ 0 ∨ s.fwd.agedAt = some s.tick) :
    s.ageAll = s := by
  refine if_neg ?_
  rcases h with hedge | hdone
  · simp [State.isAgingEdge, hedge]
  · simp [hdone]

end Sys2Proof.Machine
end

section
/-! PROOF. The statement on the learn caches and on aging. -/

namespace Sys2Proof.Machine

open Sys2Proof

/-- Settles O30: a rehash by whether one runs, its end by what each placing leaves of the cache, and aging by the judgement of
each entry in turn. -/
theorem learnedEntries : Obligations.LearnedEntries := by
  unfold Obligations.LearnedEntries
  refine ⟨fun s c => ⟨fun cyc hr => ⟨fun hidle => ?begin, fun hbusy => ?again, ?flush⟩, fun hbusy => rehash_completes hbusy⟩,
    fun s => ⟨fun hedge hnew hnodup => ?ages, fun h => ?stands⟩⟩
  case begin =>
    have hexec : exec (.lrcRehash c cyc) s = done ((s.at cyc).lrcRehash c) := execLrcRehash_of_ready hr
    rw [State.lrcRehash_of_idle (s := s.at cyc) hidle] at hexec
    have hfwd := (State.closed_fwd _).trans (State.rehashing_fwd (s := s.at cyc) c)
    have hbusy : ((s.at cyc).rehashing c).closed.rd F.lrcStatRehashBusy c = 1 := by
      rw [State.closed_rd, State.rehashing_busy]
    refine runs_of_done hexec ⟨hbusy, ?_, ?_, fun d hd => ?_, ?_, ?_, ?_⟩
    · simp [State.lrcOn, State.on, hbusy]
    · rw [State.lrcSeed, hfwd]
      exact nget_nset_self ..
    · rw [State.lrcSeed, hfwd]
      exact nget_nset_ne 0 0 s.fwd.cacheSeed _ (Fin.val_ne_of_ne hd)
    · rw [hfwd]
      rfl
    · rw [hfwd]
      rfl
    · exact State.closed_regsBut (State.regsBut_trans (s.at_regsBut cyc _) (State.rehashing_regsBut c))
  case again =>
    have hexec : exec (.lrcRehash c cyc) s = done ((s.at cyc).lrcRehash c) := execLrcRehash_of_ready hr
    rw [State.lrcRehash_of_busy (s := s.at cyc) hbusy] at hexec
    exact runs_of_done hexec ⟨State.closed_fwd _, State.closed_regsBut (s.at_regsBut cyc _)⟩
  case flush =>
    have hfwd : ((s.at cyc).lrcFlush c).closed.fwd = (s.lrcFlush c).fwd := State.closed_fwd _
    refine runs_of_done (execLrcFlush_of_ready hr) ⟨?_, ?_, State.closed_regsBut (s.at_regsBut cyc _)⟩
    · rw [hfwd]
      rfl
    · rw [hfwd]
      rfl
  case ages =>
    obtain ⟨hdone, hdoms, hjudged, hothers⟩ := State.ageAll_judges hedge hnew hnodup
    have hent (i : Nat) : s.ageAll.closed.fwdEnt i = s.ageAll.fwdEnt i := by
      rw [State.fwdEnt, State.closed_fwd]
      rfl
    refine runs_of_done (u := s.ageAll) rfl ⟨?_, ?_, fun i hfree => ?_, fun i e hlisted => ?_⟩
    · rw [State.closed_fwd, hdone]
    · rw [State.closed_fwd, hdoms]
    · by_cases hi : i ∈ s.fwd.tab.map (·.1)
      · rw [hent, hjudged i hi, hfree, Option.bind_none]
      · rw [hent, hothers i hi, hfree]
    · have hi : i ∈ s.fwd.tab.map (·.1) := Decidable.byContradiction fun hi =>
        nomatch (State.fwdEnt_of_unlisted hi).symm.trans hlisted
      rw [hent, hjudged i hi, hlisted, Option.bind_some]
      rfl
  case stands =>
    refine runs_of_done (congrArg done (State.ageAll_of_idle h)) ⟨State.closed_fwd _, ?_⟩
    exact State.closed_regsBut (State.regsBut_refl s _)

end Sys2Proof.Machine
end

section
/-! SUPPORT. A sound state (R153): what every command keeps, and what an entry of a sound table holds. -/

namespace Sys2Proof.Machine

open Sys2Proof

/-! ### Every command -/

/-- The lemmas of Laws, gathered: each command keeps the queue, a sound state, the log of what left and the count of free
values, whatever other parts of the state it changes. -/
theorem exec_keeps (c : Instr) (s : State) : ∃ m, KeepsX m s (exec c s) := by
  cases c with
  | tickEdge => exact ⟨_, execTickEdge_keeps⟩
  | registerWrite => exact ⟨_, execRegisterWrite_keeps⟩
  | badAccess => exact ⟨_, execBadAccess_keeps⟩
  | tickRead => exact ⟨_, execTickRead_keeps⟩
  | hold => exact ⟨_, execHold_keeps⟩
  | holdRelease => exact ⟨_, execHoldRelease_keeps⟩
  | commit => exact ⟨_, execCommit_keeps⟩
  | gopSnapshot => exact ⟨_, execGopSnapshot_keeps⟩
  | barrier => exact ⟨_, execBarrier_keeps⟩
  | quenchAsn => exact ⟨_, execQuenchAsn_keeps⟩
  | modeReqRun => exact ⟨_, execModeReqRun_keeps⟩
  | modeReqOfficer => exact ⟨_, execModeReqOfficer_keeps⟩
  | modeReqSelfTest => exact ⟨_, execModeReqSelfTest_keeps⟩
  | modeReqKindling => exact ⟨_, execModeReqKindling_keeps⟩
  | warmReset => exact ⟨_, execWarmReset_keeps⟩
  | hostReset => exact ⟨_, execHostReset_keeps⟩
  | coldReset => exact ⟨_, execColdReset_keeps⟩
  | resetRelease => exact ⟨_, execResetRelease_keeps⟩
  | bootComplete => exact ⟨_, execBootComplete_keeps⟩
  | bootRetry => exact ⟨_, execBootRetry_keeps⟩
  | pageReady => exact ⟨_, execPageReady_keeps⟩
  | railBelowInhibit => exact ⟨_, execRailBelowInhibit_keeps⟩
  | railsUp => exact ⟨_, execRailsUp_keeps⟩
  | quench => exact ⟨_, execQuench_keeps⟩
  | laneEnable => exact ⟨_, execLaneEnable_keeps⟩
  | laneDisable => exact ⟨_, execLaneDisable_keeps⟩
  | laneStepUp => exact ⟨_, execLaneStepUp_keeps⟩
  | laneStepDown => exact ⟨_, execLaneStepDown_keeps⟩
  | cmisAgreed => exact ⟨_, execCmisAgreed_keeps⟩
  | cdrLock => exact ⟨_, execCdrLock_keeps⟩
  | lockTimeout => exact ⟨_, execLockTimeout_keeps⟩
  | trainingDone => exact ⟨_, execTrainingDone_keeps⟩
  | trainingTimeout => exact ⟨_, execTrainingTimeout_keeps⟩
  | checkDone => exact ⟨_, execCheckDone_keeps⟩
  | los => exact ⟨_, execLos_keeps⟩
  | slipFrameReceived => exact ⟨_, execSlipFrameReceived_keeps⟩
  | ffeCoeffRequest => exact ⟨_, execFfeCoeffRequest_keeps⟩
  | ffeWrite => exact ⟨_, execFfeWrite_keeps⟩
  | slip => exact ⟨_, execSlip_keeps⟩
  | slipPeriodWrite => exact ⟨_, execSlipPeriodWrite_keeps⟩
  | prbsClear => exact ⟨_, execPrbsClear_keeps⟩
  | prbsLock => exact ⟨_, execPrbsLock_keeps⟩
  | prbsLockLoss => exact ⟨_, execPrbsLockLoss_keeps⟩
  | laneErrRead => exact ⟨_, execLaneErrRead_keeps⟩
  | loopbackNearEnd => exact ⟨_, execLoopbackNearEnd_keeps⟩
  | loopbackFarEnd => exact ⟨_, execLoopbackFarEnd_keeps⟩
  | loopbackOff => exact ⟨_, execLoopbackOff_keeps⟩
  | moduleUnplug => exact ⟨_, execModuleUnplug_keeps⟩
  | modulePlug => exact ⟨_, execModulePlug_keeps⟩
  | moduleResetRelease => exact ⟨_, execModuleResetRelease_keeps⟩
  | moduleRead => exact ⟨_, execModuleRead_keeps⟩
  | moduleWrite => exact ⟨_, execModuleWrite_keeps⟩
  | moduleCmdDone => exact ⟨_, execModuleCmdDone_keeps⟩
  | moduleInterrupt => exact ⟨_, execModuleInterrupt_keeps⟩
  | portEnable => exact ⟨_, execPortEnable_keeps⟩
  | portDisable => exact ⟨_, execPortDisable_keeps⟩
  | portUp => exact ⟨_, execPortUp_keeps⟩
  | portFlush => exact ⟨_, execPortFlush_keeps⟩
  | authWindowEnd => exact ⟨_, execAuthWindowEnd_keeps⟩
  | frameReceived => exact ⟨_, execFrameReceived_keeps⟩
  | tagVerdict => exact ⟨_, execTagVerdict_keeps⟩
  | frameSend => exact ⟨_, execFrameSend_keeps⟩
  | otnCfgWrite => exact ⟨_, execOtnCfgWrite_keeps⟩
  | otnFrameReceived => exact ⟨_, execOtnFrameReceived_keeps⟩
  | lofDeclared => exact ⟨_, execLofDeclared_keeps⟩
  | lomDeclared => exact ⟨_, execLomDeclared_keeps⟩
  | otnGroupReceived => exact ⟨_, execOtnGroupReceived_keeps⟩
  | otnGroupVerdict => exact ⟨_, execOtnGroupVerdict_keeps⟩
  | otnFrameTransmit => exact ⟨_, execOtnFrameTransmit_keeps⟩
  | fwdSearch => exact ⟨_, execFwdSearch_keeps⟩
  | fwdNext => exact ⟨_, execFwdNext_keeps⟩
  | fwdInsert => exact ⟨_, execFwdInsert_keeps⟩
  | fwdDelete => exact ⟨_, execFwdDelete_keeps⟩
  | flushByPort => exact ⟨_, execFlushByPort_keeps⟩
  | domainRead => exact ⟨_, execDomainRead_keeps⟩
  | domainWrite => exact ⟨_, execDomainWrite_keeps⟩
  | fwdUnknownOp => exact ⟨_, execFwdUnknownOp_keeps⟩
  | lrcRehash => exact ⟨_, execLrcRehash_keeps⟩
  | lrcRehashDone => exact ⟨_, execLrcRehashDone_keeps⟩
  | lrcFlush => exact ⟨_, execLrcFlush_keeps⟩
  | asnRead => exact ⟨_, execAsnRead_keeps⟩
  | writeCfg => exact ⟨_, execWriteCfg_keeps⟩
  | start => exact ⟨_, execStart_keeps⟩
  | stop => exact ⟨_, execStop_keeps⟩
  | kill => exact ⟨_, execKill_keeps⟩
  | restart => exact ⟨_, execRestart_keeps⟩
  | release => exact ⟨_, execRelease_keeps⟩
  | asnUnknownOp => exact ⟨_, execAsnUnknownOp_keeps⟩
  | drainEnd => exact ⟨_, execDrainEnd_keeps⟩
  | overlapEnd => exact ⟨_, execOverlapEnd_keeps⟩
  | autoRecover => exact ⟨_, execAutoRecover_keeps⟩
  | keyPhaseSwitch => exact ⟨_, execKeyPhaseSwitch_keeps⟩
  | chmCfgWrite => exact ⟨_, execChmCfgWrite_keeps⟩
  | stoveTest => exact ⟨_, execStoveTest_keeps⟩
  | stoveRestore => exact ⟨_, execStoveRestore_keeps⟩
  | katDone => exact ⟨_, execKatDone_keeps⟩
  | twinMismatch => exact ⟨_, execTwinMismatch_keeps⟩
  | microcodeError => exact ⟨_, execMicrocodeError_keeps⟩
  | drbgReseed => exact ⟨_, execDrbgReseed_keeps⟩
  | sqDoorbell => exact ⟨_, execSqDoorbell_keeps⟩
  | cqDoorbell => exact ⟨_, execCqDoorbell_keeps⟩
  | eqDoorbell => exact ⟨_, execEqDoorbell_keeps⟩
  | descriptorFetch => exact ⟨_, execDescriptorFetch_keeps⟩
  | job => exact ⟨_, execJob_keeps⟩
  | fence => exact ⟨_, execFence_keeps⟩
  | nop => exact ⟨_, execNop_keeps⟩
  | pieceDispatch => exact ⟨_, execPieceDispatch_keeps⟩
  | jobComplete => exact ⟨_, execJobComplete_keeps⟩
  | coalesceTimer => exact ⟨_, execCoalesceTimer_keeps⟩
  | jobWaitAlarm => exact ⟨_, execJobWaitAlarm_keeps⟩
  | bind => exact ⟨_, execBind_keeps⟩
  | sliceReset => exact ⟨_, execSliceReset_keeps⟩
  | sliceRemove => exact ⟨_, execSliceRemove_keeps⟩
  | sliceResetDone => exact ⟨_, execSliceResetDone_keeps⟩
  | sliceResetTimeout => exact ⟨_, execSliceResetTimeout_keeps⟩
  | dirtyRead => exact ⟨_, execDirtyRead_keeps⟩
  | dirtyCopyDone => exact ⟨_, execDirtyCopyDone_keeps⟩
  | sliceCounterRead => exact ⟨_, execSliceCounterRead_keeps⟩
  | queueFlush => exact ⟨_, execQueueFlush_keeps⟩
  | spillMove => exact ⟨_, execSpillMove_keeps⟩
  | spillFetch => exact ⟨_, execSpillFetch_keeps⟩
  | fragmentReceived => exact ⟨_, execFragmentReceived_keeps⟩
  | ackReceived => exact ⟨_, execAckReceived_keeps⟩
  | ackSend => exact ⟨_, execAckSend_keeps⟩
  | fragmentRetransmit => exact ⟨_, execFragmentRetransmit_keeps⟩
  | fragmentRetriesExhausted => exact ⟨_, execFragmentRetriesExhausted_keeps⟩
  | messageTimeout => exact ⟨_, execMessageTimeout_keeps⟩
  | offer => exact ⟨_, execOffer_keeps⟩
  | answer => exact ⟨_, execAnswer_keeps⟩
  | proof => exact ⟨_, execProof_keeps⟩
  | confirm => exact ⟨_, execConfirm_keeps⟩
  | rollPropose => exact ⟨_, execRollPropose_keeps⟩
  | rollReady => exact ⟨_, execRollReady_keeps⟩
  | rollDone => exact ⟨_, execRollDone_keeps⟩
  | rekeyRequest => exact ⟨_, execRekeyRequest_keeps⟩
  | rekeyResponse => exact ⟨_, execRekeyResponse_keeps⟩
  | abort => exact ⟨_, execAbort_keeps⟩
  | keepalive => exact ⟨_, execKeepalive_keeps⟩
  | latticeOpDone => exact ⟨_, execLatticeOpDone_keeps⟩
  | keyDeriveDone => exact ⟨_, execKeyDeriveDone_keeps⟩
  | phase0Install => exact ⟨_, execPhase0Install_keeps⟩
  | sessionLive => exact ⟨_, execSessionLive_keeps⟩
  | stateTimeout => exact ⟨_, execStateTimeout_keeps⟩
  | holdoffEnd => exact ⟨_, execHoldoffEnd_keeps⟩
  | contextFreed => exact ⟨_, execContextFreed_keeps⟩
  | keepaliveTimer => exact ⟨_, execKeepaliveTimer_keeps⟩
  | peerSilent => exact ⟨_, execPeerSilent_keeps⟩
  | rekeyTimer => exact ⟨_, execRekeyTimer_keeps⟩
  | reauthTimer => exact ⟨_, execReauthTimer_keeps⟩
  | rollTimeout => exact ⟨_, execRollTimeout_keeps⟩
  | rekeyTimeout => exact ⟨_, execRekeyTimeout_keeps⟩
  | doneMissing => exact ⟨_, execDoneMissing_keeps⟩
  | linkEnable => exact ⟨_, execLinkEnable_keeps⟩
  | linkDisable => exact ⟨_, execLinkDisable_keeps⟩
  | linkStart => exact ⟨_, execLinkStart_keeps⟩
  | linkAbort => exact ⟨_, execLinkAbort_keeps⟩
  | linkRekey => exact ⟨_, execLinkRekey_keeps⟩
  | linkReauth => exact ⟨_, execLinkReauth_keeps⟩
  | clearHoldoff => exact ⟨_, execClearHoldoff_keeps⟩
  | linkRoll => exact ⟨_, execLinkRoll_keeps⟩
  | generate => exact ⟨_, execGenerate_keeps⟩
  | derive => exact ⟨_, execDerive_keeps⟩
  | importWrapped => exact ⟨_, execImportWrapped_keeps⟩
  | exportWrapped => exact ⟨_, execExportWrapped_keeps⟩
  | delete => exact ⟨_, execDelete_keeps⟩
  | attest => exact ⟨_, execAttest_keeps⟩
  | readCert => exact ⟨_, execReadCert_keeps⟩
  | kcv => exact ⟨_, execKcv_keeps⟩
  | esRestart => exact ⟨_, execEsRestart_keeps⟩
  | scrub => exact ⟨_, execScrub_keeps⟩
  | identityGen => exact ⟨_, execIdentityGen_keeps⟩
  | importSlot => exact ⟨_, execImport_keeps⟩
  | kvtUnknownOp => exact ⟨_, execKvtUnknownOp_keeps⟩
  | useReservation => exact ⟨_, execUseReservation_keeps⟩
  | otpAdvance => exact ⟨_, execOtpAdvance_keeps⟩
  | regionEnable => exact ⟨_, execRegionEnable_keeps⟩
  | regionDisable => exact ⟨_, execRegionDisable_keeps⟩
  | regionReady => exact ⟨_, execRegionReady_keeps⟩
  | sealedLineRead => exact ⟨_, execSealedLineRead_keeps⟩
  | sealedLineWrite => exact ⟨_, execSealedLineWrite_keeps⟩
  | sweepStart => exact ⟨_, execSweepStart_keeps⟩
  | sweepDone => exact ⟨_, execSweepDone_keeps⟩
  | cxlLinkTrained => exact ⟨_, execCxlLinkTrained_keeps⟩
  | mediaEventPoll => exact ⟨_, execMediaEventPoll_keeps⟩
  | reinit => exact ⟨_, execReinit_keeps⟩
  | hello => exact ⟨_, execHello_keeps⟩
  | mirrorFrameVerified => exact ⟨_, execMirrorFrameVerified_keeps⟩
  | handover => exact ⟨_, execHandover_keeps⟩
  | resync => exact ⟨_, execResync_keeps⟩
  | claimFrame => exact ⟨_, execClaimFrame_keeps⟩
  | standbyScrub => exact ⟨_, execStandbyScrub_keeps⟩
  | idleLaneWindow => exact ⟨_, execIdleLaneWindow_keeps⟩
  | incWrite => exact ⟨_, execIncWrite_keeps⟩
  | timeStep => exact ⟨_, execTimeStep_keeps⟩
  | timeRead => exact ⟨_, execTimeRead_keeps⟩
  | edgeTimeRead => exact ⟨_, execEdgeTimeRead_keeps⟩
  | ppsOut => exact ⟨_, execPpsOut_keeps⟩
  | ppsIn => exact ⟨_, execPpsIn_keeps⟩
  | ppsInRead => exact ⟨_, execPpsInRead_keeps⟩
  | tamperFire => exact ⟨_, execTamperFire_keeps⟩
  | tamperTest => exact ⟨_, execTamperTest_keeps⟩
  | tamperTestEnd => exact ⟨_, execTamperTestEnd_keeps⟩
  | officerHello => exact ⟨_, execOfficerHello_keeps⟩
  | officerResponse => exact ⟨_, execOfficerResponse_keeps⟩
  | vault => exact ⟨_, execVault_keeps⟩
  | certWrite => exact ⟨_, execCertWrite_keeps⟩
  | certRead => exact ⟨_, execCertRead_keeps⟩
  | ack => exact ⟨_, execAck_keeps⟩
  | clearFlags => exact ⟨_, execClearFlags_keeps⟩
  | note => exact ⟨_, execNote_keeps⟩
  | setBrtc => exact ⟨_, execSetBrtc_keeps⟩
  | unlockCfg => exact ⟨_, execUnlockCfg_keeps⟩
  | endSession => exact ⟨_, execEnd_keeps⟩
  | eccCorrected => exact ⟨_, execEccCorrected_keeps⟩
  | eccUncorrectable => exact ⟨_, execEccUncorrectable_keeps⟩
  | faultClear => exact ⟨_, execFaultClear_keeps⟩
  | faultInject => exact ⟨_, execFaultInject_keeps⟩
  | pmcSnapshot => exact ⟨_, execPmcSnapshot_keeps⟩
  | clearAll => exact ⟨_, execClearAll_keeps⟩
  | counterClear => exact ⟨_, execCounterClear_keeps⟩
  | counterRead => exact ⟨_, execCounterRead_keeps⟩
  | archiveRead => exact ⟨_, execArchiveRead_keeps⟩
  | seaRxgRead => exact ⟨_, execSeaRxgRead_keeps⟩
  | cdrLockLoss => exact ⟨_, execCdrLockLoss_keeps⟩
  | losClear => exact ⟨_, execLosClear_keeps⟩
  | ppsOutPulseEnd => exact ⟨_, execPpsOutPulseEnd_keeps⟩
  | pairOpAckTimeout => exact ⟨_, execPairOpAckTimeout_keeps⟩
  | selfTestComplete => exact ⟨_, execSelfTestComplete_keeps⟩
  | sramZeroingDone => exact ⟨_, execSramZeroingDone_keeps⟩
  | brownoutExit => exact ⟨_, execBrownoutExit_keeps⟩
  | coldGuardEntry => exact ⟨_, execColdGuardEntry_keeps⟩
  | emberLoss => exact ⟨_, execEmberLoss_keeps⟩
  | powerFailWarning => exact ⟨_, execPowerFailWarning_keeps⟩
  | quenchSweepDone => exact ⟨_, execQuenchSweepDone_keeps⟩
  | quenchComplete => exact ⟨_, execQuenchComplete_keeps⟩
  | agingEdge => exact ⟨_, execAgingEdge_keeps⟩
  | fwdCmdComplete => exact ⟨_, execFwdCmdComplete_keeps⟩
  | entropyHealthFail => exact ⟨_, execEntropyHealthFail_keeps⟩
  | flushEnd => exact ⟨_, execFlushEnd_keeps⟩
  | vaultCommitDone => exact ⟨_, execVaultCommitDone_keeps⟩
  | scrubTimer => exact ⟨_, execScrubTimer_keeps⟩
  | otpDone => exact ⟨_, execOtpDone_keeps⟩
  | cxlLinkDown => exact ⟨_, execCxlLinkDown_keeps⟩
  | reinitDone => exact ⟨_, execReinitDone_keeps⟩
  | mirrorStale => exact ⟨_, execMirrorStale_keeps⟩
  | partnerSyncLost => exact ⟨_, execPartnerSyncLost_keeps⟩
  | handoverRelease => exact ⟨_, execHandoverRelease_keeps⟩
  | partnerFailure => exact ⟨_, execPartnerFailure_keeps⟩
  | takeover => exact ⟨_, execTakeover_keeps⟩
  | takeoverComplete => exact ⟨_, execTakeoverComplete_keeps⟩
  | claimAgeExpiry => exact ⟨_, execClaimAgeExpiry_keeps⟩
  | standbyKat => exact ⟨_, execStandbyKat_keeps⟩
  | tamperWindowEnd => exact ⟨_, execTamperWindowEnd_keeps⟩
  | quenchButton => exact ⟨_, execQuenchButton_keeps⟩
  | tokenPlug => exact ⟨_, execTokenPlug_keeps⟩
  | tokenUnplug => exact ⟨_, execTokenUnplug_keeps⟩
  | officerVerifyDone => exact ⟨_, execOfficerVerifyDone_keeps⟩
  | officerResponseTimeout => exact ⟨_, execOfficerResponseTimeout_keeps⟩
  | officerSessionTimeout => exact ⟨_, execOfficerSessionTimeout_keeps⟩
  | brtcRead => exact ⟨_, execBrtcRead_keeps⟩
  | ledRefresh => exact ⟨_, execLedRefresh_keeps⟩
  | fltClear => exact ⟨_, execFltClear_keeps⟩
  | freeze => exact ⟨_, execFreeze_keeps⟩
  | unfreeze => exact ⟨_, execUnfreeze_keeps⟩
  | freezeTimeout => exact ⟨_, execFreezeTimeout_keeps⟩
  | flush => exact ⟨_, execFlush_keeps⟩
  | flushDone => exact ⟨_, execFlushDone_keeps⟩
  | recordFetch => exact ⟨_, execRecordFetch_keeps⟩
  | periodicSnapshot => exact ⟨_, execPeriodicSnapshot_keeps⟩
  | attestTimeout => exact ⟨_, execAttestTimeout_keeps⟩

theorem Keeps.inv {m : Nat} {s t : State} (h : Keeps m s t) (hs : s.Inv) : t.Inv := ⟨h.keys hs.keys, h.regs hs.regs⟩

theorem exec_inv {c : Instr} {s t : State} (hs : s.Inv) (h : exec c s = .next t) : t.Inv := by
  obtain ⟨m, hkeeps⟩ := exec_keeps c s
  exact (hkeeps t h).inv hs

/-- A step idles, or carries out the command at the front of the queue. -/
theorem step_cases {s t : State} (h : step s = .next t) :
    (s.pending = [] ∧ t = s) ∨ ∃ c rest, s.pending = c :: rest ∧ exec c { s with pending := rest } = .next t := by
  unfold step at h
  split at h
  case h_1 hidle =>
    cases h
    exact .inl ⟨hidle, rfl⟩
  case h_2 c rest hfront => exact .inr ⟨c, rest, hfront, h⟩

/-! ### The entries of a settled table -/

theorem AsnTable.Settled.get {t : AsnTable} (h : t.Settled) (a : Nat) : (t.get a).settled = t.get a := by
  obtain ⟨hbase, hlisted⟩ := h
  suffices ∀ m : NMap Assoc, (∀ e ∈ m, e.2.settled = e.2) → (nget t.base m a).settled = nget t.base m a from this t.m hlisted
  intro m hm
  induction m with
  | nil => exact hbase
  | cons e m ih =>
    obtain ⟨b, x⟩ := e
    obtain ⟨hx, hrest⟩ := List.forall_mem_cons.mp hm
    by_cases hab : a = b
    · rw [nget, mget, if_pos hab]
      exact hx
    · rw [nget, mget, if_neg hab]
      exact ih hrest

/-- R153: an entry of a sound state whose state holds no key is as wiping leaves it. -/
theorem State.Inv.asn_wiped {s : State} (h : s.Inv) {a : Nat} (hstate : (s.asn a).state.keyless = true) :
    s.asn a = (s.asn a).wiped := by
  have hsettled : (s.asn a).settled = s.asn a := h.keys.get a
  rw [Assoc.settled, if_pos hstate] at hsettled
  exact hsettled.symm

end Sys2Proof.Machine
end

section
/-! PROOF. The statements on a sound state. -/

namespace Sys2Proof.Machine

open Sys2Proof

/-- Settles O2: after reset no register differs from its reset word, and no entry from an IDLE one that holds nothing. -/
theorem resetIsSound : Obligations.ResetIsSound :=
  ⟨AsnTable.empty_settled, rfl⟩

/-- Settles O3: the step idles, or takes a command, and every command keeps a sound state. -/
theorem stepKeepsSound : Obligations.StepKeepsSound := by
  unfold Obligations.StepKeepsSound
  intro s t hs h
  rcases step_cases h with ⟨-, rfl⟩ | ⟨c, rest, -, hexec⟩
  · exact hs
  · exact exec_inv (s := { s with pending := rest }) ⟨hs.keys, hs.regs⟩ hexec

/-- Settles O4: the state after the step is sound, so an entry without keys is a wiped one. -/
theorem keylessEntriesHoldNothing : Obligations.KeylessEntriesHoldNothing := by
  unfold Obligations.KeylessEntriesHoldNothing
  intro s t hs h a hstate
  have hkeyless : (t.asn a).state.keyless = true := by
    rcases hstate with hstate | hstate | hstate <;> rw [hstate] <;> rfl
  rw [(stepKeepsSound s t hs h).asn_wiped hkeyless]
  exact ⟨rfl, rfl, rfl, rfl, rfl, rfl, rfl, rfl, rfl, rfl, rfl, rfl, rfl, rfl, rfl, rfl⟩

end Sys2Proof.Machine
end

section
/-! SUPPORT. The association window (R166): the READ that finishes, and the WRITE_CFG that lands. -/

namespace Sys2Proof.Machine

open Sys2Proof

variable {s : State}

theorem State.asnFinish_of_none (h : s.assocs.reading = none) : s.asnFinish = s := by
  rw [State.asnFinish, h]

/-- The WRITE_CFG that is accepted takes what the window holds once a READ that has run its time has finished. -/
theorem State.asnLand_writeCfg_sched {a cyc : Nat} (hr : s.ready .asn = true) (hfree : s.asnBusy ≤ s.now)
    (hjudge : s.asnFinish.asnJudge 2 a s.asnFinish.asnImage = 1) :
    (s.asnLand 2 a cyc).sched =
      s.sched ++ [{ due := s.edgeFor cyc, held := s.on F.devCommitCtlHold, act := .asnCmd 2 a s.asnFinish.asnImage }] := by
  have hkeeps : Keeps (mask [.assocs, .page .asnw]) s s.asnFinish := State.asnFinish_keeps
  have hsched : s.asnFinish.sched = s.sched := hkeeps.frame .sched (by decide)
  have hdue : s.asnFinish.edgeFor cyc = s.edgeFor cyc := by
    rw [State.edgeFor, State.edgeFor, hkeeps.frame .tick (by decide)]
  have hhold : (s.asnFinish.wr F.asnWinStatResult 1).on F.devCommitCtlHold = s.on F.devCommitCtlHold := by
    rw [State.on_wr_apart _ _ _ _ _ _ (by decide) (by decide), State.on, State.on, hkeeps.rd _ _ _ (by decide)]
  rw [State.asnLand, State.gate_of_ready hr, if_neg (Nat.not_lt.mpr hfree), ← hsched, ← hdue, ← hhold]
  simp only [↓reduceIte, hjudge]
  rfl

theorem exec_writeCfg_sched {a : AssocNo} {cyc : Cyc} {t : State} (hexec : exec (.writeCfg a cyc) s = .next t)
    (hr : s.ready .asn = true) (hfree : s.asnBusy ≤ s.tick * cyclesPerTick + cyc.val)
    (hjudge : (s.at cyc).asnFinish.asnJudge 2 a (s.at cyc).asnFinish.asnImage = 1) :
    t.sched = s.sched ++ [{ due := s.edgeFor cyc, held := s.on F.devCommitCtlHold
                            act := .asnCmd 2 a (s.at cyc).asnFinish.asnImage }] := by
  have hlands : exec (.writeCfg a cyc) s = .next ((s.at cyc).asnLand 2 a cyc).closed := rfl
  cases hlands.symm.trans hexec
  rw [State.closed_sched, State.asnLand_writeCfg_sched (s := s.at cyc) hr hfree hjudge]
  rfl

/-- With no READ under way that is what the window held before. -/
theorem exec_writeCfg_sched_of_none {a : AssocNo} {cyc : Cyc} {t : State} (hexec : exec (.writeCfg a cyc) s = .next t)
    (hr : s.ready .asn = true) (hfree : s.asnBusy ≤ s.tick * cyclesPerTick + cyc.val) (hnone : s.assocs.reading = none)
    (hjudge : s.asnJudge 2 a s.asnImage = 1) :
    t.sched = s.sched ++ [{ due := s.edgeFor cyc, held := s.on F.devCommitCtlHold, act := .asnCmd 2 a s.asnImage }] := by
  have hfinish : (s.at cyc).asnFinish = s.at cyc := State.asnFinish_of_none hnone
  have htakes := exec_writeCfg_sched hexec hr hfree
  rw [hfinish] at htakes
  exact htakes hjudge

/-! ### A READ that has run its time -/

/-- An ACTIVE device whose association table is as reset leaves it, with the ASN page ready. -/
def windowReady : State := (State.reset.wr F.devModeMode 4).wr (F.pageReady .asn) 1

/-- The device after an ASN_READ of entry 0, which has landed in cycle 0. -/
def readUnderWay : State := ((windowReady.at 0).asnLand 1 0 0).closed

theorem exec_asnRead_windowReady : exec (.asnRead 0 0) windowReady = .next readUnderWay := rfl

theorem windowReady_inv : windowReady.Inv :=
  ⟨AsnTable.empty_settled, State.wr_keeps.regs (State.wr_keeps.regs rfl)⟩

theorem readUnderWay_inv : readUnderWay.Inv := exec_inv windowReady_inv exec_asnRead_windowReady

/-- In cycle 64 the READ finishes, and gives the replay window of entry 0, which no WRITE_CFG has changed from 64. -/
theorem asnFinish_readUnderWay_image : (readUnderWay.at 64).asnFinish.asnImage ≠ readUnderWay.asnImage := by decide +kernel

end Sys2Proof.Machine
end

section
/-! SUPPORT. The auto_recover restart (R153, R154): an edge that is too early for it, and a use that is granted. -/

namespace Sys2Proof.Machine

open Sys2Proof

variable {s : State} {a : Nat}

/-- An entry that has become DEAD at the present edge waits for the next one (R153). -/
theorem State.recoverAsn_of_early (h : s.tick ≤ (s.asn a).deadAt) : s.recoverAsn a = s := by
  have hwaits : s.autoRecover a (s.cascWait a) = s := if_neg fun ⟨_, _, _, hlater, _⟩ => Nat.not_lt.mpr h hlater
  rw [State.recoverAsn, hwaits]
  exact if_neg fun ⟨hdead, hkindling⟩ => nomatch hdead.symm.trans hkindling

/-- A use is granted of no slot whose uses and stock are both 0 (R300). -/
theorem State.not_expired_of_granted {v : Nat} {u : State} (h : s.takeUse v = (u, .granted)) : (s.slot v).expired = false := by
  refine Bool.eq_false_iff.mpr fun hexpired => ?_
  simp only [Slot.expired, Bool.and_eq_true, decide_eq_true_eq] at hexpired
  obtain ⟨-, huses, hstock⟩ := hexpired
  have hlimited : (0 : Nat) ≠ usesUnlimited := by decide
  simp only [State.takeUse, huses, hstock, hlimited, Nat.lt_irrefl, ↓reduceIte] at h
  split at h
  · nomatch h
  · split at h <;> nomatch h

/-- At an edge after the one of its death, the entry that holds its guards and is granted a use restarts (R153, R154). -/
theorem State.autoRecover_of_due {u : State} (hdead : (s.asn a).state = .dead) (hauto : (s.asn a).autoRecover = true)
    (hedge : s.cycle = 0) (hlater : (s.asn a).deadAt < s.tick) (hguards : s.startGuards a = true)
    (huse : s.takeUse (s.asn a).slot = (u, .granted)) :
    s.autoRecover a false = u.modAsn a (fun e => { e with state := .kindling, deadCause := 0 }) := by
  simp [State.autoRecover, hdead, hauto, hedge, hlater, hguards, State.not_expired_of_granted huse, huse]

/-- A slot with unlimited uses and a genuine tag gives one (R298). -/
theorem State.takeUse_of_unlimited {v : Nat} (hpresent : (s.slot v).present = true) (hgood : (s.slot v).bad = false)
    (husable : (s.slot v).usable = true) (htag : s.tagOk v = true) (huses : (s.slot v).uses = usesUnlimited) :
    s.takeUse v = (s.count .kvt 0 3, .granted) := by
  simp [State.takeUse, hpresent, hgood, husable, htag, huses]

/-! ### An entry that may restart, at the edge of its death -/

/-- A traffic root with unlimited uses. -/
def trafficRoot : Slot := { present := true, usable := true, type := 5, uses := usesUnlimited }

/-- An ACTIVE device whose port 0 is enabled on the cipher side. -/
def portReady : State := ((State.reset.wr F.devModeMode 4).wr F.prtCfgEnable 1).wr F.prtCfgSide 1

/-- Entry 0 has become DEAD at the present edge, and the guards of R154 hold for it: its port is port 0, and its slot 0 holds a
traffic root with a genuine tag. -/
def deadAtEdge : State :=
  ({ portReady with tick := 100 }.setAsn 0
    { state := .dead, autoRecover := true, deadCause := 1, deadAt := 100 }).setSlot 0
    { trafficRoot with tag := trafficRoot.tagFor [] 0 }

theorem portReady_regsOk : portReady.regsOk := State.wr_keeps.regs (State.wr_keeps.regs (State.wr_keeps.regs rfl))

theorem deadAtEdge_inv : deadAtEdge.Inv where
  keys := AsnTable.set_settled AsnTable.empty_settled _ _
  regs := portReady_regsOk

theorem deadAtEdge_slot : deadAtEdge.slot 0 = { trafficRoot with tag := trafficRoot.tagFor [] 0 } :=
  State.setSlot_slot_self ..

theorem deadAtEdge_tagOk : deadAtEdge.tagOk 0 = true := by
  rw [State.tagOk, deadAtEdge_slot]
  exact decide_eq_true rfl

theorem deadAtEdge_takeUse : deadAtEdge.takeUse 0 = (deadAtEdge.count .kvt 0 3, .granted) :=
  State.takeUse_of_unlimited (by rw [deadAtEdge_slot]; rfl) (by rw [deadAtEdge_slot]; rfl) (by rw [deadAtEdge_slot]; rfl)
    deadAtEdge_tagOk (by rw [deadAtEdge_slot]; rfl)

end Sys2Proof.Machine
end

section
/-! PROOF. The statements on the commands of the association window and on entries that move on: each fails in a sound
state. -/

namespace Sys2Proof.Machine

open Sys2Proof

/-- Refutes O31 in its clause on WRITE_CFG, in the sound state `readUnderWay` (`readUnderWay_inv`), where an ASN_READ has run
its 64 cycles as the WRITE_CFG lands. The READ has by then put the entry's image into the window (R166), and the WRITE_CFG
takes that image, where the clause names the image that the window held before. With no READ under way the two are the same:
`exec_writeCfg_sched_of_none`. -/
theorem not_entryCommands : ¬ Obligations.EntryCommands := by
  unfold Obligations.EntryCommands
  rintro ⟨-, h⟩
  have hready : readUnderWay.ready .asn = true := by decide +kernel
  have hfree : readUnderWay.asnBusy ≤ readUnderWay.tick * cyclesPerTick + 64 := by decide +kernel
  obtain ⟨-, hwrites, -, -⟩ := h readUnderWay 0 64 hready hfree (by decide +kernel) (by decide +kernel) _ rfl
  obtain ⟨t, hexec, -, -, hsched, -⟩ := hwrites (by decide +kernel) (by decide +kernel)
  have htakes := exec_writeCfg_sched hexec hready hfree (by decide +kernel)
  have himage := List.append_cancel_left (hsched.symm.trans htakes)
  simp only [List.cons.injEq, Sched.mk.injEq, Act.asnCmd.injEq, true_and, and_true] at himage
  exact asnFinish_readUnderWay_image himage.symm

/-- Refutes O32 in its clause on auto_recover, in the sound state `deadAtEdge` (`deadAtEdge_inv`): the guards of R154 hold for
entry 0, which has become DEAD at the present edge. R153 restarts it at an edge after that one, for which the model waits
(log entry 28, `State.recoverAsn_of_early`); the clause asks neither that the entry died earlier nor that the command comes at
an edge. With both the entry restarts: `State.autoRecover_of_due`. -/
theorem not_entriesMoveOn : ¬ Obligations.EntriesMoveOn := by
  unfold Obligations.EntriesMoveOn
  intro h
  obtain ⟨-, -, -, -, -, hrecovers, -⟩ := h deadAtEdge
  have hdead : (deadAtEdge.asn 0).state = .dead := by decide +kernel
  have hnow : deadAtEdge.tick ≤ (deadAtEdge.asn 0).deadAt := by decide +kernel
  obtain ⟨t, hexec, hkindling, -⟩ := hrecovers 0 _ hdead (by decide +kernel) (by decide +kernel) (by decide +kernel)
    deadAtEdge_takeUse
  have hwaits : exec (.autoRecover 0) deadAtEdge = done (deadAtEdge.recoverAsn 0) := rfl
  rw [State.recoverAsn_of_early hnow, done_eq] at hwaits
  injection hexec.symm.trans hwaits with ht
  rw [ht, State.closed_asn] at hkindling
  exact nomatch hdead.symm.trans hkindling

end Sys2Proof.Machine
end

section
/-! SUPPORT. The accounts of the Stoves (R173, R174, R199): what a change of them, an uncorrectable microcode word and the end of
a bring-up test make of a Stove's account. -/

namespace Sys2Proof.Machine

open Sys2Proof

variable {s t : State} {c k : Nat}

/-! ### Accounts -/

/-- What stands after a Stove's account has been replaced: the new account, and the tests that run. -/
theorem State.stvSet_chim (own : StvOwn) : (s.stvSet c [k] own).stvOwn c k = own ∧
    ((s.stvSet c [k] own).chim c).running = (s.chim c).running := by
  have hrefresh : ∀ u : State, (u.stvRefresh c).chim c = u.chim c := fun u => by simp only [State.stvRefresh, State.wr_chim]
  have hevent : ∀ (b : Bool) (u : State), (onlyIf b (fun s => s.event F.chmEvtOutOfService c) u).chim c = u.chim c := by
    intro b u
    cases b
    · rfl
    · exact State.event_chim ..
  unfold State.stvOwn State.stvSet
  extract_lets was replaced told
  simp only [hrefresh, told, hevent, replaced, State.modChim_chim_self, State.stoveCycles, List.foldl_cons, List.foldl_nil]
  exact ⟨nget_nset_self .., trivial⟩

theorem State.stvOwn_of_chims (h : t.chims = s.chims) : t.stvOwn c k = s.stvOwn c k := by
  rw [State.stvOwn, State.stvOwn, State.chim, State.chim, h]

/-- MICROCODE_ERROR takes its Stove out of service for cause 4, and leaves the tests that run (R173). -/
theorem exec_microcodeError_chim {c : ChimneyNo} {k : StoveNo} (h : exec (.microcodeError c k) s = .next t) :
    t.stvOwn c k = .ucode ∧ (t.chim c).running = (s.chim c).running := by
  have ht : t = (((s.stvSet c [k.val] .ucode).count .stv c 4).sramError .stv c (32 + k)).closed := by
    injection h.symm
  have hkeeps : Keeps (mask [.rep, .page .flt]) ((s.stvSet c [k.val] .ucode).count .stv c 4)
      (((s.stvSet c [k.val] .ucode).count .stv c 4).sramError .stv c (32 + k)) := State.sramError_keeps.mono (by rfl)
  have hchims : t.chims = (s.stvSet c [k.val] .ucode).chims := by
    rw [ht, State.closed_chims, hkeeps.frame .chims (by decide), State.count_chims]
  obtain ⟨hown, hrunning⟩ := State.stvSet_chim (s := s) (c := c) (k := k) .ucode
  exact ⟨(State.stvOwn_of_chims hchims).trans hown, by rw [State.chim, hchims]; exact hrunning⟩

/-! ### The end of a bring-up test (R174, R199) -/

/-- The test of a Stove has ended and passed: it is counted, runs no longer, and shows in kat_pass. -/
def State.katPassed (s : State) (c k : Nat) : State :=
  ((s.count .stv c 1).modChim c (fun r => { r with running := r.running.filter (fun e => e.1 ≠ k) })).wr (katFld k) 1 c

theorem State.katPassed_stvOwn : (s.katPassed c k).stvOwn c k = s.stvOwn c k := by
  simp only [State.stvOwn, State.katPassed, State.wr_chim, State.modChim_chim_self, State.count_chim]

theorem State.katDone_bringUp (h : (s.chim c).running.find? (fun e => e.1 = k) = some (k, .bringUp)) :
    s.katDone c k true =
      if s.stvOwn c k = .untested then (s.katPassed c k).stvSet c [k] .ok else s.katPassed c k := by
  rw [← State.katPassed_stvOwn (s := s)]
  simp only [State.katDone, h]
  rfl

/-- A Stove that has not been tested comes into service as its bring-up test passes. -/
theorem State.katDone_own_of_untested (h : (s.chim c).running.find? (fun e => e.1 = k) = some (k, .bringUp))
    (huntested : s.stvOwn c k = .untested) : (s.katDone c k true).stvOwn c k = .ok := by
  rw [State.katDone_bringUp h, if_pos huntested]
  exact (State.stvSet_chim .ok).1

/-- A Stove that went out for another cause while its bring-up test ran stays out. -/
theorem State.katDone_own_of_out (h : (s.chim c).running.find? (fun e => e.1 = k) = some (k, .bringUp))
    (hout : s.stvOwn c k ≠ .untested) : (s.katDone c k true).stvOwn c k = s.stvOwn c k := by
  rw [State.katDone_bringUp h, if_neg hout, State.katPassed_stvOwn]

/-! ### A Stove that goes out during its bring-up test -/

/-- A device with entropy, in which every Stove of Chimney 0 runs its bring-up test. -/
def bringUpRunning : State := (State.reset.wr F.kvtDrbgEsOk 1).stvBringUp 0

/-- The device after a MICROCODE_ERROR of Stove 0. -/
def codeLost : State := (((bringUpRunning.stvSet 0 [0] .ucode).count .stv 0 4).sramError .stv 0 32).closed

theorem exec_microcodeError_bringUpRunning : exec (.microcodeError 0 0) bringUpRunning = .next codeLost := rfl

theorem bringUpRunning_inv : bringUpRunning.Inv :=
  State.stvBringUp_keeps.inv (State.wr_keeps.inv ⟨AsnTable.empty_settled, rfl⟩)

theorem codeLost_inv : codeLost.Inv := exec_inv bringUpRunning_inv exec_microcodeError_bringUpRunning

theorem bringUpRunning_running :
    (bringUpRunning.chim 0).running.find? (fun e => e.1 = 0) = some (0, .bringUp) := by decide +kernel

theorem codeLost_chim : codeLost.stvOwn 0 0 = .ucode ∧
    (codeLost.chim 0).running.find? (fun e => e.1 = 0) = some (0, .bringUp) := by
  obtain ⟨hown, hrunning⟩ := exec_microcodeError_chim exec_microcodeError_bringUpRunning
  exact ⟨hown, (congrArg (List.find? _) hrunning).trans bringUpRunning_running⟩

end Sys2Proof.Machine
end

section
/-! PROOF. The statement on Stoves in service: it fails in a sound state. -/

namespace Sys2Proof.Machine

open Sys2Proof

/-- Refutes O33 in its clause on a bring-up test that passes, in the sound state `codeLost` (`codeLost_inv`): an uncorrectable
microcode word has taken Stove 0 out of service (R173) while its bring-up test ran. As the test passes the Stove stays out
(`State.katDone_own_of_out`), where the clause, which asks nothing of the Stove's account, has it come into service. Of a Stove
that has not been tested the clause holds: `State.katDone_own_of_untested`. -/
theorem not_stovesInService : ¬ Obligations.StovesInService := by
  unfold Obligations.StovesInService
  rintro ⟨-, htests, -⟩
  obtain ⟨hown, hrunning⟩ := codeLost_chim
  obtain ⟨hbringUp, -⟩ := htests codeLost 0 0
  obtain ⟨⟨t, hexec, hok, -⟩, -⟩ := hbringUp hrunning
  have hends : exec (.katDone 0 0 true) codeLost = .next (codeLost.katDone 0 0 true).closed := rfl
  injection hexec.symm.trans hends with ht
  have hstays : t.stvOwn 0 0 = .ucode := by
    rw [ht, State.stvOwn_of_chims (State.closed_chims _), State.katDone_own_of_out hrunning (by rw [hown]; decide), hown]
  exact nomatch hok.symm.trans hstays

end Sys2Proof.Machine
end

section
/-! SUPPORT. Randomness and known-answer tests (R194, R397): what a reseed leaves of a DRBG, what each Chimney reports as the
entropy source fails, and the Stove that each Chimney of a standby tests. -/

namespace Sys2Proof.Machine

open Sys2Proof

variable {s : State} {d : Drbg}

/-! ### Reseeding (R194) -/

theorem State.seedChimney_chim (c : Nat) :
    (s.seedChimney c).chim c = { s.chim c with drbg := some (((s.chim c).drbg.getD {}).reseed (s.free 384)) } := by
  simp only [State.seedChimney, State.stvRefresh, State.wr_chim, State.modChim_chim_self, State.burn_chim]

/-- A seed shows in CHM_DRBG.seeded, and leaves the count of reseeds beside it. -/
theorem State.seedChimney_shows (c : Nat) : (s.seedChimney c).rd F.chmDrbgSeeded c = 1 ∧
    (s.seedChimney c).rd F.chmDrbgReseeds c = s.rd F.chmDrbgReseeds c := by
  have hrefresh : ∀ (u : State) (f : Fld), f.page ≠ .stv → (u.stvRefresh c).rd f c = u.rd f c := fun u f hf =>
    State.stvRefresh_keeps.rd f c 0 (by simpa using hf)
  rw [State.seedChimney, hrefresh _ _ (by decide), hrefresh _ _ (by decide)]
  refine ⟨State.rd_wr_of_lt c 0 (by decide) (by decide), ?_⟩
  rw [State.rd_wr_apart _ _ c 0 c 0 (by decide) (by decide), State.modChim_rd, State.burn_rd]

/-- DRBG_RESEED of a Chimney's DRBG at its reseed point. -/
theorem exec_drbgReseed_chimney {i : Fin 8} (hdrbg : (s.chim i).drbg = some d) (hdue : 2 ^ 16 ≤ d.requests) :
    exec (.drbgReseed i.castSucc) s = .next (s.drbgReseed i).closed := by
  have hreaches : s.reseedDue i = true := by simpa [State.reseedDue, hdrbg] using hdue
  show done (onlyIf (s.reseedDue i) (fun s => s.drbgReseed i) s) = _
  rw [hreaches, done_eq]
  rfl

/-- DRBG_RESEED of the device's DRBG at its reseed point. -/
theorem exec_drbgReseed_device (hdrbg : s.vault.drbg = some d) (hdue : 2 ^ 10 ≤ d.requests) :
    exec (.drbgReseed 8) s = .next (s.drbgReseed 8).closed := by
  have hreaches : s.reseedDue 8 = true := by simpa [State.reseedDue, hdrbg] using hdue
  show done (onlyIf (s.reseedDue 8) (fun s => s.drbgReseed 8) s) = _
  rw [hreaches, done_eq]
  rfl

theorem State.drbgReseed_chimney {c : Nat} (hc : c < 8) (hes : s.rd F.kvtDrbgEsOk = 1) :
    s.drbgReseed c = ((s.seedChimney c).bumpReg F.chmDrbgReseeds 1 c).count .chm c 9 := by
  rw [State.drbgReseed, if_pos hc, if_pos (by simpa [State.on] using hes)]

theorem State.drbgReseed_overdue {c : Nat} (hc : c < 8) (hes : s.rd F.kvtDrbgEsOk = 0) :
    s.drbgReseed c = s.event F.chmEvtReseedOverdue c := by
  rw [State.drbgReseed, if_pos hc, if_neg (by simp [State.on, hes])]

theorem State.drbgReseed_device (hes : s.rd F.kvtDrbgEsOk = 1) :
    s.drbgReseed 8 = (s.seedDevice.bumpReg F.kvtDrbgReseeds 1).count .kvt 0 10 := by
  rw [State.drbgReseed, if_neg (by decide), if_pos (by simpa [State.on] using hes)]

theorem State.seedDevice_vault : s.seedDevice.vault =
    { s.vault with drbg := some ((s.vault.drbg.getD {}).reseed (s.free 384)) } := rfl

theorem State.seedDevice_regsBut : s.regsBut s.seedDevice [keyOf F.kvtDrbgSeeded] :=
  State.regsBut_wr 1 (State.regsBut_of_word (fun _ => rfl) (State.regsBut_refl s _)) (List.mem_singleton_self _)

/-- A seed shows in KVT_DRBG.seeded, and leaves the count of reseeds beside it. -/
theorem State.seedDevice_shows : s.seedDevice.rd F.kvtDrbgSeeded = 1 ∧
    s.seedDevice.rd F.kvtDrbgReseeds = s.rd F.kvtDrbgReseeds :=
  ⟨State.rd_wr_of_lt 0 0 (by decide) (by decide), State.rd_wr_apart _ _ 0 0 0 0 (by decide) (by decide)⟩

/-! ### Events of every Chimney (R194) -/

/-- The end of a command leaves the events of the Chimneys. -/
theorem State.closed_evt_chm {f : Fld} (c : Nat) (h : f.page = .chm) : s.closed.evt f c = s.evt f c := by
  have hpages : ∀ k ∈ settledWords, k.page ≠ .chm := by decide
  exact State.closed_evt s f c fun hk => hpages _ hk h

/-- An event of one Chimney leaves what the event registers of another show. -/
theorem State.event_evt_other {f g : Fld} {c e : Nat} (h : e ≠ c) : (s.event f c).evt g e = s.evt g e := by
  have hkey : keyOf g e ≠ keyOf f c := fun hk => h (congrArg RegKey.inst hk)
  have hword : (s.wrEvt f 1 c).evtWord (keyOf g e) = s.evtWord (keyOf g e) := mget_mset_ne _ _ _ _ _ hkey
  have hrep : (s.event f c).evtWord (keyOf g e) = (s.wrEvt f 1 c).evtWord (keyOf g e) := by
    unfold State.event onlyIf
    extract_lets written raised
    split <;> rfl
  exact congrArg (getF · g.lo g.w) (hrep.trans hword)

/-- The health test of the entropy source has failed (R194). -/
def State.esFailed (s : State) : State := forN 8 (fun c s => s.event F.chmEvtEsFail c) (s.wr F.kvtDrbgEsOk 0)

/-- ENTROPY_HEALTH_FAIL. -/
theorem exec_entropyHealthFail (s : State) : exec .entropyHealthFail s = .next s.esFailed.closed := rfl

theorem State.esFailed_word (k : RegKey) : s.esFailed.word k = (s.wr F.kvtDrbgEsOk 0).word k := by
  have hkeeps : Keeps (mask [.rep]) (s.wr F.kvtDrbgEsOk 0) s.esFailed :=
    Keeps.forN (fun _ _ => State.event_keeps) (Keeps.refl _)
  exact hkeeps.word (by simp)

theorem State.esFailed_evt (c : ChimneyNo) : s.esFailed.evt F.chmEvtEsFail c = 1 :=
  forN_each (P := fun c (u : State) => u.evt F.chmEvtEsFail c = 1) (fun c u => State.event_evt_self u c (by decide) rfl)
    (fun _ _ _ hne h => (State.event_evt_other hne).trans h) 8 _ c c.isLt

/-! ### The self-test of a standby (R397) -/

/-- Chimney `c` tests the Stove whose turn it is. -/
def State.standbyTest (c : Nat) (s : State) : State :=
  (s.katStart c [(s.chim c).nextKat % 64] .standby).modChim c (fun r =>
    { r with nextKat := ((s.chim c).nextKat % 64 + 1) % 64 })

theorem State.standbyTest_chim_self (c : Nat) (s : State) :
    ((s.standbyTest c).chim c).nextKat = ((s.chim c).nextKat % 64 + 1) % 64 ∧
      ((s.chim c).nextKat % 64, KatKind.standby) ∈ ((s.standbyTest c).chim c).running := by
  simp [State.standbyTest, State.katStart]

theorem State.standbyTest_chim_ne {c e : Nat} (s : State) (h : e ≠ c) : (s.standbyTest c).chim e = s.chim e := by
  rw [State.standbyTest, State.modChim_chim_ne _ _ h, State.katStart, State.modChim_chim_ne _ _ h]

theorem State.standbyTest_keeps (c : Nat) (s : State) : Keeps (mask [.chims]) s (s.standbyTest c) :=
  State.katStart_keeps.trans State.modChim_keeps

/-- The tests of every Chimney in turn leave those of a Chimney that comes later as they were. -/
theorem State.standbyTests_chim_later (n : Nat) {e : Nat} (h : n ≤ e) : (forN n State.standbyTest s).chim e = s.chim e := by
  induction n with
  | zero => rfl
  | succ n ih => rw [forN_succ, State.standbyTest_chim_ne _ (by omega), ih (by omega)]

/-- Each Chimney tests the Stove whose turn it is, and the next one's turn comes. -/
theorem State.standbyTests_chim (n : Nat) : ∀ c < n,
    ((forN n State.standbyTest s).chim c).nextKat = ((s.chim c).nextKat % 64 + 1) % 64 ∧
      ((s.chim c).nextKat % 64, KatKind.standby) ∈ ((forN n State.standbyTest s).chim c).running := by
  induction n with
  | zero => exact fun c hc => absurd hc (Nat.not_lt_zero c)
  | succ n ih =>
    intro c hc
    rw [forN_succ]
    rcases Nat.lt_succ_iff_lt_or_eq.mp hc with h | rfl
    · rw [State.standbyTest_chim_ne _ (Nat.ne_of_lt h)]
      exact ih c h
    · simpa only [State.standbyTests_chim_later c (Nat.le_refl c)] using
        State.standbyTest_chim_self c (forN c State.standbyTest s)

theorem exec_standbyKat_of_due (htests : s.selfTests = true) (htick : s.tick % 32 = 0) :
    exec .standbyKat s = .next (forN 8 State.standbyTest s).closed := by
  show execStandbyKat s = _
  rw [execStandbyKat, if_pos (by simp [htests, htick]), done_eq]
  rfl

theorem exec_standbyKat_of_not_due (htick : s.tick % 32 ≠ 0) : exec .standbyKat s = .next s.closed := by
  show execStandbyKat s = _
  rw [execStandbyKat, if_neg (by simp [htick]), done_eq]

end Sys2Proof.Machine
end

section
/-! PROOF. The statement on randomness. -/

namespace Sys2Proof.Machine

open Sys2Proof

variable {s : State} {d : Drbg}

/-- The DRBG of a Chimney reseeds (R194). -/
theorem drbgReseed_chimney_runs {i : Fin 8} (hdrbg : (s.chim i).drbg = some d) (hdue : 2 ^ 16 ≤ d.requests)
    (hes : s.rd F.kvtDrbgEsOk = 1) : Runs (.drbgReseed i.castSucc) s (fun t => t.rd F.chmDrbgSeeded i = 1 ∧
      (t.chim i).drbg = some (d.reseed (s.free 384)) ∧
      t.rd F.chmDrbgReseeds i = min 65535 (s.rd F.chmDrbgReseeds i + 1)) := by
  obtain ⟨hseeded, hreseeds⟩ := State.seedChimney_shows (s := s) i
  refine ⟨_, exec_drbgReseed_chimney hdrbg hdue, ?_⟩
  simp only [State.drbgReseed_chimney i.isLt hes, State.closed_rd, State.closed_chim, State.count_rd, State.count_chim,
    State.bumpReg_chim, State.seedChimney_chim, hdrbg, Option.getD_some, true_and]
  refine ⟨?_, ?_⟩
  · rw [State.bumpReg, State.rd_wr_apart _ _ _ 0 _ 0 (by decide) (by decide), hseeded]
  · rw [State.rd_bumpReg_self _ _ _ (by decide), hreseeds]
    exact Nat.min_comm _ _

/-- The DRBG of the device reseeds (R194). -/
theorem drbgReseed_device_runs (hdrbg : s.vault.drbg = some d) (hdue : 2 ^ 10 ≤ d.requests) (hes : s.rd F.kvtDrbgEsOk = 1) :
    Runs (.drbgReseed 8) s (fun t => t.rd F.kvtDrbgSeeded = 1 ∧ t.vault.drbg = some (d.reseed (s.free 384)) ∧
      t.rd F.kvtDrbgReseeds = min 65535 (s.rd F.kvtDrbgReseeds + 1) ∧ s.regsBut t [keyOf F.kvtDrbgSeeded]) := by
  obtain ⟨hseeded, hreseeds⟩ := State.seedDevice_shows (s := s)
  have hregs : s.regsBut (s.seedDevice.bumpReg F.kvtDrbgReseeds 1) [keyOf F.kvtDrbgSeeded] :=
    State.regsBut_bumpReg 1 State.seedDevice_regsBut (by decide)
  refine ⟨_, exec_drbgReseed_device hdrbg hdue, ?_⟩
  simp only [State.drbgReseed_device hes, State.closed_rd, State.closed_vault, State.count_rd, State.count_vault,
    State.bumpReg_vault, State.seedDevice_vault, hdrbg, Option.getD_some, true_and]
  refine ⟨?_, ?_, State.closed_regsBut (State.regsBut_of_word (fun k => State.count_word ..) hregs)⟩
  · rw [State.bumpReg, State.rd_wr_apart _ _ 0 0 0 0 (by decide) (by decide), hseeded]
  · rw [State.rd_bumpReg_self _ _ _ (by decide), hreseeds]
    exact Nat.min_comm _ _

/-- Settles O34: a reseed by whose DRBG it is and by whether there is entropy, the failure of the source Chimney by Chimney,
and a standby's test by whether its tick has come. -/
theorem randomnessIsReseeded : Obligations.RandomnessIsReseeded := by
  unfold Obligations.RandomnessIsReseeded
  intro s
  refine ⟨fun i d hdrbg hdue => ⟨drbgReseed_chimney_runs hdrbg hdue, fun hes => ?_⟩,
    fun d hdrbg hdue hes => drbgReseed_device_runs hdrbg hdue hes, ?_, fun htests htick => ?_, fun htick => ?_⟩
  · refine ⟨_, exec_drbgReseed_chimney hdrbg hdue, ?_⟩
    rw [State.drbgReseed_overdue i.isLt hes]
    refine ⟨?_, ?_, State.closed_regsBut fun k _ => State.event_word ..⟩
    · rw [State.closed_evt_chm _ rfl]
      exact State.event_evt_self s _ (by decide) rfl
    · rw [State.closed_chims, State.event_chims]
  · refine ⟨_, exec_entropyHealthFail s, ?_, fun c => ?_, State.closed_regsBut ?_⟩
    · rw [State.closed_rd, State.rd, State.esFailed_word]
      exact State.rd_wr_of_lt 0 0 (by decide) (by decide)
    · rw [State.closed_evt_chm _ rfl, State.esFailed_evt]
    · exact State.regsBut_of_word State.esFailed_word
        (State.regsBut_wr 0 (State.regsBut_refl s _) (List.mem_singleton_self _))
  · have hkeeps : Keeps (mask [.chims]) s (forN 8 State.standbyTest s) := Keeps.forN State.standbyTest_keeps (Keeps.refl s)
    refine ⟨_, exec_standbyKat_of_due htests htick, State.closed_regsBut fun k _ => hkeeps.word (by simp), fun c => ?_⟩
    rw [State.closed_chim]
    exact State.standbyTests_chim 8 c c.isLt
  · exact ⟨_, exec_standbyKat_of_not_due htick, State.closed_chims s, State.closed_regsBut (State.regsBut_refl s _)⟩

end Sys2Proof.Machine
end

section
/-! SUPPORT. Completions (R348, R349, R352): what a write through the gate of a slice leaves of the work of that slice, and what
a completion that succeeds brings about. -/

namespace Sys2Proof.Machine

open Sys2Proof

variable {s t u : State} {n : Nat}

/-! ### The work of a slice -/

/-- The completion queue's tail, the ring fault and the jobs of slice `n` are the same. -/
structure SameWork (n : Nat) (s t : State) : Prop where
  cqTail : (t.sliceRt n).cqTail = (s.sliceRt n).cqTail
  ringFault : (t.sliceRt n).ringFault = (s.sliceRt n).ringFault
  jobs : (t.sliceRt n).jobs = (s.sliceRt n).jobs

theorem SameWork.refl (s : State) : SameWork n s s := ⟨rfl, rfl, rfl⟩

theorem SameWork.trans (h : SameWork n s t) (h' : SameWork n t u) : SameWork n s u :=
  ⟨h'.cqTail.trans h.cqTail, h'.ringFault.trans h.ringFault, h'.jobs.trans h.jobs⟩

theorem SameWork.of_sliceRt (h : t.sliceRt n = s.sliceRt n) : SameWork n s t := ⟨by rw [h], by rw [h], by rw [h]⟩

/-- An operation outside the slices. -/
theorem SameWork.of_keeps {l : List Part} (h : Keeps (mask l) s t) (hl : Part.slices ∉ l) : SameWork n s t := by
  have hslices : t.slices = s.slices := h.frame .slices (Bool.eq_false_iff.mpr fun e => hl ((mask_testBit_iff l _).mp e))
  exact .of_sliceRt (by rw [State.sliceRt, State.sliceRt, hslices])

theorem SameWork.modSlice {f : SliceRt → SliceRt} (htail : ∀ r, (f r).cqTail = r.cqTail)
    (hfault : ∀ r, (f r).ringFault = r.ringFault) (hjobs : ∀ r, (f r).jobs = r.jobs) : SameWork n s (s.modSlice n f) := by
  refine ⟨?_, ?_, ?_⟩ <;> rw [State.modSlice_sliceRt_self]
  · exact htail _
  · exact hfault _
  · exact hjobs _

theorem SameWork.sliceWrite (addr : Nat) (bytes : List Byte) : SameWork n s (s.sliceWrite n addr bytes) :=
  .of_keeps State.sliceWrite_keeps (by decide)

/-- An entry of the event ring moves that ring's tail alone (R358). -/
theorem SameWork.ringEvent (code object : Nat) : SameWork n s (s.ringEvent n code object) := by
  unfold State.ringEvent
  extract_lets size r entry at_ written
  have hwritten : SameWork n s written :=
    (SameWork.sliceWrite at_ entry).trans (.modSlice (fun _ => rfl) (fun _ => rfl) fun _ => rfl)
  clear_value written
  split
  · exact .refl s
  · split
    · exact .of_sliceRt (State.bumpReg_sliceRt ..)
    · exact hwritten.trans (.of_keeps State.raiseVector_keeps (by decide))

theorem SameWork.gatedWrite (addr : Nat) (bytes : List Byte) : SameWork n s (s.gatedWrite n addr bytes) := by
  unfold State.gatedWrite
  extract_lets was written
  have hwritten : SameWork n s written := .sliceWrite addr bytes
  clear_value written
  split
  · exact hwritten.trans (.ringEvent 3 0)
  · exact hwritten

/-! ### What is sent -/

/-- The bytes of a write leave before what the dirty log marks for it (R352, R356). -/
theorem State.sliceWrite_sends {addr : Nat} {bytes : List Byte} (h : bytes.isEmpty = false) :
    s.out ++ [.hostWrite addr bytes] <+: (s.sliceWrite n addr bytes).out := by
  unfold State.sliceWrite
  rw [if_neg (by simp [h])]
  extract_lets written first last
  have hmarks : ∀ l : List Nat, written.out <+: (forL l (fun a s => s.markPage n (max a addr)) written).out := fun l =>
    (Keeps.forL (fun _ _ => State.markPage_keeps) (Keeps.refl written)).out
  split
  · exact hmarks _
  · exact (Keeps.refl (m := 0) written).out

theorem State.gatedWrite_sends {addr : Nat} {bytes : List Byte} (h : bytes.isEmpty = false) :
    s.out ++ [.hostWrite addr bytes] <+: (s.gatedWrite n addr bytes).out := by
  unfold State.gatedWrite
  extract_lets was written
  have hwritten : s.out ++ [.hostWrite addr bytes] <+: written.out := State.sliceWrite_sends h
  clear_value written
  split
  · exact hwritten.trans State.ringEvent_keeps.out
  · exact hwritten

/-! ### A completion that succeeds -/

/-- The completion entry is written, and the queue's tail moves past it (R348). -/
def State.cplWritten (s : State) (n q index status outLen gen epoch : Nat) : State :=
  (s.gatedWrite n (s.cplAt n) (s.cplBytes n q index status outLen gen epoch)).modSlice n (fun r =>
    { r with cqTail := (r.cqTail + 1) % (2 * ringSize (s.rd F.slcCqCfgLog2Size n)), waiting := r.waiting + 1
             waitFrom := if r.waiting = 0 then s.tick else r.waitFrom })

variable {q index status outLen gen epoch : Nat} {irq : Bool}

/-- Its interrupt is raised at once, or waits (R359). -/
theorem State.completion_cases :
    s.completion n q index status outLen gen epoch irq true = s.cplWritten n q index status outLen gen epoch ∨
      ∃ v, s.completion n q index status outLen gen epoch irq true =
        ((s.cplWritten n q index status outLen gen epoch).modSlice n (fun r => { r with waiting := 0 })).raiseVector v := by
  unfold State.completion State.cplWritten
  extract_lets size r phase entry at_ written waiting count
  have hphase : 128 * phase = if r.cqTail < size then 128 else 0 := by
    unfold phase
    split <;> rfl
  have hentry : s.cplBytes n q index status outLen gen epoch = entry := by
    unfold entry
    rw [hphase]
    rfl
  rw [hentry, if_neg (by decide)]
  split
  · exact .inr ⟨_, rfl⟩
  · exact .inl rfl

/-- The interrupt leaves the work of the slice. -/
theorem State.completion_same :
    SameWork n (s.cplWritten n q index status outLen gen epoch) (s.completion n q index status outLen gen epoch irq true) := by
  have htold : ∀ w : State, SameWork n w (w.modSlice n (fun r => { r with waiting := 0 })) := fun w =>
    .modSlice (fun _ => rfl) (fun _ => rfl) fun _ => rfl
  rcases State.completion_cases (s := s) (irq := irq) with h | ⟨v, h⟩ <;> rw [h]
  · exact .refl _
  · exact (htold _).trans (.of_keeps State.raiseVector_keeps (by decide))

/-- The tail of the queue moves by one entry (R348). -/
theorem State.cplWritten_done : s.cplDone (s.cplWritten n q index status outLen gen epoch) n := by
  have hwrite : SameWork n s (s.gatedWrite n (s.cplAt n) (s.cplBytes n q index status outLen gen epoch)) := .gatedWrite ..
  rw [State.cplDone, State.cplWritten, State.modSlice_sliceRt_self]
  exact ⟨by rw [hwrite.cqTail], hwrite.ringFault⟩

theorem State.cplWritten_jobs : ((s.cplWritten n q index status outLen gen epoch).sliceRt n).jobs = (s.sliceRt n).jobs := by
  rw [State.cplWritten, State.modSlice_sliceRt_self]
  exact (SameWork.gatedWrite _ _).jobs

theorem State.completion_done : s.cplDone (s.completion n q index status outLen gen epoch irq true) n := by
  obtain ⟨htail, hfault⟩ : s.cplDone (s.cplWritten n q index status outLen gen epoch) n := State.cplWritten_done
  exact ⟨State.completion_same.cqTail.trans htail, State.completion_same.ringFault.trans hfault⟩

/-- A completion leaves the jobs of its slice. -/
theorem State.completion_jobs :
    ((s.completion n q index status outLen gen epoch irq true).sliceRt n).jobs = (s.sliceRt n).jobs :=
  State.completion_same.jobs.trans State.cplWritten_jobs

/-- A completion sends its entry first (R348). -/
theorem State.completion_sends : s.sends (s.completion n q index status outLen gen epoch irq true)
    (.hostWrite (s.cplAt n) (s.cplBytes n q index status outLen gen epoch)) := by
  have hwritten : s.sends (s.cplWritten n q index status outLen gen epoch)
      (.hostWrite (s.cplAt n) (s.cplBytes n q index status outLen gen epoch)) := State.gatedWrite_sends rfl
  have htold : ∀ (w : State) (v : Nat), w.out <+: ((w.modSlice n (fun r => { r with waiting := 0 })).raiseVector v).out :=
    fun w v => (State.raiseVector_keeps (s := w.modSlice n _)).out
  rcases State.completion_cases (s := s) (irq := irq) with h | ⟨v, h⟩ <;> rw [h]
  · exact hwritten
  · exact hwritten.trans (htold _ v)

end Sys2Proof.Machine
end

section
/-! SUPPORT. A JOB at the head of its queue (R184, R186, R346): refused, or begun with the key of its association. -/

namespace Sys2Proof.Machine

open Sys2Proof

variable {s : State} {n : Nat} {d : Desc} {blob : Option (List Byte)} {ok : Bool}

/-! ### A descriptor that is refused -/

/-- The state in which the completion of a refused JOB finds its slice. -/
def State.refusing (s : State) (n : Nat) (d : Desc) (status : Nat) : State := (s.dropDesc n d.queue).countJob n status

theorem State.refusing_keeps (status : Nat) : Keeps (mask [.rep, .slices]) s (s.refusing n d status) :=
  (State.dropDesc_keeps.mono (by rfl)).trans (State.countJob_keeps.mono (by rfl))

theorem State.refusing_same (status : Nat) : SameWork n s (s.refusing n d status) := by
  have hdrop : SameWork n s (s.dropDesc n d.queue) := .modSlice (fun _ => rfl) (fun _ => rfl) fun _ => rfl
  exact hdrop.trans (.of_keeps State.countJob_keeps (by decide))

theorem State.refusing_rd (status : Nat) (f : Fld) (i o : Nat) : (s.refusing n d status).rd f i o = s.rd f i o :=
  (State.refusing_keeps status).rd f i o (by simp)

theorem State.refusing_out (status : Nat) : (s.refusing n d status).out = s.out :=
  (State.refusing_keeps status).frame .out (by decide)

/-- A refused JOB completes at once with its status, and begins nothing (R346). -/
theorem State.refuseJob_completes (status : Nat) :
    s.cplDone (s.refuseJob n d status true) n ∧ ((s.refuseJob n d status true).sliceRt n).jobs = (s.sliceRt n).jobs ∧
      s.sends (s.refuseJob n d status true)
        (.hostWrite (s.cplAt n) (s.cplBytes n d.queue d.index status 0 (s.sliceRt n).gen 0)) := by
  have hsame : SameWork n s (s.refusing n d status) := State.refusing_same status
  have hdone : (s.refusing n d status).cplDone (s.refuseJob n d status true) n := State.completion_done
  have hsends : (s.refusing n d status).sends (s.refuseJob n d status true) (.hostWrite ((s.refusing n d status).cplAt n)
      ((s.refusing n d status).cplBytes n d.queue d.index status 0 (s.sliceRt n).gen 0)) := State.completion_sends
  obtain ⟨htail, hfault⟩ := hdone
  rw [hsame.cqTail, State.refusing_rd] at htail
  simp only [State.sends, State.cplAt, State.cplBytes, State.rd64, State.refusing_rd, State.refusing_out,
    hsame.cqTail] at hsends
  exact ⟨⟨htail, hfault.trans hsame.ringFault⟩, State.completion_jobs.trans hsame.jobs, hsends⟩

/-- The statuses of the checks before the key, each with its check (R346). -/
theorem State.judgeJob_of_refused {st : Nat} (h : st = 12 ∧ d.bad = true ∨
    st = 13 ∧ d.bad = false ∧ d.gen ≠ (s.sliceRt n).gen ∨
    st = 5 ∧ d.bad = false ∧ d.gen = (s.sliceRt n).gen ∧ (d.mode = 0 ∨ 8 ≤ d.mode)) :
    s.judgeJob n d blob ok = s.refuseJob n d st ok := by
  rcases h with ⟨rfl, hbad⟩ | ⟨rfl, hbad, hgen⟩ | ⟨rfl, hbad, hgen, hmode⟩
  · rw [State.judgeJob, if_pos hbad]
  · rw [State.judgeJob, if_neg (by simp [hbad]), if_pos hgen]
  · rw [State.judgeJob, if_neg (by simp [hbad]), if_neg (not_not_intro hgen), if_pos hmode]

/-! ### A descriptor that passes its checks -/

/-- The key that a job takes of an association (R346). -/
def lookasideKey (a : Assoc) : List Byte :=
  slice (kdf (beBytes 32 a.tx.key.toNat) "heserok lookaside" (beBytes 4 a.tx.epoch) 256) 0 32

theorem State.jobKey_of_assoc (hkind : d.kind = 1) (hvalid : (s.asn d.keyRef).sliceValid = true)
    (hslice : (s.asn d.keyRef).slice = n)
    (hstate : (s.asn d.keyRef).state = .live ∨ (s.asn d.keyRef).state = .rolling ∨ (s.asn d.keyRef).state = .draining)
    (hmode : 1 ≤ d.mode ∧ d.mode ≤ 4) :
    s.jobKey n d blob = (s, .key (lookasideKey (s.asn d.keyRef)) (s.asn d.keyRef).tx.epoch) := by
  simp only [State.jobKey, hkind, hvalid, hslice, hstate, hmode, and_self, decide_true, Bool.and_self, ↓reduceIte,
    lookasideKey]

/-- A key whose use is not taken of a vault slot begins its job (R346). -/
theorem State.judgeJob_of_key {key : List Byte} {epoch : Nat} (hbad : d.bad = false) (hgen : d.gen = (s.sliceRt n).gen)
    (hmode : 1 ≤ d.mode ∧ d.mode < 8) (hkey : s.jobKey n d blob = (s, .key key epoch)) (hlen : d.lengthStatus = 0)
    (hquota : 32 ≤ s.rd F.hstSresCellQuota 0 n) (hkind : d.kind ≠ 2) :
    s.judgeJob n d blob ok = s.beginJob n d key epoch := by
  have hmode' : ¬(d.mode = 0 ∨ 8 ≤ d.mode) := by omega
  have hcells : ¬ s.rd F.hstSresCellQuota 0 n < 32 := Nat.not_lt.mpr hquota
  simp [State.judgeJob, hbad, hgen, hmode', hkey, hlen, hcells, hkind]

/-- A job begins: its descriptor is gone, and it stands last among the jobs of its slice (R345). -/
theorem State.beginJob_sliceRt (key : List Byte) (epoch : Nat) : (s.beginJob n d key epoch).sliceRt n =
    { s.sliceRt n with
      fetched := (s.sliceRt n).fetched.eraseP (fun x => x.queue = d.queue)
      nextJob := (s.sliceRt n).nextJob + 1
      jobs := (s.sliceRt n).jobs ++ [{ id := (s.sliceRt n).nextJob, queue := d.queue, index := d.index
                                       gen := (s.sliceRt n).gen, mode := d.mode, dir := d.dir, irq := d.irq
                                       key := key, epoch := epoch, iv := slice d.bytes 40 (ivLen d.mode)
                                       src := leNat (slice d.bytes 16 8), dst := leNat (slice d.bytes 24 8)
                                       len := d.len, aadLen := d.aadLen, tagAt := leNat (slice d.bytes 56 8)
                                       since := s.tick }] } := by
  simp only [State.beginJob, State.dropDesc, State.modSlice_sliceRt_self]

theorem execJob_of_head {n : SliceNo} {q : Fin 4} (hhead : s.headDesc n q = some d) (hfence : d.opcode ≠ 2)
    (hnop : d.opcode ≠ 3) (hroom : (s.sliceRt n).jobs.length < 64) :
    exec (.job n q blob ok) s = .next (s.judgeJob n d blob ok).closed := by
  have hjob : ¬(d.opcode = 2 ∨ d.opcode = 3 ∨ 64 ≤ (s.sliceRt n).jobs.length) := by omega
  show execJob n q blob ok s = _
  simp only [execJob, hhead, hjob, ↓reduceIte, done_eq]

end Sys2Proof.Machine
end

section
/-! PROOF. The statement on jobs that begin. -/

namespace Sys2Proof.Machine

open Sys2Proof

/-- Settles O36: a JOB that passes every check by the key that its association gives, and one that fails a check before the key
by the completion of its refusal. -/
theorem jobsBegin : Obligations.JobsBegin := by
  unfold Obligations.JobsBegin
  intro s n q d blob hhead hfence hnop hroom
  refine ⟨?_, ?_⟩
  · rintro _ hbad hgen hmode0 hmode4 hkind rfl hvalid hslice hstate hlen hquota ok
    have hmode : 1 ≤ d.mode ∧ d.mode ≤ 4 := ⟨Nat.one_le_iff_ne_zero.mpr hmode0, hmode4⟩
    have hbegins : s.judgeJob n d blob ok = s.beginJob n d (lookasideKey (s.asn d.keyRef)) (s.asn d.keyRef).tx.epoch :=
      State.judgeJob_of_key hbad hgen (by omega) (State.jobKey_of_assoc hkind hvalid hslice hstate hmode) hlen hquota (by omega)
    have hkeeps : Keeps (mask [.slices]) s (s.beginJob n d (lookasideKey (s.asn d.keyRef)) (s.asn d.keyRef).tx.epoch) :=
      State.beginJob_keeps
    refine ⟨_, execJob_of_head hhead hfence hnop hroom, ?_⟩
    dsimp only
    rw [hbegins, State.closed_assocs, State.closed_vault, State.closed_sliceRt, State.beginJob_sliceRt, ← hgen]
    exact ⟨State.closed_regsBut fun k _ => hkeeps.word (by simp), hkeeps.frame .assocs (by decide),
      hkeeps.frame .vault (by decide), rfl, rfl, rfl⟩
  · intro st hst
    obtain ⟨⟨htail, hfault⟩, hjobs, hsends⟩ := State.refuseJob_completes (s := s) (n := n) (d := d) st
    refine ⟨_, execJob_of_head hhead hfence hnop hroom, ?_⟩
    dsimp only
    rw [State.judgeJob_of_refused hst, State.cplDone, State.closed_sliceRt]
    exact ⟨⟨htail, hfault⟩, hjobs, List.IsPrefix.trans hsends (State.closed_out _)⟩

end Sys2Proof.Machine
end

section
/-! SUPPORT. A sealed frame that is deciphered (R208, R211 to R213, R320, R321): the checks of its SecTAG, those of its queue, and
the frame that enters the Hearth. -/

namespace Sys2Proof.Machine

open Sys2Proof

variable {s u : State} {f : RxFrame} {t : SecIn} {a p pn q : Nat}

/-! ### The secure data (R205) -/

/-- A sealed frame of good format holds its secure data whole behind the SecTAG. -/
theorem secure_fits {bs : List Byte} (hformat : secFormatBad (secIn bs) bs = false) :
    secAt bs + 16 + secureLen (secIn bs) bs ≤ bs.length := by
  simp only [secFormatBad, Bool.or_eq_false_iff, decide_eq_false_iff_not] at hformat
  obtain ⟨-, hlong⟩ := hformat
  have htag : (secIn bs).clearTag = decide (secAt bs = 16) := rfl
  have hat : secAt bs = 12 ∨ secAt bs = 16 := by
    unfold secAt
    split
    · exact .inl rfl
    · exact .inr rfl
  unfold secureLen
  rw [htag] at hlong ⊢
  rcases hat with hat | hat
  · rw [if_neg (by simp [hat])] at *
    omega
  · rw [if_pos (by simp [hat])] at *
    omega

/-- The bytes of a frame deciphered under phase `ph` and number `pn`: those before the SecTAG, the secure data left clear, and
the rest of it deciphered, under a new FCS (R208). -/
def openedBytes (ph : Phase) (confOff pn : Nat) (t : SecIn) (bs : List Byte) : List Byte :=
  let clear := min (confBytes confOff) (secureLen t bs)
  withFcs (bs.take (secAt bs) ++ slice bs (secAt bs + 16) clear ++
    gcmCrypt ph.key (frameIv (!ph.initiator) pn ph.salt)
      (((bs.drop (secAt bs + 16)).take (secureLen t bs)).drop clear))

/-- What is within a frame's length is cut from it without padding. -/
theorem slice_of_le {bs : List Byte} {i n : Nat} (h : i + n ≤ bs.length) : slice bs i n = (bs.drop i).take n := by
  have hlen : ((bs.drop i).take n).length = n := by
    rw [List.length_take, List.length_drop]
    omega
  simp only [slice, hlen, Nat.sub_self, List.replicate_zero, List.append_nil]

/-! ### Checks 2 to 6 of R321 -/

/-- A frame of port `p` bound for queue `q` passes the checks of R129 and R321 that do not look at its association. -/
structure State.Admits (s : State) (p q : Nat) : Prop where
  side : s.sameSide p q = false
  takes : s.takes q = true
  credit : 0 < (s.chim (p / 18)).credit

/-- A queue of a cipher-side port leads to the other side unless its own port is off (R129). -/
theorem State.sameSide_of_cipher (hside : s.portCipher p = true)
    (h : s.portOn (s.queuePort q) = true → s.portCipher (s.queuePort q) = false) : s.sameSide p q = false := by
  rw [State.sameSide, hside, Bool.and_eq_false_iff, decide_eq_false_iff_not]
  cases hon : s.portOn (s.queuePort q) with
  | false => exact .inl rfl
  | true => exact .inr (by simp [h hon])

/-- Sides are those of the registers. -/
theorem State.sameSide_congr (hregs : u.regs = s.regs) (p q : Nat) : u.sameSide p q = s.sameSide p q := by
  have hside (x : State) : x.sameSide p q = ({ ({} : State) with regs := x.regs } : State).sameSide p q := rfl
  rw [hside u, hside s, hregs]

/-- The checks do not depend on the reporting channels. -/
theorem State.Admits.of_rep (h : s.Admits p q) (hkeeps : Keeps (mask [.rep]) s u) (hregs : u.regs = s.regs) : u.Admits p q where
  side := by rw [State.sameSide_congr hregs, h.side]
  takes := by
    rw [State.takes_congr hregs (hkeeps.frame .ports (by decide)) (hkeeps.frame .hearth (by decide)), h.takes]
  credit := by
    have hchim : u.chim (p / 18) = s.chim (p / 18) :=
      congrArg (fun m => nget ({} : ChimRt) m (p / 18)) (hkeeps.frame .chims (by decide))
    rw [hchim]
    exact h.credit

/-! ### The checks of the SecTAG (R165, R211 to R213) -/

/-- The SecTAG of `f` names entry `a`, which verifies it under the number `pn` that is recovered and not replayed. -/
structure State.Names (s : State) (f : RxFrame) (a pn : Nat) : Prop where
  format : secFormatBad (secIn f.bytes) f.bytes = false
  sci : s.sciLookup f.port (secIn f.bytes).sci = some a
  tagPlace : (secIn f.bytes).clearTag = (s.asn a).vlanClear
  number : recoverPn ((s.asn a).ph (bit (secIn f.bytes).tci 0)) (s.asn a).win (secIn f.bytes).low = some pn
  positive : 0 < pn
  limit : pn < (s.asn a).hardLimit
  admitting : s.admitting = true
  verifies : (s.asn a).verifies (bit (secIn f.bytes).tci 0) = true
  fresh : replayed ((s.asn a).ph (bit (secIn f.bytes).tci 0)) (s.asn a).win pn = false

theorem State.Names.of_rep (h : s.Names f a pn) (hkeeps : Keeps (mask [.rep]) s u) : u.Names f a pn where
  format := h.format
  sci := by rw [hkeeps.sciLookup, h.sci]
  tagPlace := by rw [hkeeps.asn, h.tagPlace]
  number := by rw [hkeeps.asn, h.number]
  positive := h.positive
  limit := by rw [hkeeps.asn]; exact h.limit
  admitting := by rw [hkeeps.admitting, h.admitting]
  verifies := by rw [hkeeps.asn, h.verifies]
  fresh := by rw [hkeeps.asn, h.fresh]

theorem AState.keyless_of_keyed {x : AState} (h : x.keyed = true) : x.keyless = false := by
  cases x with
  | kindling | live | rolling | draining => rfl
  | idle | dead | quenched => cases h

/-- An entry that verifies frames holds keys (R152, R153). -/
theorem Assoc.keyless_of_verifies {e : Assoc} {n : Bool} (h : e.verifies n = true) : e.state.keyless = false := by
  simp only [Assoc.verifies, Bool.and_eq_true] at h
  obtain ⟨hkeyed, -⟩ := h
  exact AState.keyless_of_keyed hkeyed

/-- A frame whose SecTAG passes every check is deciphered on the association that it names. -/
theorem State.sealedFrame_of_named (h : s.Names f a pn) :
    s.sealedFrame f = (s.count .sea f.port 1).openOn f (secIn f.bytes) a pn := by
  have hcounted := h.of_rep (Keeps.count s .sea f.port 1 1)
  have hrange : ¬ (pn = 0 ∨ ((s.count .sea f.port 1).asn a).hardLimit ≤ pn) := by
    have := hcounted.positive
    have := hcounted.limit
    omega
  unfold State.sealedFrame
  dsimp only
  rw [if_neg (by simp [h.format]), hcounted.sci]
  dsimp only
  rw [if_neg (by simp [hcounted.tagPlace]), hcounted.number]
  dsimp only
  rw [if_neg hrange, if_neg (by simp [hcounted.admitting]),
    if_neg (by simp [Assoc.keyless_of_verifies h.verifies]), if_neg (by simp [h.verifies]), if_neg (by simp [h.fresh])]

/-! ### The frame deciphered (R181, R208, R320) -/

/-- A frame that passes every check is charged and stored deciphered, with no verdict yet. -/
theorem State.openOn_of_admits (h : s.Admits f.port (s.rd F.hrtQcfgRxQueue 0 (s.asn a).queue))
    (hfits : secAt f.bytes + 16 + secureLen t f.bytes ≤ f.bytes.length) :
    ∃ x : HFrame, s.openOn f t a pn =
        (s.chargeFrame f.port t.clearTag (s.asn a).confOff (f.bytes.length - 32)).storeFrame x f.bytes.length ∧
      (x.kind, x.queue, x.assoc, x.pn, x.passed) =
        (.opened, s.rd F.hrtQcfgRxQueue 0 (s.asn a).queue, a, pn, false) ∧
      x.bytes = openedBytes ((s.asn a).ph (bit t.tci 0)) (s.asn a).confOff pn t f.bytes := by
  have hsecure : ((f.bytes.drop (secAt f.bytes + 16)).take (secureLen t f.bytes)).length = secureLen t f.bytes := by
    rw [List.length_take, List.length_drop]
    omega
  unfold State.openOn
  dsimp only
  rw [if_neg (by simp [h.side]), State.admitQueue_of_takes h.takes]
  dsimp only
  rw [State.creditCheck_of_credit h.credit]
  refine ⟨_, rfl, rfl, ?_⟩
  dsimp only
  rw [hsecure, List.take_take, Nat.min_eq_left (Nat.min_le_right _ _), openedBytes, slice_of_le (by omega)]
  rfl

end Sys2Proof.Machine
end

section
/-! SUPPORT. The verdict on a frame of the Hearth (R165, R181, R190): what a pass, a failure and the verdict on a frame that was
not deciphered leave. -/

namespace Sys2Proof.Machine

open Sys2Proof

variable {s u : State} {f : HFrame} {p : Nat}

/-! ### Operations -/

theorem State.putFrame_frames (f : HFrame) :
    (s.putFrame f).hearth.frames = s.hearth.frames.map (fun x => if x.id = f.id then f else x) := rfl

theorem State.loseFrame_zeroing (h : f.cells ≠ 0) :
    (s.loseFrame f).hearth.zeroing = s.hearth.zeroing ++ [(f.cells, s.tick + 1)] := by
  rw [State.loseFrame, (SameHeld.emptied ..).zeroing, State.zeroCells_zeroing h]
  rfl

/-- Zeroing on a failure counts one tag failure of the port (R152, R190). -/
theorem State.zeroDrop_authCount : ((s.zeroDrop p).port p).authCount = (s.port p).authCount + 1 := by
  rw [State.zeroDrop, State.count_port, State.tagFailure, State.count_port, State.modPort_port_self]

theorem Assoc.setPh_ph_self (e : Assoc) (n : Bool) (ph : Phase) : (e.setPh n ph).ph n = ph := by cases n <;> rfl

theorem Assoc.setPh_ph_not (e : Assoc) (n : Bool) (ph : Phase) : (e.setPh n ph).ph (!n) = e.ph (!n) := by cases n <;> rfl

theorem Assoc.setPh_state (e : Assoc) (n : Bool) (ph : Phase) : (e.setPh n ph).state = e.state := by cases n <;> rfl

/-! ### The verdict -/

/-- A frame whose tag agrees, of an association that still verifies its phase under the same key, and whose number is new. -/
structure State.Agrees (s : State) (f : HFrame) : Prop where
  whole : f.mismatch = false
  opened : f.kind = .opened
  tag : f.tagOk = true
  verifies : (s.asn f.assoc).verifies f.phase = true
  epoch : ((s.asn f.assoc).ph f.phase).epoch = f.epoch
  fresh : replayed ((s.asn f.assoc).ph f.phase) (s.asn f.assoc).win f.pn = false

/-- The number of frame `f` entered in the receive state of its phase (R165). -/
def State.noted (s : State) (f : HFrame) : State :=
  s.setAsn f.assoc ((s.asn f.assoc).setPh f.phase (((s.asn f.assoc).ph f.phase).received f.pn))

/-- Frame `f` marked ready to leave, and counted (R165, R423). -/
def State.readied (s : State) (f : HFrame) : State :=
  ((s.count .asn 0 2).putFrame { f with passed := true }).ptpCount (b2n f.rawIn.isSome) f.bytes

/-- A frame that passes has its number noted and is released; what it teaches goes to the forwarding table (R131, R165). -/
theorem State.verdict_of_agrees (h : s.Agrees f) : ∃ bind, s.verdict f =
    ((s.noted f).readied f).learn f.assoc bind (beAt f.bytes 6 6) := by
  have hkeyed : (s.asn f.assoc).state.keyless = false := Assoc.keyless_of_verifies h.verifies
  unfold State.verdict
  rw [if_neg (by simp [h.whole])]
  split
  next =>
    dsimp only
    rw [if_neg (by simp [h.tag]), if_neg (by simp [h.fresh]), onlyIf_of_true (by simp [hkeyed]),
      onlyIf_of_true (by simp [h.verifies, h.epoch])]
    exact ⟨_, rfl⟩
  next hother => exact absurd h.opened hother

theorem State.readied_keeps : Keeps (mask [.rep, .hearth]) s (s.readied f) :=
  ((State.count_keeps.mono (by rfl)).trans (State.putFrame_keeps.mono (by rfl))).trans (State.ptpCount_keeps.mono (by rfl))

theorem State.readied_frames : (s.readied f).hearth.frames =
    s.hearth.frames.map (fun x => if x.id = f.id then { f with passed := true } else x) := by
  have hcounted (v : State) : (v.ptpCount (b2n f.rawIn.isSome) f.bytes).hearth = v.hearth :=
    State.ptpCount_keeps.frame .hearth (by decide)
  rw [State.readied, hcounted, State.putFrame_frames, State.count_hearth]

/-- The number of a frame that passes changes the receive state of its phase alone. -/
theorem State.noted_asn (hkeyed : (s.asn f.assoc).state.keyless = false) :
    ((s.noted f).asn f.assoc).ph f.phase = ((s.asn f.assoc).ph f.phase).received f.pn ∧
      ((s.noted f).asn f.assoc).ph (!f.phase) = (s.asn f.assoc).ph (!f.phase) ∧
      ∀ b, b ≠ f.assoc → (s.noted f).asn b = s.asn b := by
  have hentry : (s.noted f).asn f.assoc =
      (s.asn f.assoc).setPh f.phase (((s.asn f.assoc).ph f.phase).received f.pn) := by
    rw [State.noted, State.setAsn_asn_self, Assoc.settled, Assoc.setPh_state, if_neg (by simp [hkeyed])]
  exact ⟨by rw [hentry, Assoc.setPh_ph_self], by rw [hentry, Assoc.setPh_ph_not], fun b hb => State.setAsn_asn_ne s _ hb⟩

/-- A frame whose tag fails is lost (R190). -/
theorem State.verdict_of_wrong_tag (hwhole : f.mismatch = false) (hopened : f.kind = .opened) (htag : f.tagOk = false) :
    s.verdict f = (s.loseFrame f).zeroDrop f.port := by
  unfold State.verdict
  rw [if_neg (by simp [hwhole]), hopened]
  exact if_pos (by simp [htag])

/-- A frame that was not deciphered has no tag to fail. -/
theorem State.verdict_of_not_opened (hwhole : f.mismatch = false) (hkind : f.kind ≠ .opened) :
    s.verdict f = s.putFrame { f with passed := true } := by
  unfold State.verdict
  rw [if_neg (by simp [hwhole])]
  split
  next hopened => exact absurd hopened hkind
  next => rfl

theorem execTagVerdict_of_found {p : PortNo} {id : Nat} {cyc : Cyc}
    (h : s.hearth.frames.find? (fun x => decide (x.id = id ∧ x.port = p.val) && !x.passed) = some f) :
    execTagVerdict p id cyc s = done ((s.at cyc).verdict f) := by
  have hat : (s.at cyc).hearth.frames.find? (fun x => decide (x.id = id ∧ x.port = p.val) && !x.passed) = some f := h
  unfold execTagVerdict
  dsimp only
  rw [hat]

end Sys2Proof.Machine
end

section
/-! PROOF. The statement on sealed frames that are deciphered, and on their verdict. -/

namespace Sys2Proof.Machine

open Sys2Proof

variable {s : State} {f : HFrame} {p : PortNo} {id : Nat} {cyc : Cyc}

/-- A sealed frame that passes every check enters the Hearth deciphered, and no association changes. -/
theorem frameReceived_opens {f : RxFrame} {a pn : Nat} (htakes : s.macTakes f) (hside : s.portCipher f.port = true)
    (hsec : hasEtherType f.bytes macsecType = true) (hnames : s.Names f a pn)
    (hadmits : s.Admits f.port (s.rd F.hrtQcfgRxQueue 0 (s.asn a).queue)) :
    Runs (.frameReceived f cyc) s (fun t =>
      t.assocs = s.assocs ∧ s.regsBut t [] ∧ t.fwd = s.fwd ∧
      t.hearth.frames.map (fun x => (x.id, x.kind, x.queue, x.assoc, x.pn, x.passed)) =
        s.hearth.frames.map (fun x => (x.id, x.kind, x.queue, x.assoc, x.pn, x.passed)) ++
          [(s.hearth.nextId, .opened, s.rd F.hrtQcfgRxQueue 0 (s.asn a).queue, a, pn, false)] ∧
      t.hearth.frames.getLast?.map (·.bytes) = some (openedBytes ((s.asn a).ph (bit (secIn f.bytes).tci 0))
        (s.asn a).confOff pn (secIn f.bytes) f.bytes)) := by
  have hpassed : Keeps (mask [.rep]) (s.at cyc) ((s.at cyc).passedOn f) := State.passedOn_keeps
  have hpassedRegs : ((s.at cyc).passedOn f).regs = s.regs := State.passedOn_regs
  have hexec := execFrameReceived_of_cipher (cyc := cyc) htakes hside
  generalize (s.at cyc).passedOn f = u at hpassed hpassedRegs hexec
  have hcounted : Keeps (mask [.rep]) (s.at cyc) (u.count .sea f.port 1) := hpassed.trans (Keeps.count ..)
  have hcountedRegs : (u.count .sea f.port 1).regs = s.regs := (State.count_regs ..).trans hpassedRegs
  have hnamed : (s.at cyc).Names f a pn := { hnames with }
  rw [State.cipherFrame_of_sealed hsec, State.sealedFrame_of_named (hnamed.of_rep hpassed)] at hexec
  generalize u.count .sea f.port 1 = v at hcounted hcountedRegs hexec
  have hqueue : v.rd F.hrtQcfgRxQueue 0 (v.asn a).queue = s.rd F.hrtQcfgRxQueue 0 (s.asn a).queue := by
    rw [hcounted.asn, hcounted.rd_of_rep]
    rfl
  have hentry : v.asn a = s.asn a := hcounted.asn a
  have hadmitted : (s.at cyc).Admits f.port (s.rd F.hrtQcfgRxQueue 0 (s.asn a).queue) := { hadmits with }
  obtain ⟨x, hopened, hfields, hbytes⟩ := State.openOn_of_admits (t := secIn f.bytes) (pn := pn) (a := a)
    (by rw [hqueue]; exact hadmitted.of_rep hcounted hcountedRegs) (secure_fits hnames.format)
  rw [hqueue] at hfields
  have hcharged : Keeps (mask [.rep, .chims]) v
      (v.chargeFrame f.port (secIn f.bytes).clearTag (v.asn a).confOff (f.bytes.length - 32)) := State.chargeFrame_keeps
  rw [hopened] at hexec
  generalize v.chargeFrame f.port (secIn f.bytes).clearTag (v.asn a).confOff (f.bytes.length - 32) = w at hcharged hexec
  have hhearth : w.hearth = s.hearth := (hcharged.frame .hearth (by decide)).trans (hcounted.frame .hearth (by decide))
  have hall : Keeps (mask [.rep, .chims, .hearth]) (s.at cyc) (w.storeFrame x f.bytes.length) :=
    ((hcounted.mono (by rfl)).trans (hcharged.mono (by rfl))).trans (State.storeFrame_keeps.mono (by rfl))
  refine runs_of_done hexec ⟨?_, State.closed_regsBut fun k _ => ?_, ?_, ?_, ?_⟩
  · exact (State.closed_assocs _).trans (hall.frame .assocs (by decide))
  · exact (hall.word (by simp)).trans (State.at_word s cyc k)
  · exact (State.closed_fwd _).trans (hall.frame .fwd (by decide))
  · obtain ⟨hkind, hq, ha, hpn, hnew⟩ := by simpa only [Prod.mk.injEq] using hfields
    rw [State.closed_hearth, State.storeFrame_frames, hhearth, List.map_append]
    simp only [List.map_cons, List.map_nil, hkind, hq, ha, hpn, hnew]
  · rw [State.closed_hearth, State.storeFrame_frames, List.getLast?_concat, Option.map_some, hbytes, hentry]

section
variable (hfound : s.hearth.frames.find? (fun x => decide (x.id = id ∧ x.port = p.val) && !x.passed) = some f)
include hfound

theorem id_of_found : f.id = id := by
  have hsome := List.find?_some hfound
  simp only [Bool.and_eq_true, decide_eq_true_eq] at hsome
  obtain ⟨⟨hid, -⟩, -⟩ := hsome
  exact hid

/-- A frame whose tag agrees becomes ready to leave, and its number enters the receive state of its phase. -/
theorem tagVerdict_passes (hagrees : s.Agrees f) :
    Runs (.tagVerdict p id cyc) s (fun t =>
      t.hearth.frames = s.hearth.frames.map (fun x => if x.id = id then { f with passed := true } else x) ∧
      (t.asn f.assoc).ph f.phase = ((s.asn f.assoc).ph f.phase).received f.pn ∧
      (t.asn f.assoc).ph (!f.phase) = (s.asn f.assoc).ph (!f.phase) ∧
      (∀ b, b ≠ f.assoc → t.asn b = s.asn b) ∧ s.regsBut t []) := by
  have hagreed : (s.at cyc).Agrees f := { hagrees with }
  obtain ⟨bind, hverdict⟩ := State.verdict_of_agrees hagreed
  have hexec : exec (.tagVerdict p id cyc) s = done ((s.at cyc).verdict f) := execTagVerdict_of_found hfound
  rw [hverdict] at hexec
  obtain ⟨hself, hother, hothers⟩ := State.noted_asn (Assoc.keyless_of_verifies hagreed.verifies)
  have hlearned : Keeps (mask [.rep, .fwd, .fresh]) (((s.at cyc).noted f).readied f)
      ((((s.at cyc).noted f).readied f).learn f.assoc bind (beAt f.bytes 6 6)) := State.learn_keeps
  have hnoted : Keeps (mask [.assocs]) (s.at cyc) ((s.at cyc).noted f) := State.setAsn_keeps
  have hrest := (State.readied_keeps (s := (s.at cyc).noted f) (f := f)).mono
    (m := mask [.rep, .hearth, .fwd, .fresh]) (by rfl) |>.trans (hlearned.mono (by rfl))
  have hframes := State.readied_frames (s := (s.at cyc).noted f) (f := f)
  have hhearth := hlearned.frame .hearth (by decide)
  generalize (((s.at cyc).noted f).readied f).learn f.assoc bind (beAt f.bytes 6 6) = w at hexec hrest hhearth
  have hasn (b : Nat) : w.closed.asn b = ((s.at cyc).noted f).asn b := by
    rw [State.closed_asn]
    exact congrArg (fun m : AsnTable => m.get b) (hrest.frame .assocs (by decide))
  refine runs_of_done hexec ⟨?_, ?_, ?_, fun b hb => ?_, State.closed_regsBut fun k _ => ?_⟩
  · rw [State.closed_hearth, hhearth, hframes, id_of_found hfound]
    rfl
  · rw [hasn, hself]
    rfl
  · rw [hasn, hother]
    rfl
  · rw [hasn, hothers b hb]
    rfl
  · exact (hrest.word (by simp)).trans ((hnoted.word (by simp)).trans (State.at_word s cyc k))

/-- A frame whose tag fails is removed, its cells to be zeroed, and the association stays. -/
theorem tagVerdict_removes (hwhole : f.mismatch = false) (hopened : f.kind = .opened) (htag : f.tagOk = false) :
    Runs (.tagVerdict p id cyc) s (fun t =>
      t.hearth.frames = s.hearth.frames.filter (fun x => decide (x.id ≠ id)) ∧ t.assocs = s.assocs ∧ t.fwd = s.fwd ∧
      (f.cells ≠ 0 → t.hearth.zeroing = s.hearth.zeroing ++ [(f.cells, s.tick + 1)]) ∧
      (t.port f.port).authCount = (s.port f.port).authCount + 1) := by
  have hexec : exec (.tagVerdict p id cyc) s = done ((s.at cyc).verdict f) := execTagVerdict_of_found hfound
  rw [State.verdict_of_wrong_tag hwhole hopened htag] at hexec
  have hlost : Keeps (mask [.hearth]) (s.at cyc) ((s.at cyc).loseFrame f) := State.loseFrame_keeps
  have hdropped : Keeps (mask [.rep, .ports]) ((s.at cyc).loseFrame f) (((s.at cyc).loseFrame f).zeroDrop f.port) :=
    State.zeroDrop_keeps
  have hhearth : (((s.at cyc).loseFrame f).zeroDrop f.port).hearth = ((s.at cyc).loseFrame f).hearth :=
    hdropped.frame .hearth (by decide)
  refine runs_of_done hexec ⟨?_, ?_, ?_, fun hcells => ?_, ?_⟩
  · rw [State.closed_hearth, hhearth, State.loseFrame_frames, id_of_found hfound]
    rfl
  · exact (State.closed_assocs _).trans ((hdropped.frame .assocs (by decide)).trans (hlost.frame .assocs (by decide)))
  · exact (State.closed_fwd _).trans ((hdropped.frame .fwd (by decide)).trans (hlost.frame .fwd (by decide)))
  · rw [State.closed_hearth, hhearth, State.loseFrame_zeroing hcells]
    rfl
  · have hport : ((s.at cyc).loseFrame f).port f.port = s.port f.port :=
      congrArg (fun m => nget ({} : PortRt) m f.port) (hlost.frame .ports (by decide))
    rw [State.closed_port, State.zeroDrop_authCount, hport]

/-- A frame that was not deciphered becomes ready to leave, and no association changes. -/
theorem tagVerdict_readies (hwhole : f.mismatch = false) (hkind : f.kind ≠ .opened) :
    Runs (.tagVerdict p id cyc) s (fun t =>
      t.hearth.frames = s.hearth.frames.map (fun x => if x.id = id then { f with passed := true } else x) ∧
      t.assocs = s.assocs ∧ s.regsBut t []) := by
  have hexec : exec (.tagVerdict p id cyc) s = done ((s.at cyc).verdict f) := execTagVerdict_of_found hfound
  rw [State.verdict_of_not_opened hwhole hkind] at hexec
  refine runs_of_done hexec ⟨?_, State.closed_assocs _, State.closed_regsBut fun _ _ => rfl⟩
  rw [State.closed_hearth, State.putFrame_frames]
  simp only [id_of_found hfound]
  rfl

end

/-- Settles O25: a frame by the checks that let it into the Hearth deciphered, and its verdict by its tag and its kind. -/
theorem cipherFramesAreOpened : Obligations.CipherFramesAreOpened := by
  unfold Obligations.CipherFramesAreOpened
  refine ⟨fun s f cyc a pn q ph htakes hside hsec hformat hsci htag hph hnumber hpos hlimit hadmitting hverifies hfresh hq
      hqueue hother hcredit => ?opens, fun s p id cyc f hfound hwhole => ?verdict⟩
  case opens =>
    subst hph hq
    exact frameReceived_opens htakes hside hsec
      ⟨hformat, hsci, htag, hnumber, hpos, hlimit, hadmitting, hverifies, hfresh⟩
      ⟨State.sameSide_of_cipher hside hother, hqueue, hcredit⟩
  case verdict =>
    refine ⟨fun hopened htag hverifies hepoch hfresh => ?_, fun hopened htag => ?_, fun hkind => ?_⟩
    · exact tagVerdict_passes hfound ⟨hwhole, hopened, htag, hverifies, hepoch, hfresh⟩
    · exact tagVerdict_removes hfound hwhole hopened htag
    · exact tagVerdict_readies hfound hwhole hkind

end Sys2Proof.Machine
end

section
/-! SUPPORT. A received group that is complete (R222 to R225): the verdict on the group before it, and the step of synchronisation
at its end. -/

namespace Sys2Proof.Machine

open Sys2Proof

variable {s : State} {p : Nat}

/-! ### What the verdict leaves -/

/-- A verdict takes the held group from the seal engine, and no more. -/
theorem State.groupVerdict_sealRt : (s.groupVerdict p).sealRt p = { s.sealRt p with held := none } := by
  unfold State.groupVerdict
  extract_lets r taken area valid
  have htaken : taken.sealRt p = { s.sealRt p with held := none } := State.modSeal_sealRt_self ..
  clear_value taken
  split
  next hnone =>
    have hsame : ({ r with held := none } : SealRt) = r := by rw [← hnone]
    exact hsame.symm
  next h hheld =>
    extract_lets tagOk ok judged told
    have htold : Keeps (mask [.rep, .ports]) taken told := by
      unfold told
      refine Keeps.ite (Keeps.refl _) (Keeps.ite ?_ State.zeroDrop_keeps)
      exact ((Keeps.count ..).trans (Keeps.count ..)).mono (by rfl)
    have hall : Keeps (mask [.rep, .ports, .hearth]) taken (told.releaseOpen p h ok) :=
      (htold.mono (by rfl)).trans (State.releaseOpen_keeps.mono (by rfl))
    rw [← htaken]
    exact congrArg (fun m => nget ({} : SealRt) m p) (hall.frame .seals (by decide))

/-- The group before the complete one has had its verdict, and the tag slots of the complete one are charged (R177, R225). -/
def State.predecessorJudged (s : State) (p : Nat) : State :=
  onlyIf (s.sealRt p).cur.deciphered (fun s => (s.count .sea p 7).chargeSlots (p / 18) 2 2) (s.groupVerdict p)

theorem State.predecessorJudged_keeps : Keeps (mask [.rep, .ports, .chims, .hearth, .seals]) s (s.predecessorJudged p) :=
  Keeps.onlyIf (fun _ => (State.count_keeps.mono (by rfl)).trans (State.chargeSlots_keeps.mono (by rfl)))
    (State.groupVerdict_keeps.mono (by rfl))

theorem State.predecessorJudged_sealRt : (s.predecessorJudged p).sealRt p = { s.sealRt p with held := none } := by
  rw [← State.groupVerdict_sealRt]
  unfold State.predecessorJudged onlyIf
  split
  · have hcharged : Keeps (mask [.rep, .chims]) (s.groupVerdict p)
        (((s.groupVerdict p).count .sea p 7).chargeSlots (p / 18) 2 2) :=
      (State.count_keeps.mono (by rfl)).trans (State.chargeSlots_keeps.mono (by rfl))
    exact congrArg (fun m => nget ({} : SealRt) m p) (hcharged.frame .seals (by decide))
  · rfl

/-! ### The step of synchronisation (R222) -/

/-- A good group found in hunt begins the check. -/
theorem State.sealSync_of_hunt (hsync : s.rd F.seaStatSync p = 0) (hclean : s.rd F.prtStatReported p = 0)
    (hgood : groupGood (s.sealRt p).cur.frames = true) :
    s.sealSync p = (s.wr F.seaStatSync 1 p).modSeal p
      (fun r => { r with lastNum := groupNumber (s.sealRt p).cur.frames, goodRun := 1 }) := by
  unfold State.sealSync
  extract_lets r fs g good lvl low
  have hlow : low = false := by simp [low, lvl, hclean]
  rw [hsync]
  exact if_pos (by simp [good, fs, r, hgood, hlow])

/-- A group that is not good ends the check. -/
theorem State.sealSync_of_check (hsync : s.rd F.seaStatSync p = 1) (hbad : groupGood (s.sealRt p).cur.frames = false) :
    s.sealSync p = s.toHunt p := by
  unfold State.sealSync
  extract_lets r fs g good
  rw [hsync]
  exact if_neg (by simp [good, fs, r, hbad])

/-- A good group with the predicted number keeps the receiver in sync and moves the prediction on, where no switch is due. -/
theorem State.sealSync_of_sync (hsync : s.rd F.seaStatSync p = 2) (hclean : s.rd F.prtStatReported p = 0)
    (hgood : groupGood (s.sealRt p).cur.frames = true)
    (hnumber : groupNumber (s.sealRt p).cur.frames = (s.sealRt p).cur.num) (hadopt : (s.sealRt p).adopt = none)
    (htarget : (s.sealRt p).target ≠ some ((s.sealRt p).cur.num + 1)) :
    s.sealSync p = (s.wr F.seaStatMismatchRun 0 p).modSeal p (fun r => { r with pred := (s.sealRt p).cur.num + 1 }) := by
  unfold State.sealSync
  extract_lets r fs g good lvl low stepped run ok counted next later
  have hlow : low = false := by simp [low, lvl, hclean]
  have hok : ok = true := by simp [ok, good, g, fs, r, hgood, hnumber]
  have hcounted : counted = s.wr F.seaStatMismatchRun 0 p := by simp [counted, hlow, hok]
  have hlater : later = s.sealRt p := by simp only [later, hcounted, State.wr_sealRt]
  rw [hsync]
  refine (if_neg (by simp [hok])).trans ?_
  rw [hlater, hadopt]
  dsimp -zeta only
  rw [if_neg htarget, hcounted]

theorem State.toHunt_sync : (s.toHunt p).rd F.seaStatSync p = 0 := by
  rw [State.toHunt, State.modSeal_rd, State.rd_wr_apart _ _ _ _ _ _ (by decide) (by decide),
    State.rd_wr_apart _ _ _ _ _ _ (by decide) (by decide), State.rd_wr_of_lt _ _ (by decide) (by decide)]

/-! ### The group held for its verdict (R225) -/

/-- Group `g` held for its verdict, and no group in progress. -/
def SealRt.holding (r : SealRt) (g : RxGroup) : SealRt := { r with held := some g, cur := {} }

/-- A complete group moves synchronisation on and is held for its verdict. -/
theorem State.groupReceived_of_whole (hwhole : (s.sealRt p).cur.frames.length = 16) :
    s.groupReceived p = ((s.predecessorJudged p).sealSync p).modSeal p (fun r => r.holding (s.sealRt p).cur) :=
  if_neg (by simp [hwhole])

end Sys2Proof.Machine
end

section
/-! SUPPORT. The verdict on a held group of normal frames (R190, R219, R225), by the tag bytes of the group after it. -/

namespace Sys2Proof.Machine

open Sys2Proof

variable {s : State} {p id : Nat} {h : RxGroup}

/-! ### A group released -/

/-- Every group of the Hearth numbered `id` is what `f` makes of one. -/
theorem State.modGroup_changes {f : HGroup → HGroup} {g : HGroup} (hg : g ∈ (s.modGroup id f).hearth.groups)
    (hid : g.id = id) : ∃ g', g = f g' := by
  obtain ⟨g', -, rfl⟩ := List.mem_map.mp hg
  by_cases heq : g'.id = id
  · exact ⟨g', if_pos heq⟩
  · rw [if_neg heq] at hid
    exact absurd hid heq

theorem State.releaseOpen_of_gid {ok : Bool} (hgid : h.gid = some id) : s.releaseOpen p h ok =
    s.modGroup id (fun g => { g with released := true, items := s.openItems p h ok }) := by
  rw [State.releaseOpen, hgid]

/-- A group that is released is marked so and holds the frames it is released with. -/
theorem State.releaseOpen_releases {ok : Bool} (hgid : h.gid = some id) {g : HGroup}
    (hg : g ∈ (s.releaseOpen p h ok).hearth.groups) (hid : g.id = id) :
    g.released = true ∧ g.items = s.openItems p h ok := by
  rw [State.releaseOpen_of_gid hgid] at hg
  obtain ⟨g', rfl⟩ := State.modGroup_changes hg hid
  exact ⟨rfl, rfl⟩

theorem zip_replicate_length {α β : Type} (l : List α) (x : β) :
    l.zip (List.replicate l.length x) = l.map (fun a => (a, x)) := by
  induction l with
  | nil => rfl
  | cons a l ih => exact congrArg (List.cons _) ih

/-- The payloads of a group of normal frames as they are released (R190, R218). -/
theorem State.openItems_payloads (ok : Bool) (hacts : h.acts = List.replicate 16 0) (hlen : h.frames.length = 16) :
    (s.openItems p h ok).map (·.payload) = h.frames.zipIdx.map (fun (e : OtnFrame × Nat) =>
      if ok then otnCrypt h.key (otnNonce (!h.initiator) h.salt h.num e.2) (slice e.1.payload 0 (s.areaBytes p))
      else List.replicate (s.areaBytes p) 0) := by
  rw [State.openItems, hacts, ← hlen, zip_replicate_length, List.zipIdx_map, List.map_map, List.map_map]
  refine List.map_congr_left fun e _ => ?_
  cases ok <;> rfl

/-! ### The verdict -/

/-- Group `h` of normal frames, deciphered for an association that verifies it, is held for its verdict and fills group `id` of
the Hearth. -/
structure State.Awaits (s : State) (p : Nat) (h : RxGroup) (id : Nat) : Prop where
  held : (s.sealRt p).held = some h
  gid : h.gid = some id
  deciphered : h.deciphered = true
  whole : h.mismatch = false
  verifies : h.verifies = true
  valid : s.rd F.seaCfgOtnAssocValid p = 1
  normal : h.acts = List.replicate 16 0
  length : h.frames.length = 16

/-- The tag of held group `h` over its ciphertext (R219). -/
def State.heldTag (s : State) (p : Nat) (h : RxGroup) : List Byte :=
  otnTag h.key (otnNonce (!h.initiator) h.salt h.num 0) (h.frames.flatMap (fun f => slice f.payload 0 (s.areaBytes p)))

/-- The held group taken for its verdict. -/
def State.unheld (s : State) (p : Nat) : State := s.modSeal p (fun r => { r with held := none })

theorem State.unheld_areaBytes : (s.unheld p).areaBytes p = s.areaBytes p := by
  rw [State.areaBytes, State.unheld, State.modSeal_rd, State.areaBytes]

/-- A group whose tag agrees is counted and released deciphered. -/
theorem State.groupVerdict_of_right_tag (ha : s.Awaits p h id)
    (htag : s.heldTag p h = (s.sealRt p).cur.frames.map tagByte) :
    s.groupVerdict p = (((s.unheld p).count .asn 0 2).count .otf p 10).releaseOpen p h true := by
  have hvalid : (s.unheld p).on F.seaCfgOtnAssocValid p = true := by simp [State.unheld, State.on, ha.valid]
  unfold State.groupVerdict
  extract_lets r taken area valid
  rw [show r.held = some h from ha.held]
  dsimp -zeta only
  extract_lets tagOk ok judged told
  have htagOk : tagOk = true := decide_eq_true htag
  have hok : ok = true := by simp [ok, ha.deciphered, ha.verifies, ha.whole, htagOk, show valid = true from hvalid]
  have hjudged : judged = true := by
    simp [judged, ha.deciphered, ha.whole, ha.normal, show valid = true from hvalid]
  have htold : told = ((s.unheld p).count .asn 0 2).count .otf p 10 := by
    simp only [told, hjudged, hok]
    rfl
  rw [htold, hok]

/-- A group whose tag does not agree counts as a tag failure and is released as zeros. -/
theorem State.groupVerdict_of_wrong_tag (ha : s.Awaits p h id)
    (htag : s.heldTag p h ≠ (s.sealRt p).cur.frames.map tagByte) :
    s.groupVerdict p = ((s.unheld p).zeroDrop p).releaseOpen p h false := by
  have hvalid : (s.unheld p).on F.seaCfgOtnAssocValid p = true := by simp [State.unheld, State.on, ha.valid]
  unfold State.groupVerdict
  extract_lets r taken area valid
  rw [show r.held = some h from ha.held]
  dsimp -zeta only
  extract_lets tagOk ok judged told
  have htagOk : tagOk = false := decide_eq_false htag
  have hok : ok = false := by simp [ok, htagOk]
  have hjudged : judged = true := by
    simp [judged, ha.deciphered, ha.whole, ha.normal, show valid = true from hvalid]
  have htold : told = (s.unheld p).zeroDrop p := by
    simp only [told, hjudged, hok]
    rfl
  rw [htold, hok]

theorem execOtnGroupVerdict_of_whole {p : PortNo} (hwhole : (s.sealRt p).cur.frames.length = 16) :
    execOtnGroupVerdict p s = done (s.groupVerdict p) := congrArg done (if_pos hwhole)

end Sys2Proof.Machine
end

section
/-! SUPPORT. What an egress OTN port sends (R105, R106, R114, R118, R121): the item it takes, ODU-AIS, and a frame built from an
item. -/

namespace Sys2Proof.Machine

open Sys2Proof

variable {s t u : State} {p m : Nat} {l : List Part}

/-! ### What leaves first -/

/-- What is sent first leaves first. -/
theorem State.firstOut_of_sends {o : Out} (h : s.sends t o) : s.firstOut t = some o := by
  obtain ⟨rest, hrest⟩ := h
  rw [State.firstOut, ← hrest]
  simp

/-! ### The section overhead (R105, R118) -/

/-- The section overhead that port `p` sends is made from the same port and trace. -/
structure SameOverhead (p : Nat) (s t : State) : Prop where
  port : t.otnp p = s.otnp p
  trace : t.rdBytes .otf 0x2C0 64 p = s.rdBytes .otf 0x2C0 64 p

theorem SameOverhead.trans (h : SameOverhead p s t) (h' : SameOverhead p t u) : SameOverhead p s u :=
  ⟨h'.port.trans h.port, h'.trace.trans h.trace⟩

/-- An operation that leaves the OTN ports and the OTF page. -/
theorem SameOverhead.of_keeps (h : Keeps (mask l) s t) (hotn : Part.otn ∉ l) (hotf : Part.page .otf ∉ l) :
    SameOverhead p s t where
  port := congrArg (fun m => nget ({} : OtnRt) m p)
    (h.frame .otn (Bool.eq_false_iff.mpr fun e => hotn ((mask_testBit_iff l _).mp e)))
  trace := List.map_congr_left fun b _ => by rw [h.word hotf]

theorem SameOverhead.at (cyc : Cyc) : SameOverhead p s (s.at cyc) := ⟨rfl, rfl⟩

/-- OTF_STAT is no part of the trace. -/
theorem SameOverhead.wr_freeRun (n : Nat) : SameOverhead p s (s.wr F.otfStatFreeRun n p) where
  port := State.wr_otnp ..
  trace := List.map_congr_left fun b _ => by
    rw [State.wr, State.word_setWord_ne]
    intro hkey
    have hoff : 0x2C0 + 4 * (b / 4) = F.otfStatFreeRun.off := congrArg RegKey.off hkey
    have hlow : F.otfStatFreeRun.off < 0x2C0 := by decide
    omega

theorem SameOverhead.smSent (h : SameOverhead p s t) (m : Nat) (b : Byte) : (t.smSent p m b).2 = (s.smSent p m b).2 := by
  simp only [State.smSent, h.port, h.trace]

/-! ### The item that is taken (R106) -/

theorem Keeps.queuePort (h : Keeps (mask l) s t) (hsch : Part.page .sch ∉ l) (q : Nat) : t.queuePort q = s.queuePort q := by
  simp only [State.queuePort, State.svcPort, State.queueSvc, h.rd F.schTreeParent _ _ hsch]

theorem State.takeItem_of_none (h : ∀ g ∈ s.hearth.groups, s.queuePort g.queue ≠ p) : s.takeItem p = none := by
  have hnone : s.hearth.groups.find? (fun g => s.queuePort g.queue = p) = none :=
    List.find?_eq_none.mpr fun g hg => by simpa using h g hg
  rw [State.takeItem, hnone]

/-- The first item of the oldest group bound for the port, where that is released. -/
theorem State.takeItem_of_released {g : HGroup} {x : OtnItem} {rest : List OtnItem}
    (hfound : s.hearth.groups.find? (fun g => s.queuePort g.queue = p) = some g) (hreleased : g.released = true)
    (hitems : g.items = x :: rest) : ∃ u, s.takeItem p = some ((x, g), u) := by
  rw [State.takeItem, hfound]
  dsimp only
  rw [hreleased, hitems]
  exact ⟨_, rfl⟩

/-! ### ODU-AIS (R106, R114) -/

/-- ODU-AIS takes the next place of the multiframe, with the section overhead of that place. -/
theorem State.sendAis_sends (p : Nat) (hm : m = ((s.otnp p).txMfas + 1) % 256) :
    s.sends (s.sendAis p).closed (.oduAis p (BitVec.ofNat 8 m) (s.smSent p m 0).2) ∧
      ((s.sendAis p).closed.otnp p).txMfas = m := by
  unfold State.sendAis
  extract_lets place chan channels
  have hplace : place = m := hm.symm
  have hchannels : Keeps (mask [.kindle]) s channels := Keeps.onlyIf (fun _ => State.gccNext_keeps.fst) (Keeps.refl _)
  have hsame : SameOverhead p s channels := .of_keeps hchannels (by decide) (by decide)
  have hout : channels.out = s.out := hchannels.frame .out (by decide)
  rw [hplace]
  clear_value channels
  refine ⟨?_, ?_⟩
  · rw [← hsame.smSent]
    refine State.sends_emit _ ?_
    rw [State.count_out]
    exact hout
  · rw [State.closed_otnp, State.emit_otnp, State.count_otnp, State.smSent, State.modOtnp_otnp_self]

/-! ### A frame built from an item (R105, R106, R220) -/

/-- Of a frame, the Kindle channels change the GCC bytes alone (R121). -/
theorem State.gccOut_frame (s : State) (p ingress : Nat) (f : OtnFrame) :
    ∃ a b, (s.gccOut p ingress f).2 = { f with gcc1 := a, gcc2 := b } := by
  unfold State.gccOut
  extract_lets chan c s1 s2
  split
  · split
    · exact ⟨f.gcc1, f.gcc2, rfl⟩
    · exact ⟨_, _, rfl⟩
  · split
    · exact ⟨_, _, rfl⟩
    · exact ⟨f.gcc1, f.gcc2, rfl⟩

/-- What shows of an OTN frame that leaves: its port, place, payload, section overhead and seal bytes. -/
def Out.otnShown (o : Out) : Option (Nat × Byte × List Byte × SmOh × List Byte) :=
  o.asOtn.map (fun e => (e.1, e.2.mfas, e.2.payload, e.2.sm, e.2.sealOh))

/-- The frame built from an item leaves with the item's payload and place and the section overhead of that place. -/
theorem State.otnBuild_sends (p : Nat) (x : OtnItem) (g : HGroup) : ∃ o, s.sends (s.otnBuild p x g none).closed o ∧
    o.otnShown = some (p, x.frame.mfas, x.payload,
      (s.smSent p x.frame.mfas.toNat (bip8 (x.frame.opuOh ++ x.payload))).2,
      if s.portCipher p = true then slice x.sealOut 0 6 else List.replicate 6 0) := by
  obtain ⟨a, b, hframe⟩ := State.gccOut_frame s p g.port x.frame
  have hkeeps : Keeps (mask [.kindle, .fresh]) s (s.gccOut p g.port x.frame).1 := State.gccOut_keeps.fst
  rcases hgcc : s.gccOut p g.port x.frame with ⟨w, y⟩
  rw [hgcc] at hframe hkeeps
  obtain rfl : y = { x.frame with gcc1 := a, gcc2 := b } := hframe
  have hsame : SameOverhead p s w := .of_keeps hkeeps (by decide) (by decide)
  have hout : w.out = s.out := hkeeps.frame .out (by decide)
  have hside (m : Nat) (opu : Byte) : (w.smSent p m opu).1.portCipher p = s.portCipher p := by
    have hsent : Keeps (mask [.otn]) w (w.smSent p m opu).1 := State.smSent_keeps.fst
    simp only [State.portCipher, State.on, hsent.rd F.prtCfgSide _ _ (by decide), hkeeps.rd F.prtCfgSide _ _ (by decide)]
  unfold State.otnBuild State.groupLost
  dsimp only
  rw [hgcc]
  dsimp only
  refine ⟨_, State.sends_emit _ hout, ?_⟩
  simp only [Out.otnShown, Out.asOtn, Option.map_some, hsame.smSent, hside]

/-! ### The port sends (R106) -/

variable {bank : Option (Fin 512 × Nat)}

theorem State.freeRun_keeps (n : Nat) : Keeps (mask [.page .otf]) s (s.wr F.otfStatFreeRun n p) :=
  State.wr_keeps (f := F.otfStatFreeRun)

/-- Where no group is bound for the port it sends ODU-AIS. -/
theorem State.otnSend_of_none (h : ∀ g ∈ s.hearth.groups, s.queuePort g.queue ≠ p) :
    ∃ n, s.otnSend p bank = (s.wr F.otfStatFreeRun n p).sendAis p := by
  have htake (n : Nat) : (s.wr F.otfStatFreeRun n p).takeItem p = none := by
    refine State.takeItem_of_none fun g hg => ?_
    rw [State.wr_hearth] at hg
    rw [(State.freeRun_keeps n).queuePort (by decide)]
    exact h g hg
  unfold State.otnSend
  dsimp only
  rw [htake]
  exact ⟨_, rfl⟩

/-- Where the oldest group bound for the port is released, its first item is sent. -/
theorem State.otnSend_of_released {g : HGroup} {x : OtnItem} {rest : List OtnItem}
    (hfound : s.hearth.groups.find? (fun g => s.queuePort g.queue = p) = some g) (hreleased : g.released = true)
    (hitems : g.items = x :: rest) : ∃ n u, Keeps (mask [.hearth]) (s.wr F.otfStatFreeRun n p) u ∧
      s.otnSend p bank = if x.ais then u.sendAis p else u.otnBuild p x g bank := by
  have htake (n : Nat) : ∃ u, (s.wr F.otfStatFreeRun n p).takeItem p = some ((x, g), u) := by
    refine State.takeItem_of_released ?_ hreleased hitems
    simp only [State.wr_hearth, (State.freeRun_keeps n).queuePort (by decide : Part.page .sch ∉ [.page .otf])]
    exact hfound
  unfold State.otnSend
  extract_lets lvl timed
  obtain ⟨u, hu⟩ : ∃ u, timed.takeItem p = some ((x, g), u) := htake _
  refine ⟨_, u, State.takeItem_keeps.elim hu, ?_⟩
  rw [hu]

end Sys2Proof.Machine
end

section
/-! PROOF. The statement on OTN groups: their completion, their verdict and their departure. -/

namespace Sys2Proof.Machine

open Sys2Proof

variable {s : State} {p : PortNo}

/-! ### Completion -/

/-- A complete group moves synchronisation on as its predecessor's verdict leaves it, and is held for its own. -/
theorem otnGroupReceived_runs {P : State → Prop} (hwhole : (s.sealRt p).cur.frames.length = 16)
    (h : P (((s.predecessorJudged p).sealSync p).modSeal p (fun r => r.holding (s.sealRt p).cur)).closed) :
    Runs (.otnGroupReceived p) s P :=
  runs_of_done (congrArg done (State.groupReceived_of_whole hwhole)) h

section
variable (hwhole : (s.sealRt p).cur.frames.length = 16) (hclean : s.rd F.prtStatReported p = 0)
include hwhole

/-- In the check, a group that is not good is held, and the receiver returns to hunt. -/
theorem otnGroupReceived_hunts (hsync : s.rd F.seaStatSync p = 1) (hbad : groupGood (s.sealRt p).cur.frames = false) :
    Runs (.otnGroupReceived p) s (fun t => (t.sealRt p).held = some (s.sealRt p).cur ∧ t.rd F.seaStatSync p = 0) := by
  have hkeeps : Keeps _ s (s.predecessorJudged p) := State.predecessorJudged_keeps
  have hseal : (s.predecessorJudged p).sealRt p = { s.sealRt p with held := none } := State.predecessorJudged_sealRt
  refine otnGroupReceived_runs hwhole ?_
  rw [State.sealSync_of_check (by rw [hkeeps.rd _ _ _ (by decide), hsync]) (by rw [hseal, hbad])]
  refine ⟨?_, ?_⟩
  · rw [State.closed_sealRt, State.modSeal_sealRt_self]
    rfl
  · rw [State.closed_rd, State.modSeal_rd, State.toHunt_sync]

include hclean

/-- In hunt, a good group is held and begins the check. -/
theorem otnGroupReceived_checks (hsync : s.rd F.seaStatSync p = 0) (hgood : groupGood (s.sealRt p).cur.frames = true) :
    Runs (.otnGroupReceived p) s (fun t => (t.sealRt p).held = some (s.sealRt p).cur ∧ (t.sealRt p).cur = {} ∧
      t.rd F.seaStatSync p = 1 ∧ (t.sealRt p).lastNum = groupNumber (s.sealRt p).cur.frames ∧ (t.sealRt p).goodRun = 1) := by
  have hkeeps : Keeps _ s (s.predecessorJudged p) := State.predecessorJudged_keeps
  have hseal : (s.predecessorJudged p).sealRt p = { s.sealRt p with held := none } := State.predecessorJudged_sealRt
  refine otnGroupReceived_runs hwhole ?_
  rw [State.sealSync_of_hunt (by rw [hkeeps.rd _ _ _ (by decide), hsync]) (by rw [hkeeps.rd _ _ _ (by decide), hclean])
    (by rw [hseal, hgood]), hseal]
  refine ⟨?_, ?_, ?_, ?_, ?_⟩
  case refine_3 =>
    rw [State.closed_rd, State.modSeal_rd, State.modSeal_rd, State.rd_wr_of_lt _ _ (by decide) (by decide)]
  all_goals
    rw [State.closed_sealRt, State.modSeal_sealRt_self, State.modSeal_sealRt_self]
    rfl

/-- In sync, a good group with the predicted number is held, and the next number is predicted. -/
theorem otnGroupReceived_predicts (hsync : s.rd F.seaStatSync p = 2) (hgood : groupGood (s.sealRt p).cur.frames = true)
    (hnumber : groupNumber (s.sealRt p).cur.frames = (s.sealRt p).cur.num) (hadopt : (s.sealRt p).adopt = none)
    (htarget : (s.sealRt p).target ≠ some ((s.sealRt p).cur.num + 1)) :
    Runs (.otnGroupReceived p) s (fun t => (t.sealRt p).held = some (s.sealRt p).cur ∧ (t.sealRt p).cur = {} ∧
      t.rd F.seaStatSync p = 2 ∧ t.rd F.seaStatMismatchRun p = 0 ∧ (t.sealRt p).pred = (s.sealRt p).cur.num + 1) := by
  have hkeeps : Keeps _ s (s.predecessorJudged p) := State.predecessorJudged_keeps
  have hseal : (s.predecessorJudged p).sealRt p = { s.sealRt p with held := none } := State.predecessorJudged_sealRt
  have hjudgedSync : (s.predecessorJudged p).rd F.seaStatSync p = 2 := by rw [hkeeps.rd _ _ _ (by decide), hsync]
  refine otnGroupReceived_runs hwhole ?_
  rw [State.sealSync_of_sync hjudgedSync (by rw [hkeeps.rd _ _ _ (by decide), hclean]) (by rw [hseal, hgood])
    (by rw [hseal, hnumber]) (by rw [hseal, hadopt]) (by rw [hseal]; exact htarget), hseal]
  refine ⟨?_, ?_, ?_, ?_, ?_⟩
  case refine_3 =>
    rw [State.closed_rd, State.modSeal_rd, State.modSeal_rd, State.rd_wr_apart _ _ _ _ _ _ (by decide) (by decide),
      hjudgedSync]
  case refine_4 =>
    rw [State.closed_rd, State.modSeal_rd, State.modSeal_rd, State.rd_wr_of_lt _ _ (by decide) (by decide)]
  all_goals
    rw [State.closed_sealRt, State.modSeal_sealRt_self, State.modSeal_sealRt_self]
    rfl

end

/-! ### The verdict -/

section
variable {h : RxGroup} {id : Nat} (hwhole : (s.sealRt p).cur.frames.length = 16) (ha : s.Awaits p h id)
include hwhole ha

/-- A held group whose tag agrees is released deciphered. -/
theorem otnGroupVerdict_deciphers (htag : s.heldTag p h = (s.sealRt p).cur.frames.map tagByte) :
    Runs (.otnGroupVerdict p) s (fun t => (t.sealRt p).held = none ∧ s.regsBut t [] ∧
      ∀ g ∈ t.hearth.groups, g.id = id → g.released = true ∧
        g.items.map (·.payload) = h.frames.zipIdx.map (fun (e : OtnFrame × Nat) =>
          otnCrypt h.key (otnNonce (!h.initiator) h.salt h.num e.2) (slice e.1.payload 0 (s.areaBytes p)))) := by
  have hexec : exec (.otnGroupVerdict p) s = done (s.groupVerdict p) := execOtnGroupVerdict_of_whole hwhole
  have hkeeps : Keeps _ s (s.groupVerdict p) := State.groupVerdict_keeps
  refine runs_of_done hexec ⟨?_, State.closed_regsBut fun k _ => hkeeps.word (by simp), fun g hg hid => ?_⟩
  · rw [State.closed_sealRt, State.groupVerdict_sealRt]
  · rw [State.closed_hearth, State.groupVerdict_of_right_tag ha htag] at hg
    obtain ⟨hreleased, hitems⟩ := State.releaseOpen_releases ha.gid hg hid
    have harea : (((s.unheld p).count .asn 0 2).count .otf p 10).areaBytes p = s.areaBytes p := by
      simp only [State.areaBytes, State.count_rd, State.unheld, State.modSeal_rd]
    refine ⟨hreleased, ?_⟩
    rw [hitems, State.openItems_payloads true ha.normal ha.length, harea]
    rfl

/-- A held group whose tag does not agree is released as zeros, and counts toward SEAL-AUTH. -/
theorem otnGroupVerdict_zeroes (htag : s.heldTag p h ≠ (s.sealRt p).cur.frames.map tagByte) :
    Runs (.otnGroupVerdict p) s (fun t => (t.sealRt p).held = none ∧
      (t.port p).authCount = (s.port p).authCount + 1 ∧
      ∀ g ∈ t.hearth.groups, g.id = id → g.released = true ∧
        g.items.map (·.payload) = List.replicate 16 (List.replicate (s.areaBytes p) 0)) := by
  have hexec : exec (.otnGroupVerdict p) s = done (s.groupVerdict p) := execOtnGroupVerdict_of_whole hwhole
  have hverdict := State.groupVerdict_of_wrong_tag ha htag
  have hdropped : Keeps (mask [.rep, .ports]) (s.unheld p) ((s.unheld p).zeroDrop p) := State.zeroDrop_keeps
  have hreleased : Keeps (mask [.hearth]) ((s.unheld p).zeroDrop p) (((s.unheld p).zeroDrop p).releaseOpen p h false) :=
    State.releaseOpen_keeps
  refine runs_of_done hexec ⟨?_, ?_, fun g hg hid => ?_⟩
  · rw [State.closed_sealRt, State.groupVerdict_sealRt]
  · have hport : (((s.unheld p).zeroDrop p).releaseOpen p h false).port p = ((s.unheld p).zeroDrop p).port p :=
      congrArg (fun m => nget ({} : PortRt) m p) (hreleased.frame .ports (by decide))
    rw [State.closed_port, hverdict, hport, State.zeroDrop_authCount, State.unheld, State.modSeal_port]
  · rw [State.closed_hearth, hverdict] at hg
    obtain ⟨hmarked, hitems⟩ := State.releaseOpen_releases ha.gid hg hid
    have harea : ((s.unheld p).zeroDrop p).areaBytes p = s.areaBytes p := by
      rw [State.areaBytes, hdropped.rd _ _ _ (by decide), State.unheld, State.modSeal_rd, State.areaBytes]
    refine ⟨hmarked, ?_⟩
    rw [hitems, State.openItems_payloads false ha.normal ha.length, harea]
    simp only [Bool.false_eq_true, if_false, List.map_const', List.length_zipIdx, ha.length]

end

/-! ### Departure -/

section
variable {cyc : Cyc} {next : Nat} {bank : Option (Fin 512 × Fin 131072)} (hdriving : s.driving = true)
  (hon : s.portOn p = true) (hotn : s.portOtn p = true)
include hdriving hon hotn

theorem execOtnFrameTransmit_of_driving : execOtnFrameTransmit p bank cyc s =
    done ((s.at cyc).otnSend p (bank.map (fun e => (e.1, e.2.val)))) := by
  have hsends : ((s.at cyc).driving && (s.at cyc).portOn p && (s.at cyc).portOtn p) = true := by
    rw [show (s.at cyc).driving = true from hdriving, show (s.at cyc).portOn p = true from hon,
      show (s.at cyc).portOtn p = true from hotn]
    rfl
  exact congrArg done (if_pos hsends)

/-- Where no group is bound for the port, ODU-AIS leaves. -/
theorem otnFrameTransmit_idles (hnext : next = ((s.otnp p).txMfas + 1) % 256)
    (hnone : ∀ g ∈ s.hearth.groups, s.queuePort g.queue ≠ p) :
    Runs (.otnFrameTransmit p bank cyc) s (fun t => s.sends t (.oduAis p (BitVec.ofNat 8 next) (s.smSent p next 0).2) ∧
      (t.otnp p).txMfas = next ∧ t.hearth = s.hearth ∧ s.regsBut t [keyOf F.otfStatFreeRun p]) := by
  obtain ⟨n, hsend⟩ := State.otnSend_of_none (s := s.at cyc) (bank := bank.map (fun e => (e.1, e.2.val))) hnone
  have hexec : exec (.otnFrameTransmit p bank cyc) s = _ := execOtnFrameTransmit_of_driving hdriving hon hotn
  rw [hsend] at hexec
  have hsame : SameOverhead p s ((s.at cyc).wr F.otfStatFreeRun n p) := (SameOverhead.at cyc).trans (.wr_freeRun n)
  have hregs : s.regsBut ((s.at cyc).wr F.otfStatFreeRun n p) [keyOf F.otfStatFreeRun p] :=
    State.regsBut_wr _ (s.at_regsBut cyc _) List.mem_cons_self
  have hhearth : ((s.at cyc).wr F.otfStatFreeRun n p).hearth = s.hearth := rfl
  have hout : ((s.at cyc).wr F.otfStatFreeRun n p).out = s.out := rfl
  generalize (s.at cyc).wr F.otfStatFreeRun n p = u at hexec hsame hregs hhearth hout
  obtain ⟨hsent, hplace⟩ := State.sendAis_sends (s := u) (m := next) p (by rw [hsame.port, hnext])
  rw [State.sends, hsame.smSent, hout] at hsent
  have hkeeps : Keeps (mask [.rep, .otn, .kindle, .out]) u (u.sendAis p) := State.sendAis_keeps
  refine runs_of_done hexec ⟨hsent, hplace, ?_, State.closed_regsBut (State.regsBut_of_word (fun k => ?_) hregs)⟩
  · rw [State.closed_hearth, ← hhearth]
    exact hkeeps.frame .hearth (by decide)
  · exact hkeeps.word (by simp)

section
variable {g : HGroup} {x : OtnItem} {rest : List OtnItem}
  (hfound : s.hearth.groups.find? (fun g => s.queuePort g.queue = p) = some g) (hreleased : g.released = true)
  (hitems : g.items = x :: rest)
include hfound hreleased hitems

/-- The port has taken an item from the oldest group bound for it, which is released: all but the Hearth and OTF_STAT is as
before, and the item is sent. -/
theorem exec_otnFrameTransmit_of_released : ∃ u : State, u.out = s.out ∧ u.assocs = s.assocs ∧ SameOverhead p s u ∧
    u.portCipher p = s.portCipher p ∧ exec (.otnFrameTransmit p bank cyc) s =
      done (if x.ais then u.sendAis p else u.otnBuild p x g (bank.map (fun e => (e.1, e.2.val)))) := by
  obtain ⟨n, u, hkeeps, hsend⟩ := State.otnSend_of_released (s := s.at cyc) (p := p)
    (bank := bank.map (fun e => (e.1, e.2.val))) hfound hreleased hitems
  have hexec : exec (.otnFrameTransmit p bank cyc) s = _ := execOtnFrameTransmit_of_driving hdriving hon hotn
  have hside : ((s.at cyc).wr F.otfStatFreeRun n p).portCipher p = s.portCipher p := by
    simp only [State.portCipher, State.on, (State.freeRun_keeps n).rd F.prtCfgSide _ _ (by decide)]
    rfl
  refine ⟨u, hkeeps.frame .out (by decide), hkeeps.frame .assocs (by decide),
    ((SameOverhead.at cyc).trans (.wr_freeRun n)).trans (.of_keeps hkeeps (by decide) (by decide)),
    ?_, by rw [hexec, hsend]⟩
  rw [← hside]
  simp only [State.portCipher, State.on, hkeeps.rd F.prtCfgSide _ _ (by decide)]

/-- An item that stands for a signal leaves as ODU-AIS. -/
theorem otnFrameTransmit_signals (hnext : next = ((s.otnp p).txMfas + 1) % 256) (hais : x.ais = true) :
    Runs (.otnFrameTransmit p bank cyc) s (fun t =>
      s.sends t (.oduAis p (BitVec.ofNat 8 next) (s.smSent p next 0).2) ∧ t.assocs = s.assocs) := by
  obtain ⟨u, hout, hassocs, hsame, -, hexec⟩ := exec_otnFrameTransmit_of_released (bank := bank) (cyc := cyc) hdriving hon
    hotn hfound hreleased hitems
  rw [if_pos hais] at hexec
  obtain ⟨hsent, -⟩ := State.sendAis_sends (s := u) (m := next) p (by rw [hsame.port, hnext])
  rw [State.sends, hsame.smSent, hout] at hsent
  have hkeeps : Keeps (mask [.rep, .otn, .kindle, .out]) u (u.sendAis p) := State.sendAis_keeps
  exact runs_of_done hexec ⟨hsent, (State.closed_assocs _).trans ((hkeeps.frame .assocs (by decide)).trans hassocs)⟩

/-- An item with a frame leaves as that frame, with the section overhead of its place. -/
theorem otnFrameTransmit_sends (hframe : x.ais = false) :
    Runs (.otnFrameTransmit p none cyc) s (fun t => t.assocs = s.assocs ∧
      ((s.firstOut t).bind Out.asOtn).map (fun e => (e.1, e.2.mfas, e.2.payload, e.2.sm, e.2.sealOh)) =
        some (p.val, x.frame.mfas, x.payload, (s.smSent p x.frame.mfas.toNat (bip8 (x.frame.opuOh ++ x.payload))).2,
          if s.portCipher p = true then slice x.sealOut 0 6 else List.replicate 6 0)) := by
  obtain ⟨u, hout, hassocs, hsame, hside, hexec⟩ := exec_otnFrameTransmit_of_released (bank := none) (cyc := cyc) hdriving
    hon hotn hfound hreleased hitems
  rw [if_neg (by simp [hframe])] at hexec
  obtain ⟨o, hsent, hshown⟩ := State.otnBuild_sends (s := u) p x g
  rw [hsame.smSent, hside] at hshown
  rw [State.sends, hout] at hsent
  have hkeeps : Keeps _ u (u.otnBuild p x g none) := State.otnBuild_keeps
  refine runs_of_done hexec ⟨(State.closed_assocs _).trans ((hkeeps.frame .assocs (by decide)).trans hassocs), ?_⟩
  rw [Option.map_none, State.firstOut_of_sends hsent, Option.bind_some]
  exact hshown

end

end

/-- Settles O28: a complete group by the state of synchronisation, a held group by its tag, and a frame sent by the item that
the oldest group bound for its port gives. -/
theorem otnGroups : Obligations.OtnGroups := by
  unfold Obligations.OtnGroups
  refine ⟨fun s p hwhole hclean => ⟨?checks, ?predicts, ?hunts⟩,
    fun s p h id hwhole hheld hgid hdeciphered hmismatch hverifies hvalid hnormal hlength => ?verdict,
    fun s p cyc next hdriving hon hotn hnext => ⟨fun hnone bank => ?idles, fun g x rest hfound hreleased hitems =>
      ⟨fun hais bank => ?signals, fun hframe => ?sends⟩⟩⟩
  case checks => exact otnGroupReceived_checks hwhole hclean
  case predicts => exact otnGroupReceived_predicts hwhole hclean
  case hunts => exact otnGroupReceived_hunts hwhole
  case verdict =>
    have ha : s.Awaits p h id := ⟨hheld, hgid, hdeciphered, hmismatch, hverifies, hvalid, hnormal, hlength⟩
    exact ⟨otnGroupVerdict_deciphers hwhole ha, otnGroupVerdict_zeroes hwhole ha⟩
  case idles => exact otnFrameTransmit_idles hdriving hon hotn hnext hnone
  case signals => exact otnFrameTransmit_signals hdriving hon hotn hfound hreleased hitems hnext hais
  case sends => exact otnFrameTransmit_sends hdriving hon hotn hfound hreleased hitems hframe

end Sys2Proof.Machine
end

section
/-! SUPPORT. Acknowledgements and counts: what a link that may not send does when one is due, and counts that wait for the next
command. -/

namespace Sys2Proof.Machine

open Sys2Proof

/-- The form of the register file is of the registers alone. -/
theorem State.regsOk_of_regs {s t : State} (h : t.regs = s.regs) (hs : s.regsOk) : t.regsOk := by
  unfold State.regsOk
  rw [h]
  exact hs

/-- On a link that may not send, ACK_SEND does what is left to do of the cycle's reports (R238, R284). -/
theorem exec_ackSend_of_silent {s : State} {k : LinkNo} (h : s.linkSends k = false) : exec (.ackSend k) s = .next s.closed := by
  show done _ = .next s.closed
  rw [h]
  split <;> rfl

/-! ### Counts that wait for the next command -/

/-- A device with link 0 enabled on port 0, whose counters 0 and 1 of EVR count the records numbered and stored. A counter that
saturates interrupts. -/
def recordsCounted : State :=
  (((((State.reset.wr (F.pageReady .kdl) 1).wr (F.pageReady .evr) 1).wr F.kdlLinkCfgEnable 1).wr
    (F.cntSelect .evr 0) 1).wr (F.cntSelect .evr 1) 2).wr F.pmcIntIntEn 1

/-- That device with both counters near their end, and the interrupt's vector not masked. -/
def nearlyFull : State :=
  { recordsCounted with
    rep := { ctrs := [(ctrKey .evr 0 0, { live := 2 ^ 48 - 3 }), (ctrKey .evr 0 1, { live := 2 ^ 48 - 2 })] }
    msix := { table := [(3, 0)] } }

/-- The device after a LINK_ENABLE that would move link 0 to port 1. The refusal is recorded; its counts saturate counter 1,
which is recorded in turn; and the counts of that record wait for the next command (`State.settle`, R476). -/
def countsWaiting : State := ((nearlyFull.at 0).landLinkCfg 0 (BitVec.ofNat 32 (1 + 256)) 0).closed

theorem exec_linkEnable_nearlyFull : exec (.linkEnable false 1 0) nearlyFull = .next countsWaiting := rfl

theorem recordsCounted_regsOk : recordsCounted.regsOk :=
  State.wr_keeps.regs (State.wr_keeps.regs (State.wr_keeps.regs (State.wr_keeps.regs (State.wr_keeps.regs
    (State.wr_keeps.regs rfl)))))

theorem nearlyFull_inv : nearlyFull.Inv where
  keys := AsnTable.empty_settled
  regs := State.regsOk_of_regs (by simp only [nearlyFull]) recordsCounted_regsOk

theorem countsWaiting_inv : countsWaiting.Inv := exec_inv nearlyFull_inv exec_linkEnable_nearlyFull

/-- Those counts saturate counter 0, and the interrupt leaves. -/
theorem countsWaiting_closed_out : countsWaiting.closed.out ≠ countsWaiting.out := by decide +kernel

end Sys2Proof.Machine
end

section
/-! SUPPORT. The REKEY timer of a link on which a rollover waits (R271, R272), and a state in which one does. -/

namespace Sys2Proof.Machine

open Sys2Proof

variable {s : State} {k : LinkNo} {x : Session}

/-- What waits for a quiet link starts with the rollover (R271). -/
theorem State.rollService_of_wantRoll {k : Nat} (hquiet : (s.link k).quiet = true) (hruns : s.kdlRuns = true)
    (hroll : (s.link k).wantRoll = true) : s.rollService k = s.startRoll k := by
  simp [State.rollService, hquiet, hruns, hroll]

theorem Link.rekeying_of_quiet {l : Link} (h : l.quiet = true) : l.rekeying = false := by
  simp only [Link.quiet, Bool.and_eq_true, Bool.not_eq_true'] at h
  obtain ⟨⟨-, hrekeying⟩, -⟩ := h
  exact hrekeying

/-- A REKEY that falls due beside a rollover that waits is asked for, and waits in its turn. -/
theorem exec_rekeyTimer_of_wantRoll {t : State} {n : Nat} (hexec : exec (.rekeyTimer k) s = .next t)
    (hcur : (s.link k).cur = some x) (hlive : x.st = .live) (hruns : s.kdlRuns = true) (hquiet : (s.link k).quiet = true)
    (hroll : (s.link k).wantRoll = true) (hn : x.interval (s.rd F.kdlTmr1RekeyLog2) 16 40 = some n) (hold : x.oldSecret = [])
    (hdue : x.rekeyFrom + n ≤ s.tick) : (t.link k).wantRekey = true := by
  have hserves := State.rollService_of_wantRoll (s := s.modLink k (fun l => { l with wantRekey := true })) (k := k)
    (by rw [State.modLink_link_self]; exact hquiet) hruns (by rw [State.modLink_link_self]; exact hroll)
  have hasks : exec (.rekeyTimer k) s = .next ((s.modLink k (fun l => { l with wantRekey := true })).startRoll k).closed := by
    show done _ = done _
    simp [hcur, hn, hlive, Link.rekeying_of_quiet hquiet, hold, hdue, hserves]
  cases hexec.symm.trans hasks
  rw [State.closed_link, State.startRoll, State.modLink_link_self, State.modLink_link_self]

theorem exec_stateTimeout_of_due {par : Bool} (hses : (s.link k).ses par = some x) (hst : x.inHandshake = true)
    (hentered : x.entered = true) (hdue : x.since + s.msgTimeout ≤ s.tick) :
    exec (.stateTimeout k par) s = .next (s.failSession k par 5).closed := by
  show done _ = done _
  simp [hses, hst, hentered, hdue]

/-! ### A rollover that waits on a quiet link -/

/-- The LIVE session of link 0, as its initiator, and the parallel one that it has offered. -/
def serving : Session := { idx := 0, st := .live, initiator := true, id := [1] }
def offering : Session := { idx := 1, st := .offered, initiator := true, offer := [1] }

/-- An ACTIVE device whose link 0 is enabled, with a REKEY interval. -/
def linkServes : State :=
  ((((State.reset.wr F.devModeMode 4).wr (F.pageReady .kdl) 1).wr F.kdlCtlEnable 1).wr F.kdlLinkCfgEnable 1).wr
    F.kdlTmr1RekeyLog2 16

/-- That device when the interval has passed: a rollover waits for the end of the parallel session. -/
def rollDeferred : State :=
  { linkServes with
    tick := 2 ^ 20
    kindle := { links := [(0, { cur := some serving, par := some offering, wantRoll := true })] } }

/-- The device after the STATE_TIMEOUT of the parallel session. -/
def rollWaiting : State := (rollDeferred.failSession 0 true 5).closed

theorem exec_stateTimeout_rollDeferred : exec (.stateTimeout 0 true) rollDeferred = .next rollWaiting :=
  exec_stateTimeout_of_due (x := offering) rfl rfl rfl (by decide +kernel)

theorem linkServes_regsOk : linkServes.regsOk :=
  State.wr_keeps.regs (State.wr_keeps.regs (State.wr_keeps.regs (State.wr_keeps.regs (State.wr_keeps.regs rfl))))

theorem rollDeferred_inv : rollDeferred.Inv where
  keys := AsnTable.empty_settled
  regs := State.regsOk_of_regs (by simp only [rollDeferred]) linkServes_regsOk

theorem rollWaiting_inv : rollWaiting.Inv := exec_inv rollDeferred_inv exec_stateTimeout_rollDeferred

theorem rollWaiting_link : (rollWaiting.link 0).cur = some serving ∧ (rollWaiting.link 0).quiet = true ∧
    (rollWaiting.link 0).wantRoll = true := by decide +kernel

theorem rollWaiting_engine : rollWaiting.kdlRuns = true ∧ rollWaiting.linkOn 0 = true ∧
    serving.interval (rollWaiting.rd F.kdlTmr1RekeyLog2) 16 40 = some (2 ^ 16) ∧
    serving.rekeyFrom + 2 ^ 16 ≤ rollWaiting.tick := by decide +kernel

end Sys2Proof.Machine
end

section
/-! PROOF. The statements on fragments and on the timers of a link: each fails in a sound state. -/

namespace Sys2Proof.Machine

open Sys2Proof

/-- Refutes O40 in its clause on a link that may not send, in the sound state `countsWaiting` (`countsWaiting_inv`), which a
LINK_ENABLE leaves (`exec_linkEnable_nearlyFull`). The link sends nothing, and neither its state nor a register changes; but
the command settles the counts that wait from the cycle before, one of which saturates a counter, and the interrupt of that
leaves the device (R470, R472), where the clause has nothing leave. -/
theorem not_fragments : ¬ Obligations.Fragments := by
  unfold Obligations.Fragments
  rintro ⟨-, h⟩
  obtain ⟨-, -, -, hsilent, -⟩ := h countsWaiting 0
  have hsends : countsWaiting.linkSends 0 = false := by decide +kernel
  obtain ⟨⟨t, hexec, -, hout, -⟩, -⟩ := hsilent hsends
  have ht : t = countsWaiting.closed := Host.Outcome.next.inj (hexec.symm.trans (exec_ackSend_of_silent hsends))
  rw [ht] at hout
  exact countsWaiting_closed_out hout

/-- Refutes O41 in its clause on the REKEY timer, in the sound state `rollWaiting` (`rollWaiting_inv`), which a STATE_TIMEOUT
leaves (`exec_stateTimeout_rollDeferred`). The link is LIVE with nothing in progress, but a rollover has been asked for and
goes first (R271, `State.rollService_of_wantRoll`); the REKEY stays asked for, where the clause has it begun. -/
theorem not_kindleTimers : ¬ Obligations.KindleTimers := by
  unfold Obligations.KindleTimers
  rintro ⟨-, h⟩
  obtain ⟨hcur, hquiet, hroll⟩ := rollWaiting_link
  obtain ⟨hruns, hon, hn, hdue⟩ := rollWaiting_engine
  obtain ⟨-, -, hrekey, -⟩ := h rollWaiting 0 serving hcur rfl hruns hon
  obtain ⟨t, hexec, hbegun, -⟩ := hrekey _ hn hquiet rfl hdue
  have hwaits := exec_rekeyTimer_of_wantRoll hexec hcur rfl hruns hquiet hroll hn rfl hdue
  exact Bool.false_ne_true (hbegun.symm.trans hwaits)

end Sys2Proof.Machine
end

section
/-! SUPPORT. A link of the Kindle Exchange (R226 to R290): what is read of the registers alone, the report of an event of a link,
and a free context. -/

namespace Sys2Proof.Machine

open Sys2Proof

variable {s t u : State} {l : List Part} {k : Nat}

/-! ### What the registers alone decide -/

/-- What touches no page leaves every register. -/
theorem Keeps.regsBut (h : Keeps (mask l) s t) (hl : ∀ p, Part.page p ∉ l) : s.regsBut t [] := fun _ _ => h.word (hl _)

theorem State.regsBut_rd (h : s.regsBut t []) (f : Fld) (i o : Nat) : t.rd f i o = s.rd f i o := by
  rw [State.rd, State.rd, h _ List.not_mem_nil]

theorem State.regsBut_on (h : s.regsBut t []) (f : Fld) (i o : Nat) : t.on f i o = s.on f i o := by
  rw [State.on, State.on, State.regsBut_rd h]

theorem State.regsBut_linkOn (h : s.regsBut t []) (k : Nat) : t.linkOn k = s.linkOn k := State.regsBut_on h ..

theorem State.regsBut_linkPort (h : s.regsBut t []) (k : Nat) : t.linkPort k = s.linkPort k := State.regsBut_rd h ..

theorem State.regsBut_kdlRuns (h : s.regsBut t []) : t.kdlRuns = s.kdlRuns := by
  have hmode : t.effMode = s.effMode := by
    rw [State.effMode, State.effMode, State.mode, State.mode, State.regsBut_rd h, State.regsBut_rd h]
  rw [State.kdlRuns, State.kdlRuns, State.sealing, State.sealing, hmode, State.regsBut_on h, State.ready, State.ready,
    State.regsBut_on h]

theorem State.regsBut_noChannel (h : s.regsBut t []) (k : Nat) : t.noChannel k = s.noChannel k := by
  simp only [State.noChannel, State.portOtn, State.regsBut_linkPort h, State.regsBut_on h, State.regsBut_rd h]

theorem State.regsBut_linkSends (h : s.regsBut t []) (hhold : (t.link k).holdUntil = (s.link k).holdUntil) :
    t.linkSends k = s.linkSends k := by
  simp only [State.linkSends, State.regsBut_kdlRuns h, State.regsBut_linkOn h, State.regsBut_noChannel h, hhold]

theorem State.regsBut_holdoffTicks (h : s.regsBut t []) (n : Nat) : t.holdoffTicks n = s.holdoffTicks n := by
  simp only [State.holdoffTicks, State.regsBut_rd h]

theorem State.modLink_regsBut (s : State) (k : Nat) (f : Link → Link) : s.regsBut (s.modLink k f) [] :=
  State.modLink_keeps.regsBut (by simp)

/-! ### The event of a link -/

theorem State.kdlEvent_regsBut (f : Fld) (reason : Nat) : s.regsBut (s.kdlEvent f k reason) [] :=
  State.kdlEvent_keeps.regsBut (by simp)

@[simp] theorem State.kdlEvent_kindle (s : State) (f : Fld) (k reason : Nat) : (s.kdlEvent f k reason).kindle = s.kindle :=
  State.kdlEvent_keeps.frame .kindle (by decide)

@[simp] theorem State.kdlEvent_link (s : State) (f : Fld) (k reason j : Nat) : (s.kdlEvent f k reason).link j = s.link j := by
  rw [State.link, State.link, State.kdlEvent_kindle]

@[simp] theorem State.kdlEvent_sched (s : State) (f : Fld) (k reason : Nat) : (s.kdlEvent f k reason).sched = s.sched :=
  State.kdlEvent_keeps.frame .sched (by decide)

@[simp] theorem State.kdlEvent_assocs (s : State) (f : Fld) (k reason : Nat) : (s.kdlEvent f k reason).assocs = s.assocs :=
  State.kdlEvent_keeps.frame .assocs (by decide)

/-- An event of a link shows in its register (R264). -/
theorem State.kdlEvent_evt {f : Fld} (reason : Nat) (hfits : f.fits = true) (hw : f.w = 1) :
    (s.kdlEvent f k reason).evt f = 1 := State.event_evt_self _ 0 hfits hw

/-! ### Contexts (R261) -/

/-- The handshake contexts that the sessions of a link hold. -/
def Link.contexts (l : Link) : List Nat :=
  (match l.cur with | some x => if x.inHandshake then [x.ctx] else [] | none => []) ++
    (match l.par with | some x => if x.inHandshake then [x.ctx] else [] | none => [])

theorem State.contexts_eq (s : State) : s.contexts = s.kindle.links.flatMap (fun e => e.2.contexts) := rfl

theorem nget_listed {α : Type} (d : α) (m : NMap α) (k : Nat) : nget d m k = d ∨ (k, nget d m k) ∈ m := by
  induction m with
  | nil => exact .inl rfl
  | cons e m ih =>
    obtain ⟨j, v⟩ := e
    simp only [nget, mget] at ih ⊢
    split
    · next h => exact .inr (h ▸ List.mem_cons_self)
    · exact ih.imp_right (List.mem_cons_of_mem _)

/-- A context that a link of the table holds is in use. -/
theorem State.mem_contexts_of_link {c : Nat} (h : c ∈ (s.link k).contexts) : c ∈ s.contexts := by
  rw [State.contexts_eq, List.mem_flatMap]
  rcases nget_listed {} s.kindle.links k with hnone | hlisted
  · rw [State.link, hnone] at h
    exact absurd h List.not_mem_nil
  · exact ⟨_, hlisted, h⟩

/-- A change of one link that leaves its contexts takes none into use. -/
theorem State.modLink_contexts {f : Link → Link} (hf : (f (s.link k)).contexts = (s.link k).contexts) :
    (s.modLink k f).contexts ⊆ s.contexts := by
  intro c hc
  rw [State.contexts_eq, List.mem_flatMap] at hc
  obtain ⟨e, he, hce⟩ := hc
  rcases mem_mset he with rfl | he
  · exact State.mem_contexts_of_link (hf ▸ hce)
  · rw [State.contexts_eq]
    exact List.mem_flatMap.mpr ⟨e, he, hce⟩

theorem lowestFree_isSome {n : Nat} {l l' : List Nat} (hsub : l ⊆ l') (h : (lowestFree n l').isSome = true) :
    (lowestFree n l).isSome = true := by
  rw [lowestFree, List.find?_isSome] at h ⊢
  obtain ⟨i, hi, hfree⟩ := h
  refine ⟨i, hi, ?_⟩
  simp only [List.contains_iff_mem, Bool.not_eq_true', Bool.eq_false_iff, ne_eq] at hfree ⊢
  exact fun hmem => hfree (hsub hmem)

/-- A context stays free where none is taken into use. -/
theorem State.freeContext_isSome (hregs : s.regsBut t []) (hsub : t.contexts ⊆ s.contexts)
    (h : s.freeContext.isSome = true) : t.freeContext.isSome = true := by
  rw [State.freeContext, State.regsBut_on hregs]
  exact lowestFree_isSome hsub h

end Sys2Proof.Machine
end

section
/-! SUPPORT. The registers of a link: KDL_LINK_CFG and KDL_LINK_CMD as they land (R228, R255, R264). -/

namespace Sys2Proof.Machine

open Sys2Proof

variable {s : State} {k : Nat} {cyc : Cyc}

/-! ### The word of KDL_LINK_CFG: two bits, and the port in its second byte -/

theorem linkCfg_toNat {b p : Nat} (hb : b < 4) (hp : p < 256) : (BitVec.ofNat 32 (b + 256 * p)).toNat = b + 256 * p := by
  rw [BitVec.toNat_ofNat]
  omega

theorem linkCfg_enable {b p : Nat} (hb : b < 4) (hp : p < 256) : getF (BitVec.ofNat 32 (b + 256 * p)) 0 1 = b % 2 := by
  rw [getF, linkCfg_toNat hb hp, Nat.shiftRight_zero]
  omega

theorem linkCfg_port {b p : Nat} (hb : b < 4) (hp : p < 256) : getF (BitVec.ofNat 32 (b + 256 * p)) 8 8 = p := by
  rw [getF, linkCfg_toNat hb hp, Nat.shiftRight_eq_div_pow]
  omega

/-- The register holds no other bits. -/
theorem linkCfg_mask {b p : Nat} (hb : b < 4) (hp : p < 256) :
    BitVec.ofNat 32 (b + 256 * p) &&& 0xFF03 = BitVec.ofNat 32 (b + 256 * p) := by
  refine BitVec.eq_of_toNat_eq (Nat.eq_of_testBit_eq fun i => ?_)
  have hsplit : b + 256 * p = 2 ^ 8 * p + b := by omega
  have hmask : (0xFF03 : Nat) = 2 ^ 8 * (2 ^ 8 - 1) + (2 ^ 2 - 1) := rfl
  have hlow : b < 2 ^ 8 := by omega
  rw [BitVec.toNat_and, linkCfg_toNat hb hp, Nat.testBit_and, hsplit, Nat.testBit_two_pow_mul_add _ hlow]
  show (_ && Nat.testBit 0xFF03 i) = _
  rw [hmask, Nat.testBit_two_pow_mul_add _ (by decide), Nat.testBit_two_pow_sub_one, Nat.testBit_two_pow_sub_one]
  split
  · rw [← Nat.mod_eq_of_lt (show b < 2 ^ 2 from hb), Nat.testBit_mod_two_pow]
    cases decide (i < 2) <;> simp
  · rw [← Nat.mod_eq_of_lt (show p < 2 ^ 8 from hp), Nat.testBit_mod_two_pow]
    cases decide (i - 8 < 8) <;> simp

/-! ### Commands of a link -/

/-- The commands of KDL_LINK_CMD, with their operations. -/
def linkCommands (cyc : Cyc) : List (Instr × Nat) :=
  [(.linkStart cyc, 1), (.linkAbort cyc, 2), (.linkRekey cyc, 3), (.linkReauth cyc, 4), (.clearHoldoff cyc, 5),
    (.linkRoll cyc, 6)]

theorem exec_linkCommand (hr : s.ready .kdl = true) {c : Instr × Nat} (hc : c ∈ linkCommands cyc) :
    exec c.1 s = done ((s.at cyc).landLinkCmd c.2 cyc) := by
  simp only [linkCommands, List.mem_cons, List.not_mem_nil, or_false] at hc
  rcases hc with rfl | rfl | rfl | rfl | rfl | rfl <;> exact congrArg done (State.gate_of_ready hr)

theorem linkCommand_plans (hr : s.ready .kdl = true) (hk : k = s.rd F.kdlLinkSelLink) {c : Instr × Nat}
    (hc : c ∈ linkCommands cyc) :
    Runs c.1 s (fun t => s.plans t (.linkCmd k c.2) cyc ∧ t.kindle = s.kindle ∧ s.regsBut t []) := by
  refine runs_of_done (exec_linkCommand hr hc) ⟨?_, by rw [State.closed_kindle]; rfl, State.closed_regsBut fun _ _ => rfl⟩
  rw [State.plans, State.closed_sched, hk]
  rfl

/-! ### A write of KDL_LINK_CFG -/

/-- Another enabled link has port `p` (R228). -/
def State.rivalLink (s : State) (k p : Nat) : Bool :=
  (List.range 144).any (fun j => decide (j ≠ k) && s.linkOn j && decide (s.linkPort j = p))

theorem exec_linkEnable_of_ready (hr : s.ready .kdl = true) (start : Bool) (port : Byte) :
    exec (.linkEnable start port cyc) s =
      done ((s.at cyc).landLinkCfg (s.rd F.kdlLinkSelLink) (BitVec.ofNat 32 (1 + 2 * b2n start + 256 * port.toNat)) cyc) :=
  congrArg done (State.gate_of_ready hr)

theorem exec_linkDisable_of_ready (hr : s.ready .kdl = true) (start : Bool) :
    exec (.linkDisable start cyc) s = done ((s.at cyc).landLinkCfg (s.rd F.kdlLinkSelLink)
      (BitVec.ofNat 32 (2 * b2n start + 256 * s.linkPort (s.rd F.kdlLinkSelLink))) cyc) :=
  congrArg done (State.gate_of_ready hr)

/-- A write that enables no link on a port of another, and moves none that is enabled, pends. -/
theorem landLinkCfg_pends {b p : Nat} (hb : b < 4) (hp : p < 256)
    (h : b % 2 = 1 → s.rivalLink k p = false ∧ (s.linkOn k = false ∨ s.linkPort k = p)) :
    s.pends ((s.at cyc).landLinkCfg k (BitVec.ofNat 32 (b + 256 * p)) cyc).closed (keyOf F.kdlLinkCfgEnable 0 k)
        (BitVec.ofNat 32 (b + 256 * p)) cyc ∧
      ((s.at cyc).landLinkCfg k (BitVec.ofNat 32 (b + 256 * p)) cyc).closed.kindle = s.kindle ∧
      s.regsBut ((s.at cyc).landLinkCfg k (BitVec.ofNat 32 (b + 256 * p)) cyc).closed [] := by
  have hlands : (s.at cyc).landLinkCfg k (BitVec.ofNat 32 (b + 256 * p)) cyc =
      (s.at cyc).putCopy (keyOf F.kdlLinkCfgEnable 0 k) (BitVec.ofNat 32 (b + 256 * p)) cyc := by
    rw [State.landLinkCfg, linkCfg_enable hb hp, linkCfg_port hb hp, linkCfg_mask hb hp]
    refine if_neg fun ⟨hodd, hbad⟩ => ?_
    obtain ⟨hrival, hstays⟩ := h hodd
    rcases hbad with hbad | ⟨hon, hmoves⟩
    · exact Bool.false_ne_true (hrival.symm.trans hbad)
    · rcases hstays with hoff | hstays
      · exact Bool.false_ne_true (hoff.symm.trans hon)
      · exact hmoves hstays.symm
  rw [hlands]
  refine ⟨State.pends_putCopy rfl rfl rfl, ?_, State.closed_regsBut (State.putCopy_regsBut (s.at_regsBut cyc []))⟩
  rw [State.closed_kindle, State.putCopy_kindle, State.at_kindle]

/-- A write that would enable a link on the port of another, or move one that is enabled, is refused as a whole. -/
theorem landLinkCfg_refused {b p : Nat} (hb : b < 4) (hp : p < 256) (hodd : b % 2 = 1)
    (h : s.linkOn k = true ∧ s.linkPort k ≠ p ∨ s.rivalLink k p = true) :
    ((s.at cyc).landLinkCfg k (BitVec.ofNat 32 (b + 256 * p)) cyc).closed.sched = s.sched ∧
      ((s.at cyc).landLinkCfg k (BitVec.ofNat 32 (b + 256 * p)) cyc).closed.kindle = s.kindle ∧
      ((s.at cyc).landLinkCfg k (BitVec.ofNat 32 (b + 256 * p)) cyc).closed.evt F.kdlEvtCfgRejected = 1 ∧
      s.regsBut ((s.at cyc).landLinkCfg k (BitVec.ofNat 32 (b + 256 * p)) cyc).closed [] := by
  have hlands : (s.at cyc).landLinkCfg k (BitVec.ofNat 32 (b + 256 * p)) cyc =
      (s.at cyc).kdlEvent F.kdlEvtCfgRejected k 0 := by
    rw [State.landLinkCfg, linkCfg_enable hb hp, linkCfg_port hb hp]
    exact if_pos ⟨hodd, h.symm.imp_right fun ⟨hon, hmoves⟩ => ⟨hon, Ne.symm hmoves⟩⟩
  rw [hlands, State.closed_sched, State.closed_kindle, State.closed_evt _ _ _ (by decide)]
  exact ⟨by simp, by simp, State.kdlEvent_evt _ (by decide) rfl, State.closed_regsBut (State.kdlEvent_regsBut _ _)⟩

end Sys2Proof.Machine
end

section
/-! SUPPORT. A link offers (R255, R256, R261): the session that it opens, and the ends of a hold-off and of a wait. -/

namespace Sys2Proof.Machine

open Sys2Proof

variable {s : State}

/-! ### What a draw leaves, and a session opened -/

@[simp] theorem State.draw_kindle (s : State) (n : Nat) : (s.draw n).1.kindle = s.kindle :=
  State.draw_keeps.fst.frame .kindle (by decide)

@[simp] theorem State.draw_link (s : State) (n k : Nat) : (s.draw n).1.link k = s.link k := by
  rw [State.link, State.link, State.draw_kindle]

/-- The session that opens on a link in place `idx` and context `ctx`, with its nonce (R255). -/
def openedSession (idx ctx now : Nat) (initiator : Bool) (nonce : List Byte) : Session :=
  { idx := idx, ctx := ctx, st := if initiator then .offered else .answered, since := now
    initiator := initiator, nonce := nonce, id := if initiator then nonce.take 8 else [] }

theorem State.openSession_link (k : Nat) (initiator : Bool) (c : Nat) :
    (s.openSession k false initiator c).link k = { s.link k with
      cur := some (openedSession ((lowestFree 512 s.sessionIdxs).getD 511) c (s.draw 32).1.tick initiator (s.draw 32).2)
      waitsCtx := false } := by
  unfold State.openSession onlyIf
  simp [openedSession, Link.setSes]

theorem State.modSes_link (s : State) (k : Nat) (f : Session → Session) :
    (s.modSes k false f).link k = { s.link k with cur := (s.link k).cur.map f } := by
  rw [State.modSes, State.modLink_link_self]
  rfl

theorem State.lattice_link (k : Nat) (ops : List LatOp) (goal : Goal) :
    (s.lattice k false ops goal).link k =
      { s.link k with cur := (s.link k).cur.map (fun x => { x with ops := ops, goal := some goal }) } :=
  State.modSes_link ..

/-- What a link shows once it offers. -/
def Link.offers (l : Link) : Prop :=
  l.cur.map (fun x => (x.st, x.initiator, x.ops, x.goal)) = some (.offered, true, [.keygen], some .sendOffer)

theorem State.tryOffer_offers {k : Nat} (hcur : (s.link k).cur = none) (hfree : (s.link k).holdUntil = none)
    (hon : s.linkOn k = true) (hruns : s.kdlRuns = true) (hctx : s.freeContext.isSome = true) :
    ((s.tryOffer k false).link k).offers ∧ ((s.tryOffer k false).link k).holdUntil = none ∧
      ((s.tryOffer k false).link k).waitsCtx = false := by
  obtain ⟨c, hc⟩ := Option.isSome_iff_exists.mp hctx
  have hoffers : s.tryOffer k false = (s.openSession k false true c).lattice k false [.keygen] .sendOffer := by
    simp [State.tryOffer, Link.ses, hcur, hfree, hon, hruns, hc]
  rw [hoffers, State.lattice_link, State.openSession_link]
  exact ⟨rfl, hfree, rfl⟩

theorem State.tryOffer_regsBut {k : Nat} {par : Bool} : s.regsBut (s.tryOffer k par) [] := State.tryOffer_keeps.regsBut (by simp)

/-! ### A hold-off ends, and a wait for a context -/

theorem exec_holdoffEnd_of_due {k : LinkNo} {e : Nat} (hhold : (s.link k).holdUntil = some e) (hdue : e ≤ s.tick) :
    exec (.holdoffEnd k) s = done (onlyIf (s.on F.kdlLinkCfgStart 0 k) (fun s => s.tryOffer k false)
      (s.modLink k (fun l => { l with holdUntil := none }))) := by
  show done _ = done _
  simp [hhold, hdue, State.holdoffOver]

theorem exec_contextFreed_of_waiting {k : LinkNo} (hwaits : (s.link k).waitsCtx = true) (hcur : (s.link k).cur = none) :
    exec (.contextFreed k) s = done (s.tryOffer k false) := by
  show done _ = done _
  simp [State.offerWaiting, onlyIf, hwaits, Link.live, hcur]

/-- A hold-off that has ended leaves the link free, and a link with start = 1 then offers. -/
theorem holdoffEnd_frees {k : LinkNo} {e : Nat} (hcur : (s.link k).cur = none) (hon : s.linkOn k = true) (hruns : s.kdlRuns = true)
    (hctx : s.freeContext.isSome = true) (hhold : (s.link k).holdUntil = some e) (hdue : e ≤ s.tick) :
    Runs (.holdoffEnd k) s (fun t => (t.link k).holdUntil = none ∧ s.regsBut t [] ∧
      (s.rd F.kdlLinkCfgStart 0 k = 0 → (t.link k).cur = none) ∧ (s.rd F.kdlLinkCfgStart 0 k = 1 → (t.link k).offers)) := by
  have hfreed : s.regsBut (s.modLink k (fun l => { l with holdUntil := none })) [] := s.modLink_regsBut _ _
  have hlink := s.modLink_link_self k (fun l => { l with holdUntil := none })
  refine runs_of_done (exec_holdoffEnd_of_due hhold hdue) ?_
  rw [State.closed_link]
  cases hstart : s.on F.kdlLinkCfgStart 0 k
  case false =>
    have hzero : s.rd F.kdlLinkCfgStart 0 k ≠ 1 := by simpa [State.on] using hstart
    rw [onlyIf_of_false rfl, hlink]
    exact ⟨rfl, State.closed_regsBut hfreed, fun _ => hcur, fun h => absurd h hzero⟩
  case true =>
    have hone : s.rd F.kdlLinkCfgStart 0 k = 1 := by simpa [State.on] using hstart
    obtain ⟨hoffers, hfree, -⟩ := State.tryOffer_offers (k := k) (by rw [hlink]; exact hcur) (by rw [hlink])
      ((State.regsBut_linkOn hfreed k).trans hon) ((State.regsBut_kdlRuns hfreed).trans hruns)
      (State.freeContext_isSome hfreed (State.modLink_contexts rfl) hctx)
    rw [onlyIf_of_true rfl]
    exact ⟨hfree, State.closed_regsBut (State.regsBut_trans hfreed State.tryOffer_regsBut),
      fun h => absurd (h.symm.trans hone) (by decide), fun _ => hoffers⟩

/-- A link that waited for a context offers once one is free. -/
theorem contextFreed_offers {k : LinkNo} (hcur : (s.link k).cur = none) (hon : s.linkOn k = true) (hruns : s.kdlRuns = true)
    (hctx : s.freeContext.isSome = true) (hfree : (s.link k).holdUntil = none) (hwaits : (s.link k).waitsCtx = true) :
    Runs (.contextFreed k) s (fun t => (t.link k).waitsCtx = false ∧ s.regsBut t [] ∧ (t.link k).offers) := by
  obtain ⟨hoffers, -, hwaits'⟩ := State.tryOffer_offers hcur hfree hon hruns hctx
  refine runs_of_done (exec_contextFreed_of_waiting hwaits hcur) ?_
  rw [State.closed_link]
  exact ⟨hwaits', State.closed_regsBut State.tryOffer_regsBut, hoffers⟩

end Sys2Proof.Machine
end

section
/-! PROOF. The statement on links. -/

namespace Sys2Proof.Machine

open Sys2Proof

/-- Settles O39: the commands of a link by what lands, its configuration by the rival ports, and its offers by the session that
opens. -/
theorem links : Obligations.Links := by
  unfold Obligations.Links
  refine ⟨fun s cyc k hr hk => ⟨fun c hc => linkCommand_plans hr hk hc, fun start port w hw => ?enable, fun start => ?disable⟩,
    fun s k hcur hon hruns hctx => ⟨fun e hhold hdue => holdoffEnd_frees hcur hon hruns hctx hhold hdue,
      fun hfree hwaits => contextFreed_offers hcur hon hruns hctx hfree hwaits⟩⟩
  case enable =>
    subst hk hw
    have hb : 1 + 2 * b2n start < 4 := by cases start <;> decide
    have hodd : (1 + 2 * b2n start) % 2 = 1 := by omega
    have hexec := exec_linkEnable_of_ready (cyc := cyc) hr start port
    exact ⟨fun h => runs_of_done hexec (landLinkCfg_pends hb port.isLt fun _ => h),
      fun h => runs_of_done hexec (landLinkCfg_refused hb port.isLt hodd h)⟩
  case disable =>
    subst hk
    have hb : 2 * b2n start < 4 := by cases start <;> decide
    have heven : (2 * b2n start) % 2 = 0 := by omega
    exact runs_of_done (exec_linkDisable_of_ready hr start)
      (landLinkCfg_pends hb (getF_lt_two_pow ..) fun hodd => absurd (heven.symm.trans hodd) (by decide))

end Sys2Proof.Machine
end

section
/-! SUPPORT. What sending changes of a link (R237): the fragments of its first message, the tick at which that began, and the
reason of the last ABORT. -/

namespace Sys2Proof.Machine

open Sys2Proof

variable {s t u : State} {k : Nat}

/-- From `s` to `t`, link `k` has sent what it may, and nothing else has changed of it. -/
structure OnlySends (k : Nat) (s t : State) : Prop where
  link : ∃ fs n r, t.link k = { s.link k with frags := fs, txFrom := n, lastReason := r }
  lattice : t.kindle.lattice = s.kindle.lattice
  keeps : Keeps (mask [.rep, .ports, .kindle, .out]) s t

theorem OnlySends.refl (k : Nat) (s : State) : OnlySends k s s := ⟨⟨_, _, _, rfl⟩, rfl, Keeps.refl s⟩

theorem OnlySends.trans (h : OnlySends k s t) (h' : OnlySends k t u) : OnlySends k s u := by
  obtain ⟨fs, n, r, hlink⟩ := h.link
  obtain ⟨fs', n', r', hlink'⟩ := h'.link
  exact ⟨⟨fs', n', r', by rw [hlink', hlink]⟩, h'.lattice.trans h.lattice, h.keeps.trans h'.keeps⟩

theorem OnlySends.regsBut (h : OnlySends k s t) : s.regsBut t [] := h.keeps.regsBut (by simp)

theorem OnlySends.forN {f : Nat → State → State} (hf : ∀ i s, OnlySends k s (f i s)) (n : Nat) (s : State) :
    OnlySends k s (forN n f s) := by
  induction n with
  | zero => exact .refl k s
  | succ n ih => exact forN_succ n f s ▸ ih.trans (hf n _)

theorem State.sendFragment_links (frag : List Byte) : (s.sendFragment k frag).kindle.links = s.kindle.links ∧
    (s.sendFragment k frag).kindle.lattice = s.kindle.lattice := by
  rw [State.sendFragment]
  dsimp only
  split
  · split <;> exact ⟨rfl, rfl⟩
  · have hmac (bs : List Byte) : (s.macSend (s.linkPort k) bs false).kindle = s.kindle :=
      State.macSend_keeps.frame .kindle (by decide)
    rw [onlyIf]
    split
    · rw [hmac]; exact ⟨rfl, rfl⟩
    · exact ⟨rfl, rfl⟩

theorem State.sendFragment_link (frag : List Byte) (j : Nat) : (s.sendFragment k frag).link j = s.link j := by
  rw [State.link, State.link, (State.sendFragment_links frag).1]

/-- An ABORT that leaves gives its reason, and is told. -/
theorem State.abortLeaves_link (m : List Byte) :
    (s.abortLeaves k m).link k = { s.link k with lastReason := byteAt m 32 } := by
  rw [State.abortLeaves, State.kdlEvent_link, State.count_link, State.modLink_link_self]

theorem State.abortLeaves_evt (m : List Byte) : (s.abortLeaves k m).evt F.kdlEvtAbortSent = 1 :=
  State.kdlEvent_evt _ (by decide) rfl

theorem OnlySends.abortLeaves (m : List Byte) : OnlySends k s (s.abortLeaves k m) where
  link := ⟨_, _, _, State.abortLeaves_link m⟩
  lattice := by rw [State.abortLeaves, State.kdlEvent_kindle, State.count_kindle]; rfl
  keeps := State.abortLeaves_keeps.mono (by decide)

/-- Fragment `f` of message `m` after a send (R237). -/
def State.sentFrag (s : State) (k : Nat) (f : TxFrag) : TxFrag :=
  { f with sends := f.sends + 1, edge := s.tick + 1, first := if f.sends = 0 then s.tick else f.first
           left := if s.portOtn (s.linkPort k) then (nget [] s.kindle.gccTx (s.linkPort k)).length else 0 }

/-- Fragment `i` of message `m` leaves, as `f` says how it stands. -/
def State.fragLeaves (s : State) (k i : Nat) (m : OutMsg) (f : TxFrag) : State :=
  (s.sendFragment k (dataFragment (s.link k).nextMsgId i (s.link k).frags.length
    (slice m.bytes (240 * i) (min 240 (m.bytes.length - 240 * i))))).count .kdl 0 (if f.sends = 0 then 3 else 4)

theorem State.sendIndex_of_some {i : Nat} {m : OutMsg} {f : TxFrag} (hm : (s.link k).outQ.head? = some m)
    (hf : (s.link k).frags[i]? = some f) :
    s.sendIndex k i = onlyIf (decide (f.sends = 0 ∧ i = 0) && decide (byteAt m.bytes 0 = 9)) (fun s => s.abortLeaves k m.bytes)
      ((s.fragLeaves k i m f).modLink k (fun l => { l with
        frags := l.frags.set i ((s.fragLeaves k i m f).sentFrag k f) })) := by
  rw [State.sendIndex]
  simp only [hm, hf]
  rfl

theorem State.fragLeaves_link {i : Nat} {m : OutMsg} {f : TxFrag} (j : Nat) : (s.fragLeaves k i m f).link j = s.link j := by
  rw [State.fragLeaves, State.count_link, State.sendFragment_link]

theorem OnlySends.sendIndex (i : Nat) (s : State) : OnlySends k s (s.sendIndex k i) := by
  cases hm : (s.link k).outQ.head? with
  | none =>
    rw [State.sendIndex]
    simp only [hm]
    exact .refl k s
  | some m =>
    cases hf : (s.link k).frags[i]? with
    | none =>
      rw [State.sendIndex]
      simp only [hm, hf]
      exact .refl k s
    | some f =>
      rw [State.sendIndex_of_some hm hf]
      refine OnlySends.trans (t := (s.fragLeaves k i m f).modLink k (fun l => { l with
        frags := l.frags.set i ((s.fragLeaves k i m f).sentFrag k f) })) ⟨?link, ?lattice, ?keeps⟩ ?abort
      case link => exact ⟨_, _, _, by rw [State.modLink_link_self, State.fragLeaves_link]⟩
      case lattice =>
        show (s.fragLeaves k i m f).kindle.lattice = _
        rw [State.fragLeaves, State.count_kindle, (State.sendFragment_links _).2]
      case keeps =>
        exact State.modLink_keeps.step (by rfl) ((Keeps.count ..).step (by rfl) State.sendFragment_keeps)
      case abort =>
        rw [onlyIf]
        split
        · exact .abortLeaves m.bytes
        · exact .refl k _

/-! ### The pump -/

/-- The next message begins once the last is wholly acknowledged. -/
def State.beginMsg (s : State) (k : Nat) : State :=
  match (s.link k).outQ with
  | m :: _ =>
    if (s.link k).frags.isEmpty then
      (s.modLink k (fun l => { l with frags := List.replicate (ceilDiv m.bytes.length 240) {}, txFrom := s.tick })).count .kdl 0 1
    else s
  | [] => s

/-- Fragment `i` leaves where it has not, and the window of 8 is open. -/
def State.sendNext (k i : Nat) (s : State) : State :=
  match (s.link k).frags[i]? with
  | some f =>
    if f.sends = 0 ∧ ((s.link k).frags.filter (fun x => decide (0 < x.sends) && !x.acked)).length < 8 then s.sendIndex k i else s
  | none => s

theorem State.pump_eq (s : State) (k : Nat) :
    s.pump k = if !s.linkSends k then s else forN 35 (State.sendNext k) (s.beginMsg k) := rfl

theorem OnlySends.sendNext (i : Nat) (s : State) : OnlySends k s (State.sendNext k i s) := by
  rw [State.sendNext]
  split
  · split
    · exact .sendIndex i s
    · exact .refl k s
  · exact .refl k s

theorem OnlySends.beginMsg (s : State) : OnlySends k s (s.beginMsg k) := by
  rw [State.beginMsg]
  split
  · split
    · exact ⟨⟨_, _, _, by rw [State.count_link, State.modLink_link_self]⟩, by rw [State.count_kindle]; rfl,
        (Keeps.count ..).step (by rfl) (State.modLink_keeps.mono (by decide))⟩
    · exact .refl k s
  · exact .refl k s

theorem OnlySends.pump (s : State) : OnlySends k s (s.pump k) := by
  rw [State.pump_eq]
  split
  · exact .refl k s
  · exact (OnlySends.beginMsg s).trans (.forN OnlySends.sendNext 35 _)

/-! ### An ABORT leaves at once -/

theorem State.sendIndex_frags_length (i : Nat) : ((s.sendIndex k i).link k).frags.length = (s.link k).frags.length := by
  cases hm : (s.link k).outQ.head? with
  | none => simp only [State.sendIndex, hm]
  | some m =>
    cases hf : (s.link k).frags[i]? with
    | none => simp only [State.sendIndex, hm, hf]
    | some f =>
      rw [State.sendIndex_of_some hm hf, onlyIf]
      split
      · rw [State.abortLeaves_link, State.modLink_link_self, State.fragLeaves_link, List.length_set]
      · rw [State.modLink_link_self, State.fragLeaves_link, List.length_set]

theorem State.sendNext_frags_length (i : Nat) : ((State.sendNext k i s).link k).frags.length = (s.link k).frags.length := by
  rw [State.sendNext]
  split
  · split
    · exact State.sendIndex_frags_length i
    · rfl
  · rfl

/-- Of a message of one fragment, the pump sends that one. -/
theorem State.forN_sendNext_of_single (h : (s.link k).frags.length = 1) (n : Nat) :
    forN (n + 1) (State.sendNext k) s = State.sendNext k 0 s := by
  induction n with
  | zero => rfl
  | succ n ih =>
    have hbeyond : ((State.sendNext k 0 s).link k).frags[n + 1]? = none :=
      List.getElem?_eq_none (by rw [State.sendNext_frags_length, h]; omega)
    rw [forN_succ, ih, State.sendNext, hbeyond]

/-- On a link that may send and has sent all it had, an ABORT leaves as it is queued (R237, R263, R264). -/
theorem State.queueMsg_abort {ses : Option Nat} {bytes : List Byte} (hsends : s.linkSends k = true) (hqueue : (s.link k).outQ = [])
    (hfrags : (s.link k).frags = []) (htype : byteAt bytes 0 = 9) (hlength : ceilDiv bytes.length 240 = 1) :
    ((s.queueMsg k ses bytes).link k).lastReason = byteAt bytes 32 ∧ (s.queueMsg k ses bytes).evt F.kdlEvtAbortSent = 1 := by
  rw [State.queueMsg]
  generalize hw : s.modLink k (fun l => { l with outQ := l.outQ ++ [{ session := ses, bytes := bytes }] }) = w
  have hlink : w.link k = { s.link k with outQ := [{ session := ses, bytes := bytes }] } := by
    rw [← hw, State.modLink_link_self, hqueue]
    rfl
  have hmay : w.linkSends k = true := by
    rw [← hsends]
    exact State.regsBut_linkSends (hw ▸ s.modLink_regsBut k _) (by rw [hlink])
  have hbegun : ((w.beginMsg k).link k) = { w.link k with frags := [{}], txFrom := w.tick } := by
    simp only [State.beginMsg, hlink, hfrags, List.isEmpty_nil, ↓reduceIte, State.count_link, State.modLink_link_self, hlength]
    rfl
  have hleaves : State.sendNext k 0 (w.beginMsg k) = (w.beginMsg k).sendIndex k 0 := by
    simp [State.sendNext, hbegun]
  have hpump : w.pump k = (w.beginMsg k).sendIndex k 0 := by
    rw [State.pump_eq, hmay, ← hleaves]
    exact State.forN_sendNext_of_single (by rw [hbegun]; rfl) 34
  rw [hpump, State.sendIndex_of_some (m := { session := ses, bytes := bytes }) (f := {}) (by rw [hbegun, hlink]; rfl)
    (by rw [hbegun]; rfl), onlyIf_of_true (by simp [htype])]
  exact ⟨congrArg Link.lastReason (State.abortLeaves_link _), State.abortLeaves_evt _⟩

end Sys2Proof.Machine
end

section
/-! SUPPORT. The bytes of an ABORT (R239, R243, R244). -/

namespace Sys2Proof.Machine

open Sys2Proof

variable {x : Session} {r : Nat}

theorem length_slice (bs : List Byte) (i n : Nat) : (slice bs i n).length = n := by
  have htake : ((bs.drop i).take n).length ≤ n := List.length_take_le ..
  simp only [slice, List.length_append, List.length_replicate]
  omega

theorem length_beBytes (n v : Nat) : (beBytes n v).length = n := by
  induction n with
  | zero => rfl
  | succ n ih => rw [beBytes, List.length_cons, ih]

theorem byteAt_append_left {as bs : List Byte} {i : Nat} (h : i < as.length) : byteAt (as ++ bs) i = byteAt as i := by
  rw [byteAt, byteAt, List.getD_append _ _ _ _ h]

theorem byteAt_append_right {as bs : List Byte} {i : Nat} (h : as.length ≤ i) :
    byteAt (as ++ bs) i = byteAt bs (i - as.length) := by
  rw [byteAt, byteAt, List.getD_append_right _ _ _ _ h]

theorem byteAt_take {as : List Byte} {i n : Nat} (h : i < n) : byteAt (as.take n) i = byteAt as i := by
  rw [byteAt, byteAt, List.getD_eq_getElem?_getD, List.getD_eq_getElem?_getD, List.getElem?_take_of_lt h]

/-- The header of a message of a session with a body of `n` bytes (R239). -/
def Session.header (x : Session) (type epoch : Nat) (tagged : Bool) (n : Nat) : List Byte :=
  beBytes 1 type ++ [1, if x.initiator then 0 else 1, if tagged then 1 else 0] ++ beBytes 4 (32 + n) ++
    slice x.id 0 8 ++ beBytes 4 epoch ++ beBytes 4 x.gen ++ beBytes 4 x.seqOut ++ beBytes 4 0

theorem Session.message_eq (type epoch : Nat) (tagged : Bool) (body : List Byte) :
    x.message type epoch tagged body = x.header type epoch tagged body.length ++ body := rfl

theorem Session.header_length (type epoch : Nat) (tagged : Bool) (n : Nat) : (x.header type epoch tagged n).length = 32 := by
  simp [Session.header, length_beBytes, length_slice]

theorem Session.header_type {type : Nat} (epoch : Nat) (tagged : Bool) (n : Nat) (h : type < 256) :
    byteAt (x.header type epoch tagged n) 0 = type := by
  show (BitVec.ofNat 8 (type >>> 0)).toNat = type
  rw [BitVec.toNat_ofNat, Nat.shiftRight_zero, Nat.mod_eq_of_lt h]

theorem Session.message_type {type : Nat} (epoch : Nat) (tagged : Bool) (body : List Byte) (h : type < 256) :
    byteAt (x.message type epoch tagged body) 0 = type := by
  rw [Session.message_eq, byteAt_append_left (by rw [Session.header_length]; decide), Session.header_type _ _ _ h]

theorem Session.message_body (type epoch : Nat) (tagged : Bool) (body : List Byte) :
    byteAt (x.message type epoch tagged body) 32 = byteAt body 0 := by
  rw [Session.message_eq, byteAt_append_right (by rw [Session.header_length]), Session.header_length]

theorem Session.message_length (type epoch : Nat) (tagged : Bool) (body : List Byte) :
    (x.message type epoch tagged body).length = 32 + body.length := by
  rw [Session.message_eq, List.length_append, Session.header_length]

/-- A tagged message is as long as the untagged one with 64 bytes more, and begins as that does. -/
theorem Session.tagged_length (type epoch : Nat) (body : List Byte) :
    (x.tagged type epoch body).length = 32 + body.length + 64 := by
  simp only [Session.tagged, List.length_append, List.length_take, Session.message_length, List.length_replicate, length_slice]
  omega

theorem Session.tagged_byteAt (type epoch : Nat) (body : List Byte) {i : Nat} (h : i < 32 + body.length) :
    byteAt (x.tagged type epoch body) i = byteAt (x.message type epoch true (body ++ List.replicate 64 0)) i := by
  have hlength : (x.message type epoch true (body ++ List.replicate 64 0)).length - 64 = 32 + body.length := by
    rw [Session.message_length, List.length_append, List.length_replicate]
    omega
  simp only [Session.tagged, hlength]
  rw [byteAt_append_left, byteAt_take h]
  rw [List.length_take]
  omega

/-- The body of an ABORT: its reason, the versions, and the place of a tag. -/
def abortBody (r : Nat) : List Byte := beBytes 1 r ++ [0] ++ beBytes 2 ownVersions ++ beBytes 4 0

/-- An ABORT is of one fragment, and carries its type and its reason. -/
theorem Session.abort_bytes (x : Session) (h : r < 256) :
    (x.abort r).length = 104 ∧ byteAt (x.abort r) 0 = 9 ∧ byteAt (x.abort r) 32 = r := by
  have hreason (rest : List Byte) : byteAt (abortBody r ++ rest) 0 = r := by
    show (BitVec.ofNat 8 (r >>> 0)).toNat = r
    rw [BitVec.toNat_ofNat, Nat.shiftRight_zero, Nat.mod_eq_of_lt h]
  have hbody : (abortBody r).length = 8 := by simp [abortBody, length_beBytes]
  have hshape : ∃ y : Session, x.abort r = if y.kctl.isEmpty then y.message 9 y.epoch false (abortBody r ++ List.replicate 64 0)
      else y.tagged 9 y.epoch (abortBody r) := ⟨_, rfl⟩
  obtain ⟨y, hy⟩ := hshape
  rw [hy]
  split
  · refine ⟨?_, Session.message_type _ _ _ (by decide), (Session.message_body ..).trans (hreason _)⟩
    rw [Session.message_length, List.length_append, hbody, List.length_replicate]
  · refine ⟨by rw [Session.tagged_length, hbody], ?_, ?_⟩
    · rw [Session.tagged_byteAt _ _ _ (by omega), Session.message_type _ _ _ (by decide)]
    · rw [Session.tagged_byteAt _ _ _ (by omega), Session.message_body, hreason]

end Sys2Proof.Machine
end

section
/-! SUPPORT. A session ends (R255, R283, R284): what closing it leaves of its link, and what shows once it has failed. -/

namespace Sys2Proof.Machine

open Sys2Proof

variable {s t u : State} {k r : Nat} {x : Session}

/-! ### Messages withdrawn -/

theorem State.endMsg_link : (s.endMsg k).link k = { s.link k with
    outQ := (s.link k).outQ.drop 1, frags := []
    nextMsgId := ((s.link k).nextMsgId + (if (s.link k).frags.isEmpty then 0 else 1)) % 65536 } := State.modLink_link_self ..

/-- What is withdrawn changes the queue of the link, with the fragments and the number of its first message. Where every message
is withdrawn and none had begun without one, the queue is empty. -/
theorem State.withdrawAll_link (sel : OutMsg → Bool) : ∃ q fs n,
    (s.withdrawAll k sel).link k = { s.link k with outQ := q, frags := fs, nextMsgId := n } ∧
      ((s.link k).outQ.all sel = true → ((s.link k).outQ = [] → (s.link k).frags = []) → q = [] ∧ fs = []) := by
  rw [State.withdrawAll]
  cases hq : (s.link k).outQ with
  | nil =>
    refine ⟨[], (s.link k).frags, (s.link k).nextMsgId, ?_, fun _ h => ⟨rfl, h rfl⟩⟩
    simp only [List.head?_nil, State.modLink_link_self, hq, List.take_nil, List.drop_nil, List.filter_nil, List.nil_append]
  | cons m ms =>
    simp only [List.head?_cons]
    by_cases hsel : sel m = true
    · refine ⟨ms.filter (fun m => !sel m), [], ((s.link k).nextMsgId + (if (s.link k).frags.isEmpty then 0 else 1)) % 65536, ?_,
        fun hall _ => ⟨?_, rfl⟩⟩
      · simp only [hsel, ↓reduceIte, State.modLink_link_self, State.endMsg_link, hq]
        rfl
      · simp only [List.all_cons, Bool.and_eq_true, List.all_eq_true] at hall
        simpa using hall.2
    · refine ⟨(m :: ms).take (if (s.link k).frags.isEmpty then 0 else 1) ++
        ((m :: ms).drop (if (s.link k).frags.isEmpty then 0 else 1)).filter (fun m => !sel m),
        (s.link k).frags, (s.link k).nextMsgId, ?_, fun hall _ => absurd ?_ hsel⟩
      · simp only [hsel, Bool.false_eq_true, ↓reduceIte, State.modLink_link_self, hq]
      · simp only [List.all_cons, Bool.and_eq_true] at hall
        exact hall.1

/-! ### A session closed -/

/-- In `t`, link `k` has no session, and is as in `s` in what follows; nothing waits to be sent on it where only messages of
the session did. -/
structure Closes (k : Nat) (s t : State) : Prop where
  cur : (t.link k).cur = none
  holdUntil : (t.link k).holdUntil = (s.link k).holdUntil
  holdK : (t.link k).holdK = (s.link k).holdK
  inbox : (t.link k).inbox = (s.link k).inbox
  quiet : (s.link k).outQ.all (fun m => (s.link k).cur.any (fun x => decide (m.session = some x.idx))) = true →
    ((s.link k).outQ = [] → (s.link k).frags = []) → (t.link k).outQ = [] ∧ (t.link k).frags = []
  keeps : Keeps (mask [.kindle]) s t

theorem State.closeSession_closes : Closes k s (s.closeSession k false) := by
  have hkeeps : Keeps (mask [.kindle]) s (s.closeSession k false) := State.closeSession_keeps
  cases hcur : (s.link k).cur with
  | none =>
    have hsame : s.closeSession k false = s := by simp [State.closeSession, Link.ses, hcur]
    rw [hsame]
    refine ⟨hcur, rfl, rfl, rfl, fun hall hbegun => ?_, Keeps.refl s⟩
    have hempty : (s.link k).outQ = [] := List.eq_nil_iff_forall_not_mem.mpr fun m hm => by
      simpa [hcur] using List.all_eq_true.mp hall m hm
    exact ⟨hempty, hbegun hempty⟩
  | some x =>
    obtain ⟨q, fs, n, hlink, hquiet⟩ := State.withdrawAll_link (s := s) (k := k) (fun m => decide (m.session = some x.idx))
    have hdropped : ((s.withdraw k x.idx).dropLattice k false).link k = { s.link k with outQ := q, frags := fs, nextMsgId := n } :=
      hlink
    have hclosed : ((s.closeSession k false).link k) = { s.link k with
        outQ := q, frags := fs, nextMsgId := n, cur := none, waitsCtx := false, roll := none, rekeySince := none
        wantRoll := false, wantRekey := false, toStage := [], stageAt := none, installAt := none, installWait := false
        casc := [], lateDone := none, peerSilent := false } := by
      simp [State.closeSession, Link.ses, hcur, Link.setSes, hdropped]
    refine ⟨?_, ?_, ?_, ?_, fun hall hbegun => ?_, hkeeps⟩
    all_goals rw [hclosed]
    exact hquiet (by simpa [hcur] using hall) hbegun

/-! ### A session fails -/

/-- The ABORT and the hold-off that end a session (R255, R284). -/
def State.refuses (s : State) (k : Nat) (x : Session) (r : Nat) : State :=
  ((s.closeSession k false).sendAbort k x r).holdoff k false

theorem State.failSession_of_cur (h : (s.link k).cur = some x) : s.failSession k false r = s.refuses k x r := by
  simp only [State.failSession, Link.ses, h]
  rfl

/-- What an ABORT reports before it is queued. -/
def State.abortTold (s : State) (k r : Nat) : State :=
  onlyIf (decide (r = 3)) (fun s => s.kdlEvent F.kdlEvtTraceMismatch k r)
    (onlyIf (decide (r = 4)) (fun s => s.kdlEvent F.kdlEvtUntrusted k r) s)

theorem State.sendAbort_eq : s.sendAbort k x r = (s.abortTold k r).queueMsg k none (x.abort r) := rfl

theorem State.abortTold_keeps : Keeps (mask [.rep]) s (s.abortTold k r) :=
  Keeps.onlyIf (fun _ => State.kdlEvent_keeps) (Keeps.onlyIf (fun _ => State.kdlEvent_keeps) (Keeps.refl s))

theorem State.abortTold_link (j : Nat) : (s.abortTold k r).link j = s.link j := by
  rw [State.link, State.link, State.abortTold_keeps.frame .kindle (by decide)]

/-- Queueing a message leaves all of a link but its queue and what is being sent. -/
theorem State.queueMsg_link (ses : Option Nat) (bytes : List Byte) : ∃ fs n r, (s.queueMsg k ses bytes).link k =
    { s.link k with outQ := (s.link k).outQ ++ [{ session := ses, bytes := bytes }], frags := fs, txFrom := n, lastReason := r } := by
  obtain ⟨fs, n, r, hlink⟩ := (OnlySends.pump (k := k)
    (s.modLink k (fun l => { l with outQ := l.outQ ++ [{ session := ses, bytes := bytes }] }))).link
  exact ⟨fs, n, r, by rw [State.queueMsg, hlink, State.modLink_link_self]⟩

theorem State.sendAbort_link : ∃ q fs n a, (s.sendAbort k x r).link k =
    { s.link k with outQ := q, frags := fs, txFrom := n, lastReason := a } := by
  obtain ⟨fs, n, a, hlink⟩ := State.queueMsg_link (s := s.abortTold k r) (k := k) none (x.abort r)
  rw [State.abortTold_link] at hlink
  exact ⟨_, fs, n, a, hlink⟩

/-- The link of a refused session holds off, and keeps its inbox. -/
theorem State.refuses_link : ((s.refuses k x r).link k).cur = none ∧
    ((s.refuses k x r).link k).holdUntil = some (s.tick + s.holdoffTicks (s.link k).holdK) ∧
    ((s.refuses k x r).link k).inbox = (s.link k).inbox := by
  have hcloses : Closes k s (s.closeSession k false) := State.closeSession_closes
  obtain ⟨q, fs, n, a, habort⟩ := State.sendAbort_link (s := s.closeSession k false) (k := k) (x := x) (r := r)
  have hkeeps : Keeps (mask [.rep, .ports, .kindle, .out]) s ((s.closeSession k false).sendAbort k x r) :=
    State.sendAbort_keeps.step (by rfl) (hcloses.keeps.mono (by rfl))
  have hlink : (s.refuses k x r).link k = { ((s.closeSession k false).sendAbort k x r).link k with
      holdUntil := some (s.tick + s.holdoffTicks (s.link k).holdK), holdK := (s.link k).holdK + 1 } := by
    rw [State.refuses, State.holdoff, State.modLink_link_self, hkeeps.frame .tick (by decide),
      State.regsBut_holdoffTicks (hkeeps.regsBut (by simp)), habort, hcloses.holdK]
    rfl
  rw [hlink, habort]
  exact ⟨hcloses.cur, rfl, hcloses.inbox⟩

/-- A refused session has failed. -/
theorem State.refuses_fails (hr : r < 256) : s.fails (s.refuses k x r) k r := by
  obtain ⟨hcur, hhold, -⟩ := State.refuses_link (s := s) (k := k) (x := x) (r := r)
  refine ⟨hcur, hhold, fun hsends hbegun hall => ?_⟩
  have hcloses : Closes k s (s.closeSession k false) := State.closeSession_closes
  obtain ⟨hqueue, hfrags⟩ := hcloses.quiet hall hbegun
  obtain ⟨hlength, htype, hreason⟩ := x.abort_bytes hr
  have htold : Keeps (mask [.rep, .kindle]) s ((s.closeSession k false).abortTold k r) :=
    State.abortTold_keeps.step (by rfl) (hcloses.keeps.mono (by rfl))
  have hmay : ((s.closeSession k false).abortTold k r).linkSends k = true := by
    rw [← hsends]
    exact State.regsBut_linkSends (htold.regsBut (by simp)) (by rw [State.abortTold_link, hcloses.holdUntil])
  obtain ⟨hgiven, htells⟩ := State.queueMsg_abort (ses := none) hmay (by rw [State.abortTold_link, hqueue])
    (by rw [State.abortTold_link, hfrags]) htype (by rw [hlength]; rfl)
  rw [State.refuses, State.holdoff, State.modLink_link_self, State.modLink_evt, State.sendAbort_eq]
  exact ⟨hgiven.trans hreason, htells⟩

/-! ### Failure once the command has ended, and before the inbox changed -/

theorem State.fails_closed (h : s.fails t k r) : s.fails t.closed k r := by
  simp only [State.fails, State.closed_link] at h ⊢
  obtain ⟨hcur, hhold, hleaves⟩ := h
  refine ⟨hcur, hhold, fun hsends hbegun hall => ?_⟩
  rw [State.closed_evt _ _ _ (by decide)]
  exact hleaves hsends hbegun hall

end Sys2Proof.Machine
end

section
/-! SUPPORT. A handshake message is taken from the inbox of a link (R239, R255), and what each does on a link whose only session is
the current one. -/

namespace Sys2Proof.Machine

open Sys2Proof

variable {s u : State} {k r : Nat} {x : Session} {m : List Byte} {rest : List (List Byte)}

/-! ### The inbox -/

/-- The state with the messages `rest` left in the inbox of link `k`. -/
def State.taken (s : State) (k : Nat) (rest : List (List Byte)) : State := s.modLink k (fun l => { l with inbox := rest })

theorem State.taken_link : (s.taken k rest).link k = { s.link k with inbox := rest } := State.modLink_link_self ..

theorem State.taken_regsBut : s.regsBut (s.taken k rest) [] := s.modLink_regsBut k _

theorem State.taken_helloCheck : (s.taken k rest).helloCheck k m = s.helloCheck k m := rfl

theorem State.taken_linkSends : (s.taken k rest).linkSends k = s.linkSends k :=
  State.regsBut_linkSends State.taken_regsBut (by rw [State.taken_link])

/-- What fails once its message is taken has failed. -/
theorem State.fails_of_taken (h : (s.taken k rest).fails u k r) : s.fails u k r := by
  simp only [State.fails, State.taken_linkSends, State.regsBut_holdoffTicks State.taken_regsBut, State.taken_link] at h
  exact h

/-- The oldest message, of the type that a command handles, is done with. -/
theorem State.takeMsg_of_done {f : State → List Byte → State × Bool} (hin : (s.link k).inbox = m :: rest)
    (hruns : s.kdlRuns = true) (hdone : f (s.taken k rest) m = (u, true)) : s.takeMsg k (byteAt m 0) f = u := by
  simp only [State.taken] at hdone
  simp [State.takeMsg, hin, hruns, hdone]

/-- A message with the id of the current session names it (R239). -/
theorem Link.names_cur {l : Link} (hcur : l.cur = some x) (hid : slice x.id 0 8 = slice m 8 8) : l.names m = some false := by
  simp [Link.names, hcur, hid]

theorem State.takeSesMsg_of_done {f : State → Bool → Session → List Byte → State × Bool} (hin : (s.link k).inbox = m :: rest)
    (hruns : s.kdlRuns = true) (hcur : (s.link k).cur = some x) (hid : slice x.id 0 8 = slice m 8 8)
    (hdone : f (s.taken k rest) false x m = (u, true)) : s.takeSesMsg k (byteAt m 0) f = u := by
  have hlink : ((s.taken k rest).link k).cur = some x := by rw [State.taken_link]; exact hcur
  refine State.takeMsg_of_done hin hruns ?_
  rw [Link.names_cur hlink hid]
  simp only [Link.ses, Bool.false_eq_true, ↓reduceIte, hlink, hdone]

/-! ### What a message leaves of the inbox and of failure -/

/-- A session that fails on a message leaves the inbox without it. -/
theorem State.taken_refuses (hr : r < 256) : (((s.taken k rest).refuses k x r).link k).inbox = rest ∧
    s.fails ((s.taken k rest).refuses k x r) k r := by
  obtain ⟨-, -, hin⟩ := State.refuses_link (s := s.taken k rest) (k := k) (x := x) (r := r)
  exact ⟨hin.trans (by rw [State.taken_link]), State.fails_of_taken (State.refuses_fails hr)⟩

theorem State.helloCheck_lt (h : s.helloCheck k m = .fail r) : r < 256 := by
  have hreason : r ∈ [2, 12, 11, 3] := by
    simp only [State.helloCheck] at h
    grind
  fin_cases hreason <;> decide

/-! ### ANSWER -/

theorem State.onAnswer_of_bad (hst : x.st = .offered) (hops : x.ops = []) (hcur : (s.link k).cur = some x)
    (hbad : (sizeOk m 3304 && Config.kemKeyOk (slice m 168 1568)) = false) : s.onAnswer k false x m = s.refuses k x 7 := by
  simp [State.onAnswer, hst, hops, hbad, State.failSession_of_cur hcur]

theorem State.onAnswer_of_fail (hst : x.st = .offered) (hops : x.ops = []) (hcur : (s.link k).cur = some x)
    (hgood : (sizeOk m 3304 && Config.kemKeyOk (slice m 168 1568)) = true) (hcheck : s.helloCheck k m = .fail r) :
    s.onAnswer k false x m = s.refuses k x r := by
  simp [State.onAnswer, hst, hops, hgood, hcheck, State.failSession_of_cur hcur]

/-- A session that takes an ANSWER goes on to its lattice operations (R255). -/
def Session.answered (x : Session) (m : List Byte) : Session :=
  { x with answer := m, seqIn := beAt m 24 4 + 1, peerEpoch := beAt m 16 4, epoch := max x.ownEpoch (beAt m 16 4)
           ops := [.decaps, .encaps, .sign], goal := some .sendProofI }

theorem State.onAnswer_of_good (hst : x.st = .offered) (hops : x.ops = []) (hcur : (s.link k).cur = some x)
    (hgood : (sizeOk m 3304 && Config.kemKeyOk (slice m 168 1568)) = true) (hcheck : ∀ r, s.helloCheck k m ≠ .fail r) :
    (s.onAnswer k false x m).link k = { s.link k with cur := some (x.answered m) } := by
  have htakes : s.onAnswer k false x m = (s.modSes k false (fun x => { x with
      answer := m, seqIn := beAt m 24 4 + 1, peerEpoch := beAt m 16 4, epoch := max x.ownEpoch (beAt m 16 4) })).lattice k false
      [.decaps, .encaps, .sign] .sendProofI := by
    simp only [State.onAnswer, hst, hops, hgood, ne_eq, not_true_eq_false, List.isEmpty_nil, Bool.not_true, Bool.false_eq_true,
      or_self, ↓reduceIte]
  rw [htakes, State.lattice_link, State.modSes_link, hcur]
  rfl

theorem answer_taken {k : LinkNo} (hin : (s.link k).inbox = m :: rest) (hruns : s.kdlRuns = true) (hcur : (s.link k).cur = some x)
    (hid : slice x.id 0 8 = slice m 8 8) (hops : x.ops = []) (htype : byteAt m 0 = 2) (hst : x.st = .offered) :
    Runs (.answer k) s (fun t => (t.link k).inbox = rest ∧ t.assocs = s.assocs ∧
      ((sizeOk m 3304 && Config.kemKeyOk (slice m 168 1568)) = false → s.fails t k 7) ∧
      ((sizeOk m 3304 && Config.kemKeyOk (slice m 168 1568)) = true → s.helloCheck k m = .pass →
        (t.link k).cur = some (x.answered m))) := by
  have htaken : ((s.taken k rest).link k).cur = some x := by rw [State.taken_link]; exact hcur
  have hexec : exec (.answer k) s = done ((s.taken k rest).onAnswer k false x m) :=
    congrArg done (htype ▸ State.takeSesMsg_of_done hin hruns hcur hid rfl)
  have hassocs : ((s.taken k rest).onAnswer k false x m).closed.assocs = s.assocs :=
    (execAnswer_keeps _ hexec).frame .assocs (by decide)
  refine runs_of_done hexec ?_
  rw [hassocs, State.closed_link]
  by_cases hgood : (sizeOk m 3304 && Config.kemKeyOk (slice m 168 1568)) = true
  case neg =>
    have hbad := Bool.eq_false_iff.mpr hgood
    obtain ⟨hrest, hfails⟩ := State.taken_refuses (s := s) (k := k) (rest := rest) (x := x) (r := 7) (by decide)
    rw [State.onAnswer_of_bad hst hops htaken hbad]
    exact ⟨hrest, rfl, fun _ => State.fails_closed hfails, fun h => absurd h hgood⟩
  case pos =>
    refine ⟨?_, rfl, fun h => absurd (hgood.symm.trans h) (by decide), fun _ hpass => ?_⟩
    · by_cases hfail : ∃ r, (s.taken k rest).helloCheck k m = .fail r
      · obtain ⟨r, hr⟩ := hfail
        rw [State.onAnswer_of_fail hst hops htaken hgood hr]
        exact (State.taken_refuses (State.helloCheck_lt hr)).1
      · rw [State.onAnswer_of_good hst hops htaken hgood (fun r hr => hfail ⟨r, hr⟩), State.taken_link]
    · have hpasses : ∀ r, (s.taken k rest).helloCheck k m ≠ .fail r := fun r hr => by
        rw [State.taken_helloCheck, hpass] at hr
        exact Check.noConfusion hr
      rw [State.onAnswer_of_good hst hops htaken hgood hpasses]

/-! ### PROOF, at the responder -/

/-- A session that takes the initiator's PROOF goes on to its lattice operations (R255). -/
def Session.proved (x : Session) (m : List Byte) : Session :=
  { x with proofI := m, seqIn := beAt m 24 4 + 1, ops := [.verify, .decaps, .sign], goal := some .sendProofR }

theorem State.onProof_of_bad (hst : x.st = .answered) (hrole : x.initiator = false) (hops : x.ops = [])
    (hcur : (s.link k).cur = some x) (hbad : ¬ (sizeOk m 6235 = true ∧ beAt m 32 2 = 1568 ∧ beAt m 34 2 = 0)) :
    s.onProof k false x m = (s.refuses k x 7, true) := by
  have hcheck : (!(sizeOk m 6235 && decide (beAt m 32 2 = 1568) && decide (beAt m 34 2 = 0))) = true := by
    rw [Bool.not_eq_true', Bool.eq_false_iff]
    intro hgood
    simp only [Bool.and_eq_true, decide_eq_true_eq] at hgood
    obtain ⟨⟨hsize, hfirst⟩, hsecond⟩ := hgood
    exact hbad ⟨hsize, hfirst, hsecond⟩
  rw [State.onProof, if_neg (by simp [hops]), if_pos (by simp [hst, hrole]), if_pos hcheck, State.failSession_of_cur hcur]

theorem State.onProof_of_good (hst : x.st = .answered) (hrole : x.initiator = false) (hops : x.ops = [])
    (hcur : (s.link k).cur = some x) (hgood : sizeOk m 6235 = true ∧ beAt m 32 2 = 1568 ∧ beAt m 34 2 = 0) :
    ∃ u, s.onProof k false x m = (u, true) ∧ u.link k = { s.link k with cur := some (x.proved m) } := by
  obtain ⟨hsize, hfirst, hsecond⟩ := hgood
  refine ⟨(s.modSes k false (fun x => { x with proofI := m, seqIn := beAt m 24 4 + 1 })).lattice k false
    [.verify, .decaps, .sign] .sendProofR, ?_, ?_⟩
  · rw [State.onProof, if_neg (by simp [hops]), if_pos (by simp [hst, hrole]), if_neg (by simp [hsize, hfirst, hsecond])]
  · rw [State.lattice_link, State.modSes_link, hcur]
    rfl

theorem proof_taken {k : LinkNo} (hin : (s.link k).inbox = m :: rest) (hruns : s.kdlRuns = true) (hcur : (s.link k).cur = some x)
    (hid : slice x.id 0 8 = slice m 8 8) (hops : x.ops = []) (htype : byteAt m 0 = 3) (hst : x.st = .answered)
    (hrole : x.initiator = false) :
    Runs (.proof k) s (fun t => (t.link k).inbox = rest ∧ t.assocs = s.assocs ∧
      (if sizeOk m 6235 = true ∧ beAt m 32 2 = 1568 ∧ beAt m 34 2 = 0 then (t.link k).cur = some (x.proved m)
      else s.fails t k 7)) := by
  have htaken : ((s.taken k rest).link k).cur = some x := by rw [State.taken_link]; exact hcur
  have hexec {u : State} (h : (s.taken k rest).onProof k false x m = (u, true)) : exec (.proof k) s = done u :=
    congrArg done (htype ▸ State.takeSesMsg_of_done hin hruns hcur hid h)
  by_cases hgood : sizeOk m 6235 = true ∧ beAt m 32 2 = 1568 ∧ beAt m 34 2 = 0
  case neg =>
    have hruns := hexec (State.onProof_of_bad hst hrole hops htaken hgood)
    obtain ⟨hrest, hfails⟩ := State.taken_refuses (s := s) (k := k) (rest := rest) (x := x) (r := 7) (by decide)
    refine runs_of_done hruns ⟨by rw [State.closed_link, hrest], (execProof_keeps _ hruns).frame .assocs (by decide), ?_⟩
    rw [if_neg hgood]
    exact State.fails_closed hfails
  case pos =>
    obtain ⟨u, hu, hlink⟩ := State.onProof_of_good hst hrole hops htaken hgood
    refine runs_of_done (hexec hu) ⟨?_, (execProof_keeps _ (hexec hu)).frame .assocs (by decide), ?_⟩
    · rw [State.closed_link, hlink, State.taken_link]
    · rw [if_pos hgood, State.closed_link, hlink]

/-! ### CONFIRM -/

/-- A message whose acknowledgement was held leaves all else of its link. -/
theorem State.dropAck_link : ∃ h d, (s.dropAck k).link k = { s.link k with ackHold := h, lastDone := d } := by
  rw [State.dropAck, State.modLink_link_self]
  split
  · exact ⟨_, _, rfl⟩
  · exact ⟨_, _, rfl⟩

theorem State.fails_dropAck {t : State} (h : s.fails t k r) : s.fails (t.dropAck k) k r := by
  obtain ⟨hold, last, hlink⟩ := State.dropAck_link (s := t) (k := k)
  have hevt (f : Fld) : (t.dropAck k).evt f = t.evt f := State.modLink_evt ..
  simp only [State.fails, hlink, hevt] at h ⊢
  exact h

/-- A CONFIRM handled, with the acknowledgement of one that fails its check dropped (R259). -/
theorem exec_confirm_of_done {k : LinkNo} (hin : (s.link k).inbox = m :: rest) (hruns : s.kdlRuns = true)
    (hcur : (s.link k).cur = some x) (hid : slice x.id 0 8 = slice m 8 8) (htype : byteAt m 0 = 4)
    (hdone : (s.taken k rest).onConfirm k false x m = (u, true)) : exec (.confirm k) s = done (match (u.link k).cur with
      | some y => if y.peerConfirmed then u else u.dropAck k
      | none => u.dropAck k) := by
  refine congrArg done (htype ▸ State.takeSesMsg_of_done hin hruns hcur hid ?_)
  simp only [hdone]
  rfl

theorem State.onConfirm_of_wrong (hst : x.st = .confirming) (hsize : sizeOk m 96 = true) (hcur : (s.link k).cur = some x)
    (htag : slice m 32 64 ≠ slice (x.confirmTag (!x.initiator)) 0 64) :
    s.onConfirm k false x m = (s.refuses k x 6, true) := by
  rw [State.onConfirm, if_neg (by simp [hst]), if_neg (by simp [hst]), if_neg (by simp [hsize]), if_pos htag,
    State.failSession_of_cur hcur]

theorem State.onConfirm_of_right (hst : x.st = .confirming) (hsize : sizeOk m 96 = true) (hcur : (s.link k).cur = some x)
    (htag : slice m 32 64 = slice (x.confirmTag (!x.initiator)) 0 64) :
    ∃ u, s.onConfirm k false x m = (u, true) ∧ u.link k = { s.link k with
      cur := some { x with peerConfirmed := true, seqIn := beAt m 24 4 + 1 }, installAt := some (s.tick + 1) } := by
  refine ⟨(s.modSes k false (fun x => { x with peerConfirmed := true, seqIn := beAt m 24 4 + 1 })).modLink k
    (fun l => { l with installAt := some (s.tick + 1) }), ?_, ?_⟩
  · rw [State.onConfirm, if_neg (by simp [hst]), if_neg (by simp [hst]), if_neg (by simp [hsize]), if_neg (not_not_intro htag)]
    rfl
  · rw [State.modLink_link_self, State.modSes_link, hcur]
    rfl

theorem confirm_taken {k : LinkNo} (hin : (s.link k).inbox = m :: rest) (hruns : s.kdlRuns = true) (hcur : (s.link k).cur = some x)
    (hid : slice x.id 0 8 = slice m 8 8) (htype : byteAt m 0 = 4) (hst : x.st = .confirming) (hsize : sizeOk m 96 = true) :
    Runs (.confirm k) s (fun t => (t.link k).inbox = rest ∧ t.assocs = s.assocs ∧
      (if slice m 32 64 = slice (x.confirmTag (!x.initiator)) 0 64 then
        (t.link k).cur = some { x with peerConfirmed := true, seqIn := beAt m 24 4 + 1 } ∧
          (t.link k).installAt = some (s.tick + 1)
      else s.fails t k 6)) := by
  have htaken : ((s.taken k rest).link k).cur = some x := by rw [State.taken_link]; exact hcur
  by_cases htag : slice m 32 64 = slice (x.confirmTag (!x.initiator)) 0 64
  case neg =>
    have hexec := exec_confirm_of_done hin hruns hcur hid htype (State.onConfirm_of_wrong hst hsize htaken htag)
    obtain ⟨hrest, hfails⟩ := State.taken_refuses (s := s) (k := k) (rest := rest) (x := x) (r := 6) (by decide)
    rw [hfails.1] at hexec
    obtain ⟨hold, last, hlink⟩ := State.dropAck_link (s := (s.taken k rest).refuses k x 6) (k := k)
    refine runs_of_done hexec ⟨?_, (execConfirm_keeps _ hexec).frame .assocs (by decide), ?_⟩
    · rw [State.closed_link, hlink, hrest]
    · rw [if_neg htag]
      exact State.fails_closed (State.fails_dropAck hfails)
  case pos =>
    obtain ⟨u, hu, hlink⟩ := State.onConfirm_of_right hst hsize htaken htag
    have hexec : exec (.confirm k) s = done u := by
      rw [exec_confirm_of_done hin hruns hcur hid htype hu, hlink]
      rfl
    refine runs_of_done hexec ⟨?_, (execConfirm_keeps _ hexec).frame .assocs (by decide), ?_⟩
    · rw [State.closed_link, hlink, State.taken_link]
    · rw [if_pos htag, State.closed_link, hlink]
      exact ⟨rfl, rfl⟩

end Sys2Proof.Machine
end

section
/-! SUPPORT. An OFFER on a link that is closed (R231, R255): the identity accepted, and the session that answers it. -/

namespace Sys2Proof.Machine

open Sys2Proof

variable {s u : State} {k r : Nat} {m : List Byte} {rest : List (List Byte)}

/-! ### The identity of a peer -/

/-- What looking for a slot that vouches for `hash` has come to: only slots have been used, and once one has granted a use the
link has the hash. -/
def State.vouched (s : State) (k : Nat) (hash : List Byte) : State × Check → Prop
  | (t, .fail _) => Keeps (mask [.sched, .rep, .vault]) s t
  | (t, .pass) => ∃ w, Keeps (mask [.sched, .rep, .vault]) s w ∧ t = w.modLink k (fun l => { l with peerHash := hash })
  | (_, .wait) => True

theorem State.vouched_acceptIdentity (block hash : List Byte) : s.vouched k hash (s.acceptIdentity k block hash) := by
  have hfirst : s.vouched k hash (s, .fail 4) := Keeps.refl s
  unfold State.acceptIdentity
  generalize s.trustFor k block hash = slots
  generalize (s, Check.fail 4) = q at hfirst
  induction slots generalizing q with
  | nil => exact hfirst
  | cons v slots ih =>
    refine ih _ ?_
    obtain ⟨t, c⟩ := q
    cases c with
    | pass => exact hfirst
    | wait => trivial
    | fail _ =>
      have huse : Keeps (mask [.sched, .rep, .vault]) s (t.takeUse v).1 := (State.takeUse_keeps (s := t)).fst.step (by rfl) hfirst
      dsimp only
      split
      · next e => exact ⟨_, by rwa [e] at huse, rfl⟩
      · trivial
      · next e => rwa [e] at huse

/-- An identity that is accepted gives the link its hash, and leaves the other links and the registers. -/
theorem State.acceptIdentity_of_pass {block hash : List Byte} (h : s.acceptIdentity k block hash = (u, .pass)) :
    s.regsBut u [] ∧ u.link k = { s.link k with peerHash := hash } ∧ u.contexts ⊆ s.contexts := by
  have hvouched := State.vouched_acceptIdentity (s := s) (k := k) block hash
  rw [h] at hvouched
  obtain ⟨w, hkeeps, rfl⟩ := hvouched
  have hkindle : w.kindle = s.kindle := hkeeps.frame .kindle (by decide)
  refine ⟨State.regsBut_trans (hkeeps.regsBut (by simp)) (w.modLink_regsBut k _), ?_, ?_⟩
  · rw [State.modLink_link_self, State.link, State.link, hkindle]
  · have hsub := w.modLink_contexts (k := k) (f := fun l => { l with peerHash := hash }) rfl
    rwa [State.contexts_eq, State.contexts_eq, hkindle, ← State.contexts_eq, ← State.contexts_eq] at hsub

/-! ### OFFER -/

/-- The session that an OFFER refused is answered for. -/
def offeredSession (m : List Byte) : Session := { idx := 0, st := .answered, initiator := false, id := slice m 8 8 }

theorem State.takeOffer_of_bad (hbad : offerOk m = false) :
    s.takeOffer k false m = (s.refuses k (offeredSession m) 7, true) := by
  rw [State.takeOffer, if_pos (by rw [hbad]; rfl)]
  rfl

theorem State.takeOffer_of_fail (hgood : offerOk m = true) (hcheck : s.helloCheck k m = .fail r) :
    s.takeOffer k false m = (s.refuses k (offeredSession m) r, true) := by
  simp only [State.takeOffer, hgood, hcheck, Bool.not_true, Bool.false_eq_true, ↓reduceIte]
  rfl

/-- A session opens as responder, and goes on to its lattice operations. -/
theorem State.takeOffer_of_pass (hgood : offerOk m = true) (hcheck : s.helloCheck k m = .pass) (hcur : (s.link k).cur = none)
    (hid : s.acceptIdentity k (slice m 1736 2664) (slice m 104 64) = (u, .pass)) (hctx : s.freeContext.isSome = true) :
    ∃ t, s.takeOffer k false m = (t, true) ∧ (t.link k).inbox = (s.link k).inbox ∧ (t.link k).peerHash = slice m 104 64 ∧
      (t.link k).cur.map (fun x => (x.st, x.initiator, x.offer, x.ops, x.goal)) =
        some (.answered, false, m, [.keygen, .encaps], some .sendAnswer) := by
  obtain ⟨hregs, hlink, hsub⟩ := State.acceptIdentity_of_pass hid
  obtain ⟨c, hc⟩ := Option.isSome_iff_exists.mp (State.freeContext_isSome hregs hsub hctx)
  have hfor : u.contextFor k false = some c := by simp [State.contextFor, Link.ses, hlink, hcur, hc]
  refine ⟨_, by simp only [State.takeOffer, hgood, hcheck, hid, hfor, Bool.not_true, Bool.false_eq_true, ↓reduceIte]; rfl, ?_⟩
  rw [State.lattice_link, State.modSes_link, State.openSession_link, hlink]
  exact ⟨rfl, rfl, rfl⟩

/-- The OFFER of a link that has no session and does not hold off is done with. -/
theorem offer_takeMsg (hin : (s.link k).inbox = m :: rest) (hruns : s.kdlRuns = true) (htype : byteAt m 0 = 1)
    (hcur : (s.link k).cur = none) (hhold : (s.link k).holdUntil = none)
    (hdone : (s.taken k rest).takeOffer k false m = (u, true)) : s.takeMsg k 1 (fun s m => s.onOffer k m) = u := by
  refine htype ▸ State.takeMsg_of_done hin hruns ?_
  simp only [State.onOffer, State.taken_link, Link.ses, hcur, hhold, hdone, Option.isSome_none, Bool.false_eq_true, ↓reduceIte]

theorem offer_taken {k : LinkNo} (hin : (s.link k).inbox = m :: rest) (hruns : s.kdlRuns = true) (htype : byteAt m 0 = 1)
    (hcur : (s.link k).cur = none) (hhold : (s.link k).holdUntil = none) :
    Runs (.offer k) s (fun t =>
      (offerOk m = false → (t.link k).inbox = rest ∧ s.fails t k 7) ∧
      (∀ r, offerOk m = true → s.helloCheck k m = .fail r → s.fails t k r) ∧
      (∀ u, offerOk m = true → s.helloCheck k m = .pass →
        (s.taken k rest).acceptIdentity k (slice m 1736 2664) (slice m 104 64) = (u, .pass) → s.freeContext.isSome = true →
        (t.link k).inbox = rest ∧ (t.link k).peerHash = slice m 104 64 ∧
        (t.link k).cur.map (fun x => (x.st, x.initiator, x.offer, x.ops, x.goal)) =
          some (.answered, false, m, [.keygen, .encaps], some .sendAnswer))) := by
  have htakes {u : State} := offer_takeMsg (u := u) hin hruns htype hcur hhold
  refine runs_of_done rfl ⟨fun hbad => ?_, fun r hgood hcheck => ?_, fun u hgood hcheck hid hctx => ?_⟩
  · obtain ⟨hrest, hfails⟩ := State.taken_refuses (s := s) (k := k) (rest := rest) (x := offeredSession m) (r := 7) (by decide)
    rw [htakes (State.takeOffer_of_bad hbad), State.closed_link]
    exact ⟨hrest, State.fails_closed hfails⟩
  · rw [htakes (State.takeOffer_of_fail hgood hcheck)]
    exact State.fails_closed (State.taken_refuses (State.helloCheck_lt hcheck)).2
  · obtain ⟨t, ht, hrest, hopened⟩ := State.takeOffer_of_pass (s := s.taken k rest) hgood hcheck
      (by rw [State.taken_link]; exact hcur) hid (State.freeContext_isSome State.taken_regsBut (s.modLink_contexts rfl) hctx)
    rw [htakes ht, State.closed_link, hrest, State.taken_link]
    exact ⟨rfl, hopened⟩

end Sys2Proof.Machine
end

section
/-! SUPPORT. Lattice operations of a session that is the only one of its link (R262): the key pair, and the OFFER. -/

namespace Sys2Proof.Machine

open Sys2Proof

variable {s t : State} {k : Nat} {x : Session}

/-! ### A key pair is made -/

/-- The session with the key pair that `seed` gives (R255). -/
def Session.keyed (x : Session) (seed : List Byte) : Session :=
  { x with ek := (Config.kemKeys seed).1, dk := (Config.kemKeys seed).2 }

/-- The session of a link draws its key pair. -/
def State.madeKeys (s : State) (k : Nat) : State := (s.draw 64).1.modSes k false (fun x => x.keyed (s.draw 64).2)

/-- The session of a link goes on with the operations `ops`. -/
def State.nextOps (s : State) (k : Nat) (ops : List LatOp) : State :=
  (s.madeKeys k).modSes k false (fun x => { x with ops := ops, goal := if ops.isEmpty then none else x.goal })

theorem State.latDeliver_keygen : s.latDeliver k false x .keygen = (s.madeKeys k, true) := rfl

theorem State.madeKeys_link (hcur : (s.link k).cur = some x) :
    (s.madeKeys k).link k = { s.link k with cur := some (x.keyed (s.draw 64).2) } := by
  rw [State.madeKeys, State.modSes_link, State.draw_link, hcur]
  rfl

theorem State.nextOps_link (hcur : (s.link k).cur = some x) (ops : List LatOp) : (s.nextOps k ops).link k =
    { s.link k with cur := some { x.keyed (s.draw 64).2 with ops := ops, goal := if ops.isEmpty then none else x.goal } } := by
  rw [State.nextOps, State.modSes_link, State.madeKeys_link hcur]
  rfl

theorem State.nextOps_keeps (ops : List LatOp) : Keeps (mask [.vault, .fresh, .kindle]) s (s.nextOps k ops) :=
  State.modSes_keeps.step (by rfl) (State.modSes_keeps.step (by rfl) ((State.draw_keeps (s := s) (n := 64)).fst.mono (by rfl)))

theorem State.nextOps_drbg (ops : List LatOp) : (s.nextOps k ops).vault.drbg = (s.draw 64).1.vault.drbg := rfl

/-- A key pair is made, and more is to come. -/
theorem State.latDone_of_keygen {op : LatOp} {rest : List LatOp} (hcur : (s.link k).cur = some x)
    (hops : x.ops = .keygen :: op :: rest) (hunit : .session k false ∈ s.kindle.lattice.take 4) :
    s.latDone (.session k false) = s.nextOps k (op :: rest) := by
  have hunit' : (s.kindle.lattice.take 4).contains (.session k false) = true := by simpa using hunit
  have hidx : (x.keyed (s.draw 64).2).idx = x.idx := rfl
  simp only [State.latDone, hunit', Link.ses, hcur, hops, State.latDeliver_keygen, State.parNow, State.madeKeys_link hcur, hidx,
    Bool.false_and, Bool.not_true, Bool.false_eq_true, ↓reduceIte, ne_eq, not_true_eq_false]
  rfl

theorem latticeOpDone_keygen {k : LinkNo} {op : LatOp} {rest : List LatOp} (hcur : (s.link k).cur = some x)
    (hops : x.ops = .keygen :: op :: rest) (hunit : .session k.val false ∈ s.kindle.lattice.take 4) :
    Runs (.latticeOpDone (some k) false) s (fun t => s.regsBut t [] ∧ t.vault.drbg = (s.draw 64).1.vault.drbg ∧
      (t.link k).cur = some { x with ops := op :: rest
                                     ek := (Config.kemKeys (s.draw 64).2).1
                                     dk := (Config.kemKeys (s.draw 64).2).2 }) := by
  refine runs_of_done (congrArg done (State.latDone_of_keygen hcur hops hunit)) ⟨State.closed_regsBut ?_, ?_, ?_⟩
  · exact (State.nextOps_keeps _).regsBut (by simp)
  · rw [State.closed_vault, State.nextOps_drbg]
  · rw [State.closed_link, State.nextOps_link hcur]
    rfl

/-! ### The last operation before the OFFER -/

/-- The lattice queue without the session of a link. -/
def State.leavesLattice (s : State) (k : Nat) : State :=
  { s with kindle := { s.kindle with lattice := s.kindle.lattice.filter (fun v => decide (v ≠ .session k false)) } }

theorem State.leavesLattice_keeps : Keeps (mask [.kindle]) s (s.leavesLattice k) := Keeps.set_kindle

theorem State.not_mem_leavesLattice : .session k false ∉ (s.leavesLattice k).kindle.lattice := by
  simp [State.leavesLattice]

/-- What a link proposes is decided by its associations, its port and its high mark (R252). -/
theorem State.proposal_congr (hassocs : t.assocs = s.assocs) (hregs : s.regsBut t [])
    (hmark : (t.link k).highMark = (s.link k).highMark) : t.proposal k = s.proposal k := by
  have hasn (a : Nat) : t.asn a = s.asn a := by rw [State.asn, State.asn, hassocs]
  have hlist : t.linkAssocs k = s.linkAssocs k := by
    rw [State.linkAssocs, State.linkAssocs, hassocs, State.regsBut_linkPort hregs]
  simp only [State.proposal, hasn, hlist, hmark]

/-- A session about to send the handshake message it has built. -/
def Session.sending (x : Session) (st : SesState) (now : Nat) : Session := { x with st := st, since := now }

/-- A session that has sent a message: its sequence rises, and the KEEPALIVE interval begins again. -/
def State.builtSent (s : State) (k : Nat) (st : SesState) : State :=
  (s.modSes k false (fun x => x.sending st s.tick)).modSes k false (fun x => { x with seqOut := x.seqOut + 1, lastSent := s.tick })

theorem State.sendBuilt_of_cur (hcur : (s.link k).cur = some x) (get : Session → List Byte) (st : SesState) :
    s.sendBuilt k false get st = (s.builtSent k st).queueMsg k (some x.idx) (get (x.sending st s.tick)) := by
  have hsending : ((s.modSes k false (fun x => x.sending st s.tick)).link k).cur = some (x.sending st s.tick) := by
    rw [State.modSes_link, hcur]
    rfl
  show (s.modSes k false (fun x => x.sending st s.tick)).sessionSends k false get = _
  rw [State.sessionSends]
  simp only [Link.ses, Bool.false_eq_true, ↓reduceIte, hsending]
  rfl

/-- Of a link whose session sends what it has built, the session, the queue and what is being sent change. -/
theorem State.sendBuilt_link (hcur : (s.link k).cur = some x) (get : Session → List Byte) (st : SesState) :
    ∃ fs n r, (s.sendBuilt k false get st).link k = { s.link k with
      cur := some { x.sending st s.tick with seqOut := x.seqOut + 1, lastSent := s.tick }
      outQ := (s.link k).outQ ++ [{ session := some x.idx, bytes := get (x.sending st s.tick) }]
      frags := fs, txFrom := n, lastReason := r } := by
  obtain ⟨fs, n, r, hlink⟩ := State.queueMsg_link (s := s.builtSent k st) (k := k) (some x.idx) (get (x.sending st s.tick))
  refine ⟨fs, n, r, ?_⟩
  rw [State.sendBuilt_of_cur hcur, hlink, State.builtSent, State.modSes_link, State.modSes_link, hcur]
  rfl

theorem State.sendBuilt_lattice (hcur : (s.link k).cur = some x) (get : Session → List Byte) (st : SesState) :
    (s.sendBuilt k false get st).kindle.lattice = s.kindle.lattice := by
  rw [State.sendBuilt_of_cur hcur, State.queueMsg, (OnlySends.pump _).lattice]
  rfl

/-! ### The OFFER is sent -/

/-- The session with the epoch it proposes, and its OFFER (R240, R252). -/
def Session.offerBuilt (x : Session) (e : Nat) (body : Session → List Byte) : Session :=
  { x with ownEpoch := e, offer := x.message 1 e false (body x) }

/-- The state in which a session has built its OFFER. -/
def State.builtOffer (s : State) (k : Nat) : State :=
  s.modSes k false (fun x => x.offerBuilt (s.proposal k) (fun x => s.helloBody k x s.identityBlock))

theorem State.builtOffer_link (hcur : (s.link k).cur = some x) : (s.builtOffer k).link k = { s.link k with
    cur := some (x.offerBuilt (s.proposal k) (fun x => s.helloBody k x s.identityBlock)) } := by
  rw [State.builtOffer, State.modSes_link, hcur]
  rfl

/-- The key pair of an OFFER is made: the session leaves the lattice queue and sends it. -/
theorem State.latDone_of_sendOffer (hcur : (s.link k).cur = some x) (hops : x.ops = [.keygen])
    (hgoal : x.goal = some .sendOffer) (hunit : .session k false ∈ s.kindle.lattice.take 4) :
    s.latDone (.session k false) =
      (((s.nextOps k []).leavesLattice k).builtOffer k).sendBuilt k false (fun x => x.offer) .offered := by
  have hunit' : (s.kindle.lattice.take 4).contains (.session k false) = true := by simpa using hunit
  have hidx : (x.keyed (s.draw 64).2).idx = x.idx := rfl
  simp only [State.latDone, hunit', Link.ses, hcur, hops, hgoal, State.latDeliver_keygen, State.parNow, State.madeKeys_link hcur,
    hidx, Bool.false_and, Bool.not_true, Bool.false_eq_true, ↓reduceIte, ne_eq, not_true_eq_false]
  rfl

theorem latticeOpDone_sendOffer {k : LinkNo} (hcur : (s.link k).cur = some x) (hops : x.ops = [.keygen])
    (hgoal : x.goal = some .sendOffer) (hunit : .session k.val false ∈ s.kindle.lattice.take 4) :
    Runs (.latticeOpDone (some k) false) s (fun t => s.regsBut t [] ∧ .session k.val false ∉ t.kindle.lattice ∧
      (t.link k).cur.map (fun y => (y.st, y.ops, y.ownEpoch, y.since, y.seqOut)) =
        some (.offered, [], s.proposal k, s.tick, x.seqOut + 1) ∧
      (t.link k).outQ.length = (s.link k).outQ.length + 1) := by
  have hleaves : Keeps (mask [.vault, .fresh, .kindle]) s ((s.nextOps k []).leavesLattice k) :=
    State.leavesLattice_keeps.step (by rfl) (State.nextOps_keeps [])
  have hnext : ((s.nextOps k []).leavesLattice k).link k =
      { s.link k with cur := some { x.keyed (s.draw 64).2 with ops := [], goal := none } } := State.nextOps_link hcur []
  have hproposal : ((s.nextOps k []).leavesLattice k).proposal k = s.proposal k :=
    State.proposal_congr (hleaves.frame .assocs (by decide)) (hleaves.regsBut (by simp)) (by rw [hnext])
  have htick : ((s.nextOps k []).leavesLattice k).tick = s.tick := hleaves.frame .tick (by decide)
  have hbuilt := State.builtOffer_link (congrArg Link.cur hnext)
  have hexec := congrArg done (State.latDone_of_sendOffer hcur hops hgoal hunit)
  obtain ⟨fs, n, r, hsent⟩ := State.sendBuilt_link (congrArg Link.cur hbuilt) (fun x => x.offer) .offered
  refine runs_of_done hexec ⟨State.closed_regsBut ?_, ?_, ?_⟩
  · refine Keeps.regsBut (l := [.vault, .fresh, .rep, .ports, .kindle, .out]) ?_ (by simp)
    exact State.sendBuilt_keeps.step (by rfl) (State.modSes_keeps.step (by rfl) (hleaves.mono (by rfl)))
  · rw [State.closed_kindle, State.sendBuilt_lattice (congrArg Link.cur hbuilt)]
    exact State.not_mem_leavesLattice
  · rw [State.closed_link, hsent, hbuilt, hnext, hproposal]
    refine ⟨?_, by simp⟩
    show some _ = some _
    rw [show (((s.nextOps k []).leavesLattice k).builtOffer k).tick = s.tick from htick]
    rfl

end Sys2Proof.Machine
end

section
/-! SUPPORT. The keys of a session on their way into its associations: staged when their time is up (R251, R257), and installed in
phase 0 (R259). -/

namespace Sys2Proof.Machine

open Sys2Proof

variable {s t : State} {k a e : Nat} {x : Session}

/-! ### An entry in KINDLING -/

/-- An entry in KINDLING holds what is written to it. -/
theorem Assoc.settled_of_kindling {y : Assoc} (h : y.state = .kindling) : y.settled = y := by
  rw [Assoc.settled, h]
  rfl

theorem State.modSes_asn (f : Session → Session) (j : Nat) : (s.modSes k false f).asn j = s.asn j := rfl

/-! ### Keys staged -/

/-- An entry with its key and salt staged in phase 0, not usable (R257). -/
def Assoc.staged (y : Assoc) (x : Session) : Assoc :=
  { y with ph0 := { y.ph0 with
      key := (workingKey x.secret y.peerIndex x.epoch).1, salt := (workingKey x.secret y.peerIndex x.epoch).2
      valid := false, initiator := x.initiator } }

/-- A session that has staged entry `a`. -/
def Session.noteStaged (x : Session) (a : Nat) : Session :=
  { x with staged := if x.staged.contains a then x.staged else x.staged ++ [a] }

theorem State.stageOne_of_kindling (hcur : (s.link k).cur = some x) (hstate : (s.asn a).state = .kindling) :
    s.stageOne k false a = (s.setAsn a ((s.asn a).staged x)).modSes k false (fun x => x.noteStaged a) := by
  simp only [State.stageOne, Link.ses, hcur, Bool.false_eq_true, ↓reduceIte]
  exact if_pos hstate

/-- The only key of a session is staged. -/
theorem State.stageKeys_of_one (hcur : (s.link k).cur = some x) (hone : x.toStage = [a]) (hstate : (s.asn a).state = .kindling) :
    s.stageKeys k false = (((s.setAsn a ((s.asn a).staged x)).modSes k false (fun x => x.noteStaged a)).modSes k false
      (fun x => { x with toStage := [], stageAt := none })).count .kdl 0 13 1 := by
  rw [← State.stageOne_of_kindling hcur hstate, State.stageKeys]
  simp only [Link.ses, hcur, hone, Bool.false_eq_true, ↓reduceIte]
  rfl

theorem State.stageKeys_link (hcur : (s.link k).cur = some x) (hone : x.toStage = [a]) (hstate : (s.asn a).state = .kindling) :
    (s.stageKeys k false).link k = { s.link k with cur := some { x.noteStaged a with toStage := [], stageAt := none } } := by
  rw [State.stageKeys_of_one hcur hone hstate, State.count_link, State.modSes_link, State.modSes_link, State.setAsn_link, hcur]
  rfl

theorem State.stageKeys_asn (hcur : (s.link k).cur = some x) (hone : x.toStage = [a]) (hstate : (s.asn a).state = .kindling) :
    (s.stageKeys k false).asn a = (s.asn a).staged x := by
  rw [State.stageKeys_of_one hcur hone hstate, State.count_asn, State.modSes_asn, State.modSes_asn, State.setAsn_asn_self]
  exact Assoc.settled_of_kindling hstate

/-- On a link with one session and no rollover, keys whose time is up are staged, and nothing else is derived. -/
theorem State.deriveLink_of_due (hcur : (s.link k).cur = some x) (hpar : (s.link k).par = none) (hroll : (s.link k).roll = none)
    (hone : x.toStage = [a]) (hstate : (s.asn a).state = .kindling) (hat : x.stageAt = some e) (hdue : e ≤ s.tick + 1) :
    s.deriveLink k = s.stageKeys k false := by
  have hlink := State.stageKeys_link hcur hone hstate
  simp only [State.deriveLink, Link.ses, hcur, hat, hdue, onlyIf, decide_true, hlink, hpar, hroll, Bool.false_eq_true, ↓reduceIte]

theorem keyDeriveDone_stages {k : LinkNo} (hcur : (s.link k).cur = some x) (hpar : (s.link k).par = none) (hone : x.toStage = [a])
    (hat : x.stageAt = some e) (hdue : e ≤ s.tick + 1) (hroll : (s.link k).roll = none) (hstate : (s.asn a).state = .kindling) :
    Runs (.keyDeriveDone k) s (fun t => (t.asn a).ph0.key = (workingKey x.secret (s.asn a).peerIndex x.epoch).1 ∧
      (t.asn a).ph0.salt = (workingKey x.secret (s.asn a).peerIndex x.epoch).2 ∧ (t.asn a).ph0.valid = false ∧
      (t.link k).cur.map (fun y => (y.toStage, y.stageAt)) = some ([], none) ∧ s.regsBut t []) := by
  have hderived := State.deriveLink_of_due hcur hpar hroll hone hstate hat hdue
  refine runs_of_done (congrArg done hderived) ?_
  rw [State.closed_link, State.closed_asn, State.stageKeys_asn hcur hone hstate, State.stageKeys_link hcur hone hstate]
  refine ⟨rfl, rfl, rfl, rfl, State.closed_regsBut ?_⟩
  exact hderived ▸ (State.deriveLink_keeps (s := s) (k := k)).regsBut (by simp)

/-! ### Phase 0 installed -/

/-- An entry with phase 0 installed at an epoch: key and salt stay, and its numbers begin (R259). -/
def Assoc.begun (y : Assoc) (epoch : Nat) : Assoc :=
  { y with ph0 := { key := y.ph0.key, salt := y.ph0.salt, epoch := epoch, valid := true }, txPhase := false
           nextPn := if y.otn then 0 else 1, pnMark := 2 ^ 24, softHit := false, claimPending := false }

/-- The test of the soft limit changes its mark alone. -/
theorem State.softTest_asn (hstate : (s.asn a).state = .kindling) : ∃ b, (s.softTest a).asn a = { s.asn a with softHit := b } := by
  rw [State.softTest]
  dsimp only
  split
  · exact ⟨true, by rw [State.schedule_asn, State.setAsn_asn_self]; exact Assoc.settled_of_kindling hstate⟩
  · exact ⟨_, rfl⟩

theorem State.softTest_kindle : (s.softTest a).kindle = s.kindle := State.softTest_keeps.frame .kindle (by decide)

theorem State.installFirst_asn {epoch : Nat} (hstate : (s.asn a).state = .kindling) :
    ∃ b, (s.installFirst a (s.asn a).ph0.key (s.asn a).ph0.salt epoch).asn a =
      { (s.asn a).begun epoch with softHit := b } := by
  have hset : (s.setAsn a ((s.asn a).begun epoch)).asn a = (s.asn a).begun epoch :=
    (State.setAsn_asn_self ..).trans (Assoc.settled_of_kindling hstate)
  obtain ⟨b, hb⟩ := State.softTest_asn (s := s.setAsn a ((s.asn a).begun epoch)) (a := a) (by rw [hset]; exact hstate)
  exact ⟨b, by rw [← hset]; exact hb⟩

theorem State.installStaged_of_may (hstate : (s.asn a).state = .kindling) (hmay : (s.asn a).mayInstall x.epoch = true) :
    s.installStaged k x a = ((s.installFirst a (s.asn a).ph0.key (s.asn a).ph0.salt x.epoch).raiseMark k x.epoch).modAsn a
      (fun e => { e with ph0 := { e.ph0 with initiator := x.initiator }, session := x.idx }) := by
  simp only [State.installStaged, hstate, hmay, ne_eq, not_true_eq_false, ↓reduceIte]

theorem State.installStaged_asn (hstate : (s.asn a).state = .kindling) (hmay : (s.asn a).mayInstall x.epoch = true) :
    ∃ b, (s.installStaged k x a).asn a = { (s.asn a).begun x.epoch with
      softHit := b, session := x.idx, ph0 := { ((s.asn a).begun x.epoch).ph0 with initiator := x.initiator } } := by
  obtain ⟨b, hb⟩ := State.installFirst_asn (s := s) (a := a) (epoch := x.epoch) hstate
  refine ⟨b, ?_⟩
  rw [State.installStaged_of_may hstate hmay, State.modAsn_asn_self, State.raiseMark, State.modLink_asn, hb]
  exact Assoc.settled_of_kindling hstate

theorem State.installStaged_link (hstate : (s.asn a).state = .kindling) (hmay : (s.asn a).mayInstall x.epoch = true) :
    (s.installStaged k x a).link k = { s.link k with highMark := max (s.link k).highMark x.epoch } := by
  have hlink : (s.installFirst a (s.asn a).ph0.key (s.asn a).ph0.salt x.epoch).link k = s.link k := by
    rw [State.link, State.link, State.installFirst, State.softTest_kindle]
    rfl
  rw [State.installStaged_of_may hstate hmay, State.modAsn, State.setAsn_link, State.raiseMark, State.modLink_link_self, hlink]

/-- The link of a session that has installed its keys. -/
def State.installEnded (s : State) (k epoch : Nat) : State :=
  (s.modSes k false (fun x => { x with installed := true, staged := [] })).modLink k
    (fun l => { l with installAt := none, installWait := false, epoch := epoch })

theorem State.installEnded_link (epoch : Nat) : (s.installEnded k epoch).link k = { s.link k with
    cur := (s.link k).cur.map (fun x => { x with installed := true, staged := [] })
    installAt := none, installWait := false, epoch := epoch } := by
  rw [State.installEnded, State.modLink_link_self, State.modSes_link]

theorem State.installEnded_asn (epoch j : Nat) : (s.installEnded k epoch).asn j = s.asn j := rfl

/-- On a link with one session, the edge has come, and no acknowledgement waits for the install. -/
theorem State.phase0Install_of_due (hcur : (s.link k).cur = some x) (hpar : (s.link k).par = none)
    (hat : (s.link k).installAt = some e) (hdue : e ≤ s.tick) (hone : x.staged = [a]) (hstate : (s.asn a).state = .kindling)
    (hmay : (s.asn a).mayInstall x.epoch = true) (hack : (s.link k).ackHold = none) :
    s.phase0Install k = (s.installStaged k x a).installEnded k x.epoch := by
  have hheld : (((s.installStaged k x a).installEnded k x.epoch).link k).ackHold = none := by
    rw [State.installEnded_link, State.installStaged_link hstate hmay]
    exact hack
  have hends : s.phase0Install k = ((s.installStaged k x a).installEnded k x.epoch).releaseAck k := by
    simp only [State.phase0Install, hpar, hat, Link.ses, hcur, hone, Nat.not_lt.mpr hdue, Bool.false_and, Bool.false_eq_true,
      ↓reduceIte]
    rfl
  rw [hends, State.releaseAck, hheld]

theorem phase0Install_installs {k : LinkNo} (hcur : (s.link k).cur = some x) (hpar : (s.link k).par = none)
    (hat : (s.link k).installAt = some e) (hdue : e ≤ s.tick) (hone : x.staged = [a]) (hstate : (s.asn a).state = .kindling)
    (hmay : (s.asn a).mayInstall x.epoch = true) (hack : (s.link k).ackHold = none) :
    Runs (.phase0Install k) s (fun t => (t.asn a).ph0.valid = true ∧ (t.asn a).ph0.epoch = x.epoch ∧
      (t.asn a).ph0.key = (s.asn a).ph0.key ∧ (t.asn a).ph0.salt = (s.asn a).ph0.salt ∧ (t.asn a).txPhase = false ∧
      (t.asn a).nextPn = (if (s.asn a).otn then 0 else 1) ∧ (t.asn a).pnMark = 2 ^ 24 ∧ (t.asn a).state = .kindling ∧
      (t.asn a).session = x.idx ∧ (t.link k).installAt = none ∧ (t.link k).epoch = x.epoch ∧
      (t.link k).highMark = max (s.link k).highMark x.epoch ∧
      (t.link k).cur = some { x with installed := true, staged := [] }) := by
  obtain ⟨b, hb⟩ := State.installStaged_asn (k := k) hstate hmay
  refine runs_of_done (congrArg done (State.phase0Install_of_due hcur hpar hat hdue hone hstate hmay hack)) ?_
  rw [State.closed_link, State.closed_asn, State.installEnded_asn, hb, State.installEnded_link,
    State.installStaged_link hstate hmay, hcur]
  exact ⟨rfl, rfl, rfl, rfl, rfl, rfl, rfl, hstate, rfl, rfl, rfl, rfl, rfl⟩

end Sys2Proof.Machine
end

section
/-! SUPPORT. A session becomes LIVE, and its association with it (R155, R259). -/

namespace Sys2Proof.Machine

open Sys2Proof

variable {s : State} {k a : Nat} {x : Session}

theorem exec_sessionLive {k : LinkNo} (hcycle : s.cycle = 0) : exec (.sessionLive k) s = done (s.sessionLive k).liveStep :=
  congrArg done (onlyIf_of_true (decide_eq_true hcycle))

/-- Between edges nothing becomes LIVE. -/
theorem sessionLive_idle {k : LinkNo} (hcycle : s.cycle ≠ 0) :
    Runs (.sessionLive k) s (fun t => t.kindle = s.kindle ∧ t.assocs = s.assocs ∧ s.regsBut t []) := by
  have hexec : exec (.sessionLive k) s = done s := congrArg done (onlyIf_of_false (decide_eq_false hcycle))
  exact runs_of_done hexec ⟨State.closed_kindle s, State.closed_assocs s, State.closed_regsBut (State.regsBut_refl s _)⟩

/-! ### The session -/

/-- A session that has become LIVE (R259). -/
def Session.madeLive (x : Session) (now : Nat) : Session :=
  { x with st := .live, since := now, liveAt := now, rekeyFrom := now, lastHeard := now, lastSent := now }

/-- The link of a session that has become LIVE. -/
def State.lived (s : State) (k : Nat) : State :=
  (s.modSes k false (fun x => x.madeLive s.tick)).modLink k (fun l => { l with holdK := 0 })

theorem State.lived_link (hcur : (s.link k).cur = some x) :
    (s.lived k).link k = { s.link k with cur := some (x.madeLive s.tick), holdK := 0 } := by
  rw [State.lived, State.modLink_link_self, State.modSes_link, hcur]
  rfl

theorem State.count_evt (p : Page) (i sel n : Nat) (f : Fld) (j : Nat) : (s.count p i sel n).evt f j = s.evt f j := by
  rw [State.count]
  dsimp only
  split
  · rfl
  · split <;> rfl

/-- No association waits where none is listed. -/
theorem State.liveHeld_of_none (h : s.asnListed = []) : s.liveHeld k = s := by
  have hlist : s.linkAssocs k = [] := by
    rw [State.linkAssocs, List.map_eq_nil_iff.mp h]
    rfl
  refine onlyIf_of_false ?_
  rw [hlist]
  simp

/-- The only session of a link becomes LIVE, where no association is listed. -/
theorem State.sessionLive_of_may (hcur : (s.link k).cur = some x) (hpar : (s.link k).par = none) (hmay : x.mayLive = true)
    (hnone : s.asnListed = []) :
    s.sessionLive k = ((s.lived k).kdlEvent F.kdlEvtSessionLive k 0).count .kdl 0 12 := by
  have hlisted : (((s.lived k).kdlEvent F.kdlEvtSessionLive k 0).count .kdl 0 12).asnListed = [] := by
    rw [State.asnListed, State.count_assocs, State.kdlEvent_assocs]
    exact hnone
  rw [← State.liveHeld_of_none (k := k) hlisted]
  simp only [State.sessionLive, hpar, hcur, hmay, ↓reduceIte]
  rfl

theorem sessionLive_lives {k : LinkNo} (hcur : (s.link k).cur = some x) (hpar : (s.link k).par = none) (hmay : x.mayLive = true)
    (hnone : s.asnListed = []) (hcycle : s.cycle = 0) :
    Runs (.sessionLive k) s (fun t => (t.link k).holdK = 0 ∧ t.evt F.kdlEvtSessionLive = 1 ∧ s.regsBut t [] ∧
      (t.link k).cur = some (x.madeLive s.tick)) := by
  have hlives := State.sessionLive_of_may hcur hpar hmay hnone
  have hlisted : (s.sessionLive k).asnListed = [] := by
    rw [hlives, State.asnListed, State.count_assocs, State.kdlEvent_assocs]
    exact hnone
  have hstep : (s.sessionLive k).liveStep = s.sessionLive k := by
    rw [State.liveStep, hlisted]
    rfl
  refine runs_of_done (exec_sessionLive hcycle) ?_
  rw [hstep, State.closed_link, State.closed_evt _ _ _ (by decide)]
  have hregs : s.regsBut (s.sessionLive k) [] := (State.sessionLive_keeps (s := s) (k := k)).regsBut (by simp)
  rw [hlives] at hregs ⊢
  rw [State.count_link, State.kdlEvent_link, State.lived_link hcur, State.count_evt]
  exact ⟨rfl, State.kdlEvent_evt _ (by decide) rfl, State.closed_regsBut hregs, rfl⟩

/-! ### Its association -/

/-- A session that is LIVE is so already. -/
theorem State.sessionLive_of_live (hcur : (s.link k).cur = some x) (hpar : (s.link k).par = none) (hlive : x.st = .live) :
    s.sessionLive k = s := by
  have hmay : x.mayLive = false := by simp [Session.mayLive, hlive]
  simp only [State.sessionLive, hpar, hcur, hmay, Bool.false_eq_true, ↓reduceIte]

/-- The only association listed becomes LIVE; a rollover in progress has it join. -/
theorem State.liveStep_of_one (hcur : (s.link k).cur = some x) (hlive : x.st = .live) (hone : s.asnListed = [a])
    (hstate : (s.asn a).state = .kindling) (hvalid : (s.asn a).ph0.valid = true)
    (hlink : s.linkOfPort (s.asn a).port = some k) (hses : (s.asn a).session = x.idx)
    (hpages : s.pagesLive (s.asn a).port = true) (hallowed : s.refusesLive (s.asn a).port = false) :
    s.liveStep = s.modAsn a (fun e => { e with state := .live }) ∨
      s.liveStep = (s.modAsn a (fun e => { e with state := .live })).schedule (s.tick + 1) (.rollJoin a) := by
  rw [State.liveStep, hone]
  simp only [forL, List.foldl_cons, List.foldl_nil, hlink, hcur]
  rw [if_neg (by simp [hstate, hvalid]), if_pos ⟨hlive, hses, hpages, by simp [hallowed]⟩]
  split
  · split
    · exact .inr rfl
    · exact .inl rfl
  · exact .inl rfl

theorem sessionLive_association {k : LinkNo} (hcur : (s.link k).cur = some x) (hpar : (s.link k).par = none)
    (hlive : x.st = .live) (hone : s.asnListed = [a]) (hstate : (s.asn a).state = .kindling)
    (hvalid : (s.asn a).ph0.valid = true) (hlink : s.linkOfPort (s.asn a).port = some k.val) (hses : (s.asn a).session = x.idx)
    (hpages : s.pagesLive (s.asn a).port = true) (hallowed : s.refusesLive (s.asn a).port = false) (hcycle : s.cycle = 0) :
    Runs (.sessionLive k) s (fun t => t.asn a = { s.asn a with state := .live } ∧ t.kindle = s.kindle ∧ s.regsBut t []) := by
  have hstep := State.liveStep_of_one hcur hlive hone hstate hvalid hlink hses hpages hallowed
  refine runs_of_done (exec_sessionLive hcycle) ?_
  rw [State.sessionLive_of_live hcur hpar hlive, State.closed_asn, State.closed_kindle]
  have hkeeps : Keeps (mask [.sched, .assocs]) s s.liveStep := State.liveStep_keeps
  refine ⟨?_, hkeeps.frame .kindle (by decide), State.closed_regsBut (hkeeps.regsBut (by simp))⟩
  rcases hstep with h | h <;> rw [h]
  · exact State.modAsn_asn_self ..
  · exact (State.schedule_asn ..).trans (State.modAsn_asn_self ..)

end Sys2Proof.Machine
end

section
/-! PROOF. The statement on handshakes. -/

namespace Sys2Proof.Machine

open Sys2Proof

/-- Settles O42: a message by what each check of it decides, and the path to LIVE by what each of its commands leaves of the
session and its association. -/
theorem handshakes : Obligations.Handshakes := by
  unfold Obligations.Handshakes
  refine ⟨fun s k m rest hin _ hruns => ⟨fun htype hcur hhold => offer_taken hin hruns htype hcur hhold,
    fun x hcur hid hops => ⟨fun htype hst => answer_taken hin hruns hcur hid hops htype hst,
      fun htype hst hrole => proof_taken hin hruns hcur hid hops htype hst hrole,
      fun htype hst hsize => confirm_taken hin hruns hcur hid htype hst hsize⟩⟩, fun s k x hcur hpar => ?path⟩
  case path =>
    exact ⟨fun op rest hops hunit => latticeOpDone_keygen hcur hops hunit,
      fun hops hgoal hunit => latticeOpDone_sendOffer hcur hops hgoal hunit,
      fun a e hone hat hdue hroll hstate => keyDeriveDone_stages hcur hpar hone hat hdue hroll hstate,
      fun a e hat hdue hone hstate hmay hack => phase0Install_installs hcur hpar hat hdue hone hstate hmay hack,
      sessionLive_idle, fun hmay hnone hcycle => sessionLive_lives hcur hpar hmay hnone hcycle,
      fun a hlive hone hstate hvalid hlink hses hpages hallowed hcycle =>
        sessionLive_association hcur hpar hlive hone hstate hvalid hlink hses hpages hallowed hcycle⟩

end Sys2Proof.Machine
end

section
/-! SUPPORT. What every command answers (R371, R374): a next state, but for an access to a line beyond its region's data. -/

namespace Sys2Proof.Machine

open Sys2Proof

variable {s : State} {r : RegionNo} {line : Nat}

theorem execSealedLineRead_answers (inp : LineIn) :
    (∃ t, execSealedLineRead r line inp s = .next t) ∨
      s.linesOf r ≤ line ∧ execSealedLineRead r line inp s = .fault .noSuchLine := by
  by_cases hstate : (s.region r).state < 2
  · exact .inl ⟨_, if_pos hstate⟩
  rw [execSealedLineRead, if_neg hstate]
  by_cases hline : s.linesOf r ≤ line
  · exact .inr ⟨hline, if_pos hline⟩
  rw [if_neg hline]
  split
  · exact .inl ⟨_, rfl⟩
  split
  · exact .inl ⟨_, rfl⟩
  split
  exact .inl ⟨_, rfl⟩

theorem execSealedLineWrite_answers (user : Fin 5) (data : List Byte) (inp : LineIn) :
    (∃ t, execSealedLineWrite r line user data inp s = .next t) ∨
      s.linesOf r ≤ line ∧ execSealedLineWrite r line user data inp s = .fault .noSuchLine := by
  by_cases hstate : (s.region r).state < 2
  · exact .inl ⟨_, if_pos hstate⟩
  rw [execSealedLineWrite, if_neg hstate]
  by_cases hline : s.linesOf r ≤ line
  · exact .inr ⟨hline, if_pos hline⟩
  rw [if_neg hline]
  split
  · exact .inl ⟨_, rfl⟩
  split
  · exact .inl ⟨_, rfl⟩
  split
  · exact .inl ⟨_, rfl⟩
  split
  split
  · exact .inl ⟨_, rfl⟩
  · exact .inl ⟨_, rfl⟩

/-- A step takes one command from the queue, takes back nothing that was sent, and spends free values only. -/
theorem step_keeps {t : State} (h : step s = .next t) : t.pending = s.pending.tail ∧ s.out <+: t.out ∧ s.fresh ≤ t.fresh := by
  rcases step_cases h with ⟨hidle, rfl⟩ | ⟨c, rest, hfront, hexec⟩
  · exact ⟨by rw [hidle, List.tail_nil], List.prefix_refl _, Nat.le_refl _⟩
  · obtain ⟨m, hkeeps⟩ := exec_keeps c { s with pending := rest }
    have hk := hkeeps t hexec
    exact ⟨by rw [hfront]; exact hk.pending, hk.out, hk.fresh⟩

/-! ### A cold reset out of QUENCHING -/

/-- A device in QUENCHING. -/
def quenching : State := { regs := [(keyOf F.devModeMode, 9)] }

theorem quenching_inv : quenching.Inv := ⟨AsnTable.empty_settled, by unfold State.regsOk; decide⟩

theorem quenching_mode : quenching.mode = 9 := by decide

theorem State.quenchCut_fresh (h : s.mode = 9) : s.quenchCut.fresh = s.fresh + 1 := by
  rw [State.quenchCut, if_pos h]
  exact State.logTamper_keeps.frame .fresh (by decide)

theorem State.coldReset_fresh (trigger : Nat) : (s.coldReset trigger).fresh = s.fresh :=
  State.coldReset_keeps.frame .fresh (by decide)

/-- A rail that fails in QUENCHING is told in the tamper log, with a stamp that the rules leave open: a free value is spent
(R40). -/
theorem execColdReset_rail_fresh (i : Fin 5) (h : s.mode = 9) :
    ∃ t, exec (.coldReset (.rail i)) s = .next t ∧ t.fresh = s.fresh + 1 := by
  have hon : s.mode ≠ 0 := by omega
  refine ⟨_, congrArg done (if_neg hon), ?_⟩
  change (State.closed _).fresh = _
  rw [State.closed_fresh]
  exact (State.coldReset_fresh 2).trans (State.quenchCut_fresh h)

end Sys2Proof.Machine
end

section
/-! PROOF. The statements on the block as a whole. -/

namespace Sys2Proof.Machine

open Sys2Proof

/-- Settles O1: by the queue that the step finds. -/
theorem stepTakesTheFront : Obligations.StepTakesTheFront := by
  unfold Obligations.StepTakesTheFront
  refine ⟨fun c s => rfl, fun s hidle => ?_⟩
  rw [step, hidle]

/-- Settles O5: every meaning is `done` of some state, but for the two accesses to a line, which judge the line first; and every
command keeps the queue, what was sent and the count of free values. -/
theorem everyCommandRuns : Obligations.EveryCommandRuns := by
  unfold Obligations.EveryCommandRuns
  refine ⟨fun c s => ?_, fun s t h => step_keeps h⟩
  cases c with
  | sealedLineRead r line inp =>
    rcases execSealedLineRead_answers inp with hnext | ⟨hline, hfault⟩
    · exact .inl hnext
    · exact .inr ⟨r, line, 0, [], inp, .inl rfl, hline, hfault⟩
  | sealedLineWrite r line user data inp =>
    rcases execSealedLineWrite_answers user data inp with hnext | ⟨hline, hfault⟩
    · exact .inl hnext
    · exact .inr ⟨r, line, user, data, inp, .inr rfl, hline, hfault⟩
  | _ => exact .inl ⟨_, rfl⟩

/-- Refutes O6 in the sound state `quenching` (`quenching_inv`): a rail that fails there draws a free value for the log entry of
the quench that it cuts short, and `touches` does not list the count of free values for COLD_RESET. -/
theorem not_framesHold : ¬ Obligations.FramesHold := by
  unfold Obligations.FramesHold
  intro h
  obtain ⟨t, hexec, hfresh⟩ := execColdReset_rail_fresh 0 quenching_mode
  have hsame : t.fresh = quenching.fresh := h _ _ t hexec .fresh (by decide) (by decide)
  omega

end Sys2Proof.Machine
end

section
/-! SUPPORT. How a command of the vault ends (R302, R318): its result, the engine freed, the words that it answers. -/

namespace Sys2Proof.Machine

open Sys2Proof

variable {s t u : State} {c : VaultCmd} {r : Nat} {out : List Byte}

/-! ### Words written in a row -/

/-- Words written from `off` on leave the registers that lie on no offset written. -/
theorem State.wrWords_word_of_ne {p : Page} {off i : Nat} {ws : List Word} {k : RegKey}
    (h : ∀ j < ws.length, k.off ≠ off + 4 * j) : (s.wrWords p off ws i).word k = s.word k := by
  induction ws generalizing s off with
  | nil => rfl
  | cons w ws ih =>
    have hnext : (s.wrWords p off (w :: ws) i).word k = (s.setWord ⟨p, off, i, 0⟩ w).word k :=
      ih (s := s.setWord ⟨p, off, i, 0⟩ w) (off := off + 4) (fun j hj => by
        have := h (j + 1) (Nat.succ_lt_succ hj)
        omega)
    have hfirst : k ≠ ⟨p, off, i, 0⟩ := by
      rintro rfl
      exact h 0 (Nat.succ_pos _) rfl
    rw [hnext, State.word_setWord_ne _ _ hfirst]

/-- Words written from `off` on lie one after the other. -/
theorem State.wrWords_word_at {p : Page} {off i j : Nat} {ws : List Word} {w : Word} (h : ws[j]? = some w) :
    (s.wrWords p off ws i).word ⟨p, off + 4 * j, i, 0⟩ = w := by
  induction ws generalizing s off j with
  | nil => simp at h
  | cons v ws ih =>
    cases j with
    | zero =>
      obtain rfl : v = w := by simpa using h
      have hnext : (s.wrWords p off (v :: ws) i).word ⟨p, off + 4 * 0, i, 0⟩ = (s.setWord ⟨p, off, i, 0⟩ v).word ⟨p, off, i, 0⟩ :=
        State.wrWords_word_of_lt (s := s.setWord ⟨p, off, i, 0⟩ v) (off := off + 4) (by simp)
      rw [hnext, State.word_setWord_self]
    | succ j =>
      have hnext := ih (s := s.setWord ⟨p, off, i, 0⟩ v) (off := off + 4) (j := j) (by simpa using h)
      rwa [show off + 4 + 4 * j = off + 4 * (j + 1) by omega] at hnext

/-! ### The end of a command -/

/-- A command has ended with result `r`, answered on the host path: the engine is free, and no slot is written. -/
structure State.HostEnded (s t : State) (r : Nat) : Prop where
  busy : t.rd F.kvtStatBusy = 0
  result : t.rd F.kvtStatResult = r
  vault : t.vault = { s.vault with cmd := none }

/-- No command runs. -/
def State.noCmd (s : State) : State := { s with vault := { s.vault with cmd := none } }

/-- The lattice unit that an attestation waits for or holds is given back (R312). -/
def State.unitBack (s : State) (c : VaultCmd) : State :=
  if c.op = 6 then
    { s with kindle := { s.kindle with lattice := s.kindle.lattice.filter (fun u => decide (u ≠ .attest)) } }
  else s

/-- The end of a command with result `r` is counted (R317). -/
def State.countEnd (s : State) (r : Nat) : State :=
  if r = 0 then s.count .kvt 0 1 else if r = 1 then s else s.count .kvt 0 2

/-- What every end of a command leaves before its answer. -/
def State.vaultFree (s : State) (c : VaultCmd) (r : Nat) : State := (s.noCmd.unitBack c).countEnd r

@[simp] theorem State.unitBack_vault : (s.unitBack c).vault = s.vault := by unfold State.unitBack; split <;> rfl
@[simp] theorem State.unitBack_word (k : RegKey) : (s.unitBack c).word k = s.word k := by
  unfold State.unitBack; split <;> rfl
theorem State.unitBack_lattice (h : c.op = 6) :
    (s.unitBack c).kindle.lattice = s.kindle.lattice.filter (fun u => decide (u ≠ .attest)) := by
  rw [State.unitBack, if_pos h]

theorem State.countEnd_keeps : Keeps (mask [.rep]) s (s.countEnd r) :=
  .ite (.step State.count_keeps (by rfl) (.refl _)) (.ite (.refl _) (.step State.count_keeps (by rfl) (.refl _)))

@[simp] theorem State.countEnd_vault : (s.countEnd r).vault = s.vault := State.countEnd_keeps.frame .vault (by decide)
@[simp] theorem State.countEnd_kindle : (s.countEnd r).kindle = s.kindle := State.countEnd_keeps.frame .kindle (by decide)
@[simp] theorem State.countEnd_word (k : RegKey) : (s.countEnd r).word k = s.word k := 
  State.countEnd_keeps.word (by simp)

@[simp] theorem State.vaultFree_vault : (s.vaultFree c r).vault = { s.vault with cmd := none } := by
  rw [State.vaultFree, State.countEnd_vault, State.unitBack_vault]
  rfl

@[simp] theorem State.vaultFree_word (k : RegKey) : (s.vaultFree c r).word k = s.word k := by
  rw [State.vaultFree, State.countEnd_word, State.unitBack_word]
  rfl

theorem State.vaultFree_lattice (h : c.op = 6) :
    (s.vaultFree c r).kindle.lattice = s.kindle.lattice.filter (fun u => decide (u ≠ .attest)) := by
  rw [State.vaultFree, State.countEnd_kindle, State.unitBack_lattice h]
  rfl

/-- KVT_STAT shows the result and that the engine is free. -/
def State.vaultShow (s : State) (r : Nat) : State := (s.wr F.kvtStatBusy 0).wr F.kvtStatResult r

@[simp] theorem State.vaultShow_vault : (s.vaultShow r).vault = s.vault := rfl
@[simp] theorem State.vaultShow_kindle : (s.vaultShow r).kindle = s.kindle := rfl
theorem State.vaultShow_busy : (s.vaultShow r).rd F.kvtStatBusy = 0 := by
  rw [State.vaultShow, State.rd_wr_apart _ _ _ _ _ _ (by decide) (by decide)]
  exact State.rd_wr_self _ 0 0 0 (by decide)
theorem State.vaultShow_result (h : r < 16) : (s.vaultShow r).rd F.kvtStatResult = r :=
  State.rd_wr_of_lt 0 0 (by decide) h
theorem State.vaultShow_regsBut {ks : List RegKey} (h : s.regsBut t ks) (hk : keyOf F.kvtStatBusy ∈ ks) :
    s.regsBut (t.vaultShow r) ks :=
  State.regsBut_wr _ (State.regsBut_wr _ h hk) hk

/-- The end of a host command: the engine is freed, its result shown, KVT_DATA zeroed where the command read it, and its
answer written there (R302, R318). -/
theorem State.vaultEnd_of_host (h : c.officer = false) : s.vaultEnd c r out =
    (let u := onlyIf (decide (c.op = 2 ∨ c.op = 3 ∨ c.op = 6)) (fun s => s.wrWords .kvt 0x300 (List.replicate 32 0))
      ((s.vaultFree c r).vaultShow r)
     if (c.op = 4 ∨ c.op = 8) ∧ r = 0 then (u.wr F.kvtStatOutLen out.length).wrWords .kvt 0x300 (leWords out) else u) := by
  unfold State.vaultEnd
  extract_lets v freed k given counted shown zeroed
  have hfree : counted = s.vaultFree c r := rfl
  rw [if_neg (by simp [h])]
  unfold zeroed shown
  rw [hfree]
  rfl

theorem State.wrWords_data_rd {ws : List Word} (f : Fld) (h : f.off < 0x300) : (s.wrWords .kvt 0x300 ws).rd f = s.rd f :=
  congrArg (getF · _ _) (State.wrWords_word_of_lt (k := keyOf f) h)

theorem State.wrWords_vault {p : Page} {off : Nat} {ws : List Word} : (s.wrWords p off ws).vault = s.vault :=
  State.wrWords_keeps.frame .vault (by cases p <;> decide)

/-- A state in which a command has ended still shows so after its answer is written. -/
theorem State.HostEnded.wrWords {ws : List Word} (h : s.HostEnded t r) : s.HostEnded (t.wrWords .kvt 0x300 ws) r where
  busy := by rw [State.wrWords_data_rd _ (by decide), h.busy]
  result := by rw [State.wrWords_data_rd _ (by decide), h.result]
  vault := by rw [State.wrWords_vault, h.vault]

theorem State.HostEnded.wr_outLen {n : Nat} (h : s.HostEnded t r) : s.HostEnded (t.wr F.kvtStatOutLen n) r where
  busy := by rw [State.rd_wr_apart _ _ _ _ _ _ (by decide) (by decide), h.busy]
  result := by rw [State.rd_wr_apart _ _ _ _ _ _ (by decide) (by decide), h.result]
  vault := by rw [State.wr_vault, h.vault]

theorem State.HostEnded.closed (h : s.HostEnded t r) : s.HostEnded t.closed r where
  busy := by rw [State.closed_rd, h.busy]
  result := by rw [State.closed_rd, h.result]
  vault := by rw [State.closed_vault, h.vault]

theorem State.HostEnded.slots (h : s.HostEnded t r) : t.vault.slots = s.vault.slots := by rw [h.vault]
theorem State.HostEnded.cmd (h : s.HostEnded t r) : t.vault.cmd = none := by rw [h.vault]

theorem State.vaultEnd_ended (h : c.officer = false) (hr : r < 16) : s.HostEnded (s.vaultEnd c r out) r := by
  have hshow : s.HostEnded ((s.vaultFree c r).vaultShow r) r :=
    ⟨State.vaultShow_busy, State.vaultShow_result hr, State.vaultFree_vault⟩
  rw [State.vaultEnd_of_host h]
  extract_lets u
  have hu : s.HostEnded u r := by
    unfold u onlyIf
    split
    · exact hshow.wrWords
    · exact hshow
  split
  · exact hu.wr_outLen.wrWords
  · exact hu

/-- A command that neither reads KVT_DATA nor answers there touches KVT_STAT alone. -/
theorem State.vaultEnd_regsBut {ks : List RegKey} (h : c.officer = false) (hop : ∀ n ∈ [2, 3, 4, 6, 8], c.op ≠ n)
    (hs : s.regsBut t ks) (hk : keyOf F.kvtStatBusy ∈ ks) : s.regsBut (t.vaultEnd c r out) ks := by
  have hreads : ¬ (c.op = 2 ∨ c.op = 3 ∨ c.op = 6) := by simp at hop; omega
  have hanswers : ¬ ((c.op = 4 ∨ c.op = 8) ∧ r = 0) := by simp at hop; omega
  rw [State.vaultEnd_of_host h, if_neg hanswers, onlyIf_of_false (decide_eq_false hreads)]
  exact State.vaultShow_regsBut (State.regsBut_of_word State.vaultFree_word hs) hk

/-- What KCV and EXPORT_WRAPPED answer lies in KVT_DATA, with its length in KVT_STAT (R304, R311). -/
theorem State.vaultEnd_of_answer (h : c.officer = false) (hop : c.op = 4 ∨ c.op = 8) :
    s.vaultEnd c 0 out = (((s.vaultFree c 0).vaultShow 0).wr F.kvtStatOutLen out.length).wrWords .kvt 0x300 (leWords out) := by
  have hreads : ¬ (c.op = 2 ∨ c.op = 3 ∨ c.op = 6) := by omega
  rw [State.vaultEnd_of_host h, if_pos ⟨hop, rfl⟩, onlyIf_of_false (decide_eq_false hreads)]

theorem State.vaultEnd_outLen (h : c.officer = false) (hop : c.op = 4 ∨ c.op = 8) :
    (s.vaultEnd c 0 out).rd F.kvtStatOutLen = out.length % 65536 := by
  rw [State.vaultEnd_of_answer h hop, State.wrWords_data_rd _ (by decide), State.rd_wr_self _ _ _ _ (by decide)]
  rfl

theorem State.vaultEnd_data (h : c.officer = false) (hop : c.op = 4 ∨ c.op = 8) {j : Nat} {w : Word}
    (hj : (leWords out)[j]? = some w) : (s.vaultEnd c 0 out).word ⟨.kvt, 0x300 + 4 * j, 0, 0⟩ = w := by
  rw [State.vaultEnd_of_answer h hop]
  exact State.wrWords_word_at hj

theorem State.vaultEnd_sched : (s.vaultEnd c r out).sched = s.sched := State.vaultEnd_keeps.frame .sched (by decide)
theorem State.vaultEnd_assocs : (s.vaultEnd c r out).assocs = s.assocs := State.vaultEnd_keeps.frame .assocs (by decide)

/-! ### A command lands -/

theorem State.vaultCapture_officer (op slot aux : Nat) : (s.vaultCapture op slot aux).officer = false := rfl

theorem ite_lt {p : Prop} [Decidable p] {a b n : Nat} (ha : a < n) (hb : b < n) : (if p then a else b) < n := by
  split <;> assumption

theorem State.vaultCheck_lt : s.vaultCheck c < 16 := by
  unfold State.vaultCheck
  iterate 12 refine ite_lt (by decide) ?_
  decide

/-- A host command that its checks refuse ends with their result. -/
theorem State.vaultStart_ended {due : Nat} {pass : Bool} (h : c.officer = false) (hcheck : s.vaultCheck c ≠ 0) :
    s.HostEnded (s.vaultStart c due pass) (s.vaultCheck c) := by
  have hlt := s.vaultCheck_lt (c := c)
  have hvault {u : State} (hu : u.vault = s.vault) : s.HostEnded (u.vaultEnd c (s.vaultCheck c)) (s.vaultCheck c) := by
    have hend := u.vaultEnd_ended (out := []) h hlt
    exact ⟨hend.busy, hend.result, by rw [hend.vault, hu]⟩
  unfold State.vaultStart
  split
  · next h0 => exact absurd h0 hcheck
  · next h10 => exact h10 ▸ hvault (State.kvtEvent_keeps.frame .vault (by decide))
  · next h5 =>
    have hcount : Keeps (mask [.rep]) s
        (onlyIf (s.slot (if c.op = 6 then 0 else c.aux)).expired (fun s => s.count .kvt 0 4) s) :=
      .onlyIf (fun _ => .step State.count_keeps (by rfl) (.refl _)) (.refl _)
    exact h5 ▸ hvault (hcount.frame .vault (by decide))
  · exact hvault rfl

theorem State.vaultStart_refused_keeps {due : Nat} {pass : Bool} (hcheck : s.vaultCheck c ≠ 0) :
    Keeps (mask [.rep, .vault, .kindle, .officer, .out, .page .kvt]) s (s.vaultStart c due pass) := by
  unfold State.vaultStart
  split
  · next h0 => exact absurd h0 hcheck
  · exact .step State.vaultEnd_keeps (by rfl) (.step State.kvtEvent_keeps (by rfl) (.refl _))
  · exact .step State.vaultEnd_keeps (by rfl) (.onlyIf (fun _ => .step State.count_keeps (by rfl) (.refl _)) (.refl _))
  · exact .step State.vaultEnd_keeps (by rfl) (.refl _)

theorem State.vaultLand_of_free {cyc : Nat} {pass : Bool} (hready : s.ready .kvt = true) (hbusy : s.rd F.kvtStatBusy = 0) :
    s.vaultLand c cyc pass = s.vaultStart c (s.edgeFor cyc) pass := by
  rw [State.vaultLand, State.gate_of_ready hready, if_neg (by simp [State.on, hbusy])]

/-- A command that lands while another runs is lost (R302). -/
theorem State.vaultLand_of_busy {cyc : Nat} {pass : Bool} (hready : s.ready .kvt = true) (hbusy : s.rd F.kvtStatBusy = 1) :
    s.vaultLand c cyc pass = s.wr F.kvtStatCmdLost 1 := by
  rw [State.vaultLand, State.gate_of_ready hready, if_pos (by simp [State.on, hbusy])]

theorem State.at_vaultCheck (cyc : Cyc) : (s.at cyc).vaultCheck c = s.vaultCheck c := rfl

end Sys2Proof.Machine
end

section
/-! PROOF. Vault commands that fail a check, or land while another runs (R302). -/

namespace Sys2Proof.Machine

open Sys2Proof

variable {s : State} {i : Instr} {c : VaultCmd} {cyc : Cyc} {pass : Bool}

/-- A command of the vault as it lands. -/
abbrev LandsAs (s : State) (i : Instr) (c : VaultCmd) (cyc : Cyc) (pass : Bool := true) : Prop :=
  exec i s = done ((s.at cyc).vaultLand c cyc pass)

theorem runs_refused (hready : s.ready .kvt = true) (hbusy : s.rd F.kvtStatBusy = 0) (hlands : LandsAs s i c cyc pass)
    (hc : c.officer = false) (hcheck : s.vaultCheck c ≠ 0) :
    Runs i s (fun t => t.rd F.kvtStatResult = s.vaultCheck c ∧ t.rd F.kvtStatBusy = 0 ∧ t.vault.slots = s.vault.slots ∧
      t.vault.cmd = none ∧ t.sched = s.sched ∧ t.assocs = s.assocs) := by
  refine runs_of_done hlands ?_
  rw [State.vaultLand_of_free (by simpa using hready) (by simpa using hbusy)]
  have hend := ((s.at cyc).vaultStart_ended (due := (s.at cyc).edgeFor cyc) (pass := pass) hc hcheck).closed
  have hkeeps := (s.at cyc).vaultStart_refused_keeps (due := (s.at cyc).edgeFor cyc) (pass := pass) hcheck
  refine ⟨hend.result, hend.busy, hend.slots, hend.cmd, ?_, ?_⟩
  · rw [State.closed_sched]; exact hkeeps.frame .sched (by decide)
  · rw [State.closed_assocs]; exact hkeeps.frame .assocs (by decide)

/-- An unknown code does nothing and returns 11 (R302). -/
theorem runs_unknownOp (hready : s.ready .kvt = true) (hbusy : s.rd F.kvtStatBusy = 0) (hlive : s.mode ≠ 9) (hlive' : s.mode ≠ 10) :
    Runs (.kvtUnknownOp cyc) s (fun t => t.rd F.kvtStatResult = 11 ∧ t.rd F.kvtStatBusy = 0 ∧
      t.vault = { s.vault with cmd := none } ∧ s.regsBut t [keyOf F.kvtStatBusy]) := by
  have hcheck : s.vaultCheck (s.vaultCapture 0 1 0) = 11 := by
    rw [State.vaultCheck, if_neg (not_or.mpr ⟨hlive, hlive'⟩), if_pos (.inl rfl)]
  refine runs_of_done (u := (s.at cyc).vaultLand (s.vaultCapture 0 1 0) cyc) rfl ?_
  rw [State.vaultLand_of_free (by simpa using hready) (by simpa using hbusy), State.vaultStart]
  simp only [State.at_vaultCheck, hcheck]
  have hend := ((s.at cyc).vaultEnd_ended (c := s.vaultCapture 0 1 0) (r := 11) (out := []) rfl (by decide)).closed
  exact ⟨hend.result, hend.busy, hend.vault, State.closed_regsBut (State.vaultEnd_regsBut rfl (by simp [State.vaultCapture])
    (s.at_regsBut cyc _) (List.mem_singleton_self _))⟩

theorem runs_lost (hready : s.ready .kvt = true) (hbusy : s.rd F.kvtStatBusy = 1) (hlands : LandsAs s i c cyc pass) :
    Runs i s (fun t => t.rd F.kvtStatCmdLost = 1 ∧ t.vault = s.vault ∧ t.sched = s.sched ∧
      s.regsBut t [keyOf F.kvtStatCmdLost]) := by
  refine runs_of_done hlands ?_
  rw [State.vaultLand_of_busy (by simpa using hready) (by simpa using hbusy)]
  refine ⟨?_, ?_, ?_, State.closed_regsBut (s.at_wr_regsBut cyc _ _)⟩
  · rw [State.closed_rd, State.rd_wr_of_lt 0 0 (by decide) (by decide)]
  · rw [State.closed_vault]; rfl
  · rw [State.closed_sched]; rfl

/-- Settles O44: a command that its checks refuse ends before it runs, and one that lands while the engine is busy writes
cmd_lost alone. -/
theorem vaultCommandsRefused : Obligations.VaultCommandsRefused := by
  unfold Obligations.VaultCommandsRefused
  intro s v w pass cyc hready
  refine ⟨fun hbusy => ⟨?refused, runs_unknownOp hready hbusy⟩, fun hbusy => ?lost⟩
  case refused =>
    simp only [List.forall_mem_cons, List.not_mem_nil, false_implies, implies_true, and_true]
    exact ⟨runs_refused hready hbusy rfl rfl, runs_refused hready hbusy rfl rfl, runs_refused hready hbusy rfl rfl,
      runs_refused hready hbusy rfl rfl, runs_refused hready hbusy rfl rfl, runs_refused hready hbusy rfl rfl,
      runs_refused hready hbusy rfl rfl, runs_refused hready hbusy rfl rfl, runs_refused hready hbusy rfl rfl,
      runs_refused hready hbusy rfl rfl, runs_refused hready hbusy rfl rfl⟩
  case lost =>
    simp only [List.forall_mem_cons, List.not_mem_nil, false_implies, implies_true, and_true]
    exact ⟨runs_lost hready hbusy rfl, runs_lost hready hbusy rfl, runs_lost hready hbusy rfl, runs_lost hready hbusy rfl,
      runs_lost hready hbusy rfl, runs_lost hready hbusy rfl, runs_lost hready hbusy rfl, runs_lost hready hbusy rfl,
      runs_lost hready hbusy rfl, runs_lost hready hbusy rfl, runs_lost hready hbusy rfl, runs_lost hready hbusy rfl⟩

end Sys2Proof.Machine
end

section
/-! SUPPORT. A command of the vault that its checks let pass (R302). -/

namespace Sys2Proof.Machine

open Sys2Proof

variable {s : State} {i : Instr} {c : VaultCmd} {cyc : Cyc} {pass : Bool}

/-- The engine is busy with a command. -/
def State.vaultBusy (s : State) (c : VaultCmd) : State :=
  { s.wr F.kvtStatBusy 1 with vault := { s.vault with cmd := some c } }

@[simp] theorem State.vaultBusy_vault : (s.vaultBusy c).vault = { s.vault with cmd := some c } := rfl
@[simp] theorem State.vaultBusy_slot (v : Nat) : (s.vaultBusy c).slot v = s.slot v := rfl
@[simp] theorem State.vaultBusy_sched : (s.vaultBusy c).sched = s.sched := rfl
@[simp] theorem State.vaultBusy_kindle : (s.vaultBusy c).kindle = s.kindle := rfl
@[simp] theorem State.vaultBusy_out : (s.vaultBusy c).out = s.out := rfl
@[simp] theorem State.vaultBusy_tick : (s.vaultBusy c).tick = s.tick := rfl
@[simp] theorem State.vaultBusy_fresh : (s.vaultBusy c).fresh = s.fresh := rfl
theorem State.vaultBusy_word (k : RegKey) : (s.vaultBusy c).word k = (s.wr F.kvtStatBusy 1).word k := rfl
theorem State.vaultBusy_rd (f : Fld) (i o : Nat) : (s.vaultBusy c).rd f i o = (s.wr F.kvtStatBusy 1).rd f i o := rfl
theorem State.vaultBusy_busy : (s.vaultBusy c).rd F.kvtStatBusy = 1 := by
  rw [State.vaultBusy_rd, State.rd_wr_of_lt 0 0 (by decide) (by decide)]
theorem State.vaultBusy_regsBut {t : State} {ks : List RegKey} (h : s.regsBut t ks) (hk : keyOf F.kvtStatBusy ∈ ks) :
    s.regsBut (t.vaultBusy c) ks :=
  State.regsBut_of_word State.vaultBusy_word (State.regsBut_wr _ h hk)

theorem State.vaultStart_of_pass {due : Nat} (h : s.vaultCheck c = 0) : s.vaultStart c due pass = s.vaultRun c due pass := by
  simp only [State.vaultStart, h]

section
variable {due : Nat}

theorem State.vaultRun_derive (h : c.op = 2) : s.vaultRun c due pass = (s.vaultBusy c).vaultTake c c.aux := by
  simp only [State.vaultRun, h]; rfl
theorem State.vaultRun_import (h : c.op = 3) : s.vaultRun c due pass = (s.vaultBusy c).vaultTake c c.aux := by
  simp only [State.vaultRun, h]; rfl
theorem State.vaultRun_export (h : c.op = 4) : s.vaultRun c due pass = (s.vaultBusy c).vaultTake c c.aux := by
  simp only [State.vaultRun, h]; rfl
theorem State.vaultRun_delete (h : c.op = 5) :
    s.vaultRun c due pass = ((s.vaultBusy c).schedule due (.slotDelete c.slot)).vaultEnd c 1 := by
  simp only [State.vaultRun, h]; rfl
theorem State.vaultRun_attest (h : c.op = 6) : s.vaultRun c due pass = (s.vaultBusy c).vaultTake c 0 := by
  simp only [State.vaultRun, h]; rfl
theorem State.vaultRun_cert (h : c.op = 7) : s.vaultRun c due pass = (s.vaultBusy c).vaultDeliver c s.vault.cert := by
  simp only [State.vaultRun, h]; rfl
theorem State.vaultRun_kcv (h : c.op = 8) :
    s.vaultRun c due pass = (s.vaultBusy c).vaultEnd c 0 (s.slot c.slot).kcv := by
  simp only [State.vaultRun, h]; rfl
theorem State.vaultRun_scrub (h : c.op = 10) : s.vaultRun c due pass = (s.vaultBusy c).scrubSlots.vaultEnd c 0 := by
  simp only [State.vaultRun, h]; rfl

end

/-- A command that its checks let pass runs at once. -/
theorem runs_passed {P : State → Prop} (hready : s.ready .kvt = true) (hbusy : s.rd F.kvtStatBusy = 0)
    (hlands : LandsAs s i c cyc pass) (hcheck : s.vaultCheck c = 0)
    (h : P ((s.at cyc).vaultRun c (s.edgeFor cyc) pass).closed) : Runs i s P := by
  refine runs_of_done hlands ?_
  rw [State.vaultLand_of_free (by simpa using hready) (by simpa using hbusy), State.vaultStart_of_pass ((State.at_vaultCheck cyc).trans hcheck)]
  exact h

/-- A command that ends after the engine was busy with it ends as it would have from before. -/
theorem State.vaultBusy_ended {r : Nat} {out : List Byte} (h : c.officer = false) (hr : r < 16) :
    s.HostEnded (((s.at cyc).vaultBusy c).vaultEnd c r out) r := by
  have hend := ((s.at cyc).vaultBusy c).vaultEnd_ended (out := out) h hr
  exact ⟨hend.busy, hend.result, hend.vault⟩

end Sys2Proof.Machine
end

section
/-! PROOF. Key check values (R311). -/

namespace Sys2Proof.Machine

open Sys2Proof

variable {s : State} {v : SlotNo} {cyc : Cyc}

/-- Slot 0 has no key check value (R311). -/
theorem State.vaultCheck_kcv_zero (h9 : s.mode ≠ 9) (h10 : s.mode ≠ 10) : s.vaultCheck (s.vaultCapture 8 (0 : SlotNo) 0) = 3 := by
  have hauthority : s.vaultAuthority (s.vaultCapture 8 (0 : SlotNo) 0) = true := rfl
  have hslot : s.vaultSlotOk (s.vaultCapture 8 (0 : SlotNo) 0) = false := rfl
  rw [State.vaultCheck, if_neg (not_or.mpr ⟨h9, h10⟩), if_neg (by simp [State.vaultCapture]), hauthority, hslot]
  rfl

/-- Settles O47: KCV answers `Slot.kcv`, which is R311's KMAC256, and slot 0 fails the slot check. -/
theorem keyCheckValues : Obligations.KeyCheckValues := by
  unfold Obligations.KeyCheckValues
  intro s v cyc hready hbusy
  refine ⟨?value, fun h9 h10 => ?zero⟩
  case value =>
    intro kcv hkcv hcheck _
    obtain rfl : kcv = (s.slot v).kcv := hkcv
    refine runs_passed hready hbusy rfl hcheck ?_
    have hslot : (s.at cyc).slot (s.vaultCapture 8 v 0).slot = s.slot v := rfl
    rw [State.vaultRun_kcv rfl, hslot]
    have hend := s.vaultBusy_ended (c := s.vaultCapture 8 v 0) (cyc := cyc) (r := 0) (out := (s.slot v).kcv) rfl (by decide)
    refine ⟨hend.closed.result, ?_, fun j _ w hw => ?_, hend.closed.slots⟩
    · rw [State.closed_rd]
      exact State.vaultEnd_outLen rfl (.inr rfl)
    · rw [State.closed_word]
      exact State.vaultEnd_data rfl (.inr rfl) hw
  case zero =>
    have hthree := s.vaultCheck_kcv_zero h9 h10
    obtain ⟨t, hexec, hresult, -, hslots, -⟩ := runs_refused (c := s.vaultCapture 8 (0 : SlotNo) 0) (i := .kcv 0 cyc) (pass := true)
      hready hbusy rfl rfl (by rw [hthree]; decide)
    exact ⟨t, hexec, hresult.trans hthree, hslots⟩

end Sys2Proof.Machine
end

section
/-! SUPPORT. A use of a slot (R298 to R300), and what the device instance yields (R315). -/

namespace Sys2Proof.Machine

open Sys2Proof

variable {s t u : State} {c : VaultCmd} {v n : Nat} {x : Slot}

/-! ### Uses -/

/-- What a request for a use of slot `v` comes to. -/
theorem State.takeUse_grant : (s.takeUse v).2 =
    (if !(s.slot v).present || (s.slot v).bad || !(s.slot v).usable then .refused
     else if !s.tagOk v then .refused
     else if (s.slot v).uses = usesUnlimited then .granted
     else if 0 < (s.slot v).stock then .granted
     else if (s.slot v).uses = 0 then .refused
     else if s.nvInhibited then .refused
     else .waits) := by
  unfold State.takeUse
  simp only [apply_ite Prod.snd]

/-- A request comes to the same where the slot, the integrity key and the inhibit of NV writes are the same. -/
theorem State.takeUse_grant_congr (hslot : u.slot v = s.slot v) (hkint : u.vault.kint = s.vault.kint)
    (hnv : u.nvInhibited = s.nvInhibited) : (u.takeUse v).2 = (s.takeUse v).2 := by
  rw [State.takeUse_grant, State.takeUse_grant, State.tagOk, State.tagOk, hslot, hkint, hnv]

theorem State.reserve_slot (n : Nat) : (s.reserve v).slot n = s.slot n := by
  unfold State.reserve
  extract_lets
  split <;> rfl

theorem State.kvtEvent_slot (f : Fld) (n : Nat) : (s.kvtEvent f v).slot n = s.slot n := by
  have hvault : (s.kvtEvent f v).vault = s.vault := State.kvtEvent_keeps.frame .vault (by decide)
  rw [State.slot, hvault, State.slot]

/-- A use granted takes at most one of the slot's stock, and nothing else of any slot. -/
theorem State.takeUse_slot (h : (s.takeUse v).2 = .granted) (n : Nat) :
    ∃ k, (s.takeUse v).1.slot n = { s.slot n with stock := k } := by
  have hsame : ∃ k, s.slot n = { s.slot n with stock := k } := ⟨(s.slot n).stock, rfl⟩
  rw [State.takeUse_grant] at h
  unfold State.takeUse
  simp only [apply_ite Prod.fst]
  split at h
  · nomatch h
  rw [if_neg ‹_›]
  split at h
  · nomatch h
  rw [if_neg ‹_›]
  split at h
  · rw [if_pos ‹_›, State.count_slot]
    exact hsame
  rw [if_neg ‹_›]
  split at h
  · rw [if_pos ‹_›]
    unfold onlyIf
    simp only [apply_ite (State.slot · n), State.kvtEvent_slot, State.reserve_slot, State.count_slot, ite_self]
    by_cases hn : n = v
    · subst hn
      exact ⟨_, State.setSlot_slot_self ..⟩
    · rw [State.setSlot_slot_ne _ _ hn]
      exact hsame
  · grind

theorem State.takeUse_rd (f : Fld) : (s.takeUse v).1.rd f = s.rd f := Keeps.rd (s := s) State.takeUse_keeps f 0 0 (by simp)

theorem State.vaultTake_of_granted (h : (s.takeUse v).2 = .granted) : s.vaultTake c v = (s.takeUse v).1.vaultUse c := by
  rw [State.vaultTake]
  split
  · next heq => rw [heq]
  · next heq => rw [heq] at h; nomatch h
  · next heq => rw [heq] at h; nomatch h

/-! ### The device instance -/

/-- Two states whose device instances yield the same. -/
def State.SameDrbg (s u : State) : Prop := u.vault.drbg = s.vault.drbg ∧ u.fresh = s.fresh

theorem State.draw_congr (h : s.SameDrbg u) :
    (u.draw n).2 = (s.draw n).2 ∧ (u.draw n).1.vault.drbg = (s.draw n).1.vault.drbg := by
  obtain ⟨hdrbg, hfresh⟩ := h
  unfold State.draw State.free
  rw [hdrbg, hfresh]
  split
  · split
    · exact ⟨rfl, hdrbg⟩
    · exact ⟨rfl, rfl⟩
  · exact ⟨rfl, hdrbg⟩

/-- The device instance as it draws with prediction resistance: reseeded, and the reseed counted. -/
def State.reseeded (s : State) : State := ((s.seedDevice).bumpReg F.kvtDrbgReseeds 1).count .kvt 0 10

theorem State.drawBytes_eq : s.drawBytes n = s.reseeded.draw n := rfl

theorem State.reseeded_vault : s.reseeded.vault = { s.vault with drbg := some ((s.vault.drbg.getD {}).reseed (s.free 384)) } :=
  State.count_vault ..

theorem State.reseeded_fresh : s.reseeded.fresh = s.fresh + 1 := State.count_fresh ..

theorem State.reseeded_congr (h : s.SameDrbg u) : s.reseeded.SameDrbg u.reseeded := by
  obtain ⟨hdrbg, hfresh⟩ := h
  refine ⟨?_, by rw [State.reseeded_fresh, State.reseeded_fresh, hfresh]⟩
  rw [State.reseeded_vault, State.reseeded_vault, hdrbg, State.free, State.free, hfresh]

theorem State.drawBytes_congr (h : s.SameDrbg u) :
    (u.drawBytes n).2 = (s.drawBytes n).2 ∧ (u.drawBytes n).1.vault.drbg = (s.drawBytes n).1.vault.drbg :=
  State.draw_congr (State.reseeded_congr h)

theorem State.draw_slots : (s.draw n).1.vault.slots = s.vault.slots := by
  unfold State.draw
  split
  · split <;> rfl
  · rfl

theorem State.drawBytes_slots : (s.drawBytes n).1.vault.slots = s.vault.slots := by
  rw [State.drawBytes_eq, State.draw_slots, State.reseeded_vault]

theorem State.draw_rd (f : Fld) : (s.draw n).1.rd f = s.rd f := Keeps.rd (s := s) State.draw_keeps f 0 0 (by simp)

theorem State.drawBytes_busy : (s.drawBytes n).1.rd F.kvtStatBusy = s.rd F.kvtStatBusy := by
  rw [State.drawBytes_eq, State.draw_rd, State.reseeded, State.count_rd, State.bumpReg,
    State.rd_wr_apart _ _ _ _ _ _ (by decide) (by decide), State.seedDevice,
    State.rd_wr_apart _ _ _ _ _ _ (by decide) (by decide)]
  rfl

end Sys2Proof.Machine
end

section
/-! PROOF. Vault commands that write a slot (R302, R304, R305, R313). -/

namespace Sys2Proof.Machine

open Sys2Proof

variable {s t u : State} {c : VaultCmd} {v w : SlotNo} {n : Nat} {cyc : Cyc} {x : Slot}

theorem State.vaultCommit_cmd (h : c.waits = none) : (s.vaultCommit c x).vault.cmd = some (c.makes x) := by
  rw [State.vaultCommit, VaultCmd.makes, ← h]

/-- A slot's image is being committed while the engine stays busy. -/
theorem committing_closed (hbusy : u.rd F.kvtStatBusy = 1) (hc : c.waits = none) :
    (u.vaultCommit c x).closed.rd F.kvtStatBusy = 1 ∧ (u.vaultCommit c x).closed.vault.cmd = some (c.makes x) := by
  rw [State.closed_rd, State.closed_vault, State.vaultCommit_cmd hc]
  exact ⟨hbusy, rfl⟩

/-- A command has landed at `s` and keeps the engine busy. -/
def State.landed (s : State) (cyc : Cyc) (c : VaultCmd) : State := (s.at cyc).vaultBusy c

theorem State.landed_slot (v : Nat) : (s.landed cyc c).slot v = s.slot v := rfl
theorem State.landed_busy : (s.landed cyc c).rd F.kvtStatBusy = 1 := State.vaultBusy_busy
theorem State.landed_drbg : s.SameDrbg (s.landed cyc c) := ⟨rfl, rfl⟩

theorem State.landed_nvInhibited : (s.landed cyc c).nvInhibited = s.nvInhibited := by
  have hinhibit : (s.landed cyc c).on F.pwrStatNvInhibit = s.on F.pwrStatNvInhibit :=
    State.on_wr_apart (s := s.at cyc) _ 0 0 0 0 (by decide) (by decide)
  have hmode : (s.landed cyc c).mode = s.mode := State.rd_wr_apart (s := s.at cyc) _ 0 0 0 0 (by decide) (by decide)
  rw [State.nvInhibited, State.nvInhibited, hinhibit, hmode]

theorem State.landed_takeUse (n : Nat) : ((s.landed cyc c).takeUse n).2 = (s.takeUse n).2 :=
  State.takeUse_grant_congr rfl rfl State.landed_nvInhibited

/-- The state in which a use of slot `n`, granted to a command that has landed, lets the command go on. -/
def State.granted (s : State) (cyc : Cyc) (c : VaultCmd) (n : Nat) : State := ((s.landed cyc c).takeUse n).1

theorem State.granted_busy : (s.granted cyc c n).rd F.kvtStatBusy = 1 := by
  rw [State.granted, State.takeUse_rd, State.landed_busy]

theorem State.granted_slot (h : (s.takeUse n).2 = .granted) (m : Nat) :
    ∃ k, (s.granted cyc c n).slot m = { s.slot m with stock := k } :=
  State.takeUse_slot ((State.landed_takeUse n).trans h) m

theorem State.landed_vaultTake (h : (s.takeUse n).2 = .granted) :
    (s.landed cyc c).vaultTake c n = (s.granted cyc c n).vaultUse c :=
  State.vaultTake_of_granted ((State.landed_takeUse n).trans h)

/-! ### Commands that draw -/

theorem State.vaultRun_generate {due : Nat} {pass : Bool} (h : c.op = 1) : s.vaultRun c due pass =
    ((s.vaultBusy c).drawBytes (if c.long then 64 else 32)).1.vaultCommit c
      { present := true, type := c.type, hostUse := c.hostUse, expires := c.expires, long := c.long
        uses := c.uses, generation := (s.slot c.slot).generation + 1
        material := ((s.vaultBusy c).drawBytes (if c.long then 64 else 32)).2 } := by
  simp only [State.vaultRun, h]; rfl

theorem State.vaultRun_identity {due : Nat} {pass : Bool} (h : c.op = 11) : s.vaultRun c due pass =
    ((s.vaultBusy c).drawBytes 32).1.vaultCommit c
      { present := true, type := 2, uses := usesUnlimited, generation := (s.slot c.slot).generation + 1
        material := ((s.vaultBusy c).drawBytes 32).2 } := by
  simp only [State.vaultRun, h]; rfl

theorem State.vaultRun_officerImport {due : Nat} {pass : Bool} (h : c.op = 12) : s.vaultRun c due pass =
    (s.vaultBusy c).vaultCommit c
      { present := true, type := c.type, imported := true, exportable := c.exportable
        expires := c.expires, hostUse := c.hostUse, long := c.long, uses := c.uses
        generation := (s.slot c.slot).generation + 1, material := c.data } := by
  simp only [State.vaultRun, h]; rfl

/-- Drawn material is being committed. -/
theorem drawn_closed (hc : c.waits = none) :
    (((s.landed cyc c).drawBytes n).1.vaultCommit c x).closed.rd F.kvtStatBusy = 1 ∧
      (((s.landed cyc c).drawBytes n).1.vaultCommit c x).closed.vault.slots = s.vault.slots ∧
      (((s.landed cyc c).drawBytes n).1.vaultCommit c x).closed.vault.drbg = (s.drawBytes n).1.vault.drbg ∧
      (((s.landed cyc c).drawBytes n).1.vaultCommit c x).closed.vault.cmd = some (c.makes x) := by
  obtain ⟨hbusy, hcmd⟩ := committing_closed (u := ((s.landed cyc c).drawBytes n).1) (x := x)
    (State.drawBytes_busy.trans State.landed_busy) hc
  refine ⟨hbusy, ?_, ?_, hcmd⟩
  · rw [State.closed_vault]
    exact State.drawBytes_slots
  · rw [State.closed_vault]
    exact (State.drawBytes_congr State.landed_drbg).2

/-! ### Commands that use a parent -/

theorem State.vaultUse_derive (h : c.op = 2) : s.vaultUse c = s.vaultCommit c
    { present := true, type := c.type, imported := (s.slot c.aux).imported, hostUse := c.hostUse
      expires := c.expires || (s.slot c.aux).expires, long := c.long, depth := (s.slot c.aux).depth + 1, parent := some c.aux
      uses := c.uses, generation := (s.slot c.slot).generation + 1
      material := kdf (s.slot c.aux).key "heserok derive" (beBytes 2 c.slot ++ c.data.take c.ctxLen)
        (8 * if c.long then 64 else 32) } := by
  simp only [State.vaultUse, h]

/-- The slot image that an unwrapped blob `p` spells (R304). -/
def blobImage (p : List Byte) (generation : Nat) : Slot :=
  { present := true, type := byteAt p 0 % 16, imported := true, exportable := bit (byteAt p 1) 1
    expires := bit (byteAt p 1) 2, hostUse := bit (byteAt p 1) 3, long := bit (byteAt p 1) 4, uses := beAt p 4 4
    generation := generation, material := p.drop 16 }

/-- A blob that names a type that the host may import, of the length of its material, with uses (R296, R304). -/
abbrev blobOk (p : List Byte) : Prop :=
  (byteAt p 0 % 16 = 3 ∨ byteAt p 0 % 16 = 4 ∨ byteAt p 0 % 16 = 5) ∧
    p.length = (if bit (byteAt p 1) 4 then 80 else 48) ∧ beAt p 4 4 ≠ 0

theorem State.vaultUse_torn (h : c.op = 3) (hp : kwpUnwrap (s.slot c.aux).aesKey c.data = none) :
    s.vaultUse c = s.vaultEnd c 6 := by
  simp only [State.vaultUse, h, hp]

theorem State.vaultUse_whole {p : List Byte} (h : c.op = 3) (hc : c.officer = false)
    (hp : kwpUnwrap (s.slot c.aux).aesKey c.data = some p) :
    s.vaultUse c = if blobOk p then s.vaultCommit c (blobImage p ((s.slot c.slot).generation + 1)) else s.vaultEnd c 4 := by
  simp only [State.vaultUse, h, hp]
  by_cases hok : blobOk p
  · obtain ⟨htype, hlen, huses⟩ := hok
    have hlong : lengthOk (byteAt p 0 % 16) (bit (byteAt p 1) 4) = true := by
      rcases htype with h | h | h <;> rw [h] <;> rfl
    refine (if_neg ?_).trans (if_pos ⟨htype, hlen, huses⟩).symm
    simp [htype, hlong, hlen, huses]
  · refine (if_pos ?_).trans (if_neg hok).symm
    simp only [hc, Bool.false_and, Bool.or_false, Bool.or_eq_true, Bool.not_eq_true', decide_eq_false_iff_not,
      decide_eq_true_eq]
    simp only [blobOk] at hok
    tauto

/-- What the capture of a host command fixes, whatever its argument registers hold. -/
structure VaultCmd.Host (c : VaultCmd) (op slot aux : Nat) : Prop where
  op : c.op = op
  slot : c.slot = slot
  aux : c.aux = aux
  officer : c.officer = false
  waits : c.waits = none

theorem State.vaultCapture_host (op slot aux : Nat) : (s.vaultCapture op slot aux).Host op slot aux := ⟨rfl, rfl, rfl, rfl, rfl⟩

section
variable {i : Instr} {pass : Bool} (hready : s.ready .kvt = true) (hbusy : s.rd F.kvtStatBusy = 0)
  (hlands : LandsAs s i c cyc pass) (hcheck : s.vaultCheck c = 0)
include hready hbusy hlands hcheck

theorem runs_generate {aux : Nat} (hc : c.Host 1 v aux) :
    Runs i s (fun t => t.rd F.kvtStatBusy = 1 ∧ t.vault.slots = s.vault.slots ∧
      t.vault.drbg = (s.drawBytes (if c.long then 64 else 32)).1.vault.drbg ∧ t.vault.cmd = some (c.makes
        { present := true, type := c.type, hostUse := c.hostUse, expires := c.expires, long := c.long, uses := c.uses
          generation := (s.slot v).generation + 1
          material := (s.drawBytes (if c.long then 64 else 32)).2 })) := by
  refine runs_passed hready hbusy hlands hcheck ?_
  have hdrawn := (State.drawBytes_congr (n := if c.long then 64 else 32) (s.landed_drbg (cyc := cyc) (c := c))).1
  rw [State.vaultRun_generate hc.op, ← State.landed, ← hdrawn, State.at_slot, hc.slot]
  exact drawn_closed hc.waits

theorem runs_identity {aux : Nat} (hc : c.Host 11 v aux) :
    Runs i s (fun t => t.rd F.kvtStatBusy = 1 ∧ t.vault.slots = s.vault.slots ∧
      t.vault.drbg = (s.drawBytes 32).1.vault.drbg ∧ t.vault.cmd = some (c.makes
        { present := true, type := 2, uses := usesUnlimited, generation := (s.slot v).generation + 1
          material := (s.drawBytes 32).2 })) := by
  refine runs_passed hready hbusy hlands hcheck ?_
  have hdrawn := (State.drawBytes_congr (n := 32) (s.landed_drbg (cyc := cyc) (c := c))).1
  rw [State.vaultRun_identity hc.op, ← State.landed, ← hdrawn, State.at_slot, hc.slot]
  exact drawn_closed hc.waits

theorem runs_derive (hc : c.Host 2 v w) (hgrant : (s.takeUse w).2 = .granted) :
    Runs i s (fun t => t.rd F.kvtStatBusy = 1 ∧ t.vault.cmd = some (c.makes
      { present := true, type := c.type, imported := (s.slot w).imported, hostUse := c.hostUse
        expires := c.expires || (s.slot w).expires, long := c.long, depth := (s.slot w).depth + 1, parent := some w.val
        uses := c.uses, generation := (s.slot v).generation + 1
        material := kdf (s.slot w).key "heserok derive" (beBytes 2 v ++ c.data.take c.ctxLen)
          (8 * if c.long then 64 else 32) })) := by
  refine runs_passed hready hbusy hlands hcheck ?_
  obtain ⟨k, hparent⟩ := State.granted_slot (cyc := cyc) (c := c) hgrant w
  obtain ⟨k', hslot⟩ := State.granted_slot (cyc := cyc) (c := c) hgrant v
  have htake := State.landed_vaultTake (cyc := cyc) (c := c) hgrant
  rw [State.vaultRun_derive hc.op, hc.aux, ← State.landed, htake, State.vaultUse_derive hc.op, hc.aux, hc.slot, hparent, hslot]
  exact committing_closed State.granted_busy hc.waits

theorem runs_import (hc : c.Host 3 v w) (hgrant : (s.takeUse w).2 = .granted) :
    Runs i s (fun t =>
      (kwpUnwrap (s.slot w).aesKey c.data = none → t.rd F.kvtStatBusy = 0 ∧ t.rd F.kvtStatResult = 6 ∧ t.vault.cmd = none) ∧
      (∀ p, kwpUnwrap (s.slot w).aesKey c.data = some p →
        if blobOk p then
          t.rd F.kvtStatBusy = 1 ∧ t.vault.cmd = some (c.makes (blobImage p ((s.slot v).generation + 1)))
        else t.rd F.kvtStatBusy = 0 ∧ t.rd F.kvtStatResult = 4 ∧ t.vault.cmd = none)) := by
  refine runs_passed hready hbusy hlands hcheck ?_
  obtain ⟨k, hparent⟩ := State.granted_slot (cyc := cyc) (c := c) hgrant w
  obtain ⟨k', hslot⟩ := State.granted_slot (cyc := cyc) (c := c) hgrant v
  have htake := State.landed_vaultTake (cyc := cyc) (c := c) hgrant
  have hkey : ((s.granted cyc c w).slot c.aux).aesKey = (s.slot w).aesKey := by rw [hc.aux, hparent]; rfl
  rw [State.vaultRun_import hc.op, hc.aux, ← State.landed, htake]
  refine ⟨fun hp => ?torn, fun p hp => ?whole⟩
  case torn =>
    rw [State.vaultUse_torn hc.op (hkey ▸ hp)]
    have hend := ((s.granted cyc c w).vaultEnd_ended (out := []) hc.officer (r := 6) (by decide)).closed
    exact ⟨hend.busy, hend.result, hend.cmd⟩
  case whole =>
    rw [State.vaultUse_whole hc.op hc.officer (hkey ▸ hp), hc.slot, hslot]
    by_cases hok : blobOk p
    · rw [if_pos hok, if_pos hok]
      exact committing_closed State.granted_busy hc.waits
    · rw [if_neg hok, if_neg hok]
      have hend := ((s.granted cyc c w).vaultEnd_ended (out := []) hc.officer (r := 4) (by decide)).closed
      exact ⟨hend.busy, hend.result, hend.cmd⟩

end

/-- The officer's IMPORT commits the data that it brings (R302). -/
theorem runs_officerImport {arg uses : Word} {data : List Byte} (hbusy : s.rd F.kvtStatBusy = 0)
    (hsession : s.rd F.ofcStatSession = 1) (hcheck : s.vaultCheck c = 0) (hop : c.op = 12) (hslot : c.slot = v)
    (hdata : c.data = data) (hwaits : c.waits = none)
    (hlands : (s.on F.ofcStatSession = true → exec (.importSlot v arg uses data cyc) s = done ((s.at cyc).vaultOfficer c cyc))) :
    Runs (.importSlot v arg uses data cyc) s (fun t => t.rd F.kvtStatBusy = 1 ∧ t.vault.slots = s.vault.slots ∧
      t.vault.cmd = some (c.makes
        { present := true, type := c.type, imported := true, exportable := c.exportable, expires := c.expires
          hostUse := c.hostUse, long := c.long, uses := c.uses, generation := (s.slot v).generation + 1
          material := data })) := by
  refine runs_of_done (hlands (by simp [State.on, hsession])) ?_
  rw [State.vaultOfficer, if_neg (by simp [State.on, hbusy]), State.vaultStart_of_pass ((State.at_vaultCheck cyc).trans hcheck),
    State.vaultRun_officerImport hop, State.at_slot, hslot, hdata]
  obtain ⟨hbusy', hcmd⟩ := committing_closed (u := s.landed cyc c) (x := _) State.landed_busy hwaits
  refine ⟨hbusy', ?_, hcmd⟩
  rw [State.closed_vault]
  rfl

/-- On the host path there is no authority for a plain import (R302). -/
theorem State.vaultCheck_hostImport (h9 : s.mode ≠ 9) (h10 : s.mode ≠ 10) {aux : Nat} (hc : c.Host 12 v aux) :
    s.vaultCheck c = 2 := by
  have hauthority : s.vaultAuthority c = false := by simp [State.vaultAuthority, hc.op, hc.officer]
  rw [State.vaultCheck, if_neg (not_or.mpr ⟨h9, h10⟩), if_neg (by rw [hc.op]; decide), hauthority]
  rfl

/-- Settles O45: each command that writes a slot, at the end of its use, its draw or its blob, commits the image that the
statement spells. -/
theorem vaultCommandsCommit : Obligations.VaultCommandsCommit := by
  unfold Obligations.VaultCommandsCommit
  intro s v w cyc hready hbusy
  refine ⟨?generate, ?identity, ?derive, ?blob, ?officer, ?host⟩
  case generate =>
    intro c hc hcheck
    exact runs_generate hready hbusy (pass := true) (by rw [hc]; rfl) hcheck (hc ▸ s.vaultCapture_host 1 v 0)
  case identity =>
    intro c hc hcheck
    exact runs_identity hready hbusy (pass := true) (by rw [hc]; rfl) hcheck (hc ▸ s.vaultCapture_host 11 v 0)
  case derive =>
    intro c hc hcheck hgrant
    exact runs_derive hready hbusy (pass := true) (by rw [hc]; rfl) hcheck (hc ▸ s.vaultCapture_host 2 v w) hgrant
  case blob =>
    intro c hc hcheck hgrant
    exact runs_import hready hbusy (pass := true) (by rw [hc]; rfl) hcheck (hc ▸ s.vaultCapture_host 3 v w) hgrant
  case officer =>
    intro arg uses data c hsession hc hcheck
    exact runs_officerImport hbusy hsession hcheck (by rw [hc]) (by rw [hc]) (by rw [hc]) (by rw [hc])
      (fun h => by rw [hc]; exact congrArg done (if_pos h))
  case host =>
    intro arg uses data hsession h9 h10
    have hc := s.vaultCapture_host 12 v 0
    have htwo := State.vaultCheck_hostImport h9 h10 hc
    have hlands : LandsAs s (.importSlot v arg uses data cyc) (s.vaultCapture 12 v 0) cyc :=
      congrArg done (if_neg (by simp [State.on, hsession]))
    obtain ⟨t, hexec, hresult, -, hslots, hcmd, -⟩ := runs_refused hready hbusy hlands rfl (by rw [htwo]; decide)
    exact ⟨t, hexec, hresult.trans htwo, hslots, hcmd⟩

end Sys2Proof.Machine
end

section
/-! PROOF. READ_CERT while the host is not ready (R302, R470): the result that it is refused with is counted, and a count
that saturates interrupts. -/

namespace Sys2Proof.Machine

open Sys2Proof

/-- Counter 0 of KVT counts the commands that failed, and the next one saturates it; PMC interrupts at a saturation, and
its vector is not masked. The host is not ready. -/
def nearSaturation : State :=
  { ((State.reset.wr (F.pageReady .kvt) 1).wr (F.cntSelect .kvt 0) 2).wr F.pmcIntIntEn 1 with
    rep := { ctrs := [(ctrKey .kvt 0 0, { live := 2 ^ 48 - 2 })] }
    msix := { table := [(3, 0)] } }

theorem nearSaturation_inv : nearSaturation.Inv where
  keys := AsnTable.empty_settled
  regs := by unfold State.regsOk; decide +kernel

theorem nearSaturation_sends :
    (((nearSaturation.at 0).vaultLand (nearSaturation.vaultCapture 7 1 0) 0).closed.out).length = 1 := by decide +kernel

/-- Refutes O46: with the host not ready READ_CERT writes no host memory, but the failure that it is counted as may saturate
a counter, whose interrupt then leaves the device. -/
theorem not_vaultCommandsAnswer : ¬ Obligations.VaultCommandsAnswer := by
  unfold Obligations.VaultCommandsAnswer
  intro h
  obtain ⟨-, -, hcert, -⟩ := h.1 nearSaturation 0 0 0 (by decide +kernel) (by decide +kernel)
  obtain ⟨t, hexec, -, -, hout⟩ := hcert (by decide +kernel)
  have ht : t = ((nearSaturation.at 0).vaultLand (nearSaturation.vaultCapture 7 1 0) 0).closed :=
    (Host.Outcome.next.inj hexec).symm
  rw [if_neg (by decide +kernel), ht] at hout
  have hnone := congrArg List.length hout.2
  rw [nearSaturation_sends] at hnone
  exact absurd hnone (by decide)

end Sys2Proof.Machine
end

section
/-! SUPPORT. The messages of the Officer Port (R437, R439): what a message heard leaves, and the RESULT that answers it. -/

namespace Sys2Proof.Machine

open Sys2Proof

variable {s t u : State} {m : OfcMsg} {type n : Nat} {p : List Byte} {f : List Byte → State → State}

/-! ### A message heard -/

/-- A message of the token heard: it is counted, and the next number is expected (R437). -/
def State.ofcHeard (s : State) : State :=
  let s := s.count .ofc 0 3
  s.modOfc (fun o => { o with seqIn := o.seqIn + 1, lastMsg := s.tick })

@[simp] theorem State.ofcHeard_officer :
    s.ofcHeard.officer = { s.officer with seqIn := s.officer.seqIn + 1, lastMsg := s.tick } := by
  simp [State.ofcHeard]
@[simp] theorem State.ofcHeard_word (k : RegKey) : s.ofcHeard.word k = s.word k := by simp [State.ofcHeard]
@[simp] theorem State.ofcHeard_rd (g : Fld) (i o : Nat) : s.ofcHeard.rd g i o = s.rd g i o := by simp [State.ofcHeard]
@[simp] theorem State.ofcHeard_on (g : Fld) (i o : Nat) : s.ofcHeard.on g i o = s.on g i o := by simp [State.ofcHeard]
@[simp] theorem State.ofcHeard_mode : s.ofcHeard.mode = s.mode := by simp [State.ofcHeard]
@[simp] theorem State.ofcHeard_vault : s.ofcHeard.vault = s.vault := by simp [State.ofcHeard]
@[simp] theorem State.ofcHeard_slot (v : Nat) : s.ofcHeard.slot v = s.slot v := by simp [State.ofcHeard]
@[simp] theorem State.ofcHeard_tamper : s.ofcHeard.tamper = s.tamper := by simp [State.ofcHeard]
@[simp] theorem State.ofcHeard_pwr : s.ofcHeard.pwr = s.pwr := by simp [State.ofcHeard]
@[simp] theorem State.ofcHeard_tick : s.ofcHeard.tick = s.tick := by simp [State.ofcHeard]
@[simp] theorem State.ofcHeard_fresh : s.ofcHeard.fresh = s.fresh := by simp [State.ofcHeard]
@[simp] theorem State.ofcHeard_out : s.ofcHeard.out = s.out := by simp [State.ofcHeard]
@[simp] theorem State.ofcHeard_nvInhibited : s.ofcHeard.nvInhibited = s.nvInhibited := by simp [State.nvInhibited]

theorem State.ofcHeard_regsBut (ks : List RegKey) : s.regsBut s.ofcHeard ks :=
  State.regsBut_of_word (fun k => s.ofcHeard_word k) (State.regsBut_refl s ks)

/-! ### What becomes of a message -/

/-- The types that are refused outside a session (R437, R439). -/
abbrev ofSession (type : Nat) : Prop := 0x10 ≤ type ∧ type ≤ 0x17

/-- A message that the port does not hear is at most counted. -/
theorem State.officerRecv_discarded
    (h : s.ready .ofc = false ∨ s.on F.ofcStatPresent = false ∨ officerCrcOk type m = false ∨ m.seq.val ≠ s.officer.seqIn) :
    Keeps (mask [.rep]) s (s.officerRecv type m f) := by
  have hcount : Keeps (mask [.rep]) s (s.count .ofc 0 3) := State.count_keeps
  have hofficer : (s.count .ofc 0 3).officer = s.officer := State.count_officer ..
  unfold State.officerRecv
  split
  · exact .refl _
  next hport =>
  extract_lets c
  split
  · exact .step State.count_keeps (by rfl) hcount
  next hcrc =>
  split
  · exact hcount
  next hseq =>
  have hnext : m.seq.val = s.officer.seqIn := by rw [← hofficer]; exact not_not.mp hseq
  simp [hnext] at h hport hcrc
  rcases h with h | h | h <;> simp [h] at hport hcrc

theorem State.officerRecv_of_hears (h : s.hears m type) : s.officerRecv type m f =
    (if ofSession type ∧ s.on F.ofcStatSession = false then s.ofcHeard.officerResult 2
     else if ofSession type ∧ type ≠ 0x12 then
      let key := keyOfBytes s.officer.key
      let aad := officerHeader type true m.body.length m.seq.val
      let ct := m.body.take (m.body.length - 16)
      if m.isSealed && decide (16 ≤ m.body.length) &&
          decide (gcmTag key (State.officerIv m) aad ct = m.body.drop (m.body.length - 16)) then
        f (gcmCrypt key (State.officerIv m) ct) s.ofcHeard
      else s.ofcHeard
     else f m.body s.ofcHeard) := by
  obtain ⟨hready, hpresent, hcrc, hseq⟩ := h
  have hheard : ((s.count .ofc 0 3).modOfc
      (fun o => { o with seqIn := o.seqIn + 1, lastMsg := (s.count .ofc 0 3).tick })) = s.ofcHeard := rfl
  rw [State.officerRecv, if_neg (by simp [hready, hpresent]), if_neg (by simp [hcrc]), if_neg (by simpa using hseq)]
  simp only [hheard, State.ofcHeard_on, State.ofcHeard_officer, Bool.and_eq_true, decide_eq_true_eq, Bool.not_eq_true']
  rfl

/-- Outside a session a message of one is refused with status 2 (R437). -/
theorem State.officerRecv_outside (h : s.hears m type) (htype : ofSession type) (hout : s.on F.ofcStatSession = false) :
    s.officerRecv type m f = s.ofcHeard.officerResult 2 := by
  rw [State.officerRecv_of_hears h, if_pos ⟨htype, hout⟩]

/-- A message that is not sealed comes to `f` as it is. -/
theorem State.officerRecv_plain (h : s.hears m type) (hin : ofSession type → s.on F.ofcStatSession = true)
    (htype : ofSession type → type = 0x12) : s.officerRecv type m f = f m.body s.ofcHeard := by
  rw [State.officerRecv_of_hears h, if_neg, if_neg]
  · exact fun ⟨h1, h2⟩ => h2 (htype h1)
  · rintro ⟨h1, h2⟩
    rw [hin h1] at h2
    nomatch h2

theorem length_gcmTag (key : BitVec 256) (iv : BitVec 96) (aad ct : List Byte) : (gcmTag key iv aad ct).length = 16 :=
  length_beBytes ..

/-- A sealed message comes to `f` opened. -/
theorem State.officerRecv_of_carries (h : s.carries m type p) (htype : ofSession type) (hne : type ≠ 0x12) :
    s.officerRecv type m f = f p s.ofcHeard := by
  obtain ⟨hhears, hsession, hsealed, ct, hbody, rfl⟩ := h
  have hlen : m.body.length = ct.length + 16 := by rw [hbody, List.length_append, length_gcmTag]
  have hct : m.body.take (m.body.length - 16) = ct := by
    rw [hlen, hbody, Nat.add_sub_cancel, List.take_left]
  have hdrop : m.body.drop (m.body.length - 16) =
      gcmTag (keyOfBytes s.officer.key) (State.officerIv m) (State.officerAad m type ct.length) ct := by
    rw [hlen, Nat.add_sub_cancel, hbody, List.drop_left]
  have haad : officerHeader type true m.body.length m.seq.val = State.officerAad m type ct.length := by rw [hlen]; rfl
  rw [State.officerRecv_of_hears hhears, if_neg (by simp [hsession]), if_pos ⟨htype, hne⟩]
  extract_lets key aad ct'
  have hct' : ct' = ct := hct
  have haad' : aad = State.officerAad m type ct.length := haad
  have hlong : 16 ≤ m.body.length := by omega
  rw [if_pos]
  · rw [hct']
  · rw [hdrop, hct', haad']
    simp [hsealed, hlong, key]

/-! ### The RESULT -/

@[simp] theorem State.officerResult_word (status : Nat) (k : RegKey) : (s.officerResult status p).word k = s.word k := rfl
@[simp] theorem State.officerResult_rd (status : Nat) (g : Fld) (i o : Nat) : (s.officerResult status p).rd g i o = s.rd g i o := rfl
@[simp] theorem State.officerResult_mode (status : Nat) : (s.officerResult status p).mode = s.mode := rfl
@[simp] theorem State.officerResult_vault (status : Nat) : (s.officerResult status p).vault = s.vault := rfl
@[simp] theorem State.officerResult_tamper (status : Nat) : (s.officerResult status p).tamper = s.tamper := rfl
@[simp] theorem State.officerResult_pwr (status : Nat) : (s.officerResult status p).pwr = s.pwr := rfl
@[simp] theorem State.officerResult_evt (status : Nat) (g : Fld) (i : Nat) :
    (s.officerResult status p).evt g i = s.evt g i := rfl
@[simp] theorem State.officerResult_officer (status : Nat) :
    (s.officerResult status p).officer = { s.officer with seqOut := s.officer.seqOut + 1 } := rfl

theorem State.officerResult_regsBut {status : Nat} {ks : List RegKey} (h : s.regsBut t ks) :
    s.regsBut (t.officerResult status p) ks :=
  State.regsBut_of_word (fun _ => rfl) h

/-- A message leaves with its number. -/
theorem sends_officerSend {body : List Byte} (hout : u.out = s.out) (hn : u.officer.seqOut = n) :
    s.sends (u.officerSend type body).closed (.officer (officerBytes type n body)) := by
  rw [← hn]
  exact State.sends_emit _ hout

/-- A RESULT leaves with the number of the next message out. -/
theorem sends_result {status : Nat} (hout : u.out = s.out) (hn : u.officer.seqOut = n) :
    s.sends (u.officerResult status p).closed (.officer (officerBytes 4 n (BitVec.ofNat 8 status :: p))) :=
  sends_officerSend hout hn

end Sys2Proof.Machine
end

section
/-! PROOF. The messages of an officer session (R313, R430 to R439). -/

namespace Sys2Proof.Machine

open Sys2Proof

variable {s t u : State} {m : OfcMsg} {i : Instr} {type n : Nat} {p : List Byte} {f : List Byte → State → State} {cyc : Cyc}
  {P : State → Prop}

/-- A sealed message of a session runs its operation on what it carries. -/
theorem runs_carried (hc : s.carries m type p) (hexec : exec i s = done (s.officerRecv type m f))
    (hu : f p s.ofcHeard = u) (h : P u.closed) (htype : ofSession type := by decide) (hne : type ≠ 0x12 := by decide) : Runs i s P := by
  refine runs_of_done hexec ?_
  rw [State.officerRecv_of_carries hc htype hne, hu]
  exact h

/-- A RESULT after operations that sent nothing. -/
theorem answered {status : Nat} (hn : n = s.officer.seqOut) (hout : u.out = s.out) (hseq : u.officer.seqOut = s.officer.seqOut) :
    s.sends (u.officerResult status p).closed (.officer (officerBytes 4 n (BitVec.ofNat 8 status :: p))) :=
  sends_result hout (hseq.trans hn.symm)

theorem answered_heard {status : Nat} (hn : n = s.officer.seqOut) :
    s.sends (s.ofcHeard.officerResult status p).closed (.officer (officerBytes 4 n (BitVec.ofNat 8 status :: p))) :=
  answered hn State.ofcHeard_out (by rw [State.ofcHeard_officer])

/-! ### The certificate (R313) -/

/-- A fragment of the certificate stored. -/
def State.storeCert (s : State) (p : List Byte) : State :=
  { s.modOfc (fun o => { o with cert := s.officer.cert ++ p }) with
    vault := { s.vault with cert := s.officer.cert ++ p } }

theorem State.storeCert_officer : (s.storeCert p).officer = { s.officer with cert := s.officer.cert ++ p } := rfl
theorem State.storeCert_vault : (s.storeCert p).vault = { s.vault with cert := s.officer.cert ++ p } := rfl
theorem State.storeCert_out : (s.storeCert p).out = s.out := rfl
theorem State.storeCert_word (k : RegKey) : (s.storeCert p).word k = s.word k := rfl

theorem runs_certWrite (hn : n = s.officer.seqOut) (hc : s.carries m 0x11 p) (hnv : s.nvInhibited = false)
    (hlen : s.officer.cert.length + p.length ≤ 16384) :
    Runs (.certWrite m) s (fun t => t.officer.cert = s.officer.cert ++ p ∧
      t.vault = { s.vault with cert := s.officer.cert ++ p } ∧
      s.sends t (.officer (officerBytes 4 n [0])) ∧ s.regsBut t []) := by
  refine runs_carried (u := (s.ofcHeard.storeCert p).officerResult 0) hc rfl
    ((if_neg (by simp [hnv])).trans (if_neg (by simpa using hlen))) ?_
  refine ⟨?_, ?_, answered hn ?_ ?_, ?_⟩
  · rw [State.closed_officer, State.officerResult_officer, State.storeCert_officer, State.ofcHeard_officer]
  · rw [State.closed_vault, State.officerResult_vault, State.storeCert_vault, State.ofcHeard_vault, State.ofcHeard_officer]
  · rw [State.storeCert_out, State.ofcHeard_out]
  · rw [State.storeCert_officer, State.ofcHeard_officer]
  · exact State.closed_regsBut (State.officerResult_regsBut
      (State.regsBut_of_word State.storeCert_word (State.ofcHeard_regsBut _)))

/-- A refusal of CERT_WRITE stores nothing. -/
theorem refused_heard {status : Nat} (hn : n = s.officer.seqOut) :
    (s.ofcHeard.officerResult status).closed.vault = s.vault ∧
      s.sends (s.ofcHeard.officerResult status).closed (.officer (officerBytes 4 n [BitVec.ofNat 8 status])) ∧
      s.regsBut (s.ofcHeard.officerResult status).closed [] := by
  refine ⟨?_, answered_heard hn, State.closed_regsBut (State.officerResult_regsBut (State.ofcHeard_regsBut _))⟩
  rw [State.closed_vault, State.officerResult_vault, State.ofcHeard_vault]

theorem runs_certWrite_inhibited (hn : n = s.officer.seqOut) (hc : s.carries m 0x11 p) (hnv : s.nvInhibited = true) :
    Runs (.certWrite m) s (fun t => t.vault = s.vault ∧ s.sends t (.officer (officerBytes 4 n [9])) ∧ s.regsBut t []) := by
  refine runs_carried hc rfl (if_pos (by simp [hnv])) ?_
  exact refused_heard hn

theorem runs_certWrite_long (hn : n = s.officer.seqOut) (hc : s.carries m 0x11 p) (hnv : s.nvInhibited = false)
    (hlen : 16384 < s.officer.cert.length + p.length) :
    Runs (.certWrite m) s (fun t => t.vault = s.vault ∧ s.sends t (.officer (officerBytes 4 n [4])) ∧ s.regsBut t []) := by
  refine runs_carried hc rfl ((if_neg (by simp [hnv])).trans (if_pos (by simpa using hlen))) ?_
  exact refused_heard hn

theorem runs_certRead (hn : n = s.officer.seqOut) (hh : s.hears m 0x12) (hsession : s.on F.ofcStatSession = true) :
    Runs (.certRead m) s (fun t => t.vault = s.vault ∧ s.sends t (.officer (officerBytes 4 n (0 :: s.vault.cert))) ∧
      s.regsBut t []) := by
  refine runs_of_done rfl ?_
  rw [State.officerRecv_plain hh (fun _ => hsession) (fun _ => rfl)]
  simp only [State.ofcHeard_vault]
  refine ⟨?_, answered_heard hn, State.closed_regsBut (State.officerResult_regsBut (State.ofcHeard_regsBut _))⟩
  rw [State.closed_vault, State.officerResult_vault, State.ofcHeard_vault]

/-! ### ACK (R37, R434) -/

/-- The hold ends, and what the log holds is acknowledged. -/
def State.acked (s : State) : State :=
  let s := (s.wr F.tmpDeferDeferred 0).modPwr (fun p => { p with held := false })
  let s := s.modTamper (fun t => { t with lineHold := false, ackedLog := t.log.length })
  if s.mode = 3 then s.setMode 2 else s

theorem State.acked_parts : s.acked.rd F.tmpDeferDeferred = 0 ∧ s.acked.pwr.held = false ∧ s.acked.tamper.lineHold = false ∧
    s.acked.tamper.ackedLog = s.tamper.log.length ∧ s.acked.mode = (if s.mode = 3 then 2 else s.mode) ∧
    s.acked.out = s.out ∧ s.acked.officer = s.officer := by
  have hmode : ((s.wr F.tmpDeferDeferred 0).modPwr (fun p => { p with held := false })).mode = s.mode := by
    rw [State.modPwr_mode]
    exact State.rd_wr_apart (f := F.tmpDeferDeferred) (g := F.devModeMode) s 0 0 0 0 0 (by decide) (by decide)
  have hzero : (s.wr F.tmpDeferDeferred 0).rd F.tmpDeferDeferred = 0 := State.rd_wr_self _ 0 0 0 (by decide)
  unfold State.acked
  simp only [State.modTamper_mode, hmode]
  split
  · refine ⟨?_, ?_, ?_, ?_, State.setMode_mode (by decide), ?_, ?_⟩
    · rw [State.setMode_deferred, State.modTamper_rd, State.modPwr_rd, hzero]
    all_goals simp
  · refine ⟨?_, ?_, ?_, ?_, ?_, ?_, ?_⟩
    · rw [State.modTamper_rd, State.modPwr_rd, hzero]
    case refine_5 => rw [State.modTamper_mode, hmode]
    all_goals simp

theorem runs_ack (hn : n = s.officer.seqOut) (hc : s.carries m 0x13 p) :
    Runs (.ack m) s (fun t => t.rd F.tmpDeferDeferred = 0 ∧ t.pwr.held = false ∧ t.tamper.lineHold = false ∧
      t.tamper.ackedLog = s.tamper.log.length ∧ t.evt F.ofcEvtAck = 1 ∧ t.mode = (if s.mode = 3 then 2 else s.mode) ∧
      s.sends t (.officer (officerBytes 4 n [0]))) := by
  refine runs_carried (u := (s.ofcHeard.acked.event F.ofcEvtAck).officerResult 0) hc rfl rfl ?_
  obtain ⟨hdefer, hheld, hhold, hlog, hmode, hout, hofficer⟩ := s.ofcHeard.acked_parts
  refine ⟨?_, ?_, ?_, ?_, ?_, ?_, answered hn ?_ ?_⟩
  · simp [hdefer]
  · simp [hheld]
  · simp [hhold]
  · simp [hlog]
  · rw [State.closed_evt _ _ _ (by decide), State.officerResult_evt]
    exact State.event_evt_self _ _ (by decide) (by decide)
  · simp [hmode]
  · simp [hout]
  · simp [hofficer]

/-! ### The other messages -/

theorem runs_clearFlags (hn : n = s.officer.seqOut) (hc : s.carries m 0x14 p) :
    Runs (.clearFlags m) s (fun t => t.rd F.tmpFlagsEnv = s.rd F.tmpFlagsEnv &&& (~~~ Config.flagsMask p).toNat ∧
      s.sends t (.officer (officerBytes 4 n [0])) ∧ s.regsBut t [keyOf F.tmpFlagsEnv]) := by
  refine runs_carried hc rfl rfl ?_
  refine ⟨?_, answered hn (by simp) (by simp), State.closed_regsBut (State.officerResult_regsBut
    (State.regsBut_wr _ (State.ofcHeard_regsBut _) (List.mem_singleton_self _)))⟩
  have hlt : s.rd F.tmpFlagsEnv &&& (~~~ Config.flagsMask p).toNat < 2 ^ F.tmpFlagsEnv.w :=
    Nat.lt_of_le_of_lt Nat.and_le_left (getF_lt_two_pow ..)
  rw [State.closed_rd, State.officerResult_rd, State.ofcHeard_rd, State.rd_wr_of_lt _ _ (by decide) hlt]

/-- An entry of the tamper log, while it has room (R431). -/
theorem State.logTamper_of_room {e : Word × Word} (h : s.tamper.log.length < 512) :
    (s.logTamper e).tamper = { s.tamper with log := s.tamper.log ++ [e] } ∧
      s.regsBut (s.logTamper e) [keyOf F.tmpLogCntEntries] := by
  rw [State.logTamper, if_pos h]
  refine ⟨by simp, State.regsBut_wr _ (State.regsBut_of_word (fun k => ?_) (State.regsBut_refl s _)) (List.mem_singleton_self _)⟩
  simp

theorem runs_note (hn : n = s.officer.seqOut) (hc : s.carries m 0x15 p) (hroom : s.tamper.log.length < 512) :
    Runs (.note m) s (fun t => t.tamper.log = s.tamper.log ++ [logEntry s.tamper.brtc 31 0 false s.mode] ∧
      s.sends t (.officer (officerBytes 4 n [0])) ∧ s.regsBut t [keyOf F.tmpLogCntEntries]) := by
  refine runs_carried hc rfl rfl ?_
  simp only [State.ofcHeard_tamper, State.ofcHeard_mode]
  obtain ⟨hlog, hregs⟩ := s.ofcHeard.logTamper_of_room (e := logEntry s.tamper.brtc 31 0 false s.mode) (by simpa using hroom)
  have hout : (s.ofcHeard.logTamper (logEntry s.tamper.brtc 31 0 false s.mode)).out = s.ofcHeard.out := by
    rw [State.logTamper, if_pos (by simpa using hroom)]
    simp
  refine ⟨?_, answered hn (hout.trans State.ofcHeard_out) ?_, State.closed_regsBut (State.officerResult_regsBut
    (State.regsBut_trans (State.ofcHeard_regsBut _) hregs))⟩
  · rw [State.closed_tamper, State.officerResult_tamper, hlog, State.ofcHeard_tamper]
  · have hofficer : (s.ofcHeard.logTamper (logEntry s.tamper.brtc 31 0 false s.mode)).officer = s.ofcHeard.officer :=
      State.logTamper_keeps.frame .officer (by decide)
    rw [hofficer, State.ofcHeard_officer]

theorem runs_setBrtc (hn : n = s.officer.seqOut) (hc : s.carries m 0x16 p) :
    Runs (.setBrtc m) s (fun t => t.tamper = { s.tamper with brtc := beAt p 0 4 * 65536 + beAt p 4 2 } ∧
      s.sends t (.officer (officerBytes 4 n [0])) ∧ s.regsBut t []) := by
  refine runs_carried hc rfl rfl ?_
  refine ⟨by simp, answered hn (by simp) (by simp), State.closed_regsBut (State.officerResult_regsBut
    (State.regsBut_of_word (fun _ => rfl) (State.ofcHeard_regsBut _)))⟩

theorem runs_unlockCfg (hn : n = s.officer.seqOut) (hc : s.carries m 0x17 p) :
    Runs (.unlockCfg m) s (fun t => t.rd F.tmpCfgCfgLock = 0 ∧ s.sends t (.officer (officerBytes 4 n [0])) ∧
      s.regsBut t [keyOf F.tmpCfgCfgLock]) := by
  refine runs_carried hc rfl rfl ?_
  refine ⟨?_, answered hn (by simp) (by simp), State.closed_regsBut (State.officerResult_regsBut
    (State.regsBut_wr _ (State.ofcHeard_regsBut _) (List.mem_singleton_self _)))⟩
  rw [State.closed_rd, State.officerResult_rd, State.rd_wr_self _ _ _ _ (by decide), Nat.zero_mod]

/-- The end of a session (R438). -/
theorem State.endSession_parts : s.endSession.rd F.ofcStatSession = 0 ∧ s.endSession.officer.key = [] ∧
    s.regsBut s.endSession [keyOf F.ofcStatSession] := by
  refine ⟨?_, ?_, State.regsBut_of_word (State.modOfc_word _ _)
    (State.regsBut_wr (s := s) 0 (State.regsBut_refl s _) (List.mem_singleton_self _))⟩
  · rw [State.endSession, State.modOfc_rd]
    exact State.rd_wr_self s 0 0 0 (by decide)
  · rw [State.endSession, State.modOfc_officer]

theorem runs_endSession (hh : s.hears m 0x1F) :
    Runs (.endSession m) s (fun t => t.rd F.ofcStatSession = 0 ∧ t.officer.key = [] ∧ s.regsBut t [keyOf F.ofcStatSession]) := by
  refine runs_of_done rfl ?_
  rw [State.officerRecv_plain hh (fun h => absurd h (by decide)) (fun h => absurd h (by decide))]
  obtain ⟨hsession, hkey, hregs⟩ := s.ofcHeard.endSession_parts
  exact ⟨by rw [State.closed_rd, hsession], by rw [State.closed_officer, hkey],
    State.closed_regsBut (State.regsBut_trans (State.ofcHeard_regsBut _) hregs)⟩

end Sys2Proof.Machine
end

section
/-! PROOF. Vault commands of the officer, and the messages of a session together (R302, R437, R439). -/

namespace Sys2Proof.Machine

open Sys2Proof

variable {s t u : State} {m : OfcMsg} {c : VaultCmd} {n r : Nat} {p out : List Byte} {cyc : Cyc}

/-! ### How an officer's command ends -/

/-- The checks of R302 read the registers and the slots. -/
theorem State.vaultCheck_congr (hword : ∀ k, u.word k = s.word k) (hslots : u.vault.slots = s.vault.slots) :
    u.vaultCheck c = s.vaultCheck c := by
  have hrd (f : Fld) : u.rd f = s.rd f := by rw [State.rd, State.rd, hword]
  have hon (f : Fld) : u.on f = s.on f := by rw [State.on, State.on, hrd]
  have hmode : u.mode = s.mode := hrd _
  have hslot (v : Nat) : u.slot v = s.slot v := by rw [State.slot, State.slot, hslots]
  have hnv : u.nvInhibited = s.nvInhibited := by rw [State.nvInhibited, State.nvInhibited, hon, hmode]
  have husable (v type : Nat) : u.slotUsable v type = s.slotUsable v type := by
    rw [State.slotUsable, State.slotUsable, State.slotStands, State.slotStands, hslot]
  have hauthority : u.vaultAuthority c = s.vaultAuthority c := by
    rw [State.vaultAuthority, State.vaultAuthority, hslot, hon]
  have hslotOk : u.vaultSlotOk c = s.vaultSlotOk c := by rw [State.vaultSlotOk, State.vaultSlotOk, hslot]
  rw [State.vaultCheck, State.vaultCheck, hmode, hauthority, hslotOk, husable, husable, husable, hslot, hslot, hnv, hon]

/-- A command that its checks refuse ends with their result, with at most an event or a count before. -/
theorem State.vaultStart_refused {due : Nat} {pass : Bool} (h : s.vaultCheck c ≠ 0) :
    ∃ u, Keeps (mask [.rep]) s u ∧ s.vaultStart c due pass = u.vaultEnd c (s.vaultCheck c) := by
  unfold State.vaultStart
  split
  · next h0 => exact absurd h0 h
  · next h10 => exact ⟨_, State.kvtEvent_keeps, by rw [h10]⟩
  · next h5 =>
    have hcount : Keeps (mask [.rep]) s
        (onlyIf (s.slot (if c.op = 6 then 0 else c.aux)).expired (fun s => s.count .kvt 0 4) s) :=
      .onlyIf (fun _ => .step State.count_keeps (by rfl) (.refl _)) (.refl _)
    exact ⟨_, hcount, by rw [h5]⟩
  · exact ⟨s, .refl s, rfl⟩

/-- The end of an officer's command: the engine is freed, and the RESULT says how it ended (R302, R439). -/
theorem State.vaultEnd_of_officer (h : c.officer = true) :
    s.vaultEnd c r out = ((s.vaultFree c r).wr F.kvtStatBusy 0).officerResult r out := by
  unfold State.vaultEnd
  extract_lets v freed k given counted shown zeroed
  have hfree : counted = s.vaultFree c r := rfl
  rw [if_pos h, hfree]

theorem State.vaultFree_keeps : Keeps (mask [.rep, .vault, .kindle]) s (s.vaultFree c r) := by
  have hgive : Keeps (mask [.rep, .vault, .kindle]) s (s.noCmd.unitBack c) := by
    unfold State.unitBack
    refine .ite (.step Keeps.set_kindle (by rfl) ?_) ?_ <;> exact .step Keeps.set_vault (by rfl) (.refl _)
  exact .step State.countEnd_keeps (by rfl) hgive

/-- What an officer's command leaves that ended at `u`, where nothing but counts and the engine differs from `s`. -/
theorem officer_ended (hc : c.officer = true) (hn : n = s.officer.seqOut) (hslots : u.vault.slots = s.vault.slots)
    (hout : u.out = s.out) (hseq : u.officer.seqOut = s.officer.seqOut) :
    (u.vaultEnd c r out).closed.rd F.kvtStatBusy = 0 ∧ (u.vaultEnd c r out).closed.vault.cmd = none ∧
      (u.vaultEnd c r out).closed.vault.slots = s.vault.slots ∧
      s.sends (u.vaultEnd c r out).closed (.officer (officerBytes 4 n (BitVec.ofNat 8 r :: out))) := by
  have houtFree : (u.vaultFree c r).out = u.out := State.vaultFree_keeps.frame .out (by decide)
  have hofficer : (u.vaultFree c r).officer = u.officer := State.vaultFree_keeps.frame .officer (by decide)
  rw [State.vaultEnd_of_officer hc]
  refine ⟨?_, ?_, ?_, answered hn ?_ ?_⟩
  · rw [State.closed_rd, State.officerResult_rd, State.rd_wr_self _ _ _ _ (by decide), Nat.zero_mod]
  · rw [State.closed_vault, State.officerResult_vault, State.wr_vault, State.vaultFree_vault]
  · rw [State.closed_vault, State.officerResult_vault, State.wr_vault, State.vaultFree_vault, ← hslots]
  · rw [State.wr_out, houtFree, hout]
  · rw [State.wr_officer, hofficer, hseq]

/-! ### VAULT -/

theorem State.at_carries {type : Nat} : (s.at cyc).carries m type p ↔ s.carries m type p := Iff.rfl

/-- A VAULT message heard, its command on its way to the engine. -/
def State.vaultHeard (s : State) (cyc : Cyc) : State := (s.at cyc).ofcHeard.count .ofc 0 5

@[simp] theorem State.vaultHeard_word (k : RegKey) : (s.vaultHeard cyc).word k = s.word k := by simp [State.vaultHeard]
@[simp] theorem State.vaultHeard_vault : (s.vaultHeard cyc).vault = s.vault := by simp [State.vaultHeard]
@[simp] theorem State.vaultHeard_slot (v : Nat) : (s.vaultHeard cyc).slot v = s.slot v := by simp [State.vaultHeard]
@[simp] theorem State.vaultHeard_out : (s.vaultHeard cyc).out = s.out := by simp [State.vaultHeard]
@[simp] theorem State.vaultHeard_seqOut : (s.vaultHeard cyc).officer.seqOut = s.officer.seqOut := by simp [State.vaultHeard]
theorem State.vaultHeard_on (f : Fld) : (s.vaultHeard cyc).on f = s.on f := by simp [State.vaultHeard]
theorem State.vaultHeard_check : (s.vaultHeard cyc).vaultCheck c = s.vaultCheck c :=
  State.vaultCheck_congr State.vaultHeard_word (by rw [State.vaultHeard_vault])

/-- A VAULT message brings its command to the engine. -/
theorem exec_vault (hc : s.carries m 0x10 p) :
    exec (.vault m cyc) s = done ((s.vaultHeard cyc).vaultOfficer (officerCmd p) cyc) :=
  congrArg done (State.officerRecv_of_carries (State.at_carries.mpr hc) (by decide) (by decide))

/-- A command that arrives while another runs waits for its end (R302). -/
theorem runs_vault_waits (hc : s.carries m 0x10 p) (hbusy : s.on F.kvtStatBusy = true) :
    Runs (.vault m cyc) s (fun t => t.vault.officerWaits = s.vault.officerWaits ++ [officerCmd p] ∧
      t.vault.slots = s.vault.slots ∧ s.regsBut t []) := by
  refine runs_of_done (exec_vault hc) ?_
  rw [State.vaultOfficer, if_pos (by rw [State.vaultHeard_on, hbusy])]
  refine ⟨?_, ?_, State.closed_regsBut (State.regsBut_of_word (fun _ => rfl)
    (State.regsBut_of_word State.vaultHeard_word (State.regsBut_refl s _)))⟩
  · rw [State.closed_vault, State.vaultHeard_vault]
  · rw [State.closed_vault, State.vaultHeard_vault]

theorem runs_vault (hn : n = s.officer.seqOut) (hcarries : s.carries m 0x10 p) (hbusy : s.on F.kvtStatBusy = false)
    (hcmd : c = officerCmd p) :
    Runs (.vault m cyc) s (fun t =>
      (s.vaultCheck c ≠ 0 → t.rd F.kvtStatBusy = 0 ∧ t.vault.cmd = none ∧ t.vault.slots = s.vault.slots ∧
        s.sends t (.officer (officerBytes 4 n [BitVec.ofNat 8 (s.vaultCheck c)]))) ∧
      (s.vaultCheck c = 0 → c.op = 8 → t.rd F.kvtStatBusy = 0 ∧ t.vault.cmd = none ∧ t.vault.slots = s.vault.slots ∧
        s.sends t (.officer (officerBytes 4 n (0 :: (s.slot c.slot).kcv)))) ∧
      (s.vaultCheck c = 0 → c.op = 12 → t.rd F.kvtStatBusy = 1 ∧ t.vault.slots = s.vault.slots ∧
        t.vault.cmd = some (c.makes
          { present := true, type := c.type, imported := true, exportable := c.exportable, expires := c.expires
            hostUse := c.hostUse, long := c.long, uses := c.uses, generation := (s.slot c.slot).generation + 1
            material := c.data }))) := by
  have hofficer : c.officer = true := by rw [hcmd]; rfl
  have hwaits : c.waits = none := by rw [hcmd]; rfl
  refine runs_of_done (exec_vault hcarries) ?_
  rw [← hcmd, State.vaultOfficer, if_neg (by rw [State.vaultHeard_on, hbusy]; decide)]
  refine ⟨fun hcheck => ?refused, fun hcheck hop => ?kcv, fun hcheck hop => ?import_⟩
  case refused =>
    obtain ⟨u, hkeeps, hend⟩ := (s.vaultHeard cyc).vaultStart_refused (c := c)
      (due := (s.vaultHeard cyc).edgeFor cyc) (pass := true) (by rwa [State.vaultHeard_check])
    have hvault : u.vault = (s.vaultHeard cyc).vault := hkeeps.frame .vault (by decide)
    have hout : u.out = (s.vaultHeard cyc).out := hkeeps.frame .out (by decide)
    have hseq : u.officer = (s.vaultHeard cyc).officer := hkeeps.frame .officer (by decide)
    rw [hend, State.vaultHeard_check]
    exact officer_ended hofficer hn (by rw [hvault, State.vaultHeard_vault]) (hout.trans State.vaultHeard_out)
      (by rw [hseq, State.vaultHeard_seqOut])
  case kcv =>
    rw [State.vaultStart_of_pass (by rw [State.vaultHeard_check, hcheck]), State.vaultRun_kcv hop, State.vaultHeard_slot]
    exact officer_ended hofficer hn (by rw [State.vaultBusy_vault, State.vaultHeard_vault])
      (by rw [State.vaultBusy_out, State.vaultHeard_out]) State.vaultHeard_seqOut
  case import_ =>
    rw [State.vaultStart_of_pass (by rw [State.vaultHeard_check, hcheck]), State.vaultRun_officerImport hop, State.vaultHeard_slot]
    obtain ⟨hbusy', hcmd'⟩ := committing_closed (u := (s.vaultHeard cyc).vaultBusy c) (x := _) State.vaultBusy_busy hwaits
    refine ⟨hbusy', ?_, hcmd'⟩
    rw [State.closed_vault, State.vaultCommit, State.vaultBusy_vault, State.vaultHeard_vault]

/-! ### Messages refused and discarded -/

/-- A message of a session that comes outside one is refused. -/
theorem runs_outside {i : Instr} {type : Nat} {f : List Byte → State → State} (hn : n = s.officer.seqOut)
    (hexec : exec i t = done (s.officerRecv type m f)) (htype : ofSession type) (hh : s.hears m type)
    (hout : s.on F.ofcStatSession = false) :
    Runs i t (fun t => s.sends t (.officer (officerBytes 4 n [2])) ∧ t.vault = s.vault ∧ t.tamper = s.tamper ∧
      s.regsBut t []) := by
  refine runs_of_done hexec ?_
  rw [State.officerRecv_outside hh htype hout]
  obtain ⟨hvault, hsends, hregs⟩ := refused_heard (status := 2) hn
  exact ⟨hsends, hvault, by rw [State.closed_tamper, State.officerResult_tamper, State.ofcHeard_tamper], hregs⟩

/-- What the port does not hear changes nothing that it or the vault holds. -/
theorem runs_discarded {i : Instr} {type : Nat} {f : List Byte → State → State}
    (hexec : exec i t = done (s.officerRecv type m f))
    (h : s.ready .ofc = false ∨ s.on F.ofcStatPresent = false ∨ officerCrcOk type m = false ∨ m.seq.val ≠ s.officer.seqIn) :
    Runs i t (fun t => t.officer = s.officer ∧ t.vault = s.vault ∧ t.tamper = s.tamper ∧ s.regsBut t []) := by
  have hkeeps := State.officerRecv_discarded (f := f) h
  refine runs_of_done hexec ⟨?_, ?_, ?_, State.closed_regsBut (hkeeps.regsBut (by simp))⟩
  · rw [State.closed_officer]; exact hkeeps.frame .officer (by decide)
  · rw [State.closed_vault]; exact hkeeps.frame .vault (by decide)
  · rw [State.closed_tamper]; exact hkeeps.frame .tamper (by decide)

/-- Settles O60: each message of a session that the port hears comes opened to its operation, whose RESULT is the last thing
that it sends. -/
theorem officerMessages : Obligations.OfficerMessages := by
  unfold Obligations.OfficerMessages
  intro s m p n cyc hn
  refine ⟨runs_certWrite hn, runs_certWrite_inhibited hn, runs_certWrite_long hn, runs_certRead hn, runs_ack hn,
    runs_clearFlags hn, runs_note hn, runs_setBrtc hn, runs_unlockCfg hn, runs_endSession, runs_vault_waits,
    fun hc hbusy c hcmd => runs_vault hn hc hbusy hcmd, ?outside, ?discarded⟩
  case outside =>
    simp only [List.forall_mem_cons, List.not_mem_nil, false_implies, implies_true, and_true]
    exact ⟨runs_outside (s := s.at cyc) hn rfl (by decide), runs_outside hn rfl (by decide), runs_outside hn rfl (by decide),
      runs_outside hn rfl (by decide), runs_outside hn rfl (by decide), runs_outside hn rfl (by decide),
      runs_outside hn rfl (by decide), runs_outside hn rfl (by decide)⟩
  case discarded =>
    simp only [List.forall_mem_cons, List.not_mem_nil, false_implies, implies_true, and_true]
    exact ⟨runs_discarded rfl, runs_discarded rfl, runs_discarded (s := s.at cyc) rfl, runs_discarded rfl, runs_discarded rfl,
      runs_discarded rfl, runs_discarded rfl, runs_discarded rfl, runs_discarded rfl, runs_discarded rfl, runs_discarded rfl⟩

end Sys2Proof.Machine
end

section
/-! SUPPORT. Event registers apart, a tamper source as its condition is met (R425), and how an officer is judged (R438, R440). -/

namespace Sys2Proof.Machine

open Sys2Proof

variable {s t u : State} {m : OfcMsg} {src n : Nat} {p ct hash : List Byte}

/-! ### Event registers apart -/

theorem State.wrEvt_evtWord_ne {f : Fld} {v i : Nat} {k : RegKey} (h : k ≠ keyOf f i) :
    (s.wrEvt f v i).evtWord k = s.evtWord k := mget_mset_ne _ _ _ _ _ h

theorem State.wrEvt_evt_ne {f g : Fld} {v i j : Nat} (h : keyOf g j ≠ keyOf f i) : (s.wrEvt f v i).evt g j = s.evt g j :=
  congrArg (getF · g.lo g.w) (State.wrEvt_evtWord_ne h)

theorem State.event_evtWord (f : Fld) (i : Nat) (k : RegKey) : (s.event f i).evtWord k = (s.wrEvt f 1 i).evtWord k := by
  unfold State.event onlyIf
  extract_lets written raised
  split <;> rfl

theorem State.event_evt_ne {f g : Fld} {i j : Nat} (h : keyOf g j ≠ keyOf f i) : (s.event f i).evt g j = s.evt g j :=
  congrArg (getF · g.lo g.w) ((State.event_evtWord f i _).trans (State.wrEvt_evtWord_ne h))

/-! ### A source's condition is met -/

/-- The monitors show source `src` (R425). -/
def State.shows (s : State) (src : Nat) : State := s.modTamper (fun t => { t with active := setBit t.active src })

theorem State.shows_active : (s.shows src).tamper.active = setBit s.tamper.active src := rfl

/-- A source that is not armed, or not watched on the cell, shows and does no more (R425). -/
theorem State.tamperFire_of_unwatched (h : s.srcArmed src = false ∨ s.mode = 0 ∧ onCell src = false) :
    s.tamperFire src = s.shows src := by
  unfold State.tamperFire
  refine if_pos ?_
  rcases h with h | ⟨h, h'⟩
  · have harmed : (s.shows src).srcArmed src = false := by
      rw [← h]
      simp [State.srcArmed, State.shows]
    rw [← State.shows, harmed]
    rfl
  · rw [← State.shows, show (s.shows src).mode = 0 by simpa [State.shows] using h, h']
    simp

/-- A source may show that fires: it is armed, and on the cell it is watched there. -/
abbrev State.watches (s : State) (src : Nat) : Prop := s.srcArmed src = true ∧ (s.mode = 0 → onCell src = true)

theorem State.shows_watched (h : s.watches src) :
    ¬ ((!(s.shows src).srcArmed src || (decide ((s.shows src).mode = 0) && !onCell src)) = true) := by
  obtain ⟨harmed, hcell⟩ := h
  have harmed' : (s.shows src).srcArmed src = true := by
    rw [← harmed]
    simp [State.srcArmed, State.shows]
  have hmode : (s.shows src).mode = s.mode := by simp [State.shows]
  rw [harmed', hmode]
  by_cases hm : s.mode = 0
  · simp [hm, hcell hm]
  · simp [hm]

/-- A source under test is seen, and does not fire (R435). -/
theorem State.tamperFire_of_test (h : s.watches src) (htest : s.tamper.test.any (fun e => decide (e.1 = src)) = true) :
    s.tamperFire src = (s.shows src).wrEvt F.tmpTestSeenSeen (setBit ((s.shows src).evt F.tmpTestSeenSeen) src) := by
  unfold State.tamperFire
  exact (if_neg (State.shows_watched h)).trans (if_pos htest)

/-- A source that has not re-armed does not fire again (R426). -/
theorem State.tamperFire_of_asserted (h : s.watches src) (htest : s.tamper.test.any (fun e => decide (e.1 = src)) = false)
    (hon : s.tamper.asserted.any (fun e => decide (e.1 = src)) = true) :
    s.tamperFire src = (s.shows src).modTamper
      (fun t => { t with asserted := t.asserted.map (fun e => if e.1 = src then (src, none) else e) }) := by
  unfold State.tamperFire
  exact (if_neg (State.shows_watched h)).trans ((if_neg (by rw [htest]; decide)).trans (if_pos hon))

/-- A source that fires: counted, shown in TMP_EVT, and in the present window (R425, R428). -/
def State.firesNow (s : State) (src : Nat) : State :=
  let s := ((s.shows src).count .tmp 0 1).wrEvt F.tmpEvtFired (setBit ((s.shows src).evt F.tmpEvtFired) src)
  s.modTamper (fun t =>
    { t with asserted := t.asserted ++ [(src, none)]
             winAt := if t.window.isEmpty then t.brtc else t.winAt
             winMode := if t.window.isEmpty then s.mode else t.winMode
             window := t.window ++ [src] })

theorem State.tamperFire_of_may (h : s.watches src) (htest : s.tamper.test.any (fun e => decide (e.1 = src)) = false)
    (hon : s.tamper.asserted.any (fun e => decide (e.1 = src)) = false) : s.tamperFire src = s.firesNow src := by
  have htest' : ¬ s.tamper.test.any (fun e => decide (e.1 = src)) = true := by rw [htest]; decide
  have hon' : ¬ s.tamper.asserted.any (fun e => decide (e.1 = src)) = true := by rw [hon]; decide
  unfold State.tamperFire
  exact (if_neg (State.shows_watched h)).trans ((if_neg htest').trans (if_neg hon'))

/-- Whatever becomes of a source whose condition is met, the monitors show it. -/
theorem State.tamperFire_active : (s.tamperFire src).tamper.active = setBit s.tamper.active src := by
  by_cases hw : s.watches src
  · cases htest : s.tamper.test.any (fun e => decide (e.1 = src)) with
    | true => rw [State.tamperFire_of_test hw htest, State.wrEvt_tamper, State.shows_active]
    | false =>
      cases hon : s.tamper.asserted.any (fun e => decide (e.1 = src)) with
      | true => rw [State.tamperFire_of_asserted hw htest hon, State.modTamper_tamper, State.shows_active]
      | false =>
        rw [State.tamperFire_of_may hw htest hon, State.firesNow, State.modTamper_tamper, State.wrEvt_tamper, State.count_tamper,
          State.shows_active]
  · rw [State.tamperFire_of_unwatched (by simp only [not_and_or, Classical.not_imp] at hw; simpa using hw), State.shows_active]

/-- Outside TMP_EVT and TMP_TEST_SEEN no event register shows it. -/
theorem State.tamperFire_evt {g : Fld} (hfired : keyOf g ≠ keyOf F.tmpEvtFired) (hseen : keyOf g ≠ keyOf F.tmpTestSeenSeen) :
    (s.tamperFire src).evt g = s.evt g := by
  by_cases hw : s.watches src
  · cases htest : s.tamper.test.any (fun e => decide (e.1 = src)) with
    | true => rw [State.tamperFire_of_test hw htest, State.wrEvt_evt_ne hseen, State.shows, State.modTamper_evt]
    | false =>
      cases hon : s.tamper.asserted.any (fun e => decide (e.1 = src)) with
      | true => rw [State.tamperFire_of_asserted hw htest hon, State.modTamper_evt, State.shows, State.modTamper_evt]
      | false =>
        rw [State.tamperFire_of_may hw htest hon, State.firesNow, State.modTamper_evt, State.wrEvt_evt_ne hfired, State.count_evt,
          State.shows, State.modTamper_evt]
  · rw [State.tamperFire_of_unwatched (by simp only [not_and_or, Classical.not_imp] at hw; simpa using hw), State.shows,
      State.modTamper_evt]

end Sys2Proof.Machine
end

section
/-! PROOF. The token, its challenge and the verdict on its response (R437, R438, R440). -/

namespace Sys2Proof.Machine

open Sys2Proof

variable {s t u : State} {m : OfcMsg} {src n v : Nat} {p ct hash : List Byte} {o : Out}

/-! ### The token (R437, R450) -/

theorem runs_tokenPlug : Runs .tokenPlug s (fun t => t.rd F.ofcStatPresent = 1 ∧
    t.officer = { s.officer with seqIn := 0, seqOut := 0 } ∧ t.evt F.ofcEvtPlugged = 1 ∧ s.regsBut t [keyOf F.ofcStatPresent]) := by
  refine runs_of_done rfl ⟨?_, ?_, ?_, ?_⟩
  · rw [State.closed_rd, State.event_rd, State.modOfc_rd, State.rd_wr_of_lt 0 0 (by decide) (by decide)]
  · simp
  · rw [State.closed_evt _ _ _ (by decide), State.event_evt_self _ _ (by decide) (by decide)]
  · refine State.closed_regsBut (State.regsBut_of_word (State.event_word _ _ _) (State.regsBut_of_word (State.modOfc_word _ _) ?_))
    exact State.regsBut_wr 1 (State.regsBut_refl s _) (List.mem_singleton_self _)

theorem State.endSession_officer : s.endSession.officer =
    { s.officer with key := [], cert := [], challenged := none, response := none, dk := [], nonce := [] } := rfl

theorem runs_tokenUnplug : Runs .tokenUnplug s (fun t => t.rd F.ofcStatPresent = 0 ∧ t.rd F.ofcStatSession = 0 ∧
    t.officer.key = [] ∧ t.officer.challenged = none ∧ t.evt F.ofcEvtUnplugged = 1 ∧ s.regsBut t [keyOf F.ofcStatPresent]) := by
  obtain ⟨hsession, -, hregs⟩ := s.endSession_parts
  refine runs_of_done rfl ⟨?_, ?_, ?_, ?_, ?_, ?_⟩
  · rw [State.closed_rd, State.event_rd, State.rd_wr_self _ _ _ _ (by decide), Nat.zero_mod]
  · rw [State.closed_rd, State.event_rd, State.rd_wr_apart _ _ _ _ _ _ (by decide) (by decide), hsession]
  · rw [State.closed_officer, State.event_officer, State.wr_officer, State.endSession_officer]
  · rw [State.closed_officer, State.event_officer, State.wr_officer, State.endSession_officer]
  · rw [State.closed_evt _ _ _ (by decide), State.event_evt_self _ _ (by decide) (by decide)]
  · exact State.closed_regsBut (State.regsBut_of_word (State.event_word _ _ _)
      (State.regsBut_wr 0 hregs (List.mem_singleton_self _)))

/-! ### HELLO and RESPONSE (R438, R440) -/

theorem State.ofcHeard_locked : s.ofcHeard.ofcLocked = s.ofcLocked := by
  rw [State.ofcLocked, State.ofcLocked, State.seconds, State.seconds, State.ofcHeard_tamper, State.ofcHeard_rd]

section
variable {type : Nat} {body : List Byte}

@[simp] theorem State.officerSend_word (k : RegKey) : (s.officerSend type body).word k = s.word k := rfl
@[simp] theorem State.officerSend_rd (f : Fld) (i o : Nat) : (s.officerSend type body).rd f i o = s.rd f i o := rfl
@[simp] theorem State.officerSend_evt (f : Fld) (i : Nat) : (s.officerSend type body).evt f i = s.evt f i := rfl
@[simp] theorem State.officerSend_tamper : (s.officerSend type body).tamper = s.tamper := rfl
@[simp] theorem State.officerSend_officer :
    (s.officerSend type body).officer = { s.officer with seqOut := s.officer.seqOut + 1 } := rfl
@[simp] theorem State.officerSend_out :
    (s.officerSend type body).out = s.out ++ [.officer (officerBytes type s.officer.seqOut body)] := rfl

end

/-- What follows a CHALLENGE: who is to answer it, and what was drawn for it. -/
def State.challenge (s : State) (body nonce dk : List Byte) : State :=
  s.modOfc (fun o => { o with ident := body.take 2664, enrolSig := body.drop 2664, nonce := nonce, dk := dk
                              seconds := s.seconds, challenged := some s.tick, response := none })

theorem State.onHello_of_free {body : List Byte} (h : s.ofcLocked = false) : s.onHello body =
    (let u := ((s.draw 32).1.draw 64).1
     let key := Config.kemKeys ((s.draw 32).1.draw 64).2
     (u.challenge body (s.draw 32).2 key.2).officerSend 2
      ((s.draw 32).2 ++ (u.challenge body (s.draw 32).2 key.2).identityHash ++
        beBytes 4 (u.challenge body (s.draw 32).2 key.2).seconds ++ slice key.1 0 1568)) := by
  rw [State.onHello, if_neg (by simp [h])]
  rfl

theorem State.draw_keeps' : Keeps (mask [.vault, .fresh]) s (s.draw n).1 := State.draw_keeps

theorem State.draw_sameDrbg (h : s.SameDrbg u) : (s.draw n).1.SameDrbg (u.draw n).1 := by
  obtain ⟨hdrbg, hfresh⟩ := h
  unfold State.draw State.free
  rw [hdrbg, hfresh]
  split
  · split
    · exact ⟨hdrbg, congrArg (· + 1) hfresh⟩
    · exact ⟨rfl, rfl⟩
  · exact ⟨hdrbg, congrArg (· + 1) hfresh⟩

theorem State.slot_of_slots (h : u.vault.slots = s.vault.slots) (v : Nat) : u.slot v = s.slot v := by
  rw [State.slot, State.slot, h]

theorem State.identityHash_congr (h : u.vault.slots = s.vault.slots) : u.identityHash = s.identityHash := by
  rw [State.identityHash, State.identityHash, State.slot_of_slots h]

theorem runs_officerHello {nonce : List Byte} {key : List Byte × List Byte} (hh : s.hears m 1) (hfree : s.ofcLocked = false)
    (hnonce : nonce = (s.draw 32).2) (hkey : key = Config.kemKeys ((s.draw 32).1.draw 64).2) :
    Runs (.officerHello m) s (fun t => s.regsBut t [] ∧
      t.officer = { s.officer with seqIn := s.officer.seqIn + 1, seqOut := s.officer.seqOut + 1, lastMsg := s.tick
                                   ident := m.body.take 2664, enrolSig := m.body.drop 2664, seconds := s.seconds
                                   nonce := nonce, dk := key.2, challenged := some s.tick, response := none } ∧
      s.sends t (.officer (officerBytes 2 s.officer.seqOut
        (nonce ++ s.identityHash ++ beBytes 4 s.seconds ++ slice key.1 0 1568)))) := by
  refine runs_of_done rfl ?_
  have hlocked : s.ofcHeard.ofcLocked = false := State.ofcHeard_locked.trans hfree
  have hsame : s.SameDrbg s.ofcHeard := ⟨by rw [State.ofcHeard_vault], by rw [State.ofcHeard_fresh]⟩
  have hnonce' : (s.ofcHeard.draw 32).2 = nonce := (State.draw_congr hsame).1.trans hnonce.symm
  have hkey' : Config.kemKeys ((s.ofcHeard.draw 32).1.draw 64).2 = key := by
    rw [hkey, (State.draw_congr (State.draw_sameDrbg hsame)).1]
  rw [State.officerRecv_plain hh (fun h => absurd h (by decide)) (fun h => absurd h (by decide)), State.onHello_of_free hlocked]
  extract_lets u key'
  have hkeep : Keeps (mask [.vault, .fresh]) s.ofcHeard u := .step State.draw_keeps' (by rfl) State.draw_keeps'
  have hofficer : u.officer = s.ofcHeard.officer := hkeep.frame .officer (by decide)
  have htamper : u.tamper = s.tamper := (hkeep.frame .tamper (by decide)).trans State.ofcHeard_tamper
  have htick : u.tick = s.tick := (hkeep.frame .tick (by decide)).trans State.ofcHeard_tick
  have hout : u.out = s.out := (hkeep.frame .out (by decide)).trans State.ofcHeard_out
  have hslots : u.vault.slots = s.vault.slots := by
    rw [State.draw_slots, State.draw_slots, State.ofcHeard_vault]
  have hseconds : u.seconds = s.seconds := by rw [State.seconds, State.seconds, htamper]
  have hkeyEq : key' = key := hkey'
  rw [hnonce', hkeyEq]
  have hchallenge : (u.challenge m.body nonce key.2).officer =
      { s.officer with seqIn := s.officer.seqIn + 1, lastMsg := s.tick, ident := m.body.take 2664
                       enrolSig := m.body.drop 2664, seconds := s.seconds, nonce := nonce, dk := key.2
                       challenged := some s.tick, response := none } := by
    rw [State.challenge, State.modOfc_officer, hofficer, htick, hseconds, State.ofcHeard_officer]
  have hsecs : (u.challenge m.body nonce key.2).seconds = s.seconds := hseconds
  have hid : (u.challenge m.body nonce key.2).identityHash = s.identityHash := State.identityHash_congr hslots
  rw [hsecs, hid]
  refine ⟨State.closed_regsBut ?_, ?_, sends_officerSend hout (by rw [hchallenge])⟩
  · exact State.regsBut_of_word (fun _ => rfl) (State.regsBut_trans (State.ofcHeard_regsBut _) (hkeep.regsBut (by simp)))
  · rw [State.closed_officer]
    change { (u.challenge m.body nonce key.2).officer with seqOut := (u.challenge m.body nonce key.2).officer.seqOut + 1 } = _
    rw [hchallenge]

/-- While the port is locked a HELLO is refused, with a status that the manual does not give (R440). -/
theorem runs_officerHello_locked (hh : s.hears m 1) (hlocked : s.ofcLocked = true) :
    Runs (.officerHello m) s (fun t => t.officer.challenged = s.officer.challenged ∧
      t.officer.seqIn = s.officer.seqIn + 1 ∧
      s.sends t (.officer (officerBytes 4 s.officer.seqOut [s.free 8])) ∧ s.regsBut t []) := by
  refine runs_of_done rfl ?_
  have hlocked' : s.ofcHeard.ofcLocked = true := State.ofcHeard_locked.trans hlocked
  have hfree : s.ofcHeard.free 8 = s.free 8 := by rw [State.free, State.free, State.ofcHeard_fresh]
  rw [State.officerRecv_plain hh (fun h => absurd h (by decide)) (fun h => absurd h (by decide)), State.onHello, if_pos hlocked',
    hfree]
  refine ⟨by simp, by simp, sends_officerSend (by simp) (by simp),
    State.closed_regsBut (State.regsBut_of_word (fun k => ?_) (State.ofcHeard_regsBut _))⟩
  rw [State.officerSend_word, State.burn_word]

theorem runs_officerResponse (hh : s.hears m 3) :
    Runs (.officerResponse m) s (fun t => s.regsBut t [] ∧
      t.officer = { s.officer with seqIn := s.officer.seqIn + 1, lastMsg := s.tick
                                   response := if s.officer.challenged.isSome ∧ s.officer.response = none then
                                     some (m.body.take 4627, slice m.body 4627 1568) else s.officer.response }) := by
  refine runs_of_done rfl ?_
  rw [State.officerRecv_plain hh (fun h => absurd h (by decide)) (fun h => absurd h (by decide))]
  simp only [State.ofcHeard_officer]
  by_cases h : s.officer.challenged.isSome ∧ s.officer.response = none
  · rw [if_pos h, if_pos (by simpa using h)]
    refine ⟨State.closed_regsBut (State.regsBut_of_word (State.modOfc_word _ _) (State.ofcHeard_regsBut _)), ?_⟩
    rw [State.closed_officer, State.modOfc_officer, State.ofcHeard_officer]
  · rw [if_neg h, if_neg (by simpa using h)]
    refine ⟨State.closed_regsBut (State.ofcHeard_regsBut _), ?_⟩
    rw [State.closed_officer, State.ofcHeard_officer]

/-! ### The verdict (R438, R440) -/

/-- A failed authentication told and refused, before it is counted against the limit. -/
def State.authRefused (s : State) : State :=
  let s := ((s.count .ofc 0 2).event F.ofcEvtAuthFail).modOfc (fun o => { o with challenged := none, response := none, dk := [] })
  (s.burn).officerSend 4 [s.free 8]

theorem State.authFail_eq : s.authFail =
    (if max 1 (s.authRefused.rd F.ofcLimitFailLimit) ≤ s.rd F.ofcStatFails + 1 then
      (s.authRefused.wr F.ofcStatFails 0).tamperFire 21 else s.authRefused.wr F.ofcStatFails (s.rd F.ofcStatFails + 1)) := rfl

theorem State.authRefused_rd (f : Fld) : s.authRefused.rd f = s.rd f := by simp [State.authRefused]

theorem State.authRefused_tamper : s.authRefused.tamper = s.tamper := by simp [State.authRefused]

theorem State.authRefused_evt : s.authRefused.evt F.ofcEvtAuthFail = 1 := by
  simp only [State.authRefused, State.officerSend_evt, State.burn_evt, State.modOfc_evt]
  exact State.event_evt_self _ _ (by decide) (by decide)

theorem State.authRefused_officer : s.authRefused.officer =
    { s.officer with challenged := none, response := none, dk := [], seqOut := s.officer.seqOut + 1 } := by
  simp [State.authRefused]

theorem State.authRefused_out : s.authRefused.out = s.out ++ [.officer (officerBytes 4 s.officer.seqOut [s.free 8])] := by
  simp [State.authRefused, State.free]

/-- What was sent before a command's end is the first that leaves. -/
theorem sends_of_out (h : u.out = s.out ++ [o]) : s.sends u.closed o := by
  rw [State.sends, ← h]
  exact u.closed_out

/-- A failed authentication is told, refused and counted; at the limit the count restarts and source 21 is met. -/
theorem authFails_authFail : s.authFails s.authFail.closed := by
  rw [State.authFail_eq, State.authRefused_rd]
  by_cases hlimit : max 1 (s.rd F.ofcLimitFailLimit) ≤ s.rd F.ofcStatFails + 1
  · rw [if_pos hlimit]
    have hkeep : Keeps (mask [.rep, .tamper]) (s.authRefused.wr F.ofcStatFails 0)
        ((s.authRefused.wr F.ofcStatFails 0).tamperFire 21) := State.tamperFire_keeps
    have hofficer : ((s.authRefused.wr F.ofcStatFails 0).tamperFire 21).officer = s.authRefused.officer :=
      hkeep.frame .officer (by decide)
    have hout : ((s.authRefused.wr F.ofcStatFails 0).tamperFire 21).out = s.authRefused.out := hkeep.frame .out (by decide)
    have hrd (f : Fld) : ((s.authRefused.wr F.ofcStatFails 0).tamperFire 21).rd f = (s.authRefused.wr F.ofcStatFails 0).rd f :=
      hkeep.rd f 0 0 (by simp)
    have hclosed := State.closed_officer ((s.authRefused.wr F.ofcStatFails 0).tamperFire 21)
    rw [hofficer, State.authRefused_officer] at hclosed
    refine ⟨?_, by rw [hclosed], by rw [hclosed], by rw [hclosed], ?_, sends_of_out (hout.trans State.authRefused_out), ?_⟩
    · rw [State.closed_evt _ _ _ (by decide), State.tamperFire_evt (by decide) (by decide), State.wr_evt, State.authRefused_evt]
    · rw [State.closed_rd, hrd, State.rd_wr_apart _ _ _ _ _ _ (by decide) (by decide), State.authRefused_rd]
    · rw [if_pos hlimit, State.closed_rd, hrd, State.rd_wr_self _ _ _ _ (by decide), State.closed_tamper, State.tamperFire_active,
        State.wr_tamper, State.authRefused_tamper]
      exact ⟨rfl, rfl⟩
  · rw [if_neg hlimit]
    have hfew : s.rd F.ofcStatFails + 1 < 2 ^ F.ofcStatFails.w := by
      have hlt : s.rd F.ofcLimitFailLimit < 2 ^ 4 := getF_lt_two_pow ..
      have hw : 2 ^ F.ofcStatFails.w = 2 ^ 4 := rfl
      omega
    have hclosed := State.closed_officer (s.authRefused.wr F.ofcStatFails (s.rd F.ofcStatFails + 1))
    rw [State.wr_officer, State.authRefused_officer] at hclosed
    refine ⟨?_, by rw [hclosed], by rw [hclosed], by rw [hclosed], ?_, sends_of_out State.authRefused_out, ?_⟩
    · rw [State.closed_evt _ _ _ (by decide), State.wr_evt, State.authRefused_evt]
    · rw [State.closed_rd, State.rd_wr_apart _ _ _ _ _ _ (by decide) (by decide), State.authRefused_rd]
    · have hbyte : (s.rd F.ofcStatFails + 1) % 256 = s.rd F.ofcStatFails + 1 := by
        have hw : 2 ^ F.ofcStatFails.w = 2 ^ 4 := rfl
        omega
      rw [if_neg hlimit, State.closed_rd, State.rd_wr_of_lt _ _ (by decide) hfew, hbyte, State.closed_tamper, State.wr_tamper,
        State.authRefused_tamper]
      exact ⟨rfl, rfl⟩

/-- A session opens on the secret in `ct` (R438). -/
def State.sessionOpens (s : State) (hash ct : List Byte) : State :=
  let o := s.officer
  let key := kdf (Config.kemDecaps o.dk ct) "heserok officer" o.nonce 256
  let s := ((s.count .ofc 0 1).event F.ofcEvtAuthOk).wrWords .ofc 0x180 (leWords (slice hash 0 64))
  ((s.wr F.ofcStatFails 0).wr F.ofcStatSession 1).modOfc (fun o =>
    { o with key := slice key 0 32, challenged := none, response := none, dk := [], lastMsg := s.tick })

theorem State.authPass_eq : s.authPass hash ct = (s.sessionOpens hash ct).officerResult 0 := rfl

theorem State.wrWords_evt {pg : Page} {off : Nat} {ws : List Word} {i : Nat} (f : Fld) (j : Nat) :
    (s.wrWords pg off ws i).evt f j = s.evt f j := by
  induction ws generalizing s off with
  | nil => rfl
  | cons w ws ih => exact (ih (s := s.setWord ⟨pg, off, i, 0⟩ w) (off := off + 4)).trans (State.setWord_evt s _ w f j)

/-- An officer session opens as R438 says, wherever what it reads is as it was. -/
theorem authPasses_authPass (hofficer : u.officer = s.officer) (hout : u.out = s.out) (htick : u.tick = s.tick) :
    s.authPasses (u.authPass hash ct).closed ct := by
  have hwords : Keeps (mask [.page .ofc]) ((u.count .ofc 0 1).event F.ofcEvtAuthOk)
      (((u.count .ofc 0 1).event F.ofcEvtAuthOk).wrWords .ofc 0x180 (leWords (slice hash 0 64))) := State.wrWords_keeps
  have hofc := hwords.frame .officer (by decide)
  have hsent := hwords.frame .out (by decide)
  have hnow := hwords.frame .tick (by decide)
  change (State.officer _) = _ at hofc
  change (State.out _) = _ at hsent
  change (State.tick _) = _ at hnow
  rw [State.event_officer, State.count_officer, hofficer] at hofc
  rw [State.event_out, State.count_out, hout] at hsent
  rw [State.event_tick, State.count_tick, htick] at hnow
  have hopens : (u.sessionOpens hash ct).officer =
      { s.officer with key := slice (kdf (Config.kemDecaps s.officer.dk ct) "heserok officer" s.officer.nonce 256) 0 32
                       challenged := none, response := none, dk := [], lastMsg := s.tick } := by
    simp only [State.sessionOpens, State.modOfc_officer, State.wr_officer, hofc, hnow, hofficer]
  have hleft : (u.sessionOpens hash ct).out = s.out := by
    simp only [State.sessionOpens, State.modOfc_out, State.wr_out, hsent]
  have hclosed := State.closed_officer (u.authPass hash ct)
  rw [State.authPass_eq, State.officerResult_officer, hopens] at hclosed
  rw [State.authPass_eq]
  refine ⟨?_, ?_, ?_, by rw [hclosed], by rw [hclosed], by rw [hclosed], by rw [hclosed], by rw [hclosed],
    sends_result hleft (by rw [hopens])⟩
  · rw [State.closed_rd, State.officerResult_rd, State.sessionOpens, State.modOfc_rd,
      State.rd_wr_of_lt _ _ (by decide) (by decide)]
  · rw [State.closed_rd, State.officerResult_rd, State.sessionOpens, State.modOfc_rd,
      State.rd_wr_apart _ _ _ _ _ _ (by decide) (by decide), State.rd_wr_self _ _ _ _ (by decide), Nat.zero_mod]
  · rw [State.closed_evt _ _ _ (by decide), State.officerResult_evt, State.sessionOpens, State.modOfc_evt, State.wr_evt,
      State.wr_evt, State.wrWords_evt, State.event_evt_self _ _ (by decide) (by decide)]

theorem State.enrol_slot : ∃ x : Slot, x.type = 3 ∧ x.material = slice hash 0 64 ∧
    (s.enrol hash).slot (s.ofcSlots.headD 0) = x := by
  refine ⟨_, ?_, ?_, (State.schedule_slot ..).trans (State.setSlot_slot_self ..)⟩ <;> rfl

theorem State.authPass_slot : (s.authPass hash ct).slot v = s.slot v := by
  have hvault : (s.authPass hash ct).vault = s.vault := State.authPass_keeps.frame .vault (by decide)
  exact State.slot_of_slots (by rw [hvault]) v

/-! ### The judgement -/

theorem runs_verify {sig : List Byte} (hresponse : s.officer.response = some (sig, ct)) {pk : List Byte} {ok enrol : Bool}
    (hpk : pk = slice s.officer.ident 72 2592) (hhash : hash = Config.sha3 pk)
    (hok : ok = Config.dsaVerify pk (s.officer.nonce ++ s.identityHash ++ beBytes 4 s.officer.seconds) (ascii "heserok officer") sig)
    (henrol : enrol = (Config.dsaVerify s.pwr.fwKey hash (ascii "heserok officer enrol") s.officer.enrolSig && !s.nvInhibited)) :
    Runs .officerVerifyDone s (fun t =>
      (ok = false → s.authFails t) ∧
      (ok = true → s.ofcValid = [] →
        (enrol = false → s.authFails t) ∧
        (enrol = true → s.authPasses t ct ∧ (t.slot (s.ofcSlots.headD 0)).type = 3 ∧
          (t.slot (s.ofcSlots.headD 0)).material = slice hash 0 64)) ∧
      (ok = true → s.ofcValid ≠ [] →
        (∀ v, s.ofcValid.find? (fun v => decide ((s.slot v).key = hash)) = some v →
          ((s.takeUse v).2 = .granted → s.authPasses t ct) ∧
          ((s.takeUse v).2 = .waits → t.officer = s.officer ∧ s.regsBut t [])) ∧
        (s.ofcValid.find? (fun v => decide ((s.slot v).key = hash)) = none → s.authFails t))) := by
  subst hpk hhash hok henrol
  refine runs_of_done (u := s.judgeResponse) rfl ⟨fun hok => ?forged, fun hok hnone => ⟨fun henrol => ?closed, fun henrol => ?pinned⟩,
    fun hok hsome => ⟨fun v hv => ?anchor, fun hv => ?stranger⟩⟩
  case forged =>
    simp only [State.judgeResponse, hresponse, hok, Bool.not_false, ↓reduceIte]
    exact authFails_authFail
  case closed =>
    simp only [State.judgeResponse, hresponse, hok, hnone, henrol, List.isEmpty_nil, Bool.not_true, Bool.false_eq_true, ↓reduceIte]
    exact authFails_authFail
  case pinned =>
    simp only [State.judgeResponse, hresponse, hok, hnone, henrol, List.isEmpty_nil, Bool.not_true, Bool.false_eq_true, ↓reduceIte]
    obtain ⟨x, htype, hmaterial, hslot⟩ := State.enrol_slot (s := s) (hash := Config.sha3 (slice s.officer.ident 72 2592))
    refine ⟨authPasses_authPass rfl rfl rfl, ?_, ?_⟩
    · rw [State.closed_slot, State.authPass_slot, hslot, htype]
    · rw [State.closed_slot, State.authPass_slot, hslot, hmaterial]
  case anchor =>
    have hne : s.ofcValid.isEmpty = false := by simpa using hsome
    have hkeep : Keeps (mask [.sched, .rep, .vault]) s (s.takeUse v).1 := State.takeUse_keeps
    simp only [State.judgeResponse, hresponse, hok, hne, hv, Bool.not_true, Bool.false_eq_true, ↓reduceIte]
    constructor
    · intro hgrant
      split
      · next heq =>
        rw [heq] at hkeep
        exact authPasses_authPass (hkeep.frame .officer (by decide)) (hkeep.frame .out (by decide)) (hkeep.frame .tick (by decide))
      · next heq => rw [heq] at hgrant; nomatch hgrant
      · next heq => rw [heq] at hgrant; nomatch hgrant
    · intro hgrant
      split
      · next heq => rw [heq] at hgrant; nomatch hgrant
      · next heq =>
        rw [heq] at hkeep
        exact ⟨(State.closed_officer _).trans (hkeep.frame .officer (by decide)), State.closed_regsBut (hkeep.regsBut (by simp))⟩
      · next heq => rw [heq] at hgrant; nomatch hgrant
  case stranger =>
    have hne : s.ofcValid.isEmpty = false := by simpa using hsome
    simp only [State.judgeResponse, hresponse, hok, hne, hv, Bool.not_true, Bool.false_eq_true, ↓reduceIte]
    exact authFails_authFail

/-! ### Timeouts -/

/-- A command that does nothing leaves the Officer Port and every register. -/
theorem closed_leaves_officer : s.closed.officer = s.officer ∧ s.regsBut s.closed [] :=
  ⟨State.closed_officer s, State.closed_regsBut (State.regsBut_refl s _)⟩

theorem runs_responseTimeout {e : Nat} (hsome : s.officer.challenged = some e) (hnone : s.officer.response = none)
    (hlate : e + 250000 ≤ s.tick) : Runs .officerResponseTimeout s (fun t => s.authFails t) := by
  refine runs_of_done (u := s.authFail) (congrArg done ?_) authFails_authFail
  rw [hsome, hnone]
  exact if_pos ⟨rfl, hlate⟩

theorem runs_responseTimeout_early
    (h : ∀ e, s.officer.challenged = some e → s.officer.response.isSome = true ∨ s.tick < e + 250000) :
    Runs .officerResponseTimeout s (fun t => t.officer = s.officer ∧ s.regsBut t []) := by
  refine runs_of_done (u := s) (congrArg done ?_) closed_leaves_officer
  split
  · next e he =>
    refine if_neg fun ⟨hnone, hlate⟩ => ?_
    rcases h e he with hsome | hearly
    · rw [Option.isNone_iff_eq_none.mp hnone] at hsome
      nomatch hsome
    · exact Nat.not_lt.mpr hlate hearly
  · rfl

/-- Settles O59: each event of the token and each verdict, by the branch of the port's judgement that it takes. -/
theorem officerSessions : Obligations.OfficerSessions := by
  unfold Obligations.OfficerSessions
  refine ⟨fun s => ⟨runs_tokenPlug, runs_tokenUnplug, fun m => ⟨fun hh hfree nonce key => runs_officerHello hh hfree,
    runs_officerHello_locked, runs_officerResponse⟩, fun e => runs_responseTimeout, runs_responseTimeout_early, ?late, ?early⟩,
    fun s => ⟨?none, fun _ _ _ _ _ _ hr hpk hhash hok henrol => runs_verify hr hpk hhash hok henrol⟩⟩
  case late =>
    intro hsession hlate
    obtain ⟨hzero, hkey, hregs⟩ := s.endSession_parts
    refine runs_of_done (congrArg done (if_pos ⟨hsession, hlate⟩)) ⟨?_, ?_, State.closed_regsBut hregs⟩
    · rw [State.closed_rd, hzero]
    · rw [State.closed_officer, hkey]
  case early =>
    intro h
    refine runs_of_done (congrArg done (if_neg fun ⟨hsession, hlate⟩ => ?_)) closed_leaves_officer
    rcases h with h | h
    · rw [h] at hsession
      nomatch hsession
    · exact Nat.not_lt.mpr hlate h
  case none =>
    intro hnone
    refine runs_of_done (u := s.judgeResponse) rfl ?_
    rw [State.judgeResponse, hnone]
    exact closed_leaves_officer

end Sys2Proof.Machine
end

section
/-! SUPPORT. Evidence of a window, and the quench of the vault (R40, R427, R430, R431). -/

namespace Sys2Proof.Machine

open Sys2Proof

variable {s t u : State} {src n : Nat} {entry : Nat → Word × Word} {srcs : List Nat}

/-! ### Evidence (R430, R431) -/

theorem bit_setBit (n i j : Nat) : bit (setBit n i) j = (bit n j || decide (i = j)) := by
  rw [bit, bit, setBit, Nat.testBit_or, Nat.one_shiftLeft, Nat.testBit_two_pow]

theorem setBit_lt {n i w : Nat} (hn : n < 2 ^ w) (hi : i < w) : setBit n i < 2 ^ w := by
  rw [setBit, Nat.one_shiftLeft]
  exact Nat.or_lt_two_pow hn (Nat.pow_lt_pow_right (by decide) hi)

/-- What the sources of a window leave as their evidence: a flag of each environmental one, and a log entry of each other. -/
structure State.Evidenced (s t : State) (entry : Nat → Word × Word) (srcs : List Nat) : Prop where
  tamper : t.tamper = { s.tamper with log := s.tamper.log ++ (srcs.filter (fun i => !environmental i)).map entry }
  flags : ∀ i, bit (s.rd F.tmpFlagsEnv) i = true ∨ i ∈ srcs ∧ environmental i = true → bit (t.rd F.tmpFlagsEnv) i = true
  regs : s.regsBut t [keyOf F.tmpFlagsEnv, keyOf F.tmpLogCntEntries]
  keeps : Keeps (mask [.rep, .tamper, .page .tmp]) s t

theorem State.evidence_one (hroom : s.tamper.log.length < 512) : s.Evidenced (s.evidence src (entry src)) entry [src] := by
  have hkeeps : Keeps (mask [.rep, .tamper, .page .tmp]) s (s.evidence src (entry src)) := State.evidence_keeps
  cases henv : environmental src with
  | true =>
    have heq : s.evidence src (entry src) = s.wr F.tmpFlagsEnv (setBit (s.rd F.tmpFlagsEnv) src) := if_pos henv
    have hsrc : src < 8 := Nat.lt_succ_of_le (by simpa [environmental] using henv)
    have hread : (s.evidence src (entry src)).rd F.tmpFlagsEnv = setBit (s.rd F.tmpFlagsEnv) src := by
      rw [heq]
      exact State.rd_wr_of_lt 0 0 (by decide) (setBit_lt (getF_lt_two_pow ..) hsrc)
    refine ⟨by rw [heq]; simp [henv], fun i hi => ?_, ?_, hkeeps⟩
    · rw [hread, bit_setBit]
      rcases hi with hi | ⟨hi, -⟩
      · simp [hi]
      · simp [List.mem_singleton.mp hi]
    · rw [heq]
      exact State.regsBut_wr _ (State.regsBut_refl s _) (by simp)
  | false =>
    have heq : s.evidence src (entry src) = s.logTamper (entry src) := if_neg (by simp [henv])
    obtain ⟨hlog, hregs⟩ := s.logTamper_of_room (e := entry src) hroom
    refine ⟨by rw [heq, hlog]; simp [henv], fun i hi => ?_, heq ▸ State.regsBut_mono hregs (by simp), hkeeps⟩
    have hread : (s.evidence src (entry src)).rd F.tmpFlagsEnv = s.rd F.tmpFlagsEnv := by
      rw [heq]
      exact congrArg (getF · _ _) (hregs _ (by decide))
    rw [hread]
    rcases hi with hi | ⟨hi, hi'⟩
    · exact hi
    · rw [List.mem_singleton.mp hi, henv] at hi'
      nomatch hi'

theorem State.Evidenced.append {a b : List Nat} (h : s.Evidenced t entry a) (h' : t.Evidenced u entry b) :
    s.Evidenced u entry (a ++ b) where
  tamper := by rw [h'.tamper, h.tamper, List.filter_append, List.map_append, List.append_assoc]
  flags := by
    rintro i (hi | ⟨hi, henv⟩)
    · exact h'.flags i (.inl (h.flags i (.inl hi)))
    · rcases List.mem_append.mp hi with hi | hi
      · exact h'.flags i (.inl (h.flags i (.inr ⟨hi, henv⟩)))
      · exact h'.flags i (.inr ⟨hi, henv⟩)
  regs := State.regsBut_trans h.regs h'.regs
  keeps := h.keeps.trans h'.keeps

/-- The sources of a window leave their evidence, while the log has room for all of them. -/
theorem State.evidence_all (hroom : s.tamper.log.length + srcs.length ≤ 512) :
    s.Evidenced (forL srcs (fun i s => s.evidence i (entry i)) s) entry srcs := by
  induction srcs generalizing s with
  | nil =>
    exact ⟨by simp [forL], fun i hi => hi.elim id (fun h => nomatch h.1), State.regsBut_refl s _, .refl s⟩
  | cons i srcs ih =>
    rw [List.length_cons] at hroom
    have hone := State.evidence_one (s := s) (src := i) (entry := entry) (by omega)
    refine hone.append (a := [i]) (ih ?_)
    have hlen : (s.evidence i (entry i)).tamper.log.length ≤ s.tamper.log.length + 1 := by
      rw [hone.tamper]
      simp only [List.length_append, List.length_map]
      exact Nat.add_le_add_left (List.length_filter_le _ [i]) _
    omega

/-! ### The quench of the vault (R40, R433) -/

theorem State.zeroVault_vault :
    s.zeroVault.vault = { s.vault with slots := [], kint := [], expanded := false, reserving := [] } := rfl

/-- Out of COLD-GUARD and RESET a quench enters QUENCHING, and no slot is left. -/
theorem State.quench_enters (h0 : s.mode ≠ 0) (h1 : s.mode ≠ 1) : s.quench.mode = 9 ∧ s.quench.vault.slots = [] := by
  unfold State.quench
  rw [if_neg h0, if_neg h1]
  extract_lets entered ended vault done zeroed pwr dark lines clear
  have hmode : entered.mode = 9 := by
    unfold entered
    split
    · assumption
    · exact State.setMode_mode (by decide)
  have hended : Keeps (mask [.rep, .vault, .kindle, .officer, .out, .page .kvt]) entered done := by
    refine .forL (fun _ _ => .step State.vaultEnd_keeps (by rfl) (.refl _)) (.step Keeps.set_vault (by rfl) ?_)
    unfold ended
    split
    · exact State.vaultEnd_keeps
    · exact .refl _
  have hdark : Keeps (mask [.sched, .pwr, .hearth, .kindle, .seals, .regions, .reinit, .page .cxm]) zeroed
      ((clear.wr F.cxmCmdStatBusy 0).schedule (clear.tick + 1) .asnQuench) := by
    refine .step State.schedule_keeps (by rfl) (.step State.wr_keeps (by rfl) ?_)
    have hpoison (e : Nat) (u : State) :
        Keeps (mask [.page .cxm]) u (u.setWord (keyOf (F.cxmPoison0Valid.at e 8)) 0) :=
      State.setWord_keeps (k := keyOf (F.cxmPoison0Valid.at e 8))
    refine .forN (fun e u => .step (hpoison e u) (by rfl) (.refl _)) ?_
    refine .forN (fun _ _ => .step State.wr_keeps (by rfl) (.refl _)) ?_
    exact .step Keeps.set_pwr_hearth_kindle_seals_regions_reinit (by rfl) (.refl _)
  constructor
  · have hzeroed : zeroed.mode = done.mode := rfl
    exact (hdark.rd F.devModeMode 0 0 (by decide)).trans (hzeroed.trans ((hended.rd F.devModeMode 0 0 (by decide)).trans hmode))
  · have hvault : ((clear.wr F.cxmCmdStatBusy 0).schedule (clear.tick + 1) .asnQuench).vault = zeroed.vault :=
      hdark.frame .vault (by decide)
    exact congrArg Vault.slots hvault

end Sys2Proof.Machine
end

section
/-! PROOF. The end of a window (R427, R428, R433). -/

namespace Sys2Proof.Machine

open Sys2Proof

variable {s t u : State} {n : Nat} {srcs : List Nat} {entry : Nat → Word × Word}

/-- The evidence of a window that has just ended. -/
def State.windowEvidence (s : State) (srcs : List Nat) (entry : Nat → Word × Word) : State :=
  forL srcs (fun i s => s.evidence i (entry i)) (s.modTamper (fun t => { t with window := [] }))

theorem State.windowEvidence_evidenced (hroom : s.tamper.log.length + srcs.length ≤ 512) :
    (s.modTamper (fun t => { t with window := [] })).Evidenced (s.windowEvidence srcs entry) entry srcs :=
  State.evidence_all hroom

/-- The responses that COLD-GUARD lets act, and the union that it defers (R433). -/
def State.cellResponse (s : State) (u : Nat) : State :=
  let s := onlyIf (bit u 4) (fun s => s.zeroVault) s
  s.wr F.tmpDeferDeferred (s.rd F.tmpDeferDeferred ||| (u &&& 0x2F))

/-- The records that wait until the responses of the cell act on power, where the union asks for any (R434). -/
def State.defersRecords (s : State) (asked : Bool) (l : List (Nat × Word × Word)) : State :=
  onlyIf asked (fun s => s.modTamper (fun t => { t with lateLog := t.lateLog ++ l })) s

section
variable {asked : Bool} {l : List (Nat × Word × Word)}

theorem State.defersRecords_tamper : ∃ late, (s.defersRecords asked l).tamper = { s.tamper with lateLog := late } := by
  unfold State.defersRecords onlyIf
  split
  · exact ⟨_, rfl⟩
  · exact ⟨s.tamper.lateLog, rfl⟩

theorem State.defersRecords_rd (f : Fld) : (s.defersRecords asked l).rd f = s.rd f := by
  unfold State.defersRecords onlyIf
  split <;> rfl

theorem State.defersRecords_vault : (s.defersRecords asked l).vault = s.vault := by
  unfold State.defersRecords onlyIf
  split <;> rfl

end

/-- On the cell a window ends in its evidence, the quench of the vault, the deferred union and the records that wait. -/
theorem State.windowEnd_on_cell (h0 : s.mode = 0)
    (hsrcs : srcs = (List.range 23).filter (fun i => s.tamper.window.contains i))
    (hn : n = srcs.foldl (fun u i => u ||| s.tmpResp i) 0)
    (hentry : entry = fun i => logEntry s.tamper.winAt i (n &&& 0x10) (decide (n &&& 0x2F ≠ 0)) s.tamper.winMode) :
    s.windowEnd = ((s.windowEvidence srcs entry).cellResponse n).defersRecords (bit (n &&& 0x2F) 0)
      (srcs.map (fun i => (i, (entry i).1, (entry i).2))) := by
  unfold State.windowEnd
  subst hentry hn hsrcs
  simp only [h0, decide_true, ↓reduceIte]
  rfl

/-- On main power a window ends in its evidence, the responses of its union, and the records of its sources. -/
theorem State.windowEnd_on_power (h0 : s.mode ≠ 0)
    (hsrcs : srcs = (List.range 23).filter (fun i => s.tamper.window.contains i))
    (hn : n = srcs.foldl (fun u i => u ||| s.tmpResp i) 0)
    (hentry : entry = fun i => logEntry s.tamper.winAt i n false s.tamper.winMode) :
    s.windowEnd = onlyIf (bit n 0) (fun s => forL srcs (fun i s => s.tamperRecord i (entry i)) s)
      ((s.windowEvidence srcs entry).respond n) := by
  unfold State.windowEnd
  subst hentry hn hsrcs
  simp only [h0, decide_false, Bool.false_eq_true, ↓reduceIte, ne_eq, not_true_eq_false]
  rfl

theorem State.cellResponse_vault :
    (s.cellResponse n).vault =
      if bit n 4 then { s.vault with slots := [], kint := [], expanded := false, reserving := [] } else s.vault := by
  unfold State.cellResponse onlyIf
  split <;> rfl

theorem State.cellResponse_deferred :
    (s.cellResponse n).rd F.tmpDeferDeferred = (s.rd F.tmpDeferDeferred ||| (n &&& 0x2F)) % 64 := by
  have hrd : (onlyIf (bit n 4) (fun s => s.zeroVault) s).rd F.tmpDeferDeferred = s.rd F.tmpDeferDeferred := by
    unfold onlyIf
    split <;> rfl
  rw [State.cellResponse, State.rd_wr_self _ _ _ _ (by decide), hrd]
  rfl

theorem State.cellResponse_keeps : Keeps (mask [.vault, .page .tmp]) s (s.cellResponse n) :=
  .step State.wr_keeps (by rfl) (.onlyIf (fun _ => .step State.zeroVault_keeps (by rfl) (.refl _)) (.refl s))

theorem State.cellResponse_regs : s.regsBut (s.cellResponse n) [keyOf F.tmpDeferDeferred] := by
  refine State.regsBut_wr _ (State.regsBut_of_word (fun k => ?_) (State.regsBut_refl s _)) (List.mem_singleton_self _)
  unfold onlyIf
  split <;> rfl

theorem runs_windowEnd {P : State → Prop} (hwindow : s.tamper.window ≠ []) (h : P s.windowEnd.closed) :
    Runs .tamperWindowEnd s P :=
  runs_of_done (congrArg done (if_neg (by simpa using hwindow))) h

theorem length_windowSrcs : ((List.range 23).filter (fun i => s.tamper.window.contains i)).length ≤ 23 :=
  List.length_filter_le _ (List.range 23)

/-- Settles O58: on the cell the evidence is kept, a vault quench zeroes the vault, and the rest of the union is deferred. -/
theorem tamperOnTheCell : Obligations.TamperOnTheCell := by
  unfold Obligations.TamperOnTheCell
  intro s srcs u hsrcs hu hwindow hroom h0
  have hlen : srcs.length ≤ 23 := hsrcs ▸ length_windowSrcs
  refine runs_windowEnd hwindow ?_
  generalize hentry : (fun i => logEntry s.tamper.winAt i (u &&& 0x10) (decide (u &&& 0x2F ≠ 0)) s.tamper.winMode) = entry
  have hev := s.windowEvidence_evidenced (srcs := srcs) (entry := entry) (by omega)
  rw [State.windowEnd_on_cell h0 hsrcs hu hentry.symm]
  have hkeep : Keeps (mask [.vault, .page .tmp]) (s.windowEvidence srcs entry) ((s.windowEvidence srcs entry).cellResponse u) :=
    State.cellResponse_keeps
  have htamper : ((s.windowEvidence srcs entry).cellResponse u).tamper =
      { s.tamper with window := [], log := s.tamper.log ++ (srcs.filter (fun i => !environmental i)).map entry } :=
    (hkeep.frame .tamper (by decide)).trans hev.tamper
  have hvault : (s.windowEvidence srcs entry).vault = s.vault := hev.keeps.frame .vault (by decide)
  have hmode : ((s.windowEvidence srcs entry).cellResponse u).mode = 0 :=
    (hkeep.rd F.devModeMode 0 0 (by decide)).trans ((hev.keeps.rd F.devModeMode 0 0 (by decide)).trans h0)
  have hdeferred : (s.windowEvidence srcs entry).rd F.tmpDeferDeferred = s.rd F.tmpDeferDeferred :=
    congrArg (getF · _ _) (hev.regs _ (by decide))
  have hflags : ((s.windowEvidence srcs entry).cellResponse u).rd F.tmpFlagsEnv = (s.windowEvidence srcs entry).rd F.tmpFlagsEnv :=
    congrArg (getF · _ _) (State.cellResponse_regs _ (by decide))
  obtain ⟨late, hlate⟩ := ((s.windowEvidence srcs entry).cellResponse u).defersRecords_tamper (asked := bit (u &&& 0x2F) 0)
    (l := srcs.map (fun i => (i, (entry i).1, (entry i).2)))
  refine ⟨?_, ?_, ?_, ?_, ?_, fun i hi henv => ?_, fun h4 => ?_, fun h4 => ?_⟩
  · rw [State.closed_tamper, hlate, htamper]
  · rw [State.closed_mode, State.mode, State.defersRecords_rd]
    exact hmode
  · rw [State.closed_tamper, hlate, htamper]
  · rw [State.closed_rd, State.defersRecords_rd, State.cellResponse_deferred, hdeferred]
  · rw [State.closed_tamper, hlate, htamper]
  · rw [State.closed_rd, State.defersRecords_rd, hflags]
    exact hev.flags i (.inr ⟨hi, henv⟩)
  · rw [State.closed_vault, State.defersRecords_vault, State.cellResponse_vault, if_pos h4]
    exact ⟨rfl, rfl, rfl⟩
  · rw [State.closed_vault, State.defersRecords_vault, State.cellResponse_vault, if_neg (by simp [h4]), hvault]

end Sys2Proof.Machine
end

section
/-! PROOF. Tamper sources, windows and responses on main power (R425 to R435, R441). -/

namespace Sys2Proof.Machine

open Sys2Proof

variable {s t u : State} {n src : Nat} {srcs : List Nat} {entry : Nat → Word × Word}

/-! ### A source fires -/

theorem State.shows_window : (s.shows src).tamper.window = s.tamper.window := rfl
theorem State.shows_evt (f : Fld) : (s.shows src).evt f = s.evt f := rfl
theorem State.shows_word (k : RegKey) : (s.shows src).word k = s.word k := rfl

theorem State.tamperFire_regsBut : s.regsBut (s.tamperFire src) [] :=
  Keeps.regsBut (s := s) State.tamperFire_keeps (by simp)

/-- The sources under test, and those that have fired, are all others. -/
theorem all_ne_iff_any {α : Type} {l : List (Nat × α)} :
    l.all (fun e => decide (e.1 ≠ src)) = true ↔ l.any (fun e => decide (e.1 = src)) = false := by
  simp [List.all_eq_true, List.any_eq_false]

theorem option_all_ne_iff_any {α : Type} {o : Option (Nat × α)} :
    o.all (fun e => decide (e.1 ≠ src)) = true ↔ o.any (fun e => decide (e.1 = src)) = false := by
  cases o <;> simp

/-- A source that may fire does, into the present window. -/
theorem fired_tamperFire (h : s.mayFire src) : s.fired (s.tamperFire src).closed src ∧
    (s.tamperFire src).closed.tamper.brtc = s.tamper.brtc := by
  obtain ⟨harmed, hcell, htest, hon⟩ := h
  have hfires := State.tamperFire_of_may (s := s) ⟨harmed, hcell⟩ (option_all_ne_iff_any.mp htest) (all_ne_iff_any.mp hon)
  have htamper : (s.tamperFire src).closed.tamper = (s.firesNow src).tamper := by rw [State.closed_tamper, hfires]
  have hshown : (((s.shows src).count .tmp 0 1).wrEvt F.tmpEvtFired (setBit ((s.shows src).evt F.tmpEvtFired) src)).tamper =
      { s.tamper with active := setBit s.tamper.active src } := by
    rw [State.wrEvt_tamper, State.count_tamper]
    rfl
  rw [State.firesNow, State.modTamper_tamper, hshown] at htamper
  refine ⟨⟨?_, ?_, ?_, ?_, ?_, State.closed_regsBut State.tamperFire_regsBut⟩, ?_⟩
  · rw [htamper]
  · rw [htamper]
  · rw [htamper]
  · rw [State.closed_evt _ _ _ (by decide), hfires, State.firesNow, State.modTamper_evt, State.wrEvt_evt_self _ _ _ (by decide)]
    rfl
  · rw [htamper]
  · rw [htamper]

/-- What a source leaves that does not fire: nothing but what the monitors show. -/
structure State.Unfired (s t : State) (src : Nat) : Prop where
  window : t.tamper.window = s.tamper.window
  evt : t.evt F.tmpEvtFired = s.evt F.tmpEvtFired
  active : t.tamper.active = setBit s.tamper.active src
  brtc : t.tamper.brtc = s.tamper.brtc
  regs : s.regsBut t []

theorem State.Unfired.closed (h : s.Unfired t src) : s.Unfired t.closed src where
  window := by rw [State.closed_tamper, h.window]
  evt := by rw [State.closed_evt _ _ _ (by decide), h.evt]
  active := by rw [State.closed_tamper, h.active]
  brtc := by rw [State.closed_tamper, h.brtc]
  regs := State.closed_regsBut h.regs

theorem State.shows_unfired : s.Unfired (s.shows src) src := ⟨rfl, rfl, rfl, rfl, fun _ _ => rfl⟩

theorem tamperFire_unfired
    (h : s.srcArmed src = false ∨ s.mode = 0 ∧ onCell src = false ∨
      s.tamper.test.all (fun e => decide (e.1 ≠ src)) = true ∧ s.tamper.asserted.all (fun e => decide (e.1 ≠ src)) = false) :
    s.Unfired (s.tamperFire src) src := by
  by_cases hw : s.watches src
  · obtain ⟨harmed, hcell⟩ := hw
    rcases h with h | ⟨h, h'⟩ | ⟨htest, hon⟩
    · rw [harmed] at h; nomatch h
    · rw [hcell h] at h'; nomatch h'
    · have hon' : s.tamper.asserted.any (fun e => decide (e.1 = src)) = true := by
        refine Bool.not_eq_false _ |>.mp fun hany => ?_
        rw [all_ne_iff_any.mpr hany] at hon
        nomatch hon
      rw [State.tamperFire_of_asserted ⟨harmed, hcell⟩ (option_all_ne_iff_any.mp htest) hon']
      refine ⟨rfl, ?_, rfl, rfl, fun _ _ => rfl⟩
      rw [State.modTamper_evt]
      exact State.shows_unfired.evt
  · rw [State.tamperFire_of_unwatched (by simp only [not_and_or, Classical.not_imp] at hw; simpa using hw)]
    exact State.shows_unfired

/-- A source under test is seen, and does not fire (R435). -/
theorem tamperFire_seen {e : Nat} (hw : s.watches src) (htest : s.tamper.test = some (src, e)) :
    (s.tamperFire src).tamper.window = s.tamper.window ∧
      (s.tamperFire src).evt F.tmpTestSeenSeen = setBit (s.evt F.tmpTestSeenSeen) src % 2 ^ 23 ∧
      (s.tamperFire src).evt F.tmpEvtFired = s.evt F.tmpEvtFired := by
  rw [State.tamperFire_of_test hw (by rw [htest]; simp)]
  refine ⟨?_, ?_, ?_⟩
  · rw [State.wrEvt_tamper, State.shows_window]
  · rw [State.wrEvt_evt_self _ _ _ (by decide), State.shows_evt]
    rfl
  · rw [State.wrEvt_evt_ne (by decide), State.shows_evt]

/-! ### TAMPER_FIRE -/

/-- BRTC as a command that reports it leaves it. -/
def State.clocked (s : State) (rtc : Nat) : State := s.modTamper (fun t => { t with brtc := (t.brtc + 2 * rtc) % 2 ^ 48 })

theorem exec_tamperFire (src : Fin 23) (rtc : Nat) (h : s.fromOutside src = true) :
    exec (.tamperFire src rtc) s = done ((s.clocked rtc).tamperFire src) :=
  congrArg done (if_pos h)

theorem runs_tamperFire {src : Fin 23} {rtc : Nat} (hout : s.fromOutside src = true) (h : s.mayFire src) :
    Runs (.tamperFire src rtc) s (fun t => s.fired t src ∧ t.tamper.brtc = (s.tamper.brtc + 2 * rtc) % 2 ^ 48) :=
  runs_of_done (exec_tamperFire src rtc hout) (fired_tamperFire (s := s.clocked rtc) h)

theorem runs_tamperFire_unfired {src : Fin 23} {rtc : Nat} (hout : s.fromOutside src = true)
    (h : s.srcArmed src = false ∨ s.mode = 0 ∧ onCell src = false ∨
      s.tamper.test.all (fun e => decide (e.1 ≠ src.val)) = true ∧ s.tamper.asserted.all (fun e => decide (e.1 ≠ src.val)) = false) :
    Runs (.tamperFire src rtc) s (fun t => t.tamper.window = s.tamper.window ∧ t.evt F.tmpEvtFired = s.evt F.tmpEvtFired ∧
      t.tamper.active = setBit s.tamper.active src ∧ t.tamper.brtc = (s.tamper.brtc + 2 * rtc) % 2 ^ 48 ∧ s.regsBut t []) := by
  have hun := (tamperFire_unfired (s := s.clocked rtc) h).closed
  exact runs_of_done (exec_tamperFire src rtc hout) ⟨hun.window, hun.evt, hun.active, hun.brtc, hun.regs⟩

theorem runs_tamperFire_inside {src : Fin 23} {rtc : Nat} (hin : s.fromOutside src = false) :
    Runs (.tamperFire src rtc) s (fun t => t.tamper = { s.tamper with brtc := (s.tamper.brtc + 2 * rtc) % 2 ^ 48 } ∧
      s.regsBut t []) := by
  have hstill : (s.clocked rtc).fromOutside src = false := hin
  refine runs_of_done (u := s.clocked rtc) (congrArg done (if_neg (by rw [← State.clocked, hstill]; decide))) ⟨?_, ?_⟩
  · rw [State.closed_tamper]
    rfl
  · exact State.closed_regsBut (State.regsBut_of_word (fun _ => rfl) (State.regsBut_refl s _))

theorem runs_tamperFire_seen {e : Nat} (hlt : src < 23) (hout : s.fromOutside src = true) (htest : s.tamper.test = some (src, e))
    (harmed : s.srcArmed src = true) (hmode : s.mode ≠ 0) :
    Runs (.tamperFire (Fin.ofNat 23 src) 0) s (fun t => t.tamper.window = s.tamper.window ∧
      t.evt F.tmpTestSeenSeen = setBit (s.evt F.tmpTestSeenSeen) src % 2 ^ 23 ∧ t.evt F.tmpEvtFired = s.evt F.tmpEvtFired ∧
      s.regsBut t []) := by
  have hval : (Fin.ofNat 23 src).val = src := Nat.mod_eq_of_lt hlt
  obtain ⟨hwindow, hseen, hfired⟩ := tamperFire_seen (s := s.clocked 0) ⟨harmed, fun h => absurd h hmode⟩ htest
  refine runs_of_done (exec_tamperFire (Fin.ofNat 23 src) 0 (by rw [hval]; exact hout)) ?_
  rw [hval]
  refine ⟨?_, ?_, ?_, State.closed_regsBut State.tamperFire_regsBut⟩
  · rw [State.closed_tamper, hwindow]
    rfl
  · rw [State.closed_evt _ _ _ (by decide), hseen]
    rfl
  · rw [State.closed_evt _ _ _ (by decide), hfired]
    rfl

/-! ### Tests (R435, R449) -/

theorem runs_tamperTest {src : Fin 32} (hready : s.ready .tmp = true) (hlt : src.val < 23) (hidle : s.on F.tmpTestBusy = false) :
    Runs (.tamperTest src true) s (fun t => t.rd F.tmpTestBusy = 1 ∧
      t.tamper = { s.tamper with test := some (src.val, s.tick) } ∧ s.regsBut t [keyOf F.tmpTestBusy]) := by
  refine runs_of_done (congrArg done (State.gate_of_ready hready)) ?_
  rw [State.landTest, if_neg (by simp [hidle, hlt])]
  refine ⟨?_, ?_, State.closed_regsBut (State.regsBut_of_word (State.modTamper_word _ _) ?_)⟩
  · rw [State.closed_rd, State.modTamper_rd, State.rd_wr_of_lt _ _ (by decide) (by decide)]
  · rw [State.closed_tamper, State.modTamper_tamper, State.wr_tamper, State.count_tamper]
  · exact State.regsBut_wr _ (State.regsBut_of_word (State.count_word _ _ _ _ _ _) (State.regsBut_refl s _)) (List.mem_singleton_self _)

theorem closed_leaves_tamper : s.closed.tamper = s.tamper ∧ s.regsBut s.closed [] :=
  ⟨State.closed_tamper s, State.closed_regsBut (State.regsBut_refl s _)⟩

/-- The state in which a test is over and its stimulus gone. -/
def State.testOver (s : State) : State := (s.wr F.tmpTestBusy 0).modTamper (fun t => { t with test := none })

theorem State.testOver_tamper : s.testOver.tamper = { s.tamper with test := none } := rfl
theorem State.testOver_busy : s.testOver.rd F.tmpTestBusy = 0 := by
  rw [State.testOver, State.modTamper_rd, State.rd_wr_self _ _ _ _ (by decide), Nat.zero_mod]
theorem State.testOver_evt (f : Fld) : s.testOver.evt f = s.evt f := rfl
theorem State.testOver_regsBut : s.regsBut s.testOver [keyOf F.tmpTestBusy] :=
  State.regsBut_of_word (State.modTamper_word _ _) (State.regsBut_wr 0 (State.regsBut_refl s _) (List.mem_singleton_self _))
theorem State.testOver_rd {f : Fld} (h : keyOf f ≠ keyOf F.tmpTestBusy) : s.testOver.rd f = s.rd f :=
  congrArg (getF · f.lo f.w) (State.testOver_regsBut _ (by simpa using h))
theorem State.testOver_armed : s.testOver.srcArmed src = s.srcArmed src := by
  rw [State.srcArmed, State.srcArmed, State.testOver_rd (by decide), State.testOver_rd (by decide)]

theorem exec_testEnd {e : Nat × Nat} {still : Bool} (htest : s.tamper.test = some e) (hdue : e.2 + testTicks e.1 ≤ s.tick) :
    exec (.tamperTestEnd still) s = done (if still then s.testOver.tamperFire e.1 else s.testOver) := by
  have hlate : ¬ s.tick < e.2 + testTicks e.1 := by omega
  change done _ = _
  rw [htest]
  exact congrArg done (if_neg hlate)

theorem runs_testEnd_early {e : Nat × Nat} {still : Bool} (htest : s.tamper.test = some e) (hearly : s.tick < e.2 + testTicks e.1) :
    Runs (.tamperTestEnd still) s (fun t => t.tamper = s.tamper ∧ s.regsBut t []) := by
  refine runs_of_done (u := s) (congrArg done ?_) closed_leaves_tamper
  rw [htest]
  exact if_pos hearly

theorem runs_testEnd_gone {e : Nat × Nat} (htest : s.tamper.test = some e) (hdue : e.2 + testTicks e.1 ≤ s.tick) :
    Runs (.tamperTestEnd false) s (fun t => t.rd F.tmpTestBusy = 0 ∧ t.tamper = { s.tamper with test := none } ∧
      s.regsBut t [keyOf F.tmpTestBusy]) := by
  refine runs_of_done (exec_testEnd htest hdue) ⟨?_, ?_, State.closed_regsBut State.testOver_regsBut⟩
  · rw [State.closed_rd]
    exact State.testOver_busy
  · rw [State.closed_tamper]
    exact State.testOver_tamper

/-- A condition still there when its test ends fires for real (R435). -/
theorem runs_testEnd_still {e : Nat × Nat} (htest : s.tamper.test = some e) (hdue : e.2 + testTicks e.1 ≤ s.tick)
    (harmed : s.srcArmed e.1 = true) (hmode : s.mode ≠ 0)
    (hrearmed : s.tamper.asserted.all (fun x => decide (x.1 ≠ e.1)) = true) :
    Runs (.tamperTestEnd true) s (fun t => t.rd F.tmpTestBusy = 0 ∧ t.tamper.test = none ∧
      t.tamper.window = s.tamper.window ++ [e.1] ∧ t.evt F.tmpEvtFired = setBit (s.evt F.tmpEvtFired) e.1 % 2 ^ 23) := by
  have hmode' : s.testOver.mode = s.mode := State.testOver_rd (by decide)
  have hmay : s.testOver.mayFire e.1 :=
    ⟨State.testOver_armed.trans harmed, fun h => absurd (hmode'.symm.trans h) hmode, rfl, hrearmed⟩
  obtain ⟨⟨hwindow, -, -, hevt, -, hregs⟩, -⟩ := fired_tamperFire hmay
  have htested : (s.testOver.tamperFire e.1).tamper.test = none := by
    rw [State.tamperFire_of_may ⟨hmay.1, hmay.2.1⟩ rfl (all_ne_iff_any.mp hrearmed), State.firesNow, State.modTamper_tamper,
      State.wrEvt_tamper, State.count_tamper]
    rfl
  refine runs_of_done (exec_testEnd htest hdue) ⟨?_, ?_, hwindow, hevt⟩
  · exact (State.regsBut_rd hregs _ 0 0).trans State.testOver_busy
  · rw [State.closed_tamper]
    exact htested

end Sys2Proof.Machine
end

section
/-! PROOF. The responses of a window's union on main power (R427 to R429, R440). -/

namespace Sys2Proof.Machine

open Sys2Proof

variable {s t u : State} {n : Nat} {srcs : List Nat} {entry : Nat → Word × Word}

/-! ### The union acts -/

/-- What the responses of a union `n` leave. -/
structure State.Responded (s t : State) (n : Nat) : Prop where
  tamper : t.tamper = { s.tamper with haltDue := t.tamper.haltDue }
  flags : t.rd F.tmpFlagsEnv = s.rd F.tmpFlagsEnv
  quenched : bit n 4 = true → t.mode = 9 ∧ t.vault.slots = []
  unquenched : bit n 4 = false → t.mode = s.mode ∧ t.vault.slots = s.vault.slots
  halts : bit n 2 = true → t.tamper.haltDue.isSome = true
  runs : bit n 2 = false → t.tamper.haltDue = s.tamper.haltDue
  locks : bit n 5 = true → t.rd F.ofcStatSession = 0 ∧ t.officer.key = []

theorem State.lockOfficer_session : s.lockOfficer.rd F.ofcStatSession = 0 ∧ s.lockOfficer.officer.key = [] := by
  obtain ⟨hsession, hkey, -⟩ := s.endSession_parts
  unfold State.lockOfficer
  extract_lets till ended
  split
  · exact ⟨hsession, hkey⟩
  · refine ⟨?_, by rw [State.wr_officer, hkey]⟩
    rw [State.rd_wr_apart _ _ _ _ _ _ (by decide) (by decide), hsession]

/-- A halt falls due at the next edge (R429). -/
def State.haltsNext (s : State) (quench : Bool) : State :=
  s.modTamper (fun t => { t with haltDue := some (quench || t.haltDue.getD false) })

theorem State.haltsNext_tamper {q : Bool} :
    (s.haltsNext q).tamper = { s.tamper with haltDue := some (q || s.tamper.haltDue.getD false) } := rfl
theorem State.haltsNext_keeps {q : Bool} : Keeps (mask [.tamper]) s (s.haltsNext q) := State.modTamper_keeps

theorem State.respond_eq : s.respond n =
    (let s1 := onlyIf (bit n 4) State.quench s
     let s2 := onlyIf (bit n 3) (fun s => s.schedule (s.tick + 1) .asnQuench) s1
     let s3 := onlyIf (bit n 2) (fun s => s.haltsNext (bit n 4)) s2
     let s4 := onlyIf (bit n 5) State.lockOfficer s3
     onlyIf (bit n 1) (fun s => s.irq .tmp 0) s4) := rfl

theorem State.respond_responded (h0 : s.mode ≠ 0) (h1 : s.mode ≠ 1) : s.Responded (s.respond n) n := by
  rw [State.respond_eq]
  extract_lets s1 s2 s3 s4
  have hk1 : Keeps (mask [.sched, .rep, .pwr, .vault, .hearth, .kindle, .seals, .pair, .officer, .regions, .reinit, .out,
      .page .dev, .page .kvt, .page .flu, .page .cxm]) s s1 := .onlyIf (fun _ => State.quench_keeps) (.refl _)
  have hk2 : Keeps (mask [.sched]) s1 s2 := .onlyIf (fun _ => State.schedule_keeps) (.refl _)
  have hk3 : Keeps (mask [.tamper]) s2 s3 := .onlyIf (fun _ => State.haltsNext_keeps) (.refl _)
  have hk4 : Keeps (mask [.officer, .page .ofc]) s3 s4 := .onlyIf (fun _ => State.lockOfficer_keeps) (.refl _)
  have hk5 : Keeps (mask [.rep]) s4 (onlyIf (bit n 1) (fun s => s.irq .tmp 0) s4) :=
    .onlyIf (fun _ => State.irq_keeps) (.refl _)
  generalize hlast : onlyIf (bit n 1) (fun s => s.irq .tmp 0) s4 = t at hk5 ⊢
  have hrest : Keeps (mask [.sched, .tamper, .officer, .rep, .page .ofc]) s1 t :=
    (hk2.mono (by rfl)).trans ((hk3.mono (by rfl)).trans ((hk4.mono (by rfl)).trans (hk5.mono (by rfl))))
  have htamper1 : s1.tamper = s.tamper := hk1.frame .tamper (by decide)
  have htamper2 : s2.tamper = s.tamper := (hk2.frame .tamper (by decide)).trans htamper1
  have htamper : t.tamper = s3.tamper := (hk5.frame .tamper (by decide)).trans (hk4.frame .tamper (by decide))
  have hmode : t.mode = s1.mode := hrest.rd F.devModeMode 0 0 (by decide)
  have hvault : t.vault = s1.vault := hrest.frame .vault (by decide)
  have hflags : t.rd F.tmpFlagsEnv = s1.rd F.tmpFlagsEnv := hrest.rd F.tmpFlagsEnv 0 0 (by decide)
  refine ⟨?_, hflags.trans (hk1.rd F.tmpFlagsEnv 0 0 (by decide)), fun h4 => ?_, fun h4 => ?_, fun h2 => ?_, fun h2 => ?_, fun h5 => ?_⟩
  · rw [htamper]
    unfold s3 onlyIf
    split
    · rw [State.haltsNext_tamper, htamper2]
    · rw [htamper2]
  · have hs1 : s1 = s.quench := onlyIf_of_true h4
    rw [hmode, hvault, hs1]
    exact State.quench_enters h0 h1
  · have hs1 : s1 = s := onlyIf_of_false h4
    rw [hmode, hvault, hs1]
    exact ⟨rfl, rfl⟩
  · have hs3 : s3 = s2.haltsNext (bit n 4) := onlyIf_of_true h2
    rw [htamper, hs3, State.haltsNext_tamper]
    rfl
  · have hs3 : s3 = s2 := onlyIf_of_false h2
    rw [htamper, hs3, htamper2]
  · have hs4 : s4 = s3.lockOfficer := onlyIf_of_true h5
    obtain ⟨hsession, hkey⟩ := s3.lockOfficer_session
    rw [hk5.rd F.ofcStatSession 0 0 (by decide), show t.officer = s4.officer from hk5.frame .officer (by decide), hs4]
    exact ⟨hsession, hkey⟩

/-- Settles O57: each source by what `tamperFire` does with it, and each window by its evidence and the responses of its union. -/
theorem tamperSources : Obligations.TamperSources := by
  unfold Obligations.TamperSources
  refine ⟨fun s => ⟨?fire, fun src e0 => runs_tamperFire_seen, ?button, fun src => runs_tamperTest,
    fun e still => runs_testEnd_early, fun e htest hdue => ⟨runs_testEnd_gone htest hdue, runs_testEnd_still htest hdue⟩⟩, ?window⟩
  case fire =>
    rintro src rtc brtc rfl
    exact ⟨fun hout => ⟨runs_tamperFire hout, runs_tamperFire_unfired hout⟩, runs_tamperFire_inside⟩
  case button => exact fun hmay => runs_of_done rfl (fired_tamperFire hmay)
  case window =>
    intro s srcs u hsrcs hu hwindow hroom h0 h1
    have hlen : srcs.length ≤ 23 := hsrcs ▸ length_windowSrcs
    refine runs_windowEnd hwindow ?_
    generalize hentry : (fun i => logEntry s.tamper.winAt i u false s.tamper.winMode) = entry
    have hev := s.windowEvidence_evidenced (srcs := srcs) (entry := entry) (by omega)
    have hmode : (s.windowEvidence srcs entry).mode = s.mode := hev.keeps.rd F.devModeMode 0 0 (by decide)
    have hvault : (s.windowEvidence srcs entry).vault = s.vault := hev.keeps.frame .vault (by decide)
    have hacted := State.respond_responded (s := s.windowEvidence srcs entry) (n := u) (by rwa [hmode]) (by rwa [hmode])
    rw [State.windowEnd_on_power h0 hsrcs hu hentry.symm]
    have hkeep : Keeps (mask [.rep]) ((s.windowEvidence srcs entry).respond u) (onlyIf (bit u 0)
        (fun s => forL srcs (fun i s => s.tamperRecord i (entry i)) s) ((s.windowEvidence srcs entry).respond u)) :=
      .onlyIf (fun _ => .forL (fun _ _ => State.tamperRecord_keeps) (.refl _)) (.refl _)
    generalize onlyIf (bit u 0) (fun s => forL srcs (fun i s => s.tamperRecord i (entry i)) s)
      ((s.windowEvidence srcs entry).respond u) = t at hkeep ⊢
    have htamper : t.tamper = _ := (hkeep.frame .tamper (by decide)).trans hacted.tamper
    rw [hev.tamper] at htamper
    have hvault' : t.vault = ((s.windowEvidence srcs entry).respond u).vault := hkeep.frame .vault (by decide)
    have hrd (f : Fld) : t.rd f = ((s.windowEvidence srcs entry).respond u).rd f := hkeep.rd f 0 0 (by simp)
    have hmode' : t.mode = ((s.windowEvidence srcs entry).respond u).mode := hrd F.devModeMode
    have hofficer : t.officer = ((s.windowEvidence srcs entry).respond u).officer := hkeep.frame .officer (by decide)
    rw [State.closed_tamper, State.closed_mode, State.closed_vault, State.closed_officer, State.closed_rd, State.closed_rd,
      hmode', hvault', hofficer, hrd, hrd, ← hmode, ← hvault]
    refine ⟨congrArg Tamper.window htamper, congrArg Tamper.log htamper, fun i hi henv => ?_, hacted.quenched, hacted.unquenched, ?_, ?_, hacted.locks⟩
    · rw [hacted.flags]
      exact hev.flags i (.inr ⟨hi, henv⟩)
    · rw [htamper]
      exact hacted.halts
    · rw [htamper]
      intro h2
      have hstill := hacted.runs h2
      rw [hev.tamper] at hstill
      exact hstill

end Sys2Proof.Machine
end

section
/-! SUPPORT. Lanes that an operation on other lanes leaves alone, and bytes in two words (R445, R447). -/

namespace Sys2Proof.Machine

open Sys2Proof

variable {s t u : State} {g h : Nat}

/-! ### The rate and the module squelch of one lane -/

/-- Lane `g` keeps its rate and the squelch of its module. -/
structure LaneAlone (g : Nat) (s t : State) : Prop where
  rate : t.laneRate g = s.laneRate g
  squelch : (t.lane g).modSquelch = (s.lane g).modSquelch

theorem LaneAlone.refl (g : Nat) (s : State) : LaneAlone g s s := ⟨rfl, rfl⟩

theorem LaneAlone.trans (h : LaneAlone g s t) (h' : LaneAlone g t u) : LaneAlone g s u :=
  ⟨h'.rate.trans h.rate, h'.squelch.trans h.squelch⟩

theorem LaneAlone.wr_apart {f : Fld} (hs : LaneAlone g s u) (v i o : Nat) (hf : f.fits = true)
    (ha : Fld.apart f F.lanStatRate = true) : LaneAlone g s (u.wr f v i o) :=
  hs.trans ⟨State.wr_laneRate v i o hf ha, by rw [State.wr_lane]⟩

theorem LaneAlone.wr_other {f : Fld} (v o : Nat) (hn : g ≠ h) : LaneAlone g s (s.wr f v h o) :=
  ⟨State.rd_wr_other s v h o g 0 (.inl hn), rfl⟩

theorem LaneAlone.modLane {f : LaneRt → LaneRt} (hs : LaneAlone g s u) (hf : ∀ l, (f l).modSquelch = l.modSquelch) :
    LaneAlone g s (u.modLane h f) := by
  refine hs.trans ⟨State.modLane_laneRate .., ?_⟩
  by_cases hn : g = h
  · rw [hn, State.modLane_lane_self, hf]
  · rw [State.modLane_lane_ne _ _ hn]

theorem LaneAlone.modLane_other {f : LaneRt → LaneRt} (hn : g ≠ h) : LaneAlone g s (s.modLane h f) :=
  ⟨State.modLane_laneRate .., by rw [State.modLane_lane_ne _ _ hn]⟩

theorem LaneAlone.ite {c : Prop} [Decidable c] (ht : LaneAlone g s t) (hu : LaneAlone g s u) :
    LaneAlone g s (if c then t else u) := by
  split <;> assumption

theorem LaneAlone.setChk (hs : LaneAlone g s u) (c : Checker) : LaneAlone g s (u.setChk h c) :=
  (hs.wr_apart (f := F.lanPrbsStatLocked) _ _ _ (by decide) (by decide)).modLane fun _ => rfl

theorem LaneAlone.enterLane (hs : LaneAlone g s u) (st : Nat) : LaneAlone g s (u.enterLane h st) := by
  have hin : LaneAlone g s ((u.wr F.lanStatState st h).modLane h (fun l => { l with since := u.tick })) :=
    (hs.wr_apart _ _ _ (by decide) (by decide)).modLane fun _ => rfl
  rw [State.enterLane, State.restChk]
  exact .ite hin (hin.setChk _)

theorem LaneAlone.showPosition (hs : LaneAlone g s u) : LaneAlone g s (u.showPosition h) :=
  hs.wr_apart (f := F.lanSlipStatPosition) _ _ _ (by decide) (by decide)

theorem LaneAlone.nrzEye (hs : LaneAlone g s u) : LaneAlone g s (u.nrzEye h) := by
  rw [State.nrzEye]
  exact .ite hs ((hs.wr_apart _ _ _ (by decide) (by decide)).wr_apart _ _ _ (by decide) (by decide))

/-- A rate change does the rest of its work beside the rate itself. -/
theorem LaneAlone.startRate (rate : Nat) : LaneAlone g (s.wr F.lanStatRate rate h) (s.startRate h rate) := by
  rw [State.startRate]
  refine .modLane (.nrzEye (.showPosition (.enterLane (.setChk ?_ _) 1))) fun _ => rfl
  iterate 4 refine .wr_apart ?_ _ _ _ (by decide) (by decide)
  exact .refl g _

theorem LaneAlone.settleClass : LaneAlone g s (State.settleClass h s) := by
  unfold State.settleClass
  split
  · exact .ite (((LaneAlone.refl g s).wr_apart _ _ _ (by decide) (by decide)).modLane fun _ => rfl) (.refl g s)
  · exact .refl g s

/-! ### Bytes in a word -/

theorem leNat_lt (bs : List Byte) : leNat bs < 256 ^ bs.length := by
  induction bs with
  | nil => exact Nat.one_pos
  | cons b bs ih =>
    have hb : b.toNat < 256 := b.isLt
    rw [leNat, List.length_cons, Nat.pow_succ]
    omega

theorem leBytes_leNat (bs : List Byte) : leBytes bs.length (leNat bs) = bs := by
  induction bs with
  | nil => rfl
  | cons b bs ih =>
    have hb : b.toNat < 256 := b.isLt
    have hhead : BitVec.ofNat 8 (b.toNat + 256 * leNat bs) = b := by
      apply BitVec.eq_of_toNat_eq
      rw [BitVec.toNat_ofNat]
      omega
    have htail : (b.toNat + 256 * leNat bs) / 256 = leNat bs := by omega
    rw [List.length_cons, leNat, leBytes, hhead, htail, ih]

theorem leBytes_leNat_of_length {bs : List Byte} {n : Nat} (h : bs.length = n) : leBytes n (leNat bs) = bs := by
  rw [← h, leBytes_leNat]

theorem slice_eq_take {bs : List Byte} {n : Nat} (h : n ≤ bs.length) : slice bs 0 n = bs.take n := by
  rw [slice]
  simp [h]

/-- New bytes at the front of old ones, no more than there were, are what a read of the front gives. -/
theorem take_overwrite {old new : List Byte} {n : Nat} (hn : new.length = n) (h : n ≤ old.length) :
    (overwrite old 0 new).take n = new := by
  subst hn
  rw [overwrite, List.take_zero, List.nil_append, List.take_take, Nat.min_eq_left h, List.take_left]

end Sys2Proof.Machine
end

section
/-! PROOF. Module cages (R444 to R447, R451). -/

namespace Sys2Proof.Machine

open Sys2Proof

variable {s t u : State} {b : CageNo} {n : Nat}

/-! ### The event of a cage -/

theorem State.modEvent_keeps_rep (f : Fld) (b : Nat) : Keeps (mask [.rep]) s (s.modEvent f b) := State.modEvent_keeps
theorem State.counted_event_cages (f : Fld) (sel b : Nat) : ((s.count .mod 0 sel).modEvent f b).cages = s.cages :=
  (State.modEvent_keeps_rep f b).frame .cages (by decide) |>.trans (State.count_cages ..)
theorem State.counted_event_cage (f : Fld) (sel b d : Nat) : ((s.count .mod 0 sel).modEvent f b).cage d = s.cage d := by
  rw [State.cage, State.cage, State.counted_event_cages]
theorem State.counted_event_word (f : Fld) (sel b : Nat) (k : RegKey) : ((s.count .mod 0 sel).modEvent f b).word k = s.word k := by
  simp [State.modEvent]
theorem State.counted_event_lane (f : Fld) (sel b g : Nat) : ((s.count .mod 0 sel).modEvent f b).lane g = s.lane g := by
  simp [State.modEvent]
theorem State.counted_event_rd (f g : Fld) (sel b i o : Nat) : ((s.count .mod 0 sel).modEvent f b).rd g i o = s.rd g i o := by
  rw [State.rd, State.rd, State.counted_event_word]
theorem State.modEvent_evt {f : Fld} (h : f.fits = true) (hw : f.w = 1) (b : Nat) : (s.modEvent f b).evt f = 1 :=
  State.event_evt_self _ _ h hw

/-! ### Plug and unplug (R445, R446) -/

theorem bit_clrBit_self (n i : Nat) : bit (clrBit n i) i = false := by
  unfold clrBit bit
  split
  · next h =>
    rw [Nat.one_shiftLeft]
    have hsub := Nat.ge_two_pow_of_testBit h
    have hsplit : n = n - 2 ^ i + 2 ^ i := by omega
    have hflip : n.testBit i = !(n - 2 ^ i).testBit i := by
      conv_lhs => rw [hsplit, Nat.add_comm, Nat.testBit_two_pow_add_eq]
    rw [h] at hflip
    simpa using hflip
  · next h => simpa using h

theorem bit_mod_two_pow {n i w : Nat} (h : i < w) : bit (n % 2 ^ w) i = bit n i := by
  rw [bit, bit, Nat.testBit_mod_two_pow]
  simp [h]

theorem runs_modulePlug : Runs (.modulePlug b) s (fun t => bit (t.rd F.modPresentPresent) b = true ∧
    (t.cage b).resetUntil = some (s.tick + 2) ∧ (t.cage b).paged = none ∧ t.evt F.modEvtPlug = 1 ∧
    s.regsBut t [keyOf F.modPresentPresent] ∧ ∀ d : CageNo, d ≠ b → t.cage d = s.cage d) := by
  refine runs_of_done (u := (((s.wr F.modPresentPresent (setBit (s.rd F.modPresentPresent) b.val)).modCage b (fun c =>
    { c with resetUntil := some ((s.wr F.modPresentPresent (setBit (s.rd F.modPresentPresent) b.val)).tick + 2)
             paged := none })).count .mod 0 1).modEvent F.modEvtPlug b) rfl ⟨?_, ?_, ?_, ?_, ?_, fun d hd => ?_⟩
  · rw [State.closed_rd, State.counted_event_rd, State.modCage_rd, State.rd_wr_self _ _ _ _ (by decide),
      bit_mod_two_pow (w := F.modPresentPresent.w) b.isLt, bit_setBit]
    simp
  · rw [State.closed_cage, State.counted_event_cage, State.modCage_cage_self, State.wr_tick]
  · rw [State.closed_cage, State.counted_event_cage, State.modCage_cage_self]
  · rw [State.closed_evt _ _ _ (by decide)]
    exact State.modEvent_evt (by decide) (by decide) _
  · refine State.closed_regsBut (State.regsBut_of_word (State.counted_event_word _ _ _) (State.regsBut_of_word
      (State.modCage_word _ _ _) (State.regsBut_wr _ (State.regsBut_refl s _) (List.mem_singleton_self _))))
  · rw [State.closed_cage, State.counted_event_cage, State.modCage_cage_ne _ _ (fun h => hd (Fin.ext h)), State.wr_cage]

/-- What an unplug does to a lane (R72, R445). -/
def State.unplugLane (s : State) (g : Nat) : State :=
  let s := s.modLane g (fun l => { l with modSquelch := true })
  State.settleClass g (if s.laneState g = 0 then s.wr F.lanStatRate 0 g else s.startRate g 0)

/-- A lane whose module is gone: squelched, at code 0. -/
abbrev State.laneUnplugged (s : State) (g : Nat) : Prop := s.laneRate g = 0 ∧ (s.lane g).modSquelch = true

theorem State.unplugLane_self (g : Nat) : (s.unplugLane g).laneUnplugged g := by
  unfold State.unplugLane
  extract_lets u
  have hsquelch : (u.lane g).modSquelch = true := by unfold u; rw [State.modLane_lane_self]
  have hzero : (u.wr F.lanStatRate 0 g).laneRate g = 0 := State.rd_wr_self u 0 g 0 (by decide)
  have hrest : LaneAlone g (u.wr F.lanStatRate 0 g) (State.settleClass g
      (if u.laneState g = 0 then u.wr F.lanStatRate 0 g else u.startRate g 0)) :=
    (LaneAlone.ite (.refl g _) (.startRate 0)).trans .settleClass
  exact ⟨hrest.rate.trans hzero, hrest.squelch.trans hsquelch⟩

theorem State.unplugLane_other {g h : Nat} (hn : g ≠ h) : LaneAlone g s (s.unplugLane h) :=
  (LaneAlone.modLane_other hn).trans
    ((LaneAlone.ite (.wr_other 0 0 hn) ((LaneAlone.wr_other 0 0 hn).trans (.startRate 0))).trans .settleClass)

/-- Every lane of a list is unplugged, in whatever order. -/
theorem forL_unplugLane (gs : List Nat) : ∀ (s : State) (g : Nat), (g ∈ gs ∨ s.laneUnplugged g) →
    (forL gs (fun g s => s.unplugLane g) s).laneUnplugged g := by
  induction gs with
  | nil => exact fun s g h => h.resolve_left (by simp)
  | cons h gs ih =>
    intro s g hg
    refine ih (s.unplugLane h) g ?_
    by_cases hn : g = h
    · exact .inr (by rw [hn]; exact State.unplugLane_self h)
    · have hstays := State.unplugLane_other (s := s) hn
      rcases hg with hg | ⟨hrate, hsquelch⟩
      · exact .inl ((List.mem_cons.mp hg).resolve_left hn)
      · exact .inr ⟨hstays.rate.trans hrate, hstays.squelch.trans hsquelch⟩

theorem mem_cageLanes (b : Nat) (i : Fin 8) : 8 * b + i.val ∈ cageLanes b :=
  List.mem_map.mpr ⟨i.val, List.mem_range.mpr i.isLt, rfl⟩

theorem State.unplugLane_keeps (g : Nat) : Keeps (mask [.lanes, .page .lan]) s (s.unplugLane g) := by
  refine .step State.settleClass_keeps (by rfl) (.ite ?_ ?_)
  · exact .step State.wr_keeps (by rfl) (.step State.modLane_keeps (by rfl) (.refl s))
  · exact .step State.startRate_keeps (by rfl) (.step State.modLane_keeps (by rfl) (.refl s))

theorem runs_moduleUnplug : Runs (.moduleUnplug b) s (fun t => bit (t.rd F.modPresentPresent) b = false ∧
    t.evt F.modEvtUnplug = 1 ∧ ∀ i : Fin 8, t.laneRate (8 * b + i) = 0 ∧ (t.lane (8 * b + i)).modSquelch = true) := by
  generalize hu : ((s.wr F.modPresentPresent (clrBit (s.rd F.modPresentPresent) b.val)).modCage b
    (fun c => { c with resetUntil := none, paged := none })) = u
  refine runs_of_done (u := ((forL (cageLanes b) (fun g s => s.unplugLane g) u).count .mod 0 2).modEvent F.modEvtUnplug b)
    (hu ▸ rfl) ⟨?_, ?_, fun i => ?_⟩
  · have hlanes : Keeps (mask [.lanes, .page .lan]) u (forL (cageLanes b) (fun g s => s.unplugLane g) u) :=
      .forL (fun g s => State.unplugLane_keeps g) (.refl u)
    rw [State.closed_rd, State.counted_event_rd, hlanes.rd F.modPresentPresent 0 0 (by decide), ← hu, State.modCage_rd,
      State.rd_wr_self _ _ _ _ (by decide), bit_mod_two_pow (w := F.modPresentPresent.w) b.isLt, bit_clrBit_self]
  · rw [State.closed_evt _ _ _ (by decide)]
    exact State.modEvent_evt (by decide) (by decide) _
  · obtain ⟨hrate, hsquelch⟩ := forL_unplugLane (cageLanes b) u (8 * b + i) (.inl (mem_cageLanes b i))
    rw [State.closed_laneRate, State.laneRate, State.counted_event_rd, State.closed_lane, State.counted_event_lane]
    exact ⟨hrate, hsquelch⟩

/-- Every lane of a list is let go, in whatever order. -/
theorem forL_unsquelch (gs : List Nat) : ∀ (s : State) (g : Nat), (g ∈ gs ∨ (s.lane g).modSquelch = false) →
    ((forL gs (fun g s => s.modLane g (fun l => { l with modSquelch := false })) s).lane g).modSquelch = false := by
  induction gs with
  | nil => exact fun s g h => h.resolve_left (by simp)
  | cons h gs ih =>
    intro s g hg
    refine ih _ g ?_
    by_cases hn : g = h
    · exact .inr (by rw [hn, State.modLane_lane_self])
    · rcases hg with hg | hg
      · exact .inl ((List.mem_cons.mp hg).resolve_left hn)
      · exact .inr (by rw [State.modLane_lane_ne _ _ hn, hg])

theorem runs_moduleResetRelease {e : Nat} (hreset : (s.cage b).resetUntil = some e) (hdue : e ≤ s.tick) :
    Runs (.moduleResetRelease b) s (fun t => (t.cage b).resetUntil = none ∧ s.regsBut t [] ∧
      ∀ i : Fin 8, (t.lane (8 * b + i)).modSquelch = false) := by
  have hexec : exec (.moduleResetRelease b) s = done (forL (cageLanes b)
      (fun g s => s.modLane g (fun l => { l with modSquelch := false })) (s.modCage b (fun c => { c with resetUntil := none }))) := by
    change done _ = _
    rw [hreset]
    exact congrArg done (if_pos hdue)
  have hlanes : Keeps (mask [.lanes]) (s.modCage b (fun c => { c with resetUntil := none })) (forL (cageLanes b)
      (fun g s => s.modLane g (fun l => { l with modSquelch := false })) (s.modCage b (fun c => { c with resetUntil := none }))) :=
    .forL (fun _ _ => State.modLane_keeps) (.refl _)
  refine runs_of_done hexec ⟨?_, ?_, fun i => ?_⟩
  · have hcages := hlanes.frame .cages (by decide)
    change (State.cages _) = _ at hcages
    rw [State.closed_cage, State.cage, hcages, ← State.cage, State.modCage_cage_self]
  · exact State.closed_regsBut (State.regsBut_trans (State.regsBut_of_word (State.modCage_word _ _ _) (State.regsBut_refl s _))
      (hlanes.regsBut (by simp)))
  · rw [State.closed_lane]
    exact forL_unsquelch (cageLanes b) _ _ (.inl (mem_cageLanes b i))

end Sys2Proof.Machine
end

section
/-! PROOF. The management bus of the module cages (R447, R451). -/

namespace Sys2Proof.Machine

open Sys2Proof

variable {s t u : State} {b : CageNo} {op len off page bank : Nat}

/-! ### The module's interrupt -/

theorem State.event_keeps_regsBut {f : Fld} {sel b : Nat} : u.regsBut ((u.count .mod 0 sel).modEvent f b) [] :=
  State.regsBut_of_word (State.counted_event_word f sel b) (State.regsBut_refl u _)

theorem runs_moduleInterrupt {low : Bool} (hwas : s.rd F.modStatInt 0 b = 0) :
    Runs (.moduleInterrupt b low) s (fun t => t.rd F.modStatInt 0 b = b2n low ∧ (low = true → t.evt F.modEvtModuleInt = 1) ∧
      s.regsBut t [keyOf F.modStatInt 0 b]) := by
  have hself : (s.wr F.modStatInt (b2n low) 0 b).rd F.modStatInt 0 b = b2n low :=
    State.rd_wr_of_lt _ _ (by decide) (by cases low <;> decide)
  have hregs : s.regsBut (s.wr F.modStatInt (b2n low) 0 b) [keyOf F.modStatInt 0 b] :=
    State.regsBut_wr _ (State.regsBut_refl s _) (List.mem_singleton_self _)
  have hoff : s.on F.modStatInt 0 b = false := by rw [State.on, hwas]; rfl
  cases low with
  | true =>
    have hexec : exec (.moduleInterrupt b true) s =
        done (((s.wr F.modStatInt 1 0 b).count .mod 0 5).modEvent F.modEvtModuleInt b) := by
      change done (if true && !s.on F.modStatInt 0 b then _ else _) = _
      rw [hoff]
      rfl
    refine runs_of_done hexec ⟨?_, fun _ => ?_, State.closed_regsBut (State.regsBut_of_word (State.counted_event_word _ _ _) hregs)⟩
    · rw [State.closed_rd, State.counted_event_rd]
      exact hself
    · rw [State.closed_evt _ _ _ (by decide)]
      exact State.modEvent_evt (by decide) (by decide) _
  | false =>
    have hexec : exec (.moduleInterrupt b false) s = done (s.wr F.modStatInt 0 0 b) := rfl
    exact runs_of_done hexec ⟨(State.closed_rd ..).trans hself, nofun, State.closed_regsBut hregs⟩

/-! ### A bus command begins -/

/-- The bus writes bank and page first where the command needs others (R447). -/
def State.turnPage (s : State) (b off page bank : Nat) : State :=
  if 0x80 ≤ off ∧ (s.cage b).paged ≠ some (bank, page) then
    (s.emit (.cmis b true bank page 0x7E [BitVec.ofNat 8 bank, BitVec.ofNat 8 page])).modCage b
      (fun c => { c with paged := some (bank, page) })
  else s

/-- The bus command itself. -/
def State.startBus (s : State) (b op len off page bank : Nat) (data : List Byte) : State :=
  (((s.emit (.cmis b (decide (op = 2)) bank page off (if op = 2 then data.take len else []))).count .mod 0 3).wr
    F.modStatBusy 1 0 b).modCage b (fun c => { c with cmd := some (op, len, off, page, bank), began := s.tick })

/-- The bytes that the data words of a cage hold. -/
abbrev State.busData (s : State) (b : Nat) : List Byte := leBytes 4 (s.rd F.modDataLoData 0 b) ++ leBytes 4 (s.rd F.modDataHiData 0 b)

theorem State.turnPage_word (k : RegKey) : (s.turnPage b off page bank).word k = s.word k := by
  unfold State.turnPage
  split <;> rfl

theorem State.turnPage_rd (f : Fld) (i o : Nat) : (s.turnPage b off page bank).rd f i o = s.rd f i o := by
  rw [State.rd, State.rd, State.turnPage_word]

theorem State.turnPage_out : (s.turnPage b off page bank).out = s.out ++
    (if 0x80 ≤ off ∧ (s.cage b).paged ≠ some (bank, page) then
      [.cmis b true bank page 0x7E [BitVec.ofNat 8 bank, BitVec.ofNat 8 page]] else []) := by
  unfold State.turnPage
  split
  · rfl
  · rw [List.append_nil]

theorem State.startBus_out (data : List Byte) : (s.startBus b op len off page bank data).out =
    s.out ++ [.cmis b (decide (op = 2)) bank page off (if op = 2 then data.take len else [])] := by
  rw [State.startBus, State.modCage_out, State.wr_out, State.count_out, State.emit_out]

/-- A command that its cage may take begins (R447). -/
theorem landModCmd_begins (hr : s.ready .mod = true) (hbus : s.rd F.modSelBus = b.val) (hidle : s.rd F.modStatBusy 0 b = 0)
    (hplug : bit (s.rd F.modPresentPresent) b = true) (hreset : (s.cage b).resetUntil = none) (hop : op = 1 ∨ op = 2) :
    s.landModCmd op len off page bank = (s.turnPage b off page bank).startBus b op len off page bank (s.busData b) := by
  have hoff : s.on F.modStatBusy 0 b = false := by rw [State.on, hidle]; rfl
  have hcage : s.cageReady b = true := by rw [State.cageReady, hplug, hreset]; rfl
  have hfree : ¬(op = 0 ∨ s.on F.modStatBusy 0 b = true) := by rw [hoff]; simp; omega
  have hmay : ¬(op = 3 ∨ s.cageReady b = false) := by rw [hcage]; simp; omega
  rw [State.landModCmd, State.gate_of_ready hr, hbus, if_neg hfree, if_neg hmay]
  extract_lets paging v data w
  have hturn : v = s.turnPage b off page bank := by
    unfold v paging State.turnPage onlyIf
    simp only [Bool.and_eq_true, decide_eq_true_eq]
  have hdata : data = s.busData b := by
    unfold data
    rw [hturn, State.turnPage_rd, State.turnPage_rd]
  unfold w
  rw [hdata, hturn]
  rfl
 

theorem busBegun (data : List Byte) :
    let t := ((s.turnPage b off page bank).startBus b op len off page bank data).closed
    t.rd F.modStatBusy 0 b = 1 ∧ s.regsBut t [keyOf F.modStatBusy 0 b] ∧ (t.cage b).cmd = some (op, len, off, page, bank) ∧
      (s.out ++ (if 0x80 ≤ off ∧ (s.cage b).paged ≠ some (bank, page) then
          [.cmis b true bank page 0x7E [BitVec.ofNat 8 bank, BitVec.ofNat 8 page]] else []) ++
        [.cmis b (decide (op = 2)) bank page off (if op = 2 then data.take len else [])]) <+: t.out := by
  refine ⟨?_, ?_, ?_, ?_⟩
  · rw [State.closed_rd, State.startBus, State.modCage_rd, State.rd_wr_of_lt _ _ (by decide) (by decide)]
  · exact State.closed_regsBut (State.regsBut_of_word (State.modCage_word _ _ _) (State.regsBut_wr _
      (State.regsBut_of_word (fun k => (State.count_word ..).trans (State.turnPage_word k)) (State.regsBut_refl s _))
      (List.mem_singleton_self _)))
  · rw [State.closed_cage, State.startBus, State.modCage_cage_self]
  · rw [← State.turnPage_out, ← State.startBus_out]
    exact State.closed_out _

/-- A command to a cage that takes none is refused with result 3 (R445 to R447). -/
theorem landModCmd_refused (hr : s.ready .mod = true) (hbus : s.rd F.modSelBus = b.val) (hidle : s.rd F.modStatBusy 0 b = 0)
    (hcell : bit (s.rd F.modPresentPresent) b = false ∨ (s.cage b).resetUntil ≠ none) (hop : op ≠ 0) :
    s.landModCmd op len off page bank = s.wr F.modStatResult 3 0 b := by
  have hoff : s.on F.modStatBusy 0 b = false := by rw [State.on, hidle]; rfl
  have hcage : s.cageReady b = false := by
    rw [State.cageReady, Bool.and_eq_false_iff]
    exact hcell.imp_right fun h => by rw [← Bool.not_eq_true, Option.isNone_iff_eq_none]; exact h
  have hfree : ¬(op = 0 ∨ s.on F.modStatBusy 0 b = true) := by rw [hoff]; simpa using hop
  rw [State.landModCmd, State.gate_of_ready hr, hbus, if_neg hfree, if_pos (.inr hcage)]

theorem busRefused : let t := (s.wr F.modStatResult 3 0 b).closed
    t.rd F.modStatResult 0 b = 3 ∧ t.cages = s.cages ∧ s.regsBut t [keyOf F.modStatResult 0 b] :=
  ⟨(State.closed_rd ..).trans (State.rd_wr_of_lt _ _ (by decide) (by decide)), (State.closed_cages _).trans (State.wr_cages ..),
    State.closed_regsBut (State.regsBut_wr _ (State.regsBut_refl s _) (List.mem_singleton_self _))⟩

/-! ### A bus command ends -/

theorem State.endModCmd_word_of_ne {result : Nat} {k : RegKey} (hbusy : k ≠ keyOf F.modStatBusy 0 b)
    (hresult : k ≠ keyOf F.modStatResult 0 b) : (s.endModCmd b result).word k = s.word k := by
  unfold State.endModCmd onlyIf
  extract_lets v
  have hv : v.word k = s.word k := by
    unfold v
    rw [State.modCage_word, State.wr_word_ne _ _ hresult, State.wr_word_ne _ _ hbusy]
  split
  · rw [State.counted_event_word, hv]
  · exact hv

/-- The bus is free, with the result shown. -/
theorem State.endModCmd_ends {result : Nat} (h : result < 4) : (s.endModCmd b result).rd F.modStatBusy 0 b = 0 ∧
    (s.endModCmd b result).rd F.modStatResult 0 b = result ∧ ((s.endModCmd b result).cage b).cmd = none := by
  have hends : ∀ u : State, let v := ((u.wr F.modStatBusy 0 0 b).wr F.modStatResult result 0 b).modCage b (fun c => { c with cmd := none })
      v.rd F.modStatBusy 0 b = 0 ∧ v.rd F.modStatResult 0 b = result ∧ (v.cage b).cmd = none := fun u => by
    refine ⟨?_, ?_, ?_⟩
    · rw [State.modCage_rd, State.rd_wr_apart _ (f := F.modStatResult) (g := F.modStatBusy) _ _ _ _ _ (by decide) (by decide),
        State.rd_wr_of_lt _ _ (by decide) (by decide)]
    · rw [State.modCage_rd, State.rd_wr_of_lt _ _ (by decide) h]
    · rw [State.modCage_cage_self]
  unfold State.endModCmd onlyIf
  split
  · rw [State.counted_event_rd, State.counted_event_rd, State.counted_event_cage]
    exact hends s
  · exact hends s

theorem State.endModCmd_evt : (s.endModCmd b 2).evt F.modEvtBusErr = 1 := by
  unfold State.endModCmd
  rw [onlyIf_of_true (by decide)]
  exact State.modEvent_evt (by decide) (by decide) _

theorem runs_moduleTimeout {cmd : Nat × Nat × Nat × Nat × Nat} {reply : Option (List Byte)} (hcmd : (s.cage b).cmd = some cmd)
    (hlate : (s.cage b).began + 50 < s.tick) : Runs (.moduleCmdDone b reply) s (fun t => t.rd F.modStatBusy 0 b = 0 ∧
      t.rd F.modStatResult 0 b = 2 ∧ (t.cage b).cmd = none ∧ t.evt F.modEvtBusErr = 1) := by
  have hexec : exec (.moduleCmdDone b reply) s = done (s.endModCmd b 2) := by
    change done _ = _
    rw [hcmd]
    exact congrArg done (if_pos hlate)
  obtain ⟨hbusy, hresult, hidle⟩ := State.endModCmd_ends (s := s) (b := b) (result := 2) (by decide)
  refine runs_of_done hexec ⟨(State.closed_rd ..).trans hbusy, (State.closed_rd ..).trans hresult, ?_, ?_⟩
  · rw [State.closed_cage, hidle]
  · rw [State.closed_evt _ _ _ (by decide), State.endModCmd_evt]

/-- The data words of a cage with bytes read over what they held. -/
def State.busRead (s : State) (b : Nat) (new : List Byte) : State :=
  (s.wr F.modDataLoData (leNat (slice new 0 4)) 0 b).wr F.modDataHiData (leNat (slice new 4 4)) 0 b

theorem State.busRead_lo (new : List Byte) :
    leBytes 4 ((s.busRead b new).rd F.modDataLoData 0 b) = slice new 0 4 := by
  have hlen : (slice new 0 4).length = 4 := length_slice ..
  rw [State.busRead, State.rd_wr_apart _ (f := F.modDataHiData) (g := F.modDataLoData) _ _ _ _ _ (by decide) (by decide),
    State.rd_wr_of_lt _ _ (by decide) (lt_of_lt_of_eq (leNat_lt _) (by rw [hlen]; decide))]
  exact leBytes_leNat_of_length hlen

theorem length_overwrite_front {old new : List Byte} (h : new.length ≤ old.length) : (overwrite old 0 new).length = old.length := by
  rw [overwrite]
  simp
  omega

theorem runs_moduleReply {bytes : List Byte} (hcmd : (s.cage b).cmd = some (1, len, off, page, bank))
    (htime : s.tick ≤ (s.cage b).began + 50) (hlen : len ≤ 4) :
    Runs (.moduleCmdDone b (some bytes)) s (fun t => t.rd F.modStatBusy 0 b = 0 ∧ t.rd F.modStatResult 0 b = 0 ∧
      (t.cage b).cmd = none ∧ (leBytes 4 (t.rd F.modDataLoData 0 b)).take len = slice bytes 0 len) := by
  generalize hnew : overwrite (s.busData b) 0 (slice bytes 0 len) = new
  have hexec : exec (.moduleCmdDone b (some bytes)) s = done ((s.busRead b new).endModCmd b 0) := by
    change done _ = _
    rw [hcmd, ← hnew]
    exact congrArg done (if_neg (Nat.not_lt.mpr htime))
  have hslice : (slice bytes 0 len).length = len := length_slice ..
  have hdata : (s.busData b).length = 8 := by rw [List.length_append, leBytes_length, leBytes_length]
  have hwhole : new.length = 8 := by rw [← hnew, length_overwrite_front (by omega), hdata]
  obtain ⟨hbusy, hresult, hidle⟩ := State.endModCmd_ends (s := s.busRead b new) (b := b) (result := 0) (by decide)
  refine runs_of_done hexec ⟨(State.closed_rd ..).trans hbusy, (State.closed_rd ..).trans hresult, ?_, ?_⟩
  · rw [State.closed_cage, hidle]
  · have hword : ((s.busRead b new).endModCmd b 0).rd F.modDataLoData 0 b = (s.busRead b new).rd F.modDataLoData 0 b := by
      rw [State.rd, State.rd, State.endModCmd_word_of_ne (by simp [keyOf]; decide) (by simp [keyOf]; decide)]
    rw [State.closed_rd, hword, State.busRead_lo new, slice_eq_take (by rw [hwhole]; decide), List.take_take, Nat.min_eq_left hlen, ← hnew]
    exact take_overwrite hslice (by rw [hdata]; omega)

/-- Settles O21: each command as the cage's state lets it, the bus by the byte. -/
theorem moduleCages : Obligations.ModuleCages := by
  unfold Obligations.ModuleCages
  intro s b
  refine ⟨runs_modulePlug, runs_moduleUnplug, fun e => runs_moduleResetRelease, fun low => runs_moduleInterrupt, ?_, ?_,
    fun len off page bank bytes => runs_moduleReply, fun cmd reply => runs_moduleTimeout⟩
  · intro len off page bank hr hbus hidle hplug hreset _
    exact ⟨runs_of_done (congrArg done (landModCmd_begins hr hbus hidle hplug hreset (.inl rfl))) (busBegun _),
      runs_of_done (congrArg done (landModCmd_begins hr hbus hidle hplug hreset (.inr rfl))) (busBegun _)⟩
  · intro len off page bank hr hbus hidle hrefuse
    exact runs_of_done (congrArg done (landModCmd_refused hr hbus hidle hrefuse (by decide))) busRefused

end Sys2Proof.Machine
end

section
/-! PROOF. Time, the PPS pins, the panel and BRTC (R413 to R418, R442, R443, R449). -/

namespace Sys2Proof.Machine

open Sys2Proof

variable {s t u : State} {cyc : Cyc}

/-! ### The increment and the step -/

theorem Sched.copy_isCopyOf_ne {k k' : RegKey} (h : k ≠ k') (due : Nat) (held : Bool) (w : Word) :
    Sched.isCopyOf k' { due := due, held := held, act := .copy k w } = false := by
  simpa [Sched.isCopyOf] using fun e => h e.symm

theorem runs_incWrite {w : Word} (hr : s.ready .tsu = true) :
    Runs (.incWrite w cyc) s (fun t => t.time = s.time ∧ s.regsBut t [] ∧
      t.sched = s.sched.filter (fun e => !e.isCopyOf (keyOf F.tsuIncLoIncFrac) && !e.isCopyOf (keyOf F.tsuIncHiIncInt)) ++
        [{ due := s.edgeFor cyc, held := s.on F.devCommitCtlHold
           act := .copy (keyOf F.tsuIncLoIncFrac) (s.time.stagedLo.getD (BitVec.ofNat 32 (s.rd F.tsuIncLoIncFrac))) },
         { due := s.edgeFor cyc, held := s.on F.devCommitCtlHold, act := .copy (keyOf F.tsuIncHiIncInt) w }]) := by
  have hexec : exec (.incWrite w cyc) s = done ((s.at cyc).landIncHi w cyc) :=
    congrArg done (State.gate_of_ready ((State.at_ready ..).trans hr))
  refine runs_of_done hexec ⟨(State.closed_time _).trans rfl, State.closed_regsBut fun _ _ => rfl, (State.closed_sched _).trans ?_⟩
  change List.filter _ (List.filter _ s.sched ++ _) ++ _ = _
  rw [List.filter_append, List.filter_filter, List.append_assoc, List.filter_cons_of_pos, List.filter_nil]
  · simp only [Bool.and_comm]
    rfl
  · rw [Sched.copy_isCopyOf_ne (by decide)]
    rfl

theorem runs_timeStep {w : Word} (hr : s.ready .tsu = true) :
    Runs (.timeStep w cyc) s (fun t => t.time = s.time ∧ s.regsBut t [] ∧
      (∀ x, { due := s.edgeFor cyc, act := .timeStep x } ∈ t.sched ↔ x = w.toNat)) := by
  have hexec : exec (.timeStep w cyc) s = done ((s.at cyc).landTimeStep w cyc) :=
    congrArg done (State.gate_of_ready ((State.at_ready ..).trans hr))
  refine runs_of_done hexec ⟨(State.closed_time _).trans rfl, State.closed_regsBut fun _ _ => rfl, fun x => ?_⟩
  rw [State.closed_sched]
  change _ ∈ List.filter _ s.sched ++ [_] ↔ _
  have hedge : (s.at cyc).edgeFor cyc = s.edgeFor cyc := rfl
  simp [List.mem_filter, hedge]

/-! ### Reads that latch -/

theorem runs_timeRead (hr : s.ready .tsu = true) :
    Runs (.timeRead cyc) s (fun t => s.sends t (.read [BitVec.ofNat 32 (nsOf (s.at cyc).timeNow)]) ∧
      t.rd F.tsuTimeFracTimeFrac = (s.at cyc).timeNow % 2 ^ 32 ∧ t.rd F.tsuRawNsRawNs = nsOf (s.at cyc).rawNow ∧
      t.time = s.time ∧ s.regsBut t [keyOf F.tsuTimeFracTimeFrac, keyOf F.tsuRawNsRawNs]) := by
  generalize hv : (s.at cyc).wr F.tsuTimeFracTimeFrac ((s.at cyc).timeNow % 2 ^ 32) = v
  generalize hw : v.wr F.tsuRawNsRawNs (nsOf (s.at cyc).rawNow) = w
  have hinc : w.timeInc = (s.at cyc).timeInc := by
    have hfirst : v.timeInc = (s.at cyc).timeInc := by
      rw [← hv, State.timeInc, State.timeInc, State.rd_wr_apart _ (f := F.tsuTimeFracTimeFrac) (g := F.tsuIncHiIncInt) _ _ _ _ _
        (by decide) (by decide), State.rd_wr_apart _ (f := F.tsuTimeFracTimeFrac) (g := F.tsuIncLoIncFrac) _ _ _ _ _ (by decide) (by decide)]
    rw [← hfirst, ← hw, State.timeInc, State.timeInc, State.rd_wr_apart _ (f := F.tsuRawNsRawNs) (g := F.tsuIncHiIncInt) _ _ _ _ _
      (by decide) (by decide), State.rd_wr_apart _ (f := F.tsuRawNsRawNs) (g := F.tsuIncLoIncFrac) _ _ _ _ _ (by decide) (by decide)]
  have htime : w.timeNow = (s.at cyc).timeNow := by
    rw [State.timeNow, hinc, ← hw, State.wr_time, State.wr_cycle, ← hv, State.wr_time, State.wr_cycle, State.timeNow]
  have hexec : exec (.timeRead cyc) s = done (w.emit (.read [BitVec.ofNat 32 (nsOf w.timeNow)])) := by
    rw [← hw, ← hv]
    exact congrArg done (State.gateRead_of_ready ((State.at_ready ..).trans hr))
  rw [htime] at hexec
  refine runs_of_done hexec ⟨State.sends_emit _ ?_, ?_, ?_, ?_, ?_⟩
  · rw [← hw, State.wr_out, ← hv, State.wr_out, State.at_out]
  · rw [State.closed_rd, State.emit_rd, ← hw, State.rd_wr_apart _ (f := F.tsuRawNsRawNs) (g := F.tsuTimeFracTimeFrac) _ _ _ _ _
      (by decide) (by decide), ← hv, State.rd_wr_self _ _ _ _ (by decide)]
    exact Nat.mod_mod _ _
  · rw [State.closed_rd, State.emit_rd, ← hw, State.rd_wr_self _ _ _ _ (by decide)]
    exact Nat.mod_mod _ _
  · rw [State.closed_time, State.emit_time, ← hw, State.wr_time, ← hv, State.wr_time, State.at_time]
  · refine State.closed_regsBut (State.emit_regsBut _ ?_)
    rw [← hw, ← hv]
    exact State.regsBut_wr _ (State.regsBut_wr _ (State.at_regsBut s cyc _) (by simp)) (by simp)

theorem runs_edgeTimeRead (hr : s.ready .tsu = true) :
    Runs (.edgeTimeRead cyc) s (fun t => s.sends t (.read [BitVec.ofNat 32 s.time.edgeNs]) ∧
      t.rd F.tsuEdgeTickEdgeTick = s.time.edgeTick % 2 ^ 32 ∧ t.time = s.time ∧ s.regsBut t [keyOf F.tsuEdgeTickEdgeTick]) := by
  have hexec : exec (.edgeTimeRead cyc) s =
      done (((s.at cyc).wr F.tsuEdgeTickEdgeTick s.time.edgeTick).emit (.read [BitVec.ofNat 32 s.time.edgeNs])) :=
    congrArg done (State.gateRead_of_ready ((State.at_ready ..).trans hr))
  refine runs_of_done hexec ⟨State.sends_emit _ rfl, ?_, ?_, ?_⟩
  · rw [State.closed_rd, State.emit_rd, State.rd_wr_self _ _ _ _ (by decide)]
    rfl
  · rw [State.closed_time, State.emit_time, State.wr_time, State.at_time]
  · exact State.closed_regsBut (State.emit_regsBut _ (State.regsBut_wr _ (State.at_regsBut s cyc _) (List.mem_singleton_self _)))

/-! ### PPS_OUT (R417) -/

/-- A value behind a time, moved on, lies ahead of it: one step of 10^9 is less than half of the range. -/
theorem ppsAhead_ahead {fuel n x : Nat} (hn : n < 2 ^ 32) (hx : x < 2 ^ 32)
    (hfuel : 2 ^ 31 ≤ (x + 2 ^ 32 - n) % 2 ^ 32 ∨ (x + 2 ^ 32 - n) % 2 ^ 32 < fuel * 1000000000) :
    ppsAhead fuel n x < 2 ^ 32 ∧ 2 ^ 31 ≤ (x + 2 ^ 32 - ppsAhead fuel n x) % 2 ^ 32 := by
  induction fuel generalizing n with
  | zero => exact ⟨hn, by rw [ppsAhead]; omega⟩
  | succ fuel ih =>
    rw [ppsAhead]
    split
    · exact ih (Nat.mod_lt _ (by decide)) (by omega)
    · exact ⟨hn, by omega⟩

theorem runs_ppsOut {n x : Nat} (hn : n = s.rd F.tsuPpsOutNextNext) (hx : x = nsOf (s.at cyc).timeNow)
    (hon : s.on F.tsuCtlPpsOutEn = true) (hreached : (x + 2 ^ 32 - n) % 2 ^ 32 < 2 ^ 31) :
    Runs (.ppsOut cyc) s (fun t => t.time = { s.time with ppsHigh := some (s.at cyc).now } ∧ t.evt F.tsuEvtPpsOut = 1 ∧
      t.rd F.tsuPpsOutNextNext = ppsAhead 5 n x % 2 ^ 32 ∧ 2 ^ 31 ≤ (x + 2 ^ 32 - t.rd F.tsuPpsOutNextNext) % 2 ^ 32 ∧
      s.regsBut t [keyOf F.tsuPpsOutNextNext]) := by
  have hexec : exec (.ppsOut cyc) s = done (((((s.at cyc).modTime (fun q => { q with ppsHigh := some (s.at cyc).now })).wr
      F.tsuPpsOutNextNext (ppsAhead 5 n x)).event F.tsuEvtPpsOut).count .tsu 0 8) := by
    rw [hn, hx] at hreached ⊢
    exact congrArg done (if_pos (by rw [State.at_on, hon, State.at_rd, decide_eq_true hreached]; rfl))
  have hnlt : n < 2 ^ 32 := hn ▸ getF_lt_two_pow ..
  have hxlt : x < 2 ^ 32 := hx ▸ Nat.mod_lt _ (by decide)
  obtain ⟨hlt, hahead⟩ := ppsAhead_ahead (fuel := 5) hnlt hxlt (.inr (by omega))
  have hnext : ∀ v : State, (((v.wr F.tsuPpsOutNextNext (ppsAhead 5 n x)).event F.tsuEvtPpsOut).count .tsu 0 8).closed.rd
      F.tsuPpsOutNextNext = ppsAhead 5 n x := fun v => by
    rw [State.closed_rd, State.count_rd, State.event_rd, State.rd_wr_of_lt _ _ (by decide) hlt]
  refine runs_of_done hexec ⟨?_, ?_, ?_, ?_, ?_⟩
  · rw [State.closed_time, State.count_time, State.event_time, State.wr_time]
    rfl
  · rw [State.closed_evt _ _ _ (by decide), State.count_evt, State.event_evt_self _ _ (by decide) (by decide)]
  · rw [hnext, Nat.mod_eq_of_lt hlt]
  · rw [hnext]
    exact hahead
  · exact State.closed_regsBut (State.regsBut_of_word (fun k => (State.count_word ..).trans (State.event_word ..))
      (State.regsBut_wr _ (fun _ _ => rfl) (List.mem_singleton_self _)))

theorem runs_ppsOut_early {n x : Nat} (hn : n = s.rd F.tsuPpsOutNextNext) (hx : x = nsOf (s.at cyc).timeNow)
    (hearly : 2 ^ 31 ≤ (x + 2 ^ 32 - n) % 2 ^ 32) : Runs (.ppsOut cyc) s (fun t => t.time = s.time ∧ s.regsBut t []) := by
  have hexec : exec (.ppsOut cyc) s = done (s.at cyc) := by
    rw [hn, hx] at hearly
    exact congrArg done (if_neg (by rw [State.at_rd, decide_eq_false (Nat.not_lt.mpr hearly), Bool.and_false]; decide))
  exact runs_of_done hexec ⟨(State.closed_time _).trans rfl, State.closed_regsBut (State.at_regsBut s cyc _)⟩

theorem runs_ppsOutPulseEnd {c : Nat} (hhigh : s.time.ppsHigh = some c)
    (hwidth : c + 1250 * min 500000 (max 1 (s.rd F.tsuPpsOutWWidthUs)) ≤ (s.at cyc).now) :
    Runs (.ppsOutPulseEnd cyc) s (fun t => t.time = { s.time with ppsHigh := none } ∧ s.regsBut t []) := by
  have hexec : exec (.ppsOutPulseEnd cyc) s = done ((s.at cyc).modTime (fun q => { q with ppsHigh := none })) := by
    change done (match s.time.ppsHigh with | some _ => _ | none => _) = _
    rw [hhigh]
    exact congrArg done (if_pos hwidth)
  exact runs_of_done hexec ⟨(State.closed_time _).trans rfl, State.closed_regsBut fun _ _ => rfl⟩

/-! ### PPS_IN (R418) -/

theorem runs_ppsIn {fall : Bool} {ns : Nat} (hon : s.on F.tsuCtlPpsInEn = true) (hedge : s.on F.tsuCtlPpsInFall = fall)
    (hlong : 100 ≤ ns) : Runs (.ppsIn fall ns cyc) s (fun t => t.evt F.tsuEvtPpsIn = 1 ∧ s.regsBut t [] ∧
      t.time = { s.time with inNs := nsOf (s.at cyc).timeNow, inFrac := (s.at cyc).timeNow % 2 ^ 32
                             inCnt := (s.time.inCnt + 1) % 65536 }) := by
  have hexec : exec (.ppsIn fall ns cyc) s = done ((((s.at cyc).modTime (fun q =>
      { q with inNs := nsOf (s.at cyc).timeNow, inFrac := (s.at cyc).timeNow % 2 ^ 32
               inCnt := (q.inCnt + 1) % 65536 })).event F.tsuEvtPpsIn).count .tsu 0 7) :=
    congrArg done (if_pos (by rw [State.at_on, State.at_on, hon, hedge, decide_eq_true rfl, decide_eq_true hlong]; rfl))
  refine runs_of_done hexec ⟨?_, ?_, ?_⟩
  · rw [State.closed_evt _ _ _ (by decide), State.count_evt, State.event_evt_self _ _ (by decide) (by decide)]
  · exact State.closed_regsBut (State.regsBut_of_word (fun k => (State.count_word ..).trans (State.event_word ..)) (fun _ _ => rfl))
  · rw [State.closed_time, State.count_time, State.event_time]
    rfl

theorem runs_ppsIn_ignored {fall : Bool} {ns : Nat}
    (hnot : s.on F.tsuCtlPpsInEn = false ∨ s.on F.tsuCtlPpsInFall ≠ fall ∨ ns < 100) :
    Runs (.ppsIn fall ns cyc) s (fun t => t.time = s.time ∧ s.regsBut t []) := by
  have hno : (s.on F.tsuCtlPpsInEn && decide (s.on F.tsuCtlPpsInFall = fall) && decide (100 ≤ ns)) = false := by
    rcases hnot with h | h | h
    · rw [h]; rfl
    · rw [decide_eq_false h, Bool.and_false, Bool.false_and]
    · rw [decide_eq_false (Nat.not_le.mpr h), Bool.and_false]
  have hexec : exec (.ppsIn fall ns cyc) s = done (s.at cyc) :=
    congrArg done (if_neg (by rw [State.at_on, State.at_on, hno]; decide))
  exact runs_of_done hexec ⟨(State.closed_time _).trans rfl, State.closed_regsBut (State.at_regsBut s cyc _)⟩

theorem runs_ppsInRead (hr : s.ready .tsu = true) :
    Runs (.ppsInRead cyc) s (fun t => s.sends t (.read [BitVec.ofNat 32 s.time.inNs]) ∧ t.time = s.time ∧
      t.rd F.tsuPpsInFracInFrac = s.time.inFrac % 2 ^ 32 ∧ t.rd F.tsuPpsInCntCount = s.time.inCnt % 65536 ∧
      s.regsBut t [keyOf F.tsuPpsInFracInFrac, keyOf F.tsuPpsInCntCount]) := by
  have hexec : exec (.ppsInRead cyc) s = done ((((s.at cyc).wr F.tsuPpsInFracInFrac s.time.inFrac).wr F.tsuPpsInCntCount
      s.time.inCnt).emit (.read [BitVec.ofNat 32 s.time.inNs])) :=
    congrArg done (State.gateRead_of_ready ((State.at_ready ..).trans hr))
  refine runs_of_done hexec ⟨State.sends_emit _ rfl, ?_, ?_, ?_, ?_⟩
  · rw [State.closed_time, State.emit_time, State.wr_time, State.wr_time, State.at_time]
  · rw [State.closed_rd, State.emit_rd, State.rd_wr_apart _ (f := F.tsuPpsInCntCount) (g := F.tsuPpsInFracInFrac) _ _ _ _ _
      (by decide) (by decide), State.rd_wr_self _ _ _ _ (by decide)]
    rfl
  · rw [State.closed_rd, State.emit_rd, State.rd_wr_self _ _ _ _ (by decide)]
    rfl
  · exact State.closed_regsBut (State.emit_regsBut _ (State.regsBut_wr _ (State.regsBut_wr _ (State.at_regsBut s cyc _)
      (by simp)) (by simp)))

/-- Settles O56: the edge that is selected is captured, another and a short pulse are not. -/
theorem ppsInput : Obligations.PpsInput := by
  unfold Obligations.PpsInput
  rintro s u cyc rfl
  exact ⟨fun fall ns => ⟨runs_ppsIn, runs_ppsIn_ignored⟩, runs_ppsInRead⟩

/-! ### The panel and BRTC -/

/-- Between `s` and `t` nothing left but MSI-X messages. -/
def State.onlyMsix (s t : State) : Prop := ∃ os : List Out, t.out = s.out ++ os ∧ ∀ o ∈ os, ∃ v a d, o = .msix v a d

theorem State.onlyMsix_of_out (h : t.out = s.out) : s.onlyMsix t := ⟨[], by rw [h, List.append_nil], by simp⟩

theorem State.onlyMsix.trans (h : s.onlyMsix t) (h' : t.onlyMsix u) : s.onlyMsix u := by
  obtain ⟨os, hos, hall⟩ := h
  obtain ⟨ps, hps, hall'⟩ := h'
  refine ⟨os ++ ps, by rw [hps, hos, List.append_assoc], fun o ho => ?_⟩
  exact (List.mem_append.mp ho).elim (hall o) (hall' o)

theorem State.raiseVector_onlyMsix (v : Nat) : s.onlyMsix (s.raiseVector v) := by
  unfold State.raiseVector
  split
  · split <;> exact State.onlyMsix_of_out rfl
  · exact ⟨_, rfl, fun o ho => ⟨_, _, _, List.mem_singleton.mp ho⟩⟩

theorem forL_onlyMsix {α : Type} {f : α → State → State} (hf : ∀ a s, State.onlyMsix s (f a s)) (l : List α) :
    ∀ s : State, s.onlyMsix (forL l f s) := by
  induction l with
  | nil => exact fun s => State.onlyMsix_of_out rfl
  | cons a l ih => exact fun s => (hf a s).trans (ih (f a s))

/-- The close of a cycle sends MSI-X messages alone. -/
theorem State.closed_onlyMsix (u : State) : u.onlyMsix u.closed :=
  (State.onlyMsix_of_out (State.settle_keeps.frame .out (by decide))).trans <|
    .trans (t := { u.settle with rep := { u.settle.rep with irqs := [] } }) (State.onlyMsix_of_out rfl) <|
      forL_onlyMsix (fun _ s => State.raiseVector_onlyMsix _) _ _

theorem runs_brtcRead (hr : s.ready .tmp = true) :
    Runs .brtcRead s (fun t => s.sends t (.read [BitVec.ofNat 32 s.seconds]) ∧ t.rd F.tmpBrtcSubSub = s.tamper.brtc % 65536 ∧
      s.regsBut t [keyOf F.tmpBrtcSubSub]) := by
  have hexec : exec .brtcRead s =
      done ((s.wr F.tmpBrtcSubSub (s.tamper.brtc % 65536)).emit (.read [BitVec.ofNat 32 s.seconds])) :=
    congrArg done (State.gateRead_of_ready hr)
  refine runs_of_done hexec ⟨State.sends_emit _ (State.wr_out ..), ?_, ?_⟩
  · rw [State.closed_rd, State.emit_rd, State.rd_wr_self _ _ _ _ (by decide)]
    exact Nat.mod_mod_of_dvd _ (dvd_refl 65536)
  · exact State.closed_regsBut (State.emit_regsBut _ (State.regsBut_wr _ (State.regsBut_refl s _) (List.mem_singleton_self _)))

theorem runs_ledRefresh (htick : s.tick % 8 = 0) (hon : s.on F.modLedCtlEnable = true) (hmode : 1 < s.mode)
    (hmay : s.on F.fluStatLockHeld = true ∨ s.pair.claimAt + 64 ≤ s.tick) :
    Runs .ledRefresh s (fun t => s.sends t (.leds s.ledChain) ∧ s.regsBut t []) :=
  runs_of_done (congrArg done (if_pos ⟨htick, hon, hmode, hmay⟩))
    ⟨State.sends_emit _ rfl, State.closed_regsBut (State.emit_regsBut _ (State.regsBut_refl s _))⟩

theorem runs_ledRefresh_idle (hnot : s.tick % 8 ≠ 0 ∨ s.on F.modLedCtlEnable = false) : Runs .ledRefresh s (fun t =>
    (∀ x ∈ t.out.drop s.out.length, ∀ n, x ≠ .leds n) ∧ s.regsBut t []) := by
  have hexec : exec .ledRefresh s = done s := congrArg done (if_neg fun ⟨htick, hon, _, _⟩ => by
    rcases hnot with h | h
    · exact h htick
    · rw [h] at hon
      cases hon)
  obtain ⟨os, hos, hall⟩ := State.closed_onlyMsix s
  refine runs_of_done hexec ⟨fun x hx n => ?_, State.closed_regsBut (State.regsBut_refl s _)⟩
  rw [hos, List.drop_left] at hx
  obtain ⟨v, a, d, rfl⟩ := hall x hx
  exact nofun

/-- Settles O55: each command as TIME, the pin's state and the panel's turn let it. -/
theorem timeIsKept : Obligations.TimeIsKept := by
  unfold Obligations.TimeIsKept
  refine ⟨fun s w cyc hr => ⟨runs_incWrite hr, runs_timeStep hr, runs_timeRead hr, runs_edgeTimeRead hr⟩, ?_,
    fun s => ⟨runs_brtcRead, runs_ledRefresh, runs_ledRefresh_idle⟩⟩
  rintro s u cyc rfl
  exact ⟨fun n x hn hx hon => ⟨runs_ppsOut hn hx hon, runs_ppsOut_early hn hx⟩, fun c => runs_ppsOutPulseEnd⟩

end Sys2Proof.Machine
end

section
/-! PROOF. A periodic snapshot of a list of counters that names one twice (R471). -/

namespace Sys2Proof.Machine

open Sys2Proof

/-- A snapshot is due at edge 0. The counters list one of DEV twice: at rest, which is what a read of it gives, and behind
that with 5 counted. -/
def counterTwice : State :=
  { State.reset.wr F.pmcSnapPeriodLog2 1 with rep := { ctrs := [(ctrKey .dev 0 0, {}), (ctrKey .dev 0 0, { live := 5 })] } }

theorem counterTwice_inv : counterTwice.Inv where
  keys := AsnTable.empty_settled
  regs := by unfold State.regsOk; decide +kernel

theorem counterTwice_live : (counterTwice.ctr .dev 0 0).live = 0 := by decide +kernel

theorem counterTwice_latched : ((counterTwice.snapshot 0).closed.ctr .dev 0 0).shadow = 5 := by decide +kernel

/-- Refutes O16: a snapshot drops the counters that are at rest from their list, so that a counter listed a second time
behind its entry at rest then reads as that second entry, whose count was not the live one. Nothing that the statement
asks of a state, nor its invariant, keeps a counter from standing in the list twice. -/
theorem not_recorderAndCounters : ¬ Obligations.RecorderAndCounters := by
  unfold Obligations.RecorderAndCounters
  intro h
  obtain ⟨-, -, -, hsnap, -⟩ := h.2 counterTwice
  obtain ⟨t, hexec, -, -, -, hshadow⟩ := hsnap (by decide +kernel) (by decide +kernel) (by decide +kernel)
  have ht : t = (counterTwice.snapshot 0).closed :=
    (Host.Outcome.next.inj hexec).symm.trans (congrArg State.closed (if_pos (by decide +kernel)))
  have hlive := hshadow .dev 0 0
  rw [ht, counterTwice_latched, counterTwice_live] at hlive
  exact absurd hlive (by decide)

end Sys2Proof.Machine
end

section
/-! PROOF. Errors and the fault latches (R452 to R457). -/

namespace Sys2Proof.Machine

open Sys2Proof

variable {s t u : State} {p : Page} {i src : Nat} {inj : Bool} {k : RegKey}

/-! ### Words of the event registers -/

/-- A field that shares no bit with the one written stands. -/
theorem State.wrEvt_evt_apart {f g : Fld} (v i j : Nat) (hf : f.fits = true) (h : Fld.apart f g = true) :
    (s.wrEvt f v i).evt g j = s.evt g j := by
  by_cases hk : keyOf g j = keyOf f i
  · simp only [State.evt, State.wrEvt, State.setEvtWord, hk, mget_mset_self]
    simp only [keyOf, RegKey.mk.injEq] at hk
    refine getF_setF_apart _ _ (by simpa [Fld.fits] using hf) ?_
    simp [Fld.apart, hk.1, hk.2.1] at h
    omega
  · exact State.wrEvt_evt_ne hk

theorem State.takeInjected_evtWord (double : Bool) : (s.takeInjected p i src double).1.evtWord k = s.evtWord k := by
  unfold State.takeInjected
  extract_lets e
  split
  · rfl
  · split <;> rfl

theorem State.takeInjected_word (double : Bool) : (s.takeInjected p i src double).1.word k = s.word k := by
  unfold State.takeInjected
  extract_lets e
  split
  · rfl
  · split <;> rfl

/-! ### The latches of FLT and of a page (R453, R455) -/

/-- A word that is not one of FLT's latches or of its event register. -/
abbrev offFlt (k : RegKey) : Prop :=
  k ≠ keyOf F.fltFirstPageId ∧ k ≠ keyOf F.fltFirstSrcSrc ∧ k ≠ keyOf F.fltEvtFault

/-- FLT notes when it latched what it holds. -/
def State.fltStamp (s : State) (x : Nat × Nat) : State := { s with rep := { s.rep with fltLatchedAt := x } }

theorem State.fltStamp_evtWord (x : Nat × Nat) : (s.fltStamp x).evtWord k = s.evtWord k := rfl

/-- FLT_FIRST and FLT_FIRST_SRC name a page's fault. -/
def State.fltNames (s : State) (p : Page) (i src : Nat) (inj : Bool) : State :=
  (((s.wrEvt F.fltFirstPageId (pageIdWord p i)).wrEvt F.fltFirstSrcSrc src).wrEvt F.fltFirstSrcValid 1).wrEvt
    F.fltFirstSrcInjected (b2n inj)

theorem State.fltTake_eq : s.fltTake p i src inj =
    (s.fltNames p i src inj).fltStamp ((s.fltNames p i src inj).now, p.addr i) := rfl

/-- A page notes which pages latched in the cycle. -/
def State.pageStamp (s : State) (x : Nat × List (Page × Nat)) : State := { s with rep := { s.rep with latchedAt := x } }

theorem State.pageStamp_evtWord (x : Nat × List (Page × Nat)) : (s.pageStamp x).evtWord k = s.evtWord k := rfl

/-- PAGE_FAULT names a fault. -/
def State.pageNames (s : State) (p : Page) (i src : Nat) (inj : Bool) : State :=
  ((s.wrEvt (F.pageFirstSrc p) src i).wrEvt (F.pageFirstValid p) 1 i).wrEvt (F.pageInjected p) (b2n inj) i

theorem State.pageTake_eq : s.pageTake p i src inj = (s.pageNames p i src inj).pageStamp ((s.pageNames p i src inj).now,
    (p, i) :: if (s.pageNames p i src inj).rep.latchedAt.1 = (s.pageNames p i src inj).now then
      (s.pageNames p i src inj).rep.latchedAt.2 else []) := rfl

theorem State.evt_of_evtWord {f : Fld} {j : Nat} (h : t.evtWord (keyOf f j) = s.evtWord (keyOf f j)) : t.evt f j = s.evt f j :=
  congrArg (getF · f.lo f.w) h

theorem State.irqIf_evtWord (c : Bool) (q : Page) (j : Nat) : (onlyIf c (fun s => s.irq q j) s).evtWord k = s.evtWord k := by
  unfold onlyIf
  split <;> rfl

theorem State.fltTake_evtWord (hk : offFlt k) : (s.fltTake p i src inj).evtWord k = s.evtWord k := by
  obtain ⟨hid, hsrc, -⟩ := hk
  rw [State.fltTake_eq, State.fltStamp_evtWord, State.fltNames, State.wrEvt_evtWord_ne (f := F.fltFirstSrcInjected) hsrc,
    State.wrEvt_evtWord_ne (f := F.fltFirstSrcValid) hsrc, State.wrEvt_evtWord_ne hsrc, State.wrEvt_evtWord_ne hid]

theorem State.fltOverflow_evtWord (hk : offFlt k) : s.fltOverflow.evtWord k = s.evtWord k := by
  obtain ⟨-, hsrc, hevt⟩ := hk
  unfold State.fltOverflow
  extract_lets v
  have hv : v.evtWord k = s.evtWord k := by
    unfold v
    rw [State.wrEvt_evtWord_ne (f := F.fltEvtOverflow) hevt, State.wrEvt_evtWord_ne (f := F.fltFirstSrcOvf) hsrc]
  exact (State.irqIf_evtWord _ _ _).trans hv

/-- What FLT latches of a page's fault. -/
def State.fltLatched (s : State) (p : Page) (i src : Nat) (inj : Bool) : State :=
  let s := s.count .flt 0 3
  if s.evt F.fltFirstSrcValid = 0 then s.fltTake p i src inj
  else if s.rep.fltLatchedAt.1 = s.now ∧ p.addr i < s.rep.fltLatchedAt.2 then (s.fltTake p i src inj).fltOverflow
  else s.fltOverflow

theorem State.count_evtWord (p : Page) (i sel n : Nat) (k : RegKey) : (s.count p i sel n).evtWord k = s.evtWord k := by
  rw [State.count]
  dsimp only
  split
  · rfl
  · split <;> rfl

theorem State.startFlush_evtWord : s.startFlush.evtWord k = s.evtWord k := by
  unfold State.startFlush
  split <;> rfl

theorem State.fltLatched_evtWord (hk : offFlt k) : (s.fltLatched p i src inj).evtWord k = s.evtWord k := by
  unfold State.fltLatched
  dsimp only
  split
  · rw [State.fltTake_evtWord hk, State.count_evtWord]
  · split
    · rw [State.fltOverflow_evtWord hk, State.fltTake_evtWord hk, State.count_evtWord]
    · rw [State.fltOverflow_evtWord hk, State.count_evtWord]

/-- Beyond that the fault is evented, recorded and flushed. -/
theorem State.fltLatch_evtWord_of_latched (hk : k ≠ keyOf F.fltEvtFault) :
    (s.fltLatch p i src inj).evtWord k = (s.fltLatched p i src inj).evtWord k := by
  unfold State.fltLatch
  extract_lets counted latched evented told raised
  have htold : told.evtWord k = evented.evtWord k := State.irqIf_evtWord _ _ _
  rw [State.startFlush_evtWord]
  exact htold.trans (State.wrEvt_evtWord_ne hk)

theorem State.fltLatch_evtWord (hk : offFlt k) : (s.fltLatch p i src inj).evtWord k = s.evtWord k :=
  (State.fltLatch_evtWord_of_latched hk.2.2).trans (State.fltLatched_evtWord hk)

theorem State.fltTake_valid : (s.fltTake p i src inj).evt F.fltFirstSrcValid = 1 := by
  rw [State.fltTake_eq, State.evt_of_evtWord (State.fltStamp_evtWord _), State.fltNames, State.wrEvt_evt_apart
    (f := F.fltFirstSrcInjected) (g := F.fltFirstSrcValid) _ _ _ (by decide) (by decide)]
  exact State.wrEvt_evt_self (f := F.fltFirstSrcValid) _ _ _ (by decide)

/-- FLT has latched a fault where it held none. -/
theorem State.fltLatch_valid (h : s.evt F.fltFirstSrcValid = 0) : (s.fltLatch p i src inj).evt F.fltFirstSrcValid = 1 := by
  have htaken : s.fltLatched p i src inj = (s.count .flt 0 3).fltTake p i src inj := by
    unfold State.fltLatched
    exact if_pos ((State.count_evt ..).trans h)
  rw [State.evt_of_evtWord (State.fltLatch_evtWord_of_latched (by decide)), htaken, State.fltTake_valid]

theorem State.pageTake_evt (hsrc : src < 1024) : (s.pageTake p i src inj).evt (F.pageFirstValid p) i = 1 ∧
    (s.pageTake p i src inj).evt (F.pageFirstSrc p) i = src := by
  have hapart : Fld.apart (F.pageInjected p) (F.pageFirstValid p) = true ∧ Fld.apart (F.pageInjected p) (F.pageFirstSrc p) = true ∧
      Fld.apart (F.pageFirstValid p) (F.pageFirstSrc p) = true := by simp [Fld.apart, F.pageInjected, F.pageFirstValid, F.pageFirstSrc]
  obtain ⟨hvalid, hsrcInj, hsrcValid⟩ := hapart
  rw [State.pageTake_eq, State.evt_of_evtWord (State.pageStamp_evtWord _), State.evt_of_evtWord (State.pageStamp_evtWord _), State.pageNames]
  constructor
  · rw [State.wrEvt_evt_apart (f := F.pageInjected p) _ _ _ (by rfl) hvalid]
    exact State.wrEvt_evt_self (f := F.pageFirstValid p) _ _ _ (by rfl)
  · rw [State.wrEvt_evt_apart (f := F.pageInjected p) _ _ _ (by rfl) hsrcInj,
      State.wrEvt_evt_apart (f := F.pageFirstValid p) _ _ _ (by rfl) hsrcValid, State.wrEvt_evt_self (f := F.pageFirstSrc p) _ _ _ (by rfl)]
    exact Nat.mod_eq_of_lt hsrc

theorem State.pageTake_evtWord (hk : k ≠ keyOf (F.pageFirstSrc p) i) : (s.pageTake p i src inj).evtWord k = s.evtWord k := by
  rw [State.pageTake_eq, State.pageStamp_evtWord, State.pageNames, State.wrEvt_evtWord_ne (f := F.pageInjected p) hk,
    State.wrEvt_evtWord_ne (f := F.pageFirstValid p) hk, State.wrEvt_evtWord_ne hk]

theorem offFlt_pageFirst : offFlt (keyOf (F.pageFirstSrc p) i) := by
  refine ⟨?_, ?_, ?_⟩ <;> simp [keyOf, F.pageFirstSrc, F.fltFirstPageId, F.fltFirstSrcSrc, F.fltEvtFault]

theorem State.injCounted_evt (f : Fld) (j : Nat) : (onlyIf inj (fun s => s.count .flt 0 5) s).evt f j = s.evt f j := by
  unfold onlyIf
  split
  · exact State.count_evt ..
  · rfl

/-- A fault that a page takes as its first. -/
theorem State.fault_of_first (h : s.evt (F.pageFirstValid p) i = 0) : s.fault p i src inj =
    ((onlyIf inj (fun s => s.count .flt 0 5) s).pageTake p i src inj).fltLatch p i src inj := by
  unfold State.fault
  exact if_pos ((State.injCounted_evt ..).trans h)

theorem State.fault_latches (h : s.evt (F.pageFirstValid p) i = 0) (hsrc : src < 1024) :
    (s.fault p i src inj).evt (F.pageFirstValid p) i = 1 ∧ (s.fault p i src inj).evt (F.pageFirstSrc p) i = src := by
  rw [State.fault_of_first h]
  obtain ⟨hvalid, hfirst⟩ := State.pageTake_evt (s := onlyIf inj (fun s => s.count .flt 0 5) s) (p := p) (i := i) (inj := inj) hsrc
  exact ⟨(State.evt_of_evtWord (f := F.pageFirstValid p) (State.fltLatch_evtWord offFlt_pageFirst)).trans hvalid,
    (State.evt_of_evtWord (State.fltLatch_evtWord offFlt_pageFirst)).trans hfirst⟩

theorem State.fault_flt (h : s.evt (F.pageFirstValid p) i = 0) (hflt : s.evt F.fltFirstSrcValid = 0) :
    (s.fault p i src inj).evt F.fltFirstSrcValid = 1 := by
  rw [State.fault_of_first h]
  refine State.fltLatch_valid ((State.evt_of_evtWord (State.pageTake_evtWord ?_)).trans ((State.injCounted_evt ..).trans hflt))
  exact offFlt_pageFirst.2.1.symm

/-! ### Errors of an SRAM (R452, R453) -/

/-- An uncorrectable error is counted, and then it is a fault. -/
def State.sramCounted (s : State) (p : Page) (i src : Nat) : State :=
  let v := ((s.takeInjected p i src true).1.bumpReg F.fltEccUncorrectable 1).count .flt 0 2
  { v with rep := { v.rep with uncorrEdges := (v.tick :: v.rep.uncorrEdges).take 64 } }

theorem State.sramError_eq : s.sramError p i src = (s.sramCounted p i src).fault p i src (s.takeInjected p i src true).2 := rfl

theorem State.sramCounted_evt (f : Fld) (j : Nat) : (s.sramCounted p i src).evt f j = s.evt f j := by
  have hcounted : (((s.takeInjected p i src true).1.bumpReg F.fltEccUncorrectable 1).count .flt 0 2).evt f j = s.evt f j := by
    rw [State.count_evt, State.bumpReg_evt]
    exact congrArg (getF · f.lo f.w) (State.takeInjected_evtWord true)
  exact hcounted

theorem State.sramCounted_word : (s.sramCounted p i src).word k = ((s.takeInjected p i src true).1.bumpReg F.fltEccUncorrectable 1).word k :=
  State.count_word ..

/-- One error is counted in a field of FLT_ECC (R452). -/
theorem rd_bumped {f : Fld} {v : State} (hf : f.fits = true) (hw : f.w = 16) (hv : ∀ k, v.word k = s.word k)
    (ht : ∀ k, t.word k = (v.bumpReg f 1).word k) : t.rd f = min 65535 (s.rd f + 1) := by
  rw [State.rd, ht, ← State.rd, State.rd_bumpReg_self 1 0 0 hf, State.rd, hv, ← State.rd, hw, satAdd, Nat.min_comm]
  rfl

theorem State.sramError_latches (h : s.evt (F.pageFirstValid p) i = 0) (hsrc : src < 1024) :
    (s.sramError p i src).evt (F.pageFirstValid p) i = 1 ∧ (s.sramError p i src).evt (F.pageFirstSrc p) i = src := by
  rw [State.sramError_eq]
  exact State.fault_latches ((State.sramCounted_evt ..).trans h) hsrc

theorem State.sramError_word : (s.sramError p i src).word k =
    ((s.takeInjected p i src true).1.bumpReg F.fltEccUncorrectable 1).word k := by
  rw [State.sramError_eq]
  exact (State.fault_keeps.word (by simp)).trans State.sramCounted_word

/-! ### The commands -/

/-- The pages that count a corrected error as well (R203, R336). -/
def State.correctedToo (s : State) (p : Page) (i src : Nat) : State :=
  match p with
  | .hrt => s.count .hrt 0 12
  | .stv => if 32 ≤ src ∧ src < 96 then s.count .stv i 3 else s
  | _ => s

theorem State.sramCorrected_eq : s.sramCorrected p i src =
    (((s.takeInjected p i src false).1.bumpReg F.fltEccCorrected 1).count .flt 0 1).correctedToo p i src := rfl

theorem State.correctedToo_apart : (s.correctedToo p i src).word k = s.word k ∧ (s.correctedToo p i src).evtWord k = s.evtWord k := by
  have hcount : ∀ (q : Page) (j sel : Nat), (s.count q j sel).word k = s.word k ∧ (s.count q j sel).evtWord k = s.evtWord k :=
    fun q j sel => ⟨State.count_word .., State.count_evtWord ..⟩
  unfold State.correctedToo
  split
  · exact hcount ..
  · split
    · exact hcount ..
    · exact ⟨rfl, rfl⟩
  · exact ⟨rfl, rfl⟩

theorem State.sramCorrected_word : (s.sramCorrected p i src).word k =
    ((s.takeInjected p i src false).1.bumpReg F.fltEccCorrected 1).word k := by
  rw [State.sramCorrected_eq, State.correctedToo_apart.1, State.count_word]

theorem State.sramCorrected_evtWord : (s.sramCorrected p i src).evtWord k = s.evtWord k := by
  rw [State.sramCorrected_eq, State.correctedToo_apart.2, State.count_evtWord, State.bumpReg_evtWord, State.takeInjected_evtWord]

theorem pageFirst_not_settled : keyOf (F.pageFirstSrc p) i ∉ settledWords := by
  simp [settledWords, keyOf, F.pageFirstSrc, F.evrEvtRingFull, F.pmcEvtSaturated, F.pmcLastOffset, F.pmcLastBit]

/-- A field of PAGE_FAULT reads after a command as the command left it. -/
theorem State.closed_evt_pageFirst (u : State) : u.closed.evt (F.pageFirstValid p) i = u.evt (F.pageFirstValid p) i ∧
    u.closed.evt (F.pageFirstSrc p) i = u.evt (F.pageFirstSrc p) i :=
  ⟨u.closed_evt (F.pageFirstValid p) i pageFirst_not_settled, u.closed_evt (F.pageFirstSrc p) i pageFirst_not_settled⟩

theorem runs_eccCorrected {p : Page} {i : Fin 256} {src : Fin 1024} :
    Runs (.eccCorrected p i src) s (fun t => t.rd F.fltEccCorrected = min 65535 (s.rd F.fltEccCorrected + 1) ∧
      t.evt (F.pageFirstValid p) i = s.evt (F.pageFirstValid p) i ∧ s.regsBut t [keyOf F.fltEccCorrected]) := by
  generalize hsrc : (if namesSources p then src.val else 0) = n
  have hexec : exec (.eccCorrected p i src) s = done (s.sramCorrected p i n) := hsrc ▸ rfl
  refine runs_of_done hexec ⟨?_, ?_, State.closed_regsBut (State.regsBut_of_word (fun k => State.sramCorrected_word) ?_)⟩
  · rw [State.closed_rd]
    exact rd_bumped (by decide) rfl (fun _ => State.takeInjected_word false) fun _ => State.sramCorrected_word
  · rw [(State.closed_evt_pageFirst _).1, State.evt_of_evtWord State.sramCorrected_evtWord]
  · exact State.regsBut_wr _ (State.regsBut_of_word (fun k => State.takeInjected_word false) (State.regsBut_refl s _))
      (List.mem_singleton_self _)

theorem runs_eccUncorrectable {p : Page} {i : Fin 256} {src : Fin 1024} {node : Fin 16 × Fin 8 × Nat} {inp : LineIn} {cyc : Cyc}
    (hp : p ∉ [Page.stv, .kvt, .hrt, .cxm, .flu]) (hfirst : s.evt (F.pageFirstValid p) i = 0) (hflt : s.evt F.fltFirstSrcValid = 0) :
    Runs (.eccUncorrectable p i src node inp cyc) s (fun t => t.evt (F.pageFirstValid p) i = 1 ∧
      t.evt (F.pageFirstSrc p) i = 0 ∧ t.evt F.fltFirstSrcValid = 1 ∧
      t.rd F.fltEccUncorrectable = min 65535 (s.rd F.fltEccUncorrectable + 1) ∧ s.regsBut t [keyOf F.fltEccUncorrectable]) := by
  have hexec : exec (.eccUncorrectable p i src node inp cyc) s = done ((s.at cyc).sramError p i 0) := by
    cases p <;> simp at hp <;> rfl
  have hfirst' : (s.at cyc).evt (F.pageFirstValid p) i = 0 := hfirst
  obtain ⟨hvalid, hsrc⟩ := State.sramError_latches hfirst' (src := 0) (by decide)
  refine runs_of_done hexec ⟨?_, ?_, ?_, ?_, State.closed_regsBut (State.regsBut_of_word (fun k => State.sramError_word) ?_)⟩
  · rw [(State.closed_evt_pageFirst _).1, hvalid]
  · rw [(State.closed_evt_pageFirst _).2, hsrc]
  · rw [State.closed_evt _ _ _ (by decide), State.sramError_eq]
    exact State.fault_flt ((State.sramCounted_evt ..).trans hfirst') ((State.sramCounted_evt ..).trans hflt)
  · rw [State.closed_rd]
    exact rd_bumped (s := s.at cyc) (by decide) rfl (fun _ => State.takeInjected_word true) fun _ => State.sramError_word
  · exact State.regsBut_wr _ (State.regsBut_of_word (fun k => State.takeInjected_word true) (State.at_regsBut s cyc _))
      (List.mem_singleton_self _)

theorem runs_eccUncorrectable_stove {i : Fin 256} {src : Fin 1024} {node : Fin 16 × Fin 8 × Nat} {inp : LineIn} {cyc : Cyc}
    (hlow : src.val < 32) (hfirst : s.evt (F.pageFirstValid .stv) i = 0) :
    Runs (.eccUncorrectable .stv i src node inp cyc) s (fun t => t.evt (F.pageFirstValid .stv) i = 1 ∧
      t.evt (F.pageFirstSrc .stv) i = src.val) := by
  have hexec : exec (.eccUncorrectable .stv i src node inp cyc) s = done ((s.at cyc).sramError .stv i src) :=
    congrArg done (if_neg (show ¬(32 ≤ src.val ∧ src.val < 96) by omega))
  have hfirst' : (s.at cyc).evt (F.pageFirstValid .stv) i = 0 := hfirst
  obtain ⟨hvalid, hsrc⟩ := State.sramError_latches hfirst' src.isLt
  exact runs_of_done hexec ⟨(State.closed_evt_pageFirst _).1.trans hvalid, (State.closed_evt_pageFirst _).2.trans hsrc⟩

theorem State.setEvtWord_evtWord_self (k : RegKey) (w : Word) : (s.setEvtWord k w).evtWord k = w := mget_mset_self ..

theorem State.setEvtWord_evtWord_ne {k k' : RegKey} (h : k ≠ k') (w : Word) : (s.setEvtWord k' w).evtWord k = s.evtWord k :=
  mget_mset_ne _ _ _ _ _ h

theorem runs_faultClear {p : Page} {i : Fin 256} : Runs (.faultClear p i) s (fun t =>
    t.evtWord (keyOf (F.pageFirstSrc p) i) = 0 ∧ s.regsBut t []) := by
  refine runs_of_done (u := s.clearFault p i) rfl ⟨?_, State.closed_regsBut fun _ _ => rfl⟩
  rw [State.closed_evtWord _ pageFirst_not_settled]
  exact State.setEvtWord_evtWord_self _ _

theorem runs_fltClear (hr : s.ready .flt = true) : Runs .fltClear s (fun t =>
    t.evt F.fltFirstSrcValid = 0 ∧ t.evt F.fltFirstPageId = 0 ∧ s.regsBut t []) := by
  have hexec : exec .fltClear s = done s.clearFlt := congrArg done (State.gate_of_ready hr)
  have hsrc : s.clearFlt.evtWord (keyOf F.fltFirstSrcValid) = 0 := State.setEvtWord_evtWord_self _ _
  have hid : s.clearFlt.evtWord (keyOf F.fltFirstPageId) = 0 := by
    rw [State.clearFlt, State.setEvtWord_evtWord_ne (by decide), State.setEvtWord_evtWord_self]
  refine runs_of_done hexec ⟨?_, ?_, State.closed_regsBut fun _ _ => rfl⟩
  · rw [State.closed_evt _ _ _ (by decide)]
    exact (congrArg (getF · 15 1) hsrc).trans (by decide)
  · rw [State.closed_evt _ _ _ (by decide)]
    exact (congrArg (getF · 0 32) hid).trans (by decide)

theorem runs_faultInject {p : Page} {i : Fin 256} {w : Word} (hguard : getF w 24 8 = 0x96) (hkind : getF w 10 2 = 1 ∨ getF w 10 2 = 2)
    (h9 : s.mode ≠ 9) (h10 : s.mode ≠ 10) (hlock : s.rd F.tmpCfgCfgLock = 0) :
    Runs (.faultInject p i w) s (fun t => (p, i.val, getF w 0 10, getF w 10 2) ∈ t.rep.armed ∧ s.regsBut t []) := by
  have hoff : s.on F.tmpCfgCfgLock = false := by rw [State.on, hlock]; rfl
  have hno : ¬ (getF w 24 8 ≠ 0x96 ∨ getF w 10 2 = 3 ∨ s.mode = 9 ∨ s.mode = 10 ∨ s.on F.tmpCfgCfgLock = true) := by
    rw [hoff]
    rintro (h | h | h | h | h)
    · exact h hguard
    · omega
    · exact h9 h
    · exact h10 h
    · cases h
  have hexec : exec (.faultInject p i w) s = done (s.modRep (fun r => { r with
      armed := s.rep.armed.filter (fun e => decide (¬ (e.1 = p ∧ e.2.1 = i.val))) ++ [(p, i.val, getF w 0 10, getF w 10 2)] })) := by
    refine congrArg done ((if_neg hno).trans ?_)
    rw [if_neg (by omega)]
  refine runs_of_done hexec ⟨?_, State.closed_regsBut fun _ _ => rfl⟩
  rw [(State.closed_rep _).armed]
  exact List.mem_append_right _ (List.mem_singleton_self _)

/-- Settles O17: an error as its kind and its page have it, and each latch as it is written. -/
theorem faultLatches : Obligations.FaultLatches := by
  unfold Obligations.FaultLatches
  intro s
  exact ⟨fun _ _ _ => runs_eccCorrected, fun _ _ _ _ _ _ => runs_eccUncorrectable, fun _ _ _ _ _ => runs_eccUncorrectable_stove,
    fun _ _ => runs_faultClear, runs_fltClear, fun _ _ _ => runs_faultInject⟩

end Sys2Proof.Machine
end

section
/-! PROOF. Registers without behaviour of their own (R490). -/

namespace Sys2Proof.Machine

open Sys2Proof

variable {s t u : State} {p : Page} {i off : Nat} {k : RegKey} {w old : Word} {cyc : Cyc} {d : RegDef}

/-! ### Which writes act field by field -/

theorem State.writeDev_plain (h : ownBehaviour .dev off = false) : s.writeDev off w cyc = s.writePlain .dev 0 off w cyc := by
  unfold State.writeDev
  split
  case h_9 => rfl
  all_goals exact absurd h (by decide)

theorem State.writeFlt_plain (h : ownBehaviour .flt off = false) : s.writeFlt off w cyc = s.writePlain .flt 0 off w cyc := by
  unfold State.writeFlt
  split
  case h_3 => rfl
  all_goals exact absurd h (by decide)

theorem State.writeEvr_plain (h : ownBehaviour .evr off = false) : s.writeEvr off w cyc = s.writePlain .evr 0 off w cyc := by
  unfold State.writeEvr
  split
  case h_7 => rfl
  all_goals exact absurd h (by decide)

theorem State.writePmc_plain (h : ownBehaviour .pmc off = false) : s.writePmc off w cyc = s.writePlain .pmc 0 off w cyc := by
  unfold State.writePmc
  split
  case h_4 => rfl
  all_goals exact absurd h (by decide)

theorem State.writeTsu_plain (h : ownBehaviour .tsu off = false) : s.writeTsu off w cyc = s.writePlain .tsu 0 off w cyc := by
  unfold State.writeTsu
  split
  case h_4 => rfl
  all_goals exact absurd h (by decide)

theorem State.writeKvt_plain (h : ownBehaviour .kvt off = false) : s.writeKvt off w cyc = s.writePlain .kvt 0 off w cyc := by
  unfold State.writeKvt
  split
  case h_3 => rfl
  all_goals exact absurd h (by decide)

theorem State.writeKdl_plain (h : ownBehaviour .kdl off = false) : s.writeKdl off w cyc = s.writePlain .kdl 0 off w cyc := by
  unfold State.writeKdl
  extract_lets k refuse
  split
  case h_7 => rfl
  all_goals exact absurd h (by decide)

theorem State.writeCxm_plain (h : ownBehaviour .cxm off = false) : s.writeCxm off w cyc = s.writePlain .cxm 0 off w cyc := by
  unfold State.writeCxm
  extract_lets r
  split
  case h_4 => rfl
  all_goals exact absurd h (by decide)

theorem State.writeHst_plain (h : ownBehaviour .hst off = false) : s.writeHst off w cyc = s.writePlain .hst 0 off w cyc := by
  unfold State.writeHst
  split
  case h_2 => rfl
  all_goals exact absurd h (by decide)

/-- Outside STANDBY (R393). -/
theorem State.writeHrt_plain (h : ownBehaviour .hrt off = false) (hmode : s.effMode ≠ 5) :
    s.writeHrt off w cyc = s.writePlain .hrt 0 off w cyc := by
  unfold State.writeHrt
  extract_lets q refuse t
  rw [decide_eq_false hmode, Bool.false_and, if_neg (by decide)]
  split
  case h_6 => rfl
  all_goals exact absurd h (by decide)

/-- Outside STANDBY (R393). -/
theorem State.writeSch_plain (h : ownBehaviour .sch off = false) (hmode : s.effMode ≠ 5) :
    s.writeSch off w cyc = s.writePlain .sch 0 off w cyc := by
  unfold State.writeSch
  extract_lets refuse
  rw [decide_eq_false hmode, Bool.false_and, if_neg (by decide)]
  split
  case h_3 => rfl
  all_goals exact absurd h (by decide)

theorem State.writeMod_plain (h : ownBehaviour .mod off = false) : s.writeMod off w cyc = s.writePlain .mod 0 off w cyc := by
  unfold State.writeMod
  split
  case h_3 => rfl
  all_goals exact absurd h (by decide)

theorem State.writeLan_plain (h : ownBehaviour .lan off = false) : s.writeLan i off w cyc = s.writePlain .lan i off w cyc := by
  unfold State.writeLan
  split
  case h_8 => rfl
  all_goals exact absurd h (by decide)

/-- With the tamper configuration unlocked (R436). -/
theorem State.writeTmp_plain (h : ownBehaviour .tmp off = false) (hlock : s.on F.tmpCfgCfgLock = false) :
    s.writeTmp off w cyc = s.writePlain .tmp 0 off w cyc := by
  have hne : off ≠ 0x100 ∧ off ≠ 0x120 := by simpa [ownBehaviour] using h
  unfold State.writeTmp
  extract_lets locked
  have hlocked : locked = false := hlock
  rw [if_neg hne.2, hlocked, Bool.false_and, if_neg (by decide), decide_eq_false hne.1]
  rfl

/-- With the tamper configuration unlocked (R436). -/
theorem State.writeOfc_plain (hlock : s.on F.tmpCfgCfgLock = false) : s.writeOfc off w cyc = s.writePlain .ofc 0 off w cyc := by
  unfold State.writeOfc
  rw [hlock, Bool.false_and, if_neg (by decide)]

theorem State.writeStv_plain (h : ownBehaviour .stv off = false) : s.writeStv i off w cyc = s.writePlain .stv i off w cyc := by
  unfold State.writeStv
  split
  case h_2 => rfl
  all_goals exact absurd h (by decide)

theorem State.writeLrc_plain (h : ownBehaviour .lrc off = false) : s.writeLrc i off w cyc = s.writePlain .lrc i off w cyc := by
  unfold State.writeLrc
  split
  case h_2 => rfl
  all_goals exact absurd h (by decide)

theorem State.writePrt_plain (h : ownBehaviour .prt off = false) : s.writePrt i off w cyc = s.writePlain .prt i off w cyc := by
  unfold State.writePrt
  split
  case h_2 => rfl
  all_goals exact absurd h (by decide)

theorem State.writeOtf_plain (h : ownBehaviour .otf off = false) : s.writeOtf i off w cyc = s.writePlain .otf i off w cyc := by
  unfold State.writeOtf
  split
  case h_2 => rfl
  all_goals exact absurd h (by decide)

theorem State.writeChm_plain (h : ownBehaviour .chm off = false) : s.writeChm i off w cyc = s.writePlain .chm i off w cyc := by
  unfold State.writeChm
  split
  case h_2 => rfl
  all_goals exact absurd h (by decide)

/-- A write of the block registers of a page, where its offset has no behaviour of its own. -/
theorem State.writeBlock_plain (h : ownBehaviour p off = false) (hi : i < pageCount p) (hmode : s.effMode ≠ 5)
    (hlock : s.on F.tmpCfgCfgLock = false) : s.writeBlock p i off w cyc = s.writePlain p i off w cyc := by
  have hzero : pageCount p = 1 → i = 0 := fun hone => by omega
  cases p with
  | dev => rw [hzero rfl]; exact State.writeDev_plain h
  | pwr => rw [hzero rfl]; exact if_neg (by simpa [ownBehaviour] using h)
  | flt => rw [hzero rfl]; exact State.writeFlt_plain h
  | evr => rw [hzero rfl]; exact State.writeEvr_plain h
  | pmc => rw [hzero rfl]; exact State.writePmc_plain h
  | tsu => rw [hzero rfl]; exact State.writeTsu_plain h
  | kvt => rw [hzero rfl]; exact State.writeKvt_plain h
  | kdl => rw [hzero rfl]; exact State.writeKdl_plain h
  | tmp => rw [hzero rfl]; exact State.writeTmp_plain h hlock
  | ofc => rw [hzero rfl]; exact State.writeOfc_plain hlock
  | flu =>
    have hne : off ≠ 0x120 ∧ off < 0x400 := by simpa [ownBehaviour] using h
    rw [hzero rfl]
    exact (if_neg (by omega)).trans (if_neg hne.1)
  | cxm => rw [hzero rfl]; exact State.writeCxm_plain h
  | hst => rw [hzero rfl]; exact State.writeHst_plain h
  | hrt => rw [hzero rfl]; exact State.writeHrt_plain h hmode
  | sch => rw [hzero rfl]; exact State.writeSch_plain h hmode
  | mod => rw [hzero rfl]; exact State.writeMod_plain h
  | chm => exact State.writeChm_plain h
  | stv => exact State.writeStv_plain h
  | lan => exact State.writeLan_plain h
  | prt => exact State.writePrt_plain h
  | otf => exact State.writeOtf_plain h
  | lrc => exact State.writeLrc_plain h
  | fwd | asn | sea => rfl
  | slc | asnw | fwdw => exact absurd h (by simp [ownBehaviour])

/-! ### What a write leaves of each bit -/

theorem landedWord_bit (b : Fin 32) : (landedWord d old w).getLsbD b =
    if (d.w1s.testBit b && w.getLsbD b) then true
    else if (d.w1c.testBit b && w.getLsbD b) then false
    else if d.rw.testBit b then w.getLsbD b else old.getLsbD b := by
  have hlt : b.val < 32 := b.isLt
  unfold landedWord mergeF
  simp only [BitVec.getLsbD_or, BitVec.getLsbD_and, BitVec.getLsbD_not, BitVec.getLsbD_ofNat, hlt, decide_true, Bool.true_and]
  cases w.getLsbD b with
  | true => cases d.w1s.testBit b <;> cases d.w1c.testBit b <;> cases d.rw.testBit b <;> simp
  | false => cases d.rw.testBit b <;> simp

/-- The registers that hold events, with their pages. -/
def evtRegs : List (Page × Nat) :=
  [(.asn, 0x108), (.chm, 0x110), (.sea, 0x110), (.cxm, 0x130), (.flu, 0x130), (.evr, 0x150), (.hrt, 0x150), (.hst, 0x150),
   (.flt, 0x114), (.ofc, 0x114), (.kdl, 0x10C), (.kdl, 0x340), (.kvt, 0x134), (.mod, 0x120), (.pmc, 0x10C), (.tmp, 0x10C),
   (.tmp, 0x124), (.tsu, 0x13C)]

theorem mem_evtRegs (hevt : isEvtReg p off = true) : (p, off) ∈ evtRegs := by
  cases p <;> simp [isEvtReg] at hevt <;> simp [evtRegs, hevt]

/-- The registers that hold events have no fields that wait for an edge. -/
theorem evtReg_rwt (hevt : isEvtReg p off = true) (hd : regDefOf p off = some d) : d.rwt = 0 := by
  have hall : ∀ e ∈ evtRegs, (regDefOf e.1 e.2).all (fun d => decide (d.rwt = 0)) = true := by decide +kernel
  have hthis := hall _ (mem_evtRegs hevt)
  rw [hd] at hthis
  simpa using hthis

/-- They act on no selected object. -/
theorem State.objOf_of_evtReg (hevt : isEvtReg p off = true) : s.objOf p off = 0 := by
  unfold State.objOf
  split
  case h_7 => rfl
  case h_4 => exact if_neg fun h => by simp [isEvtReg] at hevt; omega
  all_goals simp [isEvtReg] at hevt <;> simp [hevt]

/-! ### A write of a register -/

theorem State.writeTo_plain {i : Fin 256} {off : Fin 4096} (hown : ownBehaviour p off = false) (hi : i.val < pageCount p)
    (hoff : 0x100 ≤ off.val) (hr : s.ready p i = true) (hmode : s.effMode ≠ 5) (hlock : s.rd F.tmpCfgCfgLock = 0) :
    (s.at cyc).writeTo (.page p i off) w cyc = (s.at cyc).writeFields (s.keyAt p i off) w cyc := by
  have hoff' : (s.at cyc).on F.tmpCfgCfgLock = false := by rw [State.at_on, State.on, hlock]; rfl
  have hmode' : (s.at cyc).effMode ≠ 5 := hmode
  have hslc : p ≠ .slc := fun e => by rw [e] at hown; exact absurd hown (by simp [ownBehaviour])
  rw [State.writeTo_page w (fun e => by rw [e] at hown; exact absurd hown (by simp [ownBehaviour]))
    (fun e => by rw [e] at hown; exact absurd hown (by simp [ownBehaviour])), if_neg (by simp [hslc, hi]), if_neg (by omega),
    State.gate_of_ready ((State.at_ready ..).trans hr), State.writeBlock_plain hown hi hmode' hoff']
  rfl

/-- A plain register with its pending copy. -/
theorem State.writeFields_plain (hevt : isEvtReg k.page k.off = false) (hd : regDefOf k.page k.off = some d) :
    s.writeFields k w cyc = if d.rwt = 0 then s.setWord k (landedWord d (s.word k) w)
      else (s.setWord k (landedWord d (s.word k) w)).putCopy k (w &&& BitVec.ofNat 32 d.rwt) cyc := by
  unfold State.writeFields
  rw [hd, hevt]
  rfl

/-- A register that holds events. -/
theorem State.writeFields_evt (hevt : isEvtReg k.page k.off = true) (hd : regDefOf k.page k.off = some d) :
    s.writeFields k w cyc = s.setEvtWord k (landedWord d (s.evtWord k) w) := by
  unfold State.writeFields
  rw [hd, hevt]
  exact if_pos (evtReg_rwt hevt hd)

theorem runs_writePlain {i : Fin 256} {off : Fin 4096} (hown : ownBehaviour p off = false) (hi : i.val < pageCount p)
    (hoff : 0x100 ≤ off.val) (hd : regDefOf p off.val = some d) (hr : s.ready p i = true) (hmode : s.effMode ≠ 5)
    (hlock : s.rd F.tmpCfgCfgLock = 0) (hevt : isEvtReg p off.val = false) :
    Runs (.registerWrite (.page p i off) w cyc) s (fun t =>
      (∀ b : Fin 32, (t.word (s.keyAt p i off)).getLsbD b =
        if (d.w1s.testBit b && w.getLsbD b) then true
        else if (d.w1c.testBit b && w.getLsbD b) then false
        else if d.rw.testBit b then w.getLsbD b else (s.word (s.keyAt p i off)).getLsbD b) ∧
      s.regsBut t [s.keyAt p i off] ∧ (d.rwt = 0 → t.sched = s.sched) ∧
      (d.rwt ≠ 0 → s.pends t (s.keyAt p i off) (w &&& BitVec.ofNat 32 d.rwt) cyc)) := by
  generalize hk : s.keyAt p i off = k
  have hpage : k.page = p := hk ▸ rfl
  have hoffk : k.off = off := hk ▸ rfl
  have hwords : ∀ t : State, (∀ k', t.word k' = ((s.at cyc).setWord k (landedWord d (s.word k) w)).word k') →
      (∀ b : Fin 32, (t.word k).getLsbD b = if (d.w1s.testBit b && w.getLsbD b) then true
        else if (d.w1c.testBit b && w.getLsbD b) then false
        else if d.rw.testBit b then w.getLsbD b else (s.word k).getLsbD b) ∧ s.regsBut t [k] := fun t ht => by
    refine ⟨fun b => ?_, fun k' hk' => ?_⟩
    · rw [ht, State.word_setWord_self, landedWord_bit]
    · rw [ht, State.word_setWord_ne _ _ (by simpa using hk'), State.at_word]
  have hexec : exec (.registerWrite (.page p i off) w cyc) s = done (if d.rwt = 0 then
      (s.at cyc).setWord k (landedWord d (s.word k) w)
      else ((s.at cyc).setWord k (landedWord d (s.word k) w)).putCopy k (w &&& BitVec.ofNat 32 d.rwt) cyc) := by
    refine congrArg done ((State.writeTo_plain hown hi hoff hr hmode hlock).trans ?_)
    rw [hk]
    exact State.writeFields_plain (by rw [hpage, hoffk, hevt]) (by rw [hpage, hoffk, hd])
  by_cases hrwt : d.rwt = 0
  · rw [if_pos hrwt] at hexec
    obtain ⟨hbits, hregs⟩ := hwords _ fun k' => State.closed_word _ k'
    exact runs_of_done hexec ⟨hbits, hregs, fun _ => (State.closed_sched _).trans rfl, fun h => absurd hrwt h⟩
  · rw [if_neg hrwt] at hexec
    obtain ⟨hbits, hregs⟩ := hwords _ fun k' => (State.closed_word _ k').trans (State.putCopy_word ..)
    refine runs_of_done hexec ⟨hbits, hregs, fun h => absurd h hrwt, fun _ => (State.closed_sched _).trans ?_⟩
    have hhold : ((s.at cyc).setWord k (landedWord d (s.word k) w)).on F.devCommitCtlHold = s.on F.devCommitCtlHold := by
      have hne : keyOf F.devCommitCtlHold ≠ k := fun e => by
        rw [← hpage, ← hoffk, ← e] at hown
        exact absurd hown (by decide)
      rw [State.on, State.on, State.rd, State.rd, State.word_setWord_ne _ _ hne, State.at_word]
    rw [State.putCopy, hhold]
    rfl

/-- The tally, the records raised and the interrupts of a cycle as its close takes them up. -/
def State.dropTally (s : State) : State := { s with rep := { s.rep with tally := [] } }
def State.dropRaised (s : State) : State := { s with rep := { s.rep with raised := [] } }
def State.dropIrqs (s : State) : State := { s with rep := { s.rep with irqs := [] } }

/-- What a cycle tallied, counted. -/
def State.tallied (s : State) : State := forL s.rep.tally State.applyTally s.dropTally

theorem State.settleOnce_eq : s.settleOnce =
    forL (s.tallied.rep.raised.foldr insertRaised []) (fun r s => s.record r) s.tallied.dropRaised := rfl

theorem State.sendIrqs_eq : s.sendIrqs =
    forL s.rep.irqs (fun e s => s.raiseVector (s.rd (F.hstVmapVector.at e.1.code))) s.dropIrqs := rfl

theorem State.settleOnce_quiet (htally : u.rep.tally = []) (hraised : u.rep.raised = []) :
    u.settleOnce = u.dropTally.dropRaised := by
  have htallied : u.tallied = u.dropTally := by rw [State.tallied, htally]; rfl
  have hnone : u.dropTally.rep.raised = [] := hraised
  rw [State.settleOnce_eq, htallied, hnone]
  rfl

/-- A cycle in which nothing was counted and nothing raised settles its event registers as they are. -/
theorem State.closed_evtWord_quiet {u : State} (htally : u.rep.tally = []) (hraised : u.rep.raised = []) (k : RegKey) :
    u.closed.evtWord k = u.evtWord k := by
  have hsettle : u.settle.rep.evt = u.rep.evt := by
    rw [State.settle, State.settleOnce_quiet htally hraised, State.settleOnce_quiet rfl rfl]
    rfl
  have hsent : Keeps (mask [.msix, .out]) u.settle.dropIrqs u.closed := by
    rw [State.closed, State.sendIrqs_eq]
    exact .forL (fun _ _ => State.raiseVector_keeps) (.refl _)
  have hsend : u.closed.rep = u.settle.dropIrqs.rep := hsent.frame .rep (by decide)
  have hevt : u.closed.rep.evt = u.rep.evt := (congrArg Report.evt hsend).trans hsettle
  exact congrArg (mget 0 · k) hevt

theorem runs_writeEvt {i : Fin 256} {off : Fin 4096} (hown : ownBehaviour p off = false) (hi : i.val < pageCount p)
    (hoff : 0x100 ≤ off.val) (hd : regDefOf p off.val = some d) (hr : s.ready p i = true) (hmode : s.effMode ≠ 5)
    (hlock : s.rd F.tmpCfgCfgLock = 0) (hevt : isEvtReg p off.val = true) (htally : s.rep.tally = []) (hraised : s.rep.raised = []) :
    Runs (.registerWrite (.page p i off) w cyc) s (fun t =>
      (∀ b : Fin 32, (t.evtWord ⟨p, off, i, 0⟩).getLsbD b =
        if (d.w1s.testBit b && w.getLsbD b) then true
        else if (d.w1c.testBit b && w.getLsbD b) then false
        else if d.rw.testBit b then w.getLsbD b else (s.evtWord ⟨p, off, i, 0⟩).getLsbD b) ∧
      s.regsBut t [] ∧ t.sched = s.sched) := by
  have hk : s.keyAt p i off = ⟨p, off, i, 0⟩ := by rw [State.keyAt, State.objOf_of_evtReg hevt]
  have hexec : exec (.registerWrite (.page p i off) w cyc) s =
      done ((s.at cyc).setEvtWord ⟨p, off, i, 0⟩ (landedWord d (s.evtWord ⟨p, off, i, 0⟩) w)) := by
    refine congrArg done ((State.writeTo_plain hown hi hoff hr hmode hlock).trans ?_)
    rw [hk]
    exact State.writeFields_evt hevt hd
  refine runs_of_done hexec ⟨fun b => ?_, State.closed_regsBut fun _ _ => rfl, (State.closed_sched _).trans rfl⟩
  rw [State.closed_evtWord_quiet (u := (s.at cyc).setEvtWord _ _) htally hraised, State.setEvtWord_evtWord_self, landedWord_bit]

/-- Settles O13: which writes act field by field, and what they leave of each bit. -/
theorem plainWritesActByField : Obligations.PlainWritesActByField := by
  unfold Obligations.PlainWritesActByField
  intro s p i off w cyc d hown hi hoff hd hr hmode hlock
  exact ⟨runs_writePlain hown hi hoff hd hr hmode hlock, runs_writeEvt hown hi hoff hd hr hmode hlock⟩

end Sys2Proof.Machine
end

section
/-! PROOF. A ring write of a slice that is not bound (R349), and a dispatch in a Chimney whose slots of the tick are used
(R350, R201). -/

namespace Sys2Proof.Machine

open Sys2Proof

/-! ### A NOP that an unbound slice holds -/

/-- Slice 0 is unbound, and holds a NOP that it has read. -/
def unboundNop : State :=
  { State.reset with slices := [(0, { fetched := [{ queue := 0, index := 0, bytes := [3] }] })] }

theorem unboundNop_inv : unboundNop.Inv where
  keys := AsnTable.empty_settled
  regs := by unfold State.regsOk; decide +kernel

/-- A ring of an unbound slice takes no fault. -/
theorem State.ringFails_of_unbound {s : State} {n : Nat} (h : (s.sliceRt n).state = 0) : s.ringFails n = s := if_pos h

theorem unboundNop_left : (((unboundNop.dropDesc 0 0).closed).sliceRt (0 : SliceNo).val).ringFault = false := by decide +kernel

theorem exec_unboundNop : exec (.nop 0 0 false) unboundNop = done (unboundNop.dropDesc 0 0) := by
  have hfails : exec (.nop 0 0 false) unboundNop = done ((unboundNop.dropDesc 0 0).ringFails 0) := by rfl
  rw [hfails, State.ringFails_of_unbound (by decide +kernel)]

/-- Refutes O35: a completion that cannot be written makes the ring of its slice faulty only while the slice is bound, and
the statement asks that of no slice that holds a descriptor. -/
theorem not_sliceQueues : ¬ Obligations.SliceQueues := by
  unfold Obligations.SliceQueues
  intro h
  obtain ⟨hnop, -⟩ := h.2.2 unboundNop 0 0 { queue := 0, index := 0, bytes := [3] } (by decide +kernel) (by decide +kernel)
    (by decide +kernel)
  obtain ⟨t, hexec, hfault, -⟩ := (hnop (by decide +kernel)).2
  rw [exec_unboundNop] at hexec
  have ht : t = (unboundNop.dropDesc 0 0).closed := (Host.Outcome.next.inj hexec).symm
  rw [ht, unboundNop_left] at hfault
  exact absurd hfault (by decide)

/-! ### A dispatch in a Chimney that has no slot left in the tick -/

/-- A job of one piece of 16 bytes. -/
def oneBlockJob : Job :=
  { id := 0, queue := 0, index := 0, gen := 0, mode := 3, dir := false, irq := false, key := [], src := 0, dst := 0, len := 16
    aadLen := 0, tagAt := 0 }

/-- Slice 0 alone may dispatch, and a pair of Stoves is in service, all of whose slots of the tick lookaside work has used. -/
def slotsUsed : State :=
  { (State.reset.wr F.hstSresCellQuota 64).wr F.hstSresStoveWeight 1 with
    slices := [(0, { state := 1, jobs := [oneBlockJob], deficit := 1 })]
    chims := [(0, { own := [(0, .ok), (1, .ok)], lookSlots := 20000 })] }

theorem slotsUsed_inv : slotsUsed.Inv where
  keys := AsnTable.empty_settled
  regs := by unfold State.regsOk; decide +kernel

theorem slotsUsed_none : slotsUsed.slotsLeft 0 = 0 := by decide +kernel

/-- Without a slot left in the tick nothing is dispatched. -/
theorem State.dispatchPiece_of_no_slot {s : State} {c k : Nat} {data : Option (List Byte)} (h : s.slotsLeft c = 0) :
    s.dispatchPiece c k data = s := by
  unfold State.dispatchPiece
  extract_lets ns
  exact if_pos (by rw [decide_eq_true h, Bool.or_true, Bool.true_or])

theorem slotsUsed_staging : slotsUsed.closed.hearth.staging = 0 := by rw [State.closed_hearth]; rfl

/-- Refutes O37: a Stove in service takes a piece only while its Chimney has slots left in the tick (R201), which the
statement does not ask; here lookaside work has used them all. -/
theorem not_jobsRun : ¬ Obligations.JobsRun := by
  unfold Obligations.JobsRun
  intro h
  obtain ⟨hdispatch, -⟩ := h.1 slotsUsed 0 0 0 oneBlockJob (List.replicate 16 0) (by decide +kernel) (by decide +kernel)
    (by decide +kernel) (by decide +kernel) (by decide +kernel)
  obtain ⟨t, hexec, -, hstaging, -⟩ := hdispatch (by decide +kernel)
  have ht : t = slotsUsed.closed :=
    (Host.Outcome.next.inj hexec).symm.trans (congrArg State.closed (State.dispatchPiece_of_no_slot slotsUsed_none))
  rw [ht, slotsUsed_staging] at hstaging
  exact absurd hstaging (by decide +kernel)

end Sys2Proof.Machine
end

section
/-! PROOF. The states of slices (R341, R353 to R359, R362). -/

namespace Sys2Proof.Machine

open Sys2Proof

variable {s t u : State} {n op pasid : Nat} {cyc : Cyc}

/-! ### Vectors raised -/

/-- A vector that is raised is pending, or has been sent (R339). -/
theorem State.raiseVector_told (v : Nat) :
    v ∈ (s.raiseVector v).msix.pend ∨ s.out.length < (s.raiseVector v).out.length := by
  unfold State.raiseVector
  split
  · split
    · next h => exact .inl (by simpa using h)
    · exact .inl (List.mem_append_right _ (List.mem_singleton_self v))
  · refine .inr ?_
    rw [State.sendVector, State.emit_out, List.length_append]
    exact Nat.lt_succ_self _

theorem State.raiseVector_pend {v w : Nat} (h : w ∈ s.msix.pend) : w ∈ (s.raiseVector v).msix.pend := by
  unfold State.raiseVector
  split
  · split
    · exact h
    · exact List.mem_append_left _ h
  · exact h

theorem forL_raiseVector_pend {α : Type} {f : α → State → Nat} {w : Nat} (l : List α) :
    ∀ s : State, w ∈ s.msix.pend → w ∈ (forL l (fun a s => s.raiseVector (f a s)) s).msix.pend := by
  induction l with
  | nil => exact fun s h => h
  | cons a l ih => exact fun s h => ih _ (State.raiseVector_pend h)

theorem State.dropIrqs_msix : s.dropIrqs.msix = s.msix := rfl

/-- What is pending stays so as a cycle closes. -/
theorem State.closed_pend {w : Nat} (h : w ∈ s.msix.pend) : w ∈ s.closed.msix.pend := by
  have hsettle : s.settle.msix = s.msix := State.settle_keeps.frame .msix (by decide)
  have hstart : w ∈ s.settle.dropIrqs.msix.pend := by
    rw [State.dropIrqs_msix, hsettle]
    exact h
  rw [State.closed, State.sendIrqs_eq]
  exact forL_raiseVector_pend _ _ hstart

theorem State.hstEvent_evt {f : Fld} (hf : f.fits = true) (hw : f.w = 1) : (s.hstEvent f n).evt f = 1 :=
  State.event_evt_self _ _ hf hw

theorem State.hstEvent_word (f : Fld) (k : RegKey) : (s.hstEvent f n).word k = s.word k := State.hstEvent_keeps.word (by simp)

theorem State.sliceRt_of_slices (h : t.slices = s.slices) : t.sliceRt n = s.sliceRt n := by rw [State.sliceRt, State.sliceRt, h]

theorem State.hstEvent_sliceRt (f : Fld) (m : Nat) : (s.hstEvent f n).sliceRt m = s.sliceRt m :=
  State.sliceRt_of_slices (State.hstEvent_keeps.frame .slices (by decide))

theorem State.raiseVector_sliceRt (v : Nat) : (s.raiseVector v).sliceRt n = s.sliceRt n :=
  State.sliceRt_of_slices (State.raiseVector_keeps.frame .slices (by decide))

/-! ### The timers of a slice (R358, R359) -/

section
variable {n : SliceNo}

theorem runs_coalesceTimer (hticks : 0 < s.rd F.slcCqCfgCoalTicks n) (hwaiting : 0 < (s.sliceRt n).waiting)
    (hdue : (s.sliceRt n).waitFrom + s.rd F.slcCqCfgCoalTicks n ≤ s.tick) :
    Runs (.coalesceTimer n) s (fun t => (t.sliceRt n).waiting = 0 ∧ s.regsBut t [] ∧
      ((s.rd F.hstSvecCqVec 0 n ∈ t.msix.pend) ∨ s.out.length < t.out.length)) := by
  have hexec : exec (.coalesceTimer n) s =
      done ((s.modSlice n (fun r => { r with waiting := 0 })).raiseVector (s.rd F.hstSvecCqVec 0 n)) :=
    congrArg done (if_pos ⟨hticks, hwaiting, hdue⟩)
  refine runs_of_done hexec ⟨?_, ?_, ?_⟩
  · rw [State.closed_sliceRt, State.raiseVector_sliceRt, State.modSlice_sliceRt_self]
  · exact State.closed_regsBut (State.regsBut_of_word (fun k => State.raiseVector_keeps.word (by simp)) (fun _ _ => rfl))
  · refine (State.raiseVector_told _).imp State.closed_pend fun h => ?_
    exact lt_of_lt_of_le h (State.closed_out _).length_le

theorem runs_coalesceTimer_idle (hnot : s.rd F.slcCqCfgCoalTicks n = 0 ∨ (s.sliceRt n).waiting = 0 ∨
    s.tick < (s.sliceRt n).waitFrom + s.rd F.slcCqCfgCoalTicks n) :
    Runs (.coalesceTimer n) s (fun t => t.slices = s.slices ∧ s.regsBut t []) :=
  runs_of_done (congrArg done (if_neg (by omega))) ⟨State.closed_slices _, State.closed_regsBut (State.regsBut_refl s _)⟩

theorem runs_jobWaitAlarm {id : Nat} {j : Job} (hfind : (s.sliceRt n).jobs.find? (fun j => j.id = id) = some j)
    (hread : j.readFault = false) (hleft : j.issued < j.pieces) (hlong : j.since + 64 < s.tick) (htold : j.told = false) :
    Runs (.jobWaitAlarm n id) s (fun t =>
      (t.sliceRt n).jobs = (s.sliceRt n).jobs.map (fun (x : Job) => if x.id = id then { x with told := true } else x)) := by
  have hexec : exec (.jobWaitAlarm n id) s = done ((s.modSlice n (fun r =>
      { r with jobs := r.jobs.map (fun (x : Job) => if x.id = id then { x with told := true } else x) })).ringEvent
        n 4 (j.index + 65536 * j.queue)) := by
    change done _ = _
    rw [hfind]
    exact congrArg done (if_pos (by rw [hread, htold, decide_eq_true ⟨hleft, hlong⟩]; rfl))
  refine runs_of_done hexec ?_
  rw [State.closed_sliceRt, (SameWork.ringEvent _ _).jobs, State.modSlice_sliceRt_self]

end

/-! ### Commands of a slice (R341, R353, R354, R357, R362) -/

theorem State.sliceLand_passes (hop : 1 ≤ op ∧ op ≤ 4) (hcheck : s.sliceCheck n op (s.rd F.hstSpasidPasid 0 n) = 0) :
    s.sliceLand n op cyc = (s.modSlice n (fun r => { r with result := 1 })).schedule (s.edgeFor cyc)
      (.sliceCmd n op (s.rd F.hstSpasidPasid 0 n)) := by
  unfold State.sliceLand
  rw [if_neg (by omega)]
  dsimp only
  split
  · rfl
  · next hne => exact absurd hcheck hne

theorem State.sliceLand_refuses (hop : 1 ≤ op ∧ op ≤ 4) (hcheck : s.sliceCheck n op (s.rd F.hstSpasidPasid 0 n) ≠ 0) :
    s.sliceLand n op cyc = s.sliceRefuse n (s.sliceCheck n op (s.rd F.hstSpasidPasid 0 n)) := by
  unfold State.sliceLand
  rw [if_neg (by omega)]
  dsimp only
  split
  · next h => exact absurd h hcheck
  · rfl

/-- The four commands of HST_SCMD, each with its number. -/
def sliceCommands (cyc : Cyc) : List (Instr × Nat) := [(.bind cyc, 1), (.sliceReset cyc, 2), (.sliceRemove cyc, 3), (.dirtyRead cyc, 4)]

theorem exec_sliceCommand (hr : s.ready .hst = true) (hn : n = s.rd F.hstSselSlice) :
    ∀ c ∈ sliceCommands cyc, exec c.1 s = done ((s.at cyc).sliceLand n c.2 cyc) ∧ 1 ≤ c.2 ∧ c.2 ≤ 4 := by
  have hland : ∀ op, s.sliceCommand op cyc = (s.at cyc).sliceLand n op cyc := fun op => by
    rw [State.sliceCommand, State.gate_of_ready ((State.at_ready ..).trans hr), State.at_rd, hn]
  have hdone : ∀ op, done (s.sliceCommand op cyc) = done ((s.at cyc).sliceLand n op cyc) := fun op => by rw [hland]
  simp only [sliceCommands, List.forall_mem_cons, List.not_mem_nil, false_implies, implies_true, and_true]
  exact ⟨⟨hdone 1, by decide⟩, ⟨hdone 2, by decide⟩, ⟨hdone 3, by decide⟩, ⟨hdone 4, by decide⟩⟩

theorem runs_sliceCommand {c : Instr × Nat} (hexec : exec c.1 s = done ((s.at cyc).sliceLand n c.2 cyc)) (hop : 1 ≤ c.2 ∧ c.2 ≤ 4)
    (hcheck : s.sliceCheck n c.2 (s.rd F.hstSpasidPasid 0 n) = 0) :
    Runs c.1 s (fun t => s.plans t (.sliceCmd n c.2 (s.rd F.hstSpasidPasid 0 n)) cyc ∧ (t.sliceRt n).result = 1 ∧
      (t.sliceRt n).state = (s.sliceRt n).state ∧ (t.sliceRt n).gen = (s.sliceRt n).gen ∧ s.regsBut t []) := by
  rw [State.sliceLand_passes hop ((congrArg _ (State.at_rd ..)).trans hcheck), State.at_rd] at hexec
  refine runs_of_done hexec ⟨(State.closed_sched _).trans rfl, ?_, ?_, ?_, State.closed_regsBut fun _ _ => rfl⟩
  all_goals rw [State.closed_sliceRt, State.schedule_sliceRt, State.modSlice_sliceRt_self]
  all_goals rfl

theorem runs_sliceCommand_refused {c : Instr × Nat} (hexec : exec c.1 s = done ((s.at cyc).sliceLand n c.2 cyc))
    (hop : 1 ≤ c.2 ∧ c.2 ≤ 4) {r : Nat} (hr : s.sliceCheck n c.2 (s.rd F.hstSpasidPasid 0 n) = r) (hne : r ≠ 0) :
    Runs c.1 s (fun t => t.sched = s.sched ∧ (t.sliceRt n).result = r ∧ (t.sliceRt n).state = (s.sliceRt n).state ∧
      t.evt F.hstEvtCmdRejected = 1 ∧ s.regsBut t []) := by
  have hcheck : (s.at cyc).sliceCheck n c.2 ((s.at cyc).rd F.hstSpasidPasid 0 n) = r := (congrArg _ (State.at_rd ..)).trans hr
  rw [State.sliceLand_refuses hop (hcheck.trans_ne hne), hcheck, State.sliceRefuse] at hexec
  refine runs_of_done hexec ⟨?_, ?_, ?_, ?_, ?_⟩
  · exact (State.closed_sched _).trans (State.hstEvent_keeps.frame .sched (by decide))
  · rw [State.closed_sliceRt, State.hstEvent_sliceRt, State.modSlice_sliceRt_self]
  · rw [State.closed_sliceRt, State.hstEvent_sliceRt, State.modSlice_sliceRt_self]
    rfl
  · rw [State.closed_evt _ _ _ (by decide), State.hstEvent_evt (by decide) (by decide)]
  · exact State.closed_regsBut (State.regsBut_of_word (State.hstEvent_word _) (fun _ _ => rfl))

/-! ### The previous generation (R353), and the dirty log (R357) -/

section
variable {n : SliceNo}

/-- A slice whose previous generation is gone. -/
theorem State.resetDone_of_empty (hold : (s.sliceRt n).old = []) (hstate : (s.sliceRt n).state = 2 ∨ (s.sliceRt n).state = 3) :
    s.resetDone n = (s.modSlice n (fun r => { r with
      state := if (s.sliceRt n).state = 3 then 0 else 1, result := 0
      pasid := if (s.sliceRt n).state = 3 then 0 else (s.sliceRt n).pasid })).hstEvent F.hstEvtResetDone n := by
  unfold State.resetDone
  refine if_neg ?_
  rw [hold]
  simp
  omega

/-- The slice with nothing of its previous generation left, its pieces counted and freed. -/
def State.oldGone (s : State) (n : Nat) : State :=
  let pieces := (((s.sliceRt n).old.filter (fun _ => true)).map (fun j => j.running.length)).sum
  ((s.modSlice n (fun r => { r with old := r.old.filter (fun _ => !true) })).count .hst 0 5 pieces).endPieces pieces

theorem State.oldGone_sliceRt : (s.oldGone n).sliceRt n = { s.sliceRt n with old := [] } := by
  have hnone : (s.sliceRt n).old.filter (fun _ => !true) = [] := List.filter_eq_nil_iff.mpr (by simp)
  rw [State.oldGone, State.sliceRt_of_slices (State.endPieces_keeps.frame .slices (by decide)), State.count_sliceRt, State.modSlice_sliceRt_self,
    hnone]

theorem runs_sliceResetDone (hold : (s.sliceRt n).old ≠ []) (hstate : (s.sliceRt n).state = 2 ∨ (s.sliceRt n).state = 3) :
    Runs (.sliceResetDone n) s (fun t => (t.sliceRt n).old = [] ∧
      (t.sliceRt n).state = (if (s.sliceRt n).state = 3 then 0 else 1) ∧ (t.sliceRt n).result = 0 ∧
      (t.sliceRt n).gen = (s.sliceRt n).gen ∧ t.evt F.hstEvtResetDone = 1) := by
  have hexec : exec (.sliceResetDone n) s = done ((s.oldGone n).resetDone n) :=
    congrArg done (if_neg (by simpa using hold))
  rw [State.resetDone_of_empty (by rw [State.oldGone_sliceRt]) (by rw [State.oldGone_sliceRt]; exact hstate),
    State.oldGone_sliceRt] at hexec
  refine runs_of_done hexec ⟨?_, ?_, ?_, ?_, ?_⟩
  case refine_5 => rw [State.closed_evt _ _ _ (by decide), State.hstEvent_evt (by decide) (by decide)]
  all_goals rw [State.closed_sliceRt, State.hstEvent_sliceRt, State.modSlice_sliceRt_self, State.oldGone_sliceRt]

theorem runs_sliceResetTimeout (hold : (s.sliceRt n).old ≠ []) (hstate : (s.sliceRt n).state = 2 ∨ (s.sliceRt n).state = 3)
    (hlate : (s.sliceRt n).stepAt + 64 ≤ s.tick) :
    Runs (.sliceResetTimeout n) s (fun t => (t.sliceRt n).old = (s.sliceRt n).old ∧
      (t.sliceRt n).state = (if (s.sliceRt n).state = 3 then 0 else 1) ∧ t.evt F.hstEvtResetTimeout = 1 ∧ s.regsBut t []) := by
  have hexec : exec (.sliceResetTimeout n) s = done ((s.modSlice n (fun r => { r with
      state := if (s.sliceRt n).state = 3 then 0 else 1, result := 0
      pasid := if (s.sliceRt n).state = 3 then 0 else (s.sliceRt n).pasid })).hstEvent F.hstEvtResetTimeout n) :=
    congrArg done (if_pos ⟨hstate, by simpa using hold, hlate⟩)
  refine runs_of_done hexec ⟨?_, ?_, ?_, ?_⟩
  · rw [State.closed_sliceRt, State.hstEvent_sliceRt, State.modSlice_sliceRt_self]
  · rw [State.closed_sliceRt, State.hstEvent_sliceRt, State.modSlice_sliceRt_self]
  · rw [State.closed_evt _ _ _ (by decide), State.hstEvent_evt (by decide) (by decide)]
  · exact State.closed_regsBut (State.regsBut_of_word (State.hstEvent_word _) (fun _ _ => rfl))

theorem runs_sliceResetTimeout_early (hearly : s.tick < (s.sliceRt n).stepAt + 64) :
    Runs (.sliceResetTimeout n) s (fun t => t.slices = s.slices ∧ s.regsBut t []) :=
  runs_of_done (congrArg done (if_neg (by omega))) ⟨State.closed_slices _, State.closed_regsBut (State.regsBut_refl s _)⟩

/-- The old buffer copied and zeroed. -/
def State.dirtyCopied (s : State) (n src dst bytes : Nat) : State :=
  ((s.emit (.hostCopy src dst bytes)).emit (.hostZero src bytes)).modSlice n (fun r => { r with copying := none, result := 0 })

variable {src dst bytes : Nat}

theorem State.dirtyCopied_out : (s.dirtyCopied n src dst bytes).out = s.out ++ [.hostCopy src dst bytes, .hostZero src bytes] := by
  rw [State.dirtyCopied, State.modSlice_out, State.emit_out, State.emit_out, List.append_assoc]
  rfl

theorem State.dirtyCopied_sliceRt :
    (s.dirtyCopied n src dst bytes).sliceRt n = { s.sliceRt n with copying := none, result := 0 } := by
  rw [State.dirtyCopied, State.modSlice_sliceRt_self]
  rfl

theorem State.dirtyCopied_word (k : RegKey) : (s.dirtyCopied n src dst bytes).word k = s.word k := rfl

theorem runs_dirtyCopyDone (hcopy : (s.sliceRt n).copying = some (src, dst, bytes)) :
    Runs (.dirtyCopyDone n) s (fun t => (s.out ++ [.hostCopy src dst bytes, .hostZero src bytes]) <+: t.out ∧
      (t.sliceRt n).copying = none ∧ (t.sliceRt n).result = 0 ∧ t.evt F.hstEvtDirtyDone = 1 ∧ s.regsBut t []) := by
  have hexec : exec (.dirtyCopyDone n) s = done ((s.dirtyCopied n src dst bytes).hstEvent F.hstEvtDirtyDone n) := by
    change done _ = _
    rw [hcopy]
    rfl
  have hword : ∀ k, ((s.dirtyCopied n src dst bytes).hstEvent F.hstEvtDirtyDone n).word k = s.word k := fun k =>
    (State.hstEvent_word _ k).trans (State.dirtyCopied_word k)
  have hout : ((s.dirtyCopied n src dst bytes).hstEvent F.hstEvtDirtyDone n).out = (s.dirtyCopied n src dst bytes).out :=
    State.hstEvent_keeps.frame .out (by decide)
  generalize hu : (s.dirtyCopied n src dst bytes).hstEvent F.hstEvtDirtyDone n = u at hexec hword hout
  have hslice : u.sliceRt n = { s.sliceRt n with copying := none, result := 0 } := by
    rw [← hu, State.hstEvent_sliceRt, State.dirtyCopied_sliceRt]
  refine runs_of_done hexec ⟨?_, ?_, ?_, ?_, State.closed_regsBut (State.regsBut_of_word hword (State.regsBut_refl s _))⟩
  · rw [← State.dirtyCopied_out, ← hout]
    exact State.closed_out u
  · rw [State.closed_sliceRt, hslice]
  · rw [State.closed_sliceRt, hslice]
  · rw [State.closed_evt _ _ _ (by decide), ← hu, State.hstEvent_evt (by decide) (by decide)]

end

/-- Settles O38: the timers, the commands as their checks have them, and the end of the previous generation. -/
theorem sliceStates : Obligations.SliceStates := by
  unfold Obligations.SliceStates
  refine ⟨fun s n => ⟨runs_coalesceTimer, runs_coalesceTimer_idle, fun id j => runs_jobWaitAlarm⟩, ?_, fun s n => ⟨?_, ?_⟩⟩
  · intro s cyc n hr hn c hc
    obtain ⟨hexec, hop⟩ := exec_sliceCommand hr hn c hc
    exact ⟨runs_sliceCommand hexec hop, fun r => runs_sliceCommand_refused hexec hop⟩
  · exact fun hold hstate => ⟨runs_sliceResetDone hold hstate, runs_sliceResetTimeout hold hstate, runs_sliceResetTimeout_early⟩
  · exact fun src dst bytes => runs_dirtyCopyDone

end Sys2Proof.Machine
end

section
/-! SUPPORT. A control message of a session (R280): the checks leave the state, what accepting it changes of its link, and what
closing a session leaves of it. -/

namespace Sys2Proof.Machine

open Sys2Proof

variable {s u : State} {k : Nat} {x : Session} {m : List Byte} {rest : List (List Byte)} {n : Nat} {untagged : Bool}

/-- A control message that passes the checks of R280 leaves the state as it is. -/
theorem State.controlCheck_of_pass {p : Bool × Session} (h : (s.controlCheck k m n untagged).2 = some p) :
    s.controlCheck k m n untagged = (s, some p) := by
  refine Prod.ext ?_ h
  revert h
  rw [State.controlCheck]
  split
  · exact fun h => nomatch h
  · split
    · exact fun h => nomatch h
    · dsimp only
      repeat' split
      all_goals first
        | exact fun _ => rfl
        | exact fun h => nomatch h

@[simp] theorem State.taken_tick : (s.taken k rest).tick = s.tick := rfl
@[simp] theorem State.taken_assocs : (s.taken k rest).assocs = s.assocs := rfl
@[simp] theorem State.modSes_assocs (par : Bool) (f : Session → Session) : (s.modSes k par f).assocs = s.assocs := rfl
@[simp] theorem State.lattice_assocs (par : Bool) (ops : List LatOp) (goal : Goal) : (s.lattice k par ops goal).assocs = s.assocs :=
  State.lattice_keeps.frame .assocs (by decide)
@[simp] theorem State.acceptControl_assocs (par : Bool) : (s.acceptControl k par x m).assocs = s.assocs := rfl
@[simp] theorem State.dropLattice_assocs (par : Bool) : (s.dropLattice k par).assocs = s.assocs := rfl
@[simp] theorem State.rollComplete_assocs : (s.rollComplete k).assocs = s.assocs :=
  State.rollComplete_keeps.frame .assocs (by decide)
@[simp] theorem State.countCheck_assocs (peer own : Nat) : (s.countCheck k peer own).assocs = s.assocs :=
  State.countCheck_keeps.frame .assocs (by decide)
@[simp] theorem State.modRoll_assocs (f : Roll → Roll) : (s.modRoll k f).assocs = s.assocs := rfl

theorem State.genuine_checks (h : s.genuine k m rest n x untagged) :
    (s.taken k rest).controlCheck k m n untagged = (s.taken k rest, some (false, x)) := State.controlCheck_of_pass h

theorem State.takeControl_of_done {f : State → List Byte → State} (hin : (s.link k).inbox = m :: rest) (hruns : s.kdlRuns = true)
    (hdone : f (s.taken k rest) m = u) : s.takeControl k (byteAt m 0) f = u :=
  State.takeMsg_of_done hin hruns (by rw [hdone])

theorem State.acceptControl_link : (s.acceptControl k false x m).link k = { s.link k with
    cur := some { x with seqIn := beAt m 24 4 + 1, lastHeard := s.tick }, peerSilent := false } := State.modLink_link_self ..

@[simp] theorem State.rollEvent_link (f : Fld) (i j : Nat) : (s.rollEvent f i).link j = s.link j := by
  rw [State.link, State.link, State.rollEvent_keeps.frame .kindle (by decide)]

theorem State.countCheck_link (peer own j : Nat) : (s.countCheck k peer own).link j = s.link j := by
  rw [State.countCheck, onlyIf]
  split
  · exact State.rollEvent_link ..
  · rfl

theorem State.modRoll_link (f : Roll → Roll) : (s.modRoll k f).link k = { s.link k with roll := (s.link k).roll.map f } :=
  State.modLink_link_self ..

/-- Releasing a held acknowledgement ends its being held, and changes of the link only what says which acknowledgement is due. -/
theorem State.releaseAck_link : ∃ d e, (s.releaseAck k).link k = { s.link k with ackHold := none, ackDue := d, ackEdge := e } := by
  rw [State.releaseAck]
  split
  · split
    · exact ⟨_, _, by rw [State.sendAck, State.modLink_link_self, State.sendFragment_link, State.modLink_link_self]⟩
    · exact ⟨_, _, State.modLink_link_self ..⟩
  · next h => exact ⟨_, _, by rw [← h]⟩

theorem State.dropLattice_link (par : Bool) (i j : Nat) : (s.dropLattice i par).link j = s.link j := rfl

/-- A session closed is gone from its link; the link's other session, the reason of the last ABORT and the count of hold-offs
stand. -/
theorem State.closeSession_leaves (par : Bool) : ((s.closeSession k par).link k).ses par = none ∧
    ((s.closeSession k par).link k).ses (!par) = (s.link k).ses (!par) ∧
    ((s.closeSession k par).link k).lastReason = (s.link k).lastReason ∧
    ((s.closeSession k par).link k).holdK = (s.link k).holdK := by
  cases hses : (s.link k).ses par with
  | none =>
    have hsame : s.closeSession k par = s := by rw [State.closeSession, hses]
    rw [hsame]
    exact ⟨hses, rfl, rfl, rfl⟩
  | some x =>
    obtain ⟨q, fs, n, hlink, -⟩ := State.withdrawAll_link (s := s) (k := k) (fun m => decide (m.session = some x.idx))
    have hdropped : ((s.withdraw k x.idx).dropLattice k par).link k = { s.link k with outQ := q, frags := fs, nextMsgId := n } :=
      hlink
    cases par with
    | false =>
      have hcur : (s.link k).cur = some x := hses
      simp [State.closeSession, hcur, Link.ses, Link.setSes, hdropped]
    | true =>
      have hpar : (s.link k).par = some x := hses
      simp [State.closeSession, hpar, Link.ses, Link.setSes, hdropped]

/-- A LIVE session that ends leaves its link with no session, and in HOLDOFF (R283, R284). -/
theorem State.endLive_ends (cause : Nat) :
    ((s.endLive k cause (fun s => s)).link k).cur = none ∧ ((s.endLive k cause (fun s => s)).link k).par = none ∧
    ((s.endLive k cause (fun s => s)).link k).lastReason = (s.link k).lastReason ∧
    ((s.endLive k cause (fun s => s)).link k).holdUntil = some (s.tick + s.holdoffTicks (s.link k).holdK) ∧
    Keeps (mask [.sched, .kindle]) s (s.endLive k cause (fun s => s)) := by
  rw [State.endLive]
  generalize hv : s.killLink k cause (s.tick + 1) = v
  have hkeepsv : Keeps (mask [.sched]) s v := hv ▸ State.killLink_keeps
  have hlinkv : v.link k = s.link k := by rw [State.link, State.link, hkeepsv.frame .kindle (by decide)]
  obtain ⟨hpar, hcur, hreason, hhold⟩ := State.closeSession_leaves (s := v) (k := k) true
  generalize hw : v.closeSession k true = w at hpar hcur hreason hhold
  obtain ⟨hcur', hpar', hreason', hhold'⟩ := State.closeSession_leaves (s := w) (k := k) false
  generalize hz : w.closeSession k false = z at hcur' hpar' hreason' hhold'
  have hkeeps : Keeps (mask [.sched, .kindle]) s z := hz ▸ State.closeSession_keeps.step (by rfl)
    (hw ▸ State.closeSession_keeps.step (by rfl) (hkeepsv.mono (by rfl)))
  rw [State.holdoff, State.modLink_link_self]
  refine ⟨hcur', hpar'.trans hpar, hreason'.trans (hreason.trans (by rw [hlinkv])), ?_, State.modLink_keeps.step (by rfl) hkeeps⟩
  show some _ = some _
  rw [hhold', hhold, hlinkv, hkeeps.frame .tick (by decide), State.regsBut_holdoffTicks (hkeeps.regsBut (by simp))]

end Sys2Proof.Machine
end

section
/-! PROOF. The statement on the control messages of a LIVE session. -/

namespace Sys2Proof.Machine

open Sys2Proof

variable {s : State} {k : LinkNo} {x : Session} {m : List Byte} {rest : List (List Byte)}

theorem forL_link {k : Nat} {f : Nat → State → State} (hf : ∀ a s, (f a s).link k = s.link k) (l : List Nat) (s : State) :
    (forL l f s).link k = s.link k := by
  induction l generalizing s with
  | nil => rfl
  | cons a l ih => exact (ih (f a s)).trans (hf a s)

theorem State.abandonAsn_link (s : State) (a j : Nat) : (s.abandonAsn a).link j = s.link j := by
  rw [State.link, State.link, State.abandonAsn_keeps.frame .kindle (by decide)]

/-- A follower holds the proposal's epoch and count, and derives its keys (R266). -/
theorem State.follow_link (s : State) (k t n : Nat) : ∃ i ks since, (s.follow k t n).link k = { s.link k with
    roll := some { stage := .keying, proposer := false, target := t, since := since, peerCount := n, installAt := i, keys := ks } } := by
  rw [State.follow]
  dsimp only
  generalize hv : forL (s.linkAssocs k) _ s = v
  have hlink : v.link k = s.link k := by
    rw [← hv]
    refine forL_link (k := k) (fun a s => ?_) _ _
    rw [onlyIf]
    split
    · exact State.abandonAsn_link ..
    · rfl
  exact ⟨_, _, _, by rw [State.modLink_link_self, hlink]⟩

theorem rollPropose_follows (hin : (s.link k).inbox = m :: rest) (hruns : s.kdlRuns = true) (htype : byteAt m 0 = 5)
    (hok : s.genuine k m rest 112 x) (hepoch : (s.link k).epoch < beAt m 32 4) (hroll : (s.link k).roll = none) :
    Runs (.rollPropose k) s (fun t => (t.link k).inbox = rest ∧
      (t.link k).roll.map (fun r => (r.proposer, r.target, r.stage, r.peerCount)) =
        some (false, beAt m 32 4, .keying, beAt m 36 4) ∧
      (t.link k).cur.map (fun y => (y.seqIn, y.lastHeard)) = some (beAt m 24 4 + 1, s.tick)) := by
  have hfollows : (s.taken k rest).onPropose k m =
      ((s.taken k rest).acceptControl k false x m).follow k (beAt m 32 4) (beAt m 36 4) := by
    rw [State.onPropose, State.genuine_checks hok]
    simp only [State.taken_link, hroll, Bool.false_eq_true, ↓reduceIte, Nat.not_le.mpr hepoch]
  refine runs_of_done (congrArg done (htype ▸ State.takeControl_of_done hin hruns hfollows)) ?_
  obtain ⟨i, ks, since, hlink⟩ := State.follow_link ((s.taken k rest).acceptControl k false x m) k (beAt m 32 4) (beAt m 36 4)
  rw [State.closed_link, hlink, State.acceptControl_link, State.taken_link]
  exact ⟨rfl, rfl, rfl⟩

theorem rollReady_schedules {r : Roll} (hin : (s.link k).inbox = m :: rest) (hruns : s.kdlRuns = true) (htype : byteAt m 0 = 6)
    (hok : s.genuine k m rest 112 x) (hroll : (s.link k).roll = some r) (hproposer : r.proposer = true)
    (htarget : r.target = beAt m 32 4) (hstage : r.stage = .proposed) :
    Runs (.rollReady k) s (fun t => (t.link k).inbox = rest ∧ (t.link k).ackHold = none ∧
      (t.link k).roll = some { r with stage := .scheduled
                                      switchAt := some (s.tick + if s.portOtn (s.linkPort k) then 20 else 1) } ∧
      t.assocs = s.assocs) := by
  obtain ⟨d, e, hlink⟩ := State.releaseAck_link (s := (s.taken k rest).acceptControl k false x m) (k := k)
  have hkeeps : Keeps (mask [.rep, .ports, .kindle, .msix, .out]) s (((s.taken k rest).acceptControl k false x m).releaseAck k) :=
    State.releaseAck_keeps.step (by rfl) (State.acceptControl_keeps.step (by rfl) (State.modLink_keeps.mono (by rfl)))
  generalize hv : ((s.taken k rest).acceptControl k false x m).releaseAck k = v at hlink hkeeps
  have hready : (s.taken k rest).onReady k m = (v.countCheck k (beAt m 36 4) r.rolled.length).modRoll k (fun r =>
      { r with stage := .scheduled, switchAt := some (v.tick + (if v.portOtn (v.linkPort k) then 20 else 1)) }) := by
    rw [State.onReady, State.genuine_checks hok]
    simp only [State.taken_link, hroll, hproposer, htarget, hstage, hv]
    simp
  refine runs_of_done (congrArg done (htype ▸ State.takeControl_of_done hin hruns hready)) ?_
  have hsame : v.tick + (if v.portOtn (v.linkPort k) then 20 else 1) = s.tick + if s.portOtn (s.linkPort k) then 20 else 1 := by
    have hregs : s.regsBut v [] := hkeeps.regsBut (by simp)
    have htick : v.tick = s.tick := hkeeps.frame .tick (by decide)
    have hotn : v.portOtn (v.linkPort k) = s.portOtn (s.linkPort k) := by
      simp only [State.portOtn, State.regsBut_linkPort hregs, State.regsBut_on hregs]
    rw [htick, hotn]
  rw [State.closed_link, State.modRoll_link, State.countCheck_link, hlink, State.acceptControl_link, State.taken_link, hroll, hsame]
  refine ⟨rfl, rfl, rfl, ?_⟩
  have hcount : Keeps (mask [.rep, .ports, .kindle, .msix, .out]) s (v.countCheck k (beAt m 36 4) r.rolled.length) :=
    State.countCheck_keeps.step (by rfl) hkeeps
  rw [State.closed_assocs]
  exact hcount.frame .assocs (by decide)

theorem rollDone_completes {r : Roll} (hin : (s.link k).inbox = m :: rest) (hruns : s.kdlRuns = true) (htype : byteAt m 0 = 7)
    (hok : s.genuine k m rest 112 x) (hroll : (s.link k).roll = some r) (hstage : r.stage = .ended) (hsent : r.doneSent = true)
    (hepoch : beAt m 32 4 = (s.link k).epoch) :
    Runs (.rollDone k) s (fun t => (t.link k).inbox = rest ∧ (t.link k).roll = none ∧
      (t.link k).rollsDone = min 65535 ((s.link k).rollsDone + 1) ∧ t.assocs = s.assocs) := by
  have hdone : (s.taken k rest).onDone k m = ((((s.taken k rest).acceptControl k false x m).countCheck k (beAt m 36 4)
      r.rolled.length).modRoll k (fun r => { r with peerDone := true })).rollComplete k := by
    rw [State.onDone, State.genuine_checks hok]
    simp [State.taken_link, hroll, hstage, hsent, hepoch]
  refine runs_of_done (congrArg done (htype ▸ State.takeControl_of_done hin hruns hdone)) ?_
  rw [State.closed_link, State.closed_assocs, State.rollComplete_assocs, State.modRoll_assocs, State.countCheck_assocs,
    State.acceptControl_assocs, State.taken_assocs, State.rollComplete, State.modSes_link, State.modLink_link_self,
    State.modRoll_link, State.countCheck_link, State.acceptControl_link, State.taken_link]
  exact ⟨rfl, rfl, Nat.min_comm .., rfl⟩

/-! ### Rekeying (R273) -/

theorem rekey_takeMsg (hin : (s.link k).inbox = m :: rest) (hruns : s.kdlRuns = true) (htype : byteAt m 0 = 8) {u : State}
    {f : State → List Byte → State × Bool} (hdone : f (s.taken k rest) m = (u, true)) : done (s.takeMsg k 8 f) = done u :=
  congrArg done (htype ▸ State.takeMsg_of_done hin hruns hdone)

/-- A REKEY request that carries no key is discarded. -/
theorem State.onRekeyRequest_of_bad (hok : s.genuine k m rest 1704 x) (hbad : Config.kemKeyOk (slice m 72 1568) = false) :
    (s.taken k rest).onRekeyRequest k m = (s.taken k rest).discard := by
  rw [State.onRekeyRequest, State.genuine_checks hok]
  simp [hbad]

/-- The state of a session that answers a REKEY request (R273). -/
def State.rekeyAnswers (s : State) (k : Nat) (x : Session) (m : List Byte) : State :=
  (((s.acceptControl k false x m).dropLattice k false).modSes k false (fun x =>
    { x with dk := [], ek := [], rekeyMsg := m, pending := none })).lattice k false [.encaps] .rekeyResponse

theorem State.onRekeyRequest_of_pass (hok : s.genuine k m rest 1704 x) (hstep : byteAt m 32 = 0)
    (hgood : Config.kemKeyOk (slice m 72 1568) = true) (hsince : (s.link k).rekeySince = none) (hgoal : x.goal = none) :
    (s.taken k rest).onRekeyRequest k m = ((s.taken k rest).rekeyAnswers k x m).pump k := by
  rw [State.onRekeyRequest, State.genuine_checks hok]
  simp [hgood, hstep, hgoal, State.acceptControl_link, State.taken_link, hsince, State.rekeyAnswers]

theorem State.rekeyAnswers_link : (s.rekeyAnswers k x m).link k = { s.link k with
    cur := some { x with seqIn := beAt m 24 4 + 1, lastHeard := s.tick, dk := [], ek := [], rekeyMsg := m, pending := none
                         ops := [.encaps], goal := some .rekeyResponse }
    peerSilent := false } := by
  rw [State.rekeyAnswers, State.lattice_link, State.modSes_link, State.dropLattice_link, State.acceptControl_link]
  rfl

theorem State.rekeyAnswers_assocs : (s.rekeyAnswers k x m).assocs = s.assocs := by
  simp only [State.rekeyAnswers, State.lattice_assocs, State.modSes_assocs, State.dropLattice_assocs, State.acceptControl_assocs]

theorem rekeyRequest_answers (hin : (s.link k).inbox = m :: rest) (hruns : s.kdlRuns = true) (htype : byteAt m 0 = 8)
    (hstep : byteAt m 32 = 0) (hok : s.genuine k m rest 1704 x) (hsince : (s.link k).rekeySince = none) (hgoal : x.goal = none) :
    Runs (.rekeyRequest k) s (fun t => (t.link k).inbox = rest ∧ t.assocs = s.assocs ∧
      (Config.kemKeyOk (slice m 72 1568) = true →
        (t.link k).cur.map (fun y => (y.ops, y.goal, y.rekeyMsg, y.pending)) = some ([.encaps], some .rekeyResponse, m, none)) ∧
      (Config.kemKeyOk (slice m 72 1568) = false → (t.link k).cur = (s.link k).cur)) := by
  have hnot : ¬ byteAt m 32 = 1 := by omega
  cases hgood : Config.kemKeyOk (slice m 72 1568) with
  | false =>
    have hdiscards := State.onRekeyRequest_of_bad hok hgood
    refine runs_of_done (rekey_takeMsg hin hruns htype (by rw [if_neg hnot, hdiscards])) ?_
    rw [State.closed_link, State.closed_assocs, State.discard, State.count_link, State.count_assocs, State.taken_link]
    exact ⟨rfl, rfl, fun h => absurd h (by decide), fun _ => rfl⟩
  | true =>
    have hanswers := State.onRekeyRequest_of_pass hok hstep hgood hsince hgoal
    refine runs_of_done (rekey_takeMsg hin hruns htype (by rw [if_neg hnot, hanswers])) ?_
    have hpump := OnlySends.pump (k := k) ((s.taken k rest).rekeyAnswers k x m)
    obtain ⟨fs, n, r, hlink⟩ := hpump.link
    rw [State.closed_link, State.closed_assocs, hlink, State.rekeyAnswers_link, State.taken_link, hpump.keeps.frame .assocs (by decide),
      State.rekeyAnswers_assocs, State.taken_assocs]
    exact ⟨rfl, rfl, fun _ => rfl, fun h => absurd h (by decide)⟩

theorem rekeyResponse_adopts (hin : (s.link k).inbox = m :: rest) (hruns : s.kdlRuns = true) (htype : byteAt m 0 = 8)
    (hstep : byteAt m 32 = 1) (hok : s.genuine k m rest 1704 x) (hsince : (s.link k).rekeySince.isSome = true)
    (hgoal : x.goal = none) :
    Runs (.rekeyResponse k) s (fun t => (t.link k).inbox = rest ∧ t.assocs = s.assocs ∧
      (t.link k).cur.map (fun y => (y.ops, y.goal, y.rekeyResp, y.gen)) = some ([.decaps], some .rekeyAdopt, m, x.gen + 1) ∧
      (t.link k).rekeySince = none) := by
  have hadopts : (s.taken k rest).onRekeyResponse k m =
      ((((s.taken k rest).acceptControl k false x m).modSes k false (fun x => x.accepts m)).modLink k (fun l =>
        { l with rekeySince := none })).lattice k false [.decaps] .rekeyAdopt := by
    rw [State.onRekeyResponse, State.genuine_checks hok]
    have hsome : (s.link k).rekeySince ≠ none := Option.isSome_iff_ne_none.mp hsince
    simp [hstep, hgoal, State.taken_link, hsome]
  refine runs_of_done (rekey_takeMsg hin hruns htype (by rw [if_pos hstep, hadopts])) ?_
  rw [State.closed_link, State.closed_assocs, State.lattice_assocs, State.modLink_assocs, State.modSes_assocs,
    State.acceptControl_assocs, State.taken_assocs, State.lattice_link, State.modLink_link_self, State.modSes_link,
    State.acceptControl_link, State.taken_link]
  exact ⟨rfl, rfl, rfl, rfl⟩

/-! ### KEEPALIVE and ABORT -/

theorem keepalive_counts (hin : (s.link k).inbox = m :: rest) (hruns : s.kdlRuns = true) (htype : byteAt m 0 = 10)
    (hok : s.genuine k m rest 104 x) (hcount : x.keepIn ≤ beAt m 32 8) :
    Runs (.keepalive k) s (fun t => (t.link k).inbox = rest ∧ t.assocs = s.assocs ∧
      (t.link k).cur = some { x with seqIn := beAt m 24 4 + 1, lastHeard := s.tick, keepIn := beAt m 32 8 + 1 }) := by
  have hkeeps : (s.taken k rest).onKeepalive k m = ((s.taken k rest).acceptControl k false x m).modSes k false (fun x =>
      { x with keepIn := beAt m 32 8 + 1 }) := by
    rw [State.onKeepalive, State.genuine_checks hok]
    simp [Nat.not_lt.mpr hcount]
  refine runs_of_done (congrArg done (htype ▸ State.takeControl_of_done hin hruns hkeeps)) ?_
  rw [State.closed_link, State.closed_assocs, State.modSes_assocs, State.acceptControl_assocs, State.taken_assocs,
    State.modSes_link, State.acceptControl_link, State.taken_link, State.taken_tick]
  exact ⟨rfl, rfl, rfl⟩

/-- What an ABORT received tells before its session ends (R264, R283). -/
def State.abortHeard (s : State) (k r : Nat) : State :=
  ((s.modLink k (fun l => { l with lastReason := r })).count .kdl 0 11).kdlEvent F.kdlEvtAbortRcvd k r

theorem State.abortHeard_keeps {r : Nat} : Keeps (mask [.rep, .kindle]) s (s.abortHeard k r) :=
  State.kdlEvent_keeps.step (by rfl) ((Keeps.count ..).step (by rfl) (State.modLink_keeps.mono (by rfl)))

theorem State.abortHeard_link (r : Nat) : (s.abortHeard k r).link k = { s.link k with lastReason := r } := by
  rw [State.abortHeard, State.kdlEvent_link, State.count_link, State.modLink_link_self]

theorem abort_ends (hin : (s.link k).inbox = m :: rest) (hruns : s.kdlRuns = true) (htype : byteAt m 0 = 9)
    (hlive : x.st = .live) (hok : s.genuine k m rest 104 x true) :
    Runs (.abort k) s (fun t => (t.link k).cur = none ∧ (t.link k).par = none ∧ (t.link k).lastReason = byteAt m 32 ∧
      (t.link k).holdUntil = some (s.tick + s.holdoffTicks (s.link k).holdK) ∧ t.evt F.kdlEvtAbortRcvd = 1 ∧
      t.assocs = s.assocs) := by
  have hends : (s.taken k rest).onAbort k m = ((s.taken k rest).abortHeard k (byteAt m 32)).endLive k 4 (fun s => s) := by
    rw [State.onAbort, State.genuine_checks hok]
    simp [hlive, Session.inHandshake, onlyIf, State.abortHeard]
  refine runs_of_done (congrArg done (htype ▸ State.takeControl_of_done hin hruns hends)) ?_
  have hheard : Keeps (mask [.rep, .kindle]) s ((s.taken k rest).abortHeard k (byteAt m 32)) :=
    Keeps.trans (State.modLink_keeps.mono (by rfl)) State.abortHeard_keeps
  have htick : ((s.taken k rest).abortHeard k (byteAt m 32)).tick = s.tick := hheard.frame .tick (by decide)
  have hlink := State.abortHeard_link (s := s.taken k rest) (k := k) (byteAt m 32)
  have hevt : ((s.taken k rest).abortHeard k (byteAt m 32)).evt F.kdlEvtAbortRcvd = 1 := State.kdlEvent_evt _ (by decide) rfl
  generalize (s.taken k rest).abortHeard k (byteAt m 32) = v at hheard htick hlink hevt
  obtain ⟨hcur, hpar, hreason, hhold, hkeeps⟩ := State.endLive_ends (s := v) (k := k) 4
  rw [State.closed_link, State.closed_assocs, State.closed_evt _ _ _ (by decide)]
  refine ⟨hcur, hpar, hreason.trans (by rw [hlink]), hhold.trans ?_, ?_, ?_⟩
  · rw [hlink, htick, State.regsBut_holdoffTicks (hheard.regsBut (by simp)), State.taken_link]
  · rw [State.evt, hkeeps.frame .rep (by decide)]
    exact hevt
  · rw [hkeeps.frame .assocs (by decide), hheard.frame .assocs (by decide)]

/-- Settles O43: each control message by what it leaves of its link, once it is taken from the inbox and passes the checks. -/
theorem controlMessages : Obligations.ControlMessages := by
  unfold Obligations.ControlMessages
  intro s k m rest x hin hlive hruns
  exact ⟨rollPropose_follows hin hruns, fun r => rollReady_schedules hin hruns, fun r => rollDone_completes hin hruns,
    rekeyRequest_answers hin hruns, rekeyResponse_adopts hin hruns, keepalive_counts hin hruns,
    fun htype hok => abort_ends hin hruns htype hlive hok⟩

end Sys2Proof.Machine
end

section
/-! SUPPORT. A scope of external memory is poisoned (R380, R381): what its consumers do tells nothing but what the link engine
tells, and the entry that it leaves covers its lines. -/

namespace Sys2Proof.Machine

open Sys2Proof

variable {s t u : State} {k r i : Nat}

/-! ### Reports of the link engine -/

/-- From `s` to `t` no event register but those of KDL has changed. -/
structure OnlyKdlTells (s t : State) : Prop where
  evtWord : ∀ key : RegKey, key.page ≠ .kdl → t.evtWord key = s.evtWord key

theorem OnlyKdlTells.refl (s : State) : OnlyKdlTells s s := ⟨fun _ _ => rfl⟩

theorem OnlyKdlTells.trans (h : OnlyKdlTells s t) (h' : OnlyKdlTells t u) : OnlyKdlTells s u :=
  ⟨fun key hk => (h'.evtWord key hk).trans (h.evtWord key hk)⟩

theorem OnlyKdlTells.of_rep (h : t.rep = s.rep) : OnlyKdlTells s t :=
  ⟨fun key _ => congrArg (fun rep : Report => mget 0 rep.evt key) h⟩

theorem OnlyKdlTells.evt (h : OnlyKdlTells s t) {f : Fld} {j : Nat} (hf : f.page ≠ .kdl) : t.evt f j = s.evt f j :=
  State.evt_of_evtWord (h.evtWord _ hf)

theorem OnlyKdlTells.onlyIf {c : Bool} {f : State → State} (h : ∀ s, OnlyKdlTells s (f s)) (s : State) :
    OnlyKdlTells s (onlyIf c f s) := by
  unfold Sys2Proof.onlyIf
  split
  · exact h s
  · exact .refl s

theorem OnlyKdlTells.forL {α : Type} {f : α → State → State} (h : ∀ a s, OnlyKdlTells s (f a s)) (l : List α) (s : State) :
    OnlyKdlTells s (forL l f s) := by
  induction l generalizing s with
  | nil => exact .refl s
  | cons a l ih => exact (h a s).trans (ih (f a s))

theorem OnlyKdlTells.forN {f : Nat → State → State} (h : ∀ n s, OnlyKdlTells s (f n s)) (n : Nat) (s : State) :
    OnlyKdlTells s (forN n f s) := by
  induction n with
  | zero => exact .refl s
  | succ n ih => exact forN_succ n f s ▸ ih.trans (h n _)

theorem OnlyKdlTells.count (p : Page) (j sel n : Nat) (s : State) : OnlyKdlTells s (s.count p j sel n) :=
  ⟨fun key _ => State.count_evtWord p j sel n key⟩

theorem OnlyKdlTells.kdlEvent {f : Fld} (hf : f.page = .kdl) (reason : Nat) (s : State) : OnlyKdlTells s (s.kdlEvent f k reason) := by
  refine ⟨fun key hk => ?_⟩
  have hapart {g : Fld} {j : Nat} (hg : g.page = .kdl) : key ≠ keyOf g j := fun h => hk (by rw [h]; exact hg)
  rw [State.kdlEvent, State.event_evtWord, State.wrEvt_evtWord_ne (hapart hf), State.wrEvt_evtWord_ne (hapart rfl),
    State.wrEvt_evtWord_ne (hapart rfl), State.wrEvt_evtWord_ne (hapart rfl)]

theorem OnlyKdlTells.modLink (f : Link → Link) (s : State) : OnlyKdlTells s (s.modLink k f) := .of_rep rfl

theorem OnlyKdlTells.schedule (due : Nat) (act : Act) (s : State) : OnlyKdlTells s (s.schedule due act) := .of_rep rfl

theorem OnlyKdlTells.modRegion (f : Region → Region) (s : State) : OnlyKdlTells s (s.modRegion r f) := .of_rep rfl

theorem OnlyKdlTells.macSend (p : Nat) (bs : List Byte) (bad : Bool) (s : State) : OnlyKdlTells s (s.macSend p bs bad) :=
  ((OnlyKdlTells.count .prt p 3 1 s).trans (.count .prt p 4 bs.length _)).trans (.of_rep rfl)

theorem OnlyKdlTells.sendFragment (frag : List Byte) (s : State) : OnlyKdlTells s (s.sendFragment k frag) := by
  rw [State.sendFragment]
  dsimp only
  split
  · split
    · exact .refl s
    · exact .of_rep rfl
  · exact .onlyIf (fun s => .macSend _ _ _ s) s

theorem OnlyKdlTells.abortLeaves (m : List Byte) (s : State) : OnlyKdlTells s (s.abortLeaves k m) := by
  have htold : OnlyKdlTells s ((s.modLink k (fun l => { l with lastReason := byteAt m 32 })).count .kdl 0 10) :=
    (OnlyKdlTells.modLink _ s).trans (.count ..)
  exact htold.trans (.kdlEvent rfl _ _)

theorem OnlyKdlTells.sendIndex (n : Nat) (s : State) : OnlyKdlTells s (s.sendIndex k n) := by
  cases hm : (s.link k).outQ.head? with
  | none =>
    rw [State.sendIndex]
    simp only [hm]
    exact .refl s
  | some m =>
    cases hf : (s.link k).frags[n]? with
    | none =>
      rw [State.sendIndex]
      simp only [hm, hf]
      exact .refl s
    | some f =>
      have hleaves : OnlyKdlTells s (s.fragLeaves k n m f) := (OnlyKdlTells.sendFragment _ s).trans (.count ..)
      rw [State.sendIndex_of_some hm hf]
      exact (hleaves.trans (.modLink _ _)).trans (.onlyIf (fun s => .abortLeaves m.bytes s) _)

theorem OnlyKdlTells.sendNext (n : Nat) (s : State) : OnlyKdlTells s (State.sendNext k n s) := by
  rw [State.sendNext]
  split
  · split
    · exact .sendIndex n s
    · exact .refl s
  · exact .refl s

theorem OnlyKdlTells.beginMsg (s : State) : OnlyKdlTells s (s.beginMsg k) := by
  rw [State.beginMsg]
  split
  · split
    · exact (OnlyKdlTells.modLink _ s).trans (.count ..)
    · exact .refl s
  · exact .refl s

theorem OnlyKdlTells.pump (s : State) : OnlyKdlTells s (s.pump k) := by
  rw [State.pump_eq]
  split
  · exact .refl s
  · exact (OnlyKdlTells.beginMsg s).trans (.forN .sendNext 35 _)

theorem OnlyKdlTells.sendAbort (x : Session) (reason : Nat) (s : State) : OnlyKdlTells s (s.sendAbort k x reason) := by
  have htold : OnlyKdlTells s (s.abortTold k reason) :=
    (OnlyKdlTells.onlyIf (fun s => .kdlEvent rfl _ s) s).trans (.onlyIf (fun s => .kdlEvent rfl _ s) _)
  rw [State.sendAbort_eq, State.queueMsg]
  exact (htold.trans (.modLink _ _)).trans (.pump _)

theorem OnlyKdlTells.abandonContext (c : Nat) (s : State) : OnlyKdlTells s (s.abandonContext c) := by
  rw [State.abandonContext]
  refine .forL (fun k s => .forL (fun par s => ?_) _ s) _ s
  split
  · dsimp only
    split
    · have hclosed : OnlyKdlTells s (s.closeSession k par) := .of_rep (State.closeSession_keeps.frame .rep (by decide))
      exact (hclosed.trans (.sendAbort _ _ _)).trans (.onlyIf (fun s => .modLink _ s) _)
    · exact .refl s
  · exact .refl s

theorem OnlyKdlTells.poisonConsumers (queues contexts : List Nat) (s : State) :
    OnlyKdlTells s (s.poisonConsumers r queues contexts) := by
  rw [State.poisonConsumers]
  exact (OnlyKdlTells.onlyIf (fun s => .forL (fun q s => .onlyIf (fun s => .schedule _ _ s) s) _ s) s).trans
    (.onlyIf (fun s => .forL (fun c s => .abandonContext c s) _ s) _)

theorem OnlyKdlTells.poisonWhole (s : State) : OnlyKdlTells s (s.poisonWhole r) := by
  rw [State.poisonWhole]
  exact (OnlyKdlTells.modRegion _ s).trans (.poisonConsumers _ _ _)

/-! ### The entry of a poisoned scope -/

/-- What poisoning tells (R380, R384). -/
def State.poisonTold (s : State) (r : Nat) : State := (s.count .cxm 0 12).cxmEvent F.cxmEvtPoisoned r

theorem State.poisonTold_regsBut : s.regsBut (s.poisonTold r) [] :=
  Keeps.regsBut (State.cxmEvent_keeps.step (by rfl) (Keeps.count ..)) (by simp)

theorem State.poisonTold_regions : (s.poisonTold r).regions = s.regions := by
  rw [State.poisonTold, State.cxmEvent_keeps.frame .regions (by decide), State.count_regions]

/-- A CXM event shows in its register (R384). -/
theorem State.cxmEvent_evt {f : Fld} (hfits : f.fits = true) (hw : f.w = 1) : (s.cxmEvent f r).evt f = 1 :=
  State.event_evt_self _ 0 hfits hw

/-- A CXM event leaves the fields of the event registers that share no bit with it or with CXM_LAST. -/
theorem State.cxmEvent_evt_apart {f g : Fld} (hfits : f.fits = true) (hf : Fld.apart f g = true)
    (hlast : keyOf g ≠ keyOf F.cxmLastRegion) : (s.cxmEvent f r).evt g = s.evt g := by
  rw [State.cxmEvent, State.evt_of_evtWord (State.event_evtWord f 0 _), State.wrEvt_evt_apart _ _ _ hfits hf,
    State.wrEvt_evt_ne (f := F.cxmLastBit) hlast, State.wrEvt_evt_ne hlast]

/-- Entry `e` names a scope. -/
def State.poisonEntry (s : State) (e r scope level index : Nat) : State :=
  (s.setWord (keyOf (F.cxmPoison0Valid.at e 8))
    (BitVec.ofNat 32 (1 + 2 * r + 32 * scope + 128 * level + 1024 * (index / 2 ^ 32 % 2)))).setWord
    (keyOf (F.cxmPoison1Index.at e 8)) (BitVec.ofNat 32 index)

theorem State.poison_eq (scope level index : Nat) (queues contexts : List Nat) :
    s.poison r scope level index queues contexts =
      match (List.range 64).find? (fun e => !(s.poisonTold r).on (F.cxmPoison0Valid.at e 8)) with
      | none => (s.poisonTold r).poisonWhole r
      | some e => if scope = 3 then ((s.poisonTold r).poisonEntry e r scope level index).poisonWhole r
        else ((s.poisonTold r).poisonEntry e r scope level index).poisonConsumers r queues contexts := rfl

theorem poisonIndex_ne_valid (e : Nat) : keyOf (F.cxmPoison0Valid.at e 8) ≠ keyOf (F.cxmPoison1Index.at e 8) := by
  simp [keyOf, Fld.at, F.cxmPoison0Valid, F.cxmPoison1Index]

theorem State.poisonEntry_word0 (e scope level index : Nat) :
    (s.poisonEntry e r scope level index).word (keyOf (F.cxmPoison0Valid.at e 8)) =
      BitVec.ofNat 32 (1 + 2 * r + 32 * scope + 128 * level + 1024 * (index / 2 ^ 32 % 2)) := by
  rw [State.poisonEntry, State.word_setWord_ne _ _ (poisonIndex_ne_valid e), State.word_setWord_self]

theorem State.poisonEntry_word1 (e scope level index : Nat) :
    (s.poisonEntry e r scope level index).word (keyOf (F.cxmPoison1Index.at e 8)) = BitVec.ofNat 32 index := by
  rw [State.poisonEntry, State.word_setWord_self]

/-- The entry of a poisoned data line, or of the tag line that holds its tag, covers the line. -/
theorem State.poisonEntry_covers {e scope index : Nat} (hr : r < 16) (hindex : index < 2 ^ 33)
    (hscope : scope = 0 ∧ index = i ∨ scope = 1 ∧ index = i / 8) :
    (s.poisonEntry e r scope 0 index).entryCovers e r i = true := by
  have hhi : index / 2 ^ 32 < 2 := by omega
  have hlt : scope < 2 := by omega
  have hvalid : (s.poisonEntry e r scope 0 index).rd (F.cxmPoison0Valid.at e 8) = 1 := by
    show getF ((s.poisonEntry e r scope 0 index).word (keyOf (F.cxmPoison0Valid.at e 8))) 0 1 = 1
    rw [State.poisonEntry_word0, getF, BitVec.toNat_ofNat, Nat.shiftRight_eq_div_pow]
    omega
  have hregion : (s.poisonEntry e r scope 0 index).rd (F.cxmPoison0Region.at e 8) = r := by
    show getF ((s.poisonEntry e r scope 0 index).word (keyOf (F.cxmPoison0Valid.at e 8))) 1 4 = r
    rw [State.poisonEntry_word0, getF, BitVec.toNat_ofNat, Nat.shiftRight_eq_div_pow]
    omega
  have hkind : (s.poisonEntry e r scope 0 index).rd (F.cxmPoison0Scope.at e 8) = scope := by
    show getF ((s.poisonEntry e r scope 0 index).word (keyOf (F.cxmPoison0Valid.at e 8))) 5 2 = scope
    rw [State.poisonEntry_word0, getF, BitVec.toNat_ofNat, Nat.shiftRight_eq_div_pow]
    omega
  have htop : (s.poisonEntry e r scope 0 index).rd (F.cxmPoison0IndexHi.at e 8) = index / 2 ^ 32 := by
    show getF ((s.poisonEntry e r scope 0 index).word (keyOf (F.cxmPoison0Valid.at e 8))) 10 1 = index / 2 ^ 32
    rw [State.poisonEntry_word0, getF, BitVec.toNat_ofNat, Nat.shiftRight_eq_div_pow]
    omega
  have hlow : (s.poisonEntry e r scope 0 index).rd (F.cxmPoison1Index.at e 8) = index % 2 ^ 32 := by
    show getF ((s.poisonEntry e r scope 0 index).word (keyOf (F.cxmPoison1Index.at e 8))) 0 32 = index % 2 ^ 32
    rw [State.poisonEntry_word1, getF, BitVec.toNat_ofNat, Nat.shiftRight_zero, Nat.mod_mod]
  have hindex' : index % 2 ^ 32 + 2 ^ 32 * (index / 2 ^ 32) = index := Nat.mod_add_div ..
  rw [State.entryCovers]
  simp only [State.on, hvalid, hregion, hkind, htop, hlow, hindex']
  obtain ⟨rfl, rfl⟩ | ⟨rfl, rfl⟩ := hscope <;> simp

theorem State.poisoned_congr (hregs : s.regsBut t []) (hregion : t.region r = s.region r) : t.poisoned r i = s.poisoned r i := by
  simp only [State.poisoned, State.entryCovers, hregion, State.regsBut_rd hregs, State.regsBut_on hregs]

theorem State.poisonConsumers_regsBut (queues contexts : List Nat) : s.regsBut (s.poisonConsumers r queues contexts) [] :=
  State.poisonConsumers_keeps.regsBut (by simp)

theorem State.poisonConsumers_regions (queues contexts : List Nat) : (s.poisonConsumers r queues contexts).regions = s.regions :=
  State.poisonConsumers_keeps.frame .regions (by decide)

/-- A region poisoned whole shows it; the others are as they were. -/
theorem State.poisonWhole_region_self : ((s.poisonWhole r).region r) = { s.region r with state := 3 } := by
  rw [State.poisonWhole, State.region, State.poisonConsumers_regions]
  exact State.modRegion_region_self ..

theorem State.poisonWhole_region_ne {q : Nat} (h : q ≠ r) : (s.poisonWhole r).region q = s.region q := by
  rw [State.poisonWhole, State.region, State.poisonConsumers_regions]
  exact State.modRegion_region_ne _ _ h

theorem State.poisonWhole_poisoned : (s.poisonWhole r).poisoned r i = true := by
  simp [State.poisoned, State.poisonWhole_region_self]

/-- Poisoning a data line, or the tag line that holds its tag, poisons the line. -/
theorem State.poison_poisoned {scope index : Nat} (queues contexts : List Nat) (hr : r < 16) (hindex : index < 2 ^ 33)
    (hscope : scope = 0 ∧ index = i ∨ scope = 1 ∧ index = i / 8) :
    (s.poison r scope 0 index queues contexts).poisoned r i = true := by
  have hne : scope ≠ 3 := by omega
  rw [State.poison_eq]
  split
  · exact State.poisonWhole_poisoned
  · next e he =>
    rw [if_neg hne, State.poisoned_congr (State.poisonConsumers_regsBut _ _) (by rw [State.region, State.region, State.poisonConsumers_regions]),
      State.poisoned, Bool.or_eq_true, List.any_eq_true]
    exact .inr ⟨e, List.mem_of_find?_eq_some he, State.poisonEntry_covers hr hindex hscope⟩

/-- What poisoning tells shows in CXM_EVT; of the other CXM events it changes none. -/
theorem State.poison_tells (scope level index : Nat) (queues contexts : List Nat) :
    OnlyKdlTells (s.poisonTold r) (s.poison r scope level index queues contexts) := by
  rw [State.poison_eq]
  split
  · exact .poisonWhole _
  · next e _ =>
    have hentry : OnlyKdlTells (s.poisonTold r) ((s.poisonTold r).poisonEntry e r scope level index) := .of_rep rfl
    split
    · exact hentry.trans (.poisonWhole _)
    · exact hentry.trans (.poisonConsumers _ _ _)

theorem State.poison_evt (scope level index : Nat) (queues contexts : List Nat) :
    (s.poison r scope level index queues contexts).evt F.cxmEvtPoisoned = 1 :=
  ((State.poison_tells ..).evt (by decide)).trans (State.cxmEvent_evt (by decide) rfl)

theorem State.poison_evt_apart {g : Fld} (scope level index : Nat) (queues contexts : List Nat) (hpage : g.page ≠ .kdl)
    (hf : Fld.apart F.cxmEvtPoisoned g = true) (hlast : keyOf g ≠ keyOf F.cxmLastRegion) :
    (s.poison r scope level index queues contexts).evt g = s.evt g := by
  rw [(State.poison_tells ..).evt hpage, State.poisonTold, State.cxmEvent_evt_apart (by decide) hf hlast,
    State.evt_of_evtWord (State.count_evtWord ..)]

end Sys2Proof.Machine
end

section
/-! PROOF. Lines of external memory are read (R374, R375, R380). -/

namespace Sys2Proof.Machine

open Sys2Proof

variable {s t u : State} {r : RegionNo} {line : Nat} {inp : LineIn} {o : Out}

/-! ### What leaves -/

/-- What leaves last is among what has left since. -/
theorem mem_drop_of_emit (h : s.out <+: t.out) : o ∈ (t.emit o).closed.out.drop s.out.length := by
  obtain ⟨b, hb⟩ : (t.out ++ [o]) <+: (t.emit o).closed.out := State.closed_out (t.emit o)
  obtain ⟨a, ha⟩ := h
  rw [← hb, ← ha]
  simp

/-! ### Scrambled regions (R375) -/

theorem exec_sealedLineRead_poisoned (hstate : 2 ≤ (s.region r).state) (hline : line < s.linesOf r)
    (h : s.poisoned r line = true) : exec (.sealedLineRead r line inp) s = done (s.emit (.line r line none)) := by
  show execSealedLineRead r line inp s = _
  rw [execSealedLineRead, if_neg (Nat.not_lt.mpr hstate), if_neg (Nat.not_le.mpr hline), if_pos h, if_pos h, ite_self]

theorem exec_sealedLineRead_scrambled (hstate : 2 ≤ (s.region r).state) (hline : line < s.linesOf r)
    (h : s.poisoned r line = false) (hkind : s.scrambled r = true) :
    exec (.sealedLineRead r line inp) s = done (s.readScrambled r line inp) := by
  show execSealedLineRead r line inp s = _
  rw [execSealedLineRead, if_neg (Nat.not_lt.mpr hstate), if_neg (Nat.not_le.mpr hline), if_pos hkind, if_neg (by simp [h])]

theorem exec_sealedLineRead_leaf (hstate : 2 ≤ (s.region r).state) (hline : line < s.linesOf r)
    (h : s.poisoned r line = false) (hkind : s.scrambled r = false) (hleaf : s.getLeaf r line inp = (u, true)) :
    exec (.sealedLineRead r line inp) s = done (u.readLine r line inp) := by
  show execSealedLineRead r line inp s = _
  rw [execSealedLineRead, if_neg (Nat.not_lt.mpr hstate), if_neg (Nat.not_le.mpr hline), if_neg (by simp [hkind]),
    if_neg (by simp [h]), hleaf]
  simp only [↓reduceIte]

/-- A line of a poisoned scope reads as poison. -/
theorem sealedLineRead_poisoned (hstate : 2 ≤ (s.region r).state) (hline : line < s.linesOf r) (h : s.poisoned r line = true) :
    Runs (.sealedLineRead r line inp) s (fun t => s.sends t (.line r line none) ∧ t.regions = s.regions ∧ s.regsBut t []) := by
  exact runs_of_done (exec_sealedLineRead_poisoned hstate hline h) ⟨State.sends_emit _ rfl,
    by rw [State.closed_regions, State.emit_regions], State.closed_regsBut (State.emit_regsBut _ (State.regsBut_refl _ _))⟩

/-- What external memory answers for a line of a scrambled region, unmixed. -/
theorem runs_of_scrambled {a : Option (List Byte)} (hexec : exec (.sealedLineRead r line inp) s = done (t.emit (.line r line a)))
    (hout : t.out = s.out) (hregions : t.regions = s.regions) :
    Runs (.sealedLineRead r line inp) s (fun t => t.regions = s.regions ∧ s.sends t (.line r line a)) :=
  runs_of_done hexec ⟨by rw [State.closed_regions, State.emit_regions, hregions], State.sends_emit _ hout⟩

theorem State.readScrambled_poison (h : inp.data = .poison) :
    s.readScrambled r line inp = (s.count .cxm 0 3).emit (.line r line none) := by
  rw [State.readScrambled, h]

theorem State.readScrambled_other {bs : List Byte} (h : inp.data = .other bs) : s.readScrambled r line inp =
    (s.count .cxm 0 3).emit (.line r line (some (Config.unmix (s.region r).kEnc line (slice bs 0 64)))) := by
  rw [State.readScrambled, h]
  simp only [State.count_region]

theorem State.readScrambled_written {e : Nat × List Byte × List Byte} (h : inp.data = .asWritten)
    (he : (s.region r).lines.find? (fun e => e.1 = line) = some e) : s.readScrambled r line inp =
    (s.count .cxm 0 3).emit (.line r line (some (Config.unmix (s.region r).kEnc line e.2.1))) := by
  rw [State.readScrambled, h]
  simp only [State.rawLine, State.count_region, he]

theorem State.readScrambled_unwritten (h : inp.data = .asWritten)
    (he : (s.region r).lines.find? (fun e => e.1 = line) = none) : s.readScrambled r line inp =
    ((s.count .cxm 0 3).burn).emit (.line r line (some (Config.unmix (s.region r).kEnc line (beBytes 64 (s.free 512).toNat)))) := by
  rw [State.readScrambled, h]
  simp only [State.rawLine, State.count_region, he, State.free, State.count_fresh]

/-! ### Sealed regions (R374, R380) -/

/-- A line that was never written reads as zeros. -/
theorem State.readLine_unwritten (h : (u.region r).ctr 0 line = 0) :
    u.readLine r line inp = (u.count .cxm 0 1).emit (.line r line (some (List.replicate 64 0))) := by
  rw [State.readLine]
  exact if_pos h

/-- A scope of a line is poisoned by its read, which answers poison. -/
def State.readPoisons (s : State) (r line : Nat) (inp : LineIn) (scope index : Nat) : State :=
  (s.poison r scope 0 index (inp.queues.map (·.val)) (inp.contexts.map (·.val))).emit (.line r line none)

theorem State.readLine_poisonData (h : (u.region r).ctr 0 line ≠ 0) (hdata : inp.data = .poison) :
    u.readLine r line inp = (u.count .cxm 0 1).readPoisons r line inp 0 line := by
  rw [State.readLine]
  exact (if_neg h).trans (if_pos hdata)

theorem State.readLine_poisonTag (h : (u.region r).ctr 0 line ≠ 0) (hdata : inp.data ≠ .poison) (htag : inp.tag = .poison) :
    u.readLine r line inp = (u.count .cxm 0 1).readPoisons r line inp 1 (line / 8) := by
  rw [State.readLine]
  exact (if_neg h).trans ((if_neg hdata).trans (if_pos htag))

/-- The nonce under which a line was written, and whether its tag holds. -/
def State.lineHolds (u : State) (r line : Nat) (inp : LineIn) : Prop :=
  (u.lineAsRead r line inp).2 = lineTag ((u.region r).keys ((u.region r).lineNew line)).2
    (lineNonce false r line ((u.region r).ctr 0 line)) (u.lineAsRead r line inp).1

theorem State.readLine_holds (h : (u.region r).ctr 0 line ≠ 0) (hdata : inp.data ≠ .poison) (htag : inp.tag ≠ .poison)
    (hholds : u.lineHolds r line inp) : u.readLine r line inp =
      (u.count .cxm 0 1).emit (.line r line (some (lineCrypt ((u.region r).keys ((u.region r).lineNew line)).1
        (lineNonce false r line ((u.region r).ctr 0 line)) (u.lineAsRead r line inp).1))) := by
  rw [State.readLine]
  exact (if_neg h).trans ((if_neg hdata).trans ((if_neg htag).trans (if_neg (not_not_intro hholds))))

theorem State.readLine_forged (h : (u.region r).ctr 0 line ≠ 0) (hdata : inp.data ≠ .poison) (htag : inp.tag ≠ .poison)
    (hforged : ¬ u.lineHolds r line inp) : u.readLine r line inp =
      ((u.count .cxm 0 1).integrity r).readPoisons r line inp 0 line := by
  rw [State.readLine]
  exact (if_neg h).trans ((if_neg hdata).trans ((if_neg htag).trans (if_pos hforged)))

/-- Every index of a line is of 33 bits (R371). -/
theorem State.line_lt (h : line < s.linesOf r) : line < 2 ^ 33 := by
  have hsize : s.rd F.cxmRcfgSize 0 r < 2 ^ 11 := getF_lt_two_pow ..
  rw [State.linesOf, dataLines] at h
  omega

/-- What a read that poisons leaves. -/
theorem readPoisons_poisons {scope index : Nat} (hline : line < 2 ^ 33) (hout : u.out <+: s.out)
    (hscope : scope = 0 ∧ index = line ∨ scope = 1 ∧ index = line / 8) :
    .line r line none ∈ (s.readPoisons r line inp scope index).closed.out.drop u.out.length ∧
      (s.readPoisons r line inp scope index).closed.evt F.cxmEvtPoisoned = 1 ∧
      (s.readPoisons r line inp scope index).closed.poisoned r line = true := by
  have hkeeps : s.out <+: (s.poison r scope 0 index (inp.queues.map (·.val)) (inp.contexts.map (·.val))).out :=
    State.poison_keeps.out
  refine ⟨mem_drop_of_emit (hout.trans hkeeps), ?_, ?_⟩
  · rw [State.closed_evt _ _ _ (by decide), State.readPoisons, State.emit_evt, State.poison_evt]
  · rw [State.poisoned_congr (State.closed_regsBut (State.regsBut_refl _ _)) (State.closed_region _ _), State.readPoisons,
      State.poisoned_congr (State.emit_regsBut _ (State.regsBut_refl _ _)) (State.emit_region _ _ _)]
    exact State.poison_poisoned _ _ r.isLt (by omega) hscope

theorem State.integrity_evt : (s.integrity r).evt F.cxmEvtIntegrity = 1 := by
  rw [State.integrity, State.tamperFire_evt (by decide) (by decide)]
  exact State.cxmEvent_evt (by decide) rfl

theorem sealedLineRead_leaf (hstate : 2 ≤ (s.region r).state) (hline : line < s.linesOf r)
    (h : s.poisoned r line = false) (hkind : s.scrambled r = false) (hleaf : s.getLeaf r line inp = (u, true)) :
    ((u.region r).ctr 0 line = 0 → Runs (.sealedLineRead r line inp) s (fun t =>
      u.sends t (.line r line (some (List.replicate 64 0))) ∧ t.regions = u.regions)) ∧
    ((u.region r).ctr 0 line ≠ 0 → inp.data ≠ .poison → inp.tag ≠ .poison →
      Runs (.sealedLineRead r line inp) s (fun t =>
        (u.lineHolds r line inp → u.sends t (.line r line (some (lineCrypt ((u.region r).keys ((u.region r).lineNew line)).1
          (lineNonce false r line ((u.region r).ctr 0 line)) (u.lineAsRead r line inp).1))) ∧ t.regions = u.regions) ∧
        (¬ u.lineHolds r line inp → .line r line none ∈ t.out.drop u.out.length ∧ t.evt F.cxmEvtIntegrity = 1 ∧
          t.evt F.cxmEvtPoisoned = 1 ∧ t.poisoned r line = true))) ∧
    ((u.region r).ctr 0 line ≠ 0 → (inp.data = .poison ∨ inp.tag = .poison) →
      Runs (.sealedLineRead r line inp) s (fun t => .line r line none ∈ t.out.drop u.out.length ∧
        t.evt F.cxmEvtPoisoned = 1 ∧ t.poisoned r line = true)) := by
  have hexec := exec_sealedLineRead_leaf hstate hline h hkind hleaf
  have hlt := State.line_lt hline
  have hout : u.out <+: (u.count .cxm 0 1).out := by rw [State.count_out]
  refine ⟨fun hzero => ?_, fun hne hdata htag => ?_, fun hne hpoison => ?_⟩
  · rw [State.readLine_unwritten hzero] at hexec
    exact runs_of_done hexec ⟨State.sends_emit _ (State.count_out ..),
      by rw [State.closed_regions, State.emit_regions, State.count_regions]⟩
  · by_cases hholds : u.lineHolds r line inp
    · rw [State.readLine_holds hne hdata htag hholds] at hexec
      exact runs_of_done hexec ⟨fun _ => ⟨State.sends_emit _ (State.count_out ..),
        by rw [State.closed_regions, State.emit_regions, State.count_regions]⟩, fun hforged => absurd hholds hforged⟩
    · rw [State.readLine_forged hne hdata htag hholds] at hexec
      have hkeeps : (u.count .cxm 0 1).out <+: ((u.count .cxm 0 1).integrity r).out := State.integrity_keeps.out
      obtain ⟨hleft, htold, hpoisoned⟩ := readPoisons_poisons (s := (u.count .cxm 0 1).integrity r) (inp := inp) (r := r) hlt
        (hout.trans hkeeps) (.inl ⟨rfl, rfl⟩)
      refine runs_of_done hexec ⟨fun h => absurd h hholds, fun _ => ⟨hleft, ?_, htold, hpoisoned⟩⟩
      rw [State.closed_evt _ _ _ (by decide), State.readPoisons, State.emit_evt,
        State.poison_evt_apart _ _ _ _ _ (by decide) (by decide) (by decide), State.integrity_evt]
  · by_cases hdata : inp.data = .poison
    · rw [State.readLine_poisonData hne hdata] at hexec
      exact runs_of_done hexec (readPoisons_poisons hlt hout (.inl ⟨rfl, rfl⟩))
    · rw [State.readLine_poisonTag hne hdata (hpoison.resolve_left hdata)] at hexec
      exact runs_of_done hexec (readPoisons_poisons hlt hout (.inr ⟨rfl, rfl⟩))

/-! ### Lines that do not exist -/

theorem sealedLine_beyond (user : Fin 5) (data : List Byte) :
    ∀ c ∈ [Instr.sealedLineRead r line inp, .sealedLineWrite r line user data inp],
      (2 ≤ (s.region r).state → s.linesOf r ≤ line → exec c s = .fault .noSuchLine) ∧
      ((s.region r).state < 2 → Runs c s (fun t => t.regions = s.regions ∧ s.regsBut t [])) := by
  intro c hc
  have hunchanged {c : Instr} (h : exec c s = done s) : Runs c s (fun t => t.regions = s.regions ∧ s.regsBut t []) :=
    runs_of_done h ⟨State.closed_regions s, State.closed_regsBut (State.regsBut_refl _ _)⟩
  simp only [List.mem_cons, List.not_mem_nil, or_false] at hc
  obtain rfl | rfl := hc
  · refine ⟨fun hstate hline => ?_, fun hstate => hunchanged ?_⟩
    · show execSealedLineRead r line inp s = _
      rw [execSealedLineRead, if_neg (by omega), if_pos hline]
    · show execSealedLineRead r line inp s = _
      rw [execSealedLineRead, if_pos hstate]
  · refine ⟨fun hstate hline => ?_, fun hstate => hunchanged ?_⟩
    · exact (if_neg (by omega)).trans (if_pos hline)
    · exact if_pos hstate

/-- Settles O49: a read by what lies at the line, whether its region is sealed, and whether what external memory answers holds. -/
theorem sealedLinesAreRead : Obligations.SealedLinesAreRead := by
  unfold Obligations.SealedLinesAreRead
  refine ⟨fun s r line inp hstate hline => ⟨sealedLineRead_poisoned hstate hline, fun h hkind => ?scrambled,
    fun h hkind u hleaf x c n keys a hx hc hn hkeys ha => ?sealed⟩, fun s r line user data inp => sealedLine_beyond user data⟩
  case scrambled =>
    have hexec := exec_sealedLineRead_scrambled (inp := inp) hstate hline h hkind
    refine ⟨fun hdata => ?_, fun bs hdata => ?_, fun e hdata he => ?_, fun hdata he => ?_⟩
    · rw [State.readScrambled_poison hdata] at hexec
      exact runs_of_done hexec ⟨State.sends_emit _ (State.count_out ..),
        by rw [State.closed_regions, State.emit_regions, State.count_regions]⟩
    · exact runs_of_scrambled (hexec.trans (by rw [State.readScrambled_other hdata])) (State.count_out ..) (State.count_regions ..)
    · exact runs_of_scrambled (hexec.trans (by rw [State.readScrambled_written hdata he])) (State.count_out ..) (State.count_regions ..)
    · rw [State.readScrambled_unwritten hdata he] at hexec
      exact runs_of_done hexec ⟨by rw [State.closed_regions, State.emit_regions, State.burn_regions, State.count_regions],
        by rw [State.closed_fresh, State.emit_fresh, State.burn, State.count_fresh],
        State.sends_emit _ (by rw [State.burn_out, State.count_out])⟩
  case sealed =>
    subst hx hc hn hkeys ha
    exact sealedLineRead_leaf hstate hline h hkind hleaf

end Sys2Proof.Machine
end

section
/-! PROOF. Lines of external memory are written (R374, R375, R380). -/

namespace Sys2Proof.Machine

open Sys2Proof

variable {s t u v : State} {r : RegionNo} {line : Nat} {user : Fin 5} {data : List Byte} {inp : LineIn}

/-- What follows a write of a consumer: the deep log goes on with its next record (R466). -/
def State.afterWrite (s : State) (user : Fin 5) (stored : Bool) : State :=
  onlyIf (decide (user.val = 3)) (fun s => s.deepNext stored) s

theorem State.afterWrite_keeps (stored : Bool) : Keeps (mask [.rep]) s (s.afterWrite user stored) :=
  Keeps.onlyIf (fun _ => State.deepNext_keeps) (Keeps.refl s)

theorem State.afterWrite_regions (stored : Bool) : (s.afterWrite user stored).regions = s.regions :=
  (State.afterWrite_keeps stored).frame .regions (by decide)

/-! ### The command by what it meets -/

theorem exec_sealedLineWrite_unserved (hstate : 2 ≤ (s.region r).state) (hline : line < s.linesOf r)
    (h : s.lineUser r line user = false) : exec (.sealedLineWrite r line user data inp) s = done s := by
  show execSealedLineWrite r line user data inp s = _
  rw [execSealedLineWrite, if_neg (Nat.not_lt.mpr hstate), if_neg (Nat.not_le.mpr hline), if_pos (by simp [h])]

theorem exec_sealedLineWrite_poisoned (hstate : 2 ≤ (s.region r).state) (hline : line < s.linesOf r)
    (huser : s.lineUser r line user = true) (h : s.poisoned r line = true) :
    exec (.sealedLineWrite r line user data inp) s = done ((s.count .cxm 0 14).afterWrite user false) := by
  show execSealedLineWrite r line user data inp s = _
  rw [execSealedLineWrite, if_neg (Nat.not_lt.mpr hstate), if_neg (Nat.not_le.mpr hline), if_neg (by simp [huser]), if_pos h]
  rfl

/-- A line of a scrambled region as it is written (R375). -/
def State.mixedLine (s : State) (r line : Nat) (ct : List Byte) : State :=
  s.modRegion r (fun x => { x with lines := nset ([], []) x.lines line (ct, []) })

theorem exec_sealedLineWrite_scrambled (hstate : 2 ≤ (s.region r).state) (hline : line < s.linesOf r)
    (huser : s.lineUser r line user = true) (h : s.poisoned r line = false) (hkind : s.scrambled r = true) {ct : List Byte}
    (hct : Config.mix (s.region r).kEnc line (slice (s.lineData user data) 0 64) = ct) :
    exec (.sealedLineWrite r line user data inp) s = done (((s.mixedLine r line ct).count .cxm 0 4).emit (.cxl r 0 line ct)) := by
  show execSealedLineWrite r line user data inp s = _
  rw [execSealedLineWrite, if_neg (Nat.not_lt.mpr hstate), if_neg (Nat.not_le.mpr hline), if_neg (by simp [huser]),
    if_neg (by simp [h]), if_pos hkind, ← hct]
  rfl

theorem exec_sealedLineWrite_leaf (hstate : 2 ≤ (s.region r).state) (hline : line < s.linesOf r)
    (huser : s.lineUser r line user = true) (h : s.poisoned r line = false) (hkind : s.scrambled r = false)
    (hleaf : s.getLeaf r line inp = (u, true)) (hmay : u.mayWrite r line = (v, true)) :
    exec (.sealedLineWrite r line user data inp) s =
      done ((v.writeLine r line (s.lineData user data)).afterWrite user true) := by
  show execSealedLineWrite r line user data inp s = _
  rw [execSealedLineWrite, if_neg (Nat.not_lt.mpr hstate), if_neg (Nat.not_le.mpr hline), if_neg (by simp [huser]),
    if_neg (by simp [h]), if_neg (by simp [hkind]), hleaf]
  simp only [Bool.not_true, Bool.false_eq_true, ↓reduceIte, hmay]
  rfl

/-! ### What a write leaves -/

theorem sealedLineWrite_nothing (hstate : 2 ≤ (s.region r).state) (hline : line < s.linesOf r)
    (h : s.lineUser r line user = false ∨ s.poisoned r line = true) :
    Runs (.sealedLineWrite r line user data inp) s (fun t => t.regions = s.regions) := by
  cases huser : s.lineUser r line user with
  | false => exact runs_of_done (exec_sealedLineWrite_unserved hstate hline huser) (State.closed_regions s)
  | true =>
    have hpoisoned : s.poisoned r line = true := h.resolve_left (by simp [huser])
    exact runs_of_done (exec_sealedLineWrite_poisoned hstate hline huser hpoisoned)
      (by rw [State.closed_regions, State.afterWrite_regions, State.count_regions])

theorem sealedLineWrite_mixes (hstate : 2 ≤ (s.region r).state) (hline : line < s.linesOf r)
    (huser : s.lineUser r line user = true) (h : s.poisoned r line = false) (hkind : s.scrambled r = true) {ct : List Byte}
    (hct : Config.mix (s.region r).kEnc line (slice (s.lineData user data) 0 64) = ct) :
    Runs (.sealedLineWrite r line user data inp) s (fun t => nget ([], []) (t.region r).lines line = (ct, []) ∧
      s.sends t (.cxl r 0 line ct) ∧
      (∀ j, j ≠ line → nget ([], []) (t.region r).lines j = nget ([], []) (s.region r).lines j) ∧
      (∀ q, q ≠ r.val → t.region q = s.region q)) := by
  have hself : (s.mixedLine r line ct).region r = { s.region r with lines := nset ([], []) (s.region r).lines line (ct, []) } :=
    State.modRegion_region_self ..
  have hother {q : Nat} (hq : q ≠ r.val) : (s.mixedLine r line ct).region q = s.region q := State.modRegion_region_ne _ _ hq
  have hout : (s.mixedLine r line ct).out = s.out := rfl
  refine runs_of_done (exec_sealedLineWrite_scrambled hstate hline huser h hkind hct) ⟨?_, ?_, fun j hj => ?_, fun q hq => ?_⟩
  · rw [State.closed_region, State.emit_region, State.count_region, hself]
    exact nget_nset_self ..
  · exact State.sends_emit _ (by rw [State.count_out, hout])
  · rw [State.closed_region, State.emit_region, State.count_region, hself]
    exact nget_nset_ne _ _ _ _ hj
  · rw [State.closed_region, State.emit_region, State.count_region, hother hq]

/-- A line of a sealed region as it is written: its counter has risen to `c`, and its leaf is dirty (R374). -/
def Region.wrote (x : Region) (line c : Nat) (ct tag : List Byte) : Region :=
  { ((x.setCtr 0 line c).setCache 0 (line / 16) 2).written (x.lineNew line) c with
    lines := nset ([], []) x.lines line (ct, tag) }

theorem Region.wrote_ctr_self (x : Region) (line c : Nat) (ct tag : List Byte) : (x.wrote line c ct tag).ctr 0 line = c :=
  nget_nset_self ..

theorem Region.wrote_ctr_ne (x : Region) {line j : Nat} (c : Nat) (ct tag : List Byte) (h : j ≠ line) :
    (x.wrote line c ct tag).ctr 0 j = x.ctr 0 j := nget_nset_ne _ _ _ _ (by simp only [nodeKey]; omega)

theorem Region.wrote_cache (x : Region) (line c : Nat) (ct tag : List Byte) : (x.wrote line c ct tag).cache 0 (line / 16) = 2 :=
  nget_nset_self 0 x.cached (nodeKey 0 (line / 16)) 2

theorem Region.wrote_lines_self (x : Region) (line c : Nat) (ct tag : List Byte) :
    nget ([], []) (x.wrote line c ct tag).lines line = (ct, tag) := nget_nset_self ..

theorem Region.wrote_lines_ne (x : Region) {line j : Nat} (c : Nat) (ct tag : List Byte) (h : j ≠ line) :
    nget ([], []) (x.wrote line c ct tag).lines j = nget ([], []) x.lines j := nget_nset_ne _ _ _ _ h

/-- A line written, as its ciphertext and tag say. -/
theorem State.writeLine_eq {r : Nat} {bytes ct tag : List Byte} {c : Nat} (hc : (s.region r).ctr 0 line + 1 = c)
    (hct : lineCrypt ((s.region r).keys ((s.region r).lineNew line)).1 (lineNonce false r line c) (slice bytes 0 64) = ct)
    (htag : lineTag ((s.region r).keys ((s.region r).lineNew line)).2 (lineNonce false r line c) ct = tag) :
    s.writeLine r line bytes =
      ((s.modRegion r (fun x => x.wrote line c ct tag)).count .cxm 0 2).emit (.cxl r 0 line (ct ++ tag)) := by
  subst hc hct htag
  rfl

theorem sealedLineWrite_seals (hstate : 2 ≤ (s.region r).state) (hline : line < s.linesOf r)
    (huser : s.lineUser r line user = true) (h : s.poisoned r line = false) (hkind : s.scrambled r = false)
    (hleaf : s.getLeaf r line inp = (u, true)) (hmay : u.mayWrite r line = (v, true)) {ct tag : List Byte} {c : Nat}
    (hc : (v.region r).ctr 0 line + 1 = c)
    (hct : lineCrypt ((v.region r).keys ((v.region r).lineNew line)).1 (lineNonce false r line c)
      (slice (s.lineData user data) 0 64) = ct)
    (htag : lineTag ((v.region r).keys ((v.region r).lineNew line)).2 (lineNonce false r line c) ct = tag) :
    Runs (.sealedLineWrite r line user data inp) s (fun t => (t.region r).ctr 0 line = c ∧ (t.region r).cache 0 (line / 16) = 2 ∧
      nget ([], []) (t.region r).lines line = (ct, tag) ∧ v.sends t (.cxl r 0 line (ct ++ tag)) ∧
      (∀ j, j ≠ line → (t.region r).ctr 0 j = (v.region r).ctr 0 j ∧
        nget ([], []) (t.region r).lines j = nget ([], []) (v.region r).lines j)) := by
  have hexec := exec_sealedLineWrite_leaf (data := data) hstate hline huser h hkind hleaf hmay
  rw [State.writeLine_eq hc hct htag] at hexec
  generalize hw : ((v.modRegion r (fun x => x.wrote line c ct tag)).count .cxm 0 2).emit (.cxl r 0 line (ct ++ tag)) = w at hexec
  have hregion : (w.afterWrite user true).closed.region r = (v.region r).wrote line c ct tag := by
    rw [State.closed_region, State.region, State.afterWrite_regions, ← State.region, ← hw, State.emit_region, State.count_region,
      State.modRegion_region_self]
  have hout : w.out = v.out ++ [.cxl r 0 line (ct ++ tag)] := by
    rw [← hw, State.emit, State.count_out, State.modRegion_out]
  have hlater : w.out <+: (w.afterWrite user true).out := (State.afterWrite_keeps true).out
  refine runs_of_done hexec ?_
  rw [hregion]
  refine ⟨Region.wrote_ctr_self .., Region.wrote_cache .., Region.wrote_lines_self .., ?_,
    fun j hj => ⟨Region.wrote_ctr_ne _ _ _ _ hj, Region.wrote_lines_ne _ _ _ _ hj⟩⟩
  rw [State.sends, ← hout]
  exact hlater.trans (State.closed_out _)

/-- Settles O50: a write by whether its line is served, and by the kind of its region. -/
theorem sealedLinesAreWritten : Obligations.SealedLinesAreWritten := by
  unfold Obligations.SealedLinesAreWritten
  intro s r line user data bytes inp hstate hline hbytes
  subst hbytes
  refine ⟨sealedLineWrite_nothing hstate hline, fun huser h hkind => sealedLineWrite_mixes hstate hline huser h hkind rfl,
    fun huser h hkind u v x c n keys ct tag hleaf hmay hx hc hn hkeys hct htag => ?_⟩
  subst hx hn hkeys
  exact sealedLineWrite_seals hstate hline huser h hkind hleaf hmay hc.symm hct.symm htag.symm

end Sys2Proof.Machine
end

section
/-! PROOF. The CXL link (R364 to R366, R380). -/

namespace Sys2Proof.Machine

open Sys2Proof

variable {s t : State} {r q e : Nat} {key : RegKey}

/-! ### Training ends (R364, R365) -/

/-- CXM_LINK once training has ended. -/
def State.linkShows (s : State) (st rate width cap : Nat) : State :=
  (((s.wr F.cxmLinkState st).wr F.cxmLinkRate rate).wr F.cxmLinkWidth width).wr F.cxmLinkCapacityGib cap

theorem State.linkShows_reads {st rate width cap : Nat} (hst : st < 4) (hrate : rate < 4) (hwidth : width < 32) (hcap : cap < 1024) :
    (s.linkShows st rate width cap).rd F.cxmLinkState = st ∧ (s.linkShows st rate width cap).rd F.cxmLinkRate = rate ∧
    (s.linkShows st rate width cap).rd F.cxmLinkWidth = width ∧ (s.linkShows st rate width cap).rd F.cxmLinkCapacityGib = cap := by
  refine ⟨?_, ?_, ?_, State.rd_wr_of_lt _ _ (by decide) hcap⟩
  · rw [State.linkShows, State.rd_wr_apart _ _ _ _ _ _ (by decide) (by decide), State.rd_wr_apart _ _ _ _ _ _ (by decide) (by decide),
      State.rd_wr_apart _ _ _ _ _ _ (by decide) (by decide), State.rd_wr_of_lt _ _ (by decide) hst]
  · rw [State.linkShows, State.rd_wr_apart _ _ _ _ _ _ (by decide) (by decide), State.rd_wr_apart _ _ _ _ _ _ (by decide) (by decide),
      State.rd_wr_of_lt _ _ (by decide) hrate]
  · rw [State.linkShows, State.rd_wr_apart _ _ _ _ _ _ (by decide) (by decide), State.rd_wr_of_lt _ _ (by decide) hwidth]

theorem State.linkShows_ready {p : Page} (st rate width cap : Nat) : (s.linkShows st rate width cap).ready p = s.ready p := by
  have hkey {f : Fld} (hf : f.off = 0x100) : keyOf (F.pageReady p) ≠ keyOf f := by simp [keyOf, F.pageReady, hf]
  rw [State.ready, State.ready, State.on, State.on, State.rd, State.rd, State.linkShows, State.wr_word_ne _ _ (hkey rfl),
    State.wr_word_ne _ _ (hkey rfl), State.wr_word_ne _ _ (hkey rfl), State.wr_word_ne _ _ (hkey rfl)]

theorem State.linkShows_pwr (st rate width cap : Nat) : (s.linkShows st rate width cap).pwr = s.pwr := by
  rw [State.linkShows, State.wr_pwr, State.wr_pwr, State.wr_pwr, State.wr_pwr]

theorem State.linkShows_regions (st rate width cap : Nat) : (s.linkShows st rate width cap).regions = s.regions := by
  rw [State.linkShows, State.wr_regions, State.wr_regions, State.wr_regions, State.wr_regions]

/-- The state once training has ended. -/
def State.trained (s : State) (st rate width cap : Nat) : State :=
  (s.modPwr (fun p => { p with cxlTrained := true })).linkShows st rate width cap

theorem State.trained_ready {p : Page} (st rate width cap : Nat) : (s.trained st rate width cap).ready p = s.ready p := by
  rw [State.trained, State.linkShows_ready, State.modPwr_ready]

theorem State.trained_pwr (st rate width cap : Nat) : (s.trained st rate width cap).pwr = { s.pwr with cxlTrained := true } := by
  rw [State.trained, State.linkShows_pwr, State.modPwr_pwr]

theorem State.trained_regions (st rate width cap : Nat) : (s.trained st rate width cap).regions = s.regions := by
  rw [State.trained, State.linkShows_regions, State.modPwr_regions]

/-- CXM ready shows how the link stands, and leaves CXM_LINK. -/
theorem State.cxmReady_page : s.cxmReady.ready .cxm = true ∧ s.cxmReady.on (F.pageDegraded .cxm) = !decide (s.rd F.cxmLinkState = 2) ∧
    s.cxmReady.rd (F.pageCause .cxm) = if s.rd F.cxmLinkState = 2 then 0 else 7 := by
  refine ⟨?_, ?_, ?_⟩
  · rw [State.ready, State.cxmReady, State.on_wr_apart _ _ _ _ _ _ (by decide) (by decide),
      State.on_wr_apart _ _ _ _ _ _ (by decide) (by decide), State.on_wr_self _ _ _ _ (by decide) rfl]
    rfl
  · rw [State.cxmReady, State.on_wr_apart _ _ _ _ _ _ (by decide) (by decide), State.on_wr_self _ _ _ _ (by decide) rfl]
    cases decide (s.rd F.cxmLinkState = 2) <;> rfl
  · rw [State.cxmReady, State.rd_wr_of_lt _ _ (by decide) (ite_lt (by decide) (by decide))]
    simp only [decide_eq_true_eq]

theorem State.cxmReady_rd {f : Fld} (hoff : f.off ≠ 0x008) : s.cxmReady.rd f = s.rd f := by
  have hkey {g : Fld} (hg : g.off = 0x008) : keyOf f ≠ keyOf g := by simp [keyOf, hg, hoff]
  rw [State.rd, State.rd, State.cxmReady, State.wr_word_ne _ _ (hkey rfl), State.wr_word_ne _ _ (hkey rfl),
    State.wr_word_ne _ _ (hkey rfl)]

theorem State.cxmReady_pwr : s.cxmReady.pwr = s.pwr := by
  rw [State.cxmReady, State.wr_pwr, State.wr_pwr, State.wr_pwr]

theorem State.cxmReady_regions : s.cxmReady.regions = s.regions := by
  rw [State.cxmReady, State.wr_regions, State.wr_regions, State.wr_regions]

/-- The page of the link is ready once TMP is and the memories are zeroed (R50, R53). -/
def State.cxmReadyIf (s : State) : State := onlyIf (s.ready .tmp && s.pwr.sramZeroed) State.cxmReady s

/-- The state that the end of training leaves. -/
def State.trainingEnds (s : State) (st rate width cap : Nat) : State := (s.trained st rate width cap).cxmReadyIf

theorem State.trainingEnds_eq (st rate width cap : Nat) : s.trainingEnds st rate width cap =
    onlyIf (s.ready .tmp && s.pwr.sramZeroed) State.cxmReady (s.trained st rate width cap) := by
  rw [State.trainingEnds, State.cxmReadyIf, State.trained_ready, State.trained_pwr]

theorem exec_cxlLinkTrained {rate : Fin 4} {width : Fin 17} {cap : Fin 641} (up : Bool) (h0 : s.mode ≠ 0) (h1 : s.mode ≠ 1)
    (hlink : s.rd F.cxmLinkState ≠ 2) : exec (.cxlLinkTrained up rate width cap) s =
      done (s.trainingEnds (if up then 2 else 0) (if up then rate.val else 0) (if up then width.val else 0)
        (if up then cap.val else 0)) :=
  congrArg done (if_neg (by simp [h0, h1, hlink]))

/-- What the end of training leaves: CXM_LINK, and with TMP ready and the memories zeroed the page. -/
theorem State.trainingEnds_shows {st rate width cap : Nat} (hst : st < 4) (hrate : rate < 4) (hwidth : width < 32)
    (hcap : cap < 1024) :
    (s.trainingEnds st rate width cap).rd F.cxmLinkState = st ∧ (s.trainingEnds st rate width cap).rd F.cxmLinkRate = rate ∧
    (s.trainingEnds st rate width cap).rd F.cxmLinkWidth = width ∧
    (s.trainingEnds st rate width cap).rd F.cxmLinkCapacityGib = cap ∧
    (s.trainingEnds st rate width cap).pwr.cxlTrained = true ∧ (s.trainingEnds st rate width cap).regions = s.regions ∧
    if s.ready .tmp ∧ s.pwr.sramZeroed then
      (s.trainingEnds st rate width cap).ready .cxm = true ∧
        (s.trainingEnds st rate width cap).on (F.pageDegraded .cxm) = !decide (st = 2) ∧
        (s.trainingEnds st rate width cap).rd (F.pageCause .cxm) = if st = 2 then 0 else 7
    else (s.trainingEnds st rate width cap).ready .cxm = s.ready .cxm := by
  obtain ⟨hrd, hrd', hrd'', hrd'''⟩ :=
    State.linkShows_reads (s := s.modPwr (fun p => { p with cxlTrained := true })) hst hrate hwidth hcap
  rw [← State.trained] at hrd hrd' hrd'' hrd'''
  have hpwr := State.trained_pwr (s := s) st rate width cap
  have hregions := State.trained_regions (s := s) st rate width cap
  have hready := State.trained_ready (s := s) (p := .cxm) st rate width cap
  rw [State.trainingEnds_eq]
  generalize s.trained st rate width cap = w at hrd hrd' hrd'' hrd''' hpwr hregions hready
  by_cases hup : s.ready .tmp = true ∧ s.pwr.sramZeroed = true
  · obtain ⟨hshown, hdegraded, hcause⟩ := State.cxmReady_page (s := w)
    rw [hrd] at hdegraded hcause
    rw [onlyIf_of_true (by simp [hup]), if_pos hup, State.cxmReady_rd (by decide), State.cxmReady_rd (by decide),
      State.cxmReady_rd (by decide), State.cxmReady_rd (by decide), State.cxmReady_pwr, State.cxmReady_regions, hpwr]
    exact ⟨hrd, hrd', hrd'', hrd''', rfl, hregions, hshown, hdegraded, hcause⟩
  · rw [onlyIf_of_false (by simpa using hup), if_neg hup, hpwr]
    exact ⟨hrd, hrd', hrd'', hrd''', rfl, hregions, hready⟩

theorem cxlLinkTrained_shows (rate : Fin 4) (width : Fin 17) (cap : Fin 641) (h0 : s.mode ≠ 0) (h1 : s.mode ≠ 1)
    (hlink : s.rd F.cxmLinkState ≠ 2) :
    Runs (.cxlLinkTrained true rate width cap) s (fun t => t.rd F.cxmLinkState = 2 ∧ t.rd F.cxmLinkRate = rate ∧
      t.rd F.cxmLinkWidth = width ∧ t.rd F.cxmLinkCapacityGib = cap ∧ t.pwr.cxlTrained = true ∧ t.regions = s.regions ∧
      if s.ready .tmp ∧ s.pwr.sramZeroed then
        t.ready .cxm = true ∧ t.on (F.pageDegraded .cxm) = false ∧ t.rd (F.pageCause .cxm) = 0
      else t.ready .cxm = s.ready .cxm) ∧
    Runs (.cxlLinkTrained false rate width cap) s (fun t => t.rd F.cxmLinkState = 0 ∧ t.rd F.cxmLinkCapacityGib = 0 ∧
      t.pwr.cxlTrained = true ∧ t.regions = s.regions ∧
      if s.ready .tmp ∧ s.pwr.sramZeroed then
        t.ready .cxm = true ∧ t.on (F.pageDegraded .cxm) = true ∧ t.rd (F.pageCause .cxm) = 7
      else t.ready .cxm = s.ready .cxm) := by
  have hwidth : width.val < 32 := Nat.lt_trans width.isLt (by decide)
  have hcap : cap.val < 1024 := Nat.lt_trans cap.isLt (by decide)
  refine ⟨runs_of_done (exec_cxlLinkTrained true h0 h1 hlink) ?_, runs_of_done (exec_cxlLinkTrained false h0 h1 hlink) ?_⟩
  · simp only [State.closed_rd, State.closed_on, State.closed_pwr, State.closed_regions, State.closed_ready]
    exact State.trainingEnds_shows (s := s) (st := 2) (by decide) rate.isLt hwidth hcap
  · simp only [State.closed_rd, State.closed_on, State.closed_pwr, State.closed_regions, State.closed_ready]
    obtain ⟨hstate, -, -, hcap, hpwr, hregions, hpage⟩ := State.trainingEnds_shows (s := s) (st := 0) (rate := 0) (width := 0) (cap := 0)
      (by decide) (by decide) (by decide) (by decide)
    exact ⟨hstate, hcap, hpwr, hregions, hpage⟩

/-! ### The link goes down (R380) -/

/-- A register that is not one of the entries of CXM_POISON. -/
theorem State.poison_word (hkey : key.page ≠ .cxm ∨ key.off < 0x200) (scope level index : Nat) (queues contexts : List Nat) :
    (s.poison r scope level index queues contexts).word key = s.word key := by
  have hwhole (w : State) : (w.poisonWhole r).word key = w.word key :=
    State.poisonWhole_keeps.regsBut (by simp) key List.not_mem_nil
  have hconsumers (w : State) : (w.poisonConsumers r queues contexts).word key = w.word key :=
    State.poisonConsumers_regsBut _ _ key List.not_mem_nil
  have htold : (s.poisonTold r).word key = s.word key := State.poisonTold_regsBut key List.not_mem_nil
  have hentry (e : Nat) : ((s.poisonTold r).poisonEntry e r scope level index).word key = s.word key := by
    have hvalid : key ≠ keyOf (F.cxmPoison0Valid.at e 8) := by
      rintro rfl
      simp [keyOf, Fld.at, F.cxmPoison0Valid] at hkey
    have hindex : key ≠ keyOf (F.cxmPoison1Index.at e 8) := by
      rintro rfl
      simp [keyOf, Fld.at, F.cxmPoison1Index] at hkey
      omega
    rw [State.poisonEntry, State.word_setWord_ne _ _ hindex, State.word_setWord_ne _ _ hvalid, htold]
  rw [State.poison_eq]
  split
  · rw [hwhole, htold]
  · split
    · rw [hwhole, hentry]
    · rw [hconsumers, hentry]

/-- A region poisoned whole is so in state 3, and no other region changes. -/
theorem State.poison_whole_region (level index : Nat) (queues contexts : List Nat) :
    ((s.poison r 3 level index queues contexts).region r).state = 3 ∧
      ∀ q, q ≠ r → (s.poison r 3 level index queues contexts).region q = s.region q := by
  have htold (q : Nat) : (s.poisonTold r).region q = s.region q := by rw [State.region, State.region, State.poisonTold_regions]
  rw [State.poison_eq]
  split
  · exact ⟨by rw [State.poisonWhole_region_self], fun q hq => by rw [State.poisonWhole_region_ne hq, htold]⟩
  · rw [if_pos rfl]
    exact ⟨by rw [State.poisonWhole_region_self],
      fun q hq => by rw [State.poisonWhole_region_ne hq, State.poisonEntry, State.setWord_region, State.setWord_region, htold]⟩

/-- Region `r` is poisoned whole where it is enabled and not yet so. -/
def State.poisonOn (r : Nat) (s : State) : State :=
  if s.regionOn r && decide ((s.region r).state ≠ 3) then s.poison r 3 0 0 [] [] else s

theorem State.poisonOn_word (hkey : key.page ≠ .cxm ∨ key.off < 0x200) : (s.poisonOn r).word key = s.word key := by
  rw [State.poisonOn]
  split
  · exact State.poison_word hkey ..
  · rfl

theorem State.poisonOn_evt : (s.poisonOn r).evt F.cxmEvtLinkDown = s.evt F.cxmEvtLinkDown := by
  rw [State.poisonOn]
  split
  · exact State.poison_evt_apart _ _ _ _ _ (by decide) (by decide) (by decide)
  · rfl

theorem State.poisonOn_regionOn : (s.poisonOn r).regionOn q = s.regionOn q := by
  have hword : (s.poisonOn r).word (keyOf F.cxmRcfgEnable 0 q) = s.word (keyOf F.cxmRcfgEnable 0 q) :=
    State.poisonOn_word (.inr (show 0x108 < 0x200 by decide))
  rw [State.regionOn, State.regionOn, State.on, State.on, State.rd, State.rd, hword]

/-- Once done, an enabled region is poisoned whole. -/
theorem State.poisonOn_state : (s.poisonOn r).regionOn r = true → ((s.poisonOn r).region r).state = 3 := by
  rw [State.poisonOn_regionOn]
  intro hon
  rw [State.poisonOn]
  split
  · exact (State.poison_whole_region ..).1
  · next h => simpa [hon] using h

theorem State.poisonOn_region_ne (h : q ≠ r) : (s.poisonOn r).region q = s.region q := by
  rw [State.poisonOn]
  split
  · exact (State.poison_whole_region ..).2 q h
  · rfl

/-- Every enabled region is poisoned whole. -/
theorem State.forN_poisonOn (n : Nat) (s : State) :
    (∀ r < n, (forN n State.poisonOn s).regionOn r = true → ((forN n State.poisonOn s).region r).state = 3) ∧
    (forN n State.poisonOn s).evt F.cxmEvtLinkDown = s.evt F.cxmEvtLinkDown ∧
    ∀ key : RegKey, key.page ≠ .cxm ∨ key.off < 0x200 → (forN n State.poisonOn s).word key = s.word key := by
  refine ⟨forN_each (P := fun r s => s.regionOn r = true → (s.region r).state = 3) (fun r s => State.poisonOn_state)
    (fun r q s hq h => by rw [State.poisonOn_regionOn, State.poisonOn_region_ne hq]; exact h) n s, ?_, fun key hkey => ?_⟩
  · induction n with
    | zero => rfl
    | succ n ih => rw [forN_succ, State.poisonOn_evt, ih]
  · induction n with
    | zero => rfl
    | succ n ih => rw [forN_succ, State.poisonOn_word hkey, ih]

/-- What shows that the link is down. -/
def State.linkFalls (s : State) : State :=
  (((((s.wr F.cxmLinkState 0).wr F.cxmLinkRate 0).wr F.cxmLinkWidth 0).wr (F.pageDegraded .cxm) 1).wr (F.pageCause .cxm) 7).cxmEvent
    F.cxmEvtLinkDown 0

theorem exec_cxlLinkDown (h : s.rd F.cxmLinkState = 2) : exec .cxlLinkDown s = done (forN 16 State.poisonOn s.linkFalls) :=
  congrArg done (if_pos h)

theorem State.linkFalls_shows : s.linkFalls.rd F.cxmLinkState = 0 ∧ s.linkFalls.rd F.cxmLinkRate = 0 ∧
    s.linkFalls.rd F.cxmLinkWidth = 0 ∧ s.linkFalls.on (F.pageDegraded .cxm) = true ∧ s.linkFalls.rd (F.pageCause .cxm) = 7 ∧
    s.linkFalls.evt F.cxmEvtLinkDown = 1 := by
  refine ⟨?_, ?_, ?_, ?_, ?_, State.cxmEvent_evt (by decide) rfl⟩
  · rw [State.linkFalls, State.cxmEvent_keeps.rd _ 0 0 (by simp)]
    simp only [State.rd_wr_apart _ (f := F.pageCause .cxm) (g := F.cxmLinkState) _ _ _ _ _ (by decide) (by decide),
      State.rd_wr_apart _ (f := F.pageDegraded .cxm) (g := F.cxmLinkState) _ _ _ _ _ (by decide) (by decide),
      State.rd_wr_apart _ (f := F.cxmLinkWidth) (g := F.cxmLinkState) _ _ _ _ _ (by decide) (by decide),
      State.rd_wr_apart _ (f := F.cxmLinkRate) (g := F.cxmLinkState) _ _ _ _ _ (by decide) (by decide)]
    exact State.rd_wr_of_lt _ _ (by decide) (by decide)
  · rw [State.linkFalls, State.cxmEvent_keeps.rd _ 0 0 (by simp)]
    simp only [State.rd_wr_apart _ (f := F.pageCause .cxm) (g := F.cxmLinkRate) _ _ _ _ _ (by decide) (by decide),
      State.rd_wr_apart _ (f := F.pageDegraded .cxm) (g := F.cxmLinkRate) _ _ _ _ _ (by decide) (by decide),
      State.rd_wr_apart _ (f := F.cxmLinkWidth) (g := F.cxmLinkRate) _ _ _ _ _ (by decide) (by decide)]
    exact State.rd_wr_of_lt _ _ (by decide) (by decide)
  · rw [State.linkFalls, State.cxmEvent_keeps.rd _ 0 0 (by simp)]
    simp only [State.rd_wr_apart _ (f := F.pageCause .cxm) (g := F.cxmLinkWidth) _ _ _ _ _ (by decide) (by decide),
      State.rd_wr_apart _ (f := F.pageDegraded .cxm) (g := F.cxmLinkWidth) _ _ _ _ _ (by decide) (by decide)]
    exact State.rd_wr_of_lt _ _ (by decide) (by decide)
  · rw [State.on, State.linkFalls, State.cxmEvent_keeps.rd _ 0 0 (by simp),
      State.rd_wr_apart _ _ _ _ _ _ (by decide) (by decide), State.rd_wr_of_lt _ _ (by decide) (by decide)]
    rfl
  · rw [State.linkFalls, State.cxmEvent_keeps.rd _ 0 0 (by simp)]
    exact State.rd_wr_of_lt _ _ (by decide) (by decide)

theorem State.linkFalls_regionOn : s.linkFalls.regionOn r = s.regionOn r := by
  have hword : s.linkFalls.word (keyOf F.cxmRcfgEnable 0 r) = s.word (keyOf F.cxmRcfgEnable 0 r) := by
    rw [State.linkFalls, State.cxmEvent_keeps.word (by simp), State.wr_word_ne _ _ (by simp [keyOf, F.cxmRcfgEnable, F.pageCause]),
      State.wr_word_ne _ _ (by simp [keyOf, F.cxmRcfgEnable, F.pageDegraded]),
      State.wr_word_ne _ _ (by simp [keyOf, F.cxmRcfgEnable, F.cxmLinkWidth]),
      State.wr_word_ne _ _ (by simp [keyOf, F.cxmRcfgEnable, F.cxmLinkRate]),
      State.wr_word_ne _ _ (by simp [keyOf, F.cxmRcfgEnable, F.cxmLinkState])]
  rw [State.regionOn, State.regionOn, State.on, State.on, State.rd, State.rd, hword]

theorem cxlLinkDown_poisons (h : s.rd F.cxmLinkState = 2) :
    Runs .cxlLinkDown s (fun t => t.rd F.cxmLinkState = 0 ∧ t.rd F.cxmLinkRate = 0 ∧ t.rd F.cxmLinkWidth = 0 ∧
      t.on (F.pageDegraded .cxm) = true ∧ t.rd (F.pageCause .cxm) = 7 ∧ t.evt F.cxmEvtLinkDown = 1 ∧
      ∀ r, r < 16 → s.regionOn r = true → (t.region r).state = 3) := by
  obtain ⟨hstate, hrate, hwidth, hdegraded, hcause, hevt⟩ := State.linkFalls_shows (s := s)
  have hon (r : Nat) : s.linkFalls.regionOn r = s.regionOn r := State.linkFalls_regionOn
  refine runs_of_done (exec_cxlLinkDown h) ?_
  generalize s.linkFalls = w at hstate hrate hwidth hdegraded hcause hevt hon
  obtain ⟨hregions, hlater, hword⟩ := State.forN_poisonOn 16 w
  have hrd (f : Fld) (hf : f.off < 0x200) : (forN 16 State.poisonOn w).closed.rd f = w.rd f := by
    rw [State.closed_rd, State.rd, State.rd, hword (keyOf f) (.inr hf)]
  have hsame (r : Nat) : (forN 16 State.poisonOn w).regionOn r = s.regionOn r := by
    have hcfg : (forN 16 State.poisonOn w).word (keyOf F.cxmRcfgEnable 0 r) = w.word (keyOf F.cxmRcfgEnable 0 r) :=
      hword _ (.inr (show 0x108 < 0x200 by decide))
    rw [← hon r, State.regionOn, State.regionOn, State.on, State.on, State.rd, State.rd, hcfg]
  refine ⟨(hrd _ (by decide)).trans hstate, (hrd _ (by decide)).trans hrate, (hrd _ (by decide)).trans hwidth, ?_,
    (hrd _ (by decide)).trans hcause, ?_, fun r hr hron => ?_⟩
  · rw [State.on, hrd _ (by decide)]
    exact hdegraded
  · rw [State.closed_evt _ _ _ (by decide), hlater, hevt]
  · rw [State.closed_region]
    exact hregions r hr ((hsame r).trans hron)

/-! ### The expander's corrected errors (R366) -/

theorem mediaEventPoll_tells {n : Nat} (htick : s.tick % 1024 = 0) (hlink : s.rd F.cxmLinkState = 2) (hn : n ≠ 0) :
    Runs (.mediaEventPoll n) s (fun t => t.evt F.cxmEvtCorrected = 1 ∧ t.regions = s.regions) := by
  have hexec : exec (.mediaEventPoll n) s = done ((s.count .cxm 0 11 n).cxmEvent F.cxmEvtCorrected 0) :=
    congrArg done (if_pos ⟨htick, hlink, hn⟩)
  refine runs_of_done hexec ⟨?_, ?_⟩
  · rw [State.closed_evt _ _ _ (by decide)]
    exact State.cxmEvent_evt (by decide) rfl
  · rw [State.closed_regions, State.cxmEvent_keeps.frame .regions (by decide), State.count_regions]

end Sys2Proof.Machine
end

section
/-! PROOF. The clearing of poison (R382), and the statement on the CXL link and poison. -/

namespace Sys2Proof.Machine

open Sys2Proof

variable {s t : State} {r q index level : Nat} {e : Fin 64} {cyc : Cyc}

/-! ### REINIT is asked for -/

/-- CXM_CMD names no entry that it may clear: result 1. -/
theorem reinit_refused (hr : s.ready .cxm = true) (hbusy : s.on F.cxmCmdStatBusy = false)
    (h : s.on (F.cxmPoison0Valid.at e 8) = false ∨ s.rd (F.cxmPoison0Scope.at e 8) = 3) :
    Runs (.reinit e cyc) s (fun t => t.rd F.cxmCmdStatResult = 1 ∧ t.reinit = s.reinit ∧ t.regions = s.regions ∧
      s.regsBut t [keyOf F.cxmCmdStatBusy]) := by
  have hexec : exec (.reinit e cyc) s = done ((s.at cyc).wr F.cxmCmdStatResult 1) := by
    refine congrArg done ((State.gate_of_ready ((s.at_ready cyc .cxm 0).trans hr)).trans ?_)
    rw [if_neg (by decide), State.at_on, if_neg (by simp [hbusy]), if_neg (by decide), State.at_on, State.at_rd,
      if_pos (by simpa using h)]
  refine runs_of_done hexec ⟨?_, ?_, ?_, ?_⟩
  · rw [State.closed_rd, State.rd_wr_of_lt _ _ (by decide) (by decide)]
  · rw [State.closed_reinit, State.wr_reinit, State.at_reinit]
  · rw [State.closed_regions, State.wr_regions, State.at_regions]
  · exact State.closed_regsBut (State.regsBut_wr _ (State.at_regsBut s cyc _) List.mem_cons_self)

/-- A REINIT begins. -/
def State.reinitBegins (s : State) (e : Nat) : State := { s with reinit := some e }

theorem State.reinitBegins_rd (f : Fld) : (s.reinitBegins e).rd f = s.rd f := rfl
theorem State.reinitBegins_word (key : RegKey) : (s.reinitBegins e).word key = s.word key := rfl
theorem State.reinitBegins_reinit : (s.reinitBegins e).reinit = some e.val := rfl
theorem State.reinitBegins_regions : (s.reinitBegins e).regions = s.regions := rfl

theorem reinit_accepted (hr : s.ready .cxm = true) (hbusy : s.on F.cxmCmdStatBusy = false)
    (hvalid : s.on (F.cxmPoison0Valid.at e 8) = true) (hscope : s.rd (F.cxmPoison0Scope.at e 8) ≠ 3) :
    Runs (.reinit e cyc) s (fun t => t.rd F.cxmCmdStatBusy = 1 ∧ t.rd F.cxmCmdStatResult = 0 ∧ t.reinit = some e.val ∧
      t.regions = s.regions ∧ s.regsBut t [keyOf F.cxmCmdStatBusy]) := by
  have hexec : exec (.reinit e cyc) s =
      done ((((s.at cyc).wr F.cxmCmdStatBusy 1).wr F.cxmCmdStatResult 0).reinitBegins e) := by
    refine congrArg done ((State.gate_of_ready ((s.at_ready cyc .cxm 0).trans hr)).trans ?_)
    rw [if_neg (by decide), State.at_on, if_neg (by simp [hbusy]), if_neg (by decide), State.at_on, State.at_rd,
      if_neg (by simp [hvalid, hscope])]
    rfl
  refine runs_of_done hexec ⟨?_, ?_, ?_, ?_, ?_⟩
  · rw [State.closed_rd, State.reinitBegins_rd, State.rd_wr_apart _ _ _ _ _ _ (by decide) (by decide),
      State.rd_wr_of_lt _ _ (by decide) (by decide)]
  · rw [State.closed_rd, State.reinitBegins_rd, State.rd_wr_of_lt _ _ (by decide) (by decide)]
  · rw [State.closed_reinit, State.reinitBegins_reinit]
  · rw [State.closed_regions, State.reinitBegins_regions, State.wr_regions, State.wr_regions, State.at_regions]
  · exact State.closed_regsBut (State.regsBut_of_word State.reinitBegins_word (State.regsBut_wr _
      (State.regsBut_wr _ (State.at_regsBut s cyc _) List.mem_cons_self) List.mem_cons_self))

/-! ### The scope is written anew -/

/-- What a filter drops reads as the default. -/
theorem nget_filter_of_dropped {α : Type} (d : α) {p : Nat × α → Bool} {m : NMap α} {k : Nat} (h : ∀ v, p (k, v) = false) :
    nget d (m.filter p) k = d := by
  induction m with
  | nil => rfl
  | cons x m ih =>
    obtain ⟨j, v⟩ := x
    by_cases hj : k = j
    · subst hj
      rw [List.filter_cons_of_neg (by simp [h v])]
      exact ih
    · by_cases hp : p (j, v) = true
      · rw [List.filter_cons_of_pos hp]
        exact (if_neg hj).trans ih
      · rw [List.filter_cons_of_neg hp]
        exact ih

/-- Whether counter `c` of level `k` lies under node `index` of `level`. -/
def underNode (level index k c : Nat) : Bool := decide (k ≤ level ∧ c / 16 ^ (level + 1 - k) = index)

/-- The subtree of a node with its counters at 0 and its guarding counter risen (R382). -/
def Region.cleared (x : Region) (total height level index : Nat) : Region :=
  let g := x.ctr (level + 1) index + 1
  let y : Region := { x with
    counters := x.counters.filter (fun e => !underNode level index (e.1 / 2 ^ 40) (e.1 % 2 ^ 40))
    cached := x.cached.filter (fun e => !underNode level index (e.1 / 2 ^ 40 + 1) (e.1 % 2 ^ 40) &&
      decide (e.1 ≠ nodeKey level index))
    lines := x.lines.filter (fun e => !underNode level index 0 e.1) }
  let z := (y.setCtr (level + 1) index g).written (y.nodeNew total level index) g
  if level + 1 < height then z.setCache (level + 1) (index / 16) 2 else z

theorem Region.cleared_counters (x : Region) (total height level index : Nat) : (x.cleared total height level index).counters =
    nset 0 (x.counters.filter (fun e => !underNode level index (e.1 / 2 ^ 40) (e.1 % 2 ^ 40))) (nodeKey (level + 1) index)
      (x.ctr (level + 1) index + 1) := by
  rw [Region.cleared]
  split <;> rfl

/-- The counter that guards the node has risen. -/
theorem Region.cleared_guard (x : Region) (total height level index : Nat) :
    (x.cleared total height level index).ctr (level + 1) index = x.ctr (level + 1) index + 1 := by
  rw [Region.ctr, Region.cleared_counters]
  exact nget_nset_self ..

/-- The counters of the lines beneath the node are 0. -/
theorem Region.cleared_lines (x : Region) (total height : Nat) {level index j : Nat} (hj : j < 2 ^ 40)
    (hunder : j / 16 ^ (level + 1) = index) : (x.cleared total height level index).ctr 0 j = 0 := by
  have hkey : nodeKey 0 j = j := by simp [nodeKey]
  have hne : nodeKey 0 j ≠ nodeKey (level + 1) index := by
    simp only [nodeKey]
    omega
  rw [Region.ctr, Region.cleared_counters, nget_nset_ne _ _ _ _ hne, hkey]
  refine nget_filter_of_dropped 0 fun v => ?_
  simp only [underNode, Nat.div_eq_of_lt hj, Nat.mod_eq_of_lt hj, Nat.sub_zero, hunder]
  simp

theorem State.reinitScope_node (s : State) (r level index : Nat) : s.reinitScope r 2 level index =
    s.modRegion r (fun x => x.cleared (s.groupsOf r) (s.heightOf r) level index) := rfl

theorem State.reinitScope_line (h : (s.region r).ctr 0 index ≠ 0) :
    s.reinitScope r 0 level index = s.writeLine r index (List.replicate 64 0) := if_neg h

theorem State.writeLine_region_ne {data : List Byte} (h : q ≠ r) : (s.writeLine r index data).region q = s.region q := by
  rw [State.writeLine_eq rfl rfl rfl, State.emit_region, State.count_region, State.modRegion_region_ne _ _ h]

/-- A line is written anew only where it was written. -/
theorem State.clearLine_region_ne {data : List Byte} (h : q ≠ r) :
    (if (s.region r).ctr 0 index = 0 then s else s.writeLine r index data).region q = s.region q := by
  split
  · rfl
  · exact State.writeLine_region_ne h

/-- The lines of a tag line are written anew in turn (R382). -/
def State.clearLines (s : State) (r index n : Nat) : State :=
  forN n (fun b s => if (s.region r).ctr 0 (8 * index + b) = 0 then s
    else s.writeLine r (8 * index + b) (List.replicate 64 0)) s

theorem State.clearLines_region_ne (h : q ≠ r) (n : Nat) : (s.clearLines r index n).region q = s.region q := by
  rw [State.clearLines]
  induction n with
  | zero => rfl
  | succ n ih => rw [forN_succ, State.clearLine_region_ne h, ih]

theorem State.reinitScope_lines : s.reinitScope r 1 level index = s.clearLines r index 8 := rfl

theorem State.reinitScope_region_ne (h : q ≠ r) (scope : Nat) : (s.reinitScope r scope level index).region q = s.region q := by
  match scope with
  | 0 => exact State.clearLine_region_ne h
  | 1 => rw [State.reinitScope_lines, State.clearLines_region_ne h]
  | _ + 2 => exact State.modRegion_region_ne _ _ h

/-! ### REINIT is done -/

/-- Entry `e` is clear. -/
def State.entryClears (s : State) (e : Nat) : State :=
  (s.setWord (keyOf (F.cxmPoison0Valid.at e 8)) 0).setWord (keyOf (F.cxmPoison1Index.at e 8)) 0

/-- REINIT has ended, with result 0. -/
def State.reinitEnds (s : State) : State := { (s.wr F.cxmCmdStatBusy 0).wr F.cxmCmdStatResult 0 with reinit := none }

theorem State.reinitEnds_word (key : RegKey) :
    s.reinitEnds.word key = ((s.wr F.cxmCmdStatBusy 0).wr F.cxmCmdStatResult 0).word key := rfl

theorem State.reinitEnds_rd (f : Fld) : s.reinitEnds.rd f = ((s.wr F.cxmCmdStatBusy 0).wr F.cxmCmdStatResult 0).rd f := rfl

theorem State.reinitEnds_region : s.reinitEnds.region q = s.region q := by
  have hregions : s.reinitEnds.regions = ((s.wr F.cxmCmdStatBusy 0).wr F.cxmCmdStatResult 0).regions := rfl
  rw [State.region, State.region, hregions, State.wr_regions, State.wr_regions]

theorem exec_reinitDone (h : s.reinit = some e.val) (hvalid : s.on (F.cxmPoison0Valid.at e 8) = true) :
    exec .reinitDone s = done (((s.reinitScope (s.rd (F.cxmPoison0Region.at e 8)) (s.rd (F.cxmPoison0Scope.at e 8))
      (s.rd (F.cxmPoison0Level.at e 8)) (s.rd (F.cxmPoison1Index.at e 8) + 2 ^ 32 * s.rd (F.cxmPoison0IndexHi.at e 8))).entryClears
        e).reinitEnds) := by
  show execReinitDone s = _
  rw [execReinitDone, h]
  simp only [hvalid, ↓reduceIte]
  rfl

theorem State.entryClears_valid : (s.entryClears e).reinitEnds.on (F.cxmPoison0Valid.at e 8) = false := by
  have hkey {g : Fld} (hg : g.off < 0x200) : keyOf (F.cxmPoison0Valid.at e 8) ≠ keyOf g := by
    simp only [keyOf, Fld.at, F.cxmPoison0Valid, ne_eq, RegKey.mk.injEq, not_and]
    omega
  have hword : (s.entryClears e).reinitEnds.word (keyOf (F.cxmPoison0Valid.at e 8)) = 0 := by
    rw [State.reinitEnds_word, State.wr_word_ne _ _ (hkey (by decide)), State.wr_word_ne _ _ (hkey (by decide)), State.entryClears,
      State.word_setWord_ne _ _ (poisonIndex_ne_valid e), State.word_setWord_self]
  have hzero : getF 0 0 1 = 0 := by decide
  rw [State.on, State.rd, hword, show (F.cxmPoison0Valid.at e 8).lo = 0 from rfl, show (F.cxmPoison0Valid.at e 8).w = 1 from rfl, hzero]
  rfl

theorem State.entryClears_region : (s.entryClears e).region q = s.region q := by
  rw [State.entryClears, State.setWord_region, State.setWord_region]

theorem reinitDone_clears (h : s.reinit = some e.val) (hvalid : s.on (F.cxmPoison0Valid.at e 8) = true)
    (hr : r = s.rd (F.cxmPoison0Region.at e 8)) (hlevel : level = s.rd (F.cxmPoison0Level.at e 8))
    (hindex : index = s.rd (F.cxmPoison1Index.at e 8) + 2 ^ 32 * s.rd (F.cxmPoison0IndexHi.at e 8)) :
    Runs .reinitDone s (fun t => t.reinit = none ∧ t.rd F.cxmCmdStatBusy = 0 ∧ t.rd F.cxmCmdStatResult = 0 ∧
      t.on (F.cxmPoison0Valid.at e 8) = false ∧ (∀ q, q ≠ r → t.region q = s.region q) ∧
      (s.rd (F.cxmPoison0Scope.at e 8) = 2 → (t.region r).ctr (level + 1) index = (s.region r).ctr (level + 1) index + 1 ∧
        ∀ j, j < 2 ^ 40 → j / 16 ^ (level + 1) = index → (t.region r).ctr 0 j = 0) ∧
      (s.rd (F.cxmPoison0Scope.at e 8) = 0 → (s.region r).ctr 0 index ≠ 0 →
        (t.region r).ctr 0 index = (s.region r).ctr 0 index + 1)) := by
  have hexec := exec_reinitDone h hvalid
  rw [← hr, ← hlevel, ← hindex] at hexec
  generalize hscope : s.rd (F.cxmPoison0Scope.at e 8) = scope at hexec ⊢
  have hregion (q : Nat) : (((s.reinitScope r scope level index).entryClears e).reinitEnds).closed.region q =
      (s.reinitScope r scope level index).region q := by
    rw [State.closed_region, State.reinitEnds_region, State.entryClears_region]
  refine runs_of_done hexec ⟨?_, ?_, ?_, ?_, fun q hq => ?_, ?_, ?_⟩
  · rw [State.closed_reinit]
    rfl
  · rw [State.closed_rd, State.reinitEnds_rd, State.rd_wr_apart _ _ _ _ _ _ (by decide) (by decide),
      State.rd_wr_of_lt _ _ (by decide) (by decide)]
  · rw [State.closed_rd, State.reinitEnds_rd, State.rd_wr_of_lt _ _ (by decide) (by decide)]
  · rw [State.closed_on, State.entryClears_valid]
  · rw [hregion, State.reinitScope_region_ne hq]
  · rintro rfl
    rw [hregion, State.reinitScope_node, State.modRegion_region_self]
    exact ⟨Region.cleared_guard .., fun j hj hunder => Region.cleared_lines _ _ _ hj hunder⟩
  · rintro rfl hwritten
    rw [hregion, State.reinitScope_line hwritten, State.writeLine_eq rfl rfl rfl, State.emit_region, State.count_region,
      State.modRegion_region_self]
    exact Region.wrote_ctr_self ..

/-- Settles O51: the link by what its training shows, its fall by the regions it poisons in turn, and a REINIT by the entry it
names. -/
theorem linkAndPoison : Obligations.LinkAndPoison := by
  unfold Obligations.LinkAndPoison
  exact ⟨fun s => ⟨fun rate width cap => cxlLinkTrained_shows rate width cap, cxlLinkDown_poisons,
      fun n => mediaEventPoll_tells⟩,
    fun s e cyc => ⟨fun hr hbusy => ⟨reinit_accepted hr hbusy, reinit_refused hr hbusy⟩,
      fun r level index => reinitDone_clears⟩⟩

end Sys2Proof.Machine
end

section
/-! PROOF. Silence of the partner on an entry without a key (R396). -/

namespace Sys2Proof.Machine

open Sys2Proof

/-- Entry 0 is IDLE with a claim that waits for the partner, of whom 16 edges have brought no frame. -/
def idleClaim : State :=
  { State.reset.wr F.fluStatPartnerSync 1 with
    assocs := { m := [(0, { claimPending := true })] }, pair := { missed := 16 } }

theorem idleClaim_not_inv : ¬ idleClaim.Inv := fun h =>
  absurd (h.keys.2 _ List.mem_cons_self) (by decide +kernel)

/-- An entry written back in a state that holds no key is wiped, and its mark with it. -/
theorem idleClaim_mark : (idleClaim.dropSync.asn 0).pnMark = 0 := by decide +kernel

theorem exec_idleClaim : exec .partnerSyncLost idleClaim = done idleClaim.dropSync :=
  congrArg done (if_pos (.inl (by decide +kernel)))

/-- Refutes O53: the statement has each claim that waits made when partner_sync drops, on every entry; one whose state holds
no key is written back wiped, so that its mark is 0 and not 2^24 higher. No run brings an entry there: it stands because the
statement asks of the state nothing that a run keeps. -/
theorem not_pairHealth : ¬ Obligations.PairHealth := by
  unfold Obligations.PairHealth
  intro h
  obtain ⟨-, -, hlost, -⟩ := h.1 idleClaim
  obtain ⟨t, hexec, -, -, hclaims⟩ := hlost (.inl (by decide +kernel))
  rw [exec_idleClaim] at hexec
  have ht : t = idleClaim.dropSync.closed := (Host.Outcome.next.inj hexec).symm
  obtain ⟨hmark, -⟩ := hclaims (by decide +kernel) 0 (by decide +kernel) (by decide +kernel)
  rw [ht, State.closed_asn, idleClaim_mark] at hmark
  exact absurd hmark (by decide +kernel)

end Sys2Proof.Machine
end

section
/-! PROOF. HELLO frames and mirror frames (R386 to R391, R400). -/

namespace Sys2Proof.Machine

open Sys2Proof

variable {s t u : State} {h : Hello} {v : Nat} {cyc : Cyc}

/-! ### The mirror, partner_sync and the page of the Flue -/

theorem State.rd_of_off {f : Fld} {i o : Nat} (h : s.on f i o = false) (hw : f.w = 1) : s.rd f i o = 0 := by
  have hlt : s.rd f i o < 2 ^ f.w := getF_lt_two_pow ..
  rw [hw] at hlt
  have hne : s.rd f i o ≠ 1 := by simpa [State.on] using h
  omega

theorem State.dropMirror_valid : s.dropMirror.rd F.fluStatMirrorValid = 0 := by
  rw [State.dropMirror]
  split
  · rw [State.event_rd, State.rd_wr_of_lt _ _ (by decide) (by decide)]
  · next h => exact State.rd_of_off (by simpa using h) rfl

theorem State.dropMirror_rd {g : Fld} {j o : Nat} (hg : Fld.apart F.fluStatMirrorValid g = true) :
    s.dropMirror.rd g j o = s.rd g j o := by
  rw [State.dropMirror]
  split
  · rw [State.event_rd, State.rd_wr_apart _ _ _ _ _ _ (by decide) hg]
  · rfl

/-- A claim that waits for the partner is made without it (R161). -/
def Assoc.claims (e : Assoc) : Assoc :=
  if e.claimPending then { e with pnMark := e.pnMark + 2 ^ 24, claimPending := false } else e

theorem State.dropSync_of_on (h : s.on F.fluStatPartnerSync = true) : s.dropSync =
    forL s.asnListed (fun a s => s.modAsn a Assoc.claims) (s.wr F.fluStatPartnerSync 0) := if_pos h

theorem forL_modAsn_rd (f : Assoc → Assoc) (l : List Nat) (s : State) (g : Fld) (j o : Nat) :
    (forL l (fun a s => s.modAsn a f) s).rd g j o = s.rd g j o := by
  induction l generalizing s with
  | nil => rfl
  | cons a l ih => exact (ih (s.modAsn a f)).trans (State.modAsn_rd ..)

theorem State.dropSync_sync : s.dropSync.rd F.fluStatPartnerSync = 0 := by
  by_cases h : s.on F.fluStatPartnerSync = true
  · rw [State.dropSync_of_on h, forL_modAsn_rd, State.rd_wr_of_lt _ _ (by decide) (by decide)]
  · rw [State.dropSync, if_neg h]
    exact State.rd_of_off (by simpa using h) rfl

theorem State.dropSync_rd {g : Fld} {j o : Nat} (hg : Fld.apart F.fluStatPartnerSync g = true) :
    s.dropSync.rd g j o = s.rd g j o := by
  by_cases h : s.on F.fluStatPartnerSync = true
  · rw [State.dropSync_of_on h, forL_modAsn_rd, State.rd_wr_apart _ _ _ _ _ _ (by decide) hg]
  · rw [State.dropSync, if_neg h]

theorem State.flueDegrade_rd {g : Fld} {j o : Nat} (hg : g.off ≠ 0x008) : s.flueDegrade.rd g j o = s.rd g j o := by
  have hkey {f : Fld} (hf : f.off = 0x008) : keyOf g j o ≠ keyOf f := by simp [keyOf, hf, hg]
  rw [State.flueDegrade]
  split
  · rw [State.rd, State.rd, State.wr_word_ne _ _ (hkey rfl), State.wr_word_ne _ _ (hkey rfl)]
  · rfl

theorem State.flueDegrade_pair : s.flueDegrade.pair = s.pair := State.flueDegrade_keeps.frame .pair (by decide)
theorem State.flueDegrade_slot (n : Nat) : s.flueDegrade.slot n = s.slot n := by
  rw [State.slot, State.slot, State.flueDegrade_keeps.frame .vault (by decide)]

/-! ### A HELLO that comes to nothing -/

theorem exec_hello_nothing (hnot : s.rd F.fluStatState < 3 ∨ s.joinedOf true = none) : exec (.hello cyc) s = done (s.at cyc) := by
  have hjoined : (s.at cyc).joinedOf true = s.joinedOf true := rfl
  show execHello cyc s = _
  rw [execHello]
  rw [State.at_rd, hjoined]
  obtain hstate | hnone := hnot
  · rw [if_pos hstate]
  · rw [hnone, ite_self]

theorem hello_nothing (hnot : s.rd F.fluStatState < 3 ∨ s.joinedOf true = none) :
    Runs (.hello cyc) s (fun t => t.pair = s.pair ∧ s.regsBut t []) :=
  runs_of_done (exec_hello_nothing hnot) ⟨by rw [State.closed_pair, State.at_pair], State.closed_regsBut (State.at_regsBut s cyc _)⟩

/-! ### A HELLO is heard -/

/-- The oldest HELLO is taken, and its claim is the peer's (R400). -/
def State.helloHeard (s : State) (cyc : Cyc) (h : Hello) : State := ((s.at cyc).unjoin true).peerClaim h.claim

theorem State.helloHeard_pair : (s.helloHeard cyc h).pair = { (s.unjoin true).pair with claimAt := s.tick, claimSeen := true } := rfl

theorem State.peerClaim_claim (claim : Nat) : (s.peerClaim claim).rd F.fluClaimPeer = claim % 65536 := by
  rw [State.peerClaim, State.modPair_rd]
  exact State.rd_wr_self _ _ _ _ (by decide)

theorem State.peerClaim_regsBut (claim : Nat) (h : t.regsBut s [keyOf F.fluClaimPeer]) :
    t.regsBut (s.peerClaim claim) [keyOf F.fluClaimPeer] :=
  State.regsBut_of_word (State.modPair_word _ _) (State.regsBut_wr _ h List.mem_cons_self)

theorem State.helloHeard_regsBut : s.regsBut (s.helloHeard cyc h) [keyOf F.fluClaimPeer] :=
  State.peerClaim_regsBut _ (State.regsBut_of_word (State.modPair_word _ _) (State.at_regsBut s cyc _))

theorem State.helloHeard_claim : (s.helloHeard cyc h).rd F.fluClaimPeer = h.claim % 65536 := State.peerClaim_claim _

theorem State.helloHeard_rd {g : Fld} (hg : g.off ≠ 0x108) : (s.helloHeard cyc h).rd g = s.rd g := by
  have hkey : keyOf g ∉ [keyOf F.fluClaimPeer] := by
    simp only [List.mem_singleton, keyOf, RegKey.mk.injEq, not_and]
    exact fun _ hoff => absurd hoff hg
  rw [State.rd, State.rd, State.helloHeard_regsBut _ hkey]

theorem State.helloHeard_vault : (s.helloHeard cyc h).vault = s.vault := by
  have hkeeps : Keeps (mask [.pair, .page .flu]) ((s.at cyc).unjoin true) (s.helloHeard cyc h) := State.peerClaim_keeps
  exact hkeeps.frame .vault (by decide)

theorem State.helloHeard_slot (n : Nat) : (s.helloHeard cyc h).slot n = s.slot n := by
  rw [State.slot, State.slot, State.helloHeard_vault]

/-- A HELLO that a unit in hello has taken is judged; after keying its nonce tells (R386). -/
theorem exec_hello {f : List Byte} (hstate : 3 ≤ s.rd F.fluStatState) (hf : s.joinedOf true = some f) :
    exec (.hello cyc) s = done (if s.keyed then
      (if s.pair.peerNonces.contains (readHello f).nonce then s.helloHeard cyc (readHello f)
        else (s.helloHeard cyc (readHello f)).enterHello)
      else (s.helloHeard cyc (readHello f)).judgeHello (readHello f)) := by
  have hjoined : (s.at cyc).joinedOf true = some f := hf
  have hkeyed : (s.helloHeard cyc (readHello f)).keyed = s.keyed := by
    rw [State.keyed, State.keyed, State.helloHeard_rd (by decide)]
  show execHello cyc s = _
  rw [execHello]
  rw [State.at_rd, if_neg (Nat.not_lt.mpr hstate), hjoined, ← hkeyed]
  rfl

/-! ### A unit in hello judges -/

/-- What a unit in hello judges a HELLO by (R386). -/
theorem State.judgeHello_conflict (hside : h.side = u.on F.fluStatSide) : u.judgeHello h =
    ((u.wr F.fluStatSideConflict 1).wr F.fluStatState 6).event F.fluEvtSideConflict := if_pos hside

theorem State.judgeHello_mismatch (hside : h.side ≠ u.on F.fluStatSide) (hv : v = u.rd F.fluCfgPairSlot)
    (husable : u.slotUsable v 4 = true) (hkcv : h.kcv ≠ (u.slot v).kcv) : u.judgeHello h =
    (((u.wr F.fluStatSideConflict 0).wr F.fluStatPairMismatch 1).wr F.fluStatState 6).event F.fluEvtPairMismatch := by
  subst hv
  have husable' : (u.wr F.fluStatSideConflict 0).slotUsable (u.rd F.fluCfgPairSlot) 4 = true := husable
  rw [State.judgeHello]
  dsimp only
  rw [if_neg hside, husable', State.wr_slot, if_neg (by decide), if_pos hkcv]

/-- A unit in hello that will use its slot's key. -/
def State.readyToKey (s : State) : State :=
  ((s.wr F.fluStatSideConflict 0).wr F.fluStatPairMismatch 0).wr F.fluStatState 3

theorem State.judgeHello_use (hside : h.side ≠ u.on F.fluStatSide) (hv : v = u.rd F.fluCfgPairSlot)
    (husable : u.slotUsable v 4 = true) (hkcv : h.kcv = (u.slot v).kcv) : u.judgeHello h =
    match u.readyToKey.takeUse v with
    | (s, .granted) => s.keyFlue v h
    | (s, _) => s := by
  subst hv
  have husable' : (u.wr F.fluStatSideConflict 0).slotUsable (u.rd F.fluCfgPairSlot) 4 = true := husable
  rw [State.judgeHello]
  dsimp only
  rw [if_neg hside, husable', State.wr_slot, if_neg (by decide), if_neg (not_not_intro hkcv)]
  rfl

theorem State.judgeHello_granted (hside : h.side ≠ u.on F.fluStatSide) (hv : v = u.rd F.fluCfgPairSlot)
    (husable : u.slotUsable v 4 = true) (hkcv : h.kcv = (u.slot v).kcv) (hgrant : (u.readyToKey.takeUse v).2 = .granted) :
    u.judgeHello h = (u.readyToKey.takeUse v).1.keyFlue v h := by
  rw [State.judgeHello_use hside hv husable hkcv, ← Prod.mk.eta (p := u.readyToKey.takeUse v), hgrant]

/-! ### The Flue is keyed -/

/-- What shows of a Flue that is keyed. -/
def State.showsKeyed (s : State) : State :=
  (((s.wr F.fluStatState 4).wr F.fluStatSideConflict 0).wr F.fluStatPairMismatch 0).flueDegrade

/-- The pair key is taken into use. -/
def State.takesPairKey (s : State) (v : Nat) (side : Bool) (nonce : List Byte) : State :=
  s.modPair (fun p => { p with key := pairKey (s.slot v).key side p.nonce nonce, peerNonces := p.peerNonces ++ [nonce] })

theorem State.keyFlue_eq : s.keyFlue v h =
    if (s.showsKeyed.takesPairKey v (s.on F.fluStatSide) h.nonce).on F.fluStatLockHeld then
      (s.showsKeyed.takesPairKey v (s.on F.fluStatSide) h.nonce).startBulk
    else s.showsKeyed.takesPairKey v (s.on F.fluStatSide) h.nonce := rfl

theorem State.showsKeyed_state : s.showsKeyed.rd F.fluStatState = 4 := by
  rw [State.showsKeyed, State.flueDegrade_rd (by decide), State.rd_wr_apart _ _ _ _ _ _ (by decide) (by decide),
    State.rd_wr_apart _ _ _ _ _ _ (by decide) (by decide), State.rd_wr_of_lt _ _ (by decide) (by decide)]

theorem State.showsKeyed_lock : s.showsKeyed.on F.fluStatLockHeld = s.on F.fluStatLockHeld := by
  rw [State.on, State.on, State.showsKeyed, State.flueDegrade_rd (by decide),
    State.rd_wr_apart _ _ _ _ _ _ (by decide) (by decide), State.rd_wr_apart _ _ _ _ _ _ (by decide) (by decide),
    State.rd_wr_apart _ _ _ _ _ _ (by decide) (by decide)]

theorem State.showsKeyed_pair : s.showsKeyed.pair = s.pair := by
  rw [State.showsKeyed, State.flueDegrade_pair, State.wr_pair, State.wr_pair, State.wr_pair]

theorem State.showsKeyed_slot (n : Nat) : s.showsKeyed.slot n = s.slot n := by
  rw [State.showsKeyed, State.flueDegrade_slot, State.wr_slot, State.wr_slot, State.wr_slot]

/-- A Flue keyed: its state, its key, and the bulk pass of the holder of the lock. -/
theorem State.keyFlue_keys : (s.keyFlue v h).rd F.fluStatState = 4 ∧
    (s.keyFlue v h).pair.key = pairKey (s.slot v).key (s.on F.fluStatSide) s.pair.nonce h.nonce ∧
    (s.on F.fluStatLockHeld = true → (s.keyFlue v h).pair.bulk.isSome = true) := by
  have hkey : (s.showsKeyed.takesPairKey v (s.on F.fluStatSide) h.nonce).pair.key =
      pairKey (s.slot v).key (s.on F.fluStatSide) s.pair.nonce h.nonce := by
    rw [State.takesPairKey, State.modPair_pair, State.showsKeyed_pair, State.showsKeyed_slot]
  have hlock : (s.showsKeyed.takesPairKey v (s.on F.fluStatSide) h.nonce).on F.fluStatLockHeld = s.on F.fluStatLockHeld := by
    rw [State.takesPairKey, State.modPair_on, State.showsKeyed_lock]
  have hstate : (s.showsKeyed.takesPairKey v (s.on F.fluStatSide) h.nonce).rd F.fluStatState = 4 := by
    rw [State.takesPairKey, State.modPair_rd, State.showsKeyed_state]
  rw [State.keyFlue_eq, hlock]
  generalize s.showsKeyed.takesPairKey v (s.on F.fluStatSide) h.nonce = w at hkey hstate
  split
  · exact ⟨(State.modPair_rd ..).trans hstate, hkey, fun _ => rfl⟩
  · next hoff => exact ⟨hstate, hkey, fun hon => absurd hon hoff⟩

/-! ### The statement's cases in hello -/

section
variable {f : List Byte} (hf : s.joinedOf true = some f) (hhello : s.rd F.fluStatState = 3 ∨ s.rd F.fluStatState = 6)
include hf hhello

theorem exec_hello_judged : exec (.hello cyc) s = done ((s.helloHeard cyc (readHello f)).judgeHello (readHello f)) := by
  rw [exec_hello (by omega) hf, if_neg]
  simp only [State.keyed, decide_eq_true_eq]
  omega

theorem hello_conflict (hside : (readHello f).side = s.on F.fluStatSide) :
    Runs (.hello cyc) s (fun t => t.rd F.fluStatSideConflict = 1 ∧ t.rd F.fluStatState = 6 ∧ t.evt F.fluEvtSideConflict = 1 ∧
      t.rd F.fluClaimPeer = (readHello f).claim % 65536 ∧ t.pair.claimAt = s.tick ∧ t.pair.key = s.pair.key ∧
      t.pair.joined = (s.unjoin true).pair.joined) := by
  have hexec := exec_hello_judged (cyc := cyc) hf hhello
  have hclaim := State.helloHeard_claim (s := s) (cyc := cyc) (h := readHello f)
  have hpair := State.helloHeard_pair (s := s) (cyc := cyc) (h := readHello f)
  have hsame : (s.helloHeard cyc (readHello f)).on F.fluStatSide = s.on F.fluStatSide := by
    rw [State.on, State.on, State.helloHeard_rd (by decide)]
  generalize s.helloHeard cyc (readHello f) = w at hexec hclaim hpair hsame
  rw [State.judgeHello_conflict (hside.trans hsame.symm)] at hexec
  refine runs_of_done hexec ?_
  rw [State.closed_rd, State.closed_rd, State.closed_rd, State.closed_pair, State.closed_evt _ _ _ (by decide), State.event_rd,
    State.event_rd, State.event_rd, State.event_pair, State.wr_pair, State.wr_pair, hpair]
  refine ⟨?_, State.rd_wr_of_lt _ _ (by decide) (by decide), State.event_evt_self _ _ (by decide) rfl, ?_, rfl, rfl, rfl⟩
  · rw [State.rd_wr_apart _ _ _ _ _ _ (by decide) (by decide), State.rd_wr_of_lt _ _ (by decide) (by decide)]
  · rw [State.rd_wr_apart _ _ _ _ _ _ (by decide) (by decide), State.rd_wr_apart _ _ _ _ _ _ (by decide) (by decide), hclaim]

theorem hello_mismatch (hv : v = s.rd F.fluCfgPairSlot) (hside : (readHello f).side ≠ s.on F.fluStatSide)
    (husable : s.slotUsable v 4 = true) (hkcv : (readHello f).kcv ≠ (s.slot v).kcv) :
    Runs (.hello cyc) s (fun t => t.rd F.fluStatPairMismatch = 1 ∧ t.rd F.fluStatState = 6 ∧ t.evt F.fluEvtPairMismatch = 1 ∧
      t.pair.key = s.pair.key ∧ t.vault = s.vault) := by
  have hexec := exec_hello_judged (cyc := cyc) hf hhello
  have hpair := State.helloHeard_pair (s := s) (cyc := cyc) (h := readHello f)
  have hvault := State.helloHeard_vault (s := s) (cyc := cyc) (h := readHello f)
  have hsame : (s.helloHeard cyc (readHello f)).on F.fluStatSide = s.on F.fluStatSide := by
    rw [State.on, State.on, State.helloHeard_rd (by decide)]
  have hslot : v = (s.helloHeard cyc (readHello f)).rd F.fluCfgPairSlot := by rw [State.helloHeard_rd (by decide), hv]
  generalize s.helloHeard cyc (readHello f) = w at hexec hpair hvault hsame hslot
  have hw (n : Nat) : w.slot n = s.slot n := by rw [State.slot, State.slot, hvault]
  have husable' : w.slotUsable v 4 = true := by
    rw [← husable, State.slotUsable, State.slotUsable, State.slotStands, State.slotStands, hw]
  rw [State.judgeHello_mismatch (by rwa [hsame]) hslot husable' (by rwa [hw])] at hexec
  refine runs_of_done hexec ?_
  rw [State.closed_rd, State.closed_rd, State.closed_pair, State.closed_vault, State.closed_evt _ _ _ (by decide), State.event_rd,
    State.event_rd, State.event_pair, State.event_vault, State.wr_pair, State.wr_pair, State.wr_pair, State.wr_vault, State.wr_vault,
    State.wr_vault, hpair]
  refine ⟨?_, State.rd_wr_of_lt _ _ (by decide) (by decide), State.event_evt_self _ _ (by decide) rfl, rfl, hvault⟩
  rw [State.rd_wr_apart _ _ _ _ _ _ (by decide) (by decide), State.rd_wr_of_lt _ _ (by decide) (by decide)]

theorem hello_keys (hv : v = s.rd F.fluCfgPairSlot) (hside : (readHello f).side ≠ s.on F.fluStatSide)
    (husable : s.slotUsable v 4 = true) (hkcv : (readHello f).kcv = (s.slot v).kcv) :
    Runs (.hello cyc) s (fun t => (s.takeUse v).2 = .granted →
      t.rd F.fluStatState = 4 ∧ t.pair.key = pairKey (s.slot v).key (s.on F.fluStatSide) s.pair.nonce (readHello f).nonce ∧
      (s.on F.fluStatLockHeld = true → t.pair.bulk.isSome = true)) := by
  refine runs_of_done (exec_hello_judged (cyc := cyc) hf hhello) fun hgrant => ?_
  have hrd {g : Fld} (hg : g.off ≠ 0x108) := State.helloHeard_rd (s := s) (cyc := cyc) (h := readHello f) hg
  have hpair := State.helloHeard_pair (s := s) (cyc := cyc) (h := readHello f)
  have hvault := State.helloHeard_vault (s := s) (cyc := cyc) (h := readHello f)
  generalize s.helloHeard cyc (readHello f) = w at hrd hpair hvault
  have hw (n : Nat) : w.slot n = s.slot n := by rw [State.slot, State.slot, hvault]
  have husable' : w.slotUsable v 4 = true := by
    rw [← husable, State.slotUsable, State.slotUsable, State.slotStands, State.slotStands, hw]
  have hsame : w.on F.fluStatSide = s.on F.fluStatSide := by rw [State.on, State.on, hrd (by decide)]
  have hready : w.readyToKey.vault = s.vault := by rw [State.readyToKey, State.wr_vault, State.wr_vault, State.wr_vault, hvault]
  have hfield {g : Fld} (hg : g.off ≠ 0x108) (hconflict : Fld.apart F.fluStatSideConflict g = true)
      (hmismatch : Fld.apart F.fluStatPairMismatch g = true) (hstate : Fld.apart F.fluStatState g = true) :
      w.readyToKey.rd g = s.rd g := by
    rw [State.readyToKey, State.rd_wr_apart _ _ _ _ _ _ (by decide) hstate, State.rd_wr_apart _ _ _ _ _ _ (by decide) hmismatch,
      State.rd_wr_apart _ _ _ _ _ _ (by decide) hconflict, hrd hg]
  have hkeyed : w.readyToKey.pair = w.pair := by rw [State.readyToKey, State.wr_pair, State.wr_pair, State.wr_pair]
  have hslot (n : Nat) : w.readyToKey.slot n = s.slot n := by rw [State.slot, State.slot, hready]
  have hgrant' : (w.readyToKey.takeUse v).2 = .granted := by
    rw [← hgrant]
    refine State.takeUse_grant_congr (hslot v) (by rw [hready]) ?_
    have hinhibit : w.readyToKey.on F.pwrStatNvInhibit = s.on F.pwrStatNvInhibit := by
      rw [State.on, State.on, hfield (by decide) (by decide) (by decide) (by decide)]
    have hmode : w.readyToKey.mode = s.mode := hfield (by decide) (by decide) (by decide) (by decide)
    rw [State.nvInhibited, State.nvInhibited, hinhibit, hmode]
  rw [State.judgeHello_granted (by rwa [hsame]) (by rw [hrd (by decide), hv]) husable' (by rwa [hw]) hgrant',
    State.closed_rd, State.closed_pair]
  obtain ⟨n, hused⟩ := State.takeUse_slot hgrant' v
  have htaken : ((w.readyToKey.takeUse v).1).pair = w.readyToKey.pair := State.takeUse_keeps.fst.frame .pair (by decide)
  have hfields (g : Fld) : ((w.readyToKey.takeUse v).1).rd g = w.readyToKey.rd g := State.takeUse_rd g
  generalize (w.readyToKey.takeUse v).1 = z at hused htaken hfields
  have hkey : (z.slot v).key = (s.slot v).key := by
    rw [hused, hslot]
    rfl
  have hon {g : Fld} (hg : g.off ≠ 0x108) (hconflict : Fld.apart F.fluStatSideConflict g = true)
      (hmismatch : Fld.apart F.fluStatPairMismatch g = true) (hstate : Fld.apart F.fluStatState g = true) :
      z.on g = s.on g := by rw [State.on, State.on, hfields, hfield hg hconflict hmismatch hstate]
  obtain ⟨hstate, hpairKey, hbulk⟩ := State.keyFlue_keys (s := z) (v := v) (h := readHello f)
  rw [hkey, htaken, hkeyed, hpair, hon (by decide) (by decide) (by decide) (by decide)] at hpairKey
  rw [hon (by decide) (by decide) (by decide) (by decide)] at hbulk
  exact ⟨hstate, hpairKey, hbulk⟩

end

end Sys2Proof.Machine
end

section
/-! PROOF. HELLO frames after keying, mirror frames, and the statement on the Flue. -/

namespace Sys2Proof.Machine

open Sys2Proof

variable {s t u : State} {h : Hello} {cyc : Cyc} {f : List Byte} {n : List Byte}

/-! ### After keying (R386) -/

/-- The registers of a Flue in hello. -/
def State.showsHello (s : State) : State :=
  (((s.dropMirror.dropSync.wr F.fluStatState 3).wr F.fluSlipDrops 0).wr F.fluSlipRepeats 0).flueDegrade

/-- Nothing of an earlier keying stands (R386). -/
def State.forgetsPair (s : State) (n : List Byte) : State := s.modPair (fun p => { p with
  nonce := n, key := [], txSeq := 0, waiting := [], taken := none, missed := 0, still := 0, acked := 0, ackMoved := false
  records := [], unacked := [], lastRec := 0, sent := {}, bulk := none, applied := 0, scheds := []
  ops := p.ops.map (fun e => (e.1, none)) })

theorem State.enterHello_eq : s.enterHello = (s.draw 32).1.showsHello.forgetsPair (s.draw 32).2 := rfl

theorem State.showsHello_reads : s.showsHello.rd F.fluStatState = 3 ∧ s.showsHello.rd F.fluStatMirrorValid = 0 ∧
    s.showsHello.rd F.fluStatPartnerSync = 0 := by
  refine ⟨?_, ?_, ?_⟩
  · rw [State.showsHello, State.flueDegrade_rd (by decide), State.rd_wr_apart _ _ _ _ _ _ (by decide) (by decide),
      State.rd_wr_apart _ _ _ _ _ _ (by decide) (by decide), State.rd_wr_of_lt _ _ (by decide) (by decide)]
  · rw [State.showsHello, State.flueDegrade_rd (by decide), State.rd_wr_apart _ _ _ _ _ _ (by decide) (by decide),
      State.rd_wr_apart _ _ _ _ _ _ (by decide) (by decide), State.rd_wr_apart _ _ _ _ _ _ (by decide) (by decide),
      State.dropSync_rd (by decide), State.dropMirror_valid]
  · rw [State.showsHello, State.flueDegrade_rd (by decide), State.rd_wr_apart _ _ _ _ _ _ (by decide) (by decide),
      State.rd_wr_apart _ _ _ _ _ _ (by decide) (by decide), State.rd_wr_apart _ _ _ _ _ _ (by decide) (by decide),
      State.dropSync_sync]

/-- A unit that enters hello has dropped its mirror, its partner and its key. -/
theorem State.enterHello_drops : s.enterHello.rd F.fluStatState = 3 ∧ s.enterHello.rd F.fluStatMirrorValid = 0 ∧
    s.enterHello.rd F.fluStatPartnerSync = 0 ∧ s.enterHello.pair.key = [] ∧ s.enterHello.pair.txSeq = 0 ∧
    s.enterHello.pair.waiting = [] ∧ s.enterHello.pair.unacked = [] := by
  rw [State.enterHello_eq]
  generalize (s.draw 32).1 = w
  generalize (s.draw 32).2 = n
  obtain ⟨hstate, hvalid, hsync⟩ := State.showsHello_reads (s := w)
  rw [State.forgetsPair, State.modPair_rd, State.modPair_rd, State.modPair_rd, State.modPair_pair]
  exact ⟨hstate, hvalid, hsync, rfl, rfl, rfl, rfl⟩

theorem State.state_of_keyed (h : s.keyed = true) : 3 ≤ s.rd F.fluStatState := by
  simp only [State.keyed, decide_eq_true_eq] at h
  omega

theorem hello_again (hf : s.joinedOf true = some f) (hkeyed : s.keyed = true)
    (hseen : s.pair.peerNonces.contains (readHello f).nonce = true) :
    Runs (.hello cyc) s (fun t => t.rd F.fluClaimPeer = (readHello f).claim % 65536 ∧ s.regsBut t [keyOf F.fluClaimPeer] ∧
      t.pair = { (s.unjoin true).pair with claimAt := s.tick, claimSeen := true }) := by
  have hexec := exec_hello (cyc := cyc) (State.state_of_keyed hkeyed) hf
  rw [if_pos hkeyed, if_pos hseen] at hexec
  exact runs_of_done hexec ⟨by rw [State.closed_rd, State.helloHeard_claim], State.closed_regsBut State.helloHeard_regsBut,
    by rw [State.closed_pair, State.helloHeard_pair]⟩

theorem hello_restarts (hf : s.joinedOf true = some f) (hkeyed : s.keyed = true)
    (hnew : s.pair.peerNonces.contains (readHello f).nonce = false) :
    Runs (.hello cyc) s (fun t => t.rd F.fluStatState = 3 ∧ t.rd F.fluStatMirrorValid = 0 ∧ t.rd F.fluStatPartnerSync = 0 ∧
      t.pair.key = [] ∧ t.pair.txSeq = 0 ∧ t.pair.waiting = [] ∧ t.pair.unacked = []) := by
  have hexec := exec_hello (cyc := cyc) (State.state_of_keyed hkeyed) hf
  rw [if_pos hkeyed, if_neg (by rw [hnew]; decide)] at hexec
  refine runs_of_done hexec ?_
  simp only [State.closed_rd, State.closed_pair]
  exact State.enterHello_drops

/-! ### A mirror frame is opened (R387, R389) -/

theorem mirrorFrame_nothing (sel : Fin 16) (alarm : Fin 4) (hnot : s.keyed = false ∨ s.joinedOf false = none) :
    Runs (.mirrorFrameVerified sel alarm) s (fun t => t.pair = s.pair ∧ s.regsBut t []) := by
  have hexec : exec (.mirrorFrameVerified sel alarm) s = done s := by
    show execMirrorFrameVerified sel alarm s = _
    rw [execMirrorFrameVerified]
    obtain hkeyed | hnone := hnot
    · rw [if_pos (by simp [hkeyed])]
    · rw [hnone, ite_self]
  exact runs_of_done hexec ⟨State.closed_pair s, State.closed_regsBut (State.regsBut_refl _ _)⟩

/-- The oldest mirror frame, opened under the pair key. -/
theorem exec_mirrorFrame {sel : Fin 16} {alarm : Fin 4} {bs : List Byte} (hkeyed : s.keyed = true)
    (hbs : s.joinedOf false = some bs) : exec (.mirrorFrameVerified sel alarm) s =
      done (match openMirror s.pair.key bs with
        | some f => (s.unjoin false).takeMirror { f with sel := sel, alarm := alarm }
        | none => ((s.unjoin false).count .flu 0 5).event F.fluEvtTagFail) := by
  show execMirrorFrameVerified sel alarm s = _
  rw [execMirrorFrameVerified, if_neg (by simp [hkeyed]), hbs]
  rfl

theorem State.unjoin_regsBut (hello : Bool) : s.regsBut (s.unjoin hello) [] :=
  State.regsBut_of_word (State.modPair_word _ _) (State.regsBut_refl _ _)

theorem mirrorFrame_forged {sel : Fin 16} {alarm : Fin 4} {bs : List Byte} (hkeyed : s.keyed = true)
    (hbs : s.joinedOf false = some bs) (hopen : openMirror s.pair.key bs = none) :
    Runs (.mirrorFrameVerified sel alarm) s (fun t => t.evt F.fluEvtTagFail = 1 ∧ t.pair = (s.unjoin false).pair ∧
      s.regsBut t []) := by
  have hexec := exec_mirrorFrame (sel := sel) (alarm := alarm) hkeyed hbs
  rw [hopen] at hexec
  refine runs_of_done hexec ⟨?_, ?_, ?_⟩
  · rw [State.closed_evt _ _ _ (by decide), State.event_evt_self _ _ (by decide) rfl]
  · rw [State.closed_pair, State.event_pair, State.count_pair]
  · have htold : Keeps (mask [.rep]) (s.unjoin false) (((s.unjoin false).count .flu 0 5).event F.fluEvtTagFail) :=
      State.event_keeps.step (by rfl) (Keeps.count ..)
    exact State.closed_regsBut (State.regsBut_trans (State.unjoin_regsBut false) (htold.regsBut (by simp)))

/-! ### What a frame acknowledges (R391) -/

/-- A frame acknowledges the records up to `n`. -/
def Pair.acks (p : Pair) (n : Nat) : Pair :=
  { p with acked := n, ackMoved := true, unacked := p.unacked.filter (fun e => decide (n < e.1))
           ops := p.ops.filter (fun e => e.2.all (n < ·)) }

theorem State.ackRecords_old {n : Nat} (h : ¬ (s.pair.acked < n ∧ n ≤ s.pair.lastRec)) : s.ackRecords n = s :=
  if_pos (by omega)

theorem State.markAcked_pair {a epoch mark : Nat} {phase : Bool} : (s.markAcked a phase epoch mark).pair = s.pair :=
  State.markAcked_keeps.frame .pair (by decide)

/-- The marks that a frame acknowledges act (R161). -/
def State.ackMarks (s : State) (l : List (Nat × MRec)) : State :=
  forL l (fun e s => match e.2 with
    | .pnMark a ph ep m => s.markAcked a ph ep m
    | _ => s) s

theorem State.ackMarks_keeps (l : List (Nat × MRec)) : Keeps (mask [.assocs]) s (s.ackMarks l) := by
  refine Keeps.forL (fun e u => ?_) (Keeps.refl s)
  split
  · exact State.markAcked_keeps
  · exact Keeps.refl u

theorem State.ackRecords_new {n : Nat} (h : s.pair.acked < n ∧ n ≤ s.pair.lastRec) :
    (s.ackRecords n).pair = s.pair.acks n := by
  have hmarks : (s.ackMarks (s.pair.unacked.filter (fun e => decide (e.1 ≤ n)))).pair = s.pair :=
    (State.ackMarks_keeps _).frame .pair (by decide)
  have heq : s.ackRecords n =
      if ((s.ackMarks (s.pair.unacked.filter (fun e => decide (e.1 ≤ n)))).modPair (·.acks n)).pair.ops.isEmpty then
        ((s.ackMarks (s.pair.unacked.filter (fun e => decide (e.1 ≤ n)))).modPair (·.acks n)).wr F.devGopStatPartnerWait 0
      else (s.ackMarks (s.pair.unacked.filter (fun e => decide (e.1 ≤ n)))).modPair (·.acks n) := if_neg (by omega)
  rw [heq]
  split
  · rw [State.wr_pair, State.modPair_pair, hmarks]
  · rw [State.modPair_pair, hmarks]

/-- The part of the pair logic that an acknowledgement changes, and what it leaves. -/
theorem State.ackRecords_pair (n : Nat) :
    (s.ackRecords n).pair.claimAt = s.pair.claimAt ∧ (s.ackRecords n).pair.taken = s.pair.taken ∧
    (s.ackRecords n).pair.joined = s.pair.joined ∧ (s.ackRecords n).pair.waiting = s.pair.waiting ∧
    if s.pair.acked < n ∧ n ≤ s.pair.lastRec then
      (s.ackRecords n).pair.acked = n ∧ (s.ackRecords n).pair.unacked = s.pair.unacked.filter (fun e => decide (n < e.1))
    else (s.ackRecords n).pair.acked = s.pair.acked ∧ (s.ackRecords n).pair.unacked = s.pair.unacked := by
  by_cases h : s.pair.acked < n ∧ n ≤ s.pair.lastRec
  · rw [if_pos h, State.ackRecords_new h]
    exact ⟨rfl, rfl, rfl, rfl, rfl, rfl⟩
  · rw [if_neg h, State.ackRecords_old h]
    exact ⟨rfl, rfl, rfl, rfl, rfl, rfl⟩

theorem State.ackRecords_claim (n : Nat) : (s.ackRecords n).rd F.fluClaimPeer = s.rd F.fluClaimPeer :=
  State.ackRecords_keeps.rd _ 0 0 (by decide)

/-! ### A mirror frame that holds -/

/-- The number of the newest frame that waits, or of the one last taken. -/
def Pair.newest (p : Pair) : Nat := ((p.waiting.getLast?).map (·.seq)).getD ((p.taken.map (·.seq)).getD 0)

/-- A frame joins those that wait for the edge, of which three stand. -/
def Pair.queues (p : Pair) (f : MFrame) : Pair := { p with waiting := (p.waiting ++ [f]).drop (p.waiting.length - 3) }

/-- A frame waits unless a newer one does (R389). -/
def State.queuesFrame (s : State) (f : MFrame) : State :=
  let last := ((s.pair.waiting.getLast?).map (·.seq)).getD ((s.pair.taken.map (·.seq)).getD 0)
  if f.seq ≤ last then s
  else s.modPair (fun p => { p with waiting := (p.waiting ++ [f]).drop (p.waiting.length - 3) })

theorem State.queuesFrame_eq (s : State) (f : MFrame) :
    s.queuesFrame f = if f.seq ≤ s.pair.newest then s else s.modPair (·.queues f) := rfl

theorem State.takeMirror_eq {f : MFrame} : s.takeMirror f = ((s.peerClaim f.claim).ackRecords f.ack).queuesFrame f := by
  rw [State.takeMirror, State.queuesFrame]

theorem State.takeMirror_takes {f : MFrame} :
    (s.takeMirror f).rd F.fluClaimPeer = f.claim % 65536 ∧ (s.takeMirror f).pair.claimAt = s.tick ∧
    (s.takeMirror f).pair.taken = s.pair.taken ∧ (s.takeMirror f).pair.joined = s.pair.joined ∧
    (s.takeMirror f).pair.waiting =
      (if s.pair.newest < f.seq then (s.pair.waiting ++ [f]).drop (s.pair.waiting.length - 3) else s.pair.waiting) ∧
    if s.pair.acked < f.ack ∧ f.ack ≤ s.pair.lastRec then
      (s.takeMirror f).pair.acked = f.ack ∧ (s.takeMirror f).pair.unacked = s.pair.unacked.filter (fun e => decide (f.ack < e.1))
    else (s.takeMirror f).pair.acked = s.pair.acked ∧ (s.takeMirror f).pair.unacked = s.pair.unacked := by
  have hclaim := State.peerClaim_claim (s := s) f.claim
  have hpair : (s.peerClaim f.claim).pair = { s.pair with claimAt := s.tick, claimSeen := true } := by
    rw [State.peerClaim, State.modPair_pair, State.wr_pair]
  have hrd := State.ackRecords_claim (s := s.peerClaim f.claim) f.ack
  obtain ⟨hat, htaken, hjoined, hwaiting, hacks⟩ := State.ackRecords_pair (s := s.peerClaim f.claim) f.ack
  rw [hclaim] at hrd
  rw [hpair] at hat htaken hjoined hwaiting hacks
  rw [State.takeMirror_eq]
  generalize (s.peerClaim f.claim).ackRecords f.ack = w at hat htaken hjoined hwaiting hacks hrd
  have hnewest : w.pair.newest = s.pair.newest := by rw [Pair.newest, Pair.newest, htaken, hwaiting]
  rw [State.queuesFrame_eq, hnewest]
  by_cases hold : f.seq ≤ s.pair.newest
  · rw [if_pos hold, if_neg (Nat.not_lt.mpr hold)]
    exact ⟨hrd, hat, htaken, hjoined, hwaiting, hacks⟩
  · rw [if_neg hold, if_pos (Nat.lt_of_not_le hold), State.modPair_rd, State.modPair_pair, Pair.queues, hwaiting]
    exact ⟨hrd, hat, htaken, hjoined, rfl, hacks⟩

theorem mirrorFrame_held {sel : Fin 16} {alarm : Fin 4} {bs : List Byte} {f : MFrame} (hkeyed : s.keyed = true)
    (hbs : s.joinedOf false = some bs) (hopen : openMirror s.pair.key bs = some f) :
    Runs (.mirrorFrameVerified sel alarm) s (fun t => t.rd F.fluClaimPeer = f.claim % 65536 ∧ t.pair.claimAt = s.tick ∧
      t.pair.taken = s.pair.taken ∧ t.pair.joined = (s.unjoin false).pair.joined ∧
      t.pair.waiting =
        (if ((s.pair.waiting.getLast?).map (·.seq)).getD ((s.pair.taken.map (·.seq)).getD 0) < f.seq then
          (s.pair.waiting ++ [{ f with sel := sel, alarm := alarm }]).drop (s.pair.waiting.length - 3)
        else s.pair.waiting) ∧
      if s.pair.acked < f.ack ∧ f.ack ≤ s.pair.lastRec then
        t.pair.acked = f.ack ∧ t.pair.unacked = s.pair.unacked.filter (fun e => decide (f.ack < e.1))
      else t.pair.acked = s.pair.acked ∧ t.pair.unacked = s.pair.unacked) := by
  have hexec := exec_mirrorFrame (sel := sel) (alarm := alarm) hkeyed hbs
  rw [hopen] at hexec
  refine runs_of_done hexec ?_
  simp only [State.closed_rd, State.closed_pair]
  exact State.takeMirror_takes (s := s.unjoin false)

/-- Settles O52: a HELLO by the state of the Flue and what it names, and a mirror frame by whether it opens. -/
theorem flue : Obligations.Flue := by
  unfold Obligations.Flue
  refine ⟨fun s v cyc hv => ⟨hello_nothing, fun f h hf hh => ?_⟩, fun s sel alarm => ⟨mirrorFrame_nothing sel alarm,
    fun bs hkeyed hbs => ⟨mirrorFrame_forged hkeyed hbs, fun f => mirrorFrame_held hkeyed hbs⟩⟩⟩
  subst hh
  exact ⟨fun hhello => ⟨hello_conflict hf hhello, hello_mismatch hf hhello hv, hello_keys hf hhello hv⟩,
    fun hkeyed => ⟨hello_again hf hkeyed, hello_restarts hf hkeyed⟩⟩

end Sys2Proof.Machine
end

section
/-! PROOF. Partner failure and takeover (R405 to R407, R162). -/

namespace Sys2Proof.Machine

open Sys2Proof

variable {s t u : State} {a e k : Nat}

/-! ### The partner fails (R405) -/

theorem exec_partnerFailure (hmode : s.effMode = 5) (hsaw : s.pair.sawLock = true) (hfree : 2 ≤ s.pair.freeEdges)
    (hnone : s.pair.takeover = none) : exec .partnerFailure s =
      done (if (match s.currentClaim with | some c => decide (c < s.ownClaim) | none => true) then
        (s.event F.fluEvtPartnerFailed).modPair (fun p => { p with
          takeover := some ((s.event F.fluEvtPartnerFailed).tick + 1, (s.event F.fluEvtPartnerFailed).on F.fluStatMirrorValid) })
      else s.event F.fluEvtPartnerFailed) :=
  congrArg done (if_pos ⟨hmode, hsaw, hfree, hnone⟩)

theorem State.claimWins_iff : (match s.currentClaim with | some c => decide (c < s.ownClaim) | none => true) = true ↔
    ∀ c ∈ s.currentClaim, c < s.ownClaim := by
  cases s.currentClaim <;> simp

theorem partnerFailure_takes (hmode : s.effMode = 5) (hsaw : s.pair.sawLock = true) (hfree : 2 ≤ s.pair.freeEdges)
    (hnone : s.pair.takeover = none) (hwins : ∀ c ∈ s.currentClaim, c < s.ownClaim) :
    Runs .partnerFailure s (fun t => t.evt F.fluEvtPartnerFailed = 1 ∧ s.regsBut t [] ∧
      t.pair = { s.pair with takeover := some (s.tick + 1, s.on F.fluStatMirrorValid) }) := by
  have hexec := exec_partnerFailure hmode hsaw hfree hnone
  rw [if_pos (State.claimWins_iff.mpr hwins), State.event_tick, State.event_on] at hexec
  refine runs_of_done hexec ⟨?_, State.closed_regsBut (State.regsBut_of_word (State.modPair_word _ _) ?_), ?_⟩
  · rw [State.closed_evt _ _ _ (by decide), State.modPair_evt, State.event_evt_self _ _ (by decide) rfl]
  · exact Keeps.regsBut (State.event_keeps (s := s)) (by simp)
  · rw [State.closed_pair, State.modPair_pair, State.event_pair]

theorem partnerFailure_beaten (hmode : s.effMode = 5) (hsaw : s.pair.sawLock = true) (hfree : 2 ≤ s.pair.freeEdges)
    (hnone : s.pair.takeover = none) {c : Nat} (hc : c ∈ s.currentClaim) (hbeaten : s.ownClaim ≤ c) :
    Runs .partnerFailure s (fun t => t.evt F.fluEvtPartnerFailed = 1 ∧ t.pair = s.pair ∧ s.regsBut t []) := by
  have hexec := exec_partnerFailure hmode hsaw hfree hnone
  rw [if_neg (fun h => absurd (State.claimWins_iff.mp h c hc) (Nat.not_lt.mpr hbeaten))] at hexec
  refine runs_of_done hexec ⟨?_, ?_, State.closed_regsBut (Keeps.regsBut (State.event_keeps (s := s)) (by simp))⟩
  · rw [State.closed_evt _ _ _ (by decide), State.event_evt_self _ _ (by decide) rfl]
  · rw [State.closed_pair, State.event_pair]

/-! ### A mode that keeps the lock -/

/-- The mode whose rules hold becomes a driving one: the lock stands (R399). -/
theorem State.setEffMode_drives {m : Nat} (hm : m = 4 ∨ m = 7) : (s.setEffMode m).effMode = m ∧ (s.setEffMode m).pair = s.pair ∧
    ∀ {g : Fld}, Fld.apart F.devModePrevMode g = true → Fld.apart F.devModeMode g = true →
      (s.setEffMode m).rd g = s.rd g := by
  have hlt : m < 16 := by obtain rfl | rfl := hm <;> decide
  have hne : m ≠ 11 := by omega
  by_cases hbrown : s.mode = 11
  · have hmode : (s.wr F.devModePrevMode m).mode = 11 := by
      rw [State.mode, State.rd_wr_apart _ _ _ _ _ _ (by decide) (by decide), ← State.mode, hbrown]
    have heff : (s.wr F.devModePrevMode m).effMode = m := by
      rw [State.effMode, if_pos hmode, State.rd_wr_of_lt (f := F.devModePrevMode) _ _ (by decide) hlt]
    have hseals : (s.wr F.devModePrevMode m).sealing = true := by
      rw [State.sealing, heff]
      obtain rfl | rfl := hm <;> decide
    have hset : s.setEffMode m = s.wr F.devModePrevMode m := by
      rw [State.setEffMode, if_pos hbrown]
      exact if_pos hseals
    rw [hset]
    exact ⟨heff, State.wr_pair .., fun hprev _ => State.rd_wr_apart _ _ _ _ _ _ (by decide) hprev⟩
  · have hmode : ((s.wr F.devModePrevMode s.mode).wr F.devModeMode m).mode = m := by
      rw [State.mode, State.rd_wr_of_lt (f := F.devModeMode) _ _ (by decide) hlt]
    have heff : ((s.wr F.devModePrevMode s.mode).wr F.devModeMode m).effMode = m := by
      rw [State.effMode, if_neg (by rw [hmode]; exact hne), hmode]
    have hseals : ((s.wr F.devModePrevMode s.mode).wr F.devModeMode m).sealing = true := by
      rw [State.sealing, heff]
      obtain rfl | rfl := hm <;> decide
    have hset : s.setEffMode m = (s.wr F.devModePrevMode s.mode).wr F.devModeMode m := by
      rw [State.setEffMode, if_neg hbrown, State.setMode]
      exact if_pos hseals
    rw [hset]
    refine ⟨heff, by rw [State.wr_pair, State.wr_pair], fun hprev hnext => ?_⟩
    rw [State.rd_wr_apart _ _ _ _ _ _ (by decide) hnext, State.rd_wr_apart _ _ _ _ _ _ (by decide) hprev]

theorem takeoverComplete_acts (htook : s.pair.tookAt = some e) (hmode : s.effMode = 7) (hdue : e + 3 ≤ s.tick) :
    Runs .takeoverComplete s (fun t => t.effMode = 4 ∧ t.pair = s.pair ∧ t.rd F.fluStatLockHeld = s.rd F.fluStatLockHeld) := by
  have hexec : exec .takeoverComplete s = done (s.setEffMode 4) := by
    show execTakeoverComplete s = _
    rw [execTakeoverComplete, htook]
    exact congrArg done (if_pos ⟨hmode, hdue⟩)
  obtain ⟨heff, hpair, hrd⟩ := State.setEffMode_drives (s := s) (m := 4) (.inl rfl)
  refine runs_of_done hexec ⟨?_, by rw [State.closed_pair, hpair], by rw [State.closed_rd, hrd (by decide) (by decide)]⟩
  rw [State.effMode, State.closed_mode, State.closed_rd, ← State.effMode, heff]

/-! ### What a takeover shows -/

/-- The unit holds the lock, and drives. -/
def State.drives (s : State) (e : Nat) (warm : Bool) : State :=
  ((((s.setEffMode 7).takeLock).modPair (fun p => { p with takeover := none, tookAt := some e, noAdmit := true })).wr F.fluTkoEdge
    (e % 65536)).wr F.fluTkoWarm (b2n warm)

/-- The lines of the pair are driven as the partner last drove them. -/
def State.takesLines (s : State) : State := s.driveLines s.pair.alarm

/-- What shows of a unit that has taken over. -/
structure TookOver (e : Nat) (warm : Bool) (t : State) : Prop where
  mode : t.effMode = 7
  lock : t.rd F.fluStatLockHeld = 1
  edge : t.rd F.fluTkoEdge = e % 65536
  warm : t.rd F.fluTkoWarm = b2n warm
  takeover : t.pair.takeover = none
  tookAt : t.pair.tookAt = some e

theorem State.drives_tookOver (warm : Bool) : TookOver e warm (s.drives e warm) := by
  obtain ⟨heff, -, hrd⟩ := State.setEffMode_drives (s := s) (m := 7) (.inr rfl)
  have hword {g : Fld} (hlock : Fld.apart F.fluStatLockHeld g = true) (hedge : Fld.apart F.fluTkoEdge g = true)
      (hwarm : Fld.apart F.fluTkoWarm g = true) : (s.drives e warm).rd g = (s.setEffMode 7).rd g := by
    rw [State.drives, State.rd_wr_apart _ _ _ _ _ _ (by decide) hwarm, State.rd_wr_apart _ _ _ _ _ _ (by decide) hedge,
      State.modPair_rd, State.takeLock, State.rd_wr_apart _ _ _ _ _ _ (by decide) hlock]
  have hpair : (s.drives e warm).pair = { ((s.setEffMode 7).takeLock).pair with takeover := none, tookAt := some e, noAdmit := true } := by
    rw [State.drives, State.wr_pair, State.wr_pair, State.modPair_pair]
  refine ⟨?_, ?_, ?_, ?_, by rw [hpair], by rw [hpair]⟩
  · rw [State.effMode, State.mode, hword (by decide) (by decide) (by decide), hword (by decide) (by decide) (by decide),
      ← State.mode, ← State.effMode, heff]
  · rw [State.drives, State.rd_wr_apart _ _ _ _ _ _ (by decide) (by decide), State.rd_wr_apart _ _ _ _ _ _ (by decide) (by decide),
      State.modPair_rd, State.takeLock, State.rd_wr_of_lt _ _ (by decide) (by decide)]
  · rw [State.drives, State.rd_wr_apart _ _ _ _ _ _ (by decide) (by decide),
      State.rd_wr_of_lt _ _ (by decide) (show e % 65536 < 2 ^ F.fluTkoEdge.w from Nat.mod_lt _ (by decide))]
  · rw [State.drives, State.rd_wr_of_lt _ _ (by decide) (by cases warm <;> decide)]

theorem State.driveLines_pair (alarm : Nat) : (s.driveLines alarm).pair.takeover = s.pair.takeover ∧
    (s.driveLines alarm).pair.tookAt = s.pair.tookAt := by
  rw [State.driveLines]
  split
  · exact ⟨rfl, rfl⟩
  · exact ⟨rfl, rfl⟩

/-- What happens to the tables as the unit takes over leaves what shows of it. -/
abbrev takeoverParts : List Part :=
  [.sched, .rep, .assocs, .vault, .kindle, .slices, .msix, .fresh, .out, .page .hst, .page .slc]

theorem TookOver.keeps {warm : Bool} (h : TookOver e warm s) (hkeeps : Keeps (mask takeoverParts) s t) : TookOver e warm t where
  mode := by
    rw [State.effMode, State.mode, hkeeps.rd _ 0 0 (by decide), hkeeps.rd _ 0 0 (by decide)]
    exact h.mode
  lock := by rw [hkeeps.rd _ 0 0 (by decide), h.lock]
  edge := by rw [hkeeps.rd _ 0 0 (by decide), h.edge]
  warm := by rw [hkeeps.rd _ 0 0 (by decide), h.warm]
  takeover := by rw [hkeeps.frame .pair (by decide), h.takeover]
  tookAt := by rw [hkeeps.frame .pair (by decide), h.tookAt]

theorem State.takesLines_tookOver {warm : Bool} (h : TookOver e warm s) : TookOver e warm s.takesLines := by
  have hkeeps : Keeps (mask [.pair]) s s.takesLines := State.driveLines_keeps
  obtain ⟨htake, htook⟩ := State.driveLines_pair (s := s) s.pair.alarm
  refine ⟨?_, ?_, ?_, ?_, htake.trans h.takeover, htook.trans h.tookAt⟩
  · rw [State.effMode, State.mode, hkeeps.rd _ 0 0 (by decide), hkeeps.rd _ 0 0 (by decide)]
    exact h.mode
  · rw [hkeeps.rd _ 0 0 (by decide), h.lock]
  · rw [hkeeps.rd _ 0 0 (by decide), h.edge]
  · rw [hkeeps.rd _ 0 0 (by decide), h.warm]

/-! ### The events of the Flue stand -/

/-- From `s` to `t` no event register of the Flue has changed. -/
structure FlueSilent (s t : State) : Prop where
  evtWord : ∀ key : RegKey, key.page = .flu → t.evtWord key = s.evtWord key

theorem FlueSilent.refl (s : State) : FlueSilent s s := ⟨fun _ _ => rfl⟩

theorem FlueSilent.trans (h : FlueSilent s t) (h' : FlueSilent t u) : FlueSilent s u :=
  ⟨fun key hk => (h'.evtWord key hk).trans (h.evtWord key hk)⟩

theorem FlueSilent.of_rep (h : t.rep = s.rep) : FlueSilent s t :=
  ⟨fun key _ => congrArg (fun rep : Report => mget 0 rep.evt key) h⟩

theorem FlueSilent.of_kdl (h : OnlyKdlTells s t) : FlueSilent s t := ⟨fun key hk => h.evtWord key (by rw [hk]; decide)⟩

theorem FlueSilent.evt (h : FlueSilent s t) {f : Fld} {j : Nat} (hf : f.page = .flu) : t.evt f j = s.evt f j :=
  State.evt_of_evtWord (h.evtWord _ hf)

theorem FlueSilent.forL {α : Type} {f : α → State → State} (h : ∀ a s, FlueSilent s (f a s)) (l : List α) (s : State) :
    FlueSilent s (forL l f s) := by
  induction l generalizing s with
  | nil => exact .refl s
  | cons a l ih => exact (h a s).trans (ih (f a s))

theorem FlueSilent.forN {f : Nat → State → State} (h : ∀ n s, FlueSilent s (f n s)) (n : Nat) (s : State) :
    FlueSilent s (forN n f s) := by
  induction n with
  | zero => exact .refl s
  | succ n ih => exact forN_succ n f s ▸ ih.trans (h n _)

theorem FlueSilent.asnEvent {f : Fld} (hf : f.page = .asn) (s : State) : FlueSilent s (s.asnEvent f a) := by
  refine ⟨fun key hk => ?_⟩
  have hapart {g : Fld} {j : Nat} (hg : g.page = .asn) : key ≠ keyOf g j := by
    rintro rfl
    exact absurd (hk.symm.trans hg) (by decide)
  rw [State.asnEvent, State.event_evtWord, State.wrEvt_evtWord_ne (hapart hf), State.wrEvt_evtWord_ne (hapart rfl),
    State.wrEvt_evtWord_ne (hapart rfl)]

theorem FlueSilent.count (p : Page) (j sel n : Nat) (s : State) : FlueSilent s (s.count p j sel n) :=
  ⟨fun key _ => State.count_evtWord p j sel n key⟩

end Sys2Proof.Machine
end

section
/-! PROOF. The associations and links of a unit that takes over (R162, R406, R407), and the statement on takeovers. -/

namespace Sys2Proof.Machine

open Sys2Proof

variable {s t u : State} {a e k : Nat}

/-! ### Events of what a takeover does to the tables -/

theorem FlueSilent.emit (o : Out) (s : State) : FlueSilent s (s.emit o) := .of_rep rfl

theorem FlueSilent.schedule (due : Nat) (act : Act) (s : State) : FlueSilent s (s.schedule due act) := .of_rep rfl

theorem FlueSilent.setAsn (a : Nat) (x : Assoc) (s : State) : FlueSilent s (s.setAsn a x) := .of_rep rfl

theorem FlueSilent.modAsn (a : Nat) (f : Assoc → Assoc) (s : State) : FlueSilent s (s.modAsn a f) := .of_rep rfl

theorem FlueSilent.modSlice (n : Nat) (f : SliceRt → SliceRt) (s : State) : FlueSilent s (s.modSlice n f) := .of_rep rfl

theorem FlueSilent.wr (f : Fld) (x j o : Nat) (s : State) : FlueSilent s (s.wr f x j o) := .of_rep rfl

theorem FlueSilent.raiseVector (n : Nat) (s : State) : FlueSilent s (s.raiseVector n) :=
  .of_rep (State.raiseVector_keeps.frame .rep (by decide))

theorem FlueSilent.softTest (a : Nat) (s : State) : FlueSilent s (s.softTest a) :=
  .of_rep (State.softTest_keeps.frame .rep (by decide))

theorem FlueSilent.jumpAsn (a : Nat) (s : State) : FlueSilent s (s.jumpAsn a) := by
  have hset (x : Assoc) : FlueSilent s ((s.setAsn a x).softTest a) := (FlueSilent.setAsn a x s).trans (.softTest a _)
  rw [State.jumpAsn]
  dsimp only
  split
  · split
    · exact ((hset _).trans (.asnEvent rfl _)).trans (.schedule ..)
    · exact hset _
  · exact .refl s

theorem FlueSilent.jumpLink (k : Nat) (s : State) : FlueSilent s (s.jumpLink k) :=
  .of_rep (State.jumpLink_keeps.frame .rep (by decide))

theorem OnlyKdlTells.rollEvent {f : Fld} (hf : f.page = .kdl) (s : State) : OnlyKdlTells s (s.rollEvent f k) := by
  refine ⟨fun key hk => ?_⟩
  have hapart {g : Fld} {j : Nat} (hg : g.page = .kdl) : key ≠ keyOf g j := fun h => hk (by rw [h]; exact hg)
  rw [State.rollEvent, State.event_evtWord, State.wrEvt_evtWord_ne (hapart hf), State.wrEvt_evtWord_ne (hapart rfl),
    State.wrEvt_evtWord_ne (hapart rfl)]

theorem OnlyKdlTells.openSession (par initiator : Bool) (c : Nat) (s : State) :
    OnlyKdlTells s (s.openSession k par initiator c) := by
  have hdraw : OnlyKdlTells s (s.draw 32).1 := .of_rep (State.draw_keeps.fst.frame .rep (by decide))
  rw [State.openSession]
  refine (hdraw.trans (.modLink _ _)).trans (.onlyIf (fun s => ?_) _)
  exact (OnlyKdlTells.modLink _ s).trans (.rollEvent rfl _)

theorem OnlyKdlTells.tryOffer (par : Bool) (s : State) : OnlyKdlTells s (s.tryOffer k par) := by
  rw [State.tryOffer]
  split
  · exact .refl s
  · split
    · exact (OnlyKdlTells.openSession par true _ s).trans (.of_rep (State.lattice_keeps.frame .rep (by decide)))
    · exact .modLink _ s

theorem FlueSilent.offerAgain (s : State) : FlueSilent s s.offerAgain := by
  rw [State.offerAgain]
  refine .forN (fun k s => ?_) 144 s
  split
  · exact .of_kdl (.tryOffer false s)
  · exact .refl s

theorem FlueSilent.markPage (n addr : Nat) (s : State) : FlueSilent s (s.markPage n addr) := by
  rw [State.markPage]
  split
  · exact (FlueSilent.count .hst 0 9 1 s).trans (.emit ..)
  · exact .wr ..

theorem FlueSilent.sliceWrite (n addr : Nat) (bytes : List Byte) (s : State) : FlueSilent s (s.sliceWrite n addr bytes) := by
  have hemit := FlueSilent.emit (.hostWrite addr bytes) s
  rw [State.sliceWrite]
  split
  · exact .refl s
  · dsimp only
    split
    · exact hemit.trans (.forL (fun a w => .markPage n (max a addr) w) _ _)
    · exact hemit

theorem FlueSilent.ringEvent (n code object : Nat) (s : State) : FlueSilent s (s.ringEvent n code object) := by
  rw [State.ringEvent]
  split
  · exact .refl s
  · split
    · exact .wr ..
    · exact ((FlueSilent.sliceWrite _ _ _ s).trans (.modSlice ..)).trans (.raiseVector ..)

theorem FlueSilent.deadAsn (a cause : Nat) (s : State) : FlueSilent s (s.deadAsn a cause) := by
  rw [State.deadAsn]
  split
  · have htold : FlueSilent s (((s.modAsn a (fun e => { e with state := .dead, deadCause := cause, deadAt := s.tick })).asnEvent
        F.asnEvtDeadEntered a).count .asn 0 8) :=
      ((FlueSilent.modAsn a _ s).trans (.asnEvent rfl _)).trans (.count ..)
    refine htold.trans ?_
    rw [State.tellDead]
    split
    · exact .ringEvent _ _ _ _
    · exact .refl _
  · exact .refl s

/-! ### Entries in turn -/

/-- Of a step for each entry of a list without repetition, an entry of the list sees its own alone. -/
theorem forL_asn {f : Nat → State → State} (hf : ∀ a b s, b ≠ a → (f a s).asn b = s.asn b) (l : List Nat) (hl : l.Nodup) :
    ∀ s : State, (∀ b, b ∉ l → (forL l f s).asn b = s.asn b) ∧
      ∀ b ∈ l, ∃ w : State, w.asn b = s.asn b ∧ (forL l f s).asn b = (f b w).asn b := by
  induction l with
  | nil => exact fun s => ⟨fun _ _ => rfl, fun b hb => absurd hb List.not_mem_nil⟩
  | cons a l ih =>
    intro s
    obtain ⟨ha, hrest⟩ := List.nodup_cons.mp hl
    obtain ⟨hout, hin⟩ := ih hrest (f a s)
    refine ⟨fun b hb => ?_, fun b hb => ?_⟩
    · obtain ⟨hne, hnot⟩ := not_or.mp (fun h => hb (List.mem_cons.mpr h))
      exact (hout b hnot).trans (hf a b s hne)
    · obtain rfl | hmem := List.mem_cons.mp hb
      · exact ⟨s, rfl, hout b ha⟩
      · obtain ⟨w, hsame, hstep⟩ := hin b hmem
        have hne : b ≠ a := fun h => ha (h ▸ hmem)
        exact ⟨w, hsame.trans (hf a b s hne), hstep⟩

theorem State.asnListed_nodup (h : s.assocs.m.Pairwise (fun x y => x.1 < y.1)) : s.asnListed.Nodup := by
  refine List.pairwise_map.mpr (h.imp ?_)
  exact fun hlt => Nat.ne_of_lt hlt

theorem State.asn_of_assocs (h : t.assocs = s.assocs) (b : Nat) : t.asn b = s.asn b := by rw [State.asn, State.asn, h]

/-! ### An entry that jumps to its mark (R162) -/

theorem State.softTest_asn_ne {b : Nat} (h : b ≠ a) : (s.softTest a).asn b = s.asn b := by
  rw [State.softTest]
  split
  · rw [State.schedule_asn, State.setAsn_asn_ne _ _ h]
  · rfl

theorem Assoc.settled_of_keyed {x : Assoc} (h : x.state.keyless = false) : x.settled = x := if_neg (by rw [h]; decide)

theorem State.softTest_nextPn (h : (s.asn a).state.keyless = false) : ((s.softTest a).asn a).nextPn = (s.asn a).nextPn := by
  rw [State.softTest]
  split
  · rw [State.schedule_asn, State.setAsn_asn_self, Assoc.settled_of_keyed (x := { s.asn a with softHit := true }) h]
  · rfl

/-- The entry that a warm takeover leaves, but for what its soft limit tells. -/
def Assoc.jumps (x : Assoc) : Assoc :=
  { x with nextPn := x.pnMark, pnMark := if x.hardLimit ≤ x.pnMark then x.pnMark else x.pnMark + 2 ^ 24, claimPending := false }

theorem State.jumpAsn_of_keyed (h : (s.asn a).state = .live ∨ (s.asn a).state = .rolling ∨ (s.asn a).state = .draining) :
    s.jumpAsn a = if (s.asn a).hardLimit ≤ (s.asn a).pnMark then
      (((s.setAsn a (s.asn a).jumps).softTest a).asnEvent F.asnEvtHardHit a).schedule
        (((s.setAsn a (s.asn a).jumps).softTest a).tick + 1) (.asnDead a 3)
      else (s.setAsn a (s.asn a).jumps).softTest a := by
  rw [State.jumpAsn]
  exact if_pos h

theorem State.asnEvent_asn (f : Fld) (b : Nat) : (s.asnEvent f a).asn b = s.asn b :=
  State.asn_of_assocs (State.asnEvent_keeps.frame .assocs (by decide)) b

/-- What a warm takeover leaves of the table is the entry that has jumped. -/
theorem State.jumpAsn_asn (b : Nat) (h : (s.asn a).state = .live ∨ (s.asn a).state = .rolling ∨ (s.asn a).state = .draining) :
    (s.jumpAsn a).asn b = ((s.setAsn a (s.asn a).jumps).softTest a).asn b := by
  rw [State.jumpAsn_of_keyed h]
  split
  · rw [State.schedule_asn, State.asnEvent_asn]
  · rfl

theorem State.jumpAsn_asn_ne {b : Nat} (h : b ≠ a) : (s.jumpAsn a).asn b = s.asn b := by
  by_cases hstate : (s.asn a).state = .live ∨ (s.asn a).state = .rolling ∨ (s.asn a).state = .draining
  · rw [State.jumpAsn_asn b hstate, State.softTest_asn_ne h, State.setAsn_asn_ne _ _ h]
  · rw [State.jumpAsn]
    dsimp only
    rw [if_neg hstate]

theorem State.jumpAsn_nextPn (h : (s.asn a).state = .live) : ((s.jumpAsn a).asn a).nextPn = (s.asn a).pnMark := by
  have hkeyed : (s.asn a).jumps.state.keyless = false := by
    show (s.asn a).state.keyless = false
    rw [h]
    rfl
  have hset : (s.setAsn a (s.asn a).jumps).asn a = (s.asn a).jumps := by
    rw [State.setAsn_asn_self, Assoc.settled_of_keyed hkeyed]
  rw [State.jumpAsn_asn a (.inl h), State.softTest_nextPn (by rw [hset]; exact hkeyed), hset]
  rfl

/-! ### An entry that dies (R153, R407) -/

/-- The entry that becomes DEAD. -/
def Assoc.dies (x : Assoc) (cause tick : Nat) : Assoc := { x with state := .dead, deadCause := cause, deadAt := tick }

theorem State.deadAsn_assocs {cause : Nat} (h : (s.asn a).state.keyed = true) :
    (s.deadAsn a cause).assocs = (s.modAsn a (fun e => e.dies cause s.tick)).assocs := by
  have htold (w : State) (n : Nat) (valid : Bool) : (w.tellDead a n valid).assocs = w.assocs :=
    State.tellDead_keeps.frame .assocs (by decide)
  have hevent (w : State) : (w.asnEvent F.asnEvtDeadEntered a).assocs = w.assocs := State.asnEvent_keeps.frame .assocs (by decide)
  rw [State.deadAsn, if_pos h]
  dsimp only
  rw [htold, State.count_assocs, hevent]
  rfl

theorem State.deadAsn_asn_ne {b cause : Nat} (h : b ≠ a) : (s.deadAsn a cause).asn b = s.asn b := by
  by_cases hkeyed : (s.asn a).state.keyed = true
  · rw [State.asn_of_assocs (State.deadAsn_assocs hkeyed), State.modAsn_asn_ne _ _ h]
  · rw [State.deadAsn, if_neg hkeyed]

theorem State.deadAsn_asn_self {cause : Nat} (h : (s.asn a).state.keyed = true) :
    ((s.deadAsn a cause).asn a).state = .dead ∧ ((s.deadAsn a cause).asn a).deadCause = cause := by
  rw [State.asn_of_assocs (State.deadAsn_assocs h), State.modAsn_asn_self]
  exact ⟨rfl, rfl⟩

/-! ### The tables as the unit takes over -/

/-- Links go on, or offer again (R406). -/
def State.linksGoOn (s : State) : State := (forL (s.kindle.links.map (·.1)) State.jumpLink s).offerAgain

/-- Links end, and offer again (R407). -/
def State.linksEnd (s : State) : State :=
  (forL (s.kindle.links.map (·.1)) (fun k s => (s.closeSession k true).closeSession k false) s).offerAgain

theorem State.takeOver_warm : s.takeOver e true =
    (forL ((s.drives e true).takesLines.event F.fluEvtTakeoverWarm).asnListed State.jumpAsn
      ((s.drives e true).takesLines.event F.fluEvtTakeoverWarm)).linksGoOn := rfl

theorem State.takeOver_cold : s.takeOver e false =
    (forL ((s.drives e false).takesLines.event F.fluEvtTakeoverCold).asnListed (fun a s => s.deadAsn a 4)
      ((s.drives e false).takesLines.event F.fluEvtTakeoverCold)).linksEnd := rfl

theorem State.linksGoOn_keeps : Keeps (mask takeoverParts) s s.linksGoOn :=
  State.offerAgain_keeps.step (by rfl) (Keeps.forL (fun _ _ => State.jumpLink_keeps.mono (by rfl)) (Keeps.refl s))

theorem State.linksEnd_keeps : Keeps (mask takeoverParts) s s.linksEnd :=
  State.offerAgain_keeps.step (by rfl) (Keeps.forL (fun _ _ => State.closeSession_keeps.step (by rfl)
    (State.closeSession_keeps.mono (by rfl))) (Keeps.refl s))

theorem State.linksGoOn_silent : FlueSilent s s.linksGoOn := (FlueSilent.forL .jumpLink _ s).trans (.offerAgain _)

theorem State.linksEnd_silent : FlueSilent s s.linksEnd := by
  have hends (k : Nat) (w : State) : FlueSilent w ((w.closeSession k true).closeSession k false) :=
    FlueSilent.trans (.of_rep (State.closeSession_keeps.frame .rep (by decide)))
      (.of_rep (State.closeSession_keeps.frame .rep (by decide)))
  exact (FlueSilent.forL hends _ s).trans (.offerAgain _)

/-- Where no link is to start, none offers. -/
theorem State.offerAgain_idle (h : ∀ k, k < 144 → s.on F.kdlLinkCfgStart 0 k = false) : s.offerAgain = s := by
  have hnone (n : Nat) (hn : n ≤ 144) : forN n (fun k s =>
      if s.linkOn k && s.on F.kdlLinkCfgStart 0 k && (s.link k).cur.isNone then s.tryOffer k false else s) s = s := by
    induction n with
    | zero => rfl
    | succ n ih =>
      rw [forN_succ, ih (by omega)]
      exact if_neg (by simp [h n (by omega)])
  exact hnone 144 (Nat.le_refl _)

theorem State.linksGoOn_idle (hlinks : s.kindle.links = []) (h : ∀ k, k < 144 → s.on F.kdlLinkCfgStart 0 k = false) :
    s.linksGoOn = s := by
  rw [State.linksGoOn, hlinks]
  exact State.offerAgain_idle h

theorem State.linksEnd_idle (hlinks : s.kindle.links = []) (h : ∀ k, k < 144 → s.on F.kdlLinkCfgStart 0 k = false) :
    s.linksEnd = s := by
  rw [State.linksEnd, hlinks]
  exact State.offerAgain_idle h

/-- What a takeover has changed before it comes to the tables. -/
theorem State.takesLines_keeps (warm : Bool) (f : Fld) :
    Keeps (mask [.rep, .pair, .page .dev, .page .flu]) s ((s.drives e warm).takesLines.event f) :=
  State.event_keeps.step (by rfl) (State.driveLines_keeps.step (by rfl) (State.wr_keeps.step (by rfl) (State.wr_keeps.step (by rfl)
    (State.modPair_keeps.step (by rfl) (State.takeLock_keeps.step (by rfl) (State.setEffMode_keeps.mono (by rfl)))))))

theorem State.takesLines_start (warm : Bool) (f : Fld) (k : Nat) :
    ((s.drives e warm).takesLines.event f).on F.kdlLinkCfgStart 0 k = s.on F.kdlLinkCfgStart 0 k := by
  rw [State.on, State.on, (State.takesLines_keeps warm f).rd _ 0 k (by decide)]

theorem State.takesLines_assocs (warm : Bool) (f : Fld) : ((s.drives e warm).takesLines.event f).assocs = s.assocs :=
  (State.takesLines_keeps warm f).frame .assocs (by decide)

theorem State.takesLines_kindle (warm : Bool) (f : Fld) : ((s.drives e warm).takesLines.event f).kindle = s.kindle :=
  (State.takesLines_keeps warm f).frame .kindle (by decide)

theorem TookOver.event {warm : Bool} (h : TookOver e warm s) (f : Fld) : TookOver e warm (s.event f) :=
  h.keeps (State.event_keeps.mono (by rfl))

/-! ### The takeover -/

theorem exec_takeover {warm : Bool} (hdue : s.pair.takeover = some (e, warm)) (hmode : s.effMode = 5) (hcome : e ≤ s.tick) :
    exec .takeover s = done (s.takeOver e warm) := by
  show execTakeover s = _
  rw [execTakeover, hdue]
  exact congrArg done (if_pos ⟨hmode, hcome⟩)

/-- What a takeover shows is there once the command has ended. -/
theorem TookOver.closed {warm : Bool} (h : TookOver e warm s) : TookOver e warm s.closed where
  mode := by rw [State.effMode, State.closed_mode, State.closed_rd]; exact h.mode
  lock := by rw [State.closed_rd, h.lock]
  edge := by rw [State.closed_rd, h.edge]
  warm := by rw [State.closed_rd, h.warm]
  takeover := by rw [State.closed_pair, h.takeover]
  tookAt := by rw [State.closed_pair, h.tookAt]

/-- What a takeover does to one association after another. -/
structure AsnStep (step : Nat → State → State) : Prop where
  keeps : ∀ a s, Keeps (mask [.sched, .rep, .assocs, .slices, .msix, .out, .page .hst, .page .slc]) s (step a s)
  silent : ∀ a s, FlueSilent s (step a s)
  other : ∀ a b s, b ≠ a → (step a s).asn b = s.asn b

/-- What a takeover does to the links. -/
structure LinkStep (links : State → State) : Prop where
  keeps : ∀ s, Keeps (mask takeoverParts) s (links s)
  silent : ∀ s, FlueSilent s (links s)
  idle : ∀ s : State, s.kindle.links = [] → (∀ k, k < 144 → s.on F.kdlLinkCfgStart 0 k = false) → links s = s

theorem State.jumpAsn_step : AsnStep State.jumpAsn :=
  ⟨fun _ _ => State.jumpAsn_keeps.mono (by rfl), .jumpAsn, fun _ _ _ => State.jumpAsn_asn_ne⟩

theorem State.deadAsn_step (cause : Nat) : AsnStep (fun a s => s.deadAsn a cause) :=
  ⟨fun _ _ => State.deadAsn_keeps.mono (by rfl), fun a s => .deadAsn a cause s, fun _ _ _ => State.deadAsn_asn_ne⟩

theorem State.linksGoOn_step : LinkStep State.linksGoOn :=
  ⟨fun _ => State.linksGoOn_keeps, fun _ => State.linksGoOn_silent, fun _ => State.linksGoOn_idle⟩

theorem State.linksEnd_step : LinkStep State.linksEnd :=
  ⟨fun _ => State.linksEnd_keeps, fun _ => State.linksEnd_silent, fun _ => State.linksEnd_idle⟩

/-- The unit drives, tells its event, and goes through its associations and then its links. -/
theorem takeover_acts {warm : Bool} {f : Fld} (hpage : f.page = .flu) (hfits : f.fits = true) (hw : f.w = 1)
    {step : Nat → State → State} (hstep : AsnStep step) {links : State → State} (hlinks : LinkStep links)
    {w z : State} (hdrives : w = (s.drives e warm).takesLines.event f) (hall : z = forL w.asnListed step w)
    (hexec : exec .takeover s = done (links z)) {P : Assoc → Assoc → Prop} (hacts : ∀ a s, P (s.asn a) ((step a s).asn a)) :
    Runs .takeover s (fun t => TookOver e warm t ∧ t.evt f = 1 ∧
      (s.kindle.links = [] → (∀ k, k < 144 → s.on F.kdlLinkCfgStart 0 k = false) → s.assocs.m.Pairwise (fun x y => x.1 < y.1) →
        ∀ a ∈ s.asnListed, P (s.asn a) (t.asn a))) := by
  have htook : TookOver e warm w := hdrives ▸ (State.takesLines_tookOver (State.drives_tookOver warm)).event f
  have hevt : w.evt f = 1 := by rw [hdrives, State.event_evt_self _ _ hfits hw]
  have hassocs : w.assocs = s.assocs := by rw [hdrives, State.takesLines_assocs]
  have hkindle : w.kindle = s.kindle := by rw [hdrives, State.takesLines_kindle]
  have hstart (k : Nat) : w.on F.kdlLinkCfgStart 0 k = s.on F.kdlLinkCfgStart 0 k := by rw [hdrives, State.takesLines_start]
  have hpages : ∀ key ∈ settledWords, key.page ≠ .flu := by decide
  have hlisted : w.asnListed = s.asnListed := by rw [State.asnListed, State.asnListed, hassocs]
  have hkeeps : Keeps (mask [.sched, .rep, .assocs, .slices, .msix, .out, .page .hst, .page .slc]) w z :=
    hall ▸ Keeps.forL hstep.keeps (Keeps.refl w)
  have hsilent : FlueSilent w z := hall ▸ FlueSilent.forL hstep.silent _ w
  refine runs_of_done hexec ⟨?_, ?_, fun hnone hidle hsorted a ha => ?_⟩
  · exact ((htook.keeps (hkeeps.mono (by rfl))).keeps (hlinks.keeps z)).closed
  · have hnot : keyOf f 0 ∉ settledWords := fun h => hpages _ h hpage
    rw [State.closed_evt _ _ _ hnot, (hlinks.silent z).evt hpage, hsilent.evt hpage, hevt]
  · have hstands : links z = z := hlinks.idle z (by rw [hkeeps.frame .kindle (by decide), hkindle, hnone]) (fun k hk => by
      rw [State.on, hkeeps.rd _ 0 k (by decide), ← State.on, hstart, hidle k hk])
    have hnodup : w.asnListed.Nodup := hlisted ▸ State.asnListed_nodup hsorted
    obtain ⟨v, hsame, hown⟩ := (forL_asn hstep.other _ hnodup w).2 a (hlisted ▸ ha)
    rw [hstands, State.closed_asn, hall, hown, ← State.asn_of_assocs hassocs, ← hsame]
    exact hacts a v

theorem takeover_warm (hdue : s.pair.takeover = some (e, true)) (hmode : s.effMode = 5) (hcome : e ≤ s.tick) :
    Runs .takeover s (fun t => t.effMode = 7 ∧ t.rd F.fluStatLockHeld = 1 ∧ t.rd F.fluTkoEdge = e % 65536 ∧
      t.rd F.fluTkoWarm = 1 ∧ t.evt F.fluEvtTakeoverWarm = 1 ∧ t.pair.takeover = none ∧ t.pair.tookAt = some e ∧
      (s.kindle.links = [] → (∀ k, k < 144 → s.on F.kdlLinkCfgStart 0 k = false) → s.assocs.m.Pairwise (fun x y => x.1 < y.1) →
        ∀ a ∈ s.asnListed, (s.asn a).state = .live → (t.asn a).nextPn = (s.asn a).pnMark)) := by
  have hexec := (exec_takeover hdue hmode hcome).trans (congrArg done State.takeOver_warm)
  obtain ⟨t, hnext, htook, hevt, hasn⟩ := takeover_acts (f := F.fluEvtTakeoverWarm) rfl (by decide) rfl
    State.jumpAsn_step State.linksGoOn_step rfl rfl hexec (P := fun x y => x.state = .live → y.nextPn = x.pnMark) (fun _ _ => State.jumpAsn_nextPn)
  exact ⟨t, hnext, htook.mode, htook.lock, htook.edge, htook.warm, hevt, htook.takeover, htook.tookAt, hasn⟩

theorem takeover_cold (hdue : s.pair.takeover = some (e, false)) (hmode : s.effMode = 5) (hcome : e ≤ s.tick) :
    Runs .takeover s (fun t => t.effMode = 7 ∧ t.rd F.fluStatLockHeld = 1 ∧ t.rd F.fluTkoEdge = e % 65536 ∧
      t.rd F.fluTkoWarm = 0 ∧ t.evt F.fluEvtTakeoverCold = 1 ∧ t.pair.takeover = none ∧ t.pair.tookAt = some e ∧
      (s.kindle.links = [] → (∀ k, k < 144 → s.on F.kdlLinkCfgStart 0 k = false) → s.assocs.m.Pairwise (fun x y => x.1 < y.1) →
        ∀ a ∈ s.asnListed, (s.asn a).state.keyed = true → (t.asn a).state = .dead ∧ (t.asn a).deadCause = 4)) := by
  have hexec := (exec_takeover hdue hmode hcome).trans (congrArg done State.takeOver_cold)
  obtain ⟨t, hnext, htook, hevt, hasn⟩ := takeover_acts (f := F.fluEvtTakeoverCold) rfl (by decide) rfl
    (State.deadAsn_step 4) State.linksEnd_step rfl rfl hexec (P := fun x y => x.state.keyed = true → y.state = .dead ∧ y.deadCause = 4)
    (fun _ _ => State.deadAsn_asn_self)
  exact ⟨t, hnext, htook.mode, htook.lock, htook.edge, htook.warm, hevt, htook.takeover, htook.tookAt, hasn⟩

/-- Settles O54: a takeover acts on the mode, the lock and the lines, then entry by entry on a table that lists each once,
and last on the links; what comes later leaves what the unit shows of the takeover. -/
theorem takeovers : Obligations.Takeovers := by
  unfold Obligations.Takeovers
  intro s
  refine ⟨fun hmode hsaw hfree hnone => ⟨fun hwins => ?_, fun c hc hbeaten => ?_⟩, fun e => takeover_warm, fun e => takeover_cold,
    fun e => takeoverComplete_acts⟩
  · exact partnerFailure_takes hmode hsaw hfree hnone hwins
  · exact partnerFailure_beaten hmode hsaw hfree hnone hc hbeaten

end Sys2Proof.Machine
end
